-- ==== Sys2Proof/Word.lean ====
section
/-! DEFINITION. The two sizes of bit vector that software sees: the 32-bit register word (R4, R60) and the byte. -/
namespace Sys2Proof

/-- A 32-bit register, instruction or memory word (R4, R60, R64). -/
abbrev Word := BitVec 32

/-- One byte of memory or of a packet (R3). -/
abbrev Byte := BitVec 8

end Sys2Proof
end

