-- ==== Sys2Proof/Syntax.lean ====
section
/-! DEFINITION. The commands of the block: one constructor of `Instr` per row of the spec's opcode table, with the row's
operands, and the plain types those operands need. -/
namespace Sys2Proof

/-- The three FK-32 cores software and debug can name (R22, R62 CORE_ID, R490). -/
inductive CoreId where
  | panA | panB | steward
  deriving DecidableEq, Repr, Inhabited

/-- The two Pans (R22). -/
inductive PanId where
  | a | b
  deriving DecidableEq, Repr, Inhabited

/-- Who presents a register access: a core at a privilege level (0 application, 1 runtime, 2 machine), a DMA channel, or the
debug port (R21, R115). -/
inductive Who where
  | core (c : CoreId) (pl : Fin 3)
  | dma (ch : Fin 64)
  | debug
  deriving DecidableEq, Repr

/-- The faults of a DMA burst that arise outside the engine (R123). -/
inductive BurstFault where
  | eccSource | busError | islandReset | popLost
  deriving DecidableEq, Repr

/-- The faults of R165 that arise outside the Rake at a boundary: the first entry that the last harvest had not reached, and the
power-die link failing the snapshot or the commit transfer. -/
structure BndFault where
  late : Option Nat
  snap : Bool
  commit : Bool
  deriving DecidableEq, Repr

/-- A boundary of a Pan and the faults it meets (R145, R165). -/
structure PanBnd where
  pan : PanId
  flt : BndFault
  deriving DecidableEq, Repr

/-- The host port at a transaction (R57): whether it can accept one, and how much of the 64 KiB receive buffer is free. -/
structure HostAt where
  rdy : Bool
  room : Fin 65537
  deriving DecidableEq, Repr

/-- A frame of the ISO 15765-2 channel: its identifier word and its data (R54). -/
structure IsoFrame where
  rid : BitVec 32
  data : List (BitVec 8)
  deriving DecidableEq, Repr

/-- The link a Brineline frame comes from and its header (R171): destination, source, HOPS and BSEQ. -/
structure BrlHead where
  l : Fin 3
  dst : BitVec 12
  origin : BitVec 12
  hops : BitVec 16
  bseq : BitVec 16
  deriving DecidableEq, Repr

/-- A MAC and how many ns back the start of the frame passed it (R255). -/
structure MacAt where
  n : Fin 2
  ago : BitVec 32
  deriving DecidableEq, Repr

/-- The MAC a PTP message comes in on and whether it comes over UDP (R254). -/
structure PtpVia where
  n : Fin 2
  udp : Bool
  deriving DecidableEq, Repr

/-- A PTP message that names a requesting port: `mine` when that is the device's (R254). -/
structure PtpTo where
  n : Fin 2
  udp : Bool
  mine : Bool
  deriving DecidableEq, Repr

/-- A PTP request and the port it comes from (R254). -/
structure PtpFrom where
  n : Fin 2
  udp : Bool
  port : BitVec 80
  deriving DecidableEq, Repr

/-- A channel of HSS whose current reaches the limit of a code (R270). -/
structure HssLimit where
  n : Fin 48
  code : Fin 4
  deriving DecidableEq, Repr

/-- A raw value that has held for a number of consecutive 1 µs ticks (R314, R315). -/
structure DioRun where
  val : Bool
  ticks : BitVec 16
  deriving DecidableEq, Repr

/-- What a row slot of the matrix measures (R344, R346): each column's voltage in mV, from bit 16c on, and the columns below VOPEN. -/
structure LmxMeas where
  mv : BitVec 256
  below : BitVec 16
  deriving DecidableEq, Repr

/-- What a transponder poll brings (R353, R364): the highest voltage of its quiet windows in an aerial of MEAS, and the answer's bytes. -/
structure TpAnswer where
  mv : BitVec 12
  frame : List (BitVec 8)
  deriving DecidableEq, Repr

/-- The temperatures of the two dies (R441): the highest of the logic die in °C + 50, the power die's in 0.1 °C. -/
structure ThermRead where
  temp : BitVec 8
  power : BitVec 16
  deriving DecidableEq, Repr

/-- A request packet as the Command Engine takes it (R30): the transport and endpoint it came from, its address fields, SEQ
and SESS, its tag when FLG[0] is 1, and its payload. GRP and OP are the row's. -/
structure Req where
  tp : Fin 6
  ep : Nat
  dst : BitVec 12
  src : BitVec 12
  seq : BitVec 16
  sess : BitVec 16
  tag : Option (List Byte)
  payload : List Byte
  deriving DecidableEq, Repr

/-- The transport, endpoint and SEQ that name a request (R34). -/
structure ReqKey where
  tp : Fin 6
  ep : Nat
  seq : BitVec 16
  deriving DecidableEq, Repr


/-- A CAN frame as a controller has received it (R204): the RID word, DLC, BRS, ESI, the data bytes, and DTIME div 1,000 at
the sample point of SOF. -/
structure CanFrame where
  rid : BitVec 32
  dlc : BitVec 4
  brs : Bool
  esi : Bool
  data : List Byte
  sof : BitVec 32
  deriving DecidableEq, Repr, Inhabited

/-- The commands, in the order of the opcode table. Each constructor's comment is its row's mnemonic. -/
inductive Instr where
  /-- ADD (R70): Integer add of two registers, setting N Z C V H. -/
  | add (c : CoreId) (rd ra rb : Fin 32)
  /-- ADC (R70): Integer add with carry in. -/
  | adc (c : CoreId) (rd ra rb : Fin 32)
  /-- SUB (R70): Integer subtract, C as borrow. -/
  | sub (c : CoreId) (rd ra rb : Fin 32)
  /-- SBC (R70): Integer subtract with borrow in. -/
  | sbc (c : CoreId) (rd ra rb : Fin 32)
  /-- AND (R70): Bitwise AND of two registers. -/
  | and (c : CoreId) (rd ra rb : Fin 32)
  /-- OR (R70): Bitwise OR of two registers. -/
  | or (c : CoreId) (rd ra rb : Fin 32)
  /-- XOR (R70): Bitwise XOR of two registers. -/
  | xor (c : CoreId) (rd ra rb : Fin 32)
  /-- ANDN (R70): Bitwise AND with the complement of the second register. -/
  | andn (c : CoreId) (rd ra rb : Fin 32)
  /-- SHL (R71): Shift left by a register amount. -/
  | shl (c : CoreId) (rd ra rb : Fin 32)
  /-- SHR (R71): Logical shift right by a register amount. -/
  | shr (c : CoreId) (rd ra rb : Fin 32)
  /-- SAR (R71): Arithmetic shift right by a register amount. -/
  | sar (c : CoreId) (rd ra rb : Fin 32)
  /-- ROR (R70): Rotate right by a register amount. -/
  | ror (c : CoreId) (rd ra rb : Fin 32)
  /-- SHLI (R70): Shift left by an immediate amount. -/
  | shli (c : CoreId) (rd ra n : Fin 32)
  /-- SHRI (R70): Logical shift right by an immediate amount. -/
  | shri (c : CoreId) (rd ra n : Fin 32)
  /-- SARI (R70): Arithmetic shift right by an immediate amount. -/
  | sari (c : CoreId) (rd ra n : Fin 32)
  /-- CMP (R71): Set flags of a minus b without writing a result. -/
  | cmp (c : CoreId) (ra rb : Fin 32)
  /-- MUL (R70): Low 32 bits of a product. -/
  | mul (c : CoreId) (rd ra rb : Fin 32)
  /-- MULHU (R70): High 32 bits of an unsigned product. -/
  | mulhu (c : CoreId) (rd ra rb : Fin 32)
  /-- MULHS (R70): High 32 bits of a signed product. -/
  | mulhs (c : CoreId) (rd ra rb : Fin 32)
  /-- DIVU (R72): Unsigned divide, divide-by-zero exception when b is 0. -/
  | divu (c : CoreId) (rd ra rb : Fin 32)
  /-- DIVS (R72): Signed divide rounded towards zero. -/
  | divs (c : CoreId) (rd ra rb : Fin 32)
  /-- REMU (R72): Unsigned remainder. -/
  | remu (c : CoreId) (rd ra rb : Fin 32)
  /-- REMS (R72): Signed remainder. -/
  | rems (c : CoreId) (rd ra rb : Fin 32)
  /-- MIN (R70): Signed minimum. -/
  | min (c : CoreId) (rd ra rb : Fin 32)
  /-- MAX (R70): Signed maximum. -/
  | max (c : CoreId) (rd ra rb : Fin 32)
  /-- CLZ (R70): Count leading zero bits. -/
  | clz (c : CoreId) (rd ra : Fin 32)
  /-- DADD (R79): Packed-decimal add. -/
  | dadd (c : CoreId) (rd ra rb : Fin 32)
  /-- DADDC (R79): Packed-decimal add with carry. -/
  | daddc (c : CoreId) (rd ra rb : Fin 32)
  /-- DSUB (R79): Packed-decimal ten's-complement subtract. -/
  | dsub (c : CoreId) (rd ra rb : Fin 32)
  /-- DSUBC (R79): Packed-decimal subtract with borrow. -/
  | dsubc (c : CoreId) (rd ra rb : Fin 32)
  /-- DADJ (R80): Decimal adjust of a binary sum using C and H. -/
  | dadj (c : CoreId) (rd ra : Fin 32)
  /-- DCMP (R79): Decimal compare setting flags only. -/
  | dcmp (c : CoreId) (ra rb : Fin 32)
  /-- DSHL (R79): Shift packed digits left. -/
  | dshl (c : CoreId) (rd ra n : Fin 32)
  /-- DSHR (R79): Shift packed digits right. -/
  | dshr (c : CoreId) (rd ra n : Fin 32)
  /-- D2B (R79): Convert packed decimal to binary. -/
  | d2b (c : CoreId) (rd ra : Fin 32)
  /-- B2D (R78): Convert binary to packed decimal modulo 10^8. -/
  | b2d (c : CoreId) (rd ra : Fin 32)
  /-- JR (R74): Jump to a register address. -/
  | jr (c : CoreId) (ra : Fin 32)
  /-- JALR (R74): Jump and link through a register. -/
  | jalr (c : CoreId) (rd ra : Fin 32)
  /-- MFS (R62): Read a special register, subject to privilege. -/
  | mfs (c : CoreId) (rd sr : Fin 32)
  /-- MTS (R63): Write a special register, subject to privilege and field restrictions. -/
  | mts (c : CoreId) (sr ra : Fin 32)
  /-- ERET (R93): Return from exception restoring PSR, BITST and PC. -/
  | eret (c : CoreId)
  /-- FENCE (R74): Wait until every posted store of the core has completed. -/
  | fence (c : CoreId)
  /-- WFE (R74): Stop issuing until an event is pending at the core. -/
  | wfe (c : CoreId)
  /-- BRK (R74): Breakpoint exception, or a debug halt when BRKHALT is set. -/
  | brk (c : CoreId)
  /-- BTW (R74): Copy BA into a general register. -/
  | btw (c : CoreId) (rd : Fin 32)
  /-- WTB (R74): Set BA from a register being non-zero. -/
  | wtb (c : CoreId) (ra : Fin 32)
  /-- AB (R75): Open an atomic block deferring events for n instructions. -/
  | ab (c : CoreId) (imm : BitVec 16)
  /-- ADDI (R73): Add a sign-extended immediate. -/
  | addi (c : CoreId) (rd ra : Fin 32) (imm : BitVec 16)
  /-- ANDI (R73): AND with a zero-extended immediate. -/
  | andi (c : CoreId) (rd ra : Fin 32) (imm : BitVec 16)
  /-- ORI (R73): OR with a zero-extended immediate. -/
  | ori (c : CoreId) (rd ra : Fin 32) (imm : BitVec 16)
  /-- XORI (R73): XOR with a zero-extended immediate. -/
  | xori (c : CoreId) (rd ra : Fin 32) (imm : BitVec 16)
  /-- MOVH (R73): Load an immediate into the upper half. -/
  | movh (c : CoreId) (rd : Fin 32) (imm : BitVec 16)
  /-- CMPI (R73): Compare with a sign-extended immediate. -/
  | cmpi (c : CoreId) (ra : Fin 32) (imm : BitVec 16)
  /-- SVC (R73): Supervisor call entering vector 8. -/
  | svc (c : CoreId) (imm : BitVec 16)
  /-- LDW (R73): Load a 32-bit word. -/
  | ldw (c : CoreId) (rd ra : Fin 32) (imm : BitVec 16)
  /-- LDH (R73): Load a zero-extended halfword. -/
  | ldh (c : CoreId) (rd ra : Fin 32) (imm : BitVec 16)
  /-- LDHS (R73): Load a sign-extended halfword. -/
  | ldhs (c : CoreId) (rd ra : Fin 32) (imm : BitVec 16)
  /-- LDB (R73): Load a zero-extended byte. -/
  | ldb (c : CoreId) (rd ra : Fin 32) (imm : BitVec 16)
  /-- LDBS (R73): Load a sign-extended byte. -/
  | ldbs (c : CoreId) (rd ra : Fin 32) (imm : BitVec 16)
  /-- STW (R73): Store a 32-bit word. -/
  | stw (c : CoreId) (rd ra : Fin 32) (imm : BitVec 16)
  /-- STH (R73): Store a halfword. -/
  | sth (c : CoreId) (rd ra : Fin 32) (imm : BitVec 16)
  /-- STB (R73): Store a byte. -/
  | stb (c : CoreId) (rd ra : Fin 32) (imm : BitVec 16)
  /-- TON (R87): On-delay timer on a 16-byte record. -/
  | ton (c : CoreId) (rd ra : Fin 32) (imm : BitVec 16)
  /-- TOF (R87): Off-delay timer on a 16-byte record. -/
  | tof (c : CoreId) (rd ra : Fin 32) (imm : BitVec 16)
  /-- TP (R87): Pulse timer on a 16-byte record. -/
  | tp (c : CoreId) (rd ra : Fin 32) (imm : BitVec 16)
  /-- CTU (R88): Up counter with reset popped from the bit stack. -/
  | ctu (c : CoreId) (rd ra : Fin 32) (imm : BitVec 16)
  /-- CTD (R88): Down counter with load popped from the bit stack. -/
  | ctd (c : CoreId) (rd ra : Fin 32) (imm : BitVec 16)
  /-- B (R76): Unconditional relative branch. -/
  | b (c : CoreId) (off : BitVec 26)
  /-- BL (R76): Branch and link. -/
  | bl (c : CoreId) (off : BitVec 26)
  /-- BCC (R76): Conditional branch on condition c. -/
  | bcc (c : CoreId) (cond : Fin 16) (off : BitVec 26)
  /-- LD (R82): Load an image bit into BA. -/
  | ld (c : CoreId) (addr : BitVec 22)
  /-- LDN (R82): Load the complement of an image bit into BA. -/
  | ldn (c : CoreId) (addr : BitVec 22)
  /-- IMG_AND (R82): AND an image bit into BA. -/
  | imgAnd (c : CoreId) (addr : BitVec 22)
  /-- IMG_ANDN (R82): AND the complement of an image bit into BA. -/
  | imgAndn (c : CoreId) (addr : BitVec 22)
  /-- IMG_OR (R82): OR an image bit into BA. -/
  | imgOr (c : CoreId) (addr : BitVec 22)
  /-- ORN (R82): OR the complement of an image bit into BA. -/
  | orn (c : CoreId) (addr : BitVec 22)
  /-- IMG_XOR (R82): XOR an image bit into BA. -/
  | imgXor (c : CoreId) (addr : BitVec 22)
  /-- ST (R81): Store BA into an image bit, refused on protected ranges at application privilege. -/
  | st (c : CoreId) (addr : BitVec 22)
  /-- SET (R82): Set an image bit when BA is 1. -/
  | set (c : CoreId) (addr : BitVec 22)
  /-- CLR (R82): Clear an image bit when BA is 1. -/
  | clr (c : CoreId) (addr : BitVec 22)
  /-- RE (R83): Rising edge of an input bit against the previous input image. -/
  | re (c : CoreId) (addr : BitVec 22)
  /-- FE (R83): Falling edge of an input bit against the previous input image. -/
  | fe (c : CoreId) (addr : BitVec 22)
  /-- REM (R83): Rising edge of BA with an edge-memory bit. -/
  | rem (c : CoreId) (addr : BitVec 22)
  /-- FEM (R83): Falling edge of BA with an edge-memory bit. -/
  | fem (c : CoreId) (addr : BitVec 22)
  /-- PUSH (R84): Push BA onto the bit stack. -/
  | push (c : CoreId)
  /-- POPA (R84): Pop and AND into BA. -/
  | popa (c : CoreId)
  /-- POPO (R84): Pop and OR into BA. -/
  | popo (c : CoreId)
  /-- POPX (R84): Pop and XOR into BA. -/
  | popx (c : CoreId)
  /-- NOT (R82): Complement BA. -/
  | not (c : CoreId)
  /-- UNDEFINED_INSTRUCTION (R65): Fetch of an undefined encoding raising vector 1. -/
  | undefinedInstruction (c : CoreId) (word : Word)
  /-- TLB_INVALIDATE_ALL (R99): TLBOP 1 invalidates every TLB entry, locked ones included. -/
  | tlbInvalidateAll (c : CoreId)
  /-- TLB_INVALIDATE_NONGLOBAL (R99): TLBOP 2 invalidates non-global unlocked entries. -/
  | tlbInvalidateNonglobal (c : CoreId)
  /-- TLB_INVALIDATE_ASID (R99): TLBOP 3 invalidates the entries of one ASID. -/
  | tlbInvalidateAsid (c : CoreId) (asid : BitVec 8)
  /-- TLB_INVALIDATE_PAGE (R99): TLBOP 4 invalidates one virtual page. -/
  | tlbInvalidatePage (c : CoreId) (page : BitVec 20)
  /-- TLB_LOCK_PAGE (R109): TLBOP 5 walks a page and locks the result, or sets LOCK_FAIL. -/
  | tlbLockPage (c : CoreId) (page : BitVec 20)
  /-- LOCKSTEP_INJECT (R98): LSCTRL.INJ forces a mismatch on the next retired instruction. -/
  | lockstepInject (p : PanId)
  /-- LOCKSTEP_MISMATCH (R97): The comparator finds a divergence, stops the Pan and requests the reset source. -/
  | lockstepMismatch (p : PanId) (pc : Word) (unit : Fin 7)
  /-- EVENT_TAKEN (R77): A deliverable event is taken at an instruction boundary into vector 11. -/
  | eventTaken (c : CoreId)
  /-- EVENT_SOURCE_ASSERT (R126): A block raises an Event Fabric source, setting latches or routing to a Rake trigger. -/
  | eventSourceAssert (src : Fin 1536)
  /-- EVT_TGT_ACK_READ (R128): Acknowledge read returns the highest deliverable source and activates its level. -/
  | evtTgtAckRead (who : Who) (t : Fin 4)
  /-- EVT_TGT_EOI (R128): End of interrupt clears the highest active level. -/
  | evtTgtEoi (who : Who) (t : Fin 4)
  /-- EVT_SWTRIG (R131): Raise software event IDX. -/
  | evtSwtrig (who : Who) (idx : Fin 32)
  /-- EVT_PEND_CLEAR (R133): W1C write clears every target latch of pulse sources. -/
  | evtPendClear (who : Who) (w : Fin 48) (value : Word)
  /-- SCRUB_PASS (R106): The scrubber completes a pass of shared and retain SRAM. -/
  | scrubPass
  /-- POSTED_STORE_BUS_ERROR (R115): A posted store returns a bus error and raises the core's bus-error event. -/
  | postedStoreBusError (c : CoreId)
  /-- DMA_START (R119): START write moves an idle enabled channel to ACTIVE and fetches its descriptor. -/
  | dmaStart (who : Who) (ch : Fin 64)
  /-- DMA_ABORT (R119): ABORT write ends a channel in ERROR. -/
  | dmaAbort (who : Who) (ch : Fin 64)
  /-- DMA_RESUME (R119): RESUME write replays a paused burst from beat 0. -/
  | dmaResume (who : Who) (ch : Fin 64)
  /-- DMA_ERR_CLEAR (R119): Clearing STAT.ERR returns a channel to IDLE and unpins its record. -/
  | dmaErrClear (who : Who) (ch : Fin 64)
  /-- DMA_PERIPHERAL_REQUEST (R116): A peripheral request line makes a channel ready. -/
  | dmaPeripheralRequest (ch : Fin 64)
  /-- DMA_BEAT_BOUNDARY (R117): At a beat boundary the engine serves the highest ready channel, pre-empting lower ones. -/
  | dmaBeatBoundary
  /-- DMA_BURST_COMPLETE (R119): A burst completes, closing its record and opening the next or ending the chain. -/
  | dmaBurstComplete (ch : Fin 64)
  /-- DMA_BURST_FAULT (R123): A fault during a burst is handled by the fault coverage table. -/
  | dmaBurstFault (ch : Fin 64) (fault : BurstFault)
  /-- DMA_L3WAIT_EXPIRY (R123): The wait for a reset island expires and the burst ends UNRECOVERABLE. -/
  | dmaL3waitExpiry (ch : Fin 64)
  /-- IOMMU_INV (R133): Invalidate IOTLB entries of one context or all. -/
  | iommuInv (who : Who) (ctx : Fin 64) (all : Bool)
  /-- REGISTER_WRITE (R5): Write to a register without behaviour of its own, per access codes. -/
  | registerWrite (who : Who) (addr value : Word)
  /-- REGISTER_READ_CLEAR (R5): Read of an RC field returns and clears it. -/
  | registerReadClear (who : Who) (addr : Word)
  /-- PAN_BOUNDARY (R145): Boundary entry: latch, buffer rotation, output snapshot, PANRT status and program call. -/
  | panBoundary (b : PanBnd)
  /-- APPLY_STROBE (R27): Committed outputs take effect together at Bk plus tAPPLY. -/
  | applyStrobe (p : PanId)
  /-- RAKE_PAN_DONE (R150): PANRT ends the logic phase; the next boundary is resolved under lateness rules. -/
  | rakePanDone (who : Who) (p : PanId) (value : Word)
  /-- OVERRUN (R151): Logic still running at grid plus L; count and act by ACTION. -/
  | overrun (p : PanId)
  /-- HARD_LIMIT_EXPIRY (R151): Logic still running at H periods; the Pan is fault-stopped. -/
  | hardLimitExpiry (p : PanId)
  /-- TRIGGER_CAPTURE (R154): An RTRIG pulse latches and captures a trigger group. -/
  | triggerCapture (t : Fin 8)
  /-- TRIGGER_CAPTURE_DONE (R154): A trigger capture ends. -/
  | triggerCaptureDone (t : Fin 8)
  /-- CHECKPOINT_WRITE_DONE (R155): The checkpoint bank has been written to retain SRAM. -/
  | checkpointWriteDone (p : PanId)
  /-- PFW_SAVE_TIMEOUT (R157): A logic phase unfinished 1 ms after the warning; the last checkpoint is saved instead. -/
  | pfwSaveTimeout (p : PanId)
  /-- PFW_SAVED (R157): The final checkpoints are valid in the Crust store. -/
  | pfwSaved
  /-- PAN_START_STEPS_DONE (R158): Start steps complete; STARTING becomes RUN with B0 at the next grid instant. -/
  | panStartStepsDone (p : PanId)
  /-- EDIT_STORED (R164): The edited program has been written to flash. -/
  | editStored (p : PanId)
  /-- RAKE_CTRL_WRITE (R168): Enable or disable the Rake; a 0 is not stored while a Pan runs. -/
  | rakeCtrlWrite (who : Who) (value : Word)
  /-- CMD_PACKET_DISCARD (R32): A packet failing SYNC, CRC, LEN or TYPE checks is discarded and counted. -/
  | cmdPacketDiscard (tp : Fin 6) (bytes : List Byte)
  /-- CMD_PACKET_FORWARD (R53): A packet for another address is forwarded over Brineline. -/
  | cmdPacketForward (tp : Fin 6) (ep : Nat) (bytes : List Byte)
  /-- CMD_REPLY_RELAY (R53): A reply or completion received over Brineline is matched and relayed. -/
  | cmdReplyRelay (brlSrc : BitVec 12) (bytes : List Byte)
  /-- CMD_FORWARD_TIMEOUT (R177): A forwarded request gets no reply within 1 s and is answered TIMEOUT. -/
  | cmdForwardTimeout (k : ReqKey)
  /-- CMD_COMPLETION (R36): Work of an ACCEPTED request finishes and a completion is sent. -/
  | cmdCompletion (k : ReqKey) (stat : BitVec 8) (payload : List Byte)
  /-- SESSION_NONCE_EXPIRY (R44): A device nonce older than 10 s becomes invalid. -/
  | sessionNonceExpiry (tp : Fin 6) (ep : Nat)
  /-- SESSION_IDLE_TIMEOUT (R45): A session closes after its idle timeout. -/
  | sessionIdleTimeout (sess : BitVec 16)
  /-- LOCKOUT_END (R45): A transport leaves LOCKED_OUT after 60 s. -/
  | lockoutEnd (tp : Fin 6)
  /-- MAINT_LEASE_EXPIRY (R48): A maintenance token lease expires and the token is released. -/
  | maintLeaseExpiry (cls : Fin 6)
  /-- RESET_DELAY_EXPIRY (R41): The requested reset follows when the reply has left or 10 ms have passed. -/
  | resetDelayExpiry
  /-- IDENTIFY (R39): Reply with DEVID, address and component versions. -/
  | identify (r : Req)
  /-- GET_STATUS (R39): Reply with Pan modes, reset cause and temperature. -/
  | getStatus (r : Req)
  /-- SUBSCRIBE (R42): Set the notification class mask of the endpoint. -/
  | subscribe (r : Req)
  /-- RESET (R41): Request a reset of level L0, L1 or L2 after replying. -/
  | reset (r : Req)
  /-- OPEN_CHALLENGE (R44): Return a device nonce for opening a session of a class. -/
  | openChallenge (r : Req)
  /-- OPEN_RESPONSE (R44): Check the CMAC and open a session. -/
  | openResponse (r : Req)
  /-- CLOSE (R45): Close the session. -/
  | close (r : Req)
  /-- MAINT_ACQUIRE (R47): Acquire a maintenance token unless a conflicting one is held. -/
  | maintAcquire (r : Req)
  /-- MAINT_RELEASE (R48): Release the session's maintenance token. -/
  | maintRelease (r : Req)
  /-- REG_READ (R40): Read registers within the register windows. -/
  | regRead (r : Req)
  /-- REG_WRITE (R40): Masked write of a register and read back. -/
  | regWrite (r : Req)
  /-- LOAD_BLOCK (R158): Store a program block in flash and copy to I-TCM when complete. -/
  | loadBlock (r : Req)
  /-- LOAD_MAP (R142): Load a part of an image map; the last part checks and installs it. -/
  | loadMap (r : Req)
  /-- PAN_MODE (R158): Stop a Pan or start it warm or cold. -/
  | panMode (r : Req)
  /-- EDIT_STAGE (R162): Stage an edited block in free I-TCM. -/
  | editStage (r : Req)
  /-- EDIT_COMMIT (R163): Check staged blocks and swap at the next boundary. -/
  | editCommit (r : Req)
  /-- FORCE (R153): Force an input or output image bit. -/
  | force (r : Req)
  /-- UNFORCE (R153): End one force or all forces. -/
  | unforce (r : Req)
  /-- IMAGE_READ (R136): Read bytes of a Pan's image. -/
  | imageRead (r : Req)
  /-- CAN_CONFIG (R222): Apply a configuration record to a CAN channel window. -/
  | canConfig (r : Req)
  /-- CAN_SEND (R216): Send a frame from a Steward-owned object, optionally at a time. -/
  | canSend (r : Req)
  /-- CAN_READ (R39): Read a CAN object record. -/
  | canRead (r : Req)
  /-- ROUTE_SET (R241): Check and install a Sluice route entry. -/
  | routeSet (r : Req)
  /-- HSS_SET (R265): Set duty and limit of a Steward-owned HSS channel, optionally clearing a trip. -/
  | hssSet (r : Req)
  /-- SOL_RUN (R296): Queue ON, OFF or CLEAR on a SOL channel at a due time. -/
  | solRun (r : Req)
  /-- LED_SET (R334): Set current code and duty of a Steward-owned LED sink. -/
  | ledSet (r : Req)
  /-- DIO_SET (R320): Set a DIO output or clear its trip. -/
  | dioSet (r : Req)
  /-- OPEN_LOAD_SWEEP (R283): Start an open-load sweep of selected HSS channels. -/
  | openLoadSweep (r : Req)
  /-- MEAS_READ (R326): Read a measurement by identifier. -/
  | measRead (r : Req)
  /-- ACC_CALIBRATE (R365): Calibrate a zone point from scheduled scans. -/
  | accCalibrate (r : Req)
  /-- ACC_OVERRIDE (R361): Arm, keep or release the two-party maintenance override. -/
  | accOverride (r : Req)
  /-- TOKEN_ENROL (R366): Enrol, update or remove an access token. -/
  | tokenEnrol (r : Req)
  /-- ACC_STATUS (R366): Reply with session, zone and lock-out record. -/
  | accStatus (r : Req)
  /-- ATTEST (R384): Reply with a signed attestation statement. -/
  | attest (r : Req)
  /-- KEY_LOAD (R380): Load a wrapped blob or envelope into an Enclave slot. -/
  | keyLoad (r : Req)
  /-- DEBUG_CHALLENGE (R385): Return a debug challenge record. -/
  | debugChallenge (r : Req)
  /-- DEBUG_UNLOCK (R386): Verify the debug authority signature and grant a scope. -/
  | debugUnlock (r : Req)
  /-- CRUST_READ (R397): Read bytes of a Crust page with wrap. -/
  | crustRead (r : Req)
  /-- CRUST_WRITE (R397): Write bytes into a Crust page as one PAGE record. -/
  | crustWrite (r : Req)
  /-- COUNTER_INC (R398): Increment a monotonic counter. -/
  | counterInc (r : Req)
  /-- LOG_READ (R399): Read event log entries. -/
  | logRead (r : Req)
  /-- CRUST_COMPACT (R402): Start a compaction on request. -/
  | crustCompact (r : Req)
  /-- STAGE_BEGIN (R413): Begin staging: erase the inactive bank and the package store. -/
  | stageBegin (r : Req)
  /-- STAGE_DATA (R413): Append stream bytes to the package store. -/
  | stageData (r : Req)
  /-- STAGE_END (R413): Apply the package components into the inactive bank. -/
  | stageEnd (r : Req)
  /-- FORWARD (R422): Forward the stored package to saltern peers. -/
  | forward (r : Req)
  /-- CONFIRM (R417): Confirm a healthy trial boot. -/
  | confirm (r : Req)
  /-- UPD_STATUS (R424): Reply with the bank and trial-boot record. -/
  | updStatus (r : Req)
  /-- TOPOLOGY (R39): Reply with the saltern member list. -/
  | topology (r : Req)
  /-- SWITCHOVER_TEST (R192): Plan a handover at boundary Bh. -/
  | switchoverTest (r : Req)
  /-- TIME_GET (R257): Reply with DTIME and the discipline source. -/
  | timeGet (r : Req)
  /-- PEER_EDIT_STAGE (R194): Standby stages an edit block for the primary. -/
  | peerEditStage (r : Req)
  /-- PEER_EDIT_CHECK (R194): Standby checks the staged edit blocks. -/
  | peerEditCheck (r : Req)
  /-- PEER_EDIT_CANCEL (R194): Standby discards staged edit blocks. -/
  | peerEditCancel (r : Req)
  /-- PEER_EDIT_CHECK_TIMEOUT (R194): No reply to PEER_EDIT_CHECK in 10 ms; the edit fails. -/
  | peerEditCheckTimeout (p : PanId)
  /-- HOST_WRITE (R56): Host-port WRITE transaction delivering one packet. -/
  | hostWrite (rdy : Bool) (room : Fin 65537) (bytes : List Byte)
  /-- HOST_READ (R56): Host-port READ transaction fetching the next queued packet. -/
  | hostRead (w : HostAt) (tlen : BitVec 16)
  /-- HOST_POLL (R56): Host-port POLL transaction returning only the status word. -/
  | hostPoll (w : HostAt)
  /-- ISOTP_FRAME_RX (R54): An ISO 15765-2 frame of the request identifier is received. -/
  | isotpFrameRx (f : IsoFrame)
  /-- ISOTP_NCR_TIMEOUT (R54): N_Cr expires and the partial packet is discarded. -/
  | isotpNcrTimeout
  /-- ISOTP_ENABLE (R222): CMD_ISOTP_CFG.EN claims the channel's objects in PINOWN. -/
  | isotpEnable (who : Who) (value : Word)
  /-- UDP_DATAGRAM_RX (R51): A UDP datagram to port 47060 delivers a packet to the Command Engine. -/
  | udpDatagramRx (eth : Fin 2) (ep : Nat) (fragment : Bool) (bytes : List Byte)
  /-- USB_BULK_OUT (R49): A USB bulk transfer delivers one packet. -/
  | usbBulkOut (bytes : List Byte)
  /-- BRL_SIGNAL_DETECT (R170): Signal on all lanes starts training of a link. -/
  | brlSignalDetect (l : Fin 3)
  /-- BRL_TRAINING_COMPLETE (R170): Training completes and nonces are exchanged. -/
  | brlTrainingComplete (l : Fin 3)
  /-- BRL_TRAIN_TIMEOUT (R170): tTRAIN expires and the link returns to DOWN. -/
  | brlTrainTimeout (l : Fin 3)
  /-- BRL_PEER_PROOF (R174): The peer's AUTH proof is checked; the link goes UP or to FAULT. -/
  | brlPeerProof (l : Fin 3) (nonce : List Byte) (peer : BitVec 12) (proof : List Byte)
  /-- BRL_AUTH_TIMEOUT (R170): tAUTH expires and the link goes to FAULT. -/
  | brlAuthTimeout (l : Fin 3)
  /-- BRL_FAULT_EXPIRY (R170): 1 s in FAULT returns the link to DOWN. -/
  | brlFaultExpiry (l : Fin 3)
  /-- BRL_RETRY_EXPIRY (R170): 10 ms after a failed training the link retries. -/
  | brlRetryExpiry (l : Fin 3)
  /-- BRL_BLOCK_LOCK_LOST (R170): Block lock lost or too many drops; the link leaves UP. -/
  | brlBlockLockLost (l : Fin 3)
  /-- RING_CTRL_WRITE (R170): Writing RING_CTRL enables links or forces them DOWN. -/
  | ringCtrlWrite (who : Who) (value : Word)
  /-- RING_ADDR_WRITE (R175): Set the saltern address, clearing CONFLICT. -/
  | ringAddrWrite (who : Who) (value : Word)
  /-- BRL_FRAME_RX (R173): A frame arrives; CRC and LSEQ are checked and NAK sent on failure. -/
  | brlFrameRx (l : Fin 3) (bytes : List Byte)
  /-- BRL_NAK_RX (R173): A NAK makes the sender repeat or drop the frame. -/
  | brlNakRx (l : Fin 3) (seq : BitVec 8) (late : Bool)
  /-- BRL_COMMAND_FRAME (R174): A command frame is tag-checked, delivered or forwarded. -/
  | brlCommandFrame (l : Fin 3) (lseq : BitVec 8) (dst src : BitVec 12) (hops bseq : BitVec 16) (payload tag : List Byte)
  /-- BRL_UPDATE_FRAME (R172): An update frame is received. -/
  | brlUpdateFrame (l : Fin 3) (lseq : BitVec 8) (dst src : BitVec 12) (hops bseq : BitVec 16) (payload tag : List Byte)
  /-- PRESENCE_SEND (R176): Every 100 ms a presence frame is sent on each UP link. -/
  | presenceSend
  /-- PRESENCE_RX (R176): A presence frame updates the route table and is forwarded. -/
  | presenceRx (l : Fin 3) (src : BitVec 12) (hops seq : BitVec 16)
  /-- ROUTE_AGE_OUT (R176): A route entry without presence for 350 ms is removed. -/
  | routeAgeOut (addr : BitVec 12)
  /-- ADDR_CONFLICT_CLEAR (R179): CONFLICT clears 350 ms after the last duplicate presence. -/
  | addrConflictClear
  /-- TIME_FRAME_SEND (R180): A time frame is sent every 125 µs on each UP link. -/
  | timeFrameSend
  /-- TIME_FRAME_RX (R180): A time frame updates the election and the discipline. -/
  | timeFrameRx (l : Fin 3) (prio : BitVec 8) (master depth : BitVec 12) (sent : BitVec 64)
  /-- LINK_DELAY_MEASURE (R180): Each 1 ms the link delay is measured by round trip. -/
  | linkDelayMeasure (l : Fin 3) (ps : BitVec 24)
  /-- BRL_TIME_HOLDOVER (R180): No time frame from the master for 10 ms; holdover and re-election. -/
  | brlTimeHoldover
  /-- RING_HS_CFG_WRITE (R183): Writing pairing EN moves the role between DISABLED and CANDIDATE. -/
  | ringHsCfgWrite (who : Who) (value : Word)
  /-- HEARTBEAT_SEND (R184): A heartbeat is sent every tHB on every UP link. -/
  | heartbeatSend
  /-- HEARTBEAT_RX (R183): A partner heartbeat drives the role state machine. -/
  | heartbeatRx (l : Fin 3) (src : BitVec 12) (role : Fin 6) (pref : Bool) (ident : List Byte) (hand : BitVec 64)
  /-- HEARTBEAT_MISS (R184): 13 µs, then each 10 µs, without a partner heartbeat counts a miss. -/
  | heartbeatMiss
  /-- HEARTBEAT_LOSS (R184): Loss is declared 33 µs after the last heartbeat. -/
  | heartbeatLoss
  /-- CANDIDATE_WAIT_EXPIRY (R183): No partner heartbeat for WAIT_MS; the candidate becomes PRIMARY. -/
  | candidateWaitExpiry
  /-- MIRROR_FRAME_RX (R186): A mirror frame delivers cycle record and lines to the standby. -/
  | mirrorFrameRx (p : PanId) (record : List Byte) (lines : List (BitVec 32 × List Byte))
  /-- BOUNDARY_MARKER_RX (R188): The standby enters its boundary, applies the mirror and checks outputs. -/
  | boundaryMarkerRx (p : PanId)
  /-- TAKEOVER (R190): After loss and tTKPREP the standby takes over at the next grid instant. -/
  | takeover
  /-- HANDOVER_BOUNDARY (R192): The planned handover boundary is reached by both partners. -/
  | handoverBoundary
  /-- REMOTE_RESET_RX (R191): A REMOTE_RESET control frame from the partner requests a reset. -/
  | remoteResetRx (l : Fin 3) (src : BitVec 12)
  /-- SILENCE_TIMEOUT (R195): RING_SIL_TO passes without an apply strobe; the Pan's logic side is silent. -/
  | silenceTimeout (p : PanId)
  /-- BRIDGE_HOLD_EXPIRY (R195): A bridging hold ends and OFF-policy channels turn off. -/
  | bridgeHoldExpiry (p : PanId) (b : Fin 10)
  /-- BOOT_REQ_RX (R467): A serving device receives BOOT_REQ and sends its firmware package. -/
  | bootReqRx (l : Fin 3)
  /-- CAN_ENABLE (R217): EN written 1 checks timing and leaves INIT, or sets CFGERR. -/
  | canEnable (who : Who) (n : Fin 16) (value : Word)
  /-- CAN_DISABLE (R217): EN written 0 returns the channel to INIT. -/
  | canDisable (who : Who) (n : Fin 16) (value : Word)
  /-- CAN_RECOVER (R217): RECOVER starts bus-off recovery counting when ABO is 0. -/
  | canRecover (who : Who) (n : Fin 16) (value : Word)
  /-- CAN_TXF_N_WRITE (R215): Reserve transmit objects for the FIFO, or refuse. -/
  | canTxfNWrite (who : Who) (n : Fin 16) (value : Word)
  /-- CAN_AUTH_ENABLE (R220): Load the channel's CMAC key from an Enclave slot. -/
  | canAuthEnable (who : Who) (n : Fin 16) (value : Word)
  /-- CAN_TXREQ_SET (R213): Raise transmit requests for objects. -/
  | canTxreqSet (who : Who) (n : Fin 16) (high : Bool) (value : Word)
  /-- CAN_TXREQ_CLR (R213): Cancel transmit requests of objects. -/
  | canTxreqClr (who : Who) (n : Fin 16) (high : Bool) (value : Word)
  /-- CAN_TXFIFO_WRITE (R214): Write record bytes; the record enqueues on its last byte. -/
  | canTxfifoWrite (who : Who) (n : Fin 16) (wide : Bool) (value : BitVec 64)
  /-- CAN_UNF_REL (R210): Release the oldest unfiled FIFO entry. -/
  | canUnfRel (who : Who) (n : Fin 16)
  /-- CAN_FRESH_H_WRITE (R225): Writing FRESH_H applies the freshness value. -/
  | canFreshHWrite (who : Who) (n : Fin 16) (slot : Fin 256) (value : Word)
  /-- CAN_INTEGRATED (R217): 11 recessive bits bring INTEGRATING to ACTIVE. -/
  | canIntegrated (n : Fin 16)
  /-- CAN_FRAME_RECEIVED (R207): A valid frame is filed into an object or the unfiled FIFO. -/
  | canFrameReceived (n : Fin 16) (f : CanFrame)
  /-- CAN_HOLD_RELEASE (R209): A held frame is filed after the Rake read or at the next boundary. -/
  | canHoldRelease (n : Fin 16) (obj : Fin 1024)
  /-- CAN_RX_ERROR (R217): A protocol error in reception changes REC and raises error events. -/
  | canRxError (n : Fin 16) (lec : Fin 7) (dataPhase eight pxe : Bool)
  /-- CAN_TX_SUCCESS (R205): A transmission completes; SENT, TCNT and TSENT update. -/
  | canTxSuccess (n : Fin 16) (sof : BitVec 32) (tdcv : BitVec 7)
  /-- CAN_TX_ERROR (R217): A transmission fails; TEC changes and the frame repeats. -/
  | canTxError (n : Fin 16) (lec : Fin 7) (dataPhase keep : Bool) (tdcv : BitVec 7)
  /-- CAN_RECOVERED (R217): 128 recessive sequences end bus-off. -/
  | canRecovered (n : Fin 16)
  /-- CAN_TAT_DUE (R216): A transmit-at-time object becomes due and enters arbitration. -/
  | canTatDue (n : Fin 16)
  /-- CAN_TAT_LATE (R216): An object passes TTIME plus TOL and its late policy applies. -/
  | canTatLate (n : Fin 16) (obj : Fin 65)
  /-- CAN_DOMINANT_TIMEOUT (R200): TXD dominant beyond tDOM; the transceiver releases the bus. -/
  | canDominantTimeout (n : Fin 16)
  /-- TIDE_SLEEP (R230): Local readiness; the channel enters EBB. -/
  | tideSleep (who : Who) (n : Fin 16)
  /-- TIDE_STAY (R230): Withdraw readiness and return to AWAKE. -/
  | tideStay (who : Who) (n : Fin 16)
  /-- TIDE_COMMIT (R230): Answer a quorum with commit. -/
  | tideCommit (who : Who) (n : Fin 16)
  /-- TIDE_VETO (R230): Answer a quorum with veto. -/
  | tideVeto (who : Who) (n : Fin 16)
  /-- TIDE_WAKE (R230): Local wake into FLOOD. -/
  | tideWake (who : Who) (n : Fin 16)
  /-- TIDE_FORCE_SLEEP (R230): Sleep without quorum or drain. -/
  | tideForceSleep (who : Who) (n : Fin 16)
  /-- TIDE_CFG_WRITE (R239): Enable or disable coordination, claiming objects 62 and 1,022. -/
  | tideCfgWrite (who : Who) (n : Fin 16) (value : Word)
  /-- TIDE_QUORUM_TICK (R229): Quorum is evaluated every 1 ms. -/
  | tideQuorumTick
  /-- SCF_SEND_PERIOD (R228): An SCF with READY is sent every SCF_MS in EBB. -/
  | scfSendPeriod (n : Fin 16)
  /-- TIDE_FAILSAFE_EXPIRY (R234): FS_MS passes at quorum; Tide commits itself. -/
  | tideFailsafeExpiry (n : Fin 16)
  /-- TIDE_DRAIN_EXPIRY (R230): DRAIN_MS after commit; the transceiver goes to TO_LOW at bus idle. -/
  | tideDrainExpiry (n : Fin 16)
  /-- TO_LOW_COMPLETE (R231): Low power reached; IGNORE set and the channel enters SLACK. -/
  | toLowComplete (n : Fin 16)
  /-- LATE_WAKE (R232): A wake during the entry is latched and FLOOD starts. -/
  | lateWake (n : Fin 16)
  /-- WUP_PATTERN (R235): A WUP pattern on the bus wakes the channel. -/
  | wupPattern (n : Fin 16)
  /-- DOMINANT_WAKE (R235): A dominant phase of tFILT wakes the channel. -/
  | dominantWake (n : Fin 16)
  /-- WAKE_UP_FRAME (R236): A decoded frame matching the wake-up frame wakes the channel. -/
  | wakeUpFrame (n : Fin 16) (f : CanFrame)
  /-- FEC_OVERFLOW_WAKE (R236): The frame error counter passes 31 and wakes the channel. -/
  | fecOverflowWake (n : Fin 16)
  /-- WUF_FRAME_DECODED (R236): The selective decoder decodes a frame and updates its error counter. -/
  | wufFrameDecoded (n : Fin 16) (fd ok : Bool)
  /-- BUS_SILENCE (R226): tSIL without activity grounds the bias and clears the error counter. -/
  | busSilence (n : Fin 16)
  /-- FLOOD_DONE (R233): Transceiver normal and controller integrated; the channel is AWAKE. -/
  | floodDone (n : Fin 16)
  /-- FLOOD_FAIL (R230): tFLMAX passes in FLOOD. -/
  | floodFail (n : Fin 16)
  /-- SLUICE_LOOKUP (R240): A queued frame is matched against route entries and copied. -/
  | sluiceLookup
  /-- SLUICE_BRL_FRAME_RX (R244): A Sluice control frame arrives over Brineline for lookup. -/
  | sluiceBrlFrameRx (h : BrlHead) (payload : List Byte)
  /-- SLUICE_RT_WRITE (R241): RT_CMD.WRITE checks and installs an entry. -/
  | sluiceRtWrite (who : Who)
  /-- SLUICE_RT_READ (R249): RT_CMD.READ copies an entry into the data registers. -/
  | sluiceRtRead (who : Who)
  /-- SLUICE_OWN_WRITE (R249): SLUICE_FIFO or OBJ writes claim resources in PINOWN. -/
  | sluiceOwnWrite (who : Who) (reg : Fin 33) (value : Word)
  /-- ETH_CFG_MODE_WRITE (R474): Set the interface mode, claiming or releasing the ball set. -/
  | ethCfgModeWrite (who : Who) (n : Fin 2) (value : Word)
  /-- ETH_BALL_RELEASE (R474): tEREL after MODE reaches 0 the ball set is released. -/
  | ethBallRelease (n : Fin 2)
  /-- ETH_LINK_CHANGE (R250): The Ethernet link goes up or down. -/
  | ethLinkChange (n : Fin 2) (up : Bool) (speed : Fin 3) (half : Bool) (queued : BitVec 16)
  /-- ETH_FRAME_RX (R251): A received frame is filtered, counted or delivered. -/
  | ethFrameRx (m : MacAt) (fcsOk : Bool) (len : BitVec 14) (da : BitVec 48) (vid : Option (BitVec 12)) (extra known : Bool)
  /-- ARP_REQUEST (R251): The Steward answers an ARP request. -/
  | arpRequest (n : Fin 2) (sha : BitVec 48) (spa tpa : BitVec 32)
  /-- ICMP_ECHO (R251): The Steward answers an ICMP echo request. -/
  | icmpEcho (n : Fin 2) (sha : BitVec 48) (spa tpa : BitVec 32) (rest : List Byte)
  /-- PTP_SYNC_RX (R254): A Sync message is timestamped and used by the servo. -/
  | ptpSyncRx (m : PtpVia) (domain : BitVec 8) (seq : BitVec 16) (twoStep : Bool) (origin : BitVec 64) (ago : BitVec 32)
  /-- PTP_DELAY_RESP_RX (R254): A Delay_Resp completes a delay measurement. -/
  | ptpDelayRespRx (m : PtpTo) (domain : BitVec 8) (seq : BitVec 16) (received : BitVec 64)
  /-- PTP_PDELAY_REQ_RX (R254): A Pdelay_Req is answered two-step. -/
  | ptpPdelayReqRx (m : PtpFrom) (domain : BitVec 8) (seq : BitVec 16) (ago sent : BitVec 32)
  /-- PTP_PDELAY_RESP_RX (R254): A Pdelay_Resp contributes to peer delay. -/
  | ptpPdelayRespRx (m : PtpTo) (domain : BitVec 8) (seq : BitVec 16) (twoStep : Bool) (reqRx : BitVec 64) (ago : BitVec 32)
  /-- ETH_DESCRIPTOR_BUS_ERROR (R253): A descriptor access bus error stops the engine. -/
  | ethDescriptorBusError (n : Fin 2)
  /-- MDIO_GO (R253): Start an MDIO frame. -/
  | mdioGo (who : Who) (value : Word)
  /-- MDIO_DONE (R262): An MDIO frame ends. -/
  | mdioDone (data : BitVec 16)
  /-- TIME_OFFSET_MEASURE (R257): A discipline offset measurement adjusts RATE, lock or step. -/
  | timeOffsetMeasure (src : Fin 4) (offs : BitVec 64)
  /-- TIME_STEP_WRITE (R259): Firmware step applied at the write of TIME_STEP_H, or refused. -/
  | timeStepWrite (who : Who) (low high : Word)
  /-- PTP_HOLDOVER (R258): HOLD_MS without an accepted Sync enters holdover. -/
  | ptpHoldover
  /-- TIME_NOW_READ (R262): Read of TIME_NOW_L latches NOW_H. -/
  | timeNowRead (who : Who)
  /-- HSS_CTRL_EN_WRITE (R266): Enable or disable the HSS block, starting the PWM grid. -/
  | hssCtrlEnWrite (who : Who) (en : Bool)
  /-- HSS_CMD_DUTY (R264): Write a duty to a Steward-owned channel. -/
  | hssCmdDuty (who : Who) (n : Fin 48) (duty : BitVec 16)
  /-- HSS_CMD_CLEAR (R273): Clear a latched trip from any owner. -/
  | hssCmdClear (who : Who) (n : Fin 48) (duty : BitVec 16)
  /-- HSS_PAR_WRITE (R269): Pair or unpair two channels. -/
  | hssParWrite (who : Who) (n : Fin 48) (par : Bool)
  /-- HSS_PWM_HZ_WRITE (R267): New PWM frequency takes effect at the end of the running period. -/
  | hssPwmHzWrite (who : Who) (g : Fin 6) (hz : BitVec 11)
  /-- HSS_PERIOD_START (R267): A channel's PWM period starts and pending duty changes apply. -/
  | hssPeriodStart (n : Fin 48)
  /-- HSS_ON_TIME_END (R267): The on-time of a PWM period ends. -/
  | hssOnTimeEnd (n : Fin 48)
  /-- HSS_GROUP_UNDERVOLTAGE (R275): VSUP below VUVOFF puts the group's channels in GRPOFF. -/
  | hssGroupUndervoltage (g : Fin 6)
  /-- HSS_GROUP_OVERVOLTAGE (R275): VSUP above VOV puts the group's channels in GRPOFF. -/
  | hssGroupOvervoltage (g : Fin 6)
  /-- HSS_GROUP_RESTART (R275): Supply good for tUVR; the group restarts. -/
  | hssGroupRestart (g : Fin 6)
  /-- HSS_RESTART_SLOT (R275): A channel turns on in its staggered restart slot. -/
  | hssRestartSlot (n : Fin 48)
  /-- HSS_REDUCED_CHANGE (R275): VSUP crosses VRED; REDUCED changes. -/
  | hssReducedChange (g : Fin 6) (reduced : Bool)
  /-- HSS_OVERTEMP (R272): Junction reaches TSD; the channel turns off to RWAIT or TRIPPED. -/
  | hssOvertemp (n : Fin 48)
  /-- HSS_LIMIT_START (R270): Current reaches ILIM and the channel regulates. -/
  | hssLimitStart (x : HssLimit)
  /-- HSS_LIMIT_END (R276): Current falls below ILIM; the timer holds. -/
  | hssLimitEnd (n : Fin 48)
  /-- HSS_LIMIT_TIMER_EXPIRY (R276): Limit timer expires: quick retry, retry or trip. -/
  | hssLimitTimerExpiry (n : Fin 48)
  /-- HSS_BLANK_EXPIRY (R271): tBLANK without limit resets the timer and closes the warm-up window. -/
  | hssBlankExpiry (n : Fin 48)
  /-- HSS_QOFF_EXPIRY (R276): tQOFF elapses and the channel turns on again. -/
  | hssQoffExpiry (n : Fin 48)
  /-- HSS_RETRY_EXPIRY (R276): tRETRY elapses and the channel retries. -/
  | hssRetryExpiry (n : Fin 48)
  /-- HSS_RCLR_EXPIRY (R272): tRCLR in ON clears the retry counters. -/
  | hssRclrExpiry (n : Fin 48)
  /-- HSS_CURRENT_SAMPLE (R278): A current sample is taken and under-current evaluated. -/
  | hssCurrentSample (n : Fin 48) (code : BitVec 12)
  /-- HSS_RANGE_CHANGE_DONE (R279): tSTALE after a range change the first new-range sample is taken. -/
  | hssRangeChangeDone (n : Fin 48) (code : BitVec 12)
  /-- HSS_TEMP_SAMPLE (R280): Junction temperature is sampled every 20 µs. -/
  | hssTempSample (n : Fin 48) (tj : BitVec 8) (warn hot : Bool)
  /-- HSS_OFFSTATE_TEST (R281): Periodic off-state open-load and short tests. -/
  | hssOffstateTest (n : Fin 48) (pullup above : Bool)
  /-- HSS_SWEEP_DONE (R283): An open-load sweep ends and results are written. -/
  | hssSweepDone (opens : BitVec 48) (shortL : BitVec 32) (shortH : BitVec 16)
  /-- SOL_CTRL_EN_WRITE (R291): Enable or disable the SOL block. -/
  | solCtrlEnWrite (who : Who) (en : Bool)
  /-- SOL_CMD_CODE (R296): Enqueue ON, OFF or CLEAR from a core write. -/
  | solCmdCode (who : Who) (n : Fin 12) (code : BitVec 8)
  /-- SOL_CMD_CLEAR (R303): Clear a latch at once from any owner. -/
  | solCmdClear (who : Who) (n : Fin 12)
  /-- SOL_CMD_RELEASE (R297): Unblock a held head command. -/
  | solCmdRelease (who : Who) (n : Fin 12)
  /-- SOL_CMD_FLUSH (R296): Remove queued commands. -/
  | solCmdFlush (who : Who) (n : Fin 12)
  /-- SOL_PROFILE_WRITE (R292): Writing word B checks and installs a profile phase. -/
  | solProfileWrite (who : Who) (p : Fin 32) (k : Fin 8) (b : Word)
  /-- SOL_PAR_WRITE (R302): Pair or unpair two SOL channels. -/
  | solParWrite (who : Who) (n : Fin 12) (par : Bool)
  /-- SOL_DUTY_WRITE (R299): Changing DWIN_S restarts the duty bucket grid. -/
  | solDutyWrite (who : Who) (n : Fin 12) (dmax : BitVec 16) (dwin : BitVec 8)
  /-- SOL_COMMAND_TAKEN (R294): The head command is taken at a take point. -/
  | solCommandTaken (n : Fin 12)
  /-- SOL_DUE (R297): A queued command reaches its due time. -/
  | solDue (n : Fin 12)
  /-- SOL_LATE (R297): A command not taken by t plus TOL follows its late policy. -/
  | solLate (n : Fin 12) (i : Fin 4)
  /-- SOL_PHASE_END (R293): A timed phase ends or a release reaches its current. -/
  | solPhaseEnd (n : Fin 12)
  /-- SOL_RELEASE_LIMIT (R293): A release phase with DUR 0 ends after 1 s. -/
  | solReleaseLimit (n : Fin 12)
  /-- SOL_CHOP_PERIOD (R289): A regulation chop period starts. -/
  | solChopPeriod (n : Fin 12)
  /-- SOL_CURRENT_TARGET (R289): Current reaches the phase target and decay begins. -/
  | solCurrentTarget (n : Fin 12)
  /-- SOL_DRAIN_DONE (R307): Current at IOFF ends DRAIN into WAITOFF or FAULT. -/
  | solDrainDone (n : Fin 12)
  /-- SOL_TOFF_EXPIRY (R298): TOFF_MS passes; the channel is OFF. -/
  | solToffExpiry (n : Fin 12)
  /-- SOL_KINK_SAMPLE (R300): A kink sample every tKS advances the search. -/
  | solKinkSample (n : Fin 12) (i mean v : BitVec 16)
  /-- SOL_OVERCURRENT (R303): Current above IOC turns both switches off and latches. -/
  | solOvercurrent (n : Fin 12)
  /-- SOL_OPEN_COIL (R303): tOPEN below IOFF latches an open coil. -/
  | solOpenCoil (n : Fin 12)
  /-- SOL_OVERTEMP (R303): Junction at TSD enters DRAIN and latches. -/
  | solOvertemp (n : Fin 12)
  /-- VSOL_UNDERVOLTAGE (R304): VSOL low drains every channel and empties queues. -/
  | vsolUndervoltage
  /-- VSOL_RESTART (R304): VSOL good for tUVR; commands accepted again. -/
  | vsolRestart
  /-- SOL_BUCKET_OPEN (R299): A new duty bucket opens and the oldest is discarded. -/
  | solBucketOpen (n : Fin 12)
  /-- DIO_CTRL_EN_WRITE (R321): Enable or disable the DIO block. -/
  | dioCtrlEnWrite (who : Who) (en : Bool)
  /-- DIO_CMD_OUT (R317): Command a Steward-owned output on or off. -/
  | dioCmdOut (who : Who) (n : Fin 64) (out : Bool)
  /-- DIO_CMD_CLEAR (R317): Clear an output trip from any owner. -/
  | dioCmdClear (who : Who) (n : Fin 64) (out : Bool)
  /-- DIO_CFG_WRITE (R312): Change a channel's mode, filter or wire-break setting. -/
  | dioCfgWrite (who : Who) (n : Fin 64) (value : Word)
  /-- DIO_INPUT_CHANGE (R314): The filter count completes and val changes, raising an edge event. -/
  | dioInputChange (n : Fin 64) (x : DioRun)
  /-- DIO_WIRE_BREAK_CHANGE (R315): Filtered WBRK changes. -/
  | dioWireBreakChange (n : Fin 64) (x : DioRun)
  /-- DIO_READBACK_MISMATCH (R316): Readback mismatch for tRB sets FB_ERR or FB_HIGH. -/
  | dioReadbackMismatch (n : Fin 64)
  /-- VDIO_UNDERVOLTAGE (R317): VDIO low puts outputs in UVOFF. -/
  | vdioUndervoltage
  /-- VDIO_RESTART (R317): VDIO good for tUVR; outputs resume. -/
  | vdioRestart
  /-- VDIO_RED_CHANGE (R315): VDIO crosses VDIORED; wire-break classification suspends or resumes. -/
  | vdioRedChange (red : Bool)
  /-- DIO_OVERTEMP (R317): Junction at TSD trips the output. -/
  | dioOvertemp (n : Fin 64) (hot : Bool)
  /-- DIO_LIMIT_EXPIRY (R317): tDLIM in limit trips the output. -/
  | dioLimitExpiry (n : Fin 64)
  /-- NTC_CONVERSION (R324): An NTC input is converted and flagged. -/
  | ntcConversion (i : Fin 16) (v : Word)
  /-- SUPPLY_SAMPLE (R325): Supply monitors sample every 100 µs and update LOW and HIGH. -/
  | supplySample (i : Fin 14) (mv : BitVec 16)
  /-- LED_CTRL_EN_WRITE (R336): Enable or disable LED sinks. -/
  | ledCtrlEnWrite (who : Who) (en : Bool)
  /-- LED_CMD_WRITE (R333): Write current code and duty of a Steward-owned sink. -/
  | ledCmdWrite (who : Who) (n : Fin 32) (cur duty : BitVec 16)
  /-- LED_GRP_MASK_WRITE (R341): Set group members, refused if rules break. -/
  | ledGrpMaskWrite (who : Who) (g : Fin 8) (mask : Word)
  /-- LED_GRP_CLEAR (R342): Clear a failed function group. -/
  | ledGrpClear (who : Who) (g : Fin 8)
  /-- LMX_EN_WRITE (R343): Enable or disable the matrix, claiming sinks and rows. -/
  | lmxEnWrite (who : Who) (en : Bool)
  /-- LMX_CLEAR (R346): Clear a matrix row over-current fault. -/
  | lmxClear (who : Who)
  /-- LMX_LEVEL_WRITE (R345): Write shadow levels of Steward-owned elements. -/
  | lmxLevelWrite (who : Who) (r : Fin 16) (q : Fin 4) (value : Word)
  /-- LED_PERIOD_START (R331): A sink's PWM period starts and changes apply. -/
  | ledPeriodStart (n : Fin 32)
  /-- LED_ONPHASE_CHECK (R339): An on-phase check counts towards OPEN and SHORT. -/
  | ledOnphaseCheck (n : Fin 32) (mv : BitVec 16) (low drop : Bool)
  /-- LED_HEADROOM_UPDATE (R337): Every tHRU FBCODE is adjusted. -/
  | ledHeadroomUpdate (v : Option (BitVec 16)) (vlow : Bool)
  /-- LED_CURVE_UPDATE (R338): Every 100 ms effective codes are recomputed. -/
  | ledCurveUpdate
  /-- LED_OVERTEMP (R340): Sink bank at TSD turns all sinks and rows off. -/
  | ledOvertemp
  /-- LED_OVERTEMP_RECOVER (R340): The junction falls to TSD minus THYS and the block resumes. -/
  | ledOvertempRecover
  /-- LMX_FRAME_START (R345): A matrix frame starts and the shadow becomes current. -/
  | lmxFrameStart
  /-- LMX_ROW_SLOT (R344): A row slot with precharge and column comparison. -/
  | lmxRowSlot (r : Fin 16) (x : LmxMeas)
  /-- LMX_ROW_OVERCURRENT (R346): Row current above IROW turns the matrix off. -/
  | lmxRowOvercurrent
  /-- ACC_CTRL_EN_WRITE (R355): Enable scanning and load the master access key, or stop scanning. -/
  | accCtrlEnWrite (who : Who) (value : Word)
  /-- ACC_LOCK_EN_WRITE (R362): Claim or release the lock actuator. -/
  | accLockEnWrite (who : Who) (value : Word)
  /-- ACC_DOOR_WRITE (R318): Claim door and key-switch DIO channels. -/
  | accDoorWrite (who : Who) (value : Word)
  /-- ACC_CAL_WRITE (R365): Write a calibration point register, refused while occupied. -/
  | accCalWrite (who : Who) (z : Fin 3) (p : Fin 16) (high : Bool) (value : Word)
  /-- ACC_SCAN_DUE (R352): A scan falls due on the grid and starts or waits. -/
  | accScanDue
  /-- ACC_CODE_START (R352): A code's wake, data and burst parts begin. -/
  | accCodeStart
  /-- ACC_QUIET_WINDOW_END (R353): A quiet window ends and ambient field is checked. -/
  | accQuietWindowEnd (a : Fin 8) (mv : BitVec 12)
  /-- ACC_BURST_END (R353): A measurement burst ends and its current is checked. -/
  | accBurstEnd (a : Fin 8) (ma : BitVec 11)
  /-- ACC_REPEAT_DUE (R353): tRPT after a disturbance the code repeats. -/
  | accRepeatDue
  /-- ACC_REPLY_RX (R355): A token reply is checked, authenticated, classified and applied. -/
  | accReplyRx (frame : List Byte) (rssi : BitVec 16)
  /-- ACC_SCAN_END (R358): The reply window ends; MISS, STARTUP and antenna counts update. -/
  | accScanEnd
  /-- ACC_LOCKOUT_END (R356): The lock-out time passes. -/
  | accLockoutEnd
  /-- ACC_FAIL_AGE_OUT (R356): A failure older than 60 s drops out of the count. -/
  | accFailAgeOut
  /-- ACC_SESSION_TIMEOUT (R362): SESS_S passes and the session ends. -/
  | accSessionTimeout
  /-- ACC_ARM_EXPIRY (R361): ARM_S passes and the override returns to IDLE. -/
  | accArmExpiry
  /-- TRANSPONDER_POLL (R364): A transponder poll after a scan reads a flat-battery token. -/
  | transponderPoll (x : TpAnswer)
  /-- ENCL_OP_START (R382): The Enclave starts the next waiting mailbox operation. -/
  | enclOpStart
  /-- MB_RANDOM (R383): Return n random bytes. -/
  | mbRandom (who : Who) (c : Fin 3) (n : BitVec 11)
  /-- MB_LOAD (R380): Load a blob or envelope into a slot. -/
  | mbLoad (who : Who) (c : Fin 3) (slot : Fin 64) (auto : Bool) (n : BitVec 11)
  /-- MB_CLEAR (R383): Clear a slot. -/
  | mbClear (who : Who) (c : Fin 3) (slot : Fin 64) (n : BitVec 11)
  /-- MB_GEN (R383): Generate a key into a slot and return its sealed blob. -/
  | mbGen (who : Who) (c : Fin 3) (slot : Fin 64) (auto : Bool) (n : BitVec 11)
  /-- GCM_ENC (R383): AES-GCM encrypt with a slot key. -/
  | gcmEnc (who : Who) (c : Fin 3) (slot : Fin 64) (n : BitVec 11)
  /-- GCM_DEC (R383): AES-GCM decrypt and check the tag. -/
  | gcmDec (who : Who) (c : Fin 3) (slot : Fin 64) (n : BitVec 11)
  /-- MB_CMAC (R383): Compute a CMAC with a slot key. -/
  | mbCmac (who : Who) (c : Fin 3) (slot : Fin 64) (n : BitVec 11)
  /-- SIGN (R383): ECDSA sign a digest. -/
  | sign (who : Who) (c : Fin 3) (slot : Fin 64) (n : BitVec 11)
  /-- VERIFY (R383): ECDSA verify a signature. -/
  | verify (who : Who) (c : Fin 3) (n : BitVec 11)
  /-- ECDH (R383): Derive a shared secret into a slot. -/
  | ecdh (who : Who) (c : Fin 3) (slot : Fin 64) (n : BitVec 11)
  /-- HKDF (R383): Derive a key from a slot into another slot. -/
  | hkdf (who : Who) (c : Fin 3) (slot : Fin 64) (n : BitVec 11)
  /-- HASH (R383): Hash data with SHA-256 or SHA-384. -/
  | hash (who : Who) (c : Fin 3) (n : BitVec 11)
  /-- EXTEND (R374): Extend MR7 with a digest. -/
  | extend (who : Who) (c : Fin 3) (n : BitVec 11)
  /-- MB_ATTEST (R384): Build an attestation statement in the mailbox. -/
  | mbAttest (who : Who) (c : Fin 3) (n : BitVec 11)
  /-- ENCL_OP_DONE (R382): A mailbox operation ends and its result is written. -/
  | enclOpDone
  /-- ENCL_TAMPER (R387): A tamper source zeroes keys and requests a reset. -/
  | enclTamper (cause : Fin 5)
  /-- TRNG_FAILURE (R390): A health test fails and random output stops. -/
  | trngFailure
  /-- TRNG_RECOVERY (R390): 1,024 fresh samples pass and output resumes. -/
  | trngRecovery
  /-- CRUST_RDREQ_GO (R408): Start a page or counter read into RDBUF. -/
  | crustRdreqGo (who : Who) (key : Fin 1024) (counter : Bool)
  /-- CRUST_WPORT_REQUEST (R408): A PAGE, COUNTER or LOG request enqueues on its last word. -/
  | crustWportRequest (who : Who) (words : List Word)
  /-- CRUST_RECORD_WRITTEN (R395): A queued record is programmed and its CRC written last. -/
  | crustRecordWritten (ok : Bool)
  /-- CRUST_LOG_ENTRY (R399): A log entry is appended to the ring. -/
  | crustLogEntry (code : BitVec 16) (arg : Word)
  /-- CRUST_OPEN_DONE (R400): Start-up index scan ends and the store enters VERIFY. -/
  | crustOpenDone (index : Bool) (torn : Bool)
  /-- CRUST_VERIFY_DONE (R400): Every sector is checked and the store enters READY. -/
  | crustVerifyDone (damaged : List Word)
  /-- CRUST_BACKGROUND_COMPACT (R402): The Steward starts compaction when few sectors are erased. -/
  | crustBackgroundCompact
  /-- CRUST_COMPACTION_DONE (R402): Compaction copies live records, writes INDEX and erases the victim. -/
  | crustCompactionDone
  /-- CRUST_ERASE_DONE (R399): A sector erase completes. -/
  | crustEraseDone (ok : Bool)
  /-- CRUST_SPACE_WAIT_EXPIRY (R402): A write waiting 500 ms for space is refused. -/
  | crustSpaceWaitExpiry
  /-- STAGE_APPLY_DONE (R413): All components are applied or the apply fails. -/
  | stageApplyDone
  /-- UPD_RESET_DUE (R413): The Update Manager reset follows the completion when RESET is set. -/
  | updResetDue
  /-- TRIAL_HEALTHY (R417): The trial becomes healthy and is auto-confirmed if enabled. -/
  | trialHealthy
  /-- TRIAL_DEADLINE_EXPIRY (R417): CONF_S passes without confirmation and the trial falls back. -/
  | trialDeadlineExpiry
  /-- UPD_UNFIT_WRITE (R420): A component reports UNFIT and the Update Manager resets. -/
  | updUnfitWrite (who : Who) (value : Word)
  /-- FORWARD_PEER_DONE (R422): A peer's staging completes during forwarding. -/
  | forwardPeerDone (addr : BitVec 12) (stat : BitVec 8)
  /-- FORWARD_DONE (R422): Forwarding to every address ends. -/
  | forwardDone
  /-- USBS_CTRL_WRITE (R423): Enable the service port attach. -/
  | usbsCtrlWrite (who : Who) (value : Word)
  /-- USB_VBUS_CHANGE (R423): VBUS appears or disappears, attaching or closing sessions. -/
  | usbVbusChange (present : Bool)
  /-- USB_CONFIGURE (R425): The host configures or resets the port. -/
  | usbConfigure (configured : Bool) (hs : Bool)
  /-- RECOVERY_LOADER (R466): Recovery loader accepts a package over the service port. -/
  | recoveryLoader (bytes : List Byte)
  /-- POWER_ON (R429): VAON rises above VBORR and the rail sequence starts. -/
  | powerOn
  /-- RAIL_STEP_DONE (R429): A rail sequence step ends and the next begins. -/
  | railStepDone
  /-- RAIL_STEP_TIMEOUT (R429): A step misses its limit; enables drop and SEQFAIL is set. -/
  | railStepTimeout
  /-- RAIL_RETRY_EXPIRY (R429): 100 ms after SEQFAIL the sequence restarts. -/
  | railRetryExpiry
  /-- PWR_GOOD_LOST (R430): VCORE not good or PWR_GOOD low requests a reset. -/
  | pwrGoodLost (vcore : Bool)
  /-- PD_OFF_WRITE (R432): Request optional power domains on or off. -/
  | pdOffWrite (who : Who) (value : Word)
  /-- PD_SWITCH_ON_DONE (R431): A domain completes switch-on, or fails within tPDON. -/
  | pdSwitchOnDone (d : Fin 34) (good : Bool)
  /-- PARK_GO (R433): Check park conditions and start parking or refuse. -/
  | parkGo (who : Who)
  /-- PARK_STEP_DONE (R434): A parking step completes and the next begins. -/
  | parkStepDone
  /-- PARK_FLUSH_TIMEOUT (R434): 500 ms flush limit suspends an erase. -/
  | parkFlushTimeout
  /-- PARK_WAKE (R437): A wake source acts during entry or while parked. -/
  | parkWake (src : Fin 7) (detail : Fin 64) (can : Fin 5)
  /-- WAKE_PIN (R439): WAKE_k detection wakes the device or raises local CAN wakes. -/
  | wakePin (k : Fin 4)
  /-- DIO_WAKE_SAMPLE (R436): A parked DIO wake input is sampled. -/
  | dioWakeSample (n : Fin 64) (level : Bool)
  /-- RTC_ALARM_DUE (R439): An RTC alarm fires. -/
  | rtcAlarmDue (k : Fin 2)
  /-- RTC_ALARM_LATE (R439): An alarm not fired by TIME plus TOL is handled by POLICY. -/
  | rtcAlarmLate (k : Fin 2)
  /-- RTC_ALARM_ENABLE (R439): Writing EN arms an alarm and clears its flags. -/
  | rtcAlarmEnable (who : Who) (k : Fin 2) (value : Word)
  /-- POWER_FAIL_WARNING (R440): VAON below VPFW for tPFWF raises the warning. -/
  | powerFailWarning
  /-- POWER_FAIL_CLEAR (R440): VAON above VPFW plus 1 V for 10 ms clears the warning. -/
  | powerFailClear
  /-- VAON_BROWN_OUT (R453): VAON below VBOR causes an L0 reset. -/
  | vaonBrownOut
  /-- THERMAL_SAMPLE (R441): Logic-die sensors are read; warning or thermal reset. -/
  | thermalSample (t : ThermRead) (trip : Bool)
  /-- THERMAL_HOLD_RELEASE (R441): All sensors at 110 °C or less release the thermal hold. -/
  | thermalHoldRelease
  /-- REFERENCE_LOSS (R449): The reference clock is lost, requesting a reset. -/
  | referenceLoss
  /-- PLL_UNLOCK (R449): RPLL, PLL_CORE or PLL_SYS loses lock. -/
  | pllUnlock (pll : Fin 3)
  /-- SERDES_UNLOCK (R449): SerDes PLL unlocks; links go DOWN. -/
  | serdesUnlock
  /-- SERDES_RELOCK_RETRY (R449): Relock retried every 10 ms. -/
  | serdesRelockRetry (good : Bool)
  /-- USB_PLL_UNLOCK (R449): USB PHY PLL unlocks and the port detaches. -/
  | usbPllUnlock
  /-- RTC_OSC_LOSS (R449): RTC oscillator missing for tRTCL. -/
  | rtcOscLoss
  /-- RTC_SECOND (R450): The RTC counts a second, syncing to DTIME when set. -/
  | rtcSecond
  /-- RTC_SEC_WRITE (R450): Set the RTC seconds and VALID. -/
  | rtcSecWrite (who : Who) (value : Word)
  /-- RESET_N_PULSE (R455): An accepted RESET_N pulse requests its reset. -/
  | resetNPulse
  /-- RESET_SOURCES_TAKEN (R454): Sources in one AON cycle cause one reset at the most severe level. -/
  | resetSourcesTaken
  /-- L3_DRAIN_DONE (R18): Accepted crossings complete and the island reset is asserted. -/
  | l3DrainDone (i : Fin 5)
  /-- L3_RESET_END (R463): After tL3 the island leaves reset. -/
  | l3ResetEnd (i : Fin 5)
  /-- STEWARD_RELEASE (R463): Bring-up ends and the Steward starts at vector 0. -/
  | stewardRelease (straps : BitVec 6)
  /-- SWRST_WRITE (R458): Software reset request at a level. -/
  | swrstWrite (who : Who) (value : Word)
  /-- WDT_KICK (R457): Kick a watchdog, or reset on a wrong value. -/
  | wdtKick (who : Who) (k : Fin 3) (value : Word)
  /-- WDT_HALF_PERIOD (R457): Half a watchdog period passes without a kick. -/
  | wdtHalfPeriod (k : Fin 3)
  /-- WDT_EXPIRY (R457): A watchdog period passes and its reset source is requested. -/
  | wdtExpiry (k : Fin 3)
  /-- OPT_WRITE (R462): Write the option bytes into the copy not in force. -/
  | optWrite (who : Who)
  /-- OPT_WRITE_DONE (R462): The option write ends with a result. -/
  | optWriteDone (good : Bool)
  /-- PINOWN_QRES_WRITE (R485): Query the owner of a resource. -/
  | pinownQresWrite (who : Who) (res : Word)
  /-- GPIO_CMD_WRITE (R483): Set a Steward-owned GPIO output. -/
  | gpioCmdWrite (who : Who) (n : Fin 32) (out : Bool)
  /-- GPIO_EDGE (R483): A filtered GPIO edge raises its event. -/
  | gpioEdge (n : Fin 32) (level : Bool)
  /-- DBG_LINE_RESET (R486): 50 clocks with DBG_IO high return the protocol to idle. -/
  | dbgLineReset
  /-- DBG_TRANSACTION (R486): A debug-port read or write transaction with parity and ACK. -/
  | dbgTransaction (rnw : Bool) (addr : BitVec 8) (hpar : Bool) (data : Word) (dpar : Bool)
  /-- DBG_HALT (R488): Halt a core at its next instruction boundary. -/
  | dbgHalt (c : CoreId)
  /-- DBG_RESUME (R488): Resume a halted core. -/
  | dbgResume (c : CoreId)
  /-- DBG_STEP (R488): Execute one instruction and halt. -/
  | dbgStep (c : CoreId)
  /-- DBG_RDATA_ACCESS (R490): Read or write a halted core's register. -/
  | dbgRdataAccess (c : CoreId) (wr : Option Word)
  /-- DBG_MEM_ACCESS (R493): Physical fabric read or write through DBG_MEM_DATA. -/
  | dbgMemAccess (wr : Option Word)
  /-- DBG_RST (R494): Debug reset request at a level. -/
  | dbgRst (value : Word)
  /-- DBG_EVT_WRITE (R487): Clear debug event bits. -/
  | dbgEvtWrite (who : Who) (value : Word)
  /-- TAP_RESET (R495): TRST_N or five TMS-high clocks reset the TAP to IDCODE. -/
  | tapReset
  /-- IDCODE (R495): Select the IDCODE register. -/
  | idcode
  /-- SAMPLE_PRELOAD (R495): Capture the balls and load output cells. -/
  | samplePreload (balls : BitVec 276) (load : BitVec 276)
  /-- EXTEST (R495): Drive the balls from the boundary register under TEST_EN. -/
  | extest
  /-- CLAMP (R495): Drive from the boundary register with BYPASS selected. -/
  | clamp
  /-- HIGHZ (R495): Boundary outputs high-impedance with BYPASS selected. -/
  | highz
  /-- BYPASS (R495): Select the 1-bit bypass register. -/
  | bypass
  /-- RESET_N_RELEASE (R455): RESET_N rises after an accepted pulse, ending the hold of the first bring-up step. -/
  | resetNRelease
  /-- RTC_OSC_RESTORE (R450): The 32.768 kHz oscillator runs again after a loss, and the RTC counts from it once more with RTCOK set. -/
  | rtcOscRestore
  /-- PTP_FOLLOW_UP_RX (R254): A Follow_Up or Pdelay_Resp_Follow_Up message completes a two-step PTP measurement. -/
  | ptpFollowUpRx (m : PtpTo) (domain : BitVec 8) (seq : BitVec 16) (peer : Bool) (origin : BitVec 64)
  /-- PTP_DELAY_REQ_SEND (R254): The slave sends a Delay_Req or Pdelay_Req on its own schedule. -/
  | ptpDelayReqSend (n : Fin 2) (ago : BitVec 32)
  /-- DIO_CURRENT_LIMIT (R317): An output's current reaches or leaves ILD, starting or cancelling the tDLIM timing. -/
  | dioCurrentLimit (n : Fin 64) (limit : Bool)
  /-- SOL_JUNCTION_WARNING (R303): A SOL junction crosses TWARN, setting or clearing OTW. -/
  | solJunctionWarning (n : Fin 12) (tj : BitVec 8) (warn hot : Bool)
  /-- CMD_ACCEPTED_DEADLINE (R36): A request's work is unfinished 2 ms after it started, so the device replies ACCEPTED. -/
  | cmdAcceptedDeadline (k : ReqKey)
  /-- BOOT_REQ_SEND (R467): A booting device in peer-boot mode sends a BOOT_REQ control frame every 100 ms on its links in AUTH. -/
  | bootReqSend (l : Fin 3)
  /-- BRL_ACK_RX (R173): An acknowledgement control block arrives, freeing replay buffer space and, after a served boot package, taking the link to DOWN. -/
  | brlAckRx (l : Fin 3) (seq : BitVec 8)
  deriving DecidableEq, Repr

end Sys2Proof
end

