-- ==== Sys2Proof/Decode.lean ====
section
/-! DEFINITION. The command a table word spells. The opcode table gives no row any bits: a command is an event or a transaction
at the block's boundary, so no word spells one. -/
namespace Sys2Proof

/-- The command spelled by a word of `nbits` bits under the opcode table: none, since the table encodes no row. -/
def decodeTableWord (_nbits _w : Nat) : Option Instr := none


/-! The words of FK-32 (R64 to R66). The commands of these rows carry no word in the command table; this is the word that a core
fetches when it executes the instruction. -/

/-- Format F0 (R64): a five-bit field each for rd, ra and rb or the amount, then fn. -/
def fkF0 (major rd ra rb fn : Nat) : Nat := major * 2 ^ 26 + rd * 2 ^ 21 + ra * 2 ^ 16 + rb * 2 ^ 11 + fn

/-- Format F1: rd, ra and a 16-bit immediate. -/
def fkF1 (major rd ra imm : Nat) : Nat := major * 2 ^ 26 + rd * 2 ^ 21 + ra * 2 ^ 16 + imm

/-- Format F2: a 26-bit offset in words. -/
def fkF2 (major off : Nat) : Nat := major * 2 ^ 26 + off

/-- Format F3: a sub-operation and a bit address. -/
def fkF3 (major sub addr : Nat) : Nat := major * 2 ^ 26 + sub * 2 ^ 22 + addr

/-- The core that an FK-32 instruction names and the instruction's word (R66, R70, R73, R74, R76, R78, R82); none for a command
of another family. -/
def fkEncode : Instr → Option (CoreId × Nat)
  | .add c rd ra rb => some (c, fkF0 0 rd ra rb 0x00)
  | .adc c rd ra rb => some (c, fkF0 0 rd ra rb 0x01)
  | .sub c rd ra rb => some (c, fkF0 0 rd ra rb 0x02)
  | .sbc c rd ra rb => some (c, fkF0 0 rd ra rb 0x03)
  | .and c rd ra rb => some (c, fkF0 0 rd ra rb 0x04)
  | .or c rd ra rb => some (c, fkF0 0 rd ra rb 0x05)
  | .xor c rd ra rb => some (c, fkF0 0 rd ra rb 0x06)
  | .andn c rd ra rb => some (c, fkF0 0 rd ra rb 0x07)
  | .shl c rd ra rb => some (c, fkF0 0 rd ra rb 0x08)
  | .shr c rd ra rb => some (c, fkF0 0 rd ra rb 0x09)
  | .sar c rd ra rb => some (c, fkF0 0 rd ra rb 0x0A)
  | .ror c rd ra rb => some (c, fkF0 0 rd ra rb 0x0B)
  | .shli c rd ra n => some (c, fkF0 0 rd ra n 0x0C)
  | .shri c rd ra n => some (c, fkF0 0 rd ra n 0x0D)
  | .sari c rd ra n => some (c, fkF0 0 rd ra n 0x0E)
  | .cmp c ra rb => some (c, fkF0 0 0 ra rb 0x0F)
  | .mul c rd ra rb => some (c, fkF0 0 rd ra rb 0x10)
  | .mulhu c rd ra rb => some (c, fkF0 0 rd ra rb 0x11)
  | .mulhs c rd ra rb => some (c, fkF0 0 rd ra rb 0x12)
  | .divu c rd ra rb => some (c, fkF0 0 rd ra rb 0x13)
  | .divs c rd ra rb => some (c, fkF0 0 rd ra rb 0x14)
  | .remu c rd ra rb => some (c, fkF0 0 rd ra rb 0x15)
  | .rems c rd ra rb => some (c, fkF0 0 rd ra rb 0x16)
  | .min c rd ra rb => some (c, fkF0 0 rd ra rb 0x17)
  | .max c rd ra rb => some (c, fkF0 0 rd ra rb 0x18)
  | .clz c rd ra => some (c, fkF0 0 rd ra 0 0x19)
  | .dadd c rd ra rb => some (c, fkF0 1 rd ra rb 0)
  | .daddc c rd ra rb => some (c, fkF0 1 rd ra rb 1)
  | .dsub c rd ra rb => some (c, fkF0 1 rd ra rb 2)
  | .dsubc c rd ra rb => some (c, fkF0 1 rd ra rb 3)
  | .dadj c rd ra => some (c, fkF0 1 rd ra 0 4)
  | .dcmp c ra rb => some (c, fkF0 1 0 ra rb 5)
  | .dshl c rd ra n => some (c, fkF0 1 rd ra n 6)
  | .dshr c rd ra n => some (c, fkF0 1 rd ra n 7)
  | .d2b c rd ra => some (c, fkF0 1 rd ra 0 8)
  | .b2d c rd ra => some (c, fkF0 1 rd ra 0 9)
  | .jr c ra => some (c, fkF0 2 0 ra 0 0)
  | .jalr c rd ra => some (c, fkF0 2 rd ra 0 1)
  | .mfs c rd sr => some (c, fkF0 2 rd sr 0 2)
  | .mts c sr ra => some (c, fkF0 2 sr ra 0 3)
  | .eret c => some (c, fkF0 2 0 0 0 4)
  | .fence c => some (c, fkF0 2 0 0 0 5)
  | .wfe c => some (c, fkF0 2 0 0 0 6)
  | .brk c => some (c, fkF0 2 0 0 0 7)
  | .btw c rd => some (c, fkF0 2 rd 0 0 8)
  | .wtb c ra => some (c, fkF0 2 0 ra 0 9)
  | .ab c imm => some (c, fkF1 3 0 0 imm.toNat)
  | .addi c rd ra imm => some (c, fkF1 4 rd ra imm.toNat)
  | .andi c rd ra imm => some (c, fkF1 5 rd ra imm.toNat)
  | .ori c rd ra imm => some (c, fkF1 6 rd ra imm.toNat)
  | .xori c rd ra imm => some (c, fkF1 7 rd ra imm.toNat)
  | .movh c rd imm => some (c, fkF1 8 rd 0 imm.toNat)
  | .cmpi c ra imm => some (c, fkF1 9 0 ra imm.toNat)
  | .svc c imm => some (c, fkF1 0x0A 0 0 imm.toNat)
  | .ldw c rd ra imm => some (c, fkF1 0x0B rd ra imm.toNat)
  | .ldh c rd ra imm => some (c, fkF1 0x0C rd ra imm.toNat)
  | .ldhs c rd ra imm => some (c, fkF1 0x0D rd ra imm.toNat)
  | .ldb c rd ra imm => some (c, fkF1 0x0E rd ra imm.toNat)
  | .ldbs c rd ra imm => some (c, fkF1 0x0F rd ra imm.toNat)
  | .stw c rd ra imm => some (c, fkF1 0x10 rd ra imm.toNat)
  | .sth c rd ra imm => some (c, fkF1 0x11 rd ra imm.toNat)
  | .stb c rd ra imm => some (c, fkF1 0x12 rd ra imm.toNat)
  | .ton c rd ra imm => some (c, fkF1 0x13 rd ra imm.toNat)
  | .tof c rd ra imm => some (c, fkF1 0x14 rd ra imm.toNat)
  | .tp c rd ra imm => some (c, fkF1 0x15 rd ra imm.toNat)
  | .ctu c rd ra imm => some (c, fkF1 0x16 rd ra imm.toNat)
  | .ctd c rd ra imm => some (c, fkF1 0x17 rd ra imm.toNat)
  | .b c off => some (c, fkF2 0x18 off.toNat)
  | .bl c off => some (c, fkF2 0x19 off.toNat)
  | .bcc c cond off => some (c, fkF2 (0x1A + cond) off.toNat)
  | .ld c addr => some (c, fkF3 0x30 0 addr.toNat)
  | .ldn c addr => some (c, fkF3 0x30 1 addr.toNat)
  | .imgAnd c addr => some (c, fkF3 0x30 2 addr.toNat)
  | .imgAndn c addr => some (c, fkF3 0x30 3 addr.toNat)
  | .imgOr c addr => some (c, fkF3 0x30 4 addr.toNat)
  | .orn c addr => some (c, fkF3 0x30 5 addr.toNat)
  | .imgXor c addr => some (c, fkF3 0x30 6 addr.toNat)
  | .st c addr => some (c, fkF3 0x30 7 addr.toNat)
  | .set c addr => some (c, fkF3 0x30 8 addr.toNat)
  | .clr c addr => some (c, fkF3 0x30 9 addr.toNat)
  | .re c addr => some (c, fkF3 0x30 10 addr.toNat)
  | .fe c addr => some (c, fkF3 0x30 11 addr.toNat)
  | .rem c addr => some (c, fkF3 0x31 0 addr.toNat)
  | .fem c addr => some (c, fkF3 0x31 1 addr.toNat)
  | .push c => some (c, fkF3 0x31 2 0)
  | .popa c => some (c, fkF3 0x31 3 0)
  | .popo c => some (c, fkF3 0x31 4 0)
  | .popx c => some (c, fkF3 0x31 5 0)
  | .not c => some (c, fkF3 0x31 6 0)
  | _ => none

end Sys2Proof
end

