-- ==== Sys2Proof/Machine/Bits.lean ====
section
/-! DEFINITION. Bit fields of natural numbers, byte order (R3: little-endian), signed readings and sparse tables: the
plain helpers every block uses. -/
namespace Sys2Proof.Machine

/-- Bits `[hi:lo]` of `x` as a number. -/
def bits (x hi lo : Nat) : Nat := x / 2 ^ lo % 2 ^ (hi + 1 - lo)

/-- Bit `k` of `x` as a truth value. -/
def bit (x k : Nat) : Bool := x / 2 ^ k % 2 == 1

/-- `x` with bits `[hi:lo]` replaced by `v` (cut to the field's width). -/
def putBits (x hi lo v : Nat) : Nat :=
  x / 2 ^ (hi + 1) * 2 ^ (hi + 1) + v % 2 ^ (hi + 1 - lo) * 2 ^ lo + x % 2 ^ lo

/-- 1 for true, 0 for false. -/
def b2n (b : Bool) : Nat := if b then 1 else 0

/-- A natural number as a 32-bit word. -/
def toW (x : Nat) : Word := BitVec.ofNat 32 x

/-- Little-endian value of a byte list (R3). -/
def leVal : List Byte → Nat
  | [] => 0
  | b :: bs => b.toNat + 256 * leVal bs

/-- The `n` low bytes of `v`, least significant first (R3). -/
def leBytes : Nat → Nat → List Byte
  | 0, _ => []
  | n + 1, v => BitVec.ofNat 8 v :: leBytes n (v / 256)

/-- The two's-complement reading of the low `w` bits of `x`. -/
def sval (w x : Nat) : Int :=
  if x % 2 ^ w < 2 ^ (w - 1) then (x % 2 ^ w : Nat) else ((x % 2 ^ w : Nat) : Int) - ((2 ^ w : Nat) : Int)

/-- An integer cut to `w` bits. -/
def umod (w : Nat) (i : Int) : Nat := (i % ((2 ^ w : Nat) : Int)).toNat

/-- `n` bytes of a list from offset `o`, as a little-endian number; absent bytes count 0. -/
def leAt (bs : List Byte) (o n : Nat) : Nat := leVal ((bs.drop o).take n)

/-- Addition that stops at `m` (a saturating counter). -/
def satAdd (m a b : Nat) : Nat := min m (a + b)

/-- The half-range rule of R260 at width `w`: `x` is newer than `y`. -/
def newer (w x y : Nat) : Bool :=
  let d := (x + 2 ^ w - y % 2 ^ w) % 2 ^ w
  0 < d && d < 2 ^ (w - 1)

/-- A sparse table: index and value pairs, indices rising. -/
abbrev Tbl (α : Type) := List (Nat × α)

/-- The entry of a sparse table at an index, when one is listed. -/
def tblFind {α : Type} : Tbl α → Nat → Option α
  | [], _ => none
  | (j, x) :: t, i => if j = i then some x else if i < j then none else tblFind t i

/-- The entry of a sparse table, the type's default where none is listed. -/
def tblGet {α : Type} [Inhabited α] (t : Tbl α) (i : Nat) : α := (tblFind t i).getD default

/-- A sparse table with the entry at `i` set to `x`. -/
def tblSet {α : Type} : Tbl α → Nat → α → Tbl α
  | [], i, x => [(i, x)]
  | (j, y) :: t, i, x =>
    if j = i then (i, x) :: t else if i < j then (i, x) :: (j, y) :: t else (j, y) :: tblSet t i x

/-- A sparse table without the entry at `i`. -/
def tblErase {α : Type} : Tbl α → Nat → Tbl α
  | [], _ => []
  | (j, y) :: t, i => if j = i then t else if i < j then (j, y) :: t else (j, y) :: tblErase t i

/-- A sparse table with the entry at `i` changed by `f`. -/
def tblMod {α : Type} [Inhabited α] (t : Tbl α) (i : Nat) (f : α → α) : Tbl α := tblSet t i (f (tblGet t i))

/-- The first index below `n` at which `p` holds. -/
def firstBelow (n : Nat) (p : Nat → Bool) : Option Nat := (List.range n).find? p

/-- The last index below `n` at which `p` holds. -/
def lastBelow (n : Nat) (p : Nat → Bool) : Option Nat := (List.range n).reverse.find? p

/-- How many indices below `n` satisfy `p`. -/
def countBelow (n : Nat) (p : Nat → Bool) : Nat := ((List.range n).filter p).length

/-- Fold a state change over the indices below `n`, lowest first. -/
def forBelow {σ : Type} (n : Nat) (s : σ) (f : Nat → σ → σ) : σ := (List.range n).foldl (fun s i => f i s) s

/-- Bit `k` of `x` set to `b`. -/
def putBit (x k : Nat) (b : Bool) : Nat := putBits x k k (b2n b)

/-- Ceiling division. -/
def cdiv (a b : Nat) : Nat := (a + b - 1) / b

end Sys2Proof.Machine
end

