-- ==== Sys2Proof/Config.lean ====
section
/-! DEFINITION. What the spec leaves to the device or to a published algorithm, as opaque constants: nothing in Lean can
evaluate them, so a statement holds whatever they are. -/
namespace Sys2Proof.Config
open Sys2Proof.Machine (leBytes)

/-- A free value: what the spec leaves open, for the `n`-th open value of a run (applied to the state's counter). -/
opaque freeValue : Nat → Nat

/-- AES-CMAC of a message under a key, 16 bytes (R44, R45, R220, R355, R383). -/
opaque cmacValue : List Byte → List Byte → Nat
@[inherit_doc cmacValue] def cmac (key msg : List Byte) : List Byte := leBytes 16 (cmacValue key msg)

/-- AES-128 of one block under a key (R355). -/
opaque aes128Value : List Byte → List Byte → Nat
@[inherit_doc aes128Value] def aes128 (key block : List Byte) : List Byte := leBytes 16 (aes128Value key block)

/-- HKDF-SHA-256: input key, salt, info, output length (R44). -/
opaque hkdf256Value : List Byte → List Byte → List Byte → Nat → Nat
@[inherit_doc hkdf256Value] def hkdf256 (ikm salt info : List Byte) (n : Nat) : List Byte := leBytes n (hkdf256Value ikm salt info n)

/-- HKDF with SHA-384 (R375, R378, R383). -/
opaque hkdf384Value : List Byte → List Byte → List Byte → Nat → Nat
@[inherit_doc hkdf384Value] def hkdf384 (ikm salt info : List Byte) (n : Nat) : List Byte := leBytes n (hkdf384Value ikm salt info n)

/-- SHA-256 of a message, 32 bytes (R374, R383). -/
opaque sha256Value : List Byte → Nat
@[inherit_doc sha256Value] def sha256 (msg : List Byte) : List Byte := leBytes 32 (sha256Value msg)

/-- SHA-384 of a message, 48 bytes (R374, R383). -/
opaque sha384Value : List Byte → Nat
@[inherit_doc sha384Value] def sha384 (msg : List Byte) : List Byte := leBytes 48 (sha384Value msg)

/-- AES-GCM encryption: key, IV, additional data, plain data to cipher data and tag (R376, R383). -/
opaque gcmEnc : List Byte → List Byte → List Byte → List Byte → List Byte × List Byte

/-- AES-GCM decryption: key, IV, additional data, cipher data, tag to plain data when the tag checks (R376, R383). -/
opaque gcmDec : List Byte → List Byte → List Byte → List Byte → List Byte → Option (List Byte)

/-- The private key made from 56 bytes of HKDF output (R375 KEYPAIR). -/
opaque keyPair : List Byte → List Byte

/-- Public key of a private key; curve 2 is P-256, 3 is P-384 (R376 TYPE). -/
opaque ecPublic : Nat → List Byte → List Byte

/-- ECDSA signature: curve, private key, digest, random number (R383, R384). -/
opaque ecdsaSign : Nat → List Byte → List Byte → Nat → List Byte

/-- ECDSA verification: curve, public key, digest, signature (R383, R385). -/
opaque ecdsaVerify : Nat → List Byte → List Byte → List Byte → Bool

/-- ECDH shared secret: curve, private key, peer public key (R378, R383). -/
opaque ecdh : Nat → List Byte → List Byte → List Byte

/-- The curve a VERIFY curve byte names: R383 gives no coding. -/
opaque curveOf : Nat → Option Nat

/-- How a mailbox HKDF input splits into salt and info: R383 gives no layout. -/
opaque hkdfSplit : List Byte → List Byte × List Byte

/-- The Enclave's fuses (R373): unique device secret, serial number, hash of the debug authority key, tamper reset level. -/
opaque fuseUds : List Byte
opaque fuseSerial : List Byte
opaque fuseDbgAuth : List Byte
opaque fuseTamperLvl : Nat

/-- Largest number of packets in the transmit queue of a transport (R42 names the queue, no rule its length). -/
opaque txQueueLen : Nat

/-- The IPv4 header fields that no rule gives a value (R51), and the MAC address that ARP gives for a station (R251). -/
opaque ipIdent : Nat
opaque ipTtl : Nat
opaque hopMac : Nat → BitVec 48

/-- The clock identity of the PTP port (IEEE 1588 derives it from an EUI-64; no rule gives the device's). -/
opaque ptpClockId : BitVec 64

/-- The u16 code of an endpoint in a holder record (R47 names it, no rule gives its coding). -/
opaque epCode : Nat → Nat → Nat

/-- The notification class of an Event Fabric source (R42 names classes, no rule lists them). -/
opaque notifyClass : Nat → Nat

/-- The payload of the notification of an event: source, DTIME, and the DROPPED bit (R42). -/
opaque notifyPayload : Nat → Nat → Bool → List Byte

/-- The content of the Steward's boot ROM at an offset (R464). -/
opaque bootRom : Nat → Byte

/-- What a Crust store INDEX group takes: its records and its bytes in flash (R400 gives its content, not its layout). -/
opaque indexRecs : Nat
opaque indexBytes : Nat

/-- CODE and ARG of a log entry that a rule asks for without giving its coding: by kind of entry and recorded values. -/
opaque logCode : Nat → Nat
opaque logArg : Nat → List Nat → Nat

/-- The member list TOPOLOGY replies with, from address, link and hops of each route (R39 gives no layout). -/
opaque memberList : List (Nat × Nat × Nat) → List Byte

/-- Hash of an update signer's public key in fuse SIGNER_k (R419). -/
opaque fuseSigner : Nat → List Byte

/-- What block 0 of a program says (R158 to R163 give its content, not its layout): its identity, the CRC-32C of every block, RETID, the
retain length in KiB, the entry address, the initial data set as image offsets and data, whether a data-region offset is free
for edits, and the pages it maps beyond R519's fixed ranges: page, pages, X, W. -/
opaque progId : List Byte → Nat
opaque progCrcs : List Byte → List (Nat × Nat)
opaque progRetid : List Byte → Nat
opaque progRetKib : List Byte → Nat
opaque progEntry : List Byte → Nat
opaque progInit : List Byte → List (Nat × List Byte)
opaque progFree : List Byte → Nat → Bool
opaque progPages : List Byte → List (Nat × Nat × Bool)

/-- Where a block lies in I-TCM: of a loaded program by its header, of the staged edit number `g` (no rule places them). -/
opaque blockPlace : List Byte → Nat → Nat
opaque stagePlace : Nat → Nat → Nat

/-- What a staged block says of itself (R162, R163): it is whole with a matching CRC, its initial data, a RETID it carries. -/
opaque blockOk : List Byte → Bool
opaque blockInit : List Byte → List (Nat × List Byte)
opaque blockRetid : List Byte → Option Nat

/-- PANRT's return address in LK, and PANRT's own code pages in I-TCM, of a Pan (R517, R519). -/
opaque panrtLk : Nat → Nat
opaque panrtPages : Nat → List (Nat × Nat)

/-- The fuses of the reset controller (R452, R455): the level of source k, none when unprogrammed, and RSTN_FILT. -/
opaque fuseRstLvl : Nat → Option Nat
opaque fuseRstnFilt : Nat

/-- The Steward's settings enable boot service (R467). -/
opaque bootService : Bool

/-- The fuse-shadow sector of the flash die (R374), which no rule lays out. -/
opaque fuseShadow : List Byte

end Sys2Proof.Config
end

