-- ==== Sys2Proof/Machine/Ids.lean ====
section
/-! DEFINITION. The numbers of the cores and Pans. -/
namespace Sys2Proof

/-- CORE_ID (R62), which is also the core's Event Fabric target (R133) and its scope bit (R487). -/
def CoreId.num : CoreId → Nat
  | .panA => 0
  | .panB => 1
  | .steward => 2

/-- The core of a Pan. -/
def PanId.core : PanId → CoreId
  | .a => .panA
  | .b => .panB

/-- 0 for Pan A, 1 for Pan B (R168). -/
def PanId.num : PanId → Nat
  | .a => 0
  | .b => 1

/-- The other Pan. -/
def PanId.other : PanId → PanId
  | .a => .b
  | .b => .a

/-- The Pan a core is, if any. -/
def CoreId.pan : CoreId → Option PanId
  | .panA => some .a
  | .panB => some .b
  | .steward => none

end Sys2Proof
end

