-- ==== Sys2Proof/Machine/Packet.lean ====
section
/-! DEFINITION. Command packets as bytes: the CRC-32C of R31, the layout of R30, building and reading. -/
namespace Sys2Proof.Machine

/-- One bit of the reflected CRC-32C (polynomial 0x1EDC_6F41 reflected, R31). -/
def crcBit (c : Nat) : Nat := if c % 2 = 1 then (c / 2) ^^^ 0x82F63B78 else c / 2

/-- One byte of CRC-32C. -/
def crcByte (c : Nat) (b : Byte) : Nat :=
  crcBit (crcBit (crcBit (crcBit (crcBit (crcBit (crcBit (crcBit (c ^^^ b.toNat))))))))

/-- CRC-32C of a byte list: initial value and final XOR 0xFFFF_FFFF (R31). -/
def crc32c (bs : List Byte) : Nat := bs.foldl crcByte 0xFFFFFFFF ^^^ 0xFFFFFFFF

/-- A command packet's fields (R30). `dst` holds the whole DST word, TYPE included. -/
structure Pkt where
  ver : Nat
  dst : Nat
  src : Nat
  seq : Nat
  grp : Nat
  op : Nat
  sess : Nat
  stat : Nat
  flg : Nat
  payload : List Byte
  tag : List Byte
  deriving DecidableEq, Repr, Inhabited

/-- TYPE of a packet: 0 request, 1 reply, 2 notification, 3 completion (R30). -/
def Pkt.type (p : Pkt) : Nat := p.dst / 4096 % 16

/-- Destination device address of a packet. -/
def Pkt.addr (p : Pkt) : Nat := p.dst % 4096

/-- LEN of a packet, CRC and the 8 bytes of TAG included (R30). -/
def Pkt.len (p : Pkt) : Nat := 20 + p.payload.length + (if p.flg % 2 = 1 then 8 else 0)

/-- The 16-byte header (R30). -/
def Pkt.header (p : Pkt) : List Byte :=
  leBytes 1 0xA5 ++ leBytes 1 p.ver ++ leBytes 2 p.len ++ leBytes 2 p.dst ++ leBytes 2 p.src ++ leBytes 2 p.seq ++
  leBytes 1 p.grp ++ leBytes 1 p.op ++ leBytes 2 p.sess ++ leBytes 1 p.stat ++ leBytes 1 p.flg

/-- The bytes the TAG covers: 0 to 15 + n (R45). -/
def Pkt.tagged (p : Pkt) : List Byte := p.header ++ p.payload

/-- The whole packet, its CRC least significant byte first (R30, R31). -/
def Pkt.bytes (p : Pkt) : List Byte :=
  let body := p.tagged ++ p.tag
  body ++ leBytes 4 (crc32c body)

/-- The tag of a packet under a session key: the first 8 bytes of the CMAC (R45). -/
def Pkt.mac (p : Pkt) (key : List Byte) : List Byte := (Config.cmac key p.tagged).take 8

/-- A packet with its tag under a session key. -/
def Pkt.sealed (p : Pkt) (key : List Byte) : Pkt :=
  let q := { p with flg := putBit p.flg 0 true, tag := List.replicate 8 0#8 }
  { q with tag := q.mac key }

/-- Read a packet's fields from its bytes, without any check. -/
def parsePkt (bs : List Byte) : Pkt :=
  let flg := leAt bs 15 1
  let n := bs.length - 20 - (if flg % 2 = 1 then 8 else 0)
  { ver := leAt bs 1 1, dst := leAt bs 4 2, src := leAt bs 6 2, seq := leAt bs 8 2, grp := leAt bs 10 1,
    op := leAt bs 11 1, sess := leAt bs 12 2, stat := leAt bs 14 1, flg := flg,
    payload := (bs.drop 16).take n, tag := if flg % 2 = 1 then (bs.drop (16 + n)).take 8 else [] }

/-- Why a packet is discarded before its header can be trusted (R32): a wrong SYNC or CRC, or a LEN that does not match the
length delivered. -/
inductive PktBad where
  | sync | crc | len
  deriving DecidableEq, Repr

/-- The framing checks of R32 on delivered bytes. Which of them names a packet that fails several, and so which half of CMD_ERRCNT_n
counts it, is open: fewer than 20 bytes, then SYNC, LEN, CRC, and the length that TAG and payload leave (DESIGN CHOICE, log 162). -/
def pktCheck (bs : List Byte) : Option PktBad :=
  if bs.length < 20 then some .len
  else if leAt bs 0 1 ≠ 0xA5 then some .sync
  else if leAt bs 2 2 ≠ bs.length then some .len
  else if leAt bs (bs.length - 4) 4 ≠ crc32c (bs.take (bs.length - 4)) then some .crc
  else if leAt bs 15 1 % 2 = 1 && bs.length < 28 then some .len
  else if 4096 < (parsePkt bs).payload.length then some .len
  else none

end Sys2Proof.Machine
end

