-- ==== Sys2Proof/Machine/RegFields.lean ====
section
/-! DEFINITION. The names of the registers and of their fields: `A.<REGISTER>` is a register's address (with its indices),
`F.<REGISTER>_<FIELD>` one of its fields, under the spec's own names. -/
namespace Sys2Proof.Machine

/-- A field of the register at an address: bits `[hi:lo]`. -/
structure Fld where
  addr : Nat
  hi : Nat
  lo : Nat
  deriving DecidableEq, Repr

def A.SYSCTL_DEVID : Nat := 0x40000000
def F.SYSCTL_DEVID_FAMILY : Fld := ⟨A.SYSCTL_DEVID, 7, 0⟩
def F.SYSCTL_DEVID_REV_LET : Fld := ⟨A.SYSCTL_DEVID, 11, 8⟩
def F.SYSCTL_DEVID_REV_NUM : Fld := ⟨A.SYSCTL_DEVID, 15, 12⟩
def F.SYSCTL_DEVID_PART : Fld := ⟨A.SYSCTL_DEVID, 31, 16⟩
def A.CMD_CTRL : Nat := 0x40050000
def F.CMD_CTRL_ENABLE : Fld := ⟨A.CMD_CTRL, 0, 0⟩
def F.CMD_CTRL_TP_EN : Fld := ⟨A.CMD_CTRL, 6, 1⟩
def F.CMD_CTRL_OBS_SESS : Fld := ⟨A.CMD_CTRL, 7, 7⟩
def A.CMD_STATUS : Nat := 0x40050004
def F.CMD_STATUS_TP_ACTIVE : Fld := ⟨A.CMD_STATUS, 5, 0⟩
def F.CMD_STATUS_SESSIONS : Fld := ⟨A.CMD_STATUS, 12, 8⟩
def F.CMD_STATUS_MAINT_HELD : Fld := ⟨A.CMD_STATUS, 21, 16⟩
def A.CMD_EVT : Nat := 0x40050008
def F.CMD_EVT_EVT : Fld := ⟨A.CMD_EVT, 7, 0⟩
def A.CMD_OUTST (i : Nat) : Nat := 0x40050040 + i * 0x4
def F.CMD_OUTST_COUNT (i : Nat) : Fld := ⟨A.CMD_OUTST i, 5, 0⟩
def F.CMD_OUTST_PEAK (i : Nat) : Fld := ⟨A.CMD_OUTST i, 13, 8⟩
def A.CMD_ERRCNT (i : Nat) : Nat := 0x40050060 + i * 0x4
def F.CMD_ERRCNT_CRC_ERR (i : Nat) : Fld := ⟨A.CMD_ERRCNT i, 15, 0⟩
def F.CMD_ERRCNT_FRAME_ERR (i : Nat) : Fld := ⟨A.CMD_ERRCNT i, 31, 16⟩
def A.CMD_UDP_CFG : Nat := 0x400500a0
def F.CMD_UDP_CFG_PORT : Fld := ⟨A.CMD_UDP_CFG, 15, 0⟩
def F.CMD_UDP_CFG_JUMBO : Fld := ⟨A.CMD_UDP_CFG, 16, 16⟩
def A.CMD_ISOTP_CFG : Nat := 0x400500c0
def F.CMD_ISOTP_CFG_CHANNEL : Fld := ⟨A.CMD_ISOTP_CFG, 3, 0⟩
def F.CMD_ISOTP_CFG_EN : Fld := ⟨A.CMD_ISOTP_CFG, 4, 4⟩
def F.CMD_ISOTP_CFG_IDE : Fld := ⟨A.CMD_ISOTP_CFG, 5, 5⟩
def F.CMD_ISOTP_CFG_FD : Fld := ⟨A.CMD_ISOTP_CFG, 6, 6⟩
def F.CMD_ISOTP_CFG_BS : Fld := ⟨A.CMD_ISOTP_CFG, 15, 8⟩
def F.CMD_ISOTP_CFG_STMIN : Fld := ⟨A.CMD_ISOTP_CFG, 23, 16⟩
def A.CMD_ISOTP_RXID : Nat := 0x400500c4
def F.CMD_ISOTP_RXID_ID : Fld := ⟨A.CMD_ISOTP_RXID, 28, 0⟩
def A.CMD_ISOTP_TXID : Nat := 0x400500c8
def F.CMD_ISOTP_TXID_ID : Fld := ⟨A.CMD_ISOTP_TXID, 28, 0⟩
def A.DMA_CTRL : Nat := 0x40020000
def F.DMA_CTRL_EN : Fld := ⟨A.DMA_CTRL, 0, 0⟩
def A.DMA_L3WAIT : Nat := 0x40020004
def F.DMA_L3WAIT_US : Fld := ⟨A.DMA_L3WAIT, 15, 0⟩
def A.DMA_JRN_RSEQ : Nat := 0x40020010
def F.DMA_JRN_RSEQ_RSEQ : Fld := ⟨A.DMA_JRN_RSEQ, 31, 0⟩
def A.DMA_EVT : Nat := 0x40020020
def F.DMA_EVT_EVT : Fld := ⟨A.DMA_EVT, 2, 0⟩
def A.DMA_CH_CFG (i : Nat) : Nat := 0x40021000 + i * 0x40
def F.DMA_CH_CFG_PRIO (i : Nat) : Fld := ⟨A.DMA_CH_CFG i, 2, 0⟩
def F.DMA_CH_CFG_EN (i : Nat) : Fld := ⟨A.DMA_CH_CFG i, 3, 3⟩
def F.DMA_CH_CFG_CTX (i : Nat) : Fld := ⟨A.DMA_CH_CFG i, 9, 4⟩
def F.DMA_CH_CFG_REQ (i : Nat) : Fld := ⟨A.DMA_CH_CFG i, 23, 16⟩
def A.DMA_CH_CTRL (i : Nat) : Nat := 0x40021004 + i * 0x40
def F.DMA_CH_CTRL_START (i : Nat) : Fld := ⟨A.DMA_CH_CTRL i, 0, 0⟩
def F.DMA_CH_CTRL_ABORT (i : Nat) : Fld := ⟨A.DMA_CH_CTRL i, 1, 1⟩
def F.DMA_CH_CTRL_RESUME (i : Nat) : Fld := ⟨A.DMA_CH_CTRL i, 2, 2⟩
def A.DMA_CH_STAT (i : Nat) : Nat := 0x40021008 + i * 0x40
def F.DMA_CH_STAT_STATE (i : Nat) : Fld := ⟨A.DMA_CH_STAT i, 2, 0⟩
def F.DMA_CH_STAT_CAUSE (i : Nat) : Fld := ⟨A.DMA_CH_STAT i, 7, 4⟩
def F.DMA_CH_STAT_DONE (i : Nat) : Fld := ⟨A.DMA_CH_STAT i, 8, 8⟩
def F.DMA_CH_STAT_ERR (i : Nat) : Fld := ⟨A.DMA_CH_STAT i, 9, 9⟩
def F.DMA_CH_STAT_JREC (i : Nat) : Fld := ⟨A.DMA_CH_STAT i, 25, 16⟩
def A.DMA_CH_DESC (i : Nat) : Nat := 0x4002100c + i * 0x40
def F.DMA_CH_DESC_VALUE (i : Nat) : Fld := ⟨A.DMA_CH_DESC i, 31, 0⟩
def A.DMA_CH_CUR (i : Nat) : Nat := 0x40021010 + i * 0x40
def F.DMA_CH_CUR_VALUE (i : Nat) : Fld := ⟨A.DMA_CH_CUR i, 31, 0⟩
def A.DMA_CH_REM (i : Nat) : Nat := 0x40021014 + i * 0x40
def F.DMA_CH_REM_VALUE (i : Nat) : Fld := ⟨A.DMA_CH_REM i, 31, 0⟩
def A.IOMMU_CTRL : Nat := 0x40022000
def F.IOMMU_CTRL_EN : Fld := ⟨A.IOMMU_CTRL, 0, 0⟩
def A.IOMMU_FAULT_ADDR : Nat := 0x40022010
def F.IOMMU_FAULT_ADDR_ADDR : Fld := ⟨A.IOMMU_FAULT_ADDR, 31, 0⟩
def A.IOMMU_FAULT_INFO : Nat := 0x40022014
def F.IOMMU_FAULT_INFO_CTX : Fld := ⟨A.IOMMU_FAULT_INFO, 5, 0⟩
def F.IOMMU_FAULT_INFO_WRITE : Fld := ⟨A.IOMMU_FAULT_INFO, 6, 6⟩
def F.IOMMU_FAULT_INFO_TYPE : Fld := ⟨A.IOMMU_FAULT_INFO, 8, 7⟩
def F.IOMMU_FAULT_INFO_INIT : Fld := ⟨A.IOMMU_FAULT_INFO, 15, 9⟩
def F.IOMMU_FAULT_INFO_VALID : Fld := ⟨A.IOMMU_FAULT_INFO, 31, 31⟩
def A.IOMMU_INV : Nat := 0x40022018
def F.IOMMU_INV_CTX : Fld := ⟨A.IOMMU_INV, 5, 0⟩
def F.IOMMU_INV_ALL : Fld := ⟨A.IOMMU_INV, 8, 8⟩
def A.IOMMU_STREAM (i : Nat) : Nat := 0x40022040 + i * 0x4
def F.IOMMU_STREAM_CTX (i : Nat) : Fld := ⟨A.IOMMU_STREAM i, 5, 0⟩
def F.IOMMU_STREAM_VALID (i : Nat) : Fld := ⟨A.IOMMU_STREAM i, 8, 8⟩
def A.IOMMU_CTX (i : Nat) : Nat := 0x40022100 + i * 0x4
def F.IOMMU_CTX_VALID (i : Nat) : Fld := ⟨A.IOMMU_CTX i, 0, 0⟩
def F.IOMMU_CTX_TTB (i : Nat) : Fld := ⟨A.IOMMU_CTX i, 31, 14⟩
def A.MEM_SCRUB : Nat := 0x40023000
def F.MEM_SCRUB_EN : Fld := ⟨A.MEM_SCRUB, 0, 0⟩
def F.MEM_SCRUB_PASS_MIN : Fld := ⟨A.MEM_SCRUB, 26, 16⟩
def A.MEM_ECCCNT : Nat := 0x40023004
def F.MEM_ECCCNT_CORR : Fld := ⟨A.MEM_ECCCNT, 15, 0⟩
def F.MEM_ECCCNT_UNCORR : Fld := ⟨A.MEM_ECCCNT, 31, 16⟩
def A.MEM_ECCADDR : Nat := 0x40023008
def F.MEM_ECCADDR_ADDR : Fld := ⟨A.MEM_ECCADDR, 31, 0⟩
def A.MEM_ECCSRC : Nat := 0x4002300c
def F.MEM_ECCSRC_STORE : Fld := ⟨A.MEM_ECCSRC, 3, 0⟩
def A.EVT_SRC_CFG (i : Nat) : Nat := 0x40010000 + i * 0x4
def F.EVT_SRC_CFG_LEVEL (i : Nat) : Fld := ⟨A.EVT_SRC_CFG i, 5, 0⟩
def F.EVT_SRC_CFG_EN (i : Nat) : Fld := ⟨A.EVT_SRC_CFG i, 7, 7⟩
def F.EVT_SRC_CFG_TGT (i : Nat) : Fld := ⟨A.EVT_SRC_CFG i, 11, 8⟩
def F.EVT_SRC_CFG_RTRIG (i : Nat) : Fld := ⟨A.EVT_SRC_CFG i, 14, 12⟩
def F.EVT_SRC_CFG_RTEN (i : Nat) : Fld := ⟨A.EVT_SRC_CFG i, 15, 15⟩
def F.EVT_SRC_CFG_MODE (i : Nat) : Fld := ⟨A.EVT_SRC_CFG i, 16, 16⟩
def A.EVT_PEND (i : Nat) : Nat := 0x40012000 + i * 0x4
def F.EVT_PEND_PEND (i : Nat) : Fld := ⟨A.EVT_PEND i, 31, 0⟩
def A.EVT_CTRL : Nat := 0x40012100
def F.EVT_CTRL_EN : Fld := ⟨A.EVT_CTRL, 0, 0⟩
def A.EVT_SWTRIG : Nat := 0x40012104
def F.EVT_SWTRIG_IDX : Fld := ⟨A.EVT_SWTRIG, 4, 0⟩
def A.EVT_MERGE : Nat := 0x40012108
def F.EVT_MERGE_COUNT : Fld := ⟨A.EVT_MERGE, 15, 0⟩
def F.EVT_MERGE_LAST : Fld := ⟨A.EVT_MERGE, 26, 16⟩
def A.EVT_TGT_THR (i : Nat) : Nat := 0x40012200 + i * 0x20
def F.EVT_TGT_THR_THR (i : Nat) : Fld := ⟨A.EVT_TGT_THR i, 5, 0⟩
def A.EVT_TGT_ACK (i : Nat) : Nat := 0x40012204 + i * 0x20
def F.EVT_TGT_ACK_SRC (i : Nat) : Fld := ⟨A.EVT_TGT_ACK i, 10, 0⟩
def F.EVT_TGT_ACK_NONE (i : Nat) : Fld := ⟨A.EVT_TGT_ACK i, 15, 15⟩
def F.EVT_TGT_ACK_LEVEL (i : Nat) : Fld := ⟨A.EVT_TGT_ACK i, 21, 16⟩
def A.EVT_TGT_EOI (i : Nat) : Nat := 0x40012208 + i * 0x20
def F.EVT_TGT_EOI_EOI (i : Nat) : Fld := ⟨A.EVT_TGT_EOI i, 0, 0⟩
def A.EVT_TGT_ACT_L (i : Nat) : Nat := 0x4001220c + i * 0x20
def F.EVT_TGT_ACT_L_ACT (i : Nat) : Fld := ⟨A.EVT_TGT_ACT_L i, 31, 0⟩
def A.EVT_TGT_ACT_H (i : Nat) : Nat := 0x40012210 + i * 0x20
def F.EVT_TGT_ACT_H_ACT (i : Nat) : Fld := ⟨A.EVT_TGT_ACT_H i, 31, 0⟩
def A.EVT_TGT_PRI (i : Nat) : Nat := 0x40012214 + i * 0x20
def F.EVT_TGT_PRI_RUN (i : Nat) : Fld := ⟨A.EVT_TGT_PRI i, 5, 0⟩
def F.EVT_TGT_PRI_IDLE (i : Nat) : Fld := ⟨A.EVT_TGT_PRI i, 6, 6⟩
def F.EVT_TGT_PRI_TOP (i : Nat) : Fld := ⟨A.EVT_TGT_PRI i, 13, 8⟩
def F.EVT_TGT_PRI_DELIV (i : Nat) : Fld := ⟨A.EVT_TGT_PRI i, 14, 14⟩
def A.RAKE_CTRL : Nat := 0x40030000
def F.RAKE_CTRL_EN : Fld := ⟨A.RAKE_CTRL, 0, 0⟩
def A.RAKE_STATUS : Nat := 0x40030004
def F.RAKE_STATUS_N_IN : Fld := ⟨A.RAKE_STATUS, 13, 0⟩
def F.RAKE_STATUS_N_OUT : Fld := ⟨A.RAKE_STATUS, 29, 16⟩
def A.RAKE_TIME : Nat := 0x40030008
def F.RAKE_TIME_TAPPLY : Fld := ⟨A.RAKE_TIME, 7, 0⟩
def F.RAKE_TIME_THARV : Fld := ⟨A.RAKE_TIME, 15, 8⟩
def A.RAKE_RET : Nat := 0x4003000c
def F.RAKE_RET_SPLIT : Fld := ⟨A.RAKE_RET, 5, 0⟩
def F.RAKE_RET_CKPT_MS : Fld := ⟨A.RAKE_RET, 31, 16⟩
def A.RAKE_EVT : Nat := 0x40030010
def F.RAKE_EVT_EVT : Fld := ⟨A.RAKE_EVT, 25, 0⟩
def A.RAKE_ERR : Nat := 0x40030014
def F.RAKE_ERR_ENTRY : Fld := ⟨A.RAKE_ERR, 12, 0⟩
def F.RAKE_ERR_PAN : Fld := ⟨A.RAKE_ERR, 13, 13⟩
def F.RAKE_ERR_CAUSE : Fld := ⟨A.RAKE_ERR, 17, 14⟩
def F.RAKE_ERR_VALID : Fld := ⟨A.RAKE_ERR, 31, 31⟩
def A.RAKE_PFW : Nat := 0x40030018
def F.RAKE_PFW_ACTIVE : Fld := ⟨A.RAKE_PFW, 0, 0⟩
def F.RAKE_PFW_SAVED : Fld := ⟨A.RAKE_PFW, 2, 1⟩
def F.RAKE_PFW_OLD : Fld := ⟨A.RAKE_PFW, 4, 3⟩
def A.RAKE_TRIG_CFG (i : Nat) : Nat := 0x40030040 + i * 0x4
def F.RAKE_TRIG_CFG_BASE (i : Nat) : Fld := ⟨A.RAKE_TRIG_CFG i, 15, 0⟩
def F.RAKE_TRIG_CFG_EN (i : Nat) : Fld := ⟨A.RAKE_TRIG_CFG i, 16, 16⟩
def A.RAKE_PAN_CFG (i : Nat) : Nat := 0x40030100 + i * 0x40
def F.RAKE_PAN_CFG_PERIOD_US (i : Nat) : Fld := ⟨A.RAKE_PAN_CFG i, 19, 0⟩
def F.RAKE_PAN_CFG_ACTION (i : Nat) : Fld := ⟨A.RAKE_PAN_CFG i, 21, 20⟩
def F.RAKE_PAN_CFG_AUTO (i : Nat) : Fld := ⟨A.RAKE_PAN_CFG i, 23, 22⟩
def A.RAKE_PAN_OVR (i : Nat) : Nat := 0x40030104 + i * 0x40
def F.RAKE_PAN_OVR_LATE_US (i : Nat) : Fld := ⟨A.RAKE_PAN_OVR i, 15, 0⟩
def F.RAKE_PAN_OVR_NCONS (i : Nat) : Fld := ⟨A.RAKE_PAN_OVR i, 19, 16⟩
def F.RAKE_PAN_OVR_HARD (i : Nat) : Fld := ⟨A.RAKE_PAN_OVR i, 23, 20⟩
def A.RAKE_PAN_PHASE (i : Nat) : Nat := 0x40030108 + i * 0x40
def F.RAKE_PAN_PHASE_PHASE_US (i : Nat) : Fld := ⟨A.RAKE_PAN_PHASE i, 19, 0⟩
def A.RAKE_PAN_STATE (i : Nat) : Nat := 0x4003010c + i * 0x40
def F.RAKE_PAN_STATE_MODE (i : Nat) : Fld := ⟨A.RAKE_PAN_STATE i, 2, 0⟩
def F.RAKE_PAN_STATE_STANDBY (i : Nat) : Fld := ⟨A.RAKE_PAN_STATE i, 3, 3⟩
def F.RAKE_PAN_STATE_CONS (i : Nat) : Fld := ⟨A.RAKE_PAN_STATE i, 7, 4⟩
def F.RAKE_PAN_STATE_FIRST (i : Nat) : Fld := ⟨A.RAKE_PAN_STATE i, 8, 8⟩
def F.RAKE_PAN_STATE_WARM (i : Nat) : Fld := ⟨A.RAKE_PAN_STATE i, 9, 9⟩
def F.RAKE_PAN_STATE_CRUST (i : Nat) : Fld := ⟨A.RAKE_PAN_STATE i, 10, 10⟩
def F.RAKE_PAN_STATE_FORCES (i : Nat) : Fld := ⟨A.RAKE_PAN_STATE i, 24, 16⟩
def A.RAKE_PAN_CYCLE (i : Nat) : Nat := 0x40030110 + i * 0x40
def F.RAKE_PAN_CYCLE_VALUE (i : Nat) : Fld := ⟨A.RAKE_PAN_CYCLE i, 31, 0⟩
def A.RAKE_PAN_CKPT (i : Nat) : Nat := 0x40030114 + i * 0x40
def F.RAKE_PAN_CKPT_VALUE (i : Nat) : Fld := ⟨A.RAKE_PAN_CKPT i, 31, 0⟩
def A.RAKE_PAN_LOGIC (i : Nat) : Nat := 0x40030118 + i * 0x40
def F.RAKE_PAN_LOGIC_LAST (i : Nat) : Fld := ⟨A.RAKE_PAN_LOGIC i, 15, 0⟩
def F.RAKE_PAN_LOGIC_MAX (i : Nat) : Fld := ⟨A.RAKE_PAN_LOGIC i, 31, 16⟩
def A.RAKE_PAN_CNT (i : Nat) : Nat := 0x4003011c + i * 0x40
def F.RAKE_PAN_CNT_LATE (i : Nat) : Fld := ⟨A.RAKE_PAN_CNT i, 15, 0⟩
def F.RAKE_PAN_CNT_OVR (i : Nat) : Fld := ⟨A.RAKE_PAN_CNT i, 31, 16⟩
def A.RAKE_PAN_DONE (i : Nat) : Nat := 0x40030120 + i * 0x40
def F.RAKE_PAN_DONE_DONE (i : Nat) : Fld := ⟨A.RAKE_PAN_DONE i, 0, 0⟩
def A.RAKE_PAN_ENT (i : Nat) : Nat := 0x40030124 + i * 0x40
def F.RAKE_PAN_ENT_N_IN (i : Nat) : Fld := ⟨A.RAKE_PAN_ENT i, 13, 0⟩
def F.RAKE_PAN_ENT_N_OUT (i : Nat) : Fld := ⟨A.RAKE_PAN_ENT i, 29, 16⟩
def A.RING_CTRL : Nat := 0x40040000
def F.RING_CTRL_EN : Fld := ⟨A.RING_CTRL, 0, 0⟩
def F.RING_CTRL_SPLIT : Fld := ⟨A.RING_CTRL, 1, 1⟩
def F.RING_CTRL_RRST_EN : Fld := ⟨A.RING_CTRL, 2, 2⟩
def F.RING_CTRL_KSLOT : Fld := ⟨A.RING_CTRL, 13, 8⟩
def A.RING_ADDR : Nat := 0x40040004
def F.RING_ADDR_ADDR : Fld := ⟨A.RING_ADDR, 11, 0⟩
def F.RING_ADDR_CONFLICT : Fld := ⟨A.RING_ADDR, 16, 16⟩
def A.RING_STATUS : Nat := 0x40040008
def F.RING_STATUS_LINKS : Fld := ⟨A.RING_STATUS, 8, 0⟩
def F.RING_STATUS_MEMBERS : Fld := ⟨A.RING_STATUS, 27, 16⟩
def A.RING_EVT : Nat := 0x4004000c
def F.RING_EVT_EVT : Fld := ⟨A.RING_EVT, 18, 0⟩
def A.RING_LINK_STAT (i : Nat) : Nat := 0x40040100 + i * 0x10
def F.RING_LINK_STAT_PEER (i : Nat) : Fld := ⟨A.RING_LINK_STAT i, 11, 0⟩
def F.RING_LINK_STAT_WIDTH (i : Nat) : Fld := ⟨A.RING_LINK_STAT i, 13, 12⟩
def A.RING_LINK_ERR (i : Nat) : Nat := 0x40040104 + i * 0x10
def F.RING_LINK_ERR_RETX (i : Nat) : Fld := ⟨A.RING_LINK_ERR i, 15, 0⟩
def F.RING_LINK_ERR_DROP (i : Nat) : Fld := ⟨A.RING_LINK_ERR i, 31, 16⟩
def A.RING_LINK_DELAY (i : Nat) : Nat := 0x40040108 + i * 0x10
def F.RING_LINK_DELAY_PS (i : Nat) : Fld := ⟨A.RING_LINK_DELAY i, 23, 0⟩
def A.RING_TIME_CFG : Nat := 0x40040200
def F.RING_TIME_CFG_MASTER_EN : Fld := ⟨A.RING_TIME_CFG, 0, 0⟩
def F.RING_TIME_CFG_PRIO : Fld := ⟨A.RING_TIME_CFG, 15, 8⟩
def A.RING_TIME_STAT : Nat := 0x40040204
def F.RING_TIME_STAT_MASTER : Fld := ⟨A.RING_TIME_STAT, 11, 0⟩
def F.RING_TIME_STAT_HOLDOVER : Fld := ⟨A.RING_TIME_STAT, 12, 12⟩
def F.RING_TIME_STAT_LINK : Fld := ⟨A.RING_TIME_STAT, 14, 13⟩
def F.RING_TIME_STAT_DEPTH : Fld := ⟨A.RING_TIME_STAT, 27, 16⟩
def A.RING_HS_CFG : Nat := 0x40040300
def F.RING_HS_CFG_EN : Fld := ⟨A.RING_HS_CFG, 0, 0⟩
def F.RING_HS_CFG_PREF : Fld := ⟨A.RING_HS_CFG, 1, 1⟩
def F.RING_HS_CFG_PARTNER : Fld := ⟨A.RING_HS_CFG, 15, 4⟩
def F.RING_HS_CFG_SHARE_A : Fld := ⟨A.RING_HS_CFG, 22, 16⟩
def F.RING_HS_CFG_WAIT_MS : Fld := ⟨A.RING_HS_CFG, 31, 24⟩
def A.RING_HS_STAT : Nat := 0x40040304
def F.RING_HS_STAT_ROLE : Fld := ⟨A.RING_HS_STAT, 2, 0⟩
def F.RING_HS_STAT_PROLE : Fld := ⟨A.RING_HS_STAT, 5, 3⟩
def F.RING_HS_STAT_PARTIAL : Fld := ⟨A.RING_HS_STAT, 6, 6⟩
def F.RING_HS_STAT_SYNC_LEFT : Fld := ⟨A.RING_HS_STAT, 29, 16⟩
def A.RING_HS_CNT : Nat := 0x40040308
def F.RING_HS_CNT_TAKEOVERS : Fld := ⟨A.RING_HS_CNT, 7, 0⟩
def F.RING_HS_CNT_DIVERGE : Fld := ⟨A.RING_HS_CNT, 15, 8⟩
def F.RING_HS_CNT_HBMISS : Fld := ⟨A.RING_HS_CNT, 23, 16⟩
def F.RING_HS_CNT_BACKLOG : Fld := ⟨A.RING_HS_CNT, 31, 24⟩
def A.RING_MIR (i : Nat) : Nat := 0x40040310 + i * 0x4
def F.RING_MIR_CAP (i : Nat) : Fld := ⟨A.RING_MIR i, 12, 0⟩
def F.RING_MIR_LAST (i : Nat) : Fld := ⟨A.RING_MIR i, 28, 16⟩
def A.RING_SIL_CFG (i : Nat) : Nat := 0x40040400 + i * 0x4
def F.RING_SIL_CFG_POLICY (i : Nat) : Fld := ⟨A.RING_SIL_CFG i, 0, 0⟩
def F.RING_SIL_CFG_BRIDGE_MS (i : Nat) : Fld := ⟨A.RING_SIL_CFG i, 24, 16⟩
def A.RING_SIL_TO (i : Nat) : Nat := 0x40040440 + i * 0x4
def F.RING_SIL_TO_US (i : Nat) : Fld := ⟨A.RING_SIL_TO i, 20, 0⟩
def A.RING_SIL_STAT : Nat := 0x40040448
def F.RING_SIL_STAT_SILENT : Fld := ⟨A.RING_SIL_STAT, 9, 0⟩
def F.RING_SIL_STAT_OFF : Fld := ⟨A.RING_SIL_STAT, 25, 16⟩
def A.CAN_CTRL (i : Nat) : Nat := 0x40100000 + i * 0x10000
def F.CAN_CTRL_EN (i : Nat) : Fld := ⟨A.CAN_CTRL i, 0, 0⟩
def F.CAN_CTRL_MODE (i : Nat) : Fld := ⟨A.CAN_CTRL i, 2, 1⟩
def F.CAN_CTRL_LBEXT (i : Nat) : Fld := ⟨A.CAN_CTRL i, 3, 3⟩
def F.CAN_CTRL_FD_EN (i : Nat) : Fld := ⟨A.CAN_CTRL i, 4, 4⟩
def F.CAN_CTRL_BRS_EN (i : Nat) : Fld := ⟨A.CAN_CTRL i, 5, 5⟩
def F.CAN_CTRL_PXHD (i : Nat) : Fld := ⟨A.CAN_CTRL i, 6, 6⟩
def F.CAN_CTRL_ABO (i : Nat) : Fld := ⟨A.CAN_CTRL i, 7, 7⟩
def F.CAN_CTRL_RECOVER (i : Nat) : Fld := ⟨A.CAN_CTRL i, 8, 8⟩
def F.CAN_CTRL_UNF_EN (i : Nat) : Fld := ⟨A.CAN_CTRL i, 9, 9⟩
def F.CAN_CTRL_TXF_N (i : Nat) : Fld := ⟨A.CAN_CTRL i, 15, 10⟩
def F.CAN_CTRL_RXAB (i : Nat) : Fld := ⟨A.CAN_CTRL i, 16, 16⟩
def A.CAN_STAT (i : Nat) : Nat := 0x40100004 + i * 0x10000
def F.CAN_STAT_STATE (i : Nat) : Fld := ⟨A.CAN_STAT i, 2, 0⟩
def F.CAN_STAT_FROZEN (i : Nat) : Fld := ⟨A.CAN_STAT i, 3, 3⟩
def F.CAN_STAT_CFGERR (i : Nat) : Fld := ⟨A.CAN_STAT i, 4, 4⟩
def F.CAN_STAT_HOLDOVF (i : Nat) : Fld := ⟨A.CAN_STAT i, 5, 5⟩
def F.CAN_STAT_DOMTO (i : Nat) : Fld := ⟨A.CAN_STAT i, 6, 6⟩
def F.CAN_STAT_TXACT (i : Nat) : Fld := ⟨A.CAN_STAT i, 7, 7⟩
def F.CAN_STAT_TRX (i : Nat) : Fld := ⟨A.CAN_STAT i, 10, 8⟩
def F.CAN_STAT_TXFERR (i : Nat) : Fld := ⟨A.CAN_STAT i, 11, 11⟩
def A.CAN_ERR (i : Nat) : Nat := 0x40100008 + i * 0x10000
def F.CAN_ERR_TEC (i : Nat) : Fld := ⟨A.CAN_ERR i, 8, 0⟩
def F.CAN_ERR_REC (i : Nat) : Fld := ⟨A.CAN_ERR i, 23, 16⟩
def F.CAN_ERR_RP (i : Nat) : Fld := ⟨A.CAN_ERR i, 24, 24⟩
def A.CAN_ERRCNT (i : Nat) : Nat := 0x4010000c + i * 0x10000
def F.CAN_ERRCNT_BUSOFF (i : Nat) : Fld := ⟨A.CAN_ERRCNT i, 15, 0⟩
def F.CAN_ERRCNT_PXE (i : Nat) : Fld := ⟨A.CAN_ERRCNT i, 31, 16⟩
def A.CAN_PERR (i : Nat) : Nat := 0x4010001c + i * 0x10000
def F.CAN_PERR_LEC (i : Nat) : Fld := ⟨A.CAN_PERR i, 2, 0⟩
def F.CAN_PERR_NERR (i : Nat) : Fld := ⟨A.CAN_PERR i, 15, 8⟩
def F.CAN_PERR_DERR (i : Nat) : Fld := ⟨A.CAN_PERR i, 23, 16⟩
def F.CAN_PERR_RERR (i : Nat) : Fld := ⟨A.CAN_PERR i, 31, 24⟩
def A.CAN_NBT (i : Nat) : Nat := 0x40100010 + i * 0x10000
def F.CAN_NBT_NBRP (i : Nat) : Fld := ⟨A.CAN_NBT i, 8, 0⟩
def F.CAN_NBT_NTSEG1 (i : Nat) : Fld := ⟨A.CAN_NBT i, 16, 9⟩
def F.CAN_NBT_NTSEG2 (i : Nat) : Fld := ⟨A.CAN_NBT i, 23, 17⟩
def F.CAN_NBT_NSJW (i : Nat) : Fld := ⟨A.CAN_NBT i, 30, 24⟩
def A.CAN_DBT (i : Nat) : Nat := 0x40100014 + i * 0x10000
def F.CAN_DBT_DBRP (i : Nat) : Fld := ⟨A.CAN_DBT i, 4, 0⟩
def F.CAN_DBT_DTSEG1 (i : Nat) : Fld := ⟨A.CAN_DBT i, 12, 8⟩
def F.CAN_DBT_DTSEG2 (i : Nat) : Fld := ⟨A.CAN_DBT i, 19, 16⟩
def F.CAN_DBT_DSJW (i : Nat) : Fld := ⟨A.CAN_DBT i, 27, 24⟩
def A.CAN_TDC (i : Nat) : Nat := 0x40100018 + i * 0x10000
def F.CAN_TDC_TDCE (i : Nat) : Fld := ⟨A.CAN_TDC i, 0, 0⟩
def F.CAN_TDC_TDCO (i : Nat) : Fld := ⟨A.CAN_TDC i, 14, 8⟩
def F.CAN_TDC_TDCF (i : Nat) : Fld := ⟨A.CAN_TDC i, 22, 16⟩
def F.CAN_TDC_TDCV (i : Nat) : Fld := ⟨A.CAN_TDC i, 30, 24⟩
def A.CAN_EVT (i : Nat) : Nat := 0x40100020 + i * 0x10000
def F.CAN_EVT_EVT (i : Nat) : Fld := ⟨A.CAN_EVT i, 19, 0⟩
def A.CAN_TAT (i : Nat) : Nat := 0x40100024 + i * 0x10000
def F.CAN_TAT_TOL_US (i : Nat) : Fld := ⟨A.CAN_TAT i, 15, 0⟩
def A.CAN_AUTH (i : Nat) : Nat := 0x40100028 + i * 0x10000
def F.CAN_AUTH_EN (i : Nat) : Fld := ⟨A.CAN_AUTH i, 0, 0⟩
def F.CAN_AUTH_KERR (i : Nat) : Fld := ⟨A.CAN_AUTH i, 1, 1⟩
def F.CAN_AUTH_KSLOT (i : Nat) : Fld := ⟨A.CAN_AUTH i, 7, 2⟩
def F.CAN_AUTH_WIN (i : Nat) : Fld := ⟨A.CAN_AUTH i, 15, 8⟩
def A.CAN_AUTHCNT (i : Nat) : Nat := 0x4010002c + i * 0x10000
def F.CAN_AUTHCNT_FAIL (i : Nat) : Fld := ⟨A.CAN_AUTHCNT i, 15, 0⟩
def A.CAN_UNF_STAT (i : Nat) : Nat := 0x40100030 + i * 0x10000
def F.CAN_UNF_STAT_COUNT (i : Nat) : Fld := ⟨A.CAN_UNF_STAT i, 7, 0⟩
def F.CAN_UNF_STAT_HEAD (i : Nat) : Fld := ⟨A.CAN_UNF_STAT i, 14, 8⟩
def A.CAN_UNF_REL (i : Nat) : Nat := 0x40100034 + i * 0x10000
def F.CAN_UNF_REL_REL (i : Nat) : Fld := ⟨A.CAN_UNF_REL i, 0, 0⟩
def A.CAN_UNF_OVR (i : Nat) : Nat := 0x40100038 + i * 0x10000
def F.CAN_UNF_OVR_OVR (i : Nat) : Fld := ⟨A.CAN_UNF_OVR i, 15, 0⟩
def A.CAN_TXFIFO_STAT (i : Nat) : Nat := 0x4010003c + i * 0x10000
def F.CAN_TXFIFO_STAT_COUNT (i : Nat) : Fld := ⟨A.CAN_TXFIFO_STAT i, 5, 0⟩
def A.CAN_RXNEW (i j : Nat) : Nat := 0x40100100 + i * 0x10000 + j * 0x4
def F.CAN_RXNEW_BITS (i j : Nat) : Fld := ⟨A.CAN_RXNEW i j, 31, 0⟩
def A.CAN_RXLOST (i j : Nat) : Nat := 0x40100180 + i * 0x10000 + j * 0x4
def F.CAN_RXLOST_BITS (i j : Nat) : Fld := ⟨A.CAN_RXLOST i j, 31, 0⟩
def A.CAN_TXREQ_SET_L (i : Nat) : Nat := 0x40100200 + i * 0x10000
def F.CAN_TXREQ_SET_L_SET (i : Nat) : Fld := ⟨A.CAN_TXREQ_SET_L i, 31, 0⟩
def A.CAN_TXREQ_SET_H (i : Nat) : Nat := 0x40100204 + i * 0x10000
def F.CAN_TXREQ_SET_H_SET (i : Nat) : Fld := ⟨A.CAN_TXREQ_SET_H i, 31, 0⟩
def A.CAN_TXREQ_CLR_L (i : Nat) : Nat := 0x40100208 + i * 0x10000
def F.CAN_TXREQ_CLR_L_CLR (i : Nat) : Fld := ⟨A.CAN_TXREQ_CLR_L i, 31, 0⟩
def A.CAN_TXREQ_CLR_H (i : Nat) : Nat := 0x4010020c + i * 0x10000
def F.CAN_TXREQ_CLR_H_CLR (i : Nat) : Fld := ⟨A.CAN_TXREQ_CLR_H i, 31, 0⟩
def A.CAN_TXPEND_L (i : Nat) : Nat := 0x40100210 + i * 0x10000
def F.CAN_TXPEND_L_PEND (i : Nat) : Fld := ⟨A.CAN_TXPEND_L i, 31, 0⟩
def A.CAN_TXPEND_H (i : Nat) : Nat := 0x40100214 + i * 0x10000
def F.CAN_TXPEND_H_PEND (i : Nat) : Fld := ⟨A.CAN_TXPEND_H i, 31, 0⟩
def A.CAN_TXFIFO (i j : Nat) : Nat := 0x40100800 + i * 0x10000 + j * 0x4
def F.CAN_TXFIFO_DATA (i j : Nat) : Fld := ⟨A.CAN_TXFIFO i j, 31, 0⟩
def A.CAN_FILT (i j : Nat) : Nat := 0x40104000 + i * 0x10000 + j * 0x8
def F.CAN_FILT_ID (i j : Nat) : Fld := ⟨A.CAN_FILT i j, 28, 0⟩
def F.CAN_FILT_IDE (i j : Nat) : Fld := ⟨A.CAN_FILT i j, 29, 29⟩
def F.CAN_FILT_RTR (i j : Nat) : Fld := ⟨A.CAN_FILT i j, 30, 30⟩
def F.CAN_FILT_EN (i j : Nat) : Fld := ⟨A.CAN_FILT i j, 31, 31⟩
def A.CAN_MASK (i j : Nat) : Nat := 0x40104004 + i * 0x10000 + j * 0x8
def F.CAN_MASK_MASK (i j : Nat) : Fld := ⟨A.CAN_MASK i j, 28, 0⟩
def F.CAN_MASK_IRQ (i j : Nat) : Fld := ⟨A.CAN_MASK i j, 29, 29⟩
def F.CAN_MASK_RCLR (i j : Nat) : Fld := ⟨A.CAN_MASK i j, 30, 30⟩
def F.CAN_MASK_AUTH (i j : Nat) : Fld := ⟨A.CAN_MASK i j, 31, 31⟩
def A.CAN_RXAUTH (i j : Nat) : Nat := 0x40105000 + i * 0x10000 + j * 0x4
def F.CAN_RXAUTH_OBJ (i j : Nat) : Fld := ⟨A.CAN_RXAUTH i j, 9, 0⟩
def F.CAN_RXAUTH_VALID (i j : Nat) : Fld := ⟨A.CAN_RXAUTH i j, 15, 15⟩
def A.CAN_FRESH_L (i j : Nat) : Nat := 0x40106000 + i * 0x10000 + j * 0x8
def F.CAN_FRESH_L_FV (i j : Nat) : Fld := ⟨A.CAN_FRESH_L i j, 31, 0⟩
def A.CAN_FRESH_H (i j : Nat) : Nat := 0x40106004 + i * 0x10000 + j * 0x8
def F.CAN_FRESH_H_FV (i j : Nat) : Fld := ⟨A.CAN_FRESH_H i j, 31, 0⟩
def A.TIDE_CTRL : Nat := 0x40200000
def F.TIDE_CTRL_FS_MS : Fld := ⟨A.TIDE_CTRL, 15, 0⟩
def F.TIDE_CTRL_FSAFE : Fld := ⟨A.TIDE_CTRL, 16, 16⟩
def A.TIDE_EVT : Nat := 0x40200004
def F.TIDE_EVT_EVT : Fld := ⟨A.TIDE_EVT, 21, 0⟩
def A.TIDE_QPEND : Nat := 0x40200008
def F.TIDE_QPEND_QPEND : Fld := ⟨A.TIDE_QPEND, 15, 0⟩
def A.TIDE_N_CFG (i : Nat) : Nat := 0x40200100 + i * 0x80
def F.TIDE_N_CFG_EN (i : Nat) : Fld := ⟨A.TIDE_N_CFG i, 0, 0⟩
def F.TIDE_N_CFG_ISOLATE (i : Nat) : Fld := ⟨A.TIDE_N_CFG i, 1, 1⟩
def F.TIDE_N_CFG_TXWAKE (i : Nat) : Fld := ⟨A.TIDE_N_CFG i, 2, 2⟩
def F.TIDE_N_CFG_LPMODE (i : Nat) : Fld := ⟨A.TIDE_N_CFG i, 3, 3⟩
def F.TIDE_N_CFG_WAKEMODE (i : Nat) : Fld := ⟨A.TIDE_N_CFG i, 4, 4⟩
def F.TIDE_N_CFG_SCF_IDE (i : Nat) : Fld := ⟨A.TIDE_N_CFG i, 5, 5⟩
def F.TIDE_N_CFG_NODE (i : Nat) : Fld := ⟨A.TIDE_N_CFG i, 13, 8⟩
def F.TIDE_N_CFG_SCF_MS (i : Nat) : Fld := ⟨A.TIDE_N_CFG i, 23, 16⟩
def F.TIDE_N_CFG_QUORUM (i : Nat) : Fld := ⟨A.TIDE_N_CFG i, 30, 24⟩
def A.TIDE_N_SCFID (i : Nat) : Nat := 0x40200104 + i * 0x80
def F.TIDE_N_SCFID_ID (i : Nat) : Fld := ⟨A.TIDE_N_SCFID i, 28, 0⟩
def A.TIDE_N_TIME (i : Nat) : Nat := 0x40200108 + i * 0x80
def F.TIDE_N_TIME_QUIET_MS (i : Nat) : Fld := ⟨A.TIDE_N_TIME i, 15, 0⟩
def F.TIDE_N_TIME_DRAIN_MS (i : Nat) : Fld := ⟨A.TIDE_N_TIME i, 31, 16⟩
def A.TIDE_N_MEMB_L (i : Nat) : Nat := 0x4020010c + i * 0x80
def F.TIDE_N_MEMB_L_MEMB (i : Nat) : Fld := ⟨A.TIDE_N_MEMB_L i, 31, 0⟩
def A.TIDE_N_MEMB_H (i : Nat) : Nat := 0x40200110 + i * 0x80
def F.TIDE_N_MEMB_H_MEMB (i : Nat) : Fld := ⟨A.TIDE_N_MEMB_H i, 31, 0⟩
def A.TIDE_N_READY_L (i : Nat) : Nat := 0x40200114 + i * 0x80
def F.TIDE_N_READY_L_READY (i : Nat) : Fld := ⟨A.TIDE_N_READY_L i, 31, 0⟩
def A.TIDE_N_READY_H (i : Nat) : Nat := 0x40200118 + i * 0x80
def F.TIDE_N_READY_H_READY (i : Nat) : Fld := ⟨A.TIDE_N_READY_H i, 31, 0⟩
def A.TIDE_N_CMD (i : Nat) : Nat := 0x4020011c + i * 0x80
def F.TIDE_N_CMD_SLEEP (i : Nat) : Fld := ⟨A.TIDE_N_CMD i, 0, 0⟩
def F.TIDE_N_CMD_STAY (i : Nat) : Fld := ⟨A.TIDE_N_CMD i, 1, 1⟩
def F.TIDE_N_CMD_COMMIT (i : Nat) : Fld := ⟨A.TIDE_N_CMD i, 2, 2⟩
def F.TIDE_N_CMD_VETO (i : Nat) : Fld := ⟨A.TIDE_N_CMD i, 3, 3⟩
def F.TIDE_N_CMD_WAKE (i : Nat) : Fld := ⟨A.TIDE_N_CMD i, 4, 4⟩
def F.TIDE_N_CMD_FORCE_SLEEP (i : Nat) : Fld := ⟨A.TIDE_N_CMD i, 5, 5⟩
def A.TIDE_N_STAT (i : Nat) : Nat := 0x40200120 + i * 0x80
def F.TIDE_N_STAT_STATE (i : Nat) : Fld := ⟨A.TIDE_N_STAT i, 1, 0⟩
def F.TIDE_N_STAT_LREADY (i : Nat) : Fld := ⟨A.TIDE_N_STAT i, 2, 2⟩
def F.TIDE_N_STAT_QUORUM (i : Nat) : Fld := ⟨A.TIDE_N_STAT i, 3, 3⟩
def F.TIDE_N_STAT_COMMITTED (i : Nat) : Fld := ⟨A.TIDE_N_STAT i, 4, 4⟩
def F.TIDE_N_STAT_IGNORE (i : Nat) : Fld := ⟨A.TIDE_N_STAT i, 5, 5⟩
def F.TIDE_N_STAT_KEEP (i : Nat) : Fld := ⟨A.TIDE_N_STAT i, 6, 6⟩
def F.TIDE_N_STAT_NREADY (i : Nat) : Fld := ⟨A.TIDE_N_STAT i, 14, 8⟩
def A.TIDE_N_WREC (i : Nat) : Nat := 0x40200124 + i * 0x80
def F.TIDE_N_WREC_SRC (i : Nat) : Fld := ⟨A.TIDE_N_WREC i, 3, 0⟩
def F.TIDE_N_WREC_LATCHED (i : Nat) : Fld := ⟨A.TIDE_N_WREC i, 4, 4⟩
def F.TIDE_N_WREC_CAPT (i : Nat) : Fld := ⟨A.TIDE_N_WREC i, 5, 5⟩
def F.TIDE_N_WREC_FEC (i : Nat) : Fld := ⟨A.TIDE_N_WREC i, 13, 8⟩
def F.TIDE_N_WREC_COUNT (i : Nat) : Fld := ⟨A.TIDE_N_WREC i, 31, 16⟩
def A.TIDE_N_WTIME (i : Nat) : Nat := 0x40200128 + i * 0x80
def F.TIDE_N_WTIME_TIME (i : Nat) : Fld := ⟨A.TIDE_N_WTIME i, 31, 0⟩
def A.TIDE_N_WUF_ID (i : Nat) : Nat := 0x4020012c + i * 0x80
def F.TIDE_N_WUF_ID_ID (i : Nat) : Fld := ⟨A.TIDE_N_WUF_ID i, 28, 0⟩
def F.TIDE_N_WUF_ID_IDE (i : Nat) : Fld := ⟨A.TIDE_N_WUF_ID i, 29, 29⟩
def A.TIDE_N_WUF_MASK (i : Nat) : Nat := 0x40200130 + i * 0x80
def F.TIDE_N_WUF_MASK_MASK (i : Nat) : Fld := ⟨A.TIDE_N_WUF_MASK i, 28, 0⟩
def A.TIDE_N_WUF_CTL (i : Nat) : Nat := 0x40200134 + i * 0x80
def F.TIDE_N_WUF_CTL_DLC (i : Nat) : Fld := ⟨A.TIDE_N_WUF_CTL i, 3, 0⟩
def F.TIDE_N_WUF_CTL_DATAEN (i : Nat) : Fld := ⟨A.TIDE_N_WUF_CTL i, 4, 4⟩
def F.TIDE_N_WUF_CTL_RATE (i : Nat) : Fld := ⟨A.TIDE_N_WUF_CTL i, 6, 5⟩
def F.TIDE_N_WUF_CTL_FEC (i : Nat) : Fld := ⟨A.TIDE_N_WUF_CTL i, 13, 8⟩
def A.TIDE_N_WUF_DATA_L (i : Nat) : Nat := 0x40200138 + i * 0x80
def F.TIDE_N_WUF_DATA_L_VALUE (i : Nat) : Fld := ⟨A.TIDE_N_WUF_DATA_L i, 31, 0⟩
def A.TIDE_N_WUF_DATA_H (i : Nat) : Nat := 0x4020013c + i * 0x80
def F.TIDE_N_WUF_DATA_H_VALUE (i : Nat) : Fld := ⟨A.TIDE_N_WUF_DATA_H i, 31, 0⟩
def A.TIDE_N_WUF_DMASK_L (i : Nat) : Nat := 0x40200140 + i * 0x80
def F.TIDE_N_WUF_DMASK_L_VALUE (i : Nat) : Fld := ⟨A.TIDE_N_WUF_DMASK_L i, 31, 0⟩
def A.TIDE_N_WUF_DMASK_H (i : Nat) : Nat := 0x40200144 + i * 0x80
def F.TIDE_N_WUF_DMASK_H_VALUE (i : Nat) : Fld := ⟨A.TIDE_N_WUF_DMASK_H i, 31, 0⟩
def A.SLUICE_CTRL : Nat := 0x40210000
def F.SLUICE_CTRL_EN : Fld := ⟨A.SLUICE_CTRL, 0, 0⟩
def F.SLUICE_CTRL_BRL_PCT : Fld := ⟨A.SLUICE_CTRL, 11, 8⟩
def A.SLUICE_EVT : Nat := 0x40210004
def F.SLUICE_EVT_EVT : Fld := ⟨A.SLUICE_EVT, 2, 0⟩
def A.SLUICE_INQ : Nat := 0x40210034
def F.SLUICE_INQ_COUNT : Fld := ⟨A.SLUICE_INQ, 6, 0⟩
def F.SLUICE_INQ_PEAK : Fld := ⟨A.SLUICE_INQ, 14, 8⟩
def A.SLUICE_RT_IDX : Nat := 0x40210008
def F.SLUICE_RT_IDX_IDX : Fld := ⟨A.SLUICE_RT_IDX, 11, 0⟩
def A.SLUICE_RT_CMD : Nat := 0x4021000c
def F.SLUICE_RT_CMD_WRITE : Fld := ⟨A.SLUICE_RT_CMD, 0, 0⟩
def F.SLUICE_RT_CMD_READ : Fld := ⟨A.SLUICE_RT_CMD, 1, 1⟩
def F.SLUICE_RT_CMD_ERR : Fld := ⟨A.SLUICE_RT_CMD, 2, 2⟩
def A.SLUICE_RT_D (i : Nat) : Nat := 0x40210010 + i * 0x4
def F.SLUICE_RT_D_DATA (i : Nat) : Fld := ⟨A.SLUICE_RT_D i, 31, 0⟩
def A.SLUICE_FIFO : Nat := 0x40210030
def F.SLUICE_FIFO_OWN : Fld := ⟨A.SLUICE_FIFO, 15, 0⟩
def A.SLUICE_OBJ_L (i : Nat) : Nat := 0x40210100 + i * 0x8
def F.SLUICE_OBJ_L_OWN (i : Nat) : Fld := ⟨A.SLUICE_OBJ_L i, 31, 0⟩
def A.SLUICE_OBJ_H (i : Nat) : Nat := 0x40210104 + i * 0x8
def F.SLUICE_OBJ_H_OWN (i : Nat) : Fld := ⟨A.SLUICE_OBJ_H i, 31, 0⟩
def A.SLUICE_FWD (i : Nat) : Nat := 0x40210200 + i * 0x8
def F.SLUICE_FWD_FWD (i : Nat) : Fld := ⟨A.SLUICE_FWD i, 31, 0⟩
def A.SLUICE_DROP (i : Nat) : Nat := 0x40210204 + i * 0x8
def F.SLUICE_DROP_ISO (i : Nat) : Fld := ⟨A.SLUICE_DROP i, 15, 0⟩
def F.SLUICE_DROP_OTHER (i : Nat) : Fld := ⟨A.SLUICE_DROP i, 31, 16⟩
def A.ETH_CFG (i : Nat) : Nat := 0x40060000 + i * 0x10000
def F.ETH_CFG_MODE (i : Nat) : Fld := ⟨A.ETH_CFG i, 1, 0⟩
def F.ETH_CFG_SPEED (i : Nat) : Fld := ⟨A.ETH_CFG i, 3, 2⟩
def F.ETH_CFG_INBAND (i : Nat) : Fld := ⟨A.ETH_CFG i, 4, 4⟩
def F.ETH_CFG_MAXLEN (i : Nat) : Fld := ⟨A.ETH_CFG i, 29, 16⟩
def A.ETH_STAT (i : Nat) : Nat := 0x40060004 + i * 0x10000
def F.ETH_STAT_LINK (i : Nat) : Fld := ⟨A.ETH_STAT i, 0, 0⟩
def F.ETH_STAT_LSPEED (i : Nat) : Fld := ⟨A.ETH_STAT i, 2, 1⟩
def F.ETH_STAT_HDX (i : Nat) : Fld := ⟨A.ETH_STAT i, 3, 3⟩
def F.ETH_STAT_DMAERR (i : Nat) : Fld := ⟨A.ETH_STAT i, 4, 4⟩
def A.ETH_EVT (i : Nat) : Nat := 0x40060008 + i * 0x10000
def F.ETH_EVT_EVT (i : Nat) : Fld := ⟨A.ETH_EVT i, 1, 0⟩
def A.ETH_MAC_L (i : Nat) : Nat := 0x40060010 + i * 0x10000
def F.ETH_MAC_L_ADDR (i : Nat) : Fld := ⟨A.ETH_MAC_L i, 31, 0⟩
def A.ETH_MAC_H (i : Nat) : Nat := 0x40060014 + i * 0x10000
def F.ETH_MAC_H_ADDR (i : Nat) : Fld := ⟨A.ETH_MAC_H i, 15, 0⟩
def A.ETH_VLAN (i : Nat) : Nat := 0x40060018 + i * 0x10000
def F.ETH_VLAN_VID (i : Nat) : Fld := ⟨A.ETH_VLAN i, 11, 0⟩
def F.ETH_VLAN_PCP (i : Nat) : Fld := ⟨A.ETH_VLAN i, 14, 12⟩
def F.ETH_VLAN_TAG (i : Nat) : Fld := ⟨A.ETH_VLAN i, 15, 15⟩
def F.ETH_VLAN_ACC (i : Nat) : Fld := ⟨A.ETH_VLAN i, 17, 16⟩
def A.ETH_RXCNT (i : Nat) : Nat := 0x40060020 + i * 0x10000
def F.ETH_RXCNT_ERR (i : Nat) : Fld := ⟨A.ETH_RXCNT i, 15, 0⟩
def F.ETH_RXCNT_OTHER (i : Nat) : Fld := ⟨A.ETH_RXCNT i, 31, 16⟩
def A.ETH_TXCNT (i : Nat) : Nat := 0x40060024 + i * 0x10000
def F.ETH_TXCNT_DROP (i : Nat) : Fld := ⟨A.ETH_TXCNT i, 15, 0⟩
def A.ETH_TSCORR (i : Nat) : Nat := 0x40060028 + i * 0x10000
def F.ETH_TSCORR_RX_NS (i : Nat) : Fld := ⟨A.ETH_TSCORR i, 15, 0⟩
def F.ETH_TSCORR_TX_NS (i : Nat) : Fld := ⟨A.ETH_TSCORR i, 31, 16⟩
def A.ETH_MDIO : Nat := 0x40060030
def F.ETH_MDIO_DATA : Fld := ⟨A.ETH_MDIO, 15, 0⟩
def F.ETH_MDIO_REG : Fld := ⟨A.ETH_MDIO, 20, 16⟩
def F.ETH_MDIO_PHY : Fld := ⟨A.ETH_MDIO, 25, 21⟩
def F.ETH_MDIO_OP : Fld := ⟨A.ETH_MDIO, 27, 26⟩
def F.ETH_MDIO_GO : Fld := ⟨A.ETH_MDIO, 28, 28⟩
def F.ETH_MDIO_DONE : Fld := ⟨A.ETH_MDIO, 29, 29⟩
def F.ETH_MDIO_DIV : Fld := ⟨A.ETH_MDIO, 31, 30⟩
def A.TIME_CTRL : Nat := 0x40080000
def F.TIME_CTRL_SRC : Fld := ⟨A.TIME_CTRL, 2, 0⟩
def F.TIME_CTRL_STEP_RUN : Fld := ⟨A.TIME_CTRL, 3, 3⟩
def F.TIME_CTRL_SLEW_PPM : Fld := ⟨A.TIME_CTRL, 24, 16⟩
def A.TIME_STAT : Nat := 0x40080004
def F.TIME_STAT_INUSE : Fld := ⟨A.TIME_STAT, 2, 0⟩
def F.TIME_STAT_VALID : Fld := ⟨A.TIME_STAT, 3, 3⟩
def F.TIME_STAT_LOCKED : Fld := ⟨A.TIME_STAT, 4, 4⟩
def F.TIME_STAT_HOLD : Fld := ⟨A.TIME_STAT, 5, 5⟩
def F.TIME_STAT_STEPREF : Fld := ⟨A.TIME_STAT, 6, 6⟩
def A.TIME_EVT : Nat := 0x40080008
def F.TIME_EVT_EVT : Fld := ⟨A.TIME_EVT, 4, 0⟩
def A.TIME_NOW_L : Nat := 0x40080010
def F.TIME_NOW_L_NS : Fld := ⟨A.TIME_NOW_L, 31, 0⟩
def A.TIME_NOW_H : Nat := 0x40080014
def F.TIME_NOW_H_NS : Fld := ⟨A.TIME_NOW_H, 31, 0⟩
def A.TIME_RATE : Nat := 0x40080018
def F.TIME_RATE_RATE : Fld := ⟨A.TIME_RATE, 31, 0⟩
def A.TIME_OFFS : Nat := 0x4008001c
def F.TIME_OFFS_OFFS : Fld := ⟨A.TIME_OFFS, 31, 0⟩
def A.TIME_STEP_L : Nat := 0x40080020
def F.TIME_STEP_L_NS : Fld := ⟨A.TIME_STEP_L, 31, 0⟩
def A.TIME_STEP_H : Nat := 0x40080024
def F.TIME_STEP_H_NS : Fld := ⟨A.TIME_STEP_H, 31, 0⟩
def A.TIME_LOCK : Nat := 0x40080028
def F.TIME_LOCK_NS : Fld := ⟨A.TIME_LOCK, 15, 0⟩
def F.TIME_LOCK_STEP_NS : Fld := ⟨A.TIME_LOCK, 31, 16⟩
def A.TIME_PTP : Nat := 0x4008002c
def F.TIME_PTP_DOMAIN : Fld := ⟨A.TIME_PTP, 7, 0⟩
def F.TIME_PTP_P2P : Fld := ⟨A.TIME_PTP, 8, 8⟩
def F.TIME_PTP_UDP : Fld := ⟨A.TIME_PTP, 9, 9⟩
def F.TIME_PTP_HOLD_MS : Fld := ⟨A.TIME_PTP, 31, 16⟩
def A.HSS_CTRL : Nat := 0x40300000
def F.HSS_CTRL_EN : Fld := ⟨A.HSS_CTRL, 0, 0⟩
def A.HSS_EVT : Nat := 0x40300004
def F.HSS_EVT_EVT : Fld := ⟨A.HSS_EVT, 0, 0⟩
def A.HSS_SWEEP : Nat := 0x40300008
def F.HSS_SWEEP_BUSY : Fld := ⟨A.HSS_SWEEP, 0, 0⟩
def A.HSS_SWEEP_OL_L : Nat := 0x4030000c
def F.HSS_SWEEP_OL_L_BITS : Fld := ⟨A.HSS_SWEEP_OL_L, 31, 0⟩
def A.HSS_SWEEP_OL_H : Nat := 0x40300010
def F.HSS_SWEEP_OL_H_BITS : Fld := ⟨A.HSS_SWEEP_OL_H, 15, 0⟩
def A.HSS_SWEEP_NT_L : Nat := 0x40300014
def F.HSS_SWEEP_NT_L_BITS : Fld := ⟨A.HSS_SWEEP_NT_L, 31, 0⟩
def A.HSS_SWEEP_NT_H : Nat := 0x40300018
def F.HSS_SWEEP_NT_H_BITS : Fld := ⟨A.HSS_SWEEP_NT_H, 15, 0⟩
def A.HSS_GRP_CFG (i : Nat) : Nat := 0x40300040 + i * 0x10
def F.HSS_GRP_CFG_PWM_HZ (i : Nat) : Fld := ⟨A.HSS_GRP_CFG i, 10, 0⟩
def A.HSS_GRP_STAT (i : Nat) : Nat := 0x40300044 + i * 0x10
def F.HSS_GRP_STAT_VSUP (i : Nat) : Fld := ⟨A.HSS_GRP_STAT i, 9, 0⟩
def F.HSS_GRP_STAT_UV (i : Nat) : Fld := ⟨A.HSS_GRP_STAT i, 10, 10⟩
def F.HSS_GRP_STAT_OV (i : Nat) : Fld := ⟨A.HSS_GRP_STAT i, 11, 11⟩
def F.HSS_GRP_STAT_REDUCED (i : Nat) : Fld := ⟨A.HSS_GRP_STAT i, 12, 12⟩
def F.HSS_GRP_STAT_EVT (i : Nat) : Fld := ⟨A.HSS_GRP_STAT i, 18, 16⟩
def A.HSS_GRP_CNT (i : Nat) : Nat := 0x40300048 + i * 0x10
def F.HSS_GRP_CNT_UVCNT (i : Nat) : Fld := ⟨A.HSS_GRP_CNT i, 15, 0⟩
def F.HSS_GRP_CNT_OVCNT (i : Nat) : Fld := ⟨A.HSS_GRP_CNT i, 31, 16⟩
def A.HSS_N_CFG (i : Nat) : Nat := 0x40300100 + i * 0x40
def F.HSS_N_CFG_ILIM (i : Nat) : Fld := ⟨A.HSS_N_CFG i, 1, 0⟩
def F.HSS_N_CFG_PAR (i : Nat) : Fld := ⟨A.HSS_N_CFG i, 2, 2⟩
def F.HSS_N_CFG_BLANK (i : Nat) : Fld := ⟨A.HSS_N_CFG i, 11, 4⟩
def F.HSS_N_CFG_OC_RETRY (i : Nat) : Fld := ⟨A.HSS_N_CFG i, 14, 12⟩
def F.HSS_N_CFG_OT_RETRY (i : Nat) : Fld := ⟨A.HSS_N_CFG i, 19, 16⟩
def F.HSS_N_CFG_RETRY_MS (i : Nat) : Fld := ⟨A.HSS_N_CFG i, 27, 20⟩
def F.HSS_N_CFG_LAMP_N (i : Nat) : Fld := ⟨A.HSS_N_CFG i, 31, 28⟩
def A.HSS_N_DCFG (i : Nat) : Nat := 0x40300104 + i * 0x40
def F.HSS_N_DCFG_OLMODE (i : Nat) : Fld := ⟨A.HSS_N_DCFG i, 1, 0⟩
def F.HSS_N_DCFG_RANGE (i : Nat) : Fld := ⟨A.HSS_N_DCFG i, 3, 2⟩
def F.HSS_N_DCFG_QOFF (i : Nat) : Fld := ⟨A.HSS_N_DCFG i, 7, 4⟩
def F.HSS_N_DCFG_PHASE (i : Nat) : Fld := ⟨A.HSS_N_DCFG i, 15, 8⟩
def F.HSS_N_DCFG_UC_MA (i : Nat) : Fld := ⟨A.HSS_N_DCFG i, 25, 16⟩
def F.HSS_N_DCFG_UC_N (i : Nat) : Fld := ⟨A.HSS_N_DCFG i, 29, 26⟩
def F.HSS_N_DCFG_ILK (i : Nat) : Fld := ⟨A.HSS_N_DCFG i, 30, 30⟩
def A.HSS_N_CMD (i : Nat) : Nat := 0x40300108 + i * 0x40
def F.HSS_N_CMD_DUTY (i : Nat) : Fld := ⟨A.HSS_N_CMD i, 15, 0⟩
def F.HSS_N_CMD_CLEAR (i : Nat) : Fld := ⟨A.HSS_N_CMD i, 16, 16⟩
def A.HSS_N_STAT (i : Nat) : Nat := 0x4030010c + i * 0x40
def F.HSS_N_STAT_STATE (i : Nat) : Fld := ⟨A.HSS_N_STAT i, 2, 0⟩
def F.HSS_N_STAT_OUT (i : Nat) : Fld := ⟨A.HSS_N_STAT i, 3, 3⟩
def F.HSS_N_STAT_LIMIT (i : Nat) : Fld := ⟨A.HSS_N_STAT i, 4, 4⟩
def F.HSS_N_STAT_OTW (i : Nat) : Fld := ⟨A.HSS_N_STAT i, 5, 5⟩
def F.HSS_N_STAT_GATED (i : Nat) : Fld := ⟨A.HSS_N_STAT i, 6, 6⟩
def F.HSS_N_STAT_OPEN_OFF (i : Nat) : Fld := ⟨A.HSS_N_STAT i, 7, 7⟩
def F.HSS_N_STAT_SHORT_SUP (i : Nat) : Fld := ⟨A.HSS_N_STAT i, 8, 8⟩
def F.HSS_N_STAT_UNDERCUR (i : Nat) : Fld := ⟨A.HSS_N_STAT i, 9, 9⟩
def F.HSS_N_STAT_OL_NT (i : Nat) : Fld := ⟨A.HSS_N_STAT i, 10, 10⟩
def F.HSS_N_STAT_PARERR (i : Nat) : Fld := ⟨A.HSS_N_STAT i, 11, 11⟩
def F.HSS_N_STAT_CAUSE (i : Nat) : Fld := ⟨A.HSS_N_STAT i, 13, 12⟩
def F.HSS_N_STAT_QRET (i : Nat) : Fld := ⟨A.HSS_N_STAT i, 19, 16⟩
def F.HSS_N_STAT_OCCNT (i : Nat) : Fld := ⟨A.HSS_N_STAT i, 22, 20⟩
def F.HSS_N_STAT_OTCNT (i : Nat) : Fld := ⟨A.HSS_N_STAT i, 27, 24⟩
def A.HSS_N_FLT (i : Nat) : Nat := 0x40300110 + i * 0x40
def F.HSS_N_FLT_EVT (i : Nat) : Fld := ⟨A.HSS_N_FLT i, 2, 0⟩
def F.HSS_N_FLT_TRIPS (i : Nat) : Fld := ⟨A.HSS_N_FLT i, 31, 16⟩
def A.HSS_N_MEAS (i : Nat) : Nat := 0x40300114 + i * 0x40
def F.HSS_N_MEAS_CODE (i : Nat) : Fld := ⟨A.HSS_N_MEAS i, 11, 0⟩
def F.HSS_N_MEAS_RANGE (i : Nat) : Fld := ⟨A.HSS_N_MEAS i, 12, 12⟩
def F.HSS_N_MEAS_STALE (i : Nat) : Fld := ⟨A.HSS_N_MEAS i, 13, 13⟩
def F.HSS_N_MEAS_NOSAMP (i : Nat) : Fld := ⟨A.HSS_N_MEAS i, 14, 14⟩
def F.HSS_N_MEAS_SAT (i : Nat) : Fld := ⟨A.HSS_N_MEAS i, 15, 15⟩
def F.HSS_N_MEAS_CURRENT (i : Nat) : Fld := ⟨A.HSS_N_MEAS i, 31, 16⟩
def A.HSS_N_TEMP (i : Nat) : Nat := 0x40300118 + i * 0x40
def F.HSS_N_TEMP_TJ (i : Nat) : Fld := ⟨A.HSS_N_TEMP i, 7, 0⟩
def F.HSS_N_TEMP_TJMAX (i : Nat) : Fld := ⟨A.HSS_N_TEMP i, 15, 8⟩
def A.SOL_CTRL : Nat := 0x40310000
def F.SOL_CTRL_EN : Fld := ⟨A.SOL_CTRL, 0, 0⟩
def F.SOL_CTRL_PERR : Fld := ⟨A.SOL_CTRL, 1, 1⟩
def A.SOL_EVT : Nat := 0x40310004
def F.SOL_EVT_EVT : Fld := ⟨A.SOL_EVT, 3, 0⟩
def A.SOL_SUP : Nat := 0x40310008
def F.SOL_SUP_VSOL : Fld := ⟨A.SOL_SUP, 9, 0⟩
def F.SOL_SUP_UV : Fld := ⟨A.SOL_SUP, 10, 10⟩
def A.SOL_N_CFG (i : Nat) : Nat := 0x40310100 + i * 0x40
def F.SOL_N_CFG_PROF_ON (i : Nat) : Fld := ⟨A.SOL_N_CFG i, 4, 0⟩
def F.SOL_N_CFG_PAR (i : Nat) : Fld := ⟨A.SOL_N_CFG i, 5, 5⟩
def F.SOL_N_CFG_LATEPOL (i : Nat) : Fld := ⟨A.SOL_N_CFG i, 7, 6⟩
def F.SOL_N_CFG_TOFF_MS (i : Nat) : Fld := ⟨A.SOL_N_CFG i, 15, 8⟩
def F.SOL_N_CFG_KACT (i : Nat) : Fld := ⟨A.SOL_N_CFG i, 16, 16⟩
def F.SOL_N_CFG_REL_CL (i : Nat) : Fld := ⟨A.SOL_N_CFG i, 18, 17⟩
def A.SOL_N_KCFG (i : Nat) : Nat := 0x40310104 + i * 0x40
def F.SOL_N_KCFG_KDIP (i : Nat) : Fld := ⟨A.SOL_N_KCFG i, 7, 0⟩
def F.SOL_N_KCFG_KVDROP (i : Nat) : Fld := ⟨A.SOL_N_KCFG i, 15, 8⟩
def F.SOL_N_KCFG_KFILT (i : Nat) : Fld := ⟨A.SOL_N_KCFG i, 18, 16⟩
def A.SOL_N_KWIN (i : Nat) : Nat := 0x40310108 + i * 0x40
def F.SOL_N_KWIN_KMIN (i : Nat) : Fld := ⟨A.SOL_N_KWIN i, 15, 0⟩
def F.SOL_N_KWIN_KMAX (i : Nat) : Fld := ⟨A.SOL_N_KWIN i, 31, 16⟩
def A.SOL_N_DUTY (i : Nat) : Nat := 0x4031010c + i * 0x40
def F.SOL_N_DUTY_DMAX_MS (i : Nat) : Fld := ⟨A.SOL_N_DUTY i, 15, 0⟩
def F.SOL_N_DUTY_DWIN_S (i : Nat) : Fld := ⟨A.SOL_N_DUTY i, 23, 16⟩
def A.SOL_N_TAT (i : Nat) : Nat := 0x40310110 + i * 0x40
def F.SOL_N_TAT_TOL_US (i : Nat) : Fld := ⟨A.SOL_N_TAT i, 15, 0⟩
def A.SOL_N_CTIME (i : Nat) : Nat := 0x40310114 + i * 0x40
def F.SOL_N_CTIME_TTIME (i : Nat) : Fld := ⟨A.SOL_N_CTIME i, 31, 0⟩
def A.SOL_N_CMD (i : Nat) : Nat := 0x40310118 + i * 0x40
def F.SOL_N_CMD_CODE (i : Nat) : Fld := ⟨A.SOL_N_CMD i, 7, 0⟩
def F.SOL_N_CMD_CLEAR (i : Nat) : Fld := ⟨A.SOL_N_CMD i, 8, 8⟩
def F.SOL_N_CMD_RELEASE (i : Nat) : Fld := ⟨A.SOL_N_CMD i, 9, 9⟩
def F.SOL_N_CMD_FLUSH (i : Nat) : Fld := ⟨A.SOL_N_CMD i, 10, 10⟩
def A.SOL_N_STAT (i : Nat) : Nat := 0x4031011c + i * 0x40
def F.SOL_N_STAT_STATE (i : Nat) : Fld := ⟨A.SOL_N_STAT i, 2, 0⟩
def F.SOL_N_STAT_PHASE (i : Nat) : Fld := ⟨A.SOL_N_STAT i, 5, 3⟩
def F.SOL_N_STAT_GATED (i : Nat) : Fld := ⟨A.SOL_N_STAT i, 6, 6⟩
def F.SOL_N_STAT_KINK_OK (i : Nat) : Fld := ⟨A.SOL_N_STAT i, 7, 7⟩
def F.SOL_N_STAT_KINK_FAIL (i : Nat) : Fld := ⟨A.SOL_N_STAT i, 8, 8⟩
def F.SOL_N_STAT_LATE (i : Nat) : Fld := ⟨A.SOL_N_STAT i, 9, 9⟩
def F.SOL_N_STAT_ARRLATE (i : Nat) : Fld := ⟨A.SOL_N_STAT i, 10, 10⟩
def F.SOL_N_STAT_DROPPED (i : Nat) : Fld := ⟨A.SOL_N_STAT i, 11, 11⟩
def F.SOL_N_STAT_HELDCMD (i : Nat) : Fld := ⟨A.SOL_N_STAT i, 12, 12⟩
def F.SOL_N_STAT_DUTYREF (i : Nat) : Fld := ⟨A.SOL_N_STAT i, 13, 13⟩
def F.SOL_N_STAT_OTW (i : Nat) : Fld := ⟨A.SOL_N_STAT i, 14, 14⟩
def F.SOL_N_STAT_UVOFF (i : Nat) : Fld := ⟨A.SOL_N_STAT i, 15, 15⟩
def F.SOL_N_STAT_CAUSE (i : Nat) : Fld := ⟨A.SOL_N_STAT i, 18, 16⟩
def F.SOL_N_STAT_QLEN (i : Nat) : Fld := ⟨A.SOL_N_STAT i, 21, 19⟩
def F.SOL_N_STAT_PROF (i : Nat) : Fld := ⟨A.SOL_N_STAT i, 26, 22⟩
def F.SOL_N_STAT_ILK (i : Nat) : Fld := ⟨A.SOL_N_STAT i, 27, 27⟩
def A.SOL_N_FLT (i : Nat) : Nat := 0x40310120 + i * 0x40
def F.SOL_N_FLT_EVT (i : Nat) : Fld := ⟨A.SOL_N_FLT i, 2, 0⟩
def F.SOL_N_FLT_FAULTS (i : Nat) : Fld := ⟨A.SOL_N_FLT i, 31, 16⟩
def A.SOL_N_KINK (i : Nat) : Nat := 0x40310124 + i * 0x40
def F.SOL_N_KINK_US (i : Nat) : Fld := ⟨A.SOL_N_KINK i, 31, 0⟩
def A.SOL_N_MEAS (i : Nat) : Nat := 0x40310128 + i * 0x40
def F.SOL_N_MEAS_CURRENT (i : Nat) : Fld := ⟨A.SOL_N_MEAS i, 15, 0⟩
def F.SOL_N_MEAS_VCOIL (i : Nat) : Fld := ⟨A.SOL_N_MEAS i, 31, 16⟩
def A.SOL_N_DUSE (i : Nat) : Nat := 0x4031012c + i * 0x40
def F.SOL_N_DUSE_USED_MS (i : Nat) : Fld := ⟨A.SOL_N_DUSE i, 15, 0⟩
def F.SOL_N_DUSE_TJ (i : Nat) : Fld := ⟨A.SOL_N_DUSE i, 23, 16⟩
def F.SOL_N_DUSE_TJMAX (i : Nat) : Fld := ⟨A.SOL_N_DUSE i, 31, 24⟩
def A.SOL_PROF_A (i j : Nat) : Nat := 0x40311000 + i * 0x40 + j * 0x8
def F.SOL_PROF_A_A (i j : Nat) : Fld := ⟨A.SOL_PROF_A i j, 31, 0⟩
def A.SOL_PROF_B (i j : Nat) : Nat := 0x40311004 + i * 0x40 + j * 0x8
def F.SOL_PROF_B_B (i j : Nat) : Fld := ⟨A.SOL_PROF_B i j, 31, 0⟩
def A.DIO_CTRL : Nat := 0x40320000
def F.DIO_CTRL_EN : Fld := ⟨A.DIO_CTRL, 0, 0⟩
def A.DIO_STAT : Nat := 0x40320004
def F.DIO_STAT_VDIO : Fld := ⟨A.DIO_STAT, 9, 0⟩
def F.DIO_STAT_UV : Fld := ⟨A.DIO_STAT, 10, 10⟩
def F.DIO_STAT_RED : Fld := ⟨A.DIO_STAT, 11, 11⟩
def A.DIO_EVT : Nat := 0x40320008
def F.DIO_EVT_EVT : Fld := ⟨A.DIO_EVT, 2, 0⟩
def A.DIO_EDGE_L : Nat := 0x4032000c
def F.DIO_EDGE_L_EVT : Fld := ⟨A.DIO_EDGE_L, 31, 0⟩
def A.DIO_EDGE_H : Nat := 0x40320010
def F.DIO_EDGE_H_EVT : Fld := ⟨A.DIO_EDGE_H, 31, 0⟩
def A.DIO_N_CFG (i : Nat) : Nat := 0x40320100 + i * 0x10
def F.DIO_N_CFG_MODE (i : Nat) : Fld := ⟨A.DIO_N_CFG i, 1, 0⟩
def F.DIO_N_CFG_FILT (i : Nat) : Fld := ⟨A.DIO_N_CFG i, 8, 2⟩
def F.DIO_N_CFG_EDGE (i : Nat) : Fld := ⟨A.DIO_N_CFG i, 10, 9⟩
def F.DIO_N_CFG_WB (i : Nat) : Fld := ⟨A.DIO_N_CFG i, 11, 11⟩
def F.DIO_N_CFG_WAKE (i : Nat) : Fld := ⟨A.DIO_N_CFG i, 12, 12⟩
def A.DIO_N_CMD (i : Nat) : Nat := 0x40320104 + i * 0x10
def F.DIO_N_CMD_OUT (i : Nat) : Fld := ⟨A.DIO_N_CMD i, 0, 0⟩
def F.DIO_N_CMD_CLEAR (i : Nat) : Fld := ⟨A.DIO_N_CMD i, 1, 1⟩
def A.DIO_N_STAT (i : Nat) : Nat := 0x40320108 + i * 0x10
def F.DIO_N_STAT_IN (i : Nat) : Fld := ⟨A.DIO_N_STAT i, 0, 0⟩
def F.DIO_N_STAT_RAW (i : Nat) : Fld := ⟨A.DIO_N_STAT i, 1, 1⟩
def F.DIO_N_STAT_OUT (i : Nat) : Fld := ⟨A.DIO_N_STAT i, 2, 2⟩
def F.DIO_N_STAT_WBRK (i : Nat) : Fld := ⟨A.DIO_N_STAT i, 3, 3⟩
def F.DIO_N_STAT_FB_ERR (i : Nat) : Fld := ⟨A.DIO_N_STAT i, 4, 4⟩
def F.DIO_N_STAT_FB_HIGH (i : Nat) : Fld := ⟨A.DIO_N_STAT i, 5, 5⟩
def F.DIO_N_STAT_STATE (i : Nat) : Fld := ⟨A.DIO_N_STAT i, 7, 6⟩
def F.DIO_N_STAT_CAUSE (i : Nat) : Fld := ⟨A.DIO_N_STAT i, 9, 8⟩
def F.DIO_N_STAT_UV (i : Nat) : Fld := ⟨A.DIO_N_STAT i, 10, 10⟩
def F.DIO_N_STAT_TRIPS (i : Nat) : Fld := ⟨A.DIO_N_STAT i, 31, 16⟩
def A.MEAS_CTRL : Nat := 0x40340000
def F.MEAS_CTRL_EN : Fld := ⟨A.MEAS_CTRL, 0, 0⟩
def A.MEAS_EVT : Nat := 0x40340004
def F.MEAS_EVT_EVT : Fld := ⟨A.MEAS_EVT, 29, 0⟩
def A.MEAS_TEMP : Nat := 0x40340008
def F.MEAS_TEMP_LOGIC : Fld := ⟨A.MEAS_TEMP, 15, 0⟩
def F.MEAS_TEMP_POWER : Fld := ⟨A.MEAS_TEMP, 31, 16⟩
def A.MEAS_NTC_CFG (i : Nat) : Nat := 0x40340100 + i * 0x10
def F.MEAS_NTC_CFG_R25 (i : Nat) : Fld := ⟨A.MEAS_NTC_CFG i, 15, 0⟩
def F.MEAS_NTC_CFG_B (i : Nat) : Fld := ⟨A.MEAS_NTC_CFG i, 31, 16⟩
def A.MEAS_NTC_VAL (i : Nat) : Nat := 0x40340104 + i * 0x10
def F.MEAS_NTC_VAL_TEMP (i : Nat) : Fld := ⟨A.MEAS_NTC_VAL i, 15, 0⟩
def F.MEAS_NTC_VAL_FLAGS (i : Nat) : Fld := ⟨A.MEAS_NTC_VAL i, 23, 16⟩
def A.MEAS_NTC_RES (i : Nat) : Nat := 0x40340108 + i * 0x10
def F.MEAS_NTC_RES_OHM (i : Nat) : Fld := ⟨A.MEAS_NTC_RES i, 31, 0⟩
def A.MEAS_SUP_WIN (i : Nat) : Nat := 0x40340200 + i * 0x10
def F.MEAS_SUP_WIN_LOW (i : Nat) : Fld := ⟨A.MEAS_SUP_WIN i, 15, 0⟩
def F.MEAS_SUP_WIN_HIGH (i : Nat) : Fld := ⟨A.MEAS_SUP_WIN i, 31, 16⟩
def A.MEAS_SUP_VAL (i : Nat) : Nat := 0x40340204 + i * 0x10
def F.MEAS_SUP_VAL_MV (i : Nat) : Fld := ⟨A.MEAS_SUP_VAL i, 15, 0⟩
def F.MEAS_SUP_VAL_FLAGS (i : Nat) : Fld := ⟨A.MEAS_SUP_VAL i, 23, 16⟩
def A.LED_CTRL : Nat := 0x40330000
def F.LED_CTRL_EN : Fld := ⟨A.LED_CTRL, 0, 0⟩
def F.LED_CTRL_FB_EN : Fld := ⟨A.LED_CTRL, 1, 1⟩
def F.LED_CTRL_PWM_HZ : Fld := ⟨A.LED_CTRL, 27, 16⟩
def A.LED_STAT : Nat := 0x40330004
def F.LED_STAT_FBCODE : Fld := ⟨A.LED_STAT, 6, 0⟩
def F.LED_STAT_HRLOW : Fld := ⟨A.LED_STAT, 7, 7⟩
def F.LED_STAT_OT : Fld := ⟨A.LED_STAT, 8, 8⟩
def F.LED_STAT_VLOW : Fld := ⟨A.LED_STAT, 9, 9⟩
def F.LED_STAT_GERR : Fld := ⟨A.LED_STAT, 10, 10⟩
def F.LED_STAT_CERR : Fld := ⟨A.LED_STAT, 14, 11⟩
def A.LED_HR : Nat := 0x40330008
def F.LED_HR_HR_MV : Fld := ⟨A.LED_HR, 9, 0⟩
def F.LED_HR_FB_MAX : Fld := ⟨A.LED_HR, 22, 16⟩
def A.LED_EVT_L : Nat := 0x4033000c
def F.LED_EVT_L_EVT : Fld := ⟨A.LED_EVT_L, 31, 0⟩
def A.LED_EVT_H : Nat := 0x40330010
def F.LED_EVT_H_EVT : Fld := ⟨A.LED_EVT_H, 11, 0⟩
def A.LED_CURVE_CFG (i : Nat) : Nat := 0x40330020 + i * 0x4
def F.LED_CURVE_CFG_SRC (i : Nat) : Fld := ⟨A.LED_CURVE_CFG i, 4, 0⟩
def F.LED_CURVE_CFG_NPTS (i : Nat) : Fld := ⟨A.LED_CURVE_CFG i, 11, 8⟩
def A.LED_CURVE_P (i j : Nat) : Nat := 0x40330040 + i * 0x20 + j * 0x4
def F.LED_CURVE_P_T (i j : Nat) : Fld := ⟨A.LED_CURVE_P i j, 15, 0⟩
def F.LED_CURVE_P_F (i j : Nat) : Fld := ⟨A.LED_CURVE_P i j, 31, 16⟩
def A.LED_GRP_MASK (i : Nat) : Nat := 0x40330100 + i * 0x8
def F.LED_GRP_MASK_MASK (i : Nat) : Fld := ⟨A.LED_GRP_MASK i, 31, 0⟩
def A.LED_GRP_CTRL (i : Nat) : Nat := 0x40330104 + i * 0x8
def F.LED_GRP_CTRL_EN (i : Nat) : Fld := ⟨A.LED_GRP_CTRL i, 0, 0⟩
def F.LED_GRP_CTRL_FAILED (i : Nat) : Fld := ⟨A.LED_GRP_CTRL i, 1, 1⟩
def F.LED_GRP_CTRL_CLEAR (i : Nat) : Fld := ⟨A.LED_GRP_CTRL i, 2, 2⟩
def F.LED_GRP_CTRL_FIRST (i : Nat) : Fld := ⟨A.LED_GRP_CTRL i, 12, 8⟩
def A.LED_N_CFG (i : Nat) : Nat := 0x40330200 + i * 0x10
def F.LED_N_CFG_PHASE (i : Nat) : Fld := ⟨A.LED_N_CFG i, 7, 0⟩
def F.LED_N_CFG_CURVE (i : Nat) : Fld := ⟨A.LED_N_CFG i, 10, 8⟩
def F.LED_N_CFG_SHORT_MV (i : Nat) : Fld := ⟨A.LED_N_CFG i, 23, 16⟩
def A.LED_N_CMD (i : Nat) : Nat := 0x40330204 + i * 0x10
def F.LED_N_CMD_CUR (i : Nat) : Fld := ⟨A.LED_N_CMD i, 15, 0⟩
def F.LED_N_CMD_DUTY (i : Nat) : Fld := ⟨A.LED_N_CMD i, 31, 16⟩
def A.LED_N_STAT (i : Nat) : Nat := 0x40330208 + i * 0x10
def F.LED_N_STAT_ON (i : Nat) : Fld := ⟨A.LED_N_STAT i, 0, 0⟩
def F.LED_N_STAT_BLANK (i : Nat) : Fld := ⟨A.LED_N_STAT i, 1, 1⟩
def F.LED_N_STAT_OPEN (i : Nat) : Fld := ⟨A.LED_N_STAT i, 2, 2⟩
def F.LED_N_STAT_SHORT (i : Nat) : Fld := ⟨A.LED_N_STAT i, 3, 3⟩
def F.LED_N_STAT_GOFF (i : Nat) : Fld := ⟨A.LED_N_STAT i, 4, 4⟩
def F.LED_N_STAT_COMP_SAT (i : Nat) : Fld := ⟨A.LED_N_STAT i, 5, 5⟩
def F.LED_N_STAT_DROPOUT (i : Nat) : Fld := ⟨A.LED_N_STAT i, 6, 6⟩
def F.LED_N_STAT_ECODE (i : Nat) : Fld := ⟨A.LED_N_STAT i, 27, 16⟩
def A.LED_N_VS (i : Nat) : Nat := 0x4033020c + i * 0x10
def F.LED_N_VS_MV (i : Nat) : Fld := ⟨A.LED_N_VS i, 15, 0⟩
def A.LED_LMX_CTRL : Nat := 0x40330400
def F.LED_LMX_CTRL_EN : Fld := ⟨A.LED_LMX_CTRL, 0, 0⟩
def F.LED_LMX_CTRL_ENERR : Fld := ⟨A.LED_LMX_CTRL, 1, 1⟩
def F.LED_LMX_CTRL_CLEAR : Fld := ⟨A.LED_LMX_CTRL, 2, 2⟩
def F.LED_LMX_CTRL_FAULT : Fld := ⟨A.LED_LMX_CTRL, 3, 3⟩
def F.LED_LMX_CTRL_LMX_HZ : Fld := ⟨A.LED_LMX_CTRL, 12, 4⟩
def F.LED_LMX_CTRL_PRE_US : Fld := ⟨A.LED_LMX_CTRL, 19, 16⟩
def F.LED_LMX_CTRL_PREV : Fld := ⟨A.LED_LMX_CTRL, 21, 20⟩
def A.LED_LMX_COL (i : Nat) : Nat := 0x40330440 + i * 0x4
def F.LED_LMX_COL_CUR (i : Nat) : Fld := ⟨A.LED_LMX_COL i, 12, 0⟩
def F.LED_LMX_COL_CURVE (i : Nat) : Fld := ⟨A.LED_LMX_COL i, 18, 16⟩
def A.LED_LMX_LVL (i j : Nat) : Nat := 0x40330500 + i * 0x10 + j * 0x4
def F.LED_LMX_LVL_LEVEL (i j : Nat) : Fld := ⟨A.LED_LMX_LVL i j, 31, 0⟩
def A.LED_LMX_OPEN (i : Nat) : Nat := 0x40330600 + i * 0x4
def F.LED_LMX_OPEN_OPEN (i : Nat) : Fld := ⟨A.LED_LMX_OPEN i, 15, 0⟩
def A.ACC_CTRL : Nat := 0x40350000
def F.ACC_CTRL_EN : Fld := ⟨A.ACC_CTRL, 0, 0⟩
def F.ACC_CTRL_KERR : Fld := ⟨A.ACC_CTRL, 1, 1⟩
def F.ACC_CTRL_KSLOT : Fld := ⟨A.ACC_CTRL, 7, 2⟩
def F.ACC_CTRL_SITE : Fld := ⟨A.ACC_CTRL, 19, 8⟩
def F.ACC_CTRL_FORCED_BLIND : Fld := ⟨A.ACC_CTRL, 20, 20⟩
def A.ACC_STAT : Nat := 0x40350004
def F.ACC_STAT_SESS : Fld := ⟨A.ACC_STAT, 0, 0⟩
def F.ACC_STAT_LASTEND : Fld := ⟨A.ACC_STAT, 3, 1⟩
def F.ACC_STAT_LOCKOUT : Fld := ⟨A.ACC_STAT, 4, 4⟩
def F.ACC_STAT_FDIST : Fld := ⟨A.ACC_STAT, 5, 5⟩
def F.ACC_STAT_CALREF : Fld := ⟨A.ACC_STAT, 6, 6⟩
def F.ACC_STAT_LO_S : Fld := ⟨A.ACC_STAT, 31, 16⟩
def A.ACC_EVT : Nat := 0x40350008
def F.ACC_EVT_EVT : Fld := ⟨A.ACC_EVT, 12, 0⟩
def A.ACC_SCAN : Nat := 0x4035000c
def F.ACC_SCAN_SCAN_MS : Fld := ⟨A.ACC_SCAN, 11, 0⟩
def F.ACC_SCAN_NSLOT : Fld := ⟨A.ACC_SCAN, 15, 12⟩
def F.ACC_SCAN_MEAS : Fld := ⟨A.ACC_SCAN, 23, 16⟩
def F.ACC_SCAN_IN_ANT : Fld := ⟨A.ACC_SCAN, 31, 24⟩
def A.ACC_CLS : Nat := 0x40350010
def F.ACC_CLS_DMAX : Fld := ⟨A.ACC_CLS, 9, 0⟩
def F.ACC_CLS_MARGIN : Fld := ⟨A.ACC_CLS, 23, 16⟩
def F.ACC_CLS_IN_FLOOR : Fld := ⟨A.ACC_CLS, 31, 24⟩
def A.ACC_IF : Nat := 0x40350014
def F.ACC_IF_AMB_MV : Fld := ⟨A.ACC_IF, 11, 0⟩
def F.ACC_IF_IPCT : Fld := ⟨A.ACC_IF, 18, 12⟩
def A.ACC_OCCCFG : Nat := 0x40350018
def F.ACC_OCCCFG_OUT_N : Fld := ⟨A.ACC_OCCCFG, 3, 0⟩
def F.ACC_OCCCFG_LOST_N : Fld := ⟨A.ACC_OCCCFG, 15, 8⟩
def A.ACC_LOCK : Nat := 0x4035001c
def F.ACC_LOCK_EN : Fld := ⟨A.ACC_LOCK, 0, 0⟩
def F.ACC_LOCK_KIND : Fld := ⟨A.ACC_LOCK, 1, 1⟩
def F.ACC_LOCK_CH : Fld := ⟨A.ACC_LOCK, 7, 2⟩
def F.ACC_LOCK_PROF : Fld := ⟨A.ACC_LOCK, 12, 8⟩
def F.ACC_LOCK_CERR : Fld := ⟨A.ACC_LOCK, 13, 13⟩
def A.ACC_DOOR : Nat := 0x40350020
def F.ACC_DOOR_DOOR_CH : Fld := ⟨A.ACC_DOOR, 5, 0⟩
def F.ACC_DOOR_DOOR_POL : Fld := ⟨A.ACC_DOOR, 6, 6⟩
def F.ACC_DOOR_DOOR_EN : Fld := ⟨A.ACC_DOOR, 7, 7⟩
def F.ACC_DOOR_KEY_CH : Fld := ⟨A.ACC_DOOR, 13, 8⟩
def F.ACC_DOOR_KEY_EN : Fld := ⟨A.ACC_DOOR, 14, 14⟩
def F.ACC_DOOR_SESS_S : Fld := ⟨A.ACC_DOOR, 23, 16⟩
def F.ACC_DOOR_ARM_S : Fld := ⟨A.ACC_DOOR, 31, 24⟩
def A.ACC_LOCKOUT : Nat := 0x40350024
def F.ACC_LOCKOUT_LO_MIN : Fld := ⟨A.ACC_LOCKOUT, 5, 0⟩
def F.ACC_LOCKOUT_FAILS : Fld := ⟨A.ACC_LOCKOUT, 31, 16⟩
def A.ACC_TP : Nat := 0x40350028
def F.ACC_TP_EN : Fld := ⟨A.ACC_TP, 0, 0⟩
def A.ACC_LAST : Nat := 0x4035002c
def F.ACC_LAST_SERIAL : Fld := ⟨A.ACC_LAST, 19, 0⟩
def F.ACC_LAST_ZONE : Fld := ⟨A.ACC_LAST, 21, 20⟩
def F.ACC_LAST_TPF : Fld := ⟨A.ACC_LAST, 22, 22⟩
def F.ACC_LAST_RSSI : Fld := ⟨A.ACC_LAST, 31, 24⟩
def A.ACC_TOK (i : Nat) : Nat := 0x40351000 + i * 0x4
def F.ACC_TOK_SERIAL (i : Nat) : Fld := ⟨A.ACC_TOK i, 19, 0⟩
def F.ACC_TOK_EN (i : Nat) : Fld := ⟨A.ACC_TOK i, 20, 20⟩
def F.ACC_TOK_LOCK (i : Nat) : Fld := ⟨A.ACC_TOK i, 21, 21⟩
def F.ACC_TOK_CAL (i : Nat) : Fld := ⟨A.ACC_TOK i, 22, 22⟩
def A.ACC_CAL_L (i j : Nat) : Nat := 0x40352000 + i * 0x80 + j * 0x8
def F.ACC_CAL_L_M (i j : Nat) : Fld := ⟨A.ACC_CAL_L i j, 31, 0⟩
def A.ACC_CAL_H (i j : Nat) : Nat := 0x40352004 + i * 0x80 + j * 0x8
def F.ACC_CAL_H_M (i j : Nat) : Fld := ⟨A.ACC_CAL_H i j, 31, 0⟩
def A.ACC_GATE : Nat := 0x40358000
def F.ACC_GATE_CLOSED : Fld := ⟨A.ACC_GATE, 0, 0⟩
def F.ACC_GATE_STARTUP : Fld := ⟨A.ACC_GATE, 1, 1⟩
def F.ACC_GATE_OVF : Fld := ⟨A.ACC_GATE, 2, 2⟩
def F.ACC_GATE_ANTF : Fld := ⟨A.ACC_GATE, 3, 3⟩
def F.ACC_GATE_OVR : Fld := ⟨A.ACC_GATE, 5, 4⟩
def F.ACC_GATE_OCC : Fld := ⟨A.ACC_GATE, 12, 8⟩
def A.ACC_ILK_HSS_L : Nat := 0x40358004
def F.ACC_ILK_HSS_L_ILK : Fld := ⟨A.ACC_ILK_HSS_L, 31, 0⟩
def A.ACC_ILK_HSS_H : Nat := 0x40358008
def F.ACC_ILK_HSS_H_ILK : Fld := ⟨A.ACC_ILK_HSS_H, 15, 0⟩
def A.ACC_ILK_SOL : Nat := 0x4035800c
def F.ACC_ILK_SOL_ILK : Fld := ⟨A.ACC_ILK_SOL, 11, 0⟩
def A.ACC_OCC (i : Nat) : Nat := 0x40358100 + i * 0x4
def F.ACC_OCC_SERIAL (i : Nat) : Fld := ⟨A.ACC_OCC i, 19, 0⟩
def F.ACC_OCC_STATE (i : Nat) : Fld := ⟨A.ACC_OCC i, 21, 20⟩
def F.ACC_OCC_OUTCNT (i : Nat) : Fld := ⟨A.ACC_OCC i, 27, 24⟩
def F.ACC_OCC_MISS4 (i : Nat) : Fld := ⟨A.ACC_OCC i, 31, 28⟩
def A.ACC_OCCX (i : Nat) : Nat := 0x40358140 + i * 0x4
def F.ACC_OCCX_MISS (i : Nat) : Fld := ⟨A.ACC_OCCX i, 7, 0⟩
def A.ACC_ANT_CFG (i : Nat) : Nat := 0x40358200 + i * 0x10
def F.ACC_ANT_CFG_IPK (i : Nat) : Fld := ⟨A.ACC_ANT_CFG i, 10, 0⟩
def A.ACC_ANT_STAT (i : Nat) : Nat := 0x40358204 + i * 0x10
def F.ACC_ANT_STAT_IMEAS (i : Nat) : Fld := ⟨A.ACC_ANT_STAT i, 10, 0⟩
def F.ACC_ANT_STAT_OPEN (i : Nat) : Fld := ⟨A.ACC_ANT_STAT i, 11, 11⟩
def F.ACC_ANT_STAT_SHORT (i : Nat) : Fld := ⟨A.ACC_ANT_STAT i, 12, 12⟩
def F.ACC_ANT_STAT_AMB (i : Nat) : Fld := ⟨A.ACC_ANT_STAT i, 27, 16⟩
def A.ENCL_STAT : Nat := 0x40400000
def F.ENCL_STAT_READY : Fld := ⟨A.ENCL_STAT, 0, 0⟩
def F.ENCL_STAT_MRLOCK : Fld := ⟨A.ENCL_STAT, 1, 1⟩
def F.ENCL_STAT_DBG : Fld := ⟨A.ENCL_STAT, 2, 2⟩
def F.ENCL_STAT_TRNG : Fld := ⟨A.ENCL_STAT, 3, 3⟩
def F.ENCL_STAT_SVN : Fld := ⟨A.ENCL_STAT, 31, 16⟩
def A.ENCL_EVT : Nat := 0x40400004
def F.ENCL_EVT_EVT : Fld := ⟨A.ENCL_EVT, 7, 0⟩
def A.ENCL_TAMPER : Nat := 0x40400008
def F.ENCL_TAMPER_CAUSE : Fld := ⟨A.ENCL_TAMPER, 4, 0⟩
def A.ENCL_SLOTS_L : Nat := 0x40400010
def F.ENCL_SLOTS_L_USED : Fld := ⟨A.ENCL_SLOTS_L, 31, 0⟩
def A.ENCL_SLOTS_H : Nat := 0x40400014
def F.ENCL_SLOTS_H_USED : Fld := ⟨A.ENCL_SLOTS_H, 31, 0⟩
def A.ENCL_MR (i j : Nat) : Nat := 0x40400100 + i * 0x30 + j * 0x4
def F.ENCL_MR_MR (i j : Nat) : Fld := ⟨A.ENCL_MR i j, 31, 0⟩
def A.MB_CMD (i : Nat) : Nat := 0x40401000 + i * 0x1000
def F.MB_CMD_OP (i : Nat) : Fld := ⟨A.MB_CMD i, 7, 0⟩
def F.MB_CMD_SLOT (i : Nat) : Fld := ⟨A.MB_CMD i, 13, 8⟩
def F.MB_CMD_AUTO (i : Nat) : Fld := ⟨A.MB_CMD i, 14, 14⟩
def F.MB_CMD_LEN (i : Nat) : Fld := ⟨A.MB_CMD i, 26, 16⟩
def A.MB_ARG (i : Nat) : Nat := 0x40401004 + i * 0x1000
def F.MB_ARG_ARG (i : Nat) : Fld := ⟨A.MB_ARG i, 31, 0⟩
def A.MB_STAT (i : Nat) : Nat := 0x40401008 + i * 0x1000
def F.MB_STAT_BUSY (i : Nat) : Fld := ⟨A.MB_STAT i, 0, 0⟩
def F.MB_STAT_DONE (i : Nat) : Fld := ⟨A.MB_STAT i, 1, 1⟩
def F.MB_STAT_SLOT (i : Nat) : Fld := ⟨A.MB_STAT i, 7, 2⟩
def F.MB_STAT_CODE (i : Nat) : Fld := ⟨A.MB_STAT i, 15, 8⟩
def F.MB_STAT_RLEN (i : Nat) : Fld := ⟨A.MB_STAT i, 26, 16⟩
def A.MB_BUF (i j : Nat) : Nat := 0x40401400 + i * 0x1000 + j * 0x4
def F.MB_BUF_DATA (i j : Nat) : Fld := ⟨A.MB_BUF i j, 31, 0⟩
def A.MB_BUFX (i j : Nat) : Nat := 0x40401800 + i * 0x1000 + j * 0x4
def F.MB_BUFX_DATA (i j : Nat) : Fld := ⟨A.MB_BUFX i j, 31, 0⟩
def A.CRUST_STAT : Nat := 0x40410000
def F.CRUST_STAT_STATE : Fld := ⟨A.CRUST_STAT, 2, 0⟩
def F.CRUST_STAT_PFW : Fld := ⟨A.CRUST_STAT, 3, 3⟩
def F.CRUST_STAT_FREE : Fld := ⟨A.CRUST_STAT, 7, 4⟩
def F.CRUST_STAT_QUEUED : Fld := ⟨A.CRUST_STAT, 15, 8⟩
def F.CRUST_STAT_RESULT : Fld := ⟨A.CRUST_STAT, 23, 16⟩
def A.CRUST_EVT : Nat := 0x40410004
def F.CRUST_EVT_EVT : Fld := ⟨A.CRUST_EVT, 5, 0⟩
def A.CRUST_WEAR : Nat := 0x40410008
def F.CRUST_WEAR_MAXE : Fld := ⟨A.CRUST_WEAR, 15, 0⟩
def F.CRUST_WEAR_MINE : Fld := ⟨A.CRUST_WEAR, 31, 16⟩
def A.CRUST_SEQ : Nat := 0x4041000c
def F.CRUST_SEQ_SEQ : Fld := ⟨A.CRUST_SEQ, 31, 0⟩
def A.CRUST_LOGNEW : Nat := 0x40410010
def F.CRUST_LOGNEW_LSEQ : Fld := ⟨A.CRUST_LOGNEW, 31, 0⟩
def A.CRUST_LOGOLD : Nat := 0x40410014
def F.CRUST_LOGOLD_LSEQ : Fld := ⟨A.CRUST_LOGOLD, 31, 0⟩
def A.CRUST_ERR : Nat := 0x40410018
def F.CRUST_ERR_RECERR : Fld := ⟨A.CRUST_ERR, 10, 0⟩
def F.CRUST_ERR_PROGERR : Fld := ⟨A.CRUST_ERR, 21, 11⟩
def F.CRUST_ERR_LOGDROP : Fld := ⟨A.CRUST_ERR, 31, 22⟩
def A.CRUST_RDREQ : Nat := 0x40410020
def F.CRUST_RDREQ_KEY : Fld := ⟨A.CRUST_RDREQ, 9, 0⟩
def F.CRUST_RDREQ_KIND : Fld := ⟨A.CRUST_RDREQ, 10, 10⟩
def F.CRUST_RDREQ_DONE : Fld := ⟨A.CRUST_RDREQ, 30, 30⟩
def F.CRUST_RDREQ_GO : Fld := ⟨A.CRUST_RDREQ, 31, 31⟩
def A.CRUST_RDBUF (i : Nat) : Nat := 0x40410040 + i * 0x4
def F.CRUST_RDBUF_DATA (i : Nat) : Fld := ⟨A.CRUST_RDBUF i, 31, 0⟩
def A.CRUST_WPORT (i : Nat) : Nat := 0x40410100 + i * 0x4
def F.CRUST_WPORT_DATA (i : Nat) : Fld := ⟨A.CRUST_WPORT i, 31, 0⟩
def A.CRUST_WPORT_W16 : Nat := 0x40410140
def F.CRUST_WPORT_W16_DATA : Fld := ⟨A.CRUST_WPORT_W16, 31, 0⟩
def A.UPD_CTRL : Nat := 0x40420000
def F.UPD_CTRL_AUTOCONF : Fld := ⟨A.UPD_CTRL, 0, 0⟩
def F.UPD_CTRL_CONF_S : Fld := ⟨A.UPD_CTRL, 31, 16⟩
def A.UPD_STAT : Nat := 0x40420004
def F.UPD_STAT_BANK : Fld := ⟨A.UPD_STAT, 0, 0⟩
def F.UPD_STAT_TRIAL : Fld := ⟨A.UPD_STAT, 1, 1⟩
def F.UPD_STAT_HEALTHY : Fld := ⟨A.UPD_STAT, 2, 2⟩
def F.UPD_STAT_BUSY : Fld := ⟨A.UPD_STAT, 3, 3⟩
def F.UPD_STAT_APPLIED : Fld := ⟨A.UPD_STAT, 9, 4⟩
def F.UPD_STAT_FLOOR : Fld := ⟨A.UPD_STAT, 31, 16⟩
def A.UPD_EVT : Nat := 0x40420008
def F.UPD_EVT_EVT : Fld := ⟨A.UPD_EVT, 9, 0⟩
def A.UPD_BANK (i : Nat) : Nat := 0x40420010 + i * 0x4
def F.UPD_BANK_STATE (i : Nat) : Fld := ⟨A.UPD_BANK i, 3, 0⟩
def F.UPD_BANK_TRIES (i : Nat) : Fld := ⟨A.UPD_BANK i, 5, 4⟩
def F.UPD_BANK_SVN (i : Nat) : Fld := ⟨A.UPD_BANK i, 31, 16⟩
def A.UPD_CAUSE (i : Nat) : Nat := 0x40420018 + i * 0x4
def F.UPD_CAUSE_CAUSE (i : Nat) : Fld := ⟨A.UPD_CAUSE i, 15, 0⟩
def F.UPD_CAUSE_COMP (i : Nat) : Fld := ⟨A.UPD_CAUSE i, 18, 16⟩
def A.UPD_UNFIT : Nat := 0x40420020
def F.UPD_UNFIT_SCHEMA : Fld := ⟨A.UPD_UNFIT, 15, 0⟩
def F.UPD_UNFIT_COMP : Fld := ⟨A.UPD_UNFIT, 18, 16⟩
def F.UPD_UNFIT_MIGR : Fld := ⟨A.UPD_UNFIT, 19, 19⟩
def F.UPD_UNFIT_GO : Fld := ⟨A.UPD_UNFIT, 31, 31⟩
def A.USBS_CTRL : Nat := 0x40430000
def F.USBS_CTRL_EN : Fld := ⟨A.USBS_CTRL, 0, 0⟩
def F.USBS_CTRL_CONSOLE : Fld := ⟨A.USBS_CTRL, 1, 1⟩
def A.USBS_STAT : Nat := 0x40430004
def F.USBS_STAT_VBUS : Fld := ⟨A.USBS_STAT, 0, 0⟩
def F.USBS_STAT_ATTACHED : Fld := ⟨A.USBS_STAT, 1, 1⟩
def F.USBS_STAT_HS : Fld := ⟨A.USBS_STAT, 2, 2⟩
def F.USBS_STAT_CONFIGURED : Fld := ⟨A.USBS_STAT, 3, 3⟩
def F.USBS_STAT_SUSPENDED : Fld := ⟨A.USBS_STAT, 4, 4⟩
def A.SYSCTL_PWR_STAT : Nat := 0x40000200
def F.SYSCTL_PWR_STAT_EN : Fld := ⟨A.SYSCTL_PWR_STAT, 3, 0⟩
def F.SYSCTL_PWR_STAT_PG : Fld := ⟨A.SYSCTL_PWR_STAT, 4, 4⟩
def F.SYSCTL_PWR_STAT_RAILS : Fld := ⟨A.SYSCTL_PWR_STAT, 8, 5⟩
def F.SYSCTL_PWR_STAT_PFW : Fld := ⟨A.SYSCTL_PWR_STAT, 9, 9⟩
def F.SYSCTL_PWR_STAT_PGLOST : Fld := ⟨A.SYSCTL_PWR_STAT, 10, 10⟩
def F.SYSCTL_PWR_STAT_SEQFAIL : Fld := ⟨A.SYSCTL_PWR_STAT, 11, 11⟩
def F.SYSCTL_PWR_STAT_STEP : Fld := ⟨A.SYSCTL_PWR_STAT, 14, 12⟩
def A.SYSCTL_PWR_SEQ : Nat := 0x40000204
def F.SYSCTL_PWR_SEQ_EN3 : Fld := ⟨A.SYSCTL_PWR_SEQ, 0, 0⟩
def A.SYSCTL_PWR_EVT : Nat := 0x40000208
def F.SYSCTL_PWR_EVT_EVT : Fld := ⟨A.SYSCTL_PWR_EVT, 7, 0⟩
def A.SYSCTL_PD_STAT_L : Nat := 0x40000210
def F.SYSCTL_PD_STAT_L_ON : Fld := ⟨A.SYSCTL_PD_STAT_L, 31, 0⟩
def A.SYSCTL_PD_STAT_H : Nat := 0x40000214
def F.SYSCTL_PD_STAT_H_ON : Fld := ⟨A.SYSCTL_PD_STAT_H, 1, 0⟩
def F.SYSCTL_PD_STAT_H_PDERR : Fld := ⟨A.SYSCTL_PD_STAT_H, 2, 2⟩
def A.SYSCTL_PD_OFF_L : Nat := 0x40000218
def F.SYSCTL_PD_OFF_L_OFF : Fld := ⟨A.SYSCTL_PD_OFF_L, 31, 0⟩
def A.SYSCTL_PD_OFF_H : Nat := 0x4000021c
def A.SYSCTL_PARK_CFG : Nat := 0x40000220
def F.SYSCTL_PARK_CFG_MODE : Fld := ⟨A.SYSCTL_PARK_CFG, 0, 0⟩
def F.SYSCTL_PARK_CFG_DIO_MS : Fld := ⟨A.SYSCTL_PARK_CFG, 15, 8⟩
def A.SYSCTL_PARK_CMD : Nat := 0x40000224
def F.SYSCTL_PARK_CMD_GO : Fld := ⟨A.SYSCTL_PARK_CMD, 0, 0⟩
def A.SYSCTL_PARK_STAT : Nat := 0x40000228
def F.SYSCTL_PARK_STAT_STATE : Fld := ⟨A.SYSCTL_PARK_STAT, 2, 0⟩
def F.SYSCTL_PARK_STAT_ERR : Fld := ⟨A.SYSCTL_PARK_STAT, 6, 3⟩
def F.SYSCTL_PARK_STAT_ABORTED : Fld := ⟨A.SYSCTL_PARK_STAT, 7, 7⟩
def A.SYSCTL_PARK_SEL : Nat := 0x4000022c
def F.SYSCTL_PARK_SEL_CH : Fld := ⟨A.SYSCTL_PARK_SEL, 15, 0⟩
def A.SYSCTL_PARK_CANIGN : Nat := 0x40000230
def F.SYSCTL_PARK_CANIGN_CH : Fld := ⟨A.SYSCTL_PARK_CANIGN, 15, 0⟩
def A.SYSCTL_WAKE_CFG (i : Nat) : Nat := 0x40000240 + i * 0x4
def F.SYSCTL_WAKE_CFG_EN (i : Nat) : Fld := ⟨A.SYSCTL_WAKE_CFG i, 0, 0⟩
def F.SYSCTL_WAKE_CFG_KIND (i : Nat) : Fld := ⟨A.SYSCTL_WAKE_CFG i, 2, 1⟩
def F.SYSCTL_WAKE_CFG_FILT_MS (i : Nat) : Fld := ⟨A.SYSCTL_WAKE_CFG i, 15, 8⟩
def F.SYSCTL_WAKE_CFG_CANMASK (i : Nat) : Fld := ⟨A.SYSCTL_WAKE_CFG i, 31, 16⟩
def A.SYSCTL_WAKEREC : Nat := 0x40000250
def F.SYSCTL_WAKEREC_VALID : Fld := ⟨A.SYSCTL_WAKEREC, 0, 0⟩
def F.SYSCTL_WAKEREC_SRC : Fld := ⟨A.SYSCTL_WAKEREC, 3, 1⟩
def F.SYSCTL_WAKEREC_ENTRY : Fld := ⟨A.SYSCTL_WAKEREC, 4, 4⟩
def F.SYSCTL_WAKEREC_DETAIL : Fld := ⟨A.SYSCTL_WAKEREC, 15, 8⟩
def F.SYSCTL_WAKEREC_CANMASK : Fld := ⟨A.SYSCTL_WAKEREC, 31, 16⟩
def A.SYSCTL_WAKETIME : Nat := 0x40000254
def F.SYSCTL_WAKETIME_SEC : Fld := ⟨A.SYSCTL_WAKETIME, 31, 0⟩
def A.SYSCTL_ALM_TIME (i : Nat) : Nat := 0x40000260 + i * 0x8
def F.SYSCTL_ALM_TIME_TIME (i : Nat) : Fld := ⟨A.SYSCTL_ALM_TIME i, 31, 0⟩
def A.SYSCTL_ALM_CTRL (i : Nat) : Nat := 0x40000264 + i * 0x8
def F.SYSCTL_ALM_CTRL_EN (i : Nat) : Fld := ⟨A.SYSCTL_ALM_CTRL i, 0, 0⟩
def F.SYSCTL_ALM_CTRL_POLICY (i : Nat) : Fld := ⟨A.SYSCTL_ALM_CTRL i, 1, 1⟩
def F.SYSCTL_ALM_CTRL_TOL_S (i : Nat) : Fld := ⟨A.SYSCTL_ALM_CTRL i, 15, 8⟩
def F.SYSCTL_ALM_CTRL_FIRED (i : Nat) : Fld := ⟨A.SYSCTL_ALM_CTRL i, 16, 16⟩
def F.SYSCTL_ALM_CTRL_LATE (i : Nat) : Fld := ⟨A.SYSCTL_ALM_CTRL i, 17, 17⟩
def F.SYSCTL_ALM_CTRL_ARRLATE (i : Nat) : Fld := ⟨A.SYSCTL_ALM_CTRL i, 18, 18⟩
def F.SYSCTL_ALM_CTRL_DROPPED (i : Nat) : Fld := ⟨A.SYSCTL_ALM_CTRL i, 19, 19⟩
def A.SYSCTL_PFW_CFG : Nat := 0x40000280
def F.SYSCTL_PFW_CFG_VPFW : Fld := ⟨A.SYSCTL_PFW_CFG, 4, 0⟩
def A.SYSCTL_THERM : Nat := 0x40000284
def F.SYSCTL_THERM_TWARN : Fld := ⟨A.SYSCTL_THERM, 7, 0⟩
def F.SYSCTL_THERM_TMAX : Fld := ⟨A.SYSCTL_THERM, 23, 16⟩
def A.SYSCTL_RSTCAUSE : Nat := 0x40000010
def F.SYSCTL_RSTCAUSE_CAUSE : Fld := ⟨A.SYSCTL_RSTCAUSE, 15, 0⟩
def A.SYSCTL_RSTLAST : Nat := 0x40000014
def F.SYSCTL_RSTLAST_LEVEL : Fld := ⟨A.SYSCTL_RSTLAST, 1, 0⟩
def F.SYSCTL_RSTLAST_SRC : Fld := ⟨A.SYSCTL_RSTLAST, 7, 4⟩
def F.SYSCTL_RSTLAST_STORM : Fld := ⟨A.SYSCTL_RSTLAST, 8, 8⟩
def F.SYSCTL_RSTLAST_NWIN : Fld := ⟨A.SYSCTL_RSTLAST, 15, 12⟩
def F.SYSCTL_RSTLAST_RESTARTS : Fld := ⟨A.SYSCTL_RSTLAST, 23, 16⟩
def A.SYSCTL_RSTLVL : Nat := 0x40000018
def F.SYSCTL_RSTLVL_LVL : Fld := ⟨A.SYSCTL_RSTLVL, 31, 0⟩
def A.SYSCTL_RSTCFG : Nat := 0x4000001c
def F.SYSCTL_RSTCFG_FILT : Fld := ⟨A.SYSCTL_RSTCFG, 5, 0⟩
def F.SYSCTL_RSTCFG_OUT_L2 : Fld := ⟨A.SYSCTL_RSTCFG, 6, 6⟩
def A.SYSCTL_SWRST : Nat := 0x40000020
def F.SYSCTL_SWRST_LEVEL : Fld := ⟨A.SYSCTL_SWRST, 1, 0⟩
def F.SYSCTL_SWRST_ISLAND : Fld := ⟨A.SYSCTL_SWRST, 6, 4⟩
def F.SYSCTL_SWRST_KEY : Fld := ⟨A.SYSCTL_SWRST, 31, 16⟩
def A.SYSCTL_STRAP : Nat := 0x40000024
def F.SYSCTL_STRAP_BOOT_SEL : Fld := ⟨A.SYSCTL_STRAP, 1, 0⟩
def F.SYSCTL_STRAP_CLK_MODE : Fld := ⟨A.SYSCTL_STRAP, 3, 2⟩
def F.SYSCTL_STRAP_DEBUG_HOLD : Fld := ⟨A.SYSCTL_STRAP, 4, 4⟩
def F.SYSCTL_STRAP_TEST_EN : Fld := ⟨A.SYSCTL_STRAP, 5, 5⟩
def F.SYSCTL_STRAP_ERR : Fld := ⟨A.SYSCTL_STRAP, 6, 6⟩
def A.SYSCTL_BOOTSTAT : Nat := 0x40000028
def F.SYSCTL_BOOTSTAT_BANK : Fld := ⟨A.SYSCTL_BOOTSTAT, 0, 0⟩
def F.SYSCTL_BOOTSTAT_MODE : Fld := ⟨A.SYSCTL_BOOTSTAT, 2, 1⟩
def F.SYSCTL_BOOTSTAT_OPTSRC : Fld := ⟨A.SYSCTL_BOOTSTAT, 4, 3⟩
def F.SYSCTL_BOOTSTAT_OPTBAD : Fld := ⟨A.SYSCTL_BOOTSTAT, 5, 5⟩
def F.SYSCTL_BOOTSTAT_GEN : Fld := ⟨A.SYSCTL_BOOTSTAT, 31, 16⟩
def A.SYSCTL_CLKCFG : Nat := 0x40000040
def F.SYSCTL_CLKCFG_BRLREF : Fld := ⟨A.SYSCTL_CLKCFG, 0, 0⟩
def A.SYSCTL_CLKSTAT : Nat := 0x40000044
def F.SYSCTL_CLKSTAT_REFSRC : Fld := ⟨A.SYSCTL_CLKSTAT, 1, 0⟩
def F.SYSCTL_CLKSTAT_RPLL : Fld := ⟨A.SYSCTL_CLKSTAT, 2, 2⟩
def F.SYSCTL_CLKSTAT_CORE : Fld := ⟨A.SYSCTL_CLKSTAT, 3, 3⟩
def F.SYSCTL_CLKSTAT_SYS : Fld := ⟨A.SYSCTL_CLKSTAT, 4, 4⟩
def F.SYSCTL_CLKSTAT_SERDES : Fld := ⟨A.SYSCTL_CLKSTAT, 5, 5⟩
def F.SYSCTL_CLKSTAT_USB : Fld := ⟨A.SYSCTL_CLKSTAT, 6, 6⟩
def F.SYSCTL_CLKSTAT_RTCOK : Fld := ⟨A.SYSCTL_CLKSTAT, 7, 7⟩
def F.SYSCTL_CLKSTAT_REFLOST : Fld := ⟨A.SYSCTL_CLKSTAT, 8, 8⟩
def A.SYSCTL_RTC_SEC : Nat := 0x40000050
def F.SYSCTL_RTC_SEC_SEC : Fld := ⟨A.SYSCTL_RTC_SEC, 31, 0⟩
def A.SYSCTL_RTC_SUB : Nat := 0x40000054
def F.SYSCTL_RTC_SUB_SUB : Fld := ⟨A.SYSCTL_RTC_SUB, 14, 0⟩
def A.SYSCTL_RTC_CTRL : Nat := 0x40000058
def F.SYSCTL_RTC_CTRL_SYNC : Fld := ⟨A.SYSCTL_RTC_CTRL, 0, 0⟩
def F.SYSCTL_RTC_CTRL_VALID : Fld := ⟨A.SYSCTL_RTC_CTRL, 1, 1⟩
def F.SYSCTL_RTC_CTRL_LOST : Fld := ⟨A.SYSCTL_RTC_CTRL, 2, 2⟩
def A.SYSCTL_WDT_CFG (i : Nat) : Nat := 0x40000060 + i * 0x8
def F.SYSCTL_WDT_CFG_PERIOD_MS (i : Nat) : Fld := ⟨A.SYSCTL_WDT_CFG i, 15, 0⟩
def F.SYSCTL_WDT_CFG_RUN (i : Nat) : Fld := ⟨A.SYSCTL_WDT_CFG i, 16, 16⟩
def F.SYSCTL_WDT_CFG_WARN (i : Nat) : Fld := ⟨A.SYSCTL_WDT_CFG i, 17, 17⟩
def A.SYSCTL_WDT_KICK (i : Nat) : Nat := 0x40000064 + i * 0x8
def F.SYSCTL_WDT_KICK_KEY (i : Nat) : Fld := ⟨A.SYSCTL_WDT_KICK i, 31, 0⟩
def A.SYSCTL_EVT : Nat := 0x40000080
def F.SYSCTL_EVT_EVT : Fld := ⟨A.SYSCTL_EVT, 8, 0⟩
def A.SYSCTL_OPT (i : Nat) : Nat := 0x40000100 + i * 0x4
def F.SYSCTL_OPT_DATA (i : Nat) : Fld := ⟨A.SYSCTL_OPT i, 31, 0⟩
def A.SYSCTL_OPT_WBUF (i : Nat) : Nat := 0x40000300 + i * 0x4
def F.SYSCTL_OPT_WBUF_DATA (i : Nat) : Fld := ⟨A.SYSCTL_OPT_WBUF i, 31, 0⟩
def A.SYSCTL_OPT_CMD : Nat := 0x40000400
def F.SYSCTL_OPT_CMD_WRITE : Fld := ⟨A.SYSCTL_OPT_CMD, 0, 0⟩
def F.SYSCTL_OPT_CMD_BUSY : Fld := ⟨A.SYSCTL_OPT_CMD, 1, 1⟩
def F.SYSCTL_OPT_CMD_RESULT : Fld := ⟨A.SYSCTL_OPT_CMD, 3, 2⟩
def A.PINOWN_EVT : Nat := 0x40500000
def F.PINOWN_EVT_EVT : Fld := ⟨A.PINOWN_EVT, 0, 0⟩
def A.PINOWN_CONF_RES : Nat := 0x40500004
def F.PINOWN_CONF_RES_RES : Fld := ⟨A.PINOWN_CONF_RES, 31, 0⟩
def A.PINOWN_CONF_INFO : Nat := 0x40500008
def F.PINOWN_CONF_INFO_REQ : Fld := ⟨A.PINOWN_CONF_INFO, 7, 0⟩
def F.PINOWN_CONF_INFO_HOLDER : Fld := ⟨A.PINOWN_CONF_INFO, 15, 8⟩
def F.PINOWN_CONF_INFO_PATH : Fld := ⟨A.PINOWN_CONF_INFO, 17, 16⟩
def F.PINOWN_CONF_INFO_VALID : Fld := ⟨A.PINOWN_CONF_INFO, 31, 31⟩
def A.PINOWN_CONFCNT : Nat := 0x4050000c
def F.PINOWN_CONFCNT_COUNT : Fld := ⟨A.PINOWN_CONFCNT, 15, 0⟩
def A.PINOWN_QRES : Nat := 0x40500010
def F.PINOWN_QRES_RES : Fld := ⟨A.PINOWN_QRES, 31, 0⟩
def A.PINOWN_QOWN : Nat := 0x40500014
def F.PINOWN_QOWN_OWNER : Fld := ⟨A.PINOWN_QOWN, 7, 0⟩
def A.GPIO_IN : Nat := 0x40500800
def F.GPIO_IN_IN : Fld := ⟨A.GPIO_IN, 31, 0⟩
def A.GPIO_EVT : Nat := 0x40500804
def F.GPIO_EVT_EVT : Fld := ⟨A.GPIO_EVT, 31, 0⟩
def A.GPIO_N_CFG (i : Nat) : Nat := 0x40501000 + i * 0x8
def F.GPIO_N_CFG_MODE (i : Nat) : Fld := ⟨A.GPIO_N_CFG i, 1, 0⟩
def F.GPIO_N_CFG_EDGE (i : Nat) : Fld := ⟨A.GPIO_N_CFG i, 3, 2⟩
def F.GPIO_N_CFG_PULL (i : Nat) : Fld := ⟨A.GPIO_N_CFG i, 5, 4⟩
def A.GPIO_N_CMD (i : Nat) : Nat := 0x40501004 + i * 0x8
def F.GPIO_N_CMD_OUT (i : Nat) : Fld := ⟨A.GPIO_N_CMD i, 0, 0⟩
def A.DBG_ID : Nat := 0x40440000
def F.DBG_ID_ID : Fld := ⟨A.DBG_ID, 31, 0⟩
def A.DBG_STAT : Nat := 0x40440004
def F.DBG_STAT_SCOPE : Fld := ⟨A.DBG_STAT, 3, 0⟩
def F.DBG_STAT_HOLD : Fld := ⟨A.DBG_STAT, 4, 4⟩
def F.DBG_STAT_BUSERR : Fld := ⟨A.DBG_STAT, 5, 5⟩
def F.DBG_STAT_PARERR : Fld := ⟨A.DBG_STAT, 6, 6⟩
def F.DBG_STAT_HALTED : Fld := ⟨A.DBG_STAT, 10, 8⟩
def A.DBG_EVT : Nat := 0x40440008
def F.DBG_EVT_EVT : Fld := ⟨A.DBG_EVT, 3, 0⟩
def A.DBG_RST : Nat := 0x4044000c
def F.DBG_RST_LEVEL : Fld := ⟨A.DBG_RST, 1, 0⟩
def F.DBG_RST_ISLAND : Fld := ⟨A.DBG_RST, 4, 2⟩
def F.DBG_RST_KEY : Fld := ⟨A.DBG_RST, 31, 16⟩
def A.DBG_MEM_ADDR : Nat := 0x40440010
def F.DBG_MEM_ADDR_ADDR : Fld := ⟨A.DBG_MEM_ADDR, 31, 0⟩
def A.DBG_MEM_DATA : Nat := 0x40440014
def F.DBG_MEM_DATA_DATA : Fld := ⟨A.DBG_MEM_DATA, 31, 0⟩
def A.DBG_MEM_CTRL : Nat := 0x40440018
def F.DBG_MEM_CTRL_INC : Fld := ⟨A.DBG_MEM_CTRL, 0, 0⟩
def F.DBG_MEM_CTRL_BUSY : Fld := ⟨A.DBG_MEM_CTRL, 1, 1⟩
def A.DBG_CORE_CTRL (i : Nat) : Nat := 0x40440100 + i * 0x80
def F.DBG_CORE_CTRL_HALT (i : Nat) : Fld := ⟨A.DBG_CORE_CTRL i, 0, 0⟩
def F.DBG_CORE_CTRL_RESUME (i : Nat) : Fld := ⟨A.DBG_CORE_CTRL i, 1, 1⟩
def F.DBG_CORE_CTRL_STEP (i : Nat) : Fld := ⟨A.DBG_CORE_CTRL i, 2, 2⟩
def F.DBG_CORE_CTRL_BRKHALT (i : Nat) : Fld := ⟨A.DBG_CORE_CTRL i, 3, 3⟩
def F.DBG_CORE_CTRL_STEPIRQ (i : Nat) : Fld := ⟨A.DBG_CORE_CTRL i, 4, 4⟩
def F.DBG_CORE_CTRL_HALTRST (i : Nat) : Fld := ⟨A.DBG_CORE_CTRL i, 5, 5⟩
def F.DBG_CORE_CTRL_ASID (i : Nat) : Fld := ⟨A.DBG_CORE_CTRL i, 15, 8⟩
def F.DBG_CORE_CTRL_ASIDEN (i : Nat) : Fld := ⟨A.DBG_CORE_CTRL i, 16, 16⟩
def A.DBG_CORE_STAT (i : Nat) : Nat := 0x40440104 + i * 0x80
def F.DBG_CORE_STAT_HALTED (i : Nat) : Fld := ⟨A.DBG_CORE_STAT i, 0, 0⟩
def F.DBG_CORE_STAT_CAUSE (i : Nat) : Fld := ⟨A.DBG_CORE_STAT i, 3, 1⟩
def F.DBG_CORE_STAT_INDEX (i : Nat) : Fld := ⟨A.DBG_CORE_STAT i, 6, 4⟩
def A.DBG_CORE_RSEL (i : Nat) : Nat := 0x40440108 + i * 0x80
def F.DBG_CORE_RSEL_REG (i : Nat) : Fld := ⟨A.DBG_CORE_RSEL i, 6, 0⟩
def A.DBG_CORE_RDATA (i : Nat) : Nat := 0x4044010c + i * 0x80
def F.DBG_CORE_RDATA_DATA (i : Nat) : Fld := ⟨A.DBG_CORE_RDATA i, 31, 0⟩
def A.DBG_CORE_BP (i j : Nat) : Nat := 0x40440110 + i * 0x80 + j * 0x4
def F.DBG_CORE_BP_EN (i j : Nat) : Fld := ⟨A.DBG_CORE_BP i j, 0, 0⟩
def F.DBG_CORE_BP_PC (i j : Nat) : Fld := ⟨A.DBG_CORE_BP i j, 31, 2⟩
def A.DBG_CORE_WP_ADDR (i j : Nat) : Nat := 0x40440140 + i * 0x80 + j * 0x8
def F.DBG_CORE_WP_ADDR_ADDR (i j : Nat) : Fld := ⟨A.DBG_CORE_WP_ADDR i j, 31, 0⟩
def A.DBG_CORE_WP_CFG (i j : Nat) : Nat := 0x40440144 + i * 0x80 + j * 0x8
def F.DBG_CORE_WP_CFG_EN (i j : Nat) : Fld := ⟨A.DBG_CORE_WP_CFG i j, 0, 0⟩
def F.DBG_CORE_WP_CFG_KIND (i j : Nat) : Fld := ⟨A.DBG_CORE_WP_CFG i j, 2, 1⟩
def F.DBG_CORE_WP_CFG_VMATCH (i j : Nat) : Fld := ⟨A.DBG_CORE_WP_CFG i j, 3, 3⟩
def F.DBG_CORE_WP_CFG_MASK (i j : Nat) : Fld := ⟨A.DBG_CORE_WP_CFG i j, 7, 4⟩
def A.DBG_CORE_WP_VAL (i : Nat) : Nat := 0x40440160 + i * 0x80
def F.DBG_CORE_WP_VAL_VAL (i : Nat) : Fld := ⟨A.DBG_CORE_WP_VAL i, 31, 0⟩

end Sys2Proof.Machine
end

