-- ==== Sys2Proof/Machine/RegTable.lean ====
section
/-! DEFINITION. The register map of the spec: every register with its address, its index ranges, and for each field its
bits, access code (R5) and reset value (R8), block by block, from the register tables that close the chapters (R2, R59,
R132, R133, R168, R198, R225, R248, R249, R262, R287, R311, R329, R350, R372, R392, R408, R426, R445, R470, R485, R497).
Reserved bits are in no field (R7). A reset value the table gives by a word (Straps, Options, Fuses, RTC, Status area)
stands as 0 here: the register's reading is computed from the state that holds it (Machine/Bus.lean). -/
namespace Sys2Proof.Machine

/-- The access codes of R5. -/
inductive Acc where
  | rw | ro | w1c | w1s | wo | rc
  deriving DecidableEq, Repr

/-- One field of a register: bits `[hi:lo]`, access code, reset value, and, where the table says what a written value outside
a range reads back as, that range and the values below and above it read back. -/
structure FieldDef where
  hi : Nat
  lo : Nat
  acc : Acc
  reset : Nat
  lim : Option (Nat × Nat × Nat × Nat)
  deriving DecidableEq, Repr

/-- A register, or an indexed set of registers: the address of its first instance, and for each index its count and stride. -/
structure RegDef where
  base : Nat
  dims : List (Nat × Nat)
  fields : List FieldDef
  deriving DecidableEq, Repr

/-- An offset that the index ranges reach exactly. -/
def dimsReach : List (Nat × Nat) → Nat → Bool
  | [], off => off == 0
  | (n, st) :: ds, off => decide (off / st < n) && dimsReach ds (off % st)

/-- The register set defines a register at address `a`. -/
def RegDef.covers (r : RegDef) (a : Nat) : Bool := decide (r.base ≤ a) && dimsReach r.dims (a - r.base)

/-- The reset word of a register. -/
def RegDef.resetNat (r : RegDef) : Nat := r.fields.foldl (fun x f => x + f.reset * 2 ^ f.lo) 0

/-- The registers of the SYSCTL block. -/
def regsSysctl : List RegDef := [
  -- SYSCTL_DEVID (R2)
  ⟨0x40000000, [], [⟨7, 0, .ro, 1, none⟩, ⟨11, 8, .ro, 0xc, none⟩, ⟨15, 12, .ro, 0, none⟩, ⟨31, 16, .ro, 0x4860, none⟩]⟩,
  -- SYSCTL_PWR_STAT (R445)
  ⟨0x40000200, [], [⟨3, 0, .ro, 0, none⟩, ⟨4, 4, .ro, 0, none⟩, ⟨8, 5, .ro, 0, none⟩, ⟨9, 9, .ro, 0, none⟩, ⟨10, 10, .w1c, 0, none⟩, ⟨11, 11, .w1c, 0, none⟩, ⟨14, 12, .ro, 0, none⟩]⟩,
  -- SYSCTL_PWR_SEQ (R445)
  ⟨0x40000204, [], [⟨0, 0, .rw, 0, none⟩]⟩,
  -- SYSCTL_PWR_EVT (R445)
  ⟨0x40000208, [], [⟨7, 0, .w1c, 0, none⟩]⟩,
  -- SYSCTL_PD_STAT_L (R445)
  ⟨0x40000210, [], [⟨31, 0, .ro, 0, none⟩]⟩,
  -- SYSCTL_PD_STAT_H (R445)
  ⟨0x40000214, [], [⟨1, 0, .ro, 0, none⟩, ⟨2, 2, .w1c, 0, none⟩]⟩,
  -- SYSCTL_PD_OFF_L (R445)
  ⟨0x40000218, [], [⟨31, 0, .rw, 0, none⟩]⟩,
  -- SYSCTL_PD_OFF_H (R445)
  ⟨0x4000021c, [], []⟩,
  -- SYSCTL_PARK_CFG (R445)
  ⟨0x40000220, [], [⟨0, 0, .rw, 0, none⟩, ⟨15, 8, .rw, 0xa, some (1, 255, 1, 255)⟩]⟩,
  -- SYSCTL_PARK_CMD (R445)
  ⟨0x40000224, [], [⟨0, 0, .wo, 0, none⟩]⟩,
  -- SYSCTL_PARK_STAT (R445)
  ⟨0x40000228, [], [⟨2, 0, .ro, 0, none⟩, ⟨6, 3, .ro, 0, none⟩, ⟨7, 7, .w1c, 0, none⟩]⟩,
  -- SYSCTL_PARK_SEL (R445)
  ⟨0x4000022c, [], [⟨15, 0, .rw, 0, none⟩]⟩,
  -- SYSCTL_PARK_CANIGN (R445)
  ⟨0x40000230, [], [⟨15, 0, .rw, 0, none⟩]⟩,
  -- SYSCTL_WAKE_CFG (R445)
  ⟨0x40000240, [(4, 0x4)], [⟨0, 0, .rw, 0, none⟩, ⟨2, 1, .rw, 0, none⟩, ⟨15, 8, .rw, 1, some (1, 255, 1, 255)⟩, ⟨31, 16, .rw, 0, none⟩]⟩,
  -- SYSCTL_WAKEREC (R445)
  ⟨0x40000250, [], [⟨0, 0, .w1c, 0, none⟩, ⟨3, 1, .ro, 0, none⟩, ⟨4, 4, .ro, 0, none⟩, ⟨15, 8, .ro, 0, none⟩, ⟨31, 16, .ro, 0, none⟩]⟩,
  -- SYSCTL_WAKETIME (R445)
  ⟨0x40000254, [], [⟨31, 0, .ro, 0, none⟩]⟩,
  -- SYSCTL_ALM_TIME (R445)
  ⟨0x40000260, [(2, 0x8)], [⟨31, 0, .rw, 0, none⟩]⟩,
  -- SYSCTL_ALM_CTRL (R445)
  ⟨0x40000264, [(2, 0x8)], [⟨0, 0, .rw, 0, none⟩, ⟨1, 1, .rw, 0, none⟩, ⟨15, 8, .rw, 2, none⟩, ⟨16, 16, .ro, 0, none⟩, ⟨17, 17, .ro, 0, none⟩, ⟨18, 18, .ro, 0, none⟩, ⟨19, 19, .ro, 0, none⟩]⟩,
  -- SYSCTL_PFW_CFG (R445)
  ⟨0x40000280, [], [⟨4, 0, .rw, 0xc, some (0, 20, 0, 20)⟩]⟩,
  -- SYSCTL_THERM (R445)
  ⟨0x40000284, [], [⟨7, 0, .rw, 0x73, some (85, 125, 85, 125)⟩, ⟨23, 16, .rc, 0, none⟩]⟩,
  -- SYSCTL_RSTCAUSE (R470)
  ⟨0x40000010, [], [⟨15, 0, .w1c, 1, none⟩]⟩,
  -- SYSCTL_RSTLAST (R470)
  ⟨0x40000014, [], [⟨1, 0, .ro, 0, none⟩, ⟨7, 4, .ro, 0, none⟩, ⟨8, 8, .ro, 0, none⟩, ⟨15, 12, .ro, 0, none⟩, ⟨23, 16, .rc, 0, none⟩]⟩,
  -- SYSCTL_RSTLVL (R470)
  ⟨0x40000018, [], [⟨31, 0, .ro, 0, none⟩]⟩,
  -- SYSCTL_RSTCFG (R470)
  ⟨0x4000001c, [], [⟨5, 0, .ro, 0, none⟩, ⟨6, 6, .ro, 0, none⟩]⟩,
  -- SYSCTL_SWRST (R470)
  ⟨0x40000020, [], [⟨1, 0, .wo, 0, none⟩, ⟨6, 4, .wo, 0, none⟩, ⟨31, 16, .wo, 0, none⟩]⟩,
  -- SYSCTL_STRAP (R470)
  ⟨0x40000024, [], [⟨1, 0, .ro, 0, none⟩, ⟨3, 2, .ro, 0, none⟩, ⟨4, 4, .ro, 0, none⟩, ⟨5, 5, .ro, 0, none⟩, ⟨6, 6, .ro, 0, none⟩]⟩,
  -- SYSCTL_BOOTSTAT (R470)
  ⟨0x40000028, [], [⟨0, 0, .ro, 0, none⟩, ⟨2, 1, .ro, 0, none⟩, ⟨4, 3, .ro, 0, none⟩, ⟨5, 5, .ro, 0, none⟩, ⟨31, 16, .ro, 0, none⟩]⟩,
  -- SYSCTL_CLKCFG (R470)
  ⟨0x40000040, [], [⟨0, 0, .rw, 0, none⟩]⟩,
  -- SYSCTL_CLKSTAT (R470)
  ⟨0x40000044, [], [⟨1, 0, .ro, 0, none⟩, ⟨2, 2, .ro, 0, none⟩, ⟨3, 3, .ro, 0, none⟩, ⟨4, 4, .ro, 0, none⟩, ⟨5, 5, .ro, 0, none⟩, ⟨6, 6, .ro, 0, none⟩, ⟨7, 7, .ro, 0, none⟩, ⟨8, 8, .w1c, 0, none⟩]⟩,
  -- SYSCTL_RTC_SEC (R470)
  ⟨0x40000050, [], [⟨31, 0, .rw, 0, none⟩]⟩,
  -- SYSCTL_RTC_SUB (R470)
  ⟨0x40000054, [], [⟨14, 0, .ro, 0, none⟩]⟩,
  -- SYSCTL_RTC_CTRL (R470)
  ⟨0x40000058, [], [⟨0, 0, .rw, 0, none⟩, ⟨1, 1, .ro, 0, none⟩, ⟨2, 2, .w1c, 0, none⟩]⟩,
  -- SYSCTL_WDT_CFG (R470)
  ⟨0x40000060, [(3, 0x8)], [⟨15, 0, .ro, 0, none⟩, ⟨16, 16, .ro, 0, none⟩, ⟨17, 17, .w1c, 0, none⟩]⟩,
  -- SYSCTL_WDT_KICK (R470)
  ⟨0x40000064, [(3, 0x8)], [⟨31, 0, .wo, 0, none⟩]⟩,
  -- SYSCTL_EVT (R470)
  ⟨0x40000080, [], [⟨8, 0, .w1c, 0, none⟩]⟩,
  -- SYSCTL_OPT (R470)
  ⟨0x40000100, [(64, 0x4)], [⟨31, 0, .ro, 0, none⟩]⟩,
  -- SYSCTL_OPT_WBUF (R470)
  ⟨0x40000300, [(63, 0x4)], [⟨31, 0, .rw, 0, none⟩]⟩,
  -- SYSCTL_OPT_CMD (R470)
  ⟨0x40000400, [], [⟨0, 0, .wo, 0, none⟩, ⟨1, 1, .ro, 0, none⟩, ⟨3, 2, .ro, 0, none⟩]⟩]

/-- The registers of the EVT block. -/
def regsEvt : List RegDef := [
  -- EVT_SRC_CFG (R133)
  ⟨0x40010000, [(1536, 0x4)], [⟨5, 0, .rw, 0, none⟩, ⟨7, 7, .rw, 0, none⟩, ⟨11, 8, .rw, 0, none⟩, ⟨14, 12, .rw, 0, none⟩, ⟨15, 15, .rw, 0, none⟩, ⟨16, 16, .ro, 0, none⟩]⟩,
  -- EVT_PEND (R133)
  ⟨0x40012000, [(48, 0x4)], [⟨31, 0, .w1c, 0, none⟩]⟩,
  -- EVT_CTRL (R133)
  ⟨0x40012100, [], [⟨0, 0, .rw, 0, none⟩]⟩,
  -- EVT_SWTRIG (R133)
  ⟨0x40012104, [], [⟨4, 0, .wo, 0, none⟩]⟩,
  -- EVT_MERGE (R133)
  ⟨0x40012108, [], [⟨15, 0, .rc, 0, none⟩, ⟨26, 16, .ro, 0, none⟩]⟩,
  -- EVT_TGT_THR (R133)
  ⟨0x40012200, [(4, 0x20)], [⟨5, 0, .rw, 0, none⟩]⟩,
  -- EVT_TGT_ACK (R133)
  ⟨0x40012204, [(4, 0x20)], [⟨10, 0, .rc, 0, none⟩, ⟨15, 15, .rc, 0, none⟩, ⟨21, 16, .rc, 0, none⟩]⟩,
  -- EVT_TGT_EOI (R133)
  ⟨0x40012208, [(4, 0x20)], [⟨0, 0, .wo, 0, none⟩]⟩,
  -- EVT_TGT_ACT_L (R133)
  ⟨0x4001220c, [(4, 0x20)], [⟨31, 0, .ro, 0, none⟩]⟩,
  -- EVT_TGT_ACT_H (R133)
  ⟨0x40012210, [(4, 0x20)], [⟨31, 0, .ro, 0, none⟩]⟩,
  -- EVT_TGT_PRI (R133)
  ⟨0x40012214, [(4, 0x20)], [⟨5, 0, .ro, 0, none⟩, ⟨6, 6, .ro, 1, none⟩, ⟨13, 8, .ro, 0, none⟩, ⟨14, 14, .ro, 0, none⟩]⟩]

/-- The registers of the DMA block. -/
def regsDma : List RegDef := [
  -- DMA_CTRL (R132)
  ⟨0x40020000, [], [⟨0, 0, .rw, 0, none⟩]⟩,
  -- DMA_L3WAIT (R132)
  ⟨0x40020004, [], [⟨15, 0, .rw, 0x3e8, none⟩]⟩,
  -- DMA_JRN_RSEQ (R132)
  ⟨0x40020010, [], [⟨31, 0, .ro, 0, none⟩]⟩,
  -- DMA_EVT (R132)
  ⟨0x40020020, [], [⟨2, 0, .w1c, 0, none⟩]⟩,
  -- DMA_CH_CFG (R132)
  ⟨0x40021000, [(64, 0x40)], [⟨2, 0, .rw, 0, none⟩, ⟨3, 3, .rw, 0, none⟩, ⟨9, 4, .rw, 0, none⟩, ⟨23, 16, .rw, 0xff, none⟩]⟩,
  -- DMA_CH_CTRL (R132)
  ⟨0x40021004, [(64, 0x40)], [⟨0, 0, .wo, 0, none⟩, ⟨1, 1, .wo, 0, none⟩, ⟨2, 2, .wo, 0, none⟩]⟩,
  -- DMA_CH_STAT (R132)
  ⟨0x40021008, [(64, 0x40)], [⟨2, 0, .ro, 0, none⟩, ⟨7, 4, .ro, 0, none⟩, ⟨8, 8, .w1c, 0, none⟩, ⟨9, 9, .w1c, 0, none⟩, ⟨25, 16, .ro, 0, none⟩]⟩,
  -- DMA_CH_DESC (R132)
  ⟨0x4002100c, [(64, 0x40)], [⟨31, 0, .rw, 0, none⟩]⟩,
  -- DMA_CH_CUR (R132)
  ⟨0x40021010, [(64, 0x40)], [⟨31, 0, .ro, 0, none⟩]⟩,
  -- DMA_CH_REM (R132)
  ⟨0x40021014, [(64, 0x40)], [⟨31, 0, .ro, 0, none⟩]⟩,
  -- IOMMU_CTRL (R132)
  ⟨0x40022000, [], [⟨0, 0, .rw, 0, none⟩]⟩,
  -- IOMMU_FAULT_ADDR (R132)
  ⟨0x40022010, [], [⟨31, 0, .ro, 0, none⟩]⟩,
  -- IOMMU_FAULT_INFO (R132)
  ⟨0x40022014, [], [⟨5, 0, .ro, 0, none⟩, ⟨6, 6, .ro, 0, none⟩, ⟨8, 7, .ro, 0, none⟩, ⟨15, 9, .ro, 0, none⟩, ⟨31, 31, .w1c, 0, none⟩]⟩,
  -- IOMMU_INV (R132)
  ⟨0x40022018, [], [⟨5, 0, .wo, 0, none⟩, ⟨8, 8, .wo, 0, none⟩]⟩,
  -- IOMMU_STREAM (R132)
  ⟨0x40022040, [(5, 0x4)], [⟨5, 0, .rw, 0, none⟩, ⟨8, 8, .rw, 0, none⟩]⟩,
  -- IOMMU_CTX (R132)
  ⟨0x40022100, [(64, 0x4)], [⟨0, 0, .rw, 0, none⟩, ⟨31, 14, .rw, 0, none⟩]⟩,
  -- MEM_SCRUB (R132)
  ⟨0x40023000, [], [⟨0, 0, .rw, 1, none⟩, ⟨26, 16, .rw, 0xa, some (1, 1440, 10, 10)⟩]⟩,
  -- MEM_ECCCNT (R132)
  ⟨0x40023004, [], [⟨15, 0, .rc, 0, none⟩, ⟨31, 16, .rc, 0, none⟩]⟩,
  -- MEM_ECCADDR (R132)
  ⟨0x40023008, [], [⟨31, 0, .ro, 0, none⟩]⟩,
  -- MEM_ECCSRC (R132)
  ⟨0x4002300c, [], [⟨3, 0, .ro, 0, none⟩]⟩]

/-- The registers of the RAKE block. -/
def regsRake : List RegDef := [
  -- RAKE_CTRL (R168)
  ⟨0x40030000, [], [⟨0, 0, .rw, 0, none⟩]⟩,
  -- RAKE_STATUS (R168)
  ⟨0x40030004, [], [⟨13, 0, .ro, 0, none⟩, ⟨29, 16, .ro, 0, none⟩]⟩,
  -- RAKE_TIME (R168)
  ⟨0x40030008, [], [⟨7, 0, .ro, 8, none⟩, ⟨15, 8, .ro, 4, none⟩]⟩,
  -- RAKE_RET (R168)
  ⟨0x4003000c, [], [⟨5, 0, .rw, 0x10, some (0, 32, 0, 32)⟩, ⟨31, 16, .rw, 0x64, none⟩]⟩,
  -- RAKE_EVT (R168)
  ⟨0x40030010, [], [⟨25, 0, .w1c, 0, none⟩]⟩,
  -- RAKE_ERR (R168)
  ⟨0x40030014, [], [⟨12, 0, .ro, 0, none⟩, ⟨13, 13, .ro, 0, none⟩, ⟨17, 14, .ro, 0, none⟩, ⟨31, 31, .w1c, 0, none⟩]⟩,
  -- RAKE_PFW (R168)
  ⟨0x40030018, [], [⟨0, 0, .ro, 0, none⟩, ⟨2, 1, .ro, 0, none⟩, ⟨4, 3, .ro, 0, none⟩]⟩,
  -- RAKE_TRIG_CFG (R168)
  ⟨0x40030040, [(8, 0x4)], [⟨15, 0, .rw, 0, none⟩, ⟨16, 16, .rw, 0, none⟩]⟩,
  -- RAKE_PAN_CFG (R168)
  ⟨0x40030100, [(2, 0x40)], [⟨19, 0, .rw, 0x3e8, some (25, 1000000, 25, 1000000)⟩, ⟨21, 20, .rw, 1, some (0, 2, 0, 2)⟩, ⟨23, 22, .rw, 0, none⟩]⟩,
  -- RAKE_PAN_OVR (R168)
  ⟨0x40030104, [(2, 0x40)], [⟨15, 0, .rw, 0, none⟩, ⟨19, 16, .rw, 3, none⟩, ⟨23, 20, .rw, 4, some (2, 15, 2, 15)⟩]⟩,
  -- RAKE_PAN_PHASE (R168)
  ⟨0x40030108, [(2, 0x40)], [⟨19, 0, .rw, 0, none⟩]⟩,
  -- RAKE_PAN_STATE (R168)
  ⟨0x4003010c, [(2, 0x40)], [⟨2, 0, .ro, 0, none⟩, ⟨3, 3, .ro, 0, none⟩, ⟨7, 4, .ro, 0, none⟩, ⟨8, 8, .ro, 0, none⟩, ⟨9, 9, .ro, 0, none⟩, ⟨10, 10, .ro, 0, none⟩, ⟨24, 16, .ro, 0, none⟩]⟩,
  -- RAKE_PAN_CYCLE (R168)
  ⟨0x40030110, [(2, 0x40)], [⟨31, 0, .ro, 0, none⟩]⟩,
  -- RAKE_PAN_CKPT (R168)
  ⟨0x40030114, [(2, 0x40)], [⟨31, 0, .ro, 0, none⟩]⟩,
  -- RAKE_PAN_LOGIC (R168)
  ⟨0x40030118, [(2, 0x40)], [⟨15, 0, .ro, 0, none⟩, ⟨31, 16, .rc, 0, none⟩]⟩,
  -- RAKE_PAN_CNT (R168)
  ⟨0x4003011c, [(2, 0x40)], [⟨15, 0, .rc, 0, none⟩, ⟨31, 16, .rc, 0, none⟩]⟩,
  -- RAKE_PAN_DONE (R168)
  ⟨0x40030120, [(2, 0x40)], [⟨0, 0, .wo, 0, none⟩]⟩,
  -- RAKE_PAN_ENT (R168)
  ⟨0x40030124, [(2, 0x40)], [⟨13, 0, .ro, 0, none⟩, ⟨29, 16, .ro, 0, none⟩]⟩]

/-- The registers of the RING block. -/
def regsRing : List RegDef := [
  -- RING_CTRL (R198)
  ⟨0x40040000, [], [⟨0, 0, .rw, 0, none⟩, ⟨1, 1, .rw, 0, none⟩, ⟨2, 2, .rw, 1, none⟩, ⟨13, 8, .rw, 0, none⟩]⟩,
  -- RING_ADDR (R198)
  ⟨0x40040004, [], [⟨11, 0, .rw, 0, none⟩, ⟨16, 16, .ro, 0, none⟩]⟩,
  -- RING_STATUS (R198)
  ⟨0x40040008, [], [⟨8, 0, .ro, 0, none⟩, ⟨27, 16, .ro, 0, none⟩]⟩,
  -- RING_EVT (R198)
  ⟨0x4004000c, [], [⟨18, 0, .w1c, 0, none⟩]⟩,
  -- RING_LINK_STAT (R198)
  ⟨0x40040100, [(3, 0x10)], [⟨11, 0, .ro, 0, none⟩, ⟨13, 12, .ro, 0, none⟩]⟩,
  -- RING_LINK_ERR (R198)
  ⟨0x40040104, [(3, 0x10)], [⟨15, 0, .rc, 0, none⟩, ⟨31, 16, .rc, 0, none⟩]⟩,
  -- RING_LINK_DELAY (R198)
  ⟨0x40040108, [(3, 0x10)], [⟨23, 0, .ro, 0, none⟩]⟩,
  -- RING_TIME_CFG (R198)
  ⟨0x40040200, [], [⟨0, 0, .rw, 0, none⟩, ⟨15, 8, .rw, 0x80, none⟩]⟩,
  -- RING_TIME_STAT (R198)
  ⟨0x40040204, [], [⟨11, 0, .ro, 0, none⟩, ⟨12, 12, .ro, 0, none⟩, ⟨14, 13, .ro, 0, none⟩, ⟨27, 16, .ro, 0, none⟩]⟩,
  -- RING_HS_CFG (R198)
  ⟨0x40040300, [], [⟨0, 0, .rw, 0, none⟩, ⟨1, 1, .rw, 0, none⟩, ⟨15, 4, .rw, 0, none⟩, ⟨22, 16, .rw, 0x32, some (0, 100, 0, 100)⟩, ⟨31, 24, .rw, 0xc8, none⟩]⟩,
  -- RING_HS_STAT (R198)
  ⟨0x40040304, [], [⟨2, 0, .ro, 0, none⟩, ⟨5, 3, .ro, 0, none⟩, ⟨6, 6, .ro, 0, none⟩, ⟨29, 16, .ro, 0, none⟩]⟩,
  -- RING_HS_CNT (R198)
  ⟨0x40040308, [], [⟨7, 0, .rc, 0, none⟩, ⟨15, 8, .rc, 0, none⟩, ⟨23, 16, .rc, 0, none⟩, ⟨31, 24, .rc, 0, none⟩]⟩,
  -- RING_MIR (R198)
  ⟨0x40040310, [(2, 0x4)], [⟨12, 0, .ro, 0, none⟩, ⟨28, 16, .ro, 0, none⟩]⟩,
  -- RING_SIL_CFG (R198)
  ⟨0x40040400, [(10, 0x4)], [⟨0, 0, .rw, 0, none⟩, ⟨24, 16, .rw, 0, some (0, 500, 0, 500)⟩]⟩,
  -- RING_SIL_TO (R198)
  ⟨0x40040440, [(2, 0x4)], [⟨20, 0, .rw, 0x834, none⟩]⟩,
  -- RING_SIL_STAT (R198)
  ⟨0x40040448, [], [⟨9, 0, .ro, 0, none⟩, ⟨25, 16, .ro, 0, none⟩]⟩]

/-- The registers of the CMD block. -/
def regsCmd : List RegDef := [
  -- CMD_CTRL (R59)
  ⟨0x40050000, [], [⟨0, 0, .rw, 0, none⟩, ⟨6, 1, .rw, 0, none⟩, ⟨7, 7, .rw, 0, none⟩]⟩,
  -- CMD_STATUS (R59)
  ⟨0x40050004, [], [⟨5, 0, .ro, 0, none⟩, ⟨12, 8, .ro, 0, none⟩, ⟨21, 16, .ro, 0, none⟩]⟩,
  -- CMD_EVT (R59)
  ⟨0x40050008, [], [⟨7, 0, .w1c, 0, none⟩]⟩,
  -- CMD_OUTST (R59)
  ⟨0x40050040, [(6, 0x4)], [⟨5, 0, .ro, 0, none⟩, ⟨13, 8, .rc, 0, none⟩]⟩,
  -- CMD_ERRCNT (R59)
  ⟨0x40050060, [(6, 0x4)], [⟨15, 0, .rc, 0, none⟩, ⟨31, 16, .rc, 0, none⟩]⟩,
  -- CMD_UDP_CFG (R59)
  ⟨0x400500a0, [], [⟨15, 0, .ro, 0xb7d4, none⟩, ⟨16, 16, .rw, 0, none⟩]⟩,
  -- CMD_ISOTP_CFG (R59)
  ⟨0x400500c0, [], [⟨3, 0, .rw, 0, none⟩, ⟨4, 4, .rw, 0, none⟩, ⟨5, 5, .rw, 0, none⟩, ⟨6, 6, .rw, 0, none⟩, ⟨15, 8, .rw, 0, none⟩, ⟨23, 16, .rw, 0, none⟩]⟩,
  -- CMD_ISOTP_RXID (R59)
  ⟨0x400500c4, [], [⟨28, 0, .rw, 0, none⟩]⟩,
  -- CMD_ISOTP_TXID (R59)
  ⟨0x400500c8, [], [⟨28, 0, .rw, 0, none⟩]⟩]

/-- The registers of the ETH block. -/
def regsEth : List RegDef := [
  -- ETH_CFG (R262)
  ⟨0x40060000, [(2, 0x10000)], [⟨1, 0, .rw, 0, some (0, 2, 0, 0)⟩, ⟨3, 2, .rw, 2, none⟩, ⟨4, 4, .rw, 1, none⟩, ⟨29, 16, .rw, 0x5f2, none⟩]⟩,
  -- ETH_STAT (R262)
  ⟨0x40060004, [(2, 0x10000)], [⟨0, 0, .ro, 0, none⟩, ⟨2, 1, .ro, 0, none⟩, ⟨3, 3, .ro, 0, none⟩, ⟨4, 4, .w1c, 0, none⟩]⟩,
  -- ETH_EVT (R262)
  ⟨0x40060008, [(2, 0x10000)], [⟨1, 0, .w1c, 0, none⟩]⟩,
  -- ETH_MAC_L (R262)
  ⟨0x40060010, [(2, 0x10000)], [⟨31, 0, .rw, 0, none⟩]⟩,
  -- ETH_MAC_H (R262)
  ⟨0x40060014, [(2, 0x10000)], [⟨15, 0, .rw, 0, none⟩]⟩,
  -- ETH_VLAN (R262)
  ⟨0x40060018, [(2, 0x10000)], [⟨11, 0, .rw, 0, none⟩, ⟨14, 12, .rw, 0, none⟩, ⟨15, 15, .rw, 0, none⟩, ⟨17, 16, .rw, 0, some (0, 2, 0, 2)⟩]⟩,
  -- ETH_RXCNT (R262)
  ⟨0x40060020, [(2, 0x10000)], [⟨15, 0, .rc, 0, none⟩, ⟨31, 16, .rc, 0, none⟩]⟩,
  -- ETH_TXCNT (R262)
  ⟨0x40060024, [(2, 0x10000)], [⟨15, 0, .rc, 0, none⟩]⟩,
  -- ETH_TSCORR (R262)
  ⟨0x40060028, [(2, 0x10000)], [⟨15, 0, .rw, 0, none⟩, ⟨31, 16, .rw, 0, none⟩]⟩,
  -- ETH_MDIO (R262)
  ⟨0x40060030, [], [⟨15, 0, .rw, 0, none⟩, ⟨20, 16, .rw, 0, none⟩, ⟨25, 21, .rw, 0, none⟩, ⟨27, 26, .rw, 0, none⟩, ⟨28, 28, .wo, 0, none⟩, ⟨29, 29, .ro, 1, none⟩, ⟨31, 30, .rw, 0, some (0, 2, 0, 2)⟩]⟩]

/-- The registers of the TIME block. -/
def regsTime : List RegDef := [
  -- TIME_CTRL (R262)
  ⟨0x40080000, [], [⟨2, 0, .rw, 4, some (0, 4, 0, 4)⟩, ⟨3, 3, .rw, 0, none⟩, ⟨24, 16, .rw, 0x64, none⟩]⟩,
  -- TIME_STAT (R262)
  ⟨0x40080004, [], [⟨2, 0, .ro, 0, none⟩, ⟨3, 3, .ro, 0, none⟩, ⟨4, 4, .ro, 0, none⟩, ⟨5, 5, .ro, 0, none⟩, ⟨6, 6, .w1c, 0, none⟩]⟩,
  -- TIME_EVT (R262)
  ⟨0x40080008, [], [⟨4, 0, .w1c, 0, none⟩]⟩,
  -- TIME_NOW_L (R262)
  ⟨0x40080010, [], [⟨31, 0, .ro, 0, none⟩]⟩,
  -- TIME_NOW_H (R262)
  ⟨0x40080014, [], [⟨31, 0, .ro, 0, none⟩]⟩,
  -- TIME_RATE (R262)
  ⟨0x40080018, [], [⟨31, 0, .rw, 0, none⟩]⟩,
  -- TIME_OFFS (R262)
  ⟨0x4008001c, [], [⟨31, 0, .ro, 0, none⟩]⟩,
  -- TIME_STEP_L (R262)
  ⟨0x40080020, [], [⟨31, 0, .wo, 0, none⟩]⟩,
  -- TIME_STEP_H (R262)
  ⟨0x40080024, [], [⟨31, 0, .wo, 0, none⟩]⟩,
  -- TIME_LOCK (R262)
  ⟨0x40080028, [], [⟨15, 0, .rw, 0x64, none⟩, ⟨31, 16, .rw, 0x3e8, none⟩]⟩,
  -- TIME_PTP (R262)
  ⟨0x4008002c, [], [⟨7, 0, .rw, 0, none⟩, ⟨8, 8, .rw, 0, none⟩, ⟨9, 9, .rw, 1, none⟩, ⟨31, 16, .rw, 0xbb8, none⟩]⟩]

/-- The registers of the CAN block. -/
def regsCan : List RegDef := [
  -- CAN_CTRL (R225)
  ⟨0x40100000, [(16, 0x10000)], [⟨0, 0, .rw, 0, none⟩, ⟨2, 1, .rw, 0, none⟩, ⟨3, 3, .rw, 0, none⟩, ⟨4, 4, .rw, 0, none⟩, ⟨5, 5, .rw, 0, none⟩, ⟨6, 6, .rw, 0, none⟩, ⟨7, 7, .rw, 1, none⟩, ⟨8, 8, .wo, 0, none⟩, ⟨9, 9, .rw, 1, none⟩, ⟨15, 10, .rw, 0, some (0, 32, 0, 32)⟩, ⟨16, 16, .rw, 0, none⟩]⟩,
  -- CAN_STAT (R225)
  ⟨0x40100004, [(16, 0x10000)], [⟨2, 0, .ro, 0, none⟩, ⟨3, 3, .ro, 0, none⟩, ⟨4, 4, .ro, 0, none⟩, ⟨5, 5, .w1c, 0, none⟩, ⟨6, 6, .w1c, 0, none⟩, ⟨7, 7, .ro, 0, none⟩, ⟨10, 8, .ro, 0, none⟩, ⟨11, 11, .ro, 0, none⟩]⟩,
  -- CAN_ERR (R225)
  ⟨0x40100008, [(16, 0x10000)], [⟨8, 0, .ro, 0, none⟩, ⟨23, 16, .ro, 0, none⟩, ⟨24, 24, .ro, 0, none⟩]⟩,
  -- CAN_ERRCNT (R225)
  ⟨0x4010000c, [(16, 0x10000)], [⟨15, 0, .rc, 0, none⟩, ⟨31, 16, .rc, 0, none⟩]⟩,
  -- CAN_PERR (R225)
  ⟨0x4010001c, [(16, 0x10000)], [⟨2, 0, .ro, 0, none⟩, ⟨15, 8, .rc, 0, none⟩, ⟨23, 16, .rc, 0, none⟩, ⟨31, 24, .rc, 0, none⟩]⟩,
  -- CAN_NBT (R225)
  ⟨0x40100010, [(16, 0x10000)], [⟨8, 0, .rw, 0, none⟩, ⟨16, 9, .rw, 0x7e, none⟩, ⟨23, 17, .rw, 0x1f, none⟩, ⟨30, 24, .rw, 0x1f, none⟩]⟩,
  -- CAN_DBT (R225)
  ⟨0x40100014, [(16, 0x10000)], [⟨4, 0, .rw, 0, none⟩, ⟨12, 8, .rw, 0xa, none⟩, ⟨19, 16, .rw, 3, none⟩, ⟨27, 24, .rw, 3, none⟩]⟩,
  -- CAN_TDC (R225)
  ⟨0x40100018, [(16, 0x10000)], [⟨0, 0, .rw, 0, none⟩, ⟨14, 8, .rw, 0xc, none⟩, ⟨22, 16, .rw, 0, none⟩, ⟨30, 24, .ro, 0, none⟩]⟩,
  -- CAN_EVT (R225)
  ⟨0x40100020, [(16, 0x10000)], [⟨19, 0, .w1c, 0, none⟩]⟩,
  -- CAN_TAT (R225)
  ⟨0x40100024, [(16, 0x10000)], [⟨15, 0, .rw, 0x64, none⟩]⟩,
  -- CAN_AUTH (R225)
  ⟨0x40100028, [(16, 0x10000)], [⟨0, 0, .rw, 0, none⟩, ⟨1, 1, .ro, 0, none⟩, ⟨7, 2, .rw, 0, none⟩, ⟨15, 8, .rw, 0x80, some (1, 255, 1, 255)⟩]⟩,
  -- CAN_AUTHCNT (R225)
  ⟨0x4010002c, [(16, 0x10000)], [⟨15, 0, .rc, 0, none⟩]⟩,
  -- CAN_UNF_STAT (R225)
  ⟨0x40100030, [(16, 0x10000)], [⟨7, 0, .ro, 0, none⟩, ⟨14, 8, .ro, 0, none⟩]⟩,
  -- CAN_UNF_REL (R225)
  ⟨0x40100034, [(16, 0x10000)], [⟨0, 0, .wo, 0, none⟩]⟩,
  -- CAN_UNF_OVR (R225)
  ⟨0x40100038, [(16, 0x10000)], [⟨15, 0, .rc, 0, none⟩]⟩,
  -- CAN_TXFIFO_STAT (R225)
  ⟨0x4010003c, [(16, 0x10000)], [⟨5, 0, .ro, 0, none⟩]⟩,
  -- CAN_RXNEW (R225)
  ⟨0x40100100, [(16, 0x10000), (32, 0x4)], [⟨31, 0, .w1c, 0, none⟩]⟩,
  -- CAN_RXLOST (R225)
  ⟨0x40100180, [(16, 0x10000), (32, 0x4)], [⟨31, 0, .w1c, 0, none⟩]⟩,
  -- CAN_TXREQ_SET_L (R225)
  ⟨0x40100200, [(16, 0x10000)], [⟨31, 0, .w1s, 0, none⟩]⟩,
  -- CAN_TXREQ_SET_H (R225)
  ⟨0x40100204, [(16, 0x10000)], [⟨31, 0, .w1s, 0, none⟩]⟩,
  -- CAN_TXREQ_CLR_L (R225)
  ⟨0x40100208, [(16, 0x10000)], [⟨31, 0, .wo, 0, none⟩]⟩,
  -- CAN_TXREQ_CLR_H (R225)
  ⟨0x4010020c, [(16, 0x10000)], [⟨31, 0, .wo, 0, none⟩]⟩,
  -- CAN_TXPEND_L (R225)
  ⟨0x40100210, [(16, 0x10000)], [⟨31, 0, .ro, 0, none⟩]⟩,
  -- CAN_TXPEND_H (R225)
  ⟨0x40100214, [(16, 0x10000)], [⟨31, 0, .ro, 0, none⟩]⟩,
  -- CAN_TXFIFO (R225)
  ⟨0x40100800, [(16, 0x10000), (20, 0x4)], [⟨31, 0, .wo, 0, none⟩]⟩,
  -- CAN_FILT (R225)
  ⟨0x40104000, [(16, 0x10000), (1024, 0x8)], [⟨28, 0, .rw, 0, none⟩, ⟨29, 29, .rw, 0, none⟩, ⟨30, 30, .rw, 0, none⟩, ⟨31, 31, .rw, 0, none⟩]⟩,
  -- CAN_MASK (R225)
  ⟨0x40104004, [(16, 0x10000), (1024, 0x8)], [⟨28, 0, .rw, 0x1fffffff, none⟩, ⟨29, 29, .rw, 0, none⟩, ⟨30, 30, .rw, 0, none⟩, ⟨31, 31, .rw, 0, none⟩]⟩,
  -- CAN_RXAUTH (R225)
  ⟨0x40105000, [(16, 0x10000), (192, 0x4)], [⟨9, 0, .rw, 0, none⟩, ⟨15, 15, .rw, 0, none⟩]⟩,
  -- CAN_FRESH_L (R225)
  ⟨0x40106000, [(16, 0x10000), (256, 0x8)], [⟨31, 0, .rw, 0, none⟩]⟩,
  -- CAN_FRESH_H (R225)
  ⟨0x40106004, [(16, 0x10000), (256, 0x8)], [⟨31, 0, .rw, 0, none⟩]⟩]

/-- The registers of the TIDE block. -/
def regsTide : List RegDef := [
  -- TIDE_CTRL (R248)
  ⟨0x40200000, [], [⟨15, 0, .rw, 0x7d0, some (1, 65535, 1, 65535)⟩, ⟨16, 16, .rw, 1, none⟩]⟩,
  -- TIDE_EVT (R248)
  ⟨0x40200004, [], [⟨21, 0, .w1c, 0, none⟩]⟩,
  -- TIDE_QPEND (R248)
  ⟨0x40200008, [], [⟨15, 0, .ro, 0, none⟩]⟩,
  -- TIDE_N_CFG (R248)
  ⟨0x40200100, [(16, 0x80)], [⟨0, 0, .rw, 0, none⟩, ⟨1, 1, .rw, 0, none⟩, ⟨2, 2, .rw, 0, none⟩, ⟨3, 3, .rw, 0, none⟩, ⟨4, 4, .rw, 1, none⟩, ⟨5, 5, .rw, 0, none⟩, ⟨13, 8, .rw, 0, none⟩, ⟨23, 16, .rw, 0x64, some (10, 255, 10, 255)⟩, ⟨30, 24, .rw, 0, some (0, 64, 0, 64)⟩]⟩,
  -- TIDE_N_SCFID (R248)
  ⟨0x40200104, [(16, 0x80)], [⟨28, 0, .rw, 0, none⟩]⟩,
  -- TIDE_N_TIME (R248)
  ⟨0x40200108, [(16, 0x80)], [⟨15, 0, .rw, 0x1f4, none⟩, ⟨31, 16, .rw, 0x32, none⟩]⟩,
  -- TIDE_N_MEMB_L (R248)
  ⟨0x4020010c, [(16, 0x80)], [⟨31, 0, .rw, 0, none⟩]⟩,
  -- TIDE_N_MEMB_H (R248)
  ⟨0x40200110, [(16, 0x80)], [⟨31, 0, .rw, 0, none⟩]⟩,
  -- TIDE_N_READY_L (R248)
  ⟨0x40200114, [(16, 0x80)], [⟨31, 0, .ro, 0, none⟩]⟩,
  -- TIDE_N_READY_H (R248)
  ⟨0x40200118, [(16, 0x80)], [⟨31, 0, .ro, 0, none⟩]⟩,
  -- TIDE_N_CMD (R248)
  ⟨0x4020011c, [(16, 0x80)], [⟨0, 0, .wo, 0, none⟩, ⟨1, 1, .wo, 0, none⟩, ⟨2, 2, .wo, 0, none⟩, ⟨3, 3, .wo, 0, none⟩, ⟨4, 4, .wo, 0, none⟩, ⟨5, 5, .wo, 0, none⟩]⟩,
  -- TIDE_N_STAT (R248)
  ⟨0x40200120, [(16, 0x80)], [⟨1, 0, .ro, 2, none⟩, ⟨2, 2, .ro, 0, none⟩, ⟨3, 3, .ro, 0, none⟩, ⟨4, 4, .ro, 0, none⟩, ⟨5, 5, .ro, 1, none⟩, ⟨6, 6, .ro, 0, none⟩, ⟨14, 8, .ro, 0, none⟩]⟩,
  -- TIDE_N_WREC (R248)
  ⟨0x40200124, [(16, 0x80)], [⟨3, 0, .ro, 0, none⟩, ⟨4, 4, .ro, 0, none⟩, ⟨5, 5, .ro, 0, none⟩, ⟨13, 8, .ro, 0, none⟩, ⟨31, 16, .rc, 0, none⟩]⟩,
  -- TIDE_N_WTIME (R248)
  ⟨0x40200128, [(16, 0x80)], [⟨31, 0, .ro, 0, none⟩]⟩,
  -- TIDE_N_WUF_ID (R248)
  ⟨0x4020012c, [(16, 0x80)], [⟨28, 0, .rw, 0, none⟩, ⟨29, 29, .rw, 0, none⟩]⟩,
  -- TIDE_N_WUF_MASK (R248)
  ⟨0x40200130, [(16, 0x80)], [⟨28, 0, .rw, 0x1fffffff, none⟩]⟩,
  -- TIDE_N_WUF_CTL (R248)
  ⟨0x40200134, [(16, 0x80)], [⟨3, 0, .rw, 0, none⟩, ⟨4, 4, .rw, 0, none⟩, ⟨6, 5, .rw, 2, none⟩, ⟨13, 8, .ro, 0, none⟩]⟩,
  -- TIDE_N_WUF_DATA_L (R248)
  ⟨0x40200138, [(16, 0x80)], [⟨31, 0, .rw, 0, none⟩]⟩,
  -- TIDE_N_WUF_DATA_H (R248)
  ⟨0x4020013c, [(16, 0x80)], [⟨31, 0, .rw, 0, none⟩]⟩,
  -- TIDE_N_WUF_DMASK_L (R248)
  ⟨0x40200140, [(16, 0x80)], [⟨31, 0, .rw, 0, none⟩]⟩,
  -- TIDE_N_WUF_DMASK_H (R248)
  ⟨0x40200144, [(16, 0x80)], [⟨31, 0, .rw, 0, none⟩]⟩]

/-- The registers of the SLUICE block. -/
def regsSluice : List RegDef := [
  -- SLUICE_CTRL (R248)
  ⟨0x40210000, [], [⟨0, 0, .rw, 0, none⟩, ⟨11, 8, .rw, 5, some (0, 5, 0, 5)⟩]⟩,
  -- SLUICE_EVT (R248)
  ⟨0x40210004, [], [⟨2, 0, .w1c, 0, none⟩]⟩,
  -- SLUICE_INQ (R248)
  ⟨0x40210034, [], [⟨6, 0, .ro, 0, none⟩, ⟨14, 8, .rc, 0, none⟩]⟩,
  -- SLUICE_RT_IDX (R248)
  ⟨0x40210008, [], [⟨11, 0, .rw, 0, none⟩]⟩,
  -- SLUICE_RT_CMD (R248)
  ⟨0x4021000c, [], [⟨0, 0, .wo, 0, none⟩, ⟨1, 1, .wo, 0, none⟩, ⟨2, 2, .ro, 0, none⟩]⟩,
  -- SLUICE_RT_D (R248)
  ⟨0x40210010, [(6, 0x4)], [⟨31, 0, .rw, 0, none⟩]⟩,
  -- SLUICE_FIFO (R248)
  ⟨0x40210030, [], [⟨15, 0, .rw, 0, none⟩]⟩,
  -- SLUICE_OBJ_L (R248)
  ⟨0x40210100, [(16, 0x8)], [⟨31, 0, .rw, 0, none⟩]⟩,
  -- SLUICE_OBJ_H (R248)
  ⟨0x40210104, [(16, 0x8)], [⟨31, 0, .rw, 0, none⟩]⟩,
  -- SLUICE_FWD (R248)
  ⟨0x40210200, [(17, 0x8)], [⟨31, 0, .rc, 0, none⟩]⟩,
  -- SLUICE_DROP (R248)
  ⟨0x40210204, [(17, 0x8)], [⟨15, 0, .rc, 0, none⟩, ⟨31, 16, .rc, 0, none⟩]⟩]

/-- The registers of the HSS block. -/
def regsHss : List RegDef := [
  -- HSS_CTRL (R287)
  ⟨0x40300000, [], [⟨0, 0, .rw, 0, none⟩]⟩,
  -- HSS_EVT (R287)
  ⟨0x40300004, [], [⟨0, 0, .w1c, 0, none⟩]⟩,
  -- HSS_SWEEP (R287)
  ⟨0x40300008, [], [⟨0, 0, .ro, 0, none⟩]⟩,
  -- HSS_SWEEP_OL_L (R287)
  ⟨0x4030000c, [], [⟨31, 0, .ro, 0, none⟩]⟩,
  -- HSS_SWEEP_OL_H (R287)
  ⟨0x40300010, [], [⟨15, 0, .ro, 0, none⟩]⟩,
  -- HSS_SWEEP_NT_L (R287)
  ⟨0x40300014, [], [⟨31, 0, .ro, 0, none⟩]⟩,
  -- HSS_SWEEP_NT_H (R287)
  ⟨0x40300018, [], [⟨15, 0, .ro, 0, none⟩]⟩,
  -- HSS_GRP_CFG (R287)
  ⟨0x40300040, [(6, 0x10)], [⟨10, 0, .rw, 0xc8, some (100, 2000, 100, 2000)⟩]⟩,
  -- HSS_GRP_STAT (R287)
  ⟨0x40300044, [(6, 0x10)], [⟨9, 0, .ro, 0, none⟩, ⟨10, 10, .ro, 0, none⟩, ⟨11, 11, .ro, 0, none⟩, ⟨12, 12, .ro, 0, none⟩, ⟨18, 16, .w1c, 0, none⟩]⟩,
  -- HSS_GRP_CNT (R287)
  ⟨0x40300048, [(6, 0x10)], [⟨15, 0, .rc, 0, none⟩, ⟨31, 16, .rc, 0, none⟩]⟩,
  -- HSS_N_CFG (R287)
  ⟨0x40300100, [(48, 0x40)], [⟨1, 0, .rw, 1, none⟩, ⟨2, 2, .rw, 0, none⟩, ⟨11, 4, .rw, 0xa, some (1, 255, 1, 255)⟩, ⟨14, 12, .rw, 0, none⟩, ⟨19, 16, .rw, 3, none⟩, ⟨27, 20, .rw, 0x64, some (1, 255, 1, 255)⟩, ⟨31, 28, .rw, 0, none⟩]⟩,
  -- HSS_N_DCFG (R287)
  ⟨0x40300104, [(48, 0x40)], [⟨1, 0, .rw, 0, some (0, 2, 0, 2)⟩, ⟨3, 2, .rw, 0, some (0, 2, 0, 0)⟩, ⟨7, 4, .rw, 5, some (1, 15, 1, 15)⟩, ⟨15, 8, .rw, 0, none⟩, ⟨25, 16, .rw, 0, none⟩, ⟨29, 26, .rw, 4, some (1, 15, 1, 15)⟩, ⟨30, 30, .ro, 0, none⟩]⟩,
  -- HSS_N_CMD (R287)
  ⟨0x40300108, [(48, 0x40)], [⟨15, 0, .rw, 0, none⟩, ⟨16, 16, .wo, 0, none⟩]⟩,
  -- HSS_N_STAT (R287)
  ⟨0x4030010c, [(48, 0x40)], [⟨2, 0, .ro, 0, none⟩, ⟨3, 3, .ro, 0, none⟩, ⟨4, 4, .ro, 0, none⟩, ⟨5, 5, .ro, 0, none⟩, ⟨6, 6, .ro, 0, none⟩, ⟨7, 7, .ro, 0, none⟩, ⟨8, 8, .ro, 0, none⟩, ⟨9, 9, .ro, 0, none⟩, ⟨10, 10, .ro, 0, none⟩, ⟨11, 11, .ro, 0, none⟩, ⟨13, 12, .ro, 0, none⟩, ⟨19, 16, .ro, 0, none⟩, ⟨22, 20, .ro, 0, none⟩, ⟨27, 24, .ro, 0, none⟩]⟩,
  -- HSS_N_FLT (R287)
  ⟨0x40300110, [(48, 0x40)], [⟨2, 0, .w1c, 0, none⟩, ⟨31, 16, .rc, 0, none⟩]⟩,
  -- HSS_N_MEAS (R287)
  ⟨0x40300114, [(48, 0x40)], [⟨11, 0, .ro, 0, none⟩, ⟨12, 12, .ro, 0, none⟩, ⟨13, 13, .ro, 0, none⟩, ⟨14, 14, .ro, 0, none⟩, ⟨15, 15, .ro, 0, none⟩, ⟨31, 16, .ro, 0, none⟩]⟩,
  -- HSS_N_TEMP (R287)
  ⟨0x40300118, [(48, 0x40)], [⟨7, 0, .ro, 0, none⟩, ⟨15, 8, .rc, 0, none⟩]⟩]

/-- The registers of the SOL block. -/
def regsSol : List RegDef := [
  -- SOL_CTRL (R311)
  ⟨0x40310000, [], [⟨0, 0, .rw, 0, none⟩, ⟨1, 1, .w1c, 0, none⟩]⟩,
  -- SOL_EVT (R311)
  ⟨0x40310004, [], [⟨3, 0, .w1c, 0, none⟩]⟩,
  -- SOL_SUP (R311)
  ⟨0x40310008, [], [⟨9, 0, .ro, 0, none⟩, ⟨10, 10, .ro, 0, none⟩]⟩,
  -- SOL_N_CFG (R311)
  ⟨0x40310100, [(12, 0x40)], [⟨4, 0, .rw, 0, none⟩, ⟨5, 5, .rw, 0, none⟩, ⟨7, 6, .rw, 1, some (0, 2, 0, 1)⟩, ⟨15, 8, .rw, 0x14, none⟩, ⟨16, 16, .rw, 0, none⟩, ⟨18, 17, .rw, 3, none⟩]⟩,
  -- SOL_N_KCFG (R311)
  ⟨0x40310104, [(12, 0x40)], [⟨7, 0, .rw, 0xa, some (1, 255, 1, 255)⟩, ⟨15, 8, .rw, 0x14, some (1, 255, 1, 255)⟩, ⟨18, 16, .rw, 3, none⟩]⟩,
  -- SOL_N_KWIN (R311)
  ⟨0x40310108, [(12, 0x40)], [⟨15, 0, .rw, 0xc8, none⟩, ⟨31, 16, .rw, 0x2710, none⟩]⟩,
  -- SOL_N_DUTY (R311)
  ⟨0x4031010c, [(12, 0x40)], [⟨15, 0, .rw, 0, none⟩, ⟨23, 16, .rw, 0x3c, some (1, 255, 1, 255)⟩]⟩,
  -- SOL_N_TAT (R311)
  ⟨0x40310110, [(12, 0x40)], [⟨15, 0, .rw, 0x3e8, none⟩]⟩,
  -- SOL_N_CTIME (R311)
  ⟨0x40310114, [(12, 0x40)], [⟨31, 0, .rw, 0, none⟩]⟩,
  -- SOL_N_CMD (R311)
  ⟨0x40310118, [(12, 0x40)], [⟨7, 0, .wo, 0, none⟩, ⟨8, 8, .wo, 0, none⟩, ⟨9, 9, .wo, 0, none⟩, ⟨10, 10, .wo, 0, none⟩]⟩,
  -- SOL_N_STAT (R311)
  ⟨0x4031011c, [(12, 0x40)], [⟨2, 0, .ro, 0, none⟩, ⟨5, 3, .ro, 0, none⟩, ⟨6, 6, .ro, 0, none⟩, ⟨7, 7, .ro, 0, none⟩, ⟨8, 8, .ro, 0, none⟩, ⟨9, 9, .ro, 0, none⟩, ⟨10, 10, .ro, 0, none⟩, ⟨11, 11, .ro, 0, none⟩, ⟨12, 12, .ro, 0, none⟩, ⟨13, 13, .ro, 0, none⟩, ⟨14, 14, .ro, 0, none⟩, ⟨15, 15, .ro, 0, none⟩, ⟨18, 16, .ro, 0, none⟩, ⟨21, 19, .ro, 0, none⟩, ⟨26, 22, .ro, 0, none⟩, ⟨27, 27, .ro, 0, none⟩]⟩,
  -- SOL_N_FLT (R311)
  ⟨0x40310120, [(12, 0x40)], [⟨2, 0, .w1c, 0, none⟩, ⟨31, 16, .rc, 0, none⟩]⟩,
  -- SOL_N_KINK (R311)
  ⟨0x40310124, [(12, 0x40)], [⟨31, 0, .ro, 0xffffffff, none⟩]⟩,
  -- SOL_N_MEAS (R311)
  ⟨0x40310128, [(12, 0x40)], [⟨15, 0, .ro, 0, none⟩, ⟨31, 16, .ro, 0, none⟩]⟩,
  -- SOL_N_DUSE (R311)
  ⟨0x4031012c, [(12, 0x40)], [⟨15, 0, .ro, 0, none⟩, ⟨23, 16, .ro, 0, none⟩, ⟨31, 24, .rc, 0, none⟩]⟩,
  -- SOL_PROF_A (R311)
  ⟨0x40311000, [(32, 0x40), (8, 0x8)], [⟨31, 0, .rw, 0, none⟩]⟩,
  -- SOL_PROF_B (R311)
  ⟨0x40311004, [(32, 0x40), (8, 0x8)], [⟨31, 0, .rw, 0, none⟩]⟩]

/-- The registers of the DIO block. -/
def regsDio : List RegDef := [
  -- DIO_CTRL (R329)
  ⟨0x40320000, [], [⟨0, 0, .rw, 0, none⟩]⟩,
  -- DIO_STAT (R329)
  ⟨0x40320004, [], [⟨9, 0, .ro, 0, none⟩, ⟨10, 10, .ro, 0, none⟩, ⟨11, 11, .ro, 0, none⟩]⟩,
  -- DIO_EVT (R329)
  ⟨0x40320008, [], [⟨2, 0, .w1c, 0, none⟩]⟩,
  -- DIO_EDGE_L (R329)
  ⟨0x4032000c, [], [⟨31, 0, .w1c, 0, none⟩]⟩,
  -- DIO_EDGE_H (R329)
  ⟨0x40320010, [], [⟨31, 0, .w1c, 0, none⟩]⟩,
  -- DIO_N_CFG (R329)
  ⟨0x40320100, [(64, 0x10)], [⟨1, 0, .rw, 0, none⟩, ⟨8, 2, .rw, 0, none⟩, ⟨10, 9, .rw, 0, none⟩, ⟨11, 11, .rw, 0, none⟩, ⟨12, 12, .rw, 0, none⟩]⟩,
  -- DIO_N_CMD (R329)
  ⟨0x40320104, [(64, 0x10)], [⟨0, 0, .rw, 0, none⟩, ⟨1, 1, .wo, 0, none⟩]⟩,
  -- DIO_N_STAT (R329)
  ⟨0x40320108, [(64, 0x10)], [⟨0, 0, .ro, 0, none⟩, ⟨1, 1, .ro, 0, none⟩, ⟨2, 2, .ro, 0, none⟩, ⟨3, 3, .ro, 0, none⟩, ⟨4, 4, .ro, 0, none⟩, ⟨5, 5, .ro, 0, none⟩, ⟨7, 6, .ro, 0, none⟩, ⟨9, 8, .ro, 0, none⟩, ⟨10, 10, .ro, 0, none⟩, ⟨31, 16, .rc, 0, none⟩]⟩]

/-- The registers of the LED block. -/
def regsLed : List RegDef := [
  -- LED_CTRL (R350)
  ⟨0x40330000, [], [⟨0, 0, .rw, 0, none⟩, ⟨1, 1, .rw, 0, none⟩, ⟨27, 16, .rw, 0x7d0, some (1000, 4000, 1000, 4000)⟩]⟩,
  -- LED_STAT (R350)
  ⟨0x40330004, [], [⟨6, 0, .ro, 0, none⟩, ⟨7, 7, .ro, 0, none⟩, ⟨8, 8, .ro, 0, none⟩, ⟨9, 9, .ro, 0, none⟩, ⟨10, 10, .w1c, 0, none⟩, ⟨14, 11, .ro, 0, none⟩]⟩,
  -- LED_HR (R350)
  ⟨0x40330008, [], [⟨9, 0, .rw, 0x258, none⟩, ⟨22, 16, .rw, 0x7f, none⟩]⟩,
  -- LED_EVT_L (R350)
  ⟨0x4033000c, [], [⟨31, 0, .w1c, 0, none⟩]⟩,
  -- LED_EVT_H (R350)
  ⟨0x40330010, [], [⟨11, 0, .w1c, 0, none⟩]⟩,
  -- LED_CURVE_CFG (R350)
  ⟨0x40330020, [(4, 0x4)], [⟨4, 0, .rw, 0x10, some (0, 16, 0, 16)⟩, ⟨11, 8, .rw, 0, some (0, 8, 0, 8)⟩]⟩,
  -- LED_CURVE_P (R350)
  ⟨0x40330040, [(4, 0x20), (8, 0x4)], [⟨15, 0, .rw, 0, none⟩, ⟨31, 16, .rw, 0x400, none⟩]⟩,
  -- LED_GRP_MASK (R350)
  ⟨0x40330100, [(8, 0x8)], [⟨31, 0, .rw, 0, none⟩]⟩,
  -- LED_GRP_CTRL (R350)
  ⟨0x40330104, [(8, 0x8)], [⟨0, 0, .rw, 0, none⟩, ⟨1, 1, .ro, 0, none⟩, ⟨2, 2, .wo, 0, none⟩, ⟨12, 8, .ro, 0, none⟩]⟩,
  -- LED_N_CFG (R350)
  ⟨0x40330200, [(32, 0x10)], [⟨7, 0, .rw, 0, none⟩, ⟨10, 8, .rw, 0, some (0, 4, 0, 0)⟩, ⟨23, 16, .rw, 0, none⟩]⟩,
  -- LED_N_CMD (R350)
  ⟨0x40330204, [(32, 0x10)], [⟨15, 0, .rw, 0, none⟩, ⟨31, 16, .rw, 0, none⟩]⟩,
  -- LED_N_STAT (R350)
  ⟨0x40330208, [(32, 0x10)], [⟨0, 0, .ro, 0, none⟩, ⟨1, 1, .ro, 0, none⟩, ⟨2, 2, .ro, 0, none⟩, ⟨3, 3, .ro, 0, none⟩, ⟨4, 4, .ro, 0, none⟩, ⟨5, 5, .ro, 0, none⟩, ⟨6, 6, .ro, 0, none⟩, ⟨27, 16, .ro, 0, none⟩]⟩,
  -- LED_N_VS (R350)
  ⟨0x4033020c, [(32, 0x10)], [⟨15, 0, .ro, 0, none⟩]⟩,
  -- LED_LMX_CTRL (R350)
  ⟨0x40330400, [], [⟨0, 0, .rw, 0, none⟩, ⟨1, 1, .ro, 0, none⟩, ⟨2, 2, .wo, 0, none⟩, ⟨3, 3, .ro, 0, none⟩, ⟨12, 4, .rw, 0xc8, some (100, 500, 100, 500)⟩, ⟨19, 16, .rw, 4, some (1, 15, 1, 15)⟩, ⟨21, 20, .rw, 1, none⟩]⟩,
  -- LED_LMX_COL (R350)
  ⟨0x40330440, [(16, 0x4)], [⟨12, 0, .rw, 0, none⟩, ⟨18, 16, .rw, 0, some (0, 4, 0, 0)⟩]⟩,
  -- LED_LMX_LVL (R350)
  ⟨0x40330500, [(16, 0x10), (4, 0x4)], [⟨31, 0, .rw, 0, none⟩]⟩,
  -- LED_LMX_OPEN (R350)
  ⟨0x40330600, [(16, 0x4)], [⟨15, 0, .ro, 0, none⟩]⟩]

/-- The registers of the MEAS block. -/
def regsMeas : List RegDef := [
  -- MEAS_CTRL (R329)
  ⟨0x40340000, [], [⟨0, 0, .rw, 0, none⟩]⟩,
  -- MEAS_EVT (R329)
  ⟨0x40340004, [], [⟨29, 0, .w1c, 0, none⟩]⟩,
  -- MEAS_TEMP (R329)
  ⟨0x40340008, [], [⟨15, 0, .ro, 0, none⟩, ⟨31, 16, .ro, 0, none⟩]⟩,
  -- MEAS_NTC_CFG (R329)
  ⟨0x40340100, [(16, 0x10)], [⟨15, 0, .rw, 0x3e8, none⟩, ⟨31, 16, .rw, 0, none⟩]⟩,
  -- MEAS_NTC_VAL (R329)
  ⟨0x40340104, [(16, 0x10)], [⟨15, 0, .ro, 0, none⟩, ⟨23, 16, .ro, 0, none⟩]⟩,
  -- MEAS_NTC_RES (R329)
  ⟨0x40340108, [(16, 0x10)], [⟨31, 0, .ro, 0, none⟩]⟩,
  -- MEAS_SUP_WIN (R329)
  ⟨0x40340200, [(14, 0x10)], [⟨15, 0, .rw, 0, none⟩, ⟨31, 16, .rw, 0, none⟩]⟩,
  -- MEAS_SUP_VAL (R329)
  ⟨0x40340204, [(14, 0x10)], [⟨15, 0, .ro, 0, none⟩, ⟨23, 16, .ro, 0, none⟩]⟩]

/-- The registers of the ACC block. -/
def regsAcc : List RegDef := [
  -- ACC_CTRL (R372)
  ⟨0x40350000, [], [⟨0, 0, .rw, 0, none⟩, ⟨1, 1, .ro, 0, none⟩, ⟨7, 2, .rw, 0, none⟩, ⟨19, 8, .rw, 0, none⟩, ⟨20, 20, .rw, 1, none⟩]⟩,
  -- ACC_STAT (R372)
  ⟨0x40350004, [], [⟨0, 0, .ro, 0, none⟩, ⟨3, 1, .ro, 0, none⟩, ⟨4, 4, .ro, 0, none⟩, ⟨5, 5, .ro, 0, none⟩, ⟨6, 6, .w1c, 0, none⟩, ⟨31, 16, .ro, 0, none⟩]⟩,
  -- ACC_EVT (R372)
  ⟨0x40350008, [], [⟨12, 0, .w1c, 0, none⟩]⟩,
  -- ACC_SCAN (R372)
  ⟨0x4035000c, [], [⟨11, 0, .rw, 0x1f4, none⟩, ⟨15, 12, .rw, 8, some (1, 15, 1, 15)⟩, ⟨23, 16, .rw, 0xff, none⟩, ⟨31, 24, .rw, 0, none⟩]⟩,
  -- ACC_CLS (R372)
  ⟨0x40350010, [], [⟨9, 0, .rw, 0xa0, none⟩, ⟨23, 16, .rw, 0x10, none⟩, ⟨31, 24, .rw, 0, none⟩]⟩,
  -- ACC_IF (R372)
  ⟨0x40350014, [], [⟨11, 0, .rw, 0x14, none⟩, ⟨18, 12, .rw, 0xf, none⟩]⟩,
  -- ACC_OCCCFG (R372)
  ⟨0x40350018, [], [⟨3, 0, .rw, 2, some (1, 15, 1, 15)⟩, ⟨15, 8, .rw, 0xa, some (1, 255, 1, 255)⟩]⟩,
  -- ACC_LOCK (R372)
  ⟨0x4035001c, [], [⟨0, 0, .rw, 0, none⟩, ⟨1, 1, .rw, 0, none⟩, ⟨7, 2, .rw, 0, none⟩, ⟨12, 8, .rw, 0, none⟩, ⟨13, 13, .ro, 0, none⟩]⟩,
  -- ACC_DOOR (R372)
  ⟨0x40350020, [], [⟨5, 0, .rw, 0, none⟩, ⟨6, 6, .rw, 1, none⟩, ⟨7, 7, .rw, 0, none⟩, ⟨13, 8, .rw, 0, none⟩, ⟨14, 14, .rw, 0, none⟩, ⟨23, 16, .rw, 0x1e, some (1, 255, 1, 255)⟩, ⟨31, 24, .rw, 0x3c, some (1, 255, 1, 255)⟩]⟩,
  -- ACC_LOCKOUT (R372)
  ⟨0x40350024, [], [⟨5, 0, .rw, 5, some (1, 60, 1, 60)⟩, ⟨31, 16, .rc, 0, none⟩]⟩,
  -- ACC_TP (R372)
  ⟨0x40350028, [], [⟨0, 0, .rw, 0, none⟩]⟩,
  -- ACC_LAST (R372)
  ⟨0x4035002c, [], [⟨19, 0, .ro, 0, none⟩, ⟨21, 20, .ro, 0, none⟩, ⟨22, 22, .ro, 0, none⟩, ⟨31, 24, .ro, 0, none⟩]⟩,
  -- ACC_TOK (R372)
  ⟨0x40351000, [(256, 0x4)], [⟨19, 0, .rw, 0, none⟩, ⟨20, 20, .rw, 0, none⟩, ⟨21, 21, .rw, 0, none⟩, ⟨22, 22, .rw, 0, none⟩]⟩,
  -- ACC_CAL_L (R372)
  ⟨0x40352000, [(3, 0x80), (16, 0x8)], [⟨31, 0, .rw, 0, none⟩]⟩,
  -- ACC_CAL_H (R372)
  ⟨0x40352004, [(3, 0x80), (16, 0x8)], [⟨31, 0, .rw, 0, none⟩]⟩,
  -- ACC_GATE (R372)
  ⟨0x40358000, [], [⟨0, 0, .ro, 1, none⟩, ⟨1, 1, .ro, 1, none⟩, ⟨2, 2, .ro, 0, none⟩, ⟨3, 3, .ro, 0, none⟩, ⟨5, 4, .ro, 0, none⟩, ⟨12, 8, .ro, 0, none⟩]⟩,
  -- ACC_ILK_HSS_L (R372)
  ⟨0x40358004, [], [⟨31, 0, .ro, 0, none⟩]⟩,
  -- ACC_ILK_HSS_H (R372)
  ⟨0x40358008, [], [⟨15, 0, .ro, 0, none⟩]⟩,
  -- ACC_ILK_SOL (R372)
  ⟨0x4035800c, [], [⟨11, 0, .ro, 0, none⟩]⟩,
  -- ACC_OCC (R372)
  ⟨0x40358100, [(16, 0x4)], [⟨19, 0, .ro, 0, none⟩, ⟨21, 20, .ro, 0, none⟩, ⟨27, 24, .ro, 0, none⟩, ⟨31, 28, .ro, 0, none⟩]⟩,
  -- ACC_OCCX (R372)
  ⟨0x40358140, [(16, 0x4)], [⟨7, 0, .ro, 0, none⟩]⟩,
  -- ACC_ANT_CFG (R372)
  ⟨0x40358200, [(8, 0x10)], [⟨10, 0, .rw, 0x3e8, none⟩]⟩,
  -- ACC_ANT_STAT (R372)
  ⟨0x40358204, [(8, 0x10)], [⟨10, 0, .ro, 0, none⟩, ⟨11, 11, .ro, 0, none⟩, ⟨12, 12, .ro, 0, none⟩, ⟨27, 16, .ro, 0, none⟩]⟩]

/-- The registers of the ENCL block. -/
def regsEncl : List RegDef := [
  -- ENCL_STAT (R392)
  ⟨0x40400000, [], [⟨0, 0, .ro, 0, none⟩, ⟨1, 1, .ro, 0, none⟩, ⟨2, 2, .ro, 0, none⟩, ⟨3, 3, .ro, 1, none⟩, ⟨31, 16, .ro, 0, none⟩]⟩,
  -- ENCL_EVT (R392)
  ⟨0x40400004, [], [⟨7, 0, .w1c, 0, none⟩]⟩,
  -- ENCL_TAMPER (R392)
  ⟨0x40400008, [], [⟨4, 0, .w1c, 0, none⟩]⟩,
  -- ENCL_SLOTS_L (R392)
  ⟨0x40400010, [], [⟨31, 0, .ro, 0, none⟩]⟩,
  -- ENCL_SLOTS_H (R392)
  ⟨0x40400014, [], [⟨31, 0, .ro, 0, none⟩]⟩,
  -- ENCL_MR (R392)
  ⟨0x40400100, [(8, 0x30), (12, 0x4)], [⟨31, 0, .ro, 0, none⟩]⟩,
  -- MB_CMD (R392)
  ⟨0x40401000, [(3, 0x1000)], [⟨7, 0, .wo, 0, none⟩, ⟨13, 8, .wo, 0, none⟩, ⟨14, 14, .wo, 0, none⟩, ⟨26, 16, .wo, 0, none⟩]⟩,
  -- MB_ARG (R392)
  ⟨0x40401004, [(3, 0x1000)], [⟨31, 0, .rw, 0, none⟩]⟩,
  -- MB_STAT (R392)
  ⟨0x40401008, [(3, 0x1000)], [⟨0, 0, .ro, 0, none⟩, ⟨1, 1, .w1c, 0, none⟩, ⟨7, 2, .ro, 0, none⟩, ⟨15, 8, .ro, 0, none⟩, ⟨26, 16, .ro, 0, none⟩]⟩,
  -- MB_BUF (R392)
  ⟨0x40401400, [(3, 0x1000), (256, 0x4)], [⟨31, 0, .rw, 0, none⟩]⟩,
  -- MB_BUFX (R392)
  ⟨0x40401800, [(3, 0x1000), (256, 0x4)], [⟨31, 0, .rw, 0, none⟩]⟩]

/-- The registers of the CRUST block. -/
def regsCrust : List RegDef := [
  -- CRUST_STAT (R408)
  ⟨0x40410000, [], [⟨2, 0, .ro, 0, none⟩, ⟨3, 3, .ro, 0, none⟩, ⟨7, 4, .ro, 0, none⟩, ⟨15, 8, .ro, 0, none⟩, ⟨23, 16, .ro, 0, none⟩]⟩,
  -- CRUST_EVT (R408)
  ⟨0x40410004, [], [⟨5, 0, .w1c, 0, none⟩]⟩,
  -- CRUST_WEAR (R408)
  ⟨0x40410008, [], [⟨15, 0, .ro, 0, none⟩, ⟨31, 16, .ro, 0, none⟩]⟩,
  -- CRUST_SEQ (R408)
  ⟨0x4041000c, [], [⟨31, 0, .ro, 0, none⟩]⟩,
  -- CRUST_LOGNEW (R408)
  ⟨0x40410010, [], [⟨31, 0, .ro, 0, none⟩]⟩,
  -- CRUST_LOGOLD (R408)
  ⟨0x40410014, [], [⟨31, 0, .ro, 0, none⟩]⟩,
  -- CRUST_ERR (R408)
  ⟨0x40410018, [], [⟨10, 0, .rc, 0, none⟩, ⟨21, 11, .rc, 0, none⟩, ⟨31, 22, .rc, 0, none⟩]⟩,
  -- CRUST_RDREQ (R408)
  ⟨0x40410020, [], [⟨9, 0, .rw, 0, none⟩, ⟨10, 10, .rw, 0, none⟩, ⟨30, 30, .ro, 0, none⟩, ⟨31, 31, .wo, 0, none⟩]⟩,
  -- CRUST_RDBUF (R408)
  ⟨0x40410040, [(16, 0x4)], [⟨31, 0, .ro, 0, none⟩]⟩,
  -- CRUST_WPORT (R408)
  ⟨0x40410100, [(16, 0x4)], [⟨31, 0, .wo, 0, none⟩]⟩,
  -- CRUST_WPORT_W16 (R408)
  ⟨0x40410140, [], [⟨31, 0, .wo, 0, none⟩]⟩]

/-- The registers of the UPD block. -/
def regsUpd : List RegDef := [
  -- UPD_CTRL (R426)
  ⟨0x40420000, [], [⟨0, 0, .rw, 1, none⟩, ⟨31, 16, .rw, 0x258, some (10, 65535, 10, 65535)⟩]⟩,
  -- UPD_STAT (R426)
  ⟨0x40420004, [], [⟨0, 0, .ro, 0, none⟩, ⟨1, 1, .ro, 0, none⟩, ⟨2, 2, .ro, 0, none⟩, ⟨3, 3, .ro, 0, none⟩, ⟨9, 4, .ro, 0, none⟩, ⟨31, 16, .ro, 0, none⟩]⟩,
  -- UPD_EVT (R426)
  ⟨0x40420008, [], [⟨9, 0, .w1c, 0, none⟩]⟩,
  -- UPD_BANK (R426)
  ⟨0x40420010, [(2, 0x4)], [⟨3, 0, .ro, 0, none⟩, ⟨5, 4, .ro, 0, none⟩, ⟨31, 16, .ro, 0, none⟩]⟩,
  -- UPD_CAUSE (R426)
  ⟨0x40420018, [(2, 0x4)], [⟨15, 0, .ro, 0, none⟩, ⟨18, 16, .ro, 0, none⟩]⟩,
  -- UPD_UNFIT (R426)
  ⟨0x40420020, [], [⟨15, 0, .wo, 0, none⟩, ⟨18, 16, .wo, 0, none⟩, ⟨19, 19, .wo, 0, none⟩, ⟨31, 31, .wo, 0, none⟩]⟩]

/-- The registers of the USBS block. -/
def regsUsbs : List RegDef := [
  -- USBS_CTRL (R426)
  ⟨0x40430000, [], [⟨0, 0, .rw, 0, none⟩, ⟨1, 1, .rw, 1, none⟩]⟩,
  -- USBS_STAT (R426)
  ⟨0x40430004, [], [⟨0, 0, .ro, 0, none⟩, ⟨1, 1, .ro, 0, none⟩, ⟨2, 2, .ro, 0, none⟩, ⟨3, 3, .ro, 0, none⟩, ⟨4, 4, .ro, 0, none⟩]⟩]

/-- The registers of the DBG block. -/
def regsDbg : List RegDef := [
  -- DBG_ID (R497)
  ⟨0x40440000, [], [⟨31, 0, .ro, 0x48600c01, none⟩]⟩,
  -- DBG_STAT (R497)
  ⟨0x40440004, [], [⟨3, 0, .ro, 0, none⟩, ⟨4, 4, .ro, 0, none⟩, ⟨5, 5, .w1c, 0, none⟩, ⟨6, 6, .w1c, 0, none⟩, ⟨10, 8, .ro, 0, none⟩]⟩,
  -- DBG_EVT (R497)
  ⟨0x40440008, [], [⟨3, 0, .w1c, 0, none⟩]⟩,
  -- DBG_RST (R497)
  ⟨0x4044000c, [], [⟨1, 0, .wo, 0, none⟩, ⟨4, 2, .wo, 0, none⟩, ⟨31, 16, .wo, 0, none⟩]⟩,
  -- DBG_MEM_ADDR (R497)
  ⟨0x40440010, [], [⟨31, 0, .rw, 0, none⟩]⟩,
  -- DBG_MEM_DATA (R497)
  ⟨0x40440014, [], [⟨31, 0, .rw, 0, none⟩]⟩,
  -- DBG_MEM_CTRL (R497)
  ⟨0x40440018, [], [⟨0, 0, .rw, 0, none⟩, ⟨1, 1, .ro, 0, none⟩]⟩,
  -- DBG_CORE_CTRL (R497)
  ⟨0x40440100, [(3, 0x80)], [⟨0, 0, .wo, 0, none⟩, ⟨1, 1, .wo, 0, none⟩, ⟨2, 2, .wo, 0, none⟩, ⟨3, 3, .rw, 0, none⟩, ⟨4, 4, .rw, 0, none⟩, ⟨5, 5, .rw, 0, none⟩, ⟨15, 8, .rw, 0, none⟩, ⟨16, 16, .rw, 0, none⟩]⟩,
  -- DBG_CORE_STAT (R497)
  ⟨0x40440104, [(3, 0x80)], [⟨0, 0, .ro, 0, none⟩, ⟨3, 1, .ro, 0, none⟩, ⟨6, 4, .ro, 0, none⟩]⟩,
  -- DBG_CORE_RSEL (R497)
  ⟨0x40440108, [(3, 0x80)], [⟨6, 0, .rw, 0, none⟩]⟩,
  -- DBG_CORE_RDATA (R497)
  ⟨0x4044010c, [(3, 0x80)], [⟨31, 0, .rw, 0, none⟩]⟩,
  -- DBG_CORE_BP (R497)
  ⟨0x40440110, [(3, 0x80), (8, 0x4)], [⟨0, 0, .rw, 0, none⟩, ⟨31, 2, .rw, 0, none⟩]⟩,
  -- DBG_CORE_WP_ADDR (R497)
  ⟨0x40440140, [(3, 0x80), (4, 0x8)], [⟨31, 0, .rw, 0, none⟩]⟩,
  -- DBG_CORE_WP_CFG (R497)
  ⟨0x40440144, [(3, 0x80), (4, 0x8)], [⟨0, 0, .rw, 0, none⟩, ⟨2, 1, .rw, 0, none⟩, ⟨3, 3, .rw, 0, none⟩, ⟨7, 4, .rw, 0, some (0, 12, 0, 12)⟩]⟩,
  -- DBG_CORE_WP_VAL (R497)
  ⟨0x40440160, [(3, 0x80)], [⟨31, 0, .rw, 0, none⟩]⟩]

/-- The registers of the PINOWN block. -/
def regsPinown : List RegDef := [
  -- PINOWN_EVT (R485)
  ⟨0x40500000, [], [⟨0, 0, .w1c, 0, none⟩]⟩,
  -- PINOWN_CONF_RES (R485)
  ⟨0x40500004, [], [⟨31, 0, .ro, 0, none⟩]⟩,
  -- PINOWN_CONF_INFO (R485)
  ⟨0x40500008, [], [⟨7, 0, .ro, 0, none⟩, ⟨15, 8, .ro, 0, none⟩, ⟨17, 16, .ro, 0, none⟩, ⟨31, 31, .w1c, 0, none⟩]⟩,
  -- PINOWN_CONFCNT (R485)
  ⟨0x4050000c, [], [⟨15, 0, .rc, 0, none⟩]⟩,
  -- PINOWN_QRES (R485)
  ⟨0x40500010, [], [⟨31, 0, .rw, 0, none⟩]⟩,
  -- PINOWN_QOWN (R485)
  ⟨0x40500014, [], [⟨7, 0, .ro, 0, none⟩]⟩,
  -- GPIO_IN (R485)
  ⟨0x40500800, [], [⟨31, 0, .ro, 0, none⟩]⟩,
  -- GPIO_EVT (R485)
  ⟨0x40500804, [], [⟨31, 0, .w1c, 0, none⟩]⟩,
  -- GPIO_N_CFG (R485)
  ⟨0x40501000, [(32, 0x8)], [⟨1, 0, .rw, 0, some (0, 2, 0, 0)⟩, ⟨3, 2, .rw, 0, none⟩, ⟨5, 4, .rw, 0, some (0, 2, 0, 0)⟩]⟩,
  -- GPIO_N_CMD (R485)
  ⟨0x40501004, [(32, 0x8)], [⟨0, 0, .rw, 0, none⟩]⟩]

/-- The blocks of R19 that hold registers: base address, size of the windows, registers. -/
def regBlocks : List (Nat × Nat × List RegDef) := [
  (0x40000000, 0x10000, regsSysctl),
  (0x40010000, 0x10000, regsEvt),
  (0x40020000, 0x10000, regsDma),
  (0x40030000, 0x10000, regsRake),
  (0x40040000, 0x10000, regsRing),
  (0x40050000, 0x10000, regsCmd),
  (0x40060000, 0x20000, regsEth),
  (0x40080000, 0x10000, regsTime),
  (0x40100000, 0x100000, regsCan),
  (0x40200000, 0x10000, regsTide),
  (0x40210000, 0x10000, regsSluice),
  (0x40300000, 0x10000, regsHss),
  (0x40310000, 0x10000, regsSol),
  (0x40320000, 0x10000, regsDio),
  (0x40330000, 0x10000, regsLed),
  (0x40340000, 0x10000, regsMeas),
  (0x40350000, 0x10000, regsAcc),
  (0x40400000, 0x10000, regsEncl),
  (0x40410000, 0x10000, regsCrust),
  (0x40420000, 0x10000, regsUpd),
  (0x40430000, 0x10000, regsUsbs),
  (0x40440000, 0x10000, regsDbg),
  (0x40500000, 0x10000, regsPinown)]

/-- The register defined at an address, when there is one (R4). -/
def regAt (a : Nat) : Option RegDef :=
  match regBlocks.find? (fun b => decide (b.1 ≤ a) && decide (a < b.1 + b.2.1)) with
  | some b => b.2.2.find? (fun r => r.covers a)
  | none => none

/-- The reset word of the register at an address; 0 where none is defined. -/
def resetWord (a : Nat) : Word := toW (((regAt a).map RegDef.resetNat).getD 0)

end Sys2Proof.Machine
end

