-- ==== Sys2Proof/Machine/TypesCmd.lean ====
section
/-! DEFINITION. State of the Command Engine (R30 to R58): endpoints and their sequence state, outstanding requests, sessions,
nonces, maintenance tokens, forwarded requests, the host port's queue and the ISO 15765-2 transfer. Types only. -/
namespace Sys2Proof.Machine

/-- An outstanding request (R35): where it came from, its header fields, and whether ACCEPTED has been sent for it (R36). -/
structure Outst where
  tp : Nat
  ep : Nat
  seq : Nat
  src : Nat
  grp : Nat
  op : Nat
  sess : Nat
  accepted : Bool
  deriving DecidableEq, Repr, Inhabited

/-- Sequence state of one endpoint (R34): the last accepted SEQ, when it was accepted, and the cached final replies, newest first. -/
structure EndPt where
  tp : Nat
  ep : Nat
  last : Nat
  stamp : Nat
  cache : List (Nat × List Byte)
  deriving DecidableEq, Repr, Inhabited

/-- An open session (R43 to R45). -/
structure Sess where
  id : Nat
  cls : Nat
  tp : Nat
  ep : Nat
  key : List Byte
  lastAt : Nat
  deriving DecidableEq, Repr, Inhabited

/-- A device nonce given by OPEN_CHALLENGE (R44). -/
structure Nonce where
  tp : Nat
  ep : Nat
  cls : Nat
  slot : Nat
  bytes : List Byte
  at_ : Nat
  deriving DecidableEq, Repr, Inhabited

/-- A held maintenance token (R47): class 0 UPD, 1 CMP, 2 EDT, 3 SWT, 4 OLS, 5 ACC; transport 7 is internal housekeeping. -/
structure Token where
  cls : Nat
  tp : Nat
  ep : Nat
  sess : Nat
  until_ : Nat
  deriving DecidableEq, Repr, Inhabited

/-- A request forwarded over Brineline whose reply is awaited (R53, R177). `acc`: a reply ACCEPTED came, the completion is
awaited. -/
structure Fwd where
  tp : Nat
  ep : Nat
  seq : Nat
  src : Nat
  dst : Nat
  grp : Nat
  op : Nat
  sess : Nat
  at_ : Nat
  acc : Bool
  deriving DecidableEq, Repr, Inhabited

/-- The ISO 15765-2 transport (R54): the partial reception, its expected length and next sequence number, and the packets
waiting for or in segmented transmission, and the frames that wait for transmit object 63 (R222). -/
structure IsoTp where
  rxBusy : Bool
  rx : List Byte
  rxLen : Nat
  rxSn : Nat
  rxBs : Nat
  txq : List (List Byte)
  txOff : Nat
  txSn : Nat
  txf : List (List Byte)
  deriving DecidableEq, Repr, Inhabited

/-- A subscription (R42): the class mask of an endpoint. -/
structure Subscr where
  tp : Nat
  ep : Nat
  mask : Nat
  deriving DecidableEq, Repr, Inhabited

/-- The Command Engine. `resetLvl` is a RESET replied to and not yet followed by its reset (R41);
`stopAsked` lists the maintenance classes whose running operation stops at its next safe point (R48); `ownSeq` is the SEQ of
the device's own requests to peers (R194, R422). -/
structure CmdSt where
  outst : List Outst
  eps : List EndPt
  stamp : Nat
  sess : List Sess
  nonces : List Nonce
  fails : Tbl (List Nat)
  lockUntil : Tbl Nat
  subs : List Subscr
  notifySeq : Tbl Nat
  dropped : Tbl Bool
  full : Tbl Bool
  hostQ : List (List Byte)
  hostOvf : Bool
  hostProto : Bool
  tokens : List Token
  fwd : List Fwd
  resetLvl : Option Nat
  stopAsked : List Nat
  ownSeq : Nat
  isotp : IsoTp
  deriving DecidableEq, Repr, Inhabited

/-- The key of a request that a block finishes later. -/
structure RKey where
  tp : Nat
  ep : Nat
  seq : Nat
  deriving DecidableEq, Repr, Inhabited

/-- What leaves the device, by the way it leaves. -/
inductive OutPort where
  /-- a command packet on a transport towards an endpoint (R49) -/
  | packet (tp ep : Nat)
  /-- a Brineline frame on a link: frame type, destination -/
  | brl (link kind dst : Nat)
  /-- an Ethernet frame on ETH_n -/
  | eth (n : Nat)
  /-- a CAN frame on CAN_n with its identifier word -/
  | can (n id : Nat)
  /-- what the device drives on HOST_MISO during a transaction (R55) -/
  | host
  /-- a flow-control or other ISO 15765-2 frame on CAN_n -/
  | isotp (n : Nat)
  /-- an SCF or remote frame of the Tide manager on CAN_n -/
  | tide (n : Nat)
  /-- a key fob, aerial or transponder signal of the access block -/
  | lf (ant : Nat)
  /-- an MDIO frame of ETH_0 -/
  | mdio
  /-- a NAK or acknowledgement control block on a link -/
  | brlCtl (link : Nat)
  /-- the USB console interface -/
  | console
  /-- a board output: 0 SYS_HOLD_N, 1 VCORE request, and the like, by its number in the chapter's order -/
  | pin (k : Nat)
  /-- the debug port's answer -/
  | dbg
  /-- the data register that the TAP shifts out -/
  | tdo
  /-- the balls of the boundary register, driven (1) or high-impedance (0), and their cells -/
  | balls (on : Bool)
  /-- the word a register read returns to its initiator -/
  | bus
  deriving DecidableEq, Repr, Inhabited

/-- One thing that left the device. -/
structure Out where
  port : OutPort
  data : List Byte
  deriving DecidableEq, Repr, Inhabited

end Sys2Proof.Machine
end

