-- ==== Sys2Proof/Machine/TypesAcc.lean ====
section
/-! DEFINITION. State of the access block beside its registers (R351 to R368). Types only. -/
namespace Sys2Proof.Machine

/-- A calibration under way (R365): its request, zone and point, the sums of M over the scans used, the scans used and those
without the calibration token, the disturbed codes met. -/
structure AccCal where
  key : RKey
  zone : Nat
  point : Nat
  sums : List Nat
  used : Nat
  without : Nat
  disturbed : Nat
  deriving DecidableEq, Repr, Inhabited

/-- The access block. `key` is the AES engine's copy of the master key (R355), `seq` and `chal` SEQ and challenge of the code
(R352), `scan` that a scan runs and `waiting` that one waits, `code` that a code is on the air undisturbed, `rep` the repeats
made (R353); `inCode` the serials that have answered in the code, `inScan` those applied in the scan, `inside` that one was
classified INSIDE, `quietScans` the scans counted for STARTUP (R359); `lo50`, `bad`, `good` consecutive codes of each aerial below
50 %, outside and inside 50 % to 150 %; `fails` the times of counted failures, `lockUntil`, `sessUntil`, `armUntil` the ends of
the lock-out, session and arming; `sessTp` the serial whose transponder opened the session (R363); `last` the last TID; `cal` a
calibration and `calSeen` the readings of CAL tokens in this scan; `txen` the ball ACC_TXEN (R352); `poll` that a transponder poll
is due or repeats and `pollRep` its repeats so far (R364). -/
structure AccSt where
  key : List Byte
  seq : Nat
  chal : List Byte
  scan : Bool
  waiting : Bool
  code : Bool
  rep : Nat
  inCode : List Nat
  inScan : List Nat
  inside : Bool
  quietScans : Nat
  lo50 : Tbl Nat
  bad : Tbl Nat
  good : Tbl Nat
  fails : List Nat
  lockUntil : Nat
  sessUntil : Nat
  armUntil : Nat
  sessTp : Option Nat
  last : Nat
  cal : Option AccCal
  calSeen : List (List Nat)
  txen : Bool
  poll : Bool
  pollRep : Nat
  deriving DecidableEq, Repr, Inhabited

end Sys2Proof.Machine
end

