-- ==== Sys2Proof/Machine/TypesRake.lean ====
section
/-! DEFINITION. State of cyclic execution and of the Rake (R135 to R166). Types only. -/
namespace Sys2Proof.Machine

/-- A committed value in its shadow register, waiting for the apply strobe (R146): entry index, resource, and value. -/
structure Shadow where
  entry : Nat
  cls : Nat
  idx : Nat
  fld : Nat
  off : Nat
  wid : Nat
  val : Nat
  deriving DecidableEq, Repr, Inhabited

/-- The latched value of one input entry (R26, R147): entry index, value, fresh or not, and the RAKE_ERR cause when it is not. -/
structure Latched where
  entry : Nat
  val : Nat
  fresh : Bool
  cause : Nat
  deriving DecidableEq, Repr, Inhabited

/-- A checkpoint (R155, R156): the header fields and the share data. -/
structure Ckpt where
  seq : Nat
  retid : Nat
  cycle : Nat
  lenKib : Nat
  tnow : Nat
  data : List Byte
  deriving DecidableEq, Repr, Inhabited

/-- One Pan's cyclic execution. `rot` is the rotation of the input buffers (R136); `map` the image map in force, `part` and
`partTotal` a map being loaded (R142); `blocks` the program in flash, `crcs` the blocks an edit replaced there with their CRC-32C
(none: deleted), `code` the program in I-TCM and `place` where its blocks lie, `staged` the blocks of an online edit and where
they lie (R162), `gen` the edits so far, `edit` an edit awaiting its boundary, the request it
completes and the cycle it is fixed for in a pair (R163, R194), `unstored`
an edit swapped and not yet in flash (R164); `forces` (R153); `period`, `anchor` the grid in force, `bk` the last boundary and
`next` the next one, in µs of DTIME, `bkNow` the last boundary on the device's own clock (R144), `halted` the ns since then in which the debug port held the core (R491); `logic` the logic phase runs;
`overran` that its overrun is counted, `cons` consecutive overruns (R151); durations and totals of R138; `b0` that B0 is still
to come and `started` the request it completes; `warm` the start under way; `stopReq` (R158); `shadow` committed values and
`strobe` that their apply strobe is due (R146), `linkLost` that it does not reach the power die (R165), `oq` output entries the last commit did not apply (R137); `ckptDue` the next due
time, `ckpt` the bank being written, `last` the last checkpoint completed (R155), `pfw` 0 none, 1 final checkpoint wanted, 2
taken, 3 an older one is saved, and `final` what is saved (R157). -/
structure PanSt where
  rot : Nat
  map : List Nat
  part : List Nat
  partTotal : Option Nat
  blocks : Tbl (List Byte)
  crcs : Tbl (Option Nat)
  code : Tbl (List Byte)
  place : Tbl Nat
  staged : Tbl (List Byte)
  gen : Nat
  edit : Option (Option RKey × List Nat × Option Nat)
  unstored : Bool
  forces : List (Nat × Bool)
  period : Nat
  anchor : Nat
  bk : Nat
  bkNow : Nat
  next : Nat
  halted : Nat
  logic : Bool
  overran : Bool
  cons : Nat
  logicNs : Nat
  maxNs : Nat
  lastPeriod : Nat
  lastLate : Nat
  lateTotal : Nat
  ovrTotal : Nat
  editFlag : Bool
  b0 : Bool
  started : Option RKey
  warm : Bool
  stopReq : Bool
  shadow : List Shadow
  strobe : Bool
  linkLost : Bool
  oq : List Nat
  ckptDue : Nat
  ckpt : Option Ckpt
  last : Option Ckpt
  pfw : Nat
  final : Option Ckpt
  deriving DecidableEq, Repr, Inhabited

/-- The Rake's own state: the group bases in force and the captures in progress (R154), the retain split in force (R168), the
Pans whose logic side is silent and the bridging holds that have expired, bit 10p + b (R195). -/
structure RakeSt where
  trigBase : Tbl Nat
  trigBusy : Nat
  split : Nat
  silent : Nat
  silOff : Nat
  deriving DecidableEq, Repr, Inhabited

end Sys2Proof.Machine
end

