-- ==== Sys2Proof/Machine/TypesCan.lean ====
section
/-! DEFINITION. State of the CAN controllers (R199 to R225), the Tide manager (R226 to R239) and Sluice (R240 to R249) beside
their registers and object RAM. Types only. -/
namespace Sys2Proof.Machine

/-- A frame in the hold buffer (R209): its object, the frame, whether it authenticated, and its RFV. -/
structure CanHold where
  obj : Nat
  frame : CanFrame
  auth : Bool
  rfv : Nat
  deriving DecidableEq, Repr, Inhabited

/-- A record of the transmit FIFO (R214), and whether it has been found late (R216). -/
structure CanRec where
  bytes : List Byte
  late : Bool
  deriving DecidableEq, Repr, Inhabited

/-- A CAN_SEND that waits for its object (R216): the object, the request, the DTIME it asked for. -/
structure CanReq where
  obj : Nat
  key : RKey
  dtime : Nat
  deriving DecidableEq, Repr, Inhabited

/-- New content and a request for a transmit object that is on the bus (R212): it is taken when the transmission ends; with it the
CAN_SEND that brought it. -/
structure CanCopy where
  obj : Nat
  parts : List Shadow
  req : Option CanReq
  deriving DecidableEq, Repr, Inhabited

/-- One channel: the CMAC engine's key (R220), the object in arbitration or on the bus (64 is the transmit FIFO) and its frame as the
attempt began with it, the one whose attempt ended in error, whether its repeats are cancelled (R213), recovery counting started by RECOVER (R217), FRESH_s_L
values not yet in effect (R225), the binding registers CAN_n_RXAUTH_k behind bank 1 (R225), the FIFO's records and the bytes
of one not yet complete (R214), the hold buffer, the objects each harvester holds and those filed into while held (R209), copies that wait for
an active object (R212), and the CAN_SENDs in progress. -/
structure CanCh where
  key : Option (List Byte)
  active : Option Nat
  fly : Option CanFrame
  rep : Option Nat
  cancel : Bool
  recov : Bool
  freshL : Tbl Nat
  rxauth : Tbl Nat
  txq : List CanRec
  part : List Byte
  hold : List CanHold
  held : List (Nat × Nat)
  spilt : List Nat
  copy : List CanCopy
  reqs : List CanReq
  deriving DecidableEq, Repr, Inhabited

/-- One channel of the Tide manager: the last SCF of each node as its arrival time and whether it was READY without KEEP
(R229), the arrival of the last SCF with KEEP, of the last frame other than an SCF, the captured wake-up frame (R236), a
local wake in progress (R233), TO_LOW awaiting bus idle (R231), the bus bias at ground (R226), and a bus wake held while the island is in reset (R238). -/
structure TideCh where
  scf : Tbl (Nat × Bool)
  keepAt : Option Nat
  busyAt : Option Nat
  capt : Option CanFrame
  loc : Bool
  low : Bool
  biasOff : Bool
  wake : Option Nat
  deriving DecidableEq, Repr, Inhabited

/-- A frame in Sluice's input queue (R240): source 0 to 16, and the origin address of one that came over Brineline. -/
structure SlFrame where
  src : Nat
  origin : Nat
  frame : CanFrame
  deriving DecidableEq, Repr, Inhabited

/-- CAN, Tide and Sluice. `rt` is Sluice's routing table, 24 bytes an entry (R241); `brlMs` and `brlBytes` the bytes it has sent on
each link within a millisecond (R244). -/
structure CanSt where
  ch : Tbl CanCh
  tide : Tbl TideCh
  rt : Tbl (List Byte)
  inq : List SlFrame
  brlMs : Nat
  brlBytes : Tbl Nat
  deriving DecidableEq, Repr, Inhabited

end Sys2Proof.Machine
end

