-- ==== Sys2Proof/Machine/TypesCore.lean ====
section
/-! DEFINITION. State of the FK-32 cores and their MMUs (R60 to R63, R99, R107 to R109), of the IOMMU (R112), of the DMA
engine and the Bittern journal (R116 to R122). Types only. -/
namespace Sys2Proof.Machine

/-- What a core does with its issue stage. -/
inductive CoreRun where
  /-- held in reset, or not released (R22, R463) -/
  | held
  /-- issuing instructions -/
  | running
  /-- stopped issuing by WFE until an event is pending (R74) -/
  | waiting
  /-- halted by the debug port (R488, R489) -/
  | halted
  /-- stopped by a double fault (R94) -/
  | xfault
  /-- stopped by a lockstep mismatch (R97) -/
  | mismatch
  deriving DecidableEq, Repr, Inhabited

/-- One TLB entry (R107, R109): pages are numbered in 4 KiB units; `pages` is 1, 16 or 256. -/
structure TlbEntry where
  vpage : Nat
  pages : Nat
  ppage : Nat
  asid : Nat
  g : Bool
  u : Bool
  x : Bool
  w : Bool
  locked : Bool
  deriving DecidableEq, Repr, Inhabited

/-- The state of one FK-32 core (R60, R62, R99). `tnow` is the latched cycle time (R85), `cyc` the core clock
cycles counted up to `cycAt`, a time of the block's own clock (R62 CCNT), `abAt` the count at which the last AB issued (R75), `lsInj` an injection waiting for the next retired instruction (R98). -/
structure FkCore where
  w : Vector Word 32
  pc : Word
  psr : Word
  bitst : Word
  xpc : Word
  xpsr : Word
  xbit : Word
  xcause : Word
  xaddr : Word
  xvb : Word
  tnow : Nat
  mctrl : Word
  asid : Word
  ttb : Word
  lockFail : Bool
  lsTest : Bool
  lsInj : Bool
  lsrec0 : Word
  lsrec1 : Word
  tlb : List TlbEntry
  tlbNext : Nat
  cyc : Nat
  cycAt : Nat
  abAt : Nat
  run : CoreRun
  deriving DecidableEq, Repr, Inhabited

/-- One entry of the IOTLB (R112): a page of a context. -/
structure IotlbEntry where
  ctx : Nat
  vpage : Nat
  pages : Nat
  ppage : Nat
  w : Bool
  deriving DecidableEq, Repr, Inhabited

/-- One record of the Bittern journal, in the fields of R120. -/
structure JRec where
  ch : Nat
  gen : Nat
  state : Nat
  cause : Nat
  src : Nat
  dst : Nat
  len : Nat
  beatsDone : Nat
  tagged : Bool
  popsrc : Bool
  replayed : Bool
  pinned : Bool
  desc : Nat
  ts : Nat
  rseq : Nat
  faultAddr : Nat
  deriving DecidableEq, Repr, Inhabited

/-- What the engine holds of a DMA channel beside its registers: the generation, the descriptor being run (R116), the beats
read of the burst, whether the open burst waits to be replayed and from which beat, the one replay already used after an
ECC fault (R123), a request line that is up (R116), and the island in an L3 reset that it waits for (R123). -/
structure DmaCh where
  gen : Nat
  src : Nat
  dst : Nat
  sinc : Bool
  dinc : Bool
  irq : Bool
  last : Bool
  nextDesc : Nat
  burstOpen : Bool
  beat : Nat
  beatsRead : Nat
  eccTried : Bool
  ready : Bool
  waitIsl : Nat
  deriving DecidableEq, Repr, Inhabited

/-- The last accepted tag of one channel at one tagged port (R121). -/
structure TagRec where
  port : Nat
  ch : Nat
  lg : Nat
  lb : Nat
  deriving DecidableEq, Repr, Inhabited

/-- The DMA engine: channels, journal records by index, tag state, burst buffers by priority level (R121), and the channel
that holds the data path; `err` that a write of the beat being served ended with a bus error (R115). -/
structure DmaSt where
  ch : Tbl DmaCh
  jrn : Tbl JRec
  tags : List TagRec
  buf : Tbl (List Byte)
  active : Option Nat
  iotlb : List IotlbEntry
  err : Bool
  deriving DecidableEq, Repr, Inhabited

end Sys2Proof.Machine
end

