-- ==== Sys2Proof/Machine/TypesCrust.lean ====
section
/-! DEFINITION. State of the Crust store (R393 to R406) and of the Update Manager (R409 to R423). Types only. -/
namespace Sys2Proof.Machine

/-- A flash sector of the store (R393): 0 ERASED, 1 OPEN, 2 FULL, 3 VICTIM, 4 being erased; SSEQ, erase count, bytes used. -/
structure CrustSec where
  st : Nat
  sseq : Nat
  erases : Nat
  used : Nat
  deriving DecidableEq, Repr, Inhabited

/-- A record of the general area (R394): the sector it lies in, its header fields, its payload, and whether its CRC matches. -/
structure CrustRec where
  sec : Nat
  typ : Nat
  trial : Bool
  bank : Nat
  key : Nat
  schema : Nat
  seq : Nat
  payload : List Byte
  good : Bool
  deriving DecidableEq, Repr, Inhabited

/-- An entry of the event log ring (R399). -/
structure LogEnt where
  sec : Nat
  lseq : Nat
  ts : Nat
  arg : Nat
  code : Nat
  deriving DecidableEq, Repr, Inhabited

/-- A write waiting to become a record: 0 PAGE (key, offset, data), 1 COUNTER (key, increment in data), 6 BANKMARK; and the
request that waits for it, if any. -/
structure CrustWr where
  kind : Nat
  key : Nat
  off : Nat
  data : List Byte
  req : Option RKey
  deriving DecidableEq, Repr, Inhabited

/-- The Crust store. `sinceIdx` counts general records since the last INDEX group, `erasing` the sectors being erased, oldest
first, `logCur` and `logCnt` the log sector being written and its entries, `wport` the words of a request being written (R408),
`compact` the request that started a compaction (R402). -/
structure CrustSt where
  secs : Tbl CrustSec
  recs : List CrustRec
  log : List LogEnt
  queue : List CrustWr
  erasing : List Nat
  suspended : Bool
  logCur : Nat
  logCnt : Nat
  lseq : Nat
  sinceIdx : Nat
  wport : List Nat
  compact : Option (Option RKey)
  wearRaised : Bool
  deriving DecidableEq, Repr, Inhabited

/-- The newest record of a bank's status area (R414) and how many the area holds. -/
structure BankRec where
  seq : Nat
  state : Nat
  tries : Nat
  cause : Nat
  comp : Nat
  applied : Nat
  count : Nat
  deriving DecidableEq, Repr, Inhabited

/-- A forwarding in progress (R422): the request, per address its status once known, the peers being served with the SEQ
awaited and the stream bytes sent (none: STAGE_BEGIN is awaited), the addresses not yet begun. -/
structure FwdRun where
  key : RKey
  all : List Nat
  done : List (Nat × Nat)
  active : List (Nat × Nat × Option Nat)
  todo : List Nat
  deriving DecidableEq, Repr, Inhabited

/-- The Update Manager: bank records, fuse floor words and revoked signers (R419), the package header and the stream bytes
received (R413), the STAGE_END request under way (R413), consecutive good cycles per Pan (R417), settings loaded without an
UNFIT report (R417), a reset to follow a completion, a forwarding (R422), when the trial boot started, and recovery: 0 none,
1 the loader waits, 2 firmware started by it runs (R466); `unfitDue` that an UNFIT bank is about to be left (R420, R425). -/
structure UpdSt where
  banks : Tbl BankRec
  floors : List Nat
  revoked : Nat
  staging : Bool
  pkgLen : Nat
  pkgFlags : Nat
  pkgSet : Nat
  pkg : List Byte
  complete : Bool
  apply : Option RKey
  good : Tbl Nat
  setOk : Bool
  resetDue : Bool
  fwd : Option FwdRun
  trialAt : Nat
  recov : Nat
  unfitDue : Bool
  deriving DecidableEq, Repr, Inhabited

end Sys2Proof.Machine
end

