-- ==== Sys2Proof/Machine/TypesDbg.lean ====
section
/-! DEFINITION. State of the debug port and of the TAP (R486 to R497) beside their registers. Types only. -/
namespace Sys2Proof.Machine

/-- The instruction of the TAP's instruction register (R495). -/
inductive TapIr where
  | idcode | sample | extest | clamp | highz | bypass
  deriving DecidableEq, Repr, Inhabited

/-- The debug port. Per core number: `skip` that the breakpoint at the PC it was resumed at does not halt it again (R488, R489),
`haltAt` the device's own clock when it halted (R491). `ir` and `cells` the
TAP's instruction and the 276 cells of the boundary register. -/
structure DbgSt where
  skip : Tbl Bool
  haltAt : Tbl Nat
  ir : TapIr
  cells : Nat
  deriving DecidableEq, Repr, Inhabited

end Sys2Proof.Machine
end

