-- ==== Sys2Proof/Machine/TypesDio.lean ====
section
/-! DEFINITION. State of the field channels and of the MEAS block beside their registers (R312 to R326). Types only. -/
namespace Sys2Proof.Machine

/-- An output: its current is at ILD, its junction above TSD − THYS (R317). An input: `run` and `wrun`, the ticks for which the raw
value has differed from the filtered one, of the level and of the wire break (R314, R315). -/
structure DioCh where
  lim : Bool
  hot : Bool
  run : Nat
  wrun : Nat
  deriving DecidableEq, Repr, Inhabited

/-- Consecutive samples of a supply below LOW, above HIGH and inside its window (R325). -/
structure SupRun where
  below : Nat
  above : Nat
  within : Nat
  deriving DecidableEq, Repr, Inhabited

/-- The DIO and MEAS blocks. -/
structure DioSt where
  ch : Tbl DioCh
  sup : Tbl SupRun
  deriving DecidableEq, Repr, Inhabited

end Sys2Proof.Machine
end

