-- ==== Sys2Proof/Machine/TypesEncl.lean ====
section
/-! DEFINITION. State of the Enclave (R373 to R390). Types only. -/
namespace Sys2Proof.Machine

/-- An occupied key slot (R379): key, TYPE, USAGE and ARG of its blob. -/
structure KeySlot where
  key : List Byte
  typ : Nat
  usage : Nat
  arg : Nat
  deriving DecidableEq, Repr, Inhabited

/-- The operation queued or running on a mailbox channel: the fields of its MB_c_CMD write, and MB_c_ARG as it stood then (R382,
R392). -/
structure MbOp where
  op : Nat
  slot : Nat
  auto : Bool
  len : Nat
  arg : Nat
  deriving DecidableEq, Repr, Inhabited

/-- A debug challenge given (R385): its record, the session it was given to, and when. -/
structure DbgNonce where
  rec_ : List Byte
  sess : Nat
  at_ : Nat
  deriving DecidableEq, Repr, Inhabited

/-- The Enclave: slots, the root R0 formed at boot (R375), the signer hash (R374), the endorsement made at boot (R384), the
mailbox channels' operations, the one running, the channel the rotation looks at first (R382), the debug challenge and its
failures (R385), and the flash key store of sealed blobs (R378). -/
structure EnclSt where
  slots : Tbl KeySlot
  r0 : List Byte
  sh : List Byte
  endorse : List Byte
  ops : Tbl MbOp
  running : Option Nat
  first : Nat
  challenge : Option DbgNonce
  fails : Nat
  store : Tbl (List Byte)
  deriving DecidableEq, Repr, Inhabited

end Sys2Proof.Machine
end

