-- ==== Sys2Proof/Machine/TypesHss.lean ====
section
/-! DEFINITION. State of the protected high-side switches beside their registers (R263 to R283). Types only. -/
namespace Sys2Proof.Machine

/-- One channel. `want` is a duty that waits for the channel's next period start (R267); `seen` that its owner has commanded
it (R266); `window` the warm-up window (R271); `retryDue` that tRETRY has passed while the junction was too hot (R272); `hot`
that the junction is above TSD − THYS; `slot` that its group's restart has begun and its own slot is to come (R275);
`joining`, `offAt` a first on-time not yet on the phase grid and when it ended (R267); `onAt` the last turn-on; `uc`, `low` the
consecutive samples of R282 and R279; `newRange` a range change in progress; `sampled` a sample in this PWM period (R278);
`ilim` the limit code of the map's ILIM entry (R268); `sw` the consecutive samples of the under-current test in a sweep, which
stops counting at UC_N (R283). -/
structure HssCh where
  want : Option Nat
  seen : Bool
  window : Bool
  retryDue : Bool
  hot : Bool
  slot : Bool
  joining : Bool
  offAt : Nat
  onAt : Nat
  uc : Nat
  low : Nat
  newRange : Option Nat
  sampled : Bool
  ilim : Option Nat
  sw : Nat
  deriving DecidableEq, Repr, Inhabited

/-- A group's PWM grid (R267): the frequency in force and the last period start, in ns. -/
structure HssGrp where
  hz : Nat
  start : Nat
  deriving DecidableEq, Repr, Inhabited

/-- The HSS block; `sweep` is the sweep under way: its request and channel mask (R283). -/
structure HssSt where
  ch : Tbl HssCh
  grp : Tbl HssGrp
  sweep : Option (RKey × Nat)
  deriving DecidableEq, Repr, Inhabited

end Sys2Proof.Machine
end

