-- ==== Sys2Proof/Machine/TypesLed.lean ====
section
/-! DEFINITION. State of the LED drive and of the status matrix beside their registers (R330 to R346). Types only. -/
namespace Sys2Proof.Machine

/-- Consecutive checks that meet a condition and that do not (R339, R346). -/
structure Streak where
  met : Nat
  missed : Nat
  deriving DecidableEq, Repr, Inhabited

/-- One sink: the duty and range in force (R332), the carried remainder (R331), the present on-phase in PWR cycles and when it
ends, and its check counts (R339). -/
structure LedCh where
  duty : Nat
  range : Nat
  acc : Nat
  on : Nat
  until_ : Nat
  openS : Streak
  shortS : Streak
  deriving DecidableEq, Repr, Inhabited

/-- One matrix column: range and effective code in force, and whether it is blanked for this frame (R338, R343). -/
structure LmxCol where
  range : Nat
  ecode : Nat
  blank : Bool
  deriving DecidableEq, Repr, Inhabited

/-- The LED block: sinks, columns, the factor of each curve last computed (R338), the current element levels by row and column
(R345), the row whose slot comes next (R344), the open counts of elements (R346), and the least sink voltage of the headroom
interval (R337). -/
structure LedSt where
  ch : Tbl LedCh
  col : Tbl LmxCol
  fac : Tbl Nat
  lvl : Tbl Nat
  openE : Tbl Streak
  row : Nat
  hr : Option Nat
  deriving DecidableEq, Repr, Inhabited

end Sys2Proof.Machine
end

