-- ==== Sys2Proof/Machine/TypesPwr.lean ====
section
/-! DEFINITION. State of the reset controller, of the rail sequence, of parking and of the RTC (R427 to R470) beside their
registers. Types only. -/
namespace Sys2Proof.Machine

/-- The parking entry (R434): RUN, the five steps, PARKED. -/
inductive ParkSt where
  | run | arm | flush | loads | logic | rails | parked
  deriving DecidableEq, Repr, Inhabited

/-- What the entry switched off, for the undoing of R437: the enables of HSS, SOL, DIO, LED, of access scanning, and the
transceivers' states. -/
structure ParkSave where
  hss : Bool
  sol : Bool
  dio : Bool
  led : Bool
  acc : Bool
  trx : List Nat
  mode : List Nat
  deriving DecidableEq, Repr, Inhabited

/-- Power, reset and boot. `rail` is the step of R429 under way, 0 when the rails are up; `fails` its consecutive failures,
`retry` the 100 ms wait and `dead` that every enable stays low; `pd` the domains that are on, `pdWait` those switching on;
`bring` the level of the bring-up under way (R454), `resetN` that RESET_N is low after an accepted pulse and `therm` the
thermal hold, the two holds of step B1; `l3` the islands in an L3 reset and whether the island is held yet (R18, R463);
`park`, `woken`, `waking`, `save` parking (R434 to R438): a wake is latched, the bring-up is a wake's; `dio` the value of each
DIO wake input at step 1 and the samples that differed in a row (R436); `hist` the reset history in RTC ticks, newest first,
and `endStorm` that the reset requested ends a storm (R456); `rtcAt` the device's own clock at the last RTC second, `rtcDead`
the RTC oscillator is lost; `eraseHeld` an erase suspended by parking (R434); `wdtHalf` the watchdogs whose half period has passed since the last kick (R457); `optNew` the option bytes being written (R462);
`rstOut` that RESET_OUT_N is low. -/
structure PwrSt where
  rail : Nat
  fails : Nat
  retry : Bool
  dead : Bool
  pd : Nat
  pdWait : Nat
  bring : Option Nat
  resetN : Bool
  therm : Bool
  l3 : Tbl Bool
  park : ParkSt
  woken : Bool
  waking : Bool
  save : ParkSave
  dio : Tbl (Bool × Nat)
  hist : List Nat
  endStorm : Bool
  rtcAt : Nat
  rtcDead : Bool
  eraseHeld : Bool
  wdtHalf : Nat
  optNew : List Byte
  rstOut : Bool
  deriving DecidableEq, Repr, Inhabited

end Sys2Proof.Machine
end

