-- ==== Sys2Proof/Machine/TypesRing.lean ====
section
/-! DEFINITION. State of Brineline and hot-standby (R169 to R196). Types only. -/
namespace Sys2Proof.Machine

/-- A route entry (R176): a device, the link it is reached over, the hops, the presence counter last seen and when. -/
structure Route where
  addr : Nat
  link : Nat
  hops : Nat
  count : Nat
  seenAt : Nat
  deriving DecidableEq, Repr, Inhabited

/-- A frame in a link's replay buffer (R173): LSEQ, FTYPE, its bytes, and how often it has been repeated. -/
structure BrlTx where
  seq : Nat
  kind : Nat
  bytes : List Byte
  tries : Nat
  deriving DecidableEq, Repr, Inhabited

/-- A link beside its registers (R170, R173, R174): the nonces, the link key, the LSEQ expected and the next one sent, the
replay buffer, the NAKs sent for the LSEQ expected, a retry due after a failed training, the time election's view over the link
(PRIO, master, depth), and a firmware package being sent or taken over it (R467). -/
structure BrlLink where
  nonce : List Byte
  peerNonce : List Byte
  key : Option (List Byte)
  rxSeq : Nat
  txSeq : Nat
  replay : List BrlTx
  naks : Nat
  retry : Bool
  time : Option (Nat × Nat × Nat)
  boot : Bool
  deriving DecidableEq, Repr, Inhabited

/-- A mirror being received (R186): the cycle record's fields, and the lines that have arrived. -/
structure Mirror where
  cycle : Nat
  tnow : Nat
  edit : Bool
  nin : Nat
  ndirty : Nat
  nsync : Nat
  ocrc : Nat
  input : Tbl (List Byte)
  tracked : Tbl (List Byte)
  deriving DecidableEq, Repr, Inhabited

/-- Hot-standby per Pan (R185 to R189, R194): the lines written since the last boundary, the lines a full transfer still has to
send or to receive, the mirror being received, whether the standby runs logic, the blocks of an edit it has checked, the
blocks of the primary's edit that the standby may not have applied, with the edit's swap cycle, and whether an old primary waits
for the first marker after a handover (R192). -/
structure HsPan where
  dirty : List Nat
  left : List Nat
  mir : Option Mirror
  logic : Bool
  check : List Nat
  lastEdit : Tbl (List Byte)
  editC : Nat
  handed : Bool
  deriving DecidableEq, Repr, Inhabited

/-- An edit request that waits for the partner's reply (R194): the request, the SEQ sent, the Pan, whether it is a check, and
the staged bytes or the blocks of a commit. -/
structure HsEdit where
  key : RKey
  seq : Nat
  pan : Nat
  check : Bool
  block : Nat
  off : Nat
  data : List Byte
  blocks : List Nat
  deriving DecidableEq, Repr, Inhabited

/-- Hot-standby: heartbeats stopped (R184), a loss declared and the takeover awaited (R190), a planned handover with its
boundary in µs of DTIME and its request (R192), an old primary whose outputs turn off at the first marker, and the edit that
awaits the partner (R194). -/
structure HsSt where
  stopped : Bool
  loss : Bool
  plan : Option (Nat × Option RKey)
  offDue : Bool
  pans : Tbl HsPan
  edit : Option HsEdit
  deriving DecidableEq, Repr, Inhabited

/-- Brineline: links, routes, sequence numbers of presence and broadcast frames (R176, R178), port 1 split (R169), and
hot-standby. -/
structure RingSt where
  links : Tbl BrlLink
  routes : List Route
  presSeq : Nat
  bseqOut : Nat
  bseqIn : Tbl Nat
  split : Bool
  hs : HsSt
  deriving DecidableEq, Repr, Inhabited

end Sys2Proof.Machine
end

