-- ==== Sys2Proof/Machine/TypesSol.lean ====
section
/-! DEFINITION. State of the solenoid and contactor drivers beside their registers (R288 to R307). Types only. -/
namespace Sys2Proof.Machine

/-- A queued command (R294, R297): 0 to 31 ON(p), 0x80 OFF, 0x81 CLEAR; its due time in µs of DTIME; whether it is late, was
late on arrival, is held under HOLD; the request it completes; whether it came from the image. -/
structure SolCmd where
  code : Nat
  due : Option Nat
  dtime : Nat
  late : Bool
  arr : Bool
  held : Bool
  req : Option RKey
  image : Bool
  deriving DecidableEq, Repr, Inhabited

/-- The kink search (R300): 0 not yet in this profile, 1 RISE, 2 DIP, 3 VOLT, 4 ended; the sample number, the last F current
and voltage samples, newest first, and the extremes as sums over F samples; `past` that its phase has ended, `cut` by a protection,
the gate, VSOL or EN = 0. -/
structure SolKink where
  mode : Nat
  k : Nat
  ia : List Nat
  va : List Int
  imax : Nat
  imin : Nat
  vmax : Int
  km : Nat
  kv : Nat
  past : Bool
  cut : Bool
  deriving DecidableEq, Repr, Inhabited

/-- One channel. `ph` are the phases copied at the start (R293), `start` and `phAt` the start of the profile and of the phase,
`hs`, `ls` the switches and `clamp` the clamp code in use (R289), `regulating` that the current has reached the target (R300);
`pend` a latch pending in DRAIN (R307), `hot` a junction above TSD − THYS, `on` the ON in progress awaiting its completion
(R296), `reached` that this profile has reached a persistent phase or WAITOFF, `pk` since when PK time is uncharged, `buckets` the duty buckets in µs, newest first (R299), `prev` the image's ON at
the last apply strobe (R295), `own` and `ownI` the channel's own mean and instantaneous current in mA (R302). -/
structure SolCh where
  q : List SolCmd
  ph : List (Nat × Nat)
  start : Nat
  phAt : Nat
  hs : Bool
  ls : Bool
  clamp : Nat
  regulating : Bool
  kink : SolKink
  pend : Bool
  hot : Bool
  on : Option RKey
  reached : Bool
  pk : Option Nat
  buckets : List Nat
  prev : Bool
  own : Nat
  ownI : Nat
  deriving DecidableEq, Repr, Inhabited

/-- The SOL block: channels, and the installed profile table by 8p + k (R292). -/
structure SolSt where
  ch : Tbl SolCh
  prof : Tbl (Nat × Nat)
  deriving DecidableEq, Repr, Inhabited

end Sys2Proof.Machine
end

