-- ==== Sys2Proof/Machine/TypesTime.lean ====
section
/-! DEFINITION. State of the Ethernet MACs and the TIME block (R250 to R262) beside their registers. Types only. -/
namespace Sys2Proof.Machine

/-- One MAC: when MODE left 0 (R474), the ball set waiting for its release, and the timestamp of the last frame received (R255). -/
structure EthCh where
  modeAt : Nat
  rel : Bool
  stamp : Int
  deriving DecidableEq, Repr, Inhabited

/-- The PTP slave (R254): the last Sync's sequence number, its receive time and whether its Follow_Up is awaited; the last
Delay_Req or Pdelay_Req's number and transmit time; the peer's receive time and the receive time of a Pdelay_Resp that awaits
its Follow_Up; the mean path delay; t2 − t1 of the last Sync. All in ns. `mac` is the MAC that
PTP runs on under SRC 4 (R254, R257). -/
structure PtpSt where
  syncSeq : Nat
  syncWait : Bool
  t2 : Int
  msd : Int
  reqSeq : Nat
  reqWait : Bool
  t3 : Int
  pWait : Bool
  pReq : Int
  pRx : Int
  delay : Int
  mac : Nat
  deriving DecidableEq, Repr, Inhabited

/-- The time base: the 32-bit fraction of DTIME (R256), TIME_STEP_L as written, consecutive measurements below and above the
lock threshold (R257), PTP, the MACs, and the IPv4 settings (R251). -/
structure TimeSt where
  frac : Nat
  stepL : Nat
  below : Nat
  above : Nat
  ptp : PtpSt
  eth : Tbl EthCh
  ip : Nat
  mask : Nat
  gateway : Nat
  deriving DecidableEq, Repr, Inhabited

end Sys2Proof.Machine
end

