-- ==== Sys2Proof/Machine/State.lean ====
section
/-! DEFINITION. The machine's state as plain data, its faults and refusals, and the state right after reset. -/
namespace Sys2Proof.Machine

/-- Why the machine stops with a fault. -/
inductive Fault where
  /-- No meaning raises it: every condition the spec names for a command is a next state of the block. Safe. -/
  | stuck
  deriving DecidableEq, Repr

/-- Why a command is refused. -/
inductive Refusal where
  /-- Raised by the arm of a command that has no meaning yet; the string is its mnemonic. Safe. -/
  | notModelled (mnemonic : String)
  deriving DecidableEq, Repr

/-- The block's state. -/
structure State where
  /-- the registers that differ from their reset value: address and word, addresses rising (R4, R8) -/
  regs : List (Nat × Word)
  /-- the memory bytes that differ from what an unlisted address reads as (R19) -/
  mem : List Host.Cell
  /-- the Steward's local RAM (R100), which the address map does not reach -/
  stewRam : List Host.Cell
  /-- nanoseconds since the last L0 reset: the block's own clock -/
  now : Nat
  /-- DTIME in nanoseconds (R257 to R260) -/
  dtime : Nat
  /-- how many free values have been used: the model's own counter -/
  freeCtr : Nat
  /-- what has left the device, oldest first: the model's own record of its outputs -/
  out : List Out
  panA : FkCore
  panB : FkCore
  stew : FkCore
  /-- ECC words in error: the word's address divided by 4, 1 correctable or 2 uncorrectable (R100, R102 to R104). Stores without
  an address of R19 stand above 2^32: see `tlbStore`, `stbStore`, `iotlbStore`, `stewStore` -/
  ecc : Tbl Nat
  /-- pending latches of pulse sources: source and a mask of targets (R126) -/
  latch : Tbl Nat
  /-- Rake trigger pulses delivered and not yet served: a mask of RTRIG inputs (R129) -/
  rtrig : Nat
  /-- cores whose wait at WFE has met a pending event since it began (R74): bit c is core c -/
  wakes : Nat
  dma : DmaSt
  cmd : CmdSt
  ring : RingSt
  encl : EnclSt
  crust : CrustSt
  upd : UpdSt
  /-- settings in the Crust store that the Steward loads at each start-up: register address and word -/
  settings : List (Nat × Word)
  /-- session idle timeout in s, from settings (R45) -/
  idleS : Nat
  /-- component versions as IDENTIFY reports them (R39, R466): BOOT2, STEWARD, PANRT, ENCLAVE, POWERSEQ, ACCFW -/
  versions : List Nat
  pA : PanSt
  pB : PanSt
  rake : RakeSt
  hss : HssSt
  sol : SolSt
  dio : DioSt
  led : LedSt
  acc : AccSt
  can : CanSt
  time : TimeSt
  /-- power, reset, parking and the RTC (R427 to R470) -/
  pwr : PwrSt
  /-- the debug port and the TAP (R486 to R497) -/
  dbg : DbgSt
  /-- the logic die is at TWARN or above (R444) -/
  thermWarn : Bool
  /-- islands a bridge refuses crossings to (unpowered, clock stopped or held in reset): bit i is island i of R15, with ETH_1 apart as bit 14 -/
  islHeld : Nat
  /-- owners in PINOWN that are not the Steward: resource identifier and owner code (R478) -/
  own : Tbl Nat
  /-- GPIO channels that have had their first command: bit n (R483, R161) -/
  gpioOn : Nat
  /-- reset sources requested and not yet taken: source number and requested level (R454) -/
  rstReq : List (Nat × Option Nat)
  /-- the commands waiting, first in first out -/
  pending : List Instr
  deriving DecidableEq, Repr

/-- A core as reset leaves it (R62, R91, R99, R464): `xvb` its vector base. -/
def FkCore.atReset (xvb : Word) : FkCore :=
  { (default : FkCore) with psr := 0x000A0000#32, xvb := xvb, pc := xvb, run := .held }

/-- The block right after reset. -/
def State.reset : State where
  regs := []
  mem := []
  stewRam := []
  now := 0
  dtime := 0
  freeCtr := 0
  out := []
  panA := FkCore.atReset 0x08000000#32
  panB := FkCore.atReset 0x08800000#32
  stew := FkCore.atReset 0xFFFF0000#32
  ecc := []
  latch := []
  rtrig := 0
  wakes := 0
  dma := default
  cmd := default
  ring := default
  encl := default
  crust := default
  upd := default
  settings := []
  idleS := 60
  versions := [0, 0, 0, 0, 0, 0]
  pA := default
  pB := default
  rake := default
  hss := default
  sol := default
  dio := default
  led := default
  acc := default
  can := default
  time := default
  pwr := { (default : PwrSt) with rail := 1, bring := some 0, rstOut := true }
  dbg := default
  thermWarn := false
  islHeld := 0x6FFF
  own := []
  gpioOn := 0
  rstReq := []
  pending := []

end Sys2Proof.Machine
end

