-- ==== Sys2Proof/Machine/Base.lean ====
section
/-! DEFINITION. The register file, memory, free values and what leaves the device: the operations under every other. -/
namespace Sys2Proof.Machine

/-! Registers (R4 to R8). -/

/-- The word of the register at `a` in a register file: its reset word where none is listed (R8). -/
def regFileGet (r : List (Nat × Word)) (a : Nat) : Word := (tblFind r a).getD (resetWord a)

/-- A register file with the word at `a` set; a register at its reset word is not listed. -/
def regFileSet : List (Nat × Word) → Nat → Word → List (Nat × Word)
  | [], a, w => if w = resetWord a then [] else [(a, w)]
  | (j, y) :: t, a, w =>
    if j = a then (if w = resetWord a then t else (a, w) :: t)
    else if a < j then (if w = resetWord a then (j, y) :: t else (a, w) :: (j, y) :: t)
    else (j, y) :: regFileSet t a w

/-- The stored word of the register at an address. -/
def State.reg (s : State) (a : Nat) : Word := regFileGet s.regs a

/-- Store a register's word. -/
def State.setReg (s : State) (a : Nat) (w : Word) : State := { s with regs := regFileSet s.regs a w }

/-- The value of a register field. -/
def State.f (s : State) (x : Fld) : Nat := bits (s.reg x.addr).toNat x.hi x.lo

/-- Store a register field, cut to its width. -/
def State.setF (s : State) (x : Fld) (v : Nat) : State :=
  s.setReg x.addr (toW (putBits (s.reg x.addr).toNat x.hi x.lo v))

/-- A one-bit field as a truth value. -/
def State.flag (s : State) (x : Fld) : Bool := s.f x == 1

/-- Store a one-bit field. -/
def State.setFlag (s : State) (x : Fld) (b : Bool) : State := s.setF x (b2n b)

/-- Bit `k` of a field. -/
def State.fbit (s : State) (x : Fld) (k : Nat) : Bool := bit (s.f x) k

/-- Set bit `k` of a field. -/
def State.setFbit (s : State) (x : Fld) (k : Nat) (b : Bool) : State := s.setF x (putBit (s.f x) k b)

/-- A counter field moved up by `n`, stopping at its largest value. -/
def State.incF (s : State) (x : Fld) (n : Nat) : State :=
  s.setF x (satAdd (2 ^ (x.hi + 1 - x.lo) - 1) (s.f x) n)

/-- A field moved down by one, stopping at 0. -/
def State.decF (s : State) (x : Fld) : State := s.setF x (s.f x - 1)

/-- Do a change only when a condition holds. -/
def State.when (s : State) (c : Bool) (f : State → State) : State := if c then f s else s

/-! Free values: what the spec leaves open. -/

/-- The free value the next open point takes. -/
def State.freeNat (s : State) : Nat := Config.freeValue s.freeCtr

/-- Move past a used free value. -/
def State.useFree (s : State) : State := { s with freeCtr := s.freeCtr + 1 }

/-! Memory (R19, R105). -/

/-- What an unlisted address reads as: erased flash reads 0xFF, every other memory 0 (R105). -/
def blankByte (a : Nat) : Byte := if 0x10000000 ≤ a ∧ a < 0x14000000 then 0xFF#8 else 0#8

/-- The byte at an address. -/
def memGet : List Host.Cell → Nat → Byte
  | [], a => blankByte a
  | (k, b) :: m, a => if k = a then b else if a < k then blankByte a else memGet m a

/-- Memory with the byte at `a` set, in canonical form: a byte equal to what an unlisted address reads as is not listed. -/
def memSet : List Host.Cell → Nat → Byte → List Host.Cell
  | [], a, b => if b = blankByte a then [] else [(a, b)]
  | (k, c) :: m, a, b =>
    if k = a then (if b = blankByte a then m else (a, b) :: m)
    else if a < k then (if b = blankByte a then (k, c) :: m else (a, b) :: (k, c) :: m)
    else (k, c) :: memSet m a b

/-- The canonical form: addresses strictly rising, no cell equal to what an unlisted address reads as. -/
def memWf : List Host.Cell → Bool
  | [] => true
  | (k, b) :: m => decide (b ≠ blankByte k) && (match m with | [] => true | (j, _) :: _ => decide (k < j)) && memWf m

/-- `n` bytes from an address. -/
def memBytes (m : List Host.Cell) (a : Nat) : Nat → List Byte
  | 0 => []
  | n + 1 => memGet m a :: memBytes m (a + 1) n

/-- Memory with a list of bytes stored from an address. -/
def memPut (m : List Host.Cell) (a : Nat) : List Byte → List Host.Cell
  | [] => m
  | b :: bs => memPut (memSet m a b) (a + 1) bs

/-- The cells of a range moved to another range, the target's own cells replaced (both of `n` bytes). -/
def memCopy (m : List Host.Cell) (src dst n : Nat) : List Host.Cell :=
  m.filter (fun c => decide (c.1 < dst)) ++
  ((m.filter (fun c => decide (src ≤ c.1) && decide (c.1 < src + n))).map (fun c => (c.1 - src + dst, c.2))) ++
  m.filter (fun c => decide (dst + n ≤ c.1))

/-- A range set to its blank content. -/
def memClear (m : List Host.Cell) (a n : Nat) : List Host.Cell :=
  m.filter (fun c => decide (c.1 < a) || decide (a + n ≤ c.1))

/-- The `n`-byte little-endian value at an address (R3). -/
def State.mget (s : State) (a n : Nat) : Nat := leVal (memBytes s.mem a n)

/-- Bytes of the ECC word at an address (R100): 8 in shared SRAM, the I-TCMs and the journal, 4 elsewhere. -/
def eccBytes (a : Nat) : Nat :=
  if a < 0x01800000 ∨ (0x08000000 ≤ a ∧ a < 0x08100000) ∨ (0x08800000 ≤ a ∧ a < 0x08900000) ∨ (0x40028000 ≤ a ∧ a < 0x40030000)
  then 8 else 4

/-- The words in error that `n` bytes from `a` touch (R100, R102, R103). -/
def eccHits (t : Tbl Nat) (a n : Nat) : Tbl Nat :=
  t.filter (fun x => decide (4 * x.1 < a + n) && decide (a < 4 * x.1 + eccBytes (4 * x.1)))

/-- The errors left once `n` bytes from `a` are written: a word that is written is in error no longer (R103). A store narrower
than the word merges with what the word then reads as, without a count (DESIGN CHOICE, log 146). -/
def eccClear (t : Tbl Nat) (a n : Nat) : Tbl Nat :=
  t.filter (fun x => !(decide (4 * x.1 < a + n) && decide (a < 4 * x.1 + eccBytes (4 * x.1))))

/-- Store an `n`-byte little-endian value (R3). -/
def State.mput (s : State) (a n v : Nat) : State :=
  { s with mem := memPut s.mem a (leBytes n v), ecc := eccClear s.ecc a n }

/-- The bytes at an address. -/
def State.mbytes (s : State) (a n : Nat) : List Byte := memBytes s.mem a n

/-- Store bytes. -/
def State.mputBytes (s : State) (a : Nat) (bs : List Byte) : State :=
  { s with mem := memPut s.mem a bs, ecc := eccClear s.ecc a bs.length }

/-! What leaves the device. -/

/-- Record something that leaves the device. -/
def State.emit (s : State) (p : OutPort) (d : List Byte) : State := { s with out := s.out ++ [⟨p, d⟩] }

end Sys2Proof.Machine
end

