-- ==== Sys2Proof/Machine/IsoTp.lean ====
section
/-! DEFINITION. ISO 15765-2 on one CAN channel (R54): building frames and running transmissions. The frame formats are those of
ISO 15765-2 itself, which R54 names and does not repeat (PRESUMED). -/
namespace Sys2Proof.Machine

/-- Bytes of a CAN FD frame that holds `n` bytes. -/
def isoFdLen (n : Nat) : Nat :=
  if n ≤ 8 then n else if n ≤ 12 then 12 else if n ≤ 16 then 16 else if n ≤ 20 then 20 else if n ≤ 24 then 24
  else if n ≤ 32 then 32 else if n ≤ 48 then 48 else 64

/-- Pad to a length that a CAN frame has. -/
def isoPad (b : List Byte) : List Byte := b ++ List.replicate (isoFdLen b.length - b.length) 0xCC#8

/-- Most bytes of a frame's data field. -/
def isoDl (fd : Bool) : Nat := if fd then 64 else 8

/-- Most bytes of a message that one single frame carries. -/
def isoSfMax (fd : Bool) : Nat := if fd then 62 else 7

/-- A single frame. -/
def isoSf (b : List Byte) : List Byte :=
  if b.length ≤ 7 then leBytes 1 b.length ++ b else isoPad (leBytes 1 0 ++ leBytes 1 b.length ++ b)

/-- A first frame. -/
def isoFf (fd : Bool) (b : List Byte) : List Byte :=
  leBytes 1 (16 + b.length / 256) ++ leBytes 1 b.length ++ b.take (isoDl fd - 2)

/-- A consecutive frame. -/
def isoCf (fd : Bool) (sn : Nat) (b : List Byte) : List Byte := isoPad (leBytes 1 (32 + sn) ++ b.take (isoDl fd - 1))

/-- Start the queue's transmissions: single frames go at once, the first longer message sends its first frame and waits for flow
control. What stays queued, how much of its head has gone, the frames. -/
def isoPump (fd : Bool) : List (List Byte) → List (List Byte) × Nat × List (List Byte)
  | [] => ([], 0, [])
  | b :: t =>
    if b.length ≤ isoSfMax fd then
      let r := isoPump fd t
      (r.1, r.2.1, isoSf b :: r.2.2)
    else (b :: t, isoDl fd - 2, [isoFf fd b])

/-- Change the transport's state. -/
def State.modIso (s : State) (g : IsoTp → IsoTp) : State := { s with cmd := { s.cmd with isotp := g s.cmd.isotp } }

/-- Frames for the transport's channel: they wait for its transmit object 63 (R54, R222). -/
def State.isoEmit (s : State) (fs : List (List Byte)) : State := s.modIso (fun x => { x with txf := x.txf ++ fs })

/-- Start what waits, when no segmented transmission runs. -/
def State.isoKick (s : State) : State :=
  if s.cmd.isotp.txOff ≠ 0 then s else
  let r := isoPump (s.flag F.CMD_ISOTP_CFG_FD) s.cmd.isotp.txq
  (s.modIso (fun x => { x with txq := r.1, txOff := r.2.1, txSn := 1 })).isoEmit r.2.2

/-- A packet for the transport; with EN = 0 there is no channel to send it on. -/
def State.isoSend (s : State) (b : List Byte) : State :=
  if s.flag F.CMD_ISOTP_CFG_EN then (s.modIso (fun x => { x with txq := x.txq ++ [b] })).isoKick else s

/-- Up to `n` consecutive frames of a message from offset `off`: the frames, and where the transmission then stands. -/
def isoBlock (fd : Bool) (b : List Byte) : Nat → Nat → Nat → List (List Byte) × Nat × Nat
  | 0, off, sn => ([], off, sn)
  | n + 1, off, sn =>
    if b.length ≤ off then ([], off, sn) else
    let r := isoBlock fd b n (off + (isoDl fd - 1)) ((sn + 1) % 16)
    (isoCf fd sn (b.drop off) :: r.1, r.2)

/-- A flow-control frame for the transmission that waits: clear to send with its block size (0: no limit), wait, or overflow,
which ends the transfer. -/
def State.isoFlow (s : State) (fs bs : Nat) : State :=
  match s.cmd.isotp.txq with
  | [] => s
  | b :: t =>
    if s.cmd.isotp.txOff = 0 then s
    else if fs = 0 then
      let r := isoBlock (s.flag F.CMD_ISOTP_CFG_FD) b (if bs = 0 then b.length else bs) s.cmd.isotp.txOff s.cmd.isotp.txSn
      let s1 := s.isoEmit r.1
      if b.length ≤ r.2.1 then (s1.modIso (fun x => { x with txq := t, txOff := 0 })).isoKick
      else s1.modIso (fun x => { x with txOff := r.2.1, txSn := r.2.2 })
    else if fs = 2 then (s.modIso (fun x => { x with txq := t, txOff := 0 })).isoKick
    else s

/-- The flow-control frame the device sends: clear to send, CMD_ISOTP_CFG's block size and STmin (R54). -/
def State.isoFc (s : State) : State :=
  s.isoEmit [leBytes 1 48 ++ leBytes 1 (s.f F.CMD_ISOTP_CFG_BS) ++ leBytes 1 (s.f F.CMD_ISOTP_CFG_STMIN)]

end Sys2Proof.Machine
end

