-- ==== Sys2Proof/Machine/Net.lean ====
section
/-! DEFINITION. The frames the MACs send (R51, R251, R252): Ethernet, IPv4 and UDP headers. Their layouts are those of IEEE 802.3,
RFC 791 and RFC 768, which the spec names and does not repeat (PRESUMED, log 157). The record of a frame runs from its destination
address to the end of its payload; padding and FCS are the MAC's. -/
namespace Sys2Proof.Machine

/-- `n` bytes of a number, most significant first: the order on an Ethernet. -/
def beBytes (n v : Nat) : List Byte := (leBytes n v).reverse

/-- The MAC's unicast address, byte 0 lowest. -/
def State.ethMac (s : State) (n : Nat) : Nat := (s.reg (A.ETH_MAC_L n)).toNat + 2 ^ 32 * s.f (F.ETH_MAC_H_ADDR n)

/-- The bytes of an Ethernet frame of the device up to its payload: addresses, tag, type (R252). -/
def State.ethHead (s : State) (n da type : Nat) : List Byte :=
  let tag := if s.flag (F.ETH_VLAN_TAG n)
    then beBytes 2 0x8100 ++ beBytes 2 (s.f (F.ETH_VLAN_VID n) + 2 ^ 13 * s.f (F.ETH_VLAN_PCP n)) else []
  leBytes 6 da ++ leBytes 6 (s.ethMac n) ++ tag ++ beBytes 2 type

/-- The sum of a list's 16-bit words, an odd byte at the end filled with zero. -/
def wordSum : List Byte → Nat
  | a :: b :: t => 256 * a.toNat + b.toNat + wordSum t
  | [a] => 256 * a.toNat
  | [] => 0

/-- The checksum of IPv4, UDP and ICMP: the complement of the ones' complement sum. -/
def netSum (b : List Byte) : Nat :=
  let n := wordSum b
  65535 - (if n = 0 then 0 else (n - 1) % 65535 + 1)

/-- An IPv4 header for a payload (R51, R251): "don't fragment" is set; what the spec gives no value for (identification, time to
live) is the device's. -/
def State.ipHead (s : State) (proto dst len : Nat) : List Byte :=
  let a := beBytes 2 0x4500 ++ beBytes 2 (20 + len) ++ beBytes 2 Config.ipIdent ++ beBytes 2 0x4000 ++ leBytes 1 Config.ipTtl ++ leBytes 1 proto
  let z := beBytes 4 s.time.ip ++ beBytes 4 dst
  a ++ beBytes 2 (netSum (a ++ z)) ++ z

/-- The station that a packet for an address goes to first: itself within the device's network, the gateway otherwise (R251). -/
def State.nextHop (s : State) (dst : Nat) : Nat :=
  if dst &&& s.time.mask = s.time.ip &&& s.time.mask then dst else s.time.gateway

/-- An IPv4 packet in an Ethernet frame to a MAC address. -/
def State.ipFrame (s : State) (n da proto dst : Nat) (b : List Byte) : List Byte :=
  s.ethHead n da 0x0800 ++ s.ipHead proto dst b.length ++ b

/-- A UDP datagram, its checksum over the pseudo-header. -/
def State.udpBytes (s : State) (dst sport dport : Nat) (b : List Byte) : List Byte :=
  let n := 8 + b.length
  let hd := beBytes 2 sport ++ beBytes 2 dport ++ beBytes 2 n
  let c := netSum (beBytes 4 s.time.ip ++ beBytes 4 dst ++ beBytes 2 17 ++ beBytes 2 n ++ hd ++ b)
  hd ++ beBytes 2 (if c = 0 then 65535 else c) ++ b

/-- UDP port of the Command Engine (R49). -/
def cmdPort : Nat := 47060

/-- The MAC is up: its link, and its descriptor engine, which a bus error stops until DMAERR is cleared (R250, R253). -/
def State.ethUp (s : State) (n : Nat) : Bool := s.flag (F.ETH_STAT_LINK n) && !s.flag (F.ETH_STAT_DMAERR n)

/-- A packet leaves on a transport towards an endpoint (R49): on UDP in an Ethernet frame of its MAC, when that is up (R51). The number
of a UDP endpoint is 65,536 times its IPv4 address plus its port (DESIGN CHOICE, log 158); the MAC address of the next hop is what
ARP gives, a value of the network. -/
def State.emitPkt (s : State) (tp ep : Nat) (b : List Byte) : State :=
  if tp = 1 ∨ tp = 2 then
    let dst := ep / 65536 % 2 ^ 32
    if !s.ethUp (tp - 1) then s
    else s.emit (.packet tp ep) (s.ipFrame (tp - 1) (Config.hopMac (s.nextHop dst)).toNat 17 dst (s.udpBytes dst cmdPort (ep % 65536) b))
  else s.emit (.packet tp ep) b

end Sys2Proof.Machine
end

