-- ==== Sys2Proof/Machine/Ops.lean ====
section
/-! DEFINITION. The named operations every meaning is built from: the Event Fabric's pulses and levels, Brineline frames,
notifications, the cores' registers, entering an exception and returning from one. -/
namespace Sys2Proof.Machine

/-! The Event Fabric (R125 to R131). -/

/-- The level sources; every other source is a pulse source (R126). -/
def levelSources : List Nat := [0, 6, 8, 67, 324, 327, 391, 418, 480, 1424, 1429]

/-- The sources that some chapter lists (R125); the others never become pending. -/
def sourceListed (k : Nat) : Bool :=
  decide (k ≤ 16) || (decide (32 ≤ k) && decide (k ≤ 39)) || (decide (64 ≤ k) && decide (k ≤ 67)) ||
  (decide (128 ≤ k) && decide (k ≤ 194)) || k == 208 || (decide (224 ≤ k) && decide (k ≤ 227)) ||
  (decide (256 ≤ k) && decide (k ≤ 281)) || (decide (320 ≤ k) && decide (k ≤ 338)) ||
  (decide (384 ≤ k) && decide (k ≤ 392)) || (decide (400 ≤ k) && decide (k ≤ 407)) ||
  (decide (416 ≤ k) && decide (k ≤ 421)) || (decide (432 ≤ k) && decide (k ≤ 441)) ||
  (decide (448 ≤ k) && decide (k ≤ 455)) || (decide (464 ≤ k) && decide (k ≤ 485)) ||
  (decide (496 ≤ k) && decide (k ≤ 498)) || (decide (512 ≤ k) && decide (k < 1024) && decide (k % 32 < 20)) ||
  (decide (1024 ≤ k) && decide (k ≤ 1186)) || (decide (1216 ≤ k) && decide (k ≤ 1255)) ||
  (decide (1264 ≤ k) && decide (k ≤ 1330)) || (decide (1344 ≤ k) && decide (k ≤ 1373)) ||
  (decide (1376 ≤ k) && decide (k ≤ 1419)) || (decide (1424 ≤ k) && decide (k ≤ 1436)) ||
  k == 1456 || (decide (1472 ≤ k) && decide (k < 1536))

/-- The W1C bit that records a source in its block, where the block has one (R58, R134, R167, R197, R224, R247, R261, R286,
R310, R328, R349, R371, R391, R407, R425, R444, R469, R484, R496). -/
def evtBit (k : Nat) : Option Fld :=
  let b (a i : Nat) : Option Fld := some ⟨a, i, i⟩
  if k < 8 then b A.SYSCTL_PWR_EVT k
  else if k < 17 then b A.SYSCTL_EVT (k - 8)
  else if k < 192 then none
  else if k < 195 then b A.DMA_EVT (k - 192)
  else if k < 224 then none
  else if k < 228 then b A.DBG_EVT (k - 224)
  else if k < 256 then none
  else if k < 282 then b A.RAKE_EVT (k - 256)
  else if k < 320 then none
  else if k < 339 then b A.RING_EVT (k - 320)
  else if k < 384 then none
  else if k < 388 then b (A.ETH_EVT ((k - 384) / 2)) ((k - 384) % 2)
  else if k < 393 then b A.TIME_EVT (k - 388)
  else if k < 400 then none
  else if k < 408 then b A.CMD_EVT (k - 400)
  else if k < 416 then none
  else if k < 422 then b A.CRUST_EVT (k - 416)
  else if k < 432 then none
  else if k < 442 then b A.UPD_EVT (k - 432)
  else if k < 448 then none
  else if k < 456 then b A.ENCL_EVT (k - 448)
  else if k < 464 then none
  else if k < 486 then b A.TIDE_EVT (k - 464)
  else if k < 496 then none
  else if k < 499 then b A.SLUICE_EVT (k - 496)
  else if k < 512 then none
  else if k < 1024 then b (A.CAN_EVT ((k - 512) / 32)) (k % 32)
  else if k < 1168 then b (A.HSS_N_FLT ((k - 1024) / 3)) ((k - 1024) % 3)
  else if k < 1186 then b (A.HSS_GRP_STAT ((k - 1168) / 3)) (16 + (k - 1168) % 3)
  else if k = 1186 then b A.HSS_EVT 0
  else if k < 1216 then none
  else if k < 1252 then b (A.SOL_N_FLT ((k - 1216) / 3)) ((k - 1216) % 3)
  else if k < 1256 then b A.SOL_EVT (k - 1252)
  else if k < 1264 then none
  else if k < 1296 then b A.DIO_EDGE_L (k - 1264)
  else if k < 1328 then b A.DIO_EDGE_H (k - 1296)
  else if k < 1331 then b A.DIO_EVT (k - 1328)
  else if k < 1344 then none
  else if k < 1374 then b A.MEAS_EVT (k - 1344)
  else if k < 1376 then none
  else if k < 1408 then b A.LED_EVT_L (k - 1376)
  else if k < 1420 then b A.LED_EVT_H (k - 1408)
  else if k < 1424 then none
  else if k < 1437 then b A.ACC_EVT (k - 1424)
  else if k = 1456 then b A.PINOWN_EVT 0
  else if 1472 ≤ k ∧ k < 1504 then b A.GPIO_EVT (k - 1472)
  else none

/-- A level source is asserted by its block. -/
def State.levelOn (s : State) (k : Nat) : Bool :=
  if k = 0 then s.flag F.SYSCTL_PWR_STAT_PFW
  else if k = 6 then s.thermWarn
  else if k = 8 then s.flag F.SYSCTL_RSTLAST_STORM
  else if k = 67 then s.flag F.IOMMU_FAULT_INFO_VALID
  else if k = 324 then s.flag F.RING_ADDR_CONFLICT
  else if k = 327 then s.flag F.RING_TIME_STAT_HOLDOVER
  else if k = 391 then s.flag F.TIME_STAT_HOLD
  else if k = 418 then decide (2 ≤ s.f F.CRUST_STAT_STATE) && decide (s.f F.CRUST_STAT_STATE ≤ 3) && decide (s.f F.CRUST_STAT_FREE ≤ 2)
  else if k = 480 then s.f F.TIDE_QPEND_QPEND != 0
  else if k = 1424 then s.flag F.ACC_GATE_CLOSED
  else if k = 1429 then s.flag F.ACC_STAT_LOCKOUT
  else false

/-- Record a source in its block's W1C bit. -/
def State.markEvt (s : State) (k : Nat) : State :=
  match evtBit k with
  | some x => s.setF x 1
  | none => s

/-- A pulse of source `k` reaches the fabric: its latches are set for the targets it is routed to, its Rake trigger pulsed; the
second result says that it met a latch already set (R126, R129, R131). -/
def State.latchPulse (s : State) (k : Nat) : State × Bool :=
  if s.flag F.EVT_CTRL_EN && sourceListed k && s.flag (F.EVT_SRC_CFG_EN k) then
    let old := tblGet s.latch k
    let tgt := s.f (F.EVT_SRC_CFG_TGT k)
    let s1 := { s with latch := if tgt = 0 then s.latch else tblSet s.latch k (old ||| tgt) }
    let s2 := if s.flag (F.EVT_SRC_CFG_RTEN k) then
        { s1 with rtrig := s1.rtrig ||| 2 ^ s.f (F.EVT_SRC_CFG_RTRIG k) } else s1
    (s2, (old &&& tgt) != 0)
  else (s, false)

/-- Source `k` is pending for target `t` (R126): latched if a pulse source, asserted and routed if a level source; enabled. -/
def State.pendingFor (s : State) (t k : Nat) : Bool :=
  s.flag (F.EVT_SRC_CFG_EN k) &&
  (if levelSources.contains k then s.levelOn k && s.fbit (F.EVT_SRC_CFG_TGT k) t else bit (tblGet s.latch k) t)

/-- The active mask of a target: bit `p` is level `p` (R127). -/
def State.activeMask (s : State) (t : Nat) : Nat :=
  s.f (F.EVT_TGT_ACT_L_ACT t) + 2 ^ 32 * s.f (F.EVT_TGT_ACT_H_ACT t)

/-- Store a target's active mask. -/
def State.setActiveMask (s : State) (t m : Nat) : State :=
  (s.setF (F.EVT_TGT_ACT_L_ACT t) (m % 2 ^ 32)).setF (F.EVT_TGT_ACT_H_ACT t) (m / 2 ^ 32)

/-- The running priority of a target: the highest active level, none when the mask is empty (R127). -/
def State.running (s : State) (t : Nat) : Option Nat := lastBelow 64 (fun p => bit (s.activeMask t) p)

/-- The level of a source is deliverable to a target (R127). -/
def State.levelDeliverable (s : State) (t p : Nat) : Bool :=
  s.flag F.EVT_CTRL_EN && decide (s.f (F.EVT_TGT_THR_THR t) ≤ p) &&
  (match s.running t with | none => true | some r => decide (r < p))

/-- The better of a candidate so far and a source: the higher level, then the lower number (R128). -/
def State.betterSrc (s : State) (t : Nat) (best : Option (Nat × Nat)) (k : Nat) : Option (Nat × Nat) :=
  let p := s.f (F.EVT_SRC_CFG_LEVEL k)
  if s.pendingFor t k && s.levelDeliverable t p then
    match best with
    | none => some (p, k)
    | some (q, j) => if q < p || (q == p && decide (k < j)) then some (p, k) else some (q, j)
  else best

/-- The highest deliverable source of a target, as level and number (R127, R128). -/
def State.topEvent (s : State) (t : Nat) : Option (Nat × Nat) :=
  (s.latch.map (·.1) ++ levelSources).foldl (s.betterSrc t) none

/-- A core's state. -/
def State.core (s : State) : CoreId → FkCore
  | .panA => s.panA
  | .panB => s.panB
  | .steward => s.stew

/-- The highest event deliverable to a core: an event is pending at the core when there is one (R127). -/
def State.coreEvent (s : State) (c : CoreId) : Option (Nat × Nat) := s.topEvent c.num

/-- The cores whose wait at WFE has met an event (R74): their bits in `wakes` are set and stay set until they go on, though
the event be cleared before. -/
def State.noteWakes (s : State) : State :=
  { s with wakes := [CoreId.panA, .panB, .steward].foldl (fun m c =>
      if (s.core c).run = .waiting && (s.coreEvent c).isSome then putBit m c.num true else m) s.wakes }

/-- Count a merged pulse and raise EVT_MERGED (R126). An EVT_MERGED pulse that itself meets a set latch is not counted and raises
no further one, and EVT_MERGED is latched without a notification (DESIGN CHOICE, log 142). -/
def State.merged (s : State) (k : Nat) : State :=
  let s1 := (s.incF F.EVT_MERGE_COUNT 1).setF F.EVT_MERGE_LAST k
  (s1.latchPulse 208).1

/-- Raise a source without a notification: its block's bit, its latches and trigger, a merge counted. -/
def State.raiseQuiet (s : State) (k : Nat) : State :=
  let (s1, m) := (s.markEvt k).latchPulse k
  (if m then s1.merged k else s1).noteWakes

/-! Brineline frames (R171 to R178). -/

/-- State of link `l`: 0 DOWN, 1 TRAIN, 2 AUTH, 3 UP, 4 FAULT (R198). -/
def State.linkSt (s : State) (l : Nat) : Nat := bits (s.f F.RING_STATUS_LINKS) (3 * l + 2) (3 * l)

/-- A link's state beside its registers. -/
def State.link (s : State) (l : Nat) : BrlLink := tblGet s.ring.links l

/-- Change a link's state beside its registers. -/
def State.modLink (s : State) (l : Nat) (g : BrlLink → BrlLink) : State :=
  { s with ring := { s.ring with links := tblMod s.ring.links l g } }

/-- The links that are UP. -/
def State.upLinks (s : State) : List Nat := (List.range 3).filter (fun l => s.linkSt l == 3)

/-- A frame's bytes up to its payload's end (R171). -/
def brlHead (kind lseq dst src hops bseq : Nat) (pl : List Byte) : List Byte :=
  leBytes 1 kind ++ leBytes 1 lseq ++ leBytes 2 dst ++ leBytes 2 src ++ leBytes 2 hops ++ leBytes 2 pl.length ++
  leBytes 2 bseq ++ pl

/-- The TAG of a command or update frame under the link key (R174). -/
def State.brlTag (s : State) (l : Nat) (hd : List Byte) : List Byte := (Config.cmac ((s.link l).key.getD []) hd).take 8

/-- A whole frame (R171). -/
def State.brlFrame (s : State) (l kind dst src hops bseq : Nat) (pl : List Byte) : List Byte :=
  let hd := brlHead kind (s.link l).txSeq dst src hops bseq pl
  let b := if kind ≤ 2 then hd ++ s.brlTag l hd else hd
  b ++ leBytes 4 (crc32c b)

/-- A replay buffer of 64 KiB (R173): the oldest frames leave it where it would hold more (DESIGN CHOICE, log 85). -/
def replayFit : List BrlTx → List BrlTx
  | [] => []
  | x :: t => if 65536 < ((x :: t).map (fun y => y.bytes.length)).sum then replayFit t else x :: t

/-- Send a frame on a link: it takes the next LSEQ and a copy stays in the replay buffer (R173). A link that is neither
UP nor in AUTH carries none. -/
def State.brlSend (s : State) (l kind dst src hops bseq : Nat) (pl : List Byte) : State :=
  if s.linkSt l != 3 && s.linkSt l != 2 then s else
  let b := s.brlFrame l kind dst src hops bseq pl
  (s.modLink l (fun x => { x with txSeq := (x.txSeq + 1) % 256, replay := replayFit (x.replay ++ [⟨x.txSeq, kind, b, 0⟩]) })).emit (.brl l kind dst) b

/-- A broadcast of the device's own: on every UP link, with its next BSEQ (R178). -/
def State.brlCast (s : State) (kind : Nat) (pl : List Byte) : State :=
  let b := (s.ring.bseqOut + 1) % 65536
  let s1 := { s with ring := { s.ring with bseqOut := b } }
  s1.upLinks.foldl (fun s l => s.brlSend l kind 0xFFF (s.f F.RING_ADDR_ADDR) 0 b pl) s1

/-- The link towards a device, when it has a route (R176, R177). -/
def State.routeTo (s : State) (dst : Nat) : Option Nat := (s.ring.routes.find? (fun r => r.addr == dst)).map (·.link)

/-- A command packet to a device, in a command frame of the device's own (R53, R174); none goes out without a route, nor while
the address is in conflict (R179). -/
def State.brlCmd (s : State) (dst : Nat) (b : List Byte) : State :=
  if s.flag F.RING_ADDR_CONFLICT then s else
  match s.routeTo dst with
  | some l => s.brlSend l 1 dst (s.f F.RING_ADDR_ADDR) 0 0 b
  | none => s

/-! Notifications and raising a source. -/

/-- The NOTIFY packet of an event for one transport (R39 0F/01, R42): TYPE 2, SEQ of the transport's own counter, no tag. -/
def State.notifyPkt (s : State) (k tp : Nat) : List Byte :=
  Pkt.bytes { ver := 1, dst := 0x2000, src := s.f F.RING_ADDR_ADDR, seq := tblGet s.cmd.notifySeq tp, grp := 0x0F, op := 1,
              sess := 0, stat := 0, flg := 0, payload := Config.notifyPayload k s.dtime (tblGet s.cmd.dropped tp), tag := [] }

/-- The transmit queue of a transport is full (R42). -/
def State.txFull (s : State) (tp : Nat) : Bool :=
  (tp == 0 && decide (Config.txQueueLen ≤ s.cmd.hostQ.length)) || (tp == 5 && decide (Config.txQueueLen ≤ s.cmd.isotp.txq.length))

/-- Notify one subscribed endpoint of an event, when its mask includes the event's class (R42): queued on the host port and on
ISO 15765-2, sent on the other transports, whose queues hold nothing here (log 159). When the transmit queue is full the
notification is dropped, CMD_QUEUE_DROP is raised and the next one sent carries DROPPED. -/
def State.notifyOne (k : Nat) (s : State) (b : Subscr) : State :=
  if bit b.mask (Config.notifyClass k) then
    let pkt := s.notifyPkt k b.tp
    let c := { s.cmd with dropped := tblSet s.cmd.dropped b.tp false,
                          notifySeq := tblSet s.cmd.notifySeq b.tp (tblGet s.cmd.notifySeq b.tp + 1) }
    if s.txFull b.tp then ({ s with cmd := { s.cmd with dropped := tblSet s.cmd.dropped b.tp true } }).raiseQuiet 407
    else if b.tp = 0 then { s with cmd := { c with hostQ := s.cmd.hostQ ++ [pkt] } }
    else if b.tp = 5 then ({ s with cmd := c }).isoSend pkt
    else if b.tp = 4 then ({ s with cmd := c }).brlCmd b.ep pkt
    else ({ s with cmd := c }).emitPkt b.tp b.ep pkt
  else s

/-- Raise a source (R126): its block's bit, latches, Rake trigger, merging, and the notifications of R42. -/
def State.raise (s : State) (k : Nat) : State := s.cmd.subs.foldl (State.notifyOne k) (s.raiseQuiet k)

/-- A level source changes from `was` to its present assertion: when it rises, its bit is set and it is notified. A level
source routed to a Rake trigger pulses it at the rise (R129). -/
def State.levelEdge (s : State) (k : Nat) (was : Bool) : State :=
  if s.levelOn k && !was then
    let s1 := s.markEvt k
    let s2 := if s.flag F.EVT_CTRL_EN && s.flag (F.EVT_SRC_CFG_EN k) && s.flag (F.EVT_SRC_CFG_RTEN k) then
        { s1 with rtrig := s1.rtrig ||| 2 ^ s1.f (F.EVT_SRC_CFG_RTRIG k) } else s1
    s2.noteWakes.cmd.subs.foldl (State.notifyOne k) s2.noteWakes
  else s

/-! The cores (R60 to R63). -/

/-- Store a core's state. -/
def State.setCore (s : State) (c : CoreId) (k : FkCore) : State :=
  match c with
  | .panA => { s with panA := k }
  | .panB => { s with panB := k }
  | .steward => { s with stew := k }

/-- A general register: W0 reads as 0 (R60). -/
def FkCore.rd (k : FkCore) (r : Fin 32) : Word := if r = 0 then 0#32 else k.w[r]

/-- Write a general register: writes to W0 are discarded (R60). -/
def FkCore.wr (k : FkCore) (r : Fin 32) (v : Word) : FkCore := if r = 0 then k else { k with w := k.w.set r v }

/-- A field of PSR. -/
def FkCore.psrBits (k : FkCore) (hi lo : Nat) : Nat := bits k.psr.toNat hi lo

/-- Store a field of PSR. -/
def FkCore.setPsr (k : FkCore) (hi lo v : Nat) : FkCore := { k with psr := toW (putBits k.psr.toNat hi lo v) }

/-- PSR.PL: 0 application, 1 runtime, 2 machine (R62). -/
def FkCore.pl (k : FkCore) : Nat := k.psrBits 17 16

/-- PSR.C as a number. -/
def FkCore.cy (k : FkCore) : Nat := k.psrBits 2 2

/-- The bit accumulator (R62 BITST). -/
def FkCore.ba (k : FkCore) : Bool := bit k.bitst.toNat 21

/-- Store the bit accumulator. -/
def FkCore.setBa (k : FkCore) (b : Bool) : FkCore := { k with bitst := toW (putBit k.bitst.toNat 21 b) }

/-- PSR.ABN: instructions remaining in an atomic block (R62, R75). -/
def FkCore.abn (k : FkCore) : Nat := k.psrBits 23 20

/-- The core issues instructions: it runs, or it waits at WFE and an event has become pending since the wait began (R74). -/
def State.issues (s : State) (c : CoreId) : Bool :=
  match (s.core c).run with
  | .running => true
  | .waiting => bit s.wakes c.num || (s.coreEvent c).isSome
  | _ => false

/-! The core clock (R62 CCNT, R75): 3.0 GHz on a Pan, 1.5 GHz on the Steward (R15, R447). -/

/-- Core clock cycles since the core left reset, at the time `now` of the block's clock (R62). -/
def FkCore.cycles (k : FkCore) (c : CoreId) (now : Nat) : Nat :=
  k.cyc + (now - k.cycAt) * 3 / (if c = .steward then 2 else 1)

/-- Cycles an instruction, a walk or an exception entry takes. -/
def FkCore.spend (k : FkCore) (n : Nat) : FkCore := { k with cyc := k.cyc + n }

/-- The core with its cycles counted up to `now`; an atomic block that is 78 cycles old has ended (R75). -/
def FkCore.sync (k : FkCore) (c : CoreId) (now : Nat) : FkCore :=
  let n := k.cycles c now
  let k1 := { k with cyc := n, cycAt := now }
  if k.abn ≠ 0 ∧ k.abAt + 78 ≤ n then k1.setPsr 23 20 0 else k1

/-- Core `c` issues its next instruction: it runs, a wait at WFE is over (R74), its cycles are counted up to now. -/
def State.begins (s : State) (c : CoreId) : State :=
  { s.setCore c { (s.core c).sync c s.now with run := .running } with wakes := putBit s.wakes c.num false }

/-- Core `c` spends cycles. -/
def State.spend (s : State) (c : CoreId) (n : Nat) : State := s.setCore c ((s.core c).spend n)

/-- A Pan's cyclic state. -/
def State.pan (s : State) : PanId → PanSt
  | .a => s.pA
  | .b => s.pB

/-- Store a Pan's cyclic state. -/
def State.setPan (s : State) (p : PanId) (x : PanSt) : State :=
  match p with
  | .a => { s with pA := x }
  | .b => { s with pB := x }

/-- Change a Pan's cyclic state. -/
def State.modPan (s : State) (p : PanId) (f : PanSt → PanSt) : State := s.setPan p (f (s.pan p))

/-! Resets are requested of the reset controller, which takes them together (R454). -/

/-- Request a reset source, with the level asked for when the source names one (R451, R458, R494). -/
def State.reqReset (s : State) (src : Nat) (lvl : Option Nat) : State :=
  { s with rstReq := if s.rstReq.contains (src, lvl) then s.rstReq else s.rstReq ++ [(src, lvl)] }

/-! Exceptions (R91 to R94). -/

/-- A synchronous exception or an event: vector, sub-cause, the address or immediate for XADDR where R91 gives one, and
whether XPC is the next instruction. -/
structure Exc where
  vec : Nat
  sub : Nat
  addr : Option Word
  next : Bool
  deriving DecidableEq, Repr

/-- The level a vector is entered at from level `pl` (R91). -/
def excLevel (vec pl : Nat) : Nat :=
  if vec = 0 ∨ vec = 10 then 2 else if pl = 2 then 2 else 1

/-- Exception entry (R93): XPC, XPSR, XBIT, XCAUSE and XADDR saved, the level of R91, IE 0, XA 1, ABN 0, BITST 0, PC at the
vector, after 6 core cycles. XPSR holds the ABN of the block that the entry ends (R75, R93). XADDR is a free value at the
vectors for which R91 names no content. -/
def State.enterExc (s : State) (c : CoreId) (e : Exc) : State :=
  let k := s.core c
  let k1 := { k.spend 6 with
    xpc := if e.next then k.pc + 4#32 else k.pc
    xpsr := k.psr
    xbit := k.bitst
    xcause := toW (e.vec % 16 + 16 * (e.sub % 256))
    xaddr := e.addr.getD (toW s.freeNat)
    bitst := 0#32
    run := .running
    pc := k.xvb + toW (16 * e.vec) }
  let k2 := (((k1.setPsr 17 16 (excLevel e.vec k.pl)).setPsr 18 18 0).setPsr 19 19 1).setPsr 23 20 0
  let s1 := s.setCore c k2
  if e.addr.isSome then s1 else s1.useFree

/-- The double-fault event of a core (R95). -/
def xfaultSrc (c : CoreId) : Nat := 32 + c.num

/-- A synchronous exception (R94): with XA set the core stops issuing and raises its double-fault event, its exception
registers unchanged; otherwise the entry of R93. -/
def State.syncExc (s : State) (c : CoreId) (e : Exc) : State :=
  let k := s.core c
  if k.psrBits 19 19 = 1 then (s.setCore c { k with run := .xfault }).raise (xfaultSrc c)
  else s.enterExc c e

/-- PSR bits that hold a field (R62). -/
def psrMask : Nat := 0x00FF1FFF

/-- A word as BITST takes it (R62): reserved bits 0, a DEPTH above 16 taken as 16. -/
def normBitst (w : Word) : Word :=
  let x := w.toNat % 2 ^ 22
  toW (if 16 < bits x 20 16 then putBits x 20 16 16 else x)

/-- Return from exception (R93): PSR := XPSR, BITST := XBIT, PC := XPC. Reserved bits stay 0, and a saved PL of 0b11, which
PSR never takes (R62), leaves PL as it is. R93 checks no alignment of XPC: the core goes on at the PC as it is, whatever its
bits [1:0] (DESIGN CHOICE, log 143); a fetch reads the four bytes from there. -/
def State.eret (s : State) (c : CoreId) : State :=
  let k := s.core c
  let p := k.xpsr.toNat &&& psrMask
  let p1 := if bits p 17 16 = 3 then putBits p 17 16 k.pl else p
  s.setCore c { k with psr := toW p1, bitst := normBitst k.xbit, pc := k.xpc }

end Sys2Proof.Machine
end

