-- ==== Sys2Proof/Machine/Crust.lean ====
section
/-! DEFINITION. The Crust store's own operations (R393 to R405): records, pages, counters, the log ring, space, compaction. -/
namespace Sys2Proof.Machine

/-- Erased general sectors (R402, R408). -/
def CrustSt.freeGen (c : CrustSt) : Nat := countBelow 10 (fun i => (tblGet c.secs i).st == 0)

/-- Change the store; CRUST_STAT follows, and CRUST_LOW when only the reserve is left (R402, R407, R408). -/
def State.modCrust (s : State) (g : CrustSt → CrustSt) : State :=
  let was := s.levelOn 418
  let s1 := { s with crust := g s.crust }
  let s2 := (s1.setF F.CRUST_STAT_FREE s1.crust.freeGen).setF F.CRUST_STAT_QUEUED s1.crust.queue.length
  s2.levelEdge 418 was

/-- The store serves reads and writes: VERIFY or READY (R400). -/
def State.crustServes (s : State) : Bool := s.f F.CRUST_STAT_STATE == 2 || s.f F.CRUST_STAT_STATE == 3

/-- Bytes of a record in flash: header and payload, padded to 16 (R394). -/
def recBytes (n : Nat) : Nat := cdiv (16 + n) 16 * 16

/-- The open general sector. -/
def CrustSt.openSec (c : CrustSt) : Option Nat := firstBelow 10 (fun i => (tblGet c.secs i).st == 1)

/-- Make room for `n` bytes (R393, R395, R402): in the open sector, or in an erased one, the reserve used only when allowed.
The sector that takes them is the result. -/
def CrustSt.place (c : CrustSt) (seq n : Nat) (reserve : Bool) : Option (CrustSt × Nat) :=
  let fresh (c : CrustSt) : Option (CrustSt × Nat) :=
    if c.freeGen ≤ (if reserve then 0 else 2) then none else
    (firstBelow 10 (fun i => (tblGet c.secs i).st == 0)).map (fun i =>
      ({ c with secs := tblMod c.secs i (fun x => { x with st := 1, sseq := seq, used := 16 + n }) }, i))
  match c.openSec with
  | none => fresh c
  | some i =>
    let x := tblGet c.secs i
    if x.used + n ≤ 32768 then some ({ c with secs := tblSet c.secs i { x with used := x.used + n } }, i)
    else if c.freeGen ≤ (if reserve then 0 else 2) then none
    else fresh { c with secs := tblSet c.secs i { x with st := 2 } }

/-- An INDEX group is written (R400). -/
def State.crustIndex (s : State) : State :=
  let seq := s.f F.CRUST_SEQ_SEQ
  let c := match s.crust.place seq Config.indexBytes true with
    | some (c, _) => c
    | none => s.crust
  (s.modCrust (fun _ => { c with sinceIdx := 0 })).setF F.CRUST_SEQ_SEQ (seq + Config.indexRecs)

/-- Append a general record with the next SEQ (R394, R405); none when there is no room. An INDEX group that falls due is left
to the caller. -/
def State.crustPut (s : State) (typ key schema : Nat) (pl : List Byte) (reserve trial : Bool) (bank : Nat) : Option State :=
  let seq := (s.f F.CRUST_SEQ_SEQ + 1) % 2 ^ 32
  match s.crust.place seq (recBytes pl.length) reserve with
  | none => none
  | some (c, i) =>
    let r : CrustRec := { sec := i, typ := typ, trial := trial, bank := bank, key := key, schema := schema, seq := seq,
                          payload := pl, good := true }
    some ((s.modCrust (fun _ => { c with recs := c.recs ++ [r], sinceIdx := c.sinceIdx + 1 })).setF F.CRUST_SEQ_SEQ seq)

/-- The INDEX group due every 512 general records (R400). -/
def State.crustIndexDue (s : State) : State := if 512 ≤ s.crust.sinceIdx then s.crustIndex else s

/-- Append a general record and the INDEX group due after it (R394, R400, R405); none when there is no room. -/
def State.crustAppend (s : State) (typ key schema : Nat) (pl : List Byte) (reserve trial : Bool) (bank : Nat) : Option State :=
  (s.crustPut typ key schema pl reserve trial bank).map State.crustIndexDue

/-- A record is in force (R395, R405): its CRC matches, and it is ordinary or a TRIAL record of the running bank. -/
def CrustRec.inForce (r : CrustRec) (bank : Nat) : Bool := r.good && (!r.trial || r.bank == bank)

/-- The newest in-force record of a type and key (R395, R405). -/
def State.crustFind (s : State) (typ key : Nat) : Option CrustRec :=
  s.crust.recs.reverse.find? (fun r => r.typ == typ && r.key == key && r.inForce (s.f F.UPD_STAT_BANK))

/-- The 64 bytes of a page (R396). -/
def State.page (s : State) (p : Nat) : List Byte :=
  match s.crustFind 1 p with
  | some r => r.payload
  | none => List.replicate 64 0#8

/-- The value of a counter (R398). -/
def State.counter (s : State) (k : Nat) : Nat :=
  match s.crustFind 2 k with
  | some r => leVal r.payload
  | none => 0

/-- A page after a write that wraps within it (R397). -/
def pageMerge (pg : List Byte) (o : Nat) (d : List Byte) : List Byte :=
  (List.range 64).map (fun i => (d[(i + 64 - o % 64) % 64]?).getD ((pg[i]?).getD 0#8))

/-- The component that owns a page, 0 for the application (R396). -/
def pageOwner (p : Nat) : Nat :=
  if p < 0x100 then 2 else if p < 0x140 then 3 else if p < 0x180 then 6 else if p < 0x1A0 then 5 else if p < 0x1C0 then 1 else 0

/-- The page may be written (R396, R406). -/
def pageOk (p : Nat) : Bool := decide (p < 0x1C0) || (decide (0x200 ≤ p) && decide (p < 0x400))

/-- Base of a bank in the read-mapped flash (R409). -/
def bankBase (b : Nat) : Nat := 0x10000000 + b * 0x1800000

/-- Base of the firmware set that runs: its bank, or shared SRAM after a recovery boot (R409, R466). -/
def State.setBase (s : State) : Nat := if s.upd.recov = 0 then bankBase (s.f F.UPD_STAT_BANK) else 0x00800000

/-- The schema number the running component declares as current: SMAX of its manifest entry (R404, R411). -/
def State.schemaOf (s : State) (comp : Nat) : Nat :=
  if comp = 0 then 0 else s.mget (s.setBase + 16 + 144 * (comp - 1) + 30) 2

/-- CRUST_STAT.RESULT of a port request (R408). -/
def State.crustResult (s : State) (c : Nat) : State := s.setF F.CRUST_STAT_RESULT c

/-! The log ring (R399). -/

/-- One bit of CRC-16, polynomial 0x1021. -/
def crc16Bit (c : Nat) : Nat := if bit c 15 then (c * 2 % 65536) ^^^ 0x1021 else c * 2

/-- CRC-16 of a log entry's bytes, initial value 0xFFFF (R399). -/
def crc16 (bs : List Byte) : Nat :=
  bs.foldl (fun c b => crc16Bit (crc16Bit (crc16Bit (crc16Bit (crc16Bit (crc16Bit (crc16Bit (crc16Bit
    (c ^^^ (b.toNat * 256)))))))))) 0xFFFF

/-- The 16 bytes of a log entry (R399). -/
def LogEnt.bytes (e : LogEnt) : List Byte :=
  let b := leBytes 4 e.lseq ++ leBytes 4 e.ts ++ leBytes 4 e.arg ++ leBytes 2 e.code
  b ++ leBytes 2 (crc16 b)

/-- The reported part of the log: its newest 8,192 entries (R399). -/
def CrustSt.reported (c : CrustSt) : List LogEnt := c.log.drop (c.log.length - 8192)

/-- CRUST_LOGNEW and CRUST_LOGOLD follow the ring (R408). -/
def State.logRegs (s : State) : State :=
  match s.crust.reported.head?, s.crust.log.getLast? with
  | some o, some n => (s.setF F.CRUST_LOGNEW_LSEQ n.lseq).setF F.CRUST_LOGOLD_LSEQ o.lseq
  | _, _ => s

/-- The ring moves into the next sector when the one being written is full; false when that one is not yet erased (R399). -/
def CrustSt.logRoom (c : CrustSt) : Option CrustSt :=
  if c.logCnt < 2047 then some { c with secs := tblMod c.secs (10 + c.logCur) (fun x => { x with st := 1 }) }
  else
    let n := (c.logCur + 1) % 6
    if (tblGet c.secs (10 + n)).st = 0 then
      some { c with secs := tblMod (tblMod c.secs (10 + c.logCur) (fun x => { x with st := 2 })) (10 + n) (fun x => { x with st := 1 }),
                    logCur := n, logCnt := 0 }
    else none

/-- With 4 entries in the sector being written, the oldest full log sector is erased (R399). -/
def CrustSt.logAhead (c : CrustSt) : CrustSt :=
  let n := 10 + (c.logCur + 1) % 6
  if c.logCnt = 4 ∧ (tblGet c.secs n).st = 2 then
    { c with log := c.log.filter (fun e => e.sec != n), secs := tblMod c.secs n (fun x => { x with st := 4 }),
             erasing := c.erasing ++ [n] }
  else c

/-- Append an entry to the event log, or drop and count it (R399). -/
def State.logAdd (s : State) (code arg : Nat) : State :=
  match s.crust.logRoom with
  | none => s.incF F.CRUST_ERR_LOGDROP 1
  | some c =>
    let e : LogEnt := { sec := 10 + c.logCur, lseq := c.lseq, ts := s.dtime / 1000000000 % 2 ^ 32, arg := arg % 2 ^ 32,
                        code := code % 2 ^ 16 }
    let c1 := { c with log := c.log ++ [e], logCnt := c.logCnt + 1, lseq := (c.lseq + 1) % 2 ^ 32 }
    (s.modCrust (fun _ => c1.logAhead)).logRegs

/-- Append the log entry a rule asks for without giving its coding. -/
def State.logKind (s : State) (kind : Nat) (vals : List Nat) : State := s.logAdd (Config.logCode kind) (Config.logArg kind vals)

/-! Retain groups (R157, R394). -/

/-- Cut bytes into pieces of 4,096, at most `n` of them. -/
def cut4k : Nat → List Byte → List (List Byte)
  | 0, _ => []
  | n + 1, b => if b.isEmpty then [] else b.take 4096 :: cut4k n (b.drop 4096)

/-- Append the fragments of a group, keys from `key` in steps of 256. No INDEX group comes between them, so that their SEQs
are consecutive, as a COMMIT names them (R394). -/
def State.appendFrags (trial : Bool) (bank key : Nat) : List (List Byte) → State → Option State
  | [], s => some s
  | d :: ds, s =>
    match s.crustPut 3 key 0 d true trial bank with
    | some s1 => State.appendFrags trial bank (key + 256) ds s1
    | none => none

/-- Append a whole retain group and its COMMIT (R394); none when there is no room. -/
def State.groupAppend (s : State) (pan : Nat) (trial : Bool) (bank : Nat) (fr : List (List Byte)) : Option State :=
  (State.appendFrags trial bank pan fr s).bind (fun s1 =>
    s1.crustAppend 4 pan 0 (leBytes 4 (s.f F.CRUST_SEQ_SEQ + 1) ++ leBytes 2 fr.length ++ leBytes 2 0) true trial bank)

/-- Write a Pan's retain group; without room nothing of it takes effect (R157, R394). -/
def State.retainWrite (s : State) (pan : Nat) (hdr data : List Byte) : State :=
  (s.groupAppend pan (s.flag F.UPD_STAT_TRIAL) (s.f F.UPD_STAT_BANK) (hdr :: cut4k 8 data)).getD s

/-- The fragments a COMMIT names, all valid, in order. -/
def CrustSt.groupOf (c : CrustSt) (m : CrustRec) : Option (List CrustRec) :=
  let first := leAt m.payload 0 4
  let n := leAt m.payload 4 2
  let fr := c.recs.filter (fun r => r.typ == 3 && r.good && decide ((r.seq + 2 ^ 32 - first) % 2 ^ 32 < n))
  if fr.length = n then some fr else none

/-- The newest committed retain group of a Pan in force (R157, R159, R394): header and share data. -/
def State.retainRead (s : State) (pan : Nat) : Option (List Byte × List Byte) :=
  match s.crust.recs.reverse.find? (fun m => m.typ == 4 && m.key == pan && m.inForce (s.f F.UPD_STAT_BANK) &&
      (s.crust.groupOf m).isSome) with
  | none => none
  | some m =>
    match s.crust.groupOf m with
    | some (h :: fs) => some (h.payload, fs.flatMap (·.payload))
    | _ => none

/-! Bank marks (R405). -/

/-- A BANKMARK's effect on the TRIAL records of its bank: CONFIRM makes them ordinary, DISCARD voids them for good. -/
def CrustSt.mark (c : CrustSt) (b : Nat) (confirm : Bool) : CrustSt :=
  if confirm then { c with recs := c.recs.map (fun r => if r.trial && r.bank == b then { r with trial := false } else r) }
  else { c with recs := c.recs.filter (fun r => !(r.trial && r.bank == b)) }

/-- Write a BANKMARK (R394, R405). -/
def State.bankMark (s : State) (b : Nat) (confirm : Bool) : Option State :=
  (s.crustAppend 6 (b + 256 * b2n confirm) 0 [] false false 0).map (fun s1 => s1.modCrust (fun c => c.mark b confirm))

/-! Compaction (R402). -/

/-- A record a read could be served from: its CRC matches, and the group a COMMIT names is whole (R394, R395). -/
def CrustSt.whole (c : CrustSt) (r : CrustRec) : Bool := r.good && (r.typ != 4 || (c.groupOf r).isSome)

/-- The newest of its type and key (R402), as some bank may read it: of the ordinary records, or of the TRIAL records of its
bank with no newer ordinary one (R405). -/
def CrustSt.newestOf (c : CrustSt) (r : CrustRec) : Bool :=
  c.whole r && !c.recs.any (fun q => q.typ == r.typ && q.key == r.key && decide (q.seq ≠ r.seq) && newer 32 q.seq r.seq &&
    (!q.trial || (r.trial && q.bank == r.bank)) && c.whole q)

/-- A record is live: a page, a counter or a COMMIT that is the newest of its key, or a fragment of such a COMMIT's group. -/
def CrustSt.live (c : CrustSt) (r : CrustRec) : Bool :=
  if r.typ = 1 ∨ r.typ = 2 ∨ r.typ = 4 then c.newestOf r
  else if r.typ = 3 then
    c.recs.any (fun m => m.typ == 4 && c.newestOf m && ((c.groupOf m).getD []).any (fun q => q.seq == r.seq))
  else false

/-- Live bytes of a sector. -/
def CrustSt.liveBytes (c : CrustSt) (i : Nat) : Nat :=
  (c.recs.filter (fun r => r.sec == i && c.live r)).foldl (fun n r => n + recBytes r.payload.length) 0

/-- The sector a compaction chooses (R402): one whose SSEQ is 2^30 or more behind, else the FULL one with the least live data. -/
def CrustSt.victim (c : CrustSt) (seq : Nat) : Option Nat :=
  match firstBelow 10 (fun i => (tblGet c.secs i).st == 2 &&
      decide (2 ^ 30 ≤ (seq + 2 ^ 32 - (tblGet c.secs i).sseq % 2 ^ 32) % 2 ^ 32)) with
  | some i => some i
  | none => (((List.range 10).filter (fun i => (tblGet c.secs i).st == 2)).foldl (fun best i =>
      match best with
      | none => some i
      | some j => if c.liveBytes i < c.liveBytes j then some i else some j) none)

/-- Copy a live page or counter record with a new SEQ, its other header fields unchanged (R402, R404). -/
def State.copyRec (o : Option State) (r : CrustRec) : Option State :=
  o.bind (fun s => s.crustAppend r.typ r.key r.schema r.payload true r.trial r.bank)

/-- Copy the retain group a live COMMIT names, whole, its TRIAL and BANK unchanged (R402). -/
def State.copyGroup (o : Option State) (m : CrustRec) : Option State :=
  o.bind (fun s => s.groupAppend m.key m.trial m.bank (((s.crust.groupOf m).getD []).map (·.payload)))

/-- Copy what is live in the victim (R402). A key with a live record there has all its live records copied, oldest first, so
that no copy supersedes a newer TRIAL record; a Pan's groups likewise. None when a copy finds no room. -/
def State.copyLive (s : State) (v : Nat) : Option State :=
  let vs := s.crust.recs.filter (fun r => r.sec == v && s.crust.live r)
  let keep := s.crust.recs.filter (fun r => (r.typ == 1 || r.typ == 2) &&
    vs.any (fun x => x.typ == r.typ && x.key == r.key) && s.crust.live r)
  let groups := s.crust.recs.filter (fun m => m.typ == 4 &&
    vs.any (fun x => (x.typ == 3 || x.typ == 4) && x.key % 256 == m.key % 256) && s.crust.live m)
  groups.foldl State.copyGroup (keep.foldl State.copyRec (some s))

/-- A compaction (R402): the victim's live records copied, an INDEX group written, the victim erased; whether there was one.
When the copies find no room the store stays as it was and the victim stays FULL. -/
def State.compact (s : State) : State × Bool :=
  match s.crust.victim (s.f F.CRUST_SEQ_SEQ) with
  | none => (s, false)
  | some v =>
    match (s.modCrust (fun c => { c with secs := tblMod c.secs v (fun x => { x with st := 3 }) })).copyLive v with
    | none => (s, false)
    | some s1 => (s1.crustIndex.modCrust (fun c => { c with
        recs := c.recs.filter (fun r => r.sec != v)
        secs := tblMod c.secs v (fun x => { x with st := 4 })
        erasing := c.erasing ++ [v] }), true)

end Sys2Proof.Machine
end

