-- ==== Sys2Proof/Machine/Access.lean ====
section
/-! DEFINITION. Who may reach what: the address map (R19), the islands of R15 and their bridges (R17), the privilege of register
windows, and what a bus error does to its initiator (R115). -/
namespace Sys2Proof.Machine

/-- The memories of R19 by address; `hole` is the Rake-held part of a D-TCM (R135). -/
inductive MemKind where
  | sram
  | itcm (p : PanId)
  | dtcm (p : PanId)
  | hole (p : PanId)
  | retain
  | flash
  | canRam (n : Nat)
  | reg
  | none
  deriving DecidableEq, Repr

/-- Base of a Pan's I-TCM (R19). -/
def itcmBase : PanId → Nat
  | .a => 0x08000000
  | .b => 0x08800000

/-- Base of a Pan's D-TCM (R19). -/
def dtcmBase : PanId → Nat
  | .a => 0x08100000
  | .b => 0x08900000

/-- What lies at a D-TCM offset (R135). -/
def dtcmKind (p : PanId) (off : Nat) : MemKind := if 0x80000 ≤ off ∧ off < 0xA8000 then .hole p else .dtcm p

/-- The memory map of R19. -/
def memKind (a : Nat) : MemKind :=
  if a < 0x01800000 then .sram
  else if 0x08000000 ≤ a ∧ a < 0x08100000 then .itcm .a
  else if 0x08100000 ≤ a ∧ a < 0x08200000 then dtcmKind .a (a - 0x08100000)
  else if 0x08800000 ≤ a ∧ a < 0x08900000 then .itcm .b
  else if 0x08900000 ≤ a ∧ a < 0x08A00000 then dtcmKind .b (a - 0x08900000)
  else if 0x09000000 ≤ a ∧ a < 0x09040000 then .retain
  else if 0x10000000 ≤ a ∧ a < 0x14000000 then .flash
  else if 0x30000000 ≤ a ∧ a < 0x30180000 then .canRam ((a - 0x30000000) / 0x18000)
  else if (regBlocks.find? (fun b => decide (b.1 ≤ a) && decide (a < b.1 + b.2.1))).isSome then .reg
  else .none

/-- The island of a register window (R19), numbered in the order of R15: 0 PANA, 1 PANB, 2 STEW, 3 FAB, 4 ENCL, 5 PERI, 6 CAN,
7 ETH (ETH_0), 8 USB, 9 BRL, 10 FLSH, 11 PWR, 12 AON, 13 DBG; 14 is ETH_1, which has a power domain of its own (R431). -/
def regIsland (a : Nat) : Nat :=
  let b := a / 0x10000
  if b = 0x4000 then 12
  else if b ≤ 0x4003 ∨ b = 0x4008 then 3
  else if b = 0x4004 then 9
  else if b = 0x4005 ∨ b = 0x4042 ∨ b = 0x4050 then 5
  else if b = 0x4006 then 7
  else if b = 0x4007 then 14
  else if b ≤ 0x4021 then 6
  else if b = 0x4035 then (if a % 0x10000 < 0x8000 then 5 else 11)
  else if b ≤ 0x4034 then 11
  else if b = 0x4040 then 4
  else if b = 0x4041 then 10
  else if b = 0x4043 then 8
  else 13

/-- The island of any address (R19). -/
def addrIsland (a : Nat) : Nat :=
  match memKind a with
  | .sram => 3
  | .itcm .a | .dtcm .a | .hole .a => 0
  | .itcm .b | .dtcm .b | .hole .b => 1
  | .retain => 12
  | .flash => 10
  | .canRam _ => 6
  | _ => regIsland a

/-- The bridge to an island accepts crossings (R17). -/
def State.islandUp (s : State) (i : Nat) : Bool := !bit s.islHeld i

/-- The initiator is a core at application privilege. -/
def whoApp : Who → Bool
  | .core _ pl => pl == 0
  | _ => false

/-- The initiator has machine privilege: a core at machine privilege, or the debug port (R490, R493). -/
def whoMachine : Who → Bool
  | .core _ pl => pl == 2
  | .dma _ => false
  | .debug => true

/-- The owner code under which an initiator acts on PINOWN resources (R478). -/
def whoOwner : Who → Nat
  | .core .panA _ => 1
  | .core .panB _ => 2
  | _ => 0

/-- A bus error on a write reaches its initiator (R115): a core's bus-error source, the debug port's BUSERR; a DMA channel's
is handled by its own fault table. -/
def State.busErr (s : State) : Who → State
  | .core c _ => s.raise (35 + c.num)
  | .dma _ => { s with dma := { s.dma with err := true } }
  | .debug => (s.setFlag F.DBG_STAT_BUSERR true).raise 227

/-- A register write reaches its block: not at application privilege, and over a bridge that accepts it. -/
def State.regOk (s : State) (who : Who) (a : Nat) : Bool := !whoApp who && s.islandUp (regIsland a)

/-- A register write with behaviour of its own: the behaviour where the write reaches its block, a bus error elsewhere. -/
def State.regDo (s : State) (who : Who) (a : Nat) (f : State → State) : State :=
  if s.regOk who a then f s else s.busErr who

end Sys2Proof.Machine
end

