-- ==== Sys2Proof/Machine/Encl.lean ====
section
/-! DEFINITION. The Enclave's own operations: measurements (R374), the derivation chain (R375), wrapped blobs (R376 to R378),
slots (R379), attestation (R384). -/
namespace Sys2Proof.Machine

/-- The first `n` bytes of a list, zero-padded. -/
def fitBytes (n : Nat) (l : List Byte) : List Byte := (l ++ List.replicate n 0#8).take n

/-- ASCII text as bytes. -/
def asc (t : String) : List Byte := t.toList.map (fun c => BitVec.ofNat 8 c.toNat)

/-- `n` bytes of the random generator: a free value (R390). -/
def State.rand (s : State) (n : Nat) : List Byte := leBytes n s.freeNat

/-- The words of a register row as bytes. -/
def State.regBytes (s : State) (a n : Nat) : List Byte := (List.range n).flatMap (fun i => leBytes 4 (s.reg (a + 4 * i)).toNat)

/-- Store bytes into a register row, `n` words. -/
def State.setRegBytes (s : State) (a n : Nat) (bs : List Byte) : State :=
  forBelow n s (fun i s => s.setReg (a + 4 * i) (toW (leAt bs (4 * i) 4)))

/-- MRk, 48 bytes (R374, R392). -/
def State.mr (s : State) (k : Nat) : List Byte := s.regBytes (A.ENCL_MR k 0) 12

/-- Extend MRk with a digest (R374). -/
def State.extend (s : State) (k : Nat) (x : List Byte) : State :=
  s.setRegBytes (A.ENCL_MR k 0) 12 (fitBytes 48 (Config.sha384 (s.mr k ++ x)))

/-- The debug state DBG of R386 as a byte. -/
def State.dbgByte (s : State) : List Byte := leBytes 1 (s.f F.ENCL_STAT_DBG)

/-- The running security version (R374). -/
def State.svn (s : State) : Nat := s.f F.ENCL_STAT_SVN

/-- KX(m) of R375. -/
def State.kx (s : State) (m : Nat) : List Byte :=
  let ms := ((List.range 8).filter (fun k => bit m k)).flatMap s.mr
  Config.hkdf384 s.encl.r0 (Config.sha384 (s.mr 6 ++ ms)) (asc "KSX" ++ leBytes 1 m ++ s.dbgByte) 32

/-- KL(v) of R375. -/
def State.kl (s : State) (v : Nat) : List Byte :=
  Config.hkdf384 s.encl.r0 s.encl.sh (asc "KSL" ++ leBytes 2 v ++ s.dbgByte) 32

/-- The measurements MR0 to MR6 in a row. -/
def State.mr06 (s : State) : List Byte := (List.range 7).flatMap s.mr

/-- The DevID private key (R375). -/
def State.devId (s : State) : List Byte := Config.keyPair (Config.hkdf384 s.encl.r0 [] (asc "KID") 56)

/-- The Alias private key (R375). -/
def State.alias (s : State) : List Byte :=
  let cdi := Config.hkdf384 s.encl.r0 (Config.sha384 s.mr06) (asc "KCDI") 48
  Config.keyPair (Config.hkdf384 cdi [] (asc "KALIAS") 56)

/-! Blobs (R376). -/

/-- The fields of a blob or envelope, bytes 0 to 87. -/
structure Blob where
  magic : Nat
  ver : Nat
  mode : Nat
  typ : Nat
  mask : Nat
  usage : Nat
  minsvn : Nat
  arg : Nat
  rsv : Nat
  iv : List Byte
  ct : List Byte
  tag : List Byte
  deriving DecidableEq, Repr

/-- Read a blob. -/
def readBlob (b : List Byte) : Blob :=
  { magic := leAt b 0 2, ver := leAt b 2 1, mode := leAt b 3 1, typ := leAt b 4 1, mask := leAt b 5 1, usage := leAt b 6 2,
    minsvn := leAt b 8 2, arg := leAt b 10 1, rsv := leAt b 11 1, iv := (b.drop 12).take 12, ct := (b.drop 24).take 48,
    tag := (b.drop 72).take 16 }

/-- Key length of a TYPE (R376). -/
def keyLen (typ : Nat) : Nat :=
  match typ with
  | 0 => 16
  | 1 | 2 | 4 => 32
  | _ => 48

/-- The TYPEs a USAGE bit allows (R377). -/
def useAllows (k typ : Nat) : Bool :=
  match k with
  | 0 | 1 | 2 => typ ≤ 1
  | 3 | 4 => typ == 2 || typ == 3
  | 5 => typ ≤ 1 || typ == 4
  | 6 | 7 | 8 | 9 => typ == 0
  | _ => true

/-- TYPE and USAGE agree, and bits [15:12] of USAGE are 0 (R377). -/
def usageOk (typ usage : Nat) : Bool :=
  decide (typ ≤ 4) && decide (usage < 4096) && (List.range 12).all (fun k => !bit usage k || useAllows k typ)

/-- The fields of a sealing: mode 0 EXACT or 1 LINEAGE, MRMASK and MINSVN as each needs them (R376). -/
def sealOk (mode mask minsvn : Nat) : Bool :=
  if mode = 0 then !bit mask 6 && minsvn == 0 else mode == 1 && mask == 0

/-- ARG is a class when USAGE.CMD is 1, and 0 otherwise (R376). -/
def argOk (usage arg : Nat) : Bool := if bit usage 6 then decide (arg ≤ 4) else arg == 0

/-- The sealing key of a mode. -/
def State.sealKey (s : State) (mode mask minsvn : Nat) : List Byte := if mode = 0 then s.kx mask else s.kl minsvn

/-- Build a sealed blob with a fresh nonce (R376). -/
def State.sealBlob (s : State) (mode mask minsvn : Nat) (x : KeySlot) (iv : List Byte) : List Byte :=
  let hd := leBytes 2 0x4B57 ++ leBytes 1 1 ++ leBytes 1 mode ++ leBytes 1 x.typ ++ leBytes 1 mask ++ leBytes 2 x.usage ++
            leBytes 2 minsvn ++ leBytes 1 x.arg ++ leBytes 1 0 ++ iv
  let (ct, tag) := Config.gcmEnc (s.sealKey mode mask minsvn) iv hd (fitBytes 48 x.key)
  hd ++ fitBytes 48 ct ++ fitBytes 16 tag

/-! Slots (R379). -/

/-- A slot's content. -/
def State.slot (s : State) (i : Nat) : Option KeySlot := tblFind s.encl.slots i

/-- The USED bit of a slot. -/
def slotBit (i : Nat) : Fld := if i < 32 then ⟨A.ENCL_SLOTS_L, i, i⟩ else ⟨A.ENCL_SLOTS_H, i - 32, i - 32⟩

/-- Put a key into a slot (R379, R391). -/
def State.putSlot (s : State) (i : Nat) (x : KeySlot) : State :=
  (({ s with encl := { s.encl with slots := tblSet s.encl.slots i x } }).setF (slotBit i) 1).raise 452

/-- Empty a slot. -/
def State.dropSlot (s : State) (i : Nat) : State :=
  (({ s with encl := { s.encl with slots := tblErase s.encl.slots i } }).setF (slotBit i) 0).raise 452

/-- The occupant of a slot is FIXED (R377, R379). -/
def State.slotFixed (s : State) (i : Nat) : Bool := match s.slot i with | some x => bit x.usage 11 | none => false

/-- The lowest empty slot (R383). -/
def State.freeSlot (s : State) : Option Nat := firstBelow 64 (fun i => (s.slot i).isNone)

/-- The key a hardware engine gets over the key bus for a use (R381): the slot's key, when the slot grants the use. -/
def State.busKey (s : State) (i use : Nat) : Option (List Byte) :=
  match s.slot i with
  | some x => if bit x.usage use then some x.key else none
  | none => none

/-- What an Enclave operation answers: code, state, result bytes, the slot taken (R389). -/
structure EnclRes where
  code : Nat
  st : State
  res : List Byte
  slot : Nat

/-- An operation that fails with a code and writes nothing. -/
def State.enclFail (s : State) (code : Nat) : EnclRes := ⟨code, s, [], 0⟩

/-- A refused blob (R380, R391). -/
def State.blobFail (s : State) (code : Nat) : EnclRes := (s.raise 451).enclFail code

/-- Where a load may put its key (R379, R382): a Pan channel needs PAN on the key and on the occupant, a FIXED occupant stays. -/
def State.slotCode (s : State) (pan : Bool) (slot usage : Nat) : Nat :=
  if pan && !bit usage 10 then 4
  else if pan && (match s.slot slot with | some x => !bit x.usage 10 | none => false) then 4
  else if s.slotFixed slot then 8 else 0

/-- Load a sealed blob of 88 bytes (R376, R377, R379, R380). -/
def State.loadSealed (s : State) (pan : Bool) (slot : Nat) (bs : List Byte) : EnclRes :=
  let b := readBlob bs
  if b.magic ≠ 0x4B57 ∨ b.ver ≠ 1 then s.blobFail 6
  else if !(decide (b.mode ≤ 1) && usageOk b.typ b.usage && sealOk b.mode b.mask b.minsvn && argOk b.usage b.arg && b.rsv == 0)
  then s.blobFail 0x0C
  else if b.mode = 1 ∧ s.svn < b.minsvn then s.blobFail 7
  else
    let c := s.slotCode pan slot b.usage
    if c ≠ 0 then s.blobFail c else
    match Config.gcmDec (s.sealKey b.mode b.mask b.minsvn) b.iv (bs.take 24) b.ct b.tag with
    | none => s.blobFail 6
    | some k => ⟨0, s.putSlot slot ⟨k.take (keyLen b.typ), b.typ, b.usage, b.arg⟩, [], slot⟩

/-- Load an IMPORT envelope of 184 bytes (R378): the key enters the slot and the sealed blob is the result. -/
def State.loadImport (s : State) (pan : Bool) (slot : Nat) (bs : List Byte) : EnclRes :=
  let b := readBlob bs
  let mode := bits b.mode 6 4
  if b.magic ≠ 0x4B57 ∨ b.ver ≠ 1 then s.blobFail 6
  else if !(b.mode % 16 == 2 && usageOk b.typ b.usage && sealOk mode b.mask b.minsvn && argOk b.usage b.arg && b.rsv == 0)
  then s.blobFail 0x0C
  else if mode = 1 ∧ s.svn < b.minsvn then s.blobFail 7
  else
    let c := s.slotCode pan slot b.usage
    if c ≠ 0 then s.blobFail c
    else if !s.flag F.ENCL_STAT_TRNG then s.enclFail 9
    else
      let k := Config.hkdf384 (Config.ecdh 3 s.alias (bs.drop 88)) b.iv (asc "KIMP") 32
      match Config.gcmDec k b.iv (bs.take 24) b.ct b.tag with
      | none => s.blobFail 6
      | some key =>
        let x : KeySlot := ⟨key.take (keyLen b.typ), b.typ, b.usage, b.arg⟩
        let blob := s.sealBlob mode b.mask b.minsvn x (s.rand 12)
        ⟨0, (s.useFree.putSlot slot x), blob, slot⟩

/-- LOAD by length (R378, R380): 88 bytes are a sealed blob, 184 an envelope. -/
def State.loadKey (s : State) (pan : Bool) (slot : Nat) (bs : List Byte) : EnclRes :=
  if bs.length = 88 then s.loadSealed pan slot bs
  else if bs.length = 184 then s.loadImport pan slot bs
  else s.enclFail 5

/-- The flash bank in use, 0 or 1, or 0xFF in recovery (R421, R424, R466). -/
def State.activeBank (s : State) : Nat := if s.upd.recov = 0 then s.f F.UPD_STAT_BANK else 0xFF

/-- Bytes 0 to 707 of an attestation statement (R384). -/
def State.statementBody (s : State) (nonce : List Byte) : List Byte :=
  leBytes 2 1 ++ leBytes 2 900 ++ leBytes 4 (s.reg A.SYSCTL_DEVID).toNat ++ fitBytes 16 Config.fuseSerial ++ fitBytes 32 nonce ++
  (List.range 8).flatMap s.mr ++ leBytes 2 s.svn ++ leBytes 1 s.activeBank ++
  leBytes 1 (s.f F.ENCL_STAT_DBG + 2 * s.f F.UPD_STAT_TRIAL + 4 * b2n (s.f F.ENCL_TAMPER_CAUSE != 0)) ++
  s.versions.flatMap (leBytes 4) ++ fitBytes 48 s.encl.sh ++ fitBytes 96 (Config.ecPublic 3 s.devId) ++
  fitBytes 96 (Config.ecPublic 3 s.alias)

/-- The attestation statement over a nonce: 900 bytes (R384). -/
def State.statement (s : State) (nonce : List Byte) : List Byte :=
  let body := s.statementBody nonce ++ fitBytes 96 s.encl.endorse
  body ++ fitBytes 96 (Config.ecdsaSign 3 s.alias (Config.sha384 body) s.freeNat)

end Sys2Proof.Machine
end

