-- ==== Sys2Proof/Machine/Pinown.lean ====
section
/-! DEFINITION. Pin and resource ownership (R24, R478 to R482) and the GPIO channels (R483). -/
namespace Sys2Proof.Machine

/-- A resource identifier: class in [31:24], index in [23:0] (R478). -/
def resId (cls idx : Nat) : Nat := cls * 2 ^ 24 + idx

/-- How many resources a class has (R478). -/
def resCount (cls : Nat) : Nat :=
  match cls with
  | 1 => 48
  | 2 => 12
  | 3 => 64
  | 4 => 32
  | 5 => 256
  | 6 => 1
  | 7 => 8
  | 8 => 1024
  | 9 => 16384
  | 10 => 16
  | 11 => 2
  | 12 => 32
  | _ => 0

/-- The resource exists (R478). -/
def resExists (id : Nat) : Bool := decide (id % 2 ^ 24 < resCount (id / 2 ^ 24))

/-- The owner code of a resource: 0xFF where there is none (R478). -/
def State.owner (s : State) (id : Nat) : Nat := if resExists id then tblGet s.own id else 0xFF

/-- Store a resource's owner; the Steward's are not listed. -/
def State.setOwner (s : State) (id o : Nat) : State :=
  { s with own := if o = 0 then tblErase s.own id else tblSet s.own id o }

/-- An act by a party that does not own its resource (R481): recorded while VALID is 0, counted, and raised. `path` is 0 for a
claim, 1 for a core or DMA write, 2 for a command. -/
def State.conflict (s : State) (id req path : Nat) : State :=
  let s1 := if s.flag F.PINOWN_CONF_INFO_VALID then s else
    ((((s.setF F.PINOWN_CONF_RES_RES id).setF F.PINOWN_CONF_INFO_REQ req).setF F.PINOWN_CONF_INFO_HOLDER (s.owner id)).setF
      F.PINOWN_CONF_INFO_PATH path).setF F.PINOWN_CONF_INFO_VALID 1
  (s1.incF F.PINOWN_CONFCNT_COUNT 1).raise 1456

/-- A claim of a resource would succeed (R479). -/
def State.claimable (s : State) (o id : Nat) : Bool := s.owner id == 0 || s.owner id == o

/-- A group claim (R479, R480): all members or none; the second result is the first refused member. -/
def State.claimAll (s : State) (o : Nat) (ids : List Nat) : State × Option Nat :=
  match ids.find? (fun id => !s.claimable o id) with
  | some id => (s.conflict id o 0, some id)
  | none => (ids.foldl (fun s id => s.setOwner id o) s, none)

/-- A release by a party (R479): only of what it owns. -/
def State.release (s : State) (o id : Nat) : State := if s.owner id = o then s.setOwner id 0 else s

/-- Release several resources. -/
def State.releaseAll (s : State) (o : Nat) (ids : List Nat) : State := ids.foldl (fun s id => s.release o id) s

/-- A register write acts on a resource the Steward must own: it acts when the Steward owns it, else it is a refused act that
ends with a bus error (R481). -/
def State.ownedWrite (s : State) (who : Who) (id : Nat) (f : State → State) : State :=
  if s.owner id = 0 then f s else (s.conflict id (whoOwner who) 1).busErr who

/-- PINOWN_QRES_WRITE: the queried resource; its owner is what QOWN then reads (R485). -/
def execPinownQresWrite (who : Who) (res : Word) (s : State) : Host.Outcome State Fault Refusal :=
  .next (s.regDo who A.PINOWN_QRES (fun s => s.setReg A.PINOWN_QRES res))

/-- Command a GPIO output: its command in force, and the channel has had its first command (R483, R161). -/
def State.gpioSet (s : State) (n : Nat) (v : Bool) : State :=
  { s.setF (F.GPIO_N_CMD_OUT n) (b2n v) with gpioOn := putBit s.gpioOn n true }

/-- GPIO_CMD_WRITE: only for a Steward-owned channel (R483, R481, R485). -/
def execGpioCmdWrite (who : Who) (n : Fin 32) (out : Bool) (s : State) : Host.Outcome State Fault Refusal :=
  .next (s.regDo who (A.GPIO_N_CMD n) (fun s => s.ownedWrite who (resId 12 n) (fun s => s.gpioSet n out)))

/-- GPIO_EDGE: the filtered level changes; source 1,472 + n on the edge EDGE selects (R483). -/
def execGpioEdge (n : Fin 32) (level : Bool) (s : State) : Host.Outcome State Fault Refusal :=
  .next (if s.fbit F.GPIO_IN_IN n = level then s else
    let s1 := s.setFbit F.GPIO_IN_IN n level
    let e := s.f (F.GPIO_N_CFG_EDGE n)
    if (level && bit e 0) || (!level && bit e 1) then s1.raise (1472 + n) else s1)

end Sys2Proof.Machine
end

