-- ==== Sys2Proof/Machine/Cmd.lean ====
section
/-! DEFINITION. The Command Engine's shared operations: intake of a request (R32 to R36), session and class checks (R43, R45,
R46), replies, completions and their cache (R34, R36, R38), maintenance tokens (R47, R48), forwarding (R53). -/
namespace Sys2Proof.Machine

/-! Status codes (R38). -/
def stOk : Nat := 0x00
def stAccepted : Nat := 0x01
def stBadLength : Nat := 0x10
def stBadVersion : Nat := 0x11
def stBadOpcode : Nat := 0x12
def stBadParam : Nat := 0x13
def stSeqStale : Nat := 0x14
def stTooMany : Nat := 0x15
def stNoSession : Nat := 0x20
def stNotPermitted : Nat := 0x21
def stAuthFailed : Nat := 0x22
def stLockedOut : Nat := 0x23
def stBusyMaint : Nat := 0x30
def stConflict : Nat := 0x31
def stWrongState : Nat := 0x32
def stLimit : Nat := 0x33
def stNotFound : Nat := 0x34
def stNoRoute : Nat := 0x35
def stTimeout : Nat := 0x36
def stFieldDisturbed : Nat := 0x40
def stInterlocked : Nat := 0x41
def stLate : Nat := 0x42
def stFailed : Nat := 0x50

/-- A session class, or PEER (R39). -/
inductive OpClass where
  /-- no session is needed -/
  | none
  /-- the packet's own session -/
  | any
  | cls (c : Nat)
  | peer
  deriving DecidableEq, Repr

/-- What R39 asks of an opcode: its class and the maintenance token it needs. -/
structure OpInfo where
  cls : OpClass
  tok : Option Nat
  deriving DecidableEq, Repr

/-- The opcodes of R39 by group and opcode: OBSERVE 0, OPERATE 1, CONFIGURE 2, MAINTAIN 3, SERVICE 4; tokens UPD 0, CMP 1,
EDT 2, SWT 3, OLS 4, ACC 5. -/
def opInfo (grp op : Nat) : Option OpInfo :=
  let c (n : Nat) : Option OpInfo := some ⟨.cls n, Option.none⟩
  let t (n k : Nat) : Option OpInfo := some ⟨.cls n, some k⟩
  match grp, op with
  | 1, 1 | 1, 2 | 1, 3 => c 0
  | 1, 4 => c 3
  | 2, 1 | 2, 2 => some ⟨.none, Option.none⟩
  | 2, 3 => some ⟨.any, Option.none⟩
  | 2, 4 | 2, 5 => c 0
  | 3, 1 => c 0
  | 3, 2 => c 2
  | 4, 1 | 4, 2 => c 2
  | 4, 3 => c 1
  | 4, 4 | 4, 5 => t 3 2
  | 4, 6 | 4, 7 => c 3
  | 4, 8 => c 0
  | 5, 1 => c 2
  | 5, 2 => c 1
  | 5, 3 => c 0
  | 5, 4 => c 2
  | 6, 1 | 6, 2 | 6, 3 | 6, 4 => c 1
  | 6, 5 => t 3 4
  | 6, 6 => c 0
  | 7, 1 => t 3 5
  | 7, 2 => c 3
  | 7, 3 => c 2
  | 7, 4 => c 0
  | 8, 1 => c 0
  | 8, 2 => c 2
  | 8, 3 | 8, 4 => c 4
  | 9, 1 => c 0
  | 9, 2 | 9, 3 => c 2
  | 9, 4 => c 0
  | 9, 5 => t 3 1
  | 10, 1 | 10, 2 | 10, 3 | 10, 4 => t 4 0
  | 10, 5 => c 3
  | 10, 6 => c 0
  | 11, 1 => c 0
  | 11, 2 => t 3 3
  | 11, 3 => c 0
  | 11, 4 | 11, 5 | 11, 6 => some ⟨.peer, Option.none⟩
  | _, _ => Option.none

/-- What an opcode's body is given: the request's key, header SESS, session, payload. -/
structure Ctx where
  key : RKey
  sess : Option Sess
  pl : List Byte
  deriving DecidableEq, Repr

/-- The body of an opcode: what the Steward does when it starts the request. -/
abbrev Body := Ctx → State → State

/-- The device's own saltern address (R175). -/
def State.ownAddr (s : State) : Nat := s.f F.RING_ADDR_ADDR

/-- The engine accepts packets on a transport (R59); the recovery loader serves the service port alone (R466). -/
def State.tpOn (s : State) (tp : Nat) : Bool :=
  if s.upd.recov = 1 then tp == 3 else s.flag F.CMD_CTRL_ENABLE && s.fbit F.CMD_CTRL_TP_EN tp

/-- Largest packet of a transport (R49). -/
def State.maxPkt (s : State) (tp : Nat) : Nat :=
  if tp = 1 ∨ tp = 2 then (if s.flag F.CMD_UDP_CFG_JUMBO then 4124 else 1472) else if tp = 5 then 4095 else 4124

/-- Send a packet on a transport: queued on the host port (R56) and on ISO 15765-2, whose transfers run one at a time
(R54); sent at once on the others, on UDP to the endpoint's address and port (R51). -/
def State.sendBytes (s : State) (tp ep : Nat) (b : List Byte) : State :=
  if tp = 0 then { s with cmd := { s.cmd with hostQ := s.cmd.hostQ ++ [b] } }
  else if tp = 5 then s.isoSend b
  else if tp = 4 then s.brlCmd ep b
  else s.emitPkt tp ep b

/-- Requests outstanding on a transport: its own and the forwarded ones (R35, R53). -/
def State.outCount (s : State) (tp : Nat) : Nat :=
  (s.cmd.outst.filter (fun o => o.tp == tp)).length + (s.cmd.fwd.filter (fun o => o.tp == tp)).length

/-- CMD_OUTST follows the outstanding requests: COUNT, PEAK; below the limit a new refusal is a first one again (R35, R59). -/
def State.syncOut (s : State) (tp : Nat) : State :=
  let n := s.outCount tp
  let s1 := s.setF (F.CMD_OUTST_COUNT tp) n
  let s2 := if s1.f (F.CMD_OUTST_PEAK tp) < n then s1.setF (F.CMD_OUTST_PEAK tp) n else s1
  if n < 32 then { s2 with cmd := { s2.cmd with full := tblSet s2.cmd.full tp false } } else s2

/-- An open session by its identifier. -/
def State.findSess (s : State) (id : Nat) : Option Sess := s.cmd.sess.find? (fun x => x.id == id)

/-- The session key under which a packet of SESS `id` is tagged. -/
def State.sessKey (s : State) (id : Nat) : Option (List Byte) :=
  if id = 0 ∨ id = 0xFFFF then none else (s.findSess id).map (·.key)

/-- A reply or completion packet (R33): the request's SEQ, GRP, OP and SESS, DST its SRC, SRC the own address; tagged in a
session when `tagged` (R45). -/
def State.replyPkt (s : State) (src seq grp op sess type stat : Nat) (pl : List Byte) (tagged : Bool) : Pkt :=
  let p : Pkt := { ver := 1, dst := type * 4096 + src % 4096, src := s.ownAddr, seq := seq, grp := grp, op := op,
                   sess := sess, stat := stat, flg := 0, payload := pl, tag := [] }
  match (if tagged then s.sessKey sess else none) with
  | some k => p.sealed k
  | none => p

/-- A packet of a session that is open for its endpoint (R43, R45). -/
def State.inSess (s : State) (tp ep id : Nat) : Bool := (s.findSess id).any (fun x => x.tp == tp && x.ep == ep)

/-- A reply to a packet that is not accepted as a request: sent, neither cached nor outstanding; `tagged` when the packet is of a
session (R45). -/
def State.refuse (s : State) (tp ep : Nat) (p : Pkt) (stat : Nat) (pl : List Byte) (tagged : Bool) : State :=
  s.sendBytes tp ep (s.replyPkt p.src p.seq p.grp p.op p.sess 1 stat pl (tagged && s.inSess tp ep p.sess)).bytes

/-- The request of a key, while it is outstanding. -/
def State.findOutst (s : State) (k : RKey) : Option Outst :=
  s.cmd.outst.find? (fun o => o.tp == k.tp && o.ep == k.ep && o.seq == k.seq)

/-- The offset of the parameter that makes a reply too long for its transport (R50), for the opcodes that have one. -/
def longParam (grp op : Nat) : Nat :=
  if grp = 3 then 4 else if grp = 4 ∧ op = 8 then 5 else if grp = 9 ∧ op = 4 then 4 else 0

/-- Put a final reply into its endpoint's cache of 64 (R34). -/
def cacheReply (e : EndPt) (seq : Nat) (b : List Byte) : EndPt :=
  { e with cache := ((seq, b) :: e.cache.filter (fun x => x.1 != seq)).take 64 }

/-- The final reply or completion of an outstanding request (R34 to R36, R38): a completion when ACCEPTED has been sent, a
reply otherwise. A reply longer than the transport's largest packet becomes BAD_PARAM (R50). A request that is no longer
outstanding has no reply (R37). -/
def State.finish (s : State) (k : RKey) (stat : Nat) (pl : List Byte) : State :=
  match s.findOutst k with
  | none => s
  | some o =>
    let mk := fun st d => (s.replyPkt o.src o.seq o.grp o.op o.sess (if o.accepted then 3 else 1) st d true).bytes
    let b0 := mk stat pl
    let b := if s.maxPkt k.tp < b0.length then mk stBadParam (leBytes 2 (longParam o.grp o.op)) else b0
    let s1 := { s with cmd := { s.cmd with
      outst := s.cmd.outst.filter (fun (x : Outst) => !(x.tp == k.tp && x.ep == k.ep && x.seq == k.seq))
      eps := s.cmd.eps.map (fun (e : EndPt) => if e.tp == k.tp && e.ep == k.ep then cacheReply e k.seq b else e) } }
    (s1.syncOut k.tp).sendBytes k.tp k.ep b

/-- OK with a payload. -/
def State.ok (s : State) (k : RKey) (pl : List Byte) : State := s.finish k stOk pl

/-- BAD_PARAM at a payload offset (R38). -/
def State.badParam (s : State) (k : RKey) (off : Nat) : State := s.finish k stBadParam (leBytes 2 off)

/-- BAD_LENGTH with the accepted length the detail names (R38). -/
def State.badLen (s : State) (k : RKey) (n : Nat) : State := s.finish k stBadLength (leBytes 2 n)

/-- WRONG_STATE with the target's mode (R38). -/
def State.wrongState (s : State) (k : RKey) (mode : Nat) : State := s.finish k stWrongState (leBytes 1 mode)

/-- LIMIT_REACHED with a limit identifier (R38). -/
def State.limit (s : State) (k : RKey) (id : Nat) : State := s.finish k stLimit (leBytes 2 id)

/-- FAILED with a cause (R38). -/
def State.failed (s : State) (k : RKey) (cause : Nat) : State := s.finish k stFailed (leBytes 2 cause)

/-- NOT_FOUND (R38). -/
def State.notFound (s : State) (k : RKey) : State := s.finish k stNotFound []

/-- CONFLICT with the resource and its owner; the refused act is recorded in PINOWN (R38, R40, R481). -/
def State.cmdConflict (s : State) (k : RKey) (id : Nat) : State :=
  (s.finish k stConflict (leBytes 4 id ++ leBytes 1 (s.owner id))).conflict id 0 2

/-- ACCEPTED for a request whose work goes on (R36): sent once. -/
def State.accept (s : State) (k : RKey) : State :=
  match s.findOutst k with
  | none => s
  | some o =>
    if o.accepted then s else
    let b := (s.replyPkt o.src o.seq o.grp o.op o.sess 1 stAccepted [] true).bytes
    ({ s with cmd := { s.cmd with outst := s.cmd.outst.map (fun (x : Outst) =>
        if x.tp == k.tp && x.ep == k.ep && x.seq == k.seq then { x with accepted := true } else x) } }).sendBytes k.tp k.ep b

/-- Run a body when the payload has the one length the opcode takes (R38). -/
def fixedLen (n : Nat) (b : Body) : Body := fun c s => if c.pl.length = n then b c s else s.badLen c.key n

/-- The detail of BAD_LENGTH for a payload that may run from `lo` to `hi` bytes (R38). -/
def rangeLen (lo hi : Nat) (b : Body) : Body := fun c s =>
  if c.pl.length < lo then s.badLen c.key lo else if hi < c.pl.length then s.badLen c.key hi else b c s

/-! Sessions and failures (R43 to R45). -/

/-- A session's request that needs the token of a class is running (R39, R48). -/
def State.runsUnder (s : State) (sess c : Nat) : Bool :=
  s.cmd.outst.any (fun o => o.sess == sess && (match opInfo o.grp o.op with | some i => i.tok == some c | none => false))

/-- A maintenance token is released (R48): an operation still running under it stops at its next safe point. -/
def State.dropToken (s : State) (sess : Nat) : State :=
  let mine := s.cmd.tokens.filter (fun (t : Token) => t.sess == sess && t.tp != 7)
  let stop := (mine.filter (fun (t : Token) => s.runsUnder sess t.cls)).map (·.cls)
  { s with cmd := { s.cmd with
      tokens := s.cmd.tokens.filter (fun (t : Token) => t.sess != sess || t.tp == 7), stopAsked := s.cmd.stopAsked ++ stop } }

/-- The running operation of a class has been asked to stop (R48). -/
def State.mustStop (s : State) (c : Nat) : Bool := s.cmd.stopAsked.contains c

/-- The stop of a class has been served. -/
def State.stopServed (s : State) (c : Nat) : State :=
  { s with cmd := { s.cmd with stopAsked := s.cmd.stopAsked.filter (fun x => x != c) } }

/-- An operation stopped at its safe point: its request ends FAILED (R48); no rule gives the cause, a free value. -/
def State.failStopped (s : State) (k : RKey) (c : Nat) : State := ((s.failed k s.freeNat).useFree).stopServed c

/-- A session closes, and its token with it (R45, R48). -/
def State.closeSess (s : State) (id : Nat) : State :=
  let s1 := s.dropToken id
  { s1 with cmd := { s1.cmd with sess := s1.cmd.sess.filter (fun x => x.id != id) } }

/-- A transport is LOCKED_OUT (R45). -/
def State.locked (s : State) (tp : Nat) : Bool := decide (s.now < tblGet s.cmd.lockUntil tp)

/-- A failed OPEN_RESPONSE or tag check (R45): CMD_AUTH_FAIL; the fifth within 60 s locks the transport out for 60 s. -/
def State.authFail (s : State) (tp : Nat) : State :=
  let s1 := s.raise 402
  let fs := s1.now :: (tblGet s1.cmd.fails tp).filter (fun t => decide (s1.now < t + 60000000000))
  let s2 := { s1 with cmd := { s1.cmd with fails := tblSet s1.cmd.fails tp fs } }
  if 5 ≤ fs.length && !s2.locked tp then
    ({ s2 with cmd := { s2.cmd with lockUntil := tblSet s2.cmd.lockUntil tp (s2.now + 60000000000) } }).raise 403
  else s2

/-- The session holds the token an opcode needs (R39). -/
def State.holds (s : State) (sess : Nat) (tok : Option Nat) : Bool :=
  match tok with
  | none => true
  | some c => s.cmd.tokens.any (fun t => t.tp != 7 && t.sess == sess && t.cls == c)

/-- The opcodes a saltern peer may issue with SESS 0xFFFF (R46). -/
def peerOpcode (grp op : Nat) : Bool :=
  (grp == 10 && (op == 1 || op == 2 || op == 3)) ||
  (grp == 11 && (op == 1 || op == 3 || op == 4 || op == 5 || op == 6))

/-- What the session checks say of a packet: go on with its session, or answer (R38, R43, R45, R46). -/
inductive Check where
  | go (x : Option Sess)
  | stop (stat : Nat) (pl : List Byte)
  | badTag
  deriving DecidableEq, Repr

/-- The class code a NOT_PERMITTED names: the opcode's class; what it is for PEER is open, a free value (R38). -/
def State.classCode (s : State) (c : OpClass) : Nat :=
  match c with
  | .cls n => n
  | .none | .any => 0
  | .peer => s.freeNat

/-- The session, tag, class and token checks of a request (R39, R43, R45, R46), and what recovery accepts (R421, R466). -/
def State.sessCheck (s : State) (tp ep : Nat) (p : Pkt) (i : OpInfo) : Check :=
  let deny := Check.stop stNotPermitted (leBytes 1 (s.classCode i.cls))
  if s.upd.recov = 1 then
    if p.sess = 0 && ((p.grp == 1 && p.op == 1) || (p.grp == 10 && decide (p.op ≤ 3))) then .go none else deny
  else if s.upd.recov = 2 && !(p.grp == 1 || p.grp == 2 || p.grp == 10) then deny
  else if p.sess = 0xFFFF then
    if tp = 4 && peerOpcode p.grp p.op &&
       (i.cls != .peer || (s.flag F.RING_HS_CFG_EN && s.f F.RING_HS_CFG_PARTNER == ep)) then .go none else deny
  else if i.cls = .peer then deny
  else if p.sess = 0 then
    match i.cls with
    | .none => .go none
    | .cls 0 => if s.flag F.CMD_CTRL_OBS_SESS then .stop stNoSession [] else .go none
    | _ => .stop stNoSession []
  else
    match s.findSess p.sess with
    | none => .stop stNoSession []
    | some x =>
      if x.tp ≠ tp ∨ x.ep ≠ ep then .stop stNoSession []
      else if p.flg % 2 = 0 ∨ p.tag ≠ p.mac x.key then .badTag
      else match i.cls with
        | .cls n => if x.cls < n ∨ s.holds x.id i.tok = false then deny else .go (some x)
        | _ => .go (some x)

/-! Sequence state (R34, R35). -/

/-- How R34 classifies a SEQ. -/
inductive SeqClass where
  | new
  | repeatOut
  | cached (b : List Byte)
  | stale (last : Nat)
  deriving DecidableEq, Repr

/-- The endpoint's sequence state. -/
def State.findEp (s : State) (tp ep : Nat) : Option EndPt := s.cmd.eps.find? (fun e => e.tp == tp && e.ep == ep)

/-- The classification of R34. -/
def State.seqClass (s : State) (tp ep seq : Nat) : SeqClass :=
  match s.findEp tp ep with
  | none => .new
  | some e =>
    let d := (seq + 65536 - e.last) % 65536
    if 1 ≤ d ∧ d ≤ 32767 then .new
    else if (e.last + 65536 - seq) % 65536 ≤ 63 then
      if (s.findOutst ⟨tp, ep, seq⟩).isSome then .repeatOut
      else match e.cache.find? (fun x => x.1 == seq) with
        | some x => .cached x.2
        | none => .stale e.last
    else .stale e.last

/-- Accept a SEQ: `last` of the endpoint, whose state may evict the one whose last accepted request is oldest (R34). -/
def State.acceptSeq (s : State) (tp ep seq : Nat) : State :=
  let c := s.cmd
  let c1 := { c with stamp := c.stamp + 1 }
  match s.findEp tp ep with
  | some _ => { s with cmd := { c1 with eps := c.eps.map (fun (e : EndPt) =>
      if e.tp == tp && e.ep == ep then { e with last := seq, stamp := c1.stamp } else e) } }
  | none =>
    let mine := c.eps.filter (fun e => e.tp == tp)
    let oldest := mine.foldl (fun m e => min m e.stamp) c1.stamp
    let kept := if 64 ≤ mine.length then c.eps.filter (fun e => !(e.tp == tp && e.stamp == oldest)) else c.eps
    { s with cmd := { c1 with eps := kept ++ [{ tp := tp, ep := ep, last := seq, stamp := c1.stamp, cache := [] }] } }

/-- A request accepted as new becomes outstanding and is started (R35, R36). -/
def State.start (s : State) (tp ep : Nat) (p : Pkt) (x : Option Sess) (body : Body) : State :=
  let s1 := s.acceptSeq tp ep p.seq
  let o : Outst := { tp := tp, ep := ep, seq := p.seq, src := p.src % 4096, grp := p.grp, op := p.op, sess := p.sess,
                     accepted := false }
  let s2 := ({ s1 with cmd := { s1.cmd with outst := s1.cmd.outst ++ [o] } }).syncOut tp
  body ⟨⟨tp, ep, p.seq⟩, x, p.payload⟩ s2

/-- TOO_MANY, with CMD_OUTSTANDING_FULL at the first refusal after a period below the limit (R35). -/
def State.tooMany (s : State) (tp ep : Nat) (p : Pkt) : State :=
  let s1 := if tblGet s.cmd.full tp then s else
    ({ s with cmd := { s.cmd with full := tblSet s.cmd.full tp true } }).raise 401
  s1.refuse tp ep p stTooMany [] true

/-- A request addressed to this device: opcode, session checks, then the sequence rules, then its body (R34 to R36, R38, R43,
R45, R46). A packet that passes the session, class and token checks is a valid packet for the idle timeout of R45, one that they
refuse is not (DESIGN CHOICE, log 163). -/
def State.request (s : State) (tp ep : Nat) (p : Pkt) (body : Body) : State :=
  match opInfo p.grp p.op with
  | none => s.refuse tp ep p stBadOpcode [] true
  | some i =>
    match s.sessCheck tp ep p i with
    | .badTag => (s.authFail tp).refuse tp ep p stAuthFailed [] false
    | .stop st d => (s.refuse tp ep p st d true).useFree
    | .go x =>
      let s0 := match x with
        | some y => { s with cmd := { s.cmd with sess := s.cmd.sess.map (fun (z : Sess) =>
            if z.id == y.id then { z with lastAt := s.now } else z) } }
        | none => s
      match s0.seqClass tp ep p.seq with
      | .repeatOut => s0
      | .cached b => s0.sendBytes tp ep b
      | .stale l => s0.refuse tp ep p stSeqStale (leBytes 2 l) true
      | .new =>
        if 32 ≤ s0.outCount tp then s0.tooMany tp ep p
        else s0.start tp ep p x body

/-! Reception (R32, R53). -/

/-- Count a discarded packet and raise CMD_RX_ERR (R32, R58, R59). -/
def State.discard (s : State) (tp : Nat) (crc : Bool) : State :=
  (s.incF (if crc then F.CMD_ERRCNT_CRC_ERR tp else F.CMD_ERRCNT_FRAME_ERR tp) 1).raise 400

/-- A packet for another device is forwarded unchanged in a command frame, and counts as outstanding on the transport it
arrived on; without a route the device replies NO_ROUTE itself (R53, R177). -/
def State.forward (s : State) (tp ep : Nat) (p : Pkt) : State :=
  match s.routeTo p.addr with
  | none => s.refuse tp ep p stNoRoute (leBytes 2 p.addr) true
  | some l =>
    if 32 ≤ s.outCount tp then s.tooMany tp ep p else
    let w : Fwd := { tp := tp, ep := ep, seq := p.seq, src := p.src % 4096, dst := p.addr, grp := p.grp, op := p.op,
                     sess := p.sess, at_ := s.now, acc := false }
    (({ s with cmd := { s.cmd with fwd := s.cmd.fwd ++ [w] } }).syncOut tp).brlSend l 1 p.addr s.ownAddr 0 0 p.bytes

/-- A request to every device (R53): TOPOLOGY and TIME_GET, which change nothing and are not replied to; one that did not come over
Brineline goes out over it. Any other opcode is counted. -/
def State.cmdCast (s : State) (tp : Nat) (p : Pkt) : State :=
  if p.grp = 11 ∧ (p.op = 1 ∨ p.op = 3) then (if tp = 4 then s else s.brlCast 1 p.bytes)
  else s.incF (F.CMD_ERRCNT_FRAME_ERR tp) 1

/-- A packet fits its transport and carries no more than 4,096 bytes of payload (R30, R49). -/
def State.fits (s : State) (tp : Nat) (p : Pkt) : Bool := decide (p.len ≤ s.maxPkt tp) && decide (p.payload.length ≤ 4096)

/-- A packet that passed the framing checks (R32, R49, R53): size, TYPE, broadcast, version, address, then the request. -/
def State.deliver (s : State) (tp ep : Nat) (p : Pkt) (body : Body) : State :=
  if !s.tpOn tp then s
  else if !s.fits tp p then s.discard tp false
  else if p.type ≠ 0 then s.discard tp false
  else if p.addr = 0xFFF then s.cmdCast tp p
  else if p.ver ≠ 1 then s.refuse tp ep p stBadVersion (leBytes 1 1) true
  else if p.addr ≠ 0 ∧ p.addr ≠ s.ownAddr then s.forward tp ep p
  else s.request tp ep p body

/-- The packet of a request row. -/
def reqPkt (r : Req) (grp op : Nat) : Pkt :=
  { ver := 1, dst := r.dst.toNat, src := r.src.toNat, seq := r.seq.toNat, grp := grp, op := op, sess := r.sess.toNat,
    stat := 0, flg := b2n r.tag.isSome, payload := r.payload, tag := (r.tag.getD []).take 8 }

/-- A request row: the packet of `r` with the row's group and opcode is delivered. -/
def State.opcode (s : State) (r : Req) (grp op : Nat) (body : Body) : State :=
  s.deliver r.tp.val r.ep (reqPkt r grp op) body

/-- A request of the device's own to a saltern peer over a link, SESS 0xFFFF, in a frame of the kind given (R46, R194, R422); the
SEQ it took is the next one. -/
def State.peerRequestOn (s : State) (l kind dst grp op : Nat) (pl : List Byte) : State :=
  let p : Pkt := { ver := 1, dst := dst, src := s.ownAddr, seq := s.cmd.ownSeq, grp := grp, op := op, sess := 0xFFFF,
                   stat := 0, flg := 0, payload := pl, tag := [] }
  ({ s with cmd := { s.cmd with ownSeq := (s.cmd.ownSeq + 1) % 65536 } }).brlSend l kind dst s.ownAddr 0 0 p.bytes

/-- A request of the device's own to a saltern peer, over its route (R53). -/
def State.peerRequest (s : State) (kind dst grp op : Nat) (pl : List Byte) : State :=
  match s.routeTo dst with
  | some l => s.peerRequestOn l kind dst grp op pl
  | none => { s with cmd := { s.cmd with ownSeq := (s.cmd.ownSeq + 1) % 65536 } }

/-- Key of a request named in a row. -/
def keyOf (k : ReqKey) : RKey := ⟨k.tp.val, k.ep, k.seq.toNat⟩

/-! Maintenance tokens (R47). -/

/-- The conflict matrix of R47: held class, requested class. -/
def maintConflict (held req : Nat) : Bool :=
  match held with
  | 0 => req ≤ 3
  | 1 => req ≤ 1 || req == 5
  | 2 => req == 0 || req == 2 || req == 3
  | 3 => req == 0 || (decide (2 ≤ req) && decide (req ≤ 4))
  | 4 => decide (3 ≤ req) && decide (req ≤ 5)
  | 5 => req == 1 || req == 4 || req == 5
  | _ => false

/-- A held token that conflicts with a class. -/
def State.maintBlock (s : State) (c : Nat) : Option Token := s.cmd.tokens.find? (fun t => maintConflict t.cls c)

/-- The holder record of BUSY_MAINT (R47). -/
def State.holder (s : State) (t : Token) : List Byte :=
  leBytes 1 t.cls ++ leBytes 1 t.tp ++ leBytes 2 (if t.tp = 4 then t.ep else Config.epCode t.tp t.ep) ++ leBytes 2 t.sess ++ leBytes 2 (cdiv (t.until_ - s.now) 1000000000)

end Sys2Proof.Machine
end

