-- ==== Sys2Proof/Machine/Dio.lean ====
section
/-! DEFINITION. The field channels (R312 to R323, R327 to R329). -/
namespace Sys2Proof.Machine

/-- Output state of a channel: 0 OFF, 1 ON, 2 TRIPPED, 3 UVOFF (R329). -/
def State.dioState (s : State) (n : Nat) : Nat := s.f (F.DIO_N_STAT_STATE n)

/-- MODE of a channel (R312). -/
def State.dioMode (s : State) (n : Nat) : Nat := s.f (F.DIO_N_CFG_MODE n)

/-- Change a channel's state beside its registers. -/
def State.modDio (s : State) (n : Nat) (g : DioCh → DioCh) : State := { s with dio := { s.dio with ch := tblMod s.dio.ch n g } }

/-- The readback flags clear when their condition ends; TRIPPED and UVOFF keep them (R316). -/
def State.dioFb (s : State) (n : Nat) : State :=
  let i := s.flag (F.DIO_N_STAT_IN n)
  match s.dioState n with
  | 0 => (s.setF (F.DIO_N_STAT_FB_ERR n) 0).when (!i || s.dioMode n != 3) (fun s => s.setF (F.DIO_N_STAT_FB_HIGH n) 0)
  | 1 => (s.setF (F.DIO_N_STAT_FB_HIGH n) 0).when i (fun s => s.setF (F.DIO_N_STAT_FB_ERR n) 0)
  | _ => s

/-- Enter an output state. -/
def State.dioEnter (s : State) (n st : Nat) : State :=
  (((s.setF (F.DIO_N_STAT_STATE n) st).setFlag (F.DIO_N_STAT_OUT n) (st == 1)).modDio n (fun c => { c with lim := false })).dioFb n

/-- The output's command is on and the block is enabled (R317, R321). -/
def State.dioOn (s : State) (n : Nat) : Bool := s.flag F.DIO_CTRL_EN && s.dioMode n == 3 && s.flag (F.DIO_N_CMD_OUT n)

/-- An output in OFF or ON follows its command (R317). -/
def State.dioFollow (s : State) (n : Nat) : State :=
  match s.dioState n with
  | 0 => if s.dioOn n then s.dioEnter n 1 else s
  | 1 => if s.dioOn n then s else s.dioEnter n 0
  | _ => s

/-- A command reaches an output (R317, R321). -/
def State.dioCommand (s : State) (n : Nat) (out : Bool) : State := (s.setFlag (F.DIO_N_CMD_OUT n) out).dioFollow n

/-- CLEAR (R317): ends TRIPPED unless the cause is over-temperature and the junction is hot. -/
def State.dioClear (s : State) (n : Nat) (eval : Bool) : State :=
  if s.dioState n ≠ 2 ∨ (s.f (F.DIO_N_STAT_CAUSE n) = 2 ∧ (tblGet s.dio.ch n).hot) then s else
  let st := if s.flag F.DIO_STAT_UV && s.dioMode n == 3 then 3 else 0
  let s1 := s.dioEnter n st
  if eval then s1.dioFollow n else s1

/-- A trip (R317): CAUSE, TRIPS, DIO_FAULT. -/
def State.dioTrip (s : State) (n cause : Nat) : State :=
  if s.dioState n ≠ 1 then s else
  (((s.dioEnter n 2).setF (F.DIO_N_STAT_CAUSE n) cause).incF (F.DIO_N_STAT_TRIPS n) 1).raise 1328

/-- The input of a channel is not evaluated (R321): IN, RAW and WBRK read 0, and the filters hold run = 0. -/
def State.dioBlank (s : State) (n : Nat) : State :=
  ((((s.setF (F.DIO_N_STAT_IN n) 0).setF (F.DIO_N_STAT_RAW n) 0).setF (F.DIO_N_STAT_WBRK n) 0).modDio n
    (fun c => { c with run := 0, wrun := 0 })).dioFb n

/-- The filter of R314 over `ticks` consecutive 1 µs ticks at which the raw value is `raw`: its count, and whether val follows. -/
def dioFilter (width run ticks : Nat) (raw val : Bool) : Nat × Bool :=
  if raw = val then (if ticks = 0 then run else 0, false)
  else if 0 < ticks ∧ width ≤ run + ticks then (0, true)
  else (run + ticks, false)

/-- The channel evaluates its input (R321). -/
def State.dioEval (s : State) (n : Nat) : Bool := s.flag F.DIO_CTRL_EN && s.dioMode n != 0

/-- MODE, FILT, EDGE, WB and WAKE of a written word, as they are stored (R315, R323, R327). -/
def dioCfgWord (n w : Nat) : Nat :=
  let w1 := putBits (w % 2 ^ 13) 8 2 (min 100 (bits w 8 2))
  let w2 := if bits w 1 0 = 1 then w1 else putBits w1 11 11 0
  if n < 8 then w2 else putBits w2 12 12 0

/-- The configuration takes effect (R312, R321). -/
def State.dioCfg (s : State) (n w : Nat) : State :=
  let old := s.dioMode n
  let s1 := s.setReg (A.DIO_N_CFG n) (toW (dioCfgWord n w))
  let new := s1.dioMode n
  let s2 := if s1.flag (F.DIO_N_CFG_WB n) then s1 else (s1.setF (F.DIO_N_STAT_WBRK n) 0).modDio n (fun c => { c with wrun := 0 })
  if old = 3 ∧ new ≠ 3 then
    let s3 := s2.setF (F.DIO_N_CMD_OUT n) 0
    let s4 := if s3.dioState n = 2 then s3 else s3.dioEnter n 0
    ((s4.setF (F.DIO_N_STAT_FB_ERR n) 0).setF (F.DIO_N_STAT_FB_HIGH n) 0).dioBlank n
  else if new = 0 then s2.dioBlank n
  else if old ≠ 3 ∧ new = 3 then
    if s2.flag F.DIO_STAT_UV && s2.dioState n == 0 then s2.dioEnter n 3 else s2.dioFollow n
  else s2

/-- A write of DIO_n_CFG (R312, R318): refused for a channel of the access function, and for a Pan's channel when MODE is not 3. -/
def State.dioCfgWrite (s : State) (who : Who) (n w : Nat) : State :=
  let o := s.owner (resId 3 n)
  if o = 5 ∨ ((o = 1 ∨ o = 2) ∧ bits w 1 0 ≠ 3) then (s.conflict (resId 3 n) (whoOwner who) 1).busErr who
  else s.dioCfg n w

/-- DIO_CFG_WRITE (R312, R318). -/
def execDioCfgWrite (who : Who) (n : Fin 64) (value : Word) (s : State) : Host.Outcome State Fault Refusal :=
  .next (s.regDo who (A.DIO_N_CFG n) (fun s => s.dioCfgWrite who n value.toNat))

/-- DIO_SET (R320): the checks in their order, then the command. -/
def bodyDioSet : Body := fixedLen 2 (fun c s =>
  let n := leAt c.pl 0 1
  let v := leAt c.pl 1 1
  let o := s.owner (resId 3 n)
  if 63 < n then s.badParam c.key 0
  else if v ≠ 0 ∧ v ≠ 1 ∧ v ≠ 0x80 then s.badParam c.key 1
  else if o = 5 then s.cmdConflict c.key (resId 3 n)
  else if s.dioMode n ≠ 3 then s.wrongState c.key (s.dioMode n)
  else if v = 0x80 then (s.dioClear n true).ok c.key []
  else if o ≠ 0 then s.cmdConflict c.key (resId 3 n)
  else (s.dioCommand n (v == 1)).ok c.key [])

/-- DIO_SET (R320). -/
def execDioSet (r : Req) (s : State) : Host.Outcome State Fault Refusal := .next (s.opcode r 6 4 bodyDioSet)

/-- A write of DIO_CTRL.EN (R321). -/
def State.dioEn (s : State) (en : Bool) : State :=
  if en = s.flag F.DIO_CTRL_EN then s else
  let s1 := s.setFlag F.DIO_CTRL_EN en
  forBelow 64 s1 (fun n s => if en then s.dioFollow n else (s.dioFollow n).dioBlank n)

/-- A write of DIO_n_CMD (R317, R329): CLEAR from any owner, then OUT where the Steward owns the channel. -/
def State.dioCmdWrite (s : State) (who : Who) (n : Nat) (out clear : Bool) : State :=
  if clear && s.owner (resId 3 n) != 0 then s.dioClear n true
  else s.ownedWrite who (resId 3 n) (fun s => (s.when clear (fun s => s.dioClear n false)).dioCommand n out)

/-- DIO_CMD_OUT (R317). -/
def execDioCmdOut (who : Who) (n : Fin 64) (out : Bool) (s : State) : Host.Outcome State Fault Refusal :=
  .next (s.regDo who (A.DIO_N_CMD n) (fun s => s.dioCmdWrite who n out false))

/-- DIO_CMD_CLEAR (R317). -/
def execDioCmdClear (who : Who) (n : Fin 64) (out : Bool) (s : State) : Host.Outcome State Fault Refusal :=
  .next (s.regDo who (A.DIO_N_CMD n) (fun s => s.dioCmdWrite who n out true))

/-- The filtered value changes (R314, R328): an edge in the direction of EDGE raises source 1,264 + n. -/
def State.dioVal (s : State) (n : Nat) (v : Bool) : State :=
  let s1 := (s.setFlag (F.DIO_N_STAT_IN n) v).dioFb n
  let e := s.f (F.DIO_N_CFG_EDGE n)
  if (v && bit e 0) || (!v && bit e 1) then s1.raise (1264 + n) else s1

/-- The deglitched comparator output has been `v` at `ticks` consecutive ticks (R314). -/
def State.dioIn (s : State) (n : Nat) (v : Bool) (ticks : Nat) : State :=
  if !s.dioEval n then s else
  let r := dioFilter (s.f (F.DIO_N_CFG_FILT n) * 100) (tblGet s.dio.ch n).run ticks v (s.flag (F.DIO_N_STAT_IN n))
  let s1 := (s.setFlag (F.DIO_N_STAT_RAW n) v).modDio n (fun c => { c with run := r.1 })
  if r.2 then s1.dioVal n v else s1

/-- DIO_WIRE_BREAK_CHANGE (R315): the sensed current has been below IWB, or not, for a number of ticks; only in wire-break
mode, evaluated, and not suspended. The filter is at least 1.0 ms wide. -/
def execDioWireBreakChange (n : Fin 64) (x : DioRun) (s : State) : Host.Outcome State Fault Refusal :=
  .next (if !s.dioEval n ∨ !s.flag (F.DIO_N_CFG_WB n) ∨ s.flag F.DIO_STAT_RED then s else
    let r := dioFilter (max 10 (s.f (F.DIO_N_CFG_FILT n)) * 100) (tblGet s.dio.ch n).wrun x.ticks.toNat x.val (s.flag (F.DIO_N_STAT_WBRK n))
    let s1 := s.modDio n (fun c => { c with wrun := r.1 })
    if r.2 then (s1.setFlag (F.DIO_N_STAT_WBRK n) x.val).when x.val (fun s => s.raise 1328) else s1)

/-- DIO_READBACK_MISMATCH (R316): the condition has lasted tRB. -/
def execDioReadbackMismatch (n : Fin 64) (s : State) : Host.Outcome State Fault Refusal :=
  let i := s.flag (F.DIO_N_STAT_IN n)
  let put := fun (x : Fld) => if s.flag x then s else (s.setF x 1).raise 1328
  .next (if s.dioMode n ≠ 3 then s
    else if s.dioState n = 1 ∧ !i then put (F.DIO_N_STAT_FB_ERR n)
    else if s.dioState n = 0 ∧ !s.dioOn n ∧ i then put (F.DIO_N_STAT_FB_HIGH n)
    else s)

/-- VDIO_UNDERVOLTAGE (R317): outputs in OFF and ON enter UVOFF; every channel's UV is 1. -/
def execVdioUndervoltage (s : State) : Host.Outcome State Fault Refusal :=
  .next ((forBelow 64 (s.setF F.DIO_STAT_UV 1) (fun n s =>
    let s1 := s.setF (F.DIO_N_STAT_UV n) 1
    if s1.dioMode n = 3 ∧ s1.dioState n ≤ 1 then s1.dioEnter n 3 else s1)).raise 1329)

/-- VDIO_RESTART (R317). -/
def execVdioRestart (s : State) : Host.Outcome State Fault Refusal :=
  .next ((forBelow 64 (s.setF F.DIO_STAT_UV 0) (fun n s =>
    let s1 := s.setF (F.DIO_N_STAT_UV n) 0
    if s1.dioState n = 3 then s1.dioEnter n (if s1.dioOn n then 1 else 0) else s1)).raise 1330)

/-- VDIO_RED_CHANGE (R315). -/
def execVdioRedChange (red : Bool) (s : State) : Host.Outcome State Fault Refusal := .next (s.setFlag F.DIO_STAT_RED red)

/-- DIO_OVERTEMP (R317): the junction reaches TSD, or has fallen to TSD − THYS. -/
def execDioOvertemp (n : Fin 64) (hot : Bool) (s : State) : Host.Outcome State Fault Refusal :=
  let s1 := s.modDio n (fun c => { c with hot := hot })
  .next (if hot then s1.dioTrip n 2 else s1)

/-- DIO_CURRENT_LIMIT (R317): the current reaches or leaves ILD. -/
def execDioCurrentLimit (n : Fin 64) (limit : Bool) (s : State) : Host.Outcome State Fault Refusal :=
  .next (if s.dioState n = 1 then s.modDio n (fun c => { c with lim := limit }) else s)

/-- DIO_LIMIT_EXPIRY (R317): tDLIM in limit. -/
def execDioLimitExpiry (n : Fin 64) (s : State) : Host.Outcome State Fault Refusal :=
  .next (if (tblGet s.dio.ch n).lim then s.dioTrip n 1 else s)

end Sys2Proof.Machine
end

