-- ==== Sys2Proof/Machine/AccBase.lean ====
section
/-! DEFINITION. What the actuator blocks tell the access block: the lock actuator latched (R362). -/
namespace Sys2Proof.Machine

/-- The lock actuator enters TRIPPED or FAULT: an open session ends with LASTEND ACTUATOR (R362). -/
def State.accTripped (s : State) (kind n : Nat) : State :=
  if s.flag F.ACC_LOCK_EN && s.f F.ACC_LOCK_KIND == kind && s.f F.ACC_LOCK_CH == n && s.flag F.ACC_STAT_SESS then
    (((s.setF F.ACC_STAT_SESS 0).setF F.ACC_STAT_LASTEND 3).raise 1427)
  else s

end Sys2Proof.Machine
end

