-- ==== Sys2Proof/Machine/Hss.lean ====
section
/-! DEFINITION. The protected high-side switches (R263 to R287). A paralleled pair acts under its even channel, its leader. -/
namespace Sys2Proof.Machine

/-- The channel's state beside its registers. -/
def State.hssCh (s : State) (n : Nat) : HssCh := tblGet s.hss.ch n

/-- Change a channel's state. -/
def State.modHss (s : State) (n : Nat) (g : HssCh → HssCh) : State :=
  { s with hss := { s.hss with ch := tblMod s.hss.ch n g } }

/-- The channel whose command and configuration act on channel `n` (R269). -/
def State.hssLead (s : State) (n : Nat) : Nat := if n % 2 = 1 ∧ s.flag (F.HSS_N_CFG_PAR (n - 1)) then n - 1 else n

/-- The channels that act together with leader `m` (R269). -/
def State.hssAll (s : State) (m : Nat) : List Nat := if m % 2 = 0 ∧ s.flag (F.HSS_N_CFG_PAR m) then [m, m + 1] else [m]

/-- Do a change on every channel of a leader. -/
def State.hssEach (s : State) (m : Nat) (g : Nat → State → State) : State := (s.hssAll m).foldl (fun s n => g n s) s

/-- STATE of a channel (R287). -/
def State.hssState (s : State) (n : Nat) : Nat := s.f (F.HSS_N_STAT_STATE n)

/-- Duty of the last command: the one in force, or the one that waits for a period start (R267). -/
def State.hssCmdDuty (s : State) (m : Nat) : Nat := ((s.hssCh m).want).getD (s.f (F.HSS_N_CMD_DUTY m))

/-- The channel's command is on; with EN = 0 every channel is held off (R266). -/
def State.hssOnCmd (s : State) (m : Nat) : Bool := s.flag F.HSS_CTRL_EN && s.hssCmdDuty m != 0

/-- The channel, or either half of a pair, carries an interlock mark (R269, R360). -/
def State.hssIlk (s : State) (m : Nat) : Bool := (s.hssAll m).any (fun n => s.flag (F.HSS_N_DCFG_ILK n))

/-- The occupancy gate holds the channel off (R277). -/
def State.hssHeld (s : State) (m : Nat) : Bool := s.hssIlk m && s.flag F.ACC_GATE_CLOSED

/-- The junction of a channel, or of either half of a pair, is above TSD − THYS. -/
def State.hssHot (s : State) (m : Nat) : Bool := (s.hssAll m).any (fun n => (s.hssCh n).hot)

/-- Drive a channel or stop driving it. -/
def State.hssDrive (s : State) (m : Nat) (on : Bool) : State :=
  s.hssEach m (fun n s => (s.setFlag (F.HSS_N_STAT_OUT n) on).when (!on) (fun s => s.setF (F.HSS_N_STAT_LIMIT n) 0))

/-- Enter a state with the driver off; the limit timer returns to 0 with it (R270, R276). -/
def State.hssOff (s : State) (m st : Nat) : State :=
  (s.hssEach m (fun n s => s.setF (F.HSS_N_STAT_STATE n) st)).hssDrive m false
    |>.modHss m (fun c => { c with retryDue := false, slot := false, joining := false })

/-- Turn on; `window` opens a new warm-up window (R271). A waiting duty takes effect now. -/
def State.hssOn (s : State) (m : Nat) (window : Bool) : State :=
  let d := s.hssCmdDuty m
  let s1 := s.setF (F.HSS_N_CMD_DUTY m) d
  let w := window && decide (s1.f (F.HSS_N_CFG_LAMP_N m) ≠ 0)
  let s2 := s1.modHss m (fun c => { c with want := none, slot := false, retryDue := false, joining := decide (d ≠ 0xFFFF),
                                           onAt := s.now, window := w || (c.window && !window) })
  (s2.hssEach m (fun n s =>
    let s3 := ((s.modHss n (fun c => { c with uc := 0 })).setF (F.HSS_N_STAT_STATE n) 1).setF (F.HSS_N_STAT_GATED n) 0
    if w then s3.setF (F.HSS_N_STAT_QRET n) 0 else s3)).hssDrive m true

/-- GATED on every channel of a leader. -/
def State.hssGated (s : State) (m : Nat) : State := s.hssEach m (fun n s => s.setF (F.HSS_N_STAT_GATED n) 1)

/-- A channel that is OFF follows its command (R276). -/
def State.hssFollow (s : State) (m : Nat) : State :=
  if !s.hssOnCmd m then s else if s.hssHeld m then s.hssGated m else s.hssOn m true

/-- A duty takes effect at once, or waits for the next period start (R267). -/
def State.hssTake (s : State) (m d : Nat) : State :=
  let old := s.f (F.HSS_N_CMD_DUTY m)
  if d = 0 ∨ d = 0xFFFF ∨ old = 0 ∨ d = old ∨ s.hssState m = 0 ∨ !s.flag F.HSS_CTRL_EN then
    (s.setF (F.HSS_N_CMD_DUTY m) d).modHss m (fun c => { c with want := none })
  else s.modHss m (fun c => { c with want := some d })

/-- A new command reaches a channel (R266, R267, R276). -/
def State.hssCommand (s : State) (m d : Nat) : State :=
  let s1 := (s.modHss m (fun c => { c with seen := true })).hssTake m d
  if !s1.flag F.HSS_CTRL_EN then s1 else
  match s1.hssState m with
  | 0 => s1.hssFollow m
  | 1 | 2 => if d = 0 then s1.hssOff m 0 else if d = 0xFFFF then (s1.hssDrive m true).modHss m (fun c => { c with joining := false }) else s1
  | 3 | 4 => if d = 0 then s1.hssOff m 0 else s1
  | 6 => if d = 0 ∧ (s1.hssCh m).slot then s1.hssOff m 0 else s1
  | _ => s1

/-- CLEAR (R273): ends TRIPPED, unless the cause is over-temperature and the junction is still hot. A channel that becomes OFF
while its group is down enters GRPOFF with the others (R275). -/
def State.hssClear (s : State) (n : Nat) (eval : Bool) : State :=
  let m := s.hssLead n
  if n ≠ m ∨ s.hssState m ≠ 5 ∨ (s.f (F.HSS_N_STAT_CAUSE m) = 2 ∧ s.hssHot m) then s else
  let down := s.flag (F.HSS_GRP_STAT_UV (m / 8)) || s.flag (F.HSS_GRP_STAT_OV (m / 8))
  let s1 := (s.hssEach m (fun n s => (s.setF (F.HSS_N_STAT_OCCNT n) 0).setF (F.HSS_N_STAT_OTCNT n) 0)).hssOff m (if down then 6 else 0)
  if eval && !down then s1.hssFollow m else s1

/-- Latch TRIPPED (R272, R286, R362). -/
def State.hssTrip (s : State) (m : Nat) : State :=
  (s.hssOff m 5).hssEach m (fun n s => ((s.incF (F.HSS_N_FLT_TRIPS n) 1).raise (1024 + 3 * n)).accTripped 0 n)

/-- A protection turn-off with a cause (R272, R276): a retry while the count allows one, else TRIPPED. -/
def State.hssFault (s : State) (m cause : Nat) : State :=
  let s1 := s.hssEach m (fun n s => s.setF (F.HSS_N_STAT_CAUSE n) cause)
  let cnt := if cause = 1 then F.HSS_N_STAT_OCCNT else F.HSS_N_STAT_OTCNT
  let lim := if cause = 1 then s.f (F.HSS_N_CFG_OC_RETRY m) else s.f (F.HSS_N_CFG_OT_RETRY m)
  if s1.f (cnt m) < lim then (s1.hssEach m (fun n s => s.incF (cnt n) 1)).hssOff m 4 else s1.hssTrip m

/-- The leaders of a group. -/
def State.hssLeads (s : State) (g : Nat) : List Nat := ((List.range 8).map (fun i => 8 * g + i)).filter (fun n => s.hssLead n == n)

/-- Every channel of a group that is not TRIPPED enters GRPOFF (R275, R276). -/
def State.hssGroupOff (s : State) (g : Nat) : State :=
  (s.hssLeads g).foldl (fun s m => if s.hssState m = 5 then s else s.hssOff m 6) s

/-- The gate closes (R276): interlocked channels turn off or leave their restart slot. -/
def State.hssGateClose (s : State) : State :=
  forBelow 48 s (fun m s =>
    if s.hssLead m ≠ m ∨ !s.hssIlk m then s else
    match s.hssState m with
    | 1 | 2 | 3 | 4 => (s.hssOff m 0).hssGated m
    | 6 => if (s.hssCh m).slot then (s.hssOff m 0).hssGated m else s
    | _ => s)

/-! PWM (R267). The PWR clock is 50 MHz: 20 ns a cycle. -/

/-- PWM period in PWR cycles at a frequency. -/
def hssPeriod (hz : Nat) : Nat := 50000000 / (if hz = 0 then 200 else hz)

/-- A group's grid brought up to the present: a new frequency enters at the end of the period then running. -/
def State.hssGrid (s : State) (g : Nat) : State :=
  let x := tblGet s.hss.grp g
  let p := hssPeriod x.hz * 20
  if s.now < x.start + p then s else
  let hz := s.f (F.HSS_GRP_CFG_PWM_HZ g)
  let first := x.start + p
  let q := hssPeriod hz * 20
  { s with hss := { s.hss with grp := tblSet s.hss.grp g { hz := hz, start := first + (s.now - first) / q * q } } }

/-- On-time of a duty in PWR cycles: not below tMINPW (50 µs); the whole period where the off-time would be below it. -/
def hssOnTime (p d : Nat) : Nat :=
  let on := max 2500 (d * p / 65536)
  if p < on + 2500 then p else on

/-- PWM period in force of a channel's group. -/
def State.hssP (s : State) (m : Nat) : Nat := hssPeriod (tblGet s.hss.grp (m / 8)).hz

/-- The channel runs a PWM duty. -/
def State.hssPwm (s : State) (m : Nat) : Bool :=
  let d := s.f (F.HSS_N_CMD_DUTY m)
  d != 0 && d != 0xFFFF

/-- A channel's period start: a waiting duty takes effect, the on-phase begins (R267, R278). -/
def State.hssPeriodStart (s : State) (n : Nat) : State :=
  let m := s.hssLead n
  let s0 := s.hssGrid (m / 8)
  let s1 := match (s0.hssCh m).want with
    | some d => (s0.setF (F.HSS_N_CMD_DUTY m) d).modHss m (fun c => { c with want := none })
    | none => s0
  if (s1.hssState m ≠ 1 ∧ s1.hssState m ≠ 2) ∨ !s1.hssPwm m then s1 else
  let c := s1.hssCh m
  if c.joining && (s1.flag (F.HSS_N_STAT_OUT m) || decide (s1.now < c.offAt + 50000)) then s1 else
  let s2 := s1.hssEach m (fun k s => s.when (!(s.hssCh k).sampled) (fun s => s.setF (F.HSS_N_MEAS_NOSAMP k) 1))
  ((s2.hssEach m (fun k s => s.modHss k (fun c => { c with sampled := false }))).modHss m
    (fun c => { c with joining := false })).hssDrive m true

/-- A channel's on-time ends (R267); the off-phase is part of ON. -/
def State.hssOnEnd (s : State) (n : Nat) : State :=
  let m := s.hssLead n
  let st := s.hssState m
  if (st ≠ 1 ∧ st ≠ 2) ∨ !s.hssPwm m ∨ !s.flag (F.HSS_N_STAT_OUT m) then s
  else if hssOnTime (s.hssP m) (s.f (F.HSS_N_CMD_DUTY m)) = s.hssP m ∧ !(s.hssCh m).joining then s
  else ((s.hssEach m (fun k s => s.when (s.hssState k == 2) (fun s => s.setF (F.HSS_N_STAT_STATE k) 1))).hssDrive m false).modHss m
    (fun c => { c with offAt := s.now })

/-! Measurement (R278 to R280, R282). -/

/-- CURRENT of a code in 0.5 mA (R278). -/
def hssMa (code range : Nat) : Nat := if range = 0 then code * 125 / 256 else code * 125 / 8

/-- The channel's own reading in 0.5 mA. -/
def State.hssOwn (s : State) (n : Nat) : Nat := hssMa (s.f (F.HSS_N_MEAS_CODE n)) (s.f (F.HSS_N_MEAS_RANGE n))

/-- CURRENT of a leader and its pair: a pair's leader reads the sum, saturating (R269). -/
def State.hssCurrent (s : State) (m : Nat) : State :=
  let s1 := s.hssEach m (fun n s => s.setF (F.HSS_N_MEAS_CURRENT n) (min 65535 (s.hssOwn n)))
  s1.setF (F.HSS_N_MEAS_CURRENT m) (min 65535 (((s1.hssAll m).map s1.hssOwn).foldl (· + ·) 0))

/-- Store a sample. -/
def State.hssReading (s : State) (n code range : Nat) : State :=
  let s1 := ((((s.setF (F.HSS_N_MEAS_CODE n) code).setF (F.HSS_N_MEAS_RANGE n) range).setF (F.HSS_N_MEAS_STALE n) 0).setF
    (F.HSS_N_MEAS_NOSAMP n) 0).setFlag (F.HSS_N_MEAS_SAT n) (code == 4095)
  (s1.modHss n (fun c => { c with sampled := true })).hssCurrent (s.hssLead n)

/-- The under-current test of R282 on the last sample, with 10 mA in place of a threshold of 0 for a sweep (R283); the 10 mA then
clear UNDERCUR too (DESIGN CHOICE, log 166). A sample at or above it ends both runs in any state of the channel; one
below it counts in ON, tBLANK after a turn-on. -/
def State.hssUnder (s : State) (n : Nat) : State :=
  let m := s.hssLead n
  let ma := s.f (F.HSS_N_DCFG_UC_MA m)
  let need := s.f (F.HSS_N_DCFG_UC_N m)
  let c := s.hssCh n
  if (if ma = 0 then 20 else 2 * ma) ≤ s.hssOwn n then
    (s.modHss n (fun c => { c with uc := 0, sw := if need ≤ c.sw then c.sw else 0 })).setF (F.HSS_N_STAT_UNDERCUR n) 0
  else if s.hssState n ≠ 1 ∨ s.now < (s.hssCh m).onAt + s.f (F.HSS_N_CFG_BLANK m) * 100000 then s
  else
    let k := if ma = 0 then 0 else c.uc + 1
    let s1 := s.modHss n (fun c => { c with uc := k, sw := min need (c.sw + 1) })
    if ma ≠ 0 ∧ need ≤ k ∧ !s.flag (F.HSS_N_STAT_UNDERCUR n) then
      (s1.setF (F.HSS_N_STAT_UNDERCUR n) 1).raise (1026 + 3 * n)
    else s1

/-- A range change begins (R279): the reading is held, STALE set. -/
def State.hssRange (s : State) (n r : Nat) : State :=
  (s.modHss n (fun c => { c with newRange := some r, low := 0 })).setF (F.HSS_N_MEAS_STALE n) 1

/-- The automatic range rule on the last sample (R279). -/
def State.hssAuto (s : State) (n : Nat) : State :=
  if s.f (F.HSS_N_DCFG_RANGE (s.hssLead n)) ≠ 0 then s else
  let code := s.f (F.HSS_N_MEAS_CODE n)
  if s.f (F.HSS_N_MEAS_RANGE n) = 0 then (if 3890 ≤ code then s.hssRange n 1 else s)
  else if 109 < code then s.modHss n (fun c => { c with low := 0 })
  else
    let k := (s.hssCh n).low + 1
    if 4 ≤ k then s.hssRange n 0 else s.modHss n (fun c => { c with low := k })

/-- A fixed RANGE other than the range in use, or than the one a change goes to, starts a range change (R279). -/
def State.hssFixRange (s : State) (n : Nat) : State :=
  let r := s.f (F.HSS_N_DCFG_RANGE (s.hssLead n))
  if r = 0 ∨ ((s.hssCh n).newRange).getD (s.f (F.HSS_N_MEAS_RANGE n)) = r - 1 then s else s.hssRange n (r - 1)

/-- A current sample (R278): none while STALE, and none in a PWM off-phase. -/
def State.hssSample (s : State) (n code : Nat) : State :=
  let m := s.hssLead n
  if s.flag (F.HSS_N_MEAS_STALE n) ∨ (s.hssState m ≠ 0 ∧ s.hssPwm m ∧ !s.flag (F.HSS_N_STAT_OUT m)) then s
  else ((s.hssReading n code (s.f (F.HSS_N_MEAS_RANGE n))).hssUnder n).hssAuto n

/-! The rows. -/

/-- HSS_SET (R265, R40): parameters, owner, limit code, CLEAR, then the duty. -/
def bodyHssSet : Body := fixedLen 4 (fun c s =>
  let n := leAt c.pl 0 1
  let d := leAt c.pl 1 2
  let l := leAt c.pl 3 1
  if 47 < n then s.badParam c.key 0
  else if bits l 6 2 ≠ 0 then s.badParam c.key 3
  else if s.owner (resId 1 n) ≠ 0 then s.cmdConflict c.key (resId 1 n)
  else
    let s1 := s.setF (F.HSS_N_CFG_ILIM n) (l % 4)
    if d ≠ 0 ∧ s1.hssHeld n then
      ((s1.when (bit l 7) (fun s => s.hssClear n false)).hssGated n).finish c.key stInterlocked []
    else ((s1.when (bit l 7) (fun s => s.hssClear n false)).hssCommand n d).ok c.key [])

/-- HSS_SET (R265). -/
def execHssSet (r : Req) (s : State) : Host.Outcome State Fault Refusal := .next (s.opcode r 6 1 bodyHssSet)

/-- A channel that OPEN_LOAD_SWEEP cannot test (R283): in PWM, in a protection state, or in a REDUCED group; and an OFF channel
whose pull-up may not be on, with EN = 0 or before its owner's first command (R266; DESIGN CHOICE, log 166). -/
def State.hssNotTested (s : State) (n : Nat) : Bool :=
  let m := s.hssLead n
  let st := s.hssState n
  s.flag (F.HSS_GRP_STAT_REDUCED (n / 8)) || decide (2 ≤ st) || (st == 1 && s.hssPwm m) ||
  (st == 0 && !(s.flag F.HSS_CTRL_EN && (s.hssCh m).seen))

/-- OPEN_LOAD_SWEEP (R283): accepted; the completion follows the sweep. One sweep runs at a time. -/
def bodyOpenLoadSweep : Body := fixedLen 8 (fun c s =>
  let m := leVal c.pl
  if m / 2 ^ 48 ≠ 0 then s.badParam c.key 0
  else match firstBelow 48 (fun n => bit m n && s.owner (resId 1 n) != 0) with
    | some n => s.cmdConflict c.key (resId 1 n)
    | none =>
      if s.flag F.HSS_SWEEP_BUSY then s.wrongState c.key 1 else
      let s := forBelow 48 s (fun n s => s.when (bit m n) (fun s => s.modHss n (fun x => { x with sw := 0 })))
      (({ s with hss := { s.hss with sweep := some (c.key, m) } }.setF F.HSS_SWEEP_BUSY 1).stopServed 4).accept c.key)

/-- OPEN_LOAD_SWEEP (R283). -/
def execOpenLoadSweep (r : Req) (s : State) : Host.Outcome State Fault Refusal := .next (s.opcode r 6 5 bodyOpenLoadSweep)

/-- A stored command taken as a new one (R266, R276): from OFF, and off from GRPOFF where the restart has begun. -/
def State.hssAgain (s : State) (m : Nat) : State :=
  match s.hssState m with
  | 0 => s.hssFollow m
  | 6 => if (s.hssCh m).slot && !s.hssOnCmd m then s.hssOff m 0 else s
  | _ => s

/-- HSS_CTRL.EN := 1 (R266, R267): the grids start and every channel takes its stored command as a new one. -/
def State.hssEnable (s : State) : State :=
  let s1 := s.setF F.HSS_CTRL_EN 1
  let s2 := forBelow 6 s1 (fun g s => { s with hss := { s.hss with
    grp := tblSet s.hss.grp g { hz := s.f (F.HSS_GRP_CFG_PWM_HZ g), start := s.now } } })
  forBelow 48 s2 (fun m s => if s.hssLead m = m then s.hssAgain m else s)

/-- HSS_CTRL.EN := 0 (R266): a commanded turn-off of every channel, its stored command kept. -/
def State.hssDisable (s : State) : State :=
  forBelow 48 (s.setF F.HSS_CTRL_EN 0) (fun m s =>
    if s.hssLead m = m ∧ 1 ≤ s.hssState m ∧ s.hssState m ≤ 4 then s.hssOff m 0 else s)

/-- A write of HSS_CTRL.EN. -/
def State.hssEn (s : State) (en : Bool) : State :=
  if en = s.flag F.HSS_CTRL_EN then s else if en then s.hssEnable else s.hssDisable

/-- HSS_CTRL_EN_WRITE (R266). -/
def execHssCtrlEnWrite (who : Who) (en : Bool) (s : State) : Host.Outcome State Fault Refusal :=
  .next (s.regDo who A.HSS_CTRL (fun s => s.hssEn en))

/-- A write of HSS_n_CMD (R264, R269, R273): CLEAR from any owner, then the duty where the Steward owns the channel. -/
def State.hssCmdWrite (s : State) (who : Who) (n duty : Nat) (clear : Bool) : State :=
  if s.hssLead n ≠ n then (if clear then s else s.ownedWrite who (resId 1 n) id)
  else if clear && s.owner (resId 1 n) != 0 then s.hssClear n true
  else s.ownedWrite who (resId 1 n) (fun s => (s.when clear (fun s => s.hssClear n false)).hssCommand n duty)

/-- HSS_CMD_DUTY (R264). -/
def execHssCmdDuty (who : Who) (n : Fin 48) (duty : BitVec 16) (s : State) : Host.Outcome State Fault Refusal :=
  .next (s.regDo who (A.HSS_N_CMD n) (fun s => s.hssCmdWrite who n duty.toNat false))

/-- HSS_CMD_CLEAR (R264, R273). -/
def execHssCmdClear (who : Who) (n : Fin 48) (duty : BitVec 16) (s : State) : Host.Outcome State Fault Refusal :=
  .next (s.regDo who (A.HSS_N_CMD n) (fun s => s.hssCmdWrite who n duty.toNat true))

/-- A write of PAR (R269). The odd half takes the RANGE of the channel whose configuration now acts on it. A write that leaves PAR
as it is, is an accepted one while both channels are OFF, and no refused one else (DESIGN CHOICE, log 167). -/
def State.hssPar (s : State) (n : Nat) (par : Bool) : State :=
  let busy := s.hssState n != 0 || s.hssState (n + 1) != 0
  if n % 2 = 1 then s
  else if par = s.flag (F.HSS_N_CFG_PAR n) then (if busy then s else s.setF (F.HSS_N_STAT_PARERR n) 0)
  else if !par then (if busy then s.setF (F.HSS_N_STAT_PARERR n) 1
    else (((s.setF (F.HSS_N_CFG_PAR n) 0).setF (F.HSS_N_STAT_PARERR n) 0).release 4 (resId 1 (n + 1))).hssFixRange (n + 1))
  else if !s.claimable 4 (resId 1 (n + 1)) then (s.setF (F.HSS_N_STAT_PARERR n) 1).conflict (resId 1 (n + 1)) 4 0
  else if busy then s.setF (F.HSS_N_STAT_PARERR n) 1
  else (((s.setF (F.HSS_N_CFG_PAR n) 1).setF (F.HSS_N_STAT_PARERR n) 0).setOwner (resId 1 (n + 1)) 4).hssFixRange (n + 1)

/-- HSS_PAR_WRITE (R269). -/
def execHssParWrite (who : Who) (n : Fin 48) (par : Bool) (s : State) : Host.Outcome State Fault Refusal :=
  .next (s.regDo who (A.HSS_N_CFG n) (fun s => s.hssPar n par))

/-- HSS_PWM_HZ_WRITE (R267, R285): the register reads the new value, the grid takes it at the end of the running period. -/
def execHssPwmHzWrite (who : Who) (g : Fin 6) (hz : BitVec 11) (s : State) : Host.Outcome State Fault Refusal :=
  .next (s.regDo who (A.HSS_GRP_CFG g) (fun s => (s.hssGrid g).setF (F.HSS_GRP_CFG_PWM_HZ g) (max 100 (min 2000 hz.toNat))))

/-- HSS_PERIOD_START (R267). -/
def execHssPeriodStart (n : Fin 48) (s : State) : Host.Outcome State Fault Refusal := .next (s.hssPeriodStart n)

/-- HSS_ON_TIME_END (R267). -/
def execHssOnTimeEnd (n : Fin 48) (s : State) : Host.Outcome State Fault Refusal := .next (s.hssOnEnd n)

/-- HSS_GROUP_UNDERVOLTAGE (R275): UV, counted and raised; the group goes off. -/
def execHssGroupUndervoltage (g : Fin 6) (s : State) : Host.Outcome State Fault Refusal :=
  .next ((((s.setF (F.HSS_GRP_STAT_UV g) 1).incF (F.HSS_GRP_CNT_UVCNT g) 1).hssGroupOff g).raise (1168 + 3 * g.val))

/-- HSS_GROUP_OVERVOLTAGE (R275). -/
def execHssGroupOvervoltage (g : Fin 6) (s : State) : Host.Outcome State Fault Refusal :=
  .next ((((s.setF (F.HSS_GRP_STAT_OV g) 1).incF (F.HSS_GRP_CNT_OVCNT g) 1).hssGroupOff g).raise (1169 + 3 * g.val))

/-- One channel at its group's restart instant (R275, R276). -/
def State.hssRestart (s : State) (m : Nat) : State :=
  if s.hssState m ≠ 6 then s
  else if !s.hssOnCmd m then s.hssOff m 0
  else if s.hssHeld m then (s.hssOff m 0).hssGated m
  else s.modHss m (fun c => { c with slot := true })

/-- A channel's restart slot (R275, R276): it turns on with a new window when its command is on and the gate does not hold it;
else it enters OFF and the slot is left unused, which for EN = 0 the spec does not say (DESIGN CHOICE, log 169). -/
def State.hssSlot (s : State) (m : Nat) : State :=
  if s.hssState m ≠ 6 ∨ !(s.hssCh m).slot then s
  else if !s.hssOnCmd m then s.hssOff m 0
  else if s.hssHeld m then (s.hssOff m 0).hssGated m
  else s.hssOn m true

/-- HSS_GROUP_RESTART (R275): UV and OV end; channels whose command is on get slots, the first of them now. -/
def execHssGroupRestart (g : Fin 6) (s : State) : Host.Outcome State Fault Refusal :=
  let s1 := (s.setF (F.HSS_GRP_STAT_UV g) 0).setF (F.HSS_GRP_STAT_OV g) 0
  let s2 := (s1.hssLeads g).foldl State.hssRestart s1
  let s3 := match (s2.hssLeads g).find? (fun m => (s2.hssCh m).slot) with
    | some m => s2.hssSlot m
    | none => s2
  .next (s3.raise (1170 + 3 * g.val))

/-- HSS_RESTART_SLOT (R275). -/
def execHssRestartSlot (n : Fin 48) (s : State) : Host.Outcome State Fault Refusal := .next (s.hssSlot (s.hssLead n))

/-- HSS_REDUCED_CHANGE (R275): REDUCED, and OL_NT while the off-state tests are suspended. -/
def execHssReducedChange (g : Fin 6) (reduced : Bool) (s : State) : Host.Outcome State Fault Refusal :=
  .next (forBelow 8 (s.setFlag (F.HSS_GRP_STAT_REDUCED g) reduced)
    (fun i s => s.setFlag (F.HSS_N_STAT_OL_NT (8 * g.val + i)) reduced))

/-- HSS_OVERTEMP (R272, R276). -/
def execHssOvertemp (n : Fin 48) (s : State) : Host.Outcome State Fault Refusal :=
  let s1 := s.modHss n (fun c => { c with hot := true })
  let m := s1.hssLead n
  .next (if s1.hssState n = 1 ∨ s1.hssState n = 2 then s1.hssFault m 2 else s1)

/-- The current limit in use of a leader: the image's ILIM, else CFG.ILIM (R268, R269). -/
def State.hssIlim (s : State) (m : Nat) : Nat := ((s.hssCh m).ilim).getD (s.f (F.HSS_N_CFG_ILIM m))

/-- HSS_LIMIT_START (R268, R270, R276): the current reaches the limit of a code; it regulates where that is the channel's. -/
def execHssLimitStart (x : HssLimit) (s : State) : Host.Outcome State Fault Refusal :=
  .next (if s.hssState x.n ≠ 1 ∨ !s.flag (F.HSS_N_STAT_OUT x.n) ∨ s.hssIlim (s.hssLead x.n) ≠ x.code.val then s else
    ((s.setF (F.HSS_N_STAT_STATE x.n) 2).setF (F.HSS_N_STAT_LIMIT x.n) 1).raise (1025 + 3 * x.n.val))

/-- HSS_LIMIT_END (R276). -/
def execHssLimitEnd (n : Fin 48) (s : State) : Host.Outcome State Fault Refusal :=
  .next (if s.hssState n ≠ 2 then s else (s.setF (F.HSS_N_STAT_STATE n) 1).setF (F.HSS_N_STAT_LIMIT n) 0)

/-- HSS_LIMIT_TIMER_EXPIRY (R271, R272, R276): a quick retry in the warm-up window, else an over-current. -/
def execHssLimitTimerExpiry (n : Fin 48) (s : State) : Host.Outcome State Fault Refusal :=
  let m := s.hssLead n
  .next (if s.hssState n ≠ 2 then s
    else if (s.hssCh m).window && decide (s.f (F.HSS_N_STAT_QRET m) < s.f (F.HSS_N_CFG_LAMP_N m)) then
      (s.hssEach m (fun k s => s.incF (F.HSS_N_STAT_QRET k) 1)).hssOff m 3
    else s.hssFault m 1)

/-- HSS_BLANK_EXPIRY (R270, R271): tBLANK in ON without limit closes the window; QRET keeps its value. -/
def execHssBlankExpiry (n : Fin 48) (s : State) : Host.Outcome State Fault Refusal :=
  let m := s.hssLead n
  .next (if s.hssState m = 1 then s.modHss m (fun c => { c with window := false }) else s)

/-- HSS_QOFF_EXPIRY (R276). -/
def execHssQoffExpiry (n : Fin 48) (s : State) : Host.Outcome State Fault Refusal :=
  let m := s.hssLead n
  .next (if s.hssState m = 3 ∧ s.hssOnCmd m then s.hssOn m false else s)

/-- A channel in RWAIT whose tRETRY has passed turns on when it may (R272, R276). -/
def State.hssRetry (s : State) (m : Nat) : State :=
  if s.hssState m ≠ 4 ∨ !(s.hssCh m).retryDue ∨ !s.hssOnCmd m then s
  else if s.f (F.HSS_N_STAT_CAUSE m) = 1 ∨ !s.hssHot m then s.hssOn m false
  else s

/-- HSS_RETRY_EXPIRY (R272, R276). -/
def execHssRetryExpiry (n : Fin 48) (s : State) : Host.Outcome State Fault Refusal :=
  let m := s.hssLead n
  .next (if s.hssState m = 4 then (s.modHss m (fun c => { c with retryDue := true })).hssRetry m else s)

/-- HSS_RCLR_EXPIRY (R272). -/
def execHssRclrExpiry (n : Fin 48) (s : State) : Host.Outcome State Fault Refusal :=
  let m := s.hssLead n
  .next (if s.hssState m ≠ 1 then s else
    s.hssEach m (fun k s => (s.setF (F.HSS_N_STAT_OCCNT k) 0).setF (F.HSS_N_STAT_OTCNT k) 0))

/-- HSS_CURRENT_SAMPLE (R278, R279, R282). -/
def execHssCurrentSample (n : Fin 48) (code : BitVec 12) (s : State) : Host.Outcome State Fault Refusal :=
  .next (s.hssSample n code.toNat)

/-- HSS_RANGE_CHANGE_DONE (R279): the first sample in the new range. -/
def execHssRangeChangeDone (n : Fin 48) (code : BitVec 12) (s : State) : Host.Outcome State Fault Refusal :=
  .next (match (s.hssCh n).newRange with
    | none => s
    | some r => (((s.modHss n (fun c => { c with newRange := none, low := 0 })).hssReading n code.toNat r).hssUnder n).hssAuto n)

/-- HSS_TEMP_SAMPLE (R272, R280): TJ and TJMAX, OTW at TWARN; a channel that waited for its junction retries. -/
def execHssTempSample (n : Fin 48) (tj : BitVec 8) (warn hot : Bool) (s : State) : Host.Outcome State Fault Refusal :=
  let s1 := (s.setF (F.HSS_N_TEMP_TJ n) tj.toNat).setF (F.HSS_N_TEMP_TJMAX n) (max (s.f (F.HSS_N_TEMP_TJMAX n)) tj.toNat)
  let s2 := (s1.setFlag (F.HSS_N_STAT_OTW n) warn).modHss n (fun c => { c with hot := hot })
  .next (s2.hssRetry (s2.hssLead n))

/-- Record the result of an off-state test in a flag (R281): a change from 0 to 1 raises HSS_n_DIAG. -/
def State.hssDiag (s : State) (n : Nat) (x : Fld) (b : Bool) : State :=
  (s.setFlag x b).when (b && !s.flag x) (fun s => s.raise (1026 + 3 * n))

/-- HSS_OFFSTATE_TEST (R281): OUT against VOLTH with the pull-up on, or with it off for the short to supply. A channel tests
itself when it is OFF by command, in continuous mode, enabled, commanded before, and its group is not REDUCED. -/
def execHssOffstateTest (n : Fin 48) (pullup above : Bool) (s : State) : Host.Outcome State Fault Refusal :=
  .next (if s.hssLead n ≠ n.val ∨ !s.flag F.HSS_CTRL_EN ∨ !(s.hssCh n).seen ∨ s.f (F.HSS_N_DCFG_OLMODE n) ≠ 1 ∨
      s.hssState n ≠ 0 ∨ s.hssOnCmd n ∨ s.flag (F.HSS_GRP_STAT_REDUCED (n.val / 8)) then s
    else s.hssDiag n (if pullup then F.HSS_N_STAT_OPEN_OFF n else F.HSS_N_STAT_SHORT_SUP n) above)

/-- A mask of the channels for which `p` holds. -/
def hssMask (p : Nat → Bool) : Nat := (List.range 48).foldl (fun x n => x + b2n (p n) * 2 ^ n) 0

/-- The under-current test of a sweep found UC_N consecutive samples below the threshold (R283). -/
def State.hssSweepUnder (s : State) (n : Nat) : Bool := decide (s.f (F.HSS_N_DCFG_UC_N (s.hssLead n)) ≤ (s.hssCh n).sw)

/-- The tests of one channel in a sweep (R283). -/
def State.hssSweepCh (s : State) (open_ short : Nat) (n : Nat) : State :=
  if s.hssState n = 0 then
    (s.hssDiag n (F.HSS_N_STAT_OPEN_OFF n) (bit open_ n)).hssDiag n (F.HSS_N_STAT_SHORT_SUP n) (bit short n)
  else if s.hssSweepUnder n then s.hssDiag n (F.HSS_N_STAT_UNDERCUR n) true else s

/-- The end of a sweep (R283, R48): results per channel, the two masks, the completion. -/
def State.hssSwept (s : State) (opens shorts : BitVec 48) : State :=
  match s.hss.sweep with
    | none => s
    | some (k, m) =>
      let s0 := { s with hss := { s.hss with sweep := none } }.setF F.HSS_SWEEP_BUSY 0
      if s0.mustStop 4 then s0.failStopped k 4 else
      let nt := hssMask (fun n => bit m n && s.hssNotTested n)
      let tested := fun n => bit m n && !s.hssNotTested n
      let s1 := forBelow 48 s0 (fun n s => s.when (tested n) (fun s => s.hssSweepCh opens.toNat shorts.toNat n))
      let ol := hssMask (fun n => tested n && (if s.hssState n = 0 then bit opens.toNat n || bit shorts.toNat n else s.hssSweepUnder n))
      let s2 := ((s1.setF F.HSS_SWEEP_OL_L_BITS ol).setF F.HSS_SWEEP_OL_H_BITS (ol / 2 ^ 32)).setF F.HSS_SWEEP_NT_L_BITS nt
      ((s2.setF F.HSS_SWEEP_NT_H_BITS (nt / 2 ^ 32)).raise 1186).ok k (leBytes 8 ol)

/-- HSS_SWEEP_DONE (R283): the channels that the off-state tests of R281 found open, and those they found shorted, split into two words as
the registers of the results are. -/
def execHssSweepDone (opens : BitVec 48) (shortL : BitVec 32) (shortH : BitVec 16) (s : State) : Host.Outcome State Fault Refusal :=
  .next (s.hssSwept opens (shortH ++ shortL))

end Sys2Proof.Machine
end

