-- ==== Sys2Proof/Machine/Sol.lean ====
section
/-! DEFINITION. The solenoid and contactor drivers (R288 to R311). A paralleled pair acts under its even channel, its leader. -/
namespace Sys2Proof.Machine

/-- The channel's state beside its registers. -/
def State.solCh (s : State) (n : Nat) : SolCh := tblGet s.sol.ch n

/-- STATE of a channel: 0 OFF, 1 RUN, 2 HOLD, 3 DRAIN, 4 WAITOFF, 5 FAULT (R311). -/
def State.solState (s : State) (n : Nat) : Nat := s.f (F.SOL_N_STAT_STATE n)

/-- Change a channel's state; QLEN and HELDCMD follow its queue (R311). -/
def State.modSol (s : State) (n : Nat) (g : SolCh → SolCh) : State :=
  let s1 := { s with sol := { s.sol with ch := tblMod s.sol.ch n g } }
  let q := (s1.solCh n).q
  (s1.setF (F.SOL_N_STAT_QLEN n) q.length).setFlag (F.SOL_N_STAT_HELDCMD n)
    (match q.head? with | some c => c.held | none => false)

/-- The channel under which a channel acts (R302). -/
def State.solLead (s : State) (n : Nat) : Nat := if n % 2 = 1 ∧ s.flag (F.SOL_N_CFG_PAR (n - 1)) then n - 1 else n

/-- The channels of a leader (R302). -/
def State.solAll (s : State) (m : Nat) : List Nat := if m % 2 = 0 ∧ s.flag (F.SOL_N_CFG_PAR m) then [m, m + 1] else [m]

/-- The occupancy gate holds the channel or its pair (R302, R305). -/
def State.solHeld (s : State) (m : Nat) : Bool :=
  s.flag F.ACC_GATE_CLOSED && (s.solAll m).any (fun n => s.flag (F.SOL_N_STAT_ILK n))

/-- A junction of the channel or its pair is above TSD − THYS. -/
def State.solHot (s : State) (m : Nat) : Bool := (s.solAll m).any (fun n => (s.solCh n).hot)

/-- DTIME in µs, 32 bits (R295, R297). -/
def State.solUs (s : State) : Nat := s.dtime / 1000 % 2 ^ 32

/-- A time in µs has come, under the half-range rule (R297, R260). -/
def State.solPast (s : State) (t : Nat) : Bool := s.solUs == t || newer 32 s.solUs t

/-- Complete a command's request. -/
def State.solFin (s : State) (r : Option RKey) (stat : Nat) (pl : List Byte) : State :=
  match r with
  | some k => s.finish k stat pl
  | none => s

/-- Complete a command's request FAILED with a cause. -/
def State.solFail (s : State) (r : Option RKey) (cause : Nat) : State := s.solFin r stFailed (leBytes 2 cause)

/-- Complete the ON in progress. -/
def State.solFinOn (s : State) (n stat : Nat) (pl : List Byte) : State :=
  (s.modSol n (fun c => { c with on := none })).solFin (s.solCh n).on stat pl

/-! Duty window (R299). -/

/-- USED in µs, with the PK time of a phase that still runs. -/
def State.solUsed (s : State) (n : Nat) : Nat :=
  (s.solCh n).buckets.foldl (· + ·) 0 + (match (s.solCh n).pk with | some t => (s.now - t) / 1000 | none => 0)

/-- Charge PK time up to now to the current bucket; DUSE.USED_MS follows. -/
def State.solCharge (s : State) (n : Nat) : State :=
  let s1 := match (s.solCh n).pk with
    | none => s
    | some t => s.modSol n (fun c => { c with
        pk := some s.now
        buckets := (c.buckets.headD 0 + (s.now - t) / 1000) :: c.buckets.drop 1 })
  s1.setF (F.SOL_N_DUSE_USED_MS n) (min 65535 (s1.solUsed n / 1000))

/-- Phase `k` of the copied profile: words A and B; END beyond phase 7. -/
def State.solPhase (s : State) (n k : Nat) : Nat × Nat := ((s.solCh n).ph[k]?).getD (0, 0)

/-- The phases of profile `p` before its END. -/
def State.solReach (s : State) (p : Nat) : List (Nat × Nat) :=
  ((List.range 8).map (fun k => tblGet s.sol.prof (8 * p + k))).takeWhile (fun w => w.1 % 8 != 0)

/-- The duty limit lets profile `p` start (R299). -/
def State.solDutyOk (s : State) (n p : Nat) : Bool :=
  let d := s.f (F.SOL_N_DUTY_DMAX_MS n)
  d == 0 || decide (s.solUsed n + ((s.solReach p).filter (fun w => bit w.1 3)).foldl (fun x w => x + w.2 % 2 ^ 24) 0 ≤ d * 1000)

/-! Leaving a phase, DRAIN and FAULT (R293, R301, R303, R307). -/

/-- Switches off with a clamp code. -/
def State.solSwitchOff (s : State) (n clamp : Nat) : State :=
  (s.solCharge n).modSol n (fun c => { c with hs := false, ls := false, clamp := clamp, pk := none, regulating := false })

/-- The kink search ends (R300, R301): with a kink at sample `t` of the phase, or with none. -/
def State.solKinkEnd (s : State) (n : Nat) (t : Option Nat) : State :=
  let c := s.solCh n
  if c.kink.mode = 0 ∨ c.kink.mode = 4 then s else
  let s1 := s.modSol n (fun c => { c with kink := { c.kink with mode := 4 } })
  match t with
  | some k => (s1.setF (F.SOL_N_KINK_US n) ((c.phAt - c.start) / 1000 + 5 * k)).setF (F.SOL_N_STAT_KINK_OK n) 1
  | none => ((s1.setF (F.SOL_N_KINK_US n) 0xFFFFFFFF).setF (F.SOL_N_STAT_KINK_FAIL n) 1).raise (1217 + 3 * n)

/-- The phase in which a search runs has ended, by itself or cut off (R300): the search stops at its next sample from KMIN on. -/
def State.solKinkOver (s : State) (n : Nat) (cut : Bool) : State :=
  s.modSol n (fun c => { c with kink := { c.kink with past := true, cut := c.kink.cut || (cut && !c.kink.past) } })

/-- Enter DRAIN (R293, R307), which cuts off a phase still running. -/
def State.solDrain (s : State) (n clamp : Nat) (latch : Bool) (cause : Option Nat) : State :=
  let s1 := (s.solKinkOver n true).solSwitchOff n clamp
  let s2 := (s1.setF (F.SOL_N_STAT_STATE n) 3).modSol n (fun c => { c with pend := c.pend || latch })
  match cause with
  | some x => s2.setF (F.SOL_N_STAT_CAUSE n) x
  | none => s2

/-- Latch FAULT (R303, R307): raised and counted. -/
def State.solLatch (s : State) (n : Nat) : State :=
  (((s.setF (F.SOL_N_STAT_STATE n) 5).incF (F.SOL_N_FLT_FAULTS n) 1).raise (1218 + 3 * n)).accTripped 1 n

/-- The channel is in a persistent phase or in WAITOFF. -/
def State.solReached (s : State) (n : Nat) : State := s.modSol n (fun c => { c with reached := true })

/-- The result an ON completes with (R296): once a persistent phase or WAITOFF is reached and the search has ended. -/
def State.solResult (s : State) (n : Nat) : State :=
  let m := (s.solCh n).kink.mode
  if !(s.solCh n).reached ∨ (1 ≤ m ∧ m ≤ 3) then s
  else if m = 0 then s.solFinOn n stOk (leBytes 4 0xFFFFFFFF)
  else if s.flag (F.SOL_N_STAT_KINK_OK n) then s.solFinOn n stOk (leBytes 4 (s.f (F.SOL_N_KINK_US n)))
  else s.solFinOn n stFailed (leBytes 2 0x0B10)

/-- Begin phase `k` (R289, R293, R307): END or beyond phase 7 drains; a persistent REG holds; the others run. -/
def State.solBegin (s : State) (n k : Nat) : State :=
  let (a, b) := s.solPhase n k
  let s0 := s.solCharge n
  if 7 < k ∨ a % 8 = 0 then (s0.solDrain n (s0.f (F.SOL_N_CFG_REL_CL n)) false none).raise (1216 + 3 * n)
  else
    let reg := a % 8 == 1
    let cl := bits a 6 5
    let s1 := (s0.setF (F.SOL_N_STAT_PHASE n) k).modSol n (fun c => { c with
      phAt := s.now
      pk := if bit a 3 then some s.now else none
      hs := reg
      ls := reg || cl == 0
      clamp := if reg then 3 else cl
      regulating := false
      kink := if bit a 4 && c.kink.mode == 0 then { (default : SolKink) with mode := 1 } else c.kink })
    if reg && b % 2 ^ 24 == 0 then (((s1.setF (F.SOL_N_STAT_STATE n) 2).solReached n).raise (1216 + 3 * n)).solResult n
    else s1.setF (F.SOL_N_STAT_STATE n) 1

/-- The kink search's end acts (R301): with KACT and no kink the channel drains and latches with CAUSE 7, also one that drains
since its profile ended; not one that a protection, the gate, VSOL or EN = 0 took out of the phase (DESIGN CHOICE, log 168). -/
def State.solKinkAct (s : State) (n : Nat) : State :=
  let st := s.solState n
  if s.flag (F.SOL_N_STAT_KINK_FAIL n) && s.flag (F.SOL_N_CFG_KACT n) && !(s.solCh n).kink.cut && decide (1 ≤ st ∧ st ≤ 3) &&
    !(s.solCh n).pend then
    s.solDrain n 3 true (some 7)
  else s.solResult n

/-- The running phase ends and the next begins (R293, R300). -/
def State.solNext (s : State) (n : Nat) : State := (s.solKinkOver n false).solBegin n (s.f (F.SOL_N_STAT_PHASE n) + 1)

/-- Start profile `p` (R293, R307): copied, phase 0, KINK 0xFFFF_FFFF. A search of the profile before ends with no kink at once, as
its registers are the new profile's from here on (DESIGN CHOICE, log 168). -/
def State.solStart (s : State) (n p : Nat) (r : Option RKey) : State :=
  let m := (s.solCh n).kink.mode
  let s0 := if 1 ≤ m ∧ m ≤ 3 then (s.solKinkEnd n none).solKinkAct n else s
  if s0.solState n = 3 then s0.solFail r 0x0B11 else
  let s1 := ((s0.solCharge n).setF (F.SOL_N_STAT_PROF n) p).setF (F.SOL_N_KINK_US n) 0xFFFFFFFF
  let s2 := ((s1.setF (F.SOL_N_STAT_KINK_OK n) 0).setF (F.SOL_N_STAT_KINK_FAIL n) 0).modSol n (fun c => { c with
    ph := (List.range 8).map (fun k => tblGet s.sol.prof (8 * p + k))
    start := s.now, kink := default, pend := false, on := r, reached := false, pk := none })
  s2.solBegin n 0

/-! The queue (R294, R297). -/

/-- The flags that taking a command clears (R294). -/
def State.solUnstick (s : State) (n : Nat) : State :=
  [F.SOL_N_STAT_LATE, F.SOL_N_STAT_ARRLATE, F.SOL_N_STAT_DROPPED, F.SOL_N_STAT_DUTYREF, F.SOL_N_STAT_KINK_OK,
   F.SOL_N_STAT_KINK_FAIL, F.SOL_N_STAT_GATED, F.SOL_N_STAT_UVOFF].foldl (fun s x => s.setF (x n) 0) s

/-- CLEAR in FAULT (R303, R307): WAITOFF, unless the junction is above TSD − THYS. -/
def State.solClear (s : State) (n : Nat) : State :=
  if s.solState n = 5 ∧ !s.solHot n then s.setF (F.SOL_N_STAT_STATE n) 4 else s

/-- ON(p) is taken in OFF or in a persistent phase (R294, R299, R304, R305). -/
def State.solOn (s : State) (n p : Nat) (r : Option RKey) : State :=
  if s.solState n = 2 ∧ s.f (F.SOL_N_STAT_PROF n) = p then s.solFin r stOk (leBytes 4 (s.f (F.SOL_N_KINK_US n)))
  else if s.flag F.SOL_SUP_UV then (s.setF (F.SOL_N_STAT_UVOFF n) 1).solFail r 0x0B13
  else if s.solHeld n then (s.setF (F.SOL_N_STAT_GATED n) 1).solFin r stInterlocked []
  else if !s.solDutyOk n p then
    (((s.setF (F.SOL_N_STAT_DUTYREF n) 1).setF (F.SOL_N_STAT_CAUSE n) 6).raise (1218 + 3 * n)).solFail r 0x0B12
  else s.solStart n p r

/-- The head is taken (R294): the sticky flags are cleared, and LATE stays with a late command (R297). -/
def State.solTake (s : State) (n : Nat) (c : SolCmd) : State :=
  let s1 := ((s.modSol n (fun x => { x with q := x.q.drop 1 })).solUnstick n).when c.late (fun s => s.setF (F.SOL_N_STAT_LATE n) 1)
  if c.code = 0x81 then
    if s1.solState n = 5 ∧ s1.solHot n then s1.solFail c.req 0x0B16
    else (s1.solClear n).solFin c.req stOk (leBytes 4 0xFFFFFFFF)
  else if c.code = 0x80 then
    let s2 := s1.solFin c.req stOk (leBytes 4 0xFFFFFFFF)
    if s2.solState n = 2 then s2.solNext n else s2
  else if s1.solState n = 5 then s1.solFail c.req 0x0B11
  else s1.solOn n c.code c.req

/-- The channel is at a take point: OFF, a persistent phase, or FAULT (R294). -/
def State.solTakePoint (s : State) (n : Nat) : Bool :=
  let st := s.solState n
  st == 0 || st == 2 || st == 5

/-- The head is not held and its due time has come (R297). In FAULT an ON or OFF is taken whatever its due time and although it
is held, so that a CLEAR behind it is never blocked (R294). -/
def State.solFree (s : State) (n : Nat) (c : SolCmd) : Bool :=
  (s.solState n == 5 && c.code != 0x81) || (!c.held && (match c.due with | some t => s.solPast t | none => true))

/-- Take the head when it may be taken. -/
def State.solTry (s : State) (n : Nat) : State :=
  match (s.solCh n).q.head? with
  | some c => if s.solTakePoint n && s.solFree n c then s.solTake n c else s
  | none => s

/-- Examine the head, again after each command taken (R294): at most the four queued. -/
def State.solExam (s : State) (n : Nat) : State := forBelow 4 s (fun _ s => s.solTry n)

/-- A command becomes late (R297), at queue index `i`. -/
def State.solLateAt (s : State) (n i : Nat) (arr : Bool) : State :=
  match (s.solCh n).q[i]? with
  | none => s
  | some c =>
    if c.late then s else
    let s1 := ((s.setF (F.SOL_N_STAT_LATE n) 1).when arr (fun s => s.setF (F.SOL_N_STAT_ARRLATE n) 1)).raise 1254
    let pol := if 31 < c.code then 0 else s.f (F.SOL_N_CFG_LATEPOL n)
    if pol = 1 then
      ((s1.setF (F.SOL_N_STAT_DROPPED n) 1).modSol n (fun x => { x with q := x.q.eraseIdx i })).raise 1255
        |>.solFin c.req stLate (leBytes 8 c.dtime)
    else if pol = 2 then
      (s1.modSol n (fun x => { x with q := x.q.set i { c with late := true, arr := arr, held := true, req := none } })).solFail
        c.req 0x0B15
    else s1.modSol n (fun x => { x with q := x.q.set i { c with late := true, arr := arr } })

/-- A command at queue index `i` is past its tolerance (R297). -/
def State.solOverdue (s : State) (n i : Nat) : Bool :=
  match (s.solCh n).q[i]? with
  | some c => (match c.due with | some t => s.solPast ((t + s.f (F.SOL_N_TAT_TOL_US n)) % 2 ^ 32) | none => false)
  | none => false

/-- Queue a command (R294, R295, R297): dropped when 4 are queued; one from the image replaces the image's in place. -/
def State.solQueue (s : State) (n : Nat) (c : SolCmd) : State :=
  if !s.flag F.SOL_CTRL_EN then s.solFail c.req 0x0B14 else
  let q := (s.solCh n).q
  match (if c.image then q.findIdx? (fun x => x.image) else none) with
  | some i =>
    let s1 := s.modSol n (fun x => { x with q := x.q.set i c })
    (if s1.solOverdue n i then s1.solLateAt n i true else s1).solExam n
  | none =>
    if 4 ≤ q.length then
      ((s.setF (F.SOL_N_STAT_DROPPED n) 1).raise 1255).solFin c.req stLimit (leBytes 2 0x0B01)
    else
      let s1 := s.modSol n (fun x => { x with q := x.q ++ [c] })
      (if s1.solOverdue n q.length then s1.solLateAt n q.length true else s1).solExam n

/-- Remove every queued command, each completing FAILED with a cause. -/
def State.solFlush (s : State) (n cause : Nat) : State :=
  (s.solCh n).q.foldl (fun s c => s.solFail c.req cause) (s.modSol n (fun c => { c with q := [] }))

/-- The occupancy gate closes (R305): a channel that drains is not OFF, and drains at 48 V from here on; a latch pending keeps its
CAUSE, as under R304 (DESIGN CHOICE, log 170). -/
def State.solGateClose (s : State) : State :=
  forBelow 12 s (fun n s =>
    if s.solLead n ≠ n ∨ !(s.solAll n).any (fun k => s.flag (F.SOL_N_STAT_ILK k)) then s else
    let ons := (s.solCh n).q.filter (fun c => decide (c.code ≤ 31))
    let s1 := ons.foldl (fun s c => s.solFin c.req stInterlocked [])
      (s.modSol n (fun c => { c with q := c.q.filter (fun x => decide (31 < x.code)) }))
    if 1 ≤ s1.solState n ∧ s1.solState n ≤ 3 then
      ((s1.solDrain n 3 false (if (s1.solCh n).pend then none else some 5)).setF (F.SOL_N_STAT_GATED n) 1).solFinOn n stInterlocked []
    else s1)

/-- The OFF bank policy expires (R306): the queue is emptied, OFF queued. -/
def State.solSilence (s : State) (n : Nat) : State :=
  (s.solFlush n 0x0B14).solQueue n { (default : SolCmd) with code := 0x80 }

/-! The rows. -/

/-- A code of R296. -/
def solCodeOk (c : Nat) : Bool := decide (c ≤ 31) || c == 0x80 || c == 0x81

/-- SOL_RUN (R296, R40): parameters, owner, then the queue; the completion follows. -/
def bodySolRun : Body := fixedLen 10 (fun c s =>
  let n := leAt c.pl 0 1
  let code := leAt c.pl 1 1
  let t := leAt c.pl 2 8
  if 11 < n then s.badParam c.key 0
  else if !solCodeOk code then s.badParam c.key 1
  else if s.dtime + 1800000000000 < t then s.badParam c.key 2
  else if s.owner (resId 2 n) ≠ 0 then s.cmdConflict c.key (resId 2 n)
  else s.solQueue n { (default : SolCmd) with code := code, due := if t = 0 then none else some (t / 1000 % 2 ^ 32), dtime := t, req := some c.key })

/-- SOL_RUN (R296). -/
def execSolRun (r : Req) (s : State) : Host.Outcome State Fault Refusal := .next (s.opcode r 6 2 bodySolRun)

/-- A write of SOL_CTRL.EN (R291). -/
def State.solEn (s : State) (en : Bool) : State :=
  if en = s.flag F.SOL_CTRL_EN then s else
  let s1 := s.setFlag F.SOL_CTRL_EN en
  if en then s1 else
  forBelow 12 s1 (fun n s =>
    let s2 := if s.solState n = 1 ∨ s.solState n = 2 then (s.solDrain n 3 false none).solFinOn n stFailed (leBytes 2 0x0B14) else s
    s2.solFlush n 0x0B14)

/-- SOL_CTRL_EN_WRITE (R291). -/
def execSolCtrlEnWrite (who : Who) (en : Bool) (s : State) : Host.Outcome State Fault Refusal :=
  .next (s.regDo who A.SOL_CTRL (fun s => s.solEn en))

/-- RELEASE (R297): the held head is taken at the next take point. -/
def State.solRelease (s : State) (n : Nat) : State :=
  match (s.solCh n).q with
  | c :: cs => if c.held then (s.modSol n (fun x => { x with q := { c with held := false } :: cs })).solExam n else s
  | [] => s

/-- A write of SOL_n_CMD (R290, R296, R303): cores only; CLEAR alone from any owner; CODE only with the other bits 0. -/
def State.solCmdWrite (s : State) (who : Who) (n w : Nat) : State :=
  let sel := bits w 10 8
  match who with
  | .core _ _ =>
    if s.solLead n ≠ n ∧ sel = 1 then s
    else if s.owner (resId 2 n) ≠ 0 then
      if sel = 1 then s.solClear n else s.ownedWrite who (resId 2 n) id
    else if sel ≠ 0 then
      let s1 := s.when (bit sel 0) (fun s => s.solClear n)
      let s2 := s1.when (bit sel 1) (fun s => s.solRelease n)
      s2.when (bit sel 2) (fun s => s.solFlush n 0x0B14)
    else if !solCodeOk (w % 256) || !s.flag F.SOL_CTRL_EN then s.busErr who
    else
      let t := s.f (F.SOL_N_CTIME_TTIME n)
      s.solQueue n { (default : SolCmd) with code := w % 256, due := if t = 0 then none else some t }
  | _ => if s.owner (resId 2 n) ≠ 0 then s.ownedWrite who (resId 2 n) id else s.busErr who

/-- SOL_CMD_CODE (R296). -/
def execSolCmdCode (who : Who) (n : Fin 12) (code : BitVec 8) (s : State) : Host.Outcome State Fault Refusal :=
  .next (s.regDo who (A.SOL_N_CMD n) (fun s => s.solCmdWrite who n code.toNat))

/-- SOL_CMD_CLEAR (R290, R303). -/
def execSolCmdClear (who : Who) (n : Fin 12) (s : State) : Host.Outcome State Fault Refusal :=
  .next (s.regDo who (A.SOL_N_CMD n) (fun s => s.solCmdWrite who n 0x100))

/-- SOL_CMD_RELEASE (R297). -/
def execSolCmdRelease (who : Who) (n : Fin 12) (s : State) : Host.Outcome State Fault Refusal :=
  .next (s.regDo who (A.SOL_N_CMD n) (fun s => s.solCmdWrite who n 0x200))

/-- SOL_CMD_FLUSH (R296). -/
def execSolCmdFlush (who : Who) (n : Fin 12) (s : State) : Host.Outcome State Fault Refusal :=
  .next (s.regDo who (A.SOL_N_CMD n) (fun s => s.solCmdWrite who n 0x400))

/-- A phase word pair may be installed (R292); `pair` doubles the upper bounds of the current. -/
def solPhaseOk (a b : Nat) (pair : Bool) : Bool :=
  let kind := a % 8
  let i := a / 2 ^ 16
  let dur := b % 2 ^ 24
  let x := if pair then 2 else 1
  if bits a 15 7 ≠ 0 ∨ b / 2 ^ 24 ≠ 0 ∨ 2 < kind then false
  else if kind = 0 then a == 0 && b == 0
  else if kind = 2 then true
  else decide (bits a 6 5 ≤ 1) && decide (200 ≤ i) && decide (i ≤ 8000 * x) && (dur != 0 || decide (i ≤ 3000 * x)) &&
    (decide (i ≤ 3000 * x) || (bit a 3 && decide (dur ≤ 1000000)))

/-- Some pair of SOL channels is in force. -/
def State.solAnyPair (s : State) : Bool := (List.range 6).any (fun i => s.flag (F.SOL_N_CFG_PAR (2 * i)))

/-- Word B of a phase is written (R292): the pair is installed, or refused with PERR and the phase unchanged. -/
def State.solProf (s : State) (p k b : Nat) : State :=
  let a := (s.reg (A.SOL_PROF_A p k)).toNat
  if solPhaseOk a b s.solAnyPair then
    { s with sol := { s.sol with prof := tblSet s.sol.prof (8 * p + k) (a, b) } }.setReg (A.SOL_PROF_B p k) (toW b)
  else
    let old := tblGet s.sol.prof (8 * p + k)
    (s.setF F.SOL_CTRL_PERR 1).setReg (A.SOL_PROF_A p k) (toW old.1)

/-- SOL_PROFILE_WRITE (R292). -/
def execSolProfileWrite (who : Who) (p : Fin 32) (k : Fin 8) (b : Word) (s : State) : Host.Outcome State Fault Refusal :=
  .next (s.regDo who (A.SOL_PROF_B p k) (fun s => s.solProf p k b.toNat))

/-- A write of PAR (R302). -/
def State.solPar (s : State) (n : Nat) (par : Bool) : State :=
  if n % 2 = 1 ∨ par = s.flag (F.SOL_N_CFG_PAR n) then s
  else
    let busy := s.solState n != 0 || s.solState (n + 1) != 0
    if !par then (if busy then s else (s.setF (F.SOL_N_CFG_PAR n) 0).release 4 (resId 2 (n + 1)))
    else if !s.claimable 4 (resId 2 (n + 1)) then s.conflict (resId 2 (n + 1)) 4 0
    else if busy then s
    else (s.setF (F.SOL_N_CFG_PAR n) 1).setOwner (resId 2 (n + 1)) 4

/-- SOL_PAR_WRITE (R302). -/
def execSolParWrite (who : Who) (n : Fin 12) (par : Bool) (s : State) : Host.Outcome State Fault Refusal :=
  .next (s.regDo who (A.SOL_N_CFG n) (fun s => s.solPar n par))

/-- A write of SOL_n_DUTY (R299): a new DWIN_S restarts the grid with the whole USED in its first bucket. -/
def State.solDuty (s : State) (n dmax dwin : Nat) : State :=
  let w := if dwin = 0 then 1 else dwin
  let s1 := s.setF (F.SOL_N_DUTY_DMAX_MS n) dmax
  if w = s.f (F.SOL_N_DUTY_DWIN_S n) then s1 else
  let s2 := (s1.setF (F.SOL_N_DUTY_DWIN_S n) w).solCharge n
  s2.modSol n (fun c => { c with buckets := [s2.solUsed n] })

/-- SOL_DUTY_WRITE (R299). -/
def execSolDutyWrite (who : Who) (n : Fin 12) (dmax : BitVec 16) (dwin : BitVec 8) (s : State) :
    Host.Outcome State Fault Refusal := .next (s.regDo who (A.SOL_N_DUTY n) (fun s => s.solDuty n dmax.toNat dwin.toNat))

/-- SOL_COMMAND_TAKEN (R294). -/
def execSolCommandTaken (n : Fin 12) (s : State) : Host.Outcome State Fault Refusal := .next (s.solTry n)

/-- SOL_DUE (R297). -/
def execSolDue (n : Fin 12) (s : State) : Host.Outcome State Fault Refusal := .next (s.solExam n)

/-- SOL_LATE (R297): the command at a queue place is past t + TOL_US. -/
def execSolLate (n : Fin 12) (i : Fin 4) (s : State) : Host.Outcome State Fault Refusal :=
  .next (if s.solOverdue n i then (s.solLateAt n i false).solExam n else s)

/-- SOL_PHASE_END (R293, R307). -/
def execSolPhaseEnd (n : Fin 12) (s : State) : Host.Outcome State Fault Refusal :=
  .next (if s.solState n = 1 then (s.solNext n).solExam n else s)

/-- SOL_RELEASE_LIMIT (R293): a REL phase with DUR = 0 ends after 1 s. -/
def execSolReleaseLimit (n : Fin 12) (s : State) : Host.Outcome State Fault Refusal :=
  let w := s.solPhase n (s.f (F.SOL_N_STAT_PHASE n))
  .next (if s.solState n = 1 ∧ w.1 % 8 = 2 ∧ w.2 % 2 ^ 24 = 0 then (s.solNext n).solExam n else s)

/-- A regulating phase is in progress. -/
def State.solReg (s : State) (n : Nat) : Bool :=
  (s.solState n == 1 || s.solState n == 2) && (s.solPhase n (s.f (F.SOL_N_STAT_PHASE n))).1 % 8 == 1

/-- SOL_CHOP_PERIOD (R289): drive. -/
def execSolChopPeriod (n : Fin 12) (s : State) : Host.Outcome State Fault Refusal :=
  .next (if s.solReg n then s.modSol n (fun c => { c with hs := true, ls := true }) else s)

/-- SOL_CURRENT_TARGET (R289, R300): the decay of the phase for the rest of the chop period. -/
def execSolCurrentTarget (n : Fin 12) (s : State) : Host.Outcome State Fault Refusal :=
  .next (if s.solReg n then
    let fast := bits (s.solPhase n (s.f (F.SOL_N_STAT_PHASE n))).1 6 5 == 1
    s.modSol n (fun c => { c with hs := false, ls := !fast, regulating := true })
  else s)

/-- SOL_DRAIN_DONE (R293, R307): the current is at IOFF. -/
def execSolDrainDone (n : Fin 12) (s : State) : Host.Outcome State Fault Refusal :=
  .next (if s.solState n ≠ 3 then s
    else if (s.solCh n).pend then
      let s1 := (s.modSol n (fun c => { c with pend := false })).solLatch n
      (s1.solFinOn n stFailed (leBytes 2 (if s1.f (F.SOL_N_STAT_CAUSE n) = 7 then 0x0B10 else 0x0B11))).solExam n
    else ((s.setF (F.SOL_N_STAT_STATE n) 4).solReached n).solResult n)

/-- SOL_TOFF_EXPIRY (R298, R307). -/
def execSolToffExpiry (n : Fin 12) (s : State) : Host.Outcome State Fault Refusal :=
  .next (if s.solState n = 4 then (s.setF (F.SOL_N_STAT_STATE n) 0).solExam n else s)

/-- One sample of the kink search (R300): the window of F samples, then the mode's rule on their sums. -/
def SolKink.step (x : SolKink) (fN kdip kvdrop kmin kmax : Nat) (regulating : Bool) (i : Nat) (v : Int) :
    SolKink × Option (Option Nat) :=
  let y := { x with ia := (i :: x.ia).take fN, va := (v :: x.va).take fN, k := x.k + 1 }
  let k := x.k
  let ia := y.ia.foldl (· + ·) 0
  let va := y.va.foldl (· + ·) 0
  if k + 1 < fN ∨ 5 * k < 10 * kmin then (y, none)
  else if 10 * kmax < 5 * k ∨ x.past then (y, some none)
  else if x.mode = 1 then
    if regulating then ({ y with mode := 3, vmax := va, kv := k }, none)
    else if x.imax < ia then ({ y with imax := ia }, none)
    else if 10 * kdip * fN ≤ x.imax - ia then ({ y with mode := 2, imin := ia, km := k }, none)
    else (y, none)
  else if x.mode = 2 then
    if ia < x.imin then ({ y with imin := ia, km := k }, none)
    else if 10 * kdip * fN ≤ ia - x.imin ∨ regulating then (y, some (some x.km))
    else (y, none)
  else
    if x.vmax < va then ({ y with vmax := va, kv := k }, none)
    else if ((kvdrop * fN : Nat) : Int) ≤ x.vmax - va then (y, some (some x.kv))
    else (y, none)

/-- The sum of a leader's currents, one or two halves (R302). -/
def State.solSum (s : State) (m : Nat) (g : SolCh → Nat) : Nat := ((s.solAll m).map (fun k => g (s.solCh k))).foldl (· + ·) 0

/-- MEAS on a sample of one channel's own mean current and coil voltage: its leader's CURRENT is the sum of the pair (R302, R311). -/
def State.solMeas (s : State) (n i mean v : Nat) : State :=
  let m := s.solLead n
  let s1 := (((s.modSol n (fun c => { c with own := mean, ownI := i })).setF (F.SOL_N_MEAS_CURRENT n) mean).setF
    (F.SOL_N_MEAS_VCOIL n) v)
  s1.setF (F.SOL_N_MEAS_CURRENT m) (min 65535 (s1.solSum m SolCh.own))

/-- SOL_KINK_SAMPLE (R300 to R302, R311): every tKS a channel's own instantaneous current in mA, its mean current and the mean coil
voltage in 0.1 V; MEAS follows in every state, the search while it runs, on the sum of a pair's currents with the leader's row
after its partner's. -/
def execSolKinkSample (n : Fin 12) (i mean : BitVec 16) (v : BitVec 16) (s : State) : Host.Outcome State Fault Refusal :=
  let s1 := s.solMeas n i.toNat mean.toNat v.toNat
  let c := s1.solCh n
  .next (if c.kink.mode = 0 ∨ c.kink.mode = 4 then s1 else
    let r := c.kink.step (s.f (F.SOL_N_KCFG_KFILT n) + 1) (s.f (F.SOL_N_KCFG_KDIP n)) (s.f (F.SOL_N_KCFG_KVDROP n))
      (s.f (F.SOL_N_KWIN_KMIN n)) (s.f (F.SOL_N_KWIN_KMAX n)) c.regulating (s1.solSum n SolCh.ownI) v.toInt
    let s2 := s1.modSol n (fun c => { c with kink := r.1 })
    match r.2 with
    | none => s2
    | some t => (s2.solKinkEnd n t).solKinkAct n)

/-- A protection latch at once (R303, R307): both switches off, FAULT, the head examined. -/
def State.solTrip (s : State) (n cause : Nat) : State :=
  if s.solState n ≠ 1 ∧ s.solState n ≠ 2 then s else
  let s1 := (((s.solKinkOver n true).solSwitchOff n 3).setF (F.SOL_N_STAT_CAUSE n) cause).solLatch n
  (s1.solFinOn n stFailed (leBytes 2 0x0B11)).solExam n

/-- SOL_OVERCURRENT (R303). -/
def execSolOvercurrent (n : Fin 12) (s : State) : Host.Outcome State Fault Refusal := .next (s.solTrip (s.solLead n) 1)

/-- SOL_OPEN_COIL (R303). -/
def execSolOpenCoil (n : Fin 12) (s : State) : Host.Outcome State Fault Refusal := .next (s.solTrip (s.solLead n) 3)

/-- SOL_OVERTEMP (R303, R307). -/
def execSolOvertemp (n : Fin 12) (s : State) : Host.Outcome State Fault Refusal :=
  let s1 := s.modSol n (fun c => { c with hot := true })
  let m := s1.solLead n
  .next (if s1.solState m = 1 ∨ s1.solState m = 2 then s1.solDrain m 3 true (some 2) else s1)

/-- SOL_JUNCTION_WARNING (R303, R311): a temperature sample: TJ, TJMAX, OTW, and whether the junction is above TSD − THYS. -/
def execSolJunctionWarning (n : Fin 12) (tj : BitVec 8) (warn hot : Bool) (s : State) : Host.Outcome State Fault Refusal :=
  let s1 := (s.setF (F.SOL_N_DUSE_TJ n) tj.toNat).setF (F.SOL_N_DUSE_TJMAX n) (max (s.f (F.SOL_N_DUSE_TJMAX n)) tj.toNat)
  .next ((s1.setFlag (F.SOL_N_STAT_OTW n) warn).modSol n (fun c => { c with hot := hot }))

/-- One channel when VSOL goes low (R304, R307). -/
def State.solUv (s : State) (n : Nat) : State :=
  let s1 := s.solFlush n 0x0B13
  let st := s1.solState n
  let s2 := if st = 0 then s1 else s1.setF (F.SOL_N_STAT_UVOFF n) 1
  if 1 ≤ st ∧ st ≤ 3 then
    if (s2.solCh n).pend then s2.solDrain n 3 false none
    else (s2.solDrain n 3 false (some 4)).solFinOn n stFailed (leBytes 2 0x0B13)
  else s2

/-- VSOL_UNDERVOLTAGE (R304). -/
def execVsolUndervoltage (s : State) : Host.Outcome State Fault Refusal :=
  .next ((forBelow 12 (s.setF F.SOL_SUP_UV 1) (fun n s => s.solUv n)).raise 1252)

/-- VSOL_RESTART (R304): commands are accepted again; no channel restarts by itself. -/
def execVsolRestart (s : State) : Host.Outcome State Fault Refusal := .next ((s.setF F.SOL_SUP_UV 0).raise 1253)

/-- SOL_BUCKET_OPEN (R299). -/
def execSolBucketOpen (n : Fin 12) (s : State) : Host.Outcome State Fault Refusal :=
  let s1 := s.solCharge n
  .next ((s1.modSol n (fun c => { c with buckets := (0 :: c.buckets).take 16 })).solCharge n)

end Sys2Proof.Machine
end

