-- ==== Sys2Proof/Machine/Acc.lean ====
section
/-! DEFINITION. Access, location and occupancy interlock (R351 to R372). Zones: 0 NONE, 1 INSIDE, 2 DOOR, 3 OUTSIDE. Entry
states: 0 FREE, 1 INSIDE, 2 LOST, 3 BLIND. Override: 0 IDLE, 1 ARMED, 2 ACTIVE. -/
namespace Sys2Proof.Machine

/-- Change the access block's state beside its registers. -/
def State.modAcc (s : State) (g : AccSt → AccSt) : State := { s with acc := g s.acc }

/-! The gate (R359). -/

/-- Entries that are not FREE. -/
def State.occCount (s : State) : Nat := countBelow 16 (fun k => s.f (F.ACC_OCC_STATE k) != 0)

/-- The gate follows the table, OVF, STARTUP and the override; a closing gate acts on interlocked channels (R359, R276, R305). -/
def State.accGate (s : State) : State :=
  let n := s.occCount
  let close := (n != 0 || s.flag F.ACC_GATE_OVF || s.flag F.ACC_GATE_STARTUP) && s.f F.ACC_GATE_OVR != 2
  let was := s.flag F.ACC_GATE_CLOSED
  let s1 := (s.setF F.ACC_GATE_OCC n).setFlag F.ACC_GATE_CLOSED close
  if close && !was then (s1.levelEdge 1424 was).hssGateClose.solGateClose else s1

/-- Store an occupancy entry; each change is raised (R358). -/
def State.setOcc (s : State) (k st serial out miss : Nat) : State :=
  let new := ((((s.setF (F.ACC_OCC_STATE k) st).setF (F.ACC_OCC_SERIAL k) serial).setF (F.ACC_OCC_OUTCNT k) (min 15 out)).setF
    (F.ACC_OCCX_MISS k) (min 255 miss)).setF (F.ACC_OCC_MISS4 k) (min 15 miss)
  if new.reg (A.ACC_OCC k) = s.reg (A.ACC_OCC k) ∧ new.reg (A.ACC_OCCX k) = s.reg (A.ACC_OCCX k) then s
  else (new.raise 1425).accGate

/-- The entry of a serial. -/
def State.occFind (s : State) (serial : Nat) : Option Nat :=
  firstBelow 16 (fun k => s.f (F.ACC_OCC_STATE k) != 0 && s.f (F.ACC_OCC_SERIAL k) == serial)

/-- The lowest FREE entry takes a serial, or OVF is set (R358, R363). -/
def State.occTake (s : State) (st serial : Nat) : State :=
  match firstBelow 16 (fun k => s.f (F.ACC_OCC_STATE k) == 0) with
  | some k => s.setOcc k st serial 0 0
  | none => if s.flag F.ACC_GATE_OVF then s else ((s.setF F.ACC_GATE_OVF 1).raise 1435).accGate

/-- An authenticated reply acts on the table (R358). -/
def State.occReply (s : State) (serial zone : Nat) : State :=
  match s.occFind serial with
  | none => if zone = 1 then s.occTake 1 serial else s
  | some k =>
    let st := s.f (F.ACC_OCC_STATE k)
    if zone = 3 then
      let n := min 15 (s.f (F.ACC_OCC_OUTCNT k) + 1)
      if s.f F.ACC_OCCCFG_OUT_N ≤ n ∧ !s.flag F.ACC_GATE_ANTF ∧ !(st == 3 && serial == 0) then s.setOcc k 0 0 0 0
      else s.setOcc k st serial n 0
    else if st = 3 then s.setOcc k 3 serial 0 0
    else s.setOcc k 1 serial 0 0

/-! The override (R361). -/

/-- Enter an override state: each entry and exit of ACTIVE is raised, the gate re-evaluated. -/
def State.accOvr (s : State) (x : Nat) : State :=
  let old := s.f F.ACC_GATE_OVR
  let s1 := s.setF F.ACC_GATE_OVR x
  (if (old = 2) ≠ (x = 2) then s1.raise 1433 else s1).accGate

/-- A release (R361): every entry FREE, OVF and STARTUP 0. -/
def State.accRelease (s : State) : State :=
  let s1 := forBelow 16 s (fun k s => s.setOcc k 0 0 0 0)
  ((s1.setF F.ACC_GATE_OVF 0).setF F.ACC_GATE_STARTUP 0).accOvr 0

/-- The key switch is on (R361). -/
def State.accKey (s : State) : Bool := s.flag F.ACC_DOOR_KEY_EN && s.flag (F.DIO_N_STAT_IN (s.f F.ACC_DOOR_KEY_CH))

/-- The door is open (R362); without a claimed contact it counts as closed. -/
def State.accDoor (s : State) : Bool :=
  s.flag F.ACC_DOOR_DOOR_EN && s.f (F.DIO_N_STAT_IN (s.f F.ACC_DOOR_DOOR_CH)) == s.f F.ACC_DOOR_DOOR_POL

/-! Sessions (R362, R363). -/

/-- The lock actuator on or off (R362). -/
def State.accActuator (s : State) (on : Bool) : State :=
  if !s.flag F.ACC_LOCK_EN then s else
  let n := s.f F.ACC_LOCK_CH
  if s.f F.ACC_LOCK_KIND = 0 then s.hssCommand n (if on then 0xFFFF else 0)
  else s.solQueue n { (default : SolCmd) with code := if on then s.f F.ACC_LOCK_PROF else 0x80 }

/-- A session ends: 1 DOOR, 2 TIMEOUT, 4 DISABLED; the actuator goes off. -/
def State.accEnd (s : State) (why : Nat) : State :=
  if s.flag F.ACC_STAT_SESS then
    (((s.accActuator false).setF F.ACC_STAT_SESS 0).setF F.ACC_STAT_LASTEND why).raise 1427
  else s

/-- Reply classified DOOR of a token with LOCK (R362): opens a session, or restarts its time. -/
def State.accSession (s : State) (lock : Bool) (tp : Option Nat) : State :=
  let t := s.now + s.f F.ACC_DOOR_SESS_S * 1000000000
  if !lock then s
  else if s.flag F.ACC_STAT_SESS then s.modAcc (fun a => { a with sessUntil := t })
  else if s.flag F.ACC_LOCK_EN && !s.flag F.ACC_STAT_LOCKOUT && !s.accDoor then
    ((((s.accActuator true).setF F.ACC_STAT_SESS 1).modAcc (fun a => { a with sessUntil := t, sessTp := tp })).raise 1426)
  else s

/-- The door opens (R362, R363). -/
def State.accDoorOpens (s : State) : State :=
  if s.flag F.ACC_STAT_SESS then
    let s1 := s.accEnd 1
    match s.acc.sessTp with
    | some serial => match s1.occFind serial with
      | some k => s1.setOcc k 3 serial 0 0
      | none => s1.occTake 3 serial
    | none => s1
  else
    let s1 := s.raise 1432
    if s.occCount = 0 ∧ s.flag F.ACC_CTRL_FORCED_BLIND then s1.occTake 3 0 else s1

/-- What changes of the door contact and key switch do (R361 to R363): `s0` is the state before. -/
def State.accWatch (s : State) (s0 : State) : State :=
  let s1 := if s.accDoor && !s0.accDoor then s.accDoorOpens else s
  if s.accKey && !s0.accKey then (if s1.f F.ACC_GATE_OVR = 1 then s1.accOvr 2 else s1)
  else if !s.accKey && s0.accKey then (if s1.f F.ACC_GATE_OVR = 2 then s1.accOvr 0 else s1)
  else s1

/-- DIO_INPUT_CHANGE (R314, R361 to R363): the comparator output has held a level for a number of ticks. -/
def execDioInputChange (n : Fin 64) (x : DioRun) (s : State) : Host.Outcome State Fault Refusal :=
  .next ((s.dioIn n x.val x.ticks.toNat).accWatch s)

/-- DIO_CTRL_EN_WRITE (R321): inputs that are no longer evaluated read 0, which the access block sees as well. -/
def execDioCtrlEnWrite (who : Who) (en : Bool) (s : State) : Host.Outcome State Fault Refusal :=
  .next (s.regDo who A.DIO_CTRL (fun s => (s.dioEn en).accWatch s))

/-! Register writes (R355, R362, R318, R365). -/

/-- ACC_CTRL is written (R355): EN = 1 loads the master key, or sets KERR and leaves EN and the key as they were (which for EN = 1
already the spec does not say: DESIGN CHOICE, log 173); EN = 0 stops scanning. -/
def State.accCtrl (s : State) (w : Nat) : State :=
  let s1 := ((s.setF F.ACC_CTRL_KSLOT (bits w 7 2)).setF F.ACC_CTRL_SITE (bits w 19 8)).setF F.ACC_CTRL_FORCED_BLIND (bits w 20 20)
  if bit w 0 then
    match s1.slot (bits w 7 2), s1.busKey (bits w 7 2) 9 with
    | some x, some k =>
      if x.typ = 0 then ((s1.setF F.ACC_CTRL_EN 1).setF F.ACC_CTRL_KERR 0).modAcc (fun a => { a with key := k })
      else s1.setF F.ACC_CTRL_KERR 1
    | _, _ => s1.setF F.ACC_CTRL_KERR 1
  else
    let s2 := s1.setF F.ACC_CTRL_EN 0
    (s2.accEnd 4).modAcc (fun a => { a with scan := false, waiting := false, code := false, txen := false, poll := false, pollRep := 0 })

/-- ACC_CTRL_EN_WRITE (R355). -/
def execAccCtrlEnWrite (who : Who) (value : Word) (s : State) : Host.Outcome State Fault Refusal :=
  .next (s.regDo who A.ACC_CTRL (fun s => s.accCtrl value.toNat))

/-- Resource of the lock actuator. -/
def accLockRes (kind ch : Nat) : Nat := resId (if kind = 0 then 1 else 2) ch

/-- The channel a lock would take is interlocked (R362). -/
def State.accLockIlk (s : State) (kind ch : Nat) : Bool :=
  if kind = 0 then s.hssIlk ch else (s.solAll ch).any (fun n => s.flag (F.SOL_N_STAT_ILK n))

/-- ACC_LOCK is written (R362): EN = 1 claims the actuator, or is refused, as it is for a channel that does not exist; EN = 0 ends a session and releases it. -/
def State.accLock (s : State) (w : Nat) : State :=
  let kind := bits w 1 1
  let ch := bits w 7 2
  let id := accLockRes kind ch
  let s0 := if s.flag F.ACC_LOCK_EN then
      ((s.accEnd 4).setF F.ACC_LOCK_EN 0).release 5 (accLockRes (s.f F.ACC_LOCK_KIND) (s.f F.ACC_LOCK_CH)) else s
  let s1 := ((s0.setF F.ACC_LOCK_KIND kind).setF F.ACC_LOCK_CH ch).setF F.ACC_LOCK_PROF (bits w 12 8)
  if !bit w 0 then s1
  else if (if kind = 0 then 48 else 12) ≤ ch then s1.setF F.ACC_LOCK_CERR 1
  else if !s1.claimable 5 id || s1.accLockIlk kind ch then (s1.setF F.ACC_LOCK_CERR 1).conflict id 5 0
  else ((s1.setF F.ACC_LOCK_EN 1).setF F.ACC_LOCK_CERR 0).setOwner id 5

/-- ACC_LOCK_EN_WRITE (R362): a write that leaves EN, KIND and CH as they are changes PROF alone. -/
def execAccLockEnWrite (who : Who) (value : Word) (s : State) : Host.Outcome State Fault Refusal :=
  .next (s.regDo who A.ACC_LOCK (fun s =>
    if s.flag F.ACC_LOCK_EN ∧ (s.reg A.ACC_LOCK).toNat % 256 = value.toNat % 256 then s.setF F.ACC_LOCK_PROF (bits value.toNat 12 8)
    else s.accLock value.toNat))

/-- Claim or release a DIO channel for the access function (R318, R361, R362): MODE 1 and the filter it needs. -/
def State.accDioClaim (s : State) (en : Fld) (ch : Fld) (n : Nat) (on : Bool) (filt : Nat) : State :=
  let s0 := if s.flag en && (!on || s.f ch != n) then (s.setF en 0).release 5 (resId 3 (s.f ch)) else s
  let s1 := s0.setF ch n
  if !on ∨ s1.flag en then s1
  else if !s1.claimable 5 (resId 3 n) then s1.conflict (resId 3 n) 5 0
  else ((s1.setF en 1).setOwner (resId 3 n) 5).dioCfg n (putBits (putBits (putBits (s1.reg (A.DIO_N_CFG n)).toNat 1 0 1) 8 2 filt) 11 11 0)

/-- ACC_DOOR is written (R318, R361, R362). -/
def State.accDoorWrite (s : State) (w : Nat) : State :=
  let s1 := (s.setF F.ACC_DOOR_SESS_S (max 1 (bits w 23 16))).setF F.ACC_DOOR_ARM_S (max 1 (bits w 31 24))
  let s2 := (s1.setF F.ACC_DOOR_DOOR_POL (bits w 6 6)).accDioClaim F.ACC_DOOR_DOOR_EN F.ACC_DOOR_DOOR_CH (bits w 5 0) (bit w 7) 20
  s2.accDioClaim F.ACC_DOOR_KEY_EN F.ACC_DOOR_KEY_CH (bits w 13 8) (bit w 14) 50

/-- ACC_DOOR_WRITE (R318). -/
def execAccDoorWrite (who : Who) (value : Word) (s : State) : Host.Outcome State Fault Refusal :=
  .next (s.regDo who A.ACC_DOOR (fun s => (s.accDoorWrite value.toNat).accWatch s))

/-- Zones DOOR and OUTSIDE cannot be calibrated while someone may be inside (R365). -/
def State.accCalRefused (s : State) (zone : Nat) : Bool := zone != 0 && (s.occCount != 0 || s.flag F.ACC_GATE_OVF)

/-- A write of a calibration point register (R365). -/
def State.accCalWrite (s : State) (z p : Nat) (high : Bool) (v : Word) : State :=
  if s.accCalRefused z then s.setF F.ACC_STAT_CALREF 1
  else s.setReg (if high then A.ACC_CAL_H z p else A.ACC_CAL_L z p) v

/-- ACC_CAL_WRITE (R365). -/
def execAccCalWrite (who : Who) (z : Fin 3) (p : Fin 16) (high : Bool) (value : Word) (s : State) :
    Host.Outcome State Fault Refusal := .next (s.regDo who (A.ACC_CAL_L z p) (fun s => s.accCalWrite z p high value))

/-! Scans and codes (R352, R353). -/

/-- Begin a code (R352): the next SEQ, a fresh challenge, sent on the aerials `on`. -/
def State.accCode (s : State) (on : Nat) : State :=
  let c := s.rand 8
  let seq := (s.acc.seq + 1) % 256
  let h := s.f F.ACC_CTRL_SITE + 0x1000
  ((s.modAcc (fun a => { a with seq := seq, chal := c, code := true, txen := true, inCode := [] })).useFree).emit (.lf on)
    (leBytes 2 h ++ c)

/-- Begin a scan. -/
def State.accStart (s : State) : State :=
  s.modAcc (fun a => { a with scan := true, waiting := false, code := false, rep := 0, inCode := [], inScan := [], inside := false,
                              calSeen := [] })

/-- A scan ends, or a poll: a waiting scan begins, after the poll that follows this one (R352, R364). -/
def State.accOver (s : State) : State :=
  if s.acc.waiting && !s.acc.poll then s.accStart else s.modAcc (fun a => { a with scan := false, code := false })

/-- Aerial `a` is in MEAS. -/
def State.inMeas (s : State) (a : Nat) : Bool := s.fbit F.ACC_SCAN_MEAS a

/-- A calibration ends with an answer. -/
def State.calEnd (s : State) (c : AccCal) (stat : Nat) (pl : List Byte) : State :=
  (s.modAcc (fun a => { a with cal := none })).finish c.key stat pl

/-- A disturbed code (R353): stopped; after three disturbed repeats the scan ends FIELD_DISTURBED. -/
def State.accDisturb (s : State) : State :=
  if !s.acc.code then s else
  let s1 := ((s.raise 1430).modAcc (fun a => { a with
    code := false
    txen := false
    cal := a.cal.map (fun c => { c with disturbed := min 255 (c.disturbed + 1) }) }))
  if s1.acc.rep < 3 then s1 else
  let s2 := ((s1.setF F.ACC_STAT_FDIST 1).raise 1431).modAcc (fun a => { a with quietScans := 0 })
  let s3 := match s2.acc.cal with
    | some c => s2.calEnd c stFieldDisturbed []
    | none => s2
  s3.accOver

/-- ACC_SCAN_DUE (R352): a scan starts, waits, or is dropped while one waits. -/
def execAccScanDue (s : State) : Host.Outcome State Fault Refusal :=
  .next (if !s.flag F.ACC_CTRL_EN then s
    else if s.acc.scan || s.acc.poll then s.modAcc (fun a => { a with waiting := true })
    else s.accStart)

/-- ACC_CODE_START (R352): the first code of a scan. No code goes out while the random generator has failed (R390; DESIGN CHOICE, log
175). -/
def execAccCodeStart (s : State) : Host.Outcome State Fault Refusal :=
  .next (if s.flag F.ACC_CTRL_EN && s.flag F.ENCL_STAT_TRNG && s.acc.scan && !s.acc.code && s.acc.rep == 0 then s.accCode (s.f F.ACC_SCAN_MEAS) else s)

/-- ACC_QUIET_WINDOW_END (R353): the voltage induced in an aerial. -/
def execAccQuietWindowEnd (a : Fin 8) (mv : BitVec 12) (s : State) : Host.Outcome State Fault Refusal :=
  .next (if !s.acc.code ∨ !s.inMeas a then s else
    let s1 := s.setF (F.ACC_ANT_STAT_AMB a) mv.toNat
    if s.f F.ACC_IF_AMB_MV < mv.toNat then s1.accDisturb else s1)

/-- ANTF: some aerial of MEAS has OPEN or SHORT (R359). -/
def State.accAntf (s : State) : State :=
  s.setFlag F.ACC_GATE_ANTF ((List.range 8).any (fun a => s.inMeas a &&
    (s.flag (F.ACC_ANT_STAT_OPEN a) || s.flag (F.ACC_ANT_STAT_SHORT a))))

/-- A burst's current counts towards OPEN and SHORT (R359). -/
def State.accAnt (s : State) (a ma : Nat) : State :=
  let ipk := s.f (F.ACC_ANT_CFG_IPK a)
  let low := decide (2 * ma < ipk)
  let out := low || decide (3 * ipk < 2 * ma)
  let n := fun (t : Tbl Nat) (b : Bool) => if b then min 3 (tblGet t a + 1) else 0
  let lo := n s.acc.lo50 low
  let bad := n s.acc.bad out
  let good := n s.acc.good (!out)
  let s1 := s.modAcc (fun x => { x with lo50 := tblSet x.lo50 a lo, bad := tblSet x.bad a bad, good := tblSet x.good a good })
  let o := s.flag (F.ACC_ANT_STAT_OPEN a)
  let h := s.flag (F.ACC_ANT_STAT_SHORT a)
  let s2 := if bad = 3 ∧ !o ∧ !h then
      (s1.setF (if lo = 3 then F.ACC_ANT_STAT_OPEN a else F.ACC_ANT_STAT_SHORT a) 1).raise 1434
    else if good = 3 then (s1.setF (F.ACC_ANT_STAT_OPEN a) 0).setF (F.ACC_ANT_STAT_SHORT a) 0
    else s1
  s2.accAntf

/-- ACC_BURST_END (R353, R359): an aerial's current in its burst. -/
def execAccBurstEnd (a : Fin 8) (ma : BitVec 11) (s : State) : Host.Outcome State Fault Refusal :=
  .next (if !s.acc.code ∨ !s.inMeas a then s else
    let s1 := (s.setF (F.ACC_ANT_STAT_IMEAS a) ma.toNat).accAnt a ma.toNat
    let ipk := s.f (F.ACC_ANT_CFG_IPK a)
    let d := if ipk < ma.toNat then ma.toNat - ipk else ipk - ma.toNat
    if ipk * s.f F.ACC_IF_IPCT < d * 100 then s1.accDisturb else s1)

/-- ACC_REPEAT_DUE (R353), under the random generator as ACC_CODE_START. -/
def execAccRepeatDue (s : State) : Host.Outcome State Fault Refusal :=
  .next (if s.flag F.ACC_CTRL_EN && s.flag F.ENCL_STAT_TRNG && s.acc.scan && !s.acc.code && decide (s.acc.rep < 3) then
    (s.modAcc (fun a => { a with rep := a.rep + 1 })).accCode (s.f F.ACC_SCAN_MEAS) else s)

/-! Replies (R354 to R358). -/

/-- 10^(k/40) in units of 10⁻⁴⁰. -/
def tenPow40 : Nat → Nat
  | 0 => 10 ^ 40
  | k + 1 => tenPow40 k * 10592537251772888788092803732781086199794 / 10 ^ 40

/-- M of one aerial (R357): min(255, round(20 × log10(s))) of the summed axis fields. -/
def fieldM (c : List Nat) : Nat :=
  if c.all (· == 0) then 0
  else
    let sum := c.foldl (fun x v => x + tenPow40 (2 * v)) 0
    countBelow 255 (fun j => decide (tenPow40 (2 * j + 1) < sum))

/-- M of the eight aerials from a frame; aerials outside MEAS are 0 (R357). -/
def State.accM (s : State) (fr : List Byte) : List Nat :=
  (List.range 8).map (fun a => if s.inMeas a then fieldM ((List.range 3).map (fun x => leAt fr (6 + 3 * a + x) 1)) else 0)

/-- Distance to a calibration point over the aerials of MEAS; none for a point that is not valid (R357). -/
def State.accDist (s : State) (m : List Nat) (z p : Nat) : Option Nat :=
  let pt := (s.reg (A.ACC_CAL_L z p)).toNat + 2 ^ 32 * (s.reg (A.ACC_CAL_H z p)).toNat
  if pt = 0 then none else
  some ((List.range 8).foldl (fun d a => if s.inMeas a then
    d + (max ((m[a]?).getD 0) (bits pt (8 * a + 7) (8 * a)) - min ((m[a]?).getD 0) (bits pt (8 * a + 7) (8 * a))) else d) 0)

/-- The least distance to a zone's points (R357). -/
def State.accZoneDist (s : State) (m : List Nat) (z : Nat) : Option Nat :=
  ((List.range 16).filterMap (fun p => s.accDist m z p)).min?

/-- The classifier (R357): 0 NONE, 1 INSIDE, 2 DOOR, 3 OUTSIDE. -/
def State.accClassify (s : State) (m : List Nat) : Nat :=
  let fl := s.f F.ACC_CLS_IN_FLOOR
  if m.all (· == 0) then 0
  else if fl ≠ 0 ∧ (List.range 8).any (fun a => s.fbit F.ACC_SCAN_IN_ANT a && s.inMeas a && decide (fl ≤ (m[a]?).getD 0)) then 1
  else
    let far := 2 ^ 20
    let d := fun z => (s.accZoneDist m z).getD far
    let b := if d 0 ≤ d 1 ∧ d 0 ≤ d 2 then 0 else if d 1 ≤ d 2 then 1 else 2
    if s.f F.ACC_CLS_DMAX < d b then 0
    else if d 0 ≤ d b + s.f F.ACC_CLS_MARGIN then 1
    else b + 1

/-- A failure (R355, R356): counted and raised; the fifth within 60 s starts a lock-out. -/
def State.accFail (s : State) : State :=
  let s1 := (s.incF F.ACC_LOCKOUT_FAILS 1).raise 1428
  if s1.flag F.ACC_STAT_LOCKOUT then s1 else
  let fs := s1.now :: s1.acc.fails.filter (fun t => decide (s1.now ≤ t + 60000000000))
  let s2 := s1.modAcc (fun a => { a with fails := fs })
  if fs.length < 5 then s2 else
  ((s2.setF F.ACC_STAT_LOCKOUT 1).modAcc (fun a => { a with
    lockUntil := s2.now + s2.f F.ACC_LOCKOUT_LO_MIN * 60000000000 })).levelEdge 1429 false

/-- The MAC of a frame under its token's key (R355). -/
def State.accMac (s : State) (fr : List Byte) : List Byte :=
  let k := Config.aes128 s.acc.key (fr.take 4 ++ List.replicate 12 0#8)
  (Config.cmac k (leBytes 2 (s.f F.ACC_CTRL_SITE + 0x1000) ++ s.acc.chal ++ fr.take 30)).take 8

/-- A frame the device does not discard (R354): its CRC, its site, its SEQ. -/
def State.accFrameOk (s : State) (fr : List Byte) : Bool :=
  fr.length == 40 && crc16 (fr.take 38) == leAt fr 38 1 * 256 + leAt fr 39 1 && leAt fr 0 4 / 2 ^ 20 == s.f F.ACC_CTRL_SITE &&
  leAt fr 4 1 == s.acc.seq

/-- The enrolled token of a serial. -/
def State.accTok (s : State) (serial : Nat) : Option Nat :=
  firstBelow 256 (fun k => s.flag (F.ACC_TOK_EN k) && s.f (F.ACC_TOK_SERIAL k) == serial)

/-- ACC_LAST after an authenticated reply (R372). -/
def State.accLast (s : State) (tid zone tp : Nat) : State :=
  (((s.setF F.ACC_LAST_SERIAL (tid % 2 ^ 20)).setF F.ACC_LAST_ZONE zone).setF F.ACC_LAST_TPF tp).modAcc (fun a => { a with last := tid })

/-- A reply in a code (R353 to R358, R362, R365); ACC_RSSI_CLK is counted over it, saturating (R354, R372). -/
def State.accReply (s0 : State) (fr : List Byte) (rssi : Nat) : State :=
  if !s0.acc.code then s0 else
  let s := s0.setF F.ACC_LAST_RSSI (min 255 rssi)
  if !s.accFrameOk fr then s else
  let tid := leAt fr 0 4
  let serial := tid % 2 ^ 20
  let good := (fr.drop 30).take 8 == s.accMac fr
  if good && bit (leAt fr 5 1) 0 then s.accDisturb else
  match (if good then s.accTok serial else none) with
  | none => s.accFail
  | some k =>
    if s.acc.inCode.contains serial then s else
    let m := s.accM fr
    let zone := s.accClassify m
    let s1 := (s.accLast tid zone 0).modAcc (fun a => { a with
      inCode := serial :: a.inCode
      inside := a.inside || zone == 1
      calSeen := if s.flag (F.ACC_TOK_CAL k) && !a.inScan.contains serial then m :: a.calSeen else a.calSeen })
    let s2 := if s.acc.inScan.contains serial then s1 else
      (s1.occReply serial zone).modAcc (fun a => { a with inScan := serial :: a.inScan })
    if zone = 2 then s2.accSession (s2.flag (F.ACC_TOK_LOCK k)) none else s2

/-- ACC_REPLY_RX (R354, R355, R358). -/
def execAccReplyRx (frame : List Byte) (rssi : BitVec 16) (s : State) : Host.Outcome State Fault Refusal :=
  .next (s.accReply frame rssi.toNat)

/-! The end of a scan (R358, R359, R365). -/

/-- Missed entries of a scan (R358). -/
def State.accMisses (s : State) : State :=
  forBelow 16 s (fun k s =>
    let serial := s.f (F.ACC_OCC_SERIAL k)
    if s.f (F.ACC_OCC_STATE k) ≠ 1 ∨ s.acc.inScan.contains serial then s else
    let n := min 255 (s.f (F.ACC_OCCX_MISS k) + 1)
    s.setOcc k (if s.f F.ACC_OCCCFG_LOST_N ≤ n then 2 else 1) serial (s.f (F.ACC_OCC_OUTCNT k)) n)

/-- STARTUP's count (R359). -/
def State.accStartup (s : State) : State :=
  let n := if s.acc.inside || s.flag F.ACC_GATE_ANTF then 0 else min 3 (s.acc.quietScans + 1)
  let s1 := s.modAcc (fun a => { a with quietScans := n })
  if n = 3 ∧ s.flag F.ACC_GATE_STARTUP then (s1.setF F.ACC_GATE_STARTUP 0).accGate else s1

/-- Write a calibrated point: register and setting, which the Steward stores (R365). -/
def State.calWrite (s : State) (c : AccCal) (ms : List Nat) : State :=
  let bs := ms.map (fun m => BitVec.ofNat 8 m)
  let put := fun (a o : Nat) (s : State) =>
    { s.setReg a (toW (leAt bs o 4)) with settings := tblSet s.settings a (toW (leAt bs o 4)) }
  put (A.ACC_CAL_H c.zone c.point) 4 (put (A.ACC_CAL_L c.zone c.point) 0 s)

/-- A calibration after an undisturbed scan (R365). -/
def State.calScan (s : State) : State :=
  match s.acc.cal with
  | none => s
  | some c =>
    if s.mustStop 5 then (s.modAcc (fun a => { a with cal := none })).failStopped c.key 5 else
    match s.acc.calSeen with
    | [] =>
      if 16 ≤ c.without + 1 then s.calEnd c stFailed (leBytes 2 0x0E11)
      else s.modAcc (fun a => { a with cal := some { c with without := c.without + 1 } })
    | [m] =>
      let c1 := { c with sums := (List.range 8).map (fun a => (c.sums[a]?).getD 0 + (m[a]?).getD 0), used := c.used + 1 }
      if c1.used < 8 then s.modAcc (fun a => { a with cal := some c1 })
      else
        let ms := c1.sums.map (fun x => (x + 4) / 8)
        ((s.calWrite c1 ms).raise 1436).calEnd c1 stOk (leBytes 1 c1.zone ++ leBytes 1 c1.point ++ ms.flatMap (leBytes 1) ++
          leBytes 1 c1.used ++ leBytes 1 c1.disturbed)
    | _ => s.calEnd c stFailed (leBytes 2 0x0E13)

/-- ACC_SCAN_END (R353, R358, R359, R364, R365): the reply window of an undisturbed code ends, and a transponder poll is due with
the session IDLE and the door closed. -/
def execAccScanEnd (s : State) : Host.Outcome State Fault Refusal :=
  .next (if !s.acc.code then s else
    let s1 := (((s.setF F.ACC_STAT_FDIST 0).accMisses).accStartup).calScan
    (s1.modAcc (fun a => { a with
      txen := false
      poll := s1.flag F.ACC_TP_EN && !s1.flag F.ACC_STAT_SESS && !s1.accDoor
      pollRep := 0 })).accOver)

/-- ACC_LOCKOUT_END (R356). -/
def execAccLockoutEnd (s : State) : Host.Outcome State Fault Refusal :=
  .next ((s.setF F.ACC_STAT_LOCKOUT 0).modAcc (fun a => { a with fails := [], lockUntil := 0 }))

/-- ACC_FAIL_AGE_OUT (R356): the oldest failure is 60 s old. -/
def execAccFailAgeOut (s : State) : Host.Outcome State Fault Refusal :=
  .next (s.modAcc (fun a => { a with fails := a.fails.dropLast }))

/-- ACC_SESSION_TIMEOUT (R362). -/
def execAccSessionTimeout (s : State) : Host.Outcome State Fault Refusal := .next (s.accEnd 2)

/-- ACC_ARM_EXPIRY (R361). -/
def execAccArmExpiry (s : State) : Host.Outcome State Fault Refusal :=
  .next (if s.f F.ACC_GATE_OVR = 1 then s.accOvr 0 else s)

/-- A poll ends (R352, R364). -/
def State.accPollEnd (s : State) : State :=
  (s.modAcc (fun a => { a with code := false, txen := false, poll := false, pollRep := 0 })).accOver

/-- A disturbed poll (R353, R364): it repeats; after three disturbed repeats it ends as a disturbed scan does (DEDUCED from R364, log 174). -/
def State.accPollDist (s : State) : State :=
  let s1 := (s.raise 1430).modAcc (fun a => { a with code := false, txen := false, pollRep := a.pollRep + 1 })
  if s.acc.pollRep < 3 then s1 else ((s1.setF F.ACC_STAT_FDIST 1).raise 1431).accPollEnd

/-- TRANSPONDER_POLL (R364): wake and data on ACC_ANT_7, `mv` the highest voltage of its quiet windows in an aerial of MEAS, then the
answer, if any, with its zone taken as DOOR; an authentic answer with DIST = 1 disturbs the poll (R353). Without the random generator there is no poll (DESIGN CHOICE, log 175). -/
def State.accPoll (s : State) (mv : Nat) (fr : List Byte) : State :=
  if !s.acc.poll ∨ !s.flag F.ACC_CTRL_EN then s
  else if !s.flag F.ENCL_STAT_TRNG then s.accPollEnd else
  let s1 := s.accCode 0x80
  if s.f F.ACC_IF_AMB_MV < mv then s1.accPollDist
  else if !s1.accFrameOk fr then s1.accPollEnd else
  let tid := leAt fr 0 4
  let good := (fr.drop 30).take 8 == s1.accMac fr
  if good && bit (leAt fr 5 1) 0 then s1.accPollDist else
  match (if good then s1.accTok (tid % 2 ^ 20) else none) with
  | none => s1.accFail.accPollEnd
  | some k => ((s1.accLast tid 2 1).accSession (s1.flag (F.ACC_TOK_LOCK k)) (some (tid % 2 ^ 20))).accPollEnd

/-- TRANSPONDER_POLL (R364). -/
def execTransponderPoll (x : TpAnswer) (s : State) : Host.Outcome State Fault Refusal :=
  .next (s.accPoll x.mv.toNat x.frame)

/-! Commands (R361, R365, R366). -/

/-- ACC_CALIBRATE (R365). -/
def bodyAccCalibrate : Body := fixedLen 2 (fun c s =>
  let z := leAt c.pl 0 1
  let p := leAt c.pl 1 1
  if 2 < z then s.badParam c.key 0
  else if 15 < p then s.badParam c.key 1
  else if s.accCalRefused z || s.acc.cal.isSome then s.wrongState c.key (s.f F.ACC_GATE_OCC)
  else if s.flag F.ACC_GATE_ANTF then s.failed c.key 0x0E12
  else ((s.modAcc (fun a => { a with cal := some { (default : AccCal) with key := c.key, zone := z, point := p } })).stopServed 5).accept c.key)

/-- ACC_CALIBRATE (R365). -/
def execAccCalibrate (r : Req) (s : State) : Host.Outcome State Fault Refusal := .next (s.opcode r 7 1 bodyAccCalibrate)

/-- ACC_OVERRIDE (R361). -/
def bodyAccOverride : Body := fixedLen 1 (fun c s =>
  let v := leVal c.pl
  let o := s.f F.ACC_GATE_OVR
  if 1 < v then s.badParam c.key 0
  else if v = 1 then
    if o ≠ 0 then s.ok c.key []
    else if !s.flag F.ACC_DOOR_KEY_EN then s.wrongState c.key o
    else ((s.modAcc (fun a => { a with armUntil := s.now + s.f F.ACC_DOOR_ARM_S * 1000000000 })).accOvr 1).ok c.key []
  else if o = 2 then (if s.accKey then s.accRelease else s).ok c.key []
  else if o = 1 then (s.accOvr 0).ok c.key []
  else s.ok c.key [])

/-- ACC_OVERRIDE (R361). -/
def execAccOverride (r : Req) (s : State) : Host.Outcome State Fault Refusal := .next (s.opcode r 7 2 bodyAccOverride)

/-- Store a token's entry. -/
def State.accTokPut (s : State) (k serial flags : Nat) : State :=
  let s1 := (((s.setF (F.ACC_TOK_SERIAL k) serial).setF (F.ACC_TOK_EN k) flags).setF (F.ACC_TOK_LOCK k) (flags / 2)).setF (F.ACC_TOK_CAL k) (flags / 4)
  { s1 with settings := tblSet s1.settings (A.ACC_TOK k) (s1.reg (A.ACC_TOK k)) }

/-- TOKEN_ENROL (R366). -/
def bodyTokenEnrol : Body := fixedLen 6 (fun c s =>
  let tid := leAt c.pl 0 4
  let fl := leAt c.pl 4 1
  let serial := tid % 2 ^ 20
  if tid / 2 ^ 20 ≠ s.f F.ACC_CTRL_SITE then s.badParam c.key 0
  else if fl / 8 ≠ 0 then s.badParam c.key 4
  else if leAt c.pl 5 1 ≠ 0 then s.badParam c.key 5
  else match s.accTok serial with
    | some k => (if bit fl 0 then s.accTokPut k serial fl else s.accTokPut k 0 0).ok c.key (leBytes 2 k)
    | none =>
      if !bit fl 0 then s.notFound c.key else
      match firstBelow 256 (fun k => !s.flag (F.ACC_TOK_EN k)) with
      | some k => (s.accTokPut k serial fl).ok c.key (leBytes 2 k)
      | none => s.limit c.key 0x0E01)

/-- TOKEN_ENROL (R366). -/
def execTokenEnrol (r : Req) (s : State) : Host.Outcome State Fault Refusal := .next (s.opcode r 7 3 bodyTokenEnrol)

/-- Whole seconds until an instant, rounded up. -/
def State.secsTo (s : State) (t : Nat) : Nat := min 65535 (cdiv (t - s.now) 1000000000)

/-- ACC_STATUS (R366). -/
def bodyAccStatus : Body := fixedLen 0 (fun c s =>
  let o := s.f F.ACC_GATE_OVR
  let g := s.f F.ACC_GATE_CLOSED + 2 * s.f F.ACC_GATE_STARTUP + 4 * s.f F.ACC_GATE_OVF + 8 * s.f F.ACC_GATE_ANTF +
    16 * b2n (o == 1) + 32 * b2n (o == 2)
  s.ok c.key (leBytes 1 (s.f F.ACC_STAT_SESS) ++ leBytes 1 (s.f F.ACC_STAT_LASTEND) ++
    leBytes 2 (if s.flag F.ACC_STAT_SESS then s.secsTo s.acc.sessUntil else 0) ++ leBytes 1 s.occCount ++ leBytes 1 g ++
    leBytes 2 (if s.flag F.ACC_STAT_LOCKOUT then s.secsTo s.acc.lockUntil else 0) ++ leBytes 4 s.acc.last ++
    leBytes 1 (s.f F.ACC_LAST_ZONE) ++ leBytes 1 0))

/-- ACC_STATUS (R366). -/
def execAccStatus (r : Req) (s : State) : Host.Outcome State Fault Refusal := .next (s.opcode r 7 4 bodyAccStatus)

end Sys2Proof.Machine
end

