-- ==== Sys2Proof/Machine/CrustCmd.lean ====
section
/-! DEFINITION. The commands of group 09 and the Crust store's rows (R395 to R408). -/
namespace Sys2Proof.Machine

/-- A request that the store does not serve in its present state (R38, R400, R401). -/
def State.crustRefuse (s : State) (k : RKey) : State := s.wrongState k (s.f F.CRUST_STAT_STATE)

/-- Put a write into the store's queue. -/
def State.crustQueue (s : State) (w : CrustWr) : State := s.modCrust (fun c => { c with queue := c.queue ++ [w] })

/-- The increments of a counter that wait before a new one. -/
def State.pendingInc (s : State) (k : Nat) : Nat :=
  (s.crust.queue.filter (fun w => w.kind == 1 && w.key == k)).foldl (fun n w => n + leVal w.data) 0

/-- CRUST_READ (R396, R397): bytes of a page, wrapping within it. -/
def bodyCrustRead : Body := fixedLen 4 (fun c s =>
  let p := leAt c.pl 0 2
  let o := leAt c.pl 2 1
  let n := leAt c.pl 3 1
  if 1023 < p then s.badParam c.key 0
  else if 63 < o then s.badParam c.key 2
  else if n < 1 ∨ 64 < n then s.badParam c.key 3
  else if !s.crustServes then s.crustRefuse c.key
  else
    let pg := s.page p
    s.ok c.key ((List.range n).map (fun i => (pg[(o + i) % 64]?).getD 0#8)))

/-- CRUST_WRITE (R397, R401, R404, R406): queued; the reply follows the record. -/
def bodyCrustWrite : Body := rangeLen 4 67 (fun c s =>
  let p := leAt c.pl 0 2
  let o := leAt c.pl 2 1
  if !pageOk p then s.badParam c.key 0
  else if 63 < o then s.badParam c.key 2
  else if !s.crustServes || s.flag F.CRUST_STAT_PFW then s.crustRefuse c.key
  else s.crustQueue { kind := 0, key := p, off := o, data := c.pl.drop 3, req := some c.key })

/-- COUNTER_INC (R398): an increment of 0 returns the value; one past 2^64 − 1 is refused; others are queued. -/
def bodyCounterInc : Body := fixedLen 5 (fun c s =>
  let k := leAt c.pl 0 1
  let n := leAt c.pl 1 4
  if k ≤ 7 ∨ 31 < k then s.badParam c.key 0
  else if !s.crustServes || (s.flag F.CRUST_STAT_PFW && n != 0) then s.crustRefuse c.key
  else
    let v := s.counter k + s.pendingInc k
    if 2 ^ 64 ≤ v + n then s.limit c.key 0x0903
    else if n = 0 ∧ s.pendingInc k = 0 then s.ok c.key (leBytes 8 v)
    else s.crustQueue { kind := 1, key := k, off := 0, data := leBytes 4 n, req := some c.key })

/-- LOG_READ (R399): entries from a first LSEQ on, from the oldest reported one where the first is older. -/
def bodyLogRead : Body := fixedLen 6 (fun c s =>
  let first := leAt c.pl 0 4
  let n := leAt c.pl 4 2
  if n < 1 ∨ 64 < n then s.badParam c.key 4
  else if !s.crustServes then s.crustRefuse c.key
  else
    let es := (s.crust.reported.filter (fun e => e.lseq == first || newer 32 e.lseq first)).take n
    let f0 := match es.head? with | some e => e.lseq | none => first
    s.ok c.key (leBytes 4 f0 ++ leBytes 2 es.length ++ es.flatMap LogEnt.bytes))

/-- CRUST_COMPACT (R402): accepted; the completion follows the compaction. -/
def bodyCrustCompact : Body := fixedLen 0 (fun c s =>
  if s.crust.compact.isSome then s.crustRefuse c.key else
  ((s.modCrust (fun x => { x with compact := some (some c.key) })).stopServed 1).accept c.key)

/-- Answer the request of a queue entry, or the port. -/
def State.crustAnswer (s : State) (w : CrustWr) (stat : Nat) (pl : List Byte) (port : Nat) : State :=
  match w.req with
  | some k => s.finish k stat pl
  | none => s.crustResult port

/-- The head of the queue becomes a record and is answered (R395, R397, R398); none when it must wait for space (R402). -/
def State.crustHead (s : State) (w : CrustWr) : Option State :=
  let tr := s.flag F.UPD_STAT_TRIAL
  let bk := s.f F.UPD_STAT_BANK
  if w.kind = 0 then
    (s.crustAppend 1 w.key (s.schemaOf (pageOwner w.key)) (pageMerge (s.page w.key) w.off w.data) false tr bk).map
      (fun s1 => s1.crustAnswer w stOk [] 0)
  else if w.kind = 1 then
    let v := s.counter w.key + leVal w.data
    if 2 ^ 64 ≤ v then some (s.crustAnswer w stLimit (leBytes 2 0x0903) 4)
    else if leVal w.data = 0 then some (s.crustAnswer w stOk (leBytes 8 v) 0)
    else (s.crustAppend 2 w.key 0 (leBytes 8 v) false tr bk).map (fun s1 => s1.crustAnswer w stOk (leBytes 8 v) 0)
  else (s.bankMark (w.key % 2) (1 < w.key)).map (fun s1 => s1.crustAnswer w stOk [] 0)

/-- Drop the head of the queue. -/
def State.crustPop (s : State) : State := s.modCrust (fun c => { c with queue := c.queue.drop 1 })

/-- A program that fails its check (R403): the sector is marked FULL, the failure counted, the write repeated elsewhere. -/
def State.crustProgFail (s : State) : State :=
  let s1 := match s.crust.openSec with
    | some i => s.modCrust (fun c => { c with secs := tblMod c.secs i (fun x => { x with st := 2 }) })
    | none => s
  (s1.incF F.CRUST_ERR_PROGERR 1).raise 421

/-- CRUST_READ (R397). -/
def execCrustRead (r : Req) (s : State) : Host.Outcome State Fault Refusal := .next (s.opcode r 9 1 bodyCrustRead)

/-- CRUST_WRITE (R397). -/
def execCrustWrite (r : Req) (s : State) : Host.Outcome State Fault Refusal := .next (s.opcode r 9 2 bodyCrustWrite)

/-- COUNTER_INC (R398). -/
def execCounterInc (r : Req) (s : State) : Host.Outcome State Fault Refusal := .next (s.opcode r 9 3 bodyCounterInc)

/-- LOG_READ (R399). -/
def execLogRead (r : Req) (s : State) : Host.Outcome State Fault Refusal := .next (s.opcode r 9 4 bodyLogRead)

/-- CRUST_COMPACT (R402). -/
def execCrustCompact (r : Req) (s : State) : Host.Outcome State Fault Refusal := .next (s.opcode r 9 5 bodyCrustCompact)

/-- A read request through CRUST_RDREQ (R408): page bytes or a counter in RDBUF, DONE set. -/
def State.rdreq (s : State) (key : Nat) (counter : Bool) : State :=
  let s1 := ((s.setF F.CRUST_RDREQ_KEY key).setFlag F.CRUST_RDREQ_KIND counter).setF F.CRUST_RDREQ_DONE 0
  if !s1.crustServes || (counter && decide (31 < key)) then s1
  else
    let d := if counter then leBytes 8 (s1.counter key) ++ (s1.regBytes (A.CRUST_RDBUF 2) 14) else s1.page key
    (s1.setRegBytes (A.CRUST_RDBUF 0) 16 d).setF F.CRUST_RDREQ_DONE 1

/-- CRUST_RDREQ_GO (R408). -/
def execCrustRdreqGo (who : Who) (key : Fin 1024) (counter : Bool) (s : State) : Host.Outcome State Fault Refusal :=
  .next (s.regDo who A.CRUST_RDREQ (fun s => s.rdreq key.val counter))

/-- Words a port request takes, from its word 0 (R408): 0 for a bad request. -/
def wportNeed (w : Nat) : Nat :=
  let kind := bits w 1 0
  let len := bits w 24 18
  if bits w 31 25 ≠ 0 ∨ kind = 3 then 0
  else if kind = 0 then (if len < 1 ∨ 64 < len then 0 else 1 + cdiv len 4)
  else if len ≠ 0 then 0
  else if kind = 1 then 2 else 3

/-- Carry out a complete port request as the commands of R39 would (R408). -/
def State.wportDo (s : State) (ws : List Nat) : State :=
  let w := ws.headD 0
  let key := bits w 11 2
  let data := (ws.drop 1).flatMap (leBytes 4)
  if bits w 1 0 = 2 then (s.logAdd ((ws.getD 2 0) % 2 ^ 16) (ws.getD 1 0)).crustResult 0
  else if s.flag F.CRUST_STAT_PFW && !(bits w 1 0 == 1 && ws.getD 1 0 == 0) then s.crustResult 2
  else if !s.crustServes then s.crustResult 3
  else if bits w 1 0 = 0 then
    if !pageOk key then s.crustResult 3
    else s.crustQueue { kind := 0, key := key, off := bits w 17 12, data := data.take (bits w 24 18), req := none }
  else if key ≤ 7 ∨ 31 < key then s.crustResult 3
  else if 2 ^ 64 ≤ s.counter key + s.pendingInc key + ws.getD 1 0 then s.crustResult 4
  else s.crustQueue { kind := 1, key := key, off := 0, data := data.take 4, req := none }

/-- One word written to CRUST_WPORT at word offset `i` (R408): word 0 starts a request, its last word enqueues it. -/
def State.wportWord (s : State) (i w : Nat) : State :=
  let ws := if i = 0 then [w] else s.crust.wport ++ [w]
  let drop := fun (s : State) => s.modCrust (fun c => { c with wport := [] })
  if ws.length ≠ i + 1 then (drop s).crustResult 3
  else if wportNeed (ws.headD 0) = 0 then (drop s).crustResult 3
  else if wportNeed (ws.headD 0) = ws.length then (drop s).wportDo ws
  else s.modCrust (fun c => { c with wport := ws })

/-- CRUST_WPORT_REQUEST (R408): the words of a request written from offset 0x100 on, its last word last. -/
def execCrustWportRequest (who : Who) (words : List Word) (s : State) : Host.Outcome State Fault Refusal :=
  .next (s.regDo who (A.CRUST_WPORT 0) (fun s =>
    ((words.take 17).zipIdx).foldl (fun s p => s.wportWord p.2 p.1.toNat) s))

/-- CRUST_RECORD_WRITTEN (R395, R402, R403): the head of the queue is programmed, or its program fails its check. -/
def execCrustRecordWritten (ok : Bool) (s : State) : Host.Outcome State Fault Refusal :=
  .next (match s.crust.queue with
    | [] => s
    | w :: _ => if !s.crustServes then s else if !ok then s.crustProgFail else
        match s.crustPop.crustHead w with
        | some s1 => s1
        | none => s)

/-- CRUST_LOG_ENTRY (R399). -/
def execCrustLogEntry (code : BitVec 16) (arg : Word) (s : State) : Host.Outcome State Fault Refusal :=
  .next (s.logAdd code.toNat arg.toNat)

/-- CRUST_OPEN_DONE (R395, R400): with a valid INDEX group the store enters VERIFY; without one it goes on scanning. A record
left torn at the end of the written area marks its sector FULL. -/
def execCrustOpenDone (index torn : Bool) (s : State) : Host.Outcome State Fault Refusal :=
  .next (if s.f F.CRUST_STAT_STATE ≠ 1 then s else
    let s1 := match (if torn then s.crust.openSec else none) with
      | some i => s.modCrust (fun c => { c with secs := tblMod c.secs i (fun x => { x with st := 2 }) })
      | none => s
    if index then (s1.setF F.CRUST_STAT_STATE 2).levelEdge 418 (s1.levelOn 418) else s1)

/-- A damaged record is skipped and counted (R395). -/
def State.crustDamaged (s : State) (seq : Nat) : State :=
  if s.crust.recs.any (fun r => r.seq == seq && r.good) then
    ((s.modCrust (fun c => { c with recs := c.recs.map (fun r => if r.seq == seq then { r with good := false } else r) })).incF
      F.CRUST_ERR_RECERR 1).raise 417
  else s

/-- CRUST_VERIFY_DONE (R395, R400): every sector checked, the damaged records skipped; READY. -/
def execCrustVerifyDone (damaged : List Word) (s : State) : Host.Outcome State Fault Refusal :=
  .next (if s.f F.CRUST_STAT_STATE = 1 ∨ s.f F.CRUST_STAT_STATE = 2 then
    let s1 := damaged.foldl (fun s w => s.crustDamaged w.toNat) s
    let was := s1.levelOn 418
    ((s1.setF F.CRUST_STAT_STATE 3).levelEdge 418 was).raise 416
  else s)

/-- CRUST_BACKGROUND_COMPACT (R48, R402): at three erased general sectors or fewer, in READY, while no conflicting token is
held, the Steward takes the CMP token as transport 7 and starts. -/
def execCrustBackgroundCompact (s : State) : Host.Outcome State Fault Refusal :=
  .next (if s.f F.CRUST_STAT_STATE = 3 ∧ s.crust.freeGen ≤ 3 ∧ s.crust.compact = none ∧ (s.maintBlock 1).isNone then
    let t : Token := { cls := 1, tp := 7, ep := 0, sess := 0, until_ := s.now }
    ({ s with cmd := { s.cmd with tokens := s.cmd.tokens ++ [t] } }).modCrust (fun c => { c with compact := some none })
  else s)

/-- CRUST_COMPACTION_DONE (R402): a compaction that was started runs and ends; its request completes with the sectors freed. -/
def execCrustCompactionDone (s : State) : Host.Outcome State Fault Refusal :=
  .next (if s.f F.CRUST_STAT_STATE ≠ 3 then s else
    match s.crust.compact with
    | none => s
    | some req =>
      let s0 := s.modCrust (fun c => { c with compact := none })
      match req with
      | some k =>
        if s0.mustStop 1 then s0.failStopped k 1 else
        let (s1, f) := s0.compact
        (s1.raise 419).ok k (leBytes 2 (b2n f))
      | none =>
        let (s1, _) := s0.compact
        ({ s1 with cmd := { s1.cmd with tokens := s1.cmd.tokens.filter (fun (t : Token) => t.tp != 7) } }).raise 419)

/-- The WEAR register over all sectors (R403, R408). -/
def State.wearRegs (s : State) : State :=
  let es := (List.range 16).map (fun i => (tblGet s.crust.secs i).erases)
  (s.setF F.CRUST_WEAR_MAXE (min 65535 (es.foldl max 0))).setF F.CRUST_WEAR_MINE (min 65535 (es.foldl min (es.headD 0)))

/-- CRUST_ERASE_DONE (R399, R401, R403): the sector erase under way ends, or fails its check and leaves the sector out of use. -/
def execCrustEraseDone (ok : Bool) (s : State) : Host.Outcome State Fault Refusal :=
  .next (match s.crust.erasing with
    | [] => s
    | i :: rest =>
      if s.crust.suspended then s
      else if !ok then
        ((s.modCrust (fun c => { c with erasing := rest, secs := tblMod c.secs i (fun x => { x with st := 2 }) })).incF
          F.CRUST_ERR_PROGERR 1).raise 421
      else
        let s1 := (s.modCrust (fun c => { c with
          erasing := rest
          secs := tblMod c.secs i (fun x => { x with st := 0, used := 0, erases := x.erases + 1 }) })).wearRegs
        if 9000 ≤ (tblGet s1.crust.secs i).erases && !s1.crust.wearRaised then
          (s1.modCrust (fun c => { c with wearRaised := true })).raise 420
        else s1)

/-- CRUST_SPACE_WAIT_EXPIRY (R402): a write that has waited 500 ms for space is refused. -/
def execCrustSpaceWaitExpiry (s : State) : Host.Outcome State Fault Refusal :=
  .next (match s.crust.queue with
    | [] => s
    | w :: _ => match s.crustPop.crustHead w with
      | some _ => s
      | none => s.crustPop.crustAnswer w stLimit (leBytes 2 0x0902) 1)

end Sys2Proof.Machine
end

