-- ==== Sys2Proof/Machine/RegAccess.lean ====
section
/-! DEFINITION. A register read or write that has no behaviour of its own (R5, R7): what each access code does. -/
namespace Sys2Proof.Machine

/-- What a written field value reads back as (the limits of the register tables). -/
def FieldDef.readsBack (f : FieldDef) (v : Nat) : Nat :=
  match f.lim with
  | none => v
  | some (lo, hi, below, above) => if v < lo then below else if hi < v then above else v

/-- One field of a write, by its access code (R5). -/
def fieldWrite (w : Nat) (x : Nat) (f : FieldDef) : Nat :=
  let v := bits w f.hi f.lo
  let o := bits x f.hi f.lo
  match f.acc with
  | .rw => putBits x f.hi f.lo (f.readsBack v)
  | .w1c => putBits x f.hi f.lo (o - (o &&& v))
  | .w1s => putBits x f.hi f.lo (o ||| v)
  | .ro | .wo | .rc => x

/-- The word a register holds after a write of `w`: every field by its code, reserved bits unchanged at 0 (R5, R7). -/
def RegDef.write (r : RegDef) (x w : Word) : Word := toW (r.fields.foldl (fieldWrite w.toNat) x.toNat)

/-- The word a register holds after a read: its RC fields are cleared (R5). -/
def RegDef.afterRead (r : RegDef) (x : Word) : Word :=
  toW (r.fields.foldl (fun y f => if f.acc = .rc then putBits y f.hi f.lo 0 else y) x.toNat)

/-- The word a read returns: WO fields read 0 (R5). -/
def RegDef.readout (r : RegDef) (x : Word) : Word :=
  toW (r.fields.foldl (fun y f => if f.acc = .wo then putBits y f.hi f.lo 0 else y) x.toNat)

/-- A write to a defined register without behaviour of its own. -/
def State.plainWrite (s : State) (r : RegDef) (a : Nat) (w : Word) : State := s.setReg a (r.write (s.reg a) w)

end Sys2Proof.Machine
end

