-- ==== Sys2Proof/Machine/Mem.lean ====
section
/-! DEFINITION. Physical accesses to the memories of R19: the image ranges' buffers (R136), ECC (R102, R103), refusals. -/
namespace Sys2Proof.Machine

/-- The result of a physical read. -/
inductive BusRes where
  | ok (v : Nat)
  | busErr
  | eccErr
  deriving DecidableEq, Repr

/-- D-TCM offset of one of the three physical input buffers (R135, R136). -/
def inBuf (i : Nat) : Nat :=
  match i % 3 with
  | 0 => 0x00000
  | 1 => 0x10000
  | _ => 0x80000

/-- D-TCM offset of the output commit bank, in the Rake-held range. -/
def commitBank : Nat := 0x90000

/-- D-TCM offset of the retain checkpoint bank, in the Rake-held range. -/
def ckptBank : Nat := 0xA0000

/-- Where a D-TCM offset lies physically under a rotation: the input image is buffer `rot`, the previous image buffer
`rot + 1`, the third buffer `rot + 2` (R136). -/
def imgResolve (rot off : Nat) : Nat :=
  if off < 0x10000 then inBuf rot + off
  else if off < 0x20000 then inBuf (rot + 1) + (off - 0x10000)
  else off

/-- Physical place of an address: image ranges through their Pan's rotation, for every initiator (R136). -/
def State.place (s : State) (a : Nat) : Nat :=
  match memKind a with
  | .dtcm p => dtcmBase p + imgResolve (s.pan p).rot (a - dtcmBase p)
  | _ => a

/-- D-TCM offset of the third buffer, which the harvest writes (R136). -/
def State.thirdBuf (s : State) (p : PanId) : Nat := dtcmBase p + inBuf ((s.pan p).rot + 2)

/-! Where the errors of stores without an address of R19 stand in `State.ecc`: a core's TLB, a Pan's store buffer, the IOTLB and
the Steward's local RAM. The event fabric's RAM, the IOMMU contexts and the journal stand at their registers' addresses. -/

def tlbStore (c : CoreId) : Nat := 0x100000000 + 4 * c.num
def stbStore (p : PanId) : Nat := 0x100000100 + 4 * p.num
def iotlbStore : Nat := 0x100000200
def stewStore (off : Nat) : Nat := 0x100100000 + off

/-- MEM_ECCSRC.STORE code of an address (R132). -/
def eccStore (a : Nat) : Nat :=
  if 0x100100000 ≤ a then 6 else if 0x100000200 ≤ a then 9 else if 0x100000100 ≤ a then 11 else if 0x100000000 ≤ a then 10
  else if 0x40028000 ≤ a ∧ a < 0x40030000 then 7
  else if a / 0x10000 = 0x4001 then 8
  else if a / 0x10000 = 0x4002 then 9
  else match memKind a with
  | .itcm .a => 1
  | .dtcm .a | .hole .a => 2
  | .itcm .b => 3
  | .dtcm .b | .hole .b => 4
  | .retain => 5
  | _ => 0

/-- Record an uncorrectable error: its address, its store and its count (R103). The address of a store that has none is a free
value. -/
def State.eccRecord (s : State) (a store : Nat) : State :=
  let s1 := if a < 2 ^ 32 then s.setF F.MEM_ECCADDR_ADDR a else (s.setF F.MEM_ECCADDR_ADDR s.freeNat).useFree
  (s1.setF F.MEM_ECCSRC_STORE store).incF F.MEM_ECCCNT_UNCORR 1

/-- Correct one word in error (R102): written back, counted, ECC_CORR raised. -/
def State.eccCorrect (s : State) (w : Nat) : State :=
  (({ s with ecc := tblErase s.ecc w }).incF F.MEM_ECCCNT_CORR 1).raise 64

/-- Correct every correctable word that `n` bytes from `a` touch (R102). -/
def State.eccFix (s : State) (a n : Nat) : State :=
  ((eccHits s.ecc a n).filter (fun x => x.2 == 1)).foldl (fun s x => s.eccCorrect x.1) s

/-- An uncorrectable error lies in the `n` bytes from `a`. -/
def State.eccBad (s : State) (a n : Nat) : Bool := (eccHits s.ecc a n).any (fun x => x.2 == 2)

/-- A read by the Rake or an engine of `n` bytes at a physical place (R102, R103): correctable words are corrected and counted; an
uncorrectable one is recorded and ECC_UNCORR raised, and the second result says so. -/
def State.eccRead (s : State) (a n : Nat) : State × Bool :=
  if s.eccBad a n then ((s.eccRecord a (eccStore a)).raise 65, true) else (s.eccFix a n, false)

/-- A use of a critical store (R104): an uncorrectable error in it is recorded and requests the reset source for it. -/
def State.critRead (s : State) (a n : Nat) : State :=
  if s.eccBad a n then (s.eccRecord a (eccStore a)).reqReset 10 none else s.eccFix a n

/-- A physical read of memory of `n` bytes (1, 2, 4 or 8), at a physical address: refused outside memory, in the Rake-held
range and across a closed bridge (R17, R19, R135); errors under R102 and R103. -/
def State.memRead (s : State) (a n : Nat) : State × BusRes :=
  match memKind a with
  | .none | .hole _ | .reg => (s, .busErr)
  | _ =>
    if !s.islandUp (addrIsland a) then (s, .busErr) else
    let q := s.place a
    if s.eccBad q n then (s.eccRecord a (eccStore a), .eccErr)
    else (s.eccFix q n, .ok ((s.eccFix q n).mget q n))

/-- Number of a tracked 64-byte line (R185): marker area, then application data region. -/
def hsLineOf (off : Nat) : Option Nat :=
  if 0x30000 ≤ off ∧ off < 0x70000 then some ((off - 0x30000) / 64)
  else if 0xA8000 ≤ off ∧ off < 0xF8000 then some (4096 + (off - 0xA8000) / 64)
  else none

/-- A store into a tracked line of a paired device marks it dirty (R185). -/
def State.touch (s : State) (a : Nat) : State :=
  match memKind a with
  | .dtcm p =>
    match hsLineOf (a - dtcmBase p) with
    | some i =>
      if s.flag F.RING_HS_CFG_EN then
        { s with ring := { s.ring with hs := { s.ring.hs with pans := tblMod s.ring.hs.pans p.num (fun h =>
          { h with dirty := if h.dirty.contains i then h.dirty else i :: h.dirty }) } } }
      else s
    | none => s
  | _ => s

/-- A physical write of memory; none where the write is refused: flash, the Rake-held range, no memory, a closed bridge
(R17, R19, R135). The errors of the words written go as `eccClear` says. -/
def State.memWrite (s : State) (a n v : Nat) : Option State :=
  match memKind a with
  | .none | .hole _ | .reg | .flash => none
  | _ =>
    if !s.islandUp (addrIsland a) then none else
    some ((s.mput (s.place a) n v).touch a)

end Sys2Proof.Machine
end

