-- ==== Sys2Proof/Machine/Mmu.lean ====
section
/-! DEFINITION. Address translation: the two-level table (R107), a core's MMU and TLB (R108, R109) and the IOMMU with its IOTLB
(R112, R113). -/
namespace Sys2Proof.Machine

/-- What a walk finds: the page in 4 KiB units and its attributes (R107). -/
structure Walk where
  vpage : Nat
  pages : Nat
  ppage : Nat
  g : Bool
  u : Bool
  x : Bool
  w : Bool
  deriving DecidableEq, Repr

/-- The physical page number of a virtual address inside a page. -/
def pagePa (vpage ppage va : Nat) : Nat := (ppage + (va / 0x1000 - vpage)) * 0x1000 + va % 0x1000

/-- A page of `2 ^ sh` bytes from a table entry: its base bits and attributes [5:2] G U X W (R107). -/
def pageOf (sh va e : Nat) : Walk :=
  let n := 2 ^ (sh - 12)
  ⟨va / 2 ^ sh * n, n, e / 2 ^ sh * n, bit e 5, bit e 4, bit e 3, bit e 2⟩

/-- One table word: only shared SRAM, and for a core its own D-TCM, may hold tables (R108). -/
def State.ptRead (s : State) (own : Option PanId) (a : Nat) : State × Option Nat :=
  let ok := match memKind a with
    | .sram => true
    | .dtcm p => own == some p
    | _ => false
  if !ok then (s, none) else
  match s.memRead a 4 with
  | (s1, .ok v) => (s1, some v)
  | (s1, _) => (s1, none)

/-- A table walk (R107): none where an entry at either level is invalid or lies outside the memories for tables. -/
def State.walk (s : State) (own : Option PanId) (ttb va : Nat) : State × Option Walk :=
  match s.ptRead own (ttb / 0x4000 * 0x4000 + va / 0x100000 * 4) with
  | (s1, none) => (s1, none)
  | (s1, some e) =>
    if e % 4 = 2 then (s1, some (pageOf 20 va e))
    else if e % 4 = 1 then
      match s1.ptRead own (e / 0x400 * 0x400 + va / 0x1000 % 256 * 4) with
      | (s2, none) => (s2, none)
      | (s2, some f) =>
        if f % 4 = 1 then (s2, some (pageOf 12 va f))
        else if f % 4 = 2 then (s2, some (pageOf 16 va f))
        else (s2, none)
    else (s1, none)

/-! A core's TLB (R109). -/

/-- An access a core makes (R108). -/
inductive AccKind where
  | fetch | load | store
  deriving DecidableEq, Repr

/-- A TLB entry maps a virtual page under an ASID (R107). -/
def TlbEntry.hits (e : TlbEntry) (asid vp : Nat) : Bool :=
  (e.g || e.asid == asid) && decide (e.vpage ≤ vp) && decide (vp < e.vpage + e.pages)

/-- Where round-robin replacement puts the next entry: the first unlocked entry from `tlbNext` on (R109). -/
def FkCore.tlbVictim (k : FkCore) : Option Nat :=
  ((List.range 64).map (fun i => (k.tlbNext + i) % 64)).find? (fun i =>
    match k.tlb[i]? with | some e => !e.locked | none => false)

/-- Keep a walk result: a free entry, else the next unlocked one; with all 64 locked it is not kept (R109). The second result
says that it was kept. -/
def FkCore.tlbKeep (k : FkCore) (e : TlbEntry) : FkCore × Bool :=
  if k.tlb.length < 64 then ({ k with tlb := k.tlb ++ [e] }, true)
  else match k.tlbVictim with
    | some i => ({ k with tlb := k.tlb.set i e, tlbNext := (i + 1) % 64 }, true)
    | none => (k, false)

/-- A walk result as a TLB entry. -/
def Walk.entry (x : Walk) (asid : Nat) (locked : Bool) : TlbEntry := ⟨x.vpage, x.pages, x.ppage, asid, x.g, x.u, x.x, x.w, locked⟩

/-- Locked entries of a core's TLB (TLBSTAT.LOCKED). -/
def FkCore.locked (k : FkCore) : Nat := (k.tlb.filter (·.locked)).length

/-- The permission check of R108: an application access needs U, a write W, a fetch X. -/
def permOk (u x w : Bool) (kind : AccKind) (app : Bool) : Bool :=
  (u || !app) && (match kind with | .fetch => x | .load => true | .store => w)

/-- Translate a core's access (R108, R109): the physical address, or the sub-cause 1 or 2 of its fault. A walk takes at most
2 tSRAM + 6 core cycles; how many is a free value within that (R110). -/
def State.translate (s : State) (c : CoreId) (va : Nat) (kind : AccKind) : State × Except Nat Nat :=
  let k := s.core c
  if !bit k.mctrl.toNat 0 then (s, .ok va) else
  let s := s.critRead (tlbStore c) 4
  let asid := k.asid.toNat % 256
  let app := k.pl == 0
  match k.tlb.find? (fun e => e.hits asid (va / 0x1000)) with
  | some e => if permOk e.u e.x e.w kind app then (s, .ok (pagePa e.vpage e.ppage va)) else (s, .error 2)
  | none =>
    if bit k.mctrl.toNat 1 then (s, .error 1) else
    match (s.spend c (1 + s.freeNat % 54)).useFree.walk c.pan k.ttb.toNat va with
    | (s1, none) => (s1, .error 1)
    | (s1, some x) =>
      let s2 := s1.setCore c ((s1.core c).tlbKeep (x.entry asid false)).1
      if permOk x.u x.x x.w kind app then (s2, .ok (pagePa x.vpage x.ppage va)) else (s2, .error 2)

/-- Remove TLB entries of a core; the replacement pointer stays. -/
def State.tlbDrop (s : State) (c : CoreId) (p : TlbEntry → Bool) : State :=
  s.setCore c { s.core c with tlb := (s.core c).tlb.filter (fun e => !p e) }

/-- TLBOP OP 5 (R109): walk a page under the current ASID and lock the result; a faulting walk, or 64 locked entries, locks
nothing and sets LOCK_FAIL. -/
def State.tlbLock (s : State) (c : CoreId) (page : Nat) : State :=
  let fail (s : State) : State := s.setCore c { s.core c with lockFail := true }
  let k := s.core c
  let asid := k.asid.toNat % 256
  if 64 ≤ k.locked then fail s else
  match s.walk c.pan k.ttb.toNat (page * 0x1000) with
  | (s1, none) => fail s1
  | (s1, some x) =>
    let s2 := s1.tlbDrop c (fun e => e.hits asid page)
    let (k2, ok) := (s2.core c).tlbKeep (x.entry asid true)
    s2.setCore c { k2 with lockFail := !ok }

/-- A write to TLBOP (R99): its operation by OP. -/
def State.tlbOp (s : State) (c : CoreId) (v : Nat) : State :=
  let page := v / 0x10000 * 16 + bits v 11 8
  let asid := (s.core c).asid.toNat % 256
  match v % 8 with
  | 1 => s.tlbDrop c (fun _ => true)
  | 2 => s.tlbDrop c (fun e => !e.g && !e.locked)
  | 3 => s.tlbDrop c (fun e => !e.g && e.asid == bits v 15 8)
  | 4 => s.tlbDrop c (fun e => e.hits asid page)
  | 5 => s.tlbLock c page
  | _ => s

/-- TLB_INVALIDATE_ALL (R99). -/
def execTlbInvalidateAll (c : CoreId) (s : State) : Host.Outcome State Fault Refusal := .next (s.tlbOp c 1)

/-- TLB_INVALIDATE_NONGLOBAL (R99). -/
def execTlbInvalidateNonglobal (c : CoreId) (s : State) : Host.Outcome State Fault Refusal := .next (s.tlbOp c 2)

/-- TLB_INVALIDATE_ASID (R99). -/
def execTlbInvalidateAsid (c : CoreId) (asid : BitVec 8) (s : State) : Host.Outcome State Fault Refusal :=
  .next (s.tlbOp c (3 + 256 * asid.toNat))

/-- The word that names a page to TLBOP: VA[31:16] in [31:16], VA[15:12] in [11:8] (R99). -/
def tlbPageWord (op : Nat) (page : BitVec 20) : Nat := op + 256 * (page.toNat % 16) + 0x10000 * (page.toNat / 16)

/-- TLB_INVALIDATE_PAGE (R99). -/
def execTlbInvalidatePage (c : CoreId) (page : BitVec 20) (s : State) : Host.Outcome State Fault Refusal :=
  .next (s.tlbOp c (tlbPageWord 4 page))

/-- TLB_LOCK_PAGE (R109). -/
def execTlbLockPage (c : CoreId) (page : BitVec 20) (s : State) : Host.Outcome State Fault Refusal :=
  .next (s.tlbOp c (tlbPageWord 5 page))

/-! The IOMMU (R112, R113). -/

/-- Record an IOMMU fault, the first until VALID is cleared: type 1 translation, 2 permission, 3 disabled or unbound (R113). -/
def State.iommuFault (s : State) (ctx ini va : Nat) (wr : Bool) (type : Nat) : State :=
  if s.flag F.IOMMU_FAULT_INFO_VALID then s else
  let was := s.levelOn 67
  let s1 := (((s.setF F.IOMMU_FAULT_ADDR_ADDR va).setF F.IOMMU_FAULT_INFO_CTX ctx).setFlag F.IOMMU_FAULT_INFO_WRITE wr)
  let s2 := ((s1.setF F.IOMMU_FAULT_INFO_TYPE type).setF F.IOMMU_FAULT_INFO_INIT ini).setFlag F.IOMMU_FAULT_INFO_VALID true
  s2.levelEdge 67 was

/-- Keep a page in the IOTLB of 128 entries, the oldest making room (R112). -/
def iotlbKeep (t : List IotlbEntry) (e : IotlbEntry) : List IotlbEntry := (if 128 ≤ t.length then t.drop 1 else t) ++ [e]

/-- Translate an engine's access through a context (R112, R113): the physical address, or none with the fault recorded. -/
def State.ioTranslate (s : State) (ctx ini va : Nat) (wr : Bool) : State × Option Nat :=
  if !s.flag F.IOMMU_CTRL_EN || !s.flag (F.IOMMU_CTX_VALID ctx) then (s.iommuFault ctx ini va wr 3, none) else
  let s := (s.critRead (A.IOMMU_CTX ctx) 4).critRead iotlbStore 4
  match s.dma.iotlb.find? (fun e => e.ctx == ctx && decide (e.vpage ≤ va / 0x1000) && decide (va / 0x1000 < e.vpage + e.pages)) with
  | some e => if wr && !e.w then (s.iommuFault ctx ini va wr 2, none) else (s, some (pagePa e.vpage e.ppage va))
  | none =>
    match s.walk none (s.f (F.IOMMU_CTX_TTB ctx) * 0x4000) va with
    | (s1, none) => (s1.iommuFault ctx ini va wr 1, none)
    | (s1, some x) =>
      let s2 := { s1 with dma := { s1.dma with iotlb := iotlbKeep s1.dma.iotlb ⟨ctx, x.vpage, x.pages, x.ppage, x.w⟩ } }
      if wr && !x.w then (s2.iommuFault ctx ini va wr 2, none) else (s2, some (pagePa x.vpage x.ppage va))

/-- Translate an access of the engine bound to stream `st` (R112, R113): 0 and 1 the MACs, 2 USBS, 3 and 4 RING's mirrors and
frames. -/
def State.ioStream (s : State) (st va : Nat) (wr : Bool) : State × Option Nat :=
  let ctx := s.f (F.IOMMU_STREAM_CTX st)
  if s.flag (F.IOMMU_STREAM_VALID st) then s.ioTranslate ctx (64 + st) va wr
  else (s.iommuFault ctx (64 + st) va wr 3, none)

/-- A write to IOMMU_INV: the IOTLB entries of one context, or all, are dropped. -/
def State.iotlbInv (s : State) (ctx : Nat) (all : Bool) : State :=
  { s with dma := { s.dma with iotlb := s.dma.iotlb.filter (fun e => !all && e.ctx != ctx) } }

/-- IOMMU_INV (R133). -/
def execIommuInv (who : Who) (ctx : Fin 64) (all : Bool) (s : State) : Host.Outcome State Fault Refusal :=
  .next (s.regDo who A.IOMMU_INV (fun s => s.iotlbInv ctx all))

end Sys2Proof.Machine
end

