-- ==== Sys2Proof/Machine/Dma.lean ====
section
/-! DEFINITION. The DMA engine's channels (R116, R119), the Bittern journal (R120), tagged ports (R121), and the commands a register
write gives a channel. The beats themselves are in Machine/DmaRun.lean. -/
namespace Sys2Proof.Machine

/-! The journal (R120). -/

/-- A record's eight words as the journal window shows them (R120). -/
def JRec.word (r : JRec) (i : Nat) : Nat :=
  match i with
  | 0 => r.ch + 0x100 * r.gen + 0x10000 * r.state + 0x1000000 * r.cause
  | 1 => r.src
  | 2 => r.dst
  | 3 => r.len + 0x10000 * r.beatsDone +
      0x1000000 * (b2n r.tagged + 2 * b2n r.popsrc + 4 * b2n r.replayed + 8 * b2n r.pinned)
  | 4 => r.desc
  | 5 => r.ts
  | 6 => r.rseq
  | _ => r.faultAddr

/-- A record is open: OPEN, REPLAYING or PAUSED (R120). -/
def JRec.isOpen (r : JRec) : Bool := r.state == 1 || r.state == 3 || r.state == 4

/-- A journal record, by index. -/
def State.jrec (s : State) (j : Nat) : JRec := tblGet s.dma.jrn j

/-- The record a new burst takes (R120): the oldest that is neither open nor pinned; one never used, or FREE, is older than any
other. -/
def State.jrnOldest (s : State) : Nat :=
  let now := s.f F.DMA_JRN_RSEQ_RSEQ
  match firstBelow 1024 (fun j => (s.jrec j).state == 0) with
  | some j => j
  | none =>
    ((List.range 1024).foldl (fun (b : Option (Nat × Nat)) j =>
      let r := s.jrec j
      let age := (now + 2 ^ 32 - r.rseq) % 2 ^ 32
      if r.isOpen || r.pinned then b else
      match b with
      | none => some (age, j)
      | some (x, i) => if x < age then some (age, j) else some (x, i)) none).elim 0 (·.2)

/-- A channel's state beside its registers. -/
def State.dch (s : State) (n : Nat) : DmaCh := tblGet s.dma.ch n

/-- Change it. -/
def State.modDch (s : State) (n : Nat) (f : DmaCh → DmaCh) : State := { s with dma := { s.dma with ch := tblMod s.dma.ch n f } }

/-- Change the channel's current record. -/
def State.modRec (s : State) (n : Nat) (f : JRec → JRec) : State :=
  { s with dma := { s.dma with jrn := tblMod s.dma.jrn (s.f (F.DMA_CH_STAT_JREC n)) f } }

/-- The channel's current record. -/
def State.chRec (s : State) (n : Nat) : JRec := s.jrec (s.f (F.DMA_CH_STAT_JREC n))

/-- Store a cause in the record and in STAT, which shows it (R133). -/
def State.recCause (s : State) (n cause : Nat) : State :=
  (s.modRec n (fun r => { r with cause := cause })).setF (F.DMA_CH_STAT_CAUSE n) cause

/-- Bytes of the next burst (R116): to the next 256-byte boundary of the incrementing side, 256 when neither side increments,
and no further than the descriptor's end. When both sides increment the nearer boundary ends it. -/
def burstLen (x : DmaCh) (rem : Nat) : Nat :=
  let a := if x.sinc then 256 - x.src % 256 else 256
  let b := if x.dinc then 256 - x.dst % 256 else 256
  min rem (min a b)

/-- Open a record (R120): OPEN with the channel's next GEN and the next RSEQ. -/
def State.openRec (s : State) (n src dst len : Nat) : State :=
  let j := s.jrnOldest
  let q := (s.f F.DMA_JRN_RSEQ_RSEQ + 1) % 2 ^ 32
  let g := ((s.dch n).gen + 1) % 256
  let r : JRec := { (default : JRec) with
    ch := n, gen := g, state := 1, src := src, dst := dst, len := len,
    desc := s.f (F.DMA_CH_CUR_VALUE n), ts := s.dtime / 1000 % 2 ^ 32, rseq := q }
  let s1 := { s with dma := { s.dma with jrn := tblSet s.dma.jrn j r }, ecc := eccClear s.ecc (0x40028000 + 32 * j) 32 }
  let s2 := ((s1.setF F.DMA_JRN_RSEQ_RSEQ q).setF (F.DMA_CH_STAT_JREC n) j).setF (F.DMA_CH_STAT_CAUSE n) 0
  s2.modDch n (fun x => { x with gen := g, beat := 0, beatsRead := 0, eccTried := false })

/-- Open the next burst's record of the descriptor in force. A record that a fault of the descriptor fetch left open becomes
the burst's. -/
def State.openBurst (s : State) (n : Nat) : State :=
  let x := s.dch n
  let len := burstLen x (s.f (F.DMA_CH_REM_VALUE n))
  let s1 := if (s.chRec n).isOpen && (s.chRec n).ch == n && (s.chRec n).len == 0 then
      (s.modRec n (fun r => { r with state := if r.replayed then 3 else 1, src := x.src, dst := x.dst, len := len })).modDch n
        (fun x => { x with beat := 0, beatsRead := 0, eccTried := false })
    else s.openRec n x.src x.dst len
  s1.modDch n (fun x => { x with burstOpen := true })

/-- A channel gives up the data path, when it holds it. -/
def State.dmaYield (s : State) (n : Nat) : State :=
  { s with dma := { s.dma with active := if s.dma.active = some n then none else s.dma.active } }

/-- End the channel in ERROR (R119): the record UNRECOVERABLE with its cause and the faulting address, pinned; STAT.ERR;
DMA_CH_ERR. -/
def State.dmaFail (s : State) (n cause fa : Nat) : State :=
  let s1 := (s.recCause n cause).modRec n (fun r => { r with state := 5, pinned := true, faultAddr := fa })
  let s2 := (s1.setF (F.DMA_CH_STAT_STATE n) 4).setFlag (F.DMA_CH_STAT_ERR n) true
  (s2.modDch n (fun x => { x with burstOpen := false, ready := false })).dmaYield n

/-- End the channel in ERROR and raise DMA_CH_ERR. -/
def State.dmaError (s : State) (n cause fa : Nat) : State := (s.dmaFail n cause fa).raise 192

/-- An IOMMU fault pauses the channel (R113, R119). -/
def State.dmaPause (s : State) (n fa : Nat) : State :=
  let s1 := (s.recCause n 3).modRec n (fun r => { r with state := 4, faultAddr := fa })
  let s2 := s1.setF (F.DMA_CH_STAT_STATE n) 3
  (s2.dmaYield n).raise 194

/-- A channel waits to be served again (R119). -/
def State.dmaWait (s : State) (n cause : Nat) : State :=
  let s1 := (s.recCause n cause).setF (F.DMA_CH_STAT_STATE n) 2
  s1.dmaYield n

/-- An uncorrectable error on a read of the engine (R103, R123): ECC_UNCORR; the first one of a burst makes it wait for its one
replay, the second ends the channel. -/
def State.dmaEcc (s : State) (n fa : Nat) : State :=
  let s1 := s.raise 65
  if (s1.dch n).eccTried then s1.dmaError n 2 fa
  else (s1.dmaWait n 2).modDch n (fun x => { x with eccTried := true })

/-- A read of `n` bytes of memory on behalf of the engine, byte by byte through the IOMMU (R112): the value, or the address and
kind of the fault. -/
inductive IoRes where
  | ok (v : List Byte)
  | iommu (a : Nat)
  | bus (a : Nat)
  | ecc (a : Nat)
  deriving DecidableEq, Repr

/-- Read bytes of memory through a context, lowest address first. -/
def State.ioReadMem (ctx ini : Nat) : Nat → Nat → State → State × IoRes
  | 0, _, s => (s, .ok [])
  | n + 1, va, s =>
    match s.ioTranslate ctx ini va false with
    | (s1, none) => (s1, .iommu va)
    | (s1, some pa) =>
      match s1.memRead pa 1 with
      | (s2, .busErr) => (s2, .bus va)
      | (s2, .eccErr) => (s2, .ecc va)
      | (s2, .ok v) =>
        match State.ioReadMem ctx ini n (va + 1) s2 with
        | (s3, .ok vs) => (s3, .ok (BitVec.ofNat 8 v :: vs))
        | r => r

/-- A descriptor is malformed (R116): a reserved field set, or LEN 0, or more than 16,777,216. -/
def badDesc (d : List Byte) : Bool :=
  leAt d 8 4 == 0 || decide (0x1000000 < leAt d 8 4) || decide (16 ≤ leAt d 12 2) || leAt d 14 2 != 0 ||
  leAt d 20 4 != 0 || leAt d 24 8 != 0

/-- A fault of the descriptor fetch: it needs a record (R119), which has no burst yet. -/
def State.fetchRec (s : State) (n : Nat) : State :=
  if (s.chRec n).isOpen && (s.chRec n).ch == n && (s.chRec n).len == 0 then s else s.openRec n 0 0 0

/-- Fetch the descriptor at CUR and open the record of its first burst (R116, R119). A descriptor address that is not aligned to 32
bytes is taken as a bad descriptor (DESIGN CHOICE, log 148). -/
def State.fetchDesc (s : State) (n : Nat) : State :=
  let a := s.f (F.DMA_CH_CUR_VALUE n)
  if a % 32 ≠ 0 then (s.fetchRec n).dmaError n 5 a else
  match State.ioReadMem (s.f (F.DMA_CH_CFG_CTX n)) n 32 a s with
  | (s1, .iommu fa) => (s1.fetchRec n).dmaPause n fa
  | (s1, .bus fa) => (s1.fetchRec n).dmaError n 5 fa
  | (s1, .ecc fa) => (s1.fetchRec n).dmaEcc n fa
  | (s1, .ok d) =>
    if badDesc d then (s1.fetchRec n).dmaError n 5 a else
    let ctrl := leAt d 12 2
    let s2 := s1.modDch n (fun x => { x with
      src := leAt d 0 4, dst := leAt d 4 4, sinc := bit ctrl 0, dinc := bit ctrl 1
      irq := bit ctrl 2, last := bit ctrl 3, nextDesc := leAt d 16 4 })
    let s2 := s2.setF (F.DMA_CH_REM_VALUE n) (leAt d 8 4)
    s2.openBurst n

/-! What a write to DMA_CH_n_CTRL and STAT does (R119). -/

/-- START, in state IDLE with CFG.EN. -/
def State.dmaStart (s : State) (n : Nat) : State :=
  if s.f (F.DMA_CH_STAT_STATE n) = 0 && s.flag (F.DMA_CH_CFG_EN n) then
    let s1 := (s.setF (F.DMA_CH_STAT_STATE n) 1).setF (F.DMA_CH_CUR_VALUE n) (s.f (F.DMA_CH_DESC_VALUE n))
    (s1.modDch n (fun x => { x with burstOpen := false, ready := false })).fetchDesc n
  else s

/-- ABORT, in PAUSED, WAITING or ACTIVE. -/
def State.dmaAbort (s : State) (n : Nat) : State :=
  if 1 ≤ s.f (F.DMA_CH_STAT_STATE n) ∧ s.f (F.DMA_CH_STAT_STATE n) ≤ 3 then
    s.dmaError n 7 (s.chRec n).faultAddr
  else s

/-- A replay begins (R119, R122): REPLAYING, REPLAYED, DMA_REPLAY; from BEATS_DONE after an island reset, else from beat 0. -/
def State.dmaReplay (s : State) (n : Nat) : State :=
  let r := s.chRec n
  let first := if r.cause = 4 then r.beatsDone else 0
  let s1 := ((s.setF (F.DMA_CH_STAT_STATE n) 1).modRec n (fun r => { r with state := 3, replayed := true })).modDch n
    (fun x => { x with beat := first })
  let s2 := (s1.critRead (0x40028000 + 32 * s.f (F.DMA_CH_STAT_JREC n)) 32).raise 193
  if (s2.dch n).burstOpen then s2 else s2.fetchDesc n

/-- RESUME, in PAUSED: the burst is replayed from beat 0. -/
def State.dmaResume (s : State) (n : Nat) : State :=
  if s.f (F.DMA_CH_STAT_STATE n) = 3 then s.dmaReplay n else s

/-- STAT.ERR cleared in ERROR: to IDLE, the channel's own record unpinned; STAT.JREC may name another's after an L2 reset. -/
def State.dmaErrClear (s : State) (n : Nat) : State :=
  let s1 := s.setFlag (F.DMA_CH_STAT_ERR n) false
  if s.f (F.DMA_CH_STAT_STATE n) = 4 then
    (s1.setF (F.DMA_CH_STAT_STATE n) 0).modRec n (fun r => { r with pinned := r.pinned && r.ch != n })
  else s1

/-- A write to DMA_CH_n_CTRL: START, RESUME and ABORT one after another, in the order of their rows in R119 (R11). -/
def State.dmaCtrl (s : State) (n v : Nat) : State :=
  ((s.when (bit v 0) (fun s => s.dmaStart n)).when (bit v 2) (fun s => s.dmaResume n)).when (bit v 1) (fun s => s.dmaAbort n)

/-- DMA_START (R119). -/
def execDmaStart (who : Who) (ch : Fin 64) (s : State) : Host.Outcome State Fault Refusal :=
  .next (s.regDo who (A.DMA_CH_CTRL ch) (fun s => s.dmaStart ch))

/-- DMA_ABORT (R119). -/
def execDmaAbort (who : Who) (ch : Fin 64) (s : State) : Host.Outcome State Fault Refusal :=
  .next (s.regDo who (A.DMA_CH_CTRL ch) (fun s => s.dmaAbort ch))

/-- DMA_RESUME (R119). -/
def execDmaResume (who : Who) (ch : Fin 64) (s : State) : Host.Outcome State Fault Refusal :=
  .next (s.regDo who (A.DMA_CH_CTRL ch) (fun s => s.dmaResume ch))

/-- DMA_ERR_CLEAR (R119). -/
def execDmaErrClear (who : Who) (ch : Fin 64) (s : State) : Host.Outcome State Fault Refusal :=
  .next (s.regDo who (A.DMA_CH_STAT ch) (fun s => s.dmaErrClear ch))

/-- DMA_PERIPHERAL_REQUEST (R116): a channel that names a request line is ready for one burst. -/
def execDmaPeripheralRequest (ch : Fin 64) (s : State) : Host.Outcome State Fault Refusal :=
  .next (if s.f (F.DMA_CH_CFG_REQ ch) = 0xFF then s else s.modDch ch (fun x => { x with ready := true }))

/-- DMA_L3WAIT_EXPIRY (R123): the wait for a reset island has lasted DMA_L3WAIT; the burst ends UNRECOVERABLE, CAUSE 4. -/
def execDmaL3waitExpiry (ch : Fin 64) (s : State) : Host.Outcome State Fault Refusal :=
  .next (if s.f (F.DMA_CH_STAT_STATE ch) = 2 && s.f (F.DMA_CH_STAT_CAUSE ch) = 4 then
    s.dmaError ch 4 (s.chRec ch).faultAddr else s)

/-- The tagged port an address belongs to (R121): CAN_n_UNF_REL, TXREQ_SET and TXFIFO, and the CRUST write port. No register map
gives the RING, ETH and USBS transmit FIFOs an address (log 147). -/
def taggedPort (a : Nat) : Option Nat :=
  let b := a / 0x10000 * 0x10000
  let o := a % 0x10000
  if 0x40100000 ≤ a ∧ a < 0x40200000 then
    if o / 4 = 0x34 / 4 then some (b + 0x34)
    else if o = 0x200 ∨ o = 0x204 then some (b + 0x200)
    else if 0x800 ≤ o ∧ o < 0x850 then some (b + 0x800)
    else none
  else if A.CRUST_WPORT 0 ≤ a ∧ a < A.CRUST_WPORT 0 + 0x44 then some (A.CRUST_WPORT 0)
  else none

/-- The rule of a tagged port (R121): whether the write (channel, GEN, beat) is accepted, and the tag state after it. -/
def tagAccept (t : List TagRec) (port ch g b : Nat) : Bool × List TagRec :=
  let mine (x : TagRec) : Bool := x.port == port && x.ch == ch
  let put : List TagRec := ⟨port, ch, g, b⟩ :: t.filter (fun x => !mine x)
  match t.find? mine with
  | none => (true, put)
  | some x =>
    if newer 8 g x.lg then (true, put)
    else if g == x.lg && decide (x.lb < b) then (true, put)
    else (false, t)

/-- The L2 row of R119: every channel ends in ERROR with CAUSE 6; an open record is UNRECOVERABLE and pinned, and so is the pinned one
of a channel that was in ERROR already. A record that is closed stays as it is. -/
def State.dmaL2 (s : State) : State :=
  forBelow 64 s (fun n s =>
    let st := s.f (F.DMA_CH_STAT_STATE n)
    if st = 4 && (s.chRec n).pinned && (s.chRec n).ch == n then s.recCause n 6
    else if (s.chRec n).isOpen && (s.chRec n).ch == n then s.dmaFail n 6 (s.chRec n).faultAddr
    else ((s.setF (F.DMA_CH_STAT_STATE n) 4).setF (F.DMA_CH_STAT_CAUSE n) 6).setFlag (F.DMA_CH_STAT_ERR n) true)

end Sys2Proof.Machine
end

