-- ==== Sys2Proof/Machine/ResetBase.lean ====
section
/-! DEFINITION. What a reset leaves (R8, R105, R452, R453), the rail sequence (R429) and the wake from parking (R436 to R438): the
parts that the blocks' own commands can start. -/
namespace Sys2Proof.Machine

/-- Change the power state. -/
def State.modPwr (s : State) (g : PwrSt → PwrSt) : State := { s with pwr := g s.pwr }

/-! Levels (R451, R452). -/

/-- The level an unprogrammed fuse gives a source (R451); none where it is the level requested. -/
def defaultLvl (k : Nat) : Option Nat :=
  match k with
  | 0 | 1 | 3 | 9 => some 0
  | 2 | 8 | 15 => some 1
  | 4 | 5 | 6 | 7 | 10 | 14 => some 2
  | 11 => some (Config.fuseTamperLvl % 4)
  | _ => none

/-- The least severe level of a source (R451). -/
def minimumLvl (k : Nat) : Nat :=
  match k with
  | 0 | 1 => 0
  | 2 | 3 | 8 | 9 | 11 | 15 => 1
  | 12 | 13 => 3
  | _ => 2

/-- The level fused for a source. -/
def fuseLvl (k : Nat) : Nat :=
  match Config.fuseRstLvl k with
  | some l => l % 4
  | none => (defaultLvl k).getD 3

/-- A byte of the option bytes in force (R460, R470 OPT_w). -/
def State.optByte (s : State) (i : Nat) : Nat := bits (s.reg (A.SYSCTL_OPT (i / 4))).toNat (8 * (i % 4) + 7) (8 * (i % 4))

/-- The level a source is raised to by the option bytes; 3 is no raise (R460). VER is 1 in a copy in force; before the loader of
R461 has run, and with its defaults, it is 0 and nothing is raised (log 88). -/
def State.optLvl (s : State) (k : Nat) : Nat := let b := s.optByte (8 + k); if s.optByte 2 = 1 ∧ b ≤ 3 then b else 3

/-- The effective level of a source with the level requested, 3 when none is (R452): the most severe, and never less severe than
the minimum. -/
def State.effLvl (s : State) (k req : Nat) : Nat := min (minimumLvl k) (min (fuseLvl k) (min (s.optLvl k) req))

/-- A reset of level L2 or more severe has been requested (R184). -/
def State.rstSevere (s : State) : Bool := s.rstReq.any (fun r => decide (s.effLvl r.1 ((r.2.getD 3) % 4) ≤ 2))

/-! The RTC (R450). -/

/-- SUB, in 1/32,768 s, from the device's own clock. -/
def State.rtcSub (s : State) : Nat := min 32767 ((s.now - s.pwr.rtcAt) * 32768 / 1000000000)

/-- The RTC in ticks of 1/32,768 s. -/
def State.rtcTicks (s : State) : Nat := s.f F.SYSCTL_RTC_SEC_SEC * 32768 + s.rtcSub

/-! What is kept (R453, R445, R470, R368, R387). -/

/-- How thorough an L1 or L0 reset is: an ordinary one, a VAON brown-out, a power-on. -/
inductive Deep where
  | plain | brownOut | powerOn
  deriving DecidableEq, Repr

/-- The bits of a register that an L1 or L0 reset keeps: the fields marked as kept and the live states of the rails; the
occupancy table and the gate in PD_01; ENCL_TAMPER; and what a ball shows. -/
def keepBits (d : Deep) (a : Nat) : Nat :=
  let live :=
    if a = A.USBS_STAT then 0x1
    else if a = A.GPIO_IN then 0xFFFFFFFF
    else if a = A.SYSCTL_PWR_STAT then 0x3FF
    else 0
  let always :=
    if a = A.SYSCTL_RSTCAUSE then 0xFFFF
    else if a = A.SYSCTL_RSTLAST ∨ a = A.SYSCTL_STRAP ∨ a = A.SYSCTL_RTC_SEC ∨ a = A.SYSCTL_RTC_CTRL ∨ a = A.ENCL_TAMPER then
      0xFFFFFFFF
    else if a = A.SYSCTL_CLKSTAT then 0x180
    else 0
  let plain :=
    if a = A.SYSCTL_PWR_STAT then 0x7C00
    else if a = A.SYSCTL_WAKEREC ∨ a = A.SYSCTL_WAKETIME then 0xFFFFFFFF
    else if A.SYSCTL_ALM_TIME 0 ≤ a ∧ a < A.SYSCTL_ALM_TIME 2 then 0xFFFFFFFF
    else if a = A.ACC_GATE ∨ (A.ACC_OCC 0 ≤ a ∧ a < A.ACC_OCCX 16) then 0xFFFFFFFF
    else 0
  match d with
  | .powerOn => live
  | .brownOut => live ||| always
  | .plain => live ||| always ||| plain

/-- A register file after a reset that keeps some bits of each register. -/
def regsKept (keep : Nat → Nat) (r : List (Nat × Word)) : List (Nat × Word) :=
  r.filterMap (fun x =>
    let m := toW (keep x.1)
    let w := (x.2 &&& m) ||| (resetWord x.1 &&& ~~~m)
    if w = resetWord x.1 then none else some (x.1, w))

/-- Memory after an L1 or L0 reset (R105, R221): flash stays, and retain SRAM unless the reset initialises it. -/
def memKept (d : Deep) (m : List Host.Cell) : List Host.Cell :=
  m.filter (fun c => match memKind c.1 with | .flash => true | .retain => decide (d = Deep.plain) | _ => false)

/-- What a Pan has in flash: its program and its map (R158, R160). -/
def PanSt.inFlash (x : PanSt) : PanSt :=
  { (default : PanSt) with map := x.map, blocks := x.blocks, crcs := x.crcs }

/-- The Crust store over an L1 or L0 reset: what is in flash (R400); erases under way resume. -/
def CrustSt.inFlash (c : CrustSt) : CrustSt :=
  { c with queue := [], suspended := false, wport := [], compact := none }

/-- The Update Manager over an L1 or L0 reset: bank records, fuses, and the package store of R413 in flash when it holds a complete
package. -/
def UpdSt.inFlash (u : UpdSt) : UpdSt :=
  let v : UpdSt := { (default : UpdSt) with banks := u.banks, floors := u.floors, revoked := u.revoked, unfitDue := u.unfitDue }
  if u.complete && u.recov == 0 then
    { v with pkgLen := u.pkgLen, pkgFlags := u.pkgFlags, pkgSet := u.pkgSet, pkg := u.pkg, complete := true }
  else v

/-- Islands in reset at L1 and L0, by bit: all but AON. -/
def allHeld : Nat := 0x6FFF

/-- Islands in reset at L2 (R453): PANA, PANB, STEW, FAB, ETH, USB. -/
def l2Held : Nat := 0x418F

/-- An L1 or L0 reset takes every link that is UP down: RING_LINK_DOWN for each (R170). -/
def State.upLost (s : State) : State := s.upLinks.foldl (fun s _ => s.raise 321) s

/-- The state as an L1 or L0 reset leaves it at its first step (R105, R374, R379, R387, R400, R419, R453): every island but AON
in reset. DTIME restarts when the islands are clocked. -/
def State.resetL1 (s : State) (d : Deep) : State :=
  let s := s.upLost
  let o := s.f F.ACC_GATE_OVR
  let s1 := { State.reset with
    regs := regsKept (keepBits d) s.regs, mem := memKept d s.mem, now := s.now, dtime := s.dtime, freeCtr := s.freeCtr, out := s.out
    ecc := s.ecc.filter (fun x => match memKind (4 * x.1) with | .retain => decide (d = Deep.plain) | _ => false)
    crust := s.crust.inFlash, settings := s.settings, thermWarn := s.thermWarn, pwr := s.pwr, pending := s.pending
    encl := { (default : EnclSt) with store := s.encl.store }
    upd := s.upd.inFlash
    pA := s.pA.inFlash, pB := s.pB.inFlash
    rake := { (default : RakeSt) with split := s.rake.split }
    dbg := { (default : DbgSt) with ir := s.dbg.ir, cells := s.dbg.cells }
    islHeld := allHeld }
  let s2 := s1.setF F.CRUST_STAT_STATE 1
  if d = .plain ∧ o = 2 then (s2.setF F.ACC_GATE_OVR 0).setF F.ACC_EVT_EVT 0x200 else s2.setF F.ACC_GATE_OVR 0

/-! The rail sequence (R429, R430). -/

/-- Set the enables PWR_EN_2 to PWR_EN_0, PWR_GOOD and the rail monitors. -/
def State.rails (s : State) (en pg mon : Nat) : State :=
  ((s.setF F.SYSCTL_PWR_STAT_EN en).setF F.SYSCTL_PWR_STAT_PG pg).setF F.SYSCTL_PWR_STAT_RAILS mon

/-- The sequence begins at step 1 or 2: every enable low but PWR_EN_0 in step 2, the switched domains off. -/
def State.railStart (s : State) (step : Nat) : State :=
  (s.rails (if step = 2 then 1 else 0) 0 0).modPwr (fun p =>
    { p with rail := step, retry := false, dead := false, pd := if step = 1 then 0 else 3, pdWait := 0 })

/-- The rails are up (R429). -/
def State.railsUp (s : State) : Bool := s.pwr.rail == 0 && !s.pwr.retry && !s.pwr.dead

/-! Optional domains asked for again (R432). -/

/-- Ask for one domain's power again: its island stays in reset until it is on. -/
def State.pdOn (s : State) (d : Nat) : State :=
  (s.setFbit F.SYSCTL_PD_OFF_L_OFF d false).modPwr (fun p => { p with pdWait := putBit p.pdWait d true })

/-- A program is loaded into a Pan: the Steward clears its domain's bit (R432). -/
def State.pdForPan (s : State) (p : PanId) : State :=
  if s.fbit F.SYSCTL_PD_OFF_L_OFF (19 + p.num) then s.pdOn (19 + p.num) else s

/-! Releasing a core (R22, R457, R489). -/

/-- A core leaves reset: at vector 0, halted there with HALTRST; CCNT counts from here (R62). -/
def State.coreRelease (s : State) (c : CoreId) : State :=
  let k := { s.core c with cyc := 0, cycAt := s.now }
  if k.run ≠ .held then s else
  if s.flag (F.DBG_CORE_CTRL_HALTRST c.num) then
    let s1 := ((s.setCore c { k with run := .halted }).setF (F.DBG_CORE_STAT_HALTED c.num) 1).setF (F.DBG_CORE_STAT_CAUSE c.num) 6
    ({ s1.setFbit F.DBG_STAT_HALTED c.num true with dbg := { s1.dbg with haltAt := tblSet s1.dbg.haltAt c.num s.now } }).raise (224 + c.num)
  else s.setCore c { k with run := .running }

/-- The Steward releases a Pan whose domain is on: its core runs PANRT, and its watchdog starts. -/
def State.panRelease (s : State) (p : PanId) : State :=
  if !s.islandUp p.num then s
  else ((s.coreRelease p.core).setF (F.SYSCTL_WDT_CFG_RUN p.num) 1)

/-! Wakes (R436 to R438). -/

/-- The start from parking (R438): as an L1 reset, no cause bit set, WAKEREC and WAKETIME of the wake, the rails from step 2. -/
def State.wakeStart (s : State) : State :=
  let can := (s.can.tide.filter (fun x => x.2.wake.isSome)).map (fun x => (x.1, { (default : TideCh) with wake := x.2.wake, capt := x.2.capt }))
  let s1 := s.resetL1 .plain
  let s2 := ({ s1 with can := { s1.can with tide := can } }).railStart 2
  ((s2.setF F.SYSCTL_WAKEREC_VALID 1).setF F.SYSCTL_WAKETIME_SEC (s2.f F.SYSCTL_RTC_SEC_SEC)).modPwr
    (fun p => { p with park := .run, woken := false, waking := true, bring := some 1, rstOut := true, wdtHalf := 0, optNew := [] })

/-- A wake source acts (R436, R437): it is recorded when no wake is latched yet, and a parked device starts. CANMASK records
every channel that holds a wake. -/
def State.parkWake (s : State) (src detail : Nat) : State :=
  if s.pwr.park = .run then s else
  let s0 := if src = 4 then s.setFbit F.SYSCTL_WAKEREC_CANMASK detail true else s
  if s.pwr.woken then s0 else
  let s1 := ((s0.setF F.SYSCTL_WAKEREC_SRC src).setF F.SYSCTL_WAKEREC_DETAIL detail).setFlag F.SYSCTL_WAKEREC_ENTRY (s.pwr.park != .parked)
  let s2 := s1.modPwr (fun p => { p with woken := true })
  if s.pwr.park = .parked then s2.wakeStart else s2

end Sys2Proof.Machine
end

