-- ==== Sys2Proof/Machine/CanBase.lean ====
section
/-! DEFINITION. What the CAN controllers, the Tide manager and Sluice share: object RAM (R203 to R206), requests and arbitration
(R205, R213, R216), filing (R207 to R210), authentication (R220), wakes (R235). -/
namespace Sys2Proof.Machine

/-- A channel's state beside its registers. -/
def State.canCh (s : State) (n : Nat) : CanCh := tblGet s.can.ch n

/-- Change a channel's state. -/
def State.modCan (s : State) (n : Nat) (g : CanCh → CanCh) : State :=
  { s with can := { s.can with ch := tblMod s.can.ch n g } }

/-- A channel's Tide state beside its registers. -/
def State.tideCh (s : State) (n : Nat) : TideCh := tblGet s.can.tide n

/-- Change a channel's Tide state. -/
def State.modTide (s : State) (n : Nat) (g : TideCh → TideCh) : State :=
  { s with can := { s.can with tide := tblMod s.can.tide n g } }

/-- Raise source `k` of channel `n` (R224). -/
def State.canEvt (s : State) (n k : Nat) : State := s.raise (512 + 32 * n + k)

/-- DTIME div 1,000, bits [31:0]. -/
def State.us32 (s : State) : Nat := s.dtime / 1000 % 2 ^ 32

/-! Object RAM (R203). -/

/-- The object RAM of channel `n`. -/
def canRam (n : Nat) : Nat := 0x30000000 + n * 0x18000

/-- Receive object `j`. -/
def canRx (n j : Nat) : Nat := canRam n + j * 0x50

/-- Transmit object `t`. -/
def canTx (n t : Nat) : Nat := canRam n + 0x14000 + t * 0x50

/-- Unfiled FIFO entry `e`. -/
def canUnf (n e : Nat) : Nat := canRam n + 0x15400 + e * 0x50

/-- A field of an object's control word. -/
def State.ctl (s : State) (base hi lo : Nat) : Nat := bits (s.mget (base + 4) 4) hi lo

/-- Set a field of an object's control word. -/
def State.setCtl (s : State) (base hi lo v : Nat) : State :=
  s.mput (base + 4) 4 (putBits (s.mget (base + 4) 4) hi lo v)

/-- A bit of a transmit object's TCTL. -/
def State.txBit (s : State) (n t k : Nat) : Bool := s.ctl (canTx n t) k k == 1

/-- Set a bit of a transmit object's TCTL. -/
def State.setTx (s : State) (n t k : Nat) (b : Bool) : State := s.setCtl (canTx n t) k k (b2n b)

/-- Objects reserved for the transmit FIFO (R214). -/
def State.canReserved (s : State) (n t : Nat) : Bool := decide (64 - s.f (F.CAN_CTRL_TXF_N n) ≤ t)

/-! Frames. -/

/-- Data bytes of a DLC (ISO 11898-1; a classical frame carries at most 8). -/
def dlcLen (fdf : Bool) (d : Nat) : Nat :=
  if d ≤ 8 then d else if !fdf then 8 else
  match d with
  | 9 => 12 | 10 => 16 | 11 => 20 | 12 => 24 | 13 => 32 | 14 => 48 | _ => 64

/-- The smallest DLC whose length is at least `n` (R205). -/
def lenDlc (fdf : Bool) (n : Nat) : Nat := (firstBelow 16 (fun d => decide (n ≤ dlcLen fdf d))).getD (if fdf then 15 else 8)

/-- The time of an instant that lies `ago` ns back, as DTIME div 1,000, bits [31:0] (R260). -/
def State.usAgo (s : State) (ago : Nat) : Nat := (s.dtime - ago) / 1000 % 2 ^ 32

/-- A frame of a row with its RTS: the row gives how many ns ago its SOF was sampled (R204, R260). -/
def State.stamped (s : State) (f : CanFrame) : CanFrame := { f with sof := BitVec.ofNat 32 (s.usAgo f.sof.toNat) }

/-- Flags of a RID word (R204). -/
def ridIde (r : Nat) : Bool := bit r 29
def ridRtr (r : Nat) : Bool := bit r 30
def ridFdf (r : Nat) : Bool := bit r 31

/-- The identifier in a RID word: a base identifier takes bits [10:0] (R204). -/
def ridId (r : Nat) : Nat := if ridIde r then r % 2 ^ 29 else r % 2 ^ 11

/-- A RID word with bits [28:11] of a base identifier 0 (R204). -/
def ridNorm (r : Nat) : Nat := putBits r 28 0 (ridId r)

/-- Length of a received frame: none in a remote frame. -/
def frLen (f : CanFrame) : Nat :=
  if ridRtr f.rid.toNat && !ridFdf f.rid.toNat then 0 else dlcLen (ridFdf f.rid.toNat) f.dlc.toNat

/-- The data bytes of a received frame. -/
def frBytes (f : CanFrame) : List Byte := fitBytes (frLen f) f.data

/-- Order of identifiers in arbitration: a base frame goes before an extended one with the same first 11 bits. -/
def arbKey (r : Nat) : Nat := if ridIde r then 2 * (r % 2 ^ 29) + 1 else 2 * (r % 2 ^ 11 * 2 ^ 18)

/-! Wakes (R230, R232, R235). -/

/-- Change TIDE_n_STAT.STATE; a change raises TIDE_n_CHANGE (R230). -/
def State.setTide (s : State) (n st : Nat) : State :=
  if s.f (F.TIDE_N_STAT_STATE n) = st then s else (s.setF (F.TIDE_N_STAT_STATE n) st).raise (464 + n)

/-- STATE of a channel: 0 AWAKE, 1 EBB, 2 SLACK, 3 FLOOD. -/
def State.tideState (s : State) (n : Nat) : Nat := s.f (F.TIDE_N_STAT_STATE n)

/-- The channel is in EBB after its sleep commit. -/
def State.tideCommitted (s : State) (n : Nat) : Bool := s.tideState n == 1 && s.flag (F.TIDE_N_STAT_COMMITTED n)

/-- The channel is AWAKE or in EBB and not committed. -/
def State.tideOpen (s : State) (n : Nat) : Bool := s.tideState n == 0 || (s.tideState n == 1 && !s.flag (F.TIDE_N_STAT_COMMITTED n))

/-- Set or clear TIDE_QPEND bit n; TIDE_QUORUM is its level (R230, R247). -/
def State.setQpend (s : State) (n : Nat) (b : Bool) : State :=
  (s.setFbit F.TIDE_QPEND_QPEND n b).levelEdge 480 (s.levelOn 480)

/-- Record a wake (R235). -/
def State.tideRecord (s : State) (n src : Nat) (late capt : Bool) : State :=
  (((((s.setF (F.TIDE_N_WREC_SRC n) src).setFlag (F.TIDE_N_WREC_LATCHED n) late).setFlag (F.TIDE_N_WREC_CAPT n) capt).setF
    (F.TIDE_N_WREC_FEC n) (s.f (F.TIDE_N_WUF_CTL_FEC n))).incF (F.TIDE_N_WREC_COUNT n) 1).setF (F.TIDE_N_WTIME_TIME n) s.us32

/-- A wake by source `src` (R230, R232): in SLACK the transceiver goes to TO_NORMAL; after the commit it is latched, the entry
is abandoned with the transceiver still receiving, and FLOOD starts. Sources 6 to 9 are local. -/
def State.tideWake (s : State) (n src : Nat) (capt : Option CanFrame) : State :=
  let go := fun (s : State) (late : Bool) (trx : Nat) =>
    ((s.tideRecord n src late capt.isSome).setF (F.CAN_STAT_TRX n) trx).modTide n
      (fun c => { c with loc := decide (6 ≤ src), low := false, biasOff := false, capt := capt })
  if s.tideState n = 2 then (go s false 4).setTide n 3
  else if s.tideCommitted n then ((go s true 1).raise 483).setTide n 3
  else s

/-! Lateness (R216). -/

/-- The time TTIME or newer has come. -/
def State.canDueAt (s : State) (ttime : Nat) : Bool := !newer 32 ttime s.us32

/-- TTIME plus the tolerance has passed. -/
def State.canLateAt (s : State) (n ttime : Nat) : Bool := !newer 32 (ttime + s.f (F.CAN_TAT_TOL_US n)) s.us32

/-- A CAN_SEND of an object ends (R216). -/
def State.canEnd (s : State) (n t : Nat) (g : CanReq → State → State) : State :=
  let mine := (s.canCh n).reqs.filter (fun r => r.obj == t)
  mine.foldl (fun s r => g r s) (s.modCan n (fun c => { c with reqs := c.reqs.filter (fun r => r.obj != t) }))

/-- Held or cancelled: FAILED, cause 0x0701 (R216). -/
def State.canEndFailed (s : State) (n t : Nat) : State := s.canEnd n t (fun r s => s.failed r.key 0x0701)

/-- LATEPOL of a control word: 3 is taken as 0 (R205). -/
def latePol (c : Nat) : Nat := if bits c 11 10 = 3 then 0 else bits c 11 10

/-- An object becomes late (R216). -/
def State.canLate (s : State) (n t : Nat) : State :=
  let s1 := (s.setTx n t 18 true).canEvt n 5
  match latePol (s.mget (canTx n t + 4) 4) with
  | 1 => (((s1.setTx n t 16 false).setTx n t 20 true).canEvt n 6).canEnd n t
      (fun r s => s.finish r.key stLate (leBytes 8 r.dtime))
  | 2 => (((s1.setTx n t 16 false).setTx n t 21 true).canEvt n 7).canEndFailed n t
  | _ => s1

/-- The object is pending, timed and past its tolerance, and not yet marked late. -/
def State.canIsLate (s : State) (n t : Nat) : Bool :=
  s.txBit n t 16 && s.txBit n t 9 && !s.txBit n t 18 && s.canLateAt n (s.mget (canTx n t + 8) 4)

/-! Arbitration (R213). -/

/-- Internal loopback: the transceiver and the bus have no part in it (R225). -/
def State.canInternal (s : State) (n : Nat) : Bool := s.f (F.CAN_CTRL_MODE n) == 3 && !s.flag (F.CAN_CTRL_LBEXT n)

/-- The transceiver drives the bus: in every state but normal mode it holds it recessive (R200, R226). -/
def State.canDrives (s : State) (n : Nat) : Bool := s.canInternal n || s.f (F.CAN_STAT_TRX n) == 1

/-- Transmit object 62 holds the COMMIT SCF (R227, R231). -/
def State.commitScf (s : State) (n : Nat) : Bool := s.flag (F.TIDE_N_CFG_EN n) && bit (s.mget (canTx n 62 + 17) 1) 2

/-- The controller may start a transmission of object `t` (64: the FIFO): its state, mode and transceiver allow it, and after a sleep
commit only the COMMIT SCF and repeats go out (R200, R217, R219, R231). -/
def State.canMayStart (s : State) (n t : Nat) : Bool :=
  let st := s.f (F.CAN_STAT_STATE n)
  let md := s.f (F.CAN_CTRL_MODE n)
  (st == 2 || st == 3) && s.flag (F.CAN_CTRL_EN n) && md != 1 && md != 2 && s.canDrives n &&
  (s.tideOpen n || (s.tideCommitted n && ((t == 62 && s.commitScf n) || (s.canCh n).rep == some t)))

/-- The time of a pending object or record has come. -/
def State.canTimely (s : State) (c ttime : Nat) : Bool := !bit c 9 || s.canDueAt ttime

/-- What competes for the bus: the arbitration key and number of each pending object whose time has come, and of the FIFO's
head as number 64. -/
def State.canRunners (s : State) (n : Nat) : List (Nat × Nat) :=
  let objs := (List.range (64 - s.f (F.CAN_CTRL_TXF_N n))).filterMap (fun t =>
    let c := s.mget (canTx n t + 4) 4
    if bit c 16 && s.canTimely c (s.mget (canTx n t + 8) 4) && s.canMayStart n t
    then some (arbKey (s.mget (canTx n t) 4), t) else none)
  match (s.canCh n).txq with
  | r :: _ =>
    if s.canTimely (leAt r.bytes 4 4) (leAt r.bytes 8 4) && s.canMayStart n 64 then objs ++ [(arbKey (leAt r.bytes 0 4), 64)]
    else objs
  | [] => objs

/-- The lower key, then the lower number. -/
def arbBetter (b : Option (Nat × Nat)) (x : Nat × Nat) : Option (Nat × Nat) :=
  match b with
  | none => some x
  | some y => if x.1 < y.1 || (x.1 == y.1 && decide (x.2 < y.2)) then some x else some y

/-- The attempt in progress is over: nothing is active. -/
def State.canIdle (s : State) (n : Nat) : State :=
  let s1 := match (s.canCh n).active with
    | some t => if t < 64 then s.setTx n t 23 false else s
    | none => s
  (s1.modCan n (fun c => { c with active := none, fly := none })).setF (F.CAN_STAT_TXACT n) 0

/-- FV of a slot (R220). -/
def State.fresh (s : State) (n k : Nat) : Nat :=
  (s.reg (A.CAN_FRESH_L n k)).toNat + 2 ^ 32 * (s.reg (A.CAN_FRESH_H n k)).toNat

/-- Store FV of a slot. -/
def State.setFresh (s : State) (n k v : Nat) : State :=
  (s.setReg (A.CAN_FRESH_L n k) (toW v)).setReg (A.CAN_FRESH_H n k) (toW (v / 2 ^ 32))

/-- Raise a request of an object (R205, R212, R213, R216, R220): ignored for one reserved for the FIFO. A request that is late when it
is raised takes its late policy at once; that of an object that was held is marked late and sent (R216). After a sleep commit and in
SLACK it is a local wake when TXWAKE is 1 (R231). -/
def State.canRaise (s : State) (n t : Nat) : State :=
  if s.canReserved n t ∨ 64 ≤ t then s else
  let was := s.txBit n t 16
  let held := s.txBit n t 21 && latePol (s.mget (canTx n t + 4) 4) == 2
  let s1 := (s.setCtl (canTx n t) 22 16 0).setTx n t 16 true
  let s2 := if was then s1.setTx n t 22 true else s1
  let s3 := if s2.txBit n t 8 then s2.setFresh n t (s2.fresh n t + 1) else s2
  let s4 := if !s3.canIsLate n t then s3
    else if held then ((s3.setTx n t 18 true).setTx n t 19 true).canEvt n 5 else (s3.setTx n t 19 true).canLate n t
  if s4.flag (F.TIDE_N_CFG_TXWAKE n) && !(t == 62 && s4.flag (F.TIDE_N_CFG_EN n)) then s4.tideWake n 7 none else s4

/-- Cancel the request of an object (R213). -/
def State.canCancel (s : State) (n t : Nat) : State :=
  if !s.txBit n t 16 then s
  else if (s.canCh n).active = some t then s.modCan n (fun c => { c with cancel := true })
  else ((s.setTx n t 16 false).modCan n (fun c => { c with rep := if c.rep = some t then none else c.rep })).canEndFailed n t

/-! Authentication (R220). -/

/-- The MAC of an authenticated frame: RID or TID, frame length, the bytes before the last five, FV. -/
def canMac (key : List Byte) (rid : Nat) (len : Nat) (pre : List Byte) (fv : Nat) : List Byte :=
  (Config.cmac key (leBytes 4 rid ++ leBytes 1 len ++ pre ++ leBytes 8 fv)).take 4

/-! Sending (R205, R211 to R213, R220, R231). -/

/-- The 80 bytes of an object or record being sent. -/
def State.canOut (s : State) (n t : Nat) : List Byte :=
  if t < 64 then s.mbytes (canTx n t) 80
  else match (s.canCh n).txq with
    | r :: _ => fitBytes 80 r.bytes
    | [] => []

/-- The frame sent from an object (R205, R220): TID, DLC, BRS, and the bytes. FDF = 1 leaves
no remote frame (R199). Whether an object with FDF = 1 goes out as an FD frame while FD_EN = 0 is open, a free value, as is the MAC
without a key. -/
def State.canTxFrame (s : State) (n t : Nat) : CanFrame :=
  let b := s.canOut n t
  let id := leAt b 0 4
  let rid := if ridFdf id then putBit id 30 false else id
  let c := leAt b 4 4
  let fd := ridFdf rid && (s.flag (F.CAN_CTRL_FD_EN n) || s.freeNat % 2 == 1)
  let len := min (if fd then 64 else 8) (min 64 (bits c 6 0))
  let auth := bit c 8
  let d := lenDlc fd (if auth then len + 5 else len)
  let fl := dlcLen fd d
  let data := (b.drop 16).take fl
  let pre := data.take (fl - 5)
  let fv := s.fresh n t
  let mac := match (s.canCh n).key with
    | some k => canMac k rid fl pre fv
    | none => (s.rand 4)
  { rid := BitVec.ofNat 32 (putBit (ridNorm rid) 31 fd), dlc := BitVec.ofNat 4 d,
    brs := fd && bit c 7 && s.flag (F.CAN_CTRL_BRS_EN n), esi := fd && s.f (F.CAN_STAT_STATE n) == 3,
    data := if ridRtr rid then [] else if auth && t < 64 then pre ++ leBytes 1 fv ++ mac else data, sof := 0 }

/-- New content of an object (R211): 0 DATA, 1 ID, 2 LEN, 7 TTIME as an image map numbers them; 8 bits [15:0] of TCTL and 9 TTIME
alone, as CAN_SEND and Sluice write them. -/
def State.canPart (n t : Nat) (s : State) (x : Shadow) : State :=
  let b := canTx n t
  match x.fld with
  | 0 => s.mput (b + 16 + x.off) (2 ^ (x.wid - 1)) x.val
  | 1 => s.mput b 4 (ridNorm x.val)
  | 2 => s.setCtl b 6 0 (min 64 x.val)
  | 7 | 9 => s.mput (b + 8) 4 x.val
  | 8 => s.setCtl b 15 0 x.val
  | _ => s

/-- New content is copied into its object, and its request raised when REQ came as 1 (R211, R212). -/
def State.canCopy (s : State) (n t : Nat) (xs : List Shadow) : State :=
  let s1 := xs.foldl (State.canPart n t) s
  if xs.any (fun x => x.fld == 5 && x.val % 2 == 1) then
    let s2 := match xs.find? (fun x => x.fld == 7) with
      | some x => s1.setTx n t 9 (x.val != 0)
      | none => s1
    s2.canRaise n t
  else s1

/-- A copy is taken: its content, and the CAN_SEND that waits for it. -/
def State.canTake (n : Nat) (s : State) (x : CanCopy) : State :=
  (s.modCan n (fun c => { c with reqs := c.reqs ++ x.req.toList })).canCopy n x.obj x.parts

/-- New content for an object: an active one takes it when its transmission ends (R212). -/
def State.canOffer (s : State) (n : Nat) (x : CanCopy) : State :=
  if (s.canCh n).active = some x.obj then s.modCan n (fun c => { c with copy := c.copy ++ [x] }) else State.canTake n s x

/-- The copies that waited for an object are taken (R212). -/
def State.canTakeCopy (s : State) (n t : Nat) : State :=
  ((s.canCh n).copy.filter (fun x => x.obj == t)).foldl (State.canTake n)
    (s.modCan n (fun c => { c with copy := c.copy.filter (fun x => x.obj != t) }))

/-- The parts that write a whole object and request it: TID, bits [15:0] of TCTL, TTIME, the data. -/
def canWhole (tid ctl ttime : Nat) (data : List Byte) : List Shadow :=
  let p := fun (fld off wid val : Nat) => { (default : Shadow) with fld := fld, off := off, wid := wid, val := val }
  [p 1 0 3 tid, p 8 0 2 ctl, p 9 0 3 ttime] ++ data.zipIdx.map (fun x => p 0 x.2 1 x.1.toNat) ++ [p 5 0 0 1]

/-- The next frame of ISO 15765-2 transport takes its transmit object 63 when that is free (R54, R222). -/
def State.isoFeed (s : State) (n : Nat) : State :=
  if !s.flag F.CMD_ISOTP_CFG_EN || s.f F.CMD_ISOTP_CFG_CHANNEL != n || s.txBit n 63 16 then s else
  match s.cmd.isotp.txf with
  | [] => s
  | b :: t =>
    let tid := s.f F.CMD_ISOTP_TXID_ID + 2 ^ 29 * s.f F.CMD_ISOTP_CFG_IDE + 2 ^ 31 * s.f F.CMD_ISOTP_CFG_FD
    (s.modIso (fun x => { x with txf := t })).canCopy n 63 (canWhole tid b.length 0 b)

/-- The bus is idle: a transceiver that waits for it goes to TO_LOW (R231). -/
def State.tideIdle (s : State) (n : Nat) : State :=
  if (s.tideCh n).low && s.tideCommitted n then (s.setF (F.CAN_STAT_TRX n) 3).modTide n (fun c => { c with low := false }) else s

/-- TO_LOW at the next bus idle: at once while nothing is sent (R231). -/
def State.tideLow (s : State) (n : Nat) : State :=
  if (s.canCh n).active.isSome then s.modTide n (fun c => { c with low := true }) else s.setF (F.CAN_STAT_TRX n) 3

/-- The controller, with no attempt in progress, enters arbitration with the frame of lowest identifier (R213), fixed here with its
FV and MAC (R220); with none it leaves the bus idle. -/
def State.canArb (s : State) (n : Nat) : State :=
  if (s.canCh n).active.isSome then s else
  let s := s.isoFeed n
  match (s.canRunners n).foldl arbBetter none with
  | none => s.tideIdle n
  | some (_, t) =>
    let f := s.canTxFrame n t
    let s1 := (s.useFree.modCan n (fun c => { c with active := some t, fly := some f, cancel := false })).setF (F.CAN_STAT_TXACT n) 1
    if t < 64 then s1.setTx n t 23 true else s1

/-- Raise one request and enter arbitration. -/
def State.canRequest (s : State) (n t : Nat) : State := (s.canRaise n t).canArb n

/-! The transmit FIFO (R214). -/

/-- Length of the record that begins with these bytes. -/
def recLen (b : List Byte) : Nat := 16 + cdiv (min 64 (bits (leAt b 4 4) 6 0)) 8 * 8

/-- CAN_n_TXFIFO_STAT follows the queue. -/
def State.canTxfSync (s : State) (n : Nat) : State := s.setF (F.CAN_TXFIFO_STAT_COUNT n) (s.canCh n).txq.length

/-- The FIFO without its head. -/
def State.canPop (s : State) (n : Nat) : State := (s.modCan n (fun x => { x with txq := x.txq.tail })).canTxfSync n

/-- The records at the FIFO's head that are late and not on the bus take their late policy (R214, R216). -/
def State.canHeadsLate (n : Nat) : List CanRec → State → State
  | [], s => s
  | r :: rs, s =>
    let c := leAt r.bytes 4 4
    if bit c 9 && !r.late && s.canLateAt n (leAt r.bytes 8 4) then
      let s1 := s.canEvt n 5
      if latePol c = 1 then State.canHeadsLate n rs ((s1.canPop n).canEvt n 6)
      else if latePol c = 2 then State.canHeadsLate n rs ((s1.canPop n).canEvt n 7)
      else s1.modCan n (fun x => { x with txq := ⟨r.bytes, true⟩ :: rs })
    else s

/-- Lateness at the head of the FIFO (R214, R216). -/
def State.canHeadLate (s : State) (n : Nat) : State :=
  if (s.canCh n).active = some 64 then s else State.canHeadsLate n (s.canCh n).txq s

/-- Evaluate every timed object and the head of the FIFO against the present DTIME (R214, R216, R259). -/
def State.canTimeEval (s : State) (n : Nat) : State :=
  ((forBelow 64 s (fun t s => if s.canIsLate n t && (s.canCh n).active != some t then s.canLate n t else s)).canHeadLate n).canArb n

/-- A whole record arrives (R214, R216); the second result says that it was taken. -/
def State.canEnqueue (s : State) (n : Nat) (b : List Byte) : State × Bool :=
  if s.f (F.CAN_CTRL_TXF_N n) ≤ (s.canCh n).txq.length then (s.canEvt n 8, false)
  else
    let c := leAt b 4 4
    let late := bit c 9 && s.canLateAt n (leAt b 8 4)
    let s0 := if s.flag (F.TIDE_N_CFG_TXWAKE n) then s.tideWake n 7 none else s
    let s1 := s0.when late (fun s => s.canEvt n 5)
    if late && latePol c == 1 then (s1.canEvt n 6, true)
    else if late && latePol c == 2 then (s1.canEvt n 7, true)
    else (((s1.modCan n (fun x => { x with txq := x.txq ++ [⟨b, late⟩] })).canTxfSync n).canArb n, true)

/-- Bytes arrive at the FIFO port; a record is enqueued at its last byte. -/
def State.canPort (s : State) (n : Nat) (b : List Byte) : State :=
  let p := (s.canCh n).part ++ b
  if 16 ≤ p.length ∧ recLen p ≤ p.length then
    ((s.modCan n (fun x => { x with part := p.drop (recLen p) })).canEnqueue n (p.take (recLen p))).1
  else s.modCan n (fun x => { x with part := p })

/-! Authentication of received frames (R220). -/

/-- The freshness slot of a receive object, when a binding names it (R220). -/
def State.rxSlot (s : State) (n j : Nat) : Option Nat :=
  (firstBelow 192 (fun k => let w := tblGet (s.canCh n).rxauth k; bit w 15 && w % 1024 == j)).map (64 + ·)

/-- The receiver's check of a frame for object `j` (R220): the accepted FV and its slot. -/
def State.canAuth (s : State) (n j : Nat) (f : CanFrame) : Option (Nat × Nat) :=
  match s.rxSlot n j, (s.canCh n).key with
  | some k, some key =>
    if frLen f < 5 then none else
    let fv := s.fresh n k
    let b := frBytes f
    let c0 := fv / 256 * 256 + leAt b (frLen f - 5) 1
    let c := if c0 ≤ fv then c0 + 256 else c0
    if c - fv ≤ s.f (F.CAN_AUTH_WIN n) ∧ b.drop (frLen f - 4) = canMac key (ridNorm f.rid.toNat) (frLen f) (b.take (frLen f - 5)) c
    then some (k, c % 2 ^ 64) else none
  | _, _ => none

/-! Filing (R206, R207). -/

/-- Bytes 0 to 79 of a receive object for a frame (R204): NEW and LOST as given, FCNT one more than the object's. -/
def State.canRecord (s : State) (base : Nat) (f : CanFrame) (auth : Bool) (rfv : Nat) (new lost : Bool) : State :=
  let fc := (s.ctl base 31 24 + 1) % 256
  let c := f.dlc.toNat + 16 * b2n f.brs + 32 * b2n f.esi + 64 * b2n auth + 2 ^ 8 * frLen f + 2 ^ 16 * b2n new + 2 ^ 17 * b2n lost +
           2 ^ 24 * fc
  s.mputBytes base (leBytes 4 (ridNorm f.rid.toNat) ++ leBytes 4 c ++ leBytes 4 f.sof.toNat ++
    leBytes 4 (if auth then rfv else 0) ++ fitBytes 64 (frBytes f))

/-- File a frame into object `j` (R207). -/
def State.canFile (s : State) (n j : Nat) (f : CanFrame) (auth : Bool) (rfv : Nat) : State :=
  let base := canRx n j
  let lost := s.ctl base 16 16 == 1
  let was := s.ctl base 17 17 == 1
  let s1 := s.canRecord base f auth rfv true (lost || was)
  (s1.when lost (fun s => s.canEvt n 1)).when (s.flag (F.CAN_MASK_IRQ n j)) (fun s => s.canEvt n 0)

/-- The first active filter that takes a frame (R207). -/
def State.canMatch (s : State) (n : Nat) (f : CanFrame) : Option Nat :=
  let r := f.rid.toNat
  firstBelow 1024 (fun j =>
    let q := (s.reg (A.CAN_FILT n j)).toNat
    let m := bits (s.reg (A.CAN_MASK n j)).toNat 28 0
    bit q 31 && bit q 29 == ridIde r && bit q 30 == ridRtr r && (ridId r &&& m) == (q % 2 ^ 29 &&& m))

/-- An unmatched frame (R207, R210). -/
def State.canUnfiled (s : State) (n : Nat) (f : CanFrame) : State :=
  let c := s.f (F.CAN_UNF_STAT_COUNT n)
  if s.flag (F.CAN_CTRL_UNF_EN n) && decide (c < 128) then
    ((s.canRecord (canUnf n ((s.f (F.CAN_UNF_STAT_HEAD n) + c) % 128)) f false 0 false false).setF
      (F.CAN_UNF_STAT_COUNT n) (c + 1)).canEvt n 2
  else (s.incF (F.CAN_UNF_OVR_OVR n) 1).canEvt n 3

/-! Fault confinement (R217, R219). -/

/-- The counters are frozen (R219, R231). -/
def State.canFrozen (s : State) (n : Nat) : Bool :=
  s.flag (F.TIDE_N_STAT_IGNORE n) || s.f (F.CAN_CTRL_MODE n) == 1 || s.f (F.CAN_CTRL_MODE n) == 2

/-- The state follows the counters (R217): `t0`, `r0` are TEC and REC before. -/
def State.canFault (s : State) (n t0 r0 : Nat) : State :=
  let t := s.f (F.CAN_ERR_TEC n)
  let r := s.f (F.CAN_ERR_REC n)
  let s1 := s.when (s.f (F.CAN_STAT_STATE n) == 2 && ((decide (t0 < 96) && decide (96 ≤ t)) || (decide (r0 < 96) && decide (96 ≤ r))))
    (fun s => s.canEvt n 9)
  let s2 := if s1.f (F.CAN_STAT_STATE n) = 2 ∧ (127 < t ∨ 127 < r) then (s1.setF (F.CAN_STAT_STATE n) 3).canEvt n 10
    else if s1.f (F.CAN_STAT_STATE n) = 3 ∧ t ≤ 127 ∧ r ≤ 127 then s1.setF (F.CAN_STAT_STATE n) 2 else s1
  if (s2.f (F.CAN_STAT_STATE n) = 2 ∨ s2.f (F.CAN_STAT_STATE n) = 3) ∧ 255 < t then
    ((((s2.canIdle n).setF (F.CAN_STAT_STATE n) 4).modCan n (fun c => { c with recov := false })).incF (F.CAN_ERRCNT_BUSOFF n) 1).canEvt n 11
  else s2

/-- Store REC: 128 or above reads 128 with RP = 1 (R225). -/
def State.setRec (s : State) (n r : Nat) : State :=
  (s.setF (F.CAN_ERR_REC n) (min 128 r)).setFlag (F.CAN_ERR_RP n) (decide (127 < r))

/-- A frame is received without error: REC falls as ISO 11898-1 gives; from above 127 it takes a value from 119 to 127, which
one is open, a free value. -/
def State.canRecDown (s : State) (n : Nat) : State :=
  let r := s.f (F.CAN_ERR_REC n)
  if s.canFrozen n ∨ r = 0 then s
  else if 127 < r then ((s.setRec n (119 + s.freeNat % 9)).useFree).canFault n (s.f (F.CAN_ERR_TEC n)) r
  else (s.setRec n (r - 1)).canFault n (s.f (F.CAN_ERR_TEC n)) r

/-- EN was written 0 and no frame is in progress: the channel is in INIT (R217). -/
def State.canStop (s : State) (n : Nat) : State :=
  if !s.flag (F.CAN_CTRL_EN n) && s.f (F.CAN_STAT_STATE n) != 0 && (s.canCh n).active.isNone then s.setF (F.CAN_STAT_STATE n) 0 else s

/-- An error in a frame (R217, R225): LEC, the phase counters, PROTOERR. -/
def State.canErr (s : State) (n lec : Nat) (dataPhase : Bool) : State :=
  ((s.setF (F.CAN_PERR_LEC n) lec).incF (if dataPhase then F.CAN_PERR_DERR n else F.CAN_PERR_NERR n) 1).canEvt n 13

end Sys2Proof.Machine
end

