-- ==== Sys2Proof/Machine/Tide.lean ====
section
/-! DEFINITION. The Tide manager (R226 to R239) and the filing of received frames with what Tide and Sluice make of them. -/
namespace Sys2Proof.Machine

/-! The sleep coordination frame (R227, R228). -/

/-- Send an SCF with the given flags (READY 1, KEEP 2, COMMIT 4) from object 62; only with coordination on (R239). -/
def State.scfSend (s : State) (n flags : Nat) : State :=
  if !s.flag (F.TIDE_N_CFG_EN n) then s else
  let tid := s.f (F.TIDE_N_SCFID_ID n) + 2 ^ 29 * s.f (F.TIDE_N_CFG_SCF_IDE n)
  (s.canOffer n ⟨62, canWhole tid 2 0 (leBytes 1 (s.f (F.TIDE_N_CFG_NODE n)) ++ leBytes 1 flags), none⟩).canArb n

/-- A word and length are an SCF of the channel: a classical data frame of its identifier with at least 2 bytes (R227). -/
def State.isScf (s : State) (n rid len : Nat) : Bool :=
  s.flag (F.TIDE_N_CFG_EN n) && !ridFdf rid && !ridRtr rid && ridIde rid == s.flag (F.TIDE_N_CFG_SCF_IDE n) &&
  ridId rid == (if ridIde rid then s.f (F.TIDE_N_SCFID_ID n) else s.f (F.TIDE_N_SCFID_ID n) % 2 ^ 11) && decide (2 ≤ len)

/-! Quorum (R229). -/

/-- The time window of R229 in ns. -/
def State.scfWin (s : State) (n : Nat) : Nat := 3 * s.f (F.TIDE_N_CFG_SCF_MS n) * 1000000

/-- ready(m). -/
def State.scfReady (s : State) (n m : Nat) : Bool :=
  match tblFind (s.tideCh n).scf m with
  | some (t, r) => r && decide (s.now ≤ t + s.scfWin n)
  | none => false

/-- keep. -/
def State.scfKeep (s : State) (n : Nat) : Bool :=
  match (s.tideCh n).keepAt with | some t => decide (s.now ≤ t + s.scfWin n) | none => false

/-- quiet. -/
def State.tideQuiet (s : State) (n : Nat) : Bool :=
  match (s.tideCh n).busyAt with
  | some t => decide (t + s.f (F.TIDE_N_TIME_QUIET_MS n) * 1000000 ≤ s.now)
  | none => true

/-- Node `m` is a member: in MEMB and not the device itself. -/
def State.tideMember (s : State) (n m : Nat) : Bool :=
  m != s.f (F.TIDE_N_CFG_NODE n) && decide (m < 64) &&
  (if m < 32 then s.fbit (F.TIDE_N_MEMB_L_MEMB n) m else s.fbit (F.TIDE_N_MEMB_H_MEMB n) (m - 32))

/-- nready. -/
def State.tideNready (s : State) (n : Nat) : Nat := countBelow 64 (fun m => s.tideMember n m && s.scfReady n m)

/-- The quorum of R229 without its quiet term. -/
def State.quorumBut (s : State) (n : Nat) : Bool :=
  s.flag (F.TIDE_N_STAT_LREADY n) && !s.scfKeep n && decide (s.f (F.TIDE_N_CFG_QUORUM n) ≤ s.tideNready n) &&
  (s.f (F.CAN_STAT_STATE n) == 2 || s.f (F.CAN_STAT_STATE n) == 3)

/-- Leave EBB for AWAKE by a decision of R230. -/
def State.tideBack (s : State) (n : Nat) : State :=
  ((((s.setQpend n false).setF (F.TIDE_N_STAT_COMMITTED n) 0).setF (F.TIDE_N_STAT_QUORUM n) 0).setTide n 0).canArb n

/-- The ready masks as a word. -/
def State.readyMask (s : State) (n o : Nat) : Nat := (List.range 32).foldl (fun x m => x + b2n (s.scfReady n (o + m)) * 2 ^ m) 0

/-- Evaluate the quorum and act on its change (R229, R230). -/
def State.tideEval (s : State) (n : Nat) : State :=
  if !s.flag (F.TIDE_N_CFG_EN n) then s else
  let keep := s.scfKeep n
  let q := s.quorumBut n && s.tideQuiet n
  let kept := s.flag (F.TIDE_N_STAT_KEEP n)
  let s1 := (((s.setFlag (F.TIDE_N_STAT_KEEP n) keep).setF (F.TIDE_N_STAT_NREADY n) (s.tideNready n)).setF
    (F.TIDE_N_READY_L_READY n) (s.readyMask n 0)).setF (F.TIDE_N_READY_H_READY n) (s.readyMask n 32)
  let s2 := s1.setFlag (F.TIDE_N_STAT_QUORUM n) q
  if s2.tideState n = 1 ∧ !s2.flag (F.TIDE_N_STAT_COMMITTED n) then
    let p := s2.fbit F.TIDE_QPEND_QPEND n
    let s3 := if p && !q then s2.setQpend n false else s2
    if keep && !kept then (s3.tideBack n).raise 482
    else if q && !p then s3.setQpend n true else s3
  else s2

/-- The sleep commit (R230): QPEND cleared, SCF with READY and COMMIT, the drain starts. -/
def State.tideCommit (s : State) (n : Nat) : State :=
  ((s.setQpend n false).setF (F.TIDE_N_STAT_COMMITTED n) 1).scfSend n 5

/-- A filed SCF (R229, R230). -/
def State.scfReceived (s : State) (n : Nat) (b : List Byte) : State :=
  let m := leAt b 0 1
  let fl := leAt b 1 1
  let s1 := s.modTide n (fun c => { c with scf := if m < 64 then tblSet c.scf m (s.now, bit fl 0 && !bit fl 1) else c.scf,
                                           keepAt := if bit fl 1 then some s.now else c.keepAt })
  let s2 := s1.tideEval n
  if bit fl 2 && s2.tideMember n m then
    if s2.tideState n = 0 ∧ !s2.flag (F.TIDE_N_STAT_LREADY n) then s2.scfSend n 2
    else if s2.tideState n = 1 ∧ !s2.flag (F.TIDE_N_STAT_COMMITTED n) ∧ s2.quorumBut n then s2.tideCommit n
    else s2
  else s2

/-! Sluice's input queue (R240). -/

/-- SLUICE_INQ follows the queue. -/
def State.inqSync (s : State) : State :=
  let n := s.can.inq.length
  let s1 := s.setF F.SLUICE_INQ_COUNT n
  if s1.f F.SLUICE_INQ_PEAK < n then s1.setF F.SLUICE_INQ_PEAK n else s1

/-- A frame enters the input queue, or is dropped when it holds 64. -/
def State.sluiceIn (s : State) (src origin : Nat) (f : CanFrame) : State :=
  if !s.flag F.SLUICE_CTRL_EN then s
  else if 64 ≤ s.can.inq.length then (s.incF (F.SLUICE_DROP_OTHER src) 1).raise 498
  else ({ s with can := { s.can with inq := s.can.inq ++ [SlFrame.mk src origin f] } }).inqSync

/-! Filing with all that follows it (R207, R209, R229, R232, R240). -/

/-- A frame is filed into object `j`: Tide evaluates an SCF in object 1,022 and marks the time of any other frame (R227, R229), and
Sluice queues it, in order of filing (R240). -/
def State.canFileAll (s : State) (n j : Nat) (f : CanFrame) (auth : Bool) (rfv : Nat) : State :=
  let s1 := s.canFile n j f auth rfv
  let s2 := if s.isScf n f.rid.toNat (frLen f)
    then (if j = 1022 then s1.scfReceived n (frBytes f) else s1.tideEval n)
    else (s1.modTide n (fun c => { c with busyAt := some s.now })).tideEval n
  s2.sluiceIn n 0 f

/-- The object is held for a harvest (R209). -/
def State.canHeldObj (s : State) (n j : Nat) : Bool := (s.canCh n).held.any (fun x => x.2 == j)

/-- A frame for a held object enters the hold buffer of 4 (R209): a fifth files the oldest at once, and the Rake then reads that
object as it stands. -/
def State.canHold (s : State) (n : Nat) (h : CanHold) : State :=
  match (s.canCh n).hold with
  | o :: rest =>
    if 3 ≤ rest.length then
      (((s.modCan n (fun c => { c with hold := rest ++ [h], spilt := o.obj :: c.spilt.filter (· != o.obj) })).canFileAll n o.obj o.frame
        o.auth o.rfv).setF (F.CAN_STAT_HOLDOVF n) 1).canEvt n 17
    else s.modCan n (fun c => { c with hold := c.hold ++ [h] })
  | [] => s.modCan n (fun c => { c with hold := [h] })

/-- The acceptance of R207 on a received frame: filed, or kept for its held object. Sluice sees the unfiled ones too (R207, R240). -/
def State.canAccept (s : State) (n : Nat) (f : CanFrame) : State :=
  match s.canMatch n f with
  | none =>
    let s1 := s.canUnfiled n f
    let kept := s.flag (F.CAN_CTRL_UNF_EN n) && decide (s.f (F.CAN_UNF_STAT_COUNT n) < 128)
    ((s1.when (kept && !s.isScf n f.rid.toNat (frLen f)) (fun s => s.modTide n (fun c => { c with busyAt := some s.now }))).tideEval n).sluiceIn n 0 f
  | some j =>
    let put := fun (s : State) (a : Bool) (v : Nat) =>
      if s.canHeldObj n j then s.canHold n ⟨j, f, a, v⟩ else s.canFileAll n j f a v
    if s.flag (F.CAN_MASK_AUTH n j) then
      match s.canAuth n j f with
      | none => (((s.incF (F.CAN_AUTHCNT_FAIL n) 1).canEvt n 16).tideEval n).sluiceIn n 0 f
      | some (k, c) => put (s.setFresh n k c) true (c % 2 ^ 32)
    else put s false 0

/-- File the held frames of the objects that nothing holds any longer, in their order (R209). -/
def State.canUnhold (s : State) (n : Nat) : State :=
  let free := fun (h : CanHold) => !(s.canHeldObj n h.obj)
  let go := (s.canCh n).hold.filter free
  go.foldl (fun s h => s.canFileAll n h.obj h.frame h.auth h.rfv)
    (s.modCan n (fun c => { c with hold := c.hold.filter (fun h => !free h), spilt := c.spilt.filter (fun j => s.canHeldObj n j) }))

/-- A harvester (0, 1 for the Pans, 2 + t for trigger group t) holds its objects no longer (R209). -/
def State.canLet (s : State) (n who : Nat) : State :=
  (s.modCan n (fun c => { c with held := c.held.filter (fun x => x.1 != who) })).canUnhold n

/-- A harvester marks its objects at its latch instant (R209). -/
def State.canMark (s : State) (n who : Nat) (objs : List Nat) : State :=
  s.modCan n (fun c => { c with held := c.held.filter (fun x => x.1 != who) ++ objs.map (fun j => (who, j)) })

/-- A valid frame is received (R207): it is filed, and after the sleep commit it is a wake unless it is an SCF with READY or COMMIT and
without KEEP (R232). -/
def State.canFiled (s : State) (n : Nat) (f : CanFrame) : State :=
  let fl := leAt (frBytes f) 1 1
  let quiet := s.isScf n f.rid.toNat (frLen f) && (bit fl 0 || bit fl 2) && !bit fl 1
  let s1 := s.canAccept n f
  if s1.tideCommitted n && s.tideCommitted n && !quiet then s1.tideWake n 5 none else s1

/-- Enter AWAKE from FLOOD (R233). -/
def State.tideAwake (s : State) (n : Nat) : State :=
  let c := s.tideCh n
  let s1 := ((s.setF (F.TIDE_N_STAT_IGNORE n) 0).setF (F.TIDE_N_STAT_COMMITTED n) 0).setTide n 0
  let s2 := match c.capt with | some f => s1.canFiled n f | none => s1
  let s3 := s2.modTide n (fun c => { c with capt := none, loc := false })
  (if c.loc then s3.scfSend n 2 else s3).canArb n

/-! TIDE_n_CMD (R230). -/

/-- SLEEP: with coordination on, AWAKE becomes EBB and the first SCF goes out. -/
def State.tideSleep (s : State) (n : Nat) : State :=
  if s.tideState n = 0 ∧ s.flag (F.TIDE_N_CFG_EN n) then
    ((((s.setF (F.TIDE_N_STAT_LREADY n) 1).setF (F.TIDE_N_STAT_COMMITTED n) 0).setTide n 1).scfSend n 1).tideEval n
  else s

/-- STAY. -/
def State.tideStay (s : State) (n : Nat) : State :=
  if s.tideState n = 1 ∧ !s.flag (F.TIDE_N_STAT_COMMITTED n) then
    ((s.setF (F.TIDE_N_STAT_LREADY n) 0).tideBack n).scfSend n 2
  else s

/-- COMMIT answers a quorum. -/
def State.tideAnswer (s : State) (n : Nat) : State :=
  if s.tideState n = 1 ∧ s.fbit F.TIDE_QPEND_QPEND n then s.tideCommit n else s

/-- VETO answers a quorum. -/
def State.tideVeto (s : State) (n : Nat) : State :=
  if s.tideState n = 1 ∧ s.fbit F.TIDE_QPEND_QPEND n then (s.tideBack n).scfSend n 2 else s

/-- WAKE: a local wake in every state but AWAKE. -/
def State.tideWakeCmd (s : State) (n : Nat) : State :=
  if s.tideState n = 0 then s
  else if s.tideState n = 2 ∨ s.tideCommitted n then s.tideWake n 6 none
  else if s.tideState n = 3 then (s.tideRecord n 6 (s.flag (F.TIDE_N_WREC_LATCHED n)) (s.tideCh n).capt.isSome).modTide n (fun c => { c with loc := true })
  else ((((s.setQpend n false).setF (F.TIDE_N_STAT_QUORUM n) 0).tideRecord n 6 false false).modTide n
    (fun c => { c with loc := true, capt := none })).setTide n 3

/-- FORCE_SLEEP: EBB at once committed, the transceiver to TO_LOW at bus idle (R231). -/
def State.tideForce (s : State) (n : Nat) : State :=
  if s.tideState n = 0 then ((s.setF (F.TIDE_N_STAT_COMMITTED n) 1).setTide n 1).tideLow n else s

/-- A write of TIDE_n_CMD: bits written together act in the order of their numbers. -/
def State.tideCmd (s : State) (n w : Nat) : State :=
  let s1 := s.when (bit w 0) (fun s => s.tideSleep n)
  let s2 := s1.when (bit w 1) (fun s => s.tideStay n)
  let s3 := s2.when (bit w 2) (fun s => s.tideAnswer n)
  let s4 := s3.when (bit w 3) (fun s => s.tideVeto n)
  let s5 := s4.when (bit w 4) (fun s => s.tideWakeCmd n)
  s5.when (bit w 5) (fun s => s.tideForce n)

/-- A TIDE_n_CMD write with one bit. -/
def tideRow (who : Who) (n k : Nat) (s : State) : State := s.regDo who (A.TIDE_N_CMD n) (fun s => s.tideCmd n (2 ^ k))

/-- TIDE_SLEEP (R230). -/
def execTideSleep (who : Who) (n : Fin 16) (s : State) : Host.Outcome State Fault Refusal := .next (tideRow who n 0 s)

/-- TIDE_STAY (R230). -/
def execTideStay (who : Who) (n : Fin 16) (s : State) : Host.Outcome State Fault Refusal := .next (tideRow who n 1 s)

/-- TIDE_COMMIT (R230). -/
def execTideCommit (who : Who) (n : Fin 16) (s : State) : Host.Outcome State Fault Refusal := .next (tideRow who n 2 s)

/-- TIDE_VETO (R230). -/
def execTideVeto (who : Who) (n : Fin 16) (s : State) : Host.Outcome State Fault Refusal := .next (tideRow who n 3 s)

/-- TIDE_WAKE (R230). -/
def execTideWake (who : Who) (n : Fin 16) (s : State) : Host.Outcome State Fault Refusal := .next (tideRow who n 4 s)

/-- TIDE_FORCE_SLEEP (R230). -/
def execTideForceSleep (who : Who) (n : Fin 16) (s : State) : Host.Outcome State Fault Refusal := .next (tideRow who n 5 s)

/-- The filter of receive object 1,022 follows the SCF identifier, with a full mask (R227). -/
def State.scfFilter (s : State) (n : Nat) : State :=
  let id := s.f (F.TIDE_N_SCFID_ID n)
  let ide := s.f (F.TIDE_N_CFG_SCF_IDE n)
  (s.setReg (A.CAN_FILT n 1022) (toW ((if ide = 1 then id else id % 2 ^ 11) + 2 ^ 29 * ide + 2 ^ 31))).setF (F.CAN_MASK_MASK n 1022)
    0x1FFFFFFF

/-- A write of TIDE_n_SCFID (R227). -/
def State.scfIdWrite (s : State) (n : Nat) (w : Word) : State :=
  let s1 := match regAt (A.TIDE_N_SCFID n) with
    | some r => s.plainWrite r (A.TIDE_N_SCFID n) w
    | none => s
  s1.when (s1.flag (F.TIDE_N_CFG_EN n)) (fun s => s.scfFilter n)

/-- TIDE_n_CFG.EN written 1 (R227): objects 62 and 1,022 must be the Steward's and 62 not reserved for the FIFO; the filter of
object 1,022 is programmed. -/
def State.tideOn (s : State) (n : Nat) : State :=
  let t := resId 8 (64 * n + 62)
  let r := resId 9 (1024 * n + 1022)
  if s.owner t ≠ 0 ∨ s.canReserved n 62 then (s.setF (F.TIDE_N_CFG_EN n) 0).conflict t 0 0
  else if s.owner r ≠ 0 then (s.setF (F.TIDE_N_CFG_EN n) 0).conflict r 0 0
  else (s.scfFilter n).setF (F.TIDE_N_CFG_EN n) 1

/-- A write of TIDE_n_CFG (R239, R248). -/
def State.tideCfg (s : State) (n : Nat) (w : Word) : State :=
  let was := s.flag (F.TIDE_N_CFG_EN n)
  let s1 := match regAt (A.TIDE_N_CFG n) with
    | some r => (s.plainWrite r (A.TIDE_N_CFG n) w).setFlag (F.TIDE_N_CFG_EN n) was
    | none => s
  if bit w.toNat 0 then (if was then s1.scfFilter n else s1.tideOn n)
  else
    let s2 := s1.setF (F.TIDE_N_CFG_EN n) 0
    if s2.tideState n == 1 then
      ((s2.setF (F.TIDE_N_STAT_IGNORE n) 0).setF (F.CAN_STAT_TRX n) 1).tideBack n
    else s2

/-- TIDE_CFG_WRITE (R227, R239). -/
def execTideCfgWrite (who : Who) (n : Fin 16) (value : Word) (s : State) : Host.Outcome State Fault Refusal :=
  .next (s.regDo who (A.TIDE_N_CFG n) (fun s => s.tideCfg n value))

/-- TIDE_QUORUM_TICK (R229): every channel is evaluated. -/
def execTideQuorumTick (s : State) : Host.Outcome State Fault Refusal := .next (forBelow 16 s (fun n s => s.tideEval n))

/-- SCF_SEND_PERIOD (R228): in EBB and not committed. -/
def execScfSendPeriod (n : Fin 16) (s : State) : Host.Outcome State Fault Refusal :=
  .next (if s.tideState n = 1 ∧ !s.flag (F.TIDE_N_STAT_COMMITTED n) then s.scfSend n 1 else s)

/-- TIDE_FAILSAFE_EXPIRY (R234). -/
def execTideFailsafeExpiry (n : Fin 16) (s : State) : Host.Outcome State Fault Refusal :=
  .next (if s.tideState n = 1 ∧ s.fbit F.TIDE_QPEND_QPEND n ∧ s.flag F.TIDE_CTRL_FSAFE then (s.tideCommit n).raise 481 else s)

/-- TIDE_DRAIN_EXPIRY (R230): the transceiver goes to TO_LOW at bus idle (R231). -/
def execTideDrainExpiry (n : Fin 16) (s : State) : Host.Outcome State Fault Refusal :=
  .next (if s.tideCommitted n then s.tideLow n else s)

/-- TO_LOW_COMPLETE (R231): SLACK, the controller ignores, the transceiver in STANDBY or SELECTIVE, whose error counter starts
at 0 (R236). -/
def execToLowComplete (n : Fin 16) (s : State) : Host.Outcome State Fault Refusal :=
  .next (if s.tideCommitted n ∧ s.f (F.CAN_STAT_TRX n) = 3 then
      let sel := s.flag (F.TIDE_N_CFG_LPMODE n)
      let s1 := ((s.canIdle n).setF (F.TIDE_N_STAT_IGNORE n) 1).setF (F.CAN_STAT_TRX n) (if sel then 2 else 0)
      (if sel then s1.setF (F.TIDE_N_WUF_CTL_FEC n) 0 else s1).setTide n 2
    else s)

/-- LATE_WAKE (R232): a dominant level during the entry. -/
def execLateWake (n : Fin 16) (s : State) : Host.Outcome State Fault Refusal :=
  .next (if s.tideCommitted n then s.tideWake n 5 none else s)

/-- A bus wake of a channel asleep; while the CAN island is in reset it is held (R238). It
wakes a device that parks (R235, R436); an excluded channel's receiver is off then (R434). -/
def State.busWake (s : State) (n src : Nat) (capt : Option CanFrame) : State :=
  if s.pwr.park != .run && s.fbit F.SYSCTL_PARK_CANIGN_CH n then s
  else if s.islandUp 6 then ((if s.tideState n = 2 then s.tideWake n src capt else s).parkWake 4 n)
  else (s.modTide n (fun c => { c with wake := some (c.wake.getD src), capt := capt })).parkWake 4 n

/-- WUP_PATTERN (R235): STANDBY with WAKEMODE 0. -/
def execWupPattern (n : Fin 16) (s : State) : Host.Outcome State Fault Refusal :=
  .next (if s.f (F.CAN_STAT_TRX n) = 0 ∧ !s.flag (F.TIDE_N_CFG_WAKEMODE n) then s.busWake n 1 none else s)

/-- DOMINANT_WAKE (R235): STANDBY with WAKEMODE 1. -/
def execDominantWake (n : Fin 16) (s : State) : Host.Outcome State Fault Refusal :=
  .next (if s.f (F.CAN_STAT_TRX n) = 0 ∧ s.flag (F.TIDE_N_CFG_WAKEMODE n) then s.busWake n 2 none else s)

/-- The match rule of R236. -/
def State.wufMatch (s : State) (n : Nat) (f : CanFrame) : Bool :=
  let r := f.rid.toNat
  let m := s.f (F.TIDE_N_WUF_MASK_MASK n)
  let idok := !ridFdf r && !ridRtr r && ridIde r == s.flag (F.TIDE_N_WUF_ID_IDE n) && (ridId r &&& m) == (s.f (F.TIDE_N_WUF_ID_ID n) &&& m)
  let dm := (s.reg (A.TIDE_N_WUF_DMASK_L n)).toNat + 2 ^ 32 * (s.reg (A.TIDE_N_WUF_DMASK_H n)).toNat
  let d := leVal (fitBytes 8 (frBytes f))
  if s.flag (F.TIDE_N_WUF_CTL_DATAEN n) then
    idok && f.dlc.toNat == s.f (F.TIDE_N_WUF_CTL_DLC n) && decide (0 < f.dlc.toNat) && (d &&& dm) != 0
  else idok

/-- WAKE_UP_FRAME (R236): a decoded frame that matches wakes the channel and is captured. -/
def execWakeUpFrame (n : Fin 16) (f : CanFrame) (s : State) : Host.Outcome State Fault Refusal :=
  .next (if s.f (F.CAN_STAT_TRX n) = 2 ∧ s.wufMatch n f then s.busWake n 3 (some (s.stamped f)) else s)

/-- FEC_OVERFLOW_WAKE (R236): the frame error counter is above 31. -/
def execFecOverflowWake (n : Fin 16) (s : State) : Host.Outcome State Fault Refusal :=
  .next (if s.f (F.CAN_STAT_TRX n) = 2 ∧ 31 < s.f (F.TIDE_N_WUF_CTL_FEC n) ∧ s.tideState n = 2 then (s.busWake n 4 none).raise 485 else s)

/-- WUF_FRAME_DECODED (R236): the counter moves with a classical frame decoded in SELECTIVE. -/
def execWufFrameDecoded (n : Fin 16) (fd ok : Bool) (s : State) : Host.Outcome State Fault Refusal :=
  .next (if s.f (F.CAN_STAT_TRX n) ≠ 2 ∨ fd then s else
    (if ok then s.decF (F.TIDE_N_WUF_CTL_FEC n) else s.incF (F.TIDE_N_WUF_CTL_FEC n) 1).modTide n (fun c => { c with biasOff := false }))

/-- BUS_SILENCE (R226, R236): tSIL without activity. -/
def execBusSilence (n : Fin 16) (s : State) : Host.Outcome State Fault Refusal :=
  .next (if s.f (F.CAN_STAT_TRX n) = 0 ∨ s.f (F.CAN_STAT_TRX n) = 2 then
      (s.setF (F.TIDE_N_WUF_CTL_FEC n) 0).modTide n (fun c => { c with biasOff := true })
    else s)

/-- FLOOD_DONE (R230, R233): transceiver NORMAL and controller integrated, or in INIT. -/
def execFloodDone (n : Fin 16) (s : State) : Host.Outcome State Fault Refusal :=
  .next (if s.tideState n = 3 then (s.setF (F.CAN_STAT_TRX n) 1).tideAwake n else s)

/-- FLOOD_FAIL (R230): the controller continues under R217, with the transceiver in normal mode, where it is long before tFLMAX (R245,
DEDUCED, log 160). -/
def execFloodFail (n : Fin 16) (s : State) : Host.Outcome State Fault Refusal :=
  .next (if s.tideState n = 3 then ((s.setF (F.CAN_STAT_TRX n) 1).tideAwake n).raise 484 else s)

end Sys2Proof.Machine
end

