-- ==== Sys2Proof/Machine/Can.lean ====
section
/-! DEFINITION. The CAN FD controllers (R199 to R225): control, filing, transmission, fault confinement, register writes. -/
namespace Sys2Proof.Machine

/-! Timing and control (R201, R215, R217). -/

/-- Time quanta of a nominal and of a data bit. -/
def State.nbtTq (s : State) (n : Nat) : Nat := 3 + s.f (F.CAN_NBT_NTSEG1 n) + s.f (F.CAN_NBT_NTSEG2 n)
def State.dbtTq (s : State) (n : Nat) : Nat := 3 + s.f (F.CAN_DBT_DTSEG1 n) + s.f (F.CAN_DBT_DTSEG2 n)

/-- Kernel clocks of a nominal and of a data bit. -/
def State.nbtClk (s : State) (n : Nat) : Nat := (s.f (F.CAN_NBT_NBRP n) + 1) * s.nbtTq n
def State.dbtClk (s : State) (n : Nat) : Nat := (s.f (F.CAN_DBT_DBRP n) + 1) * s.dbtTq n

/-- The checks of R201; the data-phase registers count only with FD_EN and BRS_EN. -/
def State.canTimingOk (s : State) (n : Nat) : Bool :=
  decide (s.f (F.CAN_NBT_NSJW n) ≤ s.f (F.CAN_NBT_NTSEG2 n)) && decide (s.f (F.CAN_NBT_NSJW n) ≤ s.f (F.CAN_NBT_NTSEG1 n)) &&
  decide (80 ≤ s.nbtClk n) &&
  (!(s.flag (F.CAN_CTRL_FD_EN n) && s.flag (F.CAN_CTRL_BRS_EN n)) ||
   (decide (s.f (F.CAN_DBT_DSJW n) ≤ s.f (F.CAN_DBT_DTSEG2 n)) && decide (s.f (F.CAN_DBT_DSJW n) ≤ s.f (F.CAN_DBT_DTSEG1 n)) &&
    decide (10 ≤ s.dbtClk n) && decide (s.dbtClk n ≤ s.nbtClk n) &&
    (!s.flag (F.CAN_TDC_TDCE n) || decide (s.f (F.CAN_DBT_DBRP n) + 1 ≤ 2))))

/-- EN written 1 (R217). -/
def State.canOn (s : State) (n : Nat) : State :=
  if s.f (F.CAN_STAT_STATE n) ≠ 0 then s.setF (F.CAN_CTRL_EN n) 1
  else if s.canTimingOk n then ((s.setF (F.CAN_CTRL_EN n) 1).setF (F.CAN_STAT_CFGERR n) 0).setF (F.CAN_STAT_STATE n) 1
  else (s.setF (F.CAN_STAT_CFGERR n) 1).canEvt n 18

/-- EN written 0 (R217): INIT once the frame in progress has ended, at once in BUSOFF. -/
def State.canOff (s : State) (n : Nat) : State := (s.setF (F.CAN_CTRL_EN n) 0).canStop n

/-- The resource that stands against reserving `v` objects for the FIFO (R215), when one does. -/
def State.txfBlock (s : State) (n v : Nat) : Option Nat :=
  let id := fun t => resId 8 (64 * n + t)
  match firstBelow 64 (fun t => decide (64 - v ≤ t) && s.owner (id t) != 0) with
  | some t => some (id t)
  | none =>
    if 2 ≤ v ∧ s.flag (F.TIDE_N_CFG_EN n) then some (id 62)
    else if 1 ≤ v ∧ s.flag F.CMD_ISOTP_CFG_EN ∧ s.f F.CMD_ISOTP_CFG_CHANNEL = n then some (id 63) else none

/-- A write of TXF_N (R215). -/
def State.canTxfN (s : State) (n v0 : Nat) : State :=
  let v := min 32 v0
  match s.txfBlock n v with
  | some id => (s.setF (F.CAN_STAT_TXFERR n) 1).conflict id 0 0
  | none =>
    if v < s.f (F.CAN_CTRL_TXF_N n) ∧ s.f (F.CAN_TXFIFO_STAT_COUNT n) ≠ 0 then s.setF (F.CAN_STAT_TXFERR n) 1
    else (s.setF (F.CAN_CTRL_TXF_N n) v).setF (F.CAN_STAT_TXFERR n) 0

/-- RECOVER written 1: recovery counting starts when ABO = 0 (R217). -/
def State.canRecover (s : State) (n : Nat) : State :=
  if s.f (F.CAN_STAT_STATE n) = 4 ∧ !s.flag (F.CAN_CTRL_ABO n) then s.modCan n (fun c => { c with recov := true }) else s

/-- A write of CAN_n_CTRL: plain fields, MODE in INIT only, TXF_N, RECOVER, then EN. -/
def State.canCtrl (s : State) (n w : Nat) : State :=
  let s0 := if s.f (F.CAN_STAT_STATE n) = 0 then s.setF (F.CAN_CTRL_MODE n) (bits w 2 1) else s
  let s1 := (((((s0.setF (F.CAN_CTRL_LBEXT n) (bits w 3 3)).setF (F.CAN_CTRL_FD_EN n) (bits w 4 4)).setF (F.CAN_CTRL_BRS_EN n)
    (bits w 5 5)).setF (F.CAN_CTRL_PXHD n) (bits w 6 6)).setF (F.CAN_CTRL_ABO n) (bits w 7 7)).setF (F.CAN_CTRL_UNF_EN n) (bits w 9 9)
  let s2 := (s1.setF (F.CAN_CTRL_RXAB n) (bits w 16 16)).canTxfN n (bits w 15 10)
  let s3 := s2.when (bit w 8) (fun s => s.canRecover n)
  if bit w 0 then s3.canOn n else s3.canOff n

/-- CAN_ENABLE (R217): CAN_n_CTRL written with EN = 1. -/
def execCanEnable (who : Who) (n : Fin 16) (value : Word) (s : State) : Host.Outcome State Fault Refusal :=
  .next (s.regDo who (A.CAN_CTRL n) (fun s => s.canCtrl n (putBits value.toNat 0 0 1)))

/-- CAN_DISABLE (R217): CAN_n_CTRL written with EN = 0. -/
def execCanDisable (who : Who) (n : Fin 16) (value : Word) (s : State) : Host.Outcome State Fault Refusal :=
  .next (s.regDo who (A.CAN_CTRL n) (fun s => s.canCtrl n (putBits value.toNat 0 0 0)))

/-- CAN_RECOVER (R217): CAN_n_CTRL written with RECOVER = 1. -/
def execCanRecover (who : Who) (n : Fin 16) (value : Word) (s : State) : Host.Outcome State Fault Refusal :=
  .next (s.regDo who (A.CAN_CTRL n) (fun s => s.canCtrl n (putBits value.toNat 8 8 1)))

/-- CAN_TXF_N_WRITE (R215): CAN_n_CTRL written with a TXF_N. -/
def execCanTxfNWrite (who : Who) (n : Fin 16) (value : Word) (s : State) : Host.Outcome State Fault Refusal :=
  .next (s.regDo who (A.CAN_CTRL n) (fun s => s.canCtrl n value.toNat))

/-- A write of CAN_n_AUTH (R220, R381): EN written 1 loads the key over the key bus. -/
def State.canAuthWrite (s : State) (n w : Nat) : State :=
  let s1 := (s.setF (F.CAN_AUTH_KSLOT n) (bits w 7 2)).setF (F.CAN_AUTH_WIN n) (max 1 (bits w 15 8))
  if bit w 0 then
    match s1.busKey (bits w 7 2) 8 with
    | some k => ((s1.modCan n (fun c => { c with key := some k })).setF (F.CAN_AUTH_EN n) 1).setF (F.CAN_AUTH_KERR n) 0
    | none => ((s1.modCan n (fun c => { c with key := none })).setF (F.CAN_AUTH_EN n) 0).setF (F.CAN_AUTH_KERR n) 1
  else (s1.modCan n (fun c => { c with key := none })).setF (F.CAN_AUTH_EN n) 0

/-- CAN_AUTH_ENABLE (R220). -/
def execCanAuthEnable (who : Who) (n : Fin 16) (value : Word) (s : State) : Host.Outcome State Fault Refusal :=
  .next (s.regDo who (A.CAN_AUTH n) (fun s => s.canAuthWrite n value.toNat))

/-! Ports and request registers (R210, R213, R214, R222). -/

/-- What a register write by an initiator came to. -/
inductive WrRes where
  | ok
  | conflict (id : Nat)
  | state (mode : Nat)
  | bad
  deriving DecidableEq, Repr

/-- The objects of a request mask. -/
def maskObjs (high : Bool) (w : Nat) : List Nat := ((List.range 32).filter (fun i => bit w i)).map (fun i => if high then 32 + i else i)

/-- A write of a request register: refused as a whole when one of its objects is not the Steward's (R222). -/
def State.canMask (s : State) (n : Nat) (high : Bool) (w : Nat) (g : Nat → State → State) : State × WrRes :=
  let ts := maskObjs high w
  match ts.find? (fun t => s.owner (resId 8 (64 * n + t)) != 0) with
  | some t => (s, .conflict (resId 8 (64 * n + t)))
  | none => (ts.foldl (fun s t => g t s) s, .ok)

/-- Raise requests (R213): all of one write before the controller enters arbitration. -/
def State.canSet (s : State) (n : Nat) (high : Bool) (w : Nat) : State × WrRes :=
  match s.canMask n high w (fun t s => s.canRaise n t) with
  | (s1, .ok) => (s1.canArb n, .ok)
  | r => r

/-- Cancel requests (R213). -/
def State.canClr (s : State) (n : Nat) (high : Bool) (w : Nat) : State × WrRes := s.canMask n high w (fun t s => s.canCancel n t)

/-- Bytes to the transmit FIFO port (R214). -/
def State.canFifo (s : State) (n : Nat) (b : List Byte) : State × WrRes :=
  if s.owner (resId 10 n) ≠ 0 then (s, .conflict (resId 10 n)) else (s.canPort n b, .ok)

/-- Release the oldest unfiled entry (R210). -/
def State.canUnfRel (s : State) (n : Nat) : State :=
  let c := s.f (F.CAN_UNF_STAT_COUNT n)
  if c = 0 then s else
  (s.setF (F.CAN_UNF_STAT_COUNT n) (c - 1)).setF (F.CAN_UNF_STAT_HEAD n) ((s.f (F.CAN_UNF_STAT_HEAD n) + 1) % 128)

/-- FRESH_s_H written: the value takes effect with the last FRESH_s_L written (R225). -/
def State.canFreshH (s : State) (n k : Nat) (w : Word) : State :=
  let s1 := match tblFind (s.canCh n).freshL k with
    | some l => s.setReg (A.CAN_FRESH_L n k) (toW l)
    | none => s
  (s1.setReg (A.CAN_FRESH_H n k) w).modCan n (fun c => { c with freshL := tblErase c.freshL k })

/-- Clear NEW (bit 16) or LOST (bit 17) of objects 32w + i (R208). -/
def State.canRxClear (s : State) (n k w m : Nat) : State :=
  forBelow 32 s (fun i s => if bit m i then s.setCtl (canRx n (32 * w + i)) k k 0 else s)

/-- A register write that a block refused reaches its initiator (R115, R222, R481). -/
def State.wrRes (who : Who) (x : State × WrRes) : State :=
  match x.2 with
  | .ok | .state _ => x.1
  | .conflict id => (x.1.conflict id (whoOwner who) 1).busErr who
  | .bad => x.1.busErr who

/-- CAN_TXREQ_SET (R213). -/
def execCanTxreqSet (who : Who) (n : Fin 16) (high : Bool) (value : Word) (s : State) : Host.Outcome State Fault Refusal :=
  .next (s.regDo who (A.CAN_TXREQ_SET_L n) (fun s => State.wrRes who (s.canSet n high value.toNat)))

/-- CAN_TXREQ_CLR (R213). -/
def execCanTxreqClr (who : Who) (n : Fin 16) (high : Bool) (value : Word) (s : State) : Host.Outcome State Fault Refusal :=
  .next (s.regDo who (A.CAN_TXREQ_CLR_L n) (fun s => State.wrRes who (s.canClr n high value.toNat)))

/-- CAN_TXFIFO_WRITE (R214): a 32-bit write, or a 64-bit DMA beat. -/
def execCanTxfifoWrite (who : Who) (n : Fin 16) (wide : Bool) (value : BitVec 64) (s : State) : Host.Outcome State Fault Refusal :=
  .next (s.regDo who (A.CAN_TXFIFO n 0) (fun s => State.wrRes who (s.canFifo n (leBytes (if wide then 8 else 4) value.toNat))))

/-- CAN_UNF_REL (R210). -/
def execCanUnfRel (who : Who) (n : Fin 16) (s : State) : Host.Outcome State Fault Refusal :=
  .next (s.regDo who (A.CAN_UNF_REL n) (fun s => s.canUnfRel n))

/-- CAN_FRESH_H_WRITE (R225). -/
def execCanFreshHWrite (who : Who) (n : Fin 16) (slot : Fin 256) (value : Word) (s : State) : Host.Outcome State Fault Refusal :=
  .next (s.regDo who (A.CAN_FRESH_H n slot) (fun s => s.canFreshH n slot value))

/-- A write into a CAN window by offset (R222, R225): what has behaviour of its own, ownership, the bank of 0x5000 to 0x52FF. -/
def State.canReg (s : State) (n off : Nat) (w : Word) : State × WrRes :=
  let a := A.CAN_CTRL n + off
  let v := w.toNat
  let plain := match regAt a with | some r => (s.plainWrite r a w, WrRes.ok) | none => (s, WrRes.bad)
  if off % 4 ≠ 0 then (s, .bad)
  else if off = 0 then (s.canCtrl n v, .ok)
  else if off = 0x10 ∨ off = 0x14 ∨ off = 0x18 then
    if s.f (F.CAN_STAT_STATE n) = 0 then plain else (s, .state (s.f (F.CAN_STAT_STATE n)))
  else if off = 0x28 then (s.canAuthWrite n v, .ok)
  else if off = 0x34 then (if bit v 0 then s.canUnfRel n else s, .ok)
  else if 0x100 ≤ off ∧ off < 0x180 then (s.canRxClear n 16 ((off - 0x100) / 4) v, .ok)
  else if 0x180 ≤ off ∧ off < 0x200 then (s.canRxClear n 17 ((off - 0x180) / 4) v, .ok)
  else if off = 0x200 ∨ off = 0x204 then s.canSet n (off == 0x204) v
  else if off = 0x208 ∨ off = 0x20C then s.canClr n (off == 0x20C) v
  else if 0x800 ≤ off ∧ off < 0x850 then s.canFifo n (leBytes 4 v)
  else if 0x5000 ≤ off ∧ off < 0x5300 ∧ s.flag (F.CAN_CTRL_RXAB n) then
    (s.modCan n (fun c => { c with rxauth := tblSet c.rxauth ((off - 0x5000) / 4) (v &&& 0x83FF) }), .ok)
  else if 0x4000 ≤ off ∧ off < 0x6000 then
    let id := resId 9 (1024 * n + (off - 0x4000) / 8)
    if s.owner id = 0 then plain else (s, .conflict id)
  else if 0x6000 ≤ off ∧ off < 0x6800 then
    let k := (off - 0x6000) / 8
    if off % 8 = 0 then (s.modCan n (fun c => { c with freshL := tblSet c.freshL k v }), .ok) else (s.canFreshH n k w, .ok)
  else plain

/-- What a read of a CAN register gives where it is computed from other state (R208, R213, R219, R225). -/
def State.canRegRead (s : State) (n off : Nat) : Option Word :=
  let maskOf := fun (g : Nat → Bool) => toW ((List.range 32).foldl (fun x i => x + b2n (g i) * 2 ^ i) 0)
  if off = 0x4 then some (toW (putBit (s.reg (A.CAN_STAT n)).toNat 3 (s.canFrozen n)))
  else if 0x100 ≤ off ∧ off < 0x180 then some (maskOf (fun i => s.ctl (canRx n (32 * ((off - 0x100) / 4) + i)) 16 16 == 1))
  else if 0x180 ≤ off ∧ off < 0x200 then some (maskOf (fun i => s.ctl (canRx n (32 * ((off - 0x180) / 4) + i)) 17 17 == 1))
  else if off = 0x200 ∨ off = 0x210 then some (maskOf (fun i => s.txBit n i 16))
  else if off = 0x204 ∨ off = 0x214 then some (maskOf (fun i => s.txBit n (32 + i) 16))
  else if 0x5000 ≤ off ∧ off < 0x5300 ∧ s.flag (F.CAN_CTRL_RXAB n) then
    some (toW (tblGet (s.canCh n).rxauth ((off - 0x5000) / 4)))
  else none

/-- A core or DMA write to object RAM (R203, R205, R222): reserved bytes ignore it, TCTL bits [31:16] are the controller's, and
a transmit object of another owner refuses it. -/
def State.canRamWrite (s : State) (a len v : Nat) : State × WrRes :=
  let n := (a - 0x30000000) / 0x18000
  let off := (a - 0x30000000) % 0x18000
  if 0x17C00 ≤ off then (s, .ok)
  else if 0x14000 ≤ off ∧ off < 0x15400 then
    let t := (off - 0x14000) / 0x50
    let id := resId 8 (64 * n + t)
    if s.owner id ≠ 0 then (s, .conflict id)
    else
      let keep := s.mget (canTx n t + 6) 2
      ((s.mput a len v).mput (canTx n t + 6) 2 keep, .ok)
  else (s.mput a len v, .ok)

/-! Reception (R207, R217, R219). -/

/-- The controller receives from the bus: ACTIVE or PASSIVE, not ignoring, with the receiver path on, and not in internal loopback
(R225, R226, R231). -/
def State.canHears (s : State) (n : Nat) : Bool :=
  let st := s.f (F.CAN_STAT_STATE n)
  let trx := s.f (F.CAN_STAT_TRX n)
  (st == 2 || st == 3) && !s.flag (F.TIDE_N_STAT_IGNORE n) && (trx == 1 || trx == 3) && !s.canInternal n

/-- CAN_INTEGRATED (R217). -/
def execCanIntegrated (n : Fin 16) (s : State) : Host.Outcome State Fault Refusal :=
  .next (if s.f (F.CAN_STAT_STATE n) = 1 then (((s.setF (F.CAN_STAT_STATE n) 2).canStop n).tideEval n).canArb n else s)

/-! Transmission (R202, R205, R212, R220). -/

/-- The apply instant for one object (R212). -/
def State.canCommit (s : State) (n t : Nat) (xs : List Shadow) : State := s.canOffer n ⟨t, xs, none⟩

/-- An attempt of an object, or of the FIFO's head as 64, has ended without success: a cancelled repeat, a waiting copy and lateness
take effect (R212, R213, R216). -/
def State.canTried (s : State) (n t : Nat) (cancel : Bool) : State :=
  if t < 64 then
    let a := if cancel then s.canCancel n t else s
    let b := a.canTakeCopy n t
    if b.canIsLate n t then b.canLate n t else b
  else s.canHeadLate n

/-- Another node's frame is on the bus: an attempt of the channel's own has lost arbitration. -/
def State.canLost (s : State) (n : Nat) : State :=
  match (s.canCh n).active with
  | none => s
  | some t => (s.canIdle n).canTried n t (s.canCh n).cancel

/-- CAN_FRAME_RECEIVED (R207): a frame received without error; its `sof` is the time in ns since its SOF was sampled. -/
def execCanFrameReceived (n : Fin 16) (f : CanFrame) (s : State) : Host.Outcome State Fault Refusal :=
  .next (if !s.canHears n ∨ (ridFdf f.rid.toNat ∧ !s.flag (F.CAN_CTRL_FD_EN n)) then s
    else ((((s.canLost n).canRecDown n).canFiled n (s.stamped f)).canStop n).canArb n)

/-- CAN_RX_ERROR (R217, R219): the error code, its phase, whether ISO 11898-1 adds 8 to REC, and whether it is a protocol
exception event. -/
def execCanRxError (n : Fin 16) (lec : Fin 7) (dataPhase eight pxe : Bool) (s : State) : Host.Outcome State Fault Refusal :=
  let t0 := s.f (F.CAN_ERR_TEC n)
  let r0 := s.f (F.CAN_ERR_REC n)
  let fin := fun (s : State) => (s.canStop n).canArb n
  .next (if !s.canHears n then s
    else if pxe && !s.flag (F.CAN_CTRL_PXHD n) then fin (((s.canLost n).incF (F.CAN_ERRCNT_PXE n) 1).canEvt n 14)
    else
      let s1 := (s.canLost n).canErr n (if pxe then 2 else lec) dataPhase
      let s2 := s1.when (s1.f (F.CAN_CTRL_MODE n) == 2) (fun s => s.incF (F.CAN_PERR_RERR n) 1)
      fin (if s2.canFrozen n then s2 else (s2.setRec n (r0 + if eight then 8 else 1)).canFault n t0 r0))

/-- Delay compensation of a sent frame (R202): only an edge later than TDCF is accepted (in whole mtq: DEDUCED, log 178); the
measured delay, and the limit of 127 mtq. -/
def State.canTdc (s : State) (n : Nat) (f : CanFrame) (tdcv : Nat) : State :=
  if s.flag (F.CAN_TDC_TDCE n) && f.brs && decide (s.dbtClk n < 80) && decide (s.f (F.CAN_TDC_TDCF n) < tdcv) then
    (s.setF (F.CAN_TDC_TDCV n) tdcv).when (decide (127 < tdcv + s.f (F.CAN_TDC_TDCO n))) (fun s => s.canEvt n 15)
  else s

/-- An object has been sent (R205, R216). -/
def State.canSent (s : State) (n t : Nat) (sof : Nat) : State :=
  let b := canTx n t
  let s1 := (((s.setTx n t 16 false).setTx n t 17 true).setCtl b 31 24 (s.ctl b 31 24 + 1)).mput (b + 12) 4 sof
  ((s1.when (s1.txBit n t 12) (fun s => s.canEvt n 4)).canEnd n t (fun r s => s.ok r.key [])).canTakeCopy n t

/-- The head of the FIFO has been sent; the next one takes its place, late or not (R214). -/
def State.canSentHead (s : State) (n : Nat) : State :=
  let irq := match (s.canCh n).txq with | r :: _ => bit (leAt r.bytes 4 4) 12 | [] => false
  ((s.canPop n).when irq (fun s => s.canEvt n 4)).canHeadLate n

/-- The frame of the attempt in progress, as it began (R220). -/
def State.inFlight (s : State) (n : Nat) : CanFrame := (s.canCh n).fly.getD default

/-- A frame on the bus: its identifier word, DLC with BRS and ESI, the bytes. -/
def State.canSend (s : State) (n : Nat) (f : CanFrame) : State :=
  s.emit (.can n f.rid.toNat) (leBytes 1 (f.dlc.toNat + 16 * b2n f.brs + 32 * b2n f.esi) ++ f.data)

/-- CAN_TX_SUCCESS (R205, R217): the active object's frame is sent; `sof` is the time in ns since its SOF, `tdcv` the delay measured
in it. Nothing is sent where the transceiver does not drive the bus (R200). In loopback the channel files it, and internal loopback
keeps it off the bus (R225). -/
def execCanTxSuccess (n : Fin 16) (sof : BitVec 32) (tdcv : BitVec 7) (s : State) : Host.Outcome State Fault Refusal :=
  let s := s.canArb n
  .next (match (s.canCh n).active with
    | none => s
    | some t =>
      if !s.canDrives n then s else
      let f := s.stamped { s.inFlight n with sof := sof }
      let t0 := s.f (F.CAN_ERR_TEC n)
      let s1 := (s.when (!s.canInternal n) (fun s => s.canSend n f)).canTdc n f tdcv.toNat
      let s2 := ((s1.canIdle n).modCan n (fun c => { c with rep := none }))
      let s3 := if s2.canFrozen n then s2 else (s2.decF (F.CAN_ERR_TEC n)).canFault n t0 (s2.f (F.CAN_ERR_REC n))
      let scf := s3.isScf n f.rid.toNat (frLen f)
      let s4 := if t < 64 then s3.canSent n t f.sof.toNat else s3.canSentHead n
      let s5 := s4.when (!scf) (fun s => s.modTide n (fun c => { c with busyAt := some s.now }))
      let s6 := if s5.f (F.CAN_CTRL_MODE n) = 3 then s5.canFiled n f else s5.tideEval n
      (s6.canStop n).canArb n)

/-- CAN_TX_ERROR (R217, R218): TEC rises by 8, unless ISO 11898-1 excepts the error (`keep`), and the frame repeats. -/
def execCanTxError (n : Fin 16) (lec : Fin 7) (dataPhase keep : Bool) (tdcv : BitVec 7) (s : State) : Host.Outcome State Fault Refusal :=
  let s := s.canArb n
  .next (match (s.canCh n).active with
    | none => s
    | some t =>
      let f := s.inFlight n
      let t0 := s.f (F.CAN_ERR_TEC n)
      let cancel := (s.canCh n).cancel
      let s1 := ((s.canTdc n f tdcv.toNat).canErr n lec dataPhase).canIdle n
      let s2 := s1.modCan n (fun c => { c with rep := some t, cancel := false })
      let s3 := if s2.canFrozen n || keep then s2 else (s2.setF (F.CAN_ERR_TEC n) (min 511 (t0 + 8))).canFault n t0 (s2.f (F.CAN_ERR_REC n))
      (((s3.canTried n t cancel).tideEval n).canStop n).canArb n)

/-- CAN_RECOVERED (R217): 128 sequences of 11 recessive bits, counted from the entry with ABO = 1 or from RECOVER; suspended
while the controller ignores (R231). -/
def execCanRecovered (n : Fin 16) (s : State) : Host.Outcome State Fault Refusal :=
  .next (if s.f (F.CAN_STAT_STATE n) = 4 ∧ !s.flag (F.TIDE_N_STAT_IGNORE n) ∧ (s.flag (F.CAN_CTRL_ABO n) ∨ (s.canCh n).recov) then
      (((((s.setF (F.CAN_STAT_STATE n) 2).setF (F.CAN_ERR_TEC n) 0).setRec n 0).canEvt n 12).tideEval n).canArb n
    else s)

/-- CAN_TAT_DUE (R216): an object or the FIFO's head has become due and takes part in arbitration. -/
def execCanTatDue (n : Fin 16) (s : State) : Host.Outcome State Fault Refusal := .next (s.canArb n)

/-- CAN_TAT_LATE (R216): an object, or the FIFO's head as 64, has passed TTIME plus TOL. -/
def execCanTatLate (n : Fin 16) (obj : Fin 65) (s : State) : Host.Outcome State Fault Refusal :=
  .next (if obj.val = 64 then (s.canHeadLate n).canArb n
    else if s.canIsLate n obj && (s.canCh n).active != some obj.val then s.canLate n obj else s)

/-- CAN_DOMINANT_TIMEOUT (R200). -/
def execCanDominantTimeout (n : Fin 16) (s : State) : Host.Outcome State Fault Refusal :=
  .next ((s.setF (F.CAN_STAT_DOMTO n) 1).canEvt n 19)

/-! Commands (R39, R216, R222). -/

/-- The entries of a configuration record from offset `o`, in order; the first that fails ends it (R222). -/
def State.canConfig (s : State) (k : RKey) (n : Nat) (pl : List Byte) : Nat → Nat → State
  | 0, _ => s.ok k []
  | i + 1, o =>
    let off := leAt pl o 2
    if 0x7000 ≤ off ∨ leAt pl (o + 2) 2 ≠ 0 then s.badParam k o
    else match s.canReg n off (toW (leAt pl (o + 4) 4)) with
      | (s1, .ok) => s1.canConfig k n pl i (o + 8)
      | (s1, .conflict id) => s1.cmdConflict k id
      | (s1, .state m) => s1.wrongState k m
      | (s1, .bad) => s1.badParam k o

/-- CAN_CONFIG: channel, count, entries of 8 bytes. A length that no count gives is answered by R38, another count by its own. -/
def bodyCanConfig : Body := fun c s =>
  if c.pl.length < 3 then s.badLen c.key 3
  else
    let cnt := leAt c.pl 1 2
    if (c.pl.length - 3) % 8 ≠ 0 then s.badLen c.key (c.pl.length - (c.pl.length - 3) % 8)
    else if c.pl.length ≠ 3 + 8 * cnt then s.badLen c.key (3 + 8 * cnt)
    else if 16 ≤ leAt c.pl 0 1 then s.badParam c.key 0
    else s.canConfig c.key (leAt c.pl 0 1) c.pl cnt 3

/-- CAN_CONFIG (R222). -/
def execCanConfig (r : Req) (s : State) : Host.Outcome State Fault Refusal := .next (s.opcode r 5 1 bodyCanConfig)

/-- CAN_SEND (R213, R216, R223): channel, object, DTIME (0: now), bytes 0 to 7 of the object, the data. -/
def bodyCanSend : Body := fun c s =>
  if c.pl.length < 18 then s.badLen c.key 18 else if 82 < c.pl.length then s.badLen c.key 82 else
  let n := leAt c.pl 0 1
  let t := leAt c.pl 1 1
  let dt := leAt c.pl 2 8
  let ctl := leAt c.pl 14 4
  let len := min 64 (bits ctl 6 0)
  let id := resId 8 (64 * n + t)
  if c.pl.length ≠ 18 + len then s.badLen c.key (18 + len)
  else if 16 ≤ n then s.badParam c.key 0
  else if 64 ≤ t then s.limit c.key 0x0701
  else if s.dtime + 1800000000000 < dt then s.badParam c.key 2
  else if s.owner id ≠ 0 ∨ s.canReserved n t then s.cmdConflict c.key id
  else
    let xs := canWhole (leAt c.pl 10 4) (putBit (ctl % 2 ^ 13) 9 (dt != 0)) (dt / 1000) ((c.pl.drop 18).take len)
    (s.canOffer n ⟨t, xs, some ⟨t, c.key, dt⟩⟩).canArb n

/-- CAN_SEND (R216). -/
def execCanSend (r : Req) (s : State) : Host.Outcome State Fault Refusal := .next (s.opcode r 5 2 bodyCanSend)

/-- CAN_READ: the 80 bytes of an object, numbered as in R140. -/
def bodyCanRead : Body := fixedLen 3 (fun c s =>
  let n := leAt c.pl 0 1
  let j := leAt c.pl 1 2
  if 16 ≤ n then s.badParam c.key 0
  else if 1088 ≤ j then s.badParam c.key 1
  else s.ok c.key (s.mbytes (canRx n j) 80))

/-- CAN_READ (R39). -/
def execCanRead (r : Req) (s : State) : Host.Outcome State Fault Refusal := .next (s.opcode r 5 3 bodyCanRead)

/-! Image fields of class 5 (R211). -/

/-- CHSTAT of a channel. -/
def State.canChstat (s : State) (n : Nat) : Nat :=
  s.f (F.CAN_STAT_STATE n) + 8 * b2n (s.canFrozen n) + 2 ^ 8 * s.f (F.CAN_ERR_REC n) + 2 ^ 16 * s.f (F.CAN_ERR_TEC n)

/-- The field, width code and offset exist for the object and direction. -/
def canFieldOk (idx fld wid off : Nat) (out : Bool) : Bool :=
  let tx := decide (1024 ≤ idx % 2048)
  decide (idx < 32768) && decide (idx % 2048 < 1088) &&
  (match fld with
   | 0 => out == tx && decide (1 ≤ wid) && decide (off + 2 ^ (wid - 1) ≤ 64)
   | 1 => out == tx && wid == 3 && off == 0
   | 2 => out == tx && wid == 1 && off == 0
   | 3 => !tx && !out && (if wid = 0 then decide (off < 8) else wid == 1 && off == 0)
   | 4 => !tx && !out && wid == 3 && off == 0
   | 5 => tx && out && wid == 0 && off == 0
   | 6 => tx && !out && (if wid = 0 then decide (off < 8) else wid == 1 && off == 0)
   | 7 => tx && out && wid == 3 && off == 0
   | 8 => !out && wid == 3 && off == 0
   | _ => false)

/-- The value of an input field. -/
def State.canField (s : State) (idx fld wid off : Nat) : Nat :=
  let n := idx / 2048
  let j := idx % 2048
  let b := canRx n j
  let c := s.mget (b + 4) 4
  let sub := fun v => if wid = 0 then v / 2 ^ off % 2 else v
  match fld with
  | 0 => s.mget (b + 16 + off) (2 ^ (wid - 1))
  | 1 => s.mget b 4
  | 2 => bits c 14 8
  | 3 => sub (bits c 17 16 + 4 * bits (s.mget b 4) 31 31 + 8 * bits c 6 4)
  | 4 => s.mget (b + 8) 4
  | 6 => sub (bits c 23 16)
  | _ => s.canChstat n

end Sys2Proof.Machine
end

