-- ==== Sys2Proof/Machine/Sluice.lean ====
section
/-! DEFINITION. Sluice: routing between channels and over Brineline (R240 to R249). -/
namespace Sys2Proof.Machine

/-- An entry's six words (R241). -/
def rtWord (e : List Byte) (i : Nat) : Nat := leAt e (4 * i) 4

/-- The offset of the first field that makes an entry invalid (R241). -/
def rtBad (e : List Byte) : Option Nat :=
  if bits (rtWord e 1) 31 29 ≠ 0 then some 4
  else if bits (rtWord e 2) 31 30 ≠ 0 ∨ 17 ≤ bits (rtWord e 2) 21 17 ∨ (bits (rtWord e 2) 21 17 = 16 ∧ bit (rtWord e 2) 16) then some 8
  else if bits (rtWord e 3) 31 30 ≠ 0 then some 12
  else if bits (rtWord e 4) 15 12 ≠ 0 ∨ bits (rtWord e 4) 31 28 ≠ 0 then some 16
  else if rtWord e 5 ≠ 0 then some 20 else none

/-- The first destination object an entry names that is not Sluice's (R241). -/
def State.rtConflict (s : State) (e : List Byte) : Option Nat :=
  if bit (rtWord e 2) 23 then
    let id := fun c => resId 8 (64 * c + bits (rtWord e 2) 29 24)
    (firstBelow 16 (fun c => bit (rtWord e 2) c && s.owner (id c) != 7)).map id
  else none

/-- Install an entry; one of zeros is not listed. -/
def State.rtPut (s : State) (i : Nat) (e : List Byte) : State :=
  { s with can := { s.can with rt := if e.all (· == 0#8) then tblErase s.can.rt i else tblSet s.can.rt i e } }

/-- The entry at an index. -/
def State.rtGet (s : State) (i : Nat) : List Byte := (tblFind s.can.rt i).getD (List.replicate 24 0#8)

/-- SLUICE_RT_WRITE: RT_CMD.WRITE checks and installs D_0 to D_5 at IDX (R241). -/
def State.rtWrite (s : State) : State :=
  let e := s.regBytes (A.SLUICE_RT_D 0) 6
  if (rtBad e).isSome then s.setF F.SLUICE_RT_CMD_ERR 1
  else match s.rtConflict e with
    | some id => (s.setF F.SLUICE_RT_CMD_ERR 1).conflict id 0 1
    | none => (s.rtPut (s.f F.SLUICE_RT_IDX_IDX) e).setF F.SLUICE_RT_CMD_ERR 0

/-- RT_CMD.READ copies the entry at IDX into D_0 to D_5. -/
def State.rtRead (s : State) : State := s.setRegBytes (A.SLUICE_RT_D 0) 6 (s.rtGet (s.f F.SLUICE_RT_IDX_IDX))

/-- SLUICE_RT_WRITE (R241). -/
def execSluiceRtWrite (who : Who) (s : State) : Host.Outcome State Fault Refusal :=
  .next (s.regDo who A.SLUICE_RT_CMD State.rtWrite)

/-- SLUICE_RT_READ (R249). -/
def execSluiceRtRead (who : Who) (s : State) : Host.Outcome State Fault Refusal :=
  .next (s.regDo who A.SLUICE_RT_CMD State.rtRead)

/-- ROUTE_SET: u16 index and the 24-byte record (R39, R241). -/
def bodyRouteSet : Body := fixedLen 26 (fun c s =>
  let i := leAt c.pl 0 2
  let e := c.pl.drop 2
  let bad := s.setF F.SLUICE_RT_CMD_ERR 1
  if 4096 ≤ i then bad.limit c.key 0x0801
  else match rtBad e with
    | some o => bad.badParam c.key (2 + o)
    | none => match s.rtConflict e with
      | some id => bad.cmdConflict c.key id
      | none => (s.rtPut i e).ok c.key [])

/-- ROUTE_SET (R241). -/
def execRouteSet (r : Req) (s : State) : Host.Outcome State Fault Refusal := .next (s.opcode r 5 4 bodyRouteSet)

/-- Claim or release one resource for Sluice by its ownership bit (R249); an object reserved for the FIFO is refused (R215). -/
def State.slOwn (s : State) (x : Fld) (k id : Nat) (blocked want : Bool) : State :=
  if want == s.fbit x k then s
  else if want then
    if blocked || !s.claimable 7 id then s.conflict id 7 0 else (s.setOwner id 7).setFbit x k true
  else (s.release 7 id).setFbit x k false

/-- A write of SLUICE_FIFO (register 0) or of SLUICE_OBJ_n_L, _H (registers 1 + 2n, 2 + 2n): releases before claims (R480). -/
def State.slOwnWrite (s : State) (reg w : Nat) : State :=
  let go := fun (want : Bool) (i : Nat) (s : State) =>
    if bit w i != want then s
    else if reg = 0 then s.slOwn F.SLUICE_FIFO_OWN i (resId 10 i) false want
    else
      let n := (reg - 1) / 2
      let t := i + 32 * ((reg - 1) % 2)
      s.slOwn (if (reg - 1) % 2 = 0 then F.SLUICE_OBJ_L_OWN n else F.SLUICE_OBJ_H_OWN n) i (resId 8 (64 * n + t)) (s.canReserved n t) want
  let m := if reg = 0 then 16 else 32
  forBelow m (forBelow m s (go false)) (go true)

/-- SLUICE_OWN_WRITE (R249). -/
def execSluiceOwnWrite (who : Who) (reg : Fin 33) (value : Word) (s : State) : Host.Outcome State Fault Refusal :=
  .next (s.regDo who A.SLUICE_FIFO (fun s => s.slOwnWrite reg value.toNat))

/-! Copies (R242 to R244). -/

/-- A dropped copy. -/
def State.slDrop (s : State) (c : Nat) (iso : Bool) : State :=
  (s.incF (if iso then F.SLUICE_DROP_ISO c else F.SLUICE_DROP_OTHER c) 1).raise 496

/-- The RID word a copy carries: NEWID when XEN is 1, IDE unchanged. -/
def slRid (e : List Byte) (f : CanFrame) : Nat :=
  if bit (rtWord e 3) 29 then ridNorm (putBits f.rid.toNat 28 0 (bits (rtWord e 3) 28 0)) else ridNorm f.rid.toNat

/-- A copy to channel `c` (R242, R243). -/
def State.slCopy (s : State) (e : List Byte) (f : CanFrame) (c : Nat) : State :=
  let asleep := !s.tideOpen c
  let wake := bit (rtWord e 2) 22
  if asleep && s.flag (F.TIDE_N_CFG_ISOLATE c) then s.slDrop c true
  else if asleep && !wake then s.slDrop c false
  else if ridFdf f.rid.toNat && decide (8 < frLen f) && !s.flag (F.CAN_CTRL_FD_EN c) then s.slDrop c false
  else
    let s0 := if asleep then s.tideWake c 8 none else s
    let hd := frLen f + 2 ^ 7 * b2n (f.brs && s.flag (F.CAN_CTRL_BRS_EN c))
    if bit (rtWord e 2) 23 then
      let t := bits (rtWord e 2) 29 24
      if s0.owner (resId 8 (64 * c + t)) ≠ 7 then s0.slDrop c false else
      ((s0.canOffer c ⟨t, canWhole (slRid e f) hd 0 (frBytes f), none⟩).canArb c).incF (F.SLUICE_FWD_FWD c) 1
    else if s0.owner (resId 10 c) ≠ 7 then s0.slDrop c false
    else
      let pad := cdiv (frLen f) 8 * 8
      let rec_ := leBytes 4 (slRid e f) ++ leBytes 4 hd ++ leBytes 8 0 ++ fitBytes pad (frBytes f)
      let (s1, took) := s0.canEnqueue c rec_
      if took then s1.incF (F.SLUICE_FWD_FWD c) 1 else s1.slDrop c false

/-- Payload bytes a link carries in 1 ms (R169): 12.12 Gbit/s on an x2 link, 6.06 on an x1 link. -/
def State.linkMsBytes (s : State) (l : Nat) : Nat := if s.f (F.RING_LINK_STAT_WIDTH l) = 1 then 757500 else 1515000

/-- Link `l` has room for `n` more of Sluice's bytes in the present millisecond (R244). -/
def State.slShare (s : State) (l n : Nat) : Bool :=
  let used := if s.can.brlMs = s.now / 1000000 then tblGet s.can.brlBytes l else 0
  decide ((used + n) * 100 ≤ s.linkMsBytes l * s.f F.SLUICE_CTRL_BRL_PCT)

/-- Count Sluice's bytes on a link. -/
def State.slUse (s : State) (l n : Nat) : State :=
  let base := if s.can.brlMs = s.now / 1000000 then s.can.brlBytes else []
  { s with can := { s.can with brlMs := s.now / 1000000, brlBytes := tblMod base l (· + n) } }

/-- The links a frame to a destination leaves on: the route's, or every UP link for a broadcast (R176, R178). -/
def State.linksTo (s : State) (dst : Nat) : List Nat :=
  if dst = 0xFFF then s.upLinks
  else match s.routeTo dst with | some l => [l] | none => []

/-- A copy to Brineline (R244). -/
def State.slBrl (s : State) (i : Nat) (e : List Byte) (x : SlFrame) : State :=
  let f := x.frame
  let dst := bits (rtWord e 4) 11 0
  let pl := leBytes 1 0x20 ++ leBytes 1 x.src ++ leBytes 2 i ++ leBytes 4 f.sof.toNat ++ leBytes 4 (slRid e f) ++
            leBytes 1 (frLen f) ++ leBytes 1 (b2n f.brs) ++ leBytes 2 0 ++ frBytes f
  let n := 16 + pl.length
  let ls := s.linksTo dst
  let b := if dst = 0xFFF then (s.ring.bseqOut + 1) % 65536 else 0
  if ls = [] ∨ ls.any (fun l => !s.slShare l n) then s.slDrop 16 false
  else
    let s0 := if dst = 0xFFF then { s with ring := { s.ring with bseqOut := b } } else s
    (ls.foldl (fun s l => (s.slUse l n).brlSend l 7 dst s.ownAddr 0 b pl) s0).incF (F.SLUICE_FWD_FWD 16) 1

/-- An entry's copies: the channels of DMASK but the source, then Brineline, never for a frame that came over it (R240). -/
def State.slApply (s : State) (i : Nat) (e : List Byte) (x : SlFrame) : State :=
  let s1 := forBelow 16 s (fun c s => if bit (rtWord e 2) c && c != x.src then s.slCopy e x.frame c else s)
  if bit (rtWord e 2) 16 && x.src != 16 then s1.slBrl i e x else s1

/-- An entry is enabled for a frame and matches it (R240). -/
def slMatch (e : List Byte) (x : SlFrame) : Bool :=
  let r := x.frame.rid.toNat
  let m := bits (rtWord e 1) 28 0
  bit (rtWord e 0) 30 && bits (rtWord e 2) 21 17 == x.src && ridIde r == bit (rtWord e 0) 29 &&
  (ridId r &&& m) == (bits (rtWord e 0) 28 0 &&& m) &&
  (x.src != 16 || bits (rtWord e 4) 27 16 == 0 || bits (rtWord e 4) 27 16 == x.origin)

/-- The entries applied to a frame in index order while CONT is 1, at most 8 (R240). -/
def State.slSearch (x : SlFrame) : List (Nat × List Byte) → Nat → State → State
  | [], _, s => s
  | (i, e) :: t, k, s =>
    if slMatch e x then
      if 8 ≤ k then s.raise 497
      else
        let s1 := s.slApply i e x
        if bit (rtWord e 0) 31 then State.slSearch x t (k + 1) s1 else s1
    else State.slSearch x t k s

/-- SLUICE_LOOKUP (R240): the oldest queued frame. -/
def execSluiceLookup (s : State) : Host.Outcome State Fault Refusal :=
  .next (match s.can.inq with
    | [] => s
    | x :: rest =>
      if !s.flag F.SLUICE_CTRL_EN then s else
      State.slSearch x s.can.rt 0 ({ s with can := { s.can with inq := rest } }).inqSync)

/-- A Sluice control frame's payload as a frame (R244). -/
def slFrame (b : List Byte) : CanFrame :=
  let rid := leAt b 8 4
  let len := min 64 (leAt b 12 1)
  { rid := BitVec.ofNat 32 rid, dlc := BitVec.ofNat 4 (lenDlc (ridFdf rid) len), brs := bit (leAt b 13 1) 0, esi := false,
    data := fitBytes len (b.drop 16), sof := BitVec.ofNat 32 (leAt b 4 4) }

end Sys2Proof.Machine
end

