-- ==== Sys2Proof/Machine/TimeBase.lean ====
section
/-! DEFINITION. DTIME, its discipline and its steps (R256 to R259), saltern time election (R180). -/
namespace Sys2Proof.Machine

/-- Change the time base's state. -/
def State.modTime (s : State) (g : TimeSt → TimeSt) : State := { s with time := g s.time }

/-- MODE of a Pan: 0 EMPTY, 1 STOP, 2 STARTING, 3 RUN, 4 FAULT, 5 HALTED (R158). -/
def State.panMode (s : State) (p : PanId) : Nat := s.f (F.RAKE_PAN_STATE_MODE (if p = .a then 0 else 1))

/-- A step is permitted: both Pans outside RUN, or STEP_RUN (R259). -/
def State.stepOk (s : State) : Bool := s.flag F.TIME_CTRL_STEP_RUN || (s.panMode .a != 3 && s.panMode .b != 3)

/-- The first grid instant at or after `t`, in µs (R144). -/
def gridAt (period anchor t : Nat) : Nat := if period = 0 then t else anchor % period + cdiv (t + period - anchor % period) period * period - period

/-- A Pan's next boundary after a step from `old` to `new` µs (R259): forward, the first grid instant of the new time; backward,
the first at least one period after the previous boundary in elapsed time. -/
def PanSt.stepped (x : PanSt) (old new : Nat) : PanSt :=
  let e := old - x.bk
  let bk := new - e
  let from_ := if old ≤ new then new else max new (bk + x.period)
  { x with bk := bk, next := gridAt x.period x.anchor from_ }

/-- A step of DTIME by `d` ns (R259): one FAB cycle; the boundaries and transmit objects follow. -/
def State.timeStep (s : State) (d : Int) : State :=
  let t := umod 64 ((s.dtime : Int) + d)
  let s1 := { s with dtime := t, pA := s.pA.stepped (s.dtime / 1000) (cdiv t 1000), pB := s.pB.stepped (s.dtime / 1000) (cdiv t 1000) }
  (forBelow 16 s1 (fun n s => s.canTimeEval n)).raise 390

/-- RATE clamped to ±`m` (R256). -/
def State.setRate (s : State) (r : Int) (m : Nat) : State :=
  s.setF F.TIME_RATE_RATE (umod 32 (max (-(m : Int)) (min (m : Int) r)))

/-- Largest magnitude of RATE (R256). -/
def rateMax : Nat := 512000000

/-- The rate the servo sets: no rule gives its law, a free value within ±`m`. -/
def State.servo (s : State) (m : Nat) : State := (s.setRate ((s.freeNat % (2 * m + 1) : Nat) - (m : Int)) m).useFree

/-- Enter or leave holdover of the selected source (R258). -/
def State.setHold (s : State) (b : Bool) : State := (s.setFlag F.TIME_STAT_HOLD b).levelEdge 391 (s.levelOn 391)

/-- The device is elected time master (R180, R257). -/
def State.isMaster (s : State) : Bool := s.f F.RING_TIME_STAT_DEPTH == 0

/-- The MAC PTP runs on under SRC 4 (R254, R257): ETH_0 is preferred; where the chosen one's link is down and the other's is up, that
one. -/
def State.autoMac (s : State) : Nat :=
  let m := s.time.ptp.mac
  if !s.flag (F.ETH_STAT_LINK m) && s.flag (F.ETH_STAT_LINK (1 - m)) then 1 - m else m

/-- The MAC that PTP runs on, one at a time (R254): under SRC 4 only while the device is time master (R257). -/
def State.ptpMac (s : State) : Option Nat :=
  match s.f F.TIME_CTRL_SRC with
  | 1 => some 0
  | 2 => some 1
  | 4 => if s.isMaster then some s.autoMac else none
  | _ => none

/-- The selected discipline source: 0 none, 1 and 2 PTP, 3 Brineline (R257). -/
def State.srcSel (s : State) : Nat :=
  match s.ptpMac with
  | some n => n + 1
  | none => if s.f F.TIME_CTRL_SRC = 0 then 0 else 3

/-- A measurement from source `src` is used (R257); under SRC 4 in holdover, from any (R258). -/
def State.srcUsed (s : State) (src : Nat) : Bool :=
  (s.srcSel == src && src != 0) || (s.f F.TIME_CTRL_SRC == 4 && s.flag F.TIME_STAT_HOLD)

/-- RATE in a limited slew is within SLEW_PPM, from 1 to 500 (R259, R262), and R256's ±500 ppm. -/
def State.slewMax (s : State) : Nat := max 1 (min 500 (s.f F.TIME_CTRL_SLEW_PPM)) * 1024000

/-- The lock counters and their events (R257). -/
def State.timeLock (s : State) (off : Int) : State :=
  let m := off.natAbs
  let th := s.f F.TIME_LOCK_NS
  let b := if m < th then min 16 (s.time.below + 1) else 0
  let a := if th < m then min 16 (s.time.above + 1) else 0
  let s1 := s.modTime (fun t => { t with below := b, above := a })
  if b = 16 ∧ !s1.flag F.TIME_STAT_LOCKED then ((s1.setF F.TIME_STAT_LOCKED 1).setF F.TIME_STAT_VALID 1).raise 388
  else if a = 16 ∧ s1.flag F.TIME_STAT_LOCKED then (s1.setF F.TIME_STAT_LOCKED 0).raise 389
  else s1

/-- A measured offset, master minus device, in ns (R257 to R259). -/
def State.timeMeasure (s : State) (src : Nat) (off : Int) : State :=
  if !s.srcUsed src then s else
  let sat := max (-2147483648) (min 2147483647 off)
  let s1 := (((s.setF F.TIME_OFFS_OFFS (umod 32 sat)).setF F.TIME_STAT_INUSE src).setHold false).timeLock off
  if s1.f F.TIME_LOCK_STEP_NS < off.natAbs then
    if s1.stepOk then s1.timeStep off else (s1.servo s1.slewMax).raise 392
  else s1.servo rateMax

/-- Change the PTP slave's state. -/
def State.modPtp (s : State) (g : PtpSt → PtpSt) : State := s.modTime (fun t => { t with ptp := g t.ptp })

/-- PTP goes on on another MAC under SRC 4: no message awaits its answer. -/
def State.ptpOnto (s : State) (n : Nat) : State :=
  s.modPtp (fun p => { p with mac := n, syncWait := false, reqWait := false, pWait := false })

/-- TIME_OFFSET_MEASURE (R257). -/
def execTimeOffsetMeasure (src : Fin 4) (offs : BitVec 64) (s : State) : Host.Outcome State Fault Refusal :=
  .next (if src = 0 then s else s.timeMeasure src offs.toInt)

/-- A write of TIME_STEP_H applies the firmware step, or is refused (R259). -/
def State.stepWrite (s : State) (h : Word) : State :=
  if s.stepOk then s.timeStep (sval 64 (s.time.stepL + 2 ^ 32 * h.toNat)) else s.setF F.TIME_STAT_STEPREF 1

/-- TIME_STEP_WRITE (R259): TIME_STEP_L and TIME_STEP_H written in this order. -/
def execTimeStepWrite (who : Who) (low high : Word) (s : State) : Host.Outcome State Fault Refusal :=
  .next (s.regDo who A.TIME_STEP_H (fun s => (s.modTime (fun t => { t with stepL := low.toNat })).stepWrite high))

/-- PTP_HOLDOVER (R258): HOLD_MS without an accepted Sync from the selected MAC. Under SRC 4 PTP then runs on the other one when its
link is up (DESIGN CHOICE, log 165). -/
def execPtpHoldover (s : State) : Host.Outcome State Fault Refusal :=
  .next (match s.ptpMac with
    | none => s
    | some n =>
      let other := s.f F.TIME_CTRL_SRC == 4 && s.flag (F.ETH_STAT_LINK (1 - n))
      (s.when other (fun s => s.ptpOnto (1 - n))).setHold true)

/-- A read of TIME_NOW_L latches TIME_NOW_H (R262). -/
def State.nowLatch (s : State) : State := s.setReg A.TIME_NOW_H (toW (s.dtime / 2 ^ 32))

/-- The source code TIME_GET reports (R257). -/
def State.timeSource (s : State) : Nat := s.f F.TIME_STAT_INUSE + 0x80 * s.f F.TIME_STAT_HOLD

/-- TIME_GET: DTIME and the source. -/
def bodyTimeGet : Body := fixedLen 0 (fun c s => s.ok c.key (leBytes 8 s.dtime ++ leBytes 1 s.timeSource))

/-- TIME_GET (R257). -/
def execTimeGet (r : Req) (s : State) : Host.Outcome State Fault Refusal := .next (s.opcode r 11 3 bodyTimeGet)

/-! Saltern time (R180). -/

/-- The better candidate: lower (PRIO, address), then fewer hops, then the lower link. -/
def candBetter (x y : Nat × Nat × Nat × Nat) : Bool :=
  let k := fun (c : Nat × Nat × Nat × Nat) => ((c.1 * 4096 + c.2.1) * 4096 + c.2.2.1) * 4 + c.2.2.2
  k x < k y

/-- The candidates for time master: PRIO, address, depth and link, the device itself with depth 0. A time frame of depth 0xFFF names none:
its sender has no master (DESIGN CHOICE, log 84). -/
def State.timeCands (s : State) : List (Nat × Nat × Nat × Nat) :=
  let far := (List.range 3).filterMap (fun l =>
    if s.linkSt l = 3 then ((s.link l).time.filter (fun t => t.2.2 != 0xFFF)).map (fun t => (t.1, t.2.1, t.2.2 + 1, l)) else none)
  if s.flag F.RING_TIME_CFG_MASTER_EN then (s.f F.RING_TIME_CFG_PRIO, s.ownAddr, 0, 0) :: far else far

/-- Brineline holdover of the device (R180). -/
def State.setRingHold (s : State) (b : Bool) : State := (s.setFlag F.RING_TIME_STAT_HOLDOVER b).levelEdge 327 (s.levelOn 327)

/-- Elect the time master; a change raises RING_TIME_MASTER. A device that elects itself is in no holdover. -/
def State.timeElect (s : State) : State :=
  let best := s.timeCands.foldl (fun b c => match b with
    | none => some c
    | some d => if candBetter c d then some c else some d) none
  let m := match best with | some c => c.2.1 | none => 0
  let s0 := ((s.setF F.RING_TIME_STAT_MASTER m).setF F.RING_TIME_STAT_DEPTH (match best with | some c => c.2.2.1 | none => 0)).setF
    F.RING_TIME_STAT_LINK (match best with | some c => c.2.2.2 | none => 0)
  let s1 := s0.when (best.any (fun c => c.2.2.1 == 0)) (fun s => s.setRingHold false)
  s1.when (m != s.f F.RING_TIME_STAT_MASTER) (fun s => s.raise 326)

/-- TIME_FRAME_RX (R180): the sender's view of the master, its depth, and its DTIME when the frame left. -/
def execTimeFrameRx (l : Fin 3) (prio : BitVec 8) (master depth : BitVec 12) (sent : BitVec 64) (s : State) :
    Host.Outcome State Fault Refusal :=
  .next (if s.linkSt l ≠ 3 then s else
    let s1 := (s.modLink l (fun x => { x with time := some (prio.toNat, master.toNat, depth.toNat) })).timeElect
    if s1.f F.RING_TIME_STAT_DEPTH ≠ 0 ∧ s1.f F.RING_TIME_STAT_LINK = l.val then
      let off := (sent.toNat : Int) + (s1.f (F.RING_LINK_DELAY_PS l) / 1000 : Nat) - (s1.dtime : Int)
      (s1.setRingHold false).timeMeasure 3 off
    else s1)

/-- The device has elected no master: it is none itself, and no link offers one. -/
def State.noMaster (s : State) : Bool := s.isMaster && !s.flag F.RING_TIME_CFG_MASTER_EN

/-- TIME_FRAME_SEND (R180): on each UP link, the DTIME and the sender's view of the master; depth 0xFFF without one (log 84). -/
def execTimeFrameSend (s : State) : Host.Outcome State Fault Refusal :=
  let m := s.f F.RING_TIME_STAT_MASTER
  let prio := if s.isMaster then s.f F.RING_TIME_CFG_PRIO
    else ((s.link (s.f F.RING_TIME_STAT_LINK)).time.map (·.1)).getD 0
  let pl := leBytes 8 s.dtime ++ leBytes 1 prio ++ leBytes 2 m ++ leBytes 2 (if s.noMaster then 0xFFF else s.f F.RING_TIME_STAT_DEPTH)
  .next (s.upLinks.foldl (fun s l => s.brlSend l 5 0 s.ownAddr 0 0 pl) s)

/-- LINK_DELAY_MEASURE (R180). -/
def execLinkDelayMeasure (l : Fin 3) (ps : BitVec 24) (s : State) : Host.Outcome State Fault Refusal :=
  .next (if s.linkSt l = 3 then s.setF (F.RING_LINK_DELAY_PS l) ps.toNat else s)

/-- BRL_TIME_HOLDOVER (R180, R258): 10 ms without a time frame from the master; the election restarts, and DTIME is in holdover when
Brineline is its selected source. -/
def execBrlTimeHoldover (s : State) : Host.Outcome State Fault Refusal :=
  let s1 := if s.isMaster then s
    else (forBelow 3 (s.setRingHold true) (fun l s => s.modLink l (fun x => { x with time := none }))).timeElect
  .next (if s.srcSel = 3 then s1.setHold true else s1)

/-- DTIME after `c` thirds of 4 ns, one FAB cycle each (R256). -/
def State.timeAdvance (s : State) (ns : Nat) : State :=
  let r := sval 32 (s.f F.TIME_RATE_RATE)
  let inc := (ns : Int) * 4294967296 + (ns : Int) * r * 4194304 / 1000000000
  let t := ((s.dtime * 4294967296 + s.time.frac : Nat) : Int) + inc
  let u := umod 96 t
  { s with now := s.now + ns, dtime := u / 2 ^ 32, time := { s.time with frac := u % 2 ^ 32 } }

end Sys2Proof.Machine
end

