-- ==== Sys2Proof/Machine/Eth.lean ====
section
/-! DEFINITION. The Ethernet MACs (R250 to R253, R474) and the PTP slave (R254, R255). -/
namespace Sys2Proof.Machine

/-- A MAC's state beside its registers. -/
def State.ethCh (s : State) (n : Nat) : EthCh := tblGet s.time.eth n

/-- Change a MAC's state. -/
def State.modEth (s : State) (n : Nat) (g : EthCh → EthCh) : State := s.modTime (fun t => { t with eth := tblMod t.eth n g })

/-- The link goes up or down (R250, R253, R261): at a fall the frames queued for transmission are discarded and counted. PTP prefers
ETH_0 when its link comes up (R257). -/
def State.ethLink (s : State) (n : Nat) (up : Bool) (queued : Nat) : State :=
  if s.flag (F.ETH_STAT_LINK n) = up then s else
  let s1 := (s.setFlag (F.ETH_STAT_LINK n) up).when (!up) (fun s => s.incF (F.ETH_TXCNT_DROP n) queued)
  (s1.when (up && n == 0 && s.time.ptp.mac != 0) (fun s => s.ptpOnto 0)).raise (384 + 2 * n)

/-- A write of ETH_n_CFG (R250, R474): MODE claims or releases the ball set. What is queued for transmission where MODE := 0 takes the
link down is the traffic's, a free value (R253). -/
def State.ethCfg (s : State) (n : Nat) (w : Word) : State :=
  let m0 := s.f (F.ETH_CFG_MODE n)
  let v := bits w.toNat 1 0
  let m := if v = 3 then 0 else if m0 ≠ 0 ∧ v ≠ 0 ∧ v ≠ m0 then 0 else v
  let s1 := match regAt (A.ETH_CFG n) with
    | some r => (s.plainWrite r (A.ETH_CFG n) w).setF (F.ETH_CFG_MODE n) m0
    | none => s
  if m = m0 then s1
  else if m = 0 then (((s1.setF (F.ETH_CFG_MODE n) 0).modEth n (fun x => { x with rel := true })).ethLink n false (s1.freeNat % 65536)).useFree
  else if (s1.ethCh n).rel then s1
  else match s1.claimAll 8 [resId 11 n] with
    | (s2, some _) => s2
    | (s2, none) => (s2.setF (F.ETH_CFG_MODE n) m).modEth n (fun x => { x with modeAt := s.now })

/-- ETH_CFG_MODE_WRITE (R474). -/
def execEthCfgModeWrite (who : Who) (n : Fin 2) (value : Word) (s : State) : Host.Outcome State Fault Refusal :=
  .next (s.regDo who (A.ETH_CFG n) (fun s => s.ethCfg n value))

/-- PHYRST_N of a MAC: low in MODE 0 and for 1 ms after MODE leaves it (R474). -/
def State.phyRstN (s : State) (n : Nat) : Bool :=
  s.f (F.ETH_CFG_MODE n) != 0 && decide ((s.ethCh n).modeAt + 1000000 ≤ s.now)

/-- ETH_BALL_RELEASE (R474): tEREL after MODE reached 0. -/
def execEthBallRelease (n : Fin 2) (s : State) : Host.Outcome State Fault Refusal :=
  .next (if (s.ethCh n).rel then (s.release 8 (resId 11 n)).modEth n (fun x => { x with rel := false }) else s)

/-- ETH_LINK_CHANGE (R250): the link reported with its speed and duplex, and the frames waiting to be sent. -/
def execEthLinkChange (n : Fin 2) (up : Bool) (speed : Fin 3) (half : Bool) (queued : BitVec 16) (s : State) :
    Host.Outcome State Fault Refusal :=
  .next (if s.f (F.ETH_CFG_MODE n) = 0 then s
    else if up && half then (s.setF (F.ETH_STAT_HDX n) 1).ethLink n false queued.toNat
    else
      let sp := if s.f (F.ETH_CFG_MODE n) = 1 ∨ s.flag (F.ETH_CFG_INBAND n) then speed.val else min 2 (s.f (F.ETH_CFG_SPEED n))
      ((s.setF (F.ETH_STAT_HDX n) 0).when up (fun s => s.setF (F.ETH_STAT_LSPEED n) sp)).ethLink n up queued.toNat)

/-- The destination is one of R251; addresses as six bytes, byte 0 lowest. -/
def State.ethMine (s : State) (n : Nat) (da : Nat) : Bool :=
  da == s.ethMac n || da == 0xFFFFFFFFFFFF || da == 0x000000191B01 || da == 0x0E0000C28001 || da == 0x8101005E0001 || da == 0x6B00005E0001

/-- A receive timestamp with its correction (R255), of an instant `ago` ns back. -/
def State.rxTs (s : State) (n : Nat) (ago : Nat) : Int := (s.dtime : Int) - ago + sval 16 (s.f (F.ETH_TSCORR_RX_NS n))

/-- A transmit timestamp with its correction (R255). -/
def State.txTs (s : State) (n : Nat) (ago : Nat) : Int := (s.dtime : Int) - ago + sval 16 (s.f (F.ETH_TSCORR_TX_NS n))

/-- The tagging rule of R252; `vid` is the frame's tag, `extra` a second tag or TPID 0x88A8. -/
def State.vlanOk (s : State) (n : Nat) (vid : Option (BitVec 12)) (extra : Bool) : Bool :=
  let untagged := match vid with | none => true | some v => v == 0#12
  let mine := match vid with | none => false | some v => v != 0#12 && v.toNat == s.f (F.ETH_VLAN_VID n)
  !extra && (match s.f (F.ETH_VLAN_ACC n) with | 0 => untagged | 1 => mine | _ => untagged || mine)

/-- A bus error on a descriptor access (R253): the engine stops until DMAERR is cleared. -/
def State.ethDmaErr (s : State) (n : Nat) : State := (s.setF (F.ETH_STAT_DMAERR n) 1).raise (385 + 2 * n)

/-- The descriptor engine takes a frame: through IOMMU stream `n`, at an address that is the driver's, a free value (R112, R253). -/
def State.ethTake (s : State) (n : Nat) : State :=
  match s.useFree.ioStream n s.freeNat true with
  | (s1, some _) => s1
  | (s1, none) => s1.ethDmaErr n

/-- ETH_FRAME_RX (R250 to R253, R255): a frame, timestamped: one in error, one not for the device, or one
that is delivered; `known` says that it is ARP, ICMP echo, UDP to port 47060 or PTP, whose rows then follow. -/
def execEthFrameRx (m : MacAt) (fcsOk : Bool) (len : BitVec 14) (da : BitVec 48) (vid : Option (BitVec 12)) (extra known : Bool)
    (s : State) : Host.Outcome State Fault Refusal :=
  .next (if !s.ethUp m.n then s else
    let s := s.modEth m.n (fun x => { x with stamp := s.rxTs m.n m.ago.toNat })
    if !fcsOk ∨ len.toNat < 64 ∨ s.f (F.ETH_CFG_MAXLEN m.n) < len.toNat then (s.incF (F.ETH_RXCNT_ERR m.n) 1).raise (385 + 2 * m.n)
    else if s.ethMine m.n da.toNat && s.vlanOk m.n vid extra && known then s.ethTake m.n
    else s.incF (F.ETH_RXCNT_OTHER m.n) 1)

/-- ARP_REQUEST (R251): answered when the address asked for is the device's. -/
def execArpRequest (n : Fin 2) (sha : BitVec 48) (spa tpa : BitVec 32) (s : State) : Host.Outcome State Fault Refusal :=
  .next (if !s.ethUp n ∨ tpa.toNat ≠ s.time.ip then s else
    s.emit (.eth n) (s.ethHead n sha.toNat 0x0806 ++ beBytes 8 0x0001080006040002 ++ leBytes 6 (s.ethMac n) ++ beBytes 4 s.time.ip ++
      leBytes 6 sha.toNat ++ beBytes 4 spa.toNat))

/-- ICMP_ECHO (R251): the echo reply, to the request's sender, carries its identifier, number and data (`rest`). -/
def execIcmpEcho (n : Fin 2) (sha : BitVec 48) (spa tpa : BitVec 32) (rest : List Byte) (s : State) : Host.Outcome State Fault Refusal :=
  .next (if !s.ethUp n ∨ tpa.toNat ≠ s.time.ip then s else
    s.emit (.eth n) (s.ipFrame n sha.toNat 1 spa.toNat (beBytes 2 0 ++ beBytes 2 (netSum (beBytes 4 0 ++ rest)) ++ rest)))

/-- ETH_DESCRIPTOR_BUS_ERROR (R253). -/
def execEthDescriptorBusError (n : Fin 2) (s : State) : Host.Outcome State Fault Refusal :=
  .next (s.ethDmaErr n)

/-- A write of ETH_0_MDIO: GO starts a frame when the last one has ended (R253, R262). -/
def State.mdioWrite (s : State) (w : Word) : State :=
  let s1 := match regAt A.ETH_MDIO with
    | some r => s.plainWrite r A.ETH_MDIO w
    | none => s
  if bit w.toNat 28 && s1.flag F.ETH_MDIO_DONE then
    (s1.setF F.ETH_MDIO_DONE 0).emit .mdio (leBytes 4 (s1.reg A.ETH_MDIO).toNat)
  else s1

/-- MDIO_GO (R253). -/
def execMdioGo (who : Who) (value : Word) (s : State) : Host.Outcome State Fault Refusal :=
  .next (s.regDo who A.ETH_MDIO (fun s => s.mdioWrite (value ||| 0x10000000#32)))

/-- MDIO_DONE (R262): a read's data is in DATA. -/
def execMdioDone (data : BitVec 16) (s : State) : Host.Outcome State Fault Refusal :=
  .next (if s.flag F.ETH_MDIO_DONE then s else
    let rd := s.f F.ETH_MDIO_OP == 0 || s.f F.ETH_MDIO_OP == 3
    (s.when rd (fun s => s.setF F.ETH_MDIO_DATA data.toNat)).setF F.ETH_MDIO_DONE 1)

/-! PTP (R254, R255). -/

/-- PTP runs on this MAC, which is up (R254). -/
def State.ptpOn (s : State) (n : Nat) : Bool := s.ethUp n && s.ptpMac == some n

/-- A PTP message that the slave takes (R254): on its MAC, over the transport that TIME_PTP.UDP selects, of its domain. -/
def State.ptpTakes (s : State) (n : Nat) (udp : Bool) (domain : Nat) : Bool :=
  s.ptpOn n && udp == s.flag F.TIME_PTP_UDP && domain == s.f F.TIME_PTP_DOMAIN

/-- The identity of the device's PTP port: the clock identity and port number 1. -/
def ptpPort : List Byte := beBytes 8 Config.ptpClockId.toNat ++ beBytes 2 1

/-- A PTP timestamp: seconds in 48 bits, nanoseconds in 32. -/
def ptpTime (t : Int) : List Byte := beBytes 6 (umod 64 t / 1000000000) ++ beBytes 4 (umod 64 t % 1000000000)

/-- A PTP message of IEEE 1588-2019 leaves (R254): its common header, big-endian as all of it (PRESUMED, log 87), then its body, over
IEEE 802.3 or over UDP to the multicast address of its kind. -/
def State.ptpSend (s : State) (n kind flags ctl seq : Nat) (body : List Byte) : State :=
  let msg := leBytes 1 kind ++ leBytes 1 0x12 ++ beBytes 2 (34 + body.length) ++ leBytes 1 (s.f F.TIME_PTP_DOMAIN) ++ leBytes 1 0 ++
    beBytes 2 flags ++ beBytes 12 0 ++ ptpPort ++ beBytes 2 seq ++ leBytes 1 ctl ++ leBytes 1 0x7F ++ body
  let peer := kind != 1
  let port := if kind < 8 then 319 else 320
  s.emit (.eth n)
    (if s.flag F.TIME_PTP_UDP then
      let ip := if peer then 0xE000006B else 0xE0000181
      s.ipFrame n (if peer then 0x6B00005E0001 else 0x8101005E0001) 17 ip (s.udpBytes ip port port msg)
    else s.ethHead n (if peer then 0x0E0000C28001 else 0x000000191B01) 0x88F7 ++ msg)

/-- A Sync is complete with its origin time: the offset of the master goes to the servo (R254, R257). -/
def State.ptpSynced (s : State) (n : Nat) (t1 t2 : Int) : State :=
  let d := s.time.ptp.delay
  (s.modPtp (fun p => { p with syncWait := false, t2 := t2, msd := t2 - t1 })).timeMeasure (n + 1) (t1 + d - t2)

/-- PTP_SYNC_RX (R254): one-step, or two-step with a Follow_Up to come. -/
def execPtpSyncRx (m : PtpVia) (domain : BitVec 8) (seq : BitVec 16) (twoStep : Bool) (origin : BitVec 64) (ago : Word) (s : State) :
    Host.Outcome State Fault Refusal :=
  .next (if !s.ptpTakes m.n m.udp domain.toNat then s else
    let t2 := s.rxTs m.n ago.toNat
    if twoStep then s.modPtp (fun p => { p with syncSeq := seq.toNat, syncWait := true, t2 := t2 })
    else s.ptpSynced m.n origin.toNat t2)

/-- PTP_FOLLOW_UP_RX (R254): a Follow_Up, or a Pdelay_Resp_Follow_Up, which is `mine` when it names the device's port. -/
def execPtpFollowUpRx (m : PtpTo) (domain : BitVec 8) (seq : BitVec 16) (peer : Bool) (origin : BitVec 64) (s : State) :
    Host.Outcome State Fault Refusal :=
  .next (if !s.ptpTakes m.n m.udp domain.toNat then s else
    let p := s.time.ptp
    if peer then
      if m.mine && p.pWait && p.reqSeq == seq.toNat && s.flag F.TIME_PTP_P2P then
        s.modPtp (fun p => { p with pWait := false, delay := ((p.pRx - p.t3) - ((origin.toNat : Int) - p.pReq)) / 2 })
      else s
    else if p.syncWait && p.syncSeq == seq.toNat then s.ptpSynced m.n origin.toNat p.t2 else s)

/-- PTP_DELAY_REQ_SEND (R254): a Delay_Req, or a Pdelay_Req in the peer-to-peer profile, whose SFD left `ago` ns back. -/
def execPtpDelayReqSend (n : Fin 2) (ago : Word) (s : State) : Host.Outcome State Fault Refusal :=
  .next (if !s.ptpOn n then s else
    let q := (s.time.ptp.reqSeq + 1) % 65536
    let s1 := s.modPtp (fun p => { p with reqSeq := q, reqWait := true, pWait := false, t3 := s.txTs n ago.toNat })
    if s.flag F.TIME_PTP_P2P then s1.ptpSend n 2 0 5 q (beBytes 20 0) else s1.ptpSend n 1 0 1 q (beBytes 10 0))

/-- PTP_DELAY_RESP_RX (R254): the mean path delay of the last Sync and Delay_Req; `mine` when it names the device's port. -/
def execPtpDelayRespRx (m : PtpTo) (domain : BitVec 8) (seq : BitVec 16) (received : BitVec 64) (s : State) :
    Host.Outcome State Fault Refusal :=
  let p := s.time.ptp
  .next (if !s.ptpTakes m.n m.udp domain.toNat ∨ !m.mine ∨ s.flag F.TIME_PTP_P2P ∨ !p.reqWait ∨ p.reqSeq ≠ seq.toNat then s
    else s.modPtp (fun p => { p with reqWait := false, delay := (p.msd + ((received.toNat : Int) - p.t3)) / 2 }))

/-- PTP_PDELAY_REQ_RX (R254): received `ago` ns back from a peer's port, answered with a two-step Pdelay_Resp, which left `sent` ns
back, and its Follow_Up. -/
def execPtpPdelayReqRx (m : PtpFrom) (domain : BitVec 8) (seq : BitVec 16) (ago sent : Word) (s : State) :
    Host.Outcome State Fault Refusal :=
  .next (if !s.ptpTakes m.n m.udp domain.toNat ∨ !s.flag F.TIME_PTP_P2P then s else
    (s.ptpSend m.n 3 0x0200 5 seq.toNat (ptpTime (s.rxTs m.n ago.toNat) ++ beBytes 10 m.port.toNat)).ptpSend m.n 0x0A 0 5 seq.toNat
      (ptpTime (s.txTs m.n sent.toNat) ++ beBytes 10 m.port.toNat))

/-- PTP_PDELAY_RESP_RX (R254): one-step with the turnaround time, or two-step with a Follow_Up to come; `mine` when it names the device's
port. -/
def execPtpPdelayRespRx (m : PtpTo) (domain : BitVec 8) (seq : BitVec 16) (twoStep : Bool) (reqRx : BitVec 64) (ago : Word) (s : State) :
    Host.Outcome State Fault Refusal :=
  let p := s.time.ptp
  .next (if !s.ptpTakes m.n m.udp domain.toNat ∨ !m.mine ∨ !s.flag F.TIME_PTP_P2P ∨ !p.reqWait ∨ p.reqSeq ≠ seq.toNat then s
    else
      let t4 := s.rxTs m.n ago.toNat
      if twoStep then s.modPtp (fun p => { p with reqWait := false, pWait := true, pReq := reqRx.toNat, pRx := t4 })
      else s.modPtp (fun p => { p with reqWait := false, delay := ((t4 - p.t3) - (reqRx.toNat : Int)) / 2 }))

end Sys2Proof.Machine
end

