-- ==== Sys2Proof/Machine/Evt.lean ====
section
/-! DEFINITION. The commands of the Event Fabric (R125 to R133), the posted-store bus error (R115) and lockstep (R97, R98). -/
namespace Sys2Proof.Machine

/-- EVENT_SOURCE_ASSERT (R125, R126): a block raises a pulse source. A number no chapter lists never becomes pending; a level
source is asserted by its block's own state, which this command does not change. -/
def execEventSourceAssert (src : Fin 1536) (s : State) : Host.Outcome State Fault Refusal :=
  .next (if sourceListed src && !levelSources.contains src.val then s.raise src else s)

/-- The acknowledge read of target `t` (R128): the highest deliverable source and its level, made active, its latch for the
target cleared when it is a pulse source; NONE when nothing is deliverable. The read uses the fabric's RAM (R104). -/
def State.evtAck (s : State) (t : Nat) : State × Word :=
  match s.topEvent t with
  | none => (s, toW 0x8000)
  | some (p, k) =>
    let s1 := s.setActiveMask t (putBit (s.activeMask t) p true)
    let m := putBit (tblGet s.latch k) t false
    let s2 := if levelSources.contains k then s1 else
      { s1 with latch := if m = 0 then tblErase s1.latch k else tblSet s1.latch k m }
    ((s2.critRead (A.EVT_SRC_CFG k) 4).critRead (A.EVT_PEND (k / 32)) 4, toW (k + 0x10000 * p))

/-- A write of 1 to EOI (R128): the highest active level is cleared. -/
def State.evtEoi (s : State) (t : Nat) : State :=
  match s.running t with
  | some p => s.setActiveMask t (putBit (s.activeMask t) p false)
  | none => s

/-- EVT_TGT_EOI (R128). -/
def execEvtTgtEoi (who : Who) (t : Fin 4) (s : State) : Host.Outcome State Fault Refusal :=
  .next (s.regDo who (A.EVT_TGT_EOI t) (fun s => s.evtEoi t))

/-- EVT_SWTRIG (R131): raise software event IDX. -/
def execEvtSwtrig (who : Who) (idx : Fin 32) (s : State) : Host.Outcome State Fault Refusal :=
  .next (s.regDo who A.EVT_SWTRIG (fun s => s.raise (1504 + idx)))

/-- A write to EVT_PEND (R133): every target latch of the pulse sources named is cleared; level sources are not affected. -/
def State.evtPendClear (s : State) (w v : Nat) : State :=
  { s with latch := s.latch.filter (fun x => !(x.1 / 32 == w && bit v (x.1 % 32))) }

/-- EVT_PEND_CLEAR (R133). -/
def execEvtPendClear (who : Who) (w : Fin 48) (value : Word) (s : State) : Host.Outcome State Fault Refusal :=
  .next (s.regDo who (A.EVT_PEND w) (fun s => s.evtPendClear w value.toNat))

/-- POSTED_STORE_BUS_ERROR (R115): the store is lost and the core's bus-error source is raised. -/
def execPostedStoreBusError (c : CoreId) (s : State) : Host.Outcome State Fault Refusal := .next (s.raise (35 + c.num))

/-- A lockstep mismatch of a Pan (R97, R98): recorded in LSREC0 and LSREC1, counted, raised. With LSCTRL.TEST the Pan goes on;
otherwise it stops issuing and the reset source "lockstep mismatch" is requested. -/
def State.lsMismatch (s : State) (p : PanId) (pc : Word) (unit : Nat) (injected : Bool) : State :=
  let k := s.core p.core
  let n := satAdd 0xFFFF (bits k.lsrec1.toNat 31 16) 1
  let k1 := { k with lsrec0 := pc, lsrec1 := toW (unit + 0x100 + (if injected then 0x200 else 0) + 0x10000 * n), lsInj := false }
  if k.lsTest then (s.setCore p.core k1).raise (38 + p.num)
  else (((s.setCore p.core { k1 with run := .mismatch }).raise (38 + p.num)).reqReset 7 none)

/-- LOCKSTEP_MISMATCH (R97): the comparator of a Pan that runs finds a divergence. -/
def execLockstepMismatch (p : PanId) (pc : Word) (unit : Fin 7) (s : State) : Host.Outcome State Fault Refusal :=
  .next (match (s.core p.core).run with
    | .running | .waiting => s.lsMismatch p pc unit false
    | _ => s)

/-- LOCKSTEP_INJECT (R98): a mismatch is forced on the next retired instruction. -/
def execLockstepInject (p : PanId) (s : State) : Host.Outcome State Fault Refusal :=
  .next (s.setCore p.core { s.core p.core with lsInj := true })

end Sys2Proof.Machine
end

