-- ==== Sys2Proof/Machine/Brl.lean ====
section
/-! DEFINITION. Brineline's links, frames, addresses and routes (R169 to R179). -/
namespace Sys2Proof.Machine

/-- RING_CTRL.SPLIT takes effect while port 1 is DOWN, both its links where it is split (R169, R198). -/
def State.splitLatch (s : State) : State :=
  if s.linkSt 1 = 0 ∧ s.linkSt 2 = 0 then { s with ring := { s.ring with split := s.flag F.RING_CTRL_SPLIT } } else s

/-- Set a link's state code (R198). -/
def State.setLink (s : State) (l st : Nat) : State :=
  (s.setF F.RING_STATUS_LINKS (putBits (s.f F.RING_STATUS_LINKS) (3 * l + 2) (3 * l) st)).splitLatch

/-- The reference of the RPLL follows port 0 in CLK_MODE 10 (R448). -/
def State.refFollow (s : State) (l : Nat) (up : Bool) : State :=
  if l = 0 ∧ s.f F.SYSCTL_STRAP_CLK_MODE = 2 then (s.setF F.SYSCTL_CLKSTAT_REFSRC (if up then 2 else 0)).raise 9 else s

/-- Frames addressed to this device are taken: not while its address is in conflict (R179). -/
def State.brlTakes (s : State) : Bool := !s.flag F.RING_ADDR_CONFLICT

/-- The direct link to the partner: x2, UP, its peer the partner (R182). -/
def State.hsLink (s : State) : Option Nat :=
  firstBelow 2 (fun l => s.linkSt l == 3 && s.f (F.RING_LINK_STAT_WIDTH l) == 2 && s.f (F.RING_LINK_STAT_PEER l) == s.f F.RING_HS_CFG_PARTNER)

/-- Lines of the tracked area (R185). -/
def hsLines : Nat := 9216

/-- A Pan's hot-standby state. -/
def State.hsPan (s : State) (p : Nat) : HsPan := tblGet s.ring.hs.pans p

/-- Change a Pan's hot-standby state. -/
def State.modHs (s : State) (g : HsSt → HsSt) : State := { s with ring := { s.ring with hs := g s.ring.hs } }

/-- Change a Pan's hot-standby state. -/
def State.modHsPan (s : State) (p : Nat) (g : HsPan → HsPan) : State := s.modHs (fun h => { h with pans := tblMod h.pans p g })

/-- Change the hot-standby role; a change raises HS_ROLE (R183). A device that is no primary keeps no edit to send again. -/
def State.hsRole (s : State) (r : Nat) : State :=
  if s.f F.RING_HS_STAT_ROLE = r then s else
  ((s.setF F.RING_HS_STAT_ROLE r).when (r != 2) (fun s => forBelow 2 s (fun p s => s.modHsPan p (fun h => { h with lastEdit := [] })))).raise 328

/-- A Pan takes part in the pair: it has a map, and MODE is not EMPTY (R182, R185). -/
def State.hsTakes (s : State) (p : PanId) : Bool := s.f (F.RAKE_PAN_STATE_MODE p.num) != 0 && !(s.pan p).map.isEmpty

/-- SYNC_LEFT follows the full transfer, and stops at the 14 bits of its field (R198; DESIGN CHOICE, log 154). -/
def State.syncLeft (s : State) : State :=
  s.setF F.RING_HS_STAT_SYNC_LEFT (min 16383 ((s.hsPan 0).left.length + (s.hsPan 1).left.length))

/-- A full transfer is due from its first line again, for each Pan that takes part (R185). -/
def State.hsFull (s : State) : State :=
  let full := fun (p : PanId) (s : State) =>
    s.modHsPan p.num (fun h => { h with left := if s.hsTakes p then List.range hsLines else [], logic := false })
  (full .b (full .a s)).syncLeft

/-- A standby leaves STANDBY for SYNCING (R183, R188, R194): `src` is HS_DIVERGE (331) or HS_BACKLOG (332); its logic ends and
its staged blocks are discarded. -/
def State.hsResync (s : State) (src : Nat) : State :=
  if s.f F.RING_HS_STAT_ROLE = 4 then
    let s1 := (((s.incF (if src = 331 then F.RING_HS_CNT_DIVERGE else F.RING_HS_CNT_BACKLOG) 1).raise src).hsRole 3).hsFull
    let stop := fun (x : PanSt) => { x with logic := false, staged := [] }
    (s1.modPan .a stop).modPan .b stop
  else s

/-- A link leaves UP (R170): the frames in the replay buffer are dropped and counted, RING_LINK_DOWN; a standby whose direct
link it was goes to SYNCING (R183). -/
def State.linkLost (s : State) (l st : Nat) : State :=
  let direct := s.hsLink == some l
  let n := (s.link l).replay.length
  let s1 := ((s.incF (F.RING_LINK_ERR_DROP l) n).setF (F.RING_LINK_STAT_WIDTH l) 0).setLink l st
  let s2 := s1.modLink l (fun x => { x with replay := [], key := none, time := none, boot := false })
  let s3 := ((s2.raise 321).refFollow l false).timeElect
  if direct then s3.hsResync 332 else s3

/-- A link to a state, leaving UP where it was UP. -/
def State.linkTo (s : State) (l st : Nat) : State :=
  if s.linkSt l = 3 ∧ st ≠ 3 then s.linkLost l st
  else (s.setLink l st).modLink l (fun x => { x with boot := false, replay := [], key := none })

/-- Link `l` exists: 1B only while port 1 is split (R169), the links of port 1 only while PD_29 is on (R431). -/
def State.linkIs (s : State) (l : Nat) : Bool := (l == 0 || bit s.pwr.pd 29) && (l != 2 || s.ring.split)

/-- BRL_SIGNAL_DETECT (R170). -/
def execBrlSignalDetect (l : Fin 3) (s : State) : Host.Outcome State Fault Refusal :=
  .next (if s.linkSt l = 0 ∧ s.flag F.RING_CTRL_EN ∧ s.linkIs l then s.setLink l 1 else s)

/-- The peer-boot mode of R467: the Steward ROM waits for a package over Brineline. -/
def State.peerBoot (s : State) : Bool := s.f F.SYSCTL_BOOTSTAT_MODE == 3

/-- BRL_TRAINING_COMPLETE (R170, R174): AUTH, and the own nonce goes out. Without the random generator there is no nonce and the
authentication fails (R390; DESIGN CHOICE, log 175). -/
def execBrlTrainingComplete (l : Fin 3) (s : State) : Host.Outcome State Fault Refusal :=
  .next (if s.linkSt l ≠ 1 then s
    else if !s.flag F.ENCL_STAT_TRNG ∧ !s.peerBoot then (s.setLink l 4).raise 323
    else
    let n := s.rand 16
    let s1 := ((s.setLink l 2).useFree).modLink l (fun x => { x with nonce := n, peerNonce := [], rxSeq := 0, txSeq := 0, naks := 0, retry := false })
    if s1.peerBoot then s1 else s1.emit (.brlCtl l) n)

/-- BRL_TRAIN_TIMEOUT (R170): DOWN, a retry follows. -/
def execBrlTrainTimeout (l : Fin 3) (s : State) : Host.Outcome State Fault Refusal :=
  .next (if s.linkSt l = 1 then (s.setLink l 0).modLink l (fun x => { x with retry := true }) else s)

/-- BRL_RETRY_EXPIRY (R170): 10 ms after a failed training. -/
def execBrlRetryExpiry (l : Fin 3) (s : State) : Host.Outcome State Fault Refusal :=
  .next (if s.linkSt l = 0 ∧ (s.link l).retry ∧ s.flag F.RING_CTRL_EN then
      (s.setLink l 1).modLink l (fun x => { x with retry := false })
    else s)

/-- The proof of one end (R174): CMAC under the saltern key over its nonce, the other's nonce, its address, the other's; an address
as two bytes, low byte first (DEDUCED from R3, log 84). -/
def brlProof (key mine yours : List Byte) (a b : Nat) : List Byte := Config.cmac key (mine ++ yours ++ leBytes 2 a ++ leBytes 2 b)

/-- The link key (R174): in its info the addresses stand as two bytes each, low byte first, the lower address first (DESIGN CHOICE,
log 84). -/
def brlKey (key n1 n2 : List Byte) (a1 a2 : Nat) : List Byte :=
  let (lo, hi, x, y) := if a1 ≤ a2 then (n1, n2, a1, a2) else (n2, n1, a2, a1)
  Config.hkdf256 key (lo ++ hi) (asc "KBRL" ++ leBytes 2 x ++ leBytes 2 y) 16

/-- BRL_PEER_PROOF (R170, R174): the peer's nonce, address and proof; the own proof goes out. -/
def execBrlPeerProof (l : Fin 3) (nonce : List Byte) (peer : BitVec 12) (proof : List Byte) (s : State) :
    Host.Outcome State Fault Refusal :=
  .next (if s.linkSt l ≠ 2 ∨ s.peerBoot ∨ (s.link l).boot then s else
    match s.busKey (s.f F.RING_CTRL_KSLOT) 7 with
    | none => (s.setLink l 4).raise 323
    | some key =>
      let mine := (s.link l).nonce
      let s1 := s.emit (.brlCtl l) (brlProof key mine nonce s.ownAddr peer.toNat)
      if proof = brlProof key nonce mine peer.toNat s.ownAddr then
        let k := brlKey key mine nonce s.ownAddr peer.toNat
        let w := if l.val = 2 ∨ (l.val = 1 ∧ s.ring.split) then 1 else 2
        ((((s1.setLink l 3).modLink l (fun x => { x with peerNonce := nonce, key := some k, replay := [] })).setF
          (F.RING_LINK_STAT_PEER l) peer.toNat).setF (F.RING_LINK_STAT_WIDTH l) w |>.raise 320).refFollow l true
      else (s1.setLink l 4).raise 323)

/-- BRL_AUTH_TIMEOUT (R170): a link that serves or awaits a boot package stays in AUTH (R467). -/
def execBrlAuthTimeout (l : Fin 3) (s : State) : Host.Outcome State Fault Refusal :=
  .next (if s.linkSt l = 2 ∧ !s.peerBoot ∧ !(s.link l).boot then (s.setLink l 4).raise 323 else s)

/-- BRL_FAULT_EXPIRY (R170). -/
def execBrlFaultExpiry (l : Fin 3) (s : State) : Host.Outcome State Fault Refusal :=
  .next (if s.linkSt l = 4 then s.setLink l 0 else s)

/-- BRL_BLOCK_LOCK_LOST (R170): block lock lost for more than 1 µs, or 32 frames dropped within 1 s. -/
def execBrlBlockLockLost (l : Fin 3) (s : State) : Host.Outcome State Fault Refusal :=
  .next (if s.linkSt l = 3 then s.linkLost l 1 else s)

/-- Every link to DOWN (R170, R449). -/
def State.linksDown (s : State) : State := forBelow 3 s (fun l s => s.linkTo l 0)

/-- A write of RING_CTRL (R170). -/
def State.ringCtrl (s : State) (w : Word) : State :=
  let s1 := match regAt A.RING_CTRL with
    | some r => s.plainWrite r A.RING_CTRL w
    | none => s
  let s2 := s1.splitLatch
  if bit w.toNat 0 then s2 else s2.linksDown

/-- RING_CTRL_WRITE (R170). -/
def execRingCtrlWrite (who : Who) (value : Word) (s : State) : Host.Outcome State Fault Refusal :=
  .next (s.regDo who A.RING_CTRL (fun s => s.ringCtrl value))

/-- A write of RING_ADDR (R175, R179): 0xFFF is stored as 0x000; CONFLICT clears. -/
def State.ringAddr (s : State) (w : Word) : State :=
  let a := w.toNat % 4096
  ((s.setF F.RING_ADDR_ADDR (if a = 0xFFF then 0 else a)).setF F.RING_ADDR_CONFLICT 0).timeElect

/-- RING_ADDR_WRITE (R175). -/
def execRingAddrWrite (who : Who) (value : Word) (s : State) : Host.Outcome State Fault Refusal :=
  .next (s.regDo who A.RING_ADDR (fun s => s.ringAddr value))

/-! Frames on a link (R171 to R173). -/

/-- Count a dropped or discarded frame of a link. -/
def State.brlDrop (s : State) (l : Nat) : State := s.incF (F.RING_LINK_ERR_DROP l) 1

/-- The header of R171 is well formed: a defined FTYPE, reserved bits 0, LEN as the frame carries. -/
def brlHeadOk (b : List Byte) : Bool :=
  let k := leAt b 0 1
  let n := leAt b 8 2
  decide (1 ≤ k) && decide (k ≤ 7) && leAt b 2 2 / 4096 == 0 && leAt b 4 2 / 4096 == 0 && decide (n ≤ 4160) &&
  b.length == 16 + n + (if k ≤ 2 then 8 else 0)

/-- Transit (R172, R177): forwarded on the route with one hop more, or dropped and counted. -/
def State.brlTransit (s : State) (l kind dst src hops : Nat) (pl : List Byte) : State :=
  if 4094 ≤ hops + 1 ∨ src = s.ownAddr ∧ s.ownAddr ≠ 0 then (s.brlDrop l).raise 322
  else match s.routeTo dst with
    | none => (s.brlDrop l).raise 322
    | some m => s.brlSend m kind dst src (hops + 1) 0 pl

/-- BRL_FRAME_RX (R171, R173, R177): CRC and LSEQ are checked and a NAK sent on failure; a frame with an undefined FTYPE or non-zero
reserved bits is discarded and counted; a mirror, heartbeat or control frame for another device is in transit. What a frame for
this device, a broadcast or a tagged frame brings is its own row. A sender drops a frame after its fourth repeat, or a mirror frame
at once, and no rule says how the receiver learns of it: after its fifth NAK for an LSEQ it takes the next sound frame as it comes
(DESIGN CHOICE, log 85). -/
def execBrlFrameRx (l : Fin 3) (bytes : List Byte) (s : State) : Host.Outcome State Fault Refusal :=
  let x := s.link l
  let n := bytes.length
  .next (if s.linkSt l ≠ 3 ∧ s.linkSt l ≠ 2 then s
    else if n < 16 ∨ leAt bytes (n - 4) 4 ≠ crc32c (bytes.take (n - 4)) ∨ (leAt bytes 1 1 ≠ x.rxSeq ∧ x.naks < 5) then
      (s.modLink l (fun x => { x with naks := x.naks + 1 })).emit (.brlCtl l) [0x15#8, BitVec.ofNat 8 x.rxSeq]
    else
      let q := leAt bytes 1 1
      let s1 := (s.modLink l (fun x => { x with rxSeq := (q + 1) % 256, naks := 0 })).emit (.brlCtl l) [0x06#8, BitVec.ofNat 8 q]
      let k := leAt bytes 0 1
      let dst := leAt bytes 2 2
      if !brlHeadOk bytes then s1.brlDrop l
      else if (k = 3 ∨ k = 4 ∨ k = 7) ∧ dst ≠ 0 ∧ dst ≠ 0xFFF ∧ dst ≠ s.ownAddr then
        s1.brlTransit l k dst (leAt bytes 4 2) (leAt bytes 6 2) ((bytes.drop 12).take (leAt bytes 8 2))
      else s1)

/-- BRL_NAK_RX (R173): the sender repeats the frame, at most 4 times; `late` says that a mirror frame's repeat cannot reach the
standby in time, which drops it at once. -/
def execBrlNakRx (l : Fin 3) (seq : BitVec 8) (late : Bool) (s : State) : Host.Outcome State Fault Refusal :=
  .next (match (s.link l).replay.find? (fun x => x.seq == seq.toNat) with
    | none => s
    | some f =>
      if (late && f.kind == 3) || decide (4 ≤ f.tries) then
        ((s.modLink l (fun x => { x with replay := x.replay.filter (fun y => y.seq != seq.toNat) })).brlDrop l).raise 322
      else
        ((s.modLink l (fun x => { x with replay := x.replay.map (fun y => if y.seq = seq.toNat then { y with tries := y.tries + 1 } else y) })).incF
          (F.RING_LINK_ERR_RETX l) 1).emit (.brl l f.kind (leAt f.bytes 2 2)) f.bytes)

/-- Frames up to and with LSEQ `q` leave a replay buffer. -/
def ackDrop (q : Nat) (r : List BrlTx) : List BrlTx :=
  if r.any (fun x => x.seq == q) then (r.dropWhile (fun x => x.seq != q)).tail else r

/-- BRL_ACK_RX (R173, R467): after a served boot package's last frame the link goes DOWN. -/
def execBrlAckRx (l : Fin 3) (seq : BitVec 8) (s : State) : Host.Outcome State Fault Refusal :=
  let s1 := s.modLink l (fun x => { x with replay := ackDrop seq.toNat x.replay })
  .next (if (s1.link l).boot && !s1.peerBoot && (s1.link l).replay.isEmpty then s1.linkTo l 0 else s1)

/-! Presence and routes (R176, R177, R179). -/

/-- MEMBERS follows the route table. -/
def State.membersSync (s : State) : State := s.setF F.RING_STATUS_MEMBERS s.ring.routes.length

/-- The routes with the entry of a device replaced, kept by address. -/
def putRoute (r : Route) : List Route → List Route
  | [] => [r]
  | x :: t => if x.addr = r.addr then r :: t else if r.addr < x.addr then r :: x :: t else x :: putRoute r t

/-- PRESENCE_SEND (R175, R176): an addressed device, on each UP link. -/
def execPresenceSend (s : State) : Host.Outcome State Fault Refusal :=
  .next (if s.ownAddr = 0 then s else
    let q := (s.ring.presSeq + 1) % 65536
    let s1 := { s with ring := { s.ring with presSeq := q } }
    s1.upLinks.foldl (fun s l => s.brlSend l 6 0 s.ownAddr 0 0 (leBytes 2 q)) s1)

/-- PRESENCE_RX (R176, R177, R179): the route with the fewest hops, link 0 on a tie; forwarded once, and a frame that reaches 4,094
hops is dropped and counted in place of it. -/
def execPresenceRx (l : Fin 3) (src : BitVec 12) (hops seq : BitVec 16) (s : State) : Host.Outcome State Fault Refusal :=
  .next (if s.linkSt l ≠ 3 then s
    else if src.toNat = s.ownAddr ∧ s.ownAddr ≠ 0 then (s.setF F.RING_ADDR_CONFLICT 1).levelEdge 324 (s.levelOn 324)
    else
      let old := s.ring.routes.find? (fun r => r.addr == src.toNat)
      let fresh := match old with | none => true | some r => newer 16 seq.toNat r.count
      let same := match old with | none => false | some r => r.count == seq.toNat
      let closer := match old with
        | none => true
        | some r => hops.toNat < r.hops || (hops.toNat == r.hops && decide (l.val < r.link))
      if !fresh && !same then s else
      let s1 := if fresh || closer then
          ({ s with ring := { s.ring with routes := putRoute ⟨src.toNat, l, hops.toNat, seq.toNat, s.now⟩ s.ring.routes } }).membersSync
        else s
      if fresh ∧ 4094 ≤ hops.toNat + 1 then (s1.brlDrop l).raise 322
      else if fresh then (s1.upLinks.filter (fun m => m != l.val)).foldl (fun s m => s.brlSend m 6 0 src.toNat (hops.toNat + 1) 0 (leBytes 2 seq.toNat)) s1
      else s1)

/-- ROUTE_AGE_OUT (R176): 350 ms without a presence frame. -/
def execRouteAgeOut (addr : BitVec 12) (s : State) : Host.Outcome State Fault Refusal :=
  .next (if s.ring.routes.any (fun r => r.addr == addr.toNat) then
      (({ s with ring := { s.ring with routes := s.ring.routes.filter (fun r => r.addr != addr.toNat) } }).membersSync).raise 325
    else s)

/-- ADDR_CONFLICT_CLEAR (R179): 350 ms after the last duplicate presence frame. -/
def execAddrConflictClear (s : State) : Host.Outcome State Fault Refusal := .next (s.setF F.RING_ADDR_CONFLICT 0)

/-- A broadcast (R177, R178): new copies go on to the other UP links, unless they reach 4,094 hops; the second result says that this
one is new. -/
def State.brlBroadcast (s : State) (l kind src hops bseq : Nat) (pl : List Byte) : State × Bool :=
  let fresh := src != s.ownAddr && (match tblFind s.ring.bseqIn src with | some b => newer 16 bseq b | none => true)
  if fresh then
    let s1 := { s with ring := { s.ring with bseqIn := tblSet s.ring.bseqIn src bseq } }
    if 4094 ≤ hops + 1 then ((s1.brlDrop l).raise 322, true) else ((s1.upLinks.filter (fun m => m != l)).foldl (fun s m => s.brlSend m kind 0xFFF src (hops + 1) bseq pl) s1, true)
  else (s, false)

/-- SLUICE_BRL_FRAME_RX (R244): a control frame of Sluice's on a link that is UP, its payload from `origin`. A broadcast is taken once
and goes on (R178); one for this device enters the input queue with source 16, unless the address is in conflict (R179). -/
def execSluiceBrlFrameRx (h : BrlHead) (payload : List Byte) (s : State) : Host.Outcome State Fault Refusal :=
  let take := fun (s : State) => s.sluiceIn 16 h.origin.toNat (slFrame payload)
  .next (if s.linkSt h.l ≠ 3 ∨ leAt payload 0 1 ≠ 0x20 ∨ payload.length < 16 then s
    else if h.dst.toNat = 0xFFF then
      let r := s.brlBroadcast h.l 7 h.origin.toNat h.hops.toNat h.bseq.toNat payload
      if r.2 then take r.1 else r.1
    else if h.dst.toNat = s.ownAddr ∧ h.dst ≠ 0#12 ∧ s.brlTakes then take s else s)

/-- TOPOLOGY: the members of the saltern (R39, R176): in a layout no rule gives. -/
def bodyTopology : Body := fixedLen 0 (fun c s =>
  s.ok c.key (Config.memberList (s.ring.routes.map (fun r => (r.addr, r.link, r.hops)))))

/-- TOPOLOGY (R39). -/
def execTopology (r : Req) (s : State) : Host.Outcome State Fault Refusal := .next (s.opcode r 11 1 bodyTopology)

end Sys2Proof.Machine
end

