-- ==== Sys2Proof/Machine/Led.lean ====
section
/-! DEFINITION. LED drive and status matrix (R330 to R350). -/
namespace Sys2Proof.Machine

/-- A sink's state beside its registers. -/
def State.ledCh (s : State) (n : Nat) : LedCh := tblGet s.led.ch n

/-- Change a sink's state. -/
def State.modLed (s : State) (n : Nat) (g : LedCh → LedCh) : State := { s with led := { s.led with ch := tblMod s.led.ch n g } }

/-- A sink stops conducting. -/
def State.ledOff (s : State) (n : Nat) : State := (s.setF (F.LED_N_STAT_ON n) 0).modLed n (fun c => { c with on := 0, until_ := 0 })

/-- Every sink off. -/
def State.ledAllOff (s : State) : State := forBelow 32 s (fun n s => s.ledOff n)

/-- The factor of curve `c` in force, 1,024 before any update (R338). -/
def State.ledFac (s : State) (c : Nat) : Nat := (tblFind s.led.fac c).getD 1024

/-- Effective code of a code under a CURVE selection, before saturation (R338). -/
def State.ledEff (s : State) (code curve : Nat) : Nat := if curve = 0 ∨ 4 < curve then code else code * s.ledFac (curve - 1) / 1024

/-- A sink serves the matrix. -/
def State.ledMatrix (s : State) (n : Nat) : Bool := decide (16 ≤ n) && s.flag F.LED_LMX_CTRL_EN

/-- A period start of a sink (R331, R332, R338): code, range and duty of its command take effect; a new range blanks the
period; the on-time in cycles with the remainder carried. -/
def State.ledPeriod (s : State) (n : Nat) : State :=
  if !s.flag F.LED_CTRL_EN ∨ s.flag F.LED_STAT_OT ∨ s.ledMatrix n then s else
  let cur := s.f (F.LED_N_CMD_CUR n)
  let d := s.f (F.LED_N_CMD_DUTY n)
  let e := s.ledEff (cur % 4096) (s.f (F.LED_N_CFG_CURVE n))
  let s1 := (s.setF (F.LED_N_STAT_ECODE n) (min 4095 e)).setFlag (F.LED_N_STAT_COMP_SAT n) (decide (4095 < e))
  let c := s1.ledCh n
  let acc0 := if d ≠ c.duty ∧ (d = 0 ∨ d = 0xFFFF) then 0 else c.acc
  if bits cur 12 12 ≠ c.range then
    ((s1.setF (F.LED_N_STAT_BLANK n) 1).ledOff n).modLed n (fun c => { c with range := bits cur 12 12, duty := d, acc := acc0 })
  else
    let steps := 50000000 / s.f F.LED_CTRL_PWM_HZ
    let a := acc0 + d * steps
    let pwm := d != 0 && d != 0xFFFF
    let on := if d = 0 ∨ s1.flag (F.LED_N_STAT_GOFF n) then 0 else if pwm then a / 65536 else steps
    ((s1.setF (F.LED_N_STAT_BLANK n) 0).setFlag (F.LED_N_STAT_ON n) (decide (0 < on))).modLed n (fun c => { c with
      duty := d, acc := if pwm then a % 65536 else acc0, on := on, until_ := s.now + on * 20 })

/-- The sink conducts at this instant: its on-phase has not ended (R330). -/
def State.ledConducts (s : State) (n : Nat) : Bool :=
  s.flag (F.LED_N_STAT_ON n) && ((s.ledCh n).duty == 0xFFFF || decide (s.now < (s.ledCh n).until_))

/-- Count one check (R339, R346). -/
def Streak.count (x : Streak) (met : Bool) : Streak := if met then ⟨x.met + 1, 0⟩ else ⟨0, x.missed + 1⟩

/-- What a flag becomes after a check: set at the fourth met in a row, cleared at the fourth missed. -/
def Streak.flag (x : Streak) (old : Bool) : Bool := if 4 ≤ x.met then true else if 4 ≤ x.missed then false else old

/-- The group of a sink (R341). -/
def State.ledGroup (s : State) (n : Nat) : Option Nat := firstBelow 8 (fun g => s.fbit (F.LED_GRP_MASK_MASK g) n)

/-- Every member of a group is held off (R341). -/
def State.ledGroupOff (s : State) (g : Nat) : State :=
  forBelow 32 s (fun n s => if s.fbit (F.LED_GRP_MASK_MASK g) n then (s.setF (F.LED_N_STAT_GOFF n) 1).ledOff n else s)

/-- A member sets OPEN or SHORT (R341). -/
def State.ledGroupFail (s : State) (n : Nat) : State :=
  match s.ledGroup n with
  | some g =>
    if s.flag (F.LED_GRP_CTRL_EN g) && !s.flag (F.LED_GRP_CTRL_FAILED g) then
      (((s.setF (F.LED_GRP_CTRL_FAILED g) 1).setF (F.LED_GRP_CTRL_FIRST g) n).ledGroupOff g).raise (1408 + g)
    else s
  | none => s

/-- A voltage measured for the headroom loop (R337). -/
def State.ledHr (s : State) (mv : Nat) : State :=
  { s with led := { s.led with hr := some (match s.led.hr with | some v => min v mv | none => mv) } }

/-- An on-phase check (R337, R339): the sink voltage, whether it is below VOPEN and below VSAT. -/
def State.ledCheck (s : State) (n mv : Nat) (lo drop : Bool) : State :=
  let c := s.ledCh n
  if s.flag (F.LED_N_STAT_BLANK n) ∨ c.on < 500 ∨ s.ledMatrix n ∨ !s.flag F.LED_CTRL_EN then s else
  let s1 := ((s.setF (F.LED_N_VS_MV n) mv).setFlag (F.LED_N_STAT_DROPOUT n) drop).when (!s.flag (F.LED_N_STAT_OPEN n)) (fun s => s.ledHr mv)
  if c.duty = 0 ∨ s1.f (F.LED_N_STAT_ECODE n) < 40 ∨ s1.flag F.LED_STAT_VLOW then s1 else
  let th := s.f (F.LED_N_CFG_SHORT_MV n)
  let o := c.openS.count lo
  let h := c.shortS.count (th != 0 && decide (th * 100 < mv))
  let of := o.flag (s.flag (F.LED_N_STAT_OPEN n))
  let hf := h.flag (s.flag (F.LED_N_STAT_SHORT n))
  let s2 := (s1.modLed n (fun c => { c with openS := o, shortS := h })).setFlag (F.LED_N_STAT_OPEN n) of
    |>.setFlag (F.LED_N_STAT_SHORT n) hf
  let rise := (of && !s.flag (F.LED_N_STAT_OPEN n)) || (hf && !s.flag (F.LED_N_STAT_SHORT n))
  let s3 := if rise then s2.raise (1376 + n) else s2
  if o.met = 4 ∨ h.met = 4 then s3.ledGroupFail n else s3

/-- CLEAR of a group (R342): FAILED ends, the members are free from their next period start, their counts restart. -/
def State.ledGroupClear (s : State) (g : Nat) : State :=
  forBelow 32 (s.setF (F.LED_GRP_CTRL_FAILED g) 0) (fun n s =>
    if s.fbit (F.LED_GRP_MASK_MASK g) n then
      (s.setF (F.LED_N_STAT_GOFF n) 0).modLed n (fun c => { c with openS := default, shortS := default })
    else s)

/-- A write of LED_GRP_g_MASK (R341). -/
def State.ledMask (s : State) (g m : Nat) : State :=
  let bad := (List.range 32).any (fun n => bit m n && (s.owner (resId 4 n) == 3 ||
    (List.range 8).any (fun h => h != g && s.fbit (F.LED_GRP_MASK_MASK h) n)))
  if bad then s.setF F.LED_STAT_GERR 1 else
  forBelow 32 (s.setF (F.LED_GRP_MASK_MASK g) m) (fun n s =>
    let inG := match s.ledGroup n with | some h => s.flag (F.LED_GRP_CTRL_FAILED h) | none => false
    (s.setFlag (F.LED_N_STAT_GOFF n) inG).when inG (fun s => s.ledOff n))

/-- A command reaches a sink; it acts at the next period start (R332). -/
def State.ledCommand (s : State) (n cur duty : Nat) : State := (s.setF (F.LED_N_CMD_CUR n) cur).setF (F.LED_N_CMD_DUTY n) duty

/-- LED_SET (R334, R40). -/
def bodyLedSet : Body := fixedLen 5 (fun c s =>
  let n := leAt c.pl 0 1
  let cur := leAt c.pl 1 2
  if 31 < n then s.badParam c.key 0
  else if bits cur 15 13 ≠ 0 then s.badParam c.key 1
  else if s.owner (resId 4 n) ≠ 0 then s.cmdConflict c.key (resId 4 n)
  else (s.ledCommand n cur (leAt c.pl 3 2)).ok c.key [])

/-- LED_SET (R334). -/
def execLedSet (r : Req) (s : State) : Host.Outcome State Fault Refusal := .next (s.opcode r 6 3 bodyLedSet)

/-- A write of LED_CTRL.EN (R336). -/
def State.ledEn (s : State) (en : Bool) : State := (s.setFlag F.LED_CTRL_EN en).when (!en) State.ledAllOff

/-- LED_CTRL_EN_WRITE (R336). -/
def execLedCtrlEnWrite (who : Who) (en : Bool) (s : State) : Host.Outcome State Fault Refusal :=
  .next (s.regDo who A.LED_CTRL (fun s => s.ledEn en))

/-- LED_CMD_WRITE (R333): bits [15:13] of the current code stay 0. -/
def execLedCmdWrite (who : Who) (n : Fin 32) (cur duty : BitVec 16) (s : State) : Host.Outcome State Fault Refusal :=
  .next (s.regDo who (A.LED_N_CMD n) (fun s => s.ownedWrite who (resId 4 n)
    (fun s => s.ledCommand n (cur.toNat % 8192) duty.toNat)))

/-- LED_GRP_MASK_WRITE (R341). -/
def execLedGrpMaskWrite (who : Who) (g : Fin 8) (mask : Word) (s : State) : Host.Outcome State Fault Refusal :=
  .next (s.regDo who (A.LED_GRP_MASK g) (fun s => s.ledMask g mask.toNat))

/-- LED_GRP_CLEAR (R342, R335): the clear is a resource of PINOWN. -/
def execLedGrpClear (who : Who) (g : Fin 8) (s : State) : Host.Outcome State Fault Refusal :=
  .next (s.regDo who (A.LED_GRP_CTRL g) (fun s => s.ownedWrite who (resId 7 g) (fun s => s.ledGroupClear g)))

/-- The resources LMX claims: LED_16 to LED_31 and the row drivers (R343). -/
def lmxIds : List Nat := (List.range 16).map (fun i => resId 4 (16 + i)) ++ [resId 6 0]

/-- A write of LED_LMX_CTRL.EN (R343). -/
def State.lmxEn (s : State) (en : Bool) : State :=
  let no := s.setF F.LED_LMX_CTRL_ENERR 1
  let yes := fun (s : State) => (s.setFlag F.LED_LMX_CTRL_EN en).setF F.LED_LMX_CTRL_ENERR 0
  if en = s.flag F.LED_LMX_CTRL_EN then s.setF F.LED_LMX_CTRL_ENERR 0
  else if en then
    match (List.range 16).find? (fun i => (s.ledGroup (16 + i)).isSome) with
    | some i => no.conflict (resId 4 (16 + i)) 3 0
    | none =>
      match lmxIds.find? (fun id => !s.claimable 3 id) with
      | some id => no.conflict id 3 0
      | none =>
        let s1 := yes (lmxIds.foldl (fun s id => s.setOwner id 3) s)
        forBelow 16 s1 (fun i s => s.ledOff (16 + i))
  else if (List.range 256).any (fun i => s.owner (resId 5 i) != 0) then no
  else yes (s.releaseAll 3 lmxIds)

/-- LMX_EN_WRITE (R343). -/
def execLmxEnWrite (who : Who) (en : Bool) (s : State) : Host.Outcome State Fault Refusal :=
  .next (s.regDo who A.LED_LMX_CTRL (fun s => s.lmxEn en))

/-- LMX_CLEAR (R346). -/
def execLmxClear (who : Who) (s : State) : Host.Outcome State Fault Refusal :=
  .next (s.regDo who A.LED_LMX_CTRL (fun s => s.setF F.LED_LMX_CTRL_FAULT 0))

/-- A write of four shadow levels (R333, R345): refused if an element is not the Steward's. -/
def State.lmxLvl (s : State) (who : Who) (r q : Nat) (v : Word) : State :=
  match (List.range 4).find? (fun k => s.owner (resId 5 (16 * r + 4 * q + k)) != 0) with
  | some k => s.ownedWrite who (resId 5 (16 * r + 4 * q + k)) id
  | none => s.setReg (A.LED_LMX_LVL r q) v

/-- LMX_LEVEL_WRITE (R345). -/
def execLmxLevelWrite (who : Who) (r : Fin 16) (q : Fin 4) (value : Word) (s : State) : Host.Outcome State Fault Refusal :=
  .next (s.regDo who (A.LED_LMX_LVL r q) (fun s => s.lmxLvl who r q value))

/-- LED_PERIOD_START (R331). -/
def execLedPeriodStart (n : Fin 32) (s : State) : Host.Outcome State Fault Refusal := .next (s.ledPeriod n)

/-- LED_ONPHASE_CHECK (R339). -/
def execLedOnphaseCheck (n : Fin 32) (mv : BitVec 16) (low drop : Bool) (s : State) : Host.Outcome State Fault Refusal :=
  .next (s.ledCheck n mv.toNat low drop)

/-- The least voltage measured in an interval of the headroom loop (R337), with `v` among the measurements. -/
def State.ledLeast (s : State) (v : Option (BitVec 16)) : Option Nat :=
  match v with
  | some mv => (s.ledHr mv.toNat).led.hr
  | none => s.led.hr

/-- LED_HEADROOM_UPDATE (R337): FBCODE follows the least voltage of the interval, if any: of the on-phases whose checks have come, and `v`
in mV of those without a check of their own; `vlow` that VLED is at or below VLMIN (R339). -/
def execLedHeadroomUpdate (v : Option (BitVec 16)) (vlow : Bool) (s : State) : Host.Outcome State Fault Refusal :=
  let v := s.ledLeast v
  let s0 := { s with led := { s.led with hr := none } }.setFlag F.LED_STAT_VLOW vlow
  .next (if !s0.flag F.LED_CTRL_FB_EN then (s0.setF F.LED_STAT_FBCODE 0).setF F.LED_STAT_HRLOW 0 else
    let mx := s0.f F.LED_HR_FB_MAX
    let hr := s0.f F.LED_HR_HR_MV
    let c := s0.f F.LED_STAT_FBCODE
    let c1 := match v with
      | none => c
      | some x => if x + 100 < hr then min (c + 1) mx else if hr + 100 < x then c - 1 else c
    let low := match v with
      | none => s0.flag F.LED_STAT_HRLOW
      | some x => c1 == mx && decide (x + 100 < hr)
    ((s0.setF F.LED_STAT_FBCODE c1).setFlag F.LED_STAT_HRLOW low).when (low && !s0.flag F.LED_STAT_HRLOW)
      (fun s => s.raise 1419))

/-- The points of a curve: temperature and factor (R338). -/
def State.ledPoints (s : State) (c : Nat) : List (Int × Nat) :=
  (List.range (s.f (F.LED_CURVE_CFG_NPTS c))).map (fun k => (sval 16 (s.f (F.LED_CURVE_P_T c k)), s.f (F.LED_CURVE_P_F c k)))

/-- Temperatures strictly increasing. -/
def rising : List (Int × Nat) → Bool
  | a :: b :: t => decide (a.1 < b.1) && rising (b :: t)
  | _ => true

/-- The factor at temperature `t` on rising points (R338). -/
def curveAt (t : Int) : List (Int × Nat) → Nat
  | [] => 1024
  | [a] => a.2
  | a :: b :: r =>
    if t ≤ a.1 then a.2
    else if t < b.1 then (a.2 + ((b.2 : Int) - a.2) * (t - a.1) / (b.1 - a.1)).toNat
    else curveAt t (b :: r)

/-- Temperature source of a curve: NTC_0 to NTC_15, else the power die; none when not VALID (R338). -/
def State.ledTemp (s : State) (src : Nat) : Option Int :=
  if src < 16 then (if s.fbit (F.MEAS_NTC_VAL_FLAGS src) 0 then some (sval 16 (s.f (F.MEAS_NTC_VAL_TEMP src))) else none)
  else some (sval 16 (s.f F.MEAS_TEMP_POWER))

/-- Update one curve (R338). -/
def State.ledCurve (s : State) (c : Nat) : State :=
  let ps := s.ledPoints c
  let put := fun (f : Nat) (s : State) => { s with led := { s.led with fac := tblSet s.led.fac c f } }
  if ps.isEmpty ∨ !rising ps then put 1024 (s.setFbit F.LED_STAT_CERR c (!ps.isEmpty))
  else match s.ledTemp (s.f (F.LED_CURVE_CFG_SRC c)) with
    | none => s.setFbit F.LED_STAT_CERR c false
    | some t => put (curveAt t ps) (s.setFbit F.LED_STAT_CERR c false)

/-- LED_CURVE_UPDATE (R338): the factors; effective codes take them at the next period or frame start (R332). -/
def execLedCurveUpdate (s : State) : Host.Outcome State Fault Refusal := .next (forBelow 4 s (fun c s => s.ledCurve c))

/-- LED_OVERTEMP (R340). -/
def execLedOvertemp (s : State) : Host.Outcome State Fault Refusal := .next (((s.setF F.LED_STAT_OT 1).ledAllOff).raise 1418)

/-- LED_OVERTEMP_RECOVER (R340). -/
def execLedOvertempRecover (s : State) : Host.Outcome State Fault Refusal := .next (s.setF F.LED_STAT_OT 0)

/-- The matrix scans (R336, R340, R343, R346). -/
def State.lmxRuns (s : State) : Bool :=
  s.flag F.LED_LMX_CTRL_EN && s.flag F.LED_CTRL_EN && !s.flag F.LED_STAT_OT && !s.flag F.LED_LMX_CTRL_FAULT

/-- LMX_FRAME_START (R345, R343): the shadow becomes current; a column whose range changed is blanked for this frame. -/
def execLmxFrameStart (s : State) : Host.Outcome State Fault Refusal :=
  .next (if !s.lmxRuns then s else
    let lvl := (List.range 256).map (fun i => (i, s.f ⟨A.LED_LMX_LVL (i / 16) (i % 16 / 4), 8 * (i % 4) + 7, 8 * (i % 4)⟩))
    let s1 := { s with led := { s.led with lvl := lvl.filter (fun x => x.2 != 0), row := 0 } }
    forBelow 16 s1 (fun c s =>
      let cur := s.f (F.LED_LMX_COL_CUR c)
      let old := tblGet s.led.col c
      let x : LmxCol := { range := bits cur 12 12, ecode := min 4095 (s.ledEff (cur % 4096) (s.f (F.LED_LMX_COL_CURVE c))),
                          blank := bits cur 12 12 != old.range }
      { s with led := { s.led with col := tblSet s.led.col c x } }))

/-- How long an element conducts in its row's slot, in ns: level / 255 of what the precharge leaves (R344). -/
def State.lmxLit (s : State) (i : Nat) : Nat :=
  tblGet s.led.lvl i * (1000000000 / (16 * s.f F.LED_LMX_CTRL_LMX_HZ) - s.f F.LED_LMX_CTRL_PRE_US * 1000) / 255

/-- One element's comparison in its row's slot (R346), and its column's voltage for the headroom loop where it conducts for tDMIN
or more (R337): counted when its column is lit. -/
def State.lmxElem (s0 : State) (r c mv : Nat) (lo : Bool) : State :=
  let i := 16 * r + c
  if tblGet s0.led.lvl i = 0 ∨ (tblGet s0.led.col c).blank then s0 else
  let s := s0.when (decide (10000 ≤ s0.lmxLit i) && !s0.fbit (F.LED_LMX_OPEN_OPEN r) c) (fun s => s.ledHr mv)
  let x := (tblGet s.led.openE i).count lo
  let old := s.fbit (F.LED_LMX_OPEN_OPEN r) c
  let new := x.flag old
  let s1 := { s with led := { s.led with openE := tblSet s.led.openE i x } }.setFbit (F.LED_LMX_OPEN_OPEN r) c new
  if new && !old then s1.raise 1417 else s1

/-- LMX_ROW_SLOT (R344, R346): row `r`'s slot, the rows in order once per frame. -/
def execLmxRowSlot (r : Fin 16) (x : LmxMeas) (s : State) : Host.Outcome State Fault Refusal :=
  .next (if !s.lmxRuns ∨ s.led.row ≠ r.val then s else
    forBelow 16 { s with led := { s.led with row := r.val + 1 } }
      (fun c s => s.lmxElem r c (x.mv.extractLsb' (16 * c) 16).toNat (x.below.getLsbD c)))

/-- LMX_ROW_OVERCURRENT (R346). -/
def execLmxRowOvercurrent (s : State) : Host.Outcome State Fault Refusal :=
  .next (if !s.lmxRuns then s else (s.setF F.LED_LMX_CTRL_FAULT 1).raise 1416)

end Sys2Proof.Machine
end

