-- ==== Sys2Proof/Machine/Meas.lean ====
section
/-! DEFINITION. NTC inputs, supply monitors and measurement identifiers (R324 to R327). -/
namespace Sys2Proof.Machine

/-- Fixed-point unit of the logarithm below. -/
def lnUnit : Nat := 2 ^ 40

/-- The series z + z³/3 + z⁵/5 + …, `n` terms from the odd power `k`, on fixed-point numbers. -/
def atanhSum (z2 : Int) : Nat → Nat → Int → Int
  | 0, _, _ => 0
  | n + 1, k, p => p / (k : Int) + atanhSum z2 n (k + 2) (p * z2 / (lnUnit : Int))

/-- Natural logarithm of `a / b` in units of 2⁻⁴⁰: a power of two, then the series on [1, 2). -/
def lnRatio (a b : Nat) : Int :=
  let e : Int := (Nat.log2 (a * 2 ^ 64 / b) : Int) - 64
  let y : Nat := if 0 ≤ e then a * lnUnit / (b * 2 ^ e.toNat) else a * lnUnit * 2 ^ (-e).toNat / b
  let z : Int := ((y : Int) - lnUnit) * lnUnit / ((y : Int) + lnUnit)
  2 * atanhSum (z * z / lnUnit) 16 1 z + e * 762123384786

/-- Temperature of R324 in 0.1 °C, to the nearest, of a resistance that is `p / q` of R25; none where the formula has no value or
leaves s16. -/
def ntcTemp (p q b : Nat) : Option Int :=
  if p = 0 ∨ q = 0 ∨ b = 0 then none else
  let num : Int := 298150 * lnUnit * b
  let den : Int := 100 * lnUnit * b + 29815 * lnRatio p q
  if den ≤ 0 then none else
  let t : Int := (2 * num - 5462 * den) / (2 * den)
  if t < -32768 ∨ 32767 < t then none else some t

/-- VREF − v as a fraction of VREF in 2⁻³². -/
def ntcRest (v : Nat) : Nat := 2 ^ 32 - v

/-- OHM of R324: RB × v / (VREF − v), to the nearest Ω, saturating (R329; the rounding is a DESIGN CHOICE, log 171). -/
def ntcOhm (v : Nat) : Nat := min 0xFFFFFFFF ((20000 * v + ntcRest v) / (2 * ntcRest v))

/-- NTC_CONVERSION (R324): the input's voltage as a fraction of VREF in 2⁻³², converted ratiometrically: resistance, flags,
temperature, and the event at a change of OPEN or SHORT. -/
def State.ntc (s : State) (i v : Nat) : State :=
  let b := s.f (F.MEAS_NTC_CFG_B i)
  if !s.flag F.MEAS_CTRL_EN then s
  else if b = 0 then ((s.setF (F.MEAS_NTC_VAL_TEMP i) 0).setF (F.MEAS_NTC_VAL_FLAGS i) 0).setF (F.MEAS_NTC_RES_OHM i) 0
  else
    let opn := decide (490000 * ntcRest v < 10000 * v)
    let sh := decide (10000 * v < 20 * ntcRest v)
    let old := s.f (F.MEAS_NTC_VAL_FLAGS i)
    let new := b2n (!opn && !sh) + 8 * b2n opn + 16 * b2n sh
    let s1 := (s.setF (F.MEAS_NTC_RES_OHM i) (ntcOhm v)).setF (F.MEAS_NTC_VAL_FLAGS i) new
    let s2 := if opn || sh then s1 else
      match ntcTemp (10000 * v) (ntcRest v * (10 * s.f (F.MEAS_NTC_CFG_R25 i))) b with
      | some t => s1.setF (F.MEAS_NTC_VAL_TEMP i) (umod 16 t)
      | none => (s1.setF (F.MEAS_NTC_VAL_TEMP i) s1.freeNat).useFree
    if old / 8 ≠ new / 8 then s2.raise (1344 + i) else s2

/-- NTC_CONVERSION (R324). -/
def execNtcConversion (i : Fin 16) (v : Word) (s : State) : Host.Outcome State Fault Refusal := .next (s.ntc i v.toNat)

/-- The supply readings that other blocks show in 50 mV units (R287, R311, R329, R350). -/
def State.supShow (s : State) (i mv : Nat) : State :=
  let v := min 1023 (mv / 50)
  if i < 6 then s.setF (F.HSS_GRP_STAT_VSUP i) v
  else if i = 6 then s.setF F.SOL_SUP_VSOL v
  else if i = 7 then s.setF F.DIO_STAT_VDIO v
  else s

/-- A supply sample (R325): four in a row below, above or inside the window decide the flags. The blocks with a monitor of their
own show the supply whether or not MEAS converts. -/
def State.supSample (s0 : State) (i mv : Nat) : State :=
  let s := s0.supShow i mv
  if !s.flag F.MEAS_CTRL_EN then s else
  let lo := s.f (F.MEAS_SUP_WIN_LOW i)
  let hi := s.f (F.MEAS_SUP_WIN_HIGH i)
  let isLo := lo != 0 && decide (mv < lo)
  let isHi := hi != 0 && decide (hi < mv)
  let r := tblGet s.dio.sup i
  let r1 : SupRun := ⟨if isLo then r.below + 1 else 0, if isHi then r.above + 1 else 0, if isLo || isHi then 0 else r.within + 1⟩
  let old := s.f (F.MEAS_SUP_VAL_FLAGS i)
  let low := if 4 ≤ r1.below then true else if 4 ≤ r1.within then false else bit old 1
  let high := if 4 ≤ r1.above then true else if 4 ≤ r1.within then false else bit old 2
  let s1 := { s with dio := { s.dio with sup := tblSet s.dio.sup i r1 } }
  let s2 := (s1.setF (F.MEAS_SUP_VAL_MV i) mv).setF (F.MEAS_SUP_VAL_FLAGS i) (1 + 2 * b2n low + 4 * b2n high)
  if (low && !bit old 1) || (high && !bit old 2) then s2.raise (1360 + i) else s2

/-- SUPPLY_SAMPLE (R325). -/
def execSupplySample (i : Fin 14) (mv : BitVec 16) (s : State) : Host.Outcome State Fault Refusal :=
  .next (s.supSample i mv.toNat)

/-- The value and flags of a measurement identifier (R326). A resistance stops at the end of s32 (DESIGN CHOICE, log 171). -/
def State.measGet (s : State) (id : Nat) : Option (Nat × Nat) :=
  if 0x100 ≤ id ∧ id < 0x110 then
    let i := id - 0x100
    some (umod 32 (sval 16 (s.f (F.MEAS_NTC_VAL_TEMP i))), s.f (F.MEAS_NTC_VAL_FLAGS i))
  else if 0x120 ≤ id ∧ id < 0x130 then
    let i := id - 0x120
    some (min 0x7FFFFFFF (s.f (F.MEAS_NTC_RES_OHM i)), s.f (F.MEAS_NTC_VAL_FLAGS i))
  else if 0x200 ≤ id ∧ id < 0x20E then
    let i := id - 0x200
    some (s.f (F.MEAS_SUP_VAL_MV i), s.f (F.MEAS_SUP_VAL_FLAGS i))
  else if id = 0x300 then some (umod 32 (sval 16 (s.f F.MEAS_TEMP_LOGIC)), 1)
  else if id = 0x301 then some (umod 32 (sval 16 (s.f F.MEAS_TEMP_POWER)), 1)
  else none

/-- MEAS_READ (R326). -/
def bodyMeasRead : Body := fixedLen 2 (fun c s =>
  match s.measGet (leVal c.pl) with
  | some (v, fl) => s.ok c.key (leBytes 4 v ++ leBytes 1 fl)
  | none => s.notFound c.key)

/-- MEAS_READ (R326). -/
def execMeasRead (r : Req) (s : State) : Host.Outcome State Fault Refusal := .next (s.opcode r 6 6 bodyMeasRead)

end Sys2Proof.Machine
end

