-- ==== Sys2Proof/Machine/Session.lean ====
section
/-! DEFINITION. The opcodes of groups 01 and 02 (R39, R41 to R48) and the Command Engine's timed rows (R36, R44, R45, R48). -/
namespace Sys2Proof.Machine

/-- The one maintenance class held, else a free value: R39 gives no code for none or several. -/
def State.heldByte (s : State) : Nat :=
  match s.cmd.tokens with
  | [t] => t.cls
  | _ => s.freeNat

/-- IDENTIFY (R39). -/
def bodyIdentify : Body := fixedLen 0 (fun c s =>
  s.ok c.key (leBytes 4 (s.reg A.SYSCTL_DEVID).toNat ++ leBytes 2 s.ownAddr ++ s.versions.flatMap (leBytes 4) ++
    leBytes 1 s.activeBank ++ leBytes 1 0))

/-- GET_STATUS (R39): modes, reset cause, logic-die temperature, maintenance class held. -/
def bodyGetStatus : Body := fixedLen 0 (fun c s =>
  (s.ok c.key (leBytes 1 (s.f (F.RAKE_PAN_STATE_MODE 0)) ++ leBytes 1 (s.f (F.RAKE_PAN_STATE_MODE 1)) ++ leBytes 2 0 ++
    leBytes 4 (s.reg A.SYSCTL_RSTCAUSE).toNat ++ leBytes 2 (s.f F.MEAS_TEMP_LOGIC) ++ leBytes 1 s.heldByte ++
    leBytes 1 0)).useFree)

/-- SUBSCRIBE (R39, R42): the endpoint's class mask. -/
def bodySubscribe : Body := fixedLen 8 (fun c s =>
  let m := leVal c.pl
  let rest := s.cmd.subs.filter (fun (b : Subscr) => !(b.tp == c.key.tp && b.ep == c.key.ep))
  ({ s with cmd := { s.cmd with subs := rest ++ [({ tp := c.key.tp, ep := c.key.ep, mask := m } : Subscr)] } }).ok c.key (leBytes 8 m))

/-- RESET (R41): replied OK; the reset follows. The most severe of several levels asked for stands. -/
def bodyReset : Body := fixedLen 1 (fun c s =>
  let l := leVal c.pl
  if 2 < l then s.badParam c.key 0 else
  let m := match s.cmd.resetLvl with | some x => min x l | none => l
  ({ s with cmd := { s.cmd with resetLvl := some m } }).ok c.key [])

/-- A slot holds the class key of a class (R44, R381). -/
def State.classKey (s : State) (slot cls : Nat) : Option (List Byte) :=
  match s.slot slot with
  | some x => if bit x.usage 6 && x.arg == cls then some x.key else none
  | none => none

/-- OPEN_CHALLENGE (R43 to R45, R381, R390). SERVICE off the USB service port is NOT_PERMITTED. -/
def bodyOpenChallenge : Body := fixedLen 2 (fun c s =>
  let cls := leAt c.pl 0 1
  let slot := leAt c.pl 1 1
  if s.locked c.key.tp then
    s.finish c.key stLockedOut (leBytes 2 (cdiv (tblGet s.cmd.lockUntil c.key.tp - s.now) 1000000000))
  else if 4 < cls then s.badParam c.key 0
  else if cls = 4 ∧ c.key.tp ≠ 3 then s.finish c.key stNotPermitted (leBytes 1 4)
  else if (s.classKey slot cls).isNone then s.badParam c.key 1
  else if !s.flag F.ENCL_STAT_TRNG then s.failed c.key 0x0F09
  else
    let n : Nonce := { tp := c.key.tp, ep := c.key.ep, cls := cls, slot := slot, bytes := s.rand 16, at_ := s.now }
    let rest := s.cmd.nonces.filter (fun (x : Nonce) => !(x.tp == c.key.tp && x.ep == c.key.ep))
    (({ s with cmd := { s.cmd with nonces := n :: rest } }).useFree).ok c.key n.bytes)

/-- A SESS value that no open session has: the device's choice (R44). -/
def State.newSessId (s : State) : Nat :=
  match firstBelow 17 (fun i => (s.findSess (1 + (s.freeNat + i) % 0xFFFE)).isNone) with
  | some i => 1 + (s.freeNat + i) % 0xFFFE
  | none => 1

/-- Open a session with a class key (R43, R44): the seventeenth is LIMIT_REACHED, whose identifier no rule gives. -/
def State.openSess (s : State) (c : Ctx) (n : Nonce) (key : List Byte) : State :=
  if 16 ≤ s.cmd.sess.length then (s.limit c.key s.freeNat).useFree else
  let id := s.newSessId
  let sk := fitBytes 16 (Config.hkdf256 key (n.bytes ++ c.pl.take 16) (asc "KCMD" ++ leBytes 1 n.cls ++ leBytes 1 c.key.tp) 16)
  let x : Sess := { id := id, cls := n.cls, tp := c.key.tp, ep := c.key.ep, key := sk, lastAt := s.now }
  (({ s with cmd := { s.cmd with sess := s.cmd.sess ++ [x] } }).useFree).ok c.key (leBytes 2 id ++ leBytes 2 s.idleS)

/-- OPEN_RESPONSE (R43 to R45, R381): the nonce serves once; a CMAC that does not match, or no live nonce, is a failure. -/
def bodyOpenResponse : Body := fixedLen 32 (fun c s =>
  let mine := fun (x : Nonce) => x.tp == c.key.tp && x.ep == c.key.ep
  let s1 := { s with cmd := { s.cmd with nonces := s.cmd.nonces.filter (fun x => !mine x) } }
  match s.cmd.nonces.find? mine with
  | none => (s1.authFail c.key.tp).finish c.key stAuthFailed []
  | some n =>
    let msg := n.bytes ++ c.pl.take 16 ++ leBytes 1 n.cls ++ leBytes 1 c.key.tp
    match s1.classKey n.slot n.cls with
    | none => (s1.authFail c.key.tp).finish c.key stAuthFailed []
    | some key =>
      if s1.now < n.at_ + 10000000000 ∧ Config.cmac key msg = c.pl.drop 16 then s1.openSess c n key
      else (s1.authFail c.key.tp).finish c.key stAuthFailed [])

/-- CLOSE (R45): replied, then the session closes. -/
def bodyClose : Body := fixedLen 0 (fun c s =>
  match c.sess with
  | none => s.finish c.key stNoSession []
  | some x => (s.ok c.key []).closeSess x.id)

/-- MAINT_ACQUIRE (R47): every held token is checked against the matrix; a session that holds one already is in the wrong
state. -/
def bodyMaintAcquire : Body := fixedLen 3 (fun c s =>
  let cls := leAt c.pl 0 1
  let lease := leAt c.pl 1 2
  match c.sess with
  | none => s.finish c.key stNoSession []
  | some x =>
    if 5 < cls then s.badParam c.key 0
    else if lease < 1 ∨ 3600 < lease then s.badParam c.key 1
    else match s.maintBlock cls with
      | some t => (s.finish c.key stBusyMaint (s.holder t)).raise 404
      | none =>
        match s.cmd.tokens.find? (fun (t : Token) => t.tp != 7 && t.sess == x.id) with
        | some t => s.wrongState c.key t.cls
        | none =>
          let t : Token := { cls := cls, tp := x.tp, ep := x.ep, sess := x.id, until_ := s.now + lease * 1000000000 }
          ({ s with cmd := { s.cmd with tokens := s.cmd.tokens ++ [t] } }).ok c.key (leBytes 2 lease))

/-- MAINT_RELEASE (R48). -/
def bodyMaintRelease : Body := fixedLen 0 (fun c s =>
  match c.sess with
  | none => s.finish c.key stNoSession []
  | some x => (s.dropToken x.id).ok c.key [])

/-- IDENTIFY (R39). -/
def execIdentify (r : Req) (s : State) : Host.Outcome State Fault Refusal := .next (s.opcode r 1 1 bodyIdentify)

/-- GET_STATUS (R39). -/
def execGetStatus (r : Req) (s : State) : Host.Outcome State Fault Refusal := .next (s.opcode r 1 2 bodyGetStatus)

/-- SUBSCRIBE (R42). -/
def execSubscribe (r : Req) (s : State) : Host.Outcome State Fault Refusal := .next (s.opcode r 1 3 bodySubscribe)

/-- RESET (R41). -/
def execReset (r : Req) (s : State) : Host.Outcome State Fault Refusal := .next (s.opcode r 1 4 bodyReset)

/-- OPEN_CHALLENGE (R44). -/
def execOpenChallenge (r : Req) (s : State) : Host.Outcome State Fault Refusal := .next (s.opcode r 2 1 bodyOpenChallenge)

/-- OPEN_RESPONSE (R44). -/
def execOpenResponse (r : Req) (s : State) : Host.Outcome State Fault Refusal := .next (s.opcode r 2 2 bodyOpenResponse)

/-- CLOSE (R45). -/
def execClose (r : Req) (s : State) : Host.Outcome State Fault Refusal := .next (s.opcode r 2 3 bodyClose)

/-- MAINT_ACQUIRE (R47). -/
def execMaintAcquire (r : Req) (s : State) : Host.Outcome State Fault Refusal := .next (s.opcode r 2 4 bodyMaintAcquire)

/-- MAINT_RELEASE (R48). -/
def execMaintRelease (r : Req) (s : State) : Host.Outcome State Fault Refusal := .next (s.opcode r 2 5 bodyMaintRelease)

/-- CMD_PACKET_DISCARD (R32, R59): a packet that fails SYNC, CRC, LEN or TYPE is counted and raised. -/
def execCmdPacketDiscard (tp : Fin 6) (bytes : List Byte) (s : State) : Host.Outcome State Fault Refusal :=
  .next (if !s.tpOn tp.val then s else
    match pktCheck bytes with
    | some .len => s.discard tp.val false
    | some _ => s.discard tp.val true
    | none =>
      let t := (parsePkt bytes).type
      if t = 0 ∨ (tp.val = 4 ∧ (t = 1 ∨ t = 3)) then s else s.discard tp.val false)

/-- CMD_PACKET_FORWARD (R53, R177): a sound request for another device, or for every device. -/
def execCmdPacketForward (tp : Fin 6) (ep : Nat) (bytes : List Byte) (s : State) : Host.Outcome State Fault Refusal :=
  let p := parsePkt bytes
  .next (if s.tpOn tp.val && (pktCheck bytes).isNone && p.type == 0 && p.addr != 0 && p.addr != s.ownAddr then
      if !s.fits tp.val p then s.discard tp.val false
      else if p.addr = 0xFFF then s.cmdCast tp.val p else s.forward tp.val ep p
    else s)

/-- CMD_FORWARD_TIMEOUT (R177): a forwarded request without a reply for 1 s is answered TIMEOUT. -/
def execCmdForwardTimeout (k : ReqKey) (s : State) : Host.Outcome State Fault Refusal :=
  let mine := fun (w : Fwd) => w.tp == k.tp.val && w.ep == k.ep && w.seq == k.seq.toNat && !w.acc
  .next (match s.cmd.fwd.find? mine with
    | none => s
    | some w =>
      let s1 := ({ s with cmd := { s.cmd with fwd := s.cmd.fwd.filter (fun x => !mine x) } }).syncOut w.tp
      s1.sendBytes w.tp w.ep (s1.replyPkt w.src w.seq w.grp w.op w.sess 1 stTimeout [] (s1.inSess w.tp w.ep w.sess)).bytes)

/-- CMD_COMPLETION (R36): the work of an ACCEPTED request finishes. -/
def execCmdCompletion (k : ReqKey) (stat : BitVec 8) (payload : List Byte) (s : State) : Host.Outcome State Fault Refusal :=
  .next (match s.findOutst (keyOf k) with
    | some o => if o.accepted then s.finish (keyOf k) stat.toNat payload else s
    | none => s)

/-- CMD_ACCEPTED_DEADLINE (R36): work unfinished after 2 ms. -/
def execCmdAcceptedDeadline (k : ReqKey) (s : State) : Host.Outcome State Fault Refusal := .next (s.accept (keyOf k))

/-- SESSION_NONCE_EXPIRY (R44). -/
def execSessionNonceExpiry (tp : Fin 6) (ep : Nat) (s : State) : Host.Outcome State Fault Refusal :=
  .next { s with cmd := { s.cmd with nonces := s.cmd.nonces.filter (fun (x : Nonce) => !(x.tp == tp.val && x.ep == ep)) } }

/-- SESSION_IDLE_TIMEOUT (R45, R48). -/
def execSessionIdleTimeout (sess : BitVec 16) (s : State) : Host.Outcome State Fault Refusal :=
  .next (if (s.findSess sess.toNat).isSome then s.closeSess sess.toNat else s)

/-- LOCKOUT_END (R45). -/
def execLockoutEnd (tp : Fin 6) (s : State) : Host.Outcome State Fault Refusal :=
  .next { s with cmd := { s.cmd with lockUntil := tblErase s.cmd.lockUntil tp.val } }

/-- MAINT_LEASE_EXPIRY (R48). -/
def execMaintLeaseExpiry (cls : Fin 6) (s : State) : Host.Outcome State Fault Refusal :=
  .next (match s.cmd.tokens.find? (fun (t : Token) => t.cls == cls.val && t.tp != 7) with
    | some t => s.dropToken t.sess
    | none => s)

/-- RESET_DELAY_EXPIRY (R41): the reset that was replied to is requested (R458); of level 0 or 1 it ends a storm (R456). -/
def execResetDelayExpiry (s : State) : Host.Outcome State Fault Refusal :=
  .next (match s.cmd.resetLvl with
    | some l => ({ s with cmd := { s.cmd with resetLvl := none }, pwr := { s.pwr with endStorm := s.pwr.endStorm || decide (l ≤ 1) } }).reqReset 13 (some l)
    | none => s)

end Sys2Proof.Machine
end

