-- ==== Sys2Proof/Machine/Upd.lean ====
section
/-! DEFINITION. Firmware banks and staging (R409 to R415), the boot choice (R416, R465), trial and confirmation (R417 to R420),
forwarding (R422), the recovery loader's package (R466), and the USB service port (R423, R425). -/
namespace Sys2Proof.Machine

/-! Banks, manifests and components (R409 to R411). -/

/-- Bank offset of a component's slot (R409). -/
def slotOff (c : Nat) : Nat :=
  match c with
  | 1 => 0x010000
  | 2 => 0x110000
  | 3 => 0x710000
  | 4 => 0x910000
  | 5 => 0xA10000
  | _ => 0xA90000

/-- Size of a component's slot (R409). -/
def slotSize (c : Nat) : Nat :=
  match c with
  | 1 => 0x100000
  | 2 => 0x600000
  | 3 => 0x200000
  | 4 => 0x100000
  | 5 => 0x080000
  | _ => 0x200000

/-- The components, by ID. -/
def comps : List Nat := [1, 2, 3, 4, 5, 6]

/-- Bytes of the manifest (R411). -/
def manLen : Nat := 1072

/-- A field of a component's manifest entry (R411). -/
def ent (m : List Byte) (c off n : Nat) : Nat := leAt m (16 + 144 * (c - 1) + off) n

/-- KIND, IV, SIZE, DLEN and the requirement on `d` of an entry (R411). -/
def entKind (m : List Byte) (c : Nat) : Nat := ent m c 1 1
def entIv (m : List Byte) (c : Nat) : Nat := ent m c 2 2
def entSize (m : List Byte) (c : Nat) : Nat := ent m c 8 4
def entDlen (m : List Byte) (c : Nat) : Nat := ent m c 12 4
def entReq (m : List Byte) (c d : Nat) : Nat := ent m c (16 + 2 * (d - 1)) 2

/-- A requirement is satisfied by an interface version (R410). -/
def reqOk (req iv : Nat) : Bool := req == 0 || (iv / 256 == req / 256 && decide (req % 256 ≤ iv % 256))

/-- The component has a requirement that its own set does not satisfy (R410). -/
def setClash (m : List Byte) (c : Nat) : Bool := comps.any (fun d => d != c && !reqOk (entReq m c d) (entIv m d))

/-- The manifest of the set at a base. -/
def State.manifest (s : State) (base : Nat) : List Byte := s.mbytes base manLen

/-- The image of a component of the set at a base. -/
def State.image (s : State) (base c : Nat) : List Byte := s.mbytes (base + slotOff c) (entSize (s.manifest base) c)

/-- MAGIC, VER and layout of a manifest are valid (R411). -/
def manOk (m : List Byte) : Bool :=
  leAt m 0 2 == 0x4B4D && leAt m 2 1 == 1 &&
  comps.all (fun c => ent m c 0 1 == c && decide (entKind m c ≤ 2) && decide (entSize m c ≤ slotSize c))

/-- The manifest's SVN, 0 when it is unreadable (R426). -/
def manSvn (m : List Byte) : Nat := if manOk m then leAt m 4 2 else 0

/-! Bank status (R414). -/

/-- State of a bank. -/
def State.bankSt (s : State) (b : Nat) : Nat := (tblGet s.upd.banks b).state

/-- The bank running, when one is (R421). -/
def State.runBank (s : State) : Option Nat := if s.upd.recov = 0 then some (s.f F.UPD_STAT_BANK) else none

/-- The other bank. -/
def State.otherBank (s : State) : Nat := 1 - s.f F.UPD_STAT_BANK

/-- The 32 bytes of a status record (R414). -/
def bankRecBytes (r : BankRec) (sec : Nat) : List Byte :=
  let b := leBytes 4 r.seq ++ leBytes 1 r.state ++ leBytes 1 r.tries ++ leBytes 2 r.cause ++ leBytes 1 r.comp ++
           leBytes 1 r.applied ++ leBytes 2 0 ++ leBytes 4 sec
  let b1 := b ++ List.replicate 12 0#8
  b1 ++ leBytes 4 (crc32c b1)

/-- Append a record to a bank's status area (R414); an area that is full is erased first. -/
def State.bankRec (s : State) (b st tries cause comp applied : Nat) : State :=
  let o := tblGet s.upd.banks b
  let area := bankBase b + 0x17F0000
  let (m, n) := if 2048 ≤ o.count then (memClear s.mem area 0x10000, 0) else (s.mem, o.count)
  let r : BankRec := { seq := (o.seq + 1) % 2 ^ 32, state := st, tries := tries, cause := cause, comp := comp,
                       applied := applied, count := n + 1 }
  { s with mem := memPut m (area + 32 * n) (bankRecBytes r (s.dtime / 1000000000 % 2 ^ 32)),
           upd := { s.upd with banks := tblSet s.upd.banks b r } }

/-- Record a new state of a bank, its other fields kept. -/
def State.bankTo (s : State) (b st cause comp : Nat) : State :=
  let o := tblGet s.upd.banks b
  s.bankRec b st o.tries cause comp o.applied

/-- The anti-rollback floor: the highest programmed word (R419). -/
def State.floor (s : State) : Nat := (s.upd.floors.getLast?).getD 0

/-- A set's signer is that of fuse slot `k` (R419). -/
def signerIs (m : List Byte) (k : Nat) : Bool := Config.sha384 ((m.drop 880).take 96) == Config.fuseSigner k

/-! Staging (R412, R413, R415). -/

/-- UPD_STAT.BUSY follows staging and forwarding (R426). -/
def State.updBusy (s : State) : State := s.setFlag F.UPD_STAT_BUSY (s.upd.staging || s.upd.fwd.isSome)

/-- Change the Update Manager. -/
def State.modUpd (s : State) (g : UpdSt → UpdSt) : State := ({ s with upd := g s.upd }).updBusy

/-- The token a saltern peer's staging takes (R422), or the one in its way. -/
def State.peerToken (s : State) (c : Ctx) : Option Token :=
  if c.sess.isSome || s.upd.recov == 1 then none else
  s.cmd.tokens.find? (fun (t : Token) => maintConflict t.cls 0 && !(t.tp == 4 && t.ep == c.key.ep && t.cls == 0))

/-- Hold the UPD token for a peer (R422). -/
def State.takePeer (s : State) (c : Ctx) : State :=
  if c.sess.isSome || s.upd.recov == 1 then s else
  let t : Token := { cls := 0, tp := 4, ep := c.key.ep, sess := 0xFFFF, until_ := s.now }
  { s with cmd := { s.cmd with tokens := s.cmd.tokens.filter (fun (x : Token) => !(x.tp == 4 && x.ep == c.key.ep)) ++ [t] } }

/-- A peer's token ends with its staging. -/
def State.dropPeer (s : State) (k : RKey) : State :=
  { s with cmd := { s.cmd with tokens := s.cmd.tokens.filter (fun (x : Token) => !(k.tp == 4 && x.tp == 4 && x.ep == k.ep)) } }

/-- Run a staging body for a peer only while no conflicting token is held (R422). -/
def peerGuard (b : Body) : Body := fun c s =>
  match s.peerToken c with
  | some t => (s.finish c.key stBusyMaint (s.holder t)).raise 404
  | none => b c (s.takePeer c)

/-- WRONG_STATE with the running bank's state; in recovery, where no bank runs, a free value (R38, R421). -/
def State.bankWrong (s : State) (k : RKey) : State :=
  match s.runBank with
  | some b => s.wrongState k (s.bankSt b)
  | none => (s.wrongState k (s.freeNat % 256)).useFree

/-- The running bank's state is `n`. -/
def State.runIs (s : State) (n : Nat) : Bool := match s.runBank with | some b => s.bankSt b == n | none => false

/-- Begin a package with an accepted header. -/
def State.pkgBegin (s : State) (pl : List Byte) : State :=
  s.modUpd (fun u => { u with staging := true, pkgLen := leAt pl 4 4, pkgFlags := leAt pl 3 1, pkgSet := leAt pl 8 4,
                              pkg := [], complete := false, apply := none })

/-- The request of a staging that is abandoned under its apply ends FAILED; no rule gives the cause. -/
def State.abandonApply (s : State) : State :=
  match s.upd.apply with
  | some k => (s.failed k s.freeNat).useFree
  | none => s

/-- STAGE_BEGIN (R411, R413, R466). -/
def bodyStageBegin : Body := peerGuard (fixedLen 16 (fun c s =>
  let n := leAt c.pl 4 4
  if s.upd.recov ≠ 1 ∧ s.runIs 4 = false then s.bankWrong c.key
  else if leAt c.pl 0 2 ≠ 0x4B50 then s.badParam c.key 0
  else if leAt c.pl 2 1 ≠ 1 then s.badParam c.key 2
  else if 3 < leAt c.pl 3 1 then s.badParam c.key 3
  else if n < manLen then s.badParam c.key 4
  else if 8388608 < n then s.limit c.key 0x0A01
  else if leAt c.pl 12 4 ≠ 0 then s.badParam c.key 12
  else
    let s1 := (s.abandonApply.stopServed 0).pkgBegin c.pl
    if s.upd.recov = 1 then s1.ok c.key []
    else
      let b := s.otherBank
      let s2 := { s1 with mem := memClear s1.mem (bankBase b) 0x1800000,
                          upd := { s1.upd with banks := tblSet s1.upd.banks b { tblGet s1.upd.banks b with count := 0 } } }
      (s2.bankRec b 1 0 0 0 0).ok c.key []))

/-- STAGE_DATA (R413, R466): the next bytes of the stream. -/
def bodyStageData : Body := peerGuard (fun c s =>
  let off := leAt c.pl 0 4
  let d := c.pl.drop 4
  if c.pl.length < 4 then s.badLen c.key 4
  else if !s.upd.staging || s.upd.apply.isSome then s.bankWrong c.key
  else if off ≠ s.upd.pkg.length then s.badParam c.key 0
  else if 4096 < d.length ∨ s.upd.pkgLen < off + d.length then s.badParam c.key 4
  else
    let s1 := s.modUpd (fun u => { u with pkg := u.pkg ++ d, complete := u.pkg.length + d.length == u.pkgLen })
    let s2 := if s.upd.recov = 1 then s1.mputBytes off d else s1
    s2.ok c.key [])

/-- STAGE_END (R413, R466): accepted; an incomplete package fails at once, a complete one is applied. -/
def bodyStageEnd : Body := peerGuard (fixedLen 0 (fun c s =>
  if !s.upd.staging || s.upd.apply.isSome then s.bankWrong c.key
  else
    let s1 := s.accept c.key
    if !s.upd.complete then (s1.failed c.key 0x0A11).raise 433
    else
      let s2 := (s1.setF F.UPD_STAT_APPLIED 0).modUpd (fun u => { u with apply := some c.key })
      if s.upd.recov = 1 then s2 else s2.mputBytes (bankBase s.otherBank) (s.upd.pkg.take manLen)))

/-- A component depends on another that the package changes and whose running version does not satisfy it (R415). -/
def depends (new old : List Byte) (c d : Nat) : Bool :=
  d != c && (entKind new d == 1 || entKind new d == 2) && !reqOk (entReq new c d) (entIv old d)

/-- The next component to apply: unchanged ones first, then the lowest whose dependencies are applied, else the lowest (R415). -/
def nextComp (new old : List Byte) (left : List Nat) : Option Nat :=
  match left.find? (fun c => entKind new c == 0) with
  | some c => some c
  | none =>
    match left.find? (fun c => !left.any (fun d => depends new old c d)) with
    | some c => some c
    | none => left.head?

/-- The apply order (R415). -/
def applyOrder (new old : List Byte) : Nat → List Nat → List Nat
  | 0, _ => []
  | n + 1, left =>
    match nextComp new old left with
    | some c => c :: applyOrder new old n (left.filter (fun d => d != c))
    | none => []

/-- Carry out a delta record (R412): the image, or none where an operation cannot be carried out. -/
def deltaRun (src : Nat → Option (List Byte)) (size : Nat) : Nat → List Byte → List Byte → Option (List Byte)
  | 0, _, _ => none
  | n + 1, r, acc =>
    match r with
    | [] => none
    | op :: _ =>
      if op.toNat = 0 then (if acc.length = size then some acc else none)
      else if op.toNat = 1 then
        let off := leAt r 4 4
        let len := leAt r 8 4
        if r.length < 12 ∨ size < acc.length + len then none else
        match src (leAt r 1 1) with
        | none => none
        | some im => if im.length < off + len then none
                     else deltaRun src size n (r.drop 12) (acc ++ (im.drop off).take len)
      else if op.toNat = 2 then
        let len := leAt r 4 4
        if r.length < 8 + len ∨ size < acc.length + len then none
        else deltaRun src size n (r.drop (8 + len)) (acc ++ (r.drop 8).take len)
      else none

/-- Stream offset of a component's record: manifest, then the records in entry order (R411). -/
def recPos (m : List Byte) (c : Nat) : Nat := manLen + ((comps.filter (fun d => decide (d < c))).map (entDlen m)).foldl (· + ·) 0

/-- The new image of a component (R412, R413); none where its record cannot be carried out. `done` are the IDs applied. -/
def State.newImage (s : State) (m : List Byte) (done : List Nat) (c : Nat) : Option (List Byte) :=
  let size := entSize m c
  let pos := recPos m c
  let r := (s.upd.pkg.drop pos).take (entDlen m c)
  let run := bankBase (s.f F.UPD_STAT_BANK)
  if slotSize c < size then none
  else if entKind m c = 0 then some (s.mbytes (run + slotOff c) size)
  else if s.upd.pkg.length < pos + entDlen m c then none
  else if entKind m c = 2 then (if r.length < size then none else some (r.take size))
  else if entKind m c = 1 then
    deltaRun (fun k => if k = 0 then some (s.image run c) else if done.contains k then some (s.image (bankBase s.otherBank) k)
      else none) size (r.length + 1) r []
  else none

/-- A bit mask of component IDs (R414 APPLIED). -/
def compMask (l : List Nat) : Nat := l.foldl (fun x c => putBit x (c - 1) true) 0

/-- Apply components in order, each recorded in the status area (R413); the IDs applied, and whether all went well. -/
def State.applyAll (m : List Byte) : List Nat → List Nat → State → State × List Nat × Bool
  | [], done, s => (s, done, true)
  | c :: cs, done, s =>
    match s.newImage m done c with
    | none => (s, done, false)
    | some im =>
      let done1 := done ++ [c]
      let s1 := s.mputBytes (bankBase s.otherBank + slotOff c) im
      let s2 := (s1.bankRec s.otherBank 1 0 0 c (compMask done1)).setF F.UPD_STAT_APPLIED (compMask done1)
      State.applyAll m cs done1 s2

/-- The apply of a complete package ends (R413). -/
def State.stageApply (s : State) (k : RKey) : State :=
  let m := s.upd.pkg.take manLen
  let order := applyOrder m (s.manifest (bankBase (s.f F.UPD_STAT_BANK))) 6 comps
  let (s1, done, good) := s.applyAll m order []
  let s2 := (s1.modUpd (fun u => { u with apply := none, staging := false })).dropPeer k
  if good then
    let s3 := ((s2.bankRec s2.otherBank 2 0 0 0 (compMask done)).raise 432).ok k (leBytes 1 6)
    s3.modUpd (fun u => { u with resetDue := bit u.pkgFlags 0 })
  else
    ((s2.bankRec s2.otherBank 7 0 0x0A12 0 (compMask done)).finish k stFailed
      (leBytes 2 0x0A12 ++ leBytes 1 done.length)).raise 433

/-! Checks of a firmware set at boot (R416, R466). -/

/-- Why a set at a base is refused: cause and component; none when it passes. -/
def State.setCheck (s : State) (base : Nat) : Option (Nat × Nat) :=
  let m := s.manifest base
  let signer := (m.drop 880).take 96
  if !manOk m then some (0x0A23, 0)
  else if !((List.range 4).any (fun k => signerIs m k && !bit s.upd.revoked k) &&
      Config.ecdsaVerify 3 signer (Config.sha384 (m.take 976)) ((m.drop 976).take 96)) then some (0x0A10, 0)
  else if leAt m 4 2 < s.floor then some (0x0A21, 0)
  else match comps.find? (fun c => Config.sha384 (s.image base c) != (m.drop (16 + 144 * (c - 1) + 80)).take 48) with
  | some c => some (0x0A20, c)
  | none =>
    match comps.find? (setClash m) with
    | some c => some (0x0A22, c)
    | none => none

/-- The running choice (R416): the TRIAL bank with TRIES below 3, else the CONFIRMED bank, else a SPARE bank. -/
def State.runningChoice (s : State) : Option Nat :=
  match firstBelow 2 (fun b => s.bankSt b == 3 && decide ((tblGet s.upd.banks b).tries < 3)) with
  | some b => some b
  | none => match firstBelow 2 (fun b => s.bankSt b == 4) with
    | some b => some b
    | none => firstBelow 2 (fun b => s.bankSt b == 5)

/-- A TRIAL bank on its third boot is recorded FALLEN (R416). -/
def State.trialFall (s : State) : State × Bool :=
  match firstBelow 2 (fun b => s.bankSt b == 3 && decide (3 ≤ (tblGet s.upd.banks b).tries)) with
  | some b => (s.bankTo b 6 0x0A31 0, true)
  | none => (s, false)

/-- The record of a bank that passes (R416): STAGED becomes TRIAL, TRIAL counts a boot, a SPARE bank that stands in for a
CONFIRMED bank that failed becomes CONFIRMED. -/
def State.bankPass (s : State) (b : Nat) (confFailed : Bool) : State :=
  let r := tblGet s.upd.banks b
  if r.state = 2 then s.bankRec b 3 1 0 0 r.applied
  else if r.state = 3 then s.bankRec b 3 (r.tries + 1) r.cause r.comp r.applied
  else if r.state = 5 ∧ confFailed then s.bankTo b 4 0 0
  else s

/-- Check candidates in turn (R416): the STAGED bank first, then the running choice; the bank that passes, if any. -/
def State.bootLoop : Nat → Bool → State → State × Option Nat
  | 0, _, s => (s, none)
  | n + 1, cf, s =>
    let cand := match firstBelow 2 (fun b => s.bankSt b == 2) with
      | some b => some b
      | none => s.runningChoice
    match cand with
    | none => (s, none)
    | some b =>
      match s.setCheck (bankBase b) with
      | none => (s.bankPass b cf, some b)
      | some (cause, comp) => State.bootLoop n (cf || s.bankSt b == 4) (s.bankTo b 7 cause comp)

/-- The bank of a boot (R416, R465); `alt` forces the bank other than the running choice as the first candidate. The last
result says that UPD_FALLBACK is due at the end of the start: a trial fell, or an UNFIT bank is left. -/
def State.bootChoose (s : State) (alt : Bool) : State × Option Nat × Bool :=
  let (s0, fell) := s.trialFall
  let unfitLeft := fun (b : Option Nat) => s.upd.unfitDue && (match b with | some b => s.bankSt b != 8 | none => false)
  let normal := fun (s : State) => let (s1, b) := s.bootLoop 5 false; (s1, b, fell || unfitLeft b)
  if alt then
    let b := match s0.runningChoice with | some r => 1 - r | none => 0
    match s0.setCheck (bankBase b) with
    | none => ((if s0.bankSt b = 2 then s0.bankPass b false else s0), some b, fell || unfitLeft (some b))
    | some (cause, comp) => normal (s0.bankTo b 7 cause comp)
  else normal s0

/-! Confirmation and fallback (R417 to R420). -/

/-- A TRIAL record of a bank is in the Crust store (R405). -/
def State.hasTrialRecs (s : State) (b : Nat) : Bool := s.crust.recs.any (fun r => r.trial && r.bank == b)

/-- Write a BANKMARK, or queue it while the store has no room or does not serve (R394, R402, R405). -/
def State.markBank (s : State) (b : Nat) (confirm : Bool) : State :=
  if s.hasTrialRecs b then
    (if s.crustServes then s.bankMark b confirm else none).getD
      (s.crustQueue { kind := 6, key := b + 2 * b2n confirm, off := 0, data := [], req := none })
  else s

/-- Raise the floor and revoke signers as the manifest of a confirmed set asks (R418 step 3, R419). -/
def State.raiseFloor (s : State) (b : Nat) : State :=
  let m := s.manifest (bankBase b)
  let fl := leAt m 6 2
  let rev := (List.range 4).foldl (fun x k => if bit (leAt m 3 1) k && !signerIs m k then putBit x k true else x) s.upd.revoked
  let s1 := { s with upd := { s.upd with revoked := rev } }
  if fl ≤ s.floor then s1
  else if 16 ≤ s.upd.floors.length then s1.raise 439
  else { s1 with upd := { s1.upd with floors := s1.upd.floors ++ [fl] } }

/-- Steps 2 and 3 of a confirmation (R418), which a start of a CONFIRMED bank also completes. -/
def State.confirmRest (s : State) (b : Nat) : State := (s.markBank b true).raiseFloor b

/-- Confirm the running trial (R418). -/
def State.confirmTrial (s : State) (b : Nat) : State :=
  let s1 := s.bankTo b 4 0 0
  let s2 := if s.bankSt (1 - b) = 4 then s1.bankTo (1 - b) 5 0 0 else s1
  ((s2.setF F.UPD_STAT_TRIAL 0).raise 435).confirmRest b

/-- The trial ends without confirmation (R417): FALLEN, UPD_FALLBACK, the Update Manager's reset. -/
def State.trialEnds (s : State) (cause : Nat) : State :=
  match s.runBank with
  | some b => if s.bankSt b = 3 then ((s.bankTo b 6 cause 0).raise 436).reqReset 15 none else s
  | none => s

/-- A Pan enters FAULT (R417): a trial that is not healthy yet ends. -/
def State.updPanFault (s : State) : State := if s.flag F.UPD_STAT_HEALTHY then s else s.trialEnds 0x0A30

/-- A Pan's cycle in RUN ends, well or with an overrun (R417). -/
def State.updCycle (s : State) (p : Nat) (good : Bool) : State :=
  if s.flag F.UPD_STAT_TRIAL then
    { s with upd := { s.upd with good := tblSet s.upd.good p (if good then tblGet s.upd.good p + 1 else 0) } }
  else s

/-- The conditions of a healthy trial (R417). -/
def State.trialHealthy (s : State) : Bool :=
  s.runIs 3 && s.upd.setOk &&
  (List.range 2).all (fun p => s.f (F.RAKE_PAN_CFG_AUTO p) == 0 || decide (16 ≤ tblGet s.upd.good p))

/-- TRIAL_HEALTHY (R417). -/
def execTrialHealthy (s : State) : Host.Outcome State Fault Refusal :=
  .next (if !s.trialHealthy || s.flag F.UPD_STAT_HEALTHY then s else
    let s1 := s.setF F.UPD_STAT_HEALTHY 1
    match s1.runBank with
    | some b => if s1.flag F.UPD_CTRL_AUTOCONF then s1.confirmTrial b else s1
    | none => s1)

/-- Seconds of the trial deadline that remain (R417, R424). -/
def State.confLeft (s : State) : Nat :=
  if s.runIs 3 then s.f F.UPD_CTRL_CONF_S - (s.now - s.upd.trialAt) / 1000000000 else 0

/-- TRIAL_DEADLINE_EXPIRY (R417). -/
def execTrialDeadlineExpiry (s : State) : Host.Outcome State Fault Refusal := .next (s.trialEnds 0x0A32)

/-- CONFIRM (R417): confirms a healthy trial. -/
def bodyConfirm : Body := fixedLen 0 (fun c s =>
  match s.runBank with
  | some b => if s.bankSt b = 3 ∧ s.flag F.UPD_STAT_HEALTHY then (s.confirmTrial b).ok c.key [] else s.bankWrong c.key
  | none => s.bankWrong c.key)

/-- UPD_STATUS (R424). -/
def bodyUpdStatus : Body := fixedLen 0 (fun c s =>
  let one := fun b =>
    let r := tblGet s.upd.banks b
    leBytes 1 r.state ++ leBytes 1 r.tries ++ leBytes 2 (manSvn (s.manifest (bankBase b))) ++ leBytes 2 r.cause ++
    leBytes 1 r.comp ++ leBytes 1 r.applied ++ leBytes 4 r.seq
  s.ok c.key (one 0 ++ one 1 ++ leBytes 1 s.activeBank ++
    leBytes 1 (s.f F.UPD_STAT_HEALTHY + 2 * s.f F.UPD_CTRL_AUTOCONF) ++ leBytes 2 s.floor ++ leBytes 2 s.confLeft))

/-- CONFIRM (R417). -/
def execConfirm (r : Req) (s : State) : Host.Outcome State Fault Refusal := .next (s.opcode r 10 5 bodyConfirm)

/-- UPD_STATUS (R424). -/
def execUpdStatus (r : Req) (s : State) : Host.Outcome State Fault Refusal := .next (s.opcode r 10 6 bodyUpdStatus)

/-- STAGE_BEGIN (R413). -/
def execStageBegin (r : Req) (s : State) : Host.Outcome State Fault Refusal := .next (s.opcode r 10 1 bodyStageBegin)

/-- STAGE_DATA (R413). -/
def execStageData (r : Req) (s : State) : Host.Outcome State Fault Refusal := .next (s.opcode r 10 2 bodyStageData)

/-- STAGE_END (R413). -/
def execStageEnd (r : Req) (s : State) : Host.Outcome State Fault Refusal := .next (s.opcode r 10 3 bodyStageEnd)

/-- The Update Manager reset follows a completion that has left the device (R413). -/
def execUpdResetDue (s : State) : Host.Outcome State Fault Refusal :=
  .next (if s.upd.resetDue then (s.modUpd (fun u => { u with resetDue := false })).reqReset 15 none else s)

/-- A UNFIT report of a component (R420): the log entry has component 0xA and the cause as its code (R399, R424). -/
def State.updUnfit (s : State) (w : Nat) : State :=
  if !bit w 31 then s else
  match s.runBank with
  | none => s
  | some b =>
    let cause := if bit w 19 then 0x0A41 else 0x0A40
    let s1 := (s.bankTo b 8 cause (bits w 18 16)).logAdd (0xA000 + cause % 0x1000) (w % 2 ^ 16)
    (({ s1 with upd := { s1.upd with setOk := false, unfitDue := true } }).raise 437).reqReset 15 none

/-- UPD_UNFIT_WRITE (R420). -/
def execUpdUnfitWrite (who : Who) (value : Word) (s : State) : Host.Outcome State Fault Refusal :=
  .next (s.regDo who A.UPD_UNFIT (fun s => s.updUnfit value.toNat))

/-! Forwarding (R422). -/

/-- The package header a forwarding device sends: FORWARDED set (R411, R422). -/
def UpdSt.header (u : UpdSt) : List Byte :=
  leBytes 2 0x4B50 ++ leBytes 1 1 ++ leBytes 1 (u.pkgFlags % 2 + 2) ++ leBytes 4 u.pkgLen ++ leBytes 4 u.pkgSet ++ leBytes 4 0

/-- Change the forwarding under way. -/
def State.modFwd (s : State) (g : FwdRun → FwdRun) : State := { s with upd := { s.upd with fwd := s.upd.fwd.map g } }

/-- Begin peers, in list order, while fewer than four are served; one without a route ends NO_ROUTE (R177, R422). -/
def State.fwdFill : Nat → State → State
  | 0, s => s
  | n + 1, s =>
    match s.upd.fwd with
    | none => s
    | some f =>
      match f.todo with
      | [] => s
      | a :: rest =>
        if 4 ≤ f.active.length then s
        else if (s.routeTo a).isNone then
          State.fwdFill n (s.modFwd (fun f => { f with todo := rest, done := f.done ++ [(a, stNoRoute)] }))
        else
          State.fwdFill n ((s.modFwd (fun f => { f with todo := rest, active := f.active ++ [(a, s.cmd.ownSeq, none)] })).peerRequest
            2 a 10 1 s.upd.header)

/-- A peer's staging has ended with a status; the next peer begins, unless the forwarding must stop (R48, R422). -/
def State.fwdPeerDone (s : State) (a stat : Nat) : State :=
  match s.upd.fwd with
  | none => s
  | some f =>
    if !f.active.any (fun x => x.1 == a) then s else
    let s1 := s.modFwd (fun f => { f with active := f.active.filter (fun x => x.1 != a), done := f.done ++ [(a, stat)] })
    if s1.mustStop 0 then s1.modFwd (fun f => { f with todo := [] }) else s1.fwdFill 65

/-- A peer's reply or completion to a staging request (R422): OK goes on with the stream, ACCEPTED waits for the completion,
anything else ends the peer. -/
def State.fwdReply (s : State) (a seq op stat : Nat) : State :=
  match s.upd.fwd with
  | none => s
  | some f =>
    match f.active.find? (fun x => x.1 == a && x.2.1 == seq) with
    | none => s
    | some (_, _, pos) =>
      if stat = stAccepted then s
      else if stat ≠ stOk ∨ op = 3 then s.fwdPeerDone a stat
      else
        let off := match pos with | none => 0 | some n => n
        let d := (s.upd.pkg.drop off).take 4092
        let s1 := s.modFwd (fun f => { f with active := f.active.map (fun x =>
          if x.1 == a then (a, s.cmd.ownSeq, some (off + d.length)) else x) })
        if s.upd.pkgLen ≤ off then s1.peerRequest 2 a 10 3 [] else s1.peerRequest 2 a 10 2 (leBytes 4 off ++ d)

/-- FORWARD (R422). -/
def bodyForward : Body := fun c s =>
  let n := leAt c.pl 0 2
  let as := (List.range n).map (fun i => leAt c.pl (2 + 2 * i) 2)
  if c.pl.length < 4 then s.badLen c.key 4
  else if c.pl.length % 2 ≠ 0 ∨ 130 < c.pl.length then s.badLen c.key (min 130 (c.pl.length - 1))
  else if n < 1 ∨ 64 < n then s.badParam c.key 0
  else if c.pl.length ≠ 2 + 2 * n then s.badLen c.key (2 + 2 * n)
  else match firstBelow n (fun i => !(decide (1 ≤ as.getD i 0) && decide (as.getD i 0 ≤ 0xFFE))) with
  | some i => s.badParam c.key (2 + 2 * i)
  | none =>
    if !s.upd.complete || s.upd.fwd.isSome then s.bankWrong c.key
    else
      let s1 := (s.stopServed 0).modUpd (fun u => { u with fwd := some ⟨c.key, as, [], [], as⟩ })
      (s1.accept c.key).fwdFill 65

/-- FORWARD (R422). -/
def execForward (r : Req) (s : State) : Host.Outcome State Fault Refusal := .next (s.opcode r 10 4 bodyForward)

/-- FORWARD_PEER_DONE (R422): a peer's STAGE_END completes, or its staging ends with another status. -/
def execForwardPeerDone (addr : BitVec 12) (stat : BitVec 8) (s : State) : Host.Outcome State Fault Refusal :=
  .next (s.fwdPeerDone addr.toNat stat.toNat)

/-- FORWARD_DONE (R422): every address has a status; the completion carries them. -/
def execForwardDone (s : State) : Host.Outcome State Fault Refusal :=
  .next (match s.upd.fwd with
    | none => s
    | some f =>
      if !f.active.isEmpty || !f.todo.isEmpty then s else
      let s1 := s.modUpd (fun u => { u with fwd := none })
      if s1.mustStop 0 then s1.failStopped f.key 0 else
      (s1.ok f.key (f.all.flatMap (fun a => leBytes 2 a ++
        leBytes 1 (match f.done.find? (fun x => x.1 == a) with | some x => x.2 | none => stTimeout) ++ leBytes 1 0))).raise 438)

/-! The recovery loader's package (R466, R467). -/

/-- Each record of the package, taken as the full image of SIZE bytes, placed at its bank offset in shared SRAM. -/
def State.loaderPlace (s : State) : State :=
  let m := s.upd.pkg.take manLen
  let one := fun (sp : State × Nat) c =>
    (sp.1.mputBytes (0x00800000 + slotOff c) ((s.upd.pkg.drop sp.2).take (min (entSize m c) (slotSize c))), sp.2 + entSize m c)
  (comps.foldl one (s.mputBytes 0x00800000 m, manLen)).1

/-- The loader's check of a complete package ends (R466): a failure completes STAGE_END with its cause and the loader waits for
another; the firmware of a package that passes starts. -/
def State.loaderEnd (s : State) (start : State → State) : State :=
  match s.upd.apply with
  | none => s
  | some k =>
    let s1 := (s.modUpd (fun u => { u with apply := none, staging := false, complete := false })).loaderPlace
    match s1.setCheck 0x00800000 with
    | some (cause, _) => s1.failed k cause
    | none => start (s1.ok k (leBytes 1 6))

/-! The service port (R423, R425). -/

/-- The pull-up follows EN and VBUS; a port that detaches is no longer configured. -/
def State.usbAttach (s : State) : State :=
  let a := s.flag F.USBS_CTRL_EN && s.flag F.USBS_STAT_VBUS
  let s1 := s.setFlag F.USBS_STAT_ATTACHED a
  if a then s1 else ((s1.setF F.USBS_STAT_CONFIGURED 0).setF F.USBS_STAT_HS 0).setF F.USBS_STAT_SUSPENDED 0

/-- A write of USBS_CTRL (R423, R426). -/
def State.usbCtrl (s : State) (w : Nat) : State :=
  ((s.setF F.USBS_CTRL_EN (bits w 0 0)).setF F.USBS_CTRL_CONSOLE (bits w 1 1)).usbAttach

/-- USBS_CTRL_WRITE (R423). -/
def execUsbsCtrlWrite (who : Who) (value : Word) (s : State) : Host.Outcome State Fault Refusal :=
  .next (s.regDo who A.USBS_CTRL (fun s => s.usbCtrl value.toNat))

/-- USB_VBUS appears or disappears: removal closes the sessions of transport 3 and releases their tokens (R423, R425, R48). -/
def execUsbVbusChange (present : Bool) (s : State) : Host.Outcome State Fault Refusal :=
  .next (if s.flag F.USBS_STAT_VBUS = present then s else
    let s1 := (s.setFlag F.USBS_STAT_VBUS present).usbAttach
    let s2 := if present then s1 else
      (s1.cmd.sess.filter (fun (x : Sess) => x.tp == 3)).foldl (fun s x => s.closeSess x.id) s1
    (s2.raise 440).when present (fun s => s.parkWake 5 0))

/-- USB_CONFIGURE (R425): the host configures the attached port at a speed, or resets it. -/
def execUsbConfigure (configured hs : Bool) (s : State) : Host.Outcome State Fault Refusal :=
  .next (if !s.flag F.USBS_STAT_ATTACHED then s else
    (((s.setFlag F.USBS_STAT_CONFIGURED configured).setFlag F.USBS_STAT_HS hs).setF F.USBS_STAT_SUSPENDED 0).raise 441)

end Sys2Proof.Machine
end

