-- ==== Sys2Proof/Machine/Maps.lean ====
section
/-! DEFINITION. Image maps (R139 to R143) and the image fields of the resource classes (R211, R268, R295, R319, R326, R335,
R367, R483). -/
namespace Sys2Proof.Machine

/-! Entries (R139). -/

/-- Fields of a map entry. -/
def eImg (e : Nat) : Nat := bits e 21 0
def eWid (e : Nat) : Nat := bits e 24 22
def eOut (e : Nat) : Bool := bit e 25
def eNul (e : Nat) : Bool := bit e 26
def eGrp (e : Nat) : Nat := bits e 29 27
def eTen (e : Nat) : Bool := bit e 30
def eCls (e : Nat) : Nat := bits e 35 32
def eIdx (e : Nat) : Nat := bits e 51 36
def eOff (e : Nat) : Nat := bits e 57 52
def eFld (e : Nat) : Nat := bits e 63 58

/-- Image byte of an entry. -/
def eByte (e : Nat) : Nat := eImg e / 8

/-- Bytes an entry covers in the image; a 1-bit entry lies in one. -/
def eBytes (e : Nat) : Nat := if eWid e = 0 then 1 else 2 ^ (eWid e - 1)

/-- Image bits an entry covers. -/
def eBits (e : Nat) : Nat := if eWid e = 0 then 1 else 8 * eBytes e

/-- The entry moves data, as an input or as an output. -/
def eIn (e : Nat) : Bool := !eNul e && !eOut e
def eOutp (e : Nat) : Bool := !eNul e && eOut e

/-- The resource an output entry drives, as PINOWN names it (R140, R478). -/
def eRes (e : Nat) : Nat :=
  let n := eIdx e
  match eCls e with
  | 0 => resId 1 n
  | 1 => resId 2 n
  | 2 => resId 3 n
  | 3 => if n < 32 then resId 4 n else if n < 0x200 then resId 5 (n - 0x100) else resId 7 (n - 0x200)
  | 5 => resId 8 (64 * (n / 2048) + (n % 2048 - 1024))
  | _ => resId 12 n

/-! The classes' fields. -/

/-- A 1-bit entry names a bit below `n`; a wider one has the width code and offset given. -/
def subOk (wid off n w : Nat) : Bool := if wid = 0 then decide (off < n) else wid == w && off == 0

/-- The class, index, field, width, offset and direction of an entry exist (R211, R268, R295, R319, R326, R335, R367, R483). -/
def State.fieldOk (s : State) (e : Nat) : Bool :=
  let n := eIdx e
  let w := eWid e
  let o := eOff e
  let out := eOut e
  let one := w == 0 && o == 0
  match eCls e with
  | 0 => decide (n < 48) && (match eFld e with
    | 0 | 3 => out && one
    | 1 => out && w == 2 && o == 0
    | 2 => out && w == 1 && o == 0
    | 8 => !out && subOk w o 16 2
    | 9 => !out && ((w == 2 && (o == 0 || o == 2)) || (w == 3 && o == 0))
    | 10 => !out && w == 1 && o == 0
    | _ => false)
  | 1 => decide (n < 12) && (match eFld e with
    | 0 | 2 => out && one
    | 1 => out && w == 3 && o == 0
    | 8 => !out && subOk w o 16 2
    | 9 => !out && w == 3 && o == 0
    | 10 => !out && ((w == 2 && (o == 0 || o == 2)) || (w == 3 && o == 0))
    | _ => false)
  | 2 => decide (n < 64) && (match eFld e with
    | 0 => !out && one
    | 1 | 2 => out && one && s.dioMode n == 3
    | 3 => !out && o == 0 && ((w == 3 && (n == 0 || n == 32)) || (w == 4 && n == 0))
    | 8 => !out && subOk w o 16 2
    | _ => false)
  | 3 =>
    if n < 32 then (match eFld e with
      | 0 | 1 => out && w == 2 && o == 0
      | 8 => !out && subOk w o 16 2
      | _ => false)
    else if 0x100 ≤ n ∧ n < 0x200 then s.flag F.LED_LMX_CTRL_EN && (match eFld e with
      | 0 => out && w == 1 && o == 0
      | 8 => !out && one
      | _ => false)
    else decide (0x200 ≤ n) && decide (n < 0x208) && (match eFld e with
      | 2 => out && one
      | 8 => !out && w == 1 && o == 0
      | _ => false)
  | 4 => !out && o == 0 && (s.measGet n).isSome && (match eFld e with
    | 0 => w == 3
    | 1 => w == 1
    | _ => false)
  | 5 => canFieldOk n (eFld e) w o out
  | 6 => !out && n == 0 && (match eFld e with
    | 0 => one
    | 1 => w == 1 && o == 0
    | 2 => subOk w o 8 1
    | 3 => w == 3 && o == 0
    | _ => false)
  | 7 => decide (n < 32) && (match eFld e with
    | 0 => !out && one
    | 1 => out && one && (s.f (F.GPIO_N_CFG_MODE n) == 1 || s.f (F.GPIO_N_CFG_MODE n) == 2)
    | 8 => !out && w == 3 && o == 0 && n == 0
    | _ => false)
  | _ => false

/-- The low 16 bits of a STAT register; ON of a sink is what it does at this instant (R350). -/
def State.stat16 (s : State) (cls n : Nat) : Nat :=
  match cls with
  | 0 => (s.reg (A.HSS_N_STAT n)).toNat % 65536
  | 1 => (s.reg (A.SOL_N_STAT n)).toNat % 65536
  | 2 => (s.reg (A.DIO_N_STAT n)).toNat % 65536
  | _ => putBits (s.reg (A.LED_N_STAT n)).toNat (F.LED_N_STAT_ON n).hi (F.LED_N_STAT_ON n).lo (b2n (s.ledConducts n)) % 65536

/-- STATE of class 6 (R367). -/
def State.accState (s : State) : Nat :=
  let ov := s.f F.ACC_GATE_OVR
  b2n (s.f F.ACC_STAT_SESS == 1) + 2 * s.f F.ACC_STAT_LOCKOUT + 4 * b2n (ov == 1) + 8 * b2n (ov == 2) + 16 * b2n s.accDoor +
  32 * s.f F.ACC_STAT_FDIST + 64 * s.f F.ACC_GATE_ANTF + 128 * s.f F.ACC_GATE_STARTUP

/-- The whole field an input entry reads, before width and offset (R140). -/
def State.fieldIn (s : State) (e : Nat) : Nat :=
  let n := eIdx e
  match eCls e, eFld e with
  | 0, 8 => s.stat16 0 n
  | 0, 9 => (s.reg (A.HSS_N_MEAS n)).toNat
  | 0, _ => s.f (F.HSS_N_TEMP_TJ n)
  | 1, 8 => s.stat16 1 n
  | 1, 9 => (s.reg (A.SOL_N_KINK n)).toNat
  | 1, _ => (s.reg (A.SOL_N_MEAS n)).toNat
  | 2, 0 => s.f (F.DIO_N_STAT_IN n)
  | 2, 3 => (List.range 64).foldl (fun x k => if n + k < 64 then x + s.f (F.DIO_N_STAT_IN (n + k)) * 2 ^ k else x) 0
  | 2, _ => s.stat16 2 n
  | 3, _ =>
    if n < 32 then s.stat16 3 n
    else if n < 0x200 then b2n (s.fbit (F.LED_LMX_OPEN_OPEN ((n - 0x100) / 16)) (n % 16))
    else s.f (F.LED_GRP_CTRL_EN (n - 0x200)) + 2 * s.f (F.LED_GRP_CTRL_FAILED (n - 0x200))
  | 4, f => match s.measGet n with | some (v, fl) => if f = 0 then v else fl | none => 0
  | 6, 0 => s.f F.ACC_GATE_CLOSED
  | 6, 1 => if s.flag F.ACC_GATE_OVF then 17 else s.occCount
  | 6, 2 => s.accState
  | 6, _ => (s.reg A.ACC_LAST).toNat
  | 7, 0 => b2n (s.fbit F.GPIO_IN_IN n)
  | 7, _ => s.f F.GPIO_IN_IN
  | _, _ => 0

/-- The value an input entry takes at the latch instant (R26, R140). -/
def State.fieldLatch (s : State) (e : Nat) : Nat :=
  if eCls e = 5 then s.canField (eIdx e) (eFld e) (eWid e) (eOff e)
  else if eWid e = 0 then s.fieldIn e / 2 ^ eOff e % 2
  else s.fieldIn e / 2 ^ (8 * eOff e) % 2 ^ (8 * eBytes e)

/-- The island a class's resources lie in (R15). -/
def clsIsland (cls : Nat) : Nat := if cls = 5 then 6 else if cls = 7 then 5 else 11

/-! Checks of a map (R141, R143, R154). -/

/-- A reserved field or code, a NUL entry with data fields, or trigger fields on an output entry (R141, first check). -/
def eReserved (e : Nat) : Bool :=
  bit e 31 || decide (4 < eWid e) || (eNul e && e != 2 ^ 26 + 2 ^ 25 * b2n (eOut e)) ||
  (eOut e && (eTen e || eGrp e != 0)) || (!eNul e && decide (7 < eCls e))

/-- IMG is aligned as the width asks (R139). -/
def eAligned (e : Nat) : Bool := eWid e == 0 || (eImg e % 8 == 0 && eByte e % eBytes e == 0)

/-- The entry lies in the image range its direction takes (R141, third check). -/
def eRange (e : Nat) : Bool :=
  let last := eByte e + eBytes e
  if eOut e then decide (0x20000 ≤ eByte e) && decide (last ≤ 0x30000) else decide (last ≤ 0xFC00)

/-- Two input entries write overlapping image bits. -/
def eOverlapImg (a b : Nat) : Bool :=
  eIn a && eIn b && decide (eImg a < eImg b + eBits b) && decide (eImg b < eImg a + eBits a)

/-- Two output entries write overlapping parts of one resource field (R141). -/
def eOverlapRes (a b : Nat) : Bool :=
  eOutp a && eOutp b && eCls a == eCls b && eIdx a == eIdx b && eFld a == eFld b &&
  (if eWid a = 0 ∧ eWid b = 0 then eOff a == eOff b
   else if eWid a = 0 then eOff b == 0
   else if eWid b = 0 then eOff a == 0
   else decide (eOff a < eOff b + eBytes b) && decide (eOff b < eOff a + eBytes a))

/-- Both an OUT and a DUTY entry for one HSS channel (R268). -/
def eOutDuty (a b : Nat) : Bool :=
  eOutp a && eOutp b && eCls a == 0 && eCls b == 0 && eIdx a == eIdx b && decide (eFld a + eFld b = 1) && decide (eFld a < 2)

/-- The first entry of a map for which `bad` holds of it and an earlier one. -/
def firstPair (bad : Nat → Nat → Bool) (l : List Nat) : Option Nat :=
  firstBelow l.length (fun i => (l.take i).any (fun a => bad a (l.getD i 0)))

/-- Entries of a direction, NUL ones included (R143). -/
def nIn (l : List Nat) : Nat := (l.filter (fun e => !eOut e)).length
def nOut (l : List Nat) : Nat := (l.filter eOut).length

/-- tAPPLY and tHARV in 0.1 µs (R27, R143): 0.8 µs and 0.4 µs plus an entry's time, rounded up. -/
def tApply (n : Nat) : Nat := cdiv (3000 + 10 * n) 375
def tHarv (n : Nat) : Nat := cdiv (1500 + 10 * n) 375

/-- The Pan is STARTING, RUN or HALTED. -/
def State.panBusy (s : State) (p : PanId) : Bool := s.panMode p == 2 || s.panMode p == 3 || s.panMode p == 5

/-- PERIOD_US as it counts in R143: the period in force while the Pan runs, else the one written. -/
def State.periodOf (s : State) (p : PanId) : Nat :=
  if s.panBusy p then (s.pan p).period else s.f (F.RAKE_PAN_CFG_PERIOD_US p.num)

/-- The Rake time check of R143 with the given maps; `fresh` is a Pan counted at its written period. -/
def State.timeOk (s : State) (mapA mapB : List Nat) (fresh : PanId) : Bool :=
  let per := fun (p : PanId) => if p = fresh then s.f (F.RAKE_PAN_CFG_PERIOD_US p.num) else s.periodOf p
  let ps := (if mapA.isEmpty || s.panMode .a == 0 then [] else [per .a]) ++ (if mapB.isEmpty || s.panMode .b == 0 then [] else [per .b])
  let t := tApply (nOut mapA + nOut mapB) + tHarv (nIn mapA + nIn mapB)
  ps.all (fun p => decide (t + 10 ≤ 10 * p))

/-- A group entry's capture placement (R154). -/
def State.trigOk (s : State) (e : Nat) : Bool :=
  let base := s.f (F.RAKE_TRIG_CFG_BASE (eGrp e))
  !(eIn e && eTen e) || (decide (base ≤ eByte e) && decide (eByte e - base + 16 + eBytes e ≤ 1024))

/-- The verdict on a map. -/
inductive MapRes where
  | ok
  | bad (i : Nat)
  | conflict (id : Nat)
  | limit (id : Nat)
  deriving DecidableEq, Repr

/-- The party of a Pan's map (R478). -/
def panParty (p : PanId) : Nat := 1 + p.num

/-- An output entry's transmit object is reserved for its channel's transmit FIFO (R215). -/
def State.eFifo (s : State) (e : Nat) : Bool :=
  eOutp e && eCls e == 5 && decide (1024 ≤ eIdx e % 2048) && s.canReserved (eIdx e / 2048) (eIdx e % 2048 - 1024)

/-- An output resource that another party holds, a transmit object reserved for a FIFO, or a sink that the matrix holds (R141, R215,
R335). -/
def State.mapConflict (s : State) (p : PanId) (l : List Nat) : Option Nat :=
  match l.find? (fun e => (eOutp e && !s.claimable (panParty p) (eRes e)) || s.eFifo e ||
      (eCls e == 3 && !eNul e && decide (16 ≤ eIdx e) && decide (eIdx e < 32) && s.flag F.LED_LMX_CTRL_EN)) with
  | some e => some (eRes e)
  | none => none

/-- The checks of R141 in their order. -/
def State.mapCheck (s : State) (p : PanId) (l : List Nat) : MapRes :=
  let other := (s.pan p.other).map
  let bad := fun (f : Nat → Bool) => firstBelow l.length (fun i => f (l.getD i 0))
  match bad eReserved with
  | some i => .bad i
  | none => match bad (fun e => !eNul e && !(s.fieldOk e && eAligned e)) with
  | some i => .bad i
  | none => match firstPair eOutDuty l with
  | some i => .bad i
  | none => match bad (fun e => !eNul e && !eRange e) with
  | some i => .bad i
  | none => match firstPair (fun a b => eOverlapImg a b || eOverlapRes a b) l with
  | some i => .bad i
  | none => match bad (fun e => other.any (eOverlapRes e)) with
  | some i => .bad i
  | none => match s.mapConflict p l with
  | some id => .conflict id
  | none =>
    let a := if p = .a then l else other
    let b := if p = .a then other else l
    if 8192 < a.length + b.length then .limit 0x0501
    else if !s.timeOk a b p then .limit 0x0502
    else match bad (fun e => !s.trigOk e) with
    | some i => .bad i
    | none => if other.all s.trigOk then .ok else .bad 0

/-! Installing a map (R141, R142, R147, R154). -/

/-- N_IN, N_OUT, TAPPLY and THARV follow the maps in force (R168). -/
def State.mapRegs (s : State) : State :=
  let ia := nIn s.pA.map
  let oa := nOut s.pA.map
  let ib := nIn s.pB.map
  let ob := nOut s.pB.map
  let s1 := (((s.setF (F.RAKE_PAN_ENT_N_IN 0) ia).setF (F.RAKE_PAN_ENT_N_OUT 0) oa).setF (F.RAKE_PAN_ENT_N_IN 1) ib).setF
    (F.RAKE_PAN_ENT_N_OUT 1) ob
  (((s1.setF F.RAKE_STATUS_N_IN (ia + ib)).setF F.RAKE_STATUS_N_OUT (oa + ob)).setF F.RAKE_TIME_TAPPLY (tApply (oa + ob))).setF
    F.RAKE_TIME_THARV (tHarv (ia + ib))

/-- Input image bytes that a map's entries cover. -/
def mapCover (l : List Nat) : List Nat := (l.filter eIn).flatMap (fun e => (List.range (eBytes e)).map (· + eByte e))

/-- Bytes of the input images that no entry covers become 0, in all three buffers (R147). -/
def State.imgClear (s : State) (p : PanId) (l : List Nat) : State :=
  let cov := mapCover l
  let one := fun (s : State) (i : Nat) =>
    let b := dtcmBase p + inBuf i
    let keep := cov.map (fun o => (b + o, memGet s.mem (b + o)))
    { s with mem := keep.foldl (fun m x => memSet m x.1 x.2) (memClear s.mem b 0x10000) }
  one (one (one s 0) 1) 2

/-- The claims of a map: its output resources for the Pan, those of the replaced map that it does not keep released (R141). -/
def State.mapClaim (s : State) (p : PanId) (l : List Nat) : State :=
  let new := (l.filter eOutp).map eRes
  let old := (((s.pan p).map).filter eOutp).map eRes
  let s1 := (old.filter (fun r => !new.contains r)).foldl (fun s r => s.release (panParty p) r) s
  new.foldl (fun s r => s.setOwner r (panParty p)) s1

/-- A channel without an ILIM entry in a map uses CFG.ILIM (R268). -/
def State.hssIlimKeep (s : State) : State :=
  let es := s.pA.map ++ s.pB.map
  forBelow 48 s (fun n s =>
    s.when ((s.hssCh n).ilim.isSome && !es.any (fun e => eOutp e && eCls e == 0 && eFld e == 2 && eIdx e == n))
      (fun s => s.modHss n (fun c => { c with ilim := none })))

/-- An accepted map is in force (R141, R142, R147, R154, R268, R295). -/
def State.mapInstall (s : State) (p : PanId) (l : List Nat) : State :=
  let s1 := (s.mapClaim p l).imgClear p l
  let s2 := (s1.modPan p (fun x => { x with map := l, part := [], partTotal := none, oq := [] })).mapRegs
  let s3 := { s2 with rake := { s2.rake with trigBase := (List.range 8).map (fun t => (t, s2.f (F.RAKE_TRIG_CFG_BASE t))) } }
  (l.filter (fun e => eOutp e && eCls e == 1)).foldl (fun s e => s.modSol (eIdx e) (fun c => { c with prev := false })) s3.hssIlimKeep

/-- Drop the partial map of a Pan. -/
def State.partDrop (s : State) (p : PanId) : State := s.modPan p (fun x => { x with part := [], partTotal := none })

/-- Pan of a payload byte. -/
def panOf (n : Nat) : Option PanId := if n = 0 then some .a else if n = 1 then some .b else none

/-- The part that ends a load: checks, tAPPLY against the other Pan's, installation (R141, R142). -/
def State.mapEnd (s : State) (k : RKey) (p : PanId) (l : List Nat) : State :=
  let s0 := s.partDrop p
  match s0.mapCheck p l with
  | .bad i => s0.badParam k ((6 + 8 * i) % 65536)
  | .conflict id => s0.cmdConflict k id
  | .limit id => s0.limit k id
  | .ok =>
    let t := tApply (nOut l + nOut (s0.pan p.other).map)
    if s0.panBusy p.other && t != s0.f F.RAKE_TIME_TAPPLY then s0.wrongState k (s0.panMode p.other)
    else (s0.mapInstall p l).ok k (leBytes 4 (100 * t))

/-- The role is PRIMARY, SYNCING or STANDBY: LOAD_BLOCK and LOAD_MAP are refused (R182). -/
def State.hsPaired (s : State) : Bool := decide (2 ≤ s.f F.RING_HS_STAT_ROLE) && decide (s.f F.RING_HS_STAT_ROLE ≤ 4)

/-- LOAD_MAP (R142). -/
def bodyLoadMap : Body := fun c s =>
  let len := c.pl.length
  let k := (len - 6) / 8
  if len < 6 then s.badLen c.key 6
  else if len ≠ 6 + 8 * k ∨ 511 < k then s.badLen c.key (6 + 8 * min k 511)
  else match panOf (leAt c.pl 0 1) with
  | none => s.badParam c.key 0
  | some p =>
    let x := s.pan p
    let first := leAt c.pl 2 2
    let total := leAt c.pl 4 2
    if leAt c.pl 1 1 ≠ 0 then s.badParam c.key 1
    else if (s.panMode p ≠ 0 ∧ s.panMode p ≠ 1) ∨ s.hsPaired then (s.partDrop p).wrongState c.key (s.panMode p)
    else if first ≠ x.part.length then (s.partDrop p).badParam c.key 2
    else if x.partTotal.isSome && x.partTotal != some total then (s.partDrop p).badParam c.key 4
    else if total < first + k then (s.partDrop p).badParam c.key (6 + 8 * (total - first))
    else
      let l := x.part ++ (List.range k).map (fun i => leAt c.pl (6 + 8 * i) 8)
      if l.length = total then s.mapEnd c.key p l
      else (s.modPan p (fun x => { x with part := l, partTotal := some total })).ok c.key (leBytes 4 0)

/-- LOAD_MAP (R142). -/
def execLoadMap (r : Req) (s : State) : Host.Outcome State Fault Refusal := .next (s.opcode r 4 2 bodyLoadMap)

end Sys2Proof.Machine
end

