-- ==== Sys2Proof/Machine/Rake.lean ====
section
/-! DEFINITION. The Rake (R135 to R157, R165) and the silence policy of the output banks (R195): latch, commit, harvest, apply
strobe, captures, checkpoints, forces. -/
namespace Sys2Proof.Machine

/-- D-TCM address of an image byte, physically (R136). -/
def State.imgAt (s : State) (p : PanId) (b : Nat) : Nat := dtcmBase p + imgResolve (s.pan p).rot b

/-- A source of the Rake for a Pan (R167). -/
def State.rakeEvt (s : State) (k : Nat) (p : PanId) : State := s.raise (256 + k + p.num)

/-! Silence (R195). -/

/-- Bits of RING_SIL_STAT (R195): a bank has a channel of a silent Pan; a bridging hold of the bank has expired. -/
def bankRes (b : Nat) : List Nat :=
  if b < 6 then (List.range 8).map (fun i => resId 1 (8 * b + i))
  else if b = 6 then (List.range 12).map (resId 2)
  else if b = 7 then (List.range 64).map (resId 3)
  else if b = 8 then (List.range 32).map (resId 4) ++ (List.range 256).map (resId 5)
  else (List.range 32).map (resId 12)

/-- The channels of a bank that a Pan owns. -/
def State.bankOwn (s : State) (p : PanId) (b : Nat) : List Nat := (bankRes b).filter (fun r => s.owner r == panParty p)

/-- RING_SIL_STAT follows. -/
def State.silRegs (s : State) : State :=
  let sil := fun b => (bit s.rake.silent 0 && !(s.bankOwn .a b).isEmpty) || (bit s.rake.silent 1 && !(s.bankOwn .b b).isEmpty)
  let off := fun b => bit s.rake.silOff b || bit s.rake.silOff (10 + b)
  (s.setF F.RING_SIL_STAT_SILENT ((List.range 10).foldl (fun x b => x + b2n (sil b) * 2 ^ b) 0)).setF F.RING_SIL_STAT_OFF
    ((List.range 10).foldl (fun x b => x + b2n (off b) * 2 ^ b) 0)

/-- One channel turns off under OFF (R195, R306, R322, R336, R483). -/
def State.resOff (s : State) (r : Nat) : State :=
  let n := r % 2 ^ 24
  match r / 2 ^ 24 with
  | 1 => s.hssCommand n 0
  | 2 => s.solSilence n
  | 3 => s.dioCommand n false
  | 4 => s.ledCommand n (s.f (F.LED_N_CMD_CUR n)) 0
  | 5 => s.setReg (A.LED_LMX_LVL (n / 16) (n % 16 / 4))
      (toW (putBits (s.reg (A.LED_LMX_LVL (n / 16) (n % 16 / 4))).toNat (8 * (n % 4) + 7) (8 * (n % 4)) 0))
  | 12 => { s.setF (F.GPIO_N_CMD_OUT n) 0 with gpioOn := putBit s.gpioOn n false }
  | _ => s

/-- A Pan's bridging hold of a bank ends (R195). -/
def State.bankOff (s : State) (p : PanId) (b : Nat) : State :=
  let k := 10 * p.num + b
  if !bit s.rake.silent p.num || bit s.rake.silOff k || !s.flag (F.RING_SIL_CFG_POLICY b) then s else
  let s1 := (s.bankOwn p b).foldl State.resOff s
  (({ s1 with rake := { s1.rake with silOff := putBit s1.rake.silOff k true } }).silRegs).raise 337

/-- The logic side is silent for a Pan that is no standby (R183, R195): banks under OFF without a bridging hold turn off at once. -/
def State.panSilent (s : State) (p : PanId) : State :=
  if bit s.rake.silent p.num || s.flag (F.RAKE_PAN_STATE_STANDBY p.num) then s else
  let s1 := (({ s with rake := { s.rake with silent := putBit s.rake.silent p.num true } }).silRegs).raise 336
  forBelow 10 s1 (fun b s => if s.f (F.RING_SIL_CFG_BRIDGE_MS b) = 0 then s.bankOff p b else s)

/-- An apply strobe of a Pan ends its silence and its bridging holds (R195). -/
def State.silEnd (s : State) (p : PanId) : State :=
  if !bit s.rake.silent p.num then s else
  let o := s.rake.silOff
  ({ s with rake := { s.rake with silent := putBit s.rake.silent p.num false,
                                  silOff := if p.num = 0 then o / 1024 * 1024 else o % 1024 } }).silRegs

/-! Faults the Rake sees (R165). -/

/-- Record an entry's fault while VALID is 0. -/
def State.rakeErr (s : State) (p : PanId) (i cause : Nat) : State :=
  if s.flag F.RAKE_ERR_VALID then s else
  (((s.setF F.RAKE_ERR_ENTRY i).setF F.RAKE_ERR_PAN p.num).setF F.RAKE_ERR_CAUSE cause).setF F.RAKE_ERR_VALID 1

/-! Bits and values of the image. -/

/-- A bit of memory by physical byte. -/
def State.mbit (s : State) (a k : Nat) : Bool := bit (memGet s.mem a).toNat k

/-- Store a bit of memory. -/
def State.setMbit (s : State) (a k : Nat) (b : Bool) : State :=
  { s with mem := memSet s.mem a (BitVec.ofNat 8 (putBit (memGet s.mem a).toNat k b)), ecc := eccClear s.ecc a 1 }

/-- An entry's value at a physical byte address that stands for its image byte. -/
def State.entGet (s : State) (a e : Nat) : Nat := if eWid e = 0 then b2n (s.mbit a (eImg e % 8)) else s.mget a (eBytes e)

/-- Store an entry's value. -/
def State.entPut (s : State) (a e v : Nat) : State :=
  if eWid e = 0 then s.setMbit a (eImg e % 8) (v % 2 == 1) else s.mput a (eBytes e) v

/-- A quality bit's byte in an input image (R137). -/
def qByte (i : Nat) : Nat := 0xFC00 + i / 8

/-- A value with the forces on its bits (R153). -/
def forced (fs : List (Nat × Bool)) (e v : Nat) : Nat :=
  fs.foldl (fun v f => if eImg e ≤ f.1 ∧ f.1 < eImg e + eBits e then putBit v (f.1 - eImg e) f.2 else v) v

/-! Latch and harvest (R26, R136, R147, R208, R209). -/

/-- The values of a Pan's input entries at the latch instant. -/
def State.latchAll (s : State) (l : List Nat) : List Latched :=
  l.zipIdx.filterMap (fun x => if eIn x.1 then
    some ⟨x.2, s.fieldLatch x.1, s.islandUp (clsIsland (eCls x.1)), if eCls x.1 = 5 then 5 else 1⟩ else none)

/-- The latched values of a snapshot transfer that the power-die link fails (R165): none of its power-die entries is fresh. -/
def snapLost (l : List Nat) (vals : List Latched) : List Latched :=
  vals.map (fun v => if clsIsland (eCls (l.getD v.entry 0)) = 11 then { v with fresh := false, cause := 3 } else v)

/-- The receive objects of a channel that input entries name. -/
def mapRxObjs (l : List Nat) (n : Nat) : List Nat :=
  ((l.filter (fun e => eIn e && eCls e == 5 && eIdx e / 2048 == n && decide (eIdx e % 2048 < 1024))).map (fun e => eIdx e % 2048)).eraseDups

/-- The CAN island marks and latches a harvester's objects: those with RCLR lose NEW and LOST (R208, R209). -/
def State.canLatch (s : State) (who : Nat) (l : List Nat) : State :=
  forBelow 16 s (fun n s =>
    let objs := mapRxObjs l n
    if objs.isEmpty then s else
    let s1 := s.canMark n who objs
    (objs.filter (fun j => s1.flag (F.CAN_MASK_RCLR n j))).foldl (fun s j => s.setCtl (canRx n j) 17 16 0) s1)

/-- Harvest one latched value into a buffer; the second result says that it was not fresh (R147, R165). A value that is not fresh is
read from the current image in D-TCM, with the errors of that read (R103). -/
def State.harvestOne (s : State) (p : PanId) (buf : Nat) (l : List Nat) (x : Latched) : State × Bool :=
  let e := l.getD x.entry 0
  let (s0, bad) := if x.fresh then (s, false) else s.eccRead (s.imgAt p (eByte e)) (eBytes e)
  let v := if x.fresh then x.val else s.entGet (s.imgAt p (eByte e)) e
  let s1 := if x.fresh then s0 else s0.rakeErr p x.entry (if bad then 2 else x.cause)
  ((s1.entPut (buf + eByte e) e v).setMbit (buf + qByte x.entry) (x.entry % 8) (!x.fresh), !x.fresh)

/-- Input forces are written into a buffer (R153). -/
def State.forceIn (s : State) (p : PanId) (buf : Nat) : State :=
  ((s.pan p).forces.filter (fun f => decide (f.1 < 0x20000 * 8))).foldl (fun s f => s.setMbit (buf + f.1 / 8) (f.1 % 8) f.2) s

/-- The harvest of a Pan into a buffer (R137, R147): values, input forces, every Q bit; RAKE_STALE once. -/
def State.harvest (s : State) (p : PanId) (buf : Nat) (vals : List Latched) : State :=
  let l := (s.pan p).map
  let (s1, stale) := vals.foldl (fun (a : State × Bool) x => let (s, b) := a.1.harvestOne p buf l x; (s, a.2 || b)) (s, false)
  let outs := l.zipIdx.filter (fun x => eOutp x.1)
  let s2 := outs.foldl (fun s x => s.setMbit (buf + qByte x.2) (x.2 % 8) ((s.pan p).oq.contains x.2)) s1
  (s2.forceIn p buf).when stale (fun s => s.raise 264)

/-- The input entries that name receive object `j` of channel `n`, by index. -/
def objEntries (l : List Nat) (n j : Nat) : List (Nat × Nat) :=
  (l.zipIdx.filter (fun x => eIn x.1 && eCls x.1 == 5 && eIdx x.1 == 2048 * n + j)).map (fun x => (x.2, x.1))

/-- Capture area of a group, physically. -/
def captArea (p : PanId) (t : Nat) : Nat := dtcmBase p + 0x71000 + t * 0x400

/-- A Pan's entries of a trigger group. -/
def trigEntries (l : List Nat) (t : Nat) : List Nat := l.filter (fun e => eIn e && eTen e && eGrp e == t)

/-- One value of a trigger capture (R154). -/
def State.captOne (t : Nat) (p : PanId) (s : State) (e : Nat) : State :=
  s.entPut (captArea p t + (eByte e - tblGet s.rake.trigBase t + 16)) e (s.fieldLatch e)

/-- A harvester reads an object that was filed into while it was held, as it stands (R209): a Pan into the input buffer it fills, a
trigger group into its capture areas. -/
def State.reharvest (s : State) (who n j : Nat) : State :=
  let pan := fun (p : PanId) (s : State) =>
    let l := (s.pan p).map
    let es := objEntries l n j
    if es.isEmpty then s else
    (es.foldl (fun s x => (s.harvestOne p (s.thirdBuf p) l ⟨x.1, s.fieldLatch x.2, true, 0⟩).1) s).forceIn p (s.thirdBuf p)
  let capt := fun (p : PanId) (s : State) =>
    ((objEntries (trigEntries (s.pan p).map (who - 2)) n j).map (·.2)).foldl (State.captOne (who - 2) p) s
  if who = 0 then pan .a s else if who = 1 then pan .b s else capt .b (capt .a s)

/-- The objects a harvester holds on a channel are let go: those filed into while held are read first (R209). -/
def State.canGo (s : State) (who : Nat) (n : Nat) : State :=
  if !(s.canCh n).held.any (fun x => x.1 == who) then s else
  let late := (s.canCh n).spilt.filter (fun j => (s.canCh n).held.contains (who, j))
  (late.foldl (fun s j => s.reharvest who n j) s).canLet n who

/-- A harvester lets go of every object it holds (R209): for a Pan at its next boundary, before the new latch. -/
def State.canLetAll (s : State) (who : Nat) : State := forBelow 16 s (fun n s => s.canGo who n)

/-- CAN_HOLD_RELEASE (R209): the Rake has read an object, or its Pan's next boundary has come. -/
def execCanHoldRelease (n : Fin 16) (obj : Fin 1024) (s : State) : Host.Outcome State Fault Refusal :=
  let who := ((s.canCh n).held.filter (fun x => x.2 == obj.val)).map (·.1)
  let s1 := if (s.canCh n).spilt.contains obj.val then who.foldl (fun s w => s.reharvest w n obj) s else s
  .next ((s1.modCan n (fun c => { c with held := c.held.filter (fun x => x.2 != obj.val) })).canUnhold n)

/-! Commit and apply strobe (R146, R153, R165, R27, R28). -/

/-- Sparse word errors of a range moved to another range (both of `n` words). -/
def eccMove (t : Tbl Nat) (src dst n : Nat) : Tbl Nat :=
  t.filter (fun c => decide (c.1 < dst)) ++ ((t.filter (fun c => decide (src ≤ c.1) && decide (c.1 < src + n))).map
    (fun c => (c.1 - src + dst, c.2))) ++ t.filter (fun c => decide (dst + n ≤ c.1))

/-- The harvest of the last boundary is unfinished at this one from entry `i` on (R165): those entries are filled from the current
image, before the buffers rotate. -/
def State.harvLate (s : State) (p : PanId) (i : Nat) : State :=
  let l := (s.pan p).map
  let buf := s.thirdBuf p
  let ins := l.zipIdx.filter (fun x => eIn x.1)
  let was := ins.any (fun x => s.mbit (buf + qByte x.2) (x.2 % 8))
  let rest := ins.filter (fun x => decide (i ≤ x.2))
  if rest.isEmpty then s else
  let s1 := rest.foldl (fun s x => (s.harvestOne p buf l ⟨x.2, 0, false, 4⟩).1) s
  ((s1.forceIn p buf).raise 266).when (!was) (fun s => s.raise 264)

/-- Copy a D-TCM range into a Rake-held bank above it (R145 step 2): correctable errors are corrected, the others move with it. -/
def State.bankCopy (s : State) (p : PanId) (src dst n : Nat) : State :=
  let b := dtcmBase p
  let s := s.eccFix (b + src) n
  { s with mem := memCopy s.mem (b + src) (b + dst) n, ecc := eccMove s.ecc ((b + src) / 4) ((b + dst) / 4) (n / 4) }

/-- Commit one output entry from the commit bank: its shadow, or the cause for which it is not committed (R146, R165); `lost` that
the power-die link fails the transfer. -/
def State.commitOne (s : State) (p : PanId) (lost : Bool) (i e : Nat) : Sum Nat Shadow :=
  let a := dtcmBase p + commitBank + (eByte e - 0x20000)
  if s.eccBad a (eBytes e) then .inl 2
  else if !s.islandUp (clsIsland (eCls e)) || (lost && clsIsland (eCls e) == 11) then .inl (if eCls e = 5 then 5 else 3)
  else .inr { entry := i, cls := eCls e, idx := eIdx e, fld := eFld e, off := eOff e, wid := eWid e,
              val := forced (s.pan p).forces e (s.entGet a e) }

/-- The commit of a cycle (R146): shadows for the apply strobe; entries not committed are recorded and RAKE_STALE raised once. A
transfer that the power-die link fails raises RAKE_LINK_ERR, and the strobe does not reach the power die (R165). -/
def State.commit (s : State) (p : PanId) (lost : Bool) : State :=
  let es := (s.pan p).map.zipIdx.filter (fun x => eOutp x.1)
  let s := es.foldl (fun s x => s.eccFix (dtcmBase p + commitBank + (eByte x.1 - 0x20000)) (eBytes x.1)) s
  let outs := es.map (fun x => (x.2, x.1, s.commitOne p lost x.2 x.1))
  let sh := outs.filterMap (fun x => match x.2.2 with | .inr v => some v | .inl _ => none)
  let bad := outs.filterMap (fun x => match x.2.2 with | .inl c => some (x.1, c, x.2.1) | .inr _ => none)
  let s1 := bad.foldl (fun s x =>
    let s1 := s.rakeErr p x.1 x.2.1
    if x.2.1 = 2 then (s1.eccRecord (dtcmBase p + commitBank + (eByte x.2.2 - 0x20000)) (eccStore (dtcmBase p))).raise 65 else s1) s
  let s2 := (s1.modPan p (fun x => { x with shadow := sh, strobe := true, linkLost := lost, oq := bad.map (·.1) })).when lost
    (fun s => s.raise 265)
  s2.when (!bad.isEmpty) (fun s => s.raise 264)

/-- The order of a channel's fields at one strobe: clears and limits before commands (R268, R295, R319). -/
def shadowStage (x : Shadow) : Nat :=
  match x.cls, x.fld with
  | 0, 3 | 1, 2 | 2, 2 | 3, 2 => 0
  | 0, 2 => 1
  | _, _ => 2

/-- The image's ON of a solenoid channel at a strobe (R295). -/
def State.solImage (s : State) (n : Nat) (on : Bool) (ttime : Nat) : State :=
  let was := (s.solCh n).prev
  let s1 := s.modSol n (fun c => { c with prev := on })
  let cmd := fun (code : Nat) => { (default : SolCmd) with code := code, due := if ttime = 0 then none else some ttime, image := true }
  if on && !was then s1.solQueue n (cmd (s1.f (F.SOL_N_CFG_PROF_ON n)))
  else if was && !on then s1.solQueue n (cmd 0x80) else s1

/-- One shadow value takes effect (R27, R268, R295, R319, R335, R483); CAN objects are copied whole. `all` are the strobe's
shadows. -/
def State.applyOne (all : List Shadow) (s : State) (x : Shadow) : State :=
  let n := x.idx
  let v := x.val
  match x.cls, x.fld with
  | 0, 0 => s.hssCommand n (if v % 2 = 1 then 0xFFFF else 0)
  | 0, 1 => s.hssCommand n (v % 65536)
  | 0, 2 => s.modHss n (fun c => { c with ilim := some (v % 4) })
  | 0, 3 => if v % 2 = 1 then s.hssClear n (!all.any (fun y => y.cls == 0 && y.idx == n && decide (y.fld < 2))) else s
  | 1, 0 => s.solImage n (v % 2 == 1) (match all.find? (fun y => y.cls == 1 && y.idx == n && y.fld == 1) with
      | some y => y.val | none => 0)
  | 1, 2 => if v % 2 = 1 then s.solClear n else s
  | 2, 1 => s.dioCommand n (v % 2 == 1)
  | 2, 2 => if v % 2 = 1 then s.dioClear n (!all.any (fun y => y.cls == 2 && y.idx == n && y.fld == 1)) else s
  | 3, 0 =>
    if n < 32 then s.ledCommand n (s.f (F.LED_N_CMD_CUR n)) (v % 65536)
    else
      let r := (n - 0x100) / 16
      let c := n % 16
      s.setReg (A.LED_LMX_LVL r (c / 4)) (toW (putBits (s.reg (A.LED_LMX_LVL r (c / 4))).toNat (8 * (c % 4) + 7) (8 * (c % 4)) v))
  | 3, 1 => s.ledCommand n (v % 8192) (s.f (F.LED_N_CMD_DUTY n))
  | 3, 2 => if v % 2 = 1 then s.ledGroupClear (n - 0x200) else s
  | 7, 1 => s.gpioSet n (v % 2 == 1)
  | _, _ => s

/-- The CAN transmit objects of a strobe are copied and requested, all of them before a channel enters arbitration (R212). -/
def State.applyCan (s : State) (all : List Shadow) : State :=
  let can := all.filter (fun x => x.cls == 5)
  let objs := (can.map (·.idx)).eraseDups
  let s1 := objs.foldl (fun s o => if s.islandUp 6 then s.canCommit (o / 2048) (o % 2048 - 1024) (can.filter (fun x => x.idx == o)) else s) s
  ((objs.map (· / 2048)).eraseDups).foldl (fun s n => if s.islandUp 6 then s.canArb n else s) s1

/-- The apply strobe of a Pan's commit (R27, R28, R195): clears, then limits, then commands; silence ends, but where the strobe
does not reach the power die (R165); a Pan that has left
RUN with this commit is then silent. -/
def State.applyStrobe (s : State) (p : PanId) : State :=
  let x := s.pan p
  if !x.strobe then s else
  let sh := x.shadow
  let s1 := (s.modPan p (fun x => { x with strobe := false, shadow := [], linkLost := false })).when (!x.linkLost) (fun s => s.silEnd p)
  let st := fun k (s : State) => (sh.filter (fun y => shadowStage y == k)).foldl (State.applyOne sh) s
  let s2 := (st 2 (st 1 (st 0 s1))).applyCan sh
  if s2.panMode p = 3 then s2 else s2.panSilent p

/-- APPLY_STROBE (R27). -/
def execApplyStrobe (p : PanId) (s : State) : Host.Outcome State Fault Refusal := .next (s.applyStrobe p)

/-! Retain area and checkpoints (R155, R156). -/

/-- A Pan's retain share in KiB (R155). -/
def State.share (s : State) (p : PanId) : Nat := if p = .a then min 32 s.rake.split else 32 - s.rake.split

/-- Image byte where a Pan's retain share begins. -/
def State.shareAt (s : State) (p : PanId) : Nat := 0x70000 - s.share p * 1024

/-- Retain SRAM of slot `j`: a Pan's data and header (R156). -/
def State.slotData (s : State) (p : PanId) (j : Nat) : Nat := 0x09000000 + j * 0x8000 + (if p = .a then 0 else min 32 s.rake.split * 1024)
def slotHead (p : PanId) (j : Nat) : Nat := 0x09010000 + (2 * p.num + j) * 0x40

/-- The 64-byte header of a checkpoint (R156). -/
def Ckpt.header (c : Ckpt) : List Byte :=
  let b := leBytes 4 c.seq ++ leBytes 4 c.retid ++ leBytes 4 c.cycle ++ leBytes 2 c.lenKib ++ leBytes 2 0 ++ leBytes 8 c.tnow ++
           leBytes 4 (crc32c c.data) ++ List.replicate 32 0#8
  b ++ leBytes 4 (crc32c b)

/-- A slot's header has a matching CRC (R156). -/
def State.headOk (s : State) (p : PanId) (j : Nat) : Bool :=
  let h := s.mbytes (slotHead p j) 64
  leAt h 60 4 == crc32c (h.take 60)

/-- The image a slot holds, when both its CRCs match (R156). -/
def State.slotImage (s : State) (p : PanId) (j : Nat) : Option Ckpt :=
  let h := s.mbytes (slotHead p j) 64
  let d := s.mbytes (s.slotData p j) (leAt h 12 2 * 1024)
  if s.headOk p j && decide (leAt h 12 2 ≤ 32) && leAt h 24 4 == crc32c d then
    some { seq := leAt h 0 4, retid := leAt h 4 4, cycle := leAt h 8 4, lenKib := leAt h 12 2, tnow := leAt h 16 8, data := d }
  else none

/-- The slot a checkpoint writes: an invalid header, else the lower SEQ (R156). -/
def State.ckptSlot (s : State) (p : PanId) : Nat :=
  if !s.headOk p 0 then 0 else if !s.headOk p 1 then 1
  else if newer 32 (s.mget (slotHead p 1) 4) (s.mget (slotHead p 0) 4) then 0 else 1

/-- SEQ of the next checkpoint: one more than the newest valid header's (R156). -/
def State.ckptSeq (s : State) (p : PanId) : Nat :=
  let q0 := s.mget (slotHead p 0) 4
  let q1 := s.mget (slotHead p 1) 4
  let last := match s.headOk p 0, s.headOk p 1 with
    | true, true => if newer 32 q1 q0 then q1 else q0
    | true, false => q0
    | false, true => q1
    | false, false => 0
  (last + 1) % 2 ^ 32

/-- The program header of a Pan: block 0 (R158). -/
def PanSt.header (x : PanSt) : List Byte := (tblFind x.code 0).getD []

/-- Take a checkpoint of the retain share as it stands (R145 step 2, R156). An uncorrectable error in the bank is recorded and raised
(R103); the spec names no further effect, and the data goes as it is. -/
def State.ckptTake (s : State) (p : PanId) : State × Ckpt :=
  let n := s.share p * 1024
  let s1 := s.bankCopy p (s.shareAt p) ckptBank n
  let s1 := (s1.eccRead (dtcmBase p + ckptBank) n).1
  (s1, { seq := s1.ckptSeq p, retid := Config.progRetid (s1.pan p).header, cycle := s1.f (F.RAKE_PAN_CYCLE_VALUE p.num),
         lenKib := s1.share p, tnow := (s1.pan p).bk, data := s1.mbytes (dtcmBase p + ckptBank) n })

/-- A checkpoint that is due is taken at this boundary (R155): not while one is being written, nor during a power-fail warning. -/
def State.ckptDue (s : State) (p : PanId) : State :=
  let x := s.pan p
  let ms := s.f F.RAKE_RET_CKPT_MS
  let t := s.now / 1000
  if ms = 0 ∨ x.ckpt.isSome ∨ t < x.ckptDue ∨ s.flag F.RAKE_PFW_ACTIVE ∨ s.share p = 0 then s else
  let due := x.ckptDue + ((t - x.ckptDue) / (1000 * ms) + 1) * (1000 * ms)
  let (s1, c) := s.ckptTake p
  s1.modPan p (fun x => { x with ckptDue := due, ckpt := some c })

/-- Write a checkpoint to retain SRAM: data first, header last (R156). -/
def State.ckptWrite (s : State) (p : PanId) (c : Ckpt) : State :=
  let j := s.ckptSlot p
  (((s.mputBytes (s.slotData p j) c.data).mputBytes (slotHead p j) c.header).setF (F.RAKE_PAN_CKPT_VALUE p.num) c.seq).rakeEvt 13 .a

/-- CHECKPOINT_WRITE_DONE (R155, R156). -/
def execCheckpointWriteDone (p : PanId) (s : State) : Host.Outcome State Fault Refusal :=
  .next (match (s.pan p).ckpt with
    | some c => (s.ckptWrite p c).modPan p (fun x => { x with ckpt := none, last := some c })
    | none => s)

/-! Power-fail save (R157). -/

/-- A running Pan's final checkpoint is taken: at once, or when its logic phase ends. -/
def State.pfwTake (s : State) (p : PanId) : State :=
  let (s1, c) := s.ckptTake p
  s1.modPan p (fun x => { x with pfw := 2, final := some c })

/-- An unfinished retain SRAM write is abandoned: its slot is invalid. -/
def State.ckptAbandon (s : State) (p : PanId) : State :=
  if (s.pan p).ckpt.isNone then s else
  let s1 := { s with mem := memClear s.mem (slotHead p (s.ckptSlot p)) 64 }
  s1.modPan p (fun x => { x with ckpt := none })

/-- The power-fail warning reaches one Pan (R157). -/
def State.pfwPan (s : State) (p : PanId) : State :=
  let s1 := s.ckptAbandon p
  if s1.panMode p ≠ 3 ∨ s1.share p = 0 then s1.modPan p (fun x => { x with pfw := 0, final := none })
  else if (s1.pan p).logic then s1.modPan p (fun x => { x with pfw := 1, final := none })
  else s1.pfwTake p

/-- The power-fail warning reaches the Rake (R157). -/
def State.rakePfw (s : State) : State :=
  (((s.setF F.RAKE_PFW_ACTIVE 1).setF F.RAKE_PFW_SAVED 0).setF F.RAKE_PFW_OLD 0).pfwPan .a |>.pfwPan .b

/-- PFW_SAVE_TIMEOUT (R157): the Pan's last completed checkpoint is saved in place of a final one. -/
def execPfwSaveTimeout (p : PanId) (s : State) : Host.Outcome State Fault Refusal :=
  .next (if (s.pan p).pfw ≠ 1 then s else
    ((s.modPan p (fun x => { x with pfw := 3, final := x.last })).setFbit F.RAKE_PFW_OLD p.num true).raise 271)

/-- One Pan's save becomes a Crust retain record, then goes to retain SRAM (R157). -/
def State.pfwSave (s : State) (p : PanId) : State :=
  let x := s.pan p
  match x.final with
  | some c =>
    if x.pfw = 2 ∨ x.pfw = 3 then
      let s1 := (s.retainWrite p.num c.header c.data).setFbit F.RAKE_PFW_SAVED p.num true
      s1.modPan p (fun y => { y with pfw := 0, final := none, ckpt := if x.pfw = 2 then some c else y.ckpt })
    else s
  | none => s

/-- PFW_SAVED (R157): the final checkpoints are valid in the Crust store. -/
def execPfwSaved (s : State) : Host.Outcome State Fault Refusal :=
  .next (if !s.flag F.RAKE_PFW_ACTIVE || ((s.pA.final.isNone || s.pA.pfw < 2) && (s.pB.final.isNone || s.pB.pfw < 2)) then s
    else ((s.pfwSave .a).pfwSave .b).raise 270)

/-! Trigger captures (R154). -/

/-- The capture of a group for one Pan: the latch instant's DTIME, and the values. -/
def State.captPan (t : Nat) (s : State) (p : PanId) : State :=
  let es := trigEntries (s.pan p).map t
  if es.isEmpty then s else
  es.foldl (fun s e => if s.islandUp (clsIsland (eCls e)) then State.captOne t p s e else s) (s.mput (captArea p t) 8 s.dtime)

/-- TRIGGER_CAPTURE (R154): a pulse delivered to RTRIG_t is served. -/
def execTriggerCapture (t : Fin 8) (s : State) : Host.Outcome State Fault Refusal :=
  .next (if !bit s.rtrig t then s else
    let s1 := { s with rtrig := putBit s.rtrig t false }
    if !s1.flag F.RAKE_CTRL_EN || !s1.flag (F.RAKE_TRIG_CFG_EN t) then s1
    else if bit s1.rake.trigBusy t then s1.raise 273
    else
      let s2 := { s1 with rake := { s1.rake with trigBusy := putBit s1.rake.trigBusy t true } }
      let s3 := (s2.captPan t .a).captPan t .b
      s3.canLatch (2 + t) (trigEntries s3.pA.map t ++ trigEntries s3.pB.map t))

/-- The capture count of a group goes up after its data (R154). -/
def State.captCount (t : Nat) (s : State) (p : PanId) : State :=
  if (trigEntries (s.pan p).map t).isEmpty then s else
  (s.mput (captArea p t + 8) 4 (s.mget (captArea p t + 8) 4 + 1)).mput (captArea p t + 12) 4 0

/-- TRIGGER_CAPTURE_DONE (R154). -/
def execTriggerCaptureDone (t : Fin 8) (s : State) : Host.Outcome State Fault Refusal :=
  .next (if !bit s.rake.trigBusy t then s else
    let s1 := { s with rake := { s.rake with trigBusy := putBit s.rake.trigBusy t false } }
    (((s1.canLetAll (2 + t)).captCount t .a).captCount t .b).raise (274 + t))

/-! Forces (R153) and IMAGE_READ (R136). -/

/-- A bit that may be forced. -/
def forceable (a : Nat) : Bool := decide (a < 0xFC00 * 8) || (decide (0x20000 * 8 ≤ a) && decide (a < 0x30000 * 8))

/-- RAKE_PAN_p_STATE.FORCES follows. -/
def State.forceRegs (s : State) (p : PanId) : State := s.setF (F.RAKE_PAN_STATE_FORCES p.num) (s.pan p).forces.length

/-- FORCE (R153). -/
def bodyForce : Body := fixedLen 6 (fun c s =>
  let a := leAt c.pl 1 4
  let v := leAt c.pl 5 1
  match panOf (leAt c.pl 0 1) with
  | none => s.badParam c.key 0
  | some p =>
    if !forceable a then s.badParam c.key 1
    else if 1 < v then s.badParam c.key 5
    else
      let fs := (s.pan p).forces
      if !fs.any (fun f => f.1 == a) && decide (256 ≤ fs.length) then s.limit c.key 0x0504
      else
        let s1 := (s.modPan p (fun x => { x with forces := fs.filter (fun f => f.1 != a) ++ [(a, v == 1)] })).forceRegs p
        let s2 := if a < 0x20000 * 8 then s1.setMbit (s1.thirdBuf p + a / 8) (a % 8) (v == 1) else s1
        s2.ok c.key [])

/-- UNFORCE (R153): one force, or all of a Pan's. -/
def bodyUnforce : Body := fixedLen 5 (fun c s =>
  let a := leAt c.pl 1 4
  match panOf (leAt c.pl 0 1) with
  | none => s.badParam c.key 0
  | some p =>
    if a ≠ 0xFFFFFFFF ∧ !forceable a then s.badParam c.key 1
    else ((s.modPan p (fun x => { x with forces := if a = 0xFFFFFFFF then [] else x.forces.filter (fun f => f.1 != a) })).forceRegs p).ok
      c.key [])

/-- IMAGE_READ (R39, R136): image bytes through the rotation. -/
def bodyImageRead : Body := fixedLen 7 (fun c s =>
  let a := leAt c.pl 1 4
  let n := leAt c.pl 5 2
  match panOf (leAt c.pl 0 1) with
  | none => s.badParam c.key 0
  | some p =>
    if 0x80000 ≤ a then s.badParam c.key 1
    else if n < 1 ∨ 4096 < n ∨ 0x80000 < a + n then s.badParam c.key 5
    else s.ok c.key ((List.range n).map (fun i => memGet s.mem (s.imgAt p (a + i)))))

/-- FORCE (R153). -/
def execForce (r : Req) (s : State) : Host.Outcome State Fault Refusal := .next (s.opcode r 4 6 bodyForce)

/-- UNFORCE (R153). -/
def execUnforce (r : Req) (s : State) : Host.Outcome State Fault Refusal := .next (s.opcode r 4 7 bodyUnforce)

/-- IMAGE_READ (R136). -/
def execImageRead (r : Req) (s : State) : Host.Outcome State Fault Refusal := .next (s.opcode r 4 8 bodyImageRead)

/-- A write of RAKE_CTRL (R168): 0 is not stored while a Pan is STARTING, RUN or HALTED. -/
def State.rakeCtrl (s : State) (w : Nat) : State :=
  if w % 2 = 0 ∧ (s.panBusy .a || s.panBusy .b) then s else s.setF F.RAKE_CTRL_EN (w % 2)

/-- RAKE_CTRL_WRITE (R168). -/
def execRakeCtrlWrite (who : Who) (value : Word) (s : State) : Host.Outcome State Fault Refusal :=
  .next (s.regDo who A.RAKE_CTRL (fun s => s.rakeCtrl value.toNat))

/-- SILENCE_TIMEOUT (R195): RING_SIL_TO passes without an apply strobe. -/
def execSilenceTimeout (p : PanId) (s : State) : Host.Outcome State Fault Refusal := .next (s.panSilent p)

/-- BRIDGE_HOLD_EXPIRY (R195). -/
def execBridgeHoldExpiry (p : PanId) (b : Fin 10) (s : State) : Host.Outcome State Fault Refusal := .next (s.bankOff p b)

end Sys2Proof.Machine
end

