-- ==== Sys2Proof/Machine/Pan.lean ====
section
/-! DEFINITION. Pan programs, modes and starts (R158 to R161, R517 to R519), boundaries, lateness and overrun (R144, R145, R150 to
R152), the program call and the system status area (R138, R517). -/
namespace Sys2Proof.Machine

/-- Store a Pan's mode (R158). -/
def State.setMode (s : State) (p : PanId) (m : Nat) : State := s.setF (F.RAKE_PAN_STATE_MODE p.num) m

/-! Programs (R158, R162 to R164, R166). -/

/-- A block with bytes stored at an offset: an offset of 0 begins the block anew, a gap reads as erased flash. -/
def blockPut (b : List Byte) (off : Nat) (d : List Byte) : List Byte :=
  if off = 0 then d
  else b.take off ++ List.replicate (off - b.length) 0xFF#8 ++ d ++ b.drop (off + d.length)

/-- Total bytes of blocks. -/
def blockBytes (t : Tbl (List Byte)) : Nat := t.foldl (fun n x => n + x.2.length) 0

/-- The blocks of a program and their CRC-32C: the header's, as later edits changed them (R158, R164). -/
def PanSt.crcList (x : PanSt) : List (Nat × Nat) :=
  match tblFind x.blocks 0 with
  | none => []
  | some h =>
    ((Config.progCrcs h).filter (fun c => (tblFind x.crcs c.1).isNone)) ++
    x.crcs.filterMap (fun c => c.2.map (fun v => (c.1, v)))

/-- Block 0 and every block are there with matching CRCs (R158, R159). -/
def PanSt.progOk (x : PanSt) : Bool :=
  (tblFind x.blocks 0).isSome &&
  x.crcList.all (fun c => match tblFind x.blocks c.1 with | some b => crc32c b == c.2 | none => false)

/-- Copy a program from flash to I-TCM (R158, R160); STEWARD extends MR7 with the digest of its block 0 (R374). -/
def State.progCopy (s : State) (p : PanId) : State :=
  let x := s.pan p
  let h := (tblFind x.blocks 0).getD []
  let pl := x.blocks.map (fun b => (b.1, Config.blockPlace h b.1 % 0x100000))
  let s1 := x.blocks.foldl (fun s b => s.mputBytes (itcmBase p + Config.blockPlace h b.1 % 0x100000) b.2) s
  (s1.extend 7 (Config.sha384 h)).modPan p
    (fun x => { x with code := x.blocks, place := pl, staged := [], edit := none, unstored := false })

/-- LOAD_BLOCK (R158, R166). -/
def bodyLoadBlock : Body := fun c s =>
  let b := leAt c.pl 1 2
  let off := leAt c.pl 3 4
  let d := c.pl.drop 7
  if c.pl.length < 7 then s.badLen c.key 7
  else match panOf (leAt c.pl 0 1) with
  | none => s.badParam c.key 0
  | some p =>
    let x := s.pan p
    let new := tblSet x.blocks b (blockPut (tblGet x.blocks b) off d)
    if 1023 < b then s.badParam c.key 1
    else if (s.panMode p ≠ 0 ∧ s.panMode p ≠ 1) ∨ s.hsPaired then s.wrongState c.key (s.panMode p)
    else if 0x100000 < off + d.length ∨ 0x100000 < blockBytes new then s.limit c.key 0x0503
    else
      let s1 := (s.pdForPan p).modPan p (fun x => { x with blocks := new, crcs := if b = 0 then [] else tblErase x.crcs b })
      let s2 := if (s1.pan p).progOk then ((if s1.panMode p = 0 then s1.setMode p 1 else s1).progCopy p).panRelease p else s1
      s2.ok c.key []

/-- LOAD_BLOCK (R158). -/
def execLoadBlock (r : Req) (s : State) : Host.Outcome State Fault Refusal := .next (s.opcode r 4 1 bodyLoadBlock)

/-! The core at PANRT (R517, R519). -/

/-- TLB entries for a run of 4 KiB pages that start and end on 64 KiB or 4 KiB boundaries. -/
def tlbRun (asid : Nat) (g u x w : Bool) (page n size : Nat) : List TlbEntry :=
  (List.range n).map (fun i => { vpage := page + i * size, pages := size, ppage := page + i * size, asid := asid, g := g, u := u,
                                 x := x, w := w, locked := true })

/-- The memories whose pages a program's header may give the application (R519): its I-TCM and shared SRAM. -/
def panrtMay (p : PanId) (a : Nat) : Bool := decide (memKind a = .itcm p) || decide (memKind a = .sram)

/-- The mapping PANRT locks before it lowers PSR.PL (R519): the fixed D-TCM ranges, the I-TCM pages of the program (W 0, X 1), the
shared SRAM windows that block 0 declares (W as declared, X 0), PANRT's own. -/
def panrtMap (p : PanId) (hdr : List Byte) : List TlbEntry :=
  let d := dtcmBase p / 0x1000
  let run := fun (w : Bool) off n size => tlbRun 1 false true false w (d + off) n size
  run false 0x00 2 16 ++ run true 0x20 5 16 ++ run false 0x70 1 16 ++
  run true 0xA8 8 1 ++ run true 0xB0 4 16 ++ run true 0xF0 8 1 ++
  (((Config.progPages hdr).filter (fun q => panrtMay p (q.1 * 0x1000))).map (fun q =>
    { vpage := q.1, pages := q.2.1, ppage := q.1, asid := 1, g := false, u := true, x := decide (memKind (q.1 * 0x1000) = .itcm p),
      w := q.2.2 && decide (memKind (q.1 * 0x1000) = .sram), locked := true })) ++
  ((Config.panrtPages p.num).map (fun q => { vpage := q.1, pages := q.2, ppage := q.1, asid := 1, g := true, u := false, x := true,
                                             w := false, locked := true })) ++
  tlbRun 1 true false false true (d + 0xF8) 8 1

/-- PANRT calls the cyclic program (R145, R517): application privilege, IE 1, XA 0, flags 0 but DIS, BITST 0, LK and SP set, the
other registers 0, the mapping of R519 in force. -/
def State.panCall (s : State) (p : PanId) : State :=
  let k := s.core p.core
  let hdr := (s.pan p).header
  let k1 : FkCore := { k with
    w := ((Vector.replicate 32 0#32).set 30 (toW (Config.panrtLk p.num))).set 31 (toW (dtcmBase p + 0xF8000))
    pc := toW (Config.progEntry hdr)
    psr := toW (putBits (putBits 0 12 12 (k.psrBits 12 12)) 18 18 1)
    bitst := 0#32
    tnow := (s.pan p).bk
    mctrl := toW (putBits k.mctrl.toNat 1 0 3)
    asid := 1#32
    tlb := panrtMap p hdr
    run := match k.run with | .waiting => .running | r => r }
  s.setCore p.core k1

/-! The system status area (R138). -/

/-- Write it at a boundary entry. -/
def State.sysStatus (s : State) (p : PanId) : State :=
  let x := s.pan p
  let n := p.num
  let base := dtcmBase p + 0x70000
  let qs := (List.range 0x400).any (fun i => memGet s.mem (s.imgAt p (0xFC00 + i)) != 0#8)
  let flags := s.f (F.RAKE_PAN_STATE_FIRST n) + 2 * s.f (F.RAKE_PAN_STATE_WARM n) + 4 * s.f (F.RAKE_PAN_STATE_CRUST n) +
    8 * b2n (!x.forces.isEmpty) + 16 * s.f F.RAKE_PFW_ACTIVE + 32 * s.f (F.RAKE_PAN_STATE_STANDBY n) + 64 * b2n x.editFlag +
    128 * b2n qs
  s.mputBytes base (leBytes 4 (s.f (F.RAKE_PAN_CYCLE_VALUE n)) ++ leBytes 4 (min 0xFFFFFFFF x.logicNs) ++
    leBytes 4 (min 0xFFFFFFFF x.maxNs) ++ leBytes 4 x.lastPeriod ++ leBytes 2 (min 65535 x.lateTotal) ++
    leBytes 2 (min 65535 x.ovrTotal) ++ leBytes 2 (min 65535 x.lastLate) ++ leBytes 1 (min 255 x.cons) ++ leBytes 1 flags)

/-! Online edits: the swap (R163). -/

/-- Swap staged blocks in: I-TCM runs them from this cycle on; RAKE_EDIT_SWAP. -/
def State.editSwap (s : State) (p : PanId) (blocks : List Nat) : State :=
  let s1 := s.modPan p (fun x =>
    let mine := x.staged.filter (fun b => blocks.contains b.1)
    { x with code := mine.foldl (fun c b => if b.2.isEmpty then tblErase c b.1 else tblSet c b.1 b.2) x.code
             place := mine.foldl (fun c b => tblSet c b.1 (Config.stagePlace x.gen b.1 % 0x100000)) x.place
             staged := x.staged.filter (fun b => !blocks.contains b.1)
             gen := x.gen + 1, edit := none, unstored := true })
  let init := ((s.pan p).staged.filter (fun b => blocks.contains b.1)).flatMap (fun b => Config.blockInit b.2)
  (init.foldl (fun s (d : Nat × List Byte) => s.mputBytes (dtcmBase p + d.1) d.2) s1).raise 267

/-- A swap that waits does not take place: the token it runs under has gone (R48). Its request ends FAILED, the staged blocks stay. -/
def State.editStop (s : State) (p : PanId) (k : RKey) : State :=
  let s1 := s.modPan p (fun x => { x with edit := none, editFlag := false })
  ({ s1 with ring := { s1.ring with hs := { s1.ring.hs with pans := tblMod s1.ring.hs.pans p.num (fun h => { h with lastEdit := [] }) } } }).failStopped k 2

/-- A swap that waits for a boundary takes place at once when the Pan enters STOP or FAULT (R163). -/
def State.editNow (s : State) (p : PanId) : State :=
  match (s.pan p).edit with
  | none => s
  | some (k, blocks, _) =>
    if s.mustStop 2 && k.isSome then s.editStop p (k.getD default) else
    let s1 := s.editSwap p blocks
    match k with
    | some k => s1.ok k (leBytes 4 0)
    | none => s1

/-! Leaving RUN (R152, R158, R518). -/

/-- A Pan of a hot-standby primary leaves RUN: heartbeats stop (R152, R184). -/
def State.hsLeaves (s : State) : State :=
  if s.f F.RING_HS_STAT_ROLE = 2 then { s with ring := { s.ring with hs := { s.ring.hs with stopped := true } } } else s

/-- A start that ends before B0 completes its PAN_MODE RUN (R158): FAILED, with a cause the spec does not name (log 151). -/
def State.startLost (s : State) (p : PanId) : State :=
  match (s.pan p).started with
  | some k => ((s.modPan p (fun x => { x with started := none })).failed k s.freeNat).useFree
  | none => s

/-- The Pan enters FAULT (R152, R158, R417): no further commit or strobe, silence, RAKE_p_FSTOP. A Pan without a program stays
EMPTY. -/
def State.panFault (s : State) (p : PanId) : State :=
  let s1 := (if s.panMode p = 0 then s else s.setMode p 4).modPan p
    (fun x => { x with logic := false, stopReq := false, shadow := [], strobe := false, pfw := 0 })
  (((((s1.rakeEvt 6 p).hsLeaves).panSilent p).updPanFault).editNow p).startLost p

/-- PANRT holds the core: the application's logic has stopped, and the core waits for an event in PANRT (R152, log 152). -/
def State.panHold (s : State) (p : PanId) : State :=
  let k := s.core p.core
  match k.run with
  | .running | .waiting => s.setCore p.core { k.setPsr 17 16 1 with pc := toW (Config.panrtLk p.num), run := .waiting }
  | _ => s

/-- A fault-stop (R152): PANRT halts the logic at once, and the Pan enters FAULT. -/
def State.faultStop (s : State) (p : PanId) : State := (s.panHold p).panFault p

/-! Starts (R158 to R161). -/

/-- What PAN_MODE RUN is refused with (R158, R143, R159): `wrong` before it is accepted, the others after; `go` when the start may
begin. -/
inductive StartRes where
  | wrong
  | state
  | failed (cause : Nat)
  | limit (id : Nat)
  | go
  deriving DecidableEq, Repr

/-- The newer of two retain images. -/
def newerImg (a b : Option (Ckpt × Bool)) : Option (Ckpt × Bool) :=
  match a, b with
  | some x, some y => if newer 32 y.1.seq x.1.seq then some y else some x
  | some x, none => some x
  | none, y => y

/-- A Crust retain record as a checkpoint (R157, R394). -/
def State.crustImage (s : State) (p : PanId) : Option Ckpt :=
  match s.retainRead p.num with
  | some (h, d) => some { seq := leAt h 0 4, retid := leAt h 4 4, cycle := leAt h 8 4, lenKib := leAt h 12 2, tnow := leAt h 16 8, data := d }
  | none => none

/-- The retain source of a warm start: the newest valid image of the program's RETID; true when from the Crust store (R159). -/
def State.retainSrc (s : State) (p : PanId) : Option (Ckpt × Bool) :=
  let id := Config.progRetid (s.pan p).header
  let ok := fun (b : Bool) (c : Option Ckpt) => (c.filter (fun c => c.retid == id)).map (fun c => (c, b))
  newerImg (newerImg (ok false (s.slotImage p 0)) (ok false (s.slotImage p 1))) (ok true (s.crustImage p))

/-- Lines of the input image that hold an input entry or a Q bit of a map (R186). -/
def mapLines (l : List Nat) : List Nat :=
  ((((l.filter eIn).flatMap (fun e => (List.range (eBytes e)).map (fun i => (eByte e + i) / 64))) ++
    l.zipIdx.map (fun x => qByte x.2 / 64)).eraseDups).mergeSort (fun a b => decide (a ≤ b))

/-- The mirror capacity of a Pan in lines per cycle (R187). -/
def State.mirCap (s : State) (p : PanId) : Nat :=
  let t := s.f (F.RAKE_PAN_CFG_PERIOD_US p.num)
  let a := s.f F.RING_HS_CFG_SHARE_A
  let alone := (s.pan p.other).map.isEmpty
  min 4096 (t * 1515 * 8 / 640) * (if alone then 100 else if p = .a then a else 100 - a) / 100

/-- The retain split as a start takes it (R168). -/
def State.splitNew (s : State) : State := { s with rake := { s.rake with split := min 32 (s.f F.RAKE_RET_SPLIT) } }

/-- The checks of PAN_MODE RUN in the order of R158, and R187's on a paired device. -/
def State.startCheck (s : State) (p : PanId) (warm : Bool) : StartRes :=
  let share := if p = .a then s.f F.RAKE_RET_SPLIT else 32 - s.f F.RAKE_RET_SPLIT
  if (s.panMode p ≠ 1 ∧ s.panMode p ≠ 4) ∨ s.flag F.SYSCTL_RSTLAST_STORM then .wrong
  else if !s.flag F.RAKE_CTRL_EN ∨ (s.pan p).map.isEmpty then .state
  else if !(s.pan p).progOk then .failed 0x0512
  else if share < Config.progRetKib (s.pan p).header then .failed 0x0514
  else if !s.timeOk s.pA.map s.pB.map p then .limit 0x0502
  else if s.flag F.RING_HS_CFG_EN && decide (s.mirCap p / 2 < (mapLines (s.pan p).map).length) then .limit 0x0601
  else if warm && (s.splitNew.retainSrc p).isNone then .failed 0x0510
  else .go

/-- Enter STARTING: period and phase are read, the retain split takes effect (R143, R158, R168). -/
def State.panStart (s : State) (p : PanId) (warm : Bool) (k : Option RKey) : State :=
  let per := s.f (F.RAKE_PAN_CFG_PERIOD_US p.num)
  (s.splitNew.setMode p 2).modPan p (fun x => { x with
    period := per, anchor := s.f (F.RAKE_PAN_PHASE_PHASE_US p.num) % max 1 per,
    started := k, warm := warm, b0 := false, stopReq := false, logic := false, overran := false })

/-- Answer a PAN_MODE RUN that is refused (R158). -/
def State.startRefuse (s : State) (p : PanId) (k : RKey) (r : StartRes) : State :=
  match r with
  | .wrong | .state => s.wrongState k (s.panMode p)
  | .failed c => (s.when (c == 0x0510) (fun s => s.raise 272)).failed k c
  | .limit id => s.limit k id
  | .go => s

/-- PAN_MODE (R158): RUN is accepted and completes at B0 or at its refusal; STOP from RUN acts at the next boundary. -/
def bodyPanMode : Body := fixedLen 2 (fun c s =>
  let m := leAt c.pl 1 1
  match panOf (leAt c.pl 0 1) with
  | none => s.badParam c.key 0
  | some p =>
    if 2 < m then s.badParam c.key 1
    else if m = 0 then
      if s.panMode p = 3 then (s.modPan p (fun x => { x with stopReq := true })).ok c.key []
      else if s.panMode p = 4 then (s.setMode p 1).ok c.key []
      else s.wrongState c.key (s.panMode p)
    else
      match s.startCheck p (m == 1) with
      | .go => (s.accept c.key).panStart p (m == 1) (some c.key)
      | .wrong => s.wrongState c.key (s.panMode p)
      | r => (s.accept c.key).startRefuse p c.key r)

/-- PAN_MODE (R158). -/
def execPanMode (r : Req) (s : State) : Host.Outcome State Fault Refusal := .next (s.opcode r 4 3 bodyPanMode)

/-- Initial data and retain share (R159 steps 2 to 4): bytes the initial data set does not name become 0. -/
def State.startData (s : State) (p : PanId) : State :=
  let x := s.pan p
  let b := dtcmBase p
  let m0 := memClear (memClear s.mem (b + 0x30000) 0x40000) (b + 0xA8000) 0x50000
  let okAt := fun (o n : Nat) => (decide (0x30000 ≤ o) && decide (o + n ≤ 0x70000)) || (decide (0xA8000 ≤ o) && decide (o + n ≤ 0xF8000))
  let m1 := (Config.progInit x.header).foldl (fun m d => if okAt d.1 d.2.length then memPut m (b + d.1) d.2 else m) m0
  let src := if x.warm then s.retainSrc p else none
  let m2 := match src with
    | some (c, _) => memPut m1 (b + s.shareAt p) (fitBytes (s.share p * 1024) c.data)
    | none => m1
  let m3 := memClear m2 (b + 0x20000) 0x10000
  let m4 := (List.range 3).foldl (fun m i => memClear m (b + inBuf i + 0xFC00) 0x400) m3
  let e := (((eccClear s.ecc (b + 0x20000) 0x10000) |> (eccClear · (b + 0x30000) 0x40000)) |> (eccClear · (b + 0xA8000) 0x50000))
  ({ s with mem := m4, ecc := e }.setFlag (F.RAKE_PAN_STATE_CRUST p.num) (match src with | some (_, c) => c | none => false)).setFlag
    (F.RAKE_PAN_STATE_WARM p.num) x.warm

/-- The silence timeout of an entry to RUN (R195). -/
def State.silTo (s : State) (p : PanId) (per : Nat) : State := s.setF (F.RING_SIL_TO_US p.num) (min (2 ^ 21 - 1) (2 * per + 100))

/-- The start steps are complete (R158, R159): data, one latch and harvest into every input buffer, RUN; the silence timeout
of R195. -/
def State.startDone (s : State) (p : PanId) : State :=
  let s0 := s.modPan p (fun x => { x with oq := [], shadow := [], strobe := false })
  let s1 := (s0.canLetAll p.num).startData p
  let vals := s1.latchAll (s1.pan p).map
  let s2 := s1.canLatch p.num (s1.pan p).map
  let h := s2.harvest p (dtcmBase p + inBuf 0) vals
  let s3 := forBelow 2 h (fun i s => { s with
    mem := memCopy s.mem (dtcmBase p + inBuf 0) (dtcmBase p + inBuf (i + 1)) 0x10000
    ecc := eccClear s.ecc (dtcmBase p + inBuf (i + 1)) 0x10000 })
  let t := s3.dtime / 1000
  let s4 := s3.modPan p (fun x => { x with
    b0 := true, next := gridAt x.period x.anchor (t + 1), logic := false, overran := false, cons := 0, logicNs := 0, maxNs := 0,
    lastPeriod := 0, lastLate := 0, lateTotal := 0, ovrTotal := 0, editFlag := false })
  ((s4.setMode p 3).setF (F.RAKE_PAN_STATE_CONS p.num) 0).silTo p (s4.pan p).period

/-- PAN_START_STEPS_DONE (R158). -/
def execPanStartStepsDone (p : PanId) (s : State) : Host.Outcome State Fault Refusal :=
  .next (if s.panMode p = 2 then s.startDone p else s)

/-- The start R160 performs after a reset, as AUTO names it. -/
def State.autoStart (s : State) (p : PanId) : State :=
  match s.f (F.RAKE_PAN_CFG_AUTO p.num) with
  | 1 =>
    match s.startCheck p true with
    | .go => s.panStart p true none
    | .failed 0x0510 => s.raise 272
    | _ => s
  | 2 => if s.startCheck p false = .go then s.panStart p false none else s
  | 3 =>
    let w := (s.splitNew.retainSrc p).isSome
    if s.startCheck p w = .go then s.panStart p w none else s
  | _ => s

/-! Online edits: the swap at a boundary (R163), its storing (R164). -/

/-- EDIT_STORED (R164): the edited program is in flash, and MR7 is extended with the digest of the edit's blocks (R374). -/
def execEditStored (p : PanId) (s : State) : Host.Outcome State Fault Refusal :=
  .next (if !(s.pan p).unstored then s else
    let edit := (((s.pan p).code.filter (fun b => tblFind (s.pan p).blocks b.1 != some b.2)).flatMap (·.2))
    ((s.extend 7 (Config.sha384 edit)).modPan p (fun x =>
      let gone := (x.blocks.filter (fun b => (tblFind x.code b.1).isNone)).map (fun b => (b.1, (none : Option Nat)))
      let new := (x.code.filter (fun b => tblFind x.blocks b.1 != some b.2)).map (fun b => (b.1, some (crc32c b.2)))
      { x with blocks := x.code, unstored := false, crcs := (gone ++ new).foldl (fun t c => tblSet t c.1 c.2) x.crcs })).raise 268)

/-- A pending swap takes place at a boundary (R145, R163); its request completes with the cycle number. That is its safe point when
its token has gone (R48). -/
def State.editAt (s : State) (p : PanId) : State :=
  match (s.pan p).edit with
  | none => s.modPan p (fun x => { x with editFlag := false })
  | some (k, blocks, c) =>
    if s.mustStop 2 && k.isSome then s.editStop p (k.getD default) else
    if c.isSome && c != some (s.f (F.RAKE_PAN_CYCLE_VALUE p.num)) then s.modPan p (fun x => { x with editFlag := false }) else
    let s1 := (s.editSwap p blocks).modPan p (fun x => { x with editFlag := true })
    match k with
    | some k => s1.ok k (leBytes 4 (s1.f (F.RAKE_PAN_CYCLE_VALUE p.num)))
    | none => s1

/-! Boundaries (R144, R145, R147, R149). -/

/-- Cycle number, grid and times of a boundary at the present DTIME (R138, R144, R151). -/
def State.bndTimes (s : State) (p : PanId) : State :=
  let x := s.pan p
  let t := s.dtime / 1000
  let c := if x.b0 then 0 else (s.f (F.RAKE_PAN_CYCLE_VALUE p.num) + 1) % 2 ^ 32
  let s1 := (s.setF (F.RAKE_PAN_CYCLE_VALUE p.num) c).setFlag (F.RAKE_PAN_STATE_FIRST p.num) x.b0
  s1.modPan p (fun x => { x with
    lastPeriod := if x.b0 then 0 else (s.now - x.bkNow) / 1000 % 2 ^ 32
    bk := t, bkNow := s.now, halted := 0, next := x.next + x.period,
    ckptDue := if x.b0 then s.now / 1000 + 1000 * s.f F.RAKE_RET_CKPT_MS else x.ckptDue })

/-- Stop at a boundary (R158): that boundary made the last commit. -/
def State.panStopped (s : State) (p : PanId) : State :=
  let s1 := ((s.panHold p).setMode p 1).modPan p (fun x => { x with stopReq := false, logic := false, pfw := 0 })
  let s2 := (s1.editNow p).hsLeaves
  if (s2.pan p).strobe then s2 else s2.panSilent p

/-- The boundary entry (R145): latch and rotation, snapshot and checkpoint, then the program call; the commit of the last cycle
and the harvest follow (R146, R147), but for a standby, whose mirror stands in for both (R149). No commit at B0 (R161). `f` are the
faults of R165 that arise outside the Rake. A PAN_MODE RUN completes at B0, also where a STOP acts there (R158). -/
def State.boundary (s : State) (p : PanId) (f : BndFault) : State :=
  let first := (s.pan p).b0
  let standby := s.flag (F.RAKE_PAN_STATE_STANDBY p.num)
  let l := (s.pan p).map
  let s := match f.late with | some i => if first || standby then s else s.harvLate p i | none => s
  let s := if standby then s else s.canLetAll p.num
  let vals := if f.snap then snapLost l (s.latchAll l) else s.latchAll l
  let s1 := if standby then s else s.canLatch p.num l
  let s2 := (s1.modPan p (fun x => { x with rot := (x.rot + 2) % 3 })).bankCopy p 0x20000 commitBank 0x10000
  let s3 := s2.rakeEvt 0 p
  let s4 := if first || standby then s3 else s3.commit p f.commit
  let b0ok := fun (s : State) => match (s.pan p).started with
    | some k => (s.modPan p (fun x => { x with started := none })).ok k []
    | none => s
  if (s4.pan p).stopReq then (b0ok s4).panStopped p else
  let s5 := (s4.bndTimes p).ckptDue p
  let s6 := if standby then s5 else (s5.harvest p (s5.thirdBuf p) vals).when f.snap (fun s => s.raise 265)
  let s7 := ((s6.editAt p).sysStatus p).modPan p (fun x => { x with b0 := false, logic := true, overran := false })
  b0ok (s7.panCall p)

/-- A boundary may take place: the Pan is in RUN, its logic phase has ended, the Rake serves (R150, R158, R168). -/
def State.bndMay (s : State) (p : PanId) : Bool :=
  s.panMode p == 3 && !s.flag (F.RAKE_PAN_STATE_STANDBY p.num) && !(s.pan p).logic && s.flag F.RAKE_CTRL_EN

/-! The end of the logic phase (R150, R151). -/

/-- Consecutive overruns, in the register too. -/
def State.setCons (s : State) (p : PanId) (n : Nat) : State :=
  (s.modPan p (fun x => { x with cons := n })).setF (F.RAKE_PAN_STATE_CONS p.num) (min 15 n)

/-- An overrun (R151): counted once in a cycle; the Pan fault-stops past NCONS, or under FAULT_STOP. -/
def State.overrun (s : State) (p : PanId) : State :=
  let x := s.pan p
  if s.panMode p ≠ 3 ∨ !x.logic ∨ x.overran ∨ s.flag (F.RAKE_PAN_STATE_STANDBY p.num) then s else
  let n := x.cons + 1
  let s1 := (((s.modPan p (fun x => { x with overran := true, ovrTotal := satAdd 65535 x.ovrTotal 1 })).setCons p n).incF
    (F.RAKE_PAN_CNT_OVR p.num) 1).rakeEvt 4 p
  if s1.f (F.RAKE_PAN_OVR_NCONS p.num) < n ∨ s1.f (F.RAKE_PAN_CFG_ACTION p.num) = 2 then s1.faultStop p
  else s1.updCycle p.num false

/-- OVERRUN (R151): the logic phase still runs at the grid instant plus L. -/
def execOverrun (p : PanId) (s : State) : Host.Outcome State Fault Refusal := .next (s.overrun p)

/-- HARD_LIMIT_EXPIRY (R151): the logic phase of an overrun still runs at H periods. -/
def execHardLimitExpiry (p : PanId) (s : State) : Host.Outcome State Fault Refusal :=
  .next (if s.panMode p = 3 ∧ (s.pan p).logic ∧ (s.pan p).overran then s.faultStop p else s)

/-- The logic phase's duration is registered (R150, R168). -/
def State.logicEnd (s : State) (p : PanId) : State :=
  let ns := s.now - (s.pan p).bkNow - (s.pan p).halted
  let u := min 65535 (ns / 10)
  let s1 := s.modPan p (fun x => { x with logic := false, logicNs := ns, maxNs := max x.maxNs ns })
  (s1.setF (F.RAKE_PAN_LOGIC_LAST p.num) u).setF (F.RAKE_PAN_LOGIC_MAX p.num) (max u (s1.f (F.RAKE_PAN_LOGIC_MAX p.num)))

/-- The Pan is a hot-standby copy, whose boundaries follow the primary's markers (R149, R188). -/
def State.standby (s : State) (p : PanId) : Bool := s.flag (F.RAKE_PAN_STATE_STANDBY p.num)

/-- A Pan that was halted in its logic phase: the next boundary falls at the first grid instant from now on (R491). -/
def State.afterHalt (s : State) (p : PanId) : State :=
  if (s.pan p).halted = 0 then s
  else s.modPan p (fun x => { x with next := max x.next (gridAt x.period x.anchor (cdiv s.dtime 1000)) })

/-- The next boundary after the logic phase ended at the present instant (R151). The time halted counts for nothing (R491). -/
def State.resolve (s : State) (p : PanId) : State :=
  let x := s.pan p
  let d := s.dtime / 1000
  let at_ := s.dtime - x.halted
  let late := decide (x.next * 1000 < at_)
  let lateUs := (at_ - x.next * 1000) / 1000
  if !late && !x.overran then
    (((s.logicEnd p).setCons p 0).modPan p (fun x => { x with lastLate := 0 })).afterHalt p |>.updCycle p.num true
  else if !x.overran && decide (at_ ≤ (x.next + s.f (F.RAKE_PAN_OVR_LATE_US p.num)) * 1000) then
    let s1 := (s.logicEnd p).modPan p (fun x => { x with lastLate := lateUs, lateTotal := satAdd 65535 x.lateTotal 1 })
    (((s1.incF (F.RAKE_PAN_CNT_LATE p.num) 1).rakeEvt 2 p).afterHalt p).updCycle p.num true
  else
    let s1 := s.overrun p
    if s1.panMode p ≠ 3 then s1 else
    let s2 := (s1.logicEnd p).modPan p (fun x => { x with lastLate := lateUs })
    if s2.f (F.RAKE_PAN_CFG_ACTION p.num) = 0 then s2.modPan p (fun x => { x with next := d, anchor := d % max 1 x.period })
    else s2.modPan p (fun x => { x with next := gridAt x.period x.anchor (cdiv s2.dtime 1000) })

/-- PANRT has written DONE (R150, R157): the next boundary is resolved, a final checkpoint that is wanted is taken. -/
def State.panDone (s : State) (p : PanId) : State :=
  if s.panMode p ≠ 3 ∨ !(s.pan p).logic then s else
  let s1 := if s.standby p then s.logicEnd p else s.resolve p
  if (s1.pan p).pfw = 1 then s1.pfwTake p else s1

/-- A write of RAKE_PAN_p_DONE (R150): Pan p's own core alone. -/
def State.doneWrite (s : State) (who : Who) (p : PanId) (w : Nat) : State :=
  match who with
  | .core c _ => if c = p.core then (if w % 2 = 1 then s.panDone p else s) else s.busErr who
  | _ => s.busErr who

/-- RAKE_PAN_DONE (R150). -/
def execRakePanDone (who : Who) (p : PanId) (value : Word) (s : State) : Host.Outcome State Fault Refusal :=
  .next (s.regDo who (A.RAKE_PAN_DONE p.num) (fun s => s.doneWrite who p value.toNat))

/-! Fatal exceptions of the application (R518). -/

/-- PANRT handles a fatal exception, of the application or its own, in any mode: the Pan enters FAULT, and a Crust log entry takes
vector, sub-cause, XPC and XADDR. The core is in PANRT, at the vector. -/
def State.panFatal (s : State) (p : PanId) : State :=
  let k := s.core p.core
  (s.panFault p).logKind 518 [bits k.xcause.toNat 3 0, bits k.xcause.toNat 11 4, k.xpc.toNat, k.xaddr.toNat]

end Sys2Proof.Machine
end

