-- ==== Sys2Proof/Machine/Hs.lean ====
section
/-! DEFINITION. Hot-standby pairs (R182 to R192, R194), online edits (R162, R163, R194), and the boundary of a Pan with its mirror. -/
namespace Sys2Proof.Machine

/-! Identity, heartbeats and mirrors (R182, R184 to R187). -/

/-- Role of the device (R198). -/
def State.role (s : State) : Nat := s.f F.RING_HS_STAT_ROLE

/-- Address of the partner. -/
def State.partner (s : State) : Nat := s.f F.RING_HS_CFG_PARTNER

/-- What partners compare (R182): program identities, the CRC over the maps, periods and phases. -/
def State.hsIdent (s : State) : List Byte :=
  leBytes 4 (Config.progId s.pA.header) ++ leBytes 4 (Config.progId s.pB.header) ++
  leBytes 4 (crc32c ((s.pA.map ++ s.pB.map).flatMap (leBytes 8))) ++
  (List.range 2).flatMap (fun p => leBytes 4 (s.f (F.RAKE_PAN_CFG_PERIOD_US p)) ++ leBytes 4 (s.f (F.RAKE_PAN_PHASE_PHASE_US p)))

/-- A heartbeat's payload (R184): kind 0, role, PREF, cycle numbers, the handover boundary or 0, the identity. -/
def State.hbBytes (s : State) : List Byte :=
  leBytes 1 0 ++ leBytes 1 s.role ++ leBytes 1 (s.f F.RING_HS_CFG_PREF) ++ leBytes 4 (s.f (F.RAKE_PAN_CYCLE_VALUE 0)) ++
  leBytes 4 (s.f (F.RAKE_PAN_CYCLE_VALUE 1)) ++ leBytes 8 (match s.ring.hs.plan with | some (b, _) => b | none => 0) ++ s.hsIdent

/-- Heartbeats are sent: a role that sends them, an address (R175), and they are not stopped (R184). -/
def State.hbOn (s : State) : Bool :=
  decide (1 ≤ s.role) && decide (s.role ≤ 4) && s.ownAddr != 0 && !s.ring.hs.stopped && !s.rstSevere

/-- HEARTBEAT_SEND (R184): on every UP link. -/
def execHeartbeatSend (s : State) : Host.Outcome State Fault Refusal :=
  .next (if s.hbOn then s.upLinks.foldl (fun s l => s.brlSend l 4 s.partner s.ownAddr 0 0 s.hbBytes) s else s)

/-- D-TCM offset of a tracked line (R185). -/
def hsLineAt (i : Nat) : Nat := if i < 4096 then 0x30000 + 64 * i else 0xA8000 + 64 * (i - 4096)

/-- The lines of a mirror as they travel (R186). -/
def mirLines (tracked : Bool) (ls : List (Nat × List Byte)) : List (List Byte) :=
  ls.map (fun x => leBytes 4 (x.1 + (if tracked then 0x4000 else 0)) ++ x.2)

/-- Cut a list into pieces of `n`. -/
def chunks (n : Nat) : Nat → List (List Byte) → List (List (List Byte))
  | 0, _ => []
  | k + 1, l => if l.isEmpty then [] else l.take n :: chunks n k (l.drop n)

/-- The cycle record of a mirror (R186). -/
def State.cycRec (s : State) (p : PanId) (nin ndirty nsync ocrc : Nat) : List Byte :=
  let b := leBytes 4 (s.f (F.RAKE_PAN_CYCLE_VALUE p.num)) ++ leBytes 8 (s.pan p).bk ++ leBytes 1 p.num ++
    leBytes 1 (b2n (s.pan p).editFlag) ++ leBytes 2 0 ++ leBytes 2 nin ++ leBytes 2 ndirty ++ leBytes 2 nsync ++ leBytes 2 0 ++
    leBytes 4 ocrc
  b ++ leBytes 4 (crc32c b)

/-- The mirror engine reads a 64-byte line at an address of R19 through IOMMU stream 3 (R112), with the errors of R102 and R103; none
where the IOMMU refuses it, where it leads to no memory, or where it is uncorrectable. -/
def State.mirRead (s : State) (a : Nat) : State × Option (List Byte) :=
  match s.ioStream 3 a false with
  | (s1, none) => (s1, none)
  | (s1, some pa) =>
    match memKind pa with
    | .none | .reg | .hole _ => (s1, none)
    | _ =>
      let r := s1.eccRead (s1.place pa) 64
      if r.2 then (r.1, none) else (r.1, some (r.1.mbytes (s1.place pa) 64))

/-- The mirror's lines, each with the address it is read from; none when one of them cannot be read. -/
def State.mirReads (s : State) : List (Nat × Nat) → State × Option (List (Nat × List Byte))
  | [] => (s, some [])
  | x :: t =>
    match s.mirRead x.2 with
    | (s1, none) => (s1, none)
    | (s1, some b) =>
      match s1.mirReads t with
      | (s2, none) => (s2, none)
      | (s2, some r) => (s2, some ((x.1, b) :: r))

/-- A primary's boundary marker and mirror (R185 to R188): the marker, the cycle record, the input lines, the frozen lines, and
in a full transfer the further lines that the capacity leaves room for. Two boundaries past its swap cycle, a standby has applied
an edit (R188, R194). A mirror with a line that the engine cannot read is not sent; the standby finds it incomplete (DESIGN CHOICE,
log 153). -/
def State.mirSend (s : State) (p : PanId) : State :=
  if s.role ≠ 2 then s else
  let h := s.hsPan p.num
  let ins := mapLines (s.pan p).map
  let dirty := h.dirty.mergeSort (fun a b => decide (a ≤ b))
  let spare := s.mirCap p - ins.length - dirty.length
  let more := (h.left.filter (fun i => !dirty.contains i)).take spare
  let ocrc := crc32c (s.mbytes (dtcmBase p + commitBank) 0x10000)
  let since := (s.f (F.RAKE_PAN_CYCLE_VALUE p.num) + 2 ^ 32 - h.editC) % 2 ^ 32
  let applied := s.f F.RING_HS_STAT_PROLE == 4 && decide (2 ≤ since) && decide (since < 2 ^ 31)
  let s1 := (s.modHsPan p.num (fun h => { h with
    dirty := [], left := h.left.filter (fun i => !(dirty ++ more).contains i)
    lastEdit := if applied then [] else h.lastEdit })).syncLeft
  let s2 := s1.setF (F.RING_MIR_LAST p.num) (ins.length + dirty.length + more.length)
  match s2.hsLink with
  | none => s2
  | some l =>
    let s3 := s2.brlSend l 4 s.partner s.ownAddr 0 0 (leBytes 1 1 ++ leBytes 1 p.num)
    match s3.mirReads (ins.map (fun i => (i, dtcmBase p + 64 * i))) with
    | (s4, none) => s4
    | (s4, some inB) =>
      match s4.mirReads ((dirty ++ more).map (fun i => (i, dtcmBase p + hsLineAt i))) with
      | (s5, none) => s5
      | (s5, some trB) =>
        let fr := chunks 60 200 (mirLines false inB ++ mirLines true trB)
        let s6 := s5.brlSend l 3 s.partner s.ownAddr 0 0 (s2.cycRec p ins.length dirty.length more.length ocrc)
        fr.foldl (fun s f => s.brlSend l 3 s.partner s.ownAddr 0 0 f.flatten) s6

/-- PAN_BOUNDARY (R145): the boundary of a Pan in RUN whose logic phase has ended, with the faults of R165 that it meets outside the
Rake; a primary then sends its marker and mirror. -/
def execPanBoundary (b : PanBnd) (s : State) : Host.Outcome State Fault Refusal :=
  .next (if s.bndMay b.pan then (s.boundary b.pan b.flt).mirSend b.pan else s)

/-! Roles (R183). -/

/-- Own (not PREF, address) is lower than the partner's (R183). -/
def State.hsLower (s : State) (pref : Bool) : Bool :=
  let mine := s.flag F.RING_HS_CFG_PREF
  if mine != pref then mine else decide (s.ownAddr < s.partner)

/-- The Pan-owned outputs of a Pan turn off (R183). -/
def State.panOutsOff (s : State) (p : PanId) : State :=
  (List.range 10).foldl (fun s b => (s.bankOwn p b).foldl State.resOff s) s

/-- A device that is no primary swaps no edit of its own: one that waits for its boundary fails as R194 gives. -/
def State.editDrop (s : State) (p : PanId) : State :=
  match (s.pan p).edit with
  | none => s
  | some (k, _, _) =>
    let s1 := s.modPan p (fun x => { x with edit := none, staged := [] })
    match k with
    | some k => s1.failed k 0x0610
    | none => s1

/-- A Pan that holds a program is a hot-standby copy: RUN, STANDBY 1, no logic (R183). Its checkpoints fall due from here (R155). -/
def State.becomeCopy (s0 : State) (p : PanId) : State :=
  let s := s0.editDrop p
  if s.panMode p = 0 then s else
  let per := s.f (F.RAKE_PAN_CFG_PERIOD_US p.num)
  let s1 := (((s.setMode p 3).setF (F.RAKE_PAN_STATE_STANDBY p.num) 1).silTo p per).modPan p (fun x => { x with
    logic := false, b0 := false, stopReq := false, shadow := [], strobe := false, period := per,
    ckptDue := s.now / 1000 + 1000 * s.f F.RAKE_RET_CKPT_MS
    anchor := s.f (F.RAKE_PAN_PHASE_PHASE_US p.num) % max 1 per })
  s1.modHsPan p.num (fun h => { h with mir := none, check := [], handed := false })

/-- Enter SYNCING (R183, R185): every Pan a copy, the full transfer from its first line; a primary's own outputs turn off at its
next boundary. -/
def State.enterSync (s : State) : State :=
  let s1 := (((s.hsRole 3).becomeCopy .a).becomeCopy .b).hsFull
  if s.role = 2 then s1.modHs (fun h => { h with offDue := true }) else (s1.panOutsOff .a).panOutsOff .b

/-- The Pans are copies no longer. -/
def State.endCopy (s : State) : State := (s.setF (F.RAKE_PAN_STATE_STANDBY 0) 0).setF (F.RAKE_PAN_STATE_STANDBY 1) 0

/-- Become PRIMARY from CANDIDATE: the Pans start as R160 gives (R183). -/
def State.primaryStart (s : State) : State :=
  let s1 := ((s.hsRole 2).endCopy).modHs (fun h => { h with stopped := false })
  (s1.autoStart .a).autoStart .b

/-- RING_HS_CFG is written (R183, R198): EN from 0 to 1 with the Pans in EMPTY or STOP makes a CANDIDATE of a device that has an
address (R175), EN 0 DISABLED. -/
def State.hsCfg (s : State) (w : Word) : State :=
  let s1 := match regAt A.RING_HS_CFG with
    | some r => s.plainWrite r A.RING_HS_CFG w
    | none => s
  if bit w.toNat 0 then
    if s1.role = 0 ∧ s1.ownAddr ≠ 0 ∧ s1.panMode .a ≤ 1 ∧ s1.panMode .b ≤ 1 then
      (s1.hsRole 1).modHs (fun h => { h with stopped := false })
    else s1
  else (s1.hsRole 0).endCopy

/-- RING_HS_CFG_WRITE (R183). -/
def execRingHsCfgWrite (who : Who) (value : Word) (s : State) : Host.Outcome State Fault Refusal :=
  .next (s.regDo who A.RING_HS_CFG (fun s => s.hsCfg value))

/-- A request of the device's own to its partner, over the direct link (R194); without one nothing goes out. -/
def State.partnerRequest (s : State) (op : Nat) (pl : List Byte) : State :=
  match s.hsLink with
  | some l => s.peerRequestOn l 1 s.partner 11 op pl
  | none => s

/-- The blocks of the last edit go to a standby that synchronises (R194): in pieces that a packet carries (R30). -/
def State.resendEdit (s : State) : State :=
  forBelow 2 s (fun p s =>
    (s.hsPan p).lastEdit.foldl (fun s b =>
      let n := max 1 (cdiv b.2.length 4088)
      (List.range n).foldl (fun s i =>
        s.partnerRequest 4 (leBytes 1 p ++ leBytes 2 b.1 ++ leBytes 4 (4088 * i) ++ (b.2.drop (4088 * i)).take 4088)) s) s)

/-- A heartbeat of the partner (R182, R183, R192): role, PREF, identity, handover boundary, which counts while it lies ahead. A
CANDIDATE pairs only over a direct x2 link (R182): without one its role stays. -/
def State.hbRx (s : State) (role : Nat) (pref : Bool) (ident : List Byte) (hand : Nat) : State :=
  let was := s.f F.RING_HS_STAT_PROLE
  let s1 := (s.setF F.RING_HS_STAT_PROLE role).modHs (fun h => { h with
    plan := if h.plan = none ∧ s.dtime < 1000 * hand then some (hand, none) else h.plan })
  if s1.role = 1 then
    if s1.hsLink.isNone then s1
    else if ident ≠ s1.hsIdent then (s1.hsRole 5).raise 334
    else if role = 2 then s1.enterSync
    else if role = 1 ∧ s1.hsLower pref then s1.primaryStart
    else s1
  else if s1.role = 2 then
    if role = 2 then
      let s2 := s1.raise 333
      if s2.hsLower pref then s2 else s2.enterSync
    else if role = 3 ∧ was ≠ 3 then (s1.hsFull).resendEdit
    else s1
  else s1

/-- HEARTBEAT_RX (R183). -/
def execHeartbeatRx (l : Fin 3) (src : BitVec 12) (role : Fin 6) (pref : Bool) (ident : List Byte) (hand : BitVec 64) (s : State) :
    Host.Outcome State Fault Refusal :=
  .next (if s.linkSt l = 3 ∧ s.flag F.RING_HS_CFG_EN ∧ s.brlTakes ∧ s.ownAddr ≠ 0 ∧ src.toNat = s.partner then
      s.hbRx role pref ident hand.toNat
    else s)

/-- HEARTBEAT_MISS (R184). -/
def execHeartbeatMiss (s : State) : Host.Outcome State Fault Refusal :=
  .next (if 1 ≤ s.role ∧ s.role ≤ 4 then (s.incF F.RING_HS_CNT_HBMISS 1).raise 335 else s)

/-- HEARTBEAT_LOSS (R183, R184, R190): a syncing device is a CANDIDATE whose Pans stop and start as after an L2 reset; a
standby will take over, and a planned handover is abandoned. -/
def execHeartbeatLoss (s : State) : Host.Outcome State Fault Refusal :=
  .next (if s.role = 3 then
      let stop := fun (p : PanId) (s : State) => if s.panMode p = 3 then s.setMode p 1 else s
      let s1 := ((stop .b (stop .a s)).endCopy).hsRole 1
      (s1.autoStart .a).autoStart .b
    else if s.role = 4 then
      let s1 := match s.ring.hs.plan with
        | some (_, some k) => (s.failed k s.freeNat).useFree
        | _ => s
      s1.modHs (fun h => { h with loss := true, plan := none })
    else s)

/-- CANDIDATE_WAIT_EXPIRY (R183). -/
def execCandidateWaitExpiry (s : State) : Host.Outcome State Fault Refusal :=
  .next (if s.role = 1 then s.primaryStart else s)

/-! The standby (R186, R188, R189). -/

/-- Read a cycle record; none when its CRC or its reserved bytes do not match (R186). -/
def readCyc (b : List Byte) : Option Mirror :=
  if b.length = 32 ∧ leAt b 28 4 = crc32c (b.take 28) ∧ leAt b 14 2 = 0 ∧ leAt b 22 2 = 0 then
    some { cycle := leAt b 0 4, tnow := leAt b 4 8, edit := bit (leAt b 13 1) 0, nin := leAt b 16 2, ndirty := leAt b 18 2,
           nsync := leAt b 20 2, ocrc := leAt b 24 4, input := [], tracked := [] }
  else none

/-- One line of a mirror arrives (R186): bit 14 of its index says that it is a tracked line. -/
def Mirror.line (m : Mirror) (x : BitVec 32 × List Byte) : Mirror :=
  let i := bits x.1.toNat 13 0
  if bit x.1.toNat 14 then { m with tracked := tblSet m.tracked i (fitBytes 64 x.2) }
  else { m with input := tblSet m.input i (fitBytes 64 x.2) }

/-- The mirror is whole (R186, R187). -/
def Mirror.whole (m : Mirror) : Bool := m.input.length == m.nin && m.tracked.length == m.ndirty + m.nsync

/-- Input lines go into the third buffer (R149, R188). -/
def State.mirInput (s : State) (p : PanId) (ls : List (BitVec 32 × List Byte)) : State :=
  (ls.filter (fun x => !bit x.1.toNat 14 && decide (bits x.1.toNat 13 0 < 1024))).foldl
    (fun s x => s.mputBytes (s.thirdBuf p + 64 * bits x.1.toNat 13 0) (fitBytes 64 x.2)) s

/-- MIRROR_FRAME_RX (R186): a frame with the cycle record begins a mirror; its lines, and later frames', are kept. -/
def execMirrorFrameRx (p : PanId) (record : List Byte) (lines : List (BitVec 32 × List Byte)) (s : State) :
    Host.Outcome State Fault Refusal :=
  .next (if (s.role ≠ 3 ∧ s.role ≠ 4) ∨ !s.brlTakes then s else
    let s1 := if record.isEmpty then s else s.modHsPan p.num (fun h => { h with mir := readCyc record })
    let s2 := s1.modHsPan p.num (fun h => { h with mir := h.mir.map (fun m => (lines.take 60).foldl Mirror.line m) })
    s2.mirInput p (lines.take 60))

/-- The tracked lines of a mirror are written into the D-TCM (R188). -/
def State.mirApply (s : State) (p : PanId) (m : Mirror) : State :=
  let put := fun (s : State) (x : Nat × List Byte) => if x.1 < hsLines then s.mputBytes (dtcmBase p + hsLineAt x.1) x.2 else s
  let s1 := m.tracked.foldl put s
  (s1.modHsPan p.num (fun h => { h with left := h.left.filter (fun i => (tblFind m.tracked i).isNone) })).syncLeft

/-- The blocks that a mirror marks are swapped in (R194), as checked with the primary. -/
def State.mirSwap (s : State) (p : PanId) (m : Mirror) : State :=
  let chk := (s.hsPan p.num).check
  if m.edit && !chk.isEmpty then
    ((s.editSwap p chk).modPan p (fun x => { x with editFlag := true })).modHsPan p.num (fun h => { h with check := [] })
  else s

/-- The standby's boundary entry (R145, R149, R188): lines applied, buffers rotated, the snapshot, TNOW and CYCLE of the record, a
checkpoint that is due, an edit marked for this cycle, then the program when logic runs. A STOP that was accepted acts here
(R158). -/
def State.copyBoundary (s : State) (p : PanId) (m : Mirror) (logic : Bool) : State :=
  let s1 := (s.bankCopy p 0x20000 commitBank 0x10000).mirApply p m
  let s2 := (s1.modPan p (fun x => { x with rot := (x.rot + 2) % 3 })).rakeEvt 0 p
  let s3 := (s2.setF (F.RAKE_PAN_CYCLE_VALUE p.num) m.cycle).modPan p (fun x => { x with
    lastPeriod := (s.now - x.bkNow) / 1000 % 2 ^ 32, bk := m.tnow, bkNow := s.now, halted := 0, editFlag := false })
  if (s3.pan p).stopReq then s3.panStopped p else
  let s4 := (s3.ckptDue p).mirSwap p m
  let s5 := (s4.modHsPan p.num (fun h => { h with mir := none, dirty := [], logic := logic, handed := false })).sysStatus p
  if logic then (s5.modPan p (fun x => { x with logic := true })).panCall p else s5

/-- The checks of R189 on a whole mirror: own output image against OCRC, own lines within the frozen set. -/
def State.mirAgrees (s : State) (p : PanId) (m : Mirror) : Bool :=
  crc32c (s.mbytes (dtcmBase p + 0x20000) 0x10000) == m.ocrc &&
  (s.hsPan p.num).dirty.all (fun i => (tblFind m.tracked i).isSome)

/-- A standby in SYNCING swaps in the blocks of an edit it missed, before its full transfer (R194). -/
def State.syncSwap (s : State) (p : PanId) : State :=
  let st := (s.pan p).staged
  if !st.isEmpty && st.all (fun b => b.2.isEmpty || Config.blockOk b.2) then s.editSwap p (st.map (·.1)) else s

/-- The primary's boundary marker reaches the standby (R187 to R189, R183). The first one after a handover finds no mirror, and the old
primary, which has run that cycle, lets it pass (R192). -/
def State.marker (s : State) (p : PanId) : State :=
  let h := s.hsPan p.num
  let late := (s.pan p).logic
  match h.mir with
  | none => if h.handed then s.modHsPan p.num (fun h => { h with handed := false }) else s.hsResync 332
  | some m =>
    if late && s.role == 4 then s.hsResync 331
    else if !m.whole || decide (4096 < m.nin + m.ndirty) then s.hsResync 332
    else if h.logic && !s.mirAgrees p m then
      if s.role = 4 then s.hsResync 331 else ((s.incF F.RING_HS_CNT_DIVERGE 1).raise 331).hsFull
    else
      let ready := s.role == 3 && h.logic && ((s.hsPan p.other.num).logic || !s.hsTakes p.other)
      let s1 := if ready then (s.hsRole 4).raise 329 else s
      let s2 := if s1.role = 3 then s1.syncSwap p else s1
      let done := (h.left.filter (fun i => (tblFind m.tracked i).isNone)).isEmpty
      (s2.setF (F.RING_MIR_LAST p.num) (m.nin + m.ndirty + m.nsync)).copyBoundary p m (h.logic || done)

/-- BOUNDARY_MARKER_RX (R188); an old primary's outputs turn off at its first marker (R183, R192). -/
def execBoundaryMarkerRx (p : PanId) (s : State) : Host.Outcome State Fault Refusal :=
  .next (if (s.role ≠ 3 ∧ s.role ≠ 4) ∨ !s.standby p ∨ s.panMode p ≠ 3 ∨ !s.brlTakes then s else
    let s1 := if s.ring.hs.offDue then ((s.panOutsOff .a).panOutsOff .b).modHs (fun h => { h with offDue := false }) else s
    s1.marker p)

/-! Takeover and handover (R190 to R192). -/

/-- One Pan's first boundary as primary: with its last mirror whole it runs cycle m on the mirror's input, committing its own
output image of cycle m − 1, and swaps to an edit that the mirror marks (R194); without, it keeps its state, commits, harvests its
own inputs and runs at the next grid instant (R190). -/
def State.takePan (s : State) (p : PanId) : State :=
  if s.panMode p ≠ 3 then s else
  let x := s.pan p
  let t := s.dtime / 1000
  let s0 := ((s.setF (F.RAKE_PAN_STATE_STANDBY p.num) 0).silTo p x.period).modPan p (fun x => { x with logic := false, next := gridAt x.period x.anchor (t + 1) })
  let s0 := s0.canLetAll p.num
  let vals := s0.latchAll x.map
  let lat := fun (s : State) => s.canLatch p.num x.map
  match ((s.hsPan p.num).mir).filter Mirror.whole with
  | some m =>
    let s1 := lat ((s0.bankCopy p 0x20000 commitBank 0x10000).mirApply p m)
    let s2 := ((s1.modPan p (fun x => { x with rot := (x.rot + 2) % 3 })).rakeEvt 0 p).commit p false
    let s3 := (s2.setF (F.RAKE_PAN_CYCLE_VALUE p.num) m.cycle).modPan p (fun x => { x with
      lastPeriod := (s.now - x.bkNow) / 1000 % 2 ^ 32, bk := t, bkNow := s.now, halted := 0, editFlag := false })
    let s4 := ((s3.harvest p (s3.thirdBuf p) vals).mirSwap p m).modPan p (fun x => { x with logic := true, overran := false })
    ((s4.sysStatus p).panCall p).modHsPan p.num (fun h => { h with mir := none, dirty := [] })
  | none =>
    let s1 := ((lat (s0.bankCopy p 0x20000 commitBank 0x10000)).rakeEvt 0 p).commit p false
    let s2 := s1.harvest p (s1.thirdBuf p) vals
    ((s2.modPan p (fun x => { x with bk := t, bkNow := s.now, halted := 0 })).setF F.RING_HS_STAT_PARTIAL 1).modHsPan p.num
      (fun h => { h with mir := none, dirty := [] })

/-- The standby becomes PRIMARY at the present boundary (R190, R192); it discards the staged blocks of an edit it has not
applied (R194). Each Pan that runs from here sends its marker and mirror (R188). -/
def State.becomePrimary (s : State) : State :=
  let s1 := (s.setF F.RING_HS_STAT_PARTIAL 0).modHs (fun h => { h with loss := false, stopped := false, plan := none, offDue := false })
  let drop := fun (p : PanId) (s : State) => (s.modPan p (fun x => { x with staged := [] })).modHsPan p.num (fun h => { h with check := [] })
  let s2 := (drop .b (drop .a ((s1.takePan .a).takePan .b))).hsRole 2
  let send := fun (p : PanId) (s : State) => s.when (s.panMode p == 3 && (s.pan p).logic) (fun s => s.mirSend p)
  send .b (send .a s2)

/-- TAKEOVER (R190, R191): after a declared loss; REMOTE_RESET, a control frame whose payload is the one byte 0x10 (DESIGN CHOICE,
log 84), goes to the old primary by any route. -/
def execTakeover (s : State) : Host.Outcome State Fault Refusal :=
  .next (if s.role ≠ 4 ∨ !s.ring.hs.loss then s else
    let s1 := ((s.becomePrimary.raise 330).incF F.RING_HS_CNT_TAKEOVERS 1)
    let s2 := match s1.routeTo s1.partner <|> s1.hsLink with
      | some l => s1.brlSend l 7 s1.partner s1.ownAddr 0 0 (leBytes 1 0x10)
      | none => s1
    s2.raise 338)

/-- REMOTE_RESET_RX (R191): only from the partner, over an UP link, with RRST_EN. -/
def execRemoteResetRx (l : Fin 3) (src : BitVec 12) (s : State) : Host.Outcome State Fault Refusal :=
  .next (if s.linkSt l = 3 ∧ s.flag F.RING_CTRL_RRST_EN ∧ s.flag F.RING_HS_CFG_EN ∧ s.brlTakes ∧ src.toNat = s.partner then
      s.reqReset 14 none
    else s)

/-- The Pan whose grid a handover keeps: Pan A when it runs, else Pan B. -/
def State.hsGridPan (s : State) : PanId := if s.panMode .a = 3 then .a else .b

/-- SWITCHOVER_TEST (R192): to either partner of a synchronised pair. -/
def bodySwitchoverTest : Body := fixedLen 2 (fun c s =>
  let a := leVal c.pl
  let pr := s.f F.RING_HS_STAT_PROLE
  if a ≠ s.partner then s.badParam c.key 0
  else if !((s.role == 2 && pr == 4) || (s.role == 4 && pr == 2)) || s.ring.hs.plan.isSome then s.wrongState c.key s.role
  else
    let x := s.pan s.hsGridPan
    let bh := gridAt x.period x.anchor (s.dtime / 1000 + 2 * x.period)
    ((s.stopServed 3).accept c.key).modHs (fun h => { h with plan := some (bh, some c.key) }))

/-- SWITCHOVER_TEST (R192). -/
def execSwitchoverTest (r : Req) (s : State) : Host.Outcome State Fault Refusal := .next (s.opcode r 11 2 bodySwitchoverTest)

/-- A primary's last boundary at a handover (R192): the last commit, of cycle h − 1, and the mirror that gives the new primary
cycle h; no logic runs after it. It is then the standby. -/
def State.handOff (p : PanId) (s : State) : State :=
  if s.panMode p ≠ 3 then s else
  let s1 := (s.boundary p ⟨none, false, false⟩).mirSend p
  if s1.panMode p ≠ 3 then s1 else
  (((s1.panHold p).modPan p (fun x => { x with logic := false })).setF (F.RAKE_PAN_STATE_STANDBY p.num) 1).modHsPan p.num
    (fun h => { h with mir := none, dirty := [], left := [], logic := true, handed := true })

/-- HANDOVER_BOUNDARY (R183, R192): the planned boundary is reached by both partners. -/
def execHandoverBoundary (s : State) : Host.Outcome State Fault Refusal :=
  .next (match s.ring.hs.plan with
    | none => s
    | some (_, k) =>
      let per := (s.pan s.hsGridPan).period
      let fin := fun (s : State) => match k with
        | some k => if s.mustStop 3 then s.failStopped k 3 else s.ok k (leBytes 4 (1000 * per))
        | none => s
      if s.mustStop 3 ∧ k.isSome then fin (s.modHs (fun h => { h with plan := none }))
      else if s.role = 2 then
        let s1 := (State.handOff .b (State.handOff .a s)).modHs (fun h => { h with plan := none, offDue := true })
        fin (s1.hsRole 4)
      else if s.role = 4 then fin s.becomePrimary
      else s)

/-! Online edits (R162, R163, R194). -/

/-- The staged blocks fit in the I-TCM that the running program leaves free (R162). -/
def PanSt.stageFits (x : PanSt) (st : Tbl (List Byte)) : Bool := decide (blockBytes x.code + blockBytes st ≤ 0x100000)

/-- Stage bytes of a block, written into free I-TCM space (R162). -/
def State.stagePut (s : State) (p : PanId) (b off : Nat) (d : List Byte) : State :=
  let x := s.pan p
  let blk := blockPut (tblGet x.staged b) off d
  let at_ := itcmBase p + Config.stagePlace x.gen b % 0x100000
  (s.mputBytes at_ blk).modPan p (fun x => { x with staged := tblSet x.staged b blk })

/-- What a staged block is refused with (R162): its initial data, its RETID. -/
def PanSt.stageBad (x : PanSt) (blk : List Byte) : Bool :=
  (Config.blockInit blk).any (fun d => (List.range d.2.length).any (fun i => !Config.progFree x.header (d.1 + i))) ||
  (match Config.blockRetid blk with | some r => r != Config.progRetid x.header | none => false)

/-- Stage a part of a block, from the host or from the primary (R162): `go` is done once it passes every check. -/
def stageBody (go : PanId → Nat → Nat → List Byte → Ctx → State → State) : Body := fun c s =>
  let b := leAt c.pl 1 2
  let off := leAt c.pl 3 4
  let d := c.pl.drop 7
  if c.pl.length < 7 then s.badLen c.key 7
  else match panOf (leAt c.pl 0 1) with
  | none => s.badParam c.key 0
  | some p =>
    let x := s.pan p
    let blk := blockPut (tblGet x.staged b) off d
    if b = 0 ∨ 1023 < b then s.badParam c.key 1
    else if s.panMode p = 0 then s.wrongState c.key 0
    else if 0x100000 < off + d.length ∨ !x.stageFits (tblSet x.staged b blk) then s.limit c.key 0x0506
    else if x.stageBad blk then s.badParam c.key 7
    else go p b off d c s

/-- The partner's standby takes part in an edit (R194). -/
def State.editPair (s : State) : Bool := s.role == 2 && s.f F.RING_HS_STAT_PROLE == 4

/-- EDIT_STAGE (R162, R194): in a pair the standby stages first; with the direct link down the reply is NO_ROUTE (DEDUCED from R177,
log 156). -/
def bodyEditStage : Body := stageBody (fun p b off d c s =>
  let s0 := s.stopServed 2
  if 3 ≤ s.role ∨ s0.ring.hs.edit.isSome then s0.wrongState c.key (s.panMode p)
  else if s.editPair then
    let e : HsEdit := { key := c.key, seq := s0.cmd.ownSeq, pan := p.num, check := false, block := b, off := off, data := d, blocks := [] }
    if s0.hsLink.isNone then s0.finish c.key stNoRoute (leBytes 2 s.partner)
    else (s0.modHs (fun h => { h with edit := some e })).partnerRequest 4 c.pl
  else (s0.stagePut p b off d).ok c.key [])

/-- EDIT_STAGE (R162). -/
def execEditStage (r : Req) (s : State) : Host.Outcome State Fault Refusal := .next (s.opcode r 4 4 bodyEditStage)

/-- Every listed block is staged in full with a matching CRC, or staged as a deletion (R162, R163). -/
def PanSt.stagedAll (x : PanSt) (bs : List Nat) : Bool :=
  bs.all (fun b => match tblFind x.staged b with | some d => d.isEmpty || Config.blockOk d | none => false)

/-- Fix a swap: at once in STOP or FAULT, else at the next boundary, or in a pair at a cycle number (R163, R194). -/
def State.editFix (s : State) (p : PanId) (k : RKey) (bs : List Nat) (at_ : Option Nat) : State :=
  let s1 := s.modHsPan p.num (fun h => { h with 
    lastEdit := if at_.isSome then (s.pan p).staged.filter (fun b => bs.contains b.1) else h.lastEdit
    editC := at_.getD h.editC })
  if s1.panMode p = 1 ∨ s1.panMode p = 4 then (s1.editSwap p bs).ok k (leBytes 4 0)
  else s1.modPan p (fun x => { x with edit := some (some k, bs, at_) })

/-- EDIT_COMMIT (R163, R164, R194). -/
def bodyEditCommit : Body := fun c s =>
  let n := leAt c.pl 1 2
  let bs := (List.range n).map (fun i => leAt c.pl (3 + 2 * i) 2)
  if c.pl.length < 5 then s.badLen c.key 5
  else if c.pl.length % 2 ≠ 1 ∨ 2051 < c.pl.length then s.badLen c.key (min 2051 (c.pl.length - 1))
  else match panOf (leAt c.pl 0 1) with
  | none => s.badParam c.key 0
  | some p =>
    let x := s.pan p
    if n < 1 ∨ 1024 < n then s.badParam c.key 1
    else if c.pl.length ≠ 3 + 2 * n then s.badLen c.key (3 + 2 * n)
    else match firstBelow n (fun i => bs.getD i 0 == 0 || decide (1023 < bs.getD i 0)) with
    | some i => s.badParam c.key (3 + 2 * i)
    | none =>
      if s.panMode p = 0 ∨ s.panMode p = 2 ∨ x.unstored ∨ x.edit.isSome ∨ s.ring.hs.edit.isSome ∨ 3 ≤ s.role ∨
          (s.role = 2 ∧ s.f F.RING_HS_STAT_PROLE = 3) then s.wrongState c.key (s.panMode p)
      else if !x.stagedAll bs then s.failed c.key 0x0513
      else
        let s1 := (s.stopServed 2).accept c.key
        if s1.editPair then
          let e : HsEdit := { key := c.key, seq := s1.cmd.ownSeq, pan := p.num, check := true, block := 0, off := 0, data := [], blocks := bs }
          (s1.modHs (fun h => { h with edit := some e })).partnerRequest 5 c.pl
        else s1.editFix p c.key bs none

/-- EDIT_COMMIT (R163). -/
def execEditCommit (r : Req) (s : State) : Host.Outcome State Fault Refusal := .next (s.opcode r 4 5 bodyEditCommit)

/-- The edit of a pair fails (R194): FAILED 0x0610, the standby discards its staged blocks. -/
def State.editFails (s : State) (e : HsEdit) : State :=
  ((s.modHs (fun h => { h with edit := none })).failed e.key 0x0610).partnerRequest 6 (leBytes 1 e.pan)

/-- The partner's reply to a PEER_EDIT request (R194); an edit whose token has gone stops here (R48). -/
def State.hsReply (s : State) (src seq stat : Nat) (pl : List Byte) : State :=
  match s.ring.hs.edit with
  | none => s
  | some e =>
    if src ≠ s.partner ∨ e.seq ≠ seq ∨ stat = stAccepted then s
    else if s.mustStop 2 then
      ((s.modHs (fun h => { h with edit := none })).failStopped e.key 2).when e.check (fun s => s.partnerRequest 6 (leBytes 1 e.pan))
    else
    let p := if e.pan = 0 then PanId.a else PanId.b
    let s1 := s.modHs (fun h => { h with edit := none })
    if e.check then
      if stat = stOk then s1.editFix p e.key e.blocks (some ((s1.f (F.RAKE_PAN_CYCLE_VALUE e.pan) + 3) % 2 ^ 32))
      else s.editFails e
    else if stat = stOk then (s1.stagePut p e.block e.off e.data).ok e.key []
    else s1.finish e.key stat pl

/-- PEER_EDIT_CHECK_TIMEOUT (R194): no reply within 10 ms. -/
def execPeerEditCheckTimeout (p : PanId) (s : State) : Host.Outcome State Fault Refusal :=
  .next (match s.ring.hs.edit with
    | some e => if e.check && e.pan == p.num then s.editFails e else s
    | none => s)

/-- PEER_EDIT_STAGE (R162, R194). -/
def bodyPeerEditStage : Body := stageBody (fun p b off d c s =>
  if s.role = 3 ∨ s.role = 4 then (s.stagePut p b off d).ok c.key [] else s.wrongState c.key s.role)

/-- PEER_EDIT_CHECK (R194). -/
def bodyPeerEditCheck : Body := fun c s =>
  let n := leAt c.pl 1 2
  let bs := (List.range n).map (fun i => leAt c.pl (3 + 2 * i) 2)
  if c.pl.length < 3 then s.badLen c.key 3
  else if c.pl.length % 2 ≠ 1 ∨ 2051 < c.pl.length then s.badLen c.key (min 2051 (c.pl.length - 1))
  else if c.pl.length ≠ 3 + 2 * n then s.badLen c.key (3 + 2 * n)
  else match panOf (leAt c.pl 0 1) with
  | none => s.badParam c.key 0
  | some p =>
    if (s.role = 3 ∨ s.role = 4) ∧ (s.pan p).stagedAll bs then (s.modHsPan p.num (fun h => { h with check := bs })).ok c.key []
    else s.failed c.key 0x0513

/-- PEER_EDIT_CANCEL (R194). -/
def bodyPeerEditCancel : Body := fixedLen 1 (fun c s =>
  match panOf (leVal c.pl) with
  | none => s.badParam c.key 0
  | some p => ((s.modPan p (fun x => { x with staged := [] })).modHsPan p.num (fun h => { h with check := [] })).ok c.key [])

/-- PEER_EDIT_STAGE (R194). -/
def execPeerEditStage (r : Req) (s : State) : Host.Outcome State Fault Refusal := .next (s.opcode r 11 4 bodyPeerEditStage)

/-- PEER_EDIT_CHECK (R194). -/
def execPeerEditCheck (r : Req) (s : State) : Host.Outcome State Fault Refusal := .next (s.opcode r 11 5 bodyPeerEditCheck)

/-- PEER_EDIT_CANCEL (R194). -/
def execPeerEditCancel (r : Req) (s : State) : Host.Outcome State Fault Refusal := .next (s.opcode r 11 6 bodyPeerEditCancel)

end Sys2Proof.Machine
end

