-- ==== Sys2Proof/Machine/Mailbox.lean ====
section
/-! DEFINITION. The Enclave mailbox (R382, R383, R389 to R392): what an operation does with its input, and the commands. -/
namespace Sys2Proof.Machine

/-- The core a channel belongs to (R382). -/
def mbCore (c : Nat) : CoreId := if c = 0 then .steward else if c = 1 then .panA else .panB

/-- An initiator may reach a channel's registers: its own core at runtime or machine privilege (R382). -/
def mbAllowed (who : Who) (c : Nat) : Bool :=
  match who with
  | .core k pl => pl != 0 && k == mbCore c
  | _ => false

/-- The `n` input bytes of a channel (R382, R392). -/
def State.mbIn (s : State) (c n : Nat) : List Byte := (s.regBytes (A.MB_BUF c 0) 512).take n

/-- Write a result over the front of a channel's buffer. -/
def State.mbOut (s : State) (c : Nat) (bs : List Byte) : State :=
  s.setRegBytes (A.MB_BUF c 0) 512 (bs ++ (s.regBytes (A.MB_BUF c 0) 512).drop bs.length)

/-- Zero a channel's buffer (R392). -/
def State.mbZero (s : State) (c : Nat) : State := s.setRegBytes (A.MB_BUF c 0) 512 []

/-- Use of a slot by an operation (R377, R382, R389): the slot, or the code that refuses it. `use` is the USAGE bit. -/
def State.useSlot (s : State) (pan : Bool) (slot use : Nat) : KeySlot ⊕ Nat :=
  match s.slot slot with
  | none => .inr 3
  | some x => if bit x.usage use && (!pan || bit x.usage 10) then .inl x else .inr 4

/-- Put a derived key into slot `d`, with the source's FIXED and PAN bits (R383). -/
def State.putDerived (s : State) (pan : Bool) (d : Nat) (src : KeySlot) (key : List Byte) (typ usage arg : Nat) : EnclRes :=
  let u := putBit (putBit usage 10 (bit src.usage 10)) 11 (bit src.usage 11)
  if 63 < d then s.enclFail 2
  else
    let c := s.slotCode pan d u
    if c ≠ 0 then s.enclFail c else ⟨0, s.putSlot d ⟨key, typ, u, arg⟩, [], d⟩

/-- RANDOM (R383, R390). -/
def State.opRandom (s : State) (n : Nat) : EnclRes :=
  if n < 1 ∨ 256 < n then s.enclFail 5
  else if !s.flag F.ENCL_STAT_TRNG then s.enclFail 9
  else ⟨0, s.useFree, s.rand n, 0⟩

/-- CLEAR (R379, R383). -/
def State.opClear (s : State) (pan : Bool) (slot : Nat) : EnclRes :=
  match s.slot slot with
  | none => s.enclFail 3
  | some x => if pan && !bit x.usage 10 then s.enclFail 4 else if bit x.usage 11 then s.enclFail 8 else
      ⟨0, s.dropSlot slot, [], slot⟩

/-- GEN (R383): a key from the random generator into the slot, its sealed blob the result. ARG of a class key is not given by
R383: a free value. -/
def State.opGen (s : State) (pan : Bool) (slot n : Nat) (inp : List Byte) : EnclRes :=
  let typ := leAt inp 0 1
  let mode := leAt inp 1 1
  let mask := leAt inp 2 1
  let usage := leAt inp 4 2
  let minsvn := leAt inp 6 2
  if n ≠ 8 then s.enclFail 5
  else if !(usageOk typ usage && decide (mode ≤ 1) && sealOk mode mask minsvn && leAt inp 3 1 == 0) then s.enclFail 0x0C
  else if mode = 1 ∧ s.svn < minsvn then s.enclFail 7
  else
    let c := s.slotCode pan slot usage
    if c ≠ 0 then s.enclFail c
    else if !s.flag F.ENCL_STAT_TRNG then s.enclFail 9
    else
      let s1 := s.useFree
      let x : KeySlot := ⟨s.rand (keyLen typ), typ, usage, if bit usage 6 then s1.freeNat % 5 else 0⟩
      let s2 := s1.useFree
      ⟨0, s2.useFree.putSlot slot x, s2.sealBlob mode mask minsvn x (s2.rand 12), slot⟩

/-- GCM_ENC (R383). -/
def State.opGcmEnc (s : State) (pan : Bool) (slot n : Nat) (inp : List Byte) : EnclRes :=
  match s.useSlot pan slot 0 with
  | .inr c => s.enclFail c
  | .inl x =>
    let a := leAt inp 12 2
    if n < 14 ∨ 256 < a ∨ n < 14 + a ∨ 1024 < n - 14 - a then s.enclFail 5 else
    let (ct, tag) := Config.gcmEnc x.key (inp.take 12) ((inp.drop 14).take a) (inp.drop (14 + a))
    ⟨0, s, fitBytes (n - 14 - a) ct ++ fitBytes 16 tag, slot⟩

/-- GCM_DEC (R383): the data after the tag checks, else code 0x06. -/
def State.opGcmDec (s : State) (pan : Bool) (slot n : Nat) (inp : List Byte) : EnclRes :=
  match s.useSlot pan slot 1 with
  | .inr c => s.enclFail c
  | .inl x =>
    let a := leAt inp 12 2
    if n < 14 ∨ 256 < a ∨ n < 30 + a ∨ 1024 < n - 30 - a then s.enclFail 5 else
    let m := n - 30 - a
    match Config.gcmDec x.key (inp.take 12) ((inp.drop 14).take a) ((inp.drop (14 + a)).take m) (inp.drop (14 + a + m)) with
    | none => s.enclFail 6
    | some d => ⟨0, s, fitBytes m d, slot⟩

/-- CMAC (R383): 1 to 1,024 bytes. -/
def State.opCmac (s : State) (pan : Bool) (slot n : Nat) (inp : List Byte) : EnclRes :=
  match s.useSlot pan slot 2 with
  | .inr c => s.enclFail c
  | .inl x => if n < 1 ∨ 1024 < n then s.enclFail 5 else ⟨0, s, fitBytes 16 (Config.cmac x.key inp), slot⟩

/-- SIGN (R383): a SHA-256 or SHA-384 digest. -/
def State.opSign (s : State) (pan : Bool) (slot n : Nat) (inp : List Byte) : EnclRes :=
  match s.useSlot pan slot 3 with
  | .inr c => s.enclFail c
  | .inl x =>
    if n ≠ 32 ∧ n ≠ 48 then s.enclFail 5
    else if !s.flag F.ENCL_STAT_TRNG then s.enclFail 9
    else ⟨0, s.useFree, fitBytes (2 * keyLen x.typ) (Config.ecdsaSign x.typ x.key inp s.freeNat), slot⟩

/-- VERIFY (R383): curve byte, public key, digest, signature. -/
def State.opVerify (s : State) (n : Nat) (inp : List Byte) : EnclRes :=
  match Config.curveOf (leAt inp 0 1) with
  | none => s.enclFail 0x0C
  | some cv =>
    let k := 2 * keyLen cv
    let d := n - 1 - 2 * k
    if n < 1 + 2 * k ∨ (d ≠ 32 ∧ d ≠ 48) then s.enclFail 5
    else if Config.ecdsaVerify cv ((inp.drop 1).take k) ((inp.drop (1 + k)).take d) (inp.drop (1 + k + d)) then ⟨0, s, [], 0⟩
    else s.enclFail 6

/-- ECDH (R383): the shared secret into slot ARG as a 32-byte secret with DERIVE. -/
def State.opEcdh (s : State) (pan : Bool) (slot arg n : Nat) (inp : List Byte) : EnclRes :=
  match s.useSlot pan slot 4 with
  | .inr c => s.enclFail c
  | .inl x =>
    if n ≠ 2 * keyLen x.typ then s.enclFail 5
    else s.putDerived pan arg x (fitBytes 32 (Config.ecdh x.typ x.key inp)) 4 0x20 0

/-- HKDF (R383): into slot ARG[15:0] as TYPE 4 with DERIVE, or as TYPE 0 with the USAGE of ARG[31:16]. -/
def State.opHkdf (s : State) (pan : Bool) (slot arg : Nat) (inp : List Byte) : EnclRes :=
  match s.useSlot pan slot 5 with
  | .inr c => s.enclFail c
  | .inl x =>
    let (salt, info) := Config.hkdfSplit inp
    let u := arg / 2 ^ 16
    if 256 < salt.length ∨ 256 < info.length then s.enclFail 5
    else if u = 0 then s.putDerived pan (arg % 2 ^ 16) x (fitBytes 32 (Config.hkdf384 x.key salt info 32)) 4 0x20 0
    else if !usageOk 0 u then s.enclFail 0x0C
    else
      let r := s.putDerived pan (arg % 2 ^ 16) x (fitBytes 16 (Config.hkdf384 x.key salt info 16)) 0 u
        (if bit u 6 then s.freeNat % 5 else 0)
      { r with st := r.st.useFree }

/-- HASH (R383): ARG 0 SHA-256, 1 SHA-384. -/
def State.opHash (s : State) (arg n : Nat) (inp : List Byte) : EnclRes :=
  if n < 1 ∨ 1024 < n then s.enclFail 5
  else if arg = 0 then ⟨0, s, fitBytes 32 (Config.sha256 inp), 0⟩
  else if arg = 1 then ⟨0, s, fitBytes 48 (Config.sha384 inp), 0⟩
  else s.enclFail (if 63 < arg then 2 else 0x0C)

/-- EXTEND (R374, R383). -/
def State.opExtend (s : State) (n : Nat) (inp : List Byte) : EnclRes :=
  if n ≠ 48 then s.enclFail 5 else ⟨0, s.extend 7 inp, [], 0⟩

/-- ATTEST (R383, R384). -/
def State.opAttest (s : State) (n : Nat) (inp : List Byte) : EnclRes :=
  if n ≠ 32 then s.enclFail 5 else ⟨0, s.useFree, s.statement inp, 0⟩

/-- What an operation does on a channel (R383), after the checks common to all: OP and SLOT. -/
def State.opDo (s : State) (c : Nat) (o : MbOp) (slot : Nat) : EnclRes :=
  let inp := s.mbIn c o.len
  let arg := o.arg
  let pan := c != 0
  match o.op with
  | 0x01 => s.opRandom o.len
  | 0x02 => s.loadKey pan slot inp
  | 0x03 => s.opClear pan slot
  | 0x04 => s.opGen pan slot o.len inp
  | 0x05 => s.opGcmEnc pan slot o.len inp
  | 0x06 => s.opGcmDec pan slot o.len inp
  | 0x07 => s.opCmac pan slot o.len inp
  | 0x08 => s.opSign pan slot o.len inp
  | 0x09 => s.opVerify o.len inp
  | 0x0A => s.opEcdh pan slot arg o.len inp
  | 0x0B => s.opHkdf pan slot arg inp
  | 0x0C => s.opHash arg o.len inp
  | 0x0D => s.opExtend o.len inp
  | 0x0E => s.opAttest o.len inp
  | _ => s.enclFail 1

/-- The operation of a channel, with AUTO taking the lowest empty slot for LOAD and GEN (R383). -/
def State.opRun (s : State) (c : Nat) (o : MbOp) : EnclRes :=
  if o.auto && (o.op == 2 || o.op == 4) then
    match s.freeSlot with
    | none => s.enclFail 0x0B
    | some i => s.opDo c o i
  else s.opDo c o o.slot

/-- The Enclave starts the next waiting operation, in rotation (R382). -/
def State.enclNext (s : State) : State :=
  if s.encl.running.isSome || !s.flag F.ENCL_STAT_READY then s else
  match (List.range 3).find? (fun i => (tblFind s.encl.ops ((s.encl.first + i) % 3)).isSome) with
  | none => s
  | some i =>
    let c := (s.encl.first + i) % 3
    { s with encl := { s.encl with running := some c, first := (c + 1) % 3 } }

/-- A write of MB_c_CMD (R382, R392): the operation is queued and begins when the Enclave is free; while BUSY is 1, and from
any other initiator, a bus error. -/
def State.mbCmd (s : State) (who : Who) (c : Nat) (o : MbOp) : State :=
  if !mbAllowed who c || s.flag (F.MB_STAT_BUSY c) then s.busErr who else
  (({ s with encl := { s.encl with ops := tblSet s.encl.ops c o } }).setF (F.MB_STAT_BUSY c) 1).enclNext

/-- STEWARD stores the sealed blob of an import on its own channel in the flash key store (R378). -/
def State.keyStored (s : State) (c : Nat) (o : MbOp) (r : EnclRes) : State :=
  if c = 0 ∧ o.op = 2 ∧ !r.res.isEmpty then { s with encl := { s.encl with store := tblSet s.encl.store r.slot r.res } } else s

/-- An operation ends (R382, R389, R392): the buffer of a CLEAR, LOAD or GEN is zeroed, the result written, CODE, RLEN and SLOT
set, DONE raised, and the next one starts. -/
def State.enclDone (s : State) : State :=
  match s.encl.running with
  | none => s
  | some c =>
    let o := tblGet s.encl.ops c
    let r := s.opRun c o
    let s1 := if o.op = 2 ∨ o.op = 3 ∨ o.op = 4 then r.st.mbZero c else r.st
    let s2 := if r.code = 0 then s1.mbOut c r.res else s1
    let s3 := ((s2.setF (F.MB_STAT_CODE c) r.code).setF (F.MB_STAT_RLEN c) r.res.length)
    let s4 := if o.auto && (o.op == 2 || o.op == 4) then s3.setF (F.MB_STAT_SLOT c) r.slot else s3
    let s5 := ((s4.setF (F.MB_STAT_BUSY c) 0).setF (F.MB_STAT_DONE c) 1).keyStored c o r
    (({ s5 with encl := { s5.encl with running := none, ops := tblErase s5.encl.ops c } }).raise (448 + c)).enclNext

/-- The MB_c_CMD write of a row. -/
def State.mbRow (s : State) (who : Who) (c : Fin 3) (op : Nat) (slot : Fin 64) (auto : Bool) (n : BitVec 11) : State :=
  s.mbCmd who c ⟨op, slot, auto, n.toNat, (s.reg (A.MB_ARG c)).toNat⟩

/-- ENCL_OP_START (R382). -/
def execEnclOpStart (s : State) : Host.Outcome State Fault Refusal := .next s.enclNext

/-- ENCL_OP_DONE (R382, R383). -/
def execEnclOpDone (s : State) : Host.Outcome State Fault Refusal := .next s.enclDone

/-- RANDOM begins with its MB_c_CMD write (R382, R383); its effect is `State.opRandom` at ENCL_OP_DONE. -/
def execMbRandom (who : Who) (c : Fin 3) (n : BitVec 11) (s : State) : Host.Outcome State Fault Refusal :=
  .next (s.mbRow who c 0x01 0 false n)

/-- LOAD begins (R380, R382, R383); its effect is `State.loadKey`. -/
def execMbLoad (who : Who) (c : Fin 3) (slot : Fin 64) (auto : Bool) (n : BitVec 11) (s : State) :
    Host.Outcome State Fault Refusal := .next (s.mbRow who c 0x02 slot auto n)

/-- CLEAR begins (R382, R383); its effect is `State.opClear`. -/
def execMbClear (who : Who) (c : Fin 3) (slot : Fin 64) (n : BitVec 11) (s : State) : Host.Outcome State Fault Refusal :=
  .next (s.mbRow who c 0x03 slot false n)

/-- GEN begins (R382, R383); its effect is `State.opGen`. -/
def execMbGen (who : Who) (c : Fin 3) (slot : Fin 64) (auto : Bool) (n : BitVec 11) (s : State) :
    Host.Outcome State Fault Refusal := .next (s.mbRow who c 0x04 slot auto n)

/-- GCM_ENC begins (R382, R383); its effect is `State.opGcmEnc`. -/
def execGcmEnc (who : Who) (c : Fin 3) (slot : Fin 64) (n : BitVec 11) (s : State) : Host.Outcome State Fault Refusal :=
  .next (s.mbRow who c 0x05 slot false n)

/-- GCM_DEC begins (R382, R383); its effect is `State.opGcmDec`. -/
def execGcmDec (who : Who) (c : Fin 3) (slot : Fin 64) (n : BitVec 11) (s : State) : Host.Outcome State Fault Refusal :=
  .next (s.mbRow who c 0x06 slot false n)

/-- CMAC begins (R382, R383); its effect is `State.opCmac`. -/
def execMbCmac (who : Who) (c : Fin 3) (slot : Fin 64) (n : BitVec 11) (s : State) : Host.Outcome State Fault Refusal :=
  .next (s.mbRow who c 0x07 slot false n)

/-- SIGN begins (R382, R383); its effect is `State.opSign`. -/
def execSign (who : Who) (c : Fin 3) (slot : Fin 64) (n : BitVec 11) (s : State) : Host.Outcome State Fault Refusal :=
  .next (s.mbRow who c 0x08 slot false n)

/-- VERIFY begins (R382, R383); its effect is `State.opVerify`. -/
def execVerify (who : Who) (c : Fin 3) (n : BitVec 11) (s : State) : Host.Outcome State Fault Refusal :=
  .next (s.mbRow who c 0x09 0 false n)

/-- ECDH begins (R382, R383); its effect is `State.opEcdh`, the target slot in MB_c_ARG. -/
def execEcdh (who : Who) (c : Fin 3) (slot : Fin 64) (n : BitVec 11) (s : State) : Host.Outcome State Fault Refusal :=
  .next (s.mbRow who c 0x0A slot false n)

/-- HKDF begins (R382, R383); its effect is `State.opHkdf`. -/
def execHkdf (who : Who) (c : Fin 3) (slot : Fin 64) (n : BitVec 11) (s : State) : Host.Outcome State Fault Refusal :=
  .next (s.mbRow who c 0x0B slot false n)

/-- HASH begins (R382, R383); its effect is `State.opHash`. -/
def execHash (who : Who) (c : Fin 3) (n : BitVec 11) (s : State) : Host.Outcome State Fault Refusal :=
  .next (s.mbRow who c 0x0C 0 false n)

/-- EXTEND begins (R374, R382); its effect is `State.opExtend`. -/
def execExtend (who : Who) (c : Fin 3) (n : BitVec 11) (s : State) : Host.Outcome State Fault Refusal :=
  .next (s.mbRow who c 0x0D 0 false n)

/-- ATTEST in the mailbox begins (R382, R384); its effect is `State.opAttest`. -/
def execMbAttest (who : Who) (c : Fin 3) (n : BitVec 11) (s : State) : Host.Outcome State Fault Refusal :=
  .next (s.mbRow who c 0x0E 0 false n)

/-- TRNG_FAILURE (R390, R391): output stops, TRNG 0, source 455. -/
def execTrngFailure (s : State) : Host.Outcome State Fault Refusal := .next ((s.setF F.ENCL_STAT_TRNG 0).raise 455)

/-- TRNG_RECOVERY (R390): 1,024 fresh samples have passed. -/
def execTrngRecovery (s : State) : Host.Outcome State Fault Refusal := .next (s.setF F.ENCL_STAT_TRNG 1)

end Sys2Proof.Machine
end

