-- ==== Sys2Proof/Machine/Power.lean ====
section
/-! DEFINITION. Supplies, power domains, parking and wakes, alarms, the power-fail warning and the thermal limits (R427 to
R445). -/
namespace Sys2Proof.Machine

/-! Rails (R429, R430). -/

/-- The power-on reset (R429, R451, R453): VAON rises above VBORR. The power-on reset begins with step 1, every AON field, retain SRAM, the
RTC and ENCL_TAMPER at their power-on values. -/
def State.powerOn (s : State) : State :=
  let s0 := { s with rake := default, pwr := State.reset.pwr, rstReq := [], dbg := default }
  let s1 := (s0.resetL1 .powerOn).railStart 1
  ((s1.setF F.SYSCTL_RSTCAUSE_CAUSE 1).setF F.SYSCTL_RSTLAST_LEVEL 0).modPwr (fun p => { p with rtcAt := s.now })

/-- POWER_ON (R429). -/
def execPowerOn (s : State) : Host.Outcome State Fault Refusal := .next s.powerOn

/-- Domains switched on in step 6 of R429, and all of them. -/
def pd6 : Nat := 2 ^ 18 + 2 ^ 30 + 2 ^ 22 + 2 ^ 21 + 2 ^ 23 + 2 ^ 24 + 2 ^ 32 + 2 ^ 33
def pdAll : Nat := 2 ^ 34 - 1

/-- What the end of a step brings (R429). -/
def State.railNext (s : State) : State :=
  let goOn := fun (s : State) (n : Nat) (pd : Nat) => s.modPwr (fun p => { p with rail := n, pd := p.pd ||| pd })
  match s.pwr.rail with
  | 1 => goOn (s.rails 1 0 0) 2 3
  | 2 => goOn (s.rails 3 0 1) 3 0
  | 3 => goOn (s.rails 7 0 7) 4 0
  | 4 => goOn (s.rails 7 0 15) 5 0
  | 5 => goOn (s.rails 7 1 15) 6 0
  | 6 => goOn s 7 pd6
  | 7 => (goOn s 0 pdAll).modPwr (fun p => { p with fails := 0 })
  | _ => s

/-- RAIL_STEP_DONE (R429). -/
def execRailStepDone (s : State) : Host.Outcome State Fault Refusal :=
  .next (if s.pwr.retry || s.pwr.dead then s else s.railNext)

/-- RAIL_STEP_TIMEOUT (R429): the enables go low, SEQFAIL and STEP; the third failure in a row keeps them low. In steps 6 and 7
it is a domain that did not switch on (R444). -/
def execRailStepTimeout (s : State) : Host.Outcome State Fault Refusal :=
  .next (if s.pwr.rail = 0 ∨ s.pwr.retry ∨ s.pwr.dead then s else
    let n := s.pwr.fails + 1
    ((((s.rails 0 0 0).setF F.SYSCTL_PWR_STAT_SEQFAIL 1).setF F.SYSCTL_PWR_STAT_STEP s.pwr.rail).modPwr
      (fun p => { p with fails := n, retry := decide (n < 3), dead := decide (3 ≤ n), pd := p.pd &&& 3 })).when
      (decide (6 ≤ s.pwr.rail)) (fun s => s.raise 7))

/-- RAIL_RETRY_EXPIRY (R429). -/
def execRailRetryExpiry (s : State) : Host.Outcome State Fault Refusal := .next (if s.pwr.retry then s.railStart 2 else s)

/-- PWR_GOOD_LOST (R430): VCORE not good, or PWR_GOOD low for longer than tPGF, while the rails are up. -/
def execPwrGoodLost (vcore : Bool) (s : State) : Host.Outcome State Fault Refusal :=
  .next (if !s.railsUp || s.pwr.park != .run then s else
    let s1 := if vcore then s.setFbit F.SYSCTL_PWR_STAT_RAILS 3 false else s.setF F.SYSCTL_PWR_STAT_PG 0
    (s1.setF F.SYSCTL_PWR_STAT_PGLOST 1).reqReset 2 none)

/-- A write of PWR_SEQ.EN3 (R429, R445): PWR_EN_3 follows it while the device runs. -/
def State.pwrSeq (s : State) (en : Bool) : State :=
  (s.setFlag F.SYSCTL_PWR_SEQ_EN3 en).setFbit F.SYSCTL_PWR_STAT_EN 3 (en && s.pwr.park == .run)

/-! Power domains (R431, R432). -/

/-- The island of an optional domain (R431). -/
def pdIsland (d : Nat) : Option Nat :=
  match d with
  | 19 => some 0
  | 20 => some 1
  | 25 => some 7
  | 26 => some 14
  | 27 => some 8
  | 28 => some 9
  | 31 => some 13
  | _ => none

/-- The condition under which an optional domain may be off (R432). -/
def State.pdMayOff (s : State) (d : Nat) : Bool :=
  match d with
  | 19 => s.panMode .a == 0
  | 20 => s.panMode .b == 0
  | 25 => s.f (F.ETH_CFG_MODE 0) == 0
  | 26 => s.f (F.ETH_CFG_MODE 1) == 0
  | 27 => !s.flag F.USBS_CTRL_EN
  | 28 => !s.flag F.RING_CTRL_EN
  | 29 => !s.flag F.RING_CTRL_EN || (s.linkSt 1 == 0 && s.linkSt 2 == 0)
  | 31 => s.f F.DBG_STAT_SCOPE == 0 && !s.flag F.SYSCTL_STRAP_DEBUG_HOLD
  | _ => false

/-- A register window belongs to an island. -/
def inIsland (i a : Nat) : Bool := memKind a == .reg && regIsland a == i

/-- An island's registers return to their reset values, but for the bits a ball or a transceiver shows (R8, R221, R238). -/
def State.islandRegs (s : State) (i : Nat) : State :=
  { s with regs := regsKept (fun a =>
      if !inIsland i a then 0xFFFFFFFF
      else if a = A.USBS_STAT then 1
      else if i = 6 && decide (a < 0x40200000) then
        (if 0x6000 ≤ a % 0x10000 ∧ a % 0x10000 < 0x6800 then 0xFFFFFFFF else if a % 0x10000 = 4 then 0x700 else 0)
      else 0) s.regs }

/-- An island loses its state (R432, R453): its registers and what its blocks hold beside them. CAN: R221, R238. -/
def State.islandReset (s : State) (i : Nat) : State :=
  let s1 := s.islandRegs i
  match i with
  | 0 => { (s1.setCore .panA (State.reset.panA)) with mem := s1.mem.filter (fun c => addrIsland c.1 != 0) }
  | 1 => { (s1.setCore .panB (State.reset.panB)) with mem := s1.mem.filter (fun c => addrIsland c.1 != 1) }
  | 6 =>
    let ch := s.can.ch.map (fun x => (x.1, { (default : CanCh) with reqs := x.2.reqs }))
    let tide := s.can.tide.map (fun x => (x.1, { (default : TideCh) with wake := x.2.wake, capt := x.2.capt }))
    let keep := fun (x : PanSt) => { x with shadow := x.shadow.filter (fun y => y.cls != 5) }
    let s1 := (s1.modPan .a keep).modPan .b keep
    let s2 := { s1 with can := { (default : CanSt) with ch := ch, tide := tide },
                        dma := { s1.dma with tags := s1.dma.tags.filter (fun t => addrIsland t.port != 6) } }
    forBelow 16 s2 (fun n s =>
      if s.f (F.CAN_STAT_TRX n) = 0 ∨ s.f (F.CAN_STAT_TRX n) = 2 then s
      else (s.setF (F.TIDE_N_STAT_STATE n) 0).setF (F.TIDE_N_STAT_IGNORE n) 0)
  | 7 => { s1 with time := { s1.time with ptp := default, eth := tblErase s1.time.eth 0 } }
  | 14 => { s1 with time := { s1.time with ptp := default, eth := tblErase s1.time.eth 1 } }
  | 8 => s1.usbAttach
  | 9 => { s1.endCopy with ring := default }
  | 13 => { s1 with dbg := { (default : DbgSt) with ir := s.dbg.ir, cells := s.dbg.cells } }
  | _ => s1

/-- Switch one optional domain off, its bit stored; a domain that is on loses its state and refuses crossings. -/
def State.pdOff (s : State) (d : Nat) : State :=
  let s1 := (s.setFbit F.SYSCTL_PD_OFF_L_OFF d true).modPwr (fun p => { p with pd := putBit p.pd d false, pdWait := putBit p.pdWait d false })
  match pdIsland d with
  | some i => { (s1.islandReset i) with islHeld := putBit s1.islHeld i true }
  | none => s1

/-- PD_OFF_WRITE (R432): each bit of PD_OFF_L; PD_OFF_H is reserved. -/
def State.pdOffWrite (s : State) (w : Nat) : State :=
  forBelow 32 s (fun d s =>
    let was := s.fbit F.SYSCTL_PD_OFF_L_OFF d
    if bit w d then (if was then s else if s.pdMayOff d then s.pdOff d else s.setF F.SYSCTL_PD_STAT_H_PDERR 1)
    else if was then s.pdOn d else s)

/-- PD_OFF_WRITE (R432). -/
def execPdOffWrite (who : Who) (value : Word) (s : State) : Host.Outcome State Fault Refusal :=
  .next (s.regDo who A.SYSCTL_PD_OFF_L (fun s => s.pdOffWrite value.toNat))

/-- PD_SWITCH_ON_DONE (R431, R432, R444): a domain is on and its island leaves reset, unless a bring-up holds it, or it
fails within tPDON; a Pan with a program is released. -/
def execPdSwitchOnDone (d : Fin 34) (good : Bool) (s : State) : Host.Outcome State Fault Refusal :=
  .next (if !bit s.pwr.pdWait d then s
    else if !good then s.raise 7
    else
      let s1 := s.modPwr (fun p => { p with pd := putBit p.pd d true, pdWait := putBit p.pdWait d false })
      if s1.pwr.bring.isSome then s1 else
      let rel := fun (s : State) (p : PanId) => if (s.pan p).progOk then s.panRelease p else s
      match pdIsland d with
      | some 0 => rel { s1 with islHeld := putBit s1.islHeld 0 false } .a
      | some 1 => rel { s1 with islHeld := putBit s1.islHeld 1 false } .b
      | some i => { s1 with islHeld := putBit s1.islHeld i false }
      | none => s1)

/-! Parking (R433, R434, R437). -/

/-- The conditions of R433 in table order. -/
def State.parkOk (s : State) (k : Nat) : Bool :=
  match k with
  | 1 => [PanId.a, PanId.b].all (fun p => s.panMode p != 2 && s.panMode p != 3)
  | 2 => (List.range 16).all (fun n => !s.flag (F.CAN_CTRL_EN n) || s.tideState n == 2)
  | 3 =>
    (List.range 48).all (fun n => s.f (F.HSS_N_STAT_STATE n) == 0) && (List.range 12).all (fun n => s.f (F.SOL_N_STAT_STATE n) == 0) &&
    (List.range 64).all (fun n => s.f (F.DIO_N_STAT_STATE n) == 0) &&
    (!s.flag F.LED_CTRL_EN || (List.range 32).all (fun n => !s.flag (F.LED_N_STAT_ON n))) && !s.flag F.LED_LMX_CTRL_EN
  | 4 => !s.flag F.ACC_STAT_SESS
  | 5 => s.cmd.tokens.isEmpty && !s.flag F.UPD_STAT_BUSY
  | 6 => !s.flag F.USBS_STAT_VBUS
  | _ => !s.flag F.SYSCTL_PWR_STAT_PFW

/-- The transceiver of a channel in parking (R434 step 1): SELECTIVE, or STANDBY with wake on any dominant level. -/
def State.parkTrx (s : State) (n : Nat) : State :=
  if s.flag F.SYSCTL_PARK_CFG_MODE && s.fbit F.SYSCTL_PARK_SEL_CH n && !s.fbit F.SYSCTL_PARK_CANIGN_CH n then
    (s.setF (F.CAN_STAT_TRX n) 2).setF (F.TIDE_N_WUF_CTL_FEC n) 0
  else (s.setF (F.CAN_STAT_TRX n) 0).setF (F.TIDE_N_CFG_WAKEMODE n) 1

/-- What undoing the entry restores. -/
def State.parkSaved (s : State) : ParkSave :=
  { hss := s.flag F.HSS_CTRL_EN, sol := s.flag F.SOL_CTRL_EN, dio := s.flag F.DIO_CTRL_EN, led := s.flag F.LED_CTRL_EN
    acc := s.flag F.ACC_CTRL_EN, trx := (List.range 16).map (fun n => s.f (F.CAN_STAT_TRX n))
    mode := (List.range 16).map (fun n => s.f (F.TIDE_N_CFG_WAKEMODE n)) }

/-- Move to a step of the entry, which PARK_STAT.STATE shows. -/
def State.parkTo (s : State) (x : ParkSt) (code : Nat) : State :=
  (s.modPwr (fun p => { p with park := x })).setF F.SYSCTL_PARK_STAT_STATE code

/-- PARK_GO (R433, R434): refused at the first condition that fails; otherwise step 1 begins. -/
def State.parkGo (s : State) : State :=
  if s.pwr.park != .run then s else
  match (List.range 8).find? (fun k => decide (0 < k) && !s.parkOk k) with
  | some k => (s.setF F.SYSCTL_PARK_STAT_ERR k).raise 2
  | none =>
    let dio := (List.range 64).map (fun n => (n, (s.flag (F.DIO_N_STAT_IN n), 0)))
    let s1 := s.modPwr (fun p => { p with woken := false, save := s.parkSaved, dio := dio })
    let s2 := s1.setF F.SYSCTL_WAKEREC_CANMASK 0
    (forBelow 16 s2 (fun n s => s.parkTrx n)).parkTo .arm 1

/-- PARK_GO (R433). -/
def execParkGo (who : Who) (s : State) : Host.Outcome State Fault Refusal := .next (s.regDo who A.SYSCTL_PARK_CMD State.parkGo)

/-- An erase suspended by parking resumes (R434). -/
def State.eraseResume (s : State) : State :=
  if s.pwr.eraseHeld then (s.modPwr (fun p => { p with eraseHeld := false })).modCrust (fun c => { c with suspended := s.flag F.SYSCTL_PWR_STAT_PFW })
  else s

/-- The entry is abandoned (R437): its steps are undone in reverse order, and the device stays running. -/
def State.parkAbort (s : State) : State :=
  let v := s.pwr.save
  let s1 := if s.pwr.park = .loads then
      let t := { s with islHeld := putBit s.islHeld 11 false }.modPwr (fun p => { p with pd := p.pd ||| (2 ^ 32 + 2 ^ 33) })
      ((((t.setFlag F.ACC_CTRL_EN v.acc).when v.led (fun s => s.ledEn true)).when v.dio (fun s => s.dioEn true)).when v.sol (fun s => s.solEn true)).when
        v.hss (fun s => s.hssEn true)
    else s
  let s2 := forBelow 16 s1.eraseResume (fun n s =>
    let t := s.setF (F.TIDE_N_CFG_WAKEMODE n) ((v.mode[n]?).getD 0)
    if s.tideState n = 3 then t else t.setF (F.CAN_STAT_TRX n) ((v.trx[n]?).getD 0))
  (((s2.parkTo .run 0).setF F.SYSCTL_PARK_STAT_ABORTED 1).modPwr (fun p => { p with woken := false })).raise 3

/-- Step 3 begins (R434): the load enables become 0, access scanning stops, PD_32 and PD_33 switch off. -/
def State.parkLoads (s : State) : State :=
  let s1 := (((s.hssEn false).solEn false).dioEn false).ledEn false
  let s2 := (s1.setF F.ACC_CTRL_EN 0).modAcc (fun a => { a with scan := false, waiting := false, code := false })
  ({ s2 with islHeld := putBit s2.islHeld 11 true }.modPwr (fun p => { p with pd := p.pd % 2 ^ 32 })).parkTo .loads 3

/-- Step 4 begins (R434): the logic domains switch off; the transceivers of armed channels stay on. -/
def State.parkLogic (s : State) : State :=
  let sel := if s.flag F.SYSCTL_PARK_CFG_MODE then
      s.f F.SYSCTL_PARK_SEL_CH - (s.f F.SYSCTL_PARK_SEL_CH &&& s.f F.SYSCTL_PARK_CANIGN_CH) else 0
  let hold := fun (k : FkCore) => { k with run := CoreRun.held }
  let s1 := { s with panA := hold s.panA, panB := hold s.panB, stew := hold s.stew, islHeld := allHeld }
  (s1.modPwr (fun p => { p with pd := 3 + 4 * sel, pdWait := 0 })).parkTo .logic 4

/-- A step of the entry ends (R434, R437). -/
def State.parkStep (s : State) : State :=
  match s.pwr.park with
  | .run | .parked => s
  | .arm => if s.pwr.woken then s.parkAbort else s.parkTo .flush 2
  | .flush =>
    if s.pwr.woken then s.parkAbort
    else if s.crust.queue.isEmpty && s.crust.erasing.isEmpty then s.parkLoads else s
  | .loads => if s.pwr.woken then s.parkAbort else s.parkLogic
  | .logic => ((s.setF F.SYSCTL_PWR_STAT_EN 0).rails 0 0 0).parkTo .rails 5
  | .rails => let s1 := s.modPwr (fun p => { p with park := .parked }); if s.pwr.woken then s1.wakeStart else s1

/-- PARK_STEP_DONE (R434). -/
def execParkStepDone (s : State) : Host.Outcome State Fault Refusal := .next s.parkStep

/-- PARK_FLUSH_TIMEOUT (R434): an erase is suspended at the limit. -/
def execParkFlushTimeout (s : State) : Host.Outcome State Fault Refusal :=
  .next (if s.pwr.park ≠ .flush then s
    else if s.pwr.woken then s.parkAbort
    else ((s.modPwr (fun p => { p with eraseHeld := !s.crust.erasing.isEmpty })).modCrust
      (fun c => { c with suspended := c.suspended || !c.erasing.isEmpty })).parkLoads)

/-! Wakes (R436, R437, R439). -/

/-- A wake source is armed (R434, R436, R450). -/
def State.wakeArmed (s : State) (src detail : Nat) : Bool :=
  match src with
  | 1 => decide (detail < 4) && s.flag (F.SYSCTL_WAKE_CFG_EN detail)
  | 2 => decide (detail < 2) && s.flag (F.SYSCTL_ALM_CTRL_EN detail) && !s.pwr.rtcDead
  | 3 => decide (detail < 64) && s.flag (F.DIO_N_CFG_WAKE detail)
  | 4 => decide (detail < 16) && !s.fbit F.SYSCTL_PARK_CANIGN_CH detail
  | 5 | 6 => true
  | _ => false

/-- PARK_WAKE (R436, R437): a source with its DETAIL acts during the entry or while parked; `can` is the R235 code of a CAN
wake. Source 6 also requests its reset. -/
def execParkWake (src : Fin 7) (detail : Fin 64) (can : Fin 5) (s : State) : Host.Outcome State Fault Refusal :=
  .next (if s.pwr.park = .run ∨ !s.wakeArmed src detail then s else
    match src.val with
    | 4 => s.busWake detail (if can = 0 then 2 else can) none
    | 5 => (s.setF F.USBS_STAT_VBUS 1).parkWake 5 0
    | 6 => (s.parkWake 6 0).reqReset 3 none
    | k => s.parkWake k detail)

/-- WAKE_PIN (R439): a detection on WAKE_k wakes a parking or parked device, and raises local wakes on a running one. -/
def execWakePin (k : Fin 4) (s : State) : Host.Outcome State Fault Refusal :=
  .next (if !s.flag (F.SYSCTL_WAKE_CFG_EN k) then s else
    let s1 := if s.islandUp 6 then
        forBelow 16 s (fun n s => if s.fbit (F.SYSCTL_WAKE_CFG_CANMASK k) n then s.tideWake n 9 none else s)
      else s
    s1.parkWake 1 k)

/-- DIO_WAKE_SAMPLE (R436): two consecutive samples that differ from the value at step 1 in the direction of EDGE. -/
def execDioWakeSample (n : Fin 64) (level : Bool) (s : State) : Host.Outcome State Fault Refusal :=
  .next (if s.pwr.park = .run ∨ !s.flag (F.DIO_N_CFG_WAKE n) then s else
    let (base, k) := tblGet s.pwr.dio n
    let e := s.f (F.DIO_N_CFG_EDGE n)
    let hit := level != base && (if level then bit e 0 else bit e 1)
    let k1 := if hit then k + 1 else 0
    let s1 := s.modPwr (fun p => { p with dio := tblSet p.dio n (base, k1) })
    if 2 ≤ k1 then s1.parkWake 3 n else s1)

/-! RTC alarms (R439). -/

/-- An alarm's time has come; and it is late. -/
def State.almDue (s : State) (k : Nat) : Bool := !newer 32 (s.f (F.SYSCTL_ALM_TIME_TIME k)) (s.f F.SYSCTL_RTC_SEC_SEC)
def State.almIsLate (s : State) (k : Nat) : Bool :=
  !newer 32 ((s.f (F.SYSCTL_ALM_TIME_TIME k) + s.f (F.SYSCTL_ALM_CTRL_TOL_S k)) % 2 ^ 32) (s.f F.SYSCTL_RTC_SEC_SEC)

/-- An alarm fires, and wakes a parked device while the RTC oscillator runs (R439, R450). -/
def State.almFire (s : State) (k : Nat) : State :=
  let s1 := (s.setF (F.SYSCTL_ALM_CTRL_FIRED k) 1).raise (4 + k)
  if s1.pwr.rtcDead then s1 else s1.parkWake 2 k

/-- A late alarm is handled under POLICY. -/
def State.almLate (s : State) (k : Nat) : State :=
  let s1 := s.setF (F.SYSCTL_ALM_CTRL_LATE k) 1
  if s.flag (F.SYSCTL_ALM_CTRL_POLICY k) then
    ((s1.setF (F.SYSCTL_ALM_CTRL_EN k) 0).setF (F.SYSCTL_ALM_CTRL_DROPPED k) 1).raise (4 + k)
  else s1.almFire k

/-- The alarm is armed and has neither fired nor been dropped. -/
def State.almOpen (s : State) (k : Nat) : Bool := s.flag (F.SYSCTL_ALM_CTRL_EN k) && !s.flag (F.SYSCTL_ALM_CTRL_FIRED k)

/-- RTC_ALARM_DUE (R439). -/
def execRtcAlarmDue (k : Fin 2) (s : State) : Host.Outcome State Fault Refusal :=
  .next (if !s.almOpen k || !s.almDue k then s else if s.almIsLate k then s.almLate k else s.almFire k)

/-- RTC_ALARM_LATE (R439). -/
def execRtcAlarmLate (k : Fin 2) (s : State) : Host.Outcome State Fault Refusal :=
  .next (if !s.almOpen k || !s.almIsLate k then s else s.almLate k)

/-- A write of ALM_k_CTRL (R439): EN = 1 clears the flags; an alarm that is late already is handled at once with ARRLATE. -/
def State.almWrite (s : State) (k w : Nat) : State :=
  let s1 := ((s.setF (F.SYSCTL_ALM_CTRL_EN k) (bits w 0 0)).setF (F.SYSCTL_ALM_CTRL_POLICY k) (bits w 1 1)).setF (F.SYSCTL_ALM_CTRL_TOL_S k) (bits w 15 8)
  if !bit w 0 then s1 else
  let s2 := (((s1.setF (F.SYSCTL_ALM_CTRL_FIRED k) 0).setF (F.SYSCTL_ALM_CTRL_LATE k) 0).setF (F.SYSCTL_ALM_CTRL_ARRLATE k) 0).setF
    (F.SYSCTL_ALM_CTRL_DROPPED k) 0
  if s2.almIsLate k then (s2.setF (F.SYSCTL_ALM_CTRL_ARRLATE k) 1).almLate k else s2

/-- RTC_ALARM_ENABLE (R439). -/
def execRtcAlarmEnable (who : Who) (k : Fin 2) (value : Word) (s : State) : Host.Outcome State Fault Refusal :=
  .next (s.regDo who (A.SYSCTL_ALM_CTRL k) (fun s => s.almWrite k value.toNat))

/-! Power fail and temperature (R440, R441). -/

/-- POWER_FAIL_WARNING (R440): SYS_PFW; the Rake saves (R157), the Crust store suspends its erase (R401). -/
def execPowerFailWarning (s : State) : Host.Outcome State Fault Refusal :=
  .next (if s.flag F.SYSCTL_PWR_STAT_PFW then s else
    let s1 := (s.setF F.SYSCTL_PWR_STAT_PFW 1).levelEdge 0 false
    let s2 := (s1.setF F.CRUST_STAT_PFW 1).modCrust (fun c => { c with suspended := c.suspended || !c.erasing.isEmpty })
    s2.rakePfw)

/-- POWER_FAIL_CLEAR (R440). -/
def execPowerFailClear (s : State) : Host.Outcome State Fault Refusal :=
  .next (if !s.flag F.SYSCTL_PWR_STAT_PFW then s else
    let s1 := (s.setF F.SYSCTL_PWR_STAT_PFW 0).raise 1
    ((s1.setF F.CRUST_STAT_PFW 0).modCrust (fun c => { c with suspended := s1.pwr.eraseHeld })).setF F.RAKE_PFW_ACTIVE 0)

/-- VAON_BROWN_OUT (R436, R440, R451): source 1; while parked it acts as a power-on reset. A device held off by three failed
sequences may try again (R429). -/
def execVaonBrownOut (s : State) : Host.Outcome State Fault Refusal :=
  .next (if s.pwr.park = .parked then s.powerOn
  else (s.modPwr (fun p => { p with dead := false, fails := 0, rail := if p.dead then 1 else p.rail })).reqReset 1 none)

/-- THERMAL_SAMPLE (R441, R445): the highest logic-die reading, whether it is at TLTRIP, and the power die's reading, which no row of
its own reports (DESIGN CHOICE, log 176). -/
def execThermalSample (t : ThermRead) (trip : Bool) (s : State) : Host.Outcome State Fault Refusal :=
  let was := s.thermWarn
  let s1 := if s.f F.SYSCTL_THERM_TMAX < t.temp.toNat then s.setF F.SYSCTL_THERM_TMAX t.temp.toNat else s
  let s2 := (s1.setF F.MEAS_TEMP_LOGIC (umod 16 (10 * ((t.temp.toNat : Int) - 50)))).setF F.MEAS_TEMP_POWER t.power.toNat
  let s3 := { s2 with thermWarn := decide (s2.f F.SYSCTL_THERM_TWARN + 50 ≤ t.temp.toNat) }.levelEdge 6 was
  .next (if trip then (s3.modPwr (fun p => { p with therm := true })).reqReset 8 none else s3)

/-- THERMAL_HOLD_RELEASE (R441): every sensor reads 110 °C or less. -/
def execThermalHoldRelease (s : State) : Host.Outcome State Fault Refusal := .next (s.modPwr (fun p => { p with therm := false }))

end Sys2Proof.Machine
end

