-- ==== Sys2Proof/Machine/ResetCtl.lean ====
section
/-! DEFINITION. Clock faults, the RTC, RESET_N, watchdogs, the software reset, L3 draining, option writes and boot service (R446 to
R463, R467). -/
namespace Sys2Proof.Machine

/-! Clocks (R448, R449). -/

/-- A clock fault requests source 9; in a bring-up of L0 or L1 the clocks step waits for lock instead (R449). -/
def State.clockFault (s : State) : State :=
  match s.pwr.bring with
  | some 0 | some 1 => s
  | _ => s.reqReset 9 none

/-- REFERENCE_LOSS (R449): the crystal or CLKIN, while it is the RPLL reference. -/
def execReferenceLoss (s : State) : Host.Outcome State Fault Refusal :=
  .next (if s.f F.SYSCTL_CLKSTAT_REFSRC = 2 then s else match s.pwr.bring with | some 0 | some 1 => s | _ => (s.setF F.SYSCTL_CLKSTAT_REFLOST 1).clockFault)

/-- PLL_UNLOCK (R449): 0 RPLL, 1 PLL_CORE, 2 PLL_SYS. -/
def execPllUnlock (pll : Fin 3) (s : State) : Host.Outcome State Fault Refusal :=
  .next ((match pll with
    | 0 => s.setF F.SYSCTL_CLKSTAT_RPLL 0
    | 1 => s.setF F.SYSCTL_CLKSTAT_CORE 0
    | 2 => s.setF F.SYSCTL_CLKSTAT_SYS 0).clockFault)

/-- SERDES_UNLOCK (R449): every link enters DOWN. -/
def execSerdesUnlock (s : State) : Host.Outcome State Fault Refusal :=
  .next (((s.setF F.SYSCTL_CLKSTAT_SERDES 0).linksDown).raise 10)

/-- SERDES_RELOCK_RETRY (R449): a retry, and whether it locks. -/
def execSerdesRelockRetry (good : Bool) (s : State) : Host.Outcome State Fault Refusal :=
  .next (if good then s.setF F.SYSCTL_CLKSTAT_SERDES 1 else s)

/-- USB_PLL_UNLOCK (R449): the port detaches and USBS_CONFIG is raised. -/
def execUsbPllUnlock (s : State) : Host.Outcome State Fault Refusal :=
  .next ((((((s.setF F.SYSCTL_CLKSTAT_USB 0).setF F.USBS_STAT_ATTACHED 0).setF F.USBS_STAT_CONFIGURED 0).setF F.USBS_STAT_HS 0).setF
    F.USBS_STAT_SUSPENDED 0).raise 441)

/-! The RTC (R449, R450). -/

/-- RTC_OSC_LOSS (R449). -/
def execRtcOscLoss (s : State) : Host.Outcome State Fault Refusal :=
  .next (((((s.setF F.SYSCTL_RTC_CTRL_LOST 1).setF F.SYSCTL_RTC_CTRL_VALID 0).setF F.SYSCTL_CLKSTAT_RTCOK 0).modPwr
    (fun p => { p with rtcDead := true })).raise 11)

/-- RTC_OSC_RESTORE (R450). -/
def execRtcOscRestore (s : State) : Host.Outcome State Fault Refusal :=
  .next ((s.setF F.SYSCTL_CLKSTAT_RTCOK 1).modPwr (fun p => { p with rtcDead := false }))

/-- RTC_SECOND (R450): a whole second; with SYNC set and DTIME locked, SEC follows DTIME. A parked device whose RTC oscillator is
lost counts none. -/
def execRtcSecond (s : State) : Host.Outcome State Fault Refusal :=
  .next (if s.pwr.rtcDead && s.pwr.park == .parked then s else
    let v := if s.flag F.SYSCTL_RTC_CTRL_SYNC && s.flag F.TIME_STAT_LOCKED then s.dtime / 1000000000
             else s.f F.SYSCTL_RTC_SEC_SEC + 1
    (s.setF F.SYSCTL_RTC_SEC_SEC (v % 2 ^ 32)).modPwr (fun p => { p with rtcAt := s.now }))

/-- A write of RTC_SEC (R450): SUB := 0, VALID := 1. -/
def State.rtcWrite (s : State) (w : Nat) : State :=
  ((s.setF F.SYSCTL_RTC_SEC_SEC w).setF F.SYSCTL_RTC_CTRL_VALID 1).modPwr (fun p => { p with rtcAt := s.now })

/-- RTC_SEC_WRITE (R450). -/
def execRtcSecWrite (who : Who) (value : Word) (s : State) : Host.Outcome State Fault Refusal :=
  .next (s.regDo who A.SYSCTL_RTC_SEC (fun s => s.rtcWrite value.toNat))

/-! RESET_N (R429, R436, R455). -/

/-- RESET_N_PULSE (R455): accepted by the filter; it also ends the hold after three failed rail sequences, and wakes a parked
device. -/
def execResetNPulse (s : State) : Host.Outcome State Fault Refusal :=
  let s1 := s.modPwr (fun p => { p with resetN := true, fails := if p.dead then 0 else p.fails, dead := false, retry := p.retry || p.dead })
  .next ((s1.parkWake 6 0).reqReset 3 none)

/-- RESET_N_RELEASE (R455). -/
def execResetNRelease (s : State) : Host.Outcome State Fault Refusal := .next (s.modPwr (fun p => { p with resetN := false }))

/-! Watchdogs (R457). -/

/-- The core of watchdog `k`. -/
def wdtCore (k : Nat) : CoreId := if k = 0 then .panA else if k = 1 then .panB else .steward

/-- The period in ms, from the option bytes (R457, R460). -/
def State.wdtPeriod (s : State) (k : Nat) : Nat :=
  let o := if k < 2 then s.optByte 44 + 256 * s.optByte 45 else s.optByte 46 + 256 * s.optByte 47
  if o = 0 then (if k < 2 then 20 else 200) else o

/-- The watchdog counts: started, its core not halted by the debug port, the device not parking. -/
def State.wdtRuns (s : State) (k : Nat) : Bool :=
  s.flag (F.SYSCTL_WDT_CFG_RUN k) && (s.core (wdtCore k)).run != .halted && s.pwr.park == .run

/-- The initiator is the core of watchdog `k`. -/
def wdtOwn (who : Who) (k : Nat) : Bool :=
  match who with
  | .core c _ => c == wdtCore k
  | _ => false

/-- A write of WDT_k_KICK (R457): the key restarts the count, any other value by core k requests the reset. -/
def State.wdtKick (s : State) (who : Who) (k w : Nat) : State :=
  if !wdtOwn who k then s.busErr who
  else if w = 0xC35A then s.modPwr (fun p => { p with wdtHalf := putBit p.wdtHalf k false })
  else s.reqReset (4 + k) none

/-- WDT_KICK (R457). -/
def execWdtKick (who : Who) (k : Fin 3) (value : Word) (s : State) : Host.Outcome State Fault Refusal :=
  .next (s.regDo who (A.SYSCTL_WDT_KICK k) (fun s => s.wdtKick who k value.toNat))

/-- WDT_HALF_PERIOD (R457). -/
def execWdtHalfPeriod (k : Fin 3) (s : State) : Host.Outcome State Fault Refusal :=
  .next (if !s.wdtRuns k then s else
    ((s.setF (F.SYSCTL_WDT_CFG_WARN k) 1).modPwr (fun p => { p with wdtHalf := putBit p.wdtHalf k true })).raise (12 + k))

/-- WDT_EXPIRY (R457): the full period has passed, so its half has too. -/
def execWdtExpiry (k : Fin 3) (s : State) : Host.Outcome State Fault Refusal :=
  .next (if s.wdtRuns k && bit s.pwr.wdtHalf k then s.reqReset (4 + k) none else s)

/-! The software reset (R458). -/

/-- The initiator is the Steward core. -/
def whoSteward : Who → Bool
  | .core .steward _ => true
  | _ => false

/-- A level and an island of R458 are acted on. -/
def rstTarget (lvl isl : Nat) : Bool := lvl != 3 || decide (isl ≤ 4)

/-- A write of SWRST (R458): only the Steward core; another key or island is ignored. -/
def State.swrst (s : State) (who : Who) (w : Nat) : State :=
  if !whoSteward who then s.busErr who
  else if bits w 31 16 = 0x4B52 ∧ rstTarget (bits w 1 0) (bits w 6 4) then
    s.reqReset 13 (some (bits w 1 0 + (if bits w 1 0 = 3 then 4 * bits w 6 4 else 0)))
  else s

/-- SWRST_WRITE (R458). -/
def execSwrstWrite (who : Who) (value : Word) (s : State) : Host.Outcome State Fault Refusal :=
  .next (s.regDo who A.SYSCTL_SWRST (fun s => s.swrst who value.toNat))

/-! L3 resets (R18, R453, R458). -/

/-- The islands of an L3 reset: CAN, ETH, USB, BRL, DBG. -/
def l3Islands (i : Nat) : List Nat :=
  match i with
  | 0 => [6]
  | 1 => [7, 14]
  | 2 => [8]
  | 3 => [9]
  | _ => [13]

/-- Draining begins: crossings that arrive from now on are refused (R18). -/
def State.l3Begin (s : State) (i : Nat) : State :=
  { s with islHeld := (l3Islands i).foldl (fun m x => putBit m x true) s.islHeld }.modPwr (fun p => { p with l3 := tblSet p.l3 i false })

/-- L3_DRAIN_DONE (R18): every accepted crossing has completed, and the reset is asserted. -/
def execL3DrainDone (i : Fin 5) (s : State) : Host.Outcome State Fault Refusal :=
  .next (if tblFind s.pwr.l3 i.val = some false then
      ((l3Islands i).foldl State.islandReset s).modPwr (fun p => { p with l3 := tblSet p.l3 i.val true })
    else s)

/-! Option bytes (R460 to R462). -/

/-- Flash address of copy A (0) or B (1). -/
def optCopy (c : Nat) : Nat := if c = 1 then 0x13008000 else 0x13000000

/-- The copy a write goes to: the one not in force; A when neither is. -/
def State.optOther (s : State) : Nat := if s.f F.SYSCTL_BOOTSTAT_OPTSRC = 0 then 1 else 0

/-- The bytes a write programs (R462): the buffer's, with MAGIC, VER, GEN and CRC set. -/
def State.optBytes (s : State) : List Byte :=
  let b := s.regBytes (A.SYSCTL_OPT_WBUF 0) 63
  let h := leBytes 2 0x4B4F ++ leBytes 1 1 ++ (b.drop 3).take 1 ++ leBytes 2 ((s.f F.SYSCTL_BOOTSTAT_GEN + 1) % 65536) ++ (b.drop 6).take 246
  h ++ leBytes 4 (crc32c h)

/-- A write of OPT_CMD.WRITE (R462): refused while BUSY; the copy not in force is erased and programmed. -/
def State.optWrite (s : State) (who : Who) : State :=
  if !whoMachine who then s.busErr who
  else if s.flag F.SYSCTL_OPT_CMD_BUSY then s.setF F.SYSCTL_OPT_CMD_RESULT 2
  else
    let b := s.optBytes
    ({ s with mem := memClear s.mem (optCopy s.optOther) 0x8000 }.setF F.SYSCTL_OPT_CMD_BUSY 1).modPwr (fun p => { p with optNew := b })

/-- OPT_WRITE (R462). -/
def execOptWrite (who : Who) (s : State) : Host.Outcome State Fault Refusal :=
  .next (s.regDo who A.SYSCTL_OPT_CMD (fun s => s.optWrite who))

/-- OPT_WRITE_DONE (R462): programmed and verified, or failed, which leaves the copy with what no rule names. -/
def execOptWriteDone (good : Bool) (s : State) : Host.Outcome State Fault Refusal :=
  .next (if !s.flag F.SYSCTL_OPT_CMD_BUSY then s else
    let a := optCopy s.optOther
    let s1 := if good then { s with mem := memPut s.mem a s.pwr.optNew }
              else { s with mem := memPut s.mem a (leBytes 256 s.freeNat) }.useFree
    (((s1.setF F.SYSCTL_OPT_CMD_BUSY 0).setFlag F.SYSCTL_OPT_CMD_RESULT (!good)).modPwr (fun p => { p with optNew := [] })).raise 16)

/-! Peer boot (R467). -/

/-- BOOT_REQ_SEND (R467): on a booting device's link in AUTH. -/
def execBootReqSend (l : Fin 3) (s : State) : Host.Outcome State Fault Refusal :=
  .next (if s.peerBoot && s.linkSt l == 2 then
      s.brlSend l 7 0 0 0 0 (leBytes 1 0x30 ++ leBytes 4 (s.reg A.SYSCTL_DEVID).toNat)
    else s)

/-- A packet of a boot package in an update frame whose TAG is 8 zero bytes (R467). -/
def State.bootFrame (l : Nat) (s : State) (p : Pkt) : State :=
  let hd := brlHead 2 (s.link l).txSeq 0 s.ownAddr 0 0 p.bytes ++ List.replicate 8 0#8
  let b := hd ++ leBytes 4 (crc32c hd)
  (s.modLink l (fun x => { x with txSeq := (x.txSeq + 1) % 256, replay := x.replay ++ [⟨x.txSeq, 2, b, 0⟩] })).emit (.brl l 2 0) b

/-- The package of the running firmware set: the stream of R411 with every image whole. -/
def State.bootStream (s : State) : List Byte :=
  s.manifest s.setBase ++ comps.flatMap (fun c => s.image s.setBase c)

/-- Its packets: STAGE_BEGIN with FORWARDED, STAGE_DATA in pieces of 4,092 bytes, which a payload holds beside the offset (R30), STAGE_END. -/
def State.bootPackets (s : State) : List Pkt :=
  let st := s.bootStream
  let hd := leBytes 2 0x4B50 ++ leBytes 1 1 ++ leBytes 1 2 ++ leBytes 4 st.length ++ leBytes 4 (leAt st 8 4) ++ leBytes 4 0
  let mk := fun (i op : Nat) (pl : List Byte) =>
    ({ ver := 1, dst := 0, src := s.ownAddr, seq := (s.cmd.ownSeq + i) % 65536, grp := 10, op := op, sess := 0, stat := 0, flg := 0,
       payload := pl, tag := [] } : Pkt)
  let n := cdiv st.length 4092
  mk 0 1 hd :: (List.range n).map (fun i => mk (i + 1) 2 (leBytes 4 (4092 * i) ++ (st.drop (4092 * i)).take 4092)) ++ [mk (n + 1) 3 []]

/-- BOOT_REQ_RX (R467): a running device whose settings enable boot service serves one booting device at a time. -/
def execBootReqRx (l : Fin 3) (s : State) : Host.Outcome State Fault Refusal :=
  .next (if !Config.bootService || s.linkSt l != 2 || s.peerBoot || s.upd.recov == 1 || (List.range 3).any (fun i => (s.link i).boot) then s else
    let ps := s.bootPackets
    let s1 := s.modLink l (fun x => { x with boot := true })
    let s2 := { s1 with cmd := { s1.cmd with ownSeq := (s1.cmd.ownSeq + ps.length) % 65536 } }
    ps.foldl (State.bootFrame l) s2)

end Sys2Proof.Machine
end

