-- ==== Sys2Proof/Machine/Bus.lean ====
section
/-! DEFINITION. An access to the register windows of R19, whoever makes it: which behaviour a write of a register has (the register
tables that close the chapters), and what a read returns. -/
namespace Sys2Proof.Machine

/-- Index of `o` in `count` registers `stride` apart from `base`. -/
def idxAt (o base stride count : Nat) : Option Nat :=
  if base ≤ o ∧ (o - base) % stride = 0 ∧ (o - base) / stride < count then some ((o - base) / stride) else none

/-- A plain write (R5) with some fields kept as they were: their behaviour decides them. -/
def State.plainKeep (s : State) (a : Nat) (w : Word) (keep : List Fld) : State :=
  match regAt a with
  | some r => keep.foldl (fun t x => t.setF x (s.f x)) (s.plainWrite r a w)
  | none => s

/-- The claim of ISO 15765-2 transport (R54, R222, R478): receive filter 1,023 and transmit object 63 of its channel. -/
def isotpIds (ch : Nat) : List Nat := [resId 9 (1024 * ch + 1023), resId 8 (64 * ch + 63)]

/-- End the transport's claim. -/
def State.isotpOff (s : State) : State :=
  if s.flag F.CMD_ISOTP_CFG_EN then
    let ch := s.f F.CMD_ISOTP_CFG_CHANNEL
    let s1 := (s.setF F.CMD_ISOTP_CFG_EN 0).releaseAll 6 (isotpIds ch)
    { s1.setF (F.CAN_FILT_EN ch 1023) 0 with cmd := { s1.cmd with isotp := default } }
  else s

/-- A write of CMD_ISOTP_CFG (R54, R59, R222): EN = 1 claims the channel's objects and programs the filter with RXID; where they
are owned elsewhere, or object 63 is reserved for the transmit FIFO, EN stays 0. -/
def State.isotpCfg (s : State) (w : Word) : State :=
  let same := s.flag F.CMD_ISOTP_CFG_EN && bit w.toNat 4 && s.f F.CMD_ISOTP_CFG_CHANNEL == w.toNat % 16
  if same then s.plainKeep A.CMD_ISOTP_CFG w [] else
  let s1 := s.isotpOff.plainKeep A.CMD_ISOTP_CFG w [F.CMD_ISOTP_CFG_EN]
  let s2 := s1.setF F.CMD_ISOTP_CFG_EN 0
  if !bit w.toNat 4 then s2 else
  let ch := s2.f F.CMD_ISOTP_CFG_CHANNEL
  if s2.canReserved ch 63 then s2.conflict (resId 8 (64 * ch + 63)) 6 0 else
  match s2.claimAll 6 (isotpIds ch) with
  | (s3, some _) => s3
  | (s3, none) =>
    let id := s3.f F.CMD_ISOTP_RXID_ID
    let ide := s3.f F.CMD_ISOTP_CFG_IDE
    let rid := if ide = 1 then id else id % 2 ^ 11
    let s4 := (s3.setReg (A.CAN_FILT ch 1023) (toW (rid + 2 ^ 29 * ide + 2 ^ 31))).setF (F.CAN_MASK_MASK ch 1023) 0x1FFFFFFF
    s4.setF F.CMD_ISOTP_CFG_EN 1

/-- ISOTP_ENABLE (R222): a write of CMD_ISOTP_CFG. -/
def execIsotpEnable (who : Who) (value : Word) (s : State) : Host.Outcome State Fault Refusal :=
  .next (s.regDo who A.CMD_ISOTP_CFG (fun s => s.isotpCfg value))

/-! Writes with behaviour of their own, block by block; none: a plain write. `o` is the offset in the window. -/

def State.wrSysctl (s : State) (who : Who) (o : Nat) (w : Word) : Option State :=
  let v := w.toNat
  if o = 0x20 then some (s.swrst who v)
  else if o = 0x50 then some (s.rtcWrite v)
  else if o = 0x204 then some (s.pwrSeq (bit v 0))
  else if o = 0x218 then some (s.pdOffWrite v)
  else if o = 0x224 then some (s.when (bit v 0) State.parkGo)
  else if 0x300 ≤ o ∧ o < 0x400 then (if whoMachine who then none else some (s.busErr who))
  else if o = 0x400 then
    (if !whoMachine who then some (s.busErr who) else some (s.when (bit v 0) (fun s => s.optWrite who)))
  else match idxAt o 0x64 8 3 with
    | some k => some (s.wdtKick who k v)
    | none => (idxAt o 0x264 8 2).map (fun k => s.almWrite k v)

def State.wrEvt (s : State) (o : Nat) (w : Word) : Option State :=
  let v := w.toNat
  if o < 0x1800 then (if sourceListed (o / 4) then none else some s)
  else if o = 0x2104 then some (s.raise (1504 + v % 32))
  else match idxAt o 0x2000 4 48 with
    | some i => some (s.evtPendClear i v)
    | none => (idxAt o 0x2208 0x20 4).map (fun t => s.when (bit v 0) (fun s => s.evtEoi t))

def State.wrDma (s : State) (o : Nat) (w : Word) : Option State :=
  let v := w.toNat
  if o = 0x2018 then some (s.iotlbInv (v % 64) (bit v 8))
  else match idxAt o 0x1004 0x40 64 with
    | some n => some (s.dmaCtrl n v)
    | none => (idxAt o 0x1008 0x40 64).map (fun n =>
        (s.plainKeep (A.DMA_CH_STAT n) w [F.DMA_CH_STAT_ERR n]).when (bit v 9) (fun s => s.dmaErrClear n))

def State.wrRake (s : State) (who : Who) (o : Nat) (w : Word) : Option State :=
  if o = 0 then some (s.rakeCtrl w.toNat)
  else if o = 0x120 then some (s.doneWrite who .a w.toNat)
  else if o = 0x160 then some (s.doneWrite who .b w.toNat)
  else none

def State.wrRing (s : State) (o : Nat) (w : Word) : Option State :=
  if o = 0 then some (s.ringCtrl w)
  else if o = 4 then some (s.ringAddr w)
  else if o = 0x200 then some (s.plainKeep A.RING_TIME_CFG w []).timeElect
  else if o = 0x300 then some (s.hsCfg w)
  else none

def State.wrTime (s : State) (o : Nat) (w : Word) : Option State :=
  if o = 0x18 then some (s.setReg A.TIME_RATE (BitVec.ofInt 32 (max (-512000000) (min 512000000 w.toInt))))
  else if o = 0 then
    let s1 := s.plainKeep A.TIME_CTRL w []
    some (if s1.f F.TIME_CTRL_SRC = 0 then (s1.setF F.TIME_STAT_INUSE 0).setHold false else s1)
  else if o = 0x20 then some (s.modTime (fun t => { t with stepL := w.toNat }))
  else if o = 0x24 then some (s.stepWrite w)
  else none

def State.wrHss (s : State) (who : Who) (o : Nat) (w : Word) : Option State :=
  let v := w.toNat
  if o = 0 then some (s.hssEn (bit v 0))
  else match idxAt o 0x40 0x10 6 with
  | some g => some ((s.hssGrid g).plainKeep (A.HSS_GRP_CFG g) w [])
  | none => match idxAt o 0x100 0x40 48 with
  | some n => some ((s.plainKeep (A.HSS_N_CFG n) w [F.HSS_N_CFG_PAR n]).hssPar n (bit v 2))
  | none => match idxAt o 0x104 0x40 48 with
  | some n => 
      let s1 := s.plainKeep (A.HSS_N_DCFG n) w []
      some (s1.hssEach n (fun k s => s.hssFixRange k))
  | none => (idxAt o 0x108 0x40 48).map (fun n => s.hssCmdWrite who n (v % 0x10000) (bit v 16))

def State.wrSol (s : State) (who : Who) (o : Nat) (w : Word) : Option State :=
  let v := w.toNat
  if o = 0 then some ((s.plainKeep A.SOL_CTRL w [F.SOL_CTRL_EN]).solEn (bit v 0))
  else if 0x1000 ≤ o ∧ o < 0x1800 ∧ o % 8 = 4 then some (s.solProf ((o - 0x1000) / 0x40) (o % 0x40 / 8) v)
  else match idxAt o 0x100 0x40 12 with
  | some n => some ((s.plainKeep (A.SOL_N_CFG n) w [F.SOL_N_CFG_PAR n]).solPar n (bit v 5))
  | none => match idxAt o 0x10C 0x40 12 with
  | some n => some (s.solDuty n (v % 0x10000) (bits v 23 16))
  | none => (idxAt o 0x118 0x40 12).map (fun n => s.solCmdWrite who n v)

def State.wrDio (s : State) (who : Who) (o : Nat) (w : Word) : Option State :=
  let v := w.toNat
  if o = 0 then some ((s.dioEn (bit v 0)).accWatch s)
  else match idxAt o 0x100 0x10 64 with
  | some n => some ((s.dioCfgWrite who n v).accWatch s)
  | none => (idxAt o 0x104 0x10 64).map (fun n => s.dioCmdWrite who n (bit v 0) (bit v 1))

def State.wrLed (s : State) (who : Who) (o : Nat) (w : Word) : Option State :=
  let v := w.toNat
  if o = 0 then
    let s1 := (s.plainKeep A.LED_CTRL w []).ledEn (bit v 0)
    some (if bit v 1 then s1 else (s1.setF F.LED_STAT_FBCODE 0).setF F.LED_STAT_HRLOW 0)
  else if o = 0x400 then
    some (((s.plainKeep A.LED_LMX_CTRL w [F.LED_LMX_CTRL_EN]).when (bit v 2) (fun s => s.setF F.LED_LMX_CTRL_FAULT 0)).lmxEn (bit v 0))
  else match idxAt o 0x100 8 8 with
  | some g => some (s.ledMask g v)
  | none => match idxAt o 0x104 8 8 with
  | some g =>
    let put := fun (s : State) => s.plainKeep (A.LED_GRP_CTRL g) w []
    some (if bit v 2 then s.ownedWrite who (resId 7 g) (fun s => (put s).ledGroupClear g) else put s)
  | none => match idxAt o 0x204 0x10 32 with
  | some n => some (s.ownedWrite who (resId 4 n) (fun s => s.ledCommand n (v % 8192) (v / 0x10000)))
  | none => (idxAt o 0x500 4 64).map (fun i => s.lmxLvl who (i / 4) (i % 4) w)

def State.wrAcc (s : State) (o : Nat) (w : Word) : Option State :=
  let v := w.toNat
  if o = 0 then some (s.accCtrl v)
  else if o = 0xC then some (s.plainKeep A.ACC_SCAN w []).accAntf
  else if o = 0x1C then some (if s.flag F.ACC_LOCK_EN ∧ (s.reg A.ACC_LOCK).toNat % 256 = v % 256 then
      s.setF F.ACC_LOCK_PROF (bits v 12 8) else s.accLock v)
  else if o = 0x20 then some ((s.accDoorWrite v).accWatch s)
  else if 0x2000 ≤ o ∧ o < 0x2180 then some (s.accCalWrite ((o - 0x2000) / 0x80) (o % 0x80 / 8) (o % 8 == 4) w)
  else none

def State.wrEncl (s : State) (who : Who) (o : Nat) (w : Word) : Option State :=
  if o < 0x1000 then none
  else
    let c := (o - 0x1000) / 0x1000
    let v := w.toNat
    if !mbAllowed who c || (s.flag (F.MB_STAT_BUSY c) && (o % 0x1000 == 0 || decide (0x400 ≤ o % 0x1000))) then some (s.busErr who)
    else if o % 0x1000 = 0 then
      some ((s.plainKeep (A.MB_CMD c) w []).mbCmd who c ⟨v % 256, bits v 13 8, bit v 14, bits v 26 16, (s.reg (A.MB_ARG c)).toNat⟩)
    else none

def State.wrCrust (s : State) (o : Nat) (w : Word) : Option State :=
  let v := w.toNat
  if o = 0x20 then
    some (if bit v 31 then s.rdreq (v % 0x400) (bit v 10) else s.plainKeep A.CRUST_RDREQ w [])
  else (idxAt o 0x100 4 17).map (fun i => s.wportWord i v)

def State.wrPinown (s : State) (who : Who) (o : Nat) (w : Word) : Option State :=
  match idxAt o 0x1000 8 32 with
  | some n =>
    let own := s.owner (resId 12 n)
    if (own = 1 ∨ own = 2) ∧ w.toNat % 4 ≠ s.f (F.GPIO_N_CFG_MODE n) then
      some ((s.conflict (resId 12 n) (whoOwner who) 1).busErr who)
    else none
  | none => (idxAt o 0x1004 8 32).map (fun n => s.ownedWrite who (resId 12 n) (fun s => s.gpioSet n (bit w.toNat 0)))

/-- The behaviour a register write has of its own, if any. -/
def State.wrBlock (s : State) (who : Who) (a : Nat) (w : Word) : Option State :=
  let o := a % 0x10000
  match a / 0x10000 with
  | 0x4000 => s.wrSysctl who o w
  | 0x4001 => s.wrEvt o w
  | 0x4002 => s.wrDma o w
  | 0x4003 => s.wrRake who o w
  | 0x4004 => s.wrRing o w
  | 0x4005 => if o = 0xC0 then some (s.isotpCfg w) else none
  | 0x4006 => if o = 0 then some (s.ethCfg 0 w) else if o = 0x30 then some (s.mdioWrite w) else none
  | 0x4007 => if o = 0 then some (s.ethCfg 1 w) else none
  | 0x4008 => s.wrTime o w
  | 0x4020 => match idxAt o 0x100 0x80 16 with
    | some n => some (s.tideCfg n w)
    | none => match idxAt o 0x104 0x80 16 with
      | some n => some (s.scfIdWrite n w)
      | none => (idxAt o 0x11C 0x80 16).map (fun n => s.tideCmd n w.toNat)
  | 0x4021 =>
    if o = 0xC then some ((s.when (bit w.toNat 0) State.rtWrite).when (bit w.toNat 1) State.rtRead)
    else if o = 0x30 then some (s.slOwnWrite 0 w.toNat)
    else (idxAt o 0x100 4 32).map (fun i => s.slOwnWrite (1 + i) w.toNat)
  | 0x4030 => s.wrHss who o w
  | 0x4031 => s.wrSol who o w
  | 0x4032 => s.wrDio who o w
  | 0x4033 => s.wrLed who o w
  | 0x4035 => s.wrAcc o w
  | 0x4040 => s.wrEncl who o w
  | 0x4041 => s.wrCrust o w
  | 0x4042 => if o = 0x20 then some (s.updUnfit w.toNat) else none
  | 0x4043 => if o = 0 then some (s.usbCtrl w.toNat) else none
  | 0x4044 => if o = 8 then none else some (s.busErr who)
  | 0x4050 => s.wrPinown who o w
  | _ => none

/-- An aligned 32-bit register write of `who` (R4, R5, R17): a bus error at an offset without a register, at application
privilege and across a closed bridge; else its behaviour, or a plain write. The journal window is for reading. -/
def State.regWrite (s : State) (who : Who) (a : Nat) (w : Word) : State :=
  if !s.regOk who a || a % 4 != 0 then s.busErr who
  else if 0x40100000 ≤ a ∧ a < 0x40200000 then State.wrRes who (s.canReg ((a - 0x40100000) / 0x10000) (a % 0x10000) w)
  else if 0x40028000 ≤ a ∧ a < 0x40030000 then s
  else match regAt a with
    | none => s.busErr who
    | some r => (s.wrBlock who a w).getD (s.plainWrite r a w)

/-! Reads. -/

/-- PD_STAT_L and _H: the domains that are on (R431). -/
def State.pdWord (s : State) (high : Bool) : Nat := if high then s.pwr.pd / 2 ^ 32 % 4 else s.pwr.pd % 2 ^ 32

/-- RSTLVL: the effective level of each source without a requested level (R452). -/
def State.rstLvl (s : State) : Nat := (List.range 16).foldl (fun x k => x + s.effLvl k 3 * 4 ^ k) 0

/-- The interlock marks of the option bytes (R360, R460): `i` the first byte, `n` the bytes. -/
def State.ilkMark (s : State) (i n : Nat) : Nat := leVal ((List.range n).map (fun k => BitVec.ofNat 8 (s.optByte (i + k))))

/-- EVT_PEND_w: bit i says that source 32w + i is pending for any target (R133). -/
def State.evtPend (s : State) (w : Nat) : Nat :=
  (List.range 32).foldl (fun x i => x + b2n ((List.range 4).any (fun t => s.pendingFor t (32 * w + i))) * 2 ^ i) 0

/-- EVT_TGT_t_PRI (R133). -/
def State.evtPri (s : State) (t : Nat) : Nat :=
  let top := s.topEvent t
  (s.running t).getD 0 + 64 * b2n (s.running t).isNone + 256 * (top.map (·.1)).getD 0 + 2 ^ 14 * b2n top.isSome

/-- CMD_STATUS (R59): transports with an outstanding request, open sessions, tokens held. -/
def State.cmdStatus (s : State) : Nat :=
  (List.range 6).foldl (fun x k => x + b2n (decide (0 < s.outCount k)) * 2 ^ k) 0 + 256 * s.cmd.sess.length +
  0x10000 * (List.range 6).foldl (fun x k => x + b2n (s.cmd.tokens.any (fun t => t.cls == k)) * 2 ^ k) 0

/-- The word a register shows where it is computed from other state. RING_MIR_p.CAP reads C_p while pairing is on and 0 otherwise
(DEDUCED from R187 and the reset value of R198, log 155). -/
def State.rdView (s : State) (a : Nat) : Option Word :=
  let o := a % 0x10000
  let x := (s.reg a).toNat
  let r := (match a / 0x10000 with
  | 0x4000 =>
    if o = 0x18 then some s.rstLvl
    else if o = 0x1C then some (Config.fuseRstnFilt % 64 + 64 * (s.optByte 3 % 2))
    else if o = 0x54 then some s.rtcSub
    else if o = 0x210 then some (s.pdWord false)
    else if o = 0x214 then some (s.pdWord true + 4 * s.f F.SYSCTL_PD_STAT_H_PDERR)
    else (idxAt o 0x60 8 3).map (fun k => putBits x 15 0 (s.wdtPeriod k))
  | 0x4001 =>
    if o < 0x1800 then some (putBits x 16 16 (b2n (levelSources.contains (o / 4))))
    else match idxAt o 0x2000 4 48 with
      | some w => some (s.evtPend w)
      | none => (idxAt o 0x2214 0x20 4).map (fun t => s.evtPri t)
  | 0x4002 => if 0x8000 ≤ o then some ((s.jrec ((o - 0x8000) / 32)).word (o % 32 / 4)) else none
  | 0x4004 => (idxAt o 0x310 4 2).map (fun p => putBits x 12 0 (if s.flag F.RING_HS_CFG_EN then s.mirCap (if p = 0 then .a else .b) else 0))
  | 0x4005 => if o = 4 then some s.cmdStatus else none
  | 0x4008 => if o = 0x10 then some (s.dtime % 2 ^ 32) else none
  | 0x4031 => (idxAt o 0x12C 0x40 12).map (fun n => putBits x 15 0 (min 65535 (s.solUsed n / 1000)))
  | 0x4033 => (match idxAt o 0x208 0x10 32 with
    | some n => some (putBits x 0 0 (b2n (s.ledConducts n)))
    | none => (idxAt o 0x204 0x10 32).map (fun n =>
        if s.flag F.LED_CTRL_EN && !s.ledMatrix n then putBits x 31 16 (s.ledCh n).duty else x))
  | 0x4035 =>
    if o = 4 then some (putBits x 31 16 (min 0xFFFF (if s.flag F.ACC_STAT_LOCKOUT then cdiv (s.acc.lockUntil - s.now) 1000000000 else 0)))
    else if o = 0x8004 then some (s.ilkMark 36 4)
    else if o = 0x8008 then some (s.ilkMark 40 2)
    else if o = 0x800C then some (s.ilkMark 42 2 % 4096)
    else none
  | 0x4042 =>
    if o = 4 then some (putBits x 31 16 s.floor)
    else match idxAt o 0x10 4 2 with
      | some b => some (s.bankSt b + 16 * (tblGet s.upd.banks b).tries + 0x10000 * manSvn (s.manifest (bankBase b)))
      | none => (idxAt o 0x18 4 2).map (fun b => (tblGet s.upd.banks b).cause + 0x10000 * (tblGet s.upd.banks b).comp)
  | 0x4044 => if o = 4 then some (putBits x 4 4 (s.f F.SYSCTL_STRAP_DEBUG_HOLD)) else none
  | 0x4050 => if o = 0x14 then some (s.owner (s.f F.PINOWN_QRES_RES)) else none
  | _ => none)
  r.map toW

/-- A register read has a condition of its own on its initiator, or while an operation runs (R382, R392, R462). -/
def State.rdAllowed (s : State) (who : Who) (a : Nat) : Bool :=
  let o := a % 0x10000
  match a / 0x10000 with
  | 0x4000 => if 0x300 ≤ o ∧ o ≤ 0x400 then whoMachine who else true
  | 0x4040 => decide (o < 0x1000) || (mbAllowed who ((o - 0x1000) / 0x1000) &&
      !(s.flag (F.MB_STAT_BUSY ((o - 0x1000) / 0x1000)) && decide (0x400 ≤ o % 0x1000)))
  | _ => s.regOk who a

/-- An aligned 32-bit register read of `who` (R4, R5, R17): the word, or none for a bus error. Reads that act: RC fields clear,
EVT_TGT_t_ACK acknowledges (R128), TIME_NOW_L latches TIME_NOW_H (R262). -/
def State.regRead (s : State) (who : Who) (a : Nat) : State × Option Word :=
  if !s.regOk who a || a % 4 != 0 || !s.rdAllowed who a then (s, none)
  else if 0x40028000 ≤ a ∧ a < 0x40030000 then (s.critRead a 4, s.rdView a)
  else match regAt a with
    | none => (s, none)
    | some r =>
      match (if a / 0x10000 = 0x4001 then idxAt (a % 0x10000) 0x2204 0x20 4 else none) with
      | some t => ((s.evtAck t).1, some (s.evtAck t).2)
      | none =>
        let canView := if 0x40100000 ≤ a ∧ a < 0x40200000 then
            s.canRegRead ((a - 0x40100000) / 0x10000) (a % 0x10000) else none
        let x := r.readout ((canView <|> s.rdView a).getD (s.reg a))
        let s1 := if r.fields.any (fun f => f.acc == .rc) then s.setReg a (r.afterRead (s.reg a)) else s
        (if a = A.TIME_NOW_L then s1.nowLatch else s1, some x)

/-- REGISTER_WRITE (R5): a register write of `who`; a bus error reaches it under R115. -/
def execRegisterWrite (who : Who) (addr value : Word) (s : State) : Host.Outcome State Fault Refusal :=
  .next (s.regWrite who addr.toNat value)

/-! REG_READ and REG_WRITE (R39, R40): the Steward's own accesses at runtime privilege. -/

/-- The Steward core at runtime privilege. -/
def whoStew : Who := .core .steward 1

/-- A request may name this register (R40): in a register window, defined, and not at machine privilege. -/
def State.reqReg (s : State) (a : Nat) : Bool :=
  a % 4 == 0 && memKind a == .reg && ((regAt a).isSome || (decide (0x40028000 ≤ a) && decide (a < 0x40030000))) &&
  s.rdAllowed whoStew a

/-- Read `n` registers from `a`. -/
def State.regReads (n a : Nat) (s : State) : State × List Byte :=
  match n with
  | 0 => (s, [])
  | n + 1 =>
    let (s1, w) := s.regRead whoStew a
    let (s2, bs) := State.regReads n (a + 4) s1
    (s2, leBytes 4 ((w.map BitVec.toNat).getD 0) ++ bs)

/-- REG_READ (R39, R40): u32 address, u16 count 1 to 1,024. -/
def bodyRegRead : Body := fixedLen 6 (fun c s =>
  let a := leAt c.pl 0 4
  let n := leAt c.pl 4 2
  if n = 0 ∨ 1024 < n then s.badParam c.key 4
  else if !(List.range n).all (fun i => s.reqReg (a + 4 * i)) then s.badParam c.key 0
  else (State.regReads n a s).1.ok c.key (State.regReads n a s).2)

/-- REG_READ (R40). -/
def execRegRead (r : Req) (s : State) : Host.Outcome State Fault Refusal := .next (s.opcode r 3 1 bodyRegRead)

/-- The resource whose owner refuses a register write of `who` (R481): what the write would record, were no record kept yet. -/
def State.refusedAct (s : State) (who : Who) (a : Nat) (w : Word) : Option Nat :=
  let t := (s.setF F.PINOWN_CONF_INFO_VALID 0).regWrite who a w
  if t.flag F.PINOWN_CONF_INFO_VALID && t.f F.PINOWN_CONF_INFO_PATH == 1 then some (t.f F.PINOWN_CONF_RES_RES) else none

/-- REG_WRITE (R39, R40): the masked bits change, and the register is read back; CONFLICT where the write acts on a resource the
Steward does not own. -/
def bodyRegWrite : Body := fixedLen 12 (fun c s =>
  let a := leAt c.pl 0 4
  let m := toW (leAt c.pl 4 4)
  let v := toW (leAt c.pl 8 4)
  if !s.reqReg a then s.badParam c.key 0
  else
    let (s1, old) := s.regRead whoStew a
    let w := (old.getD 0#32 &&& ~~~m) ||| (v &&& m)
    match s1.refusedAct whoStew a w with
    | some id => s1.cmdConflict c.key id
    | none =>
      let (s2, back) := (s1.regWrite whoStew a w).regRead whoStew a
      s2.ok c.key (leBytes 4 (back.getD 0#32).toNat))

/-- REG_WRITE (R40). -/
def execRegWrite (r : Req) (s : State) : Host.Outcome State Fault Refusal := .next (s.opcode r 3 2 bodyRegWrite)

/-! Physical accesses of any size (R4, R19). -/

/-- A physical read of `n` bytes by `who`: a register by a 32-bit access, memory by any. -/
def State.busRead (s : State) (who : Who) (a n : Nat) : State × BusRes :=
  if memKind a = .reg then
    if n ≠ 4 then (s, .busErr) else
    match s.regRead who a with
    | (s1, some w) => (s1, .ok w.toNat)
    | (s1, none) => (s1, .busErr)
  else s.memRead a n

/-- A physical write of `n` bytes by `who`; a bus error reaches it under R115. Object RAM of a CAN controller checks the
owner (R222). -/
def State.busWrite (s : State) (who : Who) (a n v : Nat) : State :=
  match memKind a with
  | .reg => if n ≠ 4 then s.busErr who else s.regWrite who a (toW v)
  | .canRam _ => if s.islandUp 6 then State.wrRes who (s.canRamWrite a n v) else s.busErr who
  | _ => (s.memWrite a n v).getD (s.busErr who)

end Sys2Proof.Machine
end

