-- ==== Sys2Proof/Machine/DmaRun.lean ====
section
/-! DEFINITION. The DMA engine at work: which channel a beat boundary serves (R117), one beat (R116, R121, R122), the end of a burst
(R119) and its faults (R123). -/
namespace Sys2Proof.Machine

/-- Initiator of a channel's accesses. -/
def whoDma (n : Nat) : Who := .dma (Fin.ofNat 64 n)

/-- An island is in an L3 reset (R123). -/
def State.inL3 (s : State) (i : Nat) : Bool := s.pwr.l3.any (fun e => (l3Islands e.1).contains i)

/-- How a beat's access ends. -/
inductive BeatRes where
  | ok (v : List Byte)
  | iommu (a : Nat)
  | bus (a : Nat)
  | ecc (a : Nat)
  | l3 (a isl : Nat)
  deriving DecidableEq, Repr

/-- Beats of a burst of `len` bytes (R116). -/
def nBeats (len : Nat) : Nat := cdiv len 8

/-- Registers of a beat: whole words, at an aligned address (R4). -/
def State.regBeatRead (n : Nat) : Nat → Nat → State → State × Option (List Byte)
  | 0, _, s => (s, some [])
  | k + 1, a, s =>
    match s.regRead (whoDma n) a with
    | (s1, none) => (s1, none)
    | (s1, some w) =>
      match State.regBeatRead n k (a + 4) s1 with
      | (s2, some bs) => (s2, some (leBytes 4 w.toNat ++ bs))
      | r => r

/-- A register has RC fields, so a read of it removes data (R121). -/
def popAt (a : Nat) : Bool := ((regAt a).map (fun r => r.fields.any (fun f => f.acc == .rc))).getD false

/-- The burst of channel `n`, whose beat lies at the physical address `pa`, has a pop source (R121). An incrementing burst stays
within 256 bytes, so within its page. -/
def State.burstPops (s : State) (n pa : Nat) : Bool :=
  let x := s.dch n
  if memKind pa ≠ .reg then false
  else if x.sinc then (List.range (cdiv (s.chRec n).len 4)).any (fun i => popAt (pa - 8 * x.beat + 4 * i))
  else popAt pa || popAt (pa + 4)

/-- Read `len` bytes for channel `n` at the I/O address `va`; the last result says that the burst has a pop source. A crossing to
an island whose bridge is closed without an L3 reset is a bus error of R4 (DESIGN CHOICE, log 149). -/
def State.beatRead (s : State) (n va len : Nat) : State × BeatRes × Bool :=
  let ctx := s.f (F.DMA_CH_CFG_CTX n)
  match s.ioTranslate ctx n va false with
  | (s1, none) => (s1, .iommu va, false)
  | (s1, some pa) =>
    if s1.inL3 (addrIsland pa) then (s1, .l3 va (addrIsland pa), s1.burstPops n pa) else
    if memKind pa = .reg then
      if len % 4 ≠ 0 then (s1, .bus va, false) else
      match State.regBeatRead n (len / 4) pa s1 with
      | (s2, some bs) => (s2, .ok bs, s1.burstPops n pa)
      | (s2, none) => (s2, .bus va, false)
    else match State.ioReadMem ctx n len va s1 with
      | (s2, .ok bs) => (s2, .ok bs, false)
      | (s2, .iommu a) => (s2, .iommu a, false)
      | (s2, .bus a) => (s2, .bus a, false)
      | (s2, .ecc a) => (s2, .ecc a, false)

/-- Translate every byte of a write. -/
def State.ioAddrs (ctx n : Nat) : Nat → Nat → State → State × Except Nat (List Nat)
  | 0, _, s => (s, .ok [])
  | k + 1, va, s =>
    match s.ioTranslate ctx n va true with
    | (s1, none) => (s1, .error va)
    | (s1, some pa) =>
      match State.ioAddrs ctx n k (va + 1) s1 with
      | (s2, .ok pas) => (s2, .ok (pa :: pas))
      | r => r

/-- The accesses of a write on behalf of a channel: the registers by words, CAN_n_TXFIFO by the whole beat (R214), memory by
bytes. -/
def beatActs (n : Nat) (pas : List Nat) (bs : List Byte) : List (State → State) :=
  let pa := pas.headD 0
  if memKind pa = .reg then
    if bs.length % 4 ≠ 0 then [fun s => s.busErr (whoDma n)]
    else if bs.length = 8 ∧ taggedPort pa = some (pa / 0x10000 * 0x10000 + 0x800) then
      [fun s => if s.regOk (whoDma n) pa then State.wrRes (whoDma n) (s.canFifo ((pa - 0x40100000) / 0x10000) bs) else s.busErr (whoDma n)]
    else (List.range (bs.length / 4)).map (fun i s => s.regWrite (whoDma n) (pa + 4 * i) (toW (leAt bs (4 * i) 4)))
  else (pas.zip bs).map (fun p s => s.busWrite (whoDma n) p.1 1 p.2.toNat)

/-- A physical write on behalf of a channel; the second result says that it ended with a bus error. It then has no effect (R124) but
that of its refused access, which records and raises a conflict (R24, R481). -/
def State.beatPut (s : State) (n : Nat) (pas : List Nat) (bs : List Byte) : State × Bool :=
  let s0 := { s with dma := { s.dma with err := false } }
  let acts := beatActs n pas bs
  let s1 := acts.foldl (fun s f => f s) s0
  if s1.dma.err then
    (match acts.find? (fun f => (f s0).dma.err) with
    | some f => f s0
    | none => s0, true)
  else (s1, false)

/-- Write a beat's bytes at the I/O address `va` (R121): at a tagged port the tag decides whether the write takes effect; a
repeated beat is discarded and answered as committed. The last result says that the port is tagged. -/
def State.beatWrite (s : State) (n va : Nat) (bs : List Byte) : State × BeatRes × Bool :=
  let ctx := s.f (F.DMA_CH_CFG_CTX n)
  match State.ioAddrs ctx n bs.length va s with
  | (s1, .error a) => (s1, .iommu a, false)
  | (s1, .ok pas) =>
    let pa := pas.headD 0
    if s1.inL3 (addrIsland pa) then (s1, .l3 va (addrIsland pa), (taggedPort pa).isSome) else
    match taggedPort pa with
    | some port =>
      let (ok, tags) := tagAccept s1.dma.tags port n (s1.chRec n).gen (s1.dch n).beat
      if !ok then (s1, .ok [], true) else
      match s1.beatPut n pas bs with
      | (s2, false) => ({ s2 with dma := { s2.dma with tags := tags } }, .ok [], true)
      | (s2, true) => (s2, .bus va, true)
    | none =>
      match s1.beatPut n pas bs with
      | (s2, false) => (s2, .ok [], false)
      | (s2, true) => (s2, .bus va, false)

/-- A fault of a beat, by the coverage table (R123): `src` that it is the source's. -/
def State.beatFault (s : State) (n : Nat) (r : BeatRes) (src : Bool) : State :=
  match r with
  | .ok _ => s
  | .iommu a => s.dmaPause n a
  | .bus a => s.dmaError n 5 a
  | .ecc a => s.dmaEcc n a
  | .l3 a isl =>
    if src && (s.chRec n).popsrc && decide ((s.dch n).beatsRead < nBeats (s.chRec n).len) then s.dmaError n 8 a
    else ((s.modRec n (fun x => { x with faultAddr := a })).dmaWait n 4).modDch n (fun x => { x with waitIsl := isl })

/-- One beat of a channel's burst (R116, R122): beat k moves bytes 8k to 8k + 7 of the burst. All data of a burst with a pop source
is read once and kept in the burst buffer of the channel's level (R121). -/
def State.dmaBeat (s : State) (n : Nat) : State :=
  let x := s.dch n
  let r := s.chRec n
  let k := x.beat
  let len := min 8 (r.len - 8 * k)
  let prio := s.f (F.DMA_CH_CFG_PRIO n)
  let rd : State × BeatRes :=
    if r.popsrc && decide (k < x.beatsRead) then (s, .ok (((tblGet s.dma.buf prio).drop (8 * k)).take len))
    else
      let (s1, res, pop) := s.beatRead n (if x.sinc then r.src + 8 * k else r.src) len
      let s2 := s1.modRec n (fun r => { r with popsrc := r.popsrc || pop })
      match res with
      | .ok bs =>
        let keep := fun (old : List Byte) => old.take (8 * k) ++ bs
        (({ s2 with dma := { s2.dma with buf := if pop then tblMod s2.dma.buf prio keep else s2.dma.buf } }).modDch n
          (fun x => { x with beatsRead := max x.beatsRead (k + 1) }), .ok bs)
      | f => (s2, f)
  match rd with
  | (s1, .ok bs) =>
    let (s2, res, tagged) := s1.beatWrite n (if x.dinc then r.dst + 8 * k else r.dst) bs
    let s3 := s2.modRec n (fun r => { r with tagged := r.tagged || tagged })
    match res with
    | .ok _ => (s3.modRec n (fun r => { r with beatsDone := max r.beatsDone (k + 1) })).modDch n (fun x => { x with beat := k + 1 })
    | f => s3.beatFault n f false
  | (s1, f) => s1.beatFault n f true

/-- A channel is ready to be served (R117): ACTIVE with a beat left, or WAITING with its condition met; with a request line only
while the line asks for a burst (R116). -/
def State.dmaReady (s : State) (n : Nat) : Bool :=
  let st := s.f (F.DMA_CH_STAT_STATE n)
  let x := s.dch n
  (s.f (F.DMA_CH_CFG_REQ n) == 0xFF || x.ready) &&
  (if st = 1 then x.burstOpen && decide (x.beat < nBeats (s.chRec n).len)
   else if st = 2 then (s.chRec n).cause != 4 || !s.inL3 x.waitIsl
   else false)

/-- The channel a beat boundary serves: the highest level, the lowest number among equals; a running burst gives way to a
higher level alone (R117). -/
def State.dmaPick (s : State) : Option Nat :=
  let lvl := fun n => s.f (F.DMA_CH_CFG_PRIO n)
  let best := (List.range 64).foldl (fun (b : Option Nat) n =>
    if !s.dmaReady n then b else match b with
    | none => some n
    | some m => if lvl m < lvl n then some n else b) none
  match s.dma.active, best with
  | some m, some b => if s.dmaReady m && decide (lvl b ≤ lvl m) then some m else some b
  | _, b => b

/-- DMA_BEAT_BOUNDARY (R117, R119, R122): the channel to serve does one beat; a burst it pre-empts waits with CAUSE 1; a waiting
channel begins its replay. -/
def State.dmaServe (s : State) : State :=
  if !s.flag F.DMA_CTRL_EN then s else
  match s.dmaPick with
  | none => s
  | some n =>
    let s1 := match s.dma.active with
      | some m => if m ≠ n ∧ s.dmaReady m then s.dmaWait m 1 else s
      | none => s
    let s2 := if s1.f (F.DMA_CH_STAT_STATE n) = 2 then s1.dmaReplay n else s1
    if s2.f (F.DMA_CH_STAT_STATE n) = 1 then
      ({ s2 with dma := { s2.dma with active := some n } }).dmaBeat n
    else s2

/-- DMA_BEAT_BOUNDARY (R117). -/
def execDmaBeatBoundary (s : State) : Host.Outcome State Fault Refusal := .next s.dmaServe

/-- DMA_BURST_COMPLETE (R119): the record is closed; the next burst's is opened, the next descriptor fetched, or the chain ends. -/
def State.dmaComplete (s : State) (n : Nat) : State :=
  let x := s.dch n
  let r := s.chRec n
  if s.f (F.DMA_CH_STAT_STATE n) ≠ 1 || !x.burstOpen || decide (x.beat < nBeats r.len) then s else
  let s1 := (s.modRec n (fun r => { r with state := 2 })).dmaYield n
  let s2 := s1.modDch n (fun x => { x with
    src := if x.sinc then (x.src + r.len) % 2 ^ 32 else x.src
    dst := if x.dinc then (x.dst + r.len) % 2 ^ 32 else x.dst
    burstOpen := false, ready := false })
  let rem := s.f (F.DMA_CH_REM_VALUE n) - r.len
  let s3 := s2.setF (F.DMA_CH_REM_VALUE n) rem
  if 0 < rem then s3.openBurst n
  else if !x.last then (s3.setF (F.DMA_CH_CUR_VALUE n) x.nextDesc).fetchDesc n
  else
    let s4 := (s3.setF (F.DMA_CH_STAT_STATE n) 0).setFlag (F.DMA_CH_STAT_DONE n) true
    s4.when x.irq (fun s => s.raise (128 + n))

/-- DMA_BURST_COMPLETE (R119). -/
def execDmaBurstComplete (ch : Fin 64) (s : State) : Host.Outcome State Fault Refusal := .next (s.dmaComplete ch)

/-- DMA_BURST_FAULT (R123): a fault of a running burst that arises outside the engine, at its next beat. An island reset is the
source's where that island is in an L3 reset, or the destination's is not; the FAB island has none. -/
def State.dmaFaulted (s : State) (n : Nat) (f : BurstFault) : State :=
  let x := s.dch n
  let r := s.chRec n
  if s.f (F.DMA_CH_STAT_STATE n) ≠ 1 || !x.burstOpen then s else
  let src := if x.sinc then r.src + 8 * x.beat else r.src
  let pa := (s.ioTranslate (s.f (F.DMA_CH_CFG_CTX n)) n src false).2.getD src
  let dst := if x.dinc then r.dst + 8 * x.beat else r.dst
  let pd := (s.ioTranslate (s.f (F.DMA_CH_CFG_CTX n)) n dst true).2.getD dst
  let srcRst := addrIsland pa ≠ 3 && (s.inL3 (addrIsland pa) || !s.inL3 (addrIsland pd))
  match f with
  | .eccSource => (s.eccRecord pa (eccStore pa)).dmaEcc n src
  | .busError => s.dmaError n 5 src
  | .islandReset => if srcRst then s.beatFault n (.l3 src (addrIsland pa)) true else s.beatFault n (.l3 dst (addrIsland pd)) false
  | .popLost => s.dmaError n 8 src

/-- DMA_BURST_FAULT (R123). -/
def execDmaBurstFault (ch : Fin 64) (fault : BurstFault) (s : State) : Host.Outcome State Fault Refusal :=
  .next (s.dmaFaulted ch fault)

end Sys2Proof.Machine
end

