-- ==== Sys2Proof/Machine/EnclCmd.lean ====
section
/-! DEFINITION. The Enclave's opcodes (R380, R384 to R386) and tamper (R387). -/
namespace Sys2Proof.Machine

/-- ATTEST (R384): a 32-byte nonce; the 900-byte statement. -/
def bodyAttest : Body := fixedLen 32 (fun c s => s.useFree.ok c.key (s.statement c.pl))

/-- ATTEST (R384). -/
def execAttest (r : Req) (s : State) : Host.Outcome State Fault Refusal := .next (s.opcode r 8 1 bodyAttest)

/-- KEY_LOAD (R378, R380): u8 slot and a blob or an envelope; the blob an import returns goes to the flash key store. -/
def bodyKeyLoad : Body := fun c s =>
  let slot := leAt c.pl 0 1
  let bs := c.pl.drop 1
  if 63 < slot then s.badParam c.key 0
  else if c.pl.length ≠ 89 ∧ c.pl.length ≠ 185 then s.badParam c.key 1
  else
    let r := s.loadKey false slot bs
    if r.code ≠ 0 then r.st.failed c.key (0x0F00 + r.code)
    else
      let s1 := if r.res.isEmpty then r.st else
        { r.st with encl := { r.st.encl with store := tblSet r.st.encl.store slot r.res } }
      s1.ok c.key []

/-- KEY_LOAD (R380). -/
def execKeyLoad (r : Req) (s : State) : Host.Outcome State Fault Refusal := .next (s.opcode r 8 2 bodyKeyLoad)

/-- DEBUG_CHALLENGE (R385, R390): the 56-byte record; WRONG_STATE after three failures, its mode byte a free value. -/
def bodyDebugChallenge : Body := fixedLen 0 (fun c s =>
  if 3 ≤ s.encl.fails then s.useFree.wrongState c.key (s.freeNat % 256)
  else if !s.flag F.ENCL_STAT_TRNG then s.failed c.key 0x0F09
  else
    let rec_ := leBytes 4 (s.reg A.SYSCTL_DEVID).toNat ++ fitBytes 16 Config.fuseSerial ++ s.rand 32 ++ leBytes 2 s.svn ++
      leBytes 1 (s.f F.DBG_STAT_SCOPE) ++ leBytes 1 0
    let n : DbgNonce := ⟨rec_, (c.sess.map (·.id)).getD 0, s.now⟩
    ({ s with encl := { s.encl with challenge := some n } }).useFree.ok c.key rec_)

/-- DEBUG_CHALLENGE (R385). -/
def execDebugChallenge (r : Req) (s : State) : Host.Outcome State Fault Refusal := .next (s.opcode r 8 3 bodyDebugChallenge)

/-- The CAN and access engines lose their copies (R386 step 2). -/
def State.dropEngineKeys (s : State) : State :=
  let s1 := forBelow 16 s (fun n s =>
    if s.flag (F.CAN_AUTH_EN n) then
      ((s.modCan n (fun c => { c with key := none })).setF (F.CAN_AUTH_EN n) 0).setF (F.CAN_AUTH_KERR n) 1
    else s)
  if s1.flag F.ACC_CTRL_EN then
    ((s1.accCtrl (putBit (s1.reg A.ACC_CTRL).toNat 0 false)).setF F.ACC_CTRL_KERR 1).modAcc (fun a => { a with key := [] })
  else s1

/-- A debug unlock that succeeds (R386), in the order of its steps. -/
def State.debugUnlock (s : State) (scope : Nat) : State :=
  if scope = 0 then s else
  let s1 := forBelow 64 s (fun i s => if (s.slot i).isSome then s.dropSlot i else s)
  (((s1.dropEngineKeys).setF F.ENCL_STAT_DBG 1).setF F.DBG_STAT_SCOPE scope).raise 454

/-- DEBUG_UNLOCK (R385, R386): scope, three zero bytes, the authority's public key, its signature over the challenge record and
the scope byte. The nonce serves one unlock of its session, for 60 s. -/
def bodyDebugUnlock : Body := fixedLen 196 (fun c s =>
  let scope := leAt c.pl 0 1
  let key := (c.pl.drop 4).take 96
  if 16 ≤ scope then s.badParam c.key 0
  else if leAt c.pl 1 1 ≠ 0 then s.badParam c.key 1
  else if leAt c.pl 2 2 ≠ 0 then s.badParam c.key 2
  else
    let mine := s.encl.challenge.filter (fun n => some n.sess == c.sess.map (·.id))
    let s1 := if mine.isSome then { s with encl := { s.encl with challenge := none } } else s
    let good : Bool := match mine with
      | none => false
      | some n => decide (s.now < n.at_ + 60000000000) &&
          Config.sha384 key == Config.fuseDbgAuth &&
          Config.ecdsaVerify 3 key (Config.sha384 (n.rec_ ++ c.pl.take 1)) (c.pl.drop 100)
    if good then (s1.debugUnlock scope).ok c.key []
    else (({ s1 with encl := { s1.encl with fails := s1.encl.fails + 1 } }).raise 455).finish c.key stAuthFailed [])

/-- DEBUG_UNLOCK (R386). -/
def execDebugUnlock (r : Req) (s : State) : Host.Outcome State Fault Refusal := .next (s.opcode r 8 4 bodyDebugUnlock)

/-- Keys of zeros. -/
def zeroKey : List Byte := List.replicate 16 0#8

/-- ENCL_TAMPER (R387): the Enclave's SRAM, the slots, the session keys and the engine copies are zeroed, an operation in progress
is abandoned, the cause recorded and raised, and the reset source "Enclave tamper" requested. -/
def State.tamper (s : State) (cause : Nat) : State :=
  let s1 := { s with
    encl := { (default : EnclSt) with ops := s.encl.ops, first := s.encl.first, fails := s.encl.fails, store := s.encl.store }
    cmd := { s.cmd with sess := s.cmd.sess.map (fun (x : Sess) => { x with key := zeroKey }) }
    acc := { s.acc with key := zeroKey }
    can := { s.can with ch := s.can.ch.map (fun (x : Nat × CanCh) => (x.1, { x.2 with key := x.2.key.map (fun _ => zeroKey) })) }
    ring := { s.ring with links := s.ring.links.map (fun (x : Nat × BrlLink) => (x.1, { x.2 with key := x.2.key.map (fun _ => zeroKey) })) } }
  let s2 := match s.encl.running with
    | some c => ({ s1 with encl := { s1.encl with ops := tblErase s1.encl.ops c } }).setF (F.MB_STAT_BUSY c) 0
    | none => s1
  let s3 := ((s2.setReg A.ENCL_SLOTS_L 0).setReg A.ENCL_SLOTS_H 0).setFbit F.ENCL_TAMPER_CAUSE cause true
  (s3.raise 453).reqReset 11 none

/-- ENCL_TAMPER (R387). -/
def execEnclTamper (cause : Fin 5) (s : State) : Host.Outcome State Fault Refusal := .next (s.tamper cause)

end Sys2Proof.Machine
end

