-- ==== Sys2Proof/Machine/Boot.lean ====
section
/-! DEFINITION. Taking a reset (R451 to R456, R463) and the boot sequence: straps (R459), option loader (R461), measurement (R374),
bank choice (R416, R465 to R467), the Steward's start (R160, R196, R398, R405, R418, R482), the end of an L3 reset. -/
namespace Sys2Proof.Machine

/-! The reset history (R456). -/

/-- A reset of level L0 to L2 is taken: brown-out and the reset that ends a storm clear the history; any other adds an entry, and
eight within 10 s are a storm. -/
def State.rstHistory (s : State) (clear : Bool) : State :=
  let was := s.flag F.SYSCTL_RSTLAST_STORM
  let t := s.rtcTicks
  let h := if clear then [] else (t :: s.pwr.hist).take 8
  let storm := !clear && (was || (h.length == 8 && decide (t - h.getLastD 0 ≤ 327680)))
  let s1 := s.modPwr (fun p => { p with hist := h, endStorm := false })
  let s2 := s1.setF F.SYSCTL_RSTLAST_NWIN (h.filter (fun x => decide (t - x ≤ 327680))).length
  (s2.setFlag F.SYSCTL_RSTLAST_STORM storm).levelEdge 8 was

/-! What an L2 reset leaves (R453, R119, R105, R98, R37, R48, R160). -/

/-- The bits of a register that an L2 reset keeps. -/
def keepL2 (a : Nat) : Nat :=
  match a / 0x10000 with
  | 0x4001 | 0x4003 | 0x4005 | 0x4006 | 0x4007 => 0
  | 0x4002 =>
    if a = A.DMA_JRN_RSEQ ∨ a = A.MEM_ECCADDR ∨ a = A.MEM_ECCSRC then 0xFFFFFFFF
    else match idxAt (a % 0x10000) 0x1008 0x40 64 with
      | some n => leVal (leBytes 4 ([F.DMA_CH_STAT_STATE n, F.DMA_CH_STAT_CAUSE n, F.DMA_CH_STAT_ERR n, F.DMA_CH_STAT_JREC n].foldl
          (fun m x => m + (2 ^ (x.hi + 1) - 2 ^ x.lo)) 0))
      | none => 0
  | 0x4043 => if a = A.USBS_STAT then 1 else 0
  | _ => 0xFFFFFFFF

/-- A core in an L2 reset: LSREC0 and LSREC1 stay. -/
def FkCore.l2 (k : FkCore) (xvb : Word) : FkCore := { FkCore.atReset xvb with lsrec0 := k.lsrec0, lsrec1 := k.lsrec1 }

/-- A Pan over an L2 reset: its program in I-TCM and in flash, and its map. -/
def PanSt.l2 (x : PanSt) : PanSt :=
  { (default : PanSt) with map := x.map, blocks := x.blocks, crcs := x.crcs, code := x.code, place := x.place, gen := x.gen,
                           unstored := x.unstored }

/-- A block whose tagged ports an L2 reset makes not valid (R121). -/
def portL2 (a : Nat) : Bool :=
  let i := addrIsland a
  i == 0 || i == 1 || i == 2 || i == 3 || i == 7 || i == 14 || i == 8 || a / 0x10000 == 0x4005

/-- A word whose error an L2 reset leaves: of a memory or of the journal. -/
def eccL2 (a : Nat) : Bool :=
  decide (a < 0x40000000) || (decide (0x40028000 ≤ a) && decide (a < 0x40030000)) || decide (0x100100000 ≤ a)

/-- The state as an L2 reset leaves it at its first step. The logic side is silent from here on (R195). Memories and the journal keep
their content (R105, R123), and so do the channels' GEN counters, which the spec does not name here (DESIGN CHOICE, log 150); the
other critical stores are reset, and their errors go. A forwarding ends (R422). -/
def State.resetL2 (s : State) : State :=
  let s0 := ((s.dmaL2).panSilent .a).panSilent .b
  let d : DmaSt := { (default : DmaSt) with
    ch := s0.dma.ch.map (fun x => (x.1, { (default : DmaCh) with gen := x.2.gen })), jrn := s0.dma.jrn,
    tags := s0.dma.tags.filter (fun t => !portL2 t.port) }
  let c : CmdSt := { (default : CmdSt) with
    lockUntil := s0.cmd.lockUntil, ownSeq := s0.cmd.ownSeq,
    stopAsked := s0.cmd.stopAsked ++ s0.cmd.tokens.map (fun (t : Token) => t.cls) }
  let s1 := { s0 with
    regs := regsKept keepL2 s0.regs
    panA := s0.panA.l2 0x08000000#32, panB := s0.panB.l2 0x08800000#32, stew := s0.stew.l2 0xFFFF0000#32
    ecc := s0.ecc.filter (fun x => eccL2 (4 * x.1))
    latch := [], rtrig := 0, wakes := 0, dma := d, cmd := c, pA := s0.pA.l2, pB := s0.pB.l2
    rake := { (default : RakeSt) with split := s0.rake.split, silent := s0.rake.silent, silOff := s0.rake.silOff }
    time := { s0.time with ptp := default, eth := [] }
    ring := { s0.ring with hs := { (default : HsSt) with stopped := true } }
    dbg := { s0.dbg with skip := [], haltAt := [] }
    upd := { s0.upd with fwd := none }
    islHeld := s0.islHeld ||| l2Held }
  let s2 := (List.range 3).foldl (fun s c => s.setReg (A.DBG_CORE_STAT c) 0#32) (s1.setF F.DBG_STAT_HALTED 0)
  s2.updBusy.usbAttach

/-! RESET_SOURCES_TAKEN (R451 to R456, R463 step B1). -/

/-- A severe reset leaves parking: an entry under way is undone at L2, and rails that it took down are needed again. -/
def State.rstUnpark (s : State) (lv : Nat) : State :=
  match s.pwr.park with
  | .run => s
  | .arm | .flush | .loads => if lv = 2 then s.parkAbort else s
  | _ => s.railStart 2

/-- The rails under a reset (R429, R453): sources 0 and 1 start the sequence at step 1, source 2 and any reset that arrives during it at
step 2. -/
def State.rstRails (s : State) (srcs : List Nat) : State :=
  if srcs.contains 1 then s.railStart 1
  else if srcs.contains 2 || (decide (2 ≤ s.pwr.rail) && !s.pwr.dead) then s.railStart 2 else s

/-- The body of a reset of level L0, L1 or L2. -/
def State.rstSevereTake (s : State) (srcs : List Nat) (level : Nat) : State :=
  let lv := match s.pwr.bring with | some b => min b level | none => level
  let s0 := if s.pwr.bring.isSome then s.setF F.SYSCTL_RSTLAST_RESTARTS (satAdd 255 (s.f F.SYSCTL_RSTLAST_RESTARTS) 1) else s
  let ends := s.pwr.endStorm && s.flag F.SYSCTL_RSTLAST_STORM && srcs.contains 13
  let s1 := (s0.rstHistory (ends || srcs.contains 1)).rstUnpark lv
  let low := srcs.foldl min 15
  let s2 := (s1.setF F.SYSCTL_RSTLAST_LEVEL lv).setF F.SYSCTL_RSTLAST_SRC low
  if lv = 2 then
    (s2.resetL2.rstRails srcs).modPwr (fun p => { p with bring := some 2, l3 := p.l3.filter (fun x => x.2), wdtHalf := 0,
                                                         rstOut := p.rstOut || bit (s.optByte 3) 0 })
  else
    let s3 := s2.resetL1 (if srcs.contains 1 then .brownOut else .plain)
    let s4 := if lv = 0 then s3.setF F.SYSCTL_STRAP_TEST_EN 0 else s3
    (s4.rstRails srcs).modPwr (fun p => { p with bring := some lv, l3 := [], park := .run, woken := false, wdtHalf := 0, optNew := [],
                                                 eraseHeld := false, rstOut := true, pdWait := 2 ^ 34 - 1 - p.pd })

/-- The sources asserted in one AON cycle (R452, R454): each sets its cause bit, and one reset at the most severe level follows. -/
def State.rstTake (s : State) : State :=
  if s.rstReq.isEmpty then s else
  let lev := fun (r : Nat × Option Nat) => s.effLvl r.1 ((r.2.getD 3) % 4)
  let srcs := s.rstReq.map (·.1)
  let level := (s.rstReq.map lev).foldl min 3
  let s1 := { srcs.foldl (fun s k => s.setFbit F.SYSCTL_RSTCAUSE_CAUSE k true) s with rstReq := [] }
  if level < 3 then s1.rstSevereTake srcs level
  else if s.pwr.bring.isSome then s1
  else
    let s2 := (s1.setF F.SYSCTL_RSTLAST_LEVEL 3).setF F.SYSCTL_RSTLAST_SRC (srcs.foldl min 15)
    s.rstReq.foldl (fun s r => s.l3Begin (((r.2.getD 3) / 4) % 5)) s2

/-- RESET_SOURCES_TAKEN (R454). -/
def execResetSourcesTaken (s : State) : Host.Outcome State Fault Refusal := .next s.rstTake

/-! Option loader (R461). -/

/-- The 256 bytes of a copy, when it is valid. -/
def State.optCopyBytes (s : State) (c : Nat) : Option (List Byte) :=
  let b := s.mbytes (optCopy c) 256
  if leAt b 0 2 = 0x4B4F ∧ leAt b 2 1 = 1 ∧ crc32c (b.take 252) = leAt b 252 4 then some b else none

/-- The defaults of R461: no raised level, every HSS and SOL channel interlocked. -/
def optDefaults : List Byte :=
  List.replicate 8 0#8 ++ List.replicate 16 0xFF#8 ++ List.replicate 12 0#8 ++ List.replicate 7 0xFF#8 ++ [0x0F#8] ++ List.replicate 212 0#8

/-- The interlock marks of the option bytes reach the channels (R360). -/
def State.optIlk (s : State) : State :=
  let s1 := forBelow 48 s (fun n s => s.setFlag (F.HSS_N_DCFG_ILK n) (bit (s.optByte (36 + n / 8)) (n % 8)))
  forBelow 12 s1 (fun n s => s.setFlag (F.SOL_N_STAT_ILK n) (bit (s.optByte (42 + n / 8)) (n % 8)))

/-- The MAC addresses of the option bytes (R251, R460). -/
def State.optMac (s : State) : State :=
  forBelow 2 s (fun n s =>
    let b := (List.range 6).map (fun i => BitVec.ofNat 8 (s.optByte (24 + 6 * n + i)))
    (s.setF (F.ETH_MAC_L_ADDR n) (leAt b 0 4)).setF (F.ETH_MAC_H_ADDR n) (leAt b 4 2))

/-- Option bytes in force: the newer of two valid copies, the valid one of two, or the defaults. The last result: SYS_OPT_BAD is
due at start. -/
def State.optLoad (s : State) : State × Bool :=
  let put := fun (b : List Byte) (src bad : Nat) =>
    ((((s.setRegBytes (A.SYSCTL_OPT 0) 64 b).setF F.SYSCTL_BOOTSTAT_OPTSRC src).setF F.SYSCTL_BOOTSTAT_OPTBAD bad).setF
      F.SYSCTL_BOOTSTAT_GEN (leAt b 4 2)).optIlk
  match s.optCopyBytes 0, s.optCopyBytes 1 with
  | some a, some b => if newer 16 (leAt b 4 2) (leAt a 4 2) then (put b 1 0, false) else (put a 0 0, false)
  | some a, none => (put a 0 0, true)
  | none, some b => (put b 1 0, true)
  | none, none => (put optDefaults 3 1, true)

/-! The Enclave ROM (R374, R375, R384). -/

/-- The root R0. -/
def State.enclRoot (s : State) : State :=
  let r := Config.hkdf384 Config.fuseUds (List.replicate 48 0#8) (asc "KDRS" ++ leBytes 4 (s.reg A.SYSCTL_DEVID).toNat) 48
  { s with encl := { s.encl with r0 := r } }

/-- The measurement of the set at a base: MR0 to MR6, locked; SVN, SH, the endorsement; the ENCLAVE firmware runs. -/
def State.enclMeasure (s : State) (base : Nat) : State :=
  let one := fun (k c : Nat) (s : State) => s.extend k (Config.sha384 (s.image base c))
  let s1 := one 5 6 (one 4 5 (one 3 3 (one 2 2 (one 1 4 (one 0 1 s)))))
  let opt := s1.regBytes (A.SYSCTL_OPT 0) 64
  let s2 := s1.extend 6 (Config.sha384 (opt ++ Config.fuseShadow ++ leBytes 1 (s1.f F.SYSCTL_STRAP_DEBUG_HOLD)))
  let m := s2.manifest base
  let sh := if manOk m then Config.sha384 ((m.drop 880).take 96) else List.replicate 48 0#8
  let s3 := (((s2.setF F.ENCL_STAT_SVN (manSvn m)).setF F.ENCL_STAT_MRLOCK 1).setF F.ENCL_STAT_READY 1)
  let s4 := { s3 with encl := { s3.encl with sh := sh } }
  let e := Config.ecdsaSign 3 s4.devId (Config.sha384 (s4.mr06 ++ Config.ecPublic 3 s4.alias)) s4.freeNat
  { s4.useFree with encl := { s4.encl with endorse := e } }

/-! The Steward's start (R463 step B9). -/

/-- The enables of the load blocks, set once their settings are loaded (R266, R295, R313, R336). -/
def loadEnables : List Nat := [A.HSS_CTRL, A.SOL_CTRL, A.DIO_CTRL, A.LED_CTRL]

/-- The passes in which settings are loaded: what claims nothing, then the claims in the order of R482, then the enables. -/
def settingPass (a : Nat) : Nat :=
  if loadEnables.contains a then 7 else
  match a / 0x10000 with
  | 0x4006 | 0x4007 => 1
  | 0x4033 => 2
  | 0x4030 => 3
  | 0x4035 => 4
  | 0x4021 => 5
  | 0x4005 => 6
  | _ => 0

/-- A setting as RESET_STORM lets it be loaded (R456): the load blocks and hot-standby stay disabled, no Tide wake. -/
def State.stormWord (s : State) (a : Nat) (w : Word) : Word :=
  if !s.flag F.SYSCTL_RSTLAST_STORM then w
  else if a = A.HSS_CTRL ∨ a = A.SOL_CTRL ∨ a = A.DIO_CTRL ∨ a = A.LED_CTRL ∨ a = A.RING_HS_CFG then toW (putBits w.toNat 0 0 0)
  else if (List.range 16).any (fun n => a == A.TIDE_N_CMD n) then toW (putBits w.toNat 4 4 0)
  else w

/-- The Steward loads one setting; a claim that is refused is logged with its resource (R482). -/
def State.loadSetting (s : State) (x : Nat × Word) : State :=
  let load := fun (t : State) => t.regWrite (.core .steward 2) x.1 (s.stormWord x.1 x.2)
  let s1 := load s
  if s1.f F.PINOWN_CONFCNT_COUNT = s.f F.PINOWN_CONFCNT_COUNT then s1
  else s1.logKind 482 [(load (s.setF F.PINOWN_CONF_INFO_VALID 0)).f F.PINOWN_CONF_RES_RES]

/-- The fields of settings that name a key slot. -/
def slotFields : List Fld := [F.ACC_CTRL_KSLOT, F.RING_CTRL_KSLOT] ++ (List.range 16).map F.CAN_AUTH_KSLOT

/-- Settings name a key slot: by a register's field, or by a key of its own at 2^32 + 64 (DESIGN CHOICE, log 161). -/
def State.slotNamed (s : State) (i : Nat) : Bool :=
  (tblFind s.settings (2 ^ 32 + 64 + i)).isSome ||
    s.settings.any (fun x => slotFields.any (fun f => f.addr == x.1 && bits x.2.toNat f.hi f.lo == i))

/-- STEWARD loads the slots that settings name from the flash key store (R378, R388). -/
def State.loadSlots (s : State) : State :=
  forBelow 64 s (fun i s => match (if s.slotNamed i then tblFind s.encl.store i else none) with
    | some b => (s.loadKey false i b).st
    | none => s)

/-- The Steward loads the settings of the registers with `sel`. -/
def State.loadSettings (s : State) (sel : Nat → Bool) : State :=
  let l := s.settings.filter (fun x => sel x.1 && decide (x.1 < 2 ^ 32))
  (List.range 8).foldl (fun s k => (l.filter (fun x => settingPass x.1 == k)).foldl State.loadSetting s) s

/-- A setting by its key. Those that are no register's have the keys from 2^32 on (DESIGN CHOICE, log 161). -/
def State.setting (s : State) (k : Nat) : Option Nat := (tblFind s.settings k).map (·.toNat)

/-- The Steward takes the settings that are no register's: IPv4 address, mask and gateway (R251), and the session idle timeout, 60 s
by default and from 10 s to 3,600 s (R45). -/
def State.loadNet (s : State) : State :=
  { s with
    idleS := max 10 (min 3600 ((s.setting (2 ^ 32 + 3)).getD 60))
    time := { s.time with ip := (s.setting (2 ^ 32)).getD 0, mask := (s.setting (2 ^ 32 + 1)).getD 0, gateway := (s.setting (2 ^ 32 + 2)).getD 0 } }

/-- The Steward sets an enable that no setting names (R286, R295, R313, R336), but in a storm. -/
def State.enableDefault (s : State) (a : Nat) : State :=
  if s.flag F.SYSCTL_RSTLAST_STORM || (tblFind s.settings a).isSome then s
  else s.regWrite (.core .steward 2) a (toW (putBits (s.reg a).toNat 0 0 1))

/-- The silence policy of a bank that settings do not give (R196). -/
def State.silDefault (s : State) (b : Nat) : State :=
  if (tblFind s.settings (A.RING_SIL_CFG b)).isSome then s
  else if !s.flag F.RING_CTRL_EN || s.ownAddr == 0 then s.setF (F.RING_SIL_CFG_POLICY b) 0
  else (s.setF (F.RING_SIL_CFG_POLICY b) 1).setF (F.RING_SIL_CFG_BRIDGE_MS b) 50

/-- A Pan after a reset (R160): at L1 and L0 its program and its map come back from flash, a refused map leaves it without one
(R482); a Pan with a complete program is in STOP and released. An edit that was not yet stored is undone at any level (R164). -/
def State.panRestore (s : State) (p : PanId) (flash : Bool) : State :=
  let ok := (s.pan p).progOk
  let s1 := if (flash || (s.pan p).unstored) && ok then s.progCopy p else s
  let s2 := if !flash then s1.mapRegs else
    let l := (s1.pan p).map
    let t := s1.modPan p (fun x => { x with map := [] })
    if l.isEmpty then t.mapRegs else
    match t.mapCheck p l with
    | .ok => t.mapInstall p l
    | .conflict id => (t.conflict id (panParty p) 0).logKind 482 [id]
    | _ => t.logKind 482 [p.num]
  let s3 := { s2 with rake := { s2.rake with trigBase := (List.range 8).map (fun t => (t, s2.f (F.RAKE_TRIG_CFG_BASE t))) } }
  if ok then (s3.setMode p 1).panRelease p else s3.setMode p 0

/-- The Pans start as AUTO names it, unless a storm, DEBUG_HOLD or hot-standby keeps them in STOP (R160, R183, R456, R459). -/
def State.panAuto (s : State) : State :=
  if s.flag F.SYSCTL_RSTLAST_STORM || s.flag F.SYSCTL_STRAP_DEBUG_HOLD || s.role != 0 then s
  else (s.autoStart .a).autoStart .b

/-- Crust counters 0 and 1 are incremented, and the CAN transmit slots take the epoch (R220, R398). -/
def State.epoch (s : State) : State :=
  let e := s.counter 0 + s.pendingInc 0 + 1
  let one := fun (k : Nat) (s : State) => s.crustQueue { kind := 1, key := k, off := 0, data := leBytes 4 1, req := none }
  forBelow 16 (one 1 (one 0 s)) (fun n s =>
    forBelow 64 s (fun j s => (s.setF (F.CAN_FRESH_L_FV n j) 0).setF (F.CAN_FRESH_H_FV n j) (e % 2 ^ 32)))

/-- What STEWARD does for the bank status at a start (R405, R416 to R420): the marks of a bank that is left, the rest of a
confirmation, the trial's event. -/
def State.bankStart (s : State) (fallback : Bool) : State :=
  let s1 := match s.runBank with
    | none => s
    | some b =>
      let o := s.bankSt (1 - b)
      let t := if o = 8 ∨ o = 6 then s.markBank (1 - b) false else s
      let t1 := if t.bankSt b = 4 then t.confirmRest b else t
      if t1.bankSt b = 3 then
        ({ t1.setF F.UPD_STAT_TRIAL 1 with upd := { t1.upd with trialAt := s.now, good := [], unfitDue := false } }).raise 434
      else { t1 with upd := { t1.upd with unfitDue := false } }
  if fallback then s1.raise 436 else s1

/-- Component versions of the running set (R39, R411). -/
def State.setVersions (s : State) : State :=
  let m := s.manifest s.setBase
  let v := fun c => if manOk m then ent m c 4 4 else 0
  { s with versions := [v 1, v 2, v 3, v 4, v 5, v 6] }

/-- A wake's channels (R438): each that holds a wake records it and enters FLOOD. -/
def State.wakeChannels (s : State) : State :=
  forBelow 16 s (fun n s =>
    match (s.tideCh n).wake with
    | some src => (s.tideWake n src (s.tideCh n).capt).modTide n (fun c => { c with wake := none })
    | none => s)

/-- The islands in reset that a release lets go: all but those of optional domains that are off and of an L3 reset. -/
def State.islRelease (s : State) : State :=
  let off := [19, 20, 25, 26, 27, 28, 31].foldl (fun m d =>
    match pdIsland d with | some i => if bit s.pwr.pd d then m else putBit m i true | none => m) 0
  let l3 := s.pwr.l3.foldl (fun m x => (l3Islands x.1).foldl (fun m i => putBit m i true) m) 0
  { s with islHeld := s.islHeld &&& (off ||| l3) }

/-- The Steward core starts: RESET_OUT_N rises, its watchdog runs (R455, R457, R463 step B7). -/
def State.coreStart (s : State) : State :=
  let s1 := s.islRelease.modPwr (fun p => { p with bring := none, rstOut := false, wdtHalf := 0 })
  (s1.coreRelease .steward).setF (F.SYSCTL_WDT_CFG_RUN 2) 1

/-- A schema number lies in SMIN to SMAX of a component of the running set (R404, R411). -/
def State.schemaIn (s : State) (comp n : Nat) : Bool :=
  decide (s.mget (s.setBase + 16 + 144 * (comp - 1) + 28) 2 ≤ n) && decide (n ≤ s.schemaOf comp)

/-- The first settings page whose newest record in force its component cannot read: the component and the schema number (R404). -/
def State.schemaBad (s : State) : Option (Nat × Nat) :=
  (s.crust.recs.find? (fun r => r.typ == 1 && pageOwner r.key != 0 && (s.crustFind 1 r.key).any (fun q => q.seq == r.seq) &&
    !s.schemaIn (pageOwner r.key) r.schema)).map (fun r => (pageOwner r.key, r.schema))

/-- STEWARD loads settings, enables and Pans and raises what the start raises (R463 step B9, R438). -/
def State.stewLoad (optBad : Bool) (s : State) : State :=
  let wake := s.pwr.waking
  let s2 := (s.optMac.loadSlots.loadSettings (fun _ => true)).loadNet
  let s3 := loadEnables.foldl State.enableDefault s2
  let s4 := forBelow 10 s3 (fun b s => s.silDefault b)
  let s5 := ((s4.panRestore .a true).panRestore .b true).panAuto
  let s6 := { s5 with upd := { s5.upd with setOk := true } }.accGate
  let s7 := (s6.when optBad (fun s => s.raise 15)).when (s6.f F.ENCL_TAMPER_CAUSE != 0)
    (fun s => s.logKind 387 [s.f F.ENCL_TAMPER_CAUSE])
  (s7.wakeChannels.modPwr (fun p => { p with waking := false })).when wake (fun s => s.raise 3)

/-- STEWARD's start after an L1 or L0 reset or a wake (R463 step B9, R438). A bank that a component finds unfit reports it and
loads nothing (R404, R420; that the others load nothing either is a DESIGN CHOICE, log 195). -/
def State.stewStart (optBad fallback : Bool) (s : State) : State :=
  let s0 := s.setVersions.bankStart fallback
  let s1 := (s0.modCrust id).epoch
  match s0.runBank.bind (fun _ => s0.schemaBad) with
  | some (c, n) => (s1.updUnfit (2 ^ 31 + c * 2 ^ 16 + n % 2 ^ 16)).modPwr (fun p => { p with waking := false })
  | none => s1.stewLoad optBad

/-- The Steward's restart after an L2 reset (R463 steps B7 to B9, R160, R183, R196, R238): settings, enables, Pans, wakes held. -/
def State.stewRestart (s : State) : State :=
  let s0 := (s.coreStart.optMac.loadSettings (fun _ => true)).loadNet
  let s1 := forBelow 10 (loadEnables.foldl State.enableDefault s0) (fun b s => s.silDefault b)
  let hs := s1.flag F.RING_HS_CFG_EN && !s1.flag F.SYSCTL_RSTLAST_STORM
  let s2 := if hs then (s1.hsRole 1).modHs (fun h => { h with stopped := false }) else s1
  (((s2.panRestore .a false).panRestore .b false).panAuto).wakeChannels

/-! Clocks and straps (R446, R450, R459). -/

/-- Clocks locked, islands clocked, DTIME from the RTC, and TIME_NOW_H with it (R256, R262, R450). -/
def State.clocksUp (s : State) : State :=
  let ref := if s.f F.SYSCTL_STRAP_CLK_MODE = 1 then 1 else 0
  let s1 := (((((s.setF F.SYSCTL_CLKSTAT_REFSRC ref).setF F.SYSCTL_CLKSTAT_RPLL 1).setF F.SYSCTL_CLKSTAT_CORE 1).setF
    F.SYSCTL_CLKSTAT_SYS 1).setF F.SYSCTL_CLKSTAT_SERDES 1).setF F.SYSCTL_CLKSTAT_USB 1
  let s2 := s1.setFlag F.SYSCTL_CLKSTAT_RTCOK (!s1.pwr.rtcDead)
  ({ s2 with dtime := s2.f F.SYSCTL_RTC_SEC_SEC * 1000000000 + s2.rtcSub * 1000000000 / 32768 }).nowLatch

/-- The strap balls are sampled: BOOT_SEL, CLK_MODE, DEBUG_HOLD, TEST_EN from bit 0 on. -/
def State.strapSample (s : State) (straps : Nat) : State :=
  s.setReg A.SYSCTL_STRAP (toW (straps % 64 + 64 * b2n (bits straps 3 2 == 3)))

/-- The recovery loader runs, from the service port, and from the links with peer boot (R466, R467). -/
def State.loaderStart (s : State) (mode : Nat) : State :=
  let s1 := (s.setF F.SYSCTL_BOOTSTAT_MODE mode).modUpd (fun u => { u with recov := 1 })
  let s2 := s1.coreStart.usbCtrl 1
  let s3 := { s2 with versions := [0, 0, 0, 0, 0, 0] }
  if mode = 3 then (s3.ringAddr 0#32).ringCtrl 1#32 else s3

/-- Steps B4 to B9 at L1 and L0 (R463 to R467). -/
def State.bootRun (s : State) (fresh : Bool) : State :=
  let (s1, optBad) := s.clocksUp.optLoad
  let s2 := s1.enclRoot
  let sel := s2.f F.SYSCTL_STRAP_BOOT_SEL
  if sel = 1 then s2.loaderStart 2
  else if sel = 2 then s2.loaderStart 3
  else
    let alt := fresh && sel == 3
    match s2.bootChoose alt with
    | (s3, some b, fb) =>
      let s4 := (((s3.setF F.UPD_STAT_BANK b).setF F.SYSCTL_BOOTSTAT_BANK b).setF F.SYSCTL_BOOTSTAT_MODE (b2n alt)).enclMeasure (bankBase b)
      s4.coreStart.stewStart optBad fb
    | (s3, none, _) => s3.loaderStart 2

/-- Bring-up may end: rails up, RESET_N high, no thermal hold, not held at B3 by TEST_EN (R429, R441, R455, R459). -/
def State.bringMay (s : State) : Bool :=
  s.railsUp && !s.pwr.resetN && !s.pwr.therm && !s.flag F.SYSCTL_STRAP_TEST_EN && s.pwr.park == .run

/-- STEWARD_RELEASE (R463): the steps of the level from B3 on; the straps count at L0. -/
def execStewardRelease (straps : BitVec 6) (s : State) : Host.Outcome State Fault Refusal :=
  .next (if !s.bringMay then s else
    match s.pwr.bring with
    | none => s
    | some 2 => s.stewRestart
    | some 0 =>
      let s1 := s.strapSample straps.toNat
      if s1.flag F.SYSCTL_STRAP_TEST_EN then s1 else s1.bootRun true
    | some _ => s.bootRun false)

/-! The end of an L3 reset (R453, R463). -/

/-- The registers of an island. -/
def inL3 (i a : Nat) : Bool := (l3Islands i).any (fun x => inIsland x a)

/-- Release the hold of an L3 island, but where its domain is off. -/
def State.l3Release (s : State) (i : Nat) : State :=
  let off := fun (x : Nat) => [19, 20, 25, 26, 27, 28, 31].any (fun d => pdIsland d == some x && !bit s.pwr.pd d)
  { s with islHeld := (l3Islands i).foldl (fun m x => if off x then m else putBit m x false) s.islHeld }

/-- L3_RESET_END (R463): the island leaves reset, wakes held meanwhile act (R238), and the Steward configures it again. -/
def execL3ResetEnd (i : Fin 5) (s : State) : Host.Outcome State Fault Refusal :=
  .next (if tblFind s.pwr.l3 i.val ≠ some true then s else
    let s1 := (s.modPwr (fun p => { p with l3 := tblErase p.l3 i.val })).l3Release i
    let s2 := if s1.pwr.bring.isSome then s1 else (if i.val = 1 then s1.optMac else s1).loadSettings (inL3 i)
    s2.when (i.val == 0 && s2.islandUp 6) State.wakeChannels)

/-! The recovery loader (R466, R467). -/

/-- The firmware of a package that passes starts from shared SRAM: measured as placed, STEWARD runs in recovery (R421). -/
def State.loaderGo (s : State) : State :=
  let s1 := (s.enclMeasure 0x00800000).modUpd (fun u => { u with recov := 2 })
  (s1.setCore .steward { s1.core .steward with pc := 0x00810000#32 }).stewStart (s1.f F.SYSCTL_BOOTSTAT_OPTBAD != 0) false

/-- STAGE_APPLY_DONE (R413, R466): the apply of a complete package ends, or stops at its safe point (R48); in the recovery
loader its check ends. -/
def execStageApplyDone (s : State) : Host.Outcome State Fault Refusal :=
  .next (match s.upd.apply with
    | none => s
    | some k =>
      if s.upd.recov = 1 then s.loaderEnd State.loaderGo
      else if s.mustStop 0 then (s.modUpd (fun u => { u with apply := none })).failStopped k 0
      else s.stageApply k)

/-! The scrubber (R106). -/

/-- Every word in error of shared and retain SRAM is read once: correctable ones are corrected, the others recorded. -/
def State.scrub (s : State) : State :=
  let mine := s.ecc.filter (fun x => match memKind (4 * x.1) with | .sram | .retain => true | _ => false)
  mine.foldl (fun s x => if x.2 = 1 then s.eccCorrect x.1 else (s.eccRecord (4 * x.1) (eccStore (4 * x.1))).raise 65) s

/-- SCRUB_PASS (R106). -/
def execScrubPass (s : State) : Host.Outcome State Fault Refusal :=
  .next (if s.flag F.MEM_SCRUB_EN && s.islandUp 3 then s.scrub.raise 66 else s)

end Sys2Proof.Machine
end

