-- ==== Sys2Proof/Machine/Flags.lean ====
section
/-! DEFINITION. The flag computations of FK-32: N Z C V H of the integer instructions (R71), the conditions of branches (R76)
and the decimal flags (R79). -/
namespace Sys2Proof.Machine

/-- H[k] of an addition: carry out of bit 4k + 3 (R71). -/
def addHalf (a b ci k : Nat) : Bool := decide (2 ^ (4 * k + 4) ≤ a % 2 ^ (4 * k + 4) + b % 2 ^ (4 * k + 4) + ci)

/-- H[k] of a subtraction: borrow out of bit 4k + 3 (R71). -/
def subHalf (a b bi k : Nat) : Bool := decide (a % 2 ^ (4 * k + 4) < b % 2 ^ (4 * k + 4) + bi)

/-- The eight half-carries as PSR.H. -/
def hField (f : Nat → Bool) : Nat := (List.range 8).foldl (fun x k => x + b2n (f k) * 2 ^ k) 0

/-- N and Z of a result (R71). -/
def FkCore.setNZ (k : FkCore) (r : Word) : FkCore := (k.setPsr 0 0 (b2n r.msb)).setPsr 1 1 (b2n (r == 0#32))

/-- C, the carry or borrow. -/
def FkCore.setC (k : FkCore) (c : Bool) : FkCore := k.setPsr 2 2 (b2n c)

/-- V. -/
def FkCore.setV (k : FkCore) (v : Bool) : FkCore := k.setPsr 3 3 (b2n v)

/-- H. -/
def FkCore.setH (k : FkCore) (h : Nat) : FkCore := k.setPsr 11 4 h

/-- The signed result leaves the 32-bit range. -/
def sOver (i : Int) : Bool := decide (i < -2147483648) || decide (2147483647 < i)

/-- Result of an addition with carry in. -/
def addRes (a b : Word) (ci : Nat) : Word := toW (a.toNat + b.toNat + ci)

/-- Result of a subtraction with borrow in. -/
def subRes (a b : Word) (bi : Nat) : Word := toW (a.toNat + 2 ^ 33 - b.toNat - bi)

/-- N Z C V H of an addition (R71). -/
def FkCore.addFlags (k : FkCore) (a b : Word) (ci : Nat) : FkCore :=
  ((((k.setNZ (addRes a b ci)).setC (decide (2 ^ 32 ≤ a.toNat + b.toNat + ci))).setV
    (sOver (a.toInt + b.toInt + ci))).setH (hField (addHalf a.toNat b.toNat ci)))

/-- N Z C V H of a subtraction (R71). -/
def FkCore.subFlags (k : FkCore) (a b : Word) (bi : Nat) : FkCore :=
  ((((k.setNZ (subRes a b bi)).setC (decide (a.toNat < b.toNat + bi))).setV
    (sOver (a.toInt - b.toInt - bi))).setH (hField (subHalf a.toNat b.toNat bi)))

/-- Shift left by 0 to 63: result, and the last bit shifted out when the amount is not 0 (R71). -/
def shlRes (a : Word) (n : Nat) : Word × Option Bool :=
  (toW (a.toNat * 2 ^ n), if n = 0 then none else some (decide (n ≤ 32) && bit a.toNat (32 - n)))

/-- Logical shift right by 0 to 63 (R71). -/
def shrRes (a : Word) (n : Nat) : Word × Option Bool :=
  (toW (a.toNat / 2 ^ n), if n = 0 then none else some (bit a.toNat (n - 1)))

/-- Arithmetic shift right by 0 to 63: an amount of 32 or more gives copies of a[31], and C is then a[31] (R71). -/
def sarRes (a : Word) (n : Nat) : Word × Option Bool :=
  (BitVec.sshiftRight a n, if n = 0 then none else some (if n ≤ 32 then bit a.toNat (n - 1) else a.msb))

/-- Rotate right by 0 to 31 (R71). -/
def rorRes (a : Word) (n : Nat) : Word × Option Bool :=
  (a.rotateRight n, if n = 0 then none else some (bit a.toNat (n - 1)))

/-- N Z C of a shift or rotate: an amount of 0 leaves C (R71). -/
def FkCore.shiftFlags (k : FkCore) (r : Word × Option Bool) : FkCore :=
  match r.2 with
  | some c => (k.setNZ r.1).setC c
  | none => k.setNZ r.1

/-- The sixteen conditions of R76. -/
def FkCore.cond (k : FkCore) (c : Fin 16) : Bool :=
  let n := k.psrBits 0 0 == 1
  let z := k.psrBits 1 1 == 1
  let cy := k.psrBits 2 2 == 1
  let v := k.psrBits 3 3 == 1
  match c.val with
  | 0 => z
  | 1 => !z
  | 2 => cy
  | 3 => !cy
  | 4 => n
  | 5 => !n
  | 6 => v
  | 7 => !v
  | 8 => !cy && !z
  | 9 => cy || z
  | 10 => n == v
  | 11 => n != v
  | 12 => !z && n == v
  | 13 => z || n != v
  | 14 => k.ba
  | _ => !k.ba

/-- Flags of a decimal instruction (R79): N and H 0, Z, C, V, and DIS set when V is. -/
def FkCore.decFlags (k : FkCore) (zero c v : Bool) : FkCore :=
  let k1 := ((((k.setPsr 0 0 0).setPsr 1 1 (b2n zero)).setC c).setV v).setH 0
  if v then k1.setPsr 12 12 1 else k1

end Sys2Proof.Machine
end

