-- ==== Sys2Proof/Machine/Operands.lean ====
section
/-! DEFINITION. The operand forms of FK-32: immediates (R64), packed-decimal words (R78 to R80), effective addresses (R73),
branch targets (R76) and image bit addresses (R81). -/
namespace Sys2Proof.Machine

/-- A signed 16-bit immediate (R64). -/
def immS (i : BitVec 16) : Word := i.signExtend 32

/-- An unsigned 16-bit immediate (R64). -/
def immU (i : BitVec 16) : Word := i.zeroExtend 32

/-- Effective address of a load, store, timer or counter (R73, R86). -/
def FkCore.ea (k : FkCore) (ra : Fin 32) (i : BitVec 16) : Word := k.rd ra + immS i

/-- Branch target: PC + 4 × s(off26) (R76). -/
def FkCore.target (k : FkCore) (off : BitVec 26) : Word := k.pc + 4#32 * off.signExtend 32

/-- Digit `i` of a packed-decimal word. -/
def digit (a i : Nat) : Nat := a / 16 ^ i % 16

/-- Some digit of a word is above 9. -/
def badDigits (a : Nat) : Bool := (List.range 8).any (fun i => decide (9 < digit a i))

/-- Value of a packed-decimal word, digits above 9 taken as 9 (R79). -/
def decVal (a : Nat) : Nat := (List.range 8).foldl (fun x i => x + min 9 (digit a i) * 10 ^ i) 0

/-- The packed-decimal word of a value modulo 10^8. -/
def decPack (n : Nat) : Word := toW ((List.range 8).foldl (fun x i => x + n / 10 ^ i % 10 * 16 ^ i) 0)

/-- One digit of the decimal adjust (R80): the running sum and the carry out. -/
def dadjStep (h : Nat) (rc : Nat × Bool) (k : Nat) : Nat × Bool :=
  if bit h k || decide (9 < digit rc.1 k) then
    let r := rc.1 + 6 * 16 ^ k
    (r % 2 ^ 32, rc.2 || decide (2 ^ 32 ≤ r))
  else rc

/-- Decimal adjust of a binary sum with its C and H (R80). -/
def dadjRes (a : Nat) (c : Bool) (h : Nat) : Nat × Bool := (List.range 8).foldl (dadjStep h) (a, c)

/-- Packed digits shifted left by `n`: result, and whether a non-zero digit was lost (R78, R79). -/
def dshlRes (a n : Nat) : Nat × Bool := (a * 16 ^ n % 2 ^ 32, a * 16 ^ n / 2 ^ 32 != 0)

/-- Packed digits shifted right by `n`. -/
def dshrRes (a n : Nat) : Nat × Bool := (a / 16 ^ n, a % 16 ^ n != 0)

/-- Signed quotient rounded towards zero, 32 bits (R70, R72). -/
def sdivRes (a b : Word) : Word := BitVec.ofInt 32 (Int.tdiv a.toInt b.toInt)

/-- Signed remainder a − b × (a DIVS b) (R70, R72). -/
def sremRes (a b : Word) : Word := a - b * sdivRes a b

/-- Leading zero bits of a word, 0 to 32 (R70). -/
def clzRes (a : Word) : Nat :=
  match lastBelow 32 (fun i => bit a.toNat i) with
  | some i => 31 - i
  | none => 32

/-- STK of BITST. -/
def FkCore.stk (k : FkCore) : Nat := bits k.bitst.toNat 15 0

/-- DEPTH of BITST. -/
def FkCore.depth (k : FkCore) : Nat := bits k.bitst.toNat 20 16

/-- BITST with STK and DEPTH set. -/
def FkCore.setStk (k : FkCore) (st d : Nat) : FkCore :=
  { k with bitst := toW (putBits (putBits k.bitst.toNat 15 0 st) 20 16 d) }

/-- Push a bit: STK[DEPTH] := b, DEPTH + 1 (R62, R82). -/
def FkCore.push (k : FkCore) (b : Bool) : FkCore := k.setStk (putBit k.stk k.depth b) (k.depth + 1)

/-- The bit on top of the stack: STK[DEPTH − 1] (R62). -/
def FkCore.top (k : FkCore) : Bool := bit k.stk (k.depth - 1)

/-- Drop the top of the stack. -/
def FkCore.drop (k : FkCore) : FkCore := k.setStk k.stk (k.depth - 1)

end Sys2Proof.Machine
end

