-- ==== Sys2Proof/Machine/FkBase.lean ====
section
/-! DEFINITION. How a core executes one instruction: fetch, the instruction's effect, retirement with atomic block (R75), lockstep
injection (R98), breakpoints and watchpoints (R488, R489), synchronous exceptions (R91 to R94, R518). -/
namespace Sys2Proof.Machine

/-- A data access an instruction made, for the watchpoints of R489: address, bytes, write, data. -/
structure DataAcc where
  va : Nat
  len : Nat
  wr : Bool
  data : Nat
  deriving DecidableEq, Repr

/-- What an instruction's effect is: it completes with the PC that follows, the issue cycles it takes and its data accesses; it
raises a synchronous exception; it returns from one in a number of cycles, PSR and the PC restored (R93); or the debug port halts
the core in its place (R74 BRK). -/
inductive FkRes where
  | done (s : State) (pc : Word) (cyc : Nat) (acc : List DataAcc)
  | exc (s : State) (e : Exc)
  | ret (s : State) (cyc : Nat)
  | brk (s : State)

/-- An exception at the faulting instruction. -/
def excAt (vec sub : Nat) (a : Option Word) : Exc := ⟨vec, sub, a, false⟩

/-- The undefined-instruction exception (R65). -/
def excUndef : Exc := excAt 1 0 none

/-- The privilege-violation exception (R90). -/
def excPriv : Exc := excAt 2 0 none

/-! Halting (R488, R491). -/

/-- A Pan's cyclic state follows its core into HALTED (R491); it has left RUN, which a primary's heartbeats show (R184, R492). -/
def State.panHalt (s : State) (c : CoreId) : State :=
  match c.pan with
  | some p => if s.panMode p = 3 then (s.setF (F.RAKE_PAN_STATE_MODE p.num) 5).hsLeaves else s
  | none => s

/-- A core halts with a cause and an index (R488, R489, R496). A core that waits in WFE with no event
pending halts at that instruction, which has not completed. -/
def State.dbgHalt (s : State) (c : CoreId) (cause idx : Nat) : State :=
  let k := s.core c
  let s1 := s.setCore c { k with run := .halted, pc := if k.run = .waiting ∧ !s.issues c then k.pc - 4#32 else k.pc }
  let s2 := ((s1.setF (F.DBG_CORE_STAT_HALTED c.num) 1).setF (F.DBG_CORE_STAT_CAUSE c.num) cause).setF (F.DBG_CORE_STAT_INDEX c.num) idx
  let s3 := { s2.setFbit F.DBG_STAT_HALTED c.num true with dbg := { s2.dbg with haltAt := tblSet s2.dbg.haltAt c.num s.now } }
  (s3.panHalt c).raise (224 + c.num)

/-- The breakpoint that matches a core's PC (R489). -/
def State.dbgBp (s : State) (c : CoreId) : Option Nat :=
  let k := s.core c
  if s.flag (F.DBG_CORE_CTRL_ASIDEN c.num) && k.asid.toNat % 256 != s.f (F.DBG_CORE_CTRL_ASID c.num) then none else
  firstBelow 8 (fun j => s.flag (F.DBG_CORE_BP_EN c.num j) && s.f (F.DBG_CORE_BP_PC c.num j) == k.pc.toNat / 4)

/-- A watchpoint sees an access (R489, R497): its range overlaps, its KIND and, with VMATCH, its data match. -/
def State.wpSees (s : State) (c : CoreId) (j : Nat) (a : DataAcc) : Bool :=
  let m := 2 ^ s.f (F.DBG_CORE_WP_CFG_MASK c.num j)
  let lo := s.f (F.DBG_CORE_WP_ADDR_ADDR c.num j) / m * m
  s.flag (F.DBG_CORE_WP_CFG_EN c.num j) && bit (s.f (F.DBG_CORE_WP_CFG_KIND c.num j)) (if a.wr then 1 else 0) &&
  decide (a.va < lo + m) && decide (lo < a.va + a.len) &&
  (!s.flag (F.DBG_CORE_WP_CFG_VMATCH c.num j) || a.data == s.f (F.DBG_CORE_WP_VAL_VAL c.num))

/-- The watchpoint that an instruction's accesses meet. -/
def State.dbgWp (s : State) (c : CoreId) (acc : List DataAcc) : Option Nat := firstBelow 4 (fun j => acc.any (s.wpSees c j))

/-! Fetch. -/

/-- The word a core fetches at its PC (R107, R108, R464), or the exception of the fetch (R91, R103). The Steward's boot ROM is
fetched by that core alone, with the MMU off. -/
def State.fetch (s : State) (c : CoreId) : State × Except Exc Nat :=
  let k := s.core c
  let pc := k.pc.toNat
  if c = .steward ∧ 0xFFFF0000 ≤ pc ∧ !bit k.mctrl.toNat 0 then
    (s, .ok (leVal ((List.range 4).map (fun i => Config.bootRom (pc - 0xFFFF0000 + i)))))
  else match s.translate c pc .fetch with
    | (s1, .error e) => (s1, .error (excAt 3 e (some k.pc)))
    | (s1, .ok pa) =>
      match s1.memRead pa 4 with
      | (s2, .ok v) => (s2, .ok v)
      | (s2, .busErr) => ((s2.spend c s2.freeNat).useFree, .error (excAt 3 3 (some k.pc)))
      | (s2, .eccErr) => ((s2.spend c s2.freeNat).useFree, .error (excAt 10 1 (some k.pc)))

/-! Retirement. -/

/-- The issue time of an exception found at issue (R516): one cycle, none for SVC and BRK, whose time is the entry's. -/
def State.issueOne (s : State) (c : CoreId) (e : Exc) : State := if e.vec = 8 ∨ e.vec = 9 then s else s.spend c 1

/-- A synchronous exception of a core (R93, R94), and what PANRT does with one that R518 calls fatal. -/
def State.fkExc (s : State) (c : CoreId) (e : Exc) : State :=
  let s1 := s.syncExc c e
  match c.pan with
  | some p => if e.vec != 8 && (s1.core c).run != .xfault then s1.panFatal p else s1
  | none => s1

/-- The core clock and the atomic block after an instruction of `cyc` cycles that began with `n` instructions of the block left:
the deferral ends with the last of them, or 78 core cycles after AB issued (R75). -/
def FkCore.abStep (k : FkCore) (n cyc : Nat) : FkCore :=
  let k1 := k.spend cyc
  if n = 0 then k1 else k1.setPsr 23 20 (if k1.abAt + 78 ≤ k1.cyc then 0 else n - 1)

/-- An instruction has taken effect: the PC and the block advance; a watchpoint halts the core. -/
def State.fkRetire (s : State) (c : CoreId) (abn : Nat) (pc : Word) (cyc : Nat) (acc : List DataAcc) : State :=
  let s1 := s.setCore c { (s.core c).abStep abn cyc with pc := pc }
  let s2 := { s1 with dbg := { s1.dbg with skip := tblSet s1.dbg.skip c.num false } }
  match s2.dbgWp c acc with
  | some j => s2.dbgHalt c 4 j
  | none => s2

/-- An instruction retires, `s` before its effect and `s1` with it. An injected mismatch discards it unless LSCTRL.TEST is 1
(R97, R98); its UNIT is a free value. -/
def State.fkRetireIn (s s1 : State) (c : CoreId) (abn : Nat) (pc : Word) (cyc : Nat) (acc : List DataAcc) : State :=
  let k := s.core c
  match (if k.lsInj then c.pan else none) with
  | some p =>
    if k.lsTest then ((s1.fkRetire c abn pc cyc acc).useFree).lsMismatch p k.pc (s.freeNat % 7) true
    else s.useFree.lsMismatch p k.pc (s.freeNat % 7) true
  | none => s1.fkRetire c abn pc cyc acc

/-- Run an effect on a core that has fetched (R92, R98). An exception whose effect has spent no cycle of a walk or an access was
found at issue (R516). -/
def State.fkEffect (s : State) (c : CoreId) (body : State → FkRes) : State :=
  match body s with
  | .exc s1 e =>
    let s2 := { s1 with dbg := { s1.dbg with skip := tblSet s1.dbg.skip c.num false } }
    (if (s2.core c).cyc = (s.core c).cyc then s2.issueOne c e else s2).fkExc c e
  | .brk s1 => s1.dbgHalt c 5 0
  | .done s1 pc cyc acc => s.fkRetireIn s1 c (s.core c).abn pc cyc acc
  | .ret s1 cyc => s.fkRetireIn s1 c 0 (s1.core c).pc cyc []

/-- Fetch at the PC, then run the effect of the word fetched. -/
def State.fkFetch (s : State) (c : CoreId) (body : Nat → State → FkRes) : State :=
  match s.fetch c with
  | (s1, .error e) => s1.fkExc c e
  | (s1, .ok w) => s1.fkEffect c (body w)

/-- Core `c` executes the instruction at its PC: nothing while it does not issue (R74, R94, R97, R488); a matching breakpoint halts
it instead (R489); else fetch and effect. -/
def State.fkRun (s : State) (c : CoreId) (body : State → FkRes) : State :=
  if !s.issues c then s else
  let s1 := s.begins c
  match (if tblGet s1.dbg.skip c.num then none else s1.dbgBp c) with
  | some j => s1.dbgHalt c 3 j
  | none => s1.fkFetch c (fun _ => body)

/-- An instruction that changes the core alone, and goes on with the next one. -/
def fkPure (c : CoreId) (cyc : Nat) (f : FkCore → FkCore) (s : State) : FkRes :=
  .done (s.setCore c (f (s.core c))) ((s.core c).pc + 4#32) cyc []

/-- An instruction without a next state of its own form: an exception when `bad` holds. -/
def fkCheck (bad : Bool) (e : Exc) (f : State → FkRes) (s : State) : FkRes := if bad then .exc s e else f s

end Sys2Proof.Machine
end

