-- ==== Sys2Proof/Machine/FkInt.lean ====
section
/-! DEFINITION. Integer, decimal and immediate instructions and branches (R70 to R73, R76, R78 to R80). -/
namespace Sys2Proof.Machine

/-- Which flags an operation on two words leaves, and its result. -/
abbrev AluOp := FkCore → Word → Word → FkCore × Option Word

/-- Run an operation on W[ra] and W[rb]: flags, then W[rd] where it writes one. -/
def FkCore.alu (k : FkCore) (op : AluOp) (rd : Fin 32) (a b : Word) : FkCore :=
  match op k a b with
  | (k1, some r) => k1.wr rd r
  | (k1, none) => k1

/-- The effect of a register-register operation. -/
def fkAlu (c : CoreId) (cyc : Nat) (op : AluOp) (rd ra rb : Fin 32) : State → FkRes :=
  fkPure c cyc (fun k => k.alu op rd (k.rd ra) (k.rd rb))

/-- The effect of an operation with a constant second operand. -/
def fkAluI (c : CoreId) (cyc : Nat) (op : AluOp) (rd ra : Fin 32) (b : Word) : State → FkRes :=
  fkPure c cyc (fun k => k.alu op rd (k.rd ra) b)

def aluAdd : AluOp := fun k a b => (k.addFlags a b 0, some (addRes a b 0))
def aluAdc : AluOp := fun k a b => (k.addFlags a b k.cy, some (addRes a b k.cy))
def aluSub : AluOp := fun k a b => (k.subFlags a b 0, some (subRes a b 0))
def aluSbc : AluOp := fun k a b => (k.subFlags a b k.cy, some (subRes a b k.cy))
def aluCmp : AluOp := fun k a b => (k.subFlags a b 0, none)
def aluLogic (f : Word → Word → Word) : AluOp := fun k a b => (k.setNZ (f a b), some (f a b))
def aluShift (f : Word → Nat → Word × Option Bool) (m : Nat) : AluOp := fun k a b =>
  (k.shiftFlags (f a (b.toNat % m)), some (f a (b.toNat % m)).1)
def aluFree (f : Word → Word → Word) : AluOp := fun k a b => (k, some (f a b))

def mulhuRes (a b : Word) : Word := toW (a.toNat * b.toNat / 2 ^ 32)
def mulhsRes (a b : Word) : Word := BitVec.ofInt 32 (a.toInt * b.toInt / 2 ^ 32)
def minRes (a b : Word) : Word := if a.toInt ≤ b.toInt then a else b
def maxRes (a b : Word) : Word := if a.toInt ≤ b.toInt then b else a

/-- A division (R72): by zero it raises vector 7 and writes nothing. -/
def fkDiv (c : CoreId) (f : Word → Word → Word) (rd ra rb : Fin 32) (s : State) : FkRes :=
  if (s.core c).rd rb = 0#32 then .exc s (excAt 7 0 none) else fkAlu c 36 (aluFree f) rd ra rb s

/-- Decimal addition and subtraction (R79); `write` is false for DCMP. -/
def aluDec (add carry write : Bool) : AluOp := fun k a b =>
  let v := badDigits a.toNat || badDigits b.toNat
  let x := decVal a.toNat
  let y := decVal b.toNat
  let ci := if carry then k.cy else 0
  let t : Nat := if add then x + y + ci else x + 200000000 - y - ci
  let c := if add then decide (100000000 ≤ t) else decide (x < y + ci)
  let z := t % 100000000
  (k.decFlags (z == 0) c v, if write then some (decPack z) else none)

def aluDadj : AluOp := fun k a _ =>
  let r := dadjRes a.toNat (k.cy == 1) (k.psrBits 11 4)
  (k.decFlags (toW r.1 == 0#32) r.2 false, some (toW r.1))

/-- A digit shift by `n` digits (R79): V when a digit of the result is above 9. -/
def aluDsh (f : Nat → Nat → Nat × Bool) : AluOp := fun k a b =>
  let r := f a.toNat b.toNat
  (k.decFlags (toW r.1 == 0#32) r.2 (badDigits r.1), some (toW r.1))

def aluD2b : AluOp := fun k a _ => (k.decFlags (decVal a.toNat == 0) false (badDigits a.toNat), some (toW (decVal a.toNat)))

def aluB2d : AluOp := fun k a _ =>
  (k.decFlags (decPack (a.toNat % 100000000) == 0#32) (decide (100000000 ≤ a.toNat)) false, some (decPack (a.toNat % 100000000)))

/-! The effects by mnemonic. -/

def fkAdd (c : CoreId) (rd ra rb : Fin 32) := fkAlu c 1 aluAdd rd ra rb
def fkAdc (c : CoreId) (rd ra rb : Fin 32) := fkAlu c 1 aluAdc rd ra rb
def fkSub (c : CoreId) (rd ra rb : Fin 32) := fkAlu c 1 aluSub rd ra rb
def fkSbc (c : CoreId) (rd ra rb : Fin 32) := fkAlu c 1 aluSbc rd ra rb
def fkAnd (c : CoreId) (rd ra rb : Fin 32) := fkAlu c 1 (aluLogic (· &&& ·)) rd ra rb
def fkOr (c : CoreId) (rd ra rb : Fin 32) := fkAlu c 1 (aluLogic (· ||| ·)) rd ra rb
def fkXor (c : CoreId) (rd ra rb : Fin 32) := fkAlu c 1 (aluLogic (· ^^^ ·)) rd ra rb
def fkAndn (c : CoreId) (rd ra rb : Fin 32) := fkAlu c 1 (aluLogic (fun a b => a &&& ~~~b)) rd ra rb
def fkShl (c : CoreId) (rd ra rb : Fin 32) := fkAlu c 1 (aluShift shlRes 64) rd ra rb
def fkShr (c : CoreId) (rd ra rb : Fin 32) := fkAlu c 1 (aluShift shrRes 64) rd ra rb
def fkSar (c : CoreId) (rd ra rb : Fin 32) := fkAlu c 1 (aluShift sarRes 64) rd ra rb
def fkRor (c : CoreId) (rd ra rb : Fin 32) := fkAlu c 1 (aluShift rorRes 32) rd ra rb
def fkShli (c : CoreId) (rd ra n : Fin 32) := fkAluI c 1 (aluShift shlRes 64) rd ra (toW n.val)
def fkShri (c : CoreId) (rd ra n : Fin 32) := fkAluI c 1 (aluShift shrRes 64) rd ra (toW n.val)
def fkSari (c : CoreId) (rd ra n : Fin 32) := fkAluI c 1 (aluShift sarRes 64) rd ra (toW n.val)
def fkCmp (c : CoreId) (ra rb : Fin 32) := fkAlu c 1 aluCmp 0 ra rb
def fkMul (c : CoreId) (rd ra rb : Fin 32) := fkAlu c 1 (aluFree (· * ·)) rd ra rb
def fkMulhu (c : CoreId) (rd ra rb : Fin 32) := fkAlu c 1 (aluFree mulhuRes) rd ra rb
def fkMulhs (c : CoreId) (rd ra rb : Fin 32) := fkAlu c 1 (aluFree mulhsRes) rd ra rb
def fkDivu (c : CoreId) (rd ra rb : Fin 32) := fkDiv c (fun a b => toW (a.toNat / b.toNat)) rd ra rb
def fkDivs (c : CoreId) (rd ra rb : Fin 32) := fkDiv c sdivRes rd ra rb
def fkRemu (c : CoreId) (rd ra rb : Fin 32) := fkDiv c (fun a b => toW (a.toNat % b.toNat)) rd ra rb
def fkRems (c : CoreId) (rd ra rb : Fin 32) := fkDiv c sremRes rd ra rb
def fkMin (c : CoreId) (rd ra rb : Fin 32) := fkAlu c 1 (aluFree minRes) rd ra rb
def fkMax (c : CoreId) (rd ra rb : Fin 32) := fkAlu c 1 (aluFree maxRes) rd ra rb
def fkClz (c : CoreId) (rd ra : Fin 32) := fkAluI c 1 (aluFree (fun a _ => toW (clzRes a))) rd ra 0#32
def fkDadd (c : CoreId) (rd ra rb : Fin 32) := fkAlu c 1 (aluDec true false true) rd ra rb
def fkDaddc (c : CoreId) (rd ra rb : Fin 32) := fkAlu c 1 (aluDec true true true) rd ra rb
def fkDsub (c : CoreId) (rd ra rb : Fin 32) := fkAlu c 1 (aluDec false false true) rd ra rb
def fkDsubc (c : CoreId) (rd ra rb : Fin 32) := fkAlu c 1 (aluDec false true true) rd ra rb
def fkDcmp (c : CoreId) (ra rb : Fin 32) := fkAlu c 1 (aluDec false false false) 0 ra rb
def fkDadj (c : CoreId) (rd ra : Fin 32) := fkAluI c 1 aluDadj rd ra 0#32
def fkDshl (c : CoreId) (rd ra n : Fin 32) := fkAluI c 1 (aluDsh dshlRes) rd ra (toW n.val)
def fkDshr (c : CoreId) (rd ra n : Fin 32) := fkAluI c 1 (aluDsh dshrRes) rd ra (toW n.val)
def fkD2b (c : CoreId) (rd ra : Fin 32) := fkAluI c 4 aluD2b rd ra 0#32
def fkB2d (c : CoreId) (rd ra : Fin 32) := fkAluI c 6 aluB2d rd ra 0#32
def fkAddi (c : CoreId) (rd ra : Fin 32) (i : BitVec 16) := fkAluI c 1 (aluFree (· + ·)) rd ra (immS i)
def fkAndi (c : CoreId) (rd ra : Fin 32) (i : BitVec 16) := fkAluI c 1 (aluFree (· &&& ·)) rd ra (immU i)
def fkOri (c : CoreId) (rd ra : Fin 32) (i : BitVec 16) := fkAluI c 1 (aluFree (· ||| ·)) rd ra (immU i)
def fkXori (c : CoreId) (rd ra : Fin 32) (i : BitVec 16) := fkAluI c 1 (aluFree (· ^^^ ·)) rd ra (immU i)
def fkMovh (c : CoreId) (rd : Fin 32) (i : BitVec 16) := fkAluI c 1 (aluFree (fun _ b => b)) rd 0 (toW (i.toNat * 65536))
def fkCmpi (c : CoreId) (ra : Fin 32) (i : BitVec 16) := fkAluI c 1 aluCmp 0 ra (immS i)

/-- A jump to a register (R74): a target that is not a word address raises alignment at the jump; `link` is W[rd] of JALR.
The target is W[ra] as it stands before the link is written, also where rd = ra (DESIGN CHOICE, log 144). -/
def fkJump (c : CoreId) (ra : Fin 32) (link : Option (Fin 32)) (s : State) : FkRes :=
  let k := s.core c
  let t := k.rd ra
  if t.toNat % 4 ≠ 0 then .exc s (excAt 5 2 (some t)) else
  let k1 := match link with
    | some rd => k.wr rd (k.pc + 4#32)
    | none => k
  .done (s.setCore c k1) t 4 []

def fkJr (c : CoreId) (ra : Fin 32) := fkJump c ra none
def fkJalr (c : CoreId) (rd ra : Fin 32) := fkJump c ra (some rd)

/-- A branch (R76): 3 cycles when taken, 1 when not. -/
def fkBranch (c : CoreId) (taken link : Bool) (off : BitVec 26) (s : State) : FkRes :=
  let k := s.core c
  let k1 := if link then k.wr 30 (k.pc + 4#32) else k
  .done (s.setCore c k1) (if taken then k.target off else k.pc + 4#32) (if taken then 3 else 1) []

def fkB (c : CoreId) (off : BitVec 26) := fkBranch c true false off
def fkBl (c : CoreId) (off : BitVec 26) := fkBranch c true true off
def fkBcc (c : CoreId) (cond : Fin 16) (off : BitVec 26) (s : State) : FkRes := fkBranch c ((s.core c).cond cond) false off s

end Sys2Proof.Machine
end

