-- ==== Sys2Proof/Machine/FkMem.lean ====
section
/-! DEFINITION. Loads and stores (R69, R73), image bit instructions (R81 to R84), timers and counters (R85 to R88). -/
namespace Sys2Proof.Machine

/-- Initiator of a core's accesses at its privilege. -/
def State.whoCore (s : State) (c : CoreId) : Who := .core c (Fin.ofNat 3 (s.core c).pl)

/-- Core cycles an access to `pa` holds the core (R69, R21): tSRAM for shared SRAM, 1 for the core's own TCMs; elsewhere the spec
gives a range only, and it is a free value. -/
def State.accCyc (s : State) (c : CoreId) (pa : Nat) : State × Nat :=
  match memKind pa with
  | .sram => (s, 24)
  | .itcm p | .dtcm p => if c.pan = some p then (s, 1) else (s.useFree, s.freeNat)
  | _ => (s.useFree, s.freeNat)

/-- A core spends the time of an access that ends with an error (R516). -/
def State.accSpend (s : State) (c : CoreId) (pa : Nat) : State := (s.accCyc c pa).1.spend c (s.accCyc c pa).2

/-- A load of `n` bytes at W[ra] + imm (R73, R103): `ext` takes the value read to the word written. -/
def fkLoad (c : CoreId) (n : Nat) (ext : Nat → Word) (rd ra : Fin 32) (i : BitVec 16) (s : State) : FkRes :=
  let va := (s.core c).ea ra i
  if va.toNat % n ≠ 0 then .exc s (excAt 5 1 (some va)) else
  match s.translate c va.toNat .load with
  | (s1, .error e) => .exc s1 (excAt 4 e (some va))
  | (s1, .ok pa) =>
    match s1.busRead (s1.whoCore c) pa n with
    | (s2, .busErr) => .exc (s2.accSpend c pa) (excAt 4 3 (some va))
    | (s2, .eccErr) => .exc (s2.accSpend c pa) (excAt 10 2 (some va))
    | (s2, .ok v) =>
      let (s3, cyc) := s2.accCyc c pa
      .done (s3.setCore c ((s3.core c).wr rd (ext v))) ((s3.core c).pc + 4#32) cyc [⟨va.toNat, n, false, v⟩]

/-- A store of the low `n` bytes of W[rd] (R73): a bus error on it raises the core's bus-error event, not an exception. A Pan's
store passes its store buffers (R104). -/
def fkStore (c : CoreId) (n : Nat) (rd ra : Fin 32) (i : BitVec 16) (s : State) : FkRes :=
  let k := s.core c
  let va := k.ea ra i
  let v := (k.rd rd).toNat % 256 ^ n
  if va.toNat % n ≠ 0 then .exc s (excAt 5 1 (some va)) else
  match s.translate c va.toNat .store with
  | (s1, .error e) => .exc s1 (excAt 4 e (some va))
  | (s1, .ok pa) =>
    let s1 := match c.pan with | some p => s1.critRead (stbStore p) 4 | none => s1
    let s2 := s1.busWrite (s1.whoCore c) pa n v
    let cyc := if memKind pa = .sram then 24 else 1
    .done s2 (k.pc + 4#32) cyc [⟨va.toNat, n, true, v⟩]

def sext (w v : Nat) : Word := BitVec.ofInt 32 (sval w v)

def fkLdw (c : CoreId) (rd ra : Fin 32) (i : BitVec 16) := fkLoad c 4 toW rd ra i
def fkLdh (c : CoreId) (rd ra : Fin 32) (i : BitVec 16) := fkLoad c 2 toW rd ra i
def fkLdhs (c : CoreId) (rd ra : Fin 32) (i : BitVec 16) := fkLoad c 2 (sext 16) rd ra i
def fkLdb (c : CoreId) (rd ra : Fin 32) (i : BitVec 16) := fkLoad c 1 toW rd ra i
def fkLdbs (c : CoreId) (rd ra : Fin 32) (i : BitVec 16) := fkLoad c 1 (sext 8) rd ra i
def fkStw (c : CoreId) (rd ra : Fin 32) (i : BitVec 16) := fkStore c 4 rd ra i
def fkSth (c : CoreId) (rd ra : Fin 32) (i : BitVec 16) := fkStore c 2 rd ra i
def fkStb (c : CoreId) (rd ra : Fin 32) (i : BitVec 16) := fkStore c 1 rd ra i

/-! The process image (R81): byte `a / 8` of the core's own D-TCM. -/

/-- Address of the image byte of a bit address. -/
def imgByte (p : PanId) (a : Nat) : Nat := dtcmBase p + a / 8

/-- Application may not write the input images and the system status area (R81). -/
def imgProtected (a : Nat) : Bool := decide (a ≤ 0x0FFFFF) || decide (0x380000 ≤ a)

/-- Write one image bit. -/
def State.imgPut (s : State) (p : PanId) (a : Nat) (b : Bool) : State :=
  let q := imgByte p a
  (s.memWrite q 1 (putBit (s.mget (s.place q) 1) (a % 8) b)).getD s

/-- Read IMG[a] and go on with the bit, and the access made; an uncorrectable error raises vector 10 (R103). -/
def imgRead (p : PanId) (a : Nat) (s : State) (f : State → Bool → DataAcc → FkRes) : FkRes :=
  match s.memRead (imgByte p a) 1 with
  | (s1, .ok v) => f s1 (bit v (a % 8)) ⟨imgByte p a, 1, false, v⟩
  | (s1, .eccErr) => .exc s1 (excAt 10 2 (some (toW (imgByte p a))))
  | (s1, .busErr) => .exc s1 (excAt 4 3 (some (toW (imgByte p a))))

/-- Only a Pan has image, timer and counter instructions (R61). -/
def fkPan (c : CoreId) (f : PanId → State → FkRes) (s : State) : FkRes :=
  match c.pan with
  | some p => f p s
  | none => .exc s excUndef

/-- The core with BA changed, one instruction on. -/
def fkSetBa (c : CoreId) (b : Bool) (cyc : Nat) (acc : List DataAcc) (s : State) : FkRes :=
  let k := s.core c
  .done (s.setCore c (k.setBa b)) (k.pc + 4#32) cyc acc

/-- BA := f BA IMG[a] (R82). -/
def fkImg (c : CoreId) (f : Bool → Bool → Bool) (addr : BitVec 22) : State → FkRes := fkPan c (fun p s =>
  imgRead p addr.toNat s (fun s1 b acc => fkSetBa c (f (s1.core c).ba b) 1 [acc] s1))

/-- The write check of R81. XADDR of an image fault (sub-causes 4 and 5, and vector 10) holds the D-TCM address of the image byte, for
R91 says only "the faulting address" (DESIGN CHOICE, log 145). -/
def fkImgWr (c : CoreId) (addr : BitVec 22) (f : PanId → State → FkRes) : State → FkRes := fkPan c (fun p s =>
  if (s.core c).pl == 0 && imgProtected addr.toNat then .exc s (excAt 4 4 (some (toW (imgByte p addr.toNat)))) else f p s)

/-- ST, SET and CLR (R82): write `v` when `go` holds of BA. The byte is read to be merged, inside the memory (R101). -/
def fkImgSt (c : CoreId) (go v : Bool → Bool) (addr : BitVec 22) : State → FkRes := fkImgWr c addr (fun p s =>
  let k := s.core c
  if go k.ba then
    imgRead p addr.toNat s (fun s1 _ acc =>
      let s2 := s1.imgPut p addr.toNat (v k.ba)
      .done s2 (k.pc + 4#32) 1 [{ acc with wr := true, data := s2.mget (s2.place acc.va) 1 }])
  else .done s (k.pc + 4#32) 1 [])

/-- RE and FE (R82, R83): the bit against the same bit of the previous input image. -/
def fkImgEdge (c : CoreId) (f : Bool → Bool → Bool) (addr : BitVec 22) : State → FkRes := fkPan c (fun p s =>
  if 0x80000 ≤ addr.toNat then .exc s (excAt 4 5 (some (toW (imgByte p addr.toNat)))) else
  imgRead p addr.toNat s (fun s1 b acc =>
    imgRead p (addr.toNat + 0x80000) s1 (fun s2 b0 acc0 => fkSetBa c (f b b0) 1 [acc, acc0] s2)))

/-- REM and FEM (R82): BA from BA and the edge-memory bit, the bit takes the old BA. -/
def fkImgMem (c : CoreId) (f : Bool → Bool → Bool) (addr : BitVec 22) : State → FkRes := fkImgWr c addr (fun p s =>
  imgRead p addr.toNat s (fun s1 b acc =>
    let old := (s1.core c).ba
    let s2 := s1.imgPut p addr.toNat old
    fkSetBa c (f old b) 2 [acc, { acc with wr := true, data := s2.mget (s2.place acc.va) 1 }] s2))

def fkLd (c : CoreId) (a : BitVec 22) := fkImg c (fun _ b => b) a
def fkLdn (c : CoreId) (a : BitVec 22) := fkImg c (fun _ b => !b) a
def fkImgAnd (c : CoreId) (a : BitVec 22) := fkImg c (fun x b => x && b) a
def fkImgAndn (c : CoreId) (a : BitVec 22) := fkImg c (fun x b => x && !b) a
def fkImgOr (c : CoreId) (a : BitVec 22) := fkImg c (fun x b => x || b) a
def fkOrn (c : CoreId) (a : BitVec 22) := fkImg c (fun x b => x || !b) a
def fkImgXor (c : CoreId) (a : BitVec 22) := fkImg c (fun x b => x != b) a
def fkSt (c : CoreId) (a : BitVec 22) := fkImgSt c (fun _ => true) (fun x => x) a
def fkSet (c : CoreId) (a : BitVec 22) := fkImgSt c (fun x => x) (fun _ => true) a
def fkClr (c : CoreId) (a : BitVec 22) := fkImgSt c (fun x => x) (fun _ => false) a
def fkRe (c : CoreId) (a : BitVec 22) := fkImgEdge c (fun b b0 => b && !b0) a
def fkFe (c : CoreId) (a : BitVec 22) := fkImgEdge c (fun b b0 => !b && b0) a
def fkRem (c : CoreId) (a : BitVec 22) := fkImgMem c (fun x b => x && !b) a
def fkFem (c : CoreId) (a : BitVec 22) := fkImgMem c (fun x b => !x && b) a

/-- PUSH (R82, R84). -/
def fkPush (c : CoreId) : State → FkRes := fkPan c (fun _ s =>
  if 16 ≤ (s.core c).depth then .exc s (excAt 6 1 none) else fkPure c 1 (fun k => k.push k.ba) s)

/-- A pop combined into BA (R82, R84). -/
def fkPop (c : CoreId) (f : Bool → Bool → Bool) : State → FkRes := fkPan c (fun _ s =>
  if (s.core c).depth = 0 then .exc s (excAt 6 2 none) else fkPure c 1 (fun k => k.drop.setBa (f k.top k.ba)) s)

def fkPopa (c : CoreId) := fkPop c (fun t x => t && x)
def fkPopo (c : CoreId) := fkPop c (fun t x => t || x)
def fkPopx (c : CoreId) := fkPop c (fun t x => t != x)

/-- NOT (R82). -/
def fkNot (c : CoreId) : State → FkRes := fkPan c (fun _ s => fkPure c 1 (fun k => k.setBa (!k.ba)) s)

/-! Timers and counters (R86 to R88). -/

/-- A timer record in its fields. -/
structure TmrRec where
  start : Nat
  pt : Nat
  inLast : Bool
  q : Bool
  run : Bool
  seen : Bool
  done : Bool
  deriving DecidableEq, Repr

/-- Elapsed time since START, never below 0 (R87). -/
def tmrEl (t start : Nat) : Nat := (max 0 (sval 64 ((t + 2 ^ 64 - start) % 2 ^ 64))).toNat

/-- TON (R87): the record after it and ET in µs; `pt` in µs. -/
def tonStep (t pt : Nat) (i : Bool) (r : TmrRec) : TmrRec × Nat :=
  if i then
    let r1 := if r.inLast then r else { r with start := t }
    let el := tmrEl t r1.start
    ({ r1 with q := decide (pt ≤ el) }, min el pt)
  else ({ r with q := false }, 0)

/-- TOF (R87). -/
def tofStep (t pt : Nat) (i : Bool) (r : TmrRec) : TmrRec × Nat :=
  if i then ({ r with q := true, seen := true }, 0)
  else
    let r1 := if r.inLast then { r with start := t } else r
    let el := tmrEl t r1.start
    if r1.seen then ({ r1 with q := decide (el < pt) }, min el pt) else ({ r1 with q := false }, 0)

/-- TP (R87). -/
def tpStep (t pt : Nat) (i : Bool) (r : TmrRec) : TmrRec × Nat :=
  let r1 := if !r.run && !r.done && i && !r.inLast then { r with start := t, run := true } else r
  let el := tmrEl t r1.start
  let r2 := if r1.run && decide (pt ≤ el) then { r1 with run := false, done := true } else r1
  let r3 := { r2 with q := r2.run }
  if r3.run then (r3, el) else if r3.done && i then (r3, pt) else ({ r3 with done := false }, 0)

/-- Read a timer record's 16 bytes. -/
def readTmr (b : List Byte) : TmrRec :=
  let f := leAt b 13 1
  ⟨leAt b 0 8, leAt b 8 4, bit f 0, bit f 1, bit f 2, bit f 3, bit f 4⟩

/-- The FLAGS byte of a timer record. -/
def TmrRec.flags (r : TmrRec) : Nat := b2n r.inLast + 2 * b2n r.q + 4 * b2n r.run + 8 * b2n r.seen + 16 * b2n r.done

/-- µs in one unit of a UNIT code (R86). -/
def tmrUnit (u : Nat) : Nat := if u = 0 then 1 else if u = 1 then 1000 else 1000000

/-- Read `n` bytes of a record from offset `o`, an uncorrectable error in them raising vector 10 (R92, R103); its reserved bytes
are not read (R86). -/
def recRead (va : Word) (pa o n : Nat) (f : State → List Byte → FkRes) (s : State) : FkRes :=
  match s.memRead (pa + o) n with
  | (s1, .ok _) => f s1 (s1.mbytes (s1.place (pa + o)) n)
  | (s1, .eccErr) => .exc s1 (excAt 10 2 (some va))
  | (s1, .busErr) => .exc s1 (excAt 4 3 (some va))

/-- Reach a record at W[ra] + imm (R86, R92): alignment, translation, placement in the core's own D-TCM. -/
def fkRecord (c : CoreId) (ra : Fin 32) (i : BitVec 16) (f : State → Nat → Word → FkRes) : State → FkRes := fkPan c (fun p s =>
  let va := (s.core c).ea ra i
  if va.toNat % 16 ≠ 0 then .exc s (excAt 5 3 (some va)) else
  match s.translate c va.toNat .store with
  | (s1, .error e) => .exc s1 (excAt 4 e (some va))
  | (s1, .ok pa) =>
    if memKind pa ≠ .dtcm p then .exc s1 (excAt 4 6 (some va)) else f s1 pa va)

/-- The timer instructions (R86, R87). The word that holds UNIT is read first: a code that R86 does not give is a data-access fault,
which R92 ranks before an error in the rest. -/
def fkTimer (c : CoreId) (step : Nat → Nat → Bool → TmrRec → TmrRec × Nat) (rd ra : Fin 32) (i : BitVec 16) : State → FkRes :=
  fkRecord c ra i (fun s pa va => recRead va pa 12 2 (fun s b =>
    let u := leAt b 0 1
    if 2 < u then .exc s (excAt 4 7 (some va)) else
    recRead va pa 0 14 (fun s b =>
    let k := s.core c
    let sc := tmrUnit u
    let r0 := readTmr b
    let (r1, et) := step (k.tnow % 2 ^ 64) (r0.pt * sc) k.ba r0
    let r := { r1 with inLast := k.ba }
    let s1 := (s.memWrite pa 8 r.start).getD s
    let s2 := (s1.memWrite (pa + 13) 1 r.flags).getD s1
    .done (s2.setCore c ((k.wr rd (toW (et / sc))).setBa r.q)) (k.pc + 4#32) 8
      [⟨va.toNat, 14, false, leVal b⟩, ⟨va.toNat, 8, true, r.start⟩, ⟨va.toNat + 13, 1, true, r.flags⟩]) s) s)

def fkTon (c : CoreId) (rd ra : Fin 32) (i : BitVec 16) := fkTimer c tonStep rd ra i
def fkTof (c : CoreId) (rd ra : Fin 32) (i : BitVec 16) := fkTimer c tofStep rd ra i
def fkTp (c : CoreId) (rd ra : Fin 32) (i : BitVec 16) := fkTimer c tpStep rd ra i

/-- CTU (R88): CV from the reset input, the count input, its last value, CV and PV. -/
def ctuStep (r i last : Bool) (cv _pv : Int) : Int := if r then 0 else if i && !last && decide (cv < 2147483647) then cv + 1 else cv

/-- CTD (R88). -/
def ctdStep (ld i last : Bool) (cv pv : Int) : Int :=
  if ld then pv else if i && !last && decide (-2147483648 < cv) then cv - 1 else cv

/-- The counter instructions (R84, R86, R88). -/
def fkCounter (c : CoreId) (step : Bool → Bool → Bool → Int → Int → Int) (q : Int → Int → Bool) (rd ra : Fin 32) (i : BitVec 16) :
    State → FkRes :=
  fkRecord c ra i (fun s pa va => recRead va pa 0 9 (fun s b =>
    let k := s.core c
    if k.depth = 0 then .exc s (excAt 6 2 none) else
    let pv := sval 32 (leAt b 4 4)
    let cv := step k.top k.ba (bit (leAt b 8 1) 0) (sval 32 (leAt b 0 4)) pv
    let o := q cv pv
    let w := BitVec.ofInt 32 cv
    let fl := b2n k.ba + 2 * b2n o
    let s1 := (s.memWrite pa 4 w.toNat).getD s
    let s2 := (s1.memWrite (pa + 8) 1 fl).getD s1
    .done (s2.setCore c ((k.drop.wr rd w).setBa o)) (k.pc + 4#32) 6
      [⟨va.toNat, 9, false, leVal b⟩, ⟨va.toNat, 4, true, w.toNat⟩, ⟨va.toNat + 8, 1, true, fl⟩]) s)

def fkCtu (c : CoreId) (rd ra : Fin 32) (i : BitVec 16) := fkCounter c ctuStep (fun cv pv => decide (pv ≤ cv)) rd ra i
def fkCtd (c : CoreId) (rd ra : Fin 32) (i : BitVec 16) := fkCounter c ctdStep (fun cv _ => decide (cv ≤ 0)) rd ra i

end Sys2Proof.Machine
end

