-- ==== Sys2Proof/Machine/FkSys.lean ====
section
/-! DEFINITION. System instructions and special registers (R62, R63, R73 to R75, R90, R99). -/
namespace Sys2Proof.Machine

/-- Lowest privilege level of a special register (R62, R99). -/
def srLevel (n : Nat) : Nat := if n ≤ 1 then 0 else if n ≤ 6 then 1 else if n = 7 then 2 else if n < 16 then 0 else 2

/-- The cycle time a core reads, in µs (R61, R62, R85). -/
def State.tnowOf (s : State) (c : CoreId) : Nat := if c = .steward then s.dtime / 1000 else (s.core c).tnow

/-- The word of a special register (R62, R99). -/
def State.srRead (s : State) (c : CoreId) (n : Nat) : Word :=
  let k := s.core c
  let pan := c != .steward
  match n with
  | 0 => k.psr
  | 1 => k.bitst
  | 2 => k.xpc
  | 3 => k.xpsr
  | 4 => k.xbit
  | 5 => k.xcause
  | 6 => k.xaddr
  | 7 => k.xvb
  | 8 => toW (s.tnowOf c)
  | 9 => toW (s.tnowOf c / 2 ^ 32)
  | 10 => toW (k.cycles c s.now)
  | 11 => toW c.num
  | 16 => k.mctrl
  | 17 => k.asid
  | 18 => k.ttb
  | 20 => toW (k.locked + 128 * b2n k.lockFail)
  | 21 => if pan then toW (2 * b2n k.lsTest) else 0#32
  | 22 => if pan then k.lsrec0 else 0#32
  | 23 => if pan then k.lsrec1 else 0#32
  | _ => 0#32

/-- MFS (R62, R74). -/
def fkMfs (c : CoreId) (rd sr : Fin 32) (s : State) : FkRes :=
  let k := s.core c
  if k.pl < srLevel sr then .exc s excPriv else
  .done (s.setCore c (k.wr rd (s.srRead c sr))) (k.pc + 4#32) 1 []

/-- A write of PSR at a privilege level (R63): the fields the level may change; a PL the level may not write, or 0b11, leaves PL. -/
def FkCore.psrWrite (k : FkCore) (lvl v : Nat) : FkCore :=
  let k1 := k.setPsr 12 0 (bits v 12 0)
  if lvl = 0 then k1 else
  let k2 := k1.setPsr 19 18 (bits v 19 18)
  if bits v 17 16 ≤ (if lvl = 2 then 2 else 1) then k2.setPsr 17 16 (bits v 17 16) else k2

/-- A special register is written at a privilege level (R62, R99); RO and reserved ones ignore it. -/
def State.srWrite (s : State) (c : CoreId) (lvl n : Nat) (w : Word) : State :=
  let k := s.core c
  let v := w.toNat
  let put (k : FkCore) : State := s.setCore c k
  match n with
  | 0 => put (k.psrWrite lvl v)
  | 1 => put { k with bitst := normBitst w }
  | 2 => put { k with xpc := w }
  | 3 => put { k with xpsr := w }
  | 4 => put { k with xbit := w }
  | 7 => put { k with xvb := toW (v / 256 * 256) }
  | 16 => put { k with mctrl := toW (v % 4) }
  | 17 => put { k with asid := toW (v % 256) }
  | 18 => put { k with ttb := toW (v / 0x4000 * 0x4000) }
  | 19 => s.tlbOp c v
  | 21 => if c = .steward then s else put { k with lsTest := bit v 1, lsInj := k.lsInj || bit v 0 }
  | _ => s

/-- MTS (R62, R74). -/
def fkMts (c : CoreId) (sr ra : Fin 32) (s : State) : FkRes :=
  let k := s.core c
  if k.pl < srLevel sr then .exc s excPriv else .done (s.srWrite c k.pl sr (k.rd ra)) (k.pc + 4#32) 1 []

/-- ERET (R90, R93). -/
def fkEret (c : CoreId) (s : State) : FkRes :=
  let k := s.core c
  if k.pl = 0 ∨ (k.pl = 1 ∧ bits k.xpsr.toNat 17 16 = 2) then .exc s excPriv
  else .ret (s.eret c) 4

/-- FENCE (R74): every posted store of the core has completed by the time its instruction has. -/
def fkFence (c : CoreId) : State → FkRes := fkPure c 1 id

/-- WFE (R74, R90): stop issuing until an event is pending. -/
def fkWfe (c : CoreId) (s : State) : FkRes :=
  if (s.core c).pl = 0 then .exc s excPriv else fkPure c 1 (fun k => { k with run := .waiting }) s

/-- BRK (R74, R489). -/
def fkBrk (c : CoreId) (s : State) : FkRes :=
  if s.flag (F.DBG_CORE_CTRL_BRKHALT c.num) then .brk s else .exc s (excAt 9 0 none)

/-- BTW (R74). -/
def fkBtw (c : CoreId) (rd : Fin 32) : State → FkRes := fkPure c 1 (fun k => k.wr rd (toW (b2n k.ba)))

/-- WTB (R74). -/
def fkWtb (c : CoreId) (ra : Fin 32) : State → FkRes := fkPure c 1 (fun k => k.setBa (k.rd ra != 0#32))

/-- AB (R75): inside a block a no-op; n = 0 or above 15 is undefined. -/
def fkAb (c : CoreId) (n : BitVec 16) (s : State) : FkRes :=
  if n.toNat = 0 ∨ 15 < n.toNat then .exc s excUndef
  else fkPure c 1 (fun k => if k.abn = 0 then { k.setPsr 23 20 n.toNat with abAt := k.cyc } else k) s

/-- SVC (R73, R91). -/
def fkSvc (_c : CoreId) (imm : BitVec 16) (s : State) : FkRes := .exc s ⟨8, 0, some (immU imm), true⟩

/-- An event may be taken (R75, R77): PSR.IE = 1, PSR.XA = 0, no atomic block in force; its priority level. -/
def State.eventMay (s : State) (c : CoreId) : Option Nat :=
  let k := (s.core c).sync c s.now
  if (k.run = .running ∨ k.run = .waiting) ∧ k.psrBits 18 18 = 1 ∧ k.psrBits 19 19 = 0 ∧ k.abn = 0 then (s.coreEvent c).map (·.1) else none

/-- An event is taken (R77, R93, R127, R128). -/
def State.eventTaken (s : State) (c : CoreId) : State :=
  match s.eventMay c with
  | some p => (s.begins c).enterExc c ⟨11, p, none, false⟩
  | none => s

end Sys2Proof.Machine
end

