-- ==== Sys2Proof/Machine/FkWord.lean ====
section
/-! DEFINITION. The instruction words of FK-32: what effect a word spells (R64 to R66, R70, R73, R74, R76, R78, R82). `none`: the
word raises the undefined-instruction exception (R65). A step of the debug port executes the word it fetches by it (R488). -/
namespace Sys2Proof.Machine

/-- A five-bit field of an instruction word. -/
def wFld (w lo : Nat) : Fin 32 := Fin.ofNat 32 (w / 2 ^ lo)

/-- A form that only words with `ok` spell. -/
def wIf (ok : Bool) (f : State → FkRes) : Option (State → FkRes) := if ok then some f else none

/-- Major 0x00, the integer instructions (R70). -/
def wInt (c : CoreId) (w : Nat) : Option (State → FkRes) :=
  let d := wFld w 21
  let a := wFld w 16
  let b := wFld w 11
  match bits w 10 0 with
  | 0x00 => some (fkAdd c d a b)
  | 0x01 => some (fkAdc c d a b)
  | 0x02 => some (fkSub c d a b)
  | 0x03 => some (fkSbc c d a b)
  | 0x04 => some (fkAnd c d a b)
  | 0x05 => some (fkOr c d a b)
  | 0x06 => some (fkXor c d a b)
  | 0x07 => some (fkAndn c d a b)
  | 0x08 => some (fkShl c d a b)
  | 0x09 => some (fkShr c d a b)
  | 0x0A => some (fkSar c d a b)
  | 0x0B => some (fkRor c d a b)
  | 0x0C => some (fkShli c d a b)
  | 0x0D => some (fkShri c d a b)
  | 0x0E => some (fkSari c d a b)
  | 0x0F => wIf (d == 0) (fkCmp c a b)
  | 0x10 => some (fkMul c d a b)
  | 0x11 => some (fkMulhu c d a b)
  | 0x12 => some (fkMulhs c d a b)
  | 0x13 => some (fkDivu c d a b)
  | 0x14 => some (fkDivs c d a b)
  | 0x15 => some (fkRemu c d a b)
  | 0x16 => some (fkRems c d a b)
  | 0x17 => some (fkMin c d a b)
  | 0x18 => some (fkMax c d a b)
  | 0x19 => some (fkClz c d a)
  | _ => none

/-- Major 0x01, the decimal instructions (R78). -/
def wDec (c : CoreId) (w : Nat) : Option (State → FkRes) :=
  let d := wFld w 21
  let a := wFld w 16
  let b := wFld w 11
  match bits w 10 0 with
  | 0 => some (fkDadd c d a b)
  | 1 => some (fkDaddc c d a b)
  | 2 => some (fkDsub c d a b)
  | 3 => some (fkDsubc c d a b)
  | 4 => some (fkDadj c d a)
  | 5 => wIf (d == 0) (fkDcmp c a b)
  | 6 => some (fkDshl c d a b)
  | 7 => some (fkDshr c d a b)
  | 8 => some (fkD2b c d a)
  | 9 => some (fkB2d c d a)
  | _ => none

/-- Major 0x02, the system instructions (R74). -/
def wSys (c : CoreId) (w : Nat) : Option (State → FkRes) :=
  let d := wFld w 21
  let a := wFld w 16
  match bits w 10 0 with
  | 0 => wIf (d == 0 && wFld w 11 == 0) (fkJr c a)
  | 1 => some (fkJalr c d a)
  | 2 => some (fkMfs c d a)
  | 3 => some (fkMts c d a)
  | 4 => some (fkEret c)
  | 5 => some (fkFence c)
  | 6 => some (fkWfe c)
  | 7 => some (fkBrk c)
  | 8 => some (fkBtw c d)
  | 9 => some (fkWtb c a)
  | _ => none

/-- Major 0x30, the image bit operations (R82). -/
def wImg (c : CoreId) (w : Nat) : Option (State → FkRes) :=
  let x := BitVec.ofNat 22 w
  match bits w 25 22 with
  | 0 => some (fkLd c x)
  | 1 => some (fkLdn c x)
  | 2 => some (fkImgAnd c x)
  | 3 => some (fkImgAndn c x)
  | 4 => some (fkImgOr c x)
  | 5 => some (fkOrn c x)
  | 6 => some (fkImgXor c x)
  | 7 => some (fkSt c x)
  | 8 => some (fkSet c x)
  | 9 => some (fkClr c x)
  | 10 => some (fkRe c x)
  | 11 => some (fkFe c x)
  | _ => none

/-- Major 0x31, edge memory and bit stack (R82). -/
def wStk (c : CoreId) (w : Nat) : Option (State → FkRes) :=
  let x := BitVec.ofNat 22 w
  match bits w 25 22 with
  | 0 => some (fkRem c x)
  | 1 => some (fkFem c x)
  | 2 => wIf (x == 0) (fkPush c)
  | 3 => wIf (x == 0) (fkPopa c)
  | 4 => wIf (x == 0) (fkPopo c)
  | 5 => wIf (x == 0) (fkPopx c)
  | 6 => wIf (x == 0) (fkNot c)
  | _ => none

/-- The majors with an immediate, and branches (R66, R73, R76). -/
def wImm (c : CoreId) (w : Nat) : Option (State → FkRes) :=
  let d := wFld w 21
  let a := wFld w 16
  let i := BitVec.ofNat 16 w
  let o := BitVec.ofNat 26 w
  match bits w 31 26 with
  | 0x03 => wIf (d == 0 && a == 0 && decide (0 < i.toNat) && decide (i.toNat < 16)) (fkAb c i)
  | 0x04 => some (fkAddi c d a i)
  | 0x05 => some (fkAndi c d a i)
  | 0x06 => some (fkOri c d a i)
  | 0x07 => some (fkXori c d a i)
  | 0x08 => wIf (a == 0) (fkMovh c d i)
  | 0x09 => wIf (d == 0) (fkCmpi c a i)
  | 0x0A => wIf (d == 0 && a == 0) (fkSvc c i)
  | 0x0B => some (fkLdw c d a i)
  | 0x0C => some (fkLdh c d a i)
  | 0x0D => some (fkLdhs c d a i)
  | 0x0E => some (fkLdb c d a i)
  | 0x0F => some (fkLdbs c d a i)
  | 0x10 => some (fkStw c d a i)
  | 0x11 => some (fkSth c d a i)
  | 0x12 => some (fkStb c d a i)
  | 0x13 => some (fkTon c d a i)
  | 0x14 => some (fkTof c d a i)
  | 0x15 => some (fkTp c d a i)
  | 0x16 => some (fkCtu c d a i)
  | 0x17 => some (fkCtd c d a i)
  | 0x18 => some (fkB c o)
  | 0x19 => some (fkBl c o)
  | m => if 0x1A ≤ m ∧ m ≤ 0x29 then some (fkBcc c (Fin.ofNat 16 (m - 0x1A)) o) else none

/-- The majors that only a Pan executes (R60): timers, counters and image instructions. -/
def wPanOnly (m : Nat) : Bool := (decide (0x13 ≤ m) && decide (m ≤ 0x17)) || m == 0x30 || m == 0x31

/-- The effect that an instruction word has on core `c`, `none` where R65 calls it undefined. -/
def fkWord (c : CoreId) (w : Nat) : Option (State → FkRes) :=
  let m := bits w 31 26
  if c == .steward && wPanOnly m then none
  else if m = 0 then wInt c w
  else if m = 1 then wDec c w
  else if m = 2 then wSys c w
  else if m = 0x30 then wImg c w
  else if m = 0x31 then wStk c w
  else wImm c w

/-- What the core does with the word it fetched: its effect, or the undefined-instruction exception. -/
def fkDecoded (c : CoreId) (w : Nat) (s : State) : FkRes :=
  match fkWord c w with
  | some f => f s
  | none => .exc s excUndef

/-- An undefined word is executed (R65): nothing when the word is one of R66. -/
def State.fkUndefined (s : State) (c : CoreId) (w : Word) : State :=
  match fkWord c w.toNat with
  | some _ => s
  | none => s.fkRun c (fun t => .exc t excUndef)

end Sys2Proof.Machine
end

