-- ==== Sys2Proof/Machine/Dbg.lean ====
section
/-! DEFINITION. The debug port and boundary scan (R486 to R497). An access completes within its transaction, so no WAIT is
answered and DBG_MEM_CTRL.BUSY reads 0. -/
namespace Sys2Proof.Machine

/-! Halting and stepping (R488, R491). -/

/-- The time since a core halted counts for nothing in its Pan's logic phase (R491). -/
def State.haltGap (s : State) (c : CoreId) : State :=
  match c.pan with
  | some p => s.modPan p (fun x => { x with halted := x.halted + (s.now - tblGet s.dbg.haltAt c.num) })
  | none => s

/-- HALT (R488): a core that issues, or waits, halts. -/
def State.dbgHaltReq (s : State) (c : CoreId) : State :=
  match (s.core c).run with
  | .running | .waiting => s.dbgHalt c 1 0
  | _ => s

/-- The core is no longer halted: its Pan is in RUN again (R488, R491). -/
def State.dbgGo (s : State) (c : CoreId) : State :=
  let s1 := ((s.haltGap c).setCore c { s.core c with run := .running }).setFbit F.DBG_STAT_HALTED c.num false
  let s2 := s1.setReg (A.DBG_CORE_STAT c.num) 0#32
  let s3 := { s2 with dbg := { s2.dbg with skip := tblSet s2.dbg.skip c.num true } }
  match c.pan with
  | some p => if s3.panMode p = 5 then s3.setF (F.RAKE_PAN_STATE_MODE p.num) 3 else s3
  | none => s3

/-- RESUME (R488). -/
def State.dbgResume (s : State) (c : CoreId) : State := if (s.core c).run = .halted then s.dbgGo c else s

/-- What STEP runs (R488): with STEPIRQ an event that may be taken is taken; else the instruction at the PC, which a breakpoint
there does not stop. -/
def State.dbgOne (s : State) (c : CoreId) : State :=
  let t := s.begins c
  if s.flag (F.DBG_CORE_CTRL_STEPIRQ c.num) && (t.eventMay c).isSome then t.eventTaken c else t.fkFetch c (fkDecoded c)

/-- STEP (R488): one instruction, then halted again; of two causes the lower is recorded (R489). A core that its instruction has
stopped for good stays stopped. -/
def State.dbgStep (s : State) (c : CoreId) : State :=
  if (s.core c).run ≠ .halted then s else
  let s1 := (s.haltGap c).dbgOne c
  match (s1.core c).run with
  | .xfault | .mismatch => (s1.setFbit F.DBG_STAT_HALTED c.num false).setReg (A.DBG_CORE_STAT c.num) 0#32
  | _ => s1.dbgHalt c 2 0

/-! Core registers (R490). -/

/-- The register RSEL selects; none where RDATA is answered FAULT. -/
def State.dbgRead (s : State) (c : CoreId) : State × Option Word :=
  let n := s.f (F.DBG_CORE_RSEL_REG c.num)
  if (s.core c).run ≠ .halted then (s, none)
  else if n < 32 then (s, some ((s.core c).rd (Fin.ofNat 32 n)))
  else if n < 64 then (s, some (s.srRead c (n - 32)))
  else if n = 64 then (s, some (s.core c).pc)
  else (s, none)

/-- Write the register RSEL selects, at machine privilege; W0 ignores it. -/
def State.dbgWrite (s : State) (c : CoreId) (w : Word) : Option State :=
  let n := s.f (F.DBG_CORE_RSEL_REG c.num)
  if (s.core c).run ≠ .halted then none
  else if n < 32 then some (s.setCore c ((s.core c).wr (Fin.ofNat 32 n) w))
  else if n < 64 then some (s.srWrite c 2 (n - 32) w)
  else if n = 64 then some (s.setCore c { s.core c with pc := w })
  else none

/-! Memory (R493) and reset (R494). -/

/-- ADDR after an access. -/
def State.memInc (s : State) : State :=
  if s.flag F.DBG_MEM_CTRL_INC then s.setReg A.DBG_MEM_ADDR (s.reg A.DBG_MEM_ADDR + 4#32) else s

/-- A read at DBG_MEM_ADDR; none is a bus error. An uncorrectable error is one too, with ECC_UNCORR (R103). -/
def State.dbgMemRead (s : State) : State × Option Word :=
  let a := (s.reg A.DBG_MEM_ADDR).toNat
  if a % 4 ≠ 0 then (s.busErr .debug, none) else
  match s.busRead .debug a 4 with
  | (s1, .ok v) => (s1.memInc, some (toW v))
  | (s1, .eccErr) => ((s1.raise 65).busErr .debug, none)
  | (s1, _) => (s1.busErr .debug, none)

/-- A write at DBG_MEM_ADDR; `false` is a bus error. -/
def State.dbgMemWrite (s : State) (w : Word) : State × Bool :=
  let a := (s.reg A.DBG_MEM_ADDR).toNat
  let s0 := s.setF F.DBG_STAT_BUSERR 0
  let s1 := if a % 4 = 0 then s0.busWrite .debug a 4 w.toNat else s0.busErr .debug
  if s1.flag F.DBG_STAT_BUSERR then (s1, false) else ((s1.setF F.DBG_STAT_BUSERR (s.f F.DBG_STAT_BUSERR)).memInc, true)

/-- A write of DBG_RST (R494). -/
def State.dbgRst (s : State) (v : Nat) : State :=
  if bits v 31 16 = 0x4B44 ∧ rstTarget (bits v 1 0) (bits v 4 2) then
    s.reqReset 12 (some (bits v 1 0 + (if bits v 1 0 = 3 then 4 * bits v 4 2 else 0)))
  else s

/-! The window as the port reaches it (R487, R497). -/

/-- The core of a word index, when it lies in a core's registers. -/
def dbgCore (o : Nat) : Option CoreId :=
  if o < 0x100 ∨ 0x280 ≤ o then none else
  match (o - 0x100) / 0x80 with
  | 0 => some .panA
  | 1 => some .panB
  | _ => some .steward

/-- The grant lets the port make this access (R487). -/
def State.dbgMay (s : State) (rnw : Bool) (o : Nat) : Bool :=
  let g := s.f F.DBG_STAT_SCOPE
  if rnw && (o == 0 || o == 4) then true
  else match dbgCore o with
    | some c => bit g c.num
    | none => if 0x10 ≤ o ∧ o < 0x1C then bit g 3 else g != 0

/-- A write of CTRL: HALT, then RESUME, then STEP (R488). -/
def State.dbgCtrl (s : State) (c : CoreId) (w : Word) : State :=
  let v := w.toNat
  ((((s.plainKeep (A.DBG_CORE_CTRL c.num) w []).when (bit v 0) (fun s => s.dbgHaltReq c)).when (bit v 1)
    (fun s => s.dbgResume c)).when (bit v 2) (fun s => s.dbgStep c))

/-- A write by the port; none is FAULT. -/
def State.portWrite (s : State) (o : Nat) (w : Word) : Option State :=
  if !s.dbgMay false o then none else
  let plain := fun (s : State) => (regAt (0x40440000 + o)).map (fun r => s.plainWrite r (0x40440000 + o) w)
  match dbgCore o with
  | some c =>
    if (o - 0x100) % 0x80 = 0 then some (s.dbgCtrl c w)
    else if (o - 0x100) % 0x80 = 0xC then s.dbgWrite c w
    else plain s
  | none =>
    if o = 0xC then some (s.dbgRst w.toNat)
    else if o = 0x14 then (match s.dbgMemWrite w with | (s1, _) => some s1)
    else plain s

/-- A read by the port; none is FAULT. -/
def State.portRead (s : State) (o : Nat) : State × Option Word :=
  if !s.dbgMay true o then (s, none) else
  let plain := (s, (regAt (0x40440000 + o)).map (fun r => r.readout ((s.rdView (0x40440000 + o)).getD (s.reg (0x40440000 + o)))))
  match dbgCore o with
  | some c => if (o - 0x100) % 0x80 = 0xC then s.dbgRead c else plain
  | none => if o = 0x14 then s.dbgMemRead else plain

/-- Even parity of a number's low `n` bits. -/
def parityOf (n v : Nat) : Bool := (List.range n).foldl (fun p i => p != bit v i) false

/-- The device's answer: ACK, then on a read the data and its parity. -/
def State.ack (s : State) (k : Nat) (d : Option Word) : State :=
  s.emit .dbg (leBytes 1 k ++ match d with
    | some w => leBytes 4 w.toNat ++ leBytes 1 (b2n (parityOf 32 w.toNat))
    | none => [])

/-- A read transaction after its header. -/
def State.portReadT (s : State) (o : Nat) : State :=
  match s.portRead o with
  | (s1, some w) => s1.ack 1 (some w)
  | (s1, none) => s1.ack 4 none

/-- The device acknowledges a write before its data, so FAULT comes of what the header and the state show; the access of
DBG_MEM_DATA runs first where it can. -/
def State.portWriteT (s : State) (o : Nat) (w : Word) (good : Bool) : State :=
  if !good then
    (if (s.portWrite o w).isSome then (s.ack 1 none).setF F.DBG_STAT_PARERR 1 else s.ack 4 none)
  else if o = 0x14 ∧ s.dbgMay false o then
    (match s.dbgMemWrite w with
    | (s1, true) => s1.ack 1 none
    | (s1, false) => s1.ack 4 none)
  else match s.portWrite o w with
    | some s1 => s1.ack 1 none
    | none => s.ack 4 none

/-- DBG_TRANSACTION (R486): header parity, ACK, data parity. The DBG island answers only when it is on. -/
def execDbgTransaction (rnw : Bool) (addr : BitVec 8) (hpar : Bool) (data : Word) (dpar : Bool) (s : State) :
    Host.Outcome State Fault Refusal :=
  .next (if !s.islandUp 13 then s
    else if (parityOf 8 addr.toNat != rnw) != hpar then s.setF F.DBG_STAT_PARERR 1
    else if rnw then s.portReadT (4 * addr.toNat)
    else s.portWriteT (4 * addr.toNat) data (parityOf 32 data.toNat == dpar))

/-- DBG_LINE_RESET (R486): between transactions the protocol is idle already. -/
def execDbgLineReset (s : State) : Host.Outcome State Fault Refusal := .next s

/-- A write transaction of the port with good parity. -/
def State.portPut (s : State) (o : Nat) (w : Word) : State := if s.islandUp 13 then s.portWriteT o w true else s

/-- CTRL of a core with one of its three requests set. -/
def State.ctrlWith (s : State) (c : CoreId) (k : Nat) : Word := toW ((s.reg (A.DBG_CORE_CTRL c.num)).toNat + 2 ^ k)

/-- DBG_HALT (R488). -/
def execDbgHalt (c : CoreId) (s : State) : Host.Outcome State Fault Refusal :=
  .next (s.portPut (0x100 + 0x80 * c.num) (s.ctrlWith c 0))

/-- DBG_RESUME (R488). -/
def execDbgResume (c : CoreId) (s : State) : Host.Outcome State Fault Refusal :=
  .next (s.portPut (0x100 + 0x80 * c.num) (s.ctrlWith c 1))

/-- DBG_STEP (R488). -/
def execDbgStep (c : CoreId) (s : State) : Host.Outcome State Fault Refusal :=
  .next (s.portPut (0x100 + 0x80 * c.num) (s.ctrlWith c 2))

/-- DBG_RDATA_ACCESS (R490): the register that RSEL selects is written, or read. -/
def execDbgRdataAccess (c : CoreId) (wr : Option Word) (s : State) : Host.Outcome State Fault Refusal :=
  .next (match wr with
    | some w => s.portPut (0x10C + 0x80 * c.num) w
    | none => if s.islandUp 13 then s.portReadT (0x10C + 0x80 * c.num) else s)

/-- DBG_MEM_ACCESS (R493). -/
def execDbgMemAccess (wr : Option Word) (s : State) : Host.Outcome State Fault Refusal :=
  .next (match wr with
    | some w => s.portPut 0x14 w
    | none => if s.islandUp 13 then s.portReadT 0x14 else s)

/-- DBG_RST (R494). -/
def execDbgRst (value : Word) (s : State) : Host.Outcome State Fault Refusal := .next (s.portPut 0xC value)

/-- DBG_EVT_WRITE (R487, R496): by the port, or by a core at runtime or machine privilege. -/
def execDbgEvtWrite (who : Who) (value : Word) (s : State) : Host.Outcome State Fault Refusal :=
  .next (match who with
    | .debug => s.portPut 8 value
    | _ => s.regWrite who A.DBG_EVT value)

/-! Boundary scan (R495). -/

/-- TEST_EN holds the device at B3 (R459). -/
def State.testHeld (s : State) : Bool := s.flag F.SYSCTL_STRAP_TEST_EN && s.pwr.bring.isSome

/-- Select an instruction of the TAP. -/
def State.tap (s : State) (i : TapIr) : State := { s with dbg := { s.dbg with ir := i } }

/-- An instruction that drives the balls; without the hold it acts as BYPASS. -/
def State.tapDrive (s : State) (i : TapIr) (on : Bool) : State :=
  if s.testHeld then (s.tap i).emit (.balls on) (if on then leBytes 35 s.dbg.cells else []) else s.tap .bypass

/-- TAP_RESET (R495). -/
def execTapReset (s : State) : Host.Outcome State Fault Refusal := .next (s.tap .idcode)

/-- IDCODE (R495). -/
def execIdcode (s : State) : Host.Outcome State Fault Refusal := .next ((s.tap .idcode).emit .tdo (leBytes 4 0xC486016B))

/-- SAMPLE_PRELOAD (R495): the balls are captured, the output cells loaded. -/
def execSamplePreload (balls load : BitVec 276) (s : State) : Host.Outcome State Fault Refusal :=
  .next (({ s with dbg := { s.dbg with cells := load.toNat } }.tap .sample).emit .tdo (leBytes 35 balls.toNat))

/-- EXTEST (R495). -/
def execExtest (s : State) : Host.Outcome State Fault Refusal := .next (s.tapDrive .extest true)

/-- CLAMP (R495). -/
def execClamp (s : State) : Host.Outcome State Fault Refusal := .next (s.tapDrive .clamp true)

/-- HIGHZ (R495). -/
def execHighz (s : State) : Host.Outcome State Fault Refusal := .next (s.tapDrive .highz false)

/-- BYPASS (R495). -/
def execBypass (s : State) : Host.Outcome State Fault Refusal := .next (s.tap .bypass)

end Sys2Proof.Machine
end

