-- ==== Sys2Proof/Machine/Fk.lean ====
section
/-! DEFINITION. The instructions of FK-32, one meaning per row: the core fetches at its PC and runs the row's effect (R70 to R84,
R87 to R89). -/
namespace Sys2Proof.Machine

/-- ADD (R70). -/
def execAdd (c : CoreId) (rd ra rb : Fin 32) (s : State) : Host.Outcome State Fault Refusal := .next (s.fkRun c (fkAdd c rd ra rb))

/-- ADC (R70). -/
def execAdc (c : CoreId) (rd ra rb : Fin 32) (s : State) : Host.Outcome State Fault Refusal := .next (s.fkRun c (fkAdc c rd ra rb))

/-- SUB (R70). -/
def execSub (c : CoreId) (rd ra rb : Fin 32) (s : State) : Host.Outcome State Fault Refusal := .next (s.fkRun c (fkSub c rd ra rb))

/-- SBC (R70). -/
def execSbc (c : CoreId) (rd ra rb : Fin 32) (s : State) : Host.Outcome State Fault Refusal := .next (s.fkRun c (fkSbc c rd ra rb))

/-- AND (R70). -/
def execAnd (c : CoreId) (rd ra rb : Fin 32) (s : State) : Host.Outcome State Fault Refusal := .next (s.fkRun c (fkAnd c rd ra rb))

/-- OR (R70). -/
def execOr (c : CoreId) (rd ra rb : Fin 32) (s : State) : Host.Outcome State Fault Refusal := .next (s.fkRun c (fkOr c rd ra rb))

/-- XOR (R70). -/
def execXor (c : CoreId) (rd ra rb : Fin 32) (s : State) : Host.Outcome State Fault Refusal := .next (s.fkRun c (fkXor c rd ra rb))

/-- ANDN (R70). -/
def execAndn (c : CoreId) (rd ra rb : Fin 32) (s : State) : Host.Outcome State Fault Refusal :=
  .next (s.fkRun c (fkAndn c rd ra rb))

/-- SHL (R71). -/
def execShl (c : CoreId) (rd ra rb : Fin 32) (s : State) : Host.Outcome State Fault Refusal := .next (s.fkRun c (fkShl c rd ra rb))

/-- SHR (R71). -/
def execShr (c : CoreId) (rd ra rb : Fin 32) (s : State) : Host.Outcome State Fault Refusal := .next (s.fkRun c (fkShr c rd ra rb))

/-- SAR (R71). -/
def execSar (c : CoreId) (rd ra rb : Fin 32) (s : State) : Host.Outcome State Fault Refusal := .next (s.fkRun c (fkSar c rd ra rb))

/-- ROR (R70). -/
def execRor (c : CoreId) (rd ra rb : Fin 32) (s : State) : Host.Outcome State Fault Refusal := .next (s.fkRun c (fkRor c rd ra rb))

/-- SHLI (R70). -/
def execShli (c : CoreId) (rd ra n : Fin 32) (s : State) : Host.Outcome State Fault Refusal := .next (s.fkRun c (fkShli c rd ra n))

/-- SHRI (R70). -/
def execShri (c : CoreId) (rd ra n : Fin 32) (s : State) : Host.Outcome State Fault Refusal := .next (s.fkRun c (fkShri c rd ra n))

/-- SARI (R70). -/
def execSari (c : CoreId) (rd ra n : Fin 32) (s : State) : Host.Outcome State Fault Refusal := .next (s.fkRun c (fkSari c rd ra n))

/-- CMP (R71). -/
def execCmp (c : CoreId) (ra rb : Fin 32) (s : State) : Host.Outcome State Fault Refusal := .next (s.fkRun c (fkCmp c ra rb))

/-- MUL (R70). -/
def execMul (c : CoreId) (rd ra rb : Fin 32) (s : State) : Host.Outcome State Fault Refusal := .next (s.fkRun c (fkMul c rd ra rb))

/-- MULHU (R70). -/
def execMulhu (c : CoreId) (rd ra rb : Fin 32) (s : State) : Host.Outcome State Fault Refusal :=
  .next (s.fkRun c (fkMulhu c rd ra rb))

/-- MULHS (R70). -/
def execMulhs (c : CoreId) (rd ra rb : Fin 32) (s : State) : Host.Outcome State Fault Refusal :=
  .next (s.fkRun c (fkMulhs c rd ra rb))

/-- DIVU (R72). -/
def execDivu (c : CoreId) (rd ra rb : Fin 32) (s : State) : Host.Outcome State Fault Refusal :=
  .next (s.fkRun c (fkDivu c rd ra rb))

/-- DIVS (R72). -/
def execDivs (c : CoreId) (rd ra rb : Fin 32) (s : State) : Host.Outcome State Fault Refusal :=
  .next (s.fkRun c (fkDivs c rd ra rb))

/-- REMU (R72). -/
def execRemu (c : CoreId) (rd ra rb : Fin 32) (s : State) : Host.Outcome State Fault Refusal :=
  .next (s.fkRun c (fkRemu c rd ra rb))

/-- REMS (R72). -/
def execRems (c : CoreId) (rd ra rb : Fin 32) (s : State) : Host.Outcome State Fault Refusal :=
  .next (s.fkRun c (fkRems c rd ra rb))

/-- MIN (R70). -/
def execMin (c : CoreId) (rd ra rb : Fin 32) (s : State) : Host.Outcome State Fault Refusal := .next (s.fkRun c (fkMin c rd ra rb))

/-- MAX (R70). -/
def execMax (c : CoreId) (rd ra rb : Fin 32) (s : State) : Host.Outcome State Fault Refusal := .next (s.fkRun c (fkMax c rd ra rb))

/-- CLZ (R70). -/
def execClz (c : CoreId) (rd ra : Fin 32) (s : State) : Host.Outcome State Fault Refusal := .next (s.fkRun c (fkClz c rd ra))

/-- DADD (R79). -/
def execDadd (c : CoreId) (rd ra rb : Fin 32) (s : State) : Host.Outcome State Fault Refusal :=
  .next (s.fkRun c (fkDadd c rd ra rb))

/-- DADDC (R79). -/
def execDaddc (c : CoreId) (rd ra rb : Fin 32) (s : State) : Host.Outcome State Fault Refusal :=
  .next (s.fkRun c (fkDaddc c rd ra rb))

/-- DSUB (R79). -/
def execDsub (c : CoreId) (rd ra rb : Fin 32) (s : State) : Host.Outcome State Fault Refusal :=
  .next (s.fkRun c (fkDsub c rd ra rb))

/-- DSUBC (R79). -/
def execDsubc (c : CoreId) (rd ra rb : Fin 32) (s : State) : Host.Outcome State Fault Refusal :=
  .next (s.fkRun c (fkDsubc c rd ra rb))

/-- DADJ (R80). -/
def execDadj (c : CoreId) (rd ra : Fin 32) (s : State) : Host.Outcome State Fault Refusal := .next (s.fkRun c (fkDadj c rd ra))

/-- DCMP (R79). -/
def execDcmp (c : CoreId) (ra rb : Fin 32) (s : State) : Host.Outcome State Fault Refusal := .next (s.fkRun c (fkDcmp c ra rb))

/-- DSHL (R79). -/
def execDshl (c : CoreId) (rd ra n : Fin 32) (s : State) : Host.Outcome State Fault Refusal := .next (s.fkRun c (fkDshl c rd ra n))

/-- DSHR (R79). -/
def execDshr (c : CoreId) (rd ra n : Fin 32) (s : State) : Host.Outcome State Fault Refusal := .next (s.fkRun c (fkDshr c rd ra n))

/-- D2B (R79). -/
def execD2b (c : CoreId) (rd ra : Fin 32) (s : State) : Host.Outcome State Fault Refusal := .next (s.fkRun c (fkD2b c rd ra))

/-- B2D (R78). -/
def execB2d (c : CoreId) (rd ra : Fin 32) (s : State) : Host.Outcome State Fault Refusal := .next (s.fkRun c (fkB2d c rd ra))

/-- JR (R74). -/
def execJr (c : CoreId) (ra : Fin 32) (s : State) : Host.Outcome State Fault Refusal := .next (s.fkRun c (fkJr c ra))

/-- JALR (R74). -/
def execJalr (c : CoreId) (rd ra : Fin 32) (s : State) : Host.Outcome State Fault Refusal := .next (s.fkRun c (fkJalr c rd ra))

/-- MFS (R62). -/
def execMfs (c : CoreId) (rd sr : Fin 32) (s : State) : Host.Outcome State Fault Refusal := .next (s.fkRun c (fkMfs c rd sr))

/-- MTS (R63). -/
def execMts (c : CoreId) (sr ra : Fin 32) (s : State) : Host.Outcome State Fault Refusal := .next (s.fkRun c (fkMts c sr ra))

/-- ERET (R93). -/
def execEret (c : CoreId) (s : State) : Host.Outcome State Fault Refusal := .next (s.fkRun c (fkEret c))

/-- FENCE (R74). -/
def execFence (c : CoreId) (s : State) : Host.Outcome State Fault Refusal := .next (s.fkRun c (fkFence c))

/-- WFE (R74). -/
def execWfe (c : CoreId) (s : State) : Host.Outcome State Fault Refusal := .next (s.fkRun c (fkWfe c))

/-- BRK (R74). -/
def execBrk (c : CoreId) (s : State) : Host.Outcome State Fault Refusal := .next (s.fkRun c (fkBrk c))

/-- BTW (R74). -/
def execBtw (c : CoreId) (rd : Fin 32) (s : State) : Host.Outcome State Fault Refusal := .next (s.fkRun c (fkBtw c rd))

/-- WTB (R74). -/
def execWtb (c : CoreId) (ra : Fin 32) (s : State) : Host.Outcome State Fault Refusal := .next (s.fkRun c (fkWtb c ra))

/-- AB (R75). -/
def execAb (c : CoreId) (imm : BitVec 16) (s : State) : Host.Outcome State Fault Refusal := .next (s.fkRun c (fkAb c imm))

/-- ADDI (R73). -/
def execAddi (c : CoreId) (rd ra : Fin 32) (imm : BitVec 16) (s : State) : Host.Outcome State Fault Refusal :=
  .next (s.fkRun c (fkAddi c rd ra imm))

/-- ANDI (R73). -/
def execAndi (c : CoreId) (rd ra : Fin 32) (imm : BitVec 16) (s : State) : Host.Outcome State Fault Refusal :=
  .next (s.fkRun c (fkAndi c rd ra imm))

/-- ORI (R73). -/
def execOri (c : CoreId) (rd ra : Fin 32) (imm : BitVec 16) (s : State) : Host.Outcome State Fault Refusal :=
  .next (s.fkRun c (fkOri c rd ra imm))

/-- XORI (R73). -/
def execXori (c : CoreId) (rd ra : Fin 32) (imm : BitVec 16) (s : State) : Host.Outcome State Fault Refusal :=
  .next (s.fkRun c (fkXori c rd ra imm))

/-- MOVH (R73). -/
def execMovh (c : CoreId) (rd : Fin 32) (imm : BitVec 16) (s : State) : Host.Outcome State Fault Refusal :=
  .next (s.fkRun c (fkMovh c rd imm))

/-- CMPI (R73). -/
def execCmpi (c : CoreId) (ra : Fin 32) (imm : BitVec 16) (s : State) : Host.Outcome State Fault Refusal :=
  .next (s.fkRun c (fkCmpi c ra imm))

/-- SVC (R73). -/
def execSvc (c : CoreId) (imm : BitVec 16) (s : State) : Host.Outcome State Fault Refusal := .next (s.fkRun c (fkSvc c imm))

/-- LDW (R73). -/
def execLdw (c : CoreId) (rd ra : Fin 32) (imm : BitVec 16) (s : State) : Host.Outcome State Fault Refusal :=
  .next (s.fkRun c (fkLdw c rd ra imm))

/-- LDH (R73). -/
def execLdh (c : CoreId) (rd ra : Fin 32) (imm : BitVec 16) (s : State) : Host.Outcome State Fault Refusal :=
  .next (s.fkRun c (fkLdh c rd ra imm))

/-- LDHS (R73). -/
def execLdhs (c : CoreId) (rd ra : Fin 32) (imm : BitVec 16) (s : State) : Host.Outcome State Fault Refusal :=
  .next (s.fkRun c (fkLdhs c rd ra imm))

/-- LDB (R73). -/
def execLdb (c : CoreId) (rd ra : Fin 32) (imm : BitVec 16) (s : State) : Host.Outcome State Fault Refusal :=
  .next (s.fkRun c (fkLdb c rd ra imm))

/-- LDBS (R73). -/
def execLdbs (c : CoreId) (rd ra : Fin 32) (imm : BitVec 16) (s : State) : Host.Outcome State Fault Refusal :=
  .next (s.fkRun c (fkLdbs c rd ra imm))

/-- STW (R73). -/
def execStw (c : CoreId) (rd ra : Fin 32) (imm : BitVec 16) (s : State) : Host.Outcome State Fault Refusal :=
  .next (s.fkRun c (fkStw c rd ra imm))

/-- STH (R73). -/
def execSth (c : CoreId) (rd ra : Fin 32) (imm : BitVec 16) (s : State) : Host.Outcome State Fault Refusal :=
  .next (s.fkRun c (fkSth c rd ra imm))

/-- STB (R73). -/
def execStb (c : CoreId) (rd ra : Fin 32) (imm : BitVec 16) (s : State) : Host.Outcome State Fault Refusal :=
  .next (s.fkRun c (fkStb c rd ra imm))

/-- TON (R87). -/
def execTon (c : CoreId) (rd ra : Fin 32) (imm : BitVec 16) (s : State) : Host.Outcome State Fault Refusal :=
  .next (s.fkRun c (fkTon c rd ra imm))

/-- TOF (R87). -/
def execTof (c : CoreId) (rd ra : Fin 32) (imm : BitVec 16) (s : State) : Host.Outcome State Fault Refusal :=
  .next (s.fkRun c (fkTof c rd ra imm))

/-- TP (R87). -/
def execTp (c : CoreId) (rd ra : Fin 32) (imm : BitVec 16) (s : State) : Host.Outcome State Fault Refusal :=
  .next (s.fkRun c (fkTp c rd ra imm))

/-- CTU (R88). -/
def execCtu (c : CoreId) (rd ra : Fin 32) (imm : BitVec 16) (s : State) : Host.Outcome State Fault Refusal :=
  .next (s.fkRun c (fkCtu c rd ra imm))

/-- CTD (R88). -/
def execCtd (c : CoreId) (rd ra : Fin 32) (imm : BitVec 16) (s : State) : Host.Outcome State Fault Refusal :=
  .next (s.fkRun c (fkCtd c rd ra imm))

/-- B (R76). -/
def execB (c : CoreId) (off : BitVec 26) (s : State) : Host.Outcome State Fault Refusal := .next (s.fkRun c (fkB c off))

/-- BL (R76). -/
def execBl (c : CoreId) (off : BitVec 26) (s : State) : Host.Outcome State Fault Refusal := .next (s.fkRun c (fkBl c off))

/-- BCC (R76). -/
def execBcc (c : CoreId) (cond : Fin 16) (off : BitVec 26) (s : State) : Host.Outcome State Fault Refusal :=
  .next (s.fkRun c (fkBcc c cond off))

/-- LD (R82). -/
def execLd (c : CoreId) (addr : BitVec 22) (s : State) : Host.Outcome State Fault Refusal := .next (s.fkRun c (fkLd c addr))

/-- LDN (R82). -/
def execLdn (c : CoreId) (addr : BitVec 22) (s : State) : Host.Outcome State Fault Refusal := .next (s.fkRun c (fkLdn c addr))

/-- IMG_AND (R82). -/
def execImgAnd (c : CoreId) (addr : BitVec 22) (s : State) : Host.Outcome State Fault Refusal :=
  .next (s.fkRun c (fkImgAnd c addr))

/-- IMG_ANDN (R82). -/
def execImgAndn (c : CoreId) (addr : BitVec 22) (s : State) : Host.Outcome State Fault Refusal :=
  .next (s.fkRun c (fkImgAndn c addr))

/-- IMG_OR (R82). -/
def execImgOr (c : CoreId) (addr : BitVec 22) (s : State) : Host.Outcome State Fault Refusal := .next (s.fkRun c (fkImgOr c addr))

/-- ORN (R82). -/
def execOrn (c : CoreId) (addr : BitVec 22) (s : State) : Host.Outcome State Fault Refusal := .next (s.fkRun c (fkOrn c addr))

/-- IMG_XOR (R82). -/
def execImgXor (c : CoreId) (addr : BitVec 22) (s : State) : Host.Outcome State Fault Refusal :=
  .next (s.fkRun c (fkImgXor c addr))

/-- ST (R81). -/
def execSt (c : CoreId) (addr : BitVec 22) (s : State) : Host.Outcome State Fault Refusal := .next (s.fkRun c (fkSt c addr))

/-- SET (R82). -/
def execSet (c : CoreId) (addr : BitVec 22) (s : State) : Host.Outcome State Fault Refusal := .next (s.fkRun c (fkSet c addr))

/-- CLR (R82). -/
def execClr (c : CoreId) (addr : BitVec 22) (s : State) : Host.Outcome State Fault Refusal := .next (s.fkRun c (fkClr c addr))

/-- RE (R83). -/
def execRe (c : CoreId) (addr : BitVec 22) (s : State) : Host.Outcome State Fault Refusal := .next (s.fkRun c (fkRe c addr))

/-- FE (R83). -/
def execFe (c : CoreId) (addr : BitVec 22) (s : State) : Host.Outcome State Fault Refusal := .next (s.fkRun c (fkFe c addr))

/-- REM (R83). -/
def execRem (c : CoreId) (addr : BitVec 22) (s : State) : Host.Outcome State Fault Refusal := .next (s.fkRun c (fkRem c addr))

/-- FEM (R83). -/
def execFem (c : CoreId) (addr : BitVec 22) (s : State) : Host.Outcome State Fault Refusal := .next (s.fkRun c (fkFem c addr))

/-- PUSH (R84). -/
def execPush (c : CoreId) (s : State) : Host.Outcome State Fault Refusal := .next (s.fkRun c (fkPush c))

/-- POPA (R84). -/
def execPopa (c : CoreId) (s : State) : Host.Outcome State Fault Refusal := .next (s.fkRun c (fkPopa c))

/-- POPO (R84). -/
def execPopo (c : CoreId) (s : State) : Host.Outcome State Fault Refusal := .next (s.fkRun c (fkPopo c))

/-- POPX (R84). -/
def execPopx (c : CoreId) (s : State) : Host.Outcome State Fault Refusal := .next (s.fkRun c (fkPopx c))

/-- NOT (R82). -/
def execNot (c : CoreId) (s : State) : Host.Outcome State Fault Refusal := .next (s.fkRun c (fkNot c))

/-- UNDEFINED_INSTRUCTION (R65). -/
def execUndefinedInstruction (c : CoreId) (word : Word) (s : State) : Host.Outcome State Fault Refusal :=
  .next (s.fkUndefined c word)

/-- EVENT_TAKEN (R77, R93). -/
def execEventTaken (c : CoreId) (s : State) : Host.Outcome State Fault Refusal := .next (s.eventTaken c)

end Sys2Proof.Machine
end

