-- ==== Sys2Proof/Machine/Reads.lean ====
section
/-! DEFINITION. The register reads that are commands of their own (R5, R128, R262): the word goes back to the initiator, and a read
that fails reaches it under R115. -/
namespace Sys2Proof.Machine

/-- A read of `who` at `a` ends with a bus error (R4, R115): a core's load takes the data-access exception with sub-cause 3 at
its instruction, while it issues; any other initiator has its own. -/
def State.readFails (s : State) (who : Who) (a : Nat) : State :=
  match who with
  | .core c _ =>
    if s.issues c then (((s.begins c).spend c s.freeNat).useFree).fkExc c (excAt 4 3 (some (toW a))) else s
  | _ => s.busErr who

/-- A register read of `who` with an effect of its own: the effect where the read reaches its block, a bus error elsewhere. -/
def State.regDoRead (s : State) (who : Who) (a : Nat) (f : State → State) : State :=
  if s.regOk who a then f s else s.readFails who a

/-- REGISTER_READ_CLEAR (R5): the word goes back to the initiator, its RC fields are cleared. -/
def execRegisterReadClear (who : Who) (addr : Word) (s : State) : Host.Outcome State Fault Refusal :=
  .next (match s.regRead who addr.toNat with
    | (s1, some w) => s1.emit .bus (leBytes 4 w.toNat)
    | (s1, none) => s1.readFails who addr.toNat)

/-- EVT_TGT_ACK_READ (R128). -/
def execEvtTgtAckRead (who : Who) (t : Fin 4) (s : State) : Host.Outcome State Fault Refusal :=
  .next (s.regDoRead who (A.EVT_TGT_ACK t) (fun s => (s.evtAck t).1.emit .bus (leBytes 4 (s.evtAck t).2.toNat)))

/-- TIME_NOW_READ (R262): a read of TIME_NOW_L gives DTIME[31:0] and latches DTIME[63:32] in TIME_NOW_H. -/
def execTimeNowRead (who : Who) (s : State) : Host.Outcome State Fault Refusal :=
  .next (s.regDoRead who A.TIME_NOW_L (fun s => s.nowLatch.emit .bus (leBytes 4 (s.dtime % 2 ^ 32))))

end Sys2Proof.Machine
end

