-- ==== Sys2Proof/Machine/Transports.lean ====
section
/-! DEFINITION. Packets as the transports deliver them: the host port, UDP, USB, ISO 15765-2 and Brineline (R49 to R57, R172, R174,
R178, R179, R466, R467), and the relay of replies (R53). -/
namespace Sys2Proof.Machine

/-- The body of an opcode (R39). An opcode that R39 does not list never reaches its body. -/
def bodyOf (grp op : Nat) : Body :=
  match grp, op with
  | 1, 1 => bodyIdentify
  | 1, 2 => bodyGetStatus
  | 1, 3 => bodySubscribe
  | 1, 4 => bodyReset
  | 2, 1 => bodyOpenChallenge
  | 2, 2 => bodyOpenResponse
  | 2, 3 => bodyClose
  | 2, 4 => bodyMaintAcquire
  | 2, 5 => bodyMaintRelease
  | 3, 1 => bodyRegRead
  | 3, 2 => bodyRegWrite
  | 4, 1 => bodyLoadBlock
  | 4, 2 => bodyLoadMap
  | 4, 3 => bodyPanMode
  | 4, 4 => bodyEditStage
  | 4, 5 => bodyEditCommit
  | 4, 6 => bodyForce
  | 4, 7 => bodyUnforce
  | 4, 8 => bodyImageRead
  | 5, 1 => bodyCanConfig
  | 5, 2 => bodyCanSend
  | 5, 3 => bodyCanRead
  | 5, 4 => bodyRouteSet
  | 6, 1 => bodyHssSet
  | 6, 2 => bodySolRun
  | 6, 3 => bodyLedSet
  | 6, 4 => bodyDioSet
  | 6, 5 => bodyOpenLoadSweep
  | 6, 6 => bodyMeasRead
  | 7, 1 => bodyAccCalibrate
  | 7, 2 => bodyAccOverride
  | 7, 3 => bodyTokenEnrol
  | 7, 4 => bodyAccStatus
  | 8, 1 => bodyAttest
  | 8, 2 => bodyKeyLoad
  | 8, 3 => bodyDebugChallenge
  | 8, 4 => bodyDebugUnlock
  | 9, 1 => bodyCrustRead
  | 9, 2 => bodyCrustWrite
  | 9, 3 => bodyCounterInc
  | 9, 4 => bodyLogRead
  | 9, 5 => bodyCrustCompact
  | 10, 1 => bodyStageBegin
  | 10, 2 => bodyStageData
  | 10, 3 => bodyStageEnd
  | 10, 4 => bodyForward
  | 10, 5 => bodyConfirm
  | 10, 6 => bodyUpdStatus
  | 11, 1 => bodyTopology
  | 11, 2 => bodySwitchoverTest
  | 11, 3 => bodyTimeGet
  | 11, 4 => bodyPeerEditStage
  | 11, 5 => bodyPeerEditCheck
  | 11, 6 => bodyPeerEditCancel
  | _, _ => fun _ s => s

/-- A reply or completion that came over Brineline from `src` (R53): relayed unchanged to the forwarded request's transport, or
given to FORWARD (R422) or the pair's edits (R194); one that matches nothing is discarded. In place of one that is longer than the
transport's largest packet the request receives BAD_PARAM (R50). -/
def State.relay (s : State) (src : Nat) (b : List Byte) : State :=
  let p := parsePkt b
  match s.cmd.fwd.find? (fun w => w.dst == src && w.seq == p.seq) with
  | some w =>
    let fwd := if p.type = 1 ∧ p.stat = stAccepted then s.cmd.fwd.map (fun (x : Fwd) => if x = w then { x with acc := true } else x)
      else s.cmd.fwd.erase w
    let long := (s.replyPkt w.src w.seq w.grp w.op w.sess p.type stBadParam (leBytes 2 (longParam w.grp w.op)) (s.inSess w.tp w.ep w.sess)).bytes
    (({ s with cmd := { s.cmd with fwd := fwd } }).syncOut w.tp).sendBytes w.tp w.ep (if s.maxPkt w.tp < b.length then long else b)
  | none =>
    let ours := match s.upd.fwd with
      | some f => f.active.any (fun x => x.1 == src && x.2.1 == p.seq)
      | none => false
    let edits := match s.ring.hs.edit with
      | some e => src == s.partner && e.seq == p.seq
      | none => false
    if ours then s.fwdReply src p.seq p.op p.stat
    else if edits then s.hsReply src p.seq p.stat p.payload
    else s.discard 4 false

/-- A delivered packet's bytes (R32, R49): size, framing, then the reply's relay or the request. -/
def State.rxBytes (s : State) (tp ep : Nat) (b : List Byte) : State :=
  if !s.tpOn tp then s
  else if s.maxPkt tp < b.length then s.discard tp false
  else match pktCheck b with
    | some .len => s.discard tp false
    | some _ => s.discard tp true
    | none =>
      let p := parsePkt b
      if tp = 4 ∧ (p.type = 1 ∨ p.type = 3) then s.relay ep b
      else s.deliver tp ep p (bodyOf p.grp p.op)

/-- CMD_REPLY_RELAY (R53): a packet of TYPE 1 or 3 in a frame from `brlSrc` addressed to this device; discarded while its address is in
conflict (R179). -/
def execCmdReplyRelay (brlSrc : BitVec 12) (bytes : List Byte) (s : State) : Host.Outcome State Fault Refusal :=
  let t := (parsePkt bytes).type
  .next (if s.tpOn 4 && s.brlTakes && (pktCheck bytes).isNone && (t == 1 || t == 3) then s.relay brlSrc.toNat bytes else s)

/-! The host port (R55 to R57). -/

/-- The status word (R55). HOST_RDY high means that a packet can be received. -/
def State.hostStatus (s : State) : List Byte :=
  let next := match s.cmd.hostQ with | [] => 0 | b :: _ => b.length
  leBytes 1 (1 + 2 * b2n (!s.cmd.hostQ.isEmpty) + 4 * b2n s.cmd.hostOvf + 8 * b2n s.cmd.hostProto) ++ leBytes 2 next ++
  leBytes 1 (s.outCount 0)

/-- HOST_RDY (R57): the port can accept a transaction, and 4,124 of the receive buffer's bytes are free. -/
def hostRdy (ready : Bool) (room : Fin 65537) : Bool := ready && decide (4124 ≤ room.val)

/-- HOST_ATN_N (R57): low while the host port's transmit queue is not empty. -/
def State.hostAtnN (s : State) : Bool := s.cmd.hostQ.isEmpty

/-- A transaction begun while HOST_RDY is low (R57): `n` bytes of 0xFF, nothing else but the error. -/
def State.hostBad (s : State) (n : Nat) : State :=
  (({ s with cmd := { s.cmd with hostProto := true } }).emit .host (List.replicate (4 + n) 0xFF#8)).raise 405

/-- The status word goes out, and what it reports clears (R56); `more` follows it. -/
def State.hostSay (s : State) (more : List Byte) : State :=
  ({ s with cmd := { s.cmd with hostOvf := false, hostProto := false } }).emit .host (s.hostStatus ++ more)

/-- HOST_WRITE (R56): `rdy` says that the port can accept a transaction, `room` what the 64 KiB receive buffer has free. -/
def execHostWrite (rdy : Bool) (room : Fin 65537) (bytes : List Byte) (s : State) : Host.Outcome State Fault Refusal :=
  .next (if !hostRdy rdy room then s.hostBad bytes.length else
    let s1 := s.hostSay (List.replicate bytes.length 0#8)
    if room.val < bytes.length then ({ s1 with cmd := { s1.cmd with hostOvf := true } }).raise 400
    else s1.rxBytes 0 0 bytes)

/-- HOST_READ (R56). -/
def execHostRead (w : HostAt) (tlen : BitVec 16) (s : State) : Host.Outcome State Fault Refusal :=
  let n := tlen.toNat
  .next (if !hostRdy w.rdy w.room then s.hostBad n else
    match s.cmd.hostQ with
    | [] => s.hostSay (List.replicate n 0#8)
    | b :: t =>
      let s1 := s.hostSay (fitBytes n b)
      if n < b.length then { s1 with cmd := { s1.cmd with hostProto := true } } else { s1 with cmd := { s1.cmd with hostQ := t } })

/-- HOST_POLL (R56). -/
def execHostPoll (w : HostAt) (s : State) : Host.Outcome State Fault Refusal :=
  .next (if hostRdy w.rdy w.room then s.hostSay [] else s.hostBad 0)

/-! UDP and USB (R49, R51, R52, R423). -/

/-- UDP_DATAGRAM_RX (R51): over a MAC that is up; IPv4 fragments are discarded. -/
def execUdpDatagramRx (eth : Fin 2) (ep : Nat) (fragment : Bool) (bytes : List Byte) (s : State) : Host.Outcome State Fault Refusal :=
  .next (if fragment || !s.ethUp eth.val then s else s.rxBytes (1 + eth.val) ep bytes)

/-- USB_BULK_OUT (R49, R52): once the host has configured the port. -/
def execUsbBulkOut (bytes : List Byte) (s : State) : Host.Outcome State Fault Refusal :=
  .next (if s.flag F.USBS_STAT_CONFIGURED then s.rxBytes 3 0 bytes else s)

/-- RECOVERY_LOADER (R466): a packet over the service port while the loader runs. -/
def execRecoveryLoader (bytes : List Byte) (s : State) : Host.Outcome State Fault Refusal :=
  .next (if s.upd.recov = 1 then s.rxBytes 3 0 bytes else s)

/-! ISO 15765-2 (R54). -/

/-- Take in bytes of a segmented message; the last ones deliver it. -/
def State.isoTake (s : State) (d : List Byte) : State :=
  let x := s.cmd.isotp
  let rx := (x.rx ++ d).take x.rxLen
  if x.rxLen ≤ rx.length then (s.modIso (fun x => { x with rxBusy := false, rx := [], rxLen := 0 })).rxBytes 5 0 rx
  else
    let bs := s.f F.CMD_ISOTP_CFG_BS
    let n := x.rxBs + 1
    let s1 := s.modIso (fun x => { x with rx := rx, rxSn := (x.rxSn + 1) % 16, rxBs := if n = bs then 0 else n })
    if n = bs then s1.isoFc else s1

/-- A first frame of FF_DL `n`: the reception begins anew and flow control answers; a length that a single frame carries, the
escape sequence's 0 among them, is not served. -/
def State.isoFirst (s : State) (n : Nat) (d : List Byte) : State :=
  if n ≤ isoSfMax (s.flag F.CMD_ISOTP_CFG_FD) then s else
  (s.modIso (fun x => { x with rxBusy := true, rx := d, rxLen := n, rxSn := 1, rxBs := 0 })).isoFc

/-- An identifier word is the request identifier, CMD_ISOTP_RXID (R54, R59). -/
def State.isoMine (s : State) (rid : Nat) : Bool :=
  ridIde rid == s.flag F.CMD_ISOTP_CFG_IDE && ridId rid == (if ridIde rid then s.f F.CMD_ISOTP_RXID_ID else s.f F.CMD_ISOTP_RXID_ID % 2 ^ 11)

/-- A frame of the transport's channel with the request identifier, by its protocol control information: single,
first, consecutive, flow control. A consecutive frame out of sequence ends the reception (R54). -/
def State.isoRx (s : State) (rid : Word) (data : List Byte) : State :=
  let b0 := leAt data 0 1
  let k := b0 / 16
  if !s.flag F.CMD_ISOTP_CFG_EN || !s.tpOn 5 || data.isEmpty || !s.isoMine rid.toNat ||
        !s.canHears (s.f F.CMD_ISOTP_CFG_CHANNEL) then s
    else if k = 0 then
      let (n, d) := if b0 = 0 ∧ 8 < data.length then (leAt data 1 1, data.drop 2) else (b0, data.drop 1)
      if n = 0 ∨ d.length < n then s
      else (s.modIso (fun x => { x with rxBusy := false, rx := [], rxLen := 0 })).rxBytes 5 0 (d.take n)
    else if k = 1 then s.isoFirst (b0 % 16 * 256 + leAt data 1 1) (data.drop 2)
    else if k = 2 then
      if !s.cmd.isotp.rxBusy then s
      else if b0 % 16 = s.cmd.isotp.rxSn then s.isoTake (data.drop 1)
      else s.modIso (fun x => { x with rxBusy := false, rx := [], rxLen := 0 })
    else if k = 3 then s.isoFlow (b0 % 16) (leAt data 1 1)
    else s

/-- ISOTP_FRAME_RX (R54). -/
def execIsotpFrameRx (f : IsoFrame) (s : State) : Host.Outcome State Fault Refusal := .next (s.isoRx f.rid f.data)

/-- ISOTP_NCR_TIMEOUT (R54): the partial packet is discarded and CMD_ISOTP_TIMEOUT raised. -/
def execIsotpNcrTimeout (s : State) : Host.Outcome State Fault Refusal :=
  .next (if s.cmd.isotp.rxBusy then
      (s.modIso (fun x => { x with rxBusy := false, rx := [], rxLen := 0 })).raise 406
    else s)

/-! Command and update frames (R172, R174, R177 to R179, R467). -/

/-- A tagged frame of FTYPE 1 or 2: the TAG is checked (R174); a broadcast, a frame for this device, or transit. -/
def State.brlTagged (s : State) (kind l lseq dst src hops bseq : Nat) (pl tag : List Byte) : State :=
  if s.linkSt l ≠ 3 then s
  else if tag ≠ s.brlTag l (brlHead kind lseq dst src hops bseq pl) then (s.brlDrop l).raise 323
  else if dst = 0xFFF then
    let r := s.brlBroadcast l kind src hops bseq pl
    if r.2 then r.1.rxBytes 4 src pl else r.1
  else if dst ≠ 0 ∧ dst = s.ownAddr then (if s.flag F.RING_ADDR_CONFLICT then s else s.rxBytes 4 src pl)
  else s.brlTransit l kind dst src hops pl

/-- BRL_COMMAND_FRAME (R174). -/
def execBrlCommandFrame (l : Fin 3) (lseq : BitVec 8) (dst src : BitVec 12) (hops bseq : BitVec 16) (payload tag : List Byte)
    (s : State) : Host.Outcome State Fault Refusal :=
  .next (s.brlTagged 1 l lseq.toNat dst.toNat src.toNat hops.toNat bseq.toNat payload tag)

/-- BRL_UPDATE_FRAME (R172, R467): a device that boots over Brineline takes the package's frames in AUTH, whatever their TAG. -/
def execBrlUpdateFrame (l : Fin 3) (lseq : BitVec 8) (dst src : BitVec 12) (hops bseq : BitVec 16) (payload tag : List Byte)
    (s : State) : Host.Outcome State Fault Refusal :=
  .next (if s.peerBoot && s.linkSt l == 2 then
      let p := parsePkt payload
      if (pktCheck payload).isNone && p.type == 0 then s.request 4 src.toNat p (bodyOf p.grp p.op) else s.brlDrop l
    else s.brlTagged 2 l lseq.toNat dst.toNat src.toNat hops.toNat bseq.toNat payload tag)

end Sys2Proof.Machine
end

