-- ==== Sys2Proof/Machine/Families.lean ====
section
/-! DEFINITION. Gathers the files that hold the meanings, for Dispatch. -/
end

