-- ==== Sys2Proof/Machine/Dispatch.lean ====
section
/-! DEFINITION. The dispatch: one arm per command, each one direct call of its meaning. -/
namespace Sys2Proof.Machine

def exec (i : Instr) (s : State) : Host.Outcome State Fault Refusal :=
  match i with
  | .add c rd ra rb => Sys2Proof.Machine.execAdd c rd ra rb s
  | .adc c rd ra rb => Sys2Proof.Machine.execAdc c rd ra rb s
  | .sub c rd ra rb => Sys2Proof.Machine.execSub c rd ra rb s
  | .sbc c rd ra rb => Sys2Proof.Machine.execSbc c rd ra rb s
  | .and c rd ra rb => Sys2Proof.Machine.execAnd c rd ra rb s
  | .or c rd ra rb => Sys2Proof.Machine.execOr c rd ra rb s
  | .xor c rd ra rb => Sys2Proof.Machine.execXor c rd ra rb s
  | .andn c rd ra rb => Sys2Proof.Machine.execAndn c rd ra rb s
  | .shl c rd ra rb => Sys2Proof.Machine.execShl c rd ra rb s
  | .shr c rd ra rb => Sys2Proof.Machine.execShr c rd ra rb s
  | .sar c rd ra rb => Sys2Proof.Machine.execSar c rd ra rb s
  | .ror c rd ra rb => Sys2Proof.Machine.execRor c rd ra rb s
  | .shli c rd ra n => Sys2Proof.Machine.execShli c rd ra n s
  | .shri c rd ra n => Sys2Proof.Machine.execShri c rd ra n s
  | .sari c rd ra n => Sys2Proof.Machine.execSari c rd ra n s
  | .cmp c ra rb => Sys2Proof.Machine.execCmp c ra rb s
  | .mul c rd ra rb => Sys2Proof.Machine.execMul c rd ra rb s
  | .mulhu c rd ra rb => Sys2Proof.Machine.execMulhu c rd ra rb s
  | .mulhs c rd ra rb => Sys2Proof.Machine.execMulhs c rd ra rb s
  | .divu c rd ra rb => Sys2Proof.Machine.execDivu c rd ra rb s
  | .divs c rd ra rb => Sys2Proof.Machine.execDivs c rd ra rb s
  | .remu c rd ra rb => Sys2Proof.Machine.execRemu c rd ra rb s
  | .rems c rd ra rb => Sys2Proof.Machine.execRems c rd ra rb s
  | .min c rd ra rb => Sys2Proof.Machine.execMin c rd ra rb s
  | .max c rd ra rb => Sys2Proof.Machine.execMax c rd ra rb s
  | .clz c rd ra => Sys2Proof.Machine.execClz c rd ra s
  | .dadd c rd ra rb => Sys2Proof.Machine.execDadd c rd ra rb s
  | .daddc c rd ra rb => Sys2Proof.Machine.execDaddc c rd ra rb s
  | .dsub c rd ra rb => Sys2Proof.Machine.execDsub c rd ra rb s
  | .dsubc c rd ra rb => Sys2Proof.Machine.execDsubc c rd ra rb s
  | .dadj c rd ra => Sys2Proof.Machine.execDadj c rd ra s
  | .dcmp c ra rb => Sys2Proof.Machine.execDcmp c ra rb s
  | .dshl c rd ra n => Sys2Proof.Machine.execDshl c rd ra n s
  | .dshr c rd ra n => Sys2Proof.Machine.execDshr c rd ra n s
  | .d2b c rd ra => Sys2Proof.Machine.execD2b c rd ra s
  | .b2d c rd ra => Sys2Proof.Machine.execB2d c rd ra s
  | .jr c ra => Sys2Proof.Machine.execJr c ra s
  | .jalr c rd ra => Sys2Proof.Machine.execJalr c rd ra s
  | .mfs c rd sr => Sys2Proof.Machine.execMfs c rd sr s
  | .mts c sr ra => Sys2Proof.Machine.execMts c sr ra s
  | .eret c => Sys2Proof.Machine.execEret c s
  | .fence c => Sys2Proof.Machine.execFence c s
  | .wfe c => Sys2Proof.Machine.execWfe c s
  | .brk c => Sys2Proof.Machine.execBrk c s
  | .btw c rd => Sys2Proof.Machine.execBtw c rd s
  | .wtb c ra => Sys2Proof.Machine.execWtb c ra s
  | .ab c imm => Sys2Proof.Machine.execAb c imm s
  | .addi c rd ra imm => Sys2Proof.Machine.execAddi c rd ra imm s
  | .andi c rd ra imm => Sys2Proof.Machine.execAndi c rd ra imm s
  | .ori c rd ra imm => Sys2Proof.Machine.execOri c rd ra imm s
  | .xori c rd ra imm => Sys2Proof.Machine.execXori c rd ra imm s
  | .movh c rd imm => Sys2Proof.Machine.execMovh c rd imm s
  | .cmpi c ra imm => Sys2Proof.Machine.execCmpi c ra imm s
  | .svc c imm => Sys2Proof.Machine.execSvc c imm s
  | .ldw c rd ra imm => Sys2Proof.Machine.execLdw c rd ra imm s
  | .ldh c rd ra imm => Sys2Proof.Machine.execLdh c rd ra imm s
  | .ldhs c rd ra imm => Sys2Proof.Machine.execLdhs c rd ra imm s
  | .ldb c rd ra imm => Sys2Proof.Machine.execLdb c rd ra imm s
  | .ldbs c rd ra imm => Sys2Proof.Machine.execLdbs c rd ra imm s
  | .stw c rd ra imm => Sys2Proof.Machine.execStw c rd ra imm s
  | .sth c rd ra imm => Sys2Proof.Machine.execSth c rd ra imm s
  | .stb c rd ra imm => Sys2Proof.Machine.execStb c rd ra imm s
  | .ton c rd ra imm => Sys2Proof.Machine.execTon c rd ra imm s
  | .tof c rd ra imm => Sys2Proof.Machine.execTof c rd ra imm s
  | .tp c rd ra imm => Sys2Proof.Machine.execTp c rd ra imm s
  | .ctu c rd ra imm => Sys2Proof.Machine.execCtu c rd ra imm s
  | .ctd c rd ra imm => Sys2Proof.Machine.execCtd c rd ra imm s
  | .b c off => Sys2Proof.Machine.execB c off s
  | .bl c off => Sys2Proof.Machine.execBl c off s
  | .bcc c cond off => Sys2Proof.Machine.execBcc c cond off s
  | .ld c addr => Sys2Proof.Machine.execLd c addr s
  | .ldn c addr => Sys2Proof.Machine.execLdn c addr s
  | .imgAnd c addr => Sys2Proof.Machine.execImgAnd c addr s
  | .imgAndn c addr => Sys2Proof.Machine.execImgAndn c addr s
  | .imgOr c addr => Sys2Proof.Machine.execImgOr c addr s
  | .orn c addr => Sys2Proof.Machine.execOrn c addr s
  | .imgXor c addr => Sys2Proof.Machine.execImgXor c addr s
  | .st c addr => Sys2Proof.Machine.execSt c addr s
  | .set c addr => Sys2Proof.Machine.execSet c addr s
  | .clr c addr => Sys2Proof.Machine.execClr c addr s
  | .re c addr => Sys2Proof.Machine.execRe c addr s
  | .fe c addr => Sys2Proof.Machine.execFe c addr s
  | .rem c addr => Sys2Proof.Machine.execRem c addr s
  | .fem c addr => Sys2Proof.Machine.execFem c addr s
  | .push c => Sys2Proof.Machine.execPush c s
  | .popa c => Sys2Proof.Machine.execPopa c s
  | .popo c => Sys2Proof.Machine.execPopo c s
  | .popx c => Sys2Proof.Machine.execPopx c s
  | .not c => Sys2Proof.Machine.execNot c s
  | .undefinedInstruction c word => Sys2Proof.Machine.execUndefinedInstruction c word s
  | .tlbInvalidateAll c => Sys2Proof.Machine.execTlbInvalidateAll c s
  | .tlbInvalidateNonglobal c => Sys2Proof.Machine.execTlbInvalidateNonglobal c s
  | .tlbInvalidateAsid c asid => Sys2Proof.Machine.execTlbInvalidateAsid c asid s
  | .tlbInvalidatePage c page => Sys2Proof.Machine.execTlbInvalidatePage c page s
  | .tlbLockPage c page => Sys2Proof.Machine.execTlbLockPage c page s
  | .lockstepInject p => Sys2Proof.Machine.execLockstepInject p s
  | .lockstepMismatch p pc unit => Sys2Proof.Machine.execLockstepMismatch p pc unit s
  | .eventTaken c => Sys2Proof.Machine.execEventTaken c s
  | .eventSourceAssert src => Sys2Proof.Machine.execEventSourceAssert src s
  | .evtTgtAckRead who t => Sys2Proof.Machine.execEvtTgtAckRead who t s
  | .evtTgtEoi who t => Sys2Proof.Machine.execEvtTgtEoi who t s
  | .evtSwtrig who idx => Sys2Proof.Machine.execEvtSwtrig who idx s
  | .evtPendClear who w value => Sys2Proof.Machine.execEvtPendClear who w value s
  | .scrubPass => Sys2Proof.Machine.execScrubPass s
  | .postedStoreBusError c => Sys2Proof.Machine.execPostedStoreBusError c s
  | .dmaStart who ch => Sys2Proof.Machine.execDmaStart who ch s
  | .dmaAbort who ch => Sys2Proof.Machine.execDmaAbort who ch s
  | .dmaResume who ch => Sys2Proof.Machine.execDmaResume who ch s
  | .dmaErrClear who ch => Sys2Proof.Machine.execDmaErrClear who ch s
  | .dmaPeripheralRequest ch => Sys2Proof.Machine.execDmaPeripheralRequest ch s
  | .dmaBeatBoundary => Sys2Proof.Machine.execDmaBeatBoundary s
  | .dmaBurstComplete ch => Sys2Proof.Machine.execDmaBurstComplete ch s
  | .dmaBurstFault ch fault => Sys2Proof.Machine.execDmaBurstFault ch fault s
  | .dmaL3waitExpiry ch => Sys2Proof.Machine.execDmaL3waitExpiry ch s
  | .iommuInv who ctx all => Sys2Proof.Machine.execIommuInv who ctx all s
  | .registerWrite who addr value => Sys2Proof.Machine.execRegisterWrite who addr value s
  | .registerReadClear who addr => Sys2Proof.Machine.execRegisterReadClear who addr s
  | .panBoundary b => Sys2Proof.Machine.execPanBoundary b s
  | .applyStrobe p => Sys2Proof.Machine.execApplyStrobe p s
  | .rakePanDone who p value => Sys2Proof.Machine.execRakePanDone who p value s
  | .overrun p => Sys2Proof.Machine.execOverrun p s
  | .hardLimitExpiry p => Sys2Proof.Machine.execHardLimitExpiry p s
  | .triggerCapture t => Sys2Proof.Machine.execTriggerCapture t s
  | .triggerCaptureDone t => Sys2Proof.Machine.execTriggerCaptureDone t s
  | .checkpointWriteDone p => Sys2Proof.Machine.execCheckpointWriteDone p s
  | .pfwSaveTimeout p => Sys2Proof.Machine.execPfwSaveTimeout p s
  | .pfwSaved => Sys2Proof.Machine.execPfwSaved s
  | .panStartStepsDone p => Sys2Proof.Machine.execPanStartStepsDone p s
  | .editStored p => Sys2Proof.Machine.execEditStored p s
  | .rakeCtrlWrite who value => Sys2Proof.Machine.execRakeCtrlWrite who value s
  | .cmdPacketDiscard tp bytes => Sys2Proof.Machine.execCmdPacketDiscard tp bytes s
  | .cmdPacketForward tp ep bytes => Sys2Proof.Machine.execCmdPacketForward tp ep bytes s
  | .cmdReplyRelay brlSrc bytes => Sys2Proof.Machine.execCmdReplyRelay brlSrc bytes s
  | .cmdForwardTimeout k => Sys2Proof.Machine.execCmdForwardTimeout k s
  | .cmdCompletion k stat payload => Sys2Proof.Machine.execCmdCompletion k stat payload s
  | .sessionNonceExpiry tp ep => Sys2Proof.Machine.execSessionNonceExpiry tp ep s
  | .sessionIdleTimeout sess => Sys2Proof.Machine.execSessionIdleTimeout sess s
  | .lockoutEnd tp => Sys2Proof.Machine.execLockoutEnd tp s
  | .maintLeaseExpiry cls => Sys2Proof.Machine.execMaintLeaseExpiry cls s
  | .resetDelayExpiry => Sys2Proof.Machine.execResetDelayExpiry s
  | .identify r => Sys2Proof.Machine.execIdentify r s
  | .getStatus r => Sys2Proof.Machine.execGetStatus r s
  | .subscribe r => Sys2Proof.Machine.execSubscribe r s
  | .reset r => Sys2Proof.Machine.execReset r s
  | .openChallenge r => Sys2Proof.Machine.execOpenChallenge r s
  | .openResponse r => Sys2Proof.Machine.execOpenResponse r s
  | .close r => Sys2Proof.Machine.execClose r s
  | .maintAcquire r => Sys2Proof.Machine.execMaintAcquire r s
  | .maintRelease r => Sys2Proof.Machine.execMaintRelease r s
  | .regRead r => Sys2Proof.Machine.execRegRead r s
  | .regWrite r => Sys2Proof.Machine.execRegWrite r s
  | .loadBlock r => Sys2Proof.Machine.execLoadBlock r s
  | .loadMap r => Sys2Proof.Machine.execLoadMap r s
  | .panMode r => Sys2Proof.Machine.execPanMode r s
  | .editStage r => Sys2Proof.Machine.execEditStage r s
  | .editCommit r => Sys2Proof.Machine.execEditCommit r s
  | .force r => Sys2Proof.Machine.execForce r s
  | .unforce r => Sys2Proof.Machine.execUnforce r s
  | .imageRead r => Sys2Proof.Machine.execImageRead r s
  | .canConfig r => Sys2Proof.Machine.execCanConfig r s
  | .canSend r => Sys2Proof.Machine.execCanSend r s
  | .canRead r => Sys2Proof.Machine.execCanRead r s
  | .routeSet r => Sys2Proof.Machine.execRouteSet r s
  | .hssSet r => Sys2Proof.Machine.execHssSet r s
  | .solRun r => Sys2Proof.Machine.execSolRun r s
  | .ledSet r => Sys2Proof.Machine.execLedSet r s
  | .dioSet r => Sys2Proof.Machine.execDioSet r s
  | .openLoadSweep r => Sys2Proof.Machine.execOpenLoadSweep r s
  | .measRead r => Sys2Proof.Machine.execMeasRead r s
  | .accCalibrate r => Sys2Proof.Machine.execAccCalibrate r s
  | .accOverride r => Sys2Proof.Machine.execAccOverride r s
  | .tokenEnrol r => Sys2Proof.Machine.execTokenEnrol r s
  | .accStatus r => Sys2Proof.Machine.execAccStatus r s
  | .attest r => Sys2Proof.Machine.execAttest r s
  | .keyLoad r => Sys2Proof.Machine.execKeyLoad r s
  | .debugChallenge r => Sys2Proof.Machine.execDebugChallenge r s
  | .debugUnlock r => Sys2Proof.Machine.execDebugUnlock r s
  | .crustRead r => Sys2Proof.Machine.execCrustRead r s
  | .crustWrite r => Sys2Proof.Machine.execCrustWrite r s
  | .counterInc r => Sys2Proof.Machine.execCounterInc r s
  | .logRead r => Sys2Proof.Machine.execLogRead r s
  | .crustCompact r => Sys2Proof.Machine.execCrustCompact r s
  | .stageBegin r => Sys2Proof.Machine.execStageBegin r s
  | .stageData r => Sys2Proof.Machine.execStageData r s
  | .stageEnd r => Sys2Proof.Machine.execStageEnd r s
  | .forward r => Sys2Proof.Machine.execForward r s
  | .confirm r => Sys2Proof.Machine.execConfirm r s
  | .updStatus r => Sys2Proof.Machine.execUpdStatus r s
  | .topology r => Sys2Proof.Machine.execTopology r s
  | .switchoverTest r => Sys2Proof.Machine.execSwitchoverTest r s
  | .timeGet r => Sys2Proof.Machine.execTimeGet r s
  | .peerEditStage r => Sys2Proof.Machine.execPeerEditStage r s
  | .peerEditCheck r => Sys2Proof.Machine.execPeerEditCheck r s
  | .peerEditCancel r => Sys2Proof.Machine.execPeerEditCancel r s
  | .peerEditCheckTimeout p => Sys2Proof.Machine.execPeerEditCheckTimeout p s
  | .hostWrite rdy room bytes => Sys2Proof.Machine.execHostWrite rdy room bytes s
  | .hostRead w tlen => Sys2Proof.Machine.execHostRead w tlen s
  | .hostPoll w => Sys2Proof.Machine.execHostPoll w s
  | .isotpFrameRx f => Sys2Proof.Machine.execIsotpFrameRx f s
  | .isotpNcrTimeout => Sys2Proof.Machine.execIsotpNcrTimeout s
  | .isotpEnable who value => Sys2Proof.Machine.execIsotpEnable who value s
  | .udpDatagramRx eth ep fragment bytes => Sys2Proof.Machine.execUdpDatagramRx eth ep fragment bytes s
  | .usbBulkOut bytes => Sys2Proof.Machine.execUsbBulkOut bytes s
  | .brlSignalDetect l => Sys2Proof.Machine.execBrlSignalDetect l s
  | .brlTrainingComplete l => Sys2Proof.Machine.execBrlTrainingComplete l s
  | .brlTrainTimeout l => Sys2Proof.Machine.execBrlTrainTimeout l s
  | .brlPeerProof l nonce peer proof => Sys2Proof.Machine.execBrlPeerProof l nonce peer proof s
  | .brlAuthTimeout l => Sys2Proof.Machine.execBrlAuthTimeout l s
  | .brlFaultExpiry l => Sys2Proof.Machine.execBrlFaultExpiry l s
  | .brlRetryExpiry l => Sys2Proof.Machine.execBrlRetryExpiry l s
  | .brlBlockLockLost l => Sys2Proof.Machine.execBrlBlockLockLost l s
  | .ringCtrlWrite who value => Sys2Proof.Machine.execRingCtrlWrite who value s
  | .ringAddrWrite who value => Sys2Proof.Machine.execRingAddrWrite who value s
  | .brlFrameRx l bytes => Sys2Proof.Machine.execBrlFrameRx l bytes s
  | .brlNakRx l seq late => Sys2Proof.Machine.execBrlNakRx l seq late s
  | .brlCommandFrame l lseq dst src hops bseq payload tag => Sys2Proof.Machine.execBrlCommandFrame l lseq dst src hops bseq payload tag s
  | .brlUpdateFrame l lseq dst src hops bseq payload tag => Sys2Proof.Machine.execBrlUpdateFrame l lseq dst src hops bseq payload tag s
  | .presenceSend => Sys2Proof.Machine.execPresenceSend s
  | .presenceRx l src hops seq => Sys2Proof.Machine.execPresenceRx l src hops seq s
  | .routeAgeOut addr => Sys2Proof.Machine.execRouteAgeOut addr s
  | .addrConflictClear => Sys2Proof.Machine.execAddrConflictClear s
  | .timeFrameSend => Sys2Proof.Machine.execTimeFrameSend s
  | .timeFrameRx l prio master depth sent => Sys2Proof.Machine.execTimeFrameRx l prio master depth sent s
  | .linkDelayMeasure l ps => Sys2Proof.Machine.execLinkDelayMeasure l ps s
  | .brlTimeHoldover => Sys2Proof.Machine.execBrlTimeHoldover s
  | .ringHsCfgWrite who value => Sys2Proof.Machine.execRingHsCfgWrite who value s
  | .heartbeatSend => Sys2Proof.Machine.execHeartbeatSend s
  | .heartbeatRx l src role pref ident hand => Sys2Proof.Machine.execHeartbeatRx l src role pref ident hand s
  | .heartbeatMiss => Sys2Proof.Machine.execHeartbeatMiss s
  | .heartbeatLoss => Sys2Proof.Machine.execHeartbeatLoss s
  | .candidateWaitExpiry => Sys2Proof.Machine.execCandidateWaitExpiry s
  | .mirrorFrameRx p record lines => Sys2Proof.Machine.execMirrorFrameRx p record lines s
  | .boundaryMarkerRx p => Sys2Proof.Machine.execBoundaryMarkerRx p s
  | .takeover => Sys2Proof.Machine.execTakeover s
  | .handoverBoundary => Sys2Proof.Machine.execHandoverBoundary s
  | .remoteResetRx l src => Sys2Proof.Machine.execRemoteResetRx l src s
  | .silenceTimeout p => Sys2Proof.Machine.execSilenceTimeout p s
  | .bridgeHoldExpiry p b => Sys2Proof.Machine.execBridgeHoldExpiry p b s
  | .bootReqRx l => Sys2Proof.Machine.execBootReqRx l s
  | .canEnable who n value => Sys2Proof.Machine.execCanEnable who n value s
  | .canDisable who n value => Sys2Proof.Machine.execCanDisable who n value s
  | .canRecover who n value => Sys2Proof.Machine.execCanRecover who n value s
  | .canTxfNWrite who n value => Sys2Proof.Machine.execCanTxfNWrite who n value s
  | .canAuthEnable who n value => Sys2Proof.Machine.execCanAuthEnable who n value s
  | .canTxreqSet who n high value => Sys2Proof.Machine.execCanTxreqSet who n high value s
  | .canTxreqClr who n high value => Sys2Proof.Machine.execCanTxreqClr who n high value s
  | .canTxfifoWrite who n wide value => Sys2Proof.Machine.execCanTxfifoWrite who n wide value s
  | .canUnfRel who n => Sys2Proof.Machine.execCanUnfRel who n s
  | .canFreshHWrite who n slot value => Sys2Proof.Machine.execCanFreshHWrite who n slot value s
  | .canIntegrated n => Sys2Proof.Machine.execCanIntegrated n s
  | .canFrameReceived n f => Sys2Proof.Machine.execCanFrameReceived n f s
  | .canHoldRelease n obj => Sys2Proof.Machine.execCanHoldRelease n obj s
  | .canRxError n lec dataPhase eight pxe => Sys2Proof.Machine.execCanRxError n lec dataPhase eight pxe s
  | .canTxSuccess n sof tdcv => Sys2Proof.Machine.execCanTxSuccess n sof tdcv s
  | .canTxError n lec dataPhase keep tdcv => Sys2Proof.Machine.execCanTxError n lec dataPhase keep tdcv s
  | .canRecovered n => Sys2Proof.Machine.execCanRecovered n s
  | .canTatDue n => Sys2Proof.Machine.execCanTatDue n s
  | .canTatLate n obj => Sys2Proof.Machine.execCanTatLate n obj s
  | .canDominantTimeout n => Sys2Proof.Machine.execCanDominantTimeout n s
  | .tideSleep who n => Sys2Proof.Machine.execTideSleep who n s
  | .tideStay who n => Sys2Proof.Machine.execTideStay who n s
  | .tideCommit who n => Sys2Proof.Machine.execTideCommit who n s
  | .tideVeto who n => Sys2Proof.Machine.execTideVeto who n s
  | .tideWake who n => Sys2Proof.Machine.execTideWake who n s
  | .tideForceSleep who n => Sys2Proof.Machine.execTideForceSleep who n s
  | .tideCfgWrite who n value => Sys2Proof.Machine.execTideCfgWrite who n value s
  | .tideQuorumTick => Sys2Proof.Machine.execTideQuorumTick s
  | .scfSendPeriod n => Sys2Proof.Machine.execScfSendPeriod n s
  | .tideFailsafeExpiry n => Sys2Proof.Machine.execTideFailsafeExpiry n s
  | .tideDrainExpiry n => Sys2Proof.Machine.execTideDrainExpiry n s
  | .toLowComplete n => Sys2Proof.Machine.execToLowComplete n s
  | .lateWake n => Sys2Proof.Machine.execLateWake n s
  | .wupPattern n => Sys2Proof.Machine.execWupPattern n s
  | .dominantWake n => Sys2Proof.Machine.execDominantWake n s
  | .wakeUpFrame n f => Sys2Proof.Machine.execWakeUpFrame n f s
  | .fecOverflowWake n => Sys2Proof.Machine.execFecOverflowWake n s
  | .wufFrameDecoded n fd ok => Sys2Proof.Machine.execWufFrameDecoded n fd ok s
  | .busSilence n => Sys2Proof.Machine.execBusSilence n s
  | .floodDone n => Sys2Proof.Machine.execFloodDone n s
  | .floodFail n => Sys2Proof.Machine.execFloodFail n s
  | .sluiceLookup => Sys2Proof.Machine.execSluiceLookup s
  | .sluiceBrlFrameRx h payload => Sys2Proof.Machine.execSluiceBrlFrameRx h payload s
  | .sluiceRtWrite who => Sys2Proof.Machine.execSluiceRtWrite who s
  | .sluiceRtRead who => Sys2Proof.Machine.execSluiceRtRead who s
  | .sluiceOwnWrite who reg value => Sys2Proof.Machine.execSluiceOwnWrite who reg value s
  | .ethCfgModeWrite who n value => Sys2Proof.Machine.execEthCfgModeWrite who n value s
  | .ethBallRelease n => Sys2Proof.Machine.execEthBallRelease n s
  | .ethLinkChange n up speed half queued => Sys2Proof.Machine.execEthLinkChange n up speed half queued s
  | .ethFrameRx m fcsOk len da vid extra known => Sys2Proof.Machine.execEthFrameRx m fcsOk len da vid extra known s
  | .arpRequest n sha spa tpa => Sys2Proof.Machine.execArpRequest n sha spa tpa s
  | .icmpEcho n sha spa tpa rest => Sys2Proof.Machine.execIcmpEcho n sha spa tpa rest s
  | .ptpSyncRx m domain seq twoStep origin ago => Sys2Proof.Machine.execPtpSyncRx m domain seq twoStep origin ago s
  | .ptpDelayRespRx m domain seq received => Sys2Proof.Machine.execPtpDelayRespRx m domain seq received s
  | .ptpPdelayReqRx m domain seq ago sent => Sys2Proof.Machine.execPtpPdelayReqRx m domain seq ago sent s
  | .ptpPdelayRespRx m domain seq twoStep reqRx ago => Sys2Proof.Machine.execPtpPdelayRespRx m domain seq twoStep reqRx ago s
  | .ethDescriptorBusError n => Sys2Proof.Machine.execEthDescriptorBusError n s
  | .mdioGo who value => Sys2Proof.Machine.execMdioGo who value s
  | .mdioDone data => Sys2Proof.Machine.execMdioDone data s
  | .timeOffsetMeasure src offs => Sys2Proof.Machine.execTimeOffsetMeasure src offs s
  | .timeStepWrite who low high => Sys2Proof.Machine.execTimeStepWrite who low high s
  | .ptpHoldover => Sys2Proof.Machine.execPtpHoldover s
  | .timeNowRead who => Sys2Proof.Machine.execTimeNowRead who s
  | .hssCtrlEnWrite who en => Sys2Proof.Machine.execHssCtrlEnWrite who en s
  | .hssCmdDuty who n duty => Sys2Proof.Machine.execHssCmdDuty who n duty s
  | .hssCmdClear who n duty => Sys2Proof.Machine.execHssCmdClear who n duty s
  | .hssParWrite who n par => Sys2Proof.Machine.execHssParWrite who n par s
  | .hssPwmHzWrite who g hz => Sys2Proof.Machine.execHssPwmHzWrite who g hz s
  | .hssPeriodStart n => Sys2Proof.Machine.execHssPeriodStart n s
  | .hssOnTimeEnd n => Sys2Proof.Machine.execHssOnTimeEnd n s
  | .hssGroupUndervoltage g => Sys2Proof.Machine.execHssGroupUndervoltage g s
  | .hssGroupOvervoltage g => Sys2Proof.Machine.execHssGroupOvervoltage g s
  | .hssGroupRestart g => Sys2Proof.Machine.execHssGroupRestart g s
  | .hssRestartSlot n => Sys2Proof.Machine.execHssRestartSlot n s
  | .hssReducedChange g reduced => Sys2Proof.Machine.execHssReducedChange g reduced s
  | .hssOvertemp n => Sys2Proof.Machine.execHssOvertemp n s
  | .hssLimitStart x => Sys2Proof.Machine.execHssLimitStart x s
  | .hssLimitEnd n => Sys2Proof.Machine.execHssLimitEnd n s
  | .hssLimitTimerExpiry n => Sys2Proof.Machine.execHssLimitTimerExpiry n s
  | .hssBlankExpiry n => Sys2Proof.Machine.execHssBlankExpiry n s
  | .hssQoffExpiry n => Sys2Proof.Machine.execHssQoffExpiry n s
  | .hssRetryExpiry n => Sys2Proof.Machine.execHssRetryExpiry n s
  | .hssRclrExpiry n => Sys2Proof.Machine.execHssRclrExpiry n s
  | .hssCurrentSample n code => Sys2Proof.Machine.execHssCurrentSample n code s
  | .hssRangeChangeDone n code => Sys2Proof.Machine.execHssRangeChangeDone n code s
  | .hssTempSample n tj warn hot => Sys2Proof.Machine.execHssTempSample n tj warn hot s
  | .hssOffstateTest n pullup above => Sys2Proof.Machine.execHssOffstateTest n pullup above s
  | .hssSweepDone opens shortL shortH => Sys2Proof.Machine.execHssSweepDone opens shortL shortH s
  | .solCtrlEnWrite who en => Sys2Proof.Machine.execSolCtrlEnWrite who en s
  | .solCmdCode who n code => Sys2Proof.Machine.execSolCmdCode who n code s
  | .solCmdClear who n => Sys2Proof.Machine.execSolCmdClear who n s
  | .solCmdRelease who n => Sys2Proof.Machine.execSolCmdRelease who n s
  | .solCmdFlush who n => Sys2Proof.Machine.execSolCmdFlush who n s
  | .solProfileWrite who p k b => Sys2Proof.Machine.execSolProfileWrite who p k b s
  | .solParWrite who n par => Sys2Proof.Machine.execSolParWrite who n par s
  | .solDutyWrite who n dmax dwin => Sys2Proof.Machine.execSolDutyWrite who n dmax dwin s
  | .solCommandTaken n => Sys2Proof.Machine.execSolCommandTaken n s
  | .solDue n => Sys2Proof.Machine.execSolDue n s
  | .solLate n ii => Sys2Proof.Machine.execSolLate n ii s
  | .solPhaseEnd n => Sys2Proof.Machine.execSolPhaseEnd n s
  | .solReleaseLimit n => Sys2Proof.Machine.execSolReleaseLimit n s
  | .solChopPeriod n => Sys2Proof.Machine.execSolChopPeriod n s
  | .solCurrentTarget n => Sys2Proof.Machine.execSolCurrentTarget n s
  | .solDrainDone n => Sys2Proof.Machine.execSolDrainDone n s
  | .solToffExpiry n => Sys2Proof.Machine.execSolToffExpiry n s
  | .solKinkSample n ii mean v => Sys2Proof.Machine.execSolKinkSample n ii mean v s
  | .solOvercurrent n => Sys2Proof.Machine.execSolOvercurrent n s
  | .solOpenCoil n => Sys2Proof.Machine.execSolOpenCoil n s
  | .solOvertemp n => Sys2Proof.Machine.execSolOvertemp n s
  | .vsolUndervoltage => Sys2Proof.Machine.execVsolUndervoltage s
  | .vsolRestart => Sys2Proof.Machine.execVsolRestart s
  | .solBucketOpen n => Sys2Proof.Machine.execSolBucketOpen n s
  | .dioCtrlEnWrite who en => Sys2Proof.Machine.execDioCtrlEnWrite who en s
  | .dioCmdOut who n out => Sys2Proof.Machine.execDioCmdOut who n out s
  | .dioCmdClear who n out => Sys2Proof.Machine.execDioCmdClear who n out s
  | .dioCfgWrite who n value => Sys2Proof.Machine.execDioCfgWrite who n value s
  | .dioInputChange n x => Sys2Proof.Machine.execDioInputChange n x s
  | .dioWireBreakChange n x => Sys2Proof.Machine.execDioWireBreakChange n x s
  | .dioReadbackMismatch n => Sys2Proof.Machine.execDioReadbackMismatch n s
  | .vdioUndervoltage => Sys2Proof.Machine.execVdioUndervoltage s
  | .vdioRestart => Sys2Proof.Machine.execVdioRestart s
  | .vdioRedChange red => Sys2Proof.Machine.execVdioRedChange red s
  | .dioOvertemp n hot => Sys2Proof.Machine.execDioOvertemp n hot s
  | .dioLimitExpiry n => Sys2Proof.Machine.execDioLimitExpiry n s
  | .ntcConversion ii v => Sys2Proof.Machine.execNtcConversion ii v s
  | .supplySample ii mv => Sys2Proof.Machine.execSupplySample ii mv s
  | .ledCtrlEnWrite who en => Sys2Proof.Machine.execLedCtrlEnWrite who en s
  | .ledCmdWrite who n cur duty => Sys2Proof.Machine.execLedCmdWrite who n cur duty s
  | .ledGrpMaskWrite who g mask => Sys2Proof.Machine.execLedGrpMaskWrite who g mask s
  | .ledGrpClear who g => Sys2Proof.Machine.execLedGrpClear who g s
  | .lmxEnWrite who en => Sys2Proof.Machine.execLmxEnWrite who en s
  | .lmxClear who => Sys2Proof.Machine.execLmxClear who s
  | .lmxLevelWrite who r q value => Sys2Proof.Machine.execLmxLevelWrite who r q value s
  | .ledPeriodStart n => Sys2Proof.Machine.execLedPeriodStart n s
  | .ledOnphaseCheck n mv low drop => Sys2Proof.Machine.execLedOnphaseCheck n mv low drop s
  | .ledHeadroomUpdate v vlow => Sys2Proof.Machine.execLedHeadroomUpdate v vlow s
  | .ledCurveUpdate => Sys2Proof.Machine.execLedCurveUpdate s
  | .ledOvertemp => Sys2Proof.Machine.execLedOvertemp s
  | .ledOvertempRecover => Sys2Proof.Machine.execLedOvertempRecover s
  | .lmxFrameStart => Sys2Proof.Machine.execLmxFrameStart s
  | .lmxRowSlot r x => Sys2Proof.Machine.execLmxRowSlot r x s
  | .lmxRowOvercurrent => Sys2Proof.Machine.execLmxRowOvercurrent s
  | .accCtrlEnWrite who value => Sys2Proof.Machine.execAccCtrlEnWrite who value s
  | .accLockEnWrite who value => Sys2Proof.Machine.execAccLockEnWrite who value s
  | .accDoorWrite who value => Sys2Proof.Machine.execAccDoorWrite who value s
  | .accCalWrite who z p high value => Sys2Proof.Machine.execAccCalWrite who z p high value s
  | .accScanDue => Sys2Proof.Machine.execAccScanDue s
  | .accCodeStart => Sys2Proof.Machine.execAccCodeStart s
  | .accQuietWindowEnd a mv => Sys2Proof.Machine.execAccQuietWindowEnd a mv s
  | .accBurstEnd a ma => Sys2Proof.Machine.execAccBurstEnd a ma s
  | .accRepeatDue => Sys2Proof.Machine.execAccRepeatDue s
  | .accReplyRx frame rssi => Sys2Proof.Machine.execAccReplyRx frame rssi s
  | .accScanEnd => Sys2Proof.Machine.execAccScanEnd s
  | .accLockoutEnd => Sys2Proof.Machine.execAccLockoutEnd s
  | .accFailAgeOut => Sys2Proof.Machine.execAccFailAgeOut s
  | .accSessionTimeout => Sys2Proof.Machine.execAccSessionTimeout s
  | .accArmExpiry => Sys2Proof.Machine.execAccArmExpiry s
  | .transponderPoll x => Sys2Proof.Machine.execTransponderPoll x s
  | .enclOpStart => Sys2Proof.Machine.execEnclOpStart s
  | .mbRandom who c n => Sys2Proof.Machine.execMbRandom who c n s
  | .mbLoad who c slot auto n => Sys2Proof.Machine.execMbLoad who c slot auto n s
  | .mbClear who c slot n => Sys2Proof.Machine.execMbClear who c slot n s
  | .mbGen who c slot auto n => Sys2Proof.Machine.execMbGen who c slot auto n s
  | .gcmEnc who c slot n => Sys2Proof.Machine.execGcmEnc who c slot n s
  | .gcmDec who c slot n => Sys2Proof.Machine.execGcmDec who c slot n s
  | .mbCmac who c slot n => Sys2Proof.Machine.execMbCmac who c slot n s
  | .sign who c slot n => Sys2Proof.Machine.execSign who c slot n s
  | .verify who c n => Sys2Proof.Machine.execVerify who c n s
  | .ecdh who c slot n => Sys2Proof.Machine.execEcdh who c slot n s
  | .hkdf who c slot n => Sys2Proof.Machine.execHkdf who c slot n s
  | .hash who c n => Sys2Proof.Machine.execHash who c n s
  | .extend who c n => Sys2Proof.Machine.execExtend who c n s
  | .mbAttest who c n => Sys2Proof.Machine.execMbAttest who c n s
  | .enclOpDone => Sys2Proof.Machine.execEnclOpDone s
  | .enclTamper cause => Sys2Proof.Machine.execEnclTamper cause s
  | .trngFailure => Sys2Proof.Machine.execTrngFailure s
  | .trngRecovery => Sys2Proof.Machine.execTrngRecovery s
  | .crustRdreqGo who key counter => Sys2Proof.Machine.execCrustRdreqGo who key counter s
  | .crustWportRequest who words => Sys2Proof.Machine.execCrustWportRequest who words s
  | .crustRecordWritten ok => Sys2Proof.Machine.execCrustRecordWritten ok s
  | .crustLogEntry code arg => Sys2Proof.Machine.execCrustLogEntry code arg s
  | .crustOpenDone index torn => Sys2Proof.Machine.execCrustOpenDone index torn s
  | .crustVerifyDone damaged => Sys2Proof.Machine.execCrustVerifyDone damaged s
  | .crustBackgroundCompact => Sys2Proof.Machine.execCrustBackgroundCompact s
  | .crustCompactionDone => Sys2Proof.Machine.execCrustCompactionDone s
  | .crustEraseDone ok => Sys2Proof.Machine.execCrustEraseDone ok s
  | .crustSpaceWaitExpiry => Sys2Proof.Machine.execCrustSpaceWaitExpiry s
  | .stageApplyDone => Sys2Proof.Machine.execStageApplyDone s
  | .updResetDue => Sys2Proof.Machine.execUpdResetDue s
  | .trialHealthy => Sys2Proof.Machine.execTrialHealthy s
  | .trialDeadlineExpiry => Sys2Proof.Machine.execTrialDeadlineExpiry s
  | .updUnfitWrite who value => Sys2Proof.Machine.execUpdUnfitWrite who value s
  | .forwardPeerDone addr stat => Sys2Proof.Machine.execForwardPeerDone addr stat s
  | .forwardDone => Sys2Proof.Machine.execForwardDone s
  | .usbsCtrlWrite who value => Sys2Proof.Machine.execUsbsCtrlWrite who value s
  | .usbVbusChange present => Sys2Proof.Machine.execUsbVbusChange present s
  | .usbConfigure configured hs => Sys2Proof.Machine.execUsbConfigure configured hs s
  | .recoveryLoader bytes => Sys2Proof.Machine.execRecoveryLoader bytes s
  | .powerOn => Sys2Proof.Machine.execPowerOn s
  | .railStepDone => Sys2Proof.Machine.execRailStepDone s
  | .railStepTimeout => Sys2Proof.Machine.execRailStepTimeout s
  | .railRetryExpiry => Sys2Proof.Machine.execRailRetryExpiry s
  | .pwrGoodLost vcore => Sys2Proof.Machine.execPwrGoodLost vcore s
  | .pdOffWrite who value => Sys2Proof.Machine.execPdOffWrite who value s
  | .pdSwitchOnDone d good => Sys2Proof.Machine.execPdSwitchOnDone d good s
  | .parkGo who => Sys2Proof.Machine.execParkGo who s
  | .parkStepDone => Sys2Proof.Machine.execParkStepDone s
  | .parkFlushTimeout => Sys2Proof.Machine.execParkFlushTimeout s
  | .parkWake src detail can => Sys2Proof.Machine.execParkWake src detail can s
  | .wakePin k => Sys2Proof.Machine.execWakePin k s
  | .dioWakeSample n level => Sys2Proof.Machine.execDioWakeSample n level s
  | .rtcAlarmDue k => Sys2Proof.Machine.execRtcAlarmDue k s
  | .rtcAlarmLate k => Sys2Proof.Machine.execRtcAlarmLate k s
  | .rtcAlarmEnable who k value => Sys2Proof.Machine.execRtcAlarmEnable who k value s
  | .powerFailWarning => Sys2Proof.Machine.execPowerFailWarning s
  | .powerFailClear => Sys2Proof.Machine.execPowerFailClear s
  | .vaonBrownOut => Sys2Proof.Machine.execVaonBrownOut s
  | .thermalSample t trip => Sys2Proof.Machine.execThermalSample t trip s
  | .thermalHoldRelease => Sys2Proof.Machine.execThermalHoldRelease s
  | .referenceLoss => Sys2Proof.Machine.execReferenceLoss s
  | .pllUnlock pll => Sys2Proof.Machine.execPllUnlock pll s
  | .serdesUnlock => Sys2Proof.Machine.execSerdesUnlock s
  | .serdesRelockRetry good => Sys2Proof.Machine.execSerdesRelockRetry good s
  | .usbPllUnlock => Sys2Proof.Machine.execUsbPllUnlock s
  | .rtcOscLoss => Sys2Proof.Machine.execRtcOscLoss s
  | .rtcSecond => Sys2Proof.Machine.execRtcSecond s
  | .rtcSecWrite who value => Sys2Proof.Machine.execRtcSecWrite who value s
  | .resetNPulse => Sys2Proof.Machine.execResetNPulse s
  | .resetSourcesTaken => Sys2Proof.Machine.execResetSourcesTaken s
  | .l3DrainDone ii => Sys2Proof.Machine.execL3DrainDone ii s
  | .l3ResetEnd ii => Sys2Proof.Machine.execL3ResetEnd ii s
  | .stewardRelease straps => Sys2Proof.Machine.execStewardRelease straps s
  | .swrstWrite who value => Sys2Proof.Machine.execSwrstWrite who value s
  | .wdtKick who k value => Sys2Proof.Machine.execWdtKick who k value s
  | .wdtHalfPeriod k => Sys2Proof.Machine.execWdtHalfPeriod k s
  | .wdtExpiry k => Sys2Proof.Machine.execWdtExpiry k s
  | .optWrite who => Sys2Proof.Machine.execOptWrite who s
  | .optWriteDone good => Sys2Proof.Machine.execOptWriteDone good s
  | .pinownQresWrite who res => Sys2Proof.Machine.execPinownQresWrite who res s
  | .gpioCmdWrite who n out => Sys2Proof.Machine.execGpioCmdWrite who n out s
  | .gpioEdge n level => Sys2Proof.Machine.execGpioEdge n level s
  | .dbgLineReset => Sys2Proof.Machine.execDbgLineReset s
  | .dbgTransaction rnw addr hpar data dpar => Sys2Proof.Machine.execDbgTransaction rnw addr hpar data dpar s
  | .dbgHalt c => Sys2Proof.Machine.execDbgHalt c s
  | .dbgResume c => Sys2Proof.Machine.execDbgResume c s
  | .dbgStep c => Sys2Proof.Machine.execDbgStep c s
  | .dbgRdataAccess c wr => Sys2Proof.Machine.execDbgRdataAccess c wr s
  | .dbgMemAccess wr => Sys2Proof.Machine.execDbgMemAccess wr s
  | .dbgRst value => Sys2Proof.Machine.execDbgRst value s
  | .dbgEvtWrite who value => Sys2Proof.Machine.execDbgEvtWrite who value s
  | .tapReset => Sys2Proof.Machine.execTapReset s
  | .idcode => Sys2Proof.Machine.execIdcode s
  | .samplePreload balls load => Sys2Proof.Machine.execSamplePreload balls load s
  | .extest => Sys2Proof.Machine.execExtest s
  | .clamp => Sys2Proof.Machine.execClamp s
  | .highz => Sys2Proof.Machine.execHighz s
  | .bypass => Sys2Proof.Machine.execBypass s
  | .resetNRelease => Sys2Proof.Machine.execResetNRelease s
  | .rtcOscRestore => Sys2Proof.Machine.execRtcOscRestore s
  | .ptpFollowUpRx m domain seq peer origin => Sys2Proof.Machine.execPtpFollowUpRx m domain seq peer origin s
  | .ptpDelayReqSend n ago => Sys2Proof.Machine.execPtpDelayReqSend n ago s
  | .dioCurrentLimit n limit => Sys2Proof.Machine.execDioCurrentLimit n limit s
  | .solJunctionWarning n tj warn hot => Sys2Proof.Machine.execSolJunctionWarning n tj warn hot s
  | .cmdAcceptedDeadline k => Sys2Proof.Machine.execCmdAcceptedDeadline k s
  | .bootReqSend l => Sys2Proof.Machine.execBootReqSend l s
  | .brlAckRx l seq => Sys2Proof.Machine.execBrlAckRx l seq s

end Sys2Proof.Machine
end

