-- ==== Sys2Proof/Safety.lean ====
section
/-! DEFINITION. What counts as a safe state and a safe run, in the terms the statements use. -/
namespace Sys2Proof.Machine

/-- A register file in its one form: addresses rising, no register listed at its reset word (R8). -/
def regsWf : List (Nat × Word) → Bool
  | [] => true
  | (k, w) :: r => decide (w ≠ resetWord k) && (match r with | [] => true | (j, _) :: _ => decide (k < j)) && regsWf r

/-- The three stores of the block are each in their one form, so that equal contents are equal data. -/
def State.Canonical (s : State) : Prop := memWf s.mem = true ∧ memWf s.stewRam = true ∧ regsWf s.regs = true

/-! What the statements say of a core that executes an instruction. -/

/-- Core `c` issues the instruction at its PC (R74, R94, R489): it runs or its wait has ended, no breakpoint holds it, its fetch
gives a word and leaves `s0`, and no mismatch is injected into it. `s.begins c` is `s` with the wait over and the core's clock
counted up to now (R62). -/
structure Issues (c : CoreId) (s s0 : State) : Prop where
  issues : s.issues c = true
  noBp : tblGet s.dbg.skip c.num = true ∨ (s.begins c).dbgBp c = none
  fetch : ∃ w, (s.begins c).fetch c = (s0, .ok w)
  noInj : (s0.core c).lsInj = false

/-- `s` with core `c` in state `k`, an instruction of it completed; nothing else but the breakpoint skip of R488 changes. -/
def State.fkDone (s : State) (c : CoreId) (k : FkCore) : State :=
  { s.setCore c k with dbg := { s.dbg with skip := tblSet s.dbg.skip c.num false } }

/-- The core after an instruction of `cyc` issue cycles: `k1` is `k` with the instruction's results, `pc` what it executes next.
An atomic block in force counts the instruction (R75). -/
def FkCore.after (k1 k : FkCore) (cyc : Nat) (pc : Word) : FkCore := { k1.abStep k.abn cyc with pc := pc }

/-- Command `i` executes an instruction of core `c` that always completes, changes that core alone as `f` says, and goes on with
the next instruction. -/
def FkPure (c : CoreId) (i : Instr) (cyc : Nat) (f : FkCore → FkCore) : Prop :=
  ∀ s s0, Issues c s s0 → exec i s = .next (s0.fkDone c ((f (s0.core c)).after (s0.core c) cyc ((s0.core c).pc + 4#32)))

/-- The same under a condition on the core. -/
def FkPureIf (c : CoreId) (i : Instr) (cyc : Nat) (p : FkCore → Prop) (f : FkCore → FkCore) : Prop :=
  ∀ s s0, Issues c s s0 → p (s0.core c) →
    exec i s = .next (s0.fkDone c ((f (s0.core c)).after (s0.core c) cyc ((s0.core c).pc + 4#32)))

/-- Command `i`, where `p` holds of the core, completes in `cyc p` issue cycles, changes the core as `f` says and goes on at `tgt`. -/
def FkGoes (c : CoreId) (i : Instr) (p : FkCore → Prop) (cyc : FkCore → Nat) (f : FkCore → FkCore) (tgt : FkCore → Word) : Prop :=
  ∀ s s0, Issues c s s0 → p (s0.core c) →
    exec i s = .next (s0.fkDone c ((f (s0.core c)).after (s0.core c) (cyc (s0.core c)) (tgt (s0.core c))))

/-- `s` with the breakpoint skip of R488 spent for core `c`: what an instruction that raises an exception leaves before the entry. -/
def State.skipSpent (s : State) (c : CoreId) : State := { s with dbg := { s.dbg with skip := tblSet s.dbg.skip c.num false } }

/-- Command `i` makes core `c` raise exception `e` at its instruction whenever `p` holds of the core: its issue cycle (R516) and the
entry of R93, nothing else. -/
def FkRaises (c : CoreId) (i : Instr) (p : FkCore → Prop) (e : FkCore → Exc) : Prop :=
  ∀ s s0, Issues c s s0 → p (s0.core c) → exec i s = .next (((s0.skipSpent c).issueOne c (e (s0.core c))).fkExc c (e (s0.core c)))

/-- No watchpoint of core `c` is armed (R489), so a data access of it halts nothing. -/
def State.noWp (s : State) (c : CoreId) : Prop := ∀ j, j < 4 → s.flag (F.DBG_CORE_WP_CFG_EN c.num j) = false

/-! What the statements say of a command packet. -/

/-- The request rows: the packet's parts, and the group and opcode of R39 that the row stands for. -/
def reqOf : Instr → Option (Req × Nat × Nat)
  | .identify r => some (r, 1, 1)
  | .getStatus r => some (r, 1, 2)
  | .subscribe r => some (r, 1, 3)
  | .reset r => some (r, 1, 4)
  | .openChallenge r => some (r, 2, 1)
  | .openResponse r => some (r, 2, 2)
  | .close r => some (r, 2, 3)
  | .maintAcquire r => some (r, 2, 4)
  | .maintRelease r => some (r, 2, 5)
  | .regRead r => some (r, 3, 1)
  | .regWrite r => some (r, 3, 2)
  | .loadBlock r => some (r, 4, 1)
  | .loadMap r => some (r, 4, 2)
  | .panMode r => some (r, 4, 3)
  | .editStage r => some (r, 4, 4)
  | .editCommit r => some (r, 4, 5)
  | .force r => some (r, 4, 6)
  | .unforce r => some (r, 4, 7)
  | .imageRead r => some (r, 4, 8)
  | .canConfig r => some (r, 5, 1)
  | .canSend r => some (r, 5, 2)
  | .canRead r => some (r, 5, 3)
  | .routeSet r => some (r, 5, 4)
  | .hssSet r => some (r, 6, 1)
  | .solRun r => some (r, 6, 2)
  | .ledSet r => some (r, 6, 3)
  | .dioSet r => some (r, 6, 4)
  | .openLoadSweep r => some (r, 6, 5)
  | .measRead r => some (r, 6, 6)
  | .accCalibrate r => some (r, 7, 1)
  | .accOverride r => some (r, 7, 2)
  | .tokenEnrol r => some (r, 7, 3)
  | .accStatus r => some (r, 7, 4)
  | .attest r => some (r, 8, 1)
  | .keyLoad r => some (r, 8, 2)
  | .debugChallenge r => some (r, 8, 3)
  | .debugUnlock r => some (r, 8, 4)
  | .crustRead r => some (r, 9, 1)
  | .crustWrite r => some (r, 9, 2)
  | .counterInc r => some (r, 9, 3)
  | .logRead r => some (r, 9, 4)
  | .crustCompact r => some (r, 9, 5)
  | .stageBegin r => some (r, 10, 1)
  | .stageData r => some (r, 10, 2)
  | .stageEnd r => some (r, 10, 3)
  | .forward r => some (r, 10, 4)
  | .confirm r => some (r, 10, 5)
  | .updStatus r => some (r, 10, 6)
  | .topology r => some (r, 11, 1)
  | .switchoverTest r => some (r, 11, 2)
  | .timeGet r => some (r, 11, 3)
  | .peerEditStage r => some (r, 11, 4)
  | .peerEditCheck r => some (r, 11, 5)
  | .peerEditCancel r => some (r, 11, 6)
  | _ => none

/-- The register rows, whose command is one write or read of a block register by an initiator. -/
def whoOf : Instr → Option Who
  | .evtTgtAckRead who _ => some who
  | .evtTgtEoi who _ => some who
  | .evtSwtrig who _ => some who
  | .evtPendClear who _ _ => some who
  | .dmaStart who _ => some who
  | .dmaAbort who _ => some who
  | .dmaResume who _ => some who
  | .dmaErrClear who _ => some who
  | .iommuInv who _ _ => some who
  | .rakePanDone who _ _ => some who
  | .rakeCtrlWrite who _ => some who
  | .isotpEnable who _ => some who
  | .ringCtrlWrite who _ => some who
  | .ringAddrWrite who _ => some who
  | .ringHsCfgWrite who _ => some who
  | .canEnable who _ _ => some who
  | .canDisable who _ _ => some who
  | .canRecover who _ _ => some who
  | .canTxfNWrite who _ _ => some who
  | .canAuthEnable who _ _ => some who
  | .canTxreqSet who _ _ _ => some who
  | .canTxreqClr who _ _ _ => some who
  | .canTxfifoWrite who _ _ _ => some who
  | .canUnfRel who _ => some who
  | .canFreshHWrite who _ _ _ => some who
  | .tideCfgWrite who _ _ => some who
  | .sluiceRtWrite who => some who
  | .sluiceRtRead who => some who
  | .sluiceOwnWrite who _ _ => some who
  | .ethCfgModeWrite who _ _ => some who
  | .mdioGo who _ => some who
  | .timeStepWrite who _ _ => some who
  | .timeNowRead who => some who
  | .hssCtrlEnWrite who _ => some who
  | .hssCmdDuty who _ _ => some who
  | .hssCmdClear who _ _ => some who
  | .hssParWrite who _ _ => some who
  | .hssPwmHzWrite who _ _ => some who
  | .solCtrlEnWrite who _ => some who
  | .solCmdCode who _ _ => some who
  | .solCmdClear who _ => some who
  | .solCmdRelease who _ => some who
  | .solCmdFlush who _ => some who
  | .solProfileWrite who _ _ _ => some who
  | .solParWrite who _ _ => some who
  | .solDutyWrite who _ _ _ => some who
  | .dioCtrlEnWrite who _ => some who
  | .dioCmdOut who _ _ => some who
  | .dioCmdClear who _ _ => some who
  | .dioCfgWrite who _ _ => some who
  | .ledCtrlEnWrite who _ => some who
  | .ledCmdWrite who _ _ _ => some who
  | .ledGrpMaskWrite who _ _ => some who
  | .ledGrpClear who _ => some who
  | .lmxEnWrite who _ => some who
  | .lmxClear who => some who
  | .lmxLevelWrite who _ _ _ => some who
  | .accCtrlEnWrite who _ => some who
  | .accLockEnWrite who _ => some who
  | .accDoorWrite who _ => some who
  | .accCalWrite who _ _ _ _ => some who
  | .crustRdreqGo who _ _ => some who
  | .crustWportRequest who _ => some who
  | .updUnfitWrite who _ => some who
  | .usbsCtrlWrite who _ => some who
  | .pdOffWrite who _ => some who
  | .parkGo who => some who
  | .rtcAlarmEnable who _ _ => some who
  | .rtcSecWrite who _ => some who
  | .swrstWrite who _ => some who
  | .wdtKick who _ _ => some who
  | .optWrite who => some who
  | .pinownQresWrite who _ => some who
  | .gpioCmdWrite who _ _ => some who
  | _ => none

/-- The key of a request (R34). -/
def rkeyOf (r : Req) : RKey := ⟨r.tp.val, r.ep, r.seq.toNat⟩

/-- The session of an accepted request has been used now (R45). -/
def State.sessUsed (s : State) : Option Sess → State
  | some y => { s with cmd := { s.cmd with sess := s.cmd.sess.map (fun (z : Sess) => if z.id == y.id then { z with lastAt := s.now } else z) } }
  | none => s

/-- A request taken as new: its SEQ accepted, itself among the outstanding requests (R34, R35). -/
def State.begun (s : State) (tp ep : Nat) (p : Pkt) : State :=
  let s1 := s.acceptSeq tp ep p.seq
  let o : Outst := { tp := tp, ep := ep, seq := p.seq, src := p.src % 4096, grp := p.grp, op := p.op, sess := p.sess, accepted := false }
  ({ s1 with cmd := { s1.cmd with outst := s1.cmd.outst ++ [o] } }).syncOut tp

/-- Request `r` for an opcode passes every check of R32 to R35, R43, R45, R46 and R49: its transport is on and carries its length, it is
addressed to this device, the session checks let it go on with session `x`, its SEQ is new, and fewer than 32 requests are outstanding. Its opcode's
own work starts in `s1`. -/
structure Started (s : State) (r : Req) (grp op : Nat) (x : Option Sess) (s1 : State) : Prop where
  on : s.tpOn r.tp.val = true
  here : r.dst = 0#12 ∨ r.dst.toNat = s.ownAddr
  single : r.dst ≠ 0xFFF#12
  fits : s.fits r.tp.val (reqPkt r grp op) = true
  listed : ∃ i, opInfo grp op = some i ∧ s.sessCheck r.tp.val r.ep (reqPkt r grp op) i = .go x
  isNew : (s.sessUsed x).seqClass r.tp.val r.ep r.seq.toNat = .new
  room : (s.sessUsed x).outCount r.tp.val < 32
  after : s1 = (s.sessUsed x).begun r.tp.val r.ep (reqPkt r grp op)

/-- A run of `n` steps that stops nowhere. -/
def runs : Nat → State → State → Prop
  | 0, s, t => s = t
  | n + 1, s, t => ∃ u, step s = .next u ∧ runs n u t

end Sys2Proof.Machine
end

