-- ==== Sys2Proof/WellFormed.lean ====
section
/-! DEFINITION. Well-formed commands: operands that a sender can present. The operand types bound register numbers, channels and
fields; what they cannot bound is checked here. -/
namespace Sys2Proof

/-- An endpoint that a transport has (R49): the port, the USB connection and the identifier pair are one each; a source IPv4
address and UDP port make 48 bits; a Brineline source is a 12-bit address. -/
def epOk (tp : Fin 6) (ep : Nat) : Bool :=
  match tp.val with
  | 1 | 2 => decide (ep < 2 ^ 48)
  | 4 => decide (ep < 0xFFF)
  | _ => ep == 0

/-- A request packet that can be framed: at most 4,096 bytes of payload (R30); a tag has 8 bytes (R45). -/
def Req.wf (r : Req) : Bool :=
  epOk r.tp r.ep &&
  decide (r.payload.length ≤ 4096) &&
  (match r.tag with
   | none => true
   | some t => t.length == 8)

/-- A key whose endpoint its transport has. -/
def ReqKey.wf (k : ReqKey) : Bool := epOk k.tp k.ep

/-- A received frame carries at most 64 data bytes (R204). -/
def CanFrame.wf (f : CanFrame) : Bool := decide (f.data.length ≤ 64)

/-- The command can be presented. -/
def Instr.wf : Instr → Bool
  | .add _ _ _ _ => true
  | .adc _ _ _ _ => true
  | .sub _ _ _ _ => true
  | .sbc _ _ _ _ => true
  | .and _ _ _ _ => true
  | .or _ _ _ _ => true
  | .xor _ _ _ _ => true
  | .andn _ _ _ _ => true
  | .shl _ _ _ _ => true
  | .shr _ _ _ _ => true
  | .sar _ _ _ _ => true
  | .ror _ _ _ _ => true
  | .shli _ _ _ _ => true
  | .shri _ _ _ _ => true
  | .sari _ _ _ _ => true
  | .cmp _ _ _ => true
  | .mul _ _ _ _ => true
  | .mulhu _ _ _ _ => true
  | .mulhs _ _ _ _ => true
  | .divu _ _ _ _ => true
  | .divs _ _ _ _ => true
  | .remu _ _ _ _ => true
  | .rems _ _ _ _ => true
  | .min _ _ _ _ => true
  | .max _ _ _ _ => true
  | .clz _ _ _ => true
  | .dadd _ _ _ _ => true
  | .daddc _ _ _ _ => true
  | .dsub _ _ _ _ => true
  | .dsubc _ _ _ _ => true
  | .dadj _ _ _ => true
  | .dcmp _ _ _ => true
  | .dshl _ _ _ _ => true
  | .dshr _ _ _ _ => true
  | .d2b _ _ _ => true
  | .b2d _ _ _ => true
  | .jr _ _ => true
  | .jalr _ _ _ => true
  | .mfs _ _ _ => true
  | .mts _ _ _ => true
  | .eret _ => true
  | .fence _ => true
  | .wfe _ => true
  | .brk _ => true
  | .btw _ _ => true
  | .wtb _ _ => true
  | .ab _ _ => true
  | .addi _ _ _ _ => true
  | .andi _ _ _ _ => true
  | .ori _ _ _ _ => true
  | .xori _ _ _ _ => true
  | .movh _ _ _ => true
  | .cmpi _ _ _ => true
  | .svc _ _ => true
  | .ldw _ _ _ _ => true
  | .ldh _ _ _ _ => true
  | .ldhs _ _ _ _ => true
  | .ldb _ _ _ _ => true
  | .ldbs _ _ _ _ => true
  | .stw _ _ _ _ => true
  | .sth _ _ _ _ => true
  | .stb _ _ _ _ => true
  | .ton _ _ _ _ => true
  | .tof _ _ _ _ => true
  | .tp _ _ _ _ => true
  | .ctu _ _ _ _ => true
  | .ctd _ _ _ _ => true
  | .b _ _ => true
  | .bl _ _ => true
  | .bcc _ _ _ => true
  | .ld _ _ => true
  | .ldn _ _ => true
  | .imgAnd _ _ => true
  | .imgAndn _ _ => true
  | .imgOr _ _ => true
  | .orn _ _ => true
  | .imgXor _ _ => true
  | .st _ _ => true
  | .set _ _ => true
  | .clr _ _ => true
  | .re _ _ => true
  | .fe _ _ => true
  | .rem _ _ => true
  | .fem _ _ => true
  | .push _ => true
  | .popa _ => true
  | .popo _ => true
  | .popx _ => true
  | .not _ => true
  | .undefinedInstruction _ _ => true
  | .tlbInvalidateAll _ => true
  | .tlbInvalidateNonglobal _ => true
  | .tlbInvalidateAsid _ _ => true
  | .tlbInvalidatePage _ _ => true
  | .tlbLockPage _ _ => true
  | .lockstepInject _ => true
  | .lockstepMismatch _ _ _ => true
  | .eventTaken _ => true
  | .eventSourceAssert _ => true
  | .evtTgtAckRead _ _ => true
  | .evtTgtEoi _ _ => true
  | .evtSwtrig _ _ => true
  | .evtPendClear _ _ _ => true
  | .scrubPass => true
  | .postedStoreBusError _ => true
  | .dmaStart _ _ => true
  | .dmaAbort _ _ => true
  | .dmaResume _ _ => true
  | .dmaErrClear _ _ => true
  | .dmaPeripheralRequest _ => true
  | .dmaBeatBoundary => true
  | .dmaBurstComplete _ => true
  | .dmaBurstFault _ _ => true
  | .dmaL3waitExpiry _ => true
  | .iommuInv _ _ _ => true
  | .registerWrite _ _ _ => true
  | .registerReadClear _ _ => true
  | .panBoundary _ => true
  | .applyStrobe _ => true
  | .rakePanDone _ _ _ => true
  | .overrun _ => true
  | .hardLimitExpiry _ => true
  | .triggerCapture _ => true
  | .triggerCaptureDone _ => true
  | .checkpointWriteDone _ => true
  | .pfwSaveTimeout _ => true
  | .pfwSaved => true
  | .panStartStepsDone _ => true
  | .editStored _ => true
  | .rakeCtrlWrite _ _ => true
  | .cmdPacketDiscard _ bytes => decide (bytes.length ≤ 65535)
  | .cmdPacketForward tp0 ep bytes => epOk tp0 ep && decide (bytes.length ≤ 65535)
  | .cmdReplyRelay _ bytes => decide (bytes.length ≤ 65535)
  | .cmdForwardTimeout k => k.wf
  | .cmdCompletion k _ payload => k.wf && decide (payload.length ≤ 4160)
  | .sessionNonceExpiry tp0 ep => epOk tp0 ep
  | .sessionIdleTimeout _ => true
  | .lockoutEnd _ => true
  | .maintLeaseExpiry _ => true
  | .resetDelayExpiry => true
  | .identify r => r.wf
  | .getStatus r => r.wf
  | .subscribe r => r.wf
  | .reset r => r.wf
  | .openChallenge r => r.wf
  | .openResponse r => r.wf
  | .close r => r.wf
  | .maintAcquire r => r.wf
  | .maintRelease r => r.wf
  | .regRead r => r.wf
  | .regWrite r => r.wf
  | .loadBlock r => r.wf
  | .loadMap r => r.wf
  | .panMode r => r.wf
  | .editStage r => r.wf
  | .editCommit r => r.wf
  | .force r => r.wf
  | .unforce r => r.wf
  | .imageRead r => r.wf
  | .canConfig r => r.wf
  | .canSend r => r.wf
  | .canRead r => r.wf
  | .routeSet r => r.wf
  | .hssSet r => r.wf
  | .solRun r => r.wf
  | .ledSet r => r.wf
  | .dioSet r => r.wf
  | .openLoadSweep r => r.wf
  | .measRead r => r.wf
  | .accCalibrate r => r.wf
  | .accOverride r => r.wf
  | .tokenEnrol r => r.wf
  | .accStatus r => r.wf
  | .attest r => r.wf
  | .keyLoad r => r.wf
  | .debugChallenge r => r.wf
  | .debugUnlock r => r.wf
  | .crustRead r => r.wf
  | .crustWrite r => r.wf
  | .counterInc r => r.wf
  | .logRead r => r.wf
  | .crustCompact r => r.wf
  | .stageBegin r => r.wf
  | .stageData r => r.wf
  | .stageEnd r => r.wf
  | .forward r => r.wf
  | .confirm r => r.wf
  | .updStatus r => r.wf
  | .topology r => r.wf
  | .switchoverTest r => r.wf
  | .timeGet r => r.wf
  | .peerEditStage r => r.wf
  | .peerEditCheck r => r.wf
  | .peerEditCancel r => r.wf
  | .peerEditCheckTimeout _ => true
  | .hostWrite _ _ bytes => decide (bytes.length ≤ 65535)
  | .hostRead _ _ => true
  | .hostPoll _ => true
  | .isotpFrameRx f => decide (f.data.length ≤ 64)
  | .isotpNcrTimeout => true
  | .isotpEnable _ _ => true
  | .udpDatagramRx _ ep _ bytes => decide (ep < 2 ^ 48) && decide (bytes.length ≤ 65535)
  | .usbBulkOut bytes => decide (bytes.length ≤ 65535)
  | .brlSignalDetect _ => true
  | .brlTrainingComplete _ => true
  | .brlTrainTimeout _ => true
  | .brlPeerProof _ nonce _ proof => nonce.length == 16 && proof.length == 16
  | .brlAuthTimeout _ => true
  | .brlFaultExpiry _ => true
  | .brlRetryExpiry _ => true
  | .brlBlockLockLost _ => true
  | .ringCtrlWrite _ _ => true
  | .ringAddrWrite _ _ => true
  | .brlFrameRx _ bytes => decide (bytes.length ≤ 65535)
  | .brlNakRx _ _ _ => true
  | .brlCommandFrame _ _ _ _ _ _ payload tag => decide (payload.length ≤ 4160) && tag.length == 8
  | .brlUpdateFrame _ _ _ _ _ _ payload tag => decide (payload.length ≤ 4160) && tag.length == 8
  | .presenceSend => true
  | .presenceRx _ _ _ _ => true
  | .routeAgeOut _ => true
  | .addrConflictClear => true
  | .timeFrameSend => true
  | .timeFrameRx _ _ _ _ _ => true
  | .linkDelayMeasure _ _ => true
  | .brlTimeHoldover => true
  | .ringHsCfgWrite _ _ => true
  | .heartbeatSend => true
  | .heartbeatRx _ _ _ _ _ _ => true
  | .heartbeatMiss => true
  | .heartbeatLoss => true
  | .candidateWaitExpiry => true
  | .mirrorFrameRx _ _ lines => decide (lines.length ≤ 60) && lines.all (fun x => x.2.length == 64)
  | .boundaryMarkerRx _ => true
  | .takeover => true
  | .handoverBoundary => true
  | .remoteResetRx _ _ => true
  | .silenceTimeout _ => true
  | .bridgeHoldExpiry _ _ => true
  | .bootReqRx _ => true
  | .canEnable _ _ _ => true
  | .canDisable _ _ _ => true
  | .canRecover _ _ _ => true
  | .canTxfNWrite _ _ _ => true
  | .canAuthEnable _ _ _ => true
  | .canTxreqSet _ _ _ _ => true
  | .canTxreqClr _ _ _ _ => true
  | .canTxfifoWrite _ _ _ _ => true
  | .canUnfRel _ _ => true
  | .canFreshHWrite _ _ _ _ => true
  | .canIntegrated _ => true
  | .canFrameReceived _ f => f.wf
  | .canHoldRelease _ _ => true
  | .canRxError _ _ _ _ _ => true
  | .canTxSuccess _ _ _ => true
  | .canTxError _ _ _ _ _ => true
  | .canRecovered _ => true
  | .canTatDue _ => true
  | .canTatLate _ _ => true
  | .canDominantTimeout _ => true
  | .tideSleep _ _ => true
  | .tideStay _ _ => true
  | .tideCommit _ _ => true
  | .tideVeto _ _ => true
  | .tideWake _ _ => true
  | .tideForceSleep _ _ => true
  | .tideCfgWrite _ _ _ => true
  | .tideQuorumTick => true
  | .scfSendPeriod _ => true
  | .tideFailsafeExpiry _ => true
  | .tideDrainExpiry _ => true
  | .toLowComplete _ => true
  | .lateWake _ => true
  | .wupPattern _ => true
  | .dominantWake _ => true
  | .wakeUpFrame _ f => f.wf
  | .fecOverflowWake _ => true
  | .wufFrameDecoded _ _ _ => true
  | .busSilence _ => true
  | .floodDone _ => true
  | .floodFail _ => true
  | .sluiceLookup => true
  | .sluiceBrlFrameRx _ payload => decide (payload.length ≤ 4160)
  | .sluiceRtWrite _ => true
  | .sluiceRtRead _ => true
  | .sluiceOwnWrite _ _ _ => true
  | .ethCfgModeWrite _ _ _ => true
  | .ethBallRelease _ => true
  | .ethLinkChange _ _ _ _ _ => true
  | .ethFrameRx _ _ _ _ _ _ _ => true
  | .arpRequest _ _ _ _ => true
  | .icmpEcho _ _ _ _ rest => decide (rest.length ≤ 1480)
  | .ptpSyncRx _ _ _ _ _ _ => true
  | .ptpDelayRespRx _ _ _ _ => true
  | .ptpPdelayReqRx _ _ _ _ _ => true
  | .ptpPdelayRespRx _ _ _ _ _ _ => true
  | .ethDescriptorBusError _ => true
  | .mdioGo _ _ => true
  | .mdioDone _ => true
  | .timeOffsetMeasure _ _ => true
  | .timeStepWrite _ _ _ => true
  | .ptpHoldover => true
  | .timeNowRead _ => true
  | .hssCtrlEnWrite _ _ => true
  | .hssCmdDuty _ _ _ => true
  | .hssCmdClear _ _ _ => true
  | .hssParWrite _ _ _ => true
  | .hssPwmHzWrite _ _ _ => true
  | .hssPeriodStart _ => true
  | .hssOnTimeEnd _ => true
  | .hssGroupUndervoltage _ => true
  | .hssGroupOvervoltage _ => true
  | .hssGroupRestart _ => true
  | .hssRestartSlot _ => true
  | .hssReducedChange _ _ => true
  | .hssOvertemp _ => true
  | .hssLimitStart _ => true
  | .hssLimitEnd _ => true
  | .hssLimitTimerExpiry _ => true
  | .hssBlankExpiry _ => true
  | .hssQoffExpiry _ => true
  | .hssRetryExpiry _ => true
  | .hssRclrExpiry _ => true
  | .hssCurrentSample _ _ => true
  | .hssRangeChangeDone _ _ => true
  | .hssTempSample _ _ _ _ => true
  | .hssOffstateTest _ _ _ => true
  | .hssSweepDone _ _ _ => true
  | .solCtrlEnWrite _ _ => true
  | .solCmdCode _ _ _ => true
  | .solCmdClear _ _ => true
  | .solCmdRelease _ _ => true
  | .solCmdFlush _ _ => true
  | .solProfileWrite _ _ _ _ => true
  | .solParWrite _ _ _ => true
  | .solDutyWrite _ _ _ _ => true
  | .solCommandTaken _ => true
  | .solDue _ => true
  | .solLate _ _ => true
  | .solPhaseEnd _ => true
  | .solReleaseLimit _ => true
  | .solChopPeriod _ => true
  | .solCurrentTarget _ => true
  | .solDrainDone _ => true
  | .solToffExpiry _ => true
  | .solKinkSample _ _ _ _ => true
  | .solOvercurrent _ => true
  | .solOpenCoil _ => true
  | .solOvertemp _ => true
  | .vsolUndervoltage => true
  | .vsolRestart => true
  | .solBucketOpen _ => true
  | .dioCtrlEnWrite _ _ => true
  | .dioCmdOut _ _ _ => true
  | .dioCmdClear _ _ _ => true
  | .dioCfgWrite _ _ _ => true
  | .dioInputChange _ _ => true
  | .dioWireBreakChange _ _ => true
  | .dioReadbackMismatch _ => true
  | .vdioUndervoltage => true
  | .vdioRestart => true
  | .vdioRedChange _ => true
  | .dioOvertemp _ _ => true
  | .dioLimitExpiry _ => true
  | .ntcConversion _ _ => true
  | .supplySample _ _ => true
  | .ledCtrlEnWrite _ _ => true
  | .ledCmdWrite _ _ _ _ => true
  | .ledGrpMaskWrite _ _ _ => true
  | .ledGrpClear _ _ => true
  | .lmxEnWrite _ _ => true
  | .lmxClear _ => true
  | .lmxLevelWrite _ _ _ _ => true
  | .ledPeriodStart _ => true
  | .ledOnphaseCheck _ _ _ _ => true
  | .ledHeadroomUpdate _ _ => true
  | .ledCurveUpdate => true
  | .ledOvertemp => true
  | .ledOvertempRecover => true
  | .lmxFrameStart => true
  | .lmxRowSlot _ _ => true
  | .lmxRowOvercurrent => true
  | .accCtrlEnWrite _ _ => true
  | .accLockEnWrite _ _ => true
  | .accDoorWrite _ _ => true
  | .accCalWrite _ _ _ _ _ => true
  | .accScanDue => true
  | .accCodeStart => true
  | .accQuietWindowEnd _ _ => true
  | .accBurstEnd _ _ => true
  | .accRepeatDue => true
  | .accReplyRx _ _ => true
  | .accScanEnd => true
  | .accLockoutEnd => true
  | .accFailAgeOut => true
  | .accSessionTimeout => true
  | .accArmExpiry => true
  | .transponderPoll _ => true
  | .enclOpStart => true
  | .mbRandom _ _ _ => true
  | .mbLoad _ _ _ _ _ => true
  | .mbClear _ _ _ _ => true
  | .mbGen _ _ _ _ _ => true
  | .gcmEnc _ _ _ _ => true
  | .gcmDec _ _ _ _ => true
  | .mbCmac _ _ _ _ => true
  | .sign _ _ _ _ => true
  | .verify _ _ _ => true
  | .ecdh _ _ _ _ => true
  | .hkdf _ _ _ _ => true
  | .hash _ _ _ => true
  | .extend _ _ _ => true
  | .mbAttest _ _ _ => true
  | .enclOpDone => true
  | .enclTamper _ => true
  | .trngFailure => true
  | .trngRecovery => true
  | .crustRdreqGo _ _ _ => true
  | .crustWportRequest _ words => decide (words.length ≤ 17)
  | .crustRecordWritten _ => true
  | .crustLogEntry _ _ => true
  | .crustOpenDone _ _ => true
  | .crustVerifyDone _ => true
  | .crustBackgroundCompact => true
  | .crustCompactionDone => true
  | .crustEraseDone _ => true
  | .crustSpaceWaitExpiry => true
  | .stageApplyDone => true
  | .updResetDue => true
  | .trialHealthy => true
  | .trialDeadlineExpiry => true
  | .updUnfitWrite _ _ => true
  | .forwardPeerDone _ _ => true
  | .forwardDone => true
  | .usbsCtrlWrite _ _ => true
  | .usbVbusChange _ => true
  | .usbConfigure _ _ => true
  | .recoveryLoader bytes => decide (bytes.length ≤ 65535)
  | .powerOn => true
  | .railStepDone => true
  | .railStepTimeout => true
  | .railRetryExpiry => true
  | .pwrGoodLost _ => true
  | .pdOffWrite _ _ => true
  | .pdSwitchOnDone _ _ => true
  | .parkGo _ => true
  | .parkStepDone => true
  | .parkFlushTimeout => true
  | .parkWake _ _ _ => true
  | .wakePin _ => true
  | .dioWakeSample _ _ => true
  | .rtcAlarmDue _ => true
  | .rtcAlarmLate _ => true
  | .rtcAlarmEnable _ _ _ => true
  | .powerFailWarning => true
  | .powerFailClear => true
  | .vaonBrownOut => true
  | .thermalSample _ _ => true
  | .thermalHoldRelease => true
  | .referenceLoss => true
  | .pllUnlock _ => true
  | .serdesUnlock => true
  | .serdesRelockRetry _ => true
  | .usbPllUnlock => true
  | .rtcOscLoss => true
  | .rtcSecond => true
  | .rtcSecWrite _ _ => true
  | .resetNPulse => true
  | .resetSourcesTaken => true
  | .l3DrainDone _ => true
  | .l3ResetEnd _ => true
  | .stewardRelease _ => true
  | .swrstWrite _ _ => true
  | .wdtKick _ _ _ => true
  | .wdtHalfPeriod _ => true
  | .wdtExpiry _ => true
  | .optWrite _ => true
  | .optWriteDone _ => true
  | .pinownQresWrite _ _ => true
  | .gpioCmdWrite _ _ _ => true
  | .gpioEdge _ _ => true
  | .dbgLineReset => true
  | .dbgTransaction _ _ _ _ _ => true
  | .dbgHalt _ => true
  | .dbgResume _ => true
  | .dbgStep _ => true
  | .dbgRdataAccess _ _ => true
  | .dbgMemAccess _ => true
  | .dbgRst _ => true
  | .dbgEvtWrite _ _ => true
  | .tapReset => true
  | .idcode => true
  | .samplePreload _ _ => true
  | .extest => true
  | .clamp => true
  | .highz => true
  | .bypass => true
  | .resetNRelease => true
  | .rtcOscRestore => true
  | .ptpFollowUpRx _ _ _ _ _ => true
  | .ptpDelayReqSend _ _ => true
  | .dioCurrentLimit _ _ => true
  | .solJunctionWarning _ _ _ _ => true
  | .cmdAcceptedDeadline k => k.wf
  | .bootReqSend _ => true
  | .brlAckRx _ _ => true

end Sys2Proof
end

