-- ==== Sys2Proof/Certificates/Slice0/Obligations.lean ====
section
/-! DEFINITION. The statements for the provers. -/

open Sys2Proof Sys2Proof.Machine

/-- A step takes the command at the front of the queue and is exec of it on the state with the queue's rest -/
def Obligations.StepRunsTheFrontCommand : Prop :=
  (∀ (c : Instr) (rest : List Instr) (s : State),
      step { s with pending := c :: rest } = exec c { s with pending := rest }) ∧
  (∀ (c : Instr) (rest : List Instr) (s : State),
      s.pending = c :: rest →
      step s = exec c { s with pending := rest })

/-- The idle step; the tick of 1 µs is the model's choice (log 3, DESIGN CHOICE). -/
def Obligations.AnIdleStepAdvancesTheClockAlone : Prop :=
  (∀ (s : State),
      s.pending = [] →
      ∃ t, step s = .next t ∧ t.now = s.now + 1000 ∧ t = { s with now := t.now, dtime := t.dtime, time := { s.time with frac := t.time.frac } }) ∧
  (∀ (s : State) (t : State),
      s.pending = [] →
      s.f F.TIME_RATE_RATE = 0 →
      s.time.frac < 4294967296 →
      step s = .next t →
      t.dtime = (s.dtime + 1000) % 2 ^ 64 ∧ t.time.frac = s.time.frac)

/-- At reset every register reads its reset word, the cores are held at their reset addresses, memory and the queue are empty -/
def Obligations.ResetHoldsTheValuesTheSpecGives : Prop :=
  ((∀ a, State.reset.reg a = resetWord a) ∧ State.reset.reg A.SYSCTL_DEVID = 0x48600C01#32 ∧ State.reset.Canonical) ∧
  ((∀ c, (State.reset.core c).psr = 0x000A0000#32 ∧ (State.reset.core c).pc = (State.reset.core c).xvb ∧ (State.reset.core c).run = .held) ∧
      (State.reset.core .panA).pc = 0x08000000#32 ∧ (State.reset.core .panB).pc = 0x08800000#32 ∧ (State.reset.core .steward).pc = 0xFFFF0000#32) ∧
  (State.reset.mem = [] ∧ State.reset.pending = [] ∧ State.reset.out = [] ∧ State.reset.own = [] ∧ State.reset.cmd.sess = [] ∧ State.reset.cmd.tokens = [])

/-- Every command of the table, with any operands and in any state, answers a next state -/
def Obligations.EveryCommandAnswersANextState : Prop :=
  (∀ (c : Instr) (s : State),
      ∃ t, exec c s = .next t)

/-- No command changes the queue of waiting commands, takes back what has left the device, or turns the block's own clock back -/
def Obligations.NoCommandTouchesTheQueueNorTakesBackAnOutput : Prop :=
  (∀ (c : Instr) (s : State) (t : State),
      exec c s = .next t →
      t.pending = s.pending ∧ s.out <+: t.out ∧ t.now = s.now)

/-- Every step keeps memory and the register file in their one canonical form -/
def Obligations.EveryStepKeepsTheStoresCanonical : Prop :=
  (∀ (s : State) (t : State),
      s.Canonical →
      step s = .next t →
      t.Canonical)

/-- Every FK-32 row is the effect of the word that encodes it, and no two instructions share a word -/
def Obligations.EveryFkInstructionIsWhatItsWordSpells : Prop :=
  (∀ (i : Instr) (c : CoreId) (w : Nat),
      fkEncode i = some (c, w) →
      w < 2 ^ 32 ∧ ∀ s, exec i s = .next (s.fkRun c (fkDecoded c w))) ∧
  (∀ (i : Instr) (j : Instr) (c : CoreId) (w : Nat),
      fkEncode i = some (c, w) →
      fkEncode j = some (c, w) →
      i = j)

/-- A field of a register reads back what was written; every other field and register keeps its value -/
def Obligations.RegisterFieldsReadBackAndKeepTheirNeighbours : Prop :=
  (∀ (s : State) (x : Fld) (v : Nat),
      regsWf s.regs = true →
      x.lo ≤ x.hi ∧ x.hi < 32 →
      (s.setF x v).f x = v % 2 ^ (x.hi + 1 - x.lo) ∧ (s.setF x v) = { s with regs := (s.setF x v).regs }) ∧
  (∀ (s : State) (x : Fld) (y : Fld) (v : Nat),
      regsWf s.regs = true →
      x.lo ≤ x.hi ∧ x.hi < 32 →
      (y.addr ≠ x.addr ∨ (y.addr = x.addr ∧ (y.hi < x.lo ∨ x.hi < y.lo))) →
      (s.setF x v).f y = s.f y)

/-- Memory reads back the bytes stored and every other byte is unchanged -/
def Obligations.MemoryReadsBackWhatWasStored : Prop :=
  (∀ (m : List Host.Cell) (a : Nat) (bs : List Byte),
      memWf m = true →
      memBytes (memPut m a bs) a bs.length = bs ∧ memWf (memPut m a bs) = true ∧ ∀ c, c < a ∨ a + bs.length ≤ c → memGet (memPut m a bs) c = memGet m c) ∧
  (∀ (s : State) (a : Nat) (n : Nat) (v : Nat),
      memWf s.mem = true →
      (s.mput a n v).mget a n = v % 256 ^ n ∧ s.mput a n v = { s with mem := (s.mput a n v).mem, ecc := (s.mput a n v).ecc }) ∧
  (∀ (m : List Host.Cell) (a : Nat) (n : Nat),
      memWf m = true →
      memWf (memClear m a n) = true ∧ ∀ c, memGet (memClear m a n) c = if a ≤ c ∧ c < a + n then blankByte c else memGet m c)

/-- A register command sent at application privilege reaches no block: a write ends with a bus error, a read with the failed load of the core that issues it -/
def Obligations.ApplicationPrivilegeReachesNoBlockRegister : Prop :=
  (∀ (i : Instr) (s : State) (who : Who),
      whoOf i = some who →
      whoApp who = true →
      (i ≠ .timeNowRead who ∧ ∀ t, i ≠ .evtTgtAckRead who t) →
      exec i s = .next (s.busErr who)) ∧
  (∀ (s : State) (who : Who),
      whoApp who = true →
      exec (.timeNowRead who) s = .next (s.readFails who (A.TIME_NOW_L))) ∧
  (∀ (s : State) (who : Who) (t : Fin 4),
      whoApp who = true →
      exec (.evtTgtAckRead who t) s = .next (s.readFails who (A.EVT_TGT_ACK t))) ∧
  (∀ (s : State) (c : CoreId) (lvl : Fin 3) (a : Nat),
      s.readFails (.core c lvl) a =
        (if s.issues c then (((s.begins c).spend c s.freeNat).useFree).fkExc c (excAt 4 3 (some (toW a))) else s) ∧ ∀ who, (∀ d l, who ≠ .core d l) → s.readFails who a = s.busErr who)

/-- The order in which a request's checks apply is the model's reading (log 44, DEDUCED). -/
def Obligations.RequestsAreCheckedInOrder : Prop :=
  (∀ (i : Instr) (r : Req) (g : Nat) (o : Nat) (s : State),
      reqOf i = some (r, g, o) →
      s.tpOn r.tp.val = false →
      exec i s = .next s) ∧
  (∀ (i : Instr) (r : Req) (g : Nat) (o : Nat) (s : State),
      reqOf i = some (r, g, o) →
      s.tpOn r.tp.val = true →
      s.fits r.tp.val (reqPkt r g o) = false →
      exec i s = .next (s.discard r.tp.val false)) ∧
  (∀ (i : Instr) (r : Req) (g : Nat) (o : Nat) (s : State),
      reqOf i = some (r, g, o) →
      s.tpOn r.tp.val = true →
      s.fits r.tp.val (reqPkt r g o) = true →
      r.dst = 0xFFF#12 →
      exec i s = .next (s.cmdCast r.tp.val (reqPkt r g o))) ∧
  (∀ (i : Instr) (r : Req) (g : Nat) (o : Nat) (s : State),
      reqOf i = some (r, g, o) →
      s.tpOn r.tp.val = true →
      s.fits r.tp.val (reqPkt r g o) = true →
      r.dst ≠ 0xFFF#12 →
      r.dst ≠ 0#12 →
      r.dst.toNat ≠ s.ownAddr →
      exec i s = .next (s.forward r.tp.val r.ep (reqPkt r g o))) ∧
  (∀ (i : Instr) (r : Req) (g : Nat) (o : Nat) (s : State) (q : OpInfo),
      reqOf i = some (r, g, o) →
      s.tpOn r.tp.val = true →
      s.fits r.tp.val (reqPkt r g o) = true →
      r.dst ≠ 0xFFF#12 →
      (r.dst = 0#12 ∨ r.dst.toNat = s.ownAddr) →
      opInfo g o = some q →
      s.sessCheck r.tp.val r.ep (reqPkt r g o) q = .badTag →
      exec i s = .next ((s.authFail r.tp.val).refuse r.tp.val r.ep (reqPkt r g o) stAuthFailed [] false)) ∧
  (∀ (i : Instr) (r : Req) (g : Nat) (o : Nat) (s : State) (q : OpInfo) (st : Nat) (d : List Byte),
      reqOf i = some (r, g, o) →
      s.tpOn r.tp.val = true →
      s.fits r.tp.val (reqPkt r g o) = true →
      r.dst ≠ 0xFFF#12 →
      (r.dst = 0#12 ∨ r.dst.toNat = s.ownAddr) →
      opInfo g o = some q →
      s.sessCheck r.tp.val r.ep (reqPkt r g o) q = .stop st d →
      exec i s = .next (s.refuse r.tp.val r.ep (reqPkt r g o) st d true).useFree) ∧
  (∀ (i : Instr) (r : Req) (g : Nat) (o : Nat) (s : State) (q : OpInfo) (x : Option Sess) (u : State),
      reqOf i = some (r, g, o) →
      s.tpOn r.tp.val = true →
      s.fits r.tp.val (reqPkt r g o) = true →
      r.dst ≠ 0xFFF#12 →
      (r.dst = 0#12 ∨ r.dst.toNat = s.ownAddr) →
      opInfo g o = some q →
      s.sessCheck r.tp.val r.ep (reqPkt r g o) q = .go x →
      u = s.sessUsed x →
      u.seqClass r.tp.val r.ep r.seq.toNat = .repeatOut →
      exec i s = .next u) ∧
  (∀ (i : Instr) (r : Req) (g : Nat) (o : Nat) (s : State) (q : OpInfo) (x : Option Sess) (u : State) (b : List Byte),
      reqOf i = some (r, g, o) →
      s.tpOn r.tp.val = true →
      s.fits r.tp.val (reqPkt r g o) = true →
      r.dst ≠ 0xFFF#12 →
      (r.dst = 0#12 ∨ r.dst.toNat = s.ownAddr) →
      opInfo g o = some q →
      s.sessCheck r.tp.val r.ep (reqPkt r g o) q = .go x →
      u = s.sessUsed x →
      u.seqClass r.tp.val r.ep r.seq.toNat = .cached b →
      exec i s = .next (u.sendBytes r.tp.val r.ep b)) ∧
  (∀ (i : Instr) (r : Req) (g : Nat) (o : Nat) (s : State) (q : OpInfo) (x : Option Sess) (u : State) (l : Nat),
      reqOf i = some (r, g, o) →
      s.tpOn r.tp.val = true →
      s.fits r.tp.val (reqPkt r g o) = true →
      r.dst ≠ 0xFFF#12 →
      (r.dst = 0#12 ∨ r.dst.toNat = s.ownAddr) →
      opInfo g o = some q →
      s.sessCheck r.tp.val r.ep (reqPkt r g o) q = .go x →
      u = s.sessUsed x →
      u.seqClass r.tp.val r.ep r.seq.toNat = .stale l →
      exec i s = .next (u.refuse r.tp.val r.ep (reqPkt r g o) stSeqStale (leBytes 2 l) true)) ∧
  (∀ (i : Instr) (r : Req) (g : Nat) (o : Nat) (s : State) (q : OpInfo) (x : Option Sess) (u : State),
      reqOf i = some (r, g, o) →
      s.tpOn r.tp.val = true →
      s.fits r.tp.val (reqPkt r g o) = true →
      r.dst ≠ 0xFFF#12 →
      (r.dst = 0#12 ∨ r.dst.toNat = s.ownAddr) →
      opInfo g o = some q →
      s.sessCheck r.tp.val r.ep (reqPkt r g o) q = .go x →
      u = s.sessUsed x →
      u.seqClass r.tp.val r.ep r.seq.toNat = .new →
      32 ≤ u.outCount r.tp.val →
      exec i s = .next (u.tooMany r.tp.val r.ep (reqPkt r g o)))

/-- A request whose payload has not its opcode's one length is answered BAD_LENGTH with that length, and nothing else happens -/
def Obligations.RequestsOfAnotherLengthAreAnsweredBadLength : Prop :=
  (∀ (r : Req) (s : State) (x : Option Sess) (s1 : State),
      Started s r 1 1 x s1 →
      r.payload.length ≠ 0 →
      exec (.identify r) s = .next (s1.badLen (rkeyOf r) 0)) ∧
  (∀ (r : Req) (s : State) (x : Option Sess) (s1 : State),
      Started s r 1 2 x s1 →
      r.payload.length ≠ 0 →
      exec (.getStatus r) s = .next (s1.badLen (rkeyOf r) 0)) ∧
  (∀ (r : Req) (s : State) (x : Option Sess) (s1 : State),
      Started s r 1 3 x s1 →
      r.payload.length ≠ 8 →
      exec (.subscribe r) s = .next (s1.badLen (rkeyOf r) 8)) ∧
  (∀ (r : Req) (s : State) (x : Option Sess) (s1 : State),
      Started s r 1 4 x s1 →
      r.payload.length ≠ 1 →
      exec (.reset r) s = .next (s1.badLen (rkeyOf r) 1)) ∧
  (∀ (r : Req) (s : State) (x : Option Sess) (s1 : State),
      Started s r 2 1 x s1 →
      r.payload.length ≠ 2 →
      exec (.openChallenge r) s = .next (s1.badLen (rkeyOf r) 2)) ∧
  (∀ (r : Req) (s : State) (x : Option Sess) (s1 : State),
      Started s r 2 2 x s1 →
      r.payload.length ≠ 32 →
      exec (.openResponse r) s = .next (s1.badLen (rkeyOf r) 32)) ∧
  (∀ (r : Req) (s : State) (x : Option Sess) (s1 : State),
      Started s r 2 3 x s1 →
      r.payload.length ≠ 0 →
      exec (.close r) s = .next (s1.badLen (rkeyOf r) 0)) ∧
  (∀ (r : Req) (s : State) (x : Option Sess) (s1 : State),
      Started s r 2 4 x s1 →
      r.payload.length ≠ 3 →
      exec (.maintAcquire r) s = .next (s1.badLen (rkeyOf r) 3)) ∧
  (∀ (r : Req) (s : State) (x : Option Sess) (s1 : State),
      Started s r 2 5 x s1 →
      r.payload.length ≠ 0 →
      exec (.maintRelease r) s = .next (s1.badLen (rkeyOf r) 0)) ∧
  (∀ (r : Req) (s : State) (x : Option Sess) (s1 : State),
      Started s r 3 1 x s1 →
      r.payload.length ≠ 6 →
      exec (.regRead r) s = .next (s1.badLen (rkeyOf r) 6)) ∧
  (∀ (r : Req) (s : State) (x : Option Sess) (s1 : State),
      Started s r 3 2 x s1 →
      r.payload.length ≠ 12 →
      exec (.regWrite r) s = .next (s1.badLen (rkeyOf r) 12)) ∧
  (∀ (r : Req) (s : State) (x : Option Sess) (s1 : State),
      Started s r 4 3 x s1 →
      r.payload.length ≠ 2 →
      exec (.panMode r) s = .next (s1.badLen (rkeyOf r) 2)) ∧
  (∀ (r : Req) (s : State) (x : Option Sess) (s1 : State),
      Started s r 4 6 x s1 →
      r.payload.length ≠ 6 →
      exec (.force r) s = .next (s1.badLen (rkeyOf r) 6)) ∧
  (∀ (r : Req) (s : State) (x : Option Sess) (s1 : State),
      Started s r 4 7 x s1 →
      r.payload.length ≠ 5 →
      exec (.unforce r) s = .next (s1.badLen (rkeyOf r) 5)) ∧
  (∀ (r : Req) (s : State) (x : Option Sess) (s1 : State),
      Started s r 4 8 x s1 →
      r.payload.length ≠ 7 →
      exec (.imageRead r) s = .next (s1.badLen (rkeyOf r) 7)) ∧
  (∀ (r : Req) (s : State) (x : Option Sess) (s1 : State),
      Started s r 5 3 x s1 →
      r.payload.length ≠ 3 →
      exec (.canRead r) s = .next (s1.badLen (rkeyOf r) 3)) ∧
  (∀ (r : Req) (s : State) (x : Option Sess) (s1 : State),
      Started s r 5 4 x s1 →
      r.payload.length ≠ 26 →
      exec (.routeSet r) s = .next (s1.badLen (rkeyOf r) 26)) ∧
  (∀ (r : Req) (s : State) (x : Option Sess) (s1 : State),
      Started s r 6 1 x s1 →
      r.payload.length ≠ 4 →
      exec (.hssSet r) s = .next (s1.badLen (rkeyOf r) 4)) ∧
  (∀ (r : Req) (s : State) (x : Option Sess) (s1 : State),
      Started s r 6 2 x s1 →
      r.payload.length ≠ 10 →
      exec (.solRun r) s = .next (s1.badLen (rkeyOf r) 10)) ∧
  (∀ (r : Req) (s : State) (x : Option Sess) (s1 : State),
      Started s r 6 3 x s1 →
      r.payload.length ≠ 5 →
      exec (.ledSet r) s = .next (s1.badLen (rkeyOf r) 5)) ∧
  (∀ (r : Req) (s : State) (x : Option Sess) (s1 : State),
      Started s r 6 4 x s1 →
      r.payload.length ≠ 2 →
      exec (.dioSet r) s = .next (s1.badLen (rkeyOf r) 2)) ∧
  (∀ (r : Req) (s : State) (x : Option Sess) (s1 : State),
      Started s r 6 5 x s1 →
      r.payload.length ≠ 8 →
      exec (.openLoadSweep r) s = .next (s1.badLen (rkeyOf r) 8)) ∧
  (∀ (r : Req) (s : State) (x : Option Sess) (s1 : State),
      Started s r 6 6 x s1 →
      r.payload.length ≠ 2 →
      exec (.measRead r) s = .next (s1.badLen (rkeyOf r) 2)) ∧
  (∀ (r : Req) (s : State) (x : Option Sess) (s1 : State),
      Started s r 7 1 x s1 →
      r.payload.length ≠ 2 →
      exec (.accCalibrate r) s = .next (s1.badLen (rkeyOf r) 2)) ∧
  (∀ (r : Req) (s : State) (x : Option Sess) (s1 : State),
      Started s r 7 2 x s1 →
      r.payload.length ≠ 1 →
      exec (.accOverride r) s = .next (s1.badLen (rkeyOf r) 1)) ∧
  (∀ (r : Req) (s : State) (x : Option Sess) (s1 : State),
      Started s r 7 3 x s1 →
      r.payload.length ≠ 6 →
      exec (.tokenEnrol r) s = .next (s1.badLen (rkeyOf r) 6)) ∧
  (∀ (r : Req) (s : State) (x : Option Sess) (s1 : State),
      Started s r 7 4 x s1 →
      r.payload.length ≠ 0 →
      exec (.accStatus r) s = .next (s1.badLen (rkeyOf r) 0)) ∧
  (∀ (r : Req) (s : State) (x : Option Sess) (s1 : State),
      Started s r 8 1 x s1 →
      r.payload.length ≠ 32 →
      exec (.attest r) s = .next (s1.badLen (rkeyOf r) 32)) ∧
  (∀ (r : Req) (s : State) (x : Option Sess) (s1 : State),
      Started s r 8 3 x s1 →
      r.payload.length ≠ 0 →
      exec (.debugChallenge r) s = .next (s1.badLen (rkeyOf r) 0)) ∧
  (∀ (r : Req) (s : State) (x : Option Sess) (s1 : State),
      Started s r 8 4 x s1 →
      r.payload.length ≠ 196 →
      exec (.debugUnlock r) s = .next (s1.badLen (rkeyOf r) 196)) ∧
  (∀ (r : Req) (s : State) (x : Option Sess) (s1 : State),
      Started s r 9 1 x s1 →
      r.payload.length ≠ 4 →
      exec (.crustRead r) s = .next (s1.badLen (rkeyOf r) 4)) ∧
  (∀ (r : Req) (s : State) (x : Option Sess) (s1 : State),
      Started s r 9 3 x s1 →
      r.payload.length ≠ 5 →
      exec (.counterInc r) s = .next (s1.badLen (rkeyOf r) 5)) ∧
  (∀ (r : Req) (s : State) (x : Option Sess) (s1 : State),
      Started s r 9 4 x s1 →
      r.payload.length ≠ 6 →
      exec (.logRead r) s = .next (s1.badLen (rkeyOf r) 6)) ∧
  (∀ (r : Req) (s : State) (x : Option Sess) (s1 : State),
      Started s r 9 5 x s1 →
      r.payload.length ≠ 0 →
      exec (.crustCompact r) s = .next (s1.badLen (rkeyOf r) 0)) ∧
  (∀ (r : Req) (s : State) (x : Option Sess) (s1 : State),
      Started s r 10 5 x s1 →
      r.payload.length ≠ 0 →
      exec (.confirm r) s = .next (s1.badLen (rkeyOf r) 0)) ∧
  (∀ (r : Req) (s : State) (x : Option Sess) (s1 : State),
      Started s r 10 6 x s1 →
      r.payload.length ≠ 0 →
      exec (.updStatus r) s = .next (s1.badLen (rkeyOf r) 0)) ∧
  (∀ (r : Req) (s : State) (x : Option Sess) (s1 : State),
      Started s r 11 1 x s1 →
      r.payload.length ≠ 0 →
      exec (.topology r) s = .next (s1.badLen (rkeyOf r) 0)) ∧
  (∀ (r : Req) (s : State) (x : Option Sess) (s1 : State),
      Started s r 11 2 x s1 →
      r.payload.length ≠ 2 →
      exec (.switchoverTest r) s = .next (s1.badLen (rkeyOf r) 2)) ∧
  (∀ (r : Req) (s : State) (x : Option Sess) (s1 : State),
      Started s r 11 3 x s1 →
      r.payload.length ≠ 0 →
      exec (.timeGet r) s = .next (s1.badLen (rkeyOf r) 0)) ∧
  (∀ (r : Req) (s : State) (x : Option Sess) (s1 : State),
      Started s r 11 6 x s1 →
      r.payload.length ≠ 1 →
      exec (.peerEditCancel r) s = .next (s1.badLen (rkeyOf r) 1)) ∧
  (∀ (r : Req) (s : State) (x : Option Sess) (s1 : State),
      Started s r 10 1 x s1 →
      s1.peerToken ⟨rkeyOf r, x, r.payload⟩ = none →
      r.payload.length ≠ 16 →
      exec (.stageBegin r) s = .next ((s1.takePeer ⟨rkeyOf r, x, r.payload⟩).badLen (rkeyOf r) 16)) ∧
  (∀ (r : Req) (s : State) (x : Option Sess) (s1 : State),
      Started s r 10 3 x s1 →
      s1.peerToken ⟨rkeyOf r, x, r.payload⟩ = none →
      r.payload.length ≠ 0 →
      exec (.stageEnd r) s = .next ((s1.takePeer ⟨rkeyOf r, x, r.payload⟩).badLen (rkeyOf r) 0))

/-- A SEQ is new, repeated, answered from the cache or stale, as its distance from the endpoint's last accepted SEQ says -/
def Obligations.SequenceNumbersAreClassifiedByTheHalfRange : Prop :=
  (∀ (s : State) (tp : Nat) (ep : Nat) (seq : Nat),
      s.findEp tp ep = none →
      s.seqClass tp ep seq = .new) ∧
  (∀ (s : State) (tp : Nat) (ep : Nat) (seq : Nat) (e : EndPt),
      s.findEp tp ep = some e →
      e.last < 65536 →
      seq < 65536 →
      (∃ d, 1 ≤ d ∧ d ≤ 32767 ∧ seq = (e.last + d) % 65536) →
      s.seqClass tp ep seq = .new) ∧
  (∀ (s : State) (tp : Nat) (ep : Nat) (seq : Nat) (e : EndPt),
      s.findEp tp ep = some e →
      e.last < 65536 →
      seq < 65536 →
      (∃ d, d ≤ 63 ∧ e.last = (seq + d) % 65536) →
      (s.findOutst ⟨tp, ep, seq⟩).isSome = true →
      s.seqClass tp ep seq = .repeatOut) ∧
  (∀ (s : State) (tp : Nat) (ep : Nat) (seq : Nat) (e : EndPt) (b : List Byte),
      s.findEp tp ep = some e →
      e.last < 65536 →
      seq < 65536 →
      (∃ d, d ≤ 63 ∧ e.last = (seq + d) % 65536) →
      s.findOutst ⟨tp, ep, seq⟩ = none →
      e.cache.find? (fun x => x.1 == seq) = some (seq, b) →
      s.seqClass tp ep seq = .cached b) ∧
  (∀ (s : State) (tp : Nat) (ep : Nat) (seq : Nat) (e : EndPt),
      s.findEp tp ep = some e →
      e.last < 65536 →
      seq < 65536 →
      (∃ d, d ≤ 63 ∧ e.last = (seq + d) % 65536) →
      s.findOutst ⟨tp, ep, seq⟩ = none →
      e.cache.find? (fun x => x.1 == seq) = none →
      s.seqClass tp ep seq = .stale e.last) ∧
  (∀ (s : State) (tp : Nat) (ep : Nat) (seq : Nat) (e : EndPt),
      s.findEp tp ep = some e →
      e.last < 65536 →
      seq < 65536 →
      (∃ d, 64 ≤ d ∧ d ≤ 32768 ∧ e.last = (seq + d) % 65536) →
      s.seqClass tp ep seq = .stale e.last)

/-- The final answer of a request ends it: it is no longer outstanding, and a second answer sends nothing; ACCEPTED is sent once -/
def Obligations.ARequestIsAnsweredOnce : Prop :=
  (∀ (s : State) (k : RKey) (st : Nat) (pl : List Byte),
      s.findOutst k = none →
      s.finish k st pl = s ∧ s.accept k = s) ∧
  (∀ (s : State) (k : RKey) (st : Nat) (pl : List Byte),
      (s.finish k st pl).findOutst k = none) ∧
  (∀ (s : State) (k : RKey) (st : Nat) (pl : List Byte) (st2 : Nat) (pl2 : List Byte),
      (s.finish k st pl).finish k st2 pl2 = s.finish k st pl ∧ (s.finish k st pl).accept k = s.finish k st pl ∧ (s.accept k).accept k = s.accept k)

/-- A pulse sets the latch of each routed target and its Rake trigger, merging with latches already set; without enable it does nothing -/
def Obligations.APulseIsLatchedForItsTargets : Prop :=
  (∀ (s : State) (k : Nat),
      ¬(s.flag F.EVT_CTRL_EN = true ∧ sourceListed k = true ∧ s.flag (F.EVT_SRC_CFG_EN k) = true) →
      s.latchPulse k = (s, false)) ∧
  (∀ (s : State) (k : Nat) (t : State) (m : Bool),
      s.flag F.EVT_CTRL_EN = true ∧ sourceListed k = true ∧ s.flag (F.EVT_SRC_CFG_EN k) = true →
      s.latchPulse k = (t, m) →
      tblGet t.latch k = tblGet s.latch k ||| s.f (F.EVT_SRC_CFG_TGT k) ∧ (∀ j, j ≠ k → tblGet t.latch j = tblGet s.latch j) ∧
      t.rtrig = (if s.flag (F.EVT_SRC_CFG_RTEN k) then s.rtrig ||| 2 ^ s.f (F.EVT_SRC_CFG_RTRIG k) else s.rtrig) ∧
      (m = true ↔ tblGet s.latch k &&& s.f (F.EVT_SRC_CFG_TGT k) ≠ 0) ∧ t = { s with latch := t.latch, rtrig := t.rtrig })

/-- Each integer instruction of major 0x00 gives the result of its row, in its cycles; a division by zero raises vector 7 -/
def Obligations.IntegerInstructionsGiveTheirResults : Prop :=
  (∀ c rd ra rb, FkPure c (.add c rd ra rb) 1 (fun k => (k.addFlags (k.rd ra) (k.rd rb) 0).wr rd ((k.rd ra) + (k.rd rb)))) ∧
  (∀ c rd ra rb, FkPure c (.adc c rd ra rb) 1 (fun k => (k.addFlags (k.rd ra) (k.rd rb) k.cy).wr rd (toW ((k.rd ra).toNat + (k.rd rb).toNat + k.cy)))) ∧
  (∀ c rd ra rb, FkPure c (.sub c rd ra rb) 1 (fun k => (k.subFlags (k.rd ra) (k.rd rb) 0).wr rd ((k.rd ra) - (k.rd rb)))) ∧
  (∀ c rd ra rb, FkPure c (.sbc c rd ra rb) 1 (fun k => (k.subFlags (k.rd ra) (k.rd rb) k.cy).wr rd (toW ((k.rd ra).toNat + 2 ^ 33 - (k.rd rb).toNat - k.cy)))) ∧
  (∀ c rd ra rb, FkPure c (.and c rd ra rb) 1 (fun k => (k.setNZ ((k.rd ra) &&& (k.rd rb))).wr rd ((k.rd ra) &&& (k.rd rb)))) ∧
  (∀ c rd ra rb, FkPure c (.or c rd ra rb) 1 (fun k => (k.setNZ ((k.rd ra) ||| (k.rd rb))).wr rd ((k.rd ra) ||| (k.rd rb)))) ∧
  (∀ c rd ra rb, FkPure c (.xor c rd ra rb) 1 (fun k => (k.setNZ ((k.rd ra) ^^^ (k.rd rb))).wr rd ((k.rd ra) ^^^ (k.rd rb)))) ∧
  (∀ c rd ra rb, FkPure c (.andn c rd ra rb) 1 (fun k => (k.setNZ ((k.rd ra) &&& ~~~(k.rd rb))).wr rd ((k.rd ra) &&& ~~~(k.rd rb)))) ∧
  (∀ c rd ra rb, FkPure c (.shl c rd ra rb) 1 (fun k => (k.shiftFlags (shlRes (k.rd ra) ((k.rd rb).toNat % 64))).wr rd (shlRes (k.rd ra) ((k.rd rb).toNat % 64)).1)) ∧
  (∀ c rd ra rb, FkPure c (.shr c rd ra rb) 1 (fun k => (k.shiftFlags (shrRes (k.rd ra) ((k.rd rb).toNat % 64))).wr rd (shrRes (k.rd ra) ((k.rd rb).toNat % 64)).1)) ∧
  (∀ c rd ra rb, FkPure c (.sar c rd ra rb) 1 (fun k => (k.shiftFlags (sarRes (k.rd ra) ((k.rd rb).toNat % 64))).wr rd (sarRes (k.rd ra) ((k.rd rb).toNat % 64)).1)) ∧
  (∀ c rd ra rb, FkPure c (.ror c rd ra rb) 1 (fun k => (k.shiftFlags (rorRes (k.rd ra) ((k.rd rb).toNat % 32))).wr rd (rorRes (k.rd ra) ((k.rd rb).toNat % 32)).1)) ∧
  (∀ c rd ra n, FkPure c (.shli c rd ra n) 1 (fun k => (k.shiftFlags (shlRes (k.rd ra) n.val)).wr rd (shlRes (k.rd ra) n.val).1)) ∧
  (∀ c rd ra n, FkPure c (.shri c rd ra n) 1 (fun k => (k.shiftFlags (shrRes (k.rd ra) n.val)).wr rd (shrRes (k.rd ra) n.val).1)) ∧
  (∀ c rd ra n, FkPure c (.sari c rd ra n) 1 (fun k => (k.shiftFlags (sarRes (k.rd ra) n.val)).wr rd (sarRes (k.rd ra) n.val).1)) ∧
  (∀ c ra rb, FkPure c (.cmp c ra rb) 1 (fun k => k.subFlags (k.rd ra) (k.rd rb) 0)) ∧
  (∀ c rd ra rb, FkPure c (.mul c rd ra rb) 1 (fun k => k.wr rd ((k.rd ra) * (k.rd rb)))) ∧
  (∀ c rd ra rb, FkPure c (.mulhu c rd ra rb) 1 (fun k => k.wr rd (toW ((k.rd ra).toNat * (k.rd rb).toNat / 2 ^ 32)))) ∧
  (∀ c rd ra rb, FkPure c (.mulhs c rd ra rb) 1 (fun k => k.wr rd (BitVec.ofInt 32 ((k.rd ra).toInt * (k.rd rb).toInt / 2 ^ 32)))) ∧
  (∀ c rd ra rb, FkPure c (.min c rd ra rb) 1 (fun k => k.wr rd (if (k.rd ra).toInt ≤ (k.rd rb).toInt then (k.rd ra) else (k.rd rb)))) ∧
  (∀ c rd ra rb, FkPure c (.max c rd ra rb) 1 (fun k => k.wr rd (if (k.rd ra).toInt ≤ (k.rd rb).toInt then (k.rd rb) else (k.rd ra)))) ∧
  (∀ c rd ra, FkPure c (.clz c rd ra) 1 (fun k => k.wr rd (toW (clzRes (k.rd ra))))) ∧
  (∀ c rd ra rb, FkPureIf c (.divu c rd ra rb) 36 (fun k => k.rd rb ≠ 0#32) (fun k => k.wr rd (toW ((k.rd ra).toNat / (k.rd rb).toNat)))) ∧
  (∀ c rd ra rb, FkRaises c (.divu c rd ra rb) (fun k => k.rd rb = 0#32) (fun _ => ⟨7, 0, none, false⟩)) ∧
  (∀ c rd ra rb, FkPureIf c (.divs c rd ra rb) 36 (fun k => k.rd rb ≠ 0#32) (fun k => k.wr rd (BitVec.ofInt 32 (Int.tdiv (k.rd ra).toInt (k.rd rb).toInt)))) ∧
  (∀ c rd ra rb, FkRaises c (.divs c rd ra rb) (fun k => k.rd rb = 0#32) (fun _ => ⟨7, 0, none, false⟩)) ∧
  (∀ c rd ra rb, FkPureIf c (.remu c rd ra rb) 36 (fun k => k.rd rb ≠ 0#32) (fun k => k.wr rd (toW ((k.rd ra).toNat % (k.rd rb).toNat)))) ∧
  (∀ c rd ra rb, FkRaises c (.remu c rd ra rb) (fun k => k.rd rb = 0#32) (fun _ => ⟨7, 0, none, false⟩)) ∧
  (∀ c rd ra rb, FkPureIf c (.rems c rd ra rb) 36 (fun k => k.rd rb ≠ 0#32) (fun k => k.wr rd ((k.rd ra) - (k.rd rb) * BitVec.ofInt 32 (Int.tdiv (k.rd ra).toInt (k.rd rb).toInt)))) ∧
  (∀ c rd ra rb, FkRaises c (.rems c rd ra rb) (fun k => k.rd rb = 0#32) (fun _ => ⟨7, 0, none, false⟩)) ∧
  (BitVec.ofInt 32 (Int.tdiv (0x80000000#32).toInt (0xFFFFFFFF#32).toInt) = 0x80000000#32) ∧
  (0x80000000#32 - 0xFFFFFFFF#32 * BitVec.ofInt 32 (Int.tdiv (0x80000000#32).toInt (0xFFFFFFFF#32).toInt) = 0#32) ∧
  (∀ a : Word, clzRes a ≤ 32 ∧ (∀ i, i < 32 → 31 - i < clzRes a → a.getLsbD i = false) ∧ (clzRes a < 32 → a.getLsbD (31 - clzRes a) = true))

/-- ADDI, ANDI, ORI, XORI, MOVH and CMPI give the results of R73 in one cycle -/
def Obligations.ImmediateInstructionsGiveTheirResults : Prop :=
  (∀ c rd ra imm, FkPure c (.addi c rd ra imm) 1 (fun k => k.wr rd ((k.rd ra) + imm.signExtend 32))) ∧
  (∀ c rd ra imm, FkPure c (.andi c rd ra imm) 1 (fun k => k.wr rd ((k.rd ra) &&& imm.zeroExtend 32))) ∧
  (∀ c rd ra imm, FkPure c (.ori c rd ra imm) 1 (fun k => k.wr rd ((k.rd ra) ||| imm.zeroExtend 32))) ∧
  (∀ c rd ra imm, FkPure c (.xori c rd ra imm) 1 (fun k => k.wr rd ((k.rd ra) ^^^ imm.zeroExtend 32))) ∧
  (∀ c rd imm, FkPure c (.movh c rd imm) 1 (fun k => k.wr rd (BitVec.ofNat 32 (imm.toNat * 65536)))) ∧
  (∀ c ra imm, FkPure c (.cmpi c ra imm) 1 (fun k => k.subFlags (k.rd ra) (imm.signExtend 32) 0))

/-- The decimal instructions give the results, carries and cycles of R78 to R80 -/
def Obligations.DecimalInstructionsGiveTheirResults : Prop :=
  (∀ c rd ra rb, FkPure c (.dadd c rd ra rb) 1 (fun k => (k.decFlags (((decVal (k.rd ra).toNat + decVal (k.rd rb).toNat + 0) % 100000000) == 0) (decide (100000000 ≤ decVal (k.rd ra).toNat + decVal (k.rd rb).toNat + 0)) (badDigits (k.rd ra).toNat || badDigits (k.rd rb).toNat)).wr rd (decPack (((decVal (k.rd ra).toNat + decVal (k.rd rb).toNat + 0) % 100000000))))) ∧
  (∀ c rd ra rb, FkPure c (.daddc c rd ra rb) 1 (fun k => (k.decFlags (((decVal (k.rd ra).toNat + decVal (k.rd rb).toNat + k.cy) % 100000000) == 0) (decide (100000000 ≤ decVal (k.rd ra).toNat + decVal (k.rd rb).toNat + k.cy)) (badDigits (k.rd ra).toNat || badDigits (k.rd rb).toNat)).wr rd (decPack (((decVal (k.rd ra).toNat + decVal (k.rd rb).toNat + k.cy) % 100000000))))) ∧
  (∀ c rd ra rb, FkPure c (.dsub c rd ra rb) 1 (fun k => (k.decFlags (((((decVal (k.rd ra).toNat : Nat) : Int) - ((decVal (k.rd rb).toNat : Nat) : Int) - 0) % 100000000).toNat == 0) (decide (decVal (k.rd ra).toNat < decVal (k.rd rb).toNat + 0)) (badDigits (k.rd ra).toNat || badDigits (k.rd rb).toNat)).wr rd (decPack (((((decVal (k.rd ra).toNat : Nat) : Int) - ((decVal (k.rd rb).toNat : Nat) : Int) - 0) % 100000000).toNat)))) ∧
  (∀ c rd ra rb, FkPure c (.dsubc c rd ra rb) 1 (fun k => (k.decFlags (((((decVal (k.rd ra).toNat : Nat) : Int) - ((decVal (k.rd rb).toNat : Nat) : Int) - k.cy) % 100000000).toNat == 0) (decide (decVal (k.rd ra).toNat < decVal (k.rd rb).toNat + k.cy)) (badDigits (k.rd ra).toNat || badDigits (k.rd rb).toNat)).wr rd (decPack (((((decVal (k.rd ra).toNat : Nat) : Int) - ((decVal (k.rd rb).toNat : Nat) : Int) - k.cy) % 100000000).toNat)))) ∧
  (∀ c ra rb, FkPure c (.dcmp c ra rb) 1 (fun k => k.decFlags (((((decVal (k.rd ra).toNat : Nat) : Int) - ((decVal (k.rd rb).toNat : Nat) : Int) - 0) % 100000000).toNat == 0) (decide (decVal (k.rd ra).toNat < decVal (k.rd rb).toNat + 0)) (badDigits (k.rd ra).toNat || badDigits (k.rd rb).toNat))) ∧
  (∀ c rd ra, FkPure c (.dadj c rd ra) 1 (fun k => let r := dadjRes (k.rd ra).toNat (k.cy == 1) (k.psrBits 11 4); (k.decFlags (toW r.1 == 0#32) r.2 false).wr rd (toW r.1))) ∧
  (∀ c rd ra n, FkPure c (.dshl c rd ra n) 1 (fun k => let d := (k.rd ra).toNat * 16 ^ n.val; (k.decFlags (toW d == 0#32) (d / 2 ^ 32 != 0) (badDigits (d % 2 ^ 32))).wr rd (toW d))) ∧
  (∀ c rd ra n, FkPure c (.dshr c rd ra n) 1 (fun k => let d := (k.rd ra).toNat / 16 ^ n.val; (k.decFlags (toW d == 0#32) ((k.rd ra).toNat % 16 ^ n.val != 0) (badDigits d)).wr rd (toW d))) ∧
  (∀ c rd ra, FkPure c (.d2b c rd ra) 4 (fun k => (k.decFlags (decVal (k.rd ra).toNat == 0) false (badDigits (k.rd ra).toNat)).wr rd (toW (decVal (k.rd ra).toNat)))) ∧
  (∀ c rd ra, FkPure c (.b2d c rd ra) 6 (fun k => (k.decFlags (decPack ((k.rd ra).toNat % 100000000) == 0#32) (decide (100000000 ≤ (k.rd ra).toNat)) false).wr rd (decPack ((k.rd ra).toNat % 100000000))))

/-- B, BL, Bcc, JR and JALR go to their targets in their cycles -/
def Obligations.BranchesAndJumpsGoToTheirTargets : Prop :=
  (∀ c off, FkGoes c (.b c off) (fun k => k = k) (fun k => 3) (fun k => k) (fun k => k.pc + 4#32 * off.signExtend 32)) ∧
  (∀ c off, FkGoes c (.bl c off) (fun k => k = k) (fun k => 3) (fun k => k.wr 30 (k.pc + 4#32)) (fun k => k.pc + 4#32 * off.signExtend 32)) ∧
  (∀ c cond off, FkGoes c (.bcc c cond off) (fun k => k.cond cond = true) (fun _ => 3) (fun k => k) (fun k => k.pc + 4#32 * off.signExtend 32)) ∧
  (∀ c cond off, FkGoes c (.bcc c cond off) (fun k => k.cond cond = false) (fun _ => 1) (fun k => k) (fun k => k.pc + 4#32)) ∧
  (∀ k : FkCore,
    (k.cond 0 = true ↔ (k.psrBits 1 1 = 1)) ∧
    (k.cond 1 = true ↔ ¬(k.psrBits 1 1 = 1)) ∧
    (k.cond 2 = true ↔ (k.psrBits 2 2 = 1)) ∧
    (k.cond 3 = true ↔ ¬(k.psrBits 2 2 = 1)) ∧
    (k.cond 4 = true ↔ (k.psrBits 0 0 = 1)) ∧
    (k.cond 5 = true ↔ ¬(k.psrBits 0 0 = 1)) ∧
    (k.cond 6 = true ↔ (k.psrBits 3 3 = 1)) ∧
    (k.cond 7 = true ↔ ¬(k.psrBits 3 3 = 1)) ∧
    (k.cond 8 = true ↔ (¬(k.psrBits 2 2 = 1) ∧ ¬(k.psrBits 1 1 = 1))) ∧
    (k.cond 9 = true ↔ ((k.psrBits 2 2 = 1) ∨ (k.psrBits 1 1 = 1))) ∧
    (k.cond 10 = true ↔ ((k.psrBits 0 0 = 1) ↔ (k.psrBits 3 3 = 1))) ∧
    (k.cond 11 = true ↔ ¬((k.psrBits 0 0 = 1) ↔ (k.psrBits 3 3 = 1))) ∧
    (k.cond 12 = true ↔ (¬(k.psrBits 1 1 = 1) ∧ ((k.psrBits 0 0 = 1) ↔ (k.psrBits 3 3 = 1)))) ∧
    (k.cond 13 = true ↔ ((k.psrBits 1 1 = 1) ∨ ¬((k.psrBits 0 0 = 1) ↔ (k.psrBits 3 3 = 1)))) ∧
    (k.cond 14 = true ↔ k.ba = true) ∧
    (k.cond 15 = true ↔ k.ba = false)) ∧
  (∀ c ra, FkGoes c (.jr c ra) (fun k => (k.rd ra).toNat % 4 = 0) (fun k => 4) (fun k => k) (fun k => k.rd ra)) ∧
  (∀ c rd ra, FkGoes c (.jalr c rd ra) (fun k => (k.rd ra).toNat % 4 = 0) (fun k => 4) (fun k => k.wr rd (k.pc + 4#32)) (fun k => k.rd ra)) ∧
  (∀ c ra, FkRaises c (.jr c ra) (fun k => (k.rd ra).toNat % 4 ≠ 0) (fun k => ⟨5, 2, some (k.rd ra), false⟩)) ∧
  (∀ c rd ra, FkRaises c (.jalr c rd ra) (fun k => (k.rd ra).toNat % 4 ≠ 0) (fun k => ⟨5, 2, some (k.rd ra), false⟩))

/-- PUSH, the pops, NOT, BTW, WTB, AB, FENCE and WFE act on BITST, PSR.ABN and the core as R74, R75, R82 and R84 say -/
def Obligations.BitStackAndBlockInstructionsActOnBitst : Prop :=
  (∀ c, FkPureIf c (.push c) 1 (fun k => c.pan.isSome ∧ k.depth < 16) (fun k => k.setStk (putBit k.stk k.depth k.ba) (k.depth + 1))) ∧
  (∀ c, FkPureIf c (.popa c) 1 (fun k => c.pan.isSome ∧ k.depth ≠ 0) (fun k => (k.setStk k.stk (k.depth - 1)).setBa (bit k.stk (k.depth - 1) && k.ba))) ∧
  (∀ c, FkPureIf c (.popo c) 1 (fun k => c.pan.isSome ∧ k.depth ≠ 0) (fun k => (k.setStk k.stk (k.depth - 1)).setBa (bit k.stk (k.depth - 1) || k.ba))) ∧
  (∀ c, FkPureIf c (.popx c) 1 (fun k => c.pan.isSome ∧ k.depth ≠ 0) (fun k => (k.setStk k.stk (k.depth - 1)).setBa (bit k.stk (k.depth - 1) != k.ba))) ∧
  (∀ c, FkPureIf c (.not c) 1 (fun k => c.pan.isSome ∧ k = k) (fun k => k.setBa (!k.ba))) ∧
  (∀ c, FkRaises c (.push c) (fun k => c.pan.isSome ∧ 16 ≤ k.depth) (fun k => ⟨6, 1, none, false⟩)) ∧
  (∀ c, FkRaises c (.popa c) (fun k => c.pan.isSome ∧ k.depth = 0) (fun k => ⟨6, 2, none, false⟩)) ∧
  (∀ c, FkRaises c (.popo c) (fun k => c.pan.isSome ∧ k.depth = 0) (fun k => ⟨6, 2, none, false⟩)) ∧
  (∀ c, FkRaises c (.popx c) (fun k => c.pan.isSome ∧ k.depth = 0) (fun k => ⟨6, 2, none, false⟩)) ∧
  (∀ i ∈ [Instr.push .steward, .popa .steward, .popo .steward, .popx .steward, .not .steward],
    FkRaises .steward i (fun k => k = k) (fun _ => ⟨1, 0, none, false⟩)) ∧
  (∀ c rd, FkPure c (.btw c rd) 1 (fun k => k.wr rd (if k.ba then 1#32 else 0#32))) ∧
  (∀ c ra, FkPure c (.wtb c ra) 1 (fun k => k.setBa (k.rd ra != 0#32))) ∧
  (∀ c imm, 1 ≤ imm.toNat → imm.toNat ≤ 15 → FkPure c (.ab c imm) 1 (fun k => if k.abn = 0 then { k.setPsr 23 20 imm.toNat with abAt := k.cyc } else k)) ∧
  (∀ c imm, (imm.toNat = 0 ∨ 15 < imm.toNat) → FkRaises c (.ab c imm) (fun k => k = k) (fun _ => ⟨1, 0, none, false⟩)) ∧
  (∀ c, FkPure c (.fence c) 1 (fun k => k)) ∧
  (∀ c, FkPureIf c (.wfe c) 1 (fun k => k.pl ≠ 0) (fun k => { k with run := .waiting })) ∧
  (∀ c, FkRaises c (.wfe c) (fun k => k.pl = 0) (fun k => ⟨2, 0, none, false⟩))

/-- MFS, MTS, ERET, SVC, BRK and undefined words act as R62 to R65, R74, R90 and R91 say -/
def Obligations.SystemInstructionsReadWriteAndReturn : Prop :=
  (∀ c rd sr s s0, Issues c s s0 → srLevel sr.val ≤ (s0.core c).pl →
    exec (.mfs c rd sr) s = .next (s0.fkDone c (((s0.core c).wr rd (s0.srRead c sr.val)).after (s0.core c) 1 ((s0.core c).pc + 4#32)))) ∧
  (∀ (s : State) c, s.srRead c 10 = toW ((s.core c).cycles c s.now)) ∧
  (∀ (s : State) c, (s.srRead c 0, s.srRead c 1, s.srRead c 2, s.srRead c 3, s.srRead c 4, s.srRead c 5, s.srRead c 6, s.srRead c 7) =
      ((s.core c).psr, (s.core c).bitst, (s.core c).xpc, (s.core c).xpsr, (s.core c).xbit, (s.core c).xcause, (s.core c).xaddr, (s.core c).xvb) ∧
    (s.srRead c 16, s.srRead c 17, s.srRead c 18) = ((s.core c).mctrl, (s.core c).asid, (s.core c).ttb) ∧
    s.srRead c 11 = toW c.num ∧
    (c ≠ .steward → s.srRead c 8 = toW (s.core c).tnow ∧ s.srRead c 9 = toW ((s.core c).tnow / 2 ^ 32)) ∧
    s.srRead .steward 8 = toW (s.dtime / 1000) ∧ s.srRead .steward 9 = toW (s.dtime / 1000 / 2 ^ 32) ∧
    (∀ n, 12 ≤ n → n ≤ 15 → s.srRead c n = 0#32)) ∧
  ((∀ n, n ≤ 1 → srLevel n = 0) ∧ (∀ n, 2 ≤ n → n ≤ 6 → srLevel n = 1) ∧ srLevel 7 = 2 ∧ (∀ n, 8 ≤ n → n ≤ 15 → srLevel n = 0) ∧ (∀ n, 16 ≤ n → srLevel n = 2)) ∧
  (∀ c rd sr, FkRaises c (.mfs c rd sr) (fun k => k.pl < srLevel sr.val) (fun k => ⟨2, 0, none, false⟩)) ∧
  (∀ c sr ra, FkRaises c (.mts c sr ra) (fun k => k.pl < srLevel sr.val) (fun k => ⟨2, 0, none, false⟩)) ∧
  (∀ c ra, FkPureIf c (.mts c 1 ra) 1 (fun k => srLevel 1 ≤ k.pl) (fun k => { k with bitst := normBitst (k.rd ra) })) ∧
  (∀ c ra, FkPureIf c (.mts c 2 ra) 1 (fun k => srLevel 2 ≤ k.pl) (fun k => { k with xpc := k.rd ra })) ∧
  (∀ c ra, FkPureIf c (.mts c 3 ra) 1 (fun k => srLevel 3 ≤ k.pl) (fun k => { k with xpsr := k.rd ra })) ∧
  (∀ c ra, FkPureIf c (.mts c 4 ra) 1 (fun k => srLevel 4 ≤ k.pl) (fun k => { k with xbit := k.rd ra })) ∧
  (∀ c ra, FkPureIf c (.mts c 7 ra) 1 (fun k => srLevel 7 ≤ k.pl) (fun k => { k with xvb := toW ((k.rd ra).toNat / 256 * 256) })) ∧
  (∀ c ra, FkPureIf c (.mts c 16 ra) 1 (fun k => srLevel 16 ≤ k.pl) (fun k => { k with mctrl := toW ((k.rd ra).toNat % 4) })) ∧
  (∀ c ra, FkPureIf c (.mts c 17 ra) 1 (fun k => srLevel 17 ≤ k.pl) (fun k => { k with asid := toW ((k.rd ra).toNat % 256) })) ∧
  (∀ c ra, FkPureIf c (.mts c 18 ra) 1 (fun k => srLevel 18 ≤ k.pl) (fun k => { k with ttb := toW ((k.rd ra).toNat / 0x4000 * 0x4000) })) ∧
  (∀ c ra, FkPureIf c (.mts c 0 ra) 1 (fun k => srLevel 0 ≤ k.pl) (fun k => k.psrWrite k.pl (k.rd ra).toNat)) ∧
  (∀ c (sr : Fin 32) ra, (sr.val = 5 ∨ sr.val = 6 ∨ (8 ≤ sr.val ∧ sr.val ≤ 15) ∨ sr.val = 20 ∨ 22 ≤ sr.val) → FkPureIf c (.mts c sr ra) 1 (fun k => srLevel sr.val ≤ k.pl) (fun k => k)) ∧
  (∀ (k : FkCore) (w : Word),
    (k.psrWrite 0 w.toNat).psr = (k.psr &&& 0xFFFFE000#32) ||| (w &&& 0x00001FFF#32) ∧
    (k.psrWrite 1 w.toNat).psr = (if w.toNat / 65536 % 4 ≤ 1 then (k.psr &&& 0xFFF0E000#32) ||| (w &&& 0x000F1FFF#32)
      else (k.psr &&& 0xFFF3E000#32) ||| (w &&& 0x000C1FFF#32)) ∧
    (k.psrWrite 2 w.toNat).psr = (if w.toNat / 65536 % 4 ≤ 2 then (k.psr &&& 0xFFF0E000#32) ||| (w &&& 0x000F1FFF#32)
      else (k.psr &&& 0xFFF3E000#32) ||| (w &&& 0x000C1FFF#32)) ∧
    ∀ l, k.psrWrite l w.toNat = { k with psr := (k.psrWrite l w.toNat).psr }) ∧
  (∀ c s s0 (k : FkCore), Issues c s s0 → k = s0.core c → k.pl ≠ 0 ∧ ¬(k.pl = 1 ∧ bits k.xpsr.toNat 17 16 = 2) ∧ bits k.xpsr.toNat 17 16 ≠ 3 →
    exec (.eret c) s = .next (s0.fkDone c { k with psr := k.xpsr &&& 0x00FF1FFF#32, bitst := normBitst k.xbit, pc := k.xpc, cyc := k.cyc + 4 })) ∧
  (∀ c, FkRaises c (.eret c) (fun k => k.pl = 0 ∨ (k.pl = 1 ∧ bits k.xpsr.toNat 17 16 = 2)) (fun k => ⟨2, 0, none, false⟩)) ∧
  (∀ c imm, FkRaises c (.svc c imm) (fun k => k = k) (fun k => ⟨8, 0, some (imm.zeroExtend 32), true⟩)) ∧
  (∀ c s s0, Issues c s s0 → s0.flag (F.DBG_CORE_CTRL_BRKHALT c.num) = false → exec (.brk c) s = .next ((s0.skipSpent c).fkExc c ⟨9, 0, none, false⟩)) ∧
  (∀ c s s0, Issues c s s0 → s0.flag (F.DBG_CORE_CTRL_BRKHALT c.num) = true → exec (.brk c) s = .next (s0.dbgHalt c 5 0)) ∧
  (∀ c word, fkWord c word.toNat = none → FkRaises c (.undefinedInstruction c word) (fun k => k = k) (fun _ => ⟨1, 0, none, false⟩))

/-- Exception entry saves XPC, XPSR, XBIT, XCAUSE and XADDR and goes to the vector; a second one stops the core; an event is taken the same way -/
def Obligations.ExceptionEntrySavesTheCoreAndGoesToTheVector : Prop :=
  (∀ (s : State) c (e : Exc), e.vec < 16 → e.sub < 256 →
    let k := s.core c
    let k1 := (s.enterExc c e).core c
    k1.xpc = (if e.next then k.pc + 4#32 else k.pc) ∧ k1.xpsr = k.psr ∧ k1.xbit = k.bitst ∧
    k1.xcause.toNat = e.vec + 16 * e.sub ∧ (∀ a, e.addr = some a → k1.xaddr = a) ∧ k1.bitst = 0#32 ∧
    k1.psrBits 17 16 = (if e.vec = 0 ∨ e.vec = 10 ∨ k.pl = 2 then 2 else 1) ∧ k1.psrBits 18 18 = 0 ∧ k1.psrBits 19 19 = 1 ∧ k1.psrBits 23 20 = 0 ∧
    k1.psrBits 12 0 = k.psrBits 12 0 ∧ k1.pc.toNat = (k.xvb.toNat + 16 * e.vec) % 2 ^ 32 ∧ k1.w = k.w ∧ k1.run = .running) ∧
  (∀ (s : State) c (e : Exc), (s.enterExc c e).regs = s.regs ∧ (∀ a, memGet (s.enterExc c e).mem a = memGet s.mem a) ∧
    (∀ d, d ≠ c → (s.enterExc c e).core d = s.core d)) ∧
  (∀ (s : State) c e, (s.core c).psrBits 19 19 = 1 → s.syncExc c e = (s.setCore c { s.core c with run := .xfault }).raise (32 + c.num)) ∧
  (∀ (s : State) c e, (s.core c).psrBits 19 19 = 0 → s.syncExc c e = s.enterExc c e) ∧
  (∀ (s : State) c e, (c = .steward ∨ e.vec = 8) → s.fkExc c e = s.syncExc c e) ∧
  (∀ (s : State) c (k : FkCore), k = (s.core c).sync c s.now → (k.run = .running ∨ k.run = .waiting) → k.psrBits 18 18 = 1 → k.psrBits 19 19 = 0 →
    k.abn = 0 → ∀ lvl src, s.coreEvent c = some (lvl, src) → exec (.eventTaken c) s = .next ((s.begins c).enterExc c ⟨11, lvl, none, false⟩))

/-- N, Z, C, V and H of additions, subtractions, logic, shifts and rotates are those of R71, and no other PSR bit changes -/
def Obligations.FlagsOfAdditionsSubtractionsAndShifts : Prop :=
  (∀ (k : FkCore) (a b : Word) (ci : Nat), ci ≤ 1 →
    let r := BitVec.ofNat 32 (a.toNat + b.toNat + ci)
    let t := k.addFlags a b ci
    t.psrBits 0 0 = b2n (r.getLsbD 31) ∧ t.psrBits 1 1 = b2n (r == 0#32) ∧ t.psrBits 2 2 = b2n (decide (2 ^ 32 ≤ a.toNat + b.toNat + ci)) ∧
    t.psrBits 3 3 = b2n (decide (r.toInt ≠ a.toInt + b.toInt + ci)) ∧
    (∀ j, j < 8 → t.psrBits (4 + j) (4 + j) = b2n (decide (2 ^ (4 * j + 4) ≤ a.toNat % 2 ^ (4 * j + 4) + b.toNat % 2 ^ (4 * j + 4) + ci))) ∧ t.psrBits 11 11 = t.psrBits 2 2 ∧
    t.psrBits 31 12 = k.psrBits 31 12 ∧ t = { k with psr := t.psr }) ∧
  (∀ (k : FkCore) (a b : Word) (ci : Nat), ci ≤ 1 →
    let r := a - b - BitVec.ofNat 32 ci
    let t := k.subFlags a b ci
    t.psrBits 0 0 = b2n (r.getLsbD 31) ∧ t.psrBits 1 1 = b2n (r == 0#32) ∧ t.psrBits 2 2 = b2n (decide (a.toNat < b.toNat + ci)) ∧
    t.psrBits 3 3 = b2n (decide (r.toInt ≠ a.toInt - b.toInt - ci)) ∧
    (∀ j, j < 8 → t.psrBits (4 + j) (4 + j) = b2n (decide (a.toNat % 2 ^ (4 * j + 4) < b.toNat % 2 ^ (4 * j + 4) + ci))) ∧ t.psrBits 11 11 = t.psrBits 2 2 ∧
    t.psrBits 31 12 = k.psrBits 31 12 ∧ t = { k with psr := t.psr }) ∧
  (∀ (k : FkCore) (r : Word), (k.setNZ r).psrBits 0 0 = b2n (r.getLsbD 31) ∧ (k.setNZ r).psrBits 1 1 = b2n (r == 0#32) ∧
    (k.setNZ r).psrBits 31 2 = k.psrBits 31 2 ∧ k.setNZ r = { k with psr := (k.setNZ r).psr }) ∧
  (∀ (a : Word) (n i : Nat), n ≤ 63 → i < 32 →
    (shlRes a n).1.getLsbD i = (decide (n ≤ i) && a.getLsbD (i - n)) ∧ (shrRes a n).1.getLsbD i = a.getLsbD (i + n) ∧
    (sarRes a n).1.getLsbD i = (if i + n < 32 then a.getLsbD (i + n) else a.getLsbD 31) ∧
    (n < 32 → (rorRes a n).1.getLsbD i = a.getLsbD ((i + n) % 32))) ∧
  (∀ (a : Word) (n : Nat), 1 ≤ n → n ≤ 63 →
    (shlRes a n).2 = some (decide (n ≤ 32) && a.getLsbD (32 - n)) ∧ (shrRes a n).2 = some (a.getLsbD (n - 1)) ∧
    (sarRes a n).2 = some (if n ≤ 32 then a.getLsbD (n - 1) else a.getLsbD 31) ∧ (n < 32 → (rorRes a n).2 = some (a.getLsbD (n - 1)))) ∧
  (∀ a : Word, shlRes a 0 = (a, none) ∧ shrRes a 0 = (a, none) ∧ sarRes a 0 = (a, none) ∧ rorRes a 0 = (a, none)) ∧
  (∀ (k : FkCore) (r : Word), k.shiftFlags (r, none) = k.setNZ r ∧
    ∀ c, k.shiftFlags (r, some c) = (k.setNZ r).setPsr 2 2 (b2n c))

/-- W0 reads as 0 and discards writes; every other general register reads back what was written, and no other register changes -/
def Obligations.GeneralRegistersReadBackAndWZeroIsZero : Prop :=
  (∀ (k : FkCore) (v : Word), k.rd 0 = 0#32 ∧ k.wr 0 v = k) ∧
  (∀ (k : FkCore) (r : Fin 32) (v : Word), r ≠ 0 → (k.wr r v).rd r = v ∧ (∀ q, q ≠ r → (k.wr r v).rd q = k.rd q) ∧ k.wr r v = { k with w := (k.wr r v).w })

/-- LDW, LDH, LDHS, LDB and LDBS read at W[ra] + s(imm16) and write the extended value; misaligned or refused loads raise their exceptions -/
def Obligations.LoadsWriteTheValueRead : Prop :=
  (∀ c rd ra imm s s0, Issues c s s0 → ((s0.core c).rd ra + imm.signExtend 32).toNat % 4 = 0 →
    ∀ s1 pa, s0.translate c ((s0.core c).rd ra + imm.signExtend 32).toNat .load = (s1, .ok pa) →
    ∀ s2 v, s1.busRead (s1.whoCore c) pa 4 = (s2, .ok v) → s2.noWp c →
    exec (.ldw c rd ra imm) s = .next ((s2.accCyc c pa).1.fkDone c
      (((s2.core c).wr rd (toW v)).after (s0.core c) (s2.accCyc c pa).2 ((s2.core c).pc + 4#32)))) ∧
  (∀ c rd ra imm s s0, Issues c s s0 → ((s0.core c).rd ra + imm.signExtend 32).toNat % 2 = 0 →
    ∀ s1 pa, s0.translate c ((s0.core c).rd ra + imm.signExtend 32).toNat .load = (s1, .ok pa) →
    ∀ s2 v, s1.busRead (s1.whoCore c) pa 2 = (s2, .ok v) → s2.noWp c →
    exec (.ldh c rd ra imm) s = .next ((s2.accCyc c pa).1.fkDone c
      (((s2.core c).wr rd (toW v)).after (s0.core c) (s2.accCyc c pa).2 ((s2.core c).pc + 4#32)))) ∧
  (∀ c rd ra imm s s0, Issues c s s0 → ((s0.core c).rd ra + imm.signExtend 32).toNat % 2 = 0 →
    ∀ s1 pa, s0.translate c ((s0.core c).rd ra + imm.signExtend 32).toNat .load = (s1, .ok pa) →
    ∀ s2 v, s1.busRead (s1.whoCore c) pa 2 = (s2, .ok v) → s2.noWp c →
    exec (.ldhs c rd ra imm) s = .next ((s2.accCyc c pa).1.fkDone c
      (((s2.core c).wr rd (BitVec.ofInt 32 (sval 16 v))).after (s0.core c) (s2.accCyc c pa).2 ((s2.core c).pc + 4#32)))) ∧
  (∀ c rd ra imm s s0, Issues c s s0 → ((s0.core c).rd ra + imm.signExtend 32).toNat % 1 = 0 →
    ∀ s1 pa, s0.translate c ((s0.core c).rd ra + imm.signExtend 32).toNat .load = (s1, .ok pa) →
    ∀ s2 v, s1.busRead (s1.whoCore c) pa 1 = (s2, .ok v) → s2.noWp c →
    exec (.ldb c rd ra imm) s = .next ((s2.accCyc c pa).1.fkDone c
      (((s2.core c).wr rd (toW v)).after (s0.core c) (s2.accCyc c pa).2 ((s2.core c).pc + 4#32)))) ∧
  (∀ c rd ra imm s s0, Issues c s s0 → ((s0.core c).rd ra + imm.signExtend 32).toNat % 1 = 0 →
    ∀ s1 pa, s0.translate c ((s0.core c).rd ra + imm.signExtend 32).toNat .load = (s1, .ok pa) →
    ∀ s2 v, s1.busRead (s1.whoCore c) pa 1 = (s2, .ok v) → s2.noWp c →
    exec (.ldbs c rd ra imm) s = .next ((s2.accCyc c pa).1.fkDone c
      (((s2.core c).wr rd (BitVec.ofInt 32 (sval 8 v))).after (s0.core c) (s2.accCyc c pa).2 ((s2.core c).pc + 4#32)))) ∧
  (∀ c rd ra imm s s0, Issues c s s0 → ((s0.core c).ea ra imm).toNat % 4 = 0 →
    ∀ s1 pa, s0.translate c ((s0.core c).ea ra imm).toNat .load = (s1, .ok pa) →
    memKind pa = .sram ∨ memKind pa = .itcm .a ∨ memKind pa = .itcm .b ∨ memKind pa = .dtcm .a ∨ memKind pa = .dtcm .b →
    s1.islandUp (addrIsland pa) = true → eccHits s1.ecc (s1.place pa) 4 = [] → s1.noWp c →
    ∀ v, v = leVal (memBytes s1.mem (s1.place pa) 4) →
    exec (.ldw c rd ra imm) s = .next ((s1.accCyc c pa).1.fkDone c
      (((s1.core c).wr rd (toW v)).after (s0.core c) (s1.accCyc c pa).2 ((s1.core c).pc + 4#32)))) ∧
  (∀ c rd ra imm s s0, Issues c s s0 → ∀ a, a = ((s0.core c).ea ra imm).toNat → a % 4 = 0 → bit (s0.core c).mctrl.toNat 0 = false →
    memKind a = .sram ∨ memKind a = .itcm .a ∨ memKind a = .itcm .b ∨ memKind a = .dtcm .a ∨ memKind a = .dtcm .b →
    s0.islandUp (addrIsland a) = true → s0.ecc = [] → s0.noWp c →
    ∃ t, exec (.ldw c rd ra imm) s = .next t ∧ ∀ v, v = leVal (memBytes s0.mem (s0.place a) 4) → (t.core c).rd rd = (if rd = 0 then 0 else toW v) ∧
      (t.core c).pc = (s0.core c).pc + 4#32 ∧ t.mem = s0.mem ∧ t.regs = s0.regs) ∧
  (∀ c rd ra imm s s0, Issues c s s0 → ((s0.core c).ea ra imm).toNat % 2 = 0 →
    ∀ s1 pa, s0.translate c ((s0.core c).ea ra imm).toNat .load = (s1, .ok pa) →
    memKind pa = .sram ∨ memKind pa = .itcm .a ∨ memKind pa = .itcm .b ∨ memKind pa = .dtcm .a ∨ memKind pa = .dtcm .b →
    s1.islandUp (addrIsland pa) = true → eccHits s1.ecc (s1.place pa) 2 = [] → s1.noWp c →
    ∀ v, v = leVal (memBytes s1.mem (s1.place pa) 2) →
    exec (.ldh c rd ra imm) s = .next ((s1.accCyc c pa).1.fkDone c
      (((s1.core c).wr rd (toW v)).after (s0.core c) (s1.accCyc c pa).2 ((s1.core c).pc + 4#32)))) ∧
  (∀ c rd ra imm s s0, Issues c s s0 → ∀ a, a = ((s0.core c).ea ra imm).toNat → a % 2 = 0 → bit (s0.core c).mctrl.toNat 0 = false →
    memKind a = .sram ∨ memKind a = .itcm .a ∨ memKind a = .itcm .b ∨ memKind a = .dtcm .a ∨ memKind a = .dtcm .b →
    s0.islandUp (addrIsland a) = true → s0.ecc = [] → s0.noWp c →
    ∃ t, exec (.ldh c rd ra imm) s = .next t ∧ ∀ v, v = leVal (memBytes s0.mem (s0.place a) 2) → (t.core c).rd rd = (if rd = 0 then 0 else toW v) ∧
      (t.core c).pc = (s0.core c).pc + 4#32 ∧ t.mem = s0.mem ∧ t.regs = s0.regs) ∧
  (∀ c rd ra imm s s0, Issues c s s0 → ((s0.core c).ea ra imm).toNat % 2 = 0 →
    ∀ s1 pa, s0.translate c ((s0.core c).ea ra imm).toNat .load = (s1, .ok pa) →
    memKind pa = .sram ∨ memKind pa = .itcm .a ∨ memKind pa = .itcm .b ∨ memKind pa = .dtcm .a ∨ memKind pa = .dtcm .b →
    s1.islandUp (addrIsland pa) = true → eccHits s1.ecc (s1.place pa) 2 = [] → s1.noWp c →
    ∀ v, v = leVal (memBytes s1.mem (s1.place pa) 2) →
    exec (.ldhs c rd ra imm) s = .next ((s1.accCyc c pa).1.fkDone c
      (((s1.core c).wr rd (BitVec.ofInt 32 (sval 16 v))).after (s0.core c) (s1.accCyc c pa).2 ((s1.core c).pc + 4#32)))) ∧
  (∀ c rd ra imm s s0, Issues c s s0 → ∀ a, a = ((s0.core c).ea ra imm).toNat → a % 2 = 0 → bit (s0.core c).mctrl.toNat 0 = false →
    memKind a = .sram ∨ memKind a = .itcm .a ∨ memKind a = .itcm .b ∨ memKind a = .dtcm .a ∨ memKind a = .dtcm .b →
    s0.islandUp (addrIsland a) = true → s0.ecc = [] → s0.noWp c →
    ∃ t, exec (.ldhs c rd ra imm) s = .next t ∧ ∀ v, v = leVal (memBytes s0.mem (s0.place a) 2) → (t.core c).rd rd = (if rd = 0 then 0 else BitVec.ofInt 32 (sval 16 v)) ∧
      (t.core c).pc = (s0.core c).pc + 4#32 ∧ t.mem = s0.mem ∧ t.regs = s0.regs) ∧
  (∀ c rd ra imm s s0, Issues c s s0 → ((s0.core c).ea ra imm).toNat % 1 = 0 →
    ∀ s1 pa, s0.translate c ((s0.core c).ea ra imm).toNat .load = (s1, .ok pa) →
    memKind pa = .sram ∨ memKind pa = .itcm .a ∨ memKind pa = .itcm .b ∨ memKind pa = .dtcm .a ∨ memKind pa = .dtcm .b →
    s1.islandUp (addrIsland pa) = true → eccHits s1.ecc (s1.place pa) 1 = [] → s1.noWp c →
    ∀ v, v = leVal (memBytes s1.mem (s1.place pa) 1) →
    exec (.ldb c rd ra imm) s = .next ((s1.accCyc c pa).1.fkDone c
      (((s1.core c).wr rd (toW v)).after (s0.core c) (s1.accCyc c pa).2 ((s1.core c).pc + 4#32)))) ∧
  (∀ c rd ra imm s s0, Issues c s s0 → ∀ a, a = ((s0.core c).ea ra imm).toNat → a % 1 = 0 → bit (s0.core c).mctrl.toNat 0 = false →
    memKind a = .sram ∨ memKind a = .itcm .a ∨ memKind a = .itcm .b ∨ memKind a = .dtcm .a ∨ memKind a = .dtcm .b →
    s0.islandUp (addrIsland a) = true → s0.ecc = [] → s0.noWp c →
    ∃ t, exec (.ldb c rd ra imm) s = .next t ∧ ∀ v, v = leVal (memBytes s0.mem (s0.place a) 1) → (t.core c).rd rd = (if rd = 0 then 0 else toW v) ∧
      (t.core c).pc = (s0.core c).pc + 4#32 ∧ t.mem = s0.mem ∧ t.regs = s0.regs) ∧
  (∀ c rd ra imm s s0, Issues c s s0 → ((s0.core c).ea ra imm).toNat % 1 = 0 →
    ∀ s1 pa, s0.translate c ((s0.core c).ea ra imm).toNat .load = (s1, .ok pa) →
    memKind pa = .sram ∨ memKind pa = .itcm .a ∨ memKind pa = .itcm .b ∨ memKind pa = .dtcm .a ∨ memKind pa = .dtcm .b →
    s1.islandUp (addrIsland pa) = true → eccHits s1.ecc (s1.place pa) 1 = [] → s1.noWp c →
    ∀ v, v = leVal (memBytes s1.mem (s1.place pa) 1) →
    exec (.ldbs c rd ra imm) s = .next ((s1.accCyc c pa).1.fkDone c
      (((s1.core c).wr rd (BitVec.ofInt 32 (sval 8 v))).after (s0.core c) (s1.accCyc c pa).2 ((s1.core c).pc + 4#32)))) ∧
  (∀ c rd ra imm s s0, Issues c s s0 → ∀ a, a = ((s0.core c).ea ra imm).toNat → a % 1 = 0 → bit (s0.core c).mctrl.toNat 0 = false →
    memKind a = .sram ∨ memKind a = .itcm .a ∨ memKind a = .itcm .b ∨ memKind a = .dtcm .a ∨ memKind a = .dtcm .b →
    s0.islandUp (addrIsland a) = true → s0.ecc = [] → s0.noWp c →
    ∃ t, exec (.ldbs c rd ra imm) s = .next t ∧ ∀ v, v = leVal (memBytes s0.mem (s0.place a) 1) → (t.core c).rd rd = (if rd = 0 then 0 else BitVec.ofInt 32 (sval 8 v)) ∧
      (t.core c).pc = (s0.core c).pc + 4#32 ∧ t.mem = s0.mem ∧ t.regs = s0.regs) ∧
  (∀ c rd ra imm,
    FkRaises c (.ldw c rd ra imm) (fun k => (k.ea ra imm).toNat % 4 ≠ 0) (fun k => ⟨5, 1, some (k.ea ra imm), false⟩) ∧
    FkRaises c (.ldh c rd ra imm) (fun k => (k.ea ra imm).toNat % 2 ≠ 0) (fun k => ⟨5, 1, some (k.ea ra imm), false⟩) ∧
    FkRaises c (.ldhs c rd ra imm) (fun k => (k.ea ra imm).toNat % 2 ≠ 0) (fun k => ⟨5, 1, some (k.ea ra imm), false⟩)) ∧
  (∀ c rd ra imm s s0, Issues c s s0 → ((s0.core c).ea ra imm).toNat % 4 = 0 →
    ∀ s1 e, s0.translate c ((s0.core c).ea ra imm).toNat .load = (s1, .error e) →
    exec (.ldw c rd ra imm) s = .next ((if (s1.core c).cyc = (s0.core c).cyc then (s1.skipSpent c).spend c 1 else s1.skipSpent c).fkExc c ⟨4, e, some ((s0.core c).ea ra imm), false⟩)) ∧
  (∀ c rd ra imm s s0, Issues c s s0 → ((s0.core c).ea ra imm).toNat % 4 = 0 →
    ∀ s1 pa s2, s0.translate c ((s0.core c).ea ra imm).toNat .load = (s1, .ok pa) → s1.busRead (s1.whoCore c) pa 4 = (s2, .busErr) →
    exec (.ldw c rd ra imm) s = .next ((if ((s2.accSpend c pa).core c).cyc = (s0.core c).cyc then ((s2.accSpend c pa).skipSpent c).spend c 1 else (s2.accSpend c pa).skipSpent c).fkExc c ⟨4, 3, some ((s0.core c).ea ra imm), false⟩)) ∧
  (∀ (s : State) c va kind, (s.translate c va kind).1.mem = s.mem) ∧
  (∀ (s : State) who a n, memKind a = .sram ∨ memKind a = .itcm .a ∨ memKind a = .itcm .b ∨ memKind a = .dtcm .a ∨ memKind a = .dtcm .b →
    (s.busRead who a n).1.mem = s.mem ∧ ∀ s2 v, s.busRead who a n = (s2, .ok v) → v = leVal (memBytes s.mem (s.place a) n))

/-- STW, STH and STB store the low bytes of W[rd] at W[ra] + s(imm16); every byte outside them keeps its value -/
def Obligations.StoresWriteTheBytesAndNothingElse : Prop :=
  (∀ c rd ra imm s s0, Issues c s s0 → ((s0.core c).rd ra + imm.signExtend 32).toNat % 4 = 0 →
    ∀ s1 pa, s0.translate c ((s0.core c).rd ra + imm.signExtend 32).toNat .store = (s1, .ok pa) →
    ∀ sb, sb = (match c.pan with | some p => s1.critRead (stbStore p) 4 | none => s1) →
    ∀ s2, s2 = sb.busWrite (sb.whoCore c) pa 4 (((s0.core c).rd rd).toNat % 256 ^ 4) → s2.noWp c →
    exec (.stw c rd ra imm) s = .next (s2.fkDone c
      ((s2.core c).after (s0.core c) (if memKind pa = .sram then 24 else 1) ((s0.core c).pc + 4#32)))) ∧
  (∀ c rd ra imm s s0, Issues c s s0 → ((s0.core c).rd ra + imm.signExtend 32).toNat % 2 = 0 →
    ∀ s1 pa, s0.translate c ((s0.core c).rd ra + imm.signExtend 32).toNat .store = (s1, .ok pa) →
    ∀ sb, sb = (match c.pan with | some p => s1.critRead (stbStore p) 4 | none => s1) →
    ∀ s2, s2 = sb.busWrite (sb.whoCore c) pa 2 (((s0.core c).rd rd).toNat % 256 ^ 2) → s2.noWp c →
    exec (.sth c rd ra imm) s = .next (s2.fkDone c
      ((s2.core c).after (s0.core c) (if memKind pa = .sram then 24 else 1) ((s0.core c).pc + 4#32)))) ∧
  (∀ c rd ra imm s s0, Issues c s s0 → ((s0.core c).rd ra + imm.signExtend 32).toNat % 1 = 0 →
    ∀ s1 pa, s0.translate c ((s0.core c).rd ra + imm.signExtend 32).toNat .store = (s1, .ok pa) →
    ∀ sb, sb = (match c.pan with | some p => s1.critRead (stbStore p) 4 | none => s1) →
    ∀ s2, s2 = sb.busWrite (sb.whoCore c) pa 1 (((s0.core c).rd rd).toNat % 256 ^ 1) → s2.noWp c →
    exec (.stb c rd ra imm) s = .next (s2.fkDone c
      ((s2.core c).after (s0.core c) (if memKind pa = .sram then 24 else 1) ((s0.core c).pc + 4#32)))) ∧
  (∀ c rd ra imm,
    FkRaises c (.stw c rd ra imm) (fun k => (k.ea ra imm).toNat % 4 ≠ 0) (fun k => ⟨5, 1, some (k.ea ra imm), false⟩) ∧
    FkRaises c (.sth c rd ra imm) (fun k => (k.ea ra imm).toNat % 2 ≠ 0) (fun k => ⟨5, 1, some (k.ea ra imm), false⟩)) ∧
  (∀ c rd ra imm s s0, Issues c s s0 → ((s0.core c).ea ra imm).toNat % 4 = 0 →
    ∀ s1 e, s0.translate c ((s0.core c).ea ra imm).toNat .store = (s1, .error e) →
    exec (.stw c rd ra imm) s = .next ((if (s1.core c).cyc = (s0.core c).cyc then (s1.skipSpent c).spend c 1 else s1.skipSpent c).fkExc c ⟨4, e, some ((s0.core c).ea ra imm), false⟩)) ∧
  (∀ (s : State) who a n v, memWf s.mem = true →
    (memKind a = .sram ∨ memKind a = .itcm .a ∨ memKind a = .itcm .b ∨ memKind a = .dtcm .a ∨ memKind a = .dtcm .b ∨ memKind a = .retain) →
    s.islandUp (addrIsland a) = true →
    memBytes (s.busWrite who a n v).mem (s.place a) n = leBytes n v ∧
    (∀ b, (b < s.place a ∨ s.place a + n ≤ b) → memGet (s.busWrite who a n v).mem b = memGet s.mem b) ∧
    (s.busWrite who a n v).regs = s.regs ∧ (s.busWrite who a n v).panA = s.panA ∧ (s.busWrite who a n v).panB = s.panB ∧ (s.busWrite who a n v).stew = s.stew)

/-- The image instructions combine IMG[a] with BA and write at most that bit -/
def Obligations.ImageInstructionsReadAndWriteOneBit : Prop :=
  (∀ c p addr s s0, c.pan = some p → Issues c s s0 → ∀ s1 v, s0.memRead (dtcmBase p + addr.toNat / 8) 1 = (s1, .ok v) → s1.noWp c →
    exec (.ld c addr) s = .next (s1.fkDone c (((s1.core c).setBa (bit v (addr.toNat % 8))).after (s0.core c) 1 ((s1.core c).pc + 4#32)))) ∧
  (∀ c p addr s s0, c.pan = some p → Issues c s s0 → ∀ s1 v, s0.memRead (dtcmBase p + addr.toNat / 8) 1 = (s1, .ok v) → s1.noWp c →
    exec (.ldn c addr) s = .next (s1.fkDone c (((s1.core c).setBa (!bit v (addr.toNat % 8))).after (s0.core c) 1 ((s1.core c).pc + 4#32)))) ∧
  (∀ c p addr s s0, c.pan = some p → Issues c s s0 → ∀ s1 v, s0.memRead (dtcmBase p + addr.toNat / 8) 1 = (s1, .ok v) → s1.noWp c →
    exec (.imgAnd c addr) s = .next (s1.fkDone c (((s1.core c).setBa ((s1.core c).ba && bit v (addr.toNat % 8))).after (s0.core c) 1 ((s1.core c).pc + 4#32)))) ∧
  (∀ c p addr s s0, c.pan = some p → Issues c s s0 → ∀ s1 v, s0.memRead (dtcmBase p + addr.toNat / 8) 1 = (s1, .ok v) → s1.noWp c →
    exec (.imgAndn c addr) s = .next (s1.fkDone c (((s1.core c).setBa ((s1.core c).ba && !bit v (addr.toNat % 8))).after (s0.core c) 1 ((s1.core c).pc + 4#32)))) ∧
  (∀ c p addr s s0, c.pan = some p → Issues c s s0 → ∀ s1 v, s0.memRead (dtcmBase p + addr.toNat / 8) 1 = (s1, .ok v) → s1.noWp c →
    exec (.imgOr c addr) s = .next (s1.fkDone c (((s1.core c).setBa ((s1.core c).ba || bit v (addr.toNat % 8))).after (s0.core c) 1 ((s1.core c).pc + 4#32)))) ∧
  (∀ c p addr s s0, c.pan = some p → Issues c s s0 → ∀ s1 v, s0.memRead (dtcmBase p + addr.toNat / 8) 1 = (s1, .ok v) → s1.noWp c →
    exec (.orn c addr) s = .next (s1.fkDone c (((s1.core c).setBa ((s1.core c).ba || !bit v (addr.toNat % 8))).after (s0.core c) 1 ((s1.core c).pc + 4#32)))) ∧
  (∀ c p addr s s0, c.pan = some p → Issues c s s0 → ∀ s1 v, s0.memRead (dtcmBase p + addr.toNat / 8) 1 = (s1, .ok v) → s1.noWp c →
    exec (.imgXor c addr) s = .next (s1.fkDone c (((s1.core c).setBa ((s1.core c).ba != bit v (addr.toNat % 8))).after (s0.core c) 1 ((s1.core c).pc + 4#32)))) ∧
  (∀ c p addr s s0, c.pan = some p → Issues c s s0 → ¬((s0.core c).pl = 0 ∧ (addr.toNat ≤ 0x0FFFFF ∨ 0x380000 ≤ addr.toNat)) →
    ∀ s1 v, s0.memRead (dtcmBase p + addr.toNat / 8) 1 = (s1, .ok v) → ∀ s2, s2 = s1.imgPut p addr.toNat ((s0.core c).ba) → s2.noWp c →
    exec (.st c addr) s = .next (s2.fkDone c ((s2.core c).after (s0.core c) 1 ((s0.core c).pc + 4#32)))) ∧
  (∀ c p addr s s0, c.pan = some p → Issues c s s0 → ¬((s0.core c).pl = 0 ∧ (addr.toNat ≤ 0x0FFFFF ∨ 0x380000 ≤ addr.toNat)) →
    (s0.core c).ba = true → ∀ s1 v, s0.memRead (dtcmBase p + addr.toNat / 8) 1 = (s1, .ok v) → ∀ s2, s2 = s1.imgPut p addr.toNat (true) → s2.noWp c →
    exec (.set c addr) s = .next (s2.fkDone c ((s2.core c).after (s0.core c) 1 ((s0.core c).pc + 4#32)))) ∧
  (∀ c p addr s s0, c.pan = some p → Issues c s s0 → ¬((s0.core c).pl = 0 ∧ (addr.toNat ≤ 0x0FFFFF ∨ 0x380000 ≤ addr.toNat)) →
    (s0.core c).ba = true → ∀ s1 v, s0.memRead (dtcmBase p + addr.toNat / 8) 1 = (s1, .ok v) → ∀ s2, s2 = s1.imgPut p addr.toNat (false) → s2.noWp c →
    exec (.clr c addr) s = .next (s2.fkDone c ((s2.core c).after (s0.core c) 1 ((s0.core c).pc + 4#32)))) ∧
  (∀ c p addr s s0, c.pan = some p → Issues c s s0 → ¬((s0.core c).pl = 0 ∧ (addr.toNat ≤ 0x0FFFFF ∨ 0x380000 ≤ addr.toNat)) → (s0.core c).ba = false →
    (exec (.set c addr) s = .next (s0.fkDone c ((s0.core c).after (s0.core c) 1 ((s0.core c).pc + 4#32)))) ∧
    (exec (.clr c addr) s = .next (s0.fkDone c ((s0.core c).after (s0.core c) 1 ((s0.core c).pc + 4#32))))) ∧
  (∀ c p addr s s0, c.pan = some p → Issues c s s0 → addr.toNat < 0x80000 →
    ∀ s1 v, s0.memRead (dtcmBase p + addr.toNat / 8) 1 = (s1, .ok v) →
    ∀ s2 w, s1.memRead (dtcmBase p + (addr.toNat + 0x80000) / 8) 1 = (s2, .ok w) → s2.noWp c →
    (exec (.re c addr) s = .next (s2.fkDone c (((s2.core c).setBa (bit v (addr.toNat % 8) && !bit w (addr.toNat % 8))).after (s0.core c) 1 ((s2.core c).pc + 4#32)))) ∧
    (exec (.fe c addr) s = .next (s2.fkDone c (((s2.core c).setBa (!bit v (addr.toNat % 8) && bit w (addr.toNat % 8))).after (s0.core c) 1 ((s2.core c).pc + 4#32))))) ∧
  (∀ c p addr, c.pan = some p → 0x80000 ≤ addr.toNat →
    FkRaises c (.re c addr) (fun k => k = k) (fun _ => ⟨4, 5, some (toW (dtcmBase p + addr.toNat / 8)), false⟩) ∧
    FkRaises c (.fe c addr) (fun k => k = k) (fun _ => ⟨4, 5, some (toW (dtcmBase p + addr.toNat / 8)), false⟩)) ∧
  (∀ c p addr s s0, c.pan = some p → Issues c s s0 → ¬((s0.core c).pl = 0 ∧ (addr.toNat ≤ 0x0FFFFF ∨ 0x380000 ≤ addr.toNat)) →
    ∀ s1 v, s0.memRead (dtcmBase p + addr.toNat / 8) 1 = (s1, .ok v) → ∀ s2, s2 = s1.imgPut p addr.toNat (s1.core c).ba → s2.noWp c →
    (exec (.rem c addr) s = .next (s2.fkDone c (((s2.core c).setBa ((s1.core c).ba && !bit v (addr.toNat % 8))).after (s0.core c) 2 ((s2.core c).pc + 4#32)))) ∧
    (exec (.fem c addr) s = .next (s2.fkDone c (((s2.core c).setBa (!(s1.core c).ba && bit v (addr.toNat % 8))).after (s0.core c) 2 ((s2.core c).pc + 4#32))))) ∧
  (∀ c p addr, c.pan = some p → (addr.toNat ≤ 0x0FFFFF ∨ 0x380000 ≤ addr.toNat) →
    ∀ i ∈ [Instr.st c addr, .set c addr, .clr c addr, .rem c addr, .fem c addr],
    FkRaises c i (fun k => k.pl = 0) (fun _ => ⟨4, 4, some (toW (dtcmBase p + addr.toNat / 8)), false⟩)) ∧
  (∀ (s : State) p (a : Nat) b, memWf s.mem = true → a < 2 ^ 22 → s.islandUp (addrIsland (imgByte p a)) = true →
    memGet (s.imgPut p a b).mem (s.place (imgByte p a)) = BitVec.ofNat 8 (putBit (memGet s.mem (s.place (imgByte p a))).toNat (a % 8) b) ∧
    (∀ q, q ≠ s.place (imgByte p a) → memGet (s.imgPut p a b).mem q = memGet s.mem q) ∧ (s.imgPut p a b).regs = s.regs)

/-- TON, TOF, TP, CTU and CTD update the record at W[ra] + s(imm16), BA and W[rd] as R86 to R88 say -/
def Obligations.TimersAndCountersUpdateTheirRecords : Prop :=
  (∀ c p rd ra imm s s0, c.pan = some p → Issues c s s0 → ((s0.core c).ea ra imm).toNat % 16 = 0 →
    ∀ s1 pa, s0.translate c ((s0.core c).ea ra imm).toNat .store = (s1, .ok pa) → memKind pa = .dtcm p →
    ∀ sa va, s1.memRead (pa + 12) 2 = (sa, .ok va) → ∀ u, u = leAt (sa.mbytes (sa.place (pa + 12)) 2) 0 1 → u ≤ 2 →
    ∀ s2 v, sa.memRead pa 14 = (s2, .ok v) → ∀ b, b = s2.mbytes (s2.place pa) 14 →
    ∀ r et, (r, et) = tonStep ((s2.core c).tnow % 2 ^ 64) ((readTmr b).pt * tmrUnit u) (s2.core c).ba (readTmr b) →
    ∀ s3, s2.memWrite pa 8 r.start = some s3 →
    ∀ s4, s3.memWrite (pa + 13) 1 (TmrRec.flags { r with inLast := (s2.core c).ba }) = some s4 → s4.noWp c →
    exec (.ton c rd ra imm) s = .next (s4.fkDone c
      ((((s2.core c).wr rd (toW (et / tmrUnit u))).setBa r.q).after (s0.core c) 8 ((s2.core c).pc + 4#32)))) ∧
  (∀ c p rd ra imm s s0, c.pan = some p → Issues c s s0 → ((s0.core c).ea ra imm).toNat % 16 = 0 →
    ∀ s1 pa, s0.translate c ((s0.core c).ea ra imm).toNat .store = (s1, .ok pa) → memKind pa = .dtcm p →
    ∀ sa va, s1.memRead (pa + 12) 2 = (sa, .ok va) → ∀ u, u = leAt (sa.mbytes (sa.place (pa + 12)) 2) 0 1 → u ≤ 2 →
    ∀ s2 v, sa.memRead pa 14 = (s2, .ok v) → ∀ b, b = s2.mbytes (s2.place pa) 14 →
    ∀ r et, (r, et) = tofStep ((s2.core c).tnow % 2 ^ 64) ((readTmr b).pt * tmrUnit u) (s2.core c).ba (readTmr b) →
    ∀ s3, s2.memWrite pa 8 r.start = some s3 →
    ∀ s4, s3.memWrite (pa + 13) 1 (TmrRec.flags { r with inLast := (s2.core c).ba }) = some s4 → s4.noWp c →
    exec (.tof c rd ra imm) s = .next (s4.fkDone c
      ((((s2.core c).wr rd (toW (et / tmrUnit u))).setBa r.q).after (s0.core c) 8 ((s2.core c).pc + 4#32)))) ∧
  (∀ c p rd ra imm s s0, c.pan = some p → Issues c s s0 → ((s0.core c).ea ra imm).toNat % 16 = 0 →
    ∀ s1 pa, s0.translate c ((s0.core c).ea ra imm).toNat .store = (s1, .ok pa) → memKind pa = .dtcm p →
    ∀ sa va, s1.memRead (pa + 12) 2 = (sa, .ok va) → ∀ u, u = leAt (sa.mbytes (sa.place (pa + 12)) 2) 0 1 → u ≤ 2 →
    ∀ s2 v, sa.memRead pa 14 = (s2, .ok v) → ∀ b, b = s2.mbytes (s2.place pa) 14 →
    ∀ r et, (r, et) = tpStep ((s2.core c).tnow % 2 ^ 64) ((readTmr b).pt * tmrUnit u) (s2.core c).ba (readTmr b) →
    ∀ s3, s2.memWrite pa 8 r.start = some s3 →
    ∀ s4, s3.memWrite (pa + 13) 1 (TmrRec.flags { r with inLast := (s2.core c).ba }) = some s4 → s4.noWp c →
    exec (.tp c rd ra imm) s = .next (s4.fkDone c
      ((((s2.core c).wr rd (toW (et / tmrUnit u))).setBa r.q).after (s0.core c) 8 ((s2.core c).pc + 4#32)))) ∧
  (∀ t pt r,
    (tonStep t pt true r = (let r1 := { r with start := if r.inLast then r.start else t }
      ({ r1 with q := decide (pt ≤ tmrEl t r1.start) }, min (tmrEl t r1.start) pt))) ∧
    tonStep t pt false r = ({ r with q := false }, 0) ∧
    tofStep t pt true r = ({ r with q := true, seen := true }, 0) ∧
    (tofStep t pt false r = (let r1 := { r with start := if r.inLast then t else r.start }
      if r.seen then ({ r1 with q := decide (tmrEl t r1.start < pt) }, min (tmrEl t r1.start) pt) else ({ r1 with q := false }, 0))) ∧
    (r.run = true → pt ≤ tmrEl t r.start → ∀ i, (tpStep t pt i r).1.run = false ∧ (tpStep t pt i r).1.q = false ∧
      (tpStep t pt i r).2 = (if i then pt else 0) ∧ (tpStep t pt i r).1.done = i) ∧
    (r.run = true → tmrEl t r.start < pt → ∀ i, tpStep t pt i r = ({ r with q := true }, tmrEl t r.start)) ∧
    (r.run = false → r.done = false → r.inLast = false → 0 < pt → tpStep t pt true r = ({ r with start := t, run := true, q := true }, tmrEl t t)) ∧
    (r.run = false → r.done = true → tpStep t pt true r = ({ r with q := false }, pt) ∧ tpStep t pt false r = ({ r with q := false, done := false }, 0)) ∧
    tmrEl t t = 0) ∧
  (∀ c p rd ra imm s s0, c.pan = some p → Issues c s s0 → ((s0.core c).ea ra imm).toNat % 16 = 0 →
    ∀ s1 pa, s0.translate c ((s0.core c).ea ra imm).toNat .store = (s1, .ok pa) → memKind pa = .dtcm p →
    ∀ s2 v, s1.memRead pa 9 = (s2, .ok v) → ∀ b, b = s2.mbytes (s2.place pa) 9 → (s2.core c).depth ≠ 0 →
    ∀ pv, pv = sval 32 (leAt b 4 4) → ∀ cv, cv = ctuStep (s2.core c).top (s2.core c).ba (bit (leAt b 8 1) 0) (sval 32 (leAt b 0 4)) pv →
    ∀ s3, s2.memWrite pa 4 (BitVec.ofInt 32 cv).toNat = some s3 →
    ∀ s4, s3.memWrite (pa + 8) 1 (b2n (s2.core c).ba + 2 * b2n (decide (pv ≤ cv))) = some s4 → s4.noWp c →
    exec (.ctu c rd ra imm) s = .next (s4.fkDone c
      ((((s2.core c).drop.wr rd (BitVec.ofInt 32 cv)).setBa (decide (pv ≤ cv))).after (s0.core c) 6 ((s2.core c).pc + 4#32)))) ∧
  (∀ c p rd ra imm s s0, c.pan = some p → Issues c s s0 → ((s0.core c).ea ra imm).toNat % 16 = 0 →
    ∀ s1 pa, s0.translate c ((s0.core c).ea ra imm).toNat .store = (s1, .ok pa) → memKind pa = .dtcm p →
    ∀ s2 v, s1.memRead pa 9 = (s2, .ok v) → ∀ b, b = s2.mbytes (s2.place pa) 9 → (s2.core c).depth ≠ 0 →
    ∀ pv, pv = sval 32 (leAt b 4 4) → ∀ cv, cv = ctdStep (s2.core c).top (s2.core c).ba (bit (leAt b 8 1) 0) (sval 32 (leAt b 0 4)) pv →
    ∀ s3, s2.memWrite pa 4 (BitVec.ofInt 32 cv).toNat = some s3 →
    ∀ s4, s3.memWrite (pa + 8) 1 (b2n (s2.core c).ba + 2 * b2n (decide (cv ≤ 0))) = some s4 → s4.noWp c →
    exec (.ctd c rd ra imm) s = .next (s4.fkDone c
      ((((s2.core c).drop.wr rd (BitVec.ofInt 32 cv)).setBa (decide (cv ≤ 0))).after (s0.core c) 6 ((s2.core c).pc + 4#32)))) ∧
  (∀ (last i : Bool) (cv pv : Int), ctuStep true i last cv pv = 0 ∧ ctdStep true i last cv pv = pv ∧
    ctuStep false i last cv pv = (if i = true ∧ last = false ∧ cv < 2147483647 then cv + 1 else cv) ∧
    ctdStep false i last cv pv = (if i = true ∧ last = false ∧ -2147483648 < cv then cv - 1 else cv)) ∧
  (∀ c p rd ra imm, c.pan = some p →
    ∀ i ∈ [Instr.ton c rd ra imm, .tof c rd ra imm, .tp c rd ra imm, .ctu c rd ra imm, .ctd c rd ra imm],
    FkRaises c i (fun k => (k.ea ra imm).toNat % 16 ≠ 0) (fun k => ⟨5, 3, some (k.ea ra imm), false⟩))

/-- Every command and event of the high-side switches completes and leaves what R263 to R287 give, in the cases named -/
def Obligations.HighSideSwitchCommandsActAsTheTablesSay : Prop :=
  (∀ (r : Req) (s : State) (x : Option Sess) (s1 : State) (n : Nat) (d : Nat) (l : Nat),
      Started s r 6 1 x s1 →
      r.payload.length = 4 →
      leAt r.payload 0 1 = n →
      leAt r.payload 1 2 = d →
      leAt r.payload 3 1 = l →
      n ≤ 47 →
      bits l 6 2 = 0 →
      s1.owner (resId 1 n) = 0 →
      ¬(d ≠ 0 ∧ (s1.setF (F.HSS_N_CFG_ILIM n) (l % 4)).hssHeld n = true) →
      exec (.hssSet r) s = .next ((((s1.setF (F.HSS_N_CFG_ILIM n) (l % 4)).when (bit l 7) (fun t => t.hssClear n false)).hssCommand n d).ok (rkeyOf r) [])) ∧
  (∀ (r : Req) (s : State) (x : Option Sess) (s1 : State) (n : Nat) (d : Nat) (l : Nat),
      Started s r 6 1 x s1 →
      r.payload.length = 4 →
      leAt r.payload 0 1 = n →
      leAt r.payload 1 2 = d →
      leAt r.payload 3 1 = l →
      n ≤ 47 →
      bits l 6 2 = 0 →
      s1.owner (resId 1 n) = 0 →
      d ≠ 0 →
      (s1.setF (F.HSS_N_CFG_ILIM n) (l % 4)).hssHeld n = true →
      exec (.hssSet r) s = .next ((((s1.setF (F.HSS_N_CFG_ILIM n) (l % 4)).when (bit l 7) (fun t => t.hssClear n false)).hssGated n).finish (rkeyOf r) stInterlocked [])) ∧
  (∀ (r : Req) (s : State) (x : Option Sess) (s1 : State) (m : Nat) (t : State),
      Started s r 6 5 x s1 →
      r.payload.length = 8 →
      leVal r.payload = m →
      m < 2 ^ 48 →
      firstBelow 48 (fun n => bit m n && s1.owner (resId 1 n) != 0) = none →
      s1.flag F.HSS_SWEEP_BUSY = false →
      t = forBelow 48 s1 (fun n v => v.when (bit m n) (fun w => w.modHss n (fun x => { x with sw := 0 }))) →
      exec (.openLoadSweep r) s = .next ((({ t with hss := { t.hss with sweep := some ((rkeyOf r), m) } }.setF F.HSS_SWEEP_BUSY 1).stopServed 4).accept (rkeyOf r))) ∧
  (∀ (who : Who) (en : Bool) (s : State),
      s.regOk who (A.HSS_CTRL) = true →
      exec (.hssCtrlEnWrite who en) s = .next (s.hssEn en)) ∧
  (∀ (s : State), s.hssEn (s.flag F.HSS_CTRL_EN) = s) ∧
  (∀ (s : State), s.flag F.HSS_CTRL_EN = true → s.hssEn false = forBelow 48 (s.setF F.HSS_CTRL_EN 0) (fun m t =>
        if t.hssLead m = m ∧ 1 ≤ t.hssState m ∧ t.hssState m ≤ 4 then t.hssOff m 0 else t)) ∧
  (∀ (who : Who) (n : Fin 48) (duty : BitVec 16) (s : State),
      s.regOk who (A.HSS_N_CMD n) = true →
      s.hssLead n = n →
      s.owner (resId 1 n) = 0 →
      exec (.hssCmdDuty who n duty) s = .next (s.hssCommand n duty.toNat)) ∧
  (∀ (who : Who) (n : Fin 48) (duty : BitVec 16) (s : State),
      s.regOk who (A.HSS_N_CMD n) = true →
      s.hssLead n = n →
      s.owner (resId 1 n) = 0 →
      exec (.hssCmdClear who n duty) s = .next ((s.hssClear n false).hssCommand n duty.toNat)) ∧
  (∀ (who : Who) (n : Fin 48) (duty : BitVec 16) (s : State),
      s.regOk who (A.HSS_N_CMD n) = true →
      s.hssLead n = n →
      s.owner (resId 1 n) ≠ 0 →
      exec (.hssCmdClear who n duty) s = .next (s.hssClear n true)) ∧
  (∀ (who : Who) (n : Fin 48) (par : Bool) (s : State),
      s.regOk who (A.HSS_N_CFG n) = true →
      exec (.hssParWrite who n par) s = .next (s.hssPar n par)) ∧
  (∀ (s : State) (n : Nat), n % 2 = 0 → s.flag (F.HSS_N_CFG_PAR n) = false → s.claimable 4 (resId 1 (n + 1)) = true →
      s.hssState n = 0 → s.hssState (n + 1) = 0 →
      s.hssPar n true = (((s.setF (F.HSS_N_CFG_PAR n) 1).setF (F.HSS_N_STAT_PARERR n) 0).setOwner (resId 1 (n + 1)) 4).hssFixRange (n + 1)) ∧
  (∀ (s : State) (n : Nat), n % 2 = 0 → s.flag (F.HSS_N_CFG_PAR n) = true → s.hssState n = 0 → s.hssState (n + 1) = 0 →
      s.hssPar n false = (((s.setF (F.HSS_N_CFG_PAR n) 0).setF (F.HSS_N_STAT_PARERR n) 0).release 4 (resId 1 (n + 1))).hssFixRange (n + 1)) ∧
  (∀ (who : Who) (g : Fin 6) (hz : BitVec 11) (s : State),
      s.regOk who (A.HSS_GRP_CFG g) = true →
      exec (.hssPwmHzWrite who g hz) s = .next ((s.hssGrid g).setF (F.HSS_GRP_CFG_PWM_HZ g) (max 100 (min 2000 hz.toNat)))) ∧
  (∀ (n : Fin 48) (s : State),
      exec (.hssPeriodStart n) s = .next (s.hssPeriodStart n)) ∧
  (∀ (s : State) (n : Nat), s.hssLead n = n → s.hssAll n = [n] → (s.hssGrid (n / 8)) = s → (s.hssCh n).want = none → s.hssState n = 1 →
      s.hssPwm n = true → (s.hssCh n).joining = false → (s.hssCh n).sampled = true →
      s.hssPeriodStart n = ((s.modHss n (fun c => { c with sampled := false })).modHss n (fun c => { c with joining := false })).hssDrive n true) ∧
  (∀ (n : Fin 48) (s : State),
      s.hssLead n = n →
      s.hssState n = 1 →
      s.hssPwm n = true →
      s.flag (F.HSS_N_STAT_OUT n) = true →
      hssOnTime (s.hssP n) (s.f (F.HSS_N_CMD_DUTY n)) ≠ s.hssP n →
      s.hssAll n = [n] →
      exec (.hssOnTimeEnd n) s = .next ((s.hssDrive n false).modHss n (fun c => { c with offAt := s.now }))) ∧
  (∀ (g : Fin 6) (s : State),
      exec (.hssGroupUndervoltage g) s = .next ((((s.setF (F.HSS_GRP_STAT_UV g) 1).incF (F.HSS_GRP_CNT_UVCNT g) 1).hssGroupOff g).raise (1168 + 3 * g.val))) ∧
  (∀ (g : Fin 6) (s : State),
      exec (.hssGroupOvervoltage g) s = .next ((((s.setF (F.HSS_GRP_STAT_OV g) 1).incF (F.HSS_GRP_CNT_OVCNT g) 1).hssGroupOff g).raise (1169 + 3 * g.val))) ∧
  (∀ (s : State) (g : Nat), s.hssGroupOff g = (s.hssLeads g).foldl (fun t m => if t.hssState m = 5 then t else t.hssOff m 6) s) ∧
  (∀ (g : Fin 6) (s : State) (t : State) (u : State),
      t = (s.setF (F.HSS_GRP_STAT_UV g) 0).setF (F.HSS_GRP_STAT_OV g) 0 →
      u = (t.hssLeads g).foldl State.hssRestart t →
      (u.hssLeads g).find? (fun m => (u.hssCh m).slot) = none →
      exec (.hssGroupRestart g) s = .next (u.raise (1170 + 3 * g.val))) ∧
  (∀ (g : Fin 6) (s : State) (t : State) (u : State) (m : Nat),
      t = (s.setF (F.HSS_GRP_STAT_UV g) 0).setF (F.HSS_GRP_STAT_OV g) 0 →
      u = (t.hssLeads g).foldl State.hssRestart t →
      (u.hssLeads g).find? (fun m => (u.hssCh m).slot) = some m →
      exec (.hssGroupRestart g) s = .next ((u.hssSlot m).raise (1170 + 3 * g.val))) ∧
  (∀ (n : Fin 48) (s : State),
      s.hssLead n = n →
      s.hssState n = 6 →
      (s.hssCh n).slot = true →
      s.hssOnCmd n = true →
      s.hssHeld n = false →
      exec (.hssRestartSlot n) s = .next (s.hssOn n true)) ∧
  (∀ (n : Fin 48) (s : State),
      s.hssLead n = n →
      s.hssState n = 6 →
      (s.hssCh n).slot = true →
      s.hssOnCmd n = false →
      exec (.hssRestartSlot n) s = .next (s.hssOff n 0)) ∧
  (∀ (g : Fin 6) (reduced : Bool) (s : State),
      exec (.hssReducedChange g reduced) s = .next (forBelow 8 (s.setFlag (F.HSS_GRP_STAT_REDUCED g) reduced) (fun i t => t.setFlag (F.HSS_N_STAT_OL_NT (8 * g.val + i)) reduced))) ∧
  (∀ (n : Fin 48) (s : State),
      (s.hssState n = 1 ∨ s.hssState n = 2) →
      exec (.hssOvertemp n) s = .next ((s.modHss n (fun c => { c with hot := true })).hssFault (s.hssLead n) 2)) ∧
  (∀ (n : Fin 48) (s : State),
      s.hssState n ≠ 1 →
      s.hssState n ≠ 2 →
      exec (.hssOvertemp n) s = .next (s.modHss n (fun c => { c with hot := true }))) ∧
  (∀ (s : State) (m : Nat), s.hssAll m = [m] → s.f (F.HSS_N_STAT_OTCNT m) < s.f (F.HSS_N_CFG_OT_RETRY m) →
      (s.setF (F.HSS_N_STAT_CAUSE m) 2).f (F.HSS_N_STAT_OTCNT m) = s.f (F.HSS_N_STAT_OTCNT m) → (s.setF (F.HSS_N_STAT_CAUSE m) 2).hssAll m = [m] →
      s.hssFault m 2 = ((s.setF (F.HSS_N_STAT_CAUSE m) 2).incF (F.HSS_N_STAT_OTCNT m) 1).hssOff m 4) ∧
  (∀ (s : State) (m : Nat), s.hssTrip m = (s.hssOff m 5).hssEach m (fun n t => ((t.incF (F.HSS_N_FLT_TRIPS n) 1).raise (1024 + 3 * n)).accTripped 0 n)) ∧
  (∀ (n : Fin 48) (code : Fin 4) (s : State),
      s.hssState n = 1 →
      s.flag (F.HSS_N_STAT_OUT n) = true →
      s.hssIlim (s.hssLead n) = code →
      exec (.hssLimitStart ⟨n, code⟩) s = .next (((s.setF (F.HSS_N_STAT_STATE n) 2).setF (F.HSS_N_STAT_LIMIT n) 1).raise (1025 + 3 * n.val))) ∧
  (∀ (s : State) (m : Nat), s.hssIlim m = match (s.hssCh m).ilim with | some c => c | none => s.f (F.HSS_N_CFG_ILIM m)) ∧
  (∀ (n : Fin 48) (s : State),
      s.hssState n = 2 →
      exec (.hssLimitEnd n) s = .next ((s.setF (F.HSS_N_STAT_STATE n) 1).setF (F.HSS_N_STAT_LIMIT n) 0)) ∧
  (∀ (n : Fin 48) (s : State),
      s.hssState n = 2 →
      (s.hssCh (s.hssLead n)).window = true →
      s.f (F.HSS_N_STAT_QRET (s.hssLead n)) < s.f (F.HSS_N_CFG_LAMP_N (s.hssLead n)) →
      exec (.hssLimitTimerExpiry n) s = .next ((s.hssEach (s.hssLead n) (fun k t => t.incF (F.HSS_N_STAT_QRET k) 1)).hssOff (s.hssLead n) 3)) ∧
  (∀ (n : Fin 48) (s : State),
      s.hssState n = 2 →
      (s.hssCh (s.hssLead n)).window = false →
      exec (.hssLimitTimerExpiry n) s = .next (s.hssFault (s.hssLead n) 1)) ∧
  (∀ (n : Fin 48) (s : State),
      s.hssState (s.hssLead n) = 1 →
      exec (.hssBlankExpiry n) s = .next (s.modHss (s.hssLead n) (fun c => { c with window := false }))) ∧
  (∀ (n : Fin 48) (s : State),
      s.hssState (s.hssLead n) = 3 →
      s.hssOnCmd (s.hssLead n) = true →
      exec (.hssQoffExpiry n) s = .next (s.hssOn (s.hssLead n) false)) ∧
  (∀ (n : Fin 48) (s : State),
      s.hssState (s.hssLead n) = 4 →
      exec (.hssRetryExpiry n) s = .next ((s.modHss (s.hssLead n) (fun c => { c with retryDue := true })).hssRetry (s.hssLead n))) ∧
  (∀ (s : State) (m : Nat), s.hssState m = 4 → (s.hssCh m).retryDue = true → s.hssOnCmd m = true → (s.f (F.HSS_N_STAT_CAUSE m) = 1 ∨ s.hssHot m = false) →
      s.hssRetry m = s.hssOn m false) ∧
  (∀ (n : Fin 48) (s : State),
      s.hssState (s.hssLead n) = 1 →
      exec (.hssRclrExpiry n) s = .next (s.hssEach (s.hssLead n) (fun k t => (t.setF (F.HSS_N_STAT_OCCNT k) 0).setF (F.HSS_N_STAT_OTCNT k) 0))) ∧
  (∀ (n : Fin 48) (code : BitVec 12) (s : State),
      s.flag (F.HSS_N_MEAS_STALE n) = false →
      s.hssPwm (s.hssLead n) = false →
      exec (.hssCurrentSample n code) s = .next (((s.hssReading n code.toNat (s.f (F.HSS_N_MEAS_RANGE n))).hssUnder n).hssAuto n)) ∧
  (∀ (n : Fin 48) (code : BitVec 12) (s : State),
      s.flag (F.HSS_N_MEAS_STALE n) = true →
      exec (.hssCurrentSample n code) s = .next (s)) ∧
  (∀ (s : State) (n code range : Nat), s.hssReading n code range =
      ((((((s.setF (F.HSS_N_MEAS_CODE n) code).setF (F.HSS_N_MEAS_RANGE n) range).setF (F.HSS_N_MEAS_STALE n) 0).setF (F.HSS_N_MEAS_NOSAMP n) 0).setFlag
        (F.HSS_N_MEAS_SAT n) (code == 4095)).modHss n (fun c => { c with sampled := true })).hssCurrent (s.hssLead n)) ∧
  (∀ (n : Fin 48) (code : BitVec 12) (s : State) (q : Nat),
      (s.hssCh n).newRange = some q →
      exec (.hssRangeChangeDone n code) s = .next ((((s.modHss n (fun c => { c with newRange := none, low := 0 })).hssReading n code.toNat q).hssUnder n).hssAuto n)) ∧
  (∀ (n : Fin 48) (tj : BitVec 8) (warn : Bool) (hot : Bool) (s : State) (t : State),
      t = (((s.setF (F.HSS_N_TEMP_TJ n) tj.toNat).setF (F.HSS_N_TEMP_TJMAX n) (max (s.f (F.HSS_N_TEMP_TJMAX n)) tj.toNat)).setFlag (F.HSS_N_STAT_OTW n) warn).modHss n (fun c => { c with hot := hot }) →
      t.hssState (t.hssLead n) ≠ 4 →
      exec (.hssTempSample n tj warn hot) s = .next (t)) ∧
  (∀ (n : Fin 48) (pullup : Bool) (above : Bool) (s : State),
      s.hssLead n = n →
      s.flag F.HSS_CTRL_EN = true →
      (s.hssCh n).seen = true →
      s.f (F.HSS_N_DCFG_OLMODE n) = 1 →
      s.hssState n = 0 →
      s.hssOnCmd n = false →
      s.flag (F.HSS_GRP_STAT_REDUCED (n.val / 8)) = false →
      exec (.hssOffstateTest n pullup above) s = .next (s.hssDiag n (if pullup then F.HSS_N_STAT_OPEN_OFF n else F.HSS_N_STAT_SHORT_SUP n) above)) ∧
  (∀ (s : State) (n : Nat) (x : Fld), (s.flag x = false → s.hssDiag n x true = (s.setFlag x true).raise (1026 + 3 * n)) ∧
      (s.flag x = true → s.hssDiag n x true = s.setFlag x true) ∧ s.hssDiag n x false = s.setFlag x false) ∧
  (∀ (opens : BitVec 48) (shortL : BitVec 32) (shortH : BitVec 16) (s : State),
      s.hss.sweep = none →
      exec (.hssSweepDone opens shortL shortH) s = .next (s)) ∧
  (∀ (opens : BitVec 48) (shortL : BitVec 32) (shortH : BitVec 16) (s : State) (k : RKey) (m : Nat) (t : State) (tested : Nat → Bool) (u : State) (ol : Nat) (nt : Nat),
      s.hss.sweep = some (k, m) →
      t = { s with hss := { s.hss with sweep := none } }.setF F.HSS_SWEEP_BUSY 0 →
      t.mustStop 4 = false →
      tested = (fun n => bit m n && !s.hssNotTested n) →
      u = forBelow 48 t (fun n v => v.when (tested n) (fun w => w.hssSweepCh opens.toNat (shortH ++ shortL).toNat n)) →
      (ol = hssMask (fun n => tested n && (if s.hssState n = 0 then bit opens.toNat n || bit (shortH ++ shortL).toNat n else s.hssSweepUnder n))) →
      nt = hssMask (fun n => bit m n && s.hssNotTested n) →
      exec (.hssSweepDone opens shortL shortH) s = .next (((((((u.setF F.HSS_SWEEP_OL_L_BITS ol).setF F.HSS_SWEEP_OL_H_BITS (ol / 2 ^ 32)).setF F.HSS_SWEEP_NT_L_BITS nt).setF F.HSS_SWEEP_NT_H_BITS (nt / 2 ^ 32)).raise 1186).ok k (leBytes 8 ol))))

/-- Every command and event of the solenoid drivers completes and leaves what R289 to R311 give, in the cases named -/
def Obligations.SolenoidCommandsActAsTheTablesSay : Prop :=
  (∀ (r : Req) (s : State) (x : Option Sess) (s1 : State) (n : Nat) (code : Nat) (t : Nat),
      Started s r 6 2 x s1 →
      r.payload.length = 10 →
      leAt r.payload 0 1 = n →
      leAt r.payload 1 1 = code →
      leAt r.payload 2 8 = t →
      n ≤ 11 →
      (code ≤ 31 ∨ code = 0x80 ∨ code = 0x81) →
      t ≤ s1.dtime + 1800000000000 →
      s1.owner (resId 2 n) = 0 →
      exec (.solRun r) s = .next (s1.solQueue n { (default : SolCmd) with code := code, due := if t = 0 then none else some (t / 1000 % 2 ^ 32), dtime := t, req := some (rkeyOf r) })) ∧
  (∀ (who : Who) (en : Bool) (s : State),
      s.regOk who (A.SOL_CTRL) = true →
      exec (.solCtrlEnWrite who en) s = .next (s.solEn en)) ∧
  (∀ (s : State),
      s.flag F.SOL_CTRL_EN = true →
      s.solEn false = forBelow 12 (s.setFlag F.SOL_CTRL_EN false) (fun n t =>
        (if t.solState n = 1 ∨ t.solState n = 2 then (t.solDrain n 3 false none).solFinOn n stFailed (leBytes 2 0x0B14) else t).solFlush n 0x0B14)) ∧
  (∀ (s : State),
      s.flag F.SOL_CTRL_EN = false →
      s.solEn true = s.setFlag F.SOL_CTRL_EN true) ∧
  (∀ (who : Who) (n : Fin 12) (code : BitVec 8) (s : State) (cc : CoreId) (pl : Fin 3),
      s.regOk who (A.SOL_N_CMD n) = true →
      who = .core cc pl →
      s.owner (resId 2 n) = 0 →
      (code.toNat ≤ 31 ∨ code.toNat = 0x80 ∨ code.toNat = 0x81) →
      s.flag F.SOL_CTRL_EN = true →
      exec (.solCmdCode who n code) s = .next (s.solQueue n { (default : SolCmd) with code := code.toNat, due := if s.f (F.SOL_N_CTIME_TTIME n) = 0 then none else some (s.f (F.SOL_N_CTIME_TTIME n)) })) ∧
  (∀ (who : Who) (n : Fin 12) (s : State) (cc : CoreId) (pl : Fin 3),
      s.regOk who (A.SOL_N_CMD n) = true →
      who = .core cc pl →
      s.solLead n = n →
      exec (.solCmdClear who n) s = .next (s.solClear n)) ∧
  (∀ (who : Who) (n : Fin 12) (s : State) (cc : CoreId) (pl : Fin 3),
      s.regOk who (A.SOL_N_CMD n) = true →
      who = .core cc pl →
      s.owner (resId 2 n) = 0 →
      exec (.solCmdRelease who n) s = .next (s.solRelease n)) ∧
  (∀ (who : Who) (n : Fin 12) (s : State) (cc : CoreId) (pl : Fin 3),
      s.regOk who (A.SOL_N_CMD n) = true →
      who = .core cc pl →
      s.owner (resId 2 n) = 0 →
      exec (.solCmdFlush who n) s = .next (s.solFlush n 0x0B14)) ∧
  (∀ (s : State) (n : Nat),
      (s.solState n = 5 → s.solHot n = false → s.solClear n = s.setF (F.SOL_N_STAT_STATE n) 4) ∧ (s.solHot n = true → s.solClear n = s)) ∧
  (∀ (s : State) (n : Nat) (c : SolCmd),
      s.flag F.SOL_CTRL_EN = true →
      c.image = false →
      4 ≤ (s.solCh n).q.length →
      s.solQueue n c = ((s.setF (F.SOL_N_STAT_DROPPED n) 1).raise 1255).solFin c.req stLimit (leBytes 2 0x0B01)) ∧
  (∀ (s : State) (n : Nat) (c : SolCmd) (t : State),
      s.flag F.SOL_CTRL_EN = true →
      c.image = false →
      (s.solCh n).q.length < 4 →
      t = s.modSol n (fun x => { x with q := x.q ++ [c] }) →
      t.solOverdue n (s.solCh n).q.length = false →
      s.solQueue n c = t.solExam n) ∧
  (∀ (s : State) (n : Nat) (p : Nat) (rk : Option RKey),
      ¬(s.solState n = 2 ∧ s.f (F.SOL_N_STAT_PROF n) = p) →
      (s.flag F.SOL_SUP_UV = true → s.solOn n p rk = (s.setF (F.SOL_N_STAT_UVOFF n) 1).solFail rk 0x0B13) ∧
      (s.flag F.SOL_SUP_UV = false → s.solHeld n = true → s.solOn n p rk = (s.setF (F.SOL_N_STAT_GATED n) 1).solFin rk stInterlocked []) ∧
      (s.flag F.SOL_SUP_UV = false → s.solHeld n = false → s.solDutyOk n p = true → s.solOn n p rk = s.solStart n p rk) ∧
      (s.flag F.SOL_SUP_UV = false → s.solHeld n = false → s.solDutyOk n p = false →
        s.solOn n p rk = (((s.setF (F.SOL_N_STAT_DUTYREF n) 1).setF (F.SOL_N_STAT_CAUSE n) 6).raise (1218 + 3 * n)).solFail rk 0x0B12)) ∧
  (∀ (who : Who) (p : Fin 32) (k : Fin 8) (b : Word) (s : State),
      s.regOk who (A.SOL_PROF_B p k) = true →
      exec (.solProfileWrite who p k b) s = .next (s.solProf p k b.toNat)) ∧
  (∀ (s : State) (p : Nat) (k : Nat) (b : Nat) (a : Nat),
      a = (s.reg (A.SOL_PROF_A p k)).toNat →
      (solPhaseOk a b s.solAnyPair = true →
        s.solProf p k b = { s with sol := { s.sol with prof := tblSet s.sol.prof (8 * p + k) (a, b) } }.setReg (A.SOL_PROF_B p k) (toW b)) ∧
      (solPhaseOk a b s.solAnyPair = false →
        s.solProf p k b = (s.setF F.SOL_CTRL_PERR 1).setReg (A.SOL_PROF_A p k) (toW (tblGet s.sol.prof (8 * p + k)).1))) ∧
  (∀ (who : Who) (n : Fin 12) (par : Bool) (s : State),
      s.regOk who (A.SOL_N_CFG n) = true →
      par = true →
      n.val % 2 = 0 →
      s.flag (F.SOL_N_CFG_PAR n) = false →
      s.claimable 4 (resId 2 (n + 1)) = true →
      s.solState n = 0 →
      s.solState (n + 1) = 0 →
      exec (.solParWrite who n par) s = .next ((s.setF (F.SOL_N_CFG_PAR n) 1).setOwner (resId 2 (n + 1)) 4)) ∧
  (∀ (who : Who) (n : Fin 12) (par : Bool) (s : State),
      s.regOk who (A.SOL_N_CFG n) = true →
      par = false →
      n.val % 2 = 0 →
      s.flag (F.SOL_N_CFG_PAR n) = true →
      s.solState n = 0 →
      s.solState (n + 1) = 0 →
      exec (.solParWrite who n par) s = .next ((s.setF (F.SOL_N_CFG_PAR n) 0).release 4 (resId 2 (n + 1)))) ∧
  (∀ (who : Who) (n : Fin 12) (dmax : BitVec 16) (dwin : BitVec 8) (s : State),
      s.regOk who (A.SOL_N_DUTY n) = true →
      exec (.solDutyWrite who n dmax dwin) s = .next (s.solDuty n dmax.toNat dwin.toNat)) ∧
  (∀ (s : State) (n : Nat) (dmax : Nat),
      0 < s.f (F.SOL_N_DUTY_DWIN_S n) →
      s.solDuty n dmax (s.f (F.SOL_N_DUTY_DWIN_S n)) = s.setF (F.SOL_N_DUTY_DMAX_MS n) dmax) ∧
  (∀ (n : Fin 12) (s : State) (c : SolCmd),
      (s.solCh n).q.head? = some c →
      (s.solState n = 0 ∨ s.solState n = 2 ∨ s.solState n = 5) →
      c.held = false →
      c.due = none →
      exec (.solCommandTaken n) s = .next (s.solTake n c)) ∧
  (∀ (n : Fin 12) (s : State) (c : SolCmd) (d : Nat),
      (s.solCh n).q.head? = some c →
      c.due = some d →
      s.solPast d = false →
      s.solState n ≠ 5 →
      exec (.solCommandTaken n) s = .next (s)) ∧
  (∀ (s : State) (n : Nat) (c : SolCmd) (t : State),
      t = ((s.modSol n (fun x => { x with q := x.q.drop 1 })).solUnstick n).when c.late (fun u => u.setF (F.SOL_N_STAT_LATE n) 1) →
      (c.code = 0x80 → t.solState n = 0 → (t.solFin c.req stOk (leBytes 4 0xFFFFFFFF)).solState n = 0 → s.solTake n c = t.solFin c.req stOk (leBytes 4 0xFFFFFFFF)) ∧
      (c.code = 0x81 → t.solHot n = false → s.solTake n c = (t.solClear n).solFin c.req stOk (leBytes 4 0xFFFFFFFF)) ∧
      (c.code ≤ 31 → t.solState n = 5 → s.solTake n c = t.solFail c.req 0x0B11) ∧
      (c.code ≤ 31 → t.solState n ≠ 5 → s.solTake n c = t.solOn n c.code c.req)) ∧
  (∀ (n : Fin 12) (s : State),
      exec (.solDue n) s = .next (forBelow 4 s (fun _ t => t.solTry n))) ∧
  (∀ (n : Fin 12) (i : Fin 4) (s : State),
      s.solOverdue n i = true →
      exec (.solLate n i) s = .next ((s.solLateAt n i false).solExam n)) ∧
  (∀ (s : State) (n : Nat) (i : Nat) (c : SolCmd) (t : State),
      (s.solCh n).q[i]? = some c →
      c.late = false →
      t = (s.setF (F.SOL_N_STAT_LATE n) 1).raise 1254 →
      c.code ≤ 31 →
      (s.f (F.SOL_N_CFG_LATEPOL n) = 1 → s.solLateAt n i false =
        ((((t.setF (F.SOL_N_STAT_DROPPED n) 1).modSol n (fun x => { x with q := x.q.eraseIdx i })).raise 1255).solFin c.req stLate (leBytes 8 c.dtime))) ∧
      (s.f (F.SOL_N_CFG_LATEPOL n) = 2 → s.solLateAt n i false =
        (t.modSol n (fun x => { x with q := x.q.set i { c with late := true, arr := false, held := true, req := none } })).solFail c.req 0x0B15) ∧
      (s.f (F.SOL_N_CFG_LATEPOL n) = 0 → s.solLateAt n i false = t.modSol n (fun x => { x with q := x.q.set i { c with late := true, arr := false } }))) ∧
  (∀ (n : Fin 12) (s : State),
      s.solState n = 1 →
      exec (.solPhaseEnd n) s = .next ((s.solNext n).solExam n)) ∧
  (∀ (s : State) (n : Nat),
      s.solNext n = (s.modSol n (fun c => { c with kink := { c.kink with past := true } })).solBegin n (s.f (F.SOL_N_STAT_PHASE n) + 1)) ∧
  (∀ (s : State) (n : Nat) (k : Nat),
      (7 < k ∨ (s.solPhase n k).1 % 8 = 0) →
      s.solBegin n k = ((s.solCharge n).solDrain n ((s.solCharge n).f (F.SOL_N_CFG_REL_CL n)) false none).raise (1216 + 3 * n)) ∧
  (∀ (n : Fin 12) (s : State),
      s.solState n = 1 →
      (s.solPhase n (s.f (F.SOL_N_STAT_PHASE n))).1 % 8 = 2 →
      (s.solPhase n (s.f (F.SOL_N_STAT_PHASE n))).2 % 2 ^ 24 = 0 →
      exec (.solReleaseLimit n) s = .next ((s.solNext n).solExam n)) ∧
  (∀ (n : Fin 12) (s : State),
      s.solReg n = true →
      exec (.solChopPeriod n) s = .next (s.modSol n (fun c => { c with hs := true, ls := true }))) ∧
  (∀ (n : Fin 12) (s : State),
      s.solReg n = true →
      exec (.solCurrentTarget n) s = .next (s.modSol n (fun c => { c with hs := false, ls := !(bits (s.solPhase n (s.f (F.SOL_N_STAT_PHASE n))).1 6 5 == 1), regulating := true }))) ∧
  (∀ (n : Fin 12) (s : State),
      s.solState n = 3 →
      (s.solCh n).pend = false →
      exec (.solDrainDone n) s = .next (((s.setF (F.SOL_N_STAT_STATE n) 4).modSol n (fun c => { c with reached := true })).solResult n)) ∧
  (∀ (n : Fin 12) (s : State) (t : State),
      s.solState n = 3 →
      (s.solCh n).pend = true →
      t = (s.modSol n (fun c => { c with pend := false })).solLatch n →
      exec (.solDrainDone n) s = .next ((t.solFinOn n stFailed (leBytes 2 (if t.f (F.SOL_N_STAT_CAUSE n) = 7 then 0x0B10 else 0x0B11))).solExam n)) ∧
  (∀ (s : State) (n : Nat),
      s.solLatch n = (((s.setF (F.SOL_N_STAT_STATE n) 5).incF (F.SOL_N_FLT_FAULTS n) 1).raise (1218 + 3 * n)).accTripped 1 n) ∧
  (∀ (n : Fin 12) (s : State),
      s.solState n = 4 →
      exec (.solToffExpiry n) s = .next ((s.setF (F.SOL_N_STAT_STATE n) 0).solExam n)) ∧
  (∀ (n : Fin 12) (i : BitVec 16) (mean : BitVec 16) (v : BitVec 16) (s : State) (t : State),
      t = s.solMeas n i.toNat mean.toNat v.toNat →
      ((t.solCh n).kink.mode = 0 ∨ (t.solCh n).kink.mode = 4) →
      exec (.solKinkSample n i mean v) s = .next (t)) ∧
  (∀ (n : Fin 12) (i : BitVec 16) (mean : BitVec 16) (v : BitVec 16) (s : State) (t : State) (y : SolKink) (e : Option (Option Nat)),
      t = s.solMeas n i.toNat mean.toNat v.toNat →
      ((t.solCh n).kink.mode = 1 ∨ (t.solCh n).kink.mode = 2 ∨ (t.solCh n).kink.mode = 3) →
      (t.solCh n).kink.step (s.f (F.SOL_N_KCFG_KFILT n) + 1) (s.f (F.SOL_N_KCFG_KDIP n)) (s.f (F.SOL_N_KCFG_KVDROP n)) (s.f (F.SOL_N_KWIN_KMIN n)) (s.f (F.SOL_N_KWIN_KMAX n)) (t.solCh n).regulating (t.solSum n SolCh.ownI) v.toInt = (y, e) →
      exec (.solKinkSample n i mean v) s = .next (match e with | none => t.modSol n (fun c => { c with kink := y }) | some k => ((t.modSol n (fun c => { c with kink := y })).solKinkEnd n k).solKinkAct n)) ∧
  (∀ (n : Fin 12) (s : State),
      s.solLead n = n →
      (s.solState n = 1 ∨ s.solState n = 2) →
      exec (.solOvercurrent n) s = .next (((((((s.modSol n (fun c => { c with kink := { c.kink with past := true, cut := c.kink.cut || !c.kink.past } })).solSwitchOff n 3).setF (F.SOL_N_STAT_CAUSE n) 1).solLatch n).solFinOn n stFailed (leBytes 2 0x0B11)).solExam n))) ∧
  (∀ (n : Fin 12) (s : State),
      s.solLead n = n →
      (s.solState n = 1 ∨ s.solState n = 2) →
      exec (.solOpenCoil n) s = .next (((((((s.modSol n (fun c => { c with kink := { c.kink with past := true, cut := c.kink.cut || !c.kink.past } })).solSwitchOff n 3).setF (F.SOL_N_STAT_CAUSE n) 3).solLatch n).solFinOn n stFailed (leBytes 2 0x0B11)).solExam n))) ∧
  (∀ (n : Fin 12) (s : State) (t : State),
      t = s.modSol n (fun c => { c with hot := true }) →
      (t.solState (t.solLead n) = 1 ∨ t.solState (t.solLead n) = 2) →
      exec (.solOvertemp n) s = .next (t.solDrain (t.solLead n) 3 true (some 2))) ∧
  (∀ (n : Fin 12) (s : State) (t : State),
      t = s.modSol n (fun c => { c with hot := true }) →
      t.solState (t.solLead n) ≠ 1 →
      t.solState (t.solLead n) ≠ 2 →
      exec (.solOvertemp n) s = .next (t)) ∧
  (∀ (s : State) (n : Nat) (i : Nat) (mean : Nat) (v : Nat) (u : State),
      u = ((s.modSol n (fun c => { c with own := mean, ownI := i })).setF (F.SOL_N_MEAS_CURRENT n) mean).setF (F.SOL_N_MEAS_VCOIL n) v →
      s.solMeas n i mean v = u.setF (F.SOL_N_MEAS_CURRENT (s.solLead n)) (min 65535 (u.solSum (s.solLead n) SolCh.own))) ∧
  (∀ (n : Fin 12) (tj : BitVec 8) (warn : Bool) (hot : Bool) (s : State),
      exec (.solJunctionWarning n tj warn hot) s = .next ((((s.setF (F.SOL_N_DUSE_TJ n) tj.toNat).setF (F.SOL_N_DUSE_TJMAX n) (max (s.f (F.SOL_N_DUSE_TJMAX n)) tj.toNat)).setFlag (F.SOL_N_STAT_OTW n) warn).modSol n (fun c => { c with hot := hot }))) ∧
  (∀ (s : State),
      exec (.vsolUndervoltage) s = .next ((forBelow 12 (s.setF F.SOL_SUP_UV 1) (fun n t => t.solUv n)).raise 1252)) ∧
  (∀ (s : State) (n : Nat) (t : State),
      t = s.solFlush n 0x0B13 →
      t.solState n = 0 →
      s.solUv n = t) ∧
  (∀ (s : State) (n : Nat) (t : State),
      t = (s.solFlush n 0x0B13).setF (F.SOL_N_STAT_UVOFF n) 1 →
      1 ≤ (s.solFlush n 0x0B13).solState n →
      (s.solFlush n 0x0B13).solState n ≤ 3 →
      (t.solCh n).pend = false →
      s.solUv n = (t.solDrain n 3 false (some 4)).solFinOn n stFailed (leBytes 2 0x0B13)) ∧
  (∀ (s : State),
      exec (.vsolRestart) s = .next ((s.setF F.SOL_SUP_UV 0).raise 1253)) ∧
  (∀ (n : Fin 12) (s : State),
      exec (.solBucketOpen n) s = .next (((s.solCharge n).modSol n (fun c => { c with buckets := (0 :: c.buckets).take 16 })).solCharge n))

/-- Every command and event of the field channels and of the measurement inputs completes and leaves what R312 to R329 give -/
def Obligations.FieldChannelAndMeasurementCommandsActAsTheTablesSay : Prop :=
  (∀ (r : Req) (s : State) (x : Option Sess) (s1 : State) (n : Nat) (v : Nat),
      Started s r 6 4 x s1 →
      r.payload.length = 2 →
      leAt r.payload 0 1 = n →
      leAt r.payload 1 1 = v →
      n ≤ 63 →
      (v = 0 ∨ v = 1) →
      s1.owner (resId 3 n) = 0 →
      s1.dioMode n = 3 →
      exec (.dioSet r) s = .next ((s1.dioCommand n (v == 1)).ok (rkeyOf r) [])) ∧
  (∀ (r : Req) (s : State) (x : Option Sess) (s1 : State) (n : Nat),
      Started s r 6 4 x s1 →
      r.payload.length = 2 →
      leAt r.payload 0 1 = n →
      leAt r.payload 1 1 = 0x80 →
      n ≤ 63 →
      s1.owner (resId 3 n) ≠ 5 →
      s1.dioMode n = 3 →
      exec (.dioSet r) s = .next ((s1.dioClear n true).ok (rkeyOf r) [])) ∧
  (∀ (r : Req) (s : State) (x : Option Sess) (s1 : State) (n : Nat) (v : Nat),
      Started s r 6 4 x s1 →
      r.payload.length = 2 →
      leAt r.payload 0 1 = n →
      leAt r.payload 1 1 = v →
      n ≤ 63 →
      (v = 0 ∨ v = 1) →
      s1.owner (resId 3 n) ≠ 5 →
      s1.dioMode n ≠ 3 →
      exec (.dioSet r) s = .next (s1.wrongState (rkeyOf r) (s1.dioMode n))) ∧
  (∀ (who : Who) (en : Bool) (s : State),
      s.regOk who (A.DIO_CTRL) = true →
      en ≠ s.flag F.DIO_CTRL_EN →
      exec (.dioCtrlEnWrite who en) s = .next ((forBelow 64 (s.setFlag F.DIO_CTRL_EN en) (fun n t => if en then t.dioFollow n else (t.dioFollow n).dioBlank n)).accWatch s)) ∧
  (∀ (who : Who) (en : Bool) (s : State),
      s.regOk who (A.DIO_CTRL) = true →
      en = s.flag F.DIO_CTRL_EN →
      exec (.dioCtrlEnWrite who en) s = .next (s)) ∧
  (∀ (who : Who) (n : Fin 64) (out : Bool) (s : State),
      s.regOk who (A.DIO_N_CMD n) = true →
      s.owner (resId 3 n) = 0 →
      exec (.dioCmdOut who n out) s = .next (s.dioCommand n out)) ∧
  (∀ (who : Who) (n : Fin 64) (out : Bool) (s : State),
      s.regOk who (A.DIO_N_CMD n) = true →
      s.owner (resId 3 n) = 0 →
      exec (.dioCmdClear who n out) s = .next ((s.dioClear n false).dioCommand n out)) ∧
  (∀ (who : Who) (n : Fin 64) (out : Bool) (s : State),
      s.regOk who (A.DIO_N_CMD n) = true →
      s.owner (resId 3 n) ≠ 0 →
      exec (.dioCmdClear who n out) s = .next (s.dioClear n true)) ∧
  (∀ (who : Who) (n : Fin 64) (out : Bool) (s : State),
      s.regOk who (A.DIO_N_CMD n) = true →
      s.owner (resId 3 n) ≠ 0 →
      exec (.dioCmdOut who n out) s = .next ((s.conflict (resId 3 n) (whoOwner who) 1).busErr who)) ∧
  (∀ (s : State) (n : Nat) (out : Bool) (t : State),
      t = s.setFlag (F.DIO_N_CMD_OUT n) out →
      (t.dioState n = 0 → t.dioOn n = true → s.dioCommand n out = t.dioEnter n 1) ∧ (t.dioState n = 1 → t.dioOn n = false → s.dioCommand n out = t.dioEnter n 0) ∧
      (2 ≤ t.dioState n → s.dioCommand n out = t)) ∧
  (∀ (s : State) (n : Nat),
      s.dioState n = 2 →
      ¬(s.f (F.DIO_N_STAT_CAUSE n) = 2 ∧ (tblGet s.dio.ch n).hot = true) →
      s.dioClear n false = s.dioEnter n (if s.flag F.DIO_STAT_UV && s.dioMode n == 3 then 3 else 0)) ∧
  (∀ (who : Who) (n : Fin 64) (value : Word) (s : State),
      s.regOk who (A.DIO_N_CFG n) = true →
      s.owner (resId 3 n) ≠ 5 →
      ((s.owner (resId 3 n) = 1 ∨ s.owner (resId 3 n) = 2) → bits value.toNat 1 0 = 3) →
      exec (.dioCfgWrite who n value) s = .next (s.dioCfg n value.toNat)) ∧
  (∀ (who : Who) (n : Fin 64) (value : Word) (s : State),
      s.regOk who (A.DIO_N_CFG n) = true →
      s.owner (resId 3 n) = 5 →
      exec (.dioCfgWrite who n value) s = .next ((s.conflict (resId 3 n) (whoOwner who) 1).busErr who)) ∧
  (∀ (s : State) (n : Nat) (w : Nat) (t : State),
      t = s.setReg (A.DIO_N_CFG n) (toW (dioCfgWord n w)) →
      t.flag (F.DIO_N_CFG_WB n) = true →
      (t.dioMode n = 1 ∨ t.dioMode n = 2) →
      s.dioMode n ≠ 3 →
      s.dioCfg n w = t) ∧
  (∀ (n : Fin 64) (broken : Bool) (ticks : BitVec 16) (s : State) (k : Nat),
      s.dioEval n = true →
      s.flag (F.DIO_N_CFG_WB n) = true →
      s.flag F.DIO_STAT_RED = false →
      broken = true →
      dioFilter (max 10 (s.f (F.DIO_N_CFG_FILT n)) * 100) (tblGet s.dio.ch n).wrun ticks.toNat broken (s.flag (F.DIO_N_STAT_WBRK n)) = (k, true) →
      exec (.dioWireBreakChange n ⟨broken, ticks⟩) s = .next (((s.modDio n (fun c => { c with wrun := k })).setFlag (F.DIO_N_STAT_WBRK n) true).raise 1328)) ∧
  (∀ (n : Fin 64) (broken : Bool) (ticks : BitVec 16) (s : State) (k : Nat),
      s.dioEval n = true →
      s.flag (F.DIO_N_CFG_WB n) = true →
      s.flag F.DIO_STAT_RED = false →
      broken = false →
      dioFilter (max 10 (s.f (F.DIO_N_CFG_FILT n)) * 100) (tblGet s.dio.ch n).wrun ticks.toNat broken (s.flag (F.DIO_N_STAT_WBRK n)) = (k, true) →
      exec (.dioWireBreakChange n ⟨broken, ticks⟩) s = .next ((s.modDio n (fun c => { c with wrun := k })).setFlag (F.DIO_N_STAT_WBRK n) false)) ∧
  (∀ (n : Fin 64) (broken : Bool) (ticks : BitVec 16) (s : State) (k : Nat),
      s.dioEval n = true →
      s.flag (F.DIO_N_CFG_WB n) = true →
      s.flag F.DIO_STAT_RED = false →
      dioFilter (max 10 (s.f (F.DIO_N_CFG_FILT n)) * 100) (tblGet s.dio.ch n).wrun ticks.toNat broken (s.flag (F.DIO_N_STAT_WBRK n)) = (k, false) →
      exec (.dioWireBreakChange n ⟨broken, ticks⟩) s = .next (s.modDio n (fun c => { c with wrun := k }))) ∧
  (∀ (w r t : Nat) (raw val : Bool), (raw ≠ val → 0 < t → w ≤ r + t → dioFilter w r t raw val = (0, true)) ∧
      (raw ≠ val → r + t < w → dioFilter w r t raw val = (r + t, false)) ∧ (raw = val → 0 < t → dioFilter w r t raw val = (0, false))) ∧
  (∀ (n : Fin 64) (s : State),
      s.dioMode n = 3 →
      s.dioState n = 1 →
      s.flag (F.DIO_N_STAT_IN n) = false →
      s.flag (F.DIO_N_STAT_FB_ERR n) = false →
      exec (.dioReadbackMismatch n) s = .next ((s.setF (F.DIO_N_STAT_FB_ERR n) 1).raise 1328)) ∧
  (∀ (n : Fin 64) (s : State),
      s.dioMode n = 3 →
      s.dioState n = 0 →
      s.dioOn n = false →
      s.flag (F.DIO_N_STAT_IN n) = true →
      s.flag (F.DIO_N_STAT_FB_HIGH n) = false →
      exec (.dioReadbackMismatch n) s = .next ((s.setF (F.DIO_N_STAT_FB_HIGH n) 1).raise 1328)) ∧
  (∀ (s : State),
      exec (.vdioUndervoltage) s = .next ((forBelow 64 (s.setF F.DIO_STAT_UV 1) (fun n t =>
        if (t.setF (F.DIO_N_STAT_UV n) 1).dioMode n = 3 ∧ (t.setF (F.DIO_N_STAT_UV n) 1).dioState n ≤ 1 then (t.setF (F.DIO_N_STAT_UV n) 1).dioEnter n 3 else t.setF (F.DIO_N_STAT_UV n) 1)).raise 1329)) ∧
  (∀ (s : State),
      exec (.vdioRestart) s = .next ((forBelow 64 (s.setF F.DIO_STAT_UV 0) (fun n t =>
        if (t.setF (F.DIO_N_STAT_UV n) 0).dioState n = 3 then (t.setF (F.DIO_N_STAT_UV n) 0).dioEnter n (if (t.setF (F.DIO_N_STAT_UV n) 0).dioOn n then 1 else 0) else t.setF (F.DIO_N_STAT_UV n) 0)).raise 1330)) ∧
  (∀ (red : Bool) (s : State),
      exec (.vdioRedChange red) s = .next (s.setFlag F.DIO_STAT_RED red)) ∧
  (∀ (s : State) (n : Nat) (cause : Nat),
      s.dioState n = 1 →
      s.dioTrip n cause = (((s.dioEnter n 2).setF (F.DIO_N_STAT_CAUSE n) cause).incF (F.DIO_N_STAT_TRIPS n) 1).raise 1328) ∧
  (∀ (n : Fin 64) (hot : Bool) (s : State),
      exec (.dioOvertemp n hot) s = .next (if hot then (s.modDio n (fun c => { c with hot := hot })).dioTrip n 2 else s.modDio n (fun c => { c with hot := hot }))) ∧
  (∀ (n : Fin 64) (limit : Bool) (s : State),
      s.dioState n = 1 →
      exec (.dioCurrentLimit n limit) s = .next (s.modDio n (fun c => { c with lim := limit }))) ∧
  (∀ (n : Fin 64) (s : State),
      (tblGet s.dio.ch n).lim = true →
      exec (.dioLimitExpiry n) s = .next (s.dioTrip n 1)) ∧
  (∀ (s : State) (n : Nat) (v : Bool) (ticks : Nat) (k : Nat),
      s.dioEval n = true →
      dioFilter (s.f (F.DIO_N_CFG_FILT n) * 100) (tblGet s.dio.ch n).run ticks v (s.flag (F.DIO_N_STAT_IN n)) = (k, false) →
      s.dioIn n v ticks = (s.setFlag (F.DIO_N_STAT_RAW n) v).modDio n (fun c => { c with run := k })) ∧
  (∀ (s : State) (n : Nat) (v : Bool) (ticks : Nat) (k : Nat),
      s.dioEval n = true →
      dioFilter (s.f (F.DIO_N_CFG_FILT n) * 100) (tblGet s.dio.ch n).run ticks v (s.flag (F.DIO_N_STAT_IN n)) = (k, true) →
      ∀ t, t = (((s.setFlag (F.DIO_N_STAT_RAW n) v).modDio n (fun c => { c with run := k })).setFlag (F.DIO_N_STAT_IN n) v).dioFb n →
      (((s.setFlag (F.DIO_N_STAT_RAW n) v).modDio n (fun c => { c with run := k })).f (F.DIO_N_CFG_EDGE n) = s.f (F.DIO_N_CFG_EDGE n)) → s.dioIn n v ticks = if (v && bit (s.f (F.DIO_N_CFG_EDGE n)) 0) || (!v && bit (s.f (F.DIO_N_CFG_EDGE n)) 1) then t.raise (1264 + n) else t) ∧
  (∀ (n : Fin 64) (level : Bool) (ticks : BitVec 16) (s : State),
      exec (.dioInputChange n ⟨level, ticks⟩) s = .next ((s.dioIn n level ticks.toNat).accWatch s)) ∧
  (∀ (i : Fin 16) (v : Word) (s : State),
      s.flag F.MEAS_CTRL_EN = true →
      s.f (F.MEAS_NTC_CFG_B i) = 0 →
      exec (.ntcConversion i v) s = .next (((s.setF (F.MEAS_NTC_VAL_TEMP i) 0).setF (F.MEAS_NTC_VAL_FLAGS i) 0).setF (F.MEAS_NTC_RES_OHM i) 0)) ∧
  (∀ (i : Fin 16) (v : Word) (s : State),
      s.flag F.MEAS_CTRL_EN = true →
      s.f (F.MEAS_NTC_CFG_B i) ≠ 0 →
      490000 * ntcRest v.toNat < 10000 * v.toNat →
      s.f (F.MEAS_NTC_VAL_FLAGS i) / 8 = 0 →
      exec (.ntcConversion i v) s = .next (((s.setF (F.MEAS_NTC_RES_OHM i) (ntcOhm v.toNat)).setF (F.MEAS_NTC_VAL_FLAGS i) 8).raise (1344 + i.val))) ∧
  (∀ (i : Fin 16) (v : Word) (s : State) (q : Int),
      s.flag F.MEAS_CTRL_EN = true →
      s.f (F.MEAS_NTC_CFG_B i) ≠ 0 →
      20 * ntcRest v.toNat ≤ 10000 * v.toNat →
      10000 * v.toNat ≤ 490000 * ntcRest v.toNat →
      ntcTemp (10000 * v.toNat) (ntcRest v.toNat * (10 * s.f (F.MEAS_NTC_CFG_R25 i))) (s.f (F.MEAS_NTC_CFG_B i)) = some q →
      s.f (F.MEAS_NTC_VAL_FLAGS i) / 8 = 0 →
      exec (.ntcConversion i v) s = .next (((s.setF (F.MEAS_NTC_RES_OHM i) (ntcOhm v.toNat)).setF (F.MEAS_NTC_VAL_FLAGS i) 1).setF (F.MEAS_NTC_VAL_TEMP i) (umod 16 q))) ∧
  (∀ (i : Fin 14) (mv : BitVec 16) (s : State) (u : State) (isLo : Bool) (isHi : Bool) (q : SupRun) (low : Bool) (high : Bool) (t : State),
      u = s.supShow i mv.toNat →
      u.flag F.MEAS_CTRL_EN = true →
      isLo = (u.f (F.MEAS_SUP_WIN_LOW i) != 0 && decide (mv.toNat < u.f (F.MEAS_SUP_WIN_LOW i))) →
      isHi = (u.f (F.MEAS_SUP_WIN_HIGH i) != 0 && decide (u.f (F.MEAS_SUP_WIN_HIGH i) < mv.toNat)) →
      (q = (⟨if isLo then (tblGet u.dio.sup i).below + 1 else 0, if isHi then (tblGet u.dio.sup i).above + 1 else 0, if isLo || isHi then 0 else (tblGet u.dio.sup i).within + 1⟩ : SupRun)) →
      (low = if 4 ≤ q.below then true else if 4 ≤ q.within then false else bit (u.f (F.MEAS_SUP_VAL_FLAGS i)) 1) →
      (high = if 4 ≤ q.above then true else if 4 ≤ q.within then false else bit (u.f (F.MEAS_SUP_VAL_FLAGS i)) 2) →
      t = ({ u with dio := { u.dio with sup := tblSet u.dio.sup i q } }.setF (F.MEAS_SUP_VAL_MV i) mv.toNat).setF (F.MEAS_SUP_VAL_FLAGS i) (1 + 2 * b2n low + 4 * b2n high) →
      exec (.supplySample i mv) s = .next (if (low && !bit (u.f (F.MEAS_SUP_VAL_FLAGS i)) 1) || (high && !bit (u.f (F.MEAS_SUP_VAL_FLAGS i)) 2) then t.raise (1360 + i.val) else t)) ∧
  (∀ (r : Req) (s : State) (x : Option Sess) (s1 : State) (v : Nat) (fl : Nat),
      Started s r 6 6 x s1 →
      r.payload.length = 2 →
      s1.measGet (leVal r.payload) = some (v, fl) →
      exec (.measRead r) s = .next (s1.ok (rkeyOf r) (leBytes 4 v ++ leBytes 1 fl))) ∧
  (∀ (r : Req) (s : State) (x : Option Sess) (s1 : State),
      Started s r 6 6 x s1 →
      r.payload.length = 2 →
      s1.measGet (leVal r.payload) = none →
      exec (.measRead r) s = .next (s1.notFound (rkeyOf r)))

/-- Every command and event of the LED drive, the matrix, PINOWN and the GPIO channels completes and leaves what R331 to R346 and R483 give -/
def Obligations.LedAndOwnershipCommandsActAsTheTablesSay : Prop :=
  (∀ (r : Req) (s : State) (x : Option Sess) (s1 : State) (n : Nat) (cur : Nat),
      Started s r 6 3 x s1 →
      r.payload.length = 5 →
      leAt r.payload 0 1 = n →
      leAt r.payload 1 2 = cur →
      n ≤ 31 →
      bits cur 15 13 = 0 →
      s1.owner (resId 4 n) = 0 →
      exec (.ledSet r) s = .next (((s1.setF (F.LED_N_CMD_CUR n) cur).setF (F.LED_N_CMD_DUTY n) (leAt r.payload 3 2)).ok (rkeyOf r) [])) ∧
  (∀ (who : Who) (en : Bool) (s : State),
      s.regOk who (A.LED_CTRL) = true →
      en = true →
      exec (.ledCtrlEnWrite who en) s = .next (s.setFlag F.LED_CTRL_EN true)) ∧
  (∀ (who : Who) (en : Bool) (s : State),
      s.regOk who (A.LED_CTRL) = true →
      en = false →
      exec (.ledCtrlEnWrite who en) s = .next (forBelow 32 (s.setFlag F.LED_CTRL_EN false) (fun n t => t.ledOff n))) ∧
  (∀ (who : Who) (n : Fin 32) (cur : BitVec 16) (duty : BitVec 16) (s : State),
      s.regOk who (A.LED_N_CMD n) = true →
      s.owner (resId 4 n) = 0 →
      exec (.ledCmdWrite who n cur duty) s = .next ((s.setF (F.LED_N_CMD_CUR n) (cur.toNat % 8192)).setF (F.LED_N_CMD_DUTY n) duty.toNat)) ∧
  (∀ (who : Who) (n : Fin 32) (cur : BitVec 16) (duty : BitVec 16) (s : State),
      s.regOk who (A.LED_N_CMD n) = true →
      s.owner (resId 4 n) ≠ 0 →
      exec (.ledCmdWrite who n cur duty) s = .next ((s.conflict (resId 4 n) (whoOwner who) 1).busErr who)) ∧
  (∀ (who : Who) (g : Fin 8) (mask : Word) (s : State),
      s.regOk who (A.LED_GRP_MASK g) = true →
      (List.range 32).any (fun n => bit mask.toNat n && (s.owner (resId 4 n) == 3 || (List.range 8).any (fun h => h != g.val && s.fbit (F.LED_GRP_MASK_MASK h) n))) = true →
      exec (.ledGrpMaskWrite who g mask) s = .next (s.setF F.LED_STAT_GERR 1)) ∧
  (∀ (who : Who) (g : Fin 8) (mask : Word) (s : State),
      s.regOk who (A.LED_GRP_MASK g) = true →
      (List.range 32).any (fun n => bit mask.toNat n && (s.owner (resId 4 n) == 3 || (List.range 8).any (fun h => h != g.val && s.fbit (F.LED_GRP_MASK_MASK h) n))) = false →
      exec (.ledGrpMaskWrite who g mask) s = .next (forBelow 32 (s.setF (F.LED_GRP_MASK_MASK g) mask.toNat) (fun n t =>
        (t.setFlag (F.LED_N_STAT_GOFF n) (match t.ledGroup n with | some h => t.flag (F.LED_GRP_CTRL_FAILED h) | none => false)).when
          (match t.ledGroup n with | some h => t.flag (F.LED_GRP_CTRL_FAILED h) | none => false) (fun u => u.ledOff n)))) ∧
  (∀ (who : Who) (g : Fin 8) (s : State),
      s.regOk who (A.LED_GRP_CTRL g) = true →
      s.owner (resId 7 g) = 0 →
      exec (.ledGrpClear who g) s = .next (forBelow 32 (s.setF (F.LED_GRP_CTRL_FAILED g) 0) (fun n t =>
        if t.fbit (F.LED_GRP_MASK_MASK g) n then (t.setF (F.LED_N_STAT_GOFF n) 0).modLed n (fun c => { c with openS := default, shortS := default }) else t))) ∧
  (∀ (who : Who) (en : Bool) (s : State),
      s.regOk who (A.LED_LMX_CTRL) = true →
      en = s.flag F.LED_LMX_CTRL_EN →
      exec (.lmxEnWrite who en) s = .next (s.setF F.LED_LMX_CTRL_ENERR 0)) ∧
  (∀ (who : Who) (en : Bool) (s : State),
      s.regOk who (A.LED_LMX_CTRL) = true →
      en = true →
      s.flag F.LED_LMX_CTRL_EN = false →
      (List.range 16).find? (fun i => (s.ledGroup (16 + i)).isSome) = none →
      lmxIds.find? (fun id => !s.claimable 3 id) = none →
      exec (.lmxEnWrite who en) s = .next (forBelow 16 (((lmxIds.foldl (fun t id => t.setOwner id 3) s).setFlag F.LED_LMX_CTRL_EN true).setF F.LED_LMX_CTRL_ENERR 0) (fun i t => t.ledOff (16 + i)))) ∧
  (∀ (who : Who) (en : Bool) (s : State) (id : Nat),
      s.regOk who (A.LED_LMX_CTRL) = true →
      en = true →
      s.flag F.LED_LMX_CTRL_EN = false →
      (List.range 16).find? (fun i => (s.ledGroup (16 + i)).isSome) = none →
      lmxIds.find? (fun id => !s.claimable 3 id) = some id →
      exec (.lmxEnWrite who en) s = .next ((s.setF F.LED_LMX_CTRL_ENERR 1).conflict id 3 0)) ∧
  (∀ (who : Who) (en : Bool) (s : State),
      s.regOk who (A.LED_LMX_CTRL) = true →
      en = false →
      s.flag F.LED_LMX_CTRL_EN = true →
      (List.range 256).any (fun i => s.owner (resId 5 i) != 0) = false →
      exec (.lmxEnWrite who en) s = .next (((s.releaseAll 3 lmxIds).setFlag F.LED_LMX_CTRL_EN false).setF F.LED_LMX_CTRL_ENERR 0)) ∧
  (∀ (who : Who) (s : State),
      s.regOk who (A.LED_LMX_CTRL) = true →
      exec (.lmxClear who) s = .next (s.setF F.LED_LMX_CTRL_FAULT 0)) ∧
  (∀ (who : Who) (r : Fin 16) (q : Fin 4) (value : Word) (s : State),
      s.regOk who (A.LED_LMX_LVL r q) = true →
      (List.range 4).find? (fun k => s.owner (resId 5 (16 * r.val + 4 * q.val + k)) != 0) = none →
      exec (.lmxLevelWrite who r q value) s = .next (s.setReg (A.LED_LMX_LVL r q) value)) ∧
  (∀ (who : Who) (r : Fin 16) (q : Fin 4) (value : Word) (s : State) (k : Nat),
      s.regOk who (A.LED_LMX_LVL r q) = true →
      (List.range 4).find? (fun k => s.owner (resId 5 (16 * r.val + 4 * q.val + k)) != 0) = some k →
      exec (.lmxLevelWrite who r q value) s = .next ((s.conflict (resId 5 (16 * r.val + 4 * q.val + k)) (whoOwner who) 1).busErr who)) ∧
  (∀ (n : Fin 32) (s : State),
      (s.flag F.LED_CTRL_EN = false ∨ s.flag F.LED_STAT_OT = true ∨ s.ledMatrix n = true) →
      exec (.ledPeriodStart n) s = .next (s)) ∧
  (∀ (n : Fin 32) (s : State) (e : Nat) (t : State) (d : Nat),
      s.flag F.LED_CTRL_EN = true →
      s.flag F.LED_STAT_OT = false →
      s.ledMatrix n = false →
      e = s.ledEff (s.f (F.LED_N_CMD_CUR n) % 4096) (s.f (F.LED_N_CFG_CURVE n)) →
      t = (s.setF (F.LED_N_STAT_ECODE n) (min 4095 e)).setFlag (F.LED_N_STAT_COMP_SAT n) (decide (4095 < e)) →
      d = s.f (F.LED_N_CMD_DUTY n) →
      bits (s.f (F.LED_N_CMD_CUR n)) 12 12 ≠ (t.ledCh n).range →
      exec (.ledPeriodStart n) s = .next (((t.setF (F.LED_N_STAT_BLANK n) 1).ledOff n).modLed n (fun c => { c with range := bits (s.f (F.LED_N_CMD_CUR n)) 12 12, duty := d, acc := if d ≠ (t.ledCh n).duty ∧ (d = 0 ∨ d = 0xFFFF) then 0 else (t.ledCh n).acc }))) ∧
  (∀ (n : Fin 32) (s : State) (e : Nat) (t : State) (d : Nat) (a : Nat),
      s.flag F.LED_CTRL_EN = true →
      s.flag F.LED_STAT_OT = false →
      s.ledMatrix n = false →
      e = s.ledEff (s.f (F.LED_N_CMD_CUR n) % 4096) (s.f (F.LED_N_CFG_CURVE n)) →
      t = (s.setF (F.LED_N_STAT_ECODE n) (min 4095 e)).setFlag (F.LED_N_STAT_COMP_SAT n) (decide (4095 < e)) →
      d = s.f (F.LED_N_CMD_DUTY n) →
      bits (s.f (F.LED_N_CMD_CUR n)) 12 12 = (t.ledCh n).range →
      0 < d →
      d < 0xFFFF →
      t.flag (F.LED_N_STAT_GOFF n) = false →
      a = (t.ledCh n).acc + d * (50000000 / s.f F.LED_CTRL_PWM_HZ) →
      exec (.ledPeriodStart n) s = .next (((t.setF (F.LED_N_STAT_BLANK n) 0).setFlag (F.LED_N_STAT_ON n) (decide (0 < a / 65536))).modLed n (fun c => { c with duty := d, acc := a % 65536, on := a / 65536, until_ := s.now + a / 65536 * 20 }))) ∧
  (∀ (s : State) (code : Nat) (c : Nat),
      s.ledEff code 0 = code ∧ (1 ≤ c → c ≤ 4 → s.ledEff code c = code * (tblFind s.led.fac (c - 1)).getD 1024 / 1024)) ∧
  (∀ (n : Fin 32) (mv : BitVec 16) (low : Bool) (drop : Bool) (s : State),
      (s.flag (F.LED_N_STAT_BLANK n) = true ∨ (s.ledCh n).on < 500 ∨ s.ledMatrix n = true ∨ s.flag F.LED_CTRL_EN = false) →
      exec (.ledOnphaseCheck n mv low drop) s = .next (s)) ∧
  (∀ (n : Fin 32) (mv : BitVec 16) (low : Bool) (drop : Bool) (s : State) (t : State) (o : Streak) (h : Streak) (u : State),
      s.flag (F.LED_N_STAT_BLANK n) = false →
      500 ≤ (s.ledCh n).on →
      s.ledMatrix n = false →
      s.flag F.LED_CTRL_EN = true →
      t = ((s.setF (F.LED_N_VS_MV n) mv.toNat).setFlag (F.LED_N_STAT_DROPOUT n) drop).when (!s.flag (F.LED_N_STAT_OPEN n)) (fun q => q.ledHr mv.toNat) →
      (s.ledCh n).duty ≠ 0 →
      40 ≤ t.f (F.LED_N_STAT_ECODE n) →
      t.flag F.LED_STAT_VLOW = false →
      o = (s.ledCh n).openS.count low →
      h = (s.ledCh n).shortS.count (s.f (F.LED_N_CFG_SHORT_MV n) != 0 && decide (s.f (F.LED_N_CFG_SHORT_MV n) * 100 < mv.toNat)) →
      u = ((t.modLed n (fun c => { c with openS := o, shortS := h })).setFlag (F.LED_N_STAT_OPEN n) (o.flag (s.flag (F.LED_N_STAT_OPEN n)))).setFlag (F.LED_N_STAT_SHORT n) (h.flag (s.flag (F.LED_N_STAT_SHORT n))) →
      o.met ≠ 4 →
      h.met ≠ 4 →
      exec (.ledOnphaseCheck n mv low drop) s = .next (if (o.flag (s.flag (F.LED_N_STAT_OPEN n)) && !s.flag (F.LED_N_STAT_OPEN n)) || (h.flag (s.flag (F.LED_N_STAT_SHORT n)) && !s.flag (F.LED_N_STAT_SHORT n)) then u.raise (1376 + n.val) else u)) ∧
  (∀ (x : Streak) (old : Bool),
      x.count true = ⟨x.met + 1, 0⟩ ∧ x.count false = ⟨0, x.missed + 1⟩ ∧ (4 ≤ x.met → x.flag old = true) ∧ (x.met < 4 → 4 ≤ x.missed → x.flag old = false) ∧ (x.met < 4 → x.missed < 4 → x.flag old = old)) ∧
  (∀ (v : Option (BitVec 16)) (vlow : Bool) (s : State) (t : State),
      t = { s with led := { s.led with hr := none } }.setFlag F.LED_STAT_VLOW vlow →
      t.flag F.LED_CTRL_FB_EN = false →
      exec (.ledHeadroomUpdate v vlow) s = .next ((t.setF F.LED_STAT_FBCODE 0).setF F.LED_STAT_HRLOW 0)) ∧
  (∀ (v : Option (BitVec 16)) (vlow : Bool) (s : State) (t : State) (q : Nat),
      t = { s with led := { s.led with hr := none } }.setFlag F.LED_STAT_VLOW vlow →
      t.flag F.LED_CTRL_FB_EN = true →
      s.ledLeast v = some q →
      q + 100 < t.f F.LED_HR_HR_MV →
      t.f F.LED_STAT_FBCODE + 1 < t.f F.LED_HR_FB_MAX →
      exec (.ledHeadroomUpdate v vlow) s = .next ((t.setF F.LED_STAT_FBCODE (t.f F.LED_STAT_FBCODE + 1)).setFlag F.LED_STAT_HRLOW false)) ∧
  (∀ (s : State) (mv : BitVec 16),
      s.ledLeast none = s.led.hr ∧ s.ledLeast (some mv) = some (match s.led.hr with | some v => min v mv.toNat | none => mv.toNat)) ∧
  (∀ (v : Option (BitVec 16)) (vlow : Bool) (s : State) (t : State),
      t = { s with led := { s.led with hr := none } }.setFlag F.LED_STAT_VLOW vlow →
      t.flag F.LED_CTRL_FB_EN = true →
      s.ledLeast v = none →
      exec (.ledHeadroomUpdate v vlow) s = .next ((t.setF F.LED_STAT_FBCODE (t.f F.LED_STAT_FBCODE)).setFlag F.LED_STAT_HRLOW (t.flag F.LED_STAT_HRLOW))) ∧
  (∀ (s : State),
      exec (.ledCurveUpdate) s = .next (forBelow 4 s (fun c t => t.ledCurve c))) ∧
  (∀ (s : State) (c : Nat) (t : Int),
      (s.ledPoints c).isEmpty = false →
      rising (s.ledPoints c) = true →
      s.ledTemp (s.f (F.LED_CURVE_CFG_SRC c)) = some t →
      s.ledCurve c = { s.setFbit F.LED_STAT_CERR c false with led := { (s.setFbit F.LED_STAT_CERR c false).led with fac := tblSet (s.setFbit F.LED_STAT_CERR c false).led.fac c (curveAt t (s.ledPoints c)) } }) ∧
  (∀ (s : State),
      exec (.ledOvertemp) s = .next ((forBelow 32 (s.setF F.LED_STAT_OT 1) (fun n t => t.ledOff n)).raise 1418)) ∧
  (∀ (s : State),
      exec (.ledOvertempRecover) s = .next (s.setF F.LED_STAT_OT 0)) ∧
  (∀ (s : State) (lvl : Tbl Nat),
      s.lmxRuns = true →
      lvl = ((List.range 256).map (fun i => (i, s.f ⟨A.LED_LMX_LVL (i / 16) (i % 16 / 4), 8 * (i % 4) + 7, 8 * (i % 4)⟩))).filter (fun x => x.2 != 0) →
      exec (.lmxFrameStart) s = .next (forBelow 16 { s with led := { s.led with lvl := lvl, row := 0 } } (fun c t =>
        { t with led := { t.led with col := tblSet t.led.col c (⟨bits (t.f (F.LED_LMX_COL_CUR c)) 12 12, min 4095 (t.ledEff (t.f (F.LED_LMX_COL_CUR c) % 4096) (t.f (F.LED_LMX_COL_CURVE c))), bits (t.f (F.LED_LMX_COL_CUR c)) 12 12 != (tblGet t.led.col c).range⟩ : LmxCol) } }))) ∧
  (∀ (r : Fin 16) (mv : BitVec 256) (below : BitVec 16) (s : State),
      s.lmxRuns = true →
      s.led.row = r.val →
      exec (.lmxRowSlot r ⟨mv, below⟩) s = .next (forBelow 16 { s with led := { s.led with row := r.val + 1 } } (fun c t => t.lmxElem r c (mv.extractLsb' (16 * c) 16).toNat (below.getLsbD c)))) ∧
  (∀ (s : State) (r : Nat) (c : Nat) (mv : Nat) (lo : Bool),
      (tblGet s.led.lvl (16 * r + c) = 0 ∨ (tblGet s.led.col c).blank = true) →
      s.lmxElem r c mv lo = s) ∧
  (∀ (s : State),
      s.lmxRuns = true →
      exec (.lmxRowOvercurrent) s = .next ((s.setF F.LED_LMX_CTRL_FAULT 1).raise 1416)) ∧
  (∀ (who : Who) (res : Word) (s : State),
      s.regOk who (A.PINOWN_QRES) = true →
      exec (.pinownQresWrite who res) s = .next (s.setReg A.PINOWN_QRES res)) ∧
  (∀ (who : Who) (n : Fin 32) (out : Bool) (s : State),
      s.regOk who (A.GPIO_N_CMD n) = true →
      s.owner (resId 12 n) = 0 →
      exec (.gpioCmdWrite who n out) s = .next ({ s.setF (F.GPIO_N_CMD_OUT n) (b2n out) with gpioOn := putBit s.gpioOn n true })) ∧
  (∀ (who : Who) (n : Fin 32) (out : Bool) (s : State),
      s.regOk who (A.GPIO_N_CMD n) = true →
      s.owner (resId 12 n) ≠ 0 →
      exec (.gpioCmdWrite who n out) s = .next ((s.conflict (resId 12 n) (whoOwner who) 1).busErr who)) ∧
  (∀ (n : Fin 32) (level : Bool) (s : State) (t : State),
      s.fbit F.GPIO_IN_IN n ≠ level →
      t = s.setFbit F.GPIO_IN_IN n level →
      exec (.gpioEdge n level) s = .next (if (level && bit (s.f (F.GPIO_N_CFG_EDGE n)) 0) || (!level && bit (s.f (F.GPIO_N_CFG_EDGE n)) 1) then t.raise (1472 + n.val) else t)) ∧
  (∀ (s : State) (id : Nat) (rq : Nat) (path : Nat),
      s.flag F.PINOWN_CONF_INFO_VALID = false →
      s.conflict id rq path = ((((((s.setF F.PINOWN_CONF_RES_RES id).setF F.PINOWN_CONF_INFO_REQ rq).setF F.PINOWN_CONF_INFO_HOLDER (s.owner id)).setF F.PINOWN_CONF_INFO_PATH path).setF F.PINOWN_CONF_INFO_VALID 1).incF F.PINOWN_CONFCNT_COUNT 1).raise 1456) ∧
  (∀ (s : State) (id : Nat) (rq : Nat) (path : Nat),
      s.flag F.PINOWN_CONF_INFO_VALID = true →
      s.conflict id rq path = (s.incF F.PINOWN_CONFCNT_COUNT 1).raise 1456)

/-- Every command and event of the access function completes and leaves what R352 to R366 give, in the cases named -/
def Obligations.AccessControlCommandsActAsTheTablesSay : Prop :=
  (∀ (r : Req) (s : State) (x : Option Sess) (s1 : State) (z : Nat) (p : Nat),
      Started s r 7 1 x s1 →
      r.payload.length = 2 →
      leAt r.payload 0 1 = z →
      leAt r.payload 1 1 = p →
      z ≤ 2 →
      p ≤ 15 →
      s1.accCalRefused z = false →
      s1.acc.cal = none →
      s1.flag F.ACC_GATE_ANTF = false →
      exec (.accCalibrate r) s = .next (((s1.modAcc (fun a => { a with cal := some { (default : AccCal) with key := (rkeyOf r), zone := z, point := p } })).stopServed 5).accept (rkeyOf r))) ∧
  (∀ (r : Req) (s : State) (x : Option Sess) (s1 : State) (z : Nat) (p : Nat),
      Started s r 7 1 x s1 →
      r.payload.length = 2 →
      leAt r.payload 0 1 = z →
      leAt r.payload 1 1 = p →
      z ≤ 2 →
      p ≤ 15 →
      (s1.accCalRefused z = true ∨ s1.acc.cal ≠ none) →
      exec (.accCalibrate r) s = .next (s1.wrongState (rkeyOf r) (s1.f F.ACC_GATE_OCC))) ∧
  (∀ (s : State) (z : Nat),
      (s.accCalRefused z = true ↔ z ≠ 0 ∧ (s.occCount ≠ 0 ∨ s.flag F.ACC_GATE_OVF = true))) ∧
  (∀ (r : Req) (s : State) (x : Option Sess) (s1 : State),
      Started s r 7 2 x s1 →
      r.payload.length = 1 →
      leVal r.payload = 1 →
      s1.f F.ACC_GATE_OVR = 0 →
      s1.flag F.ACC_DOOR_KEY_EN = true →
      exec (.accOverride r) s = .next (((s1.modAcc (fun a => { a with armUntil := s1.now + s1.f F.ACC_DOOR_ARM_S * 1000000000 })).accOvr 1).ok (rkeyOf r) [])) ∧
  (∀ (r : Req) (s : State) (x : Option Sess) (s1 : State),
      Started s r 7 2 x s1 →
      r.payload.length = 1 →
      leVal r.payload = 1 →
      s1.f F.ACC_GATE_OVR = 0 →
      s1.flag F.ACC_DOOR_KEY_EN = false →
      exec (.accOverride r) s = .next (s1.wrongState (rkeyOf r) 0)) ∧
  (∀ (r : Req) (s : State) (x : Option Sess) (s1 : State),
      Started s r 7 2 x s1 →
      r.payload.length = 1 →
      leVal r.payload = 0 →
      s1.f F.ACC_GATE_OVR = 2 →
      s1.accKey = true →
      exec (.accOverride r) s = .next (s1.accRelease.ok (rkeyOf r) [])) ∧
  (∀ (r : Req) (s : State) (x : Option Sess) (s1 : State),
      Started s r 7 2 x s1 →
      r.payload.length = 1 →
      leVal r.payload = 0 →
      s1.f F.ACC_GATE_OVR = 1 →
      exec (.accOverride r) s = .next ((s1.accOvr 0).ok (rkeyOf r) [])) ∧
  (∀ (s : State),
      s.accRelease = (((forBelow 16 s (fun k t => t.setOcc k 0 0 0 0)).setF F.ACC_GATE_OVF 0).setF F.ACC_GATE_STARTUP 0).accOvr 0) ∧
  (∀ (r : Req) (s : State) (x : Option Sess) (s1 : State) (tid : Nat) (fl : Nat) (k : Nat),
      Started s r 7 3 x s1 →
      r.payload.length = 6 →
      leAt r.payload 0 4 = tid →
      leAt r.payload 4 1 = fl →
      leAt r.payload 5 1 = 0 →
      tid / 2 ^ 20 = s1.f F.ACC_CTRL_SITE →
      fl < 8 →
      s1.accTok (tid % 2 ^ 20) = some k →
      exec (.tokenEnrol r) s = .next ((if bit fl 0 then s1.accTokPut k (tid % 2 ^ 20) fl else s1.accTokPut k 0 0).ok (rkeyOf r) (leBytes 2 k))) ∧
  (∀ (r : Req) (s : State) (x : Option Sess) (s1 : State) (tid : Nat) (fl : Nat) (k : Nat),
      Started s r 7 3 x s1 →
      r.payload.length = 6 →
      leAt r.payload 0 4 = tid →
      leAt r.payload 4 1 = fl →
      leAt r.payload 5 1 = 0 →
      tid / 2 ^ 20 = s1.f F.ACC_CTRL_SITE →
      fl < 8 →
      s1.accTok (tid % 2 ^ 20) = none →
      bit fl 0 = true →
      firstBelow 256 (fun j => !s1.flag (F.ACC_TOK_EN j)) = some k →
      exec (.tokenEnrol r) s = .next ((s1.accTokPut k (tid % 2 ^ 20) fl).ok (rkeyOf r) (leBytes 2 k))) ∧
  (∀ (r : Req) (s : State) (x : Option Sess) (s1 : State) (tid : Nat) (fl : Nat),
      Started s r 7 3 x s1 →
      r.payload.length = 6 →
      leAt r.payload 0 4 = tid →
      leAt r.payload 4 1 = fl →
      leAt r.payload 5 1 = 0 →
      tid / 2 ^ 20 = s1.f F.ACC_CTRL_SITE →
      fl < 8 →
      s1.accTok (tid % 2 ^ 20) = none →
      bit fl 0 = false →
      exec (.tokenEnrol r) s = .next (s1.notFound (rkeyOf r))) ∧
  (∀ (s : State) (k : Nat) (serial : Nat) (fl : Nat) (t : State),
      t = (((s.setF (F.ACC_TOK_SERIAL k) serial).setF (F.ACC_TOK_EN k) fl).setF (F.ACC_TOK_LOCK k) (fl / 2)).setF (F.ACC_TOK_CAL k) (fl / 4) →
      s.accTokPut k serial fl = { t with settings := tblSet t.settings (A.ACC_TOK k) (t.reg (A.ACC_TOK k)) }) ∧
  (∀ (r : Req) (s : State) (x : Option Sess) (s1 : State),
      Started s r 7 4 x s1 →
      r.payload.length = 0 →
      exec (.accStatus r) s = .next (s1.ok (rkeyOf r) (leBytes 1 (s1.f F.ACC_STAT_SESS) ++ leBytes 1 (s1.f F.ACC_STAT_LASTEND) ++ leBytes 2 (if s1.flag F.ACC_STAT_SESS then s1.secsTo s1.acc.sessUntil else 0) ++
        leBytes 1 s1.occCount ++ leBytes 1 (s1.f F.ACC_GATE_CLOSED + 2 * s1.f F.ACC_GATE_STARTUP + 4 * s1.f F.ACC_GATE_OVF + 8 * s1.f F.ACC_GATE_ANTF +
          16 * b2n (s1.f F.ACC_GATE_OVR == 1) + 32 * b2n (s1.f F.ACC_GATE_OVR == 2)) ++ leBytes 2 (if s1.flag F.ACC_STAT_LOCKOUT then s1.secsTo s1.acc.lockUntil else 0) ++
        leBytes 4 s1.acc.last ++ leBytes 1 (s1.f F.ACC_LAST_ZONE) ++ leBytes 1 0))) ∧
  (∀ (who : Who) (value : Word) (s : State),
      s.regOk who (A.ACC_CTRL) = true →
      exec (.accCtrlEnWrite who value) s = .next (s.accCtrl value.toNat)) ∧
  (∀ (s : State) (w : Nat) (t : State),
      t = ((s.setF F.ACC_CTRL_KSLOT (bits w 7 2)).setF F.ACC_CTRL_SITE (bits w 19 8)).setF F.ACC_CTRL_FORCED_BLIND (bits w 20 20) →
      (bit w 0 = false → s.accCtrl w = ((t.setF F.ACC_CTRL_EN 0).accEnd 4).modAcc (fun a => { a with scan := false, waiting := false, code := false, txen := false, poll := false, pollRep := 0 })) ∧
      (bit w 0 = true → t.slot (bits w 7 2) = none → s.accCtrl w = t.setF F.ACC_CTRL_KERR 1) ∧
      (bit w 0 = true → ∀ x k, t.slot (bits w 7 2) = some x → t.busKey (bits w 7 2) 9 = some k → x.typ = 0 →
        s.accCtrl w = ((t.setF F.ACC_CTRL_EN 1).setF F.ACC_CTRL_KERR 0).modAcc (fun a => { a with key := k }))) ∧
  (∀ (who : Who) (value : Word) (s : State),
      s.regOk who (A.ACC_LOCK) = true →
      exec (.accLockEnWrite who value) s = .next (if s.flag F.ACC_LOCK_EN ∧ (s.reg A.ACC_LOCK).toNat % 256 = value.toNat % 256 then s.setF F.ACC_LOCK_PROF (bits value.toNat 12 8) else s.accLock value.toNat)) ∧
  (∀ (s : State) (w : Nat) (t : State),
      s.flag F.ACC_LOCK_EN = false →
      t = ((s.setF F.ACC_LOCK_KIND (bits w 1 1)).setF F.ACC_LOCK_CH (bits w 7 2)).setF F.ACC_LOCK_PROF (bits w 12 8) →
      (bit w 0 = false → s.accLock w = t) ∧
      (bit w 0 = true → bits w 7 2 < 12 → (t.claimable 5 (accLockRes (bits w 1 1) (bits w 7 2)) = false ∨ t.accLockIlk (bits w 1 1) (bits w 7 2) = true) → s.accLock w = (t.setF F.ACC_LOCK_CERR 1).conflict (accLockRes (bits w 1 1) (bits w 7 2)) 5 0) ∧
      (bit w 0 = true → bits w 7 2 < 12 → t.claimable 5 (accLockRes (bits w 1 1) (bits w 7 2)) = true → t.accLockIlk (bits w 1 1) (bits w 7 2) = false →
        s.accLock w = ((t.setF F.ACC_LOCK_EN 1).setF F.ACC_LOCK_CERR 0).setOwner (accLockRes (bits w 1 1) (bits w 7 2)) 5)) ∧
  (∀ (who : Who) (value : Word) (s : State),
      s.regOk who (A.ACC_DOOR) = true →
      exec (.accDoorWrite who value) s = .next ((s.accDoorWrite value.toNat).accWatch s)) ∧
  (∀ (s : State) (w : Nat),
      s.accDoorWrite w = ((((s.setF F.ACC_DOOR_SESS_S (max 1 (bits w 23 16))).setF F.ACC_DOOR_ARM_S (max 1 (bits w 31 24))).setF F.ACC_DOOR_DOOR_POL (bits w 6 6)).accDioClaim
        F.ACC_DOOR_DOOR_EN F.ACC_DOOR_DOOR_CH (bits w 5 0) (bit w 7) 20).accDioClaim F.ACC_DOOR_KEY_EN F.ACC_DOOR_KEY_CH (bits w 13 8) (bit w 14) 50) ∧
  (∀ (who : Who) (z : Fin 3) (p : Fin 16) (high : Bool) (value : Word) (s : State),
      s.regOk who (A.ACC_CAL_L z p) = true →
      s.accCalRefused z = false →
      exec (.accCalWrite who z p high value) s = .next (s.setReg (if high then A.ACC_CAL_H z p else A.ACC_CAL_L z p) value)) ∧
  (∀ (who : Who) (z : Fin 3) (p : Fin 16) (high : Bool) (value : Word) (s : State),
      s.regOk who (A.ACC_CAL_L z p) = true →
      s.accCalRefused z = true →
      exec (.accCalWrite who z p high value) s = .next (s.setF F.ACC_STAT_CALREF 1)) ∧
  (∀ (s : State),
      s.flag F.ACC_CTRL_EN = false →
      exec (.accScanDue) s = .next (s)) ∧
  (∀ (s : State),
      s.flag F.ACC_CTRL_EN = true →
      (s.acc.scan = true ∨ s.acc.poll = true) →
      exec (.accScanDue) s = .next (s.modAcc (fun a => { a with waiting := true }))) ∧
  (∀ (s : State),
      s.flag F.ACC_CTRL_EN = true →
      s.acc.scan = false →
      s.acc.poll = false →
      exec (.accScanDue) s = .next (s.modAcc (fun a => { a with scan := true, waiting := false, code := false, rep := 0, inCode := [], inScan := [], inside := false, calSeen := [] }))) ∧
  (∀ (s : State),
      s.flag F.ACC_CTRL_EN = true →
      s.flag F.ENCL_STAT_TRNG = true →
      s.acc.scan = true →
      s.acc.code = false →
      s.acc.rep = 0 →
      exec (.accCodeStart) s = .next (((s.modAcc (fun a => { a with seq := (s.acc.seq + 1) % 256, chal := s.rand 8, code := true, txen := true, inCode := [] })).useFree).emit (.lf (s.f F.ACC_SCAN_MEAS)) (leBytes 2 (s.f F.ACC_CTRL_SITE + 0x1000) ++ s.rand 8))) ∧
  (∀ (s : State),
      s.flag F.ACC_CTRL_EN = true →
      s.flag F.ENCL_STAT_TRNG = true →
      s.acc.scan = true →
      s.acc.code = false →
      s.acc.rep < 3 →
      exec (.accRepeatDue) s = .next ((s.modAcc (fun a => { a with rep := a.rep + 1 })).accCode (s.f F.ACC_SCAN_MEAS))) ∧
  (∀ (a : Fin 8) (mv : BitVec 12) (s : State),
      s.acc.code = true →
      s.inMeas a = true →
      exec (.accQuietWindowEnd a mv) s = .next (if s.f F.ACC_IF_AMB_MV < mv.toNat then (s.setF (F.ACC_ANT_STAT_AMB a) mv.toNat).accDisturb else s.setF (F.ACC_ANT_STAT_AMB a) mv.toNat)) ∧
  (∀ (a : Fin 8) (ma : BitVec 11) (s : State) (t : State) (ipk : Nat) (d : Nat),
      s.acc.code = true →
      s.inMeas a = true →
      t = (s.setF (F.ACC_ANT_STAT_IMEAS a) ma.toNat).accAnt a ma.toNat →
      ipk = s.f (F.ACC_ANT_CFG_IPK a) →
      (d = if ipk < ma.toNat then ma.toNat - ipk else ipk - ma.toNat) →
      exec (.accBurstEnd a ma) s = .next (if ipk * s.f F.ACC_IF_IPCT < d * 100 then t.accDisturb else t)) ∧
  (∀ (s : State),
      s.acc.code = false →
      s.accDisturb = s) ∧
  (∀ (s : State) (t : State),
      s.acc.code = true →
      t = (s.raise 1430).modAcc (fun a => { a with code := false, txen := false, cal := a.cal.map (fun c => { c with disturbed := min 255 (c.disturbed + 1) }) }) →
      t.acc.rep < 3 →
      s.accDisturb = t) ∧
  (∀ (frame : List Byte) (rssi : BitVec 16) (s : State),
      s.acc.code = false →
      exec (.accReplyRx frame rssi) s = .next (s)) ∧
  (∀ (frame : List Byte) (rssi : BitVec 16) (s : State) (t : State),
      s.acc.code = true →
      t = s.setF F.ACC_LAST_RSSI (min 255 rssi.toNat) →
      t.accFrameOk frame = false →
      exec (.accReplyRx frame rssi) s = .next (t)) ∧
  (∀ (frame : List Byte) (rssi : BitVec 16) (s : State) (t : State),
      s.acc.code = true →
      t = s.setF F.ACC_LAST_RSSI (min 255 rssi.toNat) →
      t.accFrameOk frame = true →
      (frame.drop 30).take 8 ≠ t.accMac frame →
      exec (.accReplyRx frame rssi) s = .next (t.accFail)) ∧
  (∀ (frame : List Byte) (rssi : BitVec 16) (s : State) (q : State) (k : Nat) (zone : Nat) (t : State) (u : State),
      s.acc.code = true →
      q = s.setF F.ACC_LAST_RSSI (min 255 rssi.toNat) →
      q.accFrameOk frame = true →
      (frame.drop 30).take 8 = q.accMac frame →
      bit (leAt frame 5 1) 0 = false →
      q.accTok (leAt frame 0 4 % 2 ^ 20) = some k →
      q.acc.inCode.contains (leAt frame 0 4 % 2 ^ 20) = false →
      q.acc.inScan.contains (leAt frame 0 4 % 2 ^ 20) = false →
      zone = q.accClassify (q.accM frame) →
      (t = (q.accLast (leAt frame 0 4) zone 0).modAcc (fun a => { a with inCode := leAt frame 0 4 % 2 ^ 20 :: a.inCode, inside := a.inside || zone == 1, calSeen := if q.flag (F.ACC_TOK_CAL k) then q.accM frame :: a.calSeen else a.calSeen })) →
      u = (t.occReply (leAt frame 0 4 % 2 ^ 20) zone).modAcc (fun a => { a with inScan := leAt frame 0 4 % 2 ^ 20 :: a.inScan }) →
      exec (.accReplyRx frame rssi) s = .next (if zone = 2 then u.accSession (u.flag (F.ACC_TOK_LOCK k)) none else u)) ∧
  (∀ (s : State) (serial : Nat),
      s.occFind serial = none →
      s.occReply serial 1 = s.occTake 1 serial ∧ s.occReply serial 2 = s ∧ s.occReply serial 3 = s ∧ s.occReply serial 0 = s) ∧
  (∀ (s : State) (serial : Nat) (k : Nat),
      firstBelow 16 (fun k => s.f (F.ACC_OCC_STATE k) == 0) = some k →
      s.occTake 1 serial = s.setOcc k 1 serial 0 0) ∧
  (∀ (s : State) (t : State),
      t = (s.incF F.ACC_LOCKOUT_FAILS 1).raise 1428 →
      t.flag F.ACC_STAT_LOCKOUT = false →
      ∀ fs, fs = t.now :: t.acc.fails.filter (fun q => decide (t.now ≤ q + 60000000000)) →
        (fs.length < 5 → s.accFail = t.modAcc (fun a => { a with fails := fs })) ∧
        (5 ≤ fs.length → s.accFail = (((t.modAcc (fun a => { a with fails := fs })).setF F.ACC_STAT_LOCKOUT 1).modAcc (fun a => { a with
          lockUntil := (t.modAcc (fun a => { a with fails := fs })).now + (t.modAcc (fun a => { a with fails := fs })).f F.ACC_LOCKOUT_LO_MIN * 60000000000 })).levelEdge 1429 false)) ∧
  (∀ (s : State) (t : State),
      s.acc.code = true →
      t = (((s.setF F.ACC_STAT_FDIST 0).accMisses).accStartup).calScan →
      exec (.accScanEnd) s = .next ((t.modAcc (fun a => { a with txen := false, poll := t.flag F.ACC_TP_EN && !t.flag F.ACC_STAT_SESS && !t.accDoor, pollRep := 0 })).accOver)) ∧
  (∀ (s : State),
      s.acc.code = false →
      exec (.accScanEnd) s = .next (s)) ∧
  (∀ (s : State),
      (s.acc.waiting = false ∨ s.acc.poll = true → s.accOver = s.modAcc (fun a => { a with scan := false, code := false })) ∧ (s.acc.waiting = true → s.acc.poll = false → s.accOver = s.accStart) ∧ (s.acc.cal = none → s.calScan = s)) ∧
  (∀ (s : State),
      exec (.accLockoutEnd) s = .next ((s.setF F.ACC_STAT_LOCKOUT 0).modAcc (fun a => { a with fails := [], lockUntil := 0 }))) ∧
  (∀ (s : State),
      exec (.accFailAgeOut) s = .next (s.modAcc (fun a => { a with fails := a.fails.dropLast }))) ∧
  (∀ (s : State),
      s.flag F.ACC_STAT_SESS = true →
      exec (.accSessionTimeout) s = .next (((((s.accActuator false).setF F.ACC_STAT_SESS 0).setF F.ACC_STAT_LASTEND 2).raise 1427))) ∧
  (∀ (s : State),
      s.flag F.ACC_STAT_SESS = false →
      exec (.accSessionTimeout) s = .next (s)) ∧
  (∀ (s : State),
      s.f F.ACC_GATE_OVR = 1 →
      exec (.accArmExpiry) s = .next (s.accOvr 0)) ∧
  (∀ (s : State),
      s.f F.ACC_GATE_OVR ≠ 1 →
      exec (.accArmExpiry) s = .next (s)) ∧
  (∀ (s : State) (q : Nat),
      s.accOvr q = (if (s.f F.ACC_GATE_OVR = 2) ≠ (q = 2) then (s.setF F.ACC_GATE_OVR q).raise 1433 else s.setF F.ACC_GATE_OVR q).accGate) ∧
  (∀ (mv : BitVec 12) (frame : List (BitVec 8)) (s : State),
      (s.acc.poll = false ∨ s.flag F.ACC_CTRL_EN = false) →
      exec (.transponderPoll ⟨mv, frame⟩) s = .next (s)) ∧
  (∀ (mv : BitVec 12) (frame : List (BitVec 8)) (s : State),
      s.acc.poll = true →
      s.flag F.ACC_CTRL_EN = true →
      s.flag F.ENCL_STAT_TRNG = false →
      exec (.transponderPoll ⟨mv, frame⟩) s = .next (s.accPollEnd)) ∧
  (∀ (mv : BitVec 12) (frame : List (BitVec 8)) (s : State),
      s.acc.poll = true →
      s.flag F.ACC_CTRL_EN = true →
      s.flag F.ENCL_STAT_TRNG = true →
      s.f F.ACC_IF_AMB_MV < mv.toNat →
      exec (.transponderPoll ⟨mv, frame⟩) s = .next ((s.accCode 0x80).accPollDist)) ∧
  (∀ (s : State),
      s.accPollEnd = (s.modAcc (fun a => { a with code := false, txen := false, poll := false, pollRep := 0 })).accOver) ∧
  (∀ (s : State),
      s.acc.pollRep < 3 →
      s.accPollDist = (s.raise 1430).modAcc (fun a => { a with code := false, txen := false, pollRep := a.pollRep + 1 })) ∧
  (∀ (mv : BitVec 12) (frame : List (BitVec 8)) (s : State),
      s.acc.poll = true →
      s.flag F.ACC_CTRL_EN = true →
      s.flag F.ENCL_STAT_TRNG = true →
      mv.toNat ≤ s.f F.ACC_IF_AMB_MV →
      (s.accCode 0x80).accFrameOk frame = false →
      exec (.transponderPoll ⟨mv, frame⟩) s = .next ((s.accCode 0x80).accPollEnd)) ∧
  (∀ (mv : BitVec 12) (frame : List (BitVec 8)) (s : State),
      s.acc.poll = true →
      s.flag F.ACC_CTRL_EN = true →
      s.flag F.ENCL_STAT_TRNG = true →
      mv.toNat ≤ s.f F.ACC_IF_AMB_MV →
      (s.accCode 0x80).accFrameOk frame = true →
      (frame.drop 30).take 8 = (s.accCode 0x80).accMac frame →
      bit (leAt frame 5 1) 0 = true →
      exec (.transponderPoll ⟨mv, frame⟩) s = .next ((s.accCode 0x80).accPollDist)) ∧
  (∀ (mv : BitVec 12) (frame : List (BitVec 8)) (s : State) (k : Nat),
      s.acc.poll = true →
      s.flag F.ACC_CTRL_EN = true →
      s.flag F.ENCL_STAT_TRNG = true →
      mv.toNat ≤ s.f F.ACC_IF_AMB_MV →
      (s.accCode 0x80).accFrameOk frame = true →
      (frame.drop 30).take 8 = (s.accCode 0x80).accMac frame →
      bit (leAt frame 5 1) 0 = false →
      (s.accCode 0x80).accTok (leAt frame 0 4 % 2 ^ 20) = some k →
      exec (.transponderPoll ⟨mv, frame⟩) s = .next ((((s.accCode 0x80).accLast (leAt frame 0 4) 2 1).accSession ((s.accCode 0x80).flag (F.ACC_TOK_LOCK k)) (some (leAt frame 0 4 % 2 ^ 20))).accPollEnd)) ∧
  (∀ (s : State) (s0 : State),
      s.accDoor = s0.accDoor →
      s.accKey = s0.accKey →
      s.accWatch s0 = s)

/-- Every command and event of the CAN controllers completes and leaves what R200 to R225 give, in the cases named -/
def Obligations.CanControllerCommandsActAsTheTablesSay : Prop :=
  (∀ (r : Req) (s : State) (x : Option Sess) (s1 : State),
      Started s r 5 1 x s1 →
      3 ≤ r.payload.length →
      r.payload.length = 3 + 8 * leAt r.payload 1 2 →
      leAt r.payload 0 1 < 16 →
      exec (.canConfig r) s = .next (s1.canConfig (rkeyOf r) (leAt r.payload 0 1) r.payload (leAt r.payload 1 2) 3)) ∧
  (∀ (s : State) (k : RKey) (n : Nat) (pl : List Byte) (i : Nat) (o : Nat),
      s.canConfig k n pl 0 o = s.ok k [] ∧
      (leAt pl o 2 < 0x7000 → leAt pl (o + 2) 2 = 0 → ∀ s1, s.canReg n (leAt pl o 2) (toW (leAt pl (o + 4) 4)) = (s1, .ok) → s.canConfig k n pl (i + 1) o = s1.canConfig k n pl i (o + 8)) ∧
      (leAt pl o 2 < 0x7000 → leAt pl (o + 2) 2 = 0 → ∀ s1 id, s.canReg n (leAt pl o 2) (toW (leAt pl (o + 4) 4)) = (s1, .conflict id) → s.canConfig k n pl (i + 1) o = s1.cmdConflict k id) ∧
      (leAt pl o 2 < 0x7000 → leAt pl (o + 2) 2 = 0 → ∀ s1 m, s.canReg n (leAt pl o 2) (toW (leAt pl (o + 4) 4)) = (s1, .state m) → s.canConfig k n pl (i + 1) o = s1.wrongState k m)) ∧
  (∀ (r : Req) (s : State) (x : Option Sess) (s1 : State) (n : Nat) (t : Nat) (dt : Nat) (c : Nat) (xs : List Shadow),
      Started s r 5 2 x s1 →
      18 ≤ r.payload.length →
      leAt r.payload 0 1 = n →
      leAt r.payload 1 1 = t →
      leAt r.payload 2 8 = dt →
      leAt r.payload 14 4 = c →
      r.payload.length = 18 + min 64 (bits c 6 0) →
      n < 16 →
      t < 64 →
      dt ≤ s1.dtime + 1800000000000 →
      s1.owner (resId 8 (64 * n + t)) = 0 →
      s1.canReserved n t = false →
      xs = canWhole (leAt r.payload 10 4) (putBit (c % 2 ^ 13) 9 (dt != 0)) (dt / 1000) ((r.payload.drop 18).take (min 64 (bits c 6 0))) →
      (s1.canCh n).active ≠ some t →
      exec (.canSend r) s = .next (((xs.foldl (State.canPart n t) (s1.modCan n (fun q => { q with reqs := q.reqs ++ [⟨t, (rkeyOf r), dt⟩] }))).canRaise n t).canArb n)) ∧
  (∀ (r : Req) (s : State) (x : Option Sess) (s1 : State) (n : Nat) (t : Nat) (dt : Nat) (c : Nat) (xs : List Shadow),
      Started s r 5 2 x s1 →
      18 ≤ r.payload.length →
      leAt r.payload 0 1 = n →
      leAt r.payload 1 1 = t →
      leAt r.payload 2 8 = dt →
      leAt r.payload 14 4 = c →
      r.payload.length = 18 + min 64 (bits c 6 0) →
      n < 16 →
      t < 64 →
      dt ≤ s1.dtime + 1800000000000 →
      s1.owner (resId 8 (64 * n + t)) = 0 →
      s1.canReserved n t = false →
      xs = canWhole (leAt r.payload 10 4) (putBit (c % 2 ^ 13) 9 (dt != 0)) (dt / 1000) ((r.payload.drop 18).take (min 64 (bits c 6 0))) →
      (s1.canCh n).active = some t →
      exec (.canSend r) s = .next ((s1.modCan n (fun q => { q with copy := q.copy ++ [⟨t, xs, some ⟨t, (rkeyOf r), dt⟩⟩] })).canArb n)) ∧
  (∀ (r : Req) (s : State) (x : Option Sess) (s1 : State),
      Started s r 5 3 x s1 →
      r.payload.length = 3 →
      leAt r.payload 0 1 < 16 →
      leAt r.payload 1 2 < 1088 →
      exec (.canRead r) s = .next (s1.ok (rkeyOf r) (s1.mbytes (canRx (leAt r.payload 0 1) (leAt r.payload 1 2)) 80))) ∧
  (∀ (who : Who) (n : Fin 16) (value : Word) (s : State),
      s.regOk who (A.CAN_CTRL n) = true →
      exec (.canEnable who n value) s = .next (s.canCtrl n (putBits value.toNat 0 0 1))) ∧
  (∀ (who : Who) (n : Fin 16) (value : Word) (s : State),
      s.regOk who (A.CAN_CTRL n) = true →
      exec (.canDisable who n value) s = .next (s.canCtrl n (putBits value.toNat 0 0 0))) ∧
  (∀ (who : Who) (n : Fin 16) (value : Word) (s : State),
      s.regOk who (A.CAN_CTRL n) = true →
      exec (.canRecover who n value) s = .next (s.canCtrl n (putBits value.toNat 8 8 1))) ∧
  (∀ (who : Who) (n : Fin 16) (value : Word) (s : State),
      s.regOk who (A.CAN_CTRL n) = true →
      exec (.canTxfNWrite who n value) s = .next (s.canCtrl n value.toNat)) ∧
  (∀ (s : State) (n : Nat) (w : Nat) (t : State) (u : State),
      (t = (if s.f (F.CAN_STAT_STATE n) = 0 then s.setF (F.CAN_CTRL_MODE n) (bits w 2 1) else s)) →
      u = (((((((t.setF (F.CAN_CTRL_LBEXT n) (bits w 3 3)).setF (F.CAN_CTRL_FD_EN n) (bits w 4 4)).setF (F.CAN_CTRL_BRS_EN n) (bits w 5 5)).setF (F.CAN_CTRL_PXHD n) (bits w 6 6)).setF (F.CAN_CTRL_ABO n) (bits w 7 7)).setF (F.CAN_CTRL_UNF_EN n) (bits w 9 9)).setF (F.CAN_CTRL_RXAB n) (bits w 16 16)).canTxfN n (bits w 15 10) →
      (bit w 8 = false → bit w 0 = true → s.canCtrl n w = u.canOn n) ∧ (bit w 8 = false → bit w 0 = false → s.canCtrl n w = u.canOff n) ∧
      (bit w 8 = true → bit w 0 = true → s.canCtrl n w = (u.canRecover n).canOn n) ∧ (bit w 8 = true → bit w 0 = false → s.canCtrl n w = (u.canRecover n).canOff n)) ∧
  (∀ (s : State) (n : Nat),
      s.f (F.CAN_STAT_STATE n) = 0 →
      (s.canTimingOk n = true → s.canOn n = ((s.setF (F.CAN_CTRL_EN n) 1).setF (F.CAN_STAT_CFGERR n) 0).setF (F.CAN_STAT_STATE n) 1) ∧
      (s.canTimingOk n = false → s.canOn n = (s.setF (F.CAN_STAT_CFGERR n) 1).canEvt n 18)) ∧
  (∀ (s : State) (n : Nat) (v : Nat) (id : Nat),
      (s.txfBlock n (min 32 v) = some id → s.canTxfN n v = (s.setF (F.CAN_STAT_TXFERR n) 1).conflict id 0 0) ∧
      (s.txfBlock n (min 32 v) = none → s.f (F.CAN_TXFIFO_STAT_COUNT n) = 0 → s.canTxfN n v = (s.setF (F.CAN_CTRL_TXF_N n) (min 32 v)).setF (F.CAN_STAT_TXFERR n) 0)) ∧
  (∀ (who : Who) (n : Fin 16) (value : Word) (s : State),
      s.regOk who (A.CAN_AUTH n) = true →
      exec (.canAuthEnable who n value) s = .next (s.canAuthWrite n value.toNat)) ∧
  (∀ (s : State) (n : Nat) (w : Nat) (t : State),
      t = (s.setF (F.CAN_AUTH_KSLOT n) (bits w 7 2)).setF (F.CAN_AUTH_WIN n) (max 1 (bits w 15 8)) →
      (bit w 0 = false → s.canAuthWrite n w = (t.modCan n (fun c => { c with key := none })).setF (F.CAN_AUTH_EN n) 0) ∧
      (bit w 0 = true → t.busKey (bits w 7 2) 8 = none → s.canAuthWrite n w = ((t.modCan n (fun c => { c with key := none })).setF (F.CAN_AUTH_EN n) 0).setF (F.CAN_AUTH_KERR n) 1) ∧
      (bit w 0 = true → ∀ k, t.busKey (bits w 7 2) 8 = some k → s.canAuthWrite n w = ((t.modCan n (fun c => { c with key := some k })).setF (F.CAN_AUTH_EN n) 1).setF (F.CAN_AUTH_KERR n) 0)) ∧
  (∀ (who : Who) (n : Fin 16) (high : Bool) (value : Word) (s : State),
      s.regOk who (A.CAN_TXREQ_SET_L n) = true →
      (maskObjs high value.toNat).find? (fun t => s.owner (resId 8 (64 * n.val + t)) != 0) = none →
      exec (.canTxreqSet who n high value) s = .next (((maskObjs high value.toNat).foldl (fun u t => u.canRaise n t) s).canArb n)) ∧
  (∀ (who : Who) (n : Fin 16) (high : Bool) (value : Word) (s : State) (t : Nat),
      s.regOk who (A.CAN_TXREQ_SET_L n) = true →
      (maskObjs high value.toNat).find? (fun t => s.owner (resId 8 (64 * n.val + t)) != 0) = some t →
      exec (.canTxreqSet who n high value) s = .next ((s.conflict (resId 8 (64 * n.val + t)) (whoOwner who) 1).busErr who)) ∧
  (∀ (who : Who) (n : Fin 16) (high : Bool) (value : Word) (s : State),
      s.regOk who (A.CAN_TXREQ_CLR_L n) = true →
      (maskObjs high value.toNat).find? (fun t => s.owner (resId 8 (64 * n.val + t)) != 0) = none →
      exec (.canTxreqClr who n high value) s = .next ((maskObjs high value.toNat).foldl (fun u t => u.canCancel n t) s)) ∧
  (∀ (who : Who) (n : Fin 16) (high : Bool) (value : Word) (s : State) (t : Nat),
      s.regOk who (A.CAN_TXREQ_CLR_L n) = true →
      (maskObjs high value.toNat).find? (fun t => s.owner (resId 8 (64 * n.val + t)) != 0) = some t →
      exec (.canTxreqClr who n high value) s = .next ((s.conflict (resId 8 (64 * n.val + t)) (whoOwner who) 1).busErr who)) ∧
  (∀ (who : Who) (n : Fin 16) (wide : Bool) (value : BitVec 64) (s : State),
      s.regOk who (A.CAN_TXFIFO n 0) = true →
      s.owner (resId 10 n) = 0 →
      exec (.canTxfifoWrite who n wide value) s = .next (s.canPort n (leBytes (if wide then 8 else 4) value.toNat))) ∧
  (∀ (who : Who) (n : Fin 16) (wide : Bool) (value : BitVec 64) (s : State),
      s.regOk who (A.CAN_TXFIFO n 0) = true →
      s.owner (resId 10 n) ≠ 0 →
      exec (.canTxfifoWrite who n wide value) s = .next ((s.conflict (resId 10 n) (whoOwner who) 1).busErr who)) ∧
  (∀ (s : State) (n : Nat) (b : List Byte) (p : List Byte),
      p = (s.canCh n).part ++ b →
      (p.length < 16 ∨ p.length < recLen p → s.canPort n b = s.modCan n (fun c => { c with part := p })) ∧
      (16 ≤ p.length → recLen p ≤ p.length → s.canPort n b = ((s.modCan n (fun c => { c with part := p.drop (recLen p) })).canEnqueue n (p.take (recLen p))).1)) ∧
  (∀ (who : Who) (n : Fin 16) (s : State),
      s.regOk who (A.CAN_UNF_REL n) = true →
      s.f (F.CAN_UNF_STAT_COUNT n) ≠ 0 →
      exec (.canUnfRel who n) s = .next ((s.setF (F.CAN_UNF_STAT_COUNT n) (s.f (F.CAN_UNF_STAT_COUNT n) - 1)).setF (F.CAN_UNF_STAT_HEAD n) ((s.f (F.CAN_UNF_STAT_HEAD n) + 1) % 128))) ∧
  (∀ (who : Who) (n : Fin 16) (s : State),
      s.regOk who (A.CAN_UNF_REL n) = true →
      s.f (F.CAN_UNF_STAT_COUNT n) = 0 →
      exec (.canUnfRel who n) s = .next (s)) ∧
  (∀ (who : Who) (n : Fin 16) (slot : Fin 256) (value : Word) (s : State) (l : Nat),
      s.regOk who (A.CAN_FRESH_H n slot) = true →
      tblFind (s.canCh n).freshL slot = some l →
      exec (.canFreshHWrite who n slot value) s = .next (((s.setReg (A.CAN_FRESH_L n slot) (toW l)).setReg (A.CAN_FRESH_H n slot) value).modCan n (fun c => { c with freshL := tblErase c.freshL slot }))) ∧
  (∀ (who : Who) (n : Fin 16) (slot : Fin 256) (value : Word) (s : State),
      s.regOk who (A.CAN_FRESH_H n slot) = true →
      tblFind (s.canCh n).freshL slot = none →
      exec (.canFreshHWrite who n slot value) s = .next ((s.setReg (A.CAN_FRESH_H n slot) value).modCan n (fun c => { c with freshL := tblErase c.freshL slot }))) ∧
  (∀ (n : Fin 16) (s : State),
      s.f (F.CAN_STAT_STATE n) = 1 →
      exec (.canIntegrated n) s = .next ((((s.setF (F.CAN_STAT_STATE n) 2).canStop n).tideEval n).canArb n)) ∧
  (∀ (n : Fin 16) (f : CanFrame) (s : State),
      s.canHears n = true →
      (ridFdf f.rid.toNat = false ∨ s.flag (F.CAN_CTRL_FD_EN n) = true) →
      exec (.canFrameReceived n f) s = .next (((((s.canLost n).canRecDown n).canFiled n { f with sof := BitVec.ofNat 32 (s.usAgo f.sof.toNat) }).canStop n).canArb n)) ∧
  (∀ (s : State) (n : Nat),
      ((s.canCh n).active = none → s.canLost n = s) ∧
      (∀ t, (s.canCh n).active = some t → t < 64 → (s.canCh n).cancel = false → s.canLost n =
        if ((s.canIdle n).canTakeCopy n t).canIsLate n t then ((s.canIdle n).canTakeCopy n t).canLate n t else (s.canIdle n).canTakeCopy n t)) ∧
  (∀ (n : Fin 16) (f : CanFrame) (s : State),
      s.canHears n = false →
      exec (.canFrameReceived n f) s = .next (s)) ∧
  (∀ (s : State) (n : Nat) (f : CanFrame) (kept : Bool),
      s.canMatch n f = none →
      kept = (s.flag (F.CAN_CTRL_UNF_EN n) && decide (s.f (F.CAN_UNF_STAT_COUNT n) < 128)) →
      s.canAccept n f = ((((s.canUnfiled n f).when (kept && !s.isScf n f.rid.toNat (frLen f)) (fun u => u.modTide n (fun c => { c with busyAt := some u.now }))).tideEval n).sluiceIn n 0 f)) ∧
  (∀ (s : State) (n : Nat) (f : CanFrame) (j : Nat),
      s.canMatch n f = some j →
      s.flag (F.CAN_MASK_AUTH n j) = false →
      s.canHeldObj n j = false →
      s.canAccept n f = s.canFileAll n j f false 0) ∧
  (∀ (s : State) (n : Nat) (f : CanFrame) (j : Nat),
      s.canMatch n f = some j →
      s.flag (F.CAN_MASK_AUTH n j) = true →
      s.canAuth n j f = none →
      s.canAccept n f = (((s.incF (F.CAN_AUTHCNT_FAIL n) 1).canEvt n 16).tideEval n).sluiceIn n 0 f) ∧
  (∀ (s : State) (n : Nat) (f : CanFrame) (j : Nat) (k : Nat) (c : Nat),
      s.canMatch n f = some j →
      s.flag (F.CAN_MASK_AUTH n j) = true →
      s.canAuth n j f = some (k, c) →
      (s.setFresh n k c).canHeldObj n j = false →
      s.canAccept n f = (s.setFresh n k c).canFileAll n j f true (c % 2 ^ 32)) ∧
  (∀ (s : State) (n : Nat) (j : Nat) (f : CanFrame) (auth : Bool) (rfv : Nat) (lost : Bool) (t : State),
      lost = (s.ctl (canRx n j) 16 16 == 1) →
      t = s.canRecord (canRx n j) f auth rfv true (lost || s.ctl (canRx n j) 17 17 == 1) →
      s.canFile n j f auth rfv = (t.when lost (fun u => u.canEvt n 1)).when (s.flag (F.CAN_MASK_IRQ n j)) (fun u => u.canEvt n 0)) ∧
  (∀ (n : Fin 16) (obj : Fin 1024) (s : State),
      obj.val ∉ (s.canCh n).spilt →
      exec (.canHoldRelease n obj) s = .next ((s.modCan n (fun c => { c with held := c.held.filter (fun x => x.2 != obj.val) })).canUnhold n)) ∧
  (∀ (n : Fin 16) (obj : Fin 1024) (s : State) (t : State),
      obj.val ∈ (s.canCh n).spilt →
      t = (((s.canCh n).held.filter (fun x => x.2 == obj.val)).map (·.1)).foldl (fun u w => u.reharvest w n obj) s →
      exec (.canHoldRelease n obj) s = .next ((t.modCan n (fun c => { c with held := c.held.filter (fun x => x.2 != obj.val) })).canUnhold n)) ∧
  (∀ (n : Fin 16) (lec : Fin 7) (dataPhase : Bool) (eight : Bool) (pxe : Bool) (s : State) (t : State),
      s.canHears n = true →
      (pxe = false ∨ s.flag (F.CAN_CTRL_PXHD n) = true) →
      (t = (s.canLost n).canErr n (if pxe then 2 else lec.val) dataPhase) →
      t.f (F.CAN_CTRL_MODE n) = 0 →
      t.canFrozen n = false →
      exec (.canRxError n lec dataPhase eight pxe) s = .next ((((t.setRec n (s.f (F.CAN_ERR_REC n) + if eight then 8 else 1)).canFault n (s.f (F.CAN_ERR_TEC n)) (s.f (F.CAN_ERR_REC n))).canStop n).canArb n)) ∧
  (∀ (n : Fin 16) (lec : Fin 7) (dataPhase : Bool) (eight : Bool) (pxe : Bool) (s : State),
      s.canHears n = true →
      pxe = true →
      s.flag (F.CAN_CTRL_PXHD n) = false →
      exec (.canRxError n lec dataPhase eight pxe) s = .next (((((s.canLost n).incF (F.CAN_ERRCNT_PXE n) 1).canEvt n 14).canStop n).canArb n)) ∧
  (∀ (n : Fin 16) (lec : Fin 7) (dataPhase : Bool) (eight : Bool) (pxe : Bool) (s : State),
      s.canHears n = false →
      exec (.canRxError n lec dataPhase eight pxe) s = .next (s)) ∧
  (∀ (n : Fin 16) (sof : BitVec 32) (tdcv : BitVec 7) (s : State) (q : State) (t : Nat) (f : CanFrame) (u : State) (v : State) (w : State),
      q = s.canArb n →
      (q.canCh n).active = some t →
      t < 64 →
      q.canDrives n = true →
      f = q.stamped { q.inFlight n with sof := sof } →
      u = ((((q.when (!q.canInternal n) (fun x => x.emit (.can n f.rid.toNat) (leBytes 1 (f.dlc.toNat + 16 * b2n f.brs + 32 * b2n f.esi) ++ f.data))).canTdc n f tdcv.toNat).canIdle n).modCan n (fun c => { c with rep := none })) →
      (v = if u.canFrozen n then u else (u.decF (F.CAN_ERR_TEC n)).canFault n (q.f (F.CAN_ERR_TEC n)) (u.f (F.CAN_ERR_REC n))) →
      w = (v.canSent n t f.sof.toNat).when (!(v.isScf n f.rid.toNat (frLen f))) (fun x => x.modTide n (fun c => { c with busyAt := some x.now })) →
      exec (.canTxSuccess n sof tdcv) s = .next (((if w.f (F.CAN_CTRL_MODE n) = 3 then w.canFiled n f else w.tideEval n).canStop n).canArb n)) ∧
  (∀ (n : Fin 16) (sof : BitVec 32) (tdcv : BitVec 7) (s : State) (q : State),
      q = s.canArb n →
      ((q.canCh n).active = none ∨ q.canDrives n = false) →
      exec (.canTxSuccess n sof tdcv) s = .next (q)) ∧
  (∀ (s : State) (n : Nat) (t : Nat),
      (s.canCh n).active = some t →
      s.canArb n = s) ∧
  (∀ (n : Fin 16) (lec : Fin 7) (dataPhase : Bool) (keep : Bool) (tdcv : BitVec 7) (s : State) (q : State) (t : Nat) (u : State) (v : State) (w : State),
      q = s.canArb n →
      (q.canCh n).active = some t →
      t < 64 →
      (q.canCh n).cancel = false →
      u = (((q.canTdc n (q.inFlight n) tdcv.toNat).canErr n lec dataPhase).canIdle n).modCan n (fun c => { c with rep := some t, cancel := false }) →
      (v = if u.canFrozen n || keep then u else (u.setF (F.CAN_ERR_TEC n) (min 511 (q.f (F.CAN_ERR_TEC n) + 8))).canFault n (q.f (F.CAN_ERR_TEC n)) (u.f (F.CAN_ERR_REC n))) →
      w = v.canTakeCopy n t →
      exec (.canTxError n lec dataPhase keep tdcv) s = .next ((((if w.canIsLate n t then w.canLate n t else w).tideEval n).canStop n).canArb n)) ∧
  (∀ (n : Fin 16) (s : State),
      s.f (F.CAN_STAT_STATE n) = 4 →
      s.flag (F.TIDE_N_STAT_IGNORE n) = false →
      (s.flag (F.CAN_CTRL_ABO n) = true ∨ (s.canCh n).recov = true) →
      exec (.canRecovered n) s = .next ((((((s.setF (F.CAN_STAT_STATE n) 2).setF (F.CAN_ERR_TEC n) 0).setRec n 0).canEvt n 12).tideEval n).canArb n)) ∧
  (∀ (n : Fin 16) (s : State),
      exec (.canTatDue n) s = .next (s.canArb n)) ∧
  (∀ (s : State) (n : Nat) (k : Nat) (t : Nat) (u : State),
      (s.canCh n).active = none →
      u = s.isoFeed n →
      (u.canRunners n).foldl arbBetter none = some (k, t) →
      t < 64 →
      s.canArb n = ((u.useFree.modCan n (fun c => { c with active := some t, fly := some (u.canTxFrame n t), cancel := false })).setF (F.CAN_STAT_TXACT n) 1).setTx n t 23 true) ∧
  (∀ (n : Fin 16) (obj : Fin 65) (s : State),
      obj.val = 64 →
      exec (.canTatLate n obj) s = .next ((s.canHeadLate n).canArb n)) ∧
  (∀ (n : Fin 16) (obj : Fin 65) (s : State),
      obj.val ≠ 64 →
      s.canIsLate n obj = true →
      (s.canCh n).active ≠ some obj.val →
      exec (.canTatLate n obj) s = .next (s.canLate n obj)) ∧
  (∀ (n : Fin 16) (s : State),
      exec (.canDominantTimeout n) s = .next ((s.setF (F.CAN_STAT_DOMTO n) 1).canEvt n 19)) ∧
  (∀ (s : State) (n : Nat) (t : Nat) (u : State),
      s.canReserved n t = false →
      t < 64 →
      s.txBit n t 16 = false →
      u = (s.setCtl (canTx n t) 22 16 0).setTx n t 16 true →
      u.txBit n t 8 = false →
      u.canIsLate n t = false →
      u.flag (F.TIDE_N_CFG_TXWAKE n) = false →
      s.canRequest n t = u.canArb n)

/-- Every command and event of the Tide manager and of Sluice completes and leaves what R226 to R249 give, in the cases named -/
def Obligations.TideAndSluiceCommandsActAsTheTablesSay : Prop :=
  (∀ (who : Who) (n : Fin 16) (s : State),
      s.regOk who (A.TIDE_N_CMD n) = true →
      s.tideState n = 0 →
      s.flag (F.TIDE_N_CFG_EN n) = true →
      exec (.tideSleep who n) s = .next (((((s.setF (F.TIDE_N_STAT_LREADY n) 1).setF (F.TIDE_N_STAT_COMMITTED n) 0).setTide n 1).scfSend n 1).tideEval n)) ∧
  (∀ (who : Who) (n : Fin 16) (s : State),
      s.regOk who (A.TIDE_N_CMD n) = true →
      s.tideState n ≠ 0 →
      exec (.tideSleep who n) s = .next (s)) ∧
  (∀ (who : Who) (n : Fin 16) (s : State),
      s.regOk who (A.TIDE_N_CMD n) = true →
      s.tideState n = 1 →
      s.flag (F.TIDE_N_STAT_COMMITTED n) = false →
      exec (.tideStay who n) s = .next (((s.setF (F.TIDE_N_STAT_LREADY n) 0).tideBack n).scfSend n 2)) ∧
  (∀ (who : Who) (n : Fin 16) (s : State),
      s.regOk who (A.TIDE_N_CMD n) = true →
      s.tideState n ≠ 1 →
      exec (.tideStay who n) s = .next (s)) ∧
  (∀ (who : Who) (n : Fin 16) (s : State),
      s.regOk who (A.TIDE_N_CMD n) = true →
      s.tideState n = 1 →
      s.fbit F.TIDE_QPEND_QPEND n = true →
      exec (.tideCommit who n) s = .next (((s.setQpend n false).setF (F.TIDE_N_STAT_COMMITTED n) 1).scfSend n 5)) ∧
  (∀ (who : Who) (n : Fin 16) (s : State),
      s.regOk who (A.TIDE_N_CMD n) = true →
      s.fbit F.TIDE_QPEND_QPEND n = false →
      exec (.tideCommit who n) s = .next (s)) ∧
  (∀ (who : Who) (n : Fin 16) (s : State),
      s.regOk who (A.TIDE_N_CMD n) = true →
      s.tideState n = 1 →
      s.fbit F.TIDE_QPEND_QPEND n = true →
      exec (.tideVeto who n) s = .next ((s.tideBack n).scfSend n 2)) ∧
  (∀ (who : Who) (n : Fin 16) (s : State),
      s.regOk who (A.TIDE_N_CMD n) = true →
      s.tideState n = 0 →
      exec (.tideWake who n) s = .next (s)) ∧
  (∀ (who : Who) (n : Fin 16) (s : State),
      s.regOk who (A.TIDE_N_CMD n) = true →
      s.tideState n = 2 →
      exec (.tideWake who n) s = .next (s.tideWake n 6 none)) ∧
  (∀ (who : Who) (n : Fin 16) (s : State),
      s.regOk who (A.TIDE_N_CMD n) = true →
      s.tideState n = 1 →
      s.tideCommitted n = false →
      exec (.tideWake who n) s = .next (((((s.setQpend n false).setF (F.TIDE_N_STAT_QUORUM n) 0).tideRecord n 6 false false).modTide n (fun c => { c with loc := true, capt := none })).setTide n 3)) ∧
  (∀ (who : Who) (n : Fin 16) (s : State),
      s.regOk who (A.TIDE_N_CMD n) = true →
      s.tideState n = 0 →
      exec (.tideForceSleep who n) s = .next (((s.setF (F.TIDE_N_STAT_COMMITTED n) 1).setTide n 1).tideLow n)) ∧
  (∀ (who : Who) (n : Fin 16) (s : State),
      s.regOk who (A.TIDE_N_CMD n) = true →
      s.tideState n ≠ 0 →
      exec (.tideForceSleep who n) s = .next (s)) ∧
  (∀ (s : State) (n : Nat) (src : Nat) (capt : Option CanFrame),
      s.tideState n = 2 →
      s.tideWake n src capt = (((s.tideRecord n src false capt.isSome).setF (F.CAN_STAT_TRX n) 4).modTide n
        (fun c => { c with loc := decide (6 ≤ src), biasOff := false, low := false, capt := capt })).setTide n 3) ∧
  (∀ (s : State) (n : Nat) (st : Nat),
      (s.f (F.TIDE_N_STAT_STATE n) = st → s.setTide n st = s) ∧ (s.f (F.TIDE_N_STAT_STATE n) ≠ st → s.setTide n st = (s.setF (F.TIDE_N_STAT_STATE n) st).raise (464 + n))) ∧
  (∀ (s : State) (n : Nat) (flags : Nat),
      (s.flag (F.TIDE_N_CFG_EN n) = false → s.scfSend n flags = s) ∧
      (s.flag (F.TIDE_N_CFG_EN n) = true → s.scfSend n flags = (s.canOffer n ⟨62, canWhole (s.f (F.TIDE_N_SCFID_ID n) + 2 ^ 29 * s.f (F.TIDE_N_CFG_SCF_IDE n)) 2 0
        (leBytes 1 (s.f (F.TIDE_N_CFG_NODE n)) ++ leBytes 1 flags), none⟩).canArb n)) ∧
  (∀ (s : State) (n : Nat),
      s.tideBack n = ((((s.setQpend n false).setF (F.TIDE_N_STAT_COMMITTED n) 0).setF (F.TIDE_N_STAT_QUORUM n) 0).setTide n 0).canArb n) ∧
  (∀ (who : Who) (n : Fin 16) (value : Word) (s : State),
      s.regOk who (A.TIDE_N_CFG n) = true →
      exec (.tideCfgWrite who n value) s = .next (s.tideCfg n value)) ∧
  (∀ (s : State) (n : Nat) (w : Word) (g : RegDef) (t : State),
      regAt (A.TIDE_N_CFG n) = some g →
      t = (s.plainWrite g (A.TIDE_N_CFG n) w).setFlag (F.TIDE_N_CFG_EN n) (s.flag (F.TIDE_N_CFG_EN n)) →
      (bit w.toNat 0 = true → s.flag (F.TIDE_N_CFG_EN n) = false → s.tideCfg n w = t.tideOn n) ∧ (bit w.toNat 0 = true → s.flag (F.TIDE_N_CFG_EN n) = true → s.tideCfg n w = t.scfFilter n) ∧
      (bit w.toNat 0 = false → (t.setF (F.TIDE_N_CFG_EN n) 0).tideState n ≠ 1 → s.tideCfg n w = t.setF (F.TIDE_N_CFG_EN n) 0)) ∧
  (∀ (s : State) (n : Nat),
      s.owner (resId 8 (64 * n + 62)) = 0 →
      s.canReserved n 62 = false →
      s.owner (resId 9 (1024 * n + 1022)) = 0 →
      s.tideOn n = (s.scfFilter n).setF (F.TIDE_N_CFG_EN n) 1) ∧
  (∀ (s : State) (n : Nat) (id : Nat) (ide : Nat),
      id = s.f (F.TIDE_N_SCFID_ID n) →
      ide = s.f (F.TIDE_N_CFG_SCF_IDE n) →
      s.scfFilter n = (s.setReg (A.CAN_FILT n 1022) (toW ((if ide = 1 then id else id % 2 ^ 11) + 2 ^ 29 * ide + 2 ^ 31))).setF (F.CAN_MASK_MASK n 1022) 0x1FFFFFFF) ∧
  (∀ (s : State) (n : Nat),
      (s.owner (resId 8 (64 * n + 62)) ≠ 0 ∨ s.canReserved n 62 = true) →
      s.tideOn n = (s.setF (F.TIDE_N_CFG_EN n) 0).conflict (resId 8 (64 * n + 62)) 0 0) ∧
  (∀ (s : State),
      exec (.tideQuorumTick) s = .next (forBelow 16 s (fun n t => t.tideEval n))) ∧
  (∀ (s : State) (n : Nat),
      s.flag (F.TIDE_N_CFG_EN n) = false →
      s.tideEval n = s) ∧
  (∀ (n : Fin 16) (s : State),
      s.tideState n = 1 →
      s.flag (F.TIDE_N_STAT_COMMITTED n) = false →
      exec (.scfSendPeriod n) s = .next (s.scfSend n 1)) ∧
  (∀ (n : Fin 16) (s : State),
      s.tideState n ≠ 1 →
      exec (.scfSendPeriod n) s = .next (s)) ∧
  (∀ (n : Fin 16) (s : State),
      s.tideState n = 1 →
      s.fbit F.TIDE_QPEND_QPEND n = true →
      s.flag F.TIDE_CTRL_FSAFE = true →
      exec (.tideFailsafeExpiry n) s = .next ((((s.setQpend n false).setF (F.TIDE_N_STAT_COMMITTED n) 1).scfSend n 5).raise 481)) ∧
  (∀ (n : Fin 16) (s : State),
      s.tideCommitted n = true →
      exec (.tideDrainExpiry n) s = .next (s.tideLow n)) ∧
  (∀ (s : State) (n : Nat),
      ((s.canCh n).active.isSome = false → s.tideLow n = s.setF (F.CAN_STAT_TRX n) 3) ∧ ((s.canCh n).active.isSome = true → s.tideLow n = s.modTide n (fun c => { c with low := true }))) ∧
  (∀ (n : Fin 16) (s : State),
      s.tideCommitted n = true →
      s.f (F.CAN_STAT_TRX n) = 3 →
      s.flag (F.TIDE_N_CFG_LPMODE n) = false →
      exec (.toLowComplete n) s = .next ((((s.canIdle n).setF (F.TIDE_N_STAT_IGNORE n) 1).setF (F.CAN_STAT_TRX n) 0).setTide n 2)) ∧
  (∀ (n : Fin 16) (s : State),
      s.tideCommitted n = true →
      s.f (F.CAN_STAT_TRX n) = 3 →
      s.flag (F.TIDE_N_CFG_LPMODE n) = true →
      exec (.toLowComplete n) s = .next (((((s.canIdle n).setF (F.TIDE_N_STAT_IGNORE n) 1).setF (F.CAN_STAT_TRX n) 2).setF (F.TIDE_N_WUF_CTL_FEC n) 0).setTide n 2)) ∧
  (∀ (n : Fin 16) (s : State),
      s.tideCommitted n = true →
      exec (.lateWake n) s = .next (s.tideWake n 5 none)) ∧
  (∀ (n : Fin 16) (s : State),
      s.tideCommitted n = false →
      exec (.lateWake n) s = .next (s)) ∧
  (∀ (n : Fin 16) (s : State),
      s.f (F.CAN_STAT_TRX n) = 0 →
      s.flag (F.TIDE_N_CFG_WAKEMODE n) = false →
      exec (.wupPattern n) s = .next (s.busWake n 1 none)) ∧
  (∀ (n : Fin 16) (s : State),
      s.f (F.CAN_STAT_TRX n) = 0 →
      s.flag (F.TIDE_N_CFG_WAKEMODE n) = true →
      exec (.dominantWake n) s = .next (s.busWake n 2 none)) ∧
  (∀ (s : State) (n : Nat) (src : Nat) (capt : Option CanFrame),
      s.pwr.park = .run →
      s.islandUp 6 = true →
      s.tideState n = 2 →
      s.busWake n src capt = (s.tideWake n src capt).parkWake 4 n) ∧
  (∀ (s : State) (n : Nat) (src : Nat) (capt : Option CanFrame),
      s.pwr.park = .run →
      s.islandUp 6 = false →
      s.busWake n src capt = (s.modTide n (fun c => { c with wake := some (c.wake.getD src), capt := capt })).parkWake 4 n) ∧
  (∀ (n : Fin 16) (f : CanFrame) (s : State),
      s.f (F.CAN_STAT_TRX n) = 2 →
      s.wufMatch n f = true →
      exec (.wakeUpFrame n f) s = .next (s.busWake n 3 (some (s.stamped f)))) ∧
  (∀ (n : Fin 16) (s : State),
      s.f (F.CAN_STAT_TRX n) = 2 →
      31 < s.f (F.TIDE_N_WUF_CTL_FEC n) →
      s.tideState n = 2 →
      exec (.fecOverflowWake n) s = .next ((s.busWake n 4 none).raise 485)) ∧
  (∀ (n : Fin 16) (fd : Bool) (ok : Bool) (s : State),
      s.f (F.CAN_STAT_TRX n) = 2 →
      fd = false →
      exec (.wufFrameDecoded n fd ok) s = .next ((if ok then s.decF (F.TIDE_N_WUF_CTL_FEC n) else s.incF (F.TIDE_N_WUF_CTL_FEC n) 1).modTide n (fun c => { c with biasOff := false }))) ∧
  (∀ (n : Fin 16) (fd : Bool) (ok : Bool) (s : State),
      fd = true →
      exec (.wufFrameDecoded n fd ok) s = .next (s)) ∧
  (∀ (n : Fin 16) (s : State),
      (s.f (F.CAN_STAT_TRX n) = 0 ∨ s.f (F.CAN_STAT_TRX n) = 2) →
      exec (.busSilence n) s = .next ((s.setF (F.TIDE_N_WUF_CTL_FEC n) 0).modTide n (fun c => { c with biasOff := true }))) ∧
  (∀ (n : Fin 16) (s : State),
      s.tideState n = 3 →
      exec (.floodDone n) s = .next ((s.setF (F.CAN_STAT_TRX n) 1).tideAwake n)) ∧
  (∀ (n : Fin 16) (s : State),
      s.tideState n = 3 →
      exec (.floodFail n) s = .next (((s.setF (F.CAN_STAT_TRX n) 1).tideAwake n).raise 484)) ∧
  (∀ (s : State) (n : Nat) (t : State),
      (s.tideCh n).capt = none →
      (s.tideCh n).loc = false →
      t = ((s.setF (F.TIDE_N_STAT_IGNORE n) 0).setF (F.TIDE_N_STAT_COMMITTED n) 0).setTide n 0 →
      s.tideAwake n = (t.modTide n (fun c => { c with capt := none, loc := false })).canArb n) ∧
  (∀ (who : Who) (s : State),
      s.regOk who (A.SLUICE_RT_CMD) = true →
      rtBad (s.regBytes (A.SLUICE_RT_D 0) 6) = none →
      s.rtConflict (s.regBytes (A.SLUICE_RT_D 0) 6) = none →
      exec (.sluiceRtWrite who) s = .next ((s.rtPut (s.f F.SLUICE_RT_IDX_IDX) (s.regBytes (A.SLUICE_RT_D 0) 6)).setF F.SLUICE_RT_CMD_ERR 0)) ∧
  (∀ (who : Who) (s : State) (o : Nat),
      s.regOk who (A.SLUICE_RT_CMD) = true →
      rtBad (s.regBytes (A.SLUICE_RT_D 0) 6) = some o →
      exec (.sluiceRtWrite who) s = .next (s.setF F.SLUICE_RT_CMD_ERR 1)) ∧
  (∀ (who : Who) (s : State) (id : Nat),
      s.regOk who (A.SLUICE_RT_CMD) = true →
      rtBad (s.regBytes (A.SLUICE_RT_D 0) 6) = none →
      s.rtConflict (s.regBytes (A.SLUICE_RT_D 0) 6) = some id →
      exec (.sluiceRtWrite who) s = .next ((s.setF F.SLUICE_RT_CMD_ERR 1).conflict id 0 1)) ∧
  (∀ (who : Who) (s : State),
      s.regOk who (A.SLUICE_RT_CMD) = true →
      exec (.sluiceRtRead who) s = .next (forBelow 6 s (fun i t => t.setReg (A.SLUICE_RT_D 0 + 4 * i) (toW (leAt (s.rtGet (s.f F.SLUICE_RT_IDX_IDX)) (4 * i) 4))))) ∧
  (∀ (who : Who) (reg : Fin 33) (value : Word) (s : State),
      s.regOk who (A.SLUICE_FIFO) = true →
      exec (.sluiceOwnWrite who reg value) s = .next (s.slOwnWrite reg value.toNat)) ∧
  (∀ (s : State) (x : Fld) (k : Nat) (id : Nat),
      s.fbit x k = false →
      (s.claimable 7 id = true → s.slOwn x k id false true = (s.setOwner id 7).setFbit x k true) ∧ (s.claimable 7 id = false → s.slOwn x k id false true = s.conflict id 7 0) ∧
      s.slOwn x k id true true = s.conflict id 7 0 ∧ s.slOwn x k id false false = s) ∧
  (∀ (r : Req) (s : State) (x : Option Sess) (s1 : State) (i : Nat),
      Started s r 5 4 x s1 →
      r.payload.length = 26 →
      leAt r.payload 0 2 = i →
      i < 4096 →
      rtBad (r.payload.drop 2) = none →
      s1.rtConflict (r.payload.drop 2) = none →
      exec (.routeSet r) s = .next ((s1.rtPut i (r.payload.drop 2)).ok (rkeyOf r) [])) ∧
  (∀ (r : Req) (s : State) (x : Option Sess) (s1 : State) (i : Nat) (o : Nat),
      Started s r 5 4 x s1 →
      r.payload.length = 26 →
      leAt r.payload 0 2 = i →
      i < 4096 →
      rtBad (r.payload.drop 2) = some o →
      exec (.routeSet r) s = .next ((s1.setF F.SLUICE_RT_CMD_ERR 1).badParam (rkeyOf r) (2 + o))) ∧
  (∀ (s : State) (x : SlFrame) (rest : List SlFrame),
      s.can.inq = x :: rest →
      s.flag F.SLUICE_CTRL_EN = true →
      exec (.sluiceLookup) s = .next (State.slSearch x s.can.rt 0 ({ s with can := { s.can with inq := rest } }).inqSync)) ∧
  (∀ (s : State),
      s.can.inq = [] →
      exec (.sluiceLookup) s = .next (s)) ∧
  (∀ (x : SlFrame) (i : Nat) (e : List Byte) (l : List (Nat × List Byte)) (k : Nat) (s : State),
      State.slSearch x [] k s = s ∧ (slMatch e x = false → State.slSearch x ((i, e) :: l) k s = State.slSearch x l k s) ∧
      (slMatch e x = true → 8 ≤ k → State.slSearch x ((i, e) :: l) k s = s.raise 497) ∧
      (slMatch e x = true → k < 8 → bit (rtWord e 0) 31 = true → State.slSearch x ((i, e) :: l) k s = State.slSearch x l (k + 1) (s.slApply i e x)) ∧
      (slMatch e x = true → k < 8 → bit (rtWord e 0) 31 = false → State.slSearch x ((i, e) :: l) k s = s.slApply i e x)) ∧
  (∀ (l : Fin 3) (dst : BitVec 12) (origin : BitVec 12) (hops : BitVec 16) (bseq : BitVec 16) (payload : List Byte) (s : State),
      s.linkSt l = 3 →
      leAt payload 0 1 = 0x20 →
      16 ≤ payload.length →
      dst ≠ 0xFFF#12 →
      dst.toNat = s.ownAddr →
      dst ≠ 0#12 →
      s.brlTakes = true →
      exec (.sluiceBrlFrameRx ⟨l, dst, origin, hops, bseq⟩ payload) s = .next (s.sluiceIn 16 origin.toNat (slFrame payload))) ∧
  (∀ (l : Fin 3) (dst : BitVec 12) (origin : BitVec 12) (hops : BitVec 16) (bseq : BitVec 16) (payload : List Byte) (s : State) (t : State),
      s.linkSt l = 3 →
      leAt payload 0 1 = 0x20 →
      16 ≤ payload.length →
      dst = 0xFFF#12 →
      s.brlBroadcast l 7 origin.toNat hops.toNat bseq.toNat payload = (t, true) →
      exec (.sluiceBrlFrameRx ⟨l, dst, origin, hops, bseq⟩ payload) s = .next (t.sluiceIn 16 origin.toNat (slFrame payload))) ∧
  (∀ (l : Fin 3) (dst : BitVec 12) (origin : BitVec 12) (hops : BitVec 16) (bseq : BitVec 16) (payload : List Byte) (s : State) (t : State),
      s.linkSt l = 3 →
      leAt payload 0 1 = 0x20 →
      16 ≤ payload.length →
      dst = 0xFFF#12 →
      s.brlBroadcast l 7 origin.toNat hops.toNat bseq.toNat payload = (t, false) →
      exec (.sluiceBrlFrameRx ⟨l, dst, origin, hops, bseq⟩ payload) s = .next (t)) ∧
  (∀ (l : Fin 3) (dst : BitVec 12) (origin : BitVec 12) (hops : BitVec 16) (bseq : BitVec 16) (payload : List Byte) (s : State),
      s.linkSt l = 3 →
      leAt payload 0 1 = 0x20 →
      16 ≤ payload.length →
      dst ≠ 0xFFF#12 →
      dst.toNat ≠ s.ownAddr →
      exec (.sluiceBrlFrameRx ⟨l, dst, origin, hops, bseq⟩ payload) s = .next (s)) ∧
  (∀ (l : Fin 3) (dst : BitVec 12) (origin : BitVec 12) (hops : BitVec 16) (bseq : BitVec 16) (payload : List Byte) (s : State),
      (s.linkSt l ≠ 3 ∨ leAt payload 0 1 ≠ 0x20 ∨ payload.length < 16) →
      exec (.sluiceBrlFrameRx ⟨l, dst, origin, hops, bseq⟩ payload) s = .next (s)) ∧
  (∀ (s : State) (src : Nat) (origin : Nat) (f : CanFrame),
      s.flag F.SLUICE_CTRL_EN = true →
      (64 ≤ s.can.inq.length → s.sluiceIn src origin f = (s.incF (F.SLUICE_DROP_OTHER src) 1).raise 498) ∧
      (s.can.inq.length < 64 → s.sluiceIn src origin f = ({ s with can := { s.can with inq := s.can.inq ++ [SlFrame.mk src origin f] } }).inqSync))

/-- Every command and event of the Ethernet MACs, the PTP slave, the TIME block and saltern time completes and leaves what R250 to R262, R180 and R474 give -/
def Obligations.EthernetPtpAndTimeCommandsActAsTheTablesSay : Prop :=
  (∀ (who : Who) (n : Fin 2) (value : Word) (s : State),
      s.regOk who (A.ETH_CFG n) = true →
      exec (.ethCfgModeWrite who n value) s = .next (s.ethCfg n value)) ∧
  (∀ (s : State) (n : Nat) (w : Word) (g : RegDef) (t : State),
      regAt (A.ETH_CFG n) = some g →
      t = (s.plainWrite g (A.ETH_CFG n) w).setF (F.ETH_CFG_MODE n) (s.f (F.ETH_CFG_MODE n)) →
      (bits w.toNat 1 0 = s.f (F.ETH_CFG_MODE n) → bits w.toNat 1 0 ≠ 3 → s.ethCfg n w = t) ∧
      (s.f (F.ETH_CFG_MODE n) = 0 → bits w.toNat 1 0 = 1 ∨ bits w.toNat 1 0 = 2 → (t.ethCh n).rel = false → t.claimable 8 (resId 11 n) = true →
        s.ethCfg n w = ((t.setOwner (resId 11 n) 8).setF (F.ETH_CFG_MODE n) (bits w.toNat 1 0)).modEth n (fun x => { x with modeAt := s.now })) ∧
      (s.f (F.ETH_CFG_MODE n) = 0 → bits w.toNat 1 0 = 1 ∨ bits w.toNat 1 0 = 2 → (t.ethCh n).rel = false → t.claimable 8 (resId 11 n) = false →
        s.ethCfg n w = t.conflict (resId 11 n) 8 0) ∧
      (s.f (F.ETH_CFG_MODE n) ≠ 0 → bits w.toNat 1 0 = 0 → s.ethCfg n w = (((t.setF (F.ETH_CFG_MODE n) 0).modEth n (fun x => { x with rel := true })).ethLink n false (t.freeNat % 65536)).useFree)) ∧
  (∀ (n : Fin 2) (s : State),
      (s.ethCh n).rel = true →
      exec (.ethBallRelease n) s = .next ((s.release 8 (resId 11 n)).modEth n (fun x => { x with rel := false }))) ∧
  (∀ (n : Fin 2) (up : Bool) (speed : Fin 3) (half : Bool) (queued : BitVec 16) (s : State),
      s.f (F.ETH_CFG_MODE n) = 1 →
      half = false →
      up = true →
      exec (.ethLinkChange n up speed half queued) s = .next ((((s.setF (F.ETH_STAT_HDX n) 0).setF (F.ETH_STAT_LSPEED n) speed.val).ethLink n true queued.toNat))) ∧
  (∀ (n : Fin 2) (up : Bool) (speed : Fin 3) (half : Bool) (queued : BitVec 16) (s : State),
      s.f (F.ETH_CFG_MODE n) ≠ 0 →
      up = true →
      half = true →
      exec (.ethLinkChange n up speed half queued) s = .next ((s.setF (F.ETH_STAT_HDX n) 1).ethLink n false queued.toNat)) ∧
  (∀ (n : Fin 2) (up : Bool) (speed : Fin 3) (half : Bool) (queued : BitVec 16) (s : State),
      s.f (F.ETH_CFG_MODE n) ≠ 0 →
      up = false →
      exec (.ethLinkChange n up speed half queued) s = .next ((s.setF (F.ETH_STAT_HDX n) 0).ethLink n false queued.toNat)) ∧
  (∀ (n : Fin 2) (up : Bool) (speed : Fin 3) (half : Bool) (queued : BitVec 16) (s : State),
      s.f (F.ETH_CFG_MODE n) = 0 →
      exec (.ethLinkChange n up speed half queued) s = .next (s)) ∧
  (∀ (s : State) (n : Nat) (up : Bool) (queued : Nat),
      (s.flag (F.ETH_STAT_LINK n) = up → s.ethLink n up queued = s) ∧
      (s.flag (F.ETH_STAT_LINK n) = true → s.ethLink n false queued = (((s.setFlag (F.ETH_STAT_LINK n) false).incF (F.ETH_TXCNT_DROP n) queued).raise (384 + 2 * n))) ∧
      (s.flag (F.ETH_STAT_LINK n) = false → s.ethLink n true queued = ((s.setFlag (F.ETH_STAT_LINK n) true).when (n == 0 && (s.setFlag (F.ETH_STAT_LINK n) true).time.ptp.mac != 0) (fun u => u.ptpOnto 0)).raise (384 + 2 * n))) ∧
  (∀ (n : Fin 2) (ago : BitVec 32) (fcsOk : Bool) (len : BitVec 14) (da : BitVec 48) (vid : Option (BitVec 12)) (extra : Bool) (known : Bool) (s : State) (u : State),
      s.ethUp n = true →
      u = s.modEth n (fun x => { x with stamp := s.rxTs n ago.toNat }) →
      (fcsOk = false ∨ len.toNat < 64 ∨ u.f (F.ETH_CFG_MAXLEN n) < len.toNat) →
      exec (.ethFrameRx ⟨n, ago⟩ fcsOk len da vid extra known) s = .next ((u.incF (F.ETH_RXCNT_ERR n) 1).raise (385 + 2 * n.val))) ∧
  (∀ (n : Fin 2) (ago : BitVec 32) (fcsOk : Bool) (len : BitVec 14) (da : BitVec 48) (vid : Option (BitVec 12)) (extra : Bool) (known : Bool) (s : State) (u : State),
      s.ethUp n = true →
      u = s.modEth n (fun x => { x with stamp := s.rxTs n ago.toNat }) →
      fcsOk = true →
      64 ≤ len.toNat →
      len.toNat ≤ u.f (F.ETH_CFG_MAXLEN n) →
      exec (.ethFrameRx ⟨n, ago⟩ fcsOk len da vid extra known) s = .next (if u.ethMine n da.toNat && u.vlanOk n vid extra && known then u.ethTake n else u.incF (F.ETH_RXCNT_OTHER n) 1)) ∧
  (∀ (n : Fin 2) (ago : BitVec 32) (fcsOk : Bool) (len : BitVec 14) (da : BitVec 48) (vid : Option (BitVec 12)) (extra : Bool) (known : Bool) (s : State),
      s.ethUp n = false →
      exec (.ethFrameRx ⟨n, ago⟩ fcsOk len da vid extra known) s = .next (s)) ∧
  (∀ (n : Fin 2) (sha : BitVec 48) (spa : BitVec 32) (tpa : BitVec 32) (s : State),
      s.ethUp n = true →
      tpa.toNat = s.time.ip →
      exec (.arpRequest n sha spa tpa) s = .next (s.emit (.eth n) (s.ethHead n sha.toNat 0x0806 ++ beBytes 8 0x0001080006040002 ++
        leBytes 6 (s.ethMac n) ++ beBytes 4 s.time.ip ++ leBytes 6 sha.toNat ++ beBytes 4 spa.toNat))) ∧
  (∀ (n : Fin 2) (sha : BitVec 48) (spa : BitVec 32) (tpa : BitVec 32) (s : State),
      tpa.toNat ≠ s.time.ip →
      exec (.arpRequest n sha spa tpa) s = .next (s)) ∧
  (∀ (n : Fin 2) (sha : BitVec 48) (spa : BitVec 32) (tpa : BitVec 32) (rest : List Byte) (s : State),
      s.ethUp n = true →
      tpa.toNat = s.time.ip →
      exec (.icmpEcho n sha spa tpa rest) s = .next (s.emit (.eth n) (s.ipFrame n sha.toNat 1 spa.toNat (beBytes 2 0 ++ beBytes 2 (netSum (beBytes 4 0 ++ rest)) ++ rest)))) ∧
  (∀ (n : Fin 2) (s : State),
      exec (.ethDescriptorBusError n) s = .next ((s.setF (F.ETH_STAT_DMAERR n) 1).raise (385 + 2 * n.val))) ∧
  (∀ (who : Who) (value : Word) (s : State) (g : RegDef) (t : State),
      s.regOk who (A.ETH_MDIO) = true →
      regAt A.ETH_MDIO = some g →
      t = s.plainWrite g A.ETH_MDIO (value ||| 0x10000000#32) →
      t.flag F.ETH_MDIO_DONE = true →
      exec (.mdioGo who value) s = .next ((t.setF F.ETH_MDIO_DONE 0).emit .mdio (leBytes 4 (t.reg A.ETH_MDIO).toNat))) ∧
  (∀ (data : BitVec 16) (s : State),
      s.flag F.ETH_MDIO_DONE = false →
      (s.f F.ETH_MDIO_OP = 0 ∨ s.f F.ETH_MDIO_OP = 3) →
      exec (.mdioDone data) s = .next ((s.setF F.ETH_MDIO_DATA data.toNat).setF F.ETH_MDIO_DONE 1)) ∧
  (∀ (data : BitVec 16) (s : State),
      s.flag F.ETH_MDIO_DONE = false →
      (s.f F.ETH_MDIO_OP = 1 ∨ s.f F.ETH_MDIO_OP = 2) →
      exec (.mdioDone data) s = .next (s.setF F.ETH_MDIO_DONE 1)) ∧
  (∀ (s : State) (n : Nat) (udp : Bool) (domain : Nat),
      s.ptpTakes n udp domain = true ↔ s.ptpOn n = true ∧ udp = s.flag F.TIME_PTP_UDP ∧ domain = s.f F.TIME_PTP_DOMAIN) ∧
  (∀ (s : State) (n : Nat),
      s.ptpOn n = true ↔ s.ethUp n = true ∧ s.ptpMac = some n) ∧
  (∀ (n : Fin 2) (udp : Bool) (domain : BitVec 8) (seq : BitVec 16) (twoStep : Bool) (origin : BitVec 64) (ago : BitVec 32) (s : State),
      s.ptpTakes n udp domain.toNat = true →
      twoStep = true →
      exec (.ptpSyncRx ⟨n, udp⟩ domain seq twoStep origin ago) s = .next (s.modPtp (fun p => { p with syncSeq := seq.toNat, syncWait := true, t2 := s.rxTs n ago.toNat }))) ∧
  (∀ (n : Fin 2) (udp : Bool) (domain : BitVec 8) (seq : BitVec 16) (twoStep : Bool) (origin : BitVec 64) (ago : BitVec 32) (s : State),
      s.ptpTakes n udp domain.toNat = true →
      twoStep = false →
      exec (.ptpSyncRx ⟨n, udp⟩ domain seq twoStep origin ago) s = .next ((s.modPtp (fun p => { p with syncWait := false, t2 := s.rxTs n ago.toNat, msd := s.rxTs n ago.toNat - (origin.toNat : Int) })).timeMeasure (n.val + 1)
        ((origin.toNat : Int) + s.time.ptp.delay - s.rxTs n ago.toNat))) ∧
  (∀ (n : Fin 2) (udp : Bool) (domain : BitVec 8) (seq : BitVec 16) (twoStep : Bool) (origin : BitVec 64) (ago : BitVec 32) (s : State),
      s.ptpTakes n udp domain.toNat = false →
      exec (.ptpSyncRx ⟨n, udp⟩ domain seq twoStep origin ago) s = .next (s)) ∧
  (∀ (n : Fin 2) (udp : Bool) (mine : Bool) (domain : BitVec 8) (seq : BitVec 16) (peer : Bool) (origin : BitVec 64) (s : State),
      s.ptpTakes n udp domain.toNat = true →
      peer = false →
      s.time.ptp.syncWait = true →
      s.time.ptp.syncSeq = seq.toNat →
      exec (.ptpFollowUpRx ⟨n, udp, mine⟩ domain seq peer origin) s = .next (s.ptpSynced n origin.toNat s.time.ptp.t2)) ∧
  (∀ (n : Fin 2) (udp : Bool) (mine : Bool) (domain : BitVec 8) (seq : BitVec 16) (peer : Bool) (origin : BitVec 64) (s : State),
      s.ptpTakes n udp domain.toNat = true →
      peer = true →
      mine = true →
      s.time.ptp.pWait = true →
      s.time.ptp.reqSeq = seq.toNat →
      s.flag F.TIME_PTP_P2P = true →
      exec (.ptpFollowUpRx ⟨n, udp, mine⟩ domain seq peer origin) s = .next (s.modPtp (fun p => { p with pWait := false, delay := ((p.pRx - p.t3) - ((origin.toNat : Int) - p.pReq)) / 2 }))) ∧
  (∀ (s : State) (n : Nat) (t1 : Int) (t2 : Int),
      s.ptpSynced n t1 t2 = (s.modPtp (fun p => { p with syncWait := false, t2 := t2, msd := t2 - t1 })).timeMeasure (n + 1) (t1 + s.time.ptp.delay - t2)) ∧
  (∀ (n : Fin 2) (ago : BitVec 32) (s : State) (t : State),
      s.ptpOn n = true →
      t = s.modPtp (fun p => { p with reqSeq := (s.time.ptp.reqSeq + 1) % 65536, reqWait := true, pWait := false, t3 := s.txTs n ago.toNat }) →
      exec (.ptpDelayReqSend n ago) s = .next (if s.flag F.TIME_PTP_P2P then t.ptpSend n 2 0 5 ((s.time.ptp.reqSeq + 1) % 65536) (beBytes 20 0) else t.ptpSend n 1 0 1 ((s.time.ptp.reqSeq + 1) % 65536) (beBytes 10 0))) ∧
  (∀ (s : State) (n : Nat) (kind : Nat) (flags : Nat) (ctl : Nat) (seq : Nat) (body : List Byte) (m : List Byte),
      m = leBytes 1 kind ++ leBytes 1 0x12 ++ beBytes 2 (34 + body.length) ++ leBytes 1 (s.f F.TIME_PTP_DOMAIN) ++ leBytes 1 0 ++ beBytes 2 flags ++ beBytes 12 0 ++ ptpPort ++ beBytes 2 seq ++ leBytes 1 ctl ++ leBytes 1 0x7F ++ body →
      s.flag F.TIME_PTP_UDP = false →
      s.ptpSend n kind flags ctl seq body = s.emit (.eth n) (s.ethHead n (if kind != 1 then 0x0E0000C28001 else 0x000000191B01) 0x88F7 ++ m)) ∧
  (∀ (n : Fin 2) (udp : Bool) (mine : Bool) (domain : BitVec 8) (seq : BitVec 16) (received : BitVec 64) (s : State),
      s.ptpTakes n udp domain.toNat = true →
      mine = true →
      s.flag F.TIME_PTP_P2P = false →
      s.time.ptp.reqWait = true →
      s.time.ptp.reqSeq = seq.toNat →
      exec (.ptpDelayRespRx ⟨n, udp, mine⟩ domain seq received) s = .next (s.modPtp (fun p => { p with reqWait := false, delay := (p.msd + ((received.toNat : Int) - p.t3)) / 2 }))) ∧
  (∀ (n : Fin 2) (udp : Bool) (port : BitVec 80) (domain : BitVec 8) (seq : BitVec 16) (ago : BitVec 32) (sent : BitVec 32) (s : State),
      s.ptpTakes n udp domain.toNat = true →
      s.flag F.TIME_PTP_P2P = true →
      exec (.ptpPdelayReqRx ⟨n, udp, port⟩ domain seq ago sent) s = .next ((s.ptpSend n 3 0x0200 5 seq.toNat (ptpTime (s.rxTs n ago.toNat) ++ beBytes 10 port.toNat)).ptpSend n 0x0A 0 5 seq.toNat
        (ptpTime (s.txTs n sent.toNat) ++ beBytes 10 port.toNat))) ∧
  (∀ (n : Fin 2) (udp : Bool) (mine : Bool) (domain : BitVec 8) (seq : BitVec 16) (twoStep : Bool) (reqRx : BitVec 64) (ago : BitVec 32) (s : State),
      s.ptpTakes n udp domain.toNat = true →
      mine = true →
      s.flag F.TIME_PTP_P2P = true →
      s.time.ptp.reqWait = true →
      s.time.ptp.reqSeq = seq.toNat →
      twoStep = true →
      exec (.ptpPdelayRespRx ⟨n, udp, mine⟩ domain seq twoStep reqRx ago) s = .next (s.modPtp (fun p => { p with reqWait := false, pWait := true, pReq := reqRx.toNat, pRx := s.rxTs n ago.toNat }))) ∧
  (∀ (n : Fin 2) (udp : Bool) (mine : Bool) (domain : BitVec 8) (seq : BitVec 16) (twoStep : Bool) (reqRx : BitVec 64) (ago : BitVec 32) (s : State),
      s.ptpTakes n udp domain.toNat = true →
      mine = true →
      s.flag F.TIME_PTP_P2P = true →
      s.time.ptp.reqWait = true →
      s.time.ptp.reqSeq = seq.toNat →
      twoStep = false →
      exec (.ptpPdelayRespRx ⟨n, udp, mine⟩ domain seq twoStep reqRx ago) s = .next (s.modPtp (fun p => { p with reqWait := false, delay := ((s.rxTs n ago.toNat - p.t3) - (reqRx.toNat : Int)) / 2 }))) ∧
  (∀ (s : State) (n : Nat) (ago : Nat),
      s.rxTs n ago = (s.dtime : Int) - ago + sval 16 (s.f (F.ETH_TSCORR_RX_NS n)) ∧ s.txTs n ago = (s.dtime : Int) - ago + sval 16 (s.f (F.ETH_TSCORR_TX_NS n))) ∧
  (∀ (src : Fin 4) (offs : BitVec 64) (s : State),
      src ≠ 0 →
      exec (.timeOffsetMeasure src offs) s = .next (s.timeMeasure src offs.toInt)) ∧
  (∀ (s : State) (src : Nat) (off : Int) (t : State),
      s.srcUsed src = true →
      t = (((s.setF F.TIME_OFFS_OFFS (umod 32 (max (-2147483648) (min 2147483647 off)))).setF F.TIME_STAT_INUSE src).setHold false).timeLock off →
      (off.natAbs ≤ t.f F.TIME_LOCK_STEP_NS → s.timeMeasure src off = t.servo 512000000) ∧
      (t.f F.TIME_LOCK_STEP_NS < off.natAbs → t.stepOk = true → s.timeMeasure src off = t.timeStep off) ∧
      (t.f F.TIME_LOCK_STEP_NS < off.natAbs → t.stepOk = false → s.timeMeasure src off = (t.servo (max 1 (min 500 (t.f F.TIME_CTRL_SLEW_PPM)) * 1024000)).raise 392)) ∧
  (∀ (s : State) (src : Nat) (off : Int),
      s.srcUsed src = false →
      s.timeMeasure src off = s) ∧
  (∀ (who : Who) (low : Word) (high : Word) (s : State),
      s.regOk who (A.TIME_STEP_H) = true →
      (s.modTime (fun t => { t with stepL := low.toNat })).stepOk = true →
      exec (.timeStepWrite who low high) s = .next ((s.modTime (fun t => { t with stepL := low.toNat })).timeStep (sval 64 (low.toNat + 2 ^ 32 * high.toNat)))) ∧
  (∀ (who : Who) (low : Word) (high : Word) (s : State),
      s.regOk who (A.TIME_STEP_H) = true →
      (s.modTime (fun t => { t with stepL := low.toNat })).stepOk = false →
      exec (.timeStepWrite who low high) s = .next ((s.modTime (fun t => { t with stepL := low.toNat })).setF F.TIME_STAT_STEPREF 1)) ∧
  (∀ (s : State) (d : Int) (t : Nat),
      t = umod 64 ((s.dtime : Int) + d) →
      s.timeStep d = (forBelow 16 { s with dtime := t, pA := s.pA.stepped (s.dtime / 1000) (cdiv t 1000), pB := s.pB.stepped (s.dtime / 1000) (cdiv t 1000) } (fun n u => u.canTimeEval n)).raise 390) ∧
  (∀ (s : State) (n : Nat),
      s.ptpMac = some n →
      exec (.ptpHoldover) s = .next ((if s.f F.TIME_CTRL_SRC == 4 && s.flag (F.ETH_STAT_LINK (1 - n)) then s.ptpOnto (1 - n) else s).setHold true)) ∧
  (∀ (s : State),
      s.ptpMac = none →
      exec (.ptpHoldover) s = .next (s)) ∧
  (∀ (s : State),
      (s.f F.TIME_CTRL_SRC = 1 → s.ptpMac = some 0) ∧ (s.f F.TIME_CTRL_SRC = 2 → s.ptpMac = some 1) ∧ (s.f F.TIME_CTRL_SRC = 4 → s.ptpMac = if s.isMaster then some s.autoMac else none)) ∧
  (∀ (who : Who) (s : State),
      s.regOk who (A.TIME_NOW_L) = true →
      exec (.timeNowRead who) s = .next ((s.setReg A.TIME_NOW_H (toW (s.dtime / 2 ^ 32))).emit .bus (leBytes 4 (s.dtime % 2 ^ 32)))) ∧
  (∀ (r : Req) (s : State) (x : Option Sess) (s1 : State),
      Started s r 11 3 x s1 →
      r.payload.length = 0 →
      exec (.timeGet r) s = .next (s1.ok (rkeyOf r) (leBytes 8 s1.dtime ++ leBytes 1 (s1.f F.TIME_STAT_INUSE + 0x80 * s1.f F.TIME_STAT_HOLD)))) ∧
  (∀ (l : Fin 3) (prio : BitVec 8) (master : BitVec 12) (depth : BitVec 12) (sent : BitVec 64) (s : State) (t : State),
      s.linkSt l = 3 →
      t = (s.modLink l (fun x => { x with time := some (prio.toNat, master.toNat, depth.toNat) })).timeElect →
      t.f F.RING_TIME_STAT_DEPTH ≠ 0 →
      t.f F.RING_TIME_STAT_LINK = l.val →
      exec (.timeFrameRx l prio master depth sent) s = .next ((t.setRingHold false).timeMeasure 3 ((sent.toNat : Int) + (t.f (F.RING_LINK_DELAY_PS l) / 1000 : Nat) - (t.dtime : Int)))) ∧
  (∀ (l : Fin 3) (prio : BitVec 8) (master : BitVec 12) (depth : BitVec 12) (sent : BitVec 64) (s : State),
      s.linkSt l ≠ 3 →
      exec (.timeFrameRx l prio master depth sent) s = .next (s)) ∧
  (∀ (s : State) (pl : List Byte),
      (pl = leBytes 8 s.dtime ++ leBytes 1 (if s.isMaster then s.f F.RING_TIME_CFG_PRIO else ((s.link (s.f F.RING_TIME_STAT_LINK)).time.map (·.1)).getD 0) ++ leBytes 2 (s.f F.RING_TIME_STAT_MASTER) ++ leBytes 2 (if s.noMaster then 0xFFF else s.f F.RING_TIME_STAT_DEPTH)) →
      exec (.timeFrameSend) s = .next (s.upLinks.foldl (fun t l => t.brlSend l 5 0 t.ownAddr 0 0 pl) s)) ∧
  (∀ (l : Fin 3) (ps : BitVec 24) (s : State),
      s.linkSt l = 3 →
      exec (.linkDelayMeasure l ps) s = .next (s.setF (F.RING_LINK_DELAY_PS l) ps.toNat)) ∧
  (∀ (s : State) (t : State),
      (t = if s.isMaster then s else (forBelow 3 (s.setRingHold true) (fun l u => u.modLink l (fun x => { x with time := none }))).timeElect) →
      exec (.brlTimeHoldover) s = .next (if s.srcSel = 3 then t.setHold true else t)) ∧
  (∀ (s : State) (ns : Nat) (t : Int),
      t = ((s.dtime * 4294967296 + s.time.frac : Nat) : Int) + (ns : Int) * 4294967296 + (ns : Int) * sval 32 (s.f F.TIME_RATE_RATE) * 4194304 / 1000000000 →
      s.timeAdvance ns = { s with now := s.now + ns, dtime := umod 96 t / 2 ^ 32, time := { s.time with frac := umod 96 t % 2 ^ 32 } })

/-- Every command and event of a Brineline link, of its frames, of the address and of the routes completes and leaves what R169 to R179 give -/
def Obligations.BrinelineCommandsActAsTheTablesSay : Prop :=
  (∀ (l : Fin 3) (s : State),
      s.linkSt l = 0 →
      s.flag F.RING_CTRL_EN = true →
      s.linkIs l = true →
      exec (.brlSignalDetect l) s = .next (s.setLink l 1)) ∧
  (∀ (l : Fin 3) (s : State),
      (s.linkSt l ≠ 0 ∨ s.flag F.RING_CTRL_EN = false ∨ s.linkIs l = false) →
      exec (.brlSignalDetect l) s = .next (s)) ∧
  (∀ (l : Fin 3) (s : State),
      s.linkSt l = 1 →
      s.flag F.ENCL_STAT_TRNG = false →
      s.peerBoot = false →
      exec (.brlTrainingComplete l) s = .next ((s.setLink l 4).raise 323)) ∧
  (∀ (l : Fin 3) (s : State) (t : State),
      s.linkSt l = 1 →
      (s.flag F.ENCL_STAT_TRNG = true ∨ s.peerBoot = true) →
      t = ((s.setLink l 2).useFree).modLink l (fun x => { x with nonce := s.rand 16, peerNonce := [], rxSeq := 0, txSeq := 0, naks := 0, retry := false }) →
      t.peerBoot = false →
      exec (.brlTrainingComplete l) s = .next (t.emit (.brlCtl l) (s.rand 16))) ∧
  (∀ (l : Fin 3) (s : State),
      s.linkSt l = 1 →
      exec (.brlTrainTimeout l) s = .next ((s.setLink l 0).modLink l (fun x => { x with retry := true }))) ∧
  (∀ (l : Fin 3) (s : State),
      s.linkSt l ≠ 1 →
      exec (.brlTrainTimeout l) s = .next (s)) ∧
  (∀ (l : Fin 3) (s : State),
      s.linkSt l = 0 →
      (s.link l).retry = true →
      s.flag F.RING_CTRL_EN = true →
      exec (.brlRetryExpiry l) s = .next ((s.setLink l 1).modLink l (fun x => { x with retry := false }))) ∧
  (∀ (l : Fin 3) (nonce : List Byte) (peer : BitVec 12) (proof : List Byte) (s : State),
      s.linkSt l = 2 →
      s.peerBoot = false →
      (s.link l).boot = false →
      s.busKey (s.f F.RING_CTRL_KSLOT) 7 = none →
      exec (.brlPeerProof l nonce peer proof) s = .next ((s.setLink l 4).raise 323)) ∧
  (∀ (l : Fin 3) (nonce : List Byte) (peer : BitVec 12) (proof : List Byte) (s : State) (key : List Byte),
      s.linkSt l = 2 →
      s.peerBoot = false →
      (s.link l).boot = false →
      s.busKey (s.f F.RING_CTRL_KSLOT) 7 = some key →
      proof ≠ brlProof key nonce (s.link l).nonce peer.toNat s.ownAddr →
      exec (.brlPeerProof l nonce peer proof) s = .next (((s.emit (.brlCtl l) (brlProof key (s.link l).nonce nonce s.ownAddr peer.toNat)).setLink l 4).raise 323)) ∧
  (∀ (l : Fin 3) (nonce : List Byte) (peer : BitVec 12) (proof : List Byte) (s : State) (key : List Byte) (k : List Byte) (w : Nat),
      s.linkSt l = 2 →
      s.peerBoot = false →
      (s.link l).boot = false →
      s.busKey (s.f F.RING_CTRL_KSLOT) 7 = some key →
      proof = brlProof key nonce (s.link l).nonce peer.toNat s.ownAddr →
      k = brlKey key (s.link l).nonce nonce s.ownAddr peer.toNat →
      (w = (if l.val = 2 ∨ (l.val = 1 ∧ s.ring.split = true) then 1 else 2)) →
      exec (.brlPeerProof l nonce peer proof) s = .next ((((((s.emit (.brlCtl l) (brlProof key (s.link l).nonce nonce s.ownAddr peer.toNat)).setLink l 3).modLink l
        (fun x => { x with peerNonce := nonce, key := some k, replay := [] })).setF (F.RING_LINK_STAT_PEER l) peer.toNat).setF (F.RING_LINK_STAT_WIDTH l) w
        |>.raise 320).refFollow l true)) ∧
  (∀ (l : Fin 3) (s : State),
      s.linkSt l = 2 →
      s.peerBoot = false →
      (s.link l).boot = false →
      exec (.brlAuthTimeout l) s = .next ((s.setLink l 4).raise 323)) ∧
  (∀ (l : Fin 3) (s : State),
      s.linkSt l ≠ 2 →
      exec (.brlAuthTimeout l) s = .next (s)) ∧
  (∀ (l : Fin 3) (s : State),
      s.linkSt l = 4 →
      exec (.brlFaultExpiry l) s = .next (s.setLink l 0)) ∧
  (∀ (l : Fin 3) (s : State),
      s.linkSt l ≠ 4 →
      exec (.brlFaultExpiry l) s = .next (s)) ∧
  (∀ (l : Fin 3) (s : State),
      s.linkSt l = 3 →
      exec (.brlBlockLockLost l) s = .next (s.linkLost l 1)) ∧
  (∀ (l : Fin 3) (s : State),
      s.linkSt l ≠ 3 →
      exec (.brlBlockLockLost l) s = .next (s)) ∧
  (∀ (s : State) (l : Nat) (st : Nat) (t : State),
      t = ((((((s.incF (F.RING_LINK_ERR_DROP l) (s.link l).replay.length).setF (F.RING_LINK_STAT_WIDTH l) 0).setLink l st).modLink l (fun x => { x with replay := [], key := none, time := none, boot := false })).raise 321).refFollow l false).timeElect →
      s.linkLost l st = if s.hsLink = some l then t.hsResync 332 else t) ∧
  (∀ (who : Who) (value : Word) (s : State),
      s.regOk who (A.RING_CTRL) = true →
      exec (.ringCtrlWrite who value) s = .next (s.ringCtrl value)) ∧
  (∀ (s : State) (w : Word) (g : RegDef) (t : State),
      regAt A.RING_CTRL = some g →
      t = s.plainWrite g A.RING_CTRL w →
      t.linkSt 1 = 0 →
      t.linkSt 2 = 0 →
      s.ringCtrl w = if bit w.toNat 0 then { t with ring := { t.ring with split := t.flag F.RING_CTRL_SPLIT } } else State.linksDown { t with ring := { t.ring with split := t.flag F.RING_CTRL_SPLIT } }) ∧
  (∀ (who : Who) (value : Word) (s : State),
      s.regOk who (A.RING_ADDR) = true →
      exec (.ringAddrWrite who value) s = .next (((s.setF F.RING_ADDR_ADDR (if value.toNat % 4096 = 0xFFF then 0 else value.toNat % 4096)).setF F.RING_ADDR_CONFLICT 0).timeElect)) ∧
  (∀ (l : Fin 3) (bytes : List Byte) (s : State),
      (s.linkSt l = 3 ∨ s.linkSt l = 2) →
      (bytes.length < 16 ∨ leAt bytes (bytes.length - 4) 4 ≠ crc32c (bytes.take (bytes.length - 4)) ∨ (leAt bytes 1 1 ≠ (s.link l).rxSeq ∧ (s.link l).naks < 5)) →
      exec (.brlFrameRx l bytes) s = .next ((s.modLink l (fun x => { x with naks := x.naks + 1 })).emit (.brlCtl l) [0x15#8, BitVec.ofNat 8 (s.link l).rxSeq])) ∧
  (∀ (l : Fin 3) (bytes : List Byte) (s : State) (t : State) (k : Nat) (dst : Nat),
      (s.linkSt l = 3 ∨ s.linkSt l = 2) →
      16 ≤ bytes.length →
      leAt bytes (bytes.length - 4) 4 = crc32c (bytes.take (bytes.length - 4)) →
      (leAt bytes 1 1 = (s.link l).rxSeq ∨ 5 ≤ (s.link l).naks) →
      t = (s.modLink l (fun x => { x with rxSeq := (leAt bytes 1 1 + 1) % 256, naks := 0 })).emit (.brlCtl l) [0x06#8, BitVec.ofNat 8 (leAt bytes 1 1)] →
      k = leAt bytes 0 1 →
      dst = leAt bytes 2 2 →
      exec (.brlFrameRx l bytes) s = .next (if brlHeadOk bytes = false then t.brlDrop l
        else if (k = 3 ∨ k = 4 ∨ k = 7) ∧ dst ≠ 0 ∧ dst ≠ 0xFFF ∧ dst ≠ s.ownAddr then t.brlTransit l k dst (leAt bytes 4 2) (leAt bytes 6 2) ((bytes.drop 12).take (leAt bytes 8 2))
        else t)) ∧
  (∀ (l : Fin 3) (bytes : List Byte) (s : State),
      s.linkSt l ≠ 3 →
      s.linkSt l ≠ 2 →
      exec (.brlFrameRx l bytes) s = .next (s)) ∧
  (∀ (l : Fin 3) (seq : BitVec 8) (late : Bool) (s : State) (g : BrlTx),
      (s.link l).replay.find? (fun x => x.seq == seq.toNat) = some g →
      (late = true ∧ g.kind = 3 ∨ 4 ≤ g.tries) →
      exec (.brlNakRx l seq late) s = .next (((s.modLink l (fun x => { x with replay := x.replay.filter (fun y => y.seq != seq.toNat) })).brlDrop l).raise 322)) ∧
  (∀ (l : Fin 3) (seq : BitVec 8) (late : Bool) (s : State) (g : BrlTx),
      (s.link l).replay.find? (fun x => x.seq == seq.toNat) = some g →
      (late = false ∨ g.kind ≠ 3) →
      g.tries < 4 →
      exec (.brlNakRx l seq late) s = .next (((s.modLink l (fun x => { x with replay := x.replay.map (fun y => if y.seq = seq.toNat then { y with tries := y.tries + 1 } else y) })).incF
        (F.RING_LINK_ERR_RETX l) 1).emit (.brl l g.kind (leAt g.bytes 2 2)) g.bytes)) ∧
  (∀ (l : Fin 3) (seq : BitVec 8) (late : Bool) (s : State),
      (s.link l).replay.find? (fun x => x.seq == seq.toNat) = none →
      exec (.brlNakRx l seq late) s = .next (s)) ∧
  (∀ (l : Fin 3) (seq : BitVec 8) (s : State) (t : State),
      t = s.modLink l (fun x => { x with replay := ackDrop seq.toNat x.replay }) →
      exec (.brlAckRx l seq) s = .next (if (t.link l).boot = true ∧ t.peerBoot = false ∧ (t.link l).replay = [] then t.linkTo l 0 else t)) ∧
  (∀ (s : State),
      s.ownAddr = 0 →
      exec (.presenceSend) s = .next (s)) ∧
  (∀ (s : State) (q : Nat) (t : State),
      s.ownAddr ≠ 0 →
      q = (s.ring.presSeq + 1) % 65536 →
      t = { s with ring := { s.ring with presSeq := q } } →
      exec (.presenceSend) s = .next (t.upLinks.foldl (fun u l => u.brlSend l 6 0 u.ownAddr 0 0 (leBytes 2 q)) t)) ∧
  (∀ (l : Fin 3) (src : BitVec 12) (hops : BitVec 16) (seq : BitVec 16) (s : State),
      s.linkSt l ≠ 3 →
      exec (.presenceRx l src hops seq) s = .next (s)) ∧
  (∀ (l : Fin 3) (src : BitVec 12) (hops : BitVec 16) (seq : BitVec 16) (s : State),
      s.linkSt l = 3 →
      src.toNat = s.ownAddr →
      s.ownAddr ≠ 0 →
      exec (.presenceRx l src hops seq) s = .next ((s.setF F.RING_ADDR_CONFLICT 1).levelEdge 324 (s.levelOn 324))) ∧
  (∀ (l : Fin 3) (src : BitVec 12) (hops : BitVec 16) (seq : BitVec 16) (s : State) (t : State),
      s.linkSt l = 3 →
      (src.toNat ≠ s.ownAddr ∨ s.ownAddr = 0) →
      s.ring.routes.find? (fun r => r.addr == src.toNat) = none →
      t = ({ s with ring := { s.ring with routes := putRoute ⟨src.toNat, l, hops.toNat, seq.toNat, s.now⟩ s.ring.routes } } : State).membersSync →
      exec (.presenceRx l src hops seq) s = .next (if 4094 ≤ hops.toNat + 1 then (t.brlDrop l).raise 322 else (t.upLinks.filter (fun m => m != l.val)).foldl (fun u m => u.brlSend m 6 0 src.toNat (hops.toNat + 1) 0 (leBytes 2 seq.toNat)) t)) ∧
  (∀ (l : Fin 3) (src : BitVec 12) (hops : BitVec 16) (seq : BitVec 16) (s : State) (o : Route) (t : State),
      s.linkSt l = 3 →
      (src.toNat ≠ s.ownAddr ∨ s.ownAddr = 0) →
      s.ring.routes.find? (fun r => r.addr == src.toNat) = some o →
      newer 16 seq.toNat o.count = true →
      t = ({ s with ring := { s.ring with routes := putRoute ⟨src.toNat, l, hops.toNat, seq.toNat, s.now⟩ s.ring.routes } } : State).membersSync →
      exec (.presenceRx l src hops seq) s = .next (if 4094 ≤ hops.toNat + 1 then (t.brlDrop l).raise 322 else (t.upLinks.filter (fun m => m != l.val)).foldl (fun u m => u.brlSend m 6 0 src.toNat (hops.toNat + 1) 0 (leBytes 2 seq.toNat)) t)) ∧
  (∀ (l : Fin 3) (src : BitVec 12) (hops : BitVec 16) (seq : BitVec 16) (s : State) (o : Route) (t : State),
      s.linkSt l = 3 →
      (src.toNat ≠ s.ownAddr ∨ s.ownAddr = 0) →
      s.ring.routes.find? (fun r => r.addr == src.toNat) = some o →
      newer 16 seq.toNat o.count = false →
      o.count = seq.toNat →
      (hops.toNat < o.hops ∨ hops.toNat = o.hops ∧ l.val < o.link) →
      t = ({ s with ring := { s.ring with routes := putRoute ⟨src.toNat, l, hops.toNat, seq.toNat, s.now⟩ s.ring.routes } } : State).membersSync →
      exec (.presenceRx l src hops seq) s = .next (t)) ∧
  (∀ (l : Fin 3) (src : BitVec 12) (hops : BitVec 16) (seq : BitVec 16) (s : State) (o : Route),
      s.linkSt l = 3 →
      (src.toNat ≠ s.ownAddr ∨ s.ownAddr = 0) →
      s.ring.routes.find? (fun r => r.addr == src.toNat) = some o →
      newer 16 seq.toNat o.count = false →
      (o.count ≠ seq.toNat ∨ (o.hops < hops.toNat ∨ hops.toNat = o.hops ∧ o.link ≤ l.val)) →
      exec (.presenceRx l src hops seq) s = .next (s)) ∧
  (∀ (addr : BitVec 12) (s : State),
      s.ring.routes.any (fun r => r.addr == addr.toNat) = true →
      exec (.routeAgeOut addr) s = .next ((({ s with ring := { s.ring with routes := s.ring.routes.filter (fun r => r.addr != addr.toNat) } } : State).membersSync).raise 325)) ∧
  (∀ (addr : BitVec 12) (s : State),
      s.ring.routes.any (fun r => r.addr == addr.toNat) = false →
      exec (.routeAgeOut addr) s = .next (s)) ∧
  (∀ (s : State),
      exec (.addrConflictClear) s = .next (s.setF F.RING_ADDR_CONFLICT 0)) ∧
  (∀ (r : Req) (s : State) (x : Option Sess) (s1 : State),
      Started s r 11 1 x s1 →
      r.payload.length = 0 →
      exec (.topology r) s = .next (s1.ok (rkeyOf r) (Config.memberList (s1.ring.routes.map (fun r => (r.addr, r.link, r.hops))))))

/-- Heartbeats, roles, mirrors, takeover, handover, boundaries and online edits complete and leave what R145, R162, R163 and R182 to R194 give -/
def Obligations.HotStandbyAndEditCommandsActAsTheTablesSay : Prop :=
  (∀ (s : State),
      s.hbOn = true →
      exec (.heartbeatSend) s = .next (s.upLinks.foldl (fun u l => u.brlSend l 4 u.partner u.ownAddr 0 0 u.hbBytes) s)) ∧
  (∀ (s : State),
      s.hbOn = true ↔ 1 ≤ s.role ∧ s.role ≤ 4 ∧ s.ownAddr ≠ 0 ∧ s.ring.hs.stopped = false ∧ s.rstSevere = false) ∧
  (∀ (s : State),
      s.hbOn = false →
      exec (.heartbeatSend) s = .next (s)) ∧
  (∀ (p : PanId) (x : BndFault) (s : State),
      s.bndMay p = true →
      exec (.panBoundary ⟨p, x⟩) s = .next ((s.boundary p x).mirSend p)) ∧
  (∀ (p : PanId) (x : BndFault) (s : State),
      s.bndMay p = false →
      exec (.panBoundary ⟨p, x⟩) s = .next (s)) ∧
  (∀ (who : Who) (value : Word) (s : State),
      s.regOk who (A.RING_HS_CFG) = true →
      exec (.ringHsCfgWrite who value) s = .next (s.hsCfg value)) ∧
  (∀ (s : State) (w : Word) (g : RegDef) (t : State),
      regAt A.RING_HS_CFG = some g →
      t = s.plainWrite g A.RING_HS_CFG w →
      (bit w.toNat 0 = false → s.hsCfg w = (t.hsRole 0).endCopy) ∧
      (bit w.toNat 0 = true → t.role = 0 → t.ownAddr ≠ 0 → t.panMode .a ≤ 1 → t.panMode .b ≤ 1 → s.hsCfg w = (t.hsRole 1).modHs (fun h => { h with stopped := false })) ∧
      (bit w.toNat 0 = true → t.role ≠ 0 ∨ t.ownAddr = 0 → s.hsCfg w = t)) ∧
  (∀ (l : Fin 3) (src : BitVec 12) (role : Fin 6) (pref : Bool) (ident : List Byte) (hand : BitVec 64) (s : State),
      s.linkSt l = 3 →
      s.flag F.RING_HS_CFG_EN = true →
      s.brlTakes = true →
      s.ownAddr ≠ 0 →
      src.toNat = s.partner →
      exec (.heartbeatRx l src role pref ident hand) s = .next (s.hbRx role pref ident hand.toNat)) ∧
  (∀ (l : Fin 3) (src : BitVec 12) (role : Fin 6) (pref : Bool) (ident : List Byte) (hand : BitVec 64) (s : State),
      (s.linkSt l ≠ 3 ∨ s.flag F.RING_HS_CFG_EN = false ∨ s.brlTakes = false ∨ s.ownAddr = 0 ∨ src.toNat ≠ s.partner) →
      exec (.heartbeatRx l src role pref ident hand) s = .next (s)) ∧
  (∀ (s : State) (role : Nat) (pref : Bool) (ident : List Byte) (hand : Nat) (t : State),
      (t = (s.setF F.RING_HS_STAT_PROLE role).modHs (fun h => { h with plan := if h.plan = none ∧ s.dtime < 1000 * hand then some (hand, none) else h.plan })) →
      (t.role = 1 → t.hsLink.isNone = true → s.hbRx role pref ident hand = t) ∧
      (t.role = 1 → t.hsLink.isNone = false → ident ≠ t.hsIdent → s.hbRx role pref ident hand = (t.hsRole 5).raise 334) ∧
      (t.role = 1 → t.hsLink.isNone = false → ident = t.hsIdent → role = 2 → s.hbRx role pref ident hand = t.enterSync) ∧
      (t.role = 1 → t.hsLink.isNone = false → ident = t.hsIdent → role = 1 → s.hbRx role pref ident hand = if t.hsLower pref then t.primaryStart else t) ∧
      (t.role = 1 → t.hsLink.isNone = false → ident = t.hsIdent → role ≠ 1 → role ≠ 2 → s.hbRx role pref ident hand = t) ∧
      (t.role = 2 → role = 2 → s.hbRx role pref ident hand = if (t.raise 333).hsLower pref then t.raise 333 else (t.raise 333).enterSync) ∧
      (t.role = 2 → role = 3 → s.f F.RING_HS_STAT_PROLE ≠ 3 → s.hbRx role pref ident hand = t.hsFull.resendEdit) ∧
      (t.role ≠ 1 → t.role ≠ 2 → s.hbRx role pref ident hand = t)) ∧
  (∀ (s : State),
      1 ≤ s.role →
      s.role ≤ 4 →
      exec (.heartbeatMiss) s = .next ((s.incF F.RING_HS_CNT_HBMISS 1).raise 335)) ∧
  (∀ (s : State),
      (s.role = 0 ∨ 4 < s.role) →
      exec (.heartbeatMiss) s = .next (s)) ∧
  (∀ (s : State) (t : State) (u : State),
      s.role = 3 →
      (t = (if s.panMode .a = 3 then s.setMode .a 1 else s)) →
      (u = ((if t.panMode .b = 3 then t.setMode .b 1 else t).endCopy).hsRole 1) →
      exec (.heartbeatLoss) s = .next ((u.autoStart .a).autoStart .b)) ∧
  (∀ (s : State) (b : Nat) (k : RKey),
      s.role = 4 →
      s.ring.hs.plan = some (b, some k) →
      exec (.heartbeatLoss) s = .next (((s.failed k s.freeNat).useFree).modHs (fun h => { h with loss := true, plan := none }))) ∧
  (∀ (s : State) (b : Nat),
      s.role = 4 →
      (s.ring.hs.plan = none ∨ s.ring.hs.plan = some (b, none)) →
      exec (.heartbeatLoss) s = .next (s.modHs (fun h => { h with loss := true, plan := none }))) ∧
  (∀ (s : State),
      s.role ≠ 3 →
      s.role ≠ 4 →
      exec (.heartbeatLoss) s = .next (s)) ∧
  (∀ (s : State),
      s.role = 1 →
      exec (.candidateWaitExpiry) s = .next (s.primaryStart)) ∧
  (∀ (s : State),
      s.role ≠ 1 →
      exec (.candidateWaitExpiry) s = .next (s)) ∧
  (∀ (p : PanId) (record : List Byte) (lines : List (BitVec 32 × List Byte)) (s : State) (t : State),
      (s.role = 3 ∨ s.role = 4) →
      s.brlTakes = true →
      (t = (if record.isEmpty = true then s else s.modHsPan p.num (fun h => { h with mir := readCyc record }))) →
      exec (.mirrorFrameRx p record lines) s = .next ((t.modHsPan p.num (fun h => { h with mir := h.mir.map (fun m => (lines.take 60).foldl Mirror.line m) })).mirInput p (lines.take 60))) ∧
  (∀ (p : PanId) (record : List Byte) (lines : List (BitVec 32 × List Byte)) (s : State),
      s.role ≠ 3 →
      s.role ≠ 4 →
      exec (.mirrorFrameRx p record lines) s = .next (s)) ∧
  (∀ (p : PanId) (s : State),
      (s.role = 3 ∨ s.role = 4) →
      s.standby p = true →
      s.panMode p = 3 →
      s.brlTakes = true →
      s.ring.hs.offDue = false →
      exec (.boundaryMarkerRx p) s = .next (s.marker p)) ∧
  (∀ (p : PanId) (s : State),
      (s.role = 3 ∨ s.role = 4) →
      s.standby p = true →
      s.panMode p = 3 →
      s.brlTakes = true →
      s.ring.hs.offDue = true →
      exec (.boundaryMarkerRx p) s = .next ((((s.panOutsOff .a).panOutsOff .b).modHs (fun h => { h with offDue := false })).marker p)) ∧
  (∀ (p : PanId) (s : State),
      s.role ≠ 3 →
      s.role ≠ 4 →
      exec (.boundaryMarkerRx p) s = .next (s)) ∧
  (∀ (s : State) (p : PanId),
      ((s.hsPan p.num).mir = none → (s.hsPan p.num).handed = false → s.marker p = s.hsResync 332) ∧
      ((s.hsPan p.num).mir = none → (s.hsPan p.num).handed = true → s.marker p = s.modHsPan p.num (fun h => { h with handed := false })) ∧
      (∀ m, (s.hsPan p.num).mir = some m → (s.pan p).logic = true → s.role = 4 → s.marker p = s.hsResync 331) ∧
      (∀ m, (s.hsPan p.num).mir = some m → (s.pan p).logic = false ∨ s.role ≠ 4 → m.whole = false ∨ 4096 < m.nin + m.ndirty → s.marker p = s.hsResync 332) ∧
      (∀ m, (s.hsPan p.num).mir = some m → (s.pan p).logic = false ∨ s.role ≠ 4 → m.whole = true → m.nin + m.ndirty ≤ 4096 →
        (s.hsPan p.num).logic = true → s.mirAgrees p m = false →
        s.marker p = if s.role = 4 then s.hsResync 331 else ((s.incF F.RING_HS_CNT_DIVERGE 1).raise 331).hsFull) ∧
      (∀ m, (s.hsPan p.num).mir = some m → (s.pan p).logic = false → s.role = 4 → m.whole = true → m.nin + m.ndirty ≤ 4096 →
        (s.hsPan p.num).logic = true → s.mirAgrees p m = true →
        s.marker p = (s.setF (F.RING_MIR_LAST p.num) (m.nin + m.ndirty + m.nsync)).copyBoundary p m true)) ∧
  (∀ (s : State) (t : State) (l : Nat),
      s.role = 4 →
      s.ring.hs.loss = true →
      t = (s.becomePrimary.raise 330).incF F.RING_HS_CNT_TAKEOVERS 1 →
      (t.routeTo t.partner <|> t.hsLink) = some l →
      exec (.takeover) s = .next ((t.brlSend l 7 t.partner t.ownAddr 0 0 (leBytes 1 0x10)).raise 338)) ∧
  (∀ (s : State) (t : State),
      s.role = 4 →
      s.ring.hs.loss = true →
      t = (s.becomePrimary.raise 330).incF F.RING_HS_CNT_TAKEOVERS 1 →
      (t.routeTo t.partner <|> t.hsLink) = none →
      exec (.takeover) s = .next (t.raise 338)) ∧
  (∀ (s : State),
      (s.role ≠ 4 ∨ s.ring.hs.loss = false) →
      exec (.takeover) s = .next (s)) ∧
  (∀ (l : Fin 3) (src : BitVec 12) (s : State),
      s.linkSt l = 3 →
      s.flag F.RING_CTRL_RRST_EN = true →
      s.flag F.RING_HS_CFG_EN = true →
      s.brlTakes = true →
      src.toNat = s.partner →
      exec (.remoteResetRx l src) s = .next (s.reqReset 14 none)) ∧
  (∀ (l : Fin 3) (src : BitVec 12) (s : State),
      (s.linkSt l ≠ 3 ∨ s.flag F.RING_CTRL_RRST_EN = false ∨ s.flag F.RING_HS_CFG_EN = false ∨ s.brlTakes = false ∨ src.toNat ≠ s.partner) →
      exec (.remoteResetRx l src) s = .next (s)) ∧
  (∀ (r : Req) (s : State) (x : Option Sess) (s1 : State),
      Started s r 11 2 x s1 →
      r.payload.length = 2 →
      leVal r.payload ≠ s1.partner →
      exec (.switchoverTest r) s = .next (s1.badParam (rkeyOf r) 0)) ∧
  (∀ (r : Req) (s : State) (x : Option Sess) (s1 : State),
      Started s r 11 2 x s1 →
      r.payload.length = 2 →
      leVal r.payload = s1.partner →
      (¬(s1.role = 2 ∧ s1.f F.RING_HS_STAT_PROLE = 4) ∧ ¬(s1.role = 4 ∧ s1.f F.RING_HS_STAT_PROLE = 2) ∨ s1.ring.hs.plan ≠ none) →
      exec (.switchoverTest r) s = .next (s1.wrongState (rkeyOf r) s1.role)) ∧
  (∀ (r : Req) (s : State) (x : Option Sess) (s1 : State) (q : PanSt),
      Started s r 11 2 x s1 →
      r.payload.length = 2 →
      leVal r.payload = s1.partner →
      (s1.role = 2 ∧ s1.f F.RING_HS_STAT_PROLE = 4 ∨ s1.role = 4 ∧ s1.f F.RING_HS_STAT_PROLE = 2) →
      s1.ring.hs.plan = none →
      q = s1.pan s1.hsGridPan →
      exec (.switchoverTest r) s = .next (((s1.stopServed 3).accept (rkeyOf r)).modHs (fun h => { h with plan := some (gridAt q.period q.anchor (s1.dtime / 1000 + 2 * q.period), some (rkeyOf r)) }))) ∧
  (∀ (s : State),
      s.ring.hs.plan = none →
      exec (.handoverBoundary) s = .next (s)) ∧
  (∀ (s : State) (b : Nat) (k : Option RKey) (q : RKey),
      s.ring.hs.plan = some (b, k) →
      k = some q →
      s.mustStop 3 = true →
      exec (.handoverBoundary) s = .next ((s.modHs (fun h => { h with plan := none })).failStopped q 3)) ∧
  (∀ (s : State) (b : Nat),
      s.ring.hs.plan = some (b, none) →
      s.role = 2 →
      exec (.handoverBoundary) s = .next (((State.handOff .b (State.handOff .a s)).modHs (fun h => { h with plan := none, offDue := true })).hsRole 4)) ∧
  (∀ (s : State) (b : Nat),
      s.ring.hs.plan = some (b, none) →
      s.role = 4 →
      exec (.handoverBoundary) s = .next (s.becomePrimary)) ∧
  (∀ (s : State) (b : Nat) (q : RKey),
      s.ring.hs.plan = some (b, some q) →
      s.mustStop 3 = false →
      s.role = 4 →
      s.becomePrimary.mustStop 3 = false →
      exec (.handoverBoundary) s = .next (s.becomePrimary.ok q (leBytes 4 (1000 * (s.pan s.hsGridPan).period)))) ∧
  (∀ (s : State) (b : Nat) (q : RKey) (t : State),
      s.ring.hs.plan = some (b, some q) →
      s.mustStop 3 = false →
      s.role = 2 →
      t = ((State.handOff .b (State.handOff .a s)).modHs (fun h => { h with plan := none, offDue := true })).hsRole 4 →
      exec (.handoverBoundary) s = .next (if t.mustStop 3 = true then t.failStopped q 3 else t.ok q (leBytes 4 (1000 * (s.pan s.hsGridPan).period)))) ∧
  (∀ (r : Req) (s : State) (x : Option Sess) (s1 : State),
      Started s r 4 4 x s1 →
      r.payload.length < 7 →
      exec (.editStage r) s = .next (s1.badLen (rkeyOf r) 7)) ∧
  (∀ (r : Req) (s : State) (x : Option Sess) (s1 : State),
      Started s r 4 4 x s1 →
      7 ≤ r.payload.length →
      panOf (leAt r.payload 0 1) = none →
      exec (.editStage r) s = .next (s1.badParam (rkeyOf r) 0)) ∧
  (∀ (r : Req) (s : State) (x : Option Sess) (s1 : State) (p : PanId),
      Started s r 4 4 x s1 →
      7 ≤ r.payload.length →
      panOf (leAt r.payload 0 1) = some p →
      (leAt r.payload 1 2 = 0 ∨ 1023 < leAt r.payload 1 2) →
      exec (.editStage r) s = .next (s1.badParam (rkeyOf r) 1)) ∧
  (∀ (r : Req) (s : State) (x : Option Sess) (s1 : State) (p : PanId),
      Started s r 4 4 x s1 →
      7 ≤ r.payload.length →
      panOf (leAt r.payload 0 1) = some p →
      1 ≤ leAt r.payload 1 2 ∧ leAt r.payload 1 2 ≤ 1023 →
      s1.panMode p = 0 →
      exec (.editStage r) s = .next (s1.wrongState (rkeyOf r) 0)) ∧
  (∀ (r : Req) (s : State) (x : Option Sess) (s1 : State) (p : PanId) (blk : List Byte),
      Started s r 4 4 x s1 →
      7 ≤ r.payload.length →
      panOf (leAt r.payload 0 1) = some p →
      1 ≤ leAt r.payload 1 2 ∧ leAt r.payload 1 2 ≤ 1023 →
      s1.panMode p ≠ 0 →
      blk = blockPut (tblGet (s1.pan p).staged (leAt r.payload 1 2)) (leAt r.payload 3 4) (r.payload.drop 7) →
      (0x100000 < leAt r.payload 3 4 + (r.payload.drop 7).length ∨ (s1.pan p).stageFits (tblSet (s1.pan p).staged (leAt r.payload 1 2) blk) = false) →
      exec (.editStage r) s = .next (s1.limit (rkeyOf r) 0x0506)) ∧
  (∀ (r : Req) (s : State) (x : Option Sess) (s1 : State) (p : PanId) (blk : List Byte),
      Started s r 4 4 x s1 →
      7 ≤ r.payload.length →
      panOf (leAt r.payload 0 1) = some p →
      1 ≤ leAt r.payload 1 2 ∧ leAt r.payload 1 2 ≤ 1023 →
      s1.panMode p ≠ 0 →
      blk = blockPut (tblGet (s1.pan p).staged (leAt r.payload 1 2)) (leAt r.payload 3 4) (r.payload.drop 7) →
      leAt r.payload 3 4 + (r.payload.drop 7).length ≤ 0x100000 →
      (s1.pan p).stageFits (tblSet (s1.pan p).staged (leAt r.payload 1 2) blk) = true →
      (s1.pan p).stageBad blk = true →
      exec (.editStage r) s = .next (s1.badParam (rkeyOf r) 7)) ∧
  (∀ (r : Req) (s : State) (x : Option Sess) (s1 : State) (p : PanId) (blk : List Byte),
      Started s r 4 4 x s1 →
      7 ≤ r.payload.length →
      panOf (leAt r.payload 0 1) = some p →
      1 ≤ leAt r.payload 1 2 ∧ leAt r.payload 1 2 ≤ 1023 →
      s1.panMode p ≠ 0 →
      blk = blockPut (tblGet (s1.pan p).staged (leAt r.payload 1 2)) (leAt r.payload 3 4) (r.payload.drop 7) →
      leAt r.payload 3 4 + (r.payload.drop 7).length ≤ 0x100000 →
      (s1.pan p).stageFits (tblSet (s1.pan p).staged (leAt r.payload 1 2) blk) = true →
      (s1.pan p).stageBad blk = false →
      (3 ≤ s1.role ∨ (s1.stopServed 2).ring.hs.edit ≠ none) →
      exec (.editStage r) s = .next ((s1.stopServed 2).wrongState (rkeyOf r) (s1.panMode p))) ∧
  (∀ (r : Req) (s : State) (x : Option Sess) (s1 : State) (p : PanId) (blk : List Byte),
      Started s r 4 4 x s1 →
      7 ≤ r.payload.length →
      panOf (leAt r.payload 0 1) = some p →
      1 ≤ leAt r.payload 1 2 ∧ leAt r.payload 1 2 ≤ 1023 →
      s1.panMode p ≠ 0 →
      blk = blockPut (tblGet (s1.pan p).staged (leAt r.payload 1 2)) (leAt r.payload 3 4) (r.payload.drop 7) →
      leAt r.payload 3 4 + (r.payload.drop 7).length ≤ 0x100000 →
      (s1.pan p).stageFits (tblSet (s1.pan p).staged (leAt r.payload 1 2) blk) = true →
      (s1.pan p).stageBad blk = false →
      s1.role < 3 →
      (s1.stopServed 2).ring.hs.edit = none →
      s1.editPair = false →
      exec (.editStage r) s = .next (((s1.stopServed 2).stagePut p (leAt r.payload 1 2) (leAt r.payload 3 4) (r.payload.drop 7)).ok (rkeyOf r) [])) ∧
  (∀ (r : Req) (s : State) (x : Option Sess) (s1 : State) (p : PanId) (blk : List Byte),
      Started s r 4 4 x s1 →
      7 ≤ r.payload.length →
      panOf (leAt r.payload 0 1) = some p →
      1 ≤ leAt r.payload 1 2 ∧ leAt r.payload 1 2 ≤ 1023 →
      s1.panMode p ≠ 0 →
      blk = blockPut (tblGet (s1.pan p).staged (leAt r.payload 1 2)) (leAt r.payload 3 4) (r.payload.drop 7) →
      leAt r.payload 3 4 + (r.payload.drop 7).length ≤ 0x100000 →
      (s1.pan p).stageFits (tblSet (s1.pan p).staged (leAt r.payload 1 2) blk) = true →
      (s1.pan p).stageBad blk = false →
      s1.role < 3 →
      (s1.stopServed 2).ring.hs.edit = none →
      s1.editPair = true →
      (s1.stopServed 2).hsLink = none →
      exec (.editStage r) s = .next ((s1.stopServed 2).finish (rkeyOf r) stNoRoute (leBytes 2 s1.partner))) ∧
  (∀ (r : Req) (s : State) (x : Option Sess) (s1 : State) (p : PanId) (blk : List Byte) (l : Nat),
      Started s r 4 4 x s1 →
      7 ≤ r.payload.length →
      panOf (leAt r.payload 0 1) = some p →
      1 ≤ leAt r.payload 1 2 ∧ leAt r.payload 1 2 ≤ 1023 →
      s1.panMode p ≠ 0 →
      blk = blockPut (tblGet (s1.pan p).staged (leAt r.payload 1 2)) (leAt r.payload 3 4) (r.payload.drop 7) →
      leAt r.payload 3 4 + (r.payload.drop 7).length ≤ 0x100000 →
      (s1.pan p).stageFits (tblSet (s1.pan p).staged (leAt r.payload 1 2) blk) = true →
      (s1.pan p).stageBad blk = false →
      s1.role < 3 →
      (s1.stopServed 2).ring.hs.edit = none →
      s1.editPair = true →
      (s1.stopServed 2).hsLink = some l →
      exec (.editStage r) s = .next (((s1.stopServed 2).modHs (fun h => { h with edit := some ⟨(rkeyOf r), (s1.stopServed 2).cmd.ownSeq, p.num, false, leAt r.payload 1 2, leAt r.payload 3 4, r.payload.drop 7, []⟩ })).partnerRequest 4 r.payload)) ∧
  (∀ (r : Req) (s : State) (x : Option Sess) (s1 : State),
      Started s r 11 4 x s1 →
      r.payload.length < 7 →
      exec (.peerEditStage r) s = .next (s1.badLen (rkeyOf r) 7)) ∧
  (∀ (r : Req) (s : State) (x : Option Sess) (s1 : State),
      Started s r 11 4 x s1 →
      7 ≤ r.payload.length →
      panOf (leAt r.payload 0 1) = none →
      exec (.peerEditStage r) s = .next (s1.badParam (rkeyOf r) 0)) ∧
  (∀ (r : Req) (s : State) (x : Option Sess) (s1 : State) (p : PanId),
      Started s r 11 4 x s1 →
      7 ≤ r.payload.length →
      panOf (leAt r.payload 0 1) = some p →
      (leAt r.payload 1 2 = 0 ∨ 1023 < leAt r.payload 1 2) →
      exec (.peerEditStage r) s = .next (s1.badParam (rkeyOf r) 1)) ∧
  (∀ (r : Req) (s : State) (x : Option Sess) (s1 : State) (p : PanId),
      Started s r 11 4 x s1 →
      7 ≤ r.payload.length →
      panOf (leAt r.payload 0 1) = some p →
      1 ≤ leAt r.payload 1 2 ∧ leAt r.payload 1 2 ≤ 1023 →
      s1.panMode p = 0 →
      exec (.peerEditStage r) s = .next (s1.wrongState (rkeyOf r) 0)) ∧
  (∀ (r : Req) (s : State) (x : Option Sess) (s1 : State) (p : PanId) (blk : List Byte),
      Started s r 11 4 x s1 →
      7 ≤ r.payload.length →
      panOf (leAt r.payload 0 1) = some p →
      1 ≤ leAt r.payload 1 2 ∧ leAt r.payload 1 2 ≤ 1023 →
      s1.panMode p ≠ 0 →
      blk = blockPut (tblGet (s1.pan p).staged (leAt r.payload 1 2)) (leAt r.payload 3 4) (r.payload.drop 7) →
      (0x100000 < leAt r.payload 3 4 + (r.payload.drop 7).length ∨ (s1.pan p).stageFits (tblSet (s1.pan p).staged (leAt r.payload 1 2) blk) = false) →
      exec (.peerEditStage r) s = .next (s1.limit (rkeyOf r) 0x0506)) ∧
  (∀ (r : Req) (s : State) (x : Option Sess) (s1 : State) (p : PanId) (blk : List Byte),
      Started s r 11 4 x s1 →
      7 ≤ r.payload.length →
      panOf (leAt r.payload 0 1) = some p →
      1 ≤ leAt r.payload 1 2 ∧ leAt r.payload 1 2 ≤ 1023 →
      s1.panMode p ≠ 0 →
      blk = blockPut (tblGet (s1.pan p).staged (leAt r.payload 1 2)) (leAt r.payload 3 4) (r.payload.drop 7) →
      leAt r.payload 3 4 + (r.payload.drop 7).length ≤ 0x100000 →
      (s1.pan p).stageFits (tblSet (s1.pan p).staged (leAt r.payload 1 2) blk) = true →
      (s1.pan p).stageBad blk = true →
      exec (.peerEditStage r) s = .next (s1.badParam (rkeyOf r) 7)) ∧
  (∀ (r : Req) (s : State) (x : Option Sess) (s1 : State) (p : PanId) (blk : List Byte),
      Started s r 11 4 x s1 →
      7 ≤ r.payload.length →
      panOf (leAt r.payload 0 1) = some p →
      1 ≤ leAt r.payload 1 2 ∧ leAt r.payload 1 2 ≤ 1023 →
      s1.panMode p ≠ 0 →
      blk = blockPut (tblGet (s1.pan p).staged (leAt r.payload 1 2)) (leAt r.payload 3 4) (r.payload.drop 7) →
      leAt r.payload 3 4 + (r.payload.drop 7).length ≤ 0x100000 →
      (s1.pan p).stageFits (tblSet (s1.pan p).staged (leAt r.payload 1 2) blk) = true →
      (s1.pan p).stageBad blk = false →
      (s1.role = 3 ∨ s1.role = 4) →
      exec (.peerEditStage r) s = .next (((s1).stagePut p (leAt r.payload 1 2) (leAt r.payload 3 4) (r.payload.drop 7)).ok (rkeyOf r) [])) ∧
  (∀ (r : Req) (s : State) (x : Option Sess) (s1 : State) (p : PanId) (blk : List Byte),
      Started s r 11 4 x s1 →
      7 ≤ r.payload.length →
      panOf (leAt r.payload 0 1) = some p →
      1 ≤ leAt r.payload 1 2 ∧ leAt r.payload 1 2 ≤ 1023 →
      s1.panMode p ≠ 0 →
      blk = blockPut (tblGet (s1.pan p).staged (leAt r.payload 1 2)) (leAt r.payload 3 4) (r.payload.drop 7) →
      leAt r.payload 3 4 + (r.payload.drop 7).length ≤ 0x100000 →
      (s1.pan p).stageFits (tblSet (s1.pan p).staged (leAt r.payload 1 2) blk) = true →
      (s1.pan p).stageBad blk = false →
      s1.role ≠ 3 →
      s1.role ≠ 4 →
      exec (.peerEditStage r) s = .next (s1.wrongState (rkeyOf r) s1.role)) ∧
  (∀ (r : Req) (s : State) (x : Option Sess) (s1 : State),
      Started s r 4 5 x s1 →
      r.payload.length < 5 →
      exec (.editCommit r) s = .next (s1.badLen (rkeyOf r) 5)) ∧
  (∀ (r : Req) (s : State) (x : Option Sess) (s1 : State),
      Started s r 4 5 x s1 →
      5 ≤ r.payload.length →
      (r.payload.length % 2 ≠ 1 ∨ 2051 < r.payload.length) →
      exec (.editCommit r) s = .next (s1.badLen (rkeyOf r) (min 2051 (r.payload.length - 1)))) ∧
  (∀ (r : Req) (s : State) (x : Option Sess) (s1 : State),
      Started s r 4 5 x s1 →
      5 ≤ r.payload.length ∧ r.payload.length % 2 = 1 ∧ r.payload.length ≤ 2051 →
      panOf (leAt r.payload 0 1) = none →
      exec (.editCommit r) s = .next (s1.badParam (rkeyOf r) 0)) ∧
  (∀ (r : Req) (s : State) (x : Option Sess) (s1 : State) (p : PanId),
      Started s r 4 5 x s1 →
      5 ≤ r.payload.length ∧ r.payload.length % 2 = 1 ∧ r.payload.length ≤ 2051 →
      panOf (leAt r.payload 0 1) = some p →
      (leAt r.payload 1 2 < 1 ∨ 1024 < leAt r.payload 1 2) →
      exec (.editCommit r) s = .next (s1.badParam (rkeyOf r) 1)) ∧
  (∀ (r : Req) (s : State) (x : Option Sess) (s1 : State) (p : PanId),
      Started s r 4 5 x s1 →
      5 ≤ r.payload.length ∧ r.payload.length % 2 = 1 ∧ r.payload.length ≤ 2051 →
      panOf (leAt r.payload 0 1) = some p →
      1 ≤ leAt r.payload 1 2 ∧ leAt r.payload 1 2 ≤ 1024 →
      r.payload.length ≠ 3 + 2 * leAt r.payload 1 2 →
      exec (.editCommit r) s = .next (s1.badLen (rkeyOf r) (3 + 2 * leAt r.payload 1 2))) ∧
  (∀ (r : Req) (s : State) (x : Option Sess) (s1 : State) (p : PanId) (bs : List Nat) (i : Nat),
      Started s r 4 5 x s1 →
      panOf (leAt r.payload 0 1) = some p →
      1 ≤ leAt r.payload 1 2 ∧ leAt r.payload 1 2 ≤ 1024 →
      r.payload.length = 3 + 2 * leAt r.payload 1 2 →
      bs = (List.range (leAt r.payload 1 2)).map (fun i => leAt r.payload (3 + 2 * i) 2) →
      firstBelow (leAt r.payload 1 2) (fun i => bs.getD i 0 == 0 || decide (1023 < bs.getD i 0)) = some i →
      exec (.editCommit r) s = .next (s1.badParam (rkeyOf r) (3 + 2 * i))) ∧
  (∀ (r : Req) (s : State) (x : Option Sess) (s1 : State) (p : PanId) (bs : List Nat),
      Started s r 4 5 x s1 →
      panOf (leAt r.payload 0 1) = some p →
      1 ≤ leAt r.payload 1 2 ∧ leAt r.payload 1 2 ≤ 1024 →
      r.payload.length = 3 + 2 * leAt r.payload 1 2 →
      bs = (List.range (leAt r.payload 1 2)).map (fun i => leAt r.payload (3 + 2 * i) 2) →
      firstBelow (leAt r.payload 1 2) (fun i => bs.getD i 0 == 0 || decide (1023 < bs.getD i 0)) = none →
      (s1.panMode p = 0 ∨ s1.panMode p = 2 ∨ (s1.pan p).unstored = true ∨ (s1.pan p).edit ≠ none ∨ s1.ring.hs.edit ≠ none ∨ 3 ≤ s1.role ∨ (s1.role = 2 ∧ s1.f F.RING_HS_STAT_PROLE = 3)) →
      exec (.editCommit r) s = .next (s1.wrongState (rkeyOf r) (s1.panMode p))) ∧
  (∀ (r : Req) (s : State) (x : Option Sess) (s1 : State) (p : PanId) (bs : List Nat),
      Started s r 4 5 x s1 →
      panOf (leAt r.payload 0 1) = some p →
      1 ≤ leAt r.payload 1 2 ∧ leAt r.payload 1 2 ≤ 1024 →
      r.payload.length = 3 + 2 * leAt r.payload 1 2 →
      bs = (List.range (leAt r.payload 1 2)).map (fun i => leAt r.payload (3 + 2 * i) 2) →
      firstBelow (leAt r.payload 1 2) (fun i => bs.getD i 0 == 0 || decide (1023 < bs.getD i 0)) = none →
      (¬(s1.panMode p = 0 ∨ s1.panMode p = 2 ∨ (s1.pan p).unstored = true ∨ (s1.pan p).edit ≠ none ∨ s1.ring.hs.edit ≠ none ∨ 3 ≤ s1.role ∨ (s1.role = 2 ∧ s1.f F.RING_HS_STAT_PROLE = 3))) →
      (s1.pan p).stagedAll bs = false →
      exec (.editCommit r) s = .next (s1.failed (rkeyOf r) 0x0513)) ∧
  (∀ (r : Req) (s : State) (x : Option Sess) (s1 : State) (p : PanId) (bs : List Nat) (t : State),
      Started s r 4 5 x s1 →
      panOf (leAt r.payload 0 1) = some p →
      1 ≤ leAt r.payload 1 2 ∧ leAt r.payload 1 2 ≤ 1024 →
      r.payload.length = 3 + 2 * leAt r.payload 1 2 →
      bs = (List.range (leAt r.payload 1 2)).map (fun i => leAt r.payload (3 + 2 * i) 2) →
      firstBelow (leAt r.payload 1 2) (fun i => bs.getD i 0 == 0 || decide (1023 < bs.getD i 0)) = none →
      (¬(s1.panMode p = 0 ∨ s1.panMode p = 2 ∨ (s1.pan p).unstored = true ∨ (s1.pan p).edit ≠ none ∨ s1.ring.hs.edit ≠ none ∨ 3 ≤ s1.role ∨ (s1.role = 2 ∧ s1.f F.RING_HS_STAT_PROLE = 3))) →
      (s1.pan p).stagedAll bs = true →
      t = (s1.stopServed 2).accept (rkeyOf r) →
      t.editPair = false →
      exec (.editCommit r) s = .next (t.editFix p (rkeyOf r) bs none)) ∧
  (∀ (r : Req) (s : State) (x : Option Sess) (s1 : State) (p : PanId) (bs : List Nat) (t : State),
      Started s r 4 5 x s1 →
      panOf (leAt r.payload 0 1) = some p →
      1 ≤ leAt r.payload 1 2 ∧ leAt r.payload 1 2 ≤ 1024 →
      r.payload.length = 3 + 2 * leAt r.payload 1 2 →
      bs = (List.range (leAt r.payload 1 2)).map (fun i => leAt r.payload (3 + 2 * i) 2) →
      firstBelow (leAt r.payload 1 2) (fun i => bs.getD i 0 == 0 || decide (1023 < bs.getD i 0)) = none →
      (¬(s1.panMode p = 0 ∨ s1.panMode p = 2 ∨ (s1.pan p).unstored = true ∨ (s1.pan p).edit ≠ none ∨ s1.ring.hs.edit ≠ none ∨ 3 ≤ s1.role ∨ (s1.role = 2 ∧ s1.f F.RING_HS_STAT_PROLE = 3))) →
      (s1.pan p).stagedAll bs = true →
      t = (s1.stopServed 2).accept (rkeyOf r) →
      t.editPair = true →
      exec (.editCommit r) s = .next ((t.modHs (fun h => { h with edit := some ⟨(rkeyOf r), t.cmd.ownSeq, p.num, true, 0, 0, [], bs⟩ })).partnerRequest 5 r.payload)) ∧
  (∀ (p : PanId) (s : State) (e : HsEdit),
      s.ring.hs.edit = some e →
      e.check = true →
      e.pan = p.num →
      exec (.peerEditCheckTimeout p) s = .next (((s.modHs (fun h => { h with edit := none })).failed e.key 0x0610).partnerRequest 6 (leBytes 1 e.pan))) ∧
  (∀ (p : PanId) (s : State),
      s.ring.hs.edit = none →
      exec (.peerEditCheckTimeout p) s = .next (s)) ∧
  (∀ (r : Req) (s : State) (x : Option Sess) (s1 : State),
      Started s r 11 5 x s1 →
      r.payload.length < 3 →
      exec (.peerEditCheck r) s = .next (s1.badLen (rkeyOf r) 3)) ∧
  (∀ (r : Req) (s : State) (x : Option Sess) (s1 : State),
      Started s r 11 5 x s1 →
      3 ≤ r.payload.length →
      (r.payload.length % 2 ≠ 1 ∨ 2051 < r.payload.length) →
      exec (.peerEditCheck r) s = .next (s1.badLen (rkeyOf r) (min 2051 (r.payload.length - 1)))) ∧
  (∀ (r : Req) (s : State) (x : Option Sess) (s1 : State),
      Started s r 11 5 x s1 →
      3 ≤ r.payload.length ∧ r.payload.length % 2 = 1 ∧ r.payload.length ≤ 2051 →
      r.payload.length ≠ 3 + 2 * leAt r.payload 1 2 →
      exec (.peerEditCheck r) s = .next (s1.badLen (rkeyOf r) (3 + 2 * leAt r.payload 1 2))) ∧
  (∀ (r : Req) (s : State) (x : Option Sess) (s1 : State),
      Started s r 11 5 x s1 →
      r.payload.length = 3 + 2 * leAt r.payload 1 2 ∧ r.payload.length ≤ 2051 →
      panOf (leAt r.payload 0 1) = none →
      exec (.peerEditCheck r) s = .next (s1.badParam (rkeyOf r) 0)) ∧
  (∀ (r : Req) (s : State) (x : Option Sess) (s1 : State) (p : PanId) (bs : List Nat),
      Started s r 11 5 x s1 →
      r.payload.length = 3 + 2 * leAt r.payload 1 2 ∧ r.payload.length ≤ 2051 →
      panOf (leAt r.payload 0 1) = some p →
      bs = (List.range (leAt r.payload 1 2)).map (fun i => leAt r.payload (3 + 2 * i) 2) →
      (s1.role = 3 ∨ s1.role = 4) →
      (s1.pan p).stagedAll bs = true →
      exec (.peerEditCheck r) s = .next ((s1.modHsPan p.num (fun h => { h with check := bs })).ok (rkeyOf r) [])) ∧
  (∀ (r : Req) (s : State) (x : Option Sess) (s1 : State) (p : PanId) (bs : List Nat),
      Started s r 11 5 x s1 →
      r.payload.length = 3 + 2 * leAt r.payload 1 2 ∧ r.payload.length ≤ 2051 →
      panOf (leAt r.payload 0 1) = some p →
      bs = (List.range (leAt r.payload 1 2)).map (fun i => leAt r.payload (3 + 2 * i) 2) →
      (s1.role ≠ 3 ∧ s1.role ≠ 4 ∨ (s1.pan p).stagedAll bs = false) →
      exec (.peerEditCheck r) s = .next (s1.failed (rkeyOf r) 0x0513)) ∧
  (∀ (r : Req) (s : State) (x : Option Sess) (s1 : State),
      Started s r 11 6 x s1 →
      r.payload.length = 1 →
      panOf (leVal r.payload) = none →
      exec (.peerEditCancel r) s = .next (s1.badParam (rkeyOf r) 0)) ∧
  (∀ (r : Req) (s : State) (x : Option Sess) (s1 : State) (p : PanId),
      Started s r 11 6 x s1 →
      r.payload.length = 1 →
      panOf (leVal r.payload) = some p →
      exec (.peerEditCancel r) s = .next (((s1.modPan p (fun x => { x with staged := [] })).modHsPan p.num (fun h => { h with check := [] })).ok (rkeyOf r) []))

/-- Rails, power domains, parking, wakes, RTC alarms, the power-fail warning and the thermal limit complete and leave what R429 to R441 give -/
def Obligations.PowerParkingWakeAndThermalCommandsActAsTheTablesSay : Prop :=
  (∀ (s : State) (s0 : State),
      s0 = { s with rake := default, pwr := State.reset.pwr, rstReq := [], dbg := default } →
      exec (.powerOn) s = .next (((((s0.resetL1 .powerOn).railStart 1).setF F.SYSCTL_RSTCAUSE_CAUSE 1).setF F.SYSCTL_RSTLAST_LEVEL 0).modPwr (fun p => { p with rtcAt := s.now }))) ∧
  (∀ (s : State),
      s.pwr.retry = false →
      s.pwr.dead = false →
      exec (.railStepDone) s = .next (s.railNext)) ∧
  (∀ (s : State),
      (s.pwr.retry = true ∨ s.pwr.dead = true) →
      exec (.railStepDone) s = .next (s)) ∧
  (∀ (s : State),
      s.pwr.rail = 1 →
      s.railNext = (s.rails 1 0 0).modPwr (fun p => { p with rail := 2, pd := p.pd ||| 3 })) ∧
  (∀ (s : State),
      s.pwr.rail = 2 →
      s.railNext = (s.rails 3 0 1).modPwr (fun p => { p with rail := 3, pd := p.pd ||| 0 })) ∧
  (∀ (s : State),
      s.pwr.rail = 3 →
      s.railNext = (s.rails 7 0 7).modPwr (fun p => { p with rail := 4, pd := p.pd ||| 0 })) ∧
  (∀ (s : State),
      s.pwr.rail = 4 →
      s.railNext = (s.rails 7 0 15).modPwr (fun p => { p with rail := 5, pd := p.pd ||| 0 })) ∧
  (∀ (s : State),
      s.pwr.rail = 5 →
      s.railNext = (s.rails 7 1 15).modPwr (fun p => { p with rail := 6, pd := p.pd ||| 0 })) ∧
  (∀ (s : State),
      s.pwr.rail = 6 →
      s.railNext = (s).modPwr (fun p => { p with rail := 7, pd := p.pd ||| pd6 })) ∧
  (∀ (s : State),
      s.pwr.rail = 7 →
      s.railNext = (s.modPwr (fun p => { p with rail := 0, pd := p.pd ||| pdAll })).modPwr (fun p => { p with fails := 0 })) ∧
  (∀ (s : State) (n : Nat),
      s.pwr.rail ≠ 0 →
      s.pwr.retry = false →
      s.pwr.dead = false →
      n = s.pwr.fails + 1 →
      exec (.railStepTimeout) s = .next (((((s.rails 0 0 0).setF F.SYSCTL_PWR_STAT_SEQFAIL 1).setF F.SYSCTL_PWR_STAT_STEP s.pwr.rail).modPwr
        (fun p => { p with fails := n, retry := decide (n < 3), dead := decide (3 ≤ n), pd := p.pd &&& 3 })).when (decide (6 ≤ s.pwr.rail)) (fun s => s.raise 7))) ∧
  (∀ (s : State),
      s.pwr.rail = 0 →
      exec (.railStepTimeout) s = .next (s)) ∧
  (∀ (s : State),
      s.pwr.retry = true →
      exec (.railRetryExpiry) s = .next (s.railStart 2)) ∧
  (∀ (s : State),
      s.pwr.retry = false →
      exec (.railRetryExpiry) s = .next (s)) ∧
  (∀ (vcore : Bool) (s : State),
      s.railsUp = true →
      s.pwr.park = .run →
      vcore = true →
      exec (.pwrGoodLost vcore) s = .next (((s.setFbit F.SYSCTL_PWR_STAT_RAILS 3 false).setF F.SYSCTL_PWR_STAT_PGLOST 1).reqReset 2 none)) ∧
  (∀ (vcore : Bool) (s : State),
      s.railsUp = true →
      s.pwr.park = .run →
      vcore = false →
      exec (.pwrGoodLost vcore) s = .next (((s.setF F.SYSCTL_PWR_STAT_PG 0).setF F.SYSCTL_PWR_STAT_PGLOST 1).reqReset 2 none)) ∧
  (∀ (vcore : Bool) (s : State),
      (s.railsUp = false ∨ s.pwr.park ≠ .run) →
      exec (.pwrGoodLost vcore) s = .next (s)) ∧
  (∀ (who : Who) (value : Word) (s : State),
      s.regOk who (A.SYSCTL_PD_OFF_L) = true →
      exec (.pdOffWrite who value) s = .next (forBelow 32 s (fun d s =>
        if bit value.toNat d then
          (if s.fbit F.SYSCTL_PD_OFF_L_OFF d then s else if s.pdMayOff d then s.pdOff d else s.setF F.SYSCTL_PD_STAT_H_PDERR 1)
        else if s.fbit F.SYSCTL_PD_OFF_L_OFF d then s.pdOn d else s))) ∧
  (∀ (s : State) (d : Nat) (t : State),
      t = (s.setFbit F.SYSCTL_PD_OFF_L_OFF d true).modPwr (fun p => { p with pd := putBit p.pd d false, pdWait := putBit p.pdWait d false }) →
      (pdIsland d = none → s.pdOff d = t) ∧ (∀ i, pdIsland d = some i → s.pdOff d = { (t.islandReset i) with islHeld := putBit t.islHeld i true })) ∧
  (∀ (d : Fin 34) (good : Bool) (s : State),
      bit s.pwr.pdWait d = true →
      good = false →
      exec (.pdSwitchOnDone d good) s = .next (s.raise 7)) ∧
  (∀ (d : Fin 34) (good : Bool) (s : State),
      bit s.pwr.pdWait d = false →
      exec (.pdSwitchOnDone d good) s = .next (s)) ∧
  (∀ (d : Fin 34) (good : Bool) (s : State) (t : State),
      bit s.pwr.pdWait d = true →
      good = true →
      t = s.modPwr (fun p => { p with pd := putBit p.pd d true, pdWait := putBit p.pdWait d false }) →
      s.pwr.bring ≠ none →
      exec (.pdSwitchOnDone d good) s = .next (t)) ∧
  (∀ (d : Fin 34) (good : Bool) (s : State) (t : State) (u : State),
      bit s.pwr.pdWait d = true →
      good = true →
      t = s.modPwr (fun p => { p with pd := putBit p.pd d true, pdWait := putBit p.pdWait d false }) →
      s.pwr.bring = none →
      pdIsland d = some 0 →
      u = { t with islHeld := putBit t.islHeld 0 false } →
      exec (.pdSwitchOnDone d good) s = .next (if (u.pan .a).progOk = true then u.panRelease .a else u)) ∧
  (∀ (d : Fin 34) (good : Bool) (s : State) (t : State) (u : State),
      bit s.pwr.pdWait d = true →
      good = true →
      t = s.modPwr (fun p => { p with pd := putBit p.pd d true, pdWait := putBit p.pdWait d false }) →
      s.pwr.bring = none →
      pdIsland d = some 1 →
      u = { t with islHeld := putBit t.islHeld 1 false } →
      exec (.pdSwitchOnDone d good) s = .next (if (u.pan .b).progOk = true then u.panRelease .b else u)) ∧
  (∀ (d : Fin 34) (good : Bool) (s : State) (t : State) (i : Nat),
      bit s.pwr.pdWait d = true →
      good = true →
      t = s.modPwr (fun p => { p with pd := putBit p.pd d true, pdWait := putBit p.pdWait d false }) →
      s.pwr.bring = none →
      pdIsland d = some i →
      2 ≤ i →
      exec (.pdSwitchOnDone d good) s = .next ({ t with islHeld := putBit t.islHeld i false })) ∧
  (∀ (d : Fin 34) (good : Bool) (s : State) (t : State),
      bit s.pwr.pdWait d = true →
      good = true →
      t = s.modPwr (fun p => { p with pd := putBit p.pd d true, pdWait := putBit p.pdWait d false }) →
      s.pwr.bring = none →
      pdIsland d = none →
      exec (.pdSwitchOnDone d good) s = .next (t)) ∧
  (∀ (who : Who) (s : State),
      s.regOk who (A.SYSCTL_PARK_CMD) = true →
      exec (.parkGo who) s = .next (s.parkGo)) ∧
  (∀ (s : State) (k : Nat),
      s.pwr.park = .run →
      (List.range 8).find? (fun k => decide (0 < k) && !s.parkOk k) = some k →
      s.parkGo = (s.setF F.SYSCTL_PARK_STAT_ERR k).raise 2) ∧
  (∀ (s : State) (t : State),
      s.pwr.park = .run →
      (∀ k, 1 ≤ k → k < 8 → s.parkOk k = true) →
      t = ((s.modPwr (fun p => { p with woken := false, save := s.parkSaved, dio := (List.range 64).map (fun n => (n, (s.flag (F.DIO_N_STAT_IN n), 0))) })).setF F.SYSCTL_WAKEREC_CANMASK 0) →
      s.parkGo = (forBelow 16 t (fun n s => s.parkTrx n)).parkTo .arm 1) ∧
  (∀ (s : State),
      (s.pwr.park = .run ∨ s.pwr.park = .parked) →
      exec (.parkStepDone) s = .next (s)) ∧
  (∀ (s : State),
      (s.pwr.park = .arm ∨ s.pwr.park = .flush ∨ s.pwr.park = .loads) →
      s.pwr.woken = true →
      exec (.parkStepDone) s = .next (s.parkAbort)) ∧
  (∀ (s : State),
      s.pwr.park = .arm →
      s.pwr.woken = false →
      exec (.parkStepDone) s = .next (s.parkTo .flush 2)) ∧
  (∀ (s : State),
      s.pwr.park = .flush →
      s.pwr.woken = false →
      s.crust.queue = [] →
      s.crust.erasing = [] →
      exec (.parkStepDone) s = .next (s.parkLoads)) ∧
  (∀ (s : State),
      s.pwr.park = .loads →
      s.pwr.woken = false →
      exec (.parkStepDone) s = .next (s.parkLogic)) ∧
  (∀ (s : State),
      s.pwr.park = .logic →
      exec (.parkStepDone) s = .next (((s.setF F.SYSCTL_PWR_STAT_EN 0).rails 0 0 0).parkTo .rails 5)) ∧
  (∀ (s : State),
      s.pwr.park = .rails →
      s.pwr.woken = false →
      exec (.parkStepDone) s = .next (s.modPwr (fun p => { p with park := .parked }))) ∧
  (∀ (s : State),
      s.pwr.park = .rails →
      s.pwr.woken = true →
      exec (.parkStepDone) s = .next ((s.modPwr (fun p => { p with park := .parked })).wakeStart)) ∧
  (∀ (s : State),
      s.pwr.park ≠ .flush →
      exec (.parkFlushTimeout) s = .next (s)) ∧
  (∀ (s : State),
      s.pwr.park = .flush →
      s.pwr.woken = true →
      exec (.parkFlushTimeout) s = .next (s.parkAbort)) ∧
  (∀ (s : State),
      s.pwr.park = .flush →
      s.pwr.woken = false →
      exec (.parkFlushTimeout) s = .next (((s.modPwr (fun p => { p with eraseHeld := !s.crust.erasing.isEmpty })).modCrust
        (fun c => { c with suspended := c.suspended || !c.erasing.isEmpty })).parkLoads)) ∧
  (∀ (src : Fin 7) (detail : Fin 64) (can : Fin 5) (s : State),
      (s.pwr.park = .run ∨ s.wakeArmed src detail = false) →
      exec (.parkWake src detail can) s = .next (s)) ∧
  (∀ (src : Fin 7) (detail : Fin 64) (can : Fin 5) (s : State),
      s.pwr.park ≠ .run →
      s.wakeArmed src detail = true →
      src.val = 4 →
      exec (.parkWake src detail can) s = .next (s.busWake detail (if can = 0 then 2 else can) none)) ∧
  (∀ (src : Fin 7) (detail : Fin 64) (can : Fin 5) (s : State),
      s.pwr.park ≠ .run →
      s.wakeArmed src detail = true →
      src.val = 5 →
      exec (.parkWake src detail can) s = .next ((s.setF F.USBS_STAT_VBUS 1).parkWake 5 0)) ∧
  (∀ (src : Fin 7) (detail : Fin 64) (can : Fin 5) (s : State),
      s.pwr.park ≠ .run →
      s.wakeArmed src detail = true →
      src.val = 6 →
      exec (.parkWake src detail can) s = .next ((s.parkWake 6 0).reqReset 3 none)) ∧
  (∀ (src : Fin 7) (detail : Fin 64) (can : Fin 5) (s : State),
      s.pwr.park ≠ .run →
      s.wakeArmed src detail = true →
      1 ≤ src.val ∧ src.val ≤ 3 →
      exec (.parkWake src detail can) s = .next (s.parkWake src.val detail)) ∧
  (∀ (s : State) (src : Nat) (detail : Nat),
      (src = 1 → s.wakeArmed src detail = (decide (detail < 4) && s.flag (F.SYSCTL_WAKE_CFG_EN detail))) ∧
      (src = 2 → s.wakeArmed src detail = (decide (detail < 2) && s.flag (F.SYSCTL_ALM_CTRL_EN detail) && !s.pwr.rtcDead)) ∧
      (src = 3 → s.wakeArmed src detail = (decide (detail < 64) && s.flag (F.DIO_N_CFG_WAKE detail))) ∧
      (src = 4 → s.wakeArmed src detail = (decide (detail < 16) && !s.fbit F.SYSCTL_PARK_CANIGN_CH detail)) ∧
      (src = 5 ∨ src = 6 → s.wakeArmed src detail = true) ∧ (src = 0 ∨ 6 < src → s.wakeArmed src detail = false)) ∧
  (∀ (k : Fin 4) (s : State),
      s.flag (F.SYSCTL_WAKE_CFG_EN k) = false →
      exec (.wakePin k) s = .next (s)) ∧
  (∀ (k : Fin 4) (s : State),
      s.flag (F.SYSCTL_WAKE_CFG_EN k) = true →
      s.islandUp 6 = false →
      exec (.wakePin k) s = .next (s.parkWake 1 k)) ∧
  (∀ (k : Fin 4) (s : State),
      s.flag (F.SYSCTL_WAKE_CFG_EN k) = true →
      s.islandUp 6 = true →
      exec (.wakePin k) s = .next ((forBelow 16 s (fun n t => if t.fbit (F.SYSCTL_WAKE_CFG_CANMASK k) n then t.tideWake n 9 none else t)).parkWake 1 k)) ∧
  (∀ (n : Fin 64) (level : Bool) (s : State),
      (s.pwr.park = .run ∨ s.flag (F.DIO_N_CFG_WAKE n) = false) →
      exec (.dioWakeSample n level) s = .next (s)) ∧
  (∀ (n : Fin 64) (level : Bool) (s : State) (base : Bool) (k : Nat),
      s.pwr.park ≠ .run →
      s.flag (F.DIO_N_CFG_WAKE n) = true →
      tblGet s.pwr.dio n = (base, k) →
      (level ≠ base ∧ bit (s.f (F.DIO_N_CFG_EDGE n)) (if level = true then 0 else 1) = true) →
      1 ≤ k →
      exec (.dioWakeSample n level) s = .next ((s.modPwr (fun p => { p with dio := tblSet p.dio n (base, k + 1) })).parkWake 3 n)) ∧
  (∀ (n : Fin 64) (level : Bool) (s : State) (base : Bool) (k : Nat),
      s.pwr.park ≠ .run →
      s.flag (F.DIO_N_CFG_WAKE n) = true →
      tblGet s.pwr.dio n = (base, k) →
      (level ≠ base ∧ bit (s.f (F.DIO_N_CFG_EDGE n)) (if level = true then 0 else 1) = true) →
      k = 0 →
      exec (.dioWakeSample n level) s = .next (s.modPwr (fun p => { p with dio := tblSet p.dio n (base, 1) }))) ∧
  (∀ (n : Fin 64) (level : Bool) (s : State) (base : Bool) (k : Nat),
      s.pwr.park ≠ .run →
      s.flag (F.DIO_N_CFG_WAKE n) = true →
      tblGet s.pwr.dio n = (base, k) →
      (¬(level ≠ base ∧ bit (s.f (F.DIO_N_CFG_EDGE n)) (if level = true then 0 else 1) = true)) →
      exec (.dioWakeSample n level) s = .next (s.modPwr (fun p => { p with dio := tblSet p.dio n (base, 0) }))) ∧
  (∀ (k : Fin 2) (s : State),
      (s.almOpen k = false ∨ s.almDue k = false) →
      exec (.rtcAlarmDue k) s = .next (s)) ∧
  (∀ (k : Fin 2) (s : State),
      s.almOpen k = true →
      s.almDue k = true →
      exec (.rtcAlarmDue k) s = .next (if s.almIsLate k then s.almLate k else s.almFire k)) ∧
  (∀ (k : Fin 2) (s : State),
      s.almOpen k = true →
      s.almIsLate k = true →
      exec (.rtcAlarmLate k) s = .next (s.almLate k)) ∧
  (∀ (k : Fin 2) (s : State),
      (s.almOpen k = false ∨ s.almIsLate k = false) →
      exec (.rtcAlarmLate k) s = .next (s)) ∧
  (∀ (s : State) (k : Nat) (t : State) (u : State),
      t = (s.setF (F.SYSCTL_ALM_CTRL_FIRED k) 1).raise (4 + k) →
      u = s.setF (F.SYSCTL_ALM_CTRL_LATE k) 1 →
      (t.pwr.rtcDead = true → s.almFire k = t) ∧ (t.pwr.rtcDead = false → s.almFire k = t.parkWake 2 k) ∧
      (s.flag (F.SYSCTL_ALM_CTRL_POLICY k) = false → u.flag (F.SYSCTL_ALM_CTRL_POLICY k) = false → s.almLate k = u.almFire k) ∧
      (s.flag (F.SYSCTL_ALM_CTRL_POLICY k) = true → s.almLate k = ((u.setF (F.SYSCTL_ALM_CTRL_EN k) 0).setF (F.SYSCTL_ALM_CTRL_DROPPED k) 1).raise (4 + k))) ∧
  (∀ (who : Who) (k : Fin 2) (value : Word) (s : State),
      s.regOk who (A.SYSCTL_ALM_CTRL k) = true →
      bit value.toNat 0 = false →
      exec (.rtcAlarmEnable who k value) s = .next (((s.setF (F.SYSCTL_ALM_CTRL_EN k) (bits value.toNat 0 0)).setF (F.SYSCTL_ALM_CTRL_POLICY k) (bits value.toNat 1 1)).setF (F.SYSCTL_ALM_CTRL_TOL_S k) (bits value.toNat 15 8))) ∧
  (∀ (who : Who) (k : Fin 2) (value : Word) (s : State) (t : State),
      s.regOk who (A.SYSCTL_ALM_CTRL k) = true →
      bit value.toNat 0 = true →
      t = ((((((s.setF (F.SYSCTL_ALM_CTRL_EN k) (bits value.toNat 0 0)).setF (F.SYSCTL_ALM_CTRL_POLICY k) (bits value.toNat 1 1)).setF (F.SYSCTL_ALM_CTRL_TOL_S k) (bits value.toNat 15 8)).setF (F.SYSCTL_ALM_CTRL_FIRED k) 0).setF (F.SYSCTL_ALM_CTRL_LATE k) 0).setF (F.SYSCTL_ALM_CTRL_ARRLATE k) 0).setF (F.SYSCTL_ALM_CTRL_DROPPED k) 0 →
      exec (.rtcAlarmEnable who k value) s = .next (if t.almIsLate k then (t.setF (F.SYSCTL_ALM_CTRL_ARRLATE k) 1).almLate k else t)) ∧
  (∀ (s : State),
      s.flag F.SYSCTL_PWR_STAT_PFW = true →
      exec (.powerFailWarning) s = .next (s)) ∧
  (∀ (s : State),
      s.flag F.SYSCTL_PWR_STAT_PFW = false →
      exec (.powerFailWarning) s = .next (((((s.setF F.SYSCTL_PWR_STAT_PFW 1).levelEdge 0 false).setF F.CRUST_STAT_PFW 1).modCrust (fun c => { c with suspended := c.suspended || !c.erasing.isEmpty })).rakePfw)) ∧
  (∀ (s : State),
      s.flag F.SYSCTL_PWR_STAT_PFW = false →
      exec (.powerFailClear) s = .next (s)) ∧
  (∀ (s : State) (t : State),
      s.flag F.SYSCTL_PWR_STAT_PFW = true →
      t = (s.setF F.SYSCTL_PWR_STAT_PFW 0).raise 1 →
      exec (.powerFailClear) s = .next (((t.setF F.CRUST_STAT_PFW 0).modCrust (fun c => { c with suspended := t.pwr.eraseHeld })).setF F.RAKE_PFW_ACTIVE 0)) ∧
  (∀ (s : State),
      s.pwr.park ≠ .parked →
      exec (.vaonBrownOut) s = .next ((s.modPwr (fun p => { p with dead := false, fails := 0, rail := if p.dead then 1 else p.rail })).reqReset 1 none)) ∧
  (∀ (s : State),
      s.pwr.park = .parked →
      exec .vaonBrownOut s = exec .powerOn s) ∧
  (∀ (temp : BitVec 8) (power : BitVec 16) (trip : Bool) (s : State) (t : State) (u : State),
      (t = ((if s.f F.SYSCTL_THERM_TMAX < temp.toNat then s.setF F.SYSCTL_THERM_TMAX temp.toNat else s).setF F.MEAS_TEMP_LOGIC (umod 16 (10 * ((temp.toNat : Int) - 50)))).setF F.MEAS_TEMP_POWER power.toNat) →
      u = State.levelEdge { t with thermWarn := decide (t.f F.SYSCTL_THERM_TWARN + 50 ≤ temp.toNat) } 6 s.thermWarn →
      exec (.thermalSample ⟨temp, power⟩ trip) s = .next (if trip = true then (u.modPwr (fun p => { p with therm := true })).reqReset 8 none else u)) ∧
  (∀ (s : State),
      exec (.thermalHoldRelease) s = .next (s.modPwr (fun p => { p with therm := false })))

/-- Clock faults, the RTC, RESET_N, watchdogs, software and taken resets, boot, L3 resets, option writes, boot service and the scrubber act as R446 to R467 say -/
def Obligations.ClockResetWatchdogAndBootCommandsActAsTheTablesSay : Prop :=
  (∀ (s : State),
      s.f F.SYSCTL_CLKSTAT_REFSRC ≠ 2 →
      (∀ k, s.pwr.bring = some k → 2 ≤ k) →
      exec (.referenceLoss) s = .next ((s.setF F.SYSCTL_CLKSTAT_REFLOST 1).clockFault)) ∧
  (∀ (s : State) (k : Nat),
      s.pwr.bring = some k →
      k < 2 →
      exec (.referenceLoss) s = .next (s)) ∧
  (∀ (s : State),
      ((∀ k, s.pwr.bring = some k → 2 ≤ k) → s.clockFault = s.reqReset 9 none) ∧ (∀ k, s.pwr.bring = some k → k < 2 → s.clockFault = s)) ∧
  (∀ (s : State),
      s.f F.SYSCTL_CLKSTAT_REFSRC = 2 →
      exec (.referenceLoss) s = .next (s)) ∧
  (∀ (s : State),
      exec (.pllUnlock 0) s = .next ((s.setF F.SYSCTL_CLKSTAT_RPLL 0).clockFault)) ∧
  (∀ (s : State),
      exec (.pllUnlock 1) s = .next ((s.setF F.SYSCTL_CLKSTAT_CORE 0).clockFault)) ∧
  (∀ (s : State),
      exec (.pllUnlock 2) s = .next ((s.setF F.SYSCTL_CLKSTAT_SYS 0).clockFault)) ∧
  (∀ (s : State),
      exec (.serdesUnlock) s = .next (((s.setF F.SYSCTL_CLKSTAT_SERDES 0).linksDown).raise 10)) ∧
  (∀ (good : Bool) (s : State),
      good = true →
      exec (.serdesRelockRetry good) s = .next (s.setF F.SYSCTL_CLKSTAT_SERDES 1)) ∧
  (∀ (good : Bool) (s : State),
      good = false →
      exec (.serdesRelockRetry good) s = .next (s)) ∧
  (∀ (s : State),
      exec (.usbPllUnlock) s = .next (((((((s.setF F.SYSCTL_CLKSTAT_USB 0).setF F.USBS_STAT_ATTACHED 0).setF F.USBS_STAT_CONFIGURED 0).setF F.USBS_STAT_HS 0).setF F.USBS_STAT_SUSPENDED 0).raise 441))) ∧
  (∀ (s : State),
      exec (.rtcOscLoss) s = .next (((((s.setF F.SYSCTL_RTC_CTRL_LOST 1).setF F.SYSCTL_RTC_CTRL_VALID 0).setF F.SYSCTL_CLKSTAT_RTCOK 0).modPwr (fun p => { p with rtcDead := true })).raise 11)) ∧
  (∀ (s : State),
      exec (.rtcOscRestore) s = .next ((s.setF F.SYSCTL_CLKSTAT_RTCOK 1).modPwr (fun p => { p with rtcDead := false }))) ∧
  (∀ (s : State),
      s.pwr.rtcDead = true →
      s.pwr.park = .parked →
      exec (.rtcSecond) s = .next (s)) ∧
  (∀ (s : State),
      (s.pwr.rtcDead = false ∨ s.pwr.park ≠ .parked) →
      s.flag F.SYSCTL_RTC_CTRL_SYNC = true →
      s.flag F.TIME_STAT_LOCKED = true →
      exec (.rtcSecond) s = .next ((s.setF F.SYSCTL_RTC_SEC_SEC (s.dtime / 1000000000 % 2 ^ 32)).modPwr (fun p => { p with rtcAt := s.now }))) ∧
  (∀ (s : State),
      (s.pwr.rtcDead = false ∨ s.pwr.park ≠ .parked) →
      (s.flag F.SYSCTL_RTC_CTRL_SYNC = false ∨ s.flag F.TIME_STAT_LOCKED = false) →
      exec (.rtcSecond) s = .next ((s.setF F.SYSCTL_RTC_SEC_SEC ((s.f F.SYSCTL_RTC_SEC_SEC + 1) % 2 ^ 32)).modPwr (fun p => { p with rtcAt := s.now }))) ∧
  (∀ (who : Who) (value : Word) (s : State),
      s.regOk who (A.SYSCTL_RTC_SEC) = true →
      exec (.rtcSecWrite who value) s = .next (((s.setF F.SYSCTL_RTC_SEC_SEC value.toNat).setF F.SYSCTL_RTC_CTRL_VALID 1).modPwr (fun p => { p with rtcAt := s.now }))) ∧
  (∀ (s : State),
      exec (.resetNPulse) s = .next (((s.modPwr (fun p => { p with resetN := true, fails := if p.dead then 0 else p.fails, dead := false, retry := p.retry || p.dead })).parkWake 6 0).reqReset
        3 none)) ∧
  (∀ (s : State),
      exec (.resetNRelease) s = .next (s.modPwr (fun p => { p with resetN := false }))) ∧
  (∀ (who : Who) (k : Fin 3) (value : Word) (s : State),
      s.regOk who (A.SYSCTL_WDT_KICK k) = true →
      wdtOwn who k = false →
      exec (.wdtKick who k value) s = .next (s.busErr who)) ∧
  (∀ (who : Who) (k : Fin 3) (value : Word) (s : State),
      s.regOk who (A.SYSCTL_WDT_KICK k) = true →
      wdtOwn who k = true →
      value = 0xC35A#32 →
      exec (.wdtKick who k value) s = .next (s.modPwr (fun p => { p with wdtHalf := putBit p.wdtHalf k false }))) ∧
  (∀ (who : Who) (k : Fin 3) (value : Word) (s : State),
      s.regOk who (A.SYSCTL_WDT_KICK k) = true →
      wdtOwn who k = true →
      value ≠ 0xC35A#32 →
      exec (.wdtKick who k value) s = .next (s.reqReset (4 + k) none)) ∧
  (∀ (k : Fin 3) (s : State),
      s.wdtRuns k = true →
      exec (.wdtHalfPeriod k) s = .next (((s.setF (F.SYSCTL_WDT_CFG_WARN k) 1).modPwr (fun p => { p with wdtHalf := putBit p.wdtHalf k true })).raise (12 + k))) ∧
  (∀ (k : Fin 3) (s : State),
      s.wdtRuns k = false →
      exec (.wdtHalfPeriod k) s = .next (s)) ∧
  (∀ (k : Fin 3) (s : State),
      s.wdtRuns k = true →
      bit s.pwr.wdtHalf k = true →
      exec (.wdtExpiry k) s = .next (s.reqReset (4 + k) none)) ∧
  (∀ (k : Fin 3) (s : State),
      (s.wdtRuns k = false ∨ bit s.pwr.wdtHalf k = false) →
      exec (.wdtExpiry k) s = .next (s)) ∧
  (∀ (who : Who) (value : Word) (s : State),
      s.regOk who (A.SYSCTL_SWRST) = true →
      whoSteward who = false →
      exec (.swrstWrite who value) s = .next (s.busErr who)) ∧
  (∀ (who : Who) (value : Word) (s : State),
      s.regOk who (A.SYSCTL_SWRST) = true →
      whoSteward who = true →
      bits value.toNat 31 16 = 0x4B52 ∧ rstTarget (bits value.toNat 1 0) (bits value.toNat 6 4) = true →
      exec (.swrstWrite who value) s = .next (s.reqReset 13 (some (bits value.toNat 1 0 + (if bits value.toNat 1 0 = 3 then 4 * bits value.toNat 6 4 else 0))))) ∧
  (∀ (who : Who) (value : Word) (s : State),
      s.regOk who (A.SYSCTL_SWRST) = true →
      whoSteward who = true →
      ¬(bits value.toNat 31 16 = 0x4B52 ∧ rstTarget (bits value.toNat 1 0) (bits value.toNat 6 4) = true) →
      exec (.swrstWrite who value) s = .next (s)) ∧
  (∀ (s : State),
      s.rstReq = [] →
      exec (.resetSourcesTaken) s = .next (s)) ∧
  (∀ (s : State) (level : Nat) (t : State),
      s.rstReq ≠ [] →
      level = (s.rstReq.map (fun r => s.effLvl r.1 ((r.2.getD 3) % 4))).foldl min 3 →
      t = { (s.rstReq.map (·.1)).foldl (fun s k => s.setFbit F.SYSCTL_RSTCAUSE_CAUSE k true) s with rstReq := [] } →
      level < 3 →
      exec (.resetSourcesTaken) s = .next (t.rstSevereTake (s.rstReq.map (·.1)) level)) ∧
  (∀ (s : State) (level : Nat) (t : State),
      s.rstReq ≠ [] →
      level = (s.rstReq.map (fun r => s.effLvl r.1 ((r.2.getD 3) % 4))).foldl min 3 →
      t = { (s.rstReq.map (·.1)).foldl (fun s k => s.setFbit F.SYSCTL_RSTCAUSE_CAUSE k true) s with rstReq := [] } →
      level = 3 →
      s.pwr.bring ≠ none →
      exec (.resetSourcesTaken) s = .next (t)) ∧
  (∀ (s : State) (level : Nat) (t : State),
      s.rstReq ≠ [] →
      level = (s.rstReq.map (fun r => s.effLvl r.1 ((r.2.getD 3) % 4))).foldl min 3 →
      t = { (s.rstReq.map (·.1)).foldl (fun s k => s.setFbit F.SYSCTL_RSTCAUSE_CAUSE k true) s with rstReq := [] } →
      level = 3 →
      s.pwr.bring = none →
      exec (.resetSourcesTaken) s = .next (s.rstReq.foldl (fun s r => s.l3Begin (((r.2.getD 3) / 4) % 5))
        ((t.setF F.SYSCTL_RSTLAST_LEVEL 3).setF F.SYSCTL_RSTLAST_SRC ((s.rstReq.map (·.1)).foldl min 15)))) ∧
  (∀ (s : State) (srcs : List Nat) (level : Nat) (lv : Nat) (t : State) (u : State),
      (lv = (match s.pwr.bring with | some b => min b level | none => level)) →
      (t = (if s.pwr.bring.isSome then s.setF F.SYSCTL_RSTLAST_RESTARTS (satAdd 255 (s.f F.SYSCTL_RSTLAST_RESTARTS) 1) else s)) →
      u = (((t.rstHistory (s.pwr.endStorm && s.flag F.SYSCTL_RSTLAST_STORM && srcs.contains 13 || srcs.contains 1)).rstUnpark lv).setF F.SYSCTL_RSTLAST_LEVEL lv).setF F.SYSCTL_RSTLAST_SRC (srcs.foldl min 15) →
      (lv = 2 → s.rstSevereTake srcs level = (u.resetL2.rstRails srcs).modPwr (fun p => { p with bring := some 2, l3 := p.l3.filter (fun x => x.2), wdtHalf := 0, rstOut := p.rstOut || bit (s.optByte 3) 0 })) ∧
      (lv = 1 → srcs.contains 1 = false → s.rstSevereTake srcs level =
        ((u.resetL1 .plain).rstRails srcs).modPwr (fun p => { p with bring := some 1, l3 := [], park := .run, woken := false, wdtHalf := 0, optNew := [], eraseHeld := false, rstOut := true, pdWait := 2 ^ 34 - 1 - p.pd })) ∧
      (lv = 0 → srcs.contains 1 = false → s.rstSevereTake srcs level =
        (((u.resetL1 .plain).setF F.SYSCTL_STRAP_TEST_EN 0).rstRails srcs).modPwr (fun p => { p with bring := some 0, l3 := [], park := .run, woken := false, wdtHalf := 0, optNew := [], eraseHeld := false, rstOut := true, pdWait := 2 ^ 34 - 1 - p.pd }))) ∧
  (∀ (s : State) (srcs : List Nat),
      (srcs.contains 1 = true → s.rstRails srcs = s.railStart 1) ∧
      (srcs.contains 1 = false → srcs.contains 2 = true ∨ (2 ≤ s.pwr.rail ∧ s.pwr.dead = false) → s.rstRails srcs = s.railStart 2) ∧
      (srcs.contains 1 = false → srcs.contains 2 = false → s.pwr.rail < 2 ∨ s.pwr.dead = true → s.rstRails srcs = s)) ∧
  (∀ (straps : BitVec 6) (s : State),
      (s.bringMay = false ∨ s.pwr.bring = none) →
      exec (.stewardRelease straps) s = .next (s)) ∧
  (∀ (straps : BitVec 6) (s : State),
      s.bringMay = true →
      s.pwr.bring = some 2 →
      exec (.stewardRelease straps) s = .next (s.stewRestart)) ∧
  (∀ (straps : BitVec 6) (s : State),
      s.bringMay = true →
      s.pwr.bring = some 1 →
      exec (.stewardRelease straps) s = .next (s.bootRun false)) ∧
  (∀ (straps : BitVec 6) (s : State) (t : State),
      s.bringMay = true →
      s.pwr.bring = some 0 →
      t = s.strapSample straps.toNat →
      exec (.stewardRelease straps) s = .next (if t.flag F.SYSCTL_STRAP_TEST_EN then t else t.bootRun true)) ∧
  (∀ (s : State) (fresh : Bool) (u : State) (bad : Bool) (t : State),
      s.clocksUp.optLoad = (u, bad) →
      t = u.enclRoot →
      (t.f F.SYSCTL_STRAP_BOOT_SEL = 1 → s.bootRun fresh = t.loaderStart 2) ∧ (t.f F.SYSCTL_STRAP_BOOT_SEL = 2 → s.bootRun fresh = t.loaderStart 3) ∧
      (t.f F.SYSCTL_STRAP_BOOT_SEL = 0 → ∀ v b fb, t.bootChoose false = (v, some b, fb) → s.bootRun fresh =
        ((((v.setF F.UPD_STAT_BANK b).setF F.SYSCTL_BOOTSTAT_BANK b).setF F.SYSCTL_BOOTSTAT_MODE 0).enclMeasure (bankBase b)).coreStart.stewStart bad fb) ∧
      (t.f F.SYSCTL_STRAP_BOOT_SEL = 0 → ∀ v fb, t.bootChoose false = (v, none, fb) → s.bootRun fresh = v.loaderStart 2) ∧
      (t.f F.SYSCTL_STRAP_BOOT_SEL = 3 → fresh = true → ∀ v b fb, t.bootChoose true = (v, some b, fb) → s.bootRun fresh =
        ((((v.setF F.UPD_STAT_BANK b).setF F.SYSCTL_BOOTSTAT_BANK b).setF F.SYSCTL_BOOTSTAT_MODE 1).enclMeasure (bankBase b)).coreStart.stewStart bad fb)) ∧
  (∀ (s : State) (bad : Bool) (fb : Bool) (t : State) (u : State),
      t = s.setVersions.bankStart fb →
      u = (t.modCrust id).epoch →
      (∀ b c n, t.runBank = some b → t.schemaBad = some (c, n) → s.stewStart bad fb = (u.updUnfit (2 ^ 31 + c * 2 ^ 16 + n % 2 ^ 16)).modPwr (fun p => { p with waking := false })) ∧
      (t.runBank = none ∨ t.schemaBad = none → s.stewStart bad fb = u.stewLoad bad)) ∧
  (∀ (s : State) (b : Nat) (w : Nat),
      s.runBank = some b →
      bit w 31 = true →
      s.updUnfit w = (({ ((s.bankTo b 8 (if bit w 19 then 0x0A41 else 0x0A40) (bits w 18 16)).logAdd (0xA000 + (if bit w 19 then 0x0A41 else 0x0A40) % 0x1000) (w % 2 ^ 16)) with upd := { ((s.bankTo b 8 (if bit w 19 then 0x0A41 else 0x0A40) (bits w 18 16)).logAdd (0xA000 + (if bit w 19 then 0x0A41 else 0x0A40) % 0x1000) (w % 2 ^ 16)).upd with setOk := false, unfitDue := true } }).raise 437).reqReset 15 none) ∧
  (∀ (i : Fin 5) (s : State),
      tblFind s.pwr.l3 i.val = some false →
      exec (.l3DrainDone i) s = .next (((l3Islands i).foldl State.islandReset s).modPwr (fun p => { p with l3 := tblSet p.l3 i.val true }))) ∧
  (∀ (i : Fin 5) (s : State),
      tblFind s.pwr.l3 i.val ≠ some false →
      exec (.l3DrainDone i) s = .next (s)) ∧
  (∀ (i : Fin 5) (s : State),
      tblFind s.pwr.l3 i.val ≠ some true →
      exec (.l3ResetEnd i) s = .next (s)) ∧
  (∀ (i : Fin 5) (s : State) (t : State),
      tblFind s.pwr.l3 i.val = some true →
      t = (s.modPwr (fun p => { p with l3 := tblErase p.l3 i.val })).l3Release i →
      t.pwr.bring ≠ none →
      exec (.l3ResetEnd i) s = .next (t.when (i.val == 0 && t.islandUp 6) State.wakeChannels)) ∧
  (∀ (i : Fin 5) (s : State) (t : State) (v : State),
      tblFind s.pwr.l3 i.val = some true →
      t = (s.modPwr (fun p => { p with l3 := tblErase p.l3 i.val })).l3Release i →
      t.pwr.bring = none →
      (v = (if i.val = 1 then t.optMac else t).loadSettings (inL3 i)) →
      exec (.l3ResetEnd i) s = .next (v.when (i.val == 0 && v.islandUp 6) State.wakeChannels)) ∧
  (∀ (who : Who) (s : State),
      s.regOk who (A.SYSCTL_OPT_CMD) = true →
      whoMachine who = false →
      exec (.optWrite who) s = .next (s.busErr who)) ∧
  (∀ (who : Who) (s : State),
      s.regOk who (A.SYSCTL_OPT_CMD) = true →
      whoMachine who = true →
      s.flag F.SYSCTL_OPT_CMD_BUSY = true →
      exec (.optWrite who) s = .next (s.setF F.SYSCTL_OPT_CMD_RESULT 2)) ∧
  (∀ (who : Who) (s : State),
      s.regOk who (A.SYSCTL_OPT_CMD) = true →
      whoMachine who = true →
      s.flag F.SYSCTL_OPT_CMD_BUSY = false →
      exec (.optWrite who) s = .next (({ s with mem := memClear s.mem (optCopy s.optOther) 0x8000 }.setF F.SYSCTL_OPT_CMD_BUSY 1).modPwr (fun p => { p with optNew := s.optBytes }))) ∧
  (∀ (good : Bool) (s : State),
      s.flag F.SYSCTL_OPT_CMD_BUSY = false →
      exec (.optWriteDone good) s = .next (s)) ∧
  (∀ (good : Bool) (s : State) (t : State),
      s.flag F.SYSCTL_OPT_CMD_BUSY = true →
      good = true →
      t = { s with mem := memPut s.mem (optCopy s.optOther) s.pwr.optNew } →
      exec (.optWriteDone good) s = .next ((((t.setF F.SYSCTL_OPT_CMD_BUSY 0).setFlag F.SYSCTL_OPT_CMD_RESULT false).modPwr (fun p => { p with optNew := [] })).raise 16)) ∧
  (∀ (good : Bool) (s : State) (t : State),
      s.flag F.SYSCTL_OPT_CMD_BUSY = true →
      good = false →
      t = State.useFree { s with mem := memPut s.mem (optCopy s.optOther) (leBytes 256 s.freeNat) } →
      exec (.optWriteDone good) s = .next ((((t.setF F.SYSCTL_OPT_CMD_BUSY 0).setFlag F.SYSCTL_OPT_CMD_RESULT true).modPwr (fun p => { p with optNew := [] })).raise 16)) ∧
  (∀ (l : Fin 3) (s : State),
      s.peerBoot = true →
      s.linkSt l = 2 →
      exec (.bootReqSend l) s = .next (s.brlSend l 7 0 0 0 0 (leBytes 1 0x30 ++ leBytes 4 (s.reg A.SYSCTL_DEVID).toNat))) ∧
  (∀ (l : Fin 3) (s : State),
      (s.peerBoot = false ∨ s.linkSt l ≠ 2) →
      exec (.bootReqSend l) s = .next (s)) ∧
  (∀ (l : Fin 3) (s : State) (t : State) (u : State),
      (Config.bootService = true ∧ s.linkSt l = 2 ∧ s.peerBoot = false ∧ s.upd.recov ≠ 1 ∧ ∀ i, i < 3 → (s.link i).boot = false) →
      t = s.modLink l (fun x => { x with boot := true }) →
      u = { t with cmd := { t.cmd with ownSeq := (t.cmd.ownSeq + s.bootPackets.length) % 65536 } } →
      exec (.bootReqRx l) s = .next (s.bootPackets.foldl (State.bootFrame l) u)) ∧
  (∀ (l : Fin 3) (s : State),
      (¬(Config.bootService = true ∧ s.linkSt l = 2 ∧ s.peerBoot = false ∧ s.upd.recov ≠ 1 ∧ ∀ i, i < 3 → (s.link i).boot = false)) →
      exec (.bootReqRx l) s = .next (s)) ∧
  (∀ (s : State),
      s.upd.apply = none →
      exec (.stageApplyDone) s = .next (s)) ∧
  (∀ (s : State) (k : RKey),
      s.upd.apply = some k →
      s.upd.recov = 1 →
      exec (.stageApplyDone) s = .next (s.loaderEnd State.loaderGo)) ∧
  (∀ (s : State) (k : RKey),
      s.upd.apply = some k →
      s.upd.recov ≠ 1 →
      s.mustStop 0 = true →
      exec (.stageApplyDone) s = .next ((s.modUpd (fun u => { u with apply := none })).failStopped k 0)) ∧
  (∀ (s : State) (k : RKey),
      s.upd.apply = some k →
      s.upd.recov ≠ 1 →
      s.mustStop 0 = false →
      exec (.stageApplyDone) s = .next (s.stageApply k)) ∧
  (∀ (s : State),
      s.flag F.MEM_SCRUB_EN = true →
      s.islandUp 3 = true →
      exec (.scrubPass) s = .next (s.scrub.raise 66)) ∧
  (∀ (s : State),
      (s.flag F.MEM_SCRUB_EN = false ∨ s.islandUp 3 = false) →
      exec (.scrubPass) s = .next (s))

/-- Every opcode of groups 01 and 02 and every timed event of the Command Engine completes and leaves what R32 to R59 give -/
def Obligations.SessionAndTokenCommandsActAsTheTablesSay : Prop :=
  (∀ (r : Req) (s : State) (x : Option Sess) (s1 : State),
      Started s r 1 1 x s1 →
      r.payload.length = 0 →
      exec (.identify r) s = .next (s1.ok (rkeyOf r) (leBytes 4 (s1.reg A.SYSCTL_DEVID).toNat ++ leBytes 2 s1.ownAddr ++ s1.versions.flatMap (leBytes 4) ++
        leBytes 1 s1.activeBank ++ leBytes 1 0))) ∧
  (∀ (r : Req) (s : State) (x : Option Sess) (s1 : State),
      Started s r 1 2 x s1 →
      r.payload.length = 0 →
      exec (.getStatus r) s = .next ((s1.ok (rkeyOf r) (leBytes 1 (s1.f (F.RAKE_PAN_STATE_MODE 0)) ++ leBytes 1 (s1.f (F.RAKE_PAN_STATE_MODE 1)) ++ leBytes 2 0 ++
        leBytes 4 (s1.reg A.SYSCTL_RSTCAUSE).toNat ++ leBytes 2 (s1.f F.MEAS_TEMP_LOGIC) ++ leBytes 1 s1.heldByte ++ leBytes 1 0)).useFree)) ∧
  (∀ (r : Req) (s : State) (x : Option Sess) (s1 : State),
      Started s r 1 3 x s1 →
      r.payload.length = 8 →
      exec (.subscribe r) s = .next ((State.ok { s1 with cmd := { s1.cmd with subs := s1.cmd.subs.filter (fun (b : Subscr) => !(b.tp == r.tp.val && b.ep == r.ep)) ++
          [({ tp := r.tp.val, ep := r.ep, mask := leVal r.payload } : Subscr)] } } (rkeyOf r) (leBytes 8 (leVal r.payload))))) ∧
  (∀ (r : Req) (s : State) (x : Option Sess) (s1 : State),
      Started s r 1 4 x s1 →
      r.payload.length = 1 →
      2 < leVal r.payload →
      exec (.reset r) s = .next (s1.badParam (rkeyOf r) 0)) ∧
  (∀ (r : Req) (s : State) (x : Option Sess) (s1 : State),
      Started s r 1 4 x s1 →
      r.payload.length = 1 →
      leVal r.payload ≤ 2 →
      s1.cmd.resetLvl = none →
      exec (.reset r) s = .next (State.ok { s1 with cmd := { s1.cmd with resetLvl := some (leVal r.payload) } } (rkeyOf r) [])) ∧
  (∀ (r : Req) (s : State) (x : Option Sess) (s1 : State) (v : Nat),
      Started s r 1 4 x s1 →
      r.payload.length = 1 →
      leVal r.payload ≤ 2 →
      s1.cmd.resetLvl = some v →
      exec (.reset r) s = .next (State.ok { s1 with cmd := { s1.cmd with resetLvl := some (min v (leVal r.payload)) } } (rkeyOf r) [])) ∧
  (∀ (r : Req) (s : State) (x : Option Sess) (s1 : State),
      Started s r 2 1 x s1 →
      r.payload.length = 2 →
      s1.locked r.tp.val = true →
      exec (.openChallenge r) s = .next (s1.finish (rkeyOf r) stLockedOut (leBytes 2 (cdiv (tblGet s1.cmd.lockUntil r.tp.val - s1.now) 1000000000)))) ∧
  (∀ (r : Req) (s : State) (x : Option Sess) (s1 : State),
      Started s r 2 1 x s1 →
      r.payload.length = 2 →
      s1.locked r.tp.val = false →
      4 < leAt r.payload 0 1 →
      exec (.openChallenge r) s = .next (s1.badParam (rkeyOf r) 0)) ∧
  (∀ (r : Req) (s : State) (x : Option Sess) (s1 : State),
      Started s r 2 1 x s1 →
      r.payload.length = 2 →
      s1.locked r.tp.val = false →
      leAt r.payload 0 1 = 4 →
      r.tp.val ≠ 3 →
      exec (.openChallenge r) s = .next (s1.finish (rkeyOf r) stNotPermitted (leBytes 1 4))) ∧
  (∀ (r : Req) (s : State) (x : Option Sess) (s1 : State),
      Started s r 2 1 x s1 →
      r.payload.length = 2 →
      s1.locked r.tp.val = false →
      leAt r.payload 0 1 ≤ 4 →
      (leAt r.payload 0 1 ≠ 4 ∨ r.tp.val = 3) →
      s1.classKey (leAt r.payload 1 1) (leAt r.payload 0 1) = none →
      exec (.openChallenge r) s = .next (s1.badParam (rkeyOf r) 1)) ∧
  (∀ (r : Req) (s : State) (x : Option Sess) (s1 : State) (q : List Byte),
      Started s r 2 1 x s1 →
      r.payload.length = 2 →
      s1.locked r.tp.val = false →
      leAt r.payload 0 1 ≤ 4 →
      (leAt r.payload 0 1 ≠ 4 ∨ r.tp.val = 3) →
      s1.classKey (leAt r.payload 1 1) (leAt r.payload 0 1) = some q →
      s1.flag F.ENCL_STAT_TRNG = false →
      exec (.openChallenge r) s = .next (s1.failed (rkeyOf r) 0x0F09)) ∧
  (∀ (r : Req) (s : State) (x : Option Sess) (s1 : State) (q : List Byte) (n : Nonce),
      Started s r 2 1 x s1 →
      r.payload.length = 2 →
      s1.locked r.tp.val = false →
      leAt r.payload 0 1 ≤ 4 →
      (leAt r.payload 0 1 ≠ 4 ∨ r.tp.val = 3) →
      s1.classKey (leAt r.payload 1 1) (leAt r.payload 0 1) = some q →
      s1.flag F.ENCL_STAT_TRNG = true →
      n = ({ tp := r.tp.val, ep := r.ep, cls := leAt r.payload 0 1, slot := leAt r.payload 1 1, bytes := s1.rand 16, at_ := s1.now } : Nonce) →
      exec (.openChallenge r) s = .next ((State.useFree { s1 with cmd := { s1.cmd with nonces := n :: s1.cmd.nonces.filter (fun (x : Nonce) => !(x.tp == r.tp.val && x.ep == r.ep)) } }).ok (rkeyOf r) n.bytes)) ∧
  (∀ (r : Req) (s : State) (x : Option Sess) (s1 : State) (t : State),
      Started s r 2 2 x s1 →
      r.payload.length = 32 →
      t = { s1 with cmd := { s1.cmd with nonces := s1.cmd.nonces.filter (fun (x : Nonce) => !(x.tp == r.tp.val && x.ep == r.ep)) } } →
      s1.cmd.nonces.find? (fun (x : Nonce) => x.tp == r.tp.val && x.ep == r.ep) = none →
      exec (.openResponse r) s = .next ((t.authFail r.tp.val).finish (rkeyOf r) stAuthFailed [])) ∧
  (∀ (r : Req) (s : State) (x : Option Sess) (s1 : State) (t : State) (n : Nonce),
      Started s r 2 2 x s1 →
      r.payload.length = 32 →
      t = { s1 with cmd := { s1.cmd with nonces := s1.cmd.nonces.filter (fun (x : Nonce) => !(x.tp == r.tp.val && x.ep == r.ep)) } } →
      s1.cmd.nonces.find? (fun (x : Nonce) => x.tp == r.tp.val && x.ep == r.ep) = some n →
      t.classKey n.slot n.cls = none →
      exec (.openResponse r) s = .next ((t.authFail r.tp.val).finish (rkeyOf r) stAuthFailed [])) ∧
  (∀ (r : Req) (s : State) (x : Option Sess) (s1 : State) (t : State) (n : Nonce) (key : List Byte),
      Started s r 2 2 x s1 →
      r.payload.length = 32 →
      t = { s1 with cmd := { s1.cmd with nonces := s1.cmd.nonces.filter (fun (x : Nonce) => !(x.tp == r.tp.val && x.ep == r.ep)) } } →
      s1.cmd.nonces.find? (fun (x : Nonce) => x.tp == r.tp.val && x.ep == r.ep) = some n →
      t.classKey n.slot n.cls = some key →
      s1.now < n.at_ + 10000000000 ∧ Config.cmac key (n.bytes ++ r.payload.take 16 ++ leBytes 1 n.cls ++ leBytes 1 r.tp.val) = r.payload.drop 16 →
      exec (.openResponse r) s = .next (t.openSess ⟨(rkeyOf r), x, r.payload⟩ n key)) ∧
  (∀ (r : Req) (s : State) (x : Option Sess) (s1 : State) (t : State) (n : Nonce) (key : List Byte),
      Started s r 2 2 x s1 →
      r.payload.length = 32 →
      t = { s1 with cmd := { s1.cmd with nonces := s1.cmd.nonces.filter (fun (x : Nonce) => !(x.tp == r.tp.val && x.ep == r.ep)) } } →
      s1.cmd.nonces.find? (fun (x : Nonce) => x.tp == r.tp.val && x.ep == r.ep) = some n →
      t.classKey n.slot n.cls = some key →
      ¬(s1.now < n.at_ + 10000000000 ∧ Config.cmac key (n.bytes ++ r.payload.take 16 ++ leBytes 1 n.cls ++ leBytes 1 r.tp.val) = r.payload.drop 16) →
      exec (.openResponse r) s = .next ((t.authFail r.tp.val).finish (rkeyOf r) stAuthFailed [])) ∧
  (∀ (s : State) (c : Ctx) (n : Nonce) (key : List Byte),
      16 ≤ s.cmd.sess.length →
      s.openSess c n key = (s.limit c.key s.freeNat).useFree) ∧
  (∀ (s : State) (c : Ctx) (n : Nonce) (key : List Byte) (y : Sess),
      s.cmd.sess.length < 16 →
      y = { id := s.newSessId, cls := n.cls, tp := c.key.tp, ep := c.key.ep, lastAt := s.now,
            key := fitBytes 16 (Config.hkdf256 key (n.bytes ++ c.pl.take 16) (asc "KCMD" ++ leBytes 1 n.cls ++ leBytes 1 c.key.tp) 16) } →
      s.openSess c n key = (State.useFree { s with cmd := { s.cmd with sess := s.cmd.sess ++ [y] } }).ok c.key (leBytes 2 y.id ++ leBytes 2 s.idleS)) ∧
  (∀ (r : Req) (s : State) (x : Option Sess) (s1 : State) (y : Sess),
      Started s r 2 3 x s1 →
      r.payload.length = 0 →
      x = some y →
      exec (.close r) s = .next ((s1.ok (rkeyOf r) []).closeSess y.id)) ∧
  (∀ (r : Req) (s : State) (x : Option Sess) (s1 : State) (y : Sess),
      Started s r 2 4 x s1 →
      r.payload.length = 3 →
      x = some y →
      5 < leAt r.payload 0 1 →
      exec (.maintAcquire r) s = .next (s1.badParam (rkeyOf r) 0)) ∧
  (∀ (r : Req) (s : State) (x : Option Sess) (s1 : State) (y : Sess),
      Started s r 2 4 x s1 →
      r.payload.length = 3 →
      x = some y →
      leAt r.payload 0 1 ≤ 5 →
      (leAt r.payload 1 2 < 1 ∨ 3600 < leAt r.payload 1 2) →
      exec (.maintAcquire r) s = .next (s1.badParam (rkeyOf r) 1)) ∧
  (∀ (r : Req) (s : State) (x : Option Sess) (s1 : State) (y : Sess) (t : Token),
      Started s r 2 4 x s1 →
      r.payload.length = 3 →
      x = some y →
      leAt r.payload 0 1 ≤ 5 →
      1 ≤ leAt r.payload 1 2 ∧ leAt r.payload 1 2 ≤ 3600 →
      s1.maintBlock (leAt r.payload 0 1) = some t →
      exec (.maintAcquire r) s = .next ((s1.finish (rkeyOf r) stBusyMaint (s1.holder t)).raise 404)) ∧
  (∀ (r : Req) (s : State) (x : Option Sess) (s1 : State) (y : Sess) (t : Token),
      Started s r 2 4 x s1 →
      r.payload.length = 3 →
      x = some y →
      leAt r.payload 0 1 ≤ 5 →
      1 ≤ leAt r.payload 1 2 ∧ leAt r.payload 1 2 ≤ 3600 →
      s1.maintBlock (leAt r.payload 0 1) = none →
      s1.cmd.tokens.find? (fun (t : Token) => t.tp != 7 && t.sess == y.id) = some t →
      exec (.maintAcquire r) s = .next (s1.wrongState (rkeyOf r) t.cls)) ∧
  (∀ (r : Req) (s : State) (x : Option Sess) (s1 : State) (y : Sess),
      Started s r 2 4 x s1 →
      r.payload.length = 3 →
      x = some y →
      leAt r.payload 0 1 ≤ 5 →
      1 ≤ leAt r.payload 1 2 ∧ leAt r.payload 1 2 ≤ 3600 →
      s1.maintBlock (leAt r.payload 0 1) = none →
      s1.cmd.tokens.find? (fun (t : Token) => t.tp != 7 && t.sess == y.id) = none →
      exec (.maintAcquire r) s = .next (State.ok { s1 with cmd := { s1.cmd with tokens := s1.cmd.tokens ++
        [{ cls := leAt r.payload 0 1, tp := y.tp, ep := y.ep, sess := y.id, until_ := s1.now + leAt r.payload 1 2 * 1000000000 }] } } (rkeyOf r) (leBytes 2 (leAt r.payload 1 2)))) ∧
  (∀ (r : Req) (s : State) (x : Option Sess) (s1 : State) (y : Sess),
      Started s r 2 5 x s1 →
      r.payload.length = 0 →
      x = some y →
      exec (.maintRelease r) s = .next ((s1.dropToken y.id).ok (rkeyOf r) [])) ∧
  (∀ (r : Req) (s : State) (x : Option Sess) (s1 : State),
      Started s r 2 5 x s1 →
      r.payload.length = 0 →
      x = none →
      exec (.maintRelease r) s = .next (s1.finish (rkeyOf r) stNoSession [])) ∧
  (∀ (tp : Fin 6) (bytes : List Byte) (s : State),
      s.tpOn tp.val = false →
      exec (.cmdPacketDiscard tp bytes) s = .next (s)) ∧
  (∀ (tp : Fin 6) (bytes : List Byte) (s : State) (e : PktBad),
      s.tpOn tp.val = true →
      pktCheck bytes = some e →
      exec (.cmdPacketDiscard tp bytes) s = .next (s.discard tp.val (match e with | .len => false | _ => true))) ∧
  (∀ (tp : Fin 6) (bytes : List Byte) (s : State),
      s.tpOn tp.val = true →
      pktCheck bytes = none →
      exec (.cmdPacketDiscard tp bytes) s = .next (if (parsePkt bytes).type = 0 ∨ (tp.val = 4 ∧ ((parsePkt bytes).type = 1 ∨ (parsePkt bytes).type = 3)) then s else s.discard tp.val false)) ∧
  (∀ (tp : Fin 6) (ep : Nat) (bytes : List Byte) (s : State),
      s.tpOn tp.val = true ∧ pktCheck bytes = none ∧ (parsePkt bytes).type = 0 ∧ (parsePkt bytes).addr ≠ 0 ∧ (parsePkt bytes).addr ≠ s.ownAddr →
      s.fits tp.val (parsePkt bytes) = false →
      exec (.cmdPacketForward tp ep bytes) s = .next (s.discard tp.val false)) ∧
  (∀ (tp : Fin 6) (ep : Nat) (bytes : List Byte) (s : State),
      s.tpOn tp.val = true ∧ pktCheck bytes = none ∧ (parsePkt bytes).type = 0 ∧ (parsePkt bytes).addr ≠ 0 ∧ (parsePkt bytes).addr ≠ s.ownAddr →
      s.fits tp.val (parsePkt bytes) = true →
      exec (.cmdPacketForward tp ep bytes) s = .next (if (parsePkt bytes).addr = 0xFFF then s.cmdCast tp.val (parsePkt bytes) else s.forward tp.val ep (parsePkt bytes))) ∧
  (∀ (tp : Fin 6) (ep : Nat) (bytes : List Byte) (s : State),
      ¬(s.tpOn tp.val = true ∧ pktCheck bytes = none ∧ (parsePkt bytes).type = 0 ∧ (parsePkt bytes).addr ≠ 0 ∧ (parsePkt bytes).addr ≠ s.ownAddr) →
      exec (.cmdPacketForward tp ep bytes) s = .next (s)) ∧
  (∀ (k : ReqKey) (s : State),
      s.cmd.fwd.find? (fun (w : Fwd) => w.tp == k.tp.val && w.ep == k.ep && w.seq == k.seq.toNat && !w.acc) = none →
      exec (.cmdForwardTimeout k) s = .next (s)) ∧
  (∀ (k : ReqKey) (s : State) (w : Fwd) (t : State),
      s.cmd.fwd.find? (fun (w : Fwd) => w.tp == k.tp.val && w.ep == k.ep && w.seq == k.seq.toNat && !w.acc) = some w →
      t = State.syncOut { s with cmd := { s.cmd with fwd := s.cmd.fwd.filter (fun x => !(fun (w : Fwd) => w.tp == k.tp.val && w.ep == k.ep && w.seq == k.seq.toNat && !w.acc) x) } } w.tp →
      exec (.cmdForwardTimeout k) s = .next (t.sendBytes w.tp w.ep (t.replyPkt w.src w.seq w.grp w.op w.sess 1 stTimeout [] (t.inSess w.tp w.ep w.sess)).bytes)) ∧
  (∀ (k : ReqKey) (stat : BitVec 8) (payload : List Byte) (s : State) (o : Outst),
      s.findOutst (keyOf k) = some o →
      o.accepted = true →
      exec (.cmdCompletion k stat payload) s = .next (s.finish (keyOf k) stat.toNat payload)) ∧
  (∀ (k : ReqKey) (stat : BitVec 8) (payload : List Byte) (s : State) (o : Outst),
      s.findOutst (keyOf k) = some o →
      o.accepted = false →
      exec (.cmdCompletion k stat payload) s = .next (s)) ∧
  (∀ (k : ReqKey) (stat : BitVec 8) (payload : List Byte) (s : State),
      s.findOutst (keyOf k) = none →
      exec (.cmdCompletion k stat payload) s = .next (s)) ∧
  (∀ (k : ReqKey) (s : State),
      exec (.cmdAcceptedDeadline k) s = .next (s.accept (keyOf k))) ∧
  (∀ (tp : Fin 6) (ep : Nat) (s : State),
      exec (.sessionNonceExpiry tp ep) s = .next ({ s with cmd := { s.cmd with nonces := s.cmd.nonces.filter (fun (x : Nonce) => !(x.tp == tp.val && x.ep == ep)) } })) ∧
  (∀ (sess : BitVec 16) (s : State) (y : Sess),
      s.findSess sess.toNat = some y →
      exec (.sessionIdleTimeout sess) s = .next (s.closeSess sess.toNat)) ∧
  (∀ (sess : BitVec 16) (s : State),
      s.findSess sess.toNat = none →
      exec (.sessionIdleTimeout sess) s = .next (s)) ∧
  (∀ (tp : Fin 6) (s : State),
      exec (.lockoutEnd tp) s = .next ({ s with cmd := { s.cmd with lockUntil := tblErase s.cmd.lockUntil tp.val } })) ∧
  (∀ (cls : Fin 6) (s : State) (t : Token),
      s.cmd.tokens.find? (fun (t : Token) => t.cls == cls.val && t.tp != 7) = some t →
      exec (.maintLeaseExpiry cls) s = .next (s.dropToken t.sess)) ∧
  (∀ (cls : Fin 6) (s : State),
      s.cmd.tokens.find? (fun (t : Token) => t.cls == cls.val && t.tp != 7) = none →
      exec (.maintLeaseExpiry cls) s = .next (s)) ∧
  (∀ (s : State) (l : Nat),
      s.cmd.resetLvl = some l →
      exec (.resetDelayExpiry) s = .next (State.reqReset { s with cmd := { s.cmd with resetLvl := none }, pwr := { s.pwr with endStorm := s.pwr.endStorm || decide (l ≤ 1) } } 13 (some l))) ∧
  (∀ (s : State),
      s.cmd.resetLvl = none →
      exec (.resetDelayExpiry) s = .next (s))

/-- Every mailbox operation begins with its MB_CMD write and ends at ENCL_OP_DONE with the result, code and slot of R382, R383, R389 and R392 -/
def Obligations.EnclaveMailboxCommandsActAsTheTablesSay : Prop :=
  (∀ (who : Who) (c : Fin 3) (n : BitVec 11) (s : State),
      mbAllowed who c = true →
      s.flag (F.MB_STAT_BUSY c) = false →
      exec (.mbRandom who c n) s = .next ((({ s with encl := { s.encl with ops := tblSet s.encl.ops c ⟨0x01, 0, false, n.toNat, (s.reg (A.MB_ARG c)).toNat⟩ } } : State).setF (F.MB_STAT_BUSY c) 1).enclNext)) ∧
  (∀ (who : Who) (c : Fin 3) (n : BitVec 11) (s : State),
      (mbAllowed who c = false ∨ s.flag (F.MB_STAT_BUSY c) = true) →
      exec (.mbRandom who c n) s = .next (s.busErr who)) ∧
  (∀ (who : Who) (c : Fin 3) (slot : Fin 64) (auto : Bool) (n : BitVec 11) (s : State),
      mbAllowed who c = true →
      s.flag (F.MB_STAT_BUSY c) = false →
      exec (.mbLoad who c slot auto n) s = .next ((({ s with encl := { s.encl with ops := tblSet s.encl.ops c ⟨0x02, slot, auto, n.toNat, (s.reg (A.MB_ARG c)).toNat⟩ } } : State).setF (F.MB_STAT_BUSY c) 1).enclNext)) ∧
  (∀ (who : Who) (c : Fin 3) (slot : Fin 64) (auto : Bool) (n : BitVec 11) (s : State),
      (mbAllowed who c = false ∨ s.flag (F.MB_STAT_BUSY c) = true) →
      exec (.mbLoad who c slot auto n) s = .next (s.busErr who)) ∧
  (∀ (who : Who) (c : Fin 3) (slot : Fin 64) (n : BitVec 11) (s : State),
      mbAllowed who c = true →
      s.flag (F.MB_STAT_BUSY c) = false →
      exec (.mbClear who c slot n) s = .next ((({ s with encl := { s.encl with ops := tblSet s.encl.ops c ⟨0x03, slot, false, n.toNat, (s.reg (A.MB_ARG c)).toNat⟩ } } : State).setF (F.MB_STAT_BUSY c) 1).enclNext)) ∧
  (∀ (who : Who) (c : Fin 3) (slot : Fin 64) (n : BitVec 11) (s : State),
      (mbAllowed who c = false ∨ s.flag (F.MB_STAT_BUSY c) = true) →
      exec (.mbClear who c slot n) s = .next (s.busErr who)) ∧
  (∀ (who : Who) (c : Fin 3) (slot : Fin 64) (auto : Bool) (n : BitVec 11) (s : State),
      mbAllowed who c = true →
      s.flag (F.MB_STAT_BUSY c) = false →
      exec (.mbGen who c slot auto n) s = .next ((({ s with encl := { s.encl with ops := tblSet s.encl.ops c ⟨0x04, slot, auto, n.toNat, (s.reg (A.MB_ARG c)).toNat⟩ } } : State).setF (F.MB_STAT_BUSY c) 1).enclNext)) ∧
  (∀ (who : Who) (c : Fin 3) (slot : Fin 64) (auto : Bool) (n : BitVec 11) (s : State),
      (mbAllowed who c = false ∨ s.flag (F.MB_STAT_BUSY c) = true) →
      exec (.mbGen who c slot auto n) s = .next (s.busErr who)) ∧
  (∀ (who : Who) (c : Fin 3) (slot : Fin 64) (n : BitVec 11) (s : State),
      mbAllowed who c = true →
      s.flag (F.MB_STAT_BUSY c) = false →
      exec (.gcmEnc who c slot n) s = .next ((({ s with encl := { s.encl with ops := tblSet s.encl.ops c ⟨0x05, slot, false, n.toNat, (s.reg (A.MB_ARG c)).toNat⟩ } } : State).setF (F.MB_STAT_BUSY c) 1).enclNext)) ∧
  (∀ (who : Who) (c : Fin 3) (slot : Fin 64) (n : BitVec 11) (s : State),
      (mbAllowed who c = false ∨ s.flag (F.MB_STAT_BUSY c) = true) →
      exec (.gcmEnc who c slot n) s = .next (s.busErr who)) ∧
  (∀ (who : Who) (c : Fin 3) (slot : Fin 64) (n : BitVec 11) (s : State),
      mbAllowed who c = true →
      s.flag (F.MB_STAT_BUSY c) = false →
      exec (.gcmDec who c slot n) s = .next ((({ s with encl := { s.encl with ops := tblSet s.encl.ops c ⟨0x06, slot, false, n.toNat, (s.reg (A.MB_ARG c)).toNat⟩ } } : State).setF (F.MB_STAT_BUSY c) 1).enclNext)) ∧
  (∀ (who : Who) (c : Fin 3) (slot : Fin 64) (n : BitVec 11) (s : State),
      (mbAllowed who c = false ∨ s.flag (F.MB_STAT_BUSY c) = true) →
      exec (.gcmDec who c slot n) s = .next (s.busErr who)) ∧
  (∀ (who : Who) (c : Fin 3) (slot : Fin 64) (n : BitVec 11) (s : State),
      mbAllowed who c = true →
      s.flag (F.MB_STAT_BUSY c) = false →
      exec (.mbCmac who c slot n) s = .next ((({ s with encl := { s.encl with ops := tblSet s.encl.ops c ⟨0x07, slot, false, n.toNat, (s.reg (A.MB_ARG c)).toNat⟩ } } : State).setF (F.MB_STAT_BUSY c) 1).enclNext)) ∧
  (∀ (who : Who) (c : Fin 3) (slot : Fin 64) (n : BitVec 11) (s : State),
      (mbAllowed who c = false ∨ s.flag (F.MB_STAT_BUSY c) = true) →
      exec (.mbCmac who c slot n) s = .next (s.busErr who)) ∧
  (∀ (who : Who) (c : Fin 3) (slot : Fin 64) (n : BitVec 11) (s : State),
      mbAllowed who c = true →
      s.flag (F.MB_STAT_BUSY c) = false →
      exec (.sign who c slot n) s = .next ((({ s with encl := { s.encl with ops := tblSet s.encl.ops c ⟨0x08, slot, false, n.toNat, (s.reg (A.MB_ARG c)).toNat⟩ } } : State).setF (F.MB_STAT_BUSY c) 1).enclNext)) ∧
  (∀ (who : Who) (c : Fin 3) (slot : Fin 64) (n : BitVec 11) (s : State),
      (mbAllowed who c = false ∨ s.flag (F.MB_STAT_BUSY c) = true) →
      exec (.sign who c slot n) s = .next (s.busErr who)) ∧
  (∀ (who : Who) (c : Fin 3) (n : BitVec 11) (s : State),
      mbAllowed who c = true →
      s.flag (F.MB_STAT_BUSY c) = false →
      exec (.verify who c n) s = .next ((({ s with encl := { s.encl with ops := tblSet s.encl.ops c ⟨0x09, 0, false, n.toNat, (s.reg (A.MB_ARG c)).toNat⟩ } } : State).setF (F.MB_STAT_BUSY c) 1).enclNext)) ∧
  (∀ (who : Who) (c : Fin 3) (n : BitVec 11) (s : State),
      (mbAllowed who c = false ∨ s.flag (F.MB_STAT_BUSY c) = true) →
      exec (.verify who c n) s = .next (s.busErr who)) ∧
  (∀ (who : Who) (c : Fin 3) (slot : Fin 64) (n : BitVec 11) (s : State),
      mbAllowed who c = true →
      s.flag (F.MB_STAT_BUSY c) = false →
      exec (.ecdh who c slot n) s = .next ((({ s with encl := { s.encl with ops := tblSet s.encl.ops c ⟨0x0A, slot, false, n.toNat, (s.reg (A.MB_ARG c)).toNat⟩ } } : State).setF (F.MB_STAT_BUSY c) 1).enclNext)) ∧
  (∀ (who : Who) (c : Fin 3) (slot : Fin 64) (n : BitVec 11) (s : State),
      (mbAllowed who c = false ∨ s.flag (F.MB_STAT_BUSY c) = true) →
      exec (.ecdh who c slot n) s = .next (s.busErr who)) ∧
  (∀ (who : Who) (c : Fin 3) (slot : Fin 64) (n : BitVec 11) (s : State),
      mbAllowed who c = true →
      s.flag (F.MB_STAT_BUSY c) = false →
      exec (.hkdf who c slot n) s = .next ((({ s with encl := { s.encl with ops := tblSet s.encl.ops c ⟨0x0B, slot, false, n.toNat, (s.reg (A.MB_ARG c)).toNat⟩ } } : State).setF (F.MB_STAT_BUSY c) 1).enclNext)) ∧
  (∀ (who : Who) (c : Fin 3) (slot : Fin 64) (n : BitVec 11) (s : State),
      (mbAllowed who c = false ∨ s.flag (F.MB_STAT_BUSY c) = true) →
      exec (.hkdf who c slot n) s = .next (s.busErr who)) ∧
  (∀ (who : Who) (c : Fin 3) (n : BitVec 11) (s : State),
      mbAllowed who c = true →
      s.flag (F.MB_STAT_BUSY c) = false →
      exec (.hash who c n) s = .next ((({ s with encl := { s.encl with ops := tblSet s.encl.ops c ⟨0x0C, 0, false, n.toNat, (s.reg (A.MB_ARG c)).toNat⟩ } } : State).setF (F.MB_STAT_BUSY c) 1).enclNext)) ∧
  (∀ (who : Who) (c : Fin 3) (n : BitVec 11) (s : State),
      (mbAllowed who c = false ∨ s.flag (F.MB_STAT_BUSY c) = true) →
      exec (.hash who c n) s = .next (s.busErr who)) ∧
  (∀ (who : Who) (c : Fin 3) (n : BitVec 11) (s : State),
      mbAllowed who c = true →
      s.flag (F.MB_STAT_BUSY c) = false →
      exec (.extend who c n) s = .next ((({ s with encl := { s.encl with ops := tblSet s.encl.ops c ⟨0x0D, 0, false, n.toNat, (s.reg (A.MB_ARG c)).toNat⟩ } } : State).setF (F.MB_STAT_BUSY c) 1).enclNext)) ∧
  (∀ (who : Who) (c : Fin 3) (n : BitVec 11) (s : State),
      (mbAllowed who c = false ∨ s.flag (F.MB_STAT_BUSY c) = true) →
      exec (.extend who c n) s = .next (s.busErr who)) ∧
  (∀ (who : Who) (c : Fin 3) (n : BitVec 11) (s : State),
      mbAllowed who c = true →
      s.flag (F.MB_STAT_BUSY c) = false →
      exec (.mbAttest who c n) s = .next ((({ s with encl := { s.encl with ops := tblSet s.encl.ops c ⟨0x0E, 0, false, n.toNat, (s.reg (A.MB_ARG c)).toNat⟩ } } : State).setF (F.MB_STAT_BUSY c) 1).enclNext)) ∧
  (∀ (who : Who) (c : Fin 3) (n : BitVec 11) (s : State),
      (mbAllowed who c = false ∨ s.flag (F.MB_STAT_BUSY c) = true) →
      exec (.mbAttest who c n) s = .next (s.busErr who)) ∧
  (∀ (s : State),
      exec (.enclOpStart) s = .next (s.enclNext)) ∧
  (∀ (s : State) (i : Nat),
      s.encl.running = none →
      s.flag F.ENCL_STAT_READY = true →
      (List.range 3).find? (fun i => (tblFind s.encl.ops ((s.encl.first + i) % 3)).isSome) = some i →
      s.enclNext = { s with encl := { s.encl with running := some ((s.encl.first + i) % 3), first := ((s.encl.first + i) % 3 + 1) % 3 } }) ∧
  (∀ (s : State),
      (s.encl.running ≠ none ∨ s.flag F.ENCL_STAT_READY = false ∨ ∀ i, i < 3 → tblFind s.encl.ops ((s.encl.first + i) % 3) = none) →
      s.enclNext = s) ∧
  (∀ (s : State),
      s.encl.running = none →
      exec (.enclOpDone) s = .next (s)) ∧
  (∀ (s : State) (c : Nat) (o : MbOp) (q : EnclRes) (t : State) (u : State) (v : State),
      s.encl.running = some c →
      o = tblGet s.encl.ops c →
      q = s.opRun c o →
      (t = (if o.op = 2 ∨ o.op = 3 ∨ o.op = 4 then q.st.mbZero c else q.st)) →
      (u = ((if q.code = 0 then t.mbOut c q.res else t).setF (F.MB_STAT_CODE c) q.code).setF (F.MB_STAT_RLEN c) q.res.length) →
      (v = (((if (o.auto && (o.op == 2 || o.op == 4)) = true then u.setF (F.MB_STAT_SLOT c) q.slot else u).setF (F.MB_STAT_BUSY c) 0).setF (F.MB_STAT_DONE c) 1).keyStored c o q) →
      exec (.enclOpDone) s = .next ((State.raise { v with encl := { v.encl with running := none, ops := tblErase v.encl.ops c } } (448 + c)).enclNext)) ∧
  (∀ (s : State) (c : Nat) (o : MbOp) (inp : List Byte) (arg : Nat) (pan : Bool),
      inp = s.mbIn c o.len →
      arg = o.arg →
      pan = (c != 0) →
      (o.op = 0x01 → s.opRun c o = s.opRandom o.len) ∧
      (o.op = 0x02 → o.auto = false → s.opRun c o = s.loadKey pan o.slot inp) ∧ (o.op = 0x03 → s.opRun c o = s.opClear pan o.slot) ∧
      (o.op = 0x04 → o.auto = false → s.opRun c o = s.opGen pan o.slot o.len inp) ∧
      (∀ i, o.op = 0x02 → o.auto = true → s.freeSlot = some i → s.opRun c o = s.loadKey pan i inp) ∧
      (∀ i, o.op = 0x04 → o.auto = true → s.freeSlot = some i → s.opRun c o = s.opGen pan i o.len inp) ∧
      (o.op = 0x02 ∨ o.op = 0x04 → o.auto = true → s.freeSlot = none → s.opRun c o = s.enclFail 0x0B) ∧
      (o.op = 0x05 → s.opRun c o = s.opGcmEnc pan o.slot o.len inp) ∧ (o.op = 0x06 → s.opRun c o = s.opGcmDec pan o.slot o.len inp) ∧
      (o.op = 0x07 → s.opRun c o = s.opCmac pan o.slot o.len inp) ∧ (o.op = 0x08 → s.opRun c o = s.opSign pan o.slot o.len inp) ∧
      (o.op = 0x09 → s.opRun c o = s.opVerify o.len inp) ∧ (o.op = 0x0A → s.opRun c o = s.opEcdh pan o.slot arg o.len inp) ∧
      (o.op = 0x0B → s.opRun c o = s.opHkdf pan o.slot arg inp) ∧ (o.op = 0x0C → s.opRun c o = s.opHash arg o.len inp) ∧
      (o.op = 0x0D → s.opRun c o = s.opExtend o.len inp) ∧ (o.op = 0x0E → s.opRun c o = s.opAttest o.len inp)) ∧
  (∀ (s : State) (n : Nat),
      ((n < 1 ∨ 256 < n) → s.opRandom n = s.enclFail 5) ∧ (1 ≤ n → n ≤ 256 → s.flag F.ENCL_STAT_TRNG = false → s.opRandom n = s.enclFail 9) ∧
      (1 ≤ n → n ≤ 256 → s.flag F.ENCL_STAT_TRNG = true → s.opRandom n = ⟨0, s.useFree, s.rand n, 0⟩) ∧ (∀ code, s.enclFail code = ⟨code, s, [], 0⟩)) ∧
  (∀ (s : State) (pan : Bool) (slot : Nat),
      (s.slot slot = none → s.opClear pan slot = s.enclFail 3) ∧
      (∀ k, s.slot slot = some k → pan = true → bit k.usage 10 = false → s.opClear pan slot = s.enclFail 4) ∧
      (∀ k, s.slot slot = some k → pan = false ∨ bit k.usage 10 = true → bit k.usage 11 = true → s.opClear pan slot = s.enclFail 8) ∧
      (∀ k, s.slot slot = some k → pan = false ∨ bit k.usage 10 = true → bit k.usage 11 = false → s.opClear pan slot = ⟨0, s.dropSlot slot, [], slot⟩)) ∧
  (∀ (s : State) (pan : Bool) (slot : Nat) (use : Nat),
      (s.slot slot = none → s.useSlot pan slot use = .inr 3) ∧
      (∀ k, s.slot slot = some k → bit k.usage use = true → pan = false ∨ bit k.usage 10 = true → s.useSlot pan slot use = .inl k) ∧
      (∀ k, s.slot slot = some k → bit k.usage use = false ∨ (pan = true ∧ bit k.usage 10 = false) → s.useSlot pan slot use = .inr 4)) ∧
  (∀ (s : State) (pan : Bool) (slot : Nat) (arg : Nat) (n : Nat) (inp : List Byte) (k : KeySlot),
      (∀ e, s.useSlot pan slot 0 = .inr e → s.opGcmEnc pan slot n inp = s.enclFail e) ∧
      (∀ e, s.useSlot pan slot 1 = .inr e → s.opGcmDec pan slot n inp = s.enclFail e) ∧
      (∀ e, s.useSlot pan slot 2 = .inr e → s.opCmac pan slot n inp = s.enclFail e) ∧
      (∀ e, s.useSlot pan slot 3 = .inr e → s.opSign pan slot n inp = s.enclFail e) ∧
      (∀ e, s.useSlot pan slot 4 = .inr e → s.opEcdh pan slot arg n inp = s.enclFail e) ∧
      (∀ e, s.useSlot pan slot 5 = .inr e → s.opHkdf pan slot arg inp = s.enclFail e) ∧
      (s.useSlot pan slot 0 = .inl k → 14 ≤ n → leAt inp 12 2 ≤ 256 → 14 + leAt inp 12 2 ≤ n → n - 14 - leAt inp 12 2 ≤ 1024 →
        s.opGcmEnc pan slot n inp = ⟨0, s, fitBytes (n - 14 - leAt inp 12 2) (Config.gcmEnc k.key (inp.take 12) ((inp.drop 14).take (leAt inp 12 2)) (inp.drop (14 + leAt inp 12 2))).1 ++
          fitBytes 16 (Config.gcmEnc k.key (inp.take 12) ((inp.drop 14).take (leAt inp 12 2)) (inp.drop (14 + leAt inp 12 2))).2, slot⟩) ∧
      (s.useSlot pan slot 2 = .inl k → n < 1 ∨ 1024 < n → s.opCmac pan slot n inp = s.enclFail 5) ∧
      (s.useSlot pan slot 2 = .inl k → 1 ≤ n → n ≤ 1024 → s.opCmac pan slot n inp = ⟨0, s, fitBytes 16 (Config.cmac k.key inp), slot⟩) ∧
      (s.useSlot pan slot 3 = .inl k → n ≠ 32 → n ≠ 48 → s.opSign pan slot n inp = s.enclFail 5) ∧
      (s.useSlot pan slot 3 = .inl k → n = 32 ∨ n = 48 → s.flag F.ENCL_STAT_TRNG = false → s.opSign pan slot n inp = s.enclFail 9) ∧
      (s.useSlot pan slot 3 = .inl k → n = 32 ∨ n = 48 → s.flag F.ENCL_STAT_TRNG = true →
        s.opSign pan slot n inp = ⟨0, s.useFree, fitBytes (2 * keyLen k.typ) (Config.ecdsaSign k.typ k.key inp s.freeNat), slot⟩) ∧
      (s.useSlot pan slot 4 = .inl k → n ≠ 2 * keyLen k.typ → s.opEcdh pan slot arg n inp = s.enclFail 5) ∧
      (s.useSlot pan slot 4 = .inl k → n = 2 * keyLen k.typ → s.opEcdh pan slot arg n inp = s.putDerived pan arg k (fitBytes 32 (Config.ecdh k.typ k.key inp)) 4 0x20 0)) ∧
  (∀ (s : State) (arg : Nat) (n : Nat) (inp : List Byte),
      (n < 1 ∨ 1024 < n → s.opHash arg n inp = s.enclFail 5) ∧ (1 ≤ n → n ≤ 1024 → s.opHash 0 n inp = ⟨0, s, fitBytes 32 (Config.sha256 inp), 0⟩) ∧
      (1 ≤ n → n ≤ 1024 → s.opHash 1 n inp = ⟨0, s, fitBytes 48 (Config.sha384 inp), 0⟩) ∧ (n ≠ 48 → s.opExtend n inp = s.enclFail 5) ∧ (n = 48 → s.opExtend n inp = ⟨0, s.extend 7 inp, [], 0⟩) ∧
      (n ≠ 32 → s.opAttest n inp = s.enclFail 5) ∧ (n = 32 → s.opAttest n inp = ⟨0, s.useFree, s.statement inp, 0⟩)) ∧
  (∀ (s : State),
      exec (.trngFailure) s = .next ((s.setF F.ENCL_STAT_TRNG 0).raise 455)) ∧
  (∀ (s : State),
      exec (.trngRecovery) s = .next (s.setF F.ENCL_STAT_TRNG 1))

/-- Every transaction of the debug port and every TAP instruction completes and leaves what R486 to R497 give -/
def Obligations.DebugPortAndBoundaryScanCommandsActAsTheTablesSay : Prop :=
  (∀ (rnw : Bool) (addr : BitVec 8) (hpar : Bool) (data : Word) (dpar : Bool) (s : State),
      s.islandUp 13 = false →
      exec (.dbgTransaction rnw addr hpar data dpar) s = .next (s)) ∧
  (∀ (rnw : Bool) (addr : BitVec 8) (hpar : Bool) (data : Word) (dpar : Bool) (s : State),
      s.islandUp 13 = true →
      (parityOf 8 addr.toNat != rnw) ≠ hpar →
      exec (.dbgTransaction rnw addr hpar data dpar) s = .next (s.setF F.DBG_STAT_PARERR 1)) ∧
  (∀ (rnw : Bool) (addr : BitVec 8) (hpar : Bool) (data : Word) (dpar : Bool) (s : State) (t : State) (w : Word),
      s.islandUp 13 = true →
      (parityOf 8 addr.toNat != rnw) = hpar →
      rnw = true →
      s.portRead (4 * addr.toNat) = (t, some w) →
      exec (.dbgTransaction rnw addr hpar data dpar) s = .next (t.ack 1 (some w))) ∧
  (∀ (rnw : Bool) (addr : BitVec 8) (hpar : Bool) (data : Word) (dpar : Bool) (s : State) (t : State),
      s.islandUp 13 = true →
      (parityOf 8 addr.toNat != rnw) = hpar →
      rnw = true →
      s.portRead (4 * addr.toNat) = (t, none) →
      exec (.dbgTransaction rnw addr hpar data dpar) s = .next (t.ack 4 none)) ∧
  (∀ (rnw : Bool) (addr : BitVec 8) (hpar : Bool) (data : Word) (dpar : Bool) (s : State),
      s.islandUp 13 = true →
      (parityOf 8 addr.toNat != rnw) = hpar →
      rnw = false →
      (parityOf 32 data.toNat == dpar) = false →
      exec (.dbgTransaction rnw addr hpar data dpar) s = .next (if (s.portWrite (4 * addr.toNat) data).isSome then (s.ack 1 none).setF F.DBG_STAT_PARERR 1 else s.ack 4 none)) ∧
  (∀ (rnw : Bool) (addr : BitVec 8) (hpar : Bool) (data : Word) (dpar : Bool) (s : State) (t : State),
      s.islandUp 13 = true →
      (parityOf 8 addr.toNat != rnw) = hpar →
      rnw = false →
      (parityOf 32 data.toNat == dpar) = true →
      (4 * addr.toNat ≠ 0x14 ∨ s.dbgMay false 0x14 = false) →
      s.portWrite (4 * addr.toNat) data = some t →
      exec (.dbgTransaction rnw addr hpar data dpar) s = .next (t.ack 1 none)) ∧
  (∀ (rnw : Bool) (addr : BitVec 8) (hpar : Bool) (data : Word) (dpar : Bool) (s : State),
      s.islandUp 13 = true →
      (parityOf 8 addr.toNat != rnw) = hpar →
      rnw = false →
      (parityOf 32 data.toNat == dpar) = true →
      s.dbgMay false (4 * addr.toNat) = false →
      exec (.dbgTransaction rnw addr hpar data dpar) s = .next (s.ack 4 none)) ∧
  (∀ (rnw : Bool) (addr : BitVec 8) (hpar : Bool) (data : Word) (dpar : Bool) (s : State),
      s.islandUp 13 = true →
      (parityOf 8 addr.toNat != rnw) = hpar →
      rnw = false →
      (parityOf 32 data.toNat == dpar) = true →
      4 * addr.toNat = 0x14 →
      s.dbgMay false 0x14 = true →
      exec (.dbgTransaction rnw addr hpar data dpar) s = .next ((s.dbgMemWrite data).1.ack (if (s.dbgMemWrite data).2 then 1 else 4) none)) ∧
  (∀ (s : State),
      exec (.dbgLineReset) s = .next (s)) ∧
  (∀ (c : CoreId) (s : State),
      s.islandUp 13 = false →
      exec (.dbgHalt c) s = .next (s)) ∧
  (∀ (c : CoreId) (s : State),
      s.islandUp 13 = true →
      s.dbgMay false (0x100 + 0x80 * c.num) = true →
      exec (.dbgHalt c) s = .next ((s.dbgCtrl c (s.ctrlWith c 0)).ack 1 none)) ∧
  (∀ (c : CoreId) (s : State),
      s.islandUp 13 = true →
      s.dbgMay false (0x100 + 0x80 * c.num) = false →
      exec (.dbgHalt c) s = .next (s.ack 4 none)) ∧
  (∀ (c : CoreId) (s : State),
      s.islandUp 13 = false →
      exec (.dbgResume c) s = .next (s)) ∧
  (∀ (c : CoreId) (s : State),
      s.islandUp 13 = true →
      s.dbgMay false (0x100 + 0x80 * c.num) = true →
      exec (.dbgResume c) s = .next ((s.dbgCtrl c (s.ctrlWith c 1)).ack 1 none)) ∧
  (∀ (c : CoreId) (s : State),
      s.islandUp 13 = true →
      s.dbgMay false (0x100 + 0x80 * c.num) = false →
      exec (.dbgResume c) s = .next (s.ack 4 none)) ∧
  (∀ (c : CoreId) (s : State),
      s.islandUp 13 = false →
      exec (.dbgStep c) s = .next (s)) ∧
  (∀ (c : CoreId) (s : State),
      s.islandUp 13 = true →
      s.dbgMay false (0x100 + 0x80 * c.num) = true →
      exec (.dbgStep c) s = .next ((s.dbgCtrl c (s.ctrlWith c 2)).ack 1 none)) ∧
  (∀ (c : CoreId) (s : State),
      s.islandUp 13 = true →
      s.dbgMay false (0x100 + 0x80 * c.num) = false →
      exec (.dbgStep c) s = .next (s.ack 4 none)) ∧
  (∀ (s : State) (c : CoreId) (w : Word) (t : State),
      t = s.plainKeep (A.DBG_CORE_CTRL c.num) w [] →
      (bit w.toNat 0 = true → bit w.toNat 1 = false → bit w.toNat 2 = false → s.dbgCtrl c w = t.dbgHaltReq c) ∧
      (bit w.toNat 0 = false → bit w.toNat 1 = true → bit w.toNat 2 = false → s.dbgCtrl c w = t.dbgResume c) ∧
      (bit w.toNat 0 = false → bit w.toNat 1 = false → bit w.toNat 2 = true → s.dbgCtrl c w = t.dbgStep c) ∧
      (bit w.toNat 0 = false → bit w.toNat 1 = false → bit w.toNat 2 = false → s.dbgCtrl c w = t)) ∧
  (∀ (s : State) (c : CoreId),
      ((s.core c).run = .running ∨ (s.core c).run = .waiting → s.dbgHaltReq c = s.dbgHalt c 1 0) ∧ ((s.core c).run ≠ .running → (s.core c).run ≠ .waiting → s.dbgHaltReq c = s) ∧
      ((s.core c).run = .halted → s.dbgResume c = s.dbgGo c) ∧ ((s.core c).run ≠ .halted → s.dbgResume c = s ∧ s.dbgStep c = s)) ∧
  (∀ (s : State) (c : CoreId) (t : State),
      (s.core c).run = .halted →
      t = (s.haltGap c).dbgOne c →
      ((t.core c).run ≠ .xfault → (t.core c).run ≠ .mismatch → s.dbgStep c = t.dbgHalt c 2 0) ∧
      ((t.core c).run = .xfault ∨ (t.core c).run = .mismatch → s.dbgStep c = (t.setFbit F.DBG_STAT_HALTED c.num false).setReg (A.DBG_CORE_STAT c.num) 0#32)) ∧
  (∀ (c : CoreId) (wr : Option Word) (s : State) (w : Word) (t : State),
      wr = some w →
      s.islandUp 13 = true →
      s.dbgMay false (0x10C + 0x80 * c.num) = true →
      s.dbgWrite c w = some t →
      exec (.dbgRdataAccess c wr) s = .next (t.ack 1 none)) ∧
  (∀ (c : CoreId) (wr : Option Word) (s : State) (w : Word),
      wr = some w →
      s.islandUp 13 = true →
      (s.dbgMay false (0x10C + 0x80 * c.num) = false ∨ s.dbgWrite c w = none) →
      exec (.dbgRdataAccess c wr) s = .next (s.ack 4 none)) ∧
  (∀ (c : CoreId) (wr : Option Word) (s : State) (w : Word) (t : State),
      wr = none →
      s.islandUp 13 = true →
      s.dbgMay true (0x10C + 0x80 * c.num) = true →
      s.dbgRead c = (t, some w) →
      exec (.dbgRdataAccess c wr) s = .next (t.ack 1 (some w))) ∧
  (∀ (c : CoreId) (wr : Option Word) (s : State) (t : State),
      wr = none →
      s.islandUp 13 = true →
      s.dbgMay true (0x10C + 0x80 * c.num) = true →
      s.dbgRead c = (t, none) →
      exec (.dbgRdataAccess c wr) s = .next (t.ack 4 none)) ∧
  (∀ (c : CoreId) (wr : Option Word) (s : State),
      s.islandUp 13 = false →
      exec (.dbgRdataAccess c wr) s = .next (s)) ∧
  (∀ (s : State) (c : CoreId) (n : Nat) (w : Word),
      n = s.f (F.DBG_CORE_RSEL_REG c.num) →
      ((s.core c).run ≠ .halted ∨ 64 < n → s.dbgRead c = (s, none) ∧ s.dbgWrite c w = none) ∧
      ((s.core c).run = .halted → n < 32 → s.dbgRead c = (s, some ((s.core c).rd (Fin.ofNat 32 n))) ∧ s.dbgWrite c w = some (s.setCore c ((s.core c).wr (Fin.ofNat 32 n) w))) ∧
      ((s.core c).run = .halted → 32 ≤ n → n < 64 → s.dbgRead c = (s, some (s.srRead c (n - 32))) ∧ s.dbgWrite c w = some (s.srWrite c 2 (n - 32) w)) ∧
      ((s.core c).run = .halted → n = 64 → s.dbgRead c = (s, some (s.core c).pc) ∧ s.dbgWrite c w = some (s.setCore c { s.core c with pc := w }))) ∧
  (∀ (wr : Option Word) (s : State),
      s.islandUp 13 = false →
      exec (.dbgMemAccess wr) s = .next (s)) ∧
  (∀ (wr : Option Word) (s : State) (w : Word),
      wr = some w →
      s.islandUp 13 = true →
      s.dbgMay false 0x14 = true →
      exec (.dbgMemAccess wr) s = .next ((s.dbgMemWrite w).1.ack (if (s.dbgMemWrite w).2 then 1 else 4) none)) ∧
  (∀ (wr : Option Word) (s : State),
      wr = none →
      s.islandUp 13 = true →
      s.dbgMay true 0x14 = true →
      exec (.dbgMemAccess wr) s = .next (match s.dbgMemRead with | (t, some w) => t.ack 1 (some w) | (t, none) => t.ack 4 none)) ∧
  (∀ (wr : Option Word) (s : State),
      s.islandUp 13 = true →
      s.dbgMay (wr.isNone) 0x14 = false →
      exec (.dbgMemAccess wr) s = .next (s.ack 4 none)) ∧
  (∀ (s : State) (t : State) (u : State) (v : Nat) (w : Word) (a : Nat),
      a = (s.reg A.DBG_MEM_ADDR).toNat →
      (a % 4 ≠ 0 → s.dbgMemRead = (s.busErr .debug, none)) ∧
      (a % 4 = 0 → s.busRead .debug a 4 = (t, .ok v) → s.dbgMemRead = (t.memInc, some (toW v))) ∧
      (a % 4 = 0 → u = (s.setF F.DBG_STAT_BUSERR 0).busWrite .debug a 4 w.toNat → u.flag F.DBG_STAT_BUSERR = false →
        s.dbgMemWrite w = ((u.setF F.DBG_STAT_BUSERR (s.f F.DBG_STAT_BUSERR)).memInc, true)) ∧
      (a % 4 = 0 → u = (s.setF F.DBG_STAT_BUSERR 0).busWrite .debug a 4 w.toNat → u.flag F.DBG_STAT_BUSERR = true → s.dbgMemWrite w = (u, false))) ∧
  (∀ (value : Word) (s : State),
      s.islandUp 13 = true →
      s.dbgMay false 0xC = true →
      bits value.toNat 31 16 = 0x4B44 ∧ rstTarget (bits value.toNat 1 0) (bits value.toNat 4 2) = true →
      exec (.dbgRst value) s = .next ((s.reqReset 12 (some (bits value.toNat 1 0 + (if bits value.toNat 1 0 = 3 then 4 * bits value.toNat 4 2 else 0)))).ack 1 none)) ∧
  (∀ (value : Word) (s : State),
      s.islandUp 13 = true →
      s.dbgMay false 0xC = true →
      ¬(bits value.toNat 31 16 = 0x4B44 ∧ rstTarget (bits value.toNat 1 0) (bits value.toNat 4 2) = true) →
      exec (.dbgRst value) s = .next (s.ack 1 none)) ∧
  (∀ (value : Word) (s : State),
      s.islandUp 13 = true →
      s.dbgMay false 0xC = false →
      exec (.dbgRst value) s = .next (s.ack 4 none)) ∧
  (∀ (value : Word) (s : State),
      s.islandUp 13 = false →
      exec (.dbgRst value) s = .next (s)) ∧
  (∀ (who : Who) (value : Word) (s : State),
      who ≠ .debug →
      exec (.dbgEvtWrite who value) s = .next (s.regWrite who A.DBG_EVT value)) ∧
  (∀ (who : Who) (value : Word) (s : State) (q : RegDef),
      who = .debug →
      s.islandUp 13 = true →
      s.dbgMay false 8 = true →
      regAt A.DBG_EVT = some q →
      exec (.dbgEvtWrite who value) s = .next ((s.plainWrite q A.DBG_EVT value).ack 1 none)) ∧
  (∀ (who : Who) (value : Word) (s : State),
      who = .debug →
      s.islandUp 13 = true →
      s.dbgMay false 8 = false →
      exec (.dbgEvtWrite who value) s = .next (s.ack 4 none)) ∧
  (∀ (s : State),
      exec (.tapReset) s = .next (s.tap .idcode)) ∧
  (∀ (s : State),
      exec (.idcode) s = .next ((s.tap .idcode).emit .tdo (leBytes 4 0xC486016B))) ∧
  (∀ (balls : BitVec 276) (load : BitVec 276) (s : State),
      exec (.samplePreload balls load) s = .next ((State.tap { s with dbg := { s.dbg with cells := load.toNat } } .sample).emit .tdo (leBytes 35 balls.toNat))) ∧
  (∀ (s : State),
      s.testHeld = true →
      exec (.extest) s = .next ((s.tap .extest).emit (.balls true) (leBytes 35 s.dbg.cells))) ∧
  (∀ (s : State),
      s.testHeld = false →
      exec (.extest) s = .next (s.tap .bypass)) ∧
  (∀ (s : State),
      s.testHeld = true →
      exec (.clamp) s = .next ((s.tap .clamp).emit (.balls true) (leBytes 35 s.dbg.cells))) ∧
  (∀ (s : State),
      s.testHeld = false →
      exec (.clamp) s = .next (s.tap .bypass)) ∧
  (∀ (s : State),
      s.testHeld = true →
      exec (.highz) s = .next ((s.tap .highz).emit (.balls false) [])) ∧
  (∀ (s : State),
      s.testHeld = false →
      exec (.highz) s = .next (s.tap .bypass)) ∧
  (∀ (s : State),
      exec (.bypass) s = .next (s.tap .bypass))

/-- Event Fabric, lockstep, TLB, IOMMU and DMA commands complete and leave what R97 to R133 give -/
def Obligations.EventFabricMmuAndDmaCommandsActAsTheTablesSay : Prop :=
  (∀ (src : Fin 1536) (s : State),
      sourceListed src = true →
      src.val ∉ levelSources →
      exec (.eventSourceAssert src) s = .next (s.raise src)) ∧
  (∀ (src : Fin 1536) (s : State),
      (sourceListed src = false ∨ src.val ∈ levelSources) →
      exec (.eventSourceAssert src) s = .next (s)) ∧
  (∀ (who : Who) (t : Fin 4) (s : State),
      s.regOk who (A.EVT_TGT_ACK t) = true →
      s.topEvent t = none →
      exec (.evtTgtAckRead who t) s = .next (s.emit .bus (leBytes 4 0x8000))) ∧
  (∀ (who : Who) (t : Fin 4) (s : State) (p : Nat) (k : Nat),
      s.regOk who (A.EVT_TGT_ACK t) = true →
      s.topEvent t = some (p, k) →
      k ∈ levelSources →
      exec (.evtTgtAckRead who t) s = .next ((((s.setActiveMask t (putBit (s.activeMask t) p true)).critRead (A.EVT_SRC_CFG k) 4).critRead (A.EVT_PEND (k / 32)) 4).emit .bus (leBytes 4 (toW (k + 0x10000 * p)).toNat))) ∧
  (∀ (who : Who) (t : Fin 4) (s : State) (p : Nat) (k : Nat),
      s.regOk who (A.EVT_TGT_ACK t) = true →
      s.topEvent t = some (p, k) →
      k ∉ levelSources →
      exec (.evtTgtAckRead who t) s = .next (((State.critRead { s.setActiveMask t (putBit (s.activeMask t) p true) with
          latch := if putBit (tblGet s.latch k) t false = 0 then tblErase s.latch k else tblSet s.latch k (putBit (tblGet s.latch k) t false) } (A.EVT_SRC_CFG k) 4).critRead (A.EVT_PEND (k / 32)) 4).emit .bus (leBytes 4 (toW (k + 0x10000 * p)).toNat))) ∧
  (∀ (who : Who) (t : Fin 4) (s : State) (p : Nat),
      s.regOk who (A.EVT_TGT_EOI t) = true →
      s.running t = some p →
      exec (.evtTgtEoi who t) s = .next (s.setActiveMask t (putBit (s.activeMask t) p false))) ∧
  (∀ (who : Who) (t : Fin 4) (s : State),
      s.regOk who (A.EVT_TGT_EOI t) = true →
      s.running t = none →
      exec (.evtTgtEoi who t) s = .next (s)) ∧
  (∀ (who : Who) (idx : Fin 32) (s : State),
      s.regOk who (A.EVT_SWTRIG) = true →
      exec (.evtSwtrig who idx) s = .next (s.raise (1504 + idx))) ∧
  (∀ (who : Who) (w : Fin 48) (value : Word) (s : State),
      s.regOk who (A.EVT_PEND w) = true →
      exec (.evtPendClear who w value) s = .next ({ s with latch := s.latch.filter (fun x => !(x.1 / 32 == w.val && bit value.toNat (x.1 % 32))) })) ∧
  (∀ (c : CoreId) (s : State),
      exec (.postedStoreBusError c) s = .next (s.raise (35 + c.num))) ∧
  (∀ (p : PanId) (pc : Word) (unit : Fin 7) (s : State) (k : FkCore) (m : FkCore),
      k = s.core p.core →
      (k.run = .running ∨ k.run = .waiting) →
      m = { k with lsrec0 := pc, lsrec1 := toW (unit.val + 0x100 + 0x10000 * satAdd 0xFFFF (bits k.lsrec1.toNat 31 16) 1), lsInj := false } →
      k.lsTest = true →
      exec (.lockstepMismatch p pc unit) s = .next ((s.setCore p.core m).raise (38 + p.num))) ∧
  (∀ (p : PanId) (pc : Word) (unit : Fin 7) (s : State) (k : FkCore) (m : FkCore),
      k = s.core p.core →
      (k.run = .running ∨ k.run = .waiting) →
      m = { k with lsrec0 := pc, lsrec1 := toW (unit.val + 0x100 + 0x10000 * satAdd 0xFFFF (bits k.lsrec1.toNat 31 16) 1), lsInj := false } →
      k.lsTest = false →
      exec (.lockstepMismatch p pc unit) s = .next (((s.setCore p.core { m with run := .mismatch }).raise (38 + p.num)).reqReset 7 none)) ∧
  (∀ (p : PanId) (pc : Word) (unit : Fin 7) (s : State),
      (s.core p.core).run ≠ .running →
      (s.core p.core).run ≠ .waiting →
      exec (.lockstepMismatch p pc unit) s = .next (s)) ∧
  (∀ (p : PanId) (s : State),
      exec (.lockstepInject p) s = .next (s.setCore p.core { s.core p.core with lsInj := true })) ∧
  (∀ (c : CoreId) (s : State),
      exec (.tlbInvalidateAll c) s = .next (s.setCore c { s.core c with tlb := (s.core c).tlb.filter (fun e => !(fun _ => true) e) })) ∧
  (∀ (c : CoreId) (s : State),
      exec (.tlbInvalidateNonglobal c) s = .next (s.setCore c { s.core c with tlb := (s.core c).tlb.filter (fun e => !(fun e => !e.g && !e.locked) e) })) ∧
  (∀ (c : CoreId) (asid : BitVec 8) (s : State),
      exec (.tlbInvalidateAsid c asid) s = .next (s.setCore c { s.core c with tlb := (s.core c).tlb.filter (fun e => !(!e.g && e.asid == asid.toNat)) })) ∧
  (∀ (c : CoreId) (page : BitVec 20) (s : State),
      exec (.tlbInvalidatePage c page) s = .next (s.setCore c { s.core c with tlb := (s.core c).tlb.filter (fun e => !e.hits ((s.core c).asid.toNat % 256) page.toNat) })) ∧
  (∀ (c : CoreId) (page : BitVec 20) (s : State),
      exec (.tlbLockPage c page) s = .next (s.tlbLock c page.toNat)) ∧
  (∀ (s : State) (c : CoreId) (page : Nat) (k : FkCore) (t : State) (x : Walk) (u : State) (v : FkCore) (b : Bool),
      k = s.core c →
      (64 ≤ k.locked → s.tlbLock c page = s.setCore c { k with lockFail := true }) ∧
      (k.locked < 64 → s.walk c.pan k.ttb.toNat (page * 0x1000) = (t, none) → s.tlbLock c page = t.setCore c { t.core c with lockFail := true }) ∧
      (k.locked < 64 → s.walk c.pan k.ttb.toNat (page * 0x1000) = (t, some x) → u = t.tlbDrop c (fun e => e.hits (k.asid.toNat % 256) page) →
        (u.core c).tlbKeep (x.entry (k.asid.toNat % 256) true) = (v, b) → s.tlbLock c page = u.setCore c { v with lockFail := !b })) ∧
  (∀ (who : Who) (ctx : Fin 64) (all : Bool) (s : State),
      s.regOk who (A.IOMMU_INV) = true →
      exec (.iommuInv who ctx all) s = .next ({ s with dma := { s.dma with iotlb := s.dma.iotlb.filter (fun e => !all && e.ctx != ctx.val) } })) ∧
  (∀ (who : Who) (ch : Fin 64) (s : State),
      s.regOk who (A.DMA_CH_CTRL ch) = true →
      s.f (F.DMA_CH_STAT_STATE ch) = 0 →
      s.flag (F.DMA_CH_CFG_EN ch) = true →
      exec (.dmaStart who ch) s = .next (((((s.setF (F.DMA_CH_STAT_STATE ch) 1).setF (F.DMA_CH_CUR_VALUE ch) (s.f (F.DMA_CH_DESC_VALUE ch))).modDch ch (fun x => { x with burstOpen := false, ready := false })).fetchDesc ch))) ∧
  (∀ (who : Who) (ch : Fin 64) (s : State),
      s.regOk who (A.DMA_CH_CTRL ch) = true →
      (s.f (F.DMA_CH_STAT_STATE ch) ≠ 0 ∨ s.flag (F.DMA_CH_CFG_EN ch) = false) →
      exec (.dmaStart who ch) s = .next (s)) ∧
  (∀ (who : Who) (ch : Fin 64) (s : State),
      s.regOk who (A.DMA_CH_CTRL ch) = true →
      1 ≤ s.f (F.DMA_CH_STAT_STATE ch) ∧ s.f (F.DMA_CH_STAT_STATE ch) ≤ 3 →
      exec (.dmaAbort who ch) s = .next (s.dmaError ch 7 (s.chRec ch).faultAddr)) ∧
  (∀ (who : Who) (ch : Fin 64) (s : State),
      s.regOk who (A.DMA_CH_CTRL ch) = true →
      ¬(1 ≤ s.f (F.DMA_CH_STAT_STATE ch) ∧ s.f (F.DMA_CH_STAT_STATE ch) ≤ 3) →
      exec (.dmaAbort who ch) s = .next (s)) ∧
  (∀ (who : Who) (ch : Fin 64) (s : State),
      s.regOk who (A.DMA_CH_CTRL ch) = true →
      s.f (F.DMA_CH_STAT_STATE ch) = 3 →
      exec (.dmaResume who ch) s = .next (s.dmaReplay ch)) ∧
  (∀ (who : Who) (ch : Fin 64) (s : State),
      s.regOk who (A.DMA_CH_CTRL ch) = true →
      s.f (F.DMA_CH_STAT_STATE ch) ≠ 3 →
      exec (.dmaResume who ch) s = .next (s)) ∧
  (∀ (who : Who) (ch : Fin 64) (s : State),
      s.regOk who (A.DMA_CH_STAT ch) = true →
      s.f (F.DMA_CH_STAT_STATE ch) = 4 →
      exec (.dmaErrClear who ch) s = .next (((s.setFlag (F.DMA_CH_STAT_ERR ch) false).setF (F.DMA_CH_STAT_STATE ch) 0).modRec ch (fun r => { r with pinned := r.pinned && r.ch != ch }))) ∧
  (∀ (who : Who) (ch : Fin 64) (s : State),
      s.regOk who (A.DMA_CH_STAT ch) = true →
      s.f (F.DMA_CH_STAT_STATE ch) ≠ 4 →
      exec (.dmaErrClear who ch) s = .next (s.setFlag (F.DMA_CH_STAT_ERR ch) false)) ∧
  (∀ (ch : Fin 64) (s : State),
      s.f (F.DMA_CH_CFG_REQ ch) ≠ 0xFF →
      exec (.dmaPeripheralRequest ch) s = .next (s.modDch ch (fun x => { x with ready := true }))) ∧
  (∀ (ch : Fin 64) (s : State),
      s.f (F.DMA_CH_CFG_REQ ch) = 0xFF →
      exec (.dmaPeripheralRequest ch) s = .next (s)) ∧
  (∀ (ch : Fin 64) (s : State),
      s.f (F.DMA_CH_STAT_STATE ch) = 2 →
      s.f (F.DMA_CH_STAT_CAUSE ch) = 4 →
      exec (.dmaL3waitExpiry ch) s = .next (s.dmaError ch 4 (s.chRec ch).faultAddr)) ∧
  (∀ (ch : Fin 64) (s : State),
      (s.f (F.DMA_CH_STAT_STATE ch) ≠ 2 ∨ s.f (F.DMA_CH_STAT_CAUSE ch) ≠ 4) →
      exec (.dmaL3waitExpiry ch) s = .next (s)) ∧
  (∀ (s : State) (n : Nat) (cause : Nat) (fa : Nat) (t : State) (u : State),
      t = ((s.recCause n cause).modRec n (fun r => { r with state := 5, pinned := true, faultAddr := fa })) →
      u = (t.setF (F.DMA_CH_STAT_STATE n) 4).setFlag (F.DMA_CH_STAT_ERR n) true →
      s.dmaError n cause fa = (((u.modDch n (fun x => { x with burstOpen := false, ready := false })).dmaYield n).raise 192)) ∧
  (∀ (s : State) (n : Nat) (first : Nat) (t : State),
      (first = (if (s.chRec n).cause = 4 then (s.chRec n).beatsDone else 0)) →
      t = (((((s.setF (F.DMA_CH_STAT_STATE n) 1).modRec n (fun r => { r with state := 3, replayed := true })).modDch n (fun x => { x with beat := first })).critRead (0x40028000 + 32 * s.f (F.DMA_CH_STAT_JREC n)) 32).raise 193) →
      s.dmaReplay n = if (t.dch n).burstOpen = true then t else t.fetchDesc n) ∧
  (∀ (s : State) (n : Nat) (a : Nat) (t : State) (d : List Byte) (fa : Nat),
      a = s.f (F.DMA_CH_CUR_VALUE n) →
      a % 32 = 0 →
      (State.ioReadMem (s.f (F.DMA_CH_CFG_CTX n)) n 32 a s = (t, .iommu fa) → s.fetchDesc n = (t.fetchRec n).dmaPause n fa) ∧
      (State.ioReadMem (s.f (F.DMA_CH_CFG_CTX n)) n 32 a s = (t, .bus fa) → s.fetchDesc n = (t.fetchRec n).dmaError n 5 fa) ∧
      (State.ioReadMem (s.f (F.DMA_CH_CFG_CTX n)) n 32 a s = (t, .ecc fa) → s.fetchDesc n = (t.fetchRec n).dmaEcc n fa) ∧
      (State.ioReadMem (s.f (F.DMA_CH_CFG_CTX n)) n 32 a s = (t, .ok d) → badDesc d = true → s.fetchDesc n = (t.fetchRec n).dmaError n 5 a) ∧
      (State.ioReadMem (s.f (F.DMA_CH_CFG_CTX n)) n 32 a s = (t, .ok d) → badDesc d = false → s.fetchDesc n =
        ((t.modDch n (fun x => { x with src := leAt d 0 4, dst := leAt d 4 4, sinc := bit (leAt d 12 2) 0, dinc := bit (leAt d 12 2) 1, irq := bit (leAt d 12 2) 2, last := bit (leAt d 12 2) 3, nextDesc := leAt d 16 4 })).setF (F.DMA_CH_REM_VALUE n) (leAt d 8 4)).openBurst n)) ∧
  (∀ (s : State),
      (s.flag F.DMA_CTRL_EN = false ∨ s.dmaPick = none) →
      exec (.dmaBeatBoundary) s = .next (s)) ∧
  (∀ (s : State) (n : Nat) (t : State) (u : State),
      s.flag F.DMA_CTRL_EN = true →
      s.dmaPick = some n →
      (t = (match s.dma.active with | some m => if m ≠ n ∧ s.dmaReady m = true then s.dmaWait m 1 else s | none => s)) →
      (u = (if t.f (F.DMA_CH_STAT_STATE n) = 2 then t.dmaReplay n else t)) →
      u.f (F.DMA_CH_STAT_STATE n) = 1 →
      exec (.dmaBeatBoundary) s = .next (State.dmaBeat { u with dma := { u.dma with active := some n } } n)) ∧
  (∀ (s : State) (n : Nat) (t : State) (u : State),
      s.flag F.DMA_CTRL_EN = true →
      s.dmaPick = some n →
      (t = (match s.dma.active with | some m => if m ≠ n ∧ s.dmaReady m = true then s.dmaWait m 1 else s | none => s)) →
      (u = (if t.f (F.DMA_CH_STAT_STATE n) = 2 then t.dmaReplay n else t)) →
      u.f (F.DMA_CH_STAT_STATE n) ≠ 1 →
      exec (.dmaBeatBoundary) s = .next (u)) ∧
  (∀ (ch : Fin 64) (s : State),
      ¬(s.f (F.DMA_CH_STAT_STATE ch) = 1 ∧ (s.dch ch).burstOpen = true ∧ nBeats (s.chRec ch).len ≤ (s.dch ch).beat) →
      exec (.dmaBurstComplete ch) s = .next (s)) ∧
  (∀ (ch : Fin 64) (s : State) (t : State) (u : State),
      s.f (F.DMA_CH_STAT_STATE ch) = 1 ∧ (s.dch ch).burstOpen = true ∧ nBeats (s.chRec ch).len ≤ (s.dch ch).beat →
      t = ((s.modRec ch (fun r => { r with state := 2 })).dmaYield ch) →
      (u = (t.modDch ch (fun x => { x with
        src := if (s.dch ch).sinc then ((s.dch ch).src + (s.chRec ch).len) % 2 ^ 32 else (s.dch ch).src
        dst := if (s.dch ch).dinc then ((s.dch ch).dst + (s.chRec ch).len) % 2 ^ 32 else (s.dch ch).dst
        burstOpen := false, ready := false })).setF (F.DMA_CH_REM_VALUE ch) (s.f (F.DMA_CH_REM_VALUE ch) - (s.chRec ch).len)) →
      0 < s.f (F.DMA_CH_REM_VALUE ch) - (s.chRec ch).len →
      exec (.dmaBurstComplete ch) s = .next (u.openBurst ch)) ∧
  (∀ (ch : Fin 64) (s : State) (t : State) (u : State),
      s.f (F.DMA_CH_STAT_STATE ch) = 1 ∧ (s.dch ch).burstOpen = true ∧ nBeats (s.chRec ch).len ≤ (s.dch ch).beat →
      t = ((s.modRec ch (fun r => { r with state := 2 })).dmaYield ch) →
      (u = (t.modDch ch (fun x => { x with
        src := if (s.dch ch).sinc then ((s.dch ch).src + (s.chRec ch).len) % 2 ^ 32 else (s.dch ch).src
        dst := if (s.dch ch).dinc then ((s.dch ch).dst + (s.chRec ch).len) % 2 ^ 32 else (s.dch ch).dst
        burstOpen := false, ready := false })).setF (F.DMA_CH_REM_VALUE ch) (s.f (F.DMA_CH_REM_VALUE ch) - (s.chRec ch).len)) →
      s.f (F.DMA_CH_REM_VALUE ch) ≤ (s.chRec ch).len →
      (s.dch ch).last = false →
      exec (.dmaBurstComplete ch) s = .next ((u.setF (F.DMA_CH_CUR_VALUE ch) (s.dch ch).nextDesc).fetchDesc ch)) ∧
  (∀ (ch : Fin 64) (s : State) (t : State) (u : State),
      s.f (F.DMA_CH_STAT_STATE ch) = 1 ∧ (s.dch ch).burstOpen = true ∧ nBeats (s.chRec ch).len ≤ (s.dch ch).beat →
      t = ((s.modRec ch (fun r => { r with state := 2 })).dmaYield ch) →
      (u = (t.modDch ch (fun x => { x with
        src := if (s.dch ch).sinc then ((s.dch ch).src + (s.chRec ch).len) % 2 ^ 32 else (s.dch ch).src
        dst := if (s.dch ch).dinc then ((s.dch ch).dst + (s.chRec ch).len) % 2 ^ 32 else (s.dch ch).dst
        burstOpen := false, ready := false })).setF (F.DMA_CH_REM_VALUE ch) (s.f (F.DMA_CH_REM_VALUE ch) - (s.chRec ch).len)) →
      s.f (F.DMA_CH_REM_VALUE ch) ≤ (s.chRec ch).len →
      (s.dch ch).last = true →
      exec (.dmaBurstComplete ch) s = .next (((u.setF (F.DMA_CH_STAT_STATE ch) 0).setFlag (F.DMA_CH_STAT_DONE ch) true).when (s.dch ch).irq (fun s => s.raise (128 + ch)))) ∧
  (∀ (ch : Fin 64) (fault : BurstFault) (s : State),
      ¬(s.f (F.DMA_CH_STAT_STATE ch) = 1 ∧ (s.dch ch).burstOpen = true) →
      exec (.dmaBurstFault ch fault) s = .next (s)) ∧
  (∀ (ch : Fin 64) (fault : BurstFault) (s : State) (a : Nat) (q : Nat),
      s.f (F.DMA_CH_STAT_STATE ch) = 1 ∧ (s.dch ch).burstOpen = true →
      (a = (if (s.dch ch).sinc then (s.chRec ch).src + 8 * (s.dch ch).beat else (s.chRec ch).src)) →
      q = (s.ioTranslate (s.f (F.DMA_CH_CFG_CTX ch)) ch a false).2.getD a →
      fault = .eccSource →
      exec (.dmaBurstFault ch fault) s = .next ((s.eccRecord q (eccStore q)).dmaEcc ch a)) ∧
  (∀ (ch : Fin 64) (fault : BurstFault) (s : State) (a : Nat) (q : Nat),
      s.f (F.DMA_CH_STAT_STATE ch) = 1 ∧ (s.dch ch).burstOpen = true →
      (a = (if (s.dch ch).sinc then (s.chRec ch).src + 8 * (s.dch ch).beat else (s.chRec ch).src)) →
      q = (s.ioTranslate (s.f (F.DMA_CH_CFG_CTX ch)) ch a false).2.getD a →
      fault = .busError →
      exec (.dmaBurstFault ch fault) s = .next (s.dmaError ch 5 a)) ∧
  (∀ (ch : Fin 64) (fault : BurstFault) (s : State) (a : Nat) (q : Nat),
      s.f (F.DMA_CH_STAT_STATE ch) = 1 ∧ (s.dch ch).burstOpen = true →
      (a = (if (s.dch ch).sinc then (s.chRec ch).src + 8 * (s.dch ch).beat else (s.chRec ch).src)) →
      q = (s.ioTranslate (s.f (F.DMA_CH_CFG_CTX ch)) ch a false).2.getD a →
      fault = .popLost →
      exec (.dmaBurstFault ch fault) s = .next (s.dmaError ch 8 a)) ∧
  (∀ (ch : Fin 64) (fault : BurstFault) (s : State) (a : Nat) (q : Nat) (d : Nat) (pd : Nat),
      s.f (F.DMA_CH_STAT_STATE ch) = 1 ∧ (s.dch ch).burstOpen = true →
      (a = (if (s.dch ch).sinc then (s.chRec ch).src + 8 * (s.dch ch).beat else (s.chRec ch).src)) →
      q = (s.ioTranslate (s.f (F.DMA_CH_CFG_CTX ch)) ch a false).2.getD a →
      fault = .islandReset →
      (d = (if (s.dch ch).dinc then (s.chRec ch).dst + 8 * (s.dch ch).beat else (s.chRec ch).dst)) →
      pd = (s.ioTranslate (s.f (F.DMA_CH_CFG_CTX ch)) ch d true).2.getD d →
      exec (.dmaBurstFault ch fault) s = .next (if (addrIsland q ≠ 3 && (s.inL3 (addrIsland q) || !s.inL3 (addrIsland pd))) = true then s.beatFault ch (.l3 a (addrIsland q)) true else s.beatFault ch (.l3 d (addrIsland pd)) false)) ∧
  (∀ (who : Who) (addr : Word) (value : Word) (s : State),
      (s.regOk who addr.toNat = false ∨ addr.toNat % 4 ≠ 0) →
      exec (.registerWrite who addr value) s = .next (s.busErr who)) ∧
  (∀ (who : Who) (addr : Word) (value : Word) (s : State),
      s.regOk who addr.toNat = true →
      addr.toNat % 4 = 0 →
      (addr.toNat < 0x40100000 ∨ 0x40200000 ≤ addr.toNat) →
      (addr.toNat < 0x40028000 ∨ 0x40030000 ≤ addr.toNat) →
      regAt addr.toNat = none →
      exec (.registerWrite who addr value) s = .next (s.busErr who)) ∧
  (∀ (who : Who) (addr : Word) (value : Word) (s : State) (g : RegDef),
      s.regOk who addr.toNat = true →
      addr.toNat % 4 = 0 →
      (addr.toNat < 0x40100000 ∨ 0x40200000 ≤ addr.toNat) →
      (addr.toNat < 0x40028000 ∨ 0x40030000 ≤ addr.toNat) →
      regAt addr.toNat = some g →
      s.wrBlock who addr.toNat value = none →
      exec (.registerWrite who addr value) s = .next (s.plainWrite g addr.toNat value)) ∧
  (∀ (who : Who) (addr : Word) (value : Word) (s : State) (g : RegDef) (t : State),
      s.regOk who addr.toNat = true →
      addr.toNat % 4 = 0 →
      (addr.toNat < 0x40100000 ∨ 0x40200000 ≤ addr.toNat) →
      (addr.toNat < 0x40028000 ∨ 0x40030000 ≤ addr.toNat) →
      regAt addr.toNat = some g →
      s.wrBlock who addr.toNat value = some t →
      exec (.registerWrite who addr value) s = .next (t)) ∧
  (∀ (who : Who) (addr : Word) (s : State) (t : State) (w : Word),
      s.regRead who addr.toNat = (t, some w) →
      exec (.registerReadClear who addr) s = .next (t.emit .bus (leBytes 4 w.toNat))) ∧
  (∀ (who : Who) (addr : Word) (s : State) (t : State) (c : CoreId) (p : Fin 3),
      s.regRead who addr.toNat = (t, none) →
      who = .core c p →
      t.issues c = true →
      exec (.registerReadClear who addr) s = .next ((((t.begins c).spend c t.freeNat).useFree).fkExc c (excAt 4 3 (some (toW addr.toNat))))) ∧
  (∀ (who : Who) (addr : Word) (s : State) (t : State),
      s.regRead who addr.toNat = (t, none) →
      (¬∃ c p, who = .core c p) →
      exec (.registerReadClear who addr) s = .next (t.busErr who)) ∧
  (∀ (r : Req) (s : State) (x : Option Sess) (s1 : State),
      Started s r 3 1 x s1 →
      r.payload.length = 6 →
      (leAt r.payload 4 2 = 0 ∨ 1024 < leAt r.payload 4 2) →
      exec (.regRead r) s = .next (s1.badParam (rkeyOf r) 4)) ∧
  (∀ (r : Req) (s : State) (x : Option Sess) (s1 : State) (n : Nat),
      Started s r 3 1 x s1 →
      r.payload.length = 6 →
      n = leAt r.payload 4 2 →
      1 ≤ n →
      n ≤ 1024 →
      (List.range n).all (fun i => s1.reqReg (leAt r.payload 0 4 + 4 * i)) = false →
      exec (.regRead r) s = .next (s1.badParam (rkeyOf r) 0)) ∧
  (∀ (r : Req) (s : State) (x : Option Sess) (s1 : State) (n : Nat),
      Started s r 3 1 x s1 →
      r.payload.length = 6 →
      n = leAt r.payload 4 2 →
      1 ≤ n →
      n ≤ 1024 →
      (List.range n).all (fun i => s1.reqReg (leAt r.payload 0 4 + 4 * i)) = true →
      exec (.regRead r) s = .next ((State.regReads n (leAt r.payload 0 4) s1).1.ok (rkeyOf r) (State.regReads n (leAt r.payload 0 4) s1).2)) ∧
  (∀ (r : Req) (s : State) (x : Option Sess) (s1 : State),
      Started s r 3 2 x s1 →
      r.payload.length = 12 →
      s1.reqReg (leAt r.payload 0 4) = false →
      exec (.regWrite r) s = .next (s1.badParam (rkeyOf r) 0)) ∧
  (∀ (r : Req) (s : State) (x : Option Sess) (s1 : State) (a : Nat) (t : State) (old : Word) (u : State) (back : Word),
      Started s r 3 2 x s1 →
      r.payload.length = 12 →
      a = leAt r.payload 0 4 →
      s1.reqReg a = true →
      s1.regRead whoStew a = (t, some old) →
      t.refusedAct whoStew a ((old &&& ~~~toW (leAt r.payload 4 4)) ||| (toW (leAt r.payload 8 4) &&& toW (leAt r.payload 4 4))) = none →
      (t.regWrite whoStew a ((old &&& ~~~toW (leAt r.payload 4 4)) ||| (toW (leAt r.payload 8 4) &&& toW (leAt r.payload 4 4)))).regRead whoStew a = (u, some back) →
      exec (.regWrite r) s = .next (u.ok (rkeyOf r) (leBytes 4 back.toNat))) ∧
  (∀ (r : Req) (s : State) (x : Option Sess) (s1 : State) (a : Nat) (t : State) (old : Word) (id : Nat),
      Started s r 3 2 x s1 →
      r.payload.length = 12 →
      a = leAt r.payload 0 4 →
      s1.reqReg a = true →
      s1.regRead whoStew a = (t, some old) →
      t.refusedAct whoStew a ((old &&& ~~~toW (leAt r.payload 4 4)) ||| (toW (leAt r.payload 8 4) &&& toW (leAt r.payload 4 4))) = some id →
      exec (.regWrite r) s = .next (t.cmdConflict (rkeyOf r) id))

/-- Map and program loads, modes, starts, overruns, strobes, checkpoints, captures, forces and silence complete and leave what R141 to R168 and R195 give -/
def Obligations.RakeAndPanCommandsActAsTheTablesSay : Prop :=
  (∀ (r : Req) (s : State) (x : Option Sess) (s1 : State),
      Started s r 4 2 x s1 →
      r.payload.length < 6 →
      exec (.loadMap r) s = .next (s1.badLen (rkeyOf r) 6)) ∧
  (∀ (r : Req) (s : State) (x : Option Sess) (s1 : State) (n : Nat),
      Started s r 4 2 x s1 →
      6 ≤ r.payload.length →
      n = (r.payload.length - 6) / 8 →
      (r.payload.length ≠ 6 + 8 * n ∨ 511 < n) →
      exec (.loadMap r) s = .next (s1.badLen (rkeyOf r) (6 + 8 * min n 511))) ∧
  (∀ (r : Req) (s : State) (x : Option Sess) (s1 : State) (n : Nat),
      Started s r 4 2 x s1 →
      r.payload.length = 6 + 8 * n →
      n ≤ 511 →
      panOf (leAt r.payload 0 1) = none →
      exec (.loadMap r) s = .next (s1.badParam (rkeyOf r) 0)) ∧
  (∀ (r : Req) (s : State) (x : Option Sess) (s1 : State) (n : Nat) (p : PanId),
      Started s r 4 2 x s1 →
      r.payload.length = 6 + 8 * n →
      n ≤ 511 →
      panOf (leAt r.payload 0 1) = some p →
      leAt r.payload 1 1 ≠ 0 →
      exec (.loadMap r) s = .next (s1.badParam (rkeyOf r) 1)) ∧
  (∀ (r : Req) (s : State) (x : Option Sess) (s1 : State) (n : Nat) (p : PanId),
      Started s r 4 2 x s1 →
      r.payload.length = 6 + 8 * n →
      n ≤ 511 →
      panOf (leAt r.payload 0 1) = some p →
      leAt r.payload 1 1 = 0 →
      ((s1.panMode p ≠ 0 ∧ s1.panMode p ≠ 1) ∨ s1.hsPaired = true) →
      exec (.loadMap r) s = .next ((s1.partDrop p).wrongState (rkeyOf r) (s1.panMode p))) ∧
  (∀ (r : Req) (s : State) (x : Option Sess) (s1 : State) (n : Nat) (p : PanId),
      Started s r 4 2 x s1 →
      r.payload.length = 6 + 8 * n →
      n ≤ 511 →
      panOf (leAt r.payload 0 1) = some p →
      leAt r.payload 1 1 = 0 →
      (¬((s1.panMode p ≠ 0 ∧ s1.panMode p ≠ 1) ∨ s1.hsPaired = true)) →
      leAt r.payload 2 2 ≠ (s1.pan p).part.length →
      exec (.loadMap r) s = .next ((s1.partDrop p).badParam (rkeyOf r) 2)) ∧
  (∀ (r : Req) (s : State) (x : Option Sess) (s1 : State) (n : Nat) (p : PanId),
      Started s r 4 2 x s1 →
      r.payload.length = 6 + 8 * n →
      n ≤ 511 →
      panOf (leAt r.payload 0 1) = some p →
      leAt r.payload 1 1 = 0 →
      (¬((s1.panMode p ≠ 0 ∧ s1.panMode p ≠ 1) ∨ s1.hsPaired = true)) →
      leAt r.payload 2 2 = (s1.pan p).part.length →
      (s1.pan p).partTotal ≠ none →
      (s1.pan p).partTotal ≠ some (leAt r.payload 4 2) →
      exec (.loadMap r) s = .next ((s1.partDrop p).badParam (rkeyOf r) 4)) ∧
  (∀ (r : Req) (s : State) (x : Option Sess) (s1 : State) (n : Nat) (p : PanId),
      Started s r 4 2 x s1 →
      r.payload.length = 6 + 8 * n →
      n ≤ 511 →
      panOf (leAt r.payload 0 1) = some p →
      leAt r.payload 1 1 = 0 →
      (¬((s1.panMode p ≠ 0 ∧ s1.panMode p ≠ 1) ∨ s1.hsPaired = true)) →
      leAt r.payload 2 2 = (s1.pan p).part.length →
      ((s1.pan p).partTotal = none ∨ (s1.pan p).partTotal = some (leAt r.payload 4 2)) →
      leAt r.payload 4 2 < leAt r.payload 2 2 + n →
      exec (.loadMap r) s = .next ((s1.partDrop p).badParam (rkeyOf r) (6 + 8 * (leAt r.payload 4 2 - leAt r.payload 2 2)))) ∧
  (∀ (r : Req) (s : State) (x : Option Sess) (s1 : State) (n : Nat) (p : PanId) (l : List Nat),
      Started s r 4 2 x s1 →
      r.payload.length = 6 + 8 * n →
      n ≤ 511 →
      panOf (leAt r.payload 0 1) = some p →
      leAt r.payload 1 1 = 0 →
      (¬((s1.panMode p ≠ 0 ∧ s1.panMode p ≠ 1) ∨ s1.hsPaired = true)) →
      leAt r.payload 2 2 = (s1.pan p).part.length →
      ((s1.pan p).partTotal = none ∨ (s1.pan p).partTotal = some (leAt r.payload 4 2)) →
      leAt r.payload 2 2 + n ≤ leAt r.payload 4 2 →
      l = (s1.pan p).part ++ (List.range n).map (fun i => leAt r.payload (6 + 8 * i) 8) →
      l.length = leAt r.payload 4 2 →
      exec (.loadMap r) s = .next (s1.mapEnd (rkeyOf r) p l)) ∧
  (∀ (r : Req) (s : State) (x : Option Sess) (s1 : State) (n : Nat) (p : PanId) (l : List Nat),
      Started s r 4 2 x s1 →
      r.payload.length = 6 + 8 * n →
      n ≤ 511 →
      panOf (leAt r.payload 0 1) = some p →
      leAt r.payload 1 1 = 0 →
      (¬((s1.panMode p ≠ 0 ∧ s1.panMode p ≠ 1) ∨ s1.hsPaired = true)) →
      leAt r.payload 2 2 = (s1.pan p).part.length →
      ((s1.pan p).partTotal = none ∨ (s1.pan p).partTotal = some (leAt r.payload 4 2)) →
      leAt r.payload 2 2 + n ≤ leAt r.payload 4 2 →
      l = (s1.pan p).part ++ (List.range n).map (fun i => leAt r.payload (6 + 8 * i) 8) →
      l.length ≠ leAt r.payload 4 2 →
      exec (.loadMap r) s = .next ((s1.modPan p (fun x => { x with part := l, partTotal := some (leAt r.payload 4 2) })).ok (rkeyOf r) (leBytes 4 0))) ∧
  (∀ (s : State) (k : RKey) (p : PanId) (l : List Nat) (t : State),
      t = s.partDrop p →
      (∀ i, t.mapCheck p l = .bad i → s.mapEnd k p l = t.badParam k ((6 + 8 * i) % 65536)) ∧
      (∀ id, t.mapCheck p l = .conflict id → s.mapEnd k p l = t.cmdConflict k id) ∧ (∀ id, t.mapCheck p l = .limit id → s.mapEnd k p l = t.limit k id) ∧
      (t.mapCheck p l = .ok → t.panBusy p.other = false ∨ tApply (nOut l + nOut (t.pan p.other).map) = t.f F.RAKE_TIME_TAPPLY →
        s.mapEnd k p l = (t.mapInstall p l).ok k (leBytes 4 (100 * tApply (nOut l + nOut (t.pan p.other).map)))) ∧
      (t.mapCheck p l = .ok → t.panBusy p.other = true → tApply (nOut l + nOut (t.pan p.other).map) ≠ t.f F.RAKE_TIME_TAPPLY →
        s.mapEnd k p l = t.wrongState k (t.panMode p.other))) ∧
  (∀ (r : Req) (s : State) (x : Option Sess) (s1 : State),
      Started s r 4 1 x s1 →
      r.payload.length < 7 →
      exec (.loadBlock r) s = .next (s1.badLen (rkeyOf r) 7)) ∧
  (∀ (r : Req) (s : State) (x : Option Sess) (s1 : State),
      Started s r 4 1 x s1 →
      7 ≤ r.payload.length →
      panOf (leAt r.payload 0 1) = none →
      exec (.loadBlock r) s = .next (s1.badParam (rkeyOf r) 0)) ∧
  (∀ (r : Req) (s : State) (x : Option Sess) (s1 : State) (p : PanId),
      Started s r 4 1 x s1 →
      7 ≤ r.payload.length →
      panOf (leAt r.payload 0 1) = some p →
      1023 < leAt r.payload 1 2 →
      exec (.loadBlock r) s = .next (s1.badParam (rkeyOf r) 1)) ∧
  (∀ (r : Req) (s : State) (x : Option Sess) (s1 : State) (p : PanId),
      Started s r 4 1 x s1 →
      7 ≤ r.payload.length →
      panOf (leAt r.payload 0 1) = some p →
      leAt r.payload 1 2 ≤ 1023 →
      ((s1.panMode p ≠ 0 ∧ s1.panMode p ≠ 1) ∨ s1.hsPaired = true) →
      exec (.loadBlock r) s = .next (s1.wrongState (rkeyOf r) (s1.panMode p))) ∧
  (∀ (r : Req) (s : State) (x : Option Sess) (s1 : State) (p : PanId) (new : Tbl (List Byte)),
      Started s r 4 1 x s1 →
      7 ≤ r.payload.length →
      panOf (leAt r.payload 0 1) = some p →
      leAt r.payload 1 2 ≤ 1023 →
      (¬((s1.panMode p ≠ 0 ∧ s1.panMode p ≠ 1) ∨ s1.hsPaired = true)) →
      new = tblSet (s1.pan p).blocks (leAt r.payload 1 2) (blockPut (tblGet (s1.pan p).blocks (leAt r.payload 1 2)) (leAt r.payload 3 4) (r.payload.drop 7)) →
      (0x100000 < leAt r.payload 3 4 + (r.payload.drop 7).length ∨ 0x100000 < blockBytes new) →
      exec (.loadBlock r) s = .next (s1.limit (rkeyOf r) 0x0503)) ∧
  (∀ (r : Req) (s : State) (x : Option Sess) (s1 : State) (p : PanId) (new : Tbl (List Byte)) (t : State),
      Started s r 4 1 x s1 →
      7 ≤ r.payload.length →
      panOf (leAt r.payload 0 1) = some p →
      leAt r.payload 1 2 ≤ 1023 →
      (¬((s1.panMode p ≠ 0 ∧ s1.panMode p ≠ 1) ∨ s1.hsPaired = true)) →
      new = tblSet (s1.pan p).blocks (leAt r.payload 1 2) (blockPut (tblGet (s1.pan p).blocks (leAt r.payload 1 2)) (leAt r.payload 3 4) (r.payload.drop 7)) →
      (¬(0x100000 < leAt r.payload 3 4 + (r.payload.drop 7).length ∨ 0x100000 < blockBytes new)) →
      (t = (s1.pdForPan p).modPan p (fun x => { x with blocks := new, crcs := if leAt r.payload 1 2 = 0 then [] else tblErase x.crcs (leAt r.payload 1 2) })) →
      exec (.loadBlock r) s = .next ((if (t.pan p).progOk = true then ((if t.panMode p = 0 then t.setMode p 1 else t).progCopy p).panRelease p else t).ok (rkeyOf r) [])) ∧
  (∀ (r : Req) (s : State) (x : Option Sess) (s1 : State),
      Started s r 4 3 x s1 →
      r.payload.length = 2 →
      panOf (leAt r.payload 0 1) = none →
      exec (.panMode r) s = .next (s1.badParam (rkeyOf r) 0)) ∧
  (∀ (r : Req) (s : State) (x : Option Sess) (s1 : State) (p : PanId),
      Started s r 4 3 x s1 →
      r.payload.length = 2 →
      panOf (leAt r.payload 0 1) = some p →
      2 < leAt r.payload 1 1 →
      exec (.panMode r) s = .next (s1.badParam (rkeyOf r) 1)) ∧
  (∀ (r : Req) (s : State) (x : Option Sess) (s1 : State) (p : PanId),
      Started s r 4 3 x s1 →
      r.payload.length = 2 →
      panOf (leAt r.payload 0 1) = some p →
      leAt r.payload 1 1 = 0 →
      s1.panMode p = 3 →
      exec (.panMode r) s = .next ((s1.modPan p (fun x => { x with stopReq := true })).ok (rkeyOf r) [])) ∧
  (∀ (r : Req) (s : State) (x : Option Sess) (s1 : State) (p : PanId),
      Started s r 4 3 x s1 →
      r.payload.length = 2 →
      panOf (leAt r.payload 0 1) = some p →
      leAt r.payload 1 1 = 0 →
      s1.panMode p = 4 →
      exec (.panMode r) s = .next ((s1.setMode p 1).ok (rkeyOf r) [])) ∧
  (∀ (r : Req) (s : State) (x : Option Sess) (s1 : State) (p : PanId),
      Started s r 4 3 x s1 →
      r.payload.length = 2 →
      panOf (leAt r.payload 0 1) = some p →
      leAt r.payload 1 1 = 0 →
      s1.panMode p ≠ 3 →
      s1.panMode p ≠ 4 →
      exec (.panMode r) s = .next (s1.wrongState (rkeyOf r) (s1.panMode p))) ∧
  (∀ (r : Req) (s : State) (x : Option Sess) (s1 : State) (p : PanId) (warm : Bool),
      Started s r 4 3 x s1 →
      r.payload.length = 2 →
      panOf (leAt r.payload 0 1) = some p →
      1 ≤ leAt r.payload 1 1 ∧ leAt r.payload 1 1 ≤ 2 →
      warm = (leAt r.payload 1 1 == 1) →
      s1.startCheck p warm = .wrong →
      exec (.panMode r) s = .next (s1.wrongState (rkeyOf r) (s1.panMode p))) ∧
  (∀ (r : Req) (s : State) (x : Option Sess) (s1 : State) (p : PanId) (warm : Bool),
      Started s r 4 3 x s1 →
      r.payload.length = 2 →
      panOf (leAt r.payload 0 1) = some p →
      1 ≤ leAt r.payload 1 1 ∧ leAt r.payload 1 1 ≤ 2 →
      warm = (leAt r.payload 1 1 == 1) →
      s1.startCheck p warm = .state →
      exec (.panMode r) s = .next ((s1.accept (rkeyOf r)).wrongState (rkeyOf r) ((s1.accept (rkeyOf r)).panMode p))) ∧
  (∀ (r : Req) (s : State) (x : Option Sess) (s1 : State) (p : PanId) (warm : Bool) (q : Nat),
      Started s r 4 3 x s1 →
      r.payload.length = 2 →
      panOf (leAt r.payload 0 1) = some p →
      1 ≤ leAt r.payload 1 1 ∧ leAt r.payload 1 1 ≤ 2 →
      warm = (leAt r.payload 1 1 == 1) →
      s1.startCheck p warm = .failed q →
      exec (.panMode r) s = .next ((s1.accept (rkeyOf r)).startRefuse p (rkeyOf r) (.failed q))) ∧
  (∀ (r : Req) (s : State) (x : Option Sess) (s1 : State) (p : PanId) (warm : Bool) (q : Nat),
      Started s r 4 3 x s1 →
      r.payload.length = 2 →
      panOf (leAt r.payload 0 1) = some p →
      1 ≤ leAt r.payload 1 1 ∧ leAt r.payload 1 1 ≤ 2 →
      warm = (leAt r.payload 1 1 == 1) →
      s1.startCheck p warm = .limit q →
      exec (.panMode r) s = .next ((s1.accept (rkeyOf r)).limit (rkeyOf r) q)) ∧
  (∀ (r : Req) (s : State) (x : Option Sess) (s1 : State) (p : PanId) (warm : Bool),
      Started s r 4 3 x s1 →
      r.payload.length = 2 →
      panOf (leAt r.payload 0 1) = some p →
      1 ≤ leAt r.payload 1 1 ∧ leAt r.payload 1 1 ≤ 2 →
      warm = (leAt r.payload 1 1 == 1) →
      s1.startCheck p warm = .go →
      exec (.panMode r) s = .next ((s1.accept (rkeyOf r)).panStart p warm (some (rkeyOf r)))) ∧
  (∀ (s : State) (p : PanId) (warm : Bool) (share : Nat),
      (share = (if p = .a then s.f F.RAKE_RET_SPLIT else 32 - s.f F.RAKE_RET_SPLIT)) →
      ((s.panMode p ≠ 1 ∧ s.panMode p ≠ 4) ∨ s.flag F.SYSCTL_RSTLAST_STORM = true → s.startCheck p warm = .wrong) ∧
      (s.panMode p = 1 ∨ s.panMode p = 4 → s.flag F.SYSCTL_RSTLAST_STORM = false → s.flag F.RAKE_CTRL_EN = false ∨ (s.pan p).map = [] → s.startCheck p warm = .state) ∧
      (s.panMode p = 1 ∨ s.panMode p = 4 → s.flag F.SYSCTL_RSTLAST_STORM = false → s.flag F.RAKE_CTRL_EN = true → (s.pan p).map ≠ [] →
        ((s.pan p).progOk = false → s.startCheck p warm = .failed 0x0512) ∧
        ((s.pan p).progOk = true → share < Config.progRetKib (s.pan p).header → s.startCheck p warm = .failed 0x0514) ∧
        ((s.pan p).progOk = true → Config.progRetKib (s.pan p).header ≤ share → s.timeOk s.pA.map s.pB.map p = false → s.startCheck p warm = .limit 0x0502) ∧
        ((s.pan p).progOk = true → Config.progRetKib (s.pan p).header ≤ share → s.timeOk s.pA.map s.pB.map p = true → s.flag F.RING_HS_CFG_EN = false →
          s.startCheck p warm = if warm && (s.splitNew.retainSrc p).isNone then .failed 0x0510 else .go))) ∧
  (∀ (p : PanId) (s : State),
      s.panMode p = 2 →
      exec (.panStartStepsDone p) s = .next (s.startDone p)) ∧
  (∀ (p : PanId) (s : State),
      s.panMode p ≠ 2 →
      exec (.panStartStepsDone p) s = .next (s)) ∧
  (∀ (p : PanId) (s : State),
      (s.pan p).unstored = false →
      exec (.editStored p) s = .next (s)) ∧
  (∀ (p : PanId) (s : State) (e : List Byte),
      (s.pan p).unstored = true →
      e = ((s.pan p).code.filter (fun b => tblFind (s.pan p).blocks b.1 != some b.2)).flatMap (·.2) →
      exec (.editStored p) s = .next (((s.extend 7 (Config.sha384 e)).modPan p (fun x => { x with
        blocks := x.code, unstored := false
        crcs := ((x.blocks.filter (fun b => (tblFind x.code b.1).isNone)).map (fun b => (b.1, (none : Option Nat))) ++
          (x.code.filter (fun b => tblFind x.blocks b.1 != some b.2)).map (fun b => (b.1, some (crc32c b.2)))).foldl (fun t c => tblSet t c.1 c.2) x.crcs })).raise 268)) ∧
  (∀ (p : PanId) (s : State),
      ¬(s.panMode p = 3 ∧ (s.pan p).logic = true ∧ (s.pan p).overran = false ∧ s.flag (F.RAKE_PAN_STATE_STANDBY p.num) = false) →
      exec (.overrun p) s = .next (s)) ∧
  (∀ (p : PanId) (s : State) (t : State),
      s.panMode p = 3 ∧ (s.pan p).logic = true ∧ (s.pan p).overran = false ∧ s.flag (F.RAKE_PAN_STATE_STANDBY p.num) = false →
      t = (((s.modPan p (fun x => { x with overran := true, ovrTotal := satAdd 65535 x.ovrTotal 1 })).setCons p ((s.pan p).cons + 1)).incF (F.RAKE_PAN_CNT_OVR p.num) 1).rakeEvt 4 p →
      (t.f (F.RAKE_PAN_OVR_NCONS p.num) < (s.pan p).cons + 1 ∨ t.f (F.RAKE_PAN_CFG_ACTION p.num) = 2) →
      exec (.overrun p) s = .next (t.faultStop p)) ∧
  (∀ (p : PanId) (s : State) (t : State),
      s.panMode p = 3 ∧ (s.pan p).logic = true ∧ (s.pan p).overran = false ∧ s.flag (F.RAKE_PAN_STATE_STANDBY p.num) = false →
      t = (((s.modPan p (fun x => { x with overran := true, ovrTotal := satAdd 65535 x.ovrTotal 1 })).setCons p ((s.pan p).cons + 1)).incF (F.RAKE_PAN_CNT_OVR p.num) 1).rakeEvt 4 p →
      (s.pan p).cons + 1 ≤ t.f (F.RAKE_PAN_OVR_NCONS p.num) →
      t.f (F.RAKE_PAN_CFG_ACTION p.num) ≠ 2 →
      exec (.overrun p) s = .next (t.updCycle p.num false)) ∧
  (∀ (p : PanId) (s : State),
      s.panMode p = 3 ∧ (s.pan p).logic = true ∧ (s.pan p).overran = true →
      exec (.hardLimitExpiry p) s = .next (s.faultStop p)) ∧
  (∀ (p : PanId) (s : State),
      ¬(s.panMode p = 3 ∧ (s.pan p).logic = true ∧ (s.pan p).overran = true) →
      exec (.hardLimitExpiry p) s = .next (s)) ∧
  (∀ (who : Who) (p : PanId) (value : Word) (s : State) (pl : Fin 3),
      s.regOk who (A.RAKE_PAN_DONE p.num) = true →
      who = .core p.core pl →
      value.toNat % 2 = 1 →
      exec (.rakePanDone who p value) s = .next (s.panDone p)) ∧
  (∀ (who : Who) (p : PanId) (value : Word) (s : State) (pl : Fin 3),
      s.regOk who (A.RAKE_PAN_DONE p.num) = true →
      who = .core p.core pl →
      value.toNat % 2 = 0 →
      exec (.rakePanDone who p value) s = .next (s)) ∧
  (∀ (who : Who) (p : PanId) (value : Word) (s : State),
      s.regOk who (A.RAKE_PAN_DONE p.num) = true →
      (∀ pl, who ≠ .core p.core pl) →
      exec (.rakePanDone who p value) s = .next (s.busErr who)) ∧
  (∀ (p : PanId) (s : State),
      (s.pan p).strobe = false →
      exec (.applyStrobe p) s = .next (s)) ∧
  (∀ (p : PanId) (s : State) (sh : List Shadow) (t : State) (u : State) (v : State),
      (s.pan p).strobe = true →
      sh = (s.pan p).shadow →
      (t = (if (s.pan p).linkLost then s.modPan p (fun x => { x with strobe := false, shadow := [], linkLost := false }) else (s.modPan p (fun x => { x with strobe := false, shadow := [], linkLost := false })).silEnd p)) →
      u = (sh.filter (fun (x : Shadow) => shadowStage x == 2)).foldl (State.applyOne sh) ((sh.filter (fun (x : Shadow) => shadowStage x == 1)).foldl (State.applyOne sh) ((sh.filter (fun (x : Shadow) => shadowStage x == 0)).foldl (State.applyOne sh) t)) →
      v = u.applyCan sh →
      exec (.applyStrobe p) s = .next (if v.panMode p = 3 then v else v.panSilent p)) ∧
  (∀ (p : PanId) (s : State) (c : Ckpt),
      (s.pan p).ckpt = some c →
      exec (.checkpointWriteDone p) s = .next ((s.ckptWrite p c).modPan p (fun x => { x with ckpt := none, last := some c }))) ∧
  (∀ (p : PanId) (s : State),
      (s.pan p).ckpt = none →
      exec (.checkpointWriteDone p) s = .next (s)) ∧
  (∀ (p : PanId) (s : State),
      (s.pan p).pfw = 1 →
      exec (.pfwSaveTimeout p) s = .next (((s.modPan p (fun x => { x with pfw := 3, final := x.last })).setFbit F.RAKE_PFW_OLD p.num true).raise 271)) ∧
  (∀ (p : PanId) (s : State),
      (s.pan p).pfw ≠ 1 →
      exec (.pfwSaveTimeout p) s = .next (s)) ∧
  (∀ (s : State),
      (s.flag F.RAKE_PFW_ACTIVE = true ∧ ((s.pA.final ≠ none ∧ 2 ≤ s.pA.pfw) ∨ (s.pB.final ≠ none ∧ 2 ≤ s.pB.pfw))) →
      exec (.pfwSaved) s = .next (((s.pfwSave .a).pfwSave .b).raise 270)) ∧
  (∀ (s : State),
      (¬(s.flag F.RAKE_PFW_ACTIVE = true ∧ ((s.pA.final ≠ none ∧ 2 ≤ s.pA.pfw) ∨ (s.pB.final ≠ none ∧ 2 ≤ s.pB.pfw)))) →
      exec (.pfwSaved) s = .next (s)) ∧
  (∀ (t : Fin 8) (s : State),
      bit s.rtrig t = false →
      exec (.triggerCapture t) s = .next (s)) ∧
  (∀ (t : Fin 8) (s : State) (u : State),
      bit s.rtrig t = true →
      u = { s with rtrig := putBit s.rtrig t false } →
      (u.flag F.RAKE_CTRL_EN = false ∨ u.flag (F.RAKE_TRIG_CFG_EN t) = false) →
      exec (.triggerCapture t) s = .next (u)) ∧
  (∀ (t : Fin 8) (s : State) (u : State),
      bit s.rtrig t = true →
      u = { s with rtrig := putBit s.rtrig t false } →
      u.flag F.RAKE_CTRL_EN = true →
      u.flag (F.RAKE_TRIG_CFG_EN t) = true →
      bit u.rake.trigBusy t = true →
      exec (.triggerCapture t) s = .next (u.raise 273)) ∧
  (∀ (t : Fin 8) (s : State) (u : State) (v : State),
      bit s.rtrig t = true →
      u = { s with rtrig := putBit s.rtrig t false } →
      u.flag F.RAKE_CTRL_EN = true →
      u.flag (F.RAKE_TRIG_CFG_EN t) = true →
      bit u.rake.trigBusy t = false →
      v = State.captPan t (State.captPan t { u with rake := { u.rake with trigBusy := putBit u.rake.trigBusy t true } } .a) .b →
      exec (.triggerCapture t) s = .next (v.canLatch (2 + t) (trigEntries v.pA.map t ++ trigEntries v.pB.map t))) ∧
  (∀ (t : Fin 8) (s : State),
      bit s.rake.trigBusy t = false →
      exec (.triggerCaptureDone t) s = .next (s)) ∧
  (∀ (t : Fin 8) (s : State) (u : State),
      bit s.rake.trigBusy t = true →
      u = { s with rake := { s.rake with trigBusy := putBit s.rake.trigBusy t false } } →
      exec (.triggerCaptureDone t) s = .next ((State.captCount t (State.captCount t (u.canLetAll (2 + t)) .a) .b).raise (274 + t))) ∧
  (∀ (r : Req) (s : State) (x : Option Sess) (s1 : State),
      Started s r 4 6 x s1 →
      r.payload.length = 6 →
      panOf (leAt r.payload 0 1) = none →
      exec (.force r) s = .next (s1.badParam (rkeyOf r) 0)) ∧
  (∀ (r : Req) (s : State) (x : Option Sess) (s1 : State) (p : PanId),
      Started s r 4 6 x s1 →
      r.payload.length = 6 →
      panOf (leAt r.payload 0 1) = some p →
      forceable (leAt r.payload 1 4) = false →
      exec (.force r) s = .next (s1.badParam (rkeyOf r) 1)) ∧
  (∀ (r : Req) (s : State) (x : Option Sess) (s1 : State) (p : PanId),
      Started s r 4 6 x s1 →
      r.payload.length = 6 →
      panOf (leAt r.payload 0 1) = some p →
      forceable (leAt r.payload 1 4) = true →
      1 < leAt r.payload 5 1 →
      exec (.force r) s = .next (s1.badParam (rkeyOf r) 5)) ∧
  (∀ (r : Req) (s : State) (x : Option Sess) (s1 : State) (p : PanId),
      Started s r 4 6 x s1 →
      r.payload.length = 6 →
      panOf (leAt r.payload 0 1) = some p →
      forceable (leAt r.payload 1 4) = true →
      leAt r.payload 5 1 ≤ 1 →
      (s1.pan p).forces.any (fun x => x.1 == leAt r.payload 1 4) = false ∧ 256 ≤ (s1.pan p).forces.length →
      exec (.force r) s = .next (s1.limit (rkeyOf r) 0x0504)) ∧
  (∀ (r : Req) (s : State) (x : Option Sess) (s1 : State) (p : PanId) (t : State),
      Started s r 4 6 x s1 →
      r.payload.length = 6 →
      panOf (leAt r.payload 0 1) = some p →
      forceable (leAt r.payload 1 4) = true →
      leAt r.payload 5 1 ≤ 1 →
      ¬((s1.pan p).forces.any (fun x => x.1 == leAt r.payload 1 4) = false ∧ 256 ≤ (s1.pan p).forces.length) →
      t = (s1.modPan p (fun x => { x with forces := (s1.pan p).forces.filter (fun f => f.1 != leAt r.payload 1 4) ++ [(leAt r.payload 1 4, leAt r.payload 5 1 == 1)] })).forceRegs p →
      leAt r.payload 1 4 < 0x20000 * 8 →
      exec (.force r) s = .next ((t.setMbit (t.thirdBuf p + leAt r.payload 1 4 / 8) (leAt r.payload 1 4 % 8) (leAt r.payload 5 1 == 1)).ok (rkeyOf r) [])) ∧
  (∀ (r : Req) (s : State) (x : Option Sess) (s1 : State) (p : PanId) (t : State),
      Started s r 4 6 x s1 →
      r.payload.length = 6 →
      panOf (leAt r.payload 0 1) = some p →
      forceable (leAt r.payload 1 4) = true →
      leAt r.payload 5 1 ≤ 1 →
      ¬((s1.pan p).forces.any (fun x => x.1 == leAt r.payload 1 4) = false ∧ 256 ≤ (s1.pan p).forces.length) →
      t = (s1.modPan p (fun x => { x with forces := (s1.pan p).forces.filter (fun f => f.1 != leAt r.payload 1 4) ++ [(leAt r.payload 1 4, leAt r.payload 5 1 == 1)] })).forceRegs p →
      0x20000 * 8 ≤ leAt r.payload 1 4 →
      exec (.force r) s = .next (t.ok (rkeyOf r) [])) ∧
  (∀ (r : Req) (s : State) (x : Option Sess) (s1 : State),
      Started s r 4 7 x s1 →
      r.payload.length = 5 →
      panOf (leAt r.payload 0 1) = none →
      exec (.unforce r) s = .next (s1.badParam (rkeyOf r) 0)) ∧
  (∀ (r : Req) (s : State) (x : Option Sess) (s1 : State) (p : PanId),
      Started s r 4 7 x s1 →
      r.payload.length = 5 →
      panOf (leAt r.payload 0 1) = some p →
      leAt r.payload 1 4 ≠ 0xFFFFFFFF →
      forceable (leAt r.payload 1 4) = false →
      exec (.unforce r) s = .next (s1.badParam (rkeyOf r) 1)) ∧
  (∀ (r : Req) (s : State) (x : Option Sess) (s1 : State) (p : PanId),
      Started s r 4 7 x s1 →
      r.payload.length = 5 →
      panOf (leAt r.payload 0 1) = some p →
      leAt r.payload 1 4 = 0xFFFFFFFF →
      exec (.unforce r) s = .next (((s1.modPan p (fun x => { x with forces := [] })).forceRegs p).ok (rkeyOf r) [])) ∧
  (∀ (r : Req) (s : State) (x : Option Sess) (s1 : State) (p : PanId),
      Started s r 4 7 x s1 →
      r.payload.length = 5 →
      panOf (leAt r.payload 0 1) = some p →
      leAt r.payload 1 4 ≠ 0xFFFFFFFF →
      forceable (leAt r.payload 1 4) = true →
      exec (.unforce r) s = .next (((s1.modPan p (fun x => { x with forces := x.forces.filter (fun f => f.1 != leAt r.payload 1 4) })).forceRegs p).ok (rkeyOf r) [])) ∧
  (∀ (r : Req) (s : State) (x : Option Sess) (s1 : State),
      Started s r 4 8 x s1 →
      r.payload.length = 7 →
      panOf (leAt r.payload 0 1) = none →
      exec (.imageRead r) s = .next (s1.badParam (rkeyOf r) 0)) ∧
  (∀ (r : Req) (s : State) (x : Option Sess) (s1 : State) (p : PanId),
      Started s r 4 8 x s1 →
      r.payload.length = 7 →
      panOf (leAt r.payload 0 1) = some p →
      0x80000 ≤ leAt r.payload 1 4 →
      exec (.imageRead r) s = .next (s1.badParam (rkeyOf r) 1)) ∧
  (∀ (r : Req) (s : State) (x : Option Sess) (s1 : State) (p : PanId),
      Started s r 4 8 x s1 →
      r.payload.length = 7 →
      panOf (leAt r.payload 0 1) = some p →
      leAt r.payload 1 4 < 0x80000 →
      (leAt r.payload 5 2 < 1 ∨ 4096 < leAt r.payload 5 2 ∨ 0x80000 < leAt r.payload 1 4 + leAt r.payload 5 2) →
      exec (.imageRead r) s = .next (s1.badParam (rkeyOf r) 5)) ∧
  (∀ (r : Req) (s : State) (x : Option Sess) (s1 : State) (p : PanId),
      Started s r 4 8 x s1 →
      r.payload.length = 7 →
      panOf (leAt r.payload 0 1) = some p →
      1 ≤ leAt r.payload 5 2 →
      leAt r.payload 5 2 ≤ 4096 →
      leAt r.payload 1 4 + leAt r.payload 5 2 ≤ 0x80000 →
      exec (.imageRead r) s = .next (s1.ok (rkeyOf r) ((List.range (leAt r.payload 5 2)).map (fun i => memGet s1.mem (s1.imgAt p (leAt r.payload 1 4 + i)))))) ∧
  (∀ (who : Who) (value : Word) (s : State),
      s.regOk who (A.RAKE_CTRL) = true →
      value.toNat % 2 = 0 →
      (s.panBusy .a = true ∨ s.panBusy .b = true) →
      exec (.rakeCtrlWrite who value) s = .next (s)) ∧
  (∀ (who : Who) (value : Word) (s : State),
      s.regOk who (A.RAKE_CTRL) = true →
      (value.toNat % 2 = 1 ∨ (s.panBusy .a = false ∧ s.panBusy .b = false)) →
      exec (.rakeCtrlWrite who value) s = .next (s.setF F.RAKE_CTRL_EN (value.toNat % 2))) ∧
  (∀ (p : PanId) (s : State),
      exec (.silenceTimeout p) s = .next (s.panSilent p)) ∧
  (∀ (p : PanId) (b : Fin 10) (s : State),
      exec (.bridgeHoldExpiry p b) s = .next (s.bankOff p b))

/-- Staging, trials, confirmation, status, forwarding and the service port complete and leave what R411 to R426 give -/
def Obligations.StagingTrialsForwardingAndUsbActAsTheTablesSay : Prop :=
  (∀ (r : Req) (s : State) (x : Option Sess) (s1 : State) (q : Token),
      Started s r 10 1 x s1 →
      s1.peerToken ⟨rkeyOf r, x, r.payload⟩ = some q →
      exec (.stageBegin r) s = .next ((s1.finish (rkeyOf r) stBusyMaint (s1.holder q)).raise 404)) ∧
  (∀ (r : Req) (s : State) (x : Option Sess) (s1 : State) (q : Token),
      Started s r 10 2 x s1 →
      s1.peerToken ⟨rkeyOf r, x, r.payload⟩ = some q →
      exec (.stageData r) s = .next ((s1.finish (rkeyOf r) stBusyMaint (s1.holder q)).raise 404)) ∧
  (∀ (r : Req) (s : State) (x : Option Sess) (s1 : State) (q : Token),
      Started s r 10 3 x s1 →
      s1.peerToken ⟨rkeyOf r, x, r.payload⟩ = some q →
      exec (.stageEnd r) s = .next ((s1.finish (rkeyOf r) stBusyMaint (s1.holder q)).raise 404)) ∧
  (∀ (r : Req) (s : State) (x : Option Sess) (s1 : State) (t : State),
      Started s r 10 1 x s1 →
      s1.peerToken ⟨rkeyOf r, x, r.payload⟩ = none →
      t = s1.takePeer ⟨rkeyOf r, x, r.payload⟩ →
      r.payload.length = 16 →
      t.upd.recov ≠ 1 →
      t.runIs 4 = false →
      exec (.stageBegin r) s = .next (t.bankWrong (rkeyOf r))) ∧
  (∀ (r : Req) (s : State) (x : Option Sess) (s1 : State) (t : State),
      Started s r 10 1 x s1 →
      s1.peerToken ⟨rkeyOf r, x, r.payload⟩ = none →
      t = s1.takePeer ⟨rkeyOf r, x, r.payload⟩ →
      r.payload.length = 16 →
      (t.upd.recov = 1 ∨ t.runIs 4 = true) →
      leAt r.payload 0 2 ≠ 0x4B50 →
      exec (.stageBegin r) s = .next (t.badParam (rkeyOf r) 0)) ∧
  (∀ (r : Req) (s : State) (x : Option Sess) (s1 : State) (t : State),
      Started s r 10 1 x s1 →
      s1.peerToken ⟨rkeyOf r, x, r.payload⟩ = none →
      t = s1.takePeer ⟨rkeyOf r, x, r.payload⟩ →
      r.payload.length = 16 →
      (t.upd.recov = 1 ∨ t.runIs 4 = true) →
      leAt r.payload 0 2 = 0x4B50 →
      leAt r.payload 2 1 ≠ 1 →
      exec (.stageBegin r) s = .next (t.badParam (rkeyOf r) 2)) ∧
  (∀ (r : Req) (s : State) (x : Option Sess) (s1 : State) (t : State),
      Started s r 10 1 x s1 →
      s1.peerToken ⟨rkeyOf r, x, r.payload⟩ = none →
      t = s1.takePeer ⟨rkeyOf r, x, r.payload⟩ →
      r.payload.length = 16 →
      (t.upd.recov = 1 ∨ t.runIs 4 = true) →
      leAt r.payload 0 2 = 0x4B50 →
      leAt r.payload 2 1 = 1 →
      3 < leAt r.payload 3 1 →
      exec (.stageBegin r) s = .next (t.badParam (rkeyOf r) 3)) ∧
  (∀ (r : Req) (s : State) (x : Option Sess) (s1 : State) (t : State),
      Started s r 10 1 x s1 →
      s1.peerToken ⟨rkeyOf r, x, r.payload⟩ = none →
      t = s1.takePeer ⟨rkeyOf r, x, r.payload⟩ →
      r.payload.length = 16 →
      (t.upd.recov = 1 ∨ t.runIs 4 = true) →
      leAt r.payload 0 2 = 0x4B50 →
      leAt r.payload 2 1 = 1 →
      leAt r.payload 3 1 ≤ 3 →
      leAt r.payload 4 4 < 1072 →
      exec (.stageBegin r) s = .next (t.badParam (rkeyOf r) 4)) ∧
  (∀ (r : Req) (s : State) (x : Option Sess) (s1 : State) (t : State),
      Started s r 10 1 x s1 →
      s1.peerToken ⟨rkeyOf r, x, r.payload⟩ = none →
      t = s1.takePeer ⟨rkeyOf r, x, r.payload⟩ →
      r.payload.length = 16 →
      (t.upd.recov = 1 ∨ t.runIs 4 = true) →
      leAt r.payload 0 2 = 0x4B50 →
      leAt r.payload 2 1 = 1 →
      leAt r.payload 3 1 ≤ 3 →
      1072 ≤ leAt r.payload 4 4 →
      8388608 < leAt r.payload 4 4 →
      exec (.stageBegin r) s = .next (t.limit (rkeyOf r) 0x0A01)) ∧
  (∀ (r : Req) (s : State) (x : Option Sess) (s1 : State) (t : State),
      Started s r 10 1 x s1 →
      s1.peerToken ⟨rkeyOf r, x, r.payload⟩ = none →
      t = s1.takePeer ⟨rkeyOf r, x, r.payload⟩ →
      r.payload.length = 16 →
      (t.upd.recov = 1 ∨ t.runIs 4 = true) →
      leAt r.payload 0 2 = 0x4B50 →
      leAt r.payload 2 1 = 1 →
      leAt r.payload 3 1 ≤ 3 →
      1072 ≤ leAt r.payload 4 4 →
      leAt r.payload 4 4 ≤ 8388608 →
      leAt r.payload 12 4 ≠ 0 →
      exec (.stageBegin r) s = .next (t.badParam (rkeyOf r) 12)) ∧
  (∀ (r : Req) (s : State) (x : Option Sess) (s1 : State) (t : State),
      Started s r 10 1 x s1 →
      s1.peerToken ⟨rkeyOf r, x, r.payload⟩ = none →
      t = s1.takePeer ⟨rkeyOf r, x, r.payload⟩ →
      r.payload.length = 16 →
      (t.upd.recov = 1 ∨ t.runIs 4 = true) →
      leAt r.payload 0 2 = 0x4B50 →
      leAt r.payload 2 1 = 1 →
      leAt r.payload 3 1 ≤ 3 →
      1072 ≤ leAt r.payload 4 4 →
      leAt r.payload 4 4 ≤ 8388608 →
      leAt r.payload 12 4 = 0 →
      t.upd.recov = 1 →
      exec (.stageBegin r) s = .next ((((t.abandonApply.stopServed 0).pkgBegin r.payload)).ok (rkeyOf r) [])) ∧
  (∀ (r : Req) (s : State) (x : Option Sess) (s1 : State) (t : State) (u : State) (v : State),
      Started s r 10 1 x s1 →
      s1.peerToken ⟨rkeyOf r, x, r.payload⟩ = none →
      t = s1.takePeer ⟨rkeyOf r, x, r.payload⟩ →
      r.payload.length = 16 →
      (t.upd.recov = 1 ∨ t.runIs 4 = true) →
      leAt r.payload 0 2 = 0x4B50 →
      leAt r.payload 2 1 = 1 →
      leAt r.payload 3 1 ≤ 3 →
      1072 ≤ leAt r.payload 4 4 →
      leAt r.payload 4 4 ≤ 8388608 →
      leAt r.payload 12 4 = 0 →
      t.upd.recov ≠ 1 →
      u = (t.abandonApply.stopServed 0).pkgBegin r.payload →
      v = { u with mem := memClear u.mem (bankBase t.otherBank) 0x1800000, upd := { u.upd with banks := tblSet u.upd.banks t.otherBank { tblGet u.upd.banks t.otherBank with count := 0 } } } →
      exec (.stageBegin r) s = .next ((v.bankRec t.otherBank 1 0 0 0 0).ok (rkeyOf r) [])) ∧
  (∀ (r : Req) (s : State) (x : Option Sess) (s1 : State) (t : State),
      Started s r 10 2 x s1 →
      s1.peerToken ⟨rkeyOf r, x, r.payload⟩ = none →
      t = s1.takePeer ⟨rkeyOf r, x, r.payload⟩ →
      r.payload.length < 4 →
      exec (.stageData r) s = .next (t.badLen (rkeyOf r) 4)) ∧
  (∀ (r : Req) (s : State) (x : Option Sess) (s1 : State) (t : State),
      Started s r 10 2 x s1 →
      s1.peerToken ⟨rkeyOf r, x, r.payload⟩ = none →
      t = s1.takePeer ⟨rkeyOf r, x, r.payload⟩ →
      4 ≤ r.payload.length →
      (t.upd.staging = false ∨ t.upd.apply ≠ none) →
      exec (.stageData r) s = .next (t.bankWrong (rkeyOf r))) ∧
  (∀ (r : Req) (s : State) (x : Option Sess) (s1 : State) (t : State),
      Started s r 10 2 x s1 →
      s1.peerToken ⟨rkeyOf r, x, r.payload⟩ = none →
      t = s1.takePeer ⟨rkeyOf r, x, r.payload⟩ →
      4 ≤ r.payload.length →
      t.upd.staging = true →
      t.upd.apply = none →
      leAt r.payload 0 4 ≠ t.upd.pkg.length →
      exec (.stageData r) s = .next (t.badParam (rkeyOf r) 0)) ∧
  (∀ (r : Req) (s : State) (x : Option Sess) (s1 : State) (t : State),
      Started s r 10 2 x s1 →
      s1.peerToken ⟨rkeyOf r, x, r.payload⟩ = none →
      t = s1.takePeer ⟨rkeyOf r, x, r.payload⟩ →
      4 ≤ r.payload.length →
      t.upd.staging = true →
      t.upd.apply = none →
      leAt r.payload 0 4 = t.upd.pkg.length →
      (4096 < (r.payload.drop 4).length ∨ t.upd.pkgLen < leAt r.payload 0 4 + (r.payload.drop 4).length) →
      exec (.stageData r) s = .next (t.badParam (rkeyOf r) 4)) ∧
  (∀ (r : Req) (s : State) (x : Option Sess) (s1 : State) (t : State) (u : State),
      Started s r 10 2 x s1 →
      s1.peerToken ⟨rkeyOf r, x, r.payload⟩ = none →
      t = s1.takePeer ⟨rkeyOf r, x, r.payload⟩ →
      4 ≤ r.payload.length →
      t.upd.staging = true →
      t.upd.apply = none →
      leAt r.payload 0 4 = t.upd.pkg.length →
      (r.payload.drop 4).length ≤ 4096 →
      leAt r.payload 0 4 + (r.payload.drop 4).length ≤ t.upd.pkgLen →
      u = t.modUpd (fun u => { u with pkg := u.pkg ++ r.payload.drop 4, complete := u.pkg.length + (r.payload.drop 4).length == u.pkgLen }) →
      t.upd.recov ≠ 1 →
      exec (.stageData r) s = .next (u.ok (rkeyOf r) [])) ∧
  (∀ (r : Req) (s : State) (x : Option Sess) (s1 : State) (t : State) (u : State),
      Started s r 10 2 x s1 →
      s1.peerToken ⟨rkeyOf r, x, r.payload⟩ = none →
      t = s1.takePeer ⟨rkeyOf r, x, r.payload⟩ →
      4 ≤ r.payload.length →
      t.upd.staging = true →
      t.upd.apply = none →
      leAt r.payload 0 4 = t.upd.pkg.length →
      (r.payload.drop 4).length ≤ 4096 →
      leAt r.payload 0 4 + (r.payload.drop 4).length ≤ t.upd.pkgLen →
      u = t.modUpd (fun u => { u with pkg := u.pkg ++ r.payload.drop 4, complete := u.pkg.length + (r.payload.drop 4).length == u.pkgLen }) →
      t.upd.recov = 1 →
      exec (.stageData r) s = .next ((u.mputBytes (leAt r.payload 0 4) (r.payload.drop 4)).ok (rkeyOf r) [])) ∧
  (∀ (r : Req) (s : State) (x : Option Sess) (s1 : State) (t : State),
      Started s r 10 3 x s1 →
      s1.peerToken ⟨rkeyOf r, x, r.payload⟩ = none →
      t = s1.takePeer ⟨rkeyOf r, x, r.payload⟩ →
      r.payload.length = 0 →
      (t.upd.staging = false ∨ t.upd.apply ≠ none) →
      exec (.stageEnd r) s = .next (t.bankWrong (rkeyOf r))) ∧
  (∀ (r : Req) (s : State) (x : Option Sess) (s1 : State) (t : State),
      Started s r 10 3 x s1 →
      s1.peerToken ⟨rkeyOf r, x, r.payload⟩ = none →
      t = s1.takePeer ⟨rkeyOf r, x, r.payload⟩ →
      r.payload.length = 0 →
      t.upd.staging = true →
      t.upd.apply = none →
      t.upd.complete = false →
      exec (.stageEnd r) s = .next (((t.accept (rkeyOf r)).failed (rkeyOf r) 0x0A11).raise 433)) ∧
  (∀ (r : Req) (s : State) (x : Option Sess) (s1 : State) (t : State) (u : State),
      Started s r 10 3 x s1 →
      s1.peerToken ⟨rkeyOf r, x, r.payload⟩ = none →
      t = s1.takePeer ⟨rkeyOf r, x, r.payload⟩ →
      r.payload.length = 0 →
      t.upd.staging = true →
      t.upd.apply = none →
      t.upd.complete = true →
      u = ((t.accept (rkeyOf r)).setF F.UPD_STAT_APPLIED 0).modUpd (fun u => { u with apply := some (rkeyOf r) }) →
      t.upd.recov = 1 →
      exec (.stageEnd r) s = .next (u)) ∧
  (∀ (r : Req) (s : State) (x : Option Sess) (s1 : State) (t : State) (u : State),
      Started s r 10 3 x s1 →
      s1.peerToken ⟨rkeyOf r, x, r.payload⟩ = none →
      t = s1.takePeer ⟨rkeyOf r, x, r.payload⟩ →
      r.payload.length = 0 →
      t.upd.staging = true →
      t.upd.apply = none →
      t.upd.complete = true →
      u = ((t.accept (rkeyOf r)).setF F.UPD_STAT_APPLIED 0).modUpd (fun u => { u with apply := some (rkeyOf r) }) →
      t.upd.recov ≠ 1 →
      exec (.stageEnd r) s = .next (u.mputBytes (bankBase t.otherBank) (t.upd.pkg.take 1072))) ∧
  (∀ (r : Req) (s : State) (x : Option Sess) (s1 : State) (b : Nat),
      Started s r 10 5 x s1 →
      r.payload.length = 0 →
      s1.runBank = some b →
      s1.bankSt b = 3 →
      s1.flag F.UPD_STAT_HEALTHY = true →
      exec (.confirm r) s = .next ((s1.confirmTrial b).ok (rkeyOf r) [])) ∧
  (∀ (r : Req) (s : State) (x : Option Sess) (s1 : State) (b : Nat),
      Started s r 10 5 x s1 →
      r.payload.length = 0 →
      s1.runBank = some b →
      (s1.bankSt b ≠ 3 ∨ s1.flag F.UPD_STAT_HEALTHY = false) →
      exec (.confirm r) s = .next (s1.bankWrong (rkeyOf r))) ∧
  (∀ (r : Req) (s : State) (x : Option Sess) (s1 : State),
      Started s r 10 5 x s1 →
      r.payload.length = 0 →
      s1.runBank = none →
      exec (.confirm r) s = .next (s1.bankWrong (rkeyOf r))) ∧
  (∀ (r : Req) (s : State) (x : Option Sess) (s1 : State) (one : Nat → List Byte),
      Started s r 10 6 x s1 →
      r.payload.length = 0 →
      one = (fun b => leBytes 1 (tblGet s1.upd.banks b).state ++ leBytes 1 (tblGet s1.upd.banks b).tries ++ leBytes 2 (manSvn (s1.manifest (bankBase b))) ++ leBytes 2 (tblGet s1.upd.banks b).cause ++ leBytes 1 (tblGet s1.upd.banks b).comp ++ leBytes 1 (tblGet s1.upd.banks b).applied ++ leBytes 4 (tblGet s1.upd.banks b).seq) →
      exec (.updStatus r) s = .next (s1.ok (rkeyOf r) (one 0 ++ one 1 ++ leBytes 1 s1.activeBank ++ leBytes 1 (s1.f F.UPD_STAT_HEALTHY + 2 * s1.f F.UPD_CTRL_AUTOCONF) ++ leBytes 2 s1.floor ++ leBytes 2 s1.confLeft))) ∧
  (∀ (s : State),
      s.runIs 3 = true →
      s.confLeft = s.f F.UPD_CTRL_CONF_S - (s.now - s.upd.trialAt) / 1000000000) ∧
  (∀ (s : State),
      s.runIs 3 = false →
      s.confLeft = 0) ∧
  (∀ (r : Req) (s : State) (x : Option Sess) (s1 : State),
      Started s r 10 4 x s1 →
      r.payload.length < 4 →
      exec (.forward r) s = .next (s1.badLen (rkeyOf r) 4)) ∧
  (∀ (r : Req) (s : State) (x : Option Sess) (s1 : State),
      Started s r 10 4 x s1 →
      4 ≤ r.payload.length →
      (r.payload.length % 2 ≠ 0 ∨ 130 < r.payload.length) →
      exec (.forward r) s = .next (s1.badLen (rkeyOf r) (min 130 (r.payload.length - 1)))) ∧
  (∀ (r : Req) (s : State) (x : Option Sess) (s1 : State),
      Started s r 10 4 x s1 →
      4 ≤ r.payload.length ∧ r.payload.length % 2 = 0 ∧ r.payload.length ≤ 130 →
      (leAt r.payload 0 2 < 1 ∨ 64 < leAt r.payload 0 2) →
      exec (.forward r) s = .next (s1.badParam (rkeyOf r) 0)) ∧
  (∀ (r : Req) (s : State) (x : Option Sess) (s1 : State),
      Started s r 10 4 x s1 →
      4 ≤ r.payload.length ∧ r.payload.length % 2 = 0 ∧ r.payload.length ≤ 130 →
      1 ≤ leAt r.payload 0 2 →
      leAt r.payload 0 2 ≤ 64 →
      r.payload.length ≠ 2 + 2 * leAt r.payload 0 2 →
      exec (.forward r) s = .next (s1.badLen (rkeyOf r) (2 + 2 * leAt r.payload 0 2))) ∧
  (∀ (r : Req) (s : State) (x : Option Sess) (s1 : State) (as : List Nat) (i : Nat),
      Started s r 10 4 x s1 →
      4 ≤ r.payload.length ∧ r.payload.length % 2 = 0 ∧ r.payload.length ≤ 130 →
      1 ≤ leAt r.payload 0 2 →
      leAt r.payload 0 2 ≤ 64 →
      r.payload.length = 2 + 2 * leAt r.payload 0 2 →
      as = (List.range (leAt r.payload 0 2)).map (fun i => leAt r.payload (2 + 2 * i) 2) →
      firstBelow (leAt r.payload 0 2) (fun i => !(decide (1 ≤ as.getD i 0) && decide (as.getD i 0 ≤ 0xFFE))) = some i →
      exec (.forward r) s = .next (s1.badParam (rkeyOf r) (2 + 2 * i))) ∧
  (∀ (r : Req) (s : State) (x : Option Sess) (s1 : State) (as : List Nat),
      Started s r 10 4 x s1 →
      4 ≤ r.payload.length ∧ r.payload.length % 2 = 0 ∧ r.payload.length ≤ 130 →
      1 ≤ leAt r.payload 0 2 →
      leAt r.payload 0 2 ≤ 64 →
      r.payload.length = 2 + 2 * leAt r.payload 0 2 →
      as = (List.range (leAt r.payload 0 2)).map (fun i => leAt r.payload (2 + 2 * i) 2) →
      firstBelow (leAt r.payload 0 2) (fun i => !(decide (1 ≤ as.getD i 0) && decide (as.getD i 0 ≤ 0xFFE))) = none →
      (s1.upd.complete = false ∨ s1.upd.fwd ≠ none) →
      exec (.forward r) s = .next (s1.bankWrong (rkeyOf r))) ∧
  (∀ (r : Req) (s : State) (x : Option Sess) (s1 : State) (as : List Nat),
      Started s r 10 4 x s1 →
      4 ≤ r.payload.length ∧ r.payload.length % 2 = 0 ∧ r.payload.length ≤ 130 →
      1 ≤ leAt r.payload 0 2 →
      leAt r.payload 0 2 ≤ 64 →
      r.payload.length = 2 + 2 * leAt r.payload 0 2 →
      as = (List.range (leAt r.payload 0 2)).map (fun i => leAt r.payload (2 + 2 * i) 2) →
      firstBelow (leAt r.payload 0 2) (fun i => !(decide (1 ≤ as.getD i 0) && decide (as.getD i 0 ≤ 0xFFE))) = none →
      s1.upd.complete = true →
      s1.upd.fwd = none →
      exec (.forward r) s = .next ((((s1.stopServed 0).modUpd (fun u => { u with fwd := some ⟨(rkeyOf r), as, [], [], as⟩ })).accept (rkeyOf r)).fwdFill 65)) ∧
  (∀ (addr : BitVec 12) (stat : BitVec 8) (s : State),
      s.upd.fwd = none →
      exec (.forwardPeerDone addr stat) s = .next (s)) ∧
  (∀ (addr : BitVec 12) (stat : BitVec 8) (s : State) (g : FwdRun),
      s.upd.fwd = some g →
      g.active.any (fun x => x.1 == addr.toNat) = false →
      exec (.forwardPeerDone addr stat) s = .next (s)) ∧
  (∀ (addr : BitVec 12) (stat : BitVec 8) (s : State) (g : FwdRun) (t : State),
      s.upd.fwd = some g →
      g.active.any (fun x => x.1 == addr.toNat) = true →
      t = s.modFwd (fun f => { f with active := f.active.filter (fun x => x.1 != addr.toNat), done := f.done ++ [(addr.toNat, stat.toNat)] }) →
      t.mustStop 0 = false →
      exec (.forwardPeerDone addr stat) s = .next (t.fwdFill 65)) ∧
  (∀ (addr : BitVec 12) (stat : BitVec 8) (s : State) (g : FwdRun) (t : State),
      s.upd.fwd = some g →
      g.active.any (fun x => x.1 == addr.toNat) = true →
      t = s.modFwd (fun f => { f with active := f.active.filter (fun x => x.1 != addr.toNat), done := f.done ++ [(addr.toNat, stat.toNat)] }) →
      t.mustStop 0 = true →
      exec (.forwardPeerDone addr stat) s = .next (t.modFwd (fun f => { f with todo := [] }))) ∧
  (∀ (s : State),
      s.upd.fwd = none →
      exec (.forwardDone) s = .next (s)) ∧
  (∀ (s : State) (g : FwdRun),
      s.upd.fwd = some g →
      (g.active ≠ [] ∨ g.todo ≠ []) →
      exec (.forwardDone) s = .next (s)) ∧
  (∀ (s : State) (g : FwdRun) (t : State),
      s.upd.fwd = some g →
      g.active = [] →
      g.todo = [] →
      t = s.modUpd (fun u => { u with fwd := none }) →
      t.mustStop 0 = true →
      exec (.forwardDone) s = .next (t.failStopped g.key 0)) ∧
  (∀ (s : State) (g : FwdRun) (t : State) (st : Nat → Nat),
      s.upd.fwd = some g →
      g.active = [] →
      g.todo = [] →
      t = s.modUpd (fun u => { u with fwd := none }) →
      t.mustStop 0 = false →
      st = (fun (a : Nat) => ((g.done.find? (fun x => x.1 == a)).map (·.2)).getD stTimeout) →
      exec (.forwardDone) s = .next ((t.ok g.key (g.all.flatMap (fun a => leBytes 2 a ++ leBytes 1 (st a) ++ leBytes 1 0))).raise 438)) ∧
  (∀ (s : State),
      s.trialHealthy = (s.runIs 3 && s.upd.setOk && (List.range 2).all (fun p => s.f (F.RAKE_PAN_CFG_AUTO p) == 0 || decide (16 ≤ tblGet s.upd.good p)))) ∧
  (∀ (s : State),
      (s.trialHealthy = false ∨ s.flag F.UPD_STAT_HEALTHY = true) →
      exec (.trialHealthy) s = .next (s)) ∧
  (∀ (s : State) (t : State) (b : Nat),
      s.trialHealthy = true →
      s.flag F.UPD_STAT_HEALTHY = false →
      t = s.setF F.UPD_STAT_HEALTHY 1 →
      t.runBank = some b →
      t.flag F.UPD_CTRL_AUTOCONF = true →
      exec (.trialHealthy) s = .next (t.confirmTrial b)) ∧
  (∀ (s : State) (t : State) (b : Nat),
      s.trialHealthy = true →
      s.flag F.UPD_STAT_HEALTHY = false →
      t = s.setF F.UPD_STAT_HEALTHY 1 →
      t.runBank = some b →
      t.flag F.UPD_CTRL_AUTOCONF = false →
      exec (.trialHealthy) s = .next (t)) ∧
  (∀ (s : State) (b : Nat),
      s.runBank = some b →
      s.bankSt b = 3 →
      exec (.trialDeadlineExpiry) s = .next (((s.bankTo b 6 0x0A32 0).raise 436).reqReset 15 none)) ∧
  (∀ (s : State),
      (s.runBank = none ∨ ∃ b, s.runBank = some b ∧ s.bankSt b ≠ 3) →
      exec (.trialDeadlineExpiry) s = .next (s)) ∧
  (∀ (s : State) (b : Nat) (t : State),
      (t = (if s.bankSt (1 - b) = 4 then (s.bankTo b 4 0 0).bankTo (1 - b) 5 0 0 else s.bankTo b 4 0 0)) →
      s.confirmTrial b = (((t.setF F.UPD_STAT_TRIAL 0).raise 435).markBank b true).raiseFloor b) ∧
  (∀ (s : State),
      s.upd.resetDue = true →
      exec (.updResetDue) s = .next ((s.modUpd (fun u => { u with resetDue := false })).reqReset 15 none)) ∧
  (∀ (s : State),
      s.upd.resetDue = false →
      exec (.updResetDue) s = .next (s)) ∧
  (∀ (who : Who) (value : Word) (s : State),
      s.regOk who (A.UPD_UNFIT) = true →
      bit value.toNat 31 = false →
      exec (.updUnfitWrite who value) s = .next (s)) ∧
  (∀ (who : Who) (value : Word) (s : State),
      s.regOk who (A.UPD_UNFIT) = true →
      s.runBank = none →
      exec (.updUnfitWrite who value) s = .next (s)) ∧
  (∀ (who : Who) (value : Word) (s : State) (b : Nat) (c : Nat) (t : State),
      s.regOk who (A.UPD_UNFIT) = true →
      bit value.toNat 31 = true →
      s.runBank = some b →
      (c = (if bit value.toNat 19 = true then 0x0A41 else 0x0A40)) →
      t = (s.bankTo b 8 c (bits value.toNat 18 16)).logAdd (0xA000 + c % 0x1000) (value.toNat % 2 ^ 16) →
      exec (.updUnfitWrite who value) s = .next ((({ t with upd := { t.upd with setOk := false, unfitDue := true } }).raise 437).reqReset 15 none)) ∧
  (∀ (who : Who) (value : Word) (s : State),
      s.regOk who (A.USBS_CTRL) = true →
      exec (.usbsCtrlWrite who value) s = .next (((s.setF F.USBS_CTRL_EN (value.toNat % 2)).setF F.USBS_CTRL_CONSOLE (bits value.toNat 1 1)).usbAttach)) ∧
  (∀ (s : State) (t : State),
      t = s.setFlag F.USBS_STAT_ATTACHED (s.flag F.USBS_CTRL_EN && s.flag F.USBS_STAT_VBUS) →
      (s.flag F.USBS_CTRL_EN = true → s.flag F.USBS_STAT_VBUS = true → s.usbAttach = t) ∧
      (s.flag F.USBS_CTRL_EN = false ∨ s.flag F.USBS_STAT_VBUS = false → s.usbAttach = ((t.setF F.USBS_STAT_CONFIGURED 0).setF F.USBS_STAT_HS 0).setF F.USBS_STAT_SUSPENDED 0)) ∧
  (∀ (present : Bool) (s : State),
      s.flag F.USBS_STAT_VBUS = present →
      exec (.usbVbusChange present) s = .next (s)) ∧
  (∀ (s : State),
      s.flag F.USBS_STAT_VBUS = false →
      exec (.usbVbusChange true) s = .next ((((s.setFlag F.USBS_STAT_VBUS true).usbAttach).raise 440).parkWake 5 0)) ∧
  (∀ (s : State) (t : State),
      s.flag F.USBS_STAT_VBUS = true →
      t = (s.setFlag F.USBS_STAT_VBUS false).usbAttach →
      exec (.usbVbusChange false) s = .next (((t.cmd.sess.filter (fun (x : Sess) => x.tp == 3)).foldl (fun s x => s.closeSess x.id) t).raise 440)) ∧
  (∀ (configured : Bool) (hs : Bool) (s : State),
      s.flag F.USBS_STAT_ATTACHED = false →
      exec (.usbConfigure configured hs) s = .next (s)) ∧
  (∀ (configured : Bool) (hs : Bool) (s : State),
      s.flag F.USBS_STAT_ATTACHED = true →
      exec (.usbConfigure configured hs) s = .next ((((s.setFlag F.USBS_STAT_CONFIGURED configured).setFlag F.USBS_STAT_HS hs).setF F.USBS_STAT_SUSPENDED 0).raise 441))

/-- Reads, writes, counters, the log, compaction, the Crust port and the events of the store complete and leave what R395 to R408 give -/
def Obligations.CrustStoreCommandsActAsTheTablesSay : Prop :=
  (∀ (r : Req) (s : State) (x : Option Sess) (s1 : State),
      Started s r 9 1 x s1 →
      r.payload.length = 4 →
      1023 < leAt r.payload 0 2 →
      exec (.crustRead r) s = .next (s1.badParam (rkeyOf r) 0)) ∧
  (∀ (r : Req) (s : State) (x : Option Sess) (s1 : State),
      Started s r 9 1 x s1 →
      r.payload.length = 4 →
      leAt r.payload 0 2 ≤ 1023 →
      63 < leAt r.payload 2 1 →
      exec (.crustRead r) s = .next (s1.badParam (rkeyOf r) 2)) ∧
  (∀ (r : Req) (s : State) (x : Option Sess) (s1 : State),
      Started s r 9 1 x s1 →
      r.payload.length = 4 →
      leAt r.payload 0 2 ≤ 1023 →
      leAt r.payload 2 1 ≤ 63 →
      (leAt r.payload 3 1 < 1 ∨ 64 < leAt r.payload 3 1) →
      exec (.crustRead r) s = .next (s1.badParam (rkeyOf r) 3)) ∧
  (∀ (r : Req) (s : State) (x : Option Sess) (s1 : State),
      Started s r 9 1 x s1 →
      r.payload.length = 4 →
      leAt r.payload 0 2 ≤ 1023 →
      leAt r.payload 2 1 ≤ 63 →
      1 ≤ leAt r.payload 3 1 ∧ leAt r.payload 3 1 ≤ 64 →
      s1.crustServes = false →
      exec (.crustRead r) s = .next (s1.crustRefuse (rkeyOf r))) ∧
  (∀ (r : Req) (s : State) (x : Option Sess) (s1 : State),
      Started s r 9 1 x s1 →
      r.payload.length = 4 →
      leAt r.payload 0 2 ≤ 1023 →
      leAt r.payload 2 1 ≤ 63 →
      1 ≤ leAt r.payload 3 1 ∧ leAt r.payload 3 1 ≤ 64 →
      s1.crustServes = true →
      exec (.crustRead r) s = .next (s1.ok (rkeyOf r) ((List.range (leAt r.payload 3 1)).map (fun i => ((s1.page (leAt r.payload 0 2))[(leAt r.payload 2 1 + i) % 64]?).getD 0#8)))) ∧
  (∀ (r : Req) (s : State) (x : Option Sess) (s1 : State),
      Started s r 9 2 x s1 →
      r.payload.length < 4 →
      exec (.crustWrite r) s = .next (s1.badLen (rkeyOf r) 4)) ∧
  (∀ (r : Req) (s : State) (x : Option Sess) (s1 : State),
      Started s r 9 2 x s1 →
      67 < r.payload.length →
      exec (.crustWrite r) s = .next (s1.badLen (rkeyOf r) 67)) ∧
  (∀ (r : Req) (s : State) (x : Option Sess) (s1 : State),
      Started s r 9 2 x s1 →
      4 ≤ r.payload.length →
      r.payload.length ≤ 67 →
      pageOk (leAt r.payload 0 2) = false →
      exec (.crustWrite r) s = .next (s1.badParam (rkeyOf r) 0)) ∧
  (∀ (r : Req) (s : State) (x : Option Sess) (s1 : State),
      Started s r 9 2 x s1 →
      4 ≤ r.payload.length →
      r.payload.length ≤ 67 →
      pageOk (leAt r.payload 0 2) = true →
      63 < leAt r.payload 2 1 →
      exec (.crustWrite r) s = .next (s1.badParam (rkeyOf r) 2)) ∧
  (∀ (r : Req) (s : State) (x : Option Sess) (s1 : State),
      Started s r 9 2 x s1 →
      4 ≤ r.payload.length →
      r.payload.length ≤ 67 →
      pageOk (leAt r.payload 0 2) = true →
      leAt r.payload 2 1 ≤ 63 →
      (s1.crustServes = false ∨ s1.flag F.CRUST_STAT_PFW = true) →
      exec (.crustWrite r) s = .next (s1.crustRefuse (rkeyOf r))) ∧
  (∀ (r : Req) (s : State) (x : Option Sess) (s1 : State),
      Started s r 9 2 x s1 →
      4 ≤ r.payload.length →
      r.payload.length ≤ 67 →
      pageOk (leAt r.payload 0 2) = true →
      leAt r.payload 2 1 ≤ 63 →
      s1.crustServes = true →
      s1.flag F.CRUST_STAT_PFW = false →
      exec (.crustWrite r) s = .next (s1.crustQueue { kind := 0, key := leAt r.payload 0 2, off := leAt r.payload 2 1, data := r.payload.drop 3, req := some (rkeyOf r) })) ∧
  (∀ (r : Req) (s : State) (x : Option Sess) (s1 : State),
      Started s r 9 3 x s1 →
      r.payload.length = 5 →
      (leAt r.payload 0 1 ≤ 7 ∨ 31 < leAt r.payload 0 1) →
      exec (.counterInc r) s = .next (s1.badParam (rkeyOf r) 0)) ∧
  (∀ (r : Req) (s : State) (x : Option Sess) (s1 : State),
      Started s r 9 3 x s1 →
      r.payload.length = 5 →
      8 ≤ leAt r.payload 0 1 →
      leAt r.payload 0 1 ≤ 31 →
      (s1.crustServes = false ∨ (s1.flag F.CRUST_STAT_PFW = true ∧ leAt r.payload 1 4 ≠ 0)) →
      exec (.counterInc r) s = .next (s1.crustRefuse (rkeyOf r))) ∧
  (∀ (r : Req) (s : State) (x : Option Sess) (s1 : State) (v : Nat),
      Started s r 9 3 x s1 →
      r.payload.length = 5 →
      8 ≤ leAt r.payload 0 1 →
      leAt r.payload 0 1 ≤ 31 →
      s1.crustServes = true →
      (s1.flag F.CRUST_STAT_PFW = false ∨ leAt r.payload 1 4 = 0) →
      v = s1.counter (leAt r.payload 0 1) + s1.pendingInc (leAt r.payload 0 1) →
      2 ^ 64 ≤ v + leAt r.payload 1 4 →
      exec (.counterInc r) s = .next (s1.limit (rkeyOf r) 0x0903)) ∧
  (∀ (r : Req) (s : State) (x : Option Sess) (s1 : State) (v : Nat),
      Started s r 9 3 x s1 →
      r.payload.length = 5 →
      8 ≤ leAt r.payload 0 1 →
      leAt r.payload 0 1 ≤ 31 →
      s1.crustServes = true →
      (s1.flag F.CRUST_STAT_PFW = false ∨ leAt r.payload 1 4 = 0) →
      v = s1.counter (leAt r.payload 0 1) + s1.pendingInc (leAt r.payload 0 1) →
      v + leAt r.payload 1 4 < 2 ^ 64 →
      leAt r.payload 1 4 = 0 ∧ s1.pendingInc (leAt r.payload 0 1) = 0 →
      exec (.counterInc r) s = .next (s1.ok (rkeyOf r) (leBytes 8 v))) ∧
  (∀ (r : Req) (s : State) (x : Option Sess) (s1 : State) (v : Nat),
      Started s r 9 3 x s1 →
      r.payload.length = 5 →
      8 ≤ leAt r.payload 0 1 →
      leAt r.payload 0 1 ≤ 31 →
      s1.crustServes = true →
      (s1.flag F.CRUST_STAT_PFW = false ∨ leAt r.payload 1 4 = 0) →
      v = s1.counter (leAt r.payload 0 1) + s1.pendingInc (leAt r.payload 0 1) →
      v + leAt r.payload 1 4 < 2 ^ 64 →
      ¬(leAt r.payload 1 4 = 0 ∧ s1.pendingInc (leAt r.payload 0 1) = 0) →
      exec (.counterInc r) s = .next (s1.crustQueue { kind := 1, key := leAt r.payload 0 1, off := 0, data := leBytes 4 (leAt r.payload 1 4), req := some (rkeyOf r) })) ∧
  (∀ (r : Req) (s : State) (x : Option Sess) (s1 : State),
      Started s r 9 4 x s1 →
      r.payload.length = 6 →
      (leAt r.payload 4 2 < 1 ∨ 64 < leAt r.payload 4 2) →
      exec (.logRead r) s = .next (s1.badParam (rkeyOf r) 4)) ∧
  (∀ (r : Req) (s : State) (x : Option Sess) (s1 : State),
      Started s r 9 4 x s1 →
      r.payload.length = 6 →
      1 ≤ leAt r.payload 4 2 →
      leAt r.payload 4 2 ≤ 64 →
      s1.crustServes = false →
      exec (.logRead r) s = .next (s1.crustRefuse (rkeyOf r))) ∧
  (∀ (r : Req) (s : State) (x : Option Sess) (s1 : State) (es : List LogEnt),
      Started s r 9 4 x s1 →
      r.payload.length = 6 →
      1 ≤ leAt r.payload 4 2 →
      leAt r.payload 4 2 ≤ 64 →
      s1.crustServes = true →
      es = (s1.crust.reported.filter (fun e => e.lseq == leAt r.payload 0 4 || newer 32 e.lseq (leAt r.payload 0 4))).take (leAt r.payload 4 2) →
      es = [] →
      exec (.logRead r) s = .next (s1.ok (rkeyOf r) (leBytes 4 (leAt r.payload 0 4) ++ leBytes 2 0))) ∧
  (∀ (r : Req) (s : State) (x : Option Sess) (s1 : State) (es : List LogEnt) (e : LogEnt),
      Started s r 9 4 x s1 →
      r.payload.length = 6 →
      1 ≤ leAt r.payload 4 2 →
      leAt r.payload 4 2 ≤ 64 →
      s1.crustServes = true →
      es = (s1.crust.reported.filter (fun e => e.lseq == leAt r.payload 0 4 || newer 32 e.lseq (leAt r.payload 0 4))).take (leAt r.payload 4 2) →
      es.head? = some e →
      exec (.logRead r) s = .next (s1.ok (rkeyOf r) (leBytes 4 e.lseq ++ leBytes 2 es.length ++ es.flatMap LogEnt.bytes))) ∧
  (∀ (r : Req) (s : State) (x : Option Sess) (s1 : State),
      Started s r 9 5 x s1 →
      r.payload.length = 0 →
      s1.crust.compact ≠ none →
      exec (.crustCompact r) s = .next (s1.crustRefuse (rkeyOf r))) ∧
  (∀ (r : Req) (s : State) (x : Option Sess) (s1 : State),
      Started s r 9 5 x s1 →
      r.payload.length = 0 →
      s1.crust.compact = none →
      exec (.crustCompact r) s = .next (((s1.modCrust (fun x => { x with compact := some (some (rkeyOf r)) })).stopServed 1).accept (rkeyOf r))) ∧
  (∀ (s : State) (k : RKey),
      s.crustRefuse k = s.wrongState k (s.f F.CRUST_STAT_STATE)) ∧
  (∀ (who : Who) (key : Fin 1024) (counter : Bool) (s : State) (t : State),
      s.regOk who (A.CRUST_RDREQ) = true →
      t = ((s.setF F.CRUST_RDREQ_KEY key).setFlag F.CRUST_RDREQ_KIND counter).setF F.CRUST_RDREQ_DONE 0 →
      (t.crustServes = false ∨ (counter = true ∧ 31 < key.val)) →
      exec (.crustRdreqGo who key counter) s = .next (t)) ∧
  (∀ (who : Who) (key : Fin 1024) (s : State) (t : State),
      s.regOk who (A.CRUST_RDREQ) = true →
      t = ((s.setF F.CRUST_RDREQ_KEY key).setFlag F.CRUST_RDREQ_KIND true).setF F.CRUST_RDREQ_DONE 0 →
      t.crustServes = true →
      key.val ≤ 31 →
      exec (.crustRdreqGo who key true) s = .next ((t.setRegBytes (A.CRUST_RDBUF 0) 16 (leBytes 8 (t.counter key) ++ t.regBytes (A.CRUST_RDBUF 2) 14)).setF F.CRUST_RDREQ_DONE 1)) ∧
  (∀ (who : Who) (key : Fin 1024) (s : State) (t : State),
      s.regOk who (A.CRUST_RDREQ) = true →
      t = ((s.setF F.CRUST_RDREQ_KEY key).setFlag F.CRUST_RDREQ_KIND false).setF F.CRUST_RDREQ_DONE 0 →
      t.crustServes = true →
      exec (.crustRdreqGo who key false) s = .next ((t.setRegBytes (A.CRUST_RDBUF 0) 16 (t.page key)).setF F.CRUST_RDREQ_DONE 1)) ∧
  (∀ (who : Who) (words : List Word) (s : State),
      s.regOk who (A.CRUST_WPORT 0) = true →
      exec (.crustWportRequest who words) s = .next (((words.take 17).zipIdx).foldl (fun s p => s.wportWord p.2 p.1.toNat) s)) ∧
  (∀ (s : State) (i : Nat) (w : Nat) (ws : List Nat) (t : State),
      (ws = (if i = 0 then [w] else s.crust.wport ++ [w])) →
      t = s.modCrust (fun c => { c with wport := [] }) →
      (ws.length ≠ i + 1 ∨ wportNeed (ws.headD 0) = 0 → s.wportWord i w = t.crustResult 3) ∧
      (ws.length = i + 1 → wportNeed (ws.headD 0) = i + 1 → s.wportWord i w = t.wportDo ws) ∧
      (ws.length = i + 1 → wportNeed (ws.headD 0) ≠ 0 → wportNeed (ws.headD 0) ≠ i + 1 → s.wportWord i w = s.modCrust (fun c => { c with wport := ws }))) ∧
  (∀ (w : Nat),
      bits w 31 25 = 0 →
      (bits w 1 0 = 0 → 1 ≤ bits w 24 18 → bits w 24 18 ≤ 64 → wportNeed w = 1 + cdiv (bits w 24 18) 4) ∧ (bits w 1 0 = 1 → bits w 24 18 = 0 → wportNeed w = 2) ∧ (bits w 1 0 = 2 → bits w 24 18 = 0 → wportNeed w = 3) ∧ (bits w 1 0 = 3 → wportNeed w = 0)) ∧
  (∀ (s : State) (ws : List Nat) (w : Nat),
      ws.headD 0 = w →
      (bits w 1 0 = 2 → s.wportDo ws = (s.logAdd ((ws.getD 2 0) % 2 ^ 16) (ws.getD 1 0)).crustResult 0) ∧
      (bits w 1 0 ≠ 2 → s.flag F.CRUST_STAT_PFW = true → bits w 1 0 ≠ 1 ∨ ws.getD 1 0 ≠ 0 → s.wportDo ws = s.crustResult 2) ∧
      (bits w 1 0 ≠ 2 → s.flag F.CRUST_STAT_PFW = false → s.crustServes = false → s.wportDo ws = s.crustResult 3) ∧
      (bits w 1 0 = 0 → s.flag F.CRUST_STAT_PFW = false → s.crustServes = true → pageOk (bits w 11 2) = true →
        s.wportDo ws = s.crustQueue { kind := 0, key := bits w 11 2, off := bits w 17 12, data := ((ws.drop 1).flatMap (leBytes 4)).take (bits w 24 18), req := none }) ∧
      (bits w 1 0 = 1 → s.flag F.CRUST_STAT_PFW = false → s.crustServes = true → 8 ≤ bits w 11 2 → bits w 11 2 ≤ 31 → s.counter (bits w 11 2) + s.pendingInc (bits w 11 2) + ws.getD 1 0 < 2 ^ 64 →
        s.wportDo ws = s.crustQueue { kind := 1, key := bits w 11 2, off := 0, data := ((ws.drop 1).flatMap (leBytes 4)).take 4, req := none })) ∧
  (∀ (ok : Bool) (s : State),
      (s.crust.queue = [] ∨ s.crustServes = false) →
      exec (.crustRecordWritten ok) s = .next (s)) ∧
  (∀ (s : State),
      s.crust.queue ≠ [] →
      s.crustServes = true →
      exec (.crustRecordWritten false) s = .next (s.crustProgFail)) ∧
  (∀ (s : State) (w : CrustWr) (t : State),
      s.crust.queue.head? = some w →
      s.crustServes = true →
      s.crustPop.crustHead w = some t →
      exec (.crustRecordWritten true) s = .next (t)) ∧
  (∀ (s : State) (w : CrustWr),
      s.crust.queue.head? = some w →
      s.crustServes = true →
      s.crustPop.crustHead w = none →
      exec (.crustRecordWritten true) s = .next (s)) ∧
  (∀ (s : State) (w : CrustWr) (tr : Bool) (bk : Nat),
      tr = s.flag F.UPD_STAT_TRIAL →
      bk = s.f F.UPD_STAT_BANK →
      (w.kind = 0 → s.crustHead w = (s.crustAppend 1 w.key (s.schemaOf (pageOwner w.key)) (pageMerge (s.page w.key) w.off w.data) false tr bk).map (fun t => t.crustAnswer w stOk [] 0)) ∧
      (w.kind = 1 → s.counter w.key + leVal w.data < 2 ^ 64 → leVal w.data ≠ 0 →
        s.crustHead w = (s.crustAppend 2 w.key 0 (leBytes 8 (s.counter w.key + leVal w.data)) false tr bk).map (fun t => t.crustAnswer w stOk (leBytes 8 (s.counter w.key + leVal w.data)) 0)) ∧
      (w.kind = 6 → s.crustHead w = (s.bankMark (w.key % 2) (1 < w.key)).map (fun t => t.crustAnswer w stOk [] 0))) ∧
  (∀ (code : BitVec 16) (arg : Word) (s : State),
      exec (.crustLogEntry code arg) s = .next (s.logAdd code.toNat arg.toNat)) ∧
  (∀ (s : State) (code : Nat) (arg : Nat),
      s.crust.logRoom = none →
      s.logAdd code arg = s.incF F.CRUST_ERR_LOGDROP 1) ∧
  (∀ (index : Bool) (torn : Bool) (s : State),
      s.f F.CRUST_STAT_STATE ≠ 1 →
      exec (.crustOpenDone index torn) s = .next (s)) ∧
  (∀ (torn : Bool) (s : State),
      s.f F.CRUST_STAT_STATE = 1 →
      (torn = false ∨ s.crust.openSec = none) →
      exec (.crustOpenDone true torn) s = .next ((s.setF F.CRUST_STAT_STATE 2).levelEdge 418 (s.levelOn 418))) ∧
  (∀ (torn : Bool) (s : State),
      s.f F.CRUST_STAT_STATE = 1 →
      (torn = false ∨ s.crust.openSec = none) →
      exec (.crustOpenDone false torn) s = .next (s)) ∧
  (∀ (s : State) (i : Nat) (t : State),
      s.f F.CRUST_STAT_STATE = 1 →
      s.crust.openSec = some i →
      t = s.modCrust (fun c => { c with secs := tblMod c.secs i (fun x => { x with st := 2 }) }) →
      exec (.crustOpenDone true true) s = .next ((t.setF F.CRUST_STAT_STATE 2).levelEdge 418 (t.levelOn 418))) ∧
  (∀ (s : State) (i : Nat) (t : State),
      s.f F.CRUST_STAT_STATE = 1 →
      s.crust.openSec = some i →
      t = s.modCrust (fun c => { c with secs := tblMod c.secs i (fun x => { x with st := 2 }) }) →
      exec (.crustOpenDone false true) s = .next (t)) ∧
  (∀ (damaged : List Word) (s : State),
      s.f F.CRUST_STAT_STATE ≠ 1 →
      s.f F.CRUST_STAT_STATE ≠ 2 →
      exec (.crustVerifyDone damaged) s = .next (s)) ∧
  (∀ (damaged : List Word) (s : State) (t : State),
      (s.f F.CRUST_STAT_STATE = 1 ∨ s.f F.CRUST_STAT_STATE = 2) →
      t = damaged.foldl (fun s w => s.crustDamaged w.toNat) s →
      exec (.crustVerifyDone damaged) s = .next (((t.setF F.CRUST_STAT_STATE 3).levelEdge 418 (t.levelOn 418)).raise 416)) ∧
  (∀ (s : State) (q : Nat),
      (s.crust.recs.any (fun r => r.seq == q && r.good) = false → s.crustDamaged q = s) ∧
      (s.crust.recs.any (fun r => r.seq == q && r.good) = true → s.crustDamaged q = ((s.modCrust (fun c => { c with recs := c.recs.map (fun r => if r.seq == q then { r with good := false } else r) })).incF F.CRUST_ERR_RECERR 1).raise 417)) ∧
  (∀ (s : State),
      s.f F.CRUST_STAT_STATE = 3 ∧ s.crust.freeGen ≤ 3 ∧ s.crust.compact = none ∧ s.maintBlock 1 = none →
      exec (.crustBackgroundCompact) s = .next (({ s with cmd := { s.cmd with tokens := s.cmd.tokens ++ [({ cls := 1, tp := 7, ep := 0, sess := 0, until_ := s.now } : Token)] } }).modCrust (fun c => { c with compact := some none }))) ∧
  (∀ (s : State),
      ¬(s.f F.CRUST_STAT_STATE = 3 ∧ s.crust.freeGen ≤ 3 ∧ s.crust.compact = none ∧ s.maintBlock 1 = none) →
      exec (.crustBackgroundCompact) s = .next (s)) ∧
  (∀ (s : State),
      (s.f F.CRUST_STAT_STATE ≠ 3 ∨ s.crust.compact = none) →
      exec (.crustCompactionDone) s = .next (s)) ∧
  (∀ (s : State) (k : RKey) (t : State),
      s.f F.CRUST_STAT_STATE = 3 →
      s.crust.compact = some (some k) →
      t = s.modCrust (fun c => { c with compact := none }) →
      t.mustStop 1 = true →
      exec (.crustCompactionDone) s = .next (t.failStopped k 1)) ∧
  (∀ (s : State) (k : RKey) (t : State),
      s.f F.CRUST_STAT_STATE = 3 →
      s.crust.compact = some (some k) →
      t = s.modCrust (fun c => { c with compact := none }) →
      t.mustStop 1 = false →
      exec (.crustCompactionDone) s = .next ((t.compact.1.raise 419).ok k (leBytes 2 (b2n t.compact.2)))) ∧
  (∀ (s : State) (t : State),
      s.f F.CRUST_STAT_STATE = 3 →
      s.crust.compact = some none →
      t = (s.modCrust (fun c => { c with compact := none })).compact.1 →
      exec (.crustCompactionDone) s = .next (({ t with cmd := { t.cmd with tokens := t.cmd.tokens.filter (fun (q : Token) => q.tp != 7) } }).raise 419)) ∧
  (∀ (ok : Bool) (s : State),
      (s.crust.erasing = [] ∨ s.crust.suspended = true) →
      exec (.crustEraseDone ok) s = .next (s)) ∧
  (∀ (s : State) (i : Nat) (rest : List Nat),
      s.crust.erasing = i :: rest →
      s.crust.suspended = false →
      exec (.crustEraseDone false) s = .next (((s.modCrust (fun c => { c with erasing := rest, secs := tblMod c.secs i (fun x => { x with st := 2 }) })).incF F.CRUST_ERR_PROGERR 1).raise 421)) ∧
  (∀ (s : State) (i : Nat) (rest : List Nat) (t : State),
      s.crust.erasing = i :: rest →
      s.crust.suspended = false →
      t = (s.modCrust (fun c => { c with erasing := rest, secs := tblMod c.secs i (fun x => { x with st := 0, used := 0, erases := x.erases + 1 }) })).wearRegs →
      9000 ≤ (tblGet t.crust.secs i).erases →
      t.crust.wearRaised = false →
      exec (.crustEraseDone true) s = .next ((t.modCrust (fun c => { c with wearRaised := true })).raise 420)) ∧
  (∀ (s : State) (i : Nat) (rest : List Nat) (t : State),
      s.crust.erasing = i :: rest →
      s.crust.suspended = false →
      t = (s.modCrust (fun c => { c with erasing := rest, secs := tblMod c.secs i (fun x => { x with st := 0, used := 0, erases := x.erases + 1 }) })).wearRegs →
      ((tblGet t.crust.secs i).erases < 9000 ∨ t.crust.wearRaised = true) →
      exec (.crustEraseDone true) s = .next (t)) ∧
  (∀ (s : State),
      s.crust.queue = [] →
      exec (.crustSpaceWaitExpiry) s = .next (s)) ∧
  (∀ (s : State) (w : CrustWr),
      s.crust.queue.head? = some w →
      s.crustPop.crustHead w = none →
      exec (.crustSpaceWaitExpiry) s = .next (s.crustPop.crustAnswer w stLimit (leBytes 2 0x0902) 1)) ∧
  (∀ (s : State) (w : CrustWr),
      s.crust.queue.head? = some w →
      s.crustPop.crustHead w ≠ none →
      exec (.crustSpaceWaitExpiry) s = .next (s))

/-- Enclave commands; what the published algorithms compute is left uninterpreted (log 5, DESIGN CHOICE of the model). -/
def Obligations.EnclaveCommandsActAsTheTablesSay : Prop :=
  (∀ (r : Req) (s : State) (x : Option Sess) (s1 : State),
      Started s r 8 1 x s1 →
      r.payload.length = 32 →
      exec (.attest r) s = .next (s1.useFree.ok (rkeyOf r) (s1.statement r.payload))) ∧
  (∀ (r : Req) (s : State) (x : Option Sess) (s1 : State),
      Started s r 8 2 x s1 →
      63 < leAt r.payload 0 1 →
      exec (.keyLoad r) s = .next (s1.badParam (rkeyOf r) 0)) ∧
  (∀ (r : Req) (s : State) (x : Option Sess) (s1 : State),
      Started s r 8 2 x s1 →
      leAt r.payload 0 1 ≤ 63 →
      r.payload.length ≠ 89 ∧ r.payload.length ≠ 185 →
      exec (.keyLoad r) s = .next (s1.badParam (rkeyOf r) 1)) ∧
  (∀ (r : Req) (s : State) (x : Option Sess) (s1 : State) (q : EnclRes),
      Started s r 8 2 x s1 →
      (r.payload.length = 89 ∨ r.payload.length = 185) →
      leAt r.payload 0 1 ≤ 63 →
      q = s1.loadKey false (leAt r.payload 0 1) (r.payload.drop 1) →
      q.code ≠ 0 →
      exec (.keyLoad r) s = .next (q.st.failed (rkeyOf r) (0x0F00 + q.code))) ∧
  (∀ (r : Req) (s : State) (x : Option Sess) (s1 : State) (q : EnclRes),
      Started s r 8 2 x s1 →
      (r.payload.length = 89 ∨ r.payload.length = 185) →
      leAt r.payload 0 1 ≤ 63 →
      q = s1.loadKey false (leAt r.payload 0 1) (r.payload.drop 1) →
      q.code = 0 →
      q.res = [] →
      exec (.keyLoad r) s = .next (q.st.ok (rkeyOf r) [])) ∧
  (∀ (r : Req) (s : State) (x : Option Sess) (s1 : State) (q : EnclRes),
      Started s r 8 2 x s1 →
      (r.payload.length = 89 ∨ r.payload.length = 185) →
      leAt r.payload 0 1 ≤ 63 →
      q = s1.loadKey false (leAt r.payload 0 1) (r.payload.drop 1) →
      q.code = 0 →
      q.res ≠ [] →
      exec (.keyLoad r) s = .next (({ q.st with encl := { q.st.encl with store := tblSet q.st.encl.store (leAt r.payload 0 1) q.res } }).ok (rkeyOf r) [])) ∧
  (∀ (r : Req) (s : State) (x : Option Sess) (s1 : State),
      Started s r 8 3 x s1 →
      r.payload.length = 0 →
      3 ≤ s1.encl.fails →
      exec (.debugChallenge r) s = .next (s1.useFree.wrongState (rkeyOf r) (s1.freeNat % 256))) ∧
  (∀ (r : Req) (s : State) (x : Option Sess) (s1 : State),
      Started s r 8 3 x s1 →
      r.payload.length = 0 →
      s1.encl.fails < 3 →
      s1.flag F.ENCL_STAT_TRNG = false →
      exec (.debugChallenge r) s = .next (s1.failed (rkeyOf r) 0x0F09)) ∧
  (∀ (r : Req) (s : State) (x : Option Sess) (s1 : State) (b : List Byte),
      Started s r 8 3 x s1 →
      r.payload.length = 0 →
      s1.encl.fails < 3 →
      s1.flag F.ENCL_STAT_TRNG = true →
      b = leBytes 4 (s1.reg A.SYSCTL_DEVID).toNat ++ fitBytes 16 Config.fuseSerial ++ s1.rand 32 ++ leBytes 2 s1.svn ++ leBytes 1 (s1.f F.DBG_STAT_SCOPE) ++ leBytes 1 0 →
      exec (.debugChallenge r) s = .next (({ s1 with encl := { s1.encl with challenge := some ⟨b, (x.map (fun (y : Sess) => y.id)).getD 0, s1.now⟩ } }).useFree.ok (rkeyOf r) b)) ∧
  (∀ (r : Req) (s : State) (x : Option Sess) (s1 : State),
      Started s r 8 4 x s1 →
      r.payload.length = 196 →
      16 ≤ leAt r.payload 0 1 →
      exec (.debugUnlock r) s = .next (s1.badParam (rkeyOf r) 0)) ∧
  (∀ (r : Req) (s : State) (x : Option Sess) (s1 : State),
      Started s r 8 4 x s1 →
      r.payload.length = 196 →
      leAt r.payload 0 1 < 16 →
      leAt r.payload 1 1 ≠ 0 →
      exec (.debugUnlock r) s = .next (s1.badParam (rkeyOf r) 1)) ∧
  (∀ (r : Req) (s : State) (x : Option Sess) (s1 : State),
      Started s r 8 4 x s1 →
      r.payload.length = 196 →
      leAt r.payload 0 1 < 16 →
      leAt r.payload 1 1 = 0 →
      leAt r.payload 2 2 ≠ 0 →
      exec (.debugUnlock r) s = .next (s1.badParam (rkeyOf r) 2)) ∧
  (∀ (r : Req) (s : State) (x : Option Sess) (s1 : State) (u : State),
      Started s r 8 4 x s1 →
      r.payload.length = 196 →
      leAt r.payload 0 1 < 16 →
      leAt r.payload 1 1 = 0 →
      leAt r.payload 2 2 = 0 →
      (u = (if (s1.encl.challenge.filter (fun (d : DbgNonce) => some d.sess == x.map (fun (y : Sess) => y.id))).isSome then { s1 with encl := { s1.encl with challenge := none } } else s1)) →
      ((∃ d, s1.encl.challenge = some d ∧ some d.sess = x.map (fun (y : Sess) => y.id) ∧ s1.now < d.at_ + 60000000000 ∧ Config.sha384 ((r.payload.drop 4).take 96) = Config.fuseDbgAuth ∧ Config.ecdsaVerify 3 ((r.payload.drop 4).take 96) (Config.sha384 (d.rec_ ++ r.payload.take 1)) (r.payload.drop 100) = true)) →
      exec (.debugUnlock r) s = .next ((u.debugUnlock (leAt r.payload 0 1)).ok (rkeyOf r) [])) ∧
  (∀ (r : Req) (s : State) (x : Option Sess) (s1 : State) (u : State),
      Started s r 8 4 x s1 →
      r.payload.length = 196 →
      leAt r.payload 0 1 < 16 →
      leAt r.payload 1 1 = 0 →
      leAt r.payload 2 2 = 0 →
      (u = (if (s1.encl.challenge.filter (fun (d : DbgNonce) => some d.sess == x.map (fun (y : Sess) => y.id))).isSome then { s1 with encl := { s1.encl with challenge := none } } else s1)) →
      (¬(∃ d, s1.encl.challenge = some d ∧ some d.sess = x.map (fun (y : Sess) => y.id) ∧ s1.now < d.at_ + 60000000000 ∧ Config.sha384 ((r.payload.drop 4).take 96) = Config.fuseDbgAuth ∧ Config.ecdsaVerify 3 ((r.payload.drop 4).take 96) (Config.sha384 (d.rec_ ++ r.payload.take 1)) (r.payload.drop 100) = true)) →
      exec (.debugUnlock r) s = .next ((({ u with encl := { u.encl with fails := u.encl.fails + 1 } }).raise 455).finish (rkeyOf r) stAuthFailed [])) ∧
  (∀ (s : State),
      s.debugUnlock 0 = s) ∧
  (∀ (s : State) (scope : Nat) (t : State),
      scope ≠ 0 →
      (t = forBelow 64 s (fun i s => if (s.slot i).isSome then s.dropSlot i else s)) →
      s.debugUnlock scope = ((t.dropEngineKeys.setF F.ENCL_STAT_DBG 1).setF F.DBG_STAT_SCOPE scope).raise 454) ∧
  (∀ (cause : Fin 5) (s : State) (t : State),
      s.encl.running = none →
      t = { s with
          encl := { (default : EnclSt) with ops := s.encl.ops, first := s.encl.first, fails := s.encl.fails, store := s.encl.store }
          cmd := { s.cmd with sess := s.cmd.sess.map (fun (x : Sess) => { x with key := zeroKey }) }
          acc := { s.acc with key := zeroKey }
          can := { s.can with ch := s.can.ch.map (fun (x : Nat × CanCh) => (x.1, { x.2 with key := x.2.key.map (fun _ => zeroKey) })) }
          ring := { s.ring with links := s.ring.links.map (fun (x : Nat × BrlLink) => (x.1, { x.2 with key := x.2.key.map (fun _ => zeroKey) })) } } →
      exec (.enclTamper cause) s = .next (((((t.setReg A.ENCL_SLOTS_L 0).setReg A.ENCL_SLOTS_H 0).setFbit F.ENCL_TAMPER_CAUSE cause true).raise 453).reqReset 11 none)) ∧
  (∀ (cause : Fin 5) (s : State) (c : Nat) (t : State),
      s.encl.running = some c →
      t = { s with
          encl := { (default : EnclSt) with ops := s.encl.ops, first := s.encl.first, fails := s.encl.fails, store := s.encl.store }
          cmd := { s.cmd with sess := s.cmd.sess.map (fun (x : Sess) => { x with key := zeroKey }) }
          acc := { s.acc with key := zeroKey }
          can := { s.can with ch := s.can.ch.map (fun (x : Nat × CanCh) => (x.1, { x.2 with key := x.2.key.map (fun _ => zeroKey) })) }
          ring := { s.ring with links := s.ring.links.map (fun (x : Nat × BrlLink) => (x.1, { x.2 with key := x.2.key.map (fun _ => zeroKey) })) } } →
      exec (.enclTamper cause) s = .next ((((((({ t with encl := { t.encl with ops := tblErase t.encl.ops c } }).setF (F.MB_STAT_BUSY c) 0).setReg A.ENCL_SLOTS_L 0).setReg A.ENCL_SLOTS_H 0).setFbit F.ENCL_TAMPER_CAUSE cause true).raise 453).reqReset 11 none))

/-- The transports; the ISO 15765-2 frame formats are the model's reading of that standard (log 61, PRESUMED). -/
def Obligations.TransportsDeliverPacketsAsTheRulesSay : Prop :=
  (∀ (s : State) (tp : Nat) (ep : Nat) (b : List Byte),
      (s.tpOn tp = false → s.rxBytes tp ep b = s) ∧
      (s.tpOn tp = true → s.maxPkt tp < b.length → s.rxBytes tp ep b = s.discard tp false) ∧
      (s.tpOn tp = true → b.length ≤ s.maxPkt tp → pktCheck b = some .len → s.rxBytes tp ep b = s.discard tp false) ∧
      (∀ e, e ≠ .len → s.tpOn tp = true → b.length ≤ s.maxPkt tp → pktCheck b = some e → s.rxBytes tp ep b = s.discard tp true) ∧
      (s.tpOn tp = true → b.length ≤ s.maxPkt tp → pktCheck b = none → tp = 4 → (parsePkt b).type = 1 ∨ (parsePkt b).type = 3 → s.rxBytes tp ep b = s.relay ep b) ∧
      (s.tpOn tp = true → b.length ≤ s.maxPkt tp → pktCheck b = none → tp ≠ 4 ∨ ((parsePkt b).type ≠ 1 ∧ (parsePkt b).type ≠ 3) →
        s.rxBytes tp ep b = s.deliver tp ep (parsePkt b) (bodyOf (parsePkt b).grp (parsePkt b).op))) ∧
  (pktCheck [] = some .len ∧ (∀ (s : State) (r : Req) (g o : Nat) (b : Body), s.opcode r g o b = s.deliver r.tp.val r.ep (reqPkt r g o) b)) ∧
  (∀ (s : State) (src : Nat) (b : List Byte) (w : Fwd) (out : List Byte),
      s.cmd.fwd.find? (fun w => w.dst == src && w.seq == (parsePkt b).seq) = some w →
      (out = if s.maxPkt w.tp < b.length then (s.replyPkt w.src w.seq w.grp w.op w.sess (parsePkt b).type stBadParam (leBytes 2 (longParam w.grp w.op)) (s.inSess w.tp w.ep w.sess)).bytes else b) →
      ((parsePkt b).type = 1 → (parsePkt b).stat = stAccepted →
        s.relay src b = (({ s with cmd := { s.cmd with fwd := s.cmd.fwd.map (fun (x : Fwd) => if x = w then { x with acc := true } else x) } }).syncOut w.tp).sendBytes w.tp w.ep out) ∧
      ((parsePkt b).type ≠ 1 ∨ (parsePkt b).stat ≠ stAccepted →
        s.relay src b = (({ s with cmd := { s.cmd with fwd := s.cmd.fwd.erase w } }).syncOut w.tp).sendBytes w.tp w.ep out)) ∧
  (∀ (s : State) (src : Nat) (b : List Byte),
      s.cmd.fwd.find? (fun w => w.dst == src && w.seq == (parsePkt b).seq) = none →
      ((∃ g, s.upd.fwd = some g ∧ g.active.any (fun x => x.1 == src && x.2.1 == (parsePkt b).seq) = true) → s.relay src b = s.fwdReply src (parsePkt b).seq (parsePkt b).op (parsePkt b).stat) ∧
      (¬(∃ g, s.upd.fwd = some g ∧ g.active.any (fun x => x.1 == src && x.2.1 == (parsePkt b).seq) = true) → (∃ e, s.ring.hs.edit = some e ∧ src = s.partner ∧ e.seq = (parsePkt b).seq) → s.relay src b = s.hsReply src (parsePkt b).seq (parsePkt b).stat (parsePkt b).payload) ∧
      (¬(∃ g, s.upd.fwd = some g ∧ g.active.any (fun x => x.1 == src && x.2.1 == (parsePkt b).seq) = true) → ¬(∃ e, s.ring.hs.edit = some e ∧ src = s.partner ∧ e.seq = (parsePkt b).seq) → s.relay src b = s.discard 4 false)) ∧
  (∀ (brlSrc : BitVec 12) (bytes : List Byte) (s : State),
      (s.tpOn 4 = true ∧ s.brlTakes = true ∧ pktCheck bytes = none ∧ ((parsePkt bytes).type = 1 ∨ (parsePkt bytes).type = 3)) →
      exec (.cmdReplyRelay brlSrc bytes) s = .next (s.relay brlSrc.toNat bytes)) ∧
  (∀ (brlSrc : BitVec 12) (bytes : List Byte) (s : State),
      (¬(s.tpOn 4 = true ∧ s.brlTakes = true ∧ pktCheck bytes = none ∧ ((parsePkt bytes).type = 1 ∨ (parsePkt bytes).type = 3))) →
      exec (.cmdReplyRelay brlSrc bytes) s = .next (s)) ∧
  (∀ (ready : Bool) (room : Fin 65537),
      hostRdy ready room = true ↔ ready = true ∧ 4124 ≤ room.val) ∧
  (∀ (rdy : Bool) (room : Fin 65537) (bytes : List Byte) (s : State),
      hostRdy rdy room = false →
      exec (.hostWrite rdy room bytes) s = .next ((({ s with cmd := { s.cmd with hostProto := true } }).emit .host (List.replicate (4 + bytes.length) 0xFF#8)).raise 405)) ∧
  (∀ (rdy : Bool) (room : Fin 65537) (bytes : List Byte) (s : State) (t : State),
      hostRdy rdy room = true →
      room.val < bytes.length →
      t = ({ s with cmd := { s.cmd with hostOvf := false, hostProto := false } }).emit .host (s.hostStatus ++ List.replicate bytes.length 0#8) →
      exec (.hostWrite rdy room bytes) s = .next (({ t with cmd := { t.cmd with hostOvf := true } }).raise 400)) ∧
  (∀ (rdy : Bool) (room : Fin 65537) (bytes : List Byte) (s : State) (t : State),
      hostRdy rdy room = true →
      bytes.length ≤ room.val →
      t = ({ s with cmd := { s.cmd with hostOvf := false, hostProto := false } }).emit .host (s.hostStatus ++ List.replicate bytes.length 0#8) →
      exec (.hostWrite rdy room bytes) s = .next (t.rxBytes 0 0 bytes)) ∧
  (∀ (rdy : Bool) (room : Fin 65537) (tlen : BitVec 16) (s : State),
      hostRdy rdy room = false →
      exec (.hostRead ⟨rdy, room⟩ tlen) s = .next ((({ s with cmd := { s.cmd with hostProto := true } }).emit .host (List.replicate (4 + tlen.toNat) 0xFF#8)).raise 405)) ∧
  (∀ (rdy : Bool) (room : Fin 65537) (tlen : BitVec 16) (s : State) (t : State),
      hostRdy rdy room = true →
      s.cmd.hostQ = [] →
      t = ({ s with cmd := { s.cmd with hostOvf := false, hostProto := false } }).emit .host (s.hostStatus ++ List.replicate tlen.toNat 0#8) →
      exec (.hostRead ⟨rdy, room⟩ tlen) s = .next (t)) ∧
  (∀ (rdy : Bool) (room : Fin 65537) (tlen : BitVec 16) (s : State) (b : List Byte) (q : List (List Byte)) (t : State),
      hostRdy rdy room = true →
      s.cmd.hostQ = b :: q →
      t = ({ s with cmd := { s.cmd with hostOvf := false, hostProto := false } }).emit .host (s.hostStatus ++ fitBytes tlen.toNat b) →
      tlen.toNat < b.length →
      exec (.hostRead ⟨rdy, room⟩ tlen) s = .next ({ t with cmd := { t.cmd with hostProto := true } })) ∧
  (∀ (rdy : Bool) (room : Fin 65537) (tlen : BitVec 16) (s : State) (b : List Byte) (q : List (List Byte)) (t : State),
      hostRdy rdy room = true →
      s.cmd.hostQ = b :: q →
      t = ({ s with cmd := { s.cmd with hostOvf := false, hostProto := false } }).emit .host (s.hostStatus ++ fitBytes tlen.toNat b) →
      b.length ≤ tlen.toNat →
      exec (.hostRead ⟨rdy, room⟩ tlen) s = .next ({ t with cmd := { t.cmd with hostQ := q } })) ∧
  (∀ (rdy : Bool) (room : Fin 65537) (s : State),
      hostRdy rdy room = true →
      exec (.hostPoll ⟨rdy, room⟩) s = .next (({ s with cmd := { s.cmd with hostOvf := false, hostProto := false } }).emit .host s.hostStatus)) ∧
  (∀ (rdy : Bool) (room : Fin 65537) (s : State),
      hostRdy rdy room = false →
      exec (.hostPoll ⟨rdy, room⟩) s = .next ((({ s with cmd := { s.cmd with hostProto := true } }).emit .host (List.replicate 4 0xFF#8)).raise 405)) ∧
  (∀ (s : State),
      (s.cmd.hostQ = [] → s.hostStatus = leBytes 1 (1 + 4 * b2n s.cmd.hostOvf + 8 * b2n s.cmd.hostProto) ++ leBytes 2 0 ++ leBytes 1 (s.outCount 0)) ∧
      (∀ b q, s.cmd.hostQ = b :: q → s.hostStatus = leBytes 1 (3 + 4 * b2n s.cmd.hostOvf + 8 * b2n s.cmd.hostProto) ++ leBytes 2 b.length ++ leBytes 1 (s.outCount 0))) ∧
  (∀ (eth : Fin 2) (ep : Nat) (fragment : Bool) (bytes : List Byte) (s : State),
      (fragment = true ∨ s.ethUp eth.val = false) →
      exec (.udpDatagramRx eth ep fragment bytes) s = .next (s)) ∧
  (∀ (eth : Fin 2) (ep : Nat) (bytes : List Byte) (s : State),
      s.ethUp eth.val = true →
      exec (.udpDatagramRx eth ep false bytes) s = .next (s.rxBytes (1 + eth.val) ep bytes)) ∧
  (∀ (bytes : List Byte) (s : State),
      s.flag F.USBS_STAT_CONFIGURED = true →
      exec (.usbBulkOut bytes) s = .next (s.rxBytes 3 0 bytes)) ∧
  (∀ (bytes : List Byte) (s : State),
      s.flag F.USBS_STAT_CONFIGURED = false →
      exec (.usbBulkOut bytes) s = .next (s)) ∧
  (∀ (bytes : List Byte) (s : State),
      s.upd.recov = 1 →
      exec (.recoveryLoader bytes) s = .next (s.rxBytes 3 0 bytes)) ∧
  (∀ (bytes : List Byte) (s : State),
      s.upd.recov ≠ 1 →
      exec (.recoveryLoader bytes) s = .next (s)) ∧
  (∀ (rid : BitVec 32) (data : List (BitVec 8)) (s : State),
      (s.flag F.CMD_ISOTP_CFG_EN = false ∨ s.tpOn 5 = false ∨ data = [] ∨ s.isoMine rid.toNat = false ∨ s.canHears (s.f F.CMD_ISOTP_CFG_CHANNEL) = false) →
      exec (.isotpFrameRx ⟨rid, data⟩) s = .next (s)) ∧
  (∀ (rid : BitVec 32) (data : List (BitVec 8)) (s : State) (q : Nat × List Byte),
      s.flag F.CMD_ISOTP_CFG_EN = true ∧ s.tpOn 5 = true ∧ data ≠ [] ∧ s.isoMine rid.toNat = true ∧ s.canHears (s.f F.CMD_ISOTP_CFG_CHANNEL) = true →
      leAt data 0 1 / 16 = 0 →
      (q = (if leAt data 0 1 = 0 ∧ 8 < data.length then (leAt data 1 1, data.drop 2) else (leAt data 0 1, data.drop 1))) →
      (q.1 = 0 ∨ q.2.length < q.1) →
      exec (.isotpFrameRx ⟨rid, data⟩) s = .next (s)) ∧
  (∀ (rid : BitVec 32) (data : List (BitVec 8)) (s : State) (q : Nat × List Byte),
      s.flag F.CMD_ISOTP_CFG_EN = true ∧ s.tpOn 5 = true ∧ data ≠ [] ∧ s.isoMine rid.toNat = true ∧ s.canHears (s.f F.CMD_ISOTP_CFG_CHANNEL) = true →
      leAt data 0 1 / 16 = 0 →
      (q = (if leAt data 0 1 = 0 ∧ 8 < data.length then (leAt data 1 1, data.drop 2) else (leAt data 0 1, data.drop 1))) →
      1 ≤ q.1 →
      q.1 ≤ q.2.length →
      exec (.isotpFrameRx ⟨rid, data⟩) s = .next ((s.modIso (fun x => { x with rxBusy := false, rx := [], rxLen := 0 })).rxBytes 5 0 (q.2.take q.1))) ∧
  (∀ (rid : BitVec 32) (data : List (BitVec 8)) (s : State),
      s.flag F.CMD_ISOTP_CFG_EN = true ∧ s.tpOn 5 = true ∧ data ≠ [] ∧ s.isoMine rid.toNat = true ∧ s.canHears (s.f F.CMD_ISOTP_CFG_CHANNEL) = true →
      leAt data 0 1 / 16 = 1 →
      exec (.isotpFrameRx ⟨rid, data⟩) s = .next (s.isoFirst (leAt data 0 1 % 16 * 256 + leAt data 1 1) (data.drop 2))) ∧
  (∀ (rid : BitVec 32) (data : List (BitVec 8)) (s : State),
      s.flag F.CMD_ISOTP_CFG_EN = true ∧ s.tpOn 5 = true ∧ data ≠ [] ∧ s.isoMine rid.toNat = true ∧ s.canHears (s.f F.CMD_ISOTP_CFG_CHANNEL) = true →
      leAt data 0 1 / 16 = 2 →
      s.cmd.isotp.rxBusy = false →
      exec (.isotpFrameRx ⟨rid, data⟩) s = .next (s)) ∧
  (∀ (rid : BitVec 32) (data : List (BitVec 8)) (s : State),
      s.flag F.CMD_ISOTP_CFG_EN = true ∧ s.tpOn 5 = true ∧ data ≠ [] ∧ s.isoMine rid.toNat = true ∧ s.canHears (s.f F.CMD_ISOTP_CFG_CHANNEL) = true →
      leAt data 0 1 / 16 = 2 →
      s.cmd.isotp.rxBusy = true →
      leAt data 0 1 % 16 = s.cmd.isotp.rxSn →
      exec (.isotpFrameRx ⟨rid, data⟩) s = .next (s.isoTake (data.drop 1))) ∧
  (∀ (rid : BitVec 32) (data : List (BitVec 8)) (s : State),
      s.flag F.CMD_ISOTP_CFG_EN = true ∧ s.tpOn 5 = true ∧ data ≠ [] ∧ s.isoMine rid.toNat = true ∧ s.canHears (s.f F.CMD_ISOTP_CFG_CHANNEL) = true →
      leAt data 0 1 / 16 = 2 →
      s.cmd.isotp.rxBusy = true →
      leAt data 0 1 % 16 ≠ s.cmd.isotp.rxSn →
      exec (.isotpFrameRx ⟨rid, data⟩) s = .next ((s.modIso (fun x => { x with rxBusy := false, rx := [], rxLen := 0 })))) ∧
  (∀ (rid : BitVec 32) (data : List (BitVec 8)) (s : State),
      s.flag F.CMD_ISOTP_CFG_EN = true ∧ s.tpOn 5 = true ∧ data ≠ [] ∧ s.isoMine rid.toNat = true ∧ s.canHears (s.f F.CMD_ISOTP_CFG_CHANNEL) = true →
      leAt data 0 1 / 16 = 3 →
      exec (.isotpFrameRx ⟨rid, data⟩) s = .next (s.isoFlow (leAt data 0 1 % 16) (leAt data 1 1))) ∧
  (∀ (rid : BitVec 32) (data : List (BitVec 8)) (s : State),
      s.flag F.CMD_ISOTP_CFG_EN = true ∧ s.tpOn 5 = true ∧ data ≠ [] ∧ s.isoMine rid.toNat = true ∧ s.canHears (s.f F.CMD_ISOTP_CFG_CHANNEL) = true →
      3 < leAt data 0 1 / 16 →
      exec (.isotpFrameRx ⟨rid, data⟩) s = .next (s)) ∧
  (∀ (s : State),
      s.cmd.isotp.rxBusy = true →
      exec (.isotpNcrTimeout) s = .next ((s.modIso (fun x => { x with rxBusy := false, rx := [], rxLen := 0 })).raise 406)) ∧
  (∀ (s : State),
      s.cmd.isotp.rxBusy = false →
      exec (.isotpNcrTimeout) s = .next (s)) ∧
  (∀ (s : State) (n : Nat) (d : List Byte),
      (n ≤ isoSfMax (s.flag F.CMD_ISOTP_CFG_FD) → s.isoFirst n d = s) ∧
      (isoSfMax (s.flag F.CMD_ISOTP_CFG_FD) < n → s.isoFirst n d = (s.modIso (fun x => { x with rxBusy := true, rx := d, rxLen := n, rxSn := 1, rxBs := 0 })).isoFc)) ∧
  (∀ (s : State) (d : List Byte) (rx : List Byte),
      rx = (s.cmd.isotp.rx ++ d).take s.cmd.isotp.rxLen →
      s.cmd.isotp.rxLen ≤ rx.length →
      s.isoTake d = (s.modIso (fun x => { x with rxBusy := false, rx := [], rxLen := 0 })).rxBytes 5 0 rx) ∧
  (∀ (who : Who) (value : Word) (s : State),
      s.regOk who (A.CMD_ISOTP_CFG) = true →
      (s.flag F.CMD_ISOTP_CFG_EN && bit value.toNat 4 && s.f F.CMD_ISOTP_CFG_CHANNEL == value.toNat % 16) = true →
      exec (.isotpEnable who value) s = .next (s.plainKeep A.CMD_ISOTP_CFG value [])) ∧
  (∀ (who : Who) (value : Word) (s : State) (t : State),
      s.regOk who (A.CMD_ISOTP_CFG) = true →
      (s.flag F.CMD_ISOTP_CFG_EN && bit value.toNat 4 && s.f F.CMD_ISOTP_CFG_CHANNEL == value.toNat % 16) = false →
      t = (s.isotpOff.plainKeep A.CMD_ISOTP_CFG value [F.CMD_ISOTP_CFG_EN]).setF F.CMD_ISOTP_CFG_EN 0 →
      bit value.toNat 4 = false →
      exec (.isotpEnable who value) s = .next (t)) ∧
  (∀ (who : Who) (value : Word) (s : State) (t : State) (ch : Nat),
      s.regOk who (A.CMD_ISOTP_CFG) = true →
      (s.flag F.CMD_ISOTP_CFG_EN && bit value.toNat 4 && s.f F.CMD_ISOTP_CFG_CHANNEL == value.toNat % 16) = false →
      t = (s.isotpOff.plainKeep A.CMD_ISOTP_CFG value [F.CMD_ISOTP_CFG_EN]).setF F.CMD_ISOTP_CFG_EN 0 →
      bit value.toNat 4 = true →
      ch = t.f F.CMD_ISOTP_CFG_CHANNEL →
      t.canReserved ch 63 = true →
      exec (.isotpEnable who value) s = .next (t.conflict (resId 8 (64 * ch + 63)) 6 0)) ∧
  (∀ (who : Who) (value : Word) (s : State) (t : State) (ch : Nat) (u : State) (e : Nat),
      s.regOk who (A.CMD_ISOTP_CFG) = true →
      (s.flag F.CMD_ISOTP_CFG_EN && bit value.toNat 4 && s.f F.CMD_ISOTP_CFG_CHANNEL == value.toNat % 16) = false →
      t = (s.isotpOff.plainKeep A.CMD_ISOTP_CFG value [F.CMD_ISOTP_CFG_EN]).setF F.CMD_ISOTP_CFG_EN 0 →
      bit value.toNat 4 = true →
      ch = t.f F.CMD_ISOTP_CFG_CHANNEL →
      t.canReserved ch 63 = false →
      t.claimAll 6 (isotpIds ch) = (u, some e) →
      exec (.isotpEnable who value) s = .next (u)) ∧
  (∀ (who : Who) (value : Word) (s : State) (t : State) (ch : Nat) (u : State),
      s.regOk who (A.CMD_ISOTP_CFG) = true →
      (s.flag F.CMD_ISOTP_CFG_EN && bit value.toNat 4 && s.f F.CMD_ISOTP_CFG_CHANNEL == value.toNat % 16) = false →
      t = (s.isotpOff.plainKeep A.CMD_ISOTP_CFG value [F.CMD_ISOTP_CFG_EN]).setF F.CMD_ISOTP_CFG_EN 0 →
      bit value.toNat 4 = true →
      ch = t.f F.CMD_ISOTP_CFG_CHANNEL →
      t.canReserved ch 63 = false →
      t.claimAll 6 (isotpIds ch) = (u, none) →
      exec (.isotpEnable who value) s = .next (((u.setReg (A.CAN_FILT ch 1023) (toW ((if u.f F.CMD_ISOTP_CFG_IDE = 1 then u.f F.CMD_ISOTP_RXID_ID else u.f F.CMD_ISOTP_RXID_ID % 2 ^ 11) + 2 ^ 29 * u.f F.CMD_ISOTP_CFG_IDE + 2 ^ 31))).setF (F.CAN_MASK_MASK ch 1023) 0x1FFFFFFF).setF F.CMD_ISOTP_CFG_EN 1)) ∧
  (∀ (l : Fin 3) (lseq : BitVec 8) (dst : BitVec 12) (src : BitVec 12) (hops : BitVec 16) (bseq : BitVec 16) (payload : List Byte) (tag : List Byte) (s : State),
      exec (.brlCommandFrame l lseq dst src hops bseq payload tag) s = .next (s.brlTagged 1 l lseq.toNat dst.toNat src.toNat hops.toNat bseq.toNat payload tag)) ∧
  (∀ (l : Fin 3) (lseq : BitVec 8) (dst : BitVec 12) (src : BitVec 12) (hops : BitVec 16) (bseq : BitVec 16) (payload : List Byte) (tag : List Byte) (s : State),
      ¬(s.peerBoot = true ∧ s.linkSt l = 2) →
      exec (.brlUpdateFrame l lseq dst src hops bseq payload tag) s = .next (s.brlTagged 2 l lseq.toNat dst.toNat src.toNat hops.toNat bseq.toNat payload tag)) ∧
  (∀ (l : Fin 3) (lseq : BitVec 8) (dst : BitVec 12) (src : BitVec 12) (hops : BitVec 16) (bseq : BitVec 16) (payload : List Byte) (tag : List Byte) (s : State),
      s.peerBoot = true ∧ s.linkSt l = 2 →
      pktCheck payload = none ∧ (parsePkt payload).type = 0 →
      exec (.brlUpdateFrame l lseq dst src hops bseq payload tag) s = .next (s.request 4 src.toNat (parsePkt payload) (bodyOf (parsePkt payload).grp (parsePkt payload).op))) ∧
  (∀ (l : Fin 3) (lseq : BitVec 8) (dst : BitVec 12) (src : BitVec 12) (hops : BitVec 16) (bseq : BitVec 16) (payload : List Byte) (tag : List Byte) (s : State),
      s.peerBoot = true ∧ s.linkSt l = 2 →
      ¬(pktCheck payload = none ∧ (parsePkt payload).type = 0) →
      exec (.brlUpdateFrame l lseq dst src hops bseq payload tag) s = .next (s.brlDrop l)) ∧
  (∀ (s : State) (kind : Nat) (l : Nat) (lseq : Nat) (dst : Nat) (src : Nat) (hops : Nat) (bseq : Nat) (pl : List Byte) (tag : List Byte) (good : List Byte),
      good = s.brlTag l (brlHead kind lseq dst src hops bseq pl) →
      (s.linkSt l ≠ 3 → s.brlTagged kind l lseq dst src hops bseq pl tag = s) ∧
      (s.linkSt l = 3 → tag ≠ good → s.brlTagged kind l lseq dst src hops bseq pl tag = (s.brlDrop l).raise 323) ∧
      (s.linkSt l = 3 → tag = good → dst = 0xFFF → (s.brlBroadcast l kind src hops bseq pl).2 = true →
        s.brlTagged kind l lseq dst src hops bseq pl tag = (s.brlBroadcast l kind src hops bseq pl).1.rxBytes 4 src pl) ∧
      (s.linkSt l = 3 → tag = good → dst = 0xFFF → (s.brlBroadcast l kind src hops bseq pl).2 = false →
        s.brlTagged kind l lseq dst src hops bseq pl tag = (s.brlBroadcast l kind src hops bseq pl).1) ∧
      (s.linkSt l = 3 → tag = good → dst ≠ 0xFFF → dst ≠ 0 → dst = s.ownAddr → s.flag F.RING_ADDR_CONFLICT = false → s.brlTagged kind l lseq dst src hops bseq pl tag = s.rxBytes 4 src pl) ∧
      (s.linkSt l = 3 → tag = good → dst ≠ 0xFFF → dst ≠ 0 → dst = s.ownAddr → s.flag F.RING_ADDR_CONFLICT = true → s.brlTagged kind l lseq dst src hops bseq pl tag = s) ∧
      (s.linkSt l = 3 → tag = good → dst ≠ 0xFFF → dst = 0 ∨ dst ≠ s.ownAddr → s.brlTagged kind l lseq dst src hops bseq pl tag = s.brlTransit l kind dst src hops pl))
end

