-- ==== Sys2Proof/Laws/Bits.lean ====
section
/-! SUPPORT. Laws of the plain helpers: bit fields, byte order, sparse tables. -/
namespace Sys2Proof.Machine

theorem bits_lt (x hi lo : Nat) : bits x hi lo < 2 ^ (hi + 1 - lo) := Nat.mod_lt _ (Nat.two_pow_pos _)

/-- A field reads back what was put into it. -/
theorem bits_putBits (x hi lo v : Nat) (h : lo ≤ hi + 1) : bits (putBits x hi lo v) hi lo = v % 2 ^ (hi + 1 - lo) := by
  have e : 2 ^ (hi + 1) = 2 ^ (hi + 1 - lo) * 2 ^ lo := by rw [← pow_add]; congr 1; omega
  unfold bits putBits
  have h1 : x / 2 ^ (hi + 1) * 2 ^ (hi + 1) + v % 2 ^ (hi + 1 - lo) * 2 ^ lo + x % 2 ^ lo =
      x % 2 ^ lo + 2 ^ lo * (v % 2 ^ (hi + 1 - lo) + 2 ^ (hi + 1 - lo) * (x / 2 ^ (hi + 1))) := by
    rw [e]; ring
  rw [h1, Nat.add_mul_div_left _ _ (Nat.two_pow_pos lo), Nat.div_eq_of_lt (Nat.mod_lt _ (Nat.two_pow_pos lo)), Nat.zero_add,
    Nat.add_mul_mod_self_left, Nat.mod_mod]

/-- A field below the one that is put keeps its value. -/
theorem bits_putBits_below (x hi lo v h l : Nat) (hl : h < lo) (hh : lo ≤ hi + 1) : bits (putBits x hi lo v) h l = bits x h l := by
  rcases Nat.lt_or_ge h l with g | g
  · unfold bits; have : h + 1 - l = 0 := by omega
    rw [this, pow_zero, Nat.mod_one, Nat.mod_one]
  have key : putBits x hi lo v % 2 ^ lo = x % 2 ^ lo := by
    have e : 2 ^ (hi + 1) = 2 ^ (hi + 1 - lo) * 2 ^ lo := by rw [← pow_add]; congr 1; omega
    unfold putBits
    have : x / 2 ^ (hi + 1) * 2 ^ (hi + 1) + v % 2 ^ (hi + 1 - lo) * 2 ^ lo + x % 2 ^ lo =
        x % 2 ^ lo + 2 ^ lo * (v % 2 ^ (hi + 1 - lo) + 2 ^ (hi + 1 - lo) * (x / 2 ^ (hi + 1))) := by rw [e]; ring
    rw [this, Nat.add_mul_mod_self_left, Nat.mod_mod]
  have low : ∀ y : Nat, bits y h l = bits (y % 2 ^ lo) h l := by
    intro y
    unfold bits
    have e2 : 2 ^ lo = 2 ^ l * (2 ^ (h + 1 - l) * 2 ^ (lo - (h + 1))) := by
      rw [← pow_add, ← pow_add]; congr 1; omega
    rw [e2, Nat.mod_mul_right_div_self, Nat.mod_mul_right_mod]
  rw [low (putBits x hi lo v), key, ← low x]

/-- A field above the one that is put keeps its value. -/
theorem bits_putBits_above (x hi lo v h l : Nat) (hl : hi < l) (hh : lo ≤ hi + 1) : bits (putBits x hi lo v) h l = bits x h l := by
  have e : 2 ^ (hi + 1) = 2 ^ lo * 2 ^ (hi + 1 - lo) := by rw [← pow_add]; congr 1; omega
  have hb : v % 2 ^ (hi + 1 - lo) * 2 ^ lo + x % 2 ^ lo < 2 ^ (hi + 1) := by
    have h1 := Nat.mod_lt v (Nat.two_pow_pos (hi + 1 - lo))
    have h2 := Nat.mod_lt x (Nat.two_pow_pos lo)
    rw [e]
    calc v % 2 ^ (hi + 1 - lo) * 2 ^ lo + x % 2 ^ lo < v % 2 ^ (hi + 1 - lo) * 2 ^ lo + 2 ^ lo := by omega
      _ = 2 ^ lo * (v % 2 ^ (hi + 1 - lo) + 1) := by ring
      _ ≤ 2 ^ lo * 2 ^ (hi + 1 - lo) := Nat.mul_le_mul_left _ h1
  have key : putBits x hi lo v / 2 ^ (hi + 1) = x / 2 ^ (hi + 1) := by
    unfold putBits
    rw [Nat.add_assoc, Nat.add_comm, Nat.add_mul_div_right _ _ (Nat.two_pow_pos _), Nat.div_eq_of_lt hb, Nat.zero_add]
  unfold bits
  have e2 : 2 ^ l = 2 ^ (hi + 1) * 2 ^ (l - (hi + 1)) := by rw [← pow_add]; congr 1; omega
  rw [e2, ← Nat.div_div_eq_div_mul, ← Nat.div_div_eq_div_mul, key]

/-- A put field keeps a 32-bit word in range. -/
theorem putBits_lt (x hi lo v : Nat) (hx : x < 2 ^ 32) (h : hi < 32) (hl : lo ≤ hi + 1) : putBits x hi lo v < 2 ^ 32 := by
  have e : 2 ^ (hi + 1) = 2 ^ lo * 2 ^ (hi + 1 - lo) := by rw [← pow_add]; congr 1; omega
  have e32 : 2 ^ 32 = 2 ^ (32 - (hi + 1)) * 2 ^ (hi + 1) := by rw [← pow_add]; congr 1; omega
  have h1 := Nat.mod_lt v (Nat.two_pow_pos (hi + 1 - lo))
  have h2 := Nat.mod_lt x (Nat.two_pow_pos lo)
  have hb : v % 2 ^ (hi + 1 - lo) * 2 ^ lo + x % 2 ^ lo < 2 ^ (hi + 1) := by
    rw [e]
    calc v % 2 ^ (hi + 1 - lo) * 2 ^ lo + x % 2 ^ lo < v % 2 ^ (hi + 1 - lo) * 2 ^ lo + 2 ^ lo := by omega
      _ = 2 ^ lo * (v % 2 ^ (hi + 1 - lo) + 1) := by ring
      _ ≤ 2 ^ lo * 2 ^ (hi + 1 - lo) := Nat.mul_le_mul_left _ h1
  have hd : x / 2 ^ (hi + 1) < 2 ^ (32 - (hi + 1)) := by
    rw [Nat.div_lt_iff_lt_mul (Nat.two_pow_pos _), ← e32]; exact hx
  unfold putBits
  rw [Nat.add_assoc]
  calc x / 2 ^ (hi + 1) * 2 ^ (hi + 1) + (v % 2 ^ (hi + 1 - lo) * 2 ^ lo + x % 2 ^ lo)
      < x / 2 ^ (hi + 1) * 2 ^ (hi + 1) + 2 ^ (hi + 1) := by omega
    _ = (x / 2 ^ (hi + 1) + 1) * 2 ^ (hi + 1) := by ring
    _ ≤ 2 ^ (32 - (hi + 1)) * 2 ^ (hi + 1) := Nat.mul_le_mul_right _ hd
    _ = 2 ^ 32 := e32.symm

@[simp] theorem toW_toNat (x : Nat) : (toW x).toNat = x % 2 ^ 32 := by simp [toW]

@[simp] theorem leBytes_length (n v : Nat) : (leBytes n v).length = n := by
  induction n generalizing v with
  | zero => rfl
  | succ n ih => simp [leBytes, ih]

/-- Reading back a little-endian number (R3). -/
theorem leVal_leBytes (n v : Nat) : leVal (leBytes n v) = v % 256 ^ n := by
  induction n generalizing v with
  | zero => simp [leBytes, leVal, Nat.mod_one]
  | succ n ih =>
    simp only [leBytes, leVal, ih, BitVec.toNat_ofNat]
    rw [show (256 : Nat) ^ (n + 1) = 256 * 256 ^ n by ring, show (2 : Nat) ^ 8 = 256 by rfl, Nat.mod_mul]

/-! Sparse tables. -/

@[simp] theorem tblFind_tblSet_same {α : Type} (t : Tbl α) (i : Nat) (x : α) : tblFind (tblSet t i x) i = some x := by
  induction t with
  | nil => simp [tblSet, tblFind]
  | cons h t ih =>
    obtain ⟨j, y⟩ := h
    by_cases h1 : j = i
    · simp [tblSet, tblFind, h1]
    · by_cases h2 : i < j
      · simp [tblSet, tblFind, h1, h2]
      · simp [tblSet, tblFind, h1, h2, ih]

theorem tblFind_tblSet_other {α : Type} (t : Tbl α) (i k : Nat) (x : α) (h : k ≠ i) : tblFind (tblSet t i x) k = tblFind t k := by
  induction t with
  | nil =>
    have : ¬ i = k := fun e => h e.symm
    simp [tblSet, tblFind, this]
  | cons g t ih =>
    obtain ⟨j, y⟩ := g
    have hik : ¬ i = k := fun e => h e.symm
    by_cases h1 : j = i
    · have hjk : ¬ j = k := by omega
      simp only [tblSet, tblFind, h1, if_true, hik, if_false]
    · by_cases h2 : i < j
      · have e : tblSet ((j, y) :: t) i x = (i, x) :: (j, y) :: t := by simp [tblSet, h1, h2]
        rw [e]
        by_cases h4 : k < i
        · have a1 : ¬ j = k := by omega
          have a2 : k < j := by omega
          simp [tblFind, hik, h4, a1, a2]
        · simp [tblFind, hik, h4]
      · simp only [tblSet, tblFind, h1, h2, if_false, ih]

@[simp] theorem tblGet_tblSet_same {α : Type} [Inhabited α] (t : Tbl α) (i : Nat) (x : α) : tblGet (tblSet t i x) i = x := by
  simp [tblGet]

theorem tblGet_tblSet_other {α : Type} [Inhabited α] (t : Tbl α) (i k : Nat) (x : α) (h : k ≠ i) :
    tblGet (tblSet t i x) k = tblGet t k := by
  simp [tblGet, tblFind_tblSet_other t i k x h]

@[simp] theorem tblGet_tblMod_same {α : Type} [Inhabited α] (t : Tbl α) (i : Nat) (g : α → α) :
    tblGet (tblMod t i g) i = g (tblGet t i) := by simp [tblMod]

theorem tblGet_tblMod_other {α : Type} [Inhabited α] (t : Tbl α) (i k : Nat) (g : α → α) (h : k ≠ i) :
    tblGet (tblMod t i g) k = tblGet t k := by simp [tblMod, tblGet_tblSet_other t i k _ h]

end Sys2Proof.Machine
end

