-- ==== Sys2Proof/Laws/State.lean ====
section
/-! SUPPORT. What each named update of the state leaves unchanged, field by field: registers, memory, free values, outputs, links. -/
namespace Sys2Proof.Machine
variable (s : State)

@[simp] theorem State.setReg_mem (a : Nat) (w : Word) : (s.setReg a w).mem = s.mem := (rfl)
@[simp] theorem State.setReg_stewRam (a : Nat) (w : Word) : (s.setReg a w).stewRam = s.stewRam := (rfl)
@[simp] theorem State.setReg_now (a : Nat) (w : Word) : (s.setReg a w).now = s.now := (rfl)
@[simp] theorem State.setReg_dtime (a : Nat) (w : Word) : (s.setReg a w).dtime = s.dtime := (rfl)
@[simp] theorem State.setReg_freeCtr (a : Nat) (w : Word) : (s.setReg a w).freeCtr = s.freeCtr := (rfl)
@[simp] theorem State.setReg_out (a : Nat) (w : Word) : (s.setReg a w).out = s.out := (rfl)
@[simp] theorem State.setReg_panA (a : Nat) (w : Word) : (s.setReg a w).panA = s.panA := (rfl)
@[simp] theorem State.setReg_panB (a : Nat) (w : Word) : (s.setReg a w).panB = s.panB := (rfl)
@[simp] theorem State.setReg_stew (a : Nat) (w : Word) : (s.setReg a w).stew = s.stew := (rfl)
@[simp] theorem State.setReg_ecc (a : Nat) (w : Word) : (s.setReg a w).ecc = s.ecc := (rfl)
@[simp] theorem State.setReg_latch (a : Nat) (w : Word) : (s.setReg a w).latch = s.latch := (rfl)
@[simp] theorem State.setReg_rtrig (a : Nat) (w : Word) : (s.setReg a w).rtrig = s.rtrig := (rfl)
@[simp] theorem State.setReg_wakes (a : Nat) (w : Word) : (s.setReg a w).wakes = s.wakes := (rfl)
@[simp] theorem State.setReg_dma (a : Nat) (w : Word) : (s.setReg a w).dma = s.dma := (rfl)
@[simp] theorem State.setReg_cmd (a : Nat) (w : Word) : (s.setReg a w).cmd = s.cmd := (rfl)
@[simp] theorem State.setReg_ring (a : Nat) (w : Word) : (s.setReg a w).ring = s.ring := (rfl)
@[simp] theorem State.setReg_encl (a : Nat) (w : Word) : (s.setReg a w).encl = s.encl := (rfl)
@[simp] theorem State.setReg_crust (a : Nat) (w : Word) : (s.setReg a w).crust = s.crust := (rfl)
@[simp] theorem State.setReg_upd (a : Nat) (w : Word) : (s.setReg a w).upd = s.upd := (rfl)
@[simp] theorem State.setReg_settings (a : Nat) (w : Word) : (s.setReg a w).settings = s.settings := (rfl)
@[simp] theorem State.setReg_idleS (a : Nat) (w : Word) : (s.setReg a w).idleS = s.idleS := (rfl)
@[simp] theorem State.setReg_versions (a : Nat) (w : Word) : (s.setReg a w).versions = s.versions := (rfl)
@[simp] theorem State.setReg_pA (a : Nat) (w : Word) : (s.setReg a w).pA = s.pA := (rfl)
@[simp] theorem State.setReg_pB (a : Nat) (w : Word) : (s.setReg a w).pB = s.pB := (rfl)
@[simp] theorem State.setReg_rake (a : Nat) (w : Word) : (s.setReg a w).rake = s.rake := (rfl)
@[simp] theorem State.setReg_hss (a : Nat) (w : Word) : (s.setReg a w).hss = s.hss := (rfl)
@[simp] theorem State.setReg_sol (a : Nat) (w : Word) : (s.setReg a w).sol = s.sol := (rfl)
@[simp] theorem State.setReg_dio (a : Nat) (w : Word) : (s.setReg a w).dio = s.dio := (rfl)
@[simp] theorem State.setReg_led (a : Nat) (w : Word) : (s.setReg a w).led = s.led := (rfl)
@[simp] theorem State.setReg_acc (a : Nat) (w : Word) : (s.setReg a w).acc = s.acc := (rfl)
@[simp] theorem State.setReg_can (a : Nat) (w : Word) : (s.setReg a w).can = s.can := (rfl)
@[simp] theorem State.setReg_time (a : Nat) (w : Word) : (s.setReg a w).time = s.time := (rfl)
@[simp] theorem State.setReg_pwr (a : Nat) (w : Word) : (s.setReg a w).pwr = s.pwr := (rfl)
@[simp] theorem State.setReg_dbg (a : Nat) (w : Word) : (s.setReg a w).dbg = s.dbg := (rfl)
@[simp] theorem State.setReg_thermWarn (a : Nat) (w : Word) : (s.setReg a w).thermWarn = s.thermWarn := (rfl)
@[simp] theorem State.setReg_islHeld (a : Nat) (w : Word) : (s.setReg a w).islHeld = s.islHeld := (rfl)
@[simp] theorem State.setReg_own (a : Nat) (w : Word) : (s.setReg a w).own = s.own := (rfl)
@[simp] theorem State.setReg_gpioOn (a : Nat) (w : Word) : (s.setReg a w).gpioOn = s.gpioOn := (rfl)
@[simp] theorem State.setReg_rstReq (a : Nat) (w : Word) : (s.setReg a w).rstReq = s.rstReq := (rfl)
@[simp] theorem State.setReg_pending (a : Nat) (w : Word) : (s.setReg a w).pending = s.pending := (rfl)

@[simp] theorem State.setF_mem (x : Fld) (v : Nat) : (s.setF x v).mem = s.mem := (rfl)
@[simp] theorem State.setF_stewRam (x : Fld) (v : Nat) : (s.setF x v).stewRam = s.stewRam := (rfl)
@[simp] theorem State.setF_now (x : Fld) (v : Nat) : (s.setF x v).now = s.now := (rfl)
@[simp] theorem State.setF_dtime (x : Fld) (v : Nat) : (s.setF x v).dtime = s.dtime := (rfl)
@[simp] theorem State.setF_freeCtr (x : Fld) (v : Nat) : (s.setF x v).freeCtr = s.freeCtr := (rfl)
@[simp] theorem State.setF_out (x : Fld) (v : Nat) : (s.setF x v).out = s.out := (rfl)
@[simp] theorem State.setF_panA (x : Fld) (v : Nat) : (s.setF x v).panA = s.panA := (rfl)
@[simp] theorem State.setF_panB (x : Fld) (v : Nat) : (s.setF x v).panB = s.panB := (rfl)
@[simp] theorem State.setF_stew (x : Fld) (v : Nat) : (s.setF x v).stew = s.stew := (rfl)
@[simp] theorem State.setF_ecc (x : Fld) (v : Nat) : (s.setF x v).ecc = s.ecc := (rfl)
@[simp] theorem State.setF_latch (x : Fld) (v : Nat) : (s.setF x v).latch = s.latch := (rfl)
@[simp] theorem State.setF_rtrig (x : Fld) (v : Nat) : (s.setF x v).rtrig = s.rtrig := (rfl)
@[simp] theorem State.setF_wakes (x : Fld) (v : Nat) : (s.setF x v).wakes = s.wakes := (rfl)
@[simp] theorem State.setF_dma (x : Fld) (v : Nat) : (s.setF x v).dma = s.dma := (rfl)
@[simp] theorem State.setF_cmd (x : Fld) (v : Nat) : (s.setF x v).cmd = s.cmd := (rfl)
@[simp] theorem State.setF_ring (x : Fld) (v : Nat) : (s.setF x v).ring = s.ring := (rfl)
@[simp] theorem State.setF_encl (x : Fld) (v : Nat) : (s.setF x v).encl = s.encl := (rfl)
@[simp] theorem State.setF_crust (x : Fld) (v : Nat) : (s.setF x v).crust = s.crust := (rfl)
@[simp] theorem State.setF_upd (x : Fld) (v : Nat) : (s.setF x v).upd = s.upd := (rfl)
@[simp] theorem State.setF_settings (x : Fld) (v : Nat) : (s.setF x v).settings = s.settings := (rfl)
@[simp] theorem State.setF_idleS (x : Fld) (v : Nat) : (s.setF x v).idleS = s.idleS := (rfl)
@[simp] theorem State.setF_versions (x : Fld) (v : Nat) : (s.setF x v).versions = s.versions := (rfl)
@[simp] theorem State.setF_pA (x : Fld) (v : Nat) : (s.setF x v).pA = s.pA := (rfl)
@[simp] theorem State.setF_pB (x : Fld) (v : Nat) : (s.setF x v).pB = s.pB := (rfl)
@[simp] theorem State.setF_rake (x : Fld) (v : Nat) : (s.setF x v).rake = s.rake := (rfl)
@[simp] theorem State.setF_hss (x : Fld) (v : Nat) : (s.setF x v).hss = s.hss := (rfl)
@[simp] theorem State.setF_sol (x : Fld) (v : Nat) : (s.setF x v).sol = s.sol := (rfl)
@[simp] theorem State.setF_dio (x : Fld) (v : Nat) : (s.setF x v).dio = s.dio := (rfl)
@[simp] theorem State.setF_led (x : Fld) (v : Nat) : (s.setF x v).led = s.led := (rfl)
@[simp] theorem State.setF_acc (x : Fld) (v : Nat) : (s.setF x v).acc = s.acc := (rfl)
@[simp] theorem State.setF_can (x : Fld) (v : Nat) : (s.setF x v).can = s.can := (rfl)
@[simp] theorem State.setF_time (x : Fld) (v : Nat) : (s.setF x v).time = s.time := (rfl)
@[simp] theorem State.setF_pwr (x : Fld) (v : Nat) : (s.setF x v).pwr = s.pwr := (rfl)
@[simp] theorem State.setF_dbg (x : Fld) (v : Nat) : (s.setF x v).dbg = s.dbg := (rfl)
@[simp] theorem State.setF_thermWarn (x : Fld) (v : Nat) : (s.setF x v).thermWarn = s.thermWarn := (rfl)
@[simp] theorem State.setF_islHeld (x : Fld) (v : Nat) : (s.setF x v).islHeld = s.islHeld := (rfl)
@[simp] theorem State.setF_own (x : Fld) (v : Nat) : (s.setF x v).own = s.own := (rfl)
@[simp] theorem State.setF_gpioOn (x : Fld) (v : Nat) : (s.setF x v).gpioOn = s.gpioOn := (rfl)
@[simp] theorem State.setF_rstReq (x : Fld) (v : Nat) : (s.setF x v).rstReq = s.rstReq := (rfl)
@[simp] theorem State.setF_pending (x : Fld) (v : Nat) : (s.setF x v).pending = s.pending := (rfl)

@[simp] theorem State.setFlag_mem (x : Fld) (b : Bool) : (s.setFlag x b).mem = s.mem := (rfl)
@[simp] theorem State.setFlag_stewRam (x : Fld) (b : Bool) : (s.setFlag x b).stewRam = s.stewRam := (rfl)
@[simp] theorem State.setFlag_now (x : Fld) (b : Bool) : (s.setFlag x b).now = s.now := (rfl)
@[simp] theorem State.setFlag_dtime (x : Fld) (b : Bool) : (s.setFlag x b).dtime = s.dtime := (rfl)
@[simp] theorem State.setFlag_freeCtr (x : Fld) (b : Bool) : (s.setFlag x b).freeCtr = s.freeCtr := (rfl)
@[simp] theorem State.setFlag_out (x : Fld) (b : Bool) : (s.setFlag x b).out = s.out := (rfl)
@[simp] theorem State.setFlag_panA (x : Fld) (b : Bool) : (s.setFlag x b).panA = s.panA := (rfl)
@[simp] theorem State.setFlag_panB (x : Fld) (b : Bool) : (s.setFlag x b).panB = s.panB := (rfl)
@[simp] theorem State.setFlag_stew (x : Fld) (b : Bool) : (s.setFlag x b).stew = s.stew := (rfl)
@[simp] theorem State.setFlag_ecc (x : Fld) (b : Bool) : (s.setFlag x b).ecc = s.ecc := (rfl)
@[simp] theorem State.setFlag_latch (x : Fld) (b : Bool) : (s.setFlag x b).latch = s.latch := (rfl)
@[simp] theorem State.setFlag_rtrig (x : Fld) (b : Bool) : (s.setFlag x b).rtrig = s.rtrig := (rfl)
@[simp] theorem State.setFlag_wakes (x : Fld) (b : Bool) : (s.setFlag x b).wakes = s.wakes := (rfl)
@[simp] theorem State.setFlag_dma (x : Fld) (b : Bool) : (s.setFlag x b).dma = s.dma := (rfl)
@[simp] theorem State.setFlag_cmd (x : Fld) (b : Bool) : (s.setFlag x b).cmd = s.cmd := (rfl)
@[simp] theorem State.setFlag_ring (x : Fld) (b : Bool) : (s.setFlag x b).ring = s.ring := (rfl)
@[simp] theorem State.setFlag_encl (x : Fld) (b : Bool) : (s.setFlag x b).encl = s.encl := (rfl)
@[simp] theorem State.setFlag_crust (x : Fld) (b : Bool) : (s.setFlag x b).crust = s.crust := (rfl)
@[simp] theorem State.setFlag_upd (x : Fld) (b : Bool) : (s.setFlag x b).upd = s.upd := (rfl)
@[simp] theorem State.setFlag_settings (x : Fld) (b : Bool) : (s.setFlag x b).settings = s.settings := (rfl)
@[simp] theorem State.setFlag_idleS (x : Fld) (b : Bool) : (s.setFlag x b).idleS = s.idleS := (rfl)
@[simp] theorem State.setFlag_versions (x : Fld) (b : Bool) : (s.setFlag x b).versions = s.versions := (rfl)
@[simp] theorem State.setFlag_pA (x : Fld) (b : Bool) : (s.setFlag x b).pA = s.pA := (rfl)
@[simp] theorem State.setFlag_pB (x : Fld) (b : Bool) : (s.setFlag x b).pB = s.pB := (rfl)
@[simp] theorem State.setFlag_rake (x : Fld) (b : Bool) : (s.setFlag x b).rake = s.rake := (rfl)
@[simp] theorem State.setFlag_hss (x : Fld) (b : Bool) : (s.setFlag x b).hss = s.hss := (rfl)
@[simp] theorem State.setFlag_sol (x : Fld) (b : Bool) : (s.setFlag x b).sol = s.sol := (rfl)
@[simp] theorem State.setFlag_dio (x : Fld) (b : Bool) : (s.setFlag x b).dio = s.dio := (rfl)
@[simp] theorem State.setFlag_led (x : Fld) (b : Bool) : (s.setFlag x b).led = s.led := (rfl)
@[simp] theorem State.setFlag_acc (x : Fld) (b : Bool) : (s.setFlag x b).acc = s.acc := (rfl)
@[simp] theorem State.setFlag_can (x : Fld) (b : Bool) : (s.setFlag x b).can = s.can := (rfl)
@[simp] theorem State.setFlag_time (x : Fld) (b : Bool) : (s.setFlag x b).time = s.time := (rfl)
@[simp] theorem State.setFlag_pwr (x : Fld) (b : Bool) : (s.setFlag x b).pwr = s.pwr := (rfl)
@[simp] theorem State.setFlag_dbg (x : Fld) (b : Bool) : (s.setFlag x b).dbg = s.dbg := (rfl)
@[simp] theorem State.setFlag_thermWarn (x : Fld) (b : Bool) : (s.setFlag x b).thermWarn = s.thermWarn := (rfl)
@[simp] theorem State.setFlag_islHeld (x : Fld) (b : Bool) : (s.setFlag x b).islHeld = s.islHeld := (rfl)
@[simp] theorem State.setFlag_own (x : Fld) (b : Bool) : (s.setFlag x b).own = s.own := (rfl)
@[simp] theorem State.setFlag_gpioOn (x : Fld) (b : Bool) : (s.setFlag x b).gpioOn = s.gpioOn := (rfl)
@[simp] theorem State.setFlag_rstReq (x : Fld) (b : Bool) : (s.setFlag x b).rstReq = s.rstReq := (rfl)
@[simp] theorem State.setFlag_pending (x : Fld) (b : Bool) : (s.setFlag x b).pending = s.pending := (rfl)

@[simp] theorem State.setFbit_mem (x : Fld) (k : Nat) (b : Bool) : (s.setFbit x k b).mem = s.mem := (rfl)
@[simp] theorem State.setFbit_stewRam (x : Fld) (k : Nat) (b : Bool) : (s.setFbit x k b).stewRam = s.stewRam := (rfl)
@[simp] theorem State.setFbit_now (x : Fld) (k : Nat) (b : Bool) : (s.setFbit x k b).now = s.now := (rfl)
@[simp] theorem State.setFbit_dtime (x : Fld) (k : Nat) (b : Bool) : (s.setFbit x k b).dtime = s.dtime := (rfl)
@[simp] theorem State.setFbit_freeCtr (x : Fld) (k : Nat) (b : Bool) : (s.setFbit x k b).freeCtr = s.freeCtr := (rfl)
@[simp] theorem State.setFbit_out (x : Fld) (k : Nat) (b : Bool) : (s.setFbit x k b).out = s.out := (rfl)
@[simp] theorem State.setFbit_panA (x : Fld) (k : Nat) (b : Bool) : (s.setFbit x k b).panA = s.panA := (rfl)
@[simp] theorem State.setFbit_panB (x : Fld) (k : Nat) (b : Bool) : (s.setFbit x k b).panB = s.panB := (rfl)
@[simp] theorem State.setFbit_stew (x : Fld) (k : Nat) (b : Bool) : (s.setFbit x k b).stew = s.stew := (rfl)
@[simp] theorem State.setFbit_ecc (x : Fld) (k : Nat) (b : Bool) : (s.setFbit x k b).ecc = s.ecc := (rfl)
@[simp] theorem State.setFbit_latch (x : Fld) (k : Nat) (b : Bool) : (s.setFbit x k b).latch = s.latch := (rfl)
@[simp] theorem State.setFbit_rtrig (x : Fld) (k : Nat) (b : Bool) : (s.setFbit x k b).rtrig = s.rtrig := (rfl)
@[simp] theorem State.setFbit_wakes (x : Fld) (k : Nat) (b : Bool) : (s.setFbit x k b).wakes = s.wakes := (rfl)
@[simp] theorem State.setFbit_dma (x : Fld) (k : Nat) (b : Bool) : (s.setFbit x k b).dma = s.dma := (rfl)
@[simp] theorem State.setFbit_cmd (x : Fld) (k : Nat) (b : Bool) : (s.setFbit x k b).cmd = s.cmd := (rfl)
@[simp] theorem State.setFbit_ring (x : Fld) (k : Nat) (b : Bool) : (s.setFbit x k b).ring = s.ring := (rfl)
@[simp] theorem State.setFbit_encl (x : Fld) (k : Nat) (b : Bool) : (s.setFbit x k b).encl = s.encl := (rfl)
@[simp] theorem State.setFbit_crust (x : Fld) (k : Nat) (b : Bool) : (s.setFbit x k b).crust = s.crust := (rfl)
@[simp] theorem State.setFbit_upd (x : Fld) (k : Nat) (b : Bool) : (s.setFbit x k b).upd = s.upd := (rfl)
@[simp] theorem State.setFbit_settings (x : Fld) (k : Nat) (b : Bool) : (s.setFbit x k b).settings = s.settings := (rfl)
@[simp] theorem State.setFbit_idleS (x : Fld) (k : Nat) (b : Bool) : (s.setFbit x k b).idleS = s.idleS := (rfl)
@[simp] theorem State.setFbit_versions (x : Fld) (k : Nat) (b : Bool) : (s.setFbit x k b).versions = s.versions := (rfl)
@[simp] theorem State.setFbit_pA (x : Fld) (k : Nat) (b : Bool) : (s.setFbit x k b).pA = s.pA := (rfl)
@[simp] theorem State.setFbit_pB (x : Fld) (k : Nat) (b : Bool) : (s.setFbit x k b).pB = s.pB := (rfl)
@[simp] theorem State.setFbit_rake (x : Fld) (k : Nat) (b : Bool) : (s.setFbit x k b).rake = s.rake := (rfl)
@[simp] theorem State.setFbit_hss (x : Fld) (k : Nat) (b : Bool) : (s.setFbit x k b).hss = s.hss := (rfl)
@[simp] theorem State.setFbit_sol (x : Fld) (k : Nat) (b : Bool) : (s.setFbit x k b).sol = s.sol := (rfl)
@[simp] theorem State.setFbit_dio (x : Fld) (k : Nat) (b : Bool) : (s.setFbit x k b).dio = s.dio := (rfl)
@[simp] theorem State.setFbit_led (x : Fld) (k : Nat) (b : Bool) : (s.setFbit x k b).led = s.led := (rfl)
@[simp] theorem State.setFbit_acc (x : Fld) (k : Nat) (b : Bool) : (s.setFbit x k b).acc = s.acc := (rfl)
@[simp] theorem State.setFbit_can (x : Fld) (k : Nat) (b : Bool) : (s.setFbit x k b).can = s.can := (rfl)
@[simp] theorem State.setFbit_time (x : Fld) (k : Nat) (b : Bool) : (s.setFbit x k b).time = s.time := (rfl)
@[simp] theorem State.setFbit_pwr (x : Fld) (k : Nat) (b : Bool) : (s.setFbit x k b).pwr = s.pwr := (rfl)
@[simp] theorem State.setFbit_dbg (x : Fld) (k : Nat) (b : Bool) : (s.setFbit x k b).dbg = s.dbg := (rfl)
@[simp] theorem State.setFbit_thermWarn (x : Fld) (k : Nat) (b : Bool) : (s.setFbit x k b).thermWarn = s.thermWarn := (rfl)
@[simp] theorem State.setFbit_islHeld (x : Fld) (k : Nat) (b : Bool) : (s.setFbit x k b).islHeld = s.islHeld := (rfl)
@[simp] theorem State.setFbit_own (x : Fld) (k : Nat) (b : Bool) : (s.setFbit x k b).own = s.own := (rfl)
@[simp] theorem State.setFbit_gpioOn (x : Fld) (k : Nat) (b : Bool) : (s.setFbit x k b).gpioOn = s.gpioOn := (rfl)
@[simp] theorem State.setFbit_rstReq (x : Fld) (k : Nat) (b : Bool) : (s.setFbit x k b).rstReq = s.rstReq := (rfl)
@[simp] theorem State.setFbit_pending (x : Fld) (k : Nat) (b : Bool) : (s.setFbit x k b).pending = s.pending := (rfl)

@[simp] theorem State.incF_mem (x : Fld) (n : Nat) : (s.incF x n).mem = s.mem := (rfl)
@[simp] theorem State.incF_stewRam (x : Fld) (n : Nat) : (s.incF x n).stewRam = s.stewRam := (rfl)
@[simp] theorem State.incF_now (x : Fld) (n : Nat) : (s.incF x n).now = s.now := (rfl)
@[simp] theorem State.incF_dtime (x : Fld) (n : Nat) : (s.incF x n).dtime = s.dtime := (rfl)
@[simp] theorem State.incF_freeCtr (x : Fld) (n : Nat) : (s.incF x n).freeCtr = s.freeCtr := (rfl)
@[simp] theorem State.incF_out (x : Fld) (n : Nat) : (s.incF x n).out = s.out := (rfl)
@[simp] theorem State.incF_panA (x : Fld) (n : Nat) : (s.incF x n).panA = s.panA := (rfl)
@[simp] theorem State.incF_panB (x : Fld) (n : Nat) : (s.incF x n).panB = s.panB := (rfl)
@[simp] theorem State.incF_stew (x : Fld) (n : Nat) : (s.incF x n).stew = s.stew := (rfl)
@[simp] theorem State.incF_ecc (x : Fld) (n : Nat) : (s.incF x n).ecc = s.ecc := (rfl)
@[simp] theorem State.incF_latch (x : Fld) (n : Nat) : (s.incF x n).latch = s.latch := (rfl)
@[simp] theorem State.incF_rtrig (x : Fld) (n : Nat) : (s.incF x n).rtrig = s.rtrig := (rfl)
@[simp] theorem State.incF_wakes (x : Fld) (n : Nat) : (s.incF x n).wakes = s.wakes := (rfl)
@[simp] theorem State.incF_dma (x : Fld) (n : Nat) : (s.incF x n).dma = s.dma := (rfl)
@[simp] theorem State.incF_cmd (x : Fld) (n : Nat) : (s.incF x n).cmd = s.cmd := (rfl)
@[simp] theorem State.incF_ring (x : Fld) (n : Nat) : (s.incF x n).ring = s.ring := (rfl)
@[simp] theorem State.incF_encl (x : Fld) (n : Nat) : (s.incF x n).encl = s.encl := (rfl)
@[simp] theorem State.incF_crust (x : Fld) (n : Nat) : (s.incF x n).crust = s.crust := (rfl)
@[simp] theorem State.incF_upd (x : Fld) (n : Nat) : (s.incF x n).upd = s.upd := (rfl)
@[simp] theorem State.incF_settings (x : Fld) (n : Nat) : (s.incF x n).settings = s.settings := (rfl)
@[simp] theorem State.incF_idleS (x : Fld) (n : Nat) : (s.incF x n).idleS = s.idleS := (rfl)
@[simp] theorem State.incF_versions (x : Fld) (n : Nat) : (s.incF x n).versions = s.versions := (rfl)
@[simp] theorem State.incF_pA (x : Fld) (n : Nat) : (s.incF x n).pA = s.pA := (rfl)
@[simp] theorem State.incF_pB (x : Fld) (n : Nat) : (s.incF x n).pB = s.pB := (rfl)
@[simp] theorem State.incF_rake (x : Fld) (n : Nat) : (s.incF x n).rake = s.rake := (rfl)
@[simp] theorem State.incF_hss (x : Fld) (n : Nat) : (s.incF x n).hss = s.hss := (rfl)
@[simp] theorem State.incF_sol (x : Fld) (n : Nat) : (s.incF x n).sol = s.sol := (rfl)
@[simp] theorem State.incF_dio (x : Fld) (n : Nat) : (s.incF x n).dio = s.dio := (rfl)
@[simp] theorem State.incF_led (x : Fld) (n : Nat) : (s.incF x n).led = s.led := (rfl)
@[simp] theorem State.incF_acc (x : Fld) (n : Nat) : (s.incF x n).acc = s.acc := (rfl)
@[simp] theorem State.incF_can (x : Fld) (n : Nat) : (s.incF x n).can = s.can := (rfl)
@[simp] theorem State.incF_time (x : Fld) (n : Nat) : (s.incF x n).time = s.time := (rfl)
@[simp] theorem State.incF_pwr (x : Fld) (n : Nat) : (s.incF x n).pwr = s.pwr := (rfl)
@[simp] theorem State.incF_dbg (x : Fld) (n : Nat) : (s.incF x n).dbg = s.dbg := (rfl)
@[simp] theorem State.incF_thermWarn (x : Fld) (n : Nat) : (s.incF x n).thermWarn = s.thermWarn := (rfl)
@[simp] theorem State.incF_islHeld (x : Fld) (n : Nat) : (s.incF x n).islHeld = s.islHeld := (rfl)
@[simp] theorem State.incF_own (x : Fld) (n : Nat) : (s.incF x n).own = s.own := (rfl)
@[simp] theorem State.incF_gpioOn (x : Fld) (n : Nat) : (s.incF x n).gpioOn = s.gpioOn := (rfl)
@[simp] theorem State.incF_rstReq (x : Fld) (n : Nat) : (s.incF x n).rstReq = s.rstReq := (rfl)
@[simp] theorem State.incF_pending (x : Fld) (n : Nat) : (s.incF x n).pending = s.pending := (rfl)

@[simp] theorem State.decF_mem (x : Fld) : (s.decF x).mem = s.mem := (rfl)
@[simp] theorem State.decF_stewRam (x : Fld) : (s.decF x).stewRam = s.stewRam := (rfl)
@[simp] theorem State.decF_now (x : Fld) : (s.decF x).now = s.now := (rfl)
@[simp] theorem State.decF_dtime (x : Fld) : (s.decF x).dtime = s.dtime := (rfl)
@[simp] theorem State.decF_freeCtr (x : Fld) : (s.decF x).freeCtr = s.freeCtr := (rfl)
@[simp] theorem State.decF_out (x : Fld) : (s.decF x).out = s.out := (rfl)
@[simp] theorem State.decF_panA (x : Fld) : (s.decF x).panA = s.panA := (rfl)
@[simp] theorem State.decF_panB (x : Fld) : (s.decF x).panB = s.panB := (rfl)
@[simp] theorem State.decF_stew (x : Fld) : (s.decF x).stew = s.stew := (rfl)
@[simp] theorem State.decF_ecc (x : Fld) : (s.decF x).ecc = s.ecc := (rfl)
@[simp] theorem State.decF_latch (x : Fld) : (s.decF x).latch = s.latch := (rfl)
@[simp] theorem State.decF_rtrig (x : Fld) : (s.decF x).rtrig = s.rtrig := (rfl)
@[simp] theorem State.decF_wakes (x : Fld) : (s.decF x).wakes = s.wakes := (rfl)
@[simp] theorem State.decF_dma (x : Fld) : (s.decF x).dma = s.dma := (rfl)
@[simp] theorem State.decF_cmd (x : Fld) : (s.decF x).cmd = s.cmd := (rfl)
@[simp] theorem State.decF_ring (x : Fld) : (s.decF x).ring = s.ring := (rfl)
@[simp] theorem State.decF_encl (x : Fld) : (s.decF x).encl = s.encl := (rfl)
@[simp] theorem State.decF_crust (x : Fld) : (s.decF x).crust = s.crust := (rfl)
@[simp] theorem State.decF_upd (x : Fld) : (s.decF x).upd = s.upd := (rfl)
@[simp] theorem State.decF_settings (x : Fld) : (s.decF x).settings = s.settings := (rfl)
@[simp] theorem State.decF_idleS (x : Fld) : (s.decF x).idleS = s.idleS := (rfl)
@[simp] theorem State.decF_versions (x : Fld) : (s.decF x).versions = s.versions := (rfl)
@[simp] theorem State.decF_pA (x : Fld) : (s.decF x).pA = s.pA := (rfl)
@[simp] theorem State.decF_pB (x : Fld) : (s.decF x).pB = s.pB := (rfl)
@[simp] theorem State.decF_rake (x : Fld) : (s.decF x).rake = s.rake := (rfl)
@[simp] theorem State.decF_hss (x : Fld) : (s.decF x).hss = s.hss := (rfl)
@[simp] theorem State.decF_sol (x : Fld) : (s.decF x).sol = s.sol := (rfl)
@[simp] theorem State.decF_dio (x : Fld) : (s.decF x).dio = s.dio := (rfl)
@[simp] theorem State.decF_led (x : Fld) : (s.decF x).led = s.led := (rfl)
@[simp] theorem State.decF_acc (x : Fld) : (s.decF x).acc = s.acc := (rfl)
@[simp] theorem State.decF_can (x : Fld) : (s.decF x).can = s.can := (rfl)
@[simp] theorem State.decF_time (x : Fld) : (s.decF x).time = s.time := (rfl)
@[simp] theorem State.decF_pwr (x : Fld) : (s.decF x).pwr = s.pwr := (rfl)
@[simp] theorem State.decF_dbg (x : Fld) : (s.decF x).dbg = s.dbg := (rfl)
@[simp] theorem State.decF_thermWarn (x : Fld) : (s.decF x).thermWarn = s.thermWarn := (rfl)
@[simp] theorem State.decF_islHeld (x : Fld) : (s.decF x).islHeld = s.islHeld := (rfl)
@[simp] theorem State.decF_own (x : Fld) : (s.decF x).own = s.own := (rfl)
@[simp] theorem State.decF_gpioOn (x : Fld) : (s.decF x).gpioOn = s.gpioOn := (rfl)
@[simp] theorem State.decF_rstReq (x : Fld) : (s.decF x).rstReq = s.rstReq := (rfl)
@[simp] theorem State.decF_pending (x : Fld) : (s.decF x).pending = s.pending := (rfl)

@[simp] theorem State.useFree_regs : (s.useFree).regs = s.regs := (rfl)
@[simp] theorem State.useFree_mem : (s.useFree).mem = s.mem := (rfl)
@[simp] theorem State.useFree_stewRam : (s.useFree).stewRam = s.stewRam := (rfl)
@[simp] theorem State.useFree_now : (s.useFree).now = s.now := (rfl)
@[simp] theorem State.useFree_dtime : (s.useFree).dtime = s.dtime := (rfl)
@[simp] theorem State.useFree_out : (s.useFree).out = s.out := (rfl)
@[simp] theorem State.useFree_panA : (s.useFree).panA = s.panA := (rfl)
@[simp] theorem State.useFree_panB : (s.useFree).panB = s.panB := (rfl)
@[simp] theorem State.useFree_stew : (s.useFree).stew = s.stew := (rfl)
@[simp] theorem State.useFree_ecc : (s.useFree).ecc = s.ecc := (rfl)
@[simp] theorem State.useFree_latch : (s.useFree).latch = s.latch := (rfl)
@[simp] theorem State.useFree_rtrig : (s.useFree).rtrig = s.rtrig := (rfl)
@[simp] theorem State.useFree_wakes : (s.useFree).wakes = s.wakes := (rfl)
@[simp] theorem State.useFree_dma : (s.useFree).dma = s.dma := (rfl)
@[simp] theorem State.useFree_cmd : (s.useFree).cmd = s.cmd := (rfl)
@[simp] theorem State.useFree_ring : (s.useFree).ring = s.ring := (rfl)
@[simp] theorem State.useFree_encl : (s.useFree).encl = s.encl := (rfl)
@[simp] theorem State.useFree_crust : (s.useFree).crust = s.crust := (rfl)
@[simp] theorem State.useFree_upd : (s.useFree).upd = s.upd := (rfl)
@[simp] theorem State.useFree_settings : (s.useFree).settings = s.settings := (rfl)
@[simp] theorem State.useFree_idleS : (s.useFree).idleS = s.idleS := (rfl)
@[simp] theorem State.useFree_versions : (s.useFree).versions = s.versions := (rfl)
@[simp] theorem State.useFree_pA : (s.useFree).pA = s.pA := (rfl)
@[simp] theorem State.useFree_pB : (s.useFree).pB = s.pB := (rfl)
@[simp] theorem State.useFree_rake : (s.useFree).rake = s.rake := (rfl)
@[simp] theorem State.useFree_hss : (s.useFree).hss = s.hss := (rfl)
@[simp] theorem State.useFree_sol : (s.useFree).sol = s.sol := (rfl)
@[simp] theorem State.useFree_dio : (s.useFree).dio = s.dio := (rfl)
@[simp] theorem State.useFree_led : (s.useFree).led = s.led := (rfl)
@[simp] theorem State.useFree_acc : (s.useFree).acc = s.acc := (rfl)
@[simp] theorem State.useFree_can : (s.useFree).can = s.can := (rfl)
@[simp] theorem State.useFree_time : (s.useFree).time = s.time := (rfl)
@[simp] theorem State.useFree_pwr : (s.useFree).pwr = s.pwr := (rfl)
@[simp] theorem State.useFree_dbg : (s.useFree).dbg = s.dbg := (rfl)
@[simp] theorem State.useFree_thermWarn : (s.useFree).thermWarn = s.thermWarn := (rfl)
@[simp] theorem State.useFree_islHeld : (s.useFree).islHeld = s.islHeld := (rfl)
@[simp] theorem State.useFree_own : (s.useFree).own = s.own := (rfl)
@[simp] theorem State.useFree_gpioOn : (s.useFree).gpioOn = s.gpioOn := (rfl)
@[simp] theorem State.useFree_rstReq : (s.useFree).rstReq = s.rstReq := (rfl)
@[simp] theorem State.useFree_pending : (s.useFree).pending = s.pending := (rfl)

@[simp] theorem State.emit_regs (p : OutPort) (d : List Byte) : (s.emit p d).regs = s.regs := (rfl)
@[simp] theorem State.emit_mem (p : OutPort) (d : List Byte) : (s.emit p d).mem = s.mem := (rfl)
@[simp] theorem State.emit_stewRam (p : OutPort) (d : List Byte) : (s.emit p d).stewRam = s.stewRam := (rfl)
@[simp] theorem State.emit_now (p : OutPort) (d : List Byte) : (s.emit p d).now = s.now := (rfl)
@[simp] theorem State.emit_dtime (p : OutPort) (d : List Byte) : (s.emit p d).dtime = s.dtime := (rfl)
@[simp] theorem State.emit_freeCtr (p : OutPort) (d : List Byte) : (s.emit p d).freeCtr = s.freeCtr := (rfl)
@[simp] theorem State.emit_panA (p : OutPort) (d : List Byte) : (s.emit p d).panA = s.panA := (rfl)
@[simp] theorem State.emit_panB (p : OutPort) (d : List Byte) : (s.emit p d).panB = s.panB := (rfl)
@[simp] theorem State.emit_stew (p : OutPort) (d : List Byte) : (s.emit p d).stew = s.stew := (rfl)
@[simp] theorem State.emit_ecc (p : OutPort) (d : List Byte) : (s.emit p d).ecc = s.ecc := (rfl)
@[simp] theorem State.emit_latch (p : OutPort) (d : List Byte) : (s.emit p d).latch = s.latch := (rfl)
@[simp] theorem State.emit_rtrig (p : OutPort) (d : List Byte) : (s.emit p d).rtrig = s.rtrig := (rfl)
@[simp] theorem State.emit_wakes (p : OutPort) (d : List Byte) : (s.emit p d).wakes = s.wakes := (rfl)
@[simp] theorem State.emit_dma (p : OutPort) (d : List Byte) : (s.emit p d).dma = s.dma := (rfl)
@[simp] theorem State.emit_cmd (p : OutPort) (d : List Byte) : (s.emit p d).cmd = s.cmd := (rfl)
@[simp] theorem State.emit_ring (p : OutPort) (d : List Byte) : (s.emit p d).ring = s.ring := (rfl)
@[simp] theorem State.emit_encl (p : OutPort) (d : List Byte) : (s.emit p d).encl = s.encl := (rfl)
@[simp] theorem State.emit_crust (p : OutPort) (d : List Byte) : (s.emit p d).crust = s.crust := (rfl)
@[simp] theorem State.emit_upd (p : OutPort) (d : List Byte) : (s.emit p d).upd = s.upd := (rfl)
@[simp] theorem State.emit_settings (p : OutPort) (d : List Byte) : (s.emit p d).settings = s.settings := (rfl)
@[simp] theorem State.emit_idleS (p : OutPort) (d : List Byte) : (s.emit p d).idleS = s.idleS := (rfl)
@[simp] theorem State.emit_versions (p : OutPort) (d : List Byte) : (s.emit p d).versions = s.versions := (rfl)
@[simp] theorem State.emit_pA (p : OutPort) (d : List Byte) : (s.emit p d).pA = s.pA := (rfl)
@[simp] theorem State.emit_pB (p : OutPort) (d : List Byte) : (s.emit p d).pB = s.pB := (rfl)
@[simp] theorem State.emit_rake (p : OutPort) (d : List Byte) : (s.emit p d).rake = s.rake := (rfl)
@[simp] theorem State.emit_hss (p : OutPort) (d : List Byte) : (s.emit p d).hss = s.hss := (rfl)
@[simp] theorem State.emit_sol (p : OutPort) (d : List Byte) : (s.emit p d).sol = s.sol := (rfl)
@[simp] theorem State.emit_dio (p : OutPort) (d : List Byte) : (s.emit p d).dio = s.dio := (rfl)
@[simp] theorem State.emit_led (p : OutPort) (d : List Byte) : (s.emit p d).led = s.led := (rfl)
@[simp] theorem State.emit_acc (p : OutPort) (d : List Byte) : (s.emit p d).acc = s.acc := (rfl)
@[simp] theorem State.emit_can (p : OutPort) (d : List Byte) : (s.emit p d).can = s.can := (rfl)
@[simp] theorem State.emit_time (p : OutPort) (d : List Byte) : (s.emit p d).time = s.time := (rfl)
@[simp] theorem State.emit_pwr (p : OutPort) (d : List Byte) : (s.emit p d).pwr = s.pwr := (rfl)
@[simp] theorem State.emit_dbg (p : OutPort) (d : List Byte) : (s.emit p d).dbg = s.dbg := (rfl)
@[simp] theorem State.emit_thermWarn (p : OutPort) (d : List Byte) : (s.emit p d).thermWarn = s.thermWarn := (rfl)
@[simp] theorem State.emit_islHeld (p : OutPort) (d : List Byte) : (s.emit p d).islHeld = s.islHeld := (rfl)
@[simp] theorem State.emit_own (p : OutPort) (d : List Byte) : (s.emit p d).own = s.own := (rfl)
@[simp] theorem State.emit_gpioOn (p : OutPort) (d : List Byte) : (s.emit p d).gpioOn = s.gpioOn := (rfl)
@[simp] theorem State.emit_rstReq (p : OutPort) (d : List Byte) : (s.emit p d).rstReq = s.rstReq := (rfl)
@[simp] theorem State.emit_pending (p : OutPort) (d : List Byte) : (s.emit p d).pending = s.pending := (rfl)

@[simp] theorem State.mput_regs (a n v : Nat) : (s.mput a n v).regs = s.regs := (rfl)
@[simp] theorem State.mput_stewRam (a n v : Nat) : (s.mput a n v).stewRam = s.stewRam := (rfl)
@[simp] theorem State.mput_now (a n v : Nat) : (s.mput a n v).now = s.now := (rfl)
@[simp] theorem State.mput_dtime (a n v : Nat) : (s.mput a n v).dtime = s.dtime := (rfl)
@[simp] theorem State.mput_freeCtr (a n v : Nat) : (s.mput a n v).freeCtr = s.freeCtr := (rfl)
@[simp] theorem State.mput_out (a n v : Nat) : (s.mput a n v).out = s.out := (rfl)
@[simp] theorem State.mput_panA (a n v : Nat) : (s.mput a n v).panA = s.panA := (rfl)
@[simp] theorem State.mput_panB (a n v : Nat) : (s.mput a n v).panB = s.panB := (rfl)
@[simp] theorem State.mput_stew (a n v : Nat) : (s.mput a n v).stew = s.stew := (rfl)
@[simp] theorem State.mput_ecc (a n v : Nat) : (s.mput a n v).ecc = eccClear s.ecc a n := (rfl)
@[simp] theorem State.mput_latch (a n v : Nat) : (s.mput a n v).latch = s.latch := (rfl)
@[simp] theorem State.mput_rtrig (a n v : Nat) : (s.mput a n v).rtrig = s.rtrig := (rfl)
@[simp] theorem State.mput_wakes (a n v : Nat) : (s.mput a n v).wakes = s.wakes := (rfl)
@[simp] theorem State.mput_dma (a n v : Nat) : (s.mput a n v).dma = s.dma := (rfl)
@[simp] theorem State.mput_cmd (a n v : Nat) : (s.mput a n v).cmd = s.cmd := (rfl)
@[simp] theorem State.mput_ring (a n v : Nat) : (s.mput a n v).ring = s.ring := (rfl)
@[simp] theorem State.mput_encl (a n v : Nat) : (s.mput a n v).encl = s.encl := (rfl)
@[simp] theorem State.mput_crust (a n v : Nat) : (s.mput a n v).crust = s.crust := (rfl)
@[simp] theorem State.mput_upd (a n v : Nat) : (s.mput a n v).upd = s.upd := (rfl)
@[simp] theorem State.mput_settings (a n v : Nat) : (s.mput a n v).settings = s.settings := (rfl)
@[simp] theorem State.mput_idleS (a n v : Nat) : (s.mput a n v).idleS = s.idleS := (rfl)
@[simp] theorem State.mput_versions (a n v : Nat) : (s.mput a n v).versions = s.versions := (rfl)
@[simp] theorem State.mput_pA (a n v : Nat) : (s.mput a n v).pA = s.pA := (rfl)
@[simp] theorem State.mput_pB (a n v : Nat) : (s.mput a n v).pB = s.pB := (rfl)
@[simp] theorem State.mput_rake (a n v : Nat) : (s.mput a n v).rake = s.rake := (rfl)
@[simp] theorem State.mput_hss (a n v : Nat) : (s.mput a n v).hss = s.hss := (rfl)
@[simp] theorem State.mput_sol (a n v : Nat) : (s.mput a n v).sol = s.sol := (rfl)
@[simp] theorem State.mput_dio (a n v : Nat) : (s.mput a n v).dio = s.dio := (rfl)
@[simp] theorem State.mput_led (a n v : Nat) : (s.mput a n v).led = s.led := (rfl)
@[simp] theorem State.mput_acc (a n v : Nat) : (s.mput a n v).acc = s.acc := (rfl)
@[simp] theorem State.mput_can (a n v : Nat) : (s.mput a n v).can = s.can := (rfl)
@[simp] theorem State.mput_time (a n v : Nat) : (s.mput a n v).time = s.time := (rfl)
@[simp] theorem State.mput_pwr (a n v : Nat) : (s.mput a n v).pwr = s.pwr := (rfl)
@[simp] theorem State.mput_dbg (a n v : Nat) : (s.mput a n v).dbg = s.dbg := (rfl)
@[simp] theorem State.mput_thermWarn (a n v : Nat) : (s.mput a n v).thermWarn = s.thermWarn := (rfl)
@[simp] theorem State.mput_islHeld (a n v : Nat) : (s.mput a n v).islHeld = s.islHeld := (rfl)
@[simp] theorem State.mput_own (a n v : Nat) : (s.mput a n v).own = s.own := (rfl)
@[simp] theorem State.mput_gpioOn (a n v : Nat) : (s.mput a n v).gpioOn = s.gpioOn := (rfl)
@[simp] theorem State.mput_rstReq (a n v : Nat) : (s.mput a n v).rstReq = s.rstReq := (rfl)
@[simp] theorem State.mput_pending (a n v : Nat) : (s.mput a n v).pending = s.pending := (rfl)

@[simp] theorem State.mputBytes_regs (a : Nat) (b : List Byte) : (s.mputBytes a b).regs = s.regs := (rfl)
@[simp] theorem State.mputBytes_stewRam (a : Nat) (b : List Byte) : (s.mputBytes a b).stewRam = s.stewRam := (rfl)
@[simp] theorem State.mputBytes_now (a : Nat) (b : List Byte) : (s.mputBytes a b).now = s.now := (rfl)
@[simp] theorem State.mputBytes_dtime (a : Nat) (b : List Byte) : (s.mputBytes a b).dtime = s.dtime := (rfl)
@[simp] theorem State.mputBytes_freeCtr (a : Nat) (b : List Byte) : (s.mputBytes a b).freeCtr = s.freeCtr := (rfl)
@[simp] theorem State.mputBytes_out (a : Nat) (b : List Byte) : (s.mputBytes a b).out = s.out := (rfl)
@[simp] theorem State.mputBytes_panA (a : Nat) (b : List Byte) : (s.mputBytes a b).panA = s.panA := (rfl)
@[simp] theorem State.mputBytes_panB (a : Nat) (b : List Byte) : (s.mputBytes a b).panB = s.panB := (rfl)
@[simp] theorem State.mputBytes_stew (a : Nat) (b : List Byte) : (s.mputBytes a b).stew = s.stew := (rfl)
@[simp] theorem State.mputBytes_ecc (a : Nat) (b : List Byte) : (s.mputBytes a b).ecc = eccClear s.ecc a b.length := (rfl)
@[simp] theorem State.mputBytes_latch (a : Nat) (b : List Byte) : (s.mputBytes a b).latch = s.latch := (rfl)
@[simp] theorem State.mputBytes_rtrig (a : Nat) (b : List Byte) : (s.mputBytes a b).rtrig = s.rtrig := (rfl)
@[simp] theorem State.mputBytes_wakes (a : Nat) (b : List Byte) : (s.mputBytes a b).wakes = s.wakes := (rfl)
@[simp] theorem State.mputBytes_dma (a : Nat) (b : List Byte) : (s.mputBytes a b).dma = s.dma := (rfl)
@[simp] theorem State.mputBytes_cmd (a : Nat) (b : List Byte) : (s.mputBytes a b).cmd = s.cmd := (rfl)
@[simp] theorem State.mputBytes_ring (a : Nat) (b : List Byte) : (s.mputBytes a b).ring = s.ring := (rfl)
@[simp] theorem State.mputBytes_encl (a : Nat) (b : List Byte) : (s.mputBytes a b).encl = s.encl := (rfl)
@[simp] theorem State.mputBytes_crust (a : Nat) (b : List Byte) : (s.mputBytes a b).crust = s.crust := (rfl)
@[simp] theorem State.mputBytes_upd (a : Nat) (b : List Byte) : (s.mputBytes a b).upd = s.upd := (rfl)
@[simp] theorem State.mputBytes_settings (a : Nat) (b : List Byte) : (s.mputBytes a b).settings = s.settings := (rfl)
@[simp] theorem State.mputBytes_idleS (a : Nat) (b : List Byte) : (s.mputBytes a b).idleS = s.idleS := (rfl)
@[simp] theorem State.mputBytes_versions (a : Nat) (b : List Byte) : (s.mputBytes a b).versions = s.versions := (rfl)
@[simp] theorem State.mputBytes_pA (a : Nat) (b : List Byte) : (s.mputBytes a b).pA = s.pA := (rfl)
@[simp] theorem State.mputBytes_pB (a : Nat) (b : List Byte) : (s.mputBytes a b).pB = s.pB := (rfl)
@[simp] theorem State.mputBytes_rake (a : Nat) (b : List Byte) : (s.mputBytes a b).rake = s.rake := (rfl)
@[simp] theorem State.mputBytes_hss (a : Nat) (b : List Byte) : (s.mputBytes a b).hss = s.hss := (rfl)
@[simp] theorem State.mputBytes_sol (a : Nat) (b : List Byte) : (s.mputBytes a b).sol = s.sol := (rfl)
@[simp] theorem State.mputBytes_dio (a : Nat) (b : List Byte) : (s.mputBytes a b).dio = s.dio := (rfl)
@[simp] theorem State.mputBytes_led (a : Nat) (b : List Byte) : (s.mputBytes a b).led = s.led := (rfl)
@[simp] theorem State.mputBytes_acc (a : Nat) (b : List Byte) : (s.mputBytes a b).acc = s.acc := (rfl)
@[simp] theorem State.mputBytes_can (a : Nat) (b : List Byte) : (s.mputBytes a b).can = s.can := (rfl)
@[simp] theorem State.mputBytes_time (a : Nat) (b : List Byte) : (s.mputBytes a b).time = s.time := (rfl)
@[simp] theorem State.mputBytes_pwr (a : Nat) (b : List Byte) : (s.mputBytes a b).pwr = s.pwr := (rfl)
@[simp] theorem State.mputBytes_dbg (a : Nat) (b : List Byte) : (s.mputBytes a b).dbg = s.dbg := (rfl)
@[simp] theorem State.mputBytes_thermWarn (a : Nat) (b : List Byte) : (s.mputBytes a b).thermWarn = s.thermWarn := (rfl)
@[simp] theorem State.mputBytes_islHeld (a : Nat) (b : List Byte) : (s.mputBytes a b).islHeld = s.islHeld := (rfl)
@[simp] theorem State.mputBytes_own (a : Nat) (b : List Byte) : (s.mputBytes a b).own = s.own := (rfl)
@[simp] theorem State.mputBytes_gpioOn (a : Nat) (b : List Byte) : (s.mputBytes a b).gpioOn = s.gpioOn := (rfl)
@[simp] theorem State.mputBytes_rstReq (a : Nat) (b : List Byte) : (s.mputBytes a b).rstReq = s.rstReq := (rfl)
@[simp] theorem State.mputBytes_pending (a : Nat) (b : List Byte) : (s.mputBytes a b).pending = s.pending := (rfl)

@[simp] theorem State.modLink_regs (l : Nat) (g : BrlLink → BrlLink) : (s.modLink l g).regs = s.regs := (rfl)
@[simp] theorem State.modLink_mem (l : Nat) (g : BrlLink → BrlLink) : (s.modLink l g).mem = s.mem := (rfl)
@[simp] theorem State.modLink_stewRam (l : Nat) (g : BrlLink → BrlLink) : (s.modLink l g).stewRam = s.stewRam := (rfl)
@[simp] theorem State.modLink_now (l : Nat) (g : BrlLink → BrlLink) : (s.modLink l g).now = s.now := (rfl)
@[simp] theorem State.modLink_dtime (l : Nat) (g : BrlLink → BrlLink) : (s.modLink l g).dtime = s.dtime := (rfl)
@[simp] theorem State.modLink_freeCtr (l : Nat) (g : BrlLink → BrlLink) : (s.modLink l g).freeCtr = s.freeCtr := (rfl)
@[simp] theorem State.modLink_out (l : Nat) (g : BrlLink → BrlLink) : (s.modLink l g).out = s.out := (rfl)
@[simp] theorem State.modLink_panA (l : Nat) (g : BrlLink → BrlLink) : (s.modLink l g).panA = s.panA := (rfl)
@[simp] theorem State.modLink_panB (l : Nat) (g : BrlLink → BrlLink) : (s.modLink l g).panB = s.panB := (rfl)
@[simp] theorem State.modLink_stew (l : Nat) (g : BrlLink → BrlLink) : (s.modLink l g).stew = s.stew := (rfl)
@[simp] theorem State.modLink_ecc (l : Nat) (g : BrlLink → BrlLink) : (s.modLink l g).ecc = s.ecc := (rfl)
@[simp] theorem State.modLink_latch (l : Nat) (g : BrlLink → BrlLink) : (s.modLink l g).latch = s.latch := (rfl)
@[simp] theorem State.modLink_rtrig (l : Nat) (g : BrlLink → BrlLink) : (s.modLink l g).rtrig = s.rtrig := (rfl)
@[simp] theorem State.modLink_wakes (l : Nat) (g : BrlLink → BrlLink) : (s.modLink l g).wakes = s.wakes := (rfl)
@[simp] theorem State.modLink_dma (l : Nat) (g : BrlLink → BrlLink) : (s.modLink l g).dma = s.dma := (rfl)
@[simp] theorem State.modLink_cmd (l : Nat) (g : BrlLink → BrlLink) : (s.modLink l g).cmd = s.cmd := (rfl)
@[simp] theorem State.modLink_encl (l : Nat) (g : BrlLink → BrlLink) : (s.modLink l g).encl = s.encl := (rfl)
@[simp] theorem State.modLink_crust (l : Nat) (g : BrlLink → BrlLink) : (s.modLink l g).crust = s.crust := (rfl)
@[simp] theorem State.modLink_upd (l : Nat) (g : BrlLink → BrlLink) : (s.modLink l g).upd = s.upd := (rfl)
@[simp] theorem State.modLink_settings (l : Nat) (g : BrlLink → BrlLink) : (s.modLink l g).settings = s.settings := (rfl)
@[simp] theorem State.modLink_idleS (l : Nat) (g : BrlLink → BrlLink) : (s.modLink l g).idleS = s.idleS := (rfl)
@[simp] theorem State.modLink_versions (l : Nat) (g : BrlLink → BrlLink) : (s.modLink l g).versions = s.versions := (rfl)
@[simp] theorem State.modLink_pA (l : Nat) (g : BrlLink → BrlLink) : (s.modLink l g).pA = s.pA := (rfl)
@[simp] theorem State.modLink_pB (l : Nat) (g : BrlLink → BrlLink) : (s.modLink l g).pB = s.pB := (rfl)
@[simp] theorem State.modLink_rake (l : Nat) (g : BrlLink → BrlLink) : (s.modLink l g).rake = s.rake := (rfl)
@[simp] theorem State.modLink_hss (l : Nat) (g : BrlLink → BrlLink) : (s.modLink l g).hss = s.hss := (rfl)
@[simp] theorem State.modLink_sol (l : Nat) (g : BrlLink → BrlLink) : (s.modLink l g).sol = s.sol := (rfl)
@[simp] theorem State.modLink_dio (l : Nat) (g : BrlLink → BrlLink) : (s.modLink l g).dio = s.dio := (rfl)
@[simp] theorem State.modLink_led (l : Nat) (g : BrlLink → BrlLink) : (s.modLink l g).led = s.led := (rfl)
@[simp] theorem State.modLink_acc (l : Nat) (g : BrlLink → BrlLink) : (s.modLink l g).acc = s.acc := (rfl)
@[simp] theorem State.modLink_can (l : Nat) (g : BrlLink → BrlLink) : (s.modLink l g).can = s.can := (rfl)
@[simp] theorem State.modLink_time (l : Nat) (g : BrlLink → BrlLink) : (s.modLink l g).time = s.time := (rfl)
@[simp] theorem State.modLink_pwr (l : Nat) (g : BrlLink → BrlLink) : (s.modLink l g).pwr = s.pwr := (rfl)
@[simp] theorem State.modLink_dbg (l : Nat) (g : BrlLink → BrlLink) : (s.modLink l g).dbg = s.dbg := (rfl)
@[simp] theorem State.modLink_thermWarn (l : Nat) (g : BrlLink → BrlLink) : (s.modLink l g).thermWarn = s.thermWarn := (rfl)
@[simp] theorem State.modLink_islHeld (l : Nat) (g : BrlLink → BrlLink) : (s.modLink l g).islHeld = s.islHeld := (rfl)
@[simp] theorem State.modLink_own (l : Nat) (g : BrlLink → BrlLink) : (s.modLink l g).own = s.own := (rfl)
@[simp] theorem State.modLink_gpioOn (l : Nat) (g : BrlLink → BrlLink) : (s.modLink l g).gpioOn = s.gpioOn := (rfl)
@[simp] theorem State.modLink_rstReq (l : Nat) (g : BrlLink → BrlLink) : (s.modLink l g).rstReq = s.rstReq := (rfl)
@[simp] theorem State.modLink_pending (l : Nat) (g : BrlLink → BrlLink) : (s.modLink l g).pending = s.pending := (rfl)

end Sys2Proof.Machine
end

