-- ==== Sys2Proof/Laws/Blocks.lean ====
section
/-! SUPPORT. What each update of a block's own state leaves unchanged, field by field. -/
namespace Sys2Proof.Machine
variable (s : State)

@[simp] theorem State.modHs_regs (g : HsSt → HsSt) : (s.modHs g).regs = s.regs := (rfl)
@[simp] theorem State.modHs_mem (g : HsSt → HsSt) : (s.modHs g).mem = s.mem := (rfl)
@[simp] theorem State.modHs_stewRam (g : HsSt → HsSt) : (s.modHs g).stewRam = s.stewRam := (rfl)
@[simp] theorem State.modHs_now (g : HsSt → HsSt) : (s.modHs g).now = s.now := (rfl)
@[simp] theorem State.modHs_dtime (g : HsSt → HsSt) : (s.modHs g).dtime = s.dtime := (rfl)
@[simp] theorem State.modHs_freeCtr (g : HsSt → HsSt) : (s.modHs g).freeCtr = s.freeCtr := (rfl)
@[simp] theorem State.modHs_out (g : HsSt → HsSt) : (s.modHs g).out = s.out := (rfl)
@[simp] theorem State.modHs_panA (g : HsSt → HsSt) : (s.modHs g).panA = s.panA := (rfl)
@[simp] theorem State.modHs_panB (g : HsSt → HsSt) : (s.modHs g).panB = s.panB := (rfl)
@[simp] theorem State.modHs_stew (g : HsSt → HsSt) : (s.modHs g).stew = s.stew := (rfl)
@[simp] theorem State.modHs_ecc (g : HsSt → HsSt) : (s.modHs g).ecc = s.ecc := (rfl)
@[simp] theorem State.modHs_latch (g : HsSt → HsSt) : (s.modHs g).latch = s.latch := (rfl)
@[simp] theorem State.modHs_rtrig (g : HsSt → HsSt) : (s.modHs g).rtrig = s.rtrig := (rfl)
@[simp] theorem State.modHs_dma (g : HsSt → HsSt) : (s.modHs g).dma = s.dma := (rfl)
@[simp] theorem State.modHs_cmd (g : HsSt → HsSt) : (s.modHs g).cmd = s.cmd := (rfl)
@[simp] theorem State.modHs_encl (g : HsSt → HsSt) : (s.modHs g).encl = s.encl := (rfl)
@[simp] theorem State.modHs_crust (g : HsSt → HsSt) : (s.modHs g).crust = s.crust := (rfl)
@[simp] theorem State.modHs_upd (g : HsSt → HsSt) : (s.modHs g).upd = s.upd := (rfl)
@[simp] theorem State.modHs_settings (g : HsSt → HsSt) : (s.modHs g).settings = s.settings := (rfl)
@[simp] theorem State.modHs_idleS (g : HsSt → HsSt) : (s.modHs g).idleS = s.idleS := (rfl)
@[simp] theorem State.modHs_versions (g : HsSt → HsSt) : (s.modHs g).versions = s.versions := (rfl)
@[simp] theorem State.modHs_pA (g : HsSt → HsSt) : (s.modHs g).pA = s.pA := (rfl)
@[simp] theorem State.modHs_pB (g : HsSt → HsSt) : (s.modHs g).pB = s.pB := (rfl)
@[simp] theorem State.modHs_rake (g : HsSt → HsSt) : (s.modHs g).rake = s.rake := (rfl)
@[simp] theorem State.modHs_hss (g : HsSt → HsSt) : (s.modHs g).hss = s.hss := (rfl)
@[simp] theorem State.modHs_sol (g : HsSt → HsSt) : (s.modHs g).sol = s.sol := (rfl)
@[simp] theorem State.modHs_dio (g : HsSt → HsSt) : (s.modHs g).dio = s.dio := (rfl)
@[simp] theorem State.modHs_led (g : HsSt → HsSt) : (s.modHs g).led = s.led := (rfl)
@[simp] theorem State.modHs_acc (g : HsSt → HsSt) : (s.modHs g).acc = s.acc := (rfl)
@[simp] theorem State.modHs_can (g : HsSt → HsSt) : (s.modHs g).can = s.can := (rfl)
@[simp] theorem State.modHs_time (g : HsSt → HsSt) : (s.modHs g).time = s.time := (rfl)
@[simp] theorem State.modHs_pwr (g : HsSt → HsSt) : (s.modHs g).pwr = s.pwr := (rfl)
@[simp] theorem State.modHs_dbg (g : HsSt → HsSt) : (s.modHs g).dbg = s.dbg := (rfl)
@[simp] theorem State.modHs_thermWarn (g : HsSt → HsSt) : (s.modHs g).thermWarn = s.thermWarn := (rfl)
@[simp] theorem State.modHs_islHeld (g : HsSt → HsSt) : (s.modHs g).islHeld = s.islHeld := (rfl)
@[simp] theorem State.modHs_own (g : HsSt → HsSt) : (s.modHs g).own = s.own := (rfl)
@[simp] theorem State.modHs_gpioOn (g : HsSt → HsSt) : (s.modHs g).gpioOn = s.gpioOn := (rfl)
@[simp] theorem State.modHs_rstReq (g : HsSt → HsSt) : (s.modHs g).rstReq = s.rstReq := (rfl)
@[simp] theorem State.modHs_pending (g : HsSt → HsSt) : (s.modHs g).pending = s.pending := (rfl)

@[simp] theorem State.modPwr_regs (g : PwrSt → PwrSt) : (s.modPwr g).regs = s.regs := (rfl)
@[simp] theorem State.modPwr_mem (g : PwrSt → PwrSt) : (s.modPwr g).mem = s.mem := (rfl)
@[simp] theorem State.modPwr_stewRam (g : PwrSt → PwrSt) : (s.modPwr g).stewRam = s.stewRam := (rfl)
@[simp] theorem State.modPwr_now (g : PwrSt → PwrSt) : (s.modPwr g).now = s.now := (rfl)
@[simp] theorem State.modPwr_dtime (g : PwrSt → PwrSt) : (s.modPwr g).dtime = s.dtime := (rfl)
@[simp] theorem State.modPwr_freeCtr (g : PwrSt → PwrSt) : (s.modPwr g).freeCtr = s.freeCtr := (rfl)
@[simp] theorem State.modPwr_out (g : PwrSt → PwrSt) : (s.modPwr g).out = s.out := (rfl)
@[simp] theorem State.modPwr_panA (g : PwrSt → PwrSt) : (s.modPwr g).panA = s.panA := (rfl)
@[simp] theorem State.modPwr_panB (g : PwrSt → PwrSt) : (s.modPwr g).panB = s.panB := (rfl)
@[simp] theorem State.modPwr_stew (g : PwrSt → PwrSt) : (s.modPwr g).stew = s.stew := (rfl)
@[simp] theorem State.modPwr_ecc (g : PwrSt → PwrSt) : (s.modPwr g).ecc = s.ecc := (rfl)
@[simp] theorem State.modPwr_latch (g : PwrSt → PwrSt) : (s.modPwr g).latch = s.latch := (rfl)
@[simp] theorem State.modPwr_rtrig (g : PwrSt → PwrSt) : (s.modPwr g).rtrig = s.rtrig := (rfl)
@[simp] theorem State.modPwr_dma (g : PwrSt → PwrSt) : (s.modPwr g).dma = s.dma := (rfl)
@[simp] theorem State.modPwr_cmd (g : PwrSt → PwrSt) : (s.modPwr g).cmd = s.cmd := (rfl)
@[simp] theorem State.modPwr_ring (g : PwrSt → PwrSt) : (s.modPwr g).ring = s.ring := (rfl)
@[simp] theorem State.modPwr_encl (g : PwrSt → PwrSt) : (s.modPwr g).encl = s.encl := (rfl)
@[simp] theorem State.modPwr_crust (g : PwrSt → PwrSt) : (s.modPwr g).crust = s.crust := (rfl)
@[simp] theorem State.modPwr_upd (g : PwrSt → PwrSt) : (s.modPwr g).upd = s.upd := (rfl)
@[simp] theorem State.modPwr_settings (g : PwrSt → PwrSt) : (s.modPwr g).settings = s.settings := (rfl)
@[simp] theorem State.modPwr_idleS (g : PwrSt → PwrSt) : (s.modPwr g).idleS = s.idleS := (rfl)
@[simp] theorem State.modPwr_versions (g : PwrSt → PwrSt) : (s.modPwr g).versions = s.versions := (rfl)
@[simp] theorem State.modPwr_pA (g : PwrSt → PwrSt) : (s.modPwr g).pA = s.pA := (rfl)
@[simp] theorem State.modPwr_pB (g : PwrSt → PwrSt) : (s.modPwr g).pB = s.pB := (rfl)
@[simp] theorem State.modPwr_rake (g : PwrSt → PwrSt) : (s.modPwr g).rake = s.rake := (rfl)
@[simp] theorem State.modPwr_hss (g : PwrSt → PwrSt) : (s.modPwr g).hss = s.hss := (rfl)
@[simp] theorem State.modPwr_sol (g : PwrSt → PwrSt) : (s.modPwr g).sol = s.sol := (rfl)
@[simp] theorem State.modPwr_dio (g : PwrSt → PwrSt) : (s.modPwr g).dio = s.dio := (rfl)
@[simp] theorem State.modPwr_led (g : PwrSt → PwrSt) : (s.modPwr g).led = s.led := (rfl)
@[simp] theorem State.modPwr_acc (g : PwrSt → PwrSt) : (s.modPwr g).acc = s.acc := (rfl)
@[simp] theorem State.modPwr_can (g : PwrSt → PwrSt) : (s.modPwr g).can = s.can := (rfl)
@[simp] theorem State.modPwr_time (g : PwrSt → PwrSt) : (s.modPwr g).time = s.time := (rfl)
@[simp] theorem State.modPwr_dbg (g : PwrSt → PwrSt) : (s.modPwr g).dbg = s.dbg := (rfl)
@[simp] theorem State.modPwr_thermWarn (g : PwrSt → PwrSt) : (s.modPwr g).thermWarn = s.thermWarn := (rfl)
@[simp] theorem State.modPwr_islHeld (g : PwrSt → PwrSt) : (s.modPwr g).islHeld = s.islHeld := (rfl)
@[simp] theorem State.modPwr_own (g : PwrSt → PwrSt) : (s.modPwr g).own = s.own := (rfl)
@[simp] theorem State.modPwr_gpioOn (g : PwrSt → PwrSt) : (s.modPwr g).gpioOn = s.gpioOn := (rfl)
@[simp] theorem State.modPwr_rstReq (g : PwrSt → PwrSt) : (s.modPwr g).rstReq = s.rstReq := (rfl)
@[simp] theorem State.modPwr_pending (g : PwrSt → PwrSt) : (s.modPwr g).pending = s.pending := (rfl)

@[simp] theorem State.modTime_regs (g : TimeSt → TimeSt) : (s.modTime g).regs = s.regs := (rfl)
@[simp] theorem State.modTime_mem (g : TimeSt → TimeSt) : (s.modTime g).mem = s.mem := (rfl)
@[simp] theorem State.modTime_stewRam (g : TimeSt → TimeSt) : (s.modTime g).stewRam = s.stewRam := (rfl)
@[simp] theorem State.modTime_now (g : TimeSt → TimeSt) : (s.modTime g).now = s.now := (rfl)
@[simp] theorem State.modTime_dtime (g : TimeSt → TimeSt) : (s.modTime g).dtime = s.dtime := (rfl)
@[simp] theorem State.modTime_freeCtr (g : TimeSt → TimeSt) : (s.modTime g).freeCtr = s.freeCtr := (rfl)
@[simp] theorem State.modTime_out (g : TimeSt → TimeSt) : (s.modTime g).out = s.out := (rfl)
@[simp] theorem State.modTime_panA (g : TimeSt → TimeSt) : (s.modTime g).panA = s.panA := (rfl)
@[simp] theorem State.modTime_panB (g : TimeSt → TimeSt) : (s.modTime g).panB = s.panB := (rfl)
@[simp] theorem State.modTime_stew (g : TimeSt → TimeSt) : (s.modTime g).stew = s.stew := (rfl)
@[simp] theorem State.modTime_ecc (g : TimeSt → TimeSt) : (s.modTime g).ecc = s.ecc := (rfl)
@[simp] theorem State.modTime_latch (g : TimeSt → TimeSt) : (s.modTime g).latch = s.latch := (rfl)
@[simp] theorem State.modTime_rtrig (g : TimeSt → TimeSt) : (s.modTime g).rtrig = s.rtrig := (rfl)
@[simp] theorem State.modTime_dma (g : TimeSt → TimeSt) : (s.modTime g).dma = s.dma := (rfl)
@[simp] theorem State.modTime_cmd (g : TimeSt → TimeSt) : (s.modTime g).cmd = s.cmd := (rfl)
@[simp] theorem State.modTime_ring (g : TimeSt → TimeSt) : (s.modTime g).ring = s.ring := (rfl)
@[simp] theorem State.modTime_encl (g : TimeSt → TimeSt) : (s.modTime g).encl = s.encl := (rfl)
@[simp] theorem State.modTime_crust (g : TimeSt → TimeSt) : (s.modTime g).crust = s.crust := (rfl)
@[simp] theorem State.modTime_upd (g : TimeSt → TimeSt) : (s.modTime g).upd = s.upd := (rfl)
@[simp] theorem State.modTime_settings (g : TimeSt → TimeSt) : (s.modTime g).settings = s.settings := (rfl)
@[simp] theorem State.modTime_idleS (g : TimeSt → TimeSt) : (s.modTime g).idleS = s.idleS := (rfl)
@[simp] theorem State.modTime_versions (g : TimeSt → TimeSt) : (s.modTime g).versions = s.versions := (rfl)
@[simp] theorem State.modTime_pA (g : TimeSt → TimeSt) : (s.modTime g).pA = s.pA := (rfl)
@[simp] theorem State.modTime_pB (g : TimeSt → TimeSt) : (s.modTime g).pB = s.pB := (rfl)
@[simp] theorem State.modTime_rake (g : TimeSt → TimeSt) : (s.modTime g).rake = s.rake := (rfl)
@[simp] theorem State.modTime_hss (g : TimeSt → TimeSt) : (s.modTime g).hss = s.hss := (rfl)
@[simp] theorem State.modTime_sol (g : TimeSt → TimeSt) : (s.modTime g).sol = s.sol := (rfl)
@[simp] theorem State.modTime_dio (g : TimeSt → TimeSt) : (s.modTime g).dio = s.dio := (rfl)
@[simp] theorem State.modTime_led (g : TimeSt → TimeSt) : (s.modTime g).led = s.led := (rfl)
@[simp] theorem State.modTime_acc (g : TimeSt → TimeSt) : (s.modTime g).acc = s.acc := (rfl)
@[simp] theorem State.modTime_can (g : TimeSt → TimeSt) : (s.modTime g).can = s.can := (rfl)
@[simp] theorem State.modTime_pwr (g : TimeSt → TimeSt) : (s.modTime g).pwr = s.pwr := (rfl)
@[simp] theorem State.modTime_dbg (g : TimeSt → TimeSt) : (s.modTime g).dbg = s.dbg := (rfl)
@[simp] theorem State.modTime_thermWarn (g : TimeSt → TimeSt) : (s.modTime g).thermWarn = s.thermWarn := (rfl)
@[simp] theorem State.modTime_islHeld (g : TimeSt → TimeSt) : (s.modTime g).islHeld = s.islHeld := (rfl)
@[simp] theorem State.modTime_own (g : TimeSt → TimeSt) : (s.modTime g).own = s.own := (rfl)
@[simp] theorem State.modTime_gpioOn (g : TimeSt → TimeSt) : (s.modTime g).gpioOn = s.gpioOn := (rfl)
@[simp] theorem State.modTime_rstReq (g : TimeSt → TimeSt) : (s.modTime g).rstReq = s.rstReq := (rfl)
@[simp] theorem State.modTime_pending (g : TimeSt → TimeSt) : (s.modTime g).pending = s.pending := (rfl)

@[simp] theorem State.modAcc_regs (g : AccSt → AccSt) : (s.modAcc g).regs = s.regs := (rfl)
@[simp] theorem State.modAcc_mem (g : AccSt → AccSt) : (s.modAcc g).mem = s.mem := (rfl)
@[simp] theorem State.modAcc_stewRam (g : AccSt → AccSt) : (s.modAcc g).stewRam = s.stewRam := (rfl)
@[simp] theorem State.modAcc_now (g : AccSt → AccSt) : (s.modAcc g).now = s.now := (rfl)
@[simp] theorem State.modAcc_dtime (g : AccSt → AccSt) : (s.modAcc g).dtime = s.dtime := (rfl)
@[simp] theorem State.modAcc_freeCtr (g : AccSt → AccSt) : (s.modAcc g).freeCtr = s.freeCtr := (rfl)
@[simp] theorem State.modAcc_out (g : AccSt → AccSt) : (s.modAcc g).out = s.out := (rfl)
@[simp] theorem State.modAcc_panA (g : AccSt → AccSt) : (s.modAcc g).panA = s.panA := (rfl)
@[simp] theorem State.modAcc_panB (g : AccSt → AccSt) : (s.modAcc g).panB = s.panB := (rfl)
@[simp] theorem State.modAcc_stew (g : AccSt → AccSt) : (s.modAcc g).stew = s.stew := (rfl)
@[simp] theorem State.modAcc_ecc (g : AccSt → AccSt) : (s.modAcc g).ecc = s.ecc := (rfl)
@[simp] theorem State.modAcc_latch (g : AccSt → AccSt) : (s.modAcc g).latch = s.latch := (rfl)
@[simp] theorem State.modAcc_rtrig (g : AccSt → AccSt) : (s.modAcc g).rtrig = s.rtrig := (rfl)
@[simp] theorem State.modAcc_dma (g : AccSt → AccSt) : (s.modAcc g).dma = s.dma := (rfl)
@[simp] theorem State.modAcc_cmd (g : AccSt → AccSt) : (s.modAcc g).cmd = s.cmd := (rfl)
@[simp] theorem State.modAcc_ring (g : AccSt → AccSt) : (s.modAcc g).ring = s.ring := (rfl)
@[simp] theorem State.modAcc_encl (g : AccSt → AccSt) : (s.modAcc g).encl = s.encl := (rfl)
@[simp] theorem State.modAcc_crust (g : AccSt → AccSt) : (s.modAcc g).crust = s.crust := (rfl)
@[simp] theorem State.modAcc_upd (g : AccSt → AccSt) : (s.modAcc g).upd = s.upd := (rfl)
@[simp] theorem State.modAcc_settings (g : AccSt → AccSt) : (s.modAcc g).settings = s.settings := (rfl)
@[simp] theorem State.modAcc_idleS (g : AccSt → AccSt) : (s.modAcc g).idleS = s.idleS := (rfl)
@[simp] theorem State.modAcc_versions (g : AccSt → AccSt) : (s.modAcc g).versions = s.versions := (rfl)
@[simp] theorem State.modAcc_pA (g : AccSt → AccSt) : (s.modAcc g).pA = s.pA := (rfl)
@[simp] theorem State.modAcc_pB (g : AccSt → AccSt) : (s.modAcc g).pB = s.pB := (rfl)
@[simp] theorem State.modAcc_rake (g : AccSt → AccSt) : (s.modAcc g).rake = s.rake := (rfl)
@[simp] theorem State.modAcc_hss (g : AccSt → AccSt) : (s.modAcc g).hss = s.hss := (rfl)
@[simp] theorem State.modAcc_sol (g : AccSt → AccSt) : (s.modAcc g).sol = s.sol := (rfl)
@[simp] theorem State.modAcc_dio (g : AccSt → AccSt) : (s.modAcc g).dio = s.dio := (rfl)
@[simp] theorem State.modAcc_led (g : AccSt → AccSt) : (s.modAcc g).led = s.led := (rfl)
@[simp] theorem State.modAcc_can (g : AccSt → AccSt) : (s.modAcc g).can = s.can := (rfl)
@[simp] theorem State.modAcc_time (g : AccSt → AccSt) : (s.modAcc g).time = s.time := (rfl)
@[simp] theorem State.modAcc_pwr (g : AccSt → AccSt) : (s.modAcc g).pwr = s.pwr := (rfl)
@[simp] theorem State.modAcc_dbg (g : AccSt → AccSt) : (s.modAcc g).dbg = s.dbg := (rfl)
@[simp] theorem State.modAcc_thermWarn (g : AccSt → AccSt) : (s.modAcc g).thermWarn = s.thermWarn := (rfl)
@[simp] theorem State.modAcc_islHeld (g : AccSt → AccSt) : (s.modAcc g).islHeld = s.islHeld := (rfl)
@[simp] theorem State.modAcc_own (g : AccSt → AccSt) : (s.modAcc g).own = s.own := (rfl)
@[simp] theorem State.modAcc_gpioOn (g : AccSt → AccSt) : (s.modAcc g).gpioOn = s.gpioOn := (rfl)
@[simp] theorem State.modAcc_rstReq (g : AccSt → AccSt) : (s.modAcc g).rstReq = s.rstReq := (rfl)
@[simp] theorem State.modAcc_pending (g : AccSt → AccSt) : (s.modAcc g).pending = s.pending := (rfl)

@[simp] theorem State.modHss_regs (n : Nat) (g : HssCh → HssCh) : (s.modHss n g).regs = s.regs := (rfl)
@[simp] theorem State.modHss_mem (n : Nat) (g : HssCh → HssCh) : (s.modHss n g).mem = s.mem := (rfl)
@[simp] theorem State.modHss_stewRam (n : Nat) (g : HssCh → HssCh) : (s.modHss n g).stewRam = s.stewRam := (rfl)
@[simp] theorem State.modHss_now (n : Nat) (g : HssCh → HssCh) : (s.modHss n g).now = s.now := (rfl)
@[simp] theorem State.modHss_dtime (n : Nat) (g : HssCh → HssCh) : (s.modHss n g).dtime = s.dtime := (rfl)
@[simp] theorem State.modHss_freeCtr (n : Nat) (g : HssCh → HssCh) : (s.modHss n g).freeCtr = s.freeCtr := (rfl)
@[simp] theorem State.modHss_out (n : Nat) (g : HssCh → HssCh) : (s.modHss n g).out = s.out := (rfl)
@[simp] theorem State.modHss_panA (n : Nat) (g : HssCh → HssCh) : (s.modHss n g).panA = s.panA := (rfl)
@[simp] theorem State.modHss_panB (n : Nat) (g : HssCh → HssCh) : (s.modHss n g).panB = s.panB := (rfl)
@[simp] theorem State.modHss_stew (n : Nat) (g : HssCh → HssCh) : (s.modHss n g).stew = s.stew := (rfl)
@[simp] theorem State.modHss_ecc (n : Nat) (g : HssCh → HssCh) : (s.modHss n g).ecc = s.ecc := (rfl)
@[simp] theorem State.modHss_latch (n : Nat) (g : HssCh → HssCh) : (s.modHss n g).latch = s.latch := (rfl)
@[simp] theorem State.modHss_rtrig (n : Nat) (g : HssCh → HssCh) : (s.modHss n g).rtrig = s.rtrig := (rfl)
@[simp] theorem State.modHss_dma (n : Nat) (g : HssCh → HssCh) : (s.modHss n g).dma = s.dma := (rfl)
@[simp] theorem State.modHss_cmd (n : Nat) (g : HssCh → HssCh) : (s.modHss n g).cmd = s.cmd := (rfl)
@[simp] theorem State.modHss_ring (n : Nat) (g : HssCh → HssCh) : (s.modHss n g).ring = s.ring := (rfl)
@[simp] theorem State.modHss_encl (n : Nat) (g : HssCh → HssCh) : (s.modHss n g).encl = s.encl := (rfl)
@[simp] theorem State.modHss_crust (n : Nat) (g : HssCh → HssCh) : (s.modHss n g).crust = s.crust := (rfl)
@[simp] theorem State.modHss_upd (n : Nat) (g : HssCh → HssCh) : (s.modHss n g).upd = s.upd := (rfl)
@[simp] theorem State.modHss_settings (n : Nat) (g : HssCh → HssCh) : (s.modHss n g).settings = s.settings := (rfl)
@[simp] theorem State.modHss_idleS (n : Nat) (g : HssCh → HssCh) : (s.modHss n g).idleS = s.idleS := (rfl)
@[simp] theorem State.modHss_versions (n : Nat) (g : HssCh → HssCh) : (s.modHss n g).versions = s.versions := (rfl)
@[simp] theorem State.modHss_pA (n : Nat) (g : HssCh → HssCh) : (s.modHss n g).pA = s.pA := (rfl)
@[simp] theorem State.modHss_pB (n : Nat) (g : HssCh → HssCh) : (s.modHss n g).pB = s.pB := (rfl)
@[simp] theorem State.modHss_rake (n : Nat) (g : HssCh → HssCh) : (s.modHss n g).rake = s.rake := (rfl)
@[simp] theorem State.modHss_sol (n : Nat) (g : HssCh → HssCh) : (s.modHss n g).sol = s.sol := (rfl)
@[simp] theorem State.modHss_dio (n : Nat) (g : HssCh → HssCh) : (s.modHss n g).dio = s.dio := (rfl)
@[simp] theorem State.modHss_led (n : Nat) (g : HssCh → HssCh) : (s.modHss n g).led = s.led := (rfl)
@[simp] theorem State.modHss_acc (n : Nat) (g : HssCh → HssCh) : (s.modHss n g).acc = s.acc := (rfl)
@[simp] theorem State.modHss_can (n : Nat) (g : HssCh → HssCh) : (s.modHss n g).can = s.can := (rfl)
@[simp] theorem State.modHss_time (n : Nat) (g : HssCh → HssCh) : (s.modHss n g).time = s.time := (rfl)
@[simp] theorem State.modHss_pwr (n : Nat) (g : HssCh → HssCh) : (s.modHss n g).pwr = s.pwr := (rfl)
@[simp] theorem State.modHss_dbg (n : Nat) (g : HssCh → HssCh) : (s.modHss n g).dbg = s.dbg := (rfl)
@[simp] theorem State.modHss_thermWarn (n : Nat) (g : HssCh → HssCh) : (s.modHss n g).thermWarn = s.thermWarn := (rfl)
@[simp] theorem State.modHss_islHeld (n : Nat) (g : HssCh → HssCh) : (s.modHss n g).islHeld = s.islHeld := (rfl)
@[simp] theorem State.modHss_own (n : Nat) (g : HssCh → HssCh) : (s.modHss n g).own = s.own := (rfl)
@[simp] theorem State.modHss_gpioOn (n : Nat) (g : HssCh → HssCh) : (s.modHss n g).gpioOn = s.gpioOn := (rfl)
@[simp] theorem State.modHss_rstReq (n : Nat) (g : HssCh → HssCh) : (s.modHss n g).rstReq = s.rstReq := (rfl)
@[simp] theorem State.modHss_pending (n : Nat) (g : HssCh → HssCh) : (s.modHss n g).pending = s.pending := (rfl)

@[simp] theorem State.modSol_mem (n : Nat) (g : SolCh → SolCh) : (s.modSol n g).mem = s.mem := by simp [State.modSol]
@[simp] theorem State.modSol_stewRam (n : Nat) (g : SolCh → SolCh) : (s.modSol n g).stewRam = s.stewRam := by simp [State.modSol]
@[simp] theorem State.modSol_now (n : Nat) (g : SolCh → SolCh) : (s.modSol n g).now = s.now := by simp [State.modSol]
@[simp] theorem State.modSol_dtime (n : Nat) (g : SolCh → SolCh) : (s.modSol n g).dtime = s.dtime := by simp [State.modSol]
@[simp] theorem State.modSol_freeCtr (n : Nat) (g : SolCh → SolCh) : (s.modSol n g).freeCtr = s.freeCtr := by simp [State.modSol]
@[simp] theorem State.modSol_out (n : Nat) (g : SolCh → SolCh) : (s.modSol n g).out = s.out := by simp [State.modSol]
@[simp] theorem State.modSol_panA (n : Nat) (g : SolCh → SolCh) : (s.modSol n g).panA = s.panA := by simp [State.modSol]
@[simp] theorem State.modSol_panB (n : Nat) (g : SolCh → SolCh) : (s.modSol n g).panB = s.panB := by simp [State.modSol]
@[simp] theorem State.modSol_stew (n : Nat) (g : SolCh → SolCh) : (s.modSol n g).stew = s.stew := by simp [State.modSol]
@[simp] theorem State.modSol_ecc (n : Nat) (g : SolCh → SolCh) : (s.modSol n g).ecc = s.ecc := by simp [State.modSol]
@[simp] theorem State.modSol_latch (n : Nat) (g : SolCh → SolCh) : (s.modSol n g).latch = s.latch := by simp [State.modSol]
@[simp] theorem State.modSol_rtrig (n : Nat) (g : SolCh → SolCh) : (s.modSol n g).rtrig = s.rtrig := by simp [State.modSol]
@[simp] theorem State.modSol_dma (n : Nat) (g : SolCh → SolCh) : (s.modSol n g).dma = s.dma := by simp [State.modSol]
@[simp] theorem State.modSol_cmd (n : Nat) (g : SolCh → SolCh) : (s.modSol n g).cmd = s.cmd := by simp [State.modSol]
@[simp] theorem State.modSol_ring (n : Nat) (g : SolCh → SolCh) : (s.modSol n g).ring = s.ring := by simp [State.modSol]
@[simp] theorem State.modSol_encl (n : Nat) (g : SolCh → SolCh) : (s.modSol n g).encl = s.encl := by simp [State.modSol]
@[simp] theorem State.modSol_crust (n : Nat) (g : SolCh → SolCh) : (s.modSol n g).crust = s.crust := by simp [State.modSol]
@[simp] theorem State.modSol_upd (n : Nat) (g : SolCh → SolCh) : (s.modSol n g).upd = s.upd := by simp [State.modSol]
@[simp] theorem State.modSol_settings (n : Nat) (g : SolCh → SolCh) : (s.modSol n g).settings = s.settings := by simp [State.modSol]
@[simp] theorem State.modSol_idleS (n : Nat) (g : SolCh → SolCh) : (s.modSol n g).idleS = s.idleS := by simp [State.modSol]
@[simp] theorem State.modSol_versions (n : Nat) (g : SolCh → SolCh) : (s.modSol n g).versions = s.versions := by simp [State.modSol]
@[simp] theorem State.modSol_pA (n : Nat) (g : SolCh → SolCh) : (s.modSol n g).pA = s.pA := by simp [State.modSol]
@[simp] theorem State.modSol_pB (n : Nat) (g : SolCh → SolCh) : (s.modSol n g).pB = s.pB := by simp [State.modSol]
@[simp] theorem State.modSol_rake (n : Nat) (g : SolCh → SolCh) : (s.modSol n g).rake = s.rake := by simp [State.modSol]
@[simp] theorem State.modSol_hss (n : Nat) (g : SolCh → SolCh) : (s.modSol n g).hss = s.hss := by simp [State.modSol]
@[simp] theorem State.modSol_dio (n : Nat) (g : SolCh → SolCh) : (s.modSol n g).dio = s.dio := by simp [State.modSol]
@[simp] theorem State.modSol_led (n : Nat) (g : SolCh → SolCh) : (s.modSol n g).led = s.led := by simp [State.modSol]
@[simp] theorem State.modSol_acc (n : Nat) (g : SolCh → SolCh) : (s.modSol n g).acc = s.acc := by simp [State.modSol]
@[simp] theorem State.modSol_can (n : Nat) (g : SolCh → SolCh) : (s.modSol n g).can = s.can := by simp [State.modSol]
@[simp] theorem State.modSol_time (n : Nat) (g : SolCh → SolCh) : (s.modSol n g).time = s.time := by simp [State.modSol]
@[simp] theorem State.modSol_pwr (n : Nat) (g : SolCh → SolCh) : (s.modSol n g).pwr = s.pwr := by simp [State.modSol]
@[simp] theorem State.modSol_dbg (n : Nat) (g : SolCh → SolCh) : (s.modSol n g).dbg = s.dbg := by simp [State.modSol]
@[simp] theorem State.modSol_thermWarn (n : Nat) (g : SolCh → SolCh) : (s.modSol n g).thermWarn = s.thermWarn := by simp [State.modSol]
@[simp] theorem State.modSol_islHeld (n : Nat) (g : SolCh → SolCh) : (s.modSol n g).islHeld = s.islHeld := by simp [State.modSol]
@[simp] theorem State.modSol_own (n : Nat) (g : SolCh → SolCh) : (s.modSol n g).own = s.own := by simp [State.modSol]
@[simp] theorem State.modSol_gpioOn (n : Nat) (g : SolCh → SolCh) : (s.modSol n g).gpioOn = s.gpioOn := by simp [State.modSol]
@[simp] theorem State.modSol_rstReq (n : Nat) (g : SolCh → SolCh) : (s.modSol n g).rstReq = s.rstReq := by simp [State.modSol]
@[simp] theorem State.modSol_pending (n : Nat) (g : SolCh → SolCh) : (s.modSol n g).pending = s.pending := by simp [State.modSol]

@[simp] theorem State.modDio_regs (n : Nat) (g : DioCh → DioCh) : (s.modDio n g).regs = s.regs := (rfl)
@[simp] theorem State.modDio_mem (n : Nat) (g : DioCh → DioCh) : (s.modDio n g).mem = s.mem := (rfl)
@[simp] theorem State.modDio_stewRam (n : Nat) (g : DioCh → DioCh) : (s.modDio n g).stewRam = s.stewRam := (rfl)
@[simp] theorem State.modDio_now (n : Nat) (g : DioCh → DioCh) : (s.modDio n g).now = s.now := (rfl)
@[simp] theorem State.modDio_dtime (n : Nat) (g : DioCh → DioCh) : (s.modDio n g).dtime = s.dtime := (rfl)
@[simp] theorem State.modDio_freeCtr (n : Nat) (g : DioCh → DioCh) : (s.modDio n g).freeCtr = s.freeCtr := (rfl)
@[simp] theorem State.modDio_out (n : Nat) (g : DioCh → DioCh) : (s.modDio n g).out = s.out := (rfl)
@[simp] theorem State.modDio_panA (n : Nat) (g : DioCh → DioCh) : (s.modDio n g).panA = s.panA := (rfl)
@[simp] theorem State.modDio_panB (n : Nat) (g : DioCh → DioCh) : (s.modDio n g).panB = s.panB := (rfl)
@[simp] theorem State.modDio_stew (n : Nat) (g : DioCh → DioCh) : (s.modDio n g).stew = s.stew := (rfl)
@[simp] theorem State.modDio_ecc (n : Nat) (g : DioCh → DioCh) : (s.modDio n g).ecc = s.ecc := (rfl)
@[simp] theorem State.modDio_latch (n : Nat) (g : DioCh → DioCh) : (s.modDio n g).latch = s.latch := (rfl)
@[simp] theorem State.modDio_rtrig (n : Nat) (g : DioCh → DioCh) : (s.modDio n g).rtrig = s.rtrig := (rfl)
@[simp] theorem State.modDio_dma (n : Nat) (g : DioCh → DioCh) : (s.modDio n g).dma = s.dma := (rfl)
@[simp] theorem State.modDio_cmd (n : Nat) (g : DioCh → DioCh) : (s.modDio n g).cmd = s.cmd := (rfl)
@[simp] theorem State.modDio_ring (n : Nat) (g : DioCh → DioCh) : (s.modDio n g).ring = s.ring := (rfl)
@[simp] theorem State.modDio_encl (n : Nat) (g : DioCh → DioCh) : (s.modDio n g).encl = s.encl := (rfl)
@[simp] theorem State.modDio_crust (n : Nat) (g : DioCh → DioCh) : (s.modDio n g).crust = s.crust := (rfl)
@[simp] theorem State.modDio_upd (n : Nat) (g : DioCh → DioCh) : (s.modDio n g).upd = s.upd := (rfl)
@[simp] theorem State.modDio_settings (n : Nat) (g : DioCh → DioCh) : (s.modDio n g).settings = s.settings := (rfl)
@[simp] theorem State.modDio_idleS (n : Nat) (g : DioCh → DioCh) : (s.modDio n g).idleS = s.idleS := (rfl)
@[simp] theorem State.modDio_versions (n : Nat) (g : DioCh → DioCh) : (s.modDio n g).versions = s.versions := (rfl)
@[simp] theorem State.modDio_pA (n : Nat) (g : DioCh → DioCh) : (s.modDio n g).pA = s.pA := (rfl)
@[simp] theorem State.modDio_pB (n : Nat) (g : DioCh → DioCh) : (s.modDio n g).pB = s.pB := (rfl)
@[simp] theorem State.modDio_rake (n : Nat) (g : DioCh → DioCh) : (s.modDio n g).rake = s.rake := (rfl)
@[simp] theorem State.modDio_hss (n : Nat) (g : DioCh → DioCh) : (s.modDio n g).hss = s.hss := (rfl)
@[simp] theorem State.modDio_sol (n : Nat) (g : DioCh → DioCh) : (s.modDio n g).sol = s.sol := (rfl)
@[simp] theorem State.modDio_led (n : Nat) (g : DioCh → DioCh) : (s.modDio n g).led = s.led := (rfl)
@[simp] theorem State.modDio_acc (n : Nat) (g : DioCh → DioCh) : (s.modDio n g).acc = s.acc := (rfl)
@[simp] theorem State.modDio_can (n : Nat) (g : DioCh → DioCh) : (s.modDio n g).can = s.can := (rfl)
@[simp] theorem State.modDio_time (n : Nat) (g : DioCh → DioCh) : (s.modDio n g).time = s.time := (rfl)
@[simp] theorem State.modDio_pwr (n : Nat) (g : DioCh → DioCh) : (s.modDio n g).pwr = s.pwr := (rfl)
@[simp] theorem State.modDio_dbg (n : Nat) (g : DioCh → DioCh) : (s.modDio n g).dbg = s.dbg := (rfl)
@[simp] theorem State.modDio_thermWarn (n : Nat) (g : DioCh → DioCh) : (s.modDio n g).thermWarn = s.thermWarn := (rfl)
@[simp] theorem State.modDio_islHeld (n : Nat) (g : DioCh → DioCh) : (s.modDio n g).islHeld = s.islHeld := (rfl)
@[simp] theorem State.modDio_own (n : Nat) (g : DioCh → DioCh) : (s.modDio n g).own = s.own := (rfl)
@[simp] theorem State.modDio_gpioOn (n : Nat) (g : DioCh → DioCh) : (s.modDio n g).gpioOn = s.gpioOn := (rfl)
@[simp] theorem State.modDio_rstReq (n : Nat) (g : DioCh → DioCh) : (s.modDio n g).rstReq = s.rstReq := (rfl)
@[simp] theorem State.modDio_pending (n : Nat) (g : DioCh → DioCh) : (s.modDio n g).pending = s.pending := (rfl)

@[simp] theorem State.modLed_regs (n : Nat) (g : LedCh → LedCh) : (s.modLed n g).regs = s.regs := (rfl)
@[simp] theorem State.modLed_mem (n : Nat) (g : LedCh → LedCh) : (s.modLed n g).mem = s.mem := (rfl)
@[simp] theorem State.modLed_stewRam (n : Nat) (g : LedCh → LedCh) : (s.modLed n g).stewRam = s.stewRam := (rfl)
@[simp] theorem State.modLed_now (n : Nat) (g : LedCh → LedCh) : (s.modLed n g).now = s.now := (rfl)
@[simp] theorem State.modLed_dtime (n : Nat) (g : LedCh → LedCh) : (s.modLed n g).dtime = s.dtime := (rfl)
@[simp] theorem State.modLed_freeCtr (n : Nat) (g : LedCh → LedCh) : (s.modLed n g).freeCtr = s.freeCtr := (rfl)
@[simp] theorem State.modLed_out (n : Nat) (g : LedCh → LedCh) : (s.modLed n g).out = s.out := (rfl)
@[simp] theorem State.modLed_panA (n : Nat) (g : LedCh → LedCh) : (s.modLed n g).panA = s.panA := (rfl)
@[simp] theorem State.modLed_panB (n : Nat) (g : LedCh → LedCh) : (s.modLed n g).panB = s.panB := (rfl)
@[simp] theorem State.modLed_stew (n : Nat) (g : LedCh → LedCh) : (s.modLed n g).stew = s.stew := (rfl)
@[simp] theorem State.modLed_ecc (n : Nat) (g : LedCh → LedCh) : (s.modLed n g).ecc = s.ecc := (rfl)
@[simp] theorem State.modLed_latch (n : Nat) (g : LedCh → LedCh) : (s.modLed n g).latch = s.latch := (rfl)
@[simp] theorem State.modLed_rtrig (n : Nat) (g : LedCh → LedCh) : (s.modLed n g).rtrig = s.rtrig := (rfl)
@[simp] theorem State.modLed_dma (n : Nat) (g : LedCh → LedCh) : (s.modLed n g).dma = s.dma := (rfl)
@[simp] theorem State.modLed_cmd (n : Nat) (g : LedCh → LedCh) : (s.modLed n g).cmd = s.cmd := (rfl)
@[simp] theorem State.modLed_ring (n : Nat) (g : LedCh → LedCh) : (s.modLed n g).ring = s.ring := (rfl)
@[simp] theorem State.modLed_encl (n : Nat) (g : LedCh → LedCh) : (s.modLed n g).encl = s.encl := (rfl)
@[simp] theorem State.modLed_crust (n : Nat) (g : LedCh → LedCh) : (s.modLed n g).crust = s.crust := (rfl)
@[simp] theorem State.modLed_upd (n : Nat) (g : LedCh → LedCh) : (s.modLed n g).upd = s.upd := (rfl)
@[simp] theorem State.modLed_settings (n : Nat) (g : LedCh → LedCh) : (s.modLed n g).settings = s.settings := (rfl)
@[simp] theorem State.modLed_idleS (n : Nat) (g : LedCh → LedCh) : (s.modLed n g).idleS = s.idleS := (rfl)
@[simp] theorem State.modLed_versions (n : Nat) (g : LedCh → LedCh) : (s.modLed n g).versions = s.versions := (rfl)
@[simp] theorem State.modLed_pA (n : Nat) (g : LedCh → LedCh) : (s.modLed n g).pA = s.pA := (rfl)
@[simp] theorem State.modLed_pB (n : Nat) (g : LedCh → LedCh) : (s.modLed n g).pB = s.pB := (rfl)
@[simp] theorem State.modLed_rake (n : Nat) (g : LedCh → LedCh) : (s.modLed n g).rake = s.rake := (rfl)
@[simp] theorem State.modLed_hss (n : Nat) (g : LedCh → LedCh) : (s.modLed n g).hss = s.hss := (rfl)
@[simp] theorem State.modLed_sol (n : Nat) (g : LedCh → LedCh) : (s.modLed n g).sol = s.sol := (rfl)
@[simp] theorem State.modLed_dio (n : Nat) (g : LedCh → LedCh) : (s.modLed n g).dio = s.dio := (rfl)
@[simp] theorem State.modLed_acc (n : Nat) (g : LedCh → LedCh) : (s.modLed n g).acc = s.acc := (rfl)
@[simp] theorem State.modLed_can (n : Nat) (g : LedCh → LedCh) : (s.modLed n g).can = s.can := (rfl)
@[simp] theorem State.modLed_time (n : Nat) (g : LedCh → LedCh) : (s.modLed n g).time = s.time := (rfl)
@[simp] theorem State.modLed_pwr (n : Nat) (g : LedCh → LedCh) : (s.modLed n g).pwr = s.pwr := (rfl)
@[simp] theorem State.modLed_dbg (n : Nat) (g : LedCh → LedCh) : (s.modLed n g).dbg = s.dbg := (rfl)
@[simp] theorem State.modLed_thermWarn (n : Nat) (g : LedCh → LedCh) : (s.modLed n g).thermWarn = s.thermWarn := (rfl)
@[simp] theorem State.modLed_islHeld (n : Nat) (g : LedCh → LedCh) : (s.modLed n g).islHeld = s.islHeld := (rfl)
@[simp] theorem State.modLed_own (n : Nat) (g : LedCh → LedCh) : (s.modLed n g).own = s.own := (rfl)
@[simp] theorem State.modLed_gpioOn (n : Nat) (g : LedCh → LedCh) : (s.modLed n g).gpioOn = s.gpioOn := (rfl)
@[simp] theorem State.modLed_rstReq (n : Nat) (g : LedCh → LedCh) : (s.modLed n g).rstReq = s.rstReq := (rfl)
@[simp] theorem State.modLed_pending (n : Nat) (g : LedCh → LedCh) : (s.modLed n g).pending = s.pending := (rfl)

@[simp] theorem State.modCan_regs (n : Nat) (g : CanCh → CanCh) : (s.modCan n g).regs = s.regs := (rfl)
@[simp] theorem State.modCan_mem (n : Nat) (g : CanCh → CanCh) : (s.modCan n g).mem = s.mem := (rfl)
@[simp] theorem State.modCan_stewRam (n : Nat) (g : CanCh → CanCh) : (s.modCan n g).stewRam = s.stewRam := (rfl)
@[simp] theorem State.modCan_now (n : Nat) (g : CanCh → CanCh) : (s.modCan n g).now = s.now := (rfl)
@[simp] theorem State.modCan_dtime (n : Nat) (g : CanCh → CanCh) : (s.modCan n g).dtime = s.dtime := (rfl)
@[simp] theorem State.modCan_freeCtr (n : Nat) (g : CanCh → CanCh) : (s.modCan n g).freeCtr = s.freeCtr := (rfl)
@[simp] theorem State.modCan_out (n : Nat) (g : CanCh → CanCh) : (s.modCan n g).out = s.out := (rfl)
@[simp] theorem State.modCan_panA (n : Nat) (g : CanCh → CanCh) : (s.modCan n g).panA = s.panA := (rfl)
@[simp] theorem State.modCan_panB (n : Nat) (g : CanCh → CanCh) : (s.modCan n g).panB = s.panB := (rfl)
@[simp] theorem State.modCan_stew (n : Nat) (g : CanCh → CanCh) : (s.modCan n g).stew = s.stew := (rfl)
@[simp] theorem State.modCan_ecc (n : Nat) (g : CanCh → CanCh) : (s.modCan n g).ecc = s.ecc := (rfl)
@[simp] theorem State.modCan_latch (n : Nat) (g : CanCh → CanCh) : (s.modCan n g).latch = s.latch := (rfl)
@[simp] theorem State.modCan_rtrig (n : Nat) (g : CanCh → CanCh) : (s.modCan n g).rtrig = s.rtrig := (rfl)
@[simp] theorem State.modCan_dma (n : Nat) (g : CanCh → CanCh) : (s.modCan n g).dma = s.dma := (rfl)
@[simp] theorem State.modCan_cmd (n : Nat) (g : CanCh → CanCh) : (s.modCan n g).cmd = s.cmd := (rfl)
@[simp] theorem State.modCan_ring (n : Nat) (g : CanCh → CanCh) : (s.modCan n g).ring = s.ring := (rfl)
@[simp] theorem State.modCan_encl (n : Nat) (g : CanCh → CanCh) : (s.modCan n g).encl = s.encl := (rfl)
@[simp] theorem State.modCan_crust (n : Nat) (g : CanCh → CanCh) : (s.modCan n g).crust = s.crust := (rfl)
@[simp] theorem State.modCan_upd (n : Nat) (g : CanCh → CanCh) : (s.modCan n g).upd = s.upd := (rfl)
@[simp] theorem State.modCan_settings (n : Nat) (g : CanCh → CanCh) : (s.modCan n g).settings = s.settings := (rfl)
@[simp] theorem State.modCan_idleS (n : Nat) (g : CanCh → CanCh) : (s.modCan n g).idleS = s.idleS := (rfl)
@[simp] theorem State.modCan_versions (n : Nat) (g : CanCh → CanCh) : (s.modCan n g).versions = s.versions := (rfl)
@[simp] theorem State.modCan_pA (n : Nat) (g : CanCh → CanCh) : (s.modCan n g).pA = s.pA := (rfl)
@[simp] theorem State.modCan_pB (n : Nat) (g : CanCh → CanCh) : (s.modCan n g).pB = s.pB := (rfl)
@[simp] theorem State.modCan_rake (n : Nat) (g : CanCh → CanCh) : (s.modCan n g).rake = s.rake := (rfl)
@[simp] theorem State.modCan_hss (n : Nat) (g : CanCh → CanCh) : (s.modCan n g).hss = s.hss := (rfl)
@[simp] theorem State.modCan_sol (n : Nat) (g : CanCh → CanCh) : (s.modCan n g).sol = s.sol := (rfl)
@[simp] theorem State.modCan_dio (n : Nat) (g : CanCh → CanCh) : (s.modCan n g).dio = s.dio := (rfl)
@[simp] theorem State.modCan_led (n : Nat) (g : CanCh → CanCh) : (s.modCan n g).led = s.led := (rfl)
@[simp] theorem State.modCan_acc (n : Nat) (g : CanCh → CanCh) : (s.modCan n g).acc = s.acc := (rfl)
@[simp] theorem State.modCan_time (n : Nat) (g : CanCh → CanCh) : (s.modCan n g).time = s.time := (rfl)
@[simp] theorem State.modCan_pwr (n : Nat) (g : CanCh → CanCh) : (s.modCan n g).pwr = s.pwr := (rfl)
@[simp] theorem State.modCan_dbg (n : Nat) (g : CanCh → CanCh) : (s.modCan n g).dbg = s.dbg := (rfl)
@[simp] theorem State.modCan_thermWarn (n : Nat) (g : CanCh → CanCh) : (s.modCan n g).thermWarn = s.thermWarn := (rfl)
@[simp] theorem State.modCan_islHeld (n : Nat) (g : CanCh → CanCh) : (s.modCan n g).islHeld = s.islHeld := (rfl)
@[simp] theorem State.modCan_own (n : Nat) (g : CanCh → CanCh) : (s.modCan n g).own = s.own := (rfl)
@[simp] theorem State.modCan_gpioOn (n : Nat) (g : CanCh → CanCh) : (s.modCan n g).gpioOn = s.gpioOn := (rfl)
@[simp] theorem State.modCan_rstReq (n : Nat) (g : CanCh → CanCh) : (s.modCan n g).rstReq = s.rstReq := (rfl)
@[simp] theorem State.modCan_pending (n : Nat) (g : CanCh → CanCh) : (s.modCan n g).pending = s.pending := (rfl)

@[simp] theorem State.modTide_regs (n : Nat) (g : TideCh → TideCh) : (s.modTide n g).regs = s.regs := (rfl)
@[simp] theorem State.modTide_mem (n : Nat) (g : TideCh → TideCh) : (s.modTide n g).mem = s.mem := (rfl)
@[simp] theorem State.modTide_stewRam (n : Nat) (g : TideCh → TideCh) : (s.modTide n g).stewRam = s.stewRam := (rfl)
@[simp] theorem State.modTide_now (n : Nat) (g : TideCh → TideCh) : (s.modTide n g).now = s.now := (rfl)
@[simp] theorem State.modTide_dtime (n : Nat) (g : TideCh → TideCh) : (s.modTide n g).dtime = s.dtime := (rfl)
@[simp] theorem State.modTide_freeCtr (n : Nat) (g : TideCh → TideCh) : (s.modTide n g).freeCtr = s.freeCtr := (rfl)
@[simp] theorem State.modTide_out (n : Nat) (g : TideCh → TideCh) : (s.modTide n g).out = s.out := (rfl)
@[simp] theorem State.modTide_panA (n : Nat) (g : TideCh → TideCh) : (s.modTide n g).panA = s.panA := (rfl)
@[simp] theorem State.modTide_panB (n : Nat) (g : TideCh → TideCh) : (s.modTide n g).panB = s.panB := (rfl)
@[simp] theorem State.modTide_stew (n : Nat) (g : TideCh → TideCh) : (s.modTide n g).stew = s.stew := (rfl)
@[simp] theorem State.modTide_ecc (n : Nat) (g : TideCh → TideCh) : (s.modTide n g).ecc = s.ecc := (rfl)
@[simp] theorem State.modTide_latch (n : Nat) (g : TideCh → TideCh) : (s.modTide n g).latch = s.latch := (rfl)
@[simp] theorem State.modTide_rtrig (n : Nat) (g : TideCh → TideCh) : (s.modTide n g).rtrig = s.rtrig := (rfl)
@[simp] theorem State.modTide_dma (n : Nat) (g : TideCh → TideCh) : (s.modTide n g).dma = s.dma := (rfl)
@[simp] theorem State.modTide_cmd (n : Nat) (g : TideCh → TideCh) : (s.modTide n g).cmd = s.cmd := (rfl)
@[simp] theorem State.modTide_ring (n : Nat) (g : TideCh → TideCh) : (s.modTide n g).ring = s.ring := (rfl)
@[simp] theorem State.modTide_encl (n : Nat) (g : TideCh → TideCh) : (s.modTide n g).encl = s.encl := (rfl)
@[simp] theorem State.modTide_crust (n : Nat) (g : TideCh → TideCh) : (s.modTide n g).crust = s.crust := (rfl)
@[simp] theorem State.modTide_upd (n : Nat) (g : TideCh → TideCh) : (s.modTide n g).upd = s.upd := (rfl)
@[simp] theorem State.modTide_settings (n : Nat) (g : TideCh → TideCh) : (s.modTide n g).settings = s.settings := (rfl)
@[simp] theorem State.modTide_idleS (n : Nat) (g : TideCh → TideCh) : (s.modTide n g).idleS = s.idleS := (rfl)
@[simp] theorem State.modTide_versions (n : Nat) (g : TideCh → TideCh) : (s.modTide n g).versions = s.versions := (rfl)
@[simp] theorem State.modTide_pA (n : Nat) (g : TideCh → TideCh) : (s.modTide n g).pA = s.pA := (rfl)
@[simp] theorem State.modTide_pB (n : Nat) (g : TideCh → TideCh) : (s.modTide n g).pB = s.pB := (rfl)
@[simp] theorem State.modTide_rake (n : Nat) (g : TideCh → TideCh) : (s.modTide n g).rake = s.rake := (rfl)
@[simp] theorem State.modTide_hss (n : Nat) (g : TideCh → TideCh) : (s.modTide n g).hss = s.hss := (rfl)
@[simp] theorem State.modTide_sol (n : Nat) (g : TideCh → TideCh) : (s.modTide n g).sol = s.sol := (rfl)
@[simp] theorem State.modTide_dio (n : Nat) (g : TideCh → TideCh) : (s.modTide n g).dio = s.dio := (rfl)
@[simp] theorem State.modTide_led (n : Nat) (g : TideCh → TideCh) : (s.modTide n g).led = s.led := (rfl)
@[simp] theorem State.modTide_acc (n : Nat) (g : TideCh → TideCh) : (s.modTide n g).acc = s.acc := (rfl)
@[simp] theorem State.modTide_time (n : Nat) (g : TideCh → TideCh) : (s.modTide n g).time = s.time := (rfl)
@[simp] theorem State.modTide_pwr (n : Nat) (g : TideCh → TideCh) : (s.modTide n g).pwr = s.pwr := (rfl)
@[simp] theorem State.modTide_dbg (n : Nat) (g : TideCh → TideCh) : (s.modTide n g).dbg = s.dbg := (rfl)
@[simp] theorem State.modTide_thermWarn (n : Nat) (g : TideCh → TideCh) : (s.modTide n g).thermWarn = s.thermWarn := (rfl)
@[simp] theorem State.modTide_islHeld (n : Nat) (g : TideCh → TideCh) : (s.modTide n g).islHeld = s.islHeld := (rfl)
@[simp] theorem State.modTide_own (n : Nat) (g : TideCh → TideCh) : (s.modTide n g).own = s.own := (rfl)
@[simp] theorem State.modTide_gpioOn (n : Nat) (g : TideCh → TideCh) : (s.modTide n g).gpioOn = s.gpioOn := (rfl)
@[simp] theorem State.modTide_rstReq (n : Nat) (g : TideCh → TideCh) : (s.modTide n g).rstReq = s.rstReq := (rfl)
@[simp] theorem State.modTide_pending (n : Nat) (g : TideCh → TideCh) : (s.modTide n g).pending = s.pending := (rfl)

@[simp] theorem State.modIso_regs (g : IsoTp → IsoTp) : (s.modIso g).regs = s.regs := (rfl)
@[simp] theorem State.modIso_mem (g : IsoTp → IsoTp) : (s.modIso g).mem = s.mem := (rfl)
@[simp] theorem State.modIso_stewRam (g : IsoTp → IsoTp) : (s.modIso g).stewRam = s.stewRam := (rfl)
@[simp] theorem State.modIso_now (g : IsoTp → IsoTp) : (s.modIso g).now = s.now := (rfl)
@[simp] theorem State.modIso_dtime (g : IsoTp → IsoTp) : (s.modIso g).dtime = s.dtime := (rfl)
@[simp] theorem State.modIso_freeCtr (g : IsoTp → IsoTp) : (s.modIso g).freeCtr = s.freeCtr := (rfl)
@[simp] theorem State.modIso_out (g : IsoTp → IsoTp) : (s.modIso g).out = s.out := (rfl)
@[simp] theorem State.modIso_panA (g : IsoTp → IsoTp) : (s.modIso g).panA = s.panA := (rfl)
@[simp] theorem State.modIso_panB (g : IsoTp → IsoTp) : (s.modIso g).panB = s.panB := (rfl)
@[simp] theorem State.modIso_stew (g : IsoTp → IsoTp) : (s.modIso g).stew = s.stew := (rfl)
@[simp] theorem State.modIso_ecc (g : IsoTp → IsoTp) : (s.modIso g).ecc = s.ecc := (rfl)
@[simp] theorem State.modIso_latch (g : IsoTp → IsoTp) : (s.modIso g).latch = s.latch := (rfl)
@[simp] theorem State.modIso_rtrig (g : IsoTp → IsoTp) : (s.modIso g).rtrig = s.rtrig := (rfl)
@[simp] theorem State.modIso_dma (g : IsoTp → IsoTp) : (s.modIso g).dma = s.dma := (rfl)
@[simp] theorem State.modIso_ring (g : IsoTp → IsoTp) : (s.modIso g).ring = s.ring := (rfl)
@[simp] theorem State.modIso_encl (g : IsoTp → IsoTp) : (s.modIso g).encl = s.encl := (rfl)
@[simp] theorem State.modIso_crust (g : IsoTp → IsoTp) : (s.modIso g).crust = s.crust := (rfl)
@[simp] theorem State.modIso_upd (g : IsoTp → IsoTp) : (s.modIso g).upd = s.upd := (rfl)
@[simp] theorem State.modIso_settings (g : IsoTp → IsoTp) : (s.modIso g).settings = s.settings := (rfl)
@[simp] theorem State.modIso_idleS (g : IsoTp → IsoTp) : (s.modIso g).idleS = s.idleS := (rfl)
@[simp] theorem State.modIso_versions (g : IsoTp → IsoTp) : (s.modIso g).versions = s.versions := (rfl)
@[simp] theorem State.modIso_pA (g : IsoTp → IsoTp) : (s.modIso g).pA = s.pA := (rfl)
@[simp] theorem State.modIso_pB (g : IsoTp → IsoTp) : (s.modIso g).pB = s.pB := (rfl)
@[simp] theorem State.modIso_rake (g : IsoTp → IsoTp) : (s.modIso g).rake = s.rake := (rfl)
@[simp] theorem State.modIso_hss (g : IsoTp → IsoTp) : (s.modIso g).hss = s.hss := (rfl)
@[simp] theorem State.modIso_sol (g : IsoTp → IsoTp) : (s.modIso g).sol = s.sol := (rfl)
@[simp] theorem State.modIso_dio (g : IsoTp → IsoTp) : (s.modIso g).dio = s.dio := (rfl)
@[simp] theorem State.modIso_led (g : IsoTp → IsoTp) : (s.modIso g).led = s.led := (rfl)
@[simp] theorem State.modIso_acc (g : IsoTp → IsoTp) : (s.modIso g).acc = s.acc := (rfl)
@[simp] theorem State.modIso_can (g : IsoTp → IsoTp) : (s.modIso g).can = s.can := (rfl)
@[simp] theorem State.modIso_time (g : IsoTp → IsoTp) : (s.modIso g).time = s.time := (rfl)
@[simp] theorem State.modIso_pwr (g : IsoTp → IsoTp) : (s.modIso g).pwr = s.pwr := (rfl)
@[simp] theorem State.modIso_dbg (g : IsoTp → IsoTp) : (s.modIso g).dbg = s.dbg := (rfl)
@[simp] theorem State.modIso_thermWarn (g : IsoTp → IsoTp) : (s.modIso g).thermWarn = s.thermWarn := (rfl)
@[simp] theorem State.modIso_islHeld (g : IsoTp → IsoTp) : (s.modIso g).islHeld = s.islHeld := (rfl)
@[simp] theorem State.modIso_own (g : IsoTp → IsoTp) : (s.modIso g).own = s.own := (rfl)
@[simp] theorem State.modIso_gpioOn (g : IsoTp → IsoTp) : (s.modIso g).gpioOn = s.gpioOn := (rfl)
@[simp] theorem State.modIso_rstReq (g : IsoTp → IsoTp) : (s.modIso g).rstReq = s.rstReq := (rfl)
@[simp] theorem State.modIso_pending (g : IsoTp → IsoTp) : (s.modIso g).pending = s.pending := (rfl)

@[simp] theorem State.modDch_regs (n : Nat) (g : DmaCh → DmaCh) : (s.modDch n g).regs = s.regs := (rfl)
@[simp] theorem State.modDch_mem (n : Nat) (g : DmaCh → DmaCh) : (s.modDch n g).mem = s.mem := (rfl)
@[simp] theorem State.modDch_stewRam (n : Nat) (g : DmaCh → DmaCh) : (s.modDch n g).stewRam = s.stewRam := (rfl)
@[simp] theorem State.modDch_now (n : Nat) (g : DmaCh → DmaCh) : (s.modDch n g).now = s.now := (rfl)
@[simp] theorem State.modDch_dtime (n : Nat) (g : DmaCh → DmaCh) : (s.modDch n g).dtime = s.dtime := (rfl)
@[simp] theorem State.modDch_freeCtr (n : Nat) (g : DmaCh → DmaCh) : (s.modDch n g).freeCtr = s.freeCtr := (rfl)
@[simp] theorem State.modDch_out (n : Nat) (g : DmaCh → DmaCh) : (s.modDch n g).out = s.out := (rfl)
@[simp] theorem State.modDch_panA (n : Nat) (g : DmaCh → DmaCh) : (s.modDch n g).panA = s.panA := (rfl)
@[simp] theorem State.modDch_panB (n : Nat) (g : DmaCh → DmaCh) : (s.modDch n g).panB = s.panB := (rfl)
@[simp] theorem State.modDch_stew (n : Nat) (g : DmaCh → DmaCh) : (s.modDch n g).stew = s.stew := (rfl)
@[simp] theorem State.modDch_ecc (n : Nat) (g : DmaCh → DmaCh) : (s.modDch n g).ecc = s.ecc := (rfl)
@[simp] theorem State.modDch_latch (n : Nat) (g : DmaCh → DmaCh) : (s.modDch n g).latch = s.latch := (rfl)
@[simp] theorem State.modDch_rtrig (n : Nat) (g : DmaCh → DmaCh) : (s.modDch n g).rtrig = s.rtrig := (rfl)
@[simp] theorem State.modDch_cmd (n : Nat) (g : DmaCh → DmaCh) : (s.modDch n g).cmd = s.cmd := (rfl)
@[simp] theorem State.modDch_ring (n : Nat) (g : DmaCh → DmaCh) : (s.modDch n g).ring = s.ring := (rfl)
@[simp] theorem State.modDch_encl (n : Nat) (g : DmaCh → DmaCh) : (s.modDch n g).encl = s.encl := (rfl)
@[simp] theorem State.modDch_crust (n : Nat) (g : DmaCh → DmaCh) : (s.modDch n g).crust = s.crust := (rfl)
@[simp] theorem State.modDch_upd (n : Nat) (g : DmaCh → DmaCh) : (s.modDch n g).upd = s.upd := (rfl)
@[simp] theorem State.modDch_settings (n : Nat) (g : DmaCh → DmaCh) : (s.modDch n g).settings = s.settings := (rfl)
@[simp] theorem State.modDch_idleS (n : Nat) (g : DmaCh → DmaCh) : (s.modDch n g).idleS = s.idleS := (rfl)
@[simp] theorem State.modDch_versions (n : Nat) (g : DmaCh → DmaCh) : (s.modDch n g).versions = s.versions := (rfl)
@[simp] theorem State.modDch_pA (n : Nat) (g : DmaCh → DmaCh) : (s.modDch n g).pA = s.pA := (rfl)
@[simp] theorem State.modDch_pB (n : Nat) (g : DmaCh → DmaCh) : (s.modDch n g).pB = s.pB := (rfl)
@[simp] theorem State.modDch_rake (n : Nat) (g : DmaCh → DmaCh) : (s.modDch n g).rake = s.rake := (rfl)
@[simp] theorem State.modDch_hss (n : Nat) (g : DmaCh → DmaCh) : (s.modDch n g).hss = s.hss := (rfl)
@[simp] theorem State.modDch_sol (n : Nat) (g : DmaCh → DmaCh) : (s.modDch n g).sol = s.sol := (rfl)
@[simp] theorem State.modDch_dio (n : Nat) (g : DmaCh → DmaCh) : (s.modDch n g).dio = s.dio := (rfl)
@[simp] theorem State.modDch_led (n : Nat) (g : DmaCh → DmaCh) : (s.modDch n g).led = s.led := (rfl)
@[simp] theorem State.modDch_acc (n : Nat) (g : DmaCh → DmaCh) : (s.modDch n g).acc = s.acc := (rfl)
@[simp] theorem State.modDch_can (n : Nat) (g : DmaCh → DmaCh) : (s.modDch n g).can = s.can := (rfl)
@[simp] theorem State.modDch_time (n : Nat) (g : DmaCh → DmaCh) : (s.modDch n g).time = s.time := (rfl)
@[simp] theorem State.modDch_pwr (n : Nat) (g : DmaCh → DmaCh) : (s.modDch n g).pwr = s.pwr := (rfl)
@[simp] theorem State.modDch_dbg (n : Nat) (g : DmaCh → DmaCh) : (s.modDch n g).dbg = s.dbg := (rfl)
@[simp] theorem State.modDch_thermWarn (n : Nat) (g : DmaCh → DmaCh) : (s.modDch n g).thermWarn = s.thermWarn := (rfl)
@[simp] theorem State.modDch_islHeld (n : Nat) (g : DmaCh → DmaCh) : (s.modDch n g).islHeld = s.islHeld := (rfl)
@[simp] theorem State.modDch_own (n : Nat) (g : DmaCh → DmaCh) : (s.modDch n g).own = s.own := (rfl)
@[simp] theorem State.modDch_gpioOn (n : Nat) (g : DmaCh → DmaCh) : (s.modDch n g).gpioOn = s.gpioOn := (rfl)
@[simp] theorem State.modDch_rstReq (n : Nat) (g : DmaCh → DmaCh) : (s.modDch n g).rstReq = s.rstReq := (rfl)
@[simp] theorem State.modDch_pending (n : Nat) (g : DmaCh → DmaCh) : (s.modDch n g).pending = s.pending := (rfl)

end Sys2Proof.Machine
end

