-- ==== Sys2Proof/Laws/Cmd.lean ====
section
/-! SUPPORT. What sending a packet leaves of the Command Engine's requests (R35 to R37). -/
namespace Sys2Proof.Machine

theorem isoEmit_outst (fs : List (List Byte)) (s : State) : (s.isoEmit fs).cmd.outst = s.cmd.outst := (rfl)

theorem sendBytes_outst (s : State) (tp ep : Nat) (b : List Byte) : (s.sendBytes tp ep b).cmd.outst = s.cmd.outst := by
  unfold State.sendBytes State.isoSend State.isoKick State.brlCmd State.brlSend State.emitPkt
  dsimp only
  repeat' split
  all_goals rfl

theorem syncOut_outst (s : State) (tp : Nat) : (s.syncOut tp).cmd.outst = s.cmd.outst := by
  unfold State.syncOut
  simp only []
  repeat' split
  all_goals rfl

theorem finish_findOutst (s : State) (k : RKey) (st : Nat) (pl : List Byte) (h : s.findOutst k = none) : s.finish k st pl = s := by
  unfold State.finish
  rw [h]

end Sys2Proof.Machine
end

