-- ==== Sys2Proof/Laws/Regs.lean ====
section
/-! SUPPORT. Laws of the register file: a register reads back what was stored, another keeps its value, fields within and beside
the one that is written, and the one form of the file. -/
namespace Sys2Proof.Machine

/-- Registers of a file lie above an address. -/
def regsAbove (n : Nat) (r : List (Nat × Word)) : Prop := ∀ c ∈ r, n < c.1

theorem regsWf_cons (c : Nat × Word) (r : List (Nat × Word)) :
    regsWf (c :: r) = true ↔ c.2 ≠ resetWord c.1 ∧ regsAbove c.1 r ∧ regsWf r = true := by
  induction r generalizing c with
  | nil => obtain ⟨k, b⟩ := c; simp [regsWf, regsAbove]
  | cons d r ih =>
    obtain ⟨k, b⟩ := c
    obtain ⟨j, e⟩ := d
    have h := ih (j, e)
    simp only [regsWf, Bool.and_eq_true, decide_eq_true_eq, regsAbove, List.mem_cons, forall_eq_or_imp] at h ⊢
    constructor
    · rintro ⟨⟨h1, h2⟩, h3⟩
      refine ⟨h1, ⟨h2, ?_⟩, h3⟩
      intro x hx
      have := (h.1 h3).2.1 x hx
      omega
    · rintro ⟨h1, ⟨h2, _⟩, h4⟩
      exact ⟨⟨h1, h2⟩, h4⟩

theorem regsWf_iff (r : List (Nat × Word)) :
    regsWf r = true ↔ r.Pairwise (fun a b => a.1 < b.1) ∧ ∀ c ∈ r, c.2 ≠ resetWord c.1 := by
  induction r with
  | nil => simp [regsWf]
  | cons c r ih =>
    rw [regsWf_cons, List.pairwise_cons, ih]
    simp only [regsAbove, List.mem_cons, forall_eq_or_imp]
    tauto

theorem tblErase_mem {α : Type} (t : Tbl α) (i : Nat) : ∀ c ∈ tblErase t i, c ∈ t := by
  induction t with
  | nil => simp [tblErase]
  | cons d t ih =>
    obtain ⟨j, y⟩ := d
    intro c hc
    unfold tblErase at hc
    split at hc
    · simp [hc]
    · split at hc
      · exact hc
      · rcases List.mem_cons.1 hc with rfl | hc
        · simp
        · simp [ih c hc]

theorem tblFind_above {α : Type} (t : Tbl α) (n : Nat) (h : ∀ c ∈ t, n < c.1) : tblFind t n = none := by
  cases t with
  | nil => rfl
  | cons c t =>
    obtain ⟨k, b⟩ := c
    have hk : n < k := h (k, b) (by simp)
    have : ¬ k = n := by omega
    simp [tblFind, this, hk]

/-- Erasing from a table whose indices rise. -/
theorem tblFind_tblErase {α : Type} (t : Tbl α) (i k : Nat) (h : t.Pairwise (fun a b => a.1 < b.1)) :
    tblFind (tblErase t i) k = if k = i then none else tblFind t k := by
  induction t with
  | nil => simp [tblErase, tblFind]
  | cons d t ih =>
    obtain ⟨j, y⟩ := d
    obtain ⟨h1, h2⟩ := List.pairwise_cons.1 h
    simp only at h1
    unfold tblErase
    split
    · rename_i hj; subst hj
      by_cases hk : k = j
      · subst hk; rw [if_pos rfl]; exact tblFind_above t k h1
      · have hjk : ¬ j = k := fun e => hk e.symm
        by_cases hlt : k < j
        · have : tblFind t k = none := tblFind_above t k (fun c hc => by have := h1 c hc; omega)
          simp [tblFind, hk, hjk, hlt, this]
        · simp [tblFind, hk, hjk, hlt]
    · split
      · rename_i hj hlt
        by_cases hk : k = i
        · subst hk; simp [tblFind, hj, hlt]
        · simp [hk]
      · rename_i hj hlt
        by_cases hjk : j = k
        · have : ¬ k = i := by omega
          simp [tblFind, hjk, this]
        · by_cases hc : k < j
          · have : ¬ k = i := by omega
            simp [tblFind, hjk, hc, this]
          · simp [tblFind, hjk, hc, ih h2]

theorem tblSet_mem {α : Type} (t : Tbl α) (i : Nat) (x : α) : ∀ c ∈ tblSet t i x, c = (i, x) ∨ c ∈ t := by
  induction t with
  | nil => simp [tblSet]
  | cons d t ih =>
    obtain ⟨j, y⟩ := d
    intro c hc
    unfold tblSet at hc
    split at hc
    · rcases List.mem_cons.1 hc with h | h <;> simp [h]
    · split at hc
      · rcases List.mem_cons.1 hc with h | h
        · exact .inl h
        · exact .inr h
      · rcases List.mem_cons.1 hc with h | h
        · simp [h]
        · rcases ih c h with h | h <;> simp [h]

/-- Storing a register lists it, or drops it where it has its reset word. -/
theorem regFileSet_eq (r : List (Nat × Word)) (a : Nat) (w : Word) :
    regFileSet r a w = if w = resetWord a then tblErase r a else tblSet r a w := by
  induction r with
  | nil => simp [regFileSet, tblErase, tblSet]
  | cons d r ih =>
    obtain ⟨j, y⟩ := d
    by_cases hb : w = resetWord a <;> simp only [regFileSet, tblErase, tblSet, hb, if_true, if_false] at ih ⊢ <;>
      split <;> simp_all

/-- Storing a register keeps the file's one form. -/
theorem regsWf_regFileSet (r : List (Nat × Word)) (a : Nat) (w : Word) (h : regsWf r = true) : regsWf (regFileSet r a w) = true := by
  rw [regFileSet_eq]
  split
  · rw [regsWf_iff] at h ⊢
    refine ⟨?_, fun c hc => h.2 c (tblErase_mem r a c hc)⟩
    have hp := h.1
    clear h
    induction r with
    | nil => exact List.Pairwise.nil
    | cons d r ih =>
      obtain ⟨j, y⟩ := d
      obtain ⟨h1, h2⟩ := List.pairwise_cons.1 hp
      unfold tblErase
      split
      · exact h2
      · split
        · exact hp
        · exact List.pairwise_cons.2 ⟨fun c hc => h1 c (tblErase_mem r a c hc), ih h2⟩
  · rename_i hw
    induction r with
    | nil => simp [tblSet, regsWf, hw]
    | cons d r ih =>
      obtain ⟨j, y⟩ := d
      obtain ⟨h1, h2, h3⟩ := (regsWf_cons _ _).1 h
      unfold tblSet
      split
      · rename_i hj; subst hj; exact (regsWf_cons _ _).2 ⟨hw, h2, h3⟩
      · split
        · rename_i hj hlt
          refine (regsWf_cons _ _).2 ⟨hw, ?_, h⟩
          intro c hc
          rcases List.mem_cons.1 hc with rfl | hc
          · exact hlt
          · have := h2 c hc; simp only at this ⊢; omega
        · rename_i hj hlt
          refine (regsWf_cons _ _).2 ⟨h1, ?_, ih h3⟩
          intro c hc
          rcases tblSet_mem r a w c hc with rfl | hc
          · simp only at hj ⊢; omega
          · exact h2 c hc

/-- Keeping some bits of each register keeps the file's one form: what is kept is listed only where it differs from reset. -/
theorem regsWf_filterMap (r : List (Nat × Word)) (g : Nat × Word → Option (Nat × Word))
    (hg : ∀ x y, g x = some y → y.1 = x.1 ∧ y.2 ≠ resetWord y.1) (h : regsWf r = true) : regsWf (r.filterMap g) = true := by
  rw [regsWf_iff] at h ⊢
  constructor
  · refine List.Pairwise.filterMap g ?_ h.1
    intro a b hab c hc d hd
    have h1 := (hg a c hc).1
    have h2 := (hg b d hd).1
    omega
  · intro c hc
    obtain ⟨x, _, hx⟩ := List.mem_filterMap.1 hc
    exact (hg x c hx).2

/-- A register reads back what was stored. -/
theorem regFileGet_set_same (r : List (Nat × Word)) (a : Nat) (w : Word) (h : regsWf r = true) :
    regFileGet (regFileSet r a w) a = w := by
  rw [regFileSet_eq]; unfold regFileGet
  split
  · rename_i hw; rw [tblFind_tblErase r a a ((regsWf_iff r).1 h).1, if_pos rfl, hw]; rfl
  · simp

/-- Storing a register leaves every other register alone. -/
theorem regFileGet_set_other (r : List (Nat × Word)) (a b : Nat) (w : Word) (hb : b ≠ a) (h : regsWf r = true) :
    regFileGet (regFileSet r a w) b = regFileGet r b := by
  rw [regFileSet_eq]; unfold regFileGet
  split
  · rw [tblFind_tblErase r a b ((regsWf_iff r).1 h).1, if_neg hb]
  · rw [tblFind_tblSet_other r a b w hb]

theorem reg_setReg_same (s : State) (a : Nat) (w : Word) (h : regsWf s.regs = true) : (s.setReg a w).reg a = w :=
  regFileGet_set_same s.regs a w h

theorem reg_setReg_other (s : State) (a b : Nat) (w : Word) (hb : b ≠ a) (h : regsWf s.regs = true) :
    (s.setReg a w).reg b = s.reg b := regFileGet_set_other s.regs a b w hb h

theorem regsWf_setReg (s : State) (a : Nat) (w : Word) (h : regsWf s.regs = true) : regsWf (s.setReg a w).regs = true :=
  regsWf_regFileSet s.regs a w h

theorem regsWf_setF (s : State) (x : Fld) (v : Nat) (h : regsWf s.regs = true) : regsWf (s.setF x v).regs = true :=
  regsWf_setReg s _ _ h

/-- A field that lies inside a 32-bit register. -/
def Fld.ok (x : Fld) : Prop := x.lo ≤ x.hi ∧ x.hi < 32

/-- A field reads back what was stored, cut to its width. -/
theorem f_setF_same (s : State) (x : Fld) (v : Nat) (hx : x.ok) (h : regsWf s.regs = true) :
    (s.setF x v).f x = v % 2 ^ (x.hi + 1 - x.lo) := by
  unfold State.f State.setF
  rw [reg_setReg_same s _ _ h, toW_toNat, Nat.mod_eq_of_lt (putBits_lt _ _ _ _ (s.reg x.addr).isLt hx.2 (by have := hx.1; omega)),
    bits_putBits _ _ _ _ (by have := hx.1; omega)]

/-- A field of another register keeps its value. -/
theorem f_setF_other (s : State) (x y : Fld) (v : Nat) (hy : y.addr ≠ x.addr) (h : regsWf s.regs = true) :
    (s.setF x v).f y = s.f y := by
  unfold State.f State.setF
  rw [reg_setReg_other s _ _ _ hy h]

/-- A field beside the one that is stored keeps its value. -/
theorem f_setF_beside (s : State) (x y : Fld) (v : Nat) (hx : x.ok) (hd : y.hi < x.lo ∨ x.hi < y.lo) (ha : y.addr = x.addr)
    (h : regsWf s.regs = true) : (s.setF x v).f y = s.f y := by
  have hx1 := hx.1
  unfold State.f State.setF
  rw [ha, reg_setReg_same s _ _ h, toW_toNat, Nat.mod_eq_of_lt (putBits_lt _ _ _ _ (s.reg x.addr).isLt hx.2 (by omega))]
  rcases hd with hd | hd
  · exact bits_putBits_below _ _ _ _ _ _ hd (by omega)
  · exact bits_putBits_above _ _ _ _ _ _ hd (by omega)

end Sys2Proof.Machine
end

