-- ==== Sys2Proof/Laws/Raise.lean ====
section
/-! SUPPORT. What raising an Event Fabric source can change (R42, R126): its block's W1C bit, the merge register and CMD_EVT; the
latches and the trigger; the waits that it ends (R74); the notifications that go out. -/
namespace Sys2Proof.Machine

/-- `t` differs from `s` only in what raising sources may change. -/
structure EvtFrame (s t : State) : Prop where
  eq : t = { s with
    regs := t.regs, latch := t.latch, rtrig := t.rtrig, wakes := t.wakes, out := t.out
    cmd := { s.cmd with hostQ := t.cmd.hostQ, notifySeq := t.cmd.notifySeq, dropped := t.cmd.dropped, isotp := t.cmd.isotp }
    ring := { s.ring with links := t.ring.links } }

theorem EvtFrame.refl (s : State) : EvtFrame s s := ⟨(rfl)⟩

theorem EvtFrame.trans {s t u : State} (h : EvtFrame s t) (g : EvtFrame t u) : EvtFrame s u := by
  obtain ⟨h⟩ := h
  obtain ⟨g⟩ := g
  constructor
  rw [g]
  conv_lhs => rw [h]

theorem EvtFrame.setReg (s : State) (a : Nat) (w : Word) : EvtFrame s (s.setReg a w) := ⟨(rfl)⟩

theorem EvtFrame.setF (s : State) (x : Fld) (v : Nat) : EvtFrame s (s.setF x v) := EvtFrame.setReg s _ _

theorem EvtFrame.markEvt (s : State) (k : Nat) : EvtFrame s (s.markEvt k) := by
  unfold State.markEvt
  split
  · exact EvtFrame.setF s _ _
  · exact EvtFrame.refl s

theorem EvtFrame.latchPulse (s : State) (k : Nat) : EvtFrame s (s.latchPulse k).1 := by
  unfold State.latchPulse
  split
  · dsimp only
    split <;> exact ⟨(rfl)⟩
  · exact EvtFrame.refl s

theorem EvtFrame.merged (s : State) (k : Nat) : EvtFrame s (s.merged k) :=
  ((EvtFrame.setF s _ _).trans (EvtFrame.setF _ _ _)).trans (EvtFrame.latchPulse _ _)

theorem EvtFrame.noteWakes (s : State) : EvtFrame s s.noteWakes := ⟨(rfl)⟩

theorem EvtFrame.raiseQuiet (s : State) (k : Nat) : EvtFrame s (s.raiseQuiet k) := by
  have h := (EvtFrame.markEvt s k).trans (EvtFrame.latchPulse (s.markEvt k) k)
  unfold State.raiseQuiet
  dsimp only
  refine EvtFrame.trans ?_ (EvtFrame.noteWakes _)
  split
  · exact h.trans (EvtFrame.merged _ _)
  · exact h

theorem EvtFrame.emit (s : State) (p : OutPort) (d : List Byte) : EvtFrame s (s.emit p d) := ⟨(rfl)⟩

theorem EvtFrame.modLink (s : State) (l : Nat) (g : BrlLink → BrlLink) : EvtFrame s (s.modLink l g) := ⟨(rfl)⟩

theorem EvtFrame.brlSend (s : State) (l kind dst src hops bseq : Nat) (pl : List Byte) :
    EvtFrame s (s.brlSend l kind dst src hops bseq pl) := by
  unfold State.brlSend
  split
  · exact EvtFrame.refl s
  · exact (EvtFrame.modLink s _ _).trans (EvtFrame.emit _ _ _)

theorem EvtFrame.brlCmd (s : State) (dst : Nat) (b : List Byte) : EvtFrame s (s.brlCmd dst b) := by
  unfold State.brlCmd
  split
  · exact EvtFrame.refl s
  · split
    · exact EvtFrame.brlSend s _ _ _ _ _ _ _
    · exact EvtFrame.refl s

theorem EvtFrame.modIso (s : State) (g : IsoTp → IsoTp) : EvtFrame s (s.modIso g) := ⟨(rfl)⟩

theorem EvtFrame.isoSend (s : State) (b : List Byte) : EvtFrame s (s.isoSend b) := by
  unfold State.isoSend State.isoKick State.isoEmit
  split
  · split
    · exact EvtFrame.modIso s _
    · exact ((EvtFrame.modIso s _).trans (EvtFrame.modIso _ _)).trans (EvtFrame.modIso _ _)
  · exact EvtFrame.refl s

theorem EvtFrame.emitPkt (s : State) (tp ep : Nat) (b : List Byte) : EvtFrame s (s.emitPkt tp ep b) := by
  unfold State.emitPkt
  split
  · dsimp only
    split
    · exact EvtFrame.refl s
    · exact EvtFrame.emit s _ _
  · exact EvtFrame.emit s _ _

/-- A step over the notified part of the Command Engine. -/
theorem EvtFrame.cmd (s : State) (q : List (List Byte)) (n : Tbl Nat) (d : Tbl Bool) :
    EvtFrame s { s with cmd := { s.cmd with hostQ := q, notifySeq := n, dropped := d } } := ⟨(rfl)⟩

theorem EvtFrame.notifyOne (k : Nat) (s : State) (b : Subscr) : EvtFrame s (s.notifyOne k b) := by
  unfold State.notifyOne
  split
  · dsimp only
    split
    · exact (EvtFrame.cmd s s.cmd.hostQ s.cmd.notifySeq _).trans (EvtFrame.raiseQuiet _ _)
    · split
      · exact EvtFrame.cmd s _ _ _
      · split
        · exact (EvtFrame.cmd s s.cmd.hostQ _ _).trans (EvtFrame.isoSend _ _)
        · split
          · exact (EvtFrame.cmd s s.cmd.hostQ _ _).trans (EvtFrame.brlCmd _ _ _)
          · exact (EvtFrame.cmd s s.cmd.hostQ _ _).trans (EvtFrame.emitPkt _ _ _ _)
  · exact EvtFrame.refl s

theorem EvtFrame.notify (k : Nat) (l : List Subscr) (s : State) : EvtFrame s (l.foldl (State.notifyOne k) s) := by
  induction l generalizing s with
  | nil => exact EvtFrame.refl s
  | cons b l ih => exact (EvtFrame.notifyOne k s b).trans (ih _)

/-- Raising a source changes nothing else. -/
theorem EvtFrame.raise (s : State) (k : Nat) : EvtFrame s (s.raise k) :=
  (EvtFrame.raiseQuiet s k).trans (EvtFrame.notify k _ _)

/-- A level source's edge changes nothing else. -/
theorem EvtFrame.levelEdge (s : State) (k : Nat) (was : Bool) : EvtFrame s (s.levelEdge k was) := by
  unfold State.levelEdge
  split
  · dsimp only
    refine EvtFrame.trans (EvtFrame.trans ?_ (EvtFrame.noteWakes _)) (EvtFrame.notify k _ _)
    split
    · exact (EvtFrame.markEvt s k).trans ⟨(rfl)⟩
    · exact EvtFrame.markEvt s k
  · exact EvtFrame.refl s

theorem EvtFrame.f_mem {s t : State} (h : EvtFrame s t) : t.mem = s.mem := by rw [h.eq]
theorem EvtFrame.f_stewRam {s t : State} (h : EvtFrame s t) : t.stewRam = s.stewRam := by rw [h.eq]
theorem EvtFrame.f_now {s t : State} (h : EvtFrame s t) : t.now = s.now := by rw [h.eq]
theorem EvtFrame.f_dtime {s t : State} (h : EvtFrame s t) : t.dtime = s.dtime := by rw [h.eq]
theorem EvtFrame.f_freeCtr {s t : State} (h : EvtFrame s t) : t.freeCtr = s.freeCtr := by rw [h.eq]
theorem EvtFrame.f_panA {s t : State} (h : EvtFrame s t) : t.panA = s.panA := by rw [h.eq]
theorem EvtFrame.f_panB {s t : State} (h : EvtFrame s t) : t.panB = s.panB := by rw [h.eq]
theorem EvtFrame.f_stew {s t : State} (h : EvtFrame s t) : t.stew = s.stew := by rw [h.eq]
theorem EvtFrame.f_ecc {s t : State} (h : EvtFrame s t) : t.ecc = s.ecc := by rw [h.eq]
theorem EvtFrame.f_dma {s t : State} (h : EvtFrame s t) : t.dma = s.dma := by rw [h.eq]
theorem EvtFrame.f_encl {s t : State} (h : EvtFrame s t) : t.encl = s.encl := by rw [h.eq]
theorem EvtFrame.f_crust {s t : State} (h : EvtFrame s t) : t.crust = s.crust := by rw [h.eq]
theorem EvtFrame.f_upd {s t : State} (h : EvtFrame s t) : t.upd = s.upd := by rw [h.eq]
theorem EvtFrame.f_settings {s t : State} (h : EvtFrame s t) : t.settings = s.settings := by rw [h.eq]
theorem EvtFrame.f_idleS {s t : State} (h : EvtFrame s t) : t.idleS = s.idleS := by rw [h.eq]
theorem EvtFrame.f_versions {s t : State} (h : EvtFrame s t) : t.versions = s.versions := by rw [h.eq]
theorem EvtFrame.f_pA {s t : State} (h : EvtFrame s t) : t.pA = s.pA := by rw [h.eq]
theorem EvtFrame.f_pB {s t : State} (h : EvtFrame s t) : t.pB = s.pB := by rw [h.eq]
theorem EvtFrame.f_rake {s t : State} (h : EvtFrame s t) : t.rake = s.rake := by rw [h.eq]
theorem EvtFrame.f_hss {s t : State} (h : EvtFrame s t) : t.hss = s.hss := by rw [h.eq]
theorem EvtFrame.f_sol {s t : State} (h : EvtFrame s t) : t.sol = s.sol := by rw [h.eq]
theorem EvtFrame.f_dio {s t : State} (h : EvtFrame s t) : t.dio = s.dio := by rw [h.eq]
theorem EvtFrame.f_led {s t : State} (h : EvtFrame s t) : t.led = s.led := by rw [h.eq]
theorem EvtFrame.f_acc {s t : State} (h : EvtFrame s t) : t.acc = s.acc := by rw [h.eq]
theorem EvtFrame.f_can {s t : State} (h : EvtFrame s t) : t.can = s.can := by rw [h.eq]
theorem EvtFrame.f_time {s t : State} (h : EvtFrame s t) : t.time = s.time := by rw [h.eq]
theorem EvtFrame.f_pwr {s t : State} (h : EvtFrame s t) : t.pwr = s.pwr := by rw [h.eq]
theorem EvtFrame.f_dbg {s t : State} (h : EvtFrame s t) : t.dbg = s.dbg := by rw [h.eq]
theorem EvtFrame.f_thermWarn {s t : State} (h : EvtFrame s t) : t.thermWarn = s.thermWarn := by rw [h.eq]
theorem EvtFrame.f_islHeld {s t : State} (h : EvtFrame s t) : t.islHeld = s.islHeld := by rw [h.eq]
theorem EvtFrame.f_own {s t : State} (h : EvtFrame s t) : t.own = s.own := by rw [h.eq]
theorem EvtFrame.f_gpioOn {s t : State} (h : EvtFrame s t) : t.gpioOn = s.gpioOn := by rw [h.eq]
theorem EvtFrame.f_rstReq {s t : State} (h : EvtFrame s t) : t.rstReq = s.rstReq := by rw [h.eq]
theorem EvtFrame.f_pending {s t : State} (h : EvtFrame s t) : t.pending = s.pending := by rw [h.eq]

@[simp] theorem State.raise_mem (s : State) (k : Nat) : (s.raise k).mem = s.mem := (EvtFrame.raise s k).f_mem
@[simp] theorem State.raise_stewRam (s : State) (k : Nat) : (s.raise k).stewRam = s.stewRam := (EvtFrame.raise s k).f_stewRam
@[simp] theorem State.raise_now (s : State) (k : Nat) : (s.raise k).now = s.now := (EvtFrame.raise s k).f_now
@[simp] theorem State.raise_dtime (s : State) (k : Nat) : (s.raise k).dtime = s.dtime := (EvtFrame.raise s k).f_dtime
@[simp] theorem State.raise_freeCtr (s : State) (k : Nat) : (s.raise k).freeCtr = s.freeCtr := (EvtFrame.raise s k).f_freeCtr
@[simp] theorem State.raise_panA (s : State) (k : Nat) : (s.raise k).panA = s.panA := (EvtFrame.raise s k).f_panA
@[simp] theorem State.raise_panB (s : State) (k : Nat) : (s.raise k).panB = s.panB := (EvtFrame.raise s k).f_panB
@[simp] theorem State.raise_stew (s : State) (k : Nat) : (s.raise k).stew = s.stew := (EvtFrame.raise s k).f_stew
@[simp] theorem State.raise_ecc (s : State) (k : Nat) : (s.raise k).ecc = s.ecc := (EvtFrame.raise s k).f_ecc
@[simp] theorem State.raise_dma (s : State) (k : Nat) : (s.raise k).dma = s.dma := (EvtFrame.raise s k).f_dma
@[simp] theorem State.raise_encl (s : State) (k : Nat) : (s.raise k).encl = s.encl := (EvtFrame.raise s k).f_encl
@[simp] theorem State.raise_crust (s : State) (k : Nat) : (s.raise k).crust = s.crust := (EvtFrame.raise s k).f_crust
@[simp] theorem State.raise_upd (s : State) (k : Nat) : (s.raise k).upd = s.upd := (EvtFrame.raise s k).f_upd
@[simp] theorem State.raise_settings (s : State) (k : Nat) : (s.raise k).settings = s.settings := (EvtFrame.raise s k).f_settings
@[simp] theorem State.raise_idleS (s : State) (k : Nat) : (s.raise k).idleS = s.idleS := (EvtFrame.raise s k).f_idleS
@[simp] theorem State.raise_versions (s : State) (k : Nat) : (s.raise k).versions = s.versions := (EvtFrame.raise s k).f_versions
@[simp] theorem State.raise_pA (s : State) (k : Nat) : (s.raise k).pA = s.pA := (EvtFrame.raise s k).f_pA
@[simp] theorem State.raise_pB (s : State) (k : Nat) : (s.raise k).pB = s.pB := (EvtFrame.raise s k).f_pB
@[simp] theorem State.raise_rake (s : State) (k : Nat) : (s.raise k).rake = s.rake := (EvtFrame.raise s k).f_rake
@[simp] theorem State.raise_hss (s : State) (k : Nat) : (s.raise k).hss = s.hss := (EvtFrame.raise s k).f_hss
@[simp] theorem State.raise_sol (s : State) (k : Nat) : (s.raise k).sol = s.sol := (EvtFrame.raise s k).f_sol
@[simp] theorem State.raise_dio (s : State) (k : Nat) : (s.raise k).dio = s.dio := (EvtFrame.raise s k).f_dio
@[simp] theorem State.raise_led (s : State) (k : Nat) : (s.raise k).led = s.led := (EvtFrame.raise s k).f_led
@[simp] theorem State.raise_acc (s : State) (k : Nat) : (s.raise k).acc = s.acc := (EvtFrame.raise s k).f_acc
@[simp] theorem State.raise_can (s : State) (k : Nat) : (s.raise k).can = s.can := (EvtFrame.raise s k).f_can
@[simp] theorem State.raise_time (s : State) (k : Nat) : (s.raise k).time = s.time := (EvtFrame.raise s k).f_time
@[simp] theorem State.raise_pwr (s : State) (k : Nat) : (s.raise k).pwr = s.pwr := (EvtFrame.raise s k).f_pwr
@[simp] theorem State.raise_dbg (s : State) (k : Nat) : (s.raise k).dbg = s.dbg := (EvtFrame.raise s k).f_dbg
@[simp] theorem State.raise_thermWarn (s : State) (k : Nat) : (s.raise k).thermWarn = s.thermWarn := (EvtFrame.raise s k).f_thermWarn
@[simp] theorem State.raise_islHeld (s : State) (k : Nat) : (s.raise k).islHeld = s.islHeld := (EvtFrame.raise s k).f_islHeld
@[simp] theorem State.raise_own (s : State) (k : Nat) : (s.raise k).own = s.own := (EvtFrame.raise s k).f_own
@[simp] theorem State.raise_gpioOn (s : State) (k : Nat) : (s.raise k).gpioOn = s.gpioOn := (EvtFrame.raise s k).f_gpioOn
@[simp] theorem State.raise_rstReq (s : State) (k : Nat) : (s.raise k).rstReq = s.rstReq := (EvtFrame.raise s k).f_rstReq
@[simp] theorem State.raise_pending (s : State) (k : Nat) : (s.raise k).pending = s.pending := (EvtFrame.raise s k).f_pending

@[simp] theorem State.levelEdge_mem (s : State) (k : Nat) (was : Bool) : (s.levelEdge k was).mem = s.mem := (EvtFrame.levelEdge s k was).f_mem
@[simp] theorem State.levelEdge_stewRam (s : State) (k : Nat) (was : Bool) : (s.levelEdge k was).stewRam = s.stewRam := (EvtFrame.levelEdge s k was).f_stewRam
@[simp] theorem State.levelEdge_now (s : State) (k : Nat) (was : Bool) : (s.levelEdge k was).now = s.now := (EvtFrame.levelEdge s k was).f_now
@[simp] theorem State.levelEdge_dtime (s : State) (k : Nat) (was : Bool) : (s.levelEdge k was).dtime = s.dtime := (EvtFrame.levelEdge s k was).f_dtime
@[simp] theorem State.levelEdge_freeCtr (s : State) (k : Nat) (was : Bool) : (s.levelEdge k was).freeCtr = s.freeCtr := (EvtFrame.levelEdge s k was).f_freeCtr
@[simp] theorem State.levelEdge_panA (s : State) (k : Nat) (was : Bool) : (s.levelEdge k was).panA = s.panA := (EvtFrame.levelEdge s k was).f_panA
@[simp] theorem State.levelEdge_panB (s : State) (k : Nat) (was : Bool) : (s.levelEdge k was).panB = s.panB := (EvtFrame.levelEdge s k was).f_panB
@[simp] theorem State.levelEdge_stew (s : State) (k : Nat) (was : Bool) : (s.levelEdge k was).stew = s.stew := (EvtFrame.levelEdge s k was).f_stew
@[simp] theorem State.levelEdge_ecc (s : State) (k : Nat) (was : Bool) : (s.levelEdge k was).ecc = s.ecc := (EvtFrame.levelEdge s k was).f_ecc
@[simp] theorem State.levelEdge_dma (s : State) (k : Nat) (was : Bool) : (s.levelEdge k was).dma = s.dma := (EvtFrame.levelEdge s k was).f_dma
@[simp] theorem State.levelEdge_encl (s : State) (k : Nat) (was : Bool) : (s.levelEdge k was).encl = s.encl := (EvtFrame.levelEdge s k was).f_encl
@[simp] theorem State.levelEdge_crust (s : State) (k : Nat) (was : Bool) : (s.levelEdge k was).crust = s.crust := (EvtFrame.levelEdge s k was).f_crust
@[simp] theorem State.levelEdge_upd (s : State) (k : Nat) (was : Bool) : (s.levelEdge k was).upd = s.upd := (EvtFrame.levelEdge s k was).f_upd
@[simp] theorem State.levelEdge_settings (s : State) (k : Nat) (was : Bool) : (s.levelEdge k was).settings = s.settings := (EvtFrame.levelEdge s k was).f_settings
@[simp] theorem State.levelEdge_idleS (s : State) (k : Nat) (was : Bool) : (s.levelEdge k was).idleS = s.idleS := (EvtFrame.levelEdge s k was).f_idleS
@[simp] theorem State.levelEdge_versions (s : State) (k : Nat) (was : Bool) : (s.levelEdge k was).versions = s.versions := (EvtFrame.levelEdge s k was).f_versions
@[simp] theorem State.levelEdge_pA (s : State) (k : Nat) (was : Bool) : (s.levelEdge k was).pA = s.pA := (EvtFrame.levelEdge s k was).f_pA
@[simp] theorem State.levelEdge_pB (s : State) (k : Nat) (was : Bool) : (s.levelEdge k was).pB = s.pB := (EvtFrame.levelEdge s k was).f_pB
@[simp] theorem State.levelEdge_rake (s : State) (k : Nat) (was : Bool) : (s.levelEdge k was).rake = s.rake := (EvtFrame.levelEdge s k was).f_rake
@[simp] theorem State.levelEdge_hss (s : State) (k : Nat) (was : Bool) : (s.levelEdge k was).hss = s.hss := (EvtFrame.levelEdge s k was).f_hss
@[simp] theorem State.levelEdge_sol (s : State) (k : Nat) (was : Bool) : (s.levelEdge k was).sol = s.sol := (EvtFrame.levelEdge s k was).f_sol
@[simp] theorem State.levelEdge_dio (s : State) (k : Nat) (was : Bool) : (s.levelEdge k was).dio = s.dio := (EvtFrame.levelEdge s k was).f_dio
@[simp] theorem State.levelEdge_led (s : State) (k : Nat) (was : Bool) : (s.levelEdge k was).led = s.led := (EvtFrame.levelEdge s k was).f_led
@[simp] theorem State.levelEdge_acc (s : State) (k : Nat) (was : Bool) : (s.levelEdge k was).acc = s.acc := (EvtFrame.levelEdge s k was).f_acc
@[simp] theorem State.levelEdge_can (s : State) (k : Nat) (was : Bool) : (s.levelEdge k was).can = s.can := (EvtFrame.levelEdge s k was).f_can
@[simp] theorem State.levelEdge_time (s : State) (k : Nat) (was : Bool) : (s.levelEdge k was).time = s.time := (EvtFrame.levelEdge s k was).f_time
@[simp] theorem State.levelEdge_pwr (s : State) (k : Nat) (was : Bool) : (s.levelEdge k was).pwr = s.pwr := (EvtFrame.levelEdge s k was).f_pwr
@[simp] theorem State.levelEdge_dbg (s : State) (k : Nat) (was : Bool) : (s.levelEdge k was).dbg = s.dbg := (EvtFrame.levelEdge s k was).f_dbg
@[simp] theorem State.levelEdge_thermWarn (s : State) (k : Nat) (was : Bool) : (s.levelEdge k was).thermWarn = s.thermWarn := (EvtFrame.levelEdge s k was).f_thermWarn
@[simp] theorem State.levelEdge_islHeld (s : State) (k : Nat) (was : Bool) : (s.levelEdge k was).islHeld = s.islHeld := (EvtFrame.levelEdge s k was).f_islHeld
@[simp] theorem State.levelEdge_own (s : State) (k : Nat) (was : Bool) : (s.levelEdge k was).own = s.own := (EvtFrame.levelEdge s k was).f_own
@[simp] theorem State.levelEdge_gpioOn (s : State) (k : Nat) (was : Bool) : (s.levelEdge k was).gpioOn = s.gpioOn := (EvtFrame.levelEdge s k was).f_gpioOn
@[simp] theorem State.levelEdge_rstReq (s : State) (k : Nat) (was : Bool) : (s.levelEdge k was).rstReq = s.rstReq := (EvtFrame.levelEdge s k was).f_rstReq
@[simp] theorem State.levelEdge_pending (s : State) (k : Nat) (was : Bool) : (s.levelEdge k was).pending = s.pending := (EvtFrame.levelEdge s k was).f_pending

@[simp] theorem State.markEvt_mem (s : State) (k : Nat) : (s.markEvt k).mem = s.mem := (EvtFrame.markEvt s k).f_mem
@[simp] theorem State.markEvt_stewRam (s : State) (k : Nat) : (s.markEvt k).stewRam = s.stewRam := (EvtFrame.markEvt s k).f_stewRam
@[simp] theorem State.markEvt_now (s : State) (k : Nat) : (s.markEvt k).now = s.now := (EvtFrame.markEvt s k).f_now
@[simp] theorem State.markEvt_dtime (s : State) (k : Nat) : (s.markEvt k).dtime = s.dtime := (EvtFrame.markEvt s k).f_dtime
@[simp] theorem State.markEvt_freeCtr (s : State) (k : Nat) : (s.markEvt k).freeCtr = s.freeCtr := (EvtFrame.markEvt s k).f_freeCtr
@[simp] theorem State.markEvt_panA (s : State) (k : Nat) : (s.markEvt k).panA = s.panA := (EvtFrame.markEvt s k).f_panA
@[simp] theorem State.markEvt_panB (s : State) (k : Nat) : (s.markEvt k).panB = s.panB := (EvtFrame.markEvt s k).f_panB
@[simp] theorem State.markEvt_stew (s : State) (k : Nat) : (s.markEvt k).stew = s.stew := (EvtFrame.markEvt s k).f_stew
@[simp] theorem State.markEvt_ecc (s : State) (k : Nat) : (s.markEvt k).ecc = s.ecc := (EvtFrame.markEvt s k).f_ecc
@[simp] theorem State.markEvt_dma (s : State) (k : Nat) : (s.markEvt k).dma = s.dma := (EvtFrame.markEvt s k).f_dma
@[simp] theorem State.markEvt_encl (s : State) (k : Nat) : (s.markEvt k).encl = s.encl := (EvtFrame.markEvt s k).f_encl
@[simp] theorem State.markEvt_crust (s : State) (k : Nat) : (s.markEvt k).crust = s.crust := (EvtFrame.markEvt s k).f_crust
@[simp] theorem State.markEvt_upd (s : State) (k : Nat) : (s.markEvt k).upd = s.upd := (EvtFrame.markEvt s k).f_upd
@[simp] theorem State.markEvt_settings (s : State) (k : Nat) : (s.markEvt k).settings = s.settings := (EvtFrame.markEvt s k).f_settings
@[simp] theorem State.markEvt_idleS (s : State) (k : Nat) : (s.markEvt k).idleS = s.idleS := (EvtFrame.markEvt s k).f_idleS
@[simp] theorem State.markEvt_versions (s : State) (k : Nat) : (s.markEvt k).versions = s.versions := (EvtFrame.markEvt s k).f_versions
@[simp] theorem State.markEvt_pA (s : State) (k : Nat) : (s.markEvt k).pA = s.pA := (EvtFrame.markEvt s k).f_pA
@[simp] theorem State.markEvt_pB (s : State) (k : Nat) : (s.markEvt k).pB = s.pB := (EvtFrame.markEvt s k).f_pB
@[simp] theorem State.markEvt_rake (s : State) (k : Nat) : (s.markEvt k).rake = s.rake := (EvtFrame.markEvt s k).f_rake
@[simp] theorem State.markEvt_hss (s : State) (k : Nat) : (s.markEvt k).hss = s.hss := (EvtFrame.markEvt s k).f_hss
@[simp] theorem State.markEvt_sol (s : State) (k : Nat) : (s.markEvt k).sol = s.sol := (EvtFrame.markEvt s k).f_sol
@[simp] theorem State.markEvt_dio (s : State) (k : Nat) : (s.markEvt k).dio = s.dio := (EvtFrame.markEvt s k).f_dio
@[simp] theorem State.markEvt_led (s : State) (k : Nat) : (s.markEvt k).led = s.led := (EvtFrame.markEvt s k).f_led
@[simp] theorem State.markEvt_acc (s : State) (k : Nat) : (s.markEvt k).acc = s.acc := (EvtFrame.markEvt s k).f_acc
@[simp] theorem State.markEvt_can (s : State) (k : Nat) : (s.markEvt k).can = s.can := (EvtFrame.markEvt s k).f_can
@[simp] theorem State.markEvt_time (s : State) (k : Nat) : (s.markEvt k).time = s.time := (EvtFrame.markEvt s k).f_time
@[simp] theorem State.markEvt_pwr (s : State) (k : Nat) : (s.markEvt k).pwr = s.pwr := (EvtFrame.markEvt s k).f_pwr
@[simp] theorem State.markEvt_dbg (s : State) (k : Nat) : (s.markEvt k).dbg = s.dbg := (EvtFrame.markEvt s k).f_dbg
@[simp] theorem State.markEvt_thermWarn (s : State) (k : Nat) : (s.markEvt k).thermWarn = s.thermWarn := (EvtFrame.markEvt s k).f_thermWarn
@[simp] theorem State.markEvt_islHeld (s : State) (k : Nat) : (s.markEvt k).islHeld = s.islHeld := (EvtFrame.markEvt s k).f_islHeld
@[simp] theorem State.markEvt_own (s : State) (k : Nat) : (s.markEvt k).own = s.own := (EvtFrame.markEvt s k).f_own
@[simp] theorem State.markEvt_gpioOn (s : State) (k : Nat) : (s.markEvt k).gpioOn = s.gpioOn := (EvtFrame.markEvt s k).f_gpioOn
@[simp] theorem State.markEvt_rstReq (s : State) (k : Nat) : (s.markEvt k).rstReq = s.rstReq := (EvtFrame.markEvt s k).f_rstReq
@[simp] theorem State.markEvt_pending (s : State) (k : Nat) : (s.markEvt k).pending = s.pending := (EvtFrame.markEvt s k).f_pending

@[simp] theorem State.raiseQuiet_mem (s : State) (k : Nat) : (s.raiseQuiet k).mem = s.mem := (EvtFrame.raiseQuiet s k).f_mem
@[simp] theorem State.raiseQuiet_stewRam (s : State) (k : Nat) : (s.raiseQuiet k).stewRam = s.stewRam := (EvtFrame.raiseQuiet s k).f_stewRam
@[simp] theorem State.raiseQuiet_now (s : State) (k : Nat) : (s.raiseQuiet k).now = s.now := (EvtFrame.raiseQuiet s k).f_now
@[simp] theorem State.raiseQuiet_dtime (s : State) (k : Nat) : (s.raiseQuiet k).dtime = s.dtime := (EvtFrame.raiseQuiet s k).f_dtime
@[simp] theorem State.raiseQuiet_freeCtr (s : State) (k : Nat) : (s.raiseQuiet k).freeCtr = s.freeCtr := (EvtFrame.raiseQuiet s k).f_freeCtr
@[simp] theorem State.raiseQuiet_panA (s : State) (k : Nat) : (s.raiseQuiet k).panA = s.panA := (EvtFrame.raiseQuiet s k).f_panA
@[simp] theorem State.raiseQuiet_panB (s : State) (k : Nat) : (s.raiseQuiet k).panB = s.panB := (EvtFrame.raiseQuiet s k).f_panB
@[simp] theorem State.raiseQuiet_stew (s : State) (k : Nat) : (s.raiseQuiet k).stew = s.stew := (EvtFrame.raiseQuiet s k).f_stew
@[simp] theorem State.raiseQuiet_ecc (s : State) (k : Nat) : (s.raiseQuiet k).ecc = s.ecc := (EvtFrame.raiseQuiet s k).f_ecc
@[simp] theorem State.raiseQuiet_dma (s : State) (k : Nat) : (s.raiseQuiet k).dma = s.dma := (EvtFrame.raiseQuiet s k).f_dma
@[simp] theorem State.raiseQuiet_encl (s : State) (k : Nat) : (s.raiseQuiet k).encl = s.encl := (EvtFrame.raiseQuiet s k).f_encl
@[simp] theorem State.raiseQuiet_crust (s : State) (k : Nat) : (s.raiseQuiet k).crust = s.crust := (EvtFrame.raiseQuiet s k).f_crust
@[simp] theorem State.raiseQuiet_upd (s : State) (k : Nat) : (s.raiseQuiet k).upd = s.upd := (EvtFrame.raiseQuiet s k).f_upd
@[simp] theorem State.raiseQuiet_settings (s : State) (k : Nat) : (s.raiseQuiet k).settings = s.settings := (EvtFrame.raiseQuiet s k).f_settings
@[simp] theorem State.raiseQuiet_idleS (s : State) (k : Nat) : (s.raiseQuiet k).idleS = s.idleS := (EvtFrame.raiseQuiet s k).f_idleS
@[simp] theorem State.raiseQuiet_versions (s : State) (k : Nat) : (s.raiseQuiet k).versions = s.versions := (EvtFrame.raiseQuiet s k).f_versions
@[simp] theorem State.raiseQuiet_pA (s : State) (k : Nat) : (s.raiseQuiet k).pA = s.pA := (EvtFrame.raiseQuiet s k).f_pA
@[simp] theorem State.raiseQuiet_pB (s : State) (k : Nat) : (s.raiseQuiet k).pB = s.pB := (EvtFrame.raiseQuiet s k).f_pB
@[simp] theorem State.raiseQuiet_rake (s : State) (k : Nat) : (s.raiseQuiet k).rake = s.rake := (EvtFrame.raiseQuiet s k).f_rake
@[simp] theorem State.raiseQuiet_hss (s : State) (k : Nat) : (s.raiseQuiet k).hss = s.hss := (EvtFrame.raiseQuiet s k).f_hss
@[simp] theorem State.raiseQuiet_sol (s : State) (k : Nat) : (s.raiseQuiet k).sol = s.sol := (EvtFrame.raiseQuiet s k).f_sol
@[simp] theorem State.raiseQuiet_dio (s : State) (k : Nat) : (s.raiseQuiet k).dio = s.dio := (EvtFrame.raiseQuiet s k).f_dio
@[simp] theorem State.raiseQuiet_led (s : State) (k : Nat) : (s.raiseQuiet k).led = s.led := (EvtFrame.raiseQuiet s k).f_led
@[simp] theorem State.raiseQuiet_acc (s : State) (k : Nat) : (s.raiseQuiet k).acc = s.acc := (EvtFrame.raiseQuiet s k).f_acc
@[simp] theorem State.raiseQuiet_can (s : State) (k : Nat) : (s.raiseQuiet k).can = s.can := (EvtFrame.raiseQuiet s k).f_can
@[simp] theorem State.raiseQuiet_time (s : State) (k : Nat) : (s.raiseQuiet k).time = s.time := (EvtFrame.raiseQuiet s k).f_time
@[simp] theorem State.raiseQuiet_pwr (s : State) (k : Nat) : (s.raiseQuiet k).pwr = s.pwr := (EvtFrame.raiseQuiet s k).f_pwr
@[simp] theorem State.raiseQuiet_dbg (s : State) (k : Nat) : (s.raiseQuiet k).dbg = s.dbg := (EvtFrame.raiseQuiet s k).f_dbg
@[simp] theorem State.raiseQuiet_thermWarn (s : State) (k : Nat) : (s.raiseQuiet k).thermWarn = s.thermWarn := (EvtFrame.raiseQuiet s k).f_thermWarn
@[simp] theorem State.raiseQuiet_islHeld (s : State) (k : Nat) : (s.raiseQuiet k).islHeld = s.islHeld := (EvtFrame.raiseQuiet s k).f_islHeld
@[simp] theorem State.raiseQuiet_own (s : State) (k : Nat) : (s.raiseQuiet k).own = s.own := (EvtFrame.raiseQuiet s k).f_own
@[simp] theorem State.raiseQuiet_gpioOn (s : State) (k : Nat) : (s.raiseQuiet k).gpioOn = s.gpioOn := (EvtFrame.raiseQuiet s k).f_gpioOn
@[simp] theorem State.raiseQuiet_rstReq (s : State) (k : Nat) : (s.raiseQuiet k).rstReq = s.rstReq := (EvtFrame.raiseQuiet s k).f_rstReq
@[simp] theorem State.raiseQuiet_pending (s : State) (k : Nat) : (s.raiseQuiet k).pending = s.pending := (EvtFrame.raiseQuiet s k).f_pending

@[simp] theorem State.brlSend_mem (s : State) (l kind dst src hops bseq : Nat) (pl : List Byte) : (s.brlSend l kind dst src hops bseq pl).mem = s.mem := (EvtFrame.brlSend s l kind dst src hops bseq pl).f_mem
@[simp] theorem State.brlSend_stewRam (s : State) (l kind dst src hops bseq : Nat) (pl : List Byte) : (s.brlSend l kind dst src hops bseq pl).stewRam = s.stewRam := (EvtFrame.brlSend s l kind dst src hops bseq pl).f_stewRam
@[simp] theorem State.brlSend_now (s : State) (l kind dst src hops bseq : Nat) (pl : List Byte) : (s.brlSend l kind dst src hops bseq pl).now = s.now := (EvtFrame.brlSend s l kind dst src hops bseq pl).f_now
@[simp] theorem State.brlSend_dtime (s : State) (l kind dst src hops bseq : Nat) (pl : List Byte) : (s.brlSend l kind dst src hops bseq pl).dtime = s.dtime := (EvtFrame.brlSend s l kind dst src hops bseq pl).f_dtime
@[simp] theorem State.brlSend_freeCtr (s : State) (l kind dst src hops bseq : Nat) (pl : List Byte) : (s.brlSend l kind dst src hops bseq pl).freeCtr = s.freeCtr := (EvtFrame.brlSend s l kind dst src hops bseq pl).f_freeCtr
@[simp] theorem State.brlSend_panA (s : State) (l kind dst src hops bseq : Nat) (pl : List Byte) : (s.brlSend l kind dst src hops bseq pl).panA = s.panA := (EvtFrame.brlSend s l kind dst src hops bseq pl).f_panA
@[simp] theorem State.brlSend_panB (s : State) (l kind dst src hops bseq : Nat) (pl : List Byte) : (s.brlSend l kind dst src hops bseq pl).panB = s.panB := (EvtFrame.brlSend s l kind dst src hops bseq pl).f_panB
@[simp] theorem State.brlSend_stew (s : State) (l kind dst src hops bseq : Nat) (pl : List Byte) : (s.brlSend l kind dst src hops bseq pl).stew = s.stew := (EvtFrame.brlSend s l kind dst src hops bseq pl).f_stew
@[simp] theorem State.brlSend_ecc (s : State) (l kind dst src hops bseq : Nat) (pl : List Byte) : (s.brlSend l kind dst src hops bseq pl).ecc = s.ecc := (EvtFrame.brlSend s l kind dst src hops bseq pl).f_ecc
@[simp] theorem State.brlSend_dma (s : State) (l kind dst src hops bseq : Nat) (pl : List Byte) : (s.brlSend l kind dst src hops bseq pl).dma = s.dma := (EvtFrame.brlSend s l kind dst src hops bseq pl).f_dma
@[simp] theorem State.brlSend_encl (s : State) (l kind dst src hops bseq : Nat) (pl : List Byte) : (s.brlSend l kind dst src hops bseq pl).encl = s.encl := (EvtFrame.brlSend s l kind dst src hops bseq pl).f_encl
@[simp] theorem State.brlSend_crust (s : State) (l kind dst src hops bseq : Nat) (pl : List Byte) : (s.brlSend l kind dst src hops bseq pl).crust = s.crust := (EvtFrame.brlSend s l kind dst src hops bseq pl).f_crust
@[simp] theorem State.brlSend_upd (s : State) (l kind dst src hops bseq : Nat) (pl : List Byte) : (s.brlSend l kind dst src hops bseq pl).upd = s.upd := (EvtFrame.brlSend s l kind dst src hops bseq pl).f_upd
@[simp] theorem State.brlSend_settings (s : State) (l kind dst src hops bseq : Nat) (pl : List Byte) : (s.brlSend l kind dst src hops bseq pl).settings = s.settings := (EvtFrame.brlSend s l kind dst src hops bseq pl).f_settings
@[simp] theorem State.brlSend_idleS (s : State) (l kind dst src hops bseq : Nat) (pl : List Byte) : (s.brlSend l kind dst src hops bseq pl).idleS = s.idleS := (EvtFrame.brlSend s l kind dst src hops bseq pl).f_idleS
@[simp] theorem State.brlSend_versions (s : State) (l kind dst src hops bseq : Nat) (pl : List Byte) : (s.brlSend l kind dst src hops bseq pl).versions = s.versions := (EvtFrame.brlSend s l kind dst src hops bseq pl).f_versions
@[simp] theorem State.brlSend_pA (s : State) (l kind dst src hops bseq : Nat) (pl : List Byte) : (s.brlSend l kind dst src hops bseq pl).pA = s.pA := (EvtFrame.brlSend s l kind dst src hops bseq pl).f_pA
@[simp] theorem State.brlSend_pB (s : State) (l kind dst src hops bseq : Nat) (pl : List Byte) : (s.brlSend l kind dst src hops bseq pl).pB = s.pB := (EvtFrame.brlSend s l kind dst src hops bseq pl).f_pB
@[simp] theorem State.brlSend_rake (s : State) (l kind dst src hops bseq : Nat) (pl : List Byte) : (s.brlSend l kind dst src hops bseq pl).rake = s.rake := (EvtFrame.brlSend s l kind dst src hops bseq pl).f_rake
@[simp] theorem State.brlSend_hss (s : State) (l kind dst src hops bseq : Nat) (pl : List Byte) : (s.brlSend l kind dst src hops bseq pl).hss = s.hss := (EvtFrame.brlSend s l kind dst src hops bseq pl).f_hss
@[simp] theorem State.brlSend_sol (s : State) (l kind dst src hops bseq : Nat) (pl : List Byte) : (s.brlSend l kind dst src hops bseq pl).sol = s.sol := (EvtFrame.brlSend s l kind dst src hops bseq pl).f_sol
@[simp] theorem State.brlSend_dio (s : State) (l kind dst src hops bseq : Nat) (pl : List Byte) : (s.brlSend l kind dst src hops bseq pl).dio = s.dio := (EvtFrame.brlSend s l kind dst src hops bseq pl).f_dio
@[simp] theorem State.brlSend_led (s : State) (l kind dst src hops bseq : Nat) (pl : List Byte) : (s.brlSend l kind dst src hops bseq pl).led = s.led := (EvtFrame.brlSend s l kind dst src hops bseq pl).f_led
@[simp] theorem State.brlSend_acc (s : State) (l kind dst src hops bseq : Nat) (pl : List Byte) : (s.brlSend l kind dst src hops bseq pl).acc = s.acc := (EvtFrame.brlSend s l kind dst src hops bseq pl).f_acc
@[simp] theorem State.brlSend_can (s : State) (l kind dst src hops bseq : Nat) (pl : List Byte) : (s.brlSend l kind dst src hops bseq pl).can = s.can := (EvtFrame.brlSend s l kind dst src hops bseq pl).f_can
@[simp] theorem State.brlSend_time (s : State) (l kind dst src hops bseq : Nat) (pl : List Byte) : (s.brlSend l kind dst src hops bseq pl).time = s.time := (EvtFrame.brlSend s l kind dst src hops bseq pl).f_time
@[simp] theorem State.brlSend_pwr (s : State) (l kind dst src hops bseq : Nat) (pl : List Byte) : (s.brlSend l kind dst src hops bseq pl).pwr = s.pwr := (EvtFrame.brlSend s l kind dst src hops bseq pl).f_pwr
@[simp] theorem State.brlSend_dbg (s : State) (l kind dst src hops bseq : Nat) (pl : List Byte) : (s.brlSend l kind dst src hops bseq pl).dbg = s.dbg := (EvtFrame.brlSend s l kind dst src hops bseq pl).f_dbg
@[simp] theorem State.brlSend_thermWarn (s : State) (l kind dst src hops bseq : Nat) (pl : List Byte) : (s.brlSend l kind dst src hops bseq pl).thermWarn = s.thermWarn := (EvtFrame.brlSend s l kind dst src hops bseq pl).f_thermWarn
@[simp] theorem State.brlSend_islHeld (s : State) (l kind dst src hops bseq : Nat) (pl : List Byte) : (s.brlSend l kind dst src hops bseq pl).islHeld = s.islHeld := (EvtFrame.brlSend s l kind dst src hops bseq pl).f_islHeld
@[simp] theorem State.brlSend_own (s : State) (l kind dst src hops bseq : Nat) (pl : List Byte) : (s.brlSend l kind dst src hops bseq pl).own = s.own := (EvtFrame.brlSend s l kind dst src hops bseq pl).f_own
@[simp] theorem State.brlSend_gpioOn (s : State) (l kind dst src hops bseq : Nat) (pl : List Byte) : (s.brlSend l kind dst src hops bseq pl).gpioOn = s.gpioOn := (EvtFrame.brlSend s l kind dst src hops bseq pl).f_gpioOn
@[simp] theorem State.brlSend_rstReq (s : State) (l kind dst src hops bseq : Nat) (pl : List Byte) : (s.brlSend l kind dst src hops bseq pl).rstReq = s.rstReq := (EvtFrame.brlSend s l kind dst src hops bseq pl).f_rstReq
@[simp] theorem State.brlSend_pending (s : State) (l kind dst src hops bseq : Nat) (pl : List Byte) : (s.brlSend l kind dst src hops bseq pl).pending = s.pending := (EvtFrame.brlSend s l kind dst src hops bseq pl).f_pending

@[simp] theorem State.brlCmd_mem (s : State) (dst : Nat) (b : List Byte) : (s.brlCmd dst b).mem = s.mem := (EvtFrame.brlCmd s dst b).f_mem
@[simp] theorem State.brlCmd_stewRam (s : State) (dst : Nat) (b : List Byte) : (s.brlCmd dst b).stewRam = s.stewRam := (EvtFrame.brlCmd s dst b).f_stewRam
@[simp] theorem State.brlCmd_now (s : State) (dst : Nat) (b : List Byte) : (s.brlCmd dst b).now = s.now := (EvtFrame.brlCmd s dst b).f_now
@[simp] theorem State.brlCmd_dtime (s : State) (dst : Nat) (b : List Byte) : (s.brlCmd dst b).dtime = s.dtime := (EvtFrame.brlCmd s dst b).f_dtime
@[simp] theorem State.brlCmd_freeCtr (s : State) (dst : Nat) (b : List Byte) : (s.brlCmd dst b).freeCtr = s.freeCtr := (EvtFrame.brlCmd s dst b).f_freeCtr
@[simp] theorem State.brlCmd_panA (s : State) (dst : Nat) (b : List Byte) : (s.brlCmd dst b).panA = s.panA := (EvtFrame.brlCmd s dst b).f_panA
@[simp] theorem State.brlCmd_panB (s : State) (dst : Nat) (b : List Byte) : (s.brlCmd dst b).panB = s.panB := (EvtFrame.brlCmd s dst b).f_panB
@[simp] theorem State.brlCmd_stew (s : State) (dst : Nat) (b : List Byte) : (s.brlCmd dst b).stew = s.stew := (EvtFrame.brlCmd s dst b).f_stew
@[simp] theorem State.brlCmd_ecc (s : State) (dst : Nat) (b : List Byte) : (s.brlCmd dst b).ecc = s.ecc := (EvtFrame.brlCmd s dst b).f_ecc
@[simp] theorem State.brlCmd_dma (s : State) (dst : Nat) (b : List Byte) : (s.brlCmd dst b).dma = s.dma := (EvtFrame.brlCmd s dst b).f_dma
@[simp] theorem State.brlCmd_encl (s : State) (dst : Nat) (b : List Byte) : (s.brlCmd dst b).encl = s.encl := (EvtFrame.brlCmd s dst b).f_encl
@[simp] theorem State.brlCmd_crust (s : State) (dst : Nat) (b : List Byte) : (s.brlCmd dst b).crust = s.crust := (EvtFrame.brlCmd s dst b).f_crust
@[simp] theorem State.brlCmd_upd (s : State) (dst : Nat) (b : List Byte) : (s.brlCmd dst b).upd = s.upd := (EvtFrame.brlCmd s dst b).f_upd
@[simp] theorem State.brlCmd_settings (s : State) (dst : Nat) (b : List Byte) : (s.brlCmd dst b).settings = s.settings := (EvtFrame.brlCmd s dst b).f_settings
@[simp] theorem State.brlCmd_idleS (s : State) (dst : Nat) (b : List Byte) : (s.brlCmd dst b).idleS = s.idleS := (EvtFrame.brlCmd s dst b).f_idleS
@[simp] theorem State.brlCmd_versions (s : State) (dst : Nat) (b : List Byte) : (s.brlCmd dst b).versions = s.versions := (EvtFrame.brlCmd s dst b).f_versions
@[simp] theorem State.brlCmd_pA (s : State) (dst : Nat) (b : List Byte) : (s.brlCmd dst b).pA = s.pA := (EvtFrame.brlCmd s dst b).f_pA
@[simp] theorem State.brlCmd_pB (s : State) (dst : Nat) (b : List Byte) : (s.brlCmd dst b).pB = s.pB := (EvtFrame.brlCmd s dst b).f_pB
@[simp] theorem State.brlCmd_rake (s : State) (dst : Nat) (b : List Byte) : (s.brlCmd dst b).rake = s.rake := (EvtFrame.brlCmd s dst b).f_rake
@[simp] theorem State.brlCmd_hss (s : State) (dst : Nat) (b : List Byte) : (s.brlCmd dst b).hss = s.hss := (EvtFrame.brlCmd s dst b).f_hss
@[simp] theorem State.brlCmd_sol (s : State) (dst : Nat) (b : List Byte) : (s.brlCmd dst b).sol = s.sol := (EvtFrame.brlCmd s dst b).f_sol
@[simp] theorem State.brlCmd_dio (s : State) (dst : Nat) (b : List Byte) : (s.brlCmd dst b).dio = s.dio := (EvtFrame.brlCmd s dst b).f_dio
@[simp] theorem State.brlCmd_led (s : State) (dst : Nat) (b : List Byte) : (s.brlCmd dst b).led = s.led := (EvtFrame.brlCmd s dst b).f_led
@[simp] theorem State.brlCmd_acc (s : State) (dst : Nat) (b : List Byte) : (s.brlCmd dst b).acc = s.acc := (EvtFrame.brlCmd s dst b).f_acc
@[simp] theorem State.brlCmd_can (s : State) (dst : Nat) (b : List Byte) : (s.brlCmd dst b).can = s.can := (EvtFrame.brlCmd s dst b).f_can
@[simp] theorem State.brlCmd_time (s : State) (dst : Nat) (b : List Byte) : (s.brlCmd dst b).time = s.time := (EvtFrame.brlCmd s dst b).f_time
@[simp] theorem State.brlCmd_pwr (s : State) (dst : Nat) (b : List Byte) : (s.brlCmd dst b).pwr = s.pwr := (EvtFrame.brlCmd s dst b).f_pwr
@[simp] theorem State.brlCmd_dbg (s : State) (dst : Nat) (b : List Byte) : (s.brlCmd dst b).dbg = s.dbg := (EvtFrame.brlCmd s dst b).f_dbg
@[simp] theorem State.brlCmd_thermWarn (s : State) (dst : Nat) (b : List Byte) : (s.brlCmd dst b).thermWarn = s.thermWarn := (EvtFrame.brlCmd s dst b).f_thermWarn
@[simp] theorem State.brlCmd_islHeld (s : State) (dst : Nat) (b : List Byte) : (s.brlCmd dst b).islHeld = s.islHeld := (EvtFrame.brlCmd s dst b).f_islHeld
@[simp] theorem State.brlCmd_own (s : State) (dst : Nat) (b : List Byte) : (s.brlCmd dst b).own = s.own := (EvtFrame.brlCmd s dst b).f_own
@[simp] theorem State.brlCmd_gpioOn (s : State) (dst : Nat) (b : List Byte) : (s.brlCmd dst b).gpioOn = s.gpioOn := (EvtFrame.brlCmd s dst b).f_gpioOn
@[simp] theorem State.brlCmd_rstReq (s : State) (dst : Nat) (b : List Byte) : (s.brlCmd dst b).rstReq = s.rstReq := (EvtFrame.brlCmd s dst b).f_rstReq
@[simp] theorem State.brlCmd_pending (s : State) (dst : Nat) (b : List Byte) : (s.brlCmd dst b).pending = s.pending := (EvtFrame.brlCmd s dst b).f_pending

/-! The registers that raising touches. -/

/-- Registers that raising source `k` may write: its block's, the merge register, CMD_EVT. -/
def evtAddrs (k : Nat) : List Nat := A.EVT_MERGE :: A.CMD_EVT :: (match evtBit k with | some x => [x.addr] | none => [])

/-- `t` has the registers of `s` but for some, in one form. -/
def RegsBut (as : List Nat) (s t : State) : Prop :=
  (regsWf s.regs = true → regsWf t.regs = true) ∧ (regsWf s.regs = true → ∀ a, a ∉ as → t.reg a = s.reg a)

theorem RegsBut.refl (as : List Nat) (s : State) : RegsBut as s s := ⟨id, fun _ _ _ => rfl⟩

theorem RegsBut.trans {as : List Nat} {s t u : State} (h : RegsBut as s t) (g : RegsBut as t u) : RegsBut as s u :=
  ⟨fun w => g.1 (h.1 w), fun w a ha => (g.2 (h.1 w) a ha).trans (h.2 w a ha)⟩

theorem RegsBut.of_eq {as : List Nat} {s t : State} (h : t.regs = s.regs) : RegsBut as s t :=
  ⟨fun w => by rw [h]; exact w, fun _ a _ => by unfold State.reg; rw [h]⟩

theorem RegsBut.setReg {as : List Nat} (s : State) (a : Nat) (w : Word) (h : a ∈ as) : RegsBut as s (s.setReg a w) :=
  ⟨fun c => regsWf_setReg s a w c, fun c b hb => reg_setReg_other s a b w (fun e => hb (e ▸ h)) c⟩

theorem RegsBut.setF {as : List Nat} (s : State) (x : Fld) (v : Nat) (h : x.addr ∈ as) : RegsBut as s (s.setF x v) :=
  RegsBut.setReg s _ _ h

theorem RegsBut.markEvt (s : State) (k : Nat) : RegsBut (evtAddrs k) s (s.markEvt k) := by
  unfold State.markEvt evtAddrs
  cases h : evtBit k with
  | none => exact RegsBut.refl _ s
  | some x => exact RegsBut.setF s x 1 (by simp)

theorem RegsBut.latchPulse {as : List Nat} (s : State) (k : Nat) : RegsBut as s (s.latchPulse k).1 := by
  apply RegsBut.of_eq
  unfold State.latchPulse
  split
  · dsimp only
    split <;> rfl
  · rfl

theorem RegsBut.merged {as : List Nat} (s : State) (k : Nat) (h : A.EVT_MERGE ∈ as) : RegsBut as s (s.merged k) :=
  ((RegsBut.setF s F.EVT_MERGE_COUNT _ h).trans (RegsBut.setF _ F.EVT_MERGE_LAST _ h)).trans (RegsBut.latchPulse _ _)

theorem RegsBut.raiseQuiet {as : List Nat} (s : State) (k : Nat) (h : ∀ a ∈ evtAddrs k, a ∈ as) :
    RegsBut as s (s.raiseQuiet k) := by
  have h1 : RegsBut as s (s.markEvt k) :=
    ⟨(RegsBut.markEvt s k).1, fun w a ha => (RegsBut.markEvt s k).2 w a (fun e => ha (h a e))⟩
  have h2 := h1.trans (RegsBut.latchPulse (s.markEvt k) k)
  unfold State.raiseQuiet
  dsimp only
  split
  · exact h2.trans (RegsBut.merged _ _ (h _ (by simp [evtAddrs])))
  · exact h2

theorem RegsBut.brlSend {as : List Nat} (s : State) (l kind dst src hops bseq : Nat) (pl : List Byte) :
    RegsBut as s (s.brlSend l kind dst src hops bseq pl) := by
  apply RegsBut.of_eq
  unfold State.brlSend
  split <;> simp

theorem RegsBut.brlCmd {as : List Nat} (s : State) (dst : Nat) (b : List Byte) : RegsBut as s (s.brlCmd dst b) := by
  unfold State.brlCmd
  split
  · exact RegsBut.refl _ _
  · split
    · exact RegsBut.brlSend _ _ _ _ _ _ _ _
    · exact RegsBut.refl _ _

theorem RegsBut.notifyOne {as : List Nat} (k : Nat) (s : State) (b : Subscr) (h : A.EVT_MERGE ∈ as ∧ A.CMD_EVT ∈ as) :
    RegsBut as s (s.notifyOne k b) := by
  have h407 : ∀ a ∈ evtAddrs 407, a ∈ as := by
    intro a ha
    have e : evtAddrs 407 = [A.EVT_MERGE, A.CMD_EVT, A.CMD_EVT] := by decide
    rw [e] at ha
    simp only [List.mem_cons, List.not_mem_nil, or_false, or_self] at ha
    rcases ha with rfl | rfl
    · exact h.1
    · exact h.2
  unfold State.notifyOne
  split
  · dsimp only
    split
    · refine RegsBut.trans (RegsBut.of_eq ?_) (RegsBut.raiseQuiet _ _ h407)
      rfl
    · split
      · exact RegsBut.of_eq rfl
      · split
        · exact RegsBut.of_eq (by unfold State.isoSend State.isoKick; split <;> [split <;> rfl; rfl])
        · split
          · refine RegsBut.trans (RegsBut.of_eq ?_) (RegsBut.brlCmd _ _ _)
            rfl
          · exact RegsBut.of_eq (by unfold State.emitPkt; split <;> [(dsimp only; split <;> rfl); rfl])
  · exact RegsBut.refl _ s

theorem RegsBut.notify {as : List Nat} (k : Nat) (l : List Subscr) (s : State) (h : A.EVT_MERGE ∈ as ∧ A.CMD_EVT ∈ as) :
    RegsBut as s (l.foldl (State.notifyOne k) s) := by
  induction l generalizing s with
  | nil => exact RegsBut.refl _ s
  | cons b l ih => exact (RegsBut.notifyOne k s b h).trans (ih _)

/-- Raising writes the event registers alone. -/
theorem RegsBut.raise {as : List Nat} (s : State) (k : Nat) (h : ∀ a ∈ evtAddrs k, a ∈ as) : RegsBut as s (s.raise k) :=
  (RegsBut.raiseQuiet s k h).trans (RegsBut.notify k _ _ ⟨h _ (by simp [evtAddrs]), h _ (by simp [evtAddrs])⟩)

/-- A register that raising does not write keeps its word. -/
theorem raise_reg (s : State) (k a : Nat) (ha : a ∉ evtAddrs k) (h : regsWf s.regs = true) : (s.raise k).reg a = s.reg a :=
  (RegsBut.raise s k (fun _ e => e)).2 h a ha

theorem raise_f (s : State) (k : Nat) (x : Fld) (ha : x.addr ∉ evtAddrs k) (h : regsWf s.regs = true) :
    (s.raise k).f x = s.f x := by unfold State.f; rw [raise_reg s k _ ha h]

theorem regsWf_raise (s : State) (k : Nat) (h : regsWf s.regs = true) : regsWf (s.raise k).regs = true :=
  (RegsBut.raise s k (fun _ e => e)).1 h

end Sys2Proof.Machine
end

