-- ==== Sys2Proof/Laws/Fk.lean ====
section
/-! SUPPORT. Laws of the cores: registers, special fields, and how an instruction that issues takes effect. -/
namespace Sys2Proof.Machine

@[simp] theorem core_setCore_same (s : State) (c : CoreId) (k : FkCore) : (s.setCore c k).core c = k := by cases c <;> rfl

theorem core_setCore_other (s : State) (c d : CoreId) (k : FkCore) (h : d ≠ c) : (s.setCore c k).core d = s.core d := by
  cases c <;> cases d <;> first | rfl | exact absurd rfl h

@[simp] theorem setCore_setCore (s : State) (c : CoreId) (k l : FkCore) : (s.setCore c k).setCore c l = s.setCore c l := by
  cases c <;> rfl

@[simp] theorem setCore_core (s : State) (c : CoreId) : s.setCore c (s.core c) = s := by cases c <;> rfl

@[simp] theorem setCore_regs (s : State) (c : CoreId) (k : FkCore) : (s.setCore c k).regs = s.regs := by cases c <;> rfl
@[simp] theorem setCore_mem (s : State) (c : CoreId) (k : FkCore) : (s.setCore c k).mem = s.mem := by cases c <;> rfl
@[simp] theorem setCore_dbg (s : State) (c : CoreId) (k : FkCore) : (s.setCore c k).dbg = s.dbg := by cases c <;> rfl
@[simp] theorem setCore_freeCtr (s : State) (c : CoreId) (k : FkCore) : (s.setCore c k).freeCtr = s.freeCtr := by cases c <;> rfl
@[simp] theorem setCore_dtime (s : State) (c : CoreId) (k : FkCore) : (s.setCore c k).dtime = s.dtime := by cases c <;> rfl

/-- W0 reads as 0 (R60). -/
@[simp] theorem rd_zero (k : FkCore) : k.rd 0 = 0#32 := rfl

/-- Writes to W0 are discarded (R60). -/
@[simp] theorem wr_zero (k : FkCore) (v : Word) : k.wr 0 v = k := rfl

/-- A general register reads back what was written. -/
theorem rd_wr_same (k : FkCore) (r : Fin 32) (v : Word) (h : r ≠ 0) : (k.wr r v).rd r = v := by
  simp [FkCore.wr, FkCore.rd, h]

/-- A write leaves every other register alone. -/
theorem rd_wr_other (k : FkCore) (r q : Fin 32) (v : Word) (h : q ≠ r) : (k.wr r v).rd q = k.rd q := by
  have h2 : r.val ≠ q.val := fun e => h (Fin.ext e.symm)
  by_cases hr : r = 0 <;> by_cases hq : q = 0 <;> simp [FkCore.wr, FkCore.rd, hr, hq, Vector.getElem_set]
  intro e
  exact absurd e (by simpa using h2)

@[simp] theorem wr_psr (k : FkCore) (r : Fin 32) (v : Word) : (k.wr r v).psr = k.psr := by unfold FkCore.wr; split <;> rfl
@[simp] theorem wr_bitst (k : FkCore) (r : Fin 32) (v : Word) : (k.wr r v).bitst = k.bitst := by unfold FkCore.wr; split <;> rfl
@[simp] theorem wr_pc (k : FkCore) (r : Fin 32) (v : Word) : (k.wr r v).pc = k.pc := by unfold FkCore.wr; split <;> rfl

@[simp] theorem begins_dbg (s : State) (c : CoreId) : (s.begins c).dbg = s.dbg := by cases c <;> rfl
@[simp] theorem begins_regs (s : State) (c : CoreId) : (s.begins c).regs = s.regs := by cases c <;> rfl
@[simp] theorem begins_mem (s : State) (c : CoreId) : (s.begins c).mem = s.mem := by cases c <;> rfl
@[simp] theorem begins_freeCtr (s : State) (c : CoreId) : (s.begins c).freeCtr = s.freeCtr := by cases c <;> rfl

/-- The core of a state that begins an instruction: it runs, its clock counted up to now. -/
@[simp] theorem core_begins (s : State) (c : CoreId) :
    (s.begins c).core c = { (s.core c).sync c s.now with run := .running } := by cases c <;> rfl

@[simp] theorem core_spend (s : State) (c : CoreId) (n : Nat) : (s.spend c n).core c = (s.core c).spend n := core_setCore_same _ _ _

/-- An instruction that issues runs its effect on the state its fetch leaves. -/
theorem fkRun_of_issues {c : CoreId} {s s0 : State} (h : Issues c s s0) (body : State → FkRes) :
    s.fkRun c body = s0.fkEffect c body := by
  obtain ⟨h1, h2, ⟨w, h3⟩, _⟩ := h
  unfold State.fkRun
  have e : (if tblGet (s.begins c).dbg.skip c.num then none else (s.begins c).dbgBp c) = none := by
    rw [begins_dbg]
    rcases h2 with h2 | h2
    · rw [h2]; rfl
    · rw [h2]; split <;> rfl
  simp only [h1, Bool.not_true, Bool.false_eq_true, if_false, e]
  unfold State.fkFetch
  rw [h3]

/-- No access meets no watchpoint. -/
theorem dbgWp_nil (s : State) (c : CoreId) : s.dbgWp c [] = none := by
  unfold State.dbgWp firstBelow
  simp

/-- An effect that completes, without an access that meets a watchpoint. -/
theorem fkEffect_done {c : CoreId} {s s1 : State} {body : State → FkRes} {pc : Word} {cyc : Nat} {acc : List DataAcc}
    (h : body s = .done s1 pc cyc acc) (hi : (s.core c).lsInj = false)
    (hw : ({ s1.setCore c { (s1.core c).abStep (s.core c).abn cyc with pc := pc } with
      dbg := { s1.dbg with skip := tblSet s1.dbg.skip c.num false } } : State).dbgWp c acc = none) :
    s.fkEffect c body = s1.fkDone c ((s1.core c).after (s.core c) cyc pc) := by
  unfold State.fkEffect
  simp only [h, State.fkRetireIn, hi, Bool.false_eq_true, if_false]
  unfold State.fkRetire State.fkDone FkCore.after
  simp only [setCore_dbg] at hw ⊢
  rw [hw]

/-- With no watchpoint armed, no access meets one. -/
theorem dbgWp_of_noWp {s : State} {c : CoreId} (h : s.noWp c) (acc : List DataAcc) : s.dbgWp c acc = none := by
  unfold State.dbgWp firstBelow
  rw [List.find?_eq_none]
  intro j hj
  have hj : j < 4 := List.mem_range.1 hj
  simp only [Bool.not_eq_true, List.any_eq_false]
  intro a _
  simp [State.wpSees, h j hj]

/-- An effect with data accesses that completes, while no watchpoint is armed. -/
theorem fkEffect_acc {c : CoreId} {s s1 : State} {body : State → FkRes} {pc : Word} {cyc : Nat} {acc : List DataAcc}
    (h : body s = .done s1 pc cyc acc) (hi : (s.core c).lsInj = false) (hw : s1.noWp c) :
    s.fkEffect c body = s1.fkDone c ((s1.core c).after (s.core c) cyc pc) := by
  refine fkEffect_done h hi (dbgWp_of_noWp ?_ acc)
  intro j hj
  have := hw j hj
  unfold State.flag State.f State.reg at this ⊢
  rw [← this]
  simp

/-- An effect that raises an exception found at issue. -/
theorem fkEffect_exc {c : CoreId} {s s1 : State} {body : State → FkRes} {e : Exc} (h : body s = .exc s1 e)
    (hc : (s1.core c).cyc = (s.core c).cyc) :
    s.fkEffect c body = ((s1.skipSpent c).issueOne c e).fkExc c e := by
  have hc2 : ((s1.skipSpent c).core c).cyc = (s.core c).cyc := by rw [← hc]; cases c <;> rfl
  unfold State.fkEffect
  simp only [h]
  rw [show ({ s1 with dbg := { s1.dbg with skip := tblSet s1.dbg.skip c.num false } } : State) = s1.skipSpent c from rfl, if_pos hc2]

/-- A register-only effect on a core that issues. -/
theorem fkPure_step {c : CoreId} {s s0 : State} (h : Issues c s s0) {body : State → FkRes} {cyc : Nat} {f : FkCore → FkCore}
    (hb : body s0 = fkPure c cyc f s0) :
    s.fkRun c body = s0.fkDone c ((f (s0.core c)).after (s0.core c) cyc ((s0.core c).pc + 4#32)) := by
  rw [fkRun_of_issues h, fkEffect_done (s1 := s0.setCore c (f (s0.core c))) (acc := []) (by rw [hb]; rfl) h.noInj (dbgWp_nil _ _)]
  unfold State.fkDone
  simp

/-- An effect that completes without a data access, at any next PC. -/
theorem fkGoes_step {c : CoreId} {s s0 : State} (h : Issues c s s0) {body : State → FkRes} {cyc : Nat} {k : FkCore} {pc : Word}
    (hb : body s0 = .done (s0.setCore c k) pc cyc []) :
    s.fkRun c body = s0.fkDone c (k.after (s0.core c) cyc pc) := by
  rw [fkRun_of_issues h, fkEffect_done (s1 := s0.setCore c k) (acc := []) hb h.noInj (dbgWp_nil _ _)]
  unfold State.fkDone
  simp

end Sys2Proof.Machine
end

