-- ==== Sys2Proof/Laws/Mem.lean ====
section
/-! SUPPORT. Laws of memory: reading after writing, and that every memory operation keeps the canonical form. -/
namespace Sys2Proof.Machine

/-- Every cell of a canonical memory lies above a bound. -/
def memAbove (n : Nat) (m : List Host.Cell) : Prop := ∀ c ∈ m, n < c.1

/-- The canonical form, cell by cell: no blank cell, addresses rising. -/
theorem memWf_cons (c : Host.Cell) (m : List Host.Cell) :
    memWf (c :: m) = true ↔ c.2 ≠ blankByte c.1 ∧ memAbove c.1 m ∧ memWf m = true := by
  induction m generalizing c with
  | nil => obtain ⟨k, b⟩ := c; simp [memWf, memAbove]
  | cons d m ih =>
    obtain ⟨k, b⟩ := c
    obtain ⟨j, e⟩ := d
    have h := ih (j, e)
    simp only [memWf, Bool.and_eq_true, decide_eq_true_eq, memAbove, List.mem_cons, forall_eq_or_imp] at h ⊢
    constructor
    · rintro ⟨⟨h1, h2⟩, h3⟩
      refine ⟨h1, ⟨h2, ?_⟩, h3⟩
      intro x hx
      have := (h.1 h3).2.1 x hx
      omega
    · rintro ⟨h1, ⟨h2, _⟩, h4⟩
      exact ⟨⟨h1, h2⟩, h4⟩

theorem memWf_iff (m : List Host.Cell) :
    memWf m = true ↔ m.Pairwise (fun a b => a.1 < b.1) ∧ ∀ c ∈ m, c.2 ≠ blankByte c.1 := by
  induction m with
  | nil => simp [memWf]
  | cons c m ih =>
    rw [memWf_cons, List.pairwise_cons, ih]
    simp only [memAbove, List.mem_cons, forall_eq_or_imp]
    tauto

/-- Memory with a cell listed at `a`. -/
def cellPut : List Host.Cell → Nat → Byte → List Host.Cell
  | [], a, b => [(a, b)]
  | (k, c) :: m, a, b =>
    if k = a then (a, b) :: m else if a < k then (a, b) :: (k, c) :: m else (k, c) :: cellPut m a b

/-- Memory with no cell listed at `a`. -/
def cellDrop : List Host.Cell → Nat → List Host.Cell
  | [], _ => []
  | (k, c) :: m, a => if k = a then m else if a < k then (k, c) :: m else (k, c) :: cellDrop m a

/-- Storing a byte lists its cell, or drops it where the byte is blank. -/
theorem memSet_eq (m : List Host.Cell) (a : Nat) (b : Byte) :
    memSet m a b = if b = blankByte a then cellDrop m a else cellPut m a b := by
  induction m with
  | nil => simp [memSet, cellDrop, cellPut]
  | cons d m ih =>
    obtain ⟨k, e⟩ := d
    by_cases hb : b = blankByte a <;> simp only [memSet, cellDrop, cellPut, hb, if_true, if_false] at ih ⊢ <;>
      split <;> simp_all

theorem memGet_above (n : Nat) (m : List Host.Cell) (h : memAbove n m) : memGet m n = blankByte n := by
  cases m with
  | nil => rfl
  | cons c m =>
    obtain ⟨k, b⟩ := c
    have hk : n < k := h (k, b) (by simp)
    have : ¬ k = n := by omega
    simp [memGet, this, hk]

theorem cellPut_above (m : List Host.Cell) (n a : Nat) (b : Byte) (hm : memAbove n m) (ha : n < a) :
    memAbove n (cellPut m a b) := by
  induction m with
  | nil => intro c hc; simp [cellPut] at hc; subst hc; exact ha
  | cons d m ih =>
    obtain ⟨k, e⟩ := d
    have hk : n < k := hm (k, e) (by simp)
    have hm' : memAbove n m := fun c hc => hm c (by simp [hc])
    unfold cellPut
    split
    · intro c hc
      rcases List.mem_cons.1 hc with rfl | hc
      · exact ha
      · exact hm' c hc
    · split
      · intro c hc
        rcases List.mem_cons.1 hc with rfl | hc
        · exact ha
        · exact hm c hc
      · intro c hc
        rcases List.mem_cons.1 hc with rfl | hc
        · exact hk
        · exact ih hm' c hc

theorem cellDrop_mem (m : List Host.Cell) (a : Nat) : ∀ c ∈ cellDrop m a, c ∈ m := by
  induction m with
  | nil => simp [cellDrop]
  | cons d m ih =>
    obtain ⟨k, e⟩ := d
    intro c hc
    unfold cellDrop at hc
    split at hc
    · simp [hc]
    · split at hc
      · exact hc
      · rcases List.mem_cons.1 hc with rfl | hc
        · simp
        · simp [ih c hc]

theorem memWf_cellPut (m : List Host.Cell) (a : Nat) (b : Byte) (hb : b ≠ blankByte a) (h : memWf m = true) :
    memWf (cellPut m a b) = true := by
  induction m with
  | nil => simp [cellPut, memWf, hb]
  | cons d m ih =>
    obtain ⟨k, e⟩ := d
    obtain ⟨h1, h2, h3⟩ := (memWf_cons _ _).1 h
    unfold cellPut
    split
    · rename_i hk; subst hk
      exact (memWf_cons _ _).2 ⟨hb, h2, h3⟩
    · split
      · rename_i hlt
        refine (memWf_cons _ _).2 ⟨hb, ?_, h⟩
        intro c hc
        rcases List.mem_cons.1 hc with rfl | hc
        · exact hlt
        · have := h2 c hc; simp only at this hlt ⊢; omega
      · refine (memWf_cons _ _).2 ⟨h1, cellPut_above m k a b h2 (by omega), ih h3⟩

theorem memWf_cellDrop (m : List Host.Cell) (a : Nat) (h : memWf m = true) : memWf (cellDrop m a) = true := by
  induction m with
  | nil => simp [cellDrop, memWf]
  | cons d m ih =>
    obtain ⟨k, e⟩ := d
    obtain ⟨h1, h2, h3⟩ := (memWf_cons _ _).1 h
    unfold cellDrop
    split
    · exact h3
    · split
      · exact h
      · exact (memWf_cons _ _).2 ⟨h1, fun c hc => h2 c (cellDrop_mem m a c hc), ih h3⟩

/-- Storing a byte keeps the canonical form. -/
theorem memWf_memSet (m : List Host.Cell) (a : Nat) (b : Byte) (h : memWf m = true) : memWf (memSet m a b) = true := by
  rw [memSet_eq]
  split
  · exact memWf_cellDrop m a h
  · exact memWf_cellPut m a b ‹_› h

/-- Storing bytes keeps the canonical form. -/
theorem memWf_memPut (m : List Host.Cell) (a : Nat) (bs : List Byte) (h : memWf m = true) : memWf (memPut m a bs) = true := by
  induction bs generalizing m a with
  | nil => exact h
  | cons b bs ih => exact ih _ _ (memWf_memSet m a b h)

/-- Keeping only some cells keeps the canonical form. -/
theorem memWf_filter (m : List Host.Cell) (p : Host.Cell → Bool) (h : memWf m = true) : memWf (m.filter p) = true := by
  rw [memWf_iff] at h ⊢
  exact ⟨h.1.filter p, fun c hc => h.2 c (List.mem_filter.1 hc).1⟩

/-- Blanking a range keeps the canonical form. -/
theorem memWf_memClear (m : List Host.Cell) (a n : Nat) (h : memWf m = true) : memWf (memClear m a n) = true :=
  memWf_filter m _ h

/-- Moving a range keeps the canonical form where both ranges read alike when blank. -/
theorem memWf_memCopy (m : List Host.Cell) (src dst n : Nat) (hb : ∀ i < n, blankByte (src + i) = blankByte (dst + i))
    (h : memWf m = true) : memWf (memCopy m src dst n) = true := by
  rw [memWf_iff] at h ⊢
  unfold memCopy
  constructor
  · rw [List.pairwise_append, List.pairwise_append]
    refine ⟨⟨h.1.filter _, ?_, ?_⟩, h.1.filter _, ?_⟩
    · rw [List.pairwise_map]
      refine (h.1.filter _).imp_of_mem ?_
      intro a b ha hb' hab
      simp only [List.mem_filter, Bool.and_eq_true, decide_eq_true_eq] at ha hb'
      simp only; omega
    · intro a ha b hb'
      simp only [List.mem_filter, List.mem_map, Bool.and_eq_true, decide_eq_true_eq] at ha hb'
      obtain ⟨c, _, rfl⟩ := hb'
      simp only; omega
    · intro a ha b hb'
      simp only [List.mem_append, List.mem_filter, List.mem_map, Bool.and_eq_true, decide_eq_true_eq] at ha hb'
      rcases ha with ha | ⟨c, hc, rfl⟩
      · omega
      · simp only; omega
  · intro c hc
    simp only [List.mem_append, List.mem_filter, List.mem_map, Bool.and_eq_true, decide_eq_true_eq] at hc
    rcases hc with (hc | ⟨d, hd, rfl⟩) | hc
    · exact h.2 c hc.1
    · have h1 := h.2 d hd.1
      have h2 := hb (d.1 - src) (by omega)
      rw [show src + (d.1 - src) = d.1 by omega, show dst + (d.1 - src) = d.1 - src + dst by omega] at h2
      simpa [h2] using h1
    · exact h.2 c hc.1

theorem memGet_cellPut (m : List Host.Cell) (a : Nat) (b : Byte) : memGet (cellPut m a b) a = b := by
  induction m with
  | nil => simp [cellPut, memGet]
  | cons d m ih =>
    obtain ⟨k, e⟩ := d
    unfold cellPut
    split
    · simp [memGet]
    · split
      · simp [memGet]
      · rename_i h1 h2; simp [memGet, h1, h2, ih]

theorem memGet_cellPut_other (m : List Host.Cell) (a c : Nat) (b : Byte) (h : c ≠ a) (hm : memWf m = true) :
    memGet (cellPut m a b) c = memGet m c := by
  induction m with
  | nil =>
    have : ¬ a = c := fun e => h e.symm
    simp [cellPut, memGet, this]
  | cons d m ih =>
    obtain ⟨k, e⟩ := d
    obtain ⟨_, h2, h3⟩ := (memWf_cons _ _).1 hm
    have hac : ¬ a = c := fun e => h e.symm
    unfold cellPut
    split
    · rename_i hk; subst hk
      by_cases hc : c < k
      · simp [memGet, hac, hc]
      · simp [memGet, hac, hc]
    · split
      · rename_i hk hlt
        by_cases hc : c < a
        · have : ¬ k = c := by omega
          have : c < k := by omega
          simp [memGet, hac, hc, this, *]
        · simp [memGet, hac, hc]
      · by_cases hk : k = c
        · simp [memGet, hk]
        · by_cases hc : c < k
          · simp [memGet, hk, hc]
          · simp [memGet, hk, hc, ih h3]

theorem memGet_cellDrop (m : List Host.Cell) (a c : Nat) (hm : memWf m = true) :
    memGet (cellDrop m a) c = if c = a then blankByte a else memGet m c := by
  induction m with
  | nil => by_cases h : c = a <;> simp [cellDrop, memGet, h]
  | cons d m ih =>
    obtain ⟨k, e⟩ := d
    obtain ⟨_, h2, h3⟩ := (memWf_cons _ _).1 hm
    unfold cellDrop
    split
    · rename_i hk; subst hk
      by_cases hc : c = k
      · subst hc; simp [memGet_above c m h2]
      · have hkc : ¬ k = c := fun e => hc e.symm
        by_cases hlt : c < k
        · have : memAbove c m := fun x hx => by have := h2 x hx; simp only at this; omega
          simp [memGet, hc, hkc, hlt, memGet_above c m this]
        · simp [memGet, hc, hkc, hlt]
    · split
      · rename_i hk hlt
        by_cases hc : c = a
        · subst hc; simp [memGet, hk, hlt]
        · simp [hc]
      · rename_i hk hlt
        by_cases hkc : k = c
        · have : ¬ c = a := by omega
          simp [memGet, hkc, this]
        · by_cases hc : c < k
          · have : ¬ c = a := by omega
            simp [memGet, hkc, hc, this]
          · simp [memGet, hkc, hc, ih h3]

/-- A byte reads back what was stored. -/
theorem memGet_memSet_same (m : List Host.Cell) (a : Nat) (b : Byte) (hm : memWf m = true) : memGet (memSet m a b) a = b := by
  rw [memSet_eq]
  split
  · rename_i h; rw [memGet_cellDrop m a a hm, if_pos rfl, h]
  · exact memGet_cellPut m a b

/-- A store leaves every other byte alone. -/
theorem memGet_memSet_other (m : List Host.Cell) (a c : Nat) (b : Byte) (h : c ≠ a) (hm : memWf m = true) :
    memGet (memSet m a b) c = memGet m c := by
  rw [memSet_eq]
  split
  · rw [memGet_cellDrop m a c hm, if_neg h]
  · exact memGet_cellPut_other m a c b h hm

/-- A store of bytes leaves every byte outside them alone. -/
theorem memGet_memPut_other (m : List Host.Cell) (a c : Nat) (bs : List Byte) (h : c < a ∨ a + bs.length ≤ c)
    (hm : memWf m = true) : memGet (memPut m a bs) c = memGet m c := by
  induction bs generalizing m a with
  | nil => rfl
  | cons b bs ih =>
    simp only [List.length_cons] at h
    unfold memPut
    rw [ih _ _ (by omega) (memWf_memSet m a b hm), memGet_memSet_other m a c b (by omega) hm]

/-- Bytes read back as stored. -/
theorem memBytes_memPut_same (m : List Host.Cell) (a : Nat) (bs : List Byte) (hm : memWf m = true) :
    memBytes (memPut m a bs) a bs.length = bs := by
  induction bs generalizing m a with
  | nil => rfl
  | cons b bs ih =>
    have h1 := memWf_memSet m a b hm
    simp only [memPut, List.length_cons, memBytes, ih _ _ h1, List.cons.injEq, and_true]
    rw [memGet_memPut_other _ _ _ _ (by omega) h1, memGet_memSet_same m a b hm]

end Sys2Proof.Machine
end

