-- ==== Sys2Proof/Laws/Done.lean ====
section
/-! SUPPORT. Laws that a statement about a command cites: a register row that reaches its block, a request that is started. -/
namespace Sys2Proof.Machine

/-- A register row whose access reaches its block. -/
theorem regDo_ok {s : State} {who : Who} {a : Nat} {f : State → State} (h : s.regOk who a = true) : s.regDo who a f = f s := by
  simp [State.regDo, h]

/-- A register row whose access does not reach its block. -/
theorem regDo_no {s : State} {who : Who} {a : Nat} {f : State → State} (h : s.regOk who a = false) : s.regDo who a f = s.busErr who := by
  simp [State.regDo, h]

/-- A register read row whose access does not reach its block. -/
theorem regDoRead_no {s : State} {who : Who} {a : Nat} {f : State → State} (h : s.regOk who a = false) :
    s.regDoRead who a f = s.readFails who a := by
  simp [State.regDoRead, h]

/-- No access at application privilege reaches a block. -/
theorem regOk_app {s : State} {who : Who} (a : Nat) (h : whoApp who = true) : s.regOk who a = false := by
  simp [State.regOk, h]

theorem reqPkt_type (r : Req) (g o : Nat) : (reqPkt r g o).type = 0 := by
  have := r.dst.isLt
  simp only [reqPkt, Pkt.type]
  omega

theorem reqPkt_addr (r : Req) (g o : Nat) : (reqPkt r g o).addr = r.dst.toNat := by
  have := r.dst.isLt
  simp only [reqPkt, Pkt.addr]
  omega

/-- A request that passes every check runs its opcode's body. -/
theorem opcode_started {s s1 : State} {r : Req} {g o : Nat} {x : Option Sess} (h : Started s r g o x s1) (body : Body) :
    s.opcode r g o body = body ⟨rkeyOf r, x, r.payload⟩ s1 := by
  obtain ⟨h1, h2, h3, hf, ⟨i, h4, h5⟩, h6, h7, h8⟩ := h
  have e3 : r.dst.toNat ≠ 0xFFF := fun e => h3 (BitVec.eq_of_toNat_eq e)
  have e2 : ¬(r.dst.toNat ≠ 0 ∧ r.dst.toNat ≠ s.ownAddr) := by
    rcases h2 with h2 | h2
    · simp [h2]
    · simp [h2]
  unfold State.opcode State.deliver
  rw [reqPkt_type, reqPkt_addr]
  have ev : (reqPkt r g o).ver = 1 := rfl
  have eg : (reqPkt r g o).grp = g := rfl
  have eo : (reqPkt r g o).op = o := rfl
  simp only [h1, hf, Bool.not_true, Bool.false_eq_true, if_false, ne_eq, not_true, e3, ev, if_neg e2]
  unfold State.request
  rw [eg, eo, h4]
  have h6' : (s.sessUsed x).seqClass r.tp.val r.ep (reqPkt r g o).seq = .new := h6
  subst h8
  cases x with
  | none =>
    simp only [State.sessUsed] at h6' h7 ⊢
    simp only [h5, h6', if_neg (Nat.not_le.2 h7)]
    rfl
  | some y =>
    simp only [State.sessUsed] at h6' h7 ⊢
    simp only [h5, h6', if_neg (Nat.not_le.2 h7)]
    rfl

end Sys2Proof.Machine
end

