-- ==== Sys2Proof/Laws/Words.lean ====
section
/-! SUPPORT. The fields of the instruction words that the encoder builds read back (R64). -/
namespace Sys2Proof.Machine

section
variable (M f d a b imm : Nat)
theorem major_fkF0 (hM : M < 64) (hd : d < 32) (ha : a < 32) (hb : b < 32) (hf : f < 2048) : bits (fkF0 M d a b f) 31 26 = M := by
  simp only [bits, fkF0]; omega
theorem rd_fkF0 (hM : M < 64) (hd : d < 32) (ha : a < 32) (hb : b < 32) (hf : f < 2048): wFld (fkF0 M d a b f) 21 = Fin.ofNat 32 d := by
  simp only [wFld, fkF0]; apply Fin.ext; simp only [Fin.ofNat]; omega
theorem ra_fkF0 (hM : M < 64) (hd : d < 32) (ha : a < 32) (hb : b < 32) (hf : f < 2048): wFld (fkF0 M d a b f) 16 = Fin.ofNat 32 a := by
  simp only [wFld, fkF0]; apply Fin.ext; simp only [Fin.ofNat]; omega
theorem rb_fkF0 (hM : M < 64) (hd : d < 32) (ha : a < 32) (hb : b < 32) (hf : f < 2048): wFld (fkF0 M d a b f) 11 = Fin.ofNat 32 b := by
  simp only [wFld, fkF0]; apply Fin.ext; simp only [Fin.ofNat]; omega
theorem fn_fkF0 (hM : M < 64) (hd : d < 32) (ha : a < 32) (hb : b < 32) (hf : f < 2048): bits (fkF0 M d a b f) 10 0 = f := by
  simp only [bits, fkF0]; omega
theorem major_fkF1 (hM : M < 64) (hd : d < 32) (ha : a < 32) (hi : imm < 65536) : bits (fkF1 M d a imm) 31 26 = M := by
  simp only [bits, fkF1]; omega
theorem rd_fkF1 (hM : M < 64) (hd : d < 32) (ha : a < 32) (hi : imm < 65536) : wFld (fkF1 M d a imm) 21 = Fin.ofNat 32 d := by
  simp only [wFld, fkF1]; apply Fin.ext; simp only [Fin.ofNat]; omega
theorem ra_fkF1 (hM : M < 64) (hd : d < 32) (ha : a < 32) (hi : imm < 65536) : wFld (fkF1 M d a imm) 16 = Fin.ofNat 32 a := by
  simp only [wFld, fkF1]; apply Fin.ext; simp only [Fin.ofNat]; omega
end
theorem imm_fkF1 (M d a : Nat) (i : BitVec 16) : BitVec.ofNat 16 (fkF1 M d a i.toNat) = i := by
  apply BitVec.eq_of_toNat_eq; simp only [BitVec.toNat_ofNat, fkF1]; omega
theorem major_fkF2 (M : Nat) (o : BitVec 26) (hM : M < 64) : bits (fkF2 M o.toNat) 31 26 = M := by
  simp only [bits, fkF2]; omega
theorem off_fkF2 (M : Nat) (o : BitVec 26) : BitVec.ofNat 26 (fkF2 M o.toNat) = o := by
  apply BitVec.eq_of_toNat_eq; simp only [BitVec.toNat_ofNat, fkF2]; omega
theorem major_fkF3 (M f x : Nat) (hM : M < 64) (hs : f < 16) (hx : x < 2 ^ 22) : bits (fkF3 M f x) 31 26 = M := by
  simp only [bits, fkF3]; omega
theorem sub_fkF3 (M f x : Nat) (hM : M < 64) (hs : f < 16) (hx : x < 2 ^ 22) : bits (fkF3 M f x) 25 22 = f := by
  simp only [bits, fkF3]; omega
theorem addr_fkF3 (M f : Nat) (x : BitVec 22) : BitVec.ofNat 22 (fkF3 M f x.toNat) = x := by
  apply BitVec.eq_of_toNat_eq; simp only [BitVec.toNat_ofNat, fkF3]; omega
theorem noAddr_fkF3 (M f : Nat) : BitVec.ofNat 22 (fkF3 M f 0) = 0#22 := addr_fkF3 M f 0#22
theorem ofNat_val_32 (r : Fin 32) : Fin.ofNat 32 r.val = r := by apply Fin.ext; simp [Fin.ofNat]

end Sys2Proof.Machine
end

