-- ==== Sys2Proof/Tests/Slice0.lean ====
section
/-! SUPPORT. Tests of the model against the spec's own examples, the smoke test of WellFormed, and for every statement with
hypotheses a state and operands that meet them. -/

set_option Elab.async false
set_option maxRecDepth 8000
open Sys2Proof Sys2Proof.Machine

namespace Sys2Proof.Tests
/-- A block whose islands are up. -/
def live : State := { State.reset with islHeld := 0 }
/-- Pan A runs at its reset address with W1 = 5, W2 = 0x80000000, W3 = 3. -/
def demo : State :=
  live.setCore .panA { live.core .panA with run := .running, psr := 0x00020000#32
                                            w := (((live.core .panA).w.set 1 5#32).set 2 0x80000000#32).set 3 3#32 }
theorem issues_demo : Issues .panA demo demo := ⟨by decide, .inr (by decide), ⟨0, by decide⟩, by decide⟩
/-- A session of class SERVICE on the service port. -/
def sess1 : Sess := { id := 1, cls := 4, tp := 3, ep := 0, key := [1#8], lastAt := 0 }
/-- The Command Engine enabled, the session open and holding every maintenance token. -/
def withCmd (s : State) : State :=
  let c := { s.cmd with sess := [sess1], tokens := (List.range 6).map (fun k => { cls := k, tp := 3, ep := 0, sess := 1, until_ := 1000000000000 }) }
  ({ s with cmd := c }.setF F.CMD_CTRL_ENABLE 1).setF F.CMD_CTRL_TP_EN 63
/-- The same request before its tag. -/
def rq0 (pl : List Byte) : Req := { tp := 3, ep := 0, dst := 0#12, src := 5#12, seq := 7#16, sess := 1#16, tag := some [], payload := pl }
/-- A tagged request in that session. -/
def rq (g o : Nat) (pl : List Byte) : Req := { rq0 pl with tag := some ((reqPkt (rq0 pl) g o).mac [1#8]) }
theorem fits_rq (s : State) (g o : Nat) (pl : List Byte) (h : pl.length ≤ 2048) :
    s.fits (rq g o pl).tp.val (reqPkt (rq g o pl) g o) = true := by
  simp [State.fits, State.maxPkt, reqPkt, rq, rq0, Pkt.len, b2n]; omega
theorem started_rq (s : State) (g o : Nat) (pl : List Byte)
    (h : s.tpOn 3 = true ∧ s.upd.recov = 0 ∧ s.findSess 1 = some sess1 ∧ (s.sessUsed (some sess1)).seqClass 3 0 7 = .new ∧
      (s.sessUsed (some sess1)).outCount 3 < 32)
    (hi : ∃ c, opInfo g o = some c ∧ c.cls ≠ .peer ∧ s.holds 1 c.tok = true ∧ (match c.cls with | .cls n => n ≤ 4 | _ => True))
    (hl : pl.length ≤ 2048 := by first | decide +kernel | simp [Config.cmac]) :
    Started s (rq g o pl) g o (some sess1) ((s.sessUsed (some sess1)).begun 3 0 (reqPkt (rq g o pl) g o)) := by
  obtain ⟨h1, h2, h3, h4, h5⟩ := h
  obtain ⟨c, i1, i2, i3, i4⟩ := hi
  have et : (reqPkt (rq g o pl) g o).tag = (reqPkt (rq g o pl) g o).mac [1#8] := by
    simp [reqPkt, rq, rq0, Pkt.mac, Pkt.tagged, Pkt.header, Pkt.len, b2n, List.take_take]
  have ef : (reqPkt (rq g o pl) g o).flg % 2 = 1 := rfl
  refine ⟨h1, .inl rfl, (by decide : (0#12) ≠ 0xFFF#12), fits_rq s g o pl hl, ⟨c, i1, ?_⟩, h4, h5, rfl⟩
  have es : (reqPkt (rq g o pl) g o).sess = 1 := rfl
  show s.sessCheck 3 0 (reqPkt (rq g o pl) g o) c = _
  unfold State.sessCheck
  simp only [h2, es]
  rw [h3]
  simp only [et, ef, sess1]
  cases hc : c.cls with
  | none => simp
  | any => simp
  | peer => exact absurd hc i2
  | cls n => simp [hc] at i4 ⊢; simp [i3, Nat.not_lt.2 i4]
/-- The hot-standby pair with device 9 switched on. -/
def withPeer (s : State) : State := ((withCmd s).setF F.RING_HS_CFG_EN 1).setF F.RING_HS_CFG_PARTNER 9
/-- A request of the partner. -/
def rqp (pl : List Byte) : Req := { tp := 4, ep := 9, dst := 0#12, src := 9#12, seq := 7#16, sess := 0xFFFF#16, tag := none, payload := pl }
theorem fits_rqp (s : State) (g o : Nat) (pl : List Byte) (h : pl.length ≤ 2048) :
    s.fits (rqp pl).tp.val (reqPkt (rqp pl) g o) = true := by
  simp [State.fits, State.maxPkt, reqPkt, rqp, Pkt.len, b2n]; omega
theorem started_rqp (s : State) (g o : Nat) (pl : List Byte)
    (h : s.tpOn 4 = true ∧ s.upd.recov = 0 ∧ s.flag F.RING_HS_CFG_EN = true ∧ s.f F.RING_HS_CFG_PARTNER = 9 ∧
      s.seqClass 4 9 7 = .new ∧ s.outCount 4 < 32)
    (hi : ∃ c, opInfo g o = some c ∧ peerOpcode g o = true)
    (hl : pl.length ≤ 2048 := by first | decide +kernel | simp [Config.cmac]) :
    Started s (rqp pl) g o none (s.begun 4 9 (reqPkt (rqp pl) g o)) := by
  obtain ⟨h1, h2, h3, h4, h5, h6⟩ := h
  obtain ⟨c, i1, i2⟩ := hi
  refine ⟨h1, .inl rfl, (by decide : (0#12) ≠ 0xFFF#12), fits_rqp s g o pl hl, ⟨c, i1, ?_⟩, h5, h6, rfl⟩
  have es : (reqPkt (rqp pl) g o).sess = 0xFFFF := rfl
  have eg : (reqPkt (rqp pl) g o).grp = g := rfl
  have eo : (reqPkt (rqp pl) g o).op = o := rfl
  show s.sessCheck 4 9 (reqPkt (rqp pl) g o) c = _
  unfold State.sessCheck
  simp [h2, es, eg, eo, i2, h3, h4]
end Sys2Proof.Tests
open Sys2Proof.Tests

theorem witness_StepRunsTheFrontCommand : ∃ s : State, s.pending = [.powerOn, .railStepDone] := by exact ⟨{ live with pending := [.powerOn, .railStepDone] }, rfl⟩

theorem witness_AnIdleStepAdvancesTheClockAlone :
    (live.pending = []) ∧
    (live.pending = [] ∧ live.f F.TIME_RATE_RATE = 0 ∧ live.time.frac < 4294967296 ∧ ∃ t, step live = .next t) :=
  ⟨by rfl,
   by exact ⟨rfl, by decide +kernel, by decide, _, rfl⟩⟩

theorem witness_NoCommandTouchesTheQueueNorTakesBackAnOutput : ∃ t, exec .railStepDone live = .next t := by exact ⟨_, rfl⟩

theorem witness_EveryStepKeepsTheStoresCanonical : live.Canonical ∧ ∃ t, step live = .next t := by exact ⟨⟨rfl, rfl, rfl⟩, _, rfl⟩

theorem witness_EveryFkInstructionIsWhatItsWordSpells :
    (fkEncode (.ld .panA 0x28#22) = some (.panA, 0xC0000028)) ∧
    (∃ (i : Instr) (j : Instr) (c : CoreId) (w : Nat), (fkEncode i = some (c, w)) ∧ (fkEncode j = some (c, w))) :=
  ⟨by decide,
   by exact ⟨.push .panB, .push .panB, .panB, 0xC4800000, by decide +kernel⟩⟩

theorem witness_RegisterFieldsReadBackAndKeepTheirNeighbours :
    (∃ (s : State) (x : Fld) (v : Nat), (regsWf s.regs = true) ∧ (x.lo ≤ x.hi ∧ x.hi < 32)) ∧
    (∃ (s : State) (x : Fld) (y : Fld) (v : Nat), (regsWf s.regs = true) ∧ (x.lo ≤ x.hi ∧ x.hi < 32) ∧ (y.addr ≠ x.addr ∨ (y.addr = x.addr ∧ (y.hi < x.lo ∨ x.hi < y.lo)))) :=
  ⟨by exact ⟨live, F.SYSCTL_DEVID_FAMILY, 5, by decide +kernel⟩,
   by exact ⟨live, F.SYSCTL_DEVID_FAMILY, F.SYSCTL_DEVID_REV_LET, 5, by decide +kernel⟩⟩

theorem witness_MemoryReadsBackWhatWasStored :
    (memWf live.mem = true) ∧
    (memWf live.mem = true) ∧
    (memWf live.mem = true) :=
  ⟨by decide,
   by decide,
   by decide⟩

theorem witness_ApplicationPrivilegeReachesNoBlockRegister :
    (whoOf (.parkGo (.core .panA 0)) = some (.core .panA 0) ∧ whoApp (.core .panA 0) = true ∧ Instr.parkGo (.core .panA 0) ≠ .timeNowRead (.core .panA 0) ∧ ∀ t, Instr.parkGo (.core .panA 0) ≠ .evtTgtAckRead (.core .panA 0) t) ∧
    (whoApp (.core .panA 0) = true) ∧
    (whoApp (.core .panA 0) = true) :=
  ⟨by exact ⟨rfl, rfl, by simp, fun t => by simp⟩,
   by decide,
   by decide⟩

theorem witness_RequestsAreCheckedInOrder :
    (∃ s : State, reqOf (.identify (rq0 [])) = some (rq0 [], 1, 1) ∧ s.tpOn (rq0 []).tp.val = false) ∧
    (∃ s : State, reqOf (.identify (rq0 (List.replicate 4097 0#8))) = some (rq0 (List.replicate 4097 0#8), 1, 1) ∧ s.tpOn 3 = true ∧ s.fits 3 (reqPkt (rq0 (List.replicate 4097 0#8)) 1 1) = false) ∧
    (∃ s : State, reqOf (.identify { rq0 [] with dst := 0xFFF#12 }) = some ({ rq0 [] with dst := 0xFFF#12 }, 1, 1) ∧ s.tpOn 3 = true ∧ s.fits 3 (reqPkt { rq0 [] with dst := 0xFFF#12 } 1 1) = true ∧ { rq0 [] with dst := 0xFFF#12 }.dst = 0xFFF#12) ∧
    (∃ s : State, reqOf (.identify { rq0 [] with dst := 5#12 }) = some ({ rq0 [] with dst := 5#12 }, 1, 1) ∧ s.tpOn 3 = true ∧ s.fits 3 (reqPkt { rq0 [] with dst := 5#12 } 1 1) = true ∧ { rq0 [] with dst := 5#12 }.dst ≠ 0xFFF#12 ∧ { rq0 [] with dst := 5#12 }.dst ≠ 0#12 ∧ ({ rq0 [] with dst := 5#12 } : Req).dst.toNat ≠ s.ownAddr) ∧
    (∃ (s : State) (q : OpInfo), reqOf (.identify { rq0 [] with tag := none, sess := 1#16 }) = some ({ rq0 [] with tag := none, sess := 1#16 }, 1, 1) ∧ s.tpOn 3 = true ∧ s.fits 3 (reqPkt ({ rq0 [] with tag := none, sess := 1#16 }) 1 1) = true ∧ (({ rq0 [] with tag := none, sess := 1#16 }) : Req).dst ≠ 0xFFF#12 ∧ (({ rq0 [] with tag := none, sess := 1#16 }) : Req).dst = 0#12 ∧ opInfo 1 1 = some q ∧ s.sessCheck 3 0 (reqPkt { rq0 [] with tag := none, sess := 1#16 } 1 1) q = .badTag) ∧
    (∃ (s : State) (q : OpInfo), reqOf (.stageBegin { rq0 [] with sess := 0#16 }) = some ({ rq0 [] with sess := 0#16 }, 10, 1) ∧ s.tpOn 3 = true ∧ s.fits 3 (reqPkt ({ rq0 [] with sess := 0#16 }) 10 1) = true ∧ (({ rq0 [] with sess := 0#16 }) : Req).dst ≠ 0xFFF#12 ∧ (({ rq0 [] with sess := 0#16 }) : Req).dst = 0#12 ∧ opInfo 10 1 = some q ∧ s.sessCheck 3 0 (reqPkt { rq0 [] with sess := 0#16 } 10 1) q = .stop stNoSession []) ∧
    (∃ (s : State) (q : OpInfo), reqOf (.identify { rq0 [] with sess := 0#16 }) = some ({ rq0 [] with sess := 0#16 }, 1, 1) ∧ s.tpOn 3 = true ∧ s.fits 3 (reqPkt ({ rq0 [] with sess := 0#16 }) 1 1) = true ∧ (({ rq0 [] with sess := 0#16 }) : Req).dst ≠ 0xFFF#12 ∧ (({ rq0 [] with sess := 0#16 }) : Req).dst = 0#12 ∧ opInfo 1 1 = some q ∧ s.sessCheck 3 0 (reqPkt { rq0 [] with sess := 0#16 } 1 1) q = .go none ∧ s.seqClass 3 0 7 = .repeatOut) ∧
    (∃ (s : State) (q : OpInfo), reqOf (.identify { rq0 [] with sess := 0#16 }) = some ({ rq0 [] with sess := 0#16 }, 1, 1) ∧ s.tpOn 3 = true ∧ s.fits 3 (reqPkt ({ rq0 [] with sess := 0#16 }) 1 1) = true ∧ (({ rq0 [] with sess := 0#16 }) : Req).dst ≠ 0xFFF#12 ∧ (({ rq0 [] with sess := 0#16 }) : Req).dst = 0#12 ∧ opInfo 1 1 = some q ∧ s.sessCheck 3 0 (reqPkt { rq0 [] with sess := 0#16 } 1 1) q = .go none ∧ s.seqClass 3 0 7 = .cached [1#8]) ∧
    (∃ (s : State) (q : OpInfo), reqOf (.identify { rq0 [] with sess := 0#16 }) = some ({ rq0 [] with sess := 0#16 }, 1, 1) ∧ s.tpOn 3 = true ∧ s.fits 3 (reqPkt ({ rq0 [] with sess := 0#16 }) 1 1) = true ∧ (({ rq0 [] with sess := 0#16 }) : Req).dst ≠ 0xFFF#12 ∧ (({ rq0 [] with sess := 0#16 }) : Req).dst = 0#12 ∧ opInfo 1 1 = some q ∧ s.sessCheck 3 0 (reqPkt { rq0 [] with sess := 0#16 } 1 1) q = .go none ∧ s.seqClass 3 0 7 = .stale 200) ∧
    (∃ (s : State) (q : OpInfo), reqOf (.identify { rq0 [] with sess := 0#16 }) = some ({ rq0 [] with sess := 0#16 }, 1, 1) ∧ s.tpOn 3 = true ∧ s.fits 3 (reqPkt ({ rq0 [] with sess := 0#16 }) 1 1) = true ∧ (({ rq0 [] with sess := 0#16 }) : Req).dst ≠ 0xFFF#12 ∧ (({ rq0 [] with sess := 0#16 }) : Req).dst = 0#12 ∧ opInfo 1 1 = some q ∧ s.sessCheck 3 0 (reqPkt { rq0 [] with sess := 0#16 } 1 1) q = .go none ∧ s.seqClass 3 0 7 = .new ∧ 32 ≤ s.outCount 3) :=
  ⟨by exact ⟨live, rfl, by decide +kernel⟩,
   by exact ⟨withCmd live, rfl, by decide +kernel⟩,
   by exact ⟨withCmd live, rfl, by decide +kernel⟩,
   by exact ⟨withCmd live, rfl, by decide +kernel⟩,
   by exact ⟨withCmd live, _, rfl, by decide +kernel, by decide +kernel, by decide, by decide, rfl, by decide +kernel⟩,
   by exact ⟨withCmd live, _, rfl, by decide +kernel, by decide +kernel, by decide, by decide, rfl, by decide +kernel⟩,
   by exact ⟨(let t := withCmd live; { t with cmd := { t.cmd with eps := [{ tp := 3, ep := 0, last := 7, stamp := 1, cache := [(7, [1#8])] }], outst := [{ tp := 3, ep := 0, seq := 7, src := 0, grp := 1, op := 1, sess := 0, accepted := false }] } }), _, rfl, by decide +kernel, by decide +kernel, by decide, by decide, rfl, by decide +kernel, by decide +kernel⟩,
   by exact ⟨(let t := withCmd live; { t with cmd := { t.cmd with eps := [{ tp := 3, ep := 0, last := 7, stamp := 1, cache := [(7, [1#8])] }] } }), _, rfl, by decide +kernel, by decide +kernel, by decide, by decide, rfl, by decide +kernel, by decide +kernel⟩,
   by exact ⟨(let t := withCmd live; { t with cmd := { t.cmd with eps := [{ tp := 3, ep := 0, last := 200, stamp := 1, cache := [(7, [1#8])] }] } }), _, rfl, by decide +kernel, by decide +kernel, by decide, by decide, rfl, by decide +kernel, by decide +kernel⟩,
   by exact ⟨(let t := withCmd live; { t with cmd := { t.cmd with outst := List.replicate 32 { tp := 3, ep := 0, seq := 9, src := 0, grp := 1, op := 1, sess := 0, accepted := false } } }), _, rfl, by decide +kernel, by decide +kernel, by decide, by decide, rfl, by decide +kernel, by decide +kernel⟩⟩

theorem witness_RequestsOfAnotherLengthAreAnsweredBadLength :
    (∃ (r : Req) (s : State) (x : Option Sess) (s1 : State), Started s r 1 1 x s1 ∧ r.payload.length ≠ 0) ∧
    (∃ (r : Req) (s : State) (x : Option Sess) (s1 : State), Started s r 1 2 x s1 ∧ r.payload.length ≠ 0) ∧
    (∃ (r : Req) (s : State) (x : Option Sess) (s1 : State), Started s r 1 3 x s1 ∧ r.payload.length ≠ 8) ∧
    (∃ (r : Req) (s : State) (x : Option Sess) (s1 : State), Started s r 1 4 x s1 ∧ r.payload.length ≠ 1) ∧
    (∃ (r : Req) (s : State) (x : Option Sess) (s1 : State), Started s r 2 1 x s1 ∧ r.payload.length ≠ 2) ∧
    (∃ (r : Req) (s : State) (x : Option Sess) (s1 : State), Started s r 2 2 x s1 ∧ r.payload.length ≠ 32) ∧
    (∃ (r : Req) (s : State) (x : Option Sess) (s1 : State), Started s r 2 3 x s1 ∧ r.payload.length ≠ 0) ∧
    (∃ (r : Req) (s : State) (x : Option Sess) (s1 : State), Started s r 2 4 x s1 ∧ r.payload.length ≠ 3) ∧
    (∃ (r : Req) (s : State) (x : Option Sess) (s1 : State), Started s r 2 5 x s1 ∧ r.payload.length ≠ 0) ∧
    (∃ (r : Req) (s : State) (x : Option Sess) (s1 : State), Started s r 3 1 x s1 ∧ r.payload.length ≠ 6) ∧
    (∃ (r : Req) (s : State) (x : Option Sess) (s1 : State), Started s r 3 2 x s1 ∧ r.payload.length ≠ 12) ∧
    (∃ (r : Req) (s : State) (x : Option Sess) (s1 : State), Started s r 4 3 x s1 ∧ r.payload.length ≠ 2) ∧
    (∃ (r : Req) (s : State) (x : Option Sess) (s1 : State), Started s r 4 6 x s1 ∧ r.payload.length ≠ 6) ∧
    (∃ (r : Req) (s : State) (x : Option Sess) (s1 : State), Started s r 4 7 x s1 ∧ r.payload.length ≠ 5) ∧
    (∃ (r : Req) (s : State) (x : Option Sess) (s1 : State), Started s r 4 8 x s1 ∧ r.payload.length ≠ 7) ∧
    (∃ (r : Req) (s : State) (x : Option Sess) (s1 : State), Started s r 5 3 x s1 ∧ r.payload.length ≠ 3) ∧
    (∃ (r : Req) (s : State) (x : Option Sess) (s1 : State), Started s r 5 4 x s1 ∧ r.payload.length ≠ 26) ∧
    (∃ (r : Req) (s : State) (x : Option Sess) (s1 : State), Started s r 6 1 x s1 ∧ r.payload.length ≠ 4) ∧
    (∃ (r : Req) (s : State) (x : Option Sess) (s1 : State), Started s r 6 2 x s1 ∧ r.payload.length ≠ 10) ∧
    (∃ (r : Req) (s : State) (x : Option Sess) (s1 : State), Started s r 6 3 x s1 ∧ r.payload.length ≠ 5) ∧
    (∃ (r : Req) (s : State) (x : Option Sess) (s1 : State), Started s r 6 4 x s1 ∧ r.payload.length ≠ 2) ∧
    (∃ (r : Req) (s : State) (x : Option Sess) (s1 : State), Started s r 6 5 x s1 ∧ r.payload.length ≠ 8) ∧
    (∃ (r : Req) (s : State) (x : Option Sess) (s1 : State), Started s r 6 6 x s1 ∧ r.payload.length ≠ 2) ∧
    (∃ (r : Req) (s : State) (x : Option Sess) (s1 : State), Started s r 7 1 x s1 ∧ r.payload.length ≠ 2) ∧
    (∃ (r : Req) (s : State) (x : Option Sess) (s1 : State), Started s r 7 2 x s1 ∧ r.payload.length ≠ 1) ∧
    (∃ (r : Req) (s : State) (x : Option Sess) (s1 : State), Started s r 7 3 x s1 ∧ r.payload.length ≠ 6) ∧
    (∃ (r : Req) (s : State) (x : Option Sess) (s1 : State), Started s r 7 4 x s1 ∧ r.payload.length ≠ 0) ∧
    (∃ (r : Req) (s : State) (x : Option Sess) (s1 : State), Started s r 8 1 x s1 ∧ r.payload.length ≠ 32) ∧
    (∃ (r : Req) (s : State) (x : Option Sess) (s1 : State), Started s r 8 3 x s1 ∧ r.payload.length ≠ 0) ∧
    (∃ (r : Req) (s : State) (x : Option Sess) (s1 : State), Started s r 8 4 x s1 ∧ r.payload.length ≠ 196) ∧
    (∃ (r : Req) (s : State) (x : Option Sess) (s1 : State), Started s r 9 1 x s1 ∧ r.payload.length ≠ 4) ∧
    (∃ (r : Req) (s : State) (x : Option Sess) (s1 : State), Started s r 9 3 x s1 ∧ r.payload.length ≠ 5) ∧
    (∃ (r : Req) (s : State) (x : Option Sess) (s1 : State), Started s r 9 4 x s1 ∧ r.payload.length ≠ 6) ∧
    (∃ (r : Req) (s : State) (x : Option Sess) (s1 : State), Started s r 9 5 x s1 ∧ r.payload.length ≠ 0) ∧
    (∃ (r : Req) (s : State) (x : Option Sess) (s1 : State), Started s r 10 5 x s1 ∧ r.payload.length ≠ 0) ∧
    (∃ (r : Req) (s : State) (x : Option Sess) (s1 : State), Started s r 10 6 x s1 ∧ r.payload.length ≠ 0) ∧
    (∃ (r : Req) (s : State) (x : Option Sess) (s1 : State), Started s r 11 1 x s1 ∧ r.payload.length ≠ 0) ∧
    (∃ (r : Req) (s : State) (x : Option Sess) (s1 : State), Started s r 11 2 x s1 ∧ r.payload.length ≠ 2) ∧
    (∃ (r : Req) (s : State) (x : Option Sess) (s1 : State), Started s r 11 3 x s1 ∧ r.payload.length ≠ 0) ∧
    (∃ (r : Req) (s : State) (x : Option Sess) (s1 : State), Started s r 11 6 x s1 ∧ r.payload.length ≠ 1) ∧
    (∃ (r : Req) (s : State) (x : Option Sess) (s1 : State), Started s r 10 1 x s1 ∧ s1.peerToken ⟨rkeyOf r, x, r.payload⟩ = none ∧ r.payload.length ≠ 16) ∧
    (∃ (r : Req) (s : State) (x : Option Sess) (s1 : State), Started s r 10 3 x s1 ∧ s1.peerToken ⟨rkeyOf r, x, r.payload⟩ = none ∧ r.payload.length ≠ 0) :=
  ⟨by exact ⟨rq 1 1 (List.replicate 1 0#8), withCmd live, _, _, started_rq _ 1 1 _ (by decide +kernel) ⟨_, rfl, by decide, by decide +kernel, by decide⟩, by decide⟩,
   by exact ⟨rq 1 2 (List.replicate 1 0#8), withCmd live, _, _, started_rq _ 1 2 _ (by decide +kernel) ⟨_, rfl, by decide, by decide +kernel, by decide⟩, by decide⟩,
   by exact ⟨rq 1 3 (List.replicate 9 0#8), withCmd live, _, _, started_rq _ 1 3 _ (by decide +kernel) ⟨_, rfl, by decide, by decide +kernel, by decide⟩, by decide⟩,
   by exact ⟨rq 1 4 (List.replicate 2 0#8), withCmd live, _, _, started_rq _ 1 4 _ (by decide +kernel) ⟨_, rfl, by decide, by decide +kernel, by decide⟩, by decide⟩,
   by exact ⟨rq 2 1 (List.replicate 3 0#8), withCmd live, _, _, started_rq _ 2 1 _ (by decide +kernel) ⟨_, rfl, by decide, by decide +kernel, by decide⟩, by decide⟩,
   by exact ⟨rq 2 2 (List.replicate 33 0#8), withCmd live, _, _, started_rq _ 2 2 _ (by decide +kernel) ⟨_, rfl, by decide, by decide +kernel, by decide⟩, by decide⟩,
   by exact ⟨rq 2 3 (List.replicate 1 0#8), withCmd live, _, _, started_rq _ 2 3 _ (by decide +kernel) ⟨_, rfl, by decide, by decide +kernel, by decide⟩, by decide⟩,
   by exact ⟨rq 2 4 (List.replicate 4 0#8), withCmd live, _, _, started_rq _ 2 4 _ (by decide +kernel) ⟨_, rfl, by decide, by decide +kernel, by decide⟩, by decide⟩,
   by exact ⟨rq 2 5 (List.replicate 1 0#8), withCmd live, _, _, started_rq _ 2 5 _ (by decide +kernel) ⟨_, rfl, by decide, by decide +kernel, by decide⟩, by decide⟩,
   by exact ⟨rq 3 1 (List.replicate 7 0#8), withCmd live, _, _, started_rq _ 3 1 _ (by decide +kernel) ⟨_, rfl, by decide, by decide +kernel, by decide⟩, by decide⟩,
   by exact ⟨rq 3 2 (List.replicate 13 0#8), withCmd live, _, _, started_rq _ 3 2 _ (by decide +kernel) ⟨_, rfl, by decide, by decide +kernel, by decide⟩, by decide⟩,
   by exact ⟨rq 4 3 (List.replicate 3 0#8), withCmd live, _, _, started_rq _ 4 3 _ (by decide +kernel) ⟨_, rfl, by decide, by decide +kernel, by decide⟩, by decide⟩,
   by exact ⟨rq 4 6 (List.replicate 7 0#8), withCmd live, _, _, started_rq _ 4 6 _ (by decide +kernel) ⟨_, rfl, by decide, by decide +kernel, by decide⟩, by decide⟩,
   by exact ⟨rq 4 7 (List.replicate 6 0#8), withCmd live, _, _, started_rq _ 4 7 _ (by decide +kernel) ⟨_, rfl, by decide, by decide +kernel, by decide⟩, by decide⟩,
   by exact ⟨rq 4 8 (List.replicate 8 0#8), withCmd live, _, _, started_rq _ 4 8 _ (by decide +kernel) ⟨_, rfl, by decide, by decide +kernel, by decide⟩, by decide⟩,
   by exact ⟨rq 5 3 (List.replicate 4 0#8), withCmd live, _, _, started_rq _ 5 3 _ (by decide +kernel) ⟨_, rfl, by decide, by decide +kernel, by decide⟩, by decide⟩,
   by exact ⟨rq 5 4 (List.replicate 27 0#8), withCmd live, _, _, started_rq _ 5 4 _ (by decide +kernel) ⟨_, rfl, by decide, by decide +kernel, by decide⟩, by decide⟩,
   by exact ⟨rq 6 1 (List.replicate 5 0#8), withCmd live, _, _, started_rq _ 6 1 _ (by decide +kernel) ⟨_, rfl, by decide, by decide +kernel, by decide⟩, by decide⟩,
   by exact ⟨rq 6 2 (List.replicate 11 0#8), withCmd live, _, _, started_rq _ 6 2 _ (by decide +kernel) ⟨_, rfl, by decide, by decide +kernel, by decide⟩, by decide⟩,
   by exact ⟨rq 6 3 (List.replicate 6 0#8), withCmd live, _, _, started_rq _ 6 3 _ (by decide +kernel) ⟨_, rfl, by decide, by decide +kernel, by decide⟩, by decide⟩,
   by exact ⟨rq 6 4 (List.replicate 3 0#8), withCmd live, _, _, started_rq _ 6 4 _ (by decide +kernel) ⟨_, rfl, by decide, by decide +kernel, by decide⟩, by decide⟩,
   by exact ⟨rq 6 5 (List.replicate 9 0#8), withCmd live, _, _, started_rq _ 6 5 _ (by decide +kernel) ⟨_, rfl, by decide, by decide +kernel, by decide⟩, by decide⟩,
   by exact ⟨rq 6 6 (List.replicate 3 0#8), withCmd live, _, _, started_rq _ 6 6 _ (by decide +kernel) ⟨_, rfl, by decide, by decide +kernel, by decide⟩, by decide⟩,
   by exact ⟨rq 7 1 (List.replicate 3 0#8), withCmd live, _, _, started_rq _ 7 1 _ (by decide +kernel) ⟨_, rfl, by decide, by decide +kernel, by decide⟩, by decide⟩,
   by exact ⟨rq 7 2 (List.replicate 2 0#8), withCmd live, _, _, started_rq _ 7 2 _ (by decide +kernel) ⟨_, rfl, by decide, by decide +kernel, by decide⟩, by decide⟩,
   by exact ⟨rq 7 3 (List.replicate 7 0#8), withCmd live, _, _, started_rq _ 7 3 _ (by decide +kernel) ⟨_, rfl, by decide, by decide +kernel, by decide⟩, by decide⟩,
   by exact ⟨rq 7 4 (List.replicate 1 0#8), withCmd live, _, _, started_rq _ 7 4 _ (by decide +kernel) ⟨_, rfl, by decide, by decide +kernel, by decide⟩, by decide⟩,
   by exact ⟨rq 8 1 (List.replicate 33 0#8), withCmd live, _, _, started_rq _ 8 1 _ (by decide +kernel) ⟨_, rfl, by decide, by decide +kernel, by decide⟩, by decide⟩,
   by exact ⟨rq 8 3 (List.replicate 1 0#8), withCmd live, _, _, started_rq _ 8 3 _ (by decide +kernel) ⟨_, rfl, by decide, by decide +kernel, by decide⟩, by decide⟩,
   by exact ⟨rq 8 4 (List.replicate 197 0#8), withCmd live, _, _, started_rq _ 8 4 _ (by decide +kernel) ⟨_, rfl, by decide, by decide +kernel, by decide⟩, by decide⟩,
   by exact ⟨rq 9 1 (List.replicate 5 0#8), withCmd live, _, _, started_rq _ 9 1 _ (by decide +kernel) ⟨_, rfl, by decide, by decide +kernel, by decide⟩, by decide⟩,
   by exact ⟨rq 9 3 (List.replicate 6 0#8), withCmd live, _, _, started_rq _ 9 3 _ (by decide +kernel) ⟨_, rfl, by decide, by decide +kernel, by decide⟩, by decide⟩,
   by exact ⟨rq 9 4 (List.replicate 7 0#8), withCmd live, _, _, started_rq _ 9 4 _ (by decide +kernel) ⟨_, rfl, by decide, by decide +kernel, by decide⟩, by decide⟩,
   by exact ⟨rq 9 5 (List.replicate 1 0#8), withCmd live, _, _, started_rq _ 9 5 _ (by decide +kernel) ⟨_, rfl, by decide, by decide +kernel, by decide⟩, by decide⟩,
   by exact ⟨rq 10 5 (List.replicate 1 0#8), withCmd live, _, _, started_rq _ 10 5 _ (by decide +kernel) ⟨_, rfl, by decide, by decide +kernel, by decide⟩, by decide⟩,
   by exact ⟨rq 10 6 (List.replicate 1 0#8), withCmd live, _, _, started_rq _ 10 6 _ (by decide +kernel) ⟨_, rfl, by decide, by decide +kernel, by decide⟩, by decide⟩,
   by exact ⟨rq 11 1 (List.replicate 1 0#8), withCmd live, _, _, started_rq _ 11 1 _ (by decide +kernel) ⟨_, rfl, by decide, by decide +kernel, by decide⟩, by decide⟩,
   by exact ⟨rq 11 2 (List.replicate 3 0#8), withCmd live, _, _, started_rq _ 11 2 _ (by decide +kernel) ⟨_, rfl, by decide, by decide +kernel, by decide⟩, by decide⟩,
   by exact ⟨rq 11 3 (List.replicate 1 0#8), withCmd live, _, _, started_rq _ 11 3 _ (by decide +kernel) ⟨_, rfl, by decide, by decide +kernel, by decide⟩, by decide⟩,
   by exact ⟨rqp (List.replicate 2 0#8), withPeer live, _, _, started_rqp _ 11 6 _ (by decide +kernel) ⟨_, rfl, by decide⟩, by decide⟩,
   by exact ⟨rq 10 1 (List.replicate 17 0#8), withCmd live, _, _, started_rq _ 10 1 _ (by decide +kernel) ⟨_, rfl, by decide, by decide +kernel, by decide⟩, by decide +kernel, by decide⟩,
   by exact ⟨rq 10 3 (List.replicate 17 0#8), withCmd live, _, _, started_rq _ 10 3 _ (by decide +kernel) ⟨_, rfl, by decide, by decide +kernel, by decide⟩, by decide +kernel, by decide⟩⟩

theorem witness_SequenceNumbersAreClassifiedByTheHalfRange :
    (live.findEp 3 0 = none) ∧
    (∃ (s : State) (tp : Nat) (ep : Nat) (seq : Nat) (e : EndPt), (s.findEp tp ep = some e) ∧ (e.last < 65536) ∧ (seq < 65536) ∧ (∃ d, 1 ≤ d ∧ d ≤ 32767 ∧ seq = (e.last + d) % 65536)) ∧
    (∃ (s : State) (tp : Nat) (ep : Nat) (seq : Nat) (e : EndPt), (s.findEp tp ep = some e) ∧ (e.last < 65536) ∧ (seq < 65536) ∧ (∃ d, d ≤ 63 ∧ e.last = (seq + d) % 65536) ∧ ((s.findOutst ⟨tp, ep, seq⟩).isSome = true)) ∧
    (∃ (s : State) (tp : Nat) (ep : Nat) (seq : Nat) (e : EndPt) (b : List Byte), (s.findEp tp ep = some e) ∧ (e.last < 65536) ∧ (seq < 65536) ∧ (∃ d, d ≤ 63 ∧ e.last = (seq + d) % 65536) ∧ (s.findOutst ⟨tp, ep, seq⟩ = none) ∧ (e.cache.find? (fun x => x.1 == seq) = some (seq, b))) ∧
    (∃ (s : State) (tp : Nat) (ep : Nat) (seq : Nat) (e : EndPt), (s.findEp tp ep = some e) ∧ (e.last < 65536) ∧ (seq < 65536) ∧ (∃ d, d ≤ 63 ∧ e.last = (seq + d) % 65536) ∧ (s.findOutst ⟨tp, ep, seq⟩ = none) ∧ (e.cache.find? (fun x => x.1 == seq) = none)) ∧
    (∃ (s : State) (tp : Nat) (ep : Nat) (seq : Nat) (e : EndPt), (s.findEp tp ep = some e) ∧ (e.last < 65536) ∧ (seq < 65536) ∧ (∃ d, 64 ≤ d ∧ d ≤ 32768 ∧ e.last = (seq + d) % 65536)) :=
  ⟨by decide,
   by exact ⟨{ withCmd live with cmd := { (withCmd live).cmd with eps := [({ tp := 3, ep := 0, last := 7, stamp := 1, cache := [(7, [1#8])] } : EndPt)] } }, 3, 0, 9, ({ tp := 3, ep := 0, last := 7, stamp := 1, cache := [(7, [1#8])] } : EndPt), rfl, by decide +kernel, by decide +kernel, ⟨2, by decide, by decide, by decide⟩⟩,
   by exact ⟨{ withCmd live with cmd := { (withCmd live).cmd with eps := [({ tp := 3, ep := 0, last := 7, stamp := 1, cache := [(7, [1#8])] } : EndPt)], outst := [{ tp := 3, ep := 0, seq := 7, src := 0, grp := 1, op := 1, sess := 0, accepted := false }] } }, 3, 0, 7, ({ tp := 3, ep := 0, last := 7, stamp := 1, cache := [(7, [1#8])] } : EndPt), rfl, by decide +kernel, by decide +kernel, ⟨0, by decide, by decide⟩, by decide +kernel⟩,
   by exact ⟨{ withCmd live with cmd := { (withCmd live).cmd with eps := [({ tp := 3, ep := 0, last := 7, stamp := 1, cache := [(7, [1#8])] } : EndPt)] } }, 3, 0, 7, ({ tp := 3, ep := 0, last := 7, stamp := 1, cache := [(7, [1#8])] } : EndPt), [1#8], rfl, by decide +kernel, by decide +kernel, ⟨0, by decide, by decide⟩, by decide +kernel, by decide +kernel⟩,
   by exact ⟨{ withCmd live with cmd := { (withCmd live).cmd with eps := [({ tp := 3, ep := 0, last := 7, stamp := 1, cache := [(7, [1#8])] } : EndPt)] } }, 3, 0, 6, ({ tp := 3, ep := 0, last := 7, stamp := 1, cache := [(7, [1#8])] } : EndPt), rfl, by decide +kernel, by decide +kernel, ⟨1, by decide, by decide⟩, by decide +kernel, by decide +kernel⟩,
   by exact ⟨{ withCmd live with cmd := { (withCmd live).cmd with eps := [({ tp := 3, ep := 0, last := 200, stamp := 1, cache := [(7, [1#8])] } : EndPt)] } }, 3, 0, 7, ({ tp := 3, ep := 0, last := 200, stamp := 1, cache := [(7, [1#8])] } : EndPt), rfl, by decide +kernel, by decide +kernel, ⟨193, by decide, by decide, by decide⟩⟩⟩

theorem witness_ARequestIsAnsweredOnce : live.findOutst ⟨3, 0, 7⟩ = none := by decide

theorem witness_APulseIsLatchedForItsTargets :
    (¬(live.flag F.EVT_CTRL_EN = true ∧ sourceListed 1 = true ∧ live.flag (F.EVT_SRC_CFG_EN 1) = true)) ∧
    (∃ (s t : State) (m : Bool), (s.flag F.EVT_CTRL_EN = true ∧ sourceListed 1 = true ∧ s.flag (F.EVT_SRC_CFG_EN 1) = true) ∧ s.latchPulse 1 = (t, m)) :=
  ⟨by decide +kernel,
   by exact ⟨(live.setF F.EVT_CTRL_EN 1).setF (F.EVT_SRC_CFG_EN 1) 1, _, _, by decide +kernel, rfl⟩⟩

theorem witness_IntegerInstructionsGiveTheirResults : Issues .panA demo demo ∧ (demo.core .panA).rd 1 ≠ 0#32 ∧ (demo.core .panA).rd 0 = 0#32 := by exact ⟨issues_demo, by decide, by decide⟩

theorem witness_BranchesAndJumpsGoToTheirTargets :
    (Issues .panA demo demo ∧ (demo.core .panA).cond 1 = true) ∧
    ((demo.core .panA).cond 0 = false) ∧
    (((demo.core .panA).rd 2).toNat % 4 = 0) ∧
    (((demo.core .panA).rd 1).toNat % 4 ≠ 0) :=
  ⟨by exact ⟨issues_demo, by decide⟩,
   by decide,
   by decide,
   by decide⟩

theorem witness_BitStackAndBlockInstructionsActOnBitst :
    ((CoreId.panA).pan.isSome ∧ (demo.core .panA).depth < 16) ∧
    ((((demo.core .panA).setStk 1 1).depth ≠ 0)) ∧
    (16 ≤ ((demo.core .panA).setStk 1 16).depth) ∧
    ((demo.core .panA).depth = 0) ∧
    (1 ≤ (15#16).toNat ∧ (15#16).toNat ≤ 15) ∧
    (15 < (16#16).toNat) ∧
    (Issues .panA demo demo ∧ (demo.core .panA).pl ≠ 0) ∧
    (((demo.core .panA).setPsr 17 16 0).pl = 0) :=
  ⟨by decide,
   by decide,
   by decide,
   by decide,
   by decide,
   by decide,
   by exact ⟨issues_demo, by decide⟩,
   by decide⟩

theorem witness_SystemInstructionsReadWriteAndReturn :
    (srLevel 7 ≤ ((demo.core .panA).setPsr 17 16 2).pl) ∧
    (((demo.core .panA).setPsr 17 16 0).pl < srLevel 2) ∧
    (srLevel 7 ≤ ((demo.core .panA).setPsr 17 16 2).pl) ∧
    (srLevel (8 : Fin 32).val ≤ (demo.core .panA).pl) ∧
    (Issues .panA demo demo ∧ ((demo.core .panA).pl ≠ 0 ∧ ¬((demo.core .panA).pl = 1 ∧ bits (demo.core .panA).xpsr.toNat 17 16 = 2) ∧ bits (demo.core .panA).xpsr.toNat 17 16 ≠ 3)) ∧
    (Issues .panA demo demo ∧ demo.flag (F.DBG_CORE_CTRL_BRKHALT 0) = false) ∧
    ((demo.setF (F.DBG_CORE_CTRL_BRKHALT 0) 1).flag (F.DBG_CORE_CTRL_BRKHALT 0) = true) ∧
    (fkWord .panA (0xFFFFFFFF#32).toNat = none) :=
  ⟨by decide,
   by decide,
   by decide,
   by decide,
   by exact ⟨issues_demo, by decide⟩,
   by exact ⟨issues_demo, by decide⟩,
   by decide,
   by rfl⟩

theorem witness_ExceptionEntrySavesTheCoreAndGoesToTheVector :
    ((((demo.core .panA).setPsr 19 19 1).psrBits 19 19) = 1) ∧
    ((demo.core .panA).psrBits 19 19 = 0) ∧
    (let k := ((demo.core .panA).setPsr 18 18 1).sync .panA demo.now
    k.run = .running ∧ k.psrBits 18 18 = 1 ∧ k.psrBits 19 19 = 0 ∧ k.abn = 0) :=
  ⟨by decide,
   by decide,
   by decide⟩

theorem witness_FlagsOfAdditionsSubtractionsAndShifts : 63 ≤ 63 ∧ 31 < 32 := by decide

theorem witness_GeneralRegistersReadBackAndWZeroIsZero : (31 : Fin 32) ≠ 0 := by decide

/-- Pan A as in `demo`, with W2 = 0x08120000 in its own D-TCM and one bit on the bit stack. -/
def demoMem : State :=
  demo.setCore .panA { demo.core .panA with w := (demo.core .panA).w.set 2 0x08120000#32, bitst := 0x00010001#32 }
/-- `demoMem` with address translation on and no walk: one entry, for the page of the PC. -/
def demoTlb : State :=
  demoMem.setCore .panA { demoMem.core .panA with mctrl := 3#32, tlb := [⟨(demoMem.core .panA).pc.toNat / 0x1000, 1, (demoMem.core .panA).pc.toNat / 0x1000, 0, true, true, true, false, true⟩] }
/-- The same with W2 = 0x90000000, an address that does not exist. -/
def demoFar : State :=
  demo.setCore .panA { demo.core .panA with w := (demo.core .panA).w.set 2 0x90000000#32 }
/-- `demoMem` with BA = 1. -/
def demoBa : State := demoMem.setCore .panA ((demoMem.core .panA).setBa true)
theorem issues_demoBa : Issues .panA demoBa demoBa := ⟨by decide, .inr (by decide), ⟨0, by decide⟩, by decide⟩
theorem issues_demoMem : Issues .panA demoMem demoMem := ⟨by decide, .inr (by decide), ⟨0, by decide⟩, by decide⟩
theorem noWp_demoMem : demoMem.noWp .panA := by unfold State.noWp; decide
theorem read_demoMem : demoMem.busRead (demoMem.whoCore .panA) 0x08120000 4 = (demoMem, .ok 0) := by decide +kernel

theorem witness_LoadsWriteTheValueRead :
    (∃ (c : CoreId) (rd ra : Fin 32) (imm : BitVec 16) (s s0 : State), Issues c s s0 ∧ ((s0.core c).rd ra + imm.signExtend 32).toNat % 4 = 0 ∧
    ∃ s1 pa, s0.translate c ((s0.core c).rd ra + imm.signExtend 32).toNat .load = (s1, .ok pa) ∧
    ∃ s2 v, s1.busRead (s1.whoCore c) pa 4 = (s2, .ok v) ∧ s2.noWp c) ∧
    (∃ (c : CoreId) (rd ra : Fin 32) (imm : BitVec 16) (s s0 : State), Issues c s s0 ∧ ((s0.core c).rd ra + imm.signExtend 32).toNat % 2 = 0 ∧
    ∃ s1 pa, s0.translate c ((s0.core c).rd ra + imm.signExtend 32).toNat .load = (s1, .ok pa) ∧
    ∃ s2 v, s1.busRead (s1.whoCore c) pa 2 = (s2, .ok v) ∧ s2.noWp c) ∧
    (∃ (c : CoreId) (rd ra : Fin 32) (imm : BitVec 16) (s s0 : State), Issues c s s0 ∧ ((s0.core c).rd ra + imm.signExtend 32).toNat % 2 = 0 ∧
    ∃ s1 pa, s0.translate c ((s0.core c).rd ra + imm.signExtend 32).toNat .load = (s1, .ok pa) ∧
    ∃ s2 v, s1.busRead (s1.whoCore c) pa 2 = (s2, .ok v) ∧ s2.noWp c) ∧
    (∃ (c : CoreId) (rd ra : Fin 32) (imm : BitVec 16) (s s0 : State), Issues c s s0 ∧ ((s0.core c).rd ra + imm.signExtend 32).toNat % 1 = 0 ∧
    ∃ s1 pa, s0.translate c ((s0.core c).rd ra + imm.signExtend 32).toNat .load = (s1, .ok pa) ∧
    ∃ s2 v, s1.busRead (s1.whoCore c) pa 1 = (s2, .ok v) ∧ s2.noWp c) ∧
    (∃ (c : CoreId) (rd ra : Fin 32) (imm : BitVec 16) (s s0 : State), Issues c s s0 ∧ ((s0.core c).rd ra + imm.signExtend 32).toNat % 1 = 0 ∧
    ∃ s1 pa, s0.translate c ((s0.core c).rd ra + imm.signExtend 32).toNat .load = (s1, .ok pa) ∧
    ∃ s2 v, s1.busRead (s1.whoCore c) pa 1 = (s2, .ok v) ∧ s2.noWp c) ∧
    (∃ (c : CoreId) (rd ra : Fin 32) (imm : BitVec 16) (s s0 : State), Issues c s s0 ∧ ((s0.core c).ea ra imm).toNat % 4 = 0 ∧
    ∃ s1 pa, s0.translate c ((s0.core c).ea ra imm).toNat .load = (s1, .ok pa) ∧ memKind pa = .dtcm .a ∧
    s1.islandUp (addrIsland pa) = true ∧ eccHits s1.ecc (s1.place pa) 4 = [] ∧ s1.noWp c) ∧
    (∃ (c : CoreId) (rd ra : Fin 32) (imm : BitVec 16) (s s0 : State), Issues c s s0 ∧ ∃ a, a = ((s0.core c).ea ra imm).toNat ∧ a % 4 = 0 ∧ bit (s0.core c).mctrl.toNat 0 = false ∧ memKind a = .dtcm .a ∧
    s0.islandUp (addrIsland a) = true ∧ s0.ecc = [] ∧ s0.noWp c) ∧
    (∃ (c : CoreId) (rd ra : Fin 32) (imm : BitVec 16) (s s0 : State), Issues c s s0 ∧ ((s0.core c).ea ra imm).toNat % 2 = 0 ∧
    ∃ s1 pa, s0.translate c ((s0.core c).ea ra imm).toNat .load = (s1, .ok pa) ∧ memKind pa = .dtcm .a ∧
    s1.islandUp (addrIsland pa) = true ∧ eccHits s1.ecc (s1.place pa) 2 = [] ∧ s1.noWp c) ∧
    (∃ (c : CoreId) (rd ra : Fin 32) (imm : BitVec 16) (s s0 : State), Issues c s s0 ∧ ∃ a, a = ((s0.core c).ea ra imm).toNat ∧ a % 2 = 0 ∧ bit (s0.core c).mctrl.toNat 0 = false ∧ memKind a = .dtcm .a ∧
    s0.islandUp (addrIsland a) = true ∧ s0.ecc = [] ∧ s0.noWp c) ∧
    (∃ (c : CoreId) (rd ra : Fin 32) (imm : BitVec 16) (s s0 : State), Issues c s s0 ∧ ((s0.core c).ea ra imm).toNat % 2 = 0 ∧
    ∃ s1 pa, s0.translate c ((s0.core c).ea ra imm).toNat .load = (s1, .ok pa) ∧ memKind pa = .dtcm .a ∧
    s1.islandUp (addrIsland pa) = true ∧ eccHits s1.ecc (s1.place pa) 2 = [] ∧ s1.noWp c) ∧
    (∃ (c : CoreId) (rd ra : Fin 32) (imm : BitVec 16) (s s0 : State), Issues c s s0 ∧ ∃ a, a = ((s0.core c).ea ra imm).toNat ∧ a % 2 = 0 ∧ bit (s0.core c).mctrl.toNat 0 = false ∧ memKind a = .dtcm .a ∧
    s0.islandUp (addrIsland a) = true ∧ s0.ecc = [] ∧ s0.noWp c) ∧
    (∃ (c : CoreId) (rd ra : Fin 32) (imm : BitVec 16) (s s0 : State), Issues c s s0 ∧ ((s0.core c).ea ra imm).toNat % 1 = 0 ∧
    ∃ s1 pa, s0.translate c ((s0.core c).ea ra imm).toNat .load = (s1, .ok pa) ∧ memKind pa = .dtcm .a ∧
    s1.islandUp (addrIsland pa) = true ∧ eccHits s1.ecc (s1.place pa) 1 = [] ∧ s1.noWp c) ∧
    (∃ (c : CoreId) (rd ra : Fin 32) (imm : BitVec 16) (s s0 : State), Issues c s s0 ∧ ∃ a, a = ((s0.core c).ea ra imm).toNat ∧ a % 1 = 0 ∧ bit (s0.core c).mctrl.toNat 0 = false ∧ memKind a = .dtcm .a ∧
    s0.islandUp (addrIsland a) = true ∧ s0.ecc = [] ∧ s0.noWp c) ∧
    (∃ (c : CoreId) (rd ra : Fin 32) (imm : BitVec 16) (s s0 : State), Issues c s s0 ∧ ((s0.core c).ea ra imm).toNat % 1 = 0 ∧
    ∃ s1 pa, s0.translate c ((s0.core c).ea ra imm).toNat .load = (s1, .ok pa) ∧ memKind pa = .dtcm .a ∧
    s1.islandUp (addrIsland pa) = true ∧ eccHits s1.ecc (s1.place pa) 1 = [] ∧ s1.noWp c) ∧
    (∃ (c : CoreId) (rd ra : Fin 32) (imm : BitVec 16) (s s0 : State), Issues c s s0 ∧ ∃ a, a = ((s0.core c).ea ra imm).toNat ∧ a % 1 = 0 ∧ bit (s0.core c).mctrl.toNat 0 = false ∧ memKind a = .dtcm .a ∧
    s0.islandUp (addrIsland a) = true ∧ s0.ecc = [] ∧ s0.noWp c) ∧
    (((demo.core .panA).ea 1 0).toNat % 4 ≠ 0) ∧
    (∃ s0 s1 : State, Issues .panA demoTlb s0 ∧ ((s0.core .panA).ea 2 0#16).toNat % 4 = 0 ∧ s0.translate .panA ((s0.core .panA).ea 2 0#16).toNat .load = (s1, .error 1)) ∧
    (∃ s2, demoFar.translate .panA ((demoFar.core .panA).ea 2 0#16).toNat .load = (demoFar, .ok 0x90000000) ∧ Issues .panA demoFar demoFar ∧
    demoFar.busRead (demoFar.whoCore .panA) 0x90000000 4 = (s2, .busErr)) ∧
    (memKind 0x08000000 = .itcm .a) :=
  ⟨by exact ⟨.panA, 1, 2, 0, demoMem, demoMem, issues_demoMem, by decide, _, _, rfl, demoMem, 0, by decide +kernel, noWp_demoMem⟩,
   by exact ⟨.panA, 1, 2, 0, demoMem, demoMem, issues_demoMem, by decide, _, _, rfl, demoMem, 0, by decide +kernel, noWp_demoMem⟩,
   by exact ⟨.panA, 1, 2, 0, demoMem, demoMem, issues_demoMem, by decide, _, _, rfl, demoMem, 0, by decide +kernel, noWp_demoMem⟩,
   by exact ⟨.panA, 1, 2, 0, demoMem, demoMem, issues_demoMem, by decide, _, _, rfl, demoMem, 0, by decide +kernel, noWp_demoMem⟩,
   by exact ⟨.panA, 1, 2, 0, demoMem, demoMem, issues_demoMem, by decide, _, _, rfl, demoMem, 0, by decide +kernel, noWp_demoMem⟩,
   by exact ⟨.panA, 1, 2, 0, demoMem, demoMem, issues_demoMem, by decide, _, _, rfl, by decide, by decide, by decide, noWp_demoMem⟩,
   by exact ⟨.panA, 1, 2, 0, demoMem, demoMem, issues_demoMem, _, rfl, by decide, by decide, by decide, by decide, by decide, noWp_demoMem⟩,
   by exact ⟨.panA, 1, 2, 0, demoMem, demoMem, issues_demoMem, by decide, _, _, rfl, by decide, by decide, by decide, noWp_demoMem⟩,
   by exact ⟨.panA, 1, 2, 0, demoMem, demoMem, issues_demoMem, _, rfl, by decide, by decide, by decide, by decide, by decide, noWp_demoMem⟩,
   by exact ⟨.panA, 1, 2, 0, demoMem, demoMem, issues_demoMem, by decide, _, _, rfl, by decide, by decide, by decide, noWp_demoMem⟩,
   by exact ⟨.panA, 1, 2, 0, demoMem, demoMem, issues_demoMem, _, rfl, by decide, by decide, by decide, by decide, by decide, noWp_demoMem⟩,
   by exact ⟨.panA, 1, 2, 0, demoMem, demoMem, issues_demoMem, by decide, _, _, rfl, by decide, by decide, by decide, noWp_demoMem⟩,
   by exact ⟨.panA, 1, 2, 0, demoMem, demoMem, issues_demoMem, _, rfl, by decide, by decide, by decide, by decide, by decide, noWp_demoMem⟩,
   by exact ⟨.panA, 1, 2, 0, demoMem, demoMem, issues_demoMem, by decide, _, _, rfl, by decide, by decide, by decide, noWp_demoMem⟩,
   by exact ⟨.panA, 1, 2, 0, demoMem, demoMem, issues_demoMem, _, rfl, by decide, by decide, by decide, by decide, by decide, noWp_demoMem⟩,
   by decide,
   by exact ⟨_, _, ⟨by decide, .inr (by decide), ⟨0, rfl⟩, by decide⟩, by decide +kernel, Prod.ext rfl (by decide +kernel)⟩,
   by exact ⟨demoFar, rfl, ⟨by decide, .inr (by decide), ⟨0, by decide⟩, by decide⟩, by decide +kernel⟩,
   by decide⟩

theorem witness_StoresWriteTheBytesAndNothingElse :
    (∃ (c : CoreId) (rd ra : Fin 32) (imm : BitVec 16) (s s0 : State), Issues c s s0 ∧ ((s0.core c).rd ra + imm.signExtend 32).toNat % 4 = 0 ∧
    ∃ s1 pa, s0.translate c ((s0.core c).rd ra + imm.signExtend 32).toNat .store = (s1, .ok pa) ∧
    ∃ sb, sb = (match c.pan with | some p => s1.critRead (stbStore p) 4 | none => s1) ∧
    ∃ s2, s2 = sb.busWrite (sb.whoCore c) pa 4 (((s0.core c).rd rd).toNat % 256 ^ 4) ∧ s2.noWp c) ∧
    (∃ (c : CoreId) (rd ra : Fin 32) (imm : BitVec 16) (s s0 : State), Issues c s s0 ∧ ((s0.core c).rd ra + imm.signExtend 32).toNat % 2 = 0 ∧
    ∃ s1 pa, s0.translate c ((s0.core c).rd ra + imm.signExtend 32).toNat .store = (s1, .ok pa) ∧
    ∃ sb, sb = (match c.pan with | some p => s1.critRead (stbStore p) 4 | none => s1) ∧
    ∃ s2, s2 = sb.busWrite (sb.whoCore c) pa 2 (((s0.core c).rd rd).toNat % 256 ^ 2) ∧ s2.noWp c) ∧
    (∃ (c : CoreId) (rd ra : Fin 32) (imm : BitVec 16) (s s0 : State), Issues c s s0 ∧ ((s0.core c).rd ra + imm.signExtend 32).toNat % 1 = 0 ∧
    ∃ s1 pa, s0.translate c ((s0.core c).rd ra + imm.signExtend 32).toNat .store = (s1, .ok pa) ∧
    ∃ sb, sb = (match c.pan with | some p => s1.critRead (stbStore p) 4 | none => s1) ∧
    ∃ s2, s2 = sb.busWrite (sb.whoCore c) pa 1 (((s0.core c).rd rd).toNat % 256 ^ 1) ∧ s2.noWp c) ∧
    (∃ s0 s1 : State, Issues .panA demoTlb s0 ∧ ((s0.core .panA).ea 2 0#16).toNat % 4 = 0 ∧ s0.translate .panA ((s0.core .panA).ea 2 0#16).toNat .store = (s1, .error 1)) ∧
    (memWf demo.mem = true ∧ memKind 0x08000000 = .itcm .a ∧ demo.islandUp (addrIsland 0x08000000) = true) :=
  ⟨by exact ⟨.panA, 1, 2, 0, demoMem, demoMem, issues_demoMem, by decide, _, _, rfl, _, rfl, _, rfl, by unfold State.noWp; decide +kernel⟩,
   by exact ⟨.panA, 1, 2, 0, demoMem, demoMem, issues_demoMem, by decide, _, _, rfl, _, rfl, _, rfl, by unfold State.noWp; decide +kernel⟩,
   by exact ⟨.panA, 1, 2, 0, demoMem, demoMem, issues_demoMem, by decide, _, _, rfl, _, rfl, _, rfl, by unfold State.noWp; decide +kernel⟩,
   by exact ⟨_, _, ⟨by decide, .inr (by decide), ⟨0, rfl⟩, by decide⟩, by decide +kernel, Prod.ext rfl (by decide +kernel)⟩,
   by decide⟩

theorem witness_ImageInstructionsReadAndWriteOneBit :
    (∃ (c : CoreId) (p : PanId) (addr : BitVec 22) (s s0 : State), c.pan = some p ∧ Issues c s s0 ∧ ∃ s1 v, s0.memRead (dtcmBase p + addr.toNat / 8) 1 = (s1, .ok v) ∧ s1.noWp c) ∧
    (∃ (c : CoreId) (p : PanId) (addr : BitVec 22) (s s0 : State), c.pan = some p ∧ Issues c s s0 ∧ ∃ s1 v, s0.memRead (dtcmBase p + addr.toNat / 8) 1 = (s1, .ok v) ∧ s1.noWp c) ∧
    (∃ (c : CoreId) (p : PanId) (addr : BitVec 22) (s s0 : State), c.pan = some p ∧ Issues c s s0 ∧ ∃ s1 v, s0.memRead (dtcmBase p + addr.toNat / 8) 1 = (s1, .ok v) ∧ s1.noWp c) ∧
    (∃ (c : CoreId) (p : PanId) (addr : BitVec 22) (s s0 : State), c.pan = some p ∧ Issues c s s0 ∧ ∃ s1 v, s0.memRead (dtcmBase p + addr.toNat / 8) 1 = (s1, .ok v) ∧ s1.noWp c) ∧
    (∃ (c : CoreId) (p : PanId) (addr : BitVec 22) (s s0 : State), c.pan = some p ∧ Issues c s s0 ∧ ∃ s1 v, s0.memRead (dtcmBase p + addr.toNat / 8) 1 = (s1, .ok v) ∧ s1.noWp c) ∧
    (∃ (c : CoreId) (p : PanId) (addr : BitVec 22) (s s0 : State), c.pan = some p ∧ Issues c s s0 ∧ ∃ s1 v, s0.memRead (dtcmBase p + addr.toNat / 8) 1 = (s1, .ok v) ∧ s1.noWp c) ∧
    (∃ (c : CoreId) (p : PanId) (addr : BitVec 22) (s s0 : State), c.pan = some p ∧ Issues c s s0 ∧ ∃ s1 v, s0.memRead (dtcmBase p + addr.toNat / 8) 1 = (s1, .ok v) ∧ s1.noWp c) ∧
    (∃ (c : CoreId) (p : PanId) (addr : BitVec 22) (s s0 : State), c.pan = some p ∧ Issues c s s0 ∧ ¬((s0.core c).pl = 0 ∧ (addr.toNat ≤ 0x0FFFFF ∨ 0x380000 ≤ addr.toNat)) ∧ ∃ s1 v, s0.memRead (dtcmBase p + addr.toNat / 8) 1 = (s1, .ok v) ∧ ∃ s2, s2 = s1.imgPut p addr.toNat ((s0.core c).ba) ∧ s2.noWp c) ∧
    (∃ (c : CoreId) (p : PanId) (addr : BitVec 22) (s s0 : State), c.pan = some p ∧ Issues c s s0 ∧ ¬((s0.core c).pl = 0 ∧ (addr.toNat ≤ 0x0FFFFF ∨ 0x380000 ≤ addr.toNat)) ∧ (s0.core c).ba = true ∧ ∃ s1 v, s0.memRead (dtcmBase p + addr.toNat / 8) 1 = (s1, .ok v) ∧ ∃ s2, s2 = s1.imgPut p addr.toNat (true) ∧ s2.noWp c) ∧
    (∃ (c : CoreId) (p : PanId) (addr : BitVec 22) (s s0 : State), c.pan = some p ∧ Issues c s s0 ∧ ¬((s0.core c).pl = 0 ∧ (addr.toNat ≤ 0x0FFFFF ∨ 0x380000 ≤ addr.toNat)) ∧ (s0.core c).ba = true ∧ ∃ s1 v, s0.memRead (dtcmBase p + addr.toNat / 8) 1 = (s1, .ok v) ∧ ∃ s2, s2 = s1.imgPut p addr.toNat (false) ∧ s2.noWp c) ∧
    ((demo.core .panA).ba = false ∧ (demo.core .panA).pl ≠ 0) ∧
    (∃ (c : CoreId) (p : PanId) (addr : BitVec 22) (s s0 : State), c.pan = some p ∧ Issues c s s0 ∧ addr.toNat < 0x80000 ∧ ∃ s1 v, s0.memRead (dtcmBase p + addr.toNat / 8) 1 = (s1, .ok v) ∧ ∃ s2 w, s1.memRead (dtcmBase p + (addr.toNat + 0x80000) / 8) 1 = (s2, .ok w) ∧ s2.noWp c) ∧
    (0x80000 ≤ (0x80000#22).toNat) ∧
    (∃ (c : CoreId) (p : PanId) (addr : BitVec 22) (s s0 : State), c.pan = some p ∧ Issues c s s0 ∧ ¬((s0.core c).pl = 0 ∧ (addr.toNat ≤ 0x0FFFFF ∨ 0x380000 ≤ addr.toNat)) ∧ ∃ s1 v, s0.memRead (dtcmBase p + addr.toNat / 8) 1 = (s1, .ok v) ∧ ∃ s2, s2 = s1.imgPut p addr.toNat (s1.core c).ba ∧ s2.noWp c) ∧
    ((0x0FFFFF#22).toNat ≤ 0x0FFFFF ∧ 0x380000 ≤ (0x380000#22).toNat ∧ ((demo.core .panA).setPsr 17 16 0).pl = 0) ∧
    ((0x3FFFFF : Nat) < 2 ^ 22 ∧ demo.islandUp (addrIsland (imgByte .b 0x3FFFFF)) = true) :=
  ⟨by exact ⟨.panA, .a, 0x120007#22, demoMem, demoMem, rfl, issues_demoMem, demoMem, 0, by decide +kernel, noWp_demoMem⟩,
   by exact ⟨.panA, .a, 0x120007#22, demoMem, demoMem, rfl, issues_demoMem, demoMem, 0, by decide +kernel, noWp_demoMem⟩,
   by exact ⟨.panA, .a, 0x120007#22, demoMem, demoMem, rfl, issues_demoMem, demoMem, 0, by decide +kernel, noWp_demoMem⟩,
   by exact ⟨.panA, .a, 0x120007#22, demoMem, demoMem, rfl, issues_demoMem, demoMem, 0, by decide +kernel, noWp_demoMem⟩,
   by exact ⟨.panA, .a, 0x120007#22, demoMem, demoMem, rfl, issues_demoMem, demoMem, 0, by decide +kernel, noWp_demoMem⟩,
   by exact ⟨.panA, .a, 0x120007#22, demoMem, demoMem, rfl, issues_demoMem, demoMem, 0, by decide +kernel, noWp_demoMem⟩,
   by exact ⟨.panA, .a, 0x120007#22, demoMem, demoMem, rfl, issues_demoMem, demoMem, 0, by decide +kernel, noWp_demoMem⟩,
   by exact ⟨.panA, .a, 0x120007#22, demoMem, demoMem, rfl, issues_demoMem, by decide, _, 0, (by decide +kernel : _ = (demoMem, _)), _, rfl, by unfold State.noWp; decide +kernel⟩,
   by exact ⟨.panA, .a, 0x120007#22, demoBa, demoBa, rfl, issues_demoBa, by decide, by decide, _, 0, (by decide +kernel : _ = (demoBa, _)), _, rfl, by unfold State.noWp; decide +kernel⟩,
   by exact ⟨.panA, .a, 0x120007#22, demoBa, demoBa, rfl, issues_demoBa, by decide, by decide, _, 0, (by decide +kernel : _ = (demoBa, _)), _, rfl, by unfold State.noWp; decide +kernel⟩,
   by decide,
   by exact ⟨.panA, .a, 0x7FFFF#22, demoMem, demoMem, rfl, issues_demoMem, by decide, demoMem, 0, by decide +kernel, demoMem, 0, by decide +kernel, noWp_demoMem⟩,
   by decide,
   by exact ⟨.panA, .a, 0x120007#22, demoMem, demoMem, rfl, issues_demoMem, by decide, demoMem, 0, by decide +kernel, _, rfl, by unfold State.noWp; decide +kernel⟩,
   by decide,
   by decide⟩

theorem witness_TimersAndCountersUpdateTheirRecords :
    (∃ (c : CoreId) (rd ra : Fin 32) (imm : BitVec 16) (s s0 : State), Issues c s s0 ∧ ∃ p, c.pan = some p ∧ ((s0.core c).ea ra imm).toNat % 16 = 0 ∧ ∃ s1 pa, s0.translate c ((s0.core c).ea ra imm).toNat .store = (s1, .ok pa) ∧ memKind pa = .dtcm p ∧
    ∃ sa va, s1.memRead (pa + 12) 2 = (sa, .ok va) ∧ ∃ u, u = leAt (sa.mbytes (sa.place (pa + 12)) 2) 0 1 ∧ u ≤ 2 ∧
    ∃ s2 v, sa.memRead pa 14 = (s2, .ok v) ∧ ∃ b, b = s2.mbytes (s2.place pa) 14 ∧
    ∃ r et, (r, et) = tonStep ((s2.core c).tnow % 2 ^ 64) ((readTmr b).pt * tmrUnit u) (s2.core c).ba (readTmr b) ∧
    ∃ s3, s2.memWrite pa 8 r.start = some s3 ∧ ∃ s4, s3.memWrite (pa + 13) 1 (TmrRec.flags { r with inLast := (s2.core c).ba }) = some s4 ∧ s4.noWp c) ∧
    (∃ (c : CoreId) (rd ra : Fin 32) (imm : BitVec 16) (s s0 : State), Issues c s s0 ∧ ∃ p, c.pan = some p ∧ ((s0.core c).ea ra imm).toNat % 16 = 0 ∧ ∃ s1 pa, s0.translate c ((s0.core c).ea ra imm).toNat .store = (s1, .ok pa) ∧ memKind pa = .dtcm p ∧
    ∃ sa va, s1.memRead (pa + 12) 2 = (sa, .ok va) ∧ ∃ u, u = leAt (sa.mbytes (sa.place (pa + 12)) 2) 0 1 ∧ u ≤ 2 ∧
    ∃ s2 v, sa.memRead pa 14 = (s2, .ok v) ∧ ∃ b, b = s2.mbytes (s2.place pa) 14 ∧
    ∃ r et, (r, et) = tofStep ((s2.core c).tnow % 2 ^ 64) ((readTmr b).pt * tmrUnit u) (s2.core c).ba (readTmr b) ∧
    ∃ s3, s2.memWrite pa 8 r.start = some s3 ∧ ∃ s4, s3.memWrite (pa + 13) 1 (TmrRec.flags { r with inLast := (s2.core c).ba }) = some s4 ∧ s4.noWp c) ∧
    (∃ (c : CoreId) (rd ra : Fin 32) (imm : BitVec 16) (s s0 : State), Issues c s s0 ∧ ∃ p, c.pan = some p ∧ ((s0.core c).ea ra imm).toNat % 16 = 0 ∧ ∃ s1 pa, s0.translate c ((s0.core c).ea ra imm).toNat .store = (s1, .ok pa) ∧ memKind pa = .dtcm p ∧
    ∃ sa va, s1.memRead (pa + 12) 2 = (sa, .ok va) ∧ ∃ u, u = leAt (sa.mbytes (sa.place (pa + 12)) 2) 0 1 ∧ u ≤ 2 ∧
    ∃ s2 v, sa.memRead pa 14 = (s2, .ok v) ∧ ∃ b, b = s2.mbytes (s2.place pa) 14 ∧
    ∃ r et, (r, et) = tpStep ((s2.core c).tnow % 2 ^ 64) ((readTmr b).pt * tmrUnit u) (s2.core c).ba (readTmr b) ∧
    ∃ s3, s2.memWrite pa 8 r.start = some s3 ∧ ∃ s4, s3.memWrite (pa + 13) 1 (TmrRec.flags { r with inLast := (s2.core c).ba }) = some s4 ∧ s4.noWp c) ∧
    ((5 : Nat) ≤ tmrEl 10 5 ∧ tmrEl 10 5 < 6) ∧
    (∃ (c : CoreId) (rd ra : Fin 32) (imm : BitVec 16) (s s0 : State), Issues c s s0 ∧ ∃ p, c.pan = some p ∧ ((s0.core c).ea ra imm).toNat % 16 = 0 ∧ ∃ s1 pa, s0.translate c ((s0.core c).ea ra imm).toNat .store = (s1, .ok pa) ∧ memKind pa = .dtcm p ∧
    ∃ s2 v, s1.memRead pa 9 = (s2, .ok v) ∧ ∃ b, b = s2.mbytes (s2.place pa) 9 ∧ (s2.core c).depth ≠ 0 ∧
    ∃ pv, pv = sval 32 (leAt b 4 4) ∧ ∃ cv, cv = ctuStep (s2.core c).top (s2.core c).ba (bit (leAt b 8 1) 0) (sval 32 (leAt b 0 4)) pv ∧
    ∃ s3, s2.memWrite pa 4 (BitVec.ofInt 32 cv).toNat = some s3 ∧ ∃ s4, s3.memWrite (pa + 8) 1 (b2n (s2.core c).ba + 2 * b2n (decide (pv ≤ cv))) = some s4 ∧ s4.noWp c) ∧
    (∃ (c : CoreId) (rd ra : Fin 32) (imm : BitVec 16) (s s0 : State), Issues c s s0 ∧ ∃ p, c.pan = some p ∧ ((s0.core c).ea ra imm).toNat % 16 = 0 ∧ ∃ s1 pa, s0.translate c ((s0.core c).ea ra imm).toNat .store = (s1, .ok pa) ∧ memKind pa = .dtcm p ∧
    ∃ s2 v, s1.memRead pa 9 = (s2, .ok v) ∧ ∃ b, b = s2.mbytes (s2.place pa) 9 ∧ (s2.core c).depth ≠ 0 ∧
    ∃ pv, pv = sval 32 (leAt b 4 4) ∧ ∃ cv, cv = ctdStep (s2.core c).top (s2.core c).ba (bit (leAt b 8 1) 0) (sval 32 (leAt b 0 4)) pv ∧
    ∃ s3, s2.memWrite pa 4 (BitVec.ofInt 32 cv).toNat = some s3 ∧ ∃ s4, s3.memWrite (pa + 8) 1 (b2n (s2.core c).ba + 2 * b2n (decide (cv ≤ 0))) = some s4 ∧ s4.noWp c) ∧
    (((demo.core .panA).ea 1 0).toNat % 16 ≠ 0) :=
  ⟨by exact ⟨.panA, 1, 2, 0, demoMem, demoMem, issues_demoMem, .a, rfl, by decide, _, _, rfl, by decide, demoMem, 0, by decide +kernel, _, rfl, by decide +kernel, demoMem, 0, by decide +kernel, _, rfl, _, _, rfl, _, rfl, _, rfl, by unfold State.noWp; decide +kernel⟩,
   by exact ⟨.panA, 1, 2, 0, demoMem, demoMem, issues_demoMem, .a, rfl, by decide, _, _, rfl, by decide, demoMem, 0, by decide +kernel, _, rfl, by decide +kernel, demoMem, 0, by decide +kernel, _, rfl, _, _, rfl, _, rfl, _, rfl, by unfold State.noWp; decide +kernel⟩,
   by exact ⟨.panA, 1, 2, 0, demoMem, demoMem, issues_demoMem, .a, rfl, by decide, _, _, rfl, by decide, demoMem, 0, by decide +kernel, _, rfl, by decide +kernel, demoMem, 0, by decide +kernel, _, rfl, _, _, rfl, _, rfl, _, rfl, by unfold State.noWp; decide +kernel⟩,
   by decide,
   by exact ⟨.panA, 1, 2, 0, demoMem, demoMem, issues_demoMem, .a, rfl, by decide, _, _, rfl, by decide, demoMem, 0, by decide +kernel, _, rfl, by decide +kernel, _, rfl, _, rfl, _, rfl, _, rfl, by unfold State.noWp; decide +kernel⟩,
   by exact ⟨.panA, 1, 2, 0, demoMem, demoMem, issues_demoMem, .a, rfl, by decide, _, _, rfl, by decide, demoMem, 0, by decide +kernel, _, rfl, by decide +kernel, _, rfl, _, rfl, _, rfl, _, rfl, by unfold State.noWp; decide +kernel⟩,
   by decide⟩

theorem witness_HighSideSwitchCommandsActAsTheTablesSay :
    (∃ (r : Req) (s : State) (x : Option Sess) (s1 : State) (n : Nat) (d : Nat) (l : Nat), Started s r 6 1 x s1 ∧ (r.payload.length = 4) ∧ (leAt r.payload 0 1 = n) ∧ (leAt r.payload 1 2 = d) ∧ (leAt r.payload 3 1 = l) ∧ (n ≤ 47) ∧ (bits l 6 2 = 0) ∧ (s1.owner (resId 1 n) = 0) ∧ (¬(d ≠ 0 ∧ (s1.setF (F.HSS_N_CFG_ILIM n) (l % 4)).hssHeld n = true))) ∧
    (∃ (r : Req) (s : State) (x : Option Sess) (s1 : State) (n : Nat) (d : Nat) (l : Nat), Started s r 6 1 x s1 ∧ (r.payload.length = 4) ∧ (leAt r.payload 0 1 = n) ∧ (leAt r.payload 1 2 = d) ∧ (leAt r.payload 3 1 = l) ∧ (n ≤ 47) ∧ (bits l 6 2 = 0) ∧ (s1.owner (resId 1 n) = 0) ∧ (d ≠ 0) ∧ ((s1.setF (F.HSS_N_CFG_ILIM n) (l % 4)).hssHeld n = true)) ∧
    (∃ (r : Req) (s : State) (x : Option Sess) (s1 : State), Started s r 6 5 x s1 ∧ r.payload.length = 8 ∧ leVal r.payload = 1 ∧ (firstBelow 48 (fun n => bit 1 n && s1.owner (resId 1 n) != 0) = none) ∧ s1.flag F.HSS_SWEEP_BUSY = false) ∧
    (∃ (who : Who) (en : Bool) (s : State), (s.regOk who (A.HSS_CTRL) = true)) ∧
    (∃ s : State, s.flag F.HSS_CTRL_EN = true) ∧
    (∃ (who : Who) (n : Fin 48) (duty : BitVec 16) (s : State), (s.regOk who (A.HSS_N_CMD n) = true) ∧ (s.hssLead n = n) ∧ (s.owner (resId 1 n) = 0)) ∧
    (∃ (who : Who) (n : Fin 48) (duty : BitVec 16) (s : State), (s.regOk who (A.HSS_N_CMD n) = true) ∧ (s.hssLead n = n) ∧ (s.owner (resId 1 n) = 0)) ∧
    (∃ (who : Who) (n : Fin 48) (duty : BitVec 16) (s : State), (s.regOk who (A.HSS_N_CMD n) = true) ∧ (s.hssLead n = n) ∧ (s.owner (resId 1 n) ≠ 0)) ∧
    (∃ (who : Who) (n : Fin 48) (par : Bool) (s : State), (s.regOk who (A.HSS_N_CFG n) = true)) ∧
    (∃ (s : State) (n : Nat), n % 2 = 0 ∧ s.flag (F.HSS_N_CFG_PAR n) = false ∧ s.claimable 4 (resId 1 (n + 1)) = true ∧ s.hssState n = 0 ∧ s.hssState (n + 1) = 0) ∧
    (∃ (s : State) (n : Nat), n % 2 = 0 ∧ s.flag (F.HSS_N_CFG_PAR n) = true ∧ s.hssState n = 0 ∧ s.hssState (n + 1) = 0) ∧
    (∃ (who : Who) (g : Fin 6) (hz : BitVec 11) (s : State), (s.regOk who (A.HSS_GRP_CFG g) = true)) ∧
    (∃ (s : State) (n : Nat), s.hssLead n = n ∧ s.hssAll n = [n] ∧ (s.hssGrid (n / 8)) = s ∧ (s.hssCh n).want = none ∧ s.hssState n = 1 ∧ s.hssPwm n = true ∧ (s.hssCh n).joining = false ∧ (s.hssCh n).sampled = true) ∧
    (∃ (n : Fin 48) (s : State), (s.hssLead n = n) ∧ (s.hssState n = 1) ∧ (s.hssPwm n = true) ∧ (s.flag (F.HSS_N_STAT_OUT n) = true) ∧ (hssOnTime (s.hssP n) (s.f (F.HSS_N_CMD_DUTY n)) ≠ s.hssP n) ∧ (s.hssAll n = [n])) ∧
    (∃ (g : Fin 6) (u : State), (u.hssLeads g).find? (fun m => (u.hssCh m).slot) = none) ∧
    (∃ (g : Fin 6) (u : State) (m : Nat), (u.hssLeads g).find? (fun m => (u.hssCh m).slot) = some m) ∧
    (∃ (n : Fin 48) (s : State), (s.hssLead n = n) ∧ (s.hssState n = 6) ∧ ((s.hssCh n).slot = true) ∧ (s.hssOnCmd n = true) ∧ (s.hssHeld n = false)) ∧
    (∃ (n : Fin 48) (s : State), (s.hssLead n = n) ∧ (s.hssState n = 6) ∧ ((s.hssCh n).slot = true) ∧ (s.hssOnCmd n = false)) ∧
    (∃ (n : Fin 48) (s : State), (s.hssState n = 1 ∨ s.hssState n = 2)) ∧
    (∃ (n : Fin 48) (s : State), (s.hssState n ≠ 1) ∧ (s.hssState n ≠ 2)) ∧
    (∃ (s : State) (m : Nat), s.hssAll m = [m] ∧ s.f (F.HSS_N_STAT_OTCNT m) < s.f (F.HSS_N_CFG_OT_RETRY m) ∧ (s.setF (F.HSS_N_STAT_CAUSE m) 2).f (F.HSS_N_STAT_OTCNT m) = s.f (F.HSS_N_STAT_OTCNT m) ∧ (s.setF (F.HSS_N_STAT_CAUSE m) 2).hssAll m = [m]) ∧
    (∃ (n : Fin 48) (code : Fin 4) (s : State), (s.hssState n = 1) ∧ (s.flag (F.HSS_N_STAT_OUT n) = true) ∧ (s.hssIlim (s.hssLead n) = code)) ∧
    (∃ (n : Fin 48) (s : State), (s.hssState n = 2)) ∧
    (∃ (n : Fin 48) (s : State), (s.hssState n = 2) ∧ ((s.hssCh (s.hssLead n)).window = true) ∧ (s.f (F.HSS_N_STAT_QRET (s.hssLead n)) < s.f (F.HSS_N_CFG_LAMP_N (s.hssLead n)))) ∧
    (∃ (n : Fin 48) (s : State), (s.hssState n = 2) ∧ ((s.hssCh (s.hssLead n)).window = false)) ∧
    (∃ (n : Fin 48) (s : State), (s.hssState (s.hssLead n) = 1)) ∧
    (∃ (n : Fin 48) (s : State), (s.hssState (s.hssLead n) = 3) ∧ (s.hssOnCmd (s.hssLead n) = true)) ∧
    (∃ (n : Fin 48) (s : State), (s.hssState (s.hssLead n) = 4)) ∧
    (∃ (s : State) (m : Nat), s.hssState m = 4 ∧ (s.hssCh m).retryDue = true ∧ s.hssOnCmd m = true ∧ (s.f (F.HSS_N_STAT_CAUSE m) = 1 ∨ s.hssHot m = false)) ∧
    (∃ (n : Fin 48) (s : State), (s.hssState (s.hssLead n) = 1)) ∧
    (∃ (n : Fin 48) (code : BitVec 12) (s : State), (s.flag (F.HSS_N_MEAS_STALE n) = false) ∧ (s.hssPwm (s.hssLead n) = false)) ∧
    (∃ (n : Fin 48) (code : BitVec 12) (s : State), (s.flag (F.HSS_N_MEAS_STALE n) = true)) ∧
    (∃ (n : Fin 48) (code : BitVec 12) (s : State) (q : Nat), ((s.hssCh n).newRange = some q)) ∧
    (∃ (n : Fin 48) (tj : BitVec 8) (warn : Bool) (hot : Bool) (s : State) (t : State), (t = (((s.setF (F.HSS_N_TEMP_TJ n) tj.toNat).setF (F.HSS_N_TEMP_TJMAX n) (max (s.f (F.HSS_N_TEMP_TJMAX n)) tj.toNat)).setFlag (F.HSS_N_STAT_OTW n) warn).modHss n (fun c => { c with hot := hot })) ∧ (t.hssState (t.hssLead n) ≠ 4)) ∧
    (∃ (n : Fin 48) (pullup : Bool) (above : Bool) (s : State), (s.hssLead n = n) ∧ (s.flag F.HSS_CTRL_EN = true) ∧ ((s.hssCh n).seen = true) ∧ (s.f (F.HSS_N_DCFG_OLMODE n) = 1) ∧ (s.hssState n = 0) ∧ (s.hssOnCmd n = false) ∧ (s.flag (F.HSS_GRP_STAT_REDUCED (n.val / 8)) = false)) ∧
    ((live.flag (F.HSS_N_STAT_OPEN_OFF 3) = false) ∧ (live.setF (F.HSS_N_STAT_OPEN_OFF 3) 1).flag (F.HSS_N_STAT_OPEN_OFF 3) = true) ∧
    (∃ (opens : BitVec 48) (shortL : BitVec 32) (shortH : BitVec 16) (s : State), (s.hss.sweep = none)) ∧
    (∃ (opens : BitVec 48) (shortL : BitVec 32) (shortH : BitVec 16) (s : State) (k : RKey) (m : Nat) (t : State) (tested : Nat → Bool) (u : State) (ol : Nat) (nt : Nat), (s.hss.sweep = some (k, m)) ∧ (t = { s with hss := { s.hss with sweep := none } }.setF F.HSS_SWEEP_BUSY 0) ∧ (t.mustStop 4 = false) ∧ (tested = (fun n => bit m n && !s.hssNotTested n)) ∧ (u = forBelow 48 t (fun n v => v.when (tested n) (fun w => w.hssSweepCh opens.toNat (shortH ++ shortL).toNat n))) ∧ ((ol = hssMask (fun n => tested n && (if s.hssState n = 0 then bit opens.toNat n || bit (shortH ++ shortL).toNat n else s.hssSweepUnder n)))) ∧ (nt = hssMask (fun n => bit m n && s.hssNotTested n))) :=
  ⟨by exact ⟨rq 6 1 ([3,255,255,2]), withCmd (live), _, _, 3, 0xFFFF, 2, started_rq _ 6 1 _ (by decide +kernel) ⟨_, rfl, by decide, by decide +kernel, by decide⟩, by decide +kernel⟩,
   by exact ⟨rq 6 1 ([3,255,255,2]), withCmd ((live.setF (F.HSS_N_DCFG_ILK 3) 1).setF F.ACC_GATE_CLOSED 1), _, _, 3, 0xFFFF, 2, started_rq _ 6 1 _ (by decide +kernel) ⟨_, rfl, by decide, by decide +kernel, by decide⟩, by decide +kernel⟩,
   by exact ⟨rq 6 5 [1,0,0,0,0,0,0,0], withCmd live, _, _, started_rq _ 6 5 _ (by decide +kernel) ⟨_, rfl, by decide, by decide +kernel, by decide⟩, by decide +kernel⟩,
   by exact ⟨.core .steward 1, true, live, by decide +kernel⟩,
   by exact ⟨live.setF F.HSS_CTRL_EN 1, by decide +kernel⟩,
   by exact ⟨.core .steward 1, 3, 5, live, by decide +kernel⟩,
   by exact ⟨.core .steward 1, 3, 5, live, by decide +kernel⟩,
   by exact ⟨.core .steward 1, 3, 5, live.setOwner (resId 1 3) 1, by decide +kernel⟩,
   by exact ⟨.core .steward 1, 0, true, live, by decide +kernel⟩,
   by exact ⟨live, 2, by decide +kernel⟩,
   by exact ⟨live.setF (F.HSS_N_CFG_PAR 2) 1, 2, by decide +kernel⟩,
   by exact ⟨.core .steward 1, 0, 0, live, by decide +kernel⟩,
   by exact ⟨((live.setF (F.HSS_N_STAT_STATE 3) 1).setF (F.HSS_N_CMD_DUTY 3) 100).modHss 3 (fun c => { c with sampled := true }), 3, by decide +kernel⟩,
   by exact ⟨3, ((live.setF (F.HSS_N_STAT_STATE 3) 1).setF (F.HSS_N_STAT_OUT 3) 1).setF (F.HSS_N_CMD_DUTY 3) 100, by decide +kernel⟩,
   by exact ⟨0, live, by decide +kernel⟩,
   by exact ⟨0, live.modHss 3 (fun c => { c with slot := true }), 3, by decide +kernel⟩,
   by exact ⟨3, (((live.setF F.HSS_CTRL_EN 1).setF (F.HSS_N_CMD_DUTY 3) 9).setF (F.HSS_N_STAT_STATE 3) 6).modHss 3 (fun c => { c with slot := true }), by decide +kernel⟩,
   by exact ⟨3, (live.setF (F.HSS_N_STAT_STATE 3) 6).modHss 3 (fun c => { c with slot := true }), by decide +kernel⟩,
   by exact ⟨3, live.setF (F.HSS_N_STAT_STATE 3) 1, by decide +kernel⟩,
   by exact ⟨3, live, by decide +kernel⟩,
   by exact ⟨live.setF (F.HSS_N_CFG_OT_RETRY 3) 1, 3, by decide +kernel⟩,
   by exact ⟨3, 1, (live.setF (F.HSS_N_STAT_STATE 3) 1).setF (F.HSS_N_STAT_OUT 3) 1, by decide +kernel⟩,
   by exact ⟨3, live.setF (F.HSS_N_STAT_STATE 3) 2, by decide +kernel⟩,
   by exact ⟨3, ((live.setF (F.HSS_N_STAT_STATE 3) 2).setF (F.HSS_N_CFG_LAMP_N 3) 1).modHss 3 (fun c => { c with window := true }), by decide +kernel⟩,
   by exact ⟨3, live.setF (F.HSS_N_STAT_STATE 3) 2, by decide +kernel⟩,
   by exact ⟨3, live.setF (F.HSS_N_STAT_STATE 3) 1, by decide +kernel⟩,
   by exact ⟨3, ((live.setF (F.HSS_N_STAT_STATE 3) 3).setF F.HSS_CTRL_EN 1).setF (F.HSS_N_CMD_DUTY 3) 9, by decide +kernel⟩,
   by exact ⟨3, live.setF (F.HSS_N_STAT_STATE 3) 4, by decide +kernel⟩,
   by exact ⟨(((live.setF (F.HSS_N_STAT_STATE 3) 4).setF F.HSS_CTRL_EN 1).setF (F.HSS_N_CMD_DUTY 3) 9).modHss 3 (fun c => { c with retryDue := true }), 3, by decide +kernel⟩,
   by exact ⟨3, live.setF (F.HSS_N_STAT_STATE 3) 1, by decide +kernel⟩,
   by exact ⟨3, 100, live, by decide +kernel⟩,
   by exact ⟨3, 100, live.setF (F.HSS_N_MEAS_STALE 3) 1, by decide +kernel⟩,
   by exact ⟨3, 100, live.modHss 3 (fun c => { c with newRange := some 1 }), 1, by decide +kernel⟩,
   by exact ⟨3, 90, true, false, live, (((live.setF (F.HSS_N_TEMP_TJ 3) 90).setF (F.HSS_N_TEMP_TJMAX 3) (max (live.f (F.HSS_N_TEMP_TJMAX 3)) 90)).setFlag (F.HSS_N_STAT_OTW 3) true).modHss 3 (fun c => { c with hot := false }), by decide +kernel⟩,
   by exact ⟨3, true, true, ((live.setF F.HSS_CTRL_EN 1).setF (F.HSS_N_DCFG_OLMODE 3) 1).modHss 3 (fun c => { c with seen := true }), by decide +kernel⟩,
   by decide,
   by exact ⟨0, 0, 0, live, by decide +kernel⟩,
   by exact ⟨0, 0, 0, { live with hss := { live.hss with sweep := some (⟨3, 0, 7⟩, 1) } }, ⟨3, 0, 7⟩, 1, _, _, _, _, _, by decide +kernel, rfl, by decide +kernel, rfl, rfl, rfl, rfl⟩⟩

theorem witness_SolenoidCommandsActAsTheTablesSay :
    (∃ (r : Req) (s : State) (x : Option Sess) (s1 : State) (n : Nat) (code : Nat) (t : Nat), Started s r 6 2 x s1 ∧ (r.payload.length = 10) ∧ (leAt r.payload 0 1 = n) ∧ (leAt r.payload 1 1 = code) ∧ (leAt r.payload 2 8 = t) ∧ (n ≤ 11) ∧ (code ≤ 31 ∨ code = 0x80 ∨ code = 0x81) ∧ (t ≤ s1.dtime + 1800000000000) ∧ (s1.owner (resId 2 n) = 0)) ∧
    (∃ (who : Who) (en : Bool) (s : State), (s.regOk who (A.SOL_CTRL) = true)) ∧
    (∃ (s : State), (s.flag F.SOL_CTRL_EN = true)) ∧
    (∃ (s : State), (s.flag F.SOL_CTRL_EN = false)) ∧
    (∃ (who : Who) (n : Fin 12) (code : BitVec 8) (s : State) (cc : CoreId) (pl : Fin 3), (s.regOk who (A.SOL_N_CMD n) = true) ∧ (who = .core cc pl) ∧ (s.owner (resId 2 n) = 0) ∧ (code.toNat ≤ 31 ∨ code.toNat = 0x80 ∨ code.toNat = 0x81) ∧ (s.flag F.SOL_CTRL_EN = true)) ∧
    (∃ (who : Who) (n : Fin 12) (s : State) (cc : CoreId) (pl : Fin 3), (s.regOk who (A.SOL_N_CMD n) = true) ∧ (who = .core cc pl) ∧ (s.solLead n = n)) ∧
    (∃ (who : Who) (n : Fin 12) (s : State) (cc : CoreId) (pl : Fin 3), (s.regOk who (A.SOL_N_CMD n) = true) ∧ (who = .core cc pl) ∧ (s.owner (resId 2 n) = 0)) ∧
    (∃ (who : Who) (n : Fin 12) (s : State) (cc : CoreId) (pl : Fin 3), (s.regOk who (A.SOL_N_CMD n) = true) ∧ (who = .core cc pl) ∧ (s.owner (resId 2 n) = 0)) ∧
    ((live.setF (F.SOL_N_STAT_STATE 3) 5).solState 3 = 5 ∧ (live.setF (F.SOL_N_STAT_STATE 3) 5).solHot 3 = false ∧ (live.modSol 3 (fun c => { c with hot := true })).solHot 3 = true) ∧
    (∃ (s : State) (n : Nat) (c : SolCmd), (s.flag F.SOL_CTRL_EN = true) ∧ (c.image = false) ∧ (4 ≤ (s.solCh n).q.length)) ∧
    (∃ (s : State) (n : Nat) (c : SolCmd) (t : State), (s.flag F.SOL_CTRL_EN = true) ∧ (c.image = false) ∧ ((s.solCh n).q.length < 4) ∧ (t = s.modSol n (fun x => { x with q := x.q ++ [c] })) ∧ (t.solOverdue n (s.solCh n).q.length = false)) ∧
    (¬(live.solState 3 = 2 ∧ live.f (F.SOL_N_STAT_PROF 3) = 2) ∧ (live.setF F.SOL_SUP_UV 1).flag F.SOL_SUP_UV = true ∧ live.flag F.SOL_SUP_UV = false ∧ live.solHeld 3 = false ∧
    ((live.setF F.ACC_GATE_CLOSED 1).setF (F.SOL_N_STAT_ILK 3) 1).solHeld 3 = true ∧ live.solDutyOk 3 2 = true ∧
    { (live.setF (F.SOL_N_DUTY_DMAX_MS 3) 1) with sol := { live.sol with prof := [(16, (9, 5000))] } }.solDutyOk 3 2 = false) ∧
    (∃ (who : Who) (p : Fin 32) (k : Fin 8) (b : Word) (s : State), (s.regOk who (A.SOL_PROF_B p k) = true)) ∧
    (solPhaseOk 0 0 live.solAnyPair = true ∧ solPhaseOk 3 0 live.solAnyPair = false ∧ (live.reg (A.SOL_PROF_A 0 0)).toNat = 0 ∧ ((live.setReg (A.SOL_PROF_A 0 0) 3#32).reg (A.SOL_PROF_A 0 0)).toNat = 3) ∧
    (∃ (who : Who) (n : Fin 12) (par : Bool) (s : State), (s.regOk who (A.SOL_N_CFG n) = true) ∧ (par = true) ∧ (n.val % 2 = 0) ∧ (s.flag (F.SOL_N_CFG_PAR n) = false) ∧ (s.claimable 4 (resId 2 (n + 1)) = true) ∧ (s.solState n = 0) ∧ (s.solState (n + 1) = 0)) ∧
    (∃ (who : Who) (n : Fin 12) (par : Bool) (s : State), (s.regOk who (A.SOL_N_CFG n) = true) ∧ (par = false) ∧ (n.val % 2 = 0) ∧ (s.flag (F.SOL_N_CFG_PAR n) = true) ∧ (s.solState n = 0) ∧ (s.solState (n + 1) = 0)) ∧
    (∃ (who : Who) (n : Fin 12) (dmax : BitVec 16) (dwin : BitVec 8) (s : State), (s.regOk who (A.SOL_N_DUTY n) = true)) ∧
    (∃ (s : State) (n : Nat) (dmax : Nat), (0 < s.f (F.SOL_N_DUTY_DWIN_S n))) ∧
    (∃ (n : Fin 12) (s : State) (c : SolCmd), ((s.solCh n).q.head? = some c) ∧ (s.solState n = 0 ∨ s.solState n = 2 ∨ s.solState n = 5) ∧ (c.held = false) ∧ (c.due = none)) ∧
    (∃ (n : Fin 12) (s : State) (c : SolCmd) (d : Nat), ((s.solCh n).q.head? = some c) ∧ (c.due = some d) ∧ (s.solPast d = false) ∧ (s.solState n ≠ 5)) ∧
    (∃ c : SolCmd, c.code ≤ 31) ∧
    (∃ (n : Fin 12) (i : Fin 4) (s : State), (s.solOverdue n i = true)) ∧
    (∃ (s : State) (c : SolCmd), (s.solCh 3).q[0]? = some c ∧ c.late = false ∧ c.code ≤ 31) ∧
    (∃ (n : Fin 12) (s : State), (s.solState n = 1)) ∧
    (∃ (s : State) (n : Nat) (k : Nat), (7 < k ∨ (s.solPhase n k).1 % 8 = 0)) ∧
    (∃ (n : Fin 12) (s : State), (s.solState n = 1) ∧ ((s.solPhase n (s.f (F.SOL_N_STAT_PHASE n))).1 % 8 = 2) ∧ ((s.solPhase n (s.f (F.SOL_N_STAT_PHASE n))).2 % 2 ^ 24 = 0)) ∧
    (∃ (n : Fin 12) (s : State), (s.solReg n = true)) ∧
    (∃ (n : Fin 12) (s : State), (s.solReg n = true)) ∧
    (∃ (n : Fin 12) (s : State), (s.solState n = 3) ∧ ((s.solCh n).pend = false)) ∧
    (∃ s : State, s.solState 3 = 3 ∧ (s.solCh 3).pend = true) ∧
    (∃ (n : Fin 12) (s : State), (s.solState n = 4)) ∧
    (∃ t : State, (t.solCh 3).kink.mode = 0) ∧
    (∃ (n : Fin 12) (i : BitVec 16) (mean : BitVec 16) (v : BitVec 16) (s : State) (t : State) (y : SolKink) (e : Option (Option Nat)), (t = s.solMeas n i.toNat mean.toNat v.toNat) ∧ (((t.solCh n).kink.mode = 1 ∨ (t.solCh n).kink.mode = 2 ∨ (t.solCh n).kink.mode = 3)) ∧ ((t.solCh n).kink.step (s.f (F.SOL_N_KCFG_KFILT n) + 1) (s.f (F.SOL_N_KCFG_KDIP n)) (s.f (F.SOL_N_KCFG_KVDROP n)) (s.f (F.SOL_N_KWIN_KMIN n)) (s.f (F.SOL_N_KWIN_KMAX n)) (t.solCh n).regulating (t.solSum n SolCh.ownI) v.toInt = (y, e))) ∧
    (∃ (n : Fin 12) (s : State), (s.solLead n = n) ∧ (s.solState n = 1 ∨ s.solState n = 2)) ∧
    (∃ (n : Fin 12) (s : State), (s.solLead n = n) ∧ (s.solState n = 1 ∨ s.solState n = 2)) ∧
    (∃ t : State, t.solState (t.solLead 3) = 1) ∧
    (∃ t : State, t.solState (t.solLead 3) ≠ 1 ∧ t.solState (t.solLead 3) ≠ 2) ∧
    (∃ t : State, t = live) ∧
    (∃ (s : State) (n : Nat) (t : State), (t = s.solFlush n 0x0B13) ∧ (t.solState n = 0)) ∧
    (∃ (s : State) (n : Nat) (t : State), (t = (s.solFlush n 0x0B13).setF (F.SOL_N_STAT_UVOFF n) 1) ∧ (1 ≤ (s.solFlush n 0x0B13).solState n) ∧ ((s.solFlush n 0x0B13).solState n ≤ 3) ∧ ((t.solCh n).pend = false)) :=
  ⟨by exact ⟨rq 6 2 ([3,2,0,0,0,0,0,0,0,0]), withCmd (live), _, _, 3, 2, 0, started_rq _ 6 2 _ (by decide +kernel) ⟨_, rfl, by decide, by decide +kernel, by decide⟩, by decide +kernel⟩,
   by exact ⟨.core .steward 1, true, live, by decide +kernel⟩,
   by exact ⟨live.setF F.SOL_CTRL_EN 1, by decide +kernel⟩,
   by exact ⟨live, by decide +kernel⟩,
   by exact ⟨.core .steward 1, 3, 2, live.setF F.SOL_CTRL_EN 1, .steward, 1, by decide +kernel⟩,
   by exact ⟨.core .steward 1, 3, live, .steward, 1, by decide +kernel⟩,
   by exact ⟨.core .steward 1, 3, live, .steward, 1, by decide +kernel⟩,
   by exact ⟨.core .steward 1, 3, live, .steward, 1, by decide +kernel⟩,
   by decide +kernel,
   by exact ⟨(live.setF F.SOL_CTRL_EN 1).modSol 3 (fun c => { c with q := List.replicate 4 default }), 3, default, by decide +kernel⟩,
   by exact ⟨live.setF F.SOL_CTRL_EN 1, 3, default, (live.setF F.SOL_CTRL_EN 1).modSol 3 (fun x => { x with q := x.q ++ [default] }), by decide +kernel⟩,
   by decide +kernel,
   by exact ⟨.core .steward 1, 0, 0, 0, live, by decide +kernel⟩,
   by decide +kernel,
   by exact ⟨.core .steward 1, 2, true, live, by decide +kernel⟩,
   by exact ⟨.core .steward 1, 2, false, live.setF (F.SOL_N_CFG_PAR 2) 1, by decide +kernel⟩,
   by exact ⟨.core .steward 1, 0, 0, 0, live, by decide +kernel⟩,
   by exact ⟨live.setF (F.SOL_N_DUTY_DWIN_S 3) 5, 3, 9, by decide +kernel⟩,
   by exact ⟨3, (live.modSol 3 (fun c => { c with q := [default] })), default, by decide +kernel⟩,
   by exact ⟨3, live.modSol 3 (fun c => { c with q := [{ (default : SolCmd) with due := some 5 }] }), { (default : SolCmd) with due := some 5 }, 5, by decide +kernel⟩,
   by exact ⟨default, by decide⟩,
   by exact ⟨3, 0, { live.modSol 3 (fun c => { c with q := [{ (default : SolCmd) with due := some 5 }] }) with dtime := 9000000000 }, by decide +kernel⟩,
   by exact ⟨(live.modSol 3 (fun c => { c with q := [default] })), default, by decide +kernel⟩,
   by exact ⟨3, live.setF (F.SOL_N_STAT_STATE 3) 1, by decide +kernel⟩,
   by exact ⟨live, 3, 8, by decide +kernel⟩,
   by exact ⟨3, (live.modSol 3 (fun c => { c with ph := [(2, 0)] })).setF (F.SOL_N_STAT_STATE 3) 1, by decide +kernel⟩,
   by exact ⟨3, (live.modSol 3 (fun c => { c with ph := [(1, 0)] })).setF (F.SOL_N_STAT_STATE 3) 1, by decide +kernel⟩,
   by exact ⟨3, (live.modSol 3 (fun c => { c with ph := [(1, 0)] })).setF (F.SOL_N_STAT_STATE 3) 1, by decide +kernel⟩,
   by exact ⟨3, live.setF (F.SOL_N_STAT_STATE 3) 3, by decide +kernel⟩,
   by exact ⟨(live.setF (F.SOL_N_STAT_STATE 3) 3).modSol 3 (fun c => { c with pend := true }), by decide +kernel⟩,
   by exact ⟨3, live.setF (F.SOL_N_STAT_STATE 3) 4, by decide +kernel⟩,
   by exact ⟨live, by decide +kernel⟩,
   by exact ⟨3, 500, 500, 0, ((live.modSol 3 (fun c => { c with ph := [(1, 0)], kink := { (default : SolKink) with mode := 1 } })).setF (F.SOL_N_STAT_STATE 3) 1), _, _, _, rfl, by decide +kernel, rfl⟩,
   by exact ⟨3, live.setF (F.SOL_N_STAT_STATE 3) 1, by decide +kernel⟩,
   by exact ⟨3, live.setF (F.SOL_N_STAT_STATE 3) 1, by decide +kernel⟩,
   by exact ⟨live.setF (F.SOL_N_STAT_STATE 3) 1, by decide +kernel⟩,
   by exact ⟨live, by decide +kernel⟩,
   by exact ⟨_, rfl⟩,
   by exact ⟨live, 3, live.solFlush 3 0x0B13, by decide +kernel⟩,
   by exact ⟨live.setF (F.SOL_N_STAT_STATE 3) 1, 3, ((live.setF (F.SOL_N_STAT_STATE 3) 1).solFlush 3 0x0B13).setF (F.SOL_N_STAT_UVOFF 3) 1, by decide +kernel⟩⟩

theorem witness_FieldChannelAndMeasurementCommandsActAsTheTablesSay :
    (∃ (r : Req) (s : State) (x : Option Sess) (s1 : State) (n : Nat) (v : Nat), Started s r 6 4 x s1 ∧ (r.payload.length = 2) ∧ (leAt r.payload 0 1 = n) ∧ (leAt r.payload 1 1 = v) ∧ (n ≤ 63) ∧ (v = 0 ∨ v = 1) ∧ (s1.owner (resId 3 n) = 0) ∧ (s1.dioMode n = 3)) ∧
    (∃ (r : Req) (s : State) (x : Option Sess) (s1 : State) (n : Nat), Started s r 6 4 x s1 ∧ (r.payload.length = 2) ∧ (leAt r.payload 0 1 = n) ∧ (leAt r.payload 1 1 = 0x80) ∧ (n ≤ 63) ∧ (s1.owner (resId 3 n) ≠ 5) ∧ (s1.dioMode n = 3)) ∧
    (∃ (r : Req) (s : State) (x : Option Sess) (s1 : State) (n : Nat) (v : Nat), Started s r 6 4 x s1 ∧ (r.payload.length = 2) ∧ (leAt r.payload 0 1 = n) ∧ (leAt r.payload 1 1 = v) ∧ (n ≤ 63) ∧ (v = 0 ∨ v = 1) ∧ (s1.owner (resId 3 n) ≠ 5) ∧ (s1.dioMode n ≠ 3)) ∧
    (∃ (who : Who) (en : Bool) (s : State), (s.regOk who (A.DIO_CTRL) = true) ∧ (en ≠ s.flag F.DIO_CTRL_EN)) ∧
    (∃ (who : Who) (en : Bool) (s : State), (s.regOk who (A.DIO_CTRL) = true) ∧ (en = s.flag F.DIO_CTRL_EN)) ∧
    (∃ (who : Who) (n : Fin 64) (out : Bool) (s : State), (s.regOk who (A.DIO_N_CMD n) = true) ∧ (s.owner (resId 3 n) = 0)) ∧
    (∃ (who : Who) (n : Fin 64) (out : Bool) (s : State), (s.regOk who (A.DIO_N_CMD n) = true) ∧ (s.owner (resId 3 n) = 0)) ∧
    (∃ (who : Who) (n : Fin 64) (out : Bool) (s : State), (s.regOk who (A.DIO_N_CMD n) = true) ∧ (s.owner (resId 3 n) ≠ 0)) ∧
    (∃ (who : Who) (n : Fin 64) (out : Bool) (s : State), (s.regOk who (A.DIO_N_CMD n) = true) ∧ (s.owner (resId 3 n) ≠ 0)) ∧
    (2 ≤ (live.setF (F.DIO_N_STAT_STATE 3) 2).dioState 3) ∧
    (∃ (s : State) (n : Nat), (s.dioState n = 2) ∧ (¬(s.f (F.DIO_N_STAT_CAUSE n) = 2 ∧ (tblGet s.dio.ch n).hot = true))) ∧
    (∃ (who : Who) (n : Fin 64) (value : Word) (s : State), (s.regOk who (A.DIO_N_CFG n) = true) ∧ (s.owner (resId 3 n) ≠ 5) ∧ ((s.owner (resId 3 n) = 1 ∨ s.owner (resId 3 n) = 2) → bits value.toNat 1 0 = 3)) ∧
    (∃ (who : Who) (n : Fin 64) (value : Word) (s : State), (s.regOk who (A.DIO_N_CFG n) = true) ∧ (s.owner (resId 3 n) = 5)) ∧
    ((live.setReg (A.DIO_N_CFG 3) (toW (dioCfgWord 3 0x801))).flag (F.DIO_N_CFG_WB 3) = true ∧ (live.setReg (A.DIO_N_CFG 3) (toW (dioCfgWord 3 0x801))).dioMode 3 = 1 ∧ live.dioMode 3 ≠ 3) ∧
    (∃ (n : Fin 64) (broken : Bool) (ticks : BitVec 16) (s : State) (k : Nat), (s.dioEval n = true) ∧ (s.flag (F.DIO_N_CFG_WB n) = true) ∧ (s.flag F.DIO_STAT_RED = false) ∧ (broken = true) ∧ (dioFilter (max 10 (s.f (F.DIO_N_CFG_FILT n)) * 100) (tblGet s.dio.ch n).wrun ticks.toNat broken (s.flag (F.DIO_N_STAT_WBRK n)) = (k, true))) ∧
    (∃ (n : Fin 64) (broken : Bool) (ticks : BitVec 16) (s : State) (k : Nat), (s.dioEval n = true) ∧ (s.flag (F.DIO_N_CFG_WB n) = true) ∧ (s.flag F.DIO_STAT_RED = false) ∧ (broken = false) ∧ (dioFilter (max 10 (s.f (F.DIO_N_CFG_FILT n)) * 100) (tblGet s.dio.ch n).wrun ticks.toNat broken (s.flag (F.DIO_N_STAT_WBRK n)) = (k, true))) ∧
    (∃ (n : Fin 64) (broken : Bool) (ticks : BitVec 16) (s : State) (k : Nat), (s.dioEval n = true) ∧ (s.flag (F.DIO_N_CFG_WB n) = true) ∧ (s.flag F.DIO_STAT_RED = false) ∧ (dioFilter (max 10 (s.f (F.DIO_N_CFG_FILT n)) * 100) (tblGet s.dio.ch n).wrun ticks.toNat broken (s.flag (F.DIO_N_STAT_WBRK n)) = (k, false))) ∧
    (true ≠ false ∧ (0 : Nat) < 1 ∧ (2 : Nat) ≤ 1 + 1 ∧ (1 : Nat) + 1 < 3) ∧
    (∃ (n : Fin 64) (s : State), (s.dioMode n = 3) ∧ (s.dioState n = 1) ∧ (s.flag (F.DIO_N_STAT_IN n) = false) ∧ (s.flag (F.DIO_N_STAT_FB_ERR n) = false)) ∧
    (∃ (n : Fin 64) (s : State), (s.dioMode n = 3) ∧ (s.dioState n = 0) ∧ (s.dioOn n = false) ∧ (s.flag (F.DIO_N_STAT_IN n) = true) ∧ (s.flag (F.DIO_N_STAT_FB_HIGH n) = false)) ∧
    (∃ (s : State) (n : Nat) (cause : Nat), (s.dioState n = 1)) ∧
    (∃ (n : Fin 64) (limit : Bool) (s : State), (s.dioState n = 1)) ∧
    (∃ (n : Fin 64) (s : State), ((tblGet s.dio.ch n).lim = true)) ∧
    (∃ (s : State) (n : Nat) (v : Bool) (ticks : Nat) (k : Nat), (s.dioEval n = true) ∧ (dioFilter (s.f (F.DIO_N_CFG_FILT n) * 100) (tblGet s.dio.ch n).run ticks v (s.flag (F.DIO_N_STAT_IN n)) = (k, false))) ∧
    (∃ (s : State) (n : Nat) (v : Bool) (ticks : Nat) (k : Nat), (s.dioEval n = true) ∧ (dioFilter (s.f (F.DIO_N_CFG_FILT n) * 100) (tblGet s.dio.ch n).run ticks v (s.flag (F.DIO_N_STAT_IN n)) = (k, true))) ∧
    (∃ (i : Fin 16) (v : Word) (s : State), (s.flag F.MEAS_CTRL_EN = true) ∧ (s.f (F.MEAS_NTC_CFG_B i) = 0)) ∧
    (∃ (i : Fin 16) (v : Word) (s : State), (s.flag F.MEAS_CTRL_EN = true) ∧ (s.f (F.MEAS_NTC_CFG_B i) ≠ 0) ∧ (490000 * ntcRest v.toNat < 10000 * v.toNat) ∧ (s.f (F.MEAS_NTC_VAL_FLAGS i) / 8 = 0)) ∧
    (∃ (i : Fin 16) (v : Word) (s : State) (q : Int), (s.flag F.MEAS_CTRL_EN = true) ∧ (s.f (F.MEAS_NTC_CFG_B i) ≠ 0) ∧ (20 * ntcRest v.toNat ≤ 10000 * v.toNat) ∧ (10000 * v.toNat ≤ 490000 * ntcRest v.toNat) ∧ (ntcTemp (10000 * v.toNat) (ntcRest v.toNat * (10 * s.f (F.MEAS_NTC_CFG_R25 i))) (s.f (F.MEAS_NTC_CFG_B i)) = some q) ∧ (s.f (F.MEAS_NTC_VAL_FLAGS i) / 8 = 0)) ∧
    (∃ (i : Fin 14) (mv : BitVec 16) (s : State) (u : State) (isLo : Bool) (isHi : Bool) (q : SupRun) (low : Bool) (high : Bool) (t : State), (u = s.supShow i mv.toNat) ∧ (u.flag F.MEAS_CTRL_EN = true) ∧ (isLo = (u.f (F.MEAS_SUP_WIN_LOW i) != 0 && decide (mv.toNat < u.f (F.MEAS_SUP_WIN_LOW i)))) ∧ (isHi = (u.f (F.MEAS_SUP_WIN_HIGH i) != 0 && decide (u.f (F.MEAS_SUP_WIN_HIGH i) < mv.toNat))) ∧ ((q = (⟨if isLo then (tblGet u.dio.sup i).below + 1 else 0, if isHi then (tblGet u.dio.sup i).above + 1 else 0, if isLo || isHi then 0 else (tblGet u.dio.sup i).within + 1⟩ : SupRun))) ∧ ((low = if 4 ≤ q.below then true else if 4 ≤ q.within then false else bit (u.f (F.MEAS_SUP_VAL_FLAGS i)) 1)) ∧ ((high = if 4 ≤ q.above then true else if 4 ≤ q.within then false else bit (u.f (F.MEAS_SUP_VAL_FLAGS i)) 2)) ∧ (t = ({ u with dio := { u.dio with sup := tblSet u.dio.sup i q } }.setF (F.MEAS_SUP_VAL_MV i) mv.toNat).setF (F.MEAS_SUP_VAL_FLAGS i) (1 + 2 * b2n low + 4 * b2n high))) ∧
    (∃ (r : Req) (s : State) (x : Option Sess) (s1 : State) (v : Nat) (fl : Nat), Started s r 6 6 x s1 ∧ (r.payload.length = 2) ∧ (s1.measGet (leVal r.payload) = some (v, fl))) ∧
    (∃ (r : Req) (s : State) (x : Option Sess) (s1 : State), Started s r 6 6 x s1 ∧ (r.payload.length = 2) ∧ (s1.measGet (leVal r.payload) = none)) :=
  ⟨by exact ⟨rq 6 4 ([3,1]), withCmd ((live.setF (F.DIO_N_CFG_MODE 3) 3)), _, _, 3, 1, started_rq _ 6 4 _ (by decide +kernel) ⟨_, rfl, by decide, by decide +kernel, by decide⟩, by decide +kernel⟩,
   by exact ⟨rq 6 4 ([3,0x80]), withCmd ((live.setF (F.DIO_N_CFG_MODE 3) 3)), _, _, 3, started_rq _ 6 4 _ (by decide +kernel) ⟨_, rfl, by decide, by decide +kernel, by decide⟩, by decide +kernel⟩,
   by exact ⟨rq 6 4 ([3,1]), withCmd (live), _, _, 3, 1, started_rq _ 6 4 _ (by decide +kernel) ⟨_, rfl, by decide, by decide +kernel, by decide⟩, by decide +kernel⟩,
   by exact ⟨.core .steward 1, true, live, by decide +kernel⟩,
   by exact ⟨.core .steward 1, false, live, by decide +kernel⟩,
   by exact ⟨.core .steward 1, 3, true, live, by decide +kernel⟩,
   by exact ⟨.core .steward 1, 3, true, live, by decide +kernel⟩,
   by exact ⟨.core .steward 1, 3, true, live.setOwner (resId 3 3) 1, by decide +kernel⟩,
   by exact ⟨.core .steward 1, 3, true, live.setOwner (resId 3 3) 1, by decide +kernel⟩,
   by decide +kernel,
   by exact ⟨live.setF (F.DIO_N_STAT_STATE 3) 2, 3, by decide +kernel⟩,
   by exact ⟨.core .steward 1, 3, 1, live, by decide +kernel⟩,
   by exact ⟨.core .steward 1, 3, 1, live.setOwner (resId 3 3) 5, by decide +kernel⟩,
   by decide +kernel,
   by exact ⟨3, true, 1000, ((live.setF F.DIO_CTRL_EN 1).setF (F.DIO_N_CFG_MODE 3) 1).setF (F.DIO_N_CFG_WB 3) 1, 0, by decide +kernel⟩,
   by exact ⟨3, false, 1000, (((live.setF F.DIO_CTRL_EN 1).setF (F.DIO_N_CFG_MODE 3) 1).setF (F.DIO_N_CFG_WB 3) 1).setF (F.DIO_N_STAT_WBRK 3) 1, 0, by decide +kernel⟩,
   by exact ⟨3, true, 10, ((live.setF F.DIO_CTRL_EN 1).setF (F.DIO_N_CFG_MODE 3) 1).setF (F.DIO_N_CFG_WB 3) 1, 10, by decide +kernel⟩,
   by decide +kernel,
   by exact ⟨3, (live.setF (F.DIO_N_CFG_MODE 3) 3).setF (F.DIO_N_STAT_STATE 3) 1, by decide +kernel⟩,
   by exact ⟨3, (live.setF (F.DIO_N_CFG_MODE 3) 3).setF (F.DIO_N_STAT_IN 3) 1, by decide +kernel⟩,
   by exact ⟨live.setF (F.DIO_N_STAT_STATE 3) 1, 3, 1, by decide +kernel⟩,
   by exact ⟨3, true, live.setF (F.DIO_N_STAT_STATE 3) 1, by decide +kernel⟩,
   by exact ⟨3, live.modDio 3 (fun c => { c with lim := true }), by decide +kernel⟩,
   by exact ⟨(((live.setF F.DIO_CTRL_EN 1).setF (F.DIO_N_CFG_MODE 3) 1).setF (F.DIO_N_CFG_WB 3) 1).setF (F.DIO_N_CFG_FILT 3) 9, 3, true, 10, 10, by decide +kernel⟩,
   by exact ⟨((live.setF F.DIO_CTRL_EN 1).setF (F.DIO_N_CFG_MODE 3) 1).setF (F.DIO_N_CFG_WB 3) 1, 3, true, 100, 0, by decide +kernel⟩,
   by exact ⟨3, 5, (live.setF F.MEAS_CTRL_EN 1).setF (F.MEAS_NTC_CFG_B 3) 0, by decide +kernel⟩,
   by exact ⟨3, 0xFFFFFFF0, (live.setF F.MEAS_CTRL_EN 1).setF (F.MEAS_NTC_CFG_B 3) 9, by decide +kernel⟩,
   by exact ⟨3, 0x80000000, ((live.setF F.MEAS_CTRL_EN 1).setF (F.MEAS_NTC_CFG_B 3) 3435).setF (F.MEAS_NTC_CFG_R25 3) 1000, (ntcTemp (10000 * 2147483648) (2147483648 * 10000) 3435).getD 0, by decide +kernel⟩,
   by exact ⟨3, 500, live.setF F.MEAS_CTRL_EN 1, _, _, _, _, _, _, _, rfl, by decide +kernel, rfl, rfl, rfl, rfl, rfl, rfl⟩,
   by exact ⟨rq 6 6 ([0,3]), withCmd (live), _, _, 0, 1, started_rq _ 6 6 _ (by decide +kernel) ⟨_, rfl, by decide, by decide +kernel, by decide⟩, by decide +kernel⟩,
   by exact ⟨rq 6 6 ([9,3]), withCmd (live), _, _, started_rq _ 6 6 _ (by decide +kernel) ⟨_, rfl, by decide, by decide +kernel, by decide⟩, by decide +kernel⟩⟩

theorem witness_LedAndOwnershipCommandsActAsTheTablesSay :
    (∃ (r : Req) (s : State) (x : Option Sess) (s1 : State) (n : Nat) (cur : Nat), Started s r 6 3 x s1 ∧ (r.payload.length = 5) ∧ (leAt r.payload 0 1 = n) ∧ (leAt r.payload 1 2 = cur) ∧ (n ≤ 31) ∧ (bits cur 15 13 = 0) ∧ (s1.owner (resId 4 n) = 0)) ∧
    (∃ (who : Who) (en : Bool) (s : State), (s.regOk who (A.LED_CTRL) = true) ∧ (en = true)) ∧
    (∃ (who : Who) (en : Bool) (s : State), (s.regOk who (A.LED_CTRL) = true) ∧ (en = false)) ∧
    (∃ (who : Who) (n : Fin 32) (cur : BitVec 16) (duty : BitVec 16) (s : State), (s.regOk who (A.LED_N_CMD n) = true) ∧ (s.owner (resId 4 n) = 0)) ∧
    (∃ (who : Who) (n : Fin 32) (cur : BitVec 16) (duty : BitVec 16) (s : State), (s.regOk who (A.LED_N_CMD n) = true) ∧ (s.owner (resId 4 n) ≠ 0)) ∧
    (∃ (who : Who) (g : Fin 8) (mask : Word) (s : State), (s.regOk who (A.LED_GRP_MASK g) = true) ∧ ((List.range 32).any (fun n => bit mask.toNat n && (s.owner (resId 4 n) == 3 || (List.range 8).any (fun h => h != g.val && s.fbit (F.LED_GRP_MASK_MASK h) n))) = true)) ∧
    (∃ (who : Who) (g : Fin 8) (mask : Word) (s : State), (s.regOk who (A.LED_GRP_MASK g) = true) ∧ ((List.range 32).any (fun n => bit mask.toNat n && (s.owner (resId 4 n) == 3 || (List.range 8).any (fun h => h != g.val && s.fbit (F.LED_GRP_MASK_MASK h) n))) = false)) ∧
    (∃ (who : Who) (g : Fin 8) (s : State), (s.regOk who (A.LED_GRP_CTRL g) = true) ∧ (s.owner (resId 7 g) = 0)) ∧
    (∃ (who : Who) (en : Bool) (s : State), (s.regOk who (A.LED_LMX_CTRL) = true) ∧ (en = s.flag F.LED_LMX_CTRL_EN)) ∧
    (∃ (who : Who) (en : Bool) (s : State), (s.regOk who (A.LED_LMX_CTRL) = true) ∧ (en = true) ∧ (s.flag F.LED_LMX_CTRL_EN = false) ∧ ((List.range 16).find? (fun i => (s.ledGroup (16 + i)).isSome) = none) ∧ (lmxIds.find? (fun id => !s.claimable 3 id) = none)) ∧
    (∃ (who : Who) (en : Bool) (s : State) (id : Nat), (s.regOk who (A.LED_LMX_CTRL) = true) ∧ (en = true) ∧ (s.flag F.LED_LMX_CTRL_EN = false) ∧ ((List.range 16).find? (fun i => (s.ledGroup (16 + i)).isSome) = none) ∧ (lmxIds.find? (fun id => !s.claimable 3 id) = some id)) ∧
    (∃ (who : Who) (en : Bool) (s : State), (s.regOk who (A.LED_LMX_CTRL) = true) ∧ (en = false) ∧ (s.flag F.LED_LMX_CTRL_EN = true) ∧ ((List.range 256).any (fun i => s.owner (resId 5 i) != 0) = false)) ∧
    (∃ (who : Who) (s : State), (s.regOk who (A.LED_LMX_CTRL) = true)) ∧
    (∃ (who : Who) (r : Fin 16) (q : Fin 4) (value : Word) (s : State), (s.regOk who (A.LED_LMX_LVL r q) = true) ∧ ((List.range 4).find? (fun k => s.owner (resId 5 (16 * r.val + 4 * q.val + k)) != 0) = none)) ∧
    (∃ (who : Who) (r : Fin 16) (q : Fin 4) (value : Word) (s : State) (k : Nat), (s.regOk who (A.LED_LMX_LVL r q) = true) ∧ ((List.range 4).find? (fun k => s.owner (resId 5 (16 * r.val + 4 * q.val + k)) != 0) = some k)) ∧
    (∃ (n : Fin 32) (s : State), (s.flag F.LED_CTRL_EN = false ∨ s.flag F.LED_STAT_OT = true ∨ s.ledMatrix n = true)) ∧
    (∃ s : State, s.flag F.LED_CTRL_EN = true ∧ s.flag F.LED_STAT_OT = false ∧ s.ledMatrix 3 = false ∧ bits (s.f (F.LED_N_CMD_CUR 3)) 12 12 ≠ (s.ledCh 3).range) ∧
    (∃ s : State, s.flag F.LED_CTRL_EN = true ∧ s.flag F.LED_STAT_OT = false ∧ s.ledMatrix 3 = false ∧ bits (s.f (F.LED_N_CMD_CUR 3)) 12 12 = (s.ledCh 3).range ∧ 0 < s.f (F.LED_N_CMD_DUTY 3) ∧ s.f (F.LED_N_CMD_DUTY 3) < 0xFFFF ∧ s.flag (F.LED_N_STAT_GOFF 3) = false) ∧
    (1 ≤ 4) ∧
    (∃ (n : Fin 32) (mv : BitVec 16) (low : Bool) (drop : Bool) (s : State), (s.flag (F.LED_N_STAT_BLANK n) = true ∨ (s.ledCh n).on < 500 ∨ s.ledMatrix n = true ∨ s.flag F.LED_CTRL_EN = false)) ∧
    (∃ (n : Fin 32) (mv : BitVec 16) (low : Bool) (drop : Bool) (s : State) (t : State) (o : Streak) (h : Streak) (u : State), (s.flag (F.LED_N_STAT_BLANK n) = false) ∧ (500 ≤ (s.ledCh n).on) ∧ (s.ledMatrix n = false) ∧ (s.flag F.LED_CTRL_EN = true) ∧ (t = ((s.setF (F.LED_N_VS_MV n) mv.toNat).setFlag (F.LED_N_STAT_DROPOUT n) drop).when (!s.flag (F.LED_N_STAT_OPEN n)) (fun q => q.ledHr mv.toNat)) ∧ ((s.ledCh n).duty ≠ 0) ∧ (40 ≤ t.f (F.LED_N_STAT_ECODE n)) ∧ (t.flag F.LED_STAT_VLOW = false) ∧ (o = (s.ledCh n).openS.count low) ∧ (h = (s.ledCh n).shortS.count (s.f (F.LED_N_CFG_SHORT_MV n) != 0 && decide (s.f (F.LED_N_CFG_SHORT_MV n) * 100 < mv.toNat))) ∧ (u = ((t.modLed n (fun c => { c with openS := o, shortS := h })).setFlag (F.LED_N_STAT_OPEN n) (o.flag (s.flag (F.LED_N_STAT_OPEN n)))).setFlag (F.LED_N_STAT_SHORT n) (h.flag (s.flag (F.LED_N_STAT_SHORT n)))) ∧ (o.met ≠ 4) ∧ (h.met ≠ 4)) ∧
    (∃ x : Streak, x.met < 4 ∧ 4 ≤ x.missed) ∧
    (live.flag F.LED_CTRL_FB_EN = false) ∧
    (∃ (v : Option (BitVec 16)) (vlow : Bool) (s : State) (t : State) (q : Nat), t = { s with led := { s.led with hr := none } }.setFlag F.LED_STAT_VLOW vlow ∧ t.flag F.LED_CTRL_FB_EN = true ∧ s.ledLeast v = some q ∧ q + 100 < t.f F.LED_HR_HR_MV ∧ t.f F.LED_STAT_FBCODE + 1 < t.f F.LED_HR_FB_MAX) ∧
    (∃ (v : Option (BitVec 16)) (vlow : Bool) (s : State) (t : State), t = { s with led := { s.led with hr := none } }.setFlag F.LED_STAT_VLOW vlow ∧ t.flag F.LED_CTRL_FB_EN = true ∧ s.ledLeast v = none) ∧
    (∃ (s : State) (c : Nat) (t : Int), ((s.ledPoints c).isEmpty = false) ∧ (rising (s.ledPoints c) = true) ∧ (s.ledTemp (s.f (F.LED_CURVE_CFG_SRC c)) = some t)) ∧
    (∃ s : State, s.lmxRuns = true) ∧
    (∃ (r : Fin 16) (mv : BitVec 256) (below : BitVec 16) (s : State), (s.lmxRuns = true) ∧ (s.led.row = r.val)) ∧
    (∃ (s : State) (r : Nat) (c : Nat) (mv : Nat) (lo : Bool), (tblGet s.led.lvl (16 * r + c) = 0 ∨ (tblGet s.led.col c).blank = true)) ∧
    (∃ (s : State), (s.lmxRuns = true)) ∧
    (∃ (who : Who) (res : Word) (s : State), (s.regOk who (A.PINOWN_QRES) = true)) ∧
    (∃ (who : Who) (n : Fin 32) (out : Bool) (s : State), (s.regOk who (A.GPIO_N_CMD n) = true) ∧ (s.owner (resId 12 n) = 0)) ∧
    (∃ (who : Who) (n : Fin 32) (out : Bool) (s : State), (s.regOk who (A.GPIO_N_CMD n) = true) ∧ (s.owner (resId 12 n) ≠ 0)) ∧
    (live.fbit F.GPIO_IN_IN 3 ≠ true) ∧
    (∃ (s : State) (id : Nat) (rq : Nat) (path : Nat), (s.flag F.PINOWN_CONF_INFO_VALID = false)) ∧
    (∃ (s : State) (id : Nat) (rq : Nat) (path : Nat), (s.flag F.PINOWN_CONF_INFO_VALID = true)) :=
  ⟨by exact ⟨rq 6 3 ([3,1,0,9,0]), withCmd (live), _, _, 3, 1, started_rq _ 6 3 _ (by decide +kernel) ⟨_, rfl, by decide, by decide +kernel, by decide⟩, by decide +kernel⟩,
   by exact ⟨.core .steward 1, true, live, by decide +kernel⟩,
   by exact ⟨.core .steward 1, false, live, by decide +kernel⟩,
   by exact ⟨.core .steward 1, 3, 1, 2, live, by decide +kernel⟩,
   by exact ⟨.core .steward 1, 3, 1, 2, live.setOwner (resId 4 3) 1, by decide +kernel⟩,
   by exact ⟨.core .steward 1, 0, 1, live.setF (F.LED_GRP_MASK_MASK 1) 1, by decide +kernel⟩,
   by exact ⟨.core .steward 1, 0, 1, live, by decide +kernel⟩,
   by exact ⟨.core .steward 1, 3, live, by decide +kernel⟩,
   by exact ⟨.core .steward 1, false, live, by decide +kernel⟩,
   by exact ⟨.core .steward 1, true, live, by decide +kernel⟩,
   by exact ⟨.core .steward 1, true, live.setOwner (resId 4 20) 1, resId 4 20, by decide +kernel⟩,
   by exact ⟨.core .steward 1, false, live.setF F.LED_LMX_CTRL_EN 1, by decide +kernel⟩,
   by exact ⟨.core .steward 1, live, by decide +kernel⟩,
   by exact ⟨.core .steward 1, 3, 1, 7, live, by decide +kernel⟩,
   by exact ⟨.core .steward 1, 3, 1, 7, live.setOwner (resId 5 54) 1, 2, by decide +kernel⟩,
   by exact ⟨3, live, by decide +kernel⟩,
   by exact ⟨(live.setF F.LED_CTRL_EN 1).setF (F.LED_N_CMD_CUR 3) 4096, by decide +kernel⟩,
   by exact ⟨(live.setF F.LED_CTRL_EN 1).setF (F.LED_N_CMD_DUTY 3) 100, by decide +kernel⟩,
   by decide,
   by exact ⟨3, 1, true, true, live, by decide +kernel⟩,
   by exact ⟨3, 5000, false, false, ((live.setF F.LED_CTRL_EN 1).setF (F.LED_N_STAT_ECODE 3) 90).modLed 3 (fun c => { c with duty := 5, on := 600 }), _, _, _, _, by decide +kernel, by decide +kernel, by decide +kernel, by decide +kernel, rfl, by decide +kernel, by decide +kernel, by decide +kernel, rfl, rfl, rfl, by decide +kernel, by decide +kernel⟩,
   by exact ⟨⟨0, 4⟩, by decide⟩,
   by decide +kernel,
   by exact ⟨some 5, false, ((live.setF F.LED_CTRL_FB_EN 1).setF F.LED_HR_HR_MV 500).setF F.LED_HR_FB_MAX 9, _, 5, rfl, by decide +kernel⟩,
   by exact ⟨none, false, live.setF F.LED_CTRL_FB_EN 1, _, rfl, by decide +kernel⟩,
   by exact ⟨(live.setF (F.LED_CURVE_CFG_NPTS 0) 1).setF (F.LED_CURVE_CFG_SRC 0) 16, 0, sval 16 (live.f F.MEAS_TEMP_POWER), by decide +kernel⟩,
   by exact ⟨(live.setF F.LED_LMX_CTRL_EN 1).setF F.LED_CTRL_EN 1, by decide +kernel⟩,
   by exact ⟨0, 3, 5, (live.setF F.LED_LMX_CTRL_EN 1).setF F.LED_CTRL_EN 1, by decide +kernel⟩,
   by exact ⟨live, 0, 0, 9, true, by decide +kernel⟩,
   by exact ⟨(live.setF F.LED_LMX_CTRL_EN 1).setF F.LED_CTRL_EN 1, by decide +kernel⟩,
   by exact ⟨.core .steward 1, 0, live, by decide +kernel⟩,
   by exact ⟨.core .steward 1, 3, true, live, by decide +kernel⟩,
   by exact ⟨.core .steward 1, 3, true, live.setOwner (resId 12 3) 1, by decide +kernel⟩,
   by decide +kernel,
   by exact ⟨live, 1, 2, 0, by decide +kernel⟩,
   by exact ⟨live.setF F.PINOWN_CONF_INFO_VALID 1, 1, 2, 0, by decide +kernel⟩⟩

theorem wit_crc16Bit {c : Nat} (h : c < 65536) : crc16Bit c < 65536 := by
  unfold crc16Bit
  split
  · exact Nat.xor_lt_two_pow (n := 16) (Nat.mod_lt _ (by decide)) (by decide)
  · rename_i hb
    simp [bit] at hb
    omega
theorem wit_crc16 (l : List Byte) : crc16 l < 65536 := by
  have : ∀ (l : List Byte) (c : Nat), c < 65536 → l.foldl (fun c b => crc16Bit (crc16Bit (crc16Bit (crc16Bit (crc16Bit (crc16Bit (crc16Bit (crc16Bit (c ^^^ (b.toNat * 256)))))))))) c < 65536 := by
    intro l
    induction l with
    | nil => intro c h; exact h
    | cons b l ih =>
      intro c h
      refine ih _ ?_
      have : c ^^^ (b.toNat * 256) < 65536 := Nat.xor_lt_two_pow (n := 16) h (by have := b.isLt; omega)
      exact wit_crc16Bit (wit_crc16Bit (wit_crc16Bit (wit_crc16Bit (wit_crc16Bit (wit_crc16Bit (wit_crc16Bit (wit_crc16Bit this)))))))
  exact this l _ (by decide)
/-- A reply of token 7 with SEQ `sq`, flags `fl` and the MAC `m`, its CRC right. -/
def accBdy (sq fl : Byte) : List Byte := [7#8, 0#8, 0#8, 0#8, sq, fl] ++ List.replicate 24 0#8
def accFr (sq fl : Byte) (m : List Byte) : List Byte :=
  accBdy sq fl ++ m ++ [BitVec.ofNat 8 (crc16 (accBdy sq fl ++ m) / 256), BitVec.ofNat 8 (crc16 (accBdy sq fl ++ m))]
theorem accFr_ok (q : State) (sq fl a b c d e f g h : Byte) (hs : q.f F.ACC_CTRL_SITE = 0) (hq : q.acc.seq = sq.toNat) :
    q.accFrameOk (accFr sq fl [a, b, c, d, e, f, g, h]) = true ∧ ((accFr sq fl [a, b, c, d, e, f, g, h]).drop 30).take 8 = [a, b, c, d, e, f, g, h] ∧
    leAt (accFr sq fl [a, b, c, d, e, f, g, h]) 0 4 = 7 ∧ leAt (accFr sq fl [a, b, c, d, e, f, g, h]) 5 1 = fl.toNat ∧
    q.accMac (accFr sq fl [a, b, c, d, e, f, g, h]) = q.accMac (accBdy sq fl) := by
  have hc := wit_crc16 (accBdy sq fl ++ [a, b, c, d, e, f, g, h])
  unfold accFr
  generalize hk : crc16 (accBdy sq fl ++ [a, b, c, d, e, f, g, h]) = k at hc ⊢
  refine ⟨?_, rfl, rfl, ?_, rfl⟩
  · have e0 : (accBdy sq fl ++ [a, b, c, d, e, f, g, h] ++ [BitVec.ofNat 8 (k / 256), BitVec.ofNat 8 k]).take 38 = accBdy sq fl ++ [a, b, c, d, e, f, g, h] := rfl
    have e1 : leAt (accBdy sq fl ++ [a, b, c, d, e, f, g, h] ++ [BitVec.ofNat 8 (k / 256), BitVec.ofNat 8 k]) 38 1 = k / 256 % 256 := by
      show leVal [BitVec.ofNat 8 (k / 256)] = _
      simp [leVal]
    have e2 : leAt (accBdy sq fl ++ [a, b, c, d, e, f, g, h] ++ [BitVec.ofNat 8 (k / 256), BitVec.ofNat 8 k]) 39 1 = k % 256 := by
      show leVal [BitVec.ofNat 8 k] = _
      simp [leVal]
    have e3 : k = k / 256 % 256 * 256 + k % 256 := by omega
    have e4 : leAt (accBdy sq fl ++ [a, b, c, d, e, f, g, h] ++ [BitVec.ofNat 8 (k / 256), BitVec.ofNat 8 k]) 0 4 = 7 := rfl
    have e5 : leAt (accBdy sq fl ++ [a, b, c, d, e, f, g, h] ++ [BitVec.ofNat 8 (k / 256), BitVec.ofNat 8 k]) 4 1 = sq.toNat := by
      show leVal [sq] = _
      simp [leVal]
    unfold State.accFrameOk
    rw [e0, e1, e2, hk, hs, hq, ← e3, e4, e5]
    simp [accBdy]
  · show leVal [fl] = _
    simp [leVal]
theorem accMac_eq (q : State) (fr : List Byte) : ∃ a b c d e f g h : Byte, q.accMac fr = [a, b, c, d, e, f, g, h] :=
  ⟨_, _, _, _, _, _, _, _, rfl⟩
/-- Such a reply with the right MAC, and one with a wrong MAC. -/
theorem accFr_ex (q : State) (sq fl : Byte) (hs : q.f F.ACC_CTRL_SITE = 0) (hq : q.acc.seq = sq.toNat) :
    (∃ fr, q.accFrameOk fr = true ∧ (fr.drop 30).take 8 = q.accMac fr ∧ leAt fr 0 4 = 7 ∧ leAt fr 5 1 = fl.toNat) ∧
    (∃ fr, q.accFrameOk fr = true ∧ (fr.drop 30).take 8 ≠ q.accMac fr) := by
  obtain ⟨a, b, c, d, e, f, g, h, hm⟩ := accMac_eq q (accBdy sq fl)
  obtain ⟨h1, h2, h3, h4, h5⟩ := accFr_ok q sq fl a b c d e f g h hs hq
  obtain ⟨k1, k2, -, -, k5⟩ := accFr_ok q sq fl (~~~a) b c d e f g h hs hq
  refine ⟨⟨_, h1, by rw [h2, h5, hm], h3, h4⟩, _, k1, ?_⟩
  rw [k2, k5, hm]
  simp only [ne_eq, List.cons.injEq, and_true]
  intro hx
  have := congrArg (fun z : Byte => z.getLsbD 0) hx
  simp at this
/-- A poll is due; token 0 with serial 7 is enrolled. -/
def pollS : State :=
  ((((live.setF F.ENCL_STAT_TRNG 1).setF F.ACC_CTRL_EN 1).modAcc (fun a => { a with poll := true })).setF (F.ACC_TOK_EN 0) 1).setF (F.ACC_TOK_SERIAL 0) 7
/-- A scan's code is on the air and one token is enrolled, none in the code yet. -/
def accS : State := (((live.setF F.ACC_CTRL_EN 1).setF (F.ACC_TOK_EN 0) 1).setF (F.ACC_TOK_SERIAL 0) 7).modAcc (fun a => { a with code := true, scan := true })
/-- The part of a reply that its MAC covers: TID 7, SEQ 0, no flag. -/
def accBody : List Byte := [7#8] ++ List.replicate 29 0#8
def accMacBytes : List Byte := (Config.cmac (Config.aes128 [] (accBody.take 4 ++ List.replicate 12 0#8)) (leBytes 2 0x1000 ++ [] ++ accBody)).take 8
def accFrame : List Byte := accBody ++ accMacBytes ++ [BitVec.ofNat 8 (crc16 (accBody ++ accMacBytes) / 256), BitVec.ofNat 8 (crc16 (accBody ++ accMacBytes))]
theorem accMacBytes_eq : ∃ a b c d e f g h : Byte, accMacBytes = [a, b, c, d, e, f, g, h] :=
  ⟨_, _, _, _, _, _, _, _, rfl⟩
theorem accFrame_ok : accS.accFrameOk accFrame = true ∧ (accFrame.drop 30).take 8 = accS.accMac accFrame ∧ leAt accFrame 0 4 = 7 ∧ leAt accFrame 5 1 = 0 := by
  have hm : accS.accMac accFrame = accMacBytes := by
    unfold accFrame
    obtain ⟨a, b, c, d, e, f, g, h, hx⟩ := accMacBytes_eq
    have e1 : ∀ q : List Byte, (accBody ++ accMacBytes ++ q).take 30 = accBody := by intro q; rw [hx]; rfl
    have e2 : ∀ q : List Byte, (accBody ++ accMacBytes ++ q).take 4 = accBody.take 4 := by intro q; rw [hx]; rfl
    have es : accS.f F.ACC_CTRL_SITE = 0 := by decide +kernel
    unfold State.accMac
    have ek : accS.acc.key = [] := by decide +kernel
    have ec : accS.acc.chal = [] := by decide +kernel
    rw [e1, e2, es, ek, ec]
    rfl
  obtain ⟨a, b, c, d, e, f, g, h, hx⟩ := accMacBytes_eq
  have hc := wit_crc16 (accBody ++ accMacBytes)
  rw [hm]
  unfold accFrame
  rw [hx] at hc ⊢
  generalize hk : crc16 (accBody ++ [a, b, c, d, e, f, g, h]) = k at hc ⊢
  refine ⟨?_, rfl, rfl, rfl⟩
  have e0 : (accBody ++ [a, b, c, d, e, f, g, h] ++ [BitVec.ofNat 8 (k / 256), BitVec.ofNat 8 k]).take 38 = accBody ++ [a, b, c, d, e, f, g, h] := rfl
  have e1 : leAt (accBody ++ [a, b, c, d, e, f, g, h] ++ [BitVec.ofNat 8 (k / 256), BitVec.ofNat 8 k]) 38 1 = k / 256 % 256 := by
    show leVal [BitVec.ofNat 8 (k / 256)] = _
    simp [leVal]
  have e2 : leAt (accBody ++ [a, b, c, d, e, f, g, h] ++ [BitVec.ofNat 8 (k / 256), BitVec.ofNat 8 k]) 39 1 = k % 256 := by
    show leVal [BitVec.ofNat 8 k] = _
    simp [leVal]
  unfold State.accFrameOk
  rw [e0, e1, e2, hk]
  have e3 : k = k / 256 % 256 * 256 + k % 256 := by omega
  have es : accS.f F.ACC_CTRL_SITE = 0 := by decide +kernel
  have eq : accS.acc.seq = 0 := by decide +kernel
  rw [es, eq, ← e3]
  have e4 : leAt (accBody ++ [a, b, c, d, e, f, g, h] ++ [BitVec.ofNat 8 (k / 256), BitVec.ofNat 8 k]) 0 4 = 7 := rfl
  have e5 : leAt (accBody ++ [a, b, c, d, e, f, g, h] ++ [BitVec.ofNat 8 (k / 256), BitVec.ofNat 8 k]) 4 1 = 0 := rfl
  rw [e4, e5]
  simp [accBody]

theorem witness_AccessControlCommandsActAsTheTablesSay :
    (∃ (r : Req) (s : State) (x : Option Sess) (s1 : State) (z : Nat) (p : Nat), Started s r 7 1 x s1 ∧ (r.payload.length = 2) ∧ (leAt r.payload 0 1 = z) ∧ (leAt r.payload 1 1 = p) ∧ (z ≤ 2) ∧ (p ≤ 15) ∧ (s1.accCalRefused z = false) ∧ (s1.acc.cal = none) ∧ (s1.flag F.ACC_GATE_ANTF = false)) ∧
    (∃ (r : Req) (s : State) (x : Option Sess) (s1 : State) (z : Nat) (p : Nat), Started s r 7 1 x s1 ∧ (r.payload.length = 2) ∧ (leAt r.payload 0 1 = z) ∧ (leAt r.payload 1 1 = p) ∧ (z ≤ 2) ∧ (p ≤ 15) ∧ (s1.accCalRefused z = true ∨ s1.acc.cal ≠ none)) ∧
    (∃ (r : Req) (s : State) (x : Option Sess) (s1 : State), Started s r 7 2 x s1 ∧ (r.payload.length = 1) ∧ (leVal r.payload = 1) ∧ (s1.f F.ACC_GATE_OVR = 0) ∧ (s1.flag F.ACC_DOOR_KEY_EN = true)) ∧
    (∃ (r : Req) (s : State) (x : Option Sess) (s1 : State), Started s r 7 2 x s1 ∧ (r.payload.length = 1) ∧ (leVal r.payload = 1) ∧ (s1.f F.ACC_GATE_OVR = 0) ∧ (s1.flag F.ACC_DOOR_KEY_EN = false)) ∧
    (∃ (r : Req) (s : State) (x : Option Sess) (s1 : State), Started s r 7 2 x s1 ∧ (r.payload.length = 1) ∧ (leVal r.payload = 0) ∧ (s1.f F.ACC_GATE_OVR = 2) ∧ (s1.accKey = true)) ∧
    (∃ (r : Req) (s : State) (x : Option Sess) (s1 : State), Started s r 7 2 x s1 ∧ (r.payload.length = 1) ∧ (leVal r.payload = 0) ∧ (s1.f F.ACC_GATE_OVR = 1)) ∧
    (∃ (r : Req) (s : State) (x : Option Sess) (s1 : State) (tid : Nat) (fl : Nat) (k : Nat), Started s r 7 3 x s1 ∧ (r.payload.length = 6) ∧ (leAt r.payload 0 4 = tid) ∧ (leAt r.payload 4 1 = fl) ∧ (leAt r.payload 5 1 = 0) ∧ (tid / 2 ^ 20 = s1.f F.ACC_CTRL_SITE) ∧ (fl < 8) ∧ (s1.accTok (tid % 2 ^ 20) = some k)) ∧
    (∃ (r : Req) (s : State) (x : Option Sess) (s1 : State) (tid : Nat) (fl : Nat) (k : Nat), Started s r 7 3 x s1 ∧ (r.payload.length = 6) ∧ (leAt r.payload 0 4 = tid) ∧ (leAt r.payload 4 1 = fl) ∧ (leAt r.payload 5 1 = 0) ∧ (tid / 2 ^ 20 = s1.f F.ACC_CTRL_SITE) ∧ (fl < 8) ∧ (s1.accTok (tid % 2 ^ 20) = none) ∧ (bit fl 0 = true) ∧ (firstBelow 256 (fun j => !s1.flag (F.ACC_TOK_EN j)) = some k)) ∧
    (∃ (r : Req) (s : State) (x : Option Sess) (s1 : State) (tid : Nat) (fl : Nat), Started s r 7 3 x s1 ∧ (r.payload.length = 6) ∧ (leAt r.payload 0 4 = tid) ∧ (leAt r.payload 4 1 = fl) ∧ (leAt r.payload 5 1 = 0) ∧ (tid / 2 ^ 20 = s1.f F.ACC_CTRL_SITE) ∧ (fl < 8) ∧ (s1.accTok (tid % 2 ^ 20) = none) ∧ (bit fl 0 = false)) ∧
    (∃ t : State, t = (((live.setF (F.ACC_TOK_SERIAL 1) 5).setF (F.ACC_TOK_EN 1) 1).setF (F.ACC_TOK_LOCK 1) 0).setF (F.ACC_TOK_CAL 1) 0) ∧
    (∃ (r : Req) (s : State) (x : Option Sess) (s1 : State), Started s r 7 4 x s1 ∧ (r.payload.length = 0)) ∧
    (∃ (who : Who) (value : Word) (s : State), (s.regOk who (A.ACC_CTRL) = true)) ∧
    (∃ (t : State) (x : KeySlot) (k : List Byte), t.slot 0 = some x ∧ t.busKey 0 9 = some k ∧ x.typ = 0) ∧
    (∃ (who : Who) (value : Word) (s : State), (s.regOk who (A.ACC_LOCK) = true)) ∧
    (∃ t : State, t.flag F.ACC_LOCK_EN = false ∧ t.claimable 5 (accLockRes 0 3) = true ∧ t.accLockIlk 0 3 = false) ∧
    (∃ (who : Who) (value : Word) (s : State), (s.regOk who (A.ACC_DOOR) = true)) ∧
    (∃ (who : Who) (z : Fin 3) (p : Fin 16) (high : Bool) (value : Word) (s : State), (s.regOk who (A.ACC_CAL_L z p) = true) ∧ (s.accCalRefused z = false)) ∧
    (∃ (who : Who) (z : Fin 3) (p : Fin 16) (high : Bool) (value : Word) (s : State), (s.regOk who (A.ACC_CAL_L z p) = true) ∧ (s.accCalRefused z = true)) ∧
    (∃ (s : State), (s.flag F.ACC_CTRL_EN = false)) ∧
    (∃ (s : State), (s.flag F.ACC_CTRL_EN = true) ∧ (s.acc.scan = true ∨ s.acc.poll = true)) ∧
    (∃ (s : State), (s.flag F.ACC_CTRL_EN = true) ∧ (s.acc.scan = false) ∧ (s.acc.poll = false)) ∧
    (∃ (s : State), (s.flag F.ACC_CTRL_EN = true) ∧ (s.flag F.ENCL_STAT_TRNG = true) ∧ (s.acc.scan = true) ∧ (s.acc.code = false) ∧ (s.acc.rep = 0)) ∧
    (∃ (s : State), (s.flag F.ACC_CTRL_EN = true) ∧ (s.flag F.ENCL_STAT_TRNG = true) ∧ (s.acc.scan = true) ∧ (s.acc.code = false) ∧ (s.acc.rep < 3)) ∧
    (∃ (a : Fin 8) (mv : BitVec 12) (s : State), (s.acc.code = true) ∧ (s.inMeas a = true)) ∧
    (∃ s : State, s.acc.code = true ∧ s.inMeas 2 = true) ∧
    (∃ (s : State), (s.acc.code = false)) ∧
    (∃ s t : State, s.acc.code = true ∧ t = (s.raise 1430).modAcc (fun a => { a with code := false, txen := false, cal := a.cal.map (fun c => { c with disturbed := min 255 (c.disturbed + 1) }) }) ∧ t.acc.rep < 3) ∧
    (∃ (frame : List Byte) (rssi : BitVec 16) (s : State), (s.acc.code = false)) ∧
    (accS.acc.code = true ∧ accS.accFrameOk [] = false) ∧
    (∃ (frame : List Byte) (rssi : BitVec 16) (s : State) (t : State), (s.acc.code = true) ∧ (t = s.setF F.ACC_LAST_RSSI (min 255 rssi.toNat)) ∧ (t.accFrameOk frame = true) ∧ ((frame.drop 30).take 8 ≠ t.accMac frame)) ∧
    (∃ (frame : List Byte) (rssi : BitVec 16) (s : State) (q : State) (k : Nat) (zone : Nat) (t : State) (u : State), (s.acc.code = true) ∧ (q = s.setF F.ACC_LAST_RSSI (min 255 rssi.toNat)) ∧ (q.accFrameOk frame = true) ∧ ((frame.drop 30).take 8 = q.accMac frame) ∧ (bit (leAt frame 5 1) 0 = false) ∧ (q.accTok (leAt frame 0 4 % 2 ^ 20) = some k) ∧ (q.acc.inCode.contains (leAt frame 0 4 % 2 ^ 20) = false) ∧ (q.acc.inScan.contains (leAt frame 0 4 % 2 ^ 20) = false) ∧ (zone = q.accClassify (q.accM frame)) ∧ ((t = (q.accLast (leAt frame 0 4) zone 0).modAcc (fun a => { a with inCode := leAt frame 0 4 % 2 ^ 20 :: a.inCode, inside := a.inside || zone == 1, calSeen := if q.flag (F.ACC_TOK_CAL k) then q.accM frame :: a.calSeen else a.calSeen }))) ∧ (u = (t.occReply (leAt frame 0 4 % 2 ^ 20) zone).modAcc (fun a => { a with inScan := leAt frame 0 4 % 2 ^ 20 :: a.inScan }))) ∧
    (∃ (s : State) (serial : Nat), (s.occFind serial = none)) ∧
    (∃ (s : State) (serial : Nat) (k : Nat), (firstBelow 16 (fun k => s.f (F.ACC_OCC_STATE k) == 0) = some k)) ∧
    (((live.incF F.ACC_LOCKOUT_FAILS 1).raise 1428).flag F.ACC_STAT_LOCKOUT = false) ∧
    (accS.acc.code = true) ∧
    (∃ (s : State), (s.acc.code = false)) ∧
    (live.acc.waiting = false ∧ live.acc.cal = none ∧ (live.modAcc (fun a => { a with waiting := true })).acc.waiting = true) ∧
    (∃ (s : State), (s.flag F.ACC_STAT_SESS = true)) ∧
    (∃ (s : State), (s.flag F.ACC_STAT_SESS = false)) ∧
    (∃ (s : State), (s.f F.ACC_GATE_OVR = 1)) ∧
    (∃ (s : State), (s.f F.ACC_GATE_OVR ≠ 1)) ∧
    (∃ (mv : BitVec 12) (frame : List (BitVec 8)) (s : State), (s.acc.poll = false ∨ s.flag F.ACC_CTRL_EN = false)) ∧
    (∃ (mv : BitVec 12) (frame : List (BitVec 8)) (s : State), (s.acc.poll = true) ∧ (s.flag F.ACC_CTRL_EN = true) ∧ (s.flag F.ENCL_STAT_TRNG = false)) ∧
    (∃ (mv : BitVec 12) (frame : List (BitVec 8)) (s : State), (s.acc.poll = true) ∧ (s.flag F.ACC_CTRL_EN = true) ∧ (s.flag F.ENCL_STAT_TRNG = true) ∧ (s.f F.ACC_IF_AMB_MV < mv.toNat)) ∧
    (∃ (s : State), (s.acc.pollRep < 3)) ∧
    (∃ (mv : BitVec 12) (frame : List (BitVec 8)) (s : State), (s.acc.poll = true) ∧ (s.flag F.ACC_CTRL_EN = true) ∧ (s.flag F.ENCL_STAT_TRNG = true) ∧ (mv.toNat ≤ s.f F.ACC_IF_AMB_MV) ∧ ((s.accCode 0x80).accFrameOk frame = false)) ∧
    (∃ (mv : BitVec 12) (frame : List (BitVec 8)) (s : State), (s.acc.poll = true) ∧ (s.flag F.ACC_CTRL_EN = true) ∧ (s.flag F.ENCL_STAT_TRNG = true) ∧ (mv.toNat ≤ s.f F.ACC_IF_AMB_MV) ∧ ((s.accCode 0x80).accFrameOk frame = true) ∧ ((frame.drop 30).take 8 = (s.accCode 0x80).accMac frame) ∧ (bit (leAt frame 5 1) 0 = true)) ∧
    (∃ (mv : BitVec 12) (frame : List (BitVec 8)) (s : State) (k : Nat), (s.acc.poll = true) ∧ (s.flag F.ACC_CTRL_EN = true) ∧ (s.flag F.ENCL_STAT_TRNG = true) ∧ (mv.toNat ≤ s.f F.ACC_IF_AMB_MV) ∧ ((s.accCode 0x80).accFrameOk frame = true) ∧ ((frame.drop 30).take 8 = (s.accCode 0x80).accMac frame) ∧ (bit (leAt frame 5 1) 0 = false) ∧ ((s.accCode 0x80).accTok (leAt frame 0 4 % 2 ^ 20) = some k)) ∧
    (∃ (s : State) (s0 : State), (s.accDoor = s0.accDoor) ∧ (s.accKey = s0.accKey)) :=
  ⟨by exact ⟨rq 7 1 ([0,3]), withCmd (live), _, _, 0, 3, started_rq _ 7 1 _ (by decide +kernel) ⟨_, rfl, by decide, by decide +kernel, by decide⟩, by decide +kernel⟩,
   by exact ⟨rq 7 1 ([1,3]), withCmd (live.setF F.ACC_GATE_OVF 1), _, _, 1, 3, started_rq _ 7 1 _ (by decide +kernel) ⟨_, rfl, by decide, by decide +kernel, by decide⟩, by decide +kernel⟩,
   by exact ⟨rq 7 2 ([1]), withCmd (live.setF F.ACC_DOOR_KEY_EN 1), _, _, started_rq _ 7 2 _ (by decide +kernel) ⟨_, rfl, by decide, by decide +kernel, by decide⟩, by decide +kernel⟩,
   by exact ⟨rq 7 2 ([1]), withCmd (live), _, _, started_rq _ 7 2 _ (by decide +kernel) ⟨_, rfl, by decide, by decide +kernel, by decide⟩, by decide +kernel⟩,
   by exact ⟨rq 7 2 ([0]), withCmd (((live.setF F.ACC_DOOR_KEY_EN 1).setF (F.DIO_N_STAT_IN 0) 1).setF F.ACC_GATE_OVR 2), _, _, started_rq _ 7 2 _ (by decide +kernel) ⟨_, rfl, by decide, by decide +kernel, by decide⟩, by decide +kernel⟩,
   by exact ⟨rq 7 2 ([0]), withCmd (live.setF F.ACC_GATE_OVR 1), _, _, started_rq _ 7 2 _ (by decide +kernel) ⟨_, rfl, by decide, by decide +kernel, by decide⟩, by decide +kernel⟩,
   by exact ⟨rq 7 3 ([7,0,0,0,1,0]), withCmd ((live.setF (F.ACC_TOK_EN 0) 1).setF (F.ACC_TOK_SERIAL 0) 7), _, _, 7, 1, 0, started_rq _ 7 3 _ (by decide +kernel) ⟨_, rfl, by decide, by decide +kernel, by decide⟩, by decide +kernel⟩,
   by exact ⟨rq 7 3 ([7,0,0,0,1,0]), withCmd (live), _, _, 7, 1, 0, started_rq _ 7 3 _ (by decide +kernel) ⟨_, rfl, by decide, by decide +kernel, by decide⟩, by decide +kernel⟩,
   by exact ⟨rq 7 3 ([7,0,0,0,0,0]), withCmd (live), _, _, 7, 0, started_rq _ 7 3 _ (by decide +kernel) ⟨_, rfl, by decide, by decide +kernel, by decide⟩, by decide +kernel⟩,
   by exact ⟨_, rfl⟩,
   by exact ⟨rq 7 4 ([]), withCmd (live), _, _, started_rq _ 7 4 _ (by decide +kernel) ⟨_, rfl, by decide, by decide +kernel, by decide⟩, by decide +kernel⟩,
   by exact ⟨.core .steward 1, 0, live, by decide +kernel⟩,
   by exact ⟨{ live with encl := { live.encl with slots := [(0, { (default : KeySlot) with usage := 512 })] } }, { (default : KeySlot) with usage := 512 }, [], by decide +kernel⟩,
   by exact ⟨.core .steward 1, 0, live, by decide +kernel⟩,
   by exact ⟨live, by decide +kernel⟩,
   by exact ⟨.core .steward 1, 0, live, by decide +kernel⟩,
   by exact ⟨.core .steward 1, 0, 3, true, 9, live, by decide +kernel⟩,
   by exact ⟨.core .steward 1, 1, 3, true, 9, live.setF F.ACC_GATE_OVF 1, by decide +kernel⟩,
   by exact ⟨live, by decide +kernel⟩,
   by exact ⟨(live.setF F.ACC_CTRL_EN 1).modAcc (fun a => { a with scan := true }), by decide +kernel⟩,
   by exact ⟨live.setF F.ACC_CTRL_EN 1, by decide +kernel⟩,
   by exact ⟨((live.setF F.ACC_CTRL_EN 1).modAcc (fun a => { a with scan := true })).setF F.ENCL_STAT_TRNG 1, by decide +kernel⟩,
   by exact ⟨((live.setF F.ACC_CTRL_EN 1).modAcc (fun a => { a with scan := true })).setF F.ENCL_STAT_TRNG 1, by decide +kernel⟩,
   by exact ⟨2, 5, ((live.setF F.ACC_CTRL_EN 1).modAcc (fun a => { a with scan := true, code := true })).setF F.ACC_SCAN_MEAS 255, by decide +kernel⟩,
   by exact ⟨((live.setF F.ACC_CTRL_EN 1).modAcc (fun a => { a with scan := true, code := true })).setF F.ACC_SCAN_MEAS 255, by decide +kernel⟩,
   by exact ⟨live, by decide +kernel⟩,
   by exact ⟨accS, _, by decide +kernel, rfl, by decide +kernel⟩,
   by exact ⟨[], 0, live, by decide +kernel⟩,
   by exact ⟨by decide +kernel, by decide +kernel⟩,
   by obtain ⟨fr, h1, h2⟩ := (accFr_ex (accS.setF F.ACC_LAST_RSSI (min 255 (3#16).toNat)) 0 0 (by decide +kernel) (by decide +kernel)).2; exact ⟨fr, 3, accS, _, by decide +kernel, rfl, h1, h2⟩,
   by obtain ⟨fr, h1, h2, h3, h4⟩ := (accFr_ex (accS.setF F.ACC_LAST_RSSI (min 255 (3#16).toNat)) 0 0 (by decide +kernel) (by decide +kernel)).1; exact ⟨fr, 3, accS, _, 0, _, _, _, by decide +kernel, rfl, h1, h2, by rw [h4]; decide, by rw [h3]; decide +kernel, by rw [h3]; decide +kernel, by rw [h3]; decide +kernel, rfl, rfl, rfl⟩,
   by exact ⟨live, 5, by decide +kernel⟩,
   by exact ⟨live, 5, 0, by decide +kernel⟩,
   by decide +kernel,
   by decide +kernel,
   by exact ⟨live, by decide +kernel⟩,
   by decide +kernel,
   by exact ⟨live.setF F.ACC_STAT_SESS 1, by decide +kernel⟩,
   by exact ⟨live, by decide +kernel⟩,
   by exact ⟨live.setF F.ACC_GATE_OVR 1, by decide +kernel⟩,
   by exact ⟨live, by decide +kernel⟩,
   by exact ⟨0, [], live, by decide +kernel⟩,
   by exact ⟨0, [], ((live.setF F.ENCL_STAT_TRNG 0).setF F.ACC_CTRL_EN 1).modAcc (fun a => { a with poll := true }), by decide +kernel⟩,
   by exact ⟨4000, [], ((live.setF F.ENCL_STAT_TRNG 1).setF F.ACC_CTRL_EN 1).modAcc (fun a => { a with poll := true }), by decide +kernel⟩,
   by exact ⟨live, by decide +kernel⟩,
   by exact ⟨0, [], ((live.setF F.ENCL_STAT_TRNG 1).setF F.ACC_CTRL_EN 1).modAcc (fun a => { a with poll := true }), by decide +kernel⟩,
   by obtain ⟨fr, h1, h2, h3, h4⟩ := (accFr_ex (pollS.accCode 0x80) 1 1 (by decide +kernel) (by decide +kernel)).1; exact ⟨0, fr, pollS, by decide +kernel, by decide +kernel, by decide +kernel, by decide +kernel, h1, h2, by rw [h4]; decide⟩,
   by obtain ⟨fr, h1, h2, h3, h4⟩ := (accFr_ex (pollS.accCode 0x80) 1 0 (by decide +kernel) (by decide +kernel)).1; exact ⟨0, fr, pollS, 0, by decide +kernel, by decide +kernel, by decide +kernel, by decide +kernel, h1, h2, by rw [h4]; decide, by rw [h3]; decide +kernel⟩,
   by exact ⟨live, live, by decide +kernel⟩⟩

theorem witness_CanControllerCommandsActAsTheTablesSay :
    (∃ (r : Req) (s : State) (x : Option Sess) (s1 : State), Started s r 5 1 x s1 ∧ (3 ≤ r.payload.length) ∧ (r.payload.length = 3 + 8 * leAt r.payload 1 2) ∧ (leAt r.payload 0 1 < 16)) ∧
    (leAt [0x30,0,0,0,1,0,0,0] 0 2 < 0x7000 ∧ leAt [0x30,0,0,0,1,0,0,0] 2 2 = 0 ∧ (live.canReg 3 0x30 1).2 = .ok ∧ ((live.setF (F.CAN_STAT_STATE 3) 1).canReg 3 0x10 1).2 = .state 1) ∧
    (∃ (r : Req) (s : State) (x : Option Sess) (s1 : State), Started s r 5 2 x s1 ∧ 18 ≤ r.payload.length ∧ leAt r.payload 0 1 = 3 ∧ leAt r.payload 1 1 = 0 ∧ leAt r.payload 2 8 = 0 ∧ leAt r.payload 14 4 = 0 ∧ r.payload.length = 18 + min 64 (bits 0 6 0) ∧ 0 ≤ s1.dtime + 1800000000000 ∧ s1.owner (resId 8 (64 * 3 + 0)) = 0 ∧ s1.canReserved 3 0 = false ∧ (s1.canCh 3).active ≠ some 0) ∧
    (∃ (r : Req) (s : State) (x : Option Sess) (s1 : State), Started s r 5 2 x s1 ∧ 18 ≤ r.payload.length ∧ leAt r.payload 0 1 = 3 ∧ leAt r.payload 1 1 = 0 ∧ leAt r.payload 2 8 = 0 ∧ leAt r.payload 14 4 = 0 ∧ r.payload.length = 18 + min 64 (bits 0 6 0) ∧ 0 ≤ s1.dtime + 1800000000000 ∧ s1.owner (resId 8 (64 * 3 + 0)) = 0 ∧ s1.canReserved 3 0 = false ∧ (s1.canCh 3).active = some 0) ∧
    (∃ (r : Req) (s : State) (x : Option Sess) (s1 : State), Started s r 5 3 x s1 ∧ (r.payload.length = 3) ∧ (leAt r.payload 0 1 < 16) ∧ (leAt r.payload 1 2 < 1088)) ∧
    (∃ (who : Who) (n : Fin 16) (value : Word) (s : State), (s.regOk who (A.CAN_CTRL n) = true)) ∧
    (∃ (who : Who) (n : Fin 16) (value : Word) (s : State), (s.regOk who (A.CAN_CTRL n) = true)) ∧
    (∃ (who : Who) (n : Fin 16) (value : Word) (s : State), (s.regOk who (A.CAN_CTRL n) = true)) ∧
    (∃ (who : Who) (n : Fin 16) (value : Word) (s : State), (s.regOk who (A.CAN_CTRL n) = true)) ∧
    (bit 0x101 8 = true ∧ bit 0x101 0 = true ∧ bit 1 8 = false ∧ bit 0 0 = false) ∧
    (∃ (s : State) (n : Nat), (s.f (F.CAN_STAT_STATE n) = 0)) ∧
    (live.txfBlock 3 (min 32 5) = none ∧ (live.setOwner (resId 8 (64 * 3 + 60)) 1).txfBlock 3 5 = some (resId 8 (64 * 3 + 60))) ∧
    (∃ (who : Who) (n : Fin 16) (value : Word) (s : State), (s.regOk who (A.CAN_AUTH n) = true)) ∧
    (∃ t : State, t.busKey 0 8 = some []) ∧
    (∃ (who : Who) (n : Fin 16) (high : Bool) (value : Word) (s : State), (s.regOk who (A.CAN_TXREQ_SET_L n) = true) ∧ ((maskObjs high value.toNat).find? (fun t => s.owner (resId 8 (64 * n.val + t)) != 0) = none)) ∧
    (∃ (who : Who) (n : Fin 16) (high : Bool) (value : Word) (s : State) (t : Nat), (s.regOk who (A.CAN_TXREQ_SET_L n) = true) ∧ ((maskObjs high value.toNat).find? (fun t => s.owner (resId 8 (64 * n.val + t)) != 0) = some t)) ∧
    (∃ (who : Who) (n : Fin 16) (high : Bool) (value : Word) (s : State), (s.regOk who (A.CAN_TXREQ_CLR_L n) = true) ∧ ((maskObjs high value.toNat).find? (fun t => s.owner (resId 8 (64 * n.val + t)) != 0) = none)) ∧
    (∃ (who : Who) (n : Fin 16) (high : Bool) (value : Word) (s : State) (t : Nat), (s.regOk who (A.CAN_TXREQ_CLR_L n) = true) ∧ ((maskObjs high value.toNat).find? (fun t => s.owner (resId 8 (64 * n.val + t)) != 0) = some t)) ∧
    (∃ (who : Who) (n : Fin 16) (wide : Bool) (value : BitVec 64) (s : State), (s.regOk who (A.CAN_TXFIFO n 0) = true) ∧ (s.owner (resId 10 n) = 0)) ∧
    (∃ (who : Who) (n : Fin 16) (wide : Bool) (value : BitVec 64) (s : State), (s.regOk who (A.CAN_TXFIFO n 0) = true) ∧ (s.owner (resId 10 n) ≠ 0)) ∧
    (∃ (s : State) (n : Nat) (b : List Byte) (p : List Byte), (p = (s.canCh n).part ++ b)) ∧
    (∃ (who : Who) (n : Fin 16) (s : State), (s.regOk who (A.CAN_UNF_REL n) = true) ∧ (s.f (F.CAN_UNF_STAT_COUNT n) ≠ 0)) ∧
    (∃ (who : Who) (n : Fin 16) (s : State), (s.regOk who (A.CAN_UNF_REL n) = true) ∧ (s.f (F.CAN_UNF_STAT_COUNT n) = 0)) ∧
    (∃ (who : Who) (n : Fin 16) (slot : Fin 256) (value : Word) (s : State) (l : Nat), (s.regOk who (A.CAN_FRESH_H n slot) = true) ∧ (tblFind (s.canCh n).freshL slot = some l)) ∧
    (∃ (who : Who) (n : Fin 16) (slot : Fin 256) (value : Word) (s : State), (s.regOk who (A.CAN_FRESH_H n slot) = true) ∧ (tblFind (s.canCh n).freshL slot = none)) ∧
    (∃ (n : Fin 16) (s : State), (s.f (F.CAN_STAT_STATE n) = 1)) ∧
    (∃ (n : Fin 16) (f : CanFrame) (s : State), (s.canHears n = true) ∧ (ridFdf f.rid.toNat = false ∨ s.flag (F.CAN_CTRL_FD_EN n) = true)) ∧
    ((live.canCh 3).active = none ∧ ∃ t : State, (t.canCh 3).active = some 5 ∧ (t.canCh 3).cancel = false) ∧
    (∃ (n : Fin 16) (f : CanFrame) (s : State), (s.canHears n = false)) ∧
    (∃ (s : State) (n : Nat) (f : CanFrame) (kept : Bool), (s.canMatch n f = none) ∧ (kept = (s.flag (F.CAN_CTRL_UNF_EN n) && decide (s.f (F.CAN_UNF_STAT_COUNT n) < 128)))) ∧
    (∃ (s : State) (n : Nat) (f : CanFrame) (j : Nat), (s.canMatch n f = some j) ∧ (s.flag (F.CAN_MASK_AUTH n j) = false) ∧ (s.canHeldObj n j = false)) ∧
    (∃ (s : State) (n : Nat) (f : CanFrame) (j : Nat), (s.canMatch n f = some j) ∧ (s.flag (F.CAN_MASK_AUTH n j) = true) ∧ (s.canAuth n j f = none)) ∧
    (live.canHeldObj 3 0 = false) ∧
    ((live.ctl (canRx 3 0) 16 16 == 1) = false) ∧
    (∃ (n : Fin 16) (obj : Fin 1024) (s : State), (obj.val ∉ (s.canCh n).spilt)) ∧
    (5 ∈ ((live.modCan 3 (fun c => { c with spilt := [5] })).canCh 3).spilt) ∧
    (∃ (n : Fin 16) (lec : Fin 7) (dataPhase : Bool) (eight : Bool) (pxe : Bool) (s : State) (t : State), (s.canHears n = true) ∧ ((pxe = false ∨ s.flag (F.CAN_CTRL_PXHD n) = true)) ∧ ((t = (s.canLost n).canErr n (if pxe then 2 else lec.val) dataPhase)) ∧ (t.f (F.CAN_CTRL_MODE n) = 0) ∧ (t.canFrozen n = false)) ∧
    (∃ (n : Fin 16) (lec : Fin 7) (dataPhase : Bool) (eight : Bool) (pxe : Bool) (s : State), (s.canHears n = true) ∧ (pxe = true) ∧ (s.flag (F.CAN_CTRL_PXHD n) = false)) ∧
    (∃ (n : Fin 16) (lec : Fin 7) (dataPhase : Bool) (eight : Bool) (pxe : Bool) (s : State), (s.canHears n = false)) ∧
    (∃ (n : Fin 16) (sof : BitVec 32) (tdcv : BitVec 7) (s : State) (q : State) (t : Nat) (f : CanFrame) (u : State) (v : State) (w : State), (q = s.canArb n) ∧ ((q.canCh n).active = some t) ∧ (t < 64) ∧ (q.canDrives n = true) ∧ (f = q.stamped { q.inFlight n with sof := sof }) ∧ (u = ((((q.when (!q.canInternal n) (fun x => x.emit (.can n f.rid.toNat) (leBytes 1 (f.dlc.toNat + 16 * b2n f.brs + 32 * b2n f.esi) ++ f.data))).canTdc n f tdcv.toNat).canIdle n).modCan n (fun c => { c with rep := none }))) ∧ ((v = if u.canFrozen n then u else (u.decF (F.CAN_ERR_TEC n)).canFault n (q.f (F.CAN_ERR_TEC n)) (u.f (F.CAN_ERR_REC n)))) ∧ (w = (v.canSent n t f.sof.toNat).when (!(v.isScf n f.rid.toNat (frLen f))) (fun x => x.modTide n (fun c => { c with busyAt := some x.now })))) ∧
    (((live.canArb 3).canCh 3).active = none) ∧
    (((live.modCan 3 (fun c => { c with active := some 5 })).canCh 3).active = some 5) ∧
    (∃ (n : Fin 16) (lec : Fin 7) (dataPhase : Bool) (keep : Bool) (tdcv : BitVec 7) (s : State) (q : State) (t : Nat) (u : State) (v : State) (w : State), (q = s.canArb n) ∧ ((q.canCh n).active = some t) ∧ (t < 64) ∧ ((q.canCh n).cancel = false) ∧ (u = (((q.canTdc n (q.inFlight n) tdcv.toNat).canErr n lec dataPhase).canIdle n).modCan n (fun c => { c with rep := some t, cancel := false })) ∧ ((v = if u.canFrozen n || keep then u else (u.setF (F.CAN_ERR_TEC n) (min 511 (q.f (F.CAN_ERR_TEC n) + 8))).canFault n (q.f (F.CAN_ERR_TEC n)) (u.f (F.CAN_ERR_REC n)))) ∧ (w = v.canTakeCopy n t)) ∧
    (∃ (n : Fin 16) (s : State), (s.f (F.CAN_STAT_STATE n) = 4) ∧ (s.flag (F.TIDE_N_STAT_IGNORE n) = false) ∧ (s.flag (F.CAN_CTRL_ABO n) = true ∨ (s.canCh n).recov = true)) ∧
    (∃ (s : State) (n : Nat) (k : Nat) (t : Nat) (u : State), ((s.canCh n).active = none) ∧ (u = s.isoFeed n) ∧ ((u.canRunners n).foldl arbBetter none = some (k, t)) ∧ (t < 64)) ∧
    (∃ (n : Fin 16) (obj : Fin 65) (s : State), (obj.val = 64)) ∧
    (∃ (n : Fin 16) (obj : Fin 65) (s : State), (obj.val ≠ 64) ∧ (s.canIsLate n obj = true) ∧ ((s.canCh n).active ≠ some obj.val)) ∧
    (∃ u : State, u = (live.setCtl (canTx 3 5) 22 16 0).setTx 3 5 16 true ∧ live.canReserved 3 5 = false ∧ live.txBit 3 5 16 = false ∧ u.txBit 3 5 8 = false ∧ u.canIsLate 3 5 = false ∧ u.flag (F.TIDE_N_CFG_TXWAKE 3) = false) :=
  ⟨by exact ⟨rq 5 1 ([3,0,0]), withCmd (live), _, _, started_rq _ 5 1 _ (by decide +kernel) ⟨_, rfl, by decide, by decide +kernel, by decide⟩, by decide +kernel⟩,
   by decide +kernel,
   by exact ⟨rq 5 2 (3#8 :: List.replicate 17 0#8), withCmd live, _, _, started_rq _ 5 2 _ (by decide +kernel) ⟨_, rfl, by decide, by decide +kernel, by decide⟩, by decide +kernel⟩,
   by exact ⟨rq 5 2 (3#8 :: List.replicate 17 0#8), withCmd (live.modCan 3 (fun q => { q with active := some 0 })), _, _, started_rq _ 5 2 _ (by decide +kernel) ⟨_, rfl, by decide, by decide +kernel, by decide⟩, by decide +kernel⟩,
   by exact ⟨rq 5 3 ([3,5,0]), withCmd (live), _, _, started_rq _ 5 3 _ (by decide +kernel) ⟨_, rfl, by decide, by decide +kernel, by decide⟩, by decide +kernel⟩,
   by exact ⟨.core .steward 1, 0, 0, live, by decide +kernel⟩,
   by exact ⟨.core .steward 1, 0, 0, live, by decide +kernel⟩,
   by exact ⟨.core .steward 1, 0, 0, live, by decide +kernel⟩,
   by exact ⟨.core .steward 1, 0, 0, live, by decide +kernel⟩,
   by decide,
   by exact ⟨live, 3, by decide +kernel⟩,
   by decide +kernel,
   by exact ⟨.core .steward 1, 0, 0, live, by decide +kernel⟩,
   by exact ⟨{ live with encl := { live.encl with slots := [(0, { (default : KeySlot) with usage := 256 })] } }, by decide +kernel⟩,
   by exact ⟨.core .steward 1, 3, false, 5, live, by decide +kernel⟩,
   by exact ⟨.core .steward 1, 3, false, 4, live.setOwner (resId 8 (64 * 3 + 2)) 1, 2, by decide +kernel⟩,
   by exact ⟨.core .steward 1, 3, false, 5, live, by decide +kernel⟩,
   by exact ⟨.core .steward 1, 3, false, 4, live.setOwner (resId 8 (64 * 3 + 2)) 1, 2, by decide +kernel⟩,
   by exact ⟨.core .steward 1, 3, false, 5, live, by decide +kernel⟩,
   by exact ⟨.core .steward 1, 3, false, 5, live.setOwner (resId 10 3) 1, by decide +kernel⟩,
   by exact ⟨live, 3, [1], [1], by decide +kernel⟩,
   by exact ⟨.core .steward 1, 3, live.setF (F.CAN_UNF_STAT_COUNT 3) 2, by decide +kernel⟩,
   by exact ⟨.core .steward 1, 3, live, by decide +kernel⟩,
   by exact ⟨.core .steward 1, 3, 5, 9, live.modCan 3 (fun c => { c with freshL := [(5, 7)] }), 7, by decide +kernel⟩,
   by exact ⟨.core .steward 1, 3, 5, 9, live, by decide +kernel⟩,
   by exact ⟨3, live.setF (F.CAN_STAT_STATE 3) 1, by decide +kernel⟩,
   by exact ⟨3, { rid := 5#32, dlc := 2#4, brs := false, esi := false, data := [1, 2], sof := 0 }, ((((live.setF (F.TIDE_N_STAT_IGNORE 3) 0).setF (F.TIDE_N_STAT_STATE 3) 0).setF (F.CAN_STAT_STATE 3) 2).setF (F.CAN_STAT_TRX 3) 1).setF (F.CAN_CTRL_EN 3) 1, by decide +kernel⟩,
   by exact ⟨by decide +kernel, live.modCan 3 (fun c => { c with active := some 5 }), by decide +kernel⟩,
   by exact ⟨3, { rid := 5#32, dlc := 2#4, brs := false, esi := false, data := [1, 2], sof := 0 }, live, by decide +kernel⟩,
   by exact ⟨live, 3, { rid := 5#32, dlc := 2#4, brs := false, esi := false, data := [1, 2], sof := 0 }, true, by decide +kernel⟩,
   by exact ⟨live.setReg (A.CAN_FILT 3 0) 0x80000005#32, 3, { rid := 5#32, dlc := 2#4, brs := false, esi := false, data := [1, 2], sof := 0 }, 0, by decide +kernel⟩,
   by exact ⟨(live.setReg (A.CAN_FILT 3 0) 0x80000005#32).setF (F.CAN_MASK_AUTH 3 0) 1, 3, { rid := 5#32, dlc := 2#4, brs := false, esi := false, data := [1, 2], sof := 0 }, 0, by decide +kernel⟩,
   by decide +kernel,
   by decide +kernel,
   by exact ⟨3, 5, live, by decide +kernel⟩,
   by decide +kernel,
   by exact ⟨3, 1, false, false, false, ((((live.setF (F.TIDE_N_STAT_IGNORE 3) 0).setF (F.TIDE_N_STAT_STATE 3) 0).setF (F.CAN_STAT_STATE 3) 2).setF (F.CAN_STAT_TRX 3) 1).setF (F.CAN_CTRL_EN 3) 1, _, by decide +kernel, by decide +kernel, rfl, by decide +kernel, by decide +kernel⟩,
   by exact ⟨3, 1, false, false, true, ((((live.setF (F.TIDE_N_STAT_IGNORE 3) 0).setF (F.TIDE_N_STAT_STATE 3) 0).setF (F.CAN_STAT_STATE 3) 2).setF (F.CAN_STAT_TRX 3) 1).setF (F.CAN_CTRL_EN 3) 1, by decide +kernel⟩,
   by exact ⟨3, 1, false, false, false, live, by decide +kernel⟩,
   by exact ⟨3, 0, 0, (((((live.setF (F.TIDE_N_STAT_IGNORE 3) 0).setF (F.TIDE_N_STAT_STATE 3) 0).setF (F.CAN_STAT_STATE 3) 2).setF (F.CAN_STAT_TRX 3) 1).setF (F.CAN_CTRL_EN 3) 1).modCan 3 (fun c => { c with active := some 5 }), _, 5, _, _, _, _, rfl, by decide +kernel, by decide +kernel, by decide +kernel, rfl, rfl, rfl, rfl⟩,
   by decide +kernel,
   by decide +kernel,
   by exact ⟨3, 1, false, false, 0, live.modCan 3 (fun c => { c with active := some 5 }), _, 5, _, _, _, rfl, by decide +kernel, by decide +kernel, by decide +kernel, rfl, rfl, rfl⟩,
   by exact ⟨3, ((live.setF (F.TIDE_N_STAT_IGNORE 3) 0).setF (F.CAN_STAT_STATE 3) 4).setF (F.CAN_CTRL_ABO 3) 1, by decide +kernel⟩,
   by exact ⟨(((((live.setF (F.TIDE_N_STAT_IGNORE 3) 0).setF (F.TIDE_N_STAT_STATE 3) 0).setF (F.CAN_STAT_STATE 3) 2).setF (F.CAN_STAT_TRX 3) 1).setF (F.CAN_CTRL_EN 3) 1).mput (canTx 3 5 + 4) 4 0x10000, 3, 0, 5, (((((live.setF (F.TIDE_N_STAT_IGNORE 3) 0).setF (F.TIDE_N_STAT_STATE 3) 0).setF (F.CAN_STAT_STATE 3) 2).setF (F.CAN_STAT_TRX 3) 1).setF (F.CAN_CTRL_EN 3) 1).mput (canTx 3 5 + 4) 4 0x10000, by decide +kernel⟩,
   by exact ⟨3, 64, live, by decide +kernel⟩,
   by exact ⟨3, 5, { (live.mput (canTx 3 5 + 4) 4 0x10200) with dtime := 9000000000 }, by decide +kernel⟩,
   by exact ⟨_, rfl, by decide +kernel⟩⟩

theorem witness_TideAndSluiceCommandsActAsTheTablesSay :
    (∃ (who : Who) (n : Fin 16) (s : State), (s.regOk who (A.TIDE_N_CMD n) = true) ∧ (s.tideState n = 0) ∧ (s.flag (F.TIDE_N_CFG_EN n) = true)) ∧
    (∃ (who : Who) (n : Fin 16) (s : State), (s.regOk who (A.TIDE_N_CMD n) = true) ∧ (s.tideState n ≠ 0)) ∧
    (∃ (who : Who) (n : Fin 16) (s : State), (s.regOk who (A.TIDE_N_CMD n) = true) ∧ (s.tideState n = 1) ∧ (s.flag (F.TIDE_N_STAT_COMMITTED n) = false)) ∧
    (∃ (who : Who) (n : Fin 16) (s : State), (s.regOk who (A.TIDE_N_CMD n) = true) ∧ (s.tideState n ≠ 1)) ∧
    (∃ (who : Who) (n : Fin 16) (s : State), (s.regOk who (A.TIDE_N_CMD n) = true) ∧ (s.tideState n = 1) ∧ (s.fbit F.TIDE_QPEND_QPEND n = true)) ∧
    (∃ (who : Who) (n : Fin 16) (s : State), (s.regOk who (A.TIDE_N_CMD n) = true) ∧ (s.fbit F.TIDE_QPEND_QPEND n = false)) ∧
    (∃ (who : Who) (n : Fin 16) (s : State), (s.regOk who (A.TIDE_N_CMD n) = true) ∧ (s.tideState n = 1) ∧ (s.fbit F.TIDE_QPEND_QPEND n = true)) ∧
    (∃ (who : Who) (n : Fin 16) (s : State), (s.regOk who (A.TIDE_N_CMD n) = true) ∧ (s.tideState n = 0)) ∧
    (∃ (who : Who) (n : Fin 16) (s : State), (s.regOk who (A.TIDE_N_CMD n) = true) ∧ (s.tideState n = 2)) ∧
    (∃ (who : Who) (n : Fin 16) (s : State), (s.regOk who (A.TIDE_N_CMD n) = true) ∧ (s.tideState n = 1) ∧ (s.tideCommitted n = false)) ∧
    (∃ (who : Who) (n : Fin 16) (s : State), (s.regOk who (A.TIDE_N_CMD n) = true) ∧ (s.tideState n = 0)) ∧
    (∃ (who : Who) (n : Fin 16) (s : State), (s.regOk who (A.TIDE_N_CMD n) = true) ∧ (s.tideState n ≠ 0)) ∧
    (∃ (s : State) (n : Nat) (src : Nat) (capt : Option CanFrame), (s.tideState n = 2)) ∧
    ((((live.setF (F.TIDE_N_STAT_STATE 3) 1).setF (F.TIDE_N_CFG_EN 3) 1).setF (F.TIDE_N_STAT_COMMITTED 3) 0).f (F.TIDE_N_STAT_STATE 3) = 1 ∧ (((live.setF (F.TIDE_N_STAT_STATE 3) 1).setF (F.TIDE_N_CFG_EN 3) 1).setF (F.TIDE_N_STAT_COMMITTED 3) 0).f (F.TIDE_N_STAT_STATE 3) ≠ 2) ∧
    ((((live.setF (F.TIDE_N_STAT_STATE 3) 0).setF (F.TIDE_N_CFG_EN 3) 1)).flag (F.TIDE_N_CFG_EN 3) = true) ∧
    (∃ (who : Who) (n : Fin 16) (value : Word) (s : State), (s.regOk who (A.TIDE_N_CFG n) = true)) ∧
    ((regAt (A.TIDE_N_CFG 3)).isSome = true ∧ bit (1#32).toNat 0 = true ∧ live.flag (F.TIDE_N_CFG_EN 3) = false) ∧
    (∃ (s : State) (n : Nat), (s.owner (resId 8 (64 * n + 62)) = 0) ∧ (s.canReserved n 62 = false) ∧ (s.owner (resId 9 (1024 * n + 1022)) = 0)) ∧
    (∃ (id ide : Nat), id = live.f (F.TIDE_N_SCFID_ID 3) ∧ ide = live.f (F.TIDE_N_CFG_SCF_IDE 3)) ∧
    (∃ (s : State) (n : Nat), (s.owner (resId 8 (64 * n + 62)) ≠ 0 ∨ s.canReserved n 62 = true)) ∧
    (∃ (s : State) (n : Nat), (s.flag (F.TIDE_N_CFG_EN n) = false)) ∧
    (∃ (n : Fin 16) (s : State), (s.tideState n = 1) ∧ (s.flag (F.TIDE_N_STAT_COMMITTED n) = false)) ∧
    (∃ (n : Fin 16) (s : State), (s.tideState n ≠ 1)) ∧
    (∃ (n : Fin 16) (s : State), (s.tideState n = 1) ∧ (s.fbit F.TIDE_QPEND_QPEND n = true) ∧ (s.flag F.TIDE_CTRL_FSAFE = true)) ∧
    (∃ (n : Fin 16) (s : State), (s.tideCommitted n = true)) ∧
    ((live.canCh 3).active.isSome = false ∧ ((live.modCan 3 (fun c => { c with active := some 5 })).canCh 3).active.isSome = true) ∧
    (∃ (n : Fin 16) (s : State), (s.tideCommitted n = true) ∧ (s.f (F.CAN_STAT_TRX n) = 3) ∧ (s.flag (F.TIDE_N_CFG_LPMODE n) = false)) ∧
    (∃ (n : Fin 16) (s : State), (s.tideCommitted n = true) ∧ (s.f (F.CAN_STAT_TRX n) = 3) ∧ (s.flag (F.TIDE_N_CFG_LPMODE n) = true)) ∧
    (∃ (n : Fin 16) (s : State), (s.tideCommitted n = true)) ∧
    (∃ (n : Fin 16) (s : State), (s.tideCommitted n = false)) ∧
    (∃ (n : Fin 16) (s : State), (s.f (F.CAN_STAT_TRX n) = 0) ∧ (s.flag (F.TIDE_N_CFG_WAKEMODE n) = false)) ∧
    (∃ (n : Fin 16) (s : State), (s.f (F.CAN_STAT_TRX n) = 0) ∧ (s.flag (F.TIDE_N_CFG_WAKEMODE n) = true)) ∧
    (∃ (s : State) (n : Nat) (src : Nat) (capt : Option CanFrame), (s.pwr.park = .run) ∧ (s.islandUp 6 = true) ∧ (s.tideState n = 2)) ∧
    (∃ (s : State) (n : Nat) (src : Nat) (capt : Option CanFrame), (s.pwr.park = .run) ∧ (s.islandUp 6 = false)) ∧
    (∃ (n : Fin 16) (f : CanFrame) (s : State), (s.f (F.CAN_STAT_TRX n) = 2) ∧ (s.wufMatch n f = true)) ∧
    (∃ (n : Fin 16) (s : State), (s.f (F.CAN_STAT_TRX n) = 2) ∧ (31 < s.f (F.TIDE_N_WUF_CTL_FEC n)) ∧ (s.tideState n = 2)) ∧
    (∃ (n : Fin 16) (fd : Bool) (ok : Bool) (s : State), (s.f (F.CAN_STAT_TRX n) = 2) ∧ (fd = false)) ∧
    (∃ (n : Fin 16) (fd : Bool) (ok : Bool) (s : State), (fd = true)) ∧
    (∃ (n : Fin 16) (s : State), (s.f (F.CAN_STAT_TRX n) = 0 ∨ s.f (F.CAN_STAT_TRX n) = 2)) ∧
    (∃ (n : Fin 16) (s : State), (s.tideState n = 3)) ∧
    (∃ (n : Fin 16) (s : State), (s.tideState n = 3)) ∧
    ((live.tideCh 3).capt = none ∧ (live.tideCh 3).loc = false) ∧
    (∃ (who : Who) (s : State), (s.regOk who (A.SLUICE_RT_CMD) = true) ∧ (rtBad (s.regBytes (A.SLUICE_RT_D 0) 6) = none) ∧ (s.rtConflict (s.regBytes (A.SLUICE_RT_D 0) 6) = none)) ∧
    (∃ (who : Who) (s : State) (o : Nat), (s.regOk who (A.SLUICE_RT_CMD) = true) ∧ (rtBad (s.regBytes (A.SLUICE_RT_D 0) 6) = some o)) ∧
    (∃ (who : Who) (s : State) (id : Nat), (s.regOk who (A.SLUICE_RT_CMD) = true) ∧ (rtBad (s.regBytes (A.SLUICE_RT_D 0) 6) = none) ∧ (s.rtConflict (s.regBytes (A.SLUICE_RT_D 0) 6) = some id)) ∧
    (∃ (who : Who) (s : State), (s.regOk who (A.SLUICE_RT_CMD) = true)) ∧
    (∃ (who : Who) (reg : Fin 33) (value : Word) (s : State), (s.regOk who (A.SLUICE_FIFO) = true)) ∧
    (∃ (s : State) (x : Fld) (k : Nat) (id : Nat), (s.fbit x k = false)) ∧
    (∃ (r : Req) (s : State) (x : Option Sess) (s1 : State) (i : Nat), Started s r 5 4 x s1 ∧ (r.payload.length = 26) ∧ (leAt r.payload 0 2 = i) ∧ (i < 4096) ∧ (rtBad (r.payload.drop 2) = none) ∧ (s1.rtConflict (r.payload.drop 2) = none)) ∧
    (∃ (r : Req) (s : State) (x : Option Sess) (s1 : State) (i : Nat) (o : Nat), Started s r 5 4 x s1 ∧ (r.payload.length = 26) ∧ (leAt r.payload 0 2 = i) ∧ (i < 4096) ∧ (rtBad (r.payload.drop 2) = some o)) ∧
    (∃ (s : State) (x : SlFrame) (rest : List SlFrame), (s.can.inq = x :: rest) ∧ (s.flag F.SLUICE_CTRL_EN = true)) ∧
    (∃ (s : State), (s.can.inq = [])) ∧
    (∃ (e : List Byte) (x : SlFrame), slMatch e x = true ∧ bit (rtWord e 0) 31 = false) ∧
    (∃ (l : Fin 3) (dst : BitVec 12) (origin : BitVec 12) (hops : BitVec 16) (bseq : BitVec 16) (payload : List Byte) (s : State), (s.linkSt l = 3) ∧ (leAt payload 0 1 = 0x20) ∧ (16 ≤ payload.length) ∧ (dst ≠ 0xFFF#12) ∧ (dst.toNat = s.ownAddr) ∧ (dst ≠ 0#12) ∧ (s.brlTakes = true)) ∧
    (∃ (l : Fin 3) (dst : BitVec 12) (origin : BitVec 12) (hops : BitVec 16) (bseq : BitVec 16) (payload : List Byte) (s : State) (t : State), (s.linkSt l = 3) ∧ (leAt payload 0 1 = 0x20) ∧ (16 ≤ payload.length) ∧ (dst = 0xFFF#12) ∧ (s.brlBroadcast l 7 origin.toNat hops.toNat bseq.toNat payload = (t, true))) ∧
    (∃ (l : Fin 3) (dst : BitVec 12) (origin : BitVec 12) (hops : BitVec 16) (bseq : BitVec 16) (payload : List Byte) (s : State) (t : State), (s.linkSt l = 3) ∧ (leAt payload 0 1 = 0x20) ∧ (16 ≤ payload.length) ∧ (dst = 0xFFF#12) ∧ (s.brlBroadcast l 7 origin.toNat hops.toNat bseq.toNat payload = (t, false))) ∧
    (∃ (l : Fin 3) (dst : BitVec 12) (origin : BitVec 12) (hops : BitVec 16) (bseq : BitVec 16) (payload : List Byte) (s : State), (s.linkSt l = 3) ∧ (leAt payload 0 1 = 0x20) ∧ (16 ≤ payload.length) ∧ (dst ≠ 0xFFF#12) ∧ (dst.toNat ≠ s.ownAddr)) ∧
    (∃ (l : Fin 3) (dst : BitVec 12) (origin : BitVec 12) (hops : BitVec 16) (bseq : BitVec 16) (payload : List Byte) (s : State), (s.linkSt l ≠ 3 ∨ leAt payload 0 1 ≠ 0x20 ∨ payload.length < 16)) ∧
    (∃ (s : State) (src : Nat) (origin : Nat) (f : CanFrame), (s.flag F.SLUICE_CTRL_EN = true)) :=
  ⟨by exact ⟨.core .steward 1, 3, ((live.setF (F.TIDE_N_STAT_STATE 3) 0).setF (F.TIDE_N_CFG_EN 3) 1), by decide +kernel⟩,
   by exact ⟨.core .steward 1, 3, ((live.setF (F.TIDE_N_STAT_STATE 3) 1).setF (F.TIDE_N_CFG_EN 3) 1).setF (F.TIDE_N_STAT_COMMITTED 3) 0, by decide +kernel⟩,
   by exact ⟨.core .steward 1, 3, ((live.setF (F.TIDE_N_STAT_STATE 3) 1).setF (F.TIDE_N_CFG_EN 3) 1).setF (F.TIDE_N_STAT_COMMITTED 3) 0, by decide +kernel⟩,
   by exact ⟨.core .steward 1, 3, ((live.setF (F.TIDE_N_STAT_STATE 3) 0).setF (F.TIDE_N_CFG_EN 3) 1), by decide +kernel⟩,
   by exact ⟨.core .steward 1, 3, (((live.setF (F.TIDE_N_STAT_STATE 3) 1).setF (F.TIDE_N_CFG_EN 3) 1).setF (F.TIDE_N_STAT_COMMITTED 3) 0).setF F.TIDE_QPEND_QPEND 8, by decide +kernel⟩,
   by exact ⟨.core .steward 1, 3, ((live.setF (F.TIDE_N_STAT_STATE 3) 1).setF (F.TIDE_N_CFG_EN 3) 1).setF (F.TIDE_N_STAT_COMMITTED 3) 0, by decide +kernel⟩,
   by exact ⟨.core .steward 1, 3, (((live.setF (F.TIDE_N_STAT_STATE 3) 1).setF (F.TIDE_N_CFG_EN 3) 1).setF (F.TIDE_N_STAT_COMMITTED 3) 0).setF F.TIDE_QPEND_QPEND 8, by decide +kernel⟩,
   by exact ⟨.core .steward 1, 3, ((live.setF (F.TIDE_N_STAT_STATE 3) 0).setF (F.TIDE_N_CFG_EN 3) 1), by decide +kernel⟩,
   by exact ⟨.core .steward 1, 3, live.setF (F.TIDE_N_STAT_STATE 3) 2, by decide +kernel⟩,
   by exact ⟨.core .steward 1, 3, ((live.setF (F.TIDE_N_STAT_STATE 3) 1).setF (F.TIDE_N_CFG_EN 3) 1).setF (F.TIDE_N_STAT_COMMITTED 3) 0, by decide +kernel⟩,
   by exact ⟨.core .steward 1, 3, ((live.setF (F.TIDE_N_STAT_STATE 3) 0).setF (F.TIDE_N_CFG_EN 3) 1), by decide +kernel⟩,
   by exact ⟨.core .steward 1, 3, ((live.setF (F.TIDE_N_STAT_STATE 3) 1).setF (F.TIDE_N_CFG_EN 3) 1).setF (F.TIDE_N_STAT_COMMITTED 3) 0, by decide +kernel⟩,
   by exact ⟨live.setF (F.TIDE_N_STAT_STATE 3) 2, 3, 1, none, by decide +kernel⟩,
   by decide +kernel,
   by decide +kernel,
   by exact ⟨.core .steward 1, 0, 0, live, by decide +kernel⟩,
   by decide +kernel,
   by exact ⟨live, 3, by decide +kernel⟩,
   by exact ⟨_, _, rfl, rfl⟩,
   by exact ⟨live.setOwner (resId 8 (64 * 3 + 62)) 1, 3, by decide +kernel⟩,
   by exact ⟨live, 3, by decide +kernel⟩,
   by exact ⟨3, ((live.setF (F.TIDE_N_STAT_STATE 3) 1).setF (F.TIDE_N_CFG_EN 3) 1).setF (F.TIDE_N_STAT_COMMITTED 3) 0, by decide +kernel⟩,
   by exact ⟨3, ((live.setF (F.TIDE_N_STAT_STATE 3) 0).setF (F.TIDE_N_CFG_EN 3) 1), by decide +kernel⟩,
   by exact ⟨3, ((((live.setF (F.TIDE_N_STAT_STATE 3) 1).setF (F.TIDE_N_CFG_EN 3) 1).setF (F.TIDE_N_STAT_COMMITTED 3) 0).setF F.TIDE_QPEND_QPEND 8).setF F.TIDE_CTRL_FSAFE 1, by decide +kernel⟩,
   by exact ⟨3, (live.setF (F.TIDE_N_STAT_STATE 3) 1).setF (F.TIDE_N_STAT_COMMITTED 3) 1, by decide +kernel⟩,
   by decide +kernel,
   by exact ⟨3, ((live.setF (F.TIDE_N_STAT_STATE 3) 1).setF (F.TIDE_N_STAT_COMMITTED 3) 1).setF (F.CAN_STAT_TRX 3) 3, by decide +kernel⟩,
   by exact ⟨3, (((live.setF (F.TIDE_N_STAT_STATE 3) 1).setF (F.TIDE_N_STAT_COMMITTED 3) 1).setF (F.CAN_STAT_TRX 3) 3).setF (F.TIDE_N_CFG_LPMODE 3) 1, by decide +kernel⟩,
   by exact ⟨3, (live.setF (F.TIDE_N_STAT_STATE 3) 1).setF (F.TIDE_N_STAT_COMMITTED 3) 1, by decide +kernel⟩,
   by exact ⟨3, ((live.setF (F.TIDE_N_STAT_STATE 3) 0).setF (F.TIDE_N_CFG_EN 3) 1), by decide +kernel⟩,
   by exact ⟨3, ((live.setF (F.TIDE_N_STAT_STATE 3) 2).setF (F.CAN_STAT_TRX 3) 0).setF (F.TIDE_N_CFG_WAKEMODE 3) 0, by decide +kernel⟩,
   by exact ⟨3, ((live.setF (F.TIDE_N_STAT_STATE 3) 2).setF (F.CAN_STAT_TRX 3) 0).setF (F.TIDE_N_CFG_WAKEMODE 3) 1, by decide +kernel⟩,
   by exact ⟨(live.setF (F.TIDE_N_STAT_STATE 3) 2), 3, 1, none, by decide +kernel⟩,
   by exact ⟨State.reset, 3, 1, none, by decide +kernel⟩,
   by exact ⟨3, { rid := 5#32, dlc := 2#4, brs := false, esi := false, data := [1, 2], sof := 0 }, ((live.setF (F.TIDE_N_STAT_STATE 3) 2).setF (F.CAN_STAT_TRX 3) 2).setF (F.TIDE_N_WUF_ID_ID 3) 5, by decide +kernel⟩,
   by exact ⟨3, ((live.setF (F.TIDE_N_STAT_STATE 3) 2).setF (F.CAN_STAT_TRX 3) 2).setF (F.TIDE_N_WUF_CTL_FEC 3) 32, by decide +kernel⟩,
   by exact ⟨3, false, true, (live.setF (F.TIDE_N_STAT_STATE 3) 2).setF (F.CAN_STAT_TRX 3) 2, by decide +kernel⟩,
   by exact ⟨3, true, true, live, by decide +kernel⟩,
   by exact ⟨3, (live.setF (F.TIDE_N_STAT_STATE 3) 2).setF (F.CAN_STAT_TRX 3) 0, by decide +kernel⟩,
   by exact ⟨3, live.setF (F.TIDE_N_STAT_STATE 3) 3, by decide +kernel⟩,
   by exact ⟨3, live.setF (F.TIDE_N_STAT_STATE 3) 3, by decide +kernel⟩,
   by decide +kernel,
   by exact ⟨.core .steward 1, live, by decide +kernel⟩,
   by exact ⟨.core .steward 1, live.setReg (A.SLUICE_RT_D 5) 1, 20, by decide +kernel⟩,
   by exact ⟨.core .steward 1, live.setReg (A.SLUICE_RT_D 2) 0x00800001#32, resId 8 0, by decide +kernel⟩,
   by exact ⟨.core .steward 1, live, by decide +kernel⟩,
   by exact ⟨.core .steward 1, 0, 0, live, by decide +kernel⟩,
   by exact ⟨live, F.SLUICE_FIFO_OWN, 3, resId 10 3, by decide +kernel⟩,
   by exact ⟨rq 5 4 (List.replicate 26 0#8), withCmd (live), _, _, 0, started_rq _ 5 4 _ (by decide +kernel) ⟨_, rfl, by decide, by decide +kernel, by decide⟩, by decide +kernel⟩,
   by exact ⟨rq 5 4 (List.replicate 25 0#8 ++ [1]), withCmd (live), _, _, 0, 20, started_rq _ 5 4 _ (by decide +kernel) ⟨_, rfl, by decide, by decide +kernel, by decide⟩, by decide +kernel⟩,
   by exact ⟨{ (live.setF F.SLUICE_CTRL_EN 1) with can := { live.can with inq := [⟨0, 0, { rid := 5#32, dlc := 2#4, brs := false, esi := false, data := [1, 2], sof := 0 }⟩] } }, ⟨0, 0, { rid := 5#32, dlc := 2#4, brs := false, esi := false, data := [1, 2], sof := 0 }⟩, [], by decide +kernel⟩,
   by exact ⟨live, by decide +kernel⟩,
   by exact ⟨[5, 0, 0, 0x40] ++ List.replicate 20 0#8, ⟨0, 0, { rid := 5#32, dlc := 2#4, brs := false, esi := false, data := [1, 2], sof := 0 }⟩, by decide +kernel⟩,
   by exact ⟨0, 9, 5, 0, 0, [0x20] ++ List.replicate 15 0#8, ((live.setF F.RING_STATUS_LINKS 3).setF F.RING_ADDR_ADDR 9), by decide +kernel⟩,
   by exact ⟨0, 0xFFF, 5, 0, 1, [0x20] ++ List.replicate 15 0#8, ((live.setF F.RING_STATUS_LINKS 3).setF F.RING_ADDR_ADDR 9), _, by decide +kernel, by decide +kernel, by decide +kernel, by decide +kernel, Prod.ext rfl (by decide +kernel)⟩,
   by exact ⟨0, 0xFFF, 9, 0, 1, [0x20] ++ List.replicate 15 0#8, ((live.setF F.RING_STATUS_LINKS 3).setF F.RING_ADDR_ADDR 9), (((live.setF F.RING_STATUS_LINKS 3).setF F.RING_ADDR_ADDR 9).brlBroadcast 0 7 9 0 1 ([0x20] ++ List.replicate 15 0#8)).1, by decide +kernel⟩,
   by exact ⟨0, 8, 5, 0, 0, [0x20] ++ List.replicate 15 0#8, ((live.setF F.RING_STATUS_LINKS 3).setF F.RING_ADDR_ADDR 9), by decide +kernel⟩,
   by exact ⟨0, 0, 0, 0, 0, [], live, by decide +kernel⟩,
   by exact ⟨live.setF F.SLUICE_CTRL_EN 1, 0, 0, { rid := 5#32, dlc := 2#4, brs := false, esi := false, data := [1, 2], sof := 0 }, by decide +kernel⟩⟩

theorem witness_EthernetPtpAndTimeCommandsActAsTheTablesSay :
    (∃ (who : Who) (n : Fin 2) (value : Word) (s : State), (s.regOk who (A.ETH_CFG n) = true)) ∧
    ((regAt (A.ETH_CFG 0)).isSome = true ∧ live.f (F.ETH_CFG_MODE 0) = 0 ∧ (live.ethCh 0).rel = false ∧ live.claimable 8 (resId 11 0) = true ∧ bits (1#32).toNat 1 0 = 1) ∧
    (∃ (n : Fin 2) (s : State), ((s.ethCh n).rel = true)) ∧
    (∃ (n : Fin 2) (up : Bool) (speed : Fin 3) (half : Bool) (queued : BitVec 16) (s : State), (s.f (F.ETH_CFG_MODE n) = 1) ∧ (half = false) ∧ (up = true)) ∧
    (∃ (n : Fin 2) (up : Bool) (speed : Fin 3) (half : Bool) (queued : BitVec 16) (s : State), (s.f (F.ETH_CFG_MODE n) ≠ 0) ∧ (up = true) ∧ (half = true)) ∧
    (∃ (n : Fin 2) (up : Bool) (speed : Fin 3) (half : Bool) (queued : BitVec 16) (s : State), (s.f (F.ETH_CFG_MODE n) ≠ 0) ∧ (up = false)) ∧
    (∃ (n : Fin 2) (up : Bool) (speed : Fin 3) (half : Bool) (queued : BitVec 16) (s : State), (s.f (F.ETH_CFG_MODE n) = 0)) ∧
    (live.flag (F.ETH_STAT_LINK 0) = false ∧ (live.setF (F.ETH_STAT_LINK 0) 1).flag (F.ETH_STAT_LINK 0) = true) ∧
    (∃ (n : Fin 2) (ago : BitVec 32) (fcsOk : Bool) (len : BitVec 14) (da : BitVec 48) (vid : Option (BitVec 12)) (extra : Bool) (known : Bool) (s : State) (u : State), (s.ethUp n = true) ∧ (u = s.modEth n (fun x => { x with stamp := s.rxTs n ago.toNat })) ∧ (fcsOk = false ∨ len.toNat < 64 ∨ u.f (F.ETH_CFG_MAXLEN n) < len.toNat)) ∧
    (∃ (n : Fin 2) (ago : BitVec 32) (fcsOk : Bool) (len : BitVec 14) (da : BitVec 48) (vid : Option (BitVec 12)) (extra : Bool) (known : Bool) (s : State) (u : State), (s.ethUp n = true) ∧ (u = s.modEth n (fun x => { x with stamp := s.rxTs n ago.toNat })) ∧ (fcsOk = true) ∧ (64 ≤ len.toNat) ∧ (len.toNat ≤ u.f (F.ETH_CFG_MAXLEN n))) ∧
    (∃ (n : Fin 2) (ago : BitVec 32) (fcsOk : Bool) (len : BitVec 14) (da : BitVec 48) (vid : Option (BitVec 12)) (extra : Bool) (known : Bool) (s : State), (s.ethUp n = false)) ∧
    (∃ (n : Fin 2) (sha : BitVec 48) (spa : BitVec 32) (tpa : BitVec 32) (s : State), (s.ethUp n = true) ∧ (tpa.toNat = s.time.ip)) ∧
    (∃ (n : Fin 2) (sha : BitVec 48) (spa : BitVec 32) (tpa : BitVec 32) (s : State), (tpa.toNat ≠ s.time.ip)) ∧
    (∃ (n : Fin 2) (sha : BitVec 48) (spa : BitVec 32) (tpa : BitVec 32) (rest : List Byte) (s : State), (s.ethUp n = true) ∧ (tpa.toNat = s.time.ip)) ∧
    (∃ (who : Who) (value : Word) (s : State) (g : RegDef) (t : State), (s.regOk who (A.ETH_MDIO) = true) ∧ (regAt A.ETH_MDIO = some g) ∧ (t = s.plainWrite g A.ETH_MDIO (value ||| 0x10000000#32)) ∧ (t.flag F.ETH_MDIO_DONE = true)) ∧
    (∃ (data : BitVec 16) (s : State), (s.flag F.ETH_MDIO_DONE = false) ∧ (s.f F.ETH_MDIO_OP = 0 ∨ s.f F.ETH_MDIO_OP = 3)) ∧
    (∃ (data : BitVec 16) (s : State), (s.flag F.ETH_MDIO_DONE = false) ∧ (s.f F.ETH_MDIO_OP = 1 ∨ s.f F.ETH_MDIO_OP = 2)) ∧
    (∃ (n : Fin 2) (udp : Bool) (domain : BitVec 8) (seq : BitVec 16) (twoStep : Bool) (origin : BitVec 64) (ago : BitVec 32) (s : State), (s.ptpTakes n udp domain.toNat = true) ∧ (twoStep = true)) ∧
    (∃ (n : Fin 2) (udp : Bool) (domain : BitVec 8) (seq : BitVec 16) (twoStep : Bool) (origin : BitVec 64) (ago : BitVec 32) (s : State), (s.ptpTakes n udp domain.toNat = true) ∧ (twoStep = false)) ∧
    (∃ (n : Fin 2) (udp : Bool) (domain : BitVec 8) (seq : BitVec 16) (twoStep : Bool) (origin : BitVec 64) (ago : BitVec 32) (s : State), (s.ptpTakes n udp domain.toNat = false)) ∧
    (∃ (n : Fin 2) (udp : Bool) (mine : Bool) (domain : BitVec 8) (seq : BitVec 16) (peer : Bool) (origin : BitVec 64) (s : State), (s.ptpTakes n udp domain.toNat = true) ∧ (peer = false) ∧ (s.time.ptp.syncWait = true) ∧ (s.time.ptp.syncSeq = seq.toNat)) ∧
    (∃ (n : Fin 2) (udp : Bool) (mine : Bool) (domain : BitVec 8) (seq : BitVec 16) (peer : Bool) (origin : BitVec 64) (s : State), (s.ptpTakes n udp domain.toNat = true) ∧ (peer = true) ∧ (mine = true) ∧ (s.time.ptp.pWait = true) ∧ (s.time.ptp.reqSeq = seq.toNat) ∧ (s.flag F.TIME_PTP_P2P = true)) ∧
    ((((live.setF (F.ETH_STAT_LINK 0) 1).setF F.TIME_PTP_UDP 0).setF F.TIME_CTRL_SRC 1).ptpOn 0 = true) ∧
    ((live.setF F.TIME_PTP_UDP 0).flag F.TIME_PTP_UDP = false) ∧
    (∃ (n : Fin 2) (udp : Bool) (mine : Bool) (domain : BitVec 8) (seq : BitVec 16) (received : BitVec 64) (s : State), (s.ptpTakes n udp domain.toNat = true) ∧ (mine = true) ∧ (s.flag F.TIME_PTP_P2P = false) ∧ (s.time.ptp.reqWait = true) ∧ (s.time.ptp.reqSeq = seq.toNat)) ∧
    (∃ (n : Fin 2) (udp : Bool) (port : BitVec 80) (domain : BitVec 8) (seq : BitVec 16) (ago : BitVec 32) (sent : BitVec 32) (s : State), (s.ptpTakes n udp domain.toNat = true) ∧ (s.flag F.TIME_PTP_P2P = true)) ∧
    (∃ (n : Fin 2) (udp : Bool) (mine : Bool) (domain : BitVec 8) (seq : BitVec 16) (twoStep : Bool) (reqRx : BitVec 64) (ago : BitVec 32) (s : State), (s.ptpTakes n udp domain.toNat = true) ∧ (mine = true) ∧ (s.flag F.TIME_PTP_P2P = true) ∧ (s.time.ptp.reqWait = true) ∧ (s.time.ptp.reqSeq = seq.toNat) ∧ (twoStep = true)) ∧
    (∃ (n : Fin 2) (udp : Bool) (mine : Bool) (domain : BitVec 8) (seq : BitVec 16) (twoStep : Bool) (reqRx : BitVec 64) (ago : BitVec 32) (s : State), (s.ptpTakes n udp domain.toNat = true) ∧ (mine = true) ∧ (s.flag F.TIME_PTP_P2P = true) ∧ (s.time.ptp.reqWait = true) ∧ (s.time.ptp.reqSeq = seq.toNat) ∧ (twoStep = false)) ∧
    (∃ (src : Fin 4) (offs : BitVec 64) (s : State), (src ≠ 0)) ∧
    ((((live.setF (F.ETH_STAT_LINK 0) 1).setF F.TIME_PTP_UDP 0).setF F.TIME_CTRL_SRC 1).srcUsed 1 = true) ∧
    (∃ (s : State) (src : Nat) (off : Int), (s.srcUsed src = false)) ∧
    (∃ (who : Who) (low : Word) (high : Word) (s : State), (s.regOk who (A.TIME_STEP_H) = true) ∧ ((s.modTime (fun t => { t with stepL := low.toNat })).stepOk = true)) ∧
    (∃ (who : Who) (low : Word) (high : Word) (s : State), (s.regOk who (A.TIME_STEP_H) = true) ∧ ((s.modTime (fun t => { t with stepL := low.toNat })).stepOk = false)) ∧
    (∃ (s : State) (d : Int) (t : Nat), (t = umod 64 ((s.dtime : Int) + d))) ∧
    (∃ (s : State) (n : Nat), (s.ptpMac = some n)) ∧
    (∃ (s : State), (s.ptpMac = none)) ∧
    ((live.setF F.TIME_CTRL_SRC 1).f F.TIME_CTRL_SRC = 1 ∧ (live.setF F.TIME_CTRL_SRC 2).f F.TIME_CTRL_SRC = 2 ∧ (live.setF F.TIME_CTRL_SRC 4).f F.TIME_CTRL_SRC = 4) ∧
    (∃ (who : Who) (s : State), (s.regOk who (A.TIME_NOW_L) = true)) ∧
    (∃ (r : Req) (s : State) (x : Option Sess) (s1 : State), Started s r 11 3 x s1 ∧ (r.payload.length = 0)) ∧
    (∃ t : State, (live.setF F.RING_STATUS_LINKS 3).linkSt 0 = 3 ∧ t = ((live.setF F.RING_STATUS_LINKS 3).modLink 0 (fun x => { x with time := some (1, 5, 0) })).timeElect ∧ t.f F.RING_TIME_STAT_DEPTH ≠ 0 ∧ t.f F.RING_TIME_STAT_LINK = 0) ∧
    (∃ (l : Fin 3) (prio : BitVec 8) (master : BitVec 12) (depth : BitVec 12) (sent : BitVec 64) (s : State), (s.linkSt l ≠ 3)) ∧
    (∃ pl : List Byte, pl = leBytes 8 live.dtime) ∧
    (∃ (l : Fin 3) (ps : BitVec 24) (s : State), (s.linkSt l = 3)) ∧
    (live.isMaster = true ∨ live.isMaster = false) ∧
    (∃ t : Int, t = 5) :=
  ⟨by exact ⟨.core .steward 1, 0, 0, live, by decide +kernel⟩,
   by decide +kernel,
   by exact ⟨0, live.modEth 0 (fun x => { x with rel := true }), by decide +kernel⟩,
   by exact ⟨0, true, 1, false, 0, live.setF (F.ETH_CFG_MODE 0) 1, by decide +kernel⟩,
   by exact ⟨0, true, 1, true, 0, live.setF (F.ETH_CFG_MODE 0) 1, by decide +kernel⟩,
   by exact ⟨0, false, 1, true, 0, live.setF (F.ETH_CFG_MODE 0) 1, by decide +kernel⟩,
   by exact ⟨0, false, 1, true, 0, live.setF (F.ETH_CFG_MODE 0) 0, by decide +kernel⟩,
   by decide +kernel,
   by exact ⟨0, 0, false, 64, 0, none, false, true, live.setF (F.ETH_STAT_LINK 0) 1, (live.setF (F.ETH_STAT_LINK 0) 1).modEth 0 (fun x => { x with stamp := (live.setF (F.ETH_STAT_LINK 0) 1).rxTs 0 0 }), by decide +kernel⟩,
   by exact ⟨0, 0, true, 64, 0, none, false, true, (live.setF (F.ETH_STAT_LINK 0) 1).setF (F.ETH_CFG_MAXLEN 0) 1518, _, by decide +kernel, rfl, by decide +kernel, by decide +kernel, by decide +kernel⟩,
   by exact ⟨0, 0, true, 64, 0, none, false, true, live, by decide +kernel⟩,
   by exact ⟨0, 1, 2, 0, live.setF (F.ETH_STAT_LINK 0) 1, by decide +kernel⟩,
   by exact ⟨0, 1, 2, 9, live.setF (F.ETH_STAT_LINK 0) 1, by decide +kernel⟩,
   by exact ⟨0, 1, 2, 0, [], live.setF (F.ETH_STAT_LINK 0) 1, by decide +kernel⟩,
   by exact ⟨.core .steward 1, 0, live.setF F.ETH_MDIO_DONE 1, (regAt A.ETH_MDIO).get (by decide +kernel), _, by decide +kernel, by decide +kernel, rfl, by decide +kernel⟩,
   by exact ⟨5, live.setF F.ETH_MDIO_DONE 0, by decide +kernel⟩,
   by exact ⟨5, (live.setF F.ETH_MDIO_OP 1).setF F.ETH_MDIO_DONE 0, by decide +kernel⟩,
   by exact ⟨0, false, 0, 7, true, 0, 0, ((live.setF (F.ETH_STAT_LINK 0) 1).setF F.TIME_PTP_UDP 0).setF F.TIME_CTRL_SRC 1, by decide +kernel⟩,
   by exact ⟨0, false, 0, 7, false, 0, 0, ((live.setF (F.ETH_STAT_LINK 0) 1).setF F.TIME_PTP_UDP 0).setF F.TIME_CTRL_SRC 1, by decide +kernel⟩,
   by exact ⟨0, false, 0, 7, false, 0, 0, live, by decide +kernel⟩,
   by exact ⟨0, false, true, 0, 7, false, 0, (((live.setF (F.ETH_STAT_LINK 0) 1).setF F.TIME_PTP_UDP 0).setF F.TIME_CTRL_SRC 1).modPtp (fun p => { p with syncWait := true, syncSeq := 7 }), by decide +kernel⟩,
   by exact ⟨0, false, true, 0, 7, true, 0, ((((live.setF (F.ETH_STAT_LINK 0) 1).setF F.TIME_PTP_UDP 0).setF F.TIME_CTRL_SRC 1).setF F.TIME_PTP_P2P 1).modPtp (fun p => { p with pWait := true, reqSeq := 7 }), by decide +kernel⟩,
   by decide +kernel,
   by decide +kernel,
   by exact ⟨0, false, true, 0, 7, 0, (((live.setF (F.ETH_STAT_LINK 0) 1).setF F.TIME_PTP_UDP 0).setF F.TIME_CTRL_SRC 1).modPtp (fun p => { p with reqWait := true, reqSeq := 7 }), by decide +kernel⟩,
   by exact ⟨0, false, 0, 0, 7, 0, 0, (((live.setF (F.ETH_STAT_LINK 0) 1).setF F.TIME_PTP_UDP 0).setF F.TIME_CTRL_SRC 1).setF F.TIME_PTP_P2P 1, by decide +kernel⟩,
   by exact ⟨0, false, true, 0, 7, true, 0, 0, ((((live.setF (F.ETH_STAT_LINK 0) 1).setF F.TIME_PTP_UDP 0).setF F.TIME_CTRL_SRC 1).setF F.TIME_PTP_P2P 1).modPtp (fun p => { p with reqWait := true, reqSeq := 7 }), by decide +kernel⟩,
   by exact ⟨0, false, true, 0, 7, false, 0, 0, ((((live.setF (F.ETH_STAT_LINK 0) 1).setF F.TIME_PTP_UDP 0).setF F.TIME_CTRL_SRC 1).setF F.TIME_PTP_P2P 1).modPtp (fun p => { p with reqWait := true, reqSeq := 7 }), by decide +kernel⟩,
   by exact ⟨1, 5, live, by decide +kernel⟩,
   by decide +kernel,
   by exact ⟨live, 3, 5, by decide +kernel⟩,
   by exact ⟨.core .steward 1, 1, 2, live, by decide +kernel⟩,
   by exact ⟨.core .steward 1, 1, 2, live.setF (F.RAKE_PAN_STATE_MODE 0) 3, by decide +kernel⟩,
   by exact ⟨live, 5, 5, by decide +kernel⟩,
   by exact ⟨((live.setF (F.ETH_STAT_LINK 0) 1).setF F.TIME_PTP_UDP 0).setF F.TIME_CTRL_SRC 1, 0, by decide +kernel⟩,
   by exact ⟨live.setF F.TIME_CTRL_SRC 3, by decide +kernel⟩,
   by decide +kernel,
   by exact ⟨.core .steward 1, live, by decide +kernel⟩,
   by exact ⟨rq 11 3 ([]), withCmd (live), _, _, started_rq _ 11 3 _ (by decide +kernel) ⟨_, rfl, by decide, by decide +kernel, by decide⟩, by decide +kernel⟩,
   by exact ⟨_, by decide +kernel, rfl, by decide +kernel⟩,
   by exact ⟨0, 1, 2, 3, 4, live, by decide +kernel⟩,
   by exact ⟨_, rfl⟩,
   by exact ⟨0, 5, live.setF F.RING_STATUS_LINKS 3, by decide +kernel⟩,
   by decide +kernel,
   by exact ⟨5, rfl⟩⟩

theorem witness_BrinelineCommandsActAsTheTablesSay :
    (∃ (l : Fin 3) (s : State), (s.linkSt l = 0) ∧ (s.flag F.RING_CTRL_EN = true) ∧ (s.linkIs l = true)) ∧
    (∃ (l : Fin 3) (s : State), (s.linkSt l ≠ 0 ∨ s.flag F.RING_CTRL_EN = false ∨ s.linkIs l = false)) ∧
    (∃ (l : Fin 3) (s : State), (s.linkSt l = 1) ∧ (s.flag F.ENCL_STAT_TRNG = false) ∧ (s.peerBoot = false)) ∧
    (∃ s : State, s.linkSt 0 = 1 ∧ s.flag F.ENCL_STAT_TRNG = true ∧ (((s.setLink 0 2).useFree).modLink 0 (fun x => { x with nonce := s.rand 16, peerNonce := [], rxSeq := 0, txSeq := 0, naks := 0, retry := false })).peerBoot = false) ∧
    (∃ (l : Fin 3) (s : State), (s.linkSt l = 1)) ∧
    (∃ (l : Fin 3) (s : State), (s.linkSt l ≠ 1)) ∧
    (∃ (l : Fin 3) (s : State), (s.linkSt l = 0) ∧ ((s.link l).retry = true) ∧ (s.flag F.RING_CTRL_EN = true)) ∧
    (∃ (l : Fin 3) (nonce : List Byte) (peer : BitVec 12) (proof : List Byte) (s : State), (s.linkSt l = 2) ∧ (s.peerBoot = false) ∧ ((s.link l).boot = false) ∧ (s.busKey (s.f F.RING_CTRL_KSLOT) 7 = none)) ∧
    (∃ (s : State) (key : List Byte), s.linkSt 0 = 2 ∧ s.peerBoot = false ∧ (s.link 0).boot = false ∧ s.busKey (s.f F.RING_CTRL_KSLOT) 7 = some key ∧ ([] : List Byte) ≠ brlProof key [] (s.link 0).nonce 5 s.ownAddr) ∧
    (∃ (s : State) (key : List Byte), s.linkSt 0 = 2 ∧ s.peerBoot = false ∧ (s.link 0).boot = false ∧ s.busKey (s.f F.RING_CTRL_KSLOT) 7 = some key) ∧
    (∃ (l : Fin 3) (s : State), (s.linkSt l = 2) ∧ (s.peerBoot = false) ∧ ((s.link l).boot = false)) ∧
    (∃ (l : Fin 3) (s : State), (s.linkSt l ≠ 2)) ∧
    (∃ (l : Fin 3) (s : State), (s.linkSt l = 4)) ∧
    (∃ (l : Fin 3) (s : State), (s.linkSt l ≠ 4)) ∧
    (∃ (l : Fin 3) (s : State), (s.linkSt l = 3)) ∧
    (∃ (l : Fin 3) (s : State), (s.linkSt l ≠ 3)) ∧
    (live.hsLink = none) ∧
    (∃ (who : Who) (value : Word) (s : State), (s.regOk who (A.RING_CTRL) = true)) ∧
    (∃ g, regAt A.RING_CTRL = some g ∧ (live.plainWrite g A.RING_CTRL 0#32).linkSt 1 = 0 ∧ (live.plainWrite g A.RING_CTRL 0#32).linkSt 2 = 0) ∧
    (∃ (who : Who) (value : Word) (s : State), (s.regOk who (A.RING_ADDR) = true)) ∧
    (∃ (l : Fin 3) (bytes : List Byte) (s : State), (s.linkSt l = 3 ∨ s.linkSt l = 2) ∧ (bytes.length < 16 ∨ leAt bytes (bytes.length - 4) 4 ≠ crc32c (bytes.take (bytes.length - 4)) ∨ (leAt bytes 1 1 ≠ (s.link l).rxSeq ∧ (s.link l).naks < 5))) ∧
    (∃ b : List Byte, (live.setF F.RING_STATUS_LINKS 3).linkSt 0 = 3 ∧ 16 ≤ b.length ∧ leAt b (b.length - 4) 4 = crc32c (b.take (b.length - 4)) ∧ leAt b 1 1 = ((live.setF F.RING_STATUS_LINKS 3).link 0).rxSeq) ∧
    (∃ (l : Fin 3) (bytes : List Byte) (s : State), (s.linkSt l ≠ 3) ∧ (s.linkSt l ≠ 2)) ∧
    (∃ (l : Fin 3) (seq : BitVec 8) (late : Bool) (s : State) (g : BrlTx), ((s.link l).replay.find? (fun x => x.seq == seq.toNat) = some g) ∧ (late = true ∧ g.kind = 3 ∨ 4 ≤ g.tries)) ∧
    (∃ (l : Fin 3) (seq : BitVec 8) (late : Bool) (s : State) (g : BrlTx), ((s.link l).replay.find? (fun x => x.seq == seq.toNat) = some g) ∧ (late = false ∨ g.kind ≠ 3) ∧ (g.tries < 4)) ∧
    (∃ (l : Fin 3) (seq : BitVec 8) (late : Bool) (s : State), ((s.link l).replay.find? (fun x => x.seq == seq.toNat) = none)) ∧
    (∃ t, t = live.modLink 0 (fun x => { x with replay := ackDrop 0 x.replay })) ∧
    (∃ (s : State), (s.ownAddr = 0)) ∧
    ((live.setF F.RING_ADDR_ADDR 5).ownAddr ≠ 0) ∧
    (∃ (l : Fin 3) (src : BitVec 12) (hops : BitVec 16) (seq : BitVec 16) (s : State), (s.linkSt l ≠ 3)) ∧
    (∃ (l : Fin 3) (src : BitVec 12) (hops : BitVec 16) (seq : BitVec 16) (s : State), (s.linkSt l = 3) ∧ (src.toNat = s.ownAddr) ∧ (s.ownAddr ≠ 0)) ∧
    ((live.setF F.RING_STATUS_LINKS 3).linkSt 0 = 3 ∧ (live.setF F.RING_STATUS_LINKS 3).ownAddr = 0 ∧ (live.setF F.RING_STATUS_LINKS 3).ring.routes.find? (fun r => r.addr == 5) = none) ∧
    (∃ (l : Fin 3) (src : BitVec 12) (hops : BitVec 16) (seq : BitVec 16) (s : State) (o : Route) (t : State), (s.linkSt l = 3) ∧ ((src.toNat ≠ s.ownAddr ∨ s.ownAddr = 0)) ∧ (s.ring.routes.find? (fun r => r.addr == src.toNat) = some o) ∧ (newer 16 seq.toNat o.count = true) ∧ (t = ({ s with ring := { s.ring with routes := putRoute ⟨src.toNat, l, hops.toNat, seq.toNat, s.now⟩ s.ring.routes } } : State).membersSync)) ∧
    (∃ (l : Fin 3) (src : BitVec 12) (hops : BitVec 16) (seq : BitVec 16) (s : State) (o : Route) (t : State), (s.linkSt l = 3) ∧ ((src.toNat ≠ s.ownAddr ∨ s.ownAddr = 0)) ∧ (s.ring.routes.find? (fun r => r.addr == src.toNat) = some o) ∧ (newer 16 seq.toNat o.count = false) ∧ (o.count = seq.toNat) ∧ ((hops.toNat < o.hops ∨ hops.toNat = o.hops ∧ l.val < o.link)) ∧ (t = ({ s with ring := { s.ring with routes := putRoute ⟨src.toNat, l, hops.toNat, seq.toNat, s.now⟩ s.ring.routes } } : State).membersSync)) ∧
    (∃ (l : Fin 3) (src : BitVec 12) (hops : BitVec 16) (seq : BitVec 16) (s : State) (o : Route), (s.linkSt l = 3) ∧ (src.toNat ≠ s.ownAddr ∨ s.ownAddr = 0) ∧ (s.ring.routes.find? (fun r => r.addr == src.toNat) = some o) ∧ (newer 16 seq.toNat o.count = false) ∧ (o.count ≠ seq.toNat ∨ (o.hops < hops.toNat ∨ hops.toNat = o.hops ∧ o.link ≤ l.val))) ∧
    (∃ (addr : BitVec 12) (s : State), (s.ring.routes.any (fun r => r.addr == addr.toNat) = true)) ∧
    (∃ (addr : BitVec 12) (s : State), (s.ring.routes.any (fun r => r.addr == addr.toNat) = false)) ∧
    (∃ (r : Req) (s : State) (x : Option Sess) (s1 : State), Started s r 11 1 x s1 ∧ (r.payload.length = 0)) :=
  ⟨by exact ⟨0, live.setF F.RING_CTRL_EN 1, by decide +kernel⟩,
   by exact ⟨0, live, by decide +kernel⟩,
   by exact ⟨0, (live.setF F.ENCL_STAT_TRNG 0).setF F.RING_STATUS_LINKS 1, by decide +kernel⟩,
   by exact ⟨(live.setF F.ENCL_STAT_TRNG 1).setF F.RING_STATUS_LINKS 1, by decide +kernel, by decide +kernel, by simp only [State.peerBoot, State.f, State.reg, State.modLink]; decide +kernel⟩,
   by exact ⟨0, live.setF F.RING_STATUS_LINKS 1, by decide +kernel⟩,
   by exact ⟨0, live, by decide +kernel⟩,
   by exact ⟨0, (live.setF F.RING_CTRL_EN 1).modLink 0 (fun x => { x with retry := true }), by decide +kernel⟩,
   by exact ⟨0, [], 5, [], live.setF F.RING_STATUS_LINKS 2, by decide +kernel⟩,
   by exact ⟨({ (live.setF F.RING_STATUS_LINKS 2) with encl := { live.encl with slots := [(0, ⟨[1#8], 0, 128, 0⟩)] } }), [1#8], by decide +kernel, by decide +kernel, by decide +kernel, by decide +kernel, fun h => by simpa [brlProof, Config.cmac] using congrArg List.length h⟩,
   by exact ⟨({ (live.setF F.RING_STATUS_LINKS 2) with encl := { live.encl with slots := [(0, ⟨[1#8], 0, 128, 0⟩)] } }), [1#8], by decide +kernel⟩,
   by exact ⟨0, live.setF F.RING_STATUS_LINKS 2, by decide +kernel⟩,
   by exact ⟨0, live, by decide +kernel⟩,
   by exact ⟨0, live.setF F.RING_STATUS_LINKS 4, by decide +kernel⟩,
   by exact ⟨0, live, by decide +kernel⟩,
   by exact ⟨0, live.setF F.RING_STATUS_LINKS 3, by decide +kernel⟩,
   by exact ⟨0, live, by decide +kernel⟩,
   by decide +kernel,
   by exact ⟨.core .steward 1, 0, live, by decide +kernel⟩,
   by exact ⟨(regAt A.RING_CTRL).get (by decide +kernel), by decide +kernel⟩,
   by exact ⟨.core .steward 1, 0, live, by decide +kernel⟩,
   by exact ⟨0, [], live.setF F.RING_STATUS_LINKS 3, by decide +kernel⟩,
   by exact ⟨List.replicate 12 0#8 ++ leBytes 4 (crc32c (List.replicate 12 0#8)), by decide +kernel⟩,
   by exact ⟨0, [], live, by decide +kernel⟩,
   by exact ⟨0, 7, true, (live).modLink 0 (fun x => { x with replay := [⟨7, 3, [], 0⟩] }), ⟨7, 3, [], 0⟩, by decide +kernel⟩,
   by exact ⟨0, 7, false, (live).modLink 0 (fun x => { x with replay := [⟨7, 3, [], 0⟩] }), ⟨7, 3, [], 0⟩, by decide +kernel⟩,
   by exact ⟨0, 7, false, live, by decide +kernel⟩,
   by exact ⟨_, rfl⟩,
   by exact ⟨live, by decide +kernel⟩,
   by decide +kernel,
   by exact ⟨0, 5, 1, 1, live, by decide +kernel⟩,
   by exact ⟨0, 5, 1, 1, (live.setF F.RING_STATUS_LINKS 3).setF F.RING_ADDR_ADDR 5, by decide +kernel⟩,
   by decide +kernel,
   by exact ⟨0, 5, 2, 8, ({ (live.setF F.RING_STATUS_LINKS 3) with ring := { live.ring with routes := [⟨5, 1, 3, 7, 0⟩] } } : State), ⟨5, 1, 3, 7, 0⟩, _, by decide +kernel, by decide +kernel, rfl, by decide +kernel, rfl⟩,
   by exact ⟨0, 5, 2, 7, ({ (live.setF F.RING_STATUS_LINKS 3) with ring := { live.ring with routes := [⟨5, 1, 3, 7, 0⟩] } } : State), ⟨5, 1, 3, 7, 0⟩, _, by decide +kernel, by decide +kernel, rfl, by decide +kernel, by decide +kernel, by decide +kernel, rfl⟩,
   by exact ⟨0, 5, 4, 7, { (live.setF F.RING_STATUS_LINKS 3) with ring := { live.ring with routes := [⟨5, 1, 3, 7, 0⟩] } }, ⟨5, 1, 3, 7, 0⟩, by decide +kernel⟩,
   by exact ⟨5, { (live.setF F.RING_STATUS_LINKS 3) with ring := { live.ring with routes := [⟨5, 1, 3, 7, 0⟩] } }, by decide +kernel⟩,
   by exact ⟨5, live, by decide +kernel⟩,
   by exact ⟨rq 11 1 ([]), withCmd (live), _, _, started_rq _ 11 1 _ (by decide +kernel) ⟨_, rfl, by decide, by decide +kernel, by decide⟩, by decide +kernel⟩⟩

theorem mirAgrees_of (s : State) (p : PanId) (m : Mirror) (h : m.ocrc = crc32c (s.mbytes (dtcmBase p + 0x20000) 0x10000))
    (hd : (s.hsPan p.num).dirty.all (fun i => (tblFind m.tracked i).isSome) = true) : s.mirAgrees p m = true := by
  unfold State.mirAgrees
  rw [h, hd, Bool.and_true]
  exact beq_self_eq_true _
theorem mirAgrees_not (s : State) (p : PanId) (m : Mirror)
    (hd : (s.hsPan p.num).dirty.all (fun i => (tblFind m.tracked i).isSome) = false) : s.mirAgrees p m = false := by
  unfold State.mirAgrees
  rw [hd, Bool.and_false]

theorem witness_HotStandbyAndEditCommandsActAsTheTablesSay :
    (∃ (s : State), (s.hbOn = true)) ∧
    (∃ (s : State), (s.hbOn = false)) ∧
    (∃ (p : PanId) (s : State), s.bndMay p = true) ∧
    (∃ (p : PanId) (x : BndFault) (s : State), (s.bndMay p = false)) ∧
    (∃ (who : Who) (value : Word) (s : State), (s.regOk who (A.RING_HS_CFG) = true)) ∧
    ((∃ g, regAt A.RING_HS_CFG = some g ∧ ((live.setF F.RING_ADDR_ADDR 5).plainWrite g A.RING_HS_CFG 1#32).role = 0 ∧ ((live.setF F.RING_ADDR_ADDR 5).plainWrite g A.RING_HS_CFG 1#32).ownAddr ≠ 0 ∧ (live.plainWrite g A.RING_HS_CFG 1#32).panMode .a ≤ 1 ∧ (live.plainWrite g A.RING_HS_CFG 1#32).panMode .b ≤ 1) ∧ bit (1#32).toNat 0 = true ∧ bit (0#32).toNat 0 = false) ∧
    (∃ (l : Fin 3) (src : BitVec 12) (role : Fin 6) (pref : Bool) (ident : List Byte) (hand : BitVec 64) (s : State), (s.linkSt l = 3) ∧ (s.flag F.RING_HS_CFG_EN = true) ∧ (s.brlTakes = true) ∧ (s.ownAddr ≠ 0) ∧ (src.toNat = s.partner)) ∧
    (∃ (l : Fin 3) (src : BitVec 12) (role : Fin 6) (pref : Bool) (ident : List Byte) (hand : BitVec 64) (s : State), (s.linkSt l ≠ 3 ∨ s.flag F.RING_HS_CFG_EN = false ∨ s.brlTakes = false ∨ s.ownAddr = 0 ∨ src.toNat ≠ s.partner)) ∧
    ((∃ t : State, t.role = 1 ∧ t.hsIdent ≠ []) ∧ (∃ t : State, t.role = 2) ∧ live.role = 0) ∧
    (∃ (s : State), (1 ≤ s.role) ∧ (s.role ≤ 4)) ∧
    (∃ (s : State), (s.role = 0 ∨ 4 < s.role)) ∧
    ((live.setF F.RING_HS_STAT_ROLE 3).role = 3) ∧
    (∃ (s : State) (b : Nat) (k : RKey), (s.role = 4) ∧ (s.ring.hs.plan = some (b, some k))) ∧
    (∃ (s : State) (b : Nat), (s.role = 4) ∧ (s.ring.hs.plan = none ∨ s.ring.hs.plan = some (b, none))) ∧
    (∃ (s : State), (s.role ≠ 3) ∧ (s.role ≠ 4)) ∧
    (∃ (s : State), (s.role = 1)) ∧
    (∃ (s : State), (s.role ≠ 1)) ∧
    ((live.setF F.RING_HS_STAT_ROLE 4).role = 4 ∧ (live.setF F.RING_HS_STAT_ROLE 4).brlTakes = true) ∧
    (∃ (p : PanId) (record : List Byte) (lines : List (BitVec 32 × List Byte)) (s : State), (s.role ≠ 3) ∧ (s.role ≠ 4)) ∧
    (∃ (p : PanId) (s : State), (s.role = 3 ∨ s.role = 4) ∧ (s.standby p = true) ∧ (s.panMode p = 3) ∧ (s.brlTakes = true) ∧ (s.ring.hs.offDue = false)) ∧
    (∃ (p : PanId) (s : State), (s.role = 3 ∨ s.role = 4) ∧ (s.standby p = true) ∧ (s.panMode p = 3) ∧ (s.brlTakes = true) ∧ (s.ring.hs.offDue = true)) ∧
    (∃ (p : PanId) (s : State), (s.role ≠ 3) ∧ (s.role ≠ 4)) ∧
    (((live.hsPan 0).mir = none ∧ (live.hsPan 0).handed = false ∧ ((live.modHsPan 0 (fun h => { h with handed := true })).hsPan 0).handed = true) ∧
    (∃ s : State, (∃ m, (s.hsPan 0).mir = some m) ∧ (s.pan .a).logic = true ∧ s.role = 4) ∧
    (∃ (s : State) (m : Mirror), (s.hsPan 0).mir = some m ∧ ((s.pan .a).logic = false ∨ s.role ≠ 4) ∧ 4096 < m.nin + m.ndirty) ∧
    (∃ (s : State) (m : Mirror), (s.hsPan 0).mir = some m ∧ ((s.pan .a).logic = false ∨ s.role ≠ 4) ∧ m.whole = true ∧ m.nin + m.ndirty ≤ 4096 ∧ (s.hsPan 0).logic = true ∧ s.mirAgrees .a m = false) ∧
    (∃ (s : State) (m : Mirror), (s.hsPan 0).mir = some m ∧ (s.pan .a).logic = false ∧ s.role = 4 ∧ m.whole = true ∧ m.nin + m.ndirty ≤ 4096 ∧ (s.hsPan 0).logic = true ∧ s.mirAgrees .a m = true)) ∧
    (∃ s : State, s.role = 4 ∧ s.ring.hs.loss = true ∧ (((s.becomePrimary.raise 330).incF F.RING_HS_CNT_TAKEOVERS 1).routeTo 9 <|> ((s.becomePrimary.raise 330).incF F.RING_HS_CNT_TAKEOVERS 1).hsLink) = some 0 ∧ s.partner = 9) ∧
    (∃ s : State, s.role = 4 ∧ s.ring.hs.loss = true ∧ (((s.becomePrimary.raise 330).incF F.RING_HS_CNT_TAKEOVERS 1).routeTo 9 <|> ((s.becomePrimary.raise 330).incF F.RING_HS_CNT_TAKEOVERS 1).hsLink) = none ∧ s.partner = 9) ∧
    (∃ (s : State), (s.role ≠ 4 ∨ s.ring.hs.loss = false)) ∧
    (∃ (l : Fin 3) (src : BitVec 12) (s : State), (s.linkSt l = 3) ∧ (s.flag F.RING_CTRL_RRST_EN = true) ∧ (s.flag F.RING_HS_CFG_EN = true) ∧ (s.brlTakes = true) ∧ (src.toNat = s.partner)) ∧
    (∃ (l : Fin 3) (src : BitVec 12) (s : State), (s.linkSt l ≠ 3 ∨ s.flag F.RING_CTRL_RRST_EN = false ∨ s.flag F.RING_HS_CFG_EN = false ∨ s.brlTakes = false ∨ src.toNat ≠ s.partner)) ∧
    (∃ (r : Req) (s : State) (x : Option Sess) (s1 : State), Started s r 11 2 x s1 ∧ (r.payload.length = 2) ∧ (leVal r.payload ≠ s1.partner)) ∧
    (∃ (r : Req) (s : State) (x : Option Sess) (s1 : State), Started s r 11 2 x s1 ∧ (r.payload.length = 2) ∧ (leVal r.payload = s1.partner) ∧ (¬(s1.role = 2 ∧ s1.f F.RING_HS_STAT_PROLE = 4) ∧ ¬(s1.role = 4 ∧ s1.f F.RING_HS_STAT_PROLE = 2) ∨ s1.ring.hs.plan ≠ none)) ∧
    (∃ (r : Req) (s : State) (x : Option Sess) (s1 : State), Started s r 11 2 x s1 ∧ r.payload.length = 2 ∧ leVal r.payload = s1.partner ∧ (s1.role = 2 ∧ s1.f F.RING_HS_STAT_PROLE = 4) ∧ s1.ring.hs.plan = none) ∧
    (∃ (s : State), (s.ring.hs.plan = none)) ∧
    (∃ s : State, s.ring.hs.plan = some (0, some ⟨0, 0, 0⟩) ∧ s.mustStop 3 = true) ∧
    (∃ (s : State) (b : Nat), (s.ring.hs.plan = some (b, none)) ∧ (s.role = 2)) ∧
    (∃ (s : State) (b : Nat), (s.ring.hs.plan = some (b, none)) ∧ (s.role = 4)) ∧
    (∃ (s : State), s.ring.hs.plan = some (0, some ⟨0, 0, 0⟩) ∧ s.mustStop 3 = false ∧ s.role = 4 ∧ s.becomePrimary.mustStop 3 = false) ∧
    (∃ (s : State), s.ring.hs.plan = some (0, some ⟨0, 0, 0⟩) ∧ s.mustStop 3 = false ∧ s.role = 2) ∧
    (∃ (r : Req) (s : State) (x : Option Sess) (s1 : State), Started s r 4 4 x s1 ∧ (r.payload.length < 7)) ∧
    (∃ (r : Req) (s : State) (x : Option Sess) (s1 : State), Started s r 4 4 x s1 ∧ (7 ≤ r.payload.length) ∧ (panOf (leAt r.payload 0 1) = none)) ∧
    (∃ (r : Req) (s : State) (x : Option Sess) (s1 : State) (p : PanId), Started s r 4 4 x s1 ∧ (7 ≤ r.payload.length) ∧ (panOf (leAt r.payload 0 1) = some p) ∧ (leAt r.payload 1 2 = 0 ∨ 1023 < leAt r.payload 1 2)) ∧
    (∃ (r : Req) (s : State) (x : Option Sess) (s1 : State) (p : PanId), Started s r 4 4 x s1 ∧ (7 ≤ r.payload.length) ∧ (panOf (leAt r.payload 0 1) = some p) ∧ (1 ≤ leAt r.payload 1 2 ∧ leAt r.payload 1 2 ≤ 1023) ∧ (s1.panMode p = 0)) ∧
    (∃ (r : Req) (s : State) (x : Option Sess) (s1 : State), Started s r 4 4 x s1 ∧ 7 ≤ r.payload.length ∧ 0x100000 < leAt r.payload 3 4 + (r.payload.drop 7).length ∧ panOf (leAt r.payload 0 1) = some .a ∧ (1 ≤ leAt r.payload 1 2 ∧ leAt r.payload 1 2 ≤ 1023) ∧ s1.panMode .a ≠ 0) ∧
    (∃ (r : Req) (s : State) (x : Option Sess) (s1 : State), Started s r 4 4 x s1 ∧ 7 ≤ r.payload.length ∧ panOf (leAt r.payload 0 1) = some .a ∧ (1 ≤ leAt r.payload 1 2 ∧ leAt r.payload 1 2 ≤ 1023) ∧ s1.panMode .a ≠ 0 ∧ leAt r.payload 3 4 + (r.payload.drop 7).length ≤ 0x100000 ∧ (s1.pan .a).stageFits (tblSet (s1.pan .a).staged (leAt r.payload 1 2) (blockPut (tblGet (s1.pan .a).staged (leAt r.payload 1 2)) (leAt r.payload 3 4) (r.payload.drop 7))) = true) ∧
    (∃ (r : Req) (s : State) (x : Option Sess) (s1 : State), Started s r 4 4 x s1 ∧ 7 ≤ r.payload.length ∧ panOf (leAt r.payload 0 1) = some .a ∧ (1 ≤ leAt r.payload 1 2 ∧ leAt r.payload 1 2 ≤ 1023) ∧ s1.panMode .a ≠ 0 ∧ leAt r.payload 3 4 + (r.payload.drop 7).length ≤ 0x100000 ∧ (s1.pan .a).stageFits (tblSet (s1.pan .a).staged (leAt r.payload 1 2) (blockPut (tblGet (s1.pan .a).staged (leAt r.payload 1 2)) (leAt r.payload 3 4) (r.payload.drop 7))) = true ∧ s1.role = 3) ∧
    (∃ (r : Req) (s : State) (x : Option Sess) (s1 : State), Started s r 4 4 x s1 ∧ 7 ≤ r.payload.length ∧ panOf (leAt r.payload 0 1) = some .a ∧ (1 ≤ leAt r.payload 1 2 ∧ leAt r.payload 1 2 ≤ 1023) ∧ s1.panMode .a ≠ 0 ∧ leAt r.payload 3 4 + (r.payload.drop 7).length ≤ 0x100000 ∧ (s1.pan .a).stageFits (tblSet (s1.pan .a).staged (leAt r.payload 1 2) (blockPut (tblGet (s1.pan .a).staged (leAt r.payload 1 2)) (leAt r.payload 3 4) (r.payload.drop 7))) = true ∧ s1.role = 0 ∧ s1.editPair = false) ∧
    (∃ (r : Req) (s : State) (x : Option Sess) (s1 : State), Started s r 4 4 x s1 ∧ 7 ≤ r.payload.length ∧ panOf (leAt r.payload 0 1) = some .a ∧ (1 ≤ leAt r.payload 1 2 ∧ leAt r.payload 1 2 ≤ 1023) ∧ s1.panMode .a ≠ 0 ∧ leAt r.payload 3 4 + (r.payload.drop 7).length ≤ 0x100000 ∧ (s1.pan .a).stageFits (tblSet (s1.pan .a).staged (leAt r.payload 1 2) (blockPut (tblGet (s1.pan .a).staged (leAt r.payload 1 2)) (leAt r.payload 3 4) (r.payload.drop 7))) = true ∧ s1.role = 2 ∧ s1.editPair = true ∧ (s1.stopServed 2).hsLink = none) ∧
    (∃ (r : Req) (s : State) (x : Option Sess) (s1 : State), Started s r 4 4 x s1 ∧ 7 ≤ r.payload.length ∧ panOf (leAt r.payload 0 1) = some .a ∧ (1 ≤ leAt r.payload 1 2 ∧ leAt r.payload 1 2 ≤ 1023) ∧ s1.panMode .a ≠ 0 ∧ leAt r.payload 3 4 + (r.payload.drop 7).length ≤ 0x100000 ∧ (s1.pan .a).stageFits (tblSet (s1.pan .a).staged (leAt r.payload 1 2) (blockPut (tblGet (s1.pan .a).staged (leAt r.payload 1 2)) (leAt r.payload 3 4) (r.payload.drop 7))) = true ∧ s1.role = 2 ∧ s1.editPair = true ∧ (s1.stopServed 2).hsLink = some 0) ∧
    (∃ (r : Req) (s : State) (x : Option Sess) (s1 : State), Started s r 11 4 x s1 ∧ (r.payload.length < 7)) ∧
    (∃ (r : Req) (s : State) (x : Option Sess) (s1 : State), Started s r 11 4 x s1 ∧ (7 ≤ r.payload.length) ∧ (panOf (leAt r.payload 0 1) = none)) ∧
    (∃ (r : Req) (s : State) (x : Option Sess) (s1 : State) (p : PanId), Started s r 11 4 x s1 ∧ (7 ≤ r.payload.length) ∧ (panOf (leAt r.payload 0 1) = some p) ∧ (leAt r.payload 1 2 = 0 ∨ 1023 < leAt r.payload 1 2)) ∧
    (∃ (r : Req) (s : State) (x : Option Sess) (s1 : State) (p : PanId), Started s r 11 4 x s1 ∧ (7 ≤ r.payload.length) ∧ (panOf (leAt r.payload 0 1) = some p) ∧ (1 ≤ leAt r.payload 1 2 ∧ leAt r.payload 1 2 ≤ 1023) ∧ (s1.panMode p = 0)) ∧
    (∃ (r : Req) (s : State) (x : Option Sess) (s1 : State), Started s r 11 4 x s1 ∧ 7 ≤ r.payload.length ∧ 0x100000 < leAt r.payload 3 4 + (r.payload.drop 7).length ∧ panOf (leAt r.payload 0 1) = some .a ∧ (1 ≤ leAt r.payload 1 2 ∧ leAt r.payload 1 2 ≤ 1023) ∧ s1.panMode .a ≠ 0) ∧
    (∃ (r : Req) (s : State) (x : Option Sess) (s1 : State), Started s r 11 4 x s1 ∧ 7 ≤ r.payload.length ∧ panOf (leAt r.payload 0 1) = some .a ∧ (1 ≤ leAt r.payload 1 2 ∧ leAt r.payload 1 2 ≤ 1023) ∧ s1.panMode .a ≠ 0 ∧ leAt r.payload 3 4 + (r.payload.drop 7).length ≤ 0x100000 ∧ (s1.pan .a).stageFits (tblSet (s1.pan .a).staged (leAt r.payload 1 2) (blockPut (tblGet (s1.pan .a).staged (leAt r.payload 1 2)) (leAt r.payload 3 4) (r.payload.drop 7))) = true) ∧
    (∃ (r : Req) (s : State) (x : Option Sess) (s1 : State), Started s r 11 4 x s1 ∧ 7 ≤ r.payload.length ∧ panOf (leAt r.payload 0 1) = some .a ∧ (1 ≤ leAt r.payload 1 2 ∧ leAt r.payload 1 2 ≤ 1023) ∧ s1.panMode .a ≠ 0 ∧ leAt r.payload 3 4 + (r.payload.drop 7).length ≤ 0x100000 ∧ (s1.pan .a).stageFits (tblSet (s1.pan .a).staged (leAt r.payload 1 2) (blockPut (tblGet (s1.pan .a).staged (leAt r.payload 1 2)) (leAt r.payload 3 4) (r.payload.drop 7))) = true ∧ s1.role = 3) ∧
    (∃ (r : Req) (s : State) (x : Option Sess) (s1 : State), Started s r 11 4 x s1 ∧ 7 ≤ r.payload.length ∧ panOf (leAt r.payload 0 1) = some .a ∧ (1 ≤ leAt r.payload 1 2 ∧ leAt r.payload 1 2 ≤ 1023) ∧ s1.panMode .a ≠ 0 ∧ leAt r.payload 3 4 + (r.payload.drop 7).length ≤ 0x100000 ∧ (s1.pan .a).stageFits (tblSet (s1.pan .a).staged (leAt r.payload 1 2) (blockPut (tblGet (s1.pan .a).staged (leAt r.payload 1 2)) (leAt r.payload 3 4) (r.payload.drop 7))) = true ∧ s1.role = 0) ∧
    (∃ (r : Req) (s : State) (x : Option Sess) (s1 : State), Started s r 4 5 x s1 ∧ (r.payload.length < 5)) ∧
    (∃ (r : Req) (s : State) (x : Option Sess) (s1 : State), Started s r 4 5 x s1 ∧ (5 ≤ r.payload.length) ∧ (r.payload.length % 2 ≠ 1 ∨ 2051 < r.payload.length)) ∧
    (∃ (r : Req) (s : State) (x : Option Sess) (s1 : State), Started s r 4 5 x s1 ∧ (5 ≤ r.payload.length ∧ r.payload.length % 2 = 1 ∧ r.payload.length ≤ 2051) ∧ (panOf (leAt r.payload 0 1) = none)) ∧
    (∃ (r : Req) (s : State) (x : Option Sess) (s1 : State) (p : PanId), Started s r 4 5 x s1 ∧ (5 ≤ r.payload.length ∧ r.payload.length % 2 = 1 ∧ r.payload.length ≤ 2051) ∧ (panOf (leAt r.payload 0 1) = some p) ∧ (leAt r.payload 1 2 < 1 ∨ 1024 < leAt r.payload 1 2)) ∧
    (∃ (r : Req) (s : State) (x : Option Sess) (s1 : State) (p : PanId), Started s r 4 5 x s1 ∧ (5 ≤ r.payload.length ∧ r.payload.length % 2 = 1 ∧ r.payload.length ≤ 2051) ∧ (panOf (leAt r.payload 0 1) = some p) ∧ (1 ≤ leAt r.payload 1 2 ∧ leAt r.payload 1 2 ≤ 1024) ∧ (r.payload.length ≠ 3 + 2 * leAt r.payload 1 2)) ∧
    (∃ (r : Req) (s : State) (x : Option Sess) (s1 : State), Started s r 4 5 x s1 ∧ panOf (leAt r.payload 0 1) = some .a ∧ leAt r.payload 1 2 = 1 ∧ r.payload.length = 5 ∧ leAt r.payload 3 2 = 0) ∧
    (∃ (r : Req) (s : State) (x : Option Sess) (s1 : State), Started s r 4 5 x s1 ∧ panOf (leAt r.payload 0 1) = some .a ∧ leAt r.payload 1 2 = 1 ∧ r.payload.length = 5 ∧ leAt r.payload 3 2 = 5 ∧ s1.panMode .a = 0) ∧
    (∃ (r : Req) (s : State) (x : Option Sess) (s1 : State), Started s r 4 5 x s1 ∧ panOf (leAt r.payload 0 1) = some .a ∧ leAt r.payload 1 2 = 1 ∧ r.payload.length = 5 ∧ leAt r.payload 3 2 = 5 ∧ ¬(s1.panMode .a = 0 ∨ s1.panMode .a = 2 ∨ (s1.pan .a).unstored = true ∨ (s1.pan .a).edit ≠ none ∨ s1.ring.hs.edit ≠ none ∨ 3 ≤ s1.role ∨ (s1.role = 2 ∧ s1.f F.RING_HS_STAT_PROLE = 3)) ∧ (s1.pan .a).stagedAll [5] = false) ∧
    (∃ (r : Req) (s : State) (x : Option Sess) (s1 : State), Started s r 4 5 x s1 ∧ panOf (leAt r.payload 0 1) = some .a ∧ leAt r.payload 1 2 = 1 ∧ r.payload.length = 5 ∧ leAt r.payload 3 2 = 5 ∧ ¬(s1.panMode .a = 0 ∨ s1.panMode .a = 2 ∨ (s1.pan .a).unstored = true ∨ (s1.pan .a).edit ≠ none ∨ s1.ring.hs.edit ≠ none ∨ 3 ≤ s1.role ∨ (s1.role = 2 ∧ s1.f F.RING_HS_STAT_PROLE = 3)) ∧ (s1.pan .a).stagedAll [5] = true ∧ ((s1.stopServed 2).accept (rkeyOf r)).editPair = false) ∧
    (∃ (r : Req) (s : State) (x : Option Sess) (s1 : State), Started s r 4 5 x s1 ∧ panOf (leAt r.payload 0 1) = some .a ∧ leAt r.payload 1 2 = 1 ∧ r.payload.length = 5 ∧ leAt r.payload 3 2 = 5 ∧ ¬(s1.panMode .a = 0 ∨ s1.panMode .a = 2 ∨ (s1.pan .a).unstored = true ∨ (s1.pan .a).edit ≠ none ∨ s1.ring.hs.edit ≠ none ∨ 3 ≤ s1.role ∨ (s1.role = 2 ∧ s1.f F.RING_HS_STAT_PROLE = 3)) ∧ (s1.pan .a).stagedAll [5] = true ∧ ((s1.stopServed 2).accept (rkeyOf r)).editPair = true) ∧
    (∃ (p : PanId) (s : State) (e : HsEdit), (s.ring.hs.edit = some e) ∧ (e.check = true) ∧ (e.pan = p.num)) ∧
    (∃ (p : PanId) (s : State), (s.ring.hs.edit = none)) ∧
    (∃ (r : Req) (s : State) (x : Option Sess) (s1 : State), Started s r 11 5 x s1 ∧ (r.payload.length < 3)) ∧
    (∃ (r : Req) (s : State) (x : Option Sess) (s1 : State), Started s r 11 5 x s1 ∧ (3 ≤ r.payload.length) ∧ (r.payload.length % 2 ≠ 1 ∨ 2051 < r.payload.length)) ∧
    (∃ (r : Req) (s : State) (x : Option Sess) (s1 : State), Started s r 11 5 x s1 ∧ (3 ≤ r.payload.length ∧ r.payload.length % 2 = 1 ∧ r.payload.length ≤ 2051) ∧ (r.payload.length ≠ 3 + 2 * leAt r.payload 1 2)) ∧
    (∃ (r : Req) (s : State) (x : Option Sess) (s1 : State), Started s r 11 5 x s1 ∧ (r.payload.length = 3 + 2 * leAt r.payload 1 2 ∧ r.payload.length ≤ 2051) ∧ (panOf (leAt r.payload 0 1) = none)) ∧
    (∃ (r : Req) (s : State) (x : Option Sess) (s1 : State) (p : PanId) (bs : List Nat), Started s r 11 5 x s1 ∧ (r.payload.length = 3 + 2 * leAt r.payload 1 2 ∧ r.payload.length ≤ 2051) ∧ (panOf (leAt r.payload 0 1) = some p) ∧ (bs = (List.range (leAt r.payload 1 2)).map (fun i => leAt r.payload (3 + 2 * i) 2)) ∧ (s1.role = 3 ∨ s1.role = 4) ∧ ((s1.pan p).stagedAll bs = true)) ∧
    (∃ (r : Req) (s : State) (x : Option Sess) (s1 : State) (p : PanId) (bs : List Nat), Started s r 11 5 x s1 ∧ (r.payload.length = 3 + 2 * leAt r.payload 1 2 ∧ r.payload.length ≤ 2051) ∧ (panOf (leAt r.payload 0 1) = some p) ∧ (bs = (List.range (leAt r.payload 1 2)).map (fun i => leAt r.payload (3 + 2 * i) 2)) ∧ (s1.role ≠ 3 ∧ s1.role ≠ 4 ∨ (s1.pan p).stagedAll bs = false)) ∧
    (∃ (r : Req) (s : State) (x : Option Sess) (s1 : State), Started s r 11 6 x s1 ∧ (r.payload.length = 1) ∧ (panOf (leVal r.payload) = none)) ∧
    (∃ (r : Req) (s : State) (x : Option Sess) (s1 : State) (p : PanId), Started s r 11 6 x s1 ∧ (r.payload.length = 1) ∧ (panOf (leVal r.payload) = some p)) :=
  ⟨by exact ⟨(live.setF F.RING_HS_STAT_ROLE 2).setF F.RING_ADDR_ADDR 5, by decide +kernel⟩,
   by exact ⟨live, by decide +kernel⟩,
   by exact ⟨.a, (live.setF (F.RAKE_PAN_STATE_MODE 0) 3).setF F.RAKE_CTRL_EN 1, by decide +kernel⟩,
   by exact ⟨.a, ⟨none, false, false⟩, live, by decide +kernel⟩,
   by exact ⟨.core .steward 1, 0, live, by decide +kernel⟩,
   by exact ⟨⟨(regAt A.RING_HS_CFG).get (by decide +kernel), by decide +kernel⟩, by decide⟩,
   by exact ⟨0, 0, 1, true, [], 0, ((live.setF F.RING_STATUS_LINKS 3).setF F.RING_ADDR_ADDR 5).setF F.RING_HS_CFG_EN 1, by decide +kernel⟩,
   by exact ⟨0, 0, 1, true, [], 0, live, by decide +kernel⟩,
   by exact ⟨⟨live.setF F.RING_HS_STAT_ROLE 1, by decide +kernel, fun h => absurd (congrArg List.length h) (by simp [State.hsIdent])⟩, ⟨live.setF F.RING_HS_STAT_ROLE 2, by decide +kernel⟩, by decide +kernel⟩,
   by exact ⟨live.setF F.RING_HS_STAT_ROLE 2, by decide +kernel⟩,
   by exact ⟨live, by decide +kernel⟩,
   by decide +kernel,
   by exact ⟨(live.setF F.RING_HS_STAT_ROLE 4).modHs (fun h => { h with plan := some (0, some ⟨0, 0, 0⟩) }), 0, ⟨0, 0, 0⟩, by decide +kernel⟩,
   by exact ⟨live.setF F.RING_HS_STAT_ROLE 4, 0, by decide +kernel⟩,
   by exact ⟨live, by decide +kernel⟩,
   by exact ⟨live.setF F.RING_HS_STAT_ROLE 1, by decide +kernel⟩,
   by exact ⟨live, by decide +kernel⟩,
   by decide +kernel,
   by exact ⟨.a, [], [], live, by decide +kernel⟩,
   by exact ⟨.a, ((live.setF F.RING_HS_STAT_ROLE 4).setF (F.RAKE_PAN_STATE_MODE 0) 3).setF (F.RAKE_PAN_STATE_STANDBY 0) 1, by decide +kernel⟩,
   by exact ⟨.a, (((live.setF F.RING_HS_STAT_ROLE 4).setF (F.RAKE_PAN_STATE_MODE 0) 3).setF (F.RAKE_PAN_STATE_STANDBY 0) 1).modHs (fun h => { h with offDue := true }), by decide +kernel⟩,
   by exact ⟨.a, live, by decide +kernel⟩,
   by exact ⟨by decide +kernel, ⟨(((live.setF F.RING_HS_STAT_ROLE 4).modHsPan 0 (fun h => { h with mir := some ⟨0, 0, false, 0, 0, 0, crc32c (live.mbytes (dtcmBase .a + 0x20000) 0x10000), [], []⟩, logic := true, dirty := [] }))).modPan .a (fun q => { q with logic := true }), ⟨_, rfl⟩, by decide +kernel, by decide +kernel⟩,
    ⟨((live.setF F.RING_HS_STAT_ROLE 4).modHsPan 0 (fun h => { h with mir := some ⟨0, 0, false, 4000, 97, 0, crc32c (live.mbytes (dtcmBase .a + 0x20000) 0x10000), [], []⟩, logic := true, dirty := [] })), _, rfl, by decide +kernel, by decide +kernel⟩,
    ⟨((live.setF F.RING_HS_STAT_ROLE 3).modHsPan 0 (fun h => { h with mir := some ⟨0, 0, false, 0, 0, 0, crc32c (live.mbytes (dtcmBase .a + 0x20000) 0x10000), [], []⟩, logic := true, dirty := [3] })), _, rfl, by decide +kernel, by decide +kernel, by decide +kernel, by decide +kernel, mirAgrees_not _ _ _ (by decide +kernel)⟩,
    ⟨((live.setF F.RING_HS_STAT_ROLE 4).modHsPan 0 (fun h => { h with mir := some ⟨0, 0, false, 0, 0, 0, crc32c (live.mbytes (dtcmBase .a + 0x20000) 0x10000), [], []⟩, logic := true, dirty := [] })), _, rfl, by decide +kernel, by decide +kernel, by decide +kernel, by decide +kernel, by decide +kernel, mirAgrees_of _ _ _ (congrArg crc32c rfl) (by decide +kernel)⟩⟩,
   by exact ⟨State.modHs { ((live.setF F.RING_HS_STAT_ROLE 4).setF F.RING_HS_CFG_PARTNER 9) with ring := { live.ring with routes := [⟨9, 0, 1, 0, 0⟩] } } (fun h => { h with loss := true }), by decide +kernel⟩,
   by exact ⟨State.modHs { ((live.setF F.RING_HS_STAT_ROLE 4).setF F.RING_HS_CFG_PARTNER 9) with ring := { live.ring with routes := [] } } (fun h => { h with loss := true }), by decide +kernel⟩,
   by exact ⟨live, by decide +kernel⟩,
   by exact ⟨0, 0, ((live.setF F.RING_STATUS_LINKS 3).setF F.RING_CTRL_RRST_EN 1).setF F.RING_HS_CFG_EN 1, by decide +kernel⟩,
   by exact ⟨0, 0, live, by decide +kernel⟩,
   by exact ⟨rq 11 2 ([7#8, 0#8]), withCmd (live), _, _, started_rq _ 11 2 _ (by decide +kernel) ⟨_, rfl, by decide, by decide +kernel, by decide⟩, by decide +kernel⟩,
   by exact ⟨rq 11 2 ([0#8, 0#8]), withCmd (live), _, _, started_rq _ 11 2 _ (by decide +kernel) ⟨_, rfl, by decide, by decide +kernel, by decide⟩, by decide +kernel⟩,
   by exact ⟨rq 11 2 [0#8, 0#8], withCmd ((live.setF F.RING_HS_STAT_ROLE 2).setF F.RING_HS_STAT_PROLE 4), _, _, started_rq _ 11 2 _ (by decide +kernel) ⟨_, rfl, by decide, by decide +kernel, by decide⟩, by decide +kernel⟩,
   by exact ⟨live, by decide +kernel⟩,
   by exact ⟨State.modHs { live with cmd := { live.cmd with stopAsked := [3] } } (fun h => { h with plan := some (0, some ⟨0, 0, 0⟩) }), by decide +kernel⟩,
   by exact ⟨(live.setF F.RING_HS_STAT_ROLE 2).modHs (fun h => { h with plan := some (0, none) }), 0, by decide +kernel⟩,
   by exact ⟨(live.setF F.RING_HS_STAT_ROLE 4).modHs (fun h => { h with plan := some (0, none) }), 0, by decide +kernel⟩,
   by exact ⟨(live.setF F.RING_HS_STAT_ROLE 4).modHs (fun h => { h with plan := some (0, some ⟨0, 0, 0⟩) }), by decide +kernel⟩,
   by exact ⟨(live.setF F.RING_HS_STAT_ROLE 2).modHs (fun h => { h with plan := some (0, some ⟨0, 0, 0⟩) }), by decide +kernel⟩,
   by exact ⟨rq 4 4 ([]), withCmd (live), _, _, started_rq _ 4 4 _ (by decide +kernel) ⟨_, rfl, by decide, by decide +kernel, by decide⟩, by decide +kernel⟩,
   by exact ⟨rq 4 4 (List.replicate 9 2#8), withCmd (live), _, _, started_rq _ 4 4 _ (by decide +kernel) ⟨_, rfl, by decide, by decide +kernel, by decide⟩, by decide +kernel⟩,
   by exact ⟨rq 4 4 (List.replicate 9 0#8), withCmd (live), _, _, .a, started_rq _ 4 4 _ (by decide +kernel) ⟨_, rfl, by decide, by decide +kernel, by decide⟩, by decide +kernel⟩,
   by exact ⟨rq 4 4 ((List.replicate 9 0#8).set 1 1#8), withCmd (live), _, _, .a, started_rq _ 4 4 _ (by decide +kernel) ⟨_, rfl, by decide, by decide +kernel, by decide⟩, by decide +kernel⟩,
   by exact ⟨rq 4 4 (0#8 :: 1#8 :: 0#8 :: List.replicate 4 255#8), withCmd (live.setF (F.RAKE_PAN_STATE_MODE 0) 1), _, _, started_rq _ 4 4 _ (by decide +kernel) ⟨_, rfl, by decide, by decide +kernel, by decide⟩, by decide +kernel⟩,
   by exact ⟨rq 4 4 ((List.replicate 9 0#8).set 1 1#8), withCmd (live.setF (F.RAKE_PAN_STATE_MODE 0) 1), _, _, started_rq _ 4 4 _ (by decide +kernel) ⟨_, rfl, by decide, by decide +kernel, by decide⟩, by decide +kernel⟩,
   by exact ⟨rq 4 4 ((List.replicate 9 0#8).set 1 1#8), withCmd ((live.setF (F.RAKE_PAN_STATE_MODE 0) 1).setF F.RING_HS_STAT_ROLE 3), _, _, started_rq _ 4 4 _ (by decide +kernel) ⟨_, rfl, by decide, by decide +kernel, by decide⟩, by decide +kernel⟩,
   by exact ⟨rq 4 4 ((List.replicate 9 0#8).set 1 1#8), withCmd (live.setF (F.RAKE_PAN_STATE_MODE 0) 1), _, _, started_rq _ 4 4 _ (by decide +kernel) ⟨_, rfl, by decide, by decide +kernel, by decide⟩, by decide +kernel⟩,
   by exact ⟨rq 4 4 ((List.replicate 9 0#8).set 1 1#8), withCmd (((live.setF (F.RAKE_PAN_STATE_MODE 0) 1).setF F.RING_HS_STAT_ROLE 2).setF F.RING_HS_STAT_PROLE 4), _, _, started_rq _ 4 4 _ (by decide +kernel) ⟨_, rfl, by decide, by decide +kernel, by decide⟩, by decide +kernel⟩,
   by exact ⟨rq 4 4 ((List.replicate 9 0#8).set 1 1#8), withCmd (((((live.setF (F.RAKE_PAN_STATE_MODE 0) 1).setF F.RING_HS_STAT_ROLE 2).setF F.RING_HS_STAT_PROLE 4).setF F.RING_STATUS_LINKS 3).setF (F.RING_LINK_STAT_WIDTH 0) 2), _, _, started_rq _ 4 4 _ (by decide +kernel) ⟨_, rfl, by decide, by decide +kernel, by decide⟩, by decide +kernel⟩,
   by exact ⟨rqp ([]), withPeer (live), _, _, started_rqp _ 11 4 _ (by decide +kernel) ⟨_, rfl, by decide⟩, by decide +kernel⟩,
   by exact ⟨rqp (List.replicate 9 2#8), withPeer (live), _, _, started_rqp _ 11 4 _ (by decide +kernel) ⟨_, rfl, by decide⟩, by decide +kernel⟩,
   by exact ⟨rqp (List.replicate 9 0#8), withPeer (live), _, _, .a, started_rqp _ 11 4 _ (by decide +kernel) ⟨_, rfl, by decide⟩, by decide +kernel⟩,
   by exact ⟨rqp ((List.replicate 9 0#8).set 1 1#8), withPeer (live), _, _, .a, started_rqp _ 11 4 _ (by decide +kernel) ⟨_, rfl, by decide⟩, by decide +kernel⟩,
   by exact ⟨rqp (0#8 :: 1#8 :: 0#8 :: List.replicate 4 255#8), withPeer (live.setF (F.RAKE_PAN_STATE_MODE 0) 1), _, _, started_rqp _ 11 4 _ (by decide +kernel) ⟨_, rfl, by decide⟩, by decide +kernel⟩,
   by exact ⟨rqp ((List.replicate 9 0#8).set 1 1#8), withPeer (live.setF (F.RAKE_PAN_STATE_MODE 0) 1), _, _, started_rqp _ 11 4 _ (by decide +kernel) ⟨_, rfl, by decide⟩, by decide +kernel⟩,
   by exact ⟨rqp ((List.replicate 9 0#8).set 1 1#8), withPeer ((live.setF (F.RAKE_PAN_STATE_MODE 0) 1).setF F.RING_HS_STAT_ROLE 3), _, _, started_rqp _ 11 4 _ (by decide +kernel) ⟨_, rfl, by decide⟩, by decide +kernel⟩,
   by exact ⟨rqp ((List.replicate 9 0#8).set 1 1#8), withPeer (live.setF (F.RAKE_PAN_STATE_MODE 0) 1), _, _, started_rqp _ 11 4 _ (by decide +kernel) ⟨_, rfl, by decide⟩, by decide +kernel⟩,
   by exact ⟨rq 4 5 ([]), withCmd (live), _, _, started_rq _ 4 5 _ (by decide +kernel) ⟨_, rfl, by decide, by decide +kernel, by decide⟩, by decide +kernel⟩,
   by exact ⟨rq 4 5 (List.replicate 6 0#8), withCmd (live), _, _, started_rq _ 4 5 _ (by decide +kernel) ⟨_, rfl, by decide, by decide +kernel, by decide⟩, by decide +kernel⟩,
   by exact ⟨rq 4 5 (List.replicate 5 2#8), withCmd (live), _, _, started_rq _ 4 5 _ (by decide +kernel) ⟨_, rfl, by decide, by decide +kernel, by decide⟩, by decide +kernel⟩,
   by exact ⟨rq 4 5 (List.replicate 5 0#8), withCmd (live), _, _, .a, started_rq _ 4 5 _ (by decide +kernel) ⟨_, rfl, by decide, by decide +kernel, by decide⟩, by decide +kernel⟩,
   by exact ⟨rq 4 5 ([0#8, 1#8, 0#8, 0#8, 0#8, 0#8, 0#8]), withCmd (live), _, _, .a, started_rq _ 4 5 _ (by decide +kernel) ⟨_, rfl, by decide, by decide +kernel, by decide⟩, by decide +kernel⟩,
   by exact ⟨rq 4 5 [0#8, 1#8, 0#8, 0#8, 0#8], withCmd live, _, _, started_rq _ 4 5 _ (by decide +kernel) ⟨_, rfl, by decide, by decide +kernel, by decide⟩, by decide +kernel⟩,
   by exact ⟨rq 4 5 [0#8, 1#8, 0#8, 5#8, 0#8], withCmd (live), _, _, started_rq _ 4 5 _ (by decide +kernel) ⟨_, rfl, by decide, by decide +kernel, by decide⟩, by decide +kernel⟩,
   by exact ⟨rq 4 5 [0#8, 1#8, 0#8, 5#8, 0#8], withCmd (live.setF (F.RAKE_PAN_STATE_MODE 0) 1), _, _, started_rq _ 4 5 _ (by decide +kernel) ⟨_, rfl, by decide, by decide +kernel, by decide⟩, by decide +kernel⟩,
   by exact ⟨rq 4 5 [0#8, 1#8, 0#8, 5#8, 0#8], withCmd ((live.setF (F.RAKE_PAN_STATE_MODE 0) 1).modPan .a (fun x => { x with staged := [(5, [])] })), _, _, started_rq _ 4 5 _ (by decide +kernel) ⟨_, rfl, by decide, by decide +kernel, by decide⟩, by decide +kernel⟩,
   by exact ⟨rq 4 5 [0#8, 1#8, 0#8, 5#8, 0#8], withCmd ((((live.setF (F.RAKE_PAN_STATE_MODE 0) 1).modPan .a (fun x => { x with staged := [(5, [])] })).setF F.RING_HS_STAT_ROLE 2).setF F.RING_HS_STAT_PROLE 4), _, _, started_rq _ 4 5 _ (by decide +kernel) ⟨_, rfl, by decide, by decide +kernel, by decide⟩, by decide +kernel⟩,
   by exact ⟨.a, live.modHs (fun h => { h with edit := some ⟨⟨0, 0, 0⟩, 0, 0, true, 0, 0, [], []⟩ }), ⟨⟨0, 0, 0⟩, 0, 0, true, 0, 0, [], []⟩, by decide +kernel⟩,
   by exact ⟨.a, live, by decide +kernel⟩,
   by exact ⟨rqp ([]), withPeer (live), _, _, started_rqp _ 11 5 _ (by decide +kernel) ⟨_, rfl, by decide⟩, by decide +kernel⟩,
   by exact ⟨rqp (List.replicate 4 0#8), withPeer (live), _, _, started_rqp _ 11 5 _ (by decide +kernel) ⟨_, rfl, by decide⟩, by decide +kernel⟩,
   by exact ⟨rqp ([0#8, 1#8, 0#8]), withPeer (live), _, _, started_rqp _ 11 5 _ (by decide +kernel) ⟨_, rfl, by decide⟩, by decide +kernel⟩,
   by exact ⟨rqp ([2#8, 1#8, 0#8, 5#8, 0#8]), withPeer (live), _, _, started_rqp _ 11 5 _ (by decide +kernel) ⟨_, rfl, by decide⟩, by decide +kernel⟩,
   by exact ⟨rqp ([0#8, 0#8, 0#8]), withPeer (live.setF F.RING_HS_STAT_ROLE 4), _, _, .a, [], started_rqp _ 11 5 _ (by decide +kernel) ⟨_, rfl, by decide⟩, by decide +kernel⟩,
   by exact ⟨rqp ([0#8, 0#8, 0#8]), withPeer (live), _, _, .a, [], started_rqp _ 11 5 _ (by decide +kernel) ⟨_, rfl, by decide⟩, by decide +kernel⟩,
   by exact ⟨rqp ([2#8]), withPeer (live), _, _, started_rqp _ 11 6 _ (by decide +kernel) ⟨_, rfl, by decide⟩, by decide +kernel⟩,
   by exact ⟨rqp ([0#8]), withPeer (live), _, _, .a, started_rqp _ 11 6 _ (by decide +kernel) ⟨_, rfl, by decide⟩, by decide +kernel⟩⟩

theorem witness_PowerParkingWakeAndThermalCommandsActAsTheTablesSay :
    (∃ t : State, t = { State.reset with rake := default, pwr := State.reset.pwr, rstReq := [], dbg := default }) ∧
    (∃ (s : State), (s.pwr.retry = false) ∧ (s.pwr.dead = false)) ∧
    (∃ (s : State), (s.pwr.retry = true ∨ s.pwr.dead = true)) ∧
    (∃ (s : State), (s.pwr.rail = 1)) ∧
    (∃ (s : State), (s.pwr.rail = 2)) ∧
    (∃ (s : State), (s.pwr.rail = 3)) ∧
    (∃ (s : State), (s.pwr.rail = 4)) ∧
    (∃ (s : State), (s.pwr.rail = 5)) ∧
    (∃ (s : State), (s.pwr.rail = 6)) ∧
    (∃ (s : State), (s.pwr.rail = 7)) ∧
    (∃ (s : State) (n : Nat), (s.pwr.rail ≠ 0) ∧ (s.pwr.retry = false) ∧ (s.pwr.dead = false) ∧ (n = s.pwr.fails + 1)) ∧
    (∃ (s : State), (s.pwr.rail = 0)) ∧
    (∃ (s : State), (s.pwr.retry = true)) ∧
    (∃ (s : State), (s.pwr.retry = false)) ∧
    (∃ (vcore : Bool) (s : State), (s.railsUp = true) ∧ (s.pwr.park = .run) ∧ (vcore = true)) ∧
    (∃ (vcore : Bool) (s : State), (s.railsUp = true) ∧ (s.pwr.park = .run) ∧ (vcore = false)) ∧
    (∃ (vcore : Bool) (s : State), (s.railsUp = false ∨ s.pwr.park ≠ .run)) ∧
    (∃ (who : Who) (value : Word) (s : State), (s.regOk who (A.SYSCTL_PD_OFF_L) = true)) ∧
    (pdIsland 29 = none ∧ pdIsland 19 = some 0) ∧
    (∃ (d : Fin 34) (good : Bool) (s : State), (bit s.pwr.pdWait d = true) ∧ (good = false)) ∧
    (∃ (d : Fin 34) (good : Bool) (s : State), (bit s.pwr.pdWait d = false)) ∧
    (∃ s : State, bit s.pwr.pdWait 19 = true ∧ s.pwr.bring ≠ none) ∧
    (∃ s : State, bit s.pwr.pdWait 19 = true ∧ s.pwr.bring = none ∧ pdIsland 19 = some 0) ∧
    (∃ s : State, bit s.pwr.pdWait 20 = true ∧ s.pwr.bring = none ∧ pdIsland 20 = some 1) ∧
    (∃ s : State, bit s.pwr.pdWait 25 = true ∧ s.pwr.bring = none ∧ pdIsland 25 = some 7) ∧
    (∃ s : State, bit s.pwr.pdWait 29 = true ∧ s.pwr.bring = none ∧ pdIsland 29 = none) ∧
    (∃ (who : Who) (s : State), (s.regOk who (A.SYSCTL_PARK_CMD) = true)) ∧
    (∃ s : State, s.pwr.park = .run ∧ (List.range 8).find? (fun k => decide (0 < k) && !s.parkOk k) = some 6) ∧
    (∃ s : State, s.pwr.park = .run ∧ ∀ k, 1 ≤ k → k < 8 → s.parkOk k = true) ∧
    (∃ (s : State), (s.pwr.park = .run ∨ s.pwr.park = .parked)) ∧
    (∃ (s : State), (s.pwr.park = .arm ∨ s.pwr.park = .flush ∨ s.pwr.park = .loads) ∧ (s.pwr.woken = true)) ∧
    (∃ (s : State), (s.pwr.park = .arm) ∧ (s.pwr.woken = false)) ∧
    (∃ (s : State), (s.pwr.park = .flush) ∧ (s.pwr.woken = false) ∧ (s.crust.queue = []) ∧ (s.crust.erasing = [])) ∧
    (∃ (s : State), (s.pwr.park = .loads) ∧ (s.pwr.woken = false)) ∧
    (∃ (s : State), (s.pwr.park = .logic)) ∧
    (∃ (s : State), (s.pwr.park = .rails) ∧ (s.pwr.woken = false)) ∧
    (∃ (s : State), (s.pwr.park = .rails) ∧ (s.pwr.woken = true)) ∧
    (∃ (s : State), (s.pwr.park ≠ .flush)) ∧
    (∃ (s : State), (s.pwr.park = .flush) ∧ (s.pwr.woken = true)) ∧
    (∃ (s : State), (s.pwr.park = .flush) ∧ (s.pwr.woken = false)) ∧
    (∃ (src : Fin 7) (detail : Fin 64) (can : Fin 5) (s : State), (s.pwr.park = .run ∨ s.wakeArmed src detail = false)) ∧
    (∃ (src : Fin 7) (detail : Fin 64) (can : Fin 5) (s : State), (s.pwr.park ≠ .run) ∧ (s.wakeArmed src detail = true) ∧ (src.val = 4)) ∧
    (∃ (src : Fin 7) (detail : Fin 64) (can : Fin 5) (s : State), (s.pwr.park ≠ .run) ∧ (s.wakeArmed src detail = true) ∧ (src.val = 5)) ∧
    (∃ (src : Fin 7) (detail : Fin 64) (can : Fin 5) (s : State), (s.pwr.park ≠ .run) ∧ (s.wakeArmed src detail = true) ∧ (src.val = 6)) ∧
    (∃ (src : Fin 7) (detail : Fin 64) (can : Fin 5) (s : State), (s.pwr.park ≠ .run) ∧ (s.wakeArmed src detail = true) ∧ (1 ≤ src.val ∧ src.val ≤ 3)) ∧
    (∃ (k : Fin 4) (s : State), (s.flag (F.SYSCTL_WAKE_CFG_EN k) = false)) ∧
    (∃ (k : Fin 4) (s : State), (s.flag (F.SYSCTL_WAKE_CFG_EN k) = true) ∧ (s.islandUp 6 = false)) ∧
    (∃ (k : Fin 4) (s : State), (s.flag (F.SYSCTL_WAKE_CFG_EN k) = true) ∧ (s.islandUp 6 = true)) ∧
    (∃ (n : Fin 64) (level : Bool) (s : State), (s.pwr.park = .run ∨ s.flag (F.DIO_N_CFG_WAKE n) = false)) ∧
    (∃ (n : Fin 64) (level : Bool) (s : State) (base : Bool) (k : Nat), (s.pwr.park ≠ .run) ∧ (s.flag (F.DIO_N_CFG_WAKE n) = true) ∧ (tblGet s.pwr.dio n = (base, k)) ∧ (level ≠ base ∧ bit (s.f (F.DIO_N_CFG_EDGE n)) (if level = true then 0 else 1) = true) ∧ (1 ≤ k)) ∧
    (∃ (n : Fin 64) (level : Bool) (s : State) (base : Bool) (k : Nat), (s.pwr.park ≠ .run) ∧ (s.flag (F.DIO_N_CFG_WAKE n) = true) ∧ (tblGet s.pwr.dio n = (base, k)) ∧ (level ≠ base ∧ bit (s.f (F.DIO_N_CFG_EDGE n)) (if level = true then 0 else 1) = true) ∧ (k = 0)) ∧
    (∃ (n : Fin 64) (level : Bool) (s : State) (base : Bool) (k : Nat), (s.pwr.park ≠ .run) ∧ (s.flag (F.DIO_N_CFG_WAKE n) = true) ∧ (tblGet s.pwr.dio n = (base, k)) ∧ (¬(level ≠ base ∧ bit (s.f (F.DIO_N_CFG_EDGE n)) (if level = true then 0 else 1) = true))) ∧
    (∃ (k : Fin 2) (s : State), (s.almOpen k = false ∨ s.almDue k = false)) ∧
    (∃ (k : Fin 2) (s : State), (s.almOpen k = true) ∧ (s.almDue k = true)) ∧
    (∃ (k : Fin 2) (s : State), (s.almOpen k = true) ∧ (s.almIsLate k = true)) ∧
    (∃ (k : Fin 2) (s : State), (s.almOpen k = false ∨ s.almIsLate k = false)) ∧
    (live.pwr.rtcDead = false ∧ live.flag (F.SYSCTL_ALM_CTRL_POLICY 0) = false ∧ (live.setF (F.SYSCTL_ALM_CTRL_POLICY 0) 1).flag (F.SYSCTL_ALM_CTRL_POLICY 0) = true) ∧
    (∃ (who : Who) (k : Fin 2) (value : Word) (s : State), (s.regOk who (A.SYSCTL_ALM_CTRL k) = true) ∧ (bit value.toNat 0 = false)) ∧
    (live.regOk (.core .steward 1) (A.SYSCTL_ALM_CTRL 0) = true ∧ bit (1#32).toNat 0 = true) ∧
    (∃ (s : State), (s.flag F.SYSCTL_PWR_STAT_PFW = true)) ∧
    (∃ (s : State), (s.flag F.SYSCTL_PWR_STAT_PFW = false)) ∧
    (∃ (s : State), (s.flag F.SYSCTL_PWR_STAT_PFW = false)) ∧
    (∃ s : State, s.flag F.SYSCTL_PWR_STAT_PFW = true) ∧
    (∃ (s : State), (s.pwr.park ≠ .parked)) ∧
    (∃ (s : State), (s.pwr.park = .parked)) ∧
    (∃ t : State, t = live.setF F.MEAS_TEMP_LOGIC 5) :=
  ⟨by exact ⟨_, rfl⟩,
   by exact ⟨live, by decide +kernel⟩,
   by exact ⟨live.modPwr (fun p => { p with dead := true }), by decide +kernel⟩,
   by exact ⟨live.modPwr (fun p => { p with rail := 1 }), by decide +kernel⟩,
   by exact ⟨live.modPwr (fun p => { p with rail := 2 }), by decide +kernel⟩,
   by exact ⟨live.modPwr (fun p => { p with rail := 3 }), by decide +kernel⟩,
   by exact ⟨live.modPwr (fun p => { p with rail := 4 }), by decide +kernel⟩,
   by exact ⟨live.modPwr (fun p => { p with rail := 5 }), by decide +kernel⟩,
   by exact ⟨live.modPwr (fun p => { p with rail := 6 }), by decide +kernel⟩,
   by exact ⟨live.modPwr (fun p => { p with rail := 7 }), by decide +kernel⟩,
   by exact ⟨live, 1, by decide +kernel⟩,
   by exact ⟨live.modPwr (fun p => { p with rail := 0 }), by decide +kernel⟩,
   by exact ⟨live.modPwr (fun p => { p with retry := true }), by decide +kernel⟩,
   by exact ⟨live, by decide +kernel⟩,
   by exact ⟨true, live.modPwr (fun p => { p with rail := 0 }), by decide +kernel⟩,
   by exact ⟨false, live.modPwr (fun p => { p with rail := 0 }), by decide +kernel⟩,
   by exact ⟨false, live, by decide +kernel⟩,
   by exact ⟨.core .steward 1, 0, live, by decide +kernel⟩,
   by decide,
   by exact ⟨19, false, live.modPwr (fun p => { p with pdWait := 2 ^ 19 + 2 ^ 25, bring := none }), by decide +kernel⟩,
   by exact ⟨19, false, live, by decide +kernel⟩,
   by exact ⟨live.modPwr (fun p => { p with pdWait := 2 ^ 19, bring := some default }), by decide +kernel⟩,
   by exact ⟨live.modPwr (fun p => { p with pdWait := 2 ^ 19 + 2 ^ 20, bring := none }), by decide +kernel⟩,
   by exact ⟨live.modPwr (fun p => { p with pdWait := 2 ^ 19 + 2 ^ 20, bring := none }), by decide +kernel⟩,
   by exact ⟨live.modPwr (fun p => { p with pdWait := 2 ^ 19 + 2 ^ 25, bring := none }), by decide +kernel⟩,
   by exact ⟨live.modPwr (fun p => { p with pdWait := 2 ^ 29, bring := none }), by decide +kernel⟩,
   by exact ⟨.core .steward 1, live, by decide +kernel⟩,
   by exact ⟨live.setF F.USBS_STAT_VBUS 1, by decide +kernel⟩,
   by exact ⟨live.setF F.USBS_STAT_VBUS 0, by decide +kernel, fun k a b => by rcases (show k = 1 ∨ k = 2 ∨ k = 3 ∨ k = 4 ∨ k = 5 ∨ k = 6 ∨ k = 7 by omega) with h | h | h | h | h | h | h <;> subst h <;> decide +kernel⟩,
   by exact ⟨live, by decide +kernel⟩,
   by exact ⟨live.modPwr (fun p => { p with park := .arm, woken := true }), by decide +kernel⟩,
   by exact ⟨live.modPwr (fun p => { p with park := .arm, woken := false }), by decide +kernel⟩,
   by exact ⟨live.modPwr (fun p => { p with park := .flush, woken := false }), by decide +kernel⟩,
   by exact ⟨live.modPwr (fun p => { p with park := .loads, woken := false }), by decide +kernel⟩,
   by exact ⟨live.modPwr (fun p => { p with park := .logic, woken := false }), by decide +kernel⟩,
   by exact ⟨live.modPwr (fun p => { p with park := .rails, woken := false }), by decide +kernel⟩,
   by exact ⟨live.modPwr (fun p => { p with park := .rails, woken := true }), by decide +kernel⟩,
   by exact ⟨live, by decide +kernel⟩,
   by exact ⟨live.modPwr (fun p => { p with park := .flush, woken := true }), by decide +kernel⟩,
   by exact ⟨live.modPwr (fun p => { p with park := .flush, woken := false }), by decide +kernel⟩,
   by exact ⟨1, 0, 0, live, by decide +kernel⟩,
   by exact ⟨4, 0, 0, live.modPwr (fun p => { p with park := .parked, woken := false }), by decide +kernel⟩,
   by exact ⟨5, 0, 0, live.modPwr (fun p => { p with park := .parked, woken := false }), by decide +kernel⟩,
   by exact ⟨6, 0, 0, live.modPwr (fun p => { p with park := .parked, woken := false }), by decide +kernel⟩,
   by exact ⟨2, 0, 0, (live.modPwr (fun p => { p with park := .parked, woken := false })).setF (F.SYSCTL_ALM_CTRL_EN 0) 1, by decide +kernel⟩,
   by exact ⟨0, live.setF (F.SYSCTL_WAKE_CFG_EN 0) 0, by decide +kernel⟩,
   by exact ⟨0, State.reset.setF (F.SYSCTL_WAKE_CFG_EN 0) 1, by decide +kernel⟩,
   by exact ⟨0, live.setF (F.SYSCTL_WAKE_CFG_EN 0) 1, by decide +kernel⟩,
   by exact ⟨0, true, live, by decide +kernel⟩,
   by exact ⟨0, true, (((live.modPwr (fun p => { p with park := .parked, woken := false })).setF (F.DIO_N_CFG_WAKE 0) 1).setF (F.DIO_N_CFG_EDGE 0) 3).modPwr (fun p => { p with dio := [(0, (false, 1))] }), false, 1, by decide +kernel⟩,
   by exact ⟨0, true, ((live.modPwr (fun p => { p with park := .parked, woken := false })).setF (F.DIO_N_CFG_WAKE 0) 1).setF (F.DIO_N_CFG_EDGE 0) 3, false, 0, by decide +kernel⟩,
   by exact ⟨0, false, ((live.modPwr (fun p => { p with park := .parked, woken := false })).setF (F.DIO_N_CFG_WAKE 0) 1).setF (F.DIO_N_CFG_EDGE 0) 3, false, 0, by decide +kernel⟩,
   by exact ⟨0, live, by decide +kernel⟩,
   by exact ⟨0, ((live.setF (F.SYSCTL_ALM_CTRL_EN 0) 1).setF F.SYSCTL_RTC_SEC_SEC 0), by decide +kernel⟩,
   by exact ⟨0, ((live.setF (F.SYSCTL_ALM_CTRL_EN 0) 1).setF F.SYSCTL_RTC_SEC_SEC 5), by decide +kernel⟩,
   by exact ⟨0, live, by decide +kernel⟩,
   by decide +kernel,
   by exact ⟨.core .steward 1, 0, 0, live, by decide +kernel⟩,
   by decide +kernel,
   by exact ⟨live.setF F.SYSCTL_PWR_STAT_PFW 1, by decide +kernel⟩,
   by exact ⟨live, by decide +kernel⟩,
   by exact ⟨live, by decide +kernel⟩,
   by exact ⟨live.setF F.SYSCTL_PWR_STAT_PFW 1, by decide +kernel⟩,
   by exact ⟨live, by decide +kernel⟩,
   by exact ⟨live.modPwr (fun p => { p with park := .parked, woken := false }), by decide +kernel⟩,
   by exact ⟨_, rfl⟩⟩

theorem witness_ClockResetWatchdogAndBootCommandsActAsTheTablesSay :
    (live.f F.SYSCTL_CLKSTAT_REFSRC ≠ 2 ∧ (live.modPwr (fun p => { p with bring := none })).pwr.bring = none) ∧
    ((live.modPwr (fun p => { p with bring := some 1 })).pwr.bring = some 1) ∧
    ((live.modPwr (fun p => { p with bring := some 1 })).pwr.bring = some 1) ∧
    (∃ (s : State), (s.f F.SYSCTL_CLKSTAT_REFSRC = 2)) ∧
    (∃ (good : Bool) (s : State), (good = true)) ∧
    (∃ (good : Bool) (s : State), (good = false)) ∧
    (∃ (s : State), (s.pwr.rtcDead = true) ∧ (s.pwr.park = .parked)) ∧
    (∃ (s : State), (s.pwr.rtcDead = false ∨ s.pwr.park ≠ .parked) ∧ (s.flag F.SYSCTL_RTC_CTRL_SYNC = true) ∧ (s.flag F.TIME_STAT_LOCKED = true)) ∧
    (∃ (s : State), (s.pwr.rtcDead = false ∨ s.pwr.park ≠ .parked) ∧ (s.flag F.SYSCTL_RTC_CTRL_SYNC = false ∨ s.flag F.TIME_STAT_LOCKED = false)) ∧
    (∃ (who : Who) (value : Word) (s : State), (s.regOk who (A.SYSCTL_RTC_SEC) = true)) ∧
    (∃ (who : Who) (k : Fin 3) (value : Word) (s : State), (s.regOk who (A.SYSCTL_WDT_KICK k) = true) ∧ (wdtOwn who k = false)) ∧
    (∃ (who : Who) (k : Fin 3) (value : Word) (s : State), (s.regOk who (A.SYSCTL_WDT_KICK k) = true) ∧ (wdtOwn who k = true) ∧ (value = 0xC35A#32)) ∧
    (∃ (who : Who) (k : Fin 3) (value : Word) (s : State), (s.regOk who (A.SYSCTL_WDT_KICK k) = true) ∧ (wdtOwn who k = true) ∧ (value ≠ 0xC35A#32)) ∧
    (∃ (k : Fin 3) (s : State), (s.wdtRuns k = true)) ∧
    (∃ (k : Fin 3) (s : State), (s.wdtRuns k = false)) ∧
    (∃ (k : Fin 3) (s : State), (s.wdtRuns k = true) ∧ (bit s.pwr.wdtHalf k = true)) ∧
    (∃ (k : Fin 3) (s : State), (s.wdtRuns k = false ∨ bit s.pwr.wdtHalf k = false)) ∧
    (∃ s : State, s.regOk (.core .panA 1) A.SYSCTL_SWRST = true ∧ whoSteward (.core .panA 1) = false) ∧
    (∃ (who : Who) (value : Word) (s : State), (s.regOk who (A.SYSCTL_SWRST) = true) ∧ (whoSteward who = true) ∧ (bits value.toNat 31 16 = 0x4B52 ∧ rstTarget (bits value.toNat 1 0) (bits value.toNat 6 4) = true)) ∧
    (∃ (who : Who) (value : Word) (s : State), (s.regOk who (A.SYSCTL_SWRST) = true) ∧ (whoSteward who = true) ∧ (¬(bits value.toNat 31 16 = 0x4B52 ∧ rstTarget (bits value.toNat 1 0) (bits value.toNat 6 4) = true))) ∧
    (∃ (s : State), (s.rstReq = [])) ∧
    (∃ s : State, s.rstReq ≠ [] ∧ (s.rstReq.map (fun r => s.effLvl r.1 ((r.2.getD 3) % 4))).foldl min 3 < 3) ∧
    (Config.fuseRstLvl 13 = none → ∃ s : State, s.rstReq ≠ [] ∧ (s.rstReq.map (fun r => s.effLvl r.1 ((r.2.getD 3) % 4))).foldl min 3 = 3 ∧ s.pwr.bring ≠ none) ∧
    (Config.fuseRstLvl 13 = none → ∃ s : State, s.rstReq ≠ [] ∧ (s.rstReq.map (fun r => s.effLvl r.1 ((r.2.getD 3) % 4))).foldl min 3 = 3 ∧ s.pwr.bring = none) ∧
    (∃ t : State, t = live ∧ (match t.pwr.bring with | some b => min b 2 | none => 2) = 0 ∧ (match (t.modPwr (fun p => { p with bring := none })).pwr.bring with | some b => min b 2 | none => 2) = 2) ∧
    ([15].contains 1 = false ∧ [15].contains 2 = false) ∧
    (∃ (straps : BitVec 6) (s : State), (s.bringMay = false ∨ s.pwr.bring = none)) ∧
    (∃ (straps : BitVec 6) (s : State), (s.bringMay = true) ∧ (s.pwr.bring = some 2)) ∧
    (∃ (straps : BitVec 6) (s : State), (s.bringMay = true) ∧ (s.pwr.bring = some 1)) ∧
    (∃ s : State, s.bringMay = true ∧ s.pwr.bring = some 0) ∧
    (∃ (u : State) (bad : Bool), live.clocksUp.optLoad = (u, bad)) ∧
    (∃ s t : State, t = s.setVersions.bankStart false ∧ t.runBank = some 0 ∧ t.schemaBad = some (2, 1)) ∧
    (∃ s : State, s.runBank = some 0 ∧ bit (2 ^ 31) 31 = true) ∧
    (∃ (i : Fin 5) (s : State), (tblFind s.pwr.l3 i.val = some false)) ∧
    (∃ (i : Fin 5) (s : State), (tblFind s.pwr.l3 i.val ≠ some false)) ∧
    (∃ (i : Fin 5) (s : State), (tblFind s.pwr.l3 i.val ≠ some true)) ∧
    (∃ s : State, tblFind s.pwr.l3 0 = some true ∧ ((s.modPwr (fun p => { p with l3 := tblErase p.l3 0 })).l3Release 0).pwr.bring ≠ none) ∧
    (∃ s : State, tblFind s.pwr.l3 0 = some true ∧ ((s.modPwr (fun p => { p with l3 := tblErase p.l3 0 })).l3Release 0).pwr.bring = none) ∧
    (∃ s : State, s.regOk (.core .steward 1) A.SYSCTL_OPT_CMD = true ∧ whoMachine (.core .steward 1) = false) ∧
    (∃ s : State, s.regOk (.core .steward 2) A.SYSCTL_OPT_CMD = true ∧ whoMachine (.core .steward 2) = true ∧ s.flag F.SYSCTL_OPT_CMD_BUSY = true) ∧
    (∃ s : State, s.regOk (.core .steward 2) A.SYSCTL_OPT_CMD = true ∧ whoMachine (.core .steward 2) = true ∧ s.flag F.SYSCTL_OPT_CMD_BUSY = false) ∧
    (∃ (good : Bool) (s : State), (s.flag F.SYSCTL_OPT_CMD_BUSY = false)) ∧
    ((live.setF F.SYSCTL_OPT_CMD_BUSY 1).flag F.SYSCTL_OPT_CMD_BUSY = true) ∧
    ((live.setF F.SYSCTL_OPT_CMD_BUSY 1).flag F.SYSCTL_OPT_CMD_BUSY = true) ∧
    (∃ (l : Fin 3) (s : State), (s.peerBoot = true) ∧ (s.linkSt l = 2)) ∧
    (∃ (l : Fin 3) (s : State), (s.peerBoot = false ∨ s.linkSt l ≠ 2)) ∧
    (∀ (hc : Config.bootService = true), ∃ (l : Fin 3) (s : State), Config.bootService = true ∧ s.linkSt l = 2 ∧ s.peerBoot = false ∧ s.upd.recov ≠ 1 ∧ ∀ i, i < 3 → (s.link i).boot = false) ∧
    (∃ (l : Fin 3) (s : State), ¬(Config.bootService = true ∧ s.linkSt l = 2 ∧ s.peerBoot = false ∧ s.upd.recov ≠ 1 ∧ ∀ i, i < 3 → (s.link i).boot = false)) ∧
    (∃ (s : State), (s.upd.apply = none)) ∧
    (∃ (s : State) (k : RKey), (s.upd.apply = some k) ∧ (s.upd.recov = 1)) ∧
    (∃ (s : State) (k : RKey), (s.upd.apply = some k) ∧ (s.upd.recov ≠ 1) ∧ (s.mustStop 0 = true)) ∧
    (∃ (s : State) (k : RKey), (s.upd.apply = some k) ∧ (s.upd.recov ≠ 1) ∧ (s.mustStop 0 = false)) ∧
    (∃ (s : State), (s.flag F.MEM_SCRUB_EN = true) ∧ (s.islandUp 3 = true)) ∧
    (∃ (s : State), (s.flag F.MEM_SCRUB_EN = false ∨ s.islandUp 3 = false)) :=
  ⟨by decide +kernel,
   by decide,
   by decide,
   by exact ⟨live.setF F.SYSCTL_CLKSTAT_REFSRC 2, by decide +kernel⟩,
   by exact ⟨true, live, by decide +kernel⟩,
   by exact ⟨false, live, by decide +kernel⟩,
   by exact ⟨live.modPwr (fun p => { p with rtcDead := true, park := .parked }), by decide +kernel⟩,
   by exact ⟨(live.setF F.SYSCTL_RTC_CTRL_SYNC 1).setF F.TIME_STAT_LOCKED 1, by decide +kernel⟩,
   by exact ⟨live, by decide +kernel⟩,
   by exact ⟨.core .steward 1, 0, live, by decide +kernel⟩,
   by exact ⟨.core .steward 1, 0, 0, live, by decide +kernel⟩,
   by exact ⟨.core .steward 1, 2, 0xC35A#32, live, by decide +kernel⟩,
   by exact ⟨.core .steward 1, 2, 1, live, by decide +kernel⟩,
   by exact ⟨0, (live.setF (F.SYSCTL_WDT_CFG_RUN 0) 1), by decide +kernel⟩,
   by exact ⟨0, live, by decide +kernel⟩,
   by exact ⟨0, (live.setF (F.SYSCTL_WDT_CFG_RUN 0) 1).modPwr (fun p => { p with wdtHalf := 1 }), by decide +kernel⟩,
   by exact ⟨0, live, by decide +kernel⟩,
   by exact ⟨live, by decide +kernel⟩,
   by exact ⟨.core .steward 1, 0x4B520002#32, live, by decide +kernel⟩,
   by exact ⟨.core .steward 1, 0x4B530002#32, live, by decide +kernel⟩,
   by exact ⟨live, by decide +kernel⟩,
   by refine ⟨live.reqReset 9 none, by decide +kernel, ?_⟩; show min 3 (min 1 _) < 3; omega,
   by intro hf; refine ⟨(live.modPwr (fun p => { p with bring := some 1 })).reqReset 13 (some 3), by decide +kernel, ?_, by decide +kernel⟩; show min 3 (State.effLvl _ 13 3) = 3; have e : fuseLvl 13 = 3 := (by simp [fuseLvl, hf, defaultLvl]); unfold State.effLvl; rw [e]; decide +kernel,
   by intro hf; refine ⟨(live.modPwr (fun p => { p with bring := none })).reqReset 13 (some 3), by decide +kernel, ?_, by decide +kernel⟩; show min 3 (State.effLvl _ 13 3) = 3; have e : fuseLvl 13 = 3 := (by simp [fuseLvl, hf, defaultLvl]); unfold State.effLvl; rw [e]; decide +kernel,
   by exact ⟨_, rfl, by decide +kernel⟩,
   by decide,
   by exact ⟨0, live, by decide +kernel⟩,
   by exact ⟨0, live.modPwr (fun p => { p with rail := 0, bring := some 2 }), by decide +kernel⟩,
   by exact ⟨0, live.modPwr (fun p => { p with rail := 0, bring := some 1 }), by decide +kernel⟩,
   by exact ⟨live.modPwr (fun p => { p with rail := 0, bring := some 0 }), by decide +kernel⟩,
   by exact ⟨_, _, rfl⟩,
   by exact ⟨{ live with crust := { live.crust with recs := [{ sec := 0, typ := 1, trial := false, bank := 0, key := 0, schema := 1, seq := 1, payload := [], good := true }] } }, _, rfl, by decide +kernel⟩,
   by exact ⟨live, by decide +kernel⟩,
   by exact ⟨0, live.modPwr (fun p => { p with l3 := [(0, false)] }), by decide +kernel⟩,
   by exact ⟨0, live, by decide +kernel⟩,
   by exact ⟨0, live, by decide +kernel⟩,
   by exact ⟨live.modPwr (fun p => { p with l3 := [(0, true)], bring := some 1 }), by decide +kernel⟩,
   by exact ⟨live.modPwr (fun p => { p with l3 := [(0, true)], bring := none }), by decide +kernel⟩,
   by exact ⟨live, by decide +kernel⟩,
   by exact ⟨live.setF F.SYSCTL_OPT_CMD_BUSY 1, by decide +kernel⟩,
   by exact ⟨live, by decide +kernel⟩,
   by exact ⟨true, live, by decide +kernel⟩,
   by decide +kernel,
   by decide +kernel,
   by exact ⟨0, (live.setF F.SYSCTL_BOOTSTAT_MODE 3).setF F.RING_STATUS_LINKS 2, by decide +kernel⟩,
   by exact ⟨0, live, by decide +kernel⟩,
   by exact fun hc => ⟨0, live.setF F.RING_STATUS_LINKS 2, hc, by decide +kernel, by decide +kernel, by decide +kernel, fun i hi => by match i, hi with | 0, _ => decide +kernel | 1, _ => decide +kernel | 2, _ => decide +kernel⟩,
   by exact ⟨0, live, fun h => absurd h.2.1 (by decide +kernel)⟩,
   by exact ⟨live, by decide +kernel⟩,
   by exact ⟨live.modUpd (fun u => { u with apply := some ⟨0, 0, 0⟩, recov := 1 }), ⟨0, 0, 0⟩, by decide +kernel⟩,
   by exact ⟨State.modUpd { live with cmd := { live.cmd with stopAsked := [0] } } (fun u => { u with apply := some ⟨0, 0, 0⟩ }), ⟨0, 0, 0⟩, by decide +kernel⟩,
   by exact ⟨live.modUpd (fun u => { u with apply := some ⟨0, 0, 0⟩ }), ⟨0, 0, 0⟩, by decide +kernel⟩,
   by exact ⟨live.setF F.MEM_SCRUB_EN 1, by decide +kernel⟩,
   by exact ⟨live.setF F.MEM_SCRUB_EN 0, by decide +kernel⟩⟩

theorem witness_SessionAndTokenCommandsActAsTheTablesSay :
    (∃ (r : Req) (s : State) (x : Option Sess) (s1 : State), Started s r 1 1 x s1 ∧ (r.payload.length = 0)) ∧
    (∃ (r : Req) (s : State) (x : Option Sess) (s1 : State), Started s r 1 2 x s1 ∧ (r.payload.length = 0)) ∧
    (∃ (r : Req) (s : State) (x : Option Sess) (s1 : State), Started s r 1 3 x s1 ∧ (r.payload.length = 8)) ∧
    (∃ (r : Req) (s : State) (x : Option Sess) (s1 : State), Started s r 1 4 x s1 ∧ (r.payload.length = 1) ∧ (2 < leVal r.payload)) ∧
    (∃ (r : Req) (s : State) (x : Option Sess) (s1 : State), Started s r 1 4 x s1 ∧ (r.payload.length = 1) ∧ (leVal r.payload ≤ 2) ∧ (s1.cmd.resetLvl = none)) ∧
    (∃ (r : Req) (s : State) (x : Option Sess) (s1 : State) (v : Nat), Started s r 1 4 x s1 ∧ (r.payload.length = 1) ∧ (leVal r.payload ≤ 2) ∧ (s1.cmd.resetLvl = some v)) ∧
    (∃ (r : Req) (s : State) (x : Option Sess) (s1 : State), Started s r 2 1 x s1 ∧ (r.payload.length = 2) ∧ (s1.locked r.tp.val = true)) ∧
    (∃ (r : Req) (s : State) (x : Option Sess) (s1 : State), Started s r 2 1 x s1 ∧ (r.payload.length = 2) ∧ (s1.locked r.tp.val = false) ∧ (4 < leAt r.payload 0 1)) ∧
    (∃ (r : Req) (s : State) (x : Option Sess) (s1 : State), Started s r 2 1 x s1 ∧ r.payload.length = 2 ∧ s1.locked r.tp.val = false ∧ leAt r.payload 0 1 = 4 ∧ r.tp.val ≠ 3) ∧
    (∃ (r : Req) (s : State) (x : Option Sess) (s1 : State), Started s r 2 1 x s1 ∧ (r.payload.length = 2) ∧ (s1.locked r.tp.val = false) ∧ (leAt r.payload 0 1 ≤ 4) ∧ (leAt r.payload 0 1 ≠ 4 ∨ r.tp.val = 3) ∧ (s1.classKey (leAt r.payload 1 1) (leAt r.payload 0 1) = none)) ∧
    (∃ (r : Req) (s : State) (x : Option Sess) (s1 : State) (q : List Byte), Started s r 2 1 x s1 ∧ (r.payload.length = 2) ∧ (s1.locked r.tp.val = false) ∧ (leAt r.payload 0 1 ≤ 4) ∧ (leAt r.payload 0 1 ≠ 4 ∨ r.tp.val = 3) ∧ (s1.classKey (leAt r.payload 1 1) (leAt r.payload 0 1) = some q) ∧ (s1.flag F.ENCL_STAT_TRNG = false)) ∧
    (∃ (r : Req) (s : State) (x : Option Sess) (s1 : State), Started s r 2 1 x s1 ∧ r.payload.length = 2 ∧ s1.locked r.tp.val = false ∧ leAt r.payload 0 1 = 1 ∧ s1.classKey 0 1 = some [1#8] ∧ s1.flag F.ENCL_STAT_TRNG = true) ∧
    (∃ (r : Req) (s : State) (x : Option Sess) (s1 : State), Started s r 2 2 x s1 ∧ r.payload.length = 32 ∧ s1.cmd.nonces.find? (fun (x : Nonce) => x.tp == r.tp.val && x.ep == r.ep) = none) ∧
    (∃ (r : Req) (s : State) (x : Option Sess) (s1 : State), Started s r 2 2 x s1 ∧ r.payload.length = 32 ∧ s1.cmd.nonces.find? (fun (x : Nonce) => x.tp == r.tp.val && x.ep == r.ep) = some ⟨3, 0, 1, 0, [], 0⟩ ∧ s1.classKey 0 1 = none) ∧
    (∃ (r : Req) (s : State) (x : Option Sess) (s1 : State) (n : Nonce), s1.cmd.nonces.find? (fun (x : Nonce) => x.tp == r.tp.val && x.ep == r.ep) = some n ∧ Started s r 2 2 x s1 ∧ r.payload.length = 32 ∧ s1.classKey n.slot n.cls = some [1#8] ∧ s1.now < n.at_ + 10000000000 ∧ Config.cmac [1#8] (n.bytes ++ r.payload.take 16 ++ leBytes 1 n.cls ++ leBytes 1 r.tp.val) = r.payload.drop 16) ∧
    (∃ (r : Req) (s : State) (x : Option Sess) (s1 : State), Started s r 2 2 x s1 ∧ r.payload.length = 32 ∧ s1.cmd.nonces.find? (fun (x : Nonce) => x.tp == r.tp.val && x.ep == r.ep) = some ⟨3, 0, 1, 0, [], 0⟩ ∧ s1.classKey 0 1 = some [1#8] ∧ ¬(s1.now < 10000000000)) ∧
    (∃ s : State, 16 ≤ s.cmd.sess.length) ∧
    (live.cmd.sess.length < 16) ∧
    (∃ (r : Req) (s : State) (x : Option Sess) (s1 : State) (y : Sess), Started s r 2 3 x s1 ∧ (r.payload.length = 0) ∧ (x = some y)) ∧
    (∃ (r : Req) (s : State) (x : Option Sess) (s1 : State) (y : Sess), Started s r 2 4 x s1 ∧ (r.payload.length = 3) ∧ (x = some y) ∧ (5 < leAt r.payload 0 1)) ∧
    (∃ (r : Req) (s : State) (x : Option Sess) (s1 : State) (y : Sess), Started s r 2 4 x s1 ∧ (r.payload.length = 3) ∧ (x = some y) ∧ (leAt r.payload 0 1 ≤ 5) ∧ (leAt r.payload 1 2 < 1 ∨ 3600 < leAt r.payload 1 2)) ∧
    (∃ (r : Req) (s : State) (x : Option Sess) (s1 : State) (t : Token), Started s r 2 4 x s1 ∧ r.payload.length = 3 ∧ x = some sess1 ∧ leAt r.payload 0 1 = 0 ∧ leAt r.payload 1 2 = 1 ∧ s1.maintBlock 0 = some t) ∧
    (∃ (r : Req) (s : State) (x : Option Sess) (s1 : State) (t : Token), Started s r 2 4 x s1 ∧ r.payload.length = 3 ∧ x = some sess1 ∧ leAt r.payload 0 1 = 4 ∧ leAt r.payload 1 2 = 1 ∧ s1.maintBlock 4 = none ∧ s1.cmd.tokens.find? (fun (t : Token) => t.tp != 7 && t.sess == 1) = some t) ∧
    (∃ (r : Req) (s : State) (x : Option Sess) (s1 : State), Started s r 2 4 x s1 ∧ r.payload.length = 3 ∧ x = some sess1 ∧ leAt r.payload 0 1 = 4 ∧ leAt r.payload 1 2 = 1 ∧ s1.maintBlock 4 = none ∧ s1.cmd.tokens.find? (fun (t : Token) => t.tp != 7 && t.sess == 1) = none) ∧
    (∃ (r : Req) (s : State) (x : Option Sess) (s1 : State) (y : Sess), Started s r 2 5 x s1 ∧ (r.payload.length = 0) ∧ (x = some y)) ∧
    (∃ (r : Req) (s : State) (s1 : State), Started s r 2 5 none s1 ∧ r.payload.length = 0) ∧
    (∃ (tp : Fin 6) (bytes : List Byte) (s : State), (s.tpOn tp.val = false)) ∧
    (∃ (tp : Fin 6) (bytes : List Byte) (s : State) (e : PktBad), (s.tpOn tp.val = true) ∧ (pktCheck bytes = some e)) ∧
    (∃ b, pktCheck b = none ∧ (withCmd live).tpOn 3 = true) ∧
    (∃ (tp : Fin 6) (bytes : List Byte) (s : State), s.tpOn tp.val = true ∧ pktCheck bytes = none ∧ (parsePkt bytes).type = 0 ∧ (parsePkt bytes).addr ≠ 0 ∧ (parsePkt bytes).addr ≠ s.ownAddr ∧ s.fits tp.val (parsePkt bytes) = false) ∧
    (∃ (tp : Fin 6) (bytes : List Byte) (s : State), s.tpOn tp.val = true ∧ pktCheck bytes = none ∧ (parsePkt bytes).type = 0 ∧ (parsePkt bytes).addr ≠ 0 ∧ (parsePkt bytes).addr ≠ s.ownAddr ∧ s.fits tp.val (parsePkt bytes) = true) ∧
    (∃ (tp : Fin 6) (bytes : List Byte) (s : State), ¬(s.tpOn tp.val = true ∧ pktCheck bytes = none ∧ (parsePkt bytes).type = 0 ∧ (parsePkt bytes).addr ≠ 0 ∧ (parsePkt bytes).addr ≠ s.ownAddr)) ∧
    (∃ (k : ReqKey) (s : State), (s.cmd.fwd.find? (fun (w : Fwd) => w.tp == k.tp.val && w.ep == k.ep && w.seq == k.seq.toNat && !w.acc) = none)) ∧
    (∃ (k : ReqKey) (s : State) (w : Fwd), s.cmd.fwd.find? (fun (w : Fwd) => w.tp == k.tp.val && w.ep == k.ep && w.seq == k.seq.toNat && !w.acc) = some w) ∧
    (∃ (k : ReqKey) (stat : BitVec 8) (payload : List Byte) (s : State) (o : Outst), (s.findOutst (keyOf k) = some o) ∧ (o.accepted = true)) ∧
    (∃ (k : ReqKey) (stat : BitVec 8) (payload : List Byte) (s : State) (o : Outst), (s.findOutst (keyOf k) = some o) ∧ (o.accepted = false)) ∧
    (∃ (k : ReqKey) (stat : BitVec 8) (payload : List Byte) (s : State), (s.findOutst (keyOf k) = none)) ∧
    (∃ (sess : BitVec 16) (s : State) (y : Sess), (s.findSess sess.toNat = some y)) ∧
    (∃ (sess : BitVec 16) (s : State), (s.findSess sess.toNat = none)) ∧
    (∃ (cls : Fin 6) (s : State) (t : Token), (s.cmd.tokens.find? (fun (t : Token) => t.cls == cls.val && t.tp != 7) = some t)) ∧
    (∃ (cls : Fin 6) (s : State), (s.cmd.tokens.find? (fun (t : Token) => t.cls == cls.val && t.tp != 7) = none)) ∧
    (∃ (s : State) (l : Nat), (s.cmd.resetLvl = some l)) ∧
    (∃ (s : State), (s.cmd.resetLvl = none)) :=
  ⟨by exact ⟨rq 1 1 ([]), withCmd (live), _, _, started_rq _ 1 1 _ (by decide +kernel) ⟨_, rfl, by decide, by decide +kernel, by decide⟩, by decide +kernel⟩,
   by exact ⟨rq 1 2 ([]), withCmd (live), _, _, started_rq _ 1 2 _ (by decide +kernel) ⟨_, rfl, by decide, by decide +kernel, by decide⟩, by decide +kernel⟩,
   by exact ⟨rq 1 3 (List.replicate 8 1#8), withCmd (live), _, _, started_rq _ 1 3 _ (by decide +kernel) ⟨_, rfl, by decide, by decide +kernel, by decide⟩, by decide +kernel⟩,
   by exact ⟨rq 1 4 ([3#8]), withCmd (live), _, _, started_rq _ 1 4 _ (by decide +kernel) ⟨_, rfl, by decide, by decide +kernel, by decide⟩, by decide +kernel⟩,
   by exact ⟨rq 1 4 ([2#8]), withCmd (live), _, _, started_rq _ 1 4 _ (by decide +kernel) ⟨_, rfl, by decide, by decide +kernel, by decide⟩, by decide +kernel⟩,
   by exact ⟨rq 1 4 ([2#8]), withCmd ({ live with cmd := { live.cmd with resetLvl := some 1 } }), _, _, 1, started_rq _ 1 4 _ (by decide +kernel) ⟨_, rfl, by decide, by decide +kernel, by decide⟩, by decide +kernel⟩,
   by exact ⟨rq 2 1 ([0#8, 0#8]), withCmd ({ live with cmd := { live.cmd with lockUntil := [(3, 5000000000)] } }), _, _, started_rq _ 2 1 _ (by decide +kernel) ⟨_, rfl, by decide, by decide +kernel, by decide⟩, by decide +kernel⟩,
   by exact ⟨rq 2 1 ([5#8, 0#8]), withCmd (live), _, _, started_rq _ 2 1 _ (by decide +kernel) ⟨_, rfl, by decide, by decide +kernel, by decide⟩, by decide +kernel⟩,
   by exact ⟨⟨0, 0, 0#12, 5#12, 7#16, 0#16, none, [4#8, 0#8]⟩, withCmd live, none, _, ⟨by decide +kernel, .inl rfl, by decide, by decide +kernel, ⟨_, rfl, by decide +kernel⟩, by decide +kernel, by decide +kernel, rfl⟩, by decide +kernel⟩,
   by exact ⟨rq 2 1 ([1#8, 0#8]), withCmd (live), _, _, started_rq _ 2 1 _ (by decide +kernel) ⟨_, rfl, by decide, by decide +kernel, by decide⟩, by decide +kernel⟩,
   by exact ⟨rq 2 1 ([1#8, 0#8]), withCmd (State.setF ({ live with encl := { live.encl with slots := [(0, ⟨[1#8], 0, 64, 1⟩)] } }) F.ENCL_STAT_TRNG 0), _, _, [1#8], started_rq _ 2 1 _ (by decide +kernel) ⟨_, rfl, by decide, by decide +kernel, by decide⟩, by decide +kernel⟩,
   by exact ⟨rq 2 1 [1#8, 0#8], withCmd (State.setF ({ live with encl := { live.encl with slots := [(0, ⟨[1#8], 0, 64, 1⟩)] } }) F.ENCL_STAT_TRNG 1), _, _, started_rq _ 2 1 _ (by decide +kernel) ⟨_, rfl, by decide, by decide +kernel, by decide⟩, by decide +kernel⟩,
   by exact ⟨rq 2 2 (List.replicate 32 0#8), withCmd (live), _, _, started_rq _ 2 2 _ (by decide +kernel) ⟨_, rfl, by decide, by decide +kernel, by decide⟩, by decide +kernel⟩,
   by exact ⟨rq 2 2 (List.replicate 32 0#8), withCmd ({ live with cmd := { live.cmd with nonces := [⟨3, 0, 1, 0, [], 0⟩] } }), _, _, started_rq _ 2 2 _ (by decide +kernel) ⟨_, rfl, by decide, by decide +kernel, by decide⟩, by decide +kernel⟩,
   by exact ⟨rq 2 2 (List.replicate 16 0#8 ++ Config.cmac [1#8] (List.replicate 16 0#8 ++ leBytes 1 1 ++ leBytes 1 3)), withCmd ({ live with cmd := { live.cmd with nonces := [⟨3, 0, 1, 0, [], 0⟩] }, encl := { live.encl with slots := [(0, ⟨[1#8], 0, 64, 1⟩)] } }), _, _, ⟨3, 0, 1, 0, [], 0⟩, by decide +kernel, started_rq _ 2 2 _ (by decide +kernel) ⟨_, rfl, by decide, by decide +kernel, by decide⟩, by simp [rq, rq0, Config.cmac], by decide +kernel, by decide +kernel, rfl⟩,
   by exact ⟨rq 2 2 (List.replicate 32 0#8), withCmd ({ { live with now := 20000000000, cmd := { live.cmd with nonces := [], tokens := [] } } with cmd := { live.cmd with nonces := [⟨3, 0, 1, 0, [], 0⟩] }, encl := { live.encl with slots := [(0, ⟨[1#8], 0, 64, 1⟩)] } }), _, _, started_rq _ 2 2 _ (by decide +kernel) ⟨_, rfl, by decide, by decide +kernel, by decide⟩, by decide +kernel⟩,
   by exact ⟨{ live with cmd := { live.cmd with sess := List.replicate 16 sess1 } }, by decide⟩,
   by decide,
   by exact ⟨rq 2 3 ([]), withCmd (live), _, _, sess1, started_rq _ 2 3 _ (by decide +kernel) ⟨_, rfl, by decide, by decide +kernel, by decide⟩, by decide +kernel⟩,
   by exact ⟨rq 2 4 ([6#8, 1#8, 0#8]), withCmd (live), _, _, sess1, started_rq _ 2 4 _ (by decide +kernel) ⟨_, rfl, by decide, by decide +kernel, by decide⟩, by decide +kernel⟩,
   by exact ⟨rq 2 4 ([0#8, 0#8, 0#8]), withCmd (live), _, _, sess1, started_rq _ 2 4 _ (by decide +kernel) ⟨_, rfl, by decide, by decide +kernel, by decide⟩, by decide +kernel⟩,
   by exact ⟨rq 2 4 [0#8, 1#8, 0#8], withCmd live, _, _, ⟨0, 3, 0, 1, 1000000000000⟩, started_rq _ 2 4 _ (by decide +kernel) ⟨_, rfl, by decide, by decide +kernel, by decide⟩, by decide +kernel⟩,
   by exact ⟨rq 2 4 [4#8, 1#8, 0#8], (withCmd live |> fun s => { s with cmd := { s.cmd with tokens := [⟨0, 3, 0, 1, 9⟩] } }), _, _, ⟨0, 3, 0, 1, 9⟩, started_rq _ 2 4 _ (by decide +kernel) ⟨_, rfl, by decide, by decide +kernel, by decide⟩, by decide +kernel⟩,
   by exact ⟨rq 2 4 [4#8, 1#8, 0#8], (withCmd live |> fun s => { s with cmd := { s.cmd with tokens := [] } }), _, _, started_rq _ 2 4 _ (by decide +kernel) ⟨_, rfl, by decide, by decide +kernel, by decide⟩, by decide +kernel⟩,
   by exact ⟨rq 2 5 ([]), withCmd (live), _, _, sess1, started_rq _ 2 5 _ (by decide +kernel) ⟨_, rfl, by decide, by decide +kernel, by decide⟩, by decide +kernel⟩,
   by exact ⟨⟨0, 0, 0#12, 5#12, 7#16, 0#16, none, []⟩, withCmd live, _, ⟨by decide +kernel, .inl rfl, by decide, by decide +kernel, ⟨_, rfl, by decide +kernel⟩, by decide +kernel, by decide +kernel, rfl⟩, rfl⟩,
   by exact ⟨3, [], live, by decide +kernel⟩,
   by exact ⟨3, [], withCmd live, .len, by decide +kernel⟩,
   by exact ⟨(reqPkt { rq0 [] with tag := none } 1 1).bytes, by decide +kernel⟩,
   by exact ⟨1, (reqPkt { rq0 (List.replicate 1453 0#8) with dst := 9#12, tag := none } 1 1).bytes, withCmd live, by decide +kernel⟩,
   by exact ⟨3, (reqPkt { rq0 [] with dst := 9#12, tag := none } 1 1).bytes, withCmd live, by decide +kernel⟩,
   by exact ⟨3, [], live, fun h => absurd h.1 (by decide +kernel)⟩,
   by exact ⟨⟨0, 0, 0⟩, live, by decide +kernel⟩,
   by exact ⟨⟨0, 0, 0⟩, { live with cmd := { live.cmd with fwd := [default] } }, default, by decide +kernel⟩,
   by exact ⟨⟨0, 0, 0⟩, 0, [], { live with cmd := { live.cmd with outst := [{ (default : Outst) with accepted := true }] } }, { (default : Outst) with accepted := true }, by decide +kernel⟩,
   by exact ⟨⟨0, 0, 0⟩, 0, [], { live with cmd := { live.cmd with outst := [{ (default : Outst) with accepted := false }] } }, default, by decide +kernel⟩,
   by exact ⟨⟨0, 0, 0⟩, 0, [], live, by decide +kernel⟩,
   by exact ⟨1, withCmd live, sess1, by decide +kernel⟩,
   by exact ⟨1, live, by decide +kernel⟩,
   by exact ⟨0, withCmd live, ⟨0, 3, 0, 1, 1000000000000⟩, by decide +kernel⟩,
   by exact ⟨0, live, by decide +kernel⟩,
   by exact ⟨{ live with cmd := { live.cmd with resetLvl := some 1 } }, 1, by decide +kernel⟩,
   by exact ⟨live, by decide +kernel⟩⟩

theorem witness_EnclaveMailboxCommandsActAsTheTablesSay :
    (∃ (who : Who) (c : Fin 3) (n : BitVec 11) (s : State), (mbAllowed who c = true) ∧ (s.flag (F.MB_STAT_BUSY c) = false)) ∧
    (∃ (who : Who) (c : Fin 3) (n : BitVec 11) (s : State), (mbAllowed who c = false ∨ s.flag (F.MB_STAT_BUSY c) = true)) ∧
    (∃ (who : Who) (c : Fin 3) (slot : Fin 64) (auto : Bool) (n : BitVec 11) (s : State), (mbAllowed who c = true) ∧ (s.flag (F.MB_STAT_BUSY c) = false)) ∧
    (∃ (who : Who) (c : Fin 3) (slot : Fin 64) (auto : Bool) (n : BitVec 11) (s : State), (mbAllowed who c = false ∨ s.flag (F.MB_STAT_BUSY c) = true)) ∧
    (∃ (who : Who) (c : Fin 3) (slot : Fin 64) (n : BitVec 11) (s : State), (mbAllowed who c = true) ∧ (s.flag (F.MB_STAT_BUSY c) = false)) ∧
    (∃ (who : Who) (c : Fin 3) (slot : Fin 64) (n : BitVec 11) (s : State), (mbAllowed who c = false ∨ s.flag (F.MB_STAT_BUSY c) = true)) ∧
    (∃ (who : Who) (c : Fin 3) (slot : Fin 64) (auto : Bool) (n : BitVec 11) (s : State), (mbAllowed who c = true) ∧ (s.flag (F.MB_STAT_BUSY c) = false)) ∧
    (∃ (who : Who) (c : Fin 3) (slot : Fin 64) (auto : Bool) (n : BitVec 11) (s : State), (mbAllowed who c = false ∨ s.flag (F.MB_STAT_BUSY c) = true)) ∧
    (∃ (who : Who) (c : Fin 3) (slot : Fin 64) (n : BitVec 11) (s : State), (mbAllowed who c = true) ∧ (s.flag (F.MB_STAT_BUSY c) = false)) ∧
    (∃ (who : Who) (c : Fin 3) (slot : Fin 64) (n : BitVec 11) (s : State), (mbAllowed who c = false ∨ s.flag (F.MB_STAT_BUSY c) = true)) ∧
    (∃ (who : Who) (c : Fin 3) (slot : Fin 64) (n : BitVec 11) (s : State), (mbAllowed who c = true) ∧ (s.flag (F.MB_STAT_BUSY c) = false)) ∧
    (∃ (who : Who) (c : Fin 3) (slot : Fin 64) (n : BitVec 11) (s : State), (mbAllowed who c = false ∨ s.flag (F.MB_STAT_BUSY c) = true)) ∧
    (∃ (who : Who) (c : Fin 3) (slot : Fin 64) (n : BitVec 11) (s : State), (mbAllowed who c = true) ∧ (s.flag (F.MB_STAT_BUSY c) = false)) ∧
    (∃ (who : Who) (c : Fin 3) (slot : Fin 64) (n : BitVec 11) (s : State), (mbAllowed who c = false ∨ s.flag (F.MB_STAT_BUSY c) = true)) ∧
    (∃ (who : Who) (c : Fin 3) (slot : Fin 64) (n : BitVec 11) (s : State), (mbAllowed who c = true) ∧ (s.flag (F.MB_STAT_BUSY c) = false)) ∧
    (∃ (who : Who) (c : Fin 3) (slot : Fin 64) (n : BitVec 11) (s : State), (mbAllowed who c = false ∨ s.flag (F.MB_STAT_BUSY c) = true)) ∧
    (∃ (who : Who) (c : Fin 3) (n : BitVec 11) (s : State), (mbAllowed who c = true) ∧ (s.flag (F.MB_STAT_BUSY c) = false)) ∧
    (∃ (who : Who) (c : Fin 3) (n : BitVec 11) (s : State), (mbAllowed who c = false ∨ s.flag (F.MB_STAT_BUSY c) = true)) ∧
    (∃ (who : Who) (c : Fin 3) (slot : Fin 64) (n : BitVec 11) (s : State), (mbAllowed who c = true) ∧ (s.flag (F.MB_STAT_BUSY c) = false)) ∧
    (∃ (who : Who) (c : Fin 3) (slot : Fin 64) (n : BitVec 11) (s : State), (mbAllowed who c = false ∨ s.flag (F.MB_STAT_BUSY c) = true)) ∧
    (∃ (who : Who) (c : Fin 3) (slot : Fin 64) (n : BitVec 11) (s : State), (mbAllowed who c = true) ∧ (s.flag (F.MB_STAT_BUSY c) = false)) ∧
    (∃ (who : Who) (c : Fin 3) (slot : Fin 64) (n : BitVec 11) (s : State), (mbAllowed who c = false ∨ s.flag (F.MB_STAT_BUSY c) = true)) ∧
    (∃ (who : Who) (c : Fin 3) (n : BitVec 11) (s : State), (mbAllowed who c = true) ∧ (s.flag (F.MB_STAT_BUSY c) = false)) ∧
    (∃ (who : Who) (c : Fin 3) (n : BitVec 11) (s : State), (mbAllowed who c = false ∨ s.flag (F.MB_STAT_BUSY c) = true)) ∧
    (∃ (who : Who) (c : Fin 3) (n : BitVec 11) (s : State), (mbAllowed who c = true) ∧ (s.flag (F.MB_STAT_BUSY c) = false)) ∧
    (∃ (who : Who) (c : Fin 3) (n : BitVec 11) (s : State), (mbAllowed who c = false ∨ s.flag (F.MB_STAT_BUSY c) = true)) ∧
    (∃ (who : Who) (c : Fin 3) (n : BitVec 11) (s : State), (mbAllowed who c = true) ∧ (s.flag (F.MB_STAT_BUSY c) = false)) ∧
    (∃ (who : Who) (c : Fin 3) (n : BitVec 11) (s : State), (mbAllowed who c = false ∨ s.flag (F.MB_STAT_BUSY c) = true)) ∧
    (∃ (s : State) (i : Nat), (s.encl.running = none) ∧ (s.flag F.ENCL_STAT_READY = true) ∧ ((List.range 3).find? (fun i => (tblFind s.encl.ops ((s.encl.first + i) % 3)).isSome) = some i)) ∧
    (live.flag F.ENCL_STAT_READY = false) ∧
    (∃ (s : State), (s.encl.running = none)) ∧
    (∃ (s : State) (c : Nat) (o : MbOp) (q : EnclRes) (t : State) (u : State) (v : State), (s.encl.running = some c) ∧ (o = tblGet s.encl.ops c) ∧ (q = s.opRun c o) ∧ ((t = (if o.op = 2 ∨ o.op = 3 ∨ o.op = 4 then q.st.mbZero c else q.st))) ∧ ((u = ((if q.code = 0 then t.mbOut c q.res else t).setF (F.MB_STAT_CODE c) q.code).setF (F.MB_STAT_RLEN c) q.res.length)) ∧ ((v = (((if (o.auto && (o.op == 2 || o.op == 4)) = true then u.setF (F.MB_STAT_SLOT c) q.slot else u).setF (F.MB_STAT_BUSY c) 0).setF (F.MB_STAT_DONE c) 1).keyStored c o q))) ∧
    ((State.mbIn live 0 0).length = 0) ∧
    ((1 : Nat) ≤ 256 ∧ (256 : Nat) < 257 ∧ (live.setF F.ENCL_STAT_TRNG 0).flag F.ENCL_STAT_TRNG = false ∧ (live.setF F.ENCL_STAT_TRNG 1).flag F.ENCL_STAT_TRNG = true) ∧
    (live.slot 5 = none ∧ ((live.putSlot 5 ⟨[], 1, 0, 0⟩).slot 5).map (fun k => (bit k.usage 10, bit k.usage 11)) = some (false, false) ∧
    ((live.putSlot 5 ⟨[], 1, 0xC00, 0⟩).slot 5).map (fun k => (bit k.usage 10, bit k.usage 11)) = some (true, true)) ∧
    (live.slot 5 = none ∧ (∃ k, (live.putSlot 5 ⟨List.replicate 32 0#8, 1, 0x43F, 0⟩).slot 5 = some k ∧ bit k.usage 0 = true ∧ bit k.usage 10 = true ∧ bit k.usage 6 = false)) ∧
    ((∀ u ∈ [0, 1, 2, 3, 4, 5], live.useSlot true 5 u = .inr 3) ∧ (∀ u ∈ [0, 2, 3, 4], (live.putSlot 5 ⟨List.replicate 32 0#8, 1, 0x43F, 0⟩).useSlot true 5 u = .inl ⟨List.replicate 32 0#8, 1, 0x43F, 0⟩) ∧
    (14 ≤ 16 ∧ leAt (List.replicate 16 0#8) 12 2 ≤ 256 ∧ 14 + leAt (List.replicate 16 0#8) 12 2 ≤ 16 ∧ 16 - 14 - leAt (List.replicate 16 0#8) 12 2 ≤ 1024) ∧
    (((live.putSlot 5 ⟨List.replicate 32 0#8, 1, 0x43F, 0⟩).setF F.ENCL_STAT_TRNG 0).flag F.ENCL_STAT_TRNG = false ∧ ((live.putSlot 5 ⟨List.replicate 32 0#8, 1, 0x43F, 0⟩).setF F.ENCL_STAT_TRNG 1).useSlot true 5 3 = .inl ⟨List.replicate 32 0#8, 1, 0x43F, 0⟩ ∧ ((live.putSlot 5 ⟨List.replicate 32 0#8, 1, 0x43F, 0⟩).setF F.ENCL_STAT_TRNG 1).flag F.ENCL_STAT_TRNG = true)) ∧
    ((0 : Nat) < 1 ∧ (1024 : Nat) < 1025 ∧ (1 : Nat) ≤ 48 ∧ (48 : Nat) ≤ 1024 ∧ (48 : Nat) ≠ 32) :=
  ⟨by exact ⟨.core .steward 1, 0, 0, live, by decide +kernel⟩,
   by exact ⟨.core .panA 1, 0, 0, live, by decide +kernel⟩,
   by exact ⟨.core .steward 1, 0, 0, false, 0, live, by decide +kernel⟩,
   by exact ⟨.core .panA 1, 0, 0, false, 0, live, by decide +kernel⟩,
   by exact ⟨.core .steward 1, 0, 0, 0, live, by decide +kernel⟩,
   by exact ⟨.core .panA 1, 0, 0, 0, live, by decide +kernel⟩,
   by exact ⟨.core .steward 1, 0, 0, false, 0, live, by decide +kernel⟩,
   by exact ⟨.core .panA 1, 0, 0, false, 0, live, by decide +kernel⟩,
   by exact ⟨.core .steward 1, 0, 0, 0, live, by decide +kernel⟩,
   by exact ⟨.core .panA 1, 0, 0, 0, live, by decide +kernel⟩,
   by exact ⟨.core .steward 1, 0, 0, 0, live, by decide +kernel⟩,
   by exact ⟨.core .panA 1, 0, 0, 0, live, by decide +kernel⟩,
   by exact ⟨.core .steward 1, 0, 0, 0, live, by decide +kernel⟩,
   by exact ⟨.core .panA 1, 0, 0, 0, live, by decide +kernel⟩,
   by exact ⟨.core .steward 1, 0, 0, 0, live, by decide +kernel⟩,
   by exact ⟨.core .panA 1, 0, 0, 0, live, by decide +kernel⟩,
   by exact ⟨.core .steward 1, 0, 0, live, by decide +kernel⟩,
   by exact ⟨.core .panA 1, 0, 0, live, by decide +kernel⟩,
   by exact ⟨.core .steward 1, 0, 0, 0, live, by decide +kernel⟩,
   by exact ⟨.core .panA 1, 0, 0, 0, live, by decide +kernel⟩,
   by exact ⟨.core .steward 1, 0, 0, 0, live, by decide +kernel⟩,
   by exact ⟨.core .panA 1, 0, 0, 0, live, by decide +kernel⟩,
   by exact ⟨.core .steward 1, 0, 0, live, by decide +kernel⟩,
   by exact ⟨.core .panA 1, 0, 0, live, by decide +kernel⟩,
   by exact ⟨.core .steward 1, 0, 0, live, by decide +kernel⟩,
   by exact ⟨.core .panA 1, 0, 0, live, by decide +kernel⟩,
   by exact ⟨.core .steward 1, 0, 0, live, by decide +kernel⟩,
   by exact ⟨.core .panA 1, 0, 0, live, by decide +kernel⟩,
   by exact ⟨State.setF { live with encl := { live.encl with ops := [(0, default)] } } F.ENCL_STAT_READY 1, 0, by decide +kernel⟩,
   by decide +kernel,
   by exact ⟨live, by decide +kernel⟩,
   by exact ⟨{ live with encl := { live.encl with running := some 0, ops := [(0, ⟨0x0C, 0, false, 0, 0⟩)] } }, 0, _, _, _, _, _, rfl, rfl, rfl, rfl, rfl, rfl⟩,
   by decide +kernel,
   by decide +kernel,
   by decide +kernel,
   by exact ⟨by decide +kernel, ⟨List.replicate 32 0#8, 1, 0x43F, 0⟩, by decide +kernel⟩,
   by decide +kernel,
   by decide +kernel⟩

theorem witness_DebugPortAndBoundaryScanCommandsActAsTheTablesSay :
    (∃ (rnw : Bool) (addr : BitVec 8) (hpar : Bool) (data : Word) (dpar : Bool) (s : State), (s.islandUp 13 = false)) ∧
    (∃ (rnw : Bool) (addr : BitVec 8) (hpar : Bool) (data : Word) (dpar : Bool) (s : State), (s.islandUp 13 = true) ∧ ((parityOf 8 addr.toNat != rnw) ≠ hpar)) ∧
    (∃ (rnw : Bool) (addr : BitVec 8) (hpar : Bool) (data : Word) (dpar : Bool) (s : State) (t : State) (w : Word), (s.islandUp 13 = true) ∧ ((parityOf 8 addr.toNat != rnw) = hpar) ∧ (rnw = true) ∧ (s.portRead (4 * addr.toNat) = (t, some w))) ∧
    (∃ (rnw : Bool) (addr : BitVec 8) (hpar : Bool) (data : Word) (dpar : Bool) (s : State) (t : State), (s.islandUp 13 = true) ∧ ((parityOf 8 addr.toNat != rnw) = hpar) ∧ (rnw = true) ∧ (s.portRead (4 * addr.toNat) = (t, none))) ∧
    (∃ (rnw : Bool) (addr : BitVec 8) (hpar : Bool) (data : Word) (dpar : Bool) (s : State), (s.islandUp 13 = true) ∧ ((parityOf 8 addr.toNat != rnw) = hpar) ∧ (rnw = false) ∧ ((parityOf 32 data.toNat == dpar) = false)) ∧
    (∃ (rnw : Bool) (addr : BitVec 8) (hpar : Bool) (data : Word) (dpar : Bool) (s : State) (t : State), (s.islandUp 13 = true) ∧ ((parityOf 8 addr.toNat != rnw) = hpar) ∧ (rnw = false) ∧ ((parityOf 32 data.toNat == dpar) = true) ∧ ((4 * addr.toNat ≠ 0x14 ∨ s.dbgMay false 0x14 = false)) ∧ (s.portWrite (4 * addr.toNat) data = some t)) ∧
    (∃ (rnw : Bool) (addr : BitVec 8) (hpar : Bool) (data : Word) (dpar : Bool) (s : State), (s.islandUp 13 = true) ∧ ((parityOf 8 addr.toNat != rnw) = hpar) ∧ (rnw = false) ∧ ((parityOf 32 data.toNat == dpar) = true) ∧ (s.dbgMay false (4 * addr.toNat) = false)) ∧
    (∃ (rnw : Bool) (addr : BitVec 8) (hpar : Bool) (data : Word) (dpar : Bool) (s : State), (s.islandUp 13 = true) ∧ ((parityOf 8 addr.toNat != rnw) = hpar) ∧ (rnw = false) ∧ ((parityOf 32 data.toNat == dpar) = true) ∧ (4 * addr.toNat = 0x14) ∧ (s.dbgMay false 0x14 = true)) ∧
    (∃ (c : CoreId) (s : State), (s.islandUp 13 = false)) ∧
    (∃ (c : CoreId) (s : State), (s.islandUp 13 = true) ∧ (s.dbgMay false (0x100 + 0x80 * c.num) = true)) ∧
    (∃ (c : CoreId) (s : State), (s.islandUp 13 = true) ∧ (s.dbgMay false (0x100 + 0x80 * c.num) = false)) ∧
    (∃ (c : CoreId) (s : State), (s.islandUp 13 = false)) ∧
    (∃ (c : CoreId) (s : State), (s.islandUp 13 = true) ∧ (s.dbgMay false (0x100 + 0x80 * c.num) = true)) ∧
    (∃ (c : CoreId) (s : State), (s.islandUp 13 = true) ∧ (s.dbgMay false (0x100 + 0x80 * c.num) = false)) ∧
    (∃ (c : CoreId) (s : State), (s.islandUp 13 = false)) ∧
    (∃ (c : CoreId) (s : State), (s.islandUp 13 = true) ∧ (s.dbgMay false (0x100 + 0x80 * c.num) = true)) ∧
    (∃ (c : CoreId) (s : State), (s.islandUp 13 = true) ∧ (s.dbgMay false (0x100 + 0x80 * c.num) = false)) ∧
    (bit (4#32).toNat 0 = false ∧ bit (4#32).toNat 1 = false ∧ bit (4#32).toNat 2 = true) ∧
    ((demo.core .panA).run = .running ∧ (live.core .panA).run ≠ .running ∧ (live.core .panA).run ≠ .waiting ∧ (live.core .panA).run ≠ .halted ∧
    ((demo.setCore .panA { demo.core .panA with run := .halted }).core .panA).run = .halted) ∧
    (∃ s : State, (s.core .panA).run = .halted) ∧
    (∃ (s : State) (t : State), s.islandUp 13 = true ∧ s.dbgMay false 0x10C = true ∧ s.dbgWrite .panA 5#32 = some t) ∧
    (∃ (c : CoreId) (wr : Option Word) (s : State) (w : Word), (wr = some w) ∧ (s.islandUp 13 = true) ∧ (s.dbgMay false (0x10C + 0x80 * c.num) = false ∨ s.dbgWrite c w = none)) ∧
    (∃ (s : State) (t : State) (w : Word), s.islandUp 13 = true ∧ s.dbgMay true 0x10C = true ∧ s.dbgRead .panA = (t, some w)) ∧
    (∃ (c : CoreId) (wr : Option Word) (s : State) (t : State), (wr = none) ∧ (s.islandUp 13 = true) ∧ (s.dbgMay true (0x10C + 0x80 * c.num) = true) ∧ (s.dbgRead c = (t, none))) ∧
    (∃ (c : CoreId) (wr : Option Word) (s : State), (s.islandUp 13 = false)) ∧
    (((demo.setCore .panA { demo.core .panA with run := .halted }).setF F.DBG_STAT_SCOPE 15).f (F.DBG_CORE_RSEL_REG 0) < 32 ∧ (((demo.setCore .panA { demo.core .panA with run := .halted }).setF F.DBG_STAT_SCOPE 15).core .panA).run = .halted) ∧
    (∃ (wr : Option Word) (s : State), (s.islandUp 13 = false)) ∧
    (∃ (wr : Option Word) (s : State) (w : Word), (wr = some w) ∧ (s.islandUp 13 = true) ∧ (s.dbgMay false 0x14 = true)) ∧
    (∃ (wr : Option Word) (s : State), (wr = none) ∧ (s.islandUp 13 = true) ∧ (s.dbgMay true 0x14 = true)) ∧
    (∃ (wr : Option Word) (s : State), (s.islandUp 13 = true) ∧ (s.dbgMay (wr.isNone) 0x14 = false)) ∧
    (∃ v, (live.reg A.DBG_MEM_ADDR).toNat % 4 = 0 ∧ (live.busRead .debug 0 4).2 = .ok v) ∧
    (∃ (value : Word) (s : State), (s.islandUp 13 = true) ∧ (s.dbgMay false 0xC = true) ∧ (bits value.toNat 31 16 = 0x4B44 ∧ rstTarget (bits value.toNat 1 0) (bits value.toNat 4 2) = true)) ∧
    (∃ (value : Word) (s : State), (s.islandUp 13 = true) ∧ (s.dbgMay false 0xC = true) ∧ (¬(bits value.toNat 31 16 = 0x4B44 ∧ rstTarget (bits value.toNat 1 0) (bits value.toNat 4 2) = true))) ∧
    (∃ (value : Word) (s : State), (s.islandUp 13 = true) ∧ (s.dbgMay false 0xC = false)) ∧
    (∃ (value : Word) (s : State), (s.islandUp 13 = false)) ∧
    (∃ (who : Who) (value : Word) (s : State), (who ≠ .debug)) ∧
    (∃ q, regAt A.DBG_EVT = some q ∧ (live.setF F.DBG_STAT_SCOPE 15).dbgMay false 8 = true) ∧
    (∃ (who : Who) (value : Word) (s : State), (who = .debug) ∧ (s.islandUp 13 = true) ∧ (s.dbgMay false 8 = false)) ∧
    (∃ (s : State), (s.testHeld = true)) ∧
    (∃ (s : State), (s.testHeld = false)) ∧
    (∃ (s : State), (s.testHeld = true)) ∧
    (∃ (s : State), (s.testHeld = false)) ∧
    (∃ (s : State), (s.testHeld = true)) ∧
    (∃ (s : State), (s.testHeld = false)) :=
  ⟨by exact ⟨true, 0, false, 0, true, State.reset, by decide +kernel⟩,
   by exact ⟨true, 0, false, 0, true, live, by decide +kernel⟩,
   by exact ⟨true, 0, true, 0, true, live, live, ((live.portRead 0).2).get (by decide +kernel), by decide +kernel, by decide +kernel, by decide +kernel, Prod.ext rfl (Option.some_get _).symm⟩,
   by exact ⟨true, 2, false, 0, true, live, live, by decide +kernel⟩,
   by exact ⟨false, 2, true, 0, true, live, by decide +kernel⟩,
   by exact ⟨false, 3, false, 0, false, live.setF F.DBG_STAT_SCOPE 15, ((live.setF F.DBG_STAT_SCOPE 15).portWrite 12 0#32).get (by decide +kernel), by decide +kernel, by decide +kernel, by decide +kernel, by decide +kernel, by decide +kernel, (Option.some_get _).symm⟩,
   by exact ⟨false, 3, false, 0, false, live, by decide +kernel⟩,
   by exact ⟨false, 5, false, 0, false, live.setF F.DBG_STAT_SCOPE 15, by decide +kernel⟩,
   by exact ⟨.panA, State.reset, by decide +kernel⟩,
   by exact ⟨.panA, live.setF F.DBG_STAT_SCOPE 15, by decide +kernel⟩,
   by exact ⟨.panA, live, by decide +kernel⟩,
   by exact ⟨.panA, State.reset, by decide +kernel⟩,
   by exact ⟨.panA, live.setF F.DBG_STAT_SCOPE 15, by decide +kernel⟩,
   by exact ⟨.panA, live, by decide +kernel⟩,
   by exact ⟨.panA, State.reset, by decide +kernel⟩,
   by exact ⟨.panA, live.setF F.DBG_STAT_SCOPE 15, by decide +kernel⟩,
   by exact ⟨.panA, live, by decide +kernel⟩,
   by decide,
   by decide +kernel,
   by exact ⟨demo.setCore .panA { demo.core .panA with run := .halted }, by decide +kernel⟩,
   by exact ⟨((demo.setCore .panA { demo.core .panA with run := .halted }).setF F.DBG_STAT_SCOPE 15), (((demo.setCore .panA { demo.core .panA with run := .halted }).setF F.DBG_STAT_SCOPE 15).dbgWrite .panA 5#32).get (by decide +kernel), by decide +kernel, by decide +kernel, (Option.some_get _).symm⟩,
   by exact ⟨.panA, some 5, live, 5, by decide +kernel⟩,
   by exact ⟨((demo.setCore .panA { demo.core .panA with run := .halted }).setF F.DBG_STAT_SCOPE 15), (((demo.setCore .panA { demo.core .panA with run := .halted }).setF F.DBG_STAT_SCOPE 15).dbgRead .panA).1, ((((demo.setCore .panA { demo.core .panA with run := .halted }).setF F.DBG_STAT_SCOPE 15).dbgRead .panA).2).get (by decide +kernel), by decide +kernel, by decide +kernel, Prod.ext rfl (Option.some_get _).symm⟩,
   by exact ⟨.panA, none, live.setF F.DBG_STAT_SCOPE 15, live.setF F.DBG_STAT_SCOPE 15, by decide +kernel⟩,
   by exact ⟨.panA, none, State.reset, by decide +kernel⟩,
   by decide +kernel,
   by exact ⟨none, State.reset, by decide +kernel⟩,
   by exact ⟨some 1, live.setF F.DBG_STAT_SCOPE 15, 1, by decide +kernel⟩,
   by exact ⟨none, live.setF F.DBG_STAT_SCOPE 15, by decide +kernel⟩,
   by exact ⟨none, live, by decide +kernel⟩,
   by exact ⟨0, by decide +kernel⟩,
   by exact ⟨0x4B440002, live.setF F.DBG_STAT_SCOPE 15, by decide +kernel⟩,
   by exact ⟨2, live.setF F.DBG_STAT_SCOPE 15, by decide +kernel⟩,
   by exact ⟨2, live, by decide +kernel⟩,
   by exact ⟨2, State.reset, by decide +kernel⟩,
   by exact ⟨.core .steward 1, 1, live, by decide +kernel⟩,
   by exact ⟨(regAt A.DBG_EVT).get (by decide +kernel), by decide +kernel⟩,
   by exact ⟨.debug, 2, live, by decide +kernel⟩,
   by exact ⟨(live.setF F.SYSCTL_STRAP_TEST_EN 1).modPwr (fun p => { p with bring := some 0 }), by decide +kernel⟩,
   by exact ⟨live, by decide +kernel⟩,
   by exact ⟨(live.setF F.SYSCTL_STRAP_TEST_EN 1).modPwr (fun p => { p with bring := some 0 }), by decide +kernel⟩,
   by exact ⟨live, by decide +kernel⟩,
   by exact ⟨(live.setF F.SYSCTL_STRAP_TEST_EN 1).modPwr (fun p => { p with bring := some 0 }), by decide +kernel⟩,
   by exact ⟨live, by decide +kernel⟩⟩

theorem witness_EventFabricMmuAndDmaCommandsActAsTheTablesSay :
    (∃ (src : Fin 1536) (s : State), (sourceListed src = true) ∧ (src.val ∉ levelSources)) ∧
    (∃ (src : Fin 1536) (s : State), (sourceListed src = false ∨ src.val ∈ levelSources)) ∧
    (∃ (who : Who) (t : Fin 4) (s : State), (s.regOk who (A.EVT_TGT_ACK t) = true) ∧ (s.topEvent t = none)) ∧
    (∃ (who : Who) (t : Fin 4) (s : State) (p : Nat) (k : Nat), (s.regOk who (A.EVT_TGT_ACK t) = true) ∧ (s.topEvent t = some (p, k)) ∧ (k ∈ levelSources)) ∧
    (∃ (who : Who) (t : Fin 4) (s : State) (p : Nat) (k : Nat), (s.regOk who (A.EVT_TGT_ACK t) = true) ∧ (s.topEvent t = some (p, k)) ∧ (k ∉ levelSources)) ∧
    (∃ (who : Who) (t : Fin 4) (s : State) (p : Nat), (s.regOk who (A.EVT_TGT_EOI t) = true) ∧ (s.running t = some p)) ∧
    (∃ (who : Who) (t : Fin 4) (s : State), (s.regOk who (A.EVT_TGT_EOI t) = true) ∧ (s.running t = none)) ∧
    (∃ (who : Who) (idx : Fin 32) (s : State), (s.regOk who (A.EVT_SWTRIG) = true)) ∧
    (∃ (who : Who) (w : Fin 48) (value : Word) (s : State), (s.regOk who (A.EVT_PEND w) = true)) ∧
    (∃ s : State, (s.core .panA).run = .running ∧ (s.core .panA).lsTest = true) ∧
    ((demo.core .panA).run = .running ∧ (demo.core .panA).lsTest = false) ∧
    (∃ (p : PanId) (pc : Word) (unit : Fin 7) (s : State), ((s.core p.core).run ≠ .running) ∧ ((s.core p.core).run ≠ .waiting)) ∧
    ((demo.core .panA).locked < 64) ∧
    (∃ (who : Who) (ctx : Fin 64) (all : Bool) (s : State), (s.regOk who (A.IOMMU_INV) = true)) ∧
    (∃ (who : Who) (ch : Fin 64) (s : State), (s.regOk who (A.DMA_CH_CTRL ch) = true) ∧ (s.f (F.DMA_CH_STAT_STATE ch) = 0) ∧ (s.flag (F.DMA_CH_CFG_EN ch) = true)) ∧
    (∃ (who : Who) (ch : Fin 64) (s : State), (s.regOk who (A.DMA_CH_CTRL ch) = true) ∧ (s.f (F.DMA_CH_STAT_STATE ch) ≠ 0 ∨ s.flag (F.DMA_CH_CFG_EN ch) = false)) ∧
    (∃ (who : Who) (ch : Fin 64) (s : State), (s.regOk who (A.DMA_CH_CTRL ch) = true) ∧ (1 ≤ s.f (F.DMA_CH_STAT_STATE ch) ∧ s.f (F.DMA_CH_STAT_STATE ch) ≤ 3)) ∧
    (∃ (who : Who) (ch : Fin 64) (s : State), (s.regOk who (A.DMA_CH_CTRL ch) = true) ∧ (¬(1 ≤ s.f (F.DMA_CH_STAT_STATE ch) ∧ s.f (F.DMA_CH_STAT_STATE ch) ≤ 3))) ∧
    (∃ (who : Who) (ch : Fin 64) (s : State), (s.regOk who (A.DMA_CH_CTRL ch) = true) ∧ (s.f (F.DMA_CH_STAT_STATE ch) = 3)) ∧
    (∃ (who : Who) (ch : Fin 64) (s : State), (s.regOk who (A.DMA_CH_CTRL ch) = true) ∧ (s.f (F.DMA_CH_STAT_STATE ch) ≠ 3)) ∧
    (∃ (who : Who) (ch : Fin 64) (s : State), (s.regOk who (A.DMA_CH_STAT ch) = true) ∧ (s.f (F.DMA_CH_STAT_STATE ch) = 4)) ∧
    (∃ (who : Who) (ch : Fin 64) (s : State), (s.regOk who (A.DMA_CH_STAT ch) = true) ∧ (s.f (F.DMA_CH_STAT_STATE ch) ≠ 4)) ∧
    (∃ (ch : Fin 64) (s : State), (s.f (F.DMA_CH_CFG_REQ ch) ≠ 0xFF)) ∧
    (∃ (ch : Fin 64) (s : State), (s.f (F.DMA_CH_CFG_REQ ch) = 0xFF)) ∧
    (∃ (ch : Fin 64) (s : State), (s.f (F.DMA_CH_STAT_STATE ch) = 2) ∧ (s.f (F.DMA_CH_STAT_CAUSE ch) = 4)) ∧
    (∃ (ch : Fin 64) (s : State), (s.f (F.DMA_CH_STAT_STATE ch) ≠ 2 ∨ s.f (F.DMA_CH_STAT_CAUSE ch) ≠ 4)) ∧
    (∃ t : State, t = live.recCause 0 5) ∧
    (∃ t : State, t = live.raise 193) ∧
    (live.f (F.DMA_CH_CUR_VALUE 0) % 32 = 0 ∧ badDesc [] = true) ∧
    (∃ (s : State), (s.flag F.DMA_CTRL_EN = false ∨ s.dmaPick = none)) ∧
    (∃ s : State, s.flag F.DMA_CTRL_EN = true ∧ s.dmaPick = some 0 ∧ s.dma.active = none ∧ s.f (F.DMA_CH_STAT_STATE 0) = 1) ∧
    (∃ s : State, s.flag F.DMA_CTRL_EN = true ∧ s.dmaPick = some 0 ∧ s.dma.active = none) ∧
    (∃ (ch : Fin 64) (s : State), (¬(s.f (F.DMA_CH_STAT_STATE ch) = 1 ∧ (s.dch ch).burstOpen = true ∧ nBeats (s.chRec ch).len ≤ (s.dch ch).beat))) ∧
    (∃ s : State, s.f (F.DMA_CH_STAT_STATE 0) = 1 ∧ (s.dch 0).burstOpen = true ∧ nBeats (s.chRec 0).len ≤ (s.dch 0).beat ∧ 0 < s.f (F.DMA_CH_REM_VALUE 0) - (s.chRec 0).len) ∧
    (∃ s : State, s.f (F.DMA_CH_STAT_STATE 0) = 1 ∧ (s.dch 0).burstOpen = true ∧ nBeats (s.chRec 0).len ≤ (s.dch 0).beat ∧ s.f (F.DMA_CH_REM_VALUE 0) ≤ (s.chRec 0).len ∧ (s.dch 0).last = false) ∧
    (∃ s : State, s.f (F.DMA_CH_STAT_STATE 0) = 1 ∧ (s.dch 0).burstOpen = true ∧ nBeats (s.chRec 0).len ≤ (s.dch 0).beat ∧ s.f (F.DMA_CH_REM_VALUE 0) ≤ (s.chRec 0).len ∧ (s.dch 0).last = true) ∧
    (∃ (ch : Fin 64) (fault : BurstFault) (s : State), (¬(s.f (F.DMA_CH_STAT_STATE ch) = 1 ∧ (s.dch ch).burstOpen = true))) ∧
    (∃ s : State, s.f (F.DMA_CH_STAT_STATE 0) = 1 ∧ (s.dch 0).burstOpen = true) ∧
    (∃ s : State, s.f (F.DMA_CH_STAT_STATE 0) = 1 ∧ (s.dch 0).burstOpen = true) ∧
    (∃ s : State, s.f (F.DMA_CH_STAT_STATE 0) = 1 ∧ (s.dch 0).burstOpen = true) ∧
    (∃ s : State, s.f (F.DMA_CH_STAT_STATE 0) = 1 ∧ (s.dch 0).burstOpen = true) ∧
    (∃ (who : Who) (addr : Word) (value : Word) (s : State), (s.regOk who addr.toNat = false ∨ addr.toNat % 4 ≠ 0)) ∧
    (∃ (who : Who) (addr : Word) (value : Word) (s : State), (s.regOk who addr.toNat = true) ∧ (addr.toNat % 4 = 0) ∧ (addr.toNat < 0x40100000 ∨ 0x40200000 ≤ addr.toNat) ∧ (addr.toNat < 0x40028000 ∨ 0x40030000 ≤ addr.toNat) ∧ (regAt addr.toNat = none)) ∧
    (∃ (who : Who) (addr : Word) (value : Word) (s : State) (g : RegDef), (s.regOk who addr.toNat = true) ∧ (addr.toNat % 4 = 0) ∧ ((addr.toNat < 0x40100000 ∨ 0x40200000 ≤ addr.toNat)) ∧ ((addr.toNat < 0x40028000 ∨ 0x40030000 ≤ addr.toNat)) ∧ (regAt addr.toNat = some g) ∧ (s.wrBlock who addr.toNat value = none)) ∧
    (∃ (who : Who) (addr : Word) (value : Word) (s : State) (g : RegDef) (t : State), (s.regOk who addr.toNat = true) ∧ (addr.toNat % 4 = 0) ∧ ((addr.toNat < 0x40100000 ∨ 0x40200000 ≤ addr.toNat)) ∧ ((addr.toNat < 0x40028000 ∨ 0x40030000 ≤ addr.toNat)) ∧ (regAt addr.toNat = some g) ∧ (s.wrBlock who addr.toNat value = some t)) ∧
    (∃ w, (live.regRead (.core .steward 1) 0x40000000).2 = some w) ∧
    (∃ s : State, s.regRead (.core .panA 1) 0x40000F00 = (s, none) ∧ s.issues .panA = true) ∧
    (∃ (who : Who) (addr : Word) (s : State) (t : State), (s.regRead who addr.toNat = (t, none)) ∧ ((¬∃ c p, who = .core c p))) ∧
    (∃ (r : Req) (s : State) (x : Option Sess) (s1 : State), Started s r 3 1 x s1 ∧ (r.payload.length = 6) ∧ (leAt r.payload 4 2 = 0 ∨ 1024 < leAt r.payload 4 2)) ∧
    (∃ (r : Req) (s : State) (x : Option Sess) (s1 : State) (n : Nat), Started s r 3 1 x s1 ∧ (r.payload.length = 6) ∧ (n = leAt r.payload 4 2) ∧ (1 ≤ n) ∧ (n ≤ 1024) ∧ ((List.range n).all (fun i => s1.reqReg (leAt r.payload 0 4 + 4 * i)) = false)) ∧
    (∃ (r : Req) (s : State) (x : Option Sess) (s1 : State) (n : Nat), Started s r 3 1 x s1 ∧ (r.payload.length = 6) ∧ (n = leAt r.payload 4 2) ∧ (1 ≤ n) ∧ (n ≤ 1024) ∧ ((List.range n).all (fun i => s1.reqReg (leAt r.payload 0 4 + 4 * i)) = true)) ∧
    (∃ (r : Req) (s : State) (x : Option Sess) (s1 : State), Started s r 3 2 x s1 ∧ (r.payload.length = 12) ∧ (s1.reqReg (leAt r.payload 0 4) = false)) ∧
    (∃ (r : Req) (s : State) (x : Option Sess) (s1 : State) (a : Nat) (t : State) (old : Word) (u : State) (back : Word), (Started s r 3 2 x s1) ∧ (r.payload.length = 12) ∧ (a = leAt r.payload 0 4) ∧ (s1.reqReg a = true) ∧ (s1.regRead whoStew a = (t, some old)) ∧ (t.refusedAct whoStew a ((old &&& ~~~toW (leAt r.payload 4 4)) ||| (toW (leAt r.payload 8 4) &&& toW (leAt r.payload 4 4))) = none) ∧ ((t.regWrite whoStew a ((old &&& ~~~toW (leAt r.payload 4 4)) ||| (toW (leAt r.payload 8 4) &&& toW (leAt r.payload 4 4)))).regRead whoStew a = (u, some back))) ∧
    (∃ (r : Req) (s : State) (x : Option Sess) (s1 : State) (a : Nat) (t : State) (old : Word) (id : Nat), (Started s r 3 2 x s1) ∧ (r.payload.length = 12) ∧ (a = leAt r.payload 0 4) ∧ (s1.reqReg a = true) ∧ (s1.regRead whoStew a = (t, some old)) ∧ (t.refusedAct whoStew a ((old &&& ~~~toW (leAt r.payload 4 4)) ||| (toW (leAt r.payload 8 4) &&& toW (leAt r.payload 4 4))) = some id)) :=
  ⟨by exact ⟨128, live, by decide +kernel⟩,
   by exact ⟨0, live, by decide +kernel⟩,
   by exact ⟨.core .steward 1, 0, live, by decide +kernel⟩,
   by exact ⟨.core .steward 1, 0, ((live.setF F.SYSCTL_PWR_STAT_PFW 1).setF F.EVT_CTRL_EN 1).setReg (A.EVT_SRC_CFG 0) 0x185#32, 5, 0, by decide +kernel⟩,
   by exact ⟨.core .steward 1, 0, ((({ live with latch := [(128, 1)] } : State).setF F.EVT_CTRL_EN 1).setReg (A.EVT_SRC_CFG 128) 0x185#32), 5, 128, by decide +kernel⟩,
   by exact ⟨.core .steward 1, 0, live.setActiveMask 0 4, 2, by decide +kernel⟩,
   by exact ⟨.core .steward 1, 0, live, by decide +kernel⟩,
   by exact ⟨.core .steward 1, 0, live, by decide +kernel⟩,
   by exact ⟨.core .steward 1, 0, 0, live, by decide +kernel⟩,
   by exact ⟨demo.setCore .panA { demo.core .panA with lsTest := true }, by decide⟩,
   by decide,
   by exact ⟨.a, 0, 0, live, by decide +kernel⟩,
   by decide,
   by exact ⟨.core .steward 1, 0, true, live, by decide +kernel⟩,
   by exact ⟨.core .steward 1, 0, live.setF (F.DMA_CH_CFG_EN 0) 1, by decide +kernel⟩,
   by exact ⟨.core .steward 1, 0, live, by decide +kernel⟩,
   by exact ⟨.core .steward 1, 0, live.setF (F.DMA_CH_STAT_STATE 0) 1, by decide +kernel⟩,
   by exact ⟨.core .steward 1, 0, live, by decide +kernel⟩,
   by exact ⟨.core .steward 1, 0, live.setF (F.DMA_CH_STAT_STATE 0) 3, by decide +kernel⟩,
   by exact ⟨.core .steward 1, 0, live, by decide +kernel⟩,
   by exact ⟨.core .steward 1, 0, live.setF (F.DMA_CH_STAT_STATE 0) 4, by decide +kernel⟩,
   by exact ⟨.core .steward 1, 0, live, by decide +kernel⟩,
   by exact ⟨0, live.setF (F.DMA_CH_CFG_REQ 0) 1, by decide +kernel⟩,
   by exact ⟨0, live.setF (F.DMA_CH_CFG_REQ 0) 255, by decide +kernel⟩,
   by exact ⟨0, (live.setF (F.DMA_CH_STAT_STATE 0) 2).setF (F.DMA_CH_STAT_CAUSE 0) 4, by decide +kernel⟩,
   by exact ⟨0, live, by decide +kernel⟩,
   by exact ⟨_, rfl⟩,
   by exact ⟨_, rfl⟩,
   by decide +kernel,
   by exact ⟨live.setF F.DMA_CTRL_EN 0, by decide +kernel⟩,
   by exact ⟨(((State.modDch live 0 (fun x => { x with burstOpen := true, ready := true })).setF (F.DMA_CH_STAT_STATE 0) 1).modRec 0 (fun r => { r with len := 8 })).setF F.DMA_CTRL_EN 1, by decide +kernel⟩,
   by exact ⟨(((State.modDch live 0 (fun x => { x with burstOpen := true, ready := true })).setF (F.DMA_CH_STAT_STATE 0) 1).modRec 0 (fun r => { r with len := 8 })).setF F.DMA_CTRL_EN 1, by decide +kernel⟩,
   by exact ⟨0, live, by decide +kernel⟩,
   by exact ⟨(State.modDch live 0 (fun x => { x with burstOpen := true }) |>.setF (F.DMA_CH_STAT_STATE 0) 1).setF (F.DMA_CH_REM_VALUE 0) 9, by decide +kernel⟩,
   by exact ⟨State.modDch live 0 (fun x => { x with burstOpen := true }) |>.setF (F.DMA_CH_STAT_STATE 0) 1, by decide +kernel⟩,
   by exact ⟨State.modDch live 0 (fun x => { x with burstOpen := true, last := true }) |>.setF (F.DMA_CH_STAT_STATE 0) 1, by decide +kernel⟩,
   by exact ⟨0, .busError, live, by decide +kernel⟩,
   by exact ⟨State.modDch live 0 (fun x => { x with burstOpen := true }) |>.setF (F.DMA_CH_STAT_STATE 0) 1, by decide +kernel⟩,
   by exact ⟨State.modDch live 0 (fun x => { x with burstOpen := true }) |>.setF (F.DMA_CH_STAT_STATE 0) 1, by decide +kernel⟩,
   by exact ⟨State.modDch live 0 (fun x => { x with burstOpen := true }) |>.setF (F.DMA_CH_STAT_STATE 0) 1, by decide +kernel⟩,
   by exact ⟨State.modDch live 0 (fun x => { x with burstOpen := true }) |>.setF (F.DMA_CH_STAT_STATE 0) 1, by decide +kernel⟩,
   by exact ⟨.core .steward 1, 0x40020001, 0, live, by decide +kernel⟩,
   by exact ⟨.core .steward 1, 0x40000F00, 0, live, by decide +kernel⟩,
   by exact ⟨.core .steward 1, 0x40000208, 0, live, (regAt 0x40000208).get (by decide +kernel), by decide +kernel⟩,
   by exact ⟨.core .steward 1, 0x40000204, 0, live, (regAt 0x40000204).get (by decide +kernel), _, by decide +kernel, by decide +kernel, by decide +kernel, by decide +kernel, by decide +kernel, rfl⟩,
   by exact ⟨((live.regRead (.core .steward 1) 0x40000000).2).get (by decide +kernel), (Option.some_get _).symm⟩,
   by exact ⟨demo, by decide +kernel⟩,
   by exact ⟨.dma 3, 0x40000F00, live, live, by decide +kernel, nofun⟩,
   by exact ⟨rq 3 1 (List.replicate 6 0#8), withCmd (live), _, _, started_rq _ 3 1 _ (by decide +kernel) ⟨_, rfl, by decide, by decide +kernel, by decide⟩, by decide +kernel⟩,
   by exact ⟨rq 3 1 ([0#8, 0#8, 0#8, 0#8, 1#8, 0#8]), withCmd (live), _, _, 1, started_rq _ 3 1 _ (by decide +kernel) ⟨_, rfl, by decide, by decide +kernel, by decide⟩, by decide +kernel⟩,
   by exact ⟨rq 3 1 ([0#8, 0#8, 0#8, 0x40#8, 1#8, 0#8]), withCmd (live), _, _, 1, started_rq _ 3 1 _ (by decide +kernel) ⟨_, rfl, by decide, by decide +kernel, by decide⟩, by decide +kernel⟩,
   by exact ⟨rq 3 2 (List.replicate 12 0#8), withCmd (live), _, _, started_rq _ 3 2 _ (by decide +kernel) ⟨_, rfl, by decide, by decide +kernel, by decide⟩, by decide +kernel⟩,
   by exact ⟨rq 3 2 [8#8, 2#8, 0#8, 64#8, 255#8, 255#8, 255#8, 255#8, 5#8, 0#8, 0#8, 0#8], withCmd (live), _, _, 0x40000208, _, 0#32, _, 0#32, started_rq _ 3 2 _ (by decide +kernel) ⟨_, rfl, by decide, by decide +kernel, by decide⟩, by decide +kernel, by decide +kernel, by decide +kernel, Prod.ext rfl (by decide +kernel), by decide +kernel, Prod.ext rfl (by decide +kernel)⟩,
   by exact ⟨rq 3 2 [8#8, 1#8, 48#8, 64#8, 255#8, 255#8, 255#8, 255#8, 5#8, 0#8, 0#8, 0#8], withCmd (live.setOwner (resId 1 0) 1), _, _, 0x40300108, _, 0#32, resId 1 0, started_rq _ 3 2 _ (by decide +kernel) ⟨_, rfl, by decide, by decide +kernel, by decide⟩, by decide +kernel, by decide +kernel, by decide +kernel, Prod.ext rfl (by decide +kernel), by decide +kernel⟩⟩

theorem startCheck_of (t : State) (h : (t.panMode .a = 1 ∧ t.flag F.SYSCTL_RSTLAST_STORM = false ∧ t.flag F.RAKE_CTRL_EN = true ∧ (t.pan .a).map ≠ [] ∧
      tblFind (t.pan .a).blocks 0 = some [1#8] ∧ (t.pan .a).crcs = [] ∧ (t.pan .a).header = [1#8] ∧ t.flag F.RING_HS_CFG_EN = false))
    (hc : Config.progCrcs [1#8] = []) (hr : Config.progRetKib [1#8] = 0) :
    t.startCheck .a false = if t.timeOk t.pA.map t.pB.map .a then .go else .limit 0x0502 := by
  obtain ⟨a, b, c, d, e, f, g, i⟩ := h
  simp only [State.startCheck, PanSt.progOk, PanSt.crcList, e, f, g, i, hc, hr, a, b, c]
  have : (t.pan .a).map.isEmpty = false := by simpa using d
  simp [this]
  cases t.timeOk t.pA.map t.pB.map .a <;> rfl
/-- A block whose Pan A has a map and a program and is in STOP, with the period of `n` microseconds. -/
def stopA (n : Nat) : State :=
  (((live.setF (F.RAKE_PAN_STATE_MODE 0) 1).setF F.RAKE_CTRL_EN 1).setF (F.RAKE_PAN_CFG_PERIOD_US 0) n).modPan .a
    (fun x => { x with map := [0], blocks := [(0, [1#8])], code := [(0, [1#8])], crcs := [] })

theorem witness_RakeAndPanCommandsActAsTheTablesSay :
    (∃ (r : Req) (s : State) (x : Option Sess) (s1 : State), Started s r 4 2 x s1 ∧ (r.payload.length < 6)) ∧
    (∃ (r : Req) (s : State) (x : Option Sess) (s1 : State) (n : Nat), Started s r 4 2 x s1 ∧ (6 ≤ r.payload.length) ∧ (n = (r.payload.length - 6) / 8) ∧ (r.payload.length ≠ 6 + 8 * n ∨ 511 < n)) ∧
    (∃ (r : Req) (s : State) (x : Option Sess) (s1 : State) (n : Nat), Started s r 4 2 x s1 ∧ (r.payload.length = 6 + 8 * n) ∧ (n ≤ 511) ∧ (panOf (leAt r.payload 0 1) = none)) ∧
    (∃ (r : Req) (s : State) (x : Option Sess) (s1 : State) (n : Nat) (p : PanId), Started s r 4 2 x s1 ∧ (r.payload.length = 6 + 8 * n) ∧ (n ≤ 511) ∧ (panOf (leAt r.payload 0 1) = some p) ∧ (leAt r.payload 1 1 ≠ 0)) ∧
    (∃ (r : Req) (s : State) (x : Option Sess) (s1 : State) (n : Nat) (p : PanId), Started s r 4 2 x s1 ∧ (r.payload.length = 6 + 8 * n) ∧ (n ≤ 511) ∧ (panOf (leAt r.payload 0 1) = some p) ∧ (leAt r.payload 1 1 = 0) ∧ ((s1.panMode p ≠ 0 ∧ s1.panMode p ≠ 1) ∨ s1.hsPaired = true)) ∧
    (∃ (r : Req) (s : State) (x : Option Sess) (s1 : State) (n : Nat) (p : PanId), Started s r 4 2 x s1 ∧ (r.payload.length = 6 + 8 * n) ∧ (n ≤ 511) ∧ (panOf (leAt r.payload 0 1) = some p) ∧ (leAt r.payload 1 1 = 0) ∧ (¬((s1.panMode p ≠ 0 ∧ s1.panMode p ≠ 1) ∨ s1.hsPaired = true)) ∧ (leAt r.payload 2 2 ≠ (s1.pan p).part.length)) ∧
    (∃ (r : Req) (s : State) (x : Option Sess) (s1 : State) (n : Nat) (p : PanId), Started s r 4 2 x s1 ∧ (r.payload.length = 6 + 8 * n) ∧ (n ≤ 511) ∧ (panOf (leAt r.payload 0 1) = some p) ∧ (leAt r.payload 1 1 = 0) ∧ (¬((s1.panMode p ≠ 0 ∧ s1.panMode p ≠ 1) ∨ s1.hsPaired = true)) ∧ (leAt r.payload 2 2 = (s1.pan p).part.length) ∧ ((s1.pan p).partTotal ≠ none) ∧ ((s1.pan p).partTotal ≠ some (leAt r.payload 4 2))) ∧
    (∃ (r : Req) (s : State) (x : Option Sess) (s1 : State) (n : Nat) (p : PanId), Started s r 4 2 x s1 ∧ (r.payload.length = 6 + 8 * n) ∧ (n ≤ 511) ∧ (panOf (leAt r.payload 0 1) = some p) ∧ (leAt r.payload 1 1 = 0) ∧ (¬((s1.panMode p ≠ 0 ∧ s1.panMode p ≠ 1) ∨ s1.hsPaired = true)) ∧ (leAt r.payload 2 2 = (s1.pan p).part.length) ∧ ((s1.pan p).partTotal = none ∨ (s1.pan p).partTotal = some (leAt r.payload 4 2)) ∧ (leAt r.payload 4 2 < leAt r.payload 2 2 + n)) ∧
    (∃ (r : Req) (s : State) (x : Option Sess) (s1 : State) (n : Nat) (p : PanId) (l : List Nat), Started s r 4 2 x s1 ∧ (r.payload.length = 6 + 8 * n) ∧ (n ≤ 511) ∧ (panOf (leAt r.payload 0 1) = some p) ∧ (leAt r.payload 1 1 = 0) ∧ (¬((s1.panMode p ≠ 0 ∧ s1.panMode p ≠ 1) ∨ s1.hsPaired = true)) ∧ (leAt r.payload 2 2 = (s1.pan p).part.length) ∧ ((s1.pan p).partTotal = none ∨ (s1.pan p).partTotal = some (leAt r.payload 4 2)) ∧ (leAt r.payload 2 2 + n ≤ leAt r.payload 4 2) ∧ (l = (s1.pan p).part ++ (List.range n).map (fun i => leAt r.payload (6 + 8 * i) 8)) ∧ (l.length = leAt r.payload 4 2)) ∧
    (∃ (r : Req) (s : State) (x : Option Sess) (s1 : State) (n : Nat) (p : PanId) (l : List Nat), Started s r 4 2 x s1 ∧ (r.payload.length = 6 + 8 * n) ∧ (n ≤ 511) ∧ (panOf (leAt r.payload 0 1) = some p) ∧ (leAt r.payload 1 1 = 0) ∧ (¬((s1.panMode p ≠ 0 ∧ s1.panMode p ≠ 1) ∨ s1.hsPaired = true)) ∧ (leAt r.payload 2 2 = (s1.pan p).part.length) ∧ ((s1.pan p).partTotal = none ∨ (s1.pan p).partTotal = some (leAt r.payload 4 2)) ∧ (leAt r.payload 2 2 + n ≤ leAt r.payload 4 2) ∧ (l = (s1.pan p).part ++ (List.range n).map (fun i => leAt r.payload (6 + 8 * i) 8)) ∧ (l.length ≠ leAt r.payload 4 2)) ∧
    ((live.partDrop .a).mapCheck .a [] = .ok ∧ (live.partDrop .a).panBusy .b = false) ∧
    (∃ (r : Req) (s : State) (x : Option Sess) (s1 : State), Started s r 4 1 x s1 ∧ (r.payload.length < 7)) ∧
    (∃ (r : Req) (s : State) (x : Option Sess) (s1 : State), Started s r 4 1 x s1 ∧ (7 ≤ r.payload.length) ∧ (panOf (leAt r.payload 0 1) = none)) ∧
    (∃ (r : Req) (s : State) (x : Option Sess) (s1 : State) (p : PanId), Started s r 4 1 x s1 ∧ (7 ≤ r.payload.length) ∧ (panOf (leAt r.payload 0 1) = some p) ∧ (1023 < leAt r.payload 1 2)) ∧
    (∃ (r : Req) (s : State) (x : Option Sess) (s1 : State) (p : PanId), Started s r 4 1 x s1 ∧ (7 ≤ r.payload.length) ∧ (panOf (leAt r.payload 0 1) = some p) ∧ (leAt r.payload 1 2 ≤ 1023) ∧ ((s1.panMode p ≠ 0 ∧ s1.panMode p ≠ 1) ∨ s1.hsPaired = true)) ∧
    (∃ (r : Req) (s : State) (x : Option Sess) (s1 : State), Started s r 4 1 x s1 ∧ r.payload.length = 7 ∧ panOf (leAt r.payload 0 1) = some .a ∧ leAt r.payload 1 2 ≤ 1023 ∧ ¬((s1.panMode .a ≠ 0 ∧ s1.panMode .a ≠ 1) ∨ s1.hsPaired = true) ∧ 0x100000 < leAt r.payload 3 4) ∧
    (∃ (r : Req) (s : State) (x : Option Sess) (s1 : State), Started s r 4 1 x s1 ∧ r.payload.length = 7 ∧ panOf (leAt r.payload 0 1) = some .a ∧ leAt r.payload 1 2 ≤ 1023 ∧ ¬((s1.panMode .a ≠ 0 ∧ s1.panMode .a ≠ 1) ∨ s1.hsPaired = true) ∧ leAt r.payload 3 4 = 0) ∧
    (∃ (r : Req) (s : State) (x : Option Sess) (s1 : State), Started s r 4 3 x s1 ∧ (r.payload.length = 2) ∧ (panOf (leAt r.payload 0 1) = none)) ∧
    (∃ (r : Req) (s : State) (x : Option Sess) (s1 : State) (p : PanId), Started s r 4 3 x s1 ∧ (r.payload.length = 2) ∧ (panOf (leAt r.payload 0 1) = some p) ∧ (2 < leAt r.payload 1 1)) ∧
    (∃ (r : Req) (s : State) (x : Option Sess) (s1 : State) (p : PanId), Started s r 4 3 x s1 ∧ (r.payload.length = 2) ∧ (panOf (leAt r.payload 0 1) = some p) ∧ (leAt r.payload 1 1 = 0) ∧ (s1.panMode p = 3)) ∧
    (∃ (r : Req) (s : State) (x : Option Sess) (s1 : State) (p : PanId), Started s r 4 3 x s1 ∧ (r.payload.length = 2) ∧ (panOf (leAt r.payload 0 1) = some p) ∧ (leAt r.payload 1 1 = 0) ∧ (s1.panMode p = 4)) ∧
    (∃ (r : Req) (s : State) (x : Option Sess) (s1 : State) (p : PanId), Started s r 4 3 x s1 ∧ (r.payload.length = 2) ∧ (panOf (leAt r.payload 0 1) = some p) ∧ (leAt r.payload 1 1 = 0) ∧ (s1.panMode p ≠ 3) ∧ (s1.panMode p ≠ 4)) ∧
    (∃ (r : Req) (s : State) (x : Option Sess) (s1 : State) (p : PanId) (warm : Bool), Started s r 4 3 x s1 ∧ (r.payload.length = 2) ∧ (panOf (leAt r.payload 0 1) = some p) ∧ (1 ≤ leAt r.payload 1 1 ∧ leAt r.payload 1 1 ≤ 2) ∧ (warm = (leAt r.payload 1 1 == 1)) ∧ (s1.startCheck p warm = .wrong)) ∧
    (∃ (r : Req) (s : State) (x : Option Sess) (s1 : State) (p : PanId) (warm : Bool), Started s r 4 3 x s1 ∧ (r.payload.length = 2) ∧ (panOf (leAt r.payload 0 1) = some p) ∧ (1 ≤ leAt r.payload 1 1 ∧ leAt r.payload 1 1 ≤ 2) ∧ (warm = (leAt r.payload 1 1 == 1)) ∧ (s1.startCheck p warm = .state)) ∧
    (∃ (r : Req) (s : State) (x : Option Sess) (s1 : State) (p : PanId) (warm : Bool) (q : Nat), Started s r 4 3 x s1 ∧ (r.payload.length = 2) ∧ (panOf (leAt r.payload 0 1) = some p) ∧ (1 ≤ leAt r.payload 1 1 ∧ leAt r.payload 1 1 ≤ 2) ∧ (warm = (leAt r.payload 1 1 == 1)) ∧ (s1.startCheck p warm = .failed q)) ∧
    (∀ (_ : Config.progCrcs [1#8] = []) (_ : Config.progRetKib [1#8] = 0), ∃ (r : Req) (s : State) (x : Option Sess) (s1 : State), Started s r 4 3 x s1 ∧ r.payload.length = 2 ∧ panOf (leAt r.payload 0 1) = some .a ∧ leAt r.payload 1 1 = 2 ∧ s1.startCheck .a false = .limit 0x0502) ∧
    (∀ (_ : Config.progCrcs [1#8] = []) (_ : Config.progRetKib [1#8] = 0), ∃ (r : Req) (s : State) (x : Option Sess) (s1 : State), Started s r 4 3 x s1 ∧ r.payload.length = 2 ∧ panOf (leAt r.payload 0 1) = some .a ∧ leAt r.payload 1 1 = 2 ∧ s1.startCheck .a false = .go) ∧
    ((∃ t : State, t.panMode .a = 1 ∧ t.flag F.SYSCTL_RSTLAST_STORM = false ∧ t.flag F.RAKE_CTRL_EN = true ∧ (t.pan .a).map ≠ [] ∧ (t.pan .a).progOk = false) ∧ (live.pan .a).map = []) ∧
    (∃ (p : PanId) (s : State), (s.panMode p = 2)) ∧
    (∃ (p : PanId) (s : State), (s.panMode p ≠ 2)) ∧
    (∃ (p : PanId) (s : State), ((s.pan p).unstored = false)) ∧
    (((live.modPan .a (fun x => { x with unstored := true })).pan .a).unstored = true) ∧
    (∃ (p : PanId) (s : State), (¬(s.panMode p = 3 ∧ (s.pan p).logic = true ∧ (s.pan p).overran = false ∧ s.flag (F.RAKE_PAN_STATE_STANDBY p.num) = false))) ∧
    (∃ s : State, s.panMode .a = 3 ∧ (s.pan .a).logic = true ∧ (s.pan .a).overran = false ∧ s.flag (F.RAKE_PAN_STATE_STANDBY 0) = false ∧ s.f (F.RAKE_PAN_CFG_ACTION 0) = 2) ∧
    (∃ s : State, s.panMode .a = 3 ∧ (s.pan .a).logic = true ∧ (s.pan .a).overran = false ∧ s.flag (F.RAKE_PAN_STATE_STANDBY 0) = false ∧ s.f (F.RAKE_PAN_CFG_ACTION 0) ≠ 2 ∧ 1 ≤ s.f (F.RAKE_PAN_OVR_NCONS 0)) ∧
    (∃ (p : PanId) (s : State), (s.panMode p = 3 ∧ (s.pan p).logic = true ∧ (s.pan p).overran = true)) ∧
    (∃ (p : PanId) (s : State), (¬(s.panMode p = 3 ∧ (s.pan p).logic = true ∧ (s.pan p).overran = true))) ∧
    (∃ (who : Who) (p : PanId) (value : Word) (s : State) (pl : Fin 3), (s.regOk who (A.RAKE_PAN_DONE p.num) = true) ∧ (who = .core p.core pl) ∧ (value.toNat % 2 = 1)) ∧
    (∃ (who : Who) (p : PanId) (value : Word) (s : State) (pl : Fin 3), (s.regOk who (A.RAKE_PAN_DONE p.num) = true) ∧ (who = .core p.core pl) ∧ (value.toNat % 2 = 0)) ∧
    (∃ s : State, s.regOk (.core .steward 1) (A.RAKE_PAN_DONE 0) = true ∧ ∀ pl, (Who.core .steward 1) ≠ .core PanId.a.core pl) ∧
    (∃ (p : PanId) (s : State), ((s.pan p).strobe = false)) ∧
    (((live.modPan .a (fun x => { x with strobe := true })).pan .a).strobe = true) ∧
    (∃ (p : PanId) (s : State) (c : Ckpt), ((s.pan p).ckpt = some c)) ∧
    (∃ (p : PanId) (s : State), ((s.pan p).ckpt = none)) ∧
    (∃ (p : PanId) (s : State), ((s.pan p).pfw = 1)) ∧
    (∃ (p : PanId) (s : State), ((s.pan p).pfw ≠ 1)) ∧
    (∃ (s : State), (s.flag F.RAKE_PFW_ACTIVE = true ∧ ((s.pA.final ≠ none ∧ 2 ≤ s.pA.pfw) ∨ (s.pB.final ≠ none ∧ 2 ≤ s.pB.pfw)))) ∧
    (∃ (s : State), (¬(s.flag F.RAKE_PFW_ACTIVE = true ∧ ((s.pA.final ≠ none ∧ 2 ≤ s.pA.pfw) ∨ (s.pB.final ≠ none ∧ 2 ≤ s.pB.pfw))))) ∧
    (∃ (t : Fin 8) (s : State), (bit s.rtrig t = false)) ∧
    (∃ (t : Fin 8) (s : State) (u : State), (bit s.rtrig t = true) ∧ (u = { s with rtrig := putBit s.rtrig t false }) ∧ (u.flag F.RAKE_CTRL_EN = false ∨ u.flag (F.RAKE_TRIG_CFG_EN t) = false)) ∧
    (∃ s : State, bit s.rtrig 0 = true ∧ s.flag F.RAKE_CTRL_EN = true ∧ s.flag (F.RAKE_TRIG_CFG_EN 0) = true ∧ bit s.rake.trigBusy 0 = true) ∧
    (∃ s : State, bit s.rtrig 0 = true ∧ s.flag F.RAKE_CTRL_EN = true ∧ s.flag (F.RAKE_TRIG_CFG_EN 0) = true ∧ bit s.rake.trigBusy 0 = false) ∧
    (∃ (t : Fin 8) (s : State), (bit s.rake.trigBusy t = false)) ∧
    (∃ s : State, bit s.rake.trigBusy 0 = true) ∧
    (∃ (r : Req) (s : State) (x : Option Sess) (s1 : State), Started s r 4 6 x s1 ∧ (r.payload.length = 6) ∧ (panOf (leAt r.payload 0 1) = none)) ∧
    (∃ (r : Req) (s : State) (x : Option Sess) (s1 : State) (p : PanId), Started s r 4 6 x s1 ∧ (r.payload.length = 6) ∧ (panOf (leAt r.payload 0 1) = some p) ∧ (forceable (leAt r.payload 1 4) = false)) ∧
    (∃ (r : Req) (s : State) (x : Option Sess) (s1 : State) (p : PanId), Started s r 4 6 x s1 ∧ (r.payload.length = 6) ∧ (panOf (leAt r.payload 0 1) = some p) ∧ (forceable (leAt r.payload 1 4) = true) ∧ (1 < leAt r.payload 5 1)) ∧
    (∃ (r : Req) (s : State) (x : Option Sess) (s1 : State) (p : PanId), Started s r 4 6 x s1 ∧ (r.payload.length = 6) ∧ (panOf (leAt r.payload 0 1) = some p) ∧ (forceable (leAt r.payload 1 4) = true) ∧ (leAt r.payload 5 1 ≤ 1) ∧ ((s1.pan p).forces.any (fun x => x.1 == leAt r.payload 1 4) = false ∧ 256 ≤ (s1.pan p).forces.length)) ∧
    (∃ (r : Req) (s : State) (x : Option Sess) (s1 : State), Started s r 4 6 x s1 ∧ r.payload.length = 6 ∧ panOf (leAt r.payload 0 1) = some .a ∧ forceable (leAt r.payload 1 4) = true ∧ leAt r.payload 5 1 ≤ 1 ∧ (s1.pan .a).forces = [] ∧ leAt r.payload 1 4 < 0x20000 * 8) ∧
    (∃ (r : Req) (s : State) (x : Option Sess) (s1 : State), Started s r 4 6 x s1 ∧ r.payload.length = 6 ∧ panOf (leAt r.payload 0 1) = some .a ∧ forceable (leAt r.payload 1 4) = true ∧ leAt r.payload 5 1 ≤ 1 ∧ (s1.pan .a).forces = [] ∧ 0x20000 * 8 ≤ leAt r.payload 1 4) ∧
    (∃ (r : Req) (s : State) (x : Option Sess) (s1 : State), Started s r 4 7 x s1 ∧ (r.payload.length = 5) ∧ (panOf (leAt r.payload 0 1) = none)) ∧
    (∃ (r : Req) (s : State) (x : Option Sess) (s1 : State) (p : PanId), Started s r 4 7 x s1 ∧ (r.payload.length = 5) ∧ (panOf (leAt r.payload 0 1) = some p) ∧ (leAt r.payload 1 4 ≠ 0xFFFFFFFF) ∧ (forceable (leAt r.payload 1 4) = false)) ∧
    (∃ (r : Req) (s : State) (x : Option Sess) (s1 : State) (p : PanId), Started s r 4 7 x s1 ∧ (r.payload.length = 5) ∧ (panOf (leAt r.payload 0 1) = some p) ∧ (leAt r.payload 1 4 = 0xFFFFFFFF)) ∧
    (∃ (r : Req) (s : State) (x : Option Sess) (s1 : State) (p : PanId), Started s r 4 7 x s1 ∧ (r.payload.length = 5) ∧ (panOf (leAt r.payload 0 1) = some p) ∧ (leAt r.payload 1 4 ≠ 0xFFFFFFFF) ∧ (forceable (leAt r.payload 1 4) = true)) ∧
    (∃ (r : Req) (s : State) (x : Option Sess) (s1 : State), Started s r 4 8 x s1 ∧ (r.payload.length = 7) ∧ (panOf (leAt r.payload 0 1) = none)) ∧
    (∃ (r : Req) (s : State) (x : Option Sess) (s1 : State) (p : PanId), Started s r 4 8 x s1 ∧ (r.payload.length = 7) ∧ (panOf (leAt r.payload 0 1) = some p) ∧ (0x80000 ≤ leAt r.payload 1 4)) ∧
    (∃ (r : Req) (s : State) (x : Option Sess) (s1 : State) (p : PanId), Started s r 4 8 x s1 ∧ (r.payload.length = 7) ∧ (panOf (leAt r.payload 0 1) = some p) ∧ (leAt r.payload 1 4 < 0x80000) ∧ (leAt r.payload 5 2 < 1 ∨ 4096 < leAt r.payload 5 2 ∨ 0x80000 < leAt r.payload 1 4 + leAt r.payload 5 2)) ∧
    (∃ (r : Req) (s : State) (x : Option Sess) (s1 : State) (p : PanId), Started s r 4 8 x s1 ∧ (r.payload.length = 7) ∧ (panOf (leAt r.payload 0 1) = some p) ∧ (1 ≤ leAt r.payload 5 2) ∧ (leAt r.payload 5 2 ≤ 4096) ∧ (leAt r.payload 1 4 + leAt r.payload 5 2 ≤ 0x80000)) ∧
    (∃ (who : Who) (value : Word) (s : State), (s.regOk who (A.RAKE_CTRL) = true) ∧ (value.toNat % 2 = 0) ∧ (s.panBusy .a = true ∨ s.panBusy .b = true)) ∧
    (∃ (who : Who) (value : Word) (s : State), (s.regOk who (A.RAKE_CTRL) = true) ∧ (value.toNat % 2 = 1 ∨ (s.panBusy .a = false ∧ s.panBusy .b = false))) :=
  ⟨by exact ⟨rq 4 2 ([]), withCmd (live), _, _, started_rq _ 4 2 _ (by decide +kernel) ⟨_, rfl, by decide, by decide +kernel, by decide⟩, by decide +kernel⟩,
   by exact ⟨rq 4 2 (List.replicate 7 0#8), withCmd (live), _, _, 0, started_rq _ 4 2 _ (by decide +kernel) ⟨_, rfl, by decide, by decide +kernel, by decide⟩, by decide +kernel⟩,
   by exact ⟨rq 4 2 (List.replicate 6 2#8), withCmd (live), _, _, 0, started_rq _ 4 2 _ (by decide +kernel) ⟨_, rfl, by decide, by decide +kernel, by decide⟩, by decide +kernel⟩,
   by exact ⟨rq 4 2 (0#8 :: List.replicate 5 1#8), withCmd (live), _, _, 0, .a, started_rq _ 4 2 _ (by decide +kernel) ⟨_, rfl, by decide, by decide +kernel, by decide⟩, by decide +kernel⟩,
   by exact ⟨rq 4 2 (List.replicate 6 0#8), withCmd (live.setF (F.RAKE_PAN_STATE_MODE 0) 3), _, _, 0, .a, started_rq _ 4 2 _ (by decide +kernel) ⟨_, rfl, by decide, by decide +kernel, by decide⟩, by decide +kernel⟩,
   by exact ⟨rq 4 2 ([0#8, 0#8, 1#8, 0#8, 0#8, 0#8]), withCmd (live), _, _, 0, .a, started_rq _ 4 2 _ (by decide +kernel) ⟨_, rfl, by decide, by decide +kernel, by decide⟩, by decide +kernel⟩,
   by exact ⟨rq 4 2 ([0#8, 0#8, 0#8, 0#8, 0#8, 0#8]), withCmd (live.modPan .a (fun x => { x with partTotal := some 9 })), _, _, 0, .a, started_rq _ 4 2 _ (by decide +kernel) ⟨_, rfl, by decide, by decide +kernel, by decide⟩, by decide +kernel⟩,
   by exact ⟨rq 4 2 (List.replicate 14 0#8), withCmd (live), _, _, 1, .a, started_rq _ 4 2 _ (by decide +kernel) ⟨_, rfl, by decide, by decide +kernel, by decide⟩, by decide +kernel⟩,
   by exact ⟨rq 4 2 (List.replicate 6 0#8), withCmd (live), _, _, 0, .a, [], started_rq _ 4 2 _ (by decide +kernel) ⟨_, rfl, by decide, by decide +kernel, by decide⟩, by decide +kernel⟩,
   by exact ⟨rq 4 2 ([0#8, 0#8, 0#8, 0#8, 5#8, 0#8]), withCmd (live), _, _, 0, .a, [], started_rq _ 4 2 _ (by decide +kernel) ⟨_, rfl, by decide, by decide +kernel, by decide⟩, by decide +kernel⟩,
   by decide +kernel,
   by exact ⟨rq 4 1 ([]), withCmd (live), _, _, started_rq _ 4 1 _ (by decide +kernel) ⟨_, rfl, by decide, by decide +kernel, by decide⟩, by decide +kernel⟩,
   by exact ⟨rq 4 1 (List.replicate 9 2#8), withCmd (live), _, _, started_rq _ 4 1 _ (by decide +kernel) ⟨_, rfl, by decide, by decide +kernel, by decide⟩, by decide +kernel⟩,
   by exact ⟨rq 4 1 ([0#8, 0#8, 4#8, 0#8, 0#8, 0#8, 0#8]), withCmd (live), _, _, .a, started_rq _ 4 1 _ (by decide +kernel) ⟨_, rfl, by decide, by decide +kernel, by decide⟩, by decide +kernel⟩,
   by exact ⟨rq 4 1 (List.replicate 7 0#8), withCmd (live.setF (F.RAKE_PAN_STATE_MODE 0) 3), _, _, .a, started_rq _ 4 1 _ (by decide +kernel) ⟨_, rfl, by decide, by decide +kernel, by decide⟩, by decide +kernel⟩,
   by exact ⟨rq 4 1 [0#8, 0#8, 0#8, 1#8, 0#8, 0x10#8, 0#8], withCmd live, _, _, started_rq _ 4 1 _ (by decide +kernel) ⟨_, rfl, by decide, by decide +kernel, by decide⟩, by decide +kernel⟩,
   by exact ⟨rq 4 1 [0#8, 0#8, 0#8, 0#8, 0#8, 0#8, 0#8], withCmd live, _, _, started_rq _ 4 1 _ (by decide +kernel) ⟨_, rfl, by decide, by decide +kernel, by decide⟩, by decide +kernel⟩,
   by exact ⟨rq 4 3 ([2#8, 0#8]), withCmd (live), _, _, started_rq _ 4 3 _ (by decide +kernel) ⟨_, rfl, by decide, by decide +kernel, by decide⟩, by decide +kernel⟩,
   by exact ⟨rq 4 3 ([0#8, 3#8]), withCmd (live), _, _, .a, started_rq _ 4 3 _ (by decide +kernel) ⟨_, rfl, by decide, by decide +kernel, by decide⟩, by decide +kernel⟩,
   by exact ⟨rq 4 3 ([0#8, 0#8]), withCmd (live.setF (F.RAKE_PAN_STATE_MODE 0) 3), _, _, .a, started_rq _ 4 3 _ (by decide +kernel) ⟨_, rfl, by decide, by decide +kernel, by decide⟩, by decide +kernel⟩,
   by exact ⟨rq 4 3 ([0#8, 0#8]), withCmd (live.setF (F.RAKE_PAN_STATE_MODE 0) 4), _, _, .a, started_rq _ 4 3 _ (by decide +kernel) ⟨_, rfl, by decide, by decide +kernel, by decide⟩, by decide +kernel⟩,
   by exact ⟨rq 4 3 ([0#8, 0#8]), withCmd (live), _, _, .a, started_rq _ 4 3 _ (by decide +kernel) ⟨_, rfl, by decide, by decide +kernel, by decide⟩, by decide +kernel⟩,
   by exact ⟨rq 4 3 ([0#8, 1#8]), withCmd (live), _, _, .a, true, started_rq _ 4 3 _ (by decide +kernel) ⟨_, rfl, by decide, by decide +kernel, by decide⟩, by decide +kernel⟩,
   by exact ⟨rq 4 3 ([0#8, 1#8]), withCmd (live.setF (F.RAKE_PAN_STATE_MODE 0) 1), _, _, .a, true, started_rq _ 4 3 _ (by decide +kernel) ⟨_, rfl, by decide, by decide +kernel, by decide⟩, by decide +kernel⟩,
   by exact ⟨rq 4 3 ([0#8, 1#8]), withCmd (((live.setF (F.RAKE_PAN_STATE_MODE 0) 1).setF F.RAKE_CTRL_EN 1).modPan .a (fun x => { x with map := [0] })), _, _, .a, true, 0x0512, started_rq _ 4 3 _ (by decide +kernel) ⟨_, rfl, by decide, by decide +kernel, by decide⟩, by decide +kernel⟩,
   by exact fun a b => ⟨rq 4 3 [0#8, 2#8], withCmd (stopA 0), _, _, started_rq _ 4 3 _ (by decide +kernel) ⟨_, rfl, by decide, by decide +kernel, by decide⟩, by decide +kernel, by decide +kernel, by decide +kernel, (startCheck_of _ (by decide +kernel) a b).trans (if_neg (by decide +kernel))⟩,
   by exact fun a b => ⟨rq 4 3 [0#8, 2#8], withCmd (stopA 1000), _, _, started_rq _ 4 3 _ (by decide +kernel) ⟨_, rfl, by decide, by decide +kernel, by decide⟩, by decide +kernel, by decide +kernel, by decide +kernel, (startCheck_of _ (by decide +kernel) a b).trans (if_pos (by decide +kernel))⟩,
   by exact ⟨⟨((live.setF (F.RAKE_PAN_STATE_MODE 0) 1).setF F.RAKE_CTRL_EN 1).modPan .a (fun x => { x with map := [0] }), by decide +kernel⟩, by decide⟩,
   by exact ⟨.a, live.setF (F.RAKE_PAN_STATE_MODE 0) 2, by decide +kernel⟩,
   by exact ⟨.a, live, by decide +kernel⟩,
   by exact ⟨.a, live, by decide +kernel⟩,
   by decide,
   by exact ⟨.a, live, by decide +kernel⟩,
   by exact ⟨((live.setF (F.RAKE_PAN_STATE_MODE 0) 3).modPan .a (fun x => { x with logic := true })).setF (F.RAKE_PAN_CFG_ACTION 0) 2, by decide +kernel⟩,
   by exact ⟨(((live.setF (F.RAKE_PAN_STATE_MODE 0) 3).modPan .a (fun x => { x with logic := true })).setF (F.RAKE_PAN_CFG_ACTION 0) 0).setF (F.RAKE_PAN_OVR_NCONS 0) 3, by decide +kernel⟩,
   by exact ⟨.a, (live.setF (F.RAKE_PAN_STATE_MODE 0) 3).modPan .a (fun x => { x with logic := true, overran := true }), by decide +kernel⟩,
   by exact ⟨.a, live, by decide +kernel⟩,
   by exact ⟨.core .panA 1, .a, 1, live, 1, by decide +kernel⟩,
   by exact ⟨.core .panA 1, .a, 2, live, 1, by decide +kernel⟩,
   by exact ⟨live, by decide +kernel, by decide⟩,
   by exact ⟨.a, live, by decide +kernel⟩,
   by decide,
   by exact ⟨.a, live.modPan .a (fun x => { x with ckpt := some default }), default, by decide +kernel⟩,
   by exact ⟨.a, live, by decide +kernel⟩,
   by exact ⟨.a, live.modPan .a (fun x => { x with pfw := 1 }), by decide +kernel⟩,
   by exact ⟨.a, live, by decide +kernel⟩,
   by exact ⟨(live.setF F.RAKE_PFW_ACTIVE 1).modPan .a (fun x => { x with pfw := 2, final := some default }), by decide +kernel⟩,
   by exact ⟨live, by decide +kernel⟩,
   by exact ⟨0, live, by decide +kernel⟩,
   by exact ⟨0, { live with rtrig := 1 }, { live with rtrig := 0 }, by decide +kernel⟩,
   by exact ⟨State.setF (State.setF { live with rtrig := 1, rake := { live.rake with trigBusy := 1 } } F.RAKE_CTRL_EN 1) (F.RAKE_TRIG_CFG_EN 0) 1, by decide +kernel⟩,
   by exact ⟨State.setF (State.setF { live with rtrig := 1 } F.RAKE_CTRL_EN 1) (F.RAKE_TRIG_CFG_EN 0) 1, by decide +kernel⟩,
   by exact ⟨0, live, by decide +kernel⟩,
   by exact ⟨{ live with rake := { live.rake with trigBusy := 1 } }, by decide⟩,
   by exact ⟨rq 4 6 (List.replicate 6 2#8), withCmd (live), _, _, started_rq _ 4 6 _ (by decide +kernel) ⟨_, rfl, by decide, by decide +kernel, by decide⟩, by decide +kernel⟩,
   by exact ⟨rq 4 6 ([0#8, 0#8, 0#8, 0#8, 0x70#8, 0#8]), withCmd (live), _, _, .a, started_rq _ 4 6 _ (by decide +kernel) ⟨_, rfl, by decide, by decide +kernel, by decide⟩, by decide +kernel⟩,
   by exact ⟨rq 4 6 ([0#8, 0#8, 0#8, 0#8, 0#8, 2#8]), withCmd (live), _, _, .a, started_rq _ 4 6 _ (by decide +kernel) ⟨_, rfl, by decide, by decide +kernel, by decide⟩, by decide +kernel⟩,
   by exact ⟨rq 4 6 ([0#8, 0#8, 0#8, 0#8, 0#8, 1#8]), withCmd (live.modPan .a (fun x => { x with forces := List.replicate 256 (9, true) })), _, _, .a, started_rq _ 4 6 _ (by decide +kernel) ⟨_, rfl, by decide, by decide +kernel, by decide⟩, by decide +kernel⟩,
   by exact ⟨rq 4 6 [0#8, 0#8, 0#8, 0#8, 0#8, 1#8], withCmd live, _, _, started_rq _ 4 6 _ (by decide +kernel) ⟨_, rfl, by decide, by decide +kernel, by decide⟩, by decide +kernel⟩,
   by exact ⟨rq 4 6 [0#8, 0#8, 0#8, 0x10#8, 0#8, 1#8], withCmd live, _, _, started_rq _ 4 6 _ (by decide +kernel) ⟨_, rfl, by decide, by decide +kernel, by decide⟩, by decide +kernel⟩,
   by exact ⟨rq 4 7 (List.replicate 5 2#8), withCmd (live), _, _, started_rq _ 4 7 _ (by decide +kernel) ⟨_, rfl, by decide, by decide +kernel, by decide⟩, by decide +kernel⟩,
   by exact ⟨rq 4 7 ([0#8, 0#8, 0#8, 0#8, 0x70#8]), withCmd (live), _, _, .a, started_rq _ 4 7 _ (by decide +kernel) ⟨_, rfl, by decide, by decide +kernel, by decide⟩, by decide +kernel⟩,
   by exact ⟨rq 4 7 (0#8 :: List.replicate 4 255#8), withCmd (live), _, _, .a, started_rq _ 4 7 _ (by decide +kernel) ⟨_, rfl, by decide, by decide +kernel, by decide⟩, by decide +kernel⟩,
   by exact ⟨rq 4 7 (List.replicate 5 0#8), withCmd (live), _, _, .a, started_rq _ 4 7 _ (by decide +kernel) ⟨_, rfl, by decide, by decide +kernel, by decide⟩, by decide +kernel⟩,
   by exact ⟨rq 4 8 (List.replicate 7 2#8), withCmd (live), _, _, started_rq _ 4 8 _ (by decide +kernel) ⟨_, rfl, by decide, by decide +kernel, by decide⟩, by decide +kernel⟩,
   by exact ⟨rq 4 8 ([0#8, 0#8, 0#8, 8#8, 0#8, 1#8, 0#8]), withCmd (live), _, _, .a, started_rq _ 4 8 _ (by decide +kernel) ⟨_, rfl, by decide, by decide +kernel, by decide⟩, by decide +kernel⟩,
   by exact ⟨rq 4 8 ([0#8, 0#8, 0#8, 0#8, 0#8, 0#8, 0#8]), withCmd (live), _, _, .a, started_rq _ 4 8 _ (by decide +kernel) ⟨_, rfl, by decide, by decide +kernel, by decide⟩, by decide +kernel⟩,
   by exact ⟨rq 4 8 ([0#8, 0#8, 0#8, 0#8, 0#8, 1#8, 0#8]), withCmd (live), _, _, .a, started_rq _ 4 8 _ (by decide +kernel) ⟨_, rfl, by decide, by decide +kernel, by decide⟩, by decide +kernel⟩,
   by exact ⟨.core .steward 1, 0, live.setF (F.RAKE_PAN_STATE_MODE 0) 3, by decide +kernel⟩,
   by exact ⟨.core .steward 1, 1, live, by decide +kernel⟩⟩

/-- The same request sent to the recovery loader. -/
def rqr (pl : List Byte) : Req := { rq0 pl with sess := 0#16 }
/-- The recovery loader runs. -/
def withRec (s : State) : State := let t := withCmd s; { t with upd := { t.upd with recov := 1 } }
theorem started_rec (s : State) (g o : Nat) (pl : List Byte)
    (h : s.tpOn 3 = true ∧ s.upd.recov = 1 ∧ s.seqClass 3 0 7 = .new ∧ s.outCount 3 < 32)
    (hi : (∃ c, opInfo g o = some c) ∧ ((g == 1 && o == 1) || (g == 10 && decide (o ≤ 3))) = true)
    (hl : pl.length ≤ 2048 := by decide +kernel) :
    Started s (rqr pl) g o none (s.begun 3 0 (reqPkt (rqr pl) g o)) := by
  obtain ⟨h1, h2, h3, h4⟩ := h
  obtain ⟨⟨c, i1⟩, i2⟩ := hi
  refine ⟨h1, .inl rfl, (by decide : (0#12) ≠ 0xFFF#12),
    (by simp [State.fits, State.maxPkt, reqPkt, rqr, rq0, Pkt.len, b2n]; omega), ⟨c, i1, ?_⟩, h3, h4, rfl⟩
  have es : (reqPkt (rqr pl) g o).sess = 0 := rfl
  have eg : (reqPkt (rqr pl) g o).grp = g := rfl
  have eo : (reqPkt (rqr pl) g o).op = o := rfl
  show s.sessCheck 3 0 (reqPkt (rqr pl) g o) c = _
  unfold State.sessCheck
  simp only [h2, es, eg, eo, if_true]
  simp [i2]
/-- Bank 0 runs and is CONFIRMED. -/
def conf : State := { live with upd := { live.upd with banks := [(0, { (default : BankRec) with state := 4 })] } }
/-- A package of `n` bytes is being staged. -/
def staging (s : State) (n : Nat) : State := { s with upd := { s.upd with staging := true, pkgLen := n } }
/-- A complete package waits. -/
def whole (s : State) : State := { s with upd := { s.upd with staging := true, complete := true } }
/-- Bank 0 runs on trial. -/
def onTrial : State := { live with upd := { live.upd with banks := [(0, { (default : BankRec) with state := 3 })] } }
/-- A forwarding request for address 5, from the service port. -/
def fwd1 (act : Bool) : State :=
  { live with upd := { live.upd with fwd := some ⟨default, [5], [], if act then [(5, 0, none)] else [], if act then [5] else []⟩ } }


theorem witness_StagingTrialsForwardingAndUsbActAsTheTablesSay :
    (∃ (r : Req) (s : State) (x : Option Sess) (s1 : State) (q : Token), Started s r 10 1 x s1 ∧ s1.peerToken ⟨rkeyOf r, x, r.payload⟩ = some q) ∧
    (∃ (r : Req) (s : State) (x : Option Sess) (s1 : State) (q : Token), Started s r 10 2 x s1 ∧ s1.peerToken ⟨rkeyOf r, x, r.payload⟩ = some q) ∧
    (∃ (r : Req) (s : State) (x : Option Sess) (s1 : State) (q : Token), Started s r 10 3 x s1 ∧ s1.peerToken ⟨rkeyOf r, x, r.payload⟩ = some q) ∧
    (∃ (r : Req) (s : State) (x : Option Sess) (s1 : State) (t : State), Started s r 10 1 x s1 ∧ (s1.peerToken ⟨rkeyOf r, x, r.payload⟩ = none) ∧ (t = s1.takePeer ⟨rkeyOf r, x, r.payload⟩) ∧ (r.payload.length = 16) ∧ (t.upd.recov ≠ 1) ∧ (t.runIs 4 = false)) ∧
    (∃ (r : Req) (s : State) (x : Option Sess) (s1 : State) (t : State), Started s r 10 1 x s1 ∧ (s1.peerToken ⟨rkeyOf r, x, r.payload⟩ = none) ∧ (t = s1.takePeer ⟨rkeyOf r, x, r.payload⟩) ∧ (r.payload.length = 16) ∧ (t.upd.recov = 1 ∨ t.runIs 4 = true) ∧ (leAt r.payload 0 2 ≠ 0x4B50)) ∧
    (∃ (r : Req) (s : State) (x : Option Sess) (s1 : State) (t : State), Started s r 10 1 x s1 ∧ (s1.peerToken ⟨rkeyOf r, x, r.payload⟩ = none) ∧ (t = s1.takePeer ⟨rkeyOf r, x, r.payload⟩) ∧ (r.payload.length = 16) ∧ (t.upd.recov = 1 ∨ t.runIs 4 = true) ∧ (leAt r.payload 0 2 = 0x4B50) ∧ (leAt r.payload 2 1 ≠ 1)) ∧
    (∃ (r : Req) (s : State) (x : Option Sess) (s1 : State) (t : State), Started s r 10 1 x s1 ∧ (s1.peerToken ⟨rkeyOf r, x, r.payload⟩ = none) ∧ (t = s1.takePeer ⟨rkeyOf r, x, r.payload⟩) ∧ (r.payload.length = 16) ∧ (t.upd.recov = 1 ∨ t.runIs 4 = true) ∧ (leAt r.payload 0 2 = 0x4B50) ∧ (leAt r.payload 2 1 = 1) ∧ (3 < leAt r.payload 3 1)) ∧
    (∃ (r : Req) (s : State) (x : Option Sess) (s1 : State) (t : State), Started s r 10 1 x s1 ∧ (s1.peerToken ⟨rkeyOf r, x, r.payload⟩ = none) ∧ (t = s1.takePeer ⟨rkeyOf r, x, r.payload⟩) ∧ (r.payload.length = 16) ∧ (t.upd.recov = 1 ∨ t.runIs 4 = true) ∧ (leAt r.payload 0 2 = 0x4B50) ∧ (leAt r.payload 2 1 = 1) ∧ (leAt r.payload 3 1 ≤ 3) ∧ (leAt r.payload 4 4 < 1072)) ∧
    (∃ (r : Req) (s : State) (x : Option Sess) (s1 : State) (t : State), Started s r 10 1 x s1 ∧ (s1.peerToken ⟨rkeyOf r, x, r.payload⟩ = none) ∧ (t = s1.takePeer ⟨rkeyOf r, x, r.payload⟩) ∧ (r.payload.length = 16) ∧ (t.upd.recov = 1 ∨ t.runIs 4 = true) ∧ (leAt r.payload 0 2 = 0x4B50) ∧ (leAt r.payload 2 1 = 1) ∧ (leAt r.payload 3 1 ≤ 3) ∧ (1072 ≤ leAt r.payload 4 4) ∧ (8388608 < leAt r.payload 4 4)) ∧
    (∃ (r : Req) (s : State) (x : Option Sess) (s1 : State) (t : State), Started s r 10 1 x s1 ∧ (s1.peerToken ⟨rkeyOf r, x, r.payload⟩ = none) ∧ (t = s1.takePeer ⟨rkeyOf r, x, r.payload⟩) ∧ (r.payload.length = 16) ∧ (t.upd.recov = 1 ∨ t.runIs 4 = true) ∧ (leAt r.payload 0 2 = 0x4B50) ∧ (leAt r.payload 2 1 = 1) ∧ (leAt r.payload 3 1 ≤ 3) ∧ (1072 ≤ leAt r.payload 4 4) ∧ (leAt r.payload 4 4 ≤ 8388608) ∧ (leAt r.payload 12 4 ≠ 0)) ∧
    (∃ (r : Req) (s : State) (x : Option Sess) (s1 : State) (t : State), Started s r 10 1 x s1 ∧ (s1.peerToken ⟨rkeyOf r, x, r.payload⟩ = none) ∧ (t = s1.takePeer ⟨rkeyOf r, x, r.payload⟩) ∧ (r.payload.length = 16) ∧ (t.upd.recov = 1 ∨ t.runIs 4 = true) ∧ (leAt r.payload 0 2 = 0x4B50) ∧ (leAt r.payload 2 1 = 1) ∧ (leAt r.payload 3 1 ≤ 3) ∧ (1072 ≤ leAt r.payload 4 4) ∧ (leAt r.payload 4 4 ≤ 8388608) ∧ (leAt r.payload 12 4 = 0) ∧ (t.upd.recov = 1)) ∧
    (∃ (r : Req) (s : State) (x : Option Sess) (s1 : State), Started s r 10 1 x s1 ∧ s1.peerToken ⟨rkeyOf r, x, r.payload⟩ = none ∧ r.payload = [0x50#8, 0x4B#8, 1#8, 0#8, 0x30#8, 4#8, 0#8, 0#8, 0#8, 0#8, 0#8, 0#8, 0#8, 0#8, 0#8, 0#8] ∧ ∃ t, t = s1.takePeer ⟨rkeyOf r, x, r.payload⟩ ∧ t.upd.recov ≠ 1 ∧ t.runIs 4 = true) ∧
    (∃ (r : Req) (s : State) (x : Option Sess) (s1 : State) (t : State), Started s r 10 2 x s1 ∧ (s1.peerToken ⟨rkeyOf r, x, r.payload⟩ = none) ∧ (t = s1.takePeer ⟨rkeyOf r, x, r.payload⟩) ∧ (r.payload.length < 4)) ∧
    (∃ (r : Req) (s : State) (x : Option Sess) (s1 : State) (t : State), Started s r 10 2 x s1 ∧ (s1.peerToken ⟨rkeyOf r, x, r.payload⟩ = none) ∧ (t = s1.takePeer ⟨rkeyOf r, x, r.payload⟩) ∧ (4 ≤ r.payload.length) ∧ (t.upd.staging = false ∨ t.upd.apply ≠ none)) ∧
    (∃ (r : Req) (s : State) (x : Option Sess) (s1 : State) (t : State), Started s r 10 2 x s1 ∧ (s1.peerToken ⟨rkeyOf r, x, r.payload⟩ = none) ∧ (t = s1.takePeer ⟨rkeyOf r, x, r.payload⟩) ∧ (4 ≤ r.payload.length) ∧ (t.upd.staging = true) ∧ (t.upd.apply = none) ∧ (leAt r.payload 0 4 ≠ t.upd.pkg.length)) ∧
    (∃ (r : Req) (s : State) (x : Option Sess) (s1 : State) (t : State), Started s r 10 2 x s1 ∧ (s1.peerToken ⟨rkeyOf r, x, r.payload⟩ = none) ∧ (t = s1.takePeer ⟨rkeyOf r, x, r.payload⟩) ∧ (4 ≤ r.payload.length) ∧ (t.upd.staging = true) ∧ (t.upd.apply = none) ∧ (leAt r.payload 0 4 = t.upd.pkg.length) ∧ (4096 < (r.payload.drop 4).length ∨ t.upd.pkgLen < leAt r.payload 0 4 + (r.payload.drop 4).length)) ∧
    (∃ (r : Req) (s : State) (x : Option Sess) (s1 : State), Started s r 10 2 x s1 ∧ s1.peerToken ⟨rkeyOf r, x, r.payload⟩ = none ∧ r.payload.length = 5 ∧ leAt r.payload 0 4 = 0 ∧ ∃ t, t = s1.takePeer ⟨rkeyOf r, x, r.payload⟩ ∧ t.upd.recov ≠ 1 ∧ t.upd.staging = true ∧ t.upd.apply = none ∧ t.upd.pkg = [] ∧ t.upd.pkgLen = 2000) ∧
    (∃ (r : Req) (s : State) (x : Option Sess) (s1 : State), Started s r 10 2 x s1 ∧ s1.peerToken ⟨rkeyOf r, x, r.payload⟩ = none ∧ r.payload.length = 5 ∧ leAt r.payload 0 4 = 0 ∧ ∃ t, t = s1.takePeer ⟨rkeyOf r, x, r.payload⟩ ∧ t.upd.recov = 1 ∧ t.upd.staging = true ∧ t.upd.apply = none ∧ t.upd.pkg = [] ∧ t.upd.pkgLen = 2000) ∧
    (∃ (r : Req) (s : State) (x : Option Sess) (s1 : State) (t : State), Started s r 10 3 x s1 ∧ (s1.peerToken ⟨rkeyOf r, x, r.payload⟩ = none) ∧ (t = s1.takePeer ⟨rkeyOf r, x, r.payload⟩) ∧ (r.payload.length = 0) ∧ (t.upd.staging = false ∨ t.upd.apply ≠ none)) ∧
    (∃ (r : Req) (s : State) (x : Option Sess) (s1 : State) (t : State), Started s r 10 3 x s1 ∧ (s1.peerToken ⟨rkeyOf r, x, r.payload⟩ = none) ∧ (t = s1.takePeer ⟨rkeyOf r, x, r.payload⟩) ∧ (r.payload.length = 0) ∧ (t.upd.staging = true) ∧ (t.upd.apply = none) ∧ (t.upd.complete = false)) ∧
    (∃ (r : Req) (s : State) (x : Option Sess) (s1 : State), Started s r 10 3 x s1 ∧ s1.peerToken ⟨rkeyOf r, x, r.payload⟩ = none ∧ r.payload = [] ∧ ∃ t, t = s1.takePeer ⟨rkeyOf r, x, r.payload⟩ ∧ t.upd.recov = 1 ∧ t.upd.staging = true ∧ t.upd.apply = none ∧ t.upd.complete = true) ∧
    (∃ (r : Req) (s : State) (x : Option Sess) (s1 : State), Started s r 10 3 x s1 ∧ s1.peerToken ⟨rkeyOf r, x, r.payload⟩ = none ∧ r.payload = [] ∧ ∃ t, t = s1.takePeer ⟨rkeyOf r, x, r.payload⟩ ∧ t.upd.recov ≠ 1 ∧ t.upd.staging = true ∧ t.upd.apply = none ∧ t.upd.complete = true) ∧
    (∃ (r : Req) (s : State) (x : Option Sess) (s1 : State) (b : Nat), Started s r 10 5 x s1 ∧ (r.payload.length = 0) ∧ (s1.runBank = some b) ∧ (s1.bankSt b = 3) ∧ (s1.flag F.UPD_STAT_HEALTHY = true)) ∧
    (∃ (r : Req) (s : State) (x : Option Sess) (s1 : State) (b : Nat), Started s r 10 5 x s1 ∧ (r.payload.length = 0) ∧ (s1.runBank = some b) ∧ (s1.bankSt b ≠ 3 ∨ s1.flag F.UPD_STAT_HEALTHY = false)) ∧
    (∃ s : State, s.runBank = none ∧ s.upd.recov = 2) ∧
    (∃ (r : Req) (s : State) (x : Option Sess) (s1 : State), Started s r 10 6 x s1 ∧ r.payload.length = 0) ∧
    (∃ (s : State), (s.runIs 3 = true)) ∧
    (∃ (s : State), (s.runIs 3 = false)) ∧
    (∃ (r : Req) (s : State) (x : Option Sess) (s1 : State), Started s r 10 4 x s1 ∧ (r.payload.length < 4)) ∧
    (∃ (r : Req) (s : State) (x : Option Sess) (s1 : State), Started s r 10 4 x s1 ∧ (4 ≤ r.payload.length) ∧ (r.payload.length % 2 ≠ 0 ∨ 130 < r.payload.length)) ∧
    (∃ (r : Req) (s : State) (x : Option Sess) (s1 : State), Started s r 10 4 x s1 ∧ (4 ≤ r.payload.length ∧ r.payload.length % 2 = 0 ∧ r.payload.length ≤ 130) ∧ (leAt r.payload 0 2 < 1 ∨ 64 < leAt r.payload 0 2)) ∧
    (∃ (r : Req) (s : State) (x : Option Sess) (s1 : State), Started s r 10 4 x s1 ∧ (4 ≤ r.payload.length ∧ r.payload.length % 2 = 0 ∧ r.payload.length ≤ 130) ∧ (1 ≤ leAt r.payload 0 2) ∧ (leAt r.payload 0 2 ≤ 64) ∧ (r.payload.length ≠ 2 + 2 * leAt r.payload 0 2)) ∧
    (∃ (r : Req) (s : State) (x : Option Sess) (s1 : State) (as : List Nat) (i : Nat), Started s r 10 4 x s1 ∧ (4 ≤ r.payload.length ∧ r.payload.length % 2 = 0 ∧ r.payload.length ≤ 130) ∧ (1 ≤ leAt r.payload 0 2) ∧ (leAt r.payload 0 2 ≤ 64) ∧ (r.payload.length = 2 + 2 * leAt r.payload 0 2) ∧ (as = (List.range (leAt r.payload 0 2)).map (fun i => leAt r.payload (2 + 2 * i) 2)) ∧ (firstBelow (leAt r.payload 0 2) (fun i => !(decide (1 ≤ as.getD i 0) && decide (as.getD i 0 ≤ 0xFFE))) = some i)) ∧
    (∃ (r : Req) (s : State) (x : Option Sess) (s1 : State) (as : List Nat), Started s r 10 4 x s1 ∧ (4 ≤ r.payload.length ∧ r.payload.length % 2 = 0 ∧ r.payload.length ≤ 130) ∧ (1 ≤ leAt r.payload 0 2) ∧ (leAt r.payload 0 2 ≤ 64) ∧ (r.payload.length = 2 + 2 * leAt r.payload 0 2) ∧ (as = (List.range (leAt r.payload 0 2)).map (fun i => leAt r.payload (2 + 2 * i) 2)) ∧ (firstBelow (leAt r.payload 0 2) (fun i => !(decide (1 ≤ as.getD i 0) && decide (as.getD i 0 ≤ 0xFFE))) = none) ∧ (s1.upd.complete = false ∨ s1.upd.fwd ≠ none)) ∧
    (∃ (r : Req) (s : State) (x : Option Sess) (s1 : State) (as : List Nat), Started s r 10 4 x s1 ∧ (4 ≤ r.payload.length ∧ r.payload.length % 2 = 0 ∧ r.payload.length ≤ 130) ∧ (1 ≤ leAt r.payload 0 2) ∧ (leAt r.payload 0 2 ≤ 64) ∧ (r.payload.length = 2 + 2 * leAt r.payload 0 2) ∧ (as = (List.range (leAt r.payload 0 2)).map (fun i => leAt r.payload (2 + 2 * i) 2)) ∧ (firstBelow (leAt r.payload 0 2) (fun i => !(decide (1 ≤ as.getD i 0) && decide (as.getD i 0 ≤ 0xFFE))) = none) ∧ (s1.upd.complete = true) ∧ (s1.upd.fwd = none)) ∧
    (∃ (addr : BitVec 12) (stat : BitVec 8) (s : State), (s.upd.fwd = none)) ∧
    (∃ (addr : BitVec 12) (stat : BitVec 8) (s : State) (g : FwdRun), (s.upd.fwd = some g) ∧ (g.active.any (fun x => x.1 == addr.toNat) = false)) ∧
    (∃ (s : State) (g : FwdRun), s.upd.fwd = some g ∧ g.active.any (fun x => x.1 == 5) = true ∧ ∃ t, t = s.modFwd (fun f => { f with active := f.active.filter (fun x => x.1 != 5), done := f.done ++ [(5, 0)] }) ∧ t.mustStop 0 = false) ∧
    (∃ (s : State) (g : FwdRun), s.upd.fwd = some g ∧ g.active.any (fun x => x.1 == 5) = true ∧ ∃ t, t = s.modFwd (fun f => { f with active := f.active.filter (fun x => x.1 != 5), done := f.done ++ [(5, 0)] }) ∧ t.mustStop 0 = true) ∧
    (∃ (s : State), (s.upd.fwd = none)) ∧
    (∃ (s : State) (g : FwdRun), (s.upd.fwd = some g) ∧ (g.active ≠ [] ∨ g.todo ≠ [])) ∧
    (∃ (s : State) (g : FwdRun), s.upd.fwd = some g ∧ g.active = [] ∧ g.todo = [] ∧ ∃ t, t = s.modUpd (fun u => { u with fwd := none }) ∧ t.mustStop 0 = true) ∧
    (∃ (s : State) (g : FwdRun), s.upd.fwd = some g ∧ g.active = [] ∧ g.todo = [] ∧ ∃ t, t = s.modUpd (fun u => { u with fwd := none }) ∧ t.mustStop 0 = false) ∧
    (∃ (s : State), (s.trialHealthy = false ∨ s.flag F.UPD_STAT_HEALTHY = true)) ∧
    (∃ s : State, s.trialHealthy = true ∧ s.flag F.UPD_STAT_HEALTHY = false ∧ ∃ t, t = s.setF F.UPD_STAT_HEALTHY 1 ∧ t.runBank = some 0 ∧ t.flag F.UPD_CTRL_AUTOCONF = true) ∧
    (∃ s : State, s.trialHealthy = true ∧ s.flag F.UPD_STAT_HEALTHY = false ∧ ∃ t, t = s.setF F.UPD_STAT_HEALTHY 1 ∧ t.runBank = some 0 ∧ t.flag F.UPD_CTRL_AUTOCONF = false) ∧
    (∃ (s : State) (b : Nat), (s.runBank = some b) ∧ (s.bankSt b = 3)) ∧
    (∃ b, live.runBank = some b ∧ live.bankSt b ≠ 3) ∧
    (∃ s : State, s.bankSt 0 = 3) ∧
    (∃ (s : State), (s.upd.resetDue = true)) ∧
    (∃ (s : State), (s.upd.resetDue = false)) ∧
    (∃ (who : Who) (value : Word) (s : State), (s.regOk who (A.UPD_UNFIT) = true) ∧ (bit value.toNat 31 = false)) ∧
    (∃ s : State, s.regOk (.core .steward 1) A.UPD_UNFIT = true ∧ s.runBank = none) ∧
    (∃ (who : Who) (value : Word) (s : State) (b : Nat) (c : Nat) (t : State), (s.regOk who (A.UPD_UNFIT) = true) ∧ (bit value.toNat 31 = true) ∧ (s.runBank = some b) ∧ ((c = (if bit value.toNat 19 = true then 0x0A41 else 0x0A40))) ∧ (t = (s.bankTo b 8 c (bits value.toNat 18 16)).logAdd (0xA000 + c % 0x1000) (value.toNat % 2 ^ 16))) ∧
    (∃ (who : Who) (value : Word) (s : State), (s.regOk who (A.USBS_CTRL) = true)) ∧
    ((∃ s : State, s.flag F.USBS_CTRL_EN = true ∧ s.flag F.USBS_STAT_VBUS = true) ∧ live.flag F.USBS_STAT_VBUS = false) ∧
    (∃ (present : Bool) (s : State), (s.flag F.USBS_STAT_VBUS = present)) ∧
    (∃ (s : State), (s.flag F.USBS_STAT_VBUS = false)) ∧
    (∃ s : State, s.flag F.USBS_STAT_VBUS = true) ∧
    (∃ (configured : Bool) (hs : Bool) (s : State), (s.flag F.USBS_STAT_ATTACHED = false)) ∧
    (∃ (configured : Bool) (hs : Bool) (s : State), (s.flag F.USBS_STAT_ATTACHED = true)) :=
  ⟨by exact ⟨rqp [], withPeer live, _, _, { cls := 0, tp := 3, ep := 0, sess := 1, until_ := 1000000000000 }, started_rqp _ 10 1 _ (by decide +kernel) ⟨_, rfl, by decide⟩, by decide +kernel⟩,
   by exact ⟨rqp [], withPeer live, _, _, { cls := 0, tp := 3, ep := 0, sess := 1, until_ := 1000000000000 }, started_rqp _ 10 2 _ (by decide +kernel) ⟨_, rfl, by decide⟩, by decide +kernel⟩,
   by exact ⟨rqp [], withPeer live, _, _, { cls := 0, tp := 3, ep := 0, sess := 1, until_ := 1000000000000 }, started_rqp _ 10 3 _ (by decide +kernel) ⟨_, rfl, by decide⟩, by decide +kernel⟩,
   by exact ⟨rq 10 1 ([0x50#8, 0x4B#8, 1#8, 0#8, 0x30#8, 4#8, 0#8, 0#8, 0#8, 0#8, 0#8, 0#8, 0#8, 0#8, 0#8, 0#8]), withCmd (live), _, _, _, started_rq _ 10 1 _ (by decide +kernel) ⟨_, rfl, by decide, by decide +kernel, by decide⟩, by decide +kernel, rfl, by decide +kernel⟩,
   by exact ⟨rq 10 1 ([0#8, 0x4B#8, 1#8, 0#8, 0x30#8, 4#8, 0#8, 0#8, 0#8, 0#8, 0#8, 0#8, 0#8, 0#8, 0#8, 0#8]), withCmd (conf), _, _, _, started_rq _ 10 1 _ (by decide +kernel) ⟨_, rfl, by decide, by decide +kernel, by decide⟩, by decide +kernel, rfl, by decide +kernel⟩,
   by exact ⟨rq 10 1 ([0x50#8, 0x4B#8, 0#8, 0#8, 0x30#8, 4#8, 0#8, 0#8, 0#8, 0#8, 0#8, 0#8, 0#8, 0#8, 0#8, 0#8]), withCmd (conf), _, _, _, started_rq _ 10 1 _ (by decide +kernel) ⟨_, rfl, by decide, by decide +kernel, by decide⟩, by decide +kernel, rfl, by decide +kernel⟩,
   by exact ⟨rq 10 1 ([0x50#8, 0x4B#8, 1#8, 4#8, 0x30#8, 4#8, 0#8, 0#8, 0#8, 0#8, 0#8, 0#8, 0#8, 0#8, 0#8, 0#8]), withCmd (conf), _, _, _, started_rq _ 10 1 _ (by decide +kernel) ⟨_, rfl, by decide, by decide +kernel, by decide⟩, by decide +kernel, rfl, by decide +kernel⟩,
   by exact ⟨rq 10 1 ([0x50#8, 0x4B#8, 1#8, 0#8, 0x30#8, 0#8, 0#8, 0#8, 0#8, 0#8, 0#8, 0#8, 0#8, 0#8, 0#8, 0#8]), withCmd (conf), _, _, _, started_rq _ 10 1 _ (by decide +kernel) ⟨_, rfl, by decide, by decide +kernel, by decide⟩, by decide +kernel, rfl, by decide +kernel⟩,
   by exact ⟨rq 10 1 ([0x50#8, 0x4B#8, 1#8, 0#8, 0x30#8, 4#8, 0#8, 1#8, 0#8, 0#8, 0#8, 0#8, 0#8, 0#8, 0#8, 0#8]), withCmd (conf), _, _, _, started_rq _ 10 1 _ (by decide +kernel) ⟨_, rfl, by decide, by decide +kernel, by decide⟩, by decide +kernel, rfl, by decide +kernel⟩,
   by exact ⟨rq 10 1 ([0x50#8, 0x4B#8, 1#8, 0#8, 0x30#8, 4#8, 0#8, 0#8, 0#8, 0#8, 0#8, 0#8, 1#8, 0#8, 0#8, 0#8]), withCmd (conf), _, _, _, started_rq _ 10 1 _ (by decide +kernel) ⟨_, rfl, by decide, by decide +kernel, by decide⟩, by decide +kernel, rfl, by decide +kernel⟩,
   by exact ⟨rqr ([0x50#8, 0x4B#8, 1#8, 0#8, 0x30#8, 4#8, 0#8, 0#8, 0#8, 0#8, 0#8, 0#8, 0#8, 0#8, 0#8, 0#8]), withRec (live), none, _, _, started_rec _ 10 1 _ (by decide +kernel) ⟨⟨_, rfl⟩, by decide⟩, by decide +kernel, rfl, by decide +kernel⟩,
   by exact ⟨rq 10 1 [0x50#8, 0x4B#8, 1#8, 0#8, 0x30#8, 4#8, 0#8, 0#8, 0#8, 0#8, 0#8, 0#8, 0#8, 0#8, 0#8, 0#8], withCmd conf, _, _, started_rq _ 10 1 _ (by decide +kernel) ⟨_, rfl, by decide, by decide +kernel, by decide⟩, by decide +kernel, rfl, _, rfl, by decide +kernel⟩,
   by exact ⟨rq 10 2 ([]), withCmd (live), _, _, _, started_rq _ 10 2 _ (by decide +kernel) ⟨_, rfl, by decide, by decide +kernel, by decide⟩, by decide +kernel, rfl, by decide +kernel⟩,
   by exact ⟨rq 10 2 ([0#8, 0#8, 0#8, 0#8]), withCmd (live), _, _, _, started_rq _ 10 2 _ (by decide +kernel) ⟨_, rfl, by decide, by decide +kernel, by decide⟩, by decide +kernel, rfl, by decide +kernel⟩,
   by exact ⟨rq 10 2 ([1#8, 0#8, 0#8, 0#8]), withCmd (staging live 2000), _, _, _, started_rq _ 10 2 _ (by decide +kernel) ⟨_, rfl, by decide, by decide +kernel, by decide⟩, by decide +kernel, rfl, by decide +kernel⟩,
   by exact ⟨rq 10 2 ([0#8, 0#8, 0#8, 0#8, 1#8]), withCmd (staging live 0), _, _, _, started_rq _ 10 2 _ (by decide +kernel) ⟨_, rfl, by decide, by decide +kernel, by decide⟩, by decide +kernel, rfl, by decide +kernel⟩,
   by exact ⟨rq 10 2 [0#8, 0#8, 0#8, 0#8, 1#8], withCmd (staging live 2000), _, _, started_rq _ 10 2 _ (by decide +kernel) ⟨_, rfl, by decide, by decide +kernel, by decide⟩, by decide +kernel, rfl, by decide, _, rfl, by decide +kernel⟩,
   by exact ⟨rqr [0#8, 0#8, 0#8, 0#8, 1#8], withRec (staging live 2000), none, _, started_rec _ 10 2 _ (by decide +kernel) ⟨⟨_, rfl⟩, by decide⟩, by decide +kernel, rfl, by decide, _, rfl, by decide +kernel⟩,
   by exact ⟨rq 10 3 ([]), withCmd (live), _, _, _, started_rq _ 10 3 _ (by decide +kernel) ⟨_, rfl, by decide, by decide +kernel, by decide⟩, by decide +kernel, rfl, by decide +kernel⟩,
   by exact ⟨rq 10 3 ([]), withCmd (staging live 2000), _, _, _, started_rq _ 10 3 _ (by decide +kernel) ⟨_, rfl, by decide, by decide +kernel, by decide⟩, by decide +kernel, rfl, by decide +kernel⟩,
   by exact ⟨rqr [], withRec (whole live), none, _, started_rec _ 10 3 _ (by decide +kernel) ⟨⟨_, rfl⟩, by decide⟩, by decide +kernel, rfl, _, rfl, by decide +kernel⟩,
   by exact ⟨rq 10 3 [], withCmd (whole live), _, _, started_rq _ 10 3 _ (by decide +kernel) ⟨_, rfl, by decide, by decide +kernel, by decide⟩, by decide +kernel, rfl, _, rfl, by decide +kernel⟩,
   by exact ⟨rq 10 5 ([]), withCmd (onTrial.setF F.UPD_STAT_HEALTHY 1), _, _, 0, started_rq _ 10 5 _ (by decide +kernel) ⟨_, rfl, by decide, by decide +kernel, by decide⟩, by decide +kernel⟩,
   by exact ⟨rq 10 5 ([]), withCmd (onTrial), _, _, 0, started_rq _ 10 5 _ (by decide +kernel) ⟨_, rfl, by decide, by decide +kernel, by decide⟩, by decide +kernel⟩,
   by exact ⟨{ live with upd := { live.upd with recov := 2 } }, by decide⟩,
   by exact ⟨rq 10 6 [], withCmd live, _, _, started_rq _ 10 6 _ (by decide +kernel) ⟨_, rfl, by decide, by decide +kernel, by decide⟩, by decide⟩,
   by exact ⟨onTrial, by decide +kernel⟩,
   by exact ⟨live, by decide +kernel⟩,
   by exact ⟨rq 10 4 ([]), withCmd (live), _, _, started_rq _ 10 4 _ (by decide +kernel) ⟨_, rfl, by decide, by decide +kernel, by decide⟩, by decide +kernel⟩,
   by exact ⟨rq 10 4 (List.replicate 5 0#8), withCmd (live), _, _, started_rq _ 10 4 _ (by decide +kernel) ⟨_, rfl, by decide, by decide +kernel, by decide⟩, by decide +kernel⟩,
   by exact ⟨rq 10 4 ([0#8, 0#8, 0#8, 0#8]), withCmd (live), _, _, started_rq _ 10 4 _ (by decide +kernel) ⟨_, rfl, by decide, by decide +kernel, by decide⟩, by decide +kernel⟩,
   by exact ⟨rq 10 4 ([1#8, 0#8, 0#8, 0#8, 0#8, 0#8]), withCmd (live), _, _, started_rq _ 10 4 _ (by decide +kernel) ⟨_, rfl, by decide, by decide +kernel, by decide⟩, by decide +kernel⟩,
   by exact ⟨rq 10 4 ([1#8, 0#8, 0#8, 0#8]), withCmd (live), _, _, [0], 0, started_rq _ 10 4 _ (by decide +kernel) ⟨_, rfl, by decide, by decide +kernel, by decide⟩, by decide +kernel⟩,
   by exact ⟨rq 10 4 ([1#8, 0#8, 5#8, 0#8]), withCmd (live), _, _, [5], started_rq _ 10 4 _ (by decide +kernel) ⟨_, rfl, by decide, by decide +kernel, by decide⟩, by decide +kernel⟩,
   by exact ⟨rq 10 4 ([1#8, 0#8, 5#8, 0#8]), withCmd (whole live), _, _, [5], started_rq _ 10 4 _ (by decide +kernel) ⟨_, rfl, by decide, by decide +kernel, by decide⟩, by decide +kernel⟩,
   by exact ⟨0, 0, live, by decide +kernel⟩,
   by exact ⟨0, 0, fwd1 true, ⟨default, [5], [], [(5, 0, none)], [5]⟩, by decide +kernel⟩,
   by exact ⟨fwd1 true, _, rfl, by decide, _, rfl, by decide +kernel⟩,
   by exact ⟨{ fwd1 true with cmd := { (fwd1 true).cmd with stopAsked := [0] } }, _, rfl, by decide, _, rfl, by decide +kernel⟩,
   by exact ⟨live, by decide +kernel⟩,
   by exact ⟨fwd1 true, ⟨default, [5], [], [(5, 0, none)], [5]⟩, by decide +kernel⟩,
   by exact ⟨{ fwd1 false with cmd := { (fwd1 false).cmd with stopAsked := [0] } }, _, rfl, by decide, by decide, _, rfl, by decide +kernel⟩,
   by exact ⟨fwd1 false, _, rfl, by decide, by decide, _, rfl, by decide +kernel⟩,
   by exact ⟨live, by decide +kernel⟩,
   by exact ⟨State.setF { onTrial with upd := { onTrial.upd with setOk := true } } F.UPD_CTRL_AUTOCONF 1, by decide +kernel, by decide +kernel, _, rfl, by decide +kernel⟩,
   by exact ⟨State.setF { onTrial with upd := { onTrial.upd with setOk := true } } F.UPD_CTRL_AUTOCONF 0, by decide +kernel, by decide +kernel, _, rfl, by decide +kernel⟩,
   by exact ⟨onTrial, 0, by decide +kernel⟩,
   by exact ⟨0, by decide +kernel⟩,
   by exact ⟨onTrial, by decide +kernel⟩,
   by exact ⟨{ live with upd := { live.upd with resetDue := true } }, by decide +kernel⟩,
   by exact ⟨live, by decide +kernel⟩,
   by exact ⟨.core .steward 1, 0, live, by decide +kernel⟩,
   by exact ⟨{ live with upd := { live.upd with recov := 2 } }, by decide +kernel⟩,
   by exact ⟨.core .steward 1, 0x80080000#32, live, 0, _, _, by decide +kernel, by decide +kernel, by decide +kernel, rfl, rfl⟩,
   by exact ⟨.core .steward 1, 0, live, by decide +kernel⟩,
   by exact ⟨⟨(live.setF F.USBS_CTRL_EN 1).setF F.USBS_STAT_VBUS 1, by decide +kernel⟩, by decide +kernel⟩,
   by exact ⟨false, live, by decide +kernel⟩,
   by exact ⟨live, by decide +kernel⟩,
   by exact ⟨live.setF F.USBS_STAT_VBUS 1, by decide +kernel⟩,
   by exact ⟨true, true, live, by decide +kernel⟩,
   by exact ⟨true, true, live.setF F.USBS_STAT_ATTACHED 1, by decide +kernel⟩⟩

/-- The Crust store in a state. -/
def store (n : Nat) (s : State) : State := s.setF F.CRUST_STAT_STATE n
/-- A write of a page waits in a READY store. -/
def queued : State := { store 3 live with crust := { live.crust with queue := [{ kind := 0, key := 1, off := 0, data := [1#8], req := none }] } }
/-- Every sector is full. -/
def fullStore : State :=
  { queued with crust := { queued.crust with secs := (List.range 10).map (fun i => (i, { (default : CrustSec) with st := 2 })) } }
/-- A sector is being erased. -/
def erasing1 (n : Nat) : State :=
  { live with crust := { live.crust with erasing := [3], secs := [(3, { (default : CrustSec) with erases := n })] } }


theorem witness_CrustStoreCommandsActAsTheTablesSay :
    (∃ (r : Req) (s : State) (x : Option Sess) (s1 : State), Started s r 9 1 x s1 ∧ (r.payload.length = 4) ∧ (1023 < leAt r.payload 0 2)) ∧
    (∃ (r : Req) (s : State) (x : Option Sess) (s1 : State), Started s r 9 1 x s1 ∧ (r.payload.length = 4) ∧ (leAt r.payload 0 2 ≤ 1023) ∧ (63 < leAt r.payload 2 1)) ∧
    (∃ (r : Req) (s : State) (x : Option Sess) (s1 : State), Started s r 9 1 x s1 ∧ (r.payload.length = 4) ∧ (leAt r.payload 0 2 ≤ 1023) ∧ (leAt r.payload 2 1 ≤ 63) ∧ (leAt r.payload 3 1 < 1 ∨ 64 < leAt r.payload 3 1)) ∧
    (∃ (r : Req) (s : State) (x : Option Sess) (s1 : State), Started s r 9 1 x s1 ∧ (r.payload.length = 4) ∧ (leAt r.payload 0 2 ≤ 1023) ∧ (leAt r.payload 2 1 ≤ 63) ∧ (1 ≤ leAt r.payload 3 1 ∧ leAt r.payload 3 1 ≤ 64) ∧ (s1.crustServes = false)) ∧
    (∃ (r : Req) (s : State) (x : Option Sess) (s1 : State), Started s r 9 1 x s1 ∧ (r.payload.length = 4) ∧ (leAt r.payload 0 2 ≤ 1023) ∧ (leAt r.payload 2 1 ≤ 63) ∧ (1 ≤ leAt r.payload 3 1 ∧ leAt r.payload 3 1 ≤ 64) ∧ (s1.crustServes = true)) ∧
    (∃ (r : Req) (s : State) (x : Option Sess) (s1 : State), Started s r 9 2 x s1 ∧ (r.payload.length < 4)) ∧
    (∃ (r : Req) (s : State) (x : Option Sess) (s1 : State), Started s r 9 2 x s1 ∧ (67 < r.payload.length)) ∧
    (∃ (r : Req) (s : State) (x : Option Sess) (s1 : State), Started s r 9 2 x s1 ∧ (4 ≤ r.payload.length) ∧ (r.payload.length ≤ 67) ∧ (pageOk (leAt r.payload 0 2) = false)) ∧
    (∃ (r : Req) (s : State) (x : Option Sess) (s1 : State), Started s r 9 2 x s1 ∧ (4 ≤ r.payload.length) ∧ (r.payload.length ≤ 67) ∧ (pageOk (leAt r.payload 0 2) = true) ∧ (63 < leAt r.payload 2 1)) ∧
    (∃ (r : Req) (s : State) (x : Option Sess) (s1 : State), Started s r 9 2 x s1 ∧ (4 ≤ r.payload.length) ∧ (r.payload.length ≤ 67) ∧ (pageOk (leAt r.payload 0 2) = true) ∧ (leAt r.payload 2 1 ≤ 63) ∧ (s1.crustServes = false ∨ s1.flag F.CRUST_STAT_PFW = true)) ∧
    (∃ (r : Req) (s : State) (x : Option Sess) (s1 : State), Started s r 9 2 x s1 ∧ (4 ≤ r.payload.length) ∧ (r.payload.length ≤ 67) ∧ (pageOk (leAt r.payload 0 2) = true) ∧ (leAt r.payload 2 1 ≤ 63) ∧ (s1.crustServes = true) ∧ (s1.flag F.CRUST_STAT_PFW = false)) ∧
    (∃ (r : Req) (s : State) (x : Option Sess) (s1 : State), Started s r 9 3 x s1 ∧ (r.payload.length = 5) ∧ (leAt r.payload 0 1 ≤ 7 ∨ 31 < leAt r.payload 0 1)) ∧
    (∃ (r : Req) (s : State) (x : Option Sess) (s1 : State), Started s r 9 3 x s1 ∧ (r.payload.length = 5) ∧ (8 ≤ leAt r.payload 0 1) ∧ (leAt r.payload 0 1 ≤ 31) ∧ (s1.crustServes = false ∨ (s1.flag F.CRUST_STAT_PFW = true ∧ leAt r.payload 1 4 ≠ 0))) ∧
    (∃ (r : Req) (s : State) (x : Option Sess) (s1 : State), Started s r 9 3 x s1 ∧ r.payload.length = 5 ∧ leAt r.payload 0 1 = 8 ∧ s1.crustServes = true ∧ s1.flag F.CRUST_STAT_PFW = false ∧ 2 ^ 64 ≤ s1.counter 8 + s1.pendingInc 8 + leAt r.payload 1 4) ∧
    (∃ (r : Req) (s : State) (x : Option Sess) (s1 : State) (v : Nat), Started s r 9 3 x s1 ∧ (r.payload.length = 5) ∧ (8 ≤ leAt r.payload 0 1) ∧ (leAt r.payload 0 1 ≤ 31) ∧ (s1.crustServes = true) ∧ (s1.flag F.CRUST_STAT_PFW = false ∨ leAt r.payload 1 4 = 0) ∧ (v = s1.counter (leAt r.payload 0 1) + s1.pendingInc (leAt r.payload 0 1)) ∧ (v + leAt r.payload 1 4 < 2 ^ 64) ∧ (leAt r.payload 1 4 = 0 ∧ s1.pendingInc (leAt r.payload 0 1) = 0)) ∧
    (∃ (r : Req) (s : State) (x : Option Sess) (s1 : State) (v : Nat), Started s r 9 3 x s1 ∧ (r.payload.length = 5) ∧ (8 ≤ leAt r.payload 0 1) ∧ (leAt r.payload 0 1 ≤ 31) ∧ (s1.crustServes = true) ∧ (s1.flag F.CRUST_STAT_PFW = false ∨ leAt r.payload 1 4 = 0) ∧ (v = s1.counter (leAt r.payload 0 1) + s1.pendingInc (leAt r.payload 0 1)) ∧ (v + leAt r.payload 1 4 < 2 ^ 64) ∧ (¬(leAt r.payload 1 4 = 0 ∧ s1.pendingInc (leAt r.payload 0 1) = 0))) ∧
    (∃ (r : Req) (s : State) (x : Option Sess) (s1 : State), Started s r 9 4 x s1 ∧ (r.payload.length = 6) ∧ (leAt r.payload 4 2 < 1 ∨ 64 < leAt r.payload 4 2)) ∧
    (∃ (r : Req) (s : State) (x : Option Sess) (s1 : State), Started s r 9 4 x s1 ∧ (r.payload.length = 6) ∧ (1 ≤ leAt r.payload 4 2) ∧ (leAt r.payload 4 2 ≤ 64) ∧ (s1.crustServes = false)) ∧
    (∃ (r : Req) (s : State) (x : Option Sess) (s1 : State) (es : List LogEnt), Started s r 9 4 x s1 ∧ (r.payload.length = 6) ∧ (1 ≤ leAt r.payload 4 2) ∧ (leAt r.payload 4 2 ≤ 64) ∧ (s1.crustServes = true) ∧ (es = (s1.crust.reported.filter (fun e => e.lseq == leAt r.payload 0 4 || newer 32 e.lseq (leAt r.payload 0 4))).take (leAt r.payload 4 2)) ∧ (es = [])) ∧
    (∃ (r : Req) (s : State) (x : Option Sess) (s1 : State), Started s r 9 4 x s1 ∧ r.payload.length = 6 ∧ leAt r.payload 4 2 = 1 ∧ s1.crustServes = true ∧ (s1.crust.reported.filter (fun e => e.lseq == leAt r.payload 0 4 || newer 32 e.lseq (leAt r.payload 0 4))).length = 1) ∧
    (∃ (r : Req) (s : State) (x : Option Sess) (s1 : State), Started s r 9 5 x s1 ∧ (r.payload.length = 0) ∧ (s1.crust.compact ≠ none)) ∧
    (∃ (r : Req) (s : State) (x : Option Sess) (s1 : State), Started s r 9 5 x s1 ∧ (r.payload.length = 0) ∧ (s1.crust.compact = none)) ∧
    (∃ s : State, s.regOk (.core .steward 1) A.CRUST_RDREQ = true ∧ (((s.setF F.CRUST_RDREQ_KEY (3 : Fin 1024)).setFlag F.CRUST_RDREQ_KIND true).setF F.CRUST_RDREQ_DONE 0).crustServes = false) ∧
    (∃ s : State, s.regOk (.core .steward 1) A.CRUST_RDREQ = true ∧ (((s.setF F.CRUST_RDREQ_KEY (3 : Fin 1024)).setFlag F.CRUST_RDREQ_KIND true).setF F.CRUST_RDREQ_DONE 0).crustServes = true) ∧
    (∃ s : State, s.regOk (.core .steward 1) A.CRUST_RDREQ = true ∧ (((s.setF F.CRUST_RDREQ_KEY (3 : Fin 1024)).setFlag F.CRUST_RDREQ_KIND false).setF F.CRUST_RDREQ_DONE 0).crustServes = true) ∧
    (∃ (who : Who) (words : List Word) (s : State), (s.regOk who (A.CRUST_WPORT 0) = true)) ∧
    ((∃ (s : State) (ws : List Nat), ws = s.crust.wport ++ [0] ∧ ws.length ≠ 2) ∧ wportNeed 1 = 2 ∧ wportNeed 2 = 3 ∧ wportNeed 3 = 0) ∧
    (∃ (w : Nat), (bits w 31 25 = 0)) ∧
    (∃ (s : State) (ws : List Nat) (w : Nat), (ws.headD 0 = w)) ∧
    (∃ (ok : Bool) (s : State), (s.crust.queue = [] ∨ s.crustServes = false)) ∧
    (∃ (s : State), (s.crust.queue ≠ []) ∧ (s.crustServes = true)) ∧
    (∃ w t, queued.crust.queue.head? = some w ∧ queued.crustServes = true ∧ queued.crustPop.crustHead w = some t) ∧
    (∃ w, fullStore.crust.queue.head? = some w ∧ fullStore.crustServes = true ∧ fullStore.crustPop.crustHead w = none) ∧
    (live.flag F.UPD_STAT_TRIAL = false ∧ (({ kind := 0, key := 1, off := 0, data := [1#8], req := none } : CrustWr)).kind = 0) ∧
    (∃ s : State, s.crust.logRoom = none) ∧
    (∃ (index : Bool) (torn : Bool) (s : State), (s.f F.CRUST_STAT_STATE ≠ 1)) ∧
    (∃ (torn : Bool) (s : State), (s.f F.CRUST_STAT_STATE = 1) ∧ (torn = false ∨ s.crust.openSec = none)) ∧
    (∃ (torn : Bool) (s : State), (s.f F.CRUST_STAT_STATE = 1) ∧ (torn = false ∨ s.crust.openSec = none)) ∧
    (∃ (s : State) (i : Nat), s.f F.CRUST_STAT_STATE = 1 ∧ s.crust.openSec = some i) ∧
    (∃ (s : State) (i : Nat), s.f F.CRUST_STAT_STATE = 1 ∧ s.crust.openSec = some i) ∧
    (∃ (damaged : List Word) (s : State), (s.f F.CRUST_STAT_STATE ≠ 1) ∧ (s.f F.CRUST_STAT_STATE ≠ 2)) ∧
    ((store 2 live).f F.CRUST_STAT_STATE = 2) ∧
    (live.crust.recs.any (fun r => r.seq == 4 && r.good) = false ∧
    (live.modCrust (fun c => { c with recs := [{ (default : CrustRec) with seq := 4, good := true }] })).crust.recs.any (fun r => r.seq == 4 && r.good) = true) ∧
    (∃ (s : State), (s.f F.CRUST_STAT_STATE = 3 ∧ s.crust.freeGen ≤ 3 ∧ s.crust.compact = none ∧ s.maintBlock 1 = none)) ∧
    (∃ (s : State), (¬(s.f F.CRUST_STAT_STATE = 3 ∧ s.crust.freeGen ≤ 3 ∧ s.crust.compact = none ∧ s.maintBlock 1 = none))) ∧
    (∃ (s : State), (s.f F.CRUST_STAT_STATE ≠ 3 ∨ s.crust.compact = none)) ∧
    (∃ s : State, s.f F.CRUST_STAT_STATE = 3 ∧ s.crust.compact = some (some default) ∧ (s.modCrust (fun c => { c with compact := none })).mustStop 1 = true) ∧
    (∃ s : State, s.f F.CRUST_STAT_STATE = 3 ∧ s.crust.compact = some (some default) ∧ (s.modCrust (fun c => { c with compact := none })).mustStop 1 = false) ∧
    (∃ s : State, s.f F.CRUST_STAT_STATE = 3 ∧ s.crust.compact = some none) ∧
    (∃ (ok : Bool) (s : State), (s.crust.erasing = [] ∨ s.crust.suspended = true)) ∧
    (∃ (s : State) (i : Nat) (rest : List Nat), (s.crust.erasing = i :: rest) ∧ (s.crust.suspended = false)) ∧
    (∃ s : State, s.crust.erasing = [3] ∧ s.crust.suspended = false ∧ ∃ t, t = (s.modCrust (fun c => { c with erasing := [], secs := tblMod c.secs 3 (fun x => { x with st := 0, used := 0, erases := x.erases + 1 }) })).wearRegs ∧ 9000 ≤ (tblGet t.crust.secs 3).erases ∧ t.crust.wearRaised = false) ∧
    (∃ s : State, s.crust.erasing = [3] ∧ s.crust.suspended = false ∧ ∃ t, t = (s.modCrust (fun c => { c with erasing := [], secs := tblMod c.secs 3 (fun x => { x with st := 0, used := 0, erases := x.erases + 1 }) })).wearRegs ∧ (tblGet t.crust.secs 3).erases < 9000) ∧
    (∃ (s : State), (s.crust.queue = [])) ∧
    (∃ w, fullStore.crust.queue.head? = some w ∧ fullStore.crustPop.crustHead w = none) ∧
    (∃ w, queued.crust.queue.head? = some w ∧ (queued.crustPop.crustHead w).isSome = true) :=
  ⟨by exact ⟨rq 9 1 ([0#8, 4#8, 0#8, 1#8]), withCmd (live), _, _, started_rq _ 9 1 _ (by decide +kernel) ⟨_, rfl, by decide, by decide +kernel, by decide⟩, by decide +kernel⟩,
   by exact ⟨rq 9 1 ([0#8, 0#8, 64#8, 1#8]), withCmd (live), _, _, started_rq _ 9 1 _ (by decide +kernel) ⟨_, rfl, by decide, by decide +kernel, by decide⟩, by decide +kernel⟩,
   by exact ⟨rq 9 1 ([0#8, 0#8, 0#8, 0#8]), withCmd (live), _, _, started_rq _ 9 1 _ (by decide +kernel) ⟨_, rfl, by decide, by decide +kernel, by decide⟩, by decide +kernel⟩,
   by exact ⟨rq 9 1 ([0#8, 0#8, 0#8, 1#8]), withCmd (store 1 live), _, _, started_rq _ 9 1 _ (by decide +kernel) ⟨_, rfl, by decide, by decide +kernel, by decide⟩, by decide +kernel⟩,
   by exact ⟨rq 9 1 ([0#8, 0#8, 0#8, 1#8]), withCmd (store 3 live), _, _, started_rq _ 9 1 _ (by decide +kernel) ⟨_, rfl, by decide, by decide +kernel, by decide⟩, by decide +kernel⟩,
   by exact ⟨rq 9 2 ([]), withCmd (live), _, _, started_rq _ 9 2 _ (by decide +kernel) ⟨_, rfl, by decide, by decide +kernel, by decide⟩, by decide +kernel⟩,
   by exact ⟨rq 9 2 (List.replicate 68 0#8), withCmd (live), _, _, started_rq _ 9 2 _ (by decide +kernel) ⟨_, rfl, by decide, by decide +kernel, by decide⟩, by decide +kernel⟩,
   by exact ⟨rq 9 2 ([0#8, 4#8, 0#8, 0#8]), withCmd (live), _, _, started_rq _ 9 2 _ (by decide +kernel) ⟨_, rfl, by decide, by decide +kernel, by decide⟩, by decide +kernel⟩,
   by exact ⟨rq 9 2 ([0#8, 0#8, 64#8, 0#8]), withCmd (live), _, _, started_rq _ 9 2 _ (by decide +kernel) ⟨_, rfl, by decide, by decide +kernel, by decide⟩, by decide +kernel⟩,
   by exact ⟨rq 9 2 ([0#8, 0#8, 0#8, 0#8]), withCmd (store 1 live), _, _, started_rq _ 9 2 _ (by decide +kernel) ⟨_, rfl, by decide, by decide +kernel, by decide⟩, by decide +kernel⟩,
   by exact ⟨rq 9 2 ([0#8, 0#8, 0#8, 0#8]), withCmd (store 3 live), _, _, started_rq _ 9 2 _ (by decide +kernel) ⟨_, rfl, by decide, by decide +kernel, by decide⟩, by decide +kernel⟩,
   by exact ⟨rq 9 3 ([7#8, 0#8, 0#8, 0#8, 0#8]), withCmd (live), _, _, started_rq _ 9 3 _ (by decide +kernel) ⟨_, rfl, by decide, by decide +kernel, by decide⟩, by decide +kernel⟩,
   by exact ⟨rq 9 3 ([8#8, 0#8, 0#8, 0#8, 0#8]), withCmd (live), _, _, started_rq _ 9 3 _ (by decide +kernel) ⟨_, rfl, by decide, by decide +kernel, by decide⟩, by decide +kernel⟩,
   by exact ⟨rq 9 3 [8#8, 1#8, 0#8, 0#8, 0#8], withCmd (store 3 { live with crust := { live.crust with recs := [{ sec := 0, typ := 2, trial := false, bank := 0, key := 8, schema := 0, seq := 1, payload := List.replicate 8 255#8, good := true }] } }), _, _, started_rq _ 9 3 _ (by decide +kernel) ⟨_, rfl, by decide, by decide +kernel, by decide⟩, by decide +kernel⟩,
   by exact ⟨rq 9 3 ([8#8, 0#8, 0#8, 0#8, 0#8]), withCmd (store 3 live), _, _, 0, started_rq _ 9 3 _ (by decide +kernel) ⟨_, rfl, by decide, by decide +kernel, by decide⟩, by decide +kernel⟩,
   by exact ⟨rq 9 3 ([8#8, 1#8, 0#8, 0#8, 0#8]), withCmd (store 3 live), _, _, 0, started_rq _ 9 3 _ (by decide +kernel) ⟨_, rfl, by decide, by decide +kernel, by decide⟩, by decide +kernel⟩,
   by exact ⟨rq 9 4 (List.replicate 6 0#8), withCmd (live), _, _, started_rq _ 9 4 _ (by decide +kernel) ⟨_, rfl, by decide, by decide +kernel, by decide⟩, by decide +kernel⟩,
   by exact ⟨rq 9 4 ([0#8, 0#8, 0#8, 0#8, 1#8, 0#8]), withCmd (live), _, _, started_rq _ 9 4 _ (by decide +kernel) ⟨_, rfl, by decide, by decide +kernel, by decide⟩, by decide +kernel⟩,
   by exact ⟨rq 9 4 ([0#8, 0#8, 0#8, 0#8, 1#8, 0#8]), withCmd (store 3 live), _, _, [], started_rq _ 9 4 _ (by decide +kernel) ⟨_, rfl, by decide, by decide +kernel, by decide⟩, by decide +kernel⟩,
   by exact ⟨rq 9 4 [0#8, 0#8, 0#8, 0#8, 1#8, 0#8], withCmd ((store 3 live).logAdd 1 2), _, _, started_rq _ 9 4 _ (by decide +kernel) ⟨_, rfl, by decide, by decide +kernel, by decide⟩, by decide +kernel⟩,
   by exact ⟨rq 9 5 ([]), withCmd ({ live with crust := { live.crust with compact := some none } }), _, _, started_rq _ 9 5 _ (by decide +kernel) ⟨_, rfl, by decide, by decide +kernel, by decide⟩, by decide +kernel⟩,
   by exact ⟨rq 9 5 ([]), withCmd (live), _, _, started_rq _ 9 5 _ (by decide +kernel) ⟨_, rfl, by decide, by decide +kernel, by decide⟩, by decide +kernel⟩,
   by exact ⟨store 1 live, by decide +kernel⟩,
   by exact ⟨store 3 live, by decide +kernel⟩,
   by exact ⟨store 3 live, by decide +kernel⟩,
   by exact ⟨.core .steward 1, [], live, by decide +kernel⟩,
   by exact ⟨⟨live, _, rfl, by decide⟩, by decide⟩,
   by exact ⟨0, by decide +kernel⟩,
   by exact ⟨live, [0], 0, by decide +kernel⟩,
   by exact ⟨true, live, by decide +kernel⟩,
   by exact ⟨queued, by decide +kernel⟩,
   by exact ⟨_, _, rfl, by decide +kernel, Option.some_get (show (queued.crustPop.crustHead _).isSome = true by decide +kernel) |>.symm⟩,
   by exact ⟨_, rfl, by decide +kernel⟩,
   by decide +kernel,
   by exact ⟨{ live with crust := { live.crust with logCnt := 2047, secs := [(11, { (default : CrustSec) with st := 2 })] } }, by decide⟩,
   by exact ⟨true, false, store 3 live, by decide +kernel⟩,
   by exact ⟨false, store 1 live, by decide +kernel⟩,
   by exact ⟨false, store 1 live, by decide +kernel⟩,
   by exact ⟨{ store 1 live with crust := { live.crust with secs := [(0, { (default : CrustSec) with st := 1 })] } }, 0, by decide +kernel⟩,
   by exact ⟨{ store 1 live with crust := { live.crust with secs := [(0, { (default : CrustSec) with st := 1 })] } }, 0, by decide +kernel⟩,
   by exact ⟨[], store 3 live, by decide +kernel⟩,
   by decide +kernel,
   by decide +kernel,
   by exact ⟨fullStore, by decide +kernel⟩,
   by exact ⟨live, by decide +kernel⟩,
   by exact ⟨live, by decide +kernel⟩,
   by exact ⟨{ store 3 live with crust := { live.crust with compact := some (some default) }, cmd := { live.cmd with stopAsked := [1] } }, by decide +kernel⟩,
   by exact ⟨{ store 3 live with crust := { live.crust with compact := some (some default) } }, by decide +kernel⟩,
   by exact ⟨{ store 3 live with crust := { live.crust with compact := some none } }, by decide +kernel⟩,
   by exact ⟨true, live, by decide +kernel⟩,
   by exact ⟨erasing1 0, 3, [], by decide +kernel⟩,
   by exact ⟨erasing1 8999, by decide +kernel, by decide +kernel, _, rfl, by decide +kernel⟩,
   by exact ⟨erasing1 1, by decide +kernel, by decide +kernel, _, rfl, by decide +kernel⟩,
   by exact ⟨live, by decide +kernel⟩,
   by exact ⟨_, rfl, by decide +kernel⟩,
   by exact ⟨_, rfl, by decide +kernel⟩⟩

theorem witness_EnclaveCommandsActAsTheTablesSay :
    (∃ (r : Req) (s : State) (x : Option Sess) (s1 : State), Started s r 8 1 x s1 ∧ (r.payload.length = 32)) ∧
    (∃ (r : Req) (s : State) (x : Option Sess) (s1 : State), Started s r 8 2 x s1 ∧ (63 < leAt r.payload 0 1)) ∧
    (∃ (r : Req) (s : State) (x : Option Sess) (s1 : State), Started s r 8 2 x s1 ∧ (leAt r.payload 0 1 ≤ 63) ∧ (r.payload.length ≠ 89 ∧ r.payload.length ≠ 185)) ∧
    (∃ (r : Req) (s : State) (x : Option Sess) (s1 : State), Started s r 8 2 x s1 ∧ r.payload.length = 89 ∧ leAt r.payload 0 1 = 0 ∧ (s1.loadKey false 0 (r.payload.drop 1)).code ≠ 0) ∧
    (∀ (_ : ∀ k i a c t, Config.gcmDec k i a c t = some (List.replicate 48 0#8)), ∃ (r : Req) (s : State) (x : Option Sess) (s1 : State), Started s r 8 2 x s1 ∧ r.payload.length = 89 ∧ leAt r.payload 0 1 = 0 ∧ (s1.loadKey false 0 (r.payload.drop 1)).code = 0 ∧ (s1.loadKey false 0 (r.payload.drop 1)).res = []) ∧
    (∀ (_ : ∀ k i a c t, Config.gcmDec k i a c t = some (List.replicate 48 0#8)), ∃ (r : Req) (s : State) (x : Option Sess) (s1 : State), Started s r 8 2 x s1 ∧ r.payload.length = 185 ∧ leAt r.payload 0 1 = 0 ∧ (s1.loadKey false 0 (r.payload.drop 1)).code = 0 ∧ (s1.loadKey false 0 (r.payload.drop 1)).res ≠ []) ∧
    (∃ (r : Req) (s : State) (x : Option Sess) (s1 : State), Started s r 8 3 x s1 ∧ (r.payload.length = 0) ∧ (3 ≤ s1.encl.fails)) ∧
    (∃ (r : Req) (s : State) (x : Option Sess) (s1 : State), Started s r 8 3 x s1 ∧ (r.payload.length = 0) ∧ (s1.encl.fails < 3) ∧ (s1.flag F.ENCL_STAT_TRNG = false)) ∧
    (∃ (r : Req) (s : State) (x : Option Sess) (s1 : State), Started s r 8 3 x s1 ∧ r.payload.length = 0 ∧ s1.encl.fails < 3 ∧ s1.flag F.ENCL_STAT_TRNG = true) ∧
    (∃ (r : Req) (s : State) (x : Option Sess) (s1 : State), Started s r 8 4 x s1 ∧ (r.payload.length = 196) ∧ (16 ≤ leAt r.payload 0 1)) ∧
    (∃ (r : Req) (s : State) (x : Option Sess) (s1 : State), Started s r 8 4 x s1 ∧ (r.payload.length = 196) ∧ (leAt r.payload 0 1 < 16) ∧ (leAt r.payload 1 1 ≠ 0)) ∧
    (∃ (r : Req) (s : State) (x : Option Sess) (s1 : State), Started s r 8 4 x s1 ∧ (r.payload.length = 196) ∧ (leAt r.payload 0 1 < 16) ∧ (leAt r.payload 1 1 = 0) ∧ (leAt r.payload 2 2 ≠ 0)) ∧
    (∀ (_ : Config.sha384 (List.replicate 96 0#8) = Config.fuseDbgAuth) (_ : ∀ k m g, Config.ecdsaVerify 3 k m g = true), ∃ (r : Req) (s : State) (x : Option Sess) (s1 : State), Started s r 8 4 x s1 ∧ r.payload.length = 196 ∧ leAt r.payload 0 1 < 16 ∧ leAt r.payload 1 1 = 0 ∧ leAt r.payload 2 2 = 0 ∧ (∃ d, s1.encl.challenge = some d ∧ some d.sess = x.map (fun (y : Sess) => y.id) ∧ s1.now < d.at_ + 60000000000 ∧ Config.sha384 ((r.payload.drop 4).take 96) = Config.fuseDbgAuth ∧ Config.ecdsaVerify 3 ((r.payload.drop 4).take 96) (Config.sha384 (d.rec_ ++ r.payload.take 1)) (r.payload.drop 100) = true)) ∧
    (∃ (r : Req) (s : State) (x : Option Sess) (s1 : State), Started s r 8 4 x s1 ∧ r.payload.length = 196 ∧ leAt r.payload 0 1 < 16 ∧ leAt r.payload 1 1 = 0 ∧ leAt r.payload 2 2 = 0 ∧ ¬(∃ d, s1.encl.challenge = some d ∧ some d.sess = x.map (fun (y : Sess) => y.id) ∧ s1.now < d.at_ + 60000000000 ∧ Config.sha384 ((r.payload.drop 4).take 96) = Config.fuseDbgAuth ∧ Config.ecdsaVerify 3 ((r.payload.drop 4).take 96) (Config.sha384 (d.rec_ ++ r.payload.take 1)) (r.payload.drop 100) = true)) ∧
    ((1 : Nat) ≠ 0) ∧
    (live.encl.running = none) ∧
    (∃ (s : State), s.encl.running = some 0) :=
  ⟨by exact ⟨rq 8 1 (List.replicate 32 0#8), withCmd (live), _, _, started_rq _ 8 1 _ (by decide +kernel) ⟨_, rfl, by decide, by decide +kernel, by decide⟩, by decide +kernel⟩,
   by exact ⟨rq 8 2 ([64#8]), withCmd (live), _, _, started_rq _ 8 2 _ (by decide +kernel) ⟨_, rfl, by decide, by decide +kernel, by decide⟩, by decide +kernel⟩,
   by exact ⟨rq 8 2 ([]), withCmd (live), _, _, started_rq _ 8 2 _ (by decide +kernel) ⟨_, rfl, by decide, by decide +kernel, by decide⟩, by decide +kernel⟩,
   by exact ⟨rq 8 2 (List.replicate 89 0#8), withCmd (live), _, _, started_rq _ 8 2 _ (by decide +kernel) ⟨_, rfl, by decide, by decide +kernel, by decide⟩, by decide, by decide, by decide +kernel⟩,
   by exact fun a => ⟨rq 8 2 ((0#8 :: 0x57#8 :: 0x4B#8 :: 1#8 :: 0#8 :: 0#8 :: 0#8 :: 1#8 :: List.replicate 81 0#8)), withCmd (live), _, _, started_rq _ 8 2 _ (by decide +kernel) ⟨_, rfl, by decide, by decide +kernel, by decide⟩, by decide, by decide, by (simp only [State.loadKey, State.loadSealed]; rw [if_pos (by decide), if_neg (by decide), if_neg (by decide), if_neg (by decide +kernel), if_neg (by decide +kernel), a]), by (simp only [State.loadKey, State.loadSealed]; rw [if_pos (by decide), if_neg (by decide), if_neg (by decide), if_neg (by decide +kernel), if_neg (by decide +kernel), a])⟩,
   by exact fun a => ⟨rq 8 2 ((0#8 :: 0x57#8 :: 0x4B#8 :: 1#8 :: 2#8 :: 0#8 :: 0#8 :: 1#8 :: List.replicate 177 0#8)), withCmd (live.setF F.ENCL_STAT_TRNG 1), _, _, started_rq _ 8 2 _ (by decide +kernel) ⟨_, rfl, by decide, by decide +kernel, by decide⟩, by decide, by decide, by (simp only [State.loadKey, State.loadImport]; rw [if_neg (by decide), if_pos (by decide), if_neg (by decide), if_neg (by decide), if_neg (by decide +kernel), if_neg (by decide +kernel), if_neg (by decide +kernel), a]), by (simp only [State.loadKey, State.loadImport]; rw [if_neg (by decide), if_pos (by decide), if_neg (by decide), if_neg (by decide), if_neg (by decide +kernel), if_neg (by decide +kernel), if_neg (by decide +kernel), a]; exact List.cons_ne_nil _ _)⟩,
   by exact ⟨rq 8 3 ([]), withCmd ({ live with encl := { live.encl with fails := 3 } }), _, _, started_rq _ 8 3 _ (by decide +kernel) ⟨_, rfl, by decide, by decide +kernel, by decide⟩, by decide +kernel⟩,
   by exact ⟨rq 8 3 ([]), withCmd (live.setF F.ENCL_STAT_TRNG 0), _, _, started_rq _ 8 3 _ (by decide +kernel) ⟨_, rfl, by decide, by decide +kernel, by decide⟩, by decide +kernel⟩,
   by exact ⟨rq 8 3 [], withCmd (live.setF F.ENCL_STAT_TRNG 1), _, _, started_rq _ 8 3 _ (by decide +kernel) ⟨_, rfl, by decide, by decide +kernel, by decide⟩, by decide +kernel⟩,
   by exact ⟨rq 8 4 (List.replicate 196 255#8), withCmd (live), _, _, started_rq _ 8 4 _ (by decide +kernel) ⟨_, rfl, by decide, by decide +kernel, by decide⟩, by decide +kernel⟩,
   by exact ⟨rq 8 4 (1#8 :: List.replicate 195 1#8), withCmd (live), _, _, started_rq _ 8 4 _ (by decide +kernel) ⟨_, rfl, by decide, by decide +kernel, by decide⟩, by decide +kernel⟩,
   by exact ⟨rq 8 4 (1#8 :: 0#8 :: List.replicate 194 1#8), withCmd (live), _, _, started_rq _ 8 4 _ (by decide +kernel) ⟨_, rfl, by decide, by decide +kernel, by decide⟩, by decide +kernel⟩,
   by exact fun a b => ⟨rq 8 4 (List.replicate 196 0#8), withCmd ({ live with encl := { live.encl with challenge := some ⟨[], 1, 0⟩ } }), _, _, started_rq _ 8 4 _ (by decide +kernel) ⟨_, rfl, by decide, by decide +kernel, by decide⟩, by decide +kernel, by decide +kernel, by decide +kernel, by decide +kernel, _, rfl, by decide +kernel, by decide +kernel, a, b _ _ _⟩,
   by exact ⟨rq 8 4 (List.replicate 196 0#8), withCmd (live), _, _, started_rq _ 8 4 _ (by decide +kernel) ⟨_, rfl, by decide, by decide +kernel, by decide⟩, by decide +kernel, by decide +kernel, by decide +kernel, by decide +kernel, fun ⟨d, h, _⟩ => absurd (h.symm.trans (show _ = none by decide +kernel)) (by intro e; cases e)⟩,
   by decide,
   by decide,
   by exact ⟨{ live with encl := { live.encl with running := some 0 } }, rfl⟩⟩

/-- The bytes of a good request: IDENTIFY to this device. -/
def idBytes : List Byte := (reqPkt { rq0 [] with tag := none } 1 1).bytes
/-- The bytes of a good reply, SEQ 7. -/
def replyBytes (st : Nat) : List Byte := { reqPkt { rq0 [] with tag := none } 1 1 with dst := 0x1000, stat := st }.bytes
/-- A request with SEQ 7 was forwarded to address 5 from the service port. -/
def fwdOne : State :=
  let t := withCmd live
  { t with cmd := { t.cmd with fwd := [{ tp := 3, ep := 0, seq := 7, src := 0, dst := 5, grp := 1, op := 1, sess := 0, at_ := 0, acc := false }] } }
/-- ISO 15765-2 is enabled; `rx` says whether a message is being received. -/
def iso (rx : Bool) : State :=
  let t := ((withCmd live).setF F.CMD_ISOTP_CFG_EN 1).setF (F.CAN_STAT_TRX 0) 1 |>.setF (F.CAN_STAT_STATE 0) 2 |>.setF (F.TIDE_N_STAT_IGNORE 0) 0
  { t with cmd := { t.cmd with isotp := { t.cmd.isotp with rxBusy := rx, rxLen := 20, rxSn := 1 } } }
/-- Link 0 is up; a device with address 5. -/
def linked (n : Nat) : State := (live.setF F.RING_STATUS_LINKS n).setF F.RING_ADDR_ADDR 5


theorem witness_TransportsDeliverPacketsAsTheRulesSay :
    ((live.tpOn 3 = false ∧ (withCmd live).tpOn 3 = true ∧ (withCmd live).tpOn 4 = true ∧ (withCmd live).maxPkt 3 < (List.replicate 5000 0#8).length) ∧ (pktCheck [] = some .len ∧ pktCheck (List.replicate 20 0#8) = some .sync) ∧
    (pktCheck idBytes = none ∧ idBytes.length ≤ (withCmd live).maxPkt 3) ∧ (pktCheck (replyBytes 1) = none ∧ (parsePkt (replyBytes 1)).type = 1 ∧ (replyBytes 1).length ≤ (withCmd live).maxPkt 4)) ∧
    (∃ w, fwdOne.cmd.fwd.find? (fun w => w.dst == 5 && w.seq == (parsePkt (replyBytes 1)).seq) = some w ∧ fwdOne.cmd.fwd.find? (fun w => w.dst == 5 && w.seq == (parsePkt (replyBytes 0)).seq) = some w ∧
    (parsePkt (replyBytes 1)).type = 1 ∧ (parsePkt (replyBytes 1)).stat = stAccepted ∧ (parsePkt (replyBytes 0)).stat ≠ stAccepted) ∧
    (live.cmd.fwd.find? (fun w => w.dst == 5 && w.seq == (parsePkt (replyBytes 0)).seq) = none) ∧
    (∃ (brlSrc : BitVec 12) (bytes : List Byte) (s : State), (s.tpOn 4 = true ∧ s.brlTakes = true ∧ pktCheck bytes = none ∧ ((parsePkt bytes).type = 1 ∨ (parsePkt bytes).type = 3))) ∧
    (∃ (brlSrc : BitVec 12) (bytes : List Byte) (s : State), (¬(s.tpOn 4 = true ∧ s.brlTakes = true ∧ pktCheck bytes = none ∧ ((parsePkt bytes).type = 1 ∨ (parsePkt bytes).type = 3)))) ∧
    (∃ (rdy : Bool) (room : Fin 65537) (bytes : List Byte) (s : State), (hostRdy rdy room = false)) ∧
    (∃ b : List Byte, hostRdy true 65536 = true ∧ (65536 : Fin 65537).val < b.length) ∧
    (hostRdy true 65536 = true ∧ idBytes.length ≤ (65536 : Fin 65537).val) ∧
    (∃ (rdy : Bool) (room : Fin 65537) (tlen : BitVec 16) (s : State), (hostRdy rdy room = false)) ∧
    (∃ (rdy : Bool) (room : Fin 65537) (tlen : BitVec 16) (s : State) (t : State), (hostRdy rdy room = true) ∧ (s.cmd.hostQ = []) ∧ (t = ({ s with cmd := { s.cmd with hostOvf := false, hostProto := false } }).emit .host (s.hostStatus ++ List.replicate tlen.toNat 0#8))) ∧
    (∃ (rdy : Bool) (room : Fin 65537) (tlen : BitVec 16) (s : State) (b : List Byte) (q : List (List Byte)) (t : State), (hostRdy rdy room = true) ∧ (s.cmd.hostQ = b :: q) ∧ (t = ({ s with cmd := { s.cmd with hostOvf := false, hostProto := false } }).emit .host (s.hostStatus ++ fitBytes tlen.toNat b)) ∧ (tlen.toNat < b.length)) ∧
    (∃ (rdy : Bool) (room : Fin 65537) (tlen : BitVec 16) (s : State) (b : List Byte) (q : List (List Byte)) (t : State), (hostRdy rdy room = true) ∧ (s.cmd.hostQ = b :: q) ∧ (t = ({ s with cmd := { s.cmd with hostOvf := false, hostProto := false } }).emit .host (s.hostStatus ++ fitBytes tlen.toNat b)) ∧ (b.length ≤ tlen.toNat)) ∧
    (∃ (rdy : Bool) (room : Fin 65537) (s : State), (hostRdy rdy room = true)) ∧
    (∃ (rdy : Bool) (room : Fin 65537) (s : State), (hostRdy rdy room = false)) ∧
    (live.cmd.hostQ = [] ∧ ∃ s : State, s.cmd.hostQ = idBytes :: []) ∧
    (∃ (eth : Fin 2) (ep : Nat) (fragment : Bool) (bytes : List Byte) (s : State), (fragment = true ∨ s.ethUp eth.val = false)) ∧
    (∃ (eth : Fin 2) (ep : Nat) (bytes : List Byte) (s : State), (s.ethUp eth.val = true)) ∧
    (∃ (bytes : List Byte) (s : State), (s.flag F.USBS_STAT_CONFIGURED = true)) ∧
    (∃ (bytes : List Byte) (s : State), (s.flag F.USBS_STAT_CONFIGURED = false)) ∧
    (∃ (bytes : List Byte) (s : State), (s.upd.recov = 1)) ∧
    (∃ (bytes : List Byte) (s : State), (s.upd.recov ≠ 1)) ∧
    (∃ (rid : BitVec 32) (data : List (BitVec 8)) (s : State), (s.flag F.CMD_ISOTP_CFG_EN = false ∨ s.tpOn 5 = false ∨ data = [] ∨ s.isoMine rid.toNat = false ∨ s.canHears (s.f F.CMD_ISOTP_CFG_CHANNEL) = false)) ∧
    (∃ (rid : BitVec 32) (data : List (BitVec 8)) (s : State) (q : Nat × List Byte), (s.flag F.CMD_ISOTP_CFG_EN = true ∧ s.tpOn 5 = true ∧ data ≠ [] ∧ s.isoMine rid.toNat = true ∧ s.canHears (s.f F.CMD_ISOTP_CFG_CHANNEL) = true) ∧ (leAt data 0 1 / 16 = 0) ∧ (q = (if leAt data 0 1 = 0 ∧ 8 < data.length then (leAt data 1 1, data.drop 2) else (leAt data 0 1, data.drop 1))) ∧ (q.1 = 0 ∨ q.2.length < q.1)) ∧
    (∃ (rid : BitVec 32) (data : List (BitVec 8)) (s : State) (q : Nat × List Byte), (s.flag F.CMD_ISOTP_CFG_EN = true ∧ s.tpOn 5 = true ∧ data ≠ [] ∧ s.isoMine rid.toNat = true ∧ s.canHears (s.f F.CMD_ISOTP_CFG_CHANNEL) = true) ∧ (leAt data 0 1 / 16 = 0) ∧ (q = (if leAt data 0 1 = 0 ∧ 8 < data.length then (leAt data 1 1, data.drop 2) else (leAt data 0 1, data.drop 1))) ∧ (1 ≤ q.1) ∧ (q.1 ≤ q.2.length)) ∧
    (∃ (rid : BitVec 32) (data : List (BitVec 8)) (s : State), (s.flag F.CMD_ISOTP_CFG_EN = true ∧ s.tpOn 5 = true ∧ data ≠ [] ∧ s.isoMine rid.toNat = true ∧ s.canHears (s.f F.CMD_ISOTP_CFG_CHANNEL) = true) ∧ (leAt data 0 1 / 16 = 1)) ∧
    (∃ (rid : BitVec 32) (data : List (BitVec 8)) (s : State), (s.flag F.CMD_ISOTP_CFG_EN = true ∧ s.tpOn 5 = true ∧ data ≠ [] ∧ s.isoMine rid.toNat = true ∧ s.canHears (s.f F.CMD_ISOTP_CFG_CHANNEL) = true) ∧ (leAt data 0 1 / 16 = 2) ∧ (s.cmd.isotp.rxBusy = false)) ∧
    (∃ (rid : BitVec 32) (data : List (BitVec 8)) (s : State), (s.flag F.CMD_ISOTP_CFG_EN = true ∧ s.tpOn 5 = true ∧ data ≠ [] ∧ s.isoMine rid.toNat = true ∧ s.canHears (s.f F.CMD_ISOTP_CFG_CHANNEL) = true) ∧ (leAt data 0 1 / 16 = 2) ∧ (s.cmd.isotp.rxBusy = true) ∧ (leAt data 0 1 % 16 = s.cmd.isotp.rxSn)) ∧
    (∃ (rid : BitVec 32) (data : List (BitVec 8)) (s : State), (s.flag F.CMD_ISOTP_CFG_EN = true ∧ s.tpOn 5 = true ∧ data ≠ [] ∧ s.isoMine rid.toNat = true ∧ s.canHears (s.f F.CMD_ISOTP_CFG_CHANNEL) = true) ∧ (leAt data 0 1 / 16 = 2) ∧ (s.cmd.isotp.rxBusy = true) ∧ (leAt data 0 1 % 16 ≠ s.cmd.isotp.rxSn)) ∧
    (∃ (rid : BitVec 32) (data : List (BitVec 8)) (s : State), (s.flag F.CMD_ISOTP_CFG_EN = true ∧ s.tpOn 5 = true ∧ data ≠ [] ∧ s.isoMine rid.toNat = true ∧ s.canHears (s.f F.CMD_ISOTP_CFG_CHANNEL) = true) ∧ (leAt data 0 1 / 16 = 3)) ∧
    (∃ (rid : BitVec 32) (data : List (BitVec 8)) (s : State), (s.flag F.CMD_ISOTP_CFG_EN = true ∧ s.tpOn 5 = true ∧ data ≠ [] ∧ s.isoMine rid.toNat = true ∧ s.canHears (s.f F.CMD_ISOTP_CFG_CHANNEL) = true) ∧ (3 < leAt data 0 1 / 16)) ∧
    (∃ (s : State), (s.cmd.isotp.rxBusy = true)) ∧
    (∃ (s : State), (s.cmd.isotp.rxBusy = false)) ∧
    ((7 : Nat) ≤ isoSfMax (live.flag F.CMD_ISOTP_CFG_FD) ∧ isoSfMax (live.flag F.CMD_ISOTP_CFG_FD) < 4095) ∧
    ((iso true).cmd.isotp.rxLen ≤ (((iso true).cmd.isotp.rx ++ List.replicate 20 0#8).take (iso true).cmd.isotp.rxLen).length) ∧
    (∃ (who : Who) (value : Word) (s : State), (s.regOk who (A.CMD_ISOTP_CFG) = true) ∧ ((s.flag F.CMD_ISOTP_CFG_EN && bit value.toNat 4 && s.f F.CMD_ISOTP_CFG_CHANNEL == value.toNat % 16) = true)) ∧
    (∃ (who : Who) (value : Word) (s : State) (t : State), (s.regOk who (A.CMD_ISOTP_CFG) = true) ∧ ((s.flag F.CMD_ISOTP_CFG_EN && bit value.toNat 4 && s.f F.CMD_ISOTP_CFG_CHANNEL == value.toNat % 16) = false) ∧ (t = (s.isotpOff.plainKeep A.CMD_ISOTP_CFG value [F.CMD_ISOTP_CFG_EN]).setF F.CMD_ISOTP_CFG_EN 0) ∧ (bit value.toNat 4 = false)) ∧
    (∃ (s t : State), s.regOk (.core .steward 1) A.CMD_ISOTP_CFG = true ∧ s.flag F.CMD_ISOTP_CFG_EN = false ∧ bit (0x10#32).toNat 4 = true ∧ t = (s.isotpOff.plainKeep A.CMD_ISOTP_CFG 0x10#32 [F.CMD_ISOTP_CFG_EN]).setF F.CMD_ISOTP_CFG_EN 0 ∧ t.canReserved 0 63 = true) ∧
    (∃ (s t : State), s.regOk (.core .steward 1) A.CMD_ISOTP_CFG = true ∧ s.flag F.CMD_ISOTP_CFG_EN = false ∧ bit (0x10#32).toNat 4 = true ∧ t = (s.isotpOff.plainKeep A.CMD_ISOTP_CFG 0x10#32 [F.CMD_ISOTP_CFG_EN]).setF F.CMD_ISOTP_CFG_EN 0 ∧ t.canReserved 0 63 = false ∧ ∃ u e, t.claimAll 6 (isotpIds 0) = (u, some e)) ∧
    (∃ (s t : State), s.regOk (.core .steward 1) A.CMD_ISOTP_CFG = true ∧ s.flag F.CMD_ISOTP_CFG_EN = false ∧ bit (0x10#32).toNat 4 = true ∧ t = (s.isotpOff.plainKeep A.CMD_ISOTP_CFG 0x10#32 [F.CMD_ISOTP_CFG_EN]).setF F.CMD_ISOTP_CFG_EN 0 ∧ t.canReserved 0 63 = false ∧ ∃ u, t.claimAll 6 (isotpIds 0) = (u, none)) ∧
    (∃ (l : Fin 3) (lseq : BitVec 8) (dst : BitVec 12) (src : BitVec 12) (hops : BitVec 16) (bseq : BitVec 16) (payload : List Byte) (tag : List Byte) (s : State), (¬(s.peerBoot = true ∧ s.linkSt l = 2))) ∧
    (∃ (l : Fin 3) (lseq : BitVec 8) (dst : BitVec 12) (src : BitVec 12) (hops : BitVec 16) (bseq : BitVec 16) (payload : List Byte) (tag : List Byte) (s : State), (s.peerBoot = true ∧ s.linkSt l = 2) ∧ (pktCheck payload = none ∧ (parsePkt payload).type = 0)) ∧
    (∃ (l : Fin 3) (lseq : BitVec 8) (dst : BitVec 12) (src : BitVec 12) (hops : BitVec 16) (bseq : BitVec 16) (payload : List Byte) (tag : List Byte) (s : State), (s.peerBoot = true ∧ s.linkSt l = 2) ∧ (¬(pktCheck payload = none ∧ (parsePkt payload).type = 0))) ∧
    ((linked 3).linkSt 0 = 3 ∧ (linked 2).linkSt 0 ≠ 3 ∧ (linked 3).ownAddr = 5) :=
  ⟨by decide +kernel,
   by exact ⟨_, rfl, rfl, by decide +kernel⟩,
   by decide,
   by exact ⟨5, replyBytes 0, fwdOne, by decide +kernel⟩,
   by exact ⟨5, [], live, by decide +kernel⟩,
   by exact ⟨false, 0, [], live, by decide +kernel⟩,
   by exact ⟨List.replicate 65537 0#8, by decide, by rw [List.length_replicate]; decide⟩,
   by decide,
   by exact ⟨true, 4000, 5, live, by decide +kernel⟩,
   by exact ⟨true, 65536, 3, live, _, by decide +kernel, by decide +kernel, rfl⟩,
   by exact ⟨true, 65536, 3, { live with cmd := { live.cmd with hostQ := [idBytes] } }, idBytes, [], _, by decide +kernel, rfl, rfl, by decide +kernel⟩,
   by exact ⟨true, 65536, 20, { live with cmd := { live.cmd with hostQ := [idBytes] } }, idBytes, [], _, by decide +kernel, rfl, rfl, by decide +kernel⟩,
   by exact ⟨true, 5000, live, by decide +kernel⟩,
   by exact ⟨false, 5000, live, by decide +kernel⟩,
   by exact ⟨rfl, { live with cmd := { live.cmd with hostQ := [idBytes] } }, rfl⟩,
   by exact ⟨0, 0, true, [], live, by decide +kernel⟩,
   by exact ⟨0, 0, idBytes, live.setF (F.ETH_STAT_LINK 0) 1, by decide +kernel⟩,
   by exact ⟨idBytes, live.setF F.USBS_STAT_CONFIGURED 1, by decide +kernel⟩,
   by exact ⟨idBytes, live, by decide +kernel⟩,
   by exact ⟨idBytes, { live with upd := { live.upd with recov := 1 } }, by decide +kernel⟩,
   by exact ⟨idBytes, live, by decide +kernel⟩,
   by exact ⟨0, [], live, by decide +kernel⟩,
   by exact ⟨0, [2#8], iso false, (2, []), by decide +kernel⟩,
   by exact ⟨0, [2#8, 1#8, 1#8], iso false, (2, [1#8, 1#8]), by decide +kernel⟩,
   by exact ⟨0, [0x10#8, 20#8], iso false, by decide +kernel⟩,
   by exact ⟨0, [0x21#8], iso false, by decide +kernel⟩,
   by exact ⟨0, [0x21#8], iso true, by decide +kernel⟩,
   by exact ⟨0, [0x22#8], iso true, by decide +kernel⟩,
   by exact ⟨0, [0x30#8], iso false, by decide +kernel⟩,
   by exact ⟨0, [0x40#8], iso false, by decide +kernel⟩,
   by exact ⟨iso true, by decide +kernel⟩,
   by exact ⟨live, by decide +kernel⟩,
   by decide +kernel,
   by decide,
   by exact ⟨.core .steward 1, 0x10, (live.setF F.CMD_ISOTP_CFG_EN 1).setF F.CMD_ISOTP_CFG_CHANNEL 0, by decide +kernel⟩,
   by exact ⟨.core .steward 1, 0, live, _, by decide +kernel, by decide +kernel, rfl, by decide +kernel⟩,
   by exact ⟨live.setF (F.CAN_CTRL_TXF_N 0) 1, _, by decide +kernel, by decide +kernel, by decide, rfl, by decide +kernel⟩,
   by exact ⟨live.setOwner (resId 9 1023) 1, _, by decide +kernel, by decide +kernel, by decide, rfl, by decide +kernel, _, _, rfl⟩,
   by exact ⟨live, _, by decide +kernel, by decide +kernel, by decide, rfl, by decide +kernel, _, rfl⟩,
   by exact ⟨0, 0, 0, 0, 0, 0, [], [], live, by decide +kernel⟩,
   by exact ⟨0, 0, 0, 0, 0, 0, idBytes, [], (live.setF F.SYSCTL_BOOTSTAT_MODE 3).setF F.RING_STATUS_LINKS 2, by decide +kernel⟩,
   by exact ⟨0, 0, 0, 0, 0, 0, [], [], (live.setF F.SYSCTL_BOOTSTAT_MODE 3).setF F.RING_STATUS_LINKS 2, by decide +kernel⟩,
   by decide +kernel⟩

namespace Sys2Proof.Tests

/-! The spec's own examples. -/

/-- The core of `demo` with W1 = a, W2 = b, FLAGS.C = c, after one instruction of it. -/
def ran (i : Instr) (a b : Word) (c : Bool) : FkCore :=
  let k := demo.core .panA
  let s := demo.setCore .panA { k with psr := putBit k.psr.toNat 2 c |> BitVec.ofNat 32, w := (k.w.set 1 a).set 2 b }
  match exec i s with | .next t => t.core .panA | _ => k

/-- W3, and C, V, Z of the status: what the spec's table of decimal results lists. -/
def res (k : FkCore) : Word × Nat × Nat × Nat := (k.w[3], k.psrBits 2 2, k.psrBits 3 3, k.psrBits 1 1)

/-- R31: the check value of the CRC over the string 123456789. -/
theorem test_crc_check_value : crc32c [0x31#8, 0x32#8, 0x33#8, 0x34#8, 0x35#8, 0x36#8, 0x37#8, 0x38#8, 0x39#8] = 0xE3069283 := by decide +kernel

/-- Chapter 02, the IDENTIFY example: the request's first 16 bytes. -/
theorem test_identify_header : (reqPkt { rq0 [] with src := 0#12, tag := none, sess := 0#16 } 1 1).header =
    [0xA5#8, 0x01#8, 0x14#8, 0#8, 0#8, 0#8, 0#8, 0#8, 0x07#8, 0#8, 1#8, 1#8, 0#8, 0#8, 0#8, 0#8] := by decide +kernel

/-- Chapter 03, the decimal results. -/
theorem test_dadd : res (ran (.dadd .panA 3 1 2) 0x00004785#32 0x00000396#32 false) = (0x00005181#32, 0, 0, 0) := by decide +kernel
theorem test_dadd_bad_digit : res (ran (.dadd .panA 3 1 2) 0x000000A5#32 1#32 false) = (0x00000096#32, 0, 1, 0) := by decide +kernel
theorem test_daddc : res (ran (.daddc .panA 3 1 2) 0x99999999#32 0#32 true) = (0#32, 1, 0, 1) := by decide +kernel
theorem test_dsub : res (ran (.dsub .panA 3 1 2) 0x00000250#32 0x00000300#32 false) = (0x99999950#32, 1, 0, 0) := by decide +kernel
theorem test_d2b : res (ran (.d2b .panA 3 1) 0x00099999#32 0#32 false) = (0x0001869F#32, 0, 0, 0) := by decide +kernel
theorem test_b2d : res (ran (.b2d .panA 3 1) 0x05F5E100#32 0#32 false) = (0#32, 1, 0, 1) := by decide +kernel
theorem test_dshl : res (ran (.dshl .panA 3 1 2) 0x12345678#32 0#32 false) = (0x34567800#32, 1, 0, 0) := by decide +kernel
theorem test_dshr : res (ran (.dshr .panA 3 1 3) 0x12345678#32 0#32 false) = (0x00012345#32, 1, 0, 0) := by decide +kernel
/-- Chapter 03: the three rows ADD, then DADJ, as the sum, the binary carry and H of the ADD, then the adjusted word and its carry. -/
theorem test_dadj : dadjRes 0x0000009F false 0 = (0x00000105, false) ∧ dadjRes 0x00000012 false 1 = (0x00000018, false) ∧
    dadjRes 0xB0000000 false 0 = (0x10000000, true) := by decide +kernel

/-- Chapter 03, the nested permit: the words of its eight instructions. -/
theorem test_permit_words :
    [fkEncode (.ld .panA 0x28#22), fkEncode (.push .panA), fkEncode (.ld .panA 0x29#22), fkEncode (.orn .panA 0x32#22),
     fkEncode (.popa .panA), fkEncode (.st .panA 0x100003#22), fkEncode (.rem .panA 0x180000#22), fkEncode (.st .panA 0x180001#22)] =
    [0xC0000028, 0xC4800000, 0xC0000029, 0xC1400032, 0xC4C00000, 0xC1D00003, 0xC4180000, 0xC1D80001].map (fun w => some (CoreId.panA, w)) := by
  decide +kernel

/-- Chapter 03, TON quantised by the cycle: START, Q and the elapsed time at the input's rise, before the preset and at it. -/
theorem test_ton :
    let r0 : TmrRec := { start := 0, pt := 3, inLast := false, q := false, run := false, seen := false, done := false }
    tonStep 5000000 3000 true r0 = ({ r0 with start := 5000000 }, 0) ∧
    tonStep 5002000 3000 true { r0 with start := 5000000, inLast := true } = ({ r0 with start := 5000000, inLast := true }, 2000) ∧
    tonStep 5003000 3000 true { r0 with start := 5000000, inLast := true } = ({ r0 with start := 5000000, inLast := true, q := true }, 3000) ∧
    tonStep 5004000 3000 false { r0 with start := 5000000, inLast := true } = ({ r0 with start := 5000000, inLast := true }, 0) := by
  decide +kernel

/-- Chapter 16: bytes 60 to 63 of a page, then 0 to 3, from eight bytes written at offset 60; the record takes 80 bytes. -/
theorem test_page_wraps :
    ((pageMerge (List.replicate 64 0#8) 60 [0x11#8, 0x22#8, 0x33#8, 0x44#8, 0x55#8, 0x66#8, 0x77#8, 0x88#8]).drop 60,
     (pageMerge (List.replicate 64 0#8) 60 [0x11#8, 0x22#8, 0x33#8, 0x44#8, 0x55#8, 0x66#8, 0x77#8, 0x88#8]).take 5) =
    ([0x11#8, 0x22#8, 0x33#8, 0x44#8], [0x55#8, 0x66#8, 0x77#8, 0x88#8, 0#8]) ∧ recBytes 64 = 80 := by decide +kernel

/-- Chapter 12: a 10 kΩ input with B = 3,435 K that reads 5.0 kΩ reports 441. -/
theorem test_ntc : ntcTemp 5000 10000 3435 = some 441 := by decide +kernel

/-! One ill-formed command for each check of WellFormed. -/

theorem test_wf_accepts : (Instr.identify (rq0 [])).wf = false ∧ (Instr.identify { rq0 [] with tag := none }).wf = true := by decide
theorem test_wf_endpoint_of_a_port : (Instr.sessionNonceExpiry 0 1).wf = false := by decide
theorem test_wf_endpoint_of_brineline : (Instr.sessionNonceExpiry 4 0xFFF).wf = false := by decide
theorem test_wf_endpoint_of_udp : (Instr.udpDatagramRx 0 (2 ^ 48) false []).wf = false := by decide
theorem test_wf_endpoint_of_a_key : (Instr.cmdForwardTimeout ⟨0, 1, 0#16⟩).wf = false ∧ (Instr.cmdAcceptedDeadline ⟨0, 1, 0#16⟩).wf = false := by decide
theorem test_wf_endpoint_of_a_request : (Instr.identify { rq0 [] with tag := none, ep := 1 }).wf = false := by decide
theorem test_wf_tag_length : (Instr.identify { rq0 [] with tag := some (List.replicate 7 0#8) }).wf = false := by decide
theorem test_wf_payload (p : List Byte) (h : p.length = 4097) : (Instr.identify { rq0 p with tag := none }).wf = false := by
  simp [Instr.wf, Req.wf, rq0, h]
theorem test_wf_tagged_payload (p : List Byte) (h : p.length = 4097) : (Instr.identify (rq 1 1 p)).wf = false := by
  simp [Instr.wf, Req.wf, rq, rq0, h]
theorem test_wf_can_frame (n : Fin 16) : (Instr.canFrameReceived n { (default : CanFrame) with data := List.replicate 65 0#8 }).wf = false ∧
    (Instr.wakeUpFrame n { (default : CanFrame) with data := List.replicate 65 0#8 }).wf = false := by simp [Instr.wf, CanFrame.wf]
theorem test_wf_isotp_frame : (Instr.isotpFrameRx ⟨0#32, List.replicate 65 0#8⟩).wf = false := by simp [Instr.wf]
theorem test_wf_stream_lengths (p : List Byte) (h : p.length = 65536) : (Instr.usbBulkOut p).wf = false ∧ (Instr.hostWrite true 0 p).wf = false ∧
    (Instr.cmdPacketDiscard 0 p).wf = false ∧ (Instr.cmdPacketForward 0 0 p).wf = false ∧
    (Instr.cmdReplyRelay 0#12 p).wf = false ∧ (Instr.brlFrameRx 0 p).wf = false ∧
    (Instr.recoveryLoader p).wf = false ∧ (Instr.udpDatagramRx 0 0 false p).wf = false := by simp [Instr.wf, h]
theorem test_wf_completion (p : List Byte) (h : p.length = 4161) : (Instr.cmdCompletion ⟨0, 0, 0#16⟩ 0#8 p).wf = false ∧
    (Instr.cmdCompletion ⟨0, 1, 0#16⟩ 0#8 []).wf = false := by simp [Instr.wf, ReqKey.wf, epOk, h]
theorem test_wf_peer_proof : (Instr.brlPeerProof 0 [] 0#12 (List.replicate 16 0#8)).wf = false ∧
    (Instr.brlPeerProof 0 (List.replicate 16 0#8) 0#12 []).wf = false := by decide
theorem test_wf_brineline_frames (p : List Byte) (h : p.length = 4161) :
    (Instr.brlCommandFrame 0 0#8 0#12 0#12 0#16 0#16 [] []).wf = false ∧ (Instr.brlUpdateFrame 0 0#8 0#12 0#12 0#16 0#16 [] []).wf = false ∧
    (Instr.brlCommandFrame 0 0#8 0#12 0#12 0#16 0#16 p (List.replicate 8 0#8)).wf = false ∧
    (Instr.brlUpdateFrame 0 0#8 0#12 0#12 0#16 0#16 p (List.replicate 8 0#8)).wf = false ∧
    (Instr.sluiceBrlFrameRx ⟨0, 0#12, 0#12, 0#16, 0#16⟩ p).wf = false := by simp [Instr.wf, h]
theorem test_wf_mirror_lines : (Instr.mirrorFrameRx .a [] (List.replicate 61 (0#32, List.replicate 64 0#8))).wf = false ∧
    (Instr.mirrorFrameRx .a [] [(0#32, [])]).wf = false := by simp [Instr.wf]
theorem test_wf_icmp : (Instr.icmpEcho 0 0#48 0#32 0#32 (List.replicate 1481 0#8)).wf = false := by simp [Instr.wf]
theorem test_wf_wport (w : Who) : (Instr.crustWportRequest w (List.replicate 18 0#32)).wf = false := by simp [Instr.wf]

end Sys2Proof.Tests
end

