-- ==== Sys2Proof/Proofs/Scope.lean ====
section
/-! PROOF. The step (R10), the state after reset (R8), fields and bytes read back (R3 to R5), and who reaches no register (R4). -/
namespace Sys2Proof.Machine

/-- Settles O1: a step is `exec` of the front command by definition. -/
theorem stepRunsTheFrontCommand : Obligations.StepRunsTheFrontCommand := by
  unfold Obligations.StepRunsTheFrontCommand
  refine ⟨fun c rest s => rfl, fun c rest s h => ?_⟩
  simp only [step, h]

/-! The state after reset. -/

/-- Nothing is listed after reset, so every register reads its reset word (R8). -/
@[simp] theorem reg_reset (a : Nat) : State.reset.reg a = resetWord a := (rfl)

theorem reset_canonical : State.reset.Canonical := ⟨rfl, rfl, rfl⟩

/-- Each core is held at its vector base with the PSR of R62 (R99, R464). -/
theorem core_reset (c : CoreId) :
    (State.reset.core c).psr = 0x000A0000#32 ∧ (State.reset.core c).pc = (State.reset.core c).xvb ∧ (State.reset.core c).run = .held := by
  cases c <;> exact ⟨rfl, rfl, rfl⟩

/-- Settles O3, from what `State.reset` lists. -/
theorem resetHoldsTheValuesTheSpecGives : Obligations.ResetHoldsTheValuesTheSpecGives := by
  unfold Obligations.ResetHoldsTheValuesTheSpecGives
  refine ⟨⟨reg_reset, ?_, reset_canonical⟩, ⟨core_reset, rfl, rfl, rfl⟩, rfl, rfl, rfl, rfl, rfl, rfl⟩
  rw [reg_reset]
  decide +kernel

/-! Registers and memory. -/

/-- Settles O8, by the laws of the register file. -/
theorem registerFieldsReadBackAndKeepTheirNeighbours : Obligations.RegisterFieldsReadBackAndKeepTheirNeighbours := by
  unfold Obligations.RegisterFieldsReadBackAndKeepTheirNeighbours
  refine ⟨fun s x v hs hx => ⟨f_setF_same s x v hx hs, rfl⟩, fun s x y v hs hx hy => ?_⟩
  rcases hy with hother | ⟨hsame, hbeside⟩
  · exact f_setF_other s x y v hother hs
  · exact f_setF_beside s x y v hx hbeside hsame hs

/-- The byte at an address, wherever the addresses rise: listed, or what an unlisted address reads as. -/
theorem memGet_eq_of_pairwise {m : List Host.Cell} (h : m.Pairwise (fun a b => a.1 < b.1)) (c : Nat) :
    memGet m c = ((m.find? (fun x => x.1 == c)).map (·.2)).getD (blankByte c) := by
  induction m with
  | nil => rfl
  | cons d m ih =>
    obtain ⟨k, b⟩ := d
    obtain ⟨habove, hm⟩ := List.pairwise_cons.1 h
    by_cases hk : k = c
    · simp [memGet, hk]
    · have hk' : (k == c) = false := by simpa using hk
      by_cases hlt : c < k
      · have hnone : m.find? (fun x => x.1 == c) = none := by
          rw [List.find?_eq_none]
          intro x hx
          have := habove x hx
          simp only [beq_iff_eq]
          omega
        simp [memGet, hk, hlt, hk', hnone]
      · simp [memGet, hk, hlt, hk', ih hm]

/-- Keeping only the cells of some addresses blanks the others. -/
theorem memGet_filter {m : List Host.Cell} (p : Nat → Bool) (h : memWf m = true) (c : Nat) :
    memGet (m.filter (fun x => p x.1)) c = if p c then memGet m c else blankByte c := by
  have hm := ((memWf_iff m).1 h).1
  have hfind : (m.filter (fun x => p x.1)).find? (fun x => x.1 == c) = if p c then m.find? (fun x => x.1 == c) else none := by
    rw [List.find?_filter]
    by_cases hp : p c
    · rw [if_pos hp]
      congr 1
      funext x
      by_cases hx : x.1 = c <;> simp [hx, hp]
    · rw [if_neg hp, List.find?_eq_none]
      rintro x - hx
      simp only [beq_iff_eq, decide_eq_true_eq] at hx
      exact hp (hx.2 ▸ hx.1)
  rw [memGet_eq_of_pairwise (hm.filter _), memGet_eq_of_pairwise hm, hfind]
  split <;> rfl

/-- A cleared range reads blank, every other byte as before. -/
theorem memGet_memClear {m : List Host.Cell} (a n : Nat) (h : memWf m = true) (c : Nat) :
    memGet (memClear m a n) c = if a ≤ c ∧ c < a + n then blankByte c else memGet m c := by
  unfold memClear
  rw [memGet_filter (fun k => decide (k < a) || decide (a + n ≤ k)) h]
  by_cases hin : a ≤ c ∧ c < a + n
  · rw [if_pos hin, if_neg (by simp; omega)]
  · rw [if_neg hin, if_pos (by simp; omega)]

/-- Little-endian numbers read back modulo their width (R3). -/
theorem mget_mput_same (s : State) (a n v : Nat) (h : memWf s.mem = true) : (s.mput a n v).mget a n = v % 256 ^ n := by
  have hback := memBytes_memPut_same s.mem a (leBytes n v) h
  rw [leBytes_length] at hback
  unfold State.mget State.mput
  rw [hback, leVal_leBytes]

/-- Settles O9, by the laws of memory and `memGet_memClear`. -/
theorem memoryReadsBackWhatWasStored : Obligations.MemoryReadsBackWhatWasStored := by
  unfold Obligations.MemoryReadsBackWhatWasStored
  refine ⟨fun m a bs hm => ⟨memBytes_memPut_same m a bs hm, memWf_memPut m a bs hm, fun c hc => memGet_memPut_other m a c bs hc hm⟩,
    fun s a n v hm => ⟨mget_mput_same s a n v hm, rfl⟩,
    fun m a n hm => ⟨memWf_memClear m a n hm, memGet_memClear a n hm⟩⟩

/-! Register rows at application privilege. -/

/-- Every register row but the two reads with an effect of their own is `regDo` of some register and behaviour. -/
theorem exec_eq_regDo {i : Instr} {who : Who} (hw : whoOf i = some who) (hnow : i ≠ .timeNowRead who)
    (hack : ∀ t, i ≠ .evtTgtAckRead who t) : ∃ a f, ∀ s : State, exec i s = .next (s.regDo who a f) := by
  cases i <;> cases hw
  case timeNowRead => exact absurd rfl hnow
  case evtTgtAckRead t => exact absurd rfl (hack t)
  all_goals exact ⟨_, _, fun _ => rfl⟩

/-- Settles O10: `regOk` refuses every access at application privilege. -/
theorem applicationPrivilegeReachesNoBlockRegister : Obligations.ApplicationPrivilegeReachesNoBlockRegister := by
  unfold Obligations.ApplicationPrivilegeReachesNoBlockRegister
  refine ⟨fun i s who hw happ hread => ?_, fun s who happ => ?_, fun s who t happ => ?_, fun s c lvl a => ⟨rfl, fun who hwho => ?_⟩⟩
  · obtain ⟨a, f, hexec⟩ := exec_eq_regDo hw hread.1 hread.2
    rw [hexec, regDo_no (regOk_app a happ)]
  · exact congrArg Host.Outcome.next (regDoRead_no (regOk_app _ happ))
  · exact congrArg Host.Outcome.next (regDoRead_no (regOk_app _ happ))
  · cases who with
    | core d l => exact absurd rfl (hwho d l)
    | dma n => rfl
    | debug => rfl

end Sys2Proof.Machine
end

