-- ==== Sys2Proof/Proofs/Kept.lean ====
section
/-! PROOF. What every command keeps, the rules for the ways the model builds a state, and the shared operations. -/
namespace Sys2Proof.Machine

/-- What every command keeps of the state `s` it finds in the state `t` it answers: the waiting commands and the clock as they are,
what has left the device with nothing taken back, and the canonical form of each store. -/
structure Kept (s t : State) : Prop where
  pending : t.pending = s.pending
  now : t.now = s.now
  out : s.out <+: t.out
  mem : memWf s.mem = true → memWf t.mem = true
  stewRam : memWf s.stewRam = true → memWf t.stewRam = true
  regs : regsWf s.regs = true → regsWf t.regs = true

/-- `Kept` of an answer that may hold no state. -/
inductive KeptOpt (s₀ : State) : Option State → Prop
  | none : KeptOpt s₀ none
  | some {s} (h : Kept s₀ s) : KeptOpt s₀ (some s)

/-- `Kept` of every way an FK-32 instruction can end. -/
inductive KeptRes (s₀ : State) : FkRes → Prop
  | done {s a b c} (h : Kept s₀ s) : KeptRes s₀ (.done s a b c)
  | exc {s a} (h : Kept s₀ s) : KeptRes s₀ (.exc s a)
  | ret {s a} (h : Kept s₀ s) : KeptRes s₀ (.ret s a)
  | brk {s} (h : Kept s₀ s) : KeptRes s₀ (.brk s)

/-- The outcome is a next state, and that state keeps what `Kept` says. -/
inductive Answers (s₀ : State) : Host.Outcome State Fault Refusal → Prop
  | next {s} (h : Kept s₀ s) : Answers s₀ (.next s)

/-- The body of an opcode keeps what `Kept` says, whatever the request. -/
structure KeptBody (b : Body) : Prop where
  keeps : ∀ {c s₀ s}, Kept s₀ s → Kept s₀ (b c s)

variable {s₀ s t : State}

theorem Kept.refl (s : State) : Kept s s := ⟨rfl, rfl, List.prefix_refl _, id, id, id⟩

/-- The other fields are free. The state is written out so that unification finds the one it came from. -/
theorem Kept.frame
    {dtime freeCtr panA panB stew ecc latch rtrig wakes dma cmd ring encl crust upd settings idleS versions pA
      pB rake hss sol dio led acc can time pwr dbg thermWarn islHeld own gpioOn rstReq}
    (h : Kept s₀ s) :
    Kept s₀
      { s with
        dtime, freeCtr, panA, panB, stew, ecc, latch, rtrig, wakes, dma, cmd, ring, encl, crust, upd,
        settings, idleS, versions, pA, pB, rake, hss, sol, dio, led, acc, can, time, pwr, dbg, thermWarn,
        islHeld, own, gpioOn, rstReq } :=
  ⟨h.pending, h.now, h.out, h.mem, h.stewRam, h.regs⟩

/-! The ways the model puts states together: branches, pairs, options, folds. Each lemma takes `Kept s₀ s` and gives `Kept s₀` of
a later state, so the proof for a function is the chain of the functions it calls. -/

theorem Kept.ite {c : Prop} {_ : Decidable c} (ht : Kept s₀ s) (he : Kept s₀ t) : Kept s₀ (if c then s else t) := by
  split <;> assumption

theorem Kept.ite_fst {α} {c : Prop} {_ : Decidable c} {p q : State × α} (ht : Kept s₀ p.1) (he : Kept s₀ q.1) :
    Kept s₀ (if c then p else q).1 := by
  split <;> assumption

theorem Kept.ite_st {c : Prop} {_ : Decidable c} {p q : EnclRes} (ht : Kept s₀ p.st) (he : Kept s₀ q.st) :
    Kept s₀ (if c then p else q).st := by
  split <;> assumption

theorem KeptOpt.ite {c : Prop} {_ : Decidable c} {p q} (ht : KeptOpt s₀ p) (he : KeptOpt s₀ q) :
    KeptOpt s₀ (if c then p else q) := by
  split <;> assumption

theorem KeptRes.ite {c : Prop} {_ : Decidable c} {p q} (ht : KeptRes s₀ p) (he : KeptRes s₀ q) :
    KeptRes s₀ (if c then p else q) := by
  split <;> assumption

theorem Answers.ite {c : Prop} {_ : Decidable c} {p q} (ht : Answers s₀ p) (he : Answers s₀ q) :
    Answers s₀ (if c then p else q) := by
  split <;> assumption

theorem KeptOpt.map {o} {f : State → State} (h : KeptOpt s₀ o) (hf : ∀ {s}, Kept s₀ s → Kept s₀ (f s)) :
    KeptOpt s₀ (o.map f) := by
  cases h with
  | none => exact .none
  | some h => exact .some (hf h)

theorem KeptOpt.of_map {α} {o : Option α} {f : α → State} (hf : ∀ {x}, Kept s₀ (f x)) : KeptOpt s₀ (o.map f) := by
  cases o with
  | none => exact .none
  | some x => exact .some hf

theorem KeptOpt.bind {o} {f : State → Option State} (h : KeptOpt s₀ o) (hf : ∀ {s}, Kept s₀ s → KeptOpt s₀ (f s)) :
    KeptOpt s₀ (o.bind f) := by
  cases h with
  | none => exact .none
  | some h => exact hf h

theorem KeptOpt.getD {o} (h : KeptOpt s₀ o) (ht : Kept s₀ t) : Kept s₀ (o.getD t) := by
  cases h with
  | none => exact ht
  | some h => exact h

theorem Kept.fst {α} {p : State × α} {x} (h : Kept s₀ p.1) (e : p = (s, x)) : Kept s₀ s := by
  subst e
  exact h

theorem KeptOpt.of_some {o} (h : KeptOpt s₀ o) (e : o = .some s) : Kept s₀ s := by
  subst e
  cases h
  assumption

theorem Kept.run {b : Body} {c} (h : Kept s₀ s) (hb : KeptBody b) : Kept s₀ (b c s) := hb.keeps h

theorem Kept.foldl {α} {f : State → α → State} {l : List α} (h : Kept s₀ s)
    (hf : ∀ {s x}, Kept s₀ s → Kept s₀ (f s x)) : Kept s₀ (l.foldl f s) := by
  induction l generalizing s with
  | nil => exact h
  | cons x l ih => exact ih (hf h)

theorem Kept.forBelow {n} {f : Nat → State → State} (h : Kept s₀ s) (hf : ∀ {i s}, Kept s₀ s → Kept s₀ (f i s)) :
    Kept s₀ (forBelow n s f) :=
  h.foldl hf

theorem Kept.pair {α} {x : α} (h : Kept s₀ s) : Kept s₀ (s, x).1 := h

theorem Kept.setMem {m} (h : Kept s₀ s) (hm : memWf s.mem = true → memWf m = true) : Kept s₀ { s with mem := m } :=
  ⟨h.pending, h.now, h.out, fun w => hm (h.mem w), h.stewRam, h.regs⟩

theorem Kept.setRegs {r} (h : Kept s₀ s) (hr : regsWf s.regs = true → regsWf r = true) : Kept s₀ { s with regs := r } :=
  ⟨h.pending, h.now, h.out, h.mem, h.stewRam, fun w => hr (h.regs w)⟩

theorem Kept.foldl_fst {α β} {f : State × β → α → State × β} {l : List α} {p} (h : Kept s₀ p.1)
    (hf : ∀ {p x}, Kept s₀ p.1 → Kept s₀ (f p x).1) : Kept s₀ (l.foldl f p).1 := by
  induction l generalizing p with
  | nil => exact h
  | cons x l ih => exact ih (hf h)

theorem KeptOpt.foldl {α} {f : Option State → α → Option State} {l : List α} {o} (h : KeptOpt s₀ o)
    (hf : ∀ {o x}, KeptOpt s₀ o → KeptOpt s₀ (f o x)) : KeptOpt s₀ (l.foldl f o) := by
  induction l generalizing o with
  | nil => exact h
  | cons x l ih => exact ih (hf h)

theorem memWf_foldl {α} {f : List Host.Cell → α → List Host.Cell} {l : List α} {m}
    (hf : ∀ {m x}, memWf m = true → memWf (f m x) = true) (h : memWf m = true) : memWf (l.foldl f m) = true := by
  induction l generalizing m with
  | nil => exact h
  | cons x l ih => exact ih (hf h)

theorem blankByte_dtcm {p i} (h : i < 0x1000000) : blankByte (dtcmBase p + i) = 0#8 := by
  refine if_neg ?_
  cases p <;> simp only [dtcmBase] <;> omega

theorem memWf_memCopy_dtcm {m p src dst n} (hs : src + n ≤ 0x1000000) (hd : dst + n ≤ 0x1000000) (h : memWf m = true) :
    memWf (memCopy m (dtcmBase p + src) (dtcmBase p + dst) n) = true := by
  refine memWf_memCopy _ _ _ _ (fun i hi => ?_) h
  rw [Nat.add_assoc, Nat.add_assoc, blankByte_dtcm (by omega), blankByte_dtcm (by omega)]

theorem inBuf_le (i : Nat) : inBuf i ≤ 0x80000 := by
  unfold inBuf
  split <;> omega

theorem regsWf_regsKept {keep r} (h : regsWf r = true) : regsWf (regsKept keep r) = true := by
  refine regsWf_filterMap _ _ (fun x y hxy => ?_) h
  dsimp only at hxy
  split at hxy
  · contradiction
  · cases hxy
    exact ⟨rfl, ‹_›⟩

/-! The functions of `Machine/Base.lean`. -/

theorem Kept.setReg {a w} (h : Kept s₀ s) : Kept s₀ (s.setReg a w) :=
  ⟨h.pending, h.now, h.out, h.mem, h.stewRam, fun w => regsWf_setReg _ _ _ (h.regs w)⟩

theorem Kept.setF {x v} (h : Kept s₀ s) : Kept s₀ (s.setF x v) := h.setReg
theorem Kept.setFlag {x b} (h : Kept s₀ s) : Kept s₀ (s.setFlag x b) := h.setF
theorem Kept.setFbit {x k b} (h : Kept s₀ s) : Kept s₀ (s.setFbit x k b) := h.setF
theorem Kept.incF {x n} (h : Kept s₀ s) : Kept s₀ (s.incF x n) := h.setF
theorem Kept.decF {x} (h : Kept s₀ s) : Kept s₀ (s.decF x) := h.setF
theorem Kept.when {c f} (h : Kept s₀ s) (hf : ∀ {s}, Kept s₀ s → Kept s₀ (f s)) : Kept s₀ (s.when c f) := .ite (hf h) h
theorem Kept.useFree (h : Kept s₀ s) : Kept s₀ s.useFree := h.frame
theorem Kept.mput {a n v} (h : Kept s₀ s) : Kept s₀ (s.mput a n v) := (h.setMem (memWf_memPut _ _ _)).frame
theorem Kept.mputBytes {a bs} (h : Kept s₀ s) : Kept s₀ (s.mputBytes a bs) := (h.setMem (memWf_memPut _ _ _)).frame

theorem Kept.emit {p d} (h : Kept s₀ s) : Kept s₀ (s.emit p d) :=
  ⟨h.pending, h.now, h.out.trans (List.prefix_append _ _), h.mem, h.stewRam, h.regs⟩

/-! The functions of `Machine/IsoTp.lean`. -/

theorem Kept.modIso {g} (h : Kept s₀ s) : Kept s₀ (s.modIso g) := h.frame
theorem Kept.isoEmit {fs} (h : Kept s₀ s) : Kept s₀ (s.isoEmit fs) := h.modIso
theorem Kept.isoKick (h : Kept s₀ s) : Kept s₀ s.isoKick := .ite h h.modIso.isoEmit
theorem Kept.isoSend {b} (h : Kept s₀ s) : Kept s₀ (s.isoSend b) := .ite h.modIso.isoKick h

theorem Kept.isoFlow {fs bs} (h : Kept s₀ s) : Kept s₀ (s.isoFlow fs bs) := by
  unfold State.isoFlow
  split
  · exact h
  · exact .ite h <| .ite (have h1 := h.isoEmit; .ite h1.modIso.isoKick h1.modIso) <| .ite h.modIso.isoKick h

theorem Kept.isoFc (h : Kept s₀ s) : Kept s₀ s.isoFc := h.isoEmit

/-! The functions of `Machine/Net.lean`. -/

theorem Kept.emitPkt {tp ep b} (h : Kept s₀ s) : Kept s₀ (s.emitPkt tp ep b) := .ite (.ite h h.emit) h.emit

/-! The functions of `Machine/Ops.lean`. -/

theorem Kept.markEvt {k} (h : Kept s₀ s) : Kept s₀ (s.markEvt k) := by
  unfold State.markEvt
  split
  · exact h.setF
  · exact h

theorem Kept.latchPulse {k} (h : Kept s₀ s) : Kept s₀ (s.latchPulse k).1 := .ite_fst (.ite h.frame h.frame) h
theorem Kept.setActiveMask {t m} (h : Kept s₀ s) : Kept s₀ (s.setActiveMask t m) := h.setF.setF
theorem Kept.noteWakes (h : Kept s₀ s) : Kept s₀ s.noteWakes := h.frame
theorem Kept.merged {k} (h : Kept s₀ s) : Kept s₀ (s.merged k) := h.incF.setF.latchPulse

theorem Kept.raiseQuiet {k} (h : Kept s₀ s) : Kept s₀ (s.raiseQuiet k) :=
  have h1 := h.markEvt.latchPulse; .noteWakes (.ite h1.merged h1)

theorem Kept.modLink {l g} (h : Kept s₀ s) : Kept s₀ (s.modLink l g) := h.frame

theorem Kept.brlSend {l kind dst src hops bseq pl} (h : Kept s₀ s) : Kept s₀ (s.brlSend l kind dst src hops bseq pl) :=
  .ite h h.modLink.emit

theorem Kept.brlCast {kind pl} (h : Kept s₀ s) : Kept s₀ (s.brlCast kind pl) := h.frame.foldl .brlSend

theorem Kept.brlCmd {dst b} (h : Kept s₀ s) : Kept s₀ (s.brlCmd dst b) := by
  unfold State.brlCmd
  refine .ite h ?_
  split
  · exact h.brlSend
  · exact h

theorem Kept.notifyOne {k b} (h : Kept s₀ s) : Kept s₀ (s.notifyOne k b) :=
  .ite (.ite h.frame.raiseQuiet <| .ite h.frame <| .ite h.frame.isoSend <| .ite h.frame.brlCmd h.frame.emitPkt) h

theorem Kept.raise {k} (h : Kept s₀ s) : Kept s₀ (s.raise k) := h.raiseQuiet.foldl .notifyOne

theorem Kept.levelEdge {k was} (h : Kept s₀ s) : Kept s₀ (s.levelEdge k was) :=
  .ite (have h1 := h.markEvt; .foldl (.noteWakes (.ite h1.frame h1)) .notifyOne) h

theorem Kept.setCore {c k} (h : Kept s₀ s) : Kept s₀ (s.setCore c k) := by
  unfold State.setCore
  split
  · exact h.frame
  · exact h.frame
  · exact h.frame

theorem Kept.begins {c} (h : Kept s₀ s) : Kept s₀ (s.begins c) := h.setCore.frame
theorem Kept.spend {c n} (h : Kept s₀ s) : Kept s₀ (s.spend c n) := h.setCore

theorem Kept.setPan {p x} (h : Kept s₀ s) : Kept s₀ (s.setPan p x) := by
  unfold State.setPan
  split
  · exact h.frame
  · exact h.frame

theorem Kept.modPan {p f} (h : Kept s₀ s) : Kept s₀ (s.modPan p f) := h.setPan
theorem Kept.reqReset {src lvl} (h : Kept s₀ s) : Kept s₀ (s.reqReset src lvl) := h.frame

theorem Kept.enterExc {c e} (h : Kept s₀ s) : Kept s₀ (s.enterExc c e) :=
  have h1 := h.setCore
  .ite h1 h1.useFree

theorem Kept.syncExc {c e} (h : Kept s₀ s) : Kept s₀ (s.syncExc c e) := .ite h.setCore.raise h.enterExc
theorem Kept.eret {c} (h : Kept s₀ s) : Kept s₀ (s.eret c) := h.setCore

/-! The functions of `Machine/Crust.lean`. -/

theorem Kept.modCrust {g} (h : Kept s₀ s) : Kept s₀ (s.modCrust g) := h.frame.setF.setF.levelEdge
theorem Kept.crustIndex (h : Kept s₀ s) : Kept s₀ s.crustIndex := h.modCrust.setF

theorem Kept.crustPut {typ key schema pl reserve trial bank} (h : Kept s₀ s) :
    KeptOpt s₀ (s.crustPut typ key schema pl reserve trial bank) := by
  unfold State.crustPut
  extract_lets
  split
  · exact .none
  · exact .some h.modCrust.setF

theorem Kept.crustIndexDue (h : Kept s₀ s) : Kept s₀ s.crustIndexDue := .ite h.crustIndex h

theorem Kept.crustAppend {typ key schema pl reserve trial bank} (h : Kept s₀ s) :
    KeptOpt s₀ (s.crustAppend typ key schema pl reserve trial bank) :=
  h.crustPut.map .crustIndexDue

theorem Kept.crustResult {c} (h : Kept s₀ s) : Kept s₀ (s.crustResult c) := h.setF

/-- `logRegs` by its cases. Lean cannot unfold it in place: comparing the two sides evaluates a list cut at 8192 entries. -/
theorem logRegs_cases {P : State → Prop} (h : P s)
    (hset : ∀ {a b}, P ((s.setF F.CRUST_LOGNEW_LSEQ a).setF F.CRUST_LOGOLD_LSEQ b)) : P s.logRegs := by
  suffices hf : ∀ f, f = State.logRegs → P (f s) from hf _ rfl
  delta State.logRegs
  rintro f rfl
  beta_reduce
  generalize s.crust.reported.head? = o, s.crust.log.getLast? = n
  split
  · exact hset
  · exact h

theorem Kept.logRegs (h : Kept s₀ s) : Kept s₀ s.logRegs := logRegs_cases h h.setF.setF

theorem Kept.logAdd {code arg} (h : Kept s₀ s) : Kept s₀ (s.logAdd code arg) := by
  unfold State.logAdd
  split
  · exact h.incF
  · exact h.modCrust.logRegs

theorem Kept.logKind {kind vals} (h : Kept s₀ s) : Kept s₀ (s.logKind kind vals) := h.logAdd

theorem Kept.appendFrags {trial bank key ds} (h : Kept s₀ s) : KeptOpt s₀ (s.appendFrags trial bank key ds) := by
  induction ds generalizing key s with
  | nil => exact .some h
  | cons d ds ih =>
    unfold State.appendFrags
    split
    next heq => exact ih (h.crustPut.of_some heq)
    · exact .none

theorem Kept.groupAppend {pan trial bank fr} (h : Kept s₀ s) : KeptOpt s₀ (s.groupAppend pan trial bank fr) :=
  h.appendFrags.bind (Kept.crustAppend)

theorem Kept.retainWrite {pan hdr data} (h : Kept s₀ s) : Kept s₀ (s.retainWrite pan hdr data) := h.groupAppend.getD h
theorem Kept.bankMark {b confirm} (h : Kept s₀ s) : KeptOpt s₀ (s.bankMark b confirm) := h.crustAppend.map .modCrust

theorem KeptOpt.copyRec {o r} (h : KeptOpt s₀ o) : KeptOpt s₀ (State.copyRec o r) := h.bind Kept.crustAppend

theorem KeptOpt.copyGroup {o m} (h : KeptOpt s₀ o) : KeptOpt s₀ (State.copyGroup o m) := h.bind Kept.groupAppend

theorem Kept.copyLive {v} (h : Kept s₀ s) : KeptOpt s₀ (s.copyLive v) :=
  ((KeptOpt.some h).foldl .copyRec).foldl .copyGroup

theorem Kept.compact (h : Kept s₀ s) : Kept s₀ (s.compact).1 := by
  unfold State.compact
  split
  · exact h
  · split
    · exact h
    next heq => exact .pair (h.modCrust.copyLive.of_some heq).crustIndex.modCrust

/-! The functions of `Machine/Access.lean`. -/

theorem Kept.busErr {x1} (h : Kept s₀ s) : Kept s₀ (s.busErr x1) := by
  unfold State.busErr
  extract_lets
  split
  · exact h.raise
  · exact h.frame
  · exact h.setFlag.raise

theorem Kept.regDo {who a f} (h : Kept s₀ s) (hf : ∀ {s}, Kept s₀ s → Kept s₀ (f s)) : Kept s₀ (s.regDo who a f) :=
  .ite (hf h) h.busErr

/-! The functions of `Machine/Encl.lean`. -/

theorem Kept.setRegBytes {a n bs} (h : Kept s₀ s) : Kept s₀ (s.setRegBytes a n bs) := h.forBelow .setReg
theorem Kept.extend {k x} (h : Kept s₀ s) : Kept s₀ (s.extend k x) := h.setRegBytes
theorem Kept.putSlot {i x} (h : Kept s₀ s) : Kept s₀ (s.putSlot i x) := h.frame.setF.raise
theorem Kept.dropSlot {i} (h : Kept s₀ s) : Kept s₀ (s.dropSlot i) := h.frame.setF.raise
theorem Kept.enclFail {code} (h : Kept s₀ s) : Kept s₀ (s.enclFail code).st := h
theorem Kept.blobFail {code} (h : Kept s₀ s) : Kept s₀ (s.blobFail code).st := h.raise.enclFail

theorem Kept.loadSealed {pan slot bs} (h : Kept s₀ s) : Kept s₀ (s.loadSealed pan slot bs).st := by
  unfold State.loadSealed
  extract_lets
  refine .ite_st h.blobFail <| .ite_st h.blobFail <| .ite_st h.blobFail <| .ite_st h.blobFail ?_
  split
  · exact h.blobFail
  · exact h.putSlot

theorem Kept.loadImport {pan slot bs} (h : Kept s₀ s) : Kept s₀ (s.loadImport pan slot bs).st := by
  unfold State.loadImport
  extract_lets
  refine .ite_st h.blobFail <| .ite_st h.blobFail <| .ite_st h.blobFail <| .ite_st h.blobFail <| .ite_st h.enclFail ?_
  split
  · exact h.blobFail
  · exact h.useFree.putSlot

theorem Kept.loadKey {pan slot bs} (h : Kept s₀ s) : Kept s₀ (s.loadKey pan slot bs).st :=
  .ite_st h.loadSealed <| .ite_st h.loadImport h.enclFail

/-! The functions of `Machine/Pinown.lean`. -/

theorem Kept.setOwner {id o} (h : Kept s₀ s) : Kept s₀ (s.setOwner id o) := h.frame

theorem Kept.conflict {id req path} (h : Kept s₀ s) : Kept s₀ (s.conflict id req path) :=
  .raise (.incF (.ite h h.setF.setF.setF.setF.setF))

theorem Kept.wrRes {who x} (h : Kept s₀ x.1) : Kept s₀ (State.wrRes who x) := by
  unfold State.wrRes
  split
  · exact h
  · exact h
  · exact h.conflict.busErr
  · exact h.busErr

theorem Kept.claimAll {o ids} (h : Kept s₀ s) : Kept s₀ (s.claimAll o ids).1 := by
  unfold State.claimAll
  split
  · exact h.conflict
  · exact h.foldl .setOwner

theorem Kept.release {o id} (h : Kept s₀ s) : Kept s₀ (s.release o id) := .ite h.setOwner h
theorem Kept.releaseAll {o ids} (h : Kept s₀ s) : Kept s₀ (s.releaseAll o ids) := h.foldl .release

theorem Kept.ownedWrite {who id f} (h : Kept s₀ s) (hf : ∀ {s}, Kept s₀ s → Kept s₀ (f s)) :
    Kept s₀ (s.ownedWrite who id f) :=
  .ite (hf h) h.conflict.busErr

theorem Kept.gpioSet {n v} (h : Kept s₀ s) : Kept s₀ (s.gpioSet n v) := h.setF.frame

theorem Answers.gpioEdge {n level} (h : Kept s₀ s) : Answers s₀ (execGpioEdge n level s) :=
  .next <| .ite h (have h1 := h.setFbit; .ite h1.raise h1)

/-! The functions of `Machine/Cmd.lean`. -/

theorem Kept.sendBytes {tp ep b} (h : Kept s₀ s) : Kept s₀ (s.sendBytes tp ep b) :=
  .ite h.frame <| .ite h.isoSend <| .ite h.brlCmd h.emitPkt

theorem Kept.syncOut {tp} (h : Kept s₀ s) : Kept s₀ (s.syncOut tp) := by
  unfold State.syncOut
  exact
    have h1 := h.setF;
    have h2 : Kept s₀ _ := .ite h1.setF h1;
    .ite h2.frame h2

theorem Kept.refuse {tp ep p stat pl tagged} (h : Kept s₀ s) : Kept s₀ (s.refuse tp ep p stat pl tagged) := h.sendBytes

theorem Kept.finish {k stat pl} (h : Kept s₀ s) : Kept s₀ (s.finish k stat pl) := by
  unfold State.finish
  extract_lets
  split
  · exact h
  · exact h.frame.syncOut.sendBytes

theorem Kept.ok {k pl} (h : Kept s₀ s) : Kept s₀ (s.ok k pl) := h.finish
theorem Kept.badParam {k off} (h : Kept s₀ s) : Kept s₀ (s.badParam k off) := h.finish
theorem Kept.badLen {k n} (h : Kept s₀ s) : Kept s₀ (s.badLen k n) := h.finish
theorem Kept.wrongState {k mode} (h : Kept s₀ s) : Kept s₀ (s.wrongState k mode) := h.finish
theorem Kept.limit {k id} (h : Kept s₀ s) : Kept s₀ (s.limit k id) := h.finish
theorem Kept.failed {k cause} (h : Kept s₀ s) : Kept s₀ (s.failed k cause) := h.finish
theorem Kept.notFound {k} (h : Kept s₀ s) : Kept s₀ (s.notFound k) := h.finish
theorem Kept.cmdConflict {k id} (h : Kept s₀ s) : Kept s₀ (s.cmdConflict k id) := h.finish.conflict

theorem Kept.accept {k} (h : Kept s₀ s) : Kept s₀ (s.accept k) := by
  unfold State.accept
  extract_lets
  split
  · exact h
  · exact .ite h h.frame.sendBytes

theorem KeptBody.fixedLen {n b} (hb : KeptBody b) : KeptBody (fixedLen n b) := ⟨fun h => .ite (h.run hb) h.badLen⟩

theorem KeptBody.rangeLen {lo hi b} (hb : KeptBody b) : KeptBody (rangeLen lo hi b) :=
  ⟨fun h => .ite h.badLen <| .ite h.badLen (h.run hb)⟩

theorem Kept.dropToken {sess} (h : Kept s₀ s) : Kept s₀ (s.dropToken sess) := h.frame
theorem Kept.stopServed {c} (h : Kept s₀ s) : Kept s₀ (s.stopServed c) := h.frame
theorem Kept.failStopped {k c} (h : Kept s₀ s) : Kept s₀ (s.failStopped k c) := h.failed.useFree.stopServed
theorem Kept.closeSess {id} (h : Kept s₀ s) : Kept s₀ (s.closeSess id) := h.dropToken.frame

theorem Kept.authFail {tp} (h : Kept s₀ s) : Kept s₀ (s.authFail tp) :=
  have h1 := h.raise
  .ite h1.frame.raise h1.frame

theorem Kept.acceptSeq {tp ep seq} (h : Kept s₀ s) : Kept s₀ (s.acceptSeq tp ep seq) := by
  unfold State.acceptSeq
  extract_lets
  split
  · exact h.frame
  · exact h.frame

theorem Kept.start {tp ep p x body} (h : Kept s₀ s) (hbody : KeptBody body) : Kept s₀ (s.start tp ep p x body) :=
  h.acceptSeq.frame.syncOut.run hbody

theorem Kept.tooMany {tp ep p} (h : Kept s₀ s) : Kept s₀ (s.tooMany tp ep p) := .refuse (.ite h h.frame.raise)

theorem Kept.request {tp ep p body} (h : Kept s₀ s) (hbody : KeptBody body) : Kept s₀ (s.request tp ep p body) := by
  unfold State.request
  extract_lets
  split
  · exact h.refuse
  · split
    · exact h.authFail.refuse
    · exact h.refuse.useFree
    · extract_lets s0
      have h0 : Kept s₀ s0 := by
        unfold s0
        split
        · exact h.frame
        · exact h
      split
      · exact h0
      · exact h0.sendBytes
      · exact h0.refuse
      · exact .ite h0.tooMany (h0.start hbody)

theorem Kept.discard {tp crc} (h : Kept s₀ s) : Kept s₀ (s.discard tp crc) := h.incF.raise

theorem Kept.forward {tp ep p} (h : Kept s₀ s) : Kept s₀ (s.forward tp ep p) := by
  unfold State.forward
  extract_lets
  split
  · exact h.refuse
  · exact .ite h.tooMany h.frame.syncOut.brlSend

theorem Kept.cmdCast {tp p} (h : Kept s₀ s) : Kept s₀ (s.cmdCast tp p) := .ite (.ite h h.brlCast) h.incF

theorem Kept.deliver {tp ep p body} (h : Kept s₀ s) (hbody : KeptBody body) : Kept s₀ (s.deliver tp ep p body) :=
  .ite h <| .ite h.discard <| .ite h.discard <| .ite h.cmdCast <| .ite h.refuse <| .ite h.forward (h.request hbody)

theorem Kept.opcode {r grp op body} (h : Kept s₀ s) (hbody : KeptBody body) : Kept s₀ (s.opcode r grp op body) :=
  h.deliver hbody

theorem Kept.peerRequestOn {l kind dst grp op pl} (h : Kept s₀ s) : Kept s₀ (s.peerRequestOn l kind dst grp op pl) :=
  h.frame.brlSend

theorem Kept.peerRequest {kind dst grp op pl} (h : Kept s₀ s) : Kept s₀ (s.peerRequest kind dst grp op pl) := by
  unfold State.peerRequest
  extract_lets
  split
  · exact h.peerRequestOn
  · exact h.frame

end Sys2Proof.Machine
end

