-- ==== Sys2Proof/Proofs/KeptChannels.lean ====
section
/-! PROOF. The channel blocks, the access block, the Crust store, memory, DMA and what a reset leaves keep it. -/
namespace Sys2Proof.Machine

variable {s₀ s t : State}

/-! The functions of `Machine/Dio.lean`. -/

theorem Kept.modDio {n g} (h : Kept s₀ s) : Kept s₀ (s.modDio n g) := h.frame

theorem Kept.dioFb {n} (h : Kept s₀ s) : Kept s₀ (s.dioFb n) := by
  unfold State.dioFb
  extract_lets
  split
  · exact h.setF.when .setF
  · exact h.setF.when .setF
  · exact h

theorem Kept.dioEnter {n st} (h : Kept s₀ s) : Kept s₀ (s.dioEnter n st) := h.setF.setFlag.modDio.dioFb

theorem Kept.dioFollow {n} (h : Kept s₀ s) : Kept s₀ (s.dioFollow n) := by
  unfold State.dioFollow
  split
  · exact .ite h.dioEnter h
  · exact .ite h h.dioEnter
  · exact h

theorem Kept.dioCommand {n out} (h : Kept s₀ s) : Kept s₀ (s.dioCommand n out) := h.setFlag.dioFollow

theorem Kept.dioClear {n eval} (h : Kept s₀ s) : Kept s₀ (s.dioClear n eval) :=
  .ite h (have h1 := h.dioEnter; .ite h1.dioFollow h1)

theorem Kept.dioTrip {n cause} (h : Kept s₀ s) : Kept s₀ (s.dioTrip n cause) := .ite h h.dioEnter.setF.incF.raise
theorem Kept.dioBlank {n} (h : Kept s₀ s) : Kept s₀ (s.dioBlank n) := h.setF.setF.setF.modDio.dioFb

theorem Kept.dioCfg {n w} (h : Kept s₀ s) : Kept s₀ (s.dioCfg n w) := by
  unfold State.dioCfg
  extract_lets _ s1 _ s2 s3
  have h1 : Kept s₀ s1 := h.setReg
  have h2 : Kept s₀ s2 := .ite h1 h1.setF.modDio
  have h3 : Kept s₀ s3 := h2.setF
  exact .ite (.dioBlank (.setF (.setF (.ite h3 h3.dioEnter)))) <| .ite h2.dioBlank <|
    .ite (.ite h2.dioEnter h2.dioFollow) h2

theorem Kept.dioCfgWrite {who n w} (h : Kept s₀ s) : Kept s₀ (s.dioCfgWrite who n w) := .ite h.conflict.busErr h.dioCfg

theorem KeptBody.dioSet : KeptBody bodyDioSet := by
  unfold bodyDioSet
  refine .fixedLen ⟨fun h => ?_⟩
  exact .ite h.badParam <| .ite h.badParam <| .ite h.cmdConflict <| .ite h.wrongState <| .ite h.dioClear.ok <|
    .ite h.cmdConflict h.dioCommand.ok

theorem Kept.dioEn {en} (h : Kept s₀ s) : Kept s₀ (s.dioEn en) :=
  .ite h (h.setFlag.forBelow (fun h => .ite h.dioFollow h.dioFollow.dioBlank))

theorem Kept.dioCmdWrite {who n out clear} (h : Kept s₀ s) : Kept s₀ (s.dioCmdWrite who n out clear) :=
  .ite h.dioClear (h.ownedWrite (fun g => (g.when .dioClear).dioCommand))

theorem Kept.dioVal {n v} (h : Kept s₀ s) : Kept s₀ (s.dioVal n v) :=
  have h1 := h.setFlag.dioFb
  .ite h1.raise h1

theorem Kept.dioIn {n v ticks} (h : Kept s₀ s) : Kept s₀ (s.dioIn n v ticks) :=
  .ite h (have h1 := h.setFlag.modDio; .ite h1.dioVal h1)

theorem Answers.dioWireBreakChange {n x} (h : Kept s₀ s) : Answers s₀ (execDioWireBreakChange n x s) :=
  .next <| .ite h (have h1 := h.modDio; .ite (h1.setFlag.when .raise) h1)

theorem Answers.vdioUndervoltage (h : Kept s₀ s) : Answers s₀ (execVdioUndervoltage s) :=
  .next (h.setF.forBelow (fun h => have h1 := h.setF; .ite h1.dioEnter h1)).raise

theorem Answers.vdioRestart (h : Kept s₀ s) : Answers s₀ (execVdioRestart s) :=
  .next (h.setF.forBelow (fun h => have h1 := h.setF; .ite h1.dioEnter h1)).raise

theorem Answers.dioOvertemp {n hot} (h : Kept s₀ s) : Answers s₀ (execDioOvertemp n hot s) :=
  have h1 := h.modDio
  .next <| .ite h1.dioTrip h1

/-! The functions of `Machine/AccBase.lean`. -/

theorem Kept.accTripped {kind n} (h : Kept s₀ s) : Kept s₀ (s.accTripped kind n) := .ite h.setF.setF.raise h

/-! The functions of `Machine/Hss.lean`. -/

theorem Kept.modHss {n g} (h : Kept s₀ s) : Kept s₀ (s.modHss n g) := h.frame

theorem Kept.hssEach {m g} (h : Kept s₀ s) (hg : ∀ {x0 s}, Kept s₀ s → Kept s₀ (g x0 s)) : Kept s₀ (s.hssEach m g) :=
  h.foldl (fun h => hg h)

theorem Kept.hssDrive {m on} (h : Kept s₀ s) : Kept s₀ (s.hssDrive m on) := h.hssEach (fun g => g.setFlag.when .setF)
theorem Kept.hssOff {m st} (h : Kept s₀ s) : Kept s₀ (s.hssOff m st) := (h.hssEach .setF).hssDrive.modHss

theorem Kept.hssOn {m window} (h : Kept s₀ s) : Kept s₀ (s.hssOn m window) :=
  (h.setF.modHss.hssEach (fun h => have h3 := h.modHss.setF.setF; .ite h3.setF h3)).hssDrive

theorem Kept.hssGated {m} (h : Kept s₀ s) : Kept s₀ (s.hssGated m) := h.hssEach .setF
theorem Kept.hssFollow {m} (h : Kept s₀ s) : Kept s₀ (s.hssFollow m) := .ite h <| .ite h.hssGated h.hssOn
theorem Kept.hssTake {m d} (h : Kept s₀ s) : Kept s₀ (s.hssTake m d) := .ite h.setF.modHss h.modHss

theorem Kept.hssCommand {m d} (h : Kept s₀ s) : Kept s₀ (s.hssCommand m d) := by
  unfold State.hssCommand
  extract_lets s1
  have h1 : Kept s₀ s1 := h.modHss.hssTake
  refine .ite h1 ?_
  split
  · exact h1.hssFollow
  · exact .ite h1.hssOff <| .ite h1.hssDrive.modHss h1
  · exact .ite h1.hssOff <| .ite h1.hssDrive.modHss h1
  · exact .ite h1.hssOff h1
  · exact .ite h1.hssOff h1
  · exact .ite h1.hssOff h1
  · exact h1

theorem Kept.hssClear {n eval} (h : Kept s₀ s) : Kept s₀ (s.hssClear n eval) :=
  .ite h (have h1 := (h.hssEach (fun h => h.setF.setF)).hssOff; .ite h1.hssFollow h1)

theorem Kept.hssTrip {m} (h : Kept s₀ s) : Kept s₀ (s.hssTrip m) := h.hssOff.hssEach (fun h => h.incF.raise.accTripped)

theorem Kept.hssFault {m cause} (h : Kept s₀ s) : Kept s₀ (s.hssFault m cause) :=
  have h1 := h.hssEach .setF
  .ite (h1.hssEach .incF).hssOff h1.hssTrip

theorem Kept.hssGroupOff {g} (h : Kept s₀ s) : Kept s₀ (s.hssGroupOff g) := h.foldl (fun h => .ite h h.hssOff)

theorem Kept.hssGateClose (h : Kept s₀ s) : Kept s₀ s.hssGateClose := by
  unfold State.hssGateClose
  refine h.forBelow (fun h => ?_)
  refine .ite h ?_
  split
  · exact h.hssOff.hssGated
  · exact h.hssOff.hssGated
  · exact h.hssOff.hssGated
  · exact h.hssOff.hssGated
  · exact .ite h.hssOff.hssGated h
  · exact h

theorem Kept.hssGrid {g} (h : Kept s₀ s) : Kept s₀ (s.hssGrid g) := .ite h h.frame

theorem Kept.hssPeriodStart {n} (h : Kept s₀ s) : Kept s₀ (s.hssPeriodStart n) := by
  unfold State.hssPeriodStart
  extract_lets _ s0 s1
  have h0 : Kept s₀ s0 := h.hssGrid
  have h1 : Kept s₀ s1 := by
    unfold s1
    split
    · exact h0.setF.modHss
    · exact h0
  exact .ite h1 <| .ite h1 ((h1.hssEach (fun g => g.when .setF)).hssEach .modHss).modHss.hssDrive

theorem Kept.hssOnEnd {n} (h : Kept s₀ s) : Kept s₀ (s.hssOnEnd n) :=
  .ite h <| .ite h (h.hssEach (fun g => g.when .setF)).hssDrive.modHss

theorem Kept.hssCurrent {m} (h : Kept s₀ s) : Kept s₀ (s.hssCurrent m) := (h.hssEach .setF).setF

theorem Kept.hssReading {n code range} (h : Kept s₀ s) : Kept s₀ (s.hssReading n code range) :=
  h.setF.setF.setF.setF.setFlag.modHss.hssCurrent

theorem Kept.hssUnder {n} (h : Kept s₀ s) : Kept s₀ (s.hssUnder n) :=
  .ite h.modHss.setF <| .ite h (have h1 := h.modHss; .ite h1.setF.raise h1)

theorem Kept.hssRange {n r} (h : Kept s₀ s) : Kept s₀ (s.hssRange n r) := h.modHss.setF

theorem Kept.hssAuto {n} (h : Kept s₀ s) : Kept s₀ (s.hssAuto n) :=
  .ite h <| .ite (.ite h.hssRange h) <| .ite h.modHss <| .ite h.hssRange h.modHss

theorem Kept.hssFixRange {n} (h : Kept s₀ s) : Kept s₀ (s.hssFixRange n) := .ite h h.hssRange
theorem Kept.hssSample {n code} (h : Kept s₀ s) : Kept s₀ (s.hssSample n code) := .ite h h.hssReading.hssUnder.hssAuto

theorem KeptBody.hssSet : KeptBody bodyHssSet := by
  unfold bodyHssSet
  refine .fixedLen ⟨fun {_ s₀ _} h => ?_⟩
  extract_lets _ _ _ s1
  have h1 : Kept s₀ s1 := h.setF
  exact .ite h.badParam <| .ite h.badParam <| .ite h.cmdConflict <|
    .ite (h1.when .hssClear).hssGated.finish (h1.when .hssClear).hssCommand.ok

theorem KeptBody.openLoadSweep : KeptBody bodyOpenLoadSweep := by
  unfold bodyOpenLoadSweep
  refine .fixedLen ⟨fun h => ?_⟩
  extract_lets
  refine .ite h.badParam ?_
  split
  · exact h.cmdConflict
  · exact .ite h.wrongState (h.forBelow (fun g => g.when .modHss)).frame.setF.stopServed.accept

theorem Kept.hssAgain {m} (h : Kept s₀ s) : Kept s₀ (s.hssAgain m) := by
  unfold State.hssAgain
  split
  · exact h.hssFollow
  · exact .ite h.hssOff h
  · exact h

theorem Kept.hssEnable (h : Kept s₀ s) : Kept s₀ s.hssEnable :=
  (h.setF.forBelow .frame).forBelow (fun h => .ite h.hssAgain h)

theorem Kept.hssDisable (h : Kept s₀ s) : Kept s₀ s.hssDisable := h.setF.forBelow (fun h => .ite h.hssOff h)
theorem Kept.hssEn {en} (h : Kept s₀ s) : Kept s₀ (s.hssEn en) := .ite h <| .ite h.hssEnable h.hssDisable

theorem Kept.hssCmdWrite {who n duty clear} (h : Kept s₀ s) : Kept s₀ (s.hssCmdWrite who n duty clear) :=
  .ite (.ite h (h.ownedWrite id)) <| .ite h.hssClear (h.ownedWrite (fun g => (g.when .hssClear).hssCommand))

theorem Kept.hssPar {n par} (h : Kept s₀ s) : Kept s₀ (s.hssPar n par) := by
  unfold State.hssPar
  exact .ite h <| .ite (.ite h h.setF) <| .ite (.ite h.setF h.setF.setF.release.hssFixRange) <| .ite h.setF.conflict <|
    .ite h.setF h.setF.setF.setOwner.hssFixRange

theorem Kept.hssRestart {m} (h : Kept s₀ s) : Kept s₀ (s.hssRestart m) :=
  .ite h <| .ite h.hssOff <| .ite h.hssOff.hssGated h.modHss

theorem Kept.hssSlot {m} (h : Kept s₀ s) : Kept s₀ (s.hssSlot m) :=
  .ite h <| .ite h.hssOff <| .ite h.hssOff.hssGated h.hssOn

theorem Answers.hssGroupRestart {g} (h : Kept s₀ s) : Answers s₀ (execHssGroupRestart g s) := by
  unfold execHssGroupRestart
  extract_lets _ s2 s3
  have h2 : Kept s₀ s2 := h.setF.setF.foldl .hssRestart
  have h3 : Kept s₀ s3 := by
    unfold s3
    split
    · exact h2.hssSlot
    · exact h2
  exact .next h3.raise

theorem Answers.hssOvertemp {n} (h : Kept s₀ s) : Answers s₀ (execHssOvertemp n s) :=
  have h1 := h.modHss
  .next <| .ite h1.hssFault h1

theorem Kept.hssRetry {m} (h : Kept s₀ s) : Kept s₀ (s.hssRetry m) := .ite h <| .ite h.hssOn h

theorem Answers.hssRangeChangeDone {n code} (h : Kept s₀ s) : Answers s₀ (execHssRangeChangeDone n code s) := by
  unfold execHssRangeChangeDone
  refine .next ?_
  split
  · exact h
  · exact h.modHss.hssReading.hssUnder.hssAuto

theorem Kept.hssDiag {n x b} (h : Kept s₀ s) : Kept s₀ (s.hssDiag n x b) := h.setFlag.when .raise

theorem Kept.hssSweepCh {open_ short n} (h : Kept s₀ s) : Kept s₀ (s.hssSweepCh open_ short n) :=
  .ite h.hssDiag.hssDiag <| .ite h.hssDiag h

theorem Kept.hssSwept {opens shorts} (h : Kept s₀ s) : Kept s₀ (s.hssSwept opens shorts) := by
  unfold State.hssSwept
  extract_lets _ s0
  have h0 : Kept s₀ s0 := h.frame.setF
  split
  · exact h
  · exact .ite h0.failStopped (h0.forBelow (fun g => g.when .hssSweepCh)).setF.setF.setF.setF.raise.ok

/-! The functions of `Machine/Sol.lean`. -/

theorem Kept.modSol {n g} (h : Kept s₀ s) : Kept s₀ (s.modSol n g) := h.frame.setF.setFlag

theorem Kept.solFin {r stat pl} (h : Kept s₀ s) : Kept s₀ (s.solFin r stat pl) := by
  unfold State.solFin
  split
  · exact h.finish
  · exact h

theorem Kept.solFail {r cause} (h : Kept s₀ s) : Kept s₀ (s.solFail r cause) := h.solFin
theorem Kept.solFinOn {n stat pl} (h : Kept s₀ s) : Kept s₀ (s.solFinOn n stat pl) := h.modSol.solFin

theorem Kept.solCharge {n} (h : Kept s₀ s) : Kept s₀ (s.solCharge n) := by
  unfold State.solCharge
  extract_lets s1
  have h1 : Kept s₀ s1 := by
    unfold s1
    split
    · exact h
    · exact h.modSol
  exact h1.setF

theorem Kept.solSwitchOff {n clamp} (h : Kept s₀ s) : Kept s₀ (s.solSwitchOff n clamp) := h.solCharge.modSol

theorem Kept.solKinkEnd {n t} (h : Kept s₀ s) : Kept s₀ (s.solKinkEnd n t) := by
  unfold State.solKinkEnd
  extract_lets _ s1
  have h1 : Kept s₀ s1 := h.modSol
  refine .ite h ?_
  split
  · exact h1.setF.setF
  · exact h1.setF.setF.raise

theorem Kept.solKinkOver {n cut} (h : Kept s₀ s) : Kept s₀ (s.solKinkOver n cut) := h.modSol

theorem Kept.solDrain {n clamp latch cause} (h : Kept s₀ s) : Kept s₀ (s.solDrain n clamp latch cause) := by
  unfold State.solDrain
  extract_lets _ s2
  have h2 : Kept s₀ s2 := h.solKinkOver.solSwitchOff.setF.modSol
  split
  · exact h2.setF
  · exact h2

theorem Kept.solLatch {n} (h : Kept s₀ s) : Kept s₀ (s.solLatch n) := h.setF.incF.raise.accTripped
theorem Kept.solReached {n} (h : Kept s₀ s) : Kept s₀ (s.solReached n) := h.modSol

theorem Kept.solResult {n} (h : Kept s₀ s) : Kept s₀ (s.solResult n) :=
  .ite h <| .ite h.solFinOn <| .ite h.solFinOn h.solFinOn

theorem Kept.solBegin {n k} (h : Kept s₀ s) : Kept s₀ (s.solBegin n k) := by
  unfold State.solBegin
  extract_lets s0
  have h0 : Kept s₀ s0 := h.solCharge
  exact .ite h0.solDrain.raise (have h1 := h0.setF.modSol; .ite h1.setF.solReached.raise.solResult h1.setF)

theorem Kept.solKinkAct {n} (h : Kept s₀ s) : Kept s₀ (s.solKinkAct n) := .ite h.solDrain h.solResult
theorem Kept.solNext {n} (h : Kept s₀ s) : Kept s₀ (s.solNext n) := h.solKinkOver.solBegin

theorem Kept.solStart {n p r} (h : Kept s₀ s) : Kept s₀ (s.solStart n p r) := by
  unfold State.solStart
  exact
    have h0 : Kept s₀ _ := .ite h.solKinkEnd.solKinkAct h;
    .ite h0.solFail h0.solCharge.setF.setF.setF.setF.modSol.solBegin

theorem Kept.solUnstick {n} (h : Kept s₀ s) : Kept s₀ (s.solUnstick n) := h.foldl .setF
theorem Kept.solClear {n} (h : Kept s₀ s) : Kept s₀ (s.solClear n) := .ite h.setF h

theorem Kept.solOn {n p r} (h : Kept s₀ s) : Kept s₀ (s.solOn n p r) :=
  .ite h.solFin <| .ite h.setF.solFail <| .ite h.setF.solFin <| .ite h.setF.setF.raise.solFail h.solStart

theorem Kept.solTake {n c} (h : Kept s₀ s) : Kept s₀ (s.solTake n c) := by
  unfold State.solTake
  extract_lets s1 s2
  have h1 : Kept s₀ s1 := h.modSol.solUnstick.when .setF
  have h2 : Kept s₀ s2 := h1.solFin
  exact .ite (.ite h1.solFail h1.solClear.solFin) <| .ite (.ite h2.solNext h2) <| .ite h1.solFail h1.solOn

theorem Kept.solTry {n} (h : Kept s₀ s) : Kept s₀ (s.solTry n) := by
  unfold State.solTry
  split
  · exact .ite h.solTake h
  · exact h

theorem Kept.solExam {n} (h : Kept s₀ s) : Kept s₀ (s.solExam n) := h.forBelow .solTry

theorem Kept.solLateAt {n i arr} (h : Kept s₀ s) : Kept s₀ (s.solLateAt n i arr) := by
  unfold State.solLateAt
  extract_lets s1
  have h1 : Kept s₀ s1 := (h.setF.when .setF).raise
  split
  · exact h
  · exact .ite h <| .ite h1.setF.modSol.raise.solFin <| .ite h1.modSol.solFail h1.modSol

theorem Kept.solQueue {n c} (h : Kept s₀ s) : Kept s₀ (s.solQueue n c) := by
  unfold State.solQueue
  extract_lets _ s1
  have h1 : Kept s₀ s1 := h.modSol
  refine .ite h.solFail ?_
  split
  · exact
      have h1 := h.modSol;
      .solExam (.ite h1.solLateAt h1)
  · exact .ite h.setF.raise.solFin (.solExam (.ite h1.solLateAt h1))

theorem Kept.solFlush {n cause} (h : Kept s₀ s) : Kept s₀ (s.solFlush n cause) := h.modSol.foldl .solFail

theorem Kept.solGateClose (h : Kept s₀ s) : Kept s₀ s.solGateClose :=
  h.forBelow (fun g => .ite g (have h1 := g.modSol.foldl .solFin; .ite h1.solDrain.setF.solFinOn h1))

theorem Kept.solSilence {n} (h : Kept s₀ s) : Kept s₀ (s.solSilence n) := h.solFlush.solQueue

theorem KeptBody.solRun : KeptBody bodySolRun :=
  .fixedLen ⟨fun h => .ite h.badParam <| .ite h.badParam <| .ite h.badParam <| .ite h.cmdConflict h.solQueue⟩

theorem Kept.solEn {en} (h : Kept s₀ s) : Kept s₀ (s.solEn en) :=
  .ite h (have h1 := h.setFlag; .ite h1 (h1.forBelow (fun h => .solFlush (.ite h.solDrain.solFinOn h))))

theorem Kept.solRelease {n} (h : Kept s₀ s) : Kept s₀ (s.solRelease n) := by
  unfold State.solRelease
  split
  · exact .ite h.modSol.solExam h
  · exact h

theorem Kept.solCmdWrite {who n w} (h : Kept s₀ s) : Kept s₀ (s.solCmdWrite who n w) := by
  unfold State.solCmdWrite
  extract_lets
  split
  · exact .ite h <| .ite (.ite h.solClear (h.ownedWrite id)) <|
      .ite (((h.when .solClear).when .solRelease).when .solFlush) <| .ite h.busErr h.solQueue
  · exact .ite (h.ownedWrite id) h.busErr

theorem Kept.solProf {p k b} (h : Kept s₀ s) : Kept s₀ (s.solProf p k b) := .ite h.frame.setReg h.setF.setReg

theorem Kept.solPar {n par} (h : Kept s₀ s) : Kept s₀ (s.solPar n par) :=
  .ite h <| .ite (.ite h h.setF.release) <| .ite h.conflict <| .ite h h.setF.setOwner

theorem Kept.solDuty {n dmax dwin} (h : Kept s₀ s) : Kept s₀ (s.solDuty n dmax dwin) :=
  have h1 := h.setF
  .ite h1 h1.setF.solCharge.modSol

theorem Answers.solDrainDone {n} (h : Kept s₀ s) : Answers s₀ (execSolDrainDone n s) :=
  .next <| .ite h <| .ite h.modSol.solLatch.solFinOn.solExam h.setF.solReached.solResult

theorem Kept.solMeas {n i mean v} (h : Kept s₀ s) : Kept s₀ (s.solMeas n i mean v) := h.modSol.setF.setF.setF

theorem Answers.solKinkSample {n i mean v} (h : Kept s₀ s) : Answers s₀ (execSolKinkSample n i mean v s) := by
  unfold execSolKinkSample
  extract_lets s1 _ _ s2
  have h1 : Kept s₀ s1 := h.solMeas
  have h2 : Kept s₀ s2 := h1.modSol
  refine .next <| .ite h1 ?_
  split
  · exact h2
  · exact h2.solKinkEnd.solKinkAct

theorem Kept.solTrip {n cause} (h : Kept s₀ s) : Kept s₀ (s.solTrip n cause) :=
  .ite h h.solKinkOver.solSwitchOff.setF.solLatch.solFinOn.solExam

theorem Answers.solOvertemp {n} (h : Kept s₀ s) : Answers s₀ (execSolOvertemp n s) :=
  have h1 := h.modSol
  .next <| .ite h1.solDrain h1

theorem Kept.solUv {n} (h : Kept s₀ s) : Kept s₀ (s.solUv n) := by
  unfold State.solUv
  exact
    have h1 := h.solFlush;
    have h2 : Kept s₀ _ := .ite h1 h1.setF;
    .ite (.ite h2.solDrain h2.solDrain.solFinOn) h2

/-! The functions of `Machine/Acc.lean`. -/

theorem Kept.modAcc {g} (h : Kept s₀ s) : Kept s₀ (s.modAcc g) := h.frame

theorem Kept.accGate (h : Kept s₀ s) : Kept s₀ s.accGate :=
  have h1 := h.setF.setFlag
  .ite h1.levelEdge.hssGateClose.solGateClose h1

theorem Kept.setOcc {k st serial out miss} (h : Kept s₀ s) : Kept s₀ (s.setOcc k st serial out miss) :=
  .ite h h.setF.setF.setF.setF.setF.raise.accGate

theorem Kept.occTake {st serial} (h : Kept s₀ s) : Kept s₀ (s.occTake st serial) := by
  unfold State.occTake
  split
  · exact h.setOcc
  · exact .ite h h.setF.raise.accGate

theorem Kept.occReply {serial zone} (h : Kept s₀ s) : Kept s₀ (s.occReply serial zone) := by
  unfold State.occReply
  split
  · exact .ite h.occTake h
  · exact .ite (.ite h.setOcc h.setOcc) <| .ite h.setOcc h.setOcc

theorem Kept.accOvr {x} (h : Kept s₀ s) : Kept s₀ (s.accOvr x) :=
  have h1 := h.setF
  .accGate (.ite h1.raise h1)

theorem Kept.accRelease (h : Kept s₀ s) : Kept s₀ s.accRelease := (h.forBelow .setOcc).setF.setF.accOvr
theorem Kept.accActuator {on} (h : Kept s₀ s) : Kept s₀ (s.accActuator on) := .ite h <| .ite h.hssCommand h.solQueue
theorem Kept.accEnd {why} (h : Kept s₀ s) : Kept s₀ (s.accEnd why) := .ite h.accActuator.setF.setF.raise h

theorem Kept.accSession {lock tp} (h : Kept s₀ s) : Kept s₀ (s.accSession lock tp) :=
  .ite h <| .ite h.modAcc <| .ite h.accActuator.setF.modAcc.raise h

theorem Kept.accDoorOpens (h : Kept s₀ s) : Kept s₀ s.accDoorOpens := by
  unfold State.accDoorOpens
  extract_lets s1 s1'
  have h1 : Kept s₀ s1 := h.accEnd
  have h1' : Kept s₀ s1' := h.raise
  refine .ite ?_ <| .ite h1'.occTake h1'
  split
  · split
    · exact h1.setOcc
    · exact h1.occTake
  · exact h1

theorem Kept.accWatch {s0} (h : Kept s₀ s) (_ : Kept s₀ s0) : Kept s₀ (s.accWatch s0) := by
  unfold State.accWatch
  exact
    have h1 : Kept s₀ _ := .ite h.accDoorOpens h;
    .ite (.ite h1.accOvr h1) <| .ite (.ite h1.accOvr h1) h1

theorem Kept.accCtrl {w} (h : Kept s₀ s) : Kept s₀ (s.accCtrl w) := by
  unfold State.accCtrl
  extract_lets s1
  have h1 : Kept s₀ s1 := h.setF.setF.setF
  refine .ite ?_ h1.setF.accEnd.modAcc
  split
  · exact .ite h1.setF.setF.modAcc h1.setF
  · exact h1.setF

theorem Kept.accLock {w} (h : Kept s₀ s) : Kept s₀ (s.accLock w) := by
  unfold State.accLock
  extract_lets _ _ _ _ s1
  have h1 : Kept s₀ s1 := .setF (.setF (.setF (.ite h.accEnd.setF.release h)))
  exact .ite h1 <| .ite h1.setF <| .ite h1.setF.conflict h1.setF.setF.setOwner

theorem Kept.accDioClaim {en ch n on filt} (h : Kept s₀ s) : Kept s₀ (s.accDioClaim en ch n on filt) := by
  unfold State.accDioClaim
  exact
    have h1 : Kept s₀ _ := .setF (.ite h.setF.release h);
    .ite h1 <| .ite h1.conflict h1.setF.setOwner.dioCfg

theorem Kept.accDoorWrite {w} (h : Kept s₀ s) : Kept s₀ (s.accDoorWrite w) := h.setF.setF.setF.accDioClaim.accDioClaim
theorem Kept.accCalWrite {z p high v} (h : Kept s₀ s) : Kept s₀ (s.accCalWrite z p high v) := .ite h.setF h.setReg
theorem Kept.accCode {on} (h : Kept s₀ s) : Kept s₀ (s.accCode on) := h.modAcc.useFree.emit
theorem Kept.accStart (h : Kept s₀ s) : Kept s₀ s.accStart := h.modAcc
theorem Kept.accOver (h : Kept s₀ s) : Kept s₀ s.accOver := .ite h.accStart h.modAcc
theorem Kept.calEnd {c stat pl} (h : Kept s₀ s) : Kept s₀ (s.calEnd c stat pl) := h.modAcc.finish

theorem Kept.accDisturb (h : Kept s₀ s) : Kept s₀ s.accDisturb := by
  unfold State.accDisturb
  extract_lets s1 s2 s3
  have h1 : Kept s₀ s1 := h.raise.modAcc
  have h2 : Kept s₀ s2 := h1.setF.raise.modAcc
  have h3 : Kept s₀ s3 := by
    unfold s3
    split
    · exact h2.calEnd
    · exact h2
  exact .ite h <| .ite h1 h3.accOver

theorem Answers.accQuietWindowEnd {a mv} (h : Kept s₀ s) : Answers s₀ (execAccQuietWindowEnd a mv s) :=
  .next <| .ite h (have h1 := h.setF; .ite h1.accDisturb h1)

theorem Kept.accAntf (h : Kept s₀ s) : Kept s₀ s.accAntf := h.setFlag

theorem Kept.accAnt {a ma} (h : Kept s₀ s) : Kept s₀ (s.accAnt a ma) :=
  have h1 := h.modAcc
  .accAntf (.ite h1.setF.raise <| .ite h1.setF.setF h1)

theorem Answers.accBurstEnd {a ma} (h : Kept s₀ s) : Answers s₀ (execAccBurstEnd a ma s) :=
  .next <| .ite h (have h1 := h.setF.accAnt; .ite h1.accDisturb h1)

theorem Kept.accFail (h : Kept s₀ s) : Kept s₀ s.accFail :=
  have h1 := h.incF.raise
  .ite h1 (have h2 := h1.modAcc; .ite h2 h2.setF.modAcc.levelEdge)

theorem Kept.accLast {tid zone tp} (h : Kept s₀ s) : Kept s₀ (s.accLast tid zone tp) := h.setF.setF.setF.modAcc

theorem Kept.accReply {s0 fr rssi} (h : Kept s₀ s0) : Kept s₀ (s0.accReply fr rssi) := by
  unfold State.accReply
  extract_lets s'
  have h' : Kept s₀ s' := h.setF
  refine .ite h <| .ite h' <| .ite h'.accDisturb ?_
  split
  · exact h'.accFail
  · exact .ite h' (have h1 := h'.accLast.modAcc; have h2 : Kept s₀ _ := .ite h1 h1.occReply.modAcc; .ite h2.accSession
      h2)

theorem Kept.accMisses (h : Kept s₀ s) : Kept s₀ s.accMisses := h.forBelow (fun h => .ite h h.setOcc)

theorem Kept.accStartup (h : Kept s₀ s) : Kept s₀ s.accStartup :=
  have h1 := h.modAcc
  .ite h1.setF.accGate h1

theorem Kept.calWrite {c ms} (h : Kept s₀ s) : Kept s₀ (s.calWrite c ms) := h.setReg.frame.setReg.frame

theorem Kept.calScan (h : Kept s₀ s) : Kept s₀ s.calScan := by
  unfold State.calScan
  split
  · exact h
  · refine .ite h.modAcc.failStopped ?_
    split
    · exact .ite h.calEnd h.modAcc
    · exact .ite h.modAcc h.calWrite.raise.calEnd
    · exact h.calEnd

theorem Kept.accPollEnd (h : Kept s₀ s) : Kept s₀ s.accPollEnd := h.modAcc.accOver

theorem Kept.accPollDist (h : Kept s₀ s) : Kept s₀ s.accPollDist :=
  have h1 := h.raise.modAcc
  .ite h1 h1.setF.raise.accPollEnd

theorem Kept.accPoll {mv fr} (h : Kept s₀ s) : Kept s₀ (s.accPoll mv fr) := by
  unfold State.accPoll
  extract_lets s1
  have h1 : Kept s₀ s1 := h.accCode
  refine .ite h <| .ite h.accPollEnd <| .ite h1.accPollDist <| .ite h1.accPollEnd <| .ite h1.accPollDist ?_
  split
  · exact h1.accFail.accPollEnd
  · exact h1.accLast.accSession.accPollEnd

theorem KeptBody.accCalibrate : KeptBody bodyAccCalibrate :=
  .fixedLen ⟨fun h => .ite h.badParam <| .ite h.badParam <| .ite h.wrongState <|
    .ite h.failed h.modAcc.stopServed.accept⟩

theorem KeptBody.accOverride : KeptBody bodyAccOverride := by
  unfold bodyAccOverride
  refine .fixedLen ⟨fun h => ?_⟩
  exact .ite h.badParam <| .ite (.ite h.ok <| .ite h.wrongState h.modAcc.accOvr.ok) <|
    .ite (.ok (.ite h.accRelease h)) <| .ite h.accOvr.ok h.ok

theorem Kept.accTokPut {k serial flags} (h : Kept s₀ s) : Kept s₀ (s.accTokPut k serial flags) :=
  h.setF.setF.setF.setF.frame

theorem KeptBody.tokenEnrol : KeptBody bodyTokenEnrol := by
  unfold bodyTokenEnrol
  refine .fixedLen ⟨fun h => ?_⟩
  extract_lets
  refine .ite h.badParam <| .ite h.badParam <| .ite h.badParam ?_
  split
  · exact .ok (.ite h.accTokPut h.accTokPut)
  · refine .ite h.notFound ?_
    split
    · exact h.accTokPut.ok
    · exact h.limit

theorem KeptBody.accStatus : KeptBody bodyAccStatus := .fixedLen ⟨.ok⟩

/-! The functions of `Machine/CrustCmd.lean`. -/

theorem Kept.crustRefuse {k} (h : Kept s₀ s) : Kept s₀ (s.crustRefuse k) := h.wrongState
theorem Kept.crustQueue {w} (h : Kept s₀ s) : Kept s₀ (s.crustQueue w) := h.modCrust

theorem KeptBody.crustRead : KeptBody bodyCrustRead :=
  .fixedLen ⟨fun h => .ite h.badParam <| .ite h.badParam <| .ite h.badParam <| .ite h.crustRefuse h.ok⟩

theorem KeptBody.crustWrite : KeptBody bodyCrustWrite :=
  .rangeLen ⟨fun h => .ite h.badParam <| .ite h.badParam <| .ite h.crustRefuse h.crustQueue⟩

theorem KeptBody.counterInc : KeptBody bodyCounterInc :=
  .fixedLen ⟨fun h => .ite h.badParam <| .ite h.crustRefuse <| .ite h.limit <| .ite h.ok h.crustQueue⟩

theorem KeptBody.logRead : KeptBody bodyLogRead := .fixedLen ⟨fun h => .ite h.badParam <| .ite h.crustRefuse h.ok⟩

theorem KeptBody.crustCompact : KeptBody bodyCrustCompact :=
  .fixedLen ⟨fun h => .ite h.crustRefuse h.modCrust.stopServed.accept⟩

theorem Kept.crustAnswer {w stat pl port} (h : Kept s₀ s) : Kept s₀ (s.crustAnswer w stat pl port) := by
  unfold State.crustAnswer
  split
  · exact h.finish
  · exact h.crustResult

theorem Kept.crustHead {w} (h : Kept s₀ s) : KeptOpt s₀ (s.crustHead w) := by
  unfold State.crustHead
  exact .ite (h.crustAppend.map .crustAnswer) <| .ite (.ite (.some h.crustAnswer) <|
    .ite (.some h.crustAnswer) (h.crustAppend.map .crustAnswer)) (h.bankMark.map .crustAnswer)

theorem Kept.crustPop (h : Kept s₀ s) : Kept s₀ s.crustPop := h.modCrust

theorem Kept.crustProgFail (h : Kept s₀ s) : Kept s₀ s.crustProgFail := by
  unfold State.crustProgFail
  extract_lets s1
  have h1 : Kept s₀ s1 := by
    unfold s1
    split
    · exact h.modCrust
    · exact h
  exact h1.incF.raise

theorem Kept.rdreq {key counter} (h : Kept s₀ s) : Kept s₀ (s.rdreq key counter) :=
  have h1 := h.setF.setFlag.setF
  .ite h1 h1.setRegBytes.setF

theorem Kept.wportDo {ws} (h : Kept s₀ s) : Kept s₀ (s.wportDo ws) := by
  unfold State.wportDo
  exact .ite h.logAdd.crustResult <| .ite h.crustResult <| .ite h.crustResult <|
    .ite (.ite h.crustResult h.crustQueue) <| .ite h.crustResult <| .ite h.crustResult h.crustQueue

theorem Kept.wportWord {i w} (h : Kept s₀ s) : Kept s₀ (s.wportWord i w) :=
  .ite h.modCrust.crustResult <| .ite h.modCrust.crustResult <| .ite h.modCrust.wportDo h.modCrust

theorem Answers.crustRecordWritten {ok} (h : Kept s₀ s) : Answers s₀ (execCrustRecordWritten ok s) := by
  unfold execCrustRecordWritten
  refine .next ?_
  split
  · exact h
  · refine .ite h <| .ite h.crustProgFail ?_
    split
    next heq => exact h.crustPop.crustHead.of_some heq
    · exact h

theorem Answers.crustOpenDone {index torn} (h : Kept s₀ s) : Answers s₀ (execCrustOpenDone index torn s) := by
  unfold execCrustOpenDone
  extract_lets s1
  have h1 : Kept s₀ s1 := by
    unfold s1
    split
    · exact h.modCrust
    · exact h
  exact .next <| .ite h <| .ite h1.setF.levelEdge h1

theorem Kept.crustDamaged {seq} (h : Kept s₀ s) : Kept s₀ (s.crustDamaged seq) := .ite h.modCrust.incF.raise h

theorem Answers.crustCompactionDone (h : Kept s₀ s) : Answers s₀ (execCrustCompactionDone s) := by
  unfold execCrustCompactionDone
  extract_lets s0
  have h0 : Kept s₀ s0 := h.modCrust
  refine .next <| .ite h ?_
  split
  · exact h
  · split
    · exact .ite h0.failStopped h0.compact.raise.ok
    · exact h0.compact.frame.raise

theorem Kept.wearRegs (h : Kept s₀ s) : Kept s₀ s.wearRegs := h.setF.setF

theorem Answers.crustEraseDone {ok} (h : Kept s₀ s) : Answers s₀ (execCrustEraseDone ok s) := by
  unfold execCrustEraseDone
  refine .next ?_
  split
  · exact h
  · exact .ite h <| .ite h.modCrust.incF.raise (have h1 := h.modCrust.wearRegs; .ite h1.modCrust.raise h1)

theorem Answers.crustSpaceWaitExpiry (h : Kept s₀ s) : Answers s₀ (execCrustSpaceWaitExpiry s) := by
  unfold execCrustSpaceWaitExpiry
  refine .next ?_
  split
  · exact h
  · split
    · exact h
    · exact h.crustPop.crustAnswer

/-! The functions of `Machine/RegAccess.lean`. -/

theorem Kept.plainWrite {r a w} (h : Kept s₀ s) : Kept s₀ (s.plainWrite r a w) := h.setReg

/-! The functions of `Machine/Mem.lean`. -/

theorem Kept.eccRecord {a store} (h : Kept s₀ s) : Kept s₀ (s.eccRecord a store) :=
  .incF (.setF (.ite h.setF h.setF.useFree))

theorem Kept.eccCorrect {w} (h : Kept s₀ s) : Kept s₀ (s.eccCorrect w) := h.frame.incF.raise
theorem Kept.eccFix {a n} (h : Kept s₀ s) : Kept s₀ (s.eccFix a n) := h.foldl .eccCorrect
theorem Kept.eccRead {a n} (h : Kept s₀ s) : Kept s₀ (s.eccRead a n).1 := .ite_fst h.eccRecord.raise h.eccFix
theorem Kept.critRead {a n} (h : Kept s₀ s) : Kept s₀ (s.critRead a n) := .ite h.eccRecord.reqReset h.eccFix

theorem Kept.memRead {a n} (h : Kept s₀ s) : Kept s₀ (s.memRead a n).1 := by
  unfold State.memRead
  extract_lets
  split
  · exact h
  · exact h
  · exact h
  · exact .ite_fst h <| .ite_fst h.eccRecord h.eccFix

theorem Kept.touch {a} (h : Kept s₀ s) : Kept s₀ (s.touch a) := by
  unfold State.touch
  extract_lets
  split
  · split
    · exact .ite h.frame h
    · exact h
  · exact h

theorem Kept.memWrite {a n v} (h : Kept s₀ s) : KeptOpt s₀ (s.memWrite a n v) := by
  unfold State.memWrite
  split
  · exact .none
  · exact .none
  · exact .none
  · exact .none
  · exact .ite .none (.some h.mput.touch)

/-! The functions of `Machine/Mmu.lean`. -/

theorem Kept.ptRead {own a} (h : Kept s₀ s) : Kept s₀ (s.ptRead own a).1 := by
  unfold State.ptRead
  extract_lets
  refine .ite_fst h ?_
  split
  next heq => exact h.memRead.fst heq
  next heq => exact h.memRead.fst heq

theorem Kept.walk {own ttb va} (h : Kept s₀ s) : Kept s₀ (s.walk own ttb va).1 := by
  unfold State.walk
  split
  next heq => exact h.ptRead.fst heq
  next heq =>
    have h1 := h.ptRead.fst heq
    refine .ite_fst h1 <| .ite_fst ?_ h1
    split
    next heq => exact h1.ptRead.fst heq
    next heq =>
      have h2 := h1.ptRead.fst heq
      exact .ite_fst h2 <| .ite_fst h2 h2

theorem Kept.translate {c va kind} (h : Kept s₀ s) : Kept s₀ (s.translate c va kind).1 := by
  unfold State.translate
  extract_lets _ s'
  have h' : Kept s₀ s' := h.critRead
  refine .ite_fst h ?_
  split
  · exact .ite_fst h' h'
  · refine .ite_fst h' ?_
    split
    next heq => exact h'.spend.useFree.walk.fst heq
    next heq =>
      exact
        have h2 := (h'.spend.useFree.walk.fst heq).setCore;
        .ite_fst h2 h2

theorem Kept.tlbDrop {c p} (h : Kept s₀ s) : Kept s₀ (s.tlbDrop c p) := h.setCore

theorem Kept.tlbLock {c page} (h : Kept s₀ s) : Kept s₀ (s.tlbLock c page) := by
  unfold State.tlbLock
  extract_lets
  refine .ite h.setCore ?_
  split
  next heq => exact (h.walk.fst heq).setCore
  next heq => exact (h.walk.fst heq).tlbDrop.setCore

theorem Kept.tlbOp {c v} (h : Kept s₀ s) : Kept s₀ (s.tlbOp c v) := by
  unfold State.tlbOp
  extract_lets
  split
  · exact h.tlbDrop
  · exact h.tlbDrop
  · exact h.tlbDrop
  · exact h.tlbDrop
  · exact h.tlbLock
  · exact h

theorem Kept.iommuFault {ctx ini va wr type} (h : Kept s₀ s) : Kept s₀ (s.iommuFault ctx ini va wr type) :=
  .ite h h.setF.setF.setFlag.setF.setF.setFlag.levelEdge

theorem Kept.ioTranslate {ctx ini va wr} (h : Kept s₀ s) : Kept s₀ (s.ioTranslate ctx ini va wr).1 := by
  unfold State.ioTranslate
  extract_lets s'
  have h' : Kept s₀ s' := h.critRead.critRead
  refine .ite_fst h.iommuFault ?_
  split
  · exact .ite_fst h'.iommuFault h'
  · split
    next heq => exact (h'.walk.fst heq).iommuFault
    next heq =>
      have h1 := h'.walk.fst heq
      exact .ite_fst h1.frame.iommuFault h1.frame

theorem Kept.ioStream {st va wr} (h : Kept s₀ s) : Kept s₀ (s.ioStream st va wr).1 :=
  .ite_fst h.ioTranslate h.iommuFault

theorem Kept.iotlbInv {ctx all} (h : Kept s₀ s) : Kept s₀ (s.iotlbInv ctx all) := h.frame

/-! The functions of `Machine/Dma.lean`. -/

theorem Kept.modDch {n f} (h : Kept s₀ s) : Kept s₀ (s.modDch n f) := h.frame
theorem Kept.modRec {n f} (h : Kept s₀ s) : Kept s₀ (s.modRec n f) := h.frame
theorem Kept.recCause {n cause} (h : Kept s₀ s) : Kept s₀ (s.recCause n cause) := h.modRec.setF

theorem Kept.openRec {n src dst len} (h : Kept s₀ s) : Kept s₀ (s.openRec n src dst len) :=
  h.frame.setF.setF.setF.modDch

theorem Kept.openBurst {n} (h : Kept s₀ s) : Kept s₀ (s.openBurst n) := .modDch (.ite h.modRec.modDch h.openRec)
theorem Kept.dmaYield {n} (h : Kept s₀ s) : Kept s₀ (s.dmaYield n) := h.frame

theorem Kept.dmaFail {n cause fa} (h : Kept s₀ s) : Kept s₀ (s.dmaFail n cause fa) :=
  h.recCause.modRec.setF.setFlag.modDch.dmaYield

theorem Kept.dmaError {n cause fa} (h : Kept s₀ s) : Kept s₀ (s.dmaError n cause fa) := h.dmaFail.raise
theorem Kept.dmaPause {n fa} (h : Kept s₀ s) : Kept s₀ (s.dmaPause n fa) := h.recCause.modRec.setF.dmaYield.raise
theorem Kept.dmaWait {n cause} (h : Kept s₀ s) : Kept s₀ (s.dmaWait n cause) := h.recCause.setF.dmaYield

theorem Kept.dmaEcc {n fa} (h : Kept s₀ s) : Kept s₀ (s.dmaEcc n fa) :=
  have h1 := h.raise
  .ite h1.dmaError h1.dmaWait.modDch

theorem Kept.ioReadMem {ctx ini n va} (h : Kept s₀ s) : Kept s₀ (s.ioReadMem ctx ini n va).1 := by
  induction n generalizing va s with
  | zero => exact h
  | succ n ih =>
    unfold State.ioReadMem
    split
    next heq => exact h.ioTranslate.fst heq
    next hpa =>
      have h1 := h.ioTranslate.fst hpa
      split
      next heq => exact h1.memRead.fst heq
      next heq => exact h1.memRead.fst heq
      next hv =>
        have h2 := h1.memRead.fst hv
        split
        next heq => exact (ih h2).fst heq
        · exact ih h2

theorem Kept.fetchRec {n} (h : Kept s₀ s) : Kept s₀ (s.fetchRec n) := .ite h h.openRec

theorem Kept.fetchDesc {n} (h : Kept s₀ s) : Kept s₀ (s.fetchDesc n) := by
  unfold State.fetchDesc
  extract_lets
  refine .ite h.fetchRec.dmaError ?_
  split
  next heq => exact (h.ioReadMem.fst heq).fetchRec.dmaPause
  next heq => exact (h.ioReadMem.fst heq).fetchRec.dmaError
  next heq => exact (h.ioReadMem.fst heq).fetchRec.dmaEcc
  next heq =>
    have h1 := h.ioReadMem.fst heq
    exact .ite h1.fetchRec.dmaError h1.modDch.setF.openBurst

theorem Kept.dmaStart {n} (h : Kept s₀ s) : Kept s₀ (s.dmaStart n) := .ite h.setF.setF.modDch.fetchDesc h
theorem Kept.dmaAbort {n} (h : Kept s₀ s) : Kept s₀ (s.dmaAbort n) := .ite h.dmaError h

theorem Kept.dmaReplay {n} (h : Kept s₀ s) : Kept s₀ (s.dmaReplay n) :=
  have h2 := h.setF.modRec.modDch.critRead.raise
  .ite h2 h2.fetchDesc

theorem Kept.dmaResume {n} (h : Kept s₀ s) : Kept s₀ (s.dmaResume n) := .ite h.dmaReplay h

theorem Kept.dmaErrClear {n} (h : Kept s₀ s) : Kept s₀ (s.dmaErrClear n) :=
  have h1 := h.setFlag
  .ite h1.setF.modRec h1

theorem Kept.dmaCtrl {n v} (h : Kept s₀ s) : Kept s₀ (s.dmaCtrl n v) :=
  ((h.when .dmaStart).when .dmaResume).when .dmaAbort

theorem Kept.dmaL2 (h : Kept s₀ s) : Kept s₀ s.dmaL2 :=
  h.forBelow (fun h => .ite h.recCause <| .ite h.dmaFail h.setF.setF.setFlag)

/-! The functions of `Machine/ResetBase.lean`. -/

theorem Kept.modPwr {g} (h : Kept s₀ s) : Kept s₀ (s.modPwr g) := h.frame
theorem Kept.upLost (h : Kept s₀ s) : Kept s₀ s.upLost := h.foldl .raise

theorem Kept.resetL1 {d} (h : Kept s₀ s) : Kept s₀ (s.resetL1 d) := by
  unfold State.resetL1
  extract_lets s' _ _ _ _ _ s1
  have h' : Kept s₀ s' := h.upLost
  have h1 : Kept s₀ s1 :=
    ⟨h'.pending, h'.now, h'.out, fun w => memWf_filter _ _ (h'.mem w), fun _ => rfl, fun w => regsWf_regsKept
      (h'.regs w)⟩
  exact .ite h1.setF.setF.setF h1.setF.setF

theorem Kept.rails {en pg mon} (h : Kept s₀ s) : Kept s₀ (s.rails en pg mon) := h.setF.setF.setF
theorem Kept.railStart {step} (h : Kept s₀ s) : Kept s₀ (s.railStart step) := h.rails.modPwr
theorem Kept.pdOn {d} (h : Kept s₀ s) : Kept s₀ (s.pdOn d) := h.setFbit.modPwr
theorem Kept.pdForPan {p} (h : Kept s₀ s) : Kept s₀ (s.pdForPan p) := .ite h.pdOn h

theorem Kept.coreRelease {c} (h : Kept s₀ s) : Kept s₀ (s.coreRelease c) :=
  .ite h <| .ite h.setCore.setF.setF.setFbit.frame.raise h.setCore

theorem Kept.panRelease {p} (h : Kept s₀ s) : Kept s₀ (s.panRelease p) := .ite h h.coreRelease.setF

theorem Kept.wakeStart (h : Kept s₀ s) : Kept s₀ s.wakeStart := by
  unfold State.wakeStart
  exact h.resetL1.frame.railStart.setF.setF.modPwr

theorem Kept.parkWake {src detail} (h : Kept s₀ s) : Kept s₀ (s.parkWake src detail) := by
  unfold State.parkWake
  extract_lets s0 _ s2
  have h0 : Kept s₀ s0 := .ite h.setFbit h
  have h2 : Kept s₀ s2 := h0.setF.setF.setFlag.modPwr
  exact .ite h <| .ite h0 <| .ite h2.wakeStart h2

end Sys2Proof.Machine
end

