-- ==== Sys2Proof/Proofs/KeptLinks.lean ====
section
/-! PROOF. CAN, time, Ethernet, events, Brineline, LED drive, measurement, sessions and update keep it. -/
namespace Sys2Proof.Machine

variable {s₀ s t : State}

/-! The functions of `Machine/CanBase.lean`. -/

theorem Kept.modCan {n g} (h : Kept s₀ s) : Kept s₀ (s.modCan n g) := h.frame
theorem Kept.modTide {n g} (h : Kept s₀ s) : Kept s₀ (s.modTide n g) := h.frame
theorem Kept.canEvt {n k} (h : Kept s₀ s) : Kept s₀ (s.canEvt n k) := h.raise
theorem Kept.setCtl {base hi lo v} (h : Kept s₀ s) : Kept s₀ (s.setCtl base hi lo v) := h.mput
theorem Kept.setTx {n t k b} (h : Kept s₀ s) : Kept s₀ (s.setTx n t k b) := h.setCtl
theorem Kept.setTide {n st} (h : Kept s₀ s) : Kept s₀ (s.setTide n st) := .ite h h.setF.raise
theorem Kept.setQpend {n b} (h : Kept s₀ s) : Kept s₀ (s.setQpend n b) := h.setFbit.levelEdge

theorem Kept.tideRecord {n src late capt} (h : Kept s₀ s) : Kept s₀ (s.tideRecord n src late capt) :=
  h.setF.setFlag.setFlag.setF.incF.setF

theorem Kept.tideWake {n src capt} (h : Kept s₀ s) : Kept s₀ (s.tideWake n src capt) :=
  .ite h.tideRecord.setF.modTide.setTide <| .ite h.tideRecord.setF.modTide.raise.setTide h

theorem Kept.canEnd {n t g} (h : Kept s₀ s) (hg : ∀ {x0 s}, Kept s₀ s → Kept s₀ (g x0 s)) : Kept s₀ (s.canEnd n t g) :=
  h.modCan.foldl (fun h => hg h)

theorem Kept.canEndFailed {n t} (h : Kept s₀ s) : Kept s₀ (s.canEndFailed n t) := h.canEnd .failed

theorem Kept.canLate {n t} (h : Kept s₀ s) : Kept s₀ (s.canLate n t) := by
  unfold State.canLate
  extract_lets s1
  have h1 : Kept s₀ s1 := h.setTx.canEvt
  split
  · exact h1.setTx.setTx.canEvt.canEnd .finish
  · exact h1.setTx.setTx.canEvt.canEndFailed
  · exact h1

theorem Kept.canIdle {n} (h : Kept s₀ s) : Kept s₀ (s.canIdle n) := by
  unfold State.canIdle
  extract_lets s1
  have h1 : Kept s₀ s1 := by
    unfold s1
    split
    · exact .ite h.setTx h
    · exact h
  exact h1.modCan.setF

theorem Kept.setFresh {n k v} (h : Kept s₀ s) : Kept s₀ (s.setFresh n k v) := h.setReg.setReg

theorem Kept.canRaise {n t} (h : Kept s₀ s) : Kept s₀ (s.canRaise n t) := by
  unfold State.canRaise
  extract_lets _ _ s1 s2 s3 s4
  have h1 : Kept s₀ s1 := h.setCtl.setTx
  have h2 : Kept s₀ s2 := .ite h1.setTx h1
  have h3 : Kept s₀ s3 := .ite h2.setFresh h2
  have h4 : Kept s₀ s4 := .ite h3 <| .ite h3.setTx.setTx.canEvt h3.setTx.canLate
  exact .ite h <| .ite h4.tideWake h4

theorem Kept.canCancel {n t} (h : Kept s₀ s) : Kept s₀ (s.canCancel n t) :=
  .ite h <| .ite h.modCan h.setTx.modCan.canEndFailed

theorem Kept.canPart {n t x} (h : Kept s₀ s) : Kept s₀ (s.canPart n t x) := by
  unfold State.canPart
  extract_lets
  split
  · exact h.mput
  · exact h.mput
  · exact h.setCtl
  · exact h.mput
  · exact h.mput
  · exact h.setCtl
  · exact h

theorem Kept.canCopy {n t xs} (h : Kept s₀ s) : Kept s₀ (s.canCopy n t xs) := by
  unfold State.canCopy
  extract_lets s1 s2
  have h1 : Kept s₀ s1 := h.foldl .canPart
  have h2 : Kept s₀ s2 := by
    unfold s2
    split
    · exact h1.setTx
    · exact h1
  exact .ite h2.canRaise h1

theorem Kept.canTake {n x} (h : Kept s₀ s) : Kept s₀ (s.canTake n x) := h.modCan.canCopy
theorem Kept.canOffer {n x} (h : Kept s₀ s) : Kept s₀ (s.canOffer n x) := .ite h.modCan h.canTake
theorem Kept.canTakeCopy {n t} (h : Kept s₀ s) : Kept s₀ (s.canTakeCopy n t) := h.modCan.foldl .canTake

theorem Kept.isoFeed {n} (h : Kept s₀ s) : Kept s₀ (s.isoFeed n) := by
  unfold State.isoFeed
  extract_lets
  refine .ite h ?_
  split
  · exact h
  · exact h.modIso.canCopy

theorem Kept.tideIdle {n} (h : Kept s₀ s) : Kept s₀ (s.tideIdle n) := .ite h.setF.modTide h
theorem Kept.tideLow {n} (h : Kept s₀ s) : Kept s₀ (s.tideLow n) := .ite h.modTide h.setF

theorem Kept.canArb {n} (h : Kept s₀ s) : Kept s₀ (s.canArb n) := by
  unfold State.canArb
  extract_lets s'
  have h' : Kept s₀ s' := h.isoFeed
  refine .ite h ?_
  split
  · exact h'.tideIdle
  · exact
      have h1 := h'.useFree.modCan.setF;
      .ite h1.setTx h1

theorem Kept.canTxfSync {n} (h : Kept s₀ s) : Kept s₀ (s.canTxfSync n) := h.setF
theorem Kept.canPop {n} (h : Kept s₀ s) : Kept s₀ (s.canPop n) := h.modCan.canTxfSync

theorem Kept.canHeadsLate {n rs} (h : Kept s₀ s) : Kept s₀ (s.canHeadsLate n rs) := by
  induction rs generalizing s with
  | nil => exact h
  | cons r rs ih =>
    unfold State.canHeadsLate
    exact .ite (.ite (ih h.canEvt.canPop.canEvt) (.ite (ih h.canEvt.canPop.canEvt) h.canEvt.modCan)) h

theorem Kept.canHeadLate {n} (h : Kept s₀ s) : Kept s₀ (s.canHeadLate n) := .ite h h.canHeadsLate

theorem Kept.canTimeEval {n} (h : Kept s₀ s) : Kept s₀ (s.canTimeEval n) :=
  (h.forBelow (fun h => .ite h.canLate h)).canHeadLate.canArb

theorem Kept.canEnqueue {n b} (h : Kept s₀ s) : Kept s₀ (s.canEnqueue n b).1 := by
  unfold State.canEnqueue
  extract_lets _ _ _ s1
  have h1 : Kept s₀ s1 := .when (.ite h.tideWake h) .canEvt
  exact .ite_fst h.canEvt <| .ite_fst h1.canEvt <| .ite_fst h1.canEvt h1.modCan.canTxfSync.canArb

theorem Kept.canPort {n b} (h : Kept s₀ s) : Kept s₀ (s.canPort n b) := .ite h.modCan.canEnqueue h.modCan

theorem Kept.canRecord {base f auth rfv new lost} (h : Kept s₀ s) : Kept s₀ (s.canRecord base f auth rfv new lost) :=
  h.mputBytes

theorem Kept.canFile {n j f auth rfv} (h : Kept s₀ s) : Kept s₀ (s.canFile n j f auth rfv) :=
  (h.canRecord.when .canEvt).when .canEvt

theorem Kept.canUnfiled {n f} (h : Kept s₀ s) : Kept s₀ (s.canUnfiled n f) := .ite h.canRecord.setF.canEvt h.incF.canEvt

theorem Kept.canFault {n t0 r0} (h : Kept s₀ s) : Kept s₀ (s.canFault n t0 r0) := by
  unfold State.canFault
  extract_lets _ _ s1 s2
  have h1 : Kept s₀ s1 := h.when .canEvt
  have h2 : Kept s₀ s2 := .ite h1.setF.canEvt <| .ite h1.setF h1
  exact .ite h2.canIdle.setF.modCan.incF.canEvt h2

theorem Kept.setRec {n r} (h : Kept s₀ s) : Kept s₀ (s.setRec n r) := h.setF.setFlag

theorem Kept.canRecDown {n} (h : Kept s₀ s) : Kept s₀ (s.canRecDown n) :=
  .ite h <| .ite h.setRec.useFree.canFault h.setRec.canFault

theorem Kept.canStop {n} (h : Kept s₀ s) : Kept s₀ (s.canStop n) := .ite h.setF h
theorem Kept.canErr {n lec dataPhase} (h : Kept s₀ s) : Kept s₀ (s.canErr n lec dataPhase) := h.setF.incF.canEvt

/-! The functions of `Machine/Tide.lean`. -/

theorem Kept.scfSend {n flags} (h : Kept s₀ s) : Kept s₀ (s.scfSend n flags) := .ite h h.canOffer.canArb
theorem Kept.tideBack {n} (h : Kept s₀ s) : Kept s₀ (s.tideBack n) := h.setQpend.setF.setF.setTide.canArb

theorem Kept.tideEval {n} (h : Kept s₀ s) : Kept s₀ (s.tideEval n) := by
  unfold State.tideEval
  extract_lets _ _ _ _ s2 _ s3
  have h2 : Kept s₀ s2 := h.setFlag.setF.setF.setF.setFlag
  have h3 : Kept s₀ s3 := .ite h2.setQpend h2
  exact .ite h <| .ite (.ite h3.tideBack.raise <| .ite h3.setQpend h3) h2

theorem Kept.tideCommit {n} (h : Kept s₀ s) : Kept s₀ (s.tideCommit n) := h.setQpend.setF.scfSend

theorem Kept.scfReceived {n b} (h : Kept s₀ s) : Kept s₀ (s.scfReceived n b) :=
  have h2 := h.modTide.tideEval
  .ite (.ite h2.scfSend <| .ite h2.tideCommit h2) h2

theorem Kept.inqSync (h : Kept s₀ s) : Kept s₀ s.inqSync :=
  have h1 := h.setF
  .ite h1.setF h1

theorem Kept.sluiceIn {src origin f} (h : Kept s₀ s) : Kept s₀ (s.sluiceIn src origin f) :=
  .ite h <| .ite h.incF.raise h.frame.inqSync

theorem Kept.canFileAll {n j f auth rfv} (h : Kept s₀ s) : Kept s₀ (s.canFileAll n j f auth rfv) :=
  have h1 := h.canFile
  .sluiceIn (.ite (.ite h1.scfReceived h1.tideEval) h1.modTide.tideEval)

theorem Kept.canHold {n hh} (h : Kept s₀ s) : Kept s₀ (s.canHold n hh) := by
  unfold State.canHold
  split
  · exact .ite h.modCan.canFileAll.setF.canEvt h.modCan
  · exact h.modCan

theorem Kept.canAccept {n f} (h : Kept s₀ s) : Kept s₀ (s.canAccept n f) := by
  unfold State.canAccept
  extract_lets
  split
  · exact (h.canUnfiled.when .modTide).tideEval.sluiceIn
  · extract_lets
    refine .ite ?_ <| .ite h.canHold h.canFileAll
    split
    · exact h.incF.canEvt.tideEval.sluiceIn
    · exact .ite h.setFresh.canHold h.setFresh.canFileAll

theorem Kept.canUnhold {n} (h : Kept s₀ s) : Kept s₀ (s.canUnhold n) := h.modCan.foldl .canFileAll
theorem Kept.canLet {n who} (h : Kept s₀ s) : Kept s₀ (s.canLet n who) := h.modCan.canUnhold
theorem Kept.canMark {n who objs} (h : Kept s₀ s) : Kept s₀ (s.canMark n who objs) := h.modCan

theorem Kept.canFiled {n f} (h : Kept s₀ s) : Kept s₀ (s.canFiled n f) :=
  have h1 := h.canAccept
  .ite h1.tideWake h1

theorem Kept.tideAwake {n} (h : Kept s₀ s) : Kept s₀ (s.tideAwake n) := by
  unfold State.tideAwake
  extract_lets _ s1 s2 s3
  have h1 : Kept s₀ s1 := h.setF.setF.setTide
  have h2 : Kept s₀ s2 := by
    unfold s2
    split
    · exact h1.canFiled
    · exact h1
  have h3 : Kept s₀ s3 := h2.modTide
  exact .canArb (.ite h3.scfSend h3)

theorem Kept.tideSleep {n} (h : Kept s₀ s) : Kept s₀ (s.tideSleep n) := .ite h.setF.setF.setTide.scfSend.tideEval h
theorem Kept.tideStay {n} (h : Kept s₀ s) : Kept s₀ (s.tideStay n) := .ite h.setF.tideBack.scfSend h
theorem Kept.tideAnswer {n} (h : Kept s₀ s) : Kept s₀ (s.tideAnswer n) := .ite h.tideCommit h
theorem Kept.tideVeto {n} (h : Kept s₀ s) : Kept s₀ (s.tideVeto n) := .ite h.tideBack.scfSend h

theorem Kept.tideWakeCmd {n} (h : Kept s₀ s) : Kept s₀ (s.tideWakeCmd n) :=
  .ite h <| .ite h.tideWake <| .ite h.tideRecord.modTide h.setQpend.setF.tideRecord.modTide.setTide

theorem Kept.tideForce {n} (h : Kept s₀ s) : Kept s₀ (s.tideForce n) := .ite h.setF.setTide.tideLow h

theorem Kept.tideCmd {n w} (h : Kept s₀ s) : Kept s₀ (s.tideCmd n w) := by
  unfold State.tideCmd
  exact (((((h.when .tideSleep).when .tideStay).when .tideAnswer).when .tideVeto).when .tideWakeCmd).when .tideForce

theorem Kept.tideRow {who n k} (h : Kept s₀ s) : Kept s₀ (tideRow who n k s) := h.regDo .tideCmd
theorem Kept.scfFilter {n} (h : Kept s₀ s) : Kept s₀ (s.scfFilter n) := h.setReg.setF

theorem Kept.scfIdWrite {n w} (h : Kept s₀ s) : Kept s₀ (s.scfIdWrite n w) := by
  unfold State.scfIdWrite
  extract_lets s1
  have h1 : Kept s₀ s1 := by
    unfold s1
    split
    · exact h.plainWrite
    · exact h
  exact h1.when .scfFilter

theorem Kept.tideOn {n} (h : Kept s₀ s) : Kept s₀ (s.tideOn n) :=
  .ite h.setF.conflict <| .ite h.setF.conflict h.scfFilter.setF

theorem Kept.tideCfg {n w} (h : Kept s₀ s) : Kept s₀ (s.tideCfg n w) := by
  unfold State.tideCfg
  extract_lets _ s1 s2
  have h1 : Kept s₀ s1 := by
    unfold s1
    split
    · exact h.plainWrite.setFlag
    · exact h
  have h2 : Kept s₀ s2 := h1.setF
  exact .ite (.ite h1.scfFilter h1.tideOn) <| .ite h2.setF.setF.tideBack h2

theorem Answers.toLowComplete {n} (h : Kept s₀ s) : Answers s₀ (execToLowComplete n s) :=
  .next <| .ite (have h1 := h.canIdle.setF.setF; .setTide (.ite h1.setF h1)) h

theorem Kept.busWake {n src capt} (h : Kept s₀ s) : Kept s₀ (s.busWake n src capt) :=
  .ite h <| .ite (.parkWake (.ite h.tideWake h)) h.modTide.parkWake

/-! The functions of `Machine/Can.lean`. -/

theorem Kept.canOn {n} (h : Kept s₀ s) : Kept s₀ (s.canOn n) := .ite h.setF <| .ite h.setF.setF.setF h.setF.canEvt
theorem Kept.canOff {n} (h : Kept s₀ s) : Kept s₀ (s.canOff n) := h.setF.canStop

theorem Kept.canTxfN {n v0} (h : Kept s₀ s) : Kept s₀ (s.canTxfN n v0) := by
  unfold State.canTxfN
  extract_lets
  split
  · exact h.setF.conflict
  · exact .ite h.setF h.setF.setF

theorem Kept.canRecover {n} (h : Kept s₀ s) : Kept s₀ (s.canRecover n) := .ite h.modCan h

theorem Kept.canCtrl {n w} (h : Kept s₀ s) : Kept s₀ (s.canCtrl n w) := by
  unfold State.canCtrl
  extract_lets _ _ _ s3
  have h3 : Kept s₀ s3 := .when (.canTxfN (.setF (.setF (.setF (.setF (.setF (.setF (.setF (.ite h.setF h)))))))))
    .canRecover
  exact .ite h3.canOn h3.canOff

theorem Kept.canAuthWrite {n w} (h : Kept s₀ s) : Kept s₀ (s.canAuthWrite n w) := by
  unfold State.canAuthWrite
  extract_lets s1
  have h1 : Kept s₀ s1 := h.setF.setF
  refine .ite ?_ h1.modCan.setF
  split
  · exact h1.modCan.setF.setF
  · exact h1.modCan.setF.setF

theorem Kept.canMask {n high w g} (h : Kept s₀ s) (hg : ∀ {x0 s}, Kept s₀ s → Kept s₀ (g x0 s)) :
    Kept s₀ (s.canMask n high w g).1 := by
  unfold State.canMask
  extract_lets
  split
  · exact h
  · exact h.foldl (fun h => hg h)

theorem Kept.canSet {n high w} (h : Kept s₀ s) : Kept s₀ (s.canSet n high w).1 := by
  unfold State.canSet
  split
  next heq => exact ((h.canMask .canRaise).fst heq).canArb
  · exact h.canMask .canRaise

theorem Kept.canClr {n high w} (h : Kept s₀ s) : Kept s₀ (s.canClr n high w).1 := h.canMask .canCancel
theorem Kept.canFifo {n b} (h : Kept s₀ s) : Kept s₀ (s.canFifo n b).1 := .ite_fst h h.canPort
theorem Kept.canUnfRel {n} (h : Kept s₀ s) : Kept s₀ (s.canUnfRel n) := .ite h h.setF.setF

theorem Kept.canFreshH {n k w} (h : Kept s₀ s) : Kept s₀ (s.canFreshH n k w) := by
  unfold State.canFreshH
  extract_lets s1
  have h1 : Kept s₀ s1 := by
    unfold s1
    split
    · exact h.setReg
    · exact h
  exact h1.setReg.modCan

theorem Kept.canRxClear {n k w m} (h : Kept s₀ s) : Kept s₀ (s.canRxClear n k w m) :=
  h.forBelow (fun h => .ite h.setCtl h)

theorem Kept.canReg {n off w} (h : Kept s₀ s) : Kept s₀ (s.canReg n off w).1 := by
  unfold State.canReg
  extract_lets _ _ plain
  have hplain : Kept s₀ plain.1 := by
    unfold plain
    split
    · exact h.plainWrite
    · exact h
  exact .ite_fst h <| .ite_fst h.canCtrl <| .ite_fst (.ite_fst hplain h) <| .ite_fst h.canAuthWrite <|
    .ite_fst (.ite h.canUnfRel h) <| .ite_fst h.canRxClear <| .ite_fst h.canRxClear <| .ite_fst h.canSet <|
      .ite_fst h.canClr <| .ite_fst h.canFifo <| .ite_fst h.modCan <| .ite_fst (.ite_fst hplain h) <|
        .ite_fst (.ite_fst h.modCan h.canFreshH) hplain

theorem Kept.canRamWrite {a len v} (h : Kept s₀ s) : Kept s₀ (s.canRamWrite a len v).1 := by
  unfold State.canRamWrite
  extract_lets
  exact .ite_fst h (.ite_fst (.ite_fst h h.mput.mput) h.mput)

theorem Kept.canCommit {n t xs} (h : Kept s₀ s) : Kept s₀ (s.canCommit n t xs) := h.canOffer

theorem Kept.canTried {n t cancel} (h : Kept s₀ s) : Kept s₀ (s.canTried n t cancel) :=
  .ite (have hb : Kept s₀ _ := .canTakeCopy (.ite h.canCancel h); .ite hb.canLate hb) h.canHeadLate

theorem Kept.canLost {n} (h : Kept s₀ s) : Kept s₀ (s.canLost n) := by
  unfold State.canLost
  split
  · exact h
  · exact h.canIdle.canTried

theorem Answers.canRxError {n lec dataPhase eight pxe} (h : Kept s₀ s) :
    Answers s₀ (execCanRxError n lec dataPhase eight pxe s) := by
  unfold execCanRxError
  extract_lets _ _ _ _ s2
  have h2 : Kept s₀ s2 := h.canLost.canErr.when .incF
  exact .next <| .ite h <| .ite h.canLost.incF.canEvt.canStop.canArb (.canArb (.canStop (.ite h2 h2.setRec.canFault)))

theorem Kept.canTdc {n f tdcv} (h : Kept s₀ s) : Kept s₀ (s.canTdc n f tdcv) := .ite (h.setF.when .canEvt) h

theorem Kept.canSent {n t sof} (h : Kept s₀ s) : Kept s₀ (s.canSent n t sof) :=
  ((h.setTx.setTx.setCtl.mput.when .canEvt).canEnd .ok).canTakeCopy

theorem Kept.canSentHead {n} (h : Kept s₀ s) : Kept s₀ (s.canSentHead n) := (h.canPop.when .canEvt).canHeadLate
theorem Kept.canSend {n f} (h : Kept s₀ s) : Kept s₀ (s.canSend n f) := h.emit

theorem Answers.canTxSuccess {n sof tdcv} (h : Kept s₀ s) : Answers s₀ (execCanTxSuccess n sof tdcv s) := by
  unfold execCanTxSuccess
  extract_lets s' _ _ _ _ s2 s3
  have h' : Kept s₀ s' := h.canArb
  have h2 : Kept s₀ s2 := (h'.when .canSend).canTdc.canIdle.modCan
  have h3 : Kept s₀ s3 := .ite h2 h2.decF.canFault
  refine .next ?_
  split
  · exact h'
  · extract_lets _ s5
    have h5 : Kept s₀ s5 := .when (.ite h3.canSent h3.canSentHead) .modTide
    exact .ite h' (.canArb (.canStop (.ite h5.canFiled h5.tideEval)))

theorem Answers.canTxError {n lec dataPhase keep tdcv} (h : Kept s₀ s) :
    Answers s₀ (execCanTxError n lec dataPhase keep tdcv s) := by
  unfold execCanTxError
  extract_lets s'
  have h' : Kept s₀ s' := h.canArb
  refine .next ?_
  split
  · exact h'
  · exact
      have h2 := h'.canTdc.canErr.canIdle.modCan;
      .canArb (.canStop (.tideEval (.canTried (.ite h2 h2.setF.canFault))))

theorem Kept.canConfig {k n pl i o} (h : Kept s₀ s) : Kept s₀ (s.canConfig k n pl i o) := by
  induction i generalizing o s with
  | zero => exact h.ok
  | succ i ih =>
    unfold State.canConfig
    refine .ite h.badParam ?_
    split
    next heq => exact ih (h.canReg.fst heq)
    next heq => exact (h.canReg.fst heq).cmdConflict
    next heq => exact (h.canReg.fst heq).wrongState
    next heq => exact (h.canReg.fst heq).badParam

theorem KeptBody.canConfig : KeptBody bodyCanConfig :=
  ⟨fun h => .ite h.badLen <| .ite h.badLen <| .ite h.badLen <| .ite h.badParam h.canConfig⟩

theorem KeptBody.canSend : KeptBody bodyCanSend := by
  unfold bodyCanSend
  refine ⟨fun h => ?_⟩
  exact .ite h.badLen <| .ite h.badLen <| .ite h.badLen <| .ite h.badParam <| .ite h.limit <| .ite h.badParam <|
    .ite h.cmdConflict h.canOffer.canArb

theorem KeptBody.canRead : KeptBody bodyCanRead := .fixedLen ⟨fun h => .ite h.badParam <| .ite h.badParam h.ok⟩

/-! The functions of `Machine/Sluice.lean`. -/

theorem Kept.rtPut {i e} (h : Kept s₀ s) : Kept s₀ (s.rtPut i e) := h.frame

theorem Kept.rtWrite (h : Kept s₀ s) : Kept s₀ s.rtWrite := by
  unfold State.rtWrite
  extract_lets
  refine .ite h.setF ?_
  split
  · exact h.setF.conflict
  · exact h.rtPut.setF

theorem Kept.rtRead (h : Kept s₀ s) : Kept s₀ s.rtRead := h.setRegBytes

theorem KeptBody.routeSet : KeptBody bodyRouteSet := by
  unfold bodyRouteSet
  refine .fixedLen ⟨fun {_ s₀ _} h => ?_⟩
  extract_lets _ _ bad
  have hbad : Kept s₀ bad := h.setF
  refine .ite hbad.limit ?_
  split
  · exact hbad.badParam
  · split
    · exact hbad.cmdConflict
    · exact h.rtPut.ok

theorem Kept.slOwn {x k id blocked want} (h : Kept s₀ s) : Kept s₀ (s.slOwn x k id blocked want) :=
  .ite h <| .ite (.ite h.conflict h.setOwner.setFbit) h.release.setFbit

theorem Kept.slOwnWrite {reg w} (h : Kept s₀ s) : Kept s₀ (s.slOwnWrite reg w) :=
  (h.forBelow (fun h => .ite h <| .ite h.slOwn h.slOwn)).forBelow (fun h => .ite h <| .ite h.slOwn h.slOwn)

theorem Kept.slDrop {c iso} (h : Kept s₀ s) : Kept s₀ (s.slDrop c iso) := h.incF.raise

theorem Kept.slCopy {e f c} (h : Kept s₀ s) : Kept s₀ (s.slCopy e f c) := by
  unfold State.slCopy
  extract_lets _ _ s0
  have h0 : Kept s₀ s0 := .ite h.tideWake h
  exact .ite h.slDrop <| .ite h.slDrop <| .ite h.slDrop <| .ite (.ite h0.slDrop h0.canOffer.canArb.incF) <|
    .ite h0.slDrop (have h1 := h0.canEnqueue; .ite h1.incF h1.slDrop)

theorem Kept.slUse {l n} (h : Kept s₀ s) : Kept s₀ (s.slUse l n) := h.frame

theorem Kept.slBrl {i e x} (h : Kept s₀ s) : Kept s₀ (s.slBrl i e x) :=
  .ite h.slDrop (.incF (.foldl (.ite h.frame h) (fun h => h.slUse.brlSend)))

theorem Kept.slApply {i e x} (h : Kept s₀ s) : Kept s₀ (s.slApply i e x) :=
  have h1 := h.forBelow (fun h => .ite h.slCopy h)
  .ite h1.slBrl h1

theorem Kept.slSearch {x es k} (h : Kept s₀ s) : Kept s₀ (s.slSearch x es k) := by
  induction es generalizing k s with
  | nil => exact h
  | cons e es ih =>
    unfold State.slSearch
    exact .ite (.ite h.raise (.ite (ih h.slApply) h.slApply)) (ih h)

theorem Answers.sluiceLookup (h : Kept s₀ s) : Answers s₀ (execSluiceLookup s) := by
  unfold execSluiceLookup
  extract_lets
  refine .next ?_
  split
  · exact h
  · exact .ite h h.frame.inqSync.slSearch

/-! The functions of `Machine/TimeBase.lean`. -/

theorem Kept.modTime {g} (h : Kept s₀ s) : Kept s₀ (s.modTime g) := h.frame
theorem Kept.timeStep {d} (h : Kept s₀ s) : Kept s₀ (s.timeStep d) := (h.frame.forBelow .canTimeEval).raise
theorem Kept.setRate {r m} (h : Kept s₀ s) : Kept s₀ (s.setRate r m) := h.setF
theorem Kept.servo {m} (h : Kept s₀ s) : Kept s₀ (s.servo m) := h.setRate.useFree
theorem Kept.setHold {b} (h : Kept s₀ s) : Kept s₀ (s.setHold b) := h.setFlag.levelEdge

theorem Kept.timeLock {off} (h : Kept s₀ s) : Kept s₀ (s.timeLock off) :=
  have h1 := h.modTime
  .ite h1.setF.setF.raise <| .ite h1.setF.raise h1

theorem Kept.timeMeasure {src off} (h : Kept s₀ s) : Kept s₀ (s.timeMeasure src off) :=
  .ite h (have h1 := h.setF.setF.setHold.timeLock; .ite (.ite h1.timeStep h1.servo.raise) h1.servo)

theorem Kept.modPtp {g} (h : Kept s₀ s) : Kept s₀ (s.modPtp g) := h.modTime
theorem Kept.ptpOnto {n} (h : Kept s₀ s) : Kept s₀ (s.ptpOnto n) := h.modPtp
theorem Kept.stepWrite {hh} (h : Kept s₀ s) : Kept s₀ (s.stepWrite hh) := .ite h.timeStep h.setF

theorem Answers.ptpHoldover (h : Kept s₀ s) : Answers s₀ (execPtpHoldover s) := by
  unfold execPtpHoldover
  refine .next ?_
  split
  · exact h
  · exact (h.when .ptpOnto).setHold

theorem Kept.nowLatch (h : Kept s₀ s) : Kept s₀ s.nowLatch := h.setReg
theorem KeptBody.timeGet : KeptBody bodyTimeGet := .fixedLen ⟨.ok⟩
theorem Kept.setRingHold {b} (h : Kept s₀ s) : Kept s₀ (s.setRingHold b) := h.setFlag.levelEdge
theorem Kept.timeElect (h : Kept s₀ s) : Kept s₀ s.timeElect := (h.setF.setF.setF.when .setRingHold).when .raise

theorem Answers.timeFrameRx {l prio master depth sent} (h : Kept s₀ s) :
    Answers s₀ (execTimeFrameRx l prio master depth sent s) :=
  .next <| .ite h (have h1 := h.modLink.timeElect; .ite h1.setRingHold.timeMeasure h1)

theorem Answers.brlTimeHoldover (h : Kept s₀ s) : Answers s₀ (execBrlTimeHoldover s) := by
  unfold execBrlTimeHoldover
  exact
    have h1 : Kept s₀ _ := .ite h (h.setRingHold.forBelow .modLink).timeElect;
    .next <| .ite h1.setHold h1

/-! The functions of `Machine/Eth.lean`. -/

theorem Kept.modEth {n g} (h : Kept s₀ s) : Kept s₀ (s.modEth n g) := h.modTime

theorem Kept.ethLink {n up queued} (h : Kept s₀ s) : Kept s₀ (s.ethLink n up queued) :=
  .ite h ((h.setFlag.when .incF).when .ptpOnto).raise

theorem Kept.ethCfg {n w} (h : Kept s₀ s) : Kept s₀ (s.ethCfg n w) := by
  unfold State.ethCfg
  extract_lets _ _ _ s1
  have h1 : Kept s₀ s1 := by
    unfold s1
    split
    · exact h.plainWrite.setF
    · exact h
  refine .ite h1 <| .ite h1.setF.modEth.ethLink.useFree <| .ite h1 ?_
  split
  next heq => exact h1.claimAll.fst heq
  next heq => exact (h1.claimAll.fst heq).setF.modEth

theorem Answers.ethLinkChange {n up speed half queued} (h : Kept s₀ s) :
    Answers s₀ (execEthLinkChange n up speed half queued s) :=
  .next <| .ite h <| .ite h.setF.ethLink (h.setF.when .setF).ethLink

theorem Kept.ethDmaErr {n} (h : Kept s₀ s) : Kept s₀ (s.ethDmaErr n) := h.setF.raise

theorem Kept.ethTake {n} (h : Kept s₀ s) : Kept s₀ (s.ethTake n) := by
  unfold State.ethTake
  split
  next heq => exact h.useFree.ioStream.fst heq
  next heq => exact (h.useFree.ioStream.fst heq).ethDmaErr

theorem Answers.ethFrameRx {m fcsOk len da vid extra known} (h : Kept s₀ s) :
    Answers s₀ (execEthFrameRx m fcsOk len da vid extra known s) :=
  .next <| .ite h (have h := h.modEth; .ite h.incF.raise <| .ite h.ethTake h.incF)

theorem Kept.mdioWrite {w} (h : Kept s₀ s) : Kept s₀ (s.mdioWrite w) := by
  unfold State.mdioWrite
  extract_lets s1
  have h1 : Kept s₀ s1 := by
    unfold s1
    split
    · exact h.plainWrite
    · exact h
  exact .ite h1.setF.emit h1

theorem Kept.ptpSend {n kind flags ctl seq body} (h : Kept s₀ s) : Kept s₀ (s.ptpSend n kind flags ctl seq body) :=
  h.emit

theorem Kept.ptpSynced {n t1 t2} (h : Kept s₀ s) : Kept s₀ (s.ptpSynced n t1 t2) := h.modPtp.timeMeasure

theorem Answers.ptpSyncRx {m domain seq twoStep origin ago} (h : Kept s₀ s) :
    Answers s₀ (execPtpSyncRx m domain seq twoStep origin ago s) :=
  .next <| .ite h <| .ite h.modPtp h.ptpSynced

theorem Answers.ptpFollowUpRx {m domain seq peer origin} (h : Kept s₀ s) :
    Answers s₀ (execPtpFollowUpRx m domain seq peer origin s) :=
  .next <| .ite h <| .ite (.ite h.modPtp h) <| .ite h.ptpSynced h

theorem Answers.ptpDelayReqSend {n ago} (h : Kept s₀ s) : Answers s₀ (execPtpDelayReqSend n ago s) :=
  .next <| .ite h (have h1 := h.modPtp; .ite h1.ptpSend h1.ptpSend)

theorem Answers.ptpDelayRespRx {m domain seq received} (h : Kept s₀ s) :
    Answers s₀ (execPtpDelayRespRx m domain seq received s) :=
  .next <| .ite h h.modPtp

theorem Answers.ptpPdelayReqRx {m domain seq ago sent} (h : Kept s₀ s) :
    Answers s₀ (execPtpPdelayReqRx m domain seq ago sent s) :=
  .next <| .ite h h.ptpSend.ptpSend

theorem Answers.ptpPdelayRespRx {m domain seq twoStep reqRx ago} (h : Kept s₀ s) :
    Answers s₀ (execPtpPdelayRespRx m domain seq twoStep reqRx ago s) :=
  .next <| .ite h <| .ite h.modPtp h.modPtp

/-! The functions of `Machine/Evt.lean`. -/

theorem Kept.evtAck {t} (h : Kept s₀ s) : Kept s₀ (s.evtAck t).1 := by
  unfold State.evtAck
  split
  · exact h
  · exact
      have h1 := h.setActiveMask;
      .critRead (.critRead (.ite h1 h1.frame))

theorem Kept.evtEoi {t} (h : Kept s₀ s) : Kept s₀ (s.evtEoi t) := by
  unfold State.evtEoi
  split
  · exact h.setActiveMask
  · exact h

theorem Kept.evtPendClear {w v} (h : Kept s₀ s) : Kept s₀ (s.evtPendClear w v) := h.frame

theorem Kept.lsMismatch {p pc unit injected} (h : Kept s₀ s) : Kept s₀ (s.lsMismatch p pc unit injected) :=
  .ite h.setCore.raise h.setCore.raise.reqReset

theorem Answers.lockstepMismatch {p pc unit} (h : Kept s₀ s) : Answers s₀ (execLockstepMismatch p pc unit s) := by
  unfold execLockstepMismatch
  refine .next ?_
  split
  · exact h.lsMismatch
  · exact h.lsMismatch
  · exact h

/-! The functions of `Machine/Brl.lean`. -/

theorem Kept.splitLatch (h : Kept s₀ s) : Kept s₀ s.splitLatch := .ite h.frame h
theorem Kept.setLink {l st} (h : Kept s₀ s) : Kept s₀ (s.setLink l st) := h.setF.splitLatch
theorem Kept.refFollow {l up} (h : Kept s₀ s) : Kept s₀ (s.refFollow l up) := .ite h.setF.raise h
theorem Kept.modHs {g} (h : Kept s₀ s) : Kept s₀ (s.modHs g) := h.frame
theorem Kept.modHsPan {p g} (h : Kept s₀ s) : Kept s₀ (s.modHsPan p g) := h.modHs

theorem Kept.hsRole {r} (h : Kept s₀ s) : Kept s₀ (s.hsRole r) :=
  .ite h (h.setF.when (fun g => g.forBelow .modHsPan)).raise

theorem Kept.syncLeft (h : Kept s₀ s) : Kept s₀ s.syncLeft := h.setF
theorem Kept.hsFull (h : Kept s₀ s) : Kept s₀ s.hsFull := h.modHsPan.modHsPan.syncLeft

theorem Kept.hsResync {src} (h : Kept s₀ s) : Kept s₀ (s.hsResync src) :=
  .ite h.incF.raise.hsRole.hsFull.modPan.modPan h

theorem Kept.linkLost {l st} (h : Kept s₀ s) : Kept s₀ (s.linkLost l st) :=
  have h3 := h.incF.setF.setLink.modLink.raise.refFollow.timeElect
  .ite h3.hsResync h3

theorem Kept.linkTo {l st} (h : Kept s₀ s) : Kept s₀ (s.linkTo l st) := .ite h.linkLost h.setLink.modLink

theorem Answers.brlTrainingComplete {l} (h : Kept s₀ s) : Answers s₀ (execBrlTrainingComplete l s) :=
  .next <| .ite h <| .ite h.setLink.raise (have h1 := h.setLink.useFree.modLink; .ite h1 h1.emit)

theorem Answers.brlPeerProof {l nonce peer proof} (h : Kept s₀ s) :
    Answers s₀ (execBrlPeerProof l nonce peer proof s) := by
  unfold execBrlPeerProof
  extract_lets
  refine .next <| .ite h ?_
  split
  · exact h.setLink.raise
  · exact
      have h1 := h.emit;
      .ite h1.setLink.modLink.setF.setF.raise.refFollow h1.setLink.raise

theorem Kept.linksDown (h : Kept s₀ s) : Kept s₀ s.linksDown := h.forBelow .linkTo

theorem Kept.ringCtrl {w} (h : Kept s₀ s) : Kept s₀ (s.ringCtrl w) := by
  unfold State.ringCtrl
  extract_lets s1 s2
  have h1 : Kept s₀ s1 := by
    unfold s1
    split
    · exact h.plainWrite
    · exact h
  have h2 : Kept s₀ s2 := h1.splitLatch
  exact .ite h2 h2.linksDown

theorem Kept.ringAddr {w} (h : Kept s₀ s) : Kept s₀ (s.ringAddr w) := h.setF.setF.timeElect
theorem Kept.brlDrop {l} (h : Kept s₀ s) : Kept s₀ (s.brlDrop l) := h.incF

theorem Kept.brlTransit {l kind dst src hops pl} (h : Kept s₀ s) : Kept s₀ (s.brlTransit l kind dst src hops pl) := by
  unfold State.brlTransit
  refine .ite h.brlDrop.raise ?_
  split
  · exact h.brlDrop.raise
  · exact h.brlSend

theorem Answers.brlFrameRx {l bytes} (h : Kept s₀ s) : Answers s₀ (execBrlFrameRx l bytes s) :=
  .next <| .ite h <| .ite h.modLink.emit (have h1 := h.modLink.emit; .ite h1.brlDrop <| .ite h1.brlTransit h1)

theorem Answers.brlNakRx {l seq late} (h : Kept s₀ s) : Answers s₀ (execBrlNakRx l seq late s) := by
  unfold execBrlNakRx
  refine .next ?_
  split
  · exact h
  · exact .ite h.modLink.brlDrop.raise h.modLink.incF.emit

theorem Answers.brlAckRx {l seq} (h : Kept s₀ s) : Answers s₀ (execBrlAckRx l seq s) :=
  have h1 := h.modLink
  .next <| .ite h1.linkTo h1

theorem Kept.membersSync (h : Kept s₀ s) : Kept s₀ s.membersSync := h.setF

theorem Answers.presenceRx {l src hops seq} (h : Kept s₀ s) : Answers s₀ (execPresenceRx l src hops seq s) := by
  unfold execPresenceRx
  extract_lets _ _ _ _ _ s1
  have h1 : Kept s₀ s1 := .ite h.frame.membersSync h
  exact .next <| .ite h <| .ite h.setF.levelEdge <| .ite h <| .ite h1.brlDrop.raise <| .ite (h1.foldl .brlSend) h1

theorem Kept.brlBroadcast {l kind src hops bseq pl} (h : Kept s₀ s) :
    Kept s₀ (s.brlBroadcast l kind src hops bseq pl).1 :=
  .ite_fst (.ite_fst h.frame.brlDrop.raise (h.frame.foldl .brlSend)) h

theorem Answers.sluiceBrlFrameRx {hh payload} (h : Kept s₀ s) : Answers s₀ (execSluiceBrlFrameRx hh payload s) :=
  .next <| .ite h <| .ite (have hr := h.brlBroadcast; .ite hr.sluiceIn hr) <| .ite h.sluiceIn h

theorem KeptBody.topology : KeptBody bodyTopology := .fixedLen ⟨.ok⟩

/-! The functions of `Machine/Led.lean`. -/

theorem Kept.modLed {n g} (h : Kept s₀ s) : Kept s₀ (s.modLed n g) := h.frame
theorem Kept.ledOff {n} (h : Kept s₀ s) : Kept s₀ (s.ledOff n) := h.setF.modLed
theorem Kept.ledAllOff (h : Kept s₀ s) : Kept s₀ s.ledAllOff := h.forBelow .ledOff

theorem Kept.ledPeriod {n} (h : Kept s₀ s) : Kept s₀ (s.ledPeriod n) :=
  .ite h (have h1 := h.setF.setFlag; .ite h1.setF.ledOff.modLed h1.setF.setFlag.modLed)

theorem Kept.ledGroupOff {g} (h : Kept s₀ s) : Kept s₀ (s.ledGroupOff g) := h.forBelow (fun h => .ite h.setF.ledOff h)

theorem Kept.ledGroupFail {n} (h : Kept s₀ s) : Kept s₀ (s.ledGroupFail n) := by
  unfold State.ledGroupFail
  split
  · exact .ite h.setF.setF.ledGroupOff.raise h
  · exact h

theorem Kept.ledHr {mv} (h : Kept s₀ s) : Kept s₀ (s.ledHr mv) := h.frame

theorem Kept.ledCheck {n mv lo drop} (h : Kept s₀ s) : Kept s₀ (s.ledCheck n mv lo drop) := by
  unfold State.ledCheck
  extract_lets _ s1 _ _ _ _ _ s2 _ s3
  have h1 : Kept s₀ s1 := h.setF.setFlag.when .ledHr
  have h2 : Kept s₀ s2 := h1.modLed.setFlag.setFlag
  have h3 : Kept s₀ s3 := .ite h2.raise h2
  exact .ite h <| .ite h1 <| .ite h3.ledGroupFail h3

theorem Kept.ledGroupClear {g} (h : Kept s₀ s) : Kept s₀ (s.ledGroupClear g) :=
  h.setF.forBelow (fun h => .ite h.setF.modLed h)

theorem Kept.ledMask {g m} (h : Kept s₀ s) : Kept s₀ (s.ledMask g m) :=
  .ite h.setF (h.setF.forBelow (fun g => g.setFlag.when .ledOff))

theorem Kept.ledCommand {n cur duty} (h : Kept s₀ s) : Kept s₀ (s.ledCommand n cur duty) := h.setF.setF

theorem KeptBody.ledSet : KeptBody bodyLedSet :=
  .fixedLen ⟨fun h => .ite h.badParam <| .ite h.badParam <| .ite h.cmdConflict h.ledCommand.ok⟩

theorem Kept.ledEn {en} (h : Kept s₀ s) : Kept s₀ (s.ledEn en) := h.setFlag.when .ledAllOff

theorem Kept.lmxEn {en} (h : Kept s₀ s) : Kept s₀ (s.lmxEn en) := by
  unfold State.lmxEn
  extract_lets no
  have hno : Kept s₀ no := h.setF
  refine .ite h.setF <| .ite ?_ <| .ite hno h.releaseAll.setFlag.setF
  split
  · exact hno.conflict
  · split
    · exact hno.conflict
    · exact (h.foldl .setOwner).setFlag.setF.forBelow .ledOff

theorem Kept.lmxLvl {who r q v} (h : Kept s₀ s) : Kept s₀ (s.lmxLvl who r q v) := by
  unfold State.lmxLvl
  split
  · exact h.ownedWrite id
  · exact h.setReg

theorem Answers.ledHeadroomUpdate {v vlow} (h : Kept s₀ s) : Answers s₀ (execLedHeadroomUpdate v vlow s) :=
  have h0 := h.frame.setFlag
  .next <| .ite h0.setF.setF (h0.setF.setFlag.when .raise)

theorem Kept.ledCurve {c} (h : Kept s₀ s) : Kept s₀ (s.ledCurve c) := by
  unfold State.ledCurve
  extract_lets
  refine .ite h.setFbit.frame ?_
  split
  · exact h.setFbit
  · exact h.setFbit.frame

theorem Kept.lmxElem {s0 r c mv lo} (h : Kept s₀ s0) : Kept s₀ (s0.lmxElem r c mv lo) :=
  .ite h (have h1 := (h.when .ledHr).frame.setFbit; .ite h1.raise h1)

/-! The functions of `Machine/Meas.lean`. -/

theorem Kept.ntc {i v} (h : Kept s₀ s) : Kept s₀ (s.ntc i v) := by
  unfold State.ntc
  extract_lets _ _ _ _ _ s1 s2
  have h1 : Kept s₀ s1 := h.setF.setF
  have h2 : Kept s₀ s2 := by
    unfold s2
    refine .ite h1 ?_
    split
    · exact h1.setF
    · exact h1.setF.useFree
  exact .ite h <| .ite h.setF.setF.setF <| .ite h2.raise h2

theorem Kept.supShow {i mv} (h : Kept s₀ s) : Kept s₀ (s.supShow i mv) := .ite h.setF <| .ite h.setF <| .ite h.setF h

theorem Kept.supSample {s0 i mv} (h : Kept s₀ s0) : Kept s₀ (s0.supSample i mv) :=
  have h := h.supShow
  .ite h (have h2 := h.frame.setF.setF; .ite h2.raise h2)

theorem KeptBody.measRead : KeptBody bodyMeasRead := by
  unfold bodyMeasRead
  refine .fixedLen ⟨fun h => ?_⟩
  split
  · exact h.ok
  · exact h.notFound

/-! The functions of `Machine/Session.lean`. -/

theorem KeptBody.identify : KeptBody bodyIdentify := .fixedLen ⟨.ok⟩
theorem KeptBody.getStatus : KeptBody bodyGetStatus := .fixedLen ⟨fun h => h.ok.useFree⟩
theorem KeptBody.subscribe : KeptBody bodySubscribe := .fixedLen ⟨fun h => h.frame.ok⟩
theorem KeptBody.reset : KeptBody bodyReset := .fixedLen ⟨fun h => .ite h.badParam h.frame.ok⟩

theorem KeptBody.openChallenge : KeptBody bodyOpenChallenge := by
  unfold bodyOpenChallenge
  refine .fixedLen ⟨fun h => ?_⟩
  exact .ite h.finish <| .ite h.badParam <| .ite h.finish <| .ite h.badParam <| .ite h.failed h.frame.useFree.ok

theorem Kept.openSess {c n key} (h : Kept s₀ s) : Kept s₀ (s.openSess c n key) :=
  .ite h.limit.useFree h.frame.useFree.ok

theorem KeptBody.openResponse : KeptBody bodyOpenResponse := by
  unfold bodyOpenResponse
  refine .fixedLen ⟨fun {_ s₀ _} h => ?_⟩
  extract_lets _ _ s1
  have h1 : Kept s₀ s1 := h.frame
  split
  · exact h1.authFail.finish
  · extract_lets
    split
    · exact h1.authFail.finish
    · exact .ite h1.openSess h1.authFail.finish

theorem KeptBody.close : KeptBody bodyClose := by
  unfold bodyClose
  refine .fixedLen ⟨fun h => ?_⟩
  split
  · exact h.finish
  · exact h.ok.closeSess

theorem KeptBody.maintAcquire : KeptBody bodyMaintAcquire := by
  unfold bodyMaintAcquire
  refine .fixedLen ⟨fun h => ?_⟩
  extract_lets
  split
  · exact h.finish
  · extract_lets
    refine .ite h.badParam <| .ite h.badParam ?_
    split
    · exact h.finish.raise
    · split
      · exact h.wrongState
      · exact h.frame.ok

theorem KeptBody.maintRelease : KeptBody bodyMaintRelease := by
  unfold bodyMaintRelease
  refine .fixedLen ⟨fun h => ?_⟩
  split
  · exact h.finish
  · exact h.dropToken.ok

theorem Answers.cmdPacketDiscard {tp bytes} (h : Kept s₀ s) : Answers s₀ (execCmdPacketDiscard tp bytes s) := by
  unfold execCmdPacketDiscard
  extract_lets
  refine .next <| .ite h ?_
  split
  · exact h.discard
  · exact h.discard
  · exact .ite h h.discard

theorem Answers.cmdForwardTimeout {k} (h : Kept s₀ s) : Answers s₀ (execCmdForwardTimeout k s) := by
  unfold execCmdForwardTimeout
  extract_lets
  refine .next ?_
  split
  · exact h
  · exact h.frame.syncOut.sendBytes

theorem Answers.cmdCompletion {k stat payload} (h : Kept s₀ s) : Answers s₀ (execCmdCompletion k stat payload s) := by
  unfold execCmdCompletion
  refine .next ?_
  split
  · exact .ite h.finish h
  · exact h

theorem Answers.maintLeaseExpiry {cls} (h : Kept s₀ s) : Answers s₀ (execMaintLeaseExpiry cls s) := by
  unfold execMaintLeaseExpiry
  refine .next ?_
  split
  · exact h.dropToken
  · exact h

theorem Answers.resetDelayExpiry (h : Kept s₀ s) : Answers s₀ (execResetDelayExpiry s) := by
  unfold execResetDelayExpiry
  extract_lets
  refine .next ?_
  split
  · exact h.frame.reqReset
  · exact h

/-! The functions of `Machine/Upd.lean`. -/

theorem Kept.bankRec {b st tries cause comp applied} (h : Kept s₀ s) :
    Kept s₀ (s.bankRec b st tries cause comp applied) := by
  unfold State.bankRec
  extract_lets o area
  split
  next m n heq =>
    have hm : memWf s.mem = true → memWf m = true := by
      split at heq
      · cases heq
        exact memWf_memClear _ _ _
      · cases heq
        exact id
    extract_lets r
    generalize bankRecBytes r _ = bs
    exact (h.setMem fun w => memWf_memPut _ _ _ (hm w)).frame

theorem Kept.bankTo {b st cause comp} (h : Kept s₀ s) : Kept s₀ (s.bankTo b st cause comp) := h.bankRec
theorem Kept.updBusy (h : Kept s₀ s) : Kept s₀ s.updBusy := h.setFlag
theorem Kept.modUpd {g} (h : Kept s₀ s) : Kept s₀ (s.modUpd g) := h.frame.updBusy
theorem Kept.takePeer {c} (h : Kept s₀ s) : Kept s₀ (s.takePeer c) := .ite h h.frame
theorem Kept.dropPeer {k} (h : Kept s₀ s) : Kept s₀ (s.dropPeer k) := h.frame

theorem KeptBody.peerGuard {b} (hb : KeptBody b) : KeptBody (peerGuard b) := by
  unfold Machine.peerGuard
  refine ⟨fun h => ?_⟩
  split
  · exact h.finish.raise
  · exact h.takePeer.run hb

theorem Kept.bankWrong {k} (h : Kept s₀ s) : Kept s₀ (s.bankWrong k) := by
  unfold State.bankWrong
  split
  · exact h.wrongState
  · exact h.wrongState.useFree

theorem Kept.pkgBegin {pl} (h : Kept s₀ s) : Kept s₀ (s.pkgBegin pl) := h.modUpd

theorem Kept.abandonApply (h : Kept s₀ s) : Kept s₀ s.abandonApply := by
  unfold State.abandonApply
  split
  · exact h.failed.useFree
  · exact h

theorem KeptBody.stageBegin : KeptBody bodyStageBegin :=
  .peerGuard (.fixedLen ⟨fun h =>
    .ite h.bankWrong (.ite h.badParam (.ite h.badParam (.ite h.badParam (.ite h.badParam (.ite h.limit (.ite h.badParam
      (have h1 := h.abandonApply.stopServed.pkgBegin
      .ite h1.ok (h1.setMem (memWf_memClear _ _ _)).frame.bankRec.ok)))))))⟩)

theorem KeptBody.stageData : KeptBody bodyStageData := by
  unfold bodyStageData
  refine .peerGuard ⟨fun {_ s₀ _} h => ?_⟩
  extract_lets _ _ s1
  have h1 : Kept s₀ s1 := h.modUpd
  exact .ite h.badLen <| .ite h.bankWrong <| .ite h.badParam <| .ite h.badParam (.ok (.ite h1.mputBytes h1))

theorem KeptBody.stageEnd : KeptBody bodyStageEnd := by
  unfold bodyStageEnd
  refine .peerGuard <| .fixedLen ⟨fun h => ?_⟩
  exact .ite h.bankWrong (have h1 := h.accept; .ite h1.failed.raise (have h2 := h1.setF.modUpd; .ite h2 h2.mputBytes))

theorem Kept.applyAll {m cs done} (h : Kept s₀ s) : Kept s₀ (s.applyAll m cs done).1 := by
  induction cs generalizing done s with
  | nil => exact h
  | cons c cs ih =>
    unfold State.applyAll
    split
    · exact h
    · exact ih h.mputBytes.bankRec.setF

theorem Kept.stageApply {k} (h : Kept s₀ s) : Kept s₀ (s.stageApply k) :=
  have h2 := h.applyAll.modUpd.dropPeer; .ite h2.bankRec.raise.ok.modUpd h2.bankRec.finish.raise

theorem Kept.trialFall (h : Kept s₀ s) : Kept s₀ (s.trialFall).1 := by
  unfold State.trialFall
  split
  · exact h.bankTo
  · exact h

theorem Kept.bankPass {b confFailed} (h : Kept s₀ s) : Kept s₀ (s.bankPass b confFailed) :=
  .ite h.bankRec <| .ite h.bankRec <| .ite h.bankTo h

theorem Kept.bootLoop {n cf} (h : Kept s₀ s) : Kept s₀ (s.bootLoop n cf).1 := by
  induction n generalizing cf s with
  | zero => exact h
  | succ n ih =>
    unfold State.bootLoop
    extract_lets cand
    generalize cand = o
    split
    · exact h
    · split
      · exact h.bankPass
      · exact ih h.bankTo

theorem Kept.bootChoose {alt} (h : Kept s₀ s) : Kept s₀ (s.bootChoose alt).1 := by
  unfold State.bootChoose
  extract_lets
  split
  next heq =>
    have h0 := h.trialFall.fst heq
    extract_lets
    refine .ite_fst ?_ h0.bootLoop
    split
    · exact .ite h0.bankPass h0
    · exact h0.bankTo.bootLoop

theorem Kept.markBank {b confirm} (h : Kept s₀ s) : Kept s₀ (s.markBank b confirm) :=
  .ite (KeptOpt.getD (.ite h.bankMark .none) h.crustQueue) h

theorem Kept.raiseFloor {b} (h : Kept s₀ s) : Kept s₀ (s.raiseFloor b) := .ite h.frame <| .ite h.frame.raise h.frame
theorem Kept.confirmRest {b} (h : Kept s₀ s) : Kept s₀ (s.confirmRest b) := h.markBank.raiseFloor

theorem Kept.confirmTrial {b} (h : Kept s₀ s) : Kept s₀ (s.confirmTrial b) :=
  have h1 := h.bankTo
  .confirmRest (.raise (.setF (.ite h1.bankTo h1)))

theorem Kept.trialEnds {cause} (h : Kept s₀ s) : Kept s₀ (s.trialEnds cause) := by
  unfold State.trialEnds
  split
  · exact .ite h.bankTo.raise.reqReset h
  · exact h

theorem Kept.updPanFault (h : Kept s₀ s) : Kept s₀ s.updPanFault := .ite h h.trialEnds
theorem Kept.updCycle {p good} (h : Kept s₀ s) : Kept s₀ (s.updCycle p good) := .ite h.frame h

theorem Answers.trialHealthy (h : Kept s₀ s) : Answers s₀ (execTrialHealthy s) := by
  unfold execTrialHealthy
  extract_lets s1
  have h1 : Kept s₀ s1 := h.setF
  refine .next <| .ite h ?_
  split
  · exact .ite h1.confirmTrial h1
  · exact h1

theorem KeptBody.confirm : KeptBody bodyConfirm := by
  unfold bodyConfirm
  refine .fixedLen ⟨fun h => ?_⟩
  split
  · exact .ite h.confirmTrial.ok h.bankWrong
  · exact h.bankWrong

theorem KeptBody.updStatus : KeptBody bodyUpdStatus := .fixedLen ⟨.ok⟩

theorem Kept.updUnfit {w} (h : Kept s₀ s) : Kept s₀ (s.updUnfit w) := by
  unfold State.updUnfit
  extract_lets
  refine .ite h ?_
  split
  · exact h
  · exact h.bankTo.logAdd.frame.raise.reqReset

theorem Kept.modFwd {g} (h : Kept s₀ s) : Kept s₀ (s.modFwd g) := h.frame

theorem Kept.fwdFill {n} (h : Kept s₀ s) : Kept s₀ (s.fwdFill n) := by
  induction n generalizing s with
  | zero => exact h
  | succ n ih =>
    unfold State.fwdFill
    split
    · exact h
    · split
      · exact h
      · exact .ite h (.ite (ih h.modFwd) (ih h.modFwd.peerRequest))

theorem Kept.fwdPeerDone {a stat} (h : Kept s₀ s) : Kept s₀ (s.fwdPeerDone a stat) := by
  unfold State.fwdPeerDone
  extract_lets s1
  have h1 : Kept s₀ s1 := h.modFwd
  split
  · exact h
  · exact .ite h <| .ite h1.modFwd h1.fwdFill

theorem Kept.fwdReply {a seq op stat} (h : Kept s₀ s) : Kept s₀ (s.fwdReply a seq op stat) := by
  unfold State.fwdReply
  split
  · exact h
  · split
    · exact h
    · exact .ite h <| .ite h.fwdPeerDone (have h1 := h.modFwd; .ite h1.peerRequest h1.peerRequest)

theorem KeptBody.forward : KeptBody bodyForward := by
  unfold bodyForward
  refine ⟨fun h => ?_⟩
  extract_lets
  refine .ite h.badLen <| .ite h.badLen <| .ite h.badParam <| .ite h.badLen ?_
  split
  · exact h.badParam
  · exact .ite h.bankWrong h.stopServed.modUpd.accept.fwdFill

theorem Answers.forwardDone (h : Kept s₀ s) : Answers s₀ (execForwardDone s) := by
  unfold execForwardDone
  extract_lets s1
  have h1 : Kept s₀ s1 := h.modUpd
  refine .next ?_
  split
  · exact h
  · exact .ite h <| .ite h1.failStopped h1.ok.raise

theorem Kept.loaderPlace (h : Kept s₀ s) : Kept s₀ s.loaderPlace := by
  unfold State.loaderPlace
  exact .foldl_fst h.mputBytes .mputBytes

theorem Kept.loaderEnd {start} (h : Kept s₀ s) (hstart : ∀ {s}, Kept s₀ s → Kept s₀ (start s)) :
    Kept s₀ (s.loaderEnd start) := by
  unfold State.loaderEnd
  extract_lets s1
  have h1 : Kept s₀ s1 := h.modUpd.loaderPlace
  split
  · exact h
  · split
    · exact h1.failed
    · exact hstart h1.ok

theorem Kept.usbAttach (h : Kept s₀ s) : Kept s₀ s.usbAttach :=
  have h1 := h.setFlag
  .ite h1 h1.setF.setF.setF

theorem Kept.usbCtrl {w} (h : Kept s₀ s) : Kept s₀ (s.usbCtrl w) := h.setF.setF.usbAttach

theorem Answers.usbVbusChange {present} (h : Kept s₀ s) : Answers s₀ (execUsbVbusChange present s) :=
  .next <| .ite h (have h1 := h.setFlag.usbAttach; .when (.raise (.ite h1 (h1.foldl .closeSess))) .parkWake)

end Sys2Proof.Machine
end

