-- ==== Sys2Proof/Proofs/KeptLogic.lean ====
section
/-! PROOF. The Rake, the Pans and hot-standby keep it. -/
namespace Sys2Proof.Machine

variable {s₀ s t : State}

/-! The functions of `Machine/Maps.lean`. -/

theorem Kept.mapRegs (h : Kept s₀ s) : Kept s₀ s.mapRegs := h.setF.setF.setF.setF.setF.setF.setF.setF

theorem Kept.imgClear {p l} (h : Kept s₀ s) : Kept s₀ (s.imgClear p l) := by
  unfold State.imgClear
  extract_lets cov one
  have hone : ∀ {s i}, Kept s₀ s → Kept s₀ (one s i) := fun h =>
    h.setMem fun w => memWf_foldl (memWf_memSet _ _ _) (memWf_memClear _ _ _ w)
  exact hone (hone (hone h))

theorem Kept.mapClaim {p l} (h : Kept s₀ s) : Kept s₀ (s.mapClaim p l) := (h.foldl .release).foldl .setOwner
theorem Kept.hssIlimKeep (h : Kept s₀ s) : Kept s₀ s.hssIlimKeep := h.forBelow (fun g => g.when .modHss)

theorem Kept.mapInstall {p l} (h : Kept s₀ s) : Kept s₀ (s.mapInstall p l) :=
  h.mapClaim.imgClear.modPan.mapRegs.frame.hssIlimKeep.foldl .modSol

theorem Kept.partDrop {p} (h : Kept s₀ s) : Kept s₀ (s.partDrop p) := h.modPan

theorem Kept.mapEnd {k p l} (h : Kept s₀ s) : Kept s₀ (s.mapEnd k p l) := by
  unfold State.mapEnd
  extract_lets s0
  have h0 : Kept s₀ s0 := h.partDrop
  split
  · exact h0.badParam
  · exact h0.cmdConflict
  · exact h0.limit
  · exact .ite h0.wrongState h0.mapInstall.ok

theorem KeptBody.loadMap : KeptBody bodyLoadMap := by
  unfold bodyLoadMap
  refine ⟨fun h => ?_⟩
  extract_lets
  refine .ite h.badLen <| .ite h.badLen ?_
  split
  · exact h.badParam
  · exact .ite h.badParam <| .ite h.partDrop.wrongState <| .ite h.partDrop.badParam <| .ite h.partDrop.badParam <|
      .ite h.partDrop.badParam <| .ite h.mapEnd h.modPan.ok

/-! The functions of `Machine/Rake.lean`. -/

theorem Kept.rakeEvt {k p} (h : Kept s₀ s) : Kept s₀ (s.rakeEvt k p) := h.raise
theorem Kept.silRegs (h : Kept s₀ s) : Kept s₀ s.silRegs := h.setF.setF

theorem Kept.resOff {r} (h : Kept s₀ s) : Kept s₀ (s.resOff r) := by
  unfold State.resOff
  extract_lets
  split
  · exact h.hssCommand
  · exact h.solSilence
  · exact h.dioCommand
  · exact h.ledCommand
  · exact h.setReg
  · exact h.setF.frame
  · exact h

theorem Kept.bankOff {p b} (h : Kept s₀ s) : Kept s₀ (s.bankOff p b) := .ite h (h.foldl .resOff).frame.silRegs.raise

theorem Kept.panSilent {p} (h : Kept s₀ s) : Kept s₀ (s.panSilent p) :=
  .ite h (h.frame.silRegs.raise.forBelow (fun h => .ite h.bankOff h))

theorem Kept.silEnd {p} (h : Kept s₀ s) : Kept s₀ (s.silEnd p) := .ite h h.frame.silRegs
theorem Kept.rakeErr {p i cause} (h : Kept s₀ s) : Kept s₀ (s.rakeErr p i cause) := .ite h h.setF.setF.setF.setF
theorem Kept.setMbit {a k b} (h : Kept s₀ s) : Kept s₀ (s.setMbit a k b) := (h.setMem (memWf_memSet _ _ _)).frame
theorem Kept.entPut {a e v} (h : Kept s₀ s) : Kept s₀ (s.entPut a e v) := .ite h.setMbit h.mput

theorem Kept.canLatch {who l} (h : Kept s₀ s) : Kept s₀ (s.canLatch who l) :=
  h.forBelow (fun g => .ite g (g.canMark.foldl .setCtl))

theorem Kept.harvestOne {p buf l x} (h : Kept s₀ s) : Kept s₀ (s.harvestOne p buf l x).1 :=
  have h0 : Kept s₀ _ := .ite_fst h h.eccRead; .setMbit (.entPut (.ite h0 h0.rakeErr))

theorem Kept.forceIn {p buf} (h : Kept s₀ s) : Kept s₀ (s.forceIn p buf) := h.foldl .setMbit

theorem Kept.harvest {p buf vals} (h : Kept s₀ s) : Kept s₀ (s.harvest p buf vals) := by
  unfold State.harvest
  extract_lets l
  have h1 : Kept s₀ (vals.foldl (fun (a : State × Bool) x =>
      let (s, b) := a.1.harvestOne p buf l x; (s, a.2 || b)) (s, false)).1 := .foldl_fst h .harvestOne
  exact (h1.foldl .setMbit).forceIn.when .raise

theorem Kept.captOne {t p e} (h : Kept s₀ s) : Kept s₀ (s.captOne t p e) := h.entPut

theorem Kept.reharvest {who n j} (h : Kept s₀ s) : Kept s₀ (s.reharvest who n j) := by
  unfold State.reharvest
  exact .ite (.ite h (h.foldl .harvestOne).forceIn) <|
    .ite (.ite h (h.foldl .harvestOne).forceIn) ((h.foldl .captOne).foldl .captOne)

theorem Kept.canGo {who n} (h : Kept s₀ s) : Kept s₀ (s.canGo who n) := .ite h (h.foldl .reharvest).canLet
theorem Kept.canLetAll {who} (h : Kept s₀ s) : Kept s₀ (s.canLetAll who) := h.forBelow .canGo

theorem Kept.harvLate {p i} (h : Kept s₀ s) : Kept s₀ (s.harvLate p i) :=
  .ite h ((h.foldl .harvestOne).forceIn.raise.when .raise)

theorem Kept.bankCopy {p src dst n} (h : Kept s₀ s) (hs : src + n ≤ 0x1000000 := by decide)
    (hd : dst + n ≤ 0x1000000 := by decide) : Kept s₀ (s.bankCopy p src dst n) :=
  (h.eccFix.setMem (memWf_memCopy_dtcm hs hd)).frame

theorem Kept.commit {p lost} (h : Kept s₀ s) : Kept s₀ (s.commit p lost) :=
  (((h.foldl .eccFix).foldl (fun h => have h1 := h.rakeErr; .ite h1.eccRecord.raise h1)).modPan.when .raise).when .raise

theorem Kept.solImage {n on ttime} (h : Kept s₀ s) : Kept s₀ (s.solImage n on ttime) :=
  have h1 := h.modSol
  .ite h1.solQueue <| .ite h1.solQueue h1

theorem Kept.applyOne {all x} (h : Kept s₀ s) : Kept s₀ (s.applyOne all x) := by
  unfold State.applyOne
  extract_lets
  split
  · exact h.hssCommand
  · exact h.hssCommand
  · exact h.modHss
  · exact .ite h.hssClear h
  · exact h.solImage
  · exact .ite h.solClear h
  · exact h.dioCommand
  · exact .ite h.dioClear h
  · exact .ite h.ledCommand h.setReg
  · exact h.ledCommand
  · exact .ite h.ledGroupClear h
  · exact h.gpioSet
  · exact h

theorem Kept.applyCan {all} (h : Kept s₀ s) : Kept s₀ (s.applyCan all) :=
  (h.foldl (fun h => .ite h.canCommit h)).foldl (fun h => .ite h.canArb h)

theorem Kept.applyStrobe {p} (h : Kept s₀ s) : Kept s₀ (s.applyStrobe p) := by
  unfold State.applyStrobe
  extract_lets _ _ _ _ s2
  have h2 : Kept s₀ s2 := ((((h.modPan.when .silEnd).foldl .applyOne).foldl .applyOne).foldl .applyOne).applyCan
  exact .ite h <| .ite h2 h2.panSilent

theorem share_le (s : State) (p : PanId) : s.share p ≤ 32 := by
  unfold State.share
  split <;> omega

theorem Kept.ckptTake {p} (h : Kept s₀ s) : Kept s₀ (s.ckptTake p).1 := by
  have hn := share_le s p
  have hs : s.shareAt p + s.share p * 1024 ≤ 0x1000000 := by unfold State.shareAt; omega
  have hd : ckptBank + s.share p * 1024 ≤ 0x1000000 := by unfold ckptBank; omega
  exact (h.bankCopy hs hd).eccRead

theorem Kept.ckptDue {p} (h : Kept s₀ s) : Kept s₀ (s.ckptDue p) := .ite h h.ckptTake.modPan
theorem Kept.ckptWrite {p c} (h : Kept s₀ s) : Kept s₀ (s.ckptWrite p c) := h.mputBytes.mputBytes.setF.rakeEvt

theorem Answers.checkpointWriteDone {p} (h : Kept s₀ s) : Answers s₀ (execCheckpointWriteDone p s) := by
  unfold execCheckpointWriteDone
  refine .next ?_
  split
  · exact h.ckptWrite.modPan
  · exact h

theorem Kept.pfwTake {p} (h : Kept s₀ s) : Kept s₀ (s.pfwTake p) := by
  unfold State.pfwTake
  exact h.ckptTake.modPan

theorem Kept.ckptAbandon {p} (h : Kept s₀ s) : Kept s₀ (s.ckptAbandon p) :=
  .ite h (h.setMem (memWf_memClear _ _ _)).modPan

theorem Kept.pfwPan {p} (h : Kept s₀ s) : Kept s₀ (s.pfwPan p) :=
  have h1 := h.ckptAbandon
  .ite h1.modPan <| .ite h1.modPan h1.pfwTake

theorem Kept.rakePfw (h : Kept s₀ s) : Kept s₀ s.rakePfw := h.setF.setF.setF.pfwPan.pfwPan

theorem Kept.pfwSave {p} (h : Kept s₀ s) : Kept s₀ (s.pfwSave p) := by
  unfold State.pfwSave
  extract_lets
  split
  · exact .ite h.retainWrite.setFbit.modPan h
  · exact h

theorem Kept.captPan {t p} (h : Kept s₀ s) : Kept s₀ (s.captPan t p) :=
  .ite h (h.mput.foldl (fun h => .ite h.captOne h))

theorem Answers.triggerCapture {t} (h : Kept s₀ s) : Answers s₀ (execTriggerCapture t s) :=
  .next <| .ite h <| .ite h.frame <| .ite h.frame.raise h.frame.captPan.captPan.canLatch

theorem Kept.captCount {t p} (h : Kept s₀ s) : Kept s₀ (s.captCount t p) := .ite h h.mput.mput
theorem Kept.forceRegs {p} (h : Kept s₀ s) : Kept s₀ (s.forceRegs p) := h.setF

theorem KeptBody.force : KeptBody bodyForce := by
  unfold bodyForce
  refine .fixedLen ⟨fun h => ?_⟩
  extract_lets
  split
  · exact h.badParam
  · exact .ite h.badParam <| .ite h.badParam <| .ite h.limit (have h1 := h.modPan.forceRegs; .ok (.ite h1.setMbit h1))

theorem KeptBody.unforce : KeptBody bodyUnforce := by
  unfold bodyUnforce
  refine .fixedLen ⟨fun h => ?_⟩
  extract_lets
  split
  · exact h.badParam
  · exact .ite h.badParam h.modPan.forceRegs.ok

theorem KeptBody.imageRead : KeptBody bodyImageRead := by
  unfold bodyImageRead
  refine .fixedLen ⟨fun h => ?_⟩
  extract_lets
  split
  · exact h.badParam
  · exact .ite h.badParam <| .ite h.badParam h.ok

theorem Kept.rakeCtrl {w} (h : Kept s₀ s) : Kept s₀ (s.rakeCtrl w) := .ite h h.setF

/-! The functions of `Machine/Pan.lean`. -/

theorem Kept.setMode {p m} (h : Kept s₀ s) : Kept s₀ (s.setMode p m) := h.setF

theorem Kept.progCopy {p} (h : Kept s₀ s) : Kept s₀ (s.progCopy p) := by
  unfold State.progCopy
  exact (h.foldl .mputBytes).extend.modPan

theorem KeptBody.loadBlock : KeptBody bodyLoadBlock := by
  unfold bodyLoadBlock
  refine ⟨fun {_ s₀ _} h => ?_⟩
  extract_lets
  refine .ite h.badLen ?_
  split
  · exact h.badParam
  · extract_lets _ _ s1 s2
    have h1 : Kept s₀ s1 := h.pdForPan.modPan
    have h2 : Kept s₀ s2 := .ite (.panRelease (.progCopy (.ite h1.setMode h1))) h1
    exact .ite h.badParam <| .ite h.wrongState <| .ite h.limit h2.ok

theorem Kept.panCall {p} (h : Kept s₀ s) : Kept s₀ (s.panCall p) := h.setCore
theorem Kept.sysStatus {p} (h : Kept s₀ s) : Kept s₀ (s.sysStatus p) := h.mputBytes
theorem Kept.editSwap {p blocks} (h : Kept s₀ s) : Kept s₀ (s.editSwap p blocks) := (h.modPan.foldl .mputBytes).raise
theorem Kept.editStop {p k} (h : Kept s₀ s) : Kept s₀ (s.editStop p k) := h.modPan.frame.failStopped

theorem Kept.editNow {p} (h : Kept s₀ s) : Kept s₀ (s.editNow p) := by
  unfold State.editNow
  split
  · exact h
  · extract_lets s1
    have h1 : Kept s₀ s1 := h.editSwap
    refine .ite h.editStop ?_
    split
    · exact h1.ok
    · exact h1

theorem Kept.hsLeaves (h : Kept s₀ s) : Kept s₀ s.hsLeaves := .ite h.frame h

theorem Kept.startLost {p} (h : Kept s₀ s) : Kept s₀ (s.startLost p) := by
  unfold State.startLost
  split
  · exact h.modPan.failed.useFree
  · exact h

theorem Kept.panFault {p} (h : Kept s₀ s) : Kept s₀ (s.panFault p) :=
  .startLost (.editNow (.updPanFault (.panSilent (.hsLeaves (.rakeEvt (.modPan (.ite h h.setMode)))))))

theorem Kept.panHold {p} (h : Kept s₀ s) : Kept s₀ (s.panHold p) := by
  unfold State.panHold
  extract_lets
  split
  · exact h.setCore
  · exact h.setCore
  · exact h

theorem Kept.faultStop {p} (h : Kept s₀ s) : Kept s₀ (s.faultStop p) := h.panHold.panFault
theorem Kept.splitNew (h : Kept s₀ s) : Kept s₀ s.splitNew := h.frame

theorem Kept.panStart {p warm k} (h : Kept s₀ s) : Kept s₀ (s.panStart p warm k) := by
  unfold State.panStart
  exact h.splitNew.setMode.modPan

theorem Kept.startRefuse {p k r} (h : Kept s₀ s) : Kept s₀ (s.startRefuse p k r) := by
  unfold State.startRefuse
  split
  · exact h.wrongState
  · exact h.wrongState
  · exact (h.when .raise).failed
  · exact h.limit
  · exact h

theorem KeptBody.panMode : KeptBody bodyPanMode := by
  unfold bodyPanMode
  refine .fixedLen ⟨fun h => ?_⟩
  extract_lets
  split
  · exact h.badParam
  · refine .ite h.badParam <| .ite (.ite h.modPan.ok <| .ite h.setMode.ok h.wrongState) ?_
    split
    · exact h.accept.panStart
    · exact h.wrongState
    · exact h.accept.startRefuse

theorem Kept.startData {p} (h : Kept s₀ s) : Kept s₀ (s.startData p) := by
  unfold State.startData
  extract_lets x b m0 okAt m1 src m2 m3 m4 e
  have hm : memWf s.mem = true → memWf m4 = true := fun w => by
    have w0 : memWf m0 = true := memWf_memClear _ _ _ (memWf_memClear _ _ _ w)
    have w1 : memWf m1 = true := by
      refine memWf_foldl (fun w => ?_) w0
      split
      · exact memWf_memPut _ _ _ w
      · exact w
    have w2 : memWf m2 = true := by
      unfold m2
      generalize src = o
      split
      · exact memWf_memPut _ _ _ w1
      · exact w1
    exact memWf_foldl (memWf_memClear _ _ _) (memWf_memClear _ _ _ w2)
  exact (h.setMem hm).frame.setFlag.setFlag

theorem Kept.silTo {p per} (h : Kept s₀ s) : Kept s₀ (s.silTo p per) := h.setF

theorem Kept.startDone {p} (h : Kept s₀ s) : Kept s₀ (s.startDone p) :=
  have h3 := h.modPan.canLetAll.startData.canLatch.harvest.forBelow fun {i _} h =>
    (h.setMem (memWf_memCopy_dtcm (by decide) (by have := inBuf_le (i + 1); omega))).frame
  h3.modPan.setMode.setF.silTo

theorem Kept.autoStart {p} (h : Kept s₀ s) : Kept s₀ (s.autoStart p) := by
  unfold State.autoStart
  extract_lets
  split
  · split
    · exact h.panStart
    · exact h.raise
    · exact h
  · exact .ite h.panStart h
  · exact .ite h.panStart h
  · exact h

theorem Kept.editAt {p} (h : Kept s₀ s) : Kept s₀ (s.editAt p) := by
  unfold State.editAt
  split
  · exact h.modPan
  · extract_lets s1
    have h1 : Kept s₀ s1 := h.editSwap.modPan
    refine .ite h.editStop <| .ite h.modPan ?_
    split
    · exact h1.ok
    · exact h1

theorem Kept.bndTimes {p} (h : Kept s₀ s) : Kept s₀ (s.bndTimes p) := by
  unfold State.bndTimes
  exact h.setF.setFlag.modPan

theorem Kept.panStopped {p} (h : Kept s₀ s) : Kept s₀ (s.panStopped p) :=
  have h2 := h.panHold.setMode.modPan.editNow.hsLeaves
  .ite h2 h2.panSilent

theorem Kept.boundary {p f} (h : Kept s₀ s) : Kept s₀ (s.boundary p f) := by
  unfold State.boundary
  extract_lets _ _ _ s1 s2 _ _ _ s3 s4 b0ok s5
  have hok : ∀ {s}, Kept s₀ s → Kept s₀ (b0ok s) := fun h => by
    unfold b0ok
    split
    · exact h.modPan.ok
    · exact h
  have h1 : Kept s₀ s1 := by
    unfold s1
    split
    · exact .ite h h.harvLate
    · exact h
  have h2 : Kept s₀ s2 := .ite h1 h1.canLetAll
  have h3 : Kept s₀ s3 := .rakeEvt (.bankCopy (.modPan (.ite h2 h2.canLatch)))
  have h4 : Kept s₀ s4 := .ite h3 h3.commit
  have h5 : Kept s₀ s5 := h4.bndTimes.ckptDue
  exact .ite (hok h4).panStopped (hok (.panCall (.modPan (.sysStatus (.editAt (.ite h5 (h5.harvest.when .raise)))))))

theorem Kept.setCons {p n} (h : Kept s₀ s) : Kept s₀ (s.setCons p n) := h.modPan.setF

theorem Kept.overrun {p} (h : Kept s₀ s) : Kept s₀ (s.overrun p) :=
  .ite h (have h1 := h.modPan.setCons.incF.rakeEvt; .ite h1.faultStop h1.updCycle)

theorem Kept.logicEnd {p} (h : Kept s₀ s) : Kept s₀ (s.logicEnd p) := h.modPan.setF.setF
theorem Kept.afterHalt {p} (h : Kept s₀ s) : Kept s₀ (s.afterHalt p) := .ite h h.modPan

theorem Kept.resolve {p} (h : Kept s₀ s) : Kept s₀ (s.resolve p) := by
  unfold State.resolve
  extract_lets _ _ _ _ _ _ s1' s2
  have h1' : Kept s₀ s1' := h.overrun
  have h2 : Kept s₀ s2 := h1'.logicEnd.modPan
  exact .ite h.logicEnd.setCons.modPan.afterHalt.updCycle <| .ite h.logicEnd.modPan.incF.rakeEvt.afterHalt.updCycle <|
    .ite h1' <| .ite h2.modPan h2.modPan

theorem Kept.panDone {p} (h : Kept s₀ s) : Kept s₀ (s.panDone p) :=
  .ite h (have h1 : Kept s₀ _ := .ite h.logicEnd h.resolve; .ite h1.pfwTake h1)

theorem Kept.doneWrite {who p w} (h : Kept s₀ s) : Kept s₀ (s.doneWrite who p w) := by
  unfold State.doneWrite
  split
  · exact .ite (.ite h.panDone h) h.busErr
  · exact h.busErr

theorem Kept.panFatal {p} (h : Kept s₀ s) : Kept s₀ (s.panFatal p) := h.panFault.logKind

/-! The functions of `Machine/Hs.lean`. -/

theorem Kept.mirRead {a} (h : Kept s₀ s) : Kept s₀ (s.mirRead a).1 := by
  unfold State.mirRead
  split
  next heq => exact h.ioStream.fst heq
  next heq =>
    have h1 := h.ioStream.fst heq
    extract_lets r
    have hr : Kept s₀ r.1 := h1.eccRead
    split
    · exact h1
    · exact h1
    · exact h1
    · exact .ite_fst hr hr

theorem Kept.mirReads {l} (h : Kept s₀ s) : Kept s₀ (s.mirReads l).1 := by
  induction l generalizing s with
  | nil => exact h
  | cons x l ih =>
    unfold State.mirReads
    split
    next heq => exact h.mirRead.fst heq
    next hb =>
      have h1 := ih (h.mirRead.fst hb)
      split
      next heq => exact h1.fst heq
      next heq => exact h1.fst heq

theorem Kept.mirSend {p} (h : Kept s₀ s) : Kept s₀ (s.mirSend p) := by
  unfold State.mirSend
  extract_lets _ _ _ _ _ _ _ _ _ s2
  have h2 : Kept s₀ s2 := h.modHsPan.syncLeft.setF
  refine .ite h ?_
  split
  · exact h2
  · extract_lets s3
    have h3 : Kept s₀ s3 := h2.brlSend
    split
    next heq => exact h3.mirReads.fst heq
    next heq =>
      have h4 := h3.mirReads.fst heq
      split
      next heq => exact h4.mirReads.fst heq
      next heq => exact (h4.mirReads.fst heq).brlSend.foldl .brlSend

theorem Kept.panOutsOff {p} (h : Kept s₀ s) : Kept s₀ (s.panOutsOff p) := h.foldl (fun g => g.foldl .resOff)

theorem Kept.editDrop {p} (h : Kept s₀ s) : Kept s₀ (s.editDrop p) := by
  unfold State.editDrop
  extract_lets s1
  have h1 : Kept s₀ s1 := h.modPan
  split
  · exact h
  · split
    · exact h1.failed
    · exact h1

theorem Kept.becomeCopy {s0 p} (h : Kept s₀ s0) : Kept s₀ (s0.becomeCopy p) :=
  have h := h.editDrop
  .ite h h.setMode.setF.silTo.modPan.modHsPan

theorem Kept.enterSync (h : Kept s₀ s) : Kept s₀ s.enterSync :=
  have h1 := h.hsRole.becomeCopy.becomeCopy.hsFull
  .ite h1.modHs h1.panOutsOff.panOutsOff

theorem Kept.endCopy (h : Kept s₀ s) : Kept s₀ s.endCopy := h.setF.setF
theorem Kept.primaryStart (h : Kept s₀ s) : Kept s₀ s.primaryStart := h.hsRole.endCopy.modHs.autoStart.autoStart

theorem Kept.hsCfg {w} (h : Kept s₀ s) : Kept s₀ (s.hsCfg w) := by
  unfold State.hsCfg
  extract_lets s1
  have h1 : Kept s₀ s1 := by
    unfold s1
    split
    · exact h.plainWrite
    · exact h
  exact .ite (.ite h1.hsRole.modHs h1) h1.hsRole.endCopy

theorem Kept.partnerRequest {op pl} (h : Kept s₀ s) : Kept s₀ (s.partnerRequest op pl) := by
  unfold State.partnerRequest
  split
  · exact h.peerRequestOn
  · exact h

theorem Kept.resendEdit (h : Kept s₀ s) : Kept s₀ s.resendEdit :=
  h.forBelow (fun g => g.foldl (fun g => g.foldl .partnerRequest))

theorem Kept.hbRx {role pref ident hand} (h : Kept s₀ s) : Kept s₀ (s.hbRx role pref ident hand) := by
  unfold State.hbRx
  extract_lets _ s1 s2
  have h1 : Kept s₀ s1 := h.setF.modHs
  have h2 : Kept s₀ s2 := h1.raise
  exact .ite (.ite h1 <| .ite h1.hsRole.raise <| .ite h1.enterSync <| .ite h1.primaryStart h1) <|
    .ite (.ite (.ite h2 h2.enterSync) <| .ite h1.hsFull.resendEdit h1) h1

theorem Answers.heartbeatRx {l src role pref ident hand} (h : Kept s₀ s) :
    Answers s₀ (execHeartbeatRx l src role pref ident hand s) :=
  .next <| .ite h.hbRx h

theorem Answers.heartbeatLoss (h : Kept s₀ s) : Answers s₀ (execHeartbeatLoss s) := by
  unfold execHeartbeatLoss
  extract_lets _ s1 s1'
  have h1 : Kept s₀ s1 := .hsRole (.endCopy (.ite (.setMode (.ite h.setMode h)) <| .ite h.setMode h))
  have h1' : Kept s₀ s1' := by
    unfold s1'
    split
    · exact h.failed.useFree
    · exact h
  exact .next <| .ite h1.autoStart.autoStart <| .ite h1'.modHs h

theorem Kept.mirInput {p ls} (h : Kept s₀ s) : Kept s₀ (s.mirInput p ls) := h.foldl .mputBytes

theorem Kept.mirApply {p m} (h : Kept s₀ s) : Kept s₀ (s.mirApply p m) :=
  (h.foldl (fun h => .ite h.mputBytes h)).modHsPan.syncLeft

theorem Kept.mirSwap {p m} (h : Kept s₀ s) : Kept s₀ (s.mirSwap p m) := .ite h.editSwap.modPan.modHsPan h

theorem Kept.copyBoundary {p m logic} (h : Kept s₀ s) : Kept s₀ (s.copyBoundary p m logic) :=
  have h3 := h.bankCopy.mirApply.modPan.rakeEvt.setF.modPan
  .ite h3.panStopped (have h5 := h3.ckptDue.mirSwap.modHsPan.sysStatus; .ite h5.modPan.panCall h5)

theorem Kept.syncSwap {p} (h : Kept s₀ s) : Kept s₀ (s.syncSwap p) := .ite h.editSwap h

theorem Kept.marker {p} (h : Kept s₀ s) : Kept s₀ (s.marker p) := by
  unfold State.marker
  extract_lets _ _ _ s1
  have h1 : Kept s₀ s1 := .ite h.hsRole.raise h
  split
  · exact .ite h.modHsPan h.hsResync
  · exact .ite h.hsResync <| .ite h.hsResync <|
      .ite (.ite h.hsResync h.incF.raise.hsFull) (.copyBoundary (.setF (.ite h1.syncSwap h1)))

theorem Kept.takePan {p} (h : Kept s₀ s) : Kept s₀ (s.takePan p) := by
  unfold State.takePan
  extract_lets _ _ _ s0'
  have h0' : Kept s₀ s0' := h.setF.silTo.modPan.canLetAll
  refine .ite h ?_
  split
  · exact h0'.bankCopy.mirApply.canLatch.modPan.rakeEvt.commit.setF.modPan.harvest.mirSwap.modPan.sysStatus.panCall.modHsPan
  · exact h0'.bankCopy.canLatch.rakeEvt.commit.harvest.modPan.setF.modHsPan

theorem Kept.becomePrimary (h : Kept s₀ s) : Kept s₀ s.becomePrimary :=
  (h.setF.modHs.takePan.takePan.modPan.modHsPan.modPan.modHsPan.hsRole.when .mirSend).when .mirSend

theorem Answers.takeover (h : Kept s₀ s) : Answers s₀ (execTakeover s) := by
  unfold execTakeover
  extract_lets s1 s2
  have h1 : Kept s₀ s1 := h.becomePrimary.raise.incF
  have h2 : Kept s₀ s2 := by
    unfold s2
    split
    · exact h1.brlSend
    · exact h1
  exact .next <| .ite h h2.raise

theorem KeptBody.switchoverTest : KeptBody bodySwitchoverTest :=
  .fixedLen ⟨fun h => .ite h.badParam <| .ite h.wrongState h.stopServed.accept.modHs⟩

theorem Kept.handOff {p} (h : Kept s₀ s) : Kept s₀ (s.handOff p) :=
  .ite h (have h1 := h.boundary.mirSend; .ite h1 h1.panHold.modPan.setF.modHsPan)

theorem Answers.handoverBoundary (h : Kept s₀ s) : Answers s₀ (execHandoverBoundary s) := by
  unfold execHandoverBoundary
  refine .next ?_
  split
  · exact h
  · extract_lets per fin
    have hfin : ∀ {s}, Kept s₀ s → Kept s₀ (fin s) := fun h => by
      unfold fin
      split
      · exact .ite h.failStopped h.ok
      · exact h
    exact .ite (hfin h.modHs) (.ite (hfin h.handOff.handOff.modHs.hsRole) (.ite (hfin h.becomePrimary) h))

theorem Kept.stagePut {p b off d} (h : Kept s₀ s) : Kept s₀ (s.stagePut p b off d) := by
  unfold State.stagePut
  exact h.mputBytes.modPan

theorem KeptBody.stageBody {go} (hgo : ∀ {s₀ x0 x1 x2 x3 x4 s}, Kept s₀ s → Kept s₀ (go x0 x1 x2 x3 x4 s)) :
    KeptBody (stageBody go) := by
  unfold Machine.stageBody
  refine ⟨fun h => ?_⟩
  extract_lets
  refine .ite h.badLen ?_
  split
  · exact h.badParam
  · exact .ite h.badParam <| .ite h.wrongState <| .ite h.limit <| .ite h.badParam (hgo h)

theorem KeptBody.editStage : KeptBody bodyEditStage :=
  .stageBody (fun h => have h0 := h.stopServed; .ite h0.wrongState <|
    .ite (.ite h0.finish h0.modHs.partnerRequest) h0.stagePut.ok)

theorem Kept.editFix {p k bs at_} (h : Kept s₀ s) : Kept s₀ (s.editFix p k bs at_) :=
  have h1 := h.modHsPan
  .ite h1.editSwap.ok h1.modPan

theorem KeptBody.editCommit : KeptBody bodyEditCommit := by
  unfold bodyEditCommit
  refine ⟨fun {_ s₀ _} h => ?_⟩
  extract_lets _ _ s1
  have h1 : Kept s₀ s1 := h.stopServed.accept
  refine .ite h.badLen <| .ite h.badLen ?_
  split
  · exact h.badParam
  · extract_lets
    refine .ite h.badParam <| .ite h.badLen ?_
    split
    · exact h.badParam
    · exact .ite h.wrongState <| .ite h.failed <| .ite h1.modHs.partnerRequest h1.editFix

theorem Kept.editFails {e} (h : Kept s₀ s) : Kept s₀ (s.editFails e) := h.modHs.failed.partnerRequest

theorem Kept.hsReply {src seq stat pl} (h : Kept s₀ s) : Kept s₀ (s.hsReply src seq stat pl) := by
  unfold State.hsReply
  extract_lets s1
  have h1 : Kept s₀ s1 := h.modHs
  split
  · exact h
  · exact .ite h <| .ite (h.modHs.failStopped.when .partnerRequest) <| .ite (.ite h1.editFix h.editFails) <|
      .ite h1.stagePut.ok h1.finish

theorem Answers.peerEditCheckTimeout {p} (h : Kept s₀ s) : Answers s₀ (execPeerEditCheckTimeout p s) := by
  unfold execPeerEditCheckTimeout
  refine .next ?_
  split
  · exact .ite h.editFails h
  · exact h

theorem KeptBody.peerEditStage : KeptBody bodyPeerEditStage := .stageBody (fun h => .ite h.stagePut.ok h.wrongState)

theorem KeptBody.peerEditCheck : KeptBody bodyPeerEditCheck := by
  unfold bodyPeerEditCheck
  refine ⟨fun h => ?_⟩
  extract_lets
  refine .ite h.badLen <| .ite h.badLen <| .ite h.badLen ?_
  split
  · exact h.badParam
  · exact .ite h.modHsPan.ok h.failed

theorem KeptBody.peerEditCancel : KeptBody bodyPeerEditCancel := by
  unfold bodyPeerEditCancel
  refine .fixedLen ⟨fun h => ?_⟩
  split
  · exact h.badParam
  · exact h.modPan.modHsPan.ok

end Sys2Proof.Machine
end

