-- ==== Sys2Proof/Proofs/KeptSystem.lean ====
section
/-! PROOF. The Enclave, power, resets, register windows, DMA at work and boot keep it. -/
namespace Sys2Proof.Machine

variable {s₀ s t : State}

/-! The functions of `Machine/Mailbox.lean`. -/

theorem Kept.mbOut {c bs} (h : Kept s₀ s) : Kept s₀ (s.mbOut c bs) := h.setRegBytes
theorem Kept.mbZero {c} (h : Kept s₀ s) : Kept s₀ (s.mbZero c) := h.setRegBytes

theorem Kept.putDerived {pan d src key typ usage arg} (h : Kept s₀ s) :
    Kept s₀ (s.putDerived pan d src key typ usage arg).st :=
  .ite_st h.enclFail <| .ite_st h.enclFail h.putSlot

theorem Kept.opRandom {n} (h : Kept s₀ s) : Kept s₀ (s.opRandom n).st :=
  .ite_st h.enclFail <| .ite_st h.enclFail h.useFree

theorem Kept.opClear {pan slot} (h : Kept s₀ s) : Kept s₀ (s.opClear pan slot).st := by
  unfold State.opClear
  split
  · exact h.enclFail
  · exact .ite_st h.enclFail <| .ite_st h.enclFail h.dropSlot

theorem Kept.opGen {pan slot n inp} (h : Kept s₀ s) : Kept s₀ (s.opGen pan slot n inp).st := by
  unfold State.opGen
  exact .ite_st h.enclFail <| .ite_st h.enclFail <| .ite_st h.enclFail <| .ite_st h.enclFail <|
    .ite_st h.enclFail h.useFree.useFree.useFree.putSlot

theorem Kept.opGcmEnc {pan slot n inp} (h : Kept s₀ s) : Kept s₀ (s.opGcmEnc pan slot n inp).st := by
  unfold State.opGcmEnc
  extract_lets
  split
  · exact h.enclFail
  · exact .ite_st h.enclFail h

theorem Kept.opGcmDec {pan slot n inp} (h : Kept s₀ s) : Kept s₀ (s.opGcmDec pan slot n inp).st := by
  unfold State.opGcmDec
  extract_lets
  split
  · exact h.enclFail
  · refine .ite_st h.enclFail ?_
    split
    · exact h.enclFail
    · exact h

theorem Kept.opCmac {pan slot n inp} (h : Kept s₀ s) : Kept s₀ (s.opCmac pan slot n inp).st := by
  unfold State.opCmac
  split
  · exact h.enclFail
  · exact .ite_st h.enclFail h

theorem Kept.opSign {pan slot n inp} (h : Kept s₀ s) : Kept s₀ (s.opSign pan slot n inp).st := by
  unfold State.opSign
  split
  · exact h.enclFail
  · exact .ite_st h.enclFail <| .ite_st h.enclFail h.useFree

theorem Kept.opVerify {n inp} (h : Kept s₀ s) : Kept s₀ (s.opVerify n inp).st := by
  unfold State.opVerify
  split
  · exact h.enclFail
  · exact .ite_st h.enclFail <| .ite_st h h.enclFail

theorem Kept.opEcdh {pan slot arg n inp} (h : Kept s₀ s) : Kept s₀ (s.opEcdh pan slot arg n inp).st := by
  unfold State.opEcdh
  split
  · exact h.enclFail
  · exact .ite_st h.enclFail h.putDerived

theorem Kept.opHkdf {pan slot arg inp} (h : Kept s₀ s) : Kept s₀ (s.opHkdf pan slot arg inp).st := by
  unfold State.opHkdf
  extract_lets
  split
  · exact h.enclFail
  · exact .ite_st h.enclFail <| .ite_st h.putDerived <| .ite_st h.enclFail h.putDerived.useFree

theorem Kept.opHash {arg n inp} (h : Kept s₀ s) : Kept s₀ (s.opHash arg n inp).st :=
  .ite_st h.enclFail <| .ite_st h <| .ite_st h h.enclFail

theorem Kept.opExtend {n inp} (h : Kept s₀ s) : Kept s₀ (s.opExtend n inp).st := .ite_st h.enclFail h.extend
theorem Kept.opAttest {n inp} (h : Kept s₀ s) : Kept s₀ (s.opAttest n inp).st := .ite_st h.enclFail h.useFree

theorem Kept.opDo {c o slot} (h : Kept s₀ s) : Kept s₀ (s.opDo c o slot).st := by
  unfold State.opDo
  extract_lets
  split
  · exact h.opRandom
  · exact h.loadKey
  · exact h.opClear
  · exact h.opGen
  · exact h.opGcmEnc
  · exact h.opGcmDec
  · exact h.opCmac
  · exact h.opSign
  · exact h.opVerify
  · exact h.opEcdh
  · exact h.opHkdf
  · exact h.opHash
  · exact h.opExtend
  · exact h.opAttest
  · exact h.enclFail

theorem Kept.opRun {c o} (h : Kept s₀ s) : Kept s₀ (s.opRun c o).st := by
  unfold State.opRun
  refine .ite_st ?_ h.opDo
  split
  · exact h.enclFail
  · exact h.opDo

theorem Kept.enclNext (h : Kept s₀ s) : Kept s₀ s.enclNext := by
  unfold State.enclNext
  extract_lets
  refine .ite h ?_
  split
  · exact h
  · exact h.frame

theorem Kept.mbCmd {who c o} (h : Kept s₀ s) : Kept s₀ (s.mbCmd who c o) := .ite h.busErr h.frame.setF.enclNext
theorem Kept.keyStored {c o r} (h : Kept s₀ s) : Kept s₀ (s.keyStored c o r) := .ite h.frame h

theorem Kept.enclDone (h : Kept s₀ s) : Kept s₀ s.enclDone := by
  unfold State.enclDone
  split
  · exact h
  · extract_lets _ r s1 _ s3
    have hr : Kept s₀ r.st := h.opRun
    have h1 : Kept s₀ s1 := .ite hr.mbZero hr
    have h3 : Kept s₀ s3 := .setF (.setF (.ite h1.mbOut h1))
    exact .enclNext (.raise (.frame (.keyStored (.setF (.setF (.ite h3.setF h3))))))

theorem Kept.mbRow {who c op slot auto n} (h : Kept s₀ s) : Kept s₀ (s.mbRow who c op slot auto n) := h.mbCmd

/-! The functions of `Machine/Power.lean`. -/

theorem Kept.powerOn (h : Kept s₀ s) : Kept s₀ s.powerOn := by
  unfold State.powerOn
  exact h.frame.resetL1.railStart.setF.setF.modPwr

theorem Kept.railNext (h : Kept s₀ s) : Kept s₀ s.railNext := by
  unfold State.railNext
  extract_lets
  split
  · exact h.rails.modPwr
  · exact h.rails.modPwr
  · exact h.rails.modPwr
  · exact h.rails.modPwr
  · exact h.rails.modPwr
  · exact h.modPwr
  · exact h.modPwr.modPwr
  · exact h

theorem Kept.pwrSeq {en} (h : Kept s₀ s) : Kept s₀ (s.pwrSeq en) := h.setFlag.setFbit
theorem Kept.islandRegs {i} (h : Kept s₀ s) : Kept s₀ (s.islandRegs i) := h.setRegs regsWf_regsKept

theorem Kept.islandReset {i} (h : Kept s₀ s) : Kept s₀ (s.islandReset i) := by
  unfold State.islandReset
  extract_lets s1
  have h1 : Kept s₀ s1 := h.islandRegs
  split
  · exact h1.setCore.setMem (memWf_filter _ _)
  · exact h1.setCore.setMem (memWf_filter _ _)
  · exact h1.modPan.modPan.frame.forBelow (fun h => .ite h h.setF.setF)
  · exact h1.frame
  · exact h1.frame
  · exact h1.usbAttach
  · exact h1.endCopy.frame
  · exact h1.frame
  · exact h1

theorem Kept.pdOff {d} (h : Kept s₀ s) : Kept s₀ (s.pdOff d) := by
  unfold State.pdOff
  extract_lets s1
  have h1 : Kept s₀ s1 := h.setFbit.modPwr
  split
  · exact h1.islandReset.frame
  · exact h1

theorem Kept.pdOffWrite {w} (h : Kept s₀ s) : Kept s₀ (s.pdOffWrite w) :=
  h.forBelow (fun h => .ite (.ite h <| .ite h.pdOff h.setF) <| .ite h.pdOn h)

theorem Answers.pdSwitchOnDone {d good} (h : Kept s₀ s) : Answers s₀ (execPdSwitchOnDone d good s) := by
  unfold execPdSwitchOnDone
  extract_lets s1
  have h1 : Kept s₀ s1 := h.modPwr
  refine .next <| .ite h <| .ite h.raise <| .ite h1 ?_
  split
  · exact .ite h1.frame.panRelease h1.frame
  · exact .ite h1.frame.panRelease h1.frame
  · exact h1.frame
  · exact h1

theorem Kept.parkTrx {n} (h : Kept s₀ s) : Kept s₀ (s.parkTrx n) := .ite h.setF.setF h.setF.setF
theorem Kept.parkTo {x code} (h : Kept s₀ s) : Kept s₀ (s.parkTo x code) := h.modPwr.setF

theorem Kept.parkGo (h : Kept s₀ s) : Kept s₀ s.parkGo := by
  unfold State.parkGo
  extract_lets
  refine .ite h ?_
  split
  · exact h.setF.raise
  · exact (h.modPwr.setF.forBelow .parkTrx).parkTo

theorem Kept.eraseResume (h : Kept s₀ s) : Kept s₀ s.eraseResume := .ite h.modPwr.modCrust h

theorem Kept.parkAbort (h : Kept s₀ s) : Kept s₀ s.parkAbort := by
  unfold State.parkAbort
  extract_lets _ _ s1 s2
  have h1 : Kept s₀ s1 := .ite ((((h.frame.modPwr.setFlag.when .ledEn).when .dioEn).when .solEn).when .hssEn) h
  have h2 : Kept s₀ s2 := h1.eraseResume.forBelow (fun h => have ht := h.setF; .ite ht ht.setF)
  exact h2.parkTo.setF.modPwr.raise

theorem Kept.parkLoads (h : Kept s₀ s) : Kept s₀ s.parkLoads :=
  h.hssEn.solEn.dioEn.ledEn.setF.modAcc.frame.modPwr.parkTo

theorem Kept.parkLogic (h : Kept s₀ s) : Kept s₀ s.parkLogic := h.frame.modPwr.parkTo

theorem Kept.parkStep (h : Kept s₀ s) : Kept s₀ s.parkStep := by
  unfold State.parkStep
  extract_lets s1
  have h1 : Kept s₀ s1 := h.modPwr
  split
  · exact h
  · exact h
  · exact .ite h.parkAbort h.parkTo
  · exact .ite h.parkAbort <| .ite h.parkLoads h
  · exact .ite h.parkAbort h.parkLogic
  · exact h.setF.rails.parkTo
  · exact .ite h1.wakeStart h1

theorem Answers.parkWake {src detail can} (h : Kept s₀ s) : Answers s₀ (execParkWake src detail can s) := by
  unfold execParkWake
  refine .next <| .ite h ?_
  split
  · exact h.busWake
  · exact h.setF.parkWake
  · exact h.parkWake.reqReset
  · exact h.parkWake

theorem Answers.dioWakeSample {n level} (h : Kept s₀ s) : Answers s₀ (execDioWakeSample n level s) :=
  .next <| .ite h (have h1 := h.modPwr; .ite h1.parkWake h1)

theorem Kept.almFire {k} (h : Kept s₀ s) : Kept s₀ (s.almFire k) :=
  have h1 := h.setF.raise
  .ite h1 h1.parkWake

theorem Kept.almLate {k} (h : Kept s₀ s) : Kept s₀ (s.almLate k) :=
  have h1 := h.setF
  .ite h1.setF.setF.raise h1.almFire

theorem Kept.almWrite {k w} (h : Kept s₀ s) : Kept s₀ (s.almWrite k w) :=
  have h1 := h.setF.setF.setF
  .ite h1 (have h2 := h1.setF.setF.setF.setF; .ite h2.setF.almLate h2)

theorem Answers.thermalSample {t trip} (h : Kept s₀ s) : Answers s₀ (execThermalSample t trip s) := by
  unfold execThermalSample
  exact
    have h3 : Kept s₀ _ := .levelEdge (.frame (.setF (.setF (.ite h.setF h))));
    .next <| .ite h3.modPwr.reqReset h3

/-! The functions of `Machine/ResetCtl.lean`. -/

theorem Kept.clockFault (h : Kept s₀ s) : Kept s₀ s.clockFault := by
  unfold State.clockFault
  split
  · exact h
  · exact h
  · exact h.reqReset

theorem Answers.referenceLoss (h : Kept s₀ s) : Answers s₀ (execReferenceLoss s) := by
  unfold execReferenceLoss
  refine .next <| .ite h ?_
  split
  · exact h
  · exact h
  · exact h.setF.clockFault

theorem Answers.pllUnlock {pll} (h : Kept s₀ s) : Answers s₀ (execPllUnlock pll s) := by
  unfold execPllUnlock
  refine .next (.clockFault ?_)
  split
  · exact h.setF
  · exact h.setF
  · exact h.setF

theorem Kept.rtcWrite {w} (h : Kept s₀ s) : Kept s₀ (s.rtcWrite w) := h.setF.setF.modPwr

theorem Kept.wdtKick {who k w} (h : Kept s₀ s) : Kept s₀ (s.wdtKick who k w) :=
  .ite h.busErr <| .ite h.modPwr h.reqReset

theorem Kept.swrst {who w} (h : Kept s₀ s) : Kept s₀ (s.swrst who w) := .ite h.busErr <| .ite h.reqReset h
theorem Kept.l3Begin {i} (h : Kept s₀ s) : Kept s₀ (s.l3Begin i) := h.frame.modPwr

theorem Kept.optWrite {who} (h : Kept s₀ s) : Kept s₀ (s.optWrite who) :=
  .ite h.busErr (.ite h.setF (h.setMem (memWf_memClear _ _ _)).setF.modPwr)

theorem Answers.optWriteDone {good} (h : Kept s₀ s) : Answers s₀ (execOptWriteDone good s) := by
  have hm {bs a} := h.setMem (memWf_memPut _ a bs)
  exact .next (.ite h (.raise (.modPwr (.setFlag (.setF (.ite hm hm.useFree))))))

theorem Kept.bootFrame {l p} (h : Kept s₀ s) : Kept s₀ (s.bootFrame l p) := h.modLink.emit

/-! The functions of `Machine/Bus.lean`. -/

theorem Kept.plainKeep {a w keep} (h : Kept s₀ s) : Kept s₀ (s.plainKeep a w keep) := by
  unfold State.plainKeep
  split
  · exact h.plainWrite.foldl .setF
  · exact h

theorem Kept.isotpOff (h : Kept s₀ s) : Kept s₀ s.isotpOff := .ite h.setF.releaseAll.setF.frame h

theorem Kept.isotpCfg {w} (h : Kept s₀ s) : Kept s₀ (s.isotpCfg w) := by
  unfold State.isotpCfg
  extract_lets _ _ s2
  have h2 : Kept s₀ s2 := h.isotpOff.plainKeep.setF
  refine .ite h.plainKeep <| .ite h2 <| .ite h2.conflict ?_
  split
  next heq => exact h2.claimAll.fst heq
  next heq => exact (h2.claimAll.fst heq).setReg.setF.setF

theorem Kept.wrSysctl {who o w} (h : Kept s₀ s) : KeptOpt s₀ (s.wrSysctl who o w) := by
  unfold State.wrSysctl
  extract_lets
  refine .ite (.some h.swrst) <| .ite (.some h.rtcWrite) <| .ite (.some h.pwrSeq) <| .ite (.some h.pdOffWrite) <|
    .ite (.some (h.when .parkGo)) <| .ite (.ite .none (.some h.busErr)) <|
      .ite (.ite (.some h.busErr) (.some (h.when .optWrite))) ?_
  split
  · exact .some h.wdtKick
  · exact .of_map h.almWrite

theorem Kept.wrEvt {o w} (h : Kept s₀ s) : KeptOpt s₀ (s.wrEvt o w) := by
  unfold State.wrEvt
  extract_lets
  refine .ite (.ite .none (.some h)) <| .ite (.some h.raise) ?_
  split
  · exact .some h.evtPendClear
  · exact .of_map (h.when .evtEoi)

theorem Kept.wrDma {o w} (h : Kept s₀ s) : KeptOpt s₀ (s.wrDma o w) := by
  unfold State.wrDma
  extract_lets
  refine .ite (.some h.iotlbInv) ?_
  split
  · exact .some h.dmaCtrl
  · exact .of_map (h.plainKeep.when .dmaErrClear)

theorem Kept.wrRake {who o w} (h : Kept s₀ s) : KeptOpt s₀ (s.wrRake who o w) :=
  .ite (.some h.rakeCtrl) <| .ite (.some h.doneWrite) <| .ite (.some h.doneWrite) .none

theorem Kept.wrRing {o w} (h : Kept s₀ s) : KeptOpt s₀ (s.wrRing o w) :=
  .ite (.some h.ringCtrl) <| .ite (.some h.ringAddr) <| .ite (.some h.plainKeep.timeElect) <| .ite (.some h.hsCfg) .none

theorem Kept.wrTime {o w} (h : Kept s₀ s) : KeptOpt s₀ (s.wrTime o w) := by
  unfold State.wrTime
  extract_lets s1
  have h1 : Kept s₀ s1 := h.plainKeep
  exact .ite (.some h.setReg) <| .ite (.some <| .ite h1.setF.setHold h1) <| .ite (.some h.modTime) <|
    .ite (.some h.stepWrite) .none

theorem Kept.wrHss {who o w} (h : Kept s₀ s) : KeptOpt s₀ (s.wrHss who o w) := by
  unfold State.wrHss
  extract_lets
  refine .ite (.some h.hssEn) ?_
  split
  · exact .some h.hssGrid.plainKeep
  · split
    · exact .some h.plainKeep.hssPar
    · split
      · exact .some (h.plainKeep.hssEach .hssFixRange)
      · exact .of_map h.hssCmdWrite

theorem Kept.wrSol {who o w} (h : Kept s₀ s) : KeptOpt s₀ (s.wrSol who o w) := by
  unfold State.wrSol
  extract_lets
  refine .ite (.some h.plainKeep.solEn) <| .ite (.some h.solProf) ?_
  split
  · exact .some h.plainKeep.solPar
  · split
    · exact .some h.solDuty
    · exact .of_map h.solCmdWrite

theorem Kept.wrDio {who o w} (h : Kept s₀ s) : KeptOpt s₀ (s.wrDio who o w) := by
  unfold State.wrDio
  extract_lets
  refine .ite (.some (h.dioEn.accWatch h)) ?_
  split
  · exact .some (h.dioCfgWrite.accWatch h)
  · exact .of_map h.dioCmdWrite

theorem Kept.wrLed {who o w} (h : Kept s₀ s) : KeptOpt s₀ (s.wrLed who o w) := by
  unfold State.wrLed
  extract_lets _ s1
  have h1 : Kept s₀ s1 := h.plainKeep.ledEn
  refine .ite (.some <| .ite h1 h1.setF.setF) <| .ite (.some (h.plainKeep.when .setF).lmxEn) ?_
  split
  · exact .some h.ledMask
  · split
    · exact .some <| .ite (h.ownedWrite (fun h => h.plainKeep.ledGroupClear)) h.plainKeep
    · split
      · exact .some (h.ownedWrite .ledCommand)
      · exact .of_map h.lmxLvl

theorem Kept.wrAcc {o w} (h : Kept s₀ s) : KeptOpt s₀ (s.wrAcc o w) := by
  unfold State.wrAcc
  exact .ite (.some h.accCtrl) <| .ite (.some h.plainKeep.accAntf) <| .ite (.some <| .ite h.setF h.accLock) <|
    .ite (.some (h.accDoorWrite.accWatch h)) <| .ite (.some h.accCalWrite) .none

theorem Kept.wrEncl {who o w} (h : Kept s₀ s) : KeptOpt s₀ (s.wrEncl who o w) :=
  .ite .none <| .ite (.some h.busErr) <| .ite (.some h.plainKeep.mbCmd) .none

theorem Kept.wrCrust {o w} (h : Kept s₀ s) : KeptOpt s₀ (s.wrCrust o w) :=
  .ite (.some <| .ite h.rdreq h.plainKeep) (.of_map h.wportWord)

theorem Kept.wrPinown {who o w} (h : Kept s₀ s) : KeptOpt s₀ (s.wrPinown who o w) := by
  unfold State.wrPinown
  split
  · exact .ite (.some h.conflict.busErr) .none
  · exact .of_map (h.ownedWrite .gpioSet)

theorem Kept.wrBlock {who a w} (h : Kept s₀ s) : KeptOpt s₀ (s.wrBlock who a w) := by
  unfold State.wrBlock
  extract_lets
  split
  · exact h.wrSysctl
  · exact h.wrEvt
  · exact h.wrDma
  · exact h.wrRake
  · exact h.wrRing
  · exact .ite (.some h.isotpCfg) .none
  · exact .ite (.some h.ethCfg) <| .ite (.some h.mdioWrite) .none
  · exact .ite (.some h.ethCfg) .none
  · exact h.wrTime
  · split
    · exact .some h.tideCfg
    · split
      · exact .some h.scfIdWrite
      · exact .of_map h.tideCmd
  · exact .ite (.some ((h.when .rtWrite).when .rtRead)) <| .ite (.some h.slOwnWrite) (.of_map h.slOwnWrite)
  · exact h.wrHss
  · exact h.wrSol
  · exact h.wrDio
  · exact h.wrLed
  · exact h.wrAcc
  · exact h.wrEncl
  · exact h.wrCrust
  · exact .ite (.some h.updUnfit) .none
  · exact .ite (.some h.usbCtrl) .none
  · exact .ite .none (.some h.busErr)
  · exact h.wrPinown
  · exact .none

theorem Kept.regWrite {who a w} (h : Kept s₀ s) : Kept s₀ (s.regWrite who a w) := by
  unfold State.regWrite
  refine .ite h.busErr <| .ite h.canReg.wrRes <| .ite h ?_
  split
  · exact h.busErr
  · exact h.wrBlock.getD h.plainWrite

theorem Kept.regRead {who a} (h : Kept s₀ s) : Kept s₀ (s.regRead who a).1 := by
  unfold State.regRead
  extract_lets
  refine .ite_fst h <| .ite_fst h.critRead ?_
  split
  · exact h
  · extract_lets _ s1
    have h1 : Kept s₀ s1 := .ite h.setReg h
    split
    · exact h.evtAck
    · exact .ite h1.nowLatch h1

theorem Kept.regReads {n a} (h : Kept s₀ s) : Kept s₀ (s.regReads n a).1 := by
  induction n generalizing a s with
  | zero => exact h
  | succ n ih =>
    unfold State.regReads
    exact ih h.regRead

theorem KeptBody.regRead : KeptBody bodyRegRead := .fixedLen ⟨fun h => .ite h.badParam <| .ite h.badParam h.regReads.ok⟩

theorem KeptBody.regWrite : KeptBody bodyRegWrite := by
  unfold bodyRegWrite
  refine .fixedLen ⟨fun h => ?_⟩
  extract_lets
  refine .ite h.badParam ?_
  split
  next heq =>
    have h1 := h.regRead.fst heq
    extract_lets
    split
    · exact h1.cmdConflict
    · exact h1.regWrite.regRead.ok

theorem Kept.busRead {who a n} (h : Kept s₀ s) : Kept s₀ (s.busRead who a n).1 := by
  unfold State.busRead
  refine .ite_fst (.ite_fst h ?_) h.memRead
  split
  next heq => exact h.regRead.fst heq
  next heq => exact h.regRead.fst heq

theorem Kept.busWrite {who a n v} (h : Kept s₀ s) : Kept s₀ (s.busWrite who a n v) := by
  unfold State.busWrite
  split
  · exact .ite h.busErr h.regWrite
  · exact .ite h.canRamWrite.wrRes h.busErr
  · exact h.memWrite.getD h.busErr

/-! The functions of `Machine/DmaRun.lean`. -/

theorem Kept.regBeatRead {n k a} (h : Kept s₀ s) : Kept s₀ (s.regBeatRead n k a).1 := by
  induction k generalizing a s with
  | zero => exact h
  | succ k ih =>
    unfold State.regBeatRead
    split
    next heq => exact h.regRead.fst heq
    next hw =>
      have h1 := h.regRead.fst hw
      split
      next heq => exact (ih h1).fst heq
      · exact ih h1

theorem Kept.beatRead {n va len} (h : Kept s₀ s) : Kept s₀ (s.beatRead n va len).1 := by
  unfold State.beatRead
  extract_lets
  split
  next heq => exact h.ioTranslate.fst heq
  next heq =>
    have h1 := h.ioTranslate.fst heq
    refine .ite_fst h1 <| .ite_fst (.ite_fst h1 ?_) ?_
    · split
      next heq => exact h1.regBeatRead.fst heq
      next heq => exact h1.regBeatRead.fst heq
    · split
      next heq => exact h1.ioReadMem.fst heq
      next heq => exact h1.ioReadMem.fst heq
      next heq => exact h1.ioReadMem.fst heq
      next heq => exact h1.ioReadMem.fst heq

theorem Kept.ioAddrs {ctx n k va} (h : Kept s₀ s) : Kept s₀ (s.ioAddrs ctx n k va).1 := by
  induction k generalizing va s with
  | zero => exact h
  | succ k ih =>
    unfold State.ioAddrs
    split
    next heq => exact h.ioTranslate.fst heq
    next hpa =>
      have h1 := h.ioTranslate.fst hpa
      split
      next heq => exact (ih h1).fst heq
      · exact ih h1

theorem Kept.of_mem_beatActs {n pas bs f} (hf : f ∈ beatActs n pas bs) (h : Kept s₀ s) : Kept s₀ (f s) := by
  unfold beatActs at hf
  extract_lets pa at hf
  split at hf
  · split at hf
    · cases List.mem_singleton.1 hf
      exact h.busErr
    · split at hf
      · cases List.mem_singleton.1 hf
        exact .ite h.canFifo.wrRes h.busErr
      · obtain ⟨i, _, rfl⟩ := List.mem_map.1 hf
        exact h.regWrite
  · obtain ⟨q, _, rfl⟩ := List.mem_map.1 hf
    exact h.busWrite

theorem Kept.foldl_acts {l : List (State → State)} (hl : ∀ f ∈ l, ∀ {s}, Kept s₀ s → Kept s₀ (f s)) (h : Kept s₀ s) :
    Kept s₀ (l.foldl (fun s f => f s) s) := by
  induction l generalizing s with
  | nil => exact h
  | cons f l ih => exact ih (fun g hg => hl g (List.mem_cons_of_mem _ hg)) (hl f List.mem_cons_self h)

theorem Kept.beatPut {n pas bs} (h : Kept s₀ s) : Kept s₀ (s.beatPut n pas bs).1 := by
  unfold State.beatPut
  extract_lets _ s0 acts
  have h0 : Kept s₀ s0 := h.frame
  refine .ite_fst ?_ (.foldl_acts (fun _ hf _ => .of_mem_beatActs hf) h0)
  split
  next heq => exact h0.of_mem_beatActs (List.mem_of_find?_eq_some heq)
  · exact h0

theorem Kept.beatWrite {n va bs} (h : Kept s₀ s) : Kept s₀ (s.beatWrite n va bs).1 := by
  unfold State.beatWrite
  extract_lets
  split
  next heq => exact h.ioAddrs.fst heq
  next heq =>
    have h1 := h.ioAddrs.fst heq
    extract_lets
    refine .ite_fst h1 ?_
    split
    · split
      · refine .ite_fst h1 ?_
        split
        next heq => exact (h1.beatPut.fst heq).frame
        next heq => exact h1.beatPut.fst heq
    · split
      next heq => exact h1.beatPut.fst heq
      next heq => exact h1.beatPut.fst heq

theorem Kept.beatFault {n r src} (h : Kept s₀ s) : Kept s₀ (s.beatFault n r src) := by
  unfold State.beatFault
  split
  · exact h
  · exact h.dmaPause
  · exact h.dmaError
  · exact h.dmaEcc
  · exact .ite h.dmaError h.modRec.dmaWait.modDch

theorem Kept.dmaBeat {n} (h : Kept s₀ s) : Kept s₀ (s.dmaBeat n) := by
  unfold State.dmaBeat
  extract_lets _ _ _ _ _ rd
  have hrd : Kept s₀ rd.1 := by
    refine .ite_fst h ?_
    split
    next heq =>
      have h2 {g} := (h.beatRead.fst heq).modRec (n := n) (f := g)
      split
      · exact h2.frame.modDch
      · exact h2
  clear_value rd
  split
  · split
    next heq =>
      have h3 {g} := (hrd.beatWrite.fst heq).modRec (n := n) (f := g)
      split
      · exact h3.modRec.modDch
      · exact h3.beatFault
  · exact hrd.beatFault

theorem Kept.dmaServe (h : Kept s₀ s) : Kept s₀ s.dmaServe := by
  unfold State.dmaServe
  refine .ite h ?_
  split
  · exact h
  · extract_lets s1 s2
    have h1 : Kept s₀ s1 := by
      unfold s1
      split
      · exact .ite h.dmaWait h
      · exact h
    have h2 : Kept s₀ s2 := .ite h1.dmaReplay h1
    exact .ite h2.frame.dmaBeat h2

theorem Kept.dmaComplete {n} (h : Kept s₀ s) : Kept s₀ (s.dmaComplete n) := by
  unfold State.dmaComplete
  extract_lets _ _ _ _ _ s3
  have h3 : Kept s₀ s3 := h.modRec.dmaYield.modDch.setF
  exact .ite h <| .ite h3.openBurst <| .ite h3.setF.fetchDesc (h3.setF.setFlag.when .raise)

theorem Kept.dmaFaulted {n f} (h : Kept s₀ s) : Kept s₀ (s.dmaFaulted n f) := by
  unfold State.dmaFaulted
  extract_lets
  refine .ite h ?_
  split
  · exact h.eccRecord.dmaEcc
  · exact h.dmaError
  · exact .ite h.beatFault h.beatFault
  · exact h.dmaError

/-! The functions of `Machine/EnclCmd.lean`. -/

theorem KeptBody.attest : KeptBody bodyAttest := .fixedLen ⟨fun h => h.useFree.ok⟩

theorem KeptBody.keyLoad : KeptBody bodyKeyLoad :=
  ⟨fun h => .ite h.badParam <| .ite h.badParam (have hr := h.loadKey; .ite hr.failed (.ok (.ite hr hr.frame)))⟩

theorem KeptBody.debugChallenge : KeptBody bodyDebugChallenge :=
  .fixedLen ⟨fun h => .ite h.useFree.wrongState <| .ite h.failed h.frame.useFree.ok⟩

theorem Kept.dropEngineKeys (h : Kept s₀ s) : Kept s₀ s.dropEngineKeys :=
  have h1 := h.forBelow (fun h => .ite h.modCan.setF.setF h)
  .ite h1.accCtrl.setF.modAcc h1

theorem Kept.debugUnlock {scope} (h : Kept s₀ s) : Kept s₀ (s.debugUnlock scope) :=
  .ite h (h.forBelow (fun h => .ite h.dropSlot h)).dropEngineKeys.setF.setF.raise

theorem KeptBody.debugUnlock : KeptBody bodyDebugUnlock := by
  unfold bodyDebugUnlock
  refine .fixedLen ⟨fun {_ s₀ _} h => ?_⟩
  extract_lets _ _ _ _ s1
  have h1 : Kept s₀ s1 := .ite h.frame h
  exact .ite h.badParam <| .ite h.badParam <| .ite h.badParam <| .ite h1.debugUnlock.ok h1.frame.raise.finish

theorem Kept.tamper {cause} (h : Kept s₀ s) : Kept s₀ (s.tamper cause) := by
  unfold State.tamper
  extract_lets _ _ _ _ _ s1 _ s2
  have h1 : Kept s₀ s1 := h.frame
  have h2 : Kept s₀ s2 := by
    unfold s2
    split
    · exact h1.frame.setF
    · exact h1
  exact h2.setReg.setReg.setFbit.raise.reqReset

/-! The functions of `Machine/Boot.lean`. -/

theorem Kept.rstHistory {clear} (h : Kept s₀ s) : Kept s₀ (s.rstHistory clear) := h.modPwr.setF.setFlag.levelEdge

theorem Kept.resetL2 (h : Kept s₀ s) : Kept s₀ s.resetL2 :=
  ((h.dmaL2.panSilent.panSilent.setRegs regsWf_regsKept).frame.setF.foldl .setReg).updBusy.usbAttach

theorem Kept.rstUnpark {lv} (h : Kept s₀ s) : Kept s₀ (s.rstUnpark lv) := by
  unfold State.rstUnpark
  split
  · exact h
  · exact .ite h.parkAbort h
  · exact .ite h.parkAbort h
  · exact .ite h.parkAbort h
  · exact h.railStart

theorem Kept.rstRails {srcs} (h : Kept s₀ s) : Kept s₀ (s.rstRails srcs) := .ite h.railStart <| .ite h.railStart h

theorem Kept.rstSevereTake {srcs level} (h : Kept s₀ s) : Kept s₀ (s.rstSevereTake srcs level) := by
  unfold State.rstSevereTake
  extract_lets _ _ _ _ _ s2 s3
  have h2 : Kept s₀ s2 := .setF (.setF (.rstUnpark (.rstHistory (.ite h.setF h))))
  have h3 : Kept s₀ s3 := h2.resetL1
  exact .ite h2.resetL2.rstRails.modPwr (.modPwr (.rstRails (.ite h3.setF h3)))

theorem Kept.rstTake (h : Kept s₀ s) : Kept s₀ s.rstTake :=
  .ite h (have h1 := h.foldl .setFbit; .ite h1.frame.rstSevereTake <| .ite h1.frame (h1.frame.setF.setF.foldl .l3Begin))

theorem Kept.optIlk (h : Kept s₀ s) : Kept s₀ s.optIlk := (h.forBelow .setFlag).forBelow .setFlag
theorem Kept.optMac (h : Kept s₀ s) : Kept s₀ s.optMac := h.forBelow (fun h => h.setF.setF)

theorem Kept.optLoad (h : Kept s₀ s) : Kept s₀ (s.optLoad).1 := by
  unfold State.optLoad
  extract_lets
  split
  · exact .ite_fst h.setRegBytes.setF.setF.setF.optIlk h.setRegBytes.setF.setF.setF.optIlk
  · exact h.setRegBytes.setF.setF.setF.optIlk
  · exact h.setRegBytes.setF.setF.setF.optIlk
  · exact h.setRegBytes.setF.setF.setF.optIlk

theorem Kept.enclRoot (h : Kept s₀ s) : Kept s₀ s.enclRoot := h.frame

theorem Kept.enclMeasure {base} (h : Kept s₀ s) : Kept s₀ (s.enclMeasure base) :=
  h.extend.extend.extend.extend.extend.extend.extend.setF.setF.setF.frame.useFree.frame

theorem Kept.loadSetting {x} (h : Kept s₀ s) : Kept s₀ (s.loadSetting x) :=
  have h1 := h.regWrite
  .ite h1 h1.logKind

theorem Kept.loadSlots (h : Kept s₀ s) : Kept s₀ s.loadSlots := by
  unfold State.loadSlots
  refine h.forBelow (fun h => ?_)
  split
  · exact h.loadKey
  · exact h

theorem Kept.loadSettings {sel} (h : Kept s₀ s) : Kept s₀ (s.loadSettings sel) :=
  h.foldl (fun g => g.foldl .loadSetting)

theorem Kept.loadNet (h : Kept s₀ s) : Kept s₀ s.loadNet := h.frame
theorem Kept.enableDefault {a} (h : Kept s₀ s) : Kept s₀ (s.enableDefault a) := .ite h h.regWrite
theorem Kept.silDefault {b} (h : Kept s₀ s) : Kept s₀ (s.silDefault b) := .ite h <| .ite h.setF h.setF.setF

theorem Kept.panRestore {p flash} (h : Kept s₀ s) : Kept s₀ (s.panRestore p flash) := by
  unfold State.panRestore
  extract_lets _ s1 _ t s2 _ s3
  have h1 : Kept s₀ s1 := .ite h.progCopy h
  have ht : Kept s₀ t := h1.modPan
  have h2 : Kept s₀ s2 := by
    unfold s2
    refine .ite h1.mapRegs <| .ite ht.mapRegs ?_
    split
    · exact ht.mapInstall
    · exact ht.conflict.logKind
    · exact ht.logKind
  have h3 : Kept s₀ s3 := h2.frame
  exact .ite h3.setMode.panRelease h3.setMode

theorem Kept.panAuto (h : Kept s₀ s) : Kept s₀ s.panAuto := .ite h h.autoStart.autoStart

theorem Kept.epoch (h : Kept s₀ s) : Kept s₀ s.epoch :=
  h.crustQueue.crustQueue.forBelow (fun g => g.forBelow (fun h => h.setF.setF))

theorem Kept.bankStart {fallback} (h : Kept s₀ s) : Kept s₀ (s.bankStart fallback) := by
  unfold State.bankStart
  extract_lets s1
  have h1 : Kept s₀ s1 := by
    unfold s1
    split
    · exact h
    · extract_lets _ t t1
      have ht : Kept s₀ t := .ite h.markBank h
      have ht1 : Kept s₀ t1 := .ite ht.confirmRest ht
      exact .ite ht1.setF.frame.raise ht1.frame
  exact .ite h1.raise h1

theorem Kept.setVersions (h : Kept s₀ s) : Kept s₀ s.setVersions := h.frame

theorem Kept.wakeChannels (h : Kept s₀ s) : Kept s₀ s.wakeChannels := by
  unfold State.wakeChannels
  refine h.forBelow (fun h => ?_)
  split
  · exact h.tideWake.modTide
  · exact h

theorem Kept.islRelease (h : Kept s₀ s) : Kept s₀ s.islRelease := h.frame
theorem Kept.coreStart (h : Kept s₀ s) : Kept s₀ s.coreStart := h.islRelease.modPwr.coreRelease.setF

theorem Kept.stewLoad {optBad} (h : Kept s₀ s) : Kept s₀ (s.stewLoad optBad) := by
  unfold State.stewLoad
  exact ((((h.optMac.loadSlots.loadSettings.loadNet.foldl .enableDefault).forBelow
    .silDefault).panRestore.panRestore.panAuto.frame.accGate.when .raise).when .logKind).wakeChannels.modPwr.when .raise

theorem Kept.stewStart {optBad fallback} (h : Kept s₀ s) : Kept s₀ (s.stewStart optBad fallback) := by
  unfold State.stewStart
  extract_lets _ s1
  have h1 : Kept s₀ s1 := h.setVersions.bankStart.modCrust.epoch
  split
  · exact h1.updUnfit.modPwr
  · exact h1.stewLoad

theorem Kept.stewRestart (h : Kept s₀ s) : Kept s₀ s.stewRestart :=
  have h1 := (h.coreStart.optMac.loadSettings.loadNet.foldl .enableDefault).forBelow .silDefault
  .wakeChannels (.panAuto (.panRestore (.panRestore (.ite h1.hsRole.modHs h1))))

theorem Kept.clocksUp (h : Kept s₀ s) : Kept s₀ s.clocksUp := h.setF.setF.setF.setF.setF.setF.setFlag.frame.nowLatch
theorem Kept.strapSample {straps} (h : Kept s₀ s) : Kept s₀ (s.strapSample straps) := h.setReg

theorem Kept.loaderStart {mode} (h : Kept s₀ s) : Kept s₀ (s.loaderStart mode) :=
  have h2 := h.setF.modUpd.coreStart.usbCtrl
  .ite h2.frame.ringAddr.ringCtrl h2.frame

theorem Kept.bootRun {fresh} (h : Kept s₀ s) : Kept s₀ (s.bootRun fresh) := by
  unfold State.bootRun
  split
  next heq =>
    extract_lets s2
    have h2 : Kept s₀ s2 := (h.clocksUp.optLoad.fst heq).enclRoot
    refine .ite h2.loaderStart <| .ite h2.loaderStart ?_
    split
    next heq => exact (h2.bootChoose.fst heq).setF.setF.setF.enclMeasure.coreStart.stewStart
    next heq => exact (h2.bootChoose.fst heq).loaderStart

theorem Answers.stewardRelease {straps} (h : Kept s₀ s) : Answers s₀ (execStewardRelease straps s) := by
  unfold execStewardRelease
  extract_lets s1
  have h1 : Kept s₀ s1 := h.strapSample
  refine .next <| .ite h ?_
  split
  · exact h
  · exact h.stewRestart
  · exact .ite h1 h1.bootRun
  · exact h.bootRun

theorem Kept.l3Release {i} (h : Kept s₀ s) : Kept s₀ (s.l3Release i) := h.frame

theorem Answers.l3ResetEnd {i} (h : Kept s₀ s) : Answers s₀ (execL3ResetEnd i s) :=
  .next <| .ite h (have h1 := h.modPwr.l3Release; .when (.ite h1 (.loadSettings (.ite h1.optMac h1))) .wakeChannels)

theorem Kept.loaderGo (h : Kept s₀ s) : Kept s₀ s.loaderGo := by
  unfold State.loaderGo
  exact h.enclMeasure.modUpd.setCore.stewStart

theorem Answers.stageApplyDone (h : Kept s₀ s) : Answers s₀ (execStageApplyDone s) := by
  unfold execStageApplyDone
  refine .next ?_
  split
  · exact h
  · exact .ite (h.loaderEnd .loaderGo) <| .ite h.modUpd.failStopped h.stageApply

theorem Kept.scrub (h : Kept s₀ s) : Kept s₀ s.scrub := h.foldl (fun h => .ite h.eccCorrect h.eccRecord.raise)

end Sys2Proof.Machine
end

