-- ==== Sys2Proof/Proofs/KeptCores.lean ====
section
/-! PROOF. The FK-32 cores, the debug port and the transports keep it. -/
namespace Sys2Proof.Machine

variable {s₀ s t : State}

/-! The functions of `Machine/FkBase.lean`. -/

theorem Kept.panHalt {c} (h : Kept s₀ s) : Kept s₀ (s.panHalt c) := by
  unfold State.panHalt
  split
  · exact .ite h.setF.hsLeaves h
  · exact h

theorem Kept.dbgHalt {c cause idx} (h : Kept s₀ s) : Kept s₀ (s.dbgHalt c cause idx) :=
  h.setCore.setF.setF.setF.setFbit.frame.panHalt.raise

theorem Kept.fetch {c} (h : Kept s₀ s) : Kept s₀ (s.fetch c).1 := by
  unfold State.fetch
  extract_lets
  refine .ite_fst h ?_
  split
  next heq => exact h.translate.fst heq
  next heq =>
    have h1 := h.translate.fst heq
    split
    next heq => exact h1.memRead.fst heq
    next heq => exact (h1.memRead.fst heq).spend.useFree
    next heq => exact (h1.memRead.fst heq).spend.useFree

theorem Kept.issueOne {c e} (h : Kept s₀ s) : Kept s₀ (s.issueOne c e) := .ite h h.spend

theorem Kept.fkExc {c e} (h : Kept s₀ s) : Kept s₀ (s.fkExc c e) := by
  unfold State.fkExc
  extract_lets s1
  have h1 : Kept s₀ s1 := h.syncExc
  split
  · exact .ite h1.panFatal h1
  · exact h1

theorem Kept.fkRetire {c abn pc cyc acc} (h : Kept s₀ s) : Kept s₀ (s.fkRetire c abn pc cyc acc) := by
  unfold State.fkRetire
  extract_lets _ _ _ s2
  have h2 : Kept s₀ s2 := h.setCore.frame
  split
  · exact h2.dbgHalt
  · exact h2

theorem Kept.fkRetireIn {s1 c abn pc cyc acc} (h : Kept s₀ s) (h1 : Kept s₀ s1) :
    Kept s₀ (s.fkRetireIn s1 c abn pc cyc acc) := by
  unfold State.fkRetireIn
  extract_lets
  split
  · exact .ite h1.fkRetire.useFree.lsMismatch h.useFree.lsMismatch
  · exact h1.fkRetire

theorem Kept.fkEffect {c body} (h : Kept s₀ s) (hbody : ∀ {s}, Kept s₀ s → KeptRes s₀ (body s)) :
    Kept s₀ (s.fkEffect c body) := by
  unfold State.fkEffect
  have hr := hbody h
  generalize body s = r at hr
  cases hr with
  | done h1 => exact h.fkRetireIn h1
  | exc h1 => exact .fkExc (.ite h1.frame.issueOne h1.frame)
  | ret h1 => exact h.fkRetireIn h1
  | brk h1 => exact h1.dbgHalt

theorem Kept.fkFetch {c body} (h : Kept s₀ s) (hbody : ∀ {x0 s}, Kept s₀ s → KeptRes s₀ (body x0 s)) :
    Kept s₀ (s.fkFetch c body) := by
  unfold State.fkFetch
  split
  next heq => exact (h.fetch.fst heq).fkExc
  next heq => exact (h.fetch.fst heq).fkEffect (fun h => hbody h)

theorem Kept.fkRun {c body} (h : Kept s₀ s) (hbody : ∀ {s}, Kept s₀ s → KeptRes s₀ (body s)) :
    Kept s₀ (s.fkRun c body) := by
  unfold State.fkRun
  extract_lets s1
  have h1 : Kept s₀ s1 := h.begins
  refine .ite h ?_
  split
  · exact h1.dbgHalt
  · exact h1.fkFetch (fun h => hbody h)

theorem KeptRes.pure {c cyc f} (h : Kept s₀ s) : KeptRes s₀ (fkPure c cyc f s) := .done h.setCore

/-! The functions of `Machine/FkInt.lean`. -/

theorem KeptRes.alu {c cyc op rd ra rb} (h : Kept s₀ s) : KeptRes s₀ (fkAlu c cyc op rd ra rb s) := .pure h
theorem KeptRes.aluI {c cyc op rd ra b} (h : Kept s₀ s) : KeptRes s₀ (fkAluI c cyc op rd ra b s) := .pure h
theorem KeptRes.div {c f rd ra rb} (h : Kept s₀ s) : KeptRes s₀ (fkDiv c f rd ra rb s) := .ite (.exc h) (.alu h)
theorem KeptRes.add {c rd ra rb} (h : Kept s₀ s) : KeptRes s₀ (fkAdd c rd ra rb s) := .alu h
theorem KeptRes.adc {c rd ra rb} (h : Kept s₀ s) : KeptRes s₀ (fkAdc c rd ra rb s) := .alu h
theorem KeptRes.sub {c rd ra rb} (h : Kept s₀ s) : KeptRes s₀ (fkSub c rd ra rb s) := .alu h
theorem KeptRes.sbc {c rd ra rb} (h : Kept s₀ s) : KeptRes s₀ (fkSbc c rd ra rb s) := .alu h
theorem KeptRes.and {c rd ra rb} (h : Kept s₀ s) : KeptRes s₀ (fkAnd c rd ra rb s) := .alu h
theorem KeptRes.or {c rd ra rb} (h : Kept s₀ s) : KeptRes s₀ (fkOr c rd ra rb s) := .alu h
theorem KeptRes.xor {c rd ra rb} (h : Kept s₀ s) : KeptRes s₀ (fkXor c rd ra rb s) := .alu h
theorem KeptRes.andn {c rd ra rb} (h : Kept s₀ s) : KeptRes s₀ (fkAndn c rd ra rb s) := .alu h
theorem KeptRes.shl {c rd ra rb} (h : Kept s₀ s) : KeptRes s₀ (fkShl c rd ra rb s) := .alu h
theorem KeptRes.shr {c rd ra rb} (h : Kept s₀ s) : KeptRes s₀ (fkShr c rd ra rb s) := .alu h
theorem KeptRes.sar {c rd ra rb} (h : Kept s₀ s) : KeptRes s₀ (fkSar c rd ra rb s) := .alu h
theorem KeptRes.ror {c rd ra rb} (h : Kept s₀ s) : KeptRes s₀ (fkRor c rd ra rb s) := .alu h
theorem KeptRes.shli {c rd ra n} (h : Kept s₀ s) : KeptRes s₀ (fkShli c rd ra n s) := .aluI h
theorem KeptRes.shri {c rd ra n} (h : Kept s₀ s) : KeptRes s₀ (fkShri c rd ra n s) := .aluI h
theorem KeptRes.sari {c rd ra n} (h : Kept s₀ s) : KeptRes s₀ (fkSari c rd ra n s) := .aluI h
theorem KeptRes.cmp {c ra rb} (h : Kept s₀ s) : KeptRes s₀ (fkCmp c ra rb s) := .alu h
theorem KeptRes.mul {c rd ra rb} (h : Kept s₀ s) : KeptRes s₀ (fkMul c rd ra rb s) := .alu h
theorem KeptRes.mulhu {c rd ra rb} (h : Kept s₀ s) : KeptRes s₀ (fkMulhu c rd ra rb s) := .alu h
theorem KeptRes.mulhs {c rd ra rb} (h : Kept s₀ s) : KeptRes s₀ (fkMulhs c rd ra rb s) := .alu h
theorem KeptRes.divu {c rd ra rb} (h : Kept s₀ s) : KeptRes s₀ (fkDivu c rd ra rb s) := .div h
theorem KeptRes.divs {c rd ra rb} (h : Kept s₀ s) : KeptRes s₀ (fkDivs c rd ra rb s) := .div h
theorem KeptRes.remu {c rd ra rb} (h : Kept s₀ s) : KeptRes s₀ (fkRemu c rd ra rb s) := .div h
theorem KeptRes.rems {c rd ra rb} (h : Kept s₀ s) : KeptRes s₀ (fkRems c rd ra rb s) := .div h
theorem KeptRes.min {c rd ra rb} (h : Kept s₀ s) : KeptRes s₀ (fkMin c rd ra rb s) := .alu h
theorem KeptRes.max {c rd ra rb} (h : Kept s₀ s) : KeptRes s₀ (fkMax c rd ra rb s) := .alu h
theorem KeptRes.clz {c rd ra} (h : Kept s₀ s) : KeptRes s₀ (fkClz c rd ra s) := .aluI h
theorem KeptRes.dadd {c rd ra rb} (h : Kept s₀ s) : KeptRes s₀ (fkDadd c rd ra rb s) := .alu h
theorem KeptRes.daddc {c rd ra rb} (h : Kept s₀ s) : KeptRes s₀ (fkDaddc c rd ra rb s) := .alu h
theorem KeptRes.dsub {c rd ra rb} (h : Kept s₀ s) : KeptRes s₀ (fkDsub c rd ra rb s) := .alu h
theorem KeptRes.dsubc {c rd ra rb} (h : Kept s₀ s) : KeptRes s₀ (fkDsubc c rd ra rb s) := .alu h
theorem KeptRes.dcmp {c ra rb} (h : Kept s₀ s) : KeptRes s₀ (fkDcmp c ra rb s) := .alu h
theorem KeptRes.dadj {c rd ra} (h : Kept s₀ s) : KeptRes s₀ (fkDadj c rd ra s) := .aluI h
theorem KeptRes.dshl {c rd ra n} (h : Kept s₀ s) : KeptRes s₀ (fkDshl c rd ra n s) := .aluI h
theorem KeptRes.dshr {c rd ra n} (h : Kept s₀ s) : KeptRes s₀ (fkDshr c rd ra n s) := .aluI h
theorem KeptRes.d2b {c rd ra} (h : Kept s₀ s) : KeptRes s₀ (fkD2b c rd ra s) := .aluI h
theorem KeptRes.b2d {c rd ra} (h : Kept s₀ s) : KeptRes s₀ (fkB2d c rd ra s) := .aluI h
theorem KeptRes.addi {c rd ra i} (h : Kept s₀ s) : KeptRes s₀ (fkAddi c rd ra i s) := .aluI h
theorem KeptRes.andi {c rd ra i} (h : Kept s₀ s) : KeptRes s₀ (fkAndi c rd ra i s) := .aluI h
theorem KeptRes.ori {c rd ra i} (h : Kept s₀ s) : KeptRes s₀ (fkOri c rd ra i s) := .aluI h
theorem KeptRes.xori {c rd ra i} (h : Kept s₀ s) : KeptRes s₀ (fkXori c rd ra i s) := .aluI h
theorem KeptRes.movh {c rd i} (h : Kept s₀ s) : KeptRes s₀ (fkMovh c rd i s) := .aluI h
theorem KeptRes.cmpi {c ra i} (h : Kept s₀ s) : KeptRes s₀ (fkCmpi c ra i s) := .aluI h
theorem KeptRes.jump {c ra link} (h : Kept s₀ s) : KeptRes s₀ (fkJump c ra link s) := .ite (.exc h) (.done h.setCore)
theorem KeptRes.jr {c ra} (h : Kept s₀ s) : KeptRes s₀ (fkJr c ra s) := .jump h
theorem KeptRes.jalr {c rd ra} (h : Kept s₀ s) : KeptRes s₀ (fkJalr c rd ra s) := .jump h
theorem KeptRes.branch {c taken link off} (h : Kept s₀ s) : KeptRes s₀ (fkBranch c taken link off s) := .done h.setCore
theorem KeptRes.b {c off} (h : Kept s₀ s) : KeptRes s₀ (fkB c off s) := .branch h
theorem KeptRes.bl {c off} (h : Kept s₀ s) : KeptRes s₀ (fkBl c off s) := .branch h
theorem KeptRes.bcc {c cond off} (h : Kept s₀ s) : KeptRes s₀ (fkBcc c cond off s) := .branch h

/-! The functions of `Machine/FkMem.lean`. -/

theorem Kept.accCyc {c pa} (h : Kept s₀ s) : Kept s₀ (s.accCyc c pa).1 := by
  unfold State.accCyc
  split
  · exact h
  · exact .ite_fst h h.useFree
  · exact .ite_fst h h.useFree
  · exact h.useFree

theorem Kept.accSpend {c pa} (h : Kept s₀ s) : Kept s₀ (s.accSpend c pa) := h.accCyc.spend

theorem KeptRes.load {c n ext rd ra i} (h : Kept s₀ s) : KeptRes s₀ (fkLoad c n ext rd ra i s) := by
  unfold fkLoad
  extract_lets
  refine .ite (.exc h) ?_
  split
  next heq => exact .exc (h.translate.fst heq)
  next heq =>
    have h1 := h.translate.fst heq
    split
    next heq => exact .exc (h1.busRead.fst heq).accSpend
    next heq => exact .exc (h1.busRead.fst heq).accSpend
    next heq => exact .done (h1.busRead.fst heq).accCyc.setCore

theorem KeptRes.store {c n rd ra i} (h : Kept s₀ s) : KeptRes s₀ (fkStore c n rd ra i s) := by
  unfold fkStore
  extract_lets
  refine .ite (.exc h) ?_
  split
  next heq => exact .exc (h.translate.fst heq)
  next heq =>
    have h1 := h.translate.fst heq
    extract_lets s1
    have h1 : Kept s₀ s1 := by
      unfold s1
      split
      · exact h1.critRead
      · exact h1
    exact .done h1.busWrite

theorem KeptRes.ldw {c rd ra i} (h : Kept s₀ s) : KeptRes s₀ (fkLdw c rd ra i s) := .load h
theorem KeptRes.ldh {c rd ra i} (h : Kept s₀ s) : KeptRes s₀ (fkLdh c rd ra i s) := .load h
theorem KeptRes.ldhs {c rd ra i} (h : Kept s₀ s) : KeptRes s₀ (fkLdhs c rd ra i s) := .load h
theorem KeptRes.ldb {c rd ra i} (h : Kept s₀ s) : KeptRes s₀ (fkLdb c rd ra i s) := .load h
theorem KeptRes.ldbs {c rd ra i} (h : Kept s₀ s) : KeptRes s₀ (fkLdbs c rd ra i s) := .load h
theorem KeptRes.stw {c rd ra i} (h : Kept s₀ s) : KeptRes s₀ (fkStw c rd ra i s) := .store h
theorem KeptRes.sth {c rd ra i} (h : Kept s₀ s) : KeptRes s₀ (fkSth c rd ra i s) := .store h
theorem KeptRes.stb {c rd ra i} (h : Kept s₀ s) : KeptRes s₀ (fkStb c rd ra i s) := .store h
theorem Kept.imgPut {p a b} (h : Kept s₀ s) : Kept s₀ (s.imgPut p a b) := h.memWrite.getD h

theorem KeptRes.imgRead {p a f} (h : Kept s₀ s) (hf : ∀ {s x1 x2}, Kept s₀ s → KeptRes s₀ (f s x1 x2)) :
    KeptRes s₀ (imgRead p a s f) := by
  unfold Machine.imgRead
  split
  next heq => exact hf (h.memRead.fst heq)
  next heq => exact .exc (h.memRead.fst heq)
  next heq => exact .exc (h.memRead.fst heq)

theorem KeptRes.pan {c f} (h : Kept s₀ s) (hf : ∀ {x0 s}, Kept s₀ s → KeptRes s₀ (f x0 s)) :
    KeptRes s₀ (fkPan c f s) := by
  unfold fkPan
  split
  · exact hf h
  · exact .exc h

theorem KeptRes.setBa {c b cyc acc} (h : Kept s₀ s) : KeptRes s₀ (fkSetBa c b cyc acc s) := .done h.setCore
theorem KeptRes.img {c f addr} (h : Kept s₀ s) : KeptRes s₀ (fkImg c f addr s) := .pan h (fun g => .imgRead g .setBa)

theorem KeptRes.imgWr {c addr f} (h : Kept s₀ s) (hf : ∀ {x0 s}, Kept s₀ s → KeptRes s₀ (f x0 s)) :
    KeptRes s₀ (fkImgWr c addr f s) :=
  .pan h (fun h => .ite (.exc h) (hf h))

theorem KeptRes.imgSt {c go v addr} (h : Kept s₀ s) : KeptRes s₀ (fkImgSt c go v addr s) :=
  .imgWr h (fun g => .ite (.imgRead g (fun h => .done h.imgPut)) (.done g))

theorem KeptRes.imgEdge {c f addr} (h : Kept s₀ s) : KeptRes s₀ (fkImgEdge c f addr s) :=
  .pan h (fun g => .ite (.exc g) (.imgRead g (fun g => .imgRead g .setBa)))

theorem KeptRes.imgMem {c f addr} (h : Kept s₀ s) : KeptRes s₀ (fkImgMem c f addr s) :=
  .imgWr h (fun g => .imgRead g (fun h => .setBa h.imgPut))

theorem KeptRes.ld {c a} (h : Kept s₀ s) : KeptRes s₀ (fkLd c a s) := .img h
theorem KeptRes.ldn {c a} (h : Kept s₀ s) : KeptRes s₀ (fkLdn c a s) := .img h
theorem KeptRes.imgAnd {c a} (h : Kept s₀ s) : KeptRes s₀ (fkImgAnd c a s) := .img h
theorem KeptRes.imgAndn {c a} (h : Kept s₀ s) : KeptRes s₀ (fkImgAndn c a s) := .img h
theorem KeptRes.imgOr {c a} (h : Kept s₀ s) : KeptRes s₀ (fkImgOr c a s) := .img h
theorem KeptRes.orn {c a} (h : Kept s₀ s) : KeptRes s₀ (fkOrn c a s) := .img h
theorem KeptRes.imgXor {c a} (h : Kept s₀ s) : KeptRes s₀ (fkImgXor c a s) := .img h
theorem KeptRes.st {c a} (h : Kept s₀ s) : KeptRes s₀ (fkSt c a s) := .imgSt h
theorem KeptRes.set {c a} (h : Kept s₀ s) : KeptRes s₀ (fkSet c a s) := .imgSt h
theorem KeptRes.clr {c a} (h : Kept s₀ s) : KeptRes s₀ (fkClr c a s) := .imgSt h
theorem KeptRes.re {c a} (h : Kept s₀ s) : KeptRes s₀ (fkRe c a s) := .imgEdge h
theorem KeptRes.fe {c a} (h : Kept s₀ s) : KeptRes s₀ (fkFe c a s) := .imgEdge h
theorem KeptRes.rem {c a} (h : Kept s₀ s) : KeptRes s₀ (fkRem c a s) := .imgMem h
theorem KeptRes.fem {c a} (h : Kept s₀ s) : KeptRes s₀ (fkFem c a s) := .imgMem h
theorem KeptRes.push {c} (h : Kept s₀ s) : KeptRes s₀ (fkPush c s) := .pan h (fun h => .ite (.exc h) (.pure h))
theorem KeptRes.pop {c f} (h : Kept s₀ s) : KeptRes s₀ (fkPop c f s) := .pan h (fun h => .ite (.exc h) (.pure h))
theorem KeptRes.popa {c} (h : Kept s₀ s) : KeptRes s₀ (fkPopa c s) := .pop h
theorem KeptRes.popo {c} (h : Kept s₀ s) : KeptRes s₀ (fkPopo c s) := .pop h
theorem KeptRes.popx {c} (h : Kept s₀ s) : KeptRes s₀ (fkPopx c s) := .pop h
theorem KeptRes.not {c} (h : Kept s₀ s) : KeptRes s₀ (fkNot c s) := .pan h .pure

theorem KeptRes.recRead {va pa o n f} (h : Kept s₀ s) (hf : ∀ {s x1}, Kept s₀ s → KeptRes s₀ (f s x1)) :
    KeptRes s₀ (recRead va pa o n f s) := by
  unfold Machine.recRead
  split
  next heq => exact hf (h.memRead.fst heq)
  next heq => exact .exc (h.memRead.fst heq)
  next heq => exact .exc (h.memRead.fst heq)

theorem KeptRes.record {c ra i f} (h : Kept s₀ s) (hf : ∀ {s x1 x2}, Kept s₀ s → KeptRes s₀ (f s x1 x2)) :
    KeptRes s₀ (fkRecord c ra i f s) := by
  unfold fkRecord
  refine .pan h (fun h => .ite (.exc h) ?_)
  split
  next heq => exact .exc (h.translate.fst heq)
  next heq =>
    have h1 := h.translate.fst heq
    exact .ite (.exc h1) (hf h1)

theorem KeptRes.timer {c step rd ra i} (h : Kept s₀ s) : KeptRes s₀ (fkTimer c step rd ra i s) := by
  unfold fkTimer
  exact .record h (fun g => .recRead g
    (fun g => .ite (.exc g) (.recRead g (fun h => have h1 := h.memWrite.getD h; .done (h1.memWrite.getD h1).setCore))))

theorem KeptRes.ton {c rd ra i} (h : Kept s₀ s) : KeptRes s₀ (fkTon c rd ra i s) := .timer h
theorem KeptRes.tof {c rd ra i} (h : Kept s₀ s) : KeptRes s₀ (fkTof c rd ra i s) := .timer h
theorem KeptRes.tp {c rd ra i} (h : Kept s₀ s) : KeptRes s₀ (fkTp c rd ra i s) := .timer h

theorem KeptRes.counter {c step q rd ra i} (h : Kept s₀ s) : KeptRes s₀ (fkCounter c step q rd ra i s) := by
  unfold fkCounter
  exact .record h (fun g => .recRead g
    (fun h => .ite (.exc h) (have h1 := h.memWrite.getD h; .done (h1.memWrite.getD h1).setCore)))

theorem KeptRes.ctu {c rd ra i} (h : Kept s₀ s) : KeptRes s₀ (fkCtu c rd ra i s) := .counter h
theorem KeptRes.ctd {c rd ra i} (h : Kept s₀ s) : KeptRes s₀ (fkCtd c rd ra i s) := .counter h

/-! The functions of `Machine/FkSys.lean`. -/

theorem KeptRes.mfs {c rd sr} (h : Kept s₀ s) : KeptRes s₀ (fkMfs c rd sr s) := .ite (.exc h) (.done h.setCore)

theorem Kept.srWrite {c lvl n w} (h : Kept s₀ s) : Kept s₀ (s.srWrite c lvl n w) := by
  unfold State.srWrite
  extract_lets
  split
  · exact h.setCore
  · exact h.setCore
  · exact h.setCore
  · exact h.setCore
  · exact h.setCore
  · exact h.setCore
  · exact h.setCore
  · exact h.setCore
  · exact h.setCore
  · exact h.tlbOp
  · exact .ite h h.setCore
  · exact h

theorem KeptRes.mts {c sr ra} (h : Kept s₀ s) : KeptRes s₀ (fkMts c sr ra s) := .ite (.exc h) (.done h.srWrite)
theorem KeptRes.eret {c} (h : Kept s₀ s) : KeptRes s₀ (fkEret c s) := .ite (.exc h) (.ret h.eret)
theorem KeptRes.fence {c} (h : Kept s₀ s) : KeptRes s₀ (fkFence c s) := .pure h
theorem KeptRes.wfe {c} (h : Kept s₀ s) : KeptRes s₀ (fkWfe c s) := .ite (.exc h) (.pure h)
theorem KeptRes.brkRow {c} (h : Kept s₀ s) : KeptRes s₀ (fkBrk c s) := .ite (.brk h) (.exc h)
theorem KeptRes.btw {c rd} (h : Kept s₀ s) : KeptRes s₀ (fkBtw c rd s) := .pure h
theorem KeptRes.wtb {c ra} (h : Kept s₀ s) : KeptRes s₀ (fkWtb c ra s) := .pure h
theorem KeptRes.ab {c n} (h : Kept s₀ s) : KeptRes s₀ (fkAb c n s) := .ite (.exc h) (.pure h)
theorem KeptRes.svc {_c imm} (h : Kept s₀ s) : KeptRes s₀ (fkSvc _c imm s) := .exc h

theorem Kept.eventTaken {c} (h : Kept s₀ s) : Kept s₀ (s.eventTaken c) := by
  unfold State.eventTaken
  split
  · exact h.begins.enterExc
  · exact h

/-! The functions of `Machine/FkWord.lean`. -/

/-- What a decoded row does keeps the state. -/
inductive KeptRow : Option (State → FkRes) → Prop
  | none : KeptRow none
  | some {f : State → FkRes} (hf : ∀ {s₀ s}, Kept s₀ s → KeptRes s₀ (f s)) : KeptRow (some f)

theorem KeptRow.ite {c : Prop} {_ : Decidable c} {p q} (ht : KeptRow p) (he : KeptRow q) :
    KeptRow (if c then p else q) := by
  split <;> assumption

theorem KeptRow.ifOk {ok} {f : State → FkRes} (hf : ∀ {s₀ s}, Kept s₀ s → KeptRes s₀ (f s)) : KeptRow (wIf ok f) :=
  .ite (.some hf) .none

theorem KeptRow.wInt {c w} : KeptRow (wInt c w) := by
  unfold Machine.wInt
  extract_lets
  split
  exacts [.some .add, .some .adc, .some .sub, .some .sbc, .some .and, .some .or, .some .xor, .some .andn, .some
    .shl, .some .shr, .some .sar, .some .ror, .some .shli, .some .shri, .some .sari, .ifOk .cmp, .some .mul, .some
    .mulhu, .some .mulhs, .some .divu, .some .divs, .some .remu, .some .rems, .some .min, .some .max, .some .clz,
    .none]

theorem KeptRow.wDec {c w} : KeptRow (wDec c w) := by
  unfold Machine.wDec
  extract_lets
  split
  exacts [.some .dadd, .some .daddc, .some .dsub, .some .dsubc, .some .dadj, .ifOk .dcmp, .some .dshl, .some .dshr,
    .some .d2b, .some .b2d, .none]

theorem KeptRow.wSys {c w} : KeptRow (wSys c w) := by
  unfold Machine.wSys
  extract_lets
  split
  exacts [.ifOk .jr, .some .jalr, .some .mfs, .some .mts, .some .eret, .some .fence, .some .wfe, .some .brkRow,
    .some .btw, .some .wtb, .none]

theorem KeptRow.wImg {c w} : KeptRow (wImg c w) := by
  unfold Machine.wImg
  extract_lets
  split
  exacts [.some .ld, .some .ldn, .some .imgAnd, .some .imgAndn, .some .imgOr, .some .orn, .some .imgXor, .some .st,
    .some .set, .some .clr, .some .re, .some .fe, .none]

theorem KeptRow.wStk {c w} : KeptRow (wStk c w) := by
  unfold Machine.wStk
  extract_lets
  split
  exacts [.some .rem, .some .fem, .ifOk .push, .ifOk .popa, .ifOk .popo, .ifOk .popx, .ifOk .not, .none]

theorem KeptRow.wImm {c w} : KeptRow (wImm c w) := by
  unfold Machine.wImm
  extract_lets
  split
  exacts [.ifOk .ab, .some .addi, .some .andi, .some .ori, .some .xori, .ifOk .movh, .ifOk .cmpi, .ifOk .svc, .some
    .ldw, .some .ldh, .some .ldhs, .some .ldb, .some .ldbs, .some .stw, .some .sth, .some .stb, .some .ton, .some
    .tof, .some .tp, .some .ctu, .some .ctd, .some .b, .some .bl, .ite (.some .bcc) .none]

theorem KeptRow.word {c w} : KeptRow (fkWord c w) :=
  .ite .none (.ite .wInt (.ite .wDec (.ite .wSys (.ite .wImg (.ite .wStk .wImm)))))

theorem KeptRes.decoded {c w} (h : Kept s₀ s) : KeptRes s₀ (fkDecoded c w s) := by
  unfold fkDecoded
  have hrow : KeptRow (fkWord c w) := .word
  cases hw : fkWord c w with
  | none => exact .exc h
  | some f =>
    rw [hw] at hrow
    cases hrow with
    | some hf => exact hf h

theorem Kept.fkUndefined {c w} (h : Kept s₀ s) : Kept s₀ (s.fkUndefined c w) := by
  unfold State.fkUndefined
  split
  · exact h
  · exact h.fkRun .exc

/-! The functions of `Machine/Dbg.lean`. -/

theorem Kept.haltGap {c} (h : Kept s₀ s) : Kept s₀ (s.haltGap c) := by
  unfold State.haltGap
  split
  · exact h.modPan
  · exact h

theorem Kept.dbgHaltReq {c} (h : Kept s₀ s) : Kept s₀ (s.dbgHaltReq c) := by
  unfold State.dbgHaltReq
  split
  · exact h.dbgHalt
  · exact h.dbgHalt
  · exact h

theorem Kept.dbgGo {c} (h : Kept s₀ s) : Kept s₀ (s.dbgGo c) := by
  unfold State.dbgGo
  extract_lets _ _ _ _ s3
  have h3 : Kept s₀ s3 := h.haltGap.setCore.setFbit.setReg.frame
  split
  · exact .ite h3.setF h3
  · exact h3

theorem Kept.dbgResume {c} (h : Kept s₀ s) : Kept s₀ (s.dbgResume c) := .ite h.dbgGo h

theorem Kept.dbgOne {c} (h : Kept s₀ s) : Kept s₀ (s.dbgOne c) :=
  have ht := h.begins
  .ite ht.eventTaken (ht.fkFetch .decoded)

theorem Kept.dbgStep {c} (h : Kept s₀ s) : Kept s₀ (s.dbgStep c) := by
  unfold State.dbgStep
  extract_lets s1
  have h1 : Kept s₀ s1 := h.haltGap.dbgOne
  refine .ite h ?_
  split
  · exact h1.setFbit.setReg
  · exact h1.setFbit.setReg
  · exact h1.dbgHalt

theorem Kept.dbgRead {c} (h : Kept s₀ s) : Kept s₀ (s.dbgRead c).1 :=
  .ite_fst h <| .ite_fst h <| .ite_fst h <| .ite_fst h h

theorem Kept.dbgWrite {c w} (h : Kept s₀ s) : KeptOpt s₀ (s.dbgWrite c w) :=
  .ite .none <| .ite (.some h.setCore) <| .ite (.some h.srWrite) <| .ite (.some h.setCore) .none

theorem Kept.memInc (h : Kept s₀ s) : Kept s₀ s.memInc := .ite h.setReg h

theorem Kept.dbgMemRead (h : Kept s₀ s) : Kept s₀ (s.dbgMemRead).1 := by
  unfold State.dbgMemRead
  extract_lets
  refine .ite_fst (.pair h.busErr) ?_
  split
  next heq => exact (h.busRead.fst heq).memInc
  next heq => exact .pair (h.busRead.fst heq).raise.busErr
  next heq => exact .pair (h.busRead.fst heq).busErr

theorem Kept.dbgMemWrite {w} (h : Kept s₀ s) : Kept s₀ (s.dbgMemWrite w).1 := by
  unfold State.dbgMemWrite
  exact
    have h0 := h.setF;
    have h1 : Kept s₀ _ := .ite h0.busWrite h0.busErr;
    .ite_fst h1 h1.setF.memInc

theorem Kept.dbgRst {v} (h : Kept s₀ s) : Kept s₀ (s.dbgRst v) := .ite h.reqReset h

theorem Kept.dbgCtrl {c w} (h : Kept s₀ s) : Kept s₀ (s.dbgCtrl c w) :=
  ((h.plainKeep.when .dbgHaltReq).when .dbgResume).when .dbgStep

theorem Kept.portWrite {o w} (h : Kept s₀ s) : KeptOpt s₀ (s.portWrite o w) := by
  unfold State.portWrite
  extract_lets
  refine .ite .none ?_
  split
  · exact .ite (.some h.dbgCtrl) <| .ite h.dbgWrite (.of_map h.plainWrite)
  · exact .ite (.some h.dbgRst) <| .ite (.some h.dbgMemWrite) (.of_map h.plainWrite)

theorem Kept.portRead {o} (h : Kept s₀ s) : Kept s₀ (s.portRead o).1 := by
  unfold State.portRead
  extract_lets
  refine .ite_fst h ?_
  split
  · exact .ite_fst h.dbgRead h
  · exact .ite_fst h.dbgMemRead h

theorem Kept.ack {k d} (h : Kept s₀ s) : Kept s₀ (s.ack k d) := h.emit

theorem Kept.portReadT {o} (h : Kept s₀ s) : Kept s₀ (s.portReadT o) := by
  unfold State.portReadT
  split
  next heq => exact (h.portRead.fst heq).ack
  next heq => exact (h.portRead.fst heq).ack

theorem Kept.portWriteT {o w good} (h : Kept s₀ s) : Kept s₀ (s.portWriteT o w good) := by
  unfold State.portWriteT
  refine .ite (.ite h.ack.setF h.ack) <| .ite ?_ ?_
  · split
    next heq => exact (h.dbgMemWrite.fst heq).ack
    next heq => exact (h.dbgMemWrite.fst heq).ack
  · split
    next heq => exact (h.portWrite.of_some heq).ack
    · exact h.ack

theorem Answers.dbgTransaction {rnw addr hpar data dpar} (h : Kept s₀ s) :
    Answers s₀ (execDbgTransaction rnw addr hpar data dpar s) :=
  .next <| .ite h <| .ite h.setF <| .ite h.portReadT h.portWriteT

theorem Kept.portPut {o w} (h : Kept s₀ s) : Kept s₀ (s.portPut o w) := .ite h.portWriteT h

theorem Answers.dbgRdataAccess {c wr} (h : Kept s₀ s) : Answers s₀ (execDbgRdataAccess c wr s) := by
  unfold execDbgRdataAccess
  refine .next ?_
  split
  · exact h.portPut
  · exact .ite h.portReadT h

theorem Answers.dbgMemAccess {wr} (h : Kept s₀ s) : Answers s₀ (execDbgMemAccess wr s) := by
  unfold execDbgMemAccess
  refine .next ?_
  split
  · exact h.portPut
  · exact .ite h.portReadT h

theorem Answers.dbgEvtWrite {who value} (h : Kept s₀ s) : Answers s₀ (execDbgEvtWrite who value s) := by
  unfold execDbgEvtWrite
  refine .next ?_
  split
  · exact h.portPut
  · exact h.regWrite

theorem Kept.tap {i} (h : Kept s₀ s) : Kept s₀ (s.tap i) := h.frame
theorem Kept.tapDrive {i on} (h : Kept s₀ s) : Kept s₀ (s.tapDrive i on) := .ite h.tap.emit h.tap

/-! The functions of `Machine/Reads.lean`. -/

theorem Kept.readFails {who a} (h : Kept s₀ s) : Kept s₀ (s.readFails who a) := by
  unfold State.readFails
  split
  · exact .ite h.begins.spend.useFree.fkExc h
  · exact h.busErr

theorem Kept.regDoRead {who a f} (h : Kept s₀ s) (hf : ∀ {s}, Kept s₀ s → Kept s₀ (f s)) :
    Kept s₀ (s.regDoRead who a f) :=
  .ite (hf h) h.readFails

theorem Answers.registerReadClear {who addr} (h : Kept s₀ s) : Answers s₀ (execRegisterReadClear who addr s) := by
  unfold execRegisterReadClear
  refine .next ?_
  split
  next heq => exact (h.regRead.fst heq).emit
  next heq => exact (h.regRead.fst heq).readFails

/-! The functions of `Machine/Transports.lean`. -/

theorem KeptBody.of {grp op} : KeptBody (bodyOf grp op) := by
  unfold bodyOf
  split
  exacts [.identify, .getStatus, .subscribe, .reset, .openChallenge, .openResponse, .close, .maintAcquire,
    .maintRelease, .regRead, .regWrite, .loadBlock, .loadMap, .panMode, .editStage, .editCommit, .force, .unforce,
    .imageRead, .canConfig, .canSend, .canRead, .routeSet, .hssSet, .solRun, .ledSet, .dioSet, .openLoadSweep,
    .measRead, .accCalibrate, .accOverride, .tokenEnrol, .accStatus, .attest, .keyLoad, .debugChallenge,
    .debugUnlock, .crustRead, .crustWrite, .counterInc, .logRead, .crustCompact, .stageBegin, .stageData, .stageEnd,
    .forward, .confirm, .updStatus, .topology, .switchoverTest, .timeGet, .peerEditStage, .peerEditCheck,
    .peerEditCancel, ⟨id⟩]

theorem Kept.relay {src b} (h : Kept s₀ s) : Kept s₀ (s.relay src b) := by
  unfold State.relay
  extract_lets
  split
  · exact h.frame.syncOut.sendBytes
  · exact .ite h.fwdReply <| .ite h.hsReply h.discard

theorem Kept.rxBytes {tp ep b} (h : Kept s₀ s) : Kept s₀ (s.rxBytes tp ep b) := by
  unfold State.rxBytes
  extract_lets
  refine .ite h <| .ite h.discard ?_
  split
  · exact h.discard
  · exact h.discard
  · exact .ite h.relay (h.deliver .of)

theorem Kept.hostBad {n} (h : Kept s₀ s) : Kept s₀ (s.hostBad n) := h.frame.emit.raise
theorem Kept.hostSay {more} (h : Kept s₀ s) : Kept s₀ (s.hostSay more) := h.frame.emit

theorem Answers.hostWrite {rdy room bytes} (h : Kept s₀ s) : Answers s₀ (execHostWrite rdy room bytes s) :=
  .next <| .ite h.hostBad (have h1 := h.hostSay; .ite h1.frame.raise h1.rxBytes)

theorem Answers.hostRead {w tlen} (h : Kept s₀ s) : Answers s₀ (execHostRead w tlen s) := by
  unfold execHostRead
  extract_lets
  refine .next <| .ite h.hostBad ?_
  split
  · exact h.hostSay
  · exact
      have h1 := h.hostSay;
      .ite h1.frame h1.frame

theorem Answers.udpDatagramRx {eth ep fragment bytes} (h : Kept s₀ s) :
    Answers s₀ (execUdpDatagramRx eth ep fragment bytes s) :=
  .next <| .ite h h.rxBytes

theorem Kept.isoTake {d} (h : Kept s₀ s) : Kept s₀ (s.isoTake d) :=
  .ite h.modIso.rxBytes (have h1 := h.modIso; .ite h1.isoFc h1)

theorem Kept.isoFirst {n d} (h : Kept s₀ s) : Kept s₀ (s.isoFirst n d) := .ite h h.modIso.isoFc

theorem Kept.isoRx {rid data} (h : Kept s₀ s) : Kept s₀ (s.isoRx rid data) := by
  unfold State.isoRx
  exact .ite h <| .ite (.ite h h.modIso.rxBytes) <| .ite h.isoFirst <| .ite (.ite h <| .ite h.isoTake h.modIso) <|
    .ite h.isoFlow h

theorem Kept.brlTagged {kind l lseq dst src hops bseq pl tag} (h : Kept s₀ s) :
    Kept s₀ (s.brlTagged kind l lseq dst src hops bseq pl tag) := by
  unfold State.brlTagged
  extract_lets r
  have hr : Kept s₀ r.1 := h.brlBroadcast
  exact .ite h <| .ite h.brlDrop.raise <| .ite (.ite hr.rxBytes hr) <| .ite (.ite h h.rxBytes) h.brlTransit

theorem Answers.brlCommandFrame {l lseq dst src hops bseq payload tag} (h : Kept s₀ s) :
    Answers s₀ (execBrlCommandFrame l lseq dst src hops bseq payload tag s) :=
  .next h.brlTagged

theorem Answers.brlUpdateFrame {l lseq dst src hops bseq payload tag} (h : Kept s₀ s) :
    Answers s₀ (execBrlUpdateFrame l lseq dst src hops bseq payload tag s) :=
  .next <| .ite (.ite (h.request .of) h.brlDrop) h.brlTagged

end Sys2Proof.Machine
end

