-- ==== Sys2Proof/Proofs/Steps.lean ====
section
/-! PROOF. Every command answers a next state that keeps the queue, the clock, the outputs and the canonical form (R10). -/
namespace Sys2Proof.Machine

variable {s t : State} {c : Instr}

/-- One case per command, in the order of the table. -/
theorem exec_answers (c : Instr) (s : State) : Answers s (exec c s) :=
  have h := Kept.refl s
  match c with
  | .add .. => .next (h.fkRun .add)
  | .adc .. => .next (h.fkRun .adc)
  | .sub .. => .next (h.fkRun .sub)
  | .sbc .. => .next (h.fkRun .sbc)
  | .and .. => .next (h.fkRun .and)
  | .or .. => .next (h.fkRun .or)
  | .xor .. => .next (h.fkRun .xor)
  | .andn .. => .next (h.fkRun .andn)
  | .shl .. => .next (h.fkRun .shl)
  | .shr .. => .next (h.fkRun .shr)
  | .sar .. => .next (h.fkRun .sar)
  | .ror .. => .next (h.fkRun .ror)
  | .shli .. => .next (h.fkRun .shli)
  | .shri .. => .next (h.fkRun .shri)
  | .sari .. => .next (h.fkRun .sari)
  | .cmp .. => .next (h.fkRun .cmp)
  | .mul .. => .next (h.fkRun .mul)
  | .mulhu .. => .next (h.fkRun .mulhu)
  | .mulhs .. => .next (h.fkRun .mulhs)
  | .divu .. => .next (h.fkRun .divu)
  | .divs .. => .next (h.fkRun .divs)
  | .remu .. => .next (h.fkRun .remu)
  | .rems .. => .next (h.fkRun .rems)
  | .min .. => .next (h.fkRun .min)
  | .max .. => .next (h.fkRun .max)
  | .clz .. => .next (h.fkRun .clz)
  | .dadd .. => .next (h.fkRun .dadd)
  | .daddc .. => .next (h.fkRun .daddc)
  | .dsub .. => .next (h.fkRun .dsub)
  | .dsubc .. => .next (h.fkRun .dsubc)
  | .dadj .. => .next (h.fkRun .dadj)
  | .dcmp .. => .next (h.fkRun .dcmp)
  | .dshl .. => .next (h.fkRun .dshl)
  | .dshr .. => .next (h.fkRun .dshr)
  | .d2b .. => .next (h.fkRun .d2b)
  | .b2d .. => .next (h.fkRun .b2d)
  | .jr .. => .next (h.fkRun .jr)
  | .jalr .. => .next (h.fkRun .jalr)
  | .mfs .. => .next (h.fkRun .mfs)
  | .mts .. => .next (h.fkRun .mts)
  | .eret .. => .next (h.fkRun .eret)
  | .fence .. => .next (h.fkRun .fence)
  | .wfe .. => .next (h.fkRun .wfe)
  | .brk .. => .next (h.fkRun .brkRow)
  | .btw .. => .next (h.fkRun .btw)
  | .wtb .. => .next (h.fkRun .wtb)
  | .ab .. => .next (h.fkRun .ab)
  | .addi .. => .next (h.fkRun .addi)
  | .andi .. => .next (h.fkRun .andi)
  | .ori .. => .next (h.fkRun .ori)
  | .xori .. => .next (h.fkRun .xori)
  | .movh .. => .next (h.fkRun .movh)
  | .cmpi .. => .next (h.fkRun .cmpi)
  | .svc .. => .next (h.fkRun .svc)
  | .ldw .. => .next (h.fkRun .ldw)
  | .ldh .. => .next (h.fkRun .ldh)
  | .ldhs .. => .next (h.fkRun .ldhs)
  | .ldb .. => .next (h.fkRun .ldb)
  | .ldbs .. => .next (h.fkRun .ldbs)
  | .stw .. => .next (h.fkRun .stw)
  | .sth .. => .next (h.fkRun .sth)
  | .stb .. => .next (h.fkRun .stb)
  | .ton .. => .next (h.fkRun .ton)
  | .tof .. => .next (h.fkRun .tof)
  | .tp .. => .next (h.fkRun .tp)
  | .ctu .. => .next (h.fkRun .ctu)
  | .ctd .. => .next (h.fkRun .ctd)
  | .b .. => .next (h.fkRun .b)
  | .bl .. => .next (h.fkRun .bl)
  | .bcc .. => .next (h.fkRun .bcc)
  | .ld .. => .next (h.fkRun .ld)
  | .ldn .. => .next (h.fkRun .ldn)
  | .imgAnd .. => .next (h.fkRun .imgAnd)
  | .imgAndn .. => .next (h.fkRun .imgAndn)
  | .imgOr .. => .next (h.fkRun .imgOr)
  | .orn .. => .next (h.fkRun .orn)
  | .imgXor .. => .next (h.fkRun .imgXor)
  | .st .. => .next (h.fkRun .st)
  | .set .. => .next (h.fkRun .set)
  | .clr .. => .next (h.fkRun .clr)
  | .re .. => .next (h.fkRun .re)
  | .fe .. => .next (h.fkRun .fe)
  | .rem .. => .next (h.fkRun .rem)
  | .fem .. => .next (h.fkRun .fem)
  | .push .. => .next (h.fkRun .push)
  | .popa .. => .next (h.fkRun .popa)
  | .popo .. => .next (h.fkRun .popo)
  | .popx .. => .next (h.fkRun .popx)
  | .not .. => .next (h.fkRun .not)
  | .undefinedInstruction .. => .next h.fkUndefined
  | .tlbInvalidateAll .. => .next h.tlbOp
  | .tlbInvalidateNonglobal .. => .next h.tlbOp
  | .tlbInvalidateAsid .. => .next h.tlbOp
  | .tlbInvalidatePage .. => .next h.tlbOp
  | .tlbLockPage .. => .next h.tlbOp
  | .lockstepInject .. => .next h.setCore
  | .lockstepMismatch .. => .lockstepMismatch h
  | .eventTaken .. => .next h.eventTaken
  | .eventSourceAssert .. => .next <| .ite h.raise h
  | .evtTgtAckRead .. => .next (h.regDoRead (fun h => h.evtAck.emit))
  | .evtTgtEoi .. => .next (h.regDo .evtEoi)
  | .evtSwtrig .. => .next (h.regDo .raise)
  | .evtPendClear .. => .next (h.regDo .evtPendClear)
  | .scrubPass => .next <| .ite h.scrub.raise h
  | .postedStoreBusError .. => .next h.raise
  | .dmaStart .. => .next (h.regDo .dmaStart)
  | .dmaAbort .. => .next (h.regDo .dmaAbort)
  | .dmaResume .. => .next (h.regDo .dmaResume)
  | .dmaErrClear .. => .next (h.regDo .dmaErrClear)
  | .dmaPeripheralRequest .. => .next <| .ite h h.modDch
  | .dmaBeatBoundary => .next h.dmaServe
  | .dmaBurstComplete .. => .next h.dmaComplete
  | .dmaBurstFault .. => .next h.dmaFaulted
  | .dmaL3waitExpiry .. => .next <| .ite h.dmaError h
  | .iommuInv .. => .next (h.regDo .iotlbInv)
  | .registerWrite .. => .next h.regWrite
  | .registerReadClear .. => .registerReadClear h
  | .panBoundary .. => .next <| .ite h.boundary.mirSend h
  | .applyStrobe .. => .next h.applyStrobe
  | .rakePanDone .. => .next (h.regDo .doneWrite)
  | .overrun .. => .next h.overrun
  | .hardLimitExpiry .. => .next <| .ite h.faultStop h
  | .triggerCapture .. => .triggerCapture h
  | .triggerCaptureDone .. => .next <| .ite h h.frame.canLetAll.captCount.captCount.raise
  | .checkpointWriteDone .. => .checkpointWriteDone h
  | .pfwSaveTimeout .. => .next <| .ite h h.modPan.setFbit.raise
  | .pfwSaved => .next <| .ite h h.pfwSave.pfwSave.raise
  | .panStartStepsDone .. => .next <| .ite h.startDone h
  | .editStored .. => .next <| .ite h h.extend.modPan.raise
  | .rakeCtrlWrite .. => .next (h.regDo .rakeCtrl)
  | .cmdPacketDiscard .. => .cmdPacketDiscard h
  | .cmdPacketForward .. => .next <| .ite (.ite h.discard <| .ite h.cmdCast h.forward) h
  | .cmdReplyRelay .. => .next <| .ite h.relay h
  | .cmdForwardTimeout .. => .cmdForwardTimeout h
  | .cmdCompletion .. => .cmdCompletion h
  | .sessionNonceExpiry .. => .next h.frame
  | .sessionIdleTimeout .. => .next <| .ite h.closeSess h
  | .lockoutEnd .. => .next h.frame
  | .maintLeaseExpiry .. => .maintLeaseExpiry h
  | .resetDelayExpiry => .resetDelayExpiry h
  | .identify .. => .next (h.opcode .identify)
  | .getStatus .. => .next (h.opcode .getStatus)
  | .subscribe .. => .next (h.opcode .subscribe)
  | .reset .. => .next (h.opcode .reset)
  | .openChallenge .. => .next (h.opcode .openChallenge)
  | .openResponse .. => .next (h.opcode .openResponse)
  | .close .. => .next (h.opcode .close)
  | .maintAcquire .. => .next (h.opcode .maintAcquire)
  | .maintRelease .. => .next (h.opcode .maintRelease)
  | .regRead .. => .next (h.opcode .regRead)
  | .regWrite .. => .next (h.opcode .regWrite)
  | .loadBlock .. => .next (h.opcode .loadBlock)
  | .loadMap .. => .next (h.opcode .loadMap)
  | .panMode .. => .next (h.opcode .panMode)
  | .editStage .. => .next (h.opcode .editStage)
  | .editCommit .. => .next (h.opcode .editCommit)
  | .force .. => .next (h.opcode .force)
  | .unforce .. => .next (h.opcode .unforce)
  | .imageRead .. => .next (h.opcode .imageRead)
  | .canConfig .. => .next (h.opcode .canConfig)
  | .canSend .. => .next (h.opcode .canSend)
  | .canRead .. => .next (h.opcode .canRead)
  | .routeSet .. => .next (h.opcode .routeSet)
  | .hssSet .. => .next (h.opcode .hssSet)
  | .solRun .. => .next (h.opcode .solRun)
  | .ledSet .. => .next (h.opcode .ledSet)
  | .dioSet .. => .next (h.opcode .dioSet)
  | .openLoadSweep .. => .next (h.opcode .openLoadSweep)
  | .measRead .. => .next (h.opcode .measRead)
  | .accCalibrate .. => .next (h.opcode .accCalibrate)
  | .accOverride .. => .next (h.opcode .accOverride)
  | .tokenEnrol .. => .next (h.opcode .tokenEnrol)
  | .accStatus .. => .next (h.opcode .accStatus)
  | .attest .. => .next (h.opcode .attest)
  | .keyLoad .. => .next (h.opcode .keyLoad)
  | .debugChallenge .. => .next (h.opcode .debugChallenge)
  | .debugUnlock .. => .next (h.opcode .debugUnlock)
  | .crustRead .. => .next (h.opcode .crustRead)
  | .crustWrite .. => .next (h.opcode .crustWrite)
  | .counterInc .. => .next (h.opcode .counterInc)
  | .logRead .. => .next (h.opcode .logRead)
  | .crustCompact .. => .next (h.opcode .crustCompact)
  | .stageBegin .. => .next (h.opcode .stageBegin)
  | .stageData .. => .next (h.opcode .stageData)
  | .stageEnd .. => .next (h.opcode .stageEnd)
  | .forward .. => .next (h.opcode .forward)
  | .confirm .. => .next (h.opcode .confirm)
  | .updStatus .. => .next (h.opcode .updStatus)
  | .topology .. => .next (h.opcode .topology)
  | .switchoverTest .. => .next (h.opcode .switchoverTest)
  | .timeGet .. => .next (h.opcode .timeGet)
  | .peerEditStage .. => .next (h.opcode .peerEditStage)
  | .peerEditCheck .. => .next (h.opcode .peerEditCheck)
  | .peerEditCancel .. => .next (h.opcode .peerEditCancel)
  | .peerEditCheckTimeout .. => .peerEditCheckTimeout h
  | .hostWrite .. => .hostWrite h
  | .hostRead .. => .hostRead h
  | .hostPoll .. => .next <| .ite h.hostSay h.hostBad
  | .isotpFrameRx .. => .next h.isoRx
  | .isotpNcrTimeout => .next <| .ite h.modIso.raise h
  | .isotpEnable .. => .next (h.regDo .isotpCfg)
  | .udpDatagramRx .. => .udpDatagramRx h
  | .usbBulkOut .. => .next <| .ite h.rxBytes h
  | .brlSignalDetect .. => .next <| .ite h.setLink h
  | .brlTrainingComplete .. => .brlTrainingComplete h
  | .brlTrainTimeout .. => .next <| .ite h.setLink.modLink h
  | .brlPeerProof .. => .brlPeerProof h
  | .brlAuthTimeout .. => .next <| .ite h.setLink.raise h
  | .brlFaultExpiry .. => .next <| .ite h.setLink h
  | .brlRetryExpiry .. => .next <| .ite h.setLink.modLink h
  | .brlBlockLockLost .. => .next <| .ite h.linkLost h
  | .ringCtrlWrite .. => .next (h.regDo .ringCtrl)
  | .ringAddrWrite .. => .next (h.regDo .ringAddr)
  | .brlFrameRx .. => .brlFrameRx h
  | .brlNakRx .. => .brlNakRx h
  | .brlCommandFrame .. => .brlCommandFrame h
  | .brlUpdateFrame .. => .brlUpdateFrame h
  | .presenceSend => .next <| .ite h (h.frame.foldl .brlSend)
  | .presenceRx .. => .presenceRx h
  | .routeAgeOut .. => .next <| .ite h.frame.membersSync.raise h
  | .addrConflictClear => .next h.setF
  | .timeFrameSend => .next (h.foldl .brlSend)
  | .timeFrameRx .. => .timeFrameRx h
  | .linkDelayMeasure .. => .next <| .ite h.setF h
  | .brlTimeHoldover => .brlTimeHoldover h
  | .ringHsCfgWrite .. => .next (h.regDo .hsCfg)
  | .heartbeatSend => .next <| .ite (h.foldl .brlSend) h
  | .heartbeatRx .. => .heartbeatRx h
  | .heartbeatMiss => .next <| .ite h.incF.raise h
  | .heartbeatLoss => .heartbeatLoss h
  | .candidateWaitExpiry => .next <| .ite h.primaryStart h
  | .mirrorFrameRx .. => .next <| .ite h (.mirInput (.modHsPan (.ite h h.modHsPan)))
  | .boundaryMarkerRx .. => .next <| .ite h (.marker (.ite h.panOutsOff.panOutsOff.modHs h))
  | .takeover => .takeover h
  | .handoverBoundary => .handoverBoundary h
  | .remoteResetRx .. => .next <| .ite h.reqReset h
  | .silenceTimeout .. => .next h.panSilent
  | .bridgeHoldExpiry .. => .next h.bankOff
  | .bootReqRx .. => .next <| .ite h (h.modLink.frame.foldl .bootFrame)
  | .canEnable .. => .next (h.regDo .canCtrl)
  | .canDisable .. => .next (h.regDo .canCtrl)
  | .canRecover .. => .next (h.regDo .canCtrl)
  | .canTxfNWrite .. => .next (h.regDo .canCtrl)
  | .canAuthEnable .. => .next (h.regDo .canAuthWrite)
  | .canTxreqSet .. => .next (h.regDo (fun h => h.canSet.wrRes))
  | .canTxreqClr .. => .next (h.regDo (fun h => h.canClr.wrRes))
  | .canTxfifoWrite .. => .next (h.regDo (fun h => h.canFifo.wrRes))
  | .canUnfRel .. => .next (h.regDo .canUnfRel)
  | .canFreshHWrite .. => .next (h.regDo .canFreshH)
  | .canIntegrated .. => .next <| .ite h.setF.canStop.tideEval.canArb h
  | .canFrameReceived .. => .next <| .ite h h.canLost.canRecDown.canFiled.canStop.canArb
  | .canHoldRelease .. => .next (.canUnhold (.modCan (.ite (h.foldl .reharvest) h)))
  | .canRxError .. => .canRxError h
  | .canTxSuccess .. => .canTxSuccess h
  | .canTxError .. => .canTxError h
  | .canRecovered .. => .next <| .ite h.setF.setF.setRec.canEvt.tideEval.canArb h
  | .canTatDue .. => .next h.canArb
  | .canTatLate .. => .next <| .ite h.canHeadLate.canArb <| .ite h.canLate h
  | .canDominantTimeout .. => .next h.setF.canEvt
  | .tideSleep .. => .next h.tideRow
  | .tideStay .. => .next h.tideRow
  | .tideCommit .. => .next h.tideRow
  | .tideVeto .. => .next h.tideRow
  | .tideWake .. => .next h.tideRow
  | .tideForceSleep .. => .next h.tideRow
  | .tideCfgWrite .. => .next (h.regDo .tideCfg)
  | .tideQuorumTick => .next (h.forBelow .tideEval)
  | .scfSendPeriod .. => .next <| .ite h.scfSend h
  | .tideFailsafeExpiry .. => .next <| .ite h.tideCommit.raise h
  | .tideDrainExpiry .. => .next <| .ite h.tideLow h
  | .toLowComplete .. => .toLowComplete h
  | .lateWake .. => .next <| .ite h.tideWake h
  | .wupPattern .. => .next <| .ite h.busWake h
  | .dominantWake .. => .next <| .ite h.busWake h
  | .wakeUpFrame .. => .next <| .ite h.busWake h
  | .fecOverflowWake .. => .next <| .ite h.busWake.raise h
  | .wufFrameDecoded .. => .next <| .ite h (.modTide (.ite h.decF h.incF))
  | .busSilence .. => .next <| .ite h.setF.modTide h
  | .floodDone .. => .next <| .ite h.setF.tideAwake h
  | .floodFail .. => .next <| .ite h.setF.tideAwake.raise h
  | .sluiceLookup => .sluiceLookup h
  | .sluiceBrlFrameRx .. => .sluiceBrlFrameRx h
  | .sluiceRtWrite .. => .next (h.regDo .rtWrite)
  | .sluiceRtRead .. => .next (h.regDo .rtRead)
  | .sluiceOwnWrite .. => .next (h.regDo .slOwnWrite)
  | .ethCfgModeWrite .. => .next (h.regDo .ethCfg)
  | .ethBallRelease .. => .next <| .ite h.release.modEth h
  | .ethLinkChange .. => .ethLinkChange h
  | .ethFrameRx .. => .ethFrameRx h
  | .arpRequest .. => .next <| .ite h h.emit
  | .icmpEcho .. => .next <| .ite h h.emit
  | .ptpSyncRx .. => .ptpSyncRx h
  | .ptpDelayRespRx .. => .ptpDelayRespRx h
  | .ptpPdelayReqRx .. => .ptpPdelayReqRx h
  | .ptpPdelayRespRx .. => .ptpPdelayRespRx h
  | .ethDescriptorBusError .. => .next h.ethDmaErr
  | .mdioGo .. => .next (h.regDo .mdioWrite)
  | .mdioDone .. => .next <| .ite h (h.when .setF).setF
  | .timeOffsetMeasure .. => .next <| .ite h h.timeMeasure
  | .timeStepWrite .. => .next (h.regDo (fun h => h.modTime.stepWrite))
  | .ptpHoldover => .ptpHoldover h
  | .timeNowRead .. => .next (h.regDoRead (fun h => h.nowLatch.emit))
  | .hssCtrlEnWrite .. => .next (h.regDo .hssEn)
  | .hssCmdDuty .. => .next (h.regDo .hssCmdWrite)
  | .hssCmdClear .. => .next (h.regDo .hssCmdWrite)
  | .hssParWrite .. => .next (h.regDo .hssPar)
  | .hssPwmHzWrite .. => .next (h.regDo (fun h => h.hssGrid.setF))
  | .hssPeriodStart .. => .next h.hssPeriodStart
  | .hssOnTimeEnd .. => .next h.hssOnEnd
  | .hssGroupUndervoltage .. => .next h.setF.incF.hssGroupOff.raise
  | .hssGroupOvervoltage .. => .next h.setF.incF.hssGroupOff.raise
  | .hssGroupRestart .. => .hssGroupRestart h
  | .hssRestartSlot .. => .next h.hssSlot
  | .hssReducedChange .. => .next (h.setFlag.forBelow .setFlag)
  | .hssOvertemp .. => .hssOvertemp h
  | .hssLimitStart .. => .next <| .ite h h.setF.setF.raise
  | .hssLimitEnd .. => .next <| .ite h h.setF.setF
  | .hssLimitTimerExpiry .. => .next <| .ite h <| .ite (h.hssEach .incF).hssOff h.hssFault
  | .hssBlankExpiry .. => .next <| .ite h.modHss h
  | .hssQoffExpiry .. => .next <| .ite h.hssOn h
  | .hssRetryExpiry .. => .next <| .ite h.modHss.hssRetry h
  | .hssRclrExpiry .. => .next <| .ite h (h.hssEach (fun h => h.setF.setF))
  | .hssCurrentSample .. => .next h.hssSample
  | .hssRangeChangeDone .. => .hssRangeChangeDone h
  | .hssTempSample .. => .next h.setF.setF.setFlag.modHss.hssRetry
  | .hssOffstateTest .. => .next <| .ite h h.hssDiag
  | .hssSweepDone .. => .next h.hssSwept
  | .solCtrlEnWrite .. => .next (h.regDo .solEn)
  | .solCmdCode .. => .next (h.regDo .solCmdWrite)
  | .solCmdClear .. => .next (h.regDo .solCmdWrite)
  | .solCmdRelease .. => .next (h.regDo .solCmdWrite)
  | .solCmdFlush .. => .next (h.regDo .solCmdWrite)
  | .solProfileWrite .. => .next (h.regDo .solProf)
  | .solParWrite .. => .next (h.regDo .solPar)
  | .solDutyWrite .. => .next (h.regDo .solDuty)
  | .solCommandTaken .. => .next h.solTry
  | .solDue .. => .next h.solExam
  | .solLate .. => .next <| .ite h.solLateAt.solExam h
  | .solPhaseEnd .. => .next <| .ite h.solNext.solExam h
  | .solReleaseLimit .. => .next <| .ite h.solNext.solExam h
  | .solChopPeriod .. => .next <| .ite h.modSol h
  | .solCurrentTarget .. => .next <| .ite h.modSol h
  | .solDrainDone .. => .solDrainDone h
  | .solToffExpiry .. => .next <| .ite h.setF.solExam h
  | .solKinkSample .. => .solKinkSample h
  | .solOvercurrent .. => .next h.solTrip
  | .solOpenCoil .. => .next h.solTrip
  | .solOvertemp .. => .solOvertemp h
  | .vsolUndervoltage => .next (h.setF.forBelow .solUv).raise
  | .vsolRestart => .next h.setF.raise
  | .solBucketOpen .. => .next h.solCharge.modSol.solCharge
  | .dioCtrlEnWrite .. => .next (h.regDo (fun h => h.dioEn.accWatch h))
  | .dioCmdOut .. => .next (h.regDo .dioCmdWrite)
  | .dioCmdClear .. => .next (h.regDo .dioCmdWrite)
  | .dioCfgWrite .. => .next (h.regDo .dioCfgWrite)
  | .dioInputChange .. => .next (h.dioIn.accWatch h)
  | .dioWireBreakChange .. => .dioWireBreakChange h
  | .dioReadbackMismatch .. => .next <| .ite h <| .ite (.ite h h.setF.raise) <| .ite (.ite h h.setF.raise) h
  | .vdioUndervoltage => .vdioUndervoltage h
  | .vdioRestart => .vdioRestart h
  | .vdioRedChange .. => .next h.setFlag
  | .dioOvertemp .. => .dioOvertemp h
  | .dioLimitExpiry .. => .next <| .ite h.dioTrip h
  | .ntcConversion .. => .next h.ntc
  | .supplySample .. => .next h.supSample
  | .ledCtrlEnWrite .. => .next (h.regDo .ledEn)
  | .ledCmdWrite .. => .next (h.regDo (fun g => g.ownedWrite .ledCommand))
  | .ledGrpMaskWrite .. => .next (h.regDo .ledMask)
  | .ledGrpClear .. => .next (h.regDo (fun g => g.ownedWrite .ledGroupClear))
  | .lmxEnWrite .. => .next (h.regDo .lmxEn)
  | .lmxClear .. => .next (h.regDo .setF)
  | .lmxLevelWrite .. => .next (h.regDo .lmxLvl)
  | .ledPeriodStart .. => .next h.ledPeriod
  | .ledOnphaseCheck .. => .next h.ledCheck
  | .ledHeadroomUpdate .. => .ledHeadroomUpdate h
  | .ledCurveUpdate => .next (h.forBelow .ledCurve)
  | .ledOvertemp => .next h.setF.ledAllOff.raise
  | .ledOvertempRecover => .next h.setF
  | .lmxFrameStart => .next <| .ite h (h.frame.forBelow .frame)
  | .lmxRowSlot .. => .next <| .ite h (h.frame.forBelow .lmxElem)
  | .lmxRowOvercurrent => .next <| .ite h h.setF.raise
  | .accCtrlEnWrite .. => .next (h.regDo .accCtrl)
  | .accLockEnWrite .. => .next (h.regDo (fun h => .ite h.setF h.accLock))
  | .accDoorWrite .. => .next (h.regDo (fun h => h.accDoorWrite.accWatch h))
  | .accCalWrite .. => .next (h.regDo .accCalWrite)
  | .accScanDue => .next <| .ite h <| .ite h.modAcc h.accStart
  | .accCodeStart => .next <| .ite h.accCode h
  | .accQuietWindowEnd .. => .accQuietWindowEnd h
  | .accBurstEnd .. => .accBurstEnd h
  | .accRepeatDue => .next <| .ite h.modAcc.accCode h
  | .accReplyRx .. => .next h.accReply
  | .accScanEnd => .next <| .ite h h.setF.accMisses.accStartup.calScan.modAcc.accOver
  | .accLockoutEnd => .next h.setF.modAcc
  | .accFailAgeOut => .next h.modAcc
  | .accSessionTimeout => .next h.accEnd
  | .accArmExpiry => .next <| .ite h.accOvr h
  | .transponderPoll .. => .next h.accPoll
  | .enclOpStart => .next h.enclNext
  | .mbRandom .. => .next h.mbRow
  | .mbLoad .. => .next h.mbRow
  | .mbClear .. => .next h.mbRow
  | .mbGen .. => .next h.mbRow
  | .gcmEnc .. => .next h.mbRow
  | .gcmDec .. => .next h.mbRow
  | .mbCmac .. => .next h.mbRow
  | .sign .. => .next h.mbRow
  | .verify .. => .next h.mbRow
  | .ecdh .. => .next h.mbRow
  | .hkdf .. => .next h.mbRow
  | .hash .. => .next h.mbRow
  | .extend .. => .next h.mbRow
  | .mbAttest .. => .next h.mbRow
  | .enclOpDone => .next h.enclDone
  | .enclTamper .. => .next h.tamper
  | .trngFailure => .next h.setF.raise
  | .trngRecovery => .next h.setF
  | .crustRdreqGo .. => .next (h.regDo .rdreq)
  | .crustWportRequest .. => .next (h.regDo (fun g => g.foldl .wportWord))
  | .crustRecordWritten .. => .crustRecordWritten h
  | .crustLogEntry .. => .next h.logAdd
  | .crustOpenDone .. => .crustOpenDone h
  | .crustVerifyDone .. => .next <| .ite (h.foldl .crustDamaged).setF.levelEdge.raise h
  | .crustBackgroundCompact => .next <| .ite h.frame.modCrust h
  | .crustCompactionDone => .crustCompactionDone h
  | .crustEraseDone .. => .crustEraseDone h
  | .crustSpaceWaitExpiry => .crustSpaceWaitExpiry h
  | .stageApplyDone => .stageApplyDone h
  | .updResetDue => .next <| .ite h.modUpd.reqReset h
  | .trialHealthy => .trialHealthy h
  | .trialDeadlineExpiry => .next h.trialEnds
  | .updUnfitWrite .. => .next (h.regDo .updUnfit)
  | .forwardPeerDone .. => .next h.fwdPeerDone
  | .forwardDone => .forwardDone h
  | .usbsCtrlWrite .. => .next (h.regDo .usbCtrl)
  | .usbVbusChange .. => .usbVbusChange h
  | .usbConfigure .. => .next <| .ite h h.setFlag.setFlag.setF.raise
  | .recoveryLoader .. => .next <| .ite h.rxBytes h
  | .powerOn => .next h.powerOn
  | .railStepDone => .next <| .ite h h.railNext
  | .railStepTimeout => .next <| .ite h (h.rails.setF.setF.modPwr.when .raise)
  | .railRetryExpiry => .next <| .ite h.railStart h
  | .pwrGoodLost .. => .next <| .ite h (.reqReset (.setF (.ite h.setFbit h.setF)))
  | .pdOffWrite .. => .next (h.regDo .pdOffWrite)
  | .pdSwitchOnDone .. => .pdSwitchOnDone h
  | .parkGo .. => .next (h.regDo .parkGo)
  | .parkStepDone => .next h.parkStep
  | .parkFlushTimeout => .next <| .ite h <| .ite h.parkAbort h.modPwr.modCrust.parkLoads
  | .parkWake .. => .parkWake h
  | .wakePin .. => .next <| .ite h (.parkWake (.ite (h.forBelow (fun h => .ite h.tideWake h)) h))
  | .dioWakeSample .. => .dioWakeSample h
  | .rtcAlarmDue .. => .next <| .ite h <| .ite h.almLate h.almFire
  | .rtcAlarmLate .. => .next <| .ite h h.almLate
  | .rtcAlarmEnable .. => .next (h.regDo .almWrite)
  | .powerFailWarning => .next <| .ite h h.setF.levelEdge.setF.modCrust.rakePfw
  | .powerFailClear => .next <| .ite h h.setF.raise.setF.modCrust.setF
  | .vaonBrownOut => .next <| .ite h.powerOn h.modPwr.reqReset
  | .thermalSample .. => .thermalSample h
  | .thermalHoldRelease => .next h.modPwr
  | .referenceLoss => .referenceLoss h
  | .pllUnlock .. => .pllUnlock h
  | .serdesUnlock => .next h.setF.linksDown.raise
  | .serdesRelockRetry .. => .next <| .ite h.setF h
  | .usbPllUnlock => .next h.setF.setF.setF.setF.setF.raise
  | .rtcOscLoss => .next h.setF.setF.setF.modPwr.raise
  | .rtcSecond => .next <| .ite h h.setF.modPwr
  | .rtcSecWrite .. => .next (h.regDo .rtcWrite)
  | .resetNPulse => .next h.modPwr.parkWake.reqReset
  | .resetSourcesTaken => .next h.rstTake
  | .l3DrainDone .. => .next <| .ite (h.foldl .islandReset).modPwr h
  | .l3ResetEnd .. => .l3ResetEnd h
  | .stewardRelease .. => .stewardRelease h
  | .swrstWrite .. => .next (h.regDo .swrst)
  | .wdtKick .. => .next (h.regDo .wdtKick)
  | .wdtHalfPeriod .. => .next <| .ite h h.setF.modPwr.raise
  | .wdtExpiry .. => .next <| .ite h.reqReset h
  | .optWrite .. => .next (h.regDo .optWrite)
  | .optWriteDone .. => .optWriteDone h
  | .pinownQresWrite .. => .next (h.regDo .setReg)
  | .gpioCmdWrite .. => .next (h.regDo (fun g => g.ownedWrite .gpioSet))
  | .gpioEdge .. => .gpioEdge h
  | .dbgLineReset => .next h
  | .dbgTransaction .. => .dbgTransaction h
  | .dbgHalt .. => .next h.portPut
  | .dbgResume .. => .next h.portPut
  | .dbgStep .. => .next h.portPut
  | .dbgRdataAccess .. => .dbgRdataAccess h
  | .dbgMemAccess .. => .dbgMemAccess h
  | .dbgRst .. => .next h.portPut
  | .dbgEvtWrite .. => .dbgEvtWrite h
  | .tapReset => .next h.tap
  | .idcode => .next h.tap.emit
  | .samplePreload .. => .next h.frame.tap.emit
  | .extest => .next h.tapDrive
  | .clamp => .next h.tapDrive
  | .highz => .next h.tapDrive
  | .bypass => .next h.tap
  | .resetNRelease => .next h.modPwr
  | .rtcOscRestore => .next h.setF.modPwr
  | .ptpFollowUpRx .. => .ptpFollowUpRx h
  | .ptpDelayReqSend .. => .ptpDelayReqSend h
  | .dioCurrentLimit .. => .next <| .ite h.modDio h
  | .solJunctionWarning .. => .next h.setF.setF.setFlag.modSol
  | .cmdAcceptedDeadline .. => .next h.accept
  | .bootReqSend .. => .next <| .ite h.brlSend h
  | .brlAckRx .. => .brlAckRx h

theorem Answers.exists_next {o} (h : Answers s o) : ∃ t, o = .next t ∧ Kept s t := by
  cases h with
  | next h => exact ⟨_, rfl, h⟩

theorem exec_kept (h : exec c s = .next t) : Kept s t := by
  obtain ⟨u, hu, hk⟩ := (exec_answers c s).exists_next
  cases hu.symm.trans h
  exact hk

theorem Kept.canonical (h : Kept s t) (hs : s.Canonical) : t.Canonical := by
  obtain ⟨hmem, hram, hregs⟩ := hs
  exact ⟨h.mem hmem, h.stewRam hram, h.regs hregs⟩

/-- Settles O4: `exec_answers` without what the next state keeps. That no meaning stops is log 13 (DEDUCED). -/
theorem everyCommandAnswersANextState : Obligations.EveryCommandAnswersANextState := by
  unfold Obligations.EveryCommandAnswersANextState
  intro c s
  obtain ⟨t, ht, _⟩ := (exec_answers c s).exists_next
  exact ⟨t, ht⟩

/-- Settles O5: three of the parts that every command keeps. -/
theorem noCommandTouchesTheQueueNorTakesBackAnOutput :
    Obligations.NoCommandTouchesTheQueueNorTakesBackAnOutput := by
  unfold Obligations.NoCommandTouchesTheQueueNorTakesBackAnOutput
  intro c s t h
  have hk := exec_kept h
  exact ⟨hk.pending, hk.out, hk.now⟩

/-- Settles O6: a tick of the clock touches no store, and a command keeps their form. -/
theorem everyStepKeepsTheStoresCanonical : Obligations.EveryStepKeepsTheStoresCanonical := by
  unfold Obligations.EveryStepKeepsTheStoresCanonical
  intro s t hs h
  unfold step at h
  split at h
  · cases h
    exact hs
  · exact (exec_kept h).canonical hs

end Sys2Proof.Machine
end

