-- ==== Sys2Proof/Proofs/Requests.lean ====
section
/-! PROOF. The intake of a request (R32 to R35, R38, R39, R43 to R46, R53): the order of its checks, its SEQ, its length, its one
answer. -/
namespace Sys2Proof.Machine

/-- A request row delivers its packet to the body of its opcode (R39). -/
theorem exec_request {i : Instr} {r : Req} {g o : Nat} (hi : reqOf i = some (r, g, o)) (s : State) :
    exec i s = .next (s.opcode r g o (bodyOf g o)) := by
  cases i <;> cases hi
  all_goals rfl

/-! The checks before the request is one for this device (R32, R49, R53). -/

section
variable {s : State} {r : Req} {g o : Nat} {b : Body}

theorem opcode_off (hon : s.tpOn r.tp.val = false) : s.opcode r g o b = s := by
  simp [State.opcode, State.deliver, hon]

theorem opcode_tooLong (hon : s.tpOn r.tp.val = true) (hfit : s.fits r.tp.val (reqPkt r g o) = false) :
    s.opcode r g o b = s.discard r.tp.val false := by
  simp [State.opcode, State.deliver, hon, hfit]

/-- A packet that its transport carries is sorted by its address alone: TYPE is 0 and VER is 1 in a request row. -/
theorem opcode_carried (hon : s.tpOn r.tp.val = true) (hfit : s.fits r.tp.val (reqPkt r g o) = true) :
    s.opcode r g o b =
      if r.dst = 0xFFF#12 then s.cmdCast r.tp.val (reqPkt r g o)
      else if r.dst ≠ 0#12 ∧ r.dst.toNat ≠ s.ownAddr then s.forward r.tp.val r.ep (reqPkt r g o)
      else s.request r.tp.val r.ep (reqPkt r g o) b := by
  have hver : (reqPkt r g o).ver = 1 := rfl
  unfold State.opcode State.deliver
  simp [hon, hfit, hver, reqPkt_type, reqPkt_addr, ← BitVec.toNat_inj]

theorem opcode_everywhere (hon : s.tpOn r.tp.val = true) (hfit : s.fits r.tp.val (reqPkt r g o) = true)
    (hcast : r.dst = 0xFFF#12) : s.opcode r g o b = s.cmdCast r.tp.val (reqPkt r g o) := by
  rw [opcode_carried hon hfit, if_pos hcast]

theorem opcode_elsewhere (hon : s.tpOn r.tp.val = true) (hfit : s.fits r.tp.val (reqPkt r g o) = true)
    (hcast : r.dst ≠ 0xFFF#12) (hzero : r.dst ≠ 0#12) (hown : r.dst.toNat ≠ s.ownAddr) :
    s.opcode r g o b = s.forward r.tp.val r.ep (reqPkt r g o) := by
  rw [opcode_carried hon hfit, if_neg hcast, if_pos ⟨hzero, hown⟩]

theorem opcode_here (hon : s.tpOn r.tp.val = true) (hfit : s.fits r.tp.val (reqPkt r g o) = true)
    (hcast : r.dst ≠ 0xFFF#12) (hhere : r.dst = 0#12 ∨ r.dst.toNat = s.ownAddr) :
    s.opcode r g o b = s.request r.tp.val r.ep (reqPkt r g o) b := by
  rw [opcode_carried hon hfit, if_neg hcast, if_neg (fun h => hhere.elim h.1 h.2)]

end

/-! The checks on a request for this device (R34, R35, R38, R43 to R46). -/

/-- What a request whose SEQ is in class `c` does (R34, R35). -/
def State.bySeq (s : State) (tp ep : Nat) (p : Pkt) (x : Option Sess) (b : Body) : SeqClass → State
  | .repeatOut => s
  | .cached a => s.sendBytes tp ep a
  | .stale l => s.refuse tp ep p stSeqStale (leBytes 2 l) true
  | .new => if 32 ≤ s.outCount tp then s.tooMany tp ep p else s.start tp ep p x b

section
variable {s : State} {tp ep : Nat} {p : Pkt} {q : OpInfo} {b : Body} (hq : opInfo p.grp p.op = some q)
include hq

theorem request_badTag (hc : s.sessCheck tp ep p q = .badTag) :
    s.request tp ep p b = (s.authFail tp).refuse tp ep p stAuthFailed [] false := by
  simp [State.request, hq, hc]

theorem request_stop {st : Nat} {d : List Byte} (hc : s.sessCheck tp ep p q = .stop st d) :
    s.request tp ep p b = (s.refuse tp ep p st d true).useFree := by
  simp [State.request, hq, hc]

/-- A request that the session checks let go on is taken by its SEQ, its session used. -/
theorem request_go {x : Option Sess} (hc : s.sessCheck tp ep p q = .go x) :
    s.request tp ep p b = (s.sessUsed x).bySeq tp ep p x b ((s.sessUsed x).seqClass tp ep p.seq) := by
  unfold State.request
  simp only [hq, hc]
  cases x with
  | none =>
    simp only [State.sessUsed]
    cases s.seqClass tp ep p.seq <;> rfl
  | some y =>
    simp only [State.sessUsed]
    generalize State.seqClass _ tp ep p.seq = c
    cases c <;> rfl

end

/-- The same of a request row that is addressed to this device. -/
theorem exec_request_go {i : Instr} {r : Req} {g o : Nat} {s : State} {q : OpInfo} {x : Option Sess} {c : SeqClass}
    (hi : reqOf i = some (r, g, o)) (hon : s.tpOn r.tp.val = true) (hfit : s.fits r.tp.val (reqPkt r g o) = true)
    (hcast : r.dst ≠ 0xFFF#12) (hhere : r.dst = 0#12 ∨ r.dst.toNat = s.ownAddr) (hq : opInfo g o = some q)
    (hc : s.sessCheck r.tp.val r.ep (reqPkt r g o) q = .go x) (hseq : (s.sessUsed x).seqClass r.tp.val r.ep r.seq.toNat = c) :
    exec i s = .next ((s.sessUsed x).bySeq r.tp.val r.ep (reqPkt r g o) x (bodyOf g o) c) := by
  rw [exec_request hi, opcode_here hon hfit hcast hhere, request_go hq hc, ← hseq]
  rfl

/-- Settles O11, check by check: each answers before the ones behind it are asked (the order is log 44, DEDUCED). -/
theorem requestsAreCheckedInOrder : Obligations.RequestsAreCheckedInOrder := by
  unfold Obligations.RequestsAreCheckedInOrder
  refine ⟨?off, ?tooLong, ?everywhere, ?elsewhere, ?badTag, ?stop, ?repeatOut, ?cached, ?stale, ?full⟩
  case off =>
    intro i r g o s hi hon
    rw [exec_request hi, opcode_off hon]
  case tooLong =>
    intro i r g o s hi hon hfit
    rw [exec_request hi, opcode_tooLong hon hfit]
  case everywhere =>
    intro i r g o s hi hon hfit hcast
    rw [exec_request hi, opcode_everywhere hon hfit hcast]
  case elsewhere =>
    intro i r g o s hi hon hfit hcast hzero hown
    rw [exec_request hi, opcode_elsewhere hon hfit hcast hzero hown]
  case badTag =>
    intro i r g o s q hi hon hfit hcast hhere hq hc
    rw [exec_request hi, opcode_here hon hfit hcast hhere, request_badTag hq hc]
  case stop =>
    intro i r g o s q st d hi hon hfit hcast hhere hq hc
    rw [exec_request hi, opcode_here hon hfit hcast hhere, request_stop hq hc]
  case repeatOut =>
    rintro i r g o s q x _ hi hon hfit hcast hhere hq hc rfl hseq
    exact exec_request_go hi hon hfit hcast hhere hq hc hseq
  case cached =>
    rintro i r g o s q x _ a hi hon hfit hcast hhere hq hc rfl hseq
    exact exec_request_go hi hon hfit hcast hhere hq hc hseq
  case stale =>
    rintro i r g o s q x _ l hi hon hfit hcast hhere hq hc rfl hseq
    exact exec_request_go hi hon hfit hcast hhere hq hc hseq
  case full =>
    rintro i r g o s q x _ hi hon hfit hcast hhere hq hc rfl hseq hfull
    rw [exec_request_go hi hon hfit hcast hhere hq hc hseq, State.bySeq, if_pos hfull]

/-! The opcode's own work. -/

/-- A request row that passes every check runs its opcode's body. -/
theorem exec_started {i : Instr} {r : Req} {g o : Nat} {s s1 : State} {x : Option Sess} (hi : reqOf i = some (r, g, o))
    (h : Started s r g o x s1) : exec i s = .next (bodyOf g o ⟨rkeyOf r, x, r.payload⟩ s1) := by
  rw [exec_request hi, opcode_started h]

theorem exec_of_body {i : Instr} {r : Req} {g o : Nat} {s s1 t : State} {x : Option Sess} (hi : reqOf i = some (r, g, o))
    (h : Started s r g o x s1) (ht : bodyOf g o ⟨rkeyOf r, x, r.payload⟩ s1 = t) : exec i s = .next t := by
  rw [exec_started hi h, ht]

theorem exec_of_fixedLen {i : Instr} {r : Req} {g o n : Nat} {s s1 t : State} {x : Option Sess} {b : Body}
    (hi : reqOf i = some (r, g, o)) (h : Started s r g o x s1) (hb : bodyOf g o = fixedLen n b) (hl : r.payload.length = n)
    (ht : b ⟨rkeyOf r, x, r.payload⟩ s1 = t) : exec i s = .next t := by
  rw [exec_started hi h, hb, fixedLen, if_pos hl, ht]

section
variable {i : Req → Instr} {g o n : Nat} {b : Body} (hi : ∀ r, reqOf (i r) = some (r, g, o))
include hi

theorem exec_badLen (hb : bodyOf g o = fixedLen n b) (r : Req) (s : State) (x : Option Sess) (s1 : State)
    (h : Started s r g o x s1) (hl : r.payload.length ≠ n) : exec (i r) s = .next (s1.badLen (rkeyOf r) n) := by
  rw [exec_started (hi r) h, hb, fixedLen, if_neg hl]

/-- The opcodes of staging look for a token in their way before the length (R422). -/
theorem exec_badLen_unheld (hb : bodyOf g o = peerGuard (fixedLen n b)) (r : Req) (s : State) (x : Option Sess) (s1 : State)
    (h : Started s r g o x s1) (hpeer : s1.peerToken ⟨rkeyOf r, x, r.payload⟩ = none) (hl : r.payload.length ≠ n) :
    exec (i r) s = .next ((s1.takePeer ⟨rkeyOf r, x, r.payload⟩).badLen (rkeyOf r) n) := by
  simp only [exec_started (hi r) h, hb, peerGuard, hpeer, fixedLen, if_neg hl]

end

/-- Settles O12: each body but the two of staging is a `fixedLen`. -/
theorem requestsOfAnotherLengthAreAnsweredBadLength : Obligations.RequestsOfAnotherLengthAreAnsweredBadLength := by
  unfold Obligations.RequestsOfAnotherLengthAreAnsweredBadLength
  repeat refine ⟨exec_badLen (fun _ => rfl) rfl, ?_⟩
  exact ⟨exec_badLen_unheld (fun _ => rfl) rfl, exec_badLen_unheld (fun _ => rfl) rfl⟩

/-! The SEQ of a request (R34). -/

section
variable {s : State} {tp ep seq : Nat} {e : EndPt} (he : s.findEp tp ep = some e)
include he

theorem seqClass_ahead (hd : 1 ≤ (seq + 65536 - e.last) % 65536 ∧ (seq + 65536 - e.last) % 65536 ≤ 32767) :
    s.seqClass tp ep seq = .new := by
  simp [State.seqClass, he, hd]

variable (hd : ¬(1 ≤ (seq + 65536 - e.last) % 65536 ∧ (seq + 65536 - e.last) % 65536 ≤ 32767))
include hd

theorem seqClass_farBehind (hback : 63 < (e.last + 65536 - seq) % 65536) : s.seqClass tp ep seq = .stale e.last := by
  simp only [State.seqClass, he, if_neg hd, if_neg (Nat.not_le.2 hback)]

variable (hback : (e.last + 65536 - seq) % 65536 ≤ 63)
include hback

theorem seqClass_outstanding (ho : (s.findOutst ⟨tp, ep, seq⟩).isSome = true) : s.seqClass tp ep seq = .repeatOut := by
  simp only [State.seqClass, he, if_neg hd, if_pos hback, if_pos ho]

theorem seqClass_kept {b : List Byte} (ho : s.findOutst ⟨tp, ep, seq⟩ = none)
    (hb : e.cache.find? (fun x => x.1 == seq) = some (seq, b)) : s.seqClass tp ep seq = .cached b := by
  simp [State.seqClass, he, hd, hback, ho, hb]

theorem seqClass_forgotten (ho : s.findOutst ⟨tp, ep, seq⟩ = none) (hb : e.cache.find? (fun x => x.1 == seq) = none) :
    s.seqClass tp ep seq = .stale e.last := by
  simp [State.seqClass, he, hd, hback, ho, hb]

end

/-- A SEQ `d` back of the last one lies `2 ^ 16 - d` ahead of it, outside the half range unless `d` passes 32,768. -/
theorem distances_of_behind {last seq d : Nat} (hseq : seq < 65536) (hle : d ≤ 32768) (hd : last = (seq + d) % 65536) :
    ¬(1 ≤ (seq + 65536 - last) % 65536 ∧ (seq + 65536 - last) % 65536 ≤ 32767) ∧ (last + 65536 - seq) % 65536 = d := by
  omega

/-- Settles O13: the classes by the two distances, which the d of the statement gives. -/
theorem sequenceNumbersAreClassifiedByTheHalfRange : Obligations.SequenceNumbersAreClassifiedByTheHalfRange := by
  unfold Obligations.SequenceNumbersAreClassifiedByTheHalfRange
  refine ⟨?unknown, ?ahead, ?outstanding, ?kept, ?forgotten, ?farBehind⟩
  case unknown =>
    intro s tp ep seq he
    simp [State.seqClass, he]
  case ahead =>
    rintro s tp ep seq e he hlast hseq ⟨d, hlow, hhigh, hd⟩
    exact seqClass_ahead he (by omega)
  case outstanding =>
    rintro s tp ep seq e he - hseq ⟨d, hle, hd⟩ ho
    obtain ⟨hahead, hback⟩ := distances_of_behind hseq (by omega) hd
    exact seqClass_outstanding he hahead (hback ▸ hle) ho
  case kept =>
    rintro s tp ep seq e b he - hseq ⟨d, hle, hd⟩ ho hb
    obtain ⟨hahead, hback⟩ := distances_of_behind hseq (by omega) hd
    exact seqClass_kept he hahead (hback ▸ hle) ho hb
  case forgotten =>
    rintro s tp ep seq e he - hseq ⟨d, hle, hd⟩ ho hb
    obtain ⟨hahead, hback⟩ := distances_of_behind hseq (by omega) hd
    exact seqClass_forgotten he hahead (hback ▸ hle) ho hb
  case farBehind =>
    rintro s tp ep seq e he - hseq ⟨d, hlow, hhigh, hd⟩
    obtain ⟨hahead, hback⟩ := distances_of_behind hseq hhigh hd
    exact seqClass_farBehind he hahead (by omega)

/-! The one answer of a request (R34 to R37). -/

theorem accept_of_not_outstanding {s : State} {k : RKey} (h : s.findOutst k = none) : s.accept k = s := by
  unfold State.accept
  rw [h]

theorem accept_of_accepted {s : State} {k : RKey} {q : Outst} (h : s.findOutst k = some q) (ha : q.accepted = true) :
    s.accept k = s := by
  simp [State.accept, h, ha]

theorem findOutst_finish (s : State) (k : RKey) (st : Nat) (pl : List Byte) : (s.finish k st pl).findOutst k = none := by
  cases h : s.findOutst k with
  | none => rw [finish_findOutst s k st pl h, h]
  | some q =>
    simp only [State.finish, h]
    rw [State.findOutst, sendBytes_outst, syncOut_outst, List.find?_eq_none]
    intro y hy
    simpa only [Bool.not_eq_true', Bool.not_eq_true] using (List.mem_filter.1 hy).2

/-- ACCEPTED marks the request that was sent it, and no field that names the request. -/
theorem findOutst_accept {s : State} {k : RKey} {q : Outst} (h : s.findOutst k = some q) (ha : q.accepted = false) :
    (s.accept k).findOutst k = some { q with accepted := true } := by
  simp only [State.accept, h, ha]
  rw [if_neg Bool.false_ne_true, State.findOutst, sendBytes_outst, List.find?_map]
  rw [State.findOutst] at h
  have hsame : ∀ {p : Outst → Bool} {f : Outst → Outst}, (∀ y, p (f y) = p y) → p ∘ f = p := funext
  rw [hsame (fun y => by split <;> rfl), h, Option.map_some, if_pos (List.find?_some h)]

theorem accept_accept (s : State) (k : RKey) : (s.accept k).accept k = s.accept k := by
  cases h : s.findOutst k with
  | none => rw [accept_of_not_outstanding h, accept_of_not_outstanding h]
  | some q =>
    cases ha : q.accepted with
    | true => rw [accept_of_accepted h ha, accept_of_accepted h ha]
    | false => exact accept_of_accepted (findOutst_accept h ha) rfl

/-- Settles O14: `finish` takes the request off the list, and neither answer does anything without it. -/
theorem aRequestIsAnsweredOnce : Obligations.ARequestIsAnsweredOnce := by
  unfold Obligations.ARequestIsAnsweredOnce
  refine ⟨fun s k st pl h => ⟨finish_findOutst s k st pl h, accept_of_not_outstanding h⟩, findOutst_finish,
    fun s k st pl st2 pl2 => ?_⟩
  have hended := findOutst_finish s k st pl
  exact ⟨finish_findOutst _ k st2 pl2 hended, accept_of_not_outstanding hended, accept_accept s k⟩

end Sys2Proof.Machine
end

