-- ==== Sys2Proof/Proofs/Sessions.lean ====
section
/-! PROOF. The opcodes of groups 01 and 02 and the timed events of the Command Engine (R36, R39, R41 to R48, R53). -/
namespace Sys2Proof.Machine

/-! Sessions are opened by a challenge (R43 to R45). -/

/-- The nonces of an endpoint are gone: used, or expired (R44). -/
def State.nonceGone (s : State) (tp ep : Nat) : State :=
  { s with cmd := { s.cmd with nonces := s.cmd.nonces.filter (fun (x : Nonce) => !(x.tp == tp && x.ep == ep)) } }

section
variable {c : Ctx} {s : State} (hl : c.pl.length = 2)
include hl

theorem openChallenge_locked (hlock : s.locked c.key.tp = true) :
    bodyOpenChallenge c s =
      s.finish c.key stLockedOut (leBytes 2 (cdiv (tblGet s.cmd.lockUntil c.key.tp - s.now) 1000000000)) := by
  simp only [bodyOpenChallenge, fixedLen, if_pos hl, if_pos hlock]

variable (hlock : s.locked c.key.tp = false)
include hlock

theorem openChallenge_noClass (hcls : 4 < leAt c.pl 0 1) : bodyOpenChallenge c s = s.badParam c.key 0 := by
  simp [bodyOpenChallenge, fixedLen, hl, hlock, hcls]

theorem openChallenge_offServicePort (hcls : leAt c.pl 0 1 = 4) (hport : c.key.tp ≠ 3) :
    bodyOpenChallenge c s = s.finish c.key stNotPermitted (leBytes 1 4) := by
  simp [bodyOpenChallenge, fixedLen, hl, hlock, hcls, hport]

/-- A class that the port may open turns on its key and on the generator. -/
theorem openChallenge_permitted (hcls : leAt c.pl 0 1 ≤ 4) (hport : leAt c.pl 0 1 ≠ 4 ∨ c.key.tp = 3) :
    bodyOpenChallenge c s =
      if s.classKey (leAt c.pl 1 1) (leAt c.pl 0 1) = none then s.badParam c.key 1
      else if s.flag F.ENCL_STAT_TRNG = false then s.failed c.key 0x0F09
      else
        let n : Nonce :=
          { tp := c.key.tp, ep := c.key.ep, cls := leAt c.pl 0 1, slot := leAt c.pl 1 1, bytes := s.rand 16, at_ := s.now }
        let rest := (s.nonceGone c.key.tp c.key.ep).cmd.nonces
        (State.useFree { s with cmd := { s.cmd with nonces := n :: rest } }).ok c.key n.bytes := by
  have hservice : ¬(leAt c.pl 0 1 = 4 ∧ c.key.tp ≠ 3) := fun h => hport.elim (absurd h.1) (absurd · h.2)
  simp [bodyOpenChallenge, fixedLen, hl, hlock, Nat.not_lt.2 hcls, hservice, State.nonceGone]

end

section
variable {c : Ctx} {s : State} (hl : c.pl.length = 32)
include hl

theorem openResponse_noNonce (hn : s.cmd.nonces.find? (fun (x : Nonce) => x.tp == c.key.tp && x.ep == c.key.ep) = none) :
    bodyOpenResponse c s = ((s.nonceGone c.key.tp c.key.ep).authFail c.key.tp).finish c.key stAuthFailed [] := by
  simp only [bodyOpenResponse, fixedLen, if_pos hl, hn]
  rfl

variable {n : Nonce} (hn : s.cmd.nonces.find? (fun (x : Nonce) => x.tp == c.key.tp && x.ep == c.key.ep) = some n)
include hn

theorem openResponse_noKey (hkey : (s.nonceGone c.key.tp c.key.ep).classKey n.slot n.cls = none) :
    bodyOpenResponse c s = ((s.nonceGone c.key.tp c.key.ep).authFail c.key.tp).finish c.key stAuthFailed [] := by
  rw [State.nonceGone] at hkey
  simp only [bodyOpenResponse, fixedLen, if_pos hl, hn, hkey]
  rfl

/-- With the nonce and the class key at hand, the time and the CMAC decide. -/
theorem openResponse_checked {key : List Byte} (hkey : (s.nonceGone c.key.tp c.key.ep).classKey n.slot n.cls = some key) :
    bodyOpenResponse c s =
      if s.now < n.at_ + 10000000000 ∧
          Config.cmac key (n.bytes ++ c.pl.take 16 ++ leBytes 1 n.cls ++ leBytes 1 c.key.tp) = c.pl.drop 16
        then (s.nonceGone c.key.tp c.key.ep).openSess c n key
        else ((s.nonceGone c.key.tp c.key.ep).authFail c.key.tp).finish c.key stAuthFailed [] := by
  rw [State.nonceGone] at hkey
  simp only [bodyOpenResponse, fixedLen, if_pos hl, hn, hkey]
  rfl

end

/-! Maintenance tokens (R47). -/

section
variable {c : Ctx} {s : State} {y : Sess} (hl : c.pl.length = 3) (hy : c.sess = some y)
include hl hy

theorem maintAcquire_noClass (hcls : 5 < leAt c.pl 0 1) : bodyMaintAcquire c s = s.badParam c.key 0 := by
  simp only [bodyMaintAcquire, fixedLen, if_pos hl, hy, if_pos hcls]

variable (hcls : leAt c.pl 0 1 ≤ 5)
include hcls

theorem maintAcquire_badLease (hlease : leAt c.pl 1 2 < 1 ∨ 3600 < leAt c.pl 1 2) :
    bodyMaintAcquire c s = s.badParam c.key 1 := by
  simp only [bodyMaintAcquire, fixedLen, if_pos hl, hy, if_neg (Nat.not_lt.2 hcls), if_pos hlease]

variable (hlease : ¬(leAt c.pl 1 2 < 1 ∨ 3600 < leAt c.pl 1 2))
include hlease

theorem maintAcquire_blocked {t : Token} (ht : s.maintBlock (leAt c.pl 0 1) = some t) :
    bodyMaintAcquire c s = (s.finish c.key stBusyMaint (s.holder t)).raise 404 := by
  simp only [bodyMaintAcquire, fixedLen, if_pos hl, hy, if_neg (Nat.not_lt.2 hcls), if_neg hlease, ht]

variable (hfree : s.maintBlock (leAt c.pl 0 1) = none)
include hfree

theorem maintAcquire_holder {t : Token} (ht : s.cmd.tokens.find? (fun (t : Token) => t.tp != 7 && t.sess == y.id) = some t) :
    bodyMaintAcquire c s = s.wrongState c.key t.cls := by
  simp only [bodyMaintAcquire, fixedLen, if_pos hl, hy, if_neg (Nat.not_lt.2 hcls), if_neg hlease, hfree, ht]

theorem maintAcquire_granted (ht : s.cmd.tokens.find? (fun (t : Token) => t.tp != 7 && t.sess == y.id) = none) :
    bodyMaintAcquire c s =
      State.ok { s with cmd := { s.cmd with tokens := s.cmd.tokens ++
        [{ cls := leAt c.pl 0 1, tp := y.tp, ep := y.ep, sess := y.id, until_ := s.now + leAt c.pl 1 2 * 1000000000 }] } }
        c.key (leBytes 2 (leAt c.pl 1 2)) := by
  simp only [bodyMaintAcquire, fixedLen, if_pos hl, hy, if_neg (Nat.not_lt.2 hcls), if_neg hlease, hfree, ht]

end

/-- Settles O41, opcode by opcode and then event by event. -/
theorem sessionAndTokenCommandsActAsTheTablesSay : Obligations.SessionAndTokenCommandsActAsTheTablesSay := by
  unfold Obligations.SessionAndTokenCommandsActAsTheTablesSay
  refine ⟨?identify, ?getStatus, ?subscribe, ?resetParam, ?resetFirst, ?resetAgain, ?challengeLocked, ?challengeClass,
    ?challengePort, ?challengeSlot, ?challengeTrng, ?challengeNonce, ?responseNoNonce, ?responseNoKey, ?responseRight,
    ?responseWrong, ?sessionsFull, ?sessionOpened, ?close, ?acquireClass, ?acquireLease, ?acquireBlocked, ?acquireHolder,
    ?acquireGranted, ?release, ?releaseNoSession, ?discardOff, ?discardFraming, ?discardType, ?forwardTooLong, ?forwarded,
    ?notForwarded, ?noTimeout, ?timeout, ?completed, ?completionEarly, ?completionUnknown, ?deadline, ?nonceExpiry,
    ?idleTimeout, ?idleClosed, ?lockoutEnd, ?leaseExpiry, ?leaseUnheld, ?resetDue, ?resetUnasked⟩
  case identify => exact fun r s x s1 h hl => exec_of_fixedLen rfl h rfl hl rfl
  case getStatus => exact fun r s x s1 h hl => exec_of_fixedLen rfl h rfl hl rfl
  case subscribe => exact fun r s x s1 h hl => exec_of_fixedLen rfl h rfl hl rfl
  case resetParam => exact fun r s x s1 h hl hlvl => exec_of_fixedLen rfl h rfl hl (if_pos hlvl)
  case resetFirst =>
    intro r s x s1 h hl hlvl hnone
    refine exec_of_fixedLen rfl h rfl hl ((if_neg (Nat.not_lt.2 hlvl)).trans ?_)
    simp only [hnone]
  case resetAgain =>
    intro r s x s1 v h hl hlvl hsome
    refine exec_of_fixedLen rfl h rfl hl ((if_neg (Nat.not_lt.2 hlvl)).trans ?_)
    simp only [hsome]
  case challengeLocked => exact fun r s x s1 h hl hlock => exec_of_body rfl h (openChallenge_locked hl hlock)
  case challengeClass => exact fun r s x s1 h hl hlock hcls => exec_of_body rfl h (openChallenge_noClass hl hlock hcls)
  case challengePort =>
    exact fun r s x s1 h hl hlock hcls hport =>
      exec_of_body rfl h (openChallenge_offServicePort hl hlock hcls hport)
  case challengeSlot =>
    exact fun r s x s1 h hl hlock hcls hport hkey =>
      exec_of_body rfl h ((openChallenge_permitted hl hlock hcls hport).trans (if_pos hkey))
  case challengeTrng =>
    exact fun r s x s1 q h hl hlock hcls hport hkey htrng =>
      exec_of_body rfl h ((openChallenge_permitted hl hlock hcls hport).trans ((if_neg (by simp [hkey])).trans (if_pos htrng)))
  case challengeNonce =>
    rintro r s x s1 q _ h hl hlock hcls hport hkey htrng rfl
    exact exec_of_body rfl h ((openChallenge_permitted hl hlock hcls hport).trans
      ((if_neg (by simp [hkey])).trans (if_neg (by simp [htrng]))))
  case responseNoNonce =>
    rintro r s x s1 _ h hl rfl hn
    exact exec_of_body rfl h (openResponse_noNonce hl hn)
  case responseNoKey =>
    rintro r s x s1 _ n h hl rfl hn hkey
    exact exec_of_body rfl h (openResponse_noKey hl hn hkey)
  case responseRight =>
    rintro r s x s1 _ n key h hl rfl hn hkey hright
    exact exec_of_body rfl h ((openResponse_checked hl hn hkey).trans (if_pos hright))
  case responseWrong =>
    rintro r s x s1 _ n key h hl rfl hn hkey hwrong
    exact exec_of_body rfl h ((openResponse_checked hl hn hkey).trans (if_neg hwrong))
  case sessionsFull => exact fun s c n key hfull => if_pos hfull
  case sessionOpened =>
    rintro s c n key _ hroom rfl
    exact if_neg (Nat.not_le.2 hroom)
  case close =>
    rintro r s x s1 y h hl rfl
    exact exec_of_fixedLen rfl h rfl hl rfl
  case acquireClass => exact fun r s x s1 y h hl hx hcls => exec_of_body rfl h (maintAcquire_noClass hl hx hcls)
  case acquireLease => exact fun r s x s1 y h hl hx hcls hlease => exec_of_body rfl h (maintAcquire_badLease hl hx hcls hlease)
  case acquireBlocked =>
    exact fun r s x s1 y t h hl hx hcls hlease ht =>
      exec_of_body rfl h (maintAcquire_blocked hl hx hcls (by dsimp only; omega) ht)
  case acquireHolder =>
    exact fun r s x s1 y t h hl hx hcls hlease hfree ht =>
      exec_of_body rfl h (maintAcquire_holder hl hx hcls (by dsimp only; omega) hfree ht)
  case acquireGranted =>
    exact fun r s x s1 y h hl hx hcls hlease hfree ht =>
      exec_of_body rfl h (maintAcquire_granted hl hx hcls (by dsimp only; omega) hfree ht)
  case release =>
    rintro r s x s1 y h hl rfl
    exact exec_of_fixedLen rfl h rfl hl rfl
  case releaseNoSession =>
    rintro r s x s1 h hl rfl
    exact exec_of_fixedLen rfl h rfl hl rfl
  case discardOff => exact fun tp bytes s hon => congrArg Host.Outcome.next (if_pos (by simp [hon]))
  case discardFraming =>
    intro tp bytes s e hon he
    refine congrArg Host.Outcome.next ((if_neg (by simp [hon])).trans ?_)
    cases e <;> simp only [he]
  case discardType =>
    intro tp bytes s hon hsound
    refine congrArg Host.Outcome.next ((if_neg (by simp [hon])).trans ?_)
    simp only [hsound]
  case forwardTooLong =>
    exact fun tp ep bytes s h hfit =>
      congrArg Host.Outcome.next ((if_pos (by simpa [and_assoc] using h)).trans (if_pos (by simp [hfit])))
  case forwarded =>
    exact fun tp ep bytes s h hfit =>
      congrArg Host.Outcome.next ((if_pos (by simpa [and_assoc] using h)).trans (if_neg (by simp [hfit])))
  case notForwarded => exact fun tp ep bytes s h => congrArg Host.Outcome.next (if_neg (by simpa [and_assoc] using h))
  case noTimeout => exact fun k s hnone => congrArg Host.Outcome.next (by simp only [hnone])
  case timeout =>
    rintro k s w _ hw rfl
    exact congrArg Host.Outcome.next (by simp only [hw])
  case completed => exact fun k st payload s q hq ha => congrArg Host.Outcome.next (by simp only [hq, if_pos ha])
  case completionEarly => exact fun k st payload s q hq ha => congrArg Host.Outcome.next (by simp [hq, ha])
  case completionUnknown => exact fun k st payload s hnone => congrArg Host.Outcome.next (by simp only [hnone])
  case deadline => exact fun k s => rfl
  case nonceExpiry => exact fun tp ep s => rfl
  case idleTimeout => exact fun id s y hy => congrArg Host.Outcome.next (if_pos (by simp [hy]))
  case idleClosed => exact fun id s hnone => congrArg Host.Outcome.next (if_neg (by simp [hnone]))
  case lockoutEnd => exact fun tp s => rfl
  case leaseExpiry => exact fun cls s t ht => congrArg Host.Outcome.next (by simp only [ht])
  case leaseUnheld => exact fun cls s hnone => congrArg Host.Outcome.next (by simp only [hnone])
  case resetDue => exact fun s l hl => congrArg Host.Outcome.next (by simp only [hl])
  case resetUnasked => exact fun s hnone => congrArg Host.Outcome.next (by simp only [hnone])

end Sys2Proof.Machine
end

