-- ==== Sys2Proof/Proofs/Transports.lean ====
section
/-! PROOF. Packets as the transports deliver them (R32, R49 to R57), Brineline frames (R172 to R179) and the relay of replies (R53). -/
namespace Sys2Proof.Machine

/-! Delivered bytes (R32, R49). -/

section
variable {s : State} {tp ep : Nat} {b : List Byte}

theorem rxBytes_off (hon : s.tpOn tp = false) : s.rxBytes tp ep b = s := by
  simp [State.rxBytes, hon]

variable (hon : s.tpOn tp = true)
include hon

theorem rxBytes_tooLong (hlen : s.maxPkt tp < b.length) : s.rxBytes tp ep b = s.discard tp false := by
  simp [State.rxBytes, hon, hlen]

variable (hlen : b.length ≤ s.maxPkt tp)
include hlen

theorem rxBytes_badLen (hbad : pktCheck b = some .len) : s.rxBytes tp ep b = s.discard tp false := by
  simp [State.rxBytes, hon, Nat.not_lt.2 hlen, hbad]

theorem rxBytes_badFrame {e : PktBad} (he : e ≠ .len) (hbad : pktCheck b = some e) : s.rxBytes tp ep b = s.discard tp true := by
  cases e with
  | len => exact absurd rfl he
  | sync => simp [State.rxBytes, hon, Nat.not_lt.2 hlen, hbad]
  | crc => simp [State.rxBytes, hon, Nat.not_lt.2 hlen, hbad]

theorem rxBytes_sound (hsound : pktCheck b = none) :
    s.rxBytes tp ep b =
      if tp = 4 ∧ ((parsePkt b).type = 1 ∨ (parsePkt b).type = 3) then s.relay ep b
      else s.deliver tp ep (parsePkt b) (bodyOf (parsePkt b).grp (parsePkt b).op) := by
  simp [State.rxBytes, hon, Nat.not_lt.2 hlen, hsound]

end

/-! The relay of replies (R53). -/

section
variable {s : State} {src : Nat} {b : List Byte}

/-- A relayed reply ends its forward entry unless it is ACCEPTED. -/
theorem relay_forwarded {w : Fwd} {out : List Byte} {left : List Fwd}
    (hw : s.cmd.fwd.find? (fun w => w.dst == src && w.seq == (parsePkt b).seq) = some w)
    (hout : out = if s.maxPkt w.tp < b.length then
        (s.replyPkt w.src w.seq w.grp w.op w.sess (parsePkt b).type stBadParam (leBytes 2 (longParam w.grp w.op))
          (s.inSess w.tp w.ep w.sess)).bytes
      else b)
    (hleft : (if (parsePkt b).type = 1 ∧ (parsePkt b).stat = stAccepted then
        s.cmd.fwd.map (fun (x : Fwd) => if x = w then { x with acc := true } else x)
      else s.cmd.fwd.erase w) = left) :
    s.relay src b = (State.syncOut { s with cmd := { s.cmd with fwd := left } } w.tp).sendBytes w.tp w.ep out := by
  subst hout hleft
  simp only [State.relay, hw]

variable (hnone : s.cmd.fwd.find? (fun w => w.dst == src && w.seq == (parsePkt b).seq) = none)
include hnone

theorem relay_ours (hours : ∃ g, s.upd.fwd = some g ∧ g.active.any (fun x => x.1 == src && x.2.1 == (parsePkt b).seq) = true) :
    s.relay src b = s.fwdReply src (parsePkt b).seq (parsePkt b).op (parsePkt b).stat := by
  obtain ⟨g, hg, hany⟩ := hours
  simp only [State.relay, hnone, hg, if_pos hany]

variable (hours : ¬∃ g, s.upd.fwd = some g ∧ g.active.any (fun x => x.1 == src && x.2.1 == (parsePkt b).seq) = true)
include hours

/-- A reply that neither a forwarded request nor FORWARD awaits is the pair's or nobody's (R194). -/
theorem relay_edits :
    s.relay src b =
      if ∃ e, s.ring.hs.edit = some e ∧ src = s.partner ∧ e.seq = (parsePkt b).seq then
        s.hsReply src (parsePkt b).seq (parsePkt b).stat (parsePkt b).payload
      else s.discard 4 false := by
  simp only [State.relay, hnone]
  rw [if_neg]
  · refine if_congr ?_ rfl rfl
    cases s.ring.hs.edit <;> simp
  · cases hf : s.upd.fwd with
    | none => simp
    | some g => exact fun hany => hours ⟨g, hf, hany⟩

end

/-! The host port (R55 to R57). -/

section
variable {s : State} {rdy : Bool} {room : Fin 65537} {tlen : BitVec 16} (h : hostRdy rdy room = true)
include h

theorem hostRead_empty (hq : s.cmd.hostQ = []) :
    exec (.hostRead ⟨rdy, room⟩ tlen) s = .next (s.hostSay (List.replicate tlen.toNat 0#8)) := by
  refine congrArg Host.Outcome.next ((if_neg (by simp [h])).trans ?_)
  simp only [hq]

/-- The oldest packet goes out; it stays queued when it was not read whole. -/
theorem hostRead_oldest {b : List Byte} {q : List (List Byte)} (hq : s.cmd.hostQ = b :: q) :
    exec (.hostRead ⟨rdy, room⟩ tlen) s =
      let t := s.hostSay (fitBytes tlen.toNat b)
      .next (if tlen.toNat < b.length then { t with cmd := { t.cmd with hostProto := true } }
        else { t with cmd := { t.cmd with hostQ := q } }) := by
  refine congrArg Host.Outcome.next ((if_neg (by simp [h])).trans ?_)
  simp only [hq]

end

/-! ISO 15765-2 (R54). -/

section
variable {s : State} {rid : Word} {data : List Byte}

theorem isoRx_unheard (h : s.flag F.CMD_ISOTP_CFG_EN = false ∨ s.tpOn 5 = false ∨ data = [] ∨ s.isoMine rid.toNat = false ∨
      s.canHears (s.f F.CMD_ISOTP_CFG_CHANNEL) = false) : s.isoRx rid data = s :=
  if_pos (by simpa [or_assoc] using h)

variable (h : s.flag F.CMD_ISOTP_CFG_EN = true ∧ s.tpOn 5 = true ∧ data ≠ [] ∧ s.isoMine rid.toNat = true ∧
  s.canHears (s.f F.CMD_ISOTP_CFG_CHANNEL) = true)
include h

/-- A frame that is heard acts by the kind in its first four bits. -/
theorem isoRx_heard :
    s.isoRx rid data =
      if leAt data 0 1 / 16 = 0 then
        let q := if leAt data 0 1 = 0 ∧ 8 < data.length then (leAt data 1 1, data.drop 2) else (leAt data 0 1, data.drop 1)
        if q.1 = 0 ∨ q.2.length < q.1 then s
        else (s.modIso (fun x => { x with rxBusy := false, rx := [], rxLen := 0 })).rxBytes 5 0 (q.2.take q.1)
      else if leAt data 0 1 / 16 = 1 then s.isoFirst (leAt data 0 1 % 16 * 256 + leAt data 1 1) (data.drop 2)
      else if leAt data 0 1 / 16 = 2 then
        if !s.cmd.isotp.rxBusy then s
        else if leAt data 0 1 % 16 = s.cmd.isotp.rxSn then s.isoTake (data.drop 1)
        else s.modIso (fun x => { x with rxBusy := false, rx := [], rxLen := 0 })
      else if leAt data 0 1 / 16 = 3 then s.isoFlow (leAt data 0 1 % 16) (leAt data 1 1)
      else s :=
  if_neg (by simpa [or_assoc] using h)

theorem isoRx_single {q : Nat × List Byte} (hk : leAt data 0 1 / 16 = 0)
    (hq : q = if leAt data 0 1 = 0 ∧ 8 < data.length then (leAt data 1 1, data.drop 2) else (leAt data 0 1, data.drop 1)) :
    s.isoRx rid data =
      if q.1 = 0 ∨ q.2.length < q.1 then s
      else (s.modIso (fun x => { x with rxBusy := false, rx := [], rxLen := 0 })).rxBytes 5 0 (q.2.take q.1) := by
  rw [isoRx_heard h, if_pos hk, hq]

theorem isoRx_first (hk : leAt data 0 1 / 16 = 1) :
    s.isoRx rid data = s.isoFirst (leAt data 0 1 % 16 * 256 + leAt data 1 1) (data.drop 2) := by
  simp [isoRx_heard h, hk]

theorem isoRx_consecutive (hk : leAt data 0 1 / 16 = 2) :
    s.isoRx rid data =
      if !s.cmd.isotp.rxBusy then s
      else if leAt data 0 1 % 16 = s.cmd.isotp.rxSn then s.isoTake (data.drop 1)
      else s.modIso (fun x => { x with rxBusy := false, rx := [], rxLen := 0 }) := by
  simp [isoRx_heard h, hk]

theorem isoRx_flow (hk : leAt data 0 1 / 16 = 3) :
    s.isoRx rid data = s.isoFlow (leAt data 0 1 % 16) (leAt data 1 1) := by
  simp [isoRx_heard h, hk]

theorem isoRx_unknown (hk : 3 < leAt data 0 1 / 16) : s.isoRx rid data = s := by
  rw [isoRx_heard h, if_neg (by omega), if_neg (by omega), if_neg (by omega), if_neg (by omega)]

end

section
variable {who : Who} {value : Word} {s : State} (hok : s.regOk who A.CMD_ISOTP_CFG = true)
include hok

theorem exec_isotpEnable : exec (.isotpEnable who value) s = .next (s.isotpCfg value) :=
  congrArg Host.Outcome.next (regDo_ok hok)

theorem isotpEnable_same
    (hsame : (s.flag F.CMD_ISOTP_CFG_EN && bit value.toNat 4 && s.f F.CMD_ISOTP_CFG_CHANNEL == value.toNat % 16) = true) :
    exec (.isotpEnable who value) s = .next (s.plainKeep A.CMD_ISOTP_CFG value []) := by
  rw [exec_isotpEnable hok, State.isotpCfg, if_pos hsame]

-- `t` is the state with the old claim ended and the new settings stored, the transport still off (R222).
variable {t : State}
  (hsame : (s.flag F.CMD_ISOTP_CFG_EN && bit value.toNat 4 && s.f F.CMD_ISOTP_CFG_CHANNEL == value.toNat % 16) = false)
  (ht : t = (s.isotpOff.plainKeep A.CMD_ISOTP_CFG value [F.CMD_ISOTP_CFG_EN]).setF F.CMD_ISOTP_CFG_EN 0)
include hsame ht

theorem isotpEnable_off (hoff : bit value.toNat 4 = false) : exec (.isotpEnable who value) s = .next t := by
  rw [exec_isotpEnable hok, State.isotpCfg, if_neg (Bool.eq_false_iff.1 hsame), ht, hoff]
  rfl

variable (hen : bit value.toNat 4 = true)
include hen

theorem isotpEnable_reserved (hres : t.canReserved (t.f F.CMD_ISOTP_CFG_CHANNEL) 63 = true) :
    exec (.isotpEnable who value) s = .next (t.conflict (resId 8 (64 * t.f F.CMD_ISOTP_CFG_CHANNEL + 63)) 6 0) := by
  subst ht
  rw [exec_isotpEnable hok, State.isotpCfg, if_neg (Bool.eq_false_iff.1 hsame), if_neg (by simp [hen]), if_pos hres]

variable {u : State} (hres : t.canReserved (t.f F.CMD_ISOTP_CFG_CHANNEL) 63 = false)
include hres

theorem isotpEnable_owned {e : Nat} (hclaim : t.claimAll 6 (isotpIds (t.f F.CMD_ISOTP_CFG_CHANNEL)) = (u, some e)) :
    exec (.isotpEnable who value) s = .next u := by
  subst ht
  rw [exec_isotpEnable hok, State.isotpCfg, if_neg (Bool.eq_false_iff.1 hsame), if_neg (by simp [hen]),
    if_neg (Bool.eq_false_iff.1 hres)]
  simp only [hclaim]

theorem isotpEnable_claimed (hclaim : t.claimAll 6 (isotpIds (t.f F.CMD_ISOTP_CFG_CHANNEL)) = (u, none)) :
    exec (.isotpEnable who value) s = .next (((u.setReg (A.CAN_FILT (t.f F.CMD_ISOTP_CFG_CHANNEL) 1023)
      (toW ((if u.f F.CMD_ISOTP_CFG_IDE = 1 then u.f F.CMD_ISOTP_RXID_ID else u.f F.CMD_ISOTP_RXID_ID % 2 ^ 11) +
        2 ^ 29 * u.f F.CMD_ISOTP_CFG_IDE + 2 ^ 31))).setF (F.CAN_MASK_MASK (t.f F.CMD_ISOTP_CFG_CHANNEL) 1023) 0x1FFFFFFF).setF
      F.CMD_ISOTP_CFG_EN 1) := by
  subst ht
  rw [exec_isotpEnable hok, State.isotpCfg, if_neg (Bool.eq_false_iff.1 hsame), if_neg (by simp [hen]),
    if_neg (Bool.eq_false_iff.1 hres)]
  simp only [hclaim]

end

/-! Command and update frames (R172, R174, R177 to R179). -/

/-- A frame on a link that is UP with the right TAG goes by its destination. -/
theorem brlTagged_good {s : State} {kind l lseq dst src hops bseq : Nat} {pl tag : List Byte}
    (hup : s.linkSt l = 3) (htag : tag = s.brlTag l (brlHead kind lseq dst src hops bseq pl)) :
    s.brlTagged kind l lseq dst src hops bseq pl tag =
      if dst = 0xFFF then
        if (s.brlBroadcast l kind src hops bseq pl).2 then (s.brlBroadcast l kind src hops bseq pl).1.rxBytes 4 src pl
        else (s.brlBroadcast l kind src hops bseq pl).1
      else if dst ≠ 0 ∧ dst = s.ownAddr then if s.flag F.RING_ADDR_CONFLICT then s else s.rxBytes 4 src pl
      else s.brlTransit l kind dst src hops pl := by
  rw [State.brlTagged, if_neg (not_not.2 hup), if_neg (not_not.2 htag)]

/-- Settles O49, transport by transport. The ISO 15765-2 frame formats are the model's (log 61, PRESUMED). -/
theorem transportsDeliverPacketsAsTheRulesSay : Obligations.TransportsDeliverPacketsAsTheRulesSay := by
  unfold Obligations.TransportsDeliverPacketsAsTheRulesSay
  refine ⟨?delivered, ?handed, ?relayed, ?unawaited, ?replyTaken, ?replyNotTaken, ?hostRdy, ?writeNotReady, ?writeOverflow,
    ?write, ?readNotReady, ?readEmpty, ?readShort, ?read, ?poll, ?pollNotReady, ?status, ?udpDropped, ?udp, ?usb,
    ?usbUnconfigured, ?loader, ?noLoader, ?isoUnheard, ?isoSingleBad, ?isoSingle, ?isoFirst, ?isoNoReception, ?isoInOrder,
    ?isoOutOfOrder, ?isoFlow, ?isoUnknown, ?ncrTimeout, ?ncrIdle, ?firstFrame, ?lastBytes, ?enableSame, ?enableOff,
    ?enableReserved, ?enableOwned, ?enableClaimed, ?commandFrame, ?updateFrame, ?bootRequest, ?bootDropped, ?tagged⟩
  case delivered =>
    refine fun s tp ep b => ⟨rxBytes_off, rxBytes_tooLong, rxBytes_badLen, fun e he hon hlen => rxBytes_badFrame hon hlen he,
      fun hon hlen hsound h4 ht => ?_, fun hon hlen hsound ht => ?_⟩
    · rw [rxBytes_sound hon hlen hsound, if_pos ⟨h4, ht⟩]
    · rw [rxBytes_sound hon hlen hsound, if_neg (by tauto)]
  case handed => exact ⟨rfl, fun s r g o b => rfl⟩
  case relayed =>
    exact fun s src b w out hw hout => ⟨fun ht hst => relay_forwarded hw hout (if_pos ⟨ht, hst⟩),
      fun h => relay_forwarded hw hout (if_neg (by tauto))⟩
  case unawaited =>
    refine fun s src b hnone => ⟨relay_ours hnone, fun hours hedits => ?_, fun hours hedits => ?_⟩
    · rw [relay_edits hnone hours, if_pos hedits]
    · rw [relay_edits hnone hours, if_neg hedits]
  case replyTaken => exact fun src bytes s h => congrArg Host.Outcome.next (if_pos (by simpa [and_assoc] using h))
  case replyNotTaken => exact fun src bytes s h => congrArg Host.Outcome.next (if_neg (by simpa [and_assoc] using h))
  case hostRdy => exact fun ready room => by simp [hostRdy]
  case writeNotReady => exact fun rdy room bytes s h => congrArg Host.Outcome.next (if_pos (by simp [h]))
  case writeOverflow =>
    rintro rdy room bytes s _ h hroom rfl
    exact congrArg Host.Outcome.next ((if_neg (by simp [h])).trans (if_pos hroom))
  case write =>
    rintro rdy room bytes s _ h hroom rfl
    exact congrArg Host.Outcome.next ((if_neg (by simp [h])).trans (if_neg (Nat.not_lt.2 hroom)))
  case readNotReady => exact fun rdy room tlen s h => congrArg Host.Outcome.next (if_pos (by simp [h]))
  case readEmpty =>
    rintro rdy room tlen s _ h hq rfl
    exact hostRead_empty h hq
  case readShort =>
    rintro rdy room tlen s b q _ h hq rfl hshort
    exact (hostRead_oldest h hq).trans (congrArg Host.Outcome.next (if_pos hshort))
  case read =>
    rintro rdy room tlen s b q _ h hq rfl hfits
    exact (hostRead_oldest h hq).trans (congrArg Host.Outcome.next (if_neg (Nat.not_lt.2 hfits)))
  case poll =>
    exact fun rdy room s h => congrArg Host.Outcome.next ((if_pos h).trans (by rw [State.hostSay, List.append_nil]))
  case pollNotReady => exact fun rdy room s h => congrArg Host.Outcome.next (if_neg (by simp [h]))
  case status =>
    refine fun s => ⟨fun hq => ?_, fun b q hq => ?_⟩
    · simp only [State.hostStatus, hq]
      rfl
    · simp only [State.hostStatus, hq]
      rfl
  case udpDropped => exact fun eth ep fragment bytes s h => congrArg Host.Outcome.next (if_pos (by simpa using h))
  case udp => exact fun eth ep bytes s h => congrArg Host.Outcome.next (if_neg (by simp [h]))
  case usb => exact fun bytes s h => congrArg Host.Outcome.next (if_pos h)
  case usbUnconfigured => exact fun bytes s h => congrArg Host.Outcome.next (if_neg (by simp [h]))
  case loader => exact fun bytes s h => congrArg Host.Outcome.next (if_pos h)
  case noLoader => exact fun bytes s h => congrArg Host.Outcome.next (if_neg h)
  case isoUnheard => exact fun rid data s h => congrArg Host.Outcome.next (isoRx_unheard h)
  case isoSingleBad =>
    exact fun rid data s q h hk hq hbad => congrArg Host.Outcome.next ((isoRx_single h hk hq).trans (if_pos hbad))
  case isoSingle =>
    exact fun rid data s q h hk hq hone hlen => congrArg Host.Outcome.next ((isoRx_single h hk hq).trans (if_neg (by omega)))
  case isoFirst => exact fun rid data s h hk => congrArg Host.Outcome.next (isoRx_first h hk)
  case isoNoReception =>
    exact fun rid data s h hk hidle => congrArg Host.Outcome.next ((isoRx_consecutive h hk).trans (if_pos (by simp [hidle])))
  case isoInOrder =>
    exact fun rid data s h hk hbusy hsn =>
      congrArg Host.Outcome.next ((isoRx_consecutive h hk).trans ((if_neg (by simp [hbusy])).trans (if_pos hsn)))
  case isoOutOfOrder =>
    exact fun rid data s h hk hbusy hsn =>
      congrArg Host.Outcome.next ((isoRx_consecutive h hk).trans ((if_neg (by simp [hbusy])).trans (if_neg hsn)))
  case isoFlow => exact fun rid data s h hk => congrArg Host.Outcome.next (isoRx_flow h hk)
  case isoUnknown => exact fun rid data s h hk => congrArg Host.Outcome.next (isoRx_unknown h hk)
  case ncrTimeout => exact fun s h => congrArg Host.Outcome.next (if_pos h)
  case ncrIdle => exact fun s h => congrArg Host.Outcome.next (if_neg (by simp [h]))
  case firstFrame => exact fun s n d => ⟨fun h => if_pos h, fun h => if_neg (Nat.not_le.2 h)⟩
  case lastBytes =>
    rintro s d _ rfl hlen
    exact if_pos hlen
  case enableSame => exact fun who value s hok hsame => isotpEnable_same hok hsame
  case enableOff => exact fun who value s t hok hsame ht hoff => isotpEnable_off hok hsame ht hoff
  case enableReserved =>
    rintro who value s t _ hok hsame ht hen rfl hres
    exact isotpEnable_reserved hok hsame ht hen hres
  case enableOwned =>
    rintro who value s t _ u e hok hsame ht hen rfl hres hclaim
    exact isotpEnable_owned hok hsame ht hen hres hclaim
  case enableClaimed =>
    rintro who value s t _ u hok hsame ht hen rfl hres hclaim
    exact isotpEnable_claimed hok hsame ht hen hres hclaim
  case commandFrame => exact fun l lseq dst src hops bseq payload tag s => rfl
  case updateFrame =>
    exact fun l lseq dst src hops bseq payload tag s h => congrArg Host.Outcome.next (if_neg (by simpa using h))
  case bootRequest =>
    exact fun l lseq dst src hops bseq payload tag s h hreq =>
      congrArg Host.Outcome.next ((if_pos (by simpa using h)).trans (if_pos (by simpa using hreq)))
  case bootDropped =>
    exact fun l lseq dst src hops bseq payload tag s h hreq =>
      congrArg Host.Outcome.next ((if_pos (by simpa using h)).trans (if_neg (by simpa using hreq)))
  case tagged =>
    rintro s kind l lseq dst src hops bseq pl tag _ rfl
    refine ⟨fun hdown => if_pos hdown, fun hup htag => ?_, fun hup htag hcast hnew => ?_, fun hup htag hcast hold => ?_,
      fun hup htag hcast hzero hown hconf => ?_, fun hup htag hcast hzero hown hconf => ?_, fun hup htag hcast haway => ?_⟩
    · rw [State.brlTagged, if_neg (not_not.2 hup), if_pos htag]
    · rw [brlTagged_good hup htag, if_pos hcast, if_pos hnew]
    · rw [brlTagged_good hup htag, if_pos hcast, if_neg (by simp [hold])]
    · rw [brlTagged_good hup htag, if_neg hcast, if_pos ⟨hzero, hown⟩, if_neg (by simp [hconf])]
    · rw [brlTagged_good hup htag, if_neg hcast, if_pos ⟨hzero, hown⟩, if_pos hconf]
    · rw [brlTagged_good hup htag, if_neg hcast, if_neg (by tauto)]

end Sys2Proof.Machine
end

