-- ==== Sys2Proof/Proofs/FkWords.lean ====
section
/-! PROOF. The words of FK-32 (R64 to R66): each row is what its word spells, and the word gives the row back. -/
namespace Sys2Proof.Machine

/-- A 16-bit immediate, as the word laws want its bound. -/
theorem imm_lt (i : BitVec 16) : i.toNat < 65536 := i.isLt

/-- A bit address, as the word laws want its bound. -/
theorem addr_lt (x : BitVec 22) : x.toNat < 4194304 := x.isLt

/-! The row that a word spells: what `fkEncode` is undone by. -/

/-- The rows of R70 by their fn. -/
def intRow (c : CoreId) (d a b : Fin 32) (fn : Nat) : Option Instr :=
  [.add c d a b, .adc c d a b, .sub c d a b, .sbc c d a b, .and c d a b, .or c d a b, .xor c d a b, .andn c d a b, .shl c d a b,
    .shr c d a b, .sar c d a b, .ror c d a b, .shli c d a b, .shri c d a b, .sari c d a b, .cmp c a b, .mul c d a b, .mulhu c d a b,
    .mulhs c d a b, .divu c d a b, .divs c d a b, .remu c d a b, .rems c d a b, .min c d a b, .max c d a b, .clz c d a][fn]?

/-- The rows of R78 by their fn. -/
def decRow (c : CoreId) (d a b : Fin 32) (fn : Nat) : Option Instr :=
  [.dadd c d a b, .daddc c d a b, .dsub c d a b, .dsubc c d a b, .dadj c d a, .dcmp c a b, .dshl c d a b, .dshr c d a b, .d2b c d a,
    .b2d c d a][fn]?

/-- The rows of R74 in major 2 by their fn. -/
def sysRow (c : CoreId) (d a : Fin 32) (fn : Nat) : Option Instr :=
  [.jr c a, .jalr c d a, .mfs c d a, .mts c d a, .eret c, .fence c, .wfe c, .brk c, .btw c d, .wtb c a][fn]?

/-- The rows with an immediate, from major 3 on. -/
def immRow (c : CoreId) (d a : Fin 32) (i : BitVec 16) (m : Nat) : Option Instr :=
  [.ab c i, .addi c d a i, .andi c d a i, .ori c d a i, .xori c d a i, .movh c d i, .cmpi c a i, .svc c i, .ldw c d a i, .ldh c d a i,
    .ldhs c d a i, .ldb c d a i, .ldbs c d a i, .stw c d a i, .sth c d a i, .stb c d a i, .ton c d a i, .tof c d a i, .tp c d a i,
    .ctu c d a i, .ctd c d a i][m - 3]?

/-- The rows of R82 in major 0x30 by their sub-operation. -/
def imgRow (c : CoreId) (x : BitVec 22) (sub : Nat) : Option Instr :=
  [.ld c x, .ldn c x, .imgAnd c x, .imgAndn c x, .imgOr c x, .orn c x, .imgXor c x, .st c x, .set c x, .clr c x, .re c x, .fe c x][sub]?

/-- The rows of R82 in major 0x31 by their sub-operation. -/
def stkRow (c : CoreId) (x : BitVec 22) (sub : Nat) : Option Instr :=
  [.rem c x, .fem c x, .push c, .popa c, .popo c, .popx c, .not c][sub]?

/-- The row that a word of core `c` spells, by its major (R66). -/
def fkRow (c : CoreId) (w : Nat) : Option Instr :=
  let m := bits w 31 26
  let d := wFld w 21
  let a := wFld w 16
  let off := BitVec.ofNat 26 w
  let x := BitVec.ofNat 22 w
  if m = 0 then intRow c d a (wFld w 11) (bits w 10 0)
  else if m = 1 then decRow c d a (wFld w 11) (bits w 10 0)
  else if m = 2 then sysRow c d a (bits w 10 0)
  else if m < 0x18 then immRow c d a (BitVec.ofNat 16 w) m
  else if m = 0x18 then some (.b c off)
  else if m = 0x19 then some (.bl c off)
  else if m < 0x2A then some (.bcc c (Fin.ofNat 16 (m - 0x1A)) off)
  else if m = 0x30 then imgRow c x (bits w 25 22)
  else stkRow c x (bits w 25 22)

section
variable {s : State} {c : CoreId} {w : Nat} {f : State → FkRes}

/-- A word that has an effect on the core is run by it. -/
theorem fkDecoded_of_some (h : fkWord c w = some f) : fkDecoded c w = f := by
  funext t
  rw [fkDecoded, h]

/-- A word without an effect on the core is undefined (R65). -/
theorem fkDecoded_of_none (h : fkWord c w = none) : fkDecoded c w = fun t => .exc t excUndef := by
  funext t
  rw [fkDecoded, h]

theorem next_of_word (h : fkWord c w = some f) :
    (Host.Outcome.next (s.fkRun c f) : Host.Outcome State Fault Refusal) = .next (s.fkRun c (fkDecoded c w)) := by
  rw [fkDecoded_of_some h]

/-- A row of a Pan alone is undefined on the Steward, and so is its word (R60, R61). -/
theorem next_of_panWord {g : PanId → State → FkRes} (hf : f = fkPan c g) (hm : wPanOnly (bits w 31 26) = true)
    (hw : c ≠ .steward → fkWord c w = some f) :
    (Host.Outcome.next (s.fkRun c f) : Host.Outcome State Fault Refusal) = .next (s.fkRun c (fkDecoded c w)) := by
  by_cases hc : c = .steward
  · cases hc
    rw [hf, fkDecoded_of_none (by simp [fkWord, hm])]
    rfl
  · exact next_of_word (hw hc)

end

/-- The row that a word spells is the one that it encodes. -/
theorem fkRow_of_fkEncode {i : Instr} {c : CoreId} {w : Nat} (h : fkEncode i = some (c, w)) : fkRow c w = some i := by
  cases i
  case add | adc | sub | sbc | and | or | xor | andn | shl | shr | sar | ror | shli | shri | sari | cmp | mul | mulhu | mulhs | divu | divs
      | remu | rems | min | max | clz =>
    cases h
    simp [fkRow, intRow, major_fkF0, rd_fkF0, ra_fkF0, rb_fkF0, fn_fkF0]
  case dadd | daddc | dsub | dsubc | dadj | dcmp | dshl | dshr | d2b | b2d =>
    cases h
    simp [fkRow, decRow, major_fkF0, rd_fkF0, ra_fkF0, rb_fkF0, fn_fkF0]
  case jr | jalr | mfs | mts | eret | fence | wfe | brk | btw | wtb =>
    cases h
    simp [fkRow, sysRow, major_fkF0, rd_fkF0, ra_fkF0, fn_fkF0]
  case ab | addi | andi | ori | xori | movh | cmpi | svc | ldw | ldh | ldhs | ldb | ldbs | stw | sth | stb | ton | tof | tp | ctu | ctd =>
    cases h
    simp [fkRow, immRow, major_fkF1, rd_fkF1, ra_fkF1, imm_fkF1, imm_lt]
  case b | bl =>
    cases h
    simp [fkRow, major_fkF2, off_fkF2]
  case bcc c cond off =>
    cases h
    fin_cases cond
    all_goals simp [fkRow, major_fkF2, off_fkF2, -Fin.ofNat_eq_cast]
  case ld | ldn | imgAnd | imgAndn | imgOr | orn | imgXor | st | set | clr | re | fe =>
    cases h
    simp [fkRow, imgRow, major_fkF3, addr_lt, sub_fkF3, addr_fkF3]
  case rem | fem | push | popa | popo | popx | not =>
    cases h
    simp [fkRow, stkRow, major_fkF3, addr_lt, sub_fkF3, addr_fkF3]
  all_goals cases h

/-- A row has the effect that its word has when it is decoded (R64 to R66). -/
theorem exec_fkEncode {i : Instr} {c : CoreId} {w : Nat} (h : fkEncode i = some (c, w)) (s : State) :
    exec i s = .next (s.fkRun c (fkDecoded c w)) := by
  cases i
  case add | adc | sub | sbc | and | or | xor | andn | shl | shr | sar | ror | shli | shri | sari | cmp | mul | mulhu | mulhs | divu | divs
      | remu | rems | min | max | clz =>
    cases h
    exact next_of_word (by simp [fkWord, wPanOnly, wInt, wIf, major_fkF0, rd_fkF0, ra_fkF0, rb_fkF0, fn_fkF0])
  case dadd | daddc | dsub | dsubc | dadj | dcmp | dshl | dshr | d2b | b2d =>
    cases h
    exact next_of_word (by simp [fkWord, wPanOnly, wDec, wIf, major_fkF0, rd_fkF0, ra_fkF0, rb_fkF0, fn_fkF0])
  case jr | jalr | mfs | mts | eret | fence | wfe | brk | btw | wtb =>
    cases h
    exact next_of_word (by simp [fkWord, wPanOnly, wSys, wIf, major_fkF0, rd_fkF0, ra_fkF0, rb_fkF0, fn_fkF0])
  case ab c i =>
    cases h
    by_cases hi : 0 < i.toNat ∧ i.toNat < 16
    · exact next_of_word (by simp [fkWord, wPanOnly, wImm, wIf, major_fkF1, rd_fkF1, ra_fkF1, imm_fkF1, imm_lt, hi])
    · rw [fkDecoded_of_none (by simp [fkWord, wPanOnly, wImm, wIf, major_fkF1, rd_fkF1, ra_fkF1, imm_fkF1, imm_lt]; omega),
        ← show fkAb c i = fun t => .exc t excUndef from funext fun t => if_pos (by omega)]
      rfl
  case addi | andi | ori | xori | movh | cmpi | svc | ldw | ldh | ldhs | ldb | ldbs | stw | sth | stb =>
    cases h
    exact next_of_word (by simp [fkWord, wPanOnly, wImm, wIf, major_fkF1, rd_fkF1, ra_fkF1, imm_fkF1, imm_lt])
  case ton | tof | tp | ctu | ctd =>
    cases h
    refine next_of_panWord rfl (by simp [major_fkF1, imm_lt, wPanOnly]) fun hc => ?_
    simp [fkWord, wPanOnly, wImm, major_fkF1, rd_fkF1, ra_fkF1, imm_fkF1, imm_lt, hc]
  case b | bl =>
    cases h
    exact next_of_word (by simp [fkWord, wPanOnly, wImm, major_fkF2, off_fkF2])
  case bcc c cond off =>
    cases h
    fin_cases cond
    all_goals exact next_of_word (by simp [fkWord, wPanOnly, wImm, major_fkF2, off_fkF2, -Fin.ofNat_eq_cast])
  case ld | ldn | imgAnd | imgAndn | imgOr | orn | imgXor | st | set | clr | re | fe =>
    cases h
    refine next_of_panWord rfl (by simp [major_fkF3, addr_lt, wPanOnly]) fun hc => ?_
    simp [fkWord, wPanOnly, wImg, major_fkF3, addr_lt, sub_fkF3, addr_fkF3, hc]
  case rem | fem | push | popa | popo | popx | not =>
    cases h
    refine next_of_panWord rfl (by simp [major_fkF3, addr_lt, wPanOnly]) fun hc => ?_
    simp [fkWord, wPanOnly, wStk, wIf, major_fkF3, addr_lt, sub_fkF3, addr_fkF3, noAddr_fkF3, hc]
  all_goals cases h

/-- A word has 32 bits (R64). -/
theorem fkEncode_lt {i : Instr} {c : CoreId} {w : Nat} (h : fkEncode i = some (c, w)) : w < 2 ^ 32 := by
  cases i <;> cases h
  all_goals
    simp only [fkF0, fkF1, fkF2, fkF3]
    omega

/-- Settles O7: a word is decoded to the effect of its row, and gives the row back. -/
theorem everyFkInstructionIsWhatItsWordSpells : Obligations.EveryFkInstructionIsWhatItsWordSpells := by
  unfold Obligations.EveryFkInstructionIsWhatItsWordSpells
  refine ⟨fun i c w h => ⟨fkEncode_lt h, exec_fkEncode h⟩, fun i j c w hi hj => ?_⟩
  have hrow := (fkRow_of_fkEncode hi).symm.trans (fkRow_of_fkEncode hj)
  exact Option.some.inj hrow

end Sys2Proof.Machine
end

