-- ==== Sys2Proof/Proofs/FkFlags.lean ====
section
/-! PROOF. The general registers and the flags of FK-32 (R60, R71): fields of PSR, additions and subtractions, shifts bit for bit. -/
namespace Sys2Proof.Machine

/-! The fields of PSR (R62): what a field reads after a field is put. -/

section
variable (k : FkCore) (v : Nat)

theorem setPsr_toNat {hi lo : Nat} (h : hi < 32) (hl : lo ≤ hi + 1) : (k.setPsr hi lo v).psr.toNat = putBits k.psr.toNat hi lo v := by
  rw [FkCore.setPsr, toW_toNat, Nat.mod_eq_of_lt (putBits_lt _ _ _ _ k.psr.isLt h hl)]

theorem psrBits_setPsr_same {hi lo : Nat} (h : hi < 32) (hl : lo ≤ hi + 1) :
    (k.setPsr hi lo v).psrBits hi lo = v % 2 ^ (hi + 1 - lo) := by
  rw [FkCore.psrBits, setPsr_toNat k v h hl, bits_putBits _ _ _ _ hl]

/-- A field beside the one that is put keeps its value. -/
theorem psrBits_setPsr_other {hi lo h l : Nat} (hb : hi < 32) (hl : lo ≤ hi + 1) (hd : h < lo ∨ hi < l) :
    (k.setPsr hi lo v).psrBits h l = k.psrBits h l := by
  rw [FkCore.psrBits, setPsr_toNat k v hb hl]
  rcases hd with hd | hd
  · exact bits_putBits_below _ _ _ _ _ _ hd hl
  · exact bits_putBits_above _ _ _ _ _ _ hd hl

end

/-! Bits of a number. -/

theorem bit_eq_testBit (x j : Nat) : bit x j = x.testBit j := by
  rw [bit, Nat.testBit_eq_decide_div_mod_eq, beq_eq_decide]

theorem bits_self (x j : Nat) : bits x j j = b2n (x.testBit j) := by
  rw [bits, Nat.add_sub_cancel_left, pow_one, ← Nat.toNat_testBit]
  cases x.testBit j <;> rfl

/-- A bit of a word is the bit of its field. -/
theorem bits_bits {x hi lo j : Nat} (hj : lo + j ≤ hi) : bits (bits x hi lo) j j = bits x (lo + j) (lo + j) := by
  have hw : j < hi + 1 - lo := by omega
  rw [bits_self, bits_self, bits]
  simp [Nat.testBit_mod_two_pow, Nat.testBit_div_two_pow, hw, Nat.add_comm]

/-- A bit of a field that is put is the bit of the value. -/
theorem bits_putBits_inside {x hi lo v j : Nat} (hj : lo + j ≤ hi) : bits (putBits x hi lo v) (lo + j) (lo + j) = bits v j j := by
  have hw : j < hi + 1 - lo := by omega
  rw [← bits_bits hj, bits_putBits _ _ _ _ (by omega), bits_self, bits_self, Nat.testBit_mod_two_pow]
  simp [hw]

theorem b2n_mod_two (b : Bool) : b2n b % 2 = b2n b := by cases b <;> rfl

theorem b2n_lt_two (b : Bool) : b2n b < 2 := by cases b <;> decide

/-- Bit `j` of the eight half-carries (R71). -/
theorem bits_hField (f : Nat → Bool) {j : Nat} (hj : j < 8) : bits (hField f) j j = b2n (f j) := by
  have hs : hField f = b2n (f 0) + b2n (f 1) * 2 + b2n (f 2) * 4 + b2n (f 3) * 8 + b2n (f 4) * 16 + b2n (f 5) * 32 +
      b2n (f 6) * 64 + b2n (f 7) * 128 := by
    simp [hField, List.range, List.range.loop]
  have hb := fun i => b2n_lt_two (f i)
  have h0 := hb 0; have h1 := hb 1; have h2 := hb 2; have h3 := hb 3; have h4 := hb 4; have h5 := hb 5; have h6 := hb 6; have h7 := hb 7
  rw [hs, bits]
  interval_cases j <;> omega


/-! N, Z, C, V and H (R71). -/

theorem setNZ_psrBits (k : FkCore) (r : Word) :
    (k.setNZ r).psrBits 0 0 = b2n r.msb ∧ (k.setNZ r).psrBits 1 1 = b2n (r == 0#32) ∧ (k.setNZ r).psrBits 31 2 = k.psrBits 31 2 := by
  unfold FkCore.setNZ
  refine ⟨?_, ?_, ?_⟩
  · rw [psrBits_setPsr_other _ _ (by omega) (by omega) (by omega), psrBits_setPsr_same _ _ (by omega) (by omega)]
    exact b2n_mod_two _
  · rw [psrBits_setPsr_same _ _ (by omega) (by omega)]
    exact b2n_mod_two _
  · rw [psrBits_setPsr_other _ _ (by omega) (by omega) (by omega), psrBits_setPsr_other _ _ (by omega) (by omega) (by omega)]

/-- The flags of R71 as `addFlags` and `subFlags` put them: result, carry, overflow, half-carries. -/
def FkCore.putFlags (k : FkCore) (r : Word) (c v : Bool) (h : Nat → Bool) : FkCore :=
  (((k.setNZ r).setC c).setV v).setH (hField h)

theorem putFlags_psrBits (k : FkCore) (r : Word) (c v : Bool) (h : Nat → Bool) :
    let t := k.putFlags r c v h
    t.psrBits 0 0 = b2n r.msb ∧ t.psrBits 1 1 = b2n (r == 0#32) ∧ t.psrBits 2 2 = b2n c ∧ t.psrBits 3 3 = b2n v ∧
      (∀ j, j < 8 → t.psrBits (4 + j) (4 + j) = b2n (h j)) ∧ t.psrBits 31 12 = k.psrBits 31 12 ∧ t = { k with psr := t.psr } := by
  obtain ⟨hn, hz, hk⟩ := setNZ_psrBits k r
  dsimp only [FkCore.putFlags, FkCore.setH, FkCore.setV, FkCore.setC]
  refine ⟨?_, ?_, ?_, ?_, fun j hj => ?_, ?_, rfl⟩
  · simp [psrBits_setPsr_other, hn]
  · simp [psrBits_setPsr_other, hz]
  · simp [psrBits_setPsr_other, psrBits_setPsr_same, b2n_mod_two]
  · simp [psrBits_setPsr_other, psrBits_setPsr_same, b2n_mod_two]
  · rw [FkCore.psrBits, setPsr_toNat _ _ (by omega) (by omega), bits_putBits_inside (by omega), bits_hField h hj]
  · simp [psrBits_setPsr_other]
    unfold FkCore.setNZ
    simp [psrBits_setPsr_other]

/-- A signed number is out of range where its word reads differently. -/
theorem sOver_eq (i : Int) : sOver i = decide ((BitVec.ofInt 32 i).toInt ≠ i) := by
  rw [sOver, ← Bool.decide_or, BitVec.toInt_ofInt, Int.bmod_def]
  refine decide_eq_decide.2 ?_
  omega

theorem addRes_eq (a b : Word) (ci : Nat) : addRes a b ci = a + b + BitVec.ofNat 32 ci := by
  apply BitVec.eq_of_toNat_eq
  simp [addRes]

theorem subRes_eq (a b : Word) {bi : Nat} (h : bi ≤ 1) : subRes a b bi = a - b - BitVec.ofNat 32 bi := by
  apply BitVec.eq_of_toNat_eq
  simp only [subRes, toW_toNat, BitVec.toNat_sub, BitVec.toNat_ofNat]
  omega

theorem sOver_add (a b : Word) (ci : Nat) : sOver (a.toInt + b.toInt + ci) = decide ((addRes a b ci).toInt ≠ a.toInt + b.toInt + ci) := by
  rw [sOver_eq, addRes_eq, BitVec.ofInt_add, BitVec.ofInt_add, BitVec.ofInt_toInt, BitVec.ofInt_toInt, BitVec.ofInt_natCast]

theorem sOver_sub (a b : Word) (bi : Nat) :
    sOver (a.toInt - b.toInt - bi) = decide ((a - b - BitVec.ofNat 32 bi).toInt ≠ a.toInt - b.toInt - bi) := by
  have he : BitVec.ofInt 32 (a.toInt - b.toInt - bi) = a - b - BitVec.ofNat 32 bi := by
    simp only [sub_eq_add_neg, BitVec.ofInt_add, BitVec.ofInt_neg, BitVec.ofInt_toInt, BitVec.ofInt_natCast]
  rw [sOver_eq, he]

/-! Shifts and rotates bit for bit (R71). -/

section
variable (a : Word) {n i : Nat}

theorem getLsbD_shlRes (hi : i < 32) : (shlRes a n).1.getLsbD i = (decide (n ≤ i) && a.getLsbD (i - n)) := by
  rw [shlRes, toW, BitVec.getLsbD_ofNat, Nat.testBit_mul_two_pow, BitVec.testBit_toNat]
  simp [hi]

theorem getLsbD_shrRes (hi : i < 32) : (shrRes a n).1.getLsbD i = a.getLsbD (i + n) := by
  rw [shrRes, toW, BitVec.getLsbD_ofNat, Nat.testBit_div_two_pow, BitVec.testBit_toNat]
  simp [hi]

theorem getLsbD_sarRes (hi : i < 32) : (sarRes a n).1.getLsbD i = if i + n < 32 then a.getLsbD (i + n) else a.getLsbD 31 := by
  rw [sarRes, BitVec.getLsbD_sshiftRight, Nat.add_comm n]
  rw [decide_eq_false (by omega)]
  rfl

theorem getLsbD_rorRes (hi : i < 32) (hn : n < 32) : (rorRes a n).1.getLsbD i = a.getLsbD ((i + n) % 32) := by
  rw [rorRes, BitVec.getLsbD_rotateRight]
  rw [Bool.cond_decide, Nat.mod_eq_of_lt hn, Nat.add_comm n]
  split
  · rw [Nat.mod_eq_of_lt (by omega)]
  · have hm : i - (32 - n) = (i + n) % 32 := by omega
    simp [hi, hm]
end

theorem rotateRight_zero (a : Word) : a.rotateRight 0 = a := by
  refine BitVec.eq_of_getLsbD_eq fun i hi => ?_
  rw [show a.rotateRight 0 = (rorRes a 0).1 from rfl, getLsbD_rorRes a hi (by omega), Nat.add_zero, Nat.mod_eq_of_lt hi]

theorem bit_toNat (a : Word) (j : Nat) : bit a.toNat j = a.getLsbD j := by
  rw [bit_eq_testBit, BitVec.testBit_toNat]

/-- Settles O23: addition and subtraction put their flags alike, and each shift is read bit for bit. -/
theorem flagsOfAdditionsSubtractionsAndShifts : Obligations.FlagsOfAdditionsSubtractionsAndShifts := by
  unfold Obligations.FlagsOfAdditionsSubtractionsAndShifts
  refine ⟨fun k a b ci _ => ?_, fun k a b bi hbi => ?_, fun k r => ?_, fun a n i hn hi => ?_,
    fun a n h1 h2 => ?_, fun a => ?_, fun k r => ⟨rfl, fun c => rfl⟩⟩
  · obtain ⟨hn, hz, hc, hv, hh, hk, ht⟩ :=
      putFlags_psrBits k (addRes a b ci) (decide (2 ^ 32 ≤ a.toNat + b.toNat + ci)) (sOver (a.toInt + b.toInt + ci))
        (addHalf a.toNat b.toNat ci)
    refine ⟨hn, hz, hc, hv.trans (congrArg b2n (sOver_add a b ci)), hh, (hh 7 (by omega)).trans (Eq.trans ?_ hc.symm), hk, ht⟩
    rw [addHalf, Nat.mod_eq_of_lt a.isLt, Nat.mod_eq_of_lt b.isLt]
  · obtain ⟨hn, hz, hc, hv, hh, hk, ht⟩ :=
      putFlags_psrBits k (subRes a b bi) (decide (a.toNat < b.toNat + bi)) (sOver (a.toInt - b.toInt - bi)) (subHalf a.toNat b.toNat bi)
    have hr := subRes_eq a b hbi
    refine ⟨hn.trans (by rw [hr]; rfl), hz.trans (by rw [hr]), hc, hv.trans (congrArg b2n (sOver_sub a b bi)), hh,
      (hh 7 (by omega)).trans (Eq.trans ?_ hc.symm), hk, ht⟩
    rw [subHalf, Nat.mod_eq_of_lt a.isLt, Nat.mod_eq_of_lt b.isLt]
  · obtain ⟨hn, hz, hk⟩ := setNZ_psrBits k r
    exact ⟨hn, hz, hk, rfl⟩
  · exact ⟨getLsbD_shlRes a hi, getLsbD_shrRes a hi, getLsbD_sarRes a hi, getLsbD_rorRes a hi⟩
  · have h0 : n ≠ 0 := by omega
    exact ⟨by rw [shlRes, if_neg h0, bit_toNat], by rw [shrRes, if_neg h0, bit_toNat], by rw [sarRes, if_neg h0, bit_toNat]; rfl,
      fun _ => by rw [rorRes, if_neg h0, bit_toNat]⟩
  · simp [shlRes, shrRes, sarRes, rorRes, toW, rotateRight_zero]

/-- Settles O24, by the laws of the general registers. -/
theorem generalRegistersReadBackAndWZeroIsZero : Obligations.GeneralRegistersReadBackAndWZeroIsZero := by
  unfold Obligations.GeneralRegistersReadBackAndWZeroIsZero
  refine ⟨fun k v => ⟨rd_zero k, wr_zero k v⟩, fun k r v hr => ⟨rd_wr_same k r v hr, fun q hq => rd_wr_other k r q v hq, ?_⟩⟩
  simp [FkCore.wr, hr]

end Sys2Proof.Machine
end

