-- ==== Sys2Proof/Proofs/FkRows.lean ====
section
/-! PROOF. How a row of FK-32 follows from its effect, and the integer and immediate rows (R70, R72, R73). -/
namespace Sys2Proof.Machine

/-! The rows of FK-32: what a command does follows from what its effect answers on the state that its fetch leaves. -/

section
variable {c : CoreId} {i : Instr} {body : State → FkRes} {cyc : Nat} {p : FkCore → Prop} {f : FkCore → FkCore}

/-- A row whose effect changes the core alone. -/
theorem fkPure_row (he : ∀ s, exec i s = .next (s.fkRun c body)) (hb : body = fkPure c cyc f) : FkPure c i cyc f := by
  intro s s0 h
  rw [he, fkPure_step h (congrFun hb s0)]

/-- The same under a condition on the core. -/
theorem fkPureIf_row (he : ∀ s, exec i s = .next (s.fkRun c body)) (hb : ∀ s, p (s.core c) → body s = fkPure c cyc f s) :
    FkPureIf c i cyc p f := by
  intro s s0 h hp
  rw [he, fkPure_step h (hb s0 hp)]

/-- A row whose effect goes on at a PC of its own. -/
theorem fkGoes_row {n : FkCore → Nat} {tgt : FkCore → Word} (he : ∀ s, exec i s = .next (s.fkRun c body))
    (hb : ∀ s, p (s.core c) → body s = .done (s.setCore c (f (s.core c))) (tgt (s.core c)) (n (s.core c)) []) :
    FkGoes c i p n f tgt := by
  intro s s0 h hp
  rw [he, fkGoes_step h (hb s0 hp)]

/-- A row whose effect raises an exception found at issue. -/
theorem fkRaises_row {e : FkCore → Exc} (he : ∀ s, exec i s = .next (s.fkRun c body))
    (hb : ∀ s, p (s.core c) → body s = .exc s (e (s.core c))) : FkRaises c i p e := by
  intro s s0 h hp
  rw [he, fkRun_of_issues h, fkEffect_exc (hb s0 hp) rfl]

end

/-! Results of the integer instructions (R70). -/

theorem addRes_zero (a b : Word) : addRes a b 0 = a + b := by
  rw [addRes_eq, BitVec.add_zero]

theorem subRes_zero (a b : Word) : subRes a b 0 = a - b := by
  rw [subRes_eq a b (by omega), BitVec.sub_zero]

/-- ADD is the sum without a carry. -/
theorem fkAdd_eq (c : CoreId) (rd ra rb : Fin 32) :
    fkAdd c rd ra rb = fkPure c 1 (fun k => (k.addFlags (k.rd ra) (k.rd rb) 0).wr rd (k.rd ra + k.rd rb)) := by
  simp only [fkAdd, fkAlu, FkCore.alu, aluAdd, addRes_zero]

theorem fkSub_eq (c : CoreId) (rd ra rb : Fin 32) :
    fkSub c rd ra rb = fkPure c 1 (fun k => (k.subFlags (k.rd ra) (k.rd rb) 0).wr rd (k.rd ra - k.rd rb)) := by
  simp only [fkSub, fkAlu, FkCore.alu, aluSub, subRes_zero]

/-- A constant of five bits, taken as a word. -/
theorem toW_val (n : Fin 32) : (toW n.val).toNat = n.val := by
  rw [toW_toNat]
  omega

/-- The effect of a shift by a constant of 0 to 31. -/
theorem fkAluI_shift (c : CoreId) (f : Word → Nat → Word × Option Bool) (rd ra n : Fin 32) :
    fkAluI c 1 (aluShift f 64) rd ra (toW n.val) =
      fkPure c 1 (fun k => (k.shiftFlags (f (k.rd ra) n.val)).wr rd (f (k.rd ra) n.val).1) := by
  have hn : (toW n.val).toNat % 64 = n.val := by
    rw [toW_val]
    omega
  simp only [fkAluI, FkCore.alu, aluShift, hn]

theorem fkDiv_nonzero {c : CoreId} {s : State} {f : Word → Word → Word} {rd ra rb : Fin 32} (h : (s.core c).rd rb ≠ 0#32) :
    fkDiv c f rd ra rb s = fkPure c 36 (fun k => k.wr rd (f (k.rd ra) (k.rd rb))) s := if_neg h

theorem fkDiv_zero {c : CoreId} {s : State} {f : Word → Word → Word} {rd ra rb : Fin 32} (h : (s.core c).rd rb = 0#32) :
    fkDiv c f rd ra rb s = .exc s ⟨7, 0, none, false⟩ := if_pos h

/-- The last index below a bound: the head of the search, or none above it. -/
theorem lastBelow_succ (n : Nat) (p : Nat → Bool) : lastBelow (n + 1) p = if p n then some n else lastBelow n p := by
  simp only [lastBelow, List.range_succ, List.reverse_append, List.reverse_singleton, List.singleton_append, List.find?_cons]
  split <;> simp [*]

theorem lastBelow_eq_some {n i : Nat} {p : Nat → Bool} (h : lastBelow n p = some i) :
    i < n ∧ p i = true ∧ ∀ j, i < j → j < n → p j = false := by
  induction n with
  | zero => cases h
  | succ n ih =>
    rw [lastBelow_succ] at h
    split at h
    · cases h
      exact ⟨by omega, ‹_›, fun j _ _ => by omega⟩
    · obtain ⟨hi, hp, hj⟩ := ih h
      refine ⟨by omega, hp, fun j h1 h2 => ?_⟩
      by_cases hjn : j = n
      · simpa [hjn] using ‹¬p n = true›
      · exact hj j h1 (by omega)

theorem lastBelow_eq_none {n : Nat} {p : Nat → Bool} (h : lastBelow n p = none) : ∀ j, j < n → p j = false := by
  simpa [lastBelow] using h

/-- CLZ counts the zeros above the highest 1 (R70). -/
theorem clzRes_spec (a : Word) : clzRes a ≤ 32 ∧ (∀ i, i < 32 → 31 - i < clzRes a → a.getLsbD i = false) ∧
    (clzRes a < 32 → a.getLsbD (31 - clzRes a) = true) := by
  unfold clzRes
  split
  next i h =>
    obtain ⟨hi, hp, hj⟩ := lastBelow_eq_some h
    simp only [bit_toNat] at hp hj
    exact ⟨by omega, fun j h1 h2 => hj j (by omega) h1, fun _ => by rwa [show 31 - (31 - i) = i by omega]⟩
  next h =>
    have hz := lastBelow_eq_none h
    simp only [bit_toNat] at hz
    exact ⟨le_rfl, fun i hi _ => hz i hi, fun h => absurd h (by omega)⟩

/-- The quotient that a word cannot hold wraps (R72). -/
theorem divs_overflow : BitVec.ofInt 32 (Int.tdiv (0x80000000#32).toInt (0xFFFFFFFF#32).toInt) = 0x80000000#32 := by decide

theorem rems_overflow :
    0x80000000#32 - 0xFFFFFFFF#32 * BitVec.ofInt 32 (Int.tdiv (0x80000000#32).toInt (0xFFFFFFFF#32).toInt) = 0#32 := by
  rw [divs_overflow]
  decide

/-- Settles O16, row by row. -/
theorem integerInstructionsGiveTheirResults : Obligations.IntegerInstructionsGiveTheirResults := by
  unfold Obligations.IntegerInstructionsGiveTheirResults
  refine ⟨?add, ?adc, ?sub, ?sbc, ?and, ?or, ?xor, ?andn, ?shl, ?shr, ?sar, ?ror, ?shli, ?shri, ?sari, ?cmp, ?mul, ?mulhu, ?mulhs, ?min,
    ?max, ?clz, ?divu, ?divuZero, ?divs, ?divsZero, ?remu, ?remuZero, ?rems, ?remsZero, divs_overflow, rems_overflow, clzRes_spec⟩
  case add => exact fun c rd ra rb => fkPure_row (fun _ => rfl) (fkAdd_eq c rd ra rb)
  case sub => exact fun c rd ra rb => fkPure_row (fun _ => rfl) (fkSub_eq c rd ra rb)
  case adc | sbc | and | or | xor | andn | shl | shr | sar | ror | mul | mulhu | mulhs | min | max =>
    exact fun c rd ra rb => fkPure_row (fun _ => rfl) rfl
  case shli | shri | sari =>
    exact fun c rd ra n => fkPure_row (fun _ => rfl) (fkAluI_shift c _ rd ra n)
  case cmp => exact fun c ra rb => fkPure_row (fun _ => rfl) rfl
  case clz => exact fun c rd ra => fkPure_row (fun _ => rfl) rfl
  case divu | divs | remu | rems => exact fun c rd ra rb => fkPureIf_row (fun _ => rfl) (fun s h => fkDiv_nonzero h)
  case divuZero | divsZero | remuZero | remsZero => exact fun c rd ra rb => fkRaises_row (fun _ => rfl) (fun s h => fkDiv_zero h)

/-- Settles O17, row by row. -/
theorem immediateInstructionsGiveTheirResults : Obligations.ImmediateInstructionsGiveTheirResults := by
  unfold Obligations.ImmediateInstructionsGiveTheirResults
  refine ⟨?addi, ?andi, ?ori, ?xori, ?movh, ?cmpi⟩
  case addi | andi | ori | xori => exact fun c rd ra i => fkPure_row (fun _ => rfl) rfl
  case movh => exact fun c rd i => fkPure_row (fun _ => rfl) rfl
  case cmpi => exact fun c ra i => fkPure_row (fun _ => rfl) rfl

end Sys2Proof.Machine
end

