-- ==== Sys2Proof/Proofs/FkDecimal.lean ====
section
/-! PROOF. The decimal rows (R78 to R80). -/
namespace Sys2Proof.Machine

/-! The decimal instructions (R78 to R80). -/

/-- The digits of a packed-decimal word, added up from the lowest. -/
theorem digits_lt (a n : Nat) : (List.range n).foldl (fun x i => x + min 9 (digit a i) * 10 ^ i) 0 < 10 ^ n := by
  induction n with
  | zero => simp
  | succ n ih =>
    rw [List.range_succ, List.foldl_append, List.foldl_cons, List.foldl_nil, pow_succ]
    have hd : min 9 (digit a n) * 10 ^ n ≤ 9 * 10 ^ n := Nat.mul_le_mul_right _ (Nat.min_le_left _ _)
    omega

/-- Eight digits make less than 10^8 (R79). -/
theorem decVal_lt (a : Nat) : decVal a < 100000000 := digits_lt a 8

/-- A decimal difference modulo 10^8, in natural numbers and in integers. -/
theorem decDiff_eq {x y ci : Nat} (hy : y < 100000000) (hc : ci ≤ 1) :
    (x + 200000000 - y - ci) % 100000000 = (((x : Int) - y - ci) % 100000000).toNat := by
  omega

theorem cy_le (k : FkCore) : k.cy ≤ 1 := Nat.le_of_lt_succ (bits_lt _ 2 2)

theorem toW_mod (x : Nat) : toW (x % 2 ^ 32) = toW x := by
  apply BitVec.eq_of_toNat_eq
  simp

/-- Settles O18, row by row. -/
theorem decimalInstructionsGiveTheirResults : Obligations.DecimalInstructionsGiveTheirResults := by
  unfold Obligations.DecimalInstructionsGiveTheirResults
  refine ⟨?dadd, ?daddc, ?dsub, ?dsubc, ?dcmp, ?dadj, ?dshl, ?dshr, ?d2b, ?b2d⟩
  case dadd | daddc =>
    intro c rd ra rb
    refine fkPure_row (fun _ => rfl) ?_
    simp only [fkDadd, fkDaddc, fkAlu, FkCore.alu, aluDec, reduceIte, Bool.false_eq_true]
  case dsub | dsubc =>
    intro c rd ra rb
    refine fkPure_row (fun _ => rfl) ?_
    simp only [fkDsub, fkDsubc, fkAlu, FkCore.alu, aluDec, reduceIte, Bool.false_eq_true, decDiff_eq, decVal_lt, cy_le,
      Nat.zero_le, Nat.cast_zero]
  case dcmp =>
    intro c ra rb
    refine fkPure_row (fun _ => rfl) ?_
    simp only [fkDcmp, fkAlu, FkCore.alu, aluDec, reduceIte, Bool.false_eq_true, decDiff_eq, decVal_lt, Nat.zero_le, Nat.cast_zero]
  case dadj => exact fun c rd ra => fkPure_row (fun _ => rfl) rfl
  case dshl =>
    intro c rd ra n
    refine fkPure_row (fun _ => rfl) ?_
    simp only [fkDshl, fkAluI, FkCore.alu, aluDsh, dshlRes, toW_val, toW_mod]
  case dshr =>
    intro c rd ra n
    refine fkPure_row (fun _ => rfl) ?_
    simp only [fkDshr, fkAluI, FkCore.alu, aluDsh, dshrRes, toW_val]
  case d2b | b2d => exact fun c rd ra => fkPure_row (fun _ => rfl) rfl
end Sys2Proof.Machine
end

