-- ==== Sys2Proof/Proofs/FkControl.lean ====
section
/-! PROOF. Branches, jumps, the bit stack and the rows that act on the core alone (R74 to R76, R82, R84). -/
namespace Sys2Proof.Machine

/-! Branches and jumps (R74, R76). -/

/-- The sixteen conditions of R76. -/
theorem cond_iff (k : FkCore) :
    (k.cond 0 = true ↔ (k.psrBits 1 1 = 1)) ∧
    (k.cond 1 = true ↔ ¬(k.psrBits 1 1 = 1)) ∧
    (k.cond 2 = true ↔ (k.psrBits 2 2 = 1)) ∧
    (k.cond 3 = true ↔ ¬(k.psrBits 2 2 = 1)) ∧
    (k.cond 4 = true ↔ (k.psrBits 0 0 = 1)) ∧
    (k.cond 5 = true ↔ ¬(k.psrBits 0 0 = 1)) ∧
    (k.cond 6 = true ↔ (k.psrBits 3 3 = 1)) ∧
    (k.cond 7 = true ↔ ¬(k.psrBits 3 3 = 1)) ∧
    (k.cond 8 = true ↔ (¬(k.psrBits 2 2 = 1) ∧ ¬(k.psrBits 1 1 = 1))) ∧
    (k.cond 9 = true ↔ ((k.psrBits 2 2 = 1) ∨ (k.psrBits 1 1 = 1))) ∧
    (k.cond 10 = true ↔ ((k.psrBits 0 0 = 1) ↔ (k.psrBits 3 3 = 1))) ∧
    (k.cond 11 = true ↔ ¬((k.psrBits 0 0 = 1) ↔ (k.psrBits 3 3 = 1))) ∧
    (k.cond 12 = true ↔ (¬(k.psrBits 1 1 = 1) ∧ ((k.psrBits 0 0 = 1) ↔ (k.psrBits 3 3 = 1)))) ∧
    (k.cond 13 = true ↔ ((k.psrBits 1 1 = 1) ∨ ¬((k.psrBits 0 0 = 1) ↔ (k.psrBits 3 3 = 1)))) ∧
    (k.cond 14 = true ↔ k.ba = true) ∧
    (k.cond 15 = true ↔ k.ba = false) := by
  simp [FkCore.cond]

/-- Settles O19, row by row. -/
theorem branchesAndJumpsGoToTheirTargets : Obligations.BranchesAndJumpsGoToTheirTargets := by
  unfold Obligations.BranchesAndJumpsGoToTheirTargets
  refine ⟨?b, ?bl, ?taken, ?notTaken, cond_iff, ?jr, ?jalr, ?jrUnaligned, ?jalrUnaligned⟩
  case b | bl => exact fun c off => fkGoes_row (fun _ => rfl) (fun _ _ => rfl)
  case taken | notTaken =>
    refine fun c cond off => fkGoes_row (fun _ => rfl) (fun s h => ?_)
    rw [fkBcc, fkBranch, h]
    rfl
  case jr => exact fun c ra => fkGoes_row (fun _ => rfl) (fun s h => if_neg (not_not.2 h))
  case jalr => exact fun c rd ra => fkGoes_row (fun _ => rfl) (fun s h => if_neg (not_not.2 h))
  case jrUnaligned => exact fun c ra => fkRaises_row (fun _ => rfl) (fun s h => if_pos h)
  case jalrUnaligned => exact fun c rd ra => fkRaises_row (fun _ => rfl) (fun s h => if_pos h)

/-! The bit stack and the instructions of the core itself (R74, R75, R82, R84). -/

/-- A Pan's instruction on a Pan (R61). -/
theorem fkPan_pan {c : CoreId} {p : PanId} (h : c.pan = some p) (f : PanId → State → FkRes) (s : State) : fkPan c f s = f p s := by
  rw [fkPan, h]

section
variable {c : CoreId} {s : State} (hc : c.pan.isSome)
include hc

theorem fkPush_room (hd : (s.core c).depth < 16) :
    fkPush c s = fkPure c 1 (fun k => k.setStk (putBit k.stk k.depth k.ba) (k.depth + 1)) s := by
  obtain ⟨p, hp⟩ := Option.isSome_iff_exists.1 hc
  rw [fkPush, fkPan_pan hp, if_neg (Nat.not_le.2 hd)]
  rfl

theorem fkPush_full (hd : 16 ≤ (s.core c).depth) : fkPush c s = .exc s ⟨6, 1, none, false⟩ := by
  obtain ⟨p, hp⟩ := Option.isSome_iff_exists.1 hc
  rw [fkPush, fkPan_pan hp, if_pos hd]
  rfl

theorem fkPop_some (f : Bool → Bool → Bool) (hd : (s.core c).depth ≠ 0) :
    fkPop c f s = fkPure c 1 (fun k => (k.setStk k.stk (k.depth - 1)).setBa (f (bit k.stk (k.depth - 1)) k.ba)) s := by
  obtain ⟨p, hp⟩ := Option.isSome_iff_exists.1 hc
  rw [fkPop, fkPan_pan hp, if_neg hd]
  rfl

theorem fkPop_empty (f : Bool → Bool → Bool) (hd : (s.core c).depth = 0) : fkPop c f s = .exc s ⟨6, 2, none, false⟩ := by
  obtain ⟨p, hp⟩ := Option.isSome_iff_exists.1 hc
  rw [fkPop, fkPan_pan hp, if_pos hd]
  rfl

theorem fkNot_pan : fkNot c s = fkPure c 1 (fun k => k.setBa (!k.ba)) s := by
  obtain ⟨p, hp⟩ := Option.isSome_iff_exists.1 hc
  rw [fkNot, fkPan_pan hp]

end

theorem toW_b2n (b : Bool) : toW (b2n b) = if b then 1#32 else 0#32 := by cases b <;> rfl

/-- Settles O20, row by row. -/
theorem bitStackAndBlockInstructionsActOnBitst : Obligations.BitStackAndBlockInstructionsActOnBitst := by
  unfold Obligations.BitStackAndBlockInstructionsActOnBitst
  refine ⟨?push, ?popa, ?popo, ?popx, ?not, ?pushFull, ?popaEmpty, ?popoEmpty, ?popxEmpty, ?steward, ?btw, ?wtb, ?ab, ?abUndefined, ?fence,
    ?wfe, ?wfeApplication⟩
  case push => exact fun c => fkPureIf_row (fun _ => rfl) (fun s h => fkPush_room h.1 h.2)
  case popa | popo | popx => exact fun c => fkPureIf_row (fun _ => rfl) (fun s h => fkPop_some h.1 _ h.2)
  case not => exact fun c => fkPureIf_row (fun _ => rfl) (fun s h => fkNot_pan h.1)
  case pushFull => exact fun c => fkRaises_row (fun _ => rfl) (fun s h => fkPush_full h.1 h.2)
  case popaEmpty | popoEmpty | popxEmpty => exact fun c => fkRaises_row (fun _ => rfl) (fun s h => fkPop_empty h.1 _ h.2)
  case steward =>
    intro i hi
    fin_cases hi <;> exact fkRaises_row (fun _ => rfl) (fun _ _ => rfl)
  case btw =>
    refine fun c rd => fkPure_row (fun _ => rfl) ?_
    simp only [fkBtw, toW_b2n]
  case wtb => exact fun c ra => fkPure_row (fun _ => rfl) rfl
  case ab => exact fun c i h1 h2 => fkPure_row (fun _ => rfl) (funext fun s => if_neg (by omega))
  case abUndefined => exact fun c i h => fkRaises_row (fun _ => rfl) (fun s _ => if_pos h)
  case fence => exact fun c => fkPure_row (fun _ => rfl) rfl
  case wfe => exact fun c => fkPureIf_row (fun _ => rfl) (fun s h => if_neg h)
  case wfeApplication => exact fun c => fkRaises_row (fun _ => rfl) (fun s h => if_pos h)

end Sys2Proof.Machine
end

