-- ==== Sys2Proof/Proofs/FkExceptions.lean ====
section
/-! PROOF. Exception entry, the second exception and the event taken (R91 to R95). -/
namespace Sys2Proof.Machine

/-! Exception entry (R91 to R95). -/

/-- The core that an exception enters (R93), with what it leaves in XADDR. -/
def FkCore.entered (k : FkCore) (e : Exc) (a : Word) : FkCore :=
  let k1 := { k.spend 6 with
    xpc := if e.next then k.pc + 4#32 else k.pc
    xpsr := k.psr
    xbit := k.bitst
    xcause := toW (e.vec % 16 + 16 * (e.sub % 256))
    xaddr := a
    bitst := 0#32
    run := .running
    pc := k.xvb + toW (16 * e.vec) }
  (((k1.setPsr 17 16 (excLevel e.vec k.pl)).setPsr 18 18 0).setPsr 19 19 1).setPsr 23 20 0

/-- Entry changes the core that enters, and takes a free value where R91 names no address. -/
theorem enterExc_eq (s : State) (c : CoreId) (e : Exc) :
    s.enterExc c e = s.setCore c ((s.core c).entered e (e.addr.getD (toW s.freeNat))) ∨
    s.enterExc c e = (s.setCore c ((s.core c).entered e (e.addr.getD (toW s.freeNat)))).useFree := by
  by_cases h : e.addr.isSome = true
  · exact .inl (if_pos h)
  · exact .inr (if_neg h)

@[simp] theorem core_useFree (s : State) (c : CoreId) : s.useFree.core c = s.core c := by cases c <;> rfl

theorem core_enterExc (s : State) (c : CoreId) (e : Exc) :
    (s.enterExc c e).core c = (s.core c).entered e (e.addr.getD (toW s.freeNat)) := by
  rcases enterExc_eq s c e with h | h <;> rw [h]
  · exact core_setCore_same s c _
  · rw [core_useFree, core_setCore_same]

/-- Entry touches no register, no memory and no other core. -/
theorem enterExc_frame (s : State) (c : CoreId) (e : Exc) :
    (s.enterExc c e).regs = s.regs ∧ (s.enterExc c e).mem = s.mem ∧ ∀ d, d ≠ c → (s.enterExc c e).core d = s.core d := by
  rcases enterExc_eq s c e with h | h <;> rw [h]
  · exact ⟨setCore_regs s c _, setCore_mem s c _, fun d hd => core_setCore_other s c d _ hd⟩
  · exact ⟨setCore_regs s c _, setCore_mem s c _, fun d hd => (core_useFree _ d).trans (core_setCore_other s c d _ hd)⟩

/-- The fields of PSR after an entry (R91, R93): the level, IE 0, XA 1, ABN 0, flags and DIS kept. -/
theorem entered_psrBits (k : FkCore) (e : Exc) (a : Word) :
    (k.entered e a).psrBits 17 16 = excLevel e.vec k.pl ∧ (k.entered e a).psrBits 18 18 = 0 ∧ (k.entered e a).psrBits 19 19 = 1 ∧
    (k.entered e a).psrBits 23 20 = 0 ∧ (k.entered e a).psrBits 12 0 = k.psrBits 12 0 := by
  have hl : excLevel e.vec k.pl % 4 = excLevel e.vec k.pl := by
    unfold excLevel
    split_ifs <;> rfl
  unfold FkCore.entered
  refine ⟨?_, ?_, ?_, ?_, ?_⟩
  · simp [psrBits_setPsr_other, psrBits_setPsr_same, hl]
  · simp [psrBits_setPsr_other, psrBits_setPsr_same]
  · simp [psrBits_setPsr_other, psrBits_setPsr_same]
  · simp [psrBits_setPsr_same]
  · simp only [psrBits_setPsr_other, Nat.reduceLT, Nat.reduceAdd, Nat.reduceLeDiff, true_or]
    rfl

theorem excLevel_eq (vec pl : Nat) : excLevel vec pl = if vec = 0 ∨ vec = 10 ∨ pl = 2 then 2 else 1 := by
  unfold excLevel
  split_ifs <;> tauto

theorem fkExc_eq_syncExc {s : State} {c : CoreId} {e : Exc} (h : c = .steward ∨ e.vec = 8) : s.fkExc c e = s.syncExc c e := by
  rcases h with rfl | h
  · rfl
  · unfold State.fkExc
    simp only [h]
    cases c.pan <;> rfl

/-- Settles O22, from what an entry changes. -/
theorem exceptionEntrySavesTheCoreAndGoesToTheVector : Obligations.ExceptionEntrySavesTheCoreAndGoesToTheVector := by
  unfold Obligations.ExceptionEntrySavesTheCoreAndGoesToTheVector
  refine ⟨?entry, ?frame, ?second, ?first, fun s c e h => fkExc_eq_syncExc h, ?event⟩
  case entry =>
    intro s c e hv hs k k1
    obtain ⟨hpl, hie, hxa, habn, hflags⟩ := entered_psrBits k e (e.addr.getD (toW s.freeNat))
    rw [← core_enterExc s c e] at hpl hie hxa habn hflags
    have hk : k1 = k.entered e (e.addr.getD (toW s.freeNat)) := core_enterExc s c e
    refine ⟨by rw [hk]; rfl, by rw [hk]; rfl, by rw [hk]; rfl, ?_, fun a ha => by rw [hk, ha]; rfl, by rw [hk]; rfl,
      hpl.trans (excLevel_eq _ _), hie, hxa, habn, hflags, ?_, by rw [hk]; rfl, by rw [hk]; rfl⟩
    · rw [hk]
      show (toW (e.vec % 16 + 16 * (e.sub % 256))).toNat = _
      rw [toW_toNat]
      omega
    · rw [hk]
      show (k.xvb + toW (16 * e.vec)).toNat = _
      rw [BitVec.toNat_add, toW_toNat, Nat.add_mod_mod]
  case frame =>
    intro s c e
    obtain ⟨hr, hm, hc⟩ := enterExc_frame s c e
    exact ⟨hr, fun a => by rw [hm], hc⟩
  case second => exact fun s c e h => if_pos h
  case first => exact fun s c e h => if_neg (by rw [h]; decide)
  case event =>
    intro s c k hk hrun hie hxa habn lvl src he
    have hmay : s.eventMay c = some lvl := by
      unfold State.eventMay
      subst hk
      exact (if_pos ⟨hrun, hie, hxa, habn⟩).trans (by rw [he]; rfl)
    show Host.Outcome.next (s.eventTaken c) = _
    rw [State.eventTaken, hmay]

end Sys2Proof.Machine
end

