-- ==== Sys2Proof/Proofs/FkSystem.lean ====
section
/-! PROOF. The system rows: special registers, a write of PSR bit for bit, the return, SVC, BRK and undefined words (R62 to R65, R74, R93). -/
namespace Sys2Proof.Machine

/-! Special registers (R62, R63, R99). -/

/-- A register that MTS leaves as it is (R62, R99): read-only or reserved. -/
theorem srWrite_ignored {n : Nat} (h : n = 5 ∨ n = 6 ∨ (8 ≤ n ∧ n ≤ 15) ∨ n = 20 ∨ 22 ≤ n)
    (s : State) (c : CoreId) (l : Nat) (w : Word) :
    s.srWrite c l n w = s := by
  unfold State.srWrite
  split
  case h_12 => rfl
  all_goals omega

/-- MTS to a register whose write changes the core alone. -/
theorem fkMts_row {c : CoreId} {sr ra : Fin 32} {f : FkCore → FkCore}
    (hw : ∀ s : State, s.srWrite c (s.core c).pl sr ((s.core c).rd ra) = s.setCore c (f (s.core c))) :
    FkPureIf c (.mts c sr ra) 1 (fun k => srLevel sr.val ≤ k.pl) f := by
  refine fkPureIf_row (body := fkMts c sr ra) (fun _ => rfl) (fun s h => ?_)
  rw [fkMts, if_neg (Nat.not_lt.2 h), hw]
  rfl

/-! A write of PSR, bit for bit (R63). -/

theorem b2n_inj {a b : Bool} (h : b2n a = b2n b) : a = b := by revert a b; decide

theorem testBit_putBits {x hi lo v : Nat} (h : lo ≤ hi) (i : Nat) :
    (putBits x hi lo v).testBit i = if lo ≤ i ∧ i ≤ hi then v.testBit (i - lo) else x.testBit i := by
  apply b2n_inj
  rw [← bits_self]
  split
  next hi' =>
    obtain ⟨j, rfl⟩ := Nat.exists_eq_add_of_le hi'.1
    rw [bits_putBits_inside hi'.2, bits_self, Nat.add_sub_cancel_left]
  next hi' =>
    rw [← bits_self]
    rcases Nat.lt_or_ge i lo with hl | hl
    · exact bits_putBits_below _ _ _ _ _ _ hl (by omega)
    · exact bits_putBits_above _ _ _ _ _ _ (by omega) (by omega)

theorem testBit_bits {x hi lo j : Nat} (h : lo + j ≤ hi) : (bits x hi lo).testBit j = x.testBit (lo + j) := by
  apply b2n_inj
  rw [← bits_self, ← bits_self, bits_bits h]

/-- A field of PSR taken from a word (R63): its bits are the word's. -/
theorem getLsbD_setPsr_field (k : FkCore) (w : Word) {hi lo i : Nat} (h : lo ≤ hi) (hb : hi < 32) :
    (k.setPsr hi lo (bits w.toNat hi lo)).psr.getLsbD i = if lo ≤ i ∧ i ≤ hi then w.getLsbD i else k.psr.getLsbD i := by
  rw [← BitVec.testBit_toNat, setPsr_toNat _ _ hb (by omega), testBit_putBits h]
  split
  next hi' => rw [testBit_bits (by omega), Nat.add_sub_cancel' hi'.1, BitVec.testBit_toNat]
  next => rw [BitVec.testBit_toNat]

/-- The fields of a word that a mask selects, put over those of another. -/
theorem merge_eq {x k w m n : Word} (p : Nat → Prop) [DecidablePred p]
    (hx : ∀ i, i < 32 → x.getLsbD i = if p i then w.getLsbD i else k.getLsbD i)
    (hm : ∀ i, i < 32 → (m.getLsbD i = !decide (p i)) ∧ n.getLsbD i = decide (p i)) : x = (k &&& m) ||| (w &&& n) := by
  refine BitVec.eq_of_getLsbD_eq fun i hi => ?_
  obtain ⟨h1, h2⟩ := hm i hi
  rw [BitVec.getLsbD_or, BitVec.getLsbD_and, BitVec.getLsbD_and, hx i hi, h1, h2]
  by_cases h : p i <;> simp [h]

theorem psrWrite_app (k : FkCore) (w : Word) : (k.psrWrite 0 w.toNat).psr = (k.psr &&& 0xFFFFE000#32) ||| (w &&& 0x00001FFF#32) :=
  merge_eq (fun i => i ≤ 12) (fun i hi => by
    rw [FkCore.psrWrite, if_pos rfl, getLsbD_setPsr_field k w (by omega) (by omega)]
    simp) (by decide)

/-- At runtime and machine privilege, with a level that the level may write. -/
theorem psrWrite_level {k : FkCore} {w : Word} {l : Nat} (hl : l ≠ 0) (h : bits w.toNat 17 16 ≤ if l = 2 then 2 else 1) :
    (k.psrWrite l w.toNat).psr = (k.psr &&& 0xFFF0E000#32) ||| (w &&& 0x000F1FFF#32) :=
  merge_eq (fun i => i ≤ 12 ∨ 16 ≤ i ∧ i ≤ 19) (fun i hi => by
    simp only [FkCore.psrWrite, if_neg hl, if_pos h]
    rw [getLsbD_setPsr_field _ w (by omega) (by omega), getLsbD_setPsr_field _ w (by omega) (by omega),
      getLsbD_setPsr_field k w (by omega) (by omega)]
    grind) (by decide)

theorem psrWrite_otherLevel {k : FkCore} {w : Word} {l : Nat} (hl : l ≠ 0) (h : ¬ bits w.toNat 17 16 ≤ if l = 2 then 2 else 1) :
    (k.psrWrite l w.toNat).psr = (k.psr &&& 0xFFF3E000#32) ||| (w &&& 0x000C1FFF#32) :=
  merge_eq (fun i => i ≤ 12 ∨ 18 ≤ i ∧ i ≤ 19) (fun i hi => by
    simp only [FkCore.psrWrite, if_neg hl, if_neg h]
    rw [getLsbD_setPsr_field _ w (by omega) (by omega), getLsbD_setPsr_field k w (by omega) (by omega)]
    grind) (by decide)

/-! Nothing but PSR changes. -/

theorem setPsr_frame (k : FkCore) (hi lo v : Nat) : k.setPsr hi lo v = { k with psr := (k.setPsr hi lo v).psr } := rfl

theorem psrOnly_trans {k t u : FkCore} (h1 : t = { k with psr := t.psr }) (h2 : u = { t with psr := u.psr }) :
    u = { k with psr := u.psr } := by
  rw [h2, h1]

theorem psrWrite_frame (k : FkCore) (l v : Nat) : k.psrWrite l v = { k with psr := (k.psrWrite l v).psr } := by
  have h1 := setPsr_frame k 12 0 (bits v 12 0)
  have h2 := psrOnly_trans h1 (setPsr_frame _ 19 18 (bits v 19 18))
  have h3 := psrOnly_trans h2 (setPsr_frame _ 17 16 (bits v 17 16))
  dsimp only [FkCore.psrWrite]
  by_cases hl : l = 0
  · simp only [if_pos hl]
    exact h1
  · by_cases hp : bits v 17 16 ≤ if l = 2 then 2 else 1
    · simp only [if_neg hl, if_pos hp]
      exact h3
    · simp only [if_neg hl, if_neg hp]
      exact h2

/-! ERET (R90, R93). -/

/-- A field under a mask that holds all of it. -/
theorem bits_land {x m hi lo : Nat} (h : bits m hi lo = 2 ^ (hi + 1 - lo) - 1) : bits (x &&& m) hi lo = bits x hi lo := by
  unfold bits at *
  rw [← Nat.shiftRight_eq_div_pow, Nat.shiftRight_and_distrib, Nat.and_mod_two_pow, Nat.shiftRight_eq_div_pow,
    Nat.shiftRight_eq_div_pow, h, Nat.and_two_pow_sub_one_eq_mod, Nat.mod_mod]

/-- The return restores PSR, BITST and PC (R93), with a level that PSR takes. -/
theorem eret_eq {s : State} {c : CoreId} (h : bits (s.core c).xpsr.toNat 17 16 ≠ 3) :
    s.eret c = s.setCore c { s.core c with psr := (s.core c).xpsr &&& 0x00FF1FFF#32, bitst := normBitst (s.core c).xbit, pc := (s.core c).xpc } := by
  have hm : bits ((s.core c).xpsr.toNat &&& psrMask) 17 16 = bits (s.core c).xpsr.toNat 17 16 :=
    bits_land (by decide)
  have hw : toW ((s.core c).xpsr.toNat &&& psrMask) = (s.core c).xpsr &&& 0x00FF1FFF#32 := by
    apply BitVec.eq_of_toNat_eq
    rw [toW_toNat, BitVec.toNat_and, Nat.mod_eq_of_lt (Nat.lt_of_le_of_lt Nat.and_le_left (BitVec.isLt _))]
    rfl
  unfold State.eret
  simp only [hm, if_neg h, hw]

/-- An effect that returns, with no mismatch injected. -/
theorem fkEffect_ret {c : CoreId} {s s1 : State} {body : State → FkRes} {cyc : Nat} (h : body s = .ret s1 cyc) (hi : (s.core c).lsInj = false) :
    s.fkEffect c body = s1.fkDone c { (s1.core c).abStep 0 cyc with pc := (s1.core c).pc } := by
  unfold State.fkEffect
  simp only [h, State.fkRetireIn, hi, Bool.false_eq_true, if_false]
  unfold State.fkRetire
  simp only [dbgWp_nil]
  rw [setCore_dbg]
  rfl

theorem fkDone_setCore (s : State) (c : CoreId) (k l : FkCore) : (s.setCore c k).fkDone c l = s.fkDone c l := by
  simp [State.fkDone]

/-- Settles O21, register by register and row by row. -/
theorem systemInstructionsReadWriteAndReturn : Obligations.SystemInstructionsReadWriteAndReturn := by
  unfold Obligations.SystemInstructionsReadWriteAndReturn
  refine ⟨?mfs, fun s c => rfl, ?reads, ?levels, ?mfsPriv, ?mtsPriv, ?bitst, ?xpc, ?xpsr, ?xbit, ?xvb, ?mctrl, ?asid, ?ttb, ?psr, ?ignored,
    ?psrBits, ?eret, ?eretPriv, ?svc, ?brk, ?brkHalt, ?undefined⟩
  case mfs =>
    intro c rd sr s s0 h hl
    exact congrArg Host.Outcome.next (fkGoes_step h (if_neg (Nat.not_lt.2 hl)))
  case reads =>
    refine fun s c => ⟨rfl, rfl, rfl, fun hc => ?_, rfl, rfl, fun n h1 h2 => ?_⟩
    · simp [State.srRead, State.tnowOf, hc]
    · interval_cases n <;> rfl
  case levels =>
    refine ⟨fun n h => ?_, fun n h1 h2 => ?_, rfl, fun n h1 h2 => ?_, fun n h => ?_⟩
    all_goals
      unfold srLevel
      split_ifs <;> omega
  case mfsPriv => exact fun c rd sr => fkRaises_row (fun _ => rfl) (fun s h => if_pos h)
  case mtsPriv => exact fun c sr ra => fkRaises_row (fun _ => rfl) (fun s h => if_pos h)
  case bitst | xpc | xpsr | xbit | xvb | mctrl | asid | ttb | psr => exact fun c ra => fkMts_row (fun s => rfl)
  case ignored =>
    exact fun c sr ra h => fkMts_row (fun s => (srWrite_ignored h s c _ _).trans (setCore_core s c).symm)
  case psrBits =>
    refine fun k w => ⟨psrWrite_app k w, ?_, ?_, fun l => psrWrite_frame k l _⟩
    · split
      · exact psrWrite_level (by omega) ‹_›
      · exact psrWrite_otherLevel (by omega) ‹_›
    · split
      · exact psrWrite_level (by omega) ‹_›
      · exact psrWrite_otherLevel (by omega) ‹_›
  case eret =>
    intro c s s0 k h hk hl
    subst hk
    obtain ⟨h0, h1, h3⟩ := hl
    have hb : fkEret c s0 = .ret (s0.eret c) 4 := if_neg (by tauto)
    show Host.Outcome.next (s.fkRun c (fkEret c)) = _
    rw [fkRun_of_issues h, fkEffect_ret hb h.noInj, eret_eq h3]
    rw [fkDone_setCore, core_setCore_same]
    rfl
  case eretPriv => exact fun c => fkRaises_row (fun _ => rfl) (fun s h => if_pos h)
  case svc => exact fun c imm => fkRaises_row (fun _ => rfl) (fun s _ => rfl)
  case brk =>
    intro c s s0 h hf
    have hb : fkBrk c s0 = .exc s0 ⟨9, 0, none, false⟩ := if_neg (by simp [hf])
    show Host.Outcome.next (s.fkRun c (fkBrk c)) = _
    rw [fkRun_of_issues h, fkEffect_exc hb rfl]
    rfl
  case brkHalt =>
    intro c s s0 h hf
    have hb : fkBrk c s0 = .brk s0 := if_pos hf
    show Host.Outcome.next (s.fkRun c (fkBrk c)) = _
    rw [fkRun_of_issues h, State.fkEffect, hb]
  case undefined =>
    refine fun c w hw => fkRaises_row (body := fun t => .exc t excUndef) (fun s => ?_) (fun s _ => rfl)
    show Host.Outcome.next (s.fkUndefined c w) = _
    rw [State.fkUndefined, hw]
end Sys2Proof.Machine
end

