-- ==== Sys2Proof/Proofs/FkMemory.lean ====
section
/-! PROOF. What translations and reads of memory leave as it was, and what a read answers (R102, R107, R108). -/
namespace Sys2Proof.Machine

/-! What reads of memory and of translation tables leave as it was. -/

theorem eccCorrect_mem (s : State) (w : Nat) : (s.eccCorrect w).mem = s.mem := by simp [State.eccCorrect]

theorem foldl_mem {α : Type} (f : State → α → State) (hf : ∀ s x, (f s x).mem = s.mem) (l : List α) (s : State) :
    (l.foldl f s).mem = s.mem := by
  induction l generalizing s with
  | nil => rfl
  | cons x l ih => rw [List.foldl_cons, ih, hf]

@[simp] theorem eccFix_mem (s : State) (a n : Nat) : (s.eccFix a n).mem = s.mem :=
  foldl_mem (fun s (x : Nat × Nat) => s.eccCorrect x.1) (fun s x => eccCorrect_mem s x.1) _ s

@[simp] theorem eccRecord_mem (s : State) (a st : Nat) : (s.eccRecord a st).mem = s.mem := by
  unfold State.eccRecord
  dsimp only
  split <;> rfl

@[simp] theorem reqReset_mem (s : State) (src : Nat) (l : Option Nat) : (s.reqReset src l).mem = s.mem := rfl

@[simp] theorem critRead_mem (s : State) (a n : Nat) : (s.critRead a n).mem = s.mem := by
  unfold State.critRead
  split
  · rw [reqReset_mem, eccRecord_mem]
  · exact eccFix_mem s a n

@[simp] theorem memRead_mem (s : State) (a n : Nat) : (s.memRead a n).1.mem = s.mem := by
  unfold State.memRead
  split
  iterate 3 rfl
  dsimp only
  split_ifs <;> simp

/-- The value read is that of the bytes at the physical place (R3, R136). -/
theorem memRead_val {s t : State} {a n v : Nat} (h : s.memRead a n = (t, .ok v)) : v = leVal (memBytes s.mem (s.place a) n) := by
  unfold State.memRead at h
  split at h
  iterate 3 cases h
  dsimp only at h
  split_ifs at h
  all_goals cases h
  simp [State.mget]

section
variable {s s1 : State} {m : List Host.Cell}

theorem mem_of_fst {α : Type} {x : State × α} {y : α} (h : x.1.mem = m) (e : x = (s1, y)) : s1.mem = m := by
  rw [e] at h
  exact h

theorem mem_ite_fst {α : Type} {p : Prop} [Decidable p] {x y : State × α} (hx : x.1.mem = m) (hy : y.1.mem = m) :
    (if p then x else y).1.mem = m := by
  split
  · exact hx
  · exact hy

theorem ptRead_mem (h : s.mem = m) (own : Option PanId) (a : Nat) : (s.ptRead own a).1.mem = m := by
  have hr := (memRead_mem s a 4).trans h
  unfold State.ptRead
  extract_lets
  refine mem_ite_fst h ?_
  split
  next heq => exact mem_of_fst hr heq
  next heq => exact mem_of_fst hr heq

theorem walk_mem (h : s.mem = m) (own : Option PanId) (ttb va : Nat) : (s.walk own ttb va).1.mem = m := by
  unfold State.walk
  split
  next heq => exact mem_of_fst (ptRead_mem h _ _) heq
  next heq =>
    have h1 := mem_of_fst (ptRead_mem h _ _) heq
    refine mem_ite_fst h1 (mem_ite_fst ?_ h1)
    split
    next heq => exact mem_of_fst (ptRead_mem h1 _ _) heq
    next heq =>
      have h2 := mem_of_fst (ptRead_mem h1 _ _) heq
      exact mem_ite_fst h2 (mem_ite_fst h2 h2)

/-- A translation reads memory alone (R107, R108). -/
theorem translate_mem (s : State) (c : CoreId) (va : Nat) (kind : AccKind) : (s.translate c va kind).1.mem = s.mem := by
  unfold State.translate
  extract_lets _ t
  have ht : t.mem = s.mem := critRead_mem s _ _
  refine mem_ite_fst rfl ?_
  split
  · exact mem_ite_fst ht ht
  · refine mem_ite_fst ht ?_
    have hw : ((t.spend c (1 + t.freeNat % 54)).useFree).mem = s.mem := (setCore_mem t c _).trans ht
    split
    next heq => exact mem_of_fst (walk_mem hw _ _ _) heq
    next heq =>
      have h1 := mem_of_fst (walk_mem hw _ _ _) heq
      exact mem_ite_fst ((setCore_mem _ c _).trans h1) ((setCore_mem _ c _).trans h1)

end

/-! The memories of R19. -/

/-- An address of a memory that is neither a register nor refused. -/
theorem memRead_ok {s : State} {a n : Nat}
    (hk : memKind a = .sram ∨ memKind a = .itcm .a ∨ memKind a = .itcm .b ∨ memKind a = .dtcm .a ∨ memKind a = .dtcm .b)
    (hup : s.islandUp (addrIsland a) = true) (he : eccHits s.ecc (s.place a) n = []) :
    s.memRead a n = (s, .ok (leVal (memBytes s.mem (s.place a) n))) := by
  have hbad : s.eccBad (s.place a) n = false := by simp [State.eccBad, he]
  have hfix : s.eccFix (s.place a) n = s := by simp [State.eccFix, he]
  unfold State.memRead
  rcases hk with hk | hk | hk | hk | hk <;> simp [hk, hup, hbad, hfix, State.mget]

end Sys2Proof.Machine
end

