-- ==== Sys2Proof/Proofs/FkLoads.lean ====
section
/-! PROOF. The rows that make data accesses, and loads (R69, R73). -/
namespace Sys2Proof.Machine

/-! Loads (R69, R73). -/

/-- An armed watchpoint is a register's bit: a state with the same registers has none either. -/
theorem noWp_of_regs {s t : State} {c : CoreId} (h : t.regs = s.regs) (hw : s.noWp c) : t.noWp c := by
  intro j hj
  have := hw j hj
  unfold State.flag State.f State.reg at this ⊢
  rw [h]
  exact this

theorem accCyc_fst (s : State) (c : CoreId) (pa : Nat) : (s.accCyc c pa).1 = s ∨ (s.accCyc c pa).1 = s.useFree := by
  unfold State.accCyc
  split
  · exact .inl rfl
  · split
    · exact .inl rfl
    · exact .inr rfl
  · split
    · exact .inl rfl
    · exact .inr rfl
  · exact .inr rfl

/-- Counting an access takes a free value at most. -/
theorem accCyc_frame (s : State) (c : CoreId) (pa : Nat) :
    (s.accCyc c pa).1.core c = s.core c ∧ (s.accCyc c pa).1.regs = s.regs ∧ (s.accCyc c pa).1.mem = s.mem := by
  rcases accCyc_fst s c pa with h | h <;> rw [h]
  · exact ⟨rfl, rfl, rfl⟩
  · exact ⟨core_useFree s c, rfl, rfl⟩

section
variable {c : CoreId} {s s0 s1 s2 : State} {i : Instr} {body : State → FkRes}

/-- A row whose effect makes data accesses and completes, with no watchpoint armed. -/
theorem exec_acc {k : FkCore} {pc : Word} {cyc : Nat} {acc : List DataAcc} (he : ∀ s, exec i s = .next (s.fkRun c body))
    (h : Issues c s s0) (hb : body s0 = .done (s1.setCore c k) pc cyc acc) (hw : s1.noWp c) :
    exec i s = .next (s1.fkDone c (k.after (s0.core c) cyc pc)) := by
  rw [he, fkRun_of_issues h, fkEffect_acc hb h.noInj (noWp_of_regs (setCore_regs s1 c k) hw), fkDone_setCore, core_setCore_same]

/-- A row whose effect raises an exception after a walk or an access: an effect that has spent no cycle spends one (R516). -/
theorem exec_exc {e : Exc} (he : ∀ s, exec i s = .next (s.fkRun c body)) (h : Issues c s s0) (hb : body s0 = .exc s1 e)
    (hv : e.vec = 4) :
    exec i s = .next ((if (s1.core c).cyc = (s0.core c).cyc then (s1.skipSpent c).spend c 1 else s1.skipSpent c).fkExc c e) := by
  have hi : ∀ t : State, t.issueOne c e = t.spend c 1 := fun t => if_neg (by omega)
  have hc : (s1.skipSpent c).core c = s1.core c := by cases c <;> rfl
  rw [he, fkRun_of_issues h, State.fkEffect, hb]
  show Host.Outcome.next
    ((if ((s1.skipSpent c).core c).cyc = (s0.core c).cyc then (s1.skipSpent c).issueOne c e else s1.skipSpent c).fkExc c e) = _
  rw [hi, hc]

variable {n : Nat} {ext : Nat → Word} {rd ra : Fin 32} {imm : BitVec 16}

/-- A load that its memory answers. -/
theorem fkLoad_done {pa v : Nat} (ha : ((s0.core c).ea ra imm).toNat % n = 0)
    (ht : s0.translate c ((s0.core c).ea ra imm).toNat .load = (s1, .ok pa)) (hr : s1.busRead (s1.whoCore c) pa n = (s2, .ok v)) :
    fkLoad c n ext rd ra imm s0 = .done ((s2.accCyc c pa).1.setCore c ((s2.core c).wr rd (ext v))) ((s2.core c).pc + 4#32)
      (s2.accCyc c pa).2 [⟨((s0.core c).ea ra imm).toNat, n, false, v⟩] := by
  obtain ⟨hc, _, _⟩ := accCyc_frame s2 c pa
  unfold fkLoad
  simp only [ha, ht, hr, hc, ne_eq, not_true, if_false]

theorem fkLoad_untranslated {e : Nat} (ha : ((s0.core c).ea ra imm).toNat % n = 0)
    (ht : s0.translate c ((s0.core c).ea ra imm).toNat .load = (s1, .error e)) :
    fkLoad c n ext rd ra imm s0 = .exc s1 ⟨4, e, some ((s0.core c).ea ra imm), false⟩ := by
  unfold fkLoad
  simp only [ha, ht, ne_eq, not_true, if_false]
  rfl

theorem fkLoad_busErr {pa : Nat} (ha : ((s0.core c).ea ra imm).toNat % n = 0)
    (ht : s0.translate c ((s0.core c).ea ra imm).toNat .load = (s1, .ok pa)) (hr : s1.busRead (s1.whoCore c) pa n = (s2, .busErr)) :
    fkLoad c n ext rd ra imm s0 = .exc (s2.accSpend c pa) ⟨4, 3, some ((s0.core c).ea ra imm), false⟩ := by
  unfold fkLoad
  simp only [ha, ht, hr, ne_eq, not_true, if_false]
  rfl

/-- A row that is a load: what it leaves when its memory answers. -/
theorem load_row {pa v : Nat} (he : ∀ s, exec i s = .next (s.fkRun c (fkLoad c n ext rd ra imm))) (h : Issues c s s0)
    (ha : ((s0.core c).ea ra imm).toNat % n = 0)
    (ht : s0.translate c ((s0.core c).ea ra imm).toNat .load = (s1, .ok pa)) (hr : s1.busRead (s1.whoCore c) pa n = (s2, .ok v))
    (hw : s2.noWp c) :
    exec i s = .next ((s2.accCyc c pa).1.fkDone c
      (((s2.core c).wr rd (ext v)).after (s0.core c) (s2.accCyc c pa).2 ((s2.core c).pc + 4#32))) := by
  obtain ⟨_, hregs, _⟩ := accCyc_frame s2 c pa
  exact exec_acc he h (fkLoad_done ha ht hr) (noWp_of_regs hregs hw)

end

/-! The state that a completed instruction leaves. -/

theorem core_fkDone (s : State) (c : CoreId) (k : FkCore) : (s.fkDone c k).core c = k := by cases c <;> rfl

theorem fkDone_mem (s : State) (c : CoreId) (k : FkCore) : (s.fkDone c k).mem = s.mem := setCore_mem s c k

theorem fkDone_regs (s : State) (c : CoreId) (k : FkCore) : (s.fkDone c k).regs = s.regs := setCore_regs s c k

theorem setPsr_w (k : FkCore) (hi lo v : Nat) : (k.setPsr hi lo v).w = k.w := rfl

theorem abStep_w (k : FkCore) (n cyc : Nat) : (k.abStep n cyc).w = k.w := by
  unfold FkCore.abStep
  dsimp only
  split
  · rfl
  · rw [setPsr_w]
    rfl

theorem after_w (k1 k : FkCore) (cyc : Nat) (pc : Word) : (k1.after k cyc pc).w = k1.w := abStep_w k1 k.abn cyc

theorem rd_after (k1 k : FkCore) (n : Nat) (pc : Word) (r : Fin 32) : (k1.after k n pc).rd r = k1.rd r := by
  rw [FkCore.rd, FkCore.rd, after_w]

theorem rd_wr (k : FkCore) (r : Fin 32) (v : Word) : (k.wr r v).rd r = if r = 0 then 0 else v := by
  split
  next h => rw [h]; rfl
  next h => exact rd_wr_same k r v h

/-- A bus read of a memory is a read of memory (R4). -/
theorem busRead_mem {s : State} {who : Who} {a n : Nat}
    (hk : memKind a = .sram ∨ memKind a = .itcm .a ∨ memKind a = .itcm .b ∨ memKind a = .dtcm .a ∨ memKind a = .dtcm .b) :
    s.busRead who a n = s.memRead a n := by
  refine if_neg fun h => ?_
  simp [h] at hk

section
variable {c : CoreId} {s s0 s1 s2 : State} {i : Instr} {n : Nat} {ext : Nat → Word} {rd ra : Fin 32} {imm : BitVec 16}

theorem load_row_mem {pa : Nat} (he : ∀ s, exec i s = .next (s.fkRun c (fkLoad c n ext rd ra imm))) (h : Issues c s s0)
    (ha : ((s0.core c).ea ra imm).toNat % n = 0)
    (ht : s0.translate c ((s0.core c).ea ra imm).toNat .load = (s1, .ok pa))
    (hk : memKind pa = .sram ∨ memKind pa = .itcm .a ∨ memKind pa = .itcm .b ∨ memKind pa = .dtcm .a ∨ memKind pa = .dtcm .b)
    (hup : s1.islandUp (addrIsland pa) = true) (hecc : eccHits s1.ecc (s1.place pa) n = []) (hw : s1.noWp c) {v : Nat}
    (hv : v = leVal (memBytes s1.mem (s1.place pa) n)) :
    exec i s = .next ((s1.accCyc c pa).1.fkDone c
      (((s1.core c).wr rd (ext v)).after (s0.core c) (s1.accCyc c pa).2 ((s1.core c).pc + 4#32))) := by
  subst hv
  exact load_row he h ha ht ((busRead_mem hk).trans (memRead_ok hk hup hecc)) hw

/-- With the MMU off an address is physical (R108). -/
theorem translate_off {va : Nat} {kind : AccKind} (h : bit (s0.core c).mctrl.toNat 0 = false) :
    s0.translate c va kind = (s0, .ok va) := by
  unfold State.translate
  simp [h]

theorem load_row_off {a : Nat} (he : ∀ s, exec i s = .next (s.fkRun c (fkLoad c n ext rd ra imm))) (h : Issues c s s0)
    (hea : a = ((s0.core c).ea ra imm).toNat) (ha : a % n = 0) (hoff : bit (s0.core c).mctrl.toNat 0 = false)
    (hk : memKind a = .sram ∨ memKind a = .itcm .a ∨ memKind a = .itcm .b ∨ memKind a = .dtcm .a ∨ memKind a = .dtcm .b)
    (hup : s0.islandUp (addrIsland a) = true) (hecc : s0.ecc = []) (hw : s0.noWp c) :
    ∃ t, exec i s = .next t ∧ ∀ v, v = leVal (memBytes s0.mem (s0.place a) n) → (t.core c).rd rd = (if rd = 0 then 0 else ext v) ∧
      (t.core c).pc = (s0.core c).pc + 4#32 ∧ t.mem = s0.mem ∧ t.regs = s0.regs := by
  subst hea
  refine ⟨_, load_row_mem he h ha (translate_off hoff) hk hup (by simp [hecc, eccHits]) hw rfl, fun v hv => ?_⟩
  subst hv
  obtain ⟨_, hregs, hmem⟩ := accCyc_frame s0 c ((s0.core c).ea ra imm).toNat
  refine ⟨?_, ?_, (fkDone_mem _ _ _).trans hmem, (fkDone_regs _ _ _).trans hregs⟩
  · rw [core_fkDone, rd_after, rd_wr]
  · rw [core_fkDone]
    rfl

end

/-! Each load by its size and its extension (R73). -/

section
variable (c : CoreId) (rd ra : Fin 32) (imm : BitVec 16) (s : State)

theorem exec_ldw : exec (.ldw c rd ra imm) s = .next (s.fkRun c (fkLoad c 4 toW rd ra imm)) := rfl
theorem exec_ldh : exec (.ldh c rd ra imm) s = .next (s.fkRun c (fkLoad c 2 toW rd ra imm)) := rfl
theorem exec_ldhs : exec (.ldhs c rd ra imm) s = .next (s.fkRun c (fkLoad c 2 (sext 16) rd ra imm)) := rfl
theorem exec_ldb : exec (.ldb c rd ra imm) s = .next (s.fkRun c (fkLoad c 1 toW rd ra imm)) := rfl
theorem exec_ldbs : exec (.ldbs c rd ra imm) s = .next (s.fkRun c (fkLoad c 1 (sext 8) rd ra imm)) := rfl

end

/-- Settles O25, form by form: a load that its memory answers, one that memory without an error answers, and the three that fail. -/
theorem loadsWriteTheValueRead : Obligations.LoadsWriteTheValueRead := by
  unfold Obligations.LoadsWriteTheValueRead
  refine ⟨?ldw, ?ldh, ?ldhs, ?ldb, ?ldbs, ?ldwMem, ?ldwOff, ?ldhMem, ?ldhOff, ?ldhsMem, ?ldhsOff, ?ldbMem, ?ldbOff, ?ldbsMem, ?ldbsOff,
    ?unaligned, ?untranslated, ?busErr, translate_mem, ?read⟩
  case ldw => exact fun c rd ra imm s s0 h ha s1 pa ht s2 v hr hw => load_row (exec_ldw c rd ra imm) h ha ht hr hw
  case ldh => exact fun c rd ra imm s s0 h ha s1 pa ht s2 v hr hw => load_row (exec_ldh c rd ra imm) h ha ht hr hw
  case ldhs => exact fun c rd ra imm s s0 h ha s1 pa ht s2 v hr hw => load_row (exec_ldhs c rd ra imm) h ha ht hr hw
  case ldb => exact fun c rd ra imm s s0 h ha s1 pa ht s2 v hr hw => load_row (exec_ldb c rd ra imm) h ha ht hr hw
  case ldbs => exact fun c rd ra imm s s0 h ha s1 pa ht s2 v hr hw => load_row (exec_ldbs c rd ra imm) h ha ht hr hw
  case ldwMem =>
    exact fun c rd ra imm s s0 h ha s1 pa ht hk hup hecc hw v hv => load_row_mem (exec_ldw c rd ra imm) h ha ht hk hup hecc hw hv
  case ldhMem =>
    exact fun c rd ra imm s s0 h ha s1 pa ht hk hup hecc hw v hv => load_row_mem (exec_ldh c rd ra imm) h ha ht hk hup hecc hw hv
  case ldhsMem =>
    exact fun c rd ra imm s s0 h ha s1 pa ht hk hup hecc hw v hv => load_row_mem (exec_ldhs c rd ra imm) h ha ht hk hup hecc hw hv
  case ldbMem =>
    exact fun c rd ra imm s s0 h ha s1 pa ht hk hup hecc hw v hv => load_row_mem (exec_ldb c rd ra imm) h ha ht hk hup hecc hw hv
  case ldbsMem =>
    exact fun c rd ra imm s s0 h ha s1 pa ht hk hup hecc hw v hv => load_row_mem (exec_ldbs c rd ra imm) h ha ht hk hup hecc hw hv
  case ldwOff =>
    exact fun c rd ra imm s s0 h a hea ha hoff hk hup hecc hw => load_row_off (exec_ldw c rd ra imm) h hea ha hoff hk hup hecc hw
  case ldhOff =>
    exact fun c rd ra imm s s0 h a hea ha hoff hk hup hecc hw => load_row_off (exec_ldh c rd ra imm) h hea ha hoff hk hup hecc hw
  case ldhsOff =>
    exact fun c rd ra imm s s0 h a hea ha hoff hk hup hecc hw => load_row_off (exec_ldhs c rd ra imm) h hea ha hoff hk hup hecc hw
  case ldbOff =>
    exact fun c rd ra imm s s0 h a hea ha hoff hk hup hecc hw => load_row_off (exec_ldb c rd ra imm) h hea ha hoff hk hup hecc hw
  case ldbsOff =>
    exact fun c rd ra imm s s0 h a hea ha hoff hk hup hecc hw => load_row_off (exec_ldbs c rd ra imm) h hea ha hoff hk hup hecc hw
  case unaligned =>
    exact fun c rd ra imm => ⟨fkRaises_row (fun _ => rfl) (fun s h => if_pos h), fkRaises_row (fun _ => rfl) (fun s h => if_pos h),
      fkRaises_row (fun _ => rfl) (fun s h => if_pos h)⟩
  case untranslated =>
    exact fun c rd ra imm s s0 h ha s1 e ht => exec_exc (exec_ldw c rd ra imm) h (fkLoad_untranslated ha ht) rfl
  case busErr =>
    exact fun c rd ra imm s s0 h ha s1 pa s2 ht hr => exec_exc (exec_ldw c rd ra imm) h (fkLoad_busErr ha ht hr) rfl
  case read =>
    intro s who a n hk
    rw [busRead_mem hk]
    exact ⟨memRead_mem s a n, fun s2 v h => memRead_val h⟩

end Sys2Proof.Machine
end

