-- ==== Sys2Proof/Proofs/FkStores.lean ====
section
/-! PROOF. Writes of memory and stores (R73, R104, R136). -/
namespace Sys2Proof.Machine

/-! Writes of memory (R19, R136, R185). -/

/-- A store's record of a dirty line is the ring's own (R185). -/
theorem touch_eq (s : State) (a : Nat) : s.touch a = { s with ring := (s.touch a).ring } := by
  unfold State.touch
  split
  · split
    · split <;> rfl
    · rfl
  · rfl

/-- A write that its memory takes (R17, R19). -/
theorem memWrite_ok {s : State} {a n v : Nat}
    (hk : memKind a = .sram ∨ memKind a = .itcm .a ∨ memKind a = .itcm .b ∨ memKind a = .dtcm .a ∨ memKind a = .dtcm .b ∨
      memKind a = .retain)
    (hup : s.islandUp (addrIsland a) = true) : s.memWrite a n v = some ((s.mput (s.place a) n v).touch a) := by
  unfold State.memWrite
  rcases hk with hk | hk | hk | hk | hk | hk <;> simp [hk, hup]

/-- A write that its memory takes stores the bytes at the physical place, and changes no other byte, register or core. -/
theorem written_frame {s t : State} {a n v : Nat} (ht : t = (s.mput (s.place a) n v).touch a) (hm : memWf s.mem = true) :
    memBytes t.mem (s.place a) n = leBytes n v ∧ (∀ b, (b < s.place a ∨ s.place a + n ≤ b) → memGet t.mem b = memGet s.mem b) ∧
    t.regs = s.regs ∧ t.panA = s.panA ∧ t.panB = s.panB ∧ t.stew = s.stew := by
  rw [touch_eq] at ht
  subst ht
  refine ⟨?_, fun b hb => ?_, rfl, rfl, rfl, rfl⟩
  · have h := memBytes_memPut_same s.mem (s.place a) (leBytes n v) hm
    rwa [leBytes_length] at h
  · exact memGet_memPut_other s.mem (s.place a) b (leBytes n v) (by rwa [leBytes_length]) hm

/-- A bus write of a memory is a write of memory (R4). -/
theorem busWrite_mem {s : State} {who : Who} {a n v : Nat}
    (hk : memKind a = .sram ∨ memKind a = .itcm .a ∨ memKind a = .itcm .b ∨ memKind a = .dtcm .a ∨ memKind a = .dtcm .b ∨
      memKind a = .retain)
    (hup : s.islandUp (addrIsland a) = true) : s.busWrite who a n v = (s.mput (s.place a) n v).touch a := by
  have hw := memWrite_ok (n := n) (v := v) hk hup
  unfold State.busWrite
  rcases hk with hk | hk | hk | hk | hk | hk <;> simp [hk, hw]

/-! Stores (R73, R104). -/

section
variable {c : CoreId} {s s0 s1 sb s2 : State} {i : Instr} {n : Nat} {rd ra : Fin 32} {imm : BitVec 16}

/-- A store that is translated is presented to its memory. -/
theorem store_row {pa : Nat} (he : ∀ s, exec i s = .next (s.fkRun c (fkStore c n rd ra imm))) (h : Issues c s s0)
    (ha : ((s0.core c).ea ra imm).toNat % n = 0)
    (ht : s0.translate c ((s0.core c).ea ra imm).toNat .store = (s1, .ok pa))
    (hb : sb = (match c.pan with | some p => s1.critRead (stbStore p) 4 | none => s1))
    (h2 : s2 = sb.busWrite (sb.whoCore c) pa n (((s0.core c).rd rd).toNat % 256 ^ n)) (hw : s2.noWp c) :
    exec i s = .next (s2.fkDone c ((s2.core c).after (s0.core c) (if memKind pa = .sram then 24 else 1) ((s0.core c).pc + 4#32))) := by
  have hdone : fkStore c n rd ra imm s0 = .done (s2.setCore c (s2.core c)) ((s0.core c).pc + 4#32) (if memKind pa = .sram then 24 else 1)
      [⟨((s0.core c).ea ra imm).toNat, n, true, ((s0.core c).rd rd).toNat % 256 ^ n⟩] := by
    subst h2 hb
    rw [setCore_core]
    unfold fkStore
    simp only [ha, ht, ne_eq, not_true, if_false] <;> cases c <;> rfl
  exact exec_acc he h hdone hw

theorem fkStore_untranslated {e : Nat} (ha : ((s0.core c).ea ra imm).toNat % n = 0)
    (ht : s0.translate c ((s0.core c).ea ra imm).toNat .store = (s1, .error e)) :
    fkStore c n rd ra imm s0 = .exc s1 ⟨4, e, some ((s0.core c).ea ra imm), false⟩ := by
  unfold fkStore
  simp only [ha, ht, ne_eq, not_true, if_false]
  rfl

end

/-- Settles O26, form by form. -/
theorem storesWriteTheBytesAndNothingElse : Obligations.StoresWriteTheBytesAndNothingElse := by
  unfold Obligations.StoresWriteTheBytesAndNothingElse
  refine ⟨?stw, ?sth, ?stb, ?unaligned, ?untranslated, ?written⟩
  case stw => exact fun c rd ra imm s s0 h ha s1 pa ht sb hb s2 h2 hw => store_row (fun _ => rfl) h ha ht hb h2 hw
  case sth => exact fun c rd ra imm s s0 h ha s1 pa ht sb hb s2 h2 hw => store_row (fun _ => rfl) h ha ht hb h2 hw
  case stb => exact fun c rd ra imm s s0 h ha s1 pa ht sb hb s2 h2 hw => store_row (fun _ => rfl) h ha ht hb h2 hw
  case unaligned =>
    exact fun c rd ra imm => ⟨fkRaises_row (fun _ => rfl) (fun s h => if_pos h), fkRaises_row (fun _ => rfl) (fun s h => if_pos h)⟩
  case untranslated =>
    exact fun c rd ra imm s s0 h ha s1 e ht => exec_exc (body := fkStore c 4 rd ra imm) (fun _ => rfl) h (fkStore_untranslated ha ht) rfl
  case written => exact fun s who a n v hm hk hup => written_frame (busWrite_mem hk hup) hm

end Sys2Proof.Machine
end

