-- ==== Sys2Proof/Proofs/FkImage.lean ====
section
/-! PROOF. The image bit rows (R81 to R83). -/
namespace Sys2Proof.Machine

/-! The process image (R81, R82). -/

section
variable {c : CoreId} {p : PanId} {s s0 s1 s2 : State} {i : Instr} {addr : BitVec 22} {v : Nat}

/-- Reading an image bit, once its byte is read. -/
theorem imgRead_ok {a : Nat} {f : State → Bool → DataAcc → FkRes} (hr : s0.memRead (dtcmBase p + a / 8) 1 = (s1, .ok v)) :
    imgRead p a s0 f = f s1 (bit v (a % 8)) ⟨dtcmBase p + a / 8, 1, false, v⟩ := by
  rw [imgRead, imgByte, hr]

/-- A row that sets BA from the bit read. -/
theorem img_row {f : Bool → Bool → Bool} (he : ∀ s, exec i s = .next (s.fkRun c (fkImg c f addr))) (hp : c.pan = some p)
    (h : Issues c s s0) (hr : s0.memRead (dtcmBase p + addr.toNat / 8) 1 = (s1, .ok v)) (hw : s1.noWp c) :
    exec i s = .next (s1.fkDone c
      (((s1.core c).setBa (f (s1.core c).ba (bit v (addr.toNat % 8)))).after (s0.core c) 1 ((s1.core c).pc + 4#32))) := by
  refine exec_acc (acc := [⟨dtcmBase p + addr.toNat / 8, 1, false, v⟩]) he h ?_ hw
  rw [fkImg, fkPan_pan hp, imgRead_ok hr, fkSetBa]

/-! The rows that write (R81, R82). -/

theorem fkImgWr_ok {f : PanId → State → FkRes} (hp : c.pan = some p)
    (hn : ¬((s0.core c).pl = 0 ∧ (addr.toNat ≤ 0x0FFFFF ∨ 0x380000 ≤ addr.toNat))) : fkImgWr c addr f s0 = f p s0 := by
  rw [fkImgWr, fkPan_pan hp, if_neg (by simpa [imgProtected] using hn)]

theorem fkImgWr_protected {f : PanId → State → FkRes} (hp : c.pan = some p) (hpl : (s0.core c).pl = 0)
    (ha : addr.toNat ≤ 0x0FFFFF ∨ 0x380000 ≤ addr.toNat) :
    fkImgWr c addr f s0 = .exc s0 ⟨4, 4, some (toW (dtcmBase p + addr.toNat / 8)), false⟩ := by
  rw [fkImgWr, fkPan_pan hp, if_pos (by simpa [imgProtected, hpl] using ha)]
  rfl

/-- A row that writes a bit on BA. -/
theorem imgSt_row {go w : Bool → Bool} (he : ∀ s, exec i s = .next (s.fkRun c (fkImgSt c go w addr))) (hp : c.pan = some p)
    (h : Issues c s s0) (hn : ¬((s0.core c).pl = 0 ∧ (addr.toNat ≤ 0x0FFFFF ∨ 0x380000 ≤ addr.toNat)))
    (hgo : go (s0.core c).ba = true) (hr : s0.memRead (dtcmBase p + addr.toNat / 8) 1 = (s1, .ok v))
    (h2 : s2 = s1.imgPut p addr.toNat (w (s0.core c).ba)) (hw : s2.noWp c) :
    exec i s = .next (s2.fkDone c ((s2.core c).after (s0.core c) 1 ((s0.core c).pc + 4#32))) := by
  refine exec_acc (acc := [⟨dtcmBase p + addr.toNat / 8, 1, true, s2.mget (s2.place (dtcmBase p + addr.toNat / 8)) 1⟩]) he h ?_ hw
  rw [setCore_core, h2, fkImgSt, fkImgWr_ok hp hn, if_pos hgo, imgRead_ok hr]

/-- SET and CLR on a BA of 0 complete without an access. -/
theorem imgSt_idle {go w : Bool → Bool} (he : ∀ s, exec i s = .next (s.fkRun c (fkImgSt c go w addr))) (hp : c.pan = some p)
    (h : Issues c s s0) (hn : ¬((s0.core c).pl = 0 ∧ (addr.toNat ≤ 0x0FFFFF ∨ 0x380000 ≤ addr.toNat)))
    (hgo : go (s0.core c).ba = false) :
    exec i s = .next (s0.fkDone c ((s0.core c).after (s0.core c) 1 ((s0.core c).pc + 4#32))) := by
  rw [he, fkGoes_step h (k := s0.core c)]
  rw [setCore_core, fkImgSt, fkImgWr_ok hp hn, if_neg (by simp [hgo])]

/-- RE and FE: the bit, and the same bit of the previous image (R83). -/
theorem imgEdge_row {f : Bool → Bool → Bool} {w : Nat} (he : ∀ s, exec i s = .next (s.fkRun c (fkImgEdge c f addr))) (hp : c.pan = some p)
    (h : Issues c s s0) (ha : addr.toNat < 0x80000) (hr : s0.memRead (dtcmBase p + addr.toNat / 8) 1 = (s1, .ok v))
    (hr2 : s1.memRead (dtcmBase p + (addr.toNat + 0x80000) / 8) 1 = (s2, .ok w)) (hw : s2.noWp c) :
    exec i s = .next (s2.fkDone c
      (((s2.core c).setBa (f (bit v (addr.toNat % 8)) (bit w (addr.toNat % 8)))).after (s0.core c) 1 ((s2.core c).pc + 4#32))) := by
  have hm : (addr.toNat + 0x80000) % 8 = addr.toNat % 8 := by omega
  refine exec_acc (acc := [⟨dtcmBase p + addr.toNat / 8, 1, false, v⟩, ⟨dtcmBase p + (addr.toNat + 0x80000) / 8, 1, false, w⟩]) he h ?_ hw
  rw [fkImgEdge, fkPan_pan hp, if_neg (Nat.not_le.2 ha), imgRead_ok hr, imgRead_ok hr2, fkSetBa, hm]

theorem imgEdge_range {f : Bool → Bool → Bool} (he : ∀ s, exec i s = .next (s.fkRun c (fkImgEdge c f addr))) (hp : c.pan = some p)
    (ha : 0x80000 ≤ addr.toNat) {q : FkCore → Prop} :
    FkRaises c i q (fun _ => ⟨4, 5, some (toW (dtcmBase p + addr.toNat / 8)), false⟩) := by
  refine fkRaises_row he (fun s _ => ?_)
  rw [fkImgEdge, fkPan_pan hp, if_pos ha]
  rfl

/-- REM and FEM: BA from BA and the bit, and the bit takes the old BA (R83). -/
theorem imgMem_row {f : Bool → Bool → Bool} (he : ∀ s, exec i s = .next (s.fkRun c (fkImgMem c f addr))) (hp : c.pan = some p)
    (h : Issues c s s0) (hn : ¬((s0.core c).pl = 0 ∧ (addr.toNat ≤ 0x0FFFFF ∨ 0x380000 ≤ addr.toNat)))
    (hr : s0.memRead (dtcmBase p + addr.toNat / 8) 1 = (s1, .ok v)) (h2 : s2 = s1.imgPut p addr.toNat (s1.core c).ba) (hw : s2.noWp c) :
    exec i s = .next (s2.fkDone c
      (((s2.core c).setBa (f (s1.core c).ba (bit v (addr.toNat % 8)))).after (s0.core c) 2 ((s2.core c).pc + 4#32))) := by
  refine exec_acc (acc := [⟨dtcmBase p + addr.toNat / 8, 1, false, v⟩,
    ⟨dtcmBase p + addr.toNat / 8, 1, true, s2.mget (s2.place (dtcmBase p + addr.toNat / 8)) 1⟩]) he h ?_ hw
  rw [h2, fkImgMem, fkImgWr_ok hp hn, imgRead_ok hr, fkSetBa]

end

/-- An image byte lies in the D-TCM of its Pan (R81, R135). -/
theorem memKind_imgByte (p : PanId) {a : Nat} (ha : a < 2 ^ 22) : memKind (imgByte p a) = .dtcm p := by
  have h8 : a / 8 < 0x80000 := by omega
  unfold imgByte
  cases p
  · have hd : 0x08100000 + a / 8 - 0x08100000 = a / 8 := by omega
    rw [dtcmBase, memKind, if_neg (by omega), if_neg (by omega), if_pos (by omega), hd, dtcmKind, if_neg (by omega)]
  · have hd : 0x08900000 + a / 8 - 0x08900000 = a / 8 := by omega
    rw [dtcmBase, memKind, if_neg (by omega), if_neg (by omega), if_neg (by omega), if_neg (by omega), if_pos (by omega), hd, dtcmKind,
      if_neg (by omega)]

/-- Writing an image bit writes that bit of its byte alone. -/
theorem imgPut_frame {s : State} {p : PanId} {a : Nat} (b : Bool) (hm : memWf s.mem = true) (ha : a < 2 ^ 22)
    (hup : s.islandUp (addrIsland (imgByte p a)) = true) :
    memGet (s.imgPut p a b).mem (s.place (imgByte p a)) = BitVec.ofNat 8 (putBit (memGet s.mem (s.place (imgByte p a))).toNat (a % 8) b) ∧
    (∀ q, q ≠ s.place (imgByte p a) → memGet (s.imgPut p a b).mem q = memGet s.mem q) ∧ (s.imgPut p a b).regs = s.regs := by
  have hk := memKind_imgByte p ha
  have hput : s.imgPut p a b = (s.mput (s.place (imgByte p a)) 1 (putBit (s.mget (s.place (imgByte p a)) 1) (a % 8) b)).touch (imgByte p a) := by
    rw [State.imgPut, memWrite_ok (by cases p <;> simp [hk]) hup]
    rfl
  obtain ⟨hsame, hother, hregs, _⟩ := written_frame hput hm
  have hget : s.mget (s.place (imgByte p a)) 1 = (memGet s.mem (s.place (imgByte p a))).toNat := by
    simp [State.mget, memBytes, leVal]
  rw [hget] at hsame
  exact ⟨(List.cons.inj hsame).1, fun q hq => hother q (by omega), hregs⟩

/-- Settles O27, row by row. -/
theorem imageInstructionsReadAndWriteOneBit : Obligations.ImageInstructionsReadAndWriteOneBit := by
  unfold Obligations.ImageInstructionsReadAndWriteOneBit
  refine ⟨?ld, ?ldn, ?and, ?andn, ?or, ?orn, ?xor, ?st, ?set, ?clr, ?idle, ?edge, ?edgeRange, ?edgeMem, ?guarded, ?put⟩
  case ld => exact fun c p addr s s0 hp h s1 v hr hw => img_row (f := fun _ b => b) (fun _ => rfl) hp h hr hw
  case ldn => exact fun c p addr s s0 hp h s1 v hr hw => img_row (f := fun _ b => !b) (fun _ => rfl) hp h hr hw
  case and => exact fun c p addr s s0 hp h s1 v hr hw => img_row (f := fun x b => x && b) (fun _ => rfl) hp h hr hw
  case andn => exact fun c p addr s s0 hp h s1 v hr hw => img_row (f := fun x b => x && !b) (fun _ => rfl) hp h hr hw
  case or => exact fun c p addr s s0 hp h s1 v hr hw => img_row (f := fun x b => x || b) (fun _ => rfl) hp h hr hw
  case orn => exact fun c p addr s s0 hp h s1 v hr hw => img_row (f := fun x b => x || !b) (fun _ => rfl) hp h hr hw
  case xor => exact fun c p addr s s0 hp h s1 v hr hw => img_row (f := fun x b => x != b) (fun _ => rfl) hp h hr hw
  case st =>
    exact fun c p addr s s0 hp h hn s1 v hr s2 h2 hw => imgSt_row (go := fun _ => true) (w := fun x => x) (fun _ => rfl) hp h hn rfl hr h2 hw
  case set =>
    exact fun c p addr s s0 hp h hn hb s1 v hr s2 h2 hw =>
      imgSt_row (go := fun x => x) (w := fun _ => true) (fun _ => rfl) hp h hn hb hr h2 hw
  case clr =>
    exact fun c p addr s s0 hp h hn hb s1 v hr s2 h2 hw =>
      imgSt_row (go := fun x => x) (w := fun _ => false) (fun _ => rfl) hp h hn hb hr h2 hw
  case idle =>
    exact fun c p addr s s0 hp h hn hb => ⟨imgSt_idle (go := fun x => x) (w := fun _ => true) (fun _ => rfl) hp h hn hb,
      imgSt_idle (go := fun x => x) (w := fun _ => false) (fun _ => rfl) hp h hn hb⟩
  case edge =>
    exact fun c p addr s s0 hp h ha s1 v hr s2 w hr2 hw =>
      ⟨imgEdge_row (f := fun b b0 => b && !b0) (fun _ => rfl) hp h ha hr hr2 hw,
        imgEdge_row (f := fun b b0 => !b && b0) (fun _ => rfl) hp h ha hr hr2 hw⟩
  case edgeRange =>
    exact fun c p addr hp ha => ⟨imgEdge_range (f := fun b b0 => b && !b0) (fun _ => rfl) hp ha,
      imgEdge_range (f := fun b b0 => !b && b0) (fun _ => rfl) hp ha⟩
  case edgeMem =>
    exact fun c p addr s s0 hp h hn s1 v hr s2 h2 hw =>
      ⟨imgMem_row (f := fun x b => x && !b) (fun _ => rfl) hp h hn hr h2 hw,
        imgMem_row (f := fun x b => !x && b) (fun _ => rfl) hp h hn hr h2 hw⟩
  case guarded =>
    intro c p addr hp ha i hi
    fin_cases hi
    all_goals
      refine fkRaises_row (fun _ => rfl) (fun s h => ?_)
      simp only [fkSt, fkSet, fkClr, fkRem, fkFem, fkImgSt, fkImgMem, fkImgWr_protected hp h ha]
  case put => exact fun s p a b hm ha hup => imgPut_frame b hm ha hup

end Sys2Proof.Machine
end

