-- ==== Sys2Proof/Proofs/FkRecords.lean ====
section
/-! PROOF. Timers and counters (R86 to R88). -/
namespace Sys2Proof.Machine

/-! Reaching and reading a record (R86, R92). -/

section
variable {c : CoreId} {p : PanId} {s s0 s1 s2 s3 s4 sa : State} {i : Instr} {rd ra : Fin 32} {imm : BitVec 16} {pa v w u : Nat} {b : List Byte}

theorem fkRecord_ok {f : State → Nat → Word → FkRes} (hp : c.pan = some p) (ha : ((s0.core c).ea ra imm).toNat % 16 = 0)
    (ht : s0.translate c ((s0.core c).ea ra imm).toNat .store = (s1, .ok pa)) (hk : memKind pa = .dtcm p) :
    fkRecord c ra imm f s0 = f s1 pa ((s0.core c).ea ra imm) := by
  rw [fkRecord, fkPan_pan hp]
  simp only [ha, ht, hk, ne_eq, not_true, if_false]

theorem fkRecord_unaligned {f : State → Nat → Word → FkRes} (hp : c.pan = some p) (ha : ((s0.core c).ea ra imm).toNat % 16 ≠ 0) :
    fkRecord c ra imm f s0 = .exc s0 ⟨5, 3, some ((s0.core c).ea ra imm), false⟩ := by
  rw [fkRecord, fkPan_pan hp]
  exact if_pos ha

theorem recRead_ok {va : Word} {o n : Nat} {f : State → List Byte → FkRes} (hr : s1.memRead (pa + o) n = (s2, .ok v)) :
    recRead va pa o n f s1 = f s2 (s2.mbytes (s2.place (pa + o)) n) := by
  rw [recRead, hr]

/-! Timers and counters (R87, R88): a record whose memory answers and takes both writes. -/

/-- A timer instruction whose step gives `r` and `et`. -/
theorem timer_row {step : Nat → Nat → Bool → TmrRec → TmrRec × Nat} {r : TmrRec} {et : Nat}
    (he : ∀ s, exec i s = .next (s.fkRun c (fkTimer c step rd ra imm))) (hp : c.pan = some p) (h : Issues c s s0)
    (ha : ((s0.core c).ea ra imm).toNat % 16 = 0)
    (ht : s0.translate c ((s0.core c).ea ra imm).toNat .store = (s1, .ok pa)) (hk : memKind pa = .dtcm p)
    (hra : s1.memRead (pa + 12) 2 = (sa, .ok w)) (hu : u = leAt (sa.mbytes (sa.place (pa + 12)) 2) 0 1) (hu2 : u ≤ 2)
    (hr : sa.memRead pa 14 = (s2, .ok v)) (hb : b = s2.mbytes (s2.place pa) 14)
    (hs : (r, et) = step ((s2.core c).tnow % 2 ^ 64) ((readTmr b).pt * tmrUnit u) (s2.core c).ba (readTmr b))
    (h3 : s2.memWrite pa 8 r.start = some s3)
    (h4 : s3.memWrite (pa + 13) 1 (TmrRec.flags { r with inLast := (s2.core c).ba }) = some s4) (hw : s4.noWp c) :
    exec i s = .next (s4.fkDone c ((((s2.core c).wr rd (toW (et / tmrUnit u))).setBa r.q).after (s0.core c) 8 ((s2.core c).pc + 4#32))) := by
  have hdone : fkTimer c step rd ra imm s0 = .done (s4.setCore c (((s2.core c).wr rd (toW (et / tmrUnit u))).setBa r.q))
      ((s2.core c).pc + 4#32) 8 [⟨((s0.core c).ea ra imm).toNat, 14, false, leVal b⟩, ⟨((s0.core c).ea ra imm).toNat, 8, true, r.start⟩,
        ⟨((s0.core c).ea ra imm).toNat + 13, 1, true, TmrRec.flags { r with inLast := (s2.core c).ba }⟩] := by
    rw [fkTimer, fkRecord_ok hp ha ht hk, recRead_ok hra]
    simp only [← hu]
    rw [if_neg (Nat.not_lt.2 hu2), recRead_ok (o := 0) hr]
    simp only [Nat.add_zero, ← hb, ← hs, h3, h4, Option.getD_some]
  exact exec_acc he h hdone hw

/-- A counter instruction that finds a bit on the stack and whose step gives `cv`. -/
theorem counter_row {step : Bool → Bool → Bool → Int → Int → Int} {q : Int → Int → Bool} {pv cv : Int}
    (he : ∀ s, exec i s = .next (s.fkRun c (fkCounter c step q rd ra imm))) (hp : c.pan = some p) (h : Issues c s s0)
    (ha : ((s0.core c).ea ra imm).toNat % 16 = 0)
    (ht : s0.translate c ((s0.core c).ea ra imm).toNat .store = (s1, .ok pa)) (hk : memKind pa = .dtcm p)
    (hr : s1.memRead pa 9 = (s2, .ok v)) (hb : b = s2.mbytes (s2.place pa) 9) (hd : (s2.core c).depth ≠ 0)
    (hpv : pv = sval 32 (leAt b 4 4))
    (hcv : cv = step (s2.core c).top (s2.core c).ba (bit (leAt b 8 1) 0) (sval 32 (leAt b 0 4)) pv)
    (h3 : s2.memWrite pa 4 (BitVec.ofInt 32 cv).toNat = some s3)
    (h4 : s3.memWrite (pa + 8) 1 (b2n (s2.core c).ba + 2 * b2n (q cv pv)) = some s4) (hw : s4.noWp c) :
    exec i s = .next (s4.fkDone c
      ((((s2.core c).drop.wr rd (BitVec.ofInt 32 cv)).setBa (q cv pv)).after (s0.core c) 6 ((s2.core c).pc + 4#32))) := by
  have hdone : fkCounter c step q rd ra imm s0 = .done (s4.setCore c (((s2.core c).drop.wr rd (BitVec.ofInt 32 cv)).setBa (q cv pv)))
      ((s2.core c).pc + 4#32) 6 [⟨((s0.core c).ea ra imm).toNat, 9, false, leVal b⟩,
        ⟨((s0.core c).ea ra imm).toNat, 4, true, (BitVec.ofInt 32 cv).toNat⟩,
        ⟨((s0.core c).ea ra imm).toNat + 8, 1, true, b2n (s2.core c).ba + 2 * b2n (q cv pv)⟩] := by
    rw [fkCounter, fkRecord_ok hp ha ht hk, recRead_ok (o := 0) hr]
    simp only [Nat.add_zero, ← hb, hd, if_false, ← hpv, ← hcv, h3, h4, Option.getD_some]
  exact exec_acc he h hdone hw

/-- A timer whose record is not 16-byte aligned. -/
theorem timer_unaligned {step : Nat → Nat → Bool → TmrRec → TmrRec × Nat} (hp : c.pan = some p)
    (he : ∀ s, exec i s = .next (s.fkRun c (fkTimer c step rd ra imm))) :
    FkRaises c i (fun k => (k.ea ra imm).toNat % 16 ≠ 0) (fun k => ⟨5, 3, some (k.ea ra imm), false⟩) :=
  fkRaises_row he (fun _ h => fkRecord_unaligned hp h)

/-- A counter whose record is not 16-byte aligned. -/
theorem counter_unaligned {step : Bool → Bool → Bool → Int → Int → Int} {q : Int → Int → Bool} (hp : c.pan = some p)
    (he : ∀ s, exec i s = .next (s.fkRun c (fkCounter c step q rd ra imm))) :
    FkRaises c i (fun k => (k.ea ra imm).toNat % 16 ≠ 0) (fun k => ⟨5, 3, some (k.ea ra imm), false⟩) :=
  fkRaises_row he (fun _ h => fkRecord_unaligned hp h)

end

/-! The steps of R87. -/

theorem tmrEl_self (t : Nat) : tmrEl t t = 0 := by
  have h : t + 2 ^ 64 - t = 2 ^ 64 := by omega
  rw [tmrEl, h, Nat.mod_self]
  rfl

section
variable {t pt : Nat} {r : TmrRec}

/-- TON with IN 1: START is taken on the edge of IN. -/
theorem tonStep_in : tonStep t pt true r = (let r1 := { r with start := if r.inLast then r.start else t }
    ({ r1 with q := decide (pt ≤ tmrEl t r1.start) }, min (tmrEl t r1.start) pt)) := by
  cases hl : r.inLast <;> simp [tonStep, hl]

/-- TOF with IN 0: START is taken on the falling edge, and Q holds for PT after an IN once seen. -/
theorem tofStep_out : tofStep t pt false r = (let r1 := { r with start := if r.inLast then t else r.start }
    if r.seen then ({ r1 with q := decide (tmrEl t r1.start < pt) }, min (tmrEl t r1.start) pt) else ({ r1 with q := false }, 0)) := by
  cases hl : r.inLast <;> simp [tofStep, hl]

/-- TP whose pulse ends: the pulse is done while IN stays 1. -/
theorem tpStep_ends (hrun : r.run = true) (hel : pt ≤ tmrEl t r.start) (i : Bool) :
    tpStep t pt i r = ({ r with run := false, q := false, done := i }, if i then pt else 0) := by
  cases i <;> simp [tpStep, hrun, hel]

/-- TP within its pulse. -/
theorem tpStep_runs (hrun : r.run = true) (hel : tmrEl t r.start < pt) (i : Bool) :
    tpStep t pt i r = ({ r with q := true }, tmrEl t r.start) := by
  simp [tpStep, hrun, Nat.not_le.2 hel]

/-- TP on an edge of IN, idle before: a pulse starts. -/
theorem tpStep_starts (hrun : r.run = false) (hdone : r.done = false) (hlast : r.inLast = false) (hpt : 0 < pt) :
    tpStep t pt true r = ({ r with start := t, run := true, q := true }, tmrEl t t) := by
  simp [tpStep, hrun, hdone, hlast, tmrEl_self, hpt.ne']

/-- TP after its pulse: the pulse stays done until IN is 0. -/
theorem tpStep_after (hrun : r.run = false) (hdone : r.done = true) :
    tpStep t pt true r = ({ r with q := false }, pt) ∧ tpStep t pt false r = ({ r with q := false, done := false }, 0) := by
  simp [tpStep, hrun, hdone]

end

/-- Settles O28: the rows over a record, and the branches of R87 and R88. -/
theorem timersAndCountersUpdateTheirRecords : Obligations.TimersAndCountersUpdateTheirRecords := by
  unfold Obligations.TimersAndCountersUpdateTheirRecords
  refine ⟨?ton, ?tof, ?tp, ?timerSteps, ?ctu, ?ctd, ?counterSteps, ?unaligned⟩
  case ton =>
    exact fun c p rd ra imm s s0 hp h ha s1 pa ht hk sa w hra u hu hu2 s2 v hr b hb r et hs s3 h3 s4 h4 hw =>
      timer_row (step := tonStep) (fun _ => rfl) hp h ha ht hk hra hu hu2 hr hb hs h3 h4 hw
  case tof =>
    exact fun c p rd ra imm s s0 hp h ha s1 pa ht hk sa w hra u hu hu2 s2 v hr b hb r et hs s3 h3 s4 h4 hw =>
      timer_row (step := tofStep) (fun _ => rfl) hp h ha ht hk hra hu hu2 hr hb hs h3 h4 hw
  case tp =>
    exact fun c p rd ra imm s s0 hp h ha s1 pa ht hk sa w hra u hu hu2 s2 v hr b hb r et hs s3 h3 s4 h4 hw =>
      timer_row (step := tpStep) (fun _ => rfl) hp h ha ht hk hra hu hu2 hr hb hs h3 h4 hw
  case timerSteps =>
    refine fun t pt r => ⟨tonStep_in, rfl, rfl, tofStep_out, fun hrun hel i => ?_, tpStep_runs, tpStep_starts, tpStep_after, tmrEl_self t⟩
    rw [tpStep_ends hrun hel]
    exact ⟨rfl, rfl, rfl, rfl⟩
  case ctu =>
    exact fun c p rd ra imm s s0 hp h ha s1 pa ht hk s2 v hr b hb hd pv hpv cv hcv s3 h3 s4 h4 hw =>
      counter_row (step := ctuStep) (q := fun cv pv => decide (pv ≤ cv)) (fun _ => rfl) hp h ha ht hk hr hb hd hpv hcv h3 h4 hw
  case ctd =>
    exact fun c p rd ra imm s s0 hp h ha s1 pa ht hk s2 v hr b hb hd pv hpv cv hcv s3 h3 s4 h4 hw =>
      counter_row (step := ctdStep) (q := fun cv _ => decide (cv ≤ 0)) (fun _ => rfl) hp h ha ht hk hr hb hd hpv hcv h3 h4 hw
  case counterSteps =>
    intro last i cv pv
    cases last <;> simp [ctuStep, ctdStep]
  case unaligned =>
    intro c p rd ra imm hp i hi
    fin_cases hi
    · exact timer_unaligned (step := tonStep) hp (fun _ => rfl)
    · exact timer_unaligned (step := tofStep) hp (fun _ => rfl)
    · exact timer_unaligned (step := tpStep) hp (fun _ => rfl)
    · exact counter_unaligned (step := ctuStep) (q := fun cv pv => decide (pv ≤ cv)) hp (fun _ => rfl)
    · exact counter_unaligned (step := ctdStep) (q := fun cv _ => decide (cv ≤ 0)) hp (fun _ => rfl)

end Sys2Proof.Machine
end

