-- ==== Sys2Proof/Proofs/Events.lean ====
section
/-! PROOF. The Event Fabric (R125 to R133): a pulse and its latches, acknowledge and EOI; lockstep (R97, R98). -/
namespace Sys2Proof.Machine

/-! A pulse reaches the fabric (R126, R129, R131). -/

section
variable {s : State} {k : Nat}

theorem latchPulse_off
    (hoff : ¬(s.flag F.EVT_CTRL_EN = true ∧ sourceListed k = true ∧ s.flag (F.EVT_SRC_CFG_EN k) = true)) :
    s.latchPulse k = (s, false) :=
  if_neg (by simpa [and_assoc] using hoff)

/-- The latches once a pulse of source `k` is routed; without a target no entry is listed for it. -/
def State.latchedAt (s : State) (k : Nat) : Tbl Nat :=
  if s.f (F.EVT_SRC_CFG_TGT k) = 0 then s.latch else tblSet s.latch k (tblGet s.latch k ||| s.f (F.EVT_SRC_CFG_TGT k))

theorem latchedAt_same (s : State) (k : Nat) :
    tblGet (s.latchedAt k) k = tblGet s.latch k ||| s.f (F.EVT_SRC_CFG_TGT k) := by
  unfold State.latchedAt
  split
  case isTrue hnone => rw [hnone, Nat.or_zero]
  case isFalse => exact tblGet_tblSet_same _ _ _

theorem latchedAt_other (s : State) {j k : Nat} (hj : j ≠ k) : tblGet (s.latchedAt k) j = tblGet s.latch j := by
  unfold State.latchedAt
  split
  case isTrue => rfl
  case isFalse => exact tblGet_tblSet_other _ _ _ _ hj

/-- Once the fabric and the source are enabled, the pulse changes the latches and the triggers alone. -/
theorem latchPulse_on
    (hon : s.flag F.EVT_CTRL_EN = true ∧ sourceListed k = true ∧ s.flag (F.EVT_SRC_CFG_EN k) = true) :
    s.latchPulse k =
      ({ s with
          latch := s.latchedAt k
          rtrig := if s.flag (F.EVT_SRC_CFG_RTEN k) then s.rtrig ||| 2 ^ s.f (F.EVT_SRC_CFG_RTRIG k) else s.rtrig },
        (tblGet s.latch k &&& s.f (F.EVT_SRC_CFG_TGT k)) != 0) := by
  refine (if_pos (by simpa [and_assoc] using hon)).trans ?_
  by_cases hrake : s.flag (F.EVT_SRC_CFG_RTEN k) = true
  · simp only [State.latchedAt, if_pos hrake]
  · simp only [State.latchedAt, if_neg hrake]

end

/-- Settles O15: an enabled pulse by `latchPulse_on`, any other by `latchPulse_off`. -/
theorem aPulseIsLatchedForItsTargets : Obligations.APulseIsLatchedForItsTargets := by
  unfold Obligations.APulseIsLatchedForItsTargets
  refine ⟨fun s k => latchPulse_off, fun s k t m hon h => ?_⟩
  obtain ⟨rfl, rfl⟩ := Prod.mk.inj ((latchPulse_on hon).symm.trans h)
  exact ⟨latchedAt_same s k, fun j => latchedAt_other s, rfl, bne_iff_ne, rfl⟩

/-! Acknowledge and EOI (R127, R128). -/

/-- A register read with an effect of its own that its block accepts. -/
theorem regDoRead_ok {s : State} {who : Who} {a : Nat} {f : State → State} (h : s.regOk who a = true) :
    s.regDoRead who a f = f s :=
  if_pos h

section
variable {s : State} {t p k : Nat}

theorem evtAck_none (hnone : s.topEvent t = none) : s.evtAck t = (s, toW 0x8000) := by
  simp only [State.evtAck, hnone]

/-- A level source stays pending as long as its block asserts it: the acknowledge only makes its level active. -/
theorem evtAck_level (htop : s.topEvent t = some (p, k)) (hk : k ∈ levelSources) :
    s.evtAck t =
      (((s.setActiveMask t (putBit (s.activeMask t) p true)).critRead (A.EVT_SRC_CFG k) 4).critRead (A.EVT_PEND (k / 32)) 4,
        toW (k + 0x10000 * p)) := by
  simp only [State.evtAck, htop, if_pos (List.contains_iff_mem.2 hk)]

/-- A pulse source loses its latch for the target. -/
theorem evtAck_pulse (htop : s.topEvent t = some (p, k)) (hk : k ∉ levelSources) :
    s.evtAck t =
      ((State.critRead { s.setActiveMask t (putBit (s.activeMask t) p true) with
          latch := if putBit (tblGet s.latch k) t false = 0 then tblErase s.latch k
            else tblSet s.latch k (putBit (tblGet s.latch k) t false) } (A.EVT_SRC_CFG k) 4).critRead (A.EVT_PEND (k / 32)) 4,
        toW (k + 0x10000 * p)) := by
  simp only [State.evtAck, htop, if_neg (mt List.contains_iff_mem.1 hk)]
  rfl

theorem evtEoi_active (hrun : s.running t = some p) : s.evtEoi t = s.setActiveMask t (putBit (s.activeMask t) p false) := by
  simp only [State.evtEoi, hrun]

theorem evtEoi_idle (hrun : s.running t = none) : s.evtEoi t = s := by
  simp only [State.evtEoi, hrun]

end

/-- The acknowledge read answers what `evtAck` gives and goes on from its state. -/
theorem exec_evtTgtAckRead {who : Who} {t : Fin 4} {s u : State} {w : Word} (hok : s.regOk who (A.EVT_TGT_ACK t) = true)
    (h : s.evtAck t = (u, w)) : exec (.evtTgtAckRead who t) s = .next (u.emit .bus (leBytes 4 w.toNat)) := by
  refine congrArg Host.Outcome.next ((regDoRead_ok hok).trans ?_)
  rw [h]

/-! Lockstep (R97, R98). -/

section
variable {p : PanId} {pc : Word} {unit : Fin 7} {s : State}

theorem exec_lockstepMismatch_on (hrun : (s.core p.core).run = .running ∨ (s.core p.core).run = .waiting) :
    exec (.lockstepMismatch p pc unit) s = .next (s.lsMismatch p pc unit false) := by
  refine congrArg Host.Outcome.next ?_
  rcases hrun with hrun | hrun <;> simp only [hrun]

theorem exec_lockstepMismatch_off (hrun : (s.core p.core).run ≠ .running) (hwait : (s.core p.core).run ≠ .waiting) :
    exec (.lockstepMismatch p pc unit) s = .next s := by
  refine congrArg Host.Outcome.next ?_
  split
  · exact absurd ‹_› hrun
  · exact absurd ‹_› hwait
  · rfl

end

end Sys2Proof.Machine
end

