-- ==== Sys2Proof/Proofs/Mmu.lean ====
section
/-! PROOF. The TLB operations of a core (R99, R109). -/
namespace Sys2Proof.Machine

/-! A word of TLBOP names its operation and its operand (R99). -/

/-- The operation of a TLBOP word that names an ASID. -/
theorem tlbAsidWord_op (asid : BitVec 8) : (3 + 256 * asid.toNat) % 8 = 3 := by omega

/-- The ASID is read back from [15:8]. -/
theorem tlbAsidWord_asid (asid : BitVec 8) : bits (3 + 256 * asid.toNat) 15 8 = asid.toNat := by
  have hlt := asid.isLt
  simp only [bits]
  omega

theorem tlbPageWord_op {op : Nat} (hop : op < 8) (page : BitVec 20) : tlbPageWord op page % 8 = op := by
  unfold tlbPageWord
  omega

/-- The page is read back from [31:16] and [11:8]. -/
theorem tlbPageWord_page {op : Nat} (hop : op < 8) (page : BitVec 20) :
    tlbPageWord op page / 0x10000 * 16 + bits (tlbPageWord op page) 11 8 = page.toNat := by
  simp only [tlbPageWord, bits]
  omega

section
variable (s : State) (c : CoreId)

theorem tlbOp_asid (asid : BitVec 8) :
    s.tlbOp c (3 + 256 * asid.toNat) = s.tlbDrop c (fun e => !e.g && e.asid == asid.toNat) := by
  simp only [State.tlbOp, tlbAsidWord_op, tlbAsidWord_asid]

theorem tlbOp_page (page : BitVec 20) :
    s.tlbOp c (tlbPageWord 4 page) = s.tlbDrop c (fun e => e.hits ((s.core c).asid.toNat % 256) page.toNat) := by
  simp only [State.tlbOp, tlbPageWord_op (op := 4) (by decide), tlbPageWord_page (op := 4) (by decide)]

theorem tlbOp_lock (page : BitVec 20) : s.tlbOp c (tlbPageWord 5 page) = s.tlbLock c page.toNat := by
  simp only [State.tlbOp, tlbPageWord_op (op := 5) (by decide), tlbPageWord_page (op := 5) (by decide)]

end

/-! A page is walked and locked (R109). -/

section
variable {s t : State} {c : CoreId} {page : Nat}

theorem tlbLock_full (hfull : 64 ≤ (s.core c).locked) : s.tlbLock c page = s.setCore c { s.core c with lockFail := true } :=
  if_pos hfull

variable (hroom : (s.core c).locked < 64)
include hroom

theorem tlbLock_fault (hwalk : s.walk c.pan (s.core c).ttb.toNat (page * 0x1000) = (t, none)) :
    s.tlbLock c page = t.setCore c { t.core c with lockFail := true } := by
  simp only [State.tlbLock, if_neg (Nat.not_le.2 hroom), hwalk]

theorem tlbLock_walked {x : Walk} {v : FkCore} {b : Bool}
    (hwalk : s.walk c.pan (s.core c).ttb.toNat (page * 0x1000) = (t, some x))
    (hkeep : ((t.tlbDrop c (fun e => e.hits ((s.core c).asid.toNat % 256) page)).core c).tlbKeep
      (x.entry ((s.core c).asid.toNat % 256) true) = (v, b)) :
    s.tlbLock c page =
      (t.tlbDrop c (fun e => e.hits ((s.core c).asid.toNat % 256) page)).setCore c { v with lockFail := !b } := by
  simp only [State.tlbLock, if_neg (Nat.not_le.2 hroom), hwalk, hkeep]

end

end Sys2Proof.Machine
end

