-- ==== Sys2Proof/Proofs/Dma.lean ====
section
/-! PROOF. The DMA engine's channels (R116, R117, R119 to R123). -/
namespace Sys2Proof.Machine

/-! What a register write gives a channel (R119). -/

section
variable {s : State} {n : Nat}

theorem dmaStart_idle (hidle : s.f (F.DMA_CH_STAT_STATE n) = 0) (hen : s.flag (F.DMA_CH_CFG_EN n) = true) :
    s.dmaStart n =
      (((s.setF (F.DMA_CH_STAT_STATE n) 1).setF (F.DMA_CH_CUR_VALUE n) (s.f (F.DMA_CH_DESC_VALUE n))).modDch n
        (fun x => { x with burstOpen := false, ready := false })).fetchDesc n :=
  if_pos (by simp [hidle, hen])

theorem dmaStart_refused (h : s.f (F.DMA_CH_STAT_STATE n) ≠ 0 ∨ s.flag (F.DMA_CH_CFG_EN n) = false) : s.dmaStart n = s :=
  if_neg (by rcases h with h | h <;> simp [h])

theorem dmaErrClear_error (herr : s.f (F.DMA_CH_STAT_STATE n) = 4) :
    s.dmaErrClear n =
      ((s.setFlag (F.DMA_CH_STAT_ERR n) false).setF (F.DMA_CH_STAT_STATE n) 0).modRec n
        (fun r => { r with pinned := r.pinned && r.ch != n }) :=
  if_pos herr

theorem dmaErrClear_other (herr : s.f (F.DMA_CH_STAT_STATE n) ≠ 4) :
    s.dmaErrClear n = s.setFlag (F.DMA_CH_STAT_ERR n) false :=
  if_neg herr

end

/-! The descriptor at CUR (R116): what its read answers decides. -/

section
variable {s t : State} {n fa : Nat} {d : List Byte} (hal : s.f (F.DMA_CH_CUR_VALUE n) % 32 = 0)
include hal

theorem fetchDesc_iommu
    (hrd : State.ioReadMem (s.f (F.DMA_CH_CFG_CTX n)) n 32 (s.f (F.DMA_CH_CUR_VALUE n)) s = (t, .iommu fa)) :
    s.fetchDesc n = (t.fetchRec n).dmaPause n fa := by
  simp only [State.fetchDesc, if_neg (not_not.2 hal), hrd]

theorem fetchDesc_bus
    (hrd : State.ioReadMem (s.f (F.DMA_CH_CFG_CTX n)) n 32 (s.f (F.DMA_CH_CUR_VALUE n)) s = (t, .bus fa)) :
    s.fetchDesc n = (t.fetchRec n).dmaError n 5 fa := by
  simp only [State.fetchDesc, if_neg (not_not.2 hal), hrd]

theorem fetchDesc_ecc
    (hrd : State.ioReadMem (s.f (F.DMA_CH_CFG_CTX n)) n 32 (s.f (F.DMA_CH_CUR_VALUE n)) s = (t, .ecc fa)) :
    s.fetchDesc n = (t.fetchRec n).dmaEcc n fa := by
  simp only [State.fetchDesc, if_neg (not_not.2 hal), hrd]

variable (hrd : State.ioReadMem (s.f (F.DMA_CH_CFG_CTX n)) n 32 (s.f (F.DMA_CH_CUR_VALUE n)) s = (t, .ok d))
include hrd

theorem fetchDesc_bad (hbad : badDesc d = true) :
    s.fetchDesc n = (t.fetchRec n).dmaError n 5 (s.f (F.DMA_CH_CUR_VALUE n)) := by
  simp only [State.fetchDesc, if_neg (not_not.2 hal), hrd, if_pos hbad]

theorem fetchDesc_good (hgood : badDesc d = false) :
    s.fetchDesc n =
      ((t.modDch n (fun x => { x with
          src := leAt d 0 4, dst := leAt d 4 4, sinc := bit (leAt d 12 2) 0, dinc := bit (leAt d 12 2) 1
          irq := bit (leAt d 12 2) 2, last := bit (leAt d 12 2) 3, nextDesc := leAt d 16 4 })).setF
        (F.DMA_CH_REM_VALUE n) (leAt d 8 4)).openBurst n := by
  simp only [State.fetchDesc, if_neg (not_not.2 hal), hrd, hgood, Bool.false_eq_true, if_false]

end

/-! A beat boundary (R117, R119, R122). -/

/-- The state in which the picked channel is served: the burst it pre-empts waits with CAUSE 1. -/
def State.dmaPreempted (s : State) (n : Nat) : State :=
  match s.dma.active with
  | some m => if m ≠ n ∧ s.dmaReady m = true then s.dmaWait m 1 else s
  | none => s

/-- The state in which it moves its beat: a waiting channel has begun its replay. -/
def State.dmaWoken (s : State) (n : Nat) : State :=
  if s.f (F.DMA_CH_STAT_STATE n) = 2 then s.dmaReplay n else s

section
variable {s : State}

theorem dmaServe_nothing (h : s.flag F.DMA_CTRL_EN = false ∨ s.dmaPick = none) : s.dmaServe = s := by
  unfold State.dmaServe
  split
  case isTrue => rfl
  case isFalse hen =>
    have hnone : s.dmaPick = none := h.resolve_left (by simpa using hen)
    simp only [hnone]

variable {n : Nat} (hen : s.flag F.DMA_CTRL_EN = true) (hpick : s.dmaPick = some n)
include hen hpick

theorem dmaServe_picked :
    s.dmaServe =
      if ((s.dmaPreempted n).dmaWoken n).f (F.DMA_CH_STAT_STATE n) = 1 then
        State.dmaBeat
          { (s.dmaPreempted n).dmaWoken n with dma := { ((s.dmaPreempted n).dmaWoken n).dma with active := some n } } n
      else (s.dmaPreempted n).dmaWoken n := by
  simp only [State.dmaServe, hen, Bool.not_true, Bool.false_eq_true, if_false, hpick]
  rfl

end

/-! The end of a burst (R119). -/

section
variable {s : State} {n : Nat}

theorem dmaComplete_early
    (h : ¬(s.f (F.DMA_CH_STAT_STATE n) = 1 ∧ (s.dch n).burstOpen = true ∧ nBeats (s.chRec n).len ≤ (s.dch n).beat)) :
    s.dmaComplete n = s :=
  if_pos (by_contra fun hc => h (by simpa [and_assoc] using hc))

/-- The channel once a burst is complete: its record closed, its addresses and REM moved past the burst. -/
def State.dmaClosed (s : State) (n : Nat) : State :=
  (((s.modRec n (fun r => { r with state := 2 })).dmaYield n).modDch n (fun x => { x with
    src := if (s.dch n).sinc then ((s.dch n).src + (s.chRec n).len) % 2 ^ 32 else (s.dch n).src
    dst := if (s.dch n).dinc then ((s.dch n).dst + (s.chRec n).len) % 2 ^ 32 else (s.dch n).dst
    burstOpen := false, ready := false })).setF (F.DMA_CH_REM_VALUE n) (s.f (F.DMA_CH_REM_VALUE n) - (s.chRec n).len)

variable
  (h : s.f (F.DMA_CH_STAT_STATE n) = 1 ∧ (s.dch n).burstOpen = true ∧ nBeats (s.chRec n).len ≤ (s.dch n).beat)
include h

theorem dmaComplete_closed :
    s.dmaComplete n =
      if 0 < s.f (F.DMA_CH_REM_VALUE n) - (s.chRec n).len then (s.dmaClosed n).openBurst n
      else if !(s.dch n).last then ((s.dmaClosed n).setF (F.DMA_CH_CUR_VALUE n) (s.dch n).nextDesc).fetchDesc n
      else
        (((s.dmaClosed n).setF (F.DMA_CH_STAT_STATE n) 0).setFlag (F.DMA_CH_STAT_DONE n) true).when (s.dch n).irq
          (fun s => s.raise (128 + n)) :=
  if_neg (by simp [h])

theorem dmaComplete_burstsLeft (hrem : 0 < s.f (F.DMA_CH_REM_VALUE n) - (s.chRec n).len) :
    s.dmaComplete n = (s.dmaClosed n).openBurst n := by
  rw [dmaComplete_closed h, if_pos hrem]

variable (hrem : s.f (F.DMA_CH_REM_VALUE n) ≤ (s.chRec n).len)
include hrem

theorem dmaComplete_chained (hlast : (s.dch n).last = false) :
    s.dmaComplete n = ((s.dmaClosed n).setF (F.DMA_CH_CUR_VALUE n) (s.dch n).nextDesc).fetchDesc n := by
  rw [dmaComplete_closed h, if_neg (by omega), if_pos (by simp [hlast])]

theorem dmaComplete_done (hlast : (s.dch n).last = true) :
    s.dmaComplete n =
      (((s.dmaClosed n).setF (F.DMA_CH_STAT_STATE n) 0).setFlag (F.DMA_CH_STAT_DONE n) true).when (s.dch n).irq
        (fun s => s.raise (128 + n)) := by
  rw [dmaComplete_closed h, if_neg (by omega), if_neg (by simp [hlast])]

end

/-! Faults of a running burst (R123). -/

section
variable {s : State} {n : Nat}

theorem dmaFaulted_idle {f : BurstFault} (h : ¬(s.f (F.DMA_CH_STAT_STATE n) = 1 ∧ (s.dch n).burstOpen = true)) :
    s.dmaFaulted n f = s :=
  if_pos (by_contra fun hc => h (by simpa using hc))

/-- The source address of the channel's next beat. -/
def State.beatSrc (s : State) (n : Nat) : Nat :=
  if (s.dch n).sinc then (s.chRec n).src + 8 * (s.dch n).beat else (s.chRec n).src

/-- Where that address lies, as far as it translates. -/
def State.beatSrcPa (s : State) (n : Nat) : Nat :=
  (s.ioTranslate (s.f (F.DMA_CH_CFG_CTX n)) n (s.beatSrc n) false).2.getD (s.beatSrc n)

/-- The destination address of the channel's next beat. -/
def State.beatDst (s : State) (n : Nat) : Nat :=
  if (s.dch n).dinc then (s.chRec n).dst + 8 * (s.dch n).beat else (s.chRec n).dst

/-- Where that address lies, as far as it translates. -/
def State.beatDstPa (s : State) (n : Nat) : Nat :=
  (s.ioTranslate (s.f (F.DMA_CH_CFG_CTX n)) n (s.beatDst n) true).2.getD (s.beatDst n)

variable (h : s.f (F.DMA_CH_STAT_STATE n) = 1 ∧ (s.dch n).burstOpen = true)
include h

theorem dmaFaulted_ecc :
    s.dmaFaulted n .eccSource = (s.eccRecord (s.beatSrcPa n) (eccStore (s.beatSrcPa n))).dmaEcc n (s.beatSrc n) :=
  if_neg (by simp [h])

theorem dmaFaulted_bus : s.dmaFaulted n .busError = s.dmaError n 5 (s.beatSrc n) :=
  if_neg (by simp [h])

theorem dmaFaulted_popLost : s.dmaFaulted n .popLost = s.dmaError n 8 (s.beatSrc n) :=
  if_neg (by simp [h])

/-- The reset island is taken for the source's where it can be, else for the destination's. -/
theorem dmaFaulted_islandReset :
    s.dmaFaulted n .islandReset =
      if (addrIsland (s.beatSrcPa n) ≠ 3 && (s.inL3 (addrIsland (s.beatSrcPa n)) || !s.inL3 (addrIsland (s.beatDstPa n)))) = true
      then s.beatFault n (.l3 (s.beatSrc n) (addrIsland (s.beatSrcPa n))) true
      else s.beatFault n (.l3 (s.beatDst n) (addrIsland (s.beatDstPa n))) false :=
  if_neg (by simp [h])

end

end Sys2Proof.Machine
end

