-- ==== Sys2Proof/Proofs/RegisterRows.lean ====
section
/-! PROOF. Register reads and writes as commands and as requests (R4, R5, R39, R40), and the rows of chapter 04. -/
namespace Sys2Proof.Machine

/-! A register write (R4, R5). -/

section
variable {s : State} {who : Who} {a : Nat} {w : Word}

theorem regWrite_refused (h : s.regOk who a = false ∨ a % 4 ≠ 0) : s.regWrite who a w = s.busErr who :=
  if_pos (by simpa using h)

variable (hok : s.regOk who a = true) (hal : a % 4 = 0) (hcan : a < 0x40100000 ∨ 0x40200000 ≤ a)
  (hjrn : a < 0x40028000 ∨ 0x40030000 ≤ a)
include hok hal hcan hjrn

/-- Outside CAN and the journal window the register map decides. -/
theorem regWrite_mapped :
    s.regWrite who a w = (regAt a).elim (s.busErr who) (fun g => (s.wrBlock who a w).getD (s.plainWrite g a w)) := by
  refine (if_neg (by simp [hok, hal])).trans ((if_neg (by omega)).trans ((if_neg (by omega)).trans ?_))
  cases regAt a <;> rfl

theorem regWrite_undefined (hnone : regAt a = none) : s.regWrite who a w = s.busErr who := by
  rw [regWrite_mapped hok hal hcan hjrn, hnone, Option.elim_none]

variable {g : RegDef} (hg : regAt a = some g)
include hg

theorem regWrite_plain (hb : s.wrBlock who a w = none) : s.regWrite who a w = s.plainWrite g a w := by
  rw [regWrite_mapped hok hal hcan hjrn, hg, hb, Option.elim_some, Option.getD_none]

theorem regWrite_block {t : State} (hb : s.wrBlock who a w = some t) : s.regWrite who a w = t := by
  rw [regWrite_mapped hok hal hcan hjrn, hg, hb, Option.elim_some, Option.getD_some]

end

/-! A register read (R5, R115). -/

section
variable {s t : State} {who : Who} {addr : Word}

theorem exec_registerReadClear_word {w : Word} (h : s.regRead who addr.toNat = (t, some w)) :
    exec (.registerReadClear who addr) s = .next (t.emit .bus (leBytes 4 w.toNat)) := by
  refine congrArg Host.Outcome.next ?_
  simp only [h]

theorem exec_registerReadClear_none (h : s.regRead who addr.toNat = (t, none)) :
    exec (.registerReadClear who addr) s = .next (t.readFails who addr.toNat) := by
  refine congrArg Host.Outcome.next ?_
  simp only [h]

/-- A core that issues takes the data-access exception at its load. -/
theorem readFails_core {c : CoreId} {p : Fin 3} {a : Nat} (hi : s.issues c = true) :
    s.readFails (.core c p) a = (((s.begins c).spend c s.freeNat).useFree).fkExc c (excAt 4 3 (some (toW a))) :=
  if_pos hi

theorem readFails_other {a : Nat} (h : ¬∃ c p, who = .core c p) : s.readFails who a = s.busErr who := by
  cases who with
  | core c p => exact absurd ⟨c, p, rfl⟩ h
  | dma n => rfl
  | debug => rfl

end

/-! REG_READ (R39, R40). -/

section
variable {c : Ctx} {s : State} (hl : c.pl.length = 6)
include hl

theorem bodyRegRead_badCount (hn : leAt c.pl 4 2 = 0 ∨ 1024 < leAt c.pl 4 2) : bodyRegRead c s = s.badParam c.key 4 :=
  (if_pos hl).trans (if_pos hn)

variable (hn : ¬(leAt c.pl 4 2 = 0 ∨ 1024 < leAt c.pl 4 2))
include hn

theorem bodyRegRead_badAddr (hall : (List.range (leAt c.pl 4 2)).all (fun i => s.reqReg (leAt c.pl 0 4 + 4 * i)) = false) :
    bodyRegRead c s = s.badParam c.key 0 :=
  (if_pos hl).trans ((if_neg hn).trans (if_pos (by rw [hall]; rfl)))

theorem bodyRegRead_words (hall : (List.range (leAt c.pl 4 2)).all (fun i => s.reqReg (leAt c.pl 0 4 + 4 * i)) = true) :
    bodyRegRead c s =
      (State.regReads (leAt c.pl 4 2) (leAt c.pl 0 4) s).1.ok c.key (State.regReads (leAt c.pl 4 2) (leAt c.pl 0 4) s).2 :=
  (if_pos hl).trans ((if_neg hn).trans (if_neg (by rw [hall]; decide)))

end

/-! REG_WRITE (R39, R40). -/

section
variable {c : Ctx} {s t : State} (hl : c.pl.length = 12)
include hl

theorem bodyRegWrite_badAddr (ha : s.reqReg (leAt c.pl 0 4) = false) : bodyRegWrite c s = s.badParam c.key 0 :=
  (if_pos hl).trans (if_pos (by rw [ha]; rfl))

-- `w` is the word that is stored over `old`: VALUE in the bits of MASK.
variable {old w : Word} (ha : s.reqReg (leAt c.pl 0 4) = true) (hold : s.regRead whoStew (leAt c.pl 0 4) = (t, some old))
  (hw : (old &&& ~~~toW (leAt c.pl 4 4)) ||| (toW (leAt c.pl 8 4) &&& toW (leAt c.pl 4 4)) = w)
include ha hold hw

theorem bodyRegWrite_conflict {id : Nat} (href : t.refusedAct whoStew (leAt c.pl 0 4) w = some id) :
    bodyRegWrite c s = t.cmdConflict c.key id := by
  simp only [bodyRegWrite, fixedLen, if_pos hl, ha, Bool.not_true, Bool.false_eq_true, if_false, hold, Option.getD_some, hw, href]

theorem bodyRegWrite_stored {u : State} {back : Word} (href : t.refusedAct whoStew (leAt c.pl 0 4) w = none)
    (hback : (t.regWrite whoStew (leAt c.pl 0 4) w).regRead whoStew (leAt c.pl 0 4) = (u, some back)) :
    bodyRegWrite c s = u.ok c.key (leBytes 4 back.toNat) := by
  simp only [bodyRegWrite, fixedLen, if_pos hl, ha, Bool.not_true, Bool.false_eq_true, if_false, hold, Option.getD_some, hw, href,
    hback]

end

/-- Settles O44, row by row: the Event Fabric, lockstep, TLB and IOMMU, the DMA channels, then the register rows. Where the rules
leave a point open, the clauses rest on the model's choices in logs 14, 15, 21, 24, 34, 189 and 192. -/
theorem eventFabricMmuAndDmaCommandsActAsTheTablesSay : Obligations.EventFabricMmuAndDmaCommandsActAsTheTablesSay := by
  unfold Obligations.EventFabricMmuAndDmaCommandsActAsTheTablesSay
  refine ⟨?pulse, ?noPulse, ?ackNone, ?ackLevel, ?ackPulse, ?eoi, ?eoiIdle, ?swtrig, ?pendClear, ?postedStore,
    ?mismatchTest, ?mismatchStop, ?mismatchOff, ?inject, ?tlbAll, ?tlbNonglobal, ?tlbAsid, ?tlbPage, ?tlbLockRow, ?tlbLock,
    ?iommuInv, ?start, ?startRefused, ?abort, ?abortRefused, ?resume, ?resumeRefused, ?errClear, ?errClearOther, ?request,
    ?noRequest, ?l3wait, ?noL3wait, ?dmaError, ?dmaReplay, ?fetchDesc, ?beatNone, ?beat, ?beatNotActive, ?early, ?burstsLeft,
    ?chained, ?done, ?faultIdle, ?faultEcc, ?faultBus, ?faultPopLost, ?faultReset, ?writeRefused, ?writeUndefined,
    ?writePlain, ?writeBlock, ?readWord, ?readCoreFails, ?readFails, ?regReadCount, ?regReadAddr, ?regRead, ?regWriteAddr,
    ?regWrite, ?regWriteConflict⟩
  case pulse => exact fun src s hlist hlvl => congrArg Host.Outcome.next (if_pos (by simp [hlist, hlvl]))
  case noPulse => exact fun src s h => congrArg Host.Outcome.next (if_neg (by rcases h with h | h <;> simp [h]))
  case ackNone => exact fun who t s hok hnone => exec_evtTgtAckRead hok (evtAck_none hnone)
  case ackLevel => exact fun who t s p k hok htop hk => exec_evtTgtAckRead hok (evtAck_level htop hk)
  case ackPulse => exact fun who t s p k hok htop hk => exec_evtTgtAckRead hok (evtAck_pulse htop hk)
  case eoi => exact fun who t s p hok hrun => congrArg Host.Outcome.next ((regDo_ok hok).trans (evtEoi_active hrun))
  case eoiIdle => exact fun who t s hok hrun => congrArg Host.Outcome.next ((regDo_ok hok).trans (evtEoi_idle hrun))
  case swtrig => exact fun who idx s hok => congrArg Host.Outcome.next (regDo_ok hok)
  case pendClear => exact fun who w value s hok => congrArg Host.Outcome.next (regDo_ok hok)
  case postedStore => exact fun c s => rfl
  case mismatchTest =>
    rintro p pc unit s _ _ rfl hrun rfl htest
    exact (exec_lockstepMismatch_on hrun).trans (congrArg Host.Outcome.next (if_pos htest))
  case mismatchStop =>
    rintro p pc unit s _ _ rfl hrun rfl htest
    exact (exec_lockstepMismatch_on hrun).trans (congrArg Host.Outcome.next (if_neg (Bool.eq_false_iff.1 htest)))
  case mismatchOff => exact fun p pc unit s => exec_lockstepMismatch_off
  case inject => exact fun p s => rfl
  case tlbAll => exact fun c s => rfl
  case tlbNonglobal => exact fun c s => rfl
  case tlbAsid => exact fun c asid s => congrArg Host.Outcome.next (tlbOp_asid s c asid)
  case tlbPage => exact fun c page s => congrArg Host.Outcome.next (tlbOp_page s c page)
  case tlbLockRow => exact fun c page s => congrArg Host.Outcome.next (tlbOp_lock s c page)
  case tlbLock =>
    rintro s c page _ t x u v b rfl
    refine ⟨tlbLock_full, tlbLock_fault, ?_⟩
    rintro hroom hwalk rfl hkeep
    exact tlbLock_walked hroom hwalk hkeep
  case iommuInv => exact fun who ctx all s hok => congrArg Host.Outcome.next (regDo_ok hok)
  case start =>
    exact fun who ch s hok hidle hen => congrArg Host.Outcome.next ((regDo_ok hok).trans (dmaStart_idle hidle hen))
  case startRefused => exact fun who ch s hok h => congrArg Host.Outcome.next ((regDo_ok hok).trans (dmaStart_refused h))
  case abort => exact fun who ch s hok h => congrArg Host.Outcome.next ((regDo_ok hok).trans (if_pos h))
  case abortRefused => exact fun who ch s hok h => congrArg Host.Outcome.next ((regDo_ok hok).trans (if_neg h))
  case resume => exact fun who ch s hok h => congrArg Host.Outcome.next ((regDo_ok hok).trans (if_pos h))
  case resumeRefused => exact fun who ch s hok h => congrArg Host.Outcome.next ((regDo_ok hok).trans (if_neg h))
  case errClear => exact fun who ch s hok h => congrArg Host.Outcome.next ((regDo_ok hok).trans (dmaErrClear_error h))
  case errClearOther => exact fun who ch s hok h => congrArg Host.Outcome.next ((regDo_ok hok).trans (dmaErrClear_other h))
  case request => exact fun ch s h => congrArg Host.Outcome.next (if_neg h)
  case noRequest => exact fun ch s h => congrArg Host.Outcome.next (if_pos h)
  case l3wait => exact fun ch s hst hcause => congrArg Host.Outcome.next (if_pos (by simp [hst, hcause]))
  case noL3wait => exact fun ch s h => congrArg Host.Outcome.next (if_neg (by rcases h with h | h <;> simp [h]))
  case dmaError =>
    rintro s n cause fa _ _ rfl rfl
    rfl
  case dmaReplay =>
    rintro s n _ _ rfl rfl
    rfl
  case fetchDesc =>
    rintro s n _ t d fa rfl hal
    exact ⟨fetchDesc_iommu hal, fetchDesc_bus hal, fetchDesc_ecc hal, fetchDesc_bad hal, fetchDesc_good hal⟩
  case beatNone => exact fun s h => congrArg Host.Outcome.next (dmaServe_nothing h)
  case beat =>
    rintro s n _ _ hen hpick rfl rfl hact
    exact congrArg Host.Outcome.next ((dmaServe_picked hen hpick).trans (if_pos hact))
  case beatNotActive =>
    rintro s n _ _ hen hpick rfl rfl hact
    exact congrArg Host.Outcome.next ((dmaServe_picked hen hpick).trans (if_neg hact))
  case early => exact fun ch s h => congrArg Host.Outcome.next (dmaComplete_early h)
  case burstsLeft =>
    rintro ch s _ _ h rfl rfl hrem
    exact congrArg Host.Outcome.next (dmaComplete_burstsLeft h hrem)
  case chained =>
    rintro ch s _ _ h rfl rfl hrem hlast
    exact congrArg Host.Outcome.next (dmaComplete_chained h hrem hlast)
  case done =>
    rintro ch s _ _ h rfl rfl hrem hlast
    exact congrArg Host.Outcome.next (dmaComplete_done h hrem hlast)
  case faultIdle => exact fun ch fault s h => congrArg Host.Outcome.next (dmaFaulted_idle h)
  case faultEcc =>
    rintro ch _ s _ _ h rfl rfl rfl
    exact congrArg Host.Outcome.next (dmaFaulted_ecc h)
  case faultBus =>
    rintro ch _ s _ _ h rfl rfl rfl
    exact congrArg Host.Outcome.next (dmaFaulted_bus h)
  case faultPopLost =>
    rintro ch _ s _ _ h rfl rfl rfl
    exact congrArg Host.Outcome.next (dmaFaulted_popLost h)
  case faultReset =>
    rintro ch _ s _ _ _ _ h rfl rfl rfl rfl rfl
    exact congrArg Host.Outcome.next (dmaFaulted_islandReset h)
  case writeRefused => exact fun who addr value s h => congrArg Host.Outcome.next (regWrite_refused h)
  case writeUndefined =>
    exact fun who addr value s hok hal hcan hjrn hnone =>
      congrArg Host.Outcome.next (regWrite_undefined hok hal hcan hjrn hnone)
  case writePlain =>
    exact fun who addr value s g hok hal hcan hjrn hg hb =>
      congrArg Host.Outcome.next (regWrite_plain hok hal hcan hjrn hg hb)
  case writeBlock =>
    exact fun who addr value s g t hok hal hcan hjrn hg hb =>
      congrArg Host.Outcome.next (regWrite_block hok hal hcan hjrn hg hb)
  case readWord => exact fun who addr s t w => exec_registerReadClear_word
  case readCoreFails =>
    rintro _ addr s t c p h rfl hi
    rw [exec_registerReadClear_none h, readFails_core hi]
  case readFails =>
    intro who addr s t h hcore
    rw [exec_registerReadClear_none h, readFails_other hcore]
  case regReadCount => exact fun r s x s1 h hl hn => exec_of_body rfl h (bodyRegRead_badCount hl hn)
  case regReadAddr =>
    rintro r s x s1 _ h hl rfl hlow hhigh hall
    exact exec_of_body rfl h (bodyRegRead_badAddr hl (by dsimp only; omega) hall)
  case regRead =>
    rintro r s x s1 _ h hl rfl hlow hhigh hall
    exact exec_of_body rfl h (bodyRegRead_words hl (by dsimp only; omega) hall)
  case regWriteAddr => exact fun r s x s1 h hl ha => exec_of_body rfl h (bodyRegWrite_badAddr hl ha)
  case regWrite =>
    rintro r s x s1 _ t old u back h hl rfl ha hold href hback
    exact exec_of_body rfl h (bodyRegWrite_stored (c := ⟨rkeyOf r, x, r.payload⟩) hl ha hold rfl href hback)
  case regWriteConflict =>
    rintro r s x s1 _ t old id h hl rfl ha hold href
    exact exec_of_body rfl h (bodyRegWrite_conflict (c := ⟨rkeyOf r, x, r.payload⟩) hl ha hold rfl href)

end Sys2Proof.Machine
end

