-- ==== Sys2Proof/Proofs/RakeLoads.lean ====
section
/-! PROOF. LOAD_MAP and LOAD_BLOCK (R141, R142, R158): the checks of a part in their order, the end of a load, a stored block. -/
namespace Sys2Proof.Machine

/-! A part of a map (R142). -/

section
variable {c : Ctx} {s : State} {n : Nat}

theorem loadMap_short (hl : c.pl.length < 6) : bodyLoadMap c s = s.badLen c.key 6 := if_pos hl

/-- No count of entries gives the length, or one past 511 does (log 127, DEDUCED). -/
theorem loadMap_ragged (hl : 6 ≤ c.pl.length) (hn : n = (c.pl.length - 6) / 8) (hbad : c.pl.length ≠ 6 + 8 * n ∨ 511 < n) :
    bodyLoadMap c s = s.badLen c.key (6 + 8 * min n 511) := by
  subst hn
  exact (if_neg (Nat.not_lt.2 hl)).trans (if_pos hbad)

variable (hl : c.pl.length = 6 + 8 * n) (hn : n ≤ 511)
include hl hn

theorem loadMap_noPan (hp : panOf (leAt c.pl 0 1) = none) : bodyLoadMap c s = s.badParam c.key 0 := by
  have hk : (c.pl.length - 6) / 8 = n := by omega
  simp only [bodyLoadMap, hk, hp]
  rw [if_neg (by omega), if_neg (by omega)]

variable {p : PanId} (hp : panOf (leAt c.pl 0 1) = some p)
include hp

/-- A part for a Pan is checked field by field; one that passes makes the list `l`. -/
theorem loadMap_part {l : List Nat} (hlist : l = (s.pan p).part ++ (List.range n).map (fun i => leAt c.pl (6 + 8 * i) 8)) :
    bodyLoadMap c s =
      if leAt c.pl 1 1 ≠ 0 then s.badParam c.key 1
      else if (s.panMode p ≠ 0 ∧ s.panMode p ≠ 1) ∨ s.hsPaired = true then (s.partDrop p).wrongState c.key (s.panMode p)
      else if leAt c.pl 2 2 ≠ (s.pan p).part.length then (s.partDrop p).badParam c.key 2
      else if ((s.pan p).partTotal.isSome && (s.pan p).partTotal != some (leAt c.pl 4 2)) = true then
        (s.partDrop p).badParam c.key 4
      else if leAt c.pl 4 2 < leAt c.pl 2 2 + n then
        (s.partDrop p).badParam c.key (6 + 8 * (leAt c.pl 4 2 - leAt c.pl 2 2))
      else if l.length = leAt c.pl 4 2 then s.mapEnd c.key p l
      else (s.modPan p (fun x => { x with part := l, partTotal := some (leAt c.pl 4 2) })).ok c.key (leBytes 4 0) := by
  subst hlist
  have hk : (c.pl.length - 6) / 8 = n := by omega
  simp only [bodyLoadMap, hk, hp]
  rw [if_neg (by omega), if_neg (by omega)]

theorem loadMap_badReserved (hres : leAt c.pl 1 1 ≠ 0) : bodyLoadMap c s = s.badParam c.key 1 :=
  (loadMap_part hl hn hp rfl).trans (if_pos hres)

variable (hres : leAt c.pl 1 1 = 0)
include hres

theorem loadMap_busy (hbusy : (s.panMode p ≠ 0 ∧ s.panMode p ≠ 1) ∨ s.hsPaired = true) :
    bodyLoadMap c s = (s.partDrop p).wrongState c.key (s.panMode p) := by
  rw [loadMap_part hl hn hp rfl, if_neg (not_not.2 hres), if_pos hbusy]

variable (hidle : ¬((s.panMode p ≠ 0 ∧ s.panMode p ≠ 1) ∨ s.hsPaired = true))
include hidle

theorem loadMap_badFirst (hfirst : leAt c.pl 2 2 ≠ (s.pan p).part.length) :
    bodyLoadMap c s = (s.partDrop p).badParam c.key 2 := by
  rw [loadMap_part hl hn hp rfl, if_neg (not_not.2 hres), if_neg hidle, if_pos hfirst]

variable (hfirst : leAt c.pl 2 2 = (s.pan p).part.length)
include hfirst

theorem loadMap_badTotal (hsome : (s.pan p).partTotal ≠ none) (htotal : (s.pan p).partTotal ≠ some (leAt c.pl 4 2)) :
    bodyLoadMap c s = (s.partDrop p).badParam c.key 4 := by
  rw [loadMap_part hl hn hp rfl, if_neg (not_not.2 hres), if_neg hidle, if_neg (not_not.2 hfirst),
    if_pos (by simp [Option.isSome_iff_ne_none, hsome, htotal])]

variable (htotal : (s.pan p).partTotal = none ∨ (s.pan p).partTotal = some (leAt c.pl 4 2))
include htotal

theorem loadMap_tooMany (hover : leAt c.pl 4 2 < leAt c.pl 2 2 + n) :
    bodyLoadMap c s = (s.partDrop p).badParam c.key (6 + 8 * (leAt c.pl 4 2 - leAt c.pl 2 2)) := by
  rw [loadMap_part hl hn hp rfl, if_neg (not_not.2 hres), if_neg hidle, if_neg (not_not.2 hfirst),
    if_neg (by rcases htotal with h | h <;> simp [h]), if_pos hover]

variable (hroom : leAt c.pl 2 2 + n ≤ leAt c.pl 4 2) {l : List Nat}
  (hlist : l = (s.pan p).part ++ (List.range n).map (fun i => leAt c.pl (6 + 8 * i) 8))
include hroom hlist

/-- A part that passes every check is appended. -/
theorem loadMap_append :
    bodyLoadMap c s =
      if l.length = leAt c.pl 4 2 then s.mapEnd c.key p l
      else (s.modPan p (fun x => { x with part := l, partTotal := some (leAt c.pl 4 2) })).ok c.key (leBytes 4 0) := by
  rw [loadMap_part hl hn hp hlist, if_neg (not_not.2 hres), if_neg hidle, if_neg (not_not.2 hfirst),
    if_neg (by rcases htotal with h | h <;> simp [h]), if_neg (Nat.not_lt.2 hroom)]

end

/-! The end of a load (R141, R142): the answer of the map's checks decides. -/

section
variable {s t : State} {k : RKey} {p : PanId} {l : List Nat} (ht : t = s.partDrop p)
include ht

/-- A refused entry is named by its offset, modulo 2^16 (log 80, DESIGN CHOICE). -/
theorem mapEnd_bad {i : Nat} (hc : t.mapCheck p l = .bad i) : s.mapEnd k p l = t.badParam k ((6 + 8 * i) % 65536) := by
  subst ht
  simp only [State.mapEnd, hc]

theorem mapEnd_conflict {id : Nat} (hc : t.mapCheck p l = .conflict id) : s.mapEnd k p l = t.cmdConflict k id := by
  subst ht
  simp only [State.mapEnd, hc]

theorem mapEnd_limit {id : Nat} (hc : t.mapCheck p l = .limit id) : s.mapEnd k p l = t.limit k id := by
  subst ht
  simp only [State.mapEnd, hc]

variable (hc : t.mapCheck p l = .ok)
include hc

/-- A map that passes is installed, unless it changes tAPPLY under the other Pan. -/
theorem mapEnd_checked :
    s.mapEnd k p l =
      if (t.panBusy p.other && tApply (nOut l + nOut (t.pan p.other).map) != t.f F.RAKE_TIME_TAPPLY) = true
        then t.wrongState k (t.panMode p.other)
        else (t.mapInstall p l).ok k (leBytes 4 (100 * tApply (nOut l + nOut (t.pan p.other).map))) := by
  subst ht
  simp only [State.mapEnd, hc]

theorem mapEnd_installed
    (hfree : t.panBusy p.other = false ∨ tApply (nOut l + nOut (t.pan p.other).map) = t.f F.RAKE_TIME_TAPPLY) :
    s.mapEnd k p l = (t.mapInstall p l).ok k (leBytes 4 (100 * tApply (nOut l + nOut (t.pan p.other).map))) :=
  (mapEnd_checked ht hc).trans (if_neg (by rcases hfree with h | h <;> simp [h]))

theorem mapEnd_held (hbusy : t.panBusy p.other = true)
    (htime : tApply (nOut l + nOut (t.pan p.other).map) ≠ t.f F.RAKE_TIME_TAPPLY) :
    s.mapEnd k p l = t.wrongState k (t.panMode p.other) :=
  (mapEnd_checked ht hc).trans (if_pos (by simp [hbusy, htime]))

end

/-! LOAD_BLOCK (R158, R166). -/

section
variable {c : Ctx} {s : State}

theorem loadBlock_short (hl : c.pl.length < 7) : bodyLoadBlock c s = s.badLen c.key 7 := if_pos hl

variable (hl : 7 ≤ c.pl.length)
include hl

theorem loadBlock_noPan (hp : panOf (leAt c.pl 0 1) = none) : bodyLoadBlock c s = s.badParam c.key 0 := by
  simp only [bodyLoadBlock, if_neg (Nat.not_lt.2 hl), hp]

variable {p : PanId} (hp : panOf (leAt c.pl 0 1) = some p)
include hp

theorem loadBlock_badBlock (hb : 1023 < leAt c.pl 1 2) : bodyLoadBlock c s = s.badParam c.key 1 := by
  simp only [bodyLoadBlock, if_neg (Nat.not_lt.2 hl), hp, if_pos hb]

variable (hb : leAt c.pl 1 2 ≤ 1023)
include hb

theorem loadBlock_busy (hbusy : (s.panMode p ≠ 0 ∧ s.panMode p ≠ 1) ∨ s.hsPaired = true) :
    bodyLoadBlock c s = s.wrongState c.key (s.panMode p) := by
  simp only [bodyLoadBlock, if_neg (Nat.not_lt.2 hl), hp, if_neg (Nat.not_lt.2 hb)]
  exact if_pos hbusy

-- `new` are the Pan's blocks with the request's bytes stored.
variable (hidle : ¬((s.panMode p ≠ 0 ∧ s.panMode p ≠ 1) ∨ s.hsPaired = true)) {new : Tbl (List Byte)}
  (hnew : new = tblSet (s.pan p).blocks (leAt c.pl 1 2)
    (blockPut (tblGet (s.pan p).blocks (leAt c.pl 1 2)) (leAt c.pl 3 4) (c.pl.drop 7)))
include hidle hnew

theorem loadBlock_full (hfull : 0x100000 < leAt c.pl 3 4 + (c.pl.drop 7).length ∨ 0x100000 < blockBytes new) :
    bodyLoadBlock c s = s.limit c.key 0x0503 := by
  subst hnew
  simp only [bodyLoadBlock, if_neg (Nat.not_lt.2 hl), hp, if_neg (Nat.not_lt.2 hb)]
  exact (if_neg hidle).trans (if_pos hfull)

/-- A block that fits is stored (its bytes by log 76, DESIGN CHOICE); the one that completes a program enters STOP. -/
theorem loadBlock_stored {t : State} (hroom : ¬(0x100000 < leAt c.pl 3 4 + (c.pl.drop 7).length ∨ 0x100000 < blockBytes new))
    (ht : t = (s.pdForPan p).modPan p (fun x =>
      { x with blocks := new, crcs := if leAt c.pl 1 2 = 0 then [] else tblErase x.crcs (leAt c.pl 1 2) })) :
    bodyLoadBlock c s =
      (if (t.pan p).progOk = true then ((if t.panMode p = 0 then t.setMode p 1 else t).progCopy p).panRelease p else t).ok
        c.key [] := by
  subst hnew ht
  simp only [bodyLoadBlock, if_neg (Nat.not_lt.2 hl), hp, if_neg (Nat.not_lt.2 hb)]
  exact (if_neg hidle).trans (if_neg hroom)

end

end Sys2Proof.Machine
end

