-- ==== Sys2Proof/Proofs/PanModes.lean ====
section
/-! PROOF. PAN_MODE and the checks of a start (R158), overruns and the end of the logic phase (R150, R151). -/
namespace Sys2Proof.Machine

/-! The checks of a start, in the order of R158. -/

section
variable {s : State} {p : PanId} {warm : Bool} {share : Nat}

theorem startCheck_wrong (h : (s.panMode p ≠ 1 ∧ s.panMode p ≠ 4) ∨ s.flag F.SYSCTL_RSTLAST_STORM = true) :
    s.startCheck p warm = .wrong := if_pos h

variable (hmode : s.panMode p = 1 ∨ s.panMode p = 4) (hstorm : s.flag F.SYSCTL_RSTLAST_STORM = false)
include hmode hstorm

/-- A Pan in STOP or FAULT on a device without a reset storm needs the Rake and a map. -/
theorem startCheck_permitted :
    s.startCheck p warm =
      if s.flag F.RAKE_CTRL_EN = false ∨ (s.pan p).map = [] then .state
      else if (s.pan p).progOk = false then .failed 0x0512
      else if (if p = .a then s.f F.RAKE_RET_SPLIT else 32 - s.f F.RAKE_RET_SPLIT) < Config.progRetKib (s.pan p).header then
        .failed 0x0514
      else if s.timeOk s.pA.map s.pB.map p = false then .limit 0x0502
      else if (s.flag F.RING_HS_CFG_EN && decide (s.mirCap p / 2 < (mapLines (s.pan p).map).length)) = true then .limit 0x0601
      else if warm && (s.splitNew.retainSrc p).isNone then .failed 0x0510
      else .go := by
  refine (if_neg (by simp only [hstorm, Bool.false_eq_true, or_false]; omega)).trans ?_
  simp only [Bool.not_eq_true', List.isEmpty_iff]

theorem startCheck_state (h : s.flag F.RAKE_CTRL_EN = false ∨ (s.pan p).map = []) : s.startCheck p warm = .state :=
  (startCheck_permitted hmode hstorm).trans (if_pos h)

variable (hen : s.flag F.RAKE_CTRL_EN = true) (hmap : (s.pan p).map ≠ [])
include hen hmap

theorem startCheck_noProgram (hprog : (s.pan p).progOk = false) : s.startCheck p warm = .failed 0x0512 := by
  rw [startCheck_permitted hmode hstorm, if_neg (by simp [hen, hmap]), if_pos hprog]

variable (hprog : (s.pan p).progOk = true)
  (hshare : share = if p = .a then s.f F.RAKE_RET_SPLIT else 32 - s.f F.RAKE_RET_SPLIT)
include hprog hshare

theorem startCheck_smallShare (hsmall : share < Config.progRetKib (s.pan p).header) : s.startCheck p warm = .failed 0x0514 := by
  rw [startCheck_permitted hmode hstorm, if_neg (by simp [hen, hmap]), if_neg (by simp [hprog]), ← hshare, if_pos hsmall]

variable (hfits : Config.progRetKib (s.pan p).header ≤ share)
include hfits

theorem startCheck_noTime (htime : s.timeOk s.pA.map s.pB.map p = false) : s.startCheck p warm = .limit 0x0502 := by
  rw [startCheck_permitted hmode hstorm, if_neg (by simp [hen, hmap]), if_neg (by simp [hprog]), ← hshare,
    if_neg (Nat.not_lt.2 hfits), if_pos htime]

theorem startCheck_unpaired (htime : s.timeOk s.pA.map s.pB.map p = true) (hhs : s.flag F.RING_HS_CFG_EN = false) :
    s.startCheck p warm = if warm && (s.splitNew.retainSrc p).isNone then .failed 0x0510 else .go := by
  rw [startCheck_permitted hmode hstorm, if_neg (by simp [hen, hmap]), if_neg (by simp [hprog]), ← hshare,
    if_neg (Nat.not_lt.2 hfits), if_neg (by simp [htime]), if_neg (by simp [hhs])]

end

/-! PAN_MODE (R158). -/

section
variable {c : Ctx} {s : State} (hl : c.pl.length = 2)
include hl

theorem panMode_noPan (hp : panOf (leAt c.pl 0 1) = none) : bodyPanMode c s = s.badParam c.key 0 := by
  simp only [bodyPanMode, fixedLen, if_pos hl, hp]

variable {p : PanId} (hp : panOf (leAt c.pl 0 1) = some p)
include hp

theorem panMode_badMode (hm : 2 < leAt c.pl 1 1) : bodyPanMode c s = s.badParam c.key 1 := by
  simp only [bodyPanMode, fixedLen, if_pos hl, hp, if_pos hm]

/-- STOP answers at once; a mode without a row is WRONG_STATE (log 77, DESIGN CHOICE). -/
theorem panMode_stop (hm : leAt c.pl 1 1 = 0) :
    bodyPanMode c s =
      if s.panMode p = 3 then (s.modPan p (fun x => { x with stopReq := true })).ok c.key []
      else if s.panMode p = 4 then (s.setMode p 1).ok c.key []
      else s.wrongState c.key (s.panMode p) := by
  simp only [bodyPanMode, fixedLen, if_pos hl, hp, hm]
  rfl

variable {warm : Bool} (hm : 1 ≤ leAt c.pl 1 1 ∧ leAt c.pl 1 1 ≤ 2) (hwarm : warm = (leAt c.pl 1 1 == 1))
include hm hwarm

theorem panMode_runWrong (hq : s.startCheck p warm = .wrong) : bodyPanMode c s = s.wrongState c.key (s.panMode p) := by
  subst hwarm
  simp only [bodyPanMode, fixedLen, if_pos hl, hp, if_neg (Nat.not_lt.2 hm.2), if_neg (Nat.ne_of_gt hm.1), hq]

theorem panMode_runGo (hq : s.startCheck p warm = .go) :
    bodyPanMode c s = (s.accept c.key).panStart p warm (some c.key) := by
  subst hwarm
  simp only [bodyPanMode, fixedLen, if_pos hl, hp, if_neg (Nat.not_lt.2 hm.2), if_neg (Nat.ne_of_gt hm.1), hq]

/-- Any other refusal follows ACCEPTED (log 77, DESIGN CHOICE). -/
theorem panMode_runRefused {q : StartRes} (hq : s.startCheck p warm = q) (hwrong : q ≠ .wrong) (hgo : q ≠ .go) :
    bodyPanMode c s = (s.accept c.key).startRefuse p c.key q := by
  subst hwarm
  simp only [bodyPanMode, fixedLen, if_pos hl, hp, if_neg (Nat.not_lt.2 hm.2), if_neg (Nat.ne_of_gt hm.1), hq]

end

/-! The logic phase (R150, R151). -/

section
variable {s : State} {p : PanId}

/-- Nothing overruns but an undecided logic phase of a Pan in RUN that is no standby. -/
theorem overrun_none
    (h : ¬(s.panMode p = 3 ∧ (s.pan p).logic = true ∧ (s.pan p).overran = false ∧
      s.flag (F.RAKE_PAN_STATE_STANDBY p.num) = false)) :
    s.overrun p = s := by
  refine if_pos ?_
  simpa [← or_assoc, imp_iff_not_or] using h

-- `t` is the state in which the overrun is counted.
variable {t : State}
  (h : s.panMode p = 3 ∧ (s.pan p).logic = true ∧ (s.pan p).overran = false ∧ s.flag (F.RAKE_PAN_STATE_STANDBY p.num) = false)
  (ht : t = (((s.modPan p (fun x => { x with overran := true, ovrTotal := satAdd 65535 x.ovrTotal 1 })).setCons p
    ((s.pan p).cons + 1)).incF (F.RAKE_PAN_CNT_OVR p.num) 1).rakeEvt 4 p)
include h ht

theorem overrun_counted :
    s.overrun p =
      if t.f (F.RAKE_PAN_OVR_NCONS p.num) < (s.pan p).cons + 1 ∨ t.f (F.RAKE_PAN_CFG_ACTION p.num) = 2 then t.faultStop p
      else t.updCycle p.num false := by
  obtain ⟨hmode, hlogic, hover, hstandby⟩ := h
  subst ht
  exact if_neg (by simp [hmode, hlogic, hover, hstandby])

theorem overrun_stops (hstop : t.f (F.RAKE_PAN_OVR_NCONS p.num) < (s.pan p).cons + 1 ∨ t.f (F.RAKE_PAN_CFG_ACTION p.num) = 2) :
    s.overrun p = t.faultStop p :=
  (overrun_counted h ht).trans (if_pos hstop)

theorem overrun_goesOn (hcons : (s.pan p).cons + 1 ≤ t.f (F.RAKE_PAN_OVR_NCONS p.num))
    (haction : t.f (F.RAKE_PAN_CFG_ACTION p.num) ≠ 2) : s.overrun p = t.updCycle p.num false :=
  (overrun_counted h ht).trans (if_neg (not_or.2 ⟨Nat.not_lt.2 hcons, haction⟩))

end

section
variable {s : State} {p : PanId} {w : Nat}

theorem doneWrite_own (pl : Fin 3) : s.doneWrite (.core p.core pl) p w = if w % 2 = 1 then s.panDone p else s := if_pos rfl

theorem doneWrite_other {who : Who} (h : ∀ pl, who ≠ .core p.core pl) : s.doneWrite who p w = s.busErr who := by
  cases who with
  | core c pl => exact if_neg (fun (hc : c = p.core) => h pl (by rw [hc]))
  | dma n => rfl
  | debug => rfl

end

end Sys2Proof.Machine
end

