-- ==== Sys2Proof/Proofs/RakeRows.lean ====
section
/-! PROOF. Strobes, power-fail saves, captures, forces, image reads and RAKE_CTRL (R27, R136, R153, R154, R157, R168), and the rows
of chapter 05. -/
namespace Sys2Proof.Machine

/-! The apply strobe (R27, R28, R165, R195). -/

section
variable {s : State} {p : PanId}

theorem applyStrobe_none (h : (s.pan p).strobe = false) : s.applyStrobe p = s := if_pos (by simp [h])

/-- Clears, then limits, then commands take effect (log 79, DESIGN CHOICE), then the CAN objects. -/
theorem applyStrobe_given {sh : List Shadow} {t u v : State} (h : (s.pan p).strobe = true) (hsh : sh = (s.pan p).shadow)
    (ht : t = if (s.pan p).linkLost then s.modPan p (fun x => { x with strobe := false, shadow := [], linkLost := false })
      else (s.modPan p (fun x => { x with strobe := false, shadow := [], linkLost := false })).silEnd p)
    (hu : u = (sh.filter (fun (x : Shadow) => shadowStage x == 2)).foldl (State.applyOne sh)
      ((sh.filter (fun (x : Shadow) => shadowStage x == 1)).foldl (State.applyOne sh)
        ((sh.filter (fun (x : Shadow) => shadowStage x == 0)).foldl (State.applyOne sh) t)))
    (hv : v = u.applyCan sh) : s.applyStrobe p = if v.panMode p = 3 then v else v.panSilent p := by
  have hwhen : (s.modPan p (fun x => { x with strobe := false, shadow := [], linkLost := false })).when (!(s.pan p).linkLost)
      (fun s => s.silEnd p) = t := by
    rw [ht, State.when]
    cases (s.pan p).linkLost <;> rfl
  subst hsh hv hu
  rw [← hwhen]
  exact if_neg (by simp [h])

end

/-! The power-fail save (R157). -/

/-- A Pan's save is complete: its final checkpoint is taken, or its last one stands in for it. -/
theorem panSaved_guard (x : PanSt) : (x.final.isNone || decide (x.pfw < 2)) = false ↔ x.final ≠ none ∧ 2 ≤ x.pfw := by
  rw [Bool.or_eq_false_iff, decide_eq_false_iff_not, Nat.not_lt]
  cases x.final <;> simp

theorem pfwSaved_guard (s : State) :
    (!s.flag F.RAKE_PFW_ACTIVE || ((s.pA.final.isNone || s.pA.pfw < 2) && (s.pB.final.isNone || s.pB.pfw < 2))) = false ↔
      s.flag F.RAKE_PFW_ACTIVE = true ∧ ((s.pA.final ≠ none ∧ 2 ≤ s.pA.pfw) ∨ (s.pB.final ≠ none ∧ 2 ≤ s.pB.pfw)) := by
  rw [Bool.or_eq_false_iff, Bool.not_eq_false', Bool.and_eq_false_iff, panSaved_guard, panSaved_guard]

/-! Trigger captures (R154). -/

section
variable {t : Fin 8} {s u : State}

theorem exec_triggerCapture_none (hbit : bit s.rtrig t = false) : exec (.triggerCapture t) s = .next s :=
  congrArg Host.Outcome.next (if_pos (by simp [hbit]))

variable (hbit : bit s.rtrig t = true) (hu : u = { s with rtrig := putBit s.rtrig t false })
include hbit hu

theorem exec_triggerCapture_off (hoff : u.flag F.RAKE_CTRL_EN = false ∨ u.flag (F.RAKE_TRIG_CFG_EN t) = false) :
    exec (.triggerCapture t) s = .next u := by
  subst hu
  exact congrArg Host.Outcome.next ((if_neg (by simp [hbit])).trans (if_pos (by simpa using hoff)))

variable (hen : u.flag F.RAKE_CTRL_EN = true) (hgrp : u.flag (F.RAKE_TRIG_CFG_EN t) = true)
include hen hgrp

theorem exec_triggerCapture_busy (hbusy : bit u.rake.trigBusy t = true) : exec (.triggerCapture t) s = .next (u.raise 273) := by
  subst hu
  exact congrArg Host.Outcome.next ((if_neg (by simp [hbit])).trans ((if_neg (by simp [hen, hgrp])).trans (if_pos hbusy)))

theorem exec_triggerCapture_taken {v : State} (hidle : bit u.rake.trigBusy t = false)
    (hv : v = State.captPan t (State.captPan t { u with rake := { u.rake with trigBusy := putBit u.rake.trigBusy t true } } .a) .b) :
    exec (.triggerCapture t) s = .next (v.canLatch (2 + t) (trigEntries v.pA.map t ++ trigEntries v.pB.map t)) := by
  subst hu hv
  exact congrArg Host.Outcome.next
    ((if_neg (by simp [hbit])).trans ((if_neg (by simp [hen, hgrp])).trans (if_neg (by simp [hidle]))))

end

/-! Forces (R153). -/

section
variable {c : Ctx} {s : State} (hl : c.pl.length = 6)
include hl

theorem force_noPan (hp : panOf (leAt c.pl 0 1) = none) : bodyForce c s = s.badParam c.key 0 := by
  simp only [bodyForce, fixedLen, if_pos hl, hp]

variable {p : PanId} (hp : panOf (leAt c.pl 0 1) = some p)
include hp

theorem force_badBit (ha : forceable (leAt c.pl 1 4) = false) : bodyForce c s = s.badParam c.key 1 := by
  simp only [bodyForce, fixedLen, if_pos hl, hp, ha, Bool.not_false, if_true]

variable (ha : forceable (leAt c.pl 1 4) = true)
include ha

theorem force_badValue (hv : 1 < leAt c.pl 5 1) : bodyForce c s = s.badParam c.key 5 := by
  simp only [bodyForce, fixedLen, if_pos hl, hp, ha, Bool.not_true, Bool.false_eq_true, if_false, if_pos hv]

variable (hv : leAt c.pl 5 1 ≤ 1)
include hv

theorem force_full (hfull : (s.pan p).forces.any (fun x => x.1 == leAt c.pl 1 4) = false ∧ 256 ≤ (s.pan p).forces.length) :
    bodyForce c s = s.limit c.key 0x0504 := by
  simp only [bodyForce, fixedLen, if_pos hl, hp, ha, Bool.not_true, Bool.false_eq_true, if_false, if_neg (Nat.not_lt.2 hv)]
  exact if_pos (by simpa using hfull)

/-- A force that has room is added; one in the input image also goes into the buffer that the harvest writes. -/
theorem force_added {t : State}
    (hroom : ¬((s.pan p).forces.any (fun x => x.1 == leAt c.pl 1 4) = false ∧ 256 ≤ (s.pan p).forces.length))
    (ht : t = (s.modPan p (fun x => { x with
      forces := (s.pan p).forces.filter (fun f => f.1 != leAt c.pl 1 4) ++ [(leAt c.pl 1 4, leAt c.pl 5 1 == 1)] })).forceRegs p) :
    bodyForce c s =
      (if leAt c.pl 1 4 < 0x20000 * 8
        then t.setMbit (t.thirdBuf p + leAt c.pl 1 4 / 8) (leAt c.pl 1 4 % 8) (leAt c.pl 5 1 == 1) else t).ok c.key [] := by
  subst ht
  simp only [bodyForce, fixedLen, if_pos hl, hp, ha, Bool.not_true, Bool.false_eq_true, if_false, if_neg (Nat.not_lt.2 hv)]
  exact if_neg (by simpa using hroom)

end

section
variable {c : Ctx} {s : State} (hl : c.pl.length = 5)
include hl

theorem unforce_noPan (hp : panOf (leAt c.pl 0 1) = none) : bodyUnforce c s = s.badParam c.key 0 := by
  simp only [bodyUnforce, fixedLen, if_pos hl, hp]

variable {p : PanId} (hp : panOf (leAt c.pl 0 1) = some p)
include hp

theorem unforce_badBit (hall : leAt c.pl 1 4 ≠ 0xFFFFFFFF) (ha : forceable (leAt c.pl 1 4) = false) :
    bodyUnforce c s = s.badParam c.key 1 := by
  simp only [bodyUnforce, fixedLen, if_pos hl, hp]
  exact if_pos ⟨hall, by simp [ha]⟩

theorem unforce_all (hall : leAt c.pl 1 4 = 0xFFFFFFFF) :
    bodyUnforce c s = ((s.modPan p (fun x => { x with forces := [] })).forceRegs p).ok c.key [] := by
  simp only [bodyUnforce, fixedLen, if_pos hl, hp, hall]
  exact if_neg (fun h => h.1 rfl)

theorem unforce_one (hall : leAt c.pl 1 4 ≠ 0xFFFFFFFF) (ha : forceable (leAt c.pl 1 4) = true) :
    bodyUnforce c s =
      ((s.modPan p (fun x => { x with forces := x.forces.filter (fun f => f.1 != leAt c.pl 1 4) })).forceRegs p).ok c.key [] := by
  simp only [bodyUnforce, fixedLen, if_pos hl, hp, if_neg hall]
  exact if_neg (by simp [ha])

end

/-! IMAGE_READ (R136). -/

section
variable {c : Ctx} {s : State} (hl : c.pl.length = 7)
include hl

theorem imageRead_noPan (hp : panOf (leAt c.pl 0 1) = none) : bodyImageRead c s = s.badParam c.key 0 := by
  simp only [bodyImageRead, fixedLen, if_pos hl, hp]

variable {p : PanId} (hp : panOf (leAt c.pl 0 1) = some p)
include hp

theorem imageRead_badOffset (ha : 0x80000 ≤ leAt c.pl 1 4) : bodyImageRead c s = s.badParam c.key 1 := by
  simp only [bodyImageRead, fixedLen, if_pos hl, hp, if_pos ha]

variable (ha : leAt c.pl 1 4 < 0x80000)
include ha

theorem imageRead_badCount
    (hn : leAt c.pl 5 2 < 1 ∨ 4096 < leAt c.pl 5 2 ∨ 0x80000 < leAt c.pl 1 4 + leAt c.pl 5 2) :
    bodyImageRead c s = s.badParam c.key 5 := by
  simp only [bodyImageRead, fixedLen, if_pos hl, hp, if_neg (Nat.not_le.2 ha), if_pos hn]

theorem imageRead_bytes
    (hn : ¬(leAt c.pl 5 2 < 1 ∨ 4096 < leAt c.pl 5 2 ∨ 0x80000 < leAt c.pl 1 4 + leAt c.pl 5 2)) :
    bodyImageRead c s =
      s.ok c.key ((List.range (leAt c.pl 5 2)).map (fun i => memGet s.mem (s.imgAt p (leAt c.pl 1 4 + i)))) := by
  simp only [bodyImageRead, fixedLen, if_pos hl, hp, if_neg (Nat.not_le.2 ha), if_neg hn]

end

/-! RAKE_CTRL (R168). -/

section
variable {s : State} {w : Nat}

theorem rakeCtrl_kept (hw : w % 2 = 0) (hbusy : s.panBusy .a = true ∨ s.panBusy .b = true) : s.rakeCtrl w = s :=
  if_pos ⟨hw, by simpa using hbusy⟩

theorem rakeCtrl_stored (h : w % 2 = 1 ∨ (s.panBusy .a = false ∧ s.panBusy .b = false)) :
    s.rakeCtrl w = s.setF F.RAKE_CTRL_EN (w % 2) := by
  refine if_neg ?_
  rcases h with h | ⟨ha, hb⟩
  · exact fun hn => absurd (h.symm.trans hn.1) (by decide)
  · simp [ha, hb]

end

/-- Settles O45, row by row: loads, modes and starts, the logic phase, strobes and saves, captures, forces, RAKE_CTRL and silence.
Where the rules leave a point open, the clauses rest on the model's choices in logs 76, 77, 79, 80, 81, 121 and 127. -/
theorem rakeAndPanCommandsActAsTheTablesSay : Obligations.RakeAndPanCommandsActAsTheTablesSay := by
  unfold Obligations.RakeAndPanCommandsActAsTheTablesSay
  refine ⟨?mapShort, ?mapRagged, ?mapNoPan, ?mapReserved, ?mapBusy, ?mapFirst, ?mapTotal, ?mapTooMany, ?mapComplete, ?mapPart,
    ?mapEnd, ?blockShort, ?blockNoPan, ?blockNumber, ?blockBusy, ?blockFull, ?blockStored, ?modeNoPan, ?modeBad, ?stopRun,
    ?stopFault, ?stopOther, ?runWrong, ?runState, ?runFailed, ?runLimit, ?runGo, ?startCheck, ?started, ?notStarting,
    ?editIdle, ?editStored, ?noOverrun, ?overrunStops, ?overrunGoesOn, ?hardLimit, ?noHardLimit, ?done, ?doneZero, ?doneOther,
    ?noStrobe, ?strobe, ?ckptWritten, ?noCkpt, ?saveTimeout, ?noSaveTimeout, ?saved, ?notSaved, ?noCapture, ?captureOff,
    ?captureBusy, ?capture, ?noCaptureEnd, ?captureEnd, ?forceNoPan, ?forceBit, ?forceValue, ?forceFull, ?forceInput,
    ?forceOutput, ?unforceNoPan, ?unforceBit, ?unforceAll, ?unforceOne, ?readNoPan, ?readOffset, ?readCount, ?read,
    ?ctrlKept, ?ctrlStored, ?silence, ?bridgeHold⟩
  case mapShort => exact fun r s x s1 h hl => exec_of_body rfl h (loadMap_short hl)
  case mapRagged => exact fun r s x s1 n h hl hn hbad => exec_of_body rfl h (loadMap_ragged hl hn hbad)
  case mapNoPan => exact fun r s x s1 n h hl hn hp => exec_of_body rfl h (loadMap_noPan hl hn hp)
  case mapReserved => exact fun r s x s1 n p h hl hn hp hres => exec_of_body rfl h (loadMap_badReserved hl hn hp hres)
  case mapBusy => exact fun r s x s1 n p h hl hn hp hres hbusy => exec_of_body rfl h (loadMap_busy hl hn hp hres hbusy)
  case mapFirst =>
    exact fun r s x s1 n p h hl hn hp hres hidle hfirst =>
      exec_of_body rfl h (loadMap_badFirst hl hn hp hres hidle hfirst)
  case mapTotal =>
    exact fun r s x s1 n p h hl hn hp hres hidle hfirst hsome htotal =>
      exec_of_body rfl h (loadMap_badTotal hl hn hp hres hidle hfirst hsome htotal)
  case mapTooMany =>
    exact fun r s x s1 n p h hl hn hp hres hidle hfirst htotal hover =>
      exec_of_body rfl h (loadMap_tooMany hl hn hp hres hidle hfirst htotal hover)
  case mapComplete =>
    exact fun r s x s1 n p l h hl hn hp hres hidle hfirst htotal hroom hlist hlast =>
      exec_of_body rfl h ((loadMap_append hl hn hp hres hidle hfirst htotal hroom hlist).trans (if_pos hlast))
  case mapPart =>
    exact fun r s x s1 n p l h hl hn hp hres hidle hfirst htotal hroom hlist hmore =>
      exec_of_body rfl h ((loadMap_append hl hn hp hres hidle hfirst htotal hroom hlist).trans (if_neg hmore))
  case mapEnd =>
    exact fun s k p l t ht => ⟨fun i => mapEnd_bad ht, fun id => mapEnd_conflict ht, fun id => mapEnd_limit ht,
      mapEnd_installed ht, mapEnd_held ht⟩
  case blockShort => exact fun r s x s1 h hl => exec_of_body rfl h (loadBlock_short hl)
  case blockNoPan => exact fun r s x s1 h hl hp => exec_of_body rfl h (loadBlock_noPan hl hp)
  case blockNumber => exact fun r s x s1 p h hl hp hb => exec_of_body rfl h (loadBlock_badBlock hl hp hb)
  case blockBusy => exact fun r s x s1 p h hl hp hb hbusy => exec_of_body rfl h (loadBlock_busy hl hp hb hbusy)
  case blockFull =>
    exact fun r s x s1 p new h hl hp hb hidle hnew hfull => exec_of_body rfl h (loadBlock_full hl hp hb hidle hnew hfull)
  case blockStored =>
    exact fun r s x s1 p new t h hl hp hb hidle hnew hroom ht =>
      exec_of_body rfl h (loadBlock_stored hl hp hb hidle hnew hroom ht)
  case modeNoPan => exact fun r s x s1 h hl hp => exec_of_body rfl h (panMode_noPan hl hp)
  case modeBad => exact fun r s x s1 p h hl hp hm => exec_of_body rfl h (panMode_badMode hl hp hm)
  case stopRun =>
    exact fun r s x s1 p h hl hp hm hrun => exec_of_body rfl h ((panMode_stop hl hp hm).trans (if_pos hrun))
  case stopFault =>
    exact fun r s x s1 p h hl hp hm hfault =>
      exec_of_body rfl h ((panMode_stop hl hp hm).trans ((if_neg (by simp [hfault])).trans (if_pos hfault)))
  case stopOther =>
    exact fun r s x s1 p h hl hp hm hrun hfault =>
      exec_of_body rfl h ((panMode_stop hl hp hm).trans ((if_neg hrun).trans (if_neg hfault)))
  case runWrong =>
    exact fun r s x s1 p warm h hl hp hm hwarm hq => exec_of_body rfl h (panMode_runWrong hl hp hm hwarm hq)
  case runState =>
    exact fun r s x s1 p warm h hl hp hm hwarm hq =>
      exec_of_body rfl h (panMode_runRefused hl hp hm hwarm hq (by decide) (by decide))
  case runFailed =>
    exact fun r s x s1 p warm q h hl hp hm hwarm hq =>
      exec_of_body rfl h (panMode_runRefused hl hp hm hwarm hq nofun nofun)
  case runLimit =>
    exact fun r s x s1 p warm q h hl hp hm hwarm hq =>
      exec_of_body rfl h (panMode_runRefused hl hp hm hwarm hq nofun nofun)
  case runGo =>
    exact fun r s x s1 p warm h hl hp hm hwarm hq => exec_of_body rfl h (panMode_runGo hl hp hm hwarm hq)
  case startCheck =>
    refine fun s p warm share hshare => ⟨startCheck_wrong, startCheck_state, fun hmode hstorm hen hmap => ?_⟩
    exact ⟨startCheck_noProgram hmode hstorm hen hmap,
      fun hprog => startCheck_smallShare hmode hstorm hen hmap hprog hshare,
      fun hprog => startCheck_noTime hmode hstorm hen hmap hprog hshare,
      fun hprog => startCheck_unpaired hmode hstorm hen hmap hprog hshare⟩
  case started => exact fun p s h => congrArg Host.Outcome.next (if_pos h)
  case notStarting => exact fun p s h => congrArg Host.Outcome.next (if_neg h)
  case editIdle => exact fun p s h => congrArg Host.Outcome.next (if_pos (by simp [h]))
  case editStored =>
    rintro p s _ h rfl
    exact congrArg Host.Outcome.next (if_neg (by simp [h]))
  case noOverrun => exact fun p s h => congrArg Host.Outcome.next (overrun_none h)
  case overrunStops => exact fun p s t h ht hstop => congrArg Host.Outcome.next (overrun_stops h ht hstop)
  case overrunGoesOn =>
    exact fun p s t h ht hcons haction => congrArg Host.Outcome.next (overrun_goesOn h ht hcons haction)
  case hardLimit => exact fun p s h => congrArg Host.Outcome.next (if_pos h)
  case noHardLimit => exact fun p s h => congrArg Host.Outcome.next (if_neg h)
  case done =>
    rintro _ p value s pl hok rfl hw
    exact congrArg Host.Outcome.next ((regDo_ok hok).trans ((doneWrite_own pl).trans (if_pos hw)))
  case doneZero =>
    rintro _ p value s pl hok rfl hw
    exact congrArg Host.Outcome.next ((regDo_ok hok).trans ((doneWrite_own pl).trans (if_neg (by simp [hw]))))
  case doneOther =>
    exact fun who p value s hok hwho => congrArg Host.Outcome.next ((regDo_ok hok).trans (doneWrite_other hwho))
  case noStrobe => exact fun p s h => congrArg Host.Outcome.next (applyStrobe_none h)
  case strobe =>
    exact fun p s sh t u v h hsh ht hu hv => congrArg Host.Outcome.next (applyStrobe_given h hsh ht hu hv)
  case ckptWritten => exact fun p s c h => congrArg Host.Outcome.next (by simp only [h])
  case noCkpt => exact fun p s h => congrArg Host.Outcome.next (by simp only [h])
  case saveTimeout => exact fun p s h => congrArg Host.Outcome.next (if_neg (not_not.2 h))
  case noSaveTimeout => exact fun p s h => congrArg Host.Outcome.next (if_pos h)
  case saved => exact fun s h => congrArg Host.Outcome.next (if_neg (Bool.eq_false_iff.1 ((pfwSaved_guard s).2 h)))
  case notSaved =>
    exact fun s h => congrArg Host.Outcome.next (if_pos (Bool.of_not_eq_false (fun hg => h ((pfwSaved_guard s).1 hg))))
  case noCapture => exact fun t s => exec_triggerCapture_none
  case captureOff => exact fun t s u => exec_triggerCapture_off
  case captureBusy => exact fun t s u => exec_triggerCapture_busy
  case capture => exact fun t s u v hbit hu hen hgrp => exec_triggerCapture_taken hbit hu hen hgrp
  case noCaptureEnd => exact fun t s h => congrArg Host.Outcome.next (if_pos (by simp [h]))
  case captureEnd =>
    rintro t s _ h rfl
    exact congrArg Host.Outcome.next (if_neg (by simp [h]))
  case forceNoPan => exact fun r s x s1 h hl hp => exec_of_body rfl h (force_noPan hl hp)
  case forceBit => exact fun r s x s1 p h hl hp ha => exec_of_body rfl h (force_badBit hl hp ha)
  case forceValue => exact fun r s x s1 p h hl hp ha hv => exec_of_body rfl h (force_badValue hl hp ha hv)
  case forceFull => exact fun r s x s1 p h hl hp ha hv hfull => exec_of_body rfl h (force_full hl hp ha hv hfull)
  case forceInput =>
    intro r s x s1 p t h hl hp ha hv hroom ht hin
    rw [exec_of_body rfl h (force_added hl hp ha hv hroom ht), if_pos hin]
  case forceOutput =>
    intro r s x s1 p t h hl hp ha hv hroom ht hout
    rw [exec_of_body rfl h (force_added hl hp ha hv hroom ht), if_neg (Nat.not_lt.2 hout)]
  case unforceNoPan => exact fun r s x s1 h hl hp => exec_of_body rfl h (unforce_noPan hl hp)
  case unforceBit => exact fun r s x s1 p h hl hp hall ha => exec_of_body rfl h (unforce_badBit hl hp hall ha)
  case unforceAll => exact fun r s x s1 p h hl hp hall => exec_of_body rfl h (unforce_all hl hp hall)
  case unforceOne => exact fun r s x s1 p h hl hp hall ha => exec_of_body rfl h (unforce_one hl hp hall ha)
  case readNoPan => exact fun r s x s1 h hl hp => exec_of_body rfl h (imageRead_noPan hl hp)
  case readOffset => exact fun r s x s1 p h hl hp ha => exec_of_body rfl h (imageRead_badOffset hl hp ha)
  case readCount => exact fun r s x s1 p h hl hp ha hn => exec_of_body rfl h (imageRead_badCount hl hp ha hn)
  case read =>
    exact fun r s x s1 p h hl hp hlow hhigh hend =>
      exec_of_body rfl h (imageRead_bytes hl hp (by dsimp only; omega) (by dsimp only; omega))
  case ctrlKept =>
    exact fun who value s hok hw hbusy => congrArg Host.Outcome.next ((regDo_ok hok).trans (rakeCtrl_kept hw hbusy))
  case ctrlStored => exact fun who value s hok h => congrArg Host.Outcome.next ((regDo_ok hok).trans (rakeCtrl_stored h))
  case silence => exact fun p s => rfl
  case bridgeHold => exact fun p b s => rfl

end Sys2Proof.Machine
end

