-- ==== Sys2Proof/Proofs/Brineline.lean ====
section
/-! PROOF. Brineline: the states of a link, its frames, presence and the routes (R169 to R179), and the rows of the first half of
chapter 06. -/
namespace Sys2Proof.Machine

/-! A link's states (R169, R170). -/

section
variable {s : State} {l : Nat}

theorem splitLatch_down (h1 : s.linkSt 1 = 0) (h2 : s.linkSt 2 = 0) :
    s.splitLatch = { s with ring := { s.ring with split := s.flag F.RING_CTRL_SPLIT } } :=
  if_pos ⟨h1, h2⟩

/-- A link that leaves UP drops its replay buffer; a standby whose direct link it was synchronises again (log 85, DESIGN
CHOICE). -/
theorem linkLost_direct {st : Nat} {t : State}
    (ht : t = ((((((s.incF (F.RING_LINK_ERR_DROP l) (s.link l).replay.length).setF (F.RING_LINK_STAT_WIDTH l) 0).setLink l
      st).modLink l (fun x => { x with replay := [], key := none, time := none, boot := false })).raise 321).refFollow l false).timeElect) :
    s.linkLost l st = if s.hsLink = some l then t.hsResync 332 else t := by
  subst ht
  simp only [State.linkLost, beq_iff_eq]

theorem ringCtrl_stored {w : Word} {g : RegDef} {t : State} (hreg : regAt A.RING_CTRL = some g)
    (ht : t = s.plainWrite g A.RING_CTRL w) (h1 : t.linkSt 1 = 0) (h2 : t.linkSt 2 = 0) :
    s.ringCtrl w =
      if bit w.toNat 0 then { t with ring := { t.ring with split := t.flag F.RING_CTRL_SPLIT } }
      else State.linksDown { t with ring := { t.ring with split := t.flag F.RING_CTRL_SPLIT } } := by
  subst ht
  simp only [State.ringCtrl, hreg, splitLatch_down h1 h2]

end

/-! Training and the proof of the peer (R170, R174). -/

section
variable {l : Fin 3} {s : State}

/-- Without the random generator there is no nonce (log 175, DESIGN CHOICE). -/
theorem trainingComplete_noNonce (hst : s.linkSt l = 1) (htrng : s.flag F.ENCL_STAT_TRNG = false) (hboot : s.peerBoot = false) :
    exec (.brlTrainingComplete l) s = .next ((s.setLink l 4).raise 323) :=
  congrArg Host.Outcome.next ((if_neg (not_not.2 hst)).trans (if_pos (by simp [htrng, hboot])))

theorem trainingComplete_nonce {t : State} (hst : s.linkSt l = 1)
    (htrng : s.flag F.ENCL_STAT_TRNG = true ∨ s.peerBoot = true)
    (ht : t = ((s.setLink l 2).useFree).modLink l (fun x =>
      { x with nonce := s.rand 16, peerNonce := [], rxSeq := 0, txSeq := 0, naks := 0, retry := false }))
    (hboot : t.peerBoot = false) : exec (.brlTrainingComplete l) s = .next (t.emit (.brlCtl l) (s.rand 16)) := by
  have hready : ¬((!s.flag F.ENCL_STAT_TRNG) = true ∧ (!s.peerBoot) = true) := by
    rcases htrng with h | h <;> simp [h]
  subst ht
  exact congrArg Host.Outcome.next
    ((if_neg (not_not.2 hst)).trans ((if_neg hready).trans (if_neg (Bool.eq_false_iff.1 hboot))))

variable {nonce proof key : List Byte} {peer : BitVec 12} (hst : s.linkSt l = 2) (hpeer : s.peerBoot = false)
  (hboot : (s.link l).boot = false)
include hst hpeer hboot

theorem peerProof_noKey (hkey : s.busKey (s.f F.RING_CTRL_KSLOT) 7 = none) :
    exec (.brlPeerProof l nonce peer proof) s = .next ((s.setLink l 4).raise 323) := by
  refine congrArg Host.Outcome.next ((if_neg (by simp [hst, hpeer, hboot])).trans ?_)
  simp only [hkey]

variable (hkey : s.busKey (s.f F.RING_CTRL_KSLOT) 7 = some key)
include hkey

theorem peerProof_wrong (hproof : proof ≠ brlProof key nonce (s.link l).nonce peer.toNat s.ownAddr) :
    exec (.brlPeerProof l nonce peer proof) s = .next
      (((s.emit (.brlCtl l) (brlProof key (s.link l).nonce nonce s.ownAddr peer.toNat)).setLink l 4).raise 323) := by
  refine congrArg Host.Outcome.next ((if_neg (by simp [hst, hpeer, hboot])).trans ?_)
  simp only [hkey]
  exact if_neg hproof

theorem peerProof_right {k : List Byte} {w : Nat}
    (hproof : proof = brlProof key nonce (s.link l).nonce peer.toNat s.ownAddr)
    (hk : k = brlKey key (s.link l).nonce nonce s.ownAddr peer.toNat)
    (hw : w = if l.val = 2 ∨ (l.val = 1 ∧ s.ring.split = true) then 1 else 2) :
    exec (.brlPeerProof l nonce peer proof) s = .next
      ((((((s.emit (.brlCtl l) (brlProof key (s.link l).nonce nonce s.ownAddr peer.toNat)).setLink l 3).modLink l
        (fun x => { x with peerNonce := nonce, key := some k, replay := [] })).setF (F.RING_LINK_STAT_PEER l) peer.toNat).setF
        (F.RING_LINK_STAT_WIDTH l) w |>.raise 320).refFollow l true) := by
  subst hk hw
  refine congrArg Host.Outcome.next ((if_neg (by simp [hst, hpeer, hboot])).trans ?_)
  simp only [hkey]
  exact if_pos hproof

end

/-! Frames, their acknowledgements and repeats (R171 to R173, R177). -/

section
variable {l : Fin 3} {bytes : List Byte} {s : State} (hst : s.linkSt l = 3 ∨ s.linkSt l = 2)
include hst

/-- A frame whose CRC or LSEQ is wrong is asked for again: 0x15 is the NAK (log 84, DESIGN CHOICE). -/
theorem frameRx_nak
    (hbad : bytes.length < 16 ∨ leAt bytes (bytes.length - 4) 4 ≠ crc32c (bytes.take (bytes.length - 4)) ∨
      (leAt bytes 1 1 ≠ (s.link l).rxSeq ∧ (s.link l).naks < 5)) :
    exec (.brlFrameRx l bytes) s = .next ((s.modLink l (fun x => { x with naks := x.naks + 1 })).emit (.brlCtl l)
      [0x15#8, BitVec.ofNat 8 (s.link l).rxSeq]) :=
  congrArg Host.Outcome.next ((if_neg (by omega)).trans (if_pos hbad))

/-- A sound frame is acknowledged by 0x06 (log 84, DESIGN CHOICE); after five NAKs the next one is taken whatever its LSEQ (log 85,
DESIGN CHOICE). -/
theorem frameRx_taken {t : State} {k dst : Nat} (hlen : 16 ≤ bytes.length)
    (hcrc : leAt bytes (bytes.length - 4) 4 = crc32c (bytes.take (bytes.length - 4)))
    (hseq : leAt bytes 1 1 = (s.link l).rxSeq ∨ 5 ≤ (s.link l).naks)
    (ht : t = (s.modLink l (fun x => { x with rxSeq := (leAt bytes 1 1 + 1) % 256, naks := 0 })).emit (.brlCtl l)
      [0x06#8, BitVec.ofNat 8 (leAt bytes 1 1)])
    (hk : k = leAt bytes 0 1) (hdst : dst = leAt bytes 2 2) :
    exec (.brlFrameRx l bytes) s = .next (if brlHeadOk bytes = false then t.brlDrop l
      else if (k = 3 ∨ k = 4 ∨ k = 7) ∧ dst ≠ 0 ∧ dst ≠ 0xFFF ∧ dst ≠ s.ownAddr then
        t.brlTransit l k dst (leAt bytes 4 2) (leAt bytes 6 2) ((bytes.drop 12).take (leAt bytes 8 2))
      else t) := by
  have hsound : ¬(bytes.length < 16 ∨ leAt bytes (bytes.length - 4) 4 ≠ crc32c (bytes.take (bytes.length - 4)) ∨
      (leAt bytes 1 1 ≠ (s.link l).rxSeq ∧ (s.link l).naks < 5)) := by
    rw [hcrc]
    omega
  subst ht hk hdst
  refine congrArg Host.Outcome.next ((if_neg (by omega)).trans ((if_neg hsound).trans ?_))
  simp only [Bool.not_eq_true']

end

section
variable {l : Fin 3} {seq : BitVec 8} {late : Bool} {s : State} {g : BrlTx}

theorem nakRx_unknown (hg : (s.link l).replay.find? (fun x => x.seq == seq.toNat) = none) :
    exec (.brlNakRx l seq late) s = .next s :=
  congrArg Host.Outcome.next (by simp only [hg])

section
variable (hg : (s.link l).replay.find? (fun x => x.seq == seq.toNat) = some g)
include hg

theorem nakRx_dropped (hlast : late = true ∧ g.kind = 3 ∨ 4 ≤ g.tries) :
    exec (.brlNakRx l seq late) s = .next
      (((s.modLink l (fun x => { x with replay := x.replay.filter (fun y => y.seq != seq.toNat) })).brlDrop l).raise 322) := by
  refine congrArg Host.Outcome.next ?_
  simp only [hg]
  exact if_pos (by simpa using hlast)

theorem nakRx_repeated (hkind : late = false ∨ g.kind ≠ 3) (htries : g.tries < 4) :
    exec (.brlNakRx l seq late) s = .next
      (((s.modLink l (fun x =>
        { x with replay := x.replay.map (fun y => if y.seq = seq.toNat then { y with tries := y.tries + 1 } else y) })).incF
        (F.RING_LINK_ERR_RETX l) 1).emit (.brl l g.kind (leAt g.bytes 2 2)) g.bytes) := by
  refine congrArg Host.Outcome.next ?_
  simp only [hg]
  exact if_neg (by rcases hkind with h | h <;> simp [h, htries])

end

/-- An ACK empties the replay buffer up to its frame; the last frame of a served boot package takes the link DOWN (R467). -/
theorem ackRx_dropped {t : State} (ht : t = s.modLink l (fun x => { x with replay := ackDrop seq.toNat x.replay })) :
    exec (.brlAckRx l seq) s = .next
      (if (t.link l).boot = true ∧ t.peerBoot = false ∧ (t.link l).replay = [] then t.linkTo l 0 else t) := by
  subst ht
  refine congrArg Host.Outcome.next ?_
  simp only [Bool.and_eq_true, Bool.not_eq_true', List.isEmpty_iff, and_assoc]

end

/-! Presence frames and the routes (R175, R176, R179). -/

section
variable {l : Fin 3} {src : BitVec 12} {hops seq : BitVec 16} {s : State} (hup : s.linkSt l = 3)
include hup

theorem presenceRx_conflict (hown : src.toNat = s.ownAddr) (haddr : s.ownAddr ≠ 0) :
    exec (.presenceRx l src hops seq) s = .next ((s.setF F.RING_ADDR_CONFLICT 1).levelEdge 324 (s.levelOn 324)) :=
  congrArg Host.Outcome.next ((if_neg (not_not.2 hup)).trans (if_pos ⟨hown, haddr⟩))

variable (hown : src.toNat ≠ s.ownAddr ∨ s.ownAddr = 0)
include hown

/-- A frame of a device without a route, or with a newer sequence number, is recorded and goes on. -/
theorem presenceRx_fresh {t : State}
    (hfresh : s.ring.routes.find? (fun r => r.addr == src.toNat) = none ∨
      ∃ o, s.ring.routes.find? (fun r => r.addr == src.toNat) = some o ∧ newer 16 seq.toNat o.count = true)
    (ht : t = ({ s with ring := { s.ring with
      routes := putRoute ⟨src.toNat, l, hops.toNat, seq.toNat, s.now⟩ s.ring.routes } } : State).membersSync) :
    exec (.presenceRx l src hops seq) s = .next
      (if 4094 ≤ hops.toNat + 1 then (t.brlDrop l).raise 322
        else (t.upLinks.filter (fun m => m != l.val)).foldl
          (fun u m => u.brlSend m 6 0 src.toNat (hops.toNat + 1) 0 (leBytes 2 seq.toNat)) t) := by
  subst ht
  refine congrArg Host.Outcome.next ((if_neg (not_not.2 hup)).trans ((if_neg (by omega)).trans ?_))
  rcases hfresh with h | ⟨o, h, hnew⟩
  · simp [h]
  · simp [h, hnew]

variable {o : Route} (hold : s.ring.routes.find? (fun r => r.addr == src.toNat) = some o)
  (hnew : newer 16 seq.toNat o.count = false)
include hold hnew

/-- A copy of the newest frame over fewer hops, or over a lower link, takes over the route. -/
theorem presenceRx_closer {t : State} (hcount : o.count = seq.toNat)
    (hcloser : hops.toNat < o.hops ∨ hops.toNat = o.hops ∧ l.val < o.link)
    (ht : t = ({ s with ring := { s.ring with
      routes := putRoute ⟨src.toNat, l, hops.toNat, seq.toNat, s.now⟩ s.ring.routes } } : State).membersSync) :
    exec (.presenceRx l src hops seq) s = .next t := by
  subst ht
  refine congrArg Host.Outcome.next ((if_neg (not_not.2 hup)).trans ((if_neg (by omega)).trans ?_))
  simp only [hold, hnew]
  simp [hcount, hcloser]

theorem presenceRx_old
    (hfar : o.count ≠ seq.toNat ∨ (o.hops < hops.toNat ∨ hops.toNat = o.hops ∧ o.link ≤ l.val)) :
    exec (.presenceRx l src hops seq) s = .next s := by
  refine congrArg Host.Outcome.next ((if_neg (not_not.2 hup)).trans ((if_neg (by omega)).trans ?_))
  simp only [hold, hnew]
  by_cases hcount : o.count = seq.toNat
  · have hcloser : ¬(hops.toNat < o.hops ∨ hops.toNat = o.hops ∧ l.val < o.link) := by omega
    simp [hcount, hcloser]
  · simp [hcount]

end

/-- Settles O37, row by row: link states, RING_CTRL and RING_ADDR, frames with their NAK and ACK, presence, routes, TOPOLOGY.
Where the rules leave a point open, the clauses rest on the model's choices in logs 4, 84, 85, 98 and 175. -/
theorem brinelineCommandsActAsTheTablesSay : Obligations.BrinelineCommandsActAsTheTablesSay := by
  unfold Obligations.BrinelineCommandsActAsTheTablesSay
  refine ⟨?signal, ?noSignal, ?noNonce, ?nonce, ?trainTimeout, ?notTraining, ?retry, ?noKey, ?wrongProof, ?rightProof,
    ?authTimeout, ?notInAuth, ?faultExpiry, ?notInFault, ?lockLost, ?notUp, ?linkLost, ?ctrlWrite, ?ctrl, ?addrWrite,
    ?frameNak, ?frameTaken, ?frameIgnored, ?nakDropped, ?nakRepeated, ?nakUnknown, ?ack, ?presenceSilent, ?presenceSent,
    ?presenceIgnored, ?presenceConflict, ?presenceFirst, ?presenceNewer, ?presenceCloser, ?presenceOld, ?routeAged,
    ?noRoute, ?conflictCleared, ?topology⟩
  case signal => exact fun l s hst hen hl => congrArg Host.Outcome.next (if_pos ⟨hst, hen, hl⟩)
  case noSignal =>
    intro l s h
    refine congrArg Host.Outcome.next (if_neg fun hall => ?_)
    obtain ⟨hst, hen, hl⟩ := hall
    simp [hst, hen, hl] at h
  case noNonce => exact fun l s => trainingComplete_noNonce
  case nonce => exact fun l s t => trainingComplete_nonce
  case trainTimeout => exact fun l s hst => congrArg Host.Outcome.next (if_pos hst)
  case notTraining => exact fun l s hst => congrArg Host.Outcome.next (if_neg hst)
  case retry => exact fun l s hst hretry hen => congrArg Host.Outcome.next (if_pos ⟨hst, hretry, hen⟩)
  case noKey => exact fun l nonce peer proof s => peerProof_noKey
  case wrongProof => exact fun l nonce peer proof s key => peerProof_wrong
  case rightProof =>
    exact fun l nonce peer proof s key k w hst hpeer hboot hkey hproof hk hw =>
      peerProof_right hst hpeer hboot hkey hproof hk hw
  case authTimeout =>
    exact fun l s hst hpeer hboot => congrArg Host.Outcome.next (if_pos (by simp [hst, hpeer, hboot]))
  case notInAuth => exact fun l s hst => congrArg Host.Outcome.next (if_neg (fun h => hst h.1))
  case faultExpiry => exact fun l s hst => congrArg Host.Outcome.next (if_pos hst)
  case notInFault => exact fun l s hst => congrArg Host.Outcome.next (if_neg hst)
  case lockLost => exact fun l s hst => congrArg Host.Outcome.next (if_pos hst)
  case notUp => exact fun l s hst => congrArg Host.Outcome.next (if_neg hst)
  case linkLost => exact fun s l st t => linkLost_direct
  case ctrlWrite => exact fun who value s hok => congrArg Host.Outcome.next (regDo_ok hok)
  case ctrl => exact fun s w g t => ringCtrl_stored
  case addrWrite => exact fun who value s hok => congrArg Host.Outcome.next (regDo_ok hok)
  case frameNak => exact fun l bytes s => frameRx_nak
  case frameTaken =>
    exact fun l bytes s t k dst hst hlen hcrc hseq ht hk hdst => frameRx_taken hst hlen hcrc hseq ht hk hdst
  case frameIgnored => exact fun l bytes s hup hauth => congrArg Host.Outcome.next (if_pos ⟨hup, hauth⟩)
  case nakDropped => exact fun l seq late s g => nakRx_dropped
  case nakRepeated => exact fun l seq late s g => nakRx_repeated
  case nakUnknown => exact fun l seq late s => nakRx_unknown
  case ack => exact fun l seq s t => ackRx_dropped
  case presenceSilent => exact fun s haddr => congrArg Host.Outcome.next (if_pos haddr)
  case presenceSent =>
    rintro s _ _ haddr rfl rfl
    exact congrArg Host.Outcome.next (if_neg haddr)
  case presenceIgnored => exact fun l src hops seq s hup => congrArg Host.Outcome.next (if_pos hup)
  case presenceConflict => exact fun l src hops seq s => presenceRx_conflict
  case presenceFirst => exact fun l src hops seq s t hup hown hold => presenceRx_fresh hup hown (.inl hold)
  case presenceNewer =>
    exact fun l src hops seq s o t hup hown hold hnew => presenceRx_fresh hup hown (.inr ⟨o, hold, hnew⟩)
  case presenceCloser =>
    exact fun l src hops seq s o t hup hown hold hnew hcount hcloser ht =>
      presenceRx_closer hup hown hold hnew hcount hcloser ht
  case presenceOld =>
    exact fun l src hops seq s o hup hown hold hnew hfar => presenceRx_old hup hown hold hnew hfar
  case routeAged => exact fun addr s hroute => congrArg Host.Outcome.next (if_pos hroute)
  case noRoute => exact fun addr s hroute => congrArg Host.Outcome.next (if_neg (by simp [hroute]))
  case conflictCleared => exact fun s => rfl
  case topology => exact fun r s x s1 h hl => exec_of_fixedLen rfl h rfl hl rfl

end Sys2Proof.Machine
end

