-- ==== Sys2Proof/Proofs/HotStandby.lean ====
section
/-! PROOF. Hot standby: roles, heartbeats, mirrors, takeover and handover (R182 to R192). -/
namespace Sys2Proof.Machine

/-! Roles and heartbeats (R182 to R184). -/

section
variable {s : State}

theorem hbOn_iff :
    s.hbOn = true ↔ 1 ≤ s.role ∧ s.role ≤ 4 ∧ s.ownAddr ≠ 0 ∧ s.ring.hs.stopped = false ∧ s.rstSevere = false := by
  simp [State.hbOn, and_assoc]

section
variable {w : Word} {g : RegDef} {t : State} (hreg : regAt A.RING_HS_CFG = some g) (ht : t = s.plainWrite g A.RING_HS_CFG w)
include hreg ht

theorem hsCfg_disabled (hen : bit w.toNat 0 = false) : s.hsCfg w = (t.hsRole 0).endCopy := by
  subst ht
  simp only [State.hsCfg, hreg]
  exact if_neg (by simp [hen])

theorem hsCfg_enabled (hen : bit w.toNat 0 = true) :
    s.hsCfg w =
      if t.role = 0 ∧ t.ownAddr ≠ 0 ∧ t.panMode .a ≤ 1 ∧ t.panMode .b ≤ 1 then
        (t.hsRole 1).modHs (fun h => { h with stopped := false })
      else t := by
  subst ht
  simp only [State.hsCfg, hreg]
  exact if_pos hen

end

/-! `t` has the partner's role, and its planned boundary while that lies ahead (R192). -/

section
variable {role hand : Nat} {pref : Bool} {ident : List Byte} {t : State}
  (ht : t = (s.setF F.RING_HS_STAT_PROLE role).modHs (fun h =>
    { h with plan := if h.plan = none ∧ s.dtime < 1000 * hand then some (hand, none) else h.plan }))
include ht

theorem hbRx_candidate (hrole : t.role = 1) :
    s.hbRx role pref ident hand =
      if t.hsLink.isNone = true then t
      else if ident ≠ t.hsIdent then (t.hsRole 5).raise 334
      else if role = 2 then t.enterSync
      else if role = 1 ∧ t.hsLower pref = true then t.primaryStart
      else t := by
  subst ht
  exact if_pos hrole

theorem hbRx_primary (hrole : t.role = 2) :
    s.hbRx role pref ident hand =
      if role = 2 then if (t.raise 333).hsLower pref then t.raise 333 else (t.raise 333).enterSync
      else if role = 3 ∧ s.f F.RING_HS_STAT_PROLE ≠ 3 then t.hsFull.resendEdit
      else t := by
  subst ht
  exact (if_neg (by omega)).trans (if_pos hrole)

theorem hbRx_otherRole (h1 : t.role ≠ 1) (h2 : t.role ≠ 2) : s.hbRx role pref ident hand = t := by
  subst ht
  exact (if_neg h1).trans (if_neg h2)

variable (hrole : t.role = 1) (hlink : t.hsLink.isNone = false)
include hrole hlink

theorem hbRx_mismatch (hident : ident ≠ t.hsIdent) : s.hbRx role pref ident hand = (t.hsRole 5).raise 334 := by
  rw [hbRx_candidate ht hrole, if_neg (by simp [hlink]), if_pos hident]

theorem hbRx_match (hident : ident = t.hsIdent) :
    s.hbRx role pref ident hand =
      if role = 2 then t.enterSync else if role = 1 ∧ t.hsLower pref = true then t.primaryStart else t := by
  rw [hbRx_candidate ht hrole, if_neg (by simp [hlink]), if_neg (not_not.2 hident)]

end

/-! Heartbeat loss (R183, R184, R190). -/

section
variable (hrole : s.role = 4)
include hrole

theorem heartbeatLoss_planned {b : Nat} {k : RKey} (hplan : s.ring.hs.plan = some (b, some k)) :
    exec .heartbeatLoss s =
      .next (((s.failed k s.freeNat).useFree).modHs (fun h => { h with loss := true, plan := none })) := by
  refine congrArg Host.Outcome.next ((if_neg (by omega)).trans ((if_pos hrole).trans ?_))
  simp only [hplan]

theorem heartbeatLoss_standby {b : Nat} (hplan : s.ring.hs.plan = none ∨ s.ring.hs.plan = some (b, none)) :
    exec .heartbeatLoss s = .next (s.modHs (fun h => { h with loss := true, plan := none })) := by
  refine congrArg Host.Outcome.next ((if_neg (by omega)).trans ((if_pos hrole).trans ?_))
  rcases hplan with h | h <;> simp only [h]

end

end

/-! Mirrors and boundary markers (R186 to R189). -/

section
variable {s : State} {p : PanId}

theorem mirrorFrameRx_kept {record : List Byte} {lines : List (BitVec 32 × List Byte)} {t : State}
    (hrole : s.role = 3 ∨ s.role = 4) (htakes : s.brlTakes = true)
    (ht : t = if record.isEmpty = true then s else s.modHsPan p.num (fun h => { h with mir := readCyc record })) :
    exec (.mirrorFrameRx p record lines) s = .next
      ((t.modHsPan p.num (fun h => { h with mir := h.mir.map (fun m => (lines.take 60).foldl Mirror.line m) })).mirInput p
        (lines.take 60)) := by
  subst ht
  exact congrArg Host.Outcome.next (if_neg (by simp only [htakes, Bool.not_true, Bool.false_eq_true, or_false]; omega))

theorem boundaryMarkerRx_taken (hrole : s.role = 3 ∨ s.role = 4) (hcopy : s.standby p = true) (hmode : s.panMode p = 3)
    (htakes : s.brlTakes = true) :
    exec (.boundaryMarkerRx p) s = .next
      ((if s.ring.hs.offDue = true then ((s.panOutsOff .a).panOutsOff .b).modHs (fun h => { h with offDue := false })
        else s).marker p) :=
  congrArg Host.Outcome.next
    (if_neg (by simp only [hcopy, htakes, Bool.not_true, Bool.false_eq_true, hmode, ne_eq, not_true, or_false]; omega))

/-- At a marker a standby is late whose logic has not ended. -/
theorem not_late (htime : (s.pan p).logic = false ∨ s.role ≠ 4) : ¬((s.pan p).logic && s.role == 4) = true := by
  rcases htime with h | h <;> simp [h]

theorem marker_noMirror (hmir : (s.hsPan p.num).mir = none) :
    s.marker p =
      if (s.hsPan p.num).handed = true then s.modHsPan p.num (fun h => { h with handed := false }) else s.hsResync 332 := by
  simp only [State.marker, hmir]

section
variable {m : Mirror} (hmir : (s.hsPan p.num).mir = some m)
include hmir

theorem marker_late (hlogic : (s.pan p).logic = true) (hrole : s.role = 4) : s.marker p = s.hsResync 331 := by
  simp only [State.marker, hmir]
  exact if_pos (by simp [hlogic, hrole])

variable (htime : (s.pan p).logic = false ∨ s.role ≠ 4)
include htime

theorem marker_incomplete (hbad : m.whole = false ∨ 4096 < m.nin + m.ndirty) : s.marker p = s.hsResync 332 := by
  simp only [State.marker, hmir]
  exact (if_neg (not_late htime)).trans (if_pos (by simpa using hbad))

variable (hwhole : m.whole = true) (hfits : m.nin + m.ndirty ≤ 4096) (hruns : (s.hsPan p.num).logic = true)
include hwhole hfits hruns

theorem marker_diverged (hdiff : s.mirAgrees p m = false) :
    s.marker p =
      if s.role = 4 then s.hsResync 331 else ((s.incF F.RING_HS_CNT_DIVERGE 1).raise 331).hsFull := by
  simp only [State.marker, hmir]
  exact (if_neg (not_late htime)).trans
    ((if_neg (by simp [hwhole, hfits])).trans (if_pos (by simp [hruns, hdiff])))

theorem marker_agreed (hrole : s.role = 4) (hsame : s.mirAgrees p m = true) :
    s.marker p = (s.setF (F.RING_MIR_LAST p.num) (m.nin + m.ndirty + m.nsync)).copyBoundary p m true := by
  simp only [State.marker, hmir]
  refine (if_neg (not_late htime)).trans
    ((if_neg (by simp [hwhole, hfits])).trans ((if_neg (by simp [hsame])).trans ?_))
  simp [hrole, hruns]

end

end

/-! Takeover and handover (R190 to R192). -/

section
variable {s t : State} (hrole : s.role = 4) (hloss : s.ring.hs.loss = true)
  (ht : t = (s.becomePrimary.raise 330).incF F.RING_HS_CNT_TAKEOVERS 1)
include hrole hloss ht

/-- REMOTE_RESET is a control frame of the one byte 0x10 (log 84, DESIGN CHOICE). -/
theorem takeover_routed {l : Nat} (hroute : (t.routeTo t.partner <|> t.hsLink) = some l) :
    exec .takeover s = .next ((t.brlSend l 7 t.partner t.ownAddr 0 0 (leBytes 1 0x10)).raise 338) := by
  subst ht
  refine congrArg Host.Outcome.next ((if_neg (by simp [hrole, hloss])).trans ?_)
  simp only [hroute]

theorem takeover_unrouted (hroute : (t.routeTo t.partner <|> t.hsLink) = none) : exec .takeover s = .next (t.raise 338) := by
  subst ht
  refine congrArg Host.Outcome.next ((if_neg (by simp [hrole, hloss])).trans ?_)
  simp only [hroute]

end

section
variable {c : Ctx} {s : State} (hl : c.pl.length = 2)
include hl

theorem switchoverTest_stranger (ha : leVal c.pl ≠ s.partner) : bodySwitchoverTest c s = s.badParam c.key 0 := by
  simp only [bodySwitchoverTest, fixedLen, if_pos hl, if_pos ha]

variable (ha : leVal c.pl = s.partner)
include ha

theorem switchoverTest_wrongState
    (hstate : ¬(s.role = 2 ∧ s.f F.RING_HS_STAT_PROLE = 4) ∧ ¬(s.role = 4 ∧ s.f F.RING_HS_STAT_PROLE = 2) ∨
      s.ring.hs.plan ≠ none) :
    bodySwitchoverTest c s = s.wrongState c.key s.role := by
  simp only [bodySwitchoverTest, fixedLen, if_pos hl, if_neg (not_not.2 ha)]
  exact if_pos (by simpa [Option.isSome_iff_ne_none, imp_iff_not_or] using hstate)

/-- The handover is planned two periods ahead on the grid of the Pan that runs. -/
theorem switchoverTest_planned {q : PanSt}
    (hpair : s.role = 2 ∧ s.f F.RING_HS_STAT_PROLE = 4 ∨ s.role = 4 ∧ s.f F.RING_HS_STAT_PROLE = 2)
    (hplan : s.ring.hs.plan = none) (hq : q = s.pan s.hsGridPan) :
    bodySwitchoverTest c s = ((s.stopServed 3).accept c.key).modHs (fun h =>
      { h with plan := some (gridAt q.period q.anchor (s.dtime / 1000 + 2 * q.period), some c.key) }) := by
  subst hq
  simp only [bodySwitchoverTest, fixedLen, if_pos hl, if_neg (not_not.2 ha)]
  exact if_neg (by simpa [hplan, or_iff_not_imp_left] using hpair)

end

section
variable {s : State} {b : Nat}

theorem mustStop_modHs (g : HsSt → HsSt) (n : Nat) : (s.modHs g).mustStop n = s.mustStop n := rfl

theorem handover_stopped {q : RKey} (hplan : s.ring.hs.plan = some (b, some q)) (hstop : s.mustStop 3 = true) :
    exec .handoverBoundary s = .next ((s.modHs (fun h => { h with plan := none })).failStopped q 3) := by
  refine congrArg Host.Outcome.next ?_
  simp only [hplan]
  exact (if_pos ⟨hstop, rfl⟩).trans (if_pos ((mustStop_modHs _ 3).trans hstop))

section
variable (hplan : s.ring.hs.plan = some (b, none))
include hplan

theorem handover_primary (hrole : s.role = 2) :
    exec .handoverBoundary s = .next
      (((State.handOff .b (State.handOff .a s)).modHs (fun h => { h with plan := none, offDue := true })).hsRole 4) := by
  refine congrArg Host.Outcome.next ?_
  simp only [hplan]
  exact (if_neg (by simp)).trans (if_pos hrole)

theorem handover_standby (hrole : s.role = 4) : exec .handoverBoundary s = .next s.becomePrimary := by
  refine congrArg Host.Outcome.next ?_
  simp only [hplan]
  exact (if_neg (by simp)).trans ((if_neg (by omega)).trans (if_pos hrole))

end

/-! SWITCHOVER_TEST completes with the period of the Pan whose grid the handover keeps (log 83, DESIGN CHOICE). -/

section
variable {q : RKey} (hplan : s.ring.hs.plan = some (b, some q)) (hgoes : s.mustStop 3 = false)
include hplan hgoes

theorem handover_askedStandby (hrole : s.role = 4) (hdone : s.becomePrimary.mustStop 3 = false) :
    exec .handoverBoundary s = .next (s.becomePrimary.ok q (leBytes 4 (1000 * (s.pan s.hsGridPan).period))) := by
  refine congrArg Host.Outcome.next ?_
  simp only [hplan]
  exact (if_neg (by simp [hgoes])).trans
    ((if_neg (by omega)).trans ((if_pos hrole).trans (if_neg (Bool.eq_false_iff.1 hdone))))

theorem handover_askedPrimary {t : State} (hrole : s.role = 2)
    (ht : t = ((State.handOff .b (State.handOff .a s)).modHs (fun h => { h with plan := none, offDue := true })).hsRole 4) :
    exec .handoverBoundary s = .next
      (if t.mustStop 3 = true then t.failStopped q 3 else t.ok q (leBytes 4 (1000 * (s.pan s.hsGridPan).period))) := by
  subst ht
  refine congrArg Host.Outcome.next ?_
  simp only [hplan]
  exact (if_neg (by simp [hgoes])).trans (if_pos hrole)

end

end

end Sys2Proof.Machine
end

