-- ==== Sys2Proof/Proofs/PairEdits.lean ====
section
/-! PROOF. Online edits of a Pan and of a pair (R162, R163, R194), and the rows of the second half of chapter 06. -/
namespace Sys2Proof.Machine

/-! The two rows that stage a block run their bodies. -/

section
variable {r : Req} {s s1 t : State} {x : Option Sess}

theorem exec_editStage (h : Started s r 4 4 x s1) (ht : bodyEditStage ⟨rkeyOf r, x, r.payload⟩ s1 = t) :
    exec (.editStage r) s = .next t :=
  exec_of_body rfl h ht

theorem exec_peerEditStage (h : Started s r 11 4 x s1) (ht : bodyPeerEditStage ⟨rkeyOf r, x, r.payload⟩ s1 = t) :
    exec (.peerEditStage r) s = .next t :=
  exec_of_body rfl h ht

end

/-! The checks of a staged block, the same for the host and for the primary, in their order (R162). -/

section
variable {go : PanId → Nat → Nat → List Byte → Ctx → State → State} {c : Ctx} {s : State}

theorem stageBody_short (hl : c.pl.length < 7) : stageBody go c s = s.badLen c.key 7 := if_pos hl

variable (hl : 7 ≤ c.pl.length)
include hl

theorem stageBody_noPan (hp : panOf (leAt c.pl 0 1) = none) : stageBody go c s = s.badParam c.key 0 := by
  simp only [stageBody, if_neg (Nat.not_lt.2 hl), hp]

variable {p : PanId} (hp : panOf (leAt c.pl 0 1) = some p)
include hp

theorem stageBody_badNumber (hb : leAt c.pl 1 2 = 0 ∨ 1023 < leAt c.pl 1 2) : stageBody go c s = s.badParam c.key 1 := by
  simp only [stageBody, if_neg (Nat.not_lt.2 hl), hp, if_pos hb]

variable (hb : 1 ≤ leAt c.pl 1 2 ∧ leAt c.pl 1 2 ≤ 1023)
include hb

theorem stageBody_noProgram (hm : s.panMode p = 0) : stageBody go c s = s.wrongState c.key 0 := by
  simp only [stageBody, if_neg (Nat.not_lt.2 hl), hp, if_pos hm]
  exact if_neg (by omega)

-- `blk` is the block with the request's bytes stored.
variable (hm : s.panMode p ≠ 0) {blk : List Byte}
  (hblk : blk = blockPut (tblGet (s.pan p).staged (leAt c.pl 1 2)) (leAt c.pl 3 4) (c.pl.drop 7))
include hm hblk

theorem stageBody_block :
    stageBody go c s =
      if 0x100000 < leAt c.pl 3 4 + (c.pl.drop 7).length ∨
        (!(s.pan p).stageFits (tblSet (s.pan p).staged (leAt c.pl 1 2) blk)) = true then s.limit c.key 0x0506
      else if (s.pan p).stageBad blk = true then s.badParam c.key 7
      else go p (leAt c.pl 1 2) (leAt c.pl 3 4) (c.pl.drop 7) c s := by
  subst hblk
  simp only [stageBody, if_neg (Nat.not_lt.2 hl), hp, if_neg hm]
  exact if_neg (by omega)

theorem stageBody_full
    (hfull : 0x100000 < leAt c.pl 3 4 + (c.pl.drop 7).length ∨
      (s.pan p).stageFits (tblSet (s.pan p).staged (leAt c.pl 1 2) blk) = false) :
    stageBody go c s = s.limit c.key 0x0506 :=
  (stageBody_block hl hp hb hm hblk).trans (if_pos (by simpa only [Bool.not_eq_true'] using hfull))

variable (hroom : leAt c.pl 3 4 + (c.pl.drop 7).length ≤ 0x100000)
  (hfits : (s.pan p).stageFits (tblSet (s.pan p).staged (leAt c.pl 1 2) blk) = true)
include hroom hfits

theorem stageBody_badBlock (hbad : (s.pan p).stageBad blk = true) : stageBody go c s = s.badParam c.key 7 := by
  rw [stageBody_block hl hp hb hm hblk, if_neg (by simp only [hfits, Bool.not_true, Bool.false_eq_true, or_false]; omega),
    if_pos hbad]

variable (hgood : (s.pan p).stageBad blk = false)
include hgood

theorem stageBody_passed : stageBody go c s = go p (leAt c.pl 1 2) (leAt c.pl 3 4) (c.pl.drop 7) c s := by
  rw [stageBody_block hl hp hb hm hblk, if_neg (by simp only [hfits, Bool.not_true, Bool.false_eq_true, or_false]; omega),
    if_neg (by simp [hgood])]

/-! EDIT_STAGE and PEER_EDIT_STAGE of a block that passes (R194). -/

theorem editStage_refused (hbusy : 3 ≤ s.role ∨ (s.stopServed 2).ring.hs.edit ≠ none) :
    bodyEditStage c s = (s.stopServed 2).wrongState c.key (s.panMode p) :=
  (stageBody_passed hl hp hb hm hblk hroom hfits hgood).trans
    (if_pos (by simpa only [Option.isSome_iff_ne_none] using hbusy))

theorem peerEditStage_staged (hrole : s.role = 3 ∨ s.role = 4) :
    bodyPeerEditStage c s = (s.stagePut p (leAt c.pl 1 2) (leAt c.pl 3 4) (c.pl.drop 7)).ok c.key [] :=
  (stageBody_passed hl hp hb hm hblk hroom hfits hgood).trans (if_pos hrole)

theorem peerEditStage_refused (h3 : s.role ≠ 3) (h4 : s.role ≠ 4) :
    bodyPeerEditStage c s = s.wrongState c.key s.role :=
  (stageBody_passed hl hp hb hm hblk hroom hfits hgood).trans (if_neg (not_or.2 ⟨h3, h4⟩))

variable (hrole : s.role < 3) (hidle : (s.stopServed 2).ring.hs.edit = none)
include hrole hidle

theorem editStage_alone (hpair : s.editPair = false) :
    bodyEditStage c s =
      ((s.stopServed 2).stagePut p (leAt c.pl 1 2) (leAt c.pl 3 4) (c.pl.drop 7)).ok c.key [] :=
  (stageBody_passed hl hp hb hm hblk hroom hfits hgood).trans
    ((if_neg (by simp [hidle, hrole])).trans (if_neg (by simp [hpair])))

variable (hpair : s.editPair = true)
include hpair

/-- Without the direct link a pair stages nothing (log 156, DEDUCED). -/
theorem editStage_noLink (hlink : (s.stopServed 2).hsLink = none) :
    bodyEditStage c s = (s.stopServed 2).finish c.key stNoRoute (leBytes 2 s.partner) :=
  (stageBody_passed hl hp hb hm hblk hroom hfits hgood).trans
    ((if_neg (by simp [hidle, hrole])).trans ((if_pos hpair).trans (if_pos (by simp [hlink]))))

theorem editStage_forwarded {l : Nat} (hlink : (s.stopServed 2).hsLink = some l) :
    bodyEditStage c s = ((s.stopServed 2).modHs (fun h => { h with
      edit := some ⟨c.key, (s.stopServed 2).cmd.ownSeq, p.num, false, leAt c.pl 1 2, leAt c.pl 3 4, c.pl.drop 7, []⟩
      })).partnerRequest 4 c.pl :=
  (stageBody_passed hl hp hb hm hblk hroom hfits hgood).trans
    ((if_neg (by simp [hidle, hrole])).trans ((if_pos hpair).trans (if_neg (by simp [hlink]))))

end

/-! EDIT_COMMIT (R163, R194). A length that no count of blocks gives names the nearest one (log 127, DEDUCED). -/

section
variable {c : Ctx} {s : State}

theorem editCommit_short (hl : c.pl.length < 5) : bodyEditCommit c s = s.badLen c.key 5 := if_pos hl

theorem editCommit_ragged (hl : 5 ≤ c.pl.length) (hbad : c.pl.length % 2 ≠ 1 ∨ 2051 < c.pl.length) :
    bodyEditCommit c s = s.badLen c.key (min 2051 (c.pl.length - 1)) :=
  (if_neg (Nat.not_lt.2 hl)).trans (if_pos hbad)

section
variable (hl : 5 ≤ c.pl.length ∧ c.pl.length % 2 = 1 ∧ c.pl.length ≤ 2051)
include hl

theorem editCommit_noPan (hp : panOf (leAt c.pl 0 1) = none) : bodyEditCommit c s = s.badParam c.key 0 := by
  simp only [bodyEditCommit, hp]
  rw [if_neg (by omega), if_neg (by omega)]

variable {p : PanId} (hp : panOf (leAt c.pl 0 1) = some p)
include hp

theorem editCommit_badCount (hn : leAt c.pl 1 2 < 1 ∨ 1024 < leAt c.pl 1 2) : bodyEditCommit c s = s.badParam c.key 1 := by
  simp only [bodyEditCommit, hp]
  rw [if_neg (by omega), if_neg (by omega), if_pos hn]

theorem editCommit_badLength (hn : 1 ≤ leAt c.pl 1 2 ∧ leAt c.pl 1 2 ≤ 1024) (hlen : c.pl.length ≠ 3 + 2 * leAt c.pl 1 2) :
    bodyEditCommit c s = s.badLen c.key (3 + 2 * leAt c.pl 1 2) := by
  simp only [bodyEditCommit, hp]
  rw [if_neg (by omega), if_neg (by omega), if_neg (by omega), if_pos hlen]

end

/-- What bars a Pan from a commit: its mode, an edit that is not stored or not yet swapped, an edit that waits for the partner, a
standby's role, a partner that synchronises (R163, R194). -/
def State.CommitBarred (s : State) (p : PanId) : Prop :=
  s.panMode p = 0 ∨ s.panMode p = 2 ∨ (s.pan p).unstored = true ∨ (s.pan p).edit ≠ none ∨ s.ring.hs.edit ≠ none ∨
    3 ≤ s.role ∨ (s.role = 2 ∧ s.f F.RING_HS_STAT_PROLE = 3)

theorem commitBarred_iff {p : PanId} :
    s.CommitBarred p ↔ s.panMode p = 0 ∨ s.panMode p = 2 ∨ (s.pan p).unstored = true ∨ (s.pan p).edit.isSome = true ∨
      s.ring.hs.edit.isSome = true ∨ 3 ≤ s.role ∨ (s.role = 2 ∧ s.f F.RING_HS_STAT_PROLE = 3) := by
  simp only [State.CommitBarred, Option.isSome_iff_ne_none]

section
variable {p : PanId} {bs : List Nat} (hp : panOf (leAt c.pl 0 1) = some p)
  (hn : 1 ≤ leAt c.pl 1 2 ∧ leAt c.pl 1 2 ≤ 1024) (hlen : c.pl.length = 3 + 2 * leAt c.pl 1 2)
  (hbs : bs = (List.range (leAt c.pl 1 2)).map (fun i => leAt c.pl (3 + 2 * i) 2))
include hp hn hlen hbs

theorem editCommit_badEntry {i : Nat}
    (hbad : firstBelow (leAt c.pl 1 2) (fun i => bs.getD i 0 == 0 || decide (1023 < bs.getD i 0)) = some i) :
    bodyEditCommit c s = s.badParam c.key (3 + 2 * i) := by
  subst hbs
  simp only [bodyEditCommit, hp, hbad]
  rw [if_neg (by omega), if_neg (by omega), if_neg (by omega), if_neg (not_not.2 hlen)]

variable (hgood : firstBelow (leAt c.pl 1 2) (fun i => bs.getD i 0 == 0 || decide (1023 < bs.getD i 0)) = none)
include hgood

theorem editCommit_barred (hbar : s.CommitBarred p) : bodyEditCommit c s = s.wrongState c.key (s.panMode p) := by
  subst hbs
  simp only [bodyEditCommit, hp, hgood]
  rw [if_neg (by omega), if_neg (by omega), if_neg (by omega), if_neg (not_not.2 hlen), if_pos (commitBarred_iff.1 hbar)]

variable (hfree : ¬s.CommitBarred p)
include hfree

theorem editCommit_listed {t : State} (ht : t = (s.stopServed 2).accept c.key) :
    bodyEditCommit c s =
      if (!(s.pan p).stagedAll bs) = true then s.failed c.key 0x0513
      else if t.editPair = true then
        (t.modHs (fun h => { h with edit := some ⟨c.key, t.cmd.ownSeq, p.num, true, 0, 0, [], bs⟩ })).partnerRequest 5 c.pl
      else t.editFix p c.key bs none := by
  subst hbs ht
  simp only [bodyEditCommit, hp, hgood]
  rw [if_neg (by omega), if_neg (by omega), if_neg (by omega), if_neg (not_not.2 hlen), if_neg (hfree ∘ commitBarred_iff.2)]

theorem editCommit_unstaged (hstaged : (s.pan p).stagedAll bs = false) : bodyEditCommit c s = s.failed c.key 0x0513 :=
  (editCommit_listed hp hn hlen hbs hgood hfree rfl).trans (if_pos (by simp [hstaged]))

variable (hstaged : (s.pan p).stagedAll bs = true) {t : State} (ht : t = (s.stopServed 2).accept c.key)
include hstaged ht

theorem editCommit_alone (hpair : t.editPair = false) : bodyEditCommit c s = t.editFix p c.key bs none :=
  (editCommit_listed hp hn hlen hbs hgood hfree ht).trans ((if_neg (by simp [hstaged])).trans (if_neg (by simp [hpair])))

theorem editCommit_paired (hpair : t.editPair = true) :
    bodyEditCommit c s =
      (t.modHs (fun h => { h with edit := some ⟨c.key, t.cmd.ownSeq, p.num, true, 0, 0, [], bs⟩ })).partnerRequest 5 c.pl :=
  (editCommit_listed hp hn hlen hbs hgood hfree ht).trans ((if_neg (by simp [hstaged])).trans (if_pos hpair))

end

end

theorem checkTimeout_fails {p : PanId} {s : State} {e : HsEdit} (he : s.ring.hs.edit = some e) (hcheck : e.check = true)
    (hpan : e.pan = p.num) : exec (.peerEditCheckTimeout p) s = .next (s.editFails e) := by
  refine congrArg Host.Outcome.next ?_
  simp only [he]
  exact if_pos (by simp [hcheck, hpan])

/-! PEER_EDIT_CHECK and PEER_EDIT_CANCEL (R194). -/

section
variable {c : Ctx} {s : State}

theorem peerEditCheck_short (hl : c.pl.length < 3) : bodyPeerEditCheck c s = s.badLen c.key 3 := if_pos hl

theorem peerEditCheck_ragged (hl : 3 ≤ c.pl.length) (hbad : c.pl.length % 2 ≠ 1 ∨ 2051 < c.pl.length) :
    bodyPeerEditCheck c s = s.badLen c.key (min 2051 (c.pl.length - 1)) :=
  (if_neg (Nat.not_lt.2 hl)).trans (if_pos hbad)

theorem peerEditCheck_badLength (hl : 3 ≤ c.pl.length ∧ c.pl.length % 2 = 1 ∧ c.pl.length ≤ 2051)
    (hlen : c.pl.length ≠ 3 + 2 * leAt c.pl 1 2) : bodyPeerEditCheck c s = s.badLen c.key (3 + 2 * leAt c.pl 1 2) :=
  (if_neg (by omega)).trans ((if_neg (by omega)).trans (if_pos hlen))

section
variable (hlen : c.pl.length = 3 + 2 * leAt c.pl 1 2 ∧ c.pl.length ≤ 2051)
include hlen

theorem peerEditCheck_noPan (hp : panOf (leAt c.pl 0 1) = none) : bodyPeerEditCheck c s = s.badParam c.key 0 := by
  simp only [bodyPeerEditCheck, hp]
  rw [if_neg (by omega), if_neg (by omega), if_neg (by omega)]

variable {p : PanId} {bs : List Nat} (hp : panOf (leAt c.pl 0 1) = some p)
  (hbs : bs = (List.range (leAt c.pl 1 2)).map (fun i => leAt c.pl (3 + 2 * i) 2))
include hp hbs

theorem peerEditCheck_listed :
    bodyPeerEditCheck c s =
      if (s.role = 3 ∨ s.role = 4) ∧ (s.pan p).stagedAll bs = true then
        (s.modHsPan p.num (fun h => { h with check := bs })).ok c.key []
      else s.failed c.key 0x0513 := by
  subst hbs
  simp only [bodyPeerEditCheck, hp]
  rw [if_neg (by omega), if_neg (by omega), if_neg (by omega)]

theorem peerEditCheck_passed (hrole : s.role = 3 ∨ s.role = 4) (hstaged : (s.pan p).stagedAll bs = true) :
    bodyPeerEditCheck c s = (s.modHsPan p.num (fun h => { h with check := bs })).ok c.key [] :=
  (peerEditCheck_listed hlen hp hbs).trans (if_pos ⟨hrole, hstaged⟩)

theorem peerEditCheck_failed (hbad : s.role ≠ 3 ∧ s.role ≠ 4 ∨ (s.pan p).stagedAll bs = false) :
    bodyPeerEditCheck c s = s.failed c.key 0x0513 := by
  refine (peerEditCheck_listed hlen hp hbs).trans (if_neg ?_)
  rintro ⟨hrole, hstaged⟩
  rcases hbad with h | h
  · omega
  · simp [h] at hstaged

end

section
variable (hl : c.pl.length = 1)
include hl

theorem peerEditCancel_noPan (hp : panOf (leVal c.pl) = none) : bodyPeerEditCancel c s = s.badParam c.key 0 := by
  simp only [bodyPeerEditCancel, fixedLen, if_pos hl, hp]

theorem peerEditCancel_dropped {p : PanId} (hp : panOf (leVal c.pl) = some p) :
    bodyPeerEditCancel c s =
      ((s.modPan p (fun x => { x with staged := [] })).modHsPan p.num (fun h => { h with check := [] })).ok c.key [] := by
  simp only [bodyPeerEditCancel, fixedLen, if_pos hl, hp]

end

end

/-- Settles O38, row by row: heartbeats and roles, mirrors and markers, takeover, handover, and the edits of a Pan and of a pair.
Where the rules leave a point open, the clauses rest on the model's choices in logs 31, 83, 84, 127, 130 and 156. -/
theorem hotStandbyAndEditCommandsActAsTheTablesSay : Obligations.HotStandbyAndEditCommandsActAsTheTablesSay := by
  unfold Obligations.HotStandbyAndEditCommandsActAsTheTablesSay
  refine ⟨?hbSent, ?hbOn, ?hbSilent, ?boundary, ?noBoundary, ?cfgWrite, ?cfg, ?hbTaken, ?hbIgnored, ?hbRx, ?miss, ?noMiss,
    ?lossSyncing, ?lossPlanned, ?lossStandby, ?noLoss, ?waitOver, ?noWait, ?mirrorKept, ?mirrorIgnored, ?markerTaken,
    ?markerOff, ?markerIgnored, ?marker, ?takeover, ?takeoverUnrouted, ?noTakeover, ?remoteReset, ?noRemoteReset,
    ?testStranger, ?testState, ?testPlanned, ?noHandover, ?handoverStopped, ?handoverPrimary, ?handoverStandby,
    ?handoverAskedStandby, ?handoverAskedPrimary, ?stageShort, ?stageNoPan, ?stageNumber, ?stageEmpty, ?stageFull,
    ?stageBad, ?stageRefused, ?stageAlone, ?stageNoLink, ?stageForwarded, ?peerShort, ?peerNoPan, ?peerNumber, ?peerEmpty,
    ?peerFull, ?peerBad, ?peerStaged, ?peerRefused, ?commitShort, ?commitRagged, ?commitNoPan, ?commitCount,
    ?commitLength, ?commitEntry, ?commitBarred, ?commitUnstaged, ?commitAlone, ?commitPaired, ?checkTimeout, ?noCheck,
    ?checkShort, ?checkRagged, ?checkLength, ?checkNoPan, ?checkPassed, ?checkFailed, ?cancelNoPan, ?cancelled⟩
  case hbSent => exact fun s hon => congrArg Host.Outcome.next (if_pos hon)
  case hbOn => exact fun s => hbOn_iff
  case hbSilent => exact fun s hoff => congrArg Host.Outcome.next (if_neg (by simp [hoff]))
  case boundary => exact fun p x s hmay => congrArg Host.Outcome.next (if_pos hmay)
  case noBoundary => exact fun p x s hno => congrArg Host.Outcome.next (if_neg (by simp [hno]))
  case cfgWrite => exact fun who value s hok => congrArg Host.Outcome.next (regDo_ok hok)
  case cfg =>
    exact fun s w g t hreg ht => ⟨hsCfg_disabled hreg ht,
      fun hen hrole haddr ha hb => (hsCfg_enabled hreg ht hen).trans (if_pos ⟨hrole, haddr, ha, hb⟩),
      fun hen hno => (hsCfg_enabled hreg ht hen).trans (if_neg fun h => hno.elim (· h.1) h.2.1)⟩
  case hbTaken =>
    exact fun l src role pref ident hand s hup hen htakes haddr hsrc =>
      congrArg Host.Outcome.next (if_pos ⟨hup, hen, htakes, haddr, hsrc⟩)
  case hbIgnored =>
    intro l src role pref ident hand s h
    refine congrArg Host.Outcome.next (if_neg fun hall => ?_)
    obtain ⟨hup, hen, htakes, haddr, hsrc⟩ := hall
    simp [hup, hen, htakes, haddr, hsrc] at h
  case hbRx =>
    intro s role pref ident hand t ht
    refine ⟨?noLink, ?mismatch, ?partnerRuns, ?bothCandidates, ?partnerWaits, ?dual, ?partnerSyncs, ?otherRole⟩
    case noLink => exact fun h1 hlink => (hbRx_candidate ht h1).trans (if_pos hlink)
    case mismatch => exact fun h1 hlink hident => hbRx_mismatch ht h1 hlink hident
    case partnerRuns => exact fun h1 hlink hident h2 => (hbRx_match ht h1 hlink hident).trans (if_pos h2)
    case bothCandidates =>
      intro h1 hlink hident hr
      rw [hbRx_match ht h1 hlink hident, if_neg (by omega)]
      simp only [hr, true_and]
    case partnerWaits =>
      exact fun h1 hlink hident hne1 hne2 =>
        (hbRx_match ht h1 hlink hident).trans ((if_neg hne2).trans (if_neg fun h => hne1 h.1))
    case dual => exact fun h2 hr => (hbRx_primary ht h2).trans (if_pos hr)
    case partnerSyncs =>
      exact fun h2 hr hwas => (hbRx_primary ht h2).trans ((if_neg (by omega)).trans (if_pos ⟨hr, hwas⟩))
    case otherRole => exact fun h1 h2 => hbRx_otherRole ht h1 h2
  case miss => exact fun s hlow hhigh => congrArg Host.Outcome.next (if_pos ⟨hlow, hhigh⟩)
  case noMiss => exact fun s h => congrArg Host.Outcome.next (if_neg (by omega))
  case lossSyncing =>
    rintro s _ _ hrole rfl rfl
    exact congrArg Host.Outcome.next (if_pos hrole)
  case lossPlanned => exact fun s b k hrole hplan => heartbeatLoss_planned hrole hplan
  case lossStandby => exact fun s b hrole hplan => heartbeatLoss_standby hrole hplan
  case noLoss => exact fun s h3 h4 => congrArg Host.Outcome.next ((if_neg h3).trans (if_neg h4))
  case waitOver => exact fun s hrole => congrArg Host.Outcome.next (if_pos hrole)
  case noWait => exact fun s hrole => congrArg Host.Outcome.next (if_neg hrole)
  case mirrorKept => exact fun p record lines s t => mirrorFrameRx_kept
  case mirrorIgnored => exact fun p record lines s h3 h4 => congrArg Host.Outcome.next (if_pos (.inl ⟨h3, h4⟩))
  case markerTaken =>
    intro p s hrole hcopy hmode htakes hoff
    rw [boundaryMarkerRx_taken hrole hcopy hmode htakes, if_neg (by simp [hoff])]
  case markerOff =>
    intro p s hrole hcopy hmode htakes hoff
    rw [boundaryMarkerRx_taken hrole hcopy hmode htakes, if_pos hoff]
  case markerIgnored => exact fun p s h3 h4 => congrArg Host.Outcome.next (if_pos (.inl ⟨h3, h4⟩))
  case marker =>
    exact fun s p => ⟨fun hmir hhand => (marker_noMirror hmir).trans (if_neg (by simp [hhand])),
      fun hmir hhand => (marker_noMirror hmir).trans (if_pos hhand),
      fun m => marker_late, fun m => marker_incomplete, fun m => marker_diverged,
      fun m hmir hlogic hrole hwhole hfits hruns hsame =>
        marker_agreed hmir (.inl hlogic) hwhole hfits hruns hrole hsame⟩
  case takeover => exact fun s t l hrole hloss ht => takeover_routed hrole hloss ht
  case takeoverUnrouted => exact fun s t => takeover_unrouted
  case noTakeover =>
    exact fun s h => congrArg Host.Outcome.next (if_pos (by simpa only [Bool.not_eq_true'] using h))
  case remoteReset =>
    exact fun l src s hup hrrst hen htakes hsrc =>
      congrArg Host.Outcome.next (if_pos ⟨hup, hrrst, hen, htakes, hsrc⟩)
  case noRemoteReset =>
    intro l src s h
    refine congrArg Host.Outcome.next (if_neg fun hall => ?_)
    obtain ⟨hup, hrrst, hen, htakes, hsrc⟩ := hall
    simp [hup, hrrst, hen, htakes, hsrc] at h
  case testStranger => exact fun r s x s1 h hl ha => exec_of_body rfl h (switchoverTest_stranger hl ha)
  case testState => exact fun r s x s1 h hl ha hstate => exec_of_body rfl h (switchoverTest_wrongState hl ha hstate)
  case testPlanned =>
    exact fun r s x s1 q h hl ha hpair hplan hq => exec_of_body rfl h (switchoverTest_planned hl ha hpair hplan hq)
  case noHandover => exact fun s hplan => congrArg Host.Outcome.next (by simp only [hplan])
  case handoverStopped =>
    rintro s b _ q hplan rfl hstop
    exact handover_stopped hplan hstop
  case handoverPrimary => exact fun s b => handover_primary
  case handoverStandby => exact fun s b => handover_standby
  case handoverAskedStandby => exact fun s b q => handover_askedStandby
  case handoverAskedPrimary =>
    exact fun s b q t hplan hgoes hrole ht => handover_askedPrimary hplan hgoes hrole ht
  case stageShort => exact fun r s x s1 h hl => exec_editStage h (stageBody_short hl)
  case stageNoPan => exact fun r s x s1 h hl hp => exec_editStage h (stageBody_noPan hl hp)
  case stageNumber => exact fun r s x s1 p h hl hp hb => exec_editStage h (stageBody_badNumber hl hp hb)
  case stageEmpty => exact fun r s x s1 p h hl hp hb hm => exec_editStage h (stageBody_noProgram hl hp hb hm)
  case stageFull =>
    exact fun r s x s1 p blk h hl hp hb hm hblk hfull => exec_editStage h (stageBody_full hl hp hb hm hblk hfull)
  case stageBad =>
    exact fun r s x s1 p blk h hl hp hb hm hblk hroom hfits hbad =>
      exec_editStage h (stageBody_badBlock hl hp hb hm hblk hroom hfits hbad)
  case stageRefused =>
    exact fun r s x s1 p blk h hl hp hb hm hblk hroom hfits hgood hbusy =>
      exec_editStage h (editStage_refused hl hp hb hm hblk hroom hfits hgood hbusy)
  case stageAlone =>
    exact fun r s x s1 p blk h hl hp hb hm hblk hroom hfits hgood hrole hidle hpair =>
      exec_editStage h (editStage_alone hl hp hb hm hblk hroom hfits hgood hrole hidle hpair)
  case stageNoLink =>
    exact fun r s x s1 p blk h hl hp hb hm hblk hroom hfits hgood hrole hidle hpair hlink =>
      exec_editStage h (editStage_noLink hl hp hb hm hblk hroom hfits hgood hrole hidle hpair hlink)
  case stageForwarded =>
    exact fun r s x s1 p blk l h hl hp hb hm hblk hroom hfits hgood hrole hidle hpair hlink =>
      exec_editStage h (editStage_forwarded hl hp hb hm hblk hroom hfits hgood hrole hidle hpair hlink)
  case peerShort => exact fun r s x s1 h hl => exec_peerEditStage h (stageBody_short hl)
  case peerNoPan => exact fun r s x s1 h hl hp => exec_peerEditStage h (stageBody_noPan hl hp)
  case peerNumber => exact fun r s x s1 p h hl hp hb => exec_peerEditStage h (stageBody_badNumber hl hp hb)
  case peerEmpty => exact fun r s x s1 p h hl hp hb hm => exec_peerEditStage h (stageBody_noProgram hl hp hb hm)
  case peerFull =>
    exact fun r s x s1 p blk h hl hp hb hm hblk hfull => exec_peerEditStage h (stageBody_full hl hp hb hm hblk hfull)
  case peerBad =>
    exact fun r s x s1 p blk h hl hp hb hm hblk hroom hfits hbad =>
      exec_peerEditStage h (stageBody_badBlock hl hp hb hm hblk hroom hfits hbad)
  case peerStaged =>
    exact fun r s x s1 p blk h hl hp hb hm hblk hroom hfits hgood hrole =>
      exec_peerEditStage h (peerEditStage_staged hl hp hb hm hblk hroom hfits hgood hrole)
  case peerRefused =>
    exact fun r s x s1 p blk h hl hp hb hm hblk hroom hfits hgood h3 h4 =>
      exec_peerEditStage h (peerEditStage_refused hl hp hb hm hblk hroom hfits hgood h3 h4)
  case commitShort => exact fun r s x s1 h hl => exec_of_body rfl h (editCommit_short hl)
  case commitRagged => exact fun r s x s1 h hl hbad => exec_of_body rfl h (editCommit_ragged hl hbad)
  case commitNoPan => exact fun r s x s1 h hl hp => exec_of_body rfl h (editCommit_noPan hl hp)
  case commitCount => exact fun r s x s1 p h hl hp hn => exec_of_body rfl h (editCommit_badCount hl hp hn)
  case commitLength =>
    exact fun r s x s1 p h hl hp hn hlen => exec_of_body rfl h (editCommit_badLength hl hp hn hlen)
  case commitEntry =>
    exact fun r s x s1 p bs i h hp hn hlen hbs hbad => exec_of_body rfl h (editCommit_badEntry hp hn hlen hbs hbad)
  case commitBarred =>
    exact fun r s x s1 p bs h hp hn hlen hbs hgood hbar =>
      exec_of_body rfl h (editCommit_barred hp hn hlen hbs hgood hbar)
  case commitUnstaged =>
    exact fun r s x s1 p bs h hp hn hlen hbs hgood hfree hstaged =>
      exec_of_body rfl h (editCommit_unstaged hp hn hlen hbs hgood hfree hstaged)
  case commitAlone =>
    exact fun r s x s1 p bs t h hp hn hlen hbs hgood hfree hstaged ht hpair =>
      exec_of_body rfl h (editCommit_alone hp hn hlen hbs hgood hfree hstaged ht hpair)
  case commitPaired =>
    exact fun r s x s1 p bs t h hp hn hlen hbs hgood hfree hstaged ht hpair =>
      exec_of_body rfl h (editCommit_paired hp hn hlen hbs hgood hfree hstaged ht hpair)
  case checkTimeout => exact fun p s e => checkTimeout_fails
  case noCheck => exact fun p s he => congrArg Host.Outcome.next (by simp only [he])
  case checkShort => exact fun r s x s1 h hl => exec_of_body rfl h (peerEditCheck_short hl)
  case checkRagged => exact fun r s x s1 h hl hbad => exec_of_body rfl h (peerEditCheck_ragged hl hbad)
  case checkLength => exact fun r s x s1 h hl hlen => exec_of_body rfl h (peerEditCheck_badLength hl hlen)
  case checkNoPan => exact fun r s x s1 h hlen hp => exec_of_body rfl h (peerEditCheck_noPan hlen hp)
  case checkPassed =>
    exact fun r s x s1 p bs h hlen hp hbs hrole hstaged =>
      exec_of_body rfl h (peerEditCheck_passed hlen hp hbs hrole hstaged)
  case checkFailed =>
    exact fun r s x s1 p bs h hlen hp hbs hbad => exec_of_body rfl h (peerEditCheck_failed hlen hp hbs hbad)
  case cancelNoPan => exact fun r s x s1 h hl hp => exec_of_body rfl h (peerEditCancel_noPan hl hp)
  case cancelled => exact fun r s x s1 p h hl hp => exec_of_body rfl h (peerEditCancel_dropped hl hp)

end Sys2Proof.Machine
end

