-- ==== Sys2Proof/Proofs/CanRegisters.lean ====
section
/-! PROOF. The registers of a CAN channel (R201, R210, R213 to R217, R220, R222, R225): what a write of each leaves. -/
namespace Sys2Proof.Machine

/-! A change under a condition. -/

section
variable {b : Bool} {g : State → State}

theorem when_pos (hb : b = true) (s : State) : s.when b g = g s := if_pos hb

theorem when_neg (hb : b = false) (s : State) : s.when b g = s := if_neg (by simp [hb])

end

/-! CAN_n_CTRL (R201, R215, R217). -/

/-- What a write of CAN_n_CTRL stores before it recovers, enables or disables: MODE in INIT only, the plain fields, TXF_N. -/
def State.canCtrlFields (s : State) (n w : Nat) : State :=
  (((((((((if s.f (F.CAN_STAT_STATE n) = 0 then s.setF (F.CAN_CTRL_MODE n) (bits w 2 1) else s).setF
    (F.CAN_CTRL_LBEXT n) (bits w 3 3)).setF (F.CAN_CTRL_FD_EN n) (bits w 4 4)).setF (F.CAN_CTRL_BRS_EN n) (bits w 5 5)).setF
    (F.CAN_CTRL_PXHD n) (bits w 6 6)).setF (F.CAN_CTRL_ABO n) (bits w 7 7)).setF (F.CAN_CTRL_UNF_EN n) (bits w 9 9)).setF
    (F.CAN_CTRL_RXAB n) (bits w 16 16)).canTxfN n (bits w 15 10))

section
variable {s : State} {n w : Nat}

theorem canCtrl_enables (hen : bit w 0 = true) :
    s.canCtrl n w = ((s.canCtrlFields n w).when (bit w 8) (fun u => u.canRecover n)).canOn n :=
  if_pos hen

theorem canCtrl_disables (hen : bit w 0 = false) :
    s.canCtrl n w = ((s.canCtrlFields n w).when (bit w 8) (fun u => u.canRecover n)).canOff n :=
  if_neg (by simp [hen])

/-- EN written 1 in INIT counts when the bit timing passes R201. -/
theorem canOn_passed (hinit : s.f (F.CAN_STAT_STATE n) = 0) (htime : s.canTimingOk n = true) :
    s.canOn n = ((s.setF (F.CAN_CTRL_EN n) 1).setF (F.CAN_STAT_CFGERR n) 0).setF (F.CAN_STAT_STATE n) 1 :=
  (if_neg (not_not.2 hinit)).trans (if_pos htime)

theorem canOn_failed (hinit : s.f (F.CAN_STAT_STATE n) = 0) (htime : s.canTimingOk n = false) :
    s.canOn n = (s.setF (F.CAN_STAT_CFGERR n) 1).canEvt n 18 :=
  (if_neg (not_not.2 hinit)).trans (if_neg (by simp [htime]))

theorem canTxfN_blocked {v id : Nat} (hblock : s.txfBlock n (min 32 v) = some id) :
    s.canTxfN n v = (s.setF (F.CAN_STAT_TXFERR n) 1).conflict id 0 0 := by
  simp only [State.canTxfN, hblock]

theorem canTxfN_stored {v : Nat} (hblock : s.txfBlock n (min 32 v) = none) (hempty : s.f (F.CAN_TXFIFO_STAT_COUNT n) = 0) :
    s.canTxfN n v = (s.setF (F.CAN_CTRL_TXF_N n) (min 32 v)).setF (F.CAN_STAT_TXFERR n) 0 := by
  simp only [State.canTxfN, hblock]
  exact if_neg fun hless => hless.2 hempty

end

/-! CAN_n_AUTH (R220). -/

section
variable {s t : State} {n w : Nat}
  (ht : t = (s.setF (F.CAN_AUTH_KSLOT n) (bits w 7 2)).setF (F.CAN_AUTH_WIN n) (max 1 (bits w 15 8)))
include ht

theorem canAuthWrite_off (hen : bit w 0 = false) :
    s.canAuthWrite n w = (t.modCan n (fun c => { c with key := none })).setF (F.CAN_AUTH_EN n) 0 := by
  subst ht
  exact if_neg (by simp [hen])

variable (hen : bit w 0 = true)
include hen

theorem canAuthWrite_noKey (hkey : t.busKey (bits w 7 2) 8 = none) :
    s.canAuthWrite n w =
      ((t.modCan n (fun c => { c with key := none })).setF (F.CAN_AUTH_EN n) 0).setF (F.CAN_AUTH_KERR n) 1 := by
  subst ht
  simp only [State.canAuthWrite, if_pos hen, hkey]

theorem canAuthWrite_loaded {k : List Byte} (hkey : t.busKey (bits w 7 2) 8 = some k) :
    s.canAuthWrite n w =
      ((t.modCan n (fun c => { c with key := some k })).setF (F.CAN_AUTH_EN n) 1).setF (F.CAN_AUTH_KERR n) 0 := by
  subst ht
  simp only [State.canAuthWrite, if_pos hen, hkey]

end

/-! The request and cancel masks (R213): a mask that names an object of another owner is refused as a whole (log 113, DESIGN
CHOICE). -/

section
variable {s : State} {n w : Nat} {high : Bool}

section
variable (hown : (maskObjs high w).find? (fun t => s.owner (resId 8 (64 * n + t)) != 0) = none)
include hown

theorem canMask_all (g : Nat → State → State) :
    s.canMask n high w g = ((maskObjs high w).foldl (fun u t => g t u) s, .ok) := by
  simp only [State.canMask, hown]

theorem canSet_all : s.canSet n high w = (((maskObjs high w).foldl (fun u t => u.canRaise n t) s).canArb n, .ok) := by
  rw [State.canSet, canMask_all hown]

theorem canClr_all : s.canClr n high w = ((maskObjs high w).foldl (fun u t => u.canCancel n t) s, .ok) := canMask_all hown _

end

section
variable {t : Nat} (hown : (maskObjs high w).find? (fun t => s.owner (resId 8 (64 * n + t)) != 0) = some t)
include hown

theorem canMask_refused (g : Nat → State → State) : s.canMask n high w g = (s, .conflict (resId 8 (64 * n + t))) := by
  simp only [State.canMask, hown]

theorem canSet_refused : s.canSet n high w = (s, .conflict (resId 8 (64 * n + t))) := by
  rw [State.canSet, canMask_refused hown]

theorem canClr_refused : s.canClr n high w = (s, .conflict (resId 8 (64 * n + t))) := canMask_refused hown _

end

end

/-! A row whose register write its block takes, or refuses with a conflict (R115, R222). -/

section
variable {s u : State} {who : Who} {a : Nat} {g : State → State × WrRes} (hok : s.regOk who a = true)
include hok

theorem regDo_taken (hg : g s = (u, .ok)) : s.regDo who a (fun s => State.wrRes who (g s)) = u := by
  rw [regDo_ok hok, hg, State.wrRes]

theorem regDo_conflict {id : Nat} (hg : g s = (u, .conflict id)) :
    s.regDo who a (fun s => State.wrRes who (g s)) = (u.conflict id (whoOwner who) 1).busErr who := by
  rw [regDo_ok hok, hg, State.wrRes]

end

/-! The transmit FIFO port (R214), the unfiled FIFO (R210), the freshness slots (R225). -/

section
variable {s : State} {n : Nat} {b : List Byte}

theorem canFifo_free (hown : s.owner (resId 10 n) = 0) : s.canFifo n b = (s.canPort n b, .ok) := if_neg (not_not.2 hown)

theorem canFifo_owned (hown : s.owner (resId 10 n) ≠ 0) : s.canFifo n b = (s, .conflict (resId 10 n)) := if_pos hown

section
variable {p : List Byte} (hp : p = (s.canCh n).part ++ b)
include hp

theorem canPort_partial (hshort : p.length < 16 ∨ p.length < recLen p) :
    s.canPort n b = s.modCan n (fun c => { c with part := p }) := by
  subst hp
  exact if_neg (by omega)

theorem canPort_record (hhead : 16 ≤ p.length) (hwhole : recLen p ≤ p.length) :
    s.canPort n b = ((s.modCan n (fun c => { c with part := p.drop (recLen p) })).canEnqueue n (p.take (recLen p))).1 := by
  subst hp
  exact if_pos ⟨hhead, hwhole⟩

end

theorem canUnfRel_empty (hzero : s.f (F.CAN_UNF_STAT_COUNT n) = 0) : s.canUnfRel n = s := if_pos hzero

theorem canUnfRel_oldest (hsome : s.f (F.CAN_UNF_STAT_COUNT n) ≠ 0) :
    s.canUnfRel n =
      (s.setF (F.CAN_UNF_STAT_COUNT n) (s.f (F.CAN_UNF_STAT_COUNT n) - 1)).setF (F.CAN_UNF_STAT_HEAD n)
        ((s.f (F.CAN_UNF_STAT_HEAD n) + 1) % 128) :=
  if_neg hsome

variable {k : Nat} {w : Word}

theorem canFreshH_pending {l : Nat} (hlow : tblFind (s.canCh n).freshL k = some l) :
    s.canFreshH n k w =
      ((s.setReg (A.CAN_FRESH_L n k) (toW l)).setReg (A.CAN_FRESH_H n k) w).modCan n
        (fun c => { c with freshL := tblErase c.freshL k }) := by
  simp only [State.canFreshH, hlow]

theorem canFreshH_alone (hlow : tblFind (s.canCh n).freshL k = none) :
    s.canFreshH n k w =
      (s.setReg (A.CAN_FRESH_H n k) w).modCan n (fun c => { c with freshL := tblErase c.freshL k }) := by
  simp only [State.canFreshH, hlow]

end

end Sys2Proof.Machine
end

