-- ==== Sys2Proof/Proofs/CanObjects.lean ====
section
/-! PROOF. The transmit objects of a CAN channel: new content, requests, arbitration, the end of an attempt (R205, R211 to R213,
R216). -/
namespace Sys2Proof.Machine

/-! New content that writes a whole object (R205, R211). -/

section
variable (tid ctl ttime : Nat) (data : List Byte)

theorem canWhole_requests : (canWhole tid ctl ttime data).any (fun x => x.fld == 5 && x.val % 2 == 1) = true := by
  simp [canWhole]

/-- It sets TTIME by field 9, and leaves TAT to the control word. -/
theorem canWhole_noTat : (canWhole tid ctl ttime data).find? (fun x => x.fld == 7) = none := by
  simp [canWhole]

theorem canCopy_whole (s : State) (n t : Nat) :
    s.canCopy n t (canWhole tid ctl ttime data) =
      ((canWhole tid ctl ttime data).foldl (State.canPart n t) s).canRaise n t := by
  simp only [State.canCopy, canWhole_requests, if_true, canWhole_noTat]

end

/-! New content waits for the end of a transmission of its object (R212; of a CAN_SEND by log 179, DEDUCED). -/

section
variable {s : State} {n : Nat} {x : CanCopy}

theorem canOffer_active (hact : (s.canCh n).active = some x.obj) :
    s.canOffer n x = s.modCan n (fun c => { c with copy := c.copy ++ [x] }) :=
  if_pos hact

theorem canOffer_free (hact : (s.canCh n).active ≠ some x.obj) : s.canOffer n x = State.canTake n s x := if_neg hact

end

/-! Requests and arbitration (R213; an idle bus starts the next frame at once by log 112, DESIGN CHOICE; a request raised again counts
FV, and a held object is sent late, by logs 129 and 177, DEDUCED). -/

section
variable {s u : State} {n t : Nat}

/-- A first request, neither authenticated nor late nor a wake, only sets REQ and clears the marks of the last one. -/
theorem canRaise_first (hres : s.canReserved n t = false) (ht : t < 64) (hnew : s.txBit n t 16 = false)
    (hu : u = (s.setCtl (canTx n t) 22 16 0).setTx n t 16 true) (hauth : u.txBit n t 8 = false)
    (hlate : u.canIsLate n t = false) (hwake : u.flag (F.TIDE_N_CFG_TXWAKE n) = false) : s.canRaise n t = u := by
  subst hu
  have hmay : ¬(s.canReserved n t = true ∨ 64 ≤ t) := by
    simp only [hres, Bool.false_eq_true, false_or]
    omega
  simp only [State.canRaise, if_neg hmay, hnew, Bool.false_eq_true, if_false, hauth, hlate, Bool.not_false, if_true, hwake,
    Bool.false_and]

theorem canArb_busy (hact : (s.canCh n).active = some t) : s.canArb n = s := if_pos (by simp [hact])

theorem canArb_starts {k : Nat} (hidle : (s.canCh n).active = none) (hu : u = s.isoFeed n)
    (hwin : (u.canRunners n).foldl arbBetter none = some (k, t)) (ht : t < 64) :
    s.canArb n =
      ((u.useFree.modCan n (fun c => { c with active := some t, fly := some (u.canTxFrame n t), cancel := false })).setF
        (F.CAN_STAT_TXACT n) 1).setTx n t 23 true := by
  subst hu
  simp only [State.canArb, hidle, Option.isSome_none, Bool.false_eq_true, if_false, hwin, if_pos ht]

/-! An attempt that ended without success (R212, R213, R216). -/

theorem canTried_kept (ht : t < 64) :
    s.canTried n t false =
      if (s.canTakeCopy n t).canIsLate n t then (s.canTakeCopy n t).canLate n t else s.canTakeCopy n t :=
  if_pos ht

theorem canLost_none (hact : (s.canCh n).active = none) : s.canLost n = s := by
  simp only [State.canLost, hact]

theorem canLost_attempt (hact : (s.canCh n).active = some t) (ht : t < 64) (hkeep : (s.canCh n).cancel = false) :
    s.canLost n =
      if ((s.canIdle n).canTakeCopy n t).canIsLate n t then ((s.canIdle n).canTakeCopy n t).canLate n t
      else (s.canIdle n).canTakeCopy n t := by
  simp only [State.canLost, hact, hkeep, canTried_kept ht]

end

/-! An object passes TTIME and its tolerance (R216). -/

section
variable {s : State} {n : Fin 16} {obj : Fin 65}

theorem exec_canTatLate_head (hobj : obj.val = 64) : exec (.canTatLate n obj) s = .next ((s.canHeadLate n).canArb n) :=
  congrArg Host.Outcome.next (if_pos hobj)

theorem exec_canTatLate_object (hobj : obj.val ≠ 64) (hlate : s.canIsLate n obj = true)
    (hact : (s.canCh n).active ≠ some obj.val) : exec (.canTatLate n obj) s = .next (s.canLate n obj) :=
  congrArg Host.Outcome.next ((if_neg hobj).trans (if_pos (by simp [hlate, hact])))

end

end Sys2Proof.Machine
end

