-- ==== Sys2Proof/Proofs/CanFrames.lean ====
section
/-! PROOF. Frames on a CAN channel: reception and acceptance, held objects, errors, transmission, recovery (R202, R207, R209, R217
to R220). -/
namespace Sys2Proof.Machine

/-! Acceptance (R207, R220). -/

section
variable {s : State} {n : Nat} {f : CanFrame}

/-- A frame that no filter takes is unfiled; one that is kept and no SCF marks the bus busy. -/
theorem canAccept_unmatched {kept : Bool} (hm : s.canMatch n f = none)
    (hk : kept = (s.flag (F.CAN_CTRL_UNF_EN n) && decide (s.f (F.CAN_UNF_STAT_COUNT n) < 128))) :
    s.canAccept n f =
      ((((s.canUnfiled n f).when (kept && !s.isScf n f.rid.toNat (frLen f))
        (fun u => u.modTide n (fun c => { c with busyAt := some u.now }))).tideEval n).sluiceIn n 0 f) := by
  subst hk
  unfold State.canAccept
  simp only [hm]

variable {j : Nat} (hm : s.canMatch n f = some j)
include hm

theorem canAccept_plain (hplain : s.flag (F.CAN_MASK_AUTH n j) = false) (hheld : s.canHeldObj n j = false) :
    s.canAccept n f = s.canFileAll n j f false 0 := by
  unfold State.canAccept
  simp only [hm, hplain, hheld, Bool.false_eq_true, if_false]

theorem canAccept_unproved (hauth : s.flag (F.CAN_MASK_AUTH n j) = true) (hbad : s.canAuth n j f = none) :
    s.canAccept n f = (((s.incF (F.CAN_AUTHCNT_FAIL n) 1).canEvt n 16).tideEval n).sluiceIn n 0 f := by
  unfold State.canAccept
  simp only [hm, if_pos hauth, hbad]

theorem canAccept_proved {k c : Nat} (hauth : s.flag (F.CAN_MASK_AUTH n j) = true) (hgood : s.canAuth n j f = some (k, c))
    (hheld : (s.setFresh n k c).canHeldObj n j = false) :
    s.canAccept n f = (s.setFresh n k c).canFileAll n j f true (c % 2 ^ 32) := by
  unfold State.canAccept
  simp only [hm, if_pos hauth, hgood, hheld, Bool.false_eq_true, if_false]

end

/-! A channel that hears a frame, or an error in one (R207, R217, R219). -/

section
variable {s : State} {n : Fin 16}

theorem exec_canFrameReceived_heard {f : CanFrame} (hears : s.canHears n = true)
    (hfd : ridFdf f.rid.toNat = false ∨ s.flag (F.CAN_CTRL_FD_EN n) = true) :
    exec (.canFrameReceived n f) s =
      .next (((((s.canLost n).canRecDown n).canFiled n (s.stamped f)).canStop n).canArb n) :=
  congrArg Host.Outcome.next (if_neg (by rcases hfd with h | h <;> simp [hears, h]))

theorem exec_canFrameReceived_deaf {f : CanFrame} (hdeaf : s.canHears n = false) :
    exec (.canFrameReceived n f) s = .next s :=
  congrArg Host.Outcome.next (if_pos (.inl (by simp [hdeaf])))

variable {lec : Fin 7} {dataPhase eight pxe : Bool}

theorem exec_canRxError_deaf (hdeaf : s.canHears n = false) :
    exec (.canRxError n lec dataPhase eight pxe) s = .next s :=
  congrArg Host.Outcome.next (if_pos (by simp [hdeaf]))

variable (hears : s.canHears n = true)
include hears

/-- A protocol exception that the channel handles is counted, and no error. -/
theorem exec_canRxError_exception (hpxe : pxe = true) (hhandled : s.flag (F.CAN_CTRL_PXHD n) = false) :
    exec (.canRxError n lec dataPhase eight pxe) s =
      .next (((((s.canLost n).incF (F.CAN_ERRCNT_PXE n) 1).canEvt n 14).canStop n).canArb n) :=
  congrArg Host.Outcome.next ((if_neg (by simp [hears])).trans (if_pos (by simp [hpxe, hhandled])))

theorem exec_canRxError_counted {t : State} (herr : pxe = false ∨ s.flag (F.CAN_CTRL_PXHD n) = true)
    (ht : t = (s.canLost n).canErr n (if pxe then 2 else lec.val) dataPhase) (hmode : t.f (F.CAN_CTRL_MODE n) = 0)
    (hfree : t.canFrozen n = false) :
    exec (.canRxError n lec dataPhase eight pxe) s =
      .next ((((t.setRec n (s.f (F.CAN_ERR_REC n) + if eight then 8 else 1)).canFault n (s.f (F.CAN_ERR_TEC n))
        (s.f (F.CAN_ERR_REC n))).canStop n).canArb n) := by
  have hnormal : t.when (t.f (F.CAN_CTRL_MODE n) == 2) (fun s => s.incF (F.CAN_PERR_RERR n) 1) = t :=
    when_neg (by simp [hmode]) t
  subst ht
  refine congrArg Host.Outcome.next
    ((if_neg (by simp [hears])).trans ((if_neg (by rcases herr with h | h <;> simp [h])).trans ?_))
  simp only [hnormal, hfree, Bool.false_eq_true, if_false]

end

/-! Objects held for a harvest (R209). -/

section
variable {s t : State} {n : Fin 16} {obj : Fin 1024}

/-- The object is held no longer. -/
theorem exec_canHoldRelease_kept (hspilt : obj.val ∉ (s.canCh n).spilt) :
    exec (.canHoldRelease n obj) s =
      .next ((s.modCan n (fun c => { c with held := c.held.filter (fun x => x.2 != obj.val) })).canUnhold n) := by
  have hno : (s.canCh n).spilt.contains obj.val = false := by simpa using hspilt
  simp only [exec, execCanHoldRelease, hno, Bool.false_eq_true, if_false]

/-- One that was filed into while held is first read again by each that held it. -/
theorem exec_canHoldRelease_spilt (hspilt : obj.val ∈ (s.canCh n).spilt)
    (ht : t = (((s.canCh n).held.filter (fun x => x.2 == obj.val)).map (·.1)).foldl (fun u w => u.reharvest w n obj) s) :
    exec (.canHoldRelease n obj) s =
      .next ((t.modCan n (fun c => { c with held := c.held.filter (fun x => x.2 != obj.val) })).canUnhold n) := by
  subst ht
  have hyes : (s.canCh n).spilt.contains obj.val = true := by simpa using hspilt
  simp only [exec, execCanHoldRelease, hyes, if_true]

end

/-! Transmission (R202, R205, R212, R217, R218; the delay in whole mtq by log 178, DEDUCED). -/

section
variable {s q : State} {n : Fin 16} (hq : q = s.canArb n)
include hq

theorem exec_canTxSuccess_none {sof : BitVec 32} {tdcv : BitVec 7}
    (hno : (q.canCh n).active = none ∨ q.canDrives n = false) : exec (.canTxSuccess n sof tdcv) s = .next q := by
  subst hq
  refine congrArg Host.Outcome.next ?_
  cases hact : ((s.canArb n).canCh n).active with
  | none => rfl
  | some t =>
    have hmute : (s.canArb n).canDrives n = false := hno.resolve_left (by simp [hact])
    simp only [hmute, Bool.not_false, if_true]

variable {t : Nat} (hact : (q.canCh n).active = some t) (ht : t < 64)
include hact ht

theorem exec_canTxSuccess_sent {sof : BitVec 32} {tdcv : BitVec 7} {f : CanFrame} {u v w : State}
    (hdrives : q.canDrives n = true) (hf : f = q.stamped { q.inFlight n with sof := sof })
    (hu : u = (((q.when (!q.canInternal n) (fun x => x.canSend n f)).canTdc n f tdcv.toNat).canIdle n).modCan n
      (fun c => { c with rep := none }))
    (hv : v = if u.canFrozen n then u
      else (u.decF (F.CAN_ERR_TEC n)).canFault n (q.f (F.CAN_ERR_TEC n)) (u.f (F.CAN_ERR_REC n)))
    (hw : w = (v.canSent n t f.sof.toNat).when (!(v.isScf n f.rid.toNat (frLen f)))
      (fun x => x.modTide n (fun c => { c with busyAt := some x.now }))) :
    exec (.canTxSuccess n sof tdcv) s =
      .next (((if w.f (F.CAN_CTRL_MODE n) = 3 then w.canFiled n f else w.tideEval n).canStop n).canArb n) := by
  subst hq hf hu hv hw
  refine congrArg Host.Outcome.next ?_
  simp only [hact, hdrives, Bool.not_true, Bool.false_eq_true, if_false, if_pos ht]

theorem exec_canTxError_repeats {lec : Fin 7} {dataPhase keep : Bool} {tdcv : BitVec 7} {u v w : State}
    (hcancel : (q.canCh n).cancel = false)
    (hu : u = (((q.canTdc n (q.inFlight n) tdcv.toNat).canErr n lec dataPhase).canIdle n).modCan n
      (fun c => { c with rep := some t, cancel := false }))
    (hv : v = if u.canFrozen n || keep then u
      else (u.setF (F.CAN_ERR_TEC n) (min 511 (q.f (F.CAN_ERR_TEC n) + 8))).canFault n (q.f (F.CAN_ERR_TEC n))
        (u.f (F.CAN_ERR_REC n)))
    (hw : w = v.canTakeCopy n t) :
    exec (.canTxError n lec dataPhase keep tdcv) s =
      .next ((((if w.canIsLate n t then w.canLate n t else w).tideEval n).canStop n).canArb n) := by
  subst hq hu hv hw
  refine congrArg Host.Outcome.next ?_
  simp only [hact, hcancel, canTried_kept ht]

end

/-- Recovery ends after its 128 sequences, counted with ABO = 1 or from RECOVER (R217, R231). -/
theorem exec_canRecovered_counted {s : State} {n : Fin 16} (hoff : s.f (F.CAN_STAT_STATE n) = 4)
    (hhears : s.flag (F.TIDE_N_STAT_IGNORE n) = false)
    (hcounts : s.flag (F.CAN_CTRL_ABO n) = true ∨ (s.canCh n).recov = true) :
    exec (.canRecovered n) s =
      .next ((((((s.setF (F.CAN_STAT_STATE n) 2).setF (F.CAN_ERR_TEC n) 0).setRec n 0).canEvt n 12).tideEval n).canArb n) :=
  congrArg Host.Outcome.next (if_pos ⟨hoff, by simp [hhears], hcounts⟩)

end Sys2Proof.Machine
end

