-- ==== Sys2Proof/Proofs/CanRows.lean ====
section
/-! PROOF. CAN_CONFIG, CAN_SEND and CAN_READ (R39, R213, R216, R222), and the rows of chapter 07. -/
namespace Sys2Proof.Machine

/-! CAN_CONFIG applies its entries in order (R222). -/

section
variable {c : Ctx} {s : State}

theorem canConfig_listed (hmin : 3 ≤ c.pl.length) (hlen : c.pl.length = 3 + 8 * leAt c.pl 1 2) (hch : leAt c.pl 0 1 < 16) :
    bodyCanConfig c s = s.canConfig c.key (leAt c.pl 0 1) c.pl (leAt c.pl 1 2) 3 := by
  simp only [bodyCanConfig]
  rw [if_neg (by omega), if_neg (by omega), if_neg (not_not.2 hlen), if_neg (by omega)]

end

section
variable {s s1 : State} {k : RKey} {n i o : Nat} {pl : List Byte} (hoff : leAt pl o 2 < 0x7000)
  (hres : leAt pl (o + 2) 2 = 0)
include hoff hres

theorem canConfig_next (hw : s.canReg n (leAt pl o 2) (toW (leAt pl (o + 4) 4)) = (s1, .ok)) :
    s.canConfig k n pl (i + 1) o = s1.canConfig k n pl i (o + 8) := by
  rw [State.canConfig, if_neg (by omega), hw]

theorem canConfig_conflict {id : Nat} (hw : s.canReg n (leAt pl o 2) (toW (leAt pl (o + 4) 4)) = (s1, .conflict id)) :
    s.canConfig k n pl (i + 1) o = s1.cmdConflict k id := by
  rw [State.canConfig, if_neg (by omega), hw]

theorem canConfig_wrongState {m : Nat} (hw : s.canReg n (leAt pl o 2) (toW (leAt pl (o + 4) 4)) = (s1, .state m)) :
    s.canConfig k n pl (i + 1) o = s1.wrongState k m := by
  rw [State.canConfig, if_neg (by omega), hw]

end

/-! CAN_SEND (R213, R216; DTIME 0 stores TAT 0 by log 114, DESIGN CHOICE). -/

section
variable {c : Ctx} {s : State} {n t dt ctl : Nat} {xs : List Shadow} (hch : leAt c.pl 0 1 = n) (hobj : leAt c.pl 1 1 = t)
  (htime : leAt c.pl 2 8 = dt) (hctl : leAt c.pl 14 4 = ctl) (hlen : c.pl.length = 18 + min 64 (bits ctl 6 0)) (hn : n < 16)
  (ht : t < 64) (hdt : dt ≤ s.dtime + 1800000000000) (hown : s.owner (resId 8 (64 * n + t)) = 0)
  (hres : s.canReserved n t = false)
  (hxs : xs = canWhole (leAt c.pl 10 4) (putBit (ctl % 2 ^ 13) 9 (dt != 0)) (dt / 1000)
    ((c.pl.drop 18).take (min 64 (bits ctl 6 0))))
include hch hobj htime hctl hlen hn ht hdt hown hres hxs

theorem canSend_offered : bodyCanSend c s = (s.canOffer n ⟨t, xs, some ⟨t, c.key, dt⟩⟩).canArb n := by
  subst hch hobj htime hctl hxs
  simp only [bodyCanSend]
  rw [if_neg (by omega), if_neg (by omega), if_neg (not_not.2 hlen), if_neg (by omega), if_neg (by omega), if_neg (by omega),
    if_neg (by simp [hown, hres])]

theorem canSend_waits (hact : (s.canCh n).active = some t) :
    bodyCanSend c s =
      (s.modCan n (fun q => { q with copy := q.copy ++ [⟨t, xs, some ⟨t, c.key, dt⟩⟩] })).canArb n := by
  rw [canSend_offered hch hobj htime hctl hlen hn ht hdt hown hres hxs, canOffer_active hact]

theorem canSend_requests (hact : (s.canCh n).active ≠ some t) :
    bodyCanSend c s =
      ((xs.foldl (State.canPart n t) (s.modCan n (fun q => { q with reqs := q.reqs ++ [⟨t, c.key, dt⟩] }))).canRaise n
        t).canArb n := by
  rw [canSend_offered hch hobj htime hctl hlen hn ht hdt hown hres hxs, canOffer_free hact, State.canTake, hxs, canCopy_whole]
  rfl

end

theorem canRead_object {c : Ctx} {s : State} (hl : c.pl.length = 3) (hch : leAt c.pl 0 1 < 16) (hobj : leAt c.pl 1 2 < 1088) :
    bodyCanRead c s = s.ok c.key (s.mbytes (canRx (leAt c.pl 0 1) (leAt c.pl 1 2)) 80) :=
  (if_pos hl).trans ((if_neg (Nat.not_le.2 hch)).trans (if_neg (Nat.not_le.2 hobj)))

/-- Settles O34, row by row: the three requests, CAN_n_CTRL and CAN_n_AUTH, the request registers, ports and counters, then the
frames of the bus and the times of its objects. Where the rules leave a point open, the clauses rest on the model's choices in logs
112, 113, 114, 129, 177, 178 and 179. -/
theorem canControllerCommandsActAsTheTablesSay : Obligations.CanControllerCommandsActAsTheTablesSay := by
  unfold Obligations.CanControllerCommandsActAsTheTablesSay
  refine ⟨?config, ?entries, ?send, ?sendActive, ?read, ?enable, ?disable, ?recover, ?txfN, ?ctrl, ?on, ?txfNWrite, ?authRow,
    ?auth, ?set, ?setRefused, ?clr, ?clrRefused, ?fifo, ?fifoRefused, ?port, ?unfRel, ?unfEmpty, ?freshPending, ?fresh,
    ?integrated, ?received, ?lost, ?notHeard, ?unmatched, ?filed, ?unproved, ?proved, ?file, ?released, ?releasedSpilt,
    ?rxError, ?rxException, ?rxErrorNotHeard, ?sent, ?notSent, ?busy, ?txError, ?recovered, ?due, ?starts, ?lateHead, ?late,
    ?dominant, ?request⟩
  case config => exact fun r s x s1 h hmin hlen hch => exec_of_body rfl h (canConfig_listed hmin hlen hch)
  case entries =>
    exact fun s k n pl i o => ⟨rfl, fun hoff hres s1 => canConfig_next hoff hres,
      fun hoff hres s1 id => canConfig_conflict hoff hres, fun hoff hres s1 m => canConfig_wrongState hoff hres⟩
  case send =>
    exact fun r s x s1 n t dt c xs h _ hch hobj htime hctl hlen hn ht hdt hown hres hxs hact =>
      exec_of_body rfl h (canSend_requests hch hobj htime hctl hlen hn ht hdt hown hres hxs hact)
  case sendActive =>
    exact fun r s x s1 n t dt c xs h _ hch hobj htime hctl hlen hn ht hdt hown hres hxs hact =>
      exec_of_body rfl h (canSend_waits hch hobj htime hctl hlen hn ht hdt hown hres hxs hact)
  case read => exact fun r s x s1 h hl hch hobj => exec_of_body rfl h (canRead_object hl hch hobj)
  case enable => exact fun who n value s hok => congrArg Host.Outcome.next (regDo_ok hok)
  case disable => exact fun who n value s hok => congrArg Host.Outcome.next (regDo_ok hok)
  case recover => exact fun who n value s hok => congrArg Host.Outcome.next (regDo_ok hok)
  case txfN => exact fun who n value s hok => congrArg Host.Outcome.next (regDo_ok hok)
  case ctrl =>
    rintro s n w _ _ rfl rfl
    exact ⟨fun hrec hen => (canCtrl_enables hen).trans (congrArg (State.canOn · n) (when_neg hrec _)),
      fun hrec hen => (canCtrl_disables hen).trans (congrArg (State.canOff · n) (when_neg hrec _)),
      fun hrec hen => (canCtrl_enables hen).trans (congrArg (State.canOn · n) (when_pos hrec _)),
      fun hrec hen => (canCtrl_disables hen).trans (congrArg (State.canOff · n) (when_pos hrec _))⟩
  case on => exact fun s n hinit => ⟨canOn_passed hinit, canOn_failed hinit⟩
  case txfNWrite => exact fun s n v id => ⟨canTxfN_blocked, canTxfN_stored⟩
  case authRow => exact fun who n value s hok => congrArg Host.Outcome.next (regDo_ok hok)
  case auth =>
    exact fun s n w t ht => ⟨canAuthWrite_off ht, canAuthWrite_noKey ht, fun hen k => canAuthWrite_loaded ht hen⟩
  case set => exact fun who n high value s hok hown => congrArg Host.Outcome.next (regDo_taken hok (canSet_all hown))
  case setRefused =>
    exact fun who n high value s t hok hown => congrArg Host.Outcome.next (regDo_conflict hok (canSet_refused hown))
  case clr => exact fun who n high value s hok hown => congrArg Host.Outcome.next (regDo_taken hok (canClr_all hown))
  case clrRefused =>
    exact fun who n high value s t hok hown => congrArg Host.Outcome.next (regDo_conflict hok (canClr_refused hown))
  case fifo => exact fun who n wide value s hok hown => congrArg Host.Outcome.next (regDo_taken hok (canFifo_free hown))
  case fifoRefused =>
    exact fun who n wide value s hok hown => congrArg Host.Outcome.next (regDo_conflict hok (canFifo_owned hown))
  case port => exact fun s n b p hp => ⟨canPort_partial hp, canPort_record hp⟩
  case unfRel =>
    exact fun who n s hok hsome => congrArg Host.Outcome.next ((regDo_ok hok).trans (canUnfRel_oldest hsome))
  case unfEmpty =>
    exact fun who n s hok hzero => congrArg Host.Outcome.next ((regDo_ok hok).trans (canUnfRel_empty hzero))
  case freshPending =>
    exact fun who n slot value s l hok hlow => congrArg Host.Outcome.next ((regDo_ok hok).trans (canFreshH_pending hlow))
  case fresh =>
    exact fun who n slot value s hok hlow => congrArg Host.Outcome.next ((regDo_ok hok).trans (canFreshH_alone hlow))
  case integrated => exact fun n s hst => congrArg Host.Outcome.next (if_pos hst)
  case received => exact fun n f s hears hfd => exec_canFrameReceived_heard hears hfd
  case lost => exact fun s n => ⟨canLost_none, fun t => canLost_attempt⟩
  case notHeard => exact fun n f s => exec_canFrameReceived_deaf
  case unmatched => exact fun s n f kept hm hk => canAccept_unmatched hm hk
  case filed => exact fun s n f j hm hplain hheld => canAccept_plain hm hplain hheld
  case unproved => exact fun s n f j hm hauth hbad => canAccept_unproved hm hauth hbad
  case proved => exact fun s n f j k c hm hauth hgood hheld => canAccept_proved hm hauth hgood hheld
  case file =>
    rintro s n j f auth rfv _ _ rfl rfl
    rfl
  case released => exact fun n obj s => exec_canHoldRelease_kept
  case releasedSpilt => exact fun n obj s t => exec_canHoldRelease_spilt
  case rxError =>
    exact fun n lec dataPhase eight pxe s t hears herr ht hmode hfree =>
      exec_canRxError_counted hears herr ht hmode hfree
  case rxException =>
    exact fun n lec dataPhase eight pxe s hears hpxe hhandled => exec_canRxError_exception hears hpxe hhandled
  case rxErrorNotHeard => exact fun n lec dataPhase eight pxe s => exec_canRxError_deaf
  case sent =>
    exact fun n sof tdcv s q t f u v w hq hact ht hdrives hf hu hv hw =>
      exec_canTxSuccess_sent hq hact ht hdrives hf hu hv hw
  case notSent => exact fun n sof tdcv s q hq hno => exec_canTxSuccess_none hq hno
  case busy => exact fun s n t => canArb_busy
  case txError =>
    exact fun n lec dataPhase keep tdcv s q t u v w hq hact ht hcancel hu hv hw =>
      exec_canTxError_repeats hq hact ht hcancel hu hv hw
  case recovered => exact fun n s hoff hhears hcounts => exec_canRecovered_counted hoff hhears hcounts
  case due => exact fun n s => rfl
  case starts => exact fun s n k t u hidle hu hwin ht => canArb_starts hidle hu hwin ht
  case lateHead => exact fun n obj s => exec_canTatLate_head
  case late => exact fun n obj s => exec_canTatLate_object
  case dominant => exact fun n s => rfl
  case request =>
    intro s n t u hres ht hnew hu hauth hlate hwake
    rw [State.canRequest, canRaise_first hres ht hnew hu hauth hlate hwake]

end Sys2Proof.Machine
end

