-- ==== Sys2Proof/Proofs/Tide.lean ====
section
/-! PROOF. The Tide manager: the commands of a channel, its sleep coordination frames, quorum and sleep commit, low power and wakes
(R226 to R239). -/
namespace Sys2Proof.Machine

/-! TIDE_n_CMD (R230): a write of one bit that reaches its block is the command of that bit. -/

section
variable {who : Who} {n : Fin 16} {s : State} (hok : s.regOk who (A.TIDE_N_CMD n) = true)
include hok

theorem exec_tideSleep_reached : exec (.tideSleep who n) s = .next (s.tideSleep n) :=
  congrArg Host.Outcome.next (regDo_ok hok)

theorem exec_tideStay_reached : exec (.tideStay who n) s = .next (s.tideStay n) :=
  congrArg Host.Outcome.next (regDo_ok hok)

theorem exec_tideCommit_reached : exec (.tideCommit who n) s = .next (s.tideAnswer n) :=
  congrArg Host.Outcome.next (regDo_ok hok)

theorem exec_tideVeto_reached : exec (.tideVeto who n) s = .next (s.tideVeto n) :=
  congrArg Host.Outcome.next (regDo_ok hok)

theorem exec_tideWake_reached : exec (.tideWake who n) s = .next (s.tideWakeCmd n) :=
  congrArg Host.Outcome.next (regDo_ok hok)

theorem exec_tideForceSleep_reached : exec (.tideForceSleep who n) s = .next (s.tideForce n) :=
  congrArg Host.Outcome.next (regDo_ok hok)

end

/-! What each command does in the states that R230 names, and in which it does nothing. -/

section
variable {s : State} {n : Nat}

/-- The first SCF goes out at SLEEP (log 116, DESIGN CHOICE). -/
theorem tideSleep_awake (hst : s.tideState n = 0) (hen : s.flag (F.TIDE_N_CFG_EN n) = true) :
    s.tideSleep n =
      ((((s.setF (F.TIDE_N_STAT_LREADY n) 1).setF (F.TIDE_N_STAT_COMMITTED n) 0).setTide n 1).scfSend n 1).tideEval n :=
  if_pos ⟨hst, hen⟩

theorem tideSleep_notAwake (hst : s.tideState n ≠ 0) : s.tideSleep n = s := if_neg fun h => hst h.1

theorem tideStay_ebb (hst : s.tideState n = 1) (hopen : s.flag (F.TIDE_N_STAT_COMMITTED n) = false) :
    s.tideStay n = ((s.setF (F.TIDE_N_STAT_LREADY n) 0).tideBack n).scfSend n 2 :=
  if_pos ⟨hst, by simp [hopen]⟩

theorem tideStay_notEbb (hst : s.tideState n ≠ 1) : s.tideStay n = s := if_neg fun h => hst h.1

theorem tideAnswer_pending (hst : s.tideState n = 1) (hpend : s.fbit F.TIDE_QPEND_QPEND n = true) :
    s.tideAnswer n = s.tideCommit n := if_pos ⟨hst, hpend⟩

theorem tideAnswer_notPending (hpend : s.fbit F.TIDE_QPEND_QPEND n = false) : s.tideAnswer n = s :=
  if_neg fun h => Bool.eq_false_iff.1 hpend h.2

theorem tideVeto_pending (hst : s.tideState n = 1) (hpend : s.fbit F.TIDE_QPEND_QPEND n = true) :
    s.tideVeto n = (s.tideBack n).scfSend n 2 := if_pos ⟨hst, hpend⟩

theorem tideWakeCmd_awake (hst : s.tideState n = 0) : s.tideWakeCmd n = s := if_pos hst

theorem tideWakeCmd_slack (hst : s.tideState n = 2) : s.tideWakeCmd n = s.tideWake n 6 none :=
  (if_neg (by omega)).trans (if_pos (.inl hst))

/-- Before the commit nothing is abandoned: the wake is recorded as local and FLOOD starts. -/
theorem tideWakeCmd_open (hst : s.tideState n = 1) (hopen : s.tideCommitted n = false) :
    s.tideWakeCmd n =
      ((((s.setQpend n false).setF (F.TIDE_N_STAT_QUORUM n) 0).tideRecord n 6 false false).modTide n
        (fun c => { c with loc := true, capt := none })).setTide n 3 :=
  (if_neg (by omega)).trans ((if_neg (by simp [hst, hopen])).trans (if_neg (by omega)))

/-- A forced sleep sends no SCF (log 116, DESIGN CHOICE). -/
theorem tideForce_awake (hst : s.tideState n = 0) :
    s.tideForce n = ((s.setF (F.TIDE_N_STAT_COMMITTED n) 1).setTide n 1).tideLow n := if_pos hst

theorem tideForce_notAwake (hst : s.tideState n ≠ 0) : s.tideForce n = s := if_neg hst

/-! The operations under the commands: a change of state (R230), an SCF (R227), the way to low power (R231). -/

theorem setTide_same {st : Nat} (h : s.f (F.TIDE_N_STAT_STATE n) = st) : s.setTide n st = s := if_pos h

theorem setTide_changed {st : Nat} (h : s.f (F.TIDE_N_STAT_STATE n) ≠ st) :
    s.setTide n st = (s.setF (F.TIDE_N_STAT_STATE n) st).raise (464 + n) := if_neg h

theorem scfSend_off {flags : Nat} (hen : s.flag (F.TIDE_N_CFG_EN n) = false) : s.scfSend n flags = s :=
  if_pos (by simp [hen])

theorem scfSend_on {flags : Nat} (hen : s.flag (F.TIDE_N_CFG_EN n) = true) :
    s.scfSend n flags =
      (s.canOffer n ⟨62, canWhole (s.f (F.TIDE_N_SCFID_ID n) + 2 ^ 29 * s.f (F.TIDE_N_CFG_SCF_IDE n)) 2 0
        (leBytes 1 (s.f (F.TIDE_N_CFG_NODE n)) ++ leBytes 1 flags), none⟩).canArb n :=
  if_neg (by simp [hen])

theorem tideLow_idle (hidle : (s.canCh n).active.isSome = false) : s.tideLow n = s.setF (F.CAN_STAT_TRX n) 3 :=
  if_neg (Bool.eq_false_iff.1 hidle)

theorem tideLow_busy (hbusy : (s.canCh n).active.isSome = true) :
    s.tideLow n = s.modTide n (fun c => { c with low := true }) := if_pos hbusy

theorem tideEval_off (hen : s.flag (F.TIDE_N_CFG_EN n) = false) : s.tideEval n = s := if_pos (by simp [hen])

end

/-! TIDE_n_CFG (R227, R239). -/

section
variable {s t : State} {n : Nat} {w : Word}

section
variable {g : RegDef} (hg : regAt (A.TIDE_N_CFG n) = some g)
  (ht : t = (s.plainWrite g (A.TIDE_N_CFG n) w).setFlag (F.TIDE_N_CFG_EN n) (s.flag (F.TIDE_N_CFG_EN n)))
include hg ht

theorem tideCfg_turnsOn (hbit : bit w.toNat 0 = true) (hwas : s.flag (F.TIDE_N_CFG_EN n) = false) :
    s.tideCfg n w = t.tideOn n := by
  subst ht
  simp only [State.tideCfg, hg, hbit, hwas, if_true, Bool.false_eq_true, if_false]

theorem tideCfg_staysOn (hbit : bit w.toNat 0 = true) (hwas : s.flag (F.TIDE_N_CFG_EN n) = true) :
    s.tideCfg n w = t.scfFilter n := by
  subst ht
  simp only [State.tideCfg, hg, hbit, hwas, if_true]

/-- EN written 0 ends a sleep that is being entered, whatever EN was (log 131, DEDUCED). -/
theorem tideCfg_turnsOff (hbit : bit w.toNat 0 = false) (hst : (t.setF (F.TIDE_N_CFG_EN n) 0).tideState n ≠ 1) :
    s.tideCfg n w = t.setF (F.TIDE_N_CFG_EN n) 0 := by
  subst ht
  simp only [State.tideCfg, hg, hbit, Bool.false_eq_true, if_false, beq_iff_eq, if_neg hst]

end

theorem tideOn_conflict (hown : s.owner (resId 8 (64 * n + 62)) ≠ 0 ∨ s.canReserved n 62 = true) :
    s.tideOn n = (s.setF (F.TIDE_N_CFG_EN n) 0).conflict (resId 8 (64 * n + 62)) 0 0 := if_pos hown

theorem tideOn_owned (htx : s.owner (resId 8 (64 * n + 62)) = 0) (hfree : s.canReserved n 62 = false)
    (hrx : s.owner (resId 9 (1024 * n + 1022)) = 0) : s.tideOn n = (s.scfFilter n).setF (F.TIDE_N_CFG_EN n) 1 :=
  (if_neg (by simp [htx, hfree])).trans (if_neg (not_not.2 hrx))

end

/-! Wakes (R230, R232, R235, R236). -/

section
variable {s : State} {n src : Nat} {capt : Option CanFrame}

theorem tideWake_slack (hst : s.tideState n = 2) :
    s.tideWake n src capt =
      (((s.tideRecord n src false capt.isSome).setF (F.CAN_STAT_TRX n) 4).modTide n
        (fun c => { c with loc := decide (6 ≤ src), biasOff := false, low := false, capt := capt })).setTide n 3 :=
  if_pos hst

/-- A device that does not park excludes no channel's receiver (R434). -/
theorem busWake_notParked (hrun : s.pwr.park = .run) :
    s.busWake n src capt =
      if s.islandUp 6 then (if s.tideState n = 2 then s.tideWake n src capt else s).parkWake 4 n
      else (s.modTide n (fun c => { c with wake := some (c.wake.getD src), capt := capt })).parkWake 4 n :=
  if_neg (by simp [hrun])

theorem busWake_slack (hrun : s.pwr.park = .run) (hup : s.islandUp 6 = true) (hst : s.tideState n = 2) :
    s.busWake n src capt = (s.tideWake n src capt).parkWake 4 n := by
  rw [busWake_notParked hrun, if_pos hup, if_pos hst]

/-- While the CAN island is held in reset the wake is kept (log 117, DESIGN CHOICE). -/
theorem busWake_islandHeld (hrun : s.pwr.park = .run) (hdown : s.islandUp 6 = false) :
    s.busWake n src capt =
      (s.modTide n (fun c => { c with wake := some (c.wake.getD src), capt := capt })).parkWake 4 n :=
  (busWake_notParked hrun).trans (if_neg (Bool.eq_false_iff.1 hdown))

/-- Nothing was captured and the wake was not local: no frame is filed and no KEEP is sent (R233). -/
theorem tideAwake_plain {t : State} (hcapt : (s.tideCh n).capt = none) (hloc : (s.tideCh n).loc = false)
    (ht : t = ((s.setF (F.TIDE_N_STAT_IGNORE n) 0).setF (F.TIDE_N_STAT_COMMITTED n) 0).setTide n 0) :
    s.tideAwake n = (t.modTide n (fun c => { c with capt := none, loc := false })).canArb n := by
  subst ht
  simp only [State.tideAwake, hcapt, hloc, Bool.false_eq_true, if_false]

end

/-! Low power is reached (R231, R236). -/

section
variable {n : Fin 16} {s : State} (hcom : s.tideCommitted n = true) (htrx : s.f (F.CAN_STAT_TRX n) = 3)
include hcom htrx

theorem exec_toLowComplete_standby (hmode : s.flag (F.TIDE_N_CFG_LPMODE n) = false) :
    exec (.toLowComplete n) s =
      .next ((((s.canIdle n).setF (F.TIDE_N_STAT_IGNORE n) 1).setF (F.CAN_STAT_TRX n) 0).setTide n 2) := by
  refine congrArg Host.Outcome.next ((if_pos ⟨hcom, htrx⟩).trans ?_)
  simp only [hmode, Bool.false_eq_true, if_false]

theorem exec_toLowComplete_selective (hmode : s.flag (F.TIDE_N_CFG_LPMODE n) = true) :
    exec (.toLowComplete n) s =
      .next (((((s.canIdle n).setF (F.TIDE_N_STAT_IGNORE n) 1).setF (F.CAN_STAT_TRX n) 2).setF
        (F.TIDE_N_WUF_CTL_FEC n) 0).setTide n 2) := by
  refine congrArg Host.Outcome.next ((if_pos ⟨hcom, htrx⟩).trans ?_)
  simp only [hmode, if_true]

end

end Sys2Proof.Machine
end

