-- ==== Sys2Proof/Proofs/Sluice.lean ====
section
/-! PROOF. Sluice: its entries and ROUTE_SET, its objects, its queue and the look-up (R240 to R249), and the rows of chapter 08. -/
namespace Sys2Proof.Machine

/-! Entries (R241). -/

section
variable {s : State} {e : List Byte}

section
variable (he : s.regBytes (A.SLUICE_RT_D 0) 6 = e)
include he

theorem rtWrite_invalid {o : Nat} (hbad : rtBad e = some o) : s.rtWrite = s.setF F.SLUICE_RT_CMD_ERR 1 := by
  simp only [State.rtWrite, he, hbad, Option.isSome_some, if_true]

variable (hgood : rtBad e = none)
include hgood

theorem rtWrite_conflict {id : Nat} (hown : s.rtConflict e = some id) :
    s.rtWrite = (s.setF F.SLUICE_RT_CMD_ERR 1).conflict id 0 1 := by
  simp only [State.rtWrite, he, hgood, hown, Option.isSome_none, Bool.false_eq_true, if_false]

theorem rtWrite_installs (hown : s.rtConflict e = none) :
    s.rtWrite = (s.rtPut (s.f F.SLUICE_RT_IDX_IDX) e).setF F.SLUICE_RT_CMD_ERR 0 := by
  simp only [State.rtWrite, he, hgood, hown, Option.isSome_none, Bool.false_eq_true, if_false]

end

section
variable {c : Ctx} {i : Nat} (hl : c.pl.length = 26) (hi : leAt c.pl 0 2 = i) (hlt : i < 4096)
include hl hi hlt

theorem routeSet_installs (hgood : rtBad (c.pl.drop 2) = none) (hown : s.rtConflict (c.pl.drop 2) = none) :
    bodyRouteSet c s = (s.rtPut i (c.pl.drop 2)).ok c.key [] := by
  subst hi
  simp only [bodyRouteSet, fixedLen, if_pos hl, if_neg (Nat.not_le.2 hlt), hgood, hown]

/-- A refused entry sets RT_CMD.ERR, and the answer names its first bad word (log 118, DESIGN CHOICE). -/
theorem routeSet_invalid {o : Nat} (hbad : rtBad (c.pl.drop 2) = some o) :
    bodyRouteSet c s = (s.setF F.SLUICE_RT_CMD_ERR 1).badParam c.key (2 + o) := by
  subst hi
  simp only [bodyRouteSet, fixedLen, if_pos hl, if_neg (Nat.not_le.2 hlt), hbad]

end

end

/-! Ownership bits (R249, R480). -/

section
variable {s : State} {x : Fld} {k id : Nat} (hclear : s.fbit x k = false)
include hclear

theorem slOwn_claims (hfree : s.claimable 7 id = true) : s.slOwn x k id false true = (s.setOwner id 7).setFbit x k true := by
  simp only [State.slOwn, hclear, hfree, Bool.true_beq, Bool.false_eq_true, if_false, if_true, Bool.not_true, Bool.or_self]

/-- An object may be reserved for the FIFO (R215), or the resource owned elsewhere. -/
theorem slOwn_conflict {blocked : Bool} (hno : blocked = true ∨ s.claimable 7 id = false) :
    s.slOwn x k id blocked true = s.conflict id 7 0 := by
  have hrefused : (blocked || !s.claimable 7 id) = true := by simpa using hno
  simp only [State.slOwn, hclear, hrefused, Bool.true_beq, Bool.false_eq_true, if_false, if_true]

theorem slOwn_keeps {blocked : Bool} : s.slOwn x k id blocked false = s := if_pos (by simp [hclear])

end

/-! The queue and the look-up (R240), which take part with EN = 1 only (log 118, DESIGN CHOICE). -/

section
variable {s : State}

theorem exec_sluiceLookup_oldest {x : SlFrame} {rest : List SlFrame} (hq : s.can.inq = x :: rest)
    (hen : s.flag F.SLUICE_CTRL_EN = true) :
    exec (.sluiceLookup) s =
      .next (State.slSearch x s.can.rt 0 ({ s with can := { s.can with inq := rest } }).inqSync) := by
  simp only [exec, execSluiceLookup, hq, hen, Bool.not_true, Bool.false_eq_true, if_false]

theorem exec_sluiceLookup_empty (hq : s.can.inq = []) : exec (.sluiceLookup) s = .next s := by
  simp only [exec, execSluiceLookup, hq]

section
variable {src origin : Nat} {f : CanFrame} (hen : s.flag F.SLUICE_CTRL_EN = true)
include hen

theorem sluiceIn_full (hfull : 64 ≤ s.can.inq.length) :
    s.sluiceIn src origin f = (s.incF (F.SLUICE_DROP_OTHER src) 1).raise 498 :=
  (if_neg (by simp [hen])).trans (if_pos hfull)

theorem sluiceIn_queues (hroom : s.can.inq.length < 64) :
    s.sluiceIn src origin f =
      ({ s with can := { s.can with inq := s.can.inq ++ [SlFrame.mk src origin f] } }).inqSync :=
  (if_neg (by simp [hen])).trans (if_neg (Nat.not_le.2 hroom))

end

section
variable {x : SlFrame} {i k : Nat} {e : List Byte} {l : List (Nat × List Byte)}

theorem slSearch_misses (hm : slMatch e x = false) : s.slSearch x ((i, e) :: l) k = s.slSearch x l k :=
  if_neg (Bool.eq_false_iff.1 hm)

variable (hm : slMatch e x = true)
include hm

theorem slSearch_ninth (hk : 8 ≤ k) : s.slSearch x ((i, e) :: l) k = s.raise 497 := (if_pos hm).trans (if_pos hk)

theorem slSearch_applies (hk : k < 8) :
    s.slSearch x ((i, e) :: l) k =
      if bit (rtWord e 0) 31 then (s.slApply i e x).slSearch x l (k + 1) else s.slApply i e x :=
  (if_pos hm).trans (if_neg (Nat.not_le.2 hk))

end

end

/-! A control frame of Sluice's (R244). -/

section
variable {l : Fin 3} {dst origin : BitVec 12} {hops bseq : BitVec 16} {payload : List Byte} {s : State}

theorem exec_sluiceBrlFrameRx_ignored (h : s.linkSt l ≠ 3 ∨ leAt payload 0 1 ≠ 0x20 ∨ payload.length < 16) :
    exec (.sluiceBrlFrameRx ⟨l, dst, origin, hops, bseq⟩ payload) s = .next s := congrArg Host.Outcome.next (if_pos h)

variable (hup : s.linkSt l = 3) (hkind : leAt payload 0 1 = 0x20) (hlen : 16 ≤ payload.length)
include hup hkind hlen

/-- A broadcast goes on, and enters the queue when it is new (R178). -/
theorem exec_sluiceBrlFrameRx_broadcast {t : State} {fresh : Bool} (hdst : dst = 0xFFF#12)
    (hcast : s.brlBroadcast l 7 origin.toNat hops.toNat bseq.toNat payload = (t, fresh)) :
    exec (.sluiceBrlFrameRx ⟨l, dst, origin, hops, bseq⟩ payload) s =
      .next (if fresh then t.sluiceIn 16 origin.toNat (slFrame payload) else t) := by
  subst hdst
  refine congrArg Host.Outcome.next ((if_neg (by simp [hup, hkind, hlen])).trans ((if_pos rfl).trans ?_))
  simp only [hcast]

/-- A frame for one device is taken by that device alone, unless its address is in conflict (R179). -/
theorem exec_sluiceBrlFrameRx_single (hdst : dst ≠ 0xFFF#12) :
    exec (.sluiceBrlFrameRx ⟨l, dst, origin, hops, bseq⟩ payload) s =
      .next (if dst.toNat = s.ownAddr ∧ dst ≠ 0#12 ∧ s.brlTakes = true then s.sluiceIn 16 origin.toNat (slFrame payload)
        else s) :=
  have hone : dst.toNat ≠ 0xFFF := fun h => hdst (BitVec.eq_of_toNat_eq h)
  congrArg Host.Outcome.next ((if_neg (by simp [hup, hkind, hlen])).trans (if_neg hone))

end

/-- Settles O35, row by row: the six commands, TIDE_n_CFG, the quorum, the way to SLACK and the wakes of the Tide manager, then
Sluice's entries, objects, queue and look-up. Where the rules leave a point open, the clauses rest on the model's choices in logs
116, 117, 118, 131 and 160. -/
theorem tideAndSluiceCommandsActAsTheTablesSay : Obligations.TideAndSluiceCommandsActAsTheTablesSay := by
  unfold Obligations.TideAndSluiceCommandsActAsTheTablesSay
  refine ⟨?sleep, ?noSleep, ?stay, ?noStay, ?commit, ?noCommit, ?veto, ?awake, ?wakeSlack, ?wakeOpen, ?force, ?noForce,
    ?wake, ?setTide, ?scfSend, ?back, ?cfgRow, ?cfg, ?turnsOn, ?filter, ?onConflict, ?tick, ?evalOff, ?period, ?noPeriod,
    ?failsafe, ?drain, ?low, ?standby, ?selective, ?lateWake, ?noLateWake, ?pattern, ?dominant, ?busWake, ?busWakeHeld,
    ?wakeUpFrame, ?fecOverflow, ?decoded, ?decodedFd, ?silence, ?floodDone, ?floodFail, ?floodEnd, ?rtWrite, ?rtInvalid,
    ?rtConflict, ?rtRead, ?ownRow, ?own, ?routeSet, ?routeInvalid, ?lookup, ?lookupEmpty, ?search, ?frame, ?newBroadcast,
    ?oldBroadcast, ?otherDevice, ?frameIgnored, ?queue⟩
  case sleep => exact fun who n s hok hst hen => (exec_tideSleep_reached hok).trans (congrArg _ (tideSleep_awake hst hen))
  case noSleep => exact fun who n s hok hst => (exec_tideSleep_reached hok).trans (congrArg _ (tideSleep_notAwake hst))
  case stay => exact fun who n s hok hst hopen => (exec_tideStay_reached hok).trans (congrArg _ (tideStay_ebb hst hopen))
  case noStay => exact fun who n s hok hst => (exec_tideStay_reached hok).trans (congrArg _ (tideStay_notEbb hst))
  case commit =>
    exact fun who n s hok hst hpend => (exec_tideCommit_reached hok).trans (congrArg _ (tideAnswer_pending hst hpend))
  case noCommit =>
    exact fun who n s hok hpend => (exec_tideCommit_reached hok).trans (congrArg _ (tideAnswer_notPending hpend))
  case veto => exact fun who n s hok hst hpend => (exec_tideVeto_reached hok).trans (congrArg _ (tideVeto_pending hst hpend))
  case awake => exact fun who n s hok hst => (exec_tideWake_reached hok).trans (congrArg _ (tideWakeCmd_awake hst))
  case wakeSlack => exact fun who n s hok hst => (exec_tideWake_reached hok).trans (congrArg _ (tideWakeCmd_slack hst))
  case wakeOpen =>
    exact fun who n s hok hst hopen => (exec_tideWake_reached hok).trans (congrArg _ (tideWakeCmd_open hst hopen))
  case force => exact fun who n s hok hst => (exec_tideForceSleep_reached hok).trans (congrArg _ (tideForce_awake hst))
  case noForce => exact fun who n s hok hst => (exec_tideForceSleep_reached hok).trans (congrArg _ (tideForce_notAwake hst))
  case wake => exact fun s n src capt hst => tideWake_slack hst
  case setTide => exact fun s n st => ⟨setTide_same, setTide_changed⟩
  case scfSend => exact fun s n flags => ⟨scfSend_off, scfSend_on⟩
  case back => exact fun s n => rfl
  case cfgRow => exact fun who n value s hok => congrArg Host.Outcome.next (regDo_ok hok)
  case cfg => exact fun s n w g t hg ht => ⟨tideCfg_turnsOn hg ht, tideCfg_staysOn hg ht, tideCfg_turnsOff hg ht⟩
  case turnsOn => exact fun s n => tideOn_owned
  case filter =>
    rintro s n _ _ rfl rfl
    rfl
  case onConflict => exact fun s n => tideOn_conflict
  case tick => exact fun s => rfl
  case evalOff => exact fun s n => tideEval_off
  case period => exact fun n s hst hopen => congrArg Host.Outcome.next (if_pos ⟨hst, by simp [hopen]⟩)
  case noPeriod => exact fun n s hst => congrArg Host.Outcome.next (if_neg fun h => hst h.1)
  case failsafe => exact fun n s hst hpend hfsafe => congrArg Host.Outcome.next (if_pos ⟨hst, hpend, hfsafe⟩)
  case drain => exact fun n s hcom => congrArg Host.Outcome.next (if_pos hcom)
  case low => exact fun s n => ⟨tideLow_idle, tideLow_busy⟩
  case standby => exact fun n s => exec_toLowComplete_standby
  case selective => exact fun n s => exec_toLowComplete_selective
  case lateWake => exact fun n s hcom => congrArg Host.Outcome.next (if_pos hcom)
  case noLateWake => exact fun n s hopen => congrArg Host.Outcome.next (if_neg (Bool.eq_false_iff.1 hopen))
  case pattern => exact fun n s htrx hmode => congrArg Host.Outcome.next (if_pos ⟨htrx, by simp [hmode]⟩)
  case dominant => exact fun n s htrx hmode => congrArg Host.Outcome.next (if_pos ⟨htrx, hmode⟩)
  case busWake => exact fun s n src capt => busWake_slack
  case busWakeHeld => exact fun s n src capt => busWake_islandHeld
  case wakeUpFrame => exact fun n f s htrx hm => congrArg Host.Outcome.next (if_pos ⟨htrx, hm⟩)
  case fecOverflow => exact fun n s htrx hfec hst => congrArg Host.Outcome.next (if_pos ⟨htrx, hfec, hst⟩)
  case decoded => exact fun n fd ok s htrx hfd => congrArg Host.Outcome.next (if_neg (by simp [htrx, hfd]))
  case decodedFd => exact fun n fd ok s hfd => congrArg Host.Outcome.next (if_pos (.inr hfd))
  case silence => exact fun n s htrx => congrArg Host.Outcome.next (if_pos htrx)
  case floodDone => exact fun n s hst => congrArg Host.Outcome.next (if_pos hst)
  case floodFail => exact fun n s hst => congrArg Host.Outcome.next (if_pos hst)
  case floodEnd => exact fun s n t => tideAwake_plain
  case rtWrite =>
    exact fun who s hok hgood hown => congrArg Host.Outcome.next ((regDo_ok hok).trans (rtWrite_installs rfl hgood hown))
  case rtInvalid =>
    exact fun who s o hok hbad => congrArg Host.Outcome.next ((regDo_ok hok).trans (rtWrite_invalid rfl hbad))
  case rtConflict =>
    exact fun who s id hok hgood hown =>
      congrArg Host.Outcome.next ((regDo_ok hok).trans (rtWrite_conflict rfl hgood hown))
  case rtRead => exact fun who s hok => congrArg Host.Outcome.next (regDo_ok hok)
  case ownRow => exact fun who reg value s hok => congrArg Host.Outcome.next (regDo_ok hok)
  case own =>
    exact fun s x k id hclear => ⟨slOwn_claims hclear, fun howned => slOwn_conflict hclear (.inr howned),
      slOwn_conflict hclear (.inl rfl), slOwn_keeps hclear⟩
  case routeSet =>
    exact fun r s x s1 i h hl hi hlt hgood hown => exec_of_body rfl h (routeSet_installs hl hi hlt hgood hown)
  case routeInvalid =>
    exact fun r s x s1 i o h hl hi hlt hbad => exec_of_body rfl h (routeSet_invalid hl hi hlt hbad)
  case lookup => exact fun s x rest => exec_sluiceLookup_oldest
  case lookupEmpty => exact fun s => exec_sluiceLookup_empty
  case search =>
    exact fun x i e l k s => ⟨rfl, slSearch_misses, slSearch_ninth,
      fun hm hk hcont => (slSearch_applies hm hk).trans (if_pos hcont),
      fun hm hk hlast => (slSearch_applies hm hk).trans (if_neg (Bool.eq_false_iff.1 hlast))⟩
  case frame =>
    exact fun l dst origin hops bseq payload s hup hkind hlen hdst hown hset htakes =>
      (exec_sluiceBrlFrameRx_single hup hkind hlen hdst).trans (congrArg _ (if_pos ⟨hown, hset, htakes⟩))
  case newBroadcast =>
    exact fun l dst origin hops bseq payload s t hup hkind hlen hdst hcast =>
      exec_sluiceBrlFrameRx_broadcast hup hkind hlen hdst hcast
  case oldBroadcast =>
    exact fun l dst origin hops bseq payload s t hup hkind hlen hdst hcast =>
      exec_sluiceBrlFrameRx_broadcast hup hkind hlen hdst hcast
  case otherDevice =>
    exact fun l dst origin hops bseq payload s hup hkind hlen hdst hother =>
      (exec_sluiceBrlFrameRx_single hup hkind hlen hdst).trans (congrArg _ (if_neg fun h => hother h.1))
  case frameIgnored => exact fun l dst origin hops bseq payload s => exec_sluiceBrlFrameRx_ignored
  case queue => exact fun s src origin f hen => ⟨sluiceIn_full hen, sluiceIn_queues hen⟩

end Sys2Proof.Machine
end

