-- ==== Sys2Proof/Proofs/Clock.lean ====
section
/-! PROOF. DTIME and the idle step (R256). -/
namespace Sys2Proof.Machine

theorem umod_natCast (w x : Nat) : umod w (x : Int) = x % 2 ^ w := by
  rw [umod, ← Int.natCast_mod, Int.toNat_natCast]

section
variable {s : State}

/-- With RATE 0 the fraction stays, and DTIME advances by the time that passes. -/
theorem timeAdvance_uncorrected {ns : Nat} (hrate : s.f F.TIME_RATE_RATE = 0) (hfrac : s.time.frac < 4294967296) :
    s.timeAdvance ns = { s with now := s.now + ns, dtime := (s.dtime + ns) % 2 ^ 64 } := by
  have hclock : ((s.dtime * 4294967296 + s.time.frac : Nat) : Int) +
      ((ns : Int) * 4294967296 + (ns : Int) * sval 32 (s.f F.TIME_RATE_RATE) * 4194304 / 1000000000) =
      (((s.dtime + ns) * 4294967296 + s.time.frac : Nat) : Int) := by
    rw [hrate, show sval 32 0 = 0 from rfl]
    omega
  have hwhole : ((s.dtime + ns) * 4294967296 + s.time.frac) % 2 ^ 96 / 2 ^ 32 = (s.dtime + ns) % 2 ^ 64 := by omega
  have hpart : ((s.dtime + ns) * 4294967296 + s.time.frac) % 2 ^ 96 % 2 ^ 32 = s.time.frac := by omega
  simp only [State.timeAdvance, hclock, umod_natCast, hwhole, hpart]

/-- What an empty queue does (log 3, DESIGN CHOICE). -/
theorem step_idle (hidle : s.pending = []) : step s = .next (s.timeAdvance 1000) := by
  simp only [step, hidle]

end

/-- Settles O2: the tick is `timeAdvance` of 1,000 ns, which touches the clock alone (log 3, DESIGN CHOICE). -/
theorem anIdleStepAdvancesTheClockAlone : Obligations.AnIdleStepAdvancesTheClockAlone := by
  unfold Obligations.AnIdleStepAdvancesTheClockAlone
  refine ⟨fun s hidle => ⟨s.timeAdvance 1000, step_idle hidle, rfl, rfl⟩, fun s t hidle hrate hfrac hstep => ?_⟩
  rw [step_idle hidle, timeAdvance_uncorrected hrate hfrac] at hstep
  cases hstep
  exact ⟨rfl, rfl⟩

end Sys2Proof.Machine
end

