-- ==== Sys2Proof/Proofs/Ethernet.lean ====
section
/-! PROOF. The Ethernet MACs: ETH_n_CFG and the ball set (R474), the link (R250, R261), the frames (R251 to R253), ARP and ICMP
echo (R251), MDIO (R253, R262). -/
namespace Sys2Proof.Machine

/-! A claim of one resource is a claim of a group of one (R479). -/

section
variable {s : State} {o id : Nat}

theorem claimAll_one_free (hfree : s.claimable o id = true) : s.claimAll o [id] = (s.setOwner id o, none) := by
  simp [State.claimAll, hfree]

theorem claimAll_one_owned (hown : s.claimable o id = false) : s.claimAll o [id] = (s.conflict id o 0, some id) := by
  simp [State.claimAll, hown]

end

/-! ETH_n_CFG (R250, R474). -/

section
variable {s t : State} {n : Nat} {w : Word} {g : RegDef} (hg : regAt (A.ETH_CFG n) = some g)
  (ht : t = (s.plainWrite g (A.ETH_CFG n) w).setF (F.ETH_CFG_MODE n) (s.f (F.ETH_CFG_MODE n)))
include hg ht

theorem ethCfg_sameMode (hsame : bits w.toNat 1 0 = s.f (F.ETH_CFG_MODE n)) (hdef : bits w.toNat 1 0 ≠ 3) :
    s.ethCfg n w = t := by
  have hnext : ¬(s.f (F.ETH_CFG_MODE n) ≠ 0 ∧ bits w.toNat 1 0 ≠ 0 ∧ bits w.toNat 1 0 ≠ s.f (F.ETH_CFG_MODE n)) :=
    fun h => h.2.2 hsame
  subst ht
  simp only [State.ethCfg, hg, if_neg hdef, if_neg hnext, if_pos hsame]

/-- MODE 0 starts the release; how many queued frames the fall of the link discards is a free value (log 181, DESIGN CHOICE). -/
theorem ethCfg_off (hwas : s.f (F.ETH_CFG_MODE n) ≠ 0) (hoff : bits w.toNat 1 0 = 0) :
    s.ethCfg n w = (((t.setF (F.ETH_CFG_MODE n) 0).modEth n (fun x => { x with rel := true })).ethLink n false
      (t.freeNat % 65536)).useFree := by
  have hdef : bits w.toNat 1 0 ≠ 3 := by omega
  have hleaves : bits w.toNat 1 0 ≠ s.f (F.ETH_CFG_MODE n) := by omega
  have hnext : ¬(s.f (F.ETH_CFG_MODE n) ≠ 0 ∧ bits w.toNat 1 0 ≠ 0 ∧ bits w.toNat 1 0 ≠ s.f (F.ETH_CFG_MODE n)) :=
    fun h => h.2.1 hoff
  subst ht
  simp only [State.ethCfg, hg, if_neg hdef, if_neg hnext, if_neg hleaves, if_pos hoff]

/-- MODE leaves 0 when the ball set is claimed; a refused claim leaves it 0. -/
theorem ethCfg_on {u : State} {refused : Option Nat} (hwas : s.f (F.ETH_CFG_MODE n) = 0)
    (hmode : bits w.toNat 1 0 = 1 ∨ bits w.toNat 1 0 = 2) (hrel : (t.ethCh n).rel = false)
    (hclaim : t.claimAll 8 [resId 11 n] = (u, refused)) :
    s.ethCfg n w = if refused.isSome then u
      else (u.setF (F.ETH_CFG_MODE n) (bits w.toNat 1 0)).modEth n (fun x => { x with modeAt := s.now }) := by
  have hdef : bits w.toNat 1 0 ≠ 3 := by omega
  have hon : bits w.toNat 1 0 ≠ 0 := by omega
  have hleaves : bits w.toNat 1 0 ≠ s.f (F.ETH_CFG_MODE n) := by omega
  have hnext : ¬(s.f (F.ETH_CFG_MODE n) ≠ 0 ∧ bits w.toNat 1 0 ≠ 0 ∧ bits w.toNat 1 0 ≠ s.f (F.ETH_CFG_MODE n)) :=
    fun h => h.1 hwas
  subst ht
  simp only [State.ethCfg, hg, if_neg hdef, if_neg hnext, if_neg hleaves, if_neg hon, hrel, hclaim, Bool.false_eq_true,
    if_false]
  cases refused <;> rfl

end

/-! The link (R250, R253, R257, R261). -/

section
variable {s : State} {n queued : Nat}

theorem ethLink_same {up : Bool} (hsame : s.flag (F.ETH_STAT_LINK n) = up) : s.ethLink n up queued = s := if_pos hsame

theorem ethLink_falls (hwas : s.flag (F.ETH_STAT_LINK n) = true) :
    s.ethLink n false queued =
      ((s.setFlag (F.ETH_STAT_LINK n) false).incF (F.ETH_TXCNT_DROP n) queued).raise (384 + 2 * n) :=
  if_neg (by simp [hwas])

theorem ethLink_rises (hwas : s.flag (F.ETH_STAT_LINK n) = false) :
    s.ethLink n true queued = ((s.setFlag (F.ETH_STAT_LINK n) true).when
      (n == 0 && (s.setFlag (F.ETH_STAT_LINK n) true).time.ptp.mac != 0) (fun u => u.ptpOnto 0)).raise (384 + 2 * n) :=
  if_neg (by simp [hwas])

end

section
variable {n : Fin 2} {speed : Fin 3} {queued : BitVec 16} {s : State}

/-- In MODE 1 the link's speed is what the PHY reports. -/
theorem exec_ethLinkChange_up (hmode : s.f (F.ETH_CFG_MODE n) = 1) :
    exec (.ethLinkChange n true speed false queued) s =
      .next (((s.setF (F.ETH_STAT_HDX n) 0).setF (F.ETH_STAT_LSPEED n) speed.val).ethLink n true queued.toNat) := by
  refine congrArg Host.Outcome.next ((if_neg (by omega)).trans ((if_neg (by simp)).trans ?_))
  simp only [if_pos (Or.inl hmode), State.when, if_true]

variable (hon : s.f (F.ETH_CFG_MODE n) ≠ 0)
include hon

/-- A link at half duplex is no link (R250). -/
theorem exec_ethLinkChange_half :
    exec (.ethLinkChange n true speed true queued) s =
      .next ((s.setF (F.ETH_STAT_HDX n) 1).ethLink n false queued.toNat) :=
  congrArg Host.Outcome.next ((if_neg hon).trans (if_pos rfl))

theorem exec_ethLinkChange_down {half : Bool} :
    exec (.ethLinkChange n false speed half queued) s =
      .next ((s.setF (F.ETH_STAT_HDX n) 0).ethLink n false queued.toNat) :=
  congrArg Host.Outcome.next ((if_neg hon).trans (if_neg (by simp)))

end

/-! Frames received (R251 to R253, R255). -/

section
variable {n : Fin 2} {ago : BitVec 32} {fcsOk extra known : Bool} {len : BitVec 14} {da : BitVec 48}
  {vid : Option (BitVec 12)} {s u : State} (hup : s.ethUp n = true)
  (hu : u = s.modEth n (fun x => { x with stamp := s.rxTs n ago.toNat }))
include hup hu

theorem exec_ethFrameRx_error (hbad : fcsOk = false ∨ len.toNat < 64 ∨ u.f (F.ETH_CFG_MAXLEN n) < len.toNat) :
    exec (.ethFrameRx ⟨n, ago⟩ fcsOk len da vid extra known) s =
      .next ((u.incF (F.ETH_RXCNT_ERR n) 1).raise (385 + 2 * n.val)) := by
  subst hu
  exact congrArg Host.Outcome.next ((if_neg (by simp [hup])).trans (if_pos (by simpa using hbad)))

theorem exec_ethFrameRx_sound (hfcs : fcsOk = true) (hmin : 64 ≤ len.toNat) (hmax : len.toNat ≤ u.f (F.ETH_CFG_MAXLEN n)) :
    exec (.ethFrameRx ⟨n, ago⟩ fcsOk len da vid extra known) s =
      .next (if u.ethMine n da.toNat && u.vlanOk n vid extra && known then u.ethTake n
        else u.incF (F.ETH_RXCNT_OTHER n) 1) := by
  subst hu
  exact congrArg Host.Outcome.next ((if_neg (by simp [hup])).trans (if_neg (by simp [hfcs, hmin, hmax])))

end

/-! MDIO (R253, R262). -/

section
variable {s : State}

/-- GO is written 1 by the row itself. -/
theorem bit_go (value : Word) : bit (value ||| 0x10000000#32).toNat 28 = true := by
  rw [bit_toNat, BitVec.getLsbD_or, show (0x10000000#32).getLsbD 28 = true from rfl, Bool.or_true]

theorem mdioWrite_starts {w : Word} {g : RegDef} {t : State} (hg : regAt A.ETH_MDIO = some g)
    (ht : t = s.plainWrite g A.ETH_MDIO w) (hgo : bit w.toNat 28 = true) (hdone : t.flag F.ETH_MDIO_DONE = true) :
    s.mdioWrite w = (t.setF F.ETH_MDIO_DONE 0).emit .mdio (leBytes 4 (t.reg A.ETH_MDIO).toNat) := by
  subst ht
  simp only [State.mdioWrite, hg, hgo, hdone, Bool.and_self, if_true]

section
variable {data : BitVec 16} (hbusy : s.flag F.ETH_MDIO_DONE = false)
include hbusy

theorem exec_mdioDone_read (hop : s.f F.ETH_MDIO_OP = 0 ∨ s.f F.ETH_MDIO_OP = 3) :
    exec (.mdioDone data) s = .next ((s.setF F.ETH_MDIO_DATA data.toNat).setF F.ETH_MDIO_DONE 1) := by
  refine congrArg Host.Outcome.next ((if_neg (by simp [hbusy])).trans (congrArg (State.setF · _ 1) (if_pos ?_)))
  simpa using hop

theorem exec_mdioDone_other (hop : s.f F.ETH_MDIO_OP = 1 ∨ s.f F.ETH_MDIO_OP = 2) :
    exec (.mdioDone data) s = .next (s.setF F.ETH_MDIO_DONE 1) := by
  refine congrArg Host.Outcome.next ((if_neg (by simp [hbusy])).trans (congrArg (State.setF · _ 1) (if_neg ?_)))
  rcases hop with h | h <;> simp [h]

end

end

end Sys2Proof.Machine
end

