-- ==== Sys2Proof/Proofs/Ptp.lean ====
section
/-! PROOF. The PTP slave: the MAC it runs on, the messages it takes and sends, the path delay (R254, R257). -/
namespace Sys2Proof.Machine

section
variable {s : State} {n : Nat}

theorem ptpOn_iff : s.ptpOn n = true ↔ s.ethUp n = true ∧ s.ptpMac = some n := by
  simp only [State.ptpOn, Bool.and_eq_true, beq_iff_eq]

theorem ptpTakes_iff {udp : Bool} {domain : Nat} :
    s.ptpTakes n udp domain = true ↔ s.ptpOn n = true ∧ udp = s.flag F.TIME_PTP_UDP ∧ domain = s.f F.TIME_PTP_DOMAIN := by
  simp only [State.ptpTakes, Bool.and_eq_true, beq_iff_eq, and_assoc]

theorem ptpMac_first (hsrc : s.f F.TIME_CTRL_SRC = 1) : s.ptpMac = some 0 := by simp only [State.ptpMac, hsrc]

theorem ptpMac_second (hsrc : s.f F.TIME_CTRL_SRC = 2) : s.ptpMac = some 1 := by simp only [State.ptpMac, hsrc]

theorem ptpMac_auto (hsrc : s.f F.TIME_CTRL_SRC = 4) : s.ptpMac = if s.isMaster then some s.autoMac else none := by
  simp only [State.ptpMac, hsrc]

/-- Over IEEE 802.3 the messages of the peer delay have a destination of their own (the layout is PRESUMED, log 87). -/
theorem ptpSend_ethernet {kind flags ctl seq : Nat} {body m : List Byte}
    (hm : m = leBytes 1 kind ++ leBytes 1 0x12 ++ beBytes 2 (34 + body.length) ++ leBytes 1 (s.f F.TIME_PTP_DOMAIN) ++
      leBytes 1 0 ++ beBytes 2 flags ++ beBytes 12 0 ++ ptpPort ++ beBytes 2 seq ++ leBytes 1 ctl ++ leBytes 1 0x7F ++ body)
    (hudp : s.flag F.TIME_PTP_UDP = false) :
    s.ptpSend n kind flags ctl seq body =
      s.emit (.eth n) (s.ethHead n (if kind != 1 then 0x0E0000C28001 else 0x000000191B01) 0x88F7 ++ m) := by
  subst hm
  exact congrArg (s.emit (.eth n)) (if_neg (Bool.eq_false_iff.1 hudp))

end

/-! Messages received (R254). -/

section
variable {n : Fin 2} {udp mine : Bool} {domain : BitVec 8} {seq : BitVec 16} {origin : BitVec 64} {ago : BitVec 32}
  {s : State} (htakes : s.ptpTakes n udp domain.toNat = true)
include htakes

theorem exec_ptpSyncRx_twoStep :
    exec (.ptpSyncRx ⟨n, udp⟩ domain seq true origin ago) s =
      .next (s.modPtp (fun p => { p with syncSeq := seq.toNat, syncWait := true, t2 := s.rxTs n ago.toNat })) :=
  congrArg Host.Outcome.next (if_neg (by simp [htakes]))

theorem exec_ptpSyncRx_oneStep :
    exec (.ptpSyncRx ⟨n, udp⟩ domain seq false origin ago) s =
      .next (s.ptpSynced n origin.toNat (s.rxTs n ago.toNat)) :=
  congrArg Host.Outcome.next (if_neg (by simp [htakes]))

theorem exec_ptpFollowUpRx_sync (hwait : s.time.ptp.syncWait = true) (hseq : s.time.ptp.syncSeq = seq.toNat) :
    exec (.ptpFollowUpRx ⟨n, udp, mine⟩ domain seq false origin) s =
      .next (s.ptpSynced n origin.toNat s.time.ptp.t2) :=
  congrArg Host.Outcome.next ((if_neg (by simp [htakes])).trans
    ((if_neg Bool.false_ne_true).trans (if_pos (by simp [hwait, hseq]))))

theorem exec_ptpFollowUpRx_peer (hmine : mine = true) (hwait : s.time.ptp.pWait = true)
    (hseq : s.time.ptp.reqSeq = seq.toNat) (hp2p : s.flag F.TIME_PTP_P2P = true) :
    exec (.ptpFollowUpRx ⟨n, udp, mine⟩ domain seq true origin) s =
      .next (s.modPtp (fun p => { p with pWait := false, delay := ((p.pRx - p.t3) - ((origin.toNat : Int) - p.pReq)) / 2 })) :=
  congrArg Host.Outcome.next ((if_neg (by simp [htakes])).trans
    ((if_pos rfl).trans (if_pos (by simp [hmine, hwait, hseq, hp2p]))))

theorem exec_ptpPdelayReqRx_answered {port : BitVec 80} {sent : BitVec 32} (hp2p : s.flag F.TIME_PTP_P2P = true) :
    exec (.ptpPdelayReqRx ⟨n, udp, port⟩ domain seq ago sent) s =
      .next ((s.ptpSend n 3 0x0200 5 seq.toNat (ptpTime (s.rxTs n ago.toNat) ++ beBytes 10 port.toNat)).ptpSend n 0x0A 0 5
        seq.toNat (ptpTime (s.txTs n sent.toNat) ++ beBytes 10 port.toNat)) :=
  congrArg Host.Outcome.next (if_neg (by simp [htakes, hp2p]))

section
variable {received : BitVec 64} (hmine : mine = true) (hwait : s.time.ptp.reqWait = true)
  (hseq : s.time.ptp.reqSeq = seq.toNat)
include hmine hwait hseq

theorem exec_ptpDelayRespRx_measures (hp2p : s.flag F.TIME_PTP_P2P = false) :
    exec (.ptpDelayRespRx ⟨n, udp, mine⟩ domain seq received) s =
      .next (s.modPtp (fun p =>
        { p with reqWait := false, delay := (p.msd + ((received.toNat : Int) - p.t3)) / 2 })) :=
  congrArg Host.Outcome.next (if_neg (by simp [htakes, hmine, hp2p, hwait, hseq]))

/-- The answer to a Pdelay_Req: the delay is known at once, or a Follow_Up brings the peer's transmit time. -/
theorem exec_ptpPdelayRespRx_mine {twoStep : Bool} {reqRx : BitVec 64} (hp2p : s.flag F.TIME_PTP_P2P = true) :
    exec (.ptpPdelayRespRx ⟨n, udp, mine⟩ domain seq twoStep reqRx ago) s =
      .next (if twoStep then s.modPtp (fun p =>
          { p with reqWait := false, pWait := true, pReq := reqRx.toNat, pRx := s.rxTs n ago.toNat })
        else s.modPtp (fun p =>
          { p with reqWait := false, delay := ((s.rxTs n ago.toNat - p.t3) - (reqRx.toNat : Int)) / 2 })) :=
  congrArg Host.Outcome.next (if_neg (by simp [htakes, hmine, hp2p, hwait, hseq]))

end

end

end Sys2Proof.Machine
end

