-- ==== Sys2Proof/Proofs/TimeRows.lean ====
section
/-! PROOF. The discipline of DTIME and its steps (R256 to R259), saltern time (R180), and the rows of chapter 09. -/
namespace Sys2Proof.Machine

/-! A measured offset (R257 to R259). -/

section
variable {s : State} {src : Nat} {off : Int}

theorem timeMeasure_unused (hunused : s.srcUsed src = false) : s.timeMeasure src off = s := if_pos (by simp [hunused])

section
variable {t : State} (hused : s.srcUsed src = true)
  (ht : t = (((s.setF F.TIME_OFFS_OFFS (umod 32 (max (-2147483648) (min 2147483647 off)))).setF F.TIME_STAT_INUSE
    src).setHold false).timeLock off)
include hused ht

theorem timeMeasure_small (hsmall : off.natAbs ≤ t.f F.TIME_LOCK_STEP_NS) : s.timeMeasure src off = t.servo rateMax := by
  subst ht
  exact (if_neg (by simp [hused])).trans (if_neg (Nat.not_lt.2 hsmall))

section
variable (hlarge : t.f F.TIME_LOCK_STEP_NS < off.natAbs)
include hlarge

theorem timeMeasure_steps (hok : t.stepOk = true) : s.timeMeasure src off = t.timeStep off := by
  subst ht
  exact (if_neg (by simp [hused])).trans ((if_pos hlarge).trans (if_pos hok))

/-- Where no step is permitted the clock slews; a SLEW_PPM outside 1 to 500 counts as 1 or 500 (log 180, DESIGN CHOICE). -/
theorem timeMeasure_slews (hno : t.stepOk = false) : s.timeMeasure src off = (t.servo t.slewMax).raise 392 := by
  subst ht
  exact (if_neg (by simp [hused])).trans ((if_pos hlarge).trans (if_neg (Bool.eq_false_iff.1 hno)))

end

end

end

/-! A step that firmware asks for (R259). -/

section
variable {s : State} {h : Word}

theorem stepWrite_applied (hok : s.stepOk = true) :
    s.stepWrite h = s.timeStep (sval 64 (s.time.stepL + 2 ^ 32 * h.toNat)) := if_pos hok

theorem stepWrite_refused (hno : s.stepOk = false) : s.stepWrite h = s.setF F.TIME_STAT_STEPREF 1 :=
  if_neg (Bool.eq_false_iff.1 hno)

end

/-! Holdover of PTP (R258): under SRC 4 it goes on on the other MAC where that one's link is up (log 165, DESIGN CHOICE). -/

section
variable {s : State}

theorem exec_ptpHoldover_entered {n : Nat} (hmac : s.ptpMac = some n) :
    exec (.ptpHoldover) s = .next
      ((if s.f F.TIME_CTRL_SRC == 4 && s.flag (F.ETH_STAT_LINK (1 - n)) then s.ptpOnto (1 - n) else s).setHold true) := by
  simp only [exec, execPtpHoldover, hmac, State.when]

theorem exec_ptpHoldover_none (hmac : s.ptpMac = none) : exec (.ptpHoldover) s = .next s := by
  simp only [exec, execPtpHoldover, hmac]

end

/-! Saltern time (R180). -/

/-- A frame from the link that leads to the elected master brings its time. -/
theorem exec_timeFrameRx_master {l : Fin 3} {prio : BitVec 8} {master depth : BitVec 12} {sent : BitVec 64} {s t : State}
    (hup : s.linkSt l = 3)
    (ht : t = (s.modLink l (fun x => { x with time := some (prio.toNat, master.toNat, depth.toNat) })).timeElect)
    (hdepth : t.f F.RING_TIME_STAT_DEPTH ≠ 0) (hlink : t.f F.RING_TIME_STAT_LINK = l.val) :
    exec (.timeFrameRx l prio master depth sent) s = .next ((t.setRingHold false).timeMeasure 3
      ((sent.toNat : Int) + (t.f (F.RING_LINK_DELAY_PS l) / 1000 : Nat) - (t.dtime : Int))) := by
  subst ht
  exact congrArg Host.Outcome.next ((if_neg (not_not.2 hup)).trans (if_pos ⟨hdepth, hlink⟩))

/-- Settles O36, row by row: the MACs, the PTP slave, the discipline of DTIME with its steps and holdover, saltern time. Where the
rules leave a point open, the clauses rest on the model's choices in logs 84, 86, 87, 157, 164, 165, 180 and 181. -/
theorem ethernetPtpAndTimeCommandsActAsTheTablesSay : Obligations.EthernetPtpAndTimeCommandsActAsTheTablesSay := by
  unfold Obligations.EthernetPtpAndTimeCommandsActAsTheTablesSay
  refine ⟨?cfgRow, ?cfg, ?ballRelease, ?linkUp, ?linkHalf, ?linkDown, ?linkOff, ?link, ?frameError, ?frameSound, ?frameOff,
    ?arp, ?arpOther, ?echo, ?dmaError, ?mdioGo, ?mdioRead, ?mdioOther, ?ptpTakes, ?ptpOn, ?syncTwoStep, ?syncOneStep,
    ?syncOther, ?followUp, ?peerFollowUp, ?synced, ?delayReq, ?ptpSend, ?delayResp, ?pdelayReq, ?pdelayTwoStep,
    ?pdelayOneStep, ?timestamps, ?offset, ?measure, ?measureUnused, ?stepWrite, ?stepRefused, ?timeStep, ?holdover,
    ?noHoldover, ?ptpMac, ?nowRead, ?timeGet, ?timeFrame, ?timeFrameOff, ?timeFrameSend, ?linkDelay, ?brlHoldover,
    ?timeAdvance⟩
  case cfgRow => exact fun who n value s hok => congrArg Host.Outcome.next (regDo_ok hok)
  case cfg =>
    exact fun s n w g t hg ht => ⟨ethCfg_sameMode hg ht,
      fun hwas hmode hrel hfree => ethCfg_on hg ht hwas hmode hrel (claimAll_one_free hfree),
      fun hwas hmode hrel hown => ethCfg_on hg ht hwas hmode hrel (claimAll_one_owned hown), ethCfg_off hg ht⟩
  case ballRelease => exact fun n s hrel => congrArg Host.Outcome.next (if_pos hrel)
  case linkUp =>
    rintro n _ speed _ queued s hmode rfl rfl
    exact exec_ethLinkChange_up hmode
  case linkHalf =>
    rintro n _ speed _ queued s hon rfl rfl
    exact exec_ethLinkChange_half hon
  case linkDown =>
    rintro n _ speed half queued s hon rfl
    exact exec_ethLinkChange_down hon
  case linkOff => exact fun n up speed half queued s hoff => congrArg Host.Outcome.next (if_pos hoff)
  case link => exact fun s n up queued => ⟨ethLink_same, ethLink_falls, ethLink_rises⟩
  case frameError => exact fun n ago fcsOk len da vid extra known s u => exec_ethFrameRx_error
  case frameSound =>
    exact fun n ago fcsOk len da vid extra known s u hup hu => exec_ethFrameRx_sound hup hu
  case frameOff =>
    exact fun n ago fcsOk len da vid extra known s hdown => congrArg Host.Outcome.next (if_pos (by simp [hdown]))
  case arp => exact fun n sha spa tpa s hup hip => congrArg Host.Outcome.next (if_neg (by simp [hup, hip]))
  case arpOther => exact fun n sha spa tpa s hip => congrArg Host.Outcome.next (if_pos (.inr hip))
  case echo => exact fun n sha spa tpa rest s hup hip => congrArg Host.Outcome.next (if_neg (by simp [hup, hip]))
  case dmaError => exact fun n s => rfl
  case mdioGo =>
    exact fun who value s g t hok hg ht hdone =>
      congrArg Host.Outcome.next ((regDo_ok hok).trans (mdioWrite_starts hg ht (bit_go value) hdone))
  case mdioRead => exact fun data s => exec_mdioDone_read
  case mdioOther => exact fun data s => exec_mdioDone_other
  case ptpTakes => exact fun s n udp domain => ptpTakes_iff
  case ptpOn => exact fun s n => ptpOn_iff
  case syncTwoStep =>
    rintro n udp domain seq _ origin ago s htakes rfl
    exact exec_ptpSyncRx_twoStep htakes
  case syncOneStep =>
    rintro n udp domain seq _ origin ago s htakes rfl
    exact exec_ptpSyncRx_oneStep htakes
  case syncOther =>
    exact fun n udp domain seq twoStep origin ago s hnot => congrArg Host.Outcome.next (if_pos (by simp [hnot]))
  case followUp =>
    rintro n udp mine domain seq _ origin s htakes rfl hwait hseq
    exact exec_ptpFollowUpRx_sync htakes hwait hseq
  case peerFollowUp =>
    rintro n udp mine domain seq _ origin s htakes rfl hmine hwait hseq hp2p
    exact exec_ptpFollowUpRx_peer htakes hmine hwait hseq hp2p
  case synced => exact fun s n t1 t2 => rfl
  case delayReq =>
    rintro n ago s _ hon rfl
    exact congrArg Host.Outcome.next (if_neg (by simp [hon]))
  case ptpSend => exact fun s n kind flags ctl seq body m => ptpSend_ethernet
  case delayResp =>
    exact fun n udp mine domain seq received s htakes hmine hp2p hwait hseq =>
      exec_ptpDelayRespRx_measures htakes hmine hwait hseq hp2p
  case pdelayReq => exact fun n udp port domain seq ago sent s htakes => exec_ptpPdelayReqRx_answered htakes
  case pdelayTwoStep =>
    rintro n udp mine domain seq _ reqRx ago s htakes hmine hp2p hwait hseq rfl
    exact exec_ptpPdelayRespRx_mine htakes hmine hwait hseq hp2p
  case pdelayOneStep =>
    rintro n udp mine domain seq _ reqRx ago s htakes hmine hp2p hwait hseq rfl
    exact exec_ptpPdelayRespRx_mine htakes hmine hwait hseq hp2p
  case timestamps => exact fun s n ago => ⟨rfl, rfl⟩
  case offset => exact fun src offs s hsrc => congrArg Host.Outcome.next (if_neg hsrc)
  case measure =>
    exact fun s src off t hused ht => ⟨timeMeasure_small hused ht, timeMeasure_steps hused ht, timeMeasure_slews hused ht⟩
  case measureUnused => exact fun s src off => timeMeasure_unused
  case stepWrite =>
    exact fun who low high s hok hstep => congrArg Host.Outcome.next ((regDo_ok hok).trans (stepWrite_applied hstep))
  case stepRefused =>
    exact fun who low high s hok hno => congrArg Host.Outcome.next ((regDo_ok hok).trans (stepWrite_refused hno))
  case timeStep =>
    rintro s d _ rfl
    rfl
  case holdover => exact fun s n => exec_ptpHoldover_entered
  case noHoldover => exact fun s => exec_ptpHoldover_none
  case ptpMac => exact fun s => ⟨ptpMac_first, ptpMac_second, ptpMac_auto⟩
  case nowRead => exact fun who s hok => congrArg Host.Outcome.next (regDoRead_ok hok)
  case timeGet => exact fun r s x s1 h hl => exec_of_fixedLen rfl h rfl hl rfl
  case timeFrame => exact fun l prio master depth sent s t => exec_timeFrameRx_master
  case timeFrameOff => exact fun l prio master depth sent s hdown => congrArg Host.Outcome.next (if_pos hdown)
  case timeFrameSend =>
    rintro s _ rfl
    rfl
  case linkDelay => exact fun l ps s hup => congrArg Host.Outcome.next (if_pos hup)
  case brlHoldover =>
    rintro s _ rfl
    rfl
  case timeAdvance =>
    rintro s ns _ rfl
    rw [State.timeAdvance, add_assoc]

end Sys2Proof.Machine
end

