-- ==== Sys2Proof/Proofs/HighSide.lean ====
section
/-! PROOF. What the operations of the high-side switches do, case by case: commands and registers, the PWM grid, protection,
samples and tests (R264 to R283). -/
namespace Sys2Proof.Machine

/-! Channels and pairs (R268, R269). -/

section
variable {s : State} {m : Nat}

theorem hssEach_single {e : Nat → State → State} (halone : s.hssAll m = [m]) : s.hssEach m e = e m s := by
  rw [State.hssEach, halone, List.foldl_cons, List.foldl_nil]

/-- The limit of a channel: the image's code where it gives one, else the code of CFG (R268). -/
theorem hssIlim_eq : s.hssIlim m = match (s.hssCh m).ilim with | some c => c | none => s.f (F.HSS_N_CFG_ILIM m) := by
  unfold State.hssIlim
  cases (s.hssCh m).ilim <;> rfl

end

/-! HSS_SET and OPEN_LOAD_SWEEP (R265, R283). -/

/-- An accepted HSS_SET: an interlocked command still keeps its limit code and applies CLEAR (log 106, DESIGN CHOICE). -/
theorem hssSet_accepted {c : Ctx} {s t : State} {n d l : Nat} (hl : c.pl.length = 4) (hn : leAt c.pl 0 1 = n)
    (hd : leAt c.pl 1 2 = d) (hcode : leAt c.pl 3 1 = l) (hlt : n ≤ 47) (hbits : bits l 6 2 = 0)
    (hown : s.owner (resId 1 n) = 0) (ht : t = s.setF (F.HSS_N_CFG_ILIM n) (l % 4)) :
    bodyHssSet c s =
      if d ≠ 0 ∧ t.hssHeld n = true then
        ((t.when (bit l 7) (fun u => u.hssClear n false)).hssGated n).finish c.key stInterlocked []
      else ((t.when (bit l 7) (fun u => u.hssClear n false)).hssCommand n d).ok c.key [] := by
  subst hn hcode hd ht
  exact (if_pos hl).trans ((if_neg (by omega)).trans ((if_neg (by omega)).trans (if_neg (by omega))))

theorem openLoadSweep_starts {c : Ctx} {s : State} {m : Nat} (hl : c.pl.length = 8) (hm : leVal c.pl = m) (hlt : m < 2 ^ 48)
    (hown : firstBelow 48 (fun n => bit m n && s.owner (resId 1 n) != 0) = none) (hidle : s.flag F.HSS_SWEEP_BUSY = false)
    {t : State} (ht : t = forBelow 48 s (fun n v => v.when (bit m n) (fun w => w.modHss n (fun x => { x with sw := 0 })))) :
    bodyOpenLoadSweep c s =
      (({ t with hss := { t.hss with sweep := some (c.key, m) } }.setF F.HSS_SWEEP_BUSY 1).stopServed 4).accept c.key := by
  subst hm ht
  have hmask : ¬leVal c.pl / 2 ^ 48 ≠ 0 := by omega
  simp only [bodyOpenLoadSweep, fixedLen, if_pos hl, if_neg hmask, hown, hidle, Bool.false_eq_true, if_false]

/-! Register writes (R264, R266, R269, R273). -/

section
variable {s : State} {n : Nat}

theorem hssEn_same : s.hssEn (s.flag F.HSS_CTRL_EN) = s := if_pos rfl

theorem hssEn_off (hon : s.flag F.HSS_CTRL_EN = true) :
    s.hssEn false = forBelow 48 (s.setF F.HSS_CTRL_EN 0) (fun m t =>
      if t.hssLead m = m ∧ 1 ≤ t.hssState m ∧ t.hssState m ≤ 4 then t.hssOff m 0 else t) :=
  (if_neg (by simp [hon])).trans (if_neg Bool.false_ne_true)

section
variable {who : Who} {d : Nat} (hlead : s.hssLead n = n)
include hlead

/-- The Steward owns the channel: CLEAR, where it is asked, then the duty. -/
theorem hssCmdWrite_owned {clear : Bool} (hown : s.owner (resId 1 n) = 0) :
    s.hssCmdWrite who n d clear = (s.when clear (fun t => t.hssClear n false)).hssCommand n d :=
  (if_neg (not_not.2 hlead)).trans ((if_neg (by simp [hown])).trans (if_pos hown))

/-- Another party owns the channel: CLEAR acts, the duty does not. -/
theorem hssCmdWrite_foreignClear (hown : s.owner (resId 1 n) ≠ 0) :
    s.hssCmdWrite who n d true = s.hssClear n true :=
  (if_neg (not_not.2 hlead)).trans (if_pos (by simpa using hown))

end

section
variable (heven : n % 2 = 0) (hoff : s.hssState n = 0) (hoffNext : s.hssState (n + 1) = 0)
include heven hoff hoffNext

theorem hssPar_joins (halone : s.flag (F.HSS_N_CFG_PAR n) = false) (hfree : s.claimable 4 (resId 1 (n + 1)) = true) :
    s.hssPar n true =
      (((s.setF (F.HSS_N_CFG_PAR n) 1).setF (F.HSS_N_STAT_PARERR n) 0).setOwner (resId 1 (n + 1)) 4).hssFixRange (n + 1) :=
  (if_neg (by omega)).trans ((if_neg (by simp [halone])).trans ((if_neg (by simp)).trans ((if_neg (by simp [hfree])).trans
    (if_neg (by simp [hoff, hoffNext])))))

theorem hssPar_parts (hpair : s.flag (F.HSS_N_CFG_PAR n) = true) :
    s.hssPar n false =
      (((s.setF (F.HSS_N_CFG_PAR n) 0).setF (F.HSS_N_STAT_PARERR n) 0).release 4 (resId 1 (n + 1))).hssFixRange (n + 1) :=
  (if_neg (by omega)).trans ((if_neg (by simp [hpair])).trans ((if_pos rfl).trans (if_neg (by simp [hoff, hoffNext]))))

end

end

/-! PWM of a single channel that is ON (R267, R278). -/

section
variable {s : State} {n : Nat} (hlead : s.hssLead n = n) (hon : s.hssState n = 1) (hpwm : s.hssPwm n = true)
  (halone : s.hssAll n = [n])
include hlead hon hpwm halone

/-- A period starts whose last one brought a sample, with no duty waiting and the channel in step with its grid. -/
theorem hssPeriodStart_single (hgrid : s.hssGrid (n / 8) = s) (hwant : (s.hssCh n).want = none)
    (hjoined : (s.hssCh n).joining = false) (hsampled : (s.hssCh n).sampled = true) :
    s.hssPeriodStart n =
      ((s.modHss n (fun c => { c with sampled := false })).modHss n (fun c => { c with joining := false })).hssDrive n true := by
  have hruns : ¬((s.hssState n ≠ 1 ∧ s.hssState n ≠ 2) ∨ (!s.hssPwm n) = true) := by simp [hon, hpwm]
  simp only [State.hssPeriodStart, hlead, hgrid, hwant, if_neg hruns, hjoined, Bool.false_and, Bool.false_eq_true, if_false,
    hssEach_single halone, hsampled, Bool.not_true, State.when]

theorem hssOnEnd_single (hout : s.flag (F.HSS_N_STAT_OUT n) = true)
    (hoff : hssOnTime (s.hssP n) (s.f (F.HSS_N_CMD_DUTY n)) ≠ s.hssP n) :
    s.hssOnEnd n = (s.hssDrive n false).modHss n (fun c => { c with offAt := s.now }) := by
  have hruns : ¬((s.hssState n ≠ 1 ∧ s.hssState n ≠ 2) ∨ (!s.hssPwm n) = true ∨ (!s.flag (F.HSS_N_STAT_OUT n)) = true) := by
    simp [hon, hpwm, hout]
  have hlimit : (s.hssState n == 2) = false := by simp [hon]
  simp only [State.hssOnEnd, hlead, if_neg hruns, if_neg (not_and_of_not_left _ hoff), hssEach_single halone, hlimit,
    State.when, Bool.false_eq_true, if_false]

end

/-! The restart slot of a channel in GRPOFF (R275). -/

section
variable {s : State} {m : Nat} (hoff : s.hssState m = 6) (hslot : (s.hssCh m).slot = true)
include hoff hslot

theorem hssSlot_on (hcmd : s.hssOnCmd m = true) (hfree : s.hssHeld m = false) : s.hssSlot m = s.hssOn m true :=
  (if_neg (by simp [hoff, hslot])).trans ((if_neg (by simp [hcmd])).trans (if_neg (by simp [hfree])))

theorem hssSlot_off (hcmd : s.hssOnCmd m = false) : s.hssSlot m = s.hssOff m 0 :=
  (if_neg (by simp [hoff, hslot])).trans (if_pos (by simp [hcmd]))

end

/-! Protection (R272, R276). -/

section
variable {s : State} {m : Nat}

theorem hssFault_hotRetry {t : State} (ht : t = s.setF (F.HSS_N_STAT_CAUSE m) 2) (halone : s.hssAll m = [m])
    (halone' : t.hssAll m = [m]) (hleft : t.f (F.HSS_N_STAT_OTCNT m) < s.f (F.HSS_N_CFG_OT_RETRY m)) :
    s.hssFault m 2 = (t.incF (F.HSS_N_STAT_OTCNT m) 1).hssOff m 4 := by
  subst ht
  unfold State.hssFault
  rw [hssEach_single halone]
  exact (if_pos hleft).trans (congrArg (State.hssOff · m 4) (hssEach_single halone'))

theorem hssRetry_on (hwaits : s.hssState m = 4) (hdue : (s.hssCh m).retryDue = true) (hcmd : s.hssOnCmd m = true)
    (hcool : s.f (F.HSS_N_STAT_CAUSE m) = 1 ∨ s.hssHot m = false) : s.hssRetry m = s.hssOn m false :=
  (if_neg (by simp [hwaits, hdue, hcmd])).trans (if_pos (by simpa using hcool))

theorem hssRetry_elsewhere (hnot : s.hssState m ≠ 4) : s.hssRetry m = s := if_pos (.inl hnot)

end

/-! Samples and tests (R278 to R283). -/

section
variable {s : State} {n code : Nat}

theorem hssSample_stale (hstale : s.flag (F.HSS_N_MEAS_STALE n) = true) : s.hssSample n code = s := if_pos (.inl hstale)

theorem hssSample_taken (hfresh : s.flag (F.HSS_N_MEAS_STALE n) = false) (hdc : s.hssPwm (s.hssLead n) = false) :
    s.hssSample n code = ((s.hssReading n code (s.f (F.HSS_N_MEAS_RANGE n))).hssUnder n).hssAuto n :=
  if_neg (by simp [hfresh, hdc])

section
variable {x : Fld}

theorem hssDiag_new (hwas : s.flag x = false) : s.hssDiag n x true = (s.setFlag x true).raise (1026 + 3 * n) :=
  if_pos (by simp [hwas])

theorem hssDiag_again (hwas : s.flag x = true) : s.hssDiag n x true = s.setFlag x true := if_neg (by simp [hwas])

theorem hssDiag_clear : s.hssDiag n x false = s.setFlag x false := by
  simp only [State.hssDiag, State.when, Bool.false_and, Bool.false_eq_true, if_false]

end

section
variable {opens shorts : BitVec 48}

theorem hssSwept_idle (hidle : s.hss.sweep = none) : s.hssSwept opens shorts = s := by
  simp only [State.hssSwept, hidle]

/-- The end of a sweep that no stop cut short: each tested channel's result, the two masks, the completion. -/
theorem hssSwept_completes {k : RKey} {m : Nat} {t u : State} {tested : Nat → Bool} {ol nt : Nat}
    (hsweep : s.hss.sweep = some (k, m))
    (ht : t = { s with hss := { s.hss with sweep := none } }.setF F.HSS_SWEEP_BUSY 0) (hgoes : t.mustStop 4 = false)
    (htested : tested = fun n => bit m n && !s.hssNotTested n)
    (hu : u = forBelow 48 t (fun n v => v.when (tested n) (fun w => w.hssSweepCh opens.toNat shorts.toNat n)))
    (hol : ol = hssMask (fun n =>
      tested n && (if s.hssState n = 0 then bit opens.toNat n || bit shorts.toNat n else s.hssSweepUnder n)))
    (hnt : nt = hssMask (fun n => bit m n && s.hssNotTested n)) :
    s.hssSwept opens shorts =
      (((((u.setF F.HSS_SWEEP_OL_L_BITS ol).setF F.HSS_SWEEP_OL_H_BITS (ol / 2 ^ 32)).setF F.HSS_SWEEP_NT_L_BITS nt).setF
        F.HSS_SWEEP_NT_H_BITS (nt / 2 ^ 32)).raise 1186).ok k (leBytes 8 ol) := by
  subst ht htested hu hol hnt
  simp only [State.hssSwept, hsweep, hgoes, Bool.false_eq_true, if_false]

end

end

end Sys2Proof.Machine
end

