-- ==== Sys2Proof/Proofs/HighSideRows.lean ====
section
/-! PROOF. The rows of chapter 10 (R264 to R283): the requests, the register writes and the events of a channel or a group. -/
namespace Sys2Proof.Machine

/-! Restart of a group (R275): the first channel with a slot takes it now. -/

section
variable {g : Fin 6} {s t u : State} (ht : t = (s.setF (F.HSS_GRP_STAT_UV g) 0).setF (F.HSS_GRP_STAT_OV g) 0)
  (hu : u = (t.hssLeads g).foldl State.hssRestart t)
include ht hu

theorem exec_hssGroupRestart_none (hnone : (u.hssLeads g).find? (fun m => (u.hssCh m).slot) = none) :
    exec (.hssGroupRestart g) s = .next (u.raise (1170 + 3 * g.val)) := by
  subst ht hu
  simp only [exec, execHssGroupRestart, hnone]

theorem exec_hssGroupRestart_first {m : Nat} (hfirst : (u.hssLeads g).find? (fun m => (u.hssCh m).slot) = some m) :
    exec (.hssGroupRestart g) s = .next ((u.hssSlot m).raise (1170 + 3 * g.val)) := by
  subst ht hu
  simp only [exec, execHssGroupRestart, hfirst]

end

/-! Events of a channel (R267 to R281). -/

section
variable {n : Fin 48} {s : State}

section
variable (hlead : s.hssLead n = n)
include hlead

theorem exec_hssRestartSlot_lead : exec (.hssRestartSlot n) s = .next (s.hssSlot n) :=
  congrArg Host.Outcome.next (congrArg s.hssSlot hlead)

theorem exec_hssOffstateTest_tests {pullup above : Bool} (hen : s.flag F.HSS_CTRL_EN = true)
    (hseen : (s.hssCh n).seen = true) (hmode : s.f (F.HSS_N_DCFG_OLMODE n) = 1) (hoff : s.hssState n = 0)
    (hcmd : s.hssOnCmd n = false) (hfull : s.flag (F.HSS_GRP_STAT_REDUCED (n.val / 8)) = false) :
    exec (.hssOffstateTest n pullup above) s =
      .next (s.hssDiag n (if pullup then F.HSS_N_STAT_OPEN_OFF n else F.HSS_N_STAT_SHORT_SUP n) above) :=
  congrArg Host.Outcome.next (if_neg (by simp [hlead, hen, hseen, hmode, hoff, hcmd, hfull]))

end

/-- What a channel holds beside its registers, here its hot junction, decides neither its state nor its leader. -/
theorem exec_hssOvertemp_driven (hon : s.hssState n = 1 ∨ s.hssState n = 2) :
    exec (.hssOvertemp n) s = .next ((s.modHss n (fun c => { c with hot := true })).hssFault (s.hssLead n) 2) :=
  congrArg Host.Outcome.next (if_pos hon)

theorem exec_hssOvertemp_other (hnotOn : s.hssState n ≠ 1) (hnotLim : s.hssState n ≠ 2) :
    exec (.hssOvertemp n) s = .next (s.modHss n (fun c => { c with hot := true })) :=
  congrArg Host.Outcome.next (if_neg (not_or.2 ⟨hnotOn, hnotLim⟩))

theorem exec_hssLimitStart_regulates {code : Fin 4} (hon : s.hssState n = 1) (hout : s.flag (F.HSS_N_STAT_OUT n) = true)
    (hcode : s.hssIlim (s.hssLead n) = code) :
    exec (.hssLimitStart ⟨n, code⟩) s =
      .next (((s.setF (F.HSS_N_STAT_STATE n) 2).setF (F.HSS_N_STAT_LIMIT n) 1).raise (1025 + 3 * n.val)) :=
  congrArg Host.Outcome.next (if_neg (by simp [hon, hout, hcode]))

section
variable (hlim : s.hssState n = 2)
include hlim

theorem exec_hssLimitTimerExpiry_quick (hwindow : (s.hssCh (s.hssLead n)).window = true)
    (hleft : s.f (F.HSS_N_STAT_QRET (s.hssLead n)) < s.f (F.HSS_N_CFG_LAMP_N (s.hssLead n))) :
    exec (.hssLimitTimerExpiry n) s =
      .next ((s.hssEach (s.hssLead n) (fun k t => t.incF (F.HSS_N_STAT_QRET k) 1)).hssOff (s.hssLead n) 3) :=
  congrArg Host.Outcome.next ((if_neg (not_not.2 hlim)).trans (if_pos (by simp [hwindow, hleft])))

theorem exec_hssLimitTimerExpiry_fault (hwindow : (s.hssCh (s.hssLead n)).window = false) :
    exec (.hssLimitTimerExpiry n) s = .next (s.hssFault (s.hssLead n) 1) :=
  congrArg Host.Outcome.next ((if_neg (not_not.2 hlim)).trans (if_neg (by simp [hwindow])))

end

theorem exec_hssRangeChangeDone_first {code : BitVec 12} {q : Nat} (hnew : (s.hssCh n).newRange = some q) :
    exec (.hssRangeChangeDone n code) s =
      .next ((((s.modHss n (fun c => { c with newRange := none, low := 0 })).hssReading n code.toNat q).hssUnder n).hssAuto n) := by
  simp only [exec, execHssRangeChangeDone, hnew]

end

/-- Settles O29, row by row: the requests, the register writes, PWM, the groups, protection, samples and tests. Where the rules
leave a point open, the clauses rest on the model's choices: log 106 (an INTERLOCKED command, the owner of a pair), 132 and 167
(PAR), 133 (CLEAR while the group is off), 166 (the NT bits and the threshold of a sweep) and 169 (a slot unused). -/
theorem highSideSwitchCommandsActAsTheTablesSay : Obligations.HighSideSwitchCommandsActAsTheTablesSay := by
  unfold Obligations.HighSideSwitchCommandsActAsTheTablesSay
  refine ⟨?set, ?setInterlocked, ?sweepStart, ?ctrlRow, ?ctrlSame, ?ctrlOff, ?duty, ?clear, ?clearForeign, ?parRow, ?parJoins,
    ?parParts, ?pwmHz, ?periodRow, ?period, ?onTimeEnd, ?undervoltage, ?overvoltage, ?groupOff, ?restartNone, ?restartFirst,
    ?slotOn, ?slotOff, ?reduced, ?overtemp, ?overtempOther, ?fault, ?trip, ?limitStart, ?ilim, ?limitEnd, ?limitQuick,
    ?limitFault, ?blank, ?qoff, ?retryRow, ?retry, ?rclr, ?sample, ?sampleStale, ?reading, ?rangeDone, ?temp, ?offstate,
    ?diag, ?sweepIdle, ?sweepDone⟩
  case set =>
    exact fun r s x s1 n d l h hl hn hd hcode hlt hbits hown hgo =>
      exec_of_body rfl h ((hssSet_accepted hl hn hd hcode hlt hbits hown rfl).trans (if_neg hgo))
  case setInterlocked =>
    exact fun r s x s1 n d l h hl hn hd hcode hlt hbits hown hon hheld =>
      exec_of_body rfl h ((hssSet_accepted hl hn hd hcode hlt hbits hown rfl).trans (if_pos ⟨hon, hheld⟩))
  case sweepStart =>
    exact fun r s x s1 m t h hl hm hlt hown hidle ht => exec_of_body rfl h (openLoadSweep_starts hl hm hlt hown hidle ht)
  case ctrlRow => exact fun who en s hok => congrArg Host.Outcome.next (regDo_ok hok)
  case ctrlSame => exact fun s => hssEn_same
  case ctrlOff => exact fun s => hssEn_off
  case duty =>
    exact fun who n duty s hok hlead hown => congrArg Host.Outcome.next ((regDo_ok hok).trans (hssCmdWrite_owned hlead hown))
  case clear =>
    exact fun who n duty s hok hlead hown => congrArg Host.Outcome.next ((regDo_ok hok).trans (hssCmdWrite_owned hlead hown))
  case clearForeign =>
    exact fun who n duty s hok hlead hown =>
      congrArg Host.Outcome.next ((regDo_ok hok).trans (hssCmdWrite_foreignClear hlead hown))
  case parRow => exact fun who n par s hok => congrArg Host.Outcome.next (regDo_ok hok)
  case parJoins => exact fun s n heven halone hfree hoff hoffNext => hssPar_joins heven hoff hoffNext halone hfree
  case parParts => exact fun s n heven hpair hoff hoffNext => hssPar_parts heven hoff hoffNext hpair
  case pwmHz => exact fun who g hz s hok => congrArg Host.Outcome.next (regDo_ok hok)
  case periodRow => exact fun n s => rfl
  case period =>
    exact fun s n hlead halone hgrid hwant hon hpwm hjoined hsampled =>
      hssPeriodStart_single hlead hon hpwm halone hgrid hwant hjoined hsampled
  case onTimeEnd =>
    exact fun n s hlead hon hpwm hout hoff halone =>
      congrArg Host.Outcome.next (hssOnEnd_single hlead hon hpwm halone hout hoff)
  case undervoltage => exact fun g s => rfl
  case overvoltage => exact fun g s => rfl
  case groupOff => exact fun s g => rfl
  case restartNone => exact fun g s t u => exec_hssGroupRestart_none
  case restartFirst => exact fun g s t u m ht hu => exec_hssGroupRestart_first ht hu
  case slotOn =>
    exact fun n s hlead hoff hslot hcmd hfree =>
      (exec_hssRestartSlot_lead hlead).trans (congrArg Host.Outcome.next (hssSlot_on hoff hslot hcmd hfree))
  case slotOff =>
    exact fun n s hlead hoff hslot hcmd =>
      (exec_hssRestartSlot_lead hlead).trans (congrArg Host.Outcome.next (hssSlot_off hoff hslot hcmd))
  case reduced => exact fun g reduced s => rfl
  case overtemp => exact fun n s => exec_hssOvertemp_driven
  case overtempOther => exact fun n s => exec_hssOvertemp_other
  case fault =>
    exact fun s m halone hleft hkept halone' => hssFault_hotRetry rfl halone halone' (hkept ▸ hleft)
  case trip => exact fun s m => rfl
  case limitStart => exact fun n code s => exec_hssLimitStart_regulates
  case ilim => exact fun s m => hssIlim_eq
  case limitEnd => exact fun n s hlim => congrArg Host.Outcome.next (if_neg (not_not.2 hlim))
  case limitQuick => exact fun n s => exec_hssLimitTimerExpiry_quick
  case limitFault => exact fun n s => exec_hssLimitTimerExpiry_fault
  case blank => exact fun n s hon => congrArg Host.Outcome.next (if_pos hon)
  case qoff => exact fun n s hoff hcmd => congrArg Host.Outcome.next (if_pos ⟨hoff, hcmd⟩)
  case retryRow => exact fun n s hwaits => congrArg Host.Outcome.next (if_pos hwaits)
  case retry => exact fun s m => hssRetry_on
  case rclr => exact fun n s hon => congrArg Host.Outcome.next (if_neg (not_not.2 hon))
  case sample => exact fun n code s hfresh hdc => congrArg Host.Outcome.next (hssSample_taken hfresh hdc)
  case sampleStale => exact fun n code s hstale => congrArg Host.Outcome.next (hssSample_stale hstale)
  case reading => exact fun s n code range => rfl
  case rangeDone => exact fun n code s q => exec_hssRangeChangeDone_first
  case temp =>
    rintro n tj warn hot s _ rfl hnot
    exact congrArg Host.Outcome.next (hssRetry_elsewhere hnot)
  case offstate =>
    exact fun n pullup above s hlead hen hseen hmode hoff hcmd hfull =>
      exec_hssOffstateTest_tests hlead hen hseen hmode hoff hcmd hfull
  case diag => exact fun s n x => ⟨hssDiag_new, hssDiag_again, hssDiag_clear⟩
  case sweepIdle => exact fun opens shortL shortH s hidle => congrArg Host.Outcome.next (hssSwept_idle hidle)
  case sweepDone =>
    exact fun opens shortL shortH s k m t tested u ol nt hsweep ht hgoes htested hu hol hnt =>
      congrArg Host.Outcome.next (hssSwept_completes hsweep ht hgoes htested hu hol hnt)

end Sys2Proof.Machine
end

