-- ==== Sys2Proof/Proofs/Solenoid.lean ====
section
/-! PROOF. What the operations of the solenoid drivers do, case by case: the codes and the registers, the queue and its take
points, the phases of a profile, VSOL (R290 to R304). -/
namespace Sys2Proof.Machine

/-! SOL_RUN (R296) and the registers of a channel (R290 to R292, R299, R302). -/

section
variable {code : Nat} (hcode : code ≤ 31 ∨ code = 0x80 ∨ code = 0x81)
include hcode

theorem solCodeOk_of_code : solCodeOk code = true := by simpa [solCodeOk, or_assoc] using hcode

theorem solRun_accepted {c : Ctx} {s : State} {n t : Nat} (hl : c.pl.length = 10) (hn : leAt c.pl 0 1 = n)
    (hc : leAt c.pl 1 1 = code) (ht : leAt c.pl 2 8 = t) (hlt : n ≤ 11) (hlimit : t ≤ s.dtime + 1800000000000)
    (hown : s.owner (resId 2 n) = 0) :
    bodySolRun c s = s.solQueue n { (default : SolCmd) with
      code := code, due := if t = 0 then none else some (t / 1000 % 2 ^ 32), dtime := t, req := some c.key } := by
  subst hn hc ht
  exact (if_pos hl).trans ((if_neg (by omega)).trans ((if_neg (by simp [solCodeOk_of_code hcode])).trans
    ((if_neg (by omega)).trans (if_neg (by omega)))))

end

section
variable {s : State} {n : Nat}

theorem solEn_off (hon : s.flag F.SOL_CTRL_EN = true) :
    s.solEn false = forBelow 12 (s.setFlag F.SOL_CTRL_EN false) (fun n t =>
      (if t.solState n = 1 ∨ t.solState n = 2 then (t.solDrain n 3 false none).solFinOn n stFailed (leBytes 2 0x0B14)
        else t).solFlush n 0x0B14) :=
  (if_neg (by simp [hon])).trans (if_neg Bool.false_ne_true)

theorem solEn_on (hoff : s.flag F.SOL_CTRL_EN = false) : s.solEn true = s.setFlag F.SOL_CTRL_EN true :=
  (if_neg (by simp [hoff])).trans (if_pos rfl)

/-- CLEAR alone acts whoever owns the channel (R290). -/
theorem solCmdWrite_clear {cc : CoreId} {pl : Fin 3} (hlead : s.solLead n = n) :
    s.solCmdWrite (.core cc pl) n 0x100 = s.solClear n := by
  refine (if_neg (by simp [hlead])).trans ?_
  by_cases hown : s.owner (resId 2 n) = 0
  · exact if_neg (not_not.2 hown)
  · exact if_pos hown

section
variable {cc : CoreId} {pl : Fin 3} (hown : s.owner (resId 2 n) = 0)
include hown

theorem solCmdWrite_release : s.solCmdWrite (.core cc pl) n 0x200 = s.solRelease n :=
  (if_neg (fun h => absurd h.2 (by decide))).trans (if_neg (not_not.2 hown))

theorem solCmdWrite_flush : s.solCmdWrite (.core cc pl) n 0x400 = s.solFlush n 0x0B14 :=
  (if_neg (fun h => absurd h.2 (by decide))).trans (if_neg (not_not.2 hown))

theorem solCmdWrite_code {code : Nat} (hcode : code ≤ 31 ∨ code = 0x80 ∨ code = 0x81) (hen : s.flag F.SOL_CTRL_EN = true) :
    s.solCmdWrite (.core cc pl) n code = s.solQueue n { (default : SolCmd) with
      code := code, due := if s.f (F.SOL_N_CTIME_TTIME n) = 0 then none else some (s.f (F.SOL_N_CTIME_TTIME n)) } := by
  have hbyte : code % 256 = code := by omega
  have hsel : bits code 10 8 = 0 := by simp only [bits]; omega
  simp [State.solCmdWrite, hbyte, hsel, hown, solCodeOk_of_code hcode, hen]

end

theorem solClear_fault (hfault : s.solState n = 5) (hcool : s.solHot n = false) :
    s.solClear n = s.setF (F.SOL_N_STAT_STATE n) 4 :=
  if_pos (by simp [hfault, hcool])

theorem solClear_hot (hhot : s.solHot n = true) : s.solClear n = s := if_neg (by simp [hhot])

section
variable {p k b a : Nat} (ha : a = (s.reg (A.SOL_PROF_A p k)).toNat)
include ha

theorem solProf_installed (hok : solPhaseOk a b s.solAnyPair = true) :
    s.solProf p k b =
      { s with sol := { s.sol with prof := tblSet s.sol.prof (8 * p + k) (a, b) } }.setReg (A.SOL_PROF_B p k) (toW b) := by
  subst ha
  exact if_pos hok

theorem solProf_refused (hno : solPhaseOk a b s.solAnyPair = false) :
    s.solProf p k b =
      (s.setF F.SOL_CTRL_PERR 1).setReg (A.SOL_PROF_A p k) (toW (tblGet s.sol.prof (8 * p + k)).1) := by
  subst ha
  exact if_neg (by simp [hno])

end

section
variable (heven : n % 2 = 0) (hoff : s.solState n = 0) (hoffNext : s.solState (n + 1) = 0)
include heven hoff hoffNext

theorem solPar_joins (halone : s.flag (F.SOL_N_CFG_PAR n) = false) (hfree : s.claimable 4 (resId 2 (n + 1)) = true) :
    s.solPar n true = (s.setF (F.SOL_N_CFG_PAR n) 1).setOwner (resId 2 (n + 1)) 4 :=
  (if_neg (by simp [heven, halone])).trans ((if_neg (by simp)).trans ((if_neg (by simp [hfree])).trans
    (if_neg (by simp [hoff, hoffNext]))))

theorem solPar_parts (hpair : s.flag (F.SOL_N_CFG_PAR n) = true) :
    s.solPar n false = (s.setF (F.SOL_N_CFG_PAR n) 0).release 4 (resId 2 (n + 1)) :=
  (if_neg (by simp [heven, hpair])).trans ((if_pos rfl).trans (if_neg (by simp [hoff, hoffNext])))

end

theorem solDuty_sameWindow {dmax : Nat} (hw : 0 < s.f (F.SOL_N_DUTY_DWIN_S n)) :
    s.solDuty n dmax (s.f (F.SOL_N_DUTY_DWIN_S n)) = s.setF (F.SOL_N_DUTY_DMAX_MS n) dmax :=
  if_pos (if_neg hw.ne')

end

/-! The queue (R294, R297). -/

section
variable {s t : State} {n : Nat} {c : SolCmd}

section
variable (hen : s.flag F.SOL_CTRL_EN = true) (himage : c.image = false)
include hen himage

theorem solQueue_full (hfull : 4 ≤ (s.solCh n).q.length) :
    s.solQueue n c = ((s.setF (F.SOL_N_STAT_DROPPED n) 1).raise 1255).solFin c.req stLimit (leBytes 2 0x0B01) := by
  simp [State.solQueue, hen, himage, hfull]

theorem solQueue_queued (hroom : (s.solCh n).q.length < 4) (ht : t = s.modSol n (fun x => { x with q := x.q ++ [c] }))
    (hintime : t.solOverdue n (s.solCh n).q.length = false) : s.solQueue n c = t.solExam n := by
  subst ht
  simp [State.solQueue, hen, himage, hroom, hintime]

end

section
variable (hhead : (s.solCh n).q.head? = some c)
include hhead

theorem solTry_taken (hpoint : s.solTakePoint n = true) (hfree : s.solFree n c = true) : s.solTry n = s.solTake n c := by
  simp [State.solTry, hhead, hpoint, hfree]

theorem solTry_waits (hbusy : s.solFree n c = false) : s.solTry n = s := by
  simp [State.solTry, hhead, hbusy]

end

theorem solTakePoint_of_state (hst : s.solState n = 0 ∨ s.solState n = 2 ∨ s.solState n = 5) : s.solTakePoint n = true := by
  simpa [State.solTakePoint, or_assoc] using hst

/-- A command without time that is not held is free at once. -/
theorem solFree_untimed (hheld : c.held = false) (hdue : c.due = none) : s.solFree n c = true := by
  simp [State.solFree, hheld, hdue]

/-- Outside FAULT a command waits until it is due. -/
theorem solFree_early {d : Nat} (hdue : c.due = some d) (hearly : s.solPast d = false) (hnot : s.solState n ≠ 5) :
    s.solFree n c = false := by
  simp [State.solFree, hdue, hearly, hnot]

section
variable (ht : t = ((s.modSol n (fun x => { x with q := x.q.drop 1 })).solUnstick n).when c.late
  (fun u => u.setF (F.SOL_N_STAT_LATE n) 1))
include ht

/-- OFF outside a persistent phase completes and changes nothing else (R294). -/
theorem solTake_off (hoff : c.code = 0x80) (hnot : (t.solFin c.req stOk (leBytes 4 0xFFFFFFFF)).solState n ≠ 2) :
    s.solTake n c = t.solFin c.req stOk (leBytes 4 0xFFFFFFFF) := by
  subst ht
  exact (if_neg (by omega)).trans ((if_pos hoff).trans (if_neg hnot))

theorem solTake_clear (hclear : c.code = 0x81) (hcool : t.solHot n = false) :
    s.solTake n c = (t.solClear n).solFin c.req stOk (leBytes 4 0xFFFFFFFF) := by
  subst ht
  exact (if_pos hclear).trans (if_neg (fun h => Bool.false_ne_true (hcool.symm.trans h.2)))

section
variable (hon : c.code ≤ 31)
include hon

theorem solTake_onInFault (hfault : t.solState n = 5) : s.solTake n c = t.solFail c.req 0x0B11 := by
  subst ht
  exact (if_neg (by omega)).trans ((if_neg (by omega)).trans (if_pos hfault))

theorem solTake_on (hsound : t.solState n ≠ 5) : s.solTake n c = t.solOn n c.code c.req := by
  subst ht
  exact (if_neg (by omega)).trans ((if_neg (by omega)).trans (if_neg hsound))

end

end

/-! A command becomes late while it is queued (R297): LATEPOL drops an ON, holds it or keeps it. -/

section
variable {i : Nat} (hc : (s.solCh n).q[i]? = some c) (hfresh : c.late = false)
  (ht : t = (s.setF (F.SOL_N_STAT_LATE n) 1).raise 1254) (hon : c.code ≤ 31)
include hc hfresh ht hon

theorem solLateAt_drops (hpol : s.f (F.SOL_N_CFG_LATEPOL n) = 1) :
    s.solLateAt n i false =
      (((t.setF (F.SOL_N_STAT_DROPPED n) 1).modSol n (fun x => { x with q := x.q.eraseIdx i })).raise 1255).solFin c.req stLate
        (leBytes 8 c.dtime) := by
  subst ht
  simp [State.solLateAt, hc, hfresh, when_neg, hon.not_gt, hpol]

theorem solLateAt_holds (hpol : s.f (F.SOL_N_CFG_LATEPOL n) = 2) :
    s.solLateAt n i false =
      (t.modSol n (fun x =>
        { x with q := x.q.set i { c with late := true, arr := false, held := true, req := none } })).solFail c.req 0x0B15 := by
  subst ht
  simp [State.solLateAt, hc, hfresh, when_neg, hon.not_gt, hpol]

theorem solLateAt_keeps (hpol : s.f (F.SOL_N_CFG_LATEPOL n) = 0) :
    s.solLateAt n i false = t.modSol n (fun x => { x with q := x.q.set i { c with late := true, arr := false } }) := by
  subst ht
  simp [State.solLateAt, hc, hfresh, when_neg, hon.not_gt, hpol]

end

end

/-! ON at a take point (R294, R299, R304, R305): of another profile than the one that holds. -/

section
variable {s : State} {n p : Nat} {rk : Option RKey} (hnew : ¬(s.solState n = 2 ∧ s.f (F.SOL_N_STAT_PROF n) = p))
include hnew

theorem solOn_undervoltage (huv : s.flag F.SOL_SUP_UV = true) :
    s.solOn n p rk = (s.setF (F.SOL_N_STAT_UVOFF n) 1).solFail rk 0x0B13 :=
  (if_neg hnew).trans (if_pos huv)

section
variable (huv : s.flag F.SOL_SUP_UV = false)
include huv

theorem solOn_gated (hheld : s.solHeld n = true) :
    s.solOn n p rk = (s.setF (F.SOL_N_STAT_GATED n) 1).solFin rk stInterlocked [] :=
  (if_neg hnew).trans ((if_neg (by simp [huv])).trans (if_pos hheld))

section
variable (hfree : s.solHeld n = false)
include hfree

theorem solOn_starts (hduty : s.solDutyOk n p = true) : s.solOn n p rk = s.solStart n p rk :=
  (if_neg hnew).trans ((if_neg (by simp [huv])).trans ((if_neg (by simp [hfree])).trans (if_neg (by simp [hduty]))))

theorem solOn_dutyRefused (hduty : s.solDutyOk n p = false) :
    s.solOn n p rk =
      (((s.setF (F.SOL_N_STAT_DUTYREF n) 1).setF (F.SOL_N_STAT_CAUSE n) 6).raise (1218 + 3 * n)).solFail rk 0x0B12 :=
  (if_neg hnew).trans ((if_neg (by simp [huv])).trans ((if_neg (by simp [hfree])).trans (if_pos (by simp [hduty]))))

end

end

end

/-! Phases, protection and VSOL (R293, R300, R303, R304, R307). -/

section
variable {s t : State} {n : Nat}

/-- A phase that ends by itself marks the search as past, and cuts nothing off. -/
theorem solNext_eq :
    s.solNext n =
      (s.modSol n (fun c => { c with kink := { c.kink with past := true } })).solBegin n (s.f (F.SOL_N_STAT_PHASE n) + 1) := by
  simp only [State.solNext, State.solKinkOver, Bool.false_and, Bool.or_false]

theorem solBegin_ends {k : Nat} (hend : 7 < k ∨ (s.solPhase n k).1 % 8 = 0) :
    s.solBegin n k =
      ((s.solCharge n).solDrain n ((s.solCharge n).f (F.SOL_N_CFG_REL_CL n)) false none).raise (1216 + 3 * n) :=
  if_pos hend

/-- A protection acts at once in a phase that runs or holds (R303), on a channel that acts under itself (R302). -/
theorem solTrip_lead {cause : Nat} (hlead : s.solLead n = n) (hdriven : s.solState n = 1 ∨ s.solState n = 2) :
    s.solTrip (s.solLead n) cause =
      (((((s.modSol n (fun c => { c with kink := { c.kink with past := true, cut := c.kink.cut || !c.kink.past } })).solSwitchOff
        n 3).setF (F.SOL_N_STAT_CAUSE n) cause).solLatch n).solFinOn n stFailed (leBytes 2 0x0B11)).solExam n :=
  (congrArg (s.solTrip · cause) hlead).trans (if_neg (by omega))

theorem solUv_off (ht : t = s.solFlush n 0x0B13) (hoff : t.solState n = 0) : s.solUv n = t := by
  subst ht
  simp [State.solUv, hoff]

/-- VSOL goes low on a channel that runs, holds or drains, with no latch pending. -/
theorem solUv_driven (ht : t = (s.solFlush n 0x0B13).setF (F.SOL_N_STAT_UVOFF n) 1)
    (hlow : 1 ≤ (s.solFlush n 0x0B13).solState n) (hhigh : (s.solFlush n 0x0B13).solState n ≤ 3)
    (hpend : (t.solCh n).pend = false) :
    s.solUv n = (t.solDrain n 3 false (some 4)).solFinOn n stFailed (leBytes 2 0x0B13) := by
  subst ht
  have hon : (s.solFlush n 0x0B13).solState n ≠ 0 := by omega
  simp only [State.solUv, if_neg hon, hlow, hhigh, and_self, if_true, hpend, Bool.false_eq_true, if_false]

end

end Sys2Proof.Machine
end

