-- ==== Sys2Proof/Proofs/SolenoidRows.lean ====
section
/-! PROOF. The rows of chapter 11 (R291 to R304): the request, the register writes and the events of a channel. -/
namespace Sys2Proof.Machine

/-! SOL_DRAIN_DONE (R293, R307). -/

section
variable {n : Fin 12} {s : State} (hdrain : s.solState n = 3)
include hdrain

theorem exec_solDrainDone_waitsOff (hnone : (s.solCh n).pend = false) :
    exec (.solDrainDone n) s =
      .next (((s.setF (F.SOL_N_STAT_STATE n) 4).modSol n (fun c => { c with reached := true })).solResult n) :=
  congrArg Host.Outcome.next ((if_neg (not_not.2 hdrain)).trans (if_neg (by simp [hnone])))

theorem exec_solDrainDone_latches {t : State} (hpend : (s.solCh n).pend = true)
    (ht : t = (s.modSol n (fun c => { c with pend := false })).solLatch n) :
    exec (.solDrainDone n) s =
      .next ((t.solFinOn n stFailed (leBytes 2 (if t.f (F.SOL_N_STAT_CAUSE n) = 7 then 0x0B10 else 0x0B11))).solExam n) := by
  subst ht
  exact congrArg Host.Outcome.next ((if_neg (not_not.2 hdrain)).trans (if_pos hpend))

end

/-! SOL_KINK_SAMPLE (R300 to R302). -/

section
variable {n : Fin 12} {i mean v : BitVec 16} {s t : State} (ht : t = s.solMeas n i.toNat mean.toNat v.toNat)
include ht

theorem exec_solKinkSample_noSearch (hidle : (t.solCh n).kink.mode = 0 ∨ (t.solCh n).kink.mode = 4) :
    exec (.solKinkSample n i mean v) s = .next t := by
  subst ht
  exact congrArg Host.Outcome.next (if_pos hidle)

section
variable {y : SolKink} (hruns : (t.solCh n).kink.mode = 1 ∨ (t.solCh n).kink.mode = 2 ∨ (t.solCh n).kink.mode = 3)
include hruns

theorem exec_solKinkSample_searches
    (hstep : (t.solCh n).kink.step (s.f (F.SOL_N_KCFG_KFILT n) + 1) (s.f (F.SOL_N_KCFG_KDIP n)) (s.f (F.SOL_N_KCFG_KVDROP n))
      (s.f (F.SOL_N_KWIN_KMIN n)) (s.f (F.SOL_N_KWIN_KMAX n)) (t.solCh n).regulating (t.solSum n SolCh.ownI) v.toInt =
        (y, none)) :
    exec (.solKinkSample n i mean v) s = .next (t.modSol n (fun c => { c with kink := y })) := by
  subst ht
  refine congrArg Host.Outcome.next ((if_neg (by omega)).trans ?_)
  simp only [hstep]

theorem exec_solKinkSample_ends {k : Option Nat}
    (hstep : (t.solCh n).kink.step (s.f (F.SOL_N_KCFG_KFILT n) + 1) (s.f (F.SOL_N_KCFG_KDIP n)) (s.f (F.SOL_N_KCFG_KVDROP n))
      (s.f (F.SOL_N_KWIN_KMIN n)) (s.f (F.SOL_N_KWIN_KMAX n)) (t.solCh n).regulating (t.solSum n SolCh.ownI) v.toInt =
        (y, some k)) :
    exec (.solKinkSample n i mean v) s =
      .next (((t.modSol n (fun c => { c with kink := y })).solKinkEnd n k).solKinkAct n) := by
  subst ht
  refine congrArg Host.Outcome.next ((if_neg (by omega)).trans ?_)
  simp only [hstep]

end

end

/-- Settles O30, row by row: SOL_RUN, the register writes, the queue, the phases of a profile, protection, samples, VSOL and the
duty buckets. Where the rules leave a point open, the clauses rest on the model's choices in logs 107 (the completions
0xFFFFFFFF, 0x0B10 and 0x0B11), 108 (the doubled bounds of a pair, DTIME of LATE) and 168 (a search cut off by a protection). -/
theorem solenoidCommandsActAsTheTablesSay : Obligations.SolenoidCommandsActAsTheTablesSay := by
  unfold Obligations.SolenoidCommandsActAsTheTablesSay
  refine ⟨?run, ?ctrlRow, ?ctrlOff, ?ctrlOn, ?code, ?clearRow, ?release, ?flush, ?clear, ?queueFull, ?queue, ?on, ?profileRow,
    ?profile, ?parJoins, ?parParts, ?dutyRow, ?duty, ?taken, ?early, ?take, ?due, ?lateRow, ?late, ?phaseEnd, ?next, ?begins,
    ?releaseLimit, ?chop, ?target, ?drainDone, ?drainLatch, ?latch, ?toff, ?sampleIdle, ?sample, ?overcurrent, ?openCoil,
    ?overtemp, ?overtempOther, ?meas, ?junction, ?undervoltage, ?uvOff, ?uvDriven, ?restart, ?bucket⟩
  case run =>
    exact fun r s x s1 n code t h hl hn hc ht hlt hcode hlimit hown =>
      exec_of_body rfl h (solRun_accepted hcode hl hn hc ht hlt hlimit hown)
  case ctrlRow => exact fun who en s hok => congrArg Host.Outcome.next (regDo_ok hok)
  case ctrlOff => exact fun s => solEn_off
  case ctrlOn => exact fun s => solEn_on
  case code =>
    rintro _ n code s cc pl hok rfl hown hcode hen
    exact congrArg Host.Outcome.next ((regDo_ok hok).trans (solCmdWrite_code hown hcode hen))
  case clearRow =>
    rintro _ n s cc pl hok rfl hlead
    exact congrArg Host.Outcome.next ((regDo_ok hok).trans (solCmdWrite_clear hlead))
  case release =>
    rintro _ n s cc pl hok rfl hown
    exact congrArg Host.Outcome.next ((regDo_ok hok).trans (solCmdWrite_release hown))
  case flush =>
    rintro _ n s cc pl hok rfl hown
    exact congrArg Host.Outcome.next ((regDo_ok hok).trans (solCmdWrite_flush hown))
  case clear => exact fun s n => ⟨solClear_fault, solClear_hot⟩
  case queueFull => exact fun s n c => solQueue_full
  case queue => exact fun s n c t => solQueue_queued
  case on =>
    exact fun s n p rk hnew => ⟨solOn_undervoltage hnew, solOn_gated hnew, solOn_starts hnew, solOn_dutyRefused hnew⟩
  case profileRow => exact fun who p k b s hok => congrArg Host.Outcome.next (regDo_ok hok)
  case profile => exact fun s p k b a ha => ⟨solProf_installed ha, solProf_refused ha⟩
  case parJoins =>
    rintro who n _ s hok rfl heven halone hfree hoff hoffNext
    exact congrArg Host.Outcome.next ((regDo_ok hok).trans (solPar_joins heven hoff hoffNext halone hfree))
  case parParts =>
    rintro who n _ s hok rfl heven hpair hoff hoffNext
    exact congrArg Host.Outcome.next ((regDo_ok hok).trans (solPar_parts heven hoff hoffNext hpair))
  case dutyRow => exact fun who n dmax dwin s hok => congrArg Host.Outcome.next (regDo_ok hok)
  case duty => exact fun s n dmax => solDuty_sameWindow
  case taken =>
    exact fun n s c hhead hst hheld hdue =>
      congrArg Host.Outcome.next (solTry_taken hhead (solTakePoint_of_state hst) (solFree_untimed hheld hdue))
  case early =>
    exact fun n s c d hhead hdue hearly hnot =>
      congrArg Host.Outcome.next (solTry_waits hhead (solFree_early hdue hearly hnot))
  case take =>
    exact fun s n c t ht => ⟨fun hoff _ hstays => solTake_off ht hoff (by omega), solTake_clear ht, solTake_onInFault ht,
      solTake_on ht⟩
  case due => exact fun n s => rfl
  case lateRow => exact fun n i s hover => congrArg Host.Outcome.next (if_pos hover)
  case late =>
    exact fun s n i c t hc hfresh ht hon =>
      ⟨solLateAt_drops hc hfresh ht hon, solLateAt_holds hc hfresh ht hon, solLateAt_keeps hc hfresh ht hon⟩
  case phaseEnd => exact fun n s hruns => congrArg Host.Outcome.next (if_pos hruns)
  case next => exact fun s n => solNext_eq
  case begins => exact fun s n k => solBegin_ends
  case releaseLimit => exact fun n s hruns hrel hdur => congrArg Host.Outcome.next (if_pos ⟨hruns, hrel, hdur⟩)
  case chop => exact fun n s hreg => congrArg Host.Outcome.next (if_pos hreg)
  case target => exact fun n s hreg => congrArg Host.Outcome.next (if_pos hreg)
  case drainDone => exact fun n s => exec_solDrainDone_waitsOff
  case drainLatch => exact fun n s t hdrain => exec_solDrainDone_latches hdrain
  case latch => exact fun s n => rfl
  case toff => exact fun n s hwaits => congrArg Host.Outcome.next (if_pos hwaits)
  case sampleIdle => exact fun n i mean v s t => exec_solKinkSample_noSearch
  case sample =>
    rintro n i mean v s t y (_ | k) ht hruns hstep
    · exact exec_solKinkSample_searches ht hruns hstep
    · exact exec_solKinkSample_ends ht hruns hstep
  case overcurrent => exact fun n s hlead hdriven => congrArg Host.Outcome.next (solTrip_lead hlead hdriven)
  case openCoil => exact fun n s hlead hdriven => congrArg Host.Outcome.next (solTrip_lead hlead hdriven)
  case overtemp =>
    rintro n s _ rfl hdriven
    exact congrArg Host.Outcome.next (if_pos hdriven)
  case overtempOther =>
    rintro n s _ rfl hnotRun hnotHold
    exact congrArg Host.Outcome.next (if_neg (not_or.2 ⟨hnotRun, hnotHold⟩))
  case meas =>
    rintro s n i mean v _ rfl
    rfl
  case junction => exact fun n tj warn hot s => rfl
  case undervoltage => exact fun s => rfl
  case uvOff => exact fun s n t => solUv_off
  case uvDriven => exact fun s n t => solUv_driven
  case restart => exact fun s => rfl
  case bucket => exact fun n s => rfl

end Sys2Proof.Machine
end
-- ==== Sys2Proof/Proofs/FieldChannels.lean ====
section
/-! PROOF. The field channels (R312 to R321, R329): the request, the registers, the filters, the protection of an output. -/
namespace Sys2Proof.Machine

/-! DIO_SET (R320). -/

section
variable {c : Ctx} {s : State} {n v : Nat} (hl : c.pl.length = 2) (hn : leAt c.pl 0 1 = n) (hv : leAt c.pl 1 1 = v) (hlt : n ≤ 63)
include hl hn hv hlt

/-- A request with a code of the table, on a channel that the access function does not hold: what is left is MODE, then the code. -/
theorem dioSet_accepted (hcode : v = 0 ∨ v = 1 ∨ v = 0x80) (hown : s.owner (resId 3 n) ≠ 5) :
    bodyDioSet c s =
      if s.dioMode n ≠ 3 then s.wrongState c.key (s.dioMode n)
      else if v = 0x80 then (s.dioClear n true).ok c.key []
      else if s.owner (resId 3 n) ≠ 0 then s.cmdConflict c.key (resId 3 n)
      else (s.dioCommand n (v == 1)).ok c.key [] := by
  subst hn hv
  exact (if_pos hl).trans ((if_neg (by omega)).trans ((if_neg (by omega)).trans (if_neg hown)))

theorem dioSet_commands (hcode : v = 0 ∨ v = 1) (hown : s.owner (resId 3 n) = 0) (hmode : s.dioMode n = 3) :
    bodyDioSet c s = (s.dioCommand n (v == 1)).ok c.key [] :=
  (dioSet_accepted hl hn hv hlt (by omega) (by omega)).trans
    ((if_neg (not_not.2 hmode)).trans ((if_neg (by omega)).trans (if_neg (not_not.2 hown))))

end

/-! DIO_CTRL.EN (R321). -/

/-- Nothing of the door or the key switch changes. -/
theorem accWatch_self (s : State) : s.accWatch s = s := by simp [State.accWatch]

theorem dioEn_new {s : State} {en : Bool} (hnew : en ≠ s.flag F.DIO_CTRL_EN) :
    s.dioEn en = forBelow 64 (s.setFlag F.DIO_CTRL_EN en) (fun n t => if en then t.dioFollow n else (t.dioFollow n).dioBlank n) :=
  if_neg hnew

theorem dioEn_same {s : State} {en : Bool} (hsame : en = s.flag F.DIO_CTRL_EN) : s.dioEn en = s := if_pos hsame

/-! DIO_n_CMD (R317, R329): an output in OFF or ON follows its command, one that protection holds does not. -/

section
variable {s : State} {n : Nat}

theorem dioFollow_off (hoff : s.dioState n = 0) (hon : s.dioOn n = true) : s.dioFollow n = s.dioEnter n 1 := by
  simp only [State.dioFollow, hoff, hon, if_true]

theorem dioFollow_on (hstate : s.dioState n = 1) (hoff : s.dioOn n = false) : s.dioFollow n = s.dioEnter n 0 := by
  simp only [State.dioFollow, hstate, hoff, Bool.false_eq_true, if_false]

theorem dioFollow_held (hheld : 2 ≤ s.dioState n) : s.dioFollow n = s := by
  unfold State.dioFollow
  split <;> first | rfl | omega

theorem dioClear_ends (htripped : s.dioState n = 2) (hcool : ¬(s.f (F.DIO_N_STAT_CAUSE n) = 2 ∧ (tblGet s.dio.ch n).hot = true)) :
    s.dioClear n false = s.dioEnter n (if s.flag F.DIO_STAT_UV && s.dioMode n == 3 then 3 else 0) :=
  if_neg (not_or.2 ⟨not_not.2 htripped, hcool⟩)

section
variable {who : Who} {out : Bool}

theorem dioCmdWrite_out (hown : s.owner (resId 3 n) = 0) : s.dioCmdWrite who n out false = s.dioCommand n out := if_pos hown

theorem dioCmdWrite_foreignOut (hown : s.owner (resId 3 n) ≠ 0) :
    s.dioCmdWrite who n out false = (s.conflict (resId 3 n) (whoOwner who) 1).busErr who := if_neg hown

theorem dioCmdWrite_clear (hown : s.owner (resId 3 n) = 0) :
    s.dioCmdWrite who n out true = (s.dioClear n false).dioCommand n out := (if_neg (by simp [hown])).trans (if_pos hown)

theorem dioCmdWrite_foreignClear (hown : s.owner (resId 3 n) ≠ 0) : s.dioCmdWrite who n out true = s.dioClear n true :=
  if_pos (by simp [hown])

end

/-! DIO_n_CFG (R312, R318). -/

section
variable {who : Who} {w : Nat}

theorem dioCfgWrite_taken (hacc : s.owner (resId 3 n) ≠ 5)
    (hpan : (s.owner (resId 3 n) = 1 ∨ s.owner (resId 3 n) = 2) → bits w 1 0 = 3) : s.dioCfgWrite who n w = s.dioCfg n w :=
  if_neg (not_or.2 ⟨hacc, fun h => h.2 (hpan h.1)⟩)

theorem dioCfgWrite_refused (hacc : s.owner (resId 3 n) = 5) :
    s.dioCfgWrite who n w = (s.conflict (resId 3 n) (whoOwner who) 1).busErr who := if_pos (.inl hacc)

/-- An input that stays one, with wire-break sensing: nothing but the register changes. -/
theorem dioCfg_input {t : State} (ht : t = s.setReg (A.DIO_N_CFG n) (toW (dioCfgWord n w)))
    (hwb : t.flag (F.DIO_N_CFG_WB n) = true) (hmode : t.dioMode n = 1 ∨ t.dioMode n = 2) (hold : s.dioMode n ≠ 3) :
    s.dioCfg n w = t := by
  subst ht
  have hnot0 : (s.setReg (A.DIO_N_CFG n) (toW (dioCfgWord n w))).dioMode n ≠ 0 := by omega
  have hnot3 : (s.setReg (A.DIO_N_CFG n) (toW (dioCfgWord n w))).dioMode n ≠ 3 := by omega
  unfold State.dioCfg
  dsimp only
  rw [if_neg (fun h => hold h.1), if_neg hnot0, if_neg (fun h => hnot3 h.2), if_pos hwb]

end

/-! The filters (R314, R315, R328). -/

theorem dioFilter_reaches {w r t : Nat} {raw val : Bool} (hne : raw ≠ val) (ht : 0 < t) (hw : w ≤ r + t) :
    dioFilter w r t raw val = (0, true) := (if_neg hne).trans (if_pos ⟨ht, hw⟩)

theorem dioFilter_counts {w r t : Nat} {raw val : Bool} (hne : raw ≠ val) (hw : r + t < w) :
    dioFilter w r t raw val = (r + t, false) := (if_neg hne).trans (if_neg (by omega))

theorem dioFilter_restarts {w r t : Nat} {raw val : Bool} (he : raw = val) (ht : 0 < t) :
    dioFilter w r t raw val = (0, false) := by
  rw [dioFilter, if_pos he, if_neg (by omega)]

section
variable (heval : s.dioEval n = true)
include heval

section
variable {v : Bool} {ticks k : Nat} {moved : Bool}
  (hfilter : dioFilter (s.f (F.DIO_N_CFG_FILT n) * 100) (tblGet s.dio.ch n).run ticks v (s.flag (F.DIO_N_STAT_IN n)) = (k, moved))
include hfilter

/-- An evaluated input: RAW and the filter's count, and the value where the filter passes. -/
theorem dioIn_evaluated {u : State} (hu : u = (s.setFlag (F.DIO_N_STAT_RAW n) v).modDio n (fun c => { c with run := k })) :
    s.dioIn n v ticks = if moved then u.dioVal n v else u := by
  subst hu
  simp only [State.dioIn, heval, hfilter, Bool.not_true, Bool.false_eq_true, if_false]

end

end

/-- Wire-break sensing of an evaluated input that no redundancy suspends: the filter's count, and WBRK where the filter passes. -/
theorem exec_dioWireBreakChange_evaluated {n : Fin 64} {broken moved : Bool} {ticks : BitVec 16} {k : Nat}
    (heval : s.dioEval n = true) (hwb : s.flag (F.DIO_N_CFG_WB n) = true) (hred : s.flag F.DIO_STAT_RED = false)
    (hfilter : dioFilter (max 10 (s.f (F.DIO_N_CFG_FILT n)) * 100) (tblGet s.dio.ch n).wrun ticks.toNat broken
      (s.flag (F.DIO_N_STAT_WBRK n)) = (k, moved)) :
    exec (.dioWireBreakChange n ⟨broken, ticks⟩) s =
      .next (if moved then ((s.modDio n (fun c => { c with wrun := k })).setFlag (F.DIO_N_STAT_WBRK n) broken).when broken
        (fun u => u.raise 1328) else s.modDio n (fun c => { c with wrun := k })) := by
  refine congrArg Host.Outcome.next ((if_neg (by simp [heval, hwb, hred])).trans ?_)
  simp only [hfilter]

/-! Readback and protection of an output (R316, R317). -/

theorem exec_dioReadbackMismatch_low {n : Fin 64} (hmode : s.dioMode n = 3) (hon : s.dioState n = 1)
    (hin : s.flag (F.DIO_N_STAT_IN n) = false) (hnew : s.flag (F.DIO_N_STAT_FB_ERR n) = false) :
    exec (.dioReadbackMismatch n) s = .next ((s.setF (F.DIO_N_STAT_FB_ERR n) 1).raise 1328) :=
  congrArg Host.Outcome.next ((if_neg (not_not.2 hmode)).trans ((if_pos ⟨hon, by simp [hin]⟩).trans (if_neg (by simp [hnew]))))

theorem exec_dioReadbackMismatch_high {n : Fin 64} (hmode : s.dioMode n = 3) (hoff : s.dioState n = 0) (hcmd : s.dioOn n = false)
    (hin : s.flag (F.DIO_N_STAT_IN n) = true) (hnew : s.flag (F.DIO_N_STAT_FB_HIGH n) = false) :
    exec (.dioReadbackMismatch n) s = .next ((s.setF (F.DIO_N_STAT_FB_HIGH n) 1).raise 1328) :=
  congrArg Host.Outcome.next ((if_neg (not_not.2 hmode)).trans ((if_neg (by simp [hoff])).trans
    ((if_pos ⟨hoff, by simp [hcmd], hin⟩).trans (if_neg (by simp [hnew])))))

theorem dioTrip_on {cause : Nat} (hon : s.dioState n = 1) :
    s.dioTrip n cause = (((s.dioEnter n 2).setF (F.DIO_N_STAT_CAUSE n) cause).incF (F.DIO_N_STAT_TRIPS n) 1).raise 1328 :=
  if_neg (not_not.2 hon)

end

end Sys2Proof.Machine
end

