-- ==== Sys2Proof/Proofs/MeasurementRows.lean ====
section
/-! PROOF. The measurement inputs (R324 to R326), and the rows of chapter 12. -/
namespace Sys2Proof.Machine

/-! NTC_CONVERSION (R324). -/

section
variable {s : State} {i v : Nat} (hen : s.flag F.MEAS_CTRL_EN = true)
include hen

theorem ntc_unused (hunused : s.f (F.MEAS_NTC_CFG_B i) = 0) :
    s.ntc i v = ((s.setF (F.MEAS_NTC_VAL_TEMP i) 0).setF (F.MEAS_NTC_VAL_FLAGS i) 0).setF (F.MEAS_NTC_RES_OHM i) 0 :=
  (if_neg (by simp [hen])).trans (if_pos hunused)

section
variable (hused : s.f (F.MEAS_NTC_CFG_B i) ≠ 0) (hold : s.f (F.MEAS_NTC_VAL_FLAGS i) / 8 = 0)
include hused hold

theorem ntc_open (hopen : 490000 * ntcRest v < 10000 * v) :
    s.ntc i v = ((s.setF (F.MEAS_NTC_RES_OHM i) (ntcOhm v)).setF (F.MEAS_NTC_VAL_FLAGS i) 8).raise (1344 + i) := by
  have hshort : ¬ 10000 * v < 20 * ntcRest v := by omega
  simp [State.ntc, hen, hused, hold, hopen, hshort, b2n]

theorem ntc_converts {q : Int} (hnotShort : 20 * ntcRest v ≤ 10000 * v) (hnotOpen : 10000 * v ≤ 490000 * ntcRest v)
    (htemp : ntcTemp (10000 * v) (ntcRest v * (10 * s.f (F.MEAS_NTC_CFG_R25 i))) (s.f (F.MEAS_NTC_CFG_B i)) = some q) :
    s.ntc i v =
      ((s.setF (F.MEAS_NTC_RES_OHM i) (ntcOhm v)).setF (F.MEAS_NTC_VAL_FLAGS i) 1).setF (F.MEAS_NTC_VAL_TEMP i) (umod 16 q) := by
  simp [State.ntc, hen, hused, hold, Nat.not_lt.2 hnotShort, Nat.not_lt.2 hnotOpen, htemp, b2n]

end

end

/-- Settles O31, row by row: the request, the registers, the filters, the protection of an output, the measurements. Where the
rules leave a point open, the clauses rest on the model's choices: log 109 (an output that comes to MODE 3 at a low VDIO, the
identifiers 0x300 and 0x301) and log 171 (the rounding of OHM). -/
theorem fieldChannelAndMeasurementCommandsActAsTheTablesSay :
    Obligations.FieldChannelAndMeasurementCommandsActAsTheTablesSay := by
  unfold Obligations.FieldChannelAndMeasurementCommandsActAsTheTablesSay
  refine ⟨?set, ?setClear, ?setMode, ?ctrl, ?ctrlSame, ?out, ?clear, ?clearForeign, ?outForeign, ?command, ?clearEnds, ?cfg,
    ?cfgRefused, ?cfgInput, ?broken, ?mended, ?wireCounts, ?filter, ?readbackLow, ?readbackHigh, ?undervoltage, ?restart, ?red,
    ?trip, ?overtemp, ?currentLimit, ?limitExpiry, ?inCounts, ?inChanges, ?inputRow, ?ntcUnused, ?ntcOpen, ?ntcConverts, ?supply,
    ?read, ?readUnknown⟩
  case set =>
    exact fun r s x s1 n v h hl hn hv hlt hcode hown hmode => exec_of_body rfl h (dioSet_commands hl hn hv hlt hcode hown hmode)
  case setClear =>
    exact fun r s x s1 n h hl hn hv hlt hown hmode =>
      exec_of_body rfl h ((dioSet_accepted hl hn hv hlt (by omega) hown).trans ((if_neg (not_not.2 hmode)).trans (if_pos rfl)))
  case setMode =>
    exact fun r s x s1 n v h hl hn hv hlt hcode hown hmode =>
      exec_of_body rfl h ((dioSet_accepted hl hn hv hlt (by omega) hown).trans (if_pos hmode))
  case ctrl =>
    exact fun who en s hok hnew => congrArg Host.Outcome.next ((regDo_ok hok).trans (congrArg (State.accWatch · s) (dioEn_new hnew)))
  case ctrlSame =>
    exact fun who en s hok hsame => congrArg Host.Outcome.next
      ((regDo_ok hok).trans ((congrArg (State.accWatch · s) (dioEn_same hsame)).trans (accWatch_self s)))
  case out => exact fun who n out s hok hown => congrArg Host.Outcome.next ((regDo_ok hok).trans (dioCmdWrite_out hown))
  case clear => exact fun who n out s hok hown => congrArg Host.Outcome.next ((regDo_ok hok).trans (dioCmdWrite_clear hown))
  case clearForeign =>
    exact fun who n out s hok hown => congrArg Host.Outcome.next ((regDo_ok hok).trans (dioCmdWrite_foreignClear hown))
  case outForeign =>
    exact fun who n out s hok hown => congrArg Host.Outcome.next ((regDo_ok hok).trans (dioCmdWrite_foreignOut hown))
  case command =>
    rintro s n out _ rfl
    exact ⟨dioFollow_off, dioFollow_on, dioFollow_held⟩
  case clearEnds => exact fun s n => dioClear_ends
  case cfg =>
    exact fun who n value s hok hacc hpan => congrArg Host.Outcome.next ((regDo_ok hok).trans (dioCfgWrite_taken hacc hpan))
  case cfgRefused =>
    exact fun who n value s hok hacc => congrArg Host.Outcome.next ((regDo_ok hok).trans (dioCfgWrite_refused hacc))
  case cfgInput => exact fun s n w t => dioCfg_input
  case broken =>
    rintro n _ ticks s k heval hwb hred rfl hfilter
    exact exec_dioWireBreakChange_evaluated heval hwb hred hfilter
  case mended =>
    rintro n _ ticks s k heval hwb hred rfl hfilter
    exact exec_dioWireBreakChange_evaluated heval hwb hred hfilter
  case wireCounts => exact fun n broken ticks s k => exec_dioWireBreakChange_evaluated
  case filter => exact fun w r t raw val => ⟨dioFilter_reaches, dioFilter_counts, dioFilter_restarts⟩
  case readbackLow => exact fun n s => exec_dioReadbackMismatch_low
  case readbackHigh => exact fun n s => exec_dioReadbackMismatch_high
  case undervoltage => exact fun s => rfl
  case restart => exact fun s => rfl
  case red => exact fun red s => rfl
  case trip => exact fun s n cause => dioTrip_on
  case overtemp => exact fun n hot s => rfl
  case currentLimit => exact fun n limit s hon => congrArg Host.Outcome.next (if_pos hon)
  case limitExpiry => exact fun n s hlim => congrArg Host.Outcome.next (if_pos hlim)
  case inCounts => exact fun s n v ticks k heval hfilter => dioIn_evaluated heval hfilter rfl
  case inChanges =>
    rintro s n v ticks k heval hfilter _ rfl hedge
    rw [dioIn_evaluated heval hfilter rfl, if_pos rfl, State.dioVal, hedge]
  case inputRow => exact fun n level ticks s => rfl
  case ntcUnused => exact fun i v s hen hunused => congrArg Host.Outcome.next (ntc_unused hen hunused)
  case ntcOpen => exact fun i v s hen hused hopen hold => congrArg Host.Outcome.next (ntc_open hen hused hold hopen)
  case ntcConverts =>
    exact fun i v s q hen hused hshort hopen htemp hold =>
      congrArg Host.Outcome.next (ntc_converts hen hused hold hshort hopen htemp)
  case supply =>
    rintro i mv s _ _ _ _ _ _ _ rfl hen rfl rfl rfl rfl rfl rfl
    exact congrArg Host.Outcome.next (if_neg (by simp [hen]))
  case read =>
    exact fun r s x s1 v fl h hl hget => exec_of_body rfl h ((if_pos hl).trans (by simp only [hget]))
  case readUnknown =>
    exact fun r s x s1 h hl hget => exec_of_body rfl h ((if_pos hl).trans (by simp only [hget]))

end Sys2Proof.Machine
end
-- ==== Sys2Proof/Proofs/LedDrive.lean ====
section
/-! PROOF. The LED sinks (R331 to R342): the request and the registers, the period start, the on-phase check, the headroom. -/
namespace Sys2Proof.Machine

/-! LED_SET (R334), LED_CTRL.EN (R336), LED_GRP_g_MASK (R341). -/

theorem ledSet_accepted {c : Ctx} {s : State} {n cur : Nat} (hl : c.pl.length = 5) (hn : leAt c.pl 0 1 = n)
    (hcur : leAt c.pl 1 2 = cur) (hlt : n ≤ 31) (hbits : bits cur 15 13 = 0) (hown : s.owner (resId 4 n) = 0) :
    bodyLedSet c s = (s.ledCommand n cur (leAt c.pl 3 2)).ok c.key [] := by
  subst hn hcur
  exact (if_pos hl).trans ((if_neg (by omega)).trans ((if_neg (not_not.2 hbits)).trans (if_neg (not_not.2 hown))))

section
variable {s : State}

/-- A write that only the Steward's own resource takes. -/
theorem ownedWrite_own {who : Who} {id : Nat} {f : State → State} (hown : s.owner id = 0) : s.ownedWrite who id f = f s :=
  if_pos hown

theorem ownedWrite_foreign {who : Who} {id : Nat} {f : State → State} (hown : s.owner id ≠ 0) :
    s.ownedWrite who id f = (s.conflict id (whoOwner who) 1).busErr who := if_neg hown

/-! A period start (R331, R332, R338). -/

section
variable {n : Nat}

theorem ledPeriod_idle (hidle : s.flag F.LED_CTRL_EN = false ∨ s.flag F.LED_STAT_OT = true ∨ s.ledMatrix n = true) :
    s.ledPeriod n = s := if_pos (by simpa using hidle)

section
variable {e d : Nat} {t : State} (hen : s.flag F.LED_CTRL_EN = true) (hcool : s.flag F.LED_STAT_OT = false)
  (hsink : s.ledMatrix n = false) (he : e = s.ledEff (s.f (F.LED_N_CMD_CUR n) % 4096) (s.f (F.LED_N_CFG_CURVE n)))
  (ht : t = (s.setF (F.LED_N_STAT_ECODE n) (min 4095 e)).setFlag (F.LED_N_STAT_COMP_SAT n) (decide (4095 < e)))
  (hd : d = s.f (F.LED_N_CMD_DUTY n))
include hen hcool hsink he ht hd

/-- A new range blanks the period. -/
theorem ledPeriod_newRange (hrange : bits (s.f (F.LED_N_CMD_CUR n)) 12 12 ≠ (t.ledCh n).range) :
    s.ledPeriod n = ((t.setF (F.LED_N_STAT_BLANK n) 1).ledOff n).modLed n (fun c => { c with
      range := bits (s.f (F.LED_N_CMD_CUR n)) 12 12, duty := d,
      acc := if d ≠ (t.ledCh n).duty ∧ (d = 0 ∨ d = 0xFFFF) then 0 else (t.ledCh n).acc }) := by
  subst he ht hd
  exact (if_neg (by simp [hen, hcool, hsink])).trans (if_pos hrange)

/-- A duty between 0 and full: the steps of the on-time, with the remainder carried. -/
theorem ledPeriod_pwm {a : Nat} (hrange : bits (s.f (F.LED_N_CMD_CUR n)) 12 12 = (t.ledCh n).range) (hpos : 0 < d)
    (hlt : d < 0xFFFF) (hfree : t.flag (F.LED_N_STAT_GOFF n) = false)
    (ha : a = (t.ledCh n).acc + d * (50000000 / s.f F.LED_CTRL_PWM_HZ)) :
    s.ledPeriod n = ((t.setF (F.LED_N_STAT_BLANK n) 0).setFlag (F.LED_N_STAT_ON n) (decide (0 < a / 65536))).modLed n
      (fun c => { c with duty := d, acc := a % 65536, on := a / 65536, until_ := s.now + a / 65536 * 20 }) := by
  have hruns : ¬((!s.flag F.LED_CTRL_EN) = true ∨ s.flag F.LED_STAT_OT = true ∨ s.ledMatrix n = true) := by
    simp [hen, hcool, hsink]
  have hne0 : ¬ d = 0 := by omega
  have hneFull : ¬ d = 0xFFFF := by omega
  have hpwm : (d != 0 && d != 0xFFFF) = true := by simp [hne0, hneFull]
  unfold State.ledPeriod
  rw [if_neg hruns]
  dsimp only
  rw [← he, ← ht, ← hd, if_neg (not_not.2 hrange), hpwm, hfree]
  simp only [hne0, hneFull, or_self, and_false, Bool.false_eq_true, if_true, if_false, ← ha]

end

end

theorem ledEff_none (s : State) (code : Nat) : s.ledEff code 0 = code := if_pos (.inl rfl)

theorem ledEff_curve {code c : Nat} (hlo : 1 ≤ c) (hhi : c ≤ 4) :
    s.ledEff code c = code * (tblFind s.led.fac (c - 1)).getD 1024 / 1024 := if_neg (by omega)

/-! The on-phase check (R337, R339). -/

section
variable {n mv : Nat} {low drop : Bool}

theorem ledCheck_idle (hidle : s.flag (F.LED_N_STAT_BLANK n) = true ∨ (s.ledCh n).on < 500 ∨ s.ledMatrix n = true ∨
    s.flag F.LED_CTRL_EN = false) : s.ledCheck n mv low drop = s := if_pos (by simpa using hidle)

/-- A check whose counts both stand elsewhere than at the fourth: no group fails. -/
theorem ledCheck_counts {t u : State} {o h : Streak} (hlit : s.flag (F.LED_N_STAT_BLANK n) = false) (hlong : 500 ≤ (s.ledCh n).on)
    (hsink : s.ledMatrix n = false) (hen : s.flag F.LED_CTRL_EN = true)
    (ht : t = ((s.setF (F.LED_N_VS_MV n) mv).setFlag (F.LED_N_STAT_DROPOUT n) drop).when (!s.flag (F.LED_N_STAT_OPEN n))
      (fun q => q.ledHr mv))
    (hduty : (s.ledCh n).duty ≠ 0) (hcode : 40 ≤ t.f (F.LED_N_STAT_ECODE n)) (hsupply : t.flag F.LED_STAT_VLOW = false)
    (ho : o = (s.ledCh n).openS.count low)
    (hh : h = (s.ledCh n).shortS.count (s.f (F.LED_N_CFG_SHORT_MV n) != 0 && decide (s.f (F.LED_N_CFG_SHORT_MV n) * 100 < mv)))
    (hu : u = ((t.modLed n (fun c => { c with openS := o, shortS := h })).setFlag (F.LED_N_STAT_OPEN n)
      (o.flag (s.flag (F.LED_N_STAT_OPEN n)))).setFlag (F.LED_N_STAT_SHORT n) (h.flag (s.flag (F.LED_N_STAT_SHORT n))))
    (homet : o.met ≠ 4) (hhmet : h.met ≠ 4) :
    s.ledCheck n mv low drop =
      if (o.flag (s.flag (F.LED_N_STAT_OPEN n)) && !s.flag (F.LED_N_STAT_OPEN n)) ||
        (h.flag (s.flag (F.LED_N_STAT_SHORT n)) && !s.flag (F.LED_N_STAT_SHORT n)) then u.raise (1376 + n) else u := by
  subst ht ho hh hu
  exact (if_neg (by simp [hlit, hsink, hen, Nat.not_lt.2 hlong])).trans
    ((if_neg (by simp [hduty, hsupply, Nat.not_lt.2 hcode])).trans (if_neg (not_or.2 ⟨homet, hhmet⟩)))

end

theorem streakFlag_set {x : Streak} {old : Bool} (hmet : 4 ≤ x.met) : x.flag old = true := if_pos hmet

theorem streakFlag_clears {x : Streak} {old : Bool} (hmet : x.met < 4) (hmissed : 4 ≤ x.missed) : x.flag old = false :=
  (if_neg (Nat.not_le.2 hmet)).trans (if_pos hmissed)

theorem streakFlag_keeps {x : Streak} {old : Bool} (hmet : x.met < 4) (hmissed : x.missed < 4) : x.flag old = old :=
  (if_neg (Nat.not_le.2 hmet)).trans (if_neg (Nat.not_le.2 hmissed))

/-! The headroom update (R337) and the curves (R338). -/

section
variable {v : Option (BitVec 16)} {vlow : Bool} {t : State}
  (ht : t = { s with led := { s.led with hr := none } }.setFlag F.LED_STAT_VLOW vlow)
include ht

theorem exec_ledHeadroomUpdate_off (hoff : t.flag F.LED_CTRL_FB_EN = false) :
    exec (.ledHeadroomUpdate v vlow) s = .next ((t.setF F.LED_STAT_FBCODE 0).setF F.LED_STAT_HRLOW 0) := by
  subst ht
  exact congrArg Host.Outcome.next (if_pos (by simp [hoff]))

/-- A headroom that is short by 100 mV or more below the largest code: the code goes up by one, and HRLOW is not set. -/
theorem exec_ledHeadroomUpdate_up {q : Nat} (hon : t.flag F.LED_CTRL_FB_EN = true) (hleast : s.ledLeast v = some q)
    (hlow : q + 100 < t.f F.LED_HR_HR_MV) (hroom : t.f F.LED_STAT_FBCODE + 1 < t.f F.LED_HR_FB_MAX) :
    exec (.ledHeadroomUpdate v vlow) s =
      .next ((t.setF F.LED_STAT_FBCODE (t.f F.LED_STAT_FBCODE + 1)).setFlag F.LED_STAT_HRLOW false) := by
  have hmin : min (t.f F.LED_STAT_FBCODE + 1) (t.f F.LED_HR_FB_MAX) = t.f F.LED_STAT_FBCODE + 1 := by omega
  have hmax : (t.f F.LED_STAT_FBCODE + 1 == t.f F.LED_HR_FB_MAX) = false := by simp; omega
  simp only [exec, execLedHeadroomUpdate, hleast, ← ht, hon, hlow, hmin, hmax, Bool.not_true, Bool.false_eq_true, if_true,
    if_false, Bool.false_and, State.when]

theorem exec_ledHeadroomUpdate_unmeasured (hon : t.flag F.LED_CTRL_FB_EN = true) (hnone : s.ledLeast v = none) :
    exec (.ledHeadroomUpdate v vlow) s =
      .next ((t.setF F.LED_STAT_FBCODE (t.f F.LED_STAT_FBCODE)).setFlag F.LED_STAT_HRLOW (t.flag F.LED_STAT_HRLOW)) := by
  simp only [exec, execLedHeadroomUpdate, hnone, ← ht, hon, Bool.not_true, Bool.false_eq_true, if_false, Bool.and_not_self,
    State.when]

end

theorem ledCurve_valid {c : Nat} {q : Int} (hpoints : (s.ledPoints c).isEmpty = false) (hrising : rising (s.ledPoints c) = true)
    (hsrc : s.ledTemp (s.f (F.LED_CURVE_CFG_SRC c)) = some q) :
    s.ledCurve c = { s.setFbit F.LED_STAT_CERR c false with
      led := { (s.setFbit F.LED_STAT_CERR c false).led with
        fac := tblSet (s.setFbit F.LED_STAT_CERR c false).led.fac c (curveAt q (s.ledPoints c)) } } := by
  refine (if_neg (by simp [hpoints, hrising])).trans ?_
  simp only [hsrc]

end

end Sys2Proof.Machine
end

