-- ==== Sys2Proof/Proofs/LedRows.lean ====
section
/-! PROOF. The matrix (R343 to R346), conflicts of ownership and GPIO edges (R481, R483), and the rows of chapter 13. -/
namespace Sys2Proof.Machine

/-! LED_LMX_CTRL.EN (R343): the matrix is switched on when no sink of it has a group and each can be claimed. -/

section
variable {s : State}

theorem lmxEn_same {en : Bool} (hsame : en = s.flag F.LED_LMX_CTRL_EN) : s.lmxEn en = s.setF F.LED_LMX_CTRL_ENERR 0 :=
  if_pos hsame

section
variable (hoff : s.flag F.LED_LMX_CTRL_EN = false) (hfree : (List.range 16).find? (fun i => (s.ledGroup (16 + i)).isSome) = none)
include hoff hfree

theorem lmxEn_claims (hclaim : lmxIds.find? (fun id => !s.claimable 3 id) = none) :
    s.lmxEn true =
      forBelow 16 (((lmxIds.foldl (fun t id => t.setOwner id 3) s).setFlag F.LED_LMX_CTRL_EN true).setF F.LED_LMX_CTRL_ENERR 0)
        (fun i t => t.ledOff (16 + i)) := by
  simp only [State.lmxEn, hoff, hfree, hclaim, Bool.true_eq_false, if_true, if_false]

theorem lmxEn_refused {id : Nat} (hclaim : lmxIds.find? (fun id => !s.claimable 3 id) = some id) :
    s.lmxEn true = (s.setF F.LED_LMX_CTRL_ENERR 1).conflict id 3 0 := by
  simp only [State.lmxEn, hoff, hfree, hclaim, Bool.true_eq_false, if_true, if_false]

end

theorem lmxEn_releases (hon : s.flag F.LED_LMX_CTRL_EN = true)
    (hown : (List.range 256).any (fun i => s.owner (resId 5 i) != 0) = false) :
    s.lmxEn false = ((s.releaseAll 3 lmxIds).setFlag F.LED_LMX_CTRL_EN false).setF F.LED_LMX_CTRL_ENERR 0 :=
  (if_neg (by simp [hon])).trans ((if_neg Bool.false_ne_true).trans (if_neg (by simp [hown])))

section
variable {who : Who} {r q : Nat} {v : Word}

theorem lmxLvl_own (hown : (List.range 4).find? (fun k => s.owner (resId 5 (16 * r + 4 * q + k)) != 0) = none) :
    s.lmxLvl who r q v = s.setReg (A.LED_LMX_LVL r q) v := by
  simp only [State.lmxLvl, hown]

theorem lmxLvl_foreign {k : Nat}
    (hown : (List.range 4).find? (fun k => s.owner (resId 5 (16 * r + 4 * q + k)) != 0) = some k) :
    s.lmxLvl who r q v = (s.conflict (resId 5 (16 * r + 4 * q + k)) (whoOwner who) 1).busErr who := by
  simp only [State.lmxLvl, hown]
  exact ownedWrite_foreign (by simpa using List.find?_some hown)

end

/-! The scan (R344 to R346). -/

section
variable (hruns : s.lmxRuns = true)
include hruns

theorem exec_lmxFrameStart_runs {lvl : Tbl Nat}
    (hlvl : lvl = ((List.range 256).map (fun i =>
      (i, s.f ⟨A.LED_LMX_LVL (i / 16) (i % 16 / 4), 8 * (i % 4) + 7, 8 * (i % 4)⟩))).filter (fun x => x.2 != 0)) :
    exec .lmxFrameStart s =
      .next (forBelow 16 { s with led := { s.led with lvl := lvl, row := 0 } } (fun c t =>
        { t with led := { t.led with col := tblSet t.led.col c (⟨bits (t.f (F.LED_LMX_COL_CUR c)) 12 12,
          min 4095 (t.ledEff (t.f (F.LED_LMX_COL_CUR c) % 4096) (t.f (F.LED_LMX_COL_CURVE c))),
          bits (t.f (F.LED_LMX_COL_CUR c)) 12 12 != (tblGet t.led.col c).range⟩ : LmxCol) } })) := by
  subst hlvl
  exact congrArg Host.Outcome.next (if_neg (by simp [hruns]))

theorem exec_lmxRowSlot_turn {r : Fin 16} {mv : BitVec 256} {below : BitVec 16} (hrow : s.led.row = r.val) :
    exec (.lmxRowSlot r ⟨mv, below⟩) s =
      .next (forBelow 16 { s with led := { s.led with row := r.val + 1 } } (fun c t =>
        t.lmxElem r c (mv.extractLsb' (16 * c) 16).toNat (below.getLsbD c))) :=
  congrArg Host.Outcome.next (if_neg (by simp [hruns, hrow]))

theorem exec_lmxRowOvercurrent_runs : exec .lmxRowOvercurrent s = .next ((s.setF F.LED_LMX_CTRL_FAULT 1).raise 1416) :=
  congrArg Host.Outcome.next (if_neg (by simp [hruns]))

end

theorem exec_gpioEdge_new {n : Fin 32} {level : Bool} {t : State} (hnew : s.fbit F.GPIO_IN_IN n ≠ level)
    (ht : t = s.setFbit F.GPIO_IN_IN n level) :
    exec (.gpioEdge n level) s =
      .next (if (level && bit (s.f (F.GPIO_N_CFG_EDGE n)) 0) || (!level && bit (s.f (F.GPIO_N_CFG_EDGE n)) 1)
        then t.raise (1472 + n.val) else t) := by
  subst ht
  exact congrArg Host.Outcome.next (if_neg hnew)

/-! A refused act (R481): recorded while no other is, and counted. -/

section
variable {id rq path : Nat}

theorem conflict_first (hnone : s.flag F.PINOWN_CONF_INFO_VALID = false) :
    s.conflict id rq path = ((((((s.setF F.PINOWN_CONF_RES_RES id).setF F.PINOWN_CONF_INFO_REQ rq).setF
      F.PINOWN_CONF_INFO_HOLDER (s.owner id)).setF F.PINOWN_CONF_INFO_PATH path).setF F.PINOWN_CONF_INFO_VALID 1).incF
      F.PINOWN_CONFCNT_COUNT 1).raise 1456 := by
  simp only [State.conflict, hnone, Bool.false_eq_true, if_false]

theorem conflict_later (hheld : s.flag F.PINOWN_CONF_INFO_VALID = true) :
    s.conflict id rq path = (s.incF F.PINOWN_CONFCNT_COUNT 1).raise 1456 := by
  simp only [State.conflict, hheld, if_true]

end

end

/-- Settles O32, row by row: the requests and registers of the sinks, the period, the checks, the groups, the matrix, PINOWN and
the GPIO channels. Where the rules leave a point open, the clauses rest on the model's choices: log 199 (a written current is
cut to 13 bits), 110 (a group CLEAR needs ownership, a refused matrix enable sets ENERR) and 137 (FB_EN = 0 clears FBCODE and HRLOW). -/
theorem ledAndOwnershipCommandsActAsTheTablesSay : Obligations.LedAndOwnershipCommandsActAsTheTablesSay := by
  unfold Obligations.LedAndOwnershipCommandsActAsTheTablesSay
  refine ⟨?set, ?on, ?off, ?cmd, ?cmdForeign, ?maskRefused, ?mask, ?groupClear, ?lmxSame, ?lmxClaims, ?lmxRefused, ?lmxReleases,
    ?lmxClear, ?level, ?levelForeign, ?periodIdle, ?periodRange, ?periodPwm, ?eff, ?checkIdle, ?check, ?streak, ?headroomOff,
    ?headroomUp, ?least, ?headroomNone, ?curves, ?curve, ?overtemp, ?recover, ?frame, ?slot, ?elem, ?overcurrent, ?qres, ?gpio,
    ?gpioForeign, ?edge, ?conflictFirst, ?conflictLater⟩
  case set =>
    exact fun r s x s1 n cur h hl hn hcur hlt hbits hown =>
      exec_of_body rfl h (ledSet_accepted hl hn hcur hlt hbits hown)
  case on =>
    rintro who _ s hok rfl
    exact congrArg Host.Outcome.next (regDo_ok hok)
  case off =>
    rintro who _ s hok rfl
    exact congrArg Host.Outcome.next (regDo_ok hok)
  case cmd => exact fun who n cur duty s hok hown => congrArg Host.Outcome.next ((regDo_ok hok).trans (ownedWrite_own hown))
  case cmdForeign =>
    exact fun who n cur duty s hok hown => congrArg Host.Outcome.next ((regDo_ok hok).trans (ownedWrite_foreign hown))
  case maskRefused => exact fun who g mask s hok hbad => congrArg Host.Outcome.next ((regDo_ok hok).trans (if_pos hbad))
  case mask =>
    exact fun who g mask s hok hgood =>
      congrArg Host.Outcome.next ((regDo_ok hok).trans (if_neg (fun hbad => Bool.false_ne_true (hgood.symm.trans hbad))))
  case groupClear => exact fun who g s hok hown => congrArg Host.Outcome.next ((regDo_ok hok).trans (ownedWrite_own hown))
  case lmxSame => exact fun who en s hok hsame => congrArg Host.Outcome.next ((regDo_ok hok).trans (lmxEn_same hsame))
  case lmxClaims =>
    rintro who _ s hok rfl hoff hfree hclaim
    exact congrArg Host.Outcome.next ((regDo_ok hok).trans (lmxEn_claims hoff hfree hclaim))
  case lmxRefused =>
    rintro who _ s id hok rfl hoff hfree hclaim
    exact congrArg Host.Outcome.next ((regDo_ok hok).trans (lmxEn_refused hoff hfree hclaim))
  case lmxReleases =>
    rintro who _ s hok rfl hon hown
    exact congrArg Host.Outcome.next ((regDo_ok hok).trans (lmxEn_releases hon hown))
  case lmxClear => exact fun who s hok => congrArg Host.Outcome.next (regDo_ok hok)
  case level => exact fun who r q value s hok hown => congrArg Host.Outcome.next ((regDo_ok hok).trans (lmxLvl_own hown))
  case levelForeign =>
    exact fun who r q value s k hok hown => congrArg Host.Outcome.next ((regDo_ok hok).trans (lmxLvl_foreign hown))
  case periodIdle => exact fun n s hidle => congrArg Host.Outcome.next (ledPeriod_idle hidle)
  case periodRange =>
    exact fun n s e t d hen hcool hsink he ht hd hrange =>
      congrArg Host.Outcome.next (ledPeriod_newRange hen hcool hsink he ht hd hrange)
  case periodPwm =>
    exact fun n s e t d a hen hcool hsink he ht hd hrange hpos hlt hfree ha =>
      congrArg Host.Outcome.next (ledPeriod_pwm hen hcool hsink he ht hd hrange hpos hlt hfree ha)
  case eff => exact fun s code c => ⟨ledEff_none s code, ledEff_curve⟩
  case checkIdle => exact fun n mv low drop s hidle => congrArg Host.Outcome.next (ledCheck_idle hidle)
  case check =>
    exact fun n mv low drop s t o h u hlit hlong hsink hen ht hduty hcode hsupply ho hh hu homet hhmet =>
      congrArg Host.Outcome.next (ledCheck_counts hlit hlong hsink hen ht hduty hcode hsupply ho hh hu homet hhmet)
  case streak => exact fun x old => ⟨rfl, rfl, streakFlag_set, streakFlag_clears, streakFlag_keeps⟩
  case headroomOff => exact fun v vlow s t => exec_ledHeadroomUpdate_off
  case headroomUp => exact fun v vlow s t q ht hen hq hhr hmax => exec_ledHeadroomUpdate_up ht hen hq hhr hmax
  case least => exact fun s mv => ⟨rfl, rfl⟩
  case headroomNone => exact fun v vlow s t => exec_ledHeadroomUpdate_unmeasured
  case curves => exact fun s => rfl
  case curve => exact fun s c t => ledCurve_valid
  case overtemp => exact fun s => rfl
  case recover => exact fun s => rfl
  case frame => exact fun s lvl hruns hlvl => exec_lmxFrameStart_runs hruns hlvl
  case slot => exact fun r mv below s hruns hrow => exec_lmxRowSlot_turn hruns hrow
  case elem => exact fun s r c mv lo hdark => if_pos hdark
  case overcurrent => exact fun s => exec_lmxRowOvercurrent_runs
  case qres => exact fun who res s hok => congrArg Host.Outcome.next (regDo_ok hok)
  case gpio => exact fun who n out s hok hown => congrArg Host.Outcome.next ((regDo_ok hok).trans (ownedWrite_own hown))
  case gpioForeign =>
    exact fun who n out s hok hown => congrArg Host.Outcome.next ((regDo_ok hok).trans (ownedWrite_foreign hown))
  case edge => exact fun n level s t => exec_gpioEdge_new
  case conflictFirst => exact fun s id rq path => conflict_first
  case conflictLater => exact fun s id rq path => conflict_later

end Sys2Proof.Machine
end
-- ==== Sys2Proof/Proofs/AccessRequests.lean ====
section
/-! PROOF. The requests and the registers of the access function (R355, R361 to R366). -/
namespace Sys2Proof.Machine

/-! Requests (R361, R365, R366). -/

section
variable {c : Ctx} {s : State}

section
variable {z p : Nat} (hl : c.pl.length = 2) (hz : leAt c.pl 0 1 = z) (hp : leAt c.pl 1 1 = p) (hzone : z ≤ 2) (hpoint : p ≤ 15)
include hl hz hp hzone hpoint

theorem accCalibrate_begins (hempty : s.accCalRefused z = false) (hidle : s.acc.cal = none) (hant : s.flag F.ACC_GATE_ANTF = false) :
    bodyAccCalibrate c s = ((s.modAcc (fun a => { a with
      cal := some { (default : AccCal) with key := c.key, zone := z, point := p } })).stopServed 5).accept c.key := by
  subst hz hp
  exact (if_pos hl).trans ((if_neg (by omega)).trans ((if_neg (by omega)).trans
    ((if_neg (by simp [hempty, hidle])).trans (if_neg (by simp [hant])))))

theorem accCalibrate_refused (hbusy : s.accCalRefused z = true ∨ s.acc.cal ≠ none) :
    bodyAccCalibrate c s = s.wrongState c.key (s.f F.ACC_GATE_OCC) := by
  subst hz hp
  exact (if_pos hl).trans ((if_neg (by omega)).trans ((if_neg (by omega)).trans
    (if_pos (by simpa [Option.isSome_iff_ne_none] using hbusy))))

end

theorem accCalRefused_iff {z : Nat} :
    s.accCalRefused z = true ↔ z ≠ 0 ∧ (s.occCount ≠ 0 ∨ s.flag F.ACC_GATE_OVF = true) := by
  simp [State.accCalRefused]

section
variable (hl : c.pl.length = 1)
include hl

section
variable (harm : leVal c.pl = 1) (hidle : s.f F.ACC_GATE_OVR = 0)
include harm hidle

/-- A request to arm an idle override: what is left is the key switch's channel. -/
theorem accOverride_arm :
    bodyAccOverride c s = if !s.flag F.ACC_DOOR_KEY_EN then s.wrongState c.key (s.f F.ACC_GATE_OVR) else
      ((s.modAcc (fun a => { a with armUntil := s.now + s.f F.ACC_DOOR_ARM_S * 1000000000 })).accOvr 1).ok c.key [] :=
  (if_pos hl).trans ((if_neg (by omega)).trans ((if_pos harm).trans (if_neg (not_not.2 hidle))))

theorem accOverride_arms (hkey : s.flag F.ACC_DOOR_KEY_EN = true) :
    bodyAccOverride c s =
      ((s.modAcc (fun a => { a with armUntil := s.now + s.f F.ACC_DOOR_ARM_S * 1000000000 })).accOvr 1).ok c.key [] :=
  (accOverride_arm hl harm hidle).trans (if_neg (by simp [hkey]))

theorem accOverride_noKey (hkey : s.flag F.ACC_DOOR_KEY_EN = false) : bodyAccOverride c s = s.wrongState c.key 0 :=
  (accOverride_arm hl harm hidle).trans ((if_pos (by simp [hkey])).trans (congrArg (s.wrongState c.key) hidle))

end

section
variable (hrelease : leVal c.pl = 0)
include hrelease

theorem accOverride_releases (hactive : s.f F.ACC_GATE_OVR = 2) (hkey : s.accKey = true) :
    bodyAccOverride c s = s.accRelease.ok c.key [] :=
  (if_pos hl).trans ((if_neg (by omega)).trans ((if_neg (by omega)).trans ((if_pos hactive).trans
    (congrArg (State.ok · c.key []) (if_pos hkey)))))

theorem accOverride_disarms (harmed : s.f F.ACC_GATE_OVR = 1) : bodyAccOverride c s = (s.accOvr 0).ok c.key [] :=
  (if_pos hl).trans ((if_neg (by omega)).trans ((if_neg (by omega)).trans ((if_neg (by omega)).trans (if_pos harmed))))

end

end

section
variable {tid fl : Nat} (hl : c.pl.length = 6) (htid : leAt c.pl 0 4 = tid) (hfl : leAt c.pl 4 1 = fl) (hres : leAt c.pl 5 1 = 0)
  (hsite : tid / 2 ^ 20 = s.f F.ACC_CTRL_SITE) (hflags : fl < 8)
include hl htid hfl hres hsite hflags

theorem tokenEnrol_known {k : Nat} (htok : s.accTok (tid % 2 ^ 20) = some k) :
    bodyTokenEnrol c s =
      (if bit fl 0 then s.accTokPut k (tid % 2 ^ 20) fl else s.accTokPut k 0 0).ok c.key (leBytes 2 k) := by
  subst htid hfl
  refine (if_pos hl).trans ((if_neg (not_not.2 hsite)).trans ((if_neg (by omega)).trans ((if_neg (not_not.2 hres)).trans ?_)))
  simp only [htok]

theorem tokenEnrol_takes {k : Nat} (htok : s.accTok (tid % 2 ^ 20) = none) (hen : bit fl 0 = true)
    (hfree : firstBelow 256 (fun j => !s.flag (F.ACC_TOK_EN j)) = some k) :
    bodyTokenEnrol c s = (s.accTokPut k (tid % 2 ^ 20) fl).ok c.key (leBytes 2 k) := by
  subst htid hfl
  refine (if_pos hl).trans ((if_neg (not_not.2 hsite)).trans ((if_neg (by omega)).trans ((if_neg (not_not.2 hres)).trans ?_)))
  simp only [htok, hen, hfree, Bool.not_true, Bool.false_eq_true, if_false]

theorem tokenEnrol_unknown (htok : s.accTok (tid % 2 ^ 20) = none) (hen : bit fl 0 = false) :
    bodyTokenEnrol c s = s.notFound c.key := by
  subst htid hfl
  refine (if_pos hl).trans ((if_neg (not_not.2 hsite)).trans ((if_neg (by omega)).trans ((if_neg (not_not.2 hres)).trans ?_)))
  simp only [htok, hen, Bool.not_false, if_true]

end

end

/-! ACC_CTRL (R355): the master key is loaded from a slot. -/

section
variable {s t : State} {w : Nat}
  (ht : t = ((s.setF F.ACC_CTRL_KSLOT (bits w 7 2)).setF F.ACC_CTRL_SITE (bits w 19 8)).setF F.ACC_CTRL_FORCED_BLIND (bits w 20 20))
include ht

theorem accCtrl_off (hoff : bit w 0 = false) :
    s.accCtrl w = ((t.setF F.ACC_CTRL_EN 0).accEnd 4).modAcc (fun a => { a with
      scan := false, waiting := false, code := false, txen := false, poll := false, pollRep := 0 }) := by
  subst ht
  exact if_neg (by simp [hoff])

section
variable (hon : bit w 0 = true)
include hon

theorem accCtrl_noKey (hslot : t.slot (bits w 7 2) = none) : s.accCtrl w = t.setF F.ACC_CTRL_KERR 1 := by
  subst ht
  exact (if_pos hon).trans (by simp only [hslot])

theorem accCtrl_on {x : KeySlot} {k : List Byte} (hslot : t.slot (bits w 7 2) = some x) (hkey : t.busKey (bits w 7 2) 9 = some k)
    (htyp : x.typ = 0) :
    s.accCtrl w = ((t.setF F.ACC_CTRL_EN 1).setF F.ACC_CTRL_KERR 0).modAcc (fun a => { a with key := k }) := by
  subst ht
  exact (if_pos hon).trans (by simp only [hslot, hkey, if_pos htyp])

end

end

/-! ACC_LOCK (R362): the lock's actuator is claimed. -/

section
variable {s t : State} {w : Nat} (hfree : s.flag F.ACC_LOCK_EN = false)
  (ht : t = ((s.setF F.ACC_LOCK_KIND (bits w 1 1)).setF F.ACC_LOCK_CH (bits w 7 2)).setF F.ACC_LOCK_PROF (bits w 12 8))
include hfree ht

/-- No lock to release: what is left is EN, the channel and the claim. -/
theorem accLock_unlocked :
    s.accLock w =
      if !bit w 0 then t
      else if (if bits w 1 1 = 0 then 48 else 12) ≤ bits w 7 2 then t.setF F.ACC_LOCK_CERR 1
      else if !t.claimable 5 (accLockRes (bits w 1 1) (bits w 7 2)) || t.accLockIlk (bits w 1 1) (bits w 7 2) then
        (t.setF F.ACC_LOCK_CERR 1).conflict (accLockRes (bits w 1 1) (bits w 7 2)) 5 0
      else ((t.setF F.ACC_LOCK_EN 1).setF F.ACC_LOCK_CERR 0).setOwner (accLockRes (bits w 1 1) (bits w 7 2)) 5 := by
  subst ht
  simp only [State.accLock, hfree, Bool.false_eq_true, if_false]

theorem accLock_off (hoff : bit w 0 = false) : s.accLock w = t := (accLock_unlocked hfree ht).trans (if_pos (by simp [hoff]))

section
variable (hon : bit w 0 = true) (hch : bits w 7 2 < 12)
include hon hch

theorem accLock_refused (hbad : t.claimable 5 (accLockRes (bits w 1 1) (bits w 7 2)) = false ∨
    t.accLockIlk (bits w 1 1) (bits w 7 2) = true) :
    s.accLock w = (t.setF F.ACC_LOCK_CERR 1).conflict (accLockRes (bits w 1 1) (bits w 7 2)) 5 0 :=
  (accLock_unlocked hfree ht).trans ((if_neg (by simp [hon])).trans ((if_neg (by split <;> omega)).trans
    (if_pos (by simpa using hbad))))

theorem accLock_claims (hclaim : t.claimable 5 (accLockRes (bits w 1 1) (bits w 7 2)) = true)
    (hilk : t.accLockIlk (bits w 1 1) (bits w 7 2) = false) :
    s.accLock w = ((t.setF F.ACC_LOCK_EN 1).setF F.ACC_LOCK_CERR 0).setOwner (accLockRes (bits w 1 1) (bits w 7 2)) 5 :=
  (accLock_unlocked hfree ht).trans ((if_neg (by simp [hon])).trans ((if_neg (by split <;> omega)).trans
    (if_neg (by simp [hclaim, hilk]))))

end

end

theorem accCalWrite_taken {s : State} {z p : Nat} {high : Bool} {v : Word} (hempty : s.accCalRefused z = false) :
    s.accCalWrite z p high v = s.setReg (if high then A.ACC_CAL_H z p else A.ACC_CAL_L z p) v := if_neg (by simp [hempty])

/-- Neither the door nor the key switch changed (R361 to R363). -/
theorem accWatch_unchanged {s s0 : State} (hdoor : s.accDoor = s0.accDoor) (hkey : s.accKey = s0.accKey) : s.accWatch s0 = s := by
  simp [State.accWatch, hdoor, hkey]

end Sys2Proof.Machine
end

