-- ==== Sys2Proof/Proofs/AccessScans.lean ====
section
/-! PROOF. Scans, codes, replies, the occupancy table and the transponder poll (R352 to R359, R364), and the rows of chapter 14. -/
namespace Sys2Proof.Machine

variable {s : State}

/-! A scan that is due, and its codes (R352, R353). -/

section
variable (hen : s.flag F.ACC_CTRL_EN = true)
include hen

theorem exec_accScanDue_waits (hbusy : s.acc.scan = true ∨ s.acc.poll = true) :
    exec .accScanDue s = .next (s.modAcc (fun a => { a with waiting := true })) :=
  congrArg Host.Outcome.next ((if_neg (by simp [hen])).trans (if_pos (by simpa using hbusy)))

theorem exec_accScanDue_starts (hscan : s.acc.scan = false) (hpoll : s.acc.poll = false) :
    exec .accScanDue s = .next s.accStart :=
  congrArg Host.Outcome.next ((if_neg (by simp [hen])).trans (if_neg (by simp [hscan, hpoll])))

section
variable (htrng : s.flag F.ENCL_STAT_TRNG = true) (hscan : s.acc.scan = true) (hcode : s.acc.code = false)
include htrng hscan hcode

theorem exec_accCodeStart_sends (hrep : s.acc.rep = 0) : exec .accCodeStart s = .next (s.accCode (s.f F.ACC_SCAN_MEAS)) :=
  congrArg Host.Outcome.next (if_pos (by simp [hen, htrng, hscan, hcode, hrep]))

theorem exec_accRepeatDue_sends (hrep : s.acc.rep < 3) :
    exec .accRepeatDue s = .next ((s.modAcc (fun a => { a with rep := a.rep + 1 })).accCode (s.f F.ACC_SCAN_MEAS)) :=
  congrArg Host.Outcome.next (if_pos (by simp [hen, htrng, hscan, hcode, hrep]))

end

end

section
variable {a : Fin 8} (hcode : s.acc.code = true) (hmeas : s.inMeas a = true)
include hcode hmeas

theorem exec_accQuietWindowEnd_measured {mv : BitVec 12} :
    exec (.accQuietWindowEnd a mv) s =
      .next (if s.f F.ACC_IF_AMB_MV < mv.toNat then (s.setF (F.ACC_ANT_STAT_AMB a) mv.toNat).accDisturb
        else s.setF (F.ACC_ANT_STAT_AMB a) mv.toNat) :=
  congrArg Host.Outcome.next (if_neg (by simp [hcode, hmeas]))

theorem exec_accBurstEnd_measured {ma : BitVec 11} {t : State} {ipk d : Nat}
    (ht : t = (s.setF (F.ACC_ANT_STAT_IMEAS a) ma.toNat).accAnt a ma.toNat) (hipk : ipk = s.f (F.ACC_ANT_CFG_IPK a))
    (hd : d = if ipk < ma.toNat then ma.toNat - ipk else ipk - ma.toNat) :
    exec (.accBurstEnd a ma) s = .next (if ipk * s.f F.ACC_IF_IPCT < d * 100 then t.accDisturb else t) := by
  subst ht hd hipk
  exact congrArg Host.Outcome.next (if_neg (by simp [hcode, hmeas]))

end

theorem accDisturb_idle (hidle : s.acc.code = false) : s.accDisturb = s := if_pos (by simp [hidle])

theorem accDisturb_repeats {t : State} (hcode : s.acc.code = true)
    (ht : t = (s.raise 1430).modAcc (fun a => { a with
      code := false, txen := false, cal := a.cal.map (fun c => { c with disturbed := min 255 (c.disturbed + 1) }) }))
    (hrep : t.acc.rep < 3) : s.accDisturb = t := by
  subst ht
  exact (if_neg (by simp [hcode])).trans (if_pos hrep)

/-! A reply in a code (R354 to R358, R362). -/

section
variable {fr : List Byte} {rssi : Nat}

theorem accReply_idle (hidle : s.acc.code = false) : s.accReply fr rssi = s := if_pos (by simp [hidle])

section
variable {q : State} (hcode : s.acc.code = true) (hq : q = s.setF F.ACC_LAST_RSSI (min 255 rssi))
include hcode hq

theorem accReply_discards (hbad : q.accFrameOk fr = false) : s.accReply fr rssi = q := by
  subst hq
  exact (if_neg (by simp [hcode])).trans (if_pos (by simp [hbad]))

section
variable (hok : q.accFrameOk fr = true)
include hok

theorem accReply_fails (hmac : (fr.drop 30).take 8 ≠ q.accMac fr) : s.accReply fr rssi = q.accFail := by
  have hgood : ((fr.drop 30).take 8 == q.accMac fr) = false := by simpa using hmac
  subst hq
  refine (if_neg (by simp [hcode])).trans ((if_neg (by simp [hok])).trans ?_)
  simp only [hgood, Bool.false_and, Bool.false_eq_true, if_false]

/-- The first authenticated reply of a serial in its scan: it is classified, and acts on the table and, in zone DOOR, on the
session. -/
theorem accReply_acts {k zone : Nat} {t u : State} (hmac : (fr.drop 30).take 8 = q.accMac fr) (hdist : bit (leAt fr 5 1) 0 = false)
    (htok : q.accTok (leAt fr 0 4 % 2 ^ 20) = some k) (hinCode : q.acc.inCode.contains (leAt fr 0 4 % 2 ^ 20) = false)
    (hinScan : q.acc.inScan.contains (leAt fr 0 4 % 2 ^ 20) = false) (hzone : zone = q.accClassify (q.accM fr))
    (ht : t = (q.accLast (leAt fr 0 4) zone 0).modAcc (fun a => { a with
      inCode := leAt fr 0 4 % 2 ^ 20 :: a.inCode, inside := a.inside || zone == 1,
      calSeen := if q.flag (F.ACC_TOK_CAL k) then q.accM fr :: a.calSeen else a.calSeen }))
    (hu : u = (t.occReply (leAt fr 0 4 % 2 ^ 20) zone).modAcc (fun a => { a with inScan := leAt fr 0 4 % 2 ^ 20 :: a.inScan })) :
    s.accReply fr rssi = if zone = 2 then u.accSession (u.flag (F.ACC_TOK_LOCK k)) none else u := by
  have hgood : ((fr.drop 30).take 8 == q.accMac fr) = true := by simpa using hmac
  have hlast : (q.accLast (leAt fr 0 4) zone 0).acc.inScan = q.acc.inScan := rfl
  have hseen : t = (q.accLast (leAt fr 0 4) zone 0).modAcc (fun a => { a with
      inCode := leAt fr 0 4 % 2 ^ 20 :: a.inCode, inside := a.inside || zone == 1,
      calSeen := if q.flag (F.ACC_TOK_CAL k) && !a.inScan.contains (leAt fr 0 4 % 2 ^ 20) then q.accM fr :: a.calSeen
        else a.calSeen }) := by
    rw [ht, State.modAcc, State.modAcc, hlast, hinScan, Bool.not_false, Bool.and_true]
  unfold State.accReply
  rw [if_neg (by simp [hcode])]
  dsimp only
  rw [← hq, if_neg (by simp [hok]), hgood, hdist, Bool.and_false, if_neg Bool.false_ne_true, if_pos rfl, htok]
  dsimp only
  rw [hinCode, hinScan, if_neg Bool.false_ne_true, if_neg Bool.false_ne_true, ← hzone, ← hseen, ← hu]

end

end

end

/-! The occupancy table (R358) and failures (R356). -/

theorem occReply_unlisted {serial : Nat} (hnone : s.occFind serial = none) :
    s.occReply serial 1 = s.occTake 1 serial ∧ s.occReply serial 2 = s ∧ s.occReply serial 3 = s ∧ s.occReply serial 0 = s := by
  simp [State.occReply, hnone]

theorem occTake_lowest {serial k st : Nat} (hfree : firstBelow 16 (fun k => s.f (F.ACC_OCC_STATE k) == 0) = some k) :
    s.occTake st serial = s.setOcc k st serial 0 0 := by
  simp only [State.occTake, hfree]

section
variable {t : State} (ht : t = (s.incF F.ACC_LOCKOUT_FAILS 1).raise 1428) (hfree : t.flag F.ACC_STAT_LOCKOUT = false)
  {fs : List Nat} (hfs : fs = t.now :: t.acc.fails.filter (fun q => decide (t.now ≤ q + 60000000000)))
include ht hfree hfs

theorem accFail_counts (hfew : fs.length < 5) : s.accFail = t.modAcc (fun a => { a with fails := fs }) := by
  subst ht hfs
  exact (if_neg (by simp [hfree])).trans (if_pos hfew)

/-- The fifth failure within 60 s locks out. -/
theorem accFail_locks (hmany : 5 ≤ fs.length) :
    s.accFail = (((t.modAcc (fun a => { a with fails := fs })).setF F.ACC_STAT_LOCKOUT 1).modAcc (fun a => { a with
      lockUntil := (t.modAcc (fun a => { a with fails := fs })).now +
        (t.modAcc (fun a => { a with fails := fs })).f F.ACC_LOCKOUT_LO_MIN * 60000000000 })).levelEdge 1429 false := by
  subst ht hfs
  exact (if_neg (by simp [hfree])).trans (if_neg (Nat.not_lt.2 hmany))

end

/-! The end of a scan (R352, R358, R359, R365). -/

theorem exec_accScanEnd_code {t : State} (hcode : s.acc.code = true)
    (ht : t = (((s.setF F.ACC_STAT_FDIST 0).accMisses).accStartup).calScan) :
    exec .accScanEnd s = .next ((t.modAcc (fun a => { a with
      txen := false, poll := t.flag F.ACC_TP_EN && !t.flag F.ACC_STAT_SESS && !t.accDoor, pollRep := 0 })).accOver) := by
  subst ht
  exact congrArg Host.Outcome.next (if_neg (by simp [hcode]))

theorem accOver_ends (hnone : s.acc.waiting = false ∨ s.acc.poll = true) :
    s.accOver = s.modAcc (fun a => { a with scan := false, code := false }) := by
  refine if_neg ?_
  rcases hnone with h | h <;> simp [h]

theorem accOver_starts (hwaits : s.acc.waiting = true) (hpoll : s.acc.poll = false) : s.accOver = s.accStart :=
  if_pos (by simp [hwaits, hpoll])

theorem calScan_none (hnone : s.acc.cal = none) : s.calScan = s := by
  simp only [State.calScan, hnone]

theorem accEnd_open {why : Nat} (hopen : s.flag F.ACC_STAT_SESS = true) :
    s.accEnd why = (((s.accActuator false).setF F.ACC_STAT_SESS 0).setF F.ACC_STAT_LASTEND why).raise 1427 := if_pos hopen

theorem accEnd_none {why : Nat} (hnone : s.flag F.ACC_STAT_SESS = false) : s.accEnd why = s := if_neg (by simp [hnone])

/-! The transponder poll (R353, R364). -/

section
variable {mv : Nat} {fr : List Byte}

theorem accPoll_idle (hidle : s.acc.poll = false ∨ s.flag F.ACC_CTRL_EN = false) : s.accPoll mv fr = s :=
  if_pos (by simpa using hidle)

theorem accPollDist_repeats (hrep : s.acc.pollRep < 3) :
    s.accPollDist = (s.raise 1430).modAcc (fun a => { a with code := false, txen := false, pollRep := a.pollRep + 1 }) := if_pos hrep

section
variable (hpoll : s.acc.poll = true) (hen : s.flag F.ACC_CTRL_EN = true)
include hpoll hen

theorem accPoll_noRandom (htrng : s.flag F.ENCL_STAT_TRNG = false) : s.accPoll mv fr = s.accPollEnd :=
  (if_neg (by simp [hpoll, hen])).trans (if_pos (by simp [htrng]))

section
variable (htrng : s.flag F.ENCL_STAT_TRNG = true)
include htrng

theorem accPoll_loud (hloud : s.f F.ACC_IF_AMB_MV < mv) : s.accPoll mv fr = (s.accCode 0x80).accPollDist :=
  (if_neg (by simp [hpoll, hen])).trans ((if_neg (by simp [htrng])).trans (if_pos hloud))

section
variable (hquiet : mv ≤ s.f F.ACC_IF_AMB_MV)
include hquiet

theorem accPoll_noAnswer (hbad : (s.accCode 0x80).accFrameOk fr = false) : s.accPoll mv fr = (s.accCode 0x80).accPollEnd :=
  (if_neg (by simp [hpoll, hen])).trans ((if_neg (by simp [htrng])).trans ((if_neg (Nat.not_lt.2 hquiet)).trans
    (if_pos (by simp [hbad]))))

section
variable (hok : (s.accCode 0x80).accFrameOk fr = true) (hmac : (fr.drop 30).take 8 = (s.accCode 0x80).accMac fr)
include hok hmac

theorem accPoll_disturbed (hdist : bit (leAt fr 5 1) 0 = true) : s.accPoll mv fr = (s.accCode 0x80).accPollDist :=
  (if_neg (by simp [hpoll, hen])).trans ((if_neg (by simp [htrng])).trans ((if_neg (Nat.not_lt.2 hquiet)).trans
    ((if_neg (by simp [hok])).trans (if_pos (by simp [hmac, hdist])))))

theorem accPoll_known {k : Nat} (hdist : bit (leAt fr 5 1) 0 = false)
    (htok : (s.accCode 0x80).accTok (leAt fr 0 4 % 2 ^ 20) = some k) :
    s.accPoll mv fr = (((s.accCode 0x80).accLast (leAt fr 0 4) 2 1).accSession ((s.accCode 0x80).flag (F.ACC_TOK_LOCK k))
      (some (leAt fr 0 4 % 2 ^ 20))).accPollEnd := by
  have hgood : ((fr.drop 30).take 8 == (s.accCode 0x80).accMac fr) = true := by simpa using hmac
  refine (if_neg (by simp [hpoll, hen])).trans ((if_neg (by simp [htrng])).trans ((if_neg (Nat.not_lt.2 hquiet)).trans
    ((if_neg (by simp [hok])).trans ((if_neg (by simp [hdist])).trans ?_))))
  simp only [hgood, if_true, htok]

end

end

end

end

end

/-- Settles O33, row by row: the requests, the registers, scans and codes, replies, the table, the poll. Where the rules leave a
point open, the clauses rest on the model's choices: log 183 (WRONG_STATE while a calibration runs), 138 (TOKEN_ENROL with EN = 0,
CERR), 174 and 175 (the end of a poll, and codes without the random generator) and 111 (the door, SESS_END). -/
theorem accessControlCommandsActAsTheTablesSay : Obligations.AccessControlCommandsActAsTheTablesSay := by
  unfold Obligations.AccessControlCommandsActAsTheTablesSay
  refine ⟨?calibrate, ?calibrateRefused, ?calRefused, ?arm, ?armNoKey, ?release, ?disarm, ?releaseEq, ?enrolKnown, ?enrolNew,
    ?enrolUnknown, ?tokPut, ?status, ?ctrlRow, ?ctrl, ?lockRow, ?lock, ?doorRow, ?door, ?calWrite, ?calWriteRefused, ?scanOff,
    ?scanWaits, ?scanStarts, ?codeStart, ?repeatDue, ?quietEnd, ?burstEnd, ?disturbIdle, ?disturb, ?replyIdle, ?replyDiscards,
    ?replyFails, ?replyActs, ?occReply, ?occTake, ?fail, ?scanEnd, ?scanEndIdle, ?leaves, ?lockoutEnd, ?failAge, ?sessTimeout,
    ?sessTimeoutNone, ?armExpiry, ?armExpiryNone, ?ovr, ?pollIdle, ?pollNoRandom, ?pollLoud, ?pollEnd, ?pollDist, ?pollNoAnswer,
    ?pollDisturbed, ?pollKnown, ?watch⟩
  case calibrate =>
    exact fun r s x s1 z p h hl hz hp hzone hpoint hempty hidle hant =>
      exec_of_body rfl h (accCalibrate_begins hl hz hp hzone hpoint hempty hidle hant)
  case calibrateRefused =>
    exact fun r s x s1 z p h hl hz hp hzone hpoint hbusy =>
      exec_of_body rfl h (accCalibrate_refused hl hz hp hzone hpoint hbusy)
  case calRefused => exact fun s z => accCalRefused_iff
  case arm => exact fun r s x s1 h hl harm hidle hkey => exec_of_body rfl h (accOverride_arms hl harm hidle hkey)
  case armNoKey => exact fun r s x s1 h hl harm hidle hkey => exec_of_body rfl h (accOverride_noKey hl harm hidle hkey)
  case release =>
    exact fun r s x s1 h hl hrelease hactive hkey => exec_of_body rfl h (accOverride_releases hl hrelease hactive hkey)
  case disarm => exact fun r s x s1 h hl hrelease harmed => exec_of_body rfl h (accOverride_disarms hl hrelease harmed)
  case releaseEq => exact fun s => rfl
  case enrolKnown =>
    exact fun r s x s1 tid fl k h hl htid hfl hres hsite hflags htok =>
      exec_of_body rfl h (tokenEnrol_known hl htid hfl hres hsite hflags htok)
  case enrolNew =>
    exact fun r s x s1 tid fl k h hl htid hfl hres hsite hflags htok hen hfree =>
      exec_of_body rfl h (tokenEnrol_takes hl htid hfl hres hsite hflags htok hen hfree)
  case enrolUnknown =>
    exact fun r s x s1 tid fl h hl htid hfl hres hsite hflags htok hen =>
      exec_of_body rfl h (tokenEnrol_unknown hl htid hfl hres hsite hflags htok hen)
  case tokPut =>
    rintro s k serial fl _ rfl
    rfl
  case status => exact fun r s x s1 h hl => exec_of_body rfl h (if_pos hl)
  case ctrlRow => exact fun who value s hok => congrArg Host.Outcome.next (regDo_ok hok)
  case ctrl => exact fun s w t ht => ⟨accCtrl_off ht, accCtrl_noKey ht, fun hon x k => accCtrl_on ht hon⟩
  case lockRow => exact fun who value s hok => congrArg Host.Outcome.next (regDo_ok hok)
  case lock => exact fun s w t hfree ht => ⟨accLock_off hfree ht, accLock_refused hfree ht, accLock_claims hfree ht⟩
  case doorRow => exact fun who value s hok => congrArg Host.Outcome.next (regDo_ok hok)
  case door => exact fun s w => rfl
  case calWrite =>
    exact fun who z p high value s hok hempty => congrArg Host.Outcome.next ((regDo_ok hok).trans (accCalWrite_taken hempty))
  case calWriteRefused =>
    exact fun who z p high value s hok hrefused => congrArg Host.Outcome.next ((regDo_ok hok).trans (if_pos hrefused))
  case scanOff => exact fun s hoff => congrArg Host.Outcome.next (if_pos (by simp [hoff]))
  case scanWaits => exact fun s => exec_accScanDue_waits
  case scanStarts => exact fun s => exec_accScanDue_starts
  case codeStart => exact fun s => exec_accCodeStart_sends
  case repeatDue => exact fun s => exec_accRepeatDue_sends
  case quietEnd => exact fun a mv s hcode hmeas => exec_accQuietWindowEnd_measured hcode hmeas
  case burstEnd => exact fun a ma s t ipk d hcode hmeas => exec_accBurstEnd_measured hcode hmeas
  case disturbIdle => exact fun s => accDisturb_idle
  case disturb => exact fun s t => accDisturb_repeats
  case replyIdle => exact fun frame rssi s hidle => congrArg Host.Outcome.next (accReply_idle hidle)
  case replyDiscards =>
    exact fun frame rssi s t hcode ht hbad => congrArg Host.Outcome.next (accReply_discards hcode ht hbad)
  case replyFails =>
    exact fun frame rssi s t hcode ht hok hmac => congrArg Host.Outcome.next (accReply_fails hcode ht hok hmac)
  case replyActs =>
    exact fun frame rssi s q k zone t u hcode hq hok hmac hdist htok hinCode hinScan hzone ht hu => congrArg Host.Outcome.next
      (accReply_acts hcode hq hok hmac hdist htok hinCode hinScan hzone ht hu)
  case occReply => exact fun s serial => occReply_unlisted
  case occTake => exact fun s serial k => occTake_lowest
  case fail => exact fun s t ht hfree fs hfs => ⟨accFail_counts ht hfree hfs, accFail_locks ht hfree hfs⟩
  case scanEnd => exact fun s t => exec_accScanEnd_code
  case scanEndIdle => exact fun s hidle => congrArg Host.Outcome.next (if_pos (by simp [hidle]))
  case leaves => exact fun s => ⟨accOver_ends, accOver_starts, calScan_none⟩
  case lockoutEnd => exact fun s => rfl
  case failAge => exact fun s => rfl
  case sessTimeout => exact fun s hopen => congrArg Host.Outcome.next (accEnd_open hopen)
  case sessTimeoutNone => exact fun s hnone => congrArg Host.Outcome.next (accEnd_none hnone)
  case armExpiry => exact fun s harmed => congrArg Host.Outcome.next (if_pos harmed)
  case armExpiryNone => exact fun s hnot => congrArg Host.Outcome.next (if_neg hnot)
  case ovr => exact fun s q => rfl
  case pollIdle => exact fun mv frame s hidle => congrArg Host.Outcome.next (accPoll_idle hidle)
  case pollNoRandom =>
    exact fun mv frame s hpoll hen htrng => congrArg Host.Outcome.next (accPoll_noRandom hpoll hen htrng)
  case pollLoud =>
    exact fun mv frame s hpoll hen htrng hloud => congrArg Host.Outcome.next (accPoll_loud hpoll hen htrng hloud)
  case pollEnd => exact fun s => rfl
  case pollDist => exact fun s => accPollDist_repeats
  case pollNoAnswer =>
    exact fun mv frame s hpoll hen htrng hquiet hbad =>
      congrArg Host.Outcome.next (accPoll_noAnswer hpoll hen htrng hquiet hbad)
  case pollDisturbed =>
    exact fun mv frame s hpoll hen htrng hquiet hok hmac hdist =>
      congrArg Host.Outcome.next (accPoll_disturbed hpoll hen htrng hquiet hok hmac hdist)
  case pollKnown =>
    exact fun mv frame s k hpoll hen htrng hquiet hok hmac hdist htok =>
      congrArg Host.Outcome.next (accPoll_known hpoll hen htrng hquiet hok hmac hdist htok)
  case watch => exact fun s s0 => accWatch_unchanged

end Sys2Proof.Machine
end
-- ==== Sys2Proof/Proofs/Mailbox.lean ====
section
/-! PROOF. The Enclave mailbox (R379, R382, R383, R389 to R392): a command write, the rotation, each operation's checks, its end. -/
namespace Sys2Proof.Machine

/-! A write of MB_c_CMD (R382): the row queues its operation, or is a bus error. -/

section
variable {who : Who} {c : Fin 3} {op : Nat} {slot : Fin 64} {auto : Bool} {n : BitVec 11} {s : State}

theorem next_mbRow_queued (hok : mbAllowed who c = true) (hfree : s.flag (F.MB_STAT_BUSY c) = false) :
    (.next (s.mbRow who c op slot auto n) : Host.Outcome State Fault Refusal) =
      .next ((({ s with encl := { s.encl with
        ops := tblSet s.encl.ops c ⟨op, slot, auto, n.toNat, (s.reg (A.MB_ARG c)).toNat⟩ } } : State).setF
          (F.MB_STAT_BUSY c) 1).enclNext) :=
  congrArg Host.Outcome.next (if_neg (by simp [hok, hfree]))

theorem next_mbRow_refused (hbad : mbAllowed who c = false ∨ s.flag (F.MB_STAT_BUSY c) = true) :
    (.next (s.mbRow who c op slot auto n) : Host.Outcome State Fault Refusal) = .next (s.busErr who) :=
  congrArg Host.Outcome.next (if_pos (by simpa using hbad))

end

/-! The rotation (R382). -/

section
variable {s : State}

theorem enclNext_starts {i : Nat} (hidle : s.encl.running = none) (hready : s.flag F.ENCL_STAT_READY = true)
    (hfirst : (List.range 3).find? (fun i => (tblFind s.encl.ops ((s.encl.first + i) % 3)).isSome) = some i) :
    s.enclNext = { s with encl := { s.encl with
      running := some ((s.encl.first + i) % 3), first := ((s.encl.first + i) % 3 + 1) % 3 } } := by
  refine (if_neg (by simp [hidle, hready])).trans ?_
  simp only [hfirst]

theorem enclNext_nothing (hnone : ∀ i, i < 3 → tblFind s.encl.ops ((s.encl.first + i) % 3) = none) : s.enclNext = s := by
  have hfind : (List.range 3).find? (fun i => (tblFind s.encl.ops ((s.encl.first + i) % 3)).isSome) = none :=
    List.find?_eq_none.2 (fun i hi => by simp [hnone i (List.mem_range.1 hi)])
  simp only [State.enclNext, hfind, ite_self]

theorem enclNext_keeps (hno : s.encl.running ≠ none ∨ s.flag F.ENCL_STAT_READY = false ∨
    ∀ i, i < 3 → tblFind s.encl.ops ((s.encl.first + i) % 3) = none) : s.enclNext = s := by
  rcases hno with hruns | hready | hnone
  · exact if_pos (by simp [Option.isSome_iff_ne_none, hruns])
  · exact if_pos (by simp [hready])
  · exact enclNext_nothing hnone

end

/-! The end of an operation (R382, R383, R389, R392). -/

theorem enclDone_idle {s : State} (hidle : s.encl.running = none) : s.enclDone = s := by
  simp only [State.enclDone, hidle]

theorem enclDone_runs {s t u v : State} {c : Nat} {o : MbOp} {q : EnclRes} (hruns : s.encl.running = some c)
    (ho : o = tblGet s.encl.ops c) (hq : q = s.opRun c o)
    (ht : t = if o.op = 2 ∨ o.op = 3 ∨ o.op = 4 then q.st.mbZero c else q.st)
    (hu : u = ((if q.code = 0 then t.mbOut c q.res else t).setF (F.MB_STAT_CODE c) q.code).setF (F.MB_STAT_RLEN c) q.res.length)
    (hv : v = (((if (o.auto && (o.op == 2 || o.op == 4)) = true then u.setF (F.MB_STAT_SLOT c) q.slot else u).setF
      (F.MB_STAT_BUSY c) 0).setF (F.MB_STAT_DONE c) 1).keyStored c o q) :
    s.enclDone =
      (State.raise { v with encl := { v.encl with running := none, ops := tblErase v.encl.ops c } } (448 + c)).enclNext := by
  subst ho hq ht hu hv
  simp only [State.enclDone, hruns]

/-! Which operation runs (R383). -/

section
variable {s : State} {c k : Nat} {o : MbOp} (hop : o.op = k)
include hop

theorem opRun_given (hload : k ≠ 2) (hgen : k ≠ 4) : s.opRun c o = s.opDo c { o with op := k } o.slot := by
  subst hop
  exact if_neg (by simp [hload, hgen])

theorem opRun_named (hauto : o.auto = false) : s.opRun c o = s.opDo c { o with op := k } o.slot := by
  subst hop
  exact if_neg (by simp [hauto])

section
variable (hslot : k = 2 ∨ k = 4) (hauto : o.auto = true)
include hslot hauto

theorem opRun_lowest {i : Nat} (hfree : s.freeSlot = some i) : s.opRun c o = s.opDo c { o with op := k } i := by
  subst hop
  refine (if_pos (by simpa [hauto] using hslot)).trans ?_
  simp only [hfree]

theorem opRun_noSlot (hfull : s.freeSlot = none) : s.opRun c o = s.enclFail 0x0B := by
  subst hop
  refine (if_pos (by simpa [hauto] using hslot)).trans ?_
  simp only [hfull]

end

end

/-! RANDOM, CLEAR, HASH, EXTEND, ATTEST (R374, R379, R383, R384, R390). -/

section
variable {s : State} {n : Nat}

theorem opRandom_badLength (hbad : n < 1 ∨ 256 < n) : s.opRandom n = s.enclFail 5 := if_pos hbad

section
variable (hlo : 1 ≤ n) (hhi : n ≤ 256)
include hlo hhi

theorem opRandom_noGenerator (htrng : s.flag F.ENCL_STAT_TRNG = false) : s.opRandom n = s.enclFail 9 :=
  (if_neg (by omega)).trans (if_pos (by simp [htrng]))

theorem opRandom_answers (htrng : s.flag F.ENCL_STAT_TRNG = true) : s.opRandom n = ⟨0, s.useFree, s.rand n, 0⟩ :=
  (if_neg (by omega)).trans (if_neg (by simp [htrng]))

end

section
variable {pan : Bool} {slot : Nat}

theorem opClear_empty (hslot : s.slot slot = none) : s.opClear pan slot = s.enclFail 3 := by
  simp only [State.opClear, hslot]

section
variable {k : KeySlot} (hslot : s.slot slot = some k)
include hslot

/-- An occupied slot: what is left is the Pan's right to it, then FIXED. -/
theorem opClear_occupied :
    s.opClear pan slot = if pan && !bit k.usage 10 then s.enclFail 4 else if bit k.usage 11 then s.enclFail 8 else
      ⟨0, s.dropSlot slot, [], slot⟩ := by
  simp only [State.opClear, hslot]

theorem opClear_notPan (hpan : pan = true) (huse : bit k.usage 10 = false) : s.opClear pan slot = s.enclFail 4 :=
  (opClear_occupied hslot).trans (if_pos (by simp [hpan, huse]))

theorem opClear_fixed (hmay : pan = false ∨ bit k.usage 10 = true) (hfixed : bit k.usage 11 = true) :
    s.opClear pan slot = s.enclFail 8 :=
  (opClear_occupied hslot).trans ((if_neg (by rcases hmay with h | h <;> simp [h])).trans (if_pos hfixed))

theorem opClear_drops (hmay : pan = false ∨ bit k.usage 10 = true) (hfree : bit k.usage 11 = false) :
    s.opClear pan slot = ⟨0, s.dropSlot slot, [], slot⟩ :=
  (opClear_occupied hslot).trans ((if_neg (by rcases hmay with h | h <;> simp [h])).trans (if_neg (by simp [hfree])))

end

end

section
variable {inp : List Byte}

theorem opHash_badLength {arg : Nat} (hbad : n < 1 ∨ 1024 < n) : s.opHash arg n inp = s.enclFail 5 := if_pos hbad

theorem opHash_256 (hlo : 1 ≤ n) (hhi : n ≤ 1024) : s.opHash 0 n inp = ⟨0, s, fitBytes 32 (Config.sha256 inp), 0⟩ :=
  (if_neg (by omega)).trans (if_pos rfl)

theorem opHash_384 (hlo : 1 ≤ n) (hhi : n ≤ 1024) : s.opHash 1 n inp = ⟨0, s, fitBytes 48 (Config.sha384 inp), 0⟩ :=
  (if_neg (by omega)).trans ((if_neg Nat.one_ne_zero).trans (if_pos rfl))

end

end

/-! A slot's use (R377, R382), and the operations that use one (R383). -/

section
variable {s : State} {pan : Bool} {slot use : Nat}

theorem useSlot_empty (hslot : s.slot slot = none) : s.useSlot pan slot use = .inr 3 := by
  simp only [State.useSlot, hslot]

section
variable {k : KeySlot} (hslot : s.slot slot = some k)
include hslot

theorem useSlot_granted (huse : bit k.usage use = true) (hmay : pan = false ∨ bit k.usage 10 = true) :
    s.useSlot pan slot use = .inl k := by
  simp only [State.useSlot, hslot]
  exact if_pos (by rcases hmay with h | h <;> simp [huse, h])

theorem useSlot_refused (hno : bit k.usage use = false ∨ (pan = true ∧ bit k.usage 10 = false)) :
    s.useSlot pan slot use = .inr 4 := by
  simp only [State.useSlot, hslot]
  exact if_neg (by rcases hno with h | h <;> simp [h])

end

section
variable {arg n e : Nat} {inp : List Byte}

theorem opGcmEnc_refused (h : s.useSlot pan slot 0 = .inr e) : s.opGcmEnc pan slot n inp = s.enclFail e := by
  simp only [State.opGcmEnc, h]

theorem opGcmDec_refused (h : s.useSlot pan slot 1 = .inr e) : s.opGcmDec pan slot n inp = s.enclFail e := by
  simp only [State.opGcmDec, h]

theorem opCmac_refused (h : s.useSlot pan slot 2 = .inr e) : s.opCmac pan slot n inp = s.enclFail e := by
  simp only [State.opCmac, h]

theorem opSign_refused (h : s.useSlot pan slot 3 = .inr e) : s.opSign pan slot n inp = s.enclFail e := by
  simp only [State.opSign, h]

theorem opEcdh_refused (h : s.useSlot pan slot 4 = .inr e) : s.opEcdh pan slot arg n inp = s.enclFail e := by
  simp only [State.opEcdh, h]

theorem opHkdf_refused (h : s.useSlot pan slot 5 = .inr e) : s.opHkdf pan slot arg inp = s.enclFail e := by
  simp only [State.opHkdf, h]

section
variable {k : KeySlot}

theorem opGcmEnc_answers {a : Nat} (h : s.useSlot pan slot 0 = .inl k) (ha : leAt inp 12 2 = a) (hhead : 14 ≤ n) (haad : a ≤ 256)
    (hall : 14 + a ≤ n) (hdata : n - 14 - a ≤ 1024) :
    s.opGcmEnc pan slot n inp = ⟨0, s,
      fitBytes (n - 14 - a) (Config.gcmEnc k.key (inp.take 12) ((inp.drop 14).take a) (inp.drop (14 + a))).1 ++
        fitBytes 16 (Config.gcmEnc k.key (inp.take 12) ((inp.drop 14).take a) (inp.drop (14 + a))).2, slot⟩ := by
  subst ha
  simp only [State.opGcmEnc, h]
  exact if_neg (by omega)

theorem opCmac_badLength (h : s.useSlot pan slot 2 = .inl k) (hbad : n < 1 ∨ 1024 < n) :
    s.opCmac pan slot n inp = s.enclFail 5 := by
  simp only [State.opCmac, h, if_pos hbad]

theorem opCmac_answers (h : s.useSlot pan slot 2 = .inl k) (hlo : 1 ≤ n) (hhi : n ≤ 1024) :
    s.opCmac pan slot n inp = ⟨0, s, fitBytes 16 (Config.cmac k.key inp), slot⟩ := by
  simp only [State.opCmac, h]
  exact if_neg (by omega)

theorem opSign_badLength (h : s.useSlot pan slot 3 = .inl k) (h32 : n ≠ 32) (h48 : n ≠ 48) :
    s.opSign pan slot n inp = s.enclFail 5 := by
  simp only [State.opSign, h]
  exact if_pos ⟨h32, h48⟩

section
variable (h : s.useSlot pan slot 3 = .inl k) (hn : n = 32 ∨ n = 48)
include h hn

theorem opSign_noGenerator (htrng : s.flag F.ENCL_STAT_TRNG = false) : s.opSign pan slot n inp = s.enclFail 9 := by
  simp only [State.opSign, h]
  exact (if_neg (by omega)).trans (if_pos (by simp [htrng]))

theorem opSign_answers (htrng : s.flag F.ENCL_STAT_TRNG = true) :
    s.opSign pan slot n inp =
      ⟨0, s.useFree, fitBytes (2 * keyLen k.typ) (Config.ecdsaSign k.typ k.key inp s.freeNat), slot⟩ := by
  simp only [State.opSign, h]
  exact (if_neg (by omega)).trans (if_neg (by simp [htrng]))

end

theorem opEcdh_badLength (h : s.useSlot pan slot 4 = .inl k) (hn : n ≠ 2 * keyLen k.typ) :
    s.opEcdh pan slot arg n inp = s.enclFail 5 := by
  simp only [State.opEcdh, h, if_pos hn]

theorem opEcdh_derives (h : s.useSlot pan slot 4 = .inl k) (hn : n = 2 * keyLen k.typ) :
    s.opEcdh pan slot arg n inp = s.putDerived pan arg k (fitBytes 32 (Config.ecdh k.typ k.key inp)) 4 0x20 0 := by
  simp only [State.opEcdh, h, if_neg (not_not.2 hn)]

end

end

end

/-- Settles O42, row by row: the command writes, the rotation, the end of an operation, and what each checks and yields. The
lengths of CMAC and HASH are the model's choice of log 139, the ARG latched with the command is that of log 185, the rotation
that of log 65, the inputs of HKDF and VERIFY those of log 64; the values of ciphers, hashes and signatures are log 5's
uninterpreted functions. -/
theorem enclaveMailboxCommandsActAsTheTablesSay : Obligations.EnclaveMailboxCommandsActAsTheTablesSay := by
  unfold Obligations.EnclaveMailboxCommandsActAsTheTablesSay
  refine ⟨?random, ?randomNo, ?load, ?loadNo, ?clear, ?clearNo, ?gen, ?genNo, ?gcmEnc, ?gcmEncNo, ?gcmDec, ?gcmDecNo, ?cmac,
    ?cmacNo, ?sign, ?signNo, ?verify, ?verifyNo, ?ecdh, ?ecdhNo, ?hkdf, ?hkdfNo, ?hash, ?hashNo, ?extend, ?extendNo, ?attest,
    ?attestNo, ?start, ?next, ?nextNone, ?doneIdle, ?done, ?opRun, ?opRandom, ?opClear, ?useSlot, ?slotOps, ?plainOps,
    ?trngFailure, ?trngRecovery⟩
  case random => exact fun who c n s => next_mbRow_queued
  case randomNo => exact fun who c n s => next_mbRow_refused
  case load => exact fun who c slot auto n s => next_mbRow_queued
  case loadNo => exact fun who c slot auto n s => next_mbRow_refused
  case clear => exact fun who c slot n s => next_mbRow_queued
  case clearNo => exact fun who c slot n s => next_mbRow_refused
  case gen => exact fun who c slot auto n s => next_mbRow_queued
  case genNo => exact fun who c slot auto n s => next_mbRow_refused
  case gcmEnc => exact fun who c slot n s => next_mbRow_queued
  case gcmEncNo => exact fun who c slot n s => next_mbRow_refused
  case gcmDec => exact fun who c slot n s => next_mbRow_queued
  case gcmDecNo => exact fun who c slot n s => next_mbRow_refused
  case cmac => exact fun who c slot n s => next_mbRow_queued
  case cmacNo => exact fun who c slot n s => next_mbRow_refused
  case sign => exact fun who c slot n s => next_mbRow_queued
  case signNo => exact fun who c slot n s => next_mbRow_refused
  case verify => exact fun who c n s => next_mbRow_queued
  case verifyNo => exact fun who c n s => next_mbRow_refused
  case ecdh => exact fun who c slot n s => next_mbRow_queued
  case ecdhNo => exact fun who c slot n s => next_mbRow_refused
  case hkdf => exact fun who c slot n s => next_mbRow_queued
  case hkdfNo => exact fun who c slot n s => next_mbRow_refused
  case hash => exact fun who c n s => next_mbRow_queued
  case hashNo => exact fun who c n s => next_mbRow_refused
  case extend => exact fun who c n s => next_mbRow_queued
  case extendNo => exact fun who c n s => next_mbRow_refused
  case attest => exact fun who c n s => next_mbRow_queued
  case attestNo => exact fun who c n s => next_mbRow_refused
  case start => exact fun s => rfl
  case next => exact fun s i => enclNext_starts
  case nextNone => exact fun s => enclNext_keeps
  case doneIdle => exact fun s hidle => congrArg Host.Outcome.next (enclDone_idle hidle)
  case done =>
    exact fun s c o q t u v hruns ho hq ht hu hv => congrArg Host.Outcome.next (enclDone_runs hruns ho hq ht hu hv)
  case opRun =>
    rintro s c o _ _ _ rfl rfl rfl
    exact ⟨fun h => opRun_given h (by decide) (by decide), fun h => opRun_named h,
      fun h => opRun_given h (by decide) (by decide), fun h => opRun_named h,
      fun i h hauto hfree => opRun_lowest h (.inl rfl) hauto hfree,
      fun i h hauto hfree => opRun_lowest h (.inr rfl) hauto hfree, fun h => opRun_noSlot rfl h,
      fun h => opRun_given h (by decide) (by decide), fun h => opRun_given h (by decide) (by decide),
      fun h => opRun_given h (by decide) (by decide), fun h => opRun_given h (by decide) (by decide),
      fun h => opRun_given h (by decide) (by decide), fun h => opRun_given h (by decide) (by decide),
      fun h => opRun_given h (by decide) (by decide), fun h => opRun_given h (by decide) (by decide),
      fun h => opRun_given h (by decide) (by decide), fun h => opRun_given h (by decide) (by decide)⟩
  case opRandom => exact fun s n => ⟨opRandom_badLength, opRandom_noGenerator, opRandom_answers, fun code => rfl⟩
  case opClear =>
    exact fun s pan slot =>
      ⟨opClear_empty, fun k => opClear_notPan, fun k => opClear_fixed, fun k => opClear_drops⟩
  case useSlot => exact fun s pan slot use => ⟨useSlot_empty, fun k => useSlot_granted, fun k => useSlot_refused⟩
  case slotOps =>
    exact fun s pan slot arg n inp k =>
      ⟨fun e => opGcmEnc_refused, fun e => opGcmDec_refused, fun e => opCmac_refused, fun e => opSign_refused,
        fun e => opEcdh_refused, fun e => opHkdf_refused, fun h => opGcmEnc_answers h rfl, opCmac_badLength, opCmac_answers,
        opSign_badLength, opSign_noGenerator, opSign_answers, opEcdh_badLength, opEcdh_derives⟩
  case plainOps =>
    exact fun s arg n inp =>
      ⟨opHash_badLength, opHash_256, opHash_384, fun h => if_pos h, fun h => if_neg (not_not.2 h), fun h => if_pos h,
        fun h => if_neg (not_not.2 h)⟩
  case trngFailure => exact fun s => rfl
  case trngRecovery => exact fun s => rfl

end Sys2Proof.Machine
end
-- ==== Sys2Proof/Proofs/EnclaveCommands.lean ====
section
/-! PROOF. The Enclave's opcodes and tamper (R378, R380, R384 to R387, R390). -/
namespace Sys2Proof.Machine

section
variable {c : Ctx} {s : State}

/-! KEY_LOAD (R378, R380). -/

theorem keyLoad_badSlot (hslot : 63 < leAt c.pl 0 1) : bodyKeyLoad c s = s.badParam c.key 0 := if_pos hslot

theorem keyLoad_badLength (hslot : leAt c.pl 0 1 ≤ 63) (hl : c.pl.length ≠ 89 ∧ c.pl.length ≠ 185) :
    bodyKeyLoad c s = s.badParam c.key 1 := (if_neg (Nat.not_lt.2 hslot)).trans (if_pos hl)

section
variable {q : EnclRes} (hl : c.pl.length = 89 ∨ c.pl.length = 185) (hslot : leAt c.pl 0 1 ≤ 63)
  (hq : q = s.loadKey false (leAt c.pl 0 1) (c.pl.drop 1))
include hl hslot hq

theorem keyLoad_fails (hcode : q.code ≠ 0) : bodyKeyLoad c s = q.st.failed c.key (0x0F00 + q.code) := by
  subst hq
  exact (if_neg (Nat.not_lt.2 hslot)).trans ((if_neg (by omega)).trans (if_pos hcode))

/-- A load that succeeds: the blob of an import goes to the key store. -/
theorem keyLoad_loads (hcode : q.code = 0) :
    bodyKeyLoad c s = (if q.res.isEmpty then q.st else
      { q.st with encl := { q.st.encl with store := tblSet q.st.encl.store (leAt c.pl 0 1) q.res } }).ok c.key [] := by
  subst hq
  exact (if_neg (Nat.not_lt.2 hslot)).trans ((if_neg (by omega)).trans (if_neg (not_not.2 hcode)))

theorem keyLoad_sealed (hcode : q.code = 0) (hres : q.res = []) : bodyKeyLoad c s = q.st.ok c.key [] := by
  rw [keyLoad_loads hl hslot hq hcode, if_pos (by simp [hres])]

theorem keyLoad_stores (hcode : q.code = 0) (hres : q.res ≠ []) :
    bodyKeyLoad c s =
      { q.st with encl := { q.st.encl with store := tblSet q.st.encl.store (leAt c.pl 0 1) q.res } }.ok c.key [] := by
  rw [keyLoad_loads hl hslot hq hcode, if_neg (by simp [hres])]

end

/-! DEBUG_CHALLENGE (R385, R390). -/

section
variable (hl : c.pl.length = 0)
include hl

theorem debugChallenge_locked (hfails : 3 ≤ s.encl.fails) :
    bodyDebugChallenge c s = s.useFree.wrongState c.key (s.freeNat % 256) := (if_pos hl).trans (if_pos hfails)

section
variable (hfails : s.encl.fails < 3)
include hfails

theorem debugChallenge_noGenerator (htrng : s.flag F.ENCL_STAT_TRNG = false) :
    bodyDebugChallenge c s = s.failed c.key 0x0F09 :=
  (if_pos hl).trans ((if_neg (Nat.not_le.2 hfails)).trans (if_pos (by simp [htrng])))

theorem debugChallenge_answers {b : List Byte} (htrng : s.flag F.ENCL_STAT_TRNG = true)
    (hb : b = leBytes 4 (s.reg A.SYSCTL_DEVID).toNat ++ fitBytes 16 Config.fuseSerial ++ s.rand 32 ++ leBytes 2 s.svn ++
      leBytes 1 (s.f F.DBG_STAT_SCOPE) ++ leBytes 1 0) :
    bodyDebugChallenge c s = { s with encl := { s.encl with
      challenge := some ⟨b, (c.sess.map (fun (y : Sess) => y.id)).getD 0, s.now⟩ } }.useFree.ok c.key b := by
  subst hb
  exact (if_pos hl).trans ((if_neg (Nat.not_le.2 hfails)).trans (if_neg (by simp [htrng])))

end

end

/-! DEBUG_UNLOCK (R385, R386). -/

/-- The challenge that the session of a request was given. -/
def ownChallenge (c : Ctx) (s : State) : Option DbgNonce :=
  s.encl.challenge.filter (fun d => some d.sess == c.sess.map (fun (y : Sess) => y.id))

/-- The state whose own challenge, where there is one, is consumed. -/
def challengeConsumed (c : Ctx) (s : State) : State :=
  if (ownChallenge c s).isSome then { s with encl := { s.encl with challenge := none } } else s

/-- The request is the debug authority's, over its own challenge, within 60 s. -/
def unlockProven (c : Ctx) (s : State) : Bool :=
  match ownChallenge c s with
  | none => false
  | some d => decide (s.now < d.at_ + 60000000000) &&
      Config.sha384 ((c.pl.drop 4).take 96) == Config.fuseDbgAuth &&
      Config.ecdsaVerify 3 ((c.pl.drop 4).take 96) (Config.sha384 (d.rec_ ++ c.pl.take 1)) (c.pl.drop 100)

theorem ownChallenge_eq_some {d : DbgNonce} :
    ownChallenge c s = some d ↔ s.encl.challenge = some d ∧ some d.sess = c.sess.map (fun (y : Sess) => y.id) := by
  simp [ownChallenge, Option.filter_eq_some_iff]

theorem unlockProven_iff : unlockProven c s = true ↔ ∃ d, s.encl.challenge = some d ∧
    some d.sess = c.sess.map (fun (y : Sess) => y.id) ∧ s.now < d.at_ + 60000000000 ∧
    Config.sha384 ((c.pl.drop 4).take 96) = Config.fuseDbgAuth ∧
    Config.ecdsaVerify 3 ((c.pl.drop 4).take 96) (Config.sha384 (d.rec_ ++ c.pl.take 1)) (c.pl.drop 100) = true := by
  calc unlockProven c s = true
    _ ↔ ∃ d, ownChallenge c s = some d ∧ s.now < d.at_ + 60000000000 ∧
        Config.sha384 ((c.pl.drop 4).take 96) = Config.fuseDbgAuth ∧
        Config.ecdsaVerify 3 ((c.pl.drop 4).take 96) (Config.sha384 (d.rec_ ++ c.pl.take 1)) (c.pl.drop 100) = true := by
      unfold unlockProven
      cases ownChallenge c s <;> simp [and_assoc]
    _ ↔ _ := by simp only [ownChallenge_eq_some, and_assoc]

section
variable (hl : c.pl.length = 196)
include hl

theorem debugUnlock_badScope (hscope : 16 ≤ leAt c.pl 0 1) : bodyDebugUnlock c s = s.badParam c.key 0 :=
  (if_pos hl).trans (if_pos hscope)

section
variable (hscope : leAt c.pl 0 1 < 16)
include hscope

theorem debugUnlock_badByte (hbyte : leAt c.pl 1 1 ≠ 0) : bodyDebugUnlock c s = s.badParam c.key 1 :=
  (if_pos hl).trans ((if_neg (Nat.not_le.2 hscope)).trans (if_pos hbyte))

section
variable (hbyte : leAt c.pl 1 1 = 0)
include hbyte

theorem debugUnlock_badHalf (hhalf : leAt c.pl 2 2 ≠ 0) : bodyDebugUnlock c s = s.badParam c.key 2 :=
  (if_pos hl).trans ((if_neg (Nat.not_le.2 hscope)).trans ((if_neg (not_not.2 hbyte)).trans (if_pos hhalf)))

theorem debugUnlock_decides (hhalf : leAt c.pl 2 2 = 0) :
    bodyDebugUnlock c s =
      if unlockProven c s then ((challengeConsumed c s).debugUnlock (leAt c.pl 0 1)).ok c.key [] else
        ({ challengeConsumed c s with encl := { (challengeConsumed c s).encl with
          fails := (challengeConsumed c s).encl.fails + 1 } }.raise 455).finish c.key stAuthFailed [] := by
  refine (if_pos hl).trans ((if_neg (Nat.not_le.2 hscope)).trans ((if_neg (not_not.2 hbyte)).trans
    ((if_neg (not_not.2 hhalf)).trans ?_)))
  simp only [unlockProven, challengeConsumed, ownChallenge]
  rfl

end

end

end

end

section
variable {s : State}

theorem debugUnlock_grants {scope : Nat} {t : State} (hscope : scope ≠ 0)
    (ht : t = forBelow 64 s (fun i s => if (s.slot i).isSome then s.dropSlot i else s)) :
    s.debugUnlock scope = ((t.dropEngineKeys.setF F.ENCL_STAT_DBG 1).setF F.DBG_STAT_SCOPE scope).raise 454 := by
  rw [ht, State.debugUnlock, if_neg hscope]

/-! Tamper (R387): keys are zeroed, and an operation in progress is abandoned. -/

section
variable {cause : Nat} {t : State}
  (ht : t = { s with
    encl := { (default : EnclSt) with ops := s.encl.ops, first := s.encl.first, fails := s.encl.fails, store := s.encl.store }
    cmd := { s.cmd with sess := s.cmd.sess.map (fun (x : Sess) => { x with key := zeroKey }) }
    acc := { s.acc with key := zeroKey }
    can := { s.can with ch := s.can.ch.map (fun (x : Nat × CanCh) => (x.1, { x.2 with key := x.2.key.map (fun _ => zeroKey) })) }
    ring := { s.ring with
      links := s.ring.links.map (fun (x : Nat × BrlLink) => (x.1, { x.2 with key := x.2.key.map (fun _ => zeroKey) })) } })
include ht

theorem tamper_idle (hidle : s.encl.running = none) :
    s.tamper cause =
      ((((t.setReg A.ENCL_SLOTS_L 0).setReg A.ENCL_SLOTS_H 0).setFbit F.ENCL_TAMPER_CAUSE cause true).raise 453).reqReset 11 none := by
  subst ht
  simp only [State.tamper, hidle]

theorem tamper_running {c : Nat} (hruns : s.encl.running = some c) :
    s.tamper cause =
      (((((({ t with encl := { t.encl with ops := tblErase t.encl.ops c } }).setF (F.MB_STAT_BUSY c) 0).setReg A.ENCL_SLOTS_L 0).setReg
        A.ENCL_SLOTS_H 0).setFbit F.ENCL_TAMPER_CAUSE cause true).raise 453).reqReset 11 none := by
  subst ht
  simp only [State.tamper, hruns]

end

end

/-- Settles O48, row by row: ATTEST, KEY_LOAD, the debug challenge, the debug unlock, tamper. Where the rules leave a point open,
the clauses rest on the model's choices: log 62 (BAD_PARAM names offset 1, ATTEST does not look at the generator), 58 (when a
challenge is consumed, the mode after three failures), 59 (the keys of the CMAC engines) and 60 (keys of zeros, BUSY without DONE); the
cryptographic values are log 5's uninterpreted functions. -/
theorem enclaveCommandsActAsTheTablesSay : Obligations.EnclaveCommandsActAsTheTablesSay := by
  unfold Obligations.EnclaveCommandsActAsTheTablesSay
  refine ⟨?attest, ?badSlot, ?badLength, ?loadFails, ?loadSealed, ?loadStores, ?challengeLocked, ?challengeNoGen, ?challenge,
    ?badScope, ?badByte, ?badHalf, ?unlock, ?unlockFails, ?unlockNone, ?unlockGrants, ?tamper, ?tamperRunning⟩
  case attest => exact fun r s x s1 h hl => exec_of_body rfl h (if_pos hl)
  case badSlot => exact fun r s x s1 h hslot => exec_of_body rfl h (keyLoad_badSlot hslot)
  case badLength => exact fun r s x s1 h hslot hl => exec_of_body rfl h (keyLoad_badLength hslot hl)
  case loadFails =>
    exact fun r s x s1 q h hl hslot hq hcode => exec_of_body rfl h (keyLoad_fails hl hslot hq hcode)
  case loadSealed =>
    exact fun r s x s1 q h hl hslot hq hcode hres => exec_of_body rfl h (keyLoad_sealed hl hslot hq hcode hres)
  case loadStores =>
    exact fun r s x s1 q h hl hslot hq hcode hres => exec_of_body rfl h (keyLoad_stores hl hslot hq hcode hres)
  case challengeLocked => exact fun r s x s1 h hl hfails => exec_of_body rfl h (debugChallenge_locked hl hfails)
  case challengeNoGen =>
    exact fun r s x s1 h hl hfails htrng => exec_of_body rfl h (debugChallenge_noGenerator hl hfails htrng)
  case challenge =>
    exact fun r s x s1 b h hl hfails htrng hb => exec_of_body rfl h (debugChallenge_answers hl hfails htrng hb)
  case badScope => exact fun r s x s1 h hl hscope => exec_of_body rfl h (debugUnlock_badScope hl hscope)
  case badByte => exact fun r s x s1 h hl hscope hbyte => exec_of_body rfl h (debugUnlock_badByte hl hscope hbyte)
  case badHalf =>
    exact fun r s x s1 h hl hscope hbyte hhalf => exec_of_body rfl h (debugUnlock_badHalf hl hscope hbyte hhalf)
  case unlock =>
    rintro r s x s1 _ h hl hscope hbyte hhalf rfl hproof
    exact exec_of_body rfl h
      ((debugUnlock_decides hl hscope hbyte hhalf).trans (if_pos (unlockProven_iff.2 hproof)))
  case unlockFails =>
    rintro r s x s1 _ h hl hscope hbyte hhalf rfl hnone
    exact exec_of_body rfl h
      ((debugUnlock_decides hl hscope hbyte hhalf).trans (if_neg (fun hproof => hnone (unlockProven_iff.1 hproof))))
  case unlockNone => exact fun s => if_pos rfl
  case unlockGrants => exact fun s scope t => debugUnlock_grants
  case tamper => exact fun cause s t hidle ht => congrArg Host.Outcome.next (tamper_idle ht hidle)
  case tamperRunning => exact fun cause s c t hruns ht => congrArg Host.Outcome.next (tamper_running ht hruns)

end Sys2Proof.Machine
end
-- ==== Sys2Proof/Proofs/CrustRequests.lean ====
section
/-! PROOF. The requests of the Crust store (R397 to R399, R402) and the two ports of the Steward (R408). -/
namespace Sys2Proof.Machine

variable {c : Ctx} {s : State}

/-! CRUST_READ (R397). -/

section
variable (hl : c.pl.length = 4)
include hl

theorem crustRead_badPage (hpage : 1023 < leAt c.pl 0 2) : bodyCrustRead c s = s.badParam c.key 0 :=
  (if_pos hl).trans (if_pos hpage)

section
variable (hpage : leAt c.pl 0 2 ≤ 1023)
include hpage

theorem crustRead_badOffset (hoff : 63 < leAt c.pl 2 1) : bodyCrustRead c s = s.badParam c.key 2 :=
  (if_pos hl).trans ((if_neg (Nat.not_lt.2 hpage)).trans (if_pos hoff))

section
variable (hoff : leAt c.pl 2 1 ≤ 63)
include hoff

theorem crustRead_badCount (hn : leAt c.pl 3 1 < 1 ∨ 64 < leAt c.pl 3 1) : bodyCrustRead c s = s.badParam c.key 3 :=
  (if_pos hl).trans ((if_neg (Nat.not_lt.2 hpage)).trans ((if_neg (Nat.not_lt.2 hoff)).trans (if_pos hn)))

section
variable (hn : 1 ≤ leAt c.pl 3 1 ∧ leAt c.pl 3 1 ≤ 64)
include hn

theorem crustRead_refused (hno : s.crustServes = false) : bodyCrustRead c s = s.crustRefuse c.key :=
  (if_pos hl).trans ((if_neg (Nat.not_lt.2 hpage)).trans ((if_neg (Nat.not_lt.2 hoff)).trans ((if_neg (by omega)).trans
    (if_pos (by simp [hno])))))

theorem crustRead_answers (hserves : s.crustServes = true) :
    bodyCrustRead c s = s.ok c.key ((List.range (leAt c.pl 3 1)).map (fun i =>
      ((s.page (leAt c.pl 0 2))[(leAt c.pl 2 1 + i) % 64]?).getD 0#8)) :=
  (if_pos hl).trans ((if_neg (Nat.not_lt.2 hpage)).trans ((if_neg (Nat.not_lt.2 hoff)).trans ((if_neg (by omega)).trans
    (if_neg (by simp [hserves])))))

end

end

end

end

/-! CRUST_WRITE (R397, R401). -/

theorem crustWrite_short (hl : c.pl.length < 4) : bodyCrustWrite c s = s.badLen c.key 4 := if_pos hl

theorem crustWrite_long (hl : 67 < c.pl.length) : bodyCrustWrite c s = s.badLen c.key 67 :=
  (if_neg (by omega)).trans (if_pos hl)

section
variable (hlo : 4 ≤ c.pl.length) (hhi : c.pl.length ≤ 67)
include hlo hhi

theorem crustWrite_badPage (hpage : pageOk (leAt c.pl 0 2) = false) : bodyCrustWrite c s = s.badParam c.key 0 :=
  (if_neg (Nat.not_lt.2 hlo)).trans ((if_neg (Nat.not_lt.2 hhi)).trans (if_pos (by simp [hpage])))

section
variable (hpage : pageOk (leAt c.pl 0 2) = true)
include hpage

theorem crustWrite_badOffset (hoff : 63 < leAt c.pl 2 1) : bodyCrustWrite c s = s.badParam c.key 2 :=
  (if_neg (Nat.not_lt.2 hlo)).trans ((if_neg (Nat.not_lt.2 hhi)).trans ((if_neg (by simp [hpage])).trans (if_pos hoff)))

section
variable (hoff : leAt c.pl 2 1 ≤ 63)
include hoff

theorem crustWrite_refused (hno : s.crustServes = false ∨ s.flag F.CRUST_STAT_PFW = true) :
    bodyCrustWrite c s = s.crustRefuse c.key :=
  (if_neg (Nat.not_lt.2 hlo)).trans ((if_neg (Nat.not_lt.2 hhi)).trans ((if_neg (by simp [hpage])).trans
    ((if_neg (Nat.not_lt.2 hoff)).trans (if_pos (by simpa using hno)))))

theorem crustWrite_queued (hserves : s.crustServes = true) (hpower : s.flag F.CRUST_STAT_PFW = false) :
    bodyCrustWrite c s =
      s.crustQueue { kind := 0, key := leAt c.pl 0 2, off := leAt c.pl 2 1, data := c.pl.drop 3, req := some c.key } :=
  (if_neg (Nat.not_lt.2 hlo)).trans ((if_neg (Nat.not_lt.2 hhi)).trans ((if_neg (by simp [hpage])).trans
    ((if_neg (Nat.not_lt.2 hoff)).trans (if_neg (by simp [hserves, hpower])))))

end

end

end

/-! COUNTER_INC (R398). -/

section
variable (hl : c.pl.length = 5)
include hl

theorem counterInc_badCounter (hk : leAt c.pl 0 1 ≤ 7 ∨ 31 < leAt c.pl 0 1) : bodyCounterInc c s = s.badParam c.key 0 :=
  (if_pos hl).trans (if_pos hk)

section
variable (hlo : 8 ≤ leAt c.pl 0 1) (hhi : leAt c.pl 0 1 ≤ 31)
include hlo hhi

theorem counterInc_refused (hno : s.crustServes = false ∨ (s.flag F.CRUST_STAT_PFW = true ∧ leAt c.pl 1 4 ≠ 0)) :
    bodyCounterInc c s = s.crustRefuse c.key :=
  (if_pos hl).trans ((if_neg (by omega)).trans (if_pos (by simpa using hno)))

section
variable {v : Nat} (hserves : s.crustServes = true) (hpower : s.flag F.CRUST_STAT_PFW = false ∨ leAt c.pl 1 4 = 0)
  (hv : v = s.counter (leAt c.pl 0 1) + s.pendingInc (leAt c.pl 0 1))
include hserves hpower hv

/-- An increment that the store takes: what is left is the end of the counter, then a read without one waiting. -/
theorem counterInc_taken :
    bodyCounterInc c s =
      if 2 ^ 64 ≤ v + leAt c.pl 1 4 then s.limit c.key 0x0903
      else if leAt c.pl 1 4 = 0 ∧ s.pendingInc (leAt c.pl 0 1) = 0 then s.ok c.key (leBytes 8 v)
      else s.crustQueue { kind := 1, key := leAt c.pl 0 1, off := 0, data := leBytes 4 (leAt c.pl 1 4), req := some c.key } := by
  subst hv
  exact (if_pos hl).trans ((if_neg (by omega)).trans (if_neg (by rcases hpower with h | h <;> simp [hserves, h])))

theorem counterInc_limit (hmax : 2 ^ 64 ≤ v + leAt c.pl 1 4) : bodyCounterInc c s = s.limit c.key 0x0903 :=
  (counterInc_taken hl hlo hhi hserves hpower hv).trans (if_pos hmax)

section
variable (hmax : v + leAt c.pl 1 4 < 2 ^ 64)
include hmax

theorem counterInc_reads (hnone : leAt c.pl 1 4 = 0 ∧ s.pendingInc (leAt c.pl 0 1) = 0) :
    bodyCounterInc c s = s.ok c.key (leBytes 8 v) :=
  (counterInc_taken hl hlo hhi hserves hpower hv).trans ((if_neg (Nat.not_le.2 hmax)).trans (if_pos hnone))

theorem counterInc_queued (hsome : ¬(leAt c.pl 1 4 = 0 ∧ s.pendingInc (leAt c.pl 0 1) = 0)) :
    bodyCounterInc c s =
      s.crustQueue { kind := 1, key := leAt c.pl 0 1, off := 0, data := leBytes 4 (leAt c.pl 1 4), req := some c.key } :=
  (counterInc_taken hl hlo hhi hserves hpower hv).trans ((if_neg (Nat.not_le.2 hmax)).trans (if_neg hsome))

end

end

end

end

/-! LOG_READ (R399). -/

section
variable (hl : c.pl.length = 6)
include hl

theorem logRead_badCount (hn : leAt c.pl 4 2 < 1 ∨ 64 < leAt c.pl 4 2) : bodyLogRead c s = s.badParam c.key 4 :=
  (if_pos hl).trans (if_pos hn)

section
variable (hlo : 1 ≤ leAt c.pl 4 2) (hhi : leAt c.pl 4 2 ≤ 64)
include hlo hhi

theorem logRead_refused (hno : s.crustServes = false) : bodyLogRead c s = s.crustRefuse c.key :=
  (if_pos hl).trans ((if_neg (by omega)).trans (if_pos (by simp [hno])))

section
variable {es : List LogEnt} (hserves : s.crustServes = true)
  (hes : es = (s.crust.reported.filter (fun e =>
    e.lseq == leAt c.pl 0 4 || newer 32 e.lseq (leAt c.pl 0 4))).take (leAt c.pl 4 2))
include hserves hes

theorem logRead_none (hnone : es = []) : bodyLogRead c s = s.ok c.key (leBytes 4 (leAt c.pl 0 4) ++ leBytes 2 0) := by
  refine (if_pos hl).trans ((if_neg (by omega)).trans ((if_neg (by simp [hserves])).trans ?_))
  simp only [← hes, hnone, List.head?_nil, List.length_nil, List.flatMap_nil, List.append_nil]

theorem logRead_answers {e : LogEnt} (hfirst : es.head? = some e) :
    bodyLogRead c s = s.ok c.key (leBytes 4 e.lseq ++ leBytes 2 es.length ++ es.flatMap LogEnt.bytes) := by
  refine (if_pos hl).trans ((if_neg (by omega)).trans ((if_neg (by simp [hserves])).trans ?_))
  simp only [← hes, hfirst]

end

end

end

/-! CRUST_COMPACT (R402). -/

section
variable (hl : c.pl.length = 0)
include hl

theorem crustCompact_refused (hruns : s.crust.compact ≠ none) : bodyCrustCompact c s = s.crustRefuse c.key :=
  (if_pos hl).trans (if_pos (Option.isSome_iff_ne_none.2 hruns))

theorem crustCompact_begins (hidle : s.crust.compact = none) :
    bodyCrustCompact c s = ((s.modCrust (fun x => { x with compact := some (some c.key) })).stopServed 1).accept c.key :=
  (if_pos hl).trans (if_neg (by simp [hidle]))

end

/-! CRUST_RDREQ (R408). -/

section
variable {key : Nat} {t : State}

theorem rdreq_unserved {counter : Bool}
    (ht : t = ((s.setF F.CRUST_RDREQ_KEY key).setFlag F.CRUST_RDREQ_KIND counter).setF F.CRUST_RDREQ_DONE 0)
    (hno : t.crustServes = false ∨ (counter = true ∧ 31 < key)) : s.rdreq key counter = t := by
  subst ht
  exact if_pos (by simpa using hno)

theorem rdreq_counter
    (ht : t = ((s.setF F.CRUST_RDREQ_KEY key).setFlag F.CRUST_RDREQ_KIND true).setF F.CRUST_RDREQ_DONE 0)
    (hserves : t.crustServes = true) (hkey : key ≤ 31) :
    s.rdreq key true =
      (t.setRegBytes (A.CRUST_RDBUF 0) 16 (leBytes 8 (t.counter key) ++ t.regBytes (A.CRUST_RDBUF 2) 14)).setF F.CRUST_RDREQ_DONE 1 := by
  subst ht
  exact if_neg (by simp [hserves, hkey])

theorem rdreq_page
    (ht : t = ((s.setF F.CRUST_RDREQ_KEY key).setFlag F.CRUST_RDREQ_KIND false).setF F.CRUST_RDREQ_DONE 0)
    (hserves : t.crustServes = true) :
    s.rdreq key false = (t.setRegBytes (A.CRUST_RDBUF 0) 16 (t.page key)).setF F.CRUST_RDREQ_DONE 1 := by
  subst ht
  exact if_neg (by simp [hserves])

end

/-! The words of a port request (R408): each word drops the request, completes it, or waits for the next. -/

section
variable {i w : Nat} {ws : List Nat} {t : State} (hws : ws = if i = 0 then [w] else s.crust.wport ++ [w])
include hws

theorem wportWord_drops (ht : t = s.modCrust (fun c => { c with wport := [] }))
    (hbad : ws.length ≠ i + 1 ∨ wportNeed (ws.headD 0) = 0) : s.wportWord i w = t.crustResult 3 := by
  subst hws ht
  by_cases hlen : (if i = 0 then [w] else s.crust.wport ++ [w]).length = i + 1
  · exact (if_neg (not_not.2 hlen)).trans (if_pos (hbad.resolve_left (not_not.2 hlen)))
  · exact if_pos hlen

section
variable (hlen : ws.length = i + 1)
include hlen

theorem wportWord_completes (ht : t = s.modCrust (fun c => { c with wport := [] }))
    (hneed : wportNeed (ws.headD 0) = i + 1) : s.wportWord i w = t.wportDo ws := by
  subst hws ht
  exact (if_neg (not_not.2 hlen)).trans ((if_neg (by omega)).trans (if_pos (hneed.trans hlen.symm)))

theorem wportWord_waits (hneed : wportNeed (ws.headD 0) ≠ 0) (hmore : wportNeed (ws.headD 0) ≠ i + 1) :
    s.wportWord i w = s.modCrust (fun c => { c with wport := ws }) := by
  subst hws
  exact (if_neg (not_not.2 hlen)).trans ((if_neg hneed).trans (if_neg (hlen ▸ hmore)))

end

end

section
variable {w : Nat} (hres : bits w 31 25 = 0)
include hres

theorem wportNeed_page (hkind : bits w 1 0 = 0) (hlo : 1 ≤ bits w 24 18) (hhi : bits w 24 18 ≤ 64) :
    wportNeed w = 1 + cdiv (bits w 24 18) 4 :=
  (if_neg (by omega)).trans ((if_pos hkind).trans (if_neg (by omega)))

theorem wportNeed_counter (hkind : bits w 1 0 = 1) (hlen : bits w 24 18 = 0) : wportNeed w = 2 :=
  (if_neg (by omega)).trans ((if_neg (by omega)).trans ((if_neg (not_not.2 hlen)).trans (if_pos hkind)))

theorem wportNeed_log (hkind : bits w 1 0 = 2) (hlen : bits w 24 18 = 0) : wportNeed w = 3 :=
  (if_neg (by omega)).trans ((if_neg (by omega)).trans ((if_neg (not_not.2 hlen)).trans (if_neg (by omega))))

end

section
variable {w : Nat} {ws : List Nat} (hw : ws.headD 0 = w)
include hw

theorem wportDo_log (hkind : bits w 1 0 = 2) :
    s.wportDo ws = (s.logAdd ((ws.getD 2 0) % 2 ^ 16) (ws.getD 1 0)).crustResult 0 := by
  subst hw
  exact if_pos hkind

theorem wportDo_powerFail (hkind : bits w 1 0 ≠ 2) (hpower : s.flag F.CRUST_STAT_PFW = true)
    (hadds : bits w 1 0 ≠ 1 ∨ ws.getD 1 0 ≠ 0) : s.wportDo ws = s.crustResult 2 := by
  subst hw
  refine (if_neg hkind).trans (if_pos ?_)
  rcases hadds with h | h <;> simp only [hpower, beq_eq_false_iff_ne.2 h, Bool.false_and, Bool.and_false, Bool.not_false,
    Bool.and_true]

section
variable (hpower : s.flag F.CRUST_STAT_PFW = false)
include hpower

theorem wportDo_unserved (hkind : bits w 1 0 ≠ 2) (hno : s.crustServes = false) : s.wportDo ws = s.crustResult 3 := by
  subst hw
  exact (if_neg hkind).trans ((if_neg (by simp [hpower])).trans (if_pos (by simp [hno])))

theorem wportDo_page (hkind : bits w 1 0 = 0) (hserves : s.crustServes = true) (hpage : pageOk (bits w 11 2) = true) :
    s.wportDo ws = s.crustQueue
      { kind := 0, key := bits w 11 2, off := bits w 17 12, data := ((ws.drop 1).flatMap (leBytes 4)).take (bits w 24 18),
        req := none } := by
  subst hw
  exact (if_neg (by omega)).trans ((if_neg (by simp [hpower])).trans ((if_neg (by simp [hserves])).trans
    ((if_pos hkind).trans (if_neg (by rw [hpage]; exact Bool.false_ne_true)))))

theorem wportDo_counter (hkind : bits w 1 0 = 1) (hserves : s.crustServes = true) (hlo : 8 ≤ bits w 11 2)
    (hhi : bits w 11 2 ≤ 31) (hmax : s.counter (bits w 11 2) + s.pendingInc (bits w 11 2) + ws.getD 1 0 < 2 ^ 64) :
    s.wportDo ws = s.crustQueue
      { kind := 1, key := bits w 11 2, off := 0, data := ((ws.drop 1).flatMap (leBytes 4)).take 4, req := none } := by
  subst hw
  exact (if_neg (by omega)).trans ((if_neg (by simp [hpower])).trans ((if_neg (by simp [hserves])).trans
    ((if_neg (by omega)).trans ((if_neg (by omega)).trans (if_neg (Nat.not_le.2 hmax))))))

end

end

end Sys2Proof.Machine
end

