-- ==== Sys2Proof/Proofs/CrustRows.lean ====
section
/-! PROOF. The events of the Crust store (R395, R398 to R403), and the rows of chapter 16. -/
namespace Sys2Proof.Machine

variable {s : State}

/-! A record is programmed (R395, R397, R398, R403). -/

section
variable {w : CrustWr}

theorem crustHead_page (hkind : w.kind = 0) :
    s.crustHead w = (s.crustAppend 1 w.key (s.schemaOf (pageOwner w.key)) (pageMerge (s.page w.key) w.off w.data) false
      (s.flag F.UPD_STAT_TRIAL) (s.f F.UPD_STAT_BANK)).map (fun t => t.crustAnswer w stOk [] 0) := if_pos hkind

theorem crustHead_counter (hkind : w.kind = 1) (hmax : s.counter w.key + leVal w.data < 2 ^ 64) (hadds : leVal w.data ≠ 0) :
    s.crustHead w = (s.crustAppend 2 w.key 0 (leBytes 8 (s.counter w.key + leVal w.data)) false (s.flag F.UPD_STAT_TRIAL)
      (s.f F.UPD_STAT_BANK)).map (fun t => t.crustAnswer w stOk (leBytes 8 (s.counter w.key + leVal w.data)) 0) :=
  (if_neg (by omega)).trans ((if_pos hkind).trans ((if_neg (Nat.not_le.2 hmax)).trans (if_neg hadds)))

theorem crustHead_mark (hkind : w.kind = 6) :
    s.crustHead w = (s.bankMark (w.key % 2) (1 < w.key)).map (fun t => t.crustAnswer w stOk [] 0) :=
  (if_neg (by omega)).trans (if_neg (by omega))

theorem exec_crustRecordWritten_idle {ok : Bool} (hno : s.crust.queue = [] ∨ s.crustServes = false) :
    exec (.crustRecordWritten ok) s = .next s := by
  simp only [exec, execCrustRecordWritten]
  split
  · rfl
  · next hq => rw [if_pos (by simpa [hq] using hno)]

/-- A queue that the store serves: its first write is programmed, or fails its check. -/
theorem exec_crustRecordWritten_served {ok : Bool} {q : List CrustWr} (hq : s.crust.queue = w :: q) (hserves : s.crustServes = true) :
    exec (.crustRecordWritten ok) s = .next (if ok then (s.crustPop.crustHead w).getD s else s.crustProgFail) := by
  simp only [exec, execCrustRecordWritten, hq, hserves, Bool.not_true, Bool.false_eq_true, if_false]
  cases ok
  · rfl
  · cases s.crustPop.crustHead w <;> rfl

theorem exec_crustRecordWritten_fails (hq : s.crust.queue ≠ []) (hserves : s.crustServes = true) :
    exec (.crustRecordWritten false) s = .next s.crustProgFail := by
  obtain ⟨w, q, hwq⟩ := List.exists_cons_of_ne_nil hq
  exact exec_crustRecordWritten_served hwq hserves

section
variable (hq : s.crust.queue.head? = some w)
include hq

theorem exec_crustRecordWritten_done {t : State} (hserves : s.crustServes = true) (hhead : s.crustPop.crustHead w = some t) :
    exec (.crustRecordWritten true) s = .next t := by
  obtain ⟨q, hwq⟩ := List.head?_eq_some_iff.1 hq
  rw [exec_crustRecordWritten_served hwq hserves, if_pos rfl, hhead, Option.getD_some]

theorem exec_crustRecordWritten_waits (hserves : s.crustServes = true) (hhead : s.crustPop.crustHead w = none) :
    exec (.crustRecordWritten true) s = .next s := by
  obtain ⟨q, hwq⟩ := List.head?_eq_some_iff.1 hq
  rw [exec_crustRecordWritten_served hwq hserves, if_pos rfl, hhead, Option.getD_none]

/-! The wait for space (R402). -/

theorem exec_crustSpaceWaitExpiry_refused (hhead : s.crustPop.crustHead w = none) :
    exec .crustSpaceWaitExpiry s = .next (s.crustPop.crustAnswer w stLimit (leBytes 2 0x0902) 1) := by
  obtain ⟨q, hwq⟩ := List.head?_eq_some_iff.1 hq
  simp only [exec, execCrustSpaceWaitExpiry, hwq, hhead]

theorem exec_crustSpaceWaitExpiry_fits (hhead : s.crustPop.crustHead w ≠ none) : exec .crustSpaceWaitExpiry s = .next s := by
  obtain ⟨q, hwq⟩ := List.head?_eq_some_iff.1 hq
  obtain ⟨t, ht⟩ := Option.ne_none_iff_exists'.1 hhead
  simp only [exec, execCrustSpaceWaitExpiry, hwq, ht]

end

end

theorem exec_crustSpaceWaitExpiry_idle (hq : s.crust.queue = []) : exec .crustSpaceWaitExpiry s = .next s := by
  simp only [exec, execCrustSpaceWaitExpiry, hq]

theorem logAdd_full {code arg : Nat} (hfull : s.crust.logRoom = none) : s.logAdd code arg = s.incF F.CRUST_ERR_LOGDROP 1 := by
  simp only [State.logAdd, hfull]

/-! The scan after reset (R395, R400). -/

section
variable (hscan : s.f F.CRUST_STAT_STATE = 1)
include hscan

/-- The scan ends: a torn record fills the open sector, an INDEX group leads to VERIFY. -/
theorem exec_crustOpenDone_scan {index torn : Bool} {t : State}
    (ht : t = match (if torn then s.crust.openSec else none) with
      | some i => s.modCrust (fun c => { c with secs := tblMod c.secs i (fun x => { x with st := 2 }) })
      | none => s) :
    exec (.crustOpenDone index torn) s =
      .next (if index then (t.setF F.CRUST_STAT_STATE 2).levelEdge 418 (t.levelOn 418) else t) := by
  subst ht
  exact congrArg Host.Outcome.next (if_neg (not_not.2 hscan))

section
variable {torn : Bool} (hwhole : torn = false ∨ s.crust.openSec = none)
include hwhole

theorem exec_crustOpenDone_index :
    exec (.crustOpenDone true torn) s = .next ((s.setF F.CRUST_STAT_STATE 2).levelEdge 418 (s.levelOn 418)) :=
  exec_crustOpenDone_scan hscan (by rcases hwhole with h | h <;> simp [h])

theorem exec_crustOpenDone_noIndex : exec (.crustOpenDone false torn) s = .next s :=
  exec_crustOpenDone_scan hscan (by rcases hwhole with h | h <;> simp [h])

end

theorem exec_crustOpenDone_torn {index : Bool} {i : Nat} {t : State} (hopen : s.crust.openSec = some i)
    (ht : t = s.modCrust (fun c => { c with secs := tblMod c.secs i (fun x => { x with st := 2 }) })) :
    exec (.crustOpenDone index true) s =
      .next (if index then (t.setF F.CRUST_STAT_STATE 2).levelEdge 418 (t.levelOn 418) else t) :=
  exec_crustOpenDone_scan hscan (by simp only [ht, hopen, if_true])

end

theorem exec_crustVerifyDone_ends {damaged : List Word} {t : State} (hst : s.f F.CRUST_STAT_STATE = 1 ∨ s.f F.CRUST_STAT_STATE = 2)
    (ht : t = damaged.foldl (fun s w => s.crustDamaged w.toNat) s) :
    exec (.crustVerifyDone damaged) s = .next (((t.setF F.CRUST_STAT_STATE 3).levelEdge 418 (t.levelOn 418)).raise 416) := by
  subst ht
  exact congrArg Host.Outcome.next (if_pos hst)

theorem crustDamaged_other {q : Nat} (hno : s.crust.recs.any (fun r => r.seq == q && r.good) = false) : s.crustDamaged q = s :=
  if_neg (by simp [hno])

/-! Compaction (R402). -/

section
variable {t : State} (hready : s.f F.CRUST_STAT_STATE = 3)
include hready

theorem exec_crustCompactionDone_none (hidle : s.crust.compact = none) : exec .crustCompactionDone s = .next s := by
  refine congrArg Host.Outcome.next ((if_neg (not_not.2 hready)).trans ?_)
  simp only [hidle]

section
variable {k : RKey} (hreq : s.crust.compact = some (some k)) (ht : t = s.modCrust (fun c => { c with compact := none }))
include hreq ht

theorem exec_crustCompactionDone_stopped (hstop : t.mustStop 1 = true) :
    exec .crustCompactionDone s = .next (t.failStopped k 1) := by
  subst ht
  refine congrArg Host.Outcome.next ((if_neg (not_not.2 hready)).trans ?_)
  simp only [hreq, if_pos hstop]

theorem exec_crustCompactionDone_answers (hgoes : t.mustStop 1 = false) :
    exec .crustCompactionDone s = .next ((t.compact.1.raise 419).ok k (leBytes 2 (b2n t.compact.2))) := by
  subst ht
  refine congrArg Host.Outcome.next ((if_neg (not_not.2 hready)).trans ?_)
  simp only [hreq]
  exact if_neg (by simp [hgoes])

end

theorem exec_crustCompactionDone_background (hreq : s.crust.compact = some none)
    (ht : t = (s.modCrust (fun c => { c with compact := none })).compact.1) :
    exec .crustCompactionDone s =
      .next ({ t with cmd := { t.cmd with tokens := t.cmd.tokens.filter (fun (q : Token) => q.tp != 7) } }.raise 419) := by
  subst ht
  refine congrArg Host.Outcome.next ((if_neg (not_not.2 hready)).trans ?_)
  simp only [hreq]

end

/-! The end of an erase (R401, R403). -/

theorem exec_crustEraseDone_idle {ok : Bool} (hno : s.crust.erasing = [] ∨ s.crust.suspended = true) :
    exec (.crustEraseDone ok) s = .next s := by
  simp only [exec, execCrustEraseDone]
  split
  · rfl
  · next he => rw [if_pos (by simpa [he] using hno)]

section
variable {i : Nat} {rest : List Nat} (herase : s.crust.erasing = i :: rest) (hgoes : s.crust.suspended = false)
include herase hgoes

theorem exec_crustEraseDone_fails :
    exec (.crustEraseDone false) s =
      .next (((s.modCrust (fun c => { c with erasing := rest, secs := tblMod c.secs i (fun x => { x with st := 2 }) })).incF
        F.CRUST_ERR_PROGERR 1).raise 421) := by
  simp only [exec, execCrustEraseDone, herase, hgoes, Bool.not_false, Bool.false_eq_true, if_true, if_false]

section
variable {t : State} (ht : t = (s.modCrust (fun c => { c with
  erasing := rest, secs := tblMod c.secs i (fun x => { x with st := 0, used := 0, erases := x.erases + 1 }) })).wearRegs)
include ht

/-- A sector that is erased: it is free, its erases are counted, and the wear is raised once. -/
theorem exec_crustEraseDone_erased :
    exec (.crustEraseDone true) s =
      .next (if 9000 ≤ (tblGet t.crust.secs i).erases && !t.crust.wearRaised then
        (t.modCrust (fun c => { c with wearRaised := true })).raise 420 else t) := by
  subst ht
  simp only [exec, execCrustEraseDone, herase, hgoes, Bool.not_true, Bool.false_eq_true, if_false]

theorem exec_crustEraseDone_worn (hworn : 9000 ≤ (tblGet t.crust.secs i).erases) (hnew : t.crust.wearRaised = false) :
    exec (.crustEraseDone true) s = .next ((t.modCrust (fun c => { c with wearRaised := true })).raise 420) := by
  rw [exec_crustEraseDone_erased herase hgoes ht, if_pos (by simp [hworn, hnew])]

theorem exec_crustEraseDone_fresh (hok : (tblGet t.crust.secs i).erases < 9000 ∨ t.crust.wearRaised = true) :
    exec (.crustEraseDone true) s = .next t := by
  rw [exec_crustEraseDone_erased herase hgoes ht, if_neg (by rcases hok with h | h <;> simp [h])]

end

end

/-- Settles O47, row by row: the requests, the ports, the records, the scan, compaction, erases. Where the rules leave a point
open, the clauses rest on the model's choices: log 140 (COUNTER_INC by 0 in a power fail), 67 (WRONG_STATE with STATE), 196
(CRUST_READ of 0x1C0 to 0x1FF), 197 (what a compaction copies) and 68 (the coding of log entries). -/
theorem crustStoreCommandsActAsTheTablesSay : Obligations.CrustStoreCommandsActAsTheTablesSay := by
  unfold Obligations.CrustStoreCommandsActAsTheTablesSay
  refine ⟨?readPage, ?readOffset, ?readCount, ?readRefused, ?read, ?writeShort, ?writeLong, ?writePage, ?writeOffset,
    ?writeRefused, ?write, ?incCounter, ?incRefused, ?incLimit, ?incReads, ?inc, ?logCount, ?logRefused, ?logNone, ?log,
    ?compactRefused, ?compact, ?refuse, ?rdreqNo, ?rdreqCounter, ?rdreqPage, ?wportRow, ?wportWord, ?wportNeed, ?wportDo,
    ?writtenIdle, ?writtenFails, ?written, ?writtenWaits, ?head, ?logRow, ?logFull, ?openOther, ?openIndex, ?openNoIndex,
    ?openTorn, ?openTornNoIndex, ?verifyOther, ?verify, ?damaged, ?background, ?backgroundNo, ?doneIdle, ?doneStopped, ?done,
    ?doneBackground, ?eraseIdle, ?eraseFails, ?eraseWorn, ?erase, ?spaceIdle, ?spaceRefused, ?spaceFits⟩
  case readPage => exact fun r s x s1 h hl hpage => exec_of_body rfl h (crustRead_badPage hl hpage)
  case readOffset => exact fun r s x s1 h hl hpage hoff => exec_of_body rfl h (crustRead_badOffset hl hpage hoff)
  case readCount => exact fun r s x s1 h hl hpage hoff hn => exec_of_body rfl h (crustRead_badCount hl hpage hoff hn)
  case readRefused =>
    exact fun r s x s1 h hl hpage hoff hn hno => exec_of_body rfl h (crustRead_refused hl hpage hoff hn hno)
  case read =>
    exact fun r s x s1 h hl hpage hoff hn hserves => exec_of_body rfl h (crustRead_answers hl hpage hoff hn hserves)
  case writeShort => exact fun r s x s1 h hl => exec_of_body rfl h (crustWrite_short hl)
  case writeLong => exact fun r s x s1 h hl => exec_of_body rfl h (crustWrite_long hl)
  case writePage => exact fun r s x s1 h hlo hhi hpage => exec_of_body rfl h (crustWrite_badPage hlo hhi hpage)
  case writeOffset =>
    exact fun r s x s1 h hlo hhi hpage hoff => exec_of_body rfl h (crustWrite_badOffset hlo hhi hpage hoff)
  case writeRefused =>
    exact fun r s x s1 h hlo hhi hpage hoff hno => exec_of_body rfl h (crustWrite_refused hlo hhi hpage hoff hno)
  case write =>
    exact fun r s x s1 h hlo hhi hpage hoff hserves hpower =>
      exec_of_body rfl h (crustWrite_queued hlo hhi hpage hoff hserves hpower)
  case incCounter => exact fun r s x s1 h hl hk => exec_of_body rfl h (counterInc_badCounter hl hk)
  case incRefused => exact fun r s x s1 h hl hlo hhi hno => exec_of_body rfl h (counterInc_refused hl hlo hhi hno)
  case incLimit =>
    exact fun r s x s1 v h hl hlo hhi hserves hpower hv hmax =>
      exec_of_body rfl h (counterInc_limit hl hlo hhi hserves hpower hv hmax)
  case incReads =>
    exact fun r s x s1 v h hl hlo hhi hserves hpower hv hmax hnone =>
      exec_of_body rfl h (counterInc_reads hl hlo hhi hserves hpower hv hmax hnone)
  case inc =>
    exact fun r s x s1 v h hl hlo hhi hserves hpower hv hmax hsome =>
      exec_of_body rfl h (counterInc_queued hl hlo hhi hserves hpower hv hmax hsome)
  case logCount => exact fun r s x s1 h hl hn => exec_of_body rfl h (logRead_badCount hl hn)
  case logRefused => exact fun r s x s1 h hl hlo hhi hno => exec_of_body rfl h (logRead_refused hl hlo hhi hno)
  case logNone =>
    exact fun r s x s1 es h hl hlo hhi hserves hes hnone => exec_of_body rfl h (logRead_none hl hlo hhi hserves hes hnone)
  case log =>
    exact fun r s x s1 es e h hl hlo hhi hserves hes hfirst =>
      exec_of_body rfl h (logRead_answers hl hlo hhi hserves hes hfirst)
  case compactRefused => exact fun r s x s1 h hl hruns => exec_of_body rfl h (crustCompact_refused hl hruns)
  case compact => exact fun r s x s1 h hl hidle => exec_of_body rfl h (crustCompact_begins hl hidle)
  case refuse => exact fun s k => rfl
  case rdreqNo =>
    exact fun who key counter s t hok ht hno => congrArg Host.Outcome.next ((regDo_ok hok).trans (rdreq_unserved ht hno))
  case rdreqCounter =>
    exact fun who key s t hok ht hserves hkey =>
      congrArg Host.Outcome.next ((regDo_ok hok).trans (rdreq_counter ht hserves hkey))
  case rdreqPage =>
    exact fun who key s t hok ht hserves => congrArg Host.Outcome.next ((regDo_ok hok).trans (rdreq_page ht hserves))
  case wportRow => exact fun who words s hok => congrArg Host.Outcome.next (regDo_ok hok)
  case wportWord =>
    exact fun s i w ws t hws ht =>
      ⟨wportWord_drops hws ht, fun hlen => wportWord_completes hws hlen ht, wportWord_waits hws⟩
  case wportNeed =>
    exact fun w hres => ⟨wportNeed_page hres, wportNeed_counter hres, wportNeed_log hres, fun hkind => if_pos (.inr hkind)⟩
  case wportDo =>
    exact fun s ws w hw => ⟨wportDo_log hw, wportDo_powerFail hw, fun hkind hpower => wportDo_unserved hw hpower hkind,
      fun hkind hpower => wportDo_page hw hpower hkind, fun hkind hpower => wportDo_counter hw hpower hkind⟩
  case writtenIdle => exact fun ok s => exec_crustRecordWritten_idle
  case writtenFails => exact fun s => exec_crustRecordWritten_fails
  case written => exact fun s w t hhead hserves ht => exec_crustRecordWritten_done hhead hserves ht
  case writtenWaits => exact fun s w => exec_crustRecordWritten_waits
  case head =>
    rintro s w _ _ rfl rfl
    exact ⟨crustHead_page, crustHead_counter, crustHead_mark⟩
  case logRow => exact fun code arg s => rfl
  case logFull => exact fun s code arg => logAdd_full
  case openOther => exact fun index torn s hother => congrArg Host.Outcome.next (if_pos hother)
  case openIndex => exact fun torn s hscan hwhole => exec_crustOpenDone_index hscan hwhole
  case openNoIndex => exact fun torn s hscan hwhole => exec_crustOpenDone_noIndex hscan hwhole
  case openTorn => exact fun s i t hscan hopen ht => exec_crustOpenDone_torn hscan hopen ht
  case openTornNoIndex => exact fun s i t hscan hopen ht => exec_crustOpenDone_torn hscan hopen ht
  case verifyOther =>
    exact fun damaged s hnot1 hnot2 => congrArg Host.Outcome.next (if_neg (not_or.2 ⟨hnot1, hnot2⟩))
  case verify => exact fun damaged s t => exec_crustVerifyDone_ends
  case damaged => exact fun s q => ⟨crustDamaged_other, fun hgood => if_pos hgood⟩
  case background => exact fun s hdue => congrArg Host.Outcome.next (if_pos (by simpa using hdue))
  case backgroundNo => exact fun s hno => congrArg Host.Outcome.next (if_neg (by simpa using hno))
  case doneIdle =>
    rintro s (hother | hidle)
    · exact congrArg Host.Outcome.next (if_pos hother)
    · by_cases hready : s.f F.CRUST_STAT_STATE = 3
      · exact exec_crustCompactionDone_none hready hidle
      · exact congrArg Host.Outcome.next (if_pos hready)
  case doneStopped => exact fun s k t hready hk ht hstop => exec_crustCompactionDone_stopped hready hk ht hstop
  case done => exact fun s k t hready hk ht hgo => exec_crustCompactionDone_answers hready hk ht hgo
  case doneBackground => exact fun s t => exec_crustCompactionDone_background
  case eraseIdle => exact fun ok s => exec_crustEraseDone_idle
  case eraseFails => exact fun s i rest => exec_crustEraseDone_fails
  case eraseWorn => exact fun s i rest t herase hgoes ht hworn hnew => exec_crustEraseDone_worn herase hgoes ht hworn hnew
  case erase => exact fun s i rest t herase hgoes ht hok => exec_crustEraseDone_fresh herase hgoes ht hok
  case spaceIdle => exact fun s => exec_crustSpaceWaitExpiry_idle
  case spaceRefused => exact fun s w => exec_crustSpaceWaitExpiry_refused
  case spaceFits => exact fun s w => exec_crustSpaceWaitExpiry_fits

end Sys2Proof.Machine
end
-- ==== Sys2Proof/Proofs/Staging.lean ====
section
/-! PROOF. Staging (R411, R413, R422): a peer's token, then the checks of each request in their order. -/
namespace Sys2Proof.Machine

variable {c : Ctx} {s t : State}

theorem peerGuard_held {b : Body} {q : Token} (hpeer : s.peerToken c = some q) :
    peerGuard b c s = (s.finish c.key stBusyMaint (s.holder q)).raise 404 := by
  simp only [peerGuard, hpeer]

section
variable (hpeer : s.peerToken c = none) (ht : t = s.takePeer c)
include hpeer ht

theorem peerGuard_free {b : Body} : peerGuard b c s = b c t := by
  simp only [peerGuard, hpeer, ht]

/-! STAGE_BEGIN (R411, R413): the bank's state, then the header field by field. -/

section
variable (hl : c.pl.length = 16)
include hl

theorem stageBegin_wrongState (hrecov : t.upd.recov ≠ 1) (hrun : t.runIs 4 = false) : bodyStageBegin c s = t.bankWrong c.key :=
  (peerGuard_free hpeer ht).trans ((if_pos hl).trans (if_pos ⟨hrecov, hrun⟩))

section
variable (hmay : t.upd.recov = 1 ∨ t.runIs 4 = true)
include hmay

/-- The bank may be staged. What is left is the header, then what is dropped, erased and recorded. -/
theorem stageBegin_allowed {u v : State} {b : Nat} (hu : u = (t.abandonApply.stopServed 0).pkgBegin c.pl) (hb : b = t.otherBank)
    (hv : v = { u with
      mem := memClear u.mem (bankBase b) 0x1800000
      upd := { u.upd with banks := tblSet u.upd.banks b { tblGet u.upd.banks b with count := 0 } } }) :
    bodyStageBegin c s =
      if leAt c.pl 0 2 ≠ 0x4B50 then t.badParam c.key 0
      else if leAt c.pl 2 1 ≠ 1 then t.badParam c.key 2
      else if 3 < leAt c.pl 3 1 then t.badParam c.key 3
      else if leAt c.pl 4 4 < 1072 then t.badParam c.key 4
      else if 8388608 < leAt c.pl 4 4 then t.limit c.key 0x0A01
      else if leAt c.pl 12 4 ≠ 0 then t.badParam c.key 12
      else if t.upd.recov = 1 then u.ok c.key [] else (v.bankRec b 1 0 0 0 0).ok c.key [] := by
  subst hv hb hu
  exact (peerGuard_free hpeer ht).trans ((if_pos hl).trans (if_neg (by rcases hmay with h | h <;> simp [h])))

theorem stageBegin_badMagic (hmagic : leAt c.pl 0 2 ≠ 0x4B50) : bodyStageBegin c s = t.badParam c.key 0 :=
  (stageBegin_allowed hpeer ht hl hmay rfl rfl rfl).trans (if_pos hmagic)

section
variable (hmagic : leAt c.pl 0 2 = 0x4B50)
include hmagic

theorem stageBegin_badVersion (hver : leAt c.pl 2 1 ≠ 1) : bodyStageBegin c s = t.badParam c.key 2 :=
  (stageBegin_allowed hpeer ht hl hmay rfl rfl rfl).trans ((if_neg (not_not.2 hmagic)).trans (if_pos hver))

section
variable (hver : leAt c.pl 2 1 = 1)
include hver

theorem stageBegin_badFlags (hflags : 3 < leAt c.pl 3 1) : bodyStageBegin c s = t.badParam c.key 3 :=
  (stageBegin_allowed hpeer ht hl hmay rfl rfl rfl).trans ((if_neg (not_not.2 hmagic)).trans ((if_neg (not_not.2 hver)).trans
    (if_pos hflags)))

section
variable (hflags : leAt c.pl 3 1 ≤ 3)
include hflags

theorem stageBegin_short (hshort : leAt c.pl 4 4 < 1072) : bodyStageBegin c s = t.badParam c.key 4 :=
  (stageBegin_allowed hpeer ht hl hmay rfl rfl rfl).trans ((if_neg (not_not.2 hmagic)).trans ((if_neg (not_not.2 hver)).trans
    ((if_neg (Nat.not_lt.2 hflags)).trans (if_pos hshort))))

section
variable (hmin : 1072 ≤ leAt c.pl 4 4)
include hmin

theorem stageBegin_long (hlong : 8388608 < leAt c.pl 4 4) : bodyStageBegin c s = t.limit c.key 0x0A01 :=
  (stageBegin_allowed hpeer ht hl hmay rfl rfl rfl).trans ((if_neg (not_not.2 hmagic)).trans ((if_neg (not_not.2 hver)).trans
    ((if_neg (Nat.not_lt.2 hflags)).trans ((if_neg (Nat.not_lt.2 hmin)).trans (if_pos hlong)))))

section
variable (hmax : leAt c.pl 4 4 ≤ 8388608)
include hmax

theorem stageBegin_badReserved (hres : leAt c.pl 12 4 ≠ 0) : bodyStageBegin c s = t.badParam c.key 12 :=
  (stageBegin_allowed hpeer ht hl hmay rfl rfl rfl).trans ((if_neg (not_not.2 hmagic)).trans ((if_neg (not_not.2 hver)).trans
    ((if_neg (Nat.not_lt.2 hflags)).trans ((if_neg (Nat.not_lt.2 hmin)).trans ((if_neg (Nat.not_lt.2 hmax)).trans
      (if_pos hres))))))

/-- An accepted header: the recovery loader begins a package, the firmware erases the other bank and records it STAGING. -/
theorem stageBegin_accepted (hres : leAt c.pl 12 4 = 0) {u v : State} {b : Nat}
    (hu : u = (t.abandonApply.stopServed 0).pkgBegin c.pl) (hb : b = t.otherBank)
    (hv : v = { u with
      mem := memClear u.mem (bankBase b) 0x1800000
      upd := { u.upd with banks := tblSet u.upd.banks b { tblGet u.upd.banks b with count := 0 } } }) :
    bodyStageBegin c s = if t.upd.recov = 1 then u.ok c.key [] else (v.bankRec b 1 0 0 0 0).ok c.key [] :=
  (stageBegin_allowed hpeer ht hl hmay hu hb hv).trans ((if_neg (not_not.2 hmagic)).trans ((if_neg (not_not.2 hver)).trans
    ((if_neg (Nat.not_lt.2 hflags)).trans ((if_neg (Nat.not_lt.2 hmin)).trans ((if_neg (Nat.not_lt.2 hmax)).trans
      (if_neg (not_not.2 hres)))))))

end

end

end

end

end

end

end

/-! STAGE_DATA (R413): the next bytes of the stream. -/

theorem stageData_short (hl : c.pl.length < 4) : bodyStageData c s = t.badLen c.key 4 :=
  (peerGuard_free hpeer ht).trans (if_pos hl)

section
variable (hl : 4 ≤ c.pl.length)
include hl

theorem stageData_wrongState (hno : t.upd.staging = false ∨ t.upd.apply ≠ none) : bodyStageData c s = t.bankWrong c.key :=
  (peerGuard_free hpeer ht).trans ((if_neg (Nat.not_lt.2 hl)).trans (if_pos (by
    simpa [Option.isSome_iff_ne_none] using hno)))

section
variable (hstaging : t.upd.staging = true) (hidle : t.upd.apply = none)
include hstaging hidle

theorem stageData_badOffset (hoff : leAt c.pl 0 4 ≠ t.upd.pkg.length) : bodyStageData c s = t.badParam c.key 0 :=
  (peerGuard_free hpeer ht).trans ((if_neg (Nat.not_lt.2 hl)).trans ((if_neg (by simp [hstaging, hidle])).trans (if_pos hoff)))

section
variable (hoff : leAt c.pl 0 4 = t.upd.pkg.length)
include hoff

theorem stageData_badData (hbad : 4096 < (c.pl.drop 4).length ∨ t.upd.pkgLen < leAt c.pl 0 4 + (c.pl.drop 4).length) :
    bodyStageData c s = t.badParam c.key 4 :=
  (peerGuard_free hpeer ht).trans ((if_neg (Nat.not_lt.2 hl)).trans ((if_neg (by simp [hstaging, hidle])).trans
    ((if_neg (not_not.2 hoff)).trans (if_pos hbad))))

theorem stageData_appends {u : State} (hmax : (c.pl.drop 4).length ≤ 4096)
    (hfit : leAt c.pl 0 4 + (c.pl.drop 4).length ≤ t.upd.pkgLen)
    (hu : u = t.modUpd (fun u => { u with
      pkg := u.pkg ++ c.pl.drop 4, complete := u.pkg.length + (c.pl.drop 4).length == u.pkgLen })) :
    bodyStageData c s = (if t.upd.recov = 1 then u.mputBytes (leAt c.pl 0 4) (c.pl.drop 4) else u).ok c.key [] := by
  subst hu
  exact (peerGuard_free hpeer ht).trans ((if_neg (Nat.not_lt.2 hl)).trans ((if_neg (by simp [hstaging, hidle])).trans
    ((if_neg (not_not.2 hoff)).trans (if_neg (not_or.2 ⟨Nat.not_lt.2 hmax, Nat.not_lt.2 hfit⟩)))))

end

end

end

/-! STAGE_END (R413). -/

section
variable (hl : c.pl.length = 0)
include hl

theorem stageEnd_wrongState (hno : t.upd.staging = false ∨ t.upd.apply ≠ none) : bodyStageEnd c s = t.bankWrong c.key :=
  (peerGuard_free hpeer ht).trans ((if_pos hl).trans (if_pos (by simpa [Option.isSome_iff_ne_none] using hno)))

section
variable (hstaging : t.upd.staging = true) (hidle : t.upd.apply = none)
include hstaging hidle

theorem stageEnd_incomplete (hmore : t.upd.complete = false) :
    bodyStageEnd c s = ((t.accept c.key).failed c.key 0x0A11).raise 433 :=
  (peerGuard_free hpeer ht).trans ((if_pos hl).trans ((if_neg (by simp [hstaging, hidle])).trans (if_pos (by simp [hmore]))))

theorem stageEnd_applies {u : State} (hwhole : t.upd.complete = true)
    (hu : u = ((t.accept c.key).setF F.UPD_STAT_APPLIED 0).modUpd (fun u => { u with apply := some c.key })) :
    bodyStageEnd c s = if t.upd.recov = 1 then u else u.mputBytes (bankBase t.otherBank) (t.upd.pkg.take 1072) := by
  subst hu
  exact (peerGuard_free hpeer ht).trans ((if_pos hl).trans ((if_neg (by simp [hstaging, hidle])).trans
    (if_neg (by simp [hwhole]))))

end

end

end

end Sys2Proof.Machine
end

