-- ==== Sys2Proof/Proofs/Forwarding.lean ====
section
/-! PROOF. Trials and confirmation (R417, R418, R420), forwarding (R422), the service port (R423, R425), and the rows of chapter
17. -/
namespace Sys2Proof.Machine

/-! CONFIRM and the trial (R417). -/

section
variable {c : Ctx} {s t : State} {b : Nat}

section
variable (hl : c.pl.length = 0)
include hl

theorem confirm_trial (hrun : s.runBank = some b) (htrial : s.bankSt b = 3) (hhealthy : s.flag F.UPD_STAT_HEALTHY = true) :
    bodyConfirm c s = (s.confirmTrial b).ok c.key [] := by
  refine (if_pos hl).trans ?_
  simp only [hrun, if_pos (And.intro htrial hhealthy)]

theorem confirm_wrongState (hrun : s.runBank = some b) (hno : s.bankSt b ≠ 3 ∨ s.flag F.UPD_STAT_HEALTHY = false) :
    bodyConfirm c s = s.bankWrong c.key := by
  refine (if_pos hl).trans ?_
  simp only [hrun]
  exact if_neg (by rcases hno with h | h <;> simp [h])

theorem confirm_recovery (hrun : s.runBank = none) : bodyConfirm c s = s.bankWrong c.key := by
  refine (if_pos hl).trans ?_
  simp only [hrun]

end

theorem confLeft_trial (htrial : s.runIs 3 = true) :
    s.confLeft = s.f F.UPD_CTRL_CONF_S - (s.now - s.upd.trialAt) / 1000000000 := if_pos htrial

theorem confLeft_noTrial (hno : s.runIs 3 = false) : s.confLeft = 0 := if_neg (by simp [hno])

theorem exec_trialHealthy_keeps (hno : s.trialHealthy = false ∨ s.flag F.UPD_STAT_HEALTHY = true) :
    exec .trialHealthy s = .next s := congrArg Host.Outcome.next (if_pos (by simpa using hno))

/-- A trial becomes healthy, once; AUTOCONF confirms it. -/
theorem exec_trialHealthy_becomes (hhealthy : s.trialHealthy = true) (hnew : s.flag F.UPD_STAT_HEALTHY = false)
    (ht : t = s.setF F.UPD_STAT_HEALTHY 1) (hrun : t.runBank = some b) :
    exec .trialHealthy s = .next (if t.flag F.UPD_CTRL_AUTOCONF then t.confirmTrial b else t) := by
  subst ht
  refine congrArg Host.Outcome.next ((if_neg (by simp [hhealthy, hnew])).trans ?_)
  simp only [hrun]

theorem trialEnds_trial {cause : Nat} (hrun : s.runBank = some b) (htrial : s.bankSt b = 3) :
    s.trialEnds cause = ((s.bankTo b 6 cause 0).raise 436).reqReset 15 none := by
  simp only [State.trialEnds, hrun, if_pos htrial]

theorem trialEnds_noTrial {cause : Nat} (hno : s.runBank = none ∨ ∃ b, s.runBank = some b ∧ s.bankSt b ≠ 3) :
    s.trialEnds cause = s := by
  obtain hrun | ⟨b, hrun, hother⟩ := hno
  · simp only [State.trialEnds, hrun]
  · simp only [State.trialEnds, hrun, if_neg hother]

theorem confirmTrial_eq (ht : t = if s.bankSt (1 - b) = 4 then (s.bankTo b 4 0 0).bankTo (1 - b) 5 0 0 else s.bankTo b 4 0 0) :
    s.confirmTrial b = (((t.setF F.UPD_STAT_TRIAL 0).raise 435).markBank b true).raiseFloor b := by
  subst ht
  rfl

/-! UPD_UNFIT (R420). -/

theorem updUnfit_noReport {w : Nat} (hno : bit w 31 = false) : s.updUnfit w = s := if_pos (by simp [hno])

theorem updUnfit_recovery {w : Nat} (hrun : s.runBank = none) : s.updUnfit w = s := by
  simp only [State.updUnfit, hrun, ite_self]

theorem updUnfit_reports {w cause : Nat} (hbit : bit w 31 = true) (hrun : s.runBank = some b)
    (hcause : cause = if bit w 19 = true then 0x0A41 else 0x0A40)
    (ht : t = (s.bankTo b 8 cause (bits w 18 16)).logAdd (0xA000 + cause % 0x1000) (w % 2 ^ 16)) :
    s.updUnfit w = ({ t with upd := { t.upd with setOk := false, unfitDue := true } }.raise 437).reqReset 15 none := by
  subst ht hcause
  refine (if_neg (by simp [hbit])).trans ?_
  simp only [hrun]

end

/-! FORWARD (R422): the length, the count, the addresses. -/

section
variable {c : Ctx} {s : State}

theorem forward_short (hl : c.pl.length < 4) : bodyForward c s = s.badLen c.key 4 := if_pos hl

theorem forward_badLength (hlo : 4 ≤ c.pl.length) (hl : c.pl.length % 2 ≠ 0 ∨ 130 < c.pl.length) :
    bodyForward c s = s.badLen c.key (min 130 (c.pl.length - 1)) :=
  (if_neg (Nat.not_lt.2 hlo)).trans (if_pos hl)

section
variable (hl : 4 ≤ c.pl.length ∧ c.pl.length % 2 = 0 ∧ c.pl.length ≤ 130)
include hl

theorem forward_badCount (hn : leAt c.pl 0 2 < 1 ∨ 64 < leAt c.pl 0 2) : bodyForward c s = s.badParam c.key 0 :=
  (if_neg (by omega)).trans ((if_neg (by omega)).trans (if_pos hn))

section
variable (hlo : 1 ≤ leAt c.pl 0 2) (hhi : leAt c.pl 0 2 ≤ 64)
include hlo hhi

theorem forward_otherLength (hcount : c.pl.length ≠ 2 + 2 * leAt c.pl 0 2) :
    bodyForward c s = s.badLen c.key (2 + 2 * leAt c.pl 0 2) :=
  (if_neg (by omega)).trans ((if_neg (by omega)).trans ((if_neg (by omega)).trans (if_pos hcount)))

section
variable (hcount : c.pl.length = 2 + 2 * leAt c.pl 0 2) {as : List Nat}
  (has : as = (List.range (leAt c.pl 0 2)).map (fun i => leAt c.pl (2 + 2 * i) 2))
include hcount has

theorem forward_badAddress {i : Nat}
    (hbad : firstBelow (leAt c.pl 0 2) (fun i => !(decide (1 ≤ as.getD i 0) && decide (as.getD i 0 ≤ 0xFFE))) = some i) :
    bodyForward c s = s.badParam c.key (2 + 2 * i) := by
  subst has
  refine (if_neg (by omega)).trans ((if_neg (by omega)).trans ((if_neg (by omega)).trans ((if_neg (not_not.2 hcount)).trans ?_)))
  simp only [hbad]

section
variable (hgood : firstBelow (leAt c.pl 0 2) (fun i => !(decide (1 ≤ as.getD i 0) && decide (as.getD i 0 ≤ 0xFFE))) = none)
include hgood

/-- Every address is one: what is left is the package and the forwarding under way. -/
theorem forward_addressed :
    bodyForward c s = if !s.upd.complete || s.upd.fwd.isSome then s.bankWrong c.key else
      (((s.stopServed 0).modUpd (fun u => { u with fwd := some ⟨c.key, as, [], [], as⟩ })).accept c.key).fwdFill 65 := by
  subst has
  refine (if_neg (by omega)).trans ((if_neg (by omega)).trans ((if_neg (by omega)).trans ((if_neg (not_not.2 hcount)).trans ?_)))
  simp only [hgood]

theorem forward_wrongState (hno : s.upd.complete = false ∨ s.upd.fwd ≠ none) : bodyForward c s = s.bankWrong c.key :=
  (forward_addressed hl hlo hhi hcount has hgood).trans (if_pos (by simpa [Option.isSome_iff_ne_none] using hno))

theorem forward_begins (hwhole : s.upd.complete = true) (hidle : s.upd.fwd = none) :
    bodyForward c s =
      (((s.stopServed 0).modUpd (fun u => { u with fwd := some ⟨c.key, as, [], [], as⟩ })).accept c.key).fwdFill 65 :=
  (forward_addressed hl hlo hhi hcount has hgood).trans (if_neg (by simp [hwhole, hidle]))

end

end

end

end

end

section
variable {s t : State} {g : FwdRun}

theorem fwdPeerDone_none {a stat : Nat} (hnone : s.upd.fwd = none) : s.fwdPeerDone a stat = s := by
  simp only [State.fwdPeerDone, hnone]

section
variable (hfwd : s.upd.fwd = some g)
include hfwd

section
variable {a stat : Nat}

theorem fwdPeerDone_other (hother : g.active.any (fun x => x.1 == a) = false) : s.fwdPeerDone a stat = s := by
  simp only [State.fwdPeerDone, hfwd, hother, Bool.not_false, if_true]

theorem fwdPeerDone_active (hactive : g.active.any (fun x => x.1 == a) = true)
    (ht : t = s.modFwd (fun f => { f with active := f.active.filter (fun x => x.1 != a), done := f.done ++ [(a, stat)] })) :
    s.fwdPeerDone a stat = if t.mustStop 0 then t.modFwd (fun f => { f with todo := [] }) else t.fwdFill 65 := by
  subst ht
  simp only [State.fwdPeerDone, hfwd, hactive, Bool.not_true, Bool.false_eq_true, if_false]

end

theorem exec_forwardDone_waits (hmore : g.active ≠ [] ∨ g.todo ≠ []) : exec .forwardDone s = .next s := by
  simp only [exec, execForwardDone, hfwd]
  exact congrArg Host.Outcome.next (if_pos (by simpa using hmore))

/-- Every peer has ended: the completion carries each status, TIMEOUT for an address without one. -/
theorem exec_forwardDone_ends {st : Nat → Nat} (hactive : g.active = []) (htodo : g.todo = [])
    (ht : t = s.modUpd (fun u => { u with fwd := none }))
    (hst : st = fun (a : Nat) => ((g.done.find? (fun x => x.1 == a)).map (·.2)).getD stTimeout) :
    exec .forwardDone s = .next (if t.mustStop 0 then t.failStopped g.key 0 else
      (t.ok g.key (g.all.flatMap (fun a => leBytes 2 a ++ leBytes 1 (st a) ++ leBytes 1 0))).raise 438) := by
  have hstat : ∀ a, st a = match g.done.find? (fun x => x.1 == a) with | some x => x.2 | none => stTimeout := by
    intro a
    subst hst
    dsimp only
    cases g.done.find? (fun x => x.1 == a) <;> rfl
  subst ht
  simp only [exec, execForwardDone, hfwd, hactive, htodo, hstat]
  rfl

end

theorem exec_forwardDone_none (hnone : s.upd.fwd = none) : exec .forwardDone s = .next s := by
  simp only [exec, execForwardDone, hnone]

/-! The service port (R423, R425). -/

section
variable (ht : t = s.setFlag F.USBS_STAT_ATTACHED (s.flag F.USBS_CTRL_EN && s.flag F.USBS_STAT_VBUS))
include ht

theorem usbAttach_on (hen : s.flag F.USBS_CTRL_EN = true) (hvbus : s.flag F.USBS_STAT_VBUS = true) : s.usbAttach = t := by
  subst ht
  exact if_pos (by simp [hen, hvbus])

theorem usbAttach_off (hno : s.flag F.USBS_CTRL_EN = false ∨ s.flag F.USBS_STAT_VBUS = false) :
    s.usbAttach = ((t.setF F.USBS_STAT_CONFIGURED 0).setF F.USBS_STAT_HS 0).setF F.USBS_STAT_SUSPENDED 0 := by
  subst ht
  exact if_neg (by rcases hno with h | h <;> simp [h])

end

theorem exec_usbVbusChange_appears (hoff : s.flag F.USBS_STAT_VBUS = false) :
    exec (.usbVbusChange true) s = .next ((((s.setFlag F.USBS_STAT_VBUS true).usbAttach).raise 440).parkWake 5 0) :=
  congrArg Host.Outcome.next (if_neg (by simp [hoff]))

theorem exec_usbVbusChange_goes (hon : s.flag F.USBS_STAT_VBUS = true) (ht : t = (s.setFlag F.USBS_STAT_VBUS false).usbAttach) :
    exec (.usbVbusChange false) s =
      .next (((t.cmd.sess.filter (fun (x : Sess) => x.tp == 3)).foldl (fun s x => s.closeSess x.id) t).raise 440) := by
  subst ht
  exact congrArg Host.Outcome.next (if_neg (by simp [hon]))

end

/-- Settles O46, row by row: staging, confirmation, the trial, the resets due, forwarding, the service port. Where the rules leave
a point open, the clauses rest on the model's choices: log 73 (STAGE_BEGIN's BAD_PARAM and WRONG_STATE), 127 (the length FORWARD
names), 119 (an apply is one step), 120 (FORWARD's addresses and pieces) and 187 (the log entry's CODE). -/
theorem stagingTrialsForwardingAndUsbActAsTheTablesSay : Obligations.StagingTrialsForwardingAndUsbActAsTheTablesSay := by
  unfold Obligations.StagingTrialsForwardingAndUsbActAsTheTablesSay
  refine ⟨?beginHeld, ?dataHeld, ?endHeld, ?beginState, ?beginMagic, ?beginVersion, ?beginFlags, ?beginShort, ?beginLong,
    ?beginReserved, ?beginLoader, ?begin, ?dataShort, ?dataState, ?dataOffset, ?dataBad, ?data, ?dataLoader, ?endState,
    ?endIncomplete, ?endLoader, ?endBank, ?confirm, ?confirmState, ?confirmRecovery, ?status, ?confLeft, ?confLeftNone, ?fwdShort,
    ?fwdLength, ?fwdCount, ?fwdOther, ?fwdAddress, ?fwdState, ?fwd, ?peerNone, ?peerOther, ?peerNext, ?peerStop, ?doneNone,
    ?doneWaits, ?doneStopped, ?done, ?healthyEq, ?healthyKeeps, ?healthyConfirms, ?healthy, ?deadline, ?deadlineNone,
    ?confirmEq, ?resetDue, ?resetNone, ?unfitNone, ?unfitRecovery, ?unfit, ?usbCtrl, ?usbAttach, ?vbusSame, ?vbusOn, ?vbusOff,
    ?usbDetached, ?usbConfigure⟩
  case beginHeld => exact fun r s x s1 q h hpeer => exec_of_body rfl h (peerGuard_held hpeer)
  case dataHeld =>
    exact fun r s x s1 q h hpeer =>
      exec_of_body rfl h (show bodyStageData _ s1 = _ from peerGuard_held hpeer)
  case endHeld => exact fun r s x s1 q h hpeer => exec_of_body rfl h (peerGuard_held hpeer)
  case beginState =>
    exact fun r s x s1 t h hpeer ht hl hrecov hrun => exec_of_body rfl h (stageBegin_wrongState hpeer ht hl hrecov hrun)
  case beginMagic =>
    exact fun r s x s1 t h hpeer ht hl hmay hmagic => exec_of_body rfl h (stageBegin_badMagic hpeer ht hl hmay hmagic)
  case beginVersion =>
    exact fun r s x s1 t h hpeer ht hl hmay hmagic hver =>
      exec_of_body rfl h (stageBegin_badVersion hpeer ht hl hmay hmagic hver)
  case beginFlags =>
    exact fun r s x s1 t h hpeer ht hl hmay hmagic hver hflags =>
      exec_of_body rfl h (stageBegin_badFlags hpeer ht hl hmay hmagic hver hflags)
  case beginShort =>
    exact fun r s x s1 t h hpeer ht hl hmay hmagic hver hflags hshort =>
      exec_of_body rfl h (stageBegin_short hpeer ht hl hmay hmagic hver hflags hshort)
  case beginLong =>
    exact fun r s x s1 t h hpeer ht hl hmay hmagic hver hflags hmin hlong =>
      exec_of_body rfl h (stageBegin_long hpeer ht hl hmay hmagic hver hflags hmin hlong)
  case beginReserved =>
    exact fun r s x s1 t h hpeer ht hl hmay hmagic hver hflags hmin hmax hres =>
      exec_of_body rfl h (stageBegin_badReserved hpeer ht hl hmay hmagic hver hflags hmin hmax hres)
  case beginLoader =>
    exact fun r s x s1 t h hpeer ht hl hmay hmagic hver hflags hmin hmax hres hrecov => exec_of_body rfl h
      ((stageBegin_accepted hpeer ht hl hmay hmagic hver hflags hmin hmax hres rfl rfl rfl).trans (if_pos hrecov))
  case begin =>
    exact fun r s x s1 t u v h hpeer ht hl hmay hmagic hver hflags hmin hmax hres hrecov hu hv => exec_of_body rfl h
      ((stageBegin_accepted hpeer ht hl hmay hmagic hver hflags hmin hmax hres hu rfl hv).trans (if_neg hrecov))
  case dataShort => exact fun r s x s1 t h hpeer ht hl => exec_of_body rfl h (stageData_short hpeer ht hl)
  case dataState => exact fun r s x s1 t h hpeer ht hl hno => exec_of_body rfl h (stageData_wrongState hpeer ht hl hno)
  case dataOffset =>
    exact fun r s x s1 t h hpeer ht hl hstaging hidle hoff =>
      exec_of_body rfl h (stageData_badOffset hpeer ht hl hstaging hidle hoff)
  case dataBad =>
    exact fun r s x s1 t h hpeer ht hl hstaging hidle hoff hbad =>
      exec_of_body rfl h (stageData_badData hpeer ht hl hstaging hidle hoff hbad)
  case data =>
    exact fun r s x s1 t u h hpeer ht hl hstaging hidle hoff hmax hfit hu hrecov => exec_of_body rfl h
      ((stageData_appends hpeer ht hl hstaging hidle hoff hmax hfit hu).trans (congrArg (State.ok · _ []) (if_neg hrecov)))
  case dataLoader =>
    exact fun r s x s1 t u h hpeer ht hl hstaging hidle hoff hmax hfit hu hrecov => exec_of_body rfl h
      ((stageData_appends hpeer ht hl hstaging hidle hoff hmax hfit hu).trans (congrArg (State.ok · _ []) (if_pos hrecov)))
  case endState => exact fun r s x s1 t h hpeer ht hl hno => exec_of_body rfl h (stageEnd_wrongState hpeer ht hl hno)
  case endIncomplete =>
    exact fun r s x s1 t h hpeer ht hl hstaging hidle hmore =>
      exec_of_body rfl h (stageEnd_incomplete hpeer ht hl hstaging hidle hmore)
  case endLoader =>
    exact fun r s x s1 t u h hpeer ht hl hstaging hidle hwhole hu hrecov => exec_of_body rfl h
      ((stageEnd_applies hpeer ht hl hstaging hidle hwhole hu).trans (if_pos hrecov))
  case endBank =>
    exact fun r s x s1 t u h hpeer ht hl hstaging hidle hwhole hu hrecov => exec_of_body rfl h
      ((stageEnd_applies hpeer ht hl hstaging hidle hwhole hu).trans (if_neg hrecov))
  case confirm =>
    exact fun r s x s1 b h hl hrun htrial hhealthy => exec_of_body rfl h (confirm_trial hl hrun htrial hhealthy)
  case confirmState => exact fun r s x s1 b h hl hrun hno => exec_of_body rfl h (confirm_wrongState hl hrun hno)
  case confirmRecovery => exact fun r s x s1 h hl hrun => exec_of_body rfl h (confirm_recovery hl hrun)
  case status =>
    rintro r s x s1 _ h hl rfl
    exact exec_of_body rfl h (if_pos hl)
  case confLeft => exact fun s => confLeft_trial
  case confLeftNone => exact fun s => confLeft_noTrial
  case fwdShort => exact fun r s x s1 h hl => exec_of_body rfl h (forward_short hl)
  case fwdLength => exact fun r s x s1 h hlo hl => exec_of_body rfl h (forward_badLength hlo hl)
  case fwdCount => exact fun r s x s1 h hl hn => exec_of_body rfl h (forward_badCount hl hn)
  case fwdOther => exact fun r s x s1 h hl hlo hhi hcount => exec_of_body rfl h (forward_otherLength hl hlo hhi hcount)
  case fwdAddress =>
    exact fun r s x s1 as i h hl hlo hhi hcount has hbad =>
      exec_of_body rfl h (forward_badAddress hl hlo hhi hcount has hbad)
  case fwdState =>
    exact fun r s x s1 as h hl hlo hhi hcount has hgood hno =>
      exec_of_body rfl h (forward_wrongState hl hlo hhi hcount has hgood hno)
  case fwd =>
    exact fun r s x s1 as h hl hlo hhi hcount has hgood hwhole hidle =>
      exec_of_body rfl h (forward_begins hl hlo hhi hcount has hgood hwhole hidle)
  case peerNone => exact fun addr stat s hnone => congrArg Host.Outcome.next (fwdPeerDone_none hnone)
  case peerOther => exact fun addr stat s g hfwd hother => congrArg Host.Outcome.next (fwdPeerDone_other hfwd hother)
  case peerNext =>
    exact fun addr stat s g t hfwd hactive ht hgoes =>
      congrArg Host.Outcome.next ((fwdPeerDone_active hfwd hactive ht).trans (if_neg (by simp [hgoes])))
  case peerStop =>
    exact fun addr stat s g t hfwd hactive ht hstop =>
      congrArg Host.Outcome.next ((fwdPeerDone_active hfwd hactive ht).trans (if_pos hstop))
  case doneNone => exact fun s => exec_forwardDone_none
  case doneWaits => exact fun s g => exec_forwardDone_waits
  case doneStopped =>
    exact fun s g t hfwd hactive htodo ht hstop =>
      (exec_forwardDone_ends hfwd hactive htodo ht rfl).trans (congrArg Host.Outcome.next (if_pos hstop))
  case done =>
    exact fun s g t st hfwd hactive htodo ht hgoes hst =>
      (exec_forwardDone_ends hfwd hactive htodo ht hst).trans (congrArg Host.Outcome.next (if_neg (by simp [hgoes])))
  case healthyEq => exact fun s => rfl
  case healthyKeeps => exact fun s => exec_trialHealthy_keeps
  case healthyConfirms =>
    exact fun s t b hhealthy hnew ht hrun hauto =>
      (exec_trialHealthy_becomes hhealthy hnew ht hrun).trans (congrArg Host.Outcome.next (if_pos hauto))
  case healthy =>
    exact fun s t b hhealthy hnew ht hrun hauto =>
      (exec_trialHealthy_becomes hhealthy hnew ht hrun).trans (congrArg Host.Outcome.next (if_neg (by simp [hauto])))
  case deadline => exact fun s b hrun htrial => congrArg Host.Outcome.next (trialEnds_trial hrun htrial)
  case deadlineNone => exact fun s hno => congrArg Host.Outcome.next (trialEnds_noTrial hno)
  case confirmEq => exact fun s b t => confirmTrial_eq
  case resetDue => exact fun s hdue => congrArg Host.Outcome.next (if_pos hdue)
  case resetNone => exact fun s hno => congrArg Host.Outcome.next (if_neg (by simp [hno]))
  case unfitNone => exact fun who value s hok hno => congrArg Host.Outcome.next ((regDo_ok hok).trans (updUnfit_noReport hno))
  case unfitRecovery =>
    exact fun who value s hok hrun => congrArg Host.Outcome.next ((regDo_ok hok).trans (updUnfit_recovery hrun))
  case unfit =>
    exact fun who value s b c t hok hbit hrun hc ht =>
      congrArg Host.Outcome.next ((regDo_ok hok).trans (updUnfit_reports hbit hrun hc ht))
  case usbCtrl =>
    intro who value s hok
    have hen : bits value.toNat 0 0 = value.toNat % 2 := by simp [bits]
    exact congrArg Host.Outcome.next ((regDo_ok hok).trans (by rw [State.usbCtrl, hen]))
  case usbAttach => exact fun s t ht => ⟨usbAttach_on ht, usbAttach_off ht⟩
  case vbusSame => exact fun present s hsame => congrArg Host.Outcome.next (if_pos hsame)
  case vbusOn => exact fun s => exec_usbVbusChange_appears
  case vbusOff => exact fun s t => exec_usbVbusChange_goes
  case usbDetached => exact fun configured hs s hoff => congrArg Host.Outcome.next (if_pos (by simp [hoff]))
  case usbConfigure => exact fun configured hs s hon => congrArg Host.Outcome.next (if_neg (by simp [hon]))

end Sys2Proof.Machine
end
-- ==== Sys2Proof/Proofs/ParkingAndWakes.lean ====
section
/-! PROOF. Power domains, parking and wakes (R432 to R437): a domain that is on, PARK_GO, the steps of the entry, the sources. -/
namespace Sys2Proof.Machine

/-! A domain asked for again (R432). -/

section
variable {s t : State} {d : Fin 34} (hwait : bit s.pwr.pdWait d = true)
  (ht : t = s.modPwr (fun p => { p with pd := putBit p.pd d true, pdWait := putBit p.pdWait d false }))
include hwait ht

theorem exec_pdSwitchOnDone_held (hbring : s.pwr.bring ≠ none) : exec (.pdSwitchOnDone d true) s = .next t := by
  subst ht
  exact congrArg Host.Outcome.next ((if_neg (by simp [hwait])).trans ((if_neg (by decide)).trans
    (if_pos (Option.isSome_iff_ne_none.2 hbring))))

section
variable (hbring : s.pwr.bring = none)
include hbring

theorem exec_pdSwitchOnDone_pan {p : PanId} {u : State} (hisl : pdIsland d = some p.num)
    (hu : u = { t with islHeld := putBit t.islHeld p.num false }) :
    exec (.pdSwitchOnDone d true) s = .next (if (u.pan p).progOk = true then u.panRelease p else u) := by
  subst ht hu
  refine congrArg Host.Outcome.next ((if_neg (by simp [hwait])).trans ((if_neg (by decide)).trans
    ((if_neg (by simp [State.modPwr, hbring])).trans ?_)))
  cases p <;> simp only [hisl, PanId.num] <;> rfl

theorem exec_pdSwitchOnDone_island {i : Nat} (hisl : pdIsland d = some i) (hi : 2 ≤ i) :
    exec (.pdSwitchOnDone d true) s = .next { t with islHeld := putBit t.islHeld i false } := by
  subst ht
  refine congrArg Host.Outcome.next ((if_neg (by simp [hwait])).trans ((if_neg (by decide)).trans
    ((if_neg (by simp [State.modPwr, hbring])).trans ?_)))
  obtain ⟨j, rfl⟩ := Nat.exists_eq_add_of_le' hi
  simp only [hisl]

theorem exec_pdSwitchOnDone_alone (hisl : pdIsland d = none) : exec (.pdSwitchOnDone d true) s = .next t := by
  subst ht
  refine congrArg Host.Outcome.next ((if_neg (by simp [hwait])).trans ((if_neg (by decide)).trans
    ((if_neg (by simp [State.modPwr, hbring])).trans ?_)))
  simp only [hisl]

end

end

/-! PARK_CMD.GO and the steps of the entry (R433, R434, R437). -/

section
variable {s : State}

section
variable (hrun : s.pwr.park = .run)
include hrun

theorem parkGo_refused {k : Nat} (hfirst : (List.range 8).find? (fun k => decide (0 < k) && !s.parkOk k) = some k) :
    s.parkGo = (s.setF F.SYSCTL_PARK_STAT_ERR k).raise 2 := by
  refine (if_neg (by simp [hrun])).trans ?_
  simp only [hfirst]

theorem parkGo_begins {t : State} (hok : ∀ k, 1 ≤ k → k < 8 → s.parkOk k = true)
    (ht : t = (s.modPwr (fun p => { p with
      woken := false
      save := s.parkSaved
      dio := (List.range 64).map (fun n => (n, (s.flag (F.DIO_N_STAT_IN n), 0))) })).setF F.SYSCTL_WAKEREC_CANMASK 0) :
    s.parkGo = (forBelow 16 t (fun n s => s.parkTrx n)).parkTo .arm 1 := by
  have hnone : (List.range 8).find? (fun k => decide (0 < k) && !s.parkOk k) = none := by
    refine List.find?_eq_none.2 fun k hk hbad => ?_
    obtain ⟨hpos, hno⟩ : 0 < k ∧ s.parkOk k = false := by simpa using hbad
    exact Bool.false_ne_true (hno.symm.trans (hok k hpos (List.mem_range.1 hk)))
  subst ht
  refine (if_neg (by simp [hrun])).trans ?_
  simp only [hnone]

end

theorem parkStep_outside (hout : s.pwr.park = .run ∨ s.pwr.park = .parked) : s.parkStep = s := by
  rcases hout with h | h <;> simp only [State.parkStep, h]

theorem parkStep_abandons (hstep : s.pwr.park = .arm ∨ s.pwr.park = .flush ∨ s.pwr.park = .loads) (hwoken : s.pwr.woken = true) :
    s.parkStep = s.parkAbort := by
  rcases hstep with h | h | h <;> simp only [State.parkStep, h, hwoken, if_true]

section
variable (hasleep : s.pwr.woken = false)
include hasleep

theorem parkStep_arm (hstep : s.pwr.park = .arm) : s.parkStep = s.parkTo .flush 2 := by
  simp only [State.parkStep, hstep, hasleep, Bool.false_eq_true, if_false]

theorem parkStep_flush (hstep : s.pwr.park = .flush) (hqueue : s.crust.queue = []) (herase : s.crust.erasing = []) :
    s.parkStep = s.parkLoads := by
  simp only [State.parkStep, hstep, hasleep, hqueue, herase, List.isEmpty_nil, Bool.and_self, Bool.false_eq_true, if_true, if_false]

theorem parkStep_loads (hstep : s.pwr.park = .loads) : s.parkStep = s.parkLogic := by
  simp only [State.parkStep, hstep, hasleep, Bool.false_eq_true, if_false]

theorem parkStep_rails (hstep : s.pwr.park = .rails) : s.parkStep = s.modPwr (fun p => { p with park := .parked }) := by
  simp only [State.parkStep, hstep, hasleep, Bool.false_eq_true, if_false]

end

theorem parkStep_logic (hstep : s.pwr.park = .logic) :
    s.parkStep = ((s.setF F.SYSCTL_PWR_STAT_EN 0).rails 0 0 0).parkTo .rails 5 := by
  simp only [State.parkStep, hstep]

theorem parkStep_wakes (hstep : s.pwr.park = .rails) (hwoken : s.pwr.woken = true) :
    s.parkStep = (s.modPwr (fun p => { p with park := .parked })).wakeStart := by
  simp only [State.parkStep, hstep, hwoken, if_true]

section
variable (hflush : s.pwr.park = .flush)
include hflush

theorem exec_parkFlushTimeout_woken (hwoken : s.pwr.woken = true) : exec .parkFlushTimeout s = .next s.parkAbort :=
  congrArg Host.Outcome.next ((if_neg (not_not.2 hflush)).trans (if_pos hwoken))

theorem exec_parkFlushTimeout_suspends (hasleep : s.pwr.woken = false) :
    exec .parkFlushTimeout s = .next (((s.modPwr (fun p => { p with eraseHeld := !s.crust.erasing.isEmpty })).modCrust
      (fun c => { c with suspended := c.suspended || !c.erasing.isEmpty })).parkLoads) :=
  congrArg Host.Outcome.next ((if_neg (not_not.2 hflush)).trans (if_neg (by simp [hasleep])))

end

/-! The sources of a wake (R436, R439). -/

section
variable {src : Fin 7} {detail : Fin 64} {can : Fin 5}

theorem exec_parkWake_idle (hidle : s.pwr.park = .run ∨ s.wakeArmed src detail = false) :
    exec (.parkWake src detail can) s = .next s :=
  congrArg Host.Outcome.next (if_pos (by simpa using hidle))

section
variable (hpark : s.pwr.park ≠ .run) (harmed : s.wakeArmed src detail = true)
include hpark harmed

theorem exec_parkWake_can (hsrc : src.val = 4) :
    exec (.parkWake src detail can) s = .next (s.busWake detail (if can = 0 then 2 else can) none) := by
  refine congrArg Host.Outcome.next ((if_neg (by simp [hpark, harmed])).trans ?_)
  simp only [hsrc]

theorem exec_parkWake_vbus (hsrc : src.val = 5) :
    exec (.parkWake src detail can) s = .next ((s.setF F.USBS_STAT_VBUS 1).parkWake 5 0) := by
  refine congrArg Host.Outcome.next ((if_neg (by simp [hpark, harmed])).trans ?_)
  simp only [hsrc]

theorem exec_parkWake_resetN (hsrc : src.val = 6) :
    exec (.parkWake src detail can) s = .next ((s.parkWake 6 0).reqReset 3 none) := by
  refine congrArg Host.Outcome.next ((if_neg (by simp [hpark, harmed])).trans ?_)
  simp only [hsrc]

theorem exec_parkWake_plain (hsrc : 1 ≤ src.val ∧ src.val ≤ 3) :
    exec (.parkWake src detail can) s = .next (s.parkWake src.val detail) := by
  refine congrArg Host.Outcome.next ((if_neg (by simp [hpark, harmed])).trans ?_)
  obtain h | h | h : src.val = 1 ∨ src.val = 2 ∨ src.val = 3 := by omega
  all_goals simp only [h]

end

end

theorem wakeArmed_unknown {src detail : Nat} (hsrc : src = 0 ∨ 6 < src) : s.wakeArmed src detail = false := by
  obtain rfl | hbig := hsrc
  · rfl
  · obtain ⟨j, rfl⟩ := Nat.exists_eq_add_of_le' hbig
    rfl

theorem exec_wakePin_off {k : Fin 4} (hoff : s.flag (F.SYSCTL_WAKE_CFG_EN k) = false) : exec (.wakePin k) s = .next s :=
  congrArg Host.Outcome.next (if_pos (by simp [hoff]))

theorem exec_wakePin_on {k : Fin 4} (hon : s.flag (F.SYSCTL_WAKE_CFG_EN k) = true) :
    exec (.wakePin k) s = .next ((if s.islandUp 6 then
      forBelow 16 s (fun n t => if t.fbit (F.SYSCTL_WAKE_CFG_CANMASK k) n then t.tideWake n 9 none else t) else s).parkWake 1 k) :=
  congrArg Host.Outcome.next (if_neg (by simp [hon]))

/-! DIO_WAKE_SAMPLE (R436). -/

/-- A sample differs from the value at step 1 in a direction that EDGE names. -/
def wakeEdge (level base : Bool) (edge : Nat) : Bool := level != base && (if level then bit edge 0 else bit edge 1)

theorem wakeEdge_iff {level base : Bool} {edge : Nat} :
    wakeEdge level base edge = true ↔ level ≠ base ∧ bit edge (if level = true then 0 else 1) = true := by
  cases level <;> simp [wakeEdge]

theorem exec_dioWakeSample_idle {n : Fin 64} {level : Bool} (hidle : s.pwr.park = .run ∨ s.flag (F.DIO_N_CFG_WAKE n) = false) :
    exec (.dioWakeSample n level) s = .next s :=
  congrArg Host.Outcome.next (if_pos (by simpa using hidle))

section
variable {n : Fin 64} {level base : Bool} {k : Nat} (hpark : s.pwr.park ≠ .run) (hwake : s.flag (F.DIO_N_CFG_WAKE n) = true)
  (hbase : tblGet s.pwr.dio n = (base, k))
include hpark hwake hbase

/-- The count of samples in a row goes on or starts again; the second one wakes. -/
theorem exec_dioWakeSample_counts {k1 : Nat} (hk : k1 = if wakeEdge level base (s.f (F.DIO_N_CFG_EDGE n)) then k + 1 else 0) :
    exec (.dioWakeSample n level) s =
      .next (if 2 ≤ k1 then (s.modPwr (fun p => { p with dio := tblSet p.dio n (base, k1) })).parkWake 3 n
        else s.modPwr (fun p => { p with dio := tblSet p.dio n (base, k1) })) := by
  subst hk
  refine congrArg Host.Outcome.next ((if_neg (by simp [hpark, hwake])).trans ?_)
  simp only [hbase]
  rfl

section
variable (hhit : level ≠ base ∧ bit (s.f (F.DIO_N_CFG_EDGE n)) (if level = true then 0 else 1) = true)
include hhit

theorem exec_dioWakeSample_second (hsecond : 1 ≤ k) :
    exec (.dioWakeSample n level) s = .next ((s.modPwr (fun p => { p with dio := tblSet p.dio n (base, k + 1) })).parkWake 3 n) := by
  rw [exec_dioWakeSample_counts hpark hwake hbase (if_pos (wakeEdge_iff.2 hhit)).symm, if_pos (by omega)]

theorem exec_dioWakeSample_first (hfirst : k = 0) :
    exec (.dioWakeSample n level) s = .next (s.modPwr (fun p => { p with dio := tblSet p.dio n (base, 1) })) := by
  subst hfirst
  rw [exec_dioWakeSample_counts hpark hwake hbase (if_pos (wakeEdge_iff.2 hhit)).symm, if_neg (by omega)]

end

theorem exec_dioWakeSample_same
    (hmiss : ¬(level ≠ base ∧ bit (s.f (F.DIO_N_CFG_EDGE n)) (if level = true then 0 else 1) = true)) :
    exec (.dioWakeSample n level) s = .next (s.modPwr (fun p => { p with dio := tblSet p.dio n (base, 0) })) := by
  rw [exec_dioWakeSample_counts hpark hwake hbase (if_neg (fun h => hmiss (wakeEdge_iff.1 h))).symm, if_neg (by omega)]

end

end

end Sys2Proof.Machine
end
-- ==== Sys2Proof/Proofs/PowerRows.lean ====
section
/-! PROOF. The power rows (R429 to R441): the rails, the alarms, the power fail, the temperature; the statement. -/
namespace Sys2Proof.Machine

/-! Rails (R429, R430). -/

section
variable {s : State}

theorem exec_railStepTimeout_drops {n : Nat} (hrail : s.pwr.rail ≠ 0) (hretry : s.pwr.retry = false) (hdead : s.pwr.dead = false)
    (hn : n = s.pwr.fails + 1) :
    exec .railStepTimeout s = .next (((((s.rails 0 0 0).setF F.SYSCTL_PWR_STAT_SEQFAIL 1).setF F.SYSCTL_PWR_STAT_STEP s.pwr.rail).modPwr
      (fun p => { p with fails := n, retry := decide (n < 3), dead := decide (3 ≤ n), pd := p.pd &&& 3 })).when
        (decide (6 ≤ s.pwr.rail)) (fun s => s.raise 7)) := by
  subst hn
  exact congrArg Host.Outcome.next (if_neg (by simp [hrail, hretry, hdead]))

section
variable {vcore : Bool}

theorem exec_pwrGoodLost_lost (hup : s.railsUp = true) (hrun : s.pwr.park = .run) :
    exec (.pwrGoodLost vcore) s =
      .next (((if vcore then s.setFbit F.SYSCTL_PWR_STAT_RAILS 3 false else s.setF F.SYSCTL_PWR_STAT_PG 0).setF
        F.SYSCTL_PWR_STAT_PGLOST 1).reqReset 2 none) :=
  congrArg Host.Outcome.next (if_neg (by simp [hup, hrun]))

theorem exec_pwrGoodLost_ignored (hno : s.railsUp = false ∨ s.pwr.park ≠ .run) : exec (.pwrGoodLost vcore) s = .next s :=
  congrArg Host.Outcome.next (if_pos (by simpa using hno))

end

/-! The alarms (R439). -/

section
variable {k : Fin 2}

theorem exec_rtcAlarmDue_idle (hno : s.almOpen k = false ∨ s.almDue k = false) : exec (.rtcAlarmDue k) s = .next s :=
  congrArg Host.Outcome.next (if_pos (by simpa using hno))

theorem exec_rtcAlarmDue_due (hopen : s.almOpen k = true) (hdue : s.almDue k = true) :
    exec (.rtcAlarmDue k) s = .next (if s.almIsLate k then s.almLate k else s.almFire k) :=
  congrArg Host.Outcome.next (if_neg (by simp [hopen, hdue]))

theorem exec_rtcAlarmLate_late (hopen : s.almOpen k = true) (hlate : s.almIsLate k = true) :
    exec (.rtcAlarmLate k) s = .next (s.almLate k) :=
  congrArg Host.Outcome.next (if_neg (by simp [hopen, hlate]))

theorem exec_rtcAlarmLate_idle (hno : s.almOpen k = false ∨ s.almIsLate k = false) : exec (.rtcAlarmLate k) s = .next s :=
  congrArg Host.Outcome.next (if_pos (by simpa using hno))

end

section
variable {k : Nat} {t u : State}

theorem almFire_dead (ht : t = (s.setF (F.SYSCTL_ALM_CTRL_FIRED k) 1).raise (4 + k)) (hdead : t.pwr.rtcDead = true) :
    s.almFire k = t := by
  subst ht
  exact if_pos hdead

theorem almFire_wakes (ht : t = (s.setF (F.SYSCTL_ALM_CTRL_FIRED k) 1).raise (4 + k)) (hruns : t.pwr.rtcDead = false) :
    s.almFire k = t.parkWake 2 k := by
  subst ht
  exact if_neg (Bool.eq_false_iff.1 hruns)

theorem almLate_fires (hu : u = s.setF (F.SYSCTL_ALM_CTRL_LATE k) 1) (hpolicy : s.flag (F.SYSCTL_ALM_CTRL_POLICY k) = false) :
    s.almLate k = u.almFire k := by
  subst hu
  exact if_neg (by simp [hpolicy])

theorem almLate_drops (hu : u = s.setF (F.SYSCTL_ALM_CTRL_LATE k) 1) (hpolicy : s.flag (F.SYSCTL_ALM_CTRL_POLICY k) = true) :
    s.almLate k = ((u.setF (F.SYSCTL_ALM_CTRL_EN k) 0).setF (F.SYSCTL_ALM_CTRL_DROPPED k) 1).raise (4 + k) := by
  subst hu
  exact if_pos hpolicy

end

end

/-- Settles O39, row by row: the rails, the domains, parking, the sources of a wake, the alarms, the power fail, the temperature.
Where the rules leave a point open, the clauses rest on the model's choices: log 91 (the first latched wake is kept, a CAN wake
without a code is code 2), 100 (the order of RAILS), 101 (a domain that is off waits, and its island's registers return to reset),
176 (MEAS_TEMP.POWER) and 200 (event 7 at steps 6 and 7). That every sensor is cool is THERMAL_HOLD_RELEASE's own meaning: the
event comes when they are. -/
theorem powerParkingWakeAndThermalCommandsActAsTheTablesSay :
    Obligations.PowerParkingWakeAndThermalCommandsActAsTheTablesSay := by
  unfold Obligations.PowerParkingWakeAndThermalCommandsActAsTheTablesSay
  refine ⟨?powerOn, ?stepDone, ?stepDoneHeld, ?rail1, ?rail2, ?rail3, ?rail4, ?rail5, ?rail6, ?rail7, ?timeout, ?timeoutIdle,
    ?retry, ?retryNone, ?lostCore, ?lostGood, ?lostIgnored, ?offRow, ?off, ?onFails, ?onOther, ?onHeld, ?onPanA, ?onPanB,
    ?onIsland, ?onAlone, ?goRow, ?goRefused, ?go, ?stepOutside, ?stepAbandons, ?stepArm, ?stepFlush, ?stepLoads, ?stepLogic,
    ?stepRails, ?stepWakes, ?flushIdle, ?flushWoken, ?flush, ?wakeIdle, ?wakeCan, ?wakeVbus, ?wakeReset, ?wake, ?armed, ?pinOff,
    ?pin, ?pinCan, ?dioIdle, ?dioSecond, ?dioFirst, ?dioSame, ?almIdle, ?alm, ?late, ?lateIdle, ?almActs, ?almDisable,
    ?almEnable, ?pfwOn, ?pfw, ?pfwNone, ?pfwClear, ?brownOut, ?brownOutParked, ?sample, ?release⟩
  case powerOn =>
    rintro s _ rfl
    rfl
  case stepDone => exact fun s hretry hdead => congrArg Host.Outcome.next (if_neg (by simp [hretry, hdead]))
  case stepDoneHeld => exact fun s hheld => congrArg Host.Outcome.next (if_pos (by simpa using hheld))
  case rail1 => exact fun s hrail => by simp only [State.railNext, hrail]
  case rail2 => exact fun s hrail => by simp only [State.railNext, hrail]
  case rail3 => exact fun s hrail => by simp only [State.railNext, hrail]
  case rail4 => exact fun s hrail => by simp only [State.railNext, hrail]
  case rail5 => exact fun s hrail => by simp only [State.railNext, hrail]
  case rail6 => exact fun s hrail => by simp only [State.railNext, hrail]
  case rail7 => exact fun s hrail => by simp only [State.railNext, hrail]
  case timeout => exact fun s n => exec_railStepTimeout_drops
  case timeoutIdle => exact fun s hidle => congrArg Host.Outcome.next (if_pos (.inl hidle))
  case retry => exact fun s hretry => congrArg Host.Outcome.next (if_pos hretry)
  case retryNone => exact fun s hno => congrArg Host.Outcome.next (if_neg (by simp [hno]))
  case lostCore =>
    rintro _ s hup hrun rfl
    exact exec_pwrGoodLost_lost hup hrun
  case lostGood =>
    rintro _ s hup hrun rfl
    exact exec_pwrGoodLost_lost hup hrun
  case lostIgnored => exact fun vcore s => exec_pwrGoodLost_ignored
  case offRow => exact fun who value s hok => congrArg Host.Outcome.next (regDo_ok hok)
  case off =>
    rintro s d _ rfl
    exact ⟨fun hisl => by simp only [State.pdOff, hisl], fun i hisl => by simp only [State.pdOff, hisl]⟩
  case onFails =>
    rintro d _ s hwait rfl
    exact congrArg Host.Outcome.next ((if_neg (by simp [hwait])).trans (if_pos (by decide)))
  case onOther => exact fun d good s hno => congrArg Host.Outcome.next (if_pos (by simp [hno]))
  case onHeld =>
    rintro d _ s t hwait rfl ht hbring
    exact exec_pdSwitchOnDone_held hwait ht hbring
  case onPanA =>
    rintro d _ s t u hwait rfl ht hbring hisl hu
    exact exec_pdSwitchOnDone_pan (p := .a) hwait ht hbring hisl hu
  case onPanB =>
    rintro d _ s t u hwait rfl ht hbring hisl hu
    exact exec_pdSwitchOnDone_pan (p := .b) hwait ht hbring hisl hu
  case onIsland =>
    rintro d _ s t i hwait rfl ht hbring hisl hi
    exact exec_pdSwitchOnDone_island hwait ht hbring hisl hi
  case onAlone =>
    rintro d _ s t hwait rfl ht hbring hisl
    exact exec_pdSwitchOnDone_alone hwait ht hbring hisl
  case goRow => exact fun who s hok => congrArg Host.Outcome.next (regDo_ok hok)
  case goRefused => exact fun s k hrun hfirst => parkGo_refused hrun hfirst
  case go => exact fun s t hrun hok ht => parkGo_begins hrun hok ht
  case stepOutside => exact fun s hout => congrArg Host.Outcome.next (parkStep_outside hout)
  case stepAbandons => exact fun s hstep hwoken => congrArg Host.Outcome.next (parkStep_abandons hstep hwoken)
  case stepArm => exact fun s hstep hasleep => congrArg Host.Outcome.next (parkStep_arm hasleep hstep)
  case stepFlush =>
    exact fun s hstep hasleep hqueue herase => congrArg Host.Outcome.next (parkStep_flush hasleep hstep hqueue herase)
  case stepLoads => exact fun s hstep hasleep => congrArg Host.Outcome.next (parkStep_loads hasleep hstep)
  case stepLogic => exact fun s hstep => congrArg Host.Outcome.next (parkStep_logic hstep)
  case stepRails => exact fun s hstep hasleep => congrArg Host.Outcome.next (parkStep_rails hasleep hstep)
  case stepWakes => exact fun s hstep hwoken => congrArg Host.Outcome.next (parkStep_wakes hstep hwoken)
  case flushIdle => exact fun s hother => congrArg Host.Outcome.next (if_pos hother)
  case flushWoken => exact fun s => exec_parkFlushTimeout_woken
  case flush => exact fun s => exec_parkFlushTimeout_suspends
  case wakeIdle => exact fun src detail can s => exec_parkWake_idle
  case wakeCan => exact fun src detail can s => exec_parkWake_can
  case wakeVbus => exact fun src detail can s => exec_parkWake_vbus
  case wakeReset => exact fun src detail can s => exec_parkWake_resetN
  case wake => exact fun src detail can s => exec_parkWake_plain
  case armed =>
    intro s src detail
    refine ⟨?_, ?_, ?_, ?_, ?_, wakeArmed_unknown⟩
    · rintro rfl; rfl
    · rintro rfl; rfl
    · rintro rfl; rfl
    · rintro rfl; rfl
    · rintro (rfl | rfl) <;> rfl
  case pinOff => exact fun k s => exec_wakePin_off
  case pin => exact fun k s hon hdown => by rw [exec_wakePin_on hon, if_neg (by simp [hdown])]
  case pinCan => exact fun k s hon hup => by rw [exec_wakePin_on hon, if_pos hup]
  case dioIdle => exact fun n level s => exec_dioWakeSample_idle
  case dioSecond => exact fun n level s base k => exec_dioWakeSample_second
  case dioFirst => exact fun n level s base k => exec_dioWakeSample_first
  case dioSame => exact fun n level s base k => exec_dioWakeSample_same
  case almIdle => exact fun k s => exec_rtcAlarmDue_idle
  case alm => exact fun k s => exec_rtcAlarmDue_due
  case late => exact fun k s => exec_rtcAlarmLate_late
  case lateIdle => exact fun k s => exec_rtcAlarmLate_idle
  case almActs =>
    exact fun s k t u ht hu =>
      ⟨almFire_dead ht, almFire_wakes ht, fun hpolicy _ => almLate_fires hu hpolicy, almLate_drops hu⟩
  case almDisable =>
    exact fun who k value s hok hoff => congrArg Host.Outcome.next ((regDo_ok hok).trans (if_pos (by simp [hoff])))
  case almEnable =>
    rintro who k value s _ hok hon rfl
    exact congrArg Host.Outcome.next ((regDo_ok hok).trans (if_neg (by simp [hon])))
  case pfwOn => exact fun s hon => congrArg Host.Outcome.next (if_pos hon)
  case pfw => exact fun s hoff => congrArg Host.Outcome.next (if_neg (by simp [hoff]))
  case pfwNone => exact fun s hoff => congrArg Host.Outcome.next (if_pos (by simp [hoff]))
  case pfwClear =>
    rintro s _ hon rfl
    exact congrArg Host.Outcome.next (if_neg (by simp [hon]))
  case brownOut => exact fun s hawake => congrArg Host.Outcome.next (if_neg hawake)
  case brownOutParked => exact fun s hparked => congrArg Host.Outcome.next (if_pos hparked)
  case sample =>
    rintro temp power trip s _ _ rfl rfl
    rfl
  case release => exact fun s => rfl

end Sys2Proof.Machine
end
-- ==== Sys2Proof/Proofs/ClocksAndWatchdogs.lean ====
section
/-! PROOF. Clock faults, the RTC, the watchdogs, the software reset, option writes, boot service (R446 to R462, R467). -/
namespace Sys2Proof.Machine

section
variable {s : State}

/-! A lost reference (R449). -/

theorem clockFault_requests (hbring : ∀ k, s.pwr.bring = some k → 2 ≤ k) : s.clockFault = s.reqReset 9 none := by
  unfold State.clockFault
  split
  · next h => exact absurd (hbring 0 h) (by decide)
  · next h => exact absurd (hbring 1 h) (by decide)
  · rfl

theorem clockFault_bringUp {k : Nat} (hbring : s.pwr.bring = some k) (hk : k < 2) : s.clockFault = s := by
  obtain rfl | rfl : k = 0 ∨ k = 1 := by omega
  all_goals simp only [State.clockFault, hbring]

theorem exec_referenceLoss_lost (href : s.f F.SYSCTL_CLKSTAT_REFSRC ≠ 2) (hbring : ∀ k, s.pwr.bring = some k → 2 ≤ k) :
    exec .referenceLoss s = .next (s.setF F.SYSCTL_CLKSTAT_REFLOST 1).clockFault := by
  refine congrArg Host.Outcome.next ((if_neg href).trans ?_)
  split
  · next h => exact absurd (hbring 0 h) (by decide)
  · next h => exact absurd (hbring 1 h) (by decide)
  · rfl

theorem exec_referenceLoss_other (hother : s.f F.SYSCTL_CLKSTAT_REFSRC = 2) : exec .referenceLoss s = .next s :=
  congrArg Host.Outcome.next (if_pos hother)

theorem exec_referenceLoss_bringUp {k : Nat} (hbring : s.pwr.bring = some k) (hk : k < 2) : exec .referenceLoss s = .next s := by
  by_cases href : s.f F.SYSCTL_CLKSTAT_REFSRC = 2
  · exact exec_referenceLoss_other href
  · refine congrArg Host.Outcome.next ((if_neg href).trans ?_)
    obtain rfl | rfl : k = 0 ∨ k = 1 := by omega
    all_goals simp only [hbring]

/-! RTC_SECOND (R450). -/

section
variable (hcounts : s.pwr.rtcDead = false ∨ s.pwr.park ≠ .parked)
include hcounts

/-- A clock that counts: SEC becomes DTIME's second, or the next one. -/
theorem exec_rtcSecond_counts :
    exec .rtcSecond s = .next ((s.setF F.SYSCTL_RTC_SEC_SEC
      ((if s.flag F.SYSCTL_RTC_CTRL_SYNC && s.flag F.TIME_STAT_LOCKED then s.dtime / 1000000000
        else s.f F.SYSCTL_RTC_SEC_SEC + 1) % 2 ^ 32)).modPwr (fun p => { p with rtcAt := s.now })) :=
  congrArg Host.Outcome.next (if_neg (by rcases hcounts with h | h <;> simp [h]))

theorem exec_rtcSecond_synced (hsync : s.flag F.SYSCTL_RTC_CTRL_SYNC = true) (hlocked : s.flag F.TIME_STAT_LOCKED = true) :
    exec .rtcSecond s =
      .next ((s.setF F.SYSCTL_RTC_SEC_SEC (s.dtime / 1000000000 % 2 ^ 32)).modPwr (fun p => { p with rtcAt := s.now })) := by
  rw [exec_rtcSecond_counts hcounts, if_pos (by simp [hsync, hlocked])]

theorem exec_rtcSecond_free (hfree : s.flag F.SYSCTL_RTC_CTRL_SYNC = false ∨ s.flag F.TIME_STAT_LOCKED = false) :
    exec .rtcSecond s =
      .next ((s.setF F.SYSCTL_RTC_SEC_SEC ((s.f F.SYSCTL_RTC_SEC_SEC + 1) % 2 ^ 32)).modPwr (fun p => { p with rtcAt := s.now })) := by
  rw [exec_rtcSecond_counts hcounts, if_neg (by rcases hfree with h | h <;> simp [h])]

end

/-! The watchdogs (R457). -/

section
variable {who : Who} {k : Nat} {w : Word}

theorem wdtKick_foreign (hother : wdtOwn who k = false) : s.wdtKick who k w.toNat = s.busErr who :=
  if_pos (by simp [hother])

section
variable (hown : wdtOwn who k = true)
include hown

theorem wdtKick_key (hkey : w = 0xC35A#32) :
    s.wdtKick who k w.toNat = s.modPwr (fun p => { p with wdtHalf := putBit p.wdtHalf k false }) := by
  subst hkey
  exact (if_neg (by simp [hown])).trans (if_pos rfl)

theorem wdtKick_wrongKey (hbad : w ≠ 0xC35A#32) : s.wdtKick who k w.toNat = s.reqReset (4 + k) none :=
  (if_neg (by simp [hown])).trans (if_neg (fun hw => hbad (BitVec.eq_of_toNat_eq hw)))

end

end

section
variable {k : Fin 3}

theorem exec_wdtHalfPeriod_warns (hruns : s.wdtRuns k = true) :
    exec (.wdtHalfPeriod k) s = .next (((s.setF (F.SYSCTL_WDT_CFG_WARN k) 1).modPwr
      (fun p => { p with wdtHalf := putBit p.wdtHalf k true })).raise (12 + k)) :=
  congrArg Host.Outcome.next (if_neg (by simp [hruns]))

theorem exec_wdtHalfPeriod_stopped (hstopped : s.wdtRuns k = false) : exec (.wdtHalfPeriod k) s = .next s :=
  congrArg Host.Outcome.next (if_pos (by simp [hstopped]))

theorem exec_wdtExpiry_requests (hruns : s.wdtRuns k = true) (hhalf : bit s.pwr.wdtHalf k = true) :
    exec (.wdtExpiry k) s = .next (s.reqReset (4 + k) none) :=
  congrArg Host.Outcome.next (if_pos (by simp [hruns, hhalf]))

theorem exec_wdtExpiry_ignored (hno : s.wdtRuns k = false ∨ bit s.pwr.wdtHalf k = false) : exec (.wdtExpiry k) s = .next s :=
  congrArg Host.Outcome.next (if_neg (by rcases hno with h | h <;> simp [h]))

end

/-! The software reset (R458). -/

section
variable {who : Who} {w : Nat}

theorem swrst_foreign (hother : whoSteward who = false) : s.swrst who w = s.busErr who :=
  if_pos (by simp [hother])

section
variable (hown : whoSteward who = true)
include hown

theorem swrst_requests (hkey : bits w 31 16 = 0x4B52 ∧ rstTarget (bits w 1 0) (bits w 6 4) = true) :
    s.swrst who w = s.reqReset 13 (some (bits w 1 0 + (if bits w 1 0 = 3 then 4 * bits w 6 4 else 0))) :=
  (if_neg (by simp [hown])).trans (if_pos hkey)

theorem swrst_ignored (hbad : ¬(bits w 31 16 = 0x4B52 ∧ rstTarget (bits w 1 0) (bits w 6 4) = true)) : s.swrst who w = s :=
  (if_neg (by simp [hown])).trans (if_neg hbad)

end

end

/-! Option writes (R462). -/

section
variable {who : Who}

theorem optWrite_foreign (hother : whoMachine who = false) : s.optWrite who = s.busErr who :=
  if_pos (by simp [hother])

section
variable (hown : whoMachine who = true)
include hown

theorem optWrite_busy (hbusy : s.flag F.SYSCTL_OPT_CMD_BUSY = true) : s.optWrite who = s.setF F.SYSCTL_OPT_CMD_RESULT 2 :=
  (if_neg (by simp [hown])).trans (if_pos hbusy)

theorem optWrite_erases (hidle : s.flag F.SYSCTL_OPT_CMD_BUSY = false) :
    s.optWrite who = ({ s with mem := memClear s.mem (optCopy s.optOther) 0x8000 }.setF F.SYSCTL_OPT_CMD_BUSY 1).modPwr
      (fun p => { p with optNew := s.optBytes }) :=
  (if_neg (by simp [hown])).trans (if_neg (Bool.eq_false_iff.1 hidle))

end

end

/-- The end of a write: what the copy holds, BUSY, RESULT, event 16. -/
theorem exec_optWriteDone_ends {good : Bool} {t : State} (hbusy : s.flag F.SYSCTL_OPT_CMD_BUSY = true)
    (ht : t = if good then { s with mem := memPut s.mem (optCopy s.optOther) s.pwr.optNew }
      else State.useFree { s with mem := memPut s.mem (optCopy s.optOther) (leBytes 256 s.freeNat) }) :
    exec (.optWriteDone good) s = .next ((((t.setF F.SYSCTL_OPT_CMD_BUSY 0).setFlag F.SYSCTL_OPT_CMD_RESULT (!good)).modPwr
      (fun p => { p with optNew := [] })).raise 16) := by
  subst ht
  exact congrArg Host.Outcome.next (if_neg (by simp [hbusy]))

/-! Boot service (R467). -/

section
variable {l : Fin 3}

theorem exec_bootReqSend_asks (hboot : s.peerBoot = true) (hauth : s.linkSt l = 2) :
    exec (.bootReqSend l) s = .next (s.brlSend l 7 0 0 0 0 (leBytes 1 0x30 ++ leBytes 4 (s.reg A.SYSCTL_DEVID).toNat)) :=
  congrArg Host.Outcome.next (if_pos (by simp [hboot, hauth]))

theorem exec_bootReqSend_silent (hno : s.peerBoot = false ∨ s.linkSt l ≠ 2) : exec (.bootReqSend l) s = .next s :=
  congrArg Host.Outcome.next (if_neg (by rcases hno with h | h <;> simp [h]))

/-- A running device serves a boot request of link `l`: the service is enabled, and no other booting device is served. -/
def bootServes (s : State) (l : Nat) : Prop :=
  Config.bootService = true ∧ s.linkSt l = 2 ∧ s.peerBoot = false ∧ s.upd.recov ≠ 1 ∧ ∀ i, i < 3 → (s.link i).boot = false

theorem bootRefused_iff :
    (!Config.bootService || s.linkSt l != 2 || s.peerBoot || s.upd.recov == 1 || (List.range 3).any (fun i => (s.link i).boot)) = true ↔
      ¬bootServes s l := by
  rw [← Bool.not_eq_false, not_iff_not]
  simp [bootServes, and_assoc]

theorem exec_bootReqRx_serves {t u : State} (hmay : bootServes s l) (ht : t = s.modLink l (fun x => { x with boot := true }))
    (hu : u = { t with cmd := { t.cmd with ownSeq := (t.cmd.ownSeq + s.bootPackets.length) % 65536 } }) :
    exec (.bootReqRx l) s = .next (s.bootPackets.foldl (State.bootFrame l) u) := by
  subst ht hu
  exact congrArg Host.Outcome.next (if_neg (fun h => bootRefused_iff.1 h hmay))

theorem exec_bootReqRx_ignored (hno : ¬bootServes s l) :
    exec (.bootReqRx l) s = .next s :=
  congrArg Host.Outcome.next (if_pos (bootRefused_iff.2 hno))

end

end

end Sys2Proof.Machine
end
-- ==== Sys2Proof/Proofs/ResetsAndBoot.lean ====
section
/-! PROOF. A reset that is taken, the boot of its level, L3 resets, the scrubber (R106, R451 to R467); the statement. -/
namespace Sys2Proof.Machine

section
variable {s : State}

/-! RESET_SOURCES_TAKEN (R451 to R454). -/

theorem rstTake_none (hnone : s.rstReq = []) : s.rstTake = s :=
  if_pos (by simp [hnone])

section
variable (hsome : s.rstReq ≠ []) {level : Nat} {t : State}
  (hlevel : level = (s.rstReq.map (fun r => s.effLvl r.1 ((r.2.getD 3) % 4))).foldl min 3)
  (ht : t = { (s.rstReq.map (·.1)).foldl (fun s k => s.setFbit F.SYSCTL_RSTCAUSE_CAUSE k true) s with rstReq := [] })
include hsome hlevel ht

theorem rstTake_severe (hsevere : level < 3) : s.rstTake = t.rstSevereTake (s.rstReq.map (·.1)) level := by
  subst hlevel ht
  exact (if_neg (by simp [hsome])).trans (if_pos hsevere)

theorem rstTake_bringUp (hl3 : level = 3) (hbring : s.pwr.bring ≠ none) : s.rstTake = t := by
  rw [hlevel] at hl3
  subst ht
  exact (if_neg (by simp [hsome])).trans ((if_neg (by simp only [hl3]; decide)).trans (if_pos (Option.isSome_iff_ne_none.2 hbring)))

theorem rstTake_islands (hl3 : level = 3) (hbring : s.pwr.bring = none) :
    s.rstTake = s.rstReq.foldl (fun s r => s.l3Begin (((r.2.getD 3) / 4) % 5))
      ((t.setF F.SYSCTL_RSTLAST_LEVEL 3).setF F.SYSCTL_RSTLAST_SRC ((s.rstReq.map (·.1)).foldl min 15)) := by
  rw [hlevel] at hl3
  subst ht
  exact (if_neg (by simp [hsome])).trans ((if_neg (by simp only [hl3]; decide)).trans (if_neg (by simp [hbring])))

end

section
variable {srcs : List Nat} {level lv : Nat} {t u : State}
  (hlv : lv = match s.pwr.bring with | some b => min b level | none => level)
  (ht : t = if s.pwr.bring.isSome then s.setF F.SYSCTL_RSTLAST_RESTARTS (satAdd 255 (s.f F.SYSCTL_RSTLAST_RESTARTS) 1) else s)
  (hu : u = (((t.rstHistory (s.pwr.endStorm && s.flag F.SYSCTL_RSTLAST_STORM && srcs.contains 13 || srcs.contains 1)).rstUnpark lv).setF
    F.SYSCTL_RSTLAST_LEVEL lv).setF F.SYSCTL_RSTLAST_SRC (srcs.foldl min 15))
include hlv ht hu

theorem rstSevereTake_l2 (h2 : lv = 2) :
    s.rstSevereTake srcs level = (u.resetL2.rstRails srcs).modPwr (fun p => { p with
      bring := some 2, l3 := p.l3.filter (fun x => x.2), wdtHalf := 0, rstOut := p.rstOut || bit (s.optByte 3) 0 }) := by
  subst hlv ht hu
  exact if_pos h2

/-- A reset of L1 or L0 that is no brown-out. -/
theorem rstSevereTake_deep (hne : lv ≠ 2) (hplain : srcs.contains 1 = false) :
    s.rstSevereTake srcs level =
      ((if lv = 0 then (u.resetL1 .plain).setF F.SYSCTL_STRAP_TEST_EN 0 else u.resetL1 .plain).rstRails srcs).modPwr (fun p => { p with
        bring := some lv, l3 := [], park := .run, woken := false, wdtHalf := 0, optNew := [], eraseHeld := false, rstOut := true,
        pdWait := 2 ^ 34 - 1 - p.pd }) := by
  subst hlv ht hu
  refine (if_neg hne).trans ?_
  simp only [hplain, Bool.false_eq_true, if_false] <;> rfl

end

theorem rstRails_first {srcs : List Nat} (h1 : srcs.contains 1 = true) : s.rstRails srcs = s.railStart 1 := if_pos h1

theorem rstRails_second {srcs : List Nat} (h1 : srcs.contains 1 = false)
    (hagain : srcs.contains 2 = true ∨ (2 ≤ s.pwr.rail ∧ s.pwr.dead = false)) : s.rstRails srcs = s.railStart 2 :=
  (if_neg (Bool.eq_false_iff.1 h1)).trans (if_pos (by
    simpa only [Bool.or_eq_true, Bool.and_eq_true, decide_eq_true_eq, Bool.not_eq_true'] using hagain))

theorem rstRails_keeps {srcs : List Nat} (h1 : srcs.contains 1 = false) (h2 : srcs.contains 2 = false)
    (hup : s.pwr.rail < 2 ∨ s.pwr.dead = true) : s.rstRails srcs = s :=
  (if_neg (Bool.eq_false_iff.1 h1)).trans (if_neg (by
    rw [h2]
    rcases hup with h | h <;> simp [h]))

/-! STEWARD_RELEASE and the boot of a level (R463 to R467). -/

section
variable {straps : BitVec 6}

theorem exec_stewardRelease_waits (hno : s.bringMay = false ∨ s.pwr.bring = none) : exec (.stewardRelease straps) s = .next s := by
  cases hmay : s.bringMay
  · exact congrArg Host.Outcome.next (if_pos (by simp [hmay]))
  · have hnone : s.pwr.bring = none := hno.resolve_left (by simp [hmay])
    refine congrArg Host.Outcome.next ((if_neg (by simp [hmay])).trans ?_)
    simp only [hnone]

section
variable (hmay : s.bringMay = true)
include hmay

theorem exec_stewardRelease_l2 (hbring : s.pwr.bring = some 2) : exec (.stewardRelease straps) s = .next s.stewRestart := by
  refine congrArg Host.Outcome.next ((if_neg (by simp [hmay])).trans ?_)
  simp only [hbring]

theorem exec_stewardRelease_l1 (hbring : s.pwr.bring = some 1) : exec (.stewardRelease straps) s = .next (s.bootRun false) := by
  refine congrArg Host.Outcome.next ((if_neg (by simp [hmay])).trans ?_)
  simp only [hbring]

theorem exec_stewardRelease_l0 {t : State} (hbring : s.pwr.bring = some 0) (ht : t = s.strapSample straps.toNat) :
    exec (.stewardRelease straps) s = .next (if t.flag F.SYSCTL_STRAP_TEST_EN then t else t.bootRun true) := by
  subst ht
  refine congrArg Host.Outcome.next ((if_neg (by simp [hmay])).trans ?_)
  simp only [hbring]

end

end

section
variable {fresh bad : Bool} {u t : State} (hopt : s.clocksUp.optLoad = (u, bad)) (ht : t = u.enclRoot)
include hopt ht

theorem bootRun_service (hsel : t.f F.SYSCTL_STRAP_BOOT_SEL = 1) : s.bootRun fresh = t.loaderStart 2 := by
  subst ht
  simp only [State.bootRun, hopt, hsel, if_true]

theorem bootRun_peer (hsel : t.f F.SYSCTL_STRAP_BOOT_SEL = 2) : s.bootRun fresh = t.loaderStart 3 := by
  subst ht
  simp only [State.bootRun, hopt, hsel, if_true, OfNat.ofNat_ne_one, if_false]

section
variable (hsel : t.f F.SYSCTL_STRAP_BOOT_SEL ≠ 1 ∧ t.f F.SYSCTL_STRAP_BOOT_SEL ≠ 2) {alt fb : Bool} {v : State}
  (halt : alt = (fresh && t.f F.SYSCTL_STRAP_BOOT_SEL == 3))
include hsel halt

/-- A bank that is chosen is recorded, measured and started. -/
theorem bootRun_bank {b : Nat} (hchoose : t.bootChoose alt = (v, some b, fb)) :
    s.bootRun fresh = ((((v.setF F.UPD_STAT_BANK b).setF F.SYSCTL_BOOTSTAT_BANK b).setF F.SYSCTL_BOOTSTAT_MODE (b2n alt)).enclMeasure
      (bankBase b)).coreStart.stewStart bad fb := by
  subst ht halt
  simp only [State.bootRun, hopt, if_neg hsel.1, if_neg hsel.2, hchoose]

theorem bootRun_noBank (hchoose : t.bootChoose alt = (v, none, fb)) : s.bootRun fresh = v.loaderStart 2 := by
  subst ht halt
  simp only [State.bootRun, hopt, if_neg hsel.1, if_neg hsel.2, hchoose]

end

end

section
variable {bad fb : Bool} {t u : State} (ht : t = s.setVersions.bankStart fb) (hu : u = (t.modCrust id).epoch)
include ht hu

theorem stewStart_unfit {b c n : Nat} (hbank : t.runBank = some b) (hschema : t.schemaBad = some (c, n)) :
    s.stewStart bad fb = (u.updUnfit (2 ^ 31 + c * 2 ^ 16 + n % 2 ^ 16)).modPwr (fun p => { p with waking := false }) := by
  subst ht hu
  simp only [State.stewStart, hbank, Option.bind_some, hschema]

theorem stewStart_loads (hfit : t.runBank = none ∨ t.schemaBad = none) : s.stewStart bad fb = u.stewLoad bad := by
  have hnone : t.runBank.bind (fun _ => t.schemaBad) = none := by
    rcases hfit with h | h <;> simp [h]
  subst ht hu
  simp only [State.stewStart, hnone]

end

/-! L3 resets (R18, R463). -/

section
variable {i : Fin 5} {t : State} (hended : tblFind s.pwr.l3 i.val = some true)
  (ht : t = (s.modPwr (fun p => { p with l3 := tblErase p.l3 i.val })).l3Release i)
include hended ht

theorem exec_l3ResetEnd_bringUp (hbring : t.pwr.bring ≠ none) :
    exec (.l3ResetEnd i) s = .next (t.when (i.val == 0 && t.islandUp 6) State.wakeChannels) := by
  subst ht
  refine congrArg Host.Outcome.next ((if_neg (not_not.2 hended)).trans ?_)
  simp only [if_pos (Option.isSome_iff_ne_none.2 hbring)]

theorem exec_l3ResetEnd_configures {v : State} (hbring : t.pwr.bring = none)
    (hv : v = (if i.val = 1 then t.optMac else t).loadSettings (inL3 i)) :
    exec (.l3ResetEnd i) s = .next (v.when (i.val == 0 && v.islandUp 6) State.wakeChannels) := by
  subst ht hv
  refine congrArg Host.Outcome.next ((if_neg (not_not.2 hended)).trans ?_)
  simp only [hbring, Option.isSome_none, Bool.false_eq_true, if_false]

end

/-! STAGE_APPLY_DONE (R413, R466). -/

section
variable {k : RKey} (happly : s.upd.apply = some k)
include happly

theorem exec_stageApplyDone_loader (hloader : s.upd.recov = 1) :
    exec .stageApplyDone s = .next (s.loaderEnd State.loaderGo) := by
  simp only [exec, execStageApplyDone, happly, hloader, if_true]

section
variable (hfirmware : s.upd.recov ≠ 1)
include hfirmware

theorem exec_stageApplyDone_stopped (hstop : s.mustStop 0 = true) :
    exec .stageApplyDone s = .next ((s.modUpd (fun u => { u with apply := none })).failStopped k 0) := by
  simp only [exec, execStageApplyDone, happly, if_neg hfirmware, if_pos hstop]

theorem exec_stageApplyDone_applies (hgo : s.mustStop 0 = false) : exec .stageApplyDone s = .next (s.stageApply k) := by
  simp only [exec, execStageApplyDone, happly, if_neg hfirmware, hgo, Bool.false_eq_true, if_false]

end

end

end

/-- Settles O40, row by row: the clocks, the RTC, the watchdogs, the resets and the boot that follows, option writes, boot service,
the scrubber. Where the rules leave a point open, the clauses rest on the model's choices: log 184 (no REFLOST in a bring-up), 103
(an expiry follows its half period), 102 (the erase of a copy, the bytes of a failed write), 104 (how a package
travels), 90 (the reset history) and 195 (a bank found unfit loads nothing). -/
theorem clockResetWatchdogAndBootCommandsActAsTheTablesSay : Obligations.ClockResetWatchdogAndBootCommandsActAsTheTablesSay := by
  unfold Obligations.ClockResetWatchdogAndBootCommandsActAsTheTablesSay
  refine ⟨?refLost, ?refBringUp, ?fault, ?refOther, ?rpll, ?core, ?sys, ?serdes, ?relock, ?relockFails, ?usbPll, ?rtcLoss,
    ?rtcRestore, ?secDead, ?secSynced, ?secFree, ?secWrite, ?resetN, ?resetNEnd, ?kickForeign, ?kick, ?kickBad, ?half, ?halfNone,
    ?expiry, ?expiryNone, ?swrstForeign, ?swrst, ?swrstIgnored, ?takeNone, ?takeSevere, ?takeBringUp, ?takeIslands, ?severe,
    ?rails, ?releaseWaits, ?releaseL2, ?releaseL1, ?releaseL0, ?boot, ?start, ?unfit, ?drain, ?drainNone, ?endNone, ?endBringUp,
    ?endConfigures, ?optForeign, ?optBusy, ?opt, ?optDoneNone, ?optDone, ?optFails, ?bootReq, ?bootReqNone, ?bootRx,
    ?bootRxNone, ?applyNone, ?applyLoader, ?applyStopped, ?apply, ?scrub, ?scrubNone⟩
  case refLost => exact fun s => exec_referenceLoss_lost
  case refBringUp => exact fun s k => exec_referenceLoss_bringUp
  case fault => exact fun s => ⟨clockFault_requests, fun k => clockFault_bringUp⟩
  case refOther => exact fun s => exec_referenceLoss_other
  case rpll => exact fun s => rfl
  case core => exact fun s => rfl
  case sys => exact fun s => rfl
  case serdes => exact fun s => rfl
  case relock => exact fun good s hgood => congrArg Host.Outcome.next (if_pos hgood)
  case relockFails => exact fun good s hbad => congrArg Host.Outcome.next (if_neg (by simp [hbad]))
  case usbPll => exact fun s => rfl
  case rtcLoss => exact fun s => rfl
  case rtcRestore => exact fun s => rfl
  case secDead => exact fun s hdead hparked => congrArg Host.Outcome.next (if_pos (by simp [hdead, hparked]))
  case secSynced => exact fun s => exec_rtcSecond_synced
  case secFree => exact fun s => exec_rtcSecond_free
  case secWrite => exact fun who value s hok => congrArg Host.Outcome.next (regDo_ok hok)
  case resetN => exact fun s => rfl
  case resetNEnd => exact fun s => rfl
  case kickForeign =>
    exact fun who k value s hok hother => congrArg Host.Outcome.next ((regDo_ok hok).trans (wdtKick_foreign hother))
  case kick =>
    exact fun who k value s hok hown hkey => congrArg Host.Outcome.next ((regDo_ok hok).trans (wdtKick_key hown hkey))
  case kickBad =>
    exact fun who k value s hok hown hbad => congrArg Host.Outcome.next ((regDo_ok hok).trans (wdtKick_wrongKey hown hbad))
  case half => exact fun k s => exec_wdtHalfPeriod_warns
  case halfNone => exact fun k s => exec_wdtHalfPeriod_stopped
  case expiry => exact fun k s => exec_wdtExpiry_requests
  case expiryNone => exact fun k s => exec_wdtExpiry_ignored
  case swrstForeign =>
    exact fun who value s hok hother => congrArg Host.Outcome.next ((regDo_ok hok).trans (swrst_foreign hother))
  case swrst =>
    exact fun who value s hok hown hkey => congrArg Host.Outcome.next ((regDo_ok hok).trans (swrst_requests hown hkey))
  case swrstIgnored =>
    exact fun who value s hok hown hbad => congrArg Host.Outcome.next ((regDo_ok hok).trans (swrst_ignored hown hbad))
  case takeNone => exact fun s hnone => congrArg Host.Outcome.next (rstTake_none hnone)
  case takeSevere =>
    exact fun s level t hsome hlevel ht hsevere => congrArg Host.Outcome.next (rstTake_severe hsome hlevel ht hsevere)
  case takeBringUp =>
    exact fun s level t hsome hlevel ht hl3 hbring => congrArg Host.Outcome.next (rstTake_bringUp hsome hlevel ht hl3 hbring)
  case takeIslands =>
    exact fun s level t hsome hlevel ht hl3 hbring => congrArg Host.Outcome.next (rstTake_islands hsome hlevel ht hl3 hbring)
  case severe =>
    intro s srcs level lv t u hlv ht hu
    refine ⟨rstSevereTake_l2 hlv ht hu, fun h1 hplain => ?_, fun h0 hplain => ?_⟩
    · rw [rstSevereTake_deep hlv ht hu (by omega) hplain, if_neg (by omega), h1]
    · rw [rstSevereTake_deep hlv ht hu (by omega) hplain, if_pos h0, h0]
  case rails => exact fun s srcs => ⟨rstRails_first, rstRails_second, rstRails_keeps⟩
  case releaseWaits => exact fun straps s => exec_stewardRelease_waits
  case releaseL2 => exact fun straps s => exec_stewardRelease_l2
  case releaseL1 => exact fun straps s => exec_stewardRelease_l1
  case releaseL0 => exact fun straps s t hmay hbring ht => exec_stewardRelease_l0 hmay hbring ht
  case boot =>
    intro s fresh u bad t hopt ht
    refine ⟨bootRun_service hopt ht, bootRun_peer hopt ht, fun hsel v b fb hchoose => ?_, fun hsel v fb hchoose => ?_,
      fun hsel hfresh v b fb hchoose => ?_⟩
    · exact bootRun_bank (alt := false) hopt ht (by omega) (by simp [hsel]) hchoose
    · exact bootRun_noBank (alt := false) hopt ht (by omega) (by simp [hsel]) hchoose
    · exact bootRun_bank (alt := true) hopt ht (by omega) (by simp [hsel, hfresh]) hchoose
  case start => exact fun s bad fb t u ht hu => ⟨fun b c n => stewStart_unfit ht hu, stewStart_loads ht hu⟩
  case unfit => exact fun s b w hbank hbit => updUnfit_reports hbit hbank rfl rfl
  case drain => exact fun i s hdrains => congrArg Host.Outcome.next (if_pos hdrains)
  case drainNone => exact fun i s hno => congrArg Host.Outcome.next (if_neg hno)
  case endNone => exact fun i s hno => congrArg Host.Outcome.next (if_pos hno)
  case endBringUp => exact fun i s t => exec_l3ResetEnd_bringUp
  case endConfigures => exact fun i s t v hended ht hbring hv => exec_l3ResetEnd_configures hended ht hbring hv
  case optForeign =>
    exact fun who s hok hother => congrArg Host.Outcome.next ((regDo_ok hok).trans (optWrite_foreign hother))
  case optBusy =>
    exact fun who s hok hown hbusy => congrArg Host.Outcome.next ((regDo_ok hok).trans (optWrite_busy hown hbusy))
  case opt => exact fun who s hok hown hidle => congrArg Host.Outcome.next ((regDo_ok hok).trans (optWrite_erases hown hidle))
  case optDoneNone => exact fun good s hidle => congrArg Host.Outcome.next (if_pos (by simp [hidle]))
  case optDone =>
    rintro _ s t hbusy rfl ht
    exact exec_optWriteDone_ends (good := true) hbusy ht
  case optFails =>
    rintro _ s t hbusy rfl ht
    exact exec_optWriteDone_ends (good := false) hbusy ht
  case bootReq => exact fun l s => exec_bootReqSend_asks
  case bootReqNone => exact fun l s => exec_bootReqSend_silent
  case bootRx => exact fun l s t u => exec_bootReqRx_serves
  case bootRxNone => exact fun l s => exec_bootReqRx_ignored
  case applyNone => exact fun s hnone => by simp only [exec, execStageApplyDone, hnone]
  case applyLoader => exact fun s k => exec_stageApplyDone_loader
  case applyStopped => exact fun s k => exec_stageApplyDone_stopped
  case apply => exact fun s k => exec_stageApplyDone_applies
  case scrub => exact fun s hen hup => congrArg Host.Outcome.next (if_pos (by simp [hen, hup]))
  case scrubNone =>
    exact fun s hno => congrArg Host.Outcome.next (if_neg (by rcases hno with h | h <;> simp [h]))

end Sys2Proof.Machine
end
-- ==== Sys2Proof/Proofs/DebugPort.lean ====
section
/-! PROOF. The debug port (R486 to R494, R497): what a transaction's access is, what it answers, what a core's requests do. -/
namespace Sys2Proof.Machine

/-! The window as the port reaches it (R487). -/

theorem dbgCore_ctrl (c : CoreId) : dbgCore (0x100 + 0x80 * c.num) = some c := by cases c <;> rfl

theorem dbgCore_rdata (c : CoreId) : dbgCore (0x10C + 0x80 * c.num) = some c := by cases c <;> rfl

section
variable {s t : State} {w : Word} {o : Nat}

theorem portWrite_refused (hno : s.dbgMay false o = false) : s.portWrite o w = none :=
  if_pos (by simp [hno])

theorem portWrite_ctrl {c : CoreId} (hmay : s.dbgMay false (0x100 + 0x80 * c.num) = true) :
    s.portWrite (0x100 + 0x80 * c.num) w = some (s.dbgCtrl c w) := by
  refine (if_neg (by simp [hmay])).trans ?_
  cases c <;> rfl

theorem portWrite_rdata {c : CoreId} (hmay : s.dbgMay false (0x10C + 0x80 * c.num) = true) :
    s.portWrite (0x10C + 0x80 * c.num) w = s.dbgWrite c w := by
  refine (if_neg (by simp [hmay])).trans ?_
  cases c <;> rfl

theorem portWrite_rst (hmay : s.dbgMay false 0xC = true) : s.portWrite 0xC w = some (s.dbgRst w.toNat) :=
  (if_neg (by simp [hmay])).trans rfl

theorem portWrite_evt {q : RegDef} (hmay : s.dbgMay false 8 = true) (hreg : regAt A.DBG_EVT = some q) :
    s.portWrite 8 w = some (s.plainWrite q A.DBG_EVT w) :=
  (if_neg (by simp [hmay])).trans (congrArg (Option.map (fun r => s.plainWrite r A.DBG_EVT w)) hreg)

theorem portRead_refused (hno : s.dbgMay true o = false) : s.portRead o = (s, none) :=
  if_pos (by simp [hno])

theorem portRead_rdata {c : CoreId} (hmay : s.dbgMay true (0x10C + 0x80 * c.num) = true) :
    s.portRead (0x10C + 0x80 * c.num) = s.dbgRead c := by
  refine (if_neg (by simp [hmay])).trans ?_
  cases c <;> rfl

theorem portRead_mem (hmay : s.dbgMay true 0x14 = true) : s.portRead 0x14 = s.dbgMemRead :=
  (if_neg (by simp [hmay])).trans rfl

/-! What an access answers (R486). -/

theorem portReadT_data (hread : s.portRead o = (t, some w)) : s.portReadT o = t.ack 1 (some w) := by
  simp only [State.portReadT, hread]

theorem portReadT_fault (hread : s.portRead o = (t, none)) : s.portReadT o = t.ack 4 none := by
  simp only [State.portReadT, hread]

theorem portWriteT_badParity :
    s.portWriteT o w false = if (s.portWrite o w).isSome then (s.ack 1 none).setF F.DBG_STAT_PARERR 1 else s.ack 4 none :=
  rfl

section
variable (hplain : o ≠ 0x14 ∨ s.dbgMay false 0x14 = false)
include hplain

/-- A write that is not DBG_MEM_DATA's. -/
theorem not_memAccess : ¬(o = 0x14 ∧ s.dbgMay false o = true) := by
  rintro ⟨rfl, hmay⟩
  exact hplain.elim (fun h => h rfl) (fun h => Bool.false_ne_true (h.symm.trans hmay))

theorem portWriteT_done (hwrite : s.portWrite o w = some t) : s.portWriteT o w true = t.ack 1 none := by
  refine (if_neg (by decide)).trans ((if_neg (not_memAccess hplain)).trans ?_)
  simp only [hwrite]

theorem portWriteT_fault (hwrite : s.portWrite o w = none) : s.portWriteT o w true = s.ack 4 none := by
  refine (if_neg (by decide)).trans ((if_neg (not_memAccess hplain)).trans ?_)
  simp only [hwrite]

end

theorem portWriteT_refused (hno : s.dbgMay false o = false) : s.portWriteT o w true = s.ack 4 none := by
  refine portWriteT_fault ?_ (portWrite_refused hno)
  by_cases ho : o = 0x14
  · exact .inr (ho ▸ hno)
  · exact .inl ho

theorem portWriteT_mem (hmay : s.dbgMay false 0x14 = true) :
    s.portWriteT 0x14 w true = (s.dbgMemWrite w).1.ack (if (s.dbgMemWrite w).2 then 1 else 4) none := by
  refine (if_neg (by decide)).trans ((if_pos ⟨rfl, hmay⟩).trans ?_)
  rcases s.dbgMemWrite w with ⟨u, _ | _⟩ <;> rfl

theorem portPut_off (hoff : s.islandUp 13 = false) : s.portPut o w = s :=
  if_neg (by simp [hoff])

theorem portPut_on (hon : s.islandUp 13 = true) : s.portPut o w = s.portWriteT o w true :=
  if_pos hon

/-- A core's CTRL, through the port. -/
theorem portPut_ctrl {c : CoreId} (hon : s.islandUp 13 = true) (hmay : s.dbgMay false (0x100 + 0x80 * c.num) = true) :
    s.portPut (0x100 + 0x80 * c.num) w = (s.dbgCtrl c w).ack 1 none :=
  (portPut_on hon).trans (portWriteT_done (.inl (by omega)) (portWrite_ctrl hmay))

theorem portPut_refused (hon : s.islandUp 13 = true) (hno : s.dbgMay false o = false) : s.portPut o w = s.ack 4 none :=
  (portPut_on hon).trans (portWriteT_refused hno)

/-! A transaction (R486). -/

section
variable {rnw hpar dpar : Bool} {addr : BitVec 8}

theorem exec_dbgTransaction_off (hoff : s.islandUp 13 = false) : exec (.dbgTransaction rnw addr hpar w dpar) s = .next s :=
  congrArg Host.Outcome.next (if_pos (by simp [hoff]))

section
variable (hon : s.islandUp 13 = true)
include hon

theorem exec_dbgTransaction_badHeader (hbad : (parityOf 8 addr.toNat != rnw) ≠ hpar) :
    exec (.dbgTransaction rnw addr hpar w dpar) s = .next (s.setF F.DBG_STAT_PARERR 1) :=
  congrArg Host.Outcome.next ((if_neg (by simp [hon])).trans (if_pos (bne_iff_ne.2 hbad)))

theorem exec_dbgTransaction_read (hgood : (parityOf 8 addr.toNat != true) = hpar) :
    exec (.dbgTransaction true addr hpar w dpar) s = .next (s.portReadT (4 * addr.toNat)) := by
  subst hgood
  exact congrArg Host.Outcome.next ((if_neg (by simp [hon])).trans ((if_neg (by simp)).trans (if_pos rfl)))

theorem exec_dbgTransaction_write (hgood : (parityOf 8 addr.toNat != false) = hpar) {good : Bool}
    (hdata : (parityOf 32 w.toNat == dpar) = good) :
    exec (.dbgTransaction false addr hpar w dpar) s = .next (s.portWriteT (4 * addr.toNat) w good) := by
  subst hgood hdata
  exact congrArg Host.Outcome.next ((if_neg (by simp [hon])).trans ((if_neg (by simp)).trans (if_neg (by decide))))

end

end

/-! A core's requests (R488, R491). -/

section
variable {c : CoreId}

section
variable (ht : t = s.plainKeep (A.DBG_CORE_CTRL c.num) w [])
include ht

/-- CTRL runs its three requests in turn. -/
theorem dbgCtrl_eq : s.dbgCtrl c w = (((t.when (bit w.toNat 0) (fun s => s.dbgHaltReq c)).when (bit w.toNat 1)
    (fun s => s.dbgResume c)).when (bit w.toNat 2) (fun s => s.dbgStep c)) := by
  subst ht
  rfl

theorem dbgCtrl_halt (h0 : bit w.toNat 0 = true) (h1 : bit w.toNat 1 = false) (h2 : bit w.toNat 2 = false) :
    s.dbgCtrl c w = t.dbgHaltReq c := by
  rw [dbgCtrl_eq ht, h0, h1, h2]
  rfl

theorem dbgCtrl_resume (h0 : bit w.toNat 0 = false) (h1 : bit w.toNat 1 = true) (h2 : bit w.toNat 2 = false) :
    s.dbgCtrl c w = t.dbgResume c := by
  rw [dbgCtrl_eq ht, h0, h1, h2]
  rfl

theorem dbgCtrl_step (h0 : bit w.toNat 0 = false) (h1 : bit w.toNat 1 = false) (h2 : bit w.toNat 2 = true) :
    s.dbgCtrl c w = t.dbgStep c := by
  rw [dbgCtrl_eq ht, h0, h1, h2]
  rfl

theorem dbgCtrl_none (h0 : bit w.toNat 0 = false) (h1 : bit w.toNat 1 = false) (h2 : bit w.toNat 2 = false) : s.dbgCtrl c w = t := by
  rw [dbgCtrl_eq ht, h0, h1, h2]
  rfl

end

theorem dbgHaltReq_halts (hruns : (s.core c).run = .running ∨ (s.core c).run = .waiting) : s.dbgHaltReq c = s.dbgHalt c 1 0 := by
  rcases hruns with h | h <;> simp only [State.dbgHaltReq, h]

theorem dbgHaltReq_ignored (hnotRun : (s.core c).run ≠ .running) (hnotWait : (s.core c).run ≠ .waiting) : s.dbgHaltReq c = s := by
  unfold State.dbgHaltReq
  split
  · next h => exact absurd h hnotRun
  · next h => exact absurd h hnotWait
  · rfl

section
variable (hhalted : (s.core c).run = .halted) (ht : t = (s.haltGap c).dbgOne c)
include hhalted ht

theorem dbgStep_halts (hnotFault : (t.core c).run ≠ .xfault) (hnotMismatch : (t.core c).run ≠ .mismatch) :
    s.dbgStep c = t.dbgHalt c 2 0 := by
  subst ht
  refine (if_neg (not_not.2 hhalted)).trans ?_
  dsimp only
  split
  · next h => exact absurd h hnotFault
  · next h => exact absurd h hnotMismatch
  · rfl

theorem dbgStep_stops (hstopped : (t.core c).run = .xfault ∨ (t.core c).run = .mismatch) :
    s.dbgStep c = (t.setFbit F.DBG_STAT_HALTED c.num false).setReg (A.DBG_CORE_STAT c.num) 0#32 := by
  subst ht
  refine (if_neg (not_not.2 hhalted)).trans ?_
  rcases hstopped with h | h <;> simp only [h]

end

/-! The register that RSEL selects (R490). -/

section
variable {n : Nat} (hn : n = s.f (F.DBG_CORE_RSEL_REG c.num))
include hn

theorem rdata_none (hno : (s.core c).run ≠ .halted ∨ 64 < n) : s.dbgRead c = (s, none) ∧ s.dbgWrite c w = none := by
  subst hn
  by_cases hrun : (s.core c).run = .halted
  · have hbig := hno.resolve_left (not_not.2 hrun)
    exact ⟨(if_neg (not_not.2 hrun)).trans ((if_neg (by omega)).trans ((if_neg (by omega)).trans (if_neg (by omega)))),
      (if_neg (not_not.2 hrun)).trans ((if_neg (by omega)).trans ((if_neg (by omega)).trans (if_neg (by omega))))⟩
  · exact ⟨if_pos hrun, if_pos hrun⟩

section
variable (hhalted : (s.core c).run = .halted)
include hhalted

theorem rdata_general (hlt : n < 32) :
    s.dbgRead c = (s, some ((s.core c).rd (Fin.ofNat 32 n))) ∧
      s.dbgWrite c w = some (s.setCore c ((s.core c).wr (Fin.ofNat 32 n) w)) := by
  subst hn
  exact ⟨(if_neg (not_not.2 hhalted)).trans (if_pos hlt), (if_neg (not_not.2 hhalted)).trans (if_pos hlt)⟩

theorem rdata_special (hge : 32 ≤ n) (hlt : n < 64) :
    s.dbgRead c = (s, some (s.srRead c (n - 32))) ∧ s.dbgWrite c w = some (s.srWrite c 2 (n - 32) w) := by
  subst hn
  exact ⟨(if_neg (not_not.2 hhalted)).trans ((if_neg (Nat.not_lt.2 hge)).trans (if_pos hlt)),
    (if_neg (not_not.2 hhalted)).trans ((if_neg (Nat.not_lt.2 hge)).trans (if_pos hlt))⟩

theorem rdata_pc (hpc : n = 64) :
    s.dbgRead c = (s, some (s.core c).pc) ∧ s.dbgWrite c w = some (s.setCore c { s.core c with pc := w }) := by
  subst hn
  exact ⟨(if_neg (not_not.2 hhalted)).trans ((if_neg (by omega)).trans ((if_neg (by omega)).trans (if_pos hpc))),
    (if_neg (not_not.2 hhalted)).trans ((if_neg (by omega)).trans ((if_neg (by omega)).trans (if_pos hpc)))⟩

end

end

end

/-! DBG_MEM_DATA (R493). -/

section
variable {a : Nat} (ha : a = (s.reg A.DBG_MEM_ADDR).toNat)
include ha

theorem dbgMemRead_misaligned (hodd : a % 4 ≠ 0) : s.dbgMemRead = (s.busErr .debug, none) := by
  subst ha
  exact if_pos hodd

section
variable (heven : a % 4 = 0)
include heven

theorem dbgMemRead_data {v : Nat} (hread : s.busRead .debug a 4 = (t, .ok v)) : s.dbgMemRead = (t.memInc, some (toW v)) := by
  subst ha
  refine (if_neg (not_not.2 heven)).trans ?_
  simp only [hread]

section
variable {u : State} (hu : u = (s.setF F.DBG_STAT_BUSERR 0).busWrite .debug a 4 w.toNat)
include hu

theorem dbgMemWrite_done (hok : u.flag F.DBG_STAT_BUSERR = false) :
    s.dbgMemWrite w = ((u.setF F.DBG_STAT_BUSERR (s.f F.DBG_STAT_BUSERR)).memInc, true) := by
  subst ha hu
  simp only [State.dbgMemWrite, if_pos heven, hok, Bool.false_eq_true, if_false]

theorem dbgMemWrite_busError (hbad : u.flag F.DBG_STAT_BUSERR = true) : s.dbgMemWrite w = (u, false) := by
  subst ha hu
  simp only [State.dbgMemWrite, if_pos heven, hbad, if_true]

end

end

end

end

end Sys2Proof.Machine
end
-- ==== Sys2Proof/Proofs/DebugRows.lean ====
section
/-! PROOF. The debug port's rows and boundary scan (R486 to R497): DBG_RST, DBG_EVT, the TAP; the statement. -/
namespace Sys2Proof.Machine

section
variable {s : State}

theorem exec_dbgRst_taken {v : Word} (hon : s.islandUp 13 = true) (hmay : s.dbgMay false 0xC = true) :
    exec (.dbgRst v) s = .next ((s.dbgRst v.toNat).ack 1 none) :=
  congrArg Host.Outcome.next ((portPut_on hon).trans (portWriteT_done (.inl (by decide)) (portWrite_rst hmay)))

theorem exec_dbgEvtWrite_core {who : Who} {v : Word} (hcore : who ≠ .debug) :
    exec (.dbgEvtWrite who v) s = .next (s.regWrite who A.DBG_EVT v) := by
  cases who
  case debug => exact absurd rfl hcore
  all_goals rfl

/-! Boundary scan (R495). -/

section
variable {i : TapIr} {on : Bool}

theorem tapDrive_held (hheld : s.testHeld = true) :
    s.tapDrive i on = (s.tap i).emit (.balls on) (if on then leBytes 35 s.dbg.cells else []) :=
  if_pos hheld

theorem tapDrive_bypass (hfree : s.testHeld = false) : s.tapDrive i on = s.tap .bypass :=
  if_neg (Bool.eq_false_iff.1 hfree)

end

end

/-- Settles O43, row by row: a transaction and its answer, the requests of a core, its registers, the memory access, the reset, the
events, the TAP. Where the rules leave a point open, the clauses rest on the model's choices: log 92 (an access completes in its
transaction), 93 (FAULT without a grant, parity after OK, silence while the island is off), 94 and 95 (EXTEST, CLAMP and HIGHZ
without the hold act as BYPASS). -/
theorem debugPortAndBoundaryScanCommandsActAsTheTablesSay : Obligations.DebugPortAndBoundaryScanCommandsActAsTheTablesSay := by
  unfold Obligations.DebugPortAndBoundaryScanCommandsActAsTheTablesSay
  refine ⟨?off, ?badHeader, ?read, ?readFault, ?badData, ?write, ?writeFault, ?writeMem, ?lineReset, ?haltOff, ?halt, ?haltNo,
    ?resumeOff, ?resume, ?resumeNo, ?stepOff, ?step, ?stepNo, ?ctrl, ?requests, ?stepEnds, ?rdataPut, ?rdataPutNo, ?rdataGet,
    ?rdataGetNo, ?rdataOff, ?rsel, ?memOff, ?memPut, ?memGet, ?memNo, ?mem, ?rst, ?rstIgnored, ?rstNo, ?rstOff, ?evtCore, ?evt,
    ?evtNo, ?tapReset, ?idcode, ?sample, ?extest, ?extestFree, ?clamp, ?clampFree, ?highz, ?highzFree, ?bypass⟩
  case off => exact fun rnw addr hpar data dpar s => exec_dbgTransaction_off
  case badHeader => exact fun rnw addr hpar data dpar s => exec_dbgTransaction_badHeader
  case read =>
    rintro _ addr hpar data dpar s t w hon hgood rfl hread
    exact (exec_dbgTransaction_read hon hgood).trans (congrArg Host.Outcome.next (portReadT_data hread))
  case readFault =>
    rintro _ addr hpar data dpar s t hon hgood rfl hread
    exact (exec_dbgTransaction_read hon hgood).trans (congrArg Host.Outcome.next (portReadT_fault hread))
  case badData =>
    rintro _ addr hpar data dpar s hon hgood rfl hdata
    exact exec_dbgTransaction_write hon hgood hdata
  case write =>
    rintro _ addr hpar data dpar s t hon hgood rfl hdata hplain hwrite
    exact (exec_dbgTransaction_write hon hgood hdata).trans (congrArg Host.Outcome.next (portWriteT_done hplain hwrite))
  case writeFault =>
    rintro _ addr hpar data dpar s hon hgood rfl hdata hno
    exact (exec_dbgTransaction_write hon hgood hdata).trans (congrArg Host.Outcome.next (portWriteT_refused hno))
  case writeMem =>
    rintro _ addr hpar data dpar s hon hgood rfl hdata haddr hmay
    refine (exec_dbgTransaction_write hon hgood hdata).trans (congrArg Host.Outcome.next ?_)
    rw [haddr]
    exact portWriteT_mem hmay
  case lineReset => exact fun s => rfl
  case haltOff => exact fun c s hoff => congrArg Host.Outcome.next (portPut_off hoff)
  case halt => exact fun c s hon hmay => congrArg Host.Outcome.next (portPut_ctrl hon hmay)
  case haltNo => exact fun c s hon hno => congrArg Host.Outcome.next (portPut_refused hon hno)
  case resumeOff => exact fun c s hoff => congrArg Host.Outcome.next (portPut_off hoff)
  case resume => exact fun c s hon hmay => congrArg Host.Outcome.next (portPut_ctrl hon hmay)
  case resumeNo => exact fun c s hon hno => congrArg Host.Outcome.next (portPut_refused hon hno)
  case stepOff => exact fun c s hoff => congrArg Host.Outcome.next (portPut_off hoff)
  case step => exact fun c s hon hmay => congrArg Host.Outcome.next (portPut_ctrl hon hmay)
  case stepNo => exact fun c s hon hno => congrArg Host.Outcome.next (portPut_refused hon hno)
  case ctrl => exact fun s c w t ht => ⟨dbgCtrl_halt ht, dbgCtrl_resume ht, dbgCtrl_step ht, dbgCtrl_none ht⟩
  case requests =>
    exact fun s c => ⟨dbgHaltReq_halts, dbgHaltReq_ignored, fun hhalted => if_pos hhalted,
      fun hother => ⟨if_neg hother, if_pos hother⟩⟩
  case stepEnds => exact fun s c t hhalted ht => ⟨dbgStep_halts hhalted ht, dbgStep_stops hhalted ht⟩
  case rdataPut =>
    rintro c _ s w t rfl hon hmay hwrite
    exact congrArg Host.Outcome.next ((portPut_on hon).trans
      (portWriteT_done (.inl (by omega)) ((portWrite_rdata hmay).trans hwrite)))
  case rdataPutNo =>
    rintro c _ s w rfl hon hno
    refine congrArg Host.Outcome.next ((portPut_on hon).trans (portWriteT_fault (.inl (by omega)) ?_))
    cases hmay : s.dbgMay false (0x10C + 0x80 * c.num)
    · exact portWrite_refused hmay
    · exact (portWrite_rdata hmay).trans (hno.resolve_left (by simp [hmay]))
  case rdataGet =>
    rintro c _ s w t rfl hon hmay hread
    exact congrArg Host.Outcome.next ((if_pos hon).trans (portReadT_data ((portRead_rdata hmay).trans hread)))
  case rdataGetNo =>
    rintro c _ s t rfl hon hmay hread
    exact congrArg Host.Outcome.next ((if_pos hon).trans (portReadT_fault ((portRead_rdata hmay).trans hread)))
  case rdataOff =>
    rintro c (_ | w) s hoff
    · exact congrArg Host.Outcome.next (if_neg (by simp [hoff]))
    · exact congrArg Host.Outcome.next (portPut_off hoff)
  case rsel =>
    exact fun s c n w hn => ⟨rdata_none hn, rdata_general hn, rdata_special hn, rdata_pc hn⟩
  case memOff =>
    rintro (_ | w) s hoff
    · exact congrArg Host.Outcome.next (if_neg (by simp [hoff]))
    · exact congrArg Host.Outcome.next (portPut_off hoff)
  case memPut =>
    rintro _ s w rfl hon hmay
    exact congrArg Host.Outcome.next ((portPut_on hon).trans (portWriteT_mem hmay))
  case memGet =>
    rintro _ s rfl hon hmay
    refine congrArg Host.Outcome.next ((if_pos hon).trans ?_)
    rcases hread : s.dbgMemRead with ⟨t, _ | w⟩
    · exact portReadT_fault ((portRead_mem hmay).trans hread)
    · exact portReadT_data ((portRead_mem hmay).trans hread)
  case memNo =>
    rintro (_ | w) s hon hno
    · exact congrArg Host.Outcome.next ((if_pos hon).trans (portReadT_fault (portRead_refused hno)))
    · exact congrArg Host.Outcome.next (portPut_refused hon hno)
  case mem =>
    exact fun s t u v w a ha =>
      ⟨dbgMemRead_misaligned ha, fun heven hread => dbgMemRead_data ha heven hread,
        fun heven hu hok => dbgMemWrite_done ha heven hu hok, fun heven hu hbad => dbgMemWrite_busError ha heven hu hbad⟩
  case rst => exact fun v s hon hmay hkey => (exec_dbgRst_taken hon hmay).trans (by rw [State.dbgRst, if_pos hkey])
  case rstIgnored => exact fun v s hon hmay hbad => (exec_dbgRst_taken hon hmay).trans (by rw [State.dbgRst, if_neg hbad])
  case rstNo => exact fun v s hon hno => congrArg Host.Outcome.next (portPut_refused hon hno)
  case rstOff => exact fun v s hoff => congrArg Host.Outcome.next (portPut_off hoff)
  case evtCore => exact fun who v s => exec_dbgEvtWrite_core
  case evt =>
    rintro _ v s q rfl hon hmay hreg
    exact congrArg Host.Outcome.next ((portPut_on hon).trans (portWriteT_done (.inl (by decide)) (portWrite_evt hmay hreg)))
  case evtNo =>
    rintro _ v s rfl hon hno
    exact congrArg Host.Outcome.next (portPut_refused hon hno)
  case tapReset => exact fun s => rfl
  case idcode => exact fun s => rfl
  case sample => exact fun balls load s => rfl
  case extest => exact fun s hheld => congrArg Host.Outcome.next (tapDrive_held hheld)
  case extestFree => exact fun s hfree => congrArg Host.Outcome.next (tapDrive_bypass hfree)
  case clamp => exact fun s hheld => congrArg Host.Outcome.next (tapDrive_held hheld)
  case clampFree => exact fun s hfree => congrArg Host.Outcome.next (tapDrive_bypass hfree)
  case highz => exact fun s hheld => congrArg Host.Outcome.next (tapDrive_held hheld)
  case highzFree => exact fun s hfree => congrArg Host.Outcome.next (tapDrive_bypass hfree)
  case bypass => exact fun s => rfl

end Sys2Proof.Machine
end
